-- ==== Sys2Proof/Word.lean ====
section
/-!
DEFINITION. The word types of the KZ9640 model and their plainest arithmetic: bytes, register words, and the
little-endian and big-endian reading of byte lists (00_scope.md, Notation: multi-byte fields in host memory are
little-endian; broadcast-borne formats are big-endian).
-/

namespace Sys2Proof

/-- A byte. -/
abbrev Byte := BitVec 8

/-- A 32-bit register word. -/
abbrev W := BitVec 32

/-- A 64-bit word: bus addresses and device time. -/
abbrev D := BitVec 64

/-- A race sample (R83): a pair of 24-bit two's-complement values, I and Q. -/
abbrev RaceIQ := BitVec 24 × BitVec 24

/-- A complex value (I, Q) inside a filter chain, in race LSBs; the operation that makes it keeps it within its stage's width. -/
abbrev IQ := Int × Int

end Sys2Proof
end

