-- ==== Sys2Proof/Syntax.lean ====
section
/-!
DEFINITION. The commands and events that reach the block: ONE constructor of `Instr` for each row of
spec/opcode_table.json, with the row's operands. An operand is what comes from outside the device (a command entry, a
register write, a measurement, a received unit); everything else a step needs is in the State.
-/

namespace Sys2Proof

/-- A ring 0 command entry as the Hopper fetched it (R50, the table before it), without the OPCODE, which the
constructor fixes. `params` holds bytes 24 to 63, `buf` what a read of the host buffer returns when BUF_IN is used, and
`bufErr` says that the device's access to BUF ends in an error completion (R524). `id` numbers the fetches of the Hopper in
ring order, so that two commands fetched from one slot stay apart (R26). -/
structure CmdEntry where
  slot : BitVec 16
  tag : W
  plen : Byte
  flags : Byte
  bufAddr : D
  bufLen : W
  rsvd : W
  params : List Byte
  buf : List Byte
  bufErr : Bool
  id : Nat
  deriving DecidableEq, Repr

/-- An HCI entry of ring 3 (the table before R65): LEN, TYPE and the packet bytes. -/
structure HciEntry where
  len : BitVec 16
  type : Byte
  packet : List Byte
  deriving DecidableEq, Repr

/-- What an HCI command asks of the controller, of what the spec gives it (R299, R312, R327, R338, R351); which packet is which
the model reads from its opcode and parameters (`hciKind`). An address is its type and 6 bytes. -/
inductive HciKind where
  | reset
  | advStart | advStop | scanStart | scanStop
  | advSet (handle : Byte) (power : Int) | advSetRemove (handle : Byte) | advSetsClear
  | acceptAdd (addr : Byte × List Byte) | acceptRemove (addr : Byte × List Byte) | acceptClear
  | resolvAdd (addr : Byte × List Byte) | resolvRemove (addr : Byte × List Byte) | resolvClear
  | connect
  | disconnect (handle : BitVec 16)
  | csStart | csStop
  | readRssi (handle : BitVec 16)
  | chanClass (chans : List Nat)
  | bufferSize (v2 : Bool) | features
  | unsupported
  | other
  deriving DecidableEq, Repr

/-- What an HCI command meets that its packet does not hold: the handle and access address that the link layer gives a connection, the
slot whose LTK its peer holds, the antenna path of an advertising set, and the replies of the Bluetooth Core Specification to a command
that changes nothing the spec names. -/
structure HciObs where
  handle : BitVec 16
  aa : W
  slot : Option (Fin 64)
  path : Fin 4
  reply : List (Byte × List Byte)
  deriving DecidableEq, Repr

/-- The access to host memory that ended in an error completion (R524); `id` is the fetch of the command concerned. -/
inductive BusAccess where
  | ring0Read (slot : BitVec 16) (id : Nat)
  | ring3Read (slot : BitVec 16)
  | bufIn (id : Nat)
  | bufOut (id : Nat)
  | devRing (n : Fin 32)
  | source3Entry
  | dma (ch : Fin 16)
  deriving DecidableEq, Repr

/-- A write that changes what masks MSI-X vectors (R68): the mask bit of one vector is cleared, or the Message Control word is written with
the function mask as given, MSI-X Enable kept or cleared. -/
inductive MaskWrite where
  | vector (v : Fin 16)
  | control (fmask keepEnable : Bool)
  deriving DecidableEq, Repr

/-- A pair's kick of its watchdog (R470); `last` says that the pair stops or hangs after it (R25). -/
structure Kick where
  pair : Fin 2
  last : Bool
  deriving DecidableEq, Repr

/-- A read of a module record (R99, R100), none when the module does not answer, and whether a write of life copy A that follows it is
acknowledged and read back (R104). -/
structure ModuleRead where
  record : Option (List Byte)
  written : Bool
  deriving DecidableEq, Repr

/-- What the lane monitor adds up over the 65,536 samples of one lane in a block (R78): the 14-bit codes and their squares. -/
structure LaneStat where
  sum : Int
  squares : Nat
  deriving DecidableEq, Repr

/-- A race of a Headrace (R81). -/
inductive Race where
  | L | V | B
  deriving DecidableEq, Repr

/-- One block of 4,096 race samples at the blanker input (R87 to R92), with the samples just before and after it that its
windows reach. -/
structure BlankBlock where
  pre : List RaceIQ
  samples : List RaceIQ
  post : List RaceIQ
  deriving DecidableEq, Repr

/-- The race samples that have reached a window since the last event that brought some: one list for each leg position, oldest first, and
the ADC-period count at which the first of them left its race (R84, R119). -/
structure RaceIn where
  at_ : D
  legs : List (List RaceIQ)
  deriving DecidableEq, Repr

/-- One measurement of the scan bank (R137, R138): the power in 0.01 dBm at the RF_INn pin, the MPX or FLAT figure, the NULL figure,
and whether the scan bank had no credit for the measurement (R10). -/
structure ScanObs where
  level : Int
  mpx : Nat
  null : Nat
  skipped : Bool
  deriving DecidableEq, Repr

/-- What an FM or AM runner measures of its window output in 1 ms (R146, R147, R151, R164): the wanted signal's power in 0.01 dBm at the
RF_INn pin, CNR in 0.25 dB, multipath in 0.5 %, AM modulation depth in %, the neighbours that rise above the noise floor with their
offset in kHz and their ratio to the wanted signal in dB, the carrier's offset in 10 Hz on FM and Hz on AM, the peak deviation in kHz, the
pilot's injection in 0.1 % of 75 kHz, and whether there is modulation. -/
structure RunnerMetrics where
  power : Int
  cnr : Nat
  multipath : Nat
  depth : Nat
  adjacent : List (Int × Int)
  offset : Int
  deviation : Nat
  pilot : Nat
  modulated : Bool
  deriving DecidableEq, Repr

/-- 1 ms of demodulated or decoded audio before the runner's own processing. On FM 384 pairs (L + R)/2 and (L - R)/2 in units of which 2^22
stand for 75 kHz deviation (R146, R148); on AM 24 in-phase values, first of each pair, of which 2^22 stand for a modulation of 100 %
(R150); `at_` is the ADC-period count at which the first frame that comes of them is available (R149). On DAB and DRM one pair of 24-bit
values for each sample of the decoder's rate, the first one alone where the decoder's output is mono (R185, R206): millisecond `ix` of an
audio frame or access unit whose CRCs pass where `ok` holds; the logical or multiplex frame that holds that frame's start came `ago` frames
before the last complete one, and `pos` 48 kHz samples lie between that start and the unit's first. -/
structure AudioObs where
  at_ : D
  frames : List (Int × Int)
  mono : Bool
  ok : Bool
  ix : Nat
  ago : Nat
  pos : Nat
  deriving DecidableEq, Repr

/-- The offset word of an RDS block, as IEC 62106 names it. -/
inductive RdsOffset where
  | A | B | C | Cp | D | E
  deriving DecidableEq, Repr

/-- 26 successive bits of an RDS stream as the demodulator delivers them (R153 to R155), first bit most significant: the number of the
first of them, counted from the first bit of the baseband kept, the RF instant of that bit, and the open-data assignment that an RDS2
stream signals with the group they complete (R158). -/
structure RdsObs where
  bits : BitVec 26
  pos : Nat
  ts : D
  assign : Option (BitVec 16 × BitVec 5)
  deriving DecidableEq, Repr

/-- What a DAB frame brings (R168, R169, R172, R192): whether the PRS correlated at the expected position, the RF instant at which its null
symbol began, the 12 FIBs of 32 bytes that the convolutional code of EN 300 401 gives for the FIC, the power of every carrier in the null
symbol at each leg position, and the measurements of R192: power of each position in 0.01 dBm at the RF_INn pin, combined SNR, FIC channel
bit error ratio, echo power, carrier offset, delay spread, and SNR of each position. -/
structure DabFrameObs where
  prsOk : Bool
  ts : D
  fibs : List (List Byte)
  nulls : List (List Nat)
  powers : List Int
  snr : Nat
  ficBer : Nat
  echo : Nat
  offset : Int
  spread : Nat
  legSnr : List Nat
  deriving DecidableEq, Repr

/-- A CIF as a DAB runner receives it (R172, R177): its count, the RF instant at which its first symbol began, the number of the first
sample of the symbol before it among the samples that the window has delivered, at each leg position the carriers of that symbol and of its
18 symbols in the order of the frequency de-interleaver, and the X-PAD data groups that the audio frames of a subchannel hold. -/
structure DabCifObs where
  cif : BitVec 16
  ts : D
  first : Nat
  cells : List (List (List IQ))
  pad : List (Fin 64 × List Byte)
  deriving DecidableEq, Repr

/-- What a DRM frame brings (R198 to R203, R213): whether the time reference held; whether the FAC passed and what it says, with the short
IDs and the identifiers of the services that it lists; the outcome of an SDC, and its service and stream records in the layout of R215, the services whose
label and whose audio or application information it holds, its time, and the entities of types 3, 4, 7 and 11; the RF instant at which the
frame's first symbol began and that symbol's first sample among those that the window has delivered; at each leg position and in each
symbol the MSC cells with their carriers, and the gain reference cells with carrier, value received and value known; and the measurements
of R213. -/
structure DrmFrameObs where
  timeRefOk : Bool
  facOk : Bool
  firstOfSuper : Bool
  so : Byte
  longIl : Bool
  mscQam : Byte
  sdcQam : Byte
  nAudio : Byte
  nData : Byte
  reconf : Byte
  listed : List (Fin 4)
  facIds : List (List Byte)
  sdc : Option Bool
  services : List (Fin 4 × List Byte)
  streams : List (Fin 4 × List Byte)
  labels : List (Fin 4)
  infos : List (Fin 4)
  utc : Option (W × Byte)
  signal : List (List Byte)
  ts : D
  first : Nat
  cells : List (List (List (Nat × IQ)))
  gains : List (List (List (Nat × IQ × IQ)))
  powers : List Int
  mer : Nat
  wmer : Nat
  offset : Int
  spread : Nat
  doppler : Nat
  legMer : List Nat
  deriving DecidableEq, Repr

/-- What an estimator forms at a 1 s tick (R230 to R233): standard deviation and mean of the playing stream's envelope segment and of the
shadow's, in 0.01 dB and 0.01 dBFS; the normalised correlation in 0.01 at each coarse lag in ms, and at each fine lag in 48 kHz frames. -/
structure AlignObs where
  oldDev : Nat
  oldMean : Int
  newDev : Nat
  newMean : Int
  coarse : List (Int × Nat)
  fine : List (Int × Nat)
  deriving DecidableEq, Repr

/-- A data group that a DAB or DRM runner received for a KIND 5 context (R257): the runner, and the group's bytes. -/
structure SegObs where
  runner : Fin 32
  group : List Byte
  deriving DecidableEq, Repr

/-- A frame at a port's pins (R274, R277): its BCLK periods, and the words received in its slots. -/
structure ExtFrame where
  bclk : Nat
  rx : List W
  deriving DecidableEq, Repr

/-- What reaches the Tailrace's pins in an internal frame (R277 to R283, R293): the frames of each TDM port, and the PDM frames, of 64
PDM_CLK periods each where the clock is right: for each data pin the bits latched on rising and on falling edges. -/
structure AudFrameObs where
  ports : List (List ExtFrame)
  pdm : List (List (List Bool × List Bool))
  deriving DecidableEq, Repr

/-- The physical channel of a packet (R302). -/
inductive PhysChan where
  | primaryAdv | secondaryAdv | data (handle : BitVec 16)
  deriving DecidableEq, Repr

/-- What a correlator finds (R300, R306): the last 32 bits received, or decided on LE Coded, and the 16 before them, the first one received
least significant; PHY (1 to 4 of R313), channel index, the composite power over its preamble and access address (linear, in femtowatt),
port ACC_RF_B, and the timestamp of R311. -/
structure SyncObs where
  bits : W
  pre : BitVec 16
  phy : Byte
  chan : Byte
  phys : PhysChan
  power : Nat
  portB : Bool
  ts : W
  deriving DecidableEq, Repr

/-- What the link layer does when it opens the receiver; the PDU types that it accepts follow from it (R302). -/
inductive RxRole where
  | scanner | initiator | advertiser | connection
  deriving DecidableEq, Repr

/-- A receive window: for whom it opens, and the device time at which it was to start (R302, R310). -/
structure RxWindow where
  role : RxRole
  starts : BitVec 64
  deriving DecidableEq, Repr

/-- The header of the current packet (R302): PDU type or LLID, coding indicator, length. -/
structure HdrObs where
  pduType : BitVec 4
  length : Nat
  llid : BitVec 2
  ci : BitVec 2
  deriving DecidableEq, Repr

/-- The end of the current packet (R311): CRC result, measured EVM in 0.1 %, payload length, the packet's standard HCI traffic, each packet
with its TYPE and the place of an RSSI in it (R312), and for an advertising PDU its advertiser address, its type and 6 bytes. `opened` and
`closed` are the connection that the link layer makes of the packet (as peripheral), or ends with it (R299): its handle, access address
and the slot whose LTK encrypts it; `link` is the receive maximum and the encryption that the packet leaves its connection with. -/
structure PktEndObs where
  crcOk : Bool
  evm : Nat
  length : BitVec 16
  hci : List (Byte × List Byte × Option Nat)
  addr : Byte × List Byte
  opened : Option (BitVec 16 × BitVec 32 × Option (Fin 64))
  closed : Option (BitVec 16)
  link : Option (Nat × Bool)
  deriving DecidableEq, Repr

/-- A transmit or receive activity (R329) as it begins or as it ends. It begins with: transmit or receive, its class (bit number of
PRI_MASK; 6 is a burst of a Class B run, which no bit of PRI_MASK names), channel, P_ant in 0.5 dBm, antenna path, time of its bits and of
its payload in µs, its samples before pre-distortion, and the level of COEX_GNT at step 2. It ends with the power that ACC_FB measures in
0.5 dBm, and the phase error in degrees that ACC_FB shows. -/
inductive ActivityObs where
  | begins (tx : Bool) (cls : Fin 7) (ch : Fin 81) (pAnt : Int) (path : Fin 4) (packetUs payloadUs : Nat) (samples : List (Int × Int))
      (gnt : Bool)
  | ends (fb : Option Int) (phase : Int)
  deriving DecidableEq, Repr

/-- A tone of a mode-2 step on one antenna path (R353, R354): channel, phase in milli-degrees, and whether the initiator and the reflector
report good quality. -/
structure Tone where
  chan : Fin 81
  mdeg : Nat
  here : Bool
  there : Bool
  deriving DecidableEq, Repr

/-- A mode-1 step (R353, R355): whether it is valid, the round-trip time and the reflector's turnaround in ps. -/
structure RttStep where
  valid : Bool
  rtt : Nat
  turn : Nat
  deriving DecidableEq, Repr

/-- A completed channel-sounding procedure (R353 to R355): the tones of each antenna path, and the mode-1 steps. -/
structure CsObs where
  paths : List (Fin 4 × List Tone)
  rtt : List RttStep
  deriving DecidableEq, Repr

/-- How a two-wire transfer ended (R384, R385): every byte sent was acknowledged, with the bytes received as they stood on the bus (a block's
count and the PEC byte included), or the byte that was not acknowledged. -/
inductive TwEnd where
  | ok (rx : List Byte)
  | nack (ix : Nat)
  deriving DecidableEq, Repr

/-- What a port finds when it makes a bus clear (R383): SCL low at the first pulse, and the number of clears (1 to 3)
after which SDA reads high, if any. -/
structure ClearObs where
  sclLow : Bool
  highAfter : Option (Fin 3)
  deriving DecidableEq, Repr

/-- An answer to the poll of R412: the transfer's outcome and the status bits, and the VDD_CORE monitor. -/
inductive PmicAns where
  | status (coreAtTarget railsAtMask monitorOk : Bool)
  | failed (code : Byte)
  deriving DecidableEq, Repr

/-- The reports a wake step waits for, with the byte 16 values of R429. -/
inductive ReadyReport where
  | vddAna | vdd18a | vddIo | fio | reference | pmic | vddCore
  deriving DecidableEq, Repr

/-- One measurement of a lane on CALSRC (R434, R436): gain in 0.001 dB, offset in 0.1 LSB, skew in 0.01 ps. -/
structure LaneMeas where
  gain : Int
  offset : Int
  skew : Int
  deriving DecidableEq, Repr

/-- A unit element of a sub-ADC as the two measurements show it (R435): its weight, and what it adds to the lane's distance from the
target in the units of `LaneMeas`. -/
structure Element where
  weight : Nat
  gain : Int
  offset : Int
  skew : Int
  deriving DecidableEq, Repr

/-- The third step of a Class A run on a lane or the spare (R434 to R436): its two measurements, and its 18 unit elements. -/
structure CalAObs where
  first : LaneMeas
  second : LaneMeas
  elements : List Element
  deriving DecidableEq, Repr

/-- One measurement of a Class B part (R439): VCO band and capacitor trim of the 81 synthesiser entries, per PA_MODE the residual in
0.1 dB and the coefficients, theta in degrees by channel and P_ant, the loop delays of paths 0 to 3 in mm. -/
structure CalBMeas where
  entries : List (Nat × Int)
  dpd : List (Int × List (Int × Int))
  theta : List (Fin 81 × Nat × Rat)
  loops : List Int
  deriving DecidableEq, Repr

/-- Two measurements of a Class B part (R439). -/
structure CalBObs where
  first : CalBMeas
  second : CalBMeas
  deriving DecidableEq, Repr

/-- The end-of-line tone as CAL_REF measures it (R430): level in 0.001 dBm, frequency error in ppb, and per Headrace the gain in 0.001 dB of
codes 0 to 12 and the CALSRC level at each lane input in 0.001 dBm. -/
structure CalRefObs where
  levelMdBm : Int
  freqPpb : Int
  gains : Vector (List Int) 4
  calsrc : Vector (List Int) 4
  deriving DecidableEq, Repr

/-- What a probe measures on its channel (R162): the power in 0.01 dBm at the RF_INn pin and CNR in 0.25 dB. -/
structure ProbeObs where
  power : Int
  cnr : Nat
  deriving DecidableEq, Repr

/-- The commands and events of the block: one constructor for each row of spec/opcode_table.json, in its order. -/
inductive Instr where
  -- System commands (R55)
  | sysNop (c : CmdEntry)
  | sysInfo (c : CmdEntry)
  | sysTime (c : CmdEntry)
  | sysSetRtc (c : CmdEntry)
  | sysReset (c : CmdEntry)
  -- Capture commands (R107)
  | capStart (c : CmdEntry)
  | capStop (c : CmdEntry)
  | capGain (c : CmdEntry)
  | capRace (c : CmdEntry)
  | capFeed (c : CmdEntry)
  | capModule (c : CmdEntry) (answer : ModuleRead)
  -- Window commands (R140)
  | winOpen (c : CmdEntry)
  | winClose (c : CmdEntry)
  | winTune (c : CmdEntry)
  | winRatio (c : CmdEntry)
  | winCoef (c : CmdEntry)
  | winBank (c : CmdEntry)
  | winDelay (c : CmdEntry)
  | winLeg (c : CmdEntry)
  | winScanRead (c : CmdEntry)
  -- Service and runner commands (R165, R193, R214)
  | svcOpen (c : CmdEntry)
  | svcClose (c : CmdEntry)
  | svcQuality (c : CmdEntry)
  | svcFmCfg (c : CmdEntry)
  | svcAmCfg (c : CmdEntry)
  | svcProbeLend (c : CmdEntry)
  | svcProbe (c : CmdEntry)
  | svcRdsState (c : CmdEntry)
  | svcDabCfg (c : CmdEntry)
  | svcDabDb (c : CmdEntry)
  | svcDrmCfg (c : CmdEntry)
  | svcDrmDb (c : CmdEntry)
  -- Following commands (R248)
  | fanPolicy (c : CmdEntry)
  | fanCand (c : CmdEntry)
  | fanCands (c : CmdEntry)
  | fanSwitch (c : CmdEntry)
  | fanFollow (c : CmdEntry)
  -- Audio commands (R297)
  | audPort (c : CmdEntry)
  | audSlotmap (c : CmdEntry)
  | audMask (c : CmdEntry)
  | audStart (c : CmdEntry)
  | audQueue (c : CmdEntry)
  | audPdm (c : CmdEntry)
  | audStream (c : CmdEntry)
  -- Bulletin commands (R269)
  | bulCfg (c : CmdEntry)
  | bulKey (c : CmdEntry)
  | bulWatch (c : CmdEntry)
  | bulList (c : CmdEntry)
  | bulRead (c : CmdEntry)
  | bulRelease (c : CmdEntry)
  -- Access commands (R318, R341, R362)
  | accRxCfg (c : CmdEntry)
  | accRxStats (c : CmdEntry)
  | accListen (c : CmdEntry)
  | accTx (c : CmdEntry)
  | accTxStop (c : CmdEntry)
  | accRegWrite (c : CmdEntry)
  | accRegLock (c : CmdEntry)
  | accRegRead (c : CmdEntry)
  | accCredLoad (c : CmdEntry)
  | accCredList (c : CmdEntry)
  | accCredEvict (c : CmdEntry)
  | accUnlockCfg (c : CmdEntry)
  | accVkey (c : CmdEntry)
  | accRange (c : CmdEntry)
  | accVerdictRead (c : CmdEntry)
  -- Power commands (R428)
  | pwrLevel (c : CmdEntry)
  | pwrSleep (c : CmdEntry)
  | pwrAlarm (c : CmdEntry)
  | pwrStatus (c : CmdEntry)
  -- Calibration commands (R445)
  | calRun (c : CmdEntry)
  | calRef (c : CmdEntry) (o : CalRefObs)
  | calBoard (c : CmdEntry)
  -- Trust commands (R463)
  | truFwWrite (c : CmdEntry)
  | truFwCommit (c : CmdEntry)
  | truFwConfirm (c : CmdEntry)
  | truSvnAdvance (c : CmdEntry)
  | truAttest (c : CmdEntry)
  | truCert (c : CmdEntry)
  | truPubkey (c : CmdEntry)
  | truDebug (c : CmdEntry)
  | truOemKey (c : CmdEntry)
  -- Two-wire commands (R391)
  | twXfer (c : CmdEntry)
  | twBusclear (c : CmdEntry)
  -- DMA commands (R377)
  | dmaChain (c : CmdEntry)
  | dmaWrite (c : CmdEntry)
  | dmaStart (c : CmdEntry)
  | dmaAppend (c : CmdEntry)
  | dmaStop (c : CmdEntry)
  | dmaStatus (c : CmdEntry)
  -- HCI traffic (R65 to R67)
  | hciCommand (e : HciEntry) (o : HciObs)
  | hciAclData (e : HciEntry)
  | hciReset
  -- Rings and doorbells
  | doorbellProducer (off : BitVec 12) (size : Nat) (value : W)
  | doorbellConsumer (off : BitVec 12) (size : Nat) (value : W)
  | commandEntryReceived (opcode : BitVec 16) (c : CmdEntry)
  | commandDispatch (id : Nat)
  | completionHeldWrite
  | ringEnClear
  | quiesced
  | ringEnSet
  | ringEnable (n : Fin 32) (value : W)
  | msixUnmask (w : MaskWrite)
  | msixEnable
  | msixCoalTimer (n : Fin 32)
  | dataRingFull (n : Fin 32)
  | hostBusError (a : BusAccess) (addr : D)
  | linkDown
  | linkUp (speed : BitVec 4)
  | linkRetrain (speed : BitVec 4)
  | perstAssert
  | perstRelease
  -- Register accesses
  | regWrite (off : BitVec 16) (size : Nat) (value : D) (mirror : Bool)
  | flagClear (slot : Fin 83) (mask : W) (hwSets : W)
  | timeLoRead
  | rtcLoRead
  | dmaDoorbell (value : W)
  | synthRefWrite (ch : Fin 81) (value : W)
  | fanDisable (value : W)
  | safLock (value : W)
  | safInject (value : W)
  | safReset (value : W)
  | wdtKick (kick : Kick)
  | stewardSleepRequest (target : BitVec 3)
  -- Headraces
  | agcInterval (n : Fin 4) (peak : Nat)
  | agcHoldExpiry (n : Fin 4)
  | clipDetected (n : Fin 4) (wholeInterval : Bool)
  | laneMonitorBlock (n : Fin 4) (stats : List LaneStat)
  | spareTakeover (n : Fin 4)
  | raceOutputStart (n : Fin 4)
  | raceCentreSettled (n : Fin 4) (b : Bool)
  | blankerBlock (n : Fin 4) (r : Race) (b : BlankBlock)
  | headraceGovRestart
  | feedRampDone (n : Fin 4)
  | feedMeasure (n : Fin 4) (ma2 : BitVec 16)
  | feedLowbat (n : Fin 4) (out : BitVec 16)
  | feedShort (n : Fin 4) (ma2 : BitVec 16)
  | feedRetry (n : Fin 4)
  | feedOpen (n : Fin 4)
  | feedOpenRecovery (n : Fin 4)
  | moduleRecordRead (n : Fin 4) (answer : ModuleRead)
  | lifeHourlyWrite (n : Fin 4) (record : Option (List Byte)) (written : Bool)
  | lifeWriteRetry (n : Fin 4) (written : Bool)
  -- Windows
  | legOverrun (w : Fin 64) (pos : Fin 4) (lost : Nat)
  | winOutputBlock (w : Fin 64) (b : RaceIn)
  | winSettled (w : Fin 64) (b : RaceIn)
  | winCloseEffect (w : Fin 64)
  | legRemoveEffect (w : Fin 64)
  | bankSwapEffect (w : Fin 64)
  | cmaUpdate (w : Fin 64) (b : RaceIn)
  | scanFmPass (meas : List (List ScanObs))
  | scanDabPass (meas : List (List ScanObs))
  -- FM and AM runners
  | runnerMetricTick (r : Fin 32) (m : RunnerMetrics)
  | runnerLockGained (r : Fin 32)
  | runnerLockLost (r : Fin 32)
  | pilotPresent (r : Fin 32)
  | pilotLost (r : Fin 32)
  | audioUnit (ctx : Fin 256) (u : AudioObs)
  | rdsBlock (r : Fin 32) (stream : Fin 4) (o : RdsObs)
  | piWithdrawn (r : Fin 32)
  | probeLevelCheck (r : Fin 32) (o : ProbeObs)
  | probeDwellExpiry (r : Fin 32) (o : ProbeObs)
  -- DAB and DRM runners
  | dabFrameTiming (r : Fin 32)
  | dabFrameEnd (r : Fin 32) (o : DabFrameObs)
  | dabFicTimeout (r : Fin 32)
  | dabHandleExpiry (r : Fin 32) (h : Byte)
  | dabCif (r : Fin 32) (o : DabCifObs)
  | motTimeout (ctx : Fin 256) (tid : BitVec 16)
  | drmModeFound (r : Fin 32) (mode : Fin 5)
  | drmFrameEnd (r : Fin 32) (o : DrmFrameObs)
  | contextClosed (ctx : Fin 256)
  -- Fantail
  | fanScoreTick (pace : List Nat)
  | fanHoldBadExpiry (ctx : Fin 256)
  | fanDwellGoodExpiry (ctx : Fin 256) (ix : Fin 32)
  | fanCandExpiry (ctx : Fin 256) (ix : Fin 32)
  | fanPiSeenExpiry (ctx : Fin 256) (ix : Fin 32)
  | alignTick (e : Fin 4) (o : AlignObs)
  | alignCoarseCheck (e : Fin 4) (o : AlignObs)
  | alignTimeout (e : Fin 4)
  | alignRetry (ctx : Fin 256) (ix : Fin 32)
  | shadowDelayFilled (ctx : Fin 256) (ix : Fin 32)
  | fanGap (ctx : Fin 256) (incoming : Bool) (atOutput : Bool)
  | blendEnd (ctx : Fin 256)
  | dipEnd (ctx : Fin 256)
  -- Bulletins
  | bulSegment (o : SegObs)
  | bulReassemblyTimeout (b : Fin 2)
  | bulNotBefore (r : Fin 128)
  | bulWindowPrep
  | bulFeedOn
  | bulWindowOpen
  | bulWindowClose
  -- Tailrace
  | audFrame (o : AudFrameObs)
  | slipExecute (g : Fin 5)
  | audClockMeasure (g : Fin 5) (ppm : Int)
  | audClockLost (g : Fin 5) (cause : Fin 2)
  | streamUnderrun (st : Fin 32)
  | streamResume (st : Fin 32)
  | queueXrun (q : Fin 12)
  | queueResume (q : Fin 12)
  | fadeRampEnd (x : Byte)
  | audEvlIn (q : Fin 12)
  | audStartPulse (p : Fin 4)
  | pdmStuck (m : Fin 8)
  | pdmDataReturn (m : Fin 8)
  -- Access receiver
  | accRxOpen (ch : Byte) (w : RxWindow)
  | accSync (o : SyncObs)
  | accHeaderCheck (o : HdrObs)
  | accPacketEnd (o : PktEndObs)
  | accRxWindowClose
  | listenWindow (freeMs : Nat)
  -- Access front end
  | synthHop (ch : Fin 81)
  | synthLock (ch : Fin 81)
  | synthHopFail (ch : Fin 81)
  | accTxDeadline
  | radioActivity (a : ActivityObs)
  | coexGntWithdrawn
  | dpdStep (yielded : Bool) (residual : Int) (coef : List (Int × Int))
  | dpdRetrain
  | synthCalStep (ch : Fin 81) (yielded : Bool)
  -- Unlock flow
  | unlockConnected (handle : BitVec 16) (accessAddr : W)
  | unlockEncrypted (ok : Bool)
  | unlockChannelOpen
  | credentialSdu (bytes : List Byte)
  | sduTimeout
  | challengeAnswer (bytes : List Byte)
  | challengeTimeout
  | csProcedureDone (o : CsObs)
  | verdictTw1Retry
  | unlockDisconnected
  -- DMA
  | evlPulse (l : Fin 64)
  | dmaFetch (ch : Fin 16)
  | dmaDescComplete (ch : Fin 16) (hostRead : List Byte)
  | dmaAccessError (ch : Fin 16) (elements : Nat) (write : Bool) (hostRead : List Byte)
  -- Two-wire ports
  | twTransactionStart (p : Fin 2) (sdaLow : Bool) (c : ClearObs)
  | twTransactionEnd (p : Fin 2) (e : TwEnd)
  | twArbLost (p : Fin 2)
  | twBusError (p : Fin 2) (sdaLow : Bool) (c : ClearObs)
  | twSclTimeout (p : Fin 2) (sdaLow : Bool) (c : ClearObs)
  | twStuckPoll (p : Fin 2) (high : Bool)
  | twFreeBusTimeout (p : Fin 2)
  | twAlert (p : Fin 2)
  | twAlertRepeat (p : Fin 2)
  | hostWakeRequest
  | hostWakeRetry
  -- Clocks
  | lockWindow (err : Int)
  | refMissing
  | refMonitorWindow (count : Nat)
  | relockAttempt
  | relockFail
  | refQualified
  | refStartTimeout
  | rtcStop
  -- Power
  | pmicPoll (a : PmicAns)
  | pmicTimeout
  | pwrPendingStart
  | tjSample (t1 t2 : Int)
  | governorCap
  | governorRelease
  | dmaDrainTimeout
  | wakePin (k : Fin 4) (level : Bool)
  | rtcAlarm
  | accessTimerWake
  | wake (code : Byte)
  | wakeStepTimeout (r : ReadyReport)
  | wakeStepRepeat (ready : Bool)
  -- Calibration
  | calAStepDone (o : CalAObs)
  | calAStore
  | calBPartDone (o : CalBObs)
  -- Waling
  | memScrub (addr : W) (bitsInError : Nat)
  | lockstepMismatch (pair : Fin 2)
  | wdtExpiry (pair : Fin 2)
  | eccError (addr : W) (correctable : Bool)
  | linkCrcError (link : Fin 732)
  | accessFault (pair : Fin 2) (addr : D)
  | railOutOfWindow (rail : Fin 4)
  | overTemperature
  | sensorsDisagree
  | walingDisagree
  | selftestTick (monitor : Byte) (reports : Bool)
  | safeStateRetry
  | faultEscalate (code : Byte) (inst : Byte)
  | safeAutoReset
  | debugChallengeExpiry
  -- Start-up
  | vbatRise
  | vbatLoss
  | powerGood
  | bootRom
  | stewardReady
  | watchAutoEntry
  | coldRestart
  | supervisionTimeout
  | coexReqHoldExpiry
  | debugPortAccess
  | eventRateLimitExpiry (source : Byte) (inst : Byte)
  deriving DecidableEq, Repr

end Sys2Proof
end

