-- ==== Sys2Proof/Decode.lean ====
section
/-!
DEFINITION. The table of this block gives no row any bits: its commands are ring entries, register accesses and events, and no word
spells one of them.
-/

namespace Sys2Proof

/-- The command that a word spells by the table's bits: none, for the table gives no row any. -/
def decodeTableWord (_nbits _w : Nat) : Option Instr := none

end Sys2Proof
end

