-- ==== Sys2Proof/Config.lean ====
section
/-!
DEFINITION. What the spec fixes for every device but does not let a reader compute, as constants without a body: random
values, the FIPS 202 to 204 and SP 800-185 primitives that R2 names by their standards, the raised-cosine values of the
fades, and the choices the spec leaves to the device. Nothing here can be evaluated, so no claim rests on a value of it.
`Config` also holds the constants of the part.
-/

namespace Sys2Proof.Config

/-- A free value: byte `i` of the `n`-th value that nothing constrains (log 1). -/
opaque freeByte (n i : Nat) : Byte

/-- A free natural number, the `n`-th one taken (log 1). -/
opaque freeNat (n : Nat) : Nat

/-- Byte `i` of the `n`-th random value of the hardware noise source (R352, R457, R460; log 6). -/
opaque randomByte (n i : Nat) : Byte

/-- ML-DSA-87 verification with a public key, a context string, a message and a signature (FIPS 204; log 6). -/
opaque mldsaVerify (key ctx msg sig : List Byte) : Bool

/-- HashML-DSA-87 verification with SHA3-512 as the pre-hash: key, context string, digest, signature (FIPS 204; log 6). -/
opaque hashMldsaVerify (key ctx digest sig : List Byte) : Bool

/-- Byte `i` of an ML-DSA-87 signature of the device's identity key over a context and a message (FIPS 204; log 6). -/
opaque mldsaSignByte (n : Nat) (ctx msg : List Byte) (i : Nat) : Byte

/-- Byte `i` of SHA3-512 of a message (FIPS 202; log 6). -/
opaque sha3Byte (msg : List Byte) (i : Nat) : Byte

/-- Byte `i` of KMAC256 with a key, a customisation string and a message (SP 800-185; log 6). -/
opaque kmacByte (key custom msg : List Byte) (outLen i : Nat) : Byte

/-- The re-encryption comparison of ML-KEM-1024 decapsulation passes (FIPS 203, R345; log 6). -/
opaque kemOk (pub cipher : List Byte) : Bool

/-- Byte `i` of the ML-KEM-1024 shared secret that the device's decapsulation key gives for a ciphertext (FIPS 203; log 6). -/
opaque kemSecretByte (pub cipher : List Byte) (i : Nat) : Byte

/-- Byte `i` of the AES-256-GCM plaintext under a key, a nonce and associated data (log 6). -/
opaque aeadPlainByte (key nonce aad cipher : List Byte) (i : Nat) : Byte

/-- AES-256-GCM tag check (log 6). -/
opaque aeadOk (key nonce aad cipher tag : List Byte) : Bool

/-- Where the device places an allocation of general-use SRAM when several places fit (R129 fixes the order of requests
and not the address; log 7). -/
opaque gpChoice (n size : Nat) : Nat

/-- The product of a slot word and the raised cosine that falls from 1 to 0 over `len` frames, `n` frames into it (R284): the spec
states the curve and not how the product is rounded. -/
opaque fadeWord (n len : Nat) (w : BitVec 32) : BitVec 32

/-- A microphone word `n` frames into the linear fall to 0 over 48 frames (R296): how it is rounded the spec does not state. -/
opaque fallWord (n : Nat) (w : BitVec 32) : BitVec 32

/-- Coefficient `i` of the microphones' built-in 64-tap bank (R294; log 106). -/
opaque micCoef (i : Nat) : BitVec 20

/-- A microphone sample at a GAIN of 6 dB times `code`, not 0, before saturation (R294): the spec does not state the rounding (log 105). -/
opaque micGain (code : Nat) (v : Int) : Int

/-- The first-order high-pass at 20 Hz (R294; log 106): from what it holds and a sample, what it then holds and its output. -/
opaque micHighPass (held : List Int) (v : Int) : List Int × Int

/-- A resolvable private address resolves with an identity resolving key (R315), as the Bluetooth Core Specification's function ah gives it
(log 6). -/
opaque rpaResolves (irk addr : List Byte) : Bool

/-- A sample y[n] of R339 for x[n], x[n-1], x[n-2]: theta in degrees, and the coefficients a[k][m], none where a[1][0] is 1 and the others
are 0. The spec states the sum, and neither the scale of the samples and coefficients nor the rounding (log 106). -/
opaque dpdSample (theta : Rat) (coef : Option (List (Int × Int))) (x0 x1 x2 : Int × Int) : Int × Int

/-- The whole turns that unwrapping adds to tone `i` of a path, whose phases stand by channel (R354): the spec does not state how they are
found. -/
opaque phaseTurns (phases : List (Nat × Nat)) (i : Nat) : Int

/-- How far a combination of 16 unit elements lies from the target, by its gain, offset and skew in sixteenths of 0.001 dB, 0.1 LSB and
0.01 ps (R435): the spec weighs the three nowhere. -/
opaque elementDistance (gain offset skew : Int) : Nat

/-- Whether a Class B part keeps what its second measurement found, and not its first (R439): the spec does not say. -/
opaque calKeepsSecond (part : Fin 3) : Bool

/-- Whether the quotient `num / den`, where it is no whole number, becomes the whole number above it and not the one below: the rounding
of the value that `place` names, where the spec states none (log 105). -/
opaque roundUp (place : Nat) (num : Int) (den : Nat) : Bool

/-- Cosine and sine of a 32-bit phase as the 18-bit values of the NCO mixer (R113; log 106). -/
opaque cos18 (phase : W) : BitVec 18
opaque sin18 (phase : W) : BitVec 18

/-- The 25-bit mixer output that stands for a sum of two 24 by 18 bit products (R113; log 106). -/
opaque mixNarrow (v : BitVec 43) : BitVec 25

/-- Where the CIC's scaled output lies within the ±0.001 dB that R115 leaves (log 106). -/
opaque cicPlace (mcic : Nat) (v : BitVec 105) : Nat

/-- Coefficient `i` of the compensating FIR's fixed set `k`, and the value in race LSBs that its 48-bit sum stands for (R113, R115; log
106). -/
opaque cfCoef (k : Fin 8) (i : Nat) : BitVec 18
opaque cfValue (acc : BitVec 48) : Int

/-- Coefficient `i` of a half-band, and the value in race LSBs that its 48-bit sum stands for (R113, R115; log 106). -/
opaque hbCoef (i : Nat) : BitVec 18
opaque hbValue (acc : BitVec 48) : Int

/-- Coefficient `i` of a preset's built-in bank for a half-band count (R110; log 106). -/
opaque builtinCoef (preset h i : Nat) : BitVec 20

/-- The Farrow stage's cubic value at a fraction of 1,024 between four successive samples, oldest last (R113, R128; log 106). -/
opaque farrow (f : Nat) (a b c d : Int) : Int

/-- The FM audio chain of one channel behind the blend (R147, R148): the second-order high-cut at a corner in 2^-16 Hz, the deemphasis that
DEEMPH names, and the decimation by 8. From what the filters hold and 384 values it gives what they then hold and the 48 kHz values; the
spec gives their corners and time constants, and neither their coefficients nor their rounding (log 106). -/
opaque fmAudio (deemph corner : Nat) (held x : List Int) : List Int × List Int

/-- The AM audio chain (R150): DC blocker at 20 Hz, low-pass of BW / 2 kHz and at the high-cut corner, interpolation by 2 (log 106). -/
opaque amAudio (bw corner : Nat) (held x : List Int) : List Int × List Int

/-- Byte `i` of what the convolutional code of EN 300 401 gives for a subchannel's de-interleaved soft values: short or long form, table index
or option, protection level, size in CUs; and the channel bit error ratio that re-encoding shows, in 0.05 % (R178; log 124). -/
opaque dabByte (long : Bool) (table prot size : Nat) (soft : List Int) (i : Nat) : Byte
opaque dabBer (long : Bool) (table prot size : Nat) (soft : List Int) : Byte

/-- The Reed-Solomon outer code of EN 300 401 for packet subchannels: from what it holds and the bytes of a logical frame it gives what it
then holds and the corrected bytes (R179; log 124). -/
opaque packetFec (held frame : List Byte) : List Byte × List Byte

/-- Noise power of a carrier on which the null symbols show none, less 1 (R172). -/
opaque quietNoise (carrier : Nat) : Nat

/-- The channel estimate and the noise power of a leg at a carrier, interpolated from its gain reference cells, newest symbol first; the noise
is that of the newest symbol (R200; log 124). -/
opaque drmChannel (gains : List (List (Nat × IQ × IQ))) (carrier : Nat) : IQ
opaque drmNoise (gains : List (List (Nat × IQ × IQ))) (carrier : Nat) : Nat

/-- The 6 bits of an equalised part num / csi, and the step of the logarithmic scale, less 1, of a channel state csi that is not 0, `den` being
the common denominator of both (R200, R204; log 124). -/
opaque drmPart (num : Int) (csi : Nat) : BitVec 6
opaque drmStep (csi den : Nat) : Nat

/-- Byte `i` of a stream, part A then part B, that de-interleaving and multilevel decoding under ES 201 980 give for the stored cells, each
weighted by its channel state: mode, spectrum occupancy, constellation, stream record, frames of cells (R205; log 124). -/
opaque drmByte (mode so qam : Nat) (record : List Byte) (cells : List (List (List (BitVec 6 × BitVec 6 × BitVec 4)))) (i : Nat) : Byte

/-- Audio at another rate converted to 48 kHz: from what the converter holds and 1 ms of input it gives what it then holds and 48 values
(R185, R206; log 106). -/
opaque convert (held x : List Int) : List Int × List Int

/-- A sample attenuated by so many 2^-16 dB, not 0 (R147, R187): how the product is rounded the spec does not state (log 105). -/
opaque attenuate (db : Nat) (v : Int) : Int

/-- A frame's word in a blend at position `pos` of `len` frames (R238): cos(pi x / 2) of the old word plus sin(pi x / 2) times lvl of the
new one, lvl in 0.25 dB; how the sum is rounded and limited the spec does not state. -/
opaque blendWord (pos len : Nat) (lvl : Int) (old new : BitVec 32) : BitVec 32

/-- A word at a level of `g` / 48,000 dB (R238): the spec does not state the rounding. -/
opaque levelWord (g : Int) (w : BitVec 32) : BitVec 32

/-- The frames of the pool read at a rate that gives 48 of them (R237): the spec does not state the interpolation. -/
opaque resample (x : List Int) : List Int

/-- What an alternative-frequency entity of the SDC, type 3 or 11, names (R221): the standard as R249 codes it, the frequency in Hz, the
identifier in that standard (none: the current service), and a schedule. ES 201 980 gives the bits, which the spec does not print. -/
opaque sdcFreqs (entity : List Byte) : List (Byte × BitVec 32 × Option (BitVec 32) × Option Nat)

/-- A schedule of an SDC entity of type 4 runs at an RTC time (R221); its bits are those of ES 201 980. -/
opaque sdcOnAir (entity : List Byte) (schedule rtc : Nat) : Bool

/-- `n` bytes of the `k`-th random value. -/
def random (k n : Nat) : List Byte := (List.range n).map (randomByte k)

/-- `n` free bytes. -/
def freeBytes (k n : Nat) : List Byte := (List.range n).map (freeByte k)

/-- An ML-DSA-87 signature has 4,627 bytes. -/
def mldsaSign (n : Nat) (ctx msg : List Byte) : List Byte := (List.range 4627).map (mldsaSignByte n ctx msg)

/-- SHA3-512 has 64 bytes. -/
def sha3 (msg : List Byte) : List Byte := (List.range 64).map (sha3Byte msg)

/-- KMAC256 with an output of `n` bytes. -/
def kmac (key custom msg : List Byte) (n : Nat) : List Byte := (List.range n).map (kmacByte key custom msg n)

/-- SYS.ID_REV of A1 silicon (R3). -/
def idRev : W := 0x96400101

/-- Vendor ID: the one that the PCI-SIG assigned to the maker (R35), which the spec does not print. -/
opaque vendorId : BitVec 16

/-- Device ID and Revision ID (R35). -/
def deviceId : BitVec 16 := 0x9640
def revisionId : Byte := 0

/-- Class code: multimedia controller, other (R35). -/
def classCode : BitVec 24 := 0x048000

/-- Sizes of BAR0 and BAR2, both 64-bit and non-prefetchable (R35). -/
def bar0Size : Nat := 0x10000
def bar2Size : Nat := 0x1000

/-- Offsets of the MSI-X table and of its pending-bit array in BAR0, and the number of vectors (R35). -/
def msixTable : Nat := 0x700
def msixPba : Nat := 0x4F0
def msixVectors : Nat := 16

/-- The largest payload of a write and the largest read that the device issues, in bytes (R35). -/
def maxPayload : Nat := 256
def maxRead : Nat := 512

/-- First address of SRAM, and one past its last (the table before R28). -/
def sramLo : Nat := 0x20000000
def sramHi : Nat := 0x20800000

/-- General-use SRAM (R30). -/
def gpLo : Nat := 0x20750000
def gpHi : Nat := 0x20800000

/-- The host window (R28). -/
def hostLo : Nat := 0x800000000
def hostHi : Nat := 0x1000000000

end Sys2Proof.Config
end

