-- ==== Sys2Proof/Machine/State.lean ====
section
/-!
DEFINITION. The state of the block as plain data: one structure for each part of the device, every field with its value
at a power-on reset as its default (R494: the Reset columns give the values after a power-on reset). A field whose reset value
the spec does not give names the assumption-log entry. `State` gathers the parts and the queue of waiting commands.
-/

namespace Sys2Proof.Machine

/-! ### Outcomes -/

/-- Reasons to stop. No meaning of this model ends in a fault: every access and every event of the table has an effect or
leaves the state as it is. -/
inductive Fault where
  /-- Raised by nobody: the spec names no event that stops the block without a state (SAFE, Limp and HV hold are states).
  Safe. -/
  | none
  deriving DecidableEq, Repr

/-- Reasons to refuse. -/
inductive Refusal where
  /-- Raised only by an arm of exec whose command has no meaning yet. Safe. -/
  | notModelled (mnemonic : String)
  deriving DecidableEq, Repr

/-! ### Host interface -/

/-- Status codes of R57. -/
inductive Status where
  | ok | badop | badlen | range | state | nores | busy | notfound | reglimit | auth | locked | timeout | notready
  | power | coex | cal | bus | nack | arblost | superseded | aborted | fault | rollback | full | align
  deriving DecidableEq, Repr

/-- A completion (the table before R54), without PHASE, which the ring gives it. -/
structure Completion where
  /-- TAG of the entry. -/
  tag : W
  /-- OPCODE. -/
  opcode : BitVec 16
  /-- STATUS (R57). -/
  status : Status
  /-- BUF_WRITTEN. -/
  bufWritten : Bool
  /-- SLOT: the ring 0 slot. -/
  slot : BitVec 16
  /-- DETAIL (R50). -/
  detail : BitVec 16
  /-- RESULT_LEN. -/
  resultLen : W
  /-- RESULT bytes. -/
  result : List Byte
  deriving DecidableEq, Repr

/-- An event (the table before R58), without PHASE. `data` holds bytes 16 to 31. -/
structure Event where
  /-- SOURCE (R60). -/
  source : Byte
  /-- CODE. -/
  code : BitVec 16
  /-- SEQ (R58). -/
  seq : W
  /-- Device time in µs (R396). -/
  time : D
  /-- DATA, bytes 16 to 31. -/
  data : List Byte
  deriving DecidableEq, Repr

/-- A data-ring entry (the table before R62), without PHASE. -/
structure DataEntry where
  /-- CONTEXT. -/
  ctx : Byte
  /-- GEN (R20). -/
  gen : Byte
  /-- KIND. -/
  kind : Byte
  /-- DISC (R12). -/
  disc : Bool
  /-- FIRST (R62). -/
  first : Bool
  /-- LAST (R62). -/
  last : Bool
  /-- OFFSET in the payload buffer (R63). -/
  offset : W
  /-- LENGTH of the piece. -/
  length : W
  /-- LOST (R12). -/
  lost : W
  /-- TIMESTAMP. -/
  ts : D
  /-- SEQ. -/
  seq : W
  /-- TAG. -/
  tag : W
  deriving DecidableEq, Repr

/-- One posted write of the device to the host, with its bus address: the device writes nothing else (R36, R47). -/
inductive HostWrite where
  | completion (addr : D) (phase : Bool) (c : Completion)
  | event (addr : D) (phase : Bool) (e : Event)
  | data (addr : D) (phase : Bool) (d : DataEntry)
  | hci (addr : D) (phase : Bool) (type : Byte) (packet : List Byte)
  | payload (addr : D) (bytes : List Byte)
  | shadow (addr : D) (index : W)
  | msix (addr : D) (value : W)
  | buf (addr : D) (bytes : List Byte)
  | dma (addr : D) (bytes : List Byte)
  deriving DecidableEq, Repr

/-- One ring (R38 to R49, R63, R68). Reset values per the HOST tables; VEC, IRQ_EN per ring are set in `HostBlk`. -/
structure Ring where
  /-- HOST.RING_BASE_LO. -/
  baseLo : W := 0
  /-- HOST.RING_BASE_HI. -/
  baseHi : W := 0
  /-- HOST.PBUF_LO (data rings). -/
  pbufLo : W := 0
  /-- HOST.PBUF_HI. -/
  pbufHi : W := 0
  /-- HOST.RING_CFG.PLOG2. -/
  plog2 : BitVec 5 := 0
  /-- HOST.RING_CFG.LOG2SIZE. -/
  log2size : BitVec 4 := 0
  /-- HOST.RING_CFG.EN. -/
  en : Bool := false
  /-- HOST.RING_CFG.BAD. -/
  bad : Bool := false
  /-- HOST.RING_IRQ.COAL_US. -/
  coalUs : BitVec 16 := 0
  /-- HOST.RING_IRQ.COAL_CNT. -/
  coalCnt : BitVec 8 := 1
  /-- HOST.RING_IRQ.IRQ_EN. -/
  irqEn : Bool := false
  /-- HOST.RING_IRQ.VEC. -/
  vec : BitVec 4 := 0
  /-- Producer index (R39): the host's on rings 0 and 3, the device's on the others. -/
  prod : Nat := 0
  /-- Consumer index (R39). -/
  cons : Nat := 0
  /-- PHASE of the entries now written (R40). -/
  phase : Bool := true
  /-- The last doorbell value accepted (R45). -/
  doorbell : W := 0
  /-- Entries written since the last message fell due (R68). -/
  unsignalled : Nat := 0
  /-- Next free byte of the payload buffer (R63). -/
  pbufNext : Nat := 0
  /-- Payload space of the entries not yet returned, oldest first: offset and length (R63). -/
  pbufHeld : List (Nat × Nat) := []
  deriving DecidableEq, Repr

/-- One MSI-X table entry (R35, R68). -/
structure MsixEntry where
  /-- Message address, low word. -/
  addrLo : W := 0
  /-- Message address, high word. -/
  addrHi : W := 0
  /-- Message data. -/
  data : W := 0
  /-- Mask bit of the vector. -/
  masked : Bool := true
  deriving DecidableEq, Repr

/-- Where a fetched command stands (R26, R50 to R54). -/
inductive CmdPhase where
  /-- Checked by the Hopper and held for a fence or an order (R52, R53). -/
  | held
  /-- Dispatched to its steward pair, whose bound of R69 step 4 runs. -/
  | dispatched
  /-- Executed; its completion waits for a later event (a ramp, a boundary, a transaction). -/
  | waiting
  /-- Finished or rejected; its completion waits for room on ring 1 or for the ring's enable (R54). -/
  | completing
  deriving DecidableEq, Repr

/-- A command that has been fetched and not completed (R26). -/
structure OutCmd where
  /-- OPCODE. -/
  opcode : BitVec 16
  /-- Where it stands. -/
  phase : CmdPhase
  /-- The ring 0 entry. -/
  entry : CmdEntry
  deriving DecidableEq, Repr

/-- The PCIe function, rings and commands (02_host_interface.md). -/
structure HostBlk where
  /-- HOST.LINK_STAT.DL_UP. -/
  dlUp : Bool := false
  /-- HOST.LINK_STAT.SPEED. -/
  speed : BitVec 4 := 0
  /-- PCIE_PERST_N level (R484); DESIGN CHOICE, log 4. -/
  perstHigh : Bool := true
  /-- HOST.CTL.RING_EN. -/
  ringEn : Bool := false
  /-- HOST.CTL.SHADOW_EN. -/
  shadowEn : Bool := false
  /-- HOST.STAT.READY. -/
  ready : Bool := false
  /-- HOST.STAT.QUIESCED. -/
  quiesced : Bool := false
  /-- HOST.DB_ERR. -/
  dbErr : W := 0
  /-- HOST.SHADOW_LO. -/
  shadowLo : W := 0
  /-- HOST.SHADOW_HI. -/
  shadowHi : W := 0
  /-- The 32 rings; IRQ_EN and VEC per the HOST.RING_IRQ table. -/
  rings : Vector Ring 32 := Vector.ofFn fun n =>
    { irqEn := n.val = 1 || n.val = 2 || n.val = 4 || n.val ≥ 8
      vec := if n.val = 2 then 1 else if n.val = 4 then 2
             else if n.val ≥ 8 then BitVec.ofNat 4 (3 + (n.val - 8) % 13) else 0 }
  /-- MSI-X table (R35). -/
  msix : Vector MsixEntry 16 := Vector.replicate 16 {}
  /-- MSI-X pending-bit array (R35). -/
  pba : BitVec 16 := 0
  /-- MSI-X Enable of the configuration space (R68). -/
  msixEn : Bool := false
  /-- MSI-X function mask of the configuration space (R68). -/
  funcMask : Bool := false
  /-- A ring has been enabled since the last reset (R485). -/
  ringSeen : Bool := false
  /-- Device time at which READY became 1 (R485). -/
  readyAt : D := 0
  /-- Commands fetched and not completed, in fetch order (R26). -/
  outstanding : List OutCmd := []
  /-- Completions held for room on ring 1 or for its enable, in order, each with the fetch of its command (R54). -/
  held : List (Nat × Completion) := []
  /-- HCI packets held for room on ring 4, in order. -/
  hciHeld : List (Byte × List Byte) := []
  /-- Entries of ring 3 that wait for commands of area 0x07xx fetched before them, in order (R67): each with the fetches of those
  commands. -/
  hciWaiting : List (HciEntry × HciObs × List Nat) := []
  /-- Vendor-specific HCI commands taken so far, which numbers them apart from the fetches of ring 0 (R66; the model's own). -/
  hciCnt : Nat := 0
  /-- Everything the device has posted to the host, newest first (R47). -/
  posted : List HostWrite := []
  /-- Data rings whose source 6 event has been raised for the present full spell (R60). -/
  fullReported : BitVec 32 := 0
  deriving DecidableEq, Repr

/-! ### System and events -/

/-- SYS block, device time and RTC (22_registers.md, 16_clocks.md). -/
structure SysBlk where
  /-- Device time in µs since the last power-on reset (R396). -/
  timeUs : D := 0
  /-- RTC seconds (R55, R500). -/
  rtcSec : BitVec 40 := 0
  /-- Microseconds within the RTC second (the model's own, log 3). -/
  rtcSub : Nat := 0
  /-- The RTC has been set since it last lost power (R261, R402). -/
  rtcSet : Bool := false
  /-- The RTC crystal runs (R402). -/
  rtcXtal : Bool := true
  /-- SYS.TIME_HI as latched (R500). -/
  timeHi : W := 0
  /-- SYS.RTC_HI as latched (R500). -/
  rtcHi : W := 0
  /-- The answer to the last BAR0 read that the table lists (R500). -/
  readData : W := 0
  /-- SYS.FW_VER. -/
  fwVer : W := 0
  /-- SYS.STATUS.STEWARD_UP. -/
  stewardUp : Bool := false
  /-- SYS.STATUS.RECOVERY (R450). -/
  recovery : Bool := false
  /-- SYS.STATUS.SLOT: the running firmware slot. -/
  slot : BitVec 1 := 0
  /-- The type of an accepted SYS_RESET whose reset has not begun (R56). -/
  resetDue : Option (BitVec 2) := none
  /-- SYS.STATUS.RESET_CODE (R486). -/
  resetCode : BitVec 2 := 0
  deriving DecidableEq, Repr

/-- One rate-limit interval that is open (R75, R118, R61 and the other limits): the source and instance, whether an
event is held back, the amount since the last event, the code and the source's own data. -/
structure RateRec where
  /-- Source. -/
  src : Byte
  /-- Instance that the interval is keyed by. -/
  inst : Byte
  /-- An event waits for the interval's end. -/
  held : Bool
  /-- The amount since the last event. -/
  sum : Nat
  /-- CODE of the event that waits. -/
  code : BitVec 16
  /-- The source's own data. -/
  aux : W
  /-- What follows the amount in the event's DATA. -/
  tail : List Byte
  deriving DecidableEq, Repr

/-- EVT block (R501, R59). -/
structure EvtBlk where
  /-- EVT.MASK[0..2]. -/
  mask : Vector W 3 := Vector.replicate 3 0
  /-- EVT.SEQ: the SEQ the next event will carry. -/
  seq : W := 0
  /-- EVT.LOST. -/
  lost : W := 0
  /-- Events lost and not yet reported by a source 4 entry (R59). -/
  owed : Nat := 0
  /-- Events that a rule holds back until the host has enabled ring 2 (R56, R265, R387, R427, R448, R486, R487):
  source, code, data. -/
  deferred : List (Byte × BitVec 16 × List Byte) := []
  /-- Open rate-limit intervals. -/
  rate : List RateRec := []
  deriving DecidableEq, Repr

/-! ### Capture -/

/-- A blanker of one race (R87 to R92). -/
structure Blanker where
  /-- CAP.BLK_x as written; in force from the next block (R90). -/
  reg : W := 0x00040009
  /-- The setting in force in the current block. -/
  inForce : W := 0x00040009
  /-- CAP.BLKCNT_x. -/
  count : W := 0
  /-- Samples that have triggered in the current block (R92). -/
  triggered : Nat := 0
  /-- The samples of the last block after blanking, in quarters of the race LSB: the taper factors of R88 are quarters, and how
  a scaled sample is rounded the spec does not state. -/
  output : List IQ := []
  deriving DecidableEq, Repr

/-- Feed states of CAP.FEED_STAT.STATE. -/
inductive FeedState where
  | off | ramping | on | opened | shorted | shutoff
  deriving DecidableEq, Repr

/-- An antenna feed and its module (R96 to R106). -/
structure Feed where
  /-- CAP.FEED_CTL. -/
  ctl : W := 0x00140132
  /-- CAP.FEED_STAT.STATE. -/
  st : FeedState := .off
  /-- CAP.FEED_STAT.ON. -/
  on : Bool := false
  /-- CAP.FEED_STAT.RETRIES. -/
  retries : BitVec 2 := 0
  /-- CAP.FEED_STAT.MA2. -/
  ma2 : BitVec 16 := 0
  /-- Set voltage in 100 mV of the last CAP_FEED. -/
  volt : BitVec 8 := 0
  /-- The feed is on in RUN, or was when RUN was last left: what reception windows in WATCH switch (R98). -/
  wanted : Bool := false
  /-- The CAP_FEEDs that wait for the ramp, by their fetches (R107). -/
  waiting : List Nat := []
  /-- A short has been reported and has not ended (R97, R108). -/
  shorted : Bool := false
  /-- CODE 4 has been raised for this switch-on (R100). -/
  noModuleRaised : Bool := false
  /-- CAP.MOD_STAT.PRESENT. -/
  present : Bool := false
  /-- CAP.MOD_STAT.STATIC_OK. -/
  staticOk : Bool := false
  /-- CAP.MOD_STAT.LIFE_OK. -/
  lifeOk : Bool := false
  /-- CAP.MOD_STAT.LIFE_PCT. -/
  lifePct : Byte := 255
  /-- The record image as held, 256 bytes (R99, R107). -/
  record : List Byte := []
  /-- The life counters held: current copy (0 A, 1 B), SEQ, hours, cycles (R103). -/
  lifeB : Bool := false
  /-- SEQ of the life copy held (R103). -/
  lifeSeq : W := 0
  /-- POWERED_HOURS held (R103). -/
  lifeHours : W := 0
  /-- CYCLES held (R103). -/
  lifeCycles : W := 0
  /-- A life-counter write, of the hourly write or of copy A at a record read, that waits for its retry (R104). -/
  lifeRetry : Bool := false
  /-- Since when a life-counter write of the module has yielded TW0 (R33). -/
  lifeWait : Option D := none
  /-- The MRAM antenna record: MODULE_ID (8 bytes, none while no module was ever read), hours, cycles, minutes. -/
  mramId : List Byte := []
  /-- Hours of the MRAM antenna record (R104, R106). -/
  mramHours : W := 0
  /-- Cycles of the MRAM antenna record. -/
  mramCycles : W := 0
  /-- Minutes of on-time not yet an hour. -/
  mramMinutes : Nat := 0
  /-- Device time of the last switch-on and the last switch-off (R103). -/
  onSince : D := 0
  /-- Device time of the last switch-off (R103). -/
  offSince : D := 0
  deriving DecidableEq, Repr

/-- A Headrace (R72 to R95). -/
structure Headrace where
  /-- CAP.HR_CTL. -/
  ctl : W := 0x00000081
  /-- Counts as running (R93). -/
  running : Bool := false
  /-- Race output has begun (R93). -/
  output : Bool := false
  /-- CAP.HR_STAT.FAILED. -/
  failed : Bool := false
  /-- CAP.HR_STAT.GOV_STOP. -/
  govStop : Bool := false
  /-- CAP.HR_STAT.RETIRED. -/
  retired : BitVec 4 := 15
  /-- CAP.HR_STAT.SPARE_FOR. -/
  spareFor : BitVec 4 := 15
  /-- The gain code in force while running, and the one a restart takes (R95). -/
  gain : BitVec 4 := 0
  /-- Gain control while running, and the one a restart takes. -/
  agc : Bool := false
  /-- CAP.CLIP_CNT. -/
  clipCnt : W := 0
  /-- Clipped samples of the current 1 ms interval (R74). -/
  clipNow : Nat := 0
  /-- Consecutive 1 ms intervals with a low peak since the hold time last restarted (R74). -/
  lowMs : Nat := 0
  /-- A CAP_GAIN landed in the current interval (R76). -/
  gainSet : Bool := false
  /-- CAP.V_CENTRE. -/
  vCentre : W := 0x43F8
  /-- CAP.B_CENTRE. -/
  bCentre : W := 0xA1B8
  /-- The V race settles after a centre change (R86). -/
  vSettling : Bool := false
  /-- The B race settles after a centre change (R86). -/
  bSettling : Bool := false
  /-- The V centre has been changing at some moment of the scan pass in progress (R86, R139). -/
  vSpan : Bool := false
  /-- The B centre has been changing at some moment of the scan pass in progress (R86, R139). -/
  bSpan : Bool := false
  /-- Consecutive monitor blocks in which each lane 0 to 8 differed (R78). -/
  laneBad : Vector Nat 9 := Vector.replicate 9 0
  /-- A lane whose take-over by the spare is due (R79). -/
  takeOver : Option (Fin 8) := none
  /-- The spare has itself failed (R80). -/
  spareFailed : Bool := false
  /-- Capture is out because the clock is lost (R403). -/
  clockOut : Bool := false
  /-- Blanker of the L race. -/
  blkL : Blanker := {}
  /-- Blanker of the V race. -/
  blkV : Blanker := {}
  /-- Blanker of the B race. -/
  blkB : Blanker := { reg := 0x00040008, inForce := 0x00040008 }
  deriving DecidableEq, Repr

/-- CAP block (03_capture.md). -/
structure CapBlk where
  /-- The four Headraces. -/
  hr : Vector Headrace 4 := Vector.replicate 4 {}
  /-- The four antenna feeds. -/
  feed : Vector Feed 4 := Vector.replicate 4 {}
  /-- CAP.AGC. -/
  agc : W := 0x000A1204
  deriving DecidableEq, Repr

/-! ### Windows -/

/-- A sample inside a filter chain: its value, whether it was computed from a substituted input sample (R13), and the input samples whose
loss the first output computed from it reports (R12, R13). -/
structure Smp where
  /-- Value. -/
  v : IQ
  /-- Computed from a substituted sample. -/
  sub : Bool
  /-- Input samples lost, for the mark. -/
  tok : Nat
  deriving DecidableEq, Repr

/-- The CIC of a leg (R113, R115): five 105-bit integrators and combs for I and Q. -/
structure Cic where
  /-- Integrators. -/
  integ : Vector (BitVec 105 × BitVec 105) 5 := Vector.replicate 5 (0, 0)
  /-- The last input of each comb. -/
  comb : Vector (BitVec 105 × BitVec 105) 5 := Vector.replicate 5 (0, 0)
  /-- Input samples since the last output, modulo M_cic. -/
  cnt : Nat := 0
  /-- Input samples to come whose outputs depend on a substituted sample. -/
  sub : Nat := 0
  /-- Lost samples that the next output reports. -/
  tok : Nat := 0
  deriving DecidableEq, Repr

/-- A decimating FIR stage of a leg (R113): its last inputs, newest first. -/
structure Fir where
  /-- Inputs, newest first. -/
  hist : List Smp := []
  /-- Input samples since the last output, modulo the stage's ratio. -/
  cnt : Nat := 0
  /-- Lost samples that the next output reports. -/
  tok : Nat := 0
  deriving DecidableEq, Repr

/-- Stages 1 to 6 of a leg (R113). -/
structure Chain where
  /-- Phase accumulator of the NCO (R113, R114). -/
  phase : W := 0
  /-- Stage 2. -/
  cic : Cic := {}
  /-- Stage 3. -/
  cf : Fir := {}
  /-- Stage 4: the half-bands in order. -/
  hb : Vector Fir 3 := Vector.replicate 3 {}
  /-- Stage 5. -/
  fir : Fir := {}
  /-- Stage-5 outputs that stage 6 has not taken, oldest first. -/
  queue : List Smp := []
  /-- The delay line of stage 6, newest first. -/
  line : List Smp := []
  deriving DecidableEq, Repr

/-- A leg of a window (R111, R124, R128 to R134). -/
structure Leg where
  /-- Leg number 0 to 127 of the pool. -/
  no : Nat
  /-- Antenna, the Headrace it reads. -/
  ant : Fin 4
  /-- NCO frequency word (R114). -/
  nco : W
  /-- The delay in force, in 1/1,024 output sample (R128). -/
  delay : Nat
  /-- The target of a ramp, in the same unit (R130). -/
  target : Nat
  /-- A delay without a ramp that takes effect at the next block boundary (R130). -/
  delayNext : Option Nat
  /-- Output samples until a leg added by WIN_LEG has settled (R124). -/
  settling : Nat
  /-- The leg leaves at the next block boundary (R124). -/
  leaving : Bool
  /-- Input samples lost whose first dependent output has been computed since the last block (R12, R13). -/
  lost : Nat
  /-- Substituted samples since the Headrace stopped (R141); none while it runs. -/
  stopped : Option Nat
  /-- The first block after the stop that holds a substituted sample has not been delivered (R141). -/
  stopDue : Bool
  /-- Substituted samples of a stop among the leg's input since the last block (R141). -/
  blockSub : Nat
  /-- The total of a stop that has ended, for the next block's mark (R141). -/
  returned : Nat
  /-- The last block delivered holds an output computed from substituted samples (R13). -/
  marked : Bool
  /-- Combiner weight, real and imaginary part in units of 2^-16 (R132; log 107). -/
  weight : Int × Int
  /-- Stages 1 to 6. -/
  chain : Chain
  /-- Delay blocks of the delay store and of general-use SRAM (R129). -/
  storeBlocks : Nat
  /-- Delay blocks it holds in general-use SRAM (R129). -/
  gpBlocks : Nat
  deriving DecidableEq, Repr

/-- A stage-5 bank (R125, R126). `t = 0` means never loaded. -/
structure Bank where
  /-- Number of coefficients; 0 while the bank was never loaded (R125). -/
  t : Nat := 0
  /-- It holds the preset's built-in filter (R110). -/
  builtin : Bool := false
  /-- The coefficients in the order of WIN_COEF (R126). -/
  coef : List W := []
  deriving DecidableEq, Repr

/-- A bank or ratio change that waits for its block boundary (R123, R125): the bank, the split and SHIFT it brings, whether
it is a WIN_RATIO, and the ring 0 slot of its command. -/
structure Swap where
  /-- The bank that becomes active (R127). -/
  bank : Bool
  /-- Half-band stages of the split that comes into force (R116). -/
  h : Nat
  /-- Its CIC factor. -/
  mcic : Nat
  /-- Its compensation factor. -/
  mcf : Nat
  /-- Its FIR factor. -/
  mfir : Nat
  /-- SHIFT that comes into force (R117). -/
  shift : Nat
  /-- It is a WIN_RATIO, which clears the banks, not a WIN_BANK. -/
  ratio : Bool
  /-- Ring 0 slot of the command that waits. -/
  slot : Nat
  deriving DecidableEq, Repr

/-- A change that makes a window withhold (the codes of source 28). -/
inductive WinChange where
  | opened | nco | ratio | bank
  deriving DecidableEq, Repr

/-- An output sample that waits for its block (R119): the values delivered, one or one for each leg in position order, the leg mask bits
that it sets, the lost count in output samples of a change, and its TIMESTAMP. -/
structure OutSmp where
  /-- Values in W bits. -/
  vals : List IQ
  /-- Leg mask bits. -/
  mask : Nat
  /-- Lost count of a withholding or a delay step (R121, R130). -/
  disc : Nat
  /-- TIMESTAMP. -/
  ts : D
  deriving DecidableEq, Repr

/-- A window (R109 to R135, R140). -/
structure Window where
  /-- WIN.STAT.STATE: 0 closed, 1 withholding, 2 running. -/
  st : BitVec 2 := 0
  /-- Preset code 1 to 5; 0 while closed. -/
  preset : Nat := 0
  /-- Runner fed. -/
  runner : Fin 32 := 0
  /-- RF frequency in Hz. -/
  freq : Nat := 0
  /-- W: true for 24 bits. -/
  wide : Bool := false
  /-- SHIFT. -/
  shift : Nat := 0
  /-- h, M_cic, M_cf, M_fir. -/
  h : Nat := 0
  /-- CIC factor of the split in force (R116). -/
  mcic : Nat := 0
  /-- Compensation factor of the split in force. -/
  mcf : Nat := 0
  /-- FIR factor of the split in force. -/
  mfir : Nat := 0
  /-- Active bank. -/
  bank : Bool := false
  /-- The two banks. -/
  banks : Vector Bank 2 := Vector.replicate 2 {}
  /-- DCAP (R128). -/
  dcap : Nat := 0
  /-- MU of the combiner (R133). -/
  mu : Nat := 0
  /-- The legs at positions 0 to 3. -/
  legs : Vector (Option Leg) 4 := Vector.replicate 4 none
  /-- The window has released output since it was opened (R121). -/
  released : Bool := false
  /-- N_settle of the withholding in progress (R120). -/
  nSettle : Nat := 0
  /-- Output samples still to be withheld. -/
  withheld : Nat := 0
  /-- Capture timestamp of the race sample at which the legs start (R85, R119); none until the first arrives. -/
  start : Option D := none
  /-- Output samples computed since then (R119). -/
  count : Nat := 0
  /-- Output samples of the block in progress, oldest first. -/
  ready : List OutSmp := []
  /-- Stage-6 outputs of the last 64 output samples, newest first, each with whether R14 excludes its leg (R133, R134). -/
  recent : List (Vector (Option (IQ × Bool)) 4) := []
  /-- How many of them came after the last weight update (R133). -/
  fresh : Nat := 0
  /-- Its cause. -/
  change : WinChange := .opened
  /-- A WIN_BANK or WIN_RATIO whose boundary has not come: new bank, split and SHIFT, and the command's slot. -/
  swap : Option Swap := none
  /-- A WIN_CLOSE that waits for its boundary: FORCE and the command's slot, or none for the Fantail's own. -/
  closing : Option (Bool × Option Nat) := none
  /-- DISC lost count that the next output sample carries (R12, R121, R130). -/
  disc : Nat := 0
  /-- Output blocks delivered. -/
  blocks : Nat := 0
  /-- The last block delivered to the runner. -/
  block : List OutSmp := []
  /-- WIN.SAT samples since the last source 29. -/
  satSince : Nat := 0
  /-- Held by the Fantail (R220). -/
  fantail : Bool := false
  /-- TIMESTAMP of the last block (R119). -/
  lastTs : D := 0
  deriving DecidableEq, Repr

/-- A scan-bank entry (R138). -/
structure ScanEntry where
  /-- LEVEL (R138). -/
  level : BitVec 16
  /-- MPX (R138). -/
  mpx : Byte
  /-- NULL (R138). -/
  null : Byte
  /-- AGE (R138). -/
  age : Byte
  /-- FLAGS (R138). -/
  flags : Byte
  deriving DecidableEq, Repr

/-- WIN block (04_windows.md). -/
structure WinBlk where
  /-- The 64 windows. -/
  win : Vector Window 64 := Vector.replicate 64 {}
  /-- WIN.SCAN_CTL. -/
  scanCtl : W := 0x00000F03
  /-- WIN.CMA. -/
  cma : W := 0x00000006
  /-- Free blocks of the delay store (WIN.DSTORE.FREE). -/
  dstoreFree : Nat := 384
  /-- The last complete FM pass of each antenna (R137, R140). -/
  scanFm : Vector (List ScanEntry) 4 := Vector.replicate 4 []
  /-- The last complete DAB pass of each antenna. -/
  scanDab : Vector (List ScanEntry) 4 := Vector.replicate 4 []
  /-- Measurements skipped on each race's link to the scan bank and not yet marked: index 3n + r (R10, R12, R504). -/
  scanLost : Vector Nat 12 := Vector.replicate 12 0
  deriving DecidableEq, Repr

/-! ### Service contexts and runners -/

/-- Context states (R21). -/
inductive CtxState where
  | free | opening | acquiring | running | closing
  deriving DecidableEq, Repr

/-- A MOT object in reassembly (R189). -/
structure MotObj where
  /-- TransportId of the object. -/
  tid : BitVec 16
  /-- It is a directory. -/
  dir : Bool
  /-- Header segments received, by number. -/
  head : List (Nat × List Byte)
  /-- Number of the last header segment, once that has come. -/
  headEnd : Option Nat
  /-- Body segments received, by number. -/
  body : List (Nat × List Byte)
  /-- Number of the last body segment, once that has come. -/
  bodyEnd : Option Nat
  /-- Its area of general-use SRAM is taken. -/
  placed : Bool
  /-- TIMESTAMP of its first segment (R188). -/
  ts : D
  deriving DecidableEq, Repr

/-- A delivery unit (R10) held in data staging for room in its data ring (R63): payload not yet written, capture
timestamp, SEQ, LOST, leg mask, DISC, TAG, the bytes of it already written, and the TransportId of the MOT object whose
reassembly buffer stages it (R189). -/
structure Unit1 where
  /-- Payload of the unit. -/
  payload : List Byte
  /-- TIMESTAMP (the table before R62). -/
  ts : D
  /-- SEQ (the table before R62). -/
  seq : W
  /-- LOST: units lost before it (R12). -/
  lost : Nat
  /-- Leg mask of the block it was decoded from (R14). -/
  mask : Nat
  /-- DISC (R12). -/
  disc : Bool
  /-- TAG of the entry. -/
  tag : W
  /-- Bytes of the payload already written to the host (R62). -/
  written : Nat
  /-- TransportId of the MOT object whose reassembly buffer stages it (R189). -/
  mot : Option (BitVec 16)
  /-- GEN of the context when the unit was produced (R20). -/
  gen : Byte
  /-- KIND of the context when the unit was produced. -/
  kind : BitVec 4
  /-- Data ring of the context's ROUTE when the unit was produced. -/
  ring : Fin 32
  deriving DecidableEq, Repr

/-- An entry of the service context table (01_architecture.md) with what its runner keeps for it. -/
structure Ctx where
  /-- STATE. -/
  st : CtxState := .free
  /-- GEN (R20: 0 after every reset). -/
  gen : Byte := 0
  /-- KIND. -/
  kind : BitVec 4 := 0
  /-- RUNNER. -/
  runner : Fin 32 := 0
  /-- COMPONENT. -/
  component : W := 0
  /-- DECODER; 31 when none. -/
  decoder : BitVec 5 := 31
  /-- ROUTE. -/
  route : Byte := 0
  /-- FOLLOW. -/
  follow : Bool := false
  /-- DELAY in KiB. -/
  delay : BitVec 16 := 0
  /-- Units delivered, DISC marks, units dropped. -/
  delivered : W := 0
  /-- Units that carried DISC (SVC_STATUS, R165). -/
  discs : W := 0
  /-- Units dropped (SVC_STATUS, R165). -/
  dropped : W := 0
  /-- SEQ of the next unit (the table before R62). -/
  seq : W := 0
  /-- Units lost since the last delivery, and whether DISC is due (R12). -/
  lost : Nat := 0
  /-- The next delivery carries DISC (R12). -/
  discDue : Bool := false
  /-- Units held in data staging, oldest first. -/
  staged : List Unit1 := []
  /-- The SVC_OPEN that waits in OPENING, by its fetch (R23, R165). -/
  openSlot : Option Nat := none
  /-- The SVC_CLOSEs that wait, by their fetches (R23). -/
  closeSlot : List Nat := []
  /-- A shadow of the Fantail (R218) and the followed context it serves. -/
  shadowOf : Option (Fin 256) := none
  /-- The component is resolved and its logical frames complete (R184, R211). -/
  resolved : Bool := false
  /-- The mismatch of R184 has been reported. -/
  mismatch : Bool := false
  /-- Consecutive audio frames that failed (R187), and frames concealed or muted since the last source 43. -/
  concealed : Nat := 0
  /-- Frames concealed or muted since the last source 43 (R195). -/
  errSince : Nat := 0
  /-- MOT objects in reassembly (R189). -/
  mot : List MotObj := []
  /-- The directory received last: the MOT header of each TransportId that it names (R189). -/
  motDir : List (BitVec 16 × List Byte) := []
  /-- The data group in assembly: its bytes, TIMESTAMP, and the continuity index of its last packet (R188, R212). -/
  group : Option (List Byte × D × Nat) := none
  /-- Logical or multiplex frames still not delivered after a reconfiguration (R180, R207). -/
  skip : Nat := 0
  /-- The last audio frame that passed, as it was put out (R187). -/
  pcm : List (Int × Int) := []
  /-- What the rate converters of either channel hold (R185). -/
  conv : List Int × List Int := ([], [])
  /-- Audio frames since the last move into RUNNING, while the fade-in runs (R145, R171). -/
  fadeIn : Nat := 0
  /-- TIMESTAMP of the last audio unit (R149). -/
  unitTs : D := 0
  /-- The delay line of a followed context or a shadow (R235, R236, R242): frames, oldest first; `none` where a gap of the playing stream
  lies. -/
  line : List (Option (Int × Int)) := []
  deriving DecidableEq, Repr

/-- A queued or running check of a probe runner (R162). -/
structure ProbeCheck where
  /-- Frequency to check (R162). -/
  freq : W
  /-- TAG of the request (R162). -/
  tag : Byte
  /-- CONFIRM: the check ends at once on a PI (R162). -/
  confirm : Bool
  /-- Dwell (R162). -/
  dwell : Nat
  /-- Level floor (R162). -/
  floor : Int
  deriving DecidableEq, Repr

/-- An AF list in collection (R159): the number of frequencies that its count code announced, the frequency beside that code, and the
pairs of codes received since. -/
structure AfAcc where
  /-- Announced number of frequencies. -/
  count : Nat
  /-- Code beside the count code. -/
  first : Byte
  /-- Pairs received since. -/
  pairs : List (Byte × Byte)
  deriving DecidableEq, Repr

/-- Another network heard by EON (R159, RDS_STATE): PI(ON), TP, TA, PTY, PS and AF list. -/
structure EonNet where
  /-- PI(ON). -/
  pi : BitVec 16
  /-- TP(ON). -/
  tp : Bool
  /-- TA(ON). -/
  ta : Bool
  /-- PTY(ON). -/
  pty : Byte
  /-- PS(ON). -/
  ps : List Byte
  /-- AF list of the network. -/
  af : List (BitVec 16)
  /-- The AF list of the network in collection (R159). -/
  afAcc : Option AfAcc
  /-- Device time at which it was last heard. -/
  heard : D
  deriving DecidableEq, Repr

/-- A stored AF list (R159): method 1 A or 2 B, tuning frequency, entries, device time of its last update. -/
structure AfList where
  /-- 1 for method A, 2 for method B. -/
  method : Fin 3
  /-- Tuning frequency, as an AF entry (R160). -/
  tuning : BitVec 16
  /-- Entries of the list (R160). -/
  entries : List (BitVec 16)
  /-- Device time of its last update. -/
  stamp : D
  deriving DecidableEq, Repr

/-- The RDS state of an FM runner (R153 to R160). -/
structure RdsState where
  /-- Block synchronisation of streams 0 to 3. -/
  sync : BitVec 4 := 0
  /-- The zero-syndrome blocks seen out of synchronisation, per stream: number of the first bit, offset, information word (R154). -/
  seen : Vector (List (Nat × RdsOffset × BitVec 16)) 4 := Vector.replicate 4 []
  /-- In synchronisation, the number of the next block's first bit (R154). -/
  pos : Vector Nat 4 := Vector.replicate 4 0
  /-- RF instant of the first bit of block 1 of the group in progress (R157). -/
  start : Vector D 4 := Vector.replicate 4 0
  /-- The last 25 block outcomes of each stream, true for uncorrectable (R154). -/
  hist : Vector (List Bool) 4 := Vector.replicate 4 []
  /-- The last 100 block outcomes of each stream (R164). -/
  bler : Vector (List Bool) 4 := Vector.replicate 4 []
  /-- The blocks of the group in progress: information word, and status, with 4 for an offset C' and 8 for an offset E. -/
  group : Vector (List (BitVec 16 × Nat)) 4 := Vector.replicate 4 []
  /-- Group counter of each stream (R157). -/
  groups : Vector (BitVec 16) 4 := Vector.replicate 4 0
  /-- Provisional PI. -/
  prov : Option (BitVec 16) := none
  /-- Confirmed PI. -/
  pi : Option (BitVec 16) := none
  /-- A new PI seen once with status 0 (R156 Changed). -/
  newPi : Option (BitVec 16) := none
  /-- Pairs of PS whose last reception had status 0 or 1, and PS as accepted (R159). -/
  psOnce : Vector (Option (Byte × Byte)) 4 := Vector.replicate 4 none
  /-- PS as accepted, by pair of characters (R159). -/
  ps : Vector (Option (Byte × Byte)) 4 := Vector.replicate 4 none
  /-- PTY as accepted (R159). -/
  pty : BitVec 5 := 0
  /-- TP as accepted (R159). -/
  tp : Bool := false
  /-- TA as accepted (R159). -/
  ta : Bool := false
  /-- MS as accepted (R159). -/
  ms : Bool := false
  /-- CT: UTC seconds, offset, and device time of the last accepted CT. -/
  ct : Option (W × Int × D) := none
  /-- AF lists by index. -/
  af : List AfList := []
  /-- The AF list in collection (R159). -/
  afAcc : Option AfAcc := none
  /-- AF lists that streams 1 to 3 carry, merged, and the list in collection on each (R221). -/
  afMore : List AfList := []
  /-- The AF list in collection on each of streams 1 to 3 (R221). -/
  afAccMore : Vector (Option AfAcc) 4 := Vector.replicate 4 none
  /-- Other networks heard on streams 1 to 3 (R221). -/
  eonMore : List EonNet := []
  /-- Other networks by index. -/
  eon : List EonNet := []
  /-- Bulletin segment in collection per stream, with the group counter that comes next (R258). -/
  seg : Vector (List Byte × Option (BitVec 4)) 4 := Vector.replicate 4 ([], none)
  /-- Assignments of open-data applications seen: stream, AID, group type (R158). -/
  oda : List (Fin 4 × BitVec 16 × BitVec 5) := []
  deriving DecidableEq, Repr

/-- What one 1 ms tick of an FM or AM runner leaves for the means of R164: the measurements, and the controls in force. -/
structure FmTick where
  /-- The measurements of the tick. -/
  m : RunnerMetrics
  /-- Soft-mute attenuation in 2^-16 dB. -/
  mute : Nat
  /-- High-cut corner in 2^-16 Hz. -/
  corner : Nat
  /-- Separation in 2^-16. -/
  sep : Nat
  deriving DecidableEq, Repr

/-- An FM or AM runner's reception state (R143 to R164). -/
structure FmState where
  /-- Settings in force, and the settings that take effect at the next 1 ms boundary (R165): bytes 25 on of the command. -/
  cfg : List Byte := []
  /-- Settings that take effect at the next 1 ms boundary (R165). -/
  next : Option (List Byte) := none
  /-- The pilot counts as present (R146). -/
  pilot : Bool := false
  /-- The last 100 metrics ticks, newest first (R146, R151, R164). -/
  hist : List FmTick := []
  /-- Ticks since the runner last began to acquire (R151). -/
  since : Nat := 0
  /-- q of R147 in 1/8 dB. -/
  q : Int := 0
  /-- The soft-mute attenuation in force, in 2^-16 dB (R147). -/
  mute : Nat := 0
  /-- The high-cut corner in force, in 2^-16 Hz (R147). -/
  corner : Nat := 15000 * 65536
  /-- The stereo separation in force, in 2^-16 (R147). -/
  sep : Nat := 0
  /-- Milliseconds since the pilot became present, while the blend ramps from mono to stereo (R147). -/
  pilotRamp : Option Nat := none
  /-- What the audio filters hold: high-cut, deemphasis and resampler of either channel; on AM the DC blocker and the interpolator. -/
  filt : List Int × List Int := ([], [])
  /-- What the RDS decoder holds (R153 to R160). -/
  rds : RdsState := {}
  /-- Lent as a probe runner (R161). -/
  lent : Bool := false
  /-- Queue of checks, the first one running (R162). -/
  probes : List ProbeCheck := []
  /-- Some leg has had input that is not substituted during the running check (R163). -/
  probeInput : Bool := false
  /-- Device time at which the running check began. -/
  probeStart : D := 0
  /-- Level measured by the running check (R162). -/
  probeLevel : Int := 0
  deriving DecidableEq, Repr

/-- A subchannel as FIG 0/1 describes it (R174, R194). -/
structure DabSub where
  /-- SubChId. -/
  id : Fin 64
  /-- The long form of FIG 0/1. -/
  longForm : Bool
  /-- Short-form table index, or long-form option. -/
  tableIx : Byte
  /-- Protection level. -/
  prot : Byte
  /-- Start in CUs. -/
  startCu : Nat
  /-- Size in CUs. -/
  sizeCu : Nat
  /-- Bit rate in kbit/s. -/
  kbps : Nat
  deriving DecidableEq, Repr

/-- A component in FIG 0/2 (R174). -/
structure DabPart where
  /-- TMId. -/
  tmid : Byte
  /-- ASCTy or DSCTy; 0 for a packet component. -/
  type : Byte
  /-- SubChId of a stream component, SCId of a packet component. -/
  id : Nat
  /-- Primary component. -/
  primary : Bool
  /-- CA flag. -/
  ca : Bool
  deriving DecidableEq, Repr

/-- A packet component in FIG 0/3 (R174). -/
structure DabPacket where
  /-- SCId. -/
  scid : Nat
  /-- DSCTy. -/
  dscty : Byte
  /-- SubChId. -/
  subch : Nat
  /-- Packet address. -/
  paddr : Nat
  deriving DecidableEq, Repr

/-- A multiplex organisation (R174, R180): what FIGs 0/1, 0/2, 0/3 and 0/8 say of it. -/
structure DabOrg where
  /-- Subchannels (FIG 0/1). -/
  subs : List DabSub := []
  /-- Components of each SId (FIG 0/2). -/
  services : List (W × List DabPart) := []
  /-- Packet components (FIG 0/3). -/
  packets : List DabPacket := []
  /-- The SCIdS of a service's component (FIG 0/8): SId, SCIdS, whether it is named by SCId, and the SCId or SubChId. -/
  links : List (W × Byte × Bool × Nat) := []
  deriving DecidableEq, Repr

/-- A component as the database describes it (R174, R194): the fields of a component record. -/
structure DabComp where
  /-- SId. -/
  sid : W
  /-- SCIdS. -/
  scids : Byte
  /-- TMId. -/
  tmid : Byte
  /-- ASCTy or DSCTy. -/
  ascty : Byte
  /-- SubChId. -/
  subch : Byte
  /-- SCId. -/
  scid : BitVec 16
  /-- Packet address. -/
  paddr : BitVec 16
  /-- Primary component. -/
  primary : Bool
  /-- CA flag. -/
  ca : Bool
  deriving DecidableEq, Repr

/-- A stored CIF (R177, R180): its timestamp, the organisation in which it was sent, its soft values, and the symbols of it for which no
leg contributed. -/
structure CifRec where
  /-- Capture timestamp. -/
  ts : D
  /-- Subchannels in force. -/
  subs : List DabSub
  /-- Soft values, -7 to 7, 0 for erasure. -/
  soft : List Int
  /-- Symbols without a contributing leg (R173). -/
  erased : List Nat
  deriving DecidableEq, Repr

/-- What one frame leaves for the means of R192. -/
structure DabTick where
  /-- Power of each position, in 0.01 dBm at the RF_INn pin. -/
  powers : List Int
  /-- Combined SNR in 0.25 dB. -/
  snr : Nat
  /-- FIC channel bit error ratio in 0.05 %. -/
  ficBer : Nat
  /-- Echo power in 0.5 dB. -/
  echo : Nat
  /-- Carrier offset in Hz. -/
  offset : Int
  /-- Delay spread in 0.1 µs. -/
  spread : Nat
  /-- SNR of each position in 0.25 dB. -/
  legSnr : List Nat
  deriving DecidableEq, Repr

/-- A DAB runner's state (R168 to R194). -/
structure DabState where
  /-- FULL, CONCEAL, FIC_TIMEOUT, MOT_TIMEOUT (R193), and the setting due at the next CIF. -/
  full : Bool := true
  /-- CONCEAL (R193). -/
  conceal : Nat := 3
  /-- FIC_TIMEOUT in s (R193). -/
  ficTimeout : Nat := 30
  /-- MOT_TIMEOUT in s (R193). -/
  motTimeout : Nat := 60
  /-- Setting that takes effect at the next CIF (R193). -/
  next : Option (List Byte) := none
  /-- Frame timing is found (R171 step 2). -/
  timing : Bool := false
  /-- Consecutive frames whose PRS correlated, and that failed (R169). -/
  prsOkRun : Nat := 0
  /-- Consecutive frames whose PRS did not correlate (R169). -/
  prsBadRun : Nat := 0
  /-- A FIB has passed since frame timing was found; consecutive frames without one (R169). -/
  fibSeen : Bool := false
  /-- Consecutive frames without a FIB that passed (R169). -/
  noFibRun : Nat := 0
  /-- RF instant of the last frame received, for the FIBs of frames that never came (R191). -/
  lastFrame : Option D := none
  /-- Capture timestamp of the last CIF received (R191). -/
  lastTs : Option D := none
  /-- CIFs stored since step 2 of R171 (R177), at most 16 counted. -/
  stored : Nat := 0
  /-- The ring of 16 CIFs, newest first (R177). -/
  ring : List CifRec := []
  /-- Capture timestamps of the last 64 CIFs, newest first (R185, R188). -/
  stamps : List D := []
  /-- Null-symbol powers of the last 8 frames, newest first: position, carrier (R172). -/
  nulls : List (List (List Nat)) := []
  /-- The EId, when known, and the EId on which lock was held (R193). -/
  eid : Option (BitVec 16) := none
  /-- The EId on which lock was held last (R193). -/
  lockedEid : Option (BitVec 16) := none
  /-- A WIN_TUNE has changed the frequency, and which ensemble it carries is not yet known (R170). -/
  retuned : Bool := false
  /-- Database (R174, R194). -/
  complete : Bool := false
  /-- The database met more components than it has handles (R175). -/
  overflow : Bool := false
  /-- Ensemble label, once received (R194). -/
  label : Option (List Byte) := none
  /-- Character set of the label (R194). -/
  charset : Byte := 0
  /-- Extended country code (R194). -/
  ecc : Byte := 0
  /-- Local time offset (R194). -/
  lto : Byte := 0
  /-- UTC of FIG 0/10: seconds and milliseconds (R194). -/
  utc : Option (W × BitVec 16) := none
  /-- CIF count of the last CIF (R194). -/
  cifCount : BitVec 16 := 0
  /-- The current organisation (R174). -/
  org : DabOrg := {}
  /-- What FIGs marked "next" say (R174, R180). -/
  nextOrg : DabOrg := {}
  /-- Component records by handle (R175, R182, R194). -/
  comps : List (Byte × DabComp) := []
  /-- Handles whose component is absent at present: handle, SId, SCIdS (R175). -/
  kept : List (Byte × W × Byte) := []
  /-- Labels of services: SId, label, character set, short-label mask (FIG 1/1, 1/5). -/
  labels : List (W × List Byte × Byte × BitVec 16) := []
  /-- Labels of components: SId and SCIdS, label, character set (FIG 1/4). -/
  compLabels : List ((W × Byte) × List Byte × Byte) := []
  /-- First user application type of a component: SId, SCIdS, type (FIG 0/13). -/
  uapps : List ((W × Byte) × BitVec 16) := []
  /-- Subchannels with FEC scheme 1 (FIG 0/14). -/
  fec : List (Fin 64) := []
  /-- Programme types of services (R174). -/
  ptys : List (W × Byte) := []
  /-- Announcement support of services (R174). -/
  announce : List (W × BitVec 16) := []
  /-- Clusters whose announcement runs (FIG 0/19). -/
  switching : List Byte := []
  /-- Subchannels in DAB+ superframe synchronisation, with consecutive failed fire codes and the logical frames since the last start
  (R186). -/
  superSync : List (Fin 64 × Nat × Nat) := []
  /-- What the outer code of a packet subchannel with FEC scheme 1 holds (R179). -/
  outer : List (Fin 64 × List Byte) := []
  /-- Channel bit error ratio of each subchannel in 0.05 % (R178). -/
  ber : List (Fin 64 × Byte) := []
  /-- Reconfiguration pending: the count of the CIF at which it takes place (R180). -/
  reconf : Option (BitVec 16) := none
  /-- The last 4 frames, newest first (R192). -/
  ticks : List DabTick := []
  /-- Outcomes of the last FIBs, newest first (R192). -/
  fibHist : List Bool := []
  /-- Positions that have contributed since the last frame end, and that contributed to the last frame (R172, R192). -/
  contribNow : Nat := 0
  /-- Positions that contributed to the last frame (R192). -/
  contrib : Nat := 0
  /-- FIC_TIMEOUT has been reported (R176). -/
  timeoutRaised : Bool := false
  deriving DecidableEq, Repr

/-- A cell of the DRM store: 6-bit I, 6-bit Q and 4-bit channel state, 0 for erasure (R204). -/
abbrev DrmCell := BitVec 6 × BitVec 6 × BitVec 4

/-- What a DRM runner keeps of a leg (R200, R201). -/
structure DrmLeg where
  /-- Consecutive symbols in which the leg is unmarked, at most 4 counted. -/
  clean : Nat := 4
  /-- Gain reference cells received while it was unmarked, newest symbol first: carrier, value received, value known. -/
  gains : List (List (Nat × IQ × IQ)) := []
  deriving DecidableEq, Repr

/-- What one frame leaves for the means of R213. -/
structure DrmTick where
  /-- Power of each position, in 0.01 dBm at the RF_INn pin. -/
  powers : List Int
  /-- Combined MER in 0.25 dB. -/
  mer : Nat
  /-- Weighted MER in 0.25 dB. -/
  wmer : Nat
  /-- Carrier offset in Hz. -/
  offset : Int
  /-- Delay spread in 0.05 ms. -/
  spread : Nat
  /-- Doppler spread in 0.1 Hz. -/
  doppler : Nat
  /-- MER of each position in 0.25 dB. -/
  legMer : List Nat
  deriving DecidableEq, Repr

/-- A DRM runner's state (R196 to R215). -/
structure DrmState where
  /-- MODES, CONCEAL, MOT_TIMEOUT (R214), and the setting due at the next frame. -/
  modes : BitVec 4 := 15
  /-- CONCEAL (R214). -/
  conceal : Nat := 3
  /-- MOT_TIMEOUT in s (R214). -/
  motTimeout : Nat := 60
  /-- Setting that takes effect at the next frame (R214). -/
  next : Option (List Byte) := none
  /-- Robustness mode found, with frame timing (R197). -/
  mode : Option (Fin 5) := none
  /-- Consecutive frames whose time reference did not correlate (R198). -/
  timeBadRun : Nat := 0
  /-- Consecutive frames whose FAC failed (R198). -/
  facBadRun : Nat := 0
  /-- Capture timestamp of the last frame received (R209). -/
  lastTs : Option D := none
  /-- Capture timestamps of the last 64 frames, newest first (R206, R212). -/
  stamps : List D := []
  /-- Frames stored since step 2 of R199 (R204). -/
  stored : Nat := 0
  /-- The cell store: frames, newest first, at most 6; symbols; cells (R204). -/
  cells : List (List (List DrmCell)) := []
  /-- The legs by position (R200, R201). -/
  legs : Vector DrmLeg 4 := Vector.replicate 4 {}
  /-- A FAC has passed since frame timing was found (R202). -/
  facValid : Bool := false
  /-- A complete SDC has been received since lock (R203). -/
  sdcComplete : Bool := false
  /-- Lock has been held since the runner became active (R198). -/
  everLocked : Bool := false
  /-- Spectrum occupancy of the FAC (R202). -/
  so : Byte := 0
  /-- Long interleaving (R202). -/
  longIl : Bool := false
  /-- MSC constellation (R202). -/
  mscQam : Byte := 0
  /-- SDC constellation (R202). -/
  sdcQam : Byte := 0
  /-- Number of audio services (R202). -/
  nAudio : Byte := 0
  /-- Number of data services (R202). -/
  nData : Byte := 0
  /-- Reconfiguration index of the FAC (R202, R207). -/
  reconf : Byte := 0
  /-- Short IDs of the services that the FAC lists (R202). -/
  listed : List (Fin 4) := []
  /-- A reconfiguration is pending (R207). -/
  pendingReconf : Bool := false
  /-- The next configuration, once it has arrived: service and stream records (R207). -/
  nextConf : Option (List (Fin 4 × List Byte) × List (Fin 4 × List Byte)) := none
  /-- Service records of the SDC, by short ID (R203, R215). -/
  services : List (Fin 4 × List Byte) := []
  /-- Stream records of the SDC, by number (R203, R215). -/
  streams : List (Fin 4 × List Byte) := []
  /-- Services whose label has been received since lock (R203). -/
  labels : List (Fin 4) := []
  /-- Services whose audio or application information has been received since lock (R203). -/
  infos : List (Fin 4) := []
  /-- UTC seconds and local offset of SDC type 8. -/
  utc : Option (W × Byte) := none
  /-- The bytes of each stream in the last decoded frame (R205). -/
  decoded : List (Fin 4 × List Byte) := []
  /-- The last 4 frames, newest first (R213). -/
  ticks : List DrmTick := []
  /-- Outcomes of the last FACs, newest first (R213). -/
  facHist : List Bool := []
  /-- Outcomes of the last SDCs, newest first (R213). -/
  sdcHist : List Bool := []
  /-- Positions that contributed to the last frame (R200, R213). -/
  contrib : Nat := 0
  deriving DecidableEq, Repr

/-- A runner. -/
structure Runner where
  /-- The window that feeds it has released output (R143, R168, R196). -/
  active : Bool := false
  /-- Lock (R151, R169, R198). -/
  lock : Bool := false
  /-- Blocks that the window has delivered to it, and the marked ones among the last 16,384: number and leg mask (R14, R173, R201). -/
  blocks : Nat := 0
  /-- The marked blocks among the last 16,384. -/
  marks : List (Nat × Nat) := []
  /-- Window output samples of the gap in progress (R17), none while there is no gap. -/
  gap : Option Nat := none
  /-- DISC carried forward: lost count in window output samples (R15). -/
  carry : Nat := 0
  /-- Device times of the last degraded blocks, newest first, at most 255 (R16, R192). -/
  degraded : List D := []
  /-- What it holds as an FM or AM runner. -/
  fm : FmState := {}
  /-- What it holds as a DAB runner. -/
  dab : DabState := {}
  /-- What it holds as a DRM runner. -/
  drm : DrmState := {}
  deriving DecidableEq, Repr

/-- The service plane. -/
structure SvcBlk where
  /-- The service context table (R7). -/
  ctx : Vector Ctx 256 := Vector.replicate 256 {}
  /-- The 32 runners (R6, R142). -/
  run : Vector Runner 32 := Vector.replicate 32 {}
  deriving DecidableEq, Repr

/-! ### Fantail -/

/-- A candidate of a followed context (R221, R249). -/
structure Cand where
  /-- Standard of the candidate (R221, R249). -/
  std : Byte
  /-- Frequency (R249). -/
  freq : W
  /-- Identifier: PI, service ID or component (R222, R249). -/
  ident : W
  /-- Where it was heard of (R221, R249). -/
  origin : Byte
  /-- It is verified (R223). -/
  verified : Bool
  /-- Its shadow is aligned (R231). -/
  converged : Bool
  /-- The shadow's delay line is filled (R236). -/
  filled : Bool
  /-- It is linked by an equal identifier or a hard link (R222). -/
  hard : Bool
  /-- The host added it by FAN_CAND (R221). -/
  host : Bool
  /-- The host blocked it by FAN_CAND (R249). -/
  blocked : Bool
  /-- A check of a probe runner has seen its PI (R223). -/
  piSeen : Bool
  /-- Milliseconds until the last gap has passed the read point of its delay line (R242). -/
  gapAhead : Nat
  /-- Its alignment timed out, and RETRY has not passed (R234). -/
  retry : Bool
  /-- Its score (R225). -/
  score : Nat
  /-- Device time at which its signalling was last received (R221). -/
  stamp : D
  /-- Runner that demodulates it. -/
  runner : Option (Fin 32)
  /-- Where on that runner it is: subchannel, short ID or 0. -/
  locator : Byte
  /-- Its latest quality in 1/8 dB (R225). -/
  q : Int
  /-- Δ found by the estimator, in frames (R231, R236). -/
  lag : Int
  /-- Its level minus the outgoing stream's in 0.25 dB, over the last coarse segments (R238). -/
  level : Int
  /-- The shadow context that decodes it. -/
  shadow : Option (Fin 256)
  deriving DecidableEq, Repr

/-- A switch in progress (R238, R239). -/
structure Blend where
  /-- Candidate index of the incoming source. -/
  dest : Nat
  /-- It is a dip, not a blend (R239). -/
  dip : Bool
  /-- It has been reversed (R240). -/
  reversed : Bool
  /-- Device time at which it began. -/
  started : D
  /-- Its length in ms (R238, R239). -/
  ms : Nat
  /-- lvl in 0.25 dB (R238). -/
  lvl : Int
  /-- Shortened for a gap of the outgoing stream (R243). -/
  short : Bool
  /-- Frames mixed so far: its position; it falls while the blend runs back (R238, R244). -/
  pos : Nat
  /-- Frames until it starts (R241). -/
  wait : Nat
  deriving DecidableEq, Repr

/-- The Fantail's record of a followed context (R218 to R247). -/
structure Follow where
  /-- The candidate table (R221). -/
  cands : List (Option Cand) := []
  /-- The blend or dip in progress (R235 to R241). -/
  blend : Option Blend := none
  /-- q of the current source has stayed below TH for HOLD_BAD (R226). -/
  failed : Bool := false
  /-- A gap of the current source has reached the output since the last scoring tick (R226, R241). -/
  gapped : Bool := false
  /-- Score of the current source, and its q in 1/8 dB (R225). -/
  curScore : Nat := 0
  /-- q of the current source in 1/8 dB (R225). -/
  curQ : Int := 0
  /-- Source 51 CODE 0 has been raised and not cleared (R227). -/
  noCand : Bool := false
  /-- Candidate whose DWELL_GOOD has elapsed (R228). -/
  dwellOk : Option Nat := none
  /-- Device time at which the last blend or dip ended (R228). -/
  lastSwitch : Option D := none
  /-- Programmed delay of the playing stream in frames (R236, R237). -/
  delayFrames : Nat := 0
  /-- Blends frozen at their weights under the running one, newest first (R245). -/
  under : List Blend := []
  /-- What is left of lvl after a blend, in 1/48,000 dB: it moves toward 0 by one each frame (R238). -/
  gain : Int := 0
  deriving DecidableEq, Repr

/-- An alignment estimator (R230 to R234). -/
structure Estimator where
  /-- The shadow in work: followed context and candidate index. -/
  work : Option (Fin 256 × Nat) := none
  /-- The last coarse estimate that met the conditions of R231. -/
  coarse : Option Int := none
  /-- Coarse stage has converged (R232). -/
  fine : Bool := false
  /-- Consecutive fine estimates that fell short (R233). -/
  short : Nat := 0
  /-- The highest coarse peak of the attempt, and whether it lay near ±Lmax (R234). -/
  best : Nat := 0
  /-- The highest peak of the attempt lay near ±Lmax (R234). -/
  edge : Bool := false
  deriving DecidableEq, Repr

/-- What a DAB or DRM runner passes to the Fantail (R174, R202): the bytes of a FIG after its header, an SDC entity, or a service identifier
of the FAC. -/
inductive Heard where
  | fig (b : List Byte) | sdc (b : List Byte) | fac (b : List Byte)
  deriving DecidableEq, Repr

/-- What an identifier is in its standard (R221). -/
inductive IdKind where
  | pi | sid | drm
  deriving DecidableEq, Repr

/-- A linkage set (FIG 0/6, R221, R222): the runner that received it, its number, hard or soft, its identifiers, device time of the last
reception. -/
structure LinkSet where
  runner : Fin 32
  lsn : Nat
  hard : Bool
  ids : List (IdKind × W)
  stamp : D
  deriving DecidableEq, Repr

/-- Frequencies in Hz of an identifier (FIG 0/21, R221): an EId for DAB, with the standard as R249 codes it. -/
structure FreqSet where
  runner : Fin 32
  std : Byte
  id : W
  freqs : List W
  stamp : D
  deriving DecidableEq, Repr

/-- The other ensembles that carry a service (FIG 0/24, R221). -/
structure OtherSet where
  runner : Fin 32
  sid : W
  eids : List W
  stamp : D
  deriving DecidableEq, Repr

/-- FAN block (08_following.md). -/
structure FanBlk where
  /-- FAN.CTL. -/
  ctl : W := 0x000F0401
  /-- FAN.GRANT_RUN. -/
  grantRun : W := 0
  /-- FAN.SWITCHES. -/
  switches : W := 0
  /-- FAN_POLICY bytes 24 to 55 in force (R247, FAN.POLICY). -/
  policy : List Byte := [0x0A, 0x1E, 0x0C, 0x1E, 0x06, 0x10, 0x0C, 0x16, 0x00, 0x00, 0x14, 0x0A, 0x14, 0x0A, 0xD0, 0x07,
    0x88, 0x13, 0xFA, 0x00, 0x00, 0x00, 0x1E, 0x04, 0x3C, 0x14, 0x3C, 0x02, 0x14, 0x1F, 0x00, 0x00]
  /-- A FAN_POLICY that takes effect at the next scoring tick (R247). -/
  nextPolicy : Option (List Byte) := none
  /-- FIGs 0/6, 0/21 and 0/24, SDC entities of types 3, 4, 7 and 11 and the FAC's service identifiers, passed on as they were received,
  with the runner, until the next scoring tick takes them (R174, R202, R221). -/
  heard : List (Fin 32 × Heard) := []
  /-- Linkage sets (R221, R222). -/
  links : List LinkSet := []
  /-- Frequencies on which identifiers are carried (R221). -/
  freqs : List FreqSet := []
  /-- Other ensembles that carry a service (R221). -/
  others : List OtherSet := []
  /-- SDC entities of types 3, 4 and 11 as received last: runner, entity, device time (R221). -/
  sdcs : List (Fin 32 × List Byte × D) := []
  /-- Frequencies that the Fantail has queued for a probe check, with the device time (R223). -/
  probed : List (W × D) := []
  /-- The record of every context; used while FOLLOW is set. -/
  follow : Vector Follow 256 := Vector.replicate 256 {}
  /-- The four estimators. -/
  est : Vector Estimator 4 := Vector.replicate 4 {}
  deriving DecidableEq, Repr

/-! ### Bulletins -/

/-- A record of the bulletin store (R262, R270). -/
structure BulRec where
  /-- 0 FREE, 1 NEW, 2 READ, 3 RELEASED. -/
  st : BitVec 2 := 0
  /-- Kind of the bulletin (R254). -/
  kind : Byte := 0
  /-- PENDING: NOT_BEFORE lies ahead (R261, R262). -/
  pending : Bool := false
  /-- UNCHECKED: accepted without an RTC (R261). -/
  unchecked : Bool := false
  /-- The wake it asks for has been raised (R265). -/
  wakeRaised : Bool := false
  /-- Transport it came by (R262). -/
  transport : Byte := 0
  /-- Its SEQ (R254). -/
  seq : W := 0
  /-- RTC time at which it was accepted (R262). -/
  acceptedAt : W := 0
  /-- The bulletin as stored (R254, R262). -/
  bytes : List Byte := []
  deriving DecidableEq, Repr

/-- A reassembly buffer (R260): key, filled 128-byte units, bytes, order of its first segment. -/
structure Reasm where
  /-- Kind of the bulletin in collection. -/
  kind : Byte
  /-- Its SEQ. -/
  seq : W
  /-- Its length in bytes. -/
  total : Nat
  /-- The 128-byte units that have arrived. -/
  units : List Nat
  /-- Bytes received: offset and bytes. -/
  data : List (Nat × List Byte)
  /-- Device time of its first segment. -/
  first : D
  /-- Transport of its first segment. -/
  transport : Byte
  deriving DecidableEq, Repr

/-- Bulletin state (09_bulletins.md): MRAM store, keys and counters; the reassembly buffers lie in the keep region. -/
structure BulBlk where
  /-- Fleet ID (NV); DESIGN CHOICE before the first BUL_CFG, log 5. -/
  fleetId : D := 0
  /-- WAKE_MASK, default 0xF. -/
  wakeMask : BitVec 4 := 0xF
  /-- Operator key slots 0 and 1 (R252). -/
  keys : Vector (Option (List Byte)) 2 := Vector.replicate 2 none
  /-- Operator key lock. -/
  keysLocked : Bool := false
  /-- Rollback counters of kinds 1 to 4. -/
  ctr : Vector W 4 := Vector.replicate 4 0
  /-- The store: 128 records. -/
  store : Vector BulRec 128 := Vector.replicate 128 {}
  /-- The two reassembly buffers (R260). -/
  reasm : Vector (Option Reasm) 2 := Vector.replicate 2 none
  /-- BUL_WATCH settings (R266, R269): bytes 24 to 47. -/
  watchEn : Bool := false
  /-- Antenna of the reception windows. -/
  watchAnt : Byte := 0
  /-- Preset of the reception windows. -/
  watchPreset : Byte := 0
  /-- Runner of the reception windows. -/
  watchRunner : Byte := 0
  /-- Frequency of the reception windows. -/
  watchFreq : W := 0
  /-- COMPONENT of the reception windows. -/
  watchComp : W := 0
  /-- Period in s. -/
  watchPeriod : BitVec 16 := 900
  /-- Length of a window in s. -/
  watchLength : BitVec 16 := 20
  /-- Anchor time. -/
  watchAnchor : W := 0
  /-- Steps of the reception window in progress (R267): 0 none, 1 prepared, 2 fed, 3 open. -/
  winStep : BitVec 2 := 0
  deriving DecidableEq, Repr

/-! ### Tailrace -/

/-- A TDM port (R273 to R282). -/
structure Port where
  /-- SLOTS, 1 to 16 (R274). -/
  slots : Nat := 0
  /-- WIDTH code (R275). -/
  width : BitVec 2 := 0
  /-- FORMAT byte: frame sync and edges (R274, R297). -/
  format : Byte := 0
  /-- The port whose pins give its clock, or its own (R276). -/
  clksrc : Fin 4 := 0
  /-- The port has been set up by AUD_PORT. -/
  setUp : Bool := false
  /-- AUD.PORT_STAT.STATE: 0 stopped, 1 waiting for EVL, 2 qualifying, 3 running, 4 clock lost. -/
  st : BitVec 3 := 0
  /-- Event line of a start that waits for a pulse (R297). -/
  evl : Fin 64 := 0
  /-- Masks in force. -/
  tx : BitVec 16 := 0
  /-- Receive mask in force (R282). -/
  rx : BitVec 16 := 0
  /-- Masks and maps that take effect at the next frame boundaries, in order: command slot and new masks (R282). -/
  nextMasks : List (Nat × Option (BitVec 16) × Option (BitVec 16)) := []
  /-- Slot sources of R273. -/
  slotmap : List Byte := List.replicate 16 0xFF
  /-- Slot maps that take effect at the next frame boundaries: command slot and map (R282). -/
  nextMap : List (Nat × List Byte) := []
  /-- A stop or pulse start that takes effect at the next frame boundary. -/
  stopping : Bool := false
  /-- A start by pulse that takes effect at the next frame boundary (R297). -/
  starting : Bool := false
  /-- Consecutive frames with a wrong BCLK count (R277). -/
  wrong : Nat := 0
  /-- Consecutive frames with the right BCLK count, at most 32 (R277). -/
  good : Nat := 0
  /-- Frames since transmission resumed after a clock loss, while its ramps run (R278). -/
  ramp : Option Nat := none
  deriving DecidableEq, Repr

/-- What the ports of a group transmit in a frame: the words of their slots, none where a slot is at high impedance (R274). -/
abbrev TxFrame := List (Fin 4 × List (Option W))

/-- What the ports of a group, or the microphones, receive in a frame: capture queue, mask in force, active words (R282, R283). -/
abbrev RxFrame := List (Fin 12 × BitVec 16 × List W)

/-- A frame in a slip line (R279). -/
structure LineFrame where
  /-- Internal frame count at which it entered. -/
  n : W
  /-- Sum of the squares of the 16 most significant bits of its active slots. -/
  energy : Nat
  /-- What it transmits. -/
  tx : TxFrame
  /-- What it received. -/
  rx : RxFrame
  deriving DecidableEq, Repr

/-- A port group (R276 to R280). -/
structure Group where
  /-- The group's external clock is qualified (R277). -/
  qualified : Bool := false
  /-- The clock has been lost and not qualified since. -/
  lost : Bool := false
  /-- Offset of the external clock, in ppm (R277, R298). -/
  ppm : Int := 0
  /-- The slip line: the last 480 frames, oldest first (R279). -/
  line : List LineFrame := []
  /-- The transmit FIFO between the slip line and the pins, oldest first (R279); its length is AUD.GRP_STAT.FILL. -/
  txFifo : List TxFrame := []
  /-- Received frames between the pins and the slip line, oldest first. -/
  rxFifo : List RxFrame := []
  /-- Internal frames in a row in which no frame came at the group's pins (R277). -/
  quiet : Nat := 0
  /-- A slip pending: true when the external clock is slower, and the chosen frame (R279). -/
  slip : Option (Bool × W) := none
  /-- The slip acts on the next frame (R279). -/
  slipNow : Option Bool := none
  deriving DecidableEq, Repr

/-- A fade in progress. -/
inductive FadeSt where
  | off | playing | fadingOut | silent | rampingUp
  deriving DecidableEq, Repr

/-- A microphone's decimation (R294) and the run of its data (R296). -/
structure Mic where
  /-- Stages 2 to 5. -/
  chain : Chain := {}
  /-- What the 20 Hz high-pass holds. -/
  hp : List Int := []
  /-- The last PDM bit, and how many bits in a row have had its value, at most 3,072, which is 1 ms. -/
  last : Bool := false
  /-- Bits in a row with that value, at most 3,072. -/
  run : Nat := 0
  deriving DecidableEq, Repr

/-- An audio queue (R283, R286, R290, R291). -/
structure Queue where
  /-- EN of AUD_QUEUE (R297). -/
  en : Bool := false
  /-- EVL_OUT of AUD_QUEUE (R291). -/
  evlOut : Fin 64 := 0
  /-- EVL_IN of AUD_QUEUE (R291). -/
  evlIn : Fin 64 := 0
  /-- Frames in a block (R290). -/
  p : Nat := 0
  /-- Blocks in the ring (R290). -/
  b : Nat := 0
  /-- FADE of AUD_QUEUE, in ms (R284). -/
  fade : Nat := 5
  /-- Address of the ring's first block (R290). -/
  addr : W := 0
  /-- Running state; AUD.Q_STAT.STATE. -/
  st : FadeSt := .off
  /-- Blocks held by the Tailrace (AUD.Q_STAT.BLOCKS). -/
  blocks : Nat := 0
  /-- Index of the block in use, frames of it done, and frames into the fade or ramp in progress. -/
  cur : Nat := 0
  /-- Frames of the block done. -/
  pos : Nat := 0
  /-- Frames into the fade or ramp in progress (R284). -/
  fadePos : Nat := 0
  /-- SEQ of the next capture block. -/
  seq : W := 0
  /-- FLAGS and DISCARDED for the block in use. -/
  flags : BitVec 16 := 0
  /-- DISCARDED for the block in use (R291). -/
  discarded : Nat := 0
  /-- FRAME0 of the block in use. -/
  frame0 : W := 0
  /-- Mask of the block in use. -/
  mask : BitVec 16 := 0
  /-- Frames silenced or discarded since the fade-out (R298). -/
  silenced : Nat := 0
  deriving DecidableEq, Repr

/-- An output stream (R284 to R289). -/
structure Stream where
  /-- FADE, in ms (R284). -/
  fade : Nat := 5
  /-- Running state; AUD.STREAM_STAT.STATE (R284). -/
  st : FadeSt := .off
  /-- Frames in the playout buffer, oldest first, left and right. -/
  frames : List (W × W) := []
  /-- Frames into the fade or ramp in progress. -/
  fadePos : Nat := 0
  /-- The buffer plays out because its context was closed (R287). -/
  closing : Bool := false
  /-- Frames silenced since the fade-out (R298). -/
  silenced : Nat := 0
  deriving DecidableEq, Repr

/-- An AUD_PDM that takes effect at the next frame: microphones, GAIN, option byte, EN (R297). -/
structure PdmSet where
  /-- Microphones it addresses (R293). -/
  mask : Byte
  /-- GAIN (R297). -/
  gain : Byte
  /-- Option byte: high-pass and SWAP (R293, R297). -/
  opt : Byte
  /-- EN (R297). -/
  en : Bool
  deriving DecidableEq, Repr

/-- AUD block (10_audio_ports.md). -/
structure AudBlk where
  /-- AUD.CTL. -/
  ctl : W := 5
  /-- The four TDM ports (R272). -/
  ports : Vector Port 4 := Vector.ofFn fun n => { clksrc := n }
  /-- The four external clock groups and the internal one (R276). -/
  groups : Vector Group 5 := Vector.replicate 5 {}
  /-- Queues 0 to 11; 5 to 7 do not exist. -/
  queues : Vector Queue 12 := Vector.replicate 12 {}
  /-- The 32 output streams (R284). -/
  streams : Vector Stream 32 := Vector.replicate 32 {}
  /-- Free pages of the delay pool (AUD.POOL.FREE). -/
  poolFree : Nat := 1984
  /-- Internal frame count since power-on reset (R290). -/
  frame : W := 0
  /-- Microphones enabled, stuck, GAIN, high-pass, SWAP (R293 to R296), and settings due at the next frame. -/
  pdmEn : Byte := 0
  /-- Microphones found stuck (R296). -/
  pdmStuck : Byte := 0
  /-- GAIN of each microphone (R297). -/
  pdmGain : Vector Byte 8 := Vector.replicate 8 0
  /-- Microphones with the high-pass filter on (R297). -/
  pdmHp : Byte := 0
  /-- SWAP of each data line (R293). -/
  pdmSwap : BitVec 4 := 0
  /-- Settings due at the next frame (R297). -/
  pdmNext : List PdmSet := []
  /-- Frames since each microphone was enabled or its data returned (R295), at most 2,005, and since it was found stuck (R296), at
  most 48. -/
  micAge : Vector Nat 8 := Vector.replicate 8 0
  /-- Frames since each microphone was found stuck (R296), at most 48. -/
  micFall : Vector Nat 8 := Vector.replicate 8 0
  /-- The microphones' chains. -/
  mics : Vector Mic 8 := Vector.replicate 8 {}
  /-- Consecutive PDM frames of 64 PDM_CLK periods, at most 32 (R277, R296). -/
  pdmGood : Nat := 0
  /-- What each port has transmitted in the last internal frame: the slots of each frame sent, none at high impedance (R274). -/
  txOut : Vector (List (List (Option W))) 4 := Vector.replicate 4 []
  deriving DecidableEq, Repr

/-! ### Access radio -/

/-- The packet in reception or held (R301 to R309). -/
structure RxPacket where
  /-- P_cur (R306). -/
  power : Nat
  /-- Bit errors of its access address (R300, R313). -/
  errs : Nat
  /-- PHY code (R300). -/
  phy : Byte
  /-- Channel index (R300). -/
  chan : Byte
  /-- Physical channel (R302). -/
  phys : PhysChan
  /-- Received through ACC_RF_B (R313). -/
  portB : Bool
  /-- TIMESTAMP, low 32 bits (R313). -/
  ts : W
  /-- Device time at which the last bit of its payload passes, low 32 bits, once its header is known (R307). -/
  payEnd : Option W := none
  /-- Its header check has passed (R302). -/
  headerOk : Bool
  /-- It took the receiver by capture (R307, R308). -/
  captured : Bool
  /-- It was a held sync that the receiver went on with (R304). -/
  adopted : Bool
  deriving DecidableEq, Repr

/-- A synthesiser table entry (R320, R323). -/
structure SynthEntry where
  /-- STATE: 0 EMPTY, 1 VALID, 2 STALE, 3 WORKING. -/
  st : BitVec 2 := 0
  /-- REF of the channel (R323). -/
  ref : BitVec 2 := 0
  /-- Device time of the calibration, from which AGE counts; none reads 255. -/
  born : Option D := none
  /-- Tj at its calibration (R320). -/
  temp : Int := 0
  /-- A failed hop waits for its retry as a cold hop (R322). -/
  retry : Bool := false
  /-- Excluded from all use (R322). -/
  excluded : Bool := false
  deriving DecidableEq, Repr

/-- The activity in progress (R329 to R334). -/
structure Activity where
  /-- It transmits. -/
  tx : Bool
  /-- Coexistence class (R332). -/
  cls : Fin 7
  /-- Synthesiser channel (R320). -/
  ch : Fin 81
  /-- P_ant in 0.5 dB (R326, R327). -/
  pAnt : Int
  /-- Antenna path (R331). -/
  path : Fin 4
  /-- P_drv in 0.5 dBm (R327, R328). -/
  pDrv : Int
  /-- Time of its bits in µs. -/
  packetUs : Nat
  /-- Time of its payload in µs. -/
  payloadUs : Nat
  /-- Its samples at the driver (R339). -/
  out : List (Int × Int)
  deriving DecidableEq, Repr

/-- A running ACC_TX (R325, R341). -/
structure AccTxRun where
  /-- Number of the command's record. -/
  slot : Nat
  /-- Channel (R325). -/
  ch : Fin 81
  /-- MODE of ACC_TX (R341). -/
  mode : Byte
  /-- P_ant in 0.5 dB. -/
  pAnt : Int
  /-- Antenna path. -/
  path : Fin 4
  /-- Packets asked for. -/
  count : Nat
  /-- Device time at which its DEADLINE ends (R325). -/
  due : D
  /-- Packets sent whole. -/
  sent : Nat
  /-- Packets begun and ended, whole or aborted. -/
  tried : Nat
  /-- Lock has been declared on its channel. -/
  locked : Bool
  /-- ACC_TX_STOP has been accepted. -/
  stop : Bool
  deriving DecidableEq, Repr

/-- An external pin of the PA, switch and coexistence group (R329, R330). -/
structure RadioPins where
  /-- PA_EN. -/
  paEn : Bool := false
  /-- LNA_EN. -/
  lnaEn : Bool := false
  /-- TR_SW at transmit. -/
  trTx : Bool := false
  /-- PA_MODE. -/
  paMode : Bool := false
  /-- ANT_SEL. -/
  antSel : Bool := false
  /-- COEX_REQ. -/
  coexReq : Bool := false
  /-- COEX_PRI. -/
  coexPri : Bool := false
  deriving DecidableEq, Repr

/-- A connection of the LE controller (R299). -/
structure Conn where
  /-- Connection handle. -/
  handle : BitVec 16
  /-- The slot whose LTK encrypts it. -/
  slot : Option (Fin 64)
  /-- RSSI of the last packets whose CRC passed, newest first, at most 8 (R312). -/
  rssi : List Int
  /-- Access address of the connection. -/
  aa : W
  /-- Its receive maximum: 27 until the data length extension changes it (R302; PRESUMED, log 32). -/
  rxMax : Nat := 27
  /-- Encryption is on (R302). -/
  enc : Bool := false
  deriving DecidableEq, Repr

/-- A credential slot (R346). -/
structure Cred where
  /-- RIGHTS (R343). -/
  rights : Byte
  /-- CRED_ID (R343). -/
  credId : List Byte
  /-- NOT_BEFORE (R343). -/
  notBefore : D
  /-- NOT_AFTER (R343). -/
  notAfter : D
  /-- IRK of the phone (R343). -/
  irk : List Byte
  /-- Identity address of the phone (R343). -/
  addr : List Byte
  /-- Type of the identity address (R343). -/
  addrType : Byte
  /-- The booking key BK, sealed, and what derives from it (R345). -/
  bk : List Byte
  /-- Link key LTK (R345). -/
  ltk : List Byte
  /-- Verifier V_C (R345). -/
  verifier : List Byte
  /-- RTC time of the last grant (R346). -/
  lastUse : W
  /-- A channel-sounding configuration of the phone is cached (R346). -/
  csCached : Bool
  deriving DecidableEq, Repr

/-- ACC_UNLOCK_CFG settings (R362). -/
structure UnlockCfg where
  /-- EN. -/
  en : Bool := false
  /-- PATHS. -/
  paths : BitVec 4 := 3
  /-- RANGE_MAX in cm. -/
  rangeMax : Nat := 200
  /-- RELAY_TOL. -/
  relayTol : Nat := 50
  /-- CONF_MIN. -/
  confMin : Nat := 128
  /-- TW1_EN. -/
  tw1En : Bool := true
  /-- WAKE_ON_GRANT. -/
  wakeOnGrant : Bool := false
  /-- BODY_ADDR. -/
  bodyAddr : BitVec 7 := 0x2A
  /-- PSM. -/
  psm : Nat := 0x81
  deriving DecidableEq, Repr

/-- Steps of the unlock flow (R350). -/
inductive FlowStep where
  | connecting | waitSdu | encrypting | opening | challenge | ranging | done
  deriving DecidableEq, Repr

/-- The unlock flow or ACC_RANGE in progress (R350, R362). -/
structure Flow where
  /-- Step of the flow (R350). -/
  step : FlowStep
  /-- Credential slot it runs on; none before one is chosen. -/
  slot : Option (Fin 64)
  /-- The accepted PDU named no slot: the flow opens the channel first and learns the credential there (R350). -/
  firstTime : Bool
  /-- It began in WATCH (R360). -/
  inWatch : Bool
  /-- Ring 0 slot of the ACC_RANGE that runs it. -/
  range : Option Nat
  /-- Handle of its connection. -/
  handle : BitVec 16
  /-- N_d of R352. -/
  nonce : List Byte
  /-- Access address of its connection. -/
  aa : W
  /-- CRED_ID of the credential that the flow runs on. -/
  credId : List Byte
  /-- The settings with which the flow began (R362). -/
  cfg : UnlockCfg
  /-- The outcome, once decided. -/
  outcome : Option Byte
  /-- Device time at which its step began (R350, R352). -/
  since : D := 0
  deriving DecidableEq, Repr

/-- ACC_RX_CFG settings (R318). -/
structure RxSettings where
  /-- SYNC_ERR (R300). -/
  syncErr : Nat := 1
  /-- CAP_MARGIN in dB (R307). -/
  capMargin : Nat := 6
  /-- CAP_EN: bit 0 advertising and scanning channels, bit 1 data channels (R307). -/
  capEn : BitVec 2 := 3
  /-- REPORT (R313). -/
  report : BitVec 2 := 0
  deriving DecidableEq, Repr

/-- ACC block: receiver, front end, credentials, ranging (11, 12 and 13). -/
structure AccBlk where
  /-- ACC_RX_CFG settings as written, and in force since the last receive window opened (R318). -/
  rxCfg : RxSettings := {}
  /-- ACC_RX_CFG settings in force since the last receive window opened (R318). -/
  rxNow : RxSettings := {}
  /-- ACC_LISTEN settings (R315, R318). -/
  listenEn : Bool := false
  /-- Advertising channels listened on. -/
  listenCh : BitVec 3 := 7
  /-- PHY of a listen window. -/
  listenPhy : Byte := 0
  /-- FILTER of a listen window (R315). -/
  listenFilter : BitVec 2 := 1
  /-- Period in ms (R315). -/
  listenPeriod : Nat := 600
  /-- Length of a listen window in ms (R315). -/
  listenWin : Nat := 30
  /-- IN_RUN: listening goes on in RUN (R317). -/
  inRun : Bool := true
  /-- The next advertising channel index 0 to 2 of the listening turn, and whether a listen window is open (R315). -/
  listenNext : Fin 3 := 0
  /-- A listen window is open (R315). -/
  listening : Bool := false
  /-- When the last listen window opened or was skipped (R315). -/
  listenAt : Option D := none
  /-- The next window follows a wake from STOW by a WAKE input: it opens at once, and the schedule counts from its end (R488). -/
  listenFirst : Bool := false
  /-- FILTER of the window that is open (R318). -/
  filterNow : BitVec 2 := 1
  /-- Receiver: open, current packet, held sync (R301 to R310). -/
  rxOpen : Bool := false
  /-- The receive window has closed, and the packet in reception goes on to its end (R309). -/
  rxClosed : Bool := false
  /-- Channel index received on. -/
  rxChan : Byte := 0
  /-- What the link layer receives for (R302). -/
  rxRole : RxRole := .scanner
  /-- The current packet (R301). -/
  cur : Option RxPacket := none
  /-- The held sync (R303). -/
  heldSync : Option RxPacket := none
  /-- Link-layer activity that the host started through HCI (R418 kind 6). -/
  hostAdv : Bool := false
  /-- Scanning (R299). -/
  hostScan : Bool := false
  /-- Channel sounding (R299, R351). -/
  hostCs : Bool := false
  /-- Connections, at most 8 with the flow's own (R299). -/
  conns : List Conn := []
  /-- Advertising sets (at most 4), the filter accept list and the host's part of the resolving list (at most 16 entries each),
newest first (R299). -/
  advSets : List Byte := []
  /-- Filter accept list, at most 16 entries (R299). -/
  acceptList : List (Byte × List Byte) := []
  /-- The host's part of the resolving list, at most 16 entries (R299, R347). -/
  resolvList : List (Byte × List Byte) := []
  /-- HCI packets handed to the LE controller, newest first (R65, R67). -/
  hciIn : List (Byte × List Byte) := []
  /-- Synthesiser (R320 to R324): table, state (0 idle, 1 settling, 2 locked, 3 calibrating), channel. -/
  synth : Vector SynthEntry 81 := Vector.ofFn fun c =>
    { ref := if 68 ≤ c.val ∧ c.val ≤ 71 then 1 else 0 }
  /-- State: 0 idle, 1 settling, 2 locked, 3 calibrating (R320, ACC.SYNTH_STAT). -/
  synthSt : BitVec 2 := 0
  /-- Channel of the synthesiser (R320). -/
  synthCh : Fin 81 := 0
  /-- The synthesiser's modulator runs with dither on its channel (R324). -/
  dither : Bool := false
  /-- Since when the background calibration steps of the synthesiser have yielded (R33). -/
  calYield : Option D := none
  /-- ACC.PA_TIMING, ACC.FE_GAIN, ACC.LOSS, ACC.COEX_CFG, ACC.DPD_CFG. -/
  paTiming : W := 0x32020206
  /-- ACC.FE_GAIN. -/
  feGain : W := 0x00000014
  /-- ACC.LOSS. -/
  loss : W := 0x00280000
  /-- ACC.COEX_CFG. -/
  coexCfg : W := 0x00000808
  /-- ACC.DPD_CFG. -/
  dpdCfg : W := 0x00001451
  /-- PA_TIMING in force since the last step 1 (R330). -/
  paTimingNow : W := 0x32020206
  /-- The pins of the PA, switch and coexistence group (R329, R332). -/
  pins : RadioPins := {}
  /-- The activity whose sequence runs (R329 to R334). -/
  activity : Option Activity := none
  /-- COEX_GNT active as last seen (R332). -/
  gnt : Bool := false
  /-- Device time at which the last activity ended (R329 step 9). -/
  offAt : D := 0
  /-- Feedback (R328): path good, path lost, consecutive low packets, per-channel reduction in 0.5 dB. -/
  fbOk : Bool := false
  /-- The feedback path is lost (R328). -/
  fbLost : Bool := false
  /-- Consecutive packets whose feedback was low (R328). -/
  fbLow : Nat := 0
  /-- Reduction of each channel, in 0.5 dB (R328). -/
  fbCut : List (Fin 81 × Nat) := []
  /-- Regulatory page bytes 0 to 127 (R335, MRAM); DESIGN CHOICE before the first ACC_REG_WRITE, log 5. -/
  regPage : List Byte := List.replicate 128 0
  /-- Transmissions of the last 3,600 s: end time in µs and length in µs, newest first (R337). -/
  airLog : List (D × Nat) := []
  /-- A running ACC_TX (R341). -/
  accTx : Option AccTxRun := none
  /-- Pre-distortion (R339, R340), per PA_MODE: valid set, its residual in 0.1 dB, its adoption temperature, its coefficients. -/
  dpdValid : BitVec 2 := 0
  /-- Residual of the set in use, in 0.1 dB (R340). -/
  dpdResid : Vector Int 2 := Vector.replicate 2 0
  /-- Tj at its adoption (R339). -/
  dpdTemp : Vector Int 2 := Vector.replicate 2 0
  /-- Its coefficients (R340). -/
  dpdCoef : Vector (List (Int × Int)) 2 := Vector.replicate 2 []
  /-- Training runs for a PA_MODE, steps of its candidate set done, a capture of it that no step has used (R339, R340). -/
  dpdTrain : BitVec 2 := 3
  /-- Steps of the candidate set done (R340). -/
  dpdSteps : Vector Nat 2 := Vector.replicate 2 0
  /-- A capture that no step has used, per PA_MODE (R339). -/
  dpdCapt : BitVec 2 := 0
  /-- Consecutive training steps that yielded (R33). -/
  dpdYields : Nat := 0
  /-- When training last started (R340). -/
  dpdAt : D := 0
  /-- A candidate that waits for the next packet boundary: PA_MODE, residual, coefficients (R340). -/
  dpdCand : Option (Fin 2 × Int × List (Int × Int)) := none
  /-- The phase table theta in degrees, by channel and power step, where a capture has moved it from 0 (R340). -/
  theta : List (Fin 81 × Nat × Rat) := []
  deriving DecidableEq, Repr

/-- A verdict on its way over TW1 (R359): the frame, the data of source 72, BODY_ADDR, retries left, and a failed write waiting for
its retry. -/
structure Delivery where
  /-- The verdict frame (R357). -/
  frame : List Byte
  /-- The data of source 72 (R359). -/
  data : List Byte
  /-- BODY_ADDR. -/
  addr : BitVec 7
  /-- Retries left. -/
  left : Nat
  /-- A failed write waits for its retry. -/
  waits : Bool
  /-- Device time of that failure (R359). -/
  since : D := 0
  deriving DecidableEq, Repr

/-- Credentials, unlock flow and verdict (13_ranging_credentials.md). -/
structure CredBlk where
  /-- Credential slots 0 to 63 (R346). -/
  slots : Vector (Option Cred) 64 := Vector.replicate 64 none
  /-- Revoked list: CRED_ID and NOT_AFTER, at most 512 (R348). -/
  revoked : List (List Byte × D) := []
  /-- ACC_UNLOCK_CFG settings (R362). -/
  cfg : UnlockCfg := {}
  /-- Verdict key (NV) and its lock (R358). -/
  vkey : Option (List Byte) := none
  /-- The verdict key is locked (R358). -/
  vkeyLocked : Bool := false
  /-- VERDICT_SEQ (NV, R357). -/
  verdictSeq : W := 0
  /-- The last 8 verdict frames, newest first (R359). -/
  verdicts : List (List Byte) := []
  /-- The flow in progress (R350). -/
  flow : Option Flow := none
  /-- A flow that waits for the host's channel-sounding procedure to end (R351): slot, in WATCH. -/
  flowWaits : Option (Option (Fin 64) × Bool) := none
  /-- Verdicts whose TW1 delivery runs, oldest first (R359). -/
  delivering : List Delivery := []
  /-- Most recently used slots first, at most 16 (R347). -/
  recent : List (Fin 64) := []
  deriving DecidableEq, Repr

/-! ### DMA -/

/-- States of DMA.CH_STAT.STATE. -/
inductive DmaSt where
  | idle | running | waiting | parked | halted
  deriving DecidableEq, Repr

/-- A DMA channel (R364 to R377). -/
structure DmaCh where
  /-- State (DMA.CH_STAT.STATE, R376). -/
  st : DmaSt := .idle
  /-- Held at a descriptor boundary for a sleep entry (R375); CH_STAT.STATE reads 5. -/
  held : Bool := false
  /-- PRIO of DMA_START (R364). -/
  prio : BitVec 2 := 0
  /-- WAIT_EVL of DMA_START (R370). -/
  waitEvl : Fin 64 := 0
  /-- The event pulses that arrived and no descriptor has taken yet (R370). -/
  pending : Nat := 0
  /-- EVL_OVF: pulses lost beyond 255 (R370). -/
  evlOvf : Bool := false
  /-- Current or parked descriptor address (DMA.CH_CUR). -/
  cur : W := 0
  /-- The next descriptor has been named and its fetch is due (R376 step 1). -/
  fetchDue : Bool := false
  /-- A fetched descriptor is in progress (R376 step 2 on). -/
  inFlight : Bool := false
  /-- The descriptor in progress uses a reshuffle unit (R368). -/
  shuf : Bool := false
  /-- A doorbell held while busy (R373). -/
  rung : Bool := false
  /-- Descriptors completed and written BAD (DMA_STATUS). -/
  completed : W := 0
  /-- Descriptors written BAD (DMA_STATUS). -/
  bad : W := 0
  /-- Ring 0 slots of the DMA_STOPs that wait. -/
  stopSlots : List Nat := []
  deriving DecidableEq, Repr

/-- Users of general-use SRAM (R129). -/
inductive GpOwner where
  | delay (w : Fin 64) (pos : Fin 4)
  | dma
  | queue (q : Fin 12)
  | mot (ctx : Fin 256) (tid : BitVec 16)
  | motOut (ctx : Fin 256) (seq : W)
  deriving DecidableEq, Repr

/-- An allocation of general-use SRAM (R30, R129). -/
structure GpAlloc where
  /-- Its user. -/
  owner : GpOwner
  /-- First address. -/
  addr : Nat
  /-- Length in bytes. -/
  size : Nat
  deriving DecidableEq, Repr

/-- DMA engine and general-use SRAM (14_dma.md, R30, R129). -/
structure DmaBlk where
  /-- The 16 channels (R364). -/
  ch : Vector DmaCh 16 := Vector.replicate 16 {}
  /-- Allocations of general-use SRAM, in request order. -/
  gp : List GpAlloc := []
  /-- Round-robin: the channel that started last (R364). -/
  last : Fin 16 := 15
  deriving DecidableEq, Repr

/-! ### Two-wire ports -/

/-- Originators of the two-wire traffic that waits at a port (R388); module record reads and life-counter writes come with their
outcome as events of their own. -/
inductive TwUser where
  | safeState | voltage | verdict | hostWake | alert | body | pass (slot : Nat) | clear (slot : Nat)
  deriving DecidableEq, Repr

/-- A transaction of a port (R384, R388). -/
structure TwTxn where
  /-- Originator (R388). -/
  user : TwUser
  /-- 7-bit address. -/
  addr : Byte
  /-- PROTO (R384). -/
  proto : Byte
  /-- Command byte. -/
  cmd : Byte
  /-- PEC is used (R384). -/
  pec : Bool
  /-- Bytes to write. -/
  data : List Byte
  /-- Bytes to read. -/
  rcount : Nat
  deriving DecidableEq, Repr

/-- A two-wire port (15_two_wire.md). -/
structure TwPort where
  /-- TWn.CFG as written, and in force since the last boundary (R378). -/
  cfg : W := 0x00011901
  /-- TWn.CFG in force since the last boundary (R378). -/
  cfgNow : W := 0x00011901
  /-- TWn.ADDR. -/
  addr : W := 0
  /-- TWn.ALERT_LAST. -/
  alertLast : W := 0xFF
  /-- Port STUCK (R383). -/
  stuck : Bool := false
  /-- The alert line is low. -/
  alert : Bool := false
  /-- Lines as last seen; DESIGN CHOICE, log 4. -/
  sda : Bool := false
  /-- SCL as last seen; DESIGN CHOICE, log 4. -/
  scl : Bool := false
  /-- Waiting transactions in arrival order, and the one in progress. -/
  queue : List TwTxn := []
  /-- The transaction in progress (R384). -/
  run : Option TwTxn := none
  /-- Device times of the alert events raised within the last second (R386), newest first. -/
  alertTimes : List D := []
  /-- Device time from which the alert response may be repeated (R386). -/
  alertNext : D := 0
  /-- Device time since which the port has wanted a free bus: its last transaction ended, or its first one came (R379). -/
  wantSince : D := 0
  /-- The bytes of the last transaction that the port has sent, PEC included (R384). -/
  sent : List Byte := []
  deriving DecidableEq, Repr

/-- Both ports and the body message. -/
structure TwBlk where
  /-- TW0 and TW1 (R378). -/
  port : Vector TwPort 2 := Vector.ofFn fun p => { addr := if p.val = 0 then 0x40 else 0x60 }
  /-- TW1.BODY_MSG: the message held (R387). -/
  body : List Byte := []
  /-- Retries left of the host-wake request (R389), while one runs. -/
  hostWakeLeft : Option Nat := none
  /-- A failed host-wake request waits for its retry (R389). -/
  hostWakeDue : Bool := false
  /-- Device time of that failure. -/
  hostWakeAt : D := 0
  /-- A voltage or rail request that ended with E_BUS and is repeated at the next poll (R412). -/
  voltDue : Option TwTxn := none
  deriving DecidableEq, Repr

/-! ### Clocks -/

/-- CLK block (16_clocks.md). -/
structure ClkBlk where
  /-- CLK.CFG.XO_MODE (NV). -/
  xoMode : Bool := false
  /-- XO_MODE in force. -/
  xoNow : Bool := false
  /-- The reference oscillator has been started. -/
  refOn : Bool := false
  /-- CLK.STAT.REF_OK. -/
  refOk : Bool := false
  /-- CLK.STAT.LOCK. -/
  lock : Bool := false
  /-- CLK.STAT.ON_PLL. -/
  onPll : Bool := false
  /-- Consecutive lock-detector windows within ±2 counts (R399). -/
  good : Nat := 0
  /-- Consecutive monitor counts outside, and inside after an outage (R401). -/
  outRun : Nat := 0
  /-- The reference was judged missing or out of range and has not returned. -/
  refBad : Bool := false
  /-- CLK.LOCK_ERR. -/
  lockErr : BitVec 16 := 0
  /-- CLK.REF_CNT. -/
  refCnt : BitVec 16 := 0
  /-- CLK.STAT.TRIES. -/
  tries : Byte := 0
  /-- The PLL is running (a start, a relock attempt or in use). -/
  pllOn : Bool := false
  /-- Lock was lost in RUN and has not returned (R403 to R406). -/
  lossInRun : Bool := false
  /-- Device time at which capture went out (R405). -/
  outSince : D := 0
  /-- Device time from which the next relock attempt starts, and at which the last one started (R404). -/
  nextTry : D := 0
  /-- Device time at which the last relock attempt started (R404). -/
  triedAt : D := 0
  /-- Device time at which the reference was last started, or its start last missed (R400). -/
  refSince : D := 0
  /-- CLK.STAT.TIME_FIO. -/
  timeFio : Bool := false
  /-- Source 91 CODE 5 is owed at the next return to RUN (R402). -/
  rtcOwed : Bool := false
  deriving DecidableEq, Repr

/-! ### Power -/

/-- Device states (R414, R426, PWR.STAT.STATE). -/
inductive PwrSt where
  | run | idle | doze | watch | stow | off | limp | hvHold
  deriving DecidableEq, Repr

/-- A transition in progress (R411, R416, R420). -/
inductive Transition where
  /-- A level change to the level; true when it raises; the number of the command's record. -/
  | level (dest : BitVec 2) (up : Bool) (slot : Option Nat)
  /-- A sleep entry to the state code of PWR_SLEEP; the command's slot; the last abort point passed, 0 to 3. -/
  | entry (dest : BitVec 3) (slot : Option Nat) (point : BitVec 2)
  deriving DecidableEq, Repr

/-- A pending target (R420). -/
inductive PendingTarget where
  | level (dest : BitVec 2) (slot : Option Nat)
  | sleep (dest : BitVec 3) (slot : Option Nat)
  deriving DecidableEq, Repr

/-- An entry that has been unwound and not completed: its target, the command's slot, the last abort point passed (R417, R420). -/
structure Undone where
  /-- The sleep state it aimed at. -/
  dest : BitVec 3
  /-- Number of the record of its PWR_SLEEP; none for the steward's own. -/
  slot : Option Nat
  /-- The last abort point passed (R417). -/
  point : BitVec 2
  deriving DecidableEq, Repr

/-- The RTC alarm (R428). -/
structure Alarm where
  /-- It asks for a host wake. -/
  hostwake : Bool
  /-- Seconds from the command, counted in RTC periods on the HV side. -/
  delay : W
  deriving DecidableEq, Repr

/-- PWR block (17_power.md). -/
structure PwrBlk where
  /-- Device state. -/
  st : PwrSt := .off
  /-- PWR.STAT.LEVEL, TARGET. -/
  level : BitVec 2 := 0
  /-- PWR.STAT.TARGET. -/
  target : BitVec 2 := 0
  /-- PWR.STAT.CAPPED. -/
  capped : Bool := false
  /-- A cap that waits for the end of a transition (R413). -/
  capDue : Bool := false
  /-- PWR.STAT.VOLT_UNCONF. -/
  voltUnconf : Bool := false
  /-- PWR.STAT.TJ. -/
  tj : BitVec 8 := 0
  /-- The higher of both sensors, in °C. -/
  tjNow : Int := 0
  /-- The transition in progress (R411, R416, R420). -/
  trans : Option Transition := none
  /-- The pending target (R420). -/
  pending : Option PendingTarget := none
  /-- PWR.MODE. -/
  armed : Bool := false
  /-- PWR.MODE.TARGET: the sleep state armed (R414). -/
  modeTarget : BitVec 3 := 0
  /-- PWR.REFUSER. -/
  refState : BitVec 3 := 0
  /-- PWR.REFUSER: kind of the last refuser (R418, R419). -/
  refKind : Byte := 0
  /-- PWR.REFUSER: its instance. -/
  refInst : Byte := 0
  /-- PWR.THERM. -/
  therm : W := 0x00000A78
  /-- PWR.WAKE_CFG[0..3]. -/
  wakeCfg : Vector W 4 := Vector.replicate 4 0x00000A00
  /-- PWR.LAST_WAKE. -/
  wakeFrom : Byte := 0
  /-- PWR.LAST_WAKE: wake code (R423). -/
  wakeCode : Byte := 0
  /-- The PWR_SLEEP that completes after the wake from IDLE or DOZE (R417). -/
  sleepSlot : Option Nat := none
  /-- Device time at which the sleep state was entered. -/
  sleepSince : D := 0
  /-- A wake event held after A4 (R417). -/
  heldWake : Option Byte := none
  /-- The RTC alarm (R428). -/
  alarm : Option Alarm := none
  /-- The wake stays in RUN (R425) and sends the host-wake request. -/
  stayRun : Bool := false
  /-- The host-wake request of the wake to come has gone to the PMIC already (R265). -/
  wakeAsked : Bool := false
  /-- BAR0 writes held in IDLE and DOZE, in arrival order: offset and value (R496). -/
  heldWrites : List (BitVec 16 × W) := []
  /-- The wake step that is not ready, and its repeats (R426). -/
  badStep : Option (ReadyReport × Nat) := none
  /-- The rails that Limp has switched off (R427): bit 0 VDD_ANA, 1 VDD_18A, 2 VDD_IO. -/
  railOff : BitVec 3 := 0
  /-- The wake in progress out of WATCH or STOW: its code (R425). -/
  waking : Option Byte := none
  /-- A cold restart holds PWR_EN low (R486). -/
  coldHold : Bool := false
  /-- The level in force before the sleep entry in progress, and the target before the raise in progress. -/
  levelBefore : BitVec 2 := 0
  /-- The target before the raise in progress (R411). -/
  targetBefore : BitVec 2 := 0
  /-- An entry that a doorbell has unwound; what the doorbell carried decides its status (R420). -/
  undone : Option Undone := none
  /-- PWR_EN pin, VBAT above 6.0 V, HV reset released; pins of R481, R482. -/
  pwrEn : Bool := false
  /-- VBAT lies in its operating range (R481). -/
  vbatOk : Bool := false
  /-- VBAT lies above 6.0 V (R481). -/
  vbat6 : Bool := false
  /-- WAKE input levels; DESIGN CHOICE, log 4. -/
  wakeLevel : BitVec 4 := 0
  /-- A PMIC request is outstanding (R412): VDD_CORE target in mV, or 0 for the rail mask. -/
  pmicWait : Option Nat := none
  /-- Device time from which its deadline runs: the STOP of its first write, before that the request. -/
  pmicAt : D := 0
  /-- Its first write has ended with a STOP. -/
  pmicStop : Bool := false
  /-- Device time since which Tj has stayed at or above TRIP (R413). -/
  hotSince : Option D := none
  /-- Device time since which Tj has stayed below TRIP − HYST (R413). -/
  coolSince : Option D := none
  /-- Device time at which the sleep entry in progress began (R416). -/
  entryAt : D := 0
  /-- Device time of the last miss of the wake step that is not ready (R426). -/
  badAt : D := 0
  deriving DecidableEq, Repr

/-! ### Calibration -/

/-- What Class A has found for a lane or the spare (R435, R443): the 16 unit elements in use, and the trim codes: offset in 0.5 LSB, gain in
0.01 dB, skew in 0.1 ps. -/
structure LaneCal where
  /-- The unit elements in use, as bits (R435). -/
  mask : BitVec 18 := 0
  /-- Offset trim. -/
  offset : Int := 0
  /-- Gain trim. -/
  gain : Int := 0
  /-- Skew trim. -/
  skew : Int := 0
  deriving DecidableEq, Repr

/-- A Class A run in progress (R434). -/
structure CalARun where
  /-- Headrace that runs (R433). -/
  hr : Fin 4
  /-- The step's lane: 8 the spare first, then 0 to 7. -/
  lane : Nat
  /-- Repeats of the lane's step (R436). -/
  repeats : Nat
  /-- Tj at the run's start (R437). -/
  startTj : Int
  /-- Values found so far, per lane. -/
  found : List (Nat × LaneCal)
  /-- Number of the command's record; none for a temperature trigger. -/
  slot : Option Nat
  /-- Headraces of the command that remain. -/
  rest : List (Fin 4)
  /-- Headraces of the command whose values were stored. -/
  stored : BitVec 4
  /-- Headraces of the command marked suspect. -/
  suspect : BitVec 4
  deriving DecidableEq, Repr

/-- A Class B run in progress (R439). -/
structure CalBRun where
  /-- Number of the command's record. -/
  slot : Nat
  /-- Parts still to run, in order 0 synthesiser, 1 pre-distortion, 2 path delay. -/
  rest : List (Fin 3)
  /-- Repeats of the part in progress (R436), and consecutive grants denied (R440). -/
  repeats : Nat
  /-- Consecutive grants denied (R440). -/
  denied : Nat
  /-- Parts marked suspect (R439). -/
  suspect : BitVec 3
  /-- Tj at the run's start. -/
  startTj : Int
  /-- Parts that passed, with what was found and Tj at that moment. -/
  found : List (Fin 3 × CalBMeas × Int)
  deriving DecidableEq, Repr

/-- CAL block (18_calibration.md); the records lie in MRAM. -/
structure CalBlk where
  /-- CAL.CFG. -/
  cfg : W := 0x00000108
  /-- CAL.STAT.A_VALID. -/
  aValid : BitVec 4 := 0
  /-- CAL.STAT.B_VALID. -/
  bValid : BitVec 3 := 0
  /-- CAL.STAT.EOL_VALID. -/
  eolValid : Bool := false
  /-- CAL.STAT.EOL_LOCKED: the lock byte of the end-of-line record (R432, MRAM). -/
  eolLocked : Bool := false
  /-- CAL.STAT.A_SUSPECT. -/
  aSuspect : BitVec 4 := 0
  /-- CAL.STAT.B_SUSPECT. -/
  bSuspect : BitVec 3 := 0
  /-- CAL.A_RUNS[n]. -/
  aRuns : Vector W 4 := Vector.replicate 4 0
  /-- CAL.A_LAST[n]. -/
  aLast : Vector W 4 := Vector.replicate 4 0
  /-- CAL.A_TEMP[n]. -/
  aTemp : Vector Int 4 := Vector.replicate 4 0
  /-- CAL.B_RUNS. -/
  bRuns : W := 0
  /-- CAL.B_LAST. -/
  bLast : W := 0
  /-- CAL.REF_PPB. -/
  refPpb : W := 0
  /-- Stored Class A values per Headrace and lane (R443). -/
  aValues : Vector (List (Nat × LaneCal)) 4 := Vector.replicate 4 []
  /-- SEQ of the Class A record (R443, MRAM). -/
  aSeq : W := 0
  /-- Stored Class B parts with their values and Tj at their measurement; path offsets in mm (R439, R443). -/
  bValues : List (Fin 3 × CalBMeas × Int) := []
  /-- Path offsets of the access antennas in mm (R439). -/
  pathOff : List Int := List.replicate 4 0
  /-- SEQ of the Class B record (R443, MRAM). -/
  bSeq : W := 0
  /-- End-of-line record: the gain of codes 0 to 12 per Headrace in 0.001 dB (R430, R443, MRAM). -/
  eolGains : Vector (List Int) 4 := Vector.replicate 4 []
  /-- End-of-line CALSRC levels at the lane inputs per Headrace in 0.001 dBm (R430, MRAM). -/
  eolCalsrc : Vector (List Int) 4 := Vector.replicate 4 []
  /-- CAL_BOARD values of antenna paths 0 to 3 (R432, MRAM). -/
  board : List (BitVec 16) := List.replicate 4 0
  /-- Triggers that wait: Headraces whose trigger passed while stopped (R433) or while another runs. -/
  due : BitVec 4 := 0
  /-- The Class A run in progress (R434; CAL.STAT.A_RUNNING). -/
  aRun : Option CalARun := none
  /-- The Class B run in progress (R439; CAL.STAT.B_RUNNING). -/
  bRun : Option CalBRun := none
  /-- MRAM copies that fail their CRC at the next load: class A, class B, end of line (R444). -/
  badCopies : BitVec 3 := 0
  /-- The records have been loaded since the start; the run, time and temperature registers read them from then on. -/
  loaded : Bool := false
  deriving DecidableEq, Repr

/-! ### Waling -/

/-- A SAF.LOG entry. -/
structure SafLog where
  /-- INJ: the fault was injected (R479). -/
  inj : Bool := false
  /-- Class (R473). -/
  cls : BitVec 2 := 0
  /-- Instance. -/
  inst : Byte := 0
  /-- Fault code (R469). -/
  code : Byte := 0
  /-- Device time in ms. -/
  timeMs : W := 0
  deriving DecidableEq, Repr

/-- SAF block (20_safety.md). -/
structure SafBlk where
  /-- SAF.CTL. -/
  lock : Bool := false
  /-- SAF.CTL.ACTION. -/
  action : Bool := false
  /-- SAF.CTL.ENABLE. -/
  enable : Bool := false
  /-- SAF.WDT_CFG. -/
  wdtCfg : W := 0x00000401
  /-- The log: 16 entries, position and count. -/
  log : Vector SafLog 16 := Vector.replicate 16 {}
  /-- Position of the newest log entry. -/
  newest : Fin 16 := 0
  /-- Entries written. -/
  count : Byte := 0
  /-- SAFE (R476). -/
  safe : Bool := false
  /-- The start-up self-test has passed (R471). -/
  selfTestOk : Bool := false
  /-- Safe-state request: code, retries left (R475). -/
  request : Option (Byte × Nat) := none
  /-- FAULT_N driven low by the HV side in Limp or HV hold (R426, R474). -/
  hvFault : Bool := false
  /-- Class 1 faults that have not recovered: code, instance, device time of their classification (R477). -/
  open1 : List (Byte × Byte × D) := []
  /-- Device time at which SAFE was entered (R476). -/
  safeAt : D := 0
  /-- Device time at which the last safe-state request ended without an acknowledgement (R475). -/
  requestAt : D := 0
  /-- Rails out of their windows since the last reset (R465): bit 0 VDD_CORE, 1 VDD_ANA, 2 VDD_18A, 3 VDD_IO. -/
  railBad : BitVec 4 := 0
  /-- Device time of the last kick of each pair (R470). -/
  lastKick : Vector D 2 := Vector.replicate 2 0
  /-- A pair has stopped or hangs: the commands of its areas stay outstanding (R25). -/
  pairStopped : BitVec 2 := 0
  deriving DecidableEq, Repr

/-! ### Trust -/

/-- A firmware slot's contents (R447, R451) as the writes that made them, newest first, and its mark. -/
structure FwSlot where
  /-- The writes of TRU_FW_WRITE: offset and bytes, newest first (R451). -/
  bytes : List (Nat × List Byte) := []
  /-- The slot is marked empty (R451). -/
  empty : Bool := true
  deriving DecidableEq, Repr

/-- TRU block, fuses and firmware slots (19_trust.md). -/
structure TruBlk where
  /-- TRU.BOOT_STAT: the result of slot 0 (R448). -/
  result0 : Byte := 0
  /-- TRU.BOOT_STAT: the result of slot 1 (R448). -/
  result1 : Byte := 0
  /-- TRU.BOOT_CFG (MRAM): DESIGN CHOICE as shipped, log 5. -/
  prefer : BitVec 1 := 0
  /-- TRU.BOOT_CFG.TRIAL (R448). -/
  trial : Bool := false
  /-- The trial slot has been started once without TRU_FW_CONFIRM (R448 step 6, R452). -/
  trialStarted : Bool := false
  /-- Fuses; DESIGN CHOICE as shipped, log 5. -/
  vendorHash : List Byte := List.replicate 64 0
  /-- OEM key hash fuses; none while not programmed (R447); DESIGN CHOICE, log 5. -/
  oemHash : Option (List Byte) := none
  /-- SVN_CTR fuses (R453); DESIGN CHOICE, log 5. -/
  svnCtr : Nat := 0
  /-- Debug fuse state: 0 OPEN, 1 LOCKED, 2 CLOSED (R459). -/
  dbg : BitVec 2 := 0
  /-- The two firmware slots (R447, R451; MRAM). -/
  slots : Vector FwSlot 2 := Vector.replicate 2 {}
  /-- The slot that TRU_FW_WRITE wrote last since the reset, which TRU_FW_COMMIT checks in recovery (R450, R452). -/
  written : Option (Fin 2) := none
  /-- Identity and KEM public keys, certificate chain (R455, R456); DESIGN CHOICE, log 5. -/
  idKey : List Byte := List.replicate 2592 0
  /-- Public KEM key (R454, R455); DESIGN CHOICE, log 5. -/
  kemKey : List Byte := List.replicate 1568 0
  /-- Certificate chain (R456); DESIGN CHOICE, log 5. -/
  chain : List Byte := []
  /-- Attestation reports issued since power-on reset (R457). -/
  reports : W := 0
  /-- Outstanding debug challenge with its issue time, failed responses, port unlocked, port used (R460, R461). -/
  challenge : Option (List Byte × D) := none
  /-- Failed responses (R460). -/
  failed : Nat := 0
  /-- The debug port is open until the next power-on reset (R459). -/
  unlocked : Bool := false
  /-- The port has been used since the power-on reset, which blocks the keys (R461). -/
  opened : Bool := false
  deriving DecidableEq, Repr

/-! ### The whole block -/

/-- The state of the KZ9640. `freeCnt` is the model's own: how many free values have been taken (log 1). -/
structure State where
  /-- System, time and RTC. -/
  sys : SysBlk := {}
  /-- PCIe function, rings and commands. -/
  host : HostBlk := {}
  /-- Event block. -/
  evt : EvtBlk := {}
  /-- Capture. -/
  cap : CapBlk := {}
  /-- Windows. -/
  win : WinBlk := {}
  /-- Contexts and runners. -/
  svc : SvcBlk := {}
  /-- The Fantail. -/
  fan : FanBlk := {}
  /-- Bulletins. -/
  bul : BulBlk := {}
  /-- Audio ports. -/
  aud : AudBlk := {}
  /-- Access receiver and front end. -/
  acc : AccBlk := {}
  /-- Credentials and the unlock flow. -/
  cred : CredBlk := {}
  /-- DMA engine and general-use SRAM. -/
  dma : DmaBlk := {}
  /-- Two-wire ports. -/
  tw : TwBlk := {}
  /-- Clocks. -/
  clk : ClkBlk := {}
  /-- Power controller. -/
  pwr : PwrBlk := {}
  /-- Calibration. -/
  cal : CalBlk := {}
  /-- The Waling. -/
  saf : SafBlk := {}
  /-- Trust. -/
  tru : TruBlk := {}
  /-- The W1C flag registers by slot of R498. -/
  flags : Vector W 83 := Vector.replicate 83 0
  /-- The counters of the TLM block: BAR0 offset and value, ascending, no zero (R503). -/
  tlm : List (Nat × W) := []
  /-- SRAM (R30): address and byte, ascending, no byte equal to what an unlisted address reads. -/
  mem : List Host.Cell := []
  /-- How many free values have been taken (the model's own, log 1). -/
  freeCnt : Nat := 0
  /-- Commands and events that wait, first in first out (the model's own, log 3). -/
  pending : List Instr := []
  deriving DecidableEq, Repr

/-- The block right after a power-on reset (R486 code 0, R494): every register at its Reset column, VBAT not yet above
6.0 V, MRAM and fuses as shipped (log 5). -/
def State.reset : State := {}

end Sys2Proof.Machine
end

