-- ==== Sys2Proof/Machine/Ops.lean ====
section
/-!
DEFINITION. The named operations that the meanings share: byte order, fields of register words, updates of the numbered
parts of the State, SRAM in its canonical form, the counters of the TLM block, the device-produced rings with their
messages, events and their loss, and completions.
-/

namespace Sys2Proof.Machine

/-! ### Bytes -/

/-- The number that bytes give, least significant first (Notation: host memory is little-endian). -/
def leNat : List Byte → Nat
  | [] => 0
  | b :: bs => b.toNat + 256 * leNat bs

/-- `n` bytes of a number, least significant first. -/
def leBytes : Nat → Nat → List Byte
  | 0, _ => []
  | n + 1, v => BitVec.ofNat 8 v :: leBytes n (v / 256)

/-- The number that bytes give, most significant first (broadcast formats). -/
def beNat (bs : List Byte) : Nat := leNat bs.reverse

/-- `n` bytes of a number, most significant first. -/
def beBytes (n v : Nat) : List Byte := (leBytes n v).reverse

/-- A byte list cut or padded with zeros to `n` bytes. -/
def padTo (n : Nat) (bs : List Byte) : List Byte := (bs ++ List.replicate (n - bs.length) 0).take n

/-- Bytes `i` to `i + n − 1` of a list, zeros beyond its end. -/
def slice (bs : List Byte) (i n : Nat) : List Byte := padTo n (bs.drop i)

/-- A signed number as two's complement in `n` bytes, least significant first. -/
def leInt (n : Nat) (v : Int) : List Byte := leBytes n (v % (256 ^ n : Nat)).toNat

/-- The signed value of `n`-byte two's complement. -/
def toSigned (n v : Nat) : Int := if v < 2 ^ (8 * n - 1) then v else (v : Int) - 256 ^ n

/-- Overwrite a byte list from position `i`. -/
def overlay (bs : List Byte) (i : Nat) (new : List Byte) : List Byte :=
  padTo i bs ++ new ++ bs.drop (i + new.length)

/-- Bits `lo` to `lo + n − 1` of a register word as a number. -/
def fld (w : W) (lo n : Nat) : Nat := w.toNat / 2 ^ lo % 2 ^ n

/-- A word with one field. -/
def mkFld (lo v : Nat) : W := BitVec.ofNat 32 (v * 2 ^ lo)

/-- A Boolean as bit `lo`. -/
def mkBit (lo : Nat) (b : Bool) : W := if b then mkFld lo 1 else 0

/-- A Boolean as 0 or 1. -/
def b01 (b : Bool) : Nat := if b then 1 else 0

/-- A byte from a number. -/
def byte (v : Nat) : Byte := BitVec.ofNat 8 v

/-- A sum that stops at a maximum. -/
def satAdd (max a b : Nat) : Nat := min max (a + b)

/-- Whether a number lies from `lo` to `hi`. -/
def within (lo hi v : Nat) : Bool := decide (lo ≤ v) && decide (v ≤ hi)

/-- Ceiling division. -/
def ceilDiv (a b : Nat) : Nat := (a + b - 1) / b

/-! ### Numbered parts -/

/-- The nearest value of `n` two's-complement bits. -/
def clip (n : Nat) (v : Int) : Int := max (-(2 ^ (n - 1))) (min (2 ^ (n - 1) - 1) v)

/-- Update entry `i` of a fixed-size table. -/
def upd {α : Type} {n : Nat} (v : Vector α n) (i : Fin n) (f : α → α) : Vector α n := v.set i.val (f v[i])

/-- The first index that satisfies a test, in ascending order. -/
def firstIx {n : Nat} (p : Fin n → Bool) : Option (Fin n) := (List.finRange n).find? p

/-- All indices in ascending order that satisfy a test. -/
def allIx {n : Nat} (p : Fin n → Bool) : List (Fin n) := (List.finRange n).filter p

/-- Number `v` as an index below `n`, if it is one. -/
def ix (n v : Nat) : Option (Fin n) := if h : v < n then some ⟨v, h⟩ else none

/-- Replace entry `i` of a list. -/
def listUpd {α : Type} (l : List α) (i : Nat) (f : α → α) : List α := l.mapIdx fun j x => if j = i then f x else x

namespace State

/-- Update one Headrace. -/
def modHr (s : State) (n : Fin 4) (f : Headrace → Headrace) : State :=
  { s with cap := { s.cap with hr := upd s.cap.hr n f } }
/-- Update one feed. -/
def modFeed (s : State) (n : Fin 4) (f : Feed → Feed) : State :=
  { s with cap := { s.cap with feed := upd s.cap.feed n f } }
/-- Update one window. -/
def modWin (s : State) (w : Fin 64) (f : Window → Window) : State :=
  { s with win := { s.win with win := upd s.win.win w f } }
/-- Update one service context. -/
def modCtx (s : State) (c : Fin 256) (f : Ctx → Ctx) : State :=
  { s with svc := { s.svc with ctx := upd s.svc.ctx c f } }
/-- Update one runner. -/
def modRun (s : State) (r : Fin 32) (f : Runner → Runner) : State :=
  { s with svc := { s.svc with run := upd s.svc.run r f } }
/-- Update one ring. -/
def modRing (s : State) (n : Fin 32) (f : Ring → Ring) : State :=
  { s with host := { s.host with rings := upd s.host.rings n f } }
/-- Update the record of one followed context. -/
def modFollow (s : State) (c : Fin 256) (f : Follow → Follow) : State :=
  { s with fan := { s.fan with follow := upd s.fan.follow c f } }
/-- Update one estimator. -/
def modEst (s : State) (e : Fin 4) (f : Estimator → Estimator) : State :=
  { s with fan := { s.fan with est := upd s.fan.est e f } }
/-- Update one audio port. -/
def modPort (s : State) (p : Fin 4) (f : Port → Port) : State :=
  { s with aud := { s.aud with ports := upd s.aud.ports p f } }
/-- Update one port group. -/
def modGroup (s : State) (g : Fin 5) (f : Group → Group) : State :=
  { s with aud := { s.aud with groups := upd s.aud.groups g f } }
/-- Update one audio queue. -/
def modQueue (s : State) (q : Fin 12) (f : Queue → Queue) : State :=
  { s with aud := { s.aud with queues := upd s.aud.queues q f } }
/-- Update one output stream. -/
def modStream (s : State) (n : Fin 32) (f : Stream → Stream) : State :=
  { s with aud := { s.aud with streams := upd s.aud.streams n f } }
/-- Update one DMA channel. -/
def modCh (s : State) (n : Fin 16) (f : DmaCh → DmaCh) : State :=
  { s with dma := { s.dma with ch := upd s.dma.ch n f } }
/-- Update one two-wire port. -/
def modTw (s : State) (p : Fin 2) (f : TwPort → TwPort) : State :=
  { s with tw := { s.tw with port := upd s.tw.port p f } }
/-- Update one synthesiser table entry. -/
def modSynth (s : State) (c : Fin 81) (f : SynthEntry → SynthEntry) : State :=
  { s with acc := { s.acc with synth := upd s.acc.synth c f } }
/-- Update one record of the bulletin store. -/
def modBul (s : State) (r : Fin 128) (f : BulRec → BulRec) : State :=
  { s with bul := { s.bul with store := upd s.bul.store r f } }
/-- Update the FM and AM part of a runner. -/
def modFm (s : State) (r : Fin 32) (f : FmState → FmState) : State := s.modRun r fun x => { x with fm := f x.fm }
/-- Update the DAB part of a runner. -/
def modDab (s : State) (r : Fin 32) (f : DabState → DabState) : State := s.modRun r fun x => { x with dab := f x.dab }
/-- Update the DRM part of a runner. -/
def modDrm (s : State) (r : Fin 32) (f : DrmState → DrmState) : State := s.modRun r fun x => { x with drm := f x.drm }

/-- Take a free value: its number, and the state with the counter advanced (log 1). -/
def takeFree (s : State) : Nat × State := (s.freeCnt, { s with freeCnt := s.freeCnt + 1 })

end State

/-! ### SRAM -/

/-- What an address that the list does not name reads as (log 8). -/
def Memory.unlisted : Byte := 0

/-- The byte at an address. -/
def Memory.read : List Host.Cell → Nat → Byte
  | [], _ => Memory.unlisted
  | (a, b) :: m, x => if x = a then b else if x < a then Memory.unlisted else Memory.read m x

/-- Write one byte and keep the canonical form. -/
def Memory.write : List Host.Cell → Nat → Byte → List Host.Cell
  | [], x, v => if v = Memory.unlisted then [] else [(x, v)]
  | (a, b) :: m, x, v =>
    if x < a then (if v = Memory.unlisted then (a, b) :: m else (x, v) :: (a, b) :: m)
    else if x = a then (if v = Memory.unlisted then m else (x, v) :: m)
    else (a, b) :: Memory.write m x v

/-- Every entry lies above `lo` in strictly rising order and differs from what an unlisted address reads. -/
def Memory.above : Option Nat → List Host.Cell → Bool
  | _, [] => true
  | lo, (a, b) :: m =>
    (match lo with | none => true | some l => decide (l < a)) && decide (b ≠ Memory.unlisted) && Memory.above (some a) m

/-- The canonical form of SRAM. -/
def Memory.wf (m : List Host.Cell) : Bool := Memory.above none m

/-- `n` bytes from an address. -/
def Memory.readN (m : List Host.Cell) (a n : Nat) : List Byte := (List.range n).map fun i => Memory.read m (a + i)

/-- Write bytes from an address upwards. -/
def Memory.writeN : List Host.Cell → Nat → List Byte → List Host.Cell
  | m, _, [] => m
  | m, a, b :: bs => Memory.writeN (Memory.write m a b) (a + 1) bs

/-- Write bytes to SRAM. -/
def State.store (s : State) (a : Nat) (bs : List Byte) : State := { s with mem := Memory.writeN s.mem a bs }

/-- Read bytes of SRAM. -/
def State.load (s : State) (a n : Nat) : List Byte := Memory.readN s.mem a n

/-! ### Counters of the TLM block (R503) -/

/-- The counter at a BAR0 offset. -/
def Tlm.get : List (Nat × W) → Nat → W
  | [], _ => 0
  | (a, v) :: m, x => if x = a then v else if x < a then 0 else Tlm.get m x

/-- Set a counter, keeping ascending offsets and no zero. -/
def Tlm.set : List (Nat × W) → Nat → W → List (Nat × W)
  | [], x, v => if v = 0 then [] else [(x, v)]
  | (a, b) :: m, x, v =>
    if x < a then (if v = 0 then (a, b) :: m else (x, v) :: (a, b) :: m)
    else if x = a then (if v = 0 then m else (x, v) :: m)
    else (a, b) :: Tlm.set m x v

/-- The canonical form of the counters: strictly rising offsets, no zero. -/
def Tlm.above : Option Nat → List (Nat × W) → Bool
  | _, [] => true
  | lo, (a, b) :: m =>
    (match lo with | none => true | some l => decide (l < a)) && decide (b ≠ 0) && Tlm.above (some a) m

/-- The canonical form of the counters. -/
def Tlm.wf (m : List (Nat × W)) : Bool := Tlm.above none m

/-- Add to the counter at a BAR0 offset; it wraps at 2^32 (R503). -/
def State.bump (s : State) (off n : Nat) : State :=
  { s with tlm := Tlm.set s.tlm off (Tlm.get s.tlm off + BitVec.ofNat 32 n) }

/-- TLM.LINK_DROP of link j (R503). -/
def State.linkDrop (s : State) (j n : Nat) : State := s.bump (0x7004 + 16 * j) n
/-- TLM.LINK_DISC of link j. -/
def State.linkDisc (s : State) (j : Nat) : State := s.bump (0x7008 + 16 * j) 1
/-- TLM.LINK_AUX of link j. -/
def State.linkAux (s : State) (j : Nat) : State := s.bump (0x700C + 16 * j) 1
/-- TLM.RUN[r][i]. -/
def State.runCount (s : State) (r i n : Nat) : State := s.bump (0xA000 + 128 * r + 4 * i) n

/-! ### Rings the device produces -/

/-- Entries of a ring (R38). -/
def Ring.size (r : Ring) : Nat := 2 ^ r.log2size.toNat

/-- Entries written and not returned (R39). -/
def Ring.used (r : Ring) : Nat := (r.prod + r.size - r.cons) % r.size

/-- Slots the producer may still fill: at most size − 1 are outstanding (R39). -/
def Ring.free (r : Ring) : Nat := r.size - 1 - r.used

/-- The base address. -/
def Ring.base (r : Ring) : Nat := r.baseLo.toNat + 2 ^ 32 * r.baseHi.toNat

/-- The payload buffer's address. -/
def Ring.pbuf (r : Ring) : Nat := r.pbufLo.toNat + 2 ^ 32 * r.pbufHi.toNat

/-- Bytes of one entry (the table before R38). -/
def entrySize (n : Nat) : Nat := if n = 0 then 64 else if n = 3 ∨ n = 4 then 272 else 32

/-- A device-produced ring (the table before R38). -/
def isProduced (n : Nat) : Bool := n = 1 ∨ n = 2 ∨ n = 4 ∨ n ≥ 8

/-- The device may write rings: the link is up and RING_EN is 1 (R70, R71). -/
def State.hostUp (s : State) : Bool := s.host.dlUp && s.host.ringEn

/-- Ring n takes entries. -/
def State.ringUp (s : State) (n : Fin 32) : Bool := s.hostUp && s.host.rings[n].en

/-- One posted write to the host (R36, R47). -/
def State.post (s : State) (w : HostWrite) : State := { s with host := { s.host with posted := w :: s.host.posted } }

/-- The bus address at which entry `k` of ring n lies (R38). -/
def ringAddr (r : Ring) (n k : Nat) : D := BitVec.ofNat 64 (r.base + k * entrySize n)

/-- A vector is masked, by its own mask bit or by the function mask (R68). -/
def State.vecMasked (s : State) (v : Fin 16) : Bool := s.host.funcMask || s.host.msix[v].masked

/-- Send the message of a vector, or set its pending bit while it is masked (R68). -/
def State.message (s : State) (v : Fin 16) : State :=
  if s.vecMasked v then { s with host := { s.host with pba := s.host.pba ||| BitVec.ofNat 16 (2 ^ v.val) } }
  else
    let e := s.host.msix[v]
    s.post (.msix (e.addrHi ++ e.addrLo) e.data)

/-- The vector of a ring. -/
def Ring.vecIx (r : Ring) : Fin 16 := r.vec.toFin

/-- A message of ring n falls due (R68): sent or made pending, and coalescing starts afresh once it was sent. -/
def State.msgDue (s : State) (n : Fin 32) : State :=
  let r := s.host.rings[n]
  if s.host.msixEn && r.irqEn && decide (r.unsignalled ≠ 0) then
    if s.vecMasked r.vecIx then s.message r.vecIx
    else (s.message r.vecIx).modRing n fun r => { r with unsignalled := 0 }
  else s

/-- Entries that call for a message: COAL_CNT, where 0 acts as 1 (HOST.RING_IRQ). -/
def Ring.coal (r : Ring) : Nat := max 1 r.coalCnt.toNat

/-- Advance the producer index past one entry; PHASE inverts at the end of a pass (R39, R40). -/
def Ring.advance (r : Ring) : Ring :=
  if r.prod + 1 < r.size then { r with prod := r.prod + 1 } else { r with prod := 0, phase := !r.phase }

/-- The shadow write of ring n, when SHADOW_EN is 1 (R41). -/
def State.shadow (s : State) (n : Fin 32) (v : Nat) : State :=
  if s.host.shadowEn then
    s.post (.shadow ((s.host.shadowHi ++ s.host.shadowLo) + BitVec.ofNat 64 (4 * n.val)) (BitVec.ofNat 32 v))
  else s

/-- Write one entry to device-produced ring n in the order of R47: entry, shadow index, message. -/
def State.writeEntry (s : State) (n : Fin 32) (mk : D → Bool → HostWrite) : State :=
  let r := s.host.rings[n]
  let s := s.post (mk (ringAddr r n.val r.prod) r.phase)
  let s := s.modRing n fun r => { r.advance with unsignalled := r.unsignalled + 1 }
  let s := s.shadow n s.host.rings[n].prod
  if s.host.rings[n].coal ≤ s.host.rings[n].unsignalled then s.msgDue n else s

/-! ### Events -/

/-- Source masked in the EVT block (R58, R501). -/
def State.srcMasked (s : State) (src : Nat) : Bool :=
  if h : src / 32 < 3 then (s.evt.mask[src / 32]'h).getLsbD (src % 32) else false

/-- The next SEQ is used up (R58). -/
def State.useSeq (s : State) : State := { s with evt := { s.evt with seq := s.evt.seq + 1 } }

/-- The event as it stands now: SEQ and device time. -/
def State.mkEvent (s : State) (src code : Nat) (data : List Byte) : Event :=
  { source := byte src, code := BitVec.ofNat 16 code, seq := s.evt.seq, time := s.sys.timeUs, data := padTo 16 data }

/-- Write an event entry to ring 2. -/
def State.putEvent (s : State) (src code : Nat) (data : List Byte) : State :=
  let e := s.mkEvent src code data
  (s.useSeq).writeEntry 2 fun a p => .event a p e

/-- Count a lost event (R59, R71). -/
def State.loseEvent (s : State) : State :=
  { s with evt := { s.evt with seq := s.evt.seq + 1, lost := s.evt.lost + 1, owed := s.evt.owed + 1 } }

/-- The source 4 entry that is owed, once ring 2 has a slot beyond the reserved one (R59). -/
def State.payOwed (s : State) : State :=
  if s.evt.owed ≠ 0 ∧ s.ringUp 2 = true ∧ 2 ≤ s.host.rings[2].free then
    let n := min s.evt.owed (2 ^ 32 - 1)
    ({ s with evt := { s.evt with owed := 0 } }).putEvent 4 0 (leBytes 4 n)
  else s

/-- Raise an event (R58, R59, R71, R502): a masked source writes nothing but advances SEQ; with no room beyond the slot
kept for source 4, or while the device writes no ring 2 entries, the event is lost. -/
def State.raise (s : State) (src code : Nat) (data : List Byte) : State :=
  let s := s.payOwed
  if s.srcMasked src then s.useSeq
  else if s.ringUp 2 = true ∧ 2 ≤ s.host.rings[2].free then s.putEvent src code data
  else s.loseEvent

/-- Raise an event that a rule holds back until the host has enabled ring 2. -/
def State.raiseDeferred (s : State) (src code : Nat) (data : List Byte) : State :=
  if s.ringUp 2 then s.raise src code data
  else { s with evt := { s.evt with deferred := s.evt.deferred ++ [(byte src, BitVec.ofNat 16 code, data)] } }

/-- The host has enabled ring 2: the owed source 4 entry, then the events that were held back, in order. -/
def State.flushDeferred (s : State) : State :=
  if s.ringUp 2 then
    let l := s.evt.deferred
    l.foldl (fun s d => s.raise d.1.toNat d.2.1.toNat d.2.2) ({ s with evt := { s.evt with deferred := [] } }).payOwed
  else s

/-- The data of a rate-limited event that covers an amount, by source: byte 16 the instance, bytes 17 to 19 the source's own
data, bytes 20 to 23 the amount saturating at 2^32 − 1. Source 92 holds class, instance and INJ in bytes 16 to 18 and the
occurrences of its code, which its interval is keyed by (R479); source 52 counts in byte 19 (R250); sources 38 and 41 carry
their identity in bytes 20 to 23 (R195, R216); source 43 holds its count in two bytes and source 64 the slips and ppm. -/
def State.rateData (s : State) (src inst : Nat) (aux : W) (sum : Nat) : List Byte :=
  let n := min sum (2 ^ 32 - 1)
  match src with
  | 92 => leBytes 3 aux.toNat ++ [0] ++ leBytes 4 (Tlm.get s.tlm (0xBB00 + 4 * inst)).toNat
  | 52 => byte inst :: (leBytes 2 aux.toNat ++ [byte (min sum 255)])
  | 38 => [byte inst, 0, 0, 0] ++ leBytes 4 aux.toNat
  | 41 => [byte inst, 0, 0, 0] ++ leBytes 4 aux.toNat
  | 64 => [byte inst, 0, 0, 0] ++ leBytes 4 n ++ leBytes 2 aux.toNat
  | _ => byte inst :: (leBytes 3 aux.toNat ++ leBytes 4 n)

/-- Whether an interval of a limited event is open. -/
def State.rateOpen (s : State) (src inst : Nat) : Bool :=
  s.evt.rate.any fun r => r.src = byte src && r.inst = byte inst

/-- Replace the interval records. -/
def State.setRate (s : State) (l : List RateRec) : State := { s with evt := { s.evt with rate := l } }

/-- The record of a source and instance. -/
def RateRec.is (r : RateRec) (src inst : Nat) : Bool := r.src = byte src && r.inst = byte inst

/-- Add an amount to an open interval. -/
def RateRec.add (r : RateRec) (code : Nat) (aux : W) (amount : Nat) (tail : List Byte) : RateRec :=
  { r with held := true, sum := r.sum + amount, code := BitVec.ofNat 16 code, aux := aux, tail := tail }

/-- Raise an event under a rate limit (R61, R75, R118 and the other limits): the first at once, the ones that fall within
the interval added into the next. `tail` follows the amount in DATA. -/
def State.raiseLimitedWith (s : State) (src inst code : Nat) (aux : W) (amount : Nat) (tail : List Byte) : State :=
  if s.rateOpen src inst then
    s.setRate (s.evt.rate.map fun r => if r.is src inst then r.add code aux amount tail else r)
  else
    let s := s.setRate
      ({ src := byte src, inst := byte inst, held := false, sum := 0, code := BitVec.ofNat 16 code, aux := aux, tail := tail } ::
        s.evt.rate)
    s.raise src code (s.rateData src inst aux amount ++ tail)

/-- A limited event without a tail. -/
def State.raiseLimited (s : State) (src inst code : Nat) (aux : W) (amount : Nat) : State :=
  s.raiseLimitedWith src inst code aux amount []

/-- The end of a rate-limit interval: the event it held back is raised and a new interval begins; with none held the
interval closes. -/
def State.rateExpire (s : State) (src inst : Nat) : State :=
  match s.evt.rate.find? fun r => r.is src inst with
  | none => s
  | some r =>
    if r.held then
      let s := s.setRate (s.evt.rate.map fun x => if x.is src inst then { x with held := false, sum := 0 } else x)
      s.raise src r.code.toNat (s.rateData src inst r.aux r.sum ++ r.tail)
    else s.setRate (s.evt.rate.filter fun x => !x.is src inst)

/-! ### Completions and HCI packets -/

/-- The record of a command: its opcode and its fetch. -/
def OutCmd.is (o : OutCmd) (op id : Nat) : Bool := decide (o.opcode.toNat = op) && decide (o.entry.id = id)

/-- The completion of a command is written to ring 1, or is held, with its command outstanding, for room or for the ring's enable (R54);
while the device writes no ring entry it is discarded (R70). -/
def State.complete (s : State) (op : Nat) (e : CmdEntry) (c : Completion) : State :=
  if s.hostUp then
    if s.host.rings[1].en && decide (0 < s.host.rings[1].free) && s.host.held.isEmpty then
      s.writeEntry 1 fun a p => .completion a p c
    else { s with host := { s.host with
      held := s.host.held ++ [(e.id, c)]
      outstanding := s.host.outstanding ++ [{ opcode := BitVec.ofNat 16 op, phase := .completing, entry := e }] } }
  else s

/-- The completion held longest leaves the list, and its command is outstanding no more (R26, R54). -/
def HostBlk.popHeld (h : HostBlk) (id : Nat) (rest : List (Nat × Completion)) : HostBlk :=
  { h with
    held := rest
    outstanding := h.outstanding.filter fun o => !(decide (o.phase = .completing) && decide (o.entry.id = id)) }

/-- Write held completions while ring 1 has room (R54). -/
def State.drainHeld (s : State) : State :=
  (List.replicate s.host.held.length ()).foldl (fun s _ =>
    match s.host.held with
    | [] => s
    | (id, c) :: rest =>
      if s.ringUp 1 && decide (0 < s.host.rings[1].free) then
        ({ s with host := s.host.popHeld id rest }).writeEntry 1 fun a p => .completion a p c
      else s) s

/-- Write an HCI packet to ring 4, or hold it for room. -/
def State.hciOut (s : State) (type : Nat) (packet : List Byte) : State :=
  if s.hostUp then
    if s.host.rings[4].en && decide (0 < s.host.rings[4].free) && s.host.hciHeld.isEmpty then
      s.writeEntry 4 fun a p => .hci a p (byte type) packet
    else { s with host := { s.host with hciHeld := s.host.hciHeld ++ [(byte type, packet)] } }
  else s

/-- Write held HCI packets while ring 4 has room. -/
def State.drainHci (s : State) : State :=
  (List.replicate s.host.hciHeld.length ()).foldl (fun s _ =>
    match s.host.hciHeld with
    | [] => s
    | (t, p) :: rest =>
      if s.ringUp 4 && decide (0 < s.host.rings[4].free) then
        ({ s with host := { s.host with hciHeld := rest } }).writeEntry 4 fun a ph => .hci a ph t p
      else s) s

/-! ### The bus writes of an entry (R36, and the tables before R50, R54, R58, R62, R65) -/

/-- Value of a status code (R57). -/
def Status.code : Status → Nat
  | .ok => 0 | .badop => 1 | .badlen => 2 | .range => 3 | .state => 4 | .nores => 5 | .busy => 6 | .notfound => 7
  | .reglimit => 8 | .auth => 9 | .locked => 10 | .timeout => 11 | .notready => 12 | .power => 13 | .coex => 14 | .cal => 15
  | .bus => 16 | .nack => 17 | .arblost => 18 | .superseded => 19 | .aborted => 20 | .fault => 21 | .rollback => 22
  | .full => 23 | .align => 24

/-- The 32 bytes of a completion entry. -/
def Completion.bytes (c : Completion) (phase : Bool) : List Byte :=
  leBytes 4 c.tag.toNat ++ leBytes 2 c.opcode.toNat ++ [byte c.status.code, byte (b01 phase + 2 * b01 c.bufWritten)] ++
    leBytes 2 c.slot.toNat ++ leBytes 2 c.detail.toNat ++ leBytes 4 c.resultLen.toNat ++ padTo 16 c.result

/-- The 32 bytes of an event entry. -/
def Event.bytes (e : Event) (phase : Bool) : List Byte :=
  [e.source, byte (b01 phase)] ++ leBytes 2 e.code.toNat ++ leBytes 4 e.seq.toNat ++ leBytes 8 e.time.toNat ++ padTo 16 e.data

/-- The 32 bytes of a data-ring entry. -/
def DataEntry.bytes (d : DataEntry) (phase : Bool) : List Byte :=
  [d.ctx, d.gen, d.kind, byte (b01 phase + 2 * b01 d.disc + 4 * b01 d.first + 8 * b01 d.last)] ++ leBytes 4 d.offset.toNat ++
    leBytes 4 d.length.toNat ++ leBytes 4 d.lost.toNat ++ leBytes 8 d.ts.toNat ++ leBytes 4 d.seq.toNat ++ leBytes 4 d.tag.toNat

/-- The 272 bytes of a ring 4 entry. -/
def hciBytes (phase : Bool) (type : Byte) (packet : List Byte) : List Byte :=
  leBytes 2 packet.length ++ [type, byte (b01 phase)] ++ padTo 268 packet

/-- Where a posted write goes and the bytes it carries. -/
def HostWrite.image (w : HostWrite) : D × List Byte :=
  match w with
  | .completion a p c => (a, c.bytes p)
  | .event a p e => (a, e.bytes p)
  | .data a p d => (a, d.bytes p)
  | .hci a p t k => (a, hciBytes p t k)
  | .payload a b => (a, b)
  | .shadow a i => (a, leBytes 4 i.toNat)
  | .msix a v => (a, leBytes 4 v.toNat)
  | .buf a b => (a, b)
  | .dma a b => (a, b)

/-- One memory write on the bus: an address that is a multiple of 4, one entry per byte from there (`none` where the byte enable is
off), and the attributes of R36. -/
structure BusWrite where
  addr : Nat
  bytes : List (Option Byte)
  relaxed : Bool := false
  noSnoop : Bool := false
  deriving DecidableEq, Repr

/-- Bytes from an address as bus writes of whole 32-bit words, none of which crosses a 4 KiB boundary (R36) or holds more than the
largest payload (R35); `fuel` bounds their number. -/
def busWrites : Nat → Nat → List (Option Byte) → List BusWrite
  | 0, _, _ => []
  | _ + 1, _, [] => []
  | k + 1, a, l =>
    let n := min (4096 - a % 4096) Config.maxPayload
    { addr := a, bytes := l.take n } :: busWrites k (a + n) (l.drop n)

/-- The bus writes of one posted write: bytes before and after its own in the first and the last word are not enabled. -/
def HostWrite.bus (w : HostWrite) : List BusWrite :=
  let a := w.image.1.toNat
  let l := List.replicate (a % 4) none ++ w.image.2.map some
  let l := l ++ List.replicate ((4 - l.length % 4) % 4) none
  busWrites (l.length / Config.maxPayload + l.length / 4096 + 2) (a - a % 4) l

/-- Everything that the device has written to the host, in the one order of R36 and R47. -/
def State.busStream (s : State) : List BusWrite := s.host.posted.reverse.flatMap HostWrite.bus

end Sys2Proof.Machine
end

