-- ==== Sys2Proof/Machine/Flags.lean ====
section
/-!
DEFINITION. The W1C flag registers and their companion counters (R5, R497, R498): the hardware sets a bit and adds to its
counter, software clears by writing 1, and a set in the same cycle wins.
-/

namespace Sys2Proof.Machine

/-- Slots of R498. -/
def slotSys : Fin 83 := 0
def slotHr (n : Fin 4) : Fin 83 := ⟨1 + n.val, by omega⟩
def slotFeed (n : Fin 4) : Fin 83 := ⟨5 + n.val, by omega⟩
def slotSat (w : Fin 64) : Fin 83 := ⟨9 + w.val, by omega⟩
def slotAud : Fin 83 := 73
def slotAcc : Fin 83 := 74
def slotTw (p : Fin 2) : Fin 83 := ⟨75 + p.val, by omega⟩
def slotDma : Fin 83 := 77
def slotClk : Fin 83 := 78
def slotPwr : Fin 83 := 79
def slotCal : Fin 83 := 80
def slotSaf : Fin 83 := 81
def slotTru : Fin 83 := 82

/-- The companion counter of bit `b` of slot `k` (R498). -/
def flagCounter (k b : Nat) : Nat := 0x4000 + 128 * k + 4 * b

/-- The hardware sets bit `b` of flag slot `k` `n` times: the bit is 1, and its counter has advanced by `n` (R498). -/
def State.setFlagN (s : State) (k : Fin 83) (b n : Nat) : State :=
  if n = 0 then s
  else ({ s with flags := upd s.flags k fun w => w ||| BitVec.ofNat 32 (2 ^ b) }).bump (flagCounter k.val b) n

/-- The hardware sets bit `b` of flag slot `k` once. -/
def State.setFlag (s : State) (k : Fin 83) (b : Nat) : State := s.setFlagN k b 1

/-- Bit `b` of flag slot `k`. -/
def State.flag (s : State) (k : Fin 83) (b : Nat) : Bool := s.flags[k].getLsbD b

/-- Software writes `mask` to flag slot `k`, with no hardware set in that cycle. -/
def State.clearFlag (s : State) (k : Fin 83) (mask : W) : State :=
  { s with flags := upd s.flags k fun w => w &&& ~~~mask }

/-- The defined bits of the flag register of a slot; the others are reserved and read 0 (R6, R498). -/
def flagBits (k : Fin 83) : W :=
  if k = slotSys then 0x1
  else if k.val ≤ 4 then 0x1F
  else if k.val ≤ 8 then 0xF
  else if k.val ≤ 72 then 0x7F
  else
    match k.val with
    | 73 => 0xFF0F1F1F
    | 74 | 75 | 76 => 0x3F
    | 77 => 0xFFFFFFFF
    | 78 => 0x1F
    | 79 | 81 => 0x3F
    | 80 => 0xF
    | _ => 0x7

/-- Hardware sets of the defined bits of `sets`, each once, lowest bit first. -/
def State.setFlagBits (s : State) (k : Fin 83) (sets : W) : State :=
  (List.range 32).foldl (fun s b => if (sets &&& flagBits k).getLsbD b then s.setFlag k b else s) s

end Sys2Proof.Machine
end

