-- ==== Sys2Proof/Machine/Operands.lean ====
section
/-!
DEFINITION. The operand forms of the commands: the fields of a command entry, the opcode table with every PLEN, BUF_LEN
range and buffer use (R50), the checks of the Hopper and of the steward, and the running of a command from its checks to
its completion; the CRCs that the formats use.
-/

namespace Sys2Proof

/-- Byte `off` of the entry, for the parameter bytes 24 to 63. -/
def CmdEntry.u8 (c : CmdEntry) (off : Nat) : Nat := (c.params.getD (off - 24) 0).toNat
/-- Two bytes, little-endian. -/
def CmdEntry.u16 (c : CmdEntry) (off : Nat) : Nat := c.u8 off + 256 * c.u8 (off + 1)
/-- Four bytes, little-endian. -/
def CmdEntry.u32 (c : CmdEntry) (off : Nat) : Nat := c.u16 off + 65536 * c.u16 (off + 2)
/-- Eight bytes, little-endian. -/
def CmdEntry.u64 (c : CmdEntry) (off : Nat) : Nat := c.u32 off + 2 ^ 32 * c.u32 (off + 4)
/-- The parameter bytes used, cut or padded to `n`. -/
def CmdEntry.bytes (c : CmdEntry) (off n : Nat) : List Byte := (List.range n).map fun i => c.params.getD (off - 24 + i) 0
/-- FENCE (the table before R50). -/
def CmdEntry.fence (c : CmdEntry) : Bool := c.flags.getLsbD 0
/-- BUF_IN. -/
def CmdEntry.bufIn (c : CmdEntry) : Bool := c.flags.getLsbD 1
/-- BUF_OUT. -/
def CmdEntry.bufOut (c : CmdEntry) : Bool := c.flags.getLsbD 2

namespace Machine

/-! ### The opcode table -/

/-- One permitted use of the buffer: none, the device reads it or writes it, or both (TW_XFER with PROTO 8), with the BUF_LEN
range and the unit of which BUF_LEN is a multiple. -/
inductive BufUse where
  | none
  | dev (reads : Bool) (lo hi unit : Nat)
  | both (lo hi : Nat)
  deriving DecidableEq, Repr

/-- A row of the Hopper's table (R50): PLEN and every buffer use that some parameter value permits. -/
structure OpRow where
  plen : Nat
  bufs : List BufUse
  deriving DecidableEq, Repr

/-- A row without a buffer. -/
def OpRow.plain (n : Nat) : OpRow := ⟨n, [.none]⟩
/-- A row whose device writes exactly `n` bytes. -/
def OpRow.writes (p n : Nat) : OpRow := ⟨p, [.dev false n n 1]⟩
/-- A row whose device reads exactly `n` bytes. -/
def OpRow.reads (p n : Nat) : OpRow := ⟨p, [.dev true n n 1]⟩

/-- System commands (R55). -/
def sysOps (o : Nat) : Option OpRow :=
  match o with
  | 0 | 1 | 2 => some (.plain 0)
  | 3 => some (.plain 8)
  | 4 => some (.plain 4)
  | _ => none

/-- Capture and window commands (R107, R140). -/
def capOps (o : Nat) : Option OpRow :=
  match o with
  | 1 | 2 | 3 | 5 => some (.plain 4)
  | 4 => some (.plain 8)
  | 6 => some (.writes 4 256)
  | 0x10 => some ⟨20, [.none, .dev true 4 384 4]⟩
  | 0x11 | 0x15 | 0x17 => some (.plain 4)
  | 0x12 | 0x13 | 0x16 => some (.plain 8)
  | 0x14 => some ⟨4, [.dev true 4 384 4]⟩
  | 0x18 => some ⟨4, [.dev false 5128 5128 1, .dev false 304 304 1]⟩
  | _ => none

/-- Service commands (R165, R193, R214). -/
def svcOps (o : Nat) : Option OpRow :=
  match o with
  | 1 => some (.plain 12)
  | 2 | 3 | 0x12 | 0x30 => some (.plain 4)
  | 0x10 => some (.plain 20)
  | 0x11 | 0x13 => some (.plain 12)
  | 0x14 => some (.writes 4 1024)
  | 0x20 => some (.plain 8)
  | 0x21 => some (.writes 4 13376)
  | 0x31 => some (.writes 4 512)
  | _ => none

/-- Following commands (R248). -/
def fanOps (o : Nat) : Option OpRow :=
  match o with
  | 1 => some (.plain 32)
  | 2 => some (.plain 12)
  | 3 => some (.writes 4 784)
  | 4 | 5 => some (.plain 4)
  | _ => none

/-- Audio commands (R297). -/
def audOps (o : Nat) : Option OpRow :=
  match o with
  | 1 | 5 => some (.plain 12)
  | 2 => some (.plain 20)
  | 3 | 6 => some (.plain 8)
  | 4 | 7 => some (.plain 4)
  | _ => none

/-- Bulletin commands (R269). -/
def bulOps (o : Nat) : Option OpRow :=
  match o with
  | 1 => some (.plain 12)
  | 2 => some ⟨4, [.none, .dev true 2592 2592 1]⟩
  | 3 => some (.plain 24)
  | 4 => some (.writes 4 2080)
  | 5 => some ⟨4, [.dev false 4667 70208 1]⟩
  | 6 => some (.plain 4)
  | _ => none

/-- Access commands (R318, R341, R362). -/
def accOps (o : Nat) : Option OpRow :=
  match o with
  | 1 => some (.plain 8)
  | 2 => some (.writes 4 64)
  | 3 | 0x10 | 0x23 => some (.plain 12)
  | 0x11 | 0x13 | 0x22 | 0x25 => some (.plain 4)
  | 0x12 => some (.reads 4 128)
  | 0x14 => some (.writes 4 128)
  | 0x20 => some (.reads 4 6263)
  | 0x21 => some (.writes 4 2048)
  | 0x24 => some ⟨4, [.none, .dev true 32 32 1]⟩
  | 0x26 => some (.writes 4 384)
  | _ => none

/-- Power commands (R428). -/
def pwrOps (o : Nat) : Option OpRow :=
  match o with
  | 1 | 2 => some (.plain 4)
  | 3 => some (.plain 8)
  | 4 => some (.plain 0)
  | _ => none

/-- Calibration commands (R445). -/
def calOps (o : Nat) : Option OpRow :=
  match o with
  | 1 | 2 => some (.plain 4)
  | 3 => some (.plain 12)
  | _ => none

/-- Trust commands (R463). -/
def truOps (o : Nat) : Option OpRow :=
  match o with
  | 1 => some ⟨8, [.dev true 64 65536 1]⟩
  | 2 | 3 | 4 => some (.plain 4)
  | 5 => some (.writes 32 5011)
  | 6 => some (.writes 4 6144)
  | 7 => some ⟨4, [.dev false 2592 2592 1, .dev false 1568 1568 1]⟩
  | 8 => some ⟨4, [.none, .dev false 32 32 1, .dev true 4627 4627 1]⟩
  | 9 => some (.reads 4 2592)
  | _ => none

/-- Two-wire commands (R391). -/
def twOps (o : Nat) : Option OpRow :=
  match o with
  | 1 => some ⟨12, [.none, .dev true 1 255 1, .dev false 1 255 1, .both 1 255]⟩
  | 2 => some (.plain 4)
  | _ => none

/-- DMA commands (R377). -/
def dmaOps (o : Nat) : Option OpRow :=
  match o with
  | 1 | 3 => some (.plain 8)
  | 2 => some ⟨8, [.dev true 64 16384 64]⟩
  | 4 => some ⟨12, [.dev true 64 16384 64]⟩
  | 5 | 6 => some (.plain 4)
  | _ => none

/-- The Hopper's table of every defined opcode (R27, R50). -/
def opRow (op : Nat) : Option OpRow :=
  let o := op % 256
  match op / 256 with
  | 1 => sysOps o
  | 2 => capOps o
  | 3 => svcOps o
  | 4 => fanOps o
  | 5 => audOps o
  | 6 => bulOps o
  | 7 => accOps o
  | 8 => pwrOps o
  | 9 => calOps o
  | 10 => truOps o
  | 11 => twOps o
  | 12 => dmaOps o
  | _ => none

/-- The entry uses the buffer in this way. -/
def BufUse.fits (u : BufUse) (c : CmdEntry) : Bool :=
  match u with
  | .none => !c.bufIn && !c.bufOut && decide (c.bufLen = 0)
  | .dev reads lo hi unit =>
    decide (c.bufIn = reads) && decide (c.bufOut = !reads) && within lo hi c.bufLen.toNat &&
      decide (c.bufLen.toNat % unit = 0)
  | .both lo hi => c.bufIn && c.bufOut && within lo hi c.bufLen.toNat

/-- Steps 1 to 5 of R50, in order; `none` when all pass. Step 2 finds the row, step 1 is part of it: both give E_BADOP. -/
def hopperCheck (op : Nat) (c : CmdEntry) : Option (Status × Nat) :=
  match opRow op with
  | none => some (.badop, 0)
  | some row =>
    if c.plen.toNat ≠ row.plen ∨ row.bufs.all (fun u => !u.fits c) = true then some (.badlen, 0)
    else if c.flags.toNat / 8 ≠ 0 then some (.range, 3)
    else if c.rsvd ≠ 0 then some (.range, 20)
    else if c.bufAddr.toNat % 8 ≠ 0 ∨ Config.hostLo < c.bufAddr.toNat + c.bufLen.toNat ∨ Config.hostLo ≤ c.bufAddr.toNat then
      some (.align, 0)
    else none

/-- The steward pair that an opcode is dispatched to: 0 for A, 1 for B (R27). -/
def opPair (op : Nat) : Fin 2 := if op / 256 = 8 ∨ op / 256 = 9 ∨ op / 256 = 11 then 1 else 0

/-! ### Running a command -/

/-- What the steward answers to a command after step 6 of R50. -/
inductive Answer where
  /-- E_OK with the new state, the inline result and what goes into BUF. -/
  | ok (s : State) (result : List Byte) (out : Option (List Byte))
  /-- A status with the partial effect that the owning chapter states for it (R51). -/
  | part (s : State) (st : Status) (detail : Nat) (result : List Byte)
  /-- Any other status: the state is as before (R51). -/
  | fail (st : Status) (detail : Nat)
  /-- The command has taken effect so far and completes at a later event. -/
  | wait (s : State)

/-- E_OK without a result. -/
def Answer.done (s : State) : Answer := .ok s [] none

/-- The completion of a command (the table before R54). -/
def mkCompletion (op : Nat) (c : CmdEntry) (st : Status) (detail : Nat) (result : List Byte) (written : Nat) : Completion :=
  { tag := c.tag, opcode := BitVec.ofNat 16 op, status := st, bufWritten := decide (written ≠ 0), slot := c.slot,
    detail := BitVec.ofNat 16 detail, resultLen := BitVec.ofNat 32 written, result := padTo 16 result }

/-- The slot number that marks a vendor-specific HCI command, which came by ring 3 and completes there (R66). -/
def hciSlot : BitVec 16 := 0xFFFF

/-- The HCI opcode of ring 0 opcode 0x07cc (R66). -/
def hciOpcode (op : Nat) : Nat := 0xFE00 + op % 256

/-- The Command Complete event of a vendor-specific command: 4 command packets, the opcode and the status (R65, R66; log 9). -/
def vendorComplete (op : Nat) (st : Status) : List Byte :=
  [0x0E, 4, 4] ++ leBytes 2 (hciOpcode op) ++ [byte st.code]

/-- The event of R524: source 3 with what was being accessed and the bus address. -/
def State.busError (s : State) (who : Nat) (extra : List Byte) (addr : D) : State :=
  s.raise 3 0 (padTo 8 (byte who :: extra) ++ leBytes 8 addr.toNat)

/-- The end of a command: BUF is written first, then the completion (R47, R54). When the write of BUF ends in an error
completion the effect stands and the status is E_FAULT (R524). A vendor-specific HCI command completes on ring 4 (R66). -/
def State.finish (s : State) (op : Nat) (c : CmdEntry) (st : Status) (detail : Nat) (result : List Byte)
    (out : Option (List Byte)) : State :=
  if c.slot = hciSlot then s.hciOut 4 (vendorComplete op st)
  else
    match out with
    | none => s.complete op c (mkCompletion op c st detail result 0)
    | some bs =>
      if c.bufErr then
        (s.busError 0xFF (0 :: leBytes 2 c.slot.toNat) c.bufAddr).complete op c (mkCompletion op c .fault 0 result 0)
      else
        let s := if s.hostUp then s.post (.buf c.bufAddr bs) else s
        s.complete op c (mkCompletion op c st detail result bs.length)

/-- Drop the record of a command that is about to run or has ended. -/
def State.dropCmd (s : State) (op id : Nat) : State :=
  let l := s.host.outstanding.filter fun o => !o.is op id
  { s with host := { s.host with outstanding := l } }

/-- Keep a command outstanding (R25, R26). -/
def State.addCmd (s : State) (op : Nat) (ph : CmdPhase) (c : CmdEntry) : State :=
  let s := s.dropCmd op c.id
  let l := s.host.outstanding ++ [{ opcode := BitVec.ofNat 16 op, phase := ph, entry := c }]
  { s with host := { s.host with outstanding := l } }

/-- A steward pair executes commands: the steward has started, the device is in RUN or Limp and not in SAFE, and the pair has
not stopped (R25, R476, R482). -/
def State.pairRuns (s : State) (p : Fin 2) : Bool :=
  s.host.ready && !s.saf.safe && !s.saf.pairStopped.getLsbD p.val && (decide (s.pwr.st = .run) || decide (s.pwr.st = .limp))

/-- What happens to a command after its checks and its BUF_IN read. -/
def State.answer (s : State) (op : Nat) (c : CmdEntry) (a : Answer) : State :=
  match a with
  | .ok t r o => t.finish op c .ok 0 r o
  | .part t st d r => t.finish op c st d r none
  | .fail st d => s.finish op c st d [] none
  | .wait t => t.addCmd op .waiting c

/-- The commands that the boot ROM serves in recovery (R450): SYS_NOP, SYS_INFO, SYS_RESET, TRU_FW_WRITE and TRU_FW_COMMIT. -/
def recoveryOp (op : Nat) : Bool := op = 0x0100 ∨ op = 0x0101 ∨ op = 0x0104 ∨ op = 0x0A01 ∨ op = 0x0A02

/-- The Hopper still holds the command back for a fence or an order (R52, R53), or it has run already. -/
def State.cmdHeld (s : State) (op : Nat) (c : CmdEntry) : Bool :=
  s.host.outstanding.any fun o => o.is op c.id && decide (o.phase ≠ .dispatched)

/-- One command from its fetch to its completion: the Hopper's checks (R50), its dispatch (R52, R53) to a pair that runs (R25, else the
command stays outstanding), recovery (R450), the read of BUF (R524), the steward's checks and the effect (`body`), and the completion. -/
def State.runCmd (s : State) (op : Nat) (c : CmdEntry) (body : State → Answer) : State :=
  if s.cmdHeld op c then s
  else
  match hopperCheck op c with
  | some (st, d) => (s.dropCmd op c.id).finish op c st d [] none
  | none =>
    if s.pairRuns (opPair op) then
      let s := s.dropCmd op c.id
      if s.sys.recovery && !recoveryOp op then s.finish op c .state 0 [] none
      else if c.bufIn && c.bufErr then (s.busError 0xFF (0 :: leBytes 2 c.slot.toNat) c.bufAddr).finish op c .fault 0 [] none
      else s.answer op c (body s)
    else s.addCmd op .dispatched c

/-- A command that waited completes. -/
def State.finishSlot (s : State) (op id : Nat) (st : Status) (detail : Nat) (result : List Byte)
    (out : Option (List Byte)) : State :=
  match s.host.outstanding.find? fun o => o.is op id && decide (o.phase = .waiting) with
  | none => s
  | some o => (s.dropCmd op id).finish op o.entry st detail result out

/-- The first of several checks that fails decides (R50). -/
def firstFail : List (Bool × Status × Nat) → Option (Status × Nat)
  | [] => none
  | (bad, st, d) :: l => if bad then some (st, d) else firstFail l

/-- Answer with the first failing check, or go on. -/
def checked (l : List (Bool × Status × Nat)) (k : Unit → Answer) : Answer :=
  match firstFail l with
  | some (st, d) => .fail st d
  | none => k ()

/-- Reserved parameter bytes must be 0 (R50 step 6): the first byte from `lo` to `hi` that is not. -/
def rsvdBytes (c : CmdEntry) (lo hi : Nat) : List (Bool × Status × Nat) :=
  (List.range (hi + 1 - lo)).map fun i => (decide (c.u8 (lo + i) ≠ 0), .range, lo + i)

/-! ### CRCs -/

/-- One bit of a reflected CRC. -/
def crcBit (poly : W) (c : W) : W := if c.getLsbD 0 then (c >>> 1) ^^^ poly else c >>> 1

/-- One byte of CRC-32C. -/
def crc32cByte (c : W) (b : Byte) : W :=
  (List.range 8).foldl (fun c _ => crcBit 0x82F63B78 c) (c ^^^ b.setWidth 32)

/-- CRC-32C: polynomial 0x1EDC6F41, bits reflected, initial value and final complement of all ones. -/
def crc32c (bs : List Byte) : W := ~~~(bs.foldl crc32cByte 0xFFFFFFFF)

/-- One byte of the SMBus PEC. -/
def pecByte (c b : Byte) : Byte :=
  (List.range 8).foldl (fun c _ => if c.getLsbD 7 then (c <<< 1) ^^^ 0x07 else c <<< 1) (c ^^^ b)

/-- The SMBus PEC: CRC-8 with polynomial x^8 + x^2 + x + 1, initial value 0 (R384). -/
def pec (bs : List Byte) : Byte := bs.foldl pecByte 0

end Machine
end Sys2Proof
end

