-- ==== Sys2Proof/Machine/Fabric.lean ====
section
/-!
DEFINITION. Operations on what the planes share: the service context table and its states (R19 to R23), the delivery of data
units through data staging to the data rings (R10 to R12, R62 to R64), audio discontinuity marks (R61), general-use SRAM
(R129), and the lookups between windows, runners and contexts.
-/

namespace Sys2Proof.Machine

/-! ### Contexts -/

/-- Value of a context state (the table before R21). -/
def CtxState.code : CtxState → Nat
  | .free => 0 | .opening => 1 | .acquiring => 2 | .running => 3 | .closing => 4

/-- DATA of source 32 (R167). -/
def ctxData (c : Fin 256) (x : Ctx) (old reason : Nat) : List Byte :=
  [byte c.val, x.gen, byte old, byte x.runner.val, byte reason]

/-- A context moves to a state and source 32 is raised (R21, R167); no move, no event. -/
def State.moveCtx (s : State) (c : Fin 256) (new : CtxState) (reason : Nat) : State :=
  let x := s.svc.ctx[c]
  if x.st = new then s
  else (s.modCtx c fun x => { x with st := new }).raise 32 new.code (ctxData c x x.st.code reason)

/-- The contexts that a runner serves, in order. -/
def State.ctxsOf (s : State) (r : Fin 32) : List (Fin 256) :=
  allIx fun c => decide (s.svc.ctx[c].runner = r) && decide (s.svc.ctx[c].st ≠ .free)

/-- Every context of a runner that is RUNNING moves to ACQUIRING (R17, R169, R198). -/
def State.ctxsToAcquiring (s : State) (r : Fin 32) (reason : Nat) : State :=
  (s.ctxsOf r).foldl (fun s c => if s.svc.ctx[c].st = .running then s.moveCtx c .acquiring reason else s) s

/-- Audio contexts that hold one of the 16 decoders (R22). -/
def State.decodersUsed (s : State) : List (BitVec 5) :=
  (allIx fun c : Fin 256 => decide (s.svc.ctx[c].st ≠ .free) && decide (s.svc.ctx[c].decoder ≠ 31)).map
    fun c => s.svc.ctx[c].decoder

/-- The lowest free audio decoder. -/
def State.freeDecoder (s : State) : Option (BitVec 5) :=
  ((List.range 16).map (BitVec.ofNat 5)).find? fun d => !(s.decodersUsed.contains d)

/-- A data context is one whose KIND is not audio. -/
def Ctx.isData (x : Ctx) : Bool := decide (x.kind ≠ 0)

/-! ### Windows and runners -/

/-- The window that feeds a runner (R112). -/
def State.windowOf (s : State) (r : Fin 32) : Option (Fin 64) :=
  firstIx fun w => decide (s.win.win[w].st ≠ 0) && decide (s.win.win[w].runner = r)

/-- The occupied positions of a window. -/
def Window.positions (w : Window) : List (Fin 4) := allIx fun p => w.legs[p].isSome

/-- A leg mask: the positions whose leg satisfies a test (R12). -/
def Window.mask (w : Window) (p : Leg → Bool) : Nat :=
  ((allIx fun i : Fin 4 => (w.legs[i].map p).getD false).map fun i => 2 ^ i.val).sum

/-- Update every leg of a window. -/
def Window.mapLegs (w : Window) (f : Leg → Leg) : Window := { w with legs := w.legs.map fun l => l.map f }

/-- Total decimation of a preset (R109). -/
def presetTotal (p : Nat) : Nat := match p with | 1 => 1920 | 2 => 960 | 3 => 160 | 4 => 320 | _ => 45

/-- Taps of the active stage-5 bank (R126). -/
def Window.taps (w : Window) : Nat := if w.bank then w.banks[1].t else w.banks[0].t

/-- S of R120 with D = 0: the impulse-response length in race samples without the integer delay. -/
def Window.span (w : Window) : Nat :=
  5 * (w.mcic - 1) + 31 * w.mcic + 22 * w.mcic * w.mcf * (2 ^ w.h - 1) + (w.taps - 1) * w.mcic * w.mcf * 2 ^ w.h +
    3 * presetTotal w.preset

/-- A runner that no window feeds holds no state but its settings (R143, R165, R193, R214). -/
def Runner.cleared (r : Runner) : Runner :=
  { fm := { cfg := r.fm.cfg, next := r.fm.next, lent := r.fm.lent }
    dab := { full := r.dab.full, conceal := r.dab.conceal, ficTimeout := r.dab.ficTimeout, motTimeout := r.dab.motTimeout
             next := r.dab.next }
    drm := { modes := r.drm.modes, conceal := r.drm.conceal, motTimeout := r.drm.motTimeout, next := r.drm.next } }

/-- The leg mask of the blocks now delivered by the window that feeds a runner. -/
def State.runnerMask (s : State) (r : Fin 32) : Nat :=
  match s.windowOf r with
  | none => 0
  | some w => s.win.win[w].mask fun l => l.marked

/-- Source 34 of a runner (R167). -/
def State.lockEvent (s : State) (r : Fin 32) (code : Nat) (extra : List Byte) : State := s.raise 34 code (byte r.val :: extra)

/-- The runner loses lock: counter 17 and source 34 CODE 1 (R151, R169, R198, R505). -/
def State.loseLock (s : State) (r : Fin 32) : State :=
  if s.svc.run[r].lock then
    (((s.modRun r fun x => { x with lock := false }).runCount r.val 17 1)).lockEvent r 1 []
  else s

/-- Block synchronisation of the streams in `mask` is lost: source 34 CODE 6 for each that held it (R154). -/
def State.loseRdsSync (s : State) (r : Fin 32) (mask : BitVec 4) : State :=
  let sync := s.svc.run[r].fm.rds.sync
  let s := s.modFm r fun f => { f with rds := { f.rds with
    sync := f.rds.sync &&& ~~~mask
    seen := Vector.ofFn fun i => if mask.getLsbD i.val then [] else f.rds.seen[i]
    group := Vector.ofFn fun i => if mask.getLsbD i.val then [] else f.rds.group[i] } }
  (List.range 4).foldl (fun s i => if (sync &&& mask).getLsbD i then s.lockEvent r 6 [byte i] else s) s

/-- DAB+ superframe synchronisation of a subchannel is lost: counter 5 and source 34 CODE 11 (R186, R195, R505). -/
def State.loseSuper (s : State) (r : Fin 32) (sub : Fin 64) : State :=
  if s.svc.run[r].dab.superSync.any fun e => decide (e.1 = sub) then
    ((s.modDab r fun d => { d with superSync := d.superSync.filter fun e => decide (e.1 ≠ sub) }).runCount r.val 5 1).lockEvent
      r 11 [byte sub.val]
  else s

/-- DATA bytes 17 and 18 of the DRM codes of source 34 (R216). -/
def DrmState.modeData (d : DrmState) : List Byte := [match d.mode with | some m => byte m.val | none => 0, d.so]

/-- Frame timing is lost: source 34 CODE 9 on DAB and 13 on DRM (R195, R216). -/
def State.loseTiming (s : State) (r : Fin 32) : State :=
  let x := s.svc.run[r]
  if x.dab.timing then (s.modDab r fun d => { d with timing := false }).lockEvent r 9 []
  else if x.drm.mode.isSome then (s.modDrm r fun d => { d with mode := none }).lockEvent r 13 x.drm.modeData
  else s

/-- Acquisition starts again: everything that rests on the signal is lost, with its events; source 34 CODE 2 follows. A pending
DRM configuration and the completeness of the SDC go with it (R208); on DAB and DRM the frames that never come count as lost, and not what
the window had reported of them (R191, R209). -/
def State.restart (s : State) (r : Fin 32) : State :=
  let s := (s.loseLock r).loseRdsSync r 15
  let s := (s.svc.run[r].dab.superSync.map Prod.fst).foldl (fun s k => s.loseSuper r k) s
  let s := s.loseTiming r
  let s := s.modRun r fun x => { x with
    gap := none
    carry := if r.val < 24 then x.carry else 0
    fm := { x.fm with since := 0 }
    dab := { x.dab with prsOkRun := 0, prsBadRun := 0, fibSeen := false, noFibRun := 0, stored := 0, ring := [], stamps := [] }
    drm := { x.drm with timeBadRun := 0, facBadRun := 0, stored := 0, cells := [], stamps := [], facValid := false, sdcComplete := false
                        pendingReconf := false, nextConf := none, labels := [], infos := [] } }
  s.lockEvent r 2 []

/-- The runner re-acquires (R17): acquisition starts again, TLM counts it, and every RUNNING context it serves moves to
ACQUIRING with reason 2. -/
def State.reacquire (s : State) (r : Fin 32) : State := ((s.restart r).runCount r.val 18 1).ctxsToAcquiring r 2

/-! ### General-use SRAM (R129) -/

/-- Bytes rounded up to a 64-byte boundary. -/
def align64 (n : Nat) : Nat := (n + 63) / 64 * 64

/-- An area is aligned, lies in the region and overlaps no allocation. -/
def gpFits (l : List GpAlloc) (a size : Nat) : Bool :=
  decide (Config.gpLo ≤ a) && decide (a + size ≤ Config.gpHi) && decide (a % 64 = 0) &&
    l.all fun g => decide (a + size ≤ g.addr) || decide (g.addr + g.size ≤ a)

/-- The lowest address at which an area fits: the start of the region or the end of an allocation. -/
def gpLowest (l : List GpAlloc) (size : Nat) : Option Nat :=
  ((Config.gpLo :: l.map fun g => align64 (g.addr + g.size)).filter fun a => gpFits l a size).min?

/-- The device's own choice of a place; delay blocks of 512 bytes lie on multiples of 512, so that they can take the whole region, up to
1,408 blocks (R129, log 7). -/
def gpChosen (l : List GpAlloc) (size : Nat) : Nat :=
  let a := Config.gpChoice l.length size
  if size = 512 then a / 512 * 512 else a

/-- Where the device places an area: its own choice where that fits, else the lowest place; `none` when it fits nowhere
(R129, log 7). -/
def gpPlace (l : List GpAlloc) (size : Nat) : Option Nat :=
  if gpFits l (gpChosen l size) size then some (gpChosen l size) else gpLowest l size

/-- Allocate an area. -/
def gpAlloc (l : List GpAlloc) (owner : GpOwner) (size : Nat) : Option (Nat × List GpAlloc) :=
  (gpPlace l size).map fun a => (a, l ++ [{ owner := owner, addr := a, size := size }])

/-- Allocate `n` areas of one size, all or none. -/
def gpAllocN : Nat → List GpAlloc → GpOwner → Nat → Option (List GpAlloc)
  | 0, l, _, _ => some l
  | n + 1, l, o, size =>
    match gpAlloc l o size with
    | none => none
    | some (_, l) => gpAllocN n l o size

/-- Release every area of an owner. -/
def State.gpFree (s : State) (o : GpOwner) : State :=
  { s with dma := { s.dma with gp := s.dma.gp.filter fun g => decide (g.owner ≠ o) } }

/-! ### Data staging and data rings -/

/-- Bytes of a context in data staging; a MOT object lies in its own buffer (R189). -/
def Ctx.stagedBytes (x : Ctx) : Nat :=
  ((x.staged.filter fun u => u.mot.isNone).map fun u => u.payload.length - u.written).sum

/-- The reserved share of an open data context (R11). -/
def stagingShare : Nat := 2048

/-- Open data contexts. -/
def State.dataCtxs (s : State) : List (Fin 256) :=
  allIx fun c => decide (s.svc.ctx[c].st ≠ .free) && s.svc.ctx[c].isData

/-- Bytes of the common pool that a context holds: what its staged units take beyond its share, or all of them once it is closed and only
a unit begun remains. -/
def Ctx.poolBytes (x : Ctx) : Nat := if x.st ≠ .free ∧ x.isData = true then x.stagedBytes - stagingShare else x.stagedBytes

/-- Free bytes of the common pool of data staging (R11). The spec does not say how the share of a context is found that opens while the
pool is used up: here the context has its share all the same, and the pool counts 0 free bytes meanwhile (DESIGN CHOICE, log 103). -/
def State.poolFree (s : State) : Nat :=
  768 * 1024 - stagingShare * s.dataCtxs.length - ((List.finRange 256).map fun c => s.svc.ctx[c].poolBytes).sum

/-- Bytes that context c can still take (R11, R504). -/
def State.stagingFree (s : State) (c : Fin 256) : Nat :=
  let x := s.svc.ctx[c]
  if x.st ≠ .free ∧ x.isData = true then (stagingShare - x.stagedBytes) + s.poolFree else 0

/-- Bytes of the payload buffer (R63). -/
def Ring.pbufSize (r : Ring) : Nat := 2 ^ r.plog2.toNat

/-- Where the next piece goes (R63). -/
def Ring.place (r : Ring) (len : Nat) : Nat := if r.pbufNext + len ≤ r.pbufSize then r.pbufNext else 0

/-- The ring and its payload buffer have room for a piece (R63, R64). -/
def Ring.hasRoom (r : Ring) (len : Nat) : Bool :=
  let o := r.place len
  decide (0 < r.free) && decide (o + len ≤ r.pbufSize) &&
    r.pbufHeld.all fun h => decide (o + len ≤ h.1) || decide (h.1 + h.2 ≤ o)

/-- Length of the next piece of a unit (R62). -/
def Unit1.pieceLen (u : Unit1) : Nat := min 65536 (u.payload.length - u.written)

/-- The entry of the next piece of a unit (R62). -/
def Unit1.entry (u : Unit1) (c : Fin 256) (off : Nat) : DataEntry :=
  { ctx := byte c.val, gen := u.gen, kind := u.kind.setWidth 8, disc := u.disc, first := decide (u.written = 0)
    last := decide (u.payload.length ≤ u.written + u.pieceLen), offset := BitVec.ofNat 32 off
    length := BitVec.ofNat 32 u.pieceLen
    lost := BitVec.ofNat 32 (min u.lost (2 ^ 24 - 1) + 2 ^ 24 * (u.mask % 16)), ts := u.ts, seq := u.seq, tag := u.tag }

/-- The data ring of a context's ROUTE. -/
def Ctx.ring (x : Ctx) : Fin 32 := Fin.ofNat 32 x.route.toNat

/-- Write one piece: payload, entry, shadow, message (R47, R63). -/
def State.writePiece (s : State) (c : Fin 256) (u : Unit1) : State :=
  let n := u.ring
  let r := s.host.rings[n]
  let o := r.place u.pieceLen
  let s := s.post (.payload (BitVec.ofNat 64 (r.pbuf + o)) ((u.payload.drop u.written).take u.pieceLen))
  let s := s.modRing n fun r => { r with
    pbufNext := o + align64 u.pieceLen, pbufHeld := r.pbufHeld ++ [(o, u.pieceLen)] }
  s.writeEntry n fun a p => .data a p (u.entry c o)

/-- After its last piece a unit leaves staging and is counted; before that it stays with the bytes written. -/
def State.pieceDone (s : State) (c : Fin 256) (u : Unit1) : State :=
  if u.payload.length ≤ u.written + u.pieceLen then
    let s := s.modCtx c fun x => { x with staged := x.staged.drop 1 }
    let s := if s.svc.ctx[c].gen = u.gen then s.modCtx c fun x => { x with
      delivered := x.delivered + 1, discs := x.discs + BitVec.ofNat 32 (b01 u.disc) } else s
    if u.mot.isSome then s.gpFree (.motOut c u.seq) else s
  else
    s.modCtx c fun x => { x with staged := listUpd x.staged 0 fun v => { v with written := v.written + v.pieceLen } }

/-- Write staged pieces of a context while its ring has room; `fuel` bounds their number. -/
def State.drainStaged : Nat → State → Fin 256 → State
  | 0, s, _ => s
  | k + 1, s, c =>
    match s.svc.ctx[c].staged with
    | [] => s
    | u :: _ =>
      if s.ringUp u.ring && s.host.rings[u.ring].hasRoom u.pieceLen then
        ((s.writePiece c u).pieceDone c u).drainStaged k c
      else s

/-- Pieces that a context's staged units may still need. -/
def Ctx.pieces (x : Ctx) : Nat := (x.staged.map fun u => u.payload.length / 65536 + 1).sum

/-- The oldest staged unit of a context goes to data ring n. -/
def Ctx.stagedOn (x : Ctx) (n : Fin 32) : Bool :=
  match x.staged with
  | [] => false
  | u :: _ => decide (u.ring = n)

/-- The contexts that hold staged units for data ring n. -/
def State.stagedFor (s : State) (n : Fin 32) : List (Fin 256) := allIx fun c : Fin 256 => s.svc.ctx[c].stagedOn n

/-- Write what data ring n now has room for (R64). -/
def State.drainRing (s : State) (n : Fin 32) : State :=
  (s.stagedFor n).foldl (fun s c => s.drainStaged s.svc.ctx[c].pieces c) s

/-- A data unit of a context (R10 to R12, R62 to R64): SEQ advances; the unit goes to staging and on to its ring, or is
dropped whole and counted when staging lacks room. `lost` units were lost before it and `disc` asks for a mark. -/
def State.deliver (s : State) (c : Fin 256) (payload : List Byte) (ts : D) (tag : W) (lost : Nat) (disc : Bool)
    (mot : Option (BitVec 16)) : State :=
  let x := s.svc.ctx[c]
  let u : Unit1 :=
    { payload := payload, ts := ts, seq := x.seq, lost := satAdd (2 ^ 24 - 1) x.lost lost, mask := s.runnerMask x.runner
      disc := x.discDue || disc || decide (x.lost + lost ≠ 0), tag := tag, written := 0, mot := mot
      gen := x.gen, kind := x.kind, ring := x.ring }
  let s := s.modCtx c fun x => { x with seq := x.seq + 1 }
  let s := if u.disc then s.linkDisc (220 + c.val) else s
  if mot.isSome || decide (payload.length ≤ s.stagingFree c) then
    let s := s.modCtx c fun x => { x with staged := x.staged ++ [u], lost := 0, discDue := false }
    let s := if u.disc then s.linkDisc (476 + c.val) else s
    s.drainStaged s.svc.ctx[c].pieces c
  else
    let s := s.modCtx c fun x => { x with
      lost := satAdd (2 ^ 24 - 1) u.lost 1, discDue := true, dropped := x.dropped + 1 }
    s.linkDrop (476 + c.val) 1

/-- Units that the runner itself lost for a context: SEQ advances past them and the next unit carries them (R12, R188). -/
def State.loseUnits (s : State) (c : Fin 256) (n : Nat) : State :=
  if n = 0 then s
  else s.modCtx c fun x => { x with
    seq := x.seq + BitVec.ofNat 32 n, lost := satAdd (2 ^ 24 - 1) x.lost n, discDue := true }

/-- A discontinuity mark of an audio context (R15, R61): counted, and raised as source 33 under its limit. -/
def State.audioDisc (s : State) (c : Fin 256) (ms : Nat) : State :=
  let x := s.svc.ctx[c]
  (s.modCtx c fun x => { x with discs := x.discs + 1 }).raiseLimited 33 c.val 0 (x.gen.setWidth 32) ms

/-- The output stream of an audio context's ROUTE, if it names one (R272). -/
def Ctx.streamOf (x : Ctx) : Option (Fin 32) := if x.kind = 0 then ix 32 x.route.toNat else none

/-- The 48 stereo frames of an audio unit (R148). -/
def unitFrames (payload : List Byte) : List (W × W) :=
  (List.range 48).map fun i =>
    (BitVec.ofNat 32 (leNat (slice payload (8 * i) 4)), BitVec.ofNat 32 (leNat (slice payload (8 * i + 4) 4)))

/-- Frames of the playout buffer: FADE + 2 ms (R285). -/
def Stream.bufFrames (t : Stream) : Nat := 48 * (t.fade + 2)

/-- Milliseconds of audio that wait behind a full playout buffer, on the links of R10. -/
def Stream.queued (t : Stream) : Nat := ceilDiv (t.frames.length - t.bufFrames) 48

/-- 1 ms of audio reaches a stream; an idle stream starts at full level once FADE + 2 ms are filled (R285, R287). -/
def Stream.fill (t : Stream) (payload : List Byte) : Stream :=
  let t := { t with frames := t.frames ++ unitFrames payload }
  if t.st = .off ∧ t.bufFrames ≤ t.frames.length then { t with st := .playing } else t

/-- Milliseconds that the links of R10 hold for an audio context: its 8 units of output, and the 8 ms of a decoder where it holds
one. -/
def Ctx.linkRoom (x : Ctx) : Nat := if x.decoder = 31 then 8 else 16

/-- No link has credit for the next unit of an audio context: its playout buffer, its decoder's link and its output are full (R10). -/
def State.audioBlocked (s : State) (c : Fin 256) : Bool :=
  match s.svc.ctx[c].streamOf with
  | none => false
  | some k => decide (s.svc.ctx[c].linkRoom ≤ s.aud.streams[k].queued)

/-- A discontinuity mark on the links that an audio unit passes (R18). -/
def State.audioLinkDisc (s : State) (c : Fin 256) : State :=
  let s := s.linkDisc (220 + c.val)
  let d := s.svc.ctx[c].decoder
  if d = 31 then s else s.linkDisc (204 + d.toNat)

/-- A unit of context c is dropped on link j: the next unit carries the mark (R12). -/
def State.dropUnit (s : State) (c : Fin 256) (j : Nat) : State :=
  if s.svc.ctx[c].st = .free then s
  else ((s.linkDrop j 1).loseUnits c 1).modCtx c fun x => { x with dropped := x.dropped + 1 }

/-- The context that holds an audio decoder. -/
def State.decoderCtx (s : State) (d : Nat) : Option (Fin 256) :=
  firstIx fun c : Fin 256 => decide (s.svc.ctx[c].st ≠ .free) && decide (s.svc.ctx[c].decoder.toNat = d)

/-- A 1 ms audio unit reaches the playout buffer of the context's stream (R148, R285); without one it ends here. -/
def State.audioToStream (s : State) (c : Fin 256) (payload : List Byte) : State :=
  let x := s.svc.ctx[c]
  let s := s.modCtx c fun x => { x with delivered := x.delivered + 1, seq := x.seq + 1, lost := 0, discDue := false }
  match x.streamOf with
  | none => s
  | some k => s.modStream k fun t => t.fill payload

/-- A sample as the word of a unit: 24 bits in [31:8] (R148). -/
def audioWord (v : Int) : W := BitVec.ofInt 32 (256 * clip 24 v)

/-- Word `n` of the 30 ms fade-in, 1,440 frames, from silence along a raised cosine (R145, R171). -/
def fadeInWord (n : Nat) (w : W) : W := if 1440 ≤ n then w else (w - Config.fadeWord n 1440 w) &&& 0xFFFFFF00

/-- The words of a frame. -/
def frameWords (p : Int × Int) : W × W := (audioWord p.1, audioWord p.2)

/-- The 384 bytes of a unit (R148), `fade` frames into its context's fade-in. -/
def unitBytes (fade : Nat) (frames : List (W × W)) : List Byte :=
  (List.range 48).flatMap fun i =>
    let p := frames.getD i (0, 0)
    leBytes 4 (fadeInWord (fade + i) p.1).toNat ++ leBytes 4 (fadeInWord (fade + i) p.2).toNat

/-- The marks due to an audio context (R12, R15, R61). -/
def State.audioMarks (s : State) (c : Fin 256) : State :=
  let x := s.svc.ctx[c]
  if x.discDue ∨ x.lost ≠ 0 then
    ((s.audioLinkDisc c).audioDisc c x.lost).modCtx c fun x => { x with lost := 0, discDue := false }
  else s

/-- 48 frames leave for the stream of an audio context, under the fade-in that runs (R145, R148, R171). -/
def State.audioUnit (s : State) (c : Fin 256) (frames : List (W × W)) : State :=
  (s.audioToStream c (unitBytes s.svc.ctx[c].fadeIn frames)).modCtx c fun x => { x with fadeIn := min 1440 (x.fadeIn + 48) }

end Sys2Proof.Machine
end

