-- ==== Sys2Proof/Machine/Filter.lean ====
section
/-!
DEFINITION. The arithmetic of a Sluice window (04_windows.md): the seven stages of a leg's filter chain with their widths, saturation,
the combiner, output samples and their timestamps. Values are in race LSBs (R83, R113).
-/

namespace Sys2Proof.Machine

/-! ### Widths and rounding (R113, R117, R118) -/

/-- I and Q clipped to `n` bits, and whether the sample saturates. -/
def clipIQ (n : Nat) (x : IQ) : IQ × Bool :=
  let y := (clip n x.1, clip n x.2)
  (y, decide (y ≠ x))

/-- num / den where the spec does not state the rounding: the whole number below, or the one above (log 105). -/
def quotAt (place : Nat) (num : Int) (den : Nat) : Int :=
  if num % den = 0 then num / den else num / den + b01 (Config.roundUp place num den)

/-- n / 2^k to the nearest whole number, ties away from zero (R117). -/
def roundAway (n : Int) (k : Nat) : Int :=
  let m := (2 * n.natAbs + 2 ^ k) / 2 ^ (k + 1)
  if n < 0 then -(m : Int) else m

/-! ### Complex values -/

/-- Products of complex integers. -/
def cmul (a b : IQ) : IQ := (a.1 * b.1 - a.2 * b.2, a.1 * b.2 + a.2 * b.1)
def cconj (a : IQ) : IQ := (a.1, -a.2)
def cadd (a b : IQ) : IQ := (a.1 + b.1, a.2 + b.2)
def cscale (k : Int) (a : IQ) : IQ := (k * a.1, k * a.2)
def csum (l : List IQ) : IQ := l.foldl cadd (0, 0)

/-- The square of a sample's magnitude. -/
def mag2 (x : IQ) : Nat := (x.1 * x.1 + x.2 * x.2).toNat

/-- A race sample as a complex value. -/
def RaceIQ.value (x : RaceIQ) : IQ := (x.1.toInt, x.2.toInt)

/-! ### Stages 1 to 5 (R113 to R115, R125) -/

/-- Stage 1: the input turned back by the accumulator's phase, in 25 bits. -/
def mixer (phase : W) (x : IQ) : IQ :=
  let c := (Config.cos18 phase).toInt
  let s := (Config.sin18 phase).toInt
  let narrow := fun (v : Int) => (Config.mixNarrow (BitVec.ofInt 43 v)).toInt
  (narrow (x.1 * c + x.2 * s), narrow (x.2 * c - x.1 * s))

/-- The gain bounds of R115, a DC gain of 1 within ±0.001 dB, in 10^-8. -/
def cicLow : Nat := 99988488
def cicHigh : Nat := 100011513

/-- The CIC's output for the comb value `v`: M_cic^5 is taken off within the bounds of R115, and the result is a whole number. -/
def cicScaled (m : Nat) (v : BitVec 105) : Int :=
  let d : Int := 100000000 * m ^ 5
  let a := v.toInt * cicLow
  let b := v.toInt * cicHigh
  let lo := min a b / d
  let hi := (max a b + d - 1) / d
  lo + ((Config.cicPlace m v % (hi - lo + 1).toNat : Nat) : Int)

/-- Sum and difference of two pairs of 105-bit words. -/
def wideAdd (a b : BitVec 105 × BitVec 105) : BitVec 105 × BitVec 105 := (a.1 + b.1, a.2 + b.2)
def wideSub (a b : BitVec 105 × BitVec 105) : BitVec 105 × BitVec 105 := (a.1 - b.1, a.2 - b.2)

/-- What the five integrators hold after an input: each adds what the one before it holds. -/
def Cic.integrate (c : Cic) (x : BitVec 105 × BitVec 105) : Vector (BitVec 105 × BitVec 105) 5 :=
  let a := wideAdd c.integ[0] x
  let b := wideAdd c.integ[1] a
  let d := wideAdd c.integ[2] b
  let e := wideAdd c.integ[3] d
  #v[a, b, d, e, wideAdd c.integ[4] e]

/-- What the five combs take in, and the last one's output, for the integrators' value `x`. -/
def Cic.combs (c : Cic) (x : BitVec 105 × BitVec 105) : Vector (BitVec 105 × BitVec 105) 5 × (BitVec 105 × BitVec 105) :=
  let a := wideSub x c.comb[0]
  let b := wideSub a c.comb[1]
  let d := wideSub b c.comb[2]
  let e := wideSub d c.comb[3]
  (#v[x, a, b, d, e], wideSub e c.comb[4])

/-- Stage 2: every M_cic-th input, the first one included, gives an output of 28 bits; it depends on the last 5 (M_cic - 1) + 1 inputs
(R115, R119, R120). -/
def Cic.push (c : Cic) (m : Nat) (x : Smp) : Cic × Option (Smp × Bool) :=
  let sub := if x.sub then 5 * (m - 1) + 1 else c.sub
  let tok := c.tok + x.tok
  let i := c.integrate (BitVec.ofInt 105 x.v.1, BitVec.ofInt 105 x.v.2)
  let d : Cic := { integ := i, comb := c.comb, cnt := (c.cnt + 1) % m, sub := sub - 1, tok := tok }
  if c.cnt = 0 then
    let y := c.combs i[4]
    let z := clipIQ 28 (cicScaled m y.2.1, cicScaled m y.2.2)
    ({ d with comb := y.1, tok := 0 }, some ({ v := z.1, sub := decide (sub ≠ 0), tok := tok }, z.2))
  else (d, none)

/-- A decimating FIR stage of `len` taps: every `dec`-th input, the first one included, gives an output. -/
def Fir.push (f : Fir) (len dec : Nat) (out : List IQ → IQ) (x : Smp) : Fir × Option (Smp × Bool) :=
  let hist := (x :: f.hist).take len
  let tok := f.tok + x.tok
  let g : Fir := { hist := hist, cnt := (f.cnt + 1) % dec, tok := tok }
  if f.cnt = 0 then
    let z := clipIQ 28 (out (hist.map Smp.v))
    ({ g with tok := 0 }, some ({ v := z.1, sub := hist.any Smp.sub, tok := tok }, z.2))
  else (g, none)

/-- The sum of products of a symmetric FIR of `t` taps; tap T - 1 - i equals tap i. -/
def symSum (t : Nat) (coef : Nat → Int) (l : List IQ) : IQ := csum (l.mapIdx fun i v => cscale (coef (min i (t - 1 - i))) v)

/-- Stage 3: 32 taps of the set that M_cic chooses, summed in 48 bits (R115). -/
def cfOut (mcic : Nat) (l : List IQ) : IQ :=
  let y := symSum 32 (fun i => (Config.cfCoef (Fin.ofNat 8 (min mcic 8 - 1)) i).toInt) l
  (Config.cfValue (BitVec.ofInt 48 y.1), Config.cfValue (BitVec.ofInt 48 y.2))

/-- Stage 4: 23 taps, summed in 48 bits. -/
def hbOut (l : List IQ) : IQ :=
  let y := symSum 23 (fun i => (Config.hbCoef i).toInt) l
  (Config.hbValue (BitVec.ofInt 48 y.1), Config.hbValue (BitVec.ofInt 48 y.2))

/-- The active bank of a window. -/
def Window.bankNow (x : Window) : Bank := if x.bank then x.banks[1] else x.banks[0]

/-- Stage 5: the active bank's coefficients in units of 2^-18, summed in 56 bits (R125). -/
def firOut (b : Bank) (l : List IQ) : IQ :=
  let y := symSum b.t (fun i => ((b.coef.getD i 0).setWidth 20).toInt) l
  (quotAt 5 (BitVec.ofInt 56 y.1).toInt (2 ^ 18), quotAt 5 (BitVec.ofInt 56 y.2).toInt (2 ^ 18))

/-- A sample on its way through a chain, with the saturated samples counted for each bit of WIN.SAT (R118). -/
structure Pass where
  /-- The stages. -/
  chain : Chain
  /-- Saturated samples. -/
  sat : Vector Nat 7
  /-- What the last stage gave. -/
  out : Option Smp

/-- A stage takes what the one before it gave. -/
def Pass.stage (p : Pass) (bit : Fin 7) (f : Chain → Smp → Chain × Option (Smp × Bool)) : Pass :=
  match p.out with
  | none => p
  | some x =>
    let y := f p.chain x
    { chain := y.1, out := y.2.map fun z => z.1
      sat := if (y.2.map fun z => z.2) = some true then upd p.sat bit (· + 1) else p.sat }

/-- One input sample through stages 1 to 5; a stage-5 output waits for stage 6. -/
def Chain.push (x : Window) (nco : W) (a : Chain × Vector Nat 7) (i : Smp) : Chain × Vector Nat 7 :=
  let b := x.bankNow
  let p : Pass := { chain := { a.1 with phase := a.1.phase + nco }, sat := a.2, out := some { i with v := mixer a.1.phase i.v } }
  let p := p.stage 0 fun c v => let r := c.cic.push x.mcic v; ({ c with cic := r.1 }, r.2)
  let p := p.stage 1 fun c v => let r := c.cf.push 32 x.mcf (cfOut x.mcic) v; ({ c with cf := r.1 }, r.2)
  let p := ((List.finRange 3).take x.h).foldl (fun (p : Pass) j =>
    p.stage 2 fun c v => let r := c.hb[j].push 23 2 hbOut v; ({ c with hb := upd c.hb j fun _ => r.1 }, r.2)) p
  let p := p.stage 3 fun c v => let r := c.fir.push b.t x.mfir (firOut b) v; ({ c with fir := r.1 }, r.2)
  ({ p.chain with queue := p.chain.queue ++ p.out.toList }, p.sat)

/-- Stages 2 to 5 start anew, in step with an output boundary: a split has changed. -/
def Chain.restart (c : Chain) : Chain := { c with cic := {}, cf := {}, hb := Vector.replicate 3 {}, fir := {} }

/-- The chain of a leg that joins legs that run: empty, and in step with them (R119, R124). -/
def Chain.inStep (c : Chain) : Chain :=
  { cic := { cnt := c.cic.cnt }, cf := { cnt := c.cf.cnt }, hb := c.hb.map fun f => { cnt := f.cnt }, fir := { cnt := c.fir.cnt }
    queue := c.queue.map fun _ => ⟨(0, 0), true, 0⟩ }

/-! ### Stage 6 (R113, R128, R130) -/

/-- Integer delay D of a leg. -/
def Leg.d (l : Leg) : Nat := l.delay / 1024

/-- A ramp moves by 1/1,024 output sample per output sample (R130). -/
def Leg.ramp (l : Leg) : Leg :=
  { l with delay := if l.delay < l.target then l.delay + 1 else if l.target < l.delay then l.delay - 1 else l.delay }

/-- Stage 6 takes the next stage-5 output: the Farrow stage forms its value from four samples of the delay line; the mark of a loss goes
with the first output that depends on it, and a leg that still settles counts as substituted (R124). -/
def Leg.next (l : Leg) (dcap : Nat) : Leg × Smp × Bool :=
  let line := (l.chain.queue.take 1 ++ l.chain.line).take (dcap + 4)
  let tap := fun (j : Nat) => (line.getD (l.d + j) ⟨(0, 0), false, 0⟩).v
  let f := l.delay % 1024
  let z := clipIQ 28 (Config.farrow f (tap 0).1 (tap 1).1 (tap 2).1 (tap 3).1, Config.farrow f (tap 0).2 (tap 1).2 (tap 2).2 (tap 3).2)
  let used := (line.drop l.d).take 4
  let tok := ((line.drop l.d).map Smp.tok).sum
  let line := line.take l.d ++ (line.drop l.d).map fun v => { v with tok := 0 }
  let l := l.ramp
  ({ l with chain := { l.chain with queue := l.chain.queue.drop 1, line := line }, settling := l.settling - 1
            lost := satAdd (2 ^ 24 - 1) l.lost tok }
  , { v := z.1, sub := used.any Smp.sub || decide (l.settling ≠ 0), tok := tok }, z.2)

/-! ### The combiner and stage 7 (R117, R132, R134) -/

/-- A weight of 1 in units of 2^-16: the unit in which the 18-bit parts of a weight, whose scale the spec does not state, hold 1 (log
107). -/
def weightOne : IQ := (65536, 0)

/-- |a| · 2^16 / sqrt(q) as a signed whole number; how a weight is rounded to its 18 bits the spec does not state (log 105). -/
def unitPart (a : Int) (q : Nat) : Int :=
  let sq := a.natAbs * a.natAbs * 2 ^ 32
  let lo := Nat.sqrt (sq / q)
  let v : Nat := if lo * lo * q = sq then lo else lo + b01 (Config.roundUp 132 sq q)
  if a < 0 then -(v : Int) else v

/-- Weights scaled so that the sum of their squares is 1, in units of 2^-16. -/
def normWeights (vs : List IQ) : List IQ :=
  let q := (vs.map mag2).sum
  if q = 0 then vs else vs.map fun v => (unitPart v.1 q, unitPart v.2 q)

/-- Stage 7: a value in units of 2^-k race LSB, times 2^SHIFT for 24 bits or 2^(SHIFT - 8) for 16, rounded and clipped to W bits. -/
def Window.requant (x : Window) (k : Nat) (v : IQ) : IQ × Bool :=
  let k := if x.wide then k else k + 8
  clipIQ (if x.wide then 24 else 16) (roundAway (v.1 * 2 ^ x.shift) k, roundAway (v.2 * 2 ^ x.shift) k)

/-- FM and AM windows deliver one combined stream, the others one stream for each leg (R119, R132). -/
def Window.combines (x : Window) : Bool := decide (x.preset = 1) || decide (x.preset = 3)

/-- y of R132 in units of 2^-16: the included legs with their weights, scaled where some leg is excluded (R134). -/
def combined (l : List (IQ × IQ × Bool)) : IQ :=
  let inc := l.filter fun e => !e.2.2
  let ws := inc.map fun e => e.1
  let ws := if inc.length = l.length then ws else normWeights ws
  csum ((ws.zip inc).map fun e => cmul e.1 e.2.2.1)

/-- The delivered values of one output sample, and whether the combiner and stage 7 saturate: `l` holds weight, stage-6 value and
exclusion of each leg in position order. A single leg bypasses the combiner. -/
def Window.outputs (x : Window) (l : List (IQ × IQ × Bool)) : List IQ × Bool × Nat :=
  if x.combines then
    match l with
    | [e] =>
      let z := x.requant 0 e.2.1
      ([z.1], false, b01 z.2)
    | _ =>
      let y := combined l
      let top : Int := (2 ^ 27 - 1) * 65536
      let c : IQ := (max (-(2 ^ 27) * 65536) (min top y.1), max (-(2 ^ 27) * 65536) (min top y.2))
      let z := x.requant 16 c
      ([z.1], decide (c ≠ y), b01 z.2)
  else
    let z := l.map fun e => x.requant 0 e.2.1
    (z.map fun e => e.1, false, (z.filter fun e => e.2).length)

/-! ### Timestamps (R84, R85, R119, R135) -/

/-- ADC periods per race sample (R119). -/
def adcPer (p : Nat) : Nat := match p with | 1 | 2 => 16 | 3 | 4 => 12 | _ => 8

/-- Latency from RF_INn to race output in ADC periods, the blanker included (R84). -/
def raceLatency (p : Nat) : Nat := match p with | 1 | 2 => 1216 | 3 | 4 => 720 | _ => 416

/-- The capture timestamp of a race sample that leaves its race at ADC period `t`: the instant that it represents at the RF_INn pin
(R85). -/
def captureStamp (p : Nat) (t : D) : D := t - BitVec.ofNat 64 (raceLatency p)

/-- The reference leg: the one at the lowest occupied position (R119). -/
def Window.refLeg (w : Window) : Option Leg := w.legs.toList.findSome? id

/-- G in 1/2048 race samples (R135). -/
def Window.delay2048 (w : Window) : Nat :=
  let m := presetTotal w.preset
  let dl := (w.refLeg.map Leg.delay).getD 0
  1024 * (5 * (w.mcic - 1) + 31 * w.mcic + 22 * w.mcic * w.mcf * (2 ^ w.h - 1) +
    (w.taps - 1) * w.mcic * w.mcf * 2 ^ w.h + 2 * m) + 2 * m * dl

/-- A number of 2,048ths rounded to the nearest whole number; exactly half way the spec names neither neighbour (log 105). -/
def round2048 (x : Int) : Int := if x % 2048 = 1024 then quotAt 119 x 2048 else (x + 1024) / 2048

/-- G in ADC periods. -/
def Window.groupDelay (w : Window) : Nat := (round2048 (w.delay2048 * adcPer w.preset : Nat)).toNat

/-- The TIMESTAMP of output sample `k`, computed when race sample k · M arrives (R119). -/
def Window.stamp (w : Window) (k : Nat) : D :=
  let t := (w.start.getD 0).toNat + k * presetTotal w.preset * adcPer w.preset
  BitVec.ofInt 64 (round2048 (2048 * (t : Int) - (w.delay2048 * adcPer w.preset : Nat)))

/-! ### Output samples (R119, R121, R132) -/

/-- Every leg has a stage-5 output for the next output sample, and the window may compute it: it withholds, or it runs and its block has
room. -/
def Window.hasNext (x : Window) : Bool :=
  !x.positions.isEmpty && (x.positions.all fun p => match x.legs[p] with | some l => !l.chain.queue.isEmpty | none => true) &&
    (decide (x.withheld ≠ 0) || decide (x.st = 2)) && decide (x.ready.length < 64)

/-- The next output sample (R119): withheld, it is dropped before the first release and zero with every leg bit set after it (R121). -/
def Window.emit (a : Window × Vector Nat 7) : Window × Vector Nat 7 :=
  let x := a.1
  let ts := x.stamp x.count
  let next := x.legs.map fun l => l.map fun l => l.next x.dcap
  let vals := next.map fun e => e.map fun e => (e.2.1.v, e.2.1.sub)
  let ls := x.positions.filterMap fun p => match next[p] with
    | some e => some (e.1.weight, e.2.1.v, e.2.1.sub)
    | none => none
  let sub := ((allIx fun p : Fin 4 => (vals[p].map fun e => e.2).getD false).map fun p => 2 ^ p.val).sum
  let out := x.outputs ls
  let hold := decide (x.withheld ≠ 0)
  let o : OutSmp :=
    if hold then { vals := out.1.map fun _ => (0, 0), mask := x.mask fun _ => true, disc := x.disc, ts := ts }
    else { vals := out.1, mask := sub, disc := x.disc, ts := ts }
  let far := (x.positions.filter fun p => (next[p].map fun e => e.2.2).getD false).length
  let sat := upd a.2 4 (· + far)
  let sat := if hold then sat else upd (upd sat 5 (· + b01 out.2.1)) 6 (· + out.2.2)
  let keep := x.released || !hold
  ({ x with
    legs := next.map fun e => e.map fun e => e.1
    withheld := x.withheld - 1, count := x.count + 1, disc := if keep then 0 else x.disc
    ready := if keep then x.ready ++ [o] else x.ready
    recent := (vals :: x.recent).take 64, fresh := min 64 (x.fresh + 1) }
  , sat)

/-- Output samples as long as every leg has one, at most `n`. -/
def Window.drain : Nat → Window × Vector Nat 7 → Window × Vector Nat 7
  | 0, a => a
  | n + 1, a => if a.1.hasNext then Window.drain n (Window.emit a) else a

/-- Stage-5 outputs that the legs hold. -/
def Window.queued (x : Window) : Nat := (x.legs.toList.map fun l => (l.map fun l => l.chain.queue.length).getD 0).foldl max 0

/-! ### Saturation (R118) -/

/-- Saturated output samples are flagged and counted per stage, and source 29 is raised on a new flag (R118). -/
def State.saturate (s : State) (w : Fin 64) (sat : Vector Nat 7) : State :=
  let old := s.flags[slotSat w]
  let s := (List.finRange 7).foldl (fun s i => s.setFlagN (slotSat w) i.val sat[i]) s
  let new := s.flags[slotSat w]
  let n := s.win.win[w].satSince + sat.toList.sum
  let held := s.evt.rate.any fun r => r.is 29 w.val && r.held
  if new ≠ old ∨ (held = true ∧ n ≠ 0) then
    (s.modWin w fun x => { x with satSince := 0 }).raiseLimited 29 w.val 0 (new &&& 0x7F) n
  else s.modWin w fun x => { x with satSince := n }

/-- Output samples that the legs' queues allow are computed. -/
def State.drainWin (s : State) (w : Fin 64) : State :=
  let x := s.win.win[w]
  let r := Window.drain x.queued (x, Vector.replicate 7 0)
  (s.modWin w fun _ => r.1).saturate w r.2

/-! ### Leg inputs (R13, R86, R113, R141) -/

/-- Samples pass stages 1 to 5 of the leg at a position. -/
def State.pushLeg (s : State) (w : Fin 64) (p : Fin 4) (xs : List Smp) : State :=
  let x := s.win.win[w]
  match x.legs[p] with
  | none => s
  | some l =>
    let r := xs.foldl (Chain.push x l.nco) (l.chain, Vector.replicate 7 0)
    (s.modWin w fun x => { x with legs := upd x.legs p fun l => l.map fun l => { l with chain := r.1 } }).saturate w r.2

/-- `n` substituted samples: zeros, of which the first carries the lost count `tok` (R13). -/
def zeros (n tok : Nat) : List Smp := (List.range n).map fun i => { v := (0, 0), sub := true, tok := if i = 0 then tok else 0 }

/-- The leg at a position loses `n` samples: zeros take their place, and its link counts them (R13, R18). -/
def State.loseSamples (s : State) (w : Fin 64) (p : Fin 4) (n : Nat) : State :=
  match s.win.win[w].legs[p] with
  | none => s
  | some l => (s.pushLeg w p (zeros n n)).linkDrop l.no n

/-- The race that a preset's legs read settles on a Headrace after a centre change (R86). -/
def Headrace.settling (h : Headrace) (preset : Nat) : Bool :=
  match preset with | 3 | 4 => h.vSettling | 5 => h.bSettling | _ => false

/-- The input of the leg at a position: race samples; zeros while its Headrace is stopped, counted since the stop (R141); zeros that count
as lost while its race settles and delivers only to the scan bank (R86; log 108). -/
def State.feedLeg (s : State) (w : Fin 64) (p : Fin 4) (xs : List RaceIQ) : State :=
  let x := s.win.win[w]
  match x.legs[p] with
  | none => s
  | some l =>
    let n := xs.length
    if l.stopped.isSome then
      ((s.pushLeg w p (zeros n 0)).linkDrop l.no n).modWin w fun x => { x with
        legs := upd x.legs p fun l => l.map fun l => { l with stopped := l.stopped.map (· + n), blockSub := l.blockSub + n } }
    else if s.cap.hr[l.ant].settling x.preset then s.loseSamples w p n
    else
      let s := s.pushLeg w p (xs.map fun v => { v := RaceIQ.value v, sub := false, tok := 0 })
      if n = 0 then s else s.modFm x.runner fun f => { f with probeInput := true }

/-- Race samples reach a window: the first one fixes the instant from which its output samples are counted (R119). -/
def State.feedWin (s : State) (w : Fin 64) (b : RaceIn) : State :=
  let s := s.modWin w fun x => { x with start := match x.start with | some t => some t | none => some (captureStamp x.preset b.at_) }
  let s := (List.finRange 4).foldl (fun s p => s.feedLeg w p (b.legs.getD p.val [])) s
  s.drainWin w

end Sys2Proof.Machine
end

