-- ==== Sys2Proof/Machine/Signals.lean ====
section
/-!
DEFINITION. Effects that reach several units at once: the abandoning of a calibration run, the stop of a Headrace and what its
legs see, the fade-out of every playing stream, the end of all radio activity, pulses on the event lines, and waiting two-wire
transactions.
-/

namespace Sys2Proof.Machine

/-! ### Calibration runs that end early -/

/-- The lane that the spare stands in for takes its slot back; a retired lane's slot stays with the spare (R77, R79). -/
def Headrace.laneBack (h : Headrace) : Headrace := { h with spareFor := if h.retired.toNat < 8 then h.retired else 15 }

/-- A Class A run is abandoned (R438): no value changes, CAL.FLAG.ABANDONED is set, and a command run completes with
E_ABORTED and the Headraces stored so far. -/
def State.calAAbandon (s : State) : State :=
  match s.cal.aRun with
  | none => s
  | some r =>
    let s := (({ s with cal := { s.cal with aRun := none } }).modHr r.hr Headrace.laneBack).setFlag slotCal 3
    match r.slot with
    | none => s
    | some slot => s.finishSlot 0x0901 slot .aborted 0 [byte r.stored.toNat, byte r.suspect.toNat] none

/-- The Class A run on Headrace n, if one is in progress, is abandoned. -/
def State.calAAbandonOn (s : State) (n : Fin 4) : State :=
  match s.cal.aRun with
  | some r => if r.hr = n then s.calAAbandon else s
  | none => s

/-- The Class B run is over: a calibration step that held the synthesiser leaves it idle. -/
def State.calBOver (s : State) : State :=
  { s with
    cal := { s.cal with bRun := none }
    acc := { s.acc with synthSt := if s.acc.synthSt = 3 then 0 else s.acc.synthSt } }

/-- A Class B run is abandoned (R441). -/
def State.calBAbandon (s : State) : State :=
  match s.cal.bRun with
  | none => s
  | some r =>
    let s := s.calBOver.setFlag slotCal 3
    s.finishSlot 0x0901 r.slot .aborted 0 [0, byte r.suspect.toNat] none

/-! ### Headraces and their legs -/

/-- Headraces that count as running (R93). -/
def State.hrRunning (s : State) : List (Fin 4) := allIx fun n => s.cap.hr[n].running

/-- Open windows with a leg on Headrace n. -/
def State.windowsOn (s : State) (n : Fin 4) : List (Fin 64) :=
  allIx fun w => decide (s.win.win[w].st ≠ 0) && decide (s.win.win[w].mask (fun l => decide (l.ant = n)) ≠ 0)

/-- From now on every input sample of the legs on Headrace n is substituted; source 30 CODE 1 per window (R141). -/
def State.legsStopped (s : State) (n : Fin 4) : State :=
  (s.windowsOn n).foldl (fun s w =>
    let x := s.win.win[w]
    let m := x.mask fun l => decide (l.ant = n) && l.stopped.isNone
    if m = 0 then s
    else
      (s.modWin w fun x => x.mapLegs fun l => if l.ant = n ∧ l.stopped.isNone = true then { l with stopped := some 0, stopDue := true } else l).raise
        30 1 [byte w.val, byte m]) s

/-- The Headrace of these legs runs again (R141): the total substituted falls to the next block's mark, and source 30 CODE 2
carries it. -/
def State.legsReturned (s : State) (n : Fin 4) : State :=
  (s.windowsOn n).foldl (fun s w =>
    let x := s.win.win[w]
    let m := x.mask fun l => decide (l.ant = n) && l.stopped.isSome
    let total := (x.legs.toList.map fun l =>
      match l with
      | some l => if l.ant = n then l.stopped.getD 0 else 0
      | none => 0).sum
    if m = 0 then s
    else
      (s.modWin w fun x => x.mapLegs fun l =>
        if l.ant = n ∧ l.stopped.isSome = true then
          { l with stopped := none, stopDue := false, returned := satAdd (2 ^ 24 - 1) l.returned (l.stopped.getD 0) }
        else l).raise
        30 2 ([byte w.val, byte m, 0, 0] ++ leBytes 4 (min total (2 ^ 32 - 1)))) s

/-- A Headrace stops (R94, R95): it no longer counts as running, its legs stay open with substituted samples, and a Class A
run on it is abandoned (R438). -/
def State.stopHr (s : State) (n : Fin 4) : State :=
  let s := s.calAAbandonOn n
  let s := s.modHr n fun h => { h.laneBack with running := false, output := false, clockOut := false }
  s.legsStopped n

/-! ### Antenna feeds -/

/-- Minutes of the on-time that a feed adds to its module's MRAM entry when it switches off; life is tracked only for a module whose
static part has passed (R100, R101, R103). -/
def Feed.minutesOn (f : Feed) (now : D) : Nat := if f.staticOk then (now - f.onSince).toNat / 60000000 else 0

/-- A feed switches off. -/
def Feed.off (f : Feed) (now : D) (st : FeedState) : Feed :=
  if f.on then { f with on := false, st := st, offSince := now, mramMinutes := f.mramMinutes + f.minutesOn now }
  else { f with st := st }

/-- A feed switches off with the device; one that is shut off stays so until the next CAP_FEED (R97, R98). -/
def Feed.sleep (f : Feed) (now : D) : Feed := f.off now (if f.st = .shutoff then .shutoff else .off)

/-- Every feed is off (R98, R486): reception windows switch the feeds that are on when RUN is left. -/
def State.feedsOff (s : State) : State :=
  let now := s.sys.timeUs
  let run := decide (s.pwr.st = .run)
  { s with cap := { s.cap with feed := s.cap.feed.map fun f => { f.sleep now with wanted := if run then f.on else f.wanted } } }

/-! ### Audio -/

/-- A stream that plays or ramps up starts a fade-out from its current gain (R288, R403, R476). -/
def Stream.fadeOut (t : Stream) : Stream :=
  match t.st with
  | .playing => { t with st := .fadingOut, silenced := 0, fadePos := 0 }
  | .rampingUp => { t with st := .fadingOut, silenced := 0, fadePos := 48 * t.fade - t.fadePos }
  | _ => t

/-- Every playing output stream starts a fade-out (R403, R476). -/
def State.fadeAll (s : State) : State :=
  { s with aud := { s.aud with streams := s.aud.streams.map Stream.fadeOut } }

/-! ### Access radio -/

/-- Every radio activity ends without a report and the pins go to their inactive levels (R403, R421, R476); an ACC_TX that
runs ends with the packets already sent. -/
def State.radioEnd (s : State) : State :=
  let t := s.acc.accTx
  let s := { s with acc := { s.acc with
    activity := none, accTx := none, rxOpen := false, rxClosed := false, cur := none, heldSync := none, listening := false
    pins := {}, synthSt := 0 } }
  match t with
  | none => s
  | some r => s.finishSlot 0x0710 r.slot .fault 0 (leBytes 2 r.sent) none

/-! ### Event lines (R8, R291, R370) -/

/-- The CTRL word of the descriptor that a channel holds (R365). -/
def State.dmaCtrl (s : State) (n : Fin 16) : Nat := leNat (s.load (s.dma.ch[n].cur.toNat + 48) 4)

/-- Descriptor bits: SHUF, WAIT, DONE, DONE_EVL. -/
def ctrlShuf (c : Nat) : Nat := c / 4 % 4
def ctrlWait (c : Nat) : Bool := c / 16 % 2 = 1
def ctrlDone (c : Nat) : Bool := c / 32 % 2 = 1
def ctrlEvl (c : Nat) : Fin 64 := Fin.ofNat 64 (c / 256)

/-- Channels in flight, and reshuffle units in use (R364, R368). -/
def State.dmaInFlight (s : State) : Nat := (allIx fun n : Fin 16 => s.dma.ch[n].inFlight).length
def State.dmaShufBusy (s : State) : Nat := (allIx fun n : Fin 16 => s.dma.ch[n].shuf).length

/-- A checked descriptor starts when a share is free, a reshuffle unit is free for SHUF 1, and for WAIT a pulse is pending
(R364, R368, R370); a held channel does not start (R375). -/
def State.dmaTryStart (s : State) (n : Fin 16) : State :=
  let x := s.dma.ch[n]
  let c := s.dmaCtrl n
  if x.st = .waiting ∧ x.held = false ∧ x.fetchDue = false ∧ s.dmaInFlight < 8 ∧ (ctrlShuf c = 1 → s.dmaShufBusy < 2) ∧
      (ctrlWait c = true → 0 < x.pending) then
    let s := s.modCh n fun x => { x with
      st := .running, inFlight := true, shuf := decide (ctrlShuf c = 1)
      pending := if ctrlWait c then x.pending - 1 else x.pending }
    { s with dma := { s.dma with last := n } }
  else s

/-- The order in which waiting channels are tried: highest PRIO first, round robin among equals (R364). -/
def State.dmaOrder (s : State) : List (Fin 16) :=
  let ring := (List.range 16).map fun i => (Fin.ofNat 16 (s.dma.last.val + 1 + i) : Fin 16)
  [3, 2, 1, 0].flatMap fun p => ring.filter fun n => decide (s.dma.ch[n].prio.toNat = p)

/-- Start every waiting channel that can start. -/
def State.dmaArb (s : State) : State := s.dmaOrder.foldl State.dmaTryStart s

/-- A pulse on a line as the DMA channels see it (R370): counted in PENDING, lost at 255, and a waiting channel may start. -/
def State.dmaPulse (s : State) (l : Fin 64) : State :=
  let s := (allIx fun n : Fin 16 => decide (s.dma.ch[n].waitEvl = l) && decide (s.dma.ch[n].st ≠ .idle)).foldl
    (fun s n =>
      if s.dma.ch[n].pending < 255 then s.modCh n fun x => { x with pending := x.pending + 1 }
      else (s.modCh n fun x => { x with evlOvf := true }).bump (0xB840 + 4 * n.val) 1) s
  s.dmaArb

/-- A pulse on a queue's EVL_IN returns one block to the Tailrace; more than B blocks are ignored and counted (R291). -/
def State.queueEvlIn (s : State) (q : Fin 12) : State :=
  let x := s.aud.queues[q]
  if x.en then
    if x.blocks < x.b then s.modQueue q fun x => { x with blocks := x.blocks + 1 }
    else s.bump (0xB140 + 4 * q.val) 1
  else s

/-- A port that waits for a pulse starts at the next frame boundary (R297). -/
def State.portPulse (s : State) (p : Fin 4) : State :=
  if s.aud.ports[p].st = 1 then s.modPort p fun x => { x with starting := true } else s

/-- A pulse that a unit of the device drives reaches every unit that observes the line, once each (R8). -/
def State.evlPulse (s : State) (l : Fin 64) : State :=
  let s := s.dmaPulse l
  let s := (allIx fun q : Fin 12 => s.aud.queues[q].en && decide (s.aud.queues[q].evlIn = l)).foldl State.queueEvlIn s
  (allIx fun p : Fin 4 => decide (s.aud.ports[p].st = 1) && decide (s.aud.ports[p].evl = l)).foldl State.portPulse s

/-! ### Two-wire traffic -/

/-- A transaction waits at a port (R388). -/
def State.twWait (s : State) (p : Fin 2) (t : TwTxn) : State :=
  s.modTw p fun x => { x with
    queue := x.queue ++ [t], wantSince := if x.queue = [] ∧ x.run = none then s.sys.timeUs else x.wantSince }

/-- TW1.ADDR in force: values outside 0x08 to 0x77 act as the reset value (TWn.ADDR). -/
def State.twAddr (s : State) (p : Fin 2) : Byte :=
  let a := fld s.tw.port[p].addr 0 7
  if within 0x08 0x77 a then byte a else if p = 0 then 0x40 else 0x60

/-- A write of a command code with data bytes and PEC (PROTO 4 of R384). -/
def twWrite (user : TwUser) (addr : Byte) (cmd : Nat) (data : List Byte) : TwTxn :=
  { user := user, addr := addr, proto := 4, cmd := byte cmd, pec := true, data := data, rcount := 0 }

end Sys2Proof.Machine
end

