-- ==== Sys2Proof/Machine/FaultCore.lean ====
section
/-!
DEFINITION. The Waling's handling of a reported fault (20_safety.md): class, log, flags, counters, source 92, the entry into SAFE
with the safe-state request, and FAULT_N.
-/

namespace Sys2Proof.Machine

/-- The class of a fault code (R469). -/
def faultClass (code : Nat) : Nat :=
  match code with
  | 6 | 9 | 12 => 0
  | 8 | 10 | 11 | 14 | 15 => 1
  | 13 | 21 | 22 | 24 => 2
  | _ => 3

/-- A code of R469. -/
def isFaultCode (code : Nat) : Bool := within 1 24 code

/-- Index of the next log entry: entries are written in ring order (SAF.LOG_PTR). -/
def SafBlk.nextIx (b : SafBlk) : Fin 16 := if b.count = 0 then 0 else Fin.ofNat 16 (b.newest.val + 1)

/-- Device time in ms modulo 2^32. -/
def State.timeMs (s : State) : W := BitVec.ofNat 32 (s.sys.timeUs.toNat / 1000)

/-- The log entry of a fault (SAF.LOG_A, SAF.LOG_B). -/
def State.writeLog (s : State) (code inst cls : Nat) (inj : Bool) : State :=
  let b := s.saf
  let e : SafLog := { inj := inj, cls := BitVec.ofNat 2 cls, inst := byte inst, code := byte code, timeMs := s.timeMs }
  { s with saf := { b with
    log := upd b.log b.nextIx fun _ => e, newest := b.nextIx, count := if b.count = 255 then 255 else b.count + 1 } }

/-- SAF.FLAG bits that a log entry sets: its class, and SELFTEST or WALING for codes 22 and 23. -/
def State.faultFlags (s : State) (code cls : Nat) : State :=
  let s := s.setFlag slotSaf cls
  if code = 22 then s.setFlag slotSaf 4 else if code = 23 then s.setFlag slotSaf 5 else s

/-- A fault is logged, flagged, counted and reported under a class (R473, R477, R479). -/
def State.logFault (s : State) (code inst cls : Nat) (inj : Bool) : State :=
  let s := ((s.writeLog code inst cls inj).faultFlags code cls).bump (0xBB00 + 4 * code) 1
  let aux : W := BitVec.ofNat 32 (cls + 256 * (inst % 256) + 65536 * b01 inj)
  if cls = 0 then s.raiseLimited 92 code code aux 1
  else s.raise 92 code (s.rateData 92 code aux 0)

/-- The safe-state request on TW1: Write Byte with PEC, command code 0xA3, data the code of the fault (R475). -/
def State.safeRequest (s : State) (code : Nat) : State :=
  s.twWait 1 (twWrite .safeState (s.twAddr 1) 0xA3 [byte code])

/-- Entry into SAFE (R475, R476): both pairs are held, READY reads 0, Headraces stop, every radio activity ends, playing
streams fade out, and the safe-state request waits for TW1. The commands in progress stay outstanding (R25). -/
def State.enterSafe (s : State) (code : Nat) : State :=
  let s := { s with
    saf := { s.saf with safe := true, safeAt := s.sys.timeUs, request := some (byte code, 3) }
    host := { s.host with ready := false }
    cal := { s.cal with aRun := none, bRun := none }
    acc := { s.acc with accTx := none } }
  let s := s.hrRunning.foldl State.stopHr s
  (s.radioEnd.fadeAll).safeRequest code

/-- A class 1 fault that the unit has not recovered from yet (R477); a dropped block or unit has recovered at once. -/
def staysOpen (code : Nat) : Bool := code = 10 || code = 14 || code = 15

/-- A fault is classified (R473, R478): in SAFE it is logged and changes nothing else; a class 1 fault stays open until its
unit recovers, an injected one not; a class 3 fault leads to SAFE while ENABLE is 1. -/
def State.faultRun (s : State) (code inst : Nat) (inj : Bool) : State :=
  let cls := faultClass code
  let t := s.logFault code inst cls inj
  if s.saf.safe then t
  else
    match cls with
    | 0 => t
    | 1 => if inj = false ∧ staysOpen code = true then
        { t with saf := { t.saf with open1 := t.saf.open1 ++ [(byte code, byte inst, s.sys.timeUs)] } } else t
    | 2 => t
    | _ => if t.saf.enable then t.enterSafe code else t

/-- A class 1 fault has recovered. -/
def State.faultEnds (s : State) (code : Nat) : State :=
  { s with saf := { s.saf with open1 := s.saf.open1.filter fun f => decide (f.1 ≠ byte code) } }

/-- FAULT_N is driven low: while CLASS2 or CLASS3 is 1, in Limp and HV hold (R474), and in recovery (R450). -/
def State.faultN (s : State) : Bool :=
  s.flag slotSaf 2 || s.flag slotSaf 3 || s.saf.hvFault || decide (s.pwr.st = .limp) || decide (s.pwr.st = .hvHold) || s.sys.recovery

/-- SAF.STAT.GUARANTEE: the conditions of R465 that the device can confirm. -/
def State.guarantee (s : State) : Bool :=
  s.saf.enable && s.saf.lock && s.saf.selfTestOk && decide (3 ≤ fld s.sys.fwVer 24 8) && s.pwr.vbat6 && decide (s.saf.railBad = 0) &&
    decide (-40 ≤ s.pwr.tjNow) && decide (s.pwr.tjNow ≤ 125)

end Sys2Proof.Machine
end

