-- ==== Sys2Proof/Machine/Resets.lean ====
section
/-!
DEFINITION. The resets of R486: what each clears and keeps. A reset builds the power-on State and puts back what it keeps: MRAM
and fuses always; the RTC and the alarm under code 1; also the keep region, device time, locked RWL fields and the Waling's record
under codes 2 and 3.
-/

namespace Sys2Proof.Machine

/-- What a feed keeps in MRAM (R31, R103), the feed being switched off by every reset (R486). -/
def Feed.mram (f : Feed) (now : D) : Feed :=
  let f := f.off now .off
  { mramId := f.mramId, mramHours := f.mramHours, mramCycles := f.mramCycles, mramMinutes := f.mramMinutes }

/-- With what only a power-on reset ends: a failed Headrace, a lane replaced for good, a failed spare (R79, R80). -/
def Headrace.keep (h : Headrace) : Headrace :=
  { failed := h.failed, retired := h.retired, spareFailed := h.spareFailed
    spareFor := if h.retired.toNat < 8 then h.retired else 15 }

/-- The rollback counters at a start-up: a complete record whose SEQ exceeds its counter raises it (R264). -/
def BulBlk.recovered (b : BulBlk) : Vector W 4 :=
  Vector.ofFn fun k => (b.store.toList.filter fun r => decide (r.st ≠ 0) && decide (r.kind.toNat = k.val + 1)).foldl
    (fun m r => if m.toNat < r.seq.toNat then r.seq else m) b.ctr[k]

/-- The part of the bulletin state that lies in MRAM, as a start-up finds it (R252, R262, R264). -/
def BulBlk.mram (b : BulBlk) : BulBlk :=
  { fleetId := b.fleetId, wakeMask := b.wakeMask, keys := b.keys, keysLocked := b.keysLocked, ctr := b.recovered, store := b.store }

/-- With the keep region: the reassemblies (R260) and the BUL_WATCH settings (R485). -/
def BulBlk.keep (b : BulBlk) : BulBlk :=
  { b with winStep := 0 }

/-- The part of the credentials that lies in MRAM (R357, R358). -/
def CredBlk.mram (c : CredBlk) : CredBlk :=
  { vkey := c.vkey, vkeyLocked := c.vkeyLocked, verdictSeq := c.verdictSeq }

/-- With the keep region: slots, revoked list and the ACC_UNLOCK_CFG settings (R346, R348, R485). -/
def CredBlk.keep (c : CredBlk) : CredBlk :=
  { c with flow := none, flowWaits := none, delivering := [], verdicts := [] }

/-- The part of the access block that lies in MRAM (R335). -/
def AccBlk.mram (a : AccBlk) : AccBlk := { regPage := a.regPage }

/-- With the keep region: the ACC_LISTEN settings (R485), transmit time already spent (R337), channels excluded until a
power-on reset (R322). -/
def AccBlk.keep (a : AccBlk) : AccBlk :=
  { regPage := a.regPage, listenEn := a.listenEn, listenCh := a.listenCh, listenPhy := a.listenPhy
    listenFilter := a.listenFilter, listenPeriod := a.listenPeriod, listenWin := a.listenWin, inRun := a.inRun
    airLog := a.airLog
    synth := Vector.ofFn fun c => { ref := if 68 ≤ c.val ∧ c.val ≤ 71 then 1 else 0, excluded := a.synth[c].excluded } }

/-- The calibration records (R443), not loaded yet. -/
def CalBlk.mram (c : CalBlk) : CalBlk :=
  { c with cfg := 0x00000108, due := 0, aRun := none, bRun := none, loaded := false }

/-- Fuses, firmware slots, BOOT_CFG and keys. -/
def TruBlk.mram (t : TruBlk) : TruBlk :=
  { prefer := t.prefer, trial := t.trial, trialStarted := t.trialStarted, vendorHash := t.vendorHash, oemHash := t.oemHash
    svnCtr := t.svnCtr, dbg := t.dbg, slots := t.slots, idKey := t.idKey, kemKey := t.kemKey, chain := t.chain }

/-- What lasts until the next power-on reset beside MRAM and fuses (R457, R460, R461). -/
def TruBlk.keep (t : TruBlk) : TruBlk :=
  { t.mram with reports := t.reports, failed := t.failed, unlocked := t.unlocked, opened := t.opened }

/-- A two-wire port after a reset: its lines and its alert input are the board's. -/
def TwPort.lines (p : TwPort) (reset : W) : TwPort := { addr := reset, sda := p.sda, scl := p.scl, alert := p.alert }

/-- The uses of SRAM that R30 fixes. -/
inductive SramUse where
  | dabInterleave (n : Nat) | delayPool | drmInterleave (n : Nat) | raceBuffer (k : Nat) | windowBuffer | decoder (d : Nat) | steward
  | staging | accessRadio | general
  deriving DecidableEq, Repr

/-- The use of the SRAM word at an address (R30). -/
def sramUse (a : Nat) : Option SramUse :=
  if within 0x20000000 0x201AFFFF a then some (.dabInterleave ((a - 0x20000000) / 0x6C000))
  else if within 0x201B0000 0x203AFFFF a then some .delayPool
  else if within 0x203B0000 0x2040FFFF a then some (.drmInterleave ((a - 0x203B0000) / 0x18000))
  else if within 0x20410000 0x20457FFF a then some (.raceBuffer ((a - 0x20410000) / 0x6000))
  else if within 0x20458000 0x2048FFFF a then some .windowBuffer
  else if within 0x20490000 0x2054FFFF a then some (.decoder ((a - 0x20490000) / 0xC000))
  else if within 0x20550000 0x2064FFFF a then some .steward
  else if within 0x20650000 0x2070FFFF a then some .staging
  else if within 0x20710000 0x2074FFFF a then some .accessRadio
  else if within 0x20750000 0x207FFFFF a then some .general
  else none

/-- The uses of MRAM that R31 fixes; what it does not list is reserved. -/
inductive MramUse where
  | fwSlot (n : Nat) | calibration | keys | antennas | regulatory | bulletins | checkpoint | reserved
  deriving DecidableEq, Repr

/-- The use of the MRAM word at an address (R31). -/
def mramUse (a : Nat) : Option MramUse :=
  if within 0x10000000 0x1013FFFF a then some (.fwSlot 0)
  else if within 0x10140000 0x1027FFFF a then some (.fwSlot 1)
  else if within 0x10280000 0x10287FFF a then some .calibration
  else if within 0x10288000 0x1028BFFF a then some .keys
  else if within 0x1028C000 0x1028FFFF a then some .antennas
  else if within 0x10290000 0x10290FFF a then some .regulatory
  else if within 0x102A0000 0x1031FFFF a then some .bulletins
  else if within 0x10320000 0x103DFFFF a then some .checkpoint
  else if within 0x10000000 0x103FFFFF a then some .reserved
  else none

/-- Keep region of SRAM (R30). -/
def inKeep (a : Nat) : Bool := within 0x20550000 0x205CFFFF a

/-- Counters that only a power-on reset or a cold restart clears (R503). -/
def keptCounter (off : Nat) : Bool := within 0xBB00 0xBB63 off || within 0x6880 0x68FF off

/-- A power-on reset, or with `rtc` a cold restart: everything outside MRAM and fuses is cleared, except that a cold restart
keeps the RTC and the alarm (R428, R486). The pins' levels, the writes already posted to the host, the free-value counter and
the waiting commands are not the device's to clear. -/
def State.resetCold (s : State) (rtc : Bool) : State :=
  { sys := if rtc then { rtcSec := s.sys.rtcSec, rtcSub := s.sys.rtcSub, rtcSet := s.sys.rtcSet, rtcXtal := s.sys.rtcXtal
                         resetCode := 1 } else {}
    host := { perstHigh := s.host.perstHigh, posted := s.host.posted }
    evt := { deferred := if s.pwr.st = .limp then [(93, 1, [0, 0])] else [] }
    cap := { feed := s.cap.feed.map fun f => f.mram s.sys.timeUs }
    bul := s.bul.mram
    acc := { s.acc.mram with gnt := s.acc.gnt }
    cred := s.cred.mram
    tw := { port := Vector.ofFn fun p => s.tw.port[p].lines (if p.val = 0 then 0x40 else 0x60) }
    clk := { xoMode := s.clk.xoMode }
    pwr := { vbatOk := s.pwr.vbatOk, vbat6 := s.pwr.vbat6, wakeLevel := s.pwr.wakeLevel, tjNow := s.pwr.tjNow
             alarm := if rtc then s.pwr.alarm else none }
    cal := s.cal.mram
    tru := s.tru.mram
    freeCnt := s.freeCnt
    pending := s.pending }

/-- A logic reset (code 2) or a safety reset (code 3): all registers but NV and locked RWL fields, SRAM outside the keep region,
rings, windows, contexts, DMA channels and audio ports are cleared; the rest stays (R486, R494, R503). The stewards have not
started; Limp that ends is reported (R427). -/
def State.resetWarm (s : State) (code : Nat) : State :=
  { sys := { s.sys with timeHi := 0, rtcHi := 0, readData := 0, fwVer := 0, stewardUp := false, recovery := false, slot := 0, resetDue := none
                        resetCode := BitVec.ofNat 2 code }
    host := { perstHigh := s.host.perstHigh, posted := s.host.posted }
    evt := { deferred := if s.pwr.st = .limp then [(93, 1, [0, 0])] else [] }
    cap := { hr := s.cap.hr.map Headrace.keep
             feed := s.cap.feed.map fun f => { f.mram s.sys.timeUs with offSince := (f.off s.sys.timeUs .off).offSince } }
    bul := s.bul.keep
    acc := { s.acc.keep with gnt := s.acc.gnt }
    cred := s.cred.keep
    aud := { frame := s.aud.frame }
    tw := { port := Vector.ofFn fun p => s.tw.port[p].lines (if p.val = 0 then 0x40 else 0x60) }
    clk := { xoMode := s.clk.xoMode, xoNow := s.clk.xoNow, refOn := s.clk.refOn, refOk := s.clk.refOk, refBad := s.clk.refBad
             timeFio := s.clk.timeFio, rtcOwed := s.clk.rtcOwed }
    pwr := { st := .run, pwrEn := s.pwr.pwrEn, vbatOk := s.pwr.vbatOk, vbat6 := s.pwr.vbat6, wakeLevel := s.pwr.wakeLevel
             tjNow := s.pwr.tjNow, alarm := s.pwr.alarm }
    cal := s.cal.mram
    saf := { lock := s.saf.lock, action := s.saf.lock && s.saf.action, enable := s.saf.lock && s.saf.enable
             wdtCfg := if s.saf.lock then s.saf.wdtCfg else 0x00000401
             log := s.saf.log, newest := s.saf.newest, count := s.saf.count, selfTestOk := s.saf.selfTestOk }
    tru := s.tru.keep
    flags := Vector.ofFn fun k => if k = slotSaf then s.flags[k] else 0
    tlm := s.tlm.filter fun e => keptCounter e.1
    mem := s.mem.filter fun e => inKeep e.1
    freeCnt := s.freeCnt
    pending := s.pending }

end Sys2Proof.Machine
end

