-- ==== Sys2Proof/Machine/HostOps.lean ====
section
/-!
DEFINITION. Operations on the rings, the MSI-X table and the DMA doorbells that both a register write and a command or event
reach: enabling a ring (R49), RING_EN (R70), the loss of the link (R71), unmasking a vector (R68), following a NEXT word (R373).
-/

namespace Sys2Proof.Machine

/-- RTC seconds; 0 until the RTC has been set (R500). -/
def State.rtc (s : State) : Nat := if s.sys.rtcSet then s.sys.rtcSec.toNat else 0

/-! ### Rings -/

/-- LOG2SIZE is legal for ring n (R38). -/
def sizeOk (n l : Nat) : Bool := if n = 3 ∨ n = 4 then within 4 8 l else within 4 12 l

/-- The settings of a ring meet R38 and, for a data ring, R63; rings 5 to 7 always refuse (R49). -/
def Ring.valid (r : Ring) (n : Nat) : Bool :=
  !within 5 7 n && sizeOk n r.log2size.toNat && decide (r.base < Config.hostLo) && decide (r.base % 4096 = 0) &&
    (decide (n < 8) || within 16 24 r.plog2.toNat)

/-- A ring that has just been enabled: both indices 0, PHASE 1, payload buffer empty (R49). R49 does not say what a read of the
doorbell then returns: the last value accepted stays (DESIGN CHOICE, log 101). -/
def Ring.enabled (r : Ring) : Ring :=
  { r with en := true, bad := false, prod := 0, cons := 0, phase := true, unsignalled := 0, pbufNext := 0, pbufHeld := [] }

/-- The size fields are writable only while EN is 0 (R48); PLOG2 is reserved on a ring without a payload buffer (R6). -/
def Ring.setSizes (r : Ring) (n : Nat) (v : W) : Ring :=
  if r.en then r
  else { r with log2size := BitVec.ofNat 4 (fld v 4 4), plog2 := if 8 ≤ n then BitVec.ofNat 5 (fld v 16 5) else 0 }

/-- A write to HOST.RING_CFG[n]: sizes, then EN with its check; any accepted write clears BAD (R48, R49). -/
def Ring.writeCfg (r : Ring) (n : Nat) (v : W) : Ring :=
  let r := { r.setSizes n v with bad := false }
  if v.getLsbD 0 then (if r.valid n then r.enabled else { r with en := false, bad := true })
  else { r with en := false }

/-- What flows once a ring is enabled and processed: held completions on ring 1 (R54), the owed source 4 entry and the events
held back on ring 2 (R56, R59), HCI packets on ring 4, staged units on a data ring (R64). -/
def State.ringOpens (s : State) (n : Fin 32) : State :=
  if s.ringUp n then
    if n = 1 then s.drainHeld
    else if n = 2 then s.flushDeferred
    else if n = 4 then s.drainHci
    else if 8 ≤ n.val then s.drainRing n
    else s
  else s

/-- A write to HOST.RING_CFG[n] with what it sets going. -/
def State.writeRingCfg (s : State) (n : Fin 32) (v : W) : State :=
  let s := s.modRing n fun r => r.writeCfg n.val v
  let s : State := { s with host := { s.host with ringSeen := s.host.ringSeen || s.host.rings[n].en } }
  s.ringOpens n

/-- The next unit of a context that is delivered carries DISC with `n` units more: the oldest staged one, else the next produced
(R12, R70). -/
def Ctx.markNext (x : Ctx) (n : Nat) : Ctx :=
  match x.staged with
  | [] => { x with lost := satAdd (2 ^ 24 - 1) x.lost n, discDue := true }
  | u :: rest => { x with staged := { u with lost := satAdd (2 ^ 24 - 1) u.lost n, disc := true } :: rest }

/-- A staged unit whose first piece has been written is not finished: it counts as lost, and the next unit of its context that is
delivered carries DISC with the units lost (R70). -/
def State.cutPartial (s : State) (c : Fin 256) : State :=
  match s.svc.ctx[c].staged with
  | [] => s
  | u :: rest =>
    if u.written = 0 then s
    else
      let s := s.modCtx c fun x => ({ x with staged := rest, dropped := x.dropped + 1 } : Ctx).markNext (u.lost + 1)
      let s := if u.mot.isSome then s.gpFree (.motOut c u.seq) else s
      s.linkDrop (476 + c.val) 1

/-- RING_EN becomes 0 (R70): fetching stops, completions held are discarded, no ring is written, units begun are cut. -/
def State.ringEnOff (s : State) : State :=
  if s.host.ringEn then
    let s := { s with host := { s.host with
      ringEn := false, held := [], hciHeld := []
      outstanding := s.host.outstanding.filter fun o => decide (o.phase ≠ .completing) } }
    (List.finRange 256).foldl State.cutPartial s
  else s

/-- RING_EN becomes 1: QUIESCED clears and the enabled rings are processed (R70). -/
def State.ringEnOn (s : State) : State :=
  if s.host.ringEn then s
  else
    let s := { s with host := { s.host with ringEn := true, quiesced := false } }
    (List.finRange 32).foldl State.ringOpens s

/-- The data link layer goes down: as RING_EN = 0, and RING_EN, SHADOW_EN and every EN are cleared (R71). -/
def State.linkLost (s : State) : State :=
  let s := s.ringEnOff
  { s with host := { s.host with
    dlUp := false, speed := 0, shadowEn := false, rings := s.host.rings.map fun r => { r with en := false } } }

/-- The coalescing of every ring on a vector counts afresh (R68). -/
def State.coalAfresh (s : State) (v : Fin 16) : State :=
  let rs := s.host.rings.map fun r => if r.vecIx = v then { r with unsignalled := 0 } else r
  { s with host := { s.host with rings := rs } }

/-- A vector that is not masked and has its pending bit set sends one message and clears the bit; coalescing of its rings counts afresh
(R68). -/
def State.sendPending (s : State) (v : Fin 16) : State :=
  if s.host.pba.getLsbD v.val ∧ s.host.msixEn = true ∧ s.vecMasked v = false then
    let s := { s with host := { s.host with pba := s.host.pba &&& ~~~(BitVec.ofNat 16 (2 ^ v.val)) } }
    (s.message v).coalAfresh v
  else s

/-- The mask bit of a vector is cleared (R68); the function mask may still mask it. -/
def State.unmask (s : State) (v : Fin 16) : State :=
  ({ s with host := { s.host with msix := upd s.host.msix v fun e => { e with masked := false } } }).sendPending v

/-- One word of the MSI-X table: address, data or vector control (R35, R68). -/
def State.writeMsix (s : State) (v : Fin 16) (word : Nat) (x : W) : State :=
  let set := fun (f : MsixEntry → MsixEntry) => { s with host := { s.host with msix := upd s.host.msix v f } }
  match word with
  | 0 => set fun e => { e with addrLo := x }
  | 1 => set fun e => { e with addrHi := x }
  | 2 => set fun e => { e with data := x }
  | _ => if x.getLsbD 0 then set fun e => { e with masked := true }
         else if s.host.msix[v].masked then s.unmask v else s

/-! ### DMA channels -/

/-- The NEXT word of a channel's descriptor (R365). -/
def State.dmaNext (s : State) (n : Fin 16) : Nat := leNat (s.load (s.dma.ch[n].cur.toNat + 56) 4)

/-- A descriptor address lies in SRAM. -/
def inSram (a : Nat) : Bool := decide (Config.sramLo ≤ a) && decide (a + 64 ≤ Config.sramHi)

/-- The channel reads its NEXT word (R373): END 1 parks it, END 0 names the next descriptor, whose fetch is then due; a NEXT
outside SRAM halts it (R372). -/
def State.dmaFollow (s : State) (n : Fin 16) : State :=
  let w := s.dmaNext n
  if w % 2 = 1 then s.modCh n fun x => { x with st := .parked }
  else if inSram (w / 64 * 64) then
    s.modCh n fun x => { x with st := .running, cur := BitVec.ofNat 32 (w / 64 * 64), fetchDue := true }
  else (s.modCh n fun x => { x with st := .halted }).setFlag slotDma (16 + n.val)

/-- A channel is rung (R373): a parked one reads NEXT again, a running or waiting one remembers it, others ignore it; while
held no NEXT is followed (R375). -/
def State.dmaRing (s : State) (n : Fin 16) : State :=
  let x := s.dma.ch[n]
  match x.st with
  | .parked => if x.held then s.modCh n fun x => { x with rung := true } else s.dmaFollow n
  | .running | .waiting => s.modCh n fun x => { x with rung := true }
  | _ => s

/-- A write to DMA.DB rings every channel whose bit is 1. -/
def State.dmaDoorbells (s : State) (v : W) : State :=
  (List.finRange 16).foldl (fun s n => if v.getLsbD n.val then s.dmaRing n else s) s

end Sys2Proof.Machine
end

