-- ==== Sys2Proof/Machine/Registers.lean ====
section
/-!
DEFINITION. BAR0 (22_registers.md and every chapter's register section): what each register reads, and what a write does to it.
Reserved bits read 0 and take no value (R6).
-/

namespace Sys2Proof.Machine

/-! ### Values -/

/-- A signed number in the low `n` bits. -/
def sbits (n : Nat) (v : Int) : Nat := (v % (2 ^ n : Nat)).toNat

/-- A word from fields: low bit and value. -/
def word (l : List (Nat × Nat)) : W := l.foldl (fun w f => w ||| mkFld f.1 f.2) 0

/-- Bits of a mask as a number. -/
def bitsOf (l : List Nat) : Nat := (l.map fun b => 2 ^ b).sum

/-- State of a feed (CAP.FEED_STAT.STATE). -/
def FeedState.code : FeedState → Nat
  | .off => 0 | .ramping => 1 | .on => 2 | .opened => 3 | .shorted => 4 | .shutoff => 5

/-- State of a DMA channel, HELD over a boundary (DMA.CH_STAT.STATE). -/
def DmaCh.code (x : DmaCh) : Nat :=
  match x.st with
  | .idle => 0
  | .running => if x.held && !x.inFlight then 5 else 1
  | .waiting => if x.held then 5 else 2
  | .parked => 3
  | .halted => 4

/-- SYS (R499). -/
def State.readSys (s : State) (off : Nat) : W :=
  match off with
  | 0x00 => Config.idRev
  | 0x04 => s.sys.fwVer
  | 0x08 => word [(0, s.sys.resetCode.toNat), (8, s.sys.slot.toNat), (9, b01 s.sys.recovery), (10, b01 s.sys.stewardUp)]
  | 0x10 => s.sys.timeUs.setWidth 32
  | 0x14 => s.sys.timeHi
  | 0x18 => if s.sys.rtcSet then s.sys.rtcSec.setWidth 32 else 0
  | 0x1C => s.sys.rtcHi
  | 0x20 => s.flags[slotSys]
  | _ => 0

/-- HOST.RING_CFG and HOST.RING_IRQ of a ring. -/
def Ring.cfgWord (r : Ring) : W := word [(0, b01 r.en), (4, r.log2size.toNat), (16, r.plog2.toNat), (31, b01 r.bad)]
def Ring.irqWord (r : Ring) : W :=
  word [(0, r.vec.toNat), (4, b01 r.irqEn), (8, r.coalCnt.toNat), (16, r.coalUs.toNat)]

/-- HOST (the table before R48). -/
def State.readHost (s : State) (off : Nat) : W :=
  if off = 0x400 then word [(0, s.host.speed.toNat), (4, b01 s.host.dlUp), (8, b01 s.host.dlUp)]
  else if off = 0x404 then word [(0, b01 s.host.ringEn), (1, b01 s.host.shadowEn)]
  else if off = 0x408 then word [(0, b01 s.host.ready), (1, b01 s.host.quiesced)]
  else if off = 0x40C then s.host.dbErr
  else if off = 0x410 then s.host.shadowLo
  else if off = 0x414 then s.host.shadowHi
  else if off = 0x4F0 then s.host.pba.setWidth 32
  else if within 0x420 0x4DF off then
    match ix 32 (8 + (off - 0x420) / 8) with
    | none => 0
    | some n => if (off - 0x420) % 8 = 0 then s.host.rings[n].pbufLo else s.host.rings[n].pbufHi
  else if within 0x500 0x6FF off then
    match ix 32 ((off - 0x500) / 16) with
    | none => 0
    | some n =>
      let r := s.host.rings[n]
      match (off - 0x500) % 16 with
      | 0 => r.baseLo
      | 4 => r.baseHi
      | 8 => r.cfgWord
      | _ => r.irqWord
  else if within 0x700 0x7FF off then
    match ix 16 ((off - 0x700) / 16) with
    | none => 0
    | some v =>
      let e := s.host.msix[v]
      match (off - 0x700) % 16 with
      | 0 => e.addrLo
      | 4 => e.addrHi
      | 8 => e.data
      | _ => mkBit 0 e.masked
  else 0

/-- Only the slot reserved for source 4 is free in ring 2 (EVT.STAT). -/
def State.reserveOnly (s : State) : Bool := s.host.rings[2].en && decide (s.host.rings[2].free = 1)

/-- EVT (R501). -/
def State.readEvt (s : State) (off : Nat) : W :=
  match off with
  | 0x800 => s.evt.mask[0]
  | 0x804 => s.evt.mask[1]
  | 0x808 => s.evt.mask[2]
  | 0x80C => s.evt.seq
  | 0x810 => s.evt.lost
  | 0x814 => word [(0, b01 s.reserveOnly), (1, b01 (decide (s.evt.owed ≠ 0)))]
  | _ => 0

/-- CLK.STAT.MILL_DIV: the divider of the level in force, or 0 on the FIO (R408). -/
def State.millDiv (s : State) : Nat := if s.clk.onPll then s.pwr.level.toNat + 1 else 0

/-- CLK (16_clocks.md). -/
def State.readClk (s : State) (off : Nat) : W :=
  match off with
  | 0xC00 => mkBit 0 s.clk.xoMode
  | 0xC04 => word [(0, b01 s.clk.lock), (1, b01 s.clk.onPll), (2, b01 s.clk.refOk), (3, b01 s.clk.xoNow)
      , (4, b01 (s.sys.rtcXtal && s.sys.rtcSet)), (5, b01 s.clk.timeFio), (8, s.millDiv), (16, s.clk.tries.toNat)]
  | 0xC08 => s.flags[slotClk]
  | 0xC0C => s.clk.lockErr.setWidth 32
  | 0xC10 => s.clk.refCnt.setWidth 32
  | _ => 0

/-- PWR.STAT.STATE. -/
def State.pwrState (s : State) : Nat :=
  match s.pwr.st with
  | .limp => 5
  | .idle => 1
  | _ => match s.pwr.trans with
    | some (.entry 1 _ _) => 1
    | _ => 0

/-- PWR (17_power.md). -/
def State.readPwr (s : State) (off : Nat) : W :=
  if off = 0x1000 then
    word [(0, s.pwrState), (4, s.pwr.level.toNat), (6, s.pwr.target.toNat), (8, b01 s.pwr.capped)
      , (9, b01 s.pwr.trans.isSome), (10, b01 s.pwr.pending.isSome), (11, b01 s.pwr.voltUnconf), (16, s.pwr.tj.toNat)]
  else if off = 0x1004 then s.flags[slotPwr]
  else if off = 0x1008 then word [(0, s.pwr.modeTarget.toNat), (3, b01 s.pwr.armed)]
  else if off = 0x100C then word [(0, s.pwr.refInst.toNat), (8, s.pwr.refKind.toNat), (16, s.pwr.refState.toNat)]
  else if off = 0x1010 then s.pwr.therm
  else if within 0x1014 0x1023 off then
    match ix 4 ((off - 0x1014) / 4) with
    | none => 0
    | some k => s.pwr.wakeCfg[k]
  else if off = 0x1024 then word [(0, s.pwr.wakeCode.toNat), (8, s.pwr.wakeFrom.toNat)]
  else 0

/-- CAP.HR_STAT of a Headrace. -/
def Headrace.statWord (h : Headrace) : W :=
  word [(0, b01 h.running), (1, b01 h.failed), (3, b01 (h.running && h.agc)), (4, if h.running then h.gain.toNat else 15)
    , (8, h.spareFor.toNat), (12, h.retired.toNat), (16, b01 h.govStop)]

/-- CAP.FEED_STAT and CAP.MOD_STAT of a feed. -/
def Feed.statWord (f : Feed) : W :=
  word [(0, b01 f.on), (1, f.st.code), (8, f.ma2.toNat), (24, f.retries.toNat)]
def Feed.modWord (f : Feed) : W :=
  word [(0, b01 f.present), (1, b01 f.staticOk), (2, b01 f.lifeOk), (8, f.lifePct.toNat)]

/-- The 64 bytes of one Headrace. -/
def State.readCapN (s : State) (n : Fin 4) (r : Nat) : W :=
  let h := s.cap.hr[n]
  let f := s.cap.feed[n]
  match r with
  | 0x00 => h.ctl
  | 0x04 => h.statWord
  | 0x08 => s.flags[slotHr n]
  | 0x0C => h.clipCnt
  | 0x10 => h.blkL.reg
  | 0x14 => h.blkV.reg
  | 0x18 => h.blkB.reg
  | 0x1C => h.vCentre
  | 0x20 => h.bCentre
  | 0x24 => h.blkL.count
  | 0x28 => h.blkV.count
  | 0x2C => h.blkB.count
  | 0x30 => f.ctl
  | 0x34 => f.statWord
  | 0x38 => f.modWord
  | 0x3C => s.flags[slotFeed n]
  | _ => 0

/-- CAP (03_capture.md). -/
def State.readCap (s : State) (off : Nat) : W :=
  if off = 0x1500 then s.cap.agc
  else
    match ix 4 ((off - 0x1400) / 64) with
    | none => 0
    | some n => s.readCapN n ((off - 0x1400) % 64)

/-- Open windows, and legs in use (WIN.USE). -/
def State.openWins (s : State) : List (Fin 64) := allIx fun w => decide (s.win.win[w].st ≠ 0)
def State.legsInUse (s : State) : Nat := (s.openWins.map fun w => s.win.win[w].positions.length).sum

/-- Delay blocks held in general-use SRAM (WIN.DSTORE). -/
def State.borrowed (s : State) : Nat :=
  (s.dma.gp.filter fun g => match g.owner with | .delay _ _ => true | _ => false).length

/-- WIN.STAT of a window. -/
def Window.statWord (w : Window) : W :=
  if w.st = 0 then 0
  else word [(0, w.st.toNat), (4, w.preset), (7, b01 w.bank), (8, w.mask fun _ => true)
    , (16, w.mask fun l => decide (l.settling ≠ 0)), (20, b01 (decide (w.mask (fun l => decide (l.delay ≠ l.target)) ≠ 0)))
    , (24, w.runner.val)]

/-- WIN (04_windows.md). -/
def State.readWin (s : State) (off : Nat) : W :=
  if off = 0x1800 then word [(0, s.openWins.length), (16, s.legsInUse)]
  else if off = 0x1804 then word [(0, s.win.dstoreFree), (16, s.borrowed)]
  else if off = 0x1808 then s.win.scanCtl
  else if off = 0x180C then s.win.cma
  else if within 0x1A00 0x1BFF off then
    match ix 64 ((off - 0x1A00) / 8) with
    | none => 0
    | some w => if (off - 0x1A00) % 8 = 0 then s.win.win[w].statWord else s.flags[slotSat w]
  else 0

/-- FAN.STAT: shadows, windows, estimators in use, followed contexts (R251). -/
def State.fanStat (s : State) : W :=
  word [(0, (allIx fun c : Fin 256 => s.svc.ctx[c].follow).length), (12, (allIx fun e : Fin 4 => s.fan.est[e].work.isSome).length)
    , (16, (allIx fun w : Fin 64 => decide (s.win.win[w].st ≠ 0) && s.win.win[w].fantail).length)
    , (24, (allIx fun c : Fin 256 => s.svc.ctx[c].shadowOf.isSome).length)]

/-- FAN (R251). -/
def State.readFan (s : State) (off : Nat) : W :=
  if off = 0x1C00 then s.fan.ctl
  else if off = 0x1C04 then s.fan.grantRun
  else if off = 0x1C08 then s.fanStat
  else if off = 0x1C0C then s.fan.switches
  else if within 0x1C20 0x1C3F off then BitVec.ofNat 32 (leNat (slice s.fan.policy (off - 0x1C20) 4))
  else 0

/-- State of a queue or stream fade (AUD.Q_STAT.STATE). -/
def FadeSt.code : FadeSt → Nat
  | .off => 0 | .playing => 1 | .fadingOut => 2 | .silent => 3 | .rampingUp => 4

/-- Pages of a playout buffer (R289). -/
def playoutPages (fade : Nat) : Nat := ceilDiv (288 * (fade + 2)) 1024

/-- AUD.PORT_STAT of a port. -/
def Port.statWord (p : Port) : W :=
  if p.setUp then word [(0, p.st.toNat), (4, p.slots), (9, p.width.toNat), (12, p.clksrc.val)] else 0

/-- AUD (10_audio_ports.md). -/
def State.readAud (s : State) (off : Nat) : W :=
  if off = 0x2000 then s.aud.ctl
  else if off = 0x2004 then s.flags[slotAud]
  else if off = 0x2008 then
    word [(0, s.aud.poolFree), (16, (s.aud.streams.toList.map fun t => playoutPages t.fade).sum)]
  else if within 0x2010 0x201F off then
    match ix 4 ((off - 0x2010) / 4) with
    | none => 0
    | some n => s.aud.ports[n].statWord
  else if within 0x2020 0x202F off then
    match ix 4 ((off - 0x2020) / 4) with
    | none => 0
    | some n => word [(0, s.aud.ports[n].rx.toNat), (16, s.aud.ports[n].tx.toNat)]
  else if within 0x2030 0x2043 off then
    match ix 5 ((off - 0x2030) / 4) with
    | none => 0
    | some g =>
      let x := s.aud.groups[g]
      word [(0, b01 x.qualified), (4, min x.txFifo.length 15), (16, sbits 16 x.ppm)]
  else if within 0x2050 0x207F off then
    match ix 12 ((off - 0x2050) / 4) with
    | none => 0
    | some q => word [(0, s.aud.queues[q].blocks), (8, s.aud.queues[q].st.code)]
  else if off = 0x2080 then
    BitVec.ofNat 32 (bitsOf ((allIx fun n : Fin 32 => decide (s.aud.streams[n].st = .playing) ||
      decide (s.aud.streams[n].st = .rampingUp) || decide (s.aud.streams[n].st = .fadingOut)).map Fin.val))
  else if off = 0x2084 then
    BitVec.ofNat 32 (bitsOf ((allIx fun n : Fin 32 => decide (s.aud.streams[n].st = .fadingOut) ||
      decide (s.aud.streams[n].st = .silent) || decide (s.aud.streams[n].st = .rampingUp)).map Fin.val))
  else if off = 0x2088 then
    word [(0, s.aud.pdmEn.toNat), (8, s.aud.pdmStuck.toNat), (16, b01 s.aud.groups[4].qualified)]
  else 0

/-- The fields of a regulatory page lie in their ranges (R335): MAGIC, FORMAT, REGION, LOCK, the duties, the ALLOW bits
above channel 80, every MAX_PWR and the reserved bytes. -/
def pageRangesOk (p : List Byte) : Bool :=
  let u8 := fun i => (p.getD i 0).toNat
  let u16 := fun i => u8 i + 256 * u8 (i + 1)
  decide (slice p 0 4 = [0x45, 0x56, 0x52, 0x50]) && decide (u8 4 = 1) && decide (u8 5 ≤ 7) &&
    (decide (u8 6 = 0) || decide (u8 6 = 0x5A)) && decide (u8 7 = 0) && within 1 1000 (u16 8) && within 1 1000 (u16 10) &&
    decide (u8 22 ≤ 1) && decide (u8 23 = 0) &&
    (List.range 81).all (fun c => decide (-40 ≤ toSigned 1 (u8 (24 + c))) && decide (toSigned 1 (u8 (24 + c)) ≤ 40)) &&
    (List.range 19).all fun i => decide (u8 (105 + i) = 0)

/-- The regulatory page is valid (R336): the ranges and the CRC hold. -/
def pageValid (p : List Byte) : Bool := pageRangesOk p && decide (leNat (slice p 124 4) = (crc32c (slice p 0 124)).toNat)

/-- LOCK of the regulatory page is 0x5A (R336). -/
def pageLocked (p : List Byte) : Bool := decide (p.getD 6 0 = 0x5A)

/-- Transmit time spent in the last `us` microseconds, in permille of it (ACC.DUTY_STAT). -/
def State.airSpent (s : State) (us : Nat) : Nat :=
  let now := s.sys.timeUs.toNat
  ((s.acc.airLog.filter fun a => decide (now < a.1.toNat + us)).map fun a => min a.2 (a.1.toNat + us - now)).sum

/-- AGE of a synthesiser entry: minutes since its calibration, saturating at 255. -/
def State.synthAge (s : State) (e : SynthEntry) : Nat :=
  match e.born with
  | none => 255
  | some t => min 255 ((s.sys.timeUs - t).toNat / 60000000)

/-- The reference that a channel's REF selects, for ACC.STAT (R323). -/
def State.synthRef (s : State) : Nat := s.acc.synth[s.acc.synthCh].ref.toNat

/-- ACC (12_access_frontend.md). -/
def State.readAcc (s : State) (off : Nat) : W :=
  if off = 0x2400 then
    word [(0, b01 (pageValid s.acc.regPage)), (1, b01 (pageLocked s.acc.regPage)), (2, b01 s.acc.fbOk)
      , (3, b01 (s.acc.dpdValid.getLsbD 0)), (4, b01 (s.acc.dpdValid.getLsbD 1)), (5, b01 s.acc.gnt)
      , (8, s.acc.synthSt.toNat), (10, s.synthRef), (16, s.acc.synthCh.val)]
  else if off = 0x2404 then s.flags[slotAcc]
  else if off = 0x2408 then s.acc.paTiming
  else if off = 0x240C then s.acc.feGain
  else if off = 0x2410 then s.acc.loss
  else if off = 0x2414 then s.acc.coexCfg
  else if off = 0x2418 then s.acc.dpdCfg
  else if off = 0x241C then
    word [(0, min 1000 (s.airSpent 1000000 / 1000)), (16, min 1000 (s.airSpent 3600000000 / 3600000))]
  else if within 0x2500 0x2643 off then
    match ix 81 ((off - 0x2500) / 4) with
    | none => 0
    | some c =>
      let e := s.acc.synth[c]
      word [(0, e.ref.toNat), (2, e.st.toNat), (8, s.synthAge e)]
  else 0

/-- TW0 and TW1 (15_two_wire.md). -/
def State.readTw (s : State) (p : Fin 2) (r : Nat) : W :=
  let x := s.tw.port[p]
  match r with
  | 0x00 => x.cfg
  | 0x04 =>
    let st := if x.stuck then 4 else if x.run.isSome then 1 else if x.queue.isEmpty then 0 else 2
    word [(0, st), (3, b01 x.run.isSome), (4, b01 x.scl), (5, b01 x.sda), (6, b01 x.alert)]
  | 0x08 => s.flags[slotTw p]
  | 0x0C => x.addr
  | 0x10 => x.alertLast
  | 0x20 => if p = 1 then BitVec.ofNat 32 s.tw.body.length else 0
  | 0x24 => if p = 1 then BitVec.ofNat 32 (leNat (slice s.tw.body 0 4)) else 0
  | 0x28 => if p = 1 then BitVec.ofNat 32 (leNat (slice s.tw.body 4 4)) else 0
  | 0x2C => if p = 1 then BitVec.ofNat 32 (leNat (slice s.tw.body 8 4)) else 0
  | _ => 0

/-- DMA (14_dma.md). -/
def State.readDma (s : State) (off : Nat) : W :=
  if off = 0x3000 then
    word [(0, s.dmaInFlight), (4, s.dmaShufBusy)
      , (16, bitsOf ((allIx fun n : Fin 16 => decide (s.dma.ch[n].st = .parked)).map Fin.val))]
  else if off = 0x3004 then s.flags[slotDma]
  else if within 0x3100 0x31FF off then
    match ix 16 ((off - 0x3100) / 16) with
    | none => 0
    | some n =>
      let x := s.dma.ch[n]
      match (off - 0x3100) % 16 with
      | 0 => word [(0, x.code), (7, b01 x.inFlight), (8, b01 x.shuf), (9, b01 x.evlOvf), (12, x.prio.toNat)
          , (16, x.waitEvl.val), (24, min x.pending 255)]
      | 4 => x.cur
      | _ => 0
  else 0

/-- CAL (18_calibration.md). -/
def State.readCal (s : State) (off : Nat) : W :=
  let c := s.cal
  let rec4 := fun (v : W) => if c.loaded then v else 0
  if off = 0x3400 then c.cfg
  else if off = 0x3404 then
    word [(0, match c.aRun with | some r => 2 ^ r.hr.val | none => 0), (4, b01 c.bRun.isSome), (5, c.bSuspect.toNat)
      , (8, c.aSuspect.toNat), (12, b01 c.eolValid), (13, b01 c.eolLocked), (16, c.bValid.toNat), (20, c.aValid.toNat)]
  else if off = 0x3408 then s.flags[slotCal]
  else if within 0x3410 0x341F off then
    match ix 4 ((off - 0x3410) / 4) with
    | none => 0
    | some n => rec4 c.aRuns[n]
  else if within 0x3420 0x342F off then
    match ix 4 ((off - 0x3420) / 4) with
    | none => 0
    | some n => rec4 c.aLast[n]
  else if within 0x3430 0x343F off then
    match ix 4 ((off - 0x3430) / 4) with
    | none => 0
    | some n => rec4 (BitVec.ofNat 32 (sbits 8 c.aTemp[n]))
  else if off = 0x3440 then rec4 c.bRuns
  else if off = 0x3444 then rec4 c.bLast
  else if off = 0x3448 then rec4 c.refPpb
  else 0

/-- SAF.STAT.STATE. -/
def State.safState (s : State) : Nat :=
  if s.saf.safe then 2 else if s.pwr.st = .limp then 3 else if s.flag slotSaf 2 then 1 else 0

/-- SAF (20_safety.md). -/
def State.readSaf (s : State) (off : Nat) : W :=
  let b := s.saf
  if off = 0x3800 then word [(0, b01 b.enable), (1, b01 b.action), (31, b01 b.lock)]
  else if off = 0x3804 then
    let e := b.log[b.newest]
    word [(0, s.safState), (7, b01 s.guarantee), (8, e.cls.toNat), (16, e.code.toNat)]
  else if off = 0x3808 then s.flags[slotSaf]
  else if off = 0x380C then b.wdtCfg
  else if off = 0x381C then word [(0, b.count.toNat), (16, b.newest.val)]
  else if within 0x3880 0x38FF off then
    match ix 16 ((off - 0x3880) / 8) with
    | none => 0
    | some i =>
      let e := b.log[i]
      if (off - 0x3880) % 8 = 0 then
        word [(0, e.code.toNat), (16, e.inst.toNat), (24, e.cls.toNat), (31, b01 e.inj)]
      else e.timeMs
  else 0

/-- TRU (19_trust.md). -/
def State.readTru (s : State) (off : Nat) : W :=
  match off with
  | 0x3C00 => word [(0, s.sys.slot.toNat), (1, b01 s.sys.recovery), (8, s.tru.result0.toNat), (16, s.tru.result1.toNat)]
  | 0x3C04 => word [(0, s.tru.prefer.toNat), (1, b01 s.tru.trial)]
  | 0x3C08 => word [(0, s.tru.svnCtr), (7, b01 s.tru.oemHash.isSome), (8, s.tru.dbg.toNat)]
  | 0x3C0C => s.flags[slotTru]
  | _ => 0

/-- Milliseconds of audio that wait for the stream of a context (R10). -/
def State.ctxQueued (s : State) (c : Fin 256) : Nat :=
  match s.svc.ctx[c].streamOf with
  | none => 0
  | some k => s.aud.streams[k].queued

/-- Free milliseconds of a decoder's link: the audio that waits stands there first. -/
def State.decoderCredit (s : State) (d : Nat) : Nat :=
  match s.decoderCtx d with
  | none => 8
  | some c => 8 - s.ctxQueued c

/-- Free units of a context's output. -/
def State.outputCredit (s : State) (c : Fin 256) : Nat :=
  8 - (s.ctxQueued c - (s.svc.ctx[c].linkRoom - 8))

/-- TLM.LINK_CREDIT (R10, R504): the samples and blocks that a link's producer may still send. A race, a window and a scan bank have
read what was sent by the end of the event that delivered it; audio waits behind a full playout buffer, and a data staging link
reads the free bytes of its context. -/
def State.linkCredit (s : State) (j : Nat) : W :=
  if j < 128 then 4096
  else if j < 192 then 16
  else if j < 204 then 2
  else if j < 220 then BitVec.ofNat 32 (s.decoderCredit (j - 204))
  else if j < 476 then
    match ix 256 (j - 220) with
    | none => 0
    | some c => BitVec.ofNat 32 (s.outputCredit c)
  else
    match ix 256 (j - 476) with
    | none => 0
    | some c => BitVec.ofNat 32 (s.stagingFree c)

/-- TLM (R503, R504). -/
def State.readTlm (s : State) (off : Nat) : W :=
  if within 0x7000 0x9DBF off ∧ off % 16 = 0 then s.linkCredit ((off - 0x7000) / 16) else Tlm.get s.tlm off

/-- What a 32-bit read at a BAR0 offset returns (R490, R491); reserved offsets read 0 (R6). -/
def State.readReg (s : State) (off : Nat) : W :=
  if off < 0x400 then s.readSys off
  else if off < 0x800 then s.readHost off
  else if off < 0xC00 then s.readEvt off
  else if off < 0x1000 then s.readClk off
  else if off < 0x1400 then s.readPwr off
  else if off < 0x1800 then s.readCap off
  else if off < 0x1C00 then s.readWin off
  else if off < 0x2000 then s.readFan off
  else if off < 0x2400 then s.readAud off
  else if off < 0x2800 then s.readAcc off
  else if off < 0x2C00 then s.readTw 0 (off - 0x2800)
  else if off < 0x3000 then s.readTw 1 (off - 0x2C00)
  else if off < 0x3400 then s.readDma off
  else if off < 0x3800 then s.readCal off
  else if off < 0x3C00 then s.readSaf off
  else if off < 0x4000 then s.readTru off
  else if off < 0x10000 then s.readTlm off
  else 0

/-! ### Writes -/

/-- HOST writes (R48, R49, R70). -/
def State.writeHost (s : State) (off : Nat) (v : W) : State :=
  if off = 0x404 then
    let s := if v.getLsbD 0 then s.ringEnOn else s.ringEnOff
    { s with host := { s.host with shadowEn := v.getLsbD 1 } }
  else if off = 0x410 then
    if s.host.shadowEn then s else { s with host := { s.host with shadowLo := v &&& 0xFFFFFF80 } }
  else if off = 0x414 then
    if s.host.shadowEn then s else { s with host := { s.host with shadowHi := v } }
  else if within 0x420 0x4DF off then
    match ix 32 (8 + (off - 0x420) / 8) with
    | none => s
    | some n =>
      if s.host.rings[n].en then s
      else if (off - 0x420) % 8 = 0 then s.modRing n fun r => { r with pbufLo := v &&& 0xFFFFF000 }
      else s.modRing n fun r => { r with pbufHi := v }
  else if within 0x500 0x6FF off then
    match ix 32 ((off - 0x500) / 16) with
    | none => s
    | some n =>
      match (off - 0x500) % 16 with
      | 0 => if s.host.rings[n].en then s else s.modRing n fun r => { r with baseLo := v &&& 0xFFFFF000 }
      | 4 => if s.host.rings[n].en then s else s.modRing n fun r => { r with baseHi := v }
      | 8 => s.writeRingCfg n v
      | _ => s.modRing n fun r => { r with
          vec := BitVec.ofNat 4 (fld v 0 4), irqEn := v.getLsbD 4, coalCnt := BitVec.ofNat 8 (fld v 8 8)
          coalUs := BitVec.ofNat 16 (fld v 16 16) }
  else if within 0x700 0x7FF off then
    match ix 16 ((off - 0x700) / 16) with
    | none => s
    | some x => s.writeMsix x ((off - 0x700) % 16 / 4) v
  else s

/-- EVT.MASK: the bits of sources 0, 1 and 4 and of reserved sources stay 0 (R501). -/
def State.writeEvt (s : State) (off : Nat) (v : W) : State :=
  let set := fun (i : Fin 3) (m : W) => { s with evt := { s.evt with mask := upd s.evt.mask i fun _ => v &&& m } }
  match off with
  | 0x800 => set 0 0xFFFF00EC
  | 0x804 => set 1 0x7F1F1FFF
  | 0x808 => set 2 0xFFF1FF1F
  | _ => s

/-- PWR writes; PWR.MODE only through the mirror (R491). -/
def State.writePwr (s : State) (off : Nat) (v : W) (mirror : Bool) : State :=
  if off = 0x1004 then s.clearFlag slotPwr v
  else if off = 0x1008 then
    if mirror then { s with pwr := { s.pwr with armed := v.getLsbD 3, modeTarget := BitVec.ofNat 3 (fld v 0 3) } } else s
  else if off = 0x1010 then { s with pwr := { s.pwr with therm := v &&& 0xFFFF } }
  else if within 0x1014 0x1023 off then
    match ix 4 ((off - 0x1014) / 4) with
    | none => s
    | some k => { s with pwr := { s.pwr with wakeCfg := upd s.pwr.wakeCfg k fun _ => v &&& 0xFF0F } }
  else s

/-- A blanker register: a LEN code from 5 to 7 keeps the previous LEN (R90). -/
def Blanker.write (b : Blanker) (v : W) : Blanker :=
  let v := v &&& 0x001FF1FF
  if fld v 2 3 < 5 then { b with reg := v } else { b with reg := (v &&& 0xFFFFFFE3) ||| (b.reg &&& 0x1C) }

/-- CAP writes. -/
def State.writeCap (s : State) (off : Nat) (v : W) : State :=
  if off = 0x1500 then { s with cap := { s.cap with agc := v &&& 0x00FFFFFF } }
  else
    match ix 4 ((off - 0x1400) / 64) with
    | none => s
    | some n =>
      match (off - 0x1400) % 64 with
      | 0x00 => s.modHr n fun h => { h with ctl := v &&& 0xF1 }
      | 0x08 => s.clearFlag (slotHr n) v
      | 0x10 => s.modHr n fun h => { h with blkL := h.blkL.write v }
      | 0x14 => s.modHr n fun h => { h with blkV := h.blkV.write v }
      | 0x18 => s.modHr n fun h => { h with blkB := h.blkB.write v }
      | 0x30 => s.modFeed n fun f => { f with ctl := v &&& 0x00FF01FF }
      | 0x3C => s.clearFlag (slotFeed n) v
      | _ => s

/-- WIN writes. -/
def State.writeWin (s : State) (off : Nat) (v : W) : State :=
  if off = 0x1808 then { s with win := { s.win with scanCtl := v &&& 0xF0F } }
  else if off = 0x180C then { s with win := { s.win with cma := v &&& 0xF } }
  else if within 0x1A00 0x1BFF off ∧ off % 8 = 4 then
    match ix 64 ((off - 0x1A00) / 8) with
    | none => s
    | some w => s.clearFlag (slotSat w) v
  else s

/-- ACC writes; a write of REF sets the table entry EMPTY (R323). -/
def State.writeAcc (s : State) (off : Nat) (v : W) : State :=
  if off = 0x2404 then s.clearFlag slotAcc v
  else if off = 0x2408 then { s with acc := { s.acc with paTiming := v &&& 0xFF0F0F1F } }
  else if off = 0x240C then { s with acc := { s.acc with feGain := v } }
  else if off = 0x2410 then { s with acc := { s.acc with loss := v &&& 0x00FFFFFF } }
  else if off = 0x2414 then { s with acc := { s.acc with coexCfg := v &&& 0x3F0F } }
  else if off = 0x2418 then { s with acc := { s.acc with dpdCfg := v &&& 0xFFF1 } }
  else if within 0x2500 0x2643 off then
    match ix 81 ((off - 0x2500) / 4) with
    | none => s
    | some c => s.modSynth c fun e => { e with ref := BitVec.ofNat 2 (fld v 0 2), st := 0, born := none }
  else s

/-- TW0 and TW1 writes. -/
def State.writeTw (s : State) (p : Fin 2) (r : Nat) (v : W) : State :=
  match r with
  | 0x00 => s.modTw p fun x => { x with cfg := v &&& 0x00013F03 }
  | 0x08 => s.clearFlag (slotTw p) v
  | 0x0C => s.modTw p fun x => { x with addr := v &&& 0x7F }
  | _ => s

/-- SAF.CTL: LOCK is set by 1 and never cleared by a write; the other fields follow until LOCK is set (R5, R495).
The watchdog windows begin when ENABLE becomes 1 (R470). -/
def State.writeSafCtl (s : State) (v : W) : State :=
  if s.saf.lock then s
  else
    let kick := if v.getLsbD 0 = true ∧ s.saf.enable = false then Vector.replicate 2 s.sys.timeUs else s.saf.lastKick
    { s with saf := { s.saf with lock := v.getLsbD 31, action := v.getLsbD 1, enable := v.getLsbD 0, lastKick := kick } }

/-- SAF writes; SAF.INJECT forces a report of a code of R469 (R478). -/
def State.writeSaf (s : State) (off : Nat) (v : W) : State :=
  if off = 0x3800 then s.writeSafCtl v
  else if off = 0x3808 then s.clearFlag slotSaf v
  else if off = 0x380C then
    if s.saf.lock then s else { s with saf := { s.saf with wdtCfg := v &&& 0xF0F } }
  else if off = 0x3814 then
    if s.saf.lock = false ∧ isFaultCode (fld v 0 8) = true then s.faultRun (fld v 0 8) 0 true else s
  else if off = 0x3818 then
    if s.saf.safe ∧ v = 0x00005AFE then s.resetWarm 3 else s
  else s

/-- A 32-bit aligned write that reaches its register (R493); RO fields and reserved offsets ignore it (R5, R6). -/
def State.writeReg (s : State) (off : Nat) (v : W) (mirror : Bool) : State :=
  if off = 0x20 then s.clearFlag slotSys v
  else if off < 0x400 then s
  else if off < 0x800 then s.writeHost off v
  else if off < 0xC00 then s.writeEvt off v
  else if off = 0xC00 then { s with clk := { s.clk with xoMode := v.getLsbD 0 } }
  else if off = 0xC08 then s.clearFlag slotClk v
  else if off < 0x1000 then s
  else if off < 0x1400 then s.writePwr off v mirror
  else if off < 0x1800 then s.writeCap off v
  else if off < 0x1C00 then s.writeWin off v
  else if off = 0x1C00 then { s with fan := { s.fan with ctl := v &&& 0x000F1F01 } }
  else if off = 0x1C04 then { s with fan := { s.fan with grantRun := v } }
  else if off < 0x2000 then s
  else if off = 0x2000 then { s with aud := { s.aud with ctl := v &&& 0x3F } }
  else if off = 0x2004 then s.clearFlag slotAud v
  else if off < 0x2400 then s
  else if off < 0x2800 then s.writeAcc off v
  else if off < 0x2C00 then s.writeTw 0 (off - 0x2800) v
  else if off < 0x3000 then s.writeTw 1 (off - 0x2C00) v
  else if off = 0x3004 then s.clearFlag slotDma v
  else if off = 0x3008 then s.dmaDoorbells v
  else if off = 0x3400 then { s with cal := { s.cal with cfg := v &&& 0x11F } }
  else if off = 0x3408 then s.clearFlag slotCal v
  else if off < 0x3800 then s
  else if off < 0x3C00 then s.writeSaf off v
  else if off = 0x3C0C then s.clearFlag slotTru v
  else s

/-- A host or mirror write by the state of the device (R496): in IDLE and DOZE a host write is held, in SAFE only SAF.FLAG and
SAF.RESET take writes, and with the link down no host write arrives. -/
def State.accessWrite (s : State) (off : Nat) (v : W) (mirror : Bool) : State :=
  if s.saf.safe then
    (if s.host.dlUp = true ∧ mirror = false ∧ (off = 0x3808 ∨ off = 0x3818) then s.writeReg off v false else s)
  else if mirror then s.writeReg off v true
  else if s.host.dlUp then
    if s.pwr.st = .idle ∨ s.pwr.st = .doze then
      { s with pwr := { s.pwr with heldWrites := s.pwr.heldWrites ++ [(BitVec.ofNat 16 off, v)] } }
    else s.writeReg off v false
  else s

end Sys2Proof.Machine
end

