-- ==== Sys2Proof/Machine/PowerOps.lean ====
section
/-!
DEFINITION. The power controller's shared operations (17_power.md): level changes with their order of divider and voltage, PMIC
requests, the refusers, the entry into a sleep state with its abort points, and waking. Meanings of power commands, faults,
bulletins and the access flow use them.
-/

namespace Sys2Proof.Machine

/-- Update the PWR block. -/
def State.modPwr (s : State) (f : PwrBlk → PwrBlk) : State := { s with pwr := f s.pwr }

/-! ### Events and counts -/

/-- Source 88 with its data (R429). -/
def State.levelEvent (s : State) (code : Nat) (old : BitVec 2) : State :=
  s.raise 88 code [byte s.pwr.level.toNat, byte old.toNat, byte s.pwr.target.toNat, s.pwr.tj]

/-- Source 89 with its data (R429): code 0 refused, 1 abandoned, 2 superseded; the flag, the TLM counter and the event (R419). -/
def State.sleepEvent (s : State) (code : Fin 3) (asked kind inst point : Nat) : State :=
  let s := (s.setFlag slotPwr code.val).bump (0xBA00 + 4 * code.val) 1
  s.raise 89 code.val
    ([byte asked, byte kind, byte inst, byte point] ++ leBytes 4 (Tlm.get s.tlm (0xBA00 + 4 * code.val)).toNat)

/-! ### Levels (R408 to R413) -/

/-- VDD_CORE of a level in mV (R408). -/
def levelMv (l : BitVec 2) : Nat := match l.toNat with | 0 => 700 | 1 => 750 | 2 => 800 | _ => 880

/-- Headraces that a level allows (R408). -/
def levelHr (l : BitVec 2) : Nat := match l.toNat with | 2 => 2 | 3 => 4 | _ => 0

/-- The level in force for a target: the lower of the target and the cap (R410). -/
def State.levelFor (s : State) (t : BitVec 2) : BitVec 2 := if s.pwr.capped ∧ t = 3 then 2 else t

/-- A VDD_CORE request to the PMIC (R412). -/
def State.requestVolt (s : State) (mv : Nat) : State :=
  (s.modPwr fun p => { p with pmicWait := some mv, pmicAt := s.sys.timeUs, pmicStop := false }).twWait 1 (twWrite .voltage (s.twAddr 1) 0xA1 (leBytes 2 mv))

/-- The rail-mask request of Limp (R427). -/
def State.requestMask (s : State) (mask : Nat) : State :=
  (s.modPwr fun p => { p with pmicWait := some 0, pmicAt := s.sys.timeUs, pmicStop := false }).twWait 1 (twWrite .voltage (s.twAddr 1) 0xA4 [byte mask])

/-- Access activity that the host started (R410, R418), a Class B run among it (R441). -/
def State.hostAccess (s : State) : Bool :=
  s.acc.hostAdv || s.acc.hostScan || s.acc.hostCs || !s.acc.conns.isEmpty || s.acc.accTx.isSome ||
    s.cal.bRun.isSome

/-- A runner with a context that is not FREE. -/
def State.runnerHeld (s : State) (r : Fin 32) : Bool := !(s.ctxsOf r).isEmpty

/-- A runner fed by an open window. -/
def State.runnerFed (s : State) (r : Fin 32) : Bool := (s.windowOf r).isSome

/-- The first refuser of a lowering to a level, in the kind order of R418, lowest instance first (R410): kind and instance. -/
def State.levelRefuser (s : State) (l : BitVec 2) : Option (Nat × Nat) :=
  let runner := firstIx fun r : Fin 32 => decide (l.toNat < 2) && (s.runnerHeld r || s.runnerFed r)
  let hr := if levelHr l < s.hrRunning.length then s.hrRunning.head? else none
  let win := firstIx fun w : Fin 64 => decide (l.toNat < 2) && decide (s.win.win[w].st ≠ 0)
  match runner, hr, win with
  | some r, _, _ => some (2, r.val)
  | none, some n, _ => some (5, n.val)
  | none, none, w =>
    if l = 0 ∧ s.hostAccess = true then some (6, 0) else w.map fun w => (7, w.val)

/-- RESULT of PWR_LEVEL (R428). -/
def State.levelResult (s : State) : List Byte := [byte s.pwr.level.toNat, byte (b01 s.pwr.capped)]

/-- A lowering: the divider first, then the voltage request (R411). -/
def State.lowerLevel (s : State) (t : BitVec 2) (slot : Option Nat) : State :=
  let old := s.pwr.level
  let new := s.levelFor t
  let s := s.modPwr fun p => { p with target := t, level := new, trans := some (.level t false slot) }
  (s.levelEvent 0 old).requestVolt (levelMv new)

/-- A raise: the voltage request first (R411). -/
def State.raiseLevel (s : State) (t : BitVec 2) (slot : Option Nat) : State :=
  let s := s.modPwr fun p => { p with targetBefore := p.target, target := t, trans := some (.level t true slot) }
  s.requestVolt (levelMv (s.levelFor t))

/-- A level change without a refusal check; the target is recorded at once when the level in force already fits. -/
def State.changeLevel (s : State) (t : BitVec 2) (slot : Option Nat) : State :=
  let new := s.levelFor t
  if new = s.pwr.level then
    let s := s.modPwr fun p => { p with target := t }
    match slot with
    | none => s
    | some k => s.finishSlot 0x0801 k .ok 0 s.levelResult none
  else if new.toNat < s.pwr.level.toNat then s.lowerLevel t slot
  else s.raiseLevel t slot

/-- The governor's cap takes force (R413): at PL3 the highest-numbered running Headraces stop until two remain (R95), and the
level falls to PL2. -/
def State.applyCap (s : State) : State :=
  let s := (s.modPwr fun p => { p with capped := true, capDue := false }).setFlag slotPwr 4
  if s.pwr.level = 3 then
    let s := (s.hrRunning.drop 2).foldl (fun s n => (s.stopHr n).modHr n fun h => { h with govStop := true }) s
    (s.changeLevel s.pwr.target none).levelEvent 2 3
  else s.levelEvent 2 s.pwr.level

/-- A transition has ended: a cap that fell meanwhile applies, and the level in force follows the target (R413). -/
def State.transEnds (s : State) : State :=
  let s := s.modPwr fun p => { p with trans := none }
  let s := if s.pwr.capDue then s.applyCap else s
  if s.pwr.trans.isNone ∧ s.pwr.st = .run ∧ s.pwr.pending.isNone ∧ s.levelFor s.pwr.target ≠ s.pwr.level then
    s.changeLevel s.pwr.target none
  else s

/-- Complete the PWR_LEVEL of a slot. -/
def State.endLevelCmd (s : State) (slot : Option Nat) (st : Status) : State :=
  match slot with
  | none => s
  | some k => s.finishSlot 0x0801 k st 0 s.levelResult none

/-- A level change is acknowledged (R411, R412). -/
def State.levelAcked (s : State) (t : BitVec 2) (up : Bool) (slot : Option Nat) : State :=
  let old := s.pwr.level
  let s := if up then (s.modPwr fun p => { p with level := s.levelFor t }).levelEvent 0 old else s
  (s.endLevelCmd slot .ok).transEnds

/-- A level change whose request failed (R412): a raise leaves everything as it was, a lowering leaves the voltage unconfirmed. -/
def State.levelFailed (s : State) (up : Bool) (slot : Option Nat) : State :=
  let s := if up then s.modPwr fun p => { p with target := p.targetBefore } else s.modPwr fun p => { p with voltUnconf := true }
  let s := s.endLevelCmd slot .timeout
  let s := s.modPwr fun p => { p with trans := none }
  if s.pwr.capDue then s.applyCap else s

/-! ### Refusers of a sleep entry (R418) -/

/-- Deep states: WATCH, STOW and OFF. -/
def deepSleep (t : BitVec 3) : Bool := decide (3 ≤ t.toNat)

/-- A device-produced ring has an entry waiting to be written. -/
def State.hostWaiting (s : State) : Bool :=
  !s.host.held.isEmpty || !s.host.hciHeld.isEmpty || (allIx fun c : Fin 256 => !s.svc.ctx[c].staged.isEmpty).length ≠ 0

/-- Port p has been started. -/
def State.portRuns (s : State) (p : Fin 4) : Bool := decide (s.aud.ports[p].st ≠ 0)

/-- The instance of an audio queue among the ports: queue q belongs to port q mod 8 (R290; log 23). -/
def State.queueHeld (s : State) (p : Nat) : Bool := (allIx fun q : Fin 12 => s.aud.queues[q].en && decide (q.val % 8 = p)).length ≠ 0

/-- The first refuser at step 0, in table order, lowest instance first. `slot` is the PWR_SLEEP that asks. -/
def State.sleepRefuser (s : State) (t : BitVec 3) (slot : Option Nat) : Option (Nat × Nat) :=
  let deep := deepSleep t
  let runner := firstIx fun r : Fin 32 => if deep then s.runnerHeld r else s.runnerFed r
  let port := (List.range 8).find? fun p =>
    (match ix 4 p with | some p => s.portRuns p | none => false) || (deep && s.queueHeld p)
  let others := s.host.outstanding.any fun o => match slot with | none => true | some k => !o.is 0x0802 k
  let link := deep && (others || s.hostWaiting)
  let win := if deep then firstIx fun w : Fin 64 => decide (s.win.win[w].st ≠ 0) else none
  match runner with
  | some r => some (2, r.val)
  | none =>
    match port with
    | some p => some (3, p)
    | none =>
      if link then some (4, 0)
      else
        match s.hrRunning.head? with
        | some n => some (5, n.val)
        | none => if deep ∧ s.hostAccess = true then some (6, 0) else win.map fun w => (7, w.val)

/-! ### DMA channels held for an entry (R375) -/

/-- Every channel is held at its next descriptor boundary. -/
def State.dmaHold (s : State) : State := { s with dma := { s.dma with ch := s.dma.ch.map fun x => { x with held := true } } }

/-- A released channel goes on from where it was held: a NEXT word that is due is followed, a doorbell held is answered. -/
def State.dmaReleaseCh (s : State) (n : Fin 16) : State :=
  let s := s.modCh n fun x => { x with held := false }
  let x := s.dma.ch[n]
  match x.st with
  | .running => if x.inFlight = false ∧ x.fetchDue = false then s.dmaFollow n else s
  | .parked => if x.rung then (s.modCh n fun x => { x with rung := false }).dmaFollow n else s
  | _ => s

/-- Every channel is released. -/
def State.dmaRelease (s : State) : State := ((List.finRange 16).foldl State.dmaReleaseCh s).dmaArb

/-! ### Sleep entry (R416 to R420) -/

/-- Complete the PWR_SLEEP of a slot. -/
def State.endSleepCmd (s : State) (slot : Option Nat) (st : Status) (detail : Nat) (result : List Byte) : State :=
  match slot with
  | none => s
  | some k => s.finishSlot 0x0802 k st detail result none

/-- A refusal (R418, R419): PWR.REFUSER, the counters, source 89 CODE 0; nothing else changes. -/
def State.refuseEntry (s : State) (t : BitVec 3) (kind inst : Nat) : State :=
  let s := s.modPwr fun p => { p with
    refState := t, refKind := byte kind, refInst := byte inst, armed := false, modeTarget := 0 }
  (s.bump (0xBA0C + 4 * kind) 1).sleepEvent 0 t.toNat kind inst 0

/-- Step 0 has passed: the channels are held and the entry runs (R416). -/
def State.beginEntry (s : State) (t : BitVec 3) (slot : Option Nat) : State :=
  (s.modPwr fun p => { p with
    armed := true, modeTarget := t, levelBefore := p.level, entryAt := s.sys.timeUs, trans := some (.entry t slot 0) }).dmaHold

/-- The entry is undone in reverse order with no state changed (R417). -/
def State.unwind (s : State) : State :=
  (s.modPwr fun p => { p with trans := none, armed := false, modeTarget := 0, level := p.levelBefore }).dmaRelease

/-- The end of an unwound entry: superseded by a later request, or abandoned (R420). -/
def State.endUndone (s : State) (u : Undone) (superseded : Bool) : State :=
  let s := s.modPwr fun p => { p with undone := none }
  if superseded then
    (s.endSleepCmd u.slot .superseded 0 []).sleepEvent 2 u.dest.toNat 0 0 u.point.toNat
  else (s.endSleepCmd u.slot .aborted 0 []).sleepEvent 1 u.dest.toNat 0 0 u.point.toNat

/-- An unwound entry that still waits for its status receives it. -/
def State.settleUndone (s : State) (superseded : Bool) : State :=
  match s.pwr.undone with
  | none => s
  | some u => s.endUndone u superseded

/-- A wake event before A4 abandons the entry in progress; a doorbell leaves its status open until it is known what the doorbell
carried (R417, R420). -/
def State.abandonEntry (s : State) (doorbell : Bool) (superseded : Bool) : State :=
  match s.pwr.trans with
  | some (.entry t slot point) =>
    let u : Undone := { dest := t, slot := slot, point := point }
    let s := s.unwind
    if doorbell then s.modPwr fun p => { p with undone := some u } else (s.endUndone u superseded).transEnds
  | _ => s

/-- What WATCH and STOW lose: SRAM outside the keep region, the DMA channels and every area of general-use SRAM (R375, R415). -/
def State.loseSram (s : State) : State :=
  { s with dma := {}, mem := s.mem.filter fun e => inKeep e.1 }

/-- The root PLL stops; the logic runs on the FIO (R400). -/
def State.pllStop (s : State) : State := { s with clk := { s.clk with pllOn := false, lock := false, onPll := false, good := 0 } }

/-- The state has been reached: it is in force from now, with the command that a wake completes. -/
def State.sleepIn (s : State) (st : PwrSt) (slot : Option Nat) : State :=
  s.modPwr fun p => { p with
    st := st, trans := none, armed := false, modeTarget := 0, sleepSince := s.sys.timeUs, sleepSlot := slot }

/-- A4 of WATCH, STOW and OFF: the completion with E_OK, then the link goes down and what the state loses is lost
(R37, R416, R417). In WATCH 700 mV is requested. -/
def State.deepIn (s : State) (t : BitVec 3) (slot : Option Nat) : State :=
  let s := s.endSleepCmd slot .ok 0 []
  let s := s.linkLost.feedsOff.pllStop
  let s := s.modPwr fun p => { p with pending := none }
  match t.toNat with
  | 3 => ((s.loseSram).sleepIn .watch none).requestVolt 700
  | 4 => ((s.loseSram.radioEnd).sleepIn .stow none).modPwr fun p => { p with pwrEn := false }
  | _ => (s.radioEnd.sleepIn .off none).modPwr fun p => { p with pwrEn := false }

/-- The entry passes its next step (R416); nothing moves while a descriptor is still in progress. At A1 of an IDLE entry and at
A4 of the others the state is in force. -/
def State.entryStep (s : State) : State :=
  match s.pwr.trans with
  | some (.entry t slot point) =>
    if s.dmaInFlight ≠ 0 then s
    else
      match point.toNat, t.toNat with
      | 0, 1 => s.calBAbandon.sleepIn .idle slot
      | 0, 2 => s.calBAbandon.modPwr fun p => { p with trans := some (.entry t slot 1) }
      | 0, 3 => s.modPwr fun p => { p with level := 0, trans := some (.entry t slot 1) }
      | 0, _ => s.modPwr fun p => { p with trans := some (.entry t slot 1) }
      | 1, _ =>
        let pins : RadioPins := if t = 3 then s.acc.pins else {}
        { s.modPwr fun p => { p with trans := some (.entry t slot 2) } with acc := { s.acc with pins := pins } }
      | 2, 5 => s.deepIn t slot
      | 2, _ => s.modPwr fun p => { p with trans := some (.entry t slot 3) }
      | _, 2 => s.sleepIn .doze slot
      | _, _ => s.deepIn t slot
  | _ => s

/-! ### Waking (R423 to R426) -/

/-- Code of a state as PWR_SLEEP byte 24 has it. -/
def PwrSt.code : PwrSt → Nat
  | .idle => 1 | .doze => 2 | .watch => 3 | .stow => 4 | .off => 5 | _ => 0

/-- Milliseconds spent in the sleep state. -/
def State.msAsleep (s : State) : Nat := (s.sys.timeUs - s.pwr.sleepSince).toNat / 1000

/-- PWR.LAST_WAKE and source 90 (R429). -/
def State.woke (s : State) (src code ms : Nat) : State :=
  (s.modPwr fun p => { p with wakeFrom := byte src, wakeCode := byte code }).raise 90 code
    ([byte src, 0, 0, 0] ++ leBytes 4 (min ms (2 ^ 32 - 1)))

/-- BAR0 writes held in IDLE and DOZE take effect in arrival order once the clocks run (R496). -/
def State.applyHeld (s : State) : State :=
  let l := s.pwr.heldWrites
  l.foldl (fun s w => s.accessWrite w.1.toNat w.2 false) (s.modPwr fun p => { p with heldWrites := [] })

/-- The wake from IDLE or DOZE (R417, R425): the level in force before, the channels go on, PWR_SLEEP completes with the wake
code and the time asleep. -/
def State.lightWake (s : State) (code : Nat) : State :=
  let src := s.pwr.st.code
  let ms := s.msAsleep
  let slot := s.pwr.sleepSlot
  let s := (s.modPwr fun p => { p with st := .run, sleepSlot := none }).applyHeld
  let s := (s.dmaRelease).woke src code ms
  (s.endSleepCmd slot .ok 0 (byte code :: leBytes 4 (min ms (2 ^ 32 - 1)))).transEnds

/-- The wake stays in RUN and asks for the host (R425): a WAKE input or an alarm with HOSTWAKE, a bulletin, a class 2 fault. -/
def State.wakeStays (s : State) (code : Nat) : Bool :=
  match code with
  | 5 => match s.pwr.alarm with | some a => a.hostwake | none => false
  | 6 => true
  | 10 => true
  | _ => match ix 4 (code - 1) with | some k => decide (1 ≤ code) && s.pwr.wakeCfg[k].getLsbD 3 | none => false

/-- The host-wake request goes to the PMIC (R389). -/
def State.hostWake (s : State) : State :=
  ({ s with tw := { s.tw with hostWakeLeft := some 3 } }).twWait 1 (twWrite .hostWake (s.twAddr 1) 0xA0 [1])

/-- The wake from WATCH begins: 750 mV is requested and the PLL restarts (R425). -/
def State.watchWake (s : State) (code : Nat) : State :=
  let stay := s.wakeStays code
  let s := s.modPwr fun p => { p with waking := some (byte code), heldWake := none, stayRun := p.stayRun || stay }
  ({ s with clk := { s.clk with pllOn := true, good := 0 } }).requestVolt 750

/-- A RTC stop found outside RUN is reported at the return to RUN (R402). -/
def State.rtcReport (s : State) : State :=
  if s.clk.rtcOwed then
    let s := ({ s with clk := { s.clk with rtcOwed := false } }).setFlag slotClk 4
    s.raise 91 5 ([1, 0, 0, 0] ++ leBytes 2 s.clk.lockErr.toNat ++ leBytes 2 s.clk.refCnt.toNat)
  else s

/-- RUN at PL1 is entered from WATCH once the voltage is acknowledged and the PLL has locked (R425). -/
def State.enterRun (s : State) (code : Nat) : State :=
  let ms := s.msAsleep
  let stay := s.pwr.stayRun && !s.pwr.wakeAsked
  let old := s.pwr.level
  let s := s.modPwr fun p => { p with
    st := .run, waking := none, level := 1, target := 1, voltUnconf := false, sleepSlot := none, stayRun := false, wakeAsked := false
    badStep := none }
  let s := { s with clk := { s.clk with onPll := true } }
  let s := (s.levelEvent 0 old).woke 3 code ms
  let s := s.rtcReport
  if stay then s.hostWake else s

/-- The steps of the wake from WATCH are all ready. -/
def State.wakeCheck (s : State) : State :=
  match s.pwr.waking with
  | some c =>
    if s.pwr.st = .watch ∧ s.pwr.pmicWait.isNone ∧ s.clk.lock = true ∧ s.pwr.badStep.isNone then s.enterRun c.toNat else s
  | none => s

/-- Whether a wake code wakes a state (R423). -/
def wakes (st : PwrSt) (code : Nat) : Bool :=
  match st with
  | .idle | .doze => within 1 5 code || within 8 10 code
  | .watch => within 1 7 code || decide (code = 10)
  | .stow => within 1 5 code
  | .off => within 1 4 code
  | .hvHold => within 1 5 code
  | _ => false

/-- PWR_EN rises for the wake from STOW; the power-good of the supply monitors is awaited (R425, R488). -/
def State.stowWake (s : State) (code : Nat) : State :=
  s.modPwr fun p => { p with pwrEn := true, waking := some (byte code), badStep := none }

/-- A WAKE input in OFF starts a cold restart, PWR_EN being low already (R481, R486). -/
def State.offWake (s : State) : State := (s.resetCold true).modPwr fun p => { p with pwrEn := true }

/-- The next wake event in HV hold retries the whole wake or start (R426). -/
def State.hvRetry (s : State) (code : Nat) : State :=
  match s.pwr.waking with
  | some _ => (s.modPwr fun p => { p with st := .stow }).stowWake code
  | none => s.modPwr fun p => { p with st := .off, pwrEn := true, badStep := none }

/-- A wake event (R417, R423, R425, R426): it abandons an entry before A4, wakes the state it is listed for, or is held until
WATCH is reached. -/
def State.wakeUp (s : State) (code : Nat) : State :=
  if s.saf.safe then s
  else
    match s.pwr.st with
    | .run => if within 1 10 code then s.abandonEntry (decide (code = 8)) false else s
    | .idle | .doze => if wakes s.pwr.st code then s.lightWake code else s
    | .watch =>
      if wakes .watch code ∧ s.pwr.waking.isNone then
        if s.pwr.pmicWait.isSome then s.modPwr fun p => { p with heldWake := some (byte code) } else s.watchWake code
      else s
    | .stow => if wakes .stow code ∧ s.pwr.waking.isNone then s.stowWake code else s
    | .off => if wakes .off code ∧ s.pwr.pwrEn = false ∧ s.pwr.vbatOk ∧ s.pwr.coldHold = false then s.offWake else s
    | .hvHold => if wakes .hvHold code then s.hvRetry code else s
    | .limp => s

/-! ### Faults with their wake (R423, R469, R478) -/

/-- A fault is classified: a class 2 or 3 fault wakes the device or abandons an entry, then the Waling handles it. A class 3 fault
in WATCH leads to SAFE instead of the wake (R425). -/
def State.fault (s : State) (code inst : Nat) (inj : Bool) : State :=
  let cls := faultClass code
  let toSafe := decide (cls = 3) && s.saf.enable && decide (s.pwr.st = .watch)
  let s := if 2 ≤ cls ∧ toSafe = false then s.wakeUp 10 else s
  s.faultRun code inst inj

/-! ### PMIC answers (R412, R426) -/

/-- The bits and the monitor that acknowledge the request outstanding. -/
def pmicAcks (a : PmicAns) (mv : Nat) : Bool :=
  match a with
  | .status core rails mon => if mv = 0 then rails else core && mon
  | .failed _ => false

/-- WATCH is reached; a wake event held since A4 wakes the device (R417). -/
def State.watchReached (s : State) : State :=
  match s.pwr.heldWake with
  | none => s
  | some c => s.watchWake c.toNat

/-- The request outstanding is acknowledged. -/
def State.pmicAcked (s : State) : State :=
  match s.pwr.pmicWait with
  | none => s
  | some mv =>
    let s := s.modPwr fun p => { p with pmicWait := none, voltUnconf := if mv = 0 then p.voltUnconf else false }
    match s.pwr.trans with
    | some (.level t up slot) => s.levelAcked t up slot
    | _ =>
      if s.pwr.st = .watch then
        if s.pwr.waking.isSome then s.wakeCheck
        else if mv = 800 ∧ s.bul.winStep ≠ 0 then
          let old := s.pwr.level
          (s.modPwr fun p => { p with level := 2 }).levelEvent 0 old
        else s.watchReached
      else s

/-- The step whose report a wake waits for has not come: code 24 class 2 at its first miss, and the step waits for its repeats
(R426). -/
def State.stepMissed (s : State) (r : ReadyReport) (inst : Nat) : State :=
  if s.pwr.badStep.isSome then s
  else (s.modPwr fun p => { p with badStep := some (r, 0), badAt := s.sys.timeUs }).faultRun 24 inst false

/-- A failed request sends no further repeat. -/
def State.voltStops (s : State) : State :=
  ({ s with tw := { s.tw with voltDue := none } }).modTw 1 fun x => { x with
    queue := x.queue.filter fun t => decide (t.user ≠ TwUser.voltage) }

/-- The write of the request outstanding has been sent: none waits, runs or is due again (R412). -/
def State.voltSent (s : State) : Bool :=
  s.tw.voltDue.isNone && !(s.tw.port[1].queue ++ s.tw.port[1].run.toList).any fun t => decide (t.user = TwUser.voltage)

/-- The 2 ms deadline of the request outstanding passes (R412). -/
def State.pmicFailed (s : State) : State :=
  match s.pwr.pmicWait with
  | none => s
  | some mv =>
    let old := s.pwr.level
    let s := ((s.voltStops.modPwr fun p => { p with pmicWait := none }).setFlag slotPwr 3).levelEvent 1 old
    match s.pwr.trans with
    | some (.level _ up slot) => s.levelFailed up slot
    | _ =>
      if s.pwr.st = .watch then
        if s.pwr.waking.isSome then s.stepMissed .pmic 5
        else (s.modPwr fun p => { p with voltUnconf := decide (mv = 700) }).watchReached
      else s

/-! ### A second request (R420) -/

/-- The number by which source 89 names what was asked. -/
def PendingTarget.asked : PendingTarget → Nat
  | .level t _ => 0x10 + t.toNat
  | .sleep t _ => t.toNat

/-- The pending target is replaced: its request completes with E_SUPERSEDED. -/
def State.supersedePending (s : State) : State :=
  match s.pwr.pending with
  | none => s
  | some p =>
    let s := s.modPwr fun b => { b with pending := none }
    let s := match p with
      | .level _ slot => s.endLevelCmd slot .superseded
      | .sleep _ slot => s.endSleepCmd slot .superseded 0 []
    s.sleepEvent 2 p.asked 0 0 0

/-- A request that arrives during a level change waits as the single pending target; one that arrives during an entry has
abandoned it before it starts. -/
def State.setPending (s : State) (p : PendingTarget) : State :=
  (s.supersedePending).modPwr fun b => { b with pending := some p }

end Sys2Proof.Machine
end

