-- ==== Sys2Proof/Machine/Clock.lean ====
section
/-!
DEFINITION. Meanings of the clock events (16_clocks.md): the lock detector, the reference monitor, loss and return of lock, and
the RTC crystal.
-/

namespace Sys2Proof.Machine

/-- Update the CLK block. -/
def State.modClk (s : State) (f : ClkBlk → ClkBlk) : State := { s with clk := f s.clk }

/-- Source 91 for the root PLL or the reference (R407). -/
def State.clkEvent (s : State) (code : Nat) : State :=
  s.raise 91 code ([0, 0, 0, 0] ++ leBytes 2 s.clk.lockErr.toNat ++ leBytes 2 s.clk.refCnt.toNat)

/-! ### Loss of lock in RUN (R403) -/

/-- Headraces stop sampling: a running one waits for the clock. -/
def State.captureOut (s : State) : State :=
  { s with cap := { s.cap with hr := s.cap.hr.map fun h => { h with clockOut := h.running } } }

/-- Lock is lost: the output is gated and the logic moves to the FIO; in RUN capture stops, the radio ends its activities,
playing streams fade out and a Class A run is abandoned (R403, R438); the Waling records code 14 (R469). -/
def State.clockLoss (s : State) : State :=
  let s := ((s.modClk fun c => { c with lock := false, onPll := false, pllOn := false, good := 0 }).setFlag slotClk 0).bump 0xBA40 1
  let s := if s.pwr.st = .run ∧ s.sys.stewardUp = true then
    let s := s.modClk fun c => { c with lossInRun := true, tries := 0, outSince := s.sys.timeUs, nextTry := s.sys.timeUs }
    ((s.captureOut.calAAbandon).radioEnd).fadeAll
  else s
  (s.clkEvent 0).fault 14 0 false

/-! ### Return of lock (R405) -/

/-- Race samples of a preset's race in `us` microseconds, rounded up: 46.08, 61.44 or 92.16 MS/s (R81). -/
def raceSamples (preset us : Nat) : Nat :=
  let rate := match preset with | 1 | 2 => 4608 | 3 | 4 => 6144 | _ => 9216
  ceilDiv (us * rate) 100

/-- Each leg of window w on a Headrace that was out inserts zero samples for the outage, and its link counts them (R405, R13). -/
def State.outageLegs (s : State) (us : Nat) (w : Fin 64) : State :=
  let x := s.win.win[w]
  let n := raceSamples x.preset us
  let gone := fun (l : Leg) => s.cap.hr[l.ant].clockOut && l.stopped.isNone
  x.positions.foldl (fun s p => if (x.legs[p].map gone).getD false then s.loseSamples w p n else s) s

/-- A stream whose fade-out still runs reverses into a ramp-up (R288, R405). -/
def Stream.reverse (t : Stream) : Stream :=
  if t.st = .fadingOut ∧ t.closing = false then { t with st := .rampingUp, fadePos := 48 * t.fade - t.fadePos } else t

/-- Capture, audio and access resume. -/
def State.clockBack (s : State) : State :=
  let us := (s.sys.timeUs - s.clk.outSince).toNat
  let s := (s.openWins).foldl (State.outageLegs · us ·) s
  let s : State := { s with
    cap := { s.cap with hr := s.cap.hr.map fun h => { h with clockOut := false } }
    aud := { s.aud with
      streams := s.aud.streams.map Stream.reverse
      groups := s.aud.groups.map fun g =>
        if g.qualified then { g with txFifo := List.replicate 8 [], rxFifo := List.replicate 8 [], slip := none } else g } }
  let s := (s.modClk fun c => { c with lossInRun := false, onPll := true }).bump 0xBA44 1
  ((s.clkEvent 1).faultEnds 14).faultEnds 15

/-- Lock is declared (R399, R400): after a loss in RUN everything resumes; in a wake or a bulletin window the next step follows;
at a start the slot's start moves the clocks. -/
def State.lockDeclared (s : State) : State :=
  let s := s.modClk fun c => { c with lock := true, good := 0 }
  if s.clk.lossInRun then s.clockBack
  else if s.pwr.waking.isSome then s.wakeCheck
  else if s.sys.stewardUp then s.modClk fun c => { c with onPll := true }
  else s

/-- The window's error as CLK.LOCK_ERR holds it. -/
def errWord (err : Int) : BitVec 16 := BitVec.ofInt 16 err

/-- LOCK_WINDOW (R399): within ±2 counts in 4 consecutive windows declares lock, beyond ±8 loses it. -/
def State.lockWindow (s : State) (err : Int) : State :=
  if s.clk.pllOn then
    let s := s.modClk fun c => { c with lockErr := errWord err }
    if s.clk.lock then (if err < -8 ∨ 8 < err then s.clockLoss else s)
    else if -2 ≤ err ∧ err ≤ 2 then
      if 3 ≤ s.clk.good then s.lockDeclared else s.modClk fun c => { c with good := c.good + 1 }
    else s.modClk fun c => { c with good := 0 }
  else s

/-- LOCK_WINDOW (R399). -/
def execLockWindow (err : Int) (s : State) : Host.Outcome State Fault Refusal := .next (s.lockWindow err)

/-- REF_MISSING (R396, R399, R407): device time goes over to the FIO, and a lock held is lost. -/
def State.refMissing (s : State) : State :=
  if s.clk.refOn = true ∧ s.clk.timeFio = false then
    let s := (s.modClk fun c => { c with refOk := false, refBad := true, timeFio := true, good := 0 }).setFlag slotClk 1
    let s := s.clkEvent 2
    if s.clk.lock then s.clockLoss else s.fault 14 0 false
  else s

/-- REF_MISSING (R399). -/
def execRefMissing (s : State) : Host.Outcome State Fault Refusal := .next s.refMissing

/-- The monitor's count lies within ±7.5 % (R401). -/
def refInRange (count : Nat) : Bool := within 1137 1321 count

/-- The second consecutive count outside: out of range; a lock held is lost (R399, R401). -/
def State.refOut (s : State) : State :=
  let s := (s.modClk fun c => { c with refOk := false, refBad := true }).setFlag slotClk 2
  let s := s.clkEvent 3
  let s := if s.clk.lock then s.clockLoss else s
  s.fault 15 0 false

/-- A count in range after an outage: the reference has returned (R404, R407). -/
def State.refBack (s : State) : State :=
  (s.modClk fun c => { c with
    refBad := false, refOk := true, timeFio := false, nextTry := s.sys.timeUs + 100 }).clkEvent 4

/-- REF_MONITOR_WINDOW (R401). -/
def State.refWindow (s : State) (count : Nat) : State :=
  if s.clk.refOn then
    let s := s.modClk fun c => { c with refCnt := BitVec.ofNat 16 count }
    if refInRange count then
      let s := s.modClk fun c => { c with outRun := 0 }
      if s.clk.refBad then s.refBack else s
    else
      let s := s.modClk fun c => { c with outRun := c.outRun + 1 }
      if s.clk.outRun = 2 ∧ s.clk.refBad = false then s.refOut else s
  else s

/-- REF_MONITOR_WINDOW (R401). -/
def execRefMonitorWindow (count : Nat) (s : State) : Host.Outcome State Fault Refusal := .next (s.refWindow count)

/-- RELOCK_ATTEMPT (R404): the PLL restarts while the reference is present, at once after a loss, 10 ms after a failed attempt and 100 µs
after the reference has returned, and the attempt is counted. -/
def execRelockAttempt (s : State) : Host.Outcome State Fault Refusal :=
  .next (if s.clk.lossInRun = true ∧ s.clk.lock = false ∧ s.clk.refBad = false ∧ s.clk.nextTry.toNat ≤ s.sys.timeUs.toNat then
    s.modClk fun c => { c with pllOn := true, good := 0, triedAt := s.sys.timeUs, tries := if c.tries = 255 then 255 else c.tries + 1 } else s)

/-- RELOCK_FAIL (R404): lock has not come within 1 ms of the attempt. -/
def execRelockFail (s : State) : Host.Outcome State Fault Refusal :=
  .next (if s.clk.lossInRun = true ∧ s.clk.lock = false ∧ s.clk.pllOn = true ∧ 1000 ≤ (s.sys.timeUs - s.clk.triedAt).toNat then
    (((s.modClk fun c => { c with pllOn := false, good := 0, nextTry := s.sys.timeUs + 10000 }).setFlag slotClk 3).bump 0xBA48 1).clkEvent 6 else s)

/-- The reference has qualified (R400): outside WATCH, or in a wake out of it, the PLL is enabled. -/
def State.refQualified (s : State) : State :=
  let pll := decide (s.pwr.st ≠ .watch) || s.pwr.waking.isSome || decide (s.bul.winStep ≠ 0)
  s.modClk fun c => { c with refOk := true, refBad := false, timeFio := false, outRun := 0, pllOn := c.pllOn || pll }

/-- REF_QUALIFIED (R400). -/
def execRefQualified (s : State) : Host.Outcome State Fault Refusal :=
  .next (if s.clk.refOn = true ∧ s.clk.refOk = false then s.refQualified else s)

/-- REF_START_TIMEOUT (R400, R426): 5 ms have passed, and the reference step is not ready. -/
def execRefStartTimeout (s : State) : Host.Outcome State Fault Refusal :=
  .next (if s.clk.refOn = true ∧ s.clk.refOk = false ∧ 5000 ≤ (s.sys.timeUs - s.clk.refSince).toNat then
    (s.modClk fun c => { c with refSince := s.sys.timeUs }).stepMissed .reference 4 else s)

/-- RTC_STOP (R402): the RTC counts as not set; flag and event come at once in RUN, else at the next return to RUN. -/
def State.rtcStopped (s : State) : State :=
  let s := { s with sys := { s.sys with rtcXtal := false, rtcSet := false } }
  let s := s.modClk fun c => { c with rtcOwed := true }
  if s.pwr.st = .run then s.rtcReport else s

/-- RTC_STOP (R402). -/
def execRtcStop (s : State) : Host.Outcome State Fault Refusal := .next s.rtcStopped

end Sys2Proof.Machine
end

