-- ==== Sys2Proof/Machine/StartOps.lean ====
section
/-!
DEFINITION. Steps that a start and a wake share (R426, R427, R444, R482, R488): power-good, the loading of calibration, the entry
into Limp and into HV hold.
-/

namespace Sys2Proof.Machine

/-- The device time at which the stored Class B run ended, from its RTC time; without an RTC it is not known (DEDUCED, log 37). -/
def State.bornB (s : State) : Option D :=
  if s.sys.rtcSet then some (s.sys.timeUs - BitVec.ofNat 64 (1000000 * (BitVec.ofNat 32 s.sys.rtcSec.toNat - s.cal.bLast).toNat)) else none

/-- The stored values of a Class B part. -/
def CalBlk.part (c : CalBlk) (p : Fin 3) : Option (CalBMeas × Int) := (c.bValues.find? fun e => decide (e.1 = p)).map Prod.snd

/-- The stored synthesiser entries go into the table: VALID, but for channels excluded until a power-on reset (R320, R322). -/
def State.loadSynth (s : State) : State :=
  match if s.cal.bValid.getLsbD 0 then s.cal.part 0 else none with
  | none => s
  | some p =>
    let b := s.bornB
    let t := s.acc.synth.map fun e => if e.excluded then e else { e with st := 1, born := b, temp := p.2, retry := false }
    { s with acc := { s.acc with synth := t } }

/-- The stored pre-distortion sets and theta come into force (R339, R442). -/
def State.loadDpd (s : State) : State :=
  match if s.cal.bValid.getLsbD 1 then s.cal.part 1 else none with
  | none => { s with acc := { s.acc with dpdValid := 0 } }
  | some p =>
    { s with acc := { s.acc with
      dpdValid := 3, theta := p.1.theta, dpdTemp := Vector.replicate 2 p.2
      dpdResid := Vector.ofFn fun m : Fin 2 => (p.1.dpd.getD m.val (0, [])).1
      dpdCoef := Vector.ofFn fun m : Fin 2 => (p.1.dpd.getD m.val (0, [])).2 } }

/-- Calibration is loaded (R444): a copy that fails its CRC sets CAL.FLAG.CRC_FAIL, a class without a valid copy has no values, and
an invalid end-of-line record raises source 95 CODE 2. -/
def State.loadCal (s : State) : State :=
  let bad := s.cal.badCopies
  let c := s.cal
  let c := if bad.getLsbD 0 then { c with aValid := 0, aValues := Vector.replicate 4 [] } else c
  let c := if bad.getLsbD 1 then { c with bValid := 0, bValues := [] } else c
  let c := if bad.getLsbD 2 then { c with eolValid := false, refPpb := 0 } else c
  let s : State := { s with cal := { c with loaded := true, badCopies := 0 } }
  let s := if bad ≠ 0 then s.setFlag slotCal 2 else s
  let s := s.loadSynth.loadDpd
  if s.cal.eolValid then s else s.raiseDeferred 95 2 []

/-- The start-up self-test passes (R471); a monitor that fails it is a SELFTEST_TICK. -/
def State.selfTest (s : State) : State := { s with saf := { s.saf with selfTestOk := true } }

/-- The reference is started from off and takes the XO_MODE written (R393). -/
def State.startRef (s : State) : State :=
  s.modClk fun c => { c with refOn := true, refOk := false, refSince := s.sys.timeUs, xoNow := if c.refOn then c.xoNow else c.xoMode }

/-- Power-good of every rail (R482 step 3, R488 steps 3 to 6): the logic reset is released, the self-test runs and the reference
starts. A cold start goes on with the boot ROM at PL1's voltage; a STOW wake restores the checkpoint and enters WATCH. -/
def State.railsGood (s : State) : State :=
  let s := s.modPwr fun p => { p with badStep := none }
  let s : State := { s with saf := { s.saf with hvFault := false } }
  match s.pwr.st with
  | .off => if s.pwr.pwrEn then
      ((s.modPwr fun p => { p with st := .run, level := 1, target := 1 }).selfTest).startRef
    else s
  | .stow =>
    match s.pwr.waking with
    | none => s
    | some c =>
      let ms := s.msAsleep
      let s := s.modPwr fun p => { p with st := .watch, waking := none, level := 0, sleepSince := s.sys.timeUs }
      let s : State := if within 1 4 c.toNat then { s with acc := { s.acc with listenAt := none, listenFirst := true } } else s
      (((s.modClk fun k => { k with refOn := false }).selfTest.startRef).loadCal).woke 4 c.toNat ms
  | _ => s

/-- Number of a report (R429). -/
def reportCode : ReadyReport → Nat
  | .vddAna => 0 | .vdd18a => 1 | .vddIo => 2 | .fio => 3 | .reference => 4 | .pmic => 5 | .vddCore => 6

/-- Limp is entered (R426, R427): source 93 once the host has enabled ring 2; the rail that failed is switched off. -/
def State.enterLimp (s : State) (r : ReadyReport) : State :=
  let s := s.pllStop.radioEnd
  let s := s.hrRunning.foldl State.stopHr s
  let s := s.modPwr fun p => { p with st := .limp, waking := none, trans := none, pending := none, pmicWait := none, heldWake := none }
  let s := s.raiseDeferred 93 0 [byte (reportCode r), 3]
  match r with
  | .vddAna => (s.modPwr fun p => { p with railOff := p.railOff ||| 1 }).requestMask 6
  | .vdd18a => (s.modPwr fun p => { p with railOff := p.railOff ||| 2 }).requestMask 5
  | _ => s

/-- HV hold (R426): the logic side is held in reset with PWR_EN high and FAULT_N asserted. -/
def State.enterHvHold (s : State) : State :=
  let s := s.modPwr fun p => { p with st := .hvHold }
  { s with saf := { s.saf with hvFault := true } }

/-- The third failed repeat of a wake step (R426). -/
def State.stepFails (s : State) (r : ReadyReport) : State :=
  let s := (s.modPwr fun p => { p with badStep := none }).setFlag slotPwr 5
  match r with
  | .vddCore => s.enterHvHold
  | _ => s.enterLimp r

/-- The report of a repeated step has come, and the start or wake goes on (R426). -/
def State.stepReady (s : State) (r : ReadyReport) : State :=
  let s := s.modPwr fun p => { p with badStep := none }
  match r with
  | .pmic => (s.modPwr fun p => { p with pmicWait := none }).wakeCheck
  | .reference => s.refQualified
  | _ => s.railsGood

end Sys2Proof.Machine
end

