-- ==== Sys2Proof/Machine/CalOps.lean ====
section
/-!
DEFINITION. Operations of capture that calibration and lane faults share: conditions of a command on the clock and the level,
the start of a Class A run, and a lane that fails (R79, R80).
-/

namespace Sys2Proof.Machine

/-- The logic runs on the FIO after a loss, or the device is in Limp: the commands of R406 fail with E_FAULT (R406, R427). -/
def State.onFio (s : State) : Bool := s.clk.lossInRun || decide (s.pwr.st = .limp)

/-- The level in force is below `l`; in Limp R427 alone decides. -/
def State.below (s : State) (l : Nat) : Bool := decide (s.pwr.st ≠ .limp) && decide (s.pwr.level.toNat < l)

/-! ### Class A runs (R433, R434) -/

/-- A Headrace on which Class A can run: running, not failed, no lane and no spare retired. -/
def Headrace.calReady (h : Headrace) : Bool := h.running && !h.failed && decide (h.retired = 15) && h.takeOver.isNone

/-- A Class A run starts on Headrace n with the Tj of now; the spare comes first. -/
def State.calAStart (s : State) (n : Fin 4) (slot : Option Nat) (rest : List (Fin 4)) (stored suspect : BitVec 4) :
    State :=
  { s with cal := { s.cal with
    due := s.cal.due &&& ~~~(BitVec.ofNat 4 (2 ^ n.val))
    aRun := some { hr := n, lane := 8, repeats := 0, startTj := s.pwr.tjNow, found := [], slot := slot, rest := rest
                   stored := stored, suspect := suspect } } }

/-- CAL.CFG.TDELTA; other values act as 8. -/
def State.tDelta (s : State) : Nat := if within 2 30 (fld s.cal.cfg 0 5) then fld s.cal.cfg 0 5 else 8

/-- CAL.CFG.AUTO_A. -/
def State.autoA (s : State) : Bool := s.cal.cfg.getLsbD 8

/-- The temperature trigger of Headrace n (R433): Tj has moved by more than TDELTA, or no valid values are held. -/
def State.calTrigger (s : State) (n : Fin 4) : Bool :=
  s.autoA && (!s.cal.aValid.getLsbD n.val || decide ((s.tDelta : Int) < |s.pwr.tjNow - s.cal.aTemp[n]|))

/-- A Headrace that starts runs a trigger that passed while it was stopped (R433). -/
def State.calAtStart (s : State) (n : Fin 4) : State :=
  if s.autoA && s.cal.due.getLsbD n.val && s.cal.aRun.isNone && s.cap.hr[n].calReady then s.calAStart n none [] 0 0 else s

/-! ### Lanes (R79, R80) -/

/-- The Headrace is failed (R80): its races deliver zero samples, so its legs see substituted samples (R141), and the Waling
records code 13. -/
def State.failHr (s : State) (n : Fin 4) : State :=
  let s := s.modHr n fun h => { h with failed := true, takeOver := none }
  (s.legsStopped n).fault 13 n.val false

/-- The spare is standing in for a lane: for good, or in a calibration run. -/
def State.spareStandsIn (s : State) (n : Fin 4) : Bool :=
  decide (s.cap.hr[n].spareFor ≠ 15) || s.cap.hr[n].takeOver.isSome

/-- The spare fails: alone it is recorded as masked, standing in for a lane it takes the Headrace with it. -/
def State.spareFails (s : State) (n : Fin 4) (standing : Bool) : State :=
  if standing then s.failHr n
  else (s.modHr n fun h => { h with retired := 8, spareFailed := true }).faultRun 12 8 false

/-- A lane fails: the spare's take-over is due, unless the spare is gone. -/
def State.laneFails (s : State) (n : Fin 4) (k : Fin 8) : State :=
  if s.cap.hr[n].retired ≠ 15 ∨ s.cap.hr[n].takeOver.isSome = true then s.failHr n
  else s.modHr n fun h => { h with takeOver := some k }

/-- Lane 0 to 7 or the spare, 8, is declared failed (R78 to R80): a run on the Headrace is abandoned first (R438). -/
def State.laneFailed (s : State) (n : Fin 4) (k : Fin 9) : State :=
  let s := s.setFlag (slotHr n) 1
  if s.cap.hr[n].failed then s
  else
    let standing := s.spareStandsIn n
    let s := s.calAAbandonOn n
    match ix 8 k.val with
    | none => s.spareFails n standing
    | some k => s.laneFails n k

end Sys2Proof.Machine
end

