-- ==== Sys2Proof/Machine/Capture.lean ====
section
/-!
DEFINITION. Meanings of the capture commands and of the events of the Headraces, the antenna feeds and the smart antenna modules
(03_capture.md).
-/

namespace Sys2Proof.Machine

/-! ### Headrace commands (R93 to R95, R107) -/

/-- The Headrace that byte 24 names. -/
def cmdHr (c : CmdEntry) : Fin 4 := Fin.ofNat 4 (c.u8 24)

/-- A window leg is open on a race of Headrace n: presets 1 and 2 lie on L, 3 and 4 on V, 5 on B. -/
def State.legOn (s : State) (n : Fin 4) (preset : Nat → Bool) : Bool :=
  (s.windowsOn n).any fun w => preset s.win.win[w].preset

/-- The Headrace starts with a gain code and gain control (R93). -/
def State.startHr (s : State) (n : Fin 4) (gain : BitVec 4) (agc : Bool) : State :=
  (s.modHr n fun h => { h with
    running := true, output := false, govStop := false, gain := gain, agc := agc, clipNow := 0, lowMs := 0, gainSet := false
    clockOut := false }).calAtStart n

/-- CAP.HR_CTL.GAIN_INIT; codes 13 to 15 act as 12. -/
def Headrace.gainInit (h : Headrace) : Nat := min 12 (fld h.ctl 4 4)

/-- CAP_START: the checks in the order of R93. -/
def bodyCapStart (c : CmdEntry) (s : State) : Answer :=
  let n := cmdHr c
  let h := s.cap.hr[n]
  checked [(decide (3 < c.u8 24), .range, 24), (decide (12 < c.u8 25 ∧ c.u8 25 ≠ 0xFF), .range, 25),
      (decide (1 < c.u8 26 ∧ c.u8 26 ≠ 0xFF), .range, 26), (decide (c.u8 27 ≠ 0), .range, 27),
      (s.below 2 || (decide (s.pwr.st ≠ .limp) && decide (s.pwr.level = 2) && decide (2 ≤ s.hrRunning.length)), .power, 0),
      (s.onFio || h.failed, .fault, 0), (h.running, .state, 0)] fun _ =>
    let gain := if c.u8 25 = 0xFF then h.gainInit else c.u8 25
    let agc := if c.u8 26 = 0xFF then h.ctl.getLsbD 0 else decide (c.u8 26 = 1)
    .done (s.startHr n (BitVec.ofNat 4 gain) agc)

/-- CAP_START (R93). -/
def execCapStart (c : CmdEntry) (s : State) : Host.Outcome State Fault Refusal := .next (s.runCmd 0x0201 c (bodyCapStart c))

/-- CAP_STOP (R94, R95). -/
def bodyCapStop (c : CmdEntry) (s : State) : Answer :=
  let n := cmdHr c
  let h := s.cap.hr[n]
  checked ([(decide (3 < c.u8 24), .range, 24), (decide (1 < c.u8 25), .range, 25)] ++ rsvdBytes c 26 27 ++
      [(!h.running && !h.govStop, .state, 0),
       (h.running && decide (c.u8 25 = 0) && s.legOn n (fun _ => true), .busy, 0)]) fun _ =>
    if h.running then .done (s.stopHr n) else .done (s.modHr n fun h => { h with govStop := false })

/-- CAP_STOP (R94). -/
def execCapStop (c : CmdEntry) (s : State) : Host.Outcome State Fault Refusal := .next (s.runCmd 0x0202 c (bodyCapStop c))

/-- CAP_GAIN (R73, R76): the hold time restarts and an automatic step of this interval is discarded. -/
def bodyCapGain (c : CmdEntry) (s : State) : Answer :=
  let n := cmdHr c
  checked [(decide (3 < c.u8 24), .range, 24), (decide (12 < c.u8 25), .range, 25), (decide (1 < c.u8 26), .range, 26),
      (decide (c.u8 27 ≠ 0), .range, 27), (s.onFio, .fault, 0), (!s.cap.hr[n].running, .state, 0)] fun _ =>
    .done (s.modHr n fun h => { h with
      gain := BitVec.ofNat 4 (c.u8 25), agc := decide (c.u8 26 = 1), gainSet := true, lowMs := 0 })

/-- CAP_GAIN (R76). -/
def execCapGain (c : CmdEntry) (s : State) : Host.Outcome State Fault Refusal := .next (s.runCmd 0x0203 c (bodyCapGain c))

/-- The range of a centre in 5 kHz units (R107). -/
def centreOk (race v : Nat) : Bool := if race = 1 then within 10000 24000 v else within 32000 49000 v

/-- CAP_RACE (R82, R86): a running race settles; a stopped one takes the centre. -/
def bodyCapRace (c : CmdEntry) (s : State) : Answer :=
  let n := cmdHr c
  let v := decide (c.u8 25 = 1)
  checked ([(decide (3 < c.u8 24), .range, 24), (!within 1 2 (c.u8 25), .range, 25)] ++ rsvdBytes c 26 27 ++
      [(!centreOk (c.u8 25) (c.u32 28), .range, 28),
       (s.legOn n (fun p => if v then p = 3 ∨ p = 4 else p = 5), .busy, 0)]) fun _ =>
    let f := BitVec.ofNat 32 (c.u32 28)
    .done (s.modHr n fun h =>
      if v then { h with vCentre := f, vSettling := h.running, vSpan := h.vSpan || h.running }
      else { h with bCentre := f, bSettling := h.running, bSpan := h.bSpan || h.running })

/-- CAP_RACE (R86). -/
def execCapRace (c : CmdEntry) (s : State) : Host.Outcome State Fault Refusal := .next (s.runCmd 0x0204 c (bodyCapRace c))

/-! ### Gain and race samples (R72, R73, R82) -/

/-- Front-end gain and full-scale level of a gain code, in dB and dBm (R72). -/
def gainDb (code : Nat) : Int := -12 + 3 * code
def fullScaleDbm (code : Nat) : Int := 12 - 3 * code

/-- The gain of a code over that of code 0, in 0.001 dB: the stored ones of the end-of-line record, else the nominal one (R430, R431). -/
def State.gainOver (s : State) (n : Fin 4) (code : Nat) : Int :=
  match s.cal.eolValid, s.cal.eolGains[n][code]?, s.cal.eolGains[n][0]? with
  | true, some g, some g0 => g - g0
  | _, _, _ => 3000 * code

/-- The digital factor of the gain compensation of a Headrace, in 0.001 dB: from the sample of a change on it matches the code in force, so
that a race level refers to the full scale of code 0 at every code (R73, R83). -/
def State.compensation (s : State) (n : Fin 4) : Int := -s.gainOver n s.cap.hr[n].gain.toNat

/-- Centre of a race in units of 5 kHz (R81, R82). -/
def Headrace.units (h : Headrace) (r : Race) : Nat := match r with | .L => 3072 | .V => h.vCentre.toNat | .B => h.bCentre.toNat

/-- Phase of a race mixer at ADC sample `t` in units of 2π / 147,456: it depends on the centre and the sample count alone (R82). -/
def Headrace.mixerPhase (h : Headrace) (r : Race) (t : Nat) : Nat := h.units r * t % 147456

/-! ### Gain control (R74 to R76) -/

/-- The Headrace samples: it counts as running and its clock is there. -/
def Headrace.samples (h : Headrace) : Bool := h.running && !h.clockOut

/-- CAP.AGC.LOW_DBFS; values outside 6 to 60 act as 18. -/
def State.lowDbfs (s : State) : Nat := if within 6 60 (fld s.cap.agc 8 8) then fld s.cap.agc 8 8 else 18

/-- An ADC magnitude lies below -`db` dBFS, with full scale at 2^13 codes: magnitude / 2^13 < 10^(-db / 20), both sides raised to the
power of 20 (R74). -/
def peakBelow (db peak : Nat) : Bool := decide (peak ^ 20 * 10 ^ db < (2 ^ 13) ^ 20)

/-- CAP.AGC: CLIP_LIMIT and HOLD in ms. -/
def State.clipLimit (s : State) : Nat := fld s.cap.agc 0 8
def State.holdMs (s : State) : Nat := 10 * max 1 (fld s.cap.agc 16 8)

/-- The end of a 1 ms interval with gain control on: down by one step after too many clipped samples, else the time with a low peak
goes on or starts again. -/
def Headrace.interval (h : Headrace) (limit : Nat) (peakLow : Bool) : Headrace :=
  let h := if h.agc = true ∧ h.gainSet = false then
      if limit < h.clipNow then { h with gain := if h.gain = 0 then 0 else h.gain - 1, lowMs := 0 }
      else { h with lowMs := if peakLow then h.lowMs + 1 else 0 }
    else { h with lowMs := 0 }
  { h with clipNow := 0, gainSet := false }

/-- AGC_INTERVAL (R74, R76): `peak` is the largest ADC magnitude of the interval, in codes. -/
def execAgcInterval (n : Fin 4) (peak : Nat) (s : State) : Host.Outcome State Fault Refusal :=
  .next (if s.cap.hr[n].samples then s.modHr n fun h => h.interval s.clipLimit (peakBelow s.lowDbfs peak) else s)

/-- AGC_HOLD_EXPIRY (R74): one step up, and the hold time starts again. -/
def execAgcHoldExpiry (n : Fin 4) (s : State) : Host.Outcome State Fault Refusal :=
  let h := s.cap.hr[n]
  .next (if h.samples = true ∧ h.agc = true ∧ h.gainSet = false ∧ s.holdMs ≤ h.lowMs then
    s.modHr n fun h => { h with gain := if h.gain.toNat < 12 then h.gain + 1 else h.gain, lowMs := 0 }
  else s)

/-- The code that a clip event carries (R75, R108): 1 when this interval qualifies or one that is held back did. -/
def State.clipCode (s : State) (n : Fin 4) (whole : Bool) : Nat :=
  let held := s.evt.rate.any fun r => r.is (16 + n.val) n.val && r.held && decide (r.code = 1)
  b01 (held || (whole && decide (s.cap.hr[n].gain = 0)))

/-- CLIP_DETECTED (R75). -/
def execClipDetected (n : Fin 4) (wholeInterval : Bool) (s : State) : Host.Outcome State Fault Refusal :=
  .next (if s.cap.hr[n].samples then
    let code := s.clipCode n wholeInterval
    let s := (s.modHr n fun h => { h with clipCnt := h.clipCnt + 1, clipNow := h.clipNow + 1 }).setFlag (slotHr n) 0
    s.raiseLimited (16 + n.val) n.val code 0 1
  else s)

/-! ### Lanes (R78 to R80) -/

/-- Consecutive blocks in which a lane differed; a declared failure stays. -/
def laneCount (old : Nat) (differs : Bool) : Nat := if 4 ≤ old then 5 else if differs then old + 1 else 0

/-- The lane is out of service: it has been retired, its take-over is due, or the spare has failed. -/
def Headrace.laneOut (h : Headrace) (k : Fin 9) : Bool :=
  decide (h.retired.toNat = k.val) || decide (h.takeOver.map Fin.val = some k.val) || (decide (k = 8) && h.spareFailed)

/-- A list in ascending order. -/
def sortInts : List Int → List Int
  | [] => []
  | x :: l => (sortInts l).filter (· < x) ++ x :: (sortInts l).filter (x ≤ ·)

/-- Twice the median of a list: for an even number of values the sum of the two in the middle (log 110). -/
def median2 (l : List Int) : Int :=
  let a := sortInts l
  a.getD ((a.length - 1) / 2) 0 + a.getD (a.length / 2) 0

/-- A lane differs from the other lanes (R78): in mean by more than 2 % of the full scale of 2^13 codes, or in rms, whose square is
compared, by more than a factor of 10^(0.5 / 20). The sums run over 65,536 samples. -/
def laneDiffers (x : LaneStat) (others : List LaneStat) : Bool :=
  let m := median2 (others.map LaneStat.sum)
  let q : Nat := (median2 (others.map fun o => (o.squares : Int))).toNat
  decide (2 * 2 * 8192 * 65536 < 100 * |2 * x.sum - m|) ||
    decide (10 * q ^ (20 : Nat) < (2 * x.squares) ^ (20 : Nat)) || decide (10 * (2 * x.squares) ^ (20 : Nat) < q ^ (20 : Nat))

/-- The lanes of a block that differ, as bits. -/
def lanesDiffer (stats : List LaneStat) : BitVec 9 :=
  BitVec.ofNat 9 (bitsOf ((List.range 9).filter fun k =>
    match stats[k]? with
    | none => false
    | some x => laneDiffers x (stats.eraseIdx k)))

/-- LANE_MONITOR_BLOCK (R78): lanes that differ for 4 consecutive blocks are declared failed, the lowest first. -/
def State.laneBlock (s : State) (n : Fin 4) (differs : BitVec 9) : State :=
  let s := s.modHr n fun h => { h with laneBad := Vector.ofFn fun k => laneCount h.laneBad[k] (differs.getLsbD k.val) }
  (List.finRange 9).foldl (fun s k =>
    if s.cap.hr[n].laneBad[k] = 4 ∧ s.cap.hr[n].laneOut k = false then s.laneFailed n k else s) s

/-- LANE_MONITOR_BLOCK (R78): the sums of lanes 0 to 7 and of the spare. -/
def execLaneMonitorBlock (n : Fin 4) (stats : List LaneStat) (s : State) : Host.Outcome State Fault Refusal :=
  .next (if s.cap.hr[n].samples then s.laneBlock n (lanesDiffer stats) else s)

/-- SPARE_TAKEOVER (R79): RETIRED names the lane, and the Waling records code 12 with the lane as instance. -/
def execSpareTakeover (n : Fin 4) (s : State) : Host.Outcome State Fault Refusal :=
  .next (match s.cap.hr[n].takeOver with
    | none => s
    | some k =>
      (s.modHr n fun h => { h with takeOver := none, retired := BitVec.ofNat 4 k.val, spareFor := BitVec.ofNat 4 k.val }).faultRun
        12 k.val false)

/-! ### Races (R86, R93, R95) -/

/-- RACE_OUTPUT_START (R93): legs that waited for the Headrace see input again (R141), unless it has failed (R80). -/
def execRaceOutputStart (n : Fin 4) (s : State) : Host.Outcome State Fault Refusal :=
  let h := s.cap.hr[n]
  .next (if h.samples = true ∧ h.output = false then
    let s := s.modHr n fun h => { h with output := true }
    if h.failed then s else s.legsReturned n
  else s)

/-- RACE_CENTRE_SETTLED (R86): `b` names the B race, else the V race; legs opened on it see its samples from now on. -/
def execRaceCentreSettled (n : Fin 4) (b : Bool) (s : State) : Host.Outcome State Fault Refusal :=
  .next (s.modHr n fun h => if b then { h with bSettling := false } else { h with vSettling := false })

/-- HEADRACE_GOV_RESTART (R95): at PL3 the Headraces that the governor stopped restart with their gain and gain control. -/
def execHeadraceGovRestart (s : State) : Host.Outcome State Fault Refusal :=
  .next (if s.pwr.st = .run ∧ s.pwr.level = 3 then
    (allIx fun n : Fin 4 => s.cap.hr[n].govStop).foldl (fun s n => s.startHr n s.cap.hr[n].gain s.cap.hr[n].agc) s
  else s)

/-! ### The impulse blanker (R87 to R92) -/

/-- LEN of a blanker register. -/
def blkLen (v : W) : Nat := match fld v 2 3 with | 0 => 3 | 1 => 5 | 2 => 7 | 3 => 9 | _ => 15
/-- The rank position in use: 0 and values beyond LEN select the median. -/
def blkRank (v : W) : Nat :=
  let r := fld v 5 4
  if r = 0 ∨ blkLen v < r then (blkLen v + 1) / 2 else r
/-- RATIO in use. -/
def blkRatio (v : W) : Nat := min 256 (max 24 (fld v 12 9))

/-- A number put in its place in an ascending list. -/
def insertAsc (x : Nat) : List Nat → List Nat
  | [] => [x]
  | y :: l => if x ≤ y then x :: y :: l else y :: insertAsc x l

/-- A list in ascending order. -/
def sortAsc (l : List Nat) : List Nat := l.foldr insertAsc []

/-- The samples of a list that have the magnitude at a rank position, counted from the smallest. -/
def rankSamples (l : List IQ) (rank : Nat) : List IQ :=
  let m := (sortAsc (l.map mag2)).getD (rank - 1) 0
  l.filter fun x => decide (mag2 x = m)

/-- The LEN samples centred on position `i` of a list; beyond its ends zeros. -/
def blkWindow (len : Nat) (l : List IQ) (i : Nat) : List IQ :=
  (List.range len).map fun j => if len / 2 ≤ i + j then l.getD (i + j - len / 2) (0, 0) else (0, 0)

/-- Whether the sample at position `i` triggers: its magnitude exceeds RATIO / 16 times the rank sample's (R87). -/
def blkTrigger (v : W) (l : List IQ) (i : Nat) : Bool :=
  match rankSamples (blkWindow (blkLen v) l i) (blkRank v) with
  | [] => false
  | r :: _ => decide (blkRatio v * blkRatio v * mag2 r < 256 * mag2 (l.getD i (0, 0)))

/-- The rank sample that replaces a triggering sample; among samples of equal magnitude the spec names none, and `k` chooses. -/
def rankSample (v : W) (l : List IQ) (i k : Nat) : IQ :=
  match rankSamples (blkWindow (blkLen v) l i) (blkRank v) with
  | [] => (0, 0)
  | [r] => r
  | r :: rs => (r :: rs).getD (Config.freeNat k % (rs.length + 1)) r

/-- The taper factor at distance `d` from a triggering sample, in quarters (R88). -/
def taper (d : Nat) : Nat := if d = 0 then 0 else if d ≤ 3 then d else 4

/-- The smallest factor that applies to position `i` (R88, R91), from the positions that trigger. -/
def taperAt (trig : List Nat) (i : Nat) : Nat :=
  trig.foldl (fun m t => min m (taper (if t ≤ i then i - t else t - i))) 4

/-- A sample in quarters of the LSB, scaled by a factor in quarters. -/
def scaleQ (f : Nat) (x : IQ) : IQ := ((f : Int) * x.1, (f : Int) * x.2)

/-- The position of the 513th trigger, from which the rest of the block passes unchanged (R92). -/
def overloadFrom (trig : List Nat) : Option Nat := (trig.drop 512).head?

/-- One block through the blanker with setting `v` (R87 to R92): the output in quarter LSB, the triggers that were acted on, and
whether the overload was met. Positions count from the first sample of `pre`, whose triggers the setting `old` of the previous block
decides (R90); a previous block that ended in overload gives no taper. `k` numbers the free choices. The spec does not say whether a
sample that the taper scales counts as blanked: the model counts the triggering samples alone (DESIGN CHOICE, log 111). -/
def blank (old v : W) (b : BlankBlock) (prevOver : Bool) (k : Nat) : List IQ × Nat × Bool :=
  let all := (b.pre ++ b.samples ++ b.post).map RaceIQ.value
  let lo := b.pre.length
  let hi := lo + b.samples.length
  if v.getLsbD 0 then
    let trig := (List.range all.length).filter fun i => blkTrigger v all i
    let mine := trig.filter fun i => decide (lo ≤ i) && decide (i < hi)
    let ovl := overloadFrom mine
    let acted := match ovl with
      | none => mine
      | some e => mine.filter fun i => decide (i ≤ e)
    let before := if prevOver ∨ old.getLsbD 0 = false then [] else (List.range lo).filter fun i => blkTrigger old all i
    let after := trig.filter fun i => decide (hi ≤ i)
    let outs := (List.range b.samples.length).map fun j =>
      let i := lo + j
      let x := all.getD i (0, 0)
      let rest := match ovl with | none => false | some e => decide (e < i)
      if rest then scaleQ 4 x
      else if v.getLsbD 1 then scaleQ (taperAt (before ++ acted ++ after) i) x
      else if acted.contains i then scaleQ 4 (rankSample v all i (k + j))
      else scaleQ 4 x
    (outs, acted.length, ovl.isSome)
  else (b.samples.map fun x => scaleQ 4 (RaceIQ.value x), 0, false)

/-- A blanker after a block: the register takes force at the block's start (R90). -/
def Blanker.step (x : Blanker) (b : BlankBlock) (k : Nat) : Blanker × Bool :=
  let r := blank x.inForce x.reg b (decide (512 < x.triggered)) k
  ({ x with inForce := x.reg, triggered := if r.2.2 then 513 else r.2.1, count := x.count + BitVec.ofNat 32 r.2.1, output := r.1 }
  , r.2.2)

/-- The blanker of a race. -/
def Headrace.blk (h : Headrace) (r : Race) : Blanker := match r with | .L => h.blkL | .V => h.blkV | .B => h.blkB
def Headrace.setBlk (h : Headrace) (r : Race) (b : Blanker) : Headrace :=
  match r with | .L => { h with blkL := b } | .V => { h with blkV := b } | .B => { h with blkB := b }

/-- Overload flag of a race (CAP.HR_FLAG). -/
def ovlBit (r : Race) : Nat := match r with | .L => 2 | .V => 3 | .B => 4

/-- What a failed Headrace gives its blankers: zero samples on its three races (R80). -/
def silentBlock (b : BlankBlock) : BlankBlock :=
  { pre := b.pre.map fun _ => (0, 0), samples := b.samples.map fun _ => (0, 0), post := b.post.map fun _ => (0, 0) }

/-- Address of a race's buffer of 4,096 samples (R30): the 12 buffers in the order of the races and Headraces in TLM's links (log 112). -/
def raceBuffer (n : Fin 4) (r : Race) : Nat := 0x20410000 + 24576 * (3 * n.val + match r with | .L => 0 | .V => 1 | .B => 2)

/-- A blanked sample as the race buffer holds it: I, then Q, 24 bits each, least significant byte first (R30, R83). -/
def raceBytes (x : IQ) : List Byte :=
  leBytes 3 (BitVec.ofInt 24 (quotAt 88 x.1 4)).toNat ++ leBytes 3 (BitVec.ofInt 24 (quotAt 88 x.2 4)).toNat

/-- BLANKER_BLOCK (R90, R92): the block's output fills the race buffer (R30). -/
def execBlankerBlock (n : Fin 4) (r : Race) (b : BlankBlock) (s : State) : Host.Outcome State Fault Refusal :=
  .next (if s.cap.hr[n].samples then
    let b := if s.cap.hr[n].failed then silentBlock b else b
    let x := (s.cap.hr[n].blk r).step b s.freeCnt
    let s : State := { s with freeCnt := s.freeCnt + b.samples.length }
    let s := s.modHr n fun h => h.setBlk r x.1
    let s := s.store (raceBuffer n r) (x.1.output.flatMap raceBytes)
    if x.2 then s.setFlag (slotHr n) (ovlBit r) else s
  else s)

/-! ### Antenna feeds (R96 to R98) -/

/-- Source 20 + n with its CODE and further data. -/
def State.feedEvent (s : State) (n : Fin 4) (code : Nat) (more : List Byte) : State :=
  s.raise (20 + n.val) code ([byte n.val, 0, 0, 0] ++ more)

/-- Source 24 + n. -/
def State.moduleEvent (s : State) (n : Fin 4) (code : Nat) (more : List Byte) : State :=
  s.raise (24 + n.val) code ([byte n.val, 0, 0, 0] ++ more)

/-- A feed switches on towards its set voltage; after at least 30 minutes off a thermal cycle of its module is counted (R103). The spec
does not say whether time before a power-on reset counts as off: device time starts there, and the model counts from it (DESIGN CHOICE,
log 113). -/
def Feed.rampUp (f : Feed) (now : D) : Feed :=
  if f.on then { f with st := .ramping }
  else
    { f with
      on := true, st := .ramping, onSince := now, noModuleRaised := false
      mramCycles := if f.mramId ≠ [] ∧ 1800000000 ≤ (now - f.offSince).toNat then f.mramCycles + 1 else f.mramCycles }

/-- CAP.FEED_CTL.VOLT; values outside 50 to 120 act as 50. -/
def Feed.defaultVolt (f : Feed) : Nat := if within 50 120 (fld f.ctl 0 8) then fld f.ctl 0 8 else 50

/-- The CAP_FEEDs that wait for the ramp of feed n complete. -/
def State.endFeedCmd (s : State) (n : Fin 4) (st : Status) : State :=
  let ids := s.cap.feed[n].waiting
  ids.foldl (fun s k => s.finishSlot 0x0205 k st 0 [] none) (s.modFeed n fun f => { f with waiting := [] })

/-- CAP_FEED (R96, R97): ON = 1 completes at the end of the ramp; ON = 0 ends one that still waits for its ramp, before it took
effect, with E_ABORTED (R57). A short or SHUTOFF that the command ends raises no CODE 3: R108 does not say that it does (DESIGN CHOICE, log
114). -/
def bodyCapFeed (c : CmdEntry) (s : State) : Answer :=
  let n := cmdHr c
  let now := s.sys.timeUs
  checked [(decide (3 < c.u8 24), .range, 24), (decide (1 < c.u8 25), .range, 25),
      (decide (c.u8 26 ≠ 0) && !within 50 120 (c.u8 26), .range, 26), (decide (c.u8 27 ≠ 0), .range, 27)] fun _ =>
    if c.u8 25 = 1 then
      .wait (s.modFeed n fun f =>
        let v := if c.u8 26 = 0 then f.defaultVolt else c.u8 26
        { f.rampUp now with volt := BitVec.ofNat 8 v, retries := 0, shorted := false, waiting := f.waiting ++ [c.id] })
    else
      .done ((s.modFeed n fun f => { f.off now .off with wanted := false, retries := 0, shorted := false }).endFeedCmd n .aborted)

/-- CAP_FEED (R96). -/
def execCapFeed (c : CmdEntry) (s : State) : Host.Outcome State Fault Refusal := .next (s.runCmd 0x0205 c (bodyCapFeed c))

/-- FEED_RAMP_DONE (R96). -/
def execFeedRampDone (n : Fin 4) (s : State) : Host.Outcome State Fault Refusal :=
  .next (if s.cap.feed[n].st = .ramping then (s.modFeed n fun f => { f with st := .on }).endFeedCmd n .ok else s)

/-- FEED_MEASURE (R96): a feed that measures its current without a new short after a retry reports that the short has ended. -/
def execFeedMeasure (n : Fin 4) (ma2 : BitVec 16) (s : State) : Host.Outcome State Fault Refusal :=
  .next (
    let s := s.modFeed n fun f => { f with ma2 := ma2 }
    let f := s.cap.feed[n]
    if f.st = .on ∧ f.shorted = true then (s.modFeed n fun f => { f with shorted := false }).feedEvent n 3 [] else s)

/-- FEED_LOWBAT (R96). -/
def execFeedLowbat (n : Fin 4) (out : BitVec 16) (s : State) : Host.Outcome State Fault Refusal :=
  .next (if s.cap.feed[n].on then (s.setFlag (slotFeed n) 2).feedEvent n 5 (leBytes 2 out.toNat) else s)

/-- What a short leaves (R97): a retry pending with AUTO_RETRY, SHUTOFF after the third failed one; without AUTO_RETRY the feed is off,
and FEED_STAT.STATE, for which the spec gives no value then, reads 0 (DESIGN CHOICE, log 115). -/
def Feed.shortState (f : Feed) : FeedState :=
  if f.ctl.getLsbD 8 = false then .off else if f.retries = 3 then .shutoff else .shorted

/-- FEED_SHORT (R97): the feed switches off, and a feed that stays off is no longer one that is on in RUN (R98). -/
def execFeedShort (n : Fin 4) (ma2 : BitVec 16) (s : State) : Host.Outcome State Fault Refusal :=
  .next (if s.cap.feed[n].on then
    let st := s.cap.feed[n].shortState
    let s := s.modFeed n fun f => { f.off s.sys.timeUs st with shorted := true, wanted := f.wanted && decide (st = .shorted) }
    let s := (s.setFlag (slotFeed n) 0).feedEvent n 1 (leBytes 2 ma2.toNat)
    let s := if st = .shutoff then (s.setFlag (slotFeed n) 3).feedEvent n 4 [] else s
    s.endFeedCmd n .fault
  else s)

/-- FEED_RETRY (R97): up to three retries, 1 s after each short; outside RUN only within a reception window (R98). -/
def execFeedRetry (n : Fin 4) (s : State) : Host.Outcome State Fault Refusal :=
  .next (if s.cap.feed[n].st = .shorted ∧ (s.pwr.st = .run ∨ 2 ≤ s.bul.winStep.toNat) then
    s.modFeed n fun f => { f.rampUp s.sys.timeUs with retries := f.retries + 1 }
  else s)

/-- A module that is treated as absent: its on-time so far is kept, and life is not tracked (R97, R100, R101). -/
def Feed.untracked (f : Feed) (now : D) (present : Bool) : Feed :=
  { f with
    mramMinutes := f.mramMinutes + f.minutesOn now, onSince := if f.staticOk then now else f.onSince
    present := present, staticOk := false, lifeOk := false, lifePct := 255, lifeRetry := false }

/-- FEED_OPEN (R97). -/
def execFeedOpen (n : Fin 4) (s : State) : Host.Outcome State Fault Refusal :=
  .next (if s.cap.feed[n].st = .on then
    ((s.modFeed n fun f => { f.untracked s.sys.timeUs false with st := .opened }).setFlag (slotFeed n) 1).feedEvent n 2 []
  else s)

/-- FEED_OPEN_RECOVERY (R97): the record is read afresh by the MODULE_RECORD_READ that follows. -/
def execFeedOpenRecovery (n : Fin 4) (s : State) : Host.Outcome State Fault Refusal :=
  .next (if s.cap.feed[n].st = .opened then (s.modFeed n fun f => { f with st := .on }).feedEvent n 3 [] else s)

/-! ### Module gain (R99 to R102) -/

/-- The entries of GAIN_TABLE: frequency in 10 kHz and gain in 0.01 dB; an entry with frequency 0 ends the table (R99). -/
def gainTable (r : List Byte) : List (Nat × Int) :=
  ((List.range 24).map fun i => (leNat (slice r (40 + 4 * i) 2), (BitVec.ofNat 16 (leNat (slice r (42 + 4 * i) 2))).toInt)).takeWhile
    fun e => decide (e.1 ≠ 0)

/-- The gain at `hz` from entry `a` on, as a fraction of 0.01 dB: linear in dB up to the next entry, the last entry's beyond it (R102). -/
def gainFrom (hz : Nat) : Nat × Int → List (Nat × Int) → Int × Nat
  | a, [] => (a.2, 1)
  | a, b :: l =>
    if hz ≤ 10000 * b.1 then
      let d := 10000 * (b.1 - a.1)
      (a.2 * d + (b.2 - a.2) * ((hz : Int) - 10000 * a.1), d)
    else gainFrom hz b l

/-- The gain at `hz` of a table: below its first entry that entry's (R102). -/
def tableGain (hz : Nat) : List (Nat × Int) → Int × Nat
  | [] => (0, 1)
  | a :: l => if hz ≤ 10000 * a.1 then (a.2, 1) else gainFrom hz a l

/-- The module gain of a feed's antenna at `hz`: flat 0 dB where no module answers or its static part fails (R100, R101). -/
def Feed.gain (f : Feed) (hz : Nat) : Int × Nat := if f.present && f.staticOk then tableGain hz (gainTable f.record) else (0, 1)

/-- An absolute level report in 0.25 dBm for a power in 0.01 dBm at the RF_INn pin: the module gain is taken off (R102); how the
difference is rounded the spec does not state (log 105). -/
def Feed.level (f : Feed) (hz : Nat) (power : Int) : Int :=
  let g := f.gain hz
  quotAt 102 (power * g.2 - g.1) (25 * g.2)

/-! ### Module records (R99 to R106) -/

/-- The static part passes (R101): MAGIC, FORMAT and CRC_STATIC. -/
def staticPasses (r : List Byte) : Bool :=
  decide (slice r 0 4 = [0x45, 0x56, 0x41, 0x4D]) && decide (r.getD 4 0 = 1) &&
    decide (leNat (slice r 188 4) = (crc32c (slice r 0 188)).toNat)

/-- A life copy at an offset, if its CRC holds: SEQ, POWERED_HOURS, CYCLES. -/
def lifeCopy (r : List Byte) (off : Nat) : Option (W × W × W) :=
  let b := slice r off 32
  if leNat (slice b 28 4) = (crc32c (slice b 0 28)).toNat then
    some (BitVec.ofNat 32 (leNat (slice b 0 4)), BitVec.ofNat 32 (leNat (slice b 4 4)), BitVec.ofNat 32 (leNat (slice b 8 4)))
  else none

/-- The 32 bytes of a life copy. -/
def lifeBytes (seq hours cycles : W) : List Byte :=
  let b := leBytes 4 seq.toNat ++ leBytes 4 hours.toNat ++ leBytes 4 cycles.toNat ++ List.replicate 16 0
  b ++ leBytes 4 (crc32c b).toNat

/-- The current copy (R103): true for B, with its counters. With two valid copies of equal SEQ the spec names none: copy A (DESIGN CHOICE,
log 116). -/
def currentLife (r : List Byte) : Option (Bool × W × W × W) :=
  match lifeCopy r 192, lifeCopy r 224 with
  | some a, some b => if a.1.toNat < b.1.toNat then some (true, b) else some (false, a)
  | some a, none => some (false, a)
  | none, some b => some (true, b)
  | none, none => none

/-- One term of R105 in whole per cent, clamped at 0; none while the rating is 0. -/
def lifeTerm (rated used : Nat) : Option Nat := if rated = 0 then none else some (100 * (rated - used) / rated)

/-- LIFE_PCT (R105). -/
def lifePercent (r : List Byte) (hours cycles : W) : Nat :=
  match lifeTerm (leNat (slice r 32 4)) hours.toNat, lifeTerm (leNat (slice r 36 4)) cycles.toNat with
  | some a, some b => min a b
  | some a, none => a
  | none, some b => b
  | none, none => 255

/-- LIFE_PCT is taken, and CODE 3 raised when it falls below 10 % (R105). The spec does not say whether a replacement module below 10 %
after one at 10 % or more is such a fall: the model raises CODE 3 (DESIGN CHOICE, log 117). -/
def State.setLifePct (s : State) (n : Fin 4) : State :=
  let f := s.cap.feed[n]
  let p := lifePercent f.record f.lifeHours f.lifeCycles
  let old := f.lifePct.toNat
  let s := s.modFeed n fun f => { f with lifePct := byte p }
  if old ≠ 255 ∧ 10 ≤ old ∧ p < 10 then s.moduleEvent n 3 [byte p] else s

/-- A copy is written: the image held and the counters follow. -/
def Feed.writeLife (f : Feed) (toB : Bool) (seq hours cycles : W) : Feed :=
  { f with
    lifeB := toB, lifeSeq := seq, lifeHours := hours, lifeCycles := cycles, lifeOk := true, lifeRetry := false
    record := overlay f.record (if toB then 224 else 192) (lifeBytes seq hours cycles) }

/-- The counters of a module whose record has passed (R103, R104, R106): from the current copy, or from MRAM for the same module,
or from 0; in a record without a valid copy the next write is copy A with SEQ 1. `same` says that MRAM holds this MODULE_ID. -/
def Feed.takeLife (f : Feed) (same : Bool) (now : D) : Feed :=
  let keepH := if same then f.mramHours else 0
  let keepC := if same then f.mramCycles else 0
  let f := match currentLife f.record with
    | some (b, seq, h, c) => { f with
        lifeB := b, lifeSeq := seq, lifeHours := h, lifeCycles := c, lifeOk := true, lifeRetry := false
        mramHours := if keepH < h then h else keepH, mramCycles := if keepC < c then c else keepC }
    | none => { f with
        lifeB := true, lifeSeq := 0, lifeHours := keepH, lifeCycles := keepC, lifeOk := false, mramHours := keepH, mramCycles := keepC }
  { f with mramId := slice f.record 8 8, mramMinutes := if same then f.mramMinutes else 0
           onSince := if same then f.onSince else now }

/-- A life-counter write that has been acknowledged and read back: the other copy with SEQ + 1 (R103). -/
def State.lifeWritten (s : State) (n : Fin 4) : State :=
  (s.modFeed n fun f => f.writeLife (!f.lifeB) (f.lifeSeq + 1) f.mramHours f.mramCycles).setLifePct n

/-- A life-counter write: one that is not acknowledged or fails its read-back waits for its retry (R104). -/
def State.lifeWrite (s : State) (n : Fin 4) (written : Bool) : State :=
  if written then s.lifeWritten n else s.modFeed n fun f => { f with lifeRetry := true }

/-- The static part has passed: CODE 1 on another MODULE_ID than MRAM's, CODE 2 when no life copy is valid, then the counters, and copy A
where no copy was valid (R103 to R106). -/
def State.adoptModule (s : State) (n : Fin 4) (written : Bool) : State :=
  let f := s.cap.feed[n]
  let id := slice f.record 8 8
  let same := decide (f.mramId = id)
  let s := if same = false ∧ f.mramId ≠ [] then s.moduleEvent n 1 id else s
  let none := (currentLife f.record).isNone
  let s := if none then s.moduleEvent n 2 [1] else s
  let s := (s.modFeed n fun f => { f.takeLife same s.sys.timeUs with staticOk := true }).setLifePct n
  if none then s.lifeWrite n written else s

/-- A record as read (R100, R101, R106). -/
def State.readModule (s : State) (n : Fin 4) (r : List Byte) (written : Bool) : State :=
  let s := s.modFeed n fun f => { f with record := padTo 256 r, present := true }
  if staticPasses r then s.adoptModule n written
  else (s.modFeed n fun f => f.untracked s.sys.timeUs true).moduleEvent n 2 [0]

/-- No target answers at 0x50 + n (R100). -/
def State.noModule (s : State) (n : Fin 4) : State :=
  let raised := s.cap.feed[n].noModuleRaised
  let s := s.modFeed n fun f => { f.untracked s.sys.timeUs false with noModuleRaised := true }
  if raised then s else s.moduleEvent n 4 []

/-- The transfers on TW0 that a record read or a life-counter write takes: at least one, their number the spec does not state (R503). -/
def State.moduleTraffic (s : State) (acked : Bool) : State :=
  let k := s.takeFree
  let s := k.2.bump 0xB900 (1 + Config.freeNat k.1)
  if acked then s else s.bump 0xB904 1

/-- What the port gets from a module: nothing while it is STUCK (R383). -/
def State.moduleAnswer (s : State) (answer : Option (List Byte)) : Option (List Byte) := if s.tw.port[0].stuck then none else answer

/-- The bus is used for module n unless the port is STUCK. -/
def State.moduleBus (s : State) (acked : Bool) : State := if s.tw.port[0].stuck then s else s.moduleTraffic acked

/-- MODULE_RECORD_READ (R100, R104). -/
def execModuleRecordRead (n : Fin 4) (answer : ModuleRead) (s : State) : Host.Outcome State Fault Refusal :=
  .next (if s.cap.feed[n].on then
    match s.moduleAnswer answer.record with
    | none => (s.moduleBus false).noModule n
    | some r => (s.moduleBus true).readModule n r answer.written
  else s)

/-- RESULT and image of CAP_MODULE. -/
def State.moduleImage (s : State) (n : Fin 4) : Answer :=
  let f := s.cap.feed[n]
  .ok s (slice f.record 8 8 ++ [f.lifePct, byte (f.modWord.toNat % 256)]) (some (padTo 256 f.record))

/-- CAP_MODULE (R107): with REREAD = 1 the record is read first. -/
def bodyCapModule (c : CmdEntry) (answer : ModuleRead) (s : State) : Answer :=
  let n := cmdHr c
  let reread := decide (c.u8 25 = 1)
  checked ([(decide (3 < c.u8 24), .range, 24), (decide (1 < c.u8 25), .range, 25)] ++ rsvdBytes c 26 27 ++
      [(reread && !s.cap.feed[n].on, .state, 0), (reread && s.tw.port[0].stuck, .bus, 0)]) fun _ =>
    match reread, answer.record with
    | true, some r => ((s.moduleTraffic true).readModule n r answer.written).moduleImage n
    | true, none => .part (s.moduleTraffic false) .nack 0 []
    | false, _ => s.moduleImage n

/-- CAP_MODULE (R107). -/
def execCapModule (c : CmdEntry) (answer : ModuleRead) (s : State) : Host.Outcome State Fault Refusal :=
  .next (s.runCmd 0x0206 c (bodyCapModule c answer))

/-- An hour of on-time moves from the minutes into the hours (R103). -/
def Feed.takeHour (f : Feed) (now : D) : Feed :=
  let m := f.minutesOn now
  { f with
    mramMinutes := f.mramMinutes + m - 60, onSince := f.onSince + BitVec.ofNat 64 (60000000 * m)
    mramHours := (if f.mramHours < f.lifeHours then f.lifeHours else f.mramHours) + 1 }

/-- LIFE_HOURLY_WRITE (R103, R104, R106): MODULE_ID is compared first; another module is adopted and receives no write. -/
def State.hourlyWrite (s : State) (n : Fin 4) (record : Option (List Byte)) (written : Bool) : State :=
  match s.moduleAnswer record with
  | some r =>
    let s := s.moduleBus written
    if slice r 8 8 = s.cap.feed[n].mramId then
      (s.modFeed n fun f => f.takeHour s.sys.timeUs).lifeWrite n written
    else s.readModule n r written
  | none => (s.moduleBus false).modFeed n fun f => { f.takeHour s.sys.timeUs with lifeRetry := true }

/-- The hourly write of a module is due (R103). -/
def Feed.lifeDue (f : Feed) (now : D) : Bool :=
  f.on && f.staticOk && decide (60 ≤ f.mramMinutes + f.minutesOn now)

/-- A life-counter write of the module has waited 60 s for TW0 (R33). -/
def Feed.lifeOwed (f : Feed) (now : D) : Bool :=
  (f.lifeDue now || (f.on && f.lifeRetry)) &&
    match f.lifeWait with
    | some t => decide (60000000 ≤ (now - t).toNat)
    | none => false

/-- A life-counter write yields TW0: a transaction runs there, or one waits and the write has not waited 60 s (R33, R388). -/
def State.lifeYields (s : State) (n : Fin 4) : Bool :=
  let x := s.tw.port[0]
  x.run.isSome || (!x.queue.isEmpty && !s.cap.feed[n].lifeOwed s.sys.timeUs)

/-- A life-counter write runs at a boundary that is its own; otherwise it waits (R33). -/
def State.lifeTurn (s : State) (n : Fin 4) (go : State → State) : State :=
  if s.lifeYields n then s.modFeed n fun f => { f with lifeWait := some (f.lifeWait.getD s.sys.timeUs) }
  else go (s.modFeed n fun f => { f with lifeWait := none })

/-- LIFE_HOURLY_WRITE (R103). -/
def execLifeHourlyWrite (n : Fin 4) (record : Option (List Byte)) (written : Bool) (s : State) :
    Host.Outcome State Fault Refusal :=
  .next (if s.cap.feed[n].lifeDue s.sys.timeUs then s.lifeTurn n fun s => s.hourlyWrite n record written else s)

/-- LIFE_WRITE_RETRY (R104): a second failure raises CODE 5 and leaves the counts in MRAM. -/
def execLifeWriteRetry (n : Fin 4) (written : Bool) (s : State) : Host.Outcome State Fault Refusal :=
  .next (if s.cap.feed[n].lifeRetry then s.lifeTurn n fun s =>
    let done := written && !s.tw.port[0].stuck
    let s := s.moduleBus done
    if done then s.lifeWritten n
    else (s.modFeed n fun f => { f with lifeRetry := false }).moduleEvent n 5 []
  else s)

end Sys2Proof.Machine
end

