-- ==== Sys2Proof/Machine/CtxOps.lean ====
section
/-!
DEFINITION. The service contexts' life (R19 to R24) and what the Fantail holds of them: opening and closing, release of a shadow,
the end of a blend, and the way a window that the Fantail holds yields to the host (R219). The window, service and following
commands use these.
-/

namespace Sys2Proof.Machine

/-! ### Components (R182, R210) -/

/-- ADDR of a DAB or DRM component. -/
def compAddr (w : W) : Nat := fld w 28 4
/-- FORM. -/
def compForm (w : W) : Nat := fld w 26 2
/-- PADDR of a DAB component. -/
def compPaddr (w : W) : Nat := fld w 16 10
/-- PID of a DRM component. -/
def compPid (w : W) : Nat := fld w 24 2
/-- ID of a DAB component. -/
def compId (w : W) : Nat := fld w 0 8
/-- ID of a DRM component. -/
def compDrmId (w : W) : Nat := fld w 0 24

/-- The component that a handle names. -/
def DabState.byHandle (d : DabState) (h : Nat) : Option DabComp := (d.comps.find? fun e => decide (e.1.toNat = h)).map Prod.snd

/-- The component that a DAB context addresses, once the database has it (R182): by SubChId, and by packet address where the subchannel
carries packets. -/
def DabState.component (d : DabState) (x : Ctx) : Option DabComp :=
  match compAddr x.component with
  | 0 => (d.comps.find? fun e => decide (e.2.subch.toNat = compId x.component) &&
      (decide (x.kind ≠ 2 ∧ x.kind ≠ 5) || decide (e.2.tmid ≠ 3) || decide (e.2.paddr.toNat = compPaddr x.component))).map Prod.snd
  | 2 => none
  | _ => d.byHandle (compId x.component)

/-- The subchannel of a DAB context. -/
def DabState.subOf (d : DabState) (x : Ctx) : Option (Fin 64) :=
  if compAddr x.component = 0 then ix 64 (compId x.component) else (d.component x).bind fun k => ix 64 k.subch.toNat

/-- The context keeps superframe synchronisation of its subchannel going: audio or PAD (R179). -/
def Ctx.needsSuper (x : Ctx) : Bool := decide (x.kind = 0) || decide (x.kind = 2 ∧ compAddr x.component = 3)

/-! ### Resources -/

/-- The delay-pool pages of a context return (R235, R289). -/
def State.freeDelay (s : State) (c : Fin 256) : State :=
  let n := s.svc.ctx[c].delay.toNat
  ({ s with aud := { s.aud with poolFree := s.aud.poolFree + n } }).modCtx c fun x => { x with delay := 0 }

/-- The buffered frames of a stream whose context closes play under a fade-out (R287). -/
def Stream.closeDown (t : Stream) : Stream :=
  match t.st with
  | .off => t
  | .silent => { t with st := .off, frames := [], closing := false }
  | .fadingOut => { t with closing := true }
  | _ => { t.fadeOut with closing := true }

/-- The areas of the MOT objects that a context reassembles or stages are freed, but for that of a unit begun, which is still to be
finished (R64). -/
def State.freeMot (s : State) (c : Fin 256) : State :=
  let begun := (s.svc.ctx[c].staged.filter fun u => decide (u.written ≠ 0)).map fun u => u.seq
  { s with dma := { s.dma with gp := s.dma.gp.filter fun g =>
    match g.owner with
    | .mot k _ => decide (k ≠ c)
    | .motOut k n => decide (k ≠ c) || begun.contains n
    | _ => true } }

/-! ### Opening and closing (R21) -/

/-- The runner of a closing context drops the superframe synchronisation that no other context needs (R179). -/
def State.dropSuper (s : State) (c : Fin 256) : State :=
  let x := s.svc.ctx[c]
  let r := x.runner
  let d := s.svc.run[r].dab
  match d.subOf x with
  | none => s
  | some k =>
    if x.needsSuper = false ∨ (s.ctxsOf r).any (fun o => decide (o ≠ c) && s.svc.ctx[o].needsSuper &&
        decide (d.subOf s.svc.ctx[o] = some k)) = true then s
    else s.modDab r fun d => { d with superSync := d.superSync.filter fun e => decide (e.1 ≠ k) }

/-- A context moves to CLOSING: its output stops (R21, R287). -/
def State.startClose (s : State) (c : Fin 256) (reason : Nat) : State :=
  let x := s.svc.ctx[c]
  let s := if 24 ≤ x.runner.val ∧ x.runner.val < 28 then s.dropSuper c else s
  let s := s.moveCtx c .closing reason
  match x.streamOf with
  | none => s
  | some k => s.modStream k Stream.closeDown

/-- A context takes new settings and moves to OPENING, where GEN advances (R20, R21); a unit of its last life that has been begun is still
finished (R64). -/
def State.startOpen (s : State) (c : Fin 256) (q : Ctx) (reason : Nat) : State :=
  (s.modCtx c fun x => { q with st := .free, gen := x.gen + 1, staged := x.staged }).moveCtx c .opening reason

/-- A context of the Fantail's own opens, through OPENING to ACQUIRING (R21, R218). -/
def State.openCtx (s : State) (c : Fin 256) (q : Ctx) (reason : Nat) : State :=
  (s.startOpen c q reason).moveCtx c .acquiring reason

/-- The resources of a context in OPENING are configured: it moves to ACQUIRING, and the SVC_OPEN that waits completes (R21, R165). -/
def State.ctxOpened (s : State) (c : Fin 256) : State :=
  let x := s.svc.ctx[c]
  if x.st = .opening then
    let s := (s.moveCtx c .acquiring 0).modCtx c fun x => { x with openSlot := none }
    match x.openSlot with
    | none => s
    | some id => s.finishSlot 0x0301 id .ok 0 [byte c.val, x.gen] none
  else s

/-! ### Shadows and blends -/

/-- The candidate whose shadow a context was has none any more; an estimator working on it is freed (R219, R234). -/
def State.loseShadow (s : State) (c : Fin 256) : State :=
  match s.svc.ctx[c].shadowOf with
  | none => s
  | some f =>
    let pos := s.fan.follow[f].cands.findIdx? fun e => match e with | some k => decide (k.shadow = some c) | none => false
    let drop := fun k : Cand =>
      if k.shadow = some c then { k with shadow := none, converged := false, filled := false } else k
    let s := s.modFollow f fun w => { w with cands := w.cands.map fun e => e.map drop }
    match pos with
    | none => s
    | some i => { s with fan := { s.fan with est := s.fan.est.map fun e => if e.work = some (f, i) then {} else e } }

/-- The Fantail releases a shadow (R218). -/
def State.releaseShadow (s : State) (c : Fin 256) : State :=
  if s.svc.ctx[c].st = .closing then s else (s.loseShadow c).startClose c 5

/-- The shadows of a followed context. -/
def State.shadowsOf (s : State) (f : Fin 256) : List (Fin 256) :=
  allIx fun c => decide (s.svc.ctx[c].shadowOf = some f) && decide (s.svc.ctx[c].st ≠ .free) && decide (s.svc.ctx[c].st ≠ .closing)

/-- Every shadow of a followed context is released. -/
def State.releaseShadows (s : State) (f : Fin 256) : State := (s.shadowsOf f).foldl State.releaseShadow s

/-- Milliseconds since a device time. -/
def State.msSince (s : State) (t : D) : Nat := (s.sys.timeUs - t).toNat / 1000

/-- Source 49 (R250). -/
def State.blendEvent (s : State) (f : Fin 256) (code : Nat) (b : Blend) : State :=
  s.raise 49 code ([byte f.val, s.svc.ctx[f].gen, 0, 0] ++ leBytes 2 (min 65535 (s.msSince b.started)) ++ leInt 1 b.lvl)

/-- A blend ends at once with a code (R245, R246). -/
def State.cutBlend (s : State) (f : Fin 256) (code : Nat) : State :=
  match s.fan.follow[f].blend with
  | none => s
  | some b =>
    (s.modFollow f fun w => { w with blend := none, under := [], lastSwitch := some s.sys.timeUs }).blendEvent f code b

/-- The Fantail lets go of a context that the host closes or stops following: the blend is abandoned, the shadows are released,
and its candidates are gone (R246, R248). -/
def State.endFollow (s : State) (f : Fin 256) : State :=
  let s := ((s.cutBlend f 3).releaseShadows f).modFollow f fun _ => {}
  let s := s.modCtx f fun x => { x with follow := false, line := [] }
  { s with fan := { s.fan with est := s.fan.est.map fun e => if e.work.map Prod.fst = some f then {} else e } }

/-- A window that the Fantail holds goes to the host: the candidates on its runner lose it, with their shadows (R219). -/
def State.fanYield (s : State) (w : Fin 64) : State :=
  if s.win.win[w].fantail then
    let r := s.win.win[w].runner
    let s := (allIx fun c : Fin 256 => s.svc.ctx[c].shadowOf.isSome && decide (s.svc.ctx[c].runner = r) &&
      decide (s.svc.ctx[c].st ≠ .free)).foldl State.releaseShadow s
    let drop := fun k : Cand => if k.runner = some r then { k with runner := none, verified := false, score := 0 } else k
    let s : State := { s with fan := { s.fan with follow := s.fan.follow.map fun w =>
      { w with cands := w.cands.map fun e => e.map drop } } }
    s.modWin w fun x => { x with fantail := false }
  else s

/-- Source 50 (R250): the candidate's index, its lag, and the peak of the estimate. -/
def State.alignEvent (s : State) (f : Fin 256) (code i peak : Nat) : State :=
  let lag := match s.fan.follow[f].cands.getD i none with | some k => k.lag | none => 0
  s.raise 50 code ([byte f.val, s.svc.ctx[f].gen, byte i, 0] ++ leInt 4 lag ++ [byte peak])

/-- Update candidate `i` of a followed context. -/
def State.modCand (s : State) (f : Fin 256) (i : Nat) (g : Cand → Cand) : State :=
  s.modFollow f fun w => { w with cands := listUpd w.cands i fun e => e.map g }

/-- The alignment of a converged candidate is lost (R233): source 50 CODE 2, and its estimator starts over. -/
def State.alignLost (s : State) (f : Fin 256) (i peak : Nat) : State :=
  match s.fan.follow[f].cands.getD i none with
  | none => s
  | some k =>
    if k.converged then
      let s := (s.alignEvent f 2 i peak).modCand f i fun k => { k with converged := false, filled := false }
      { s with fan := { s.fan with est := s.fan.est.map fun e => if e.work = some (f, i) then { work := e.work } else e } }
    else s

/-- The host has changed a delay on the window of a runner (R131, R233): the alignments of the playing stream on it, or of the
shadow on it, are lost. -/
def State.delayChanged (s : State) (r : Fin 32) : State :=
  (allIx fun c : Fin 256 => decide (s.svc.ctx[c].st ≠ .free) && decide (s.svc.ctx[c].runner = r) && decide (s.svc.ctx[c].kind = 0)).foldl
    (fun s c =>
      match s.svc.ctx[c].shadowOf with
      | some f =>
        match s.fan.follow[f].cands.findIdx? fun e => match e with | some k => decide (k.shadow = some c) | none => false with
        | some i => s.alignLost f i 0
        | none => s
      | none => (List.range s.fan.follow[c].cands.length).foldl (fun s i => s.alignLost c i 0) s) s

/-- A shadow's 1 ms unit at the input of its delay line (R242): a gap enters, or what is in the line moves on. -/
def State.shadowUnit (s : State) (c : Fin 256) (gap : Bool) : State :=
  match s.svc.ctx[c].shadowOf with
  | none => s
  | some f =>
    let d := s.fan.follow[f].delayFrames
    let step := fun k : Cand =>
      if k.shadow = some c then
        { k with gapAhead := if gap then ((d : Int) - k.lag).toNat / 48 + 1 else k.gapAhead - 1 }
      else k
    s.modFollow f fun w => { w with cands := w.cands.map fun e => e.map step }

/-- A context in CLOSING has released everything and is FREE: GEN stays, and the closes that waited complete (R21, R23, R165). -/
def State.ctxClosed (s : State) (c : Fin 256) : State :=
  let x := s.svc.ctx[c]
  if x.st = .closing then
    let s := s.moveCtx c .free (if x.shadowOf.isSome then 5 else 0)
    let s := (s.freeDelay c).freeMot c
    let s := s.modCtx c fun x => { gen := x.gen, staged := x.staged.filter fun u => decide (u.written ≠ 0) }
    x.closeSlot.foldl (fun s k => s.finishSlot 0x0302 k .ok 0 [] none) s
  else s

end Sys2Proof.Machine
end

