-- ==== Sys2Proof/Machine/WinOps.lean ====
section
/-!
DEFINITION. What the Sluice windows compute (04_windows.md): presets and splits, NCO words, group delay and settling, legs and
their delay blocks, opening, changing and closing a window. The window commands and the Fantail use these.
-/

namespace Sys2Proof.Machine

/-! ### Presets and splits (R109, R110, R116) -/

/-- A decimation split: M_cic, M_cf, h, M_fir. -/
structure Split where
  mcic : Nat
  mcf : Nat
  h : Nat
  mfir : Nat
  deriving DecidableEq, Repr

/-- Output rate of a preset in Hz. -/
def presetRate (p : Nat) : Nat := match p with | 1 => 24000 | 2 => 48000 | 3 => 384000 | 4 => 192000 | _ => 2048000

/-- Rate of its race in Hz (R81). -/
def raceRate (p : Nat) : Nat := match p with | 1 | 2 => 46080000 | 3 | 4 => 61440000 | _ => 92160000

/-- Default W of a preset: 24 bits for DRM30, DRM+ and DAB (R109). -/
def presetWide (p : Nat) : Bool := !(p = 1 || p = 3)

/-- The runners that a preset may feed. -/
def presetRunner (p r : Nat) : Bool :=
  match p with | 1 => within 16 23 r | 2 | 4 => within 28 31 r | 3 => decide (r < 16) | _ => within 24 27 r

/-- M_cf and M_fir of the default split, which is that of h = 0. -/
def presetMcf (p : Nat) : Nat := if p = 5 then 1 else 2
def presetMfir (p : Nat) : Nat := match p with | 1 | 2 => 4 | 3 | 4 => 2 | _ => 3

/-- The split with given h, M_cf and M_fir, if it is legal (R116). -/
def split (p h mcf mfir : Nat) : Option Split :=
  let d := mcf * 2 ^ h * mfir
  if h ≤ 3 ∧ within 1 2 mcf = true ∧ within 1 16 mfir = true ∧ presetTotal p % d = 0 then
    some { mcic := presetTotal p / d, mcf := mcf, h := h, mfir := mfir }
  else none

/-- The default split. -/
def defaultSplit (p : Nat) : Split :=
  { mcic := presetTotal p / (presetMcf p * presetMfir p), mcf := presetMcf p, h := 0, mfir := presetMfir p }

/-- Taps of the built-in bank for a split, if the device holds one (R110, R136). -/
def builtinTaps (p : Nat) (x : Split) : Option Nat :=
  if x.mcf = presetMcf p ∧ x.mfir = presetMfir p ∧ (x.h = 0 ∨ p ≠ 5) then some (if p ≤ 2 then 96 else 64) else none

/-! ### Frequencies (R111, R114) -/

/-- Centre of the preset's race on a Headrace in Hz. -/
def Headrace.centre (h : Headrace) (p : Nat) : Int :=
  match p with | 1 | 2 => 15360000 | 3 | 4 => 5000 * h.vCentre.toNat | _ => 5000 * h.bCentre.toNat

/-- f ± f_out / 2 lies within the usable band of the race (R81, R111). -/
def Headrace.bandOk (h : Headrace) (p f : Nat) : Bool :=
  let c := h.centre p
  let b : Int × Int := match p with
    | 1 | 2 => (100000, 30000000)
    | 3 | 4 => (c - 23000000, c + 23000000)
    | _ => (c - 33000000, c + 33000000)
  decide (2 * b.1 ≤ 2 * (f : Int) - presetRate p) && decide (2 * (f : Int) + presetRate p ≤ 2 * b.2)

/-- round(a / b) of a fraction that is never half way. -/
def roundDiv (a b : Int) : Int := (2 * a + b) / (2 * b)

/-- The NCO word N (R114). -/
def ncoWord (h : Headrace) (p f : Nat) : W :=
  BitVec.ofInt 32 (roundDiv (((f : Int) - h.centre p) * 4294967296) (raceRate p))

/-! ### Settling (R120) -/

/-- The largest integer delay in force on any leg. -/
def Window.maxD (w : Window) : Nat := (w.legs.toList.map fun l => (l.map Leg.d).getD 0).foldl max 0

/-- N_settle of the settings in force (R120). -/
def Window.settle (w : Window) : Nat :=
  ceilDiv (w.span + w.maxD * presetTotal w.preset) (presetTotal w.preset) + 2

/-! ### Legs and delay blocks (R128, R129) -/

/-- Leg numbers in use. -/
def State.legNos (s : State) : List Nat :=
  s.openWins.flatMap fun w => s.win.win[w].legs.toList.filterMap fun l => l.map Leg.no

/-- The lowest free leg numbers of the pool. -/
def State.freeLegs (s : State) : List Nat := (List.range 128).filter fun n => !s.legNos.contains n

/-- DCAP rounded up to a multiple of 64. -/
def dcapOf (n : Nat) : Nat := (n + 63) / 64 * 64

/-- A new leg, in step with a leg that runs already. On a failed Headrace every input sample is substituted from the start (R80). -/
def newLeg (h : Headrace) (no : Nat) (ant : Fin 4) (p f settling store gp : Nat) (like : Option Leg) : Leg :=
  { no := no, ant := ant, nco := ncoWord h p f, delay := 0, target := 0, delayNext := none, settling := settling, leaving := false
    lost := 0, stopped := if h.failed then some 0 else none, stopDue := h.failed, blockSub := 0, returned := 0, marked := false
    weight := (0, 0), chain := (like.map fun l => l.chain.inStep).getD {}, storeBlocks := store, gpBlocks := gp }

/-- Delay blocks for one leg, from the delay store first and then from general-use SRAM; none when they do not fit. -/
def State.takeBlocks (s : State) (w : Fin 64) (pos : Fin 4) (n : Nat) : Option (Nat × State) :=
  let st := min n s.win.dstoreFree
  (gpAllocN (n - st) s.dma.gp (.delay w pos) 512).map fun gp =>
    (st, { s with win := { s.win with dstoreFree := s.win.dstoreFree - st }, dma := { s.dma with gp := gp } })

/-- A leg's delay blocks return. -/
def State.freeBlocks (s : State) (w : Fin 64) (pos : Fin 4) : State :=
  match s.win.win[w].legs[pos] with
  | none => s
  | some l => ({ s with win := { s.win with dstoreFree := s.win.dstoreFree + l.storeBlocks } }).gpFree (.delay w pos)

/-- A leg joins a window at a position; none when no leg number or no delay blocks are free. -/
def State.addLeg (s : State) (w : Fin 64) (pos : Fin 4) (ant : Fin 4) (settling : Nat) : Option State :=
  let x := s.win.win[w]
  match s.freeLegs.head?, s.takeBlocks w pos (x.dcap / 64) with
  | some no, some (st, t) =>
    let l := newLeg s.cap.hr[ant] no ant x.preset x.freq settling st (x.dcap / 64 - st) x.refLeg
    some (t.modWin w fun x => { x with legs := upd x.legs pos fun _ => some l })
  | _, _ => none

/-- Legs join at positions 0 upwards, in antenna order. -/
def State.addLegs (s : State) (w : Fin 64) : List (Fin 4) → Nat → Option State
  | [], _ => some s
  | a :: as, pos =>
    match s.addLeg w (Fin.ofNat 4 pos) a 0 with
    | none => none
    | some s => s.addLegs w as (pos + 1)

/-! ### Opening (R111, R120, R121) -/

/-- What a window is opened with. -/
structure WinReq where
  preset : Nat
  runner : Fin 32
  freq : Nat
  wide : Bool
  ants : List (Fin 4)
  split : Split
  bank : Bank
  shift : Nat
  dcap : Nat
  mu : Nat
  fantail : Bool

/-- The window opens and withholds (R120); none under E_NORES. -/
def State.openWin (s : State) (w : Fin 64) (q : WinReq) : Option State :=
  let x : Window :=
    { st := 1, preset := q.preset, runner := q.runner, freq := q.freq, wide := q.wide, shift := q.shift, h := q.split.h
      mcic := q.split.mcic, mcf := q.split.mcf, mfir := q.split.mfir, banks := #v[q.bank, {}], dcap := dcapOf q.dcap
      mu := q.mu, change := .opened, fantail := q.fantail }
  ((s.modWin w fun _ => x).addLegs w q.ants 0).map fun s => s.modWin w fun x => { x with nSettle := x.settle, withheld := x.settle }

/-! ### Changes and closing (R120 to R123, R140) -/

/-- A change starts a withholding, or restarts the count of the one in progress (R120, R123): in a window that has released output
the first block with zero samples carries DISC with N_settle (R121). -/
def State.withhold (s : State) (w : Fin 64) (c : WinChange) : State :=
  s.modWin w fun x =>
    { x with st := 1, change := c, nSettle := x.settle, withheld := x.settle, disc := if x.released then satAdd (2 ^ 24 - 1) x.disc x.settle else 0 }

/-- The window takes another frequency: NCO words, withholding, and the runner re-acquires and looks for another PI (R17, R120,
R152). -/
def State.tuneWin (s : State) (w : Fin 64) (f : Nat) : State :=
  let x := s.win.win[w]
  let s := s.modWin w fun x => { x with
    freq := f, legs := x.legs.map fun l => l.map fun l => { l with nco := ncoWord s.cap.hr[l.ant] x.preset f } }
  let s := s.withhold w .nco
  if x.released then
    let s := (s.modDab x.runner fun d => { d with retuned := true }).reacquire x.runner
    s.modFm x.runner fun f => { f with rds := { groups := f.rds.groups, bler := f.rds.bler } }
  else s

/-- Every leg's number and delay blocks are free, and the window is closed; its runner holds no state (R140, R143). -/
def State.closeWin (s : State) (w : Fin 64) : State :=
  let r := s.win.win[w].runner
  let s := (List.finRange 4).foldl (fun s p => s.freeBlocks w p) s
  (s.modWin w fun _ => {}).modRun r Runner.cleared

end Sys2Proof.Machine
end

