-- ==== Sys2Proof/Machine/Windows.lean ====
section
/-!
DEFINITION. Meanings of the window commands and of the events of the Sluice windows and the scan bank (04_windows.md).
-/

namespace Sys2Proof.Machine

/-! ### Coefficients (R125, R126) -/

/-- The coefficient words of a buffer. -/
def coefWords (n : Nat) (buf : List Byte) : List W :=
  (List.range n).map fun i => BitVec.ofNat 32 (leNat (slice buf (4 * i) 4))

/-- Bits 31 to 20 repeat bit 19. -/
def coefOk (w : W) : Bool := decide (((w.setWidth 20).signExtend 32) = w)

/-- Coefficients of a bank of T taps. -/
def coefCount (t : Nat) : Nat := (t + 1) / 2

/-- The coefficients that a command brings are all legal. -/
def coefsOk (t : Nat) (c : CmdEntry) : Bool := (coefWords (coefCount t) c.buf).all coefOk

/-- A bank of T taps from a command's buffer. -/
def cmdBank (t : Nat) (c : CmdEntry) : Bank := { t := t, builtin := false, coef := coefWords (coefCount t) c.buf }

/-- The built-in bank of T taps of a preset for a half-band count (R110). -/
def builtinBank (p h t : Nat) : Bank :=
  { t := t, builtin := true, coef := (List.range (coefCount t)).map fun i => (Config.builtinCoef p h i).signExtend 32 }

/-! ### Shared checks -/

/-- The window that byte 24 names. -/
def cmdWin (c : CmdEntry) : Fin 64 := Fin.ofNat 64 (c.u8 24)

/-- Byte 24 names a window. -/
def winRange (c : CmdEntry) : Bool × Status × Nat := (decide (63 < c.u8 24), .range, 24)

/-- E_POWER at PL0 and PL1. -/
def State.winPower (s : State) : Bool × Status × Nat := (s.below 2, .power, 0)

/-- A window that is not open gives E_STATE; one that closes counts as closed for a later command. -/
def State.winClosed (s : State) (w : Fin 64) : Bool × Status × Nat :=
  (decide (s.win.win[w].st = 0) || s.win.win[w].closing.isSome, .state, 0)

/-- The window's runner is lent (R161). -/
def State.winLent (s : State) (w : Fin 64) : Bool × Status × Nat :=
  (decide (s.win.win[w].st ≠ 0) && s.svc.run[s.win.win[w].runner].fm.lent, .busy, 0)

/-- f breaks R111 for some leg of an open window. -/
def State.tuneBad (s : State) (w : Fin 64) (f : Nat) : Bool :=
  let x := s.win.win[w]
  x.legs.toList.any fun l => match l with | some l => !s.cap.hr[l.ant].bandOk x.preset f | none => false

/-- Bytes 16 to 31 of RESULT from byte 22 on: N_settle, G, M_cic. -/
def Window.result (x : Window) : List Byte :=
  leBytes 2 x.nSettle ++ leBytes 4 x.groupDelay ++ leBytes 4 x.mcic

/-! ### WIN_OPEN (R111, R140) -/

/-- The antennas of a mask in order. -/
def antsOf (mask : Nat) : List (Fin 4) := allIx fun n : Fin 4 => decide (mask / 2 ^ n.val % 2 = 1)

/-- The split that WIN_OPEN asks for. -/
def openSplit (c : CmdEntry) : Option Split :=
  if c.u8 33 = 0xFF then some (defaultSplit (c.u8 25)) else split (c.u8 25) (c.u8 33) (c.u8 34) (c.u8 35)

/-- The window that WIN_OPEN names, or the lowest closed one. -/
def State.openTarget (s : State) (c : CmdEntry) : Option (Fin 64) :=
  if c.u8 24 = 0xFF then firstIx fun w : Fin 64 => decide (s.win.win[w].st = 0) else ix 64 (c.u8 24)

/-- E_BADLEN of WIN_OPEN and WIN_COEF: the buffer does not match T. -/
def coefBufBad (t : Nat) (c : CmdEntry) : Bool :=
  if t = 0 then c.bufIn else !c.bufIn || decide (c.bufLen.toNat ≠ 4 * coefCount t)

/-- The bank that WIN_OPEN loads; none when no built-in bank exists for the split. -/
def openBank (c : CmdEntry) (x : Split) : Option Bank :=
  if c.u8 36 = 0 then (builtinTaps (c.u8 25) x).map (builtinBank (c.u8 25) x.h) else some (cmdBank (c.u8 36) c)

/-- The parameters of WIN_OPEN that are not legal, in the order of R50. -/
def State.openRange (s : State) (c : CmdEntry) : List (Bool × Status × Nat) :=
  let p := c.u8 25
  [(decide (192 < c.u8 36), .range, 36), (coefBufBad (c.u8 36) c, .badlen, 0),
   (decide (63 < c.u8 24 ∧ c.u8 24 ≠ 0xFF), .range, 24), (!within 1 5 p, .range, 25),
   (!presetRunner p (c.u8 26) || decide (31 < c.u8 26), .range, 26), (decide (1 < c.u8 27), .range, 27),
   ((antsOf (c.u8 32)).any (fun a => !s.cap.hr[a].bandOk p (c.u32 28)), .range, 28),
   (decide (c.u8 32 = 0 ∨ 15 < c.u8 32), .range, 32), (decide (c.u8 33 ≠ 0xFF ∧ 3 < c.u8 33), .range, 33),
   (decide (c.u8 33 ≠ 0xFF) && !within 1 2 (c.u8 34), .range, 34),
   (decide (c.u8 33 ≠ 0xFF) && !within 1 16 (c.u8 35), .range, 35), ((openSplit c).isNone, .range, 33),
   (decide (24 < c.u8 37 ∧ c.u8 37 ≠ 0xFF), .range, 37), (decide (c.u8 40 ≠ 0) && !within 2 12 (c.u8 40), .range, 40)] ++
  rsvdBytes c 41 43 ++ [(decide (c.u8 36 ≠ 0) && !coefsOk (c.u8 36) c, .range, 0xFFFF)]

/-- Leg numbers at positions 0 to 3; 0xFF where none. -/
def Window.legBytes (x : Window) : List Byte := x.legs.toList.map fun l => match l with | some l => byte l.no | none => 0xFF

/-- What WIN_OPEN opens. -/
def openReq (c : CmdEntry) (x : Split) (b : Bank) : WinReq :=
  { preset := c.u8 25, runner := Fin.ofNat 32 (c.u8 26), freq := c.u32 28, wide := decide (c.u8 27 = 1), ants := antsOf (c.u8 32)
    split := x, bank := b, shift := if c.u8 37 = 0xFF then 8 else c.u8 37, dcap := c.u16 38, mu := c.u8 40, fantail := false }

/-- WIN_OPEN after its first checks. -/
def State.openCmd (s : State) (c : CmdEntry) (x : Split) : Answer :=
  match s.openTarget c with
  | none => .fail .nores 0
  | some w =>
    match openBank c x with
    | none =>
      match s.openWin w (openReq c x {}) with
      | none => .fail .nores 0
      | some _ => .fail .notfound 0
    | some b =>
      match s.openWin w (openReq c x b) with
      | none => .fail .nores 0
      | some t =>
        let y := t.win.win[w]
        .ok t ([byte w.val] ++ y.legBytes ++ [0] ++ y.result) none

/-- A window that the Fantail holds closes for the host (R219). -/
def State.fanGive (s : State) (w : Option (Fin 64)) : State :=
  match w with
  | none => s
  | some w => if s.win.win[w].fantail then (s.fanYield w).closeWin w else s

/-- WIN_OPEN. -/
def bodyWinOpen (c : CmdEntry) (s : State) : Answer :=
  let s := (s.fanGive (ix 64 (c.u8 24))).fanGive (s.windowOf (Fin.ofNat 32 (c.u8 26)))
  let isOpen := match ix 64 (c.u8 24) with | some w => decide (s.win.win[w].st ≠ 0) | none => false
  checked (s.openRange c ++
      [s.winPower, (s.onFio, .fault, 0),
       (isOpen || (antsOf (c.u8 32)).any (fun a => !s.cap.hr[a].running), .state, 0),
       (s.runnerFed (Fin.ofNat 32 (c.u8 26)), .busy, 0)]) fun _ =>
    match openSplit c with
    | none => .fail .range 33
    | some x => s.openCmd c x

/-- WIN_OPEN (R111). -/
def execWinOpen (c : CmdEntry) (s : State) : Host.Outcome State Fault Refusal := .next (s.runCmd 0x0210 c (bodyWinOpen c))

/-! ### WIN_CLOSE (R140) -/

/-- A context that the window's runner serves is not FREE. -/
def State.winServes (s : State) (w : Fin 64) : Bool := !(s.ctxsOf s.win.win[w].runner).isEmpty

/-- WIN_CLOSE: the window closes at the next output block boundary. -/
def bodyWinClose (c : CmdEntry) (s : State) : Answer :=
  let w := cmdWin c
  let s := s.fanYield w
  checked ([winRange c, (decide (1 < c.u8 25), .range, 25)] ++ rsvdBytes c 26 27 ++
      [s.winPower, s.winClosed w, s.winLent w, (decide (c.u8 25 = 0) && s.winServes w, .busy, 0)]) fun _ =>
    .wait (s.modWin w fun x => { x with closing := some (decide (c.u8 25 = 1), some c.id) })

/-- WIN_CLOSE (R140). -/
def execWinClose (c : CmdEntry) (s : State) : Host.Outcome State Fault Refusal := .next (s.runCmd 0x0211 c (bodyWinClose c))

/-- The boundary at which a window closes: with FORCE its contexts move to ACQUIRING (R21), and the command completes. -/
def State.closeEffect (s : State) (w : Fin 64) : State :=
  match s.win.win[w].closing with
  | none => s
  | some (force, slot) =>
    let r := s.win.win[w].runner
    let s := if force then s.ctxsToAcquiring r 4 else s
    let s := s.closeWin w
    match slot with
    | none => s
    | some k => s.finishSlot 0x0211 k .ok 0 [] none

/-- WIN_CLOSE_EFFECT (R140). -/
def execWinCloseEffect (w : Fin 64) (s : State) : Host.Outcome State Fault Refusal := .next (s.closeEffect w)

/-! ### WIN_TUNE, WIN_RATIO, WIN_COEF, WIN_BANK (R116, R120, R125 to R127) -/

/-- WIN_TUNE. -/
def bodyWinTune (c : CmdEntry) (s : State) : Answer :=
  let w := cmdWin c
  checked (winRange c :: rsvdBytes c 25 27 ++
      [(s.tuneBad w (c.u32 28), .range, 28), s.winPower, (s.onFio, .fault, 0), s.winClosed w, s.winLent w]) fun _ =>
    .done ((s.fanYield w).tuneWin w (c.u32 28))

/-- WIN_TUNE (R120). -/
def execWinTune (c : CmdEntry) (s : State) : Host.Outcome State Fault Refusal := .next (s.runCmd 0x0212 c (bodyWinTune c))

/-- The bank that byte `b` of WIN_RATIO names: 0, 1, or the inactive one for the built-in bank. -/
def Window.named (x : Window) (b : Nat) : Bool := if b = 2 then !x.bank else decide (b = 1)

/-- A bank has been loaded. -/
def Window.loaded (x : Window) (b : Bool) : Bool := decide ((if b then x.banks[1] else x.banks[0]).t ≠ 0)

/-- Load a bank. -/
def Window.load (x : Window) (b : Bool) (y : Bank) : Window :=
  { x with banks := if b then #v[x.banks[0], y] else #v[y, x.banks[1]] }

/-- WIN_RATIO: split and bank change together at the next output boundary. -/
def bodyWinRatio (c : CmdEntry) (s : State) : Answer :=
  let w := cmdWin c
  let x := s.win.win[w]
  let sp := split x.preset (c.u8 25) (c.u8 26) (c.u8 27)
  checked ([winRange c, (decide (3 < c.u8 25), .range, 25), (!within 1 2 (c.u8 26), .range, 26), (!within 1 16 (c.u8 27), .range, 27),
      (decide (x.st ≠ 0) && sp.isNone, .range, 25), (decide (2 < c.u8 28), .range, 28),
      (decide (24 < c.u8 29 ∧ c.u8 29 ≠ 0xFF), .range, 29)] ++ rsvdBytes c 30 31 ++
      [s.winPower, (s.onFio, .fault, 0), s.winClosed w, (decide (c.u8 28 < 2) && !x.loaded (x.named (c.u8 28)), .state, 0),
       s.winLent w]) fun _ =>
    match sp with
    | none => .fail .range 25
    | some sp =>
      let sw : Swap := { bank := x.named (c.u8 28), h := sp.h, mcic := sp.mcic, mcf := sp.mcf, mfir := sp.mfir
                         shift := if c.u8 29 = 0xFF then x.shift else c.u8 29, ratio := true, slot := c.id }
      if c.u8 28 = 2 then
        match builtinTaps x.preset sp with
        | none => .fail .notfound 0
        | some t => .wait (s.modWin w fun x => { x.load (!x.bank) (builtinBank x.preset sp.h t) with swap := some sw })
      else .wait (s.modWin w fun x => { x with swap := some sw })

/-- WIN_RATIO (R116). -/
def execWinRatio (c : CmdEntry) (s : State) : Host.Outcome State Fault Refusal := .next (s.runCmd 0x0213 c (bodyWinRatio c))

/-- WIN_COEF: the inactive bank takes T and its coefficients. -/
def bodyWinCoef (c : CmdEntry) (s : State) : Answer :=
  let w := cmdWin c
  let t := c.u8 26
  checked [(!within 1 192 t, .range, 26), (coefBufBad t c, .badlen, 0), winRange c, (decide (1 < c.u8 25), .range, 25),
      (decide (c.u8 27 ≠ 0), .range, 27), (!coefsOk t c, .range, 0xFFFF), s.winPower, s.winClosed w,
      (decide (s.win.win[w].bank = decide (c.u8 25 = 1)), .busy, 0)] fun _ =>
    .done (s.modWin w fun x => x.load (decide (c.u8 25 = 1)) (cmdBank t c))

/-- WIN_COEF (R126). -/
def execWinCoef (c : CmdEntry) (s : State) : Host.Outcome State Fault Refusal := .next (s.runCmd 0x0214 c (bodyWinCoef c))

/-- WIN_BANK: the swap takes effect at the next stage-5 output boundary. -/
def bodyWinBank (c : CmdEntry) (s : State) : Answer :=
  let w := cmdWin c
  let x := s.win.win[w]
  let b := decide (c.u8 25 = 1)
  checked ([winRange c, (decide (1 < c.u8 25), .range, 25)] ++ rsvdBytes c 26 27 ++
      [s.winPower, (s.onFio, .fault, 0), s.winClosed w, (decide (x.bank = b) || !x.loaded b, .state, 0)]) fun _ =>
    let sw : Swap := { bank := b, h := x.h, mcic := x.mcic, mcf := x.mcf, mfir := x.mfir, shift := x.shift, ratio := false
                       slot := c.id }
    .wait (s.modWin w fun x => { x with swap := some sw })

/-- WIN_BANK (R127). -/
def execWinBank (c : CmdEntry) (s : State) : Host.Outcome State Fault Refusal := .next (s.runCmd 0x0215 c (bodyWinBank c))

/-- The boundary of a bank or ratio change: the new settings, the withholding, and the command's completion. -/
def State.swapEffect (s : State) (w : Fin 64) : State :=
  match s.win.win[w].swap with
  | none => s
  | some q =>
    let s := s.modWin w fun x => { x with
      swap := none, bank := q.bank, h := q.h, mcic := q.mcic, mcf := q.mcf, mfir := q.mfir, shift := q.shift
      legs := x.legs.map fun l => l.map fun l => { l with chain := if q.ratio then l.chain.restart else l.chain } }
    let s := s.withhold w (if q.ratio then .ratio else .bank)
    if q.ratio then
      s.finishSlot 0x0213 q.slot .ok 0 (List.replicate 6 0 ++ s.win.win[w].result) none
    else s.finishSlot 0x0215 q.slot .ok 0 [] none

/-- BANK_SWAP_EFFECT (R127). -/
def execBankSwapEffect (w : Fin 64) (s : State) : Host.Outcome State Fault Refusal := .next (s.swapEffect w)

/-! ### WIN_DELAY and WIN_LEG (R124, R128 to R131) -/

/-- A leg takes a delay in 1/1,024 output sample: as the target of a ramp, or at the next block boundary (R130, R131). -/
def Leg.setDelay (l : Leg) (v : Nat) (ramp : Bool) : Leg :=
  if ramp then { l with target := v, delayNext := none } else { l with delayNext := some v }

/-- The legs that byte 25 of WIN_DELAY names take the delay. -/
def State.setDelay (s : State) (w : Fin 64) (sel : Fin 4 → Bool) (v : Nat) (ramp : Bool) : State :=
  s.modWin w fun x => { x with legs := Vector.ofFn fun p => if sel p then x.legs[p].map fun l => l.setDelay v ramp else x.legs[p] }

/-- WIN_DELAY. -/
def bodyWinDelay (c : CmdEntry) (s : State) : Answer :=
  let w := cmdWin c
  let x := s.win.win[w]
  let every := decide (c.u8 25 = 0xFF)
  let gone := match ix 4 (c.u8 25) with | some p => x.legs[p].isNone | none => false
  checked [winRange c, (decide (3 < c.u8 25) && !every, .range, 25), (decide (1 < c.u8 26), .range, 26),
      (decide (c.u8 27 ≠ 0), .range, 27), (decide (x.st ≠ 0 ∧ x.dcap < c.u16 28), .range, 28),
      (decide (1023 < c.u16 30), .range, 30), s.winPower, (s.onFio, .fault, 0), s.winClosed w, (gone, .notfound, 0)] fun _ =>
    .done ((s.setDelay w (fun p => every || decide (p.val = c.u8 25)) (1024 * c.u16 28 + c.u16 30) (decide (c.u8 26 = 1))).delayChanged
      x.runner)

/-- WIN_DELAY (R130, R131). -/
def execWinDelay (c : CmdEntry) (s : State) : Host.Outcome State Fault Refusal := .next (s.runCmd 0x0216 c (bodyWinDelay c))

/-- The position of an antenna's leg. -/
def Window.antPos (x : Window) (a : Fin 4) : Option (Fin 4) := x.positions.find? fun p => decide (x.legs[p].map Leg.ant = some a)

/-- WIN_LEG, add: the lowest empty position (R124). -/
def State.legAdd (s : State) (w : Fin 64) (a : Fin 4) : Answer :=
  let x := s.win.win[w]
  match firstIx fun p : Fin 4 => x.legs[p].isNone with
  | none => .fail .nores 0
  | some p =>
    match s.addLeg w p a x.settle with
    | none => .fail .nores 0
    | some t => .ok t [byte p.val, byte ((t.win.win[w].legs[p].map Leg.no).getD 0)] none

/-- Legs of a window that stay. -/
def Window.staying (x : Window) : Nat := (x.positions.filter fun p => x.legs[p].map Leg.leaving = some false).length

/-- WIN_LEG, remove: the leg leaves at the next block boundary (R124). -/
def State.legRemove (s : State) (w : Fin 64) (p : Fin 4) : Answer :=
  let s := s.modWin w fun x => { x with legs := upd x.legs p fun l => l.map fun l => { l with leaving := true } }
  .ok s [byte p.val, byte ((s.win.win[w].legs[p].map Leg.no).getD 0)] none

/-- WIN_LEG. -/
def bodyWinLeg (c : CmdEntry) (s : State) : Answer :=
  let w := cmdWin c
  let x := s.win.win[w]
  let a : Fin 4 := Fin.ofNat 4 (c.u8 26)
  let add := decide (c.u8 25 = 0)
  let here := decide (x.legs[a].map Leg.leaving = some false)
  checked [winRange c, (decide (1 < c.u8 25), .range, 25),
      (decide (3 < c.u8 26) || (add && decide (x.st ≠ 0) && !s.cap.hr[a].bandOk x.preset x.freq), .range, 26),
      (decide (c.u8 27 ≠ 0), .range, 27), s.winPower, (s.onFio, .fault, 0), s.winClosed w,
      (add && ((x.antPos a).isSome || !s.cap.hr[a].running), .state, 0),
      (!add && here && decide (x.staying ≤ 1), .state, 0), (!add && !here, .notfound, 0)] fun _ =>
    if add then s.legAdd w a else s.legRemove w a

/-- WIN_LEG (R124). -/
def execWinLeg (c : CmdEntry) (s : State) : Host.Outcome State Fault Refusal := .next (s.runCmd 0x0217 c (bodyWinLeg c))

/-- LEG_REMOVE_EFFECT (R124): removed legs are gone, with their numbers and delay blocks. -/
def execLegRemoveEffect (w : Fin 64) (s : State) : Host.Outcome State Fault Refusal :=
  .next ((List.finRange 4).foldl (fun s p =>
    if s.win.win[w].legs[p].map Leg.leaving = some true then
      (s.freeBlocks w p).modWin w fun x => { x with legs := upd x.legs p fun _ => none }
    else s) s)

/-! ### Losses at a leg input (R13, R141, R142) -/

/-- The leg mask that an event of source 30 held back carries so far. -/
def State.heldMask (s : State) (w : Fin 64) : W :=
  match s.evt.rate.find? fun r => r.is 30 w.val with
  | some r => if r.held then r.aux else 0
  | none => 0

/-- LEG_OVERRUN (R9, R13): zeros replace the samples; the race never waits. -/
def State.legOverrun (s : State) (w : Fin 64) (pos : Fin 4) (lost : Nat) : State :=
  match s.win.win[w].legs[pos] with
  | none => s
  | some l =>
    if l.stopped.isSome ∨ lost = 0 then s
    else (s.loseSamples w pos lost).raiseLimited 30 w.val 0 (s.heldMask w ||| BitVec.ofNat 32 (2 ^ pos.val)) lost

/-- LEG_OVERRUN (R13). -/
def execLegOverrun (w : Fin 64) (pos : Fin 4) (lost : Nat) (s : State) : Host.Outcome State Fault Refusal :=
  .next (s.legOverrun w pos lost)

/-! ### Output blocks (R10, R16 to R18, R118, R119) -/

/-- The input samples that the block's DISC mark reports for this leg (R13, R141): losses whose first output it holds, its input while the
Headrace is stopped when it is the first to hold a substituted sample, and the total of a stop that has ended. -/
def Leg.report (l : Leg) (marked : Bool) : Nat := l.lost + (if l.stopDue && marked then l.blockSub else 0) + l.returned

/-- ceil(|change|) in output samples of a delay that changes without a ramp. -/
def Leg.delayJump (l : Leg) : Nat :=
  match l.delayNext with
  | none => 0
  | some v => ceilDiv (if l.delay ≤ v then v - l.delay else l.delay - v) 1024

/-- A delay without a ramp takes effect at a block boundary (R130). -/
def Leg.newDelay (l : Leg) : Leg :=
  match l.delayNext with
  | none => l
  | some v => { l with delay := v, target := v, delayNext := none }

/-- A block boundary: delays without a ramp take effect, and the block that begins carries DISC with the change (R130). Where legs change
by different amounts the spec does not say which counts: the largest (DESIGN CHOICE, log 109). -/
def Window.boundary (x : Window) : Window :=
  let jump := (x.legs.toList.map fun l => (l.map Leg.delayJump).getD 0).foldl max 0
  { x.mapLegs Leg.newDelay with disc := satAdd (2 ^ 24 - 1) x.disc jump }

/-- A leg after a block whose leg mask bit it has set or not. -/
def Leg.block (l : Leg) (marked : Bool) : Leg :=
  { l with marked := marked, lost := 0, stopDue := l.stopDue && !marked, blockSub := 0, returned := 0 }

/-- Symbol length of a DRM mode in output samples. -/
def drmSymbol (m : Fin 5) : Nat := match m.val with | 0 => 1280 | 1 => 1280 | 2 => 960 | 3 => 800 | _ => 480

/-- The hold tolerance of a runner in output samples (R17); none for a DRM runner that holds no synchronisation. -/
def State.holdTol (s : State) (r : Fin 32) : Nat :=
  if r.val < 16 then 7680
  else if r.val < 24 then 480
  else if r.val < 28 then 4096
  else match s.svc.run[r].drm.mode with | some m => drmSymbol m | none => 0

/-- A block that marks every leg is a gap; beyond the tolerance the runner re-acquires once (R16, R17). -/
def State.gapBlock (s : State) (r : Fin 32) : State :=
  let n := (s.svc.run[r].gap.getD 0) + 64
  let t := s.holdTol r
  let s := if t < n ∧ n ≤ t + 64 then s.reacquire r else s
  s.modRun r fun x => { x with gap := some n }

/-- A block is numbered, and a marked one kept for the symbols that it holds (R14, R173, R201). -/
def Runner.noteBlock (u : Runner) (mask : Nat) : Runner :=
  let old := u.marks.filter fun e => decide (u.blocks < e.1 + 16384)
  { u with blocks := u.blocks + 1, marks := if mask = 0 then old else old ++ [(u.blocks, mask)] }

/-- The runner takes a block with its leg mask, its lost count at the legs and the lost count of a change, in output samples (R15 to
R17). Where some leg remains, no output depends on what the legs lost (R14, R190, R209). -/
def State.runnerBlock (s : State) (w : Fin 64) (mask every legLost lost : Nat) : State :=
  let r := s.win.win[w].runner
  let n := lost + if mask = every then legLost else 0
  let s := s.modRun r fun x => ({ x with carry := satAdd (2 ^ 24 - 1) x.carry n } : Runner).noteBlock mask
  if mask = every then s.gapBlock r
  else
    let s := s.modRun r fun x => { x with gap := none }
    if mask ≠ 0 then
      (s.linkAux (128 + w.val)).modRun r fun x => { x with degraded := (s.sys.timeUs :: x.degraded).take 255 }
    else s

/-- The leg mask of a block: bit p is set when some sample of it sets it (R12, R13, R121). -/
def blockMask (l : List OutSmp) : Nat := (l.map OutSmp.mask).foldl (· ||| ·) 0

/-- The window delivers the 64 output samples that it has computed as a block (R10, R13, R119). -/
def State.outputBlock (s : State) (w : Fin 64) : State :=
  let x := s.win.win[w]
  let mask := blockMask x.ready
  let disc := satAdd (2 ^ 24 - 1) (x.ready.map OutSmp.disc).sum 0
  let reports := x.positions.map fun p => (x.legs[p].map fun l => (l.no, l.report (mask.testBit p.val))).getD (0, 0)
  let lost := (reports.map Prod.snd).sum
  let s := reports.foldl (fun s r => if r.2 ≠ 0 then s.linkDisc r.1 else s) s
  let s := if disc ≠ 0 ∨ lost ≠ 0 then s.linkDisc (128 + w.val) else s
  let y : Window := { x with
    legs := Vector.ofFn fun p => x.legs[p].map fun l => l.block (mask.testBit p.val)
    ready := [], block := x.ready, blocks := x.blocks + 1, lastTs := (x.ready.head?.map OutSmp.ts).getD 0 }
  (s.modWin w fun _ => y.boundary).runnerBlock w mask (x.mask fun _ => true) (ceilDiv lost (presetTotal x.preset)) disc

/-- WIN_OUTPUT_BLOCK (R119): the race samples up to the block's end pass the legs, and a block of 64 output samples goes to the runner; a
window delivers nothing before it has released output for the first time (R121). -/
def execWinOutputBlock (w : Fin 64) (b : RaceIn) (s : State) : Host.Outcome State Fault Refusal :=
  .next (if s.win.win[w].st ≠ 0 then
    let s := s.feedWin w b
    if s.win.win[w].ready.length = 64 then s.outputBlock w else s
  else s)

/-- CODE of source 28. -/
def WinChange.code : WinChange → Nat
  | .opened => 0 | .nco => 1 | .ratio => 2 | .bank => 3

/-- Output samples of the 64 µs before a release (R134): whole periods of 1/384 or 1/24 ms. -/
def startSamples (preset : Nat) : Nat := if preset = 3 then 24 else 1

/-- The power of the leg at a position over the last samples before release. -/
def Window.power (x : Window) (p : Fin 4) : Nat :=
  ((x.recent.take (startSamples x.preset)).map fun v => (v[p].map fun e => mag2 e.1).getD 0).sum

/-- Weights start afresh (R134): the leg of highest mean power has weight 1, of equal ones the one at the lowest position, which the spec
leaves open (DESIGN CHOICE, log 118). -/
def Window.startWeights (x : Window) : Window :=
  let best := (x.positions.map x.power).foldl max 0
  let one := x.positions.find? fun p => decide (x.power p = best)
  { x with legs := Vector.ofFn fun p => x.legs[p].map fun l => { l with weight := if one = some p then weightOne else (0, 0) } }

/-- The withholding ends (R121, R122): source 28 with the samples withheld and the TIMESTAMP of the first released sample; the
runner has input. -/
def State.settled (s : State) (w : Fin 64) : State :=
  let x := s.win.win[w]
  let s := s.modWin w fun x =>
    let y := { x with st := 2, released := true }
    (if x.released then y else y.mapLegs Leg.newDelay).startWeights
  let s := s.modRun x.runner fun r => { r with active := true }
  s.raise 28 x.change.code ([byte w.val, 0, 0, 0] ++ leBytes 4 x.nSettle ++ leBytes 8 (x.stamp x.count).toNat)

/-- WIN_SETTLED (R121): the race samples up to the end of the withholding have passed the legs. -/
def execWinSettled (w : Fin 64) (b : RaceIn) (s : State) : Host.Outcome State Fault Refusal :=
  .next (if s.win.win[w].st = 1 then
    let s := s.feedWin w b
    if s.win.win[w].withheld = 0 then s.settled w else s
  else s)

/-! ### The combiner's weights (R133, R134) -/

/-- One update of R133 over the samples `xs` of the included legs with weights `ws` (units of 2^-16). With no signal the division
has no value and the weights are free. -/
def cmaWeights (mu : Nat) (ws : List IQ) (xs : List (List IQ)) (k : Nat) : List IQ :=
  let n := (xs.map List.length).foldl max 0
  let y := (List.range n).map fun i => csum (ws.mapIdx fun j w => cmul w ((xs.getD j []).getD i (0, 0)))
  let a : Nat := (y.map mag2).sum
  let p : Nat := (xs.map fun x => (x.map mag2).sum).sum
  if a * p = 0 then ws.mapIdx fun i _ => ((Config.freeNat (k + 2 * i) % 262144 : Int) - 131072, (Config.freeNat (k + 2 * i + 1) % 262144 : Int) - 131072)
  else
    let vs := ws.mapIdx fun j w =>
      let g := csum (y.mapIdx fun i v =>
        cscale ((n : Int) * mag2 v - a) (cmul v (cconj ((xs.getD j []).getD i (0, 0)))))
      cadd (cscale ((2 : Int) ^ mu * a * p) w) (cscale (-1) g)
    normWeights vs

/-- MU of a window: its own, or WIN.CMA.MU, where values outside 2 to 12 act as 6. -/
def State.muOf (s : State) (x : Window) : Nat :=
  if x.mu ≠ 0 then x.mu else if within 2 12 (fld s.win.cma 0 4) then fld s.win.cma 0 4 else 6

/-- CMA_UPDATE (R133, R134) over the output samples since the last update: a leg that R14 excludes in one of them keeps its weight and
takes no part; the weights of the others are scaled to 1 before and after the update. -/
def State.cma (s : State) (w : Fin 64) : State :=
  let x := s.win.win[w]
  let l := (x.recent.take x.fresh).reverse
  let ps := x.positions.filter fun p => l.all fun v => match v[p] with | some e => !e.2 | none => false
  let k := s.freeCnt
  let ws := normWeights (ps.map fun p => (x.legs[p].map Leg.weight).getD (0, 0))
  let ws := cmaWeights (s.muOf x) ws (ps.map fun p => l.map fun v => (v[p].map Prod.fst).getD (0, 0)) k
  let s := ({ s with freeCnt := k + 8 }).modWin w fun x => { x with fresh := 0 }
  (ps.zip ws).foldl (fun s pw =>
    s.modWin w fun x => { x with legs := upd x.legs pw.1 fun l => l.map fun l => { l with weight := pw.2 } }) s

/-- CMA_UPDATE (R133): FM and AM windows with two or more legs. -/
def execCmaUpdate (w : Fin 64) (b : RaceIn) (s : State) : Host.Outcome State Fault Refusal :=
  .next (if s.win.win[w].st ≠ 0 then
    let s := s.feedWin w b
    let x := s.win.win[w]
    if x.st = 2 ∧ x.combines = true ∧ 2 ≤ x.positions.length ∧ x.fresh ≠ 0 then s.cma w
    else s.modWin w fun x => { x with fresh := 0 }
  else s)

/-! ### The scan bank (R137 to R139) -/

/-- An entry that has never been measured: its level and figures are free values; NULL is 0 for FM (R138). -/
def unscanned (dab : Bool) (k i : Nat) : ScanEntry :=
  { level := BitVec.ofNat 16 (Config.freeNat (k + i)), mpx := Config.freeByte k (2 * i)
    null := if dab then Config.freeByte k (2 * i + 1) else 0, age := 255, flags := 0 }

/-- Centres of the DAB blocks 5A to 13F in kHz, in block order (EN 300 401, which R2 names; 03_capture.md gives 5A and 13F; log 119). -/
def dabBlocks : List Nat :=
  [174928, 176640, 178352, 180064, 181936, 183648, 185360, 187072, 188928, 190640, 192352, 194064, 195936, 197648, 199360, 201072,
   202928, 204640, 206352, 208064] ++
  [209936, 211648, 213360, 215072, 216928, 218640, 220352, 222064, 223936, 225648, 227360, 229072, 230784, 232496, 234208, 235776,
   237488, 239200]

/-- Centre of entry `i` in kHz (R137). -/
def scanKhz (dab : Bool) (i : Nat) : Nat := if dab then dabBlocks.getD i 0 else 76000 + 50 * i

/-- The channel that the entry measures, 120 kHz or 1.536 MHz wide, lies within the race's usable band (R81, R137). -/
def Headrace.scans (h : Headrace) (dab : Bool) (i : Nat) : Bool :=
  let f := scanKhz dab i
  let c := 5 * (if dab then h.bCentre else h.vCentre).toNat
  let room := if dab then 33000 - 768 else 23000 - 60
  decide (c ≤ f + room) && decide (f ≤ c + room)

/-- One measurement (R137, R138): a channel that is not measured keeps its last values, one pass older. Whether VALID stays set beside
the reason the spec does not say: the flags then hold the reason alone (DESIGN CHOICE, log 120). -/
def scanEntry (h : Headrace) (f : Feed) (dab : Bool) (i : Nat) (o : ScanObs) (old : ScanEntry) : ScanEntry :=
  let aged := { old with age := if old.age = 255 then 255 else old.age + 1 }
  if h.samples = false then { aged with flags := 4 }
  else if h.scans dab i = false then { aged with flags := 2 }
  else if o.skipped then { aged with flags := 8 }
  else if (if dab then h.bSpan else h.vSpan) then { aged with flags := 0 }
  else
    { level := BitVec.ofInt 16 (f.level (1000 * scanKhz dab i) o.level), mpx := byte (min 255 o.mpx)
      null := if dab then byte (min 255 o.null) else 0, age := 0, flags := 1 }

/-- The bytes of an entry (R138). -/
def ScanEntry.bytes (e : ScanEntry) : List Byte := leBytes 2 e.level.toNat ++ [e.mpx, e.null, e.age, e.flags, 0, 0]

/-- Entry `i` of a pass, or a free one before the first. -/
def scanOld (dab : Bool) (l : List ScanEntry) (k i : Nat) : ScanEntry := l.getD i (unscanned dab k i)

/-- Entries of a pass (R137). -/
def scanCount (dab : Bool) : Nat := if dab then 38 else 641

/-- The pass of one antenna. -/
def scanPass (h : Headrace) (f : Feed) (dab : Bool) (obs : List ScanObs) (old : List ScanEntry) (k : Nat) : List ScanEntry :=
  (List.range (scanCount dab)).map fun i => scanEntry h f dab i (obs.getD i ⟨0, 0, 0, true⟩) (scanOld dab old k i)

/-- A measurement is dropped on a race's link to the scan bank (R10): counted, and due to be marked. -/
def State.scanSkip (s : State) (j : Nat) : State :=
  let s := s.linkDrop j 1
  match ix 12 (j - 192) with
  | none => s
  | some i => { s with win := { s.win with scanLost := upd s.win.scanLost i fun n => satAdd (2 ^ 24 - 1) n 1 } }

/-- The first measurement after a drop carries the mark (R12): the link counts it. -/
def State.scanMark (s : State) (j : Nat) : State :=
  match ix 12 (j - 192) with
  | none => s
  | some i =>
    if s.win.scanLost[i] = 0 then s
    else { s.linkDisc j with win := { s.win with scanLost := upd s.win.scanLost i fun _ => 0 } }

/-- Drops and marks of the measurements of one race, in the order of the channels that the race holds. -/
def State.scanLink (s : State) (n : Fin 4) (dab : Bool) (obs : List ScanObs) : State :=
  let j := 192 + 3 * n.val + if dab then 2 else 1
  let h := s.cap.hr[n]
  if h.samples then
    (List.range (scanCount dab)).foldl (fun s i =>
      if h.scans dab i = false then s
      else if (obs.getD i ⟨0, 0, 0, true⟩).skipped then s.scanSkip j
      else s.scanMark j) s
  else s

/-- Antennas scanned. -/
def State.scanAnts (s : State) : List (Fin 4) := allIx fun n : Fin 4 => s.win.scanCtl.getLsbD (8 + n.val)

/-- Source 31: byte 16 the lowest antenna measured, byte 17 the mask. -/
def State.scanDone (s : State) (code : Nat) (bit : Nat) : State :=
  let ants := s.scanAnts.filter fun n => s.cap.hr[n].samples
  if s.win.scanCtl.getLsbD bit then
    s.raise 31 code [byte ((ants.head?.map Fin.val).getD 0), byte (bitsOf (ants.map Fin.val))]
  else s

/-- A pass over the antennas scanned (R137): a measurement that spans a centre change is discarded (R86), and the next pass begins. -/
def State.scanRun (s : State) (dab : Bool) (meas : List (List ScanObs)) : State :=
  let k := s.freeCnt
  let m := scanCount dab
  let pass := fun (v : Vector (List ScanEntry) 4) =>
    s.scanAnts.foldl (fun v n => upd v n fun old => scanPass s.cap.hr[n] s.cap.feed[n] dab (meas.getD n.val []) old (k + m * n.val)) v
  let win := if dab then { s.win with scanDab := pass s.win.scanDab } else { s.win with scanFm := pass s.win.scanFm }
  let t := s.scanAnts.foldl (fun s n => s.scanLink n dab (meas.getD n.val [])) { s with win := win, freeCnt := k + 4 * m }
  { t with cap := { t.cap with hr := t.cap.hr.map fun h =>
      if dab then { h with bSpan := h.bSettling } else { h with vSpan := h.vSettling } } }

/-- SCAN_FM_PASS (R137). -/
def execScanFmPass (meas : List (List ScanObs)) (s : State) : Host.Outcome State Fault Refusal :=
  .next (if s.win.scanCtl.getLsbD 0 then (s.scanRun false meas).scanDone 0 2 else s)

/-- SCAN_DAB_PASS (R137). -/
def execScanDabPass (meas : List (List ScanObs)) (s : State) : Host.Outcome State Fault Refusal :=
  .next (if s.win.scanCtl.getLsbD 1 then (s.scanRun true meas).scanDone 1 3 else s)

/-- WIN_SCAN_READ: allowed at every level; before the first complete pass the entries are free values. -/
def bodyWinScanRead (c : CmdEntry) (s : State) : Answer :=
  let dab := decide (c.u8 24 = 1)
  let n := scanCount dab
  let a : Fin 4 := Fin.ofNat 4 (c.u8 25)
  checked ([(decide (1 < c.u8 24), .range, 24), (decide (c.bufLen.toNat ≠ 8 * n), .badlen, 0), (decide (3 < c.u8 25), .range, 25)] ++
      rsvdBytes c 26 27) fun _ =>
    let l := if dab then s.win.scanDab[a] else s.win.scanFm[a]
    let k := s.freeCnt
    .ok { s with freeCnt := k + n } [] (some ((List.range n).flatMap fun i => (scanOld dab l k i).bytes))

/-- WIN_SCAN_READ (R138). -/
def execWinScanRead (c : CmdEntry) (s : State) : Host.Outcome State Fault Refusal := .next (s.runCmd 0x0218 c (bodyWinScanRead c))

end Sys2Proof.Machine
end

