-- ==== Sys2Proof/Machine/SvcOps.lean ====
section
/-!
DEFINITION. What the service commands and all runners share: which contexts a runner serves and its limits (R144, R183, R211), when
a context is ready, marks and lost units of a runner's contexts, quality results (R164, R192, R213), MOT objects (R189), concealment
(R187) and the checks of a probe runner (R161 to R163).
-/

namespace Sys2Proof.Machine

/-! ### Runner types -/

/-- FM runners 0 to 15. -/
def isFm (r : Fin 32) : Bool := decide (r.val < 16)
/-- AM runners 16 to 23. -/
def isAm (r : Fin 32) : Bool := within 16 23 r.val
/-- DAB runners 24 to 27. -/
def isDab (r : Fin 32) : Bool := within 24 27 r.val
/-- DRM runners 28 to 31. -/
def isDrm (r : Fin 32) : Bool := decide (28 ≤ r.val)

/-! ### KINDs, components and limits (R144, R183, R211, R257) -/

/-- The runner serves the KIND. -/
def kindServed (r : Fin 32) (kind : Nat) : Bool :=
  if r.val < 16 then decide (kind = 0 ∨ kind = 3 ∨ kind = 5)
  else if r.val < 24 then decide (kind = 0)
  else if r.val < 28 then decide (kind = 0 ∨ kind = 1 ∨ kind = 2 ∨ kind = 5)
  else decide (kind = 0 ∨ kind = 4 ∨ kind = 5)

/-- COMPONENT of an FM or AM context (R144). -/
def fmCompOk (kind : Nat) (w : W) : Bool :=
  if kind = 0 then decide (w = 0) else decide (fld w 20 12 = 0) && decide (fld w 16 4 ≠ 0)

/-- A subchannel number where ADDR is 0. -/
def subIdOk (w : W) : Bool := decide (compAddr w ≠ 0) || decide (compId w ≤ 63)

/-- COMPONENT of a DAB context (R182, R183, R257). -/
def dabCompOk (kind : Nat) (w : W) : Bool :=
  let addr := compAddr w
  decide (fld w 8 8 = 0) && subIdOk w &&
  match kind with
  | 0 => decide (addr ≤ 1) && decide (compForm w = 0) && decide (compPaddr w = 0)
  | 1 => decide (compForm w = 0) && decide (compPaddr w = 0) && (decide (addr ≤ 1) || (decide (addr = 2) && decide (compId w = 0)))
  | 2 => (decide (addr = 0) && decide (compForm w ≤ 2)) || (decide (addr = 1) && decide (compForm w ≤ 2) && decide (compPaddr w = 0)) ||
         (decide (addr = 3) && within 1 2 (compForm w) && decide (compPaddr w = 0))
  | _ => decide (compForm w = 0) && (decide (addr = 0) || (decide (addr = 1) && decide (compPaddr w = 0)))

/-- A short ID or a stream number. -/
def lowId (w : W) : Bool := decide (compDrmId w ≤ 3)

/-- COMPONENT of a DRM context (R210, R211, R257). -/
def drmCompOk (kind : Nat) (w : W) : Bool :=
  let addr := compAddr w
  let plain := decide (compForm w = 0) && decide (compPid w = 0)
  match kind with
  | 0 => plain && ((decide (addr = 0) && lowId w) || decide (addr = 1))
  | 4 => (plain && ((decide (addr = 0) && lowId w) || decide (addr = 1) || (decide (addr = 2) && lowId w))) ||
         (decide (addr = 3) && decide (compForm w ≤ 2) && lowId w)
  | _ => decide (addr = 3) && decide (compForm w = 0) && lowId w

/-- COMPONENT is legal for the KIND. -/
def compOk (r : Fin 32) (kind : Nat) (w : W) : Bool :=
  if r.val < 24 then fmCompOk kind w else if r.val < 28 then dabCompOk kind w else drmCompOk kind w

/-- Contexts of a runner that satisfy a test. -/
def State.countCtx (s : State) (r : Fin 32) (p : Ctx → Bool) : Nat := ((s.ctxsOf r).filter fun c => p s.svc.ctx[c]).length

/-- A DAB or DRM context that delivers MOT objects. -/
def Ctx.isMot (x : Ctx) (r : Fin 32) : Bool :=
  decide (compForm x.component = 2) && ((isDab r && decide (x.kind = 2)) || (isDrm r && decide (x.kind = 4)))

/-- Another context of this KIND and COMPONENT exceeds a limit of the runner. -/
def State.overLimit (s : State) (r : Fin 32) (kind : Nat) (w : W) : Bool :=
  let n := fun p => s.countCtx r p
  let same := n fun x => decide (x.kind.toNat = kind)
  let mot := compForm w = 2 ∧ ((isDab r ∧ kind = 2) ∨ (isDrm r ∧ kind = 4))
  let five := (allIx fun c : Fin 256 => decide (s.svc.ctx[c].st ≠ .free) && decide (s.svc.ctx[c].kind = 5)).length
  (decide (kind = 5) && (decide (1 ≤ same) || decide (4 ≤ five))) ||
  (if r.val < 24 then decide ((kind = 0 ∧ 1 ≤ same) ∨ (kind = 3 ∧ 8 ≤ same))
   else if r.val < 28 then
     decide (64 ≤ n fun _ => true) ||
     (decide (kind = 1 ∧ compAddr w = 2) && decide (1 ≤ n fun x => decide (x.kind = 1) && decide (compAddr x.component = 2))) ||
     (decide (kind = 2 ∧ compAddr w = 3) && decide (8 ≤ n fun x => decide (x.kind = 2) && decide (compAddr x.component = 3))) ||
     (decide mot && decide (8 ≤ n fun x => x.isMot r))
   else
     decide (kind = 0 ∧ 4 ≤ same) || decide (kind = 4 ∧ 8 ≤ same) || (decide mot && decide (4 ≤ n fun x => x.isMot r)))

/-- An audio context on a DAB or DRM runner holds a decoder (R22). -/
def needsDecoder (r : Fin 32) (kind : Nat) : Bool := decide (kind = 0) && decide (24 ≤ r.val)

/-! ### Shadows give way (R219) -/

/-- Score of the candidate that a shadow decodes. -/
def State.shadowScore (s : State) (c : Fin 256) : Nat :=
  match s.svc.ctx[c].shadowOf with
  | none => 0
  | some f =>
    match s.fan.follow[f].cands.find? fun e => match e with | some k => decide (k.shadow = some c) | none => false with
    | some (some k) => k.score
    | _ => 0

/-- The lowest-scored shadow that satisfies a test. -/
def State.lowestShadow (s : State) (p : Fin 256 → Bool) : Option (Fin 256) :=
  (allIx fun c : Fin 256 => s.svc.ctx[c].shadowOf.isSome && decide (s.svc.ctx[c].st ≠ .free) &&
    decide (s.svc.ctx[c].st ≠ .closing) && p c).foldl
    (fun b c => match b with
      | none => some c
      | some d => if s.shadowScore c < s.shadowScore d then some c else some d) none

/-- A shadow gives its decoder and its place on the runner to the host at once. -/
def State.yieldShadow (s : State) (c : Fin 256) : State :=
  ((s.releaseShadow c).modCtx c fun x => { x with decoder := 31 }).ctxClosed c

/-- The state in which a host open finds the decoder or the audio place of an FM or AM runner that a shadow held. -/
def State.makeRoom (s : State) (r : Fin 32) (kind : Nat) : State :=
  let need :=
    if needsDecoder r kind ∧ s.freeDecoder.isNone then s.lowestShadow fun c => decide (s.svc.ctx[c].decoder ≠ 31)
    else if r.val < 24 ∧ kind = 0 ∧ 1 ≤ s.countCtx r (fun x => decide (x.kind = 0)) then
      s.lowestShadow fun c => decide (s.svc.ctx[c].runner = r)
    else none
  match need with
  | none => s
  | some c => s.yieldShadow c

/-! ### A context is ready (R145, R158, R184, R211) -/

/-- The component carries what the context's KIND needs (R184, R185). TMId: 0 stream audio, 1 stream data, 3 packet data. -/
def dabFits (x : Ctx) (k : DabComp) : Bool :=
  match x.kind.toNat with
  | 0 => decide (k.tmid = 0) && decide (k.ascty = 0 ∨ k.ascty = 63)
  | 1 => decide (k.tmid = 1)
  | 2 => if compAddr x.component = 3 then decide (k.tmid = 0) else decide (k.tmid = 3)
  | _ => decide (k.tmid = 3)

/-- The conditions of R184. -/
def DabState.ready (d : DabState) (x : Ctx) : Bool :=
  if compAddr x.component = 2 then true
  else
    match d.component x with
    | none => false
    | some k =>
      dabFits x k && decide (16 ≤ d.stored) &&
        (!(x.needsSuper && decide (k.ascty = 63)) || d.superSync.any fun e => decide (some e.1 = d.subOf x))

/-- Frames that the interleaver spans (R199 step 5). -/
def DrmState.depth (d : DrmState) : Nat := if d.longIl then (if d.mode = some 4 then 6 else 5) else 1

/-- Short ID of the service that a DRM context addresses. -/
def DrmState.serviceOf (d : DrmState) (x : Ctx) : Option (List Byte) :=
  (d.services.find? fun e =>
    if compAddr x.component = 0 then decide (e.1.val = compDrmId x.component)
    else decide (compAddr x.component = 1) && decide (leNat (slice e.2 0 3) = compDrmId x.component)).map Prod.snd

/-- The audio coding of SDC type 9 is AAC or xHE-AAC (R206; log 31). -/
def drmCodingOk (record : List Byte) : Bool := decide (record.getD 5 0 = 0 ∨ record.getD 5 0 = 3)

/-- The conditions of R211. -/
def DrmState.ready (d : DrmState) (x : Ctx) : Bool :=
  d.sdcComplete && decide (d.depth ≤ d.stored) &&
  if compAddr x.component ≤ 1 then
    match d.serviceOf x with
    | none => false
    | some r => decide (x.kind ≠ 0) || drmCodingOk r
  else d.streams.any fun e => decide (e.1.val = fld x.component 0 2)

/-- AID of an RDS context (R144). -/
def compAid (w : W) : BitVec 16 := BitVec.ofNat 16 (fld w 0 16)

/-- The runner has seen the assignment of the context's AID on one of its streams, or the context is raw (R158). -/
def RdsState.assigned (d : RdsState) (x : Ctx) : Bool :=
  (decide (compAid x.component = 0) && decide (x.kind = 3)) ||
    d.oda.any fun e => x.component.getLsbD (16 + e.1.val) && decide (e.2.1 = compAid x.component)

/-- A context may run: its runner holds lock and its component is available. -/
def Runner.ready (u : Runner) (r : Fin 32) (x : Ctx) : Bool :=
  u.lock && if r.val < 24 then (decide (x.kind = 0) || u.fm.rds.assigned x)
            else if r.val < 28 then u.dab.ready x else u.drm.ready x

/-- PRELAG of the policy in ms (R247). -/
def State.preLag (s : State) : Nat := leNat (slice s.fan.policy 20 2)

/-- KiB that a delay of so many frames holds (R235). -/
def delayKib (frames : Nat) : Nat := if frames = 0 then 0 else ceilDiv (6 * frames) 1024 + 1

/-- The allocation of a context becomes one for so many frames; none when the pool refuses (R235, R289). -/
def State.allocDelay (s : State) (c : Fin 256) (frames : Nat) : Option State :=
  let held := s.svc.ctx[c].delay.toNat
  let want := delayKib frames
  if want ≤ held + s.aud.poolFree then
    some (({ s with aud := { s.aud with poolFree := s.aud.poolFree + held - want } }).modCtx c fun x =>
      { x with delay := BitVec.ofNat 16 want })
  else none

/-- Source 68: the pool has refused an allocation (R289, R298). -/
def State.poolRefused (s : State) (c : Fin 256) (frames : Nat) : State :=
  s.raise 68 0 ([byte c.val, s.svc.ctx[c].gen, 0, 0] ++ leBytes 4 (delayKib frames) ++ leBytes 4 s.aud.poolFree)

/-- The delay of an FM or AM stream in 1/1,024 output sample of its window, when that window's DCAP holds it (R236). -/
def State.stageDelay (s : State) (r : Fin 32) (frames : Nat) : Option (Fin 64 × Nat) :=
  match s.windowOf r with
  | none => none
  | some w =>
    let v := if isFm r then 8192 * frames else 512 * frames
    if r.val < 24 ∧ v ≤ 1024 * s.win.win[w].dcap then some (w, v) else none

/-- The delay of a context's stream takes its place (R235 to R237): the window's delay stage on every leg, or the pool; none when the
pool refuses. -/
def State.placeDelay (s : State) (c : Fin 256) (frames : Nat) (ramp : Bool) : Option State :=
  match s.stageDelay s.svc.ctx[c].runner frames with
  | some (w, v) => some ((s.freeDelay c).modWin w fun x => x.mapLegs fun l => l.setDelay v ramp)
  | none => s.allocDelay c frames

/-- A context enters RUNNING with reason 1; a followed one that first does so takes PRELAG as its delay (R237). -/
def State.toRunning (s : State) (c : Fin 256) : State :=
  let x := s.svc.ctx[c]
  let s := (s.moveCtx c .running 1).modCtx c fun x => { x with fadeIn := 0 }
  if x.follow ∧ x.delivered = 0 ∧ s.fan.follow[c].delayFrames = 0 ∧ s.preLag ≠ 0 then
    match s.placeDelay c (48 * s.preLag) true with
    | none => s.poolRefused c (48 * s.preLag)
    | some t => t.modFollow c fun w => { w with delayFrames := 48 * s.preLag }
  else s

/-- Every ACQUIRING context of a runner that satisfies a test and is ready enters RUNNING. -/
def State.startReady (s : State) (r : Fin 32) (p : Ctx → Bool) : State :=
  (s.ctxsOf r).foldl (fun s c =>
    let x := s.svc.ctx[c]
    if x.st = .acquiring ∧ p x = true ∧ s.svc.run[r].ready r x = true then s.toRunning c else s) s

/-- The context takes output: ready and ACQUIRING, or RUNNING. -/
def State.takesUnit (s : State) (r : Fin 32) (c : Fin 256) : Bool :=
  let x := s.svc.ctx[c]
  decide (x.runner = r) && (decide (x.st = .running) || (decide (x.st = .acquiring) && s.svc.run[r].ready r x))

/-- A data unit for a context; the first moves it to RUNNING (R184). -/
def State.giveUnit (s : State) (r : Fin 32) (c : Fin 256) (payload : List Byte) (tag : W) (ts : D) (mot : Option (BitVec 16)) :
    State :=
  if s.takesUnit r c ∧ s.svc.ctx[c].isData = true then
    let s := if s.svc.ctx[c].st = .acquiring then s.toRunning c else s
    s.deliver c payload ts tag 0 false mot
  else s

/-! ### Marks and lost units (R15, R190, R191, R209) -/

/-- Units of a context in so many window output samples of an FM or AM runner, rounded up: 1 ms of audio, or an RDS group of 104
bits at 1,187.5 bit/s. -/
def unitsIn (r : Fin 32) (x : Ctx) (n : Nat) : Nat :=
  if r.val < 16 then (if x.kind = 0 then ceilDiv n 384 else ceilDiv (n * 2375) 79872000) else ceilDiv n 24

/-- A context has given output before, so that losses are counted for it (R12). -/
def Ctx.hasOutput (x : Ctx) : Bool := decide (x.st = .running) || decide (x.delivered ≠ 0)

/-- The next unit of a context carries DISC with so many units more. -/
def Ctx.mark (x : Ctx) (n : Nat) : Ctx :=
  if x.hasOutput ∧ n ≠ 0 then { x with lost := satAdd (2 ^ 24 - 1) x.lost n, discDue := true } else x

/-- Marks that the windows handed on reach the contexts of an FM or AM runner (R15). -/
def State.spreadCarry (s : State) (r : Fin 32) : State :=
  let n := s.svc.run[r].carry
  if n = 0 then s
  else (s.ctxsOf r).foldl (fun s c => s.modCtx c fun x => x.mark (unitsIn r x n)) (s.modRun r fun u => { u with carry := 0 })

/-- Units of a DAB context in one CIF, or of a DRM context in one frame of `ms`; how many packets or groups lay in one that never
came the spec does not say: free value `k`. An FIC context has its units in frames, not in CIFs. -/
def unitsPer (dab : Bool) (ms : Nat) (x : Ctx) (k : Nat) : Nat :=
  if x.kind = 0 then ms
  else if dab then
    (if x.kind = 1 then (if compAddr x.component = 2 then 0 else 1) else Config.freeNat k)
  else if x.kind = 4 ∧ compAddr x.component ≤ 2 then 1 else Config.freeNat k

/-- `n` CIFs or frames gave the runner's contexts nothing: their units are lost, SEQ included (R188, R191, R209). -/
def State.lostFrames (s : State) (r : Fin 32) (ms n : Nat) : State :=
  if n = 0 then s
  else
    (s.ctxsOf r).foldl (fun s c =>
      let x := s.svc.ctx[c]
      let s := { s with freeCnt := s.freeCnt + 1 }
      if x.hasOutput then s.loseUnits c (n * unitsPer (isDab r) ms x (s.freeCnt - 1)) else s) s

/-- The CIF or frame spans erased cells of the contexts that satisfy a test: their next unit carries DISC with the units of one CIF or frame
(R190, R209). -/
def State.erasedFrame (s : State) (r : Fin 32) (ms : Nat) (p : Ctx → Bool) : State :=
  (s.ctxsOf r).foldl (fun s c =>
    let k := s.freeCnt
    ({ s with freeCnt := k + 1 }).modCtx c fun x => if p x then x.mark (max 1 (unitsPer (isDab r) ms x k)) else x) s

/-- Frames missing between two capture timestamps a period apart, in ADC periods. -/
def framesMissed (last : Option D) (ts : D) (period : Nat) : Nat :=
  match last with
  | none => 0
  | some l => ((ts - l).toNat + period / 2) / period - 1

/-! ### Mismatches (R184, R206) -/

/-- A context whose component shows the wrong type is reported once (R184, R206). -/
def State.reportMismatch (s : State) (r : Fin 32) (bad : Ctx → Bool) : State :=
  (s.ctxsOf r).foldl (fun s c =>
    let x := s.svc.ctx[c]
    let m := decide (x.st = .acquiring) && bad x
    let s := s.modCtx c fun x => { x with mismatch := m }
    if m = true ∧ x.mismatch = false then s.raise 32 2 (ctxData c x 2 3) else s) s

/-! ### Settings and quality of FM and AM runners (R164 to R166) -/

/-- Defaults of R166: bytes 25 to 38 of SVC_FM_CFG. -/
def fmDefaults : List Byte := [0, 0, 1, 1, 2, 14, 4, 20, 24, 8, 30, 30, 16, 6]
/-- Ranges of R166 for those bytes. -/
def fmRanges : List (Nat × Nat) :=
  [(0, 2), (0, 1), (0, 2), (1, 15), (0, 5), (0, 60), (0, 60), (0, 40), (0, 60), (0, 60), (15, 100), (0, 60), (0, 60), (0, 20)]
/-- Defaults of R166: bytes 25 to 33 of SVC_AM_CFG. -/
def amDefaults : List Byte := [0, 9, 20, 6, 24, 30, 12, 15, 10]
/-- Ranges of R166 for those bytes. -/
def amRanges : List (Nat × Nat) := [(0, 1), (4, 10), (0, 60), (0, 60), (0, 40), (0, 60), (0, 60), (10, 50), (0, 20)]

/-- Settings in force. -/
def FmState.settings (f : FmState) (r : Fin 32) : List Byte :=
  if f.cfg = [] then (if isFm r then fmDefaults else amDefaults) else f.cfg

/-- Setting `i` in force. -/
def FmState.setting (f : FmState) (r : Fin 32) (i : Nat) : Nat := ((f.settings r).getD i 0).toNat

/-- A quality byte that saturates at 255. -/
def sat8 (n : Nat) : Byte := byte (min 255 n)

/-- Uncorrectable blocks of a stream in % (R164). -/
def RdsState.blerOf (d : RdsState) (i : Fin 4) : Byte :=
  let h := d.bler[i]
  if h.isEmpty then 0 else byte (100 * (h.filter id).length / h.length)

/-- The mean of a quantity, in 1/`unit` of what the ticks hold: the last 16 ticks on FM, the last 32 on AM; how it is rounded the spec does
not state (R164; log 105). -/
def FmState.mean (f : FmState) (r : Fin 32) (v : FmTick → Int) (unit : Nat) : Int :=
  let l := f.hist.take (if isFm r then 16 else 32)
  if l.isEmpty then 0 else quotAt 164 (l.map v).sum (unit * l.length)

/-- The mean CNR in 0.25 dB. -/
def FmState.cnr (f : FmState) (r : Fin 32) : Nat := (f.mean r (fun t => (t.m.cnr : Int)) 1).toNat

/-- The mean multipath indicator in 0.5 %. -/
def FmState.multipath (f : FmState) (r : Fin 32) : Nat := (f.mean r (fun t => (t.m.multipath : Int)) 1).toNat

/-- The mean power in 0.01 dBm at the RF_INn pin. -/
def FmState.power (f : FmState) (r : Fin 32) : Int := f.mean r (fun t => t.m.power) 1

/-- The adjacent channels' offset in kHz: 100 on FM, RASTER on AM (R150, R164). -/
def FmState.raster (f : FmState) (r : Fin 32) : Int := if isFm r then 100 else if f.setting r 0 = 1 then 10 else 9

/-- The stronger adjacent channel of a tick, while one rises above the noise floor. -/
def FmState.adjacentOf (f : FmState) (r : Fin 32) (t : FmTick) : Option Int :=
  ((t.m.adjacent.filter fun e => decide (e.1 = f.raster r) || decide (e.1 = -f.raster r)).map Prod.snd).max?

/-- Byte 22: the mean over the ticks that had an adjacent channel, -128 without one (R164). -/
def FmState.adjacent (f : FmState) (r : Fin 32) : Int :=
  let l := (f.hist.take (if isFm r then 16 else 32)).filterMap (f.adjacentOf r)
  if l.isEmpty then -128 else quotAt 164 l.sum l.length

/-- The largest value of a measure over the last 100 ms. -/
def FmState.peak (f : FmState) (v : RunnerMetrics → Nat) : Nat := (f.hist.map fun t => v t.m).foldl max 0

/-- The last tick found modulation. -/
def FmState.modulated (f : FmState) : Bool := (f.hist.head?.map fun t => t.m.modulated).getD false

/-- The feed of the reference leg of the window that feeds a runner, and the window's frequency. -/
def State.feedOf (s : State) (r : Fin 32) : Option (Feed × Nat) :=
  (s.windowOf r).bind fun w => s.win.win[w].refLeg.map fun l => (s.cap.feed[l.ant], s.win.win[w].freq)

/-- A level report of a runner in 0.25 dBm for a power in 0.01 dBm at the RF_INn pin: at the antenna terminal (R102, R164). -/
def State.levelAt (s : State) (r : Fin 32) (power : Int) : Int :=
  match s.feedOf r with
  | some (f, hz) => f.level hz power
  | none => quotAt 102 power 25

/-- Byte 21: multipath on FM, modulation depth on AM (R164). -/
def FmState.byte21 (f : FmState) (r : Fin 32) (lock : Bool) : Byte :=
  if isFm r then sat8 (f.multipath r) else if lock && f.modulated then sat8 (f.peak RunnerMetrics.depth) else 0

/-- RESULT of SVC_QUALITY on an FM or AM runner, whose level is given (R164). -/
def Runner.fmQuality (u : Runner) (r : Fin 32) (level ref : Int) : List Byte :=
  let f := u.fm
  [byte (b01 u.lock + 2 * b01 f.pilot + 4 * f.rds.sync.toNat), sat8 (f.mean r (fun t => 4 * (t.mute : Int)) 65536).toNat] ++ leInt 2 level ++
  [sat8 (f.cnr r), f.byte21 r u.lock, (leInt 1 (f.adjacent r)).getD 0 0
  , if isFm r then sat8 (f.mean r (fun t => 255 * (t.sep : Int)) 65536).toNat else 0] ++
  leInt 2 (if u.lock then f.mean r (fun t => t.m.offset) 1 + ref else 0) ++
  [if isFm r ∧ u.lock = true ∧ f.modulated = true then sat8 (f.peak RunnerMetrics.deviation) else 0
  , sat8 (f.mean r (fun t => (t.corner : Int)) (65536 * 100)).toNat] ++
  if isFm r then [f.rds.blerOf 0, f.rds.blerOf 1, f.rds.blerOf 2, f.rds.blerOf 3] else [0, 0, 0, 0]

/-- FIBs that failed among the last 120, in % (R192). -/
def failPct (h : List Bool) : Nat := if h.isEmpty then 0 else 100 * (h.filter (! ·)).length / h.length

/-- The mean of a quantity over some ticks, 0 without one; how it is rounded the spec does not state (R192, R213; log 105). -/
def meanOf {α : Type} (l : List α) (v : α → Int) : Int := if l.isEmpty then 0 else quotAt 192 (l.map v).sum l.length

/-- Combined SNR in 0.25 dB, over the last 4 frames (R192). -/
def DabState.snr (d : DabState) : Nat := (meanOf d.ticks fun t => (t.snr : Int)).toNat

/-- RESULT of SVC_QUALITY on a DAB runner at a device time: `level` is that of its strongest leg, `legs` the occupied positions (R192). -/
def Runner.dabQuality (u : Runner) (level ref : Int) (legs : List (Fin 4)) (now : D) : List Byte :=
  let d := u.dab
  let m := fun v : DabTick → Int => meanOf d.ticks v
  [byte (b01 u.lock + 2 * b01 (u.lock && d.complete) + 4 * b01 d.reconf.isSome + 8 * b01 d.full + 16 * (d.contrib % 16)), byte legs.length] ++
  leInt 2 level ++ [sat8 d.snr, byte (failPct d.fibHist), sat8 (m fun t => (t.ficBer : Int)).toNat, sat8 (m fun t => (t.echo : Int)).toNat] ++
  leInt 2 ((m fun t => t.offset) + ref) ++
  [sat8 (m fun t => (t.spread : Int)).toNat, sat8 (u.degraded.filter fun t => decide ((now - t).toNat < 1000000)).length] ++
  (List.finRange 4).map fun p => if legs.contains p then sat8 (m fun t => ((t.legSnr.getD p.val 0 : Nat) : Int)).toNat else 0

/-- The ticks of the last 400 ms: 1 frame in modes A to D, 4 in mode E (R213). -/
def DrmState.recent (d : DrmState) : List DrmTick := d.ticks.take (if d.mode = some 4 then 4 else 1)

/-- Weighted MER in 0.25 dB (R213). -/
def DrmState.wmer (d : DrmState) : Nat := (meanOf d.recent fun t => (t.wmer : Int)).toNat

/-- RESULT of SVC_QUALITY on a DRM runner (R213). -/
def Runner.drmQuality (u : Runner) (level ref : Int) (legs : List (Fin 4)) : List Byte :=
  let d := u.drm
  let m := fun v : DrmTick → Int => meanOf d.recent v
  let mode := match d.mode with | some m => m.val | none => 0
  [byte (b01 u.lock + 2 * b01 d.facValid + 4 * b01 d.sdcComplete + 8 * b01 d.pendingReconf + 16 * (d.contrib % 16)),
   byte (mode + 8 * (d.so.toNat % 8) + 64 * b01 d.longIl)] ++ leInt 2 level ++
  [sat8 (m fun t => (t.mer : Int)).toNat, sat8 d.wmer, byte (failPct d.facHist),
   byte (20 * (d.sdcHist.filter (! ·)).length / max 1 d.sdcHist.length)] ++ leInt 2 ((m fun t => t.offset) + ref) ++
  [sat8 (m fun t => (t.spread : Int)).toNat, sat8 (m fun t => (t.doppler : Int)).toNat] ++
  (List.finRange 4).map fun p => if legs.contains p then sat8 (m fun t => ((t.legMer.getD p.val 0 : Nat) : Int)).toNat else 0

/-- What the reference error adds to a runner's frequency offset in units of `unit` Hz: REF_PPB of the tuned frequency (R431; log 105); 0
without a valid end-of-line record. -/
def State.refOffset (s : State) (r : Fin 32) (unit : Nat) : Int :=
  match s.windowOf r, s.cal.eolValid with
  | some w, true => quotAt 431 (s.cal.refPpb.toInt * (s.win.win[w].freq : Int)) (unit * 1000000000)
  | _, _ => 0

/-- The occupied positions of the window that feeds a runner. -/
def State.legsOf (s : State) (r : Fin 32) : List (Fin 4) := match s.windowOf r with | some w => s.win.win[w].positions | none => []

/-- The level of the leg at a position for a power in 0.01 dBm at its RF_INn pin, at its antenna terminal (R102). -/
def State.legLevel (s : State) (r : Fin 32) (p : Fin 4) (power : Int) : Int :=
  match s.windowOf r with
  | some w =>
    match s.win.win[w].legs[p] with
    | some l => s.cap.feed[l.ant].level s.win.win[w].freq power
    | none => quotAt 102 power 25
  | none => quotAt 102 power 25

/-- The level of the strongest leg (R192, R213). -/
def State.strongest (s : State) (r : Fin 32) (power : Fin 4 → Int) : Int :=
  (((s.legsOf r).map fun p => s.legLevel r p (power p)).max?).getD 0

/-! ### Probe runners (R161 to R163) -/

/-- The check at the front of the queue starts: the window retunes (R162 step 1). -/
def State.probeBegin (s : State) (r : Fin 32) : State :=
  match s.svc.run[r].fm.probes, s.windowOf r with
  | k :: _, some w =>
    let live := decide (s.win.win[w].mask (fun l => l.stopped.isNone) ≠ 0)
    (s.tuneWin w k.freq.toNat).modFm r fun f => { f with probeStart := s.sys.timeUs, probeInput := live, probeLevel := 0 }
  | _, _ => s

/-- The PI that a check reports: confirmed, else provisional, else 0. -/
def RdsState.bestPi (d : RdsState) : BitVec 16 := (d.pi.orElse fun _ => d.prov).getD 0

/-- Source 44 for a check (R167). -/
def State.probeEvent (s : State) (r : Fin 32) (k : ProbeCheck) (outcome cnr : Nat) : State :=
  let f := s.svc.run[r].fm
  s.raise 44 outcome ([byte r.val, k.tag, byte (b01 f.rds.pi.isSome), 0] ++ leBytes 4 k.freq.toNat ++
    leBytes 2 f.rds.bestPi.toNat ++ leInt 2 f.probeLevel ++ leBytes 2 (min 65535 (s.msSince f.probeStart)) ++ [sat8 cnr])

/-! ### Identifiers and links (R221 to R223) -/

/-- Byte `b` of FAN_POLICY in force. -/
def State.pol (s : State) (b : Nat) : Nat := (s.fan.policy.getD (b - 24) 0).toNat
/-- Bytes `b` and `b + 1`. -/
def State.pol16 (s : State) (b : Nat) : Nat := s.pol b + 256 * s.pol (b + 1)
/-- Bit of FLAGS: 0 SOFT, 1 REG, 2 ALLOW_UNALIGNED, 3 UNALIGNED_IMPROVE, 4 LEVEL_MATCH. -/
def State.polFlag (s : State) (i : Nat) : Bool := decide (s.pol 52 / 2 ^ i % 2 = 1)

/-- Service ID of a DRM service record. -/
def drmServiceId (record : List Byte) : W := BitVec.ofNat 32 (leNat (slice record 0 3))

/-- The identifier of a context's programme: confirmed PI, SId or DRM service ID (R221). -/
def State.identOf (s : State) (c : Fin 256) : W :=
  let x := s.svc.ctx[c]
  let u := s.svc.run[x.runner]
  if isFm x.runner then (u.fm.rds.pi.getD 0).setWidth 32
  else if isDab x.runner then (match u.dab.component x with | some k => k.sid | none => 0)
  else if isDrm x.runner then (match u.drm.serviceOf x with | some b => drmServiceId b | none => 0)
  else 0

/-- What the identifiers of a runner's standard are. -/
def idKind (r : Fin 32) : Option IdKind :=
  if isFm r then some .pi else if isDab r then some .sid else if isDrm r then some .drm else none

/-- The current identifier of a followed context, once its runner has one. -/
def State.curId (s : State) (f : Fin 256) : Option (IdKind × W) :=
  match idKind s.svc.ctx[f].runner with
  | none => none
  | some k => if s.identOf f = 0 then none else some (k, s.identOf f)

/-- Two identifiers are equal: of one standard, or a PI and a 16-bit SId (R221, R222). -/
def sameId (a b : IdKind × W) : Bool :=
  decide (a.2 = b.2) && (decide (a.1 = b.1) || (decide (a.1 ≠ .drm) && decide (b.1 ≠ .drm) && decide (a.2.toNat < 65536)))

/-- How an identifier is linked to the current one (R222): `some true` for an equal one or a hard link. -/
def State.linkOf (s : State) (f : Fin 256) (i : IdKind × W) : Option Bool :=
  match s.curId f with
  | none => none
  | some c =>
    let sets := s.fan.links.filter fun l => l.ids.any (sameId c) && l.ids.any (sameId i)
    if sameId c i ∨ sets.any LinkSet.hard = true then some true
    else if (s.polFlag 0 = true ∧ sets ≠ []) ∨
        (s.polFlag 1 = true ∧ i.1 = .pi ∧ c.1 = .pi ∧ i.2 &&& 0xFFFFF0FF = c.2 &&& 0xFFFFF0FF) then some false
    else none

/-- A check that finds a linked PI marks FM candidates of its frequency PI_SEEN (R223). -/
def State.markPiSeen (s : State) (freq : W) (pi : BitVec 16) : State :=
  (allIx fun f : Fin 256 => decide (s.svc.ctx[f].st ≠ .free) && s.svc.ctx[f].follow).foldl (fun s f =>
    if (s.linkOf f (.pi, pi.setWidth 32)).isNone then s
    else s.modFollow f fun w => { w with cands := w.cands.map fun e => e.map fun k =>
      if k.std = 1 ∧ k.freq = freq then { k with piSeen := true } else k }) s

/-- The running check ends with source 44, and the next starts at once (R162). -/
def State.probeEnd (s : State) (r : Fin 32) (outcome cnr : Nat) : State :=
  match s.svc.run[r].fm.probes with
  | [] => s
  | k :: rest =>
    let pi := s.svc.run[r].fm.rds.bestPi
    let s := s.probeEvent r k outcome cnr
    let s := if outcome = 0 then s.markPiSeen k.freq pi else s
    (s.modFm r fun f => { f with probes := rest }).probeBegin r

/-- Every leg of the window has had substituted samples since the check began (R163). -/
def State.probeDry (s : State) (r : Fin 32) : Bool := !s.svc.run[r].fm.probeInput

/-- A check that has found its PI ends (R162 step 3). -/
def State.probeFound (s : State) (r : Fin 32) (confirmed : Bool) : State :=
  match s.svc.run[r].fm.probes with
  | [] => s
  | k :: _ => if s.svc.run[r].fm.lent ∧ (k.confirm = true → confirmed = true) then s.probeEnd r 0 (s.svc.run[r].fm.cnr r) else s

/-- A reclaim ends every check with outcome 3 (R161). -/
def State.probeAbort (s : State) (r : Fin 32) : State :=
  let l := s.svc.run[r].fm.probes
  let s := l.foldl (fun s k => s.probeEvent r k 3 (s.svc.run[r].fm.cnr r)) s
  s.modFm r fun f => { f with probes := [], lent := false }

end Sys2Proof.Machine
end

