-- ==== Sys2Proof/Machine/BulOps.lean ====
section
/-!
DEFINITION. Bulletins (09_bulletins.md): the filter of a segment, reassembly, the check and the acceptance of a bulletin, its store,
revocations, the wake of the host, and the collection of segments from RDS groups.
-/

namespace Sys2Proof.Machine

/-- Update the bulletin block. -/
def State.modBulBlk (s : State) (f : BulBlk → BulBlk) : State := { s with bul := f s.bul }

/-! ### Fields of a segment and of a bulletin (R254, R256) -/

/-- A big-endian field. -/
def be (b : List Byte) (i n : Nat) : Nat := beNat (slice b i n)

/-- KIND, FLEET_ID, SEQ, OFFSET, TOTAL, SEG_LEN of a segment. -/
def segKind (b : List Byte) : Nat := be b 1 1
def segFleet (b : List Byte) : Nat := be b 2 8
def segSeq (b : List Byte) : Nat := be b 10 4
def segOffset (b : List Byte) : Nat := be b 14 4
def segTotal (b : List Byte) : Nat := be b 18 4
def segLen (b : List Byte) : Nat := be b 22 2

/-- RULES, KEY_ID, NOT_BEFORE, NOT_AFTER, LENGTH and payload of a bulletin. -/
def bulRules (b : List Byte) : Byte := b.getD 2 0
def bulKeyId (b : List Byte) : Nat := be b 3 1
def bulNotBefore (b : List Byte) : Nat := be b 16 8
def bulNotAfter (b : List Byte) : Nat := be b 24 8
def bulLength (b : List Byte) : Nat := be b 32 4
def bulPayload (b : List Byte) : List Byte := slice b 40 (bulLength b)

/-- Bytes of a bulletin signature, and of an ML-DSA-87 public key. -/
def sigLen : Nat := 4627
def pubLen : Nat := 2592

/-- The segment itself is sound (R256); a transport's limit bounds SEG_LEN. -/
def segOk (b : List Byte) (limit : Nat) : Bool :=
  let n := segLen b
  decide (b.length = 28 + n) && decide ((crc32c (b.take (24 + n))).toNat = be b (24 + n) 4) && decide (be b 0 1 = 1) &&
    decide (segOffset b + n ≤ segTotal b) && decide (n ≤ limit) && within 4667 70203 (segTotal b) &&
    decide (segOffset b % 128 = 0) && decide (n ≠ 0) && (decide (n % 128 = 0) || decide (segOffset b + n = segTotal b))

/-! ### Revocation (R348) -/

/-- A time has passed, as far as an RTC that has been set can tell. -/
def State.timePassed (s : State) (t : Nat) : Bool := s.sys.rtcSet && decide (t < s.rtc)

/-- Source 74 (R363). -/
def State.credEvent (s : State) (slot : Option (Fin 64)) (code rejected : Nat) (credId : List Byte) : State :=
  s.raise 74 code ([match slot with | some k => byte k.val | none => 0xFF, byte rejected, 0, 0] ++ slice credId 0 8)

/-- A credential slot is cleared, with its place among the recent ones. -/
def State.clearCred (s : State) (k : Fin 64) : State :=
  { s with cred := { s.cred with slots := upd s.cred.slots k fun _ => none, recent := s.cred.recent.filter fun j => decide (j ≠ k) } }

/-- The revoked list takes an entry: a full list gives up the entry of earliest NOT_AFTER, unless that is later than the new one. -/
def addRevoked (l : List (List Byte × D)) (e : List Byte × D) : List (List Byte × D) :=
  if l.length < 512 then l ++ [e]
  else
    let m := (l.map fun x => x.2.toNat).foldl min (2 ^ 64)
    if e.2.toNat < m then l
    else
      match l.findIdx? fun x => decide (x.2.toNat = m) with
      | some i => listUpd l i fun _ => e
      | none => l

/-- The entries of a revocation delta. -/
def deltaEntries (p : List Byte) : List (List Byte × D) :=
  (List.range (be p 0 2)).map fun i => (slice p (8 + 24 * i) 16, BitVec.ofNat 64 (be p (24 + 24 * i) 8))

/-- One revoked credential: slots that hold it are cleared with source 74 CODE 3, and the list takes it. -/
def State.revokeOne (s : State) (e : List Byte × D) : State :=
  let slots := allIx fun k : Fin 64 => match s.cred.slots[k] with | some c => decide (c.credId = e.1) | none => false
  let s := slots.foldl (fun s k => (s.clearCred k).credEvent (some k) 3 0 e.1) s
  { s with cred := { s.cred with revoked := addRevoked s.cred.revoked e } }

/-- A delta is applied; true when it cleared a slot. -/
def State.applyDelta (s : State) (p : List Byte) : State × Bool :=
  let l := deltaEntries p
  let hit := l.any fun e => s.cred.slots.toList.any fun c => match c with | some c => decide (c.credId = e.1) | none => false
  let s : State := { s with cred := { s.cred with revoked := s.cred.revoked.filter fun e => !s.timePassed e.2.toNat } }
  (l.foldl State.revokeOne s, hit)

/-! ### The store (R262 to R264) -/

/-- Free bytes of the store. -/
def BulBlk.free (b : BulBlk) : Nat := 520192 - (b.store.toList.map fun r => if r.st = 0 then 0 else r.bytes.length).sum

/-- Index of a record for so many bytes, if there is room. -/
def BulBlk.place (b : BulBlk) (n : Nat) : Option (Fin 128) :=
  if n ≤ b.free then firstIx fun r : Fin 128 => decide (b.store[r].st = 0) else none

/-- Records that may be reclaimed, in order: RELEASED ones, then expired ones by their NOT_AFTER (R263). -/
def State.reclaim (s : State) : List (Fin 128) :=
  let rel := allIx fun r : Fin 128 => decide (s.bul.store[r].st = 3)
  let old := allIx fun r : Fin 128 => decide (s.bul.store[r].st ≠ 0 ∧ s.bul.store[r].st ≠ 3) && s.timePassed (bulNotAfter s.bul.store[r].bytes)
  let key := fun r : Fin 128 => bulNotAfter s.bul.store[r].bytes
  rel ++ old.foldl (fun acc r => (acc.filter fun x => decide (key x ≤ key r)) ++ r :: acc.filter fun x => decide (key r < key x)) []

/-- Records are reclaimed one by one until so many bytes fit. -/
def State.makeSpace (s : State) (n : Nat) : State :=
  s.reclaim.foldl (fun s r => if (s.bul.place n).isSome then s else s.modBul r fun _ => {}) s

/-- Rollback counter of a kind 1 to 4. -/
def State.bulCtr (s : State) (kind : Nat) : Nat := match ix 4 (kind - 1) with | some i => s.bul.ctr[i].toNat | none => 0

/-! ### Waking the host (R265) -/

/-- Source 58, held back in WATCH until the host has enabled ring 2. -/
def State.bulWakeEvent (s : State) (code : Nat) (record : Option (Fin 128)) (kind seq : Nat) : State :=
  let data := [match record with | some r => byte r.val | none => 0xFF, byte kind, 0, 0] ++ leBytes 4 seq
  if s.pwr.st = .run then s.raise 58 code data else s.raiseDeferred 58 code data

/-- A bulletin asks for the host: in WATCH the host-wake request goes out, and the device leaves for RUN once no reception window is
open. -/
def State.bulWake (s : State) (code : Nat) (record : Option (Fin 128)) (kind seq : Nat) : State :=
  let s := match record with | some r => s.modBul r fun x => { x with wakeRaised := true } | none => s
  let s := s.bulWakeEvent code record kind seq
  if s.pwr.st = .watch then
    let s := if s.pwr.wakeAsked then s else (s.hostWake).modPwr fun p => { p with wakeAsked := true }
    if s.bul.winStep = 0 then s.wakeUp 6
    else if s.pwr.waking.isSome ∨ s.pwr.heldWake.isSome then s
    else s.modPwr fun p => { p with heldWake := some 6 }
  else s

/-- Why an accepted bulletin requires the host, if it does: WAKE_ALWAYS, or WAKE_IF_SLOT when its delta cleared a slot. -/
def State.bulNeedsHost (s : State) (kind : Nat) (rules : Byte) (evicted : Bool) : Option Nat :=
  if s.bul.wakeMask.getLsbD (kind - 1) = false then none
  else if rules.getLsbD 0 then some 0
  else if rules.getLsbD 1 ∧ evicted = true then some 1 else none

/-! ### Check and acceptance (R253, R261, R262) -/

/-- A kind 3 bulletin that is a key-rollover record. -/
def isRollover (b : List Byte) : Bool := decide (be b 1 1 = 3) && decide (1 ≤ bulLength b) && decide ((bulPayload b).getD 0 0 = 0x4B)

/-- The record names a slot, holds a key, and is signed with the other slot's key (R253). -/
def rolloverOk (b : List Byte) : Bool :=
  let slot := be (bulPayload b) 1 1
  decide (2 + pubLen ≤ bulLength b) && decide (slot ≤ 1) && decide (slot ≠ bulKeyId b)

/-- The payload of a revocation delta is sound (R348). -/
def deltaOk (b : List Byte) : Bool :=
  let p := bulPayload b
  within 1 2730 (be p 0 2) && decide (slice p 2 6 = List.replicate 6 0) && decide (bulLength b = 8 + 24 * be p 0 2)

/-- Step 1 of R261. -/
def State.bulForm (s : State) (kind seq : Nat) (b : List Byte) : Bool :=
  decide (be b 0 1 = 1) && decide (be b 1 1 = kind) && decide ((bulRules b).toNat < 8) && decide (bulKeyId b ≤ 1) &&
    decide (be b 4 8 = s.bul.fleetId.toNat) && decide (be b 12 4 = seq) && decide (slice b 36 4 = List.replicate 4 0) &&
    decide (b.length = 40 + bulLength b + sigLen) && decide (bulNotBefore b ≤ bulNotAfter b) &&
    (decide (kind ≠ 1) || deltaOk b) && (!isRollover b || rolloverOk b)

/-- The key slot that KEY_ID names. -/
def State.bulKey (s : State) (b : List Byte) : Option (List Byte) :=
  match ix 2 (bulKeyId b) with | some i => s.bul.keys[i] | none => none

/-- The first check of R261 that fails, as the CODE of source 57. -/
def State.bulCheck (s : State) (kind seq : Nat) (b : List Byte) : Option Nat :=
  if s.bulForm kind seq b = false then some 5
  else
    match s.bulKey b with
    | none => some 6
    | some key =>
      if Config.hashMldsaVerify key [] (Config.sha3 (b.take (40 + bulLength b))) (b.drop (40 + bulLength b)) = false then some 1
      else if s.timePassed (bulNotAfter b) then some 3
      else if seq ≤ s.bulCtr kind then some 2
      else none

/-- Source 57 (R271). -/
def State.bulRejected (s : State) (code kind seq : Nat) : State := s.raise 57 code ([0, byte kind, 0, 0] ++ leBytes 4 seq)

/-- The bulletin as one data unit to every open KIND 5 context (R262 step 5): TAG its KIND, DISC 0, LOST 0. The unit's TIMESTAMP the
spec does not state. -/
def State.bulDeliver (s : State) (kind : Nat) (b : List Byte) : State :=
  let k := s.freeCnt
  let s : State := { s with freeCnt := k + 1 }
  (allIx fun c : Fin 256 => decide (s.svc.ctx[c].kind = 5) && decide (s.svc.ctx[c].st ≠ .free) && decide (s.svc.ctx[c].st ≠ .closing)).foldl
    (fun s c => (s.modCtx c fun x => { x with lost := 0, discDue := false }).deliver c b (BitVec.ofNat 64 (Config.freeNat k))
      (BitVec.ofNat 32 kind) 0 false none) s

/-- A key-rollover record replaces the named slot. -/
def State.rollKey (s : State) (b : List Byte) : State :=
  match ix 2 (be (bulPayload b) 1 1) with
  | some i => s.modBulBlk fun x => { x with keys := upd x.keys i fun _ => some (slice (bulPayload b) 2 pubLen) }
  | none => s

/-- Steps 3 to 6 of R262, or source 59 where the store has no room (R263): the record's index. -/
def State.bulStore (s : State) (kind seq : Nat) (transport : Byte) (pending : Bool) (b : List Byte) : State × Option (Fin 128) :=
  let s := s.makeSpace b.length
  let at_ := s.bul.place b.length
  let r : BulRec := { st := 1, kind := byte kind, pending := pending, unchecked := !s.sys.rtcSet, transport := transport
                      seq := BitVec.ofNat 32 seq, acceptedAt := BitVec.ofNat 32 s.rtc, bytes := b }
  let s := match at_ with
    | some i =>
      let s := s.modBul i fun _ => r
      (match ix 4 (kind - 1) with
       | some k => s.modBulBlk fun x => { x with ctr := upd x.ctr k fun _ => BitVec.ofNat 32 seq }
       | none => s)
    | none => s
  let s := s.bulDeliver kind b
  let s := s.raise 56 0 ([match at_ with | some i => byte i.val | none => 0xFF, byte kind, transport, 0] ++ leBytes 4 seq ++
    leBytes 4 b.length)
  let s := if at_.isNone then s.raise 59 0 ([0, byte kind, 0, 0] ++ leBytes 4 seq ++ leBytes 4 s.bul.free) else s
  (s, at_)

/-- A bulletin that passes every check (R262, R263, R265). What NOT_BEFORE holds back waits in its record; with no record to wait in
it applies at once. -/
def State.bulAccept (s : State) (kind seq : Nat) (transport : Byte) (b : List Byte) : State :=
  let early := decide (s.rtc < bulNotBefore b)
  let s := if isRollover b then s.rollKey b else s
  let fits := ((s.makeSpace b.length).bul.place b.length).isSome
  let waits := early && fits
  let d := if kind = 1 ∧ waits = false then s.applyDelta (bulPayload b) else (s, false)
  let t := d.1.bulStore kind seq transport waits b
  let rules := bulRules b
  match t.1.bulNeedsHost kind rules d.2 with
  | some code => if rules.getLsbD 2 = true ∧ waits = true then t.1 else t.1.bulWake code t.2 kind seq
  | none => t.1

/-- BUL_NOT_BEFORE: what waited in a record takes effect (R262 step 2, R265). -/
def State.bulDue (s : State) (r : Fin 128) : State :=
  let x := s.bul.store[r]
  if x.st ≠ 0 ∧ x.pending = true then
    let s := s.modBul r fun x => { x with pending := false }
    let d := if x.kind = 1 then s.applyDelta (bulPayload x.bytes) else (s, false)
    let rules := bulRules x.bytes
    match d.1.bulNeedsHost x.kind.toNat rules d.2 with
    | some code => if x.wakeRaised then d.1 else d.1.bulWake code (some r) x.kind.toNat x.seq.toNat
    | none => d.1
  else s

/-! ### Reassembly (R259, R260) -/

/-- The buffer of a KIND and SEQ. -/
def BulBlk.bufOf (b : BulBlk) (kind seq : Nat) : Option (Fin 2) :=
  firstIx fun i : Fin 2 => match b.reasm[i] with | some r => decide (r.kind.toNat = kind) && decide (r.seq.toNat = seq) | none => false

/-- The buffer that a new reassembly displaces when both are taken (R260). -/
def BulBlk.victim (b : BulBlk) (kind seq : Nat) : Fin 2 :=
  let lower := firstIx fun i : Fin 2 =>
    match b.reasm[i] with | some r => decide (r.kind.toNat = kind) && decide (r.seq.toNat < seq) | none => false
  match lower with
  | some i =>
    match b.reasm[0], b.reasm[1] with
    | some x, some y => if x.kind = y.kind ∧ y.seq.toNat < x.seq.toNat ∧ x.kind.toNat = kind then 1 else i
    | _, _ => i
  | none =>
    match b.reasm[0], b.reasm[1] with
    | some x, some y => if y.first.toNat < x.first.toNat then 1 else 0
    | _, _ => 0

/-- Set a reassembly buffer. -/
def State.setReasm (s : State) (i : Fin 2) (r : Option Reasm) : State :=
  s.modBulBlk fun b => { b with reasm := upd b.reasm i fun _ => r }

/-- A buffer for a new key: a free one, or a displaced one with source 57 CODE 8. -/
def State.takeReasm (s : State) (kind seq total : Nat) (transport : Byte) : State × Fin 2 :=
  let new : Reasm := { kind := byte kind, seq := BitVec.ofNat 32 seq, total := total, units := [], data := [], first := s.sys.timeUs
                       transport := transport }
  match firstIx fun i : Fin 2 => s.bul.reasm[i].isNone with
  | some i => (s.setReasm i (some new), i)
  | none =>
    let i := s.bul.victim kind seq
    let s := match s.bul.reasm[i] with
      | some o => s.bulRejected 8 o.kind.toNat o.seq.toNat
      | none => s
    (s.setReasm i (some new), i)

/-- A segment's 128-byte units join a buffer. -/
def Reasm.join (r : Reasm) (off : Nat) (data : List Byte) (transport : Byte) : Reasm :=
  let us := (List.range (ceilDiv data.length 128)).map fun i => off / 128 + i
  { r with
    units := r.units ++ us.filter fun u => !r.units.contains u
    data := (r.data.filter fun e => !us.contains e.1) ++ us.map fun u => (u, (data.drop (128 * (u - off / 128))).take 128)
    transport := transport }

/-- Every unit is filled. -/
def Reasm.full (r : Reasm) : Bool := (List.range (ceilDiv r.total 128)).all r.units.contains

/-- The bulletin in a full buffer. -/
def Reasm.bytes (r : Reasm) : List Byte :=
  (List.range (ceilDiv r.total 128)).flatMap fun u => match r.data.find? fun e => decide (e.1 = u) with | some e => e.2 | none => []

/-- A full buffer is checked, and freed (R261). -/
def State.bulComplete (s : State) (i : Fin 2) : State :=
  match s.bul.reasm[i] with
  | none => s
  | some r =>
    if r.full then
      let s := s.setReasm i none
      match s.bulCheck r.kind.toNat r.seq.toNat r.bytes with
      | some code => s.bulRejected code r.kind.toNat r.seq.toNat
      | none => s.bulAccept r.kind.toNat r.seq.toNat r.transport r.bytes
    else s

/-- TLM.BUL[i] (R506). -/
def State.bulCount (s : State) (i : Nat) : State := s.bump (0xBC00 + 4 * i) 1

/-- A segment that has passed filter and checks joins the buffer of its key; another TOTAL than the buffer's is a length failure. -/
def State.bulJoin (s : State) (b : List Byte) (transport : Byte) : State :=
  let kind := segKind b
  let seq := segSeq b
  let data := slice b 24 (segLen b)
  match s.bul.bufOf kind seq with
  | some i =>
    match s.bul.reasm[i] with
    | some r =>
      if r.total = segTotal b then ((s.bulCount 0).setReasm i (some (r.join (segOffset b) data transport))).bulComplete i
      else s.bulCount 4
    | none => s
  | none =>
    let t := (s.bulCount 0).takeReasm kind seq (segTotal b) transport
    match t.1.bul.reasm[t.2] with
    | some r => (t.1.setReasm t.2 (some (r.join (segOffset b) data transport))).bulComplete t.2
    | none => t.1

/-- A segment (R256, R259, R506): the header is compared first, and the first rule that drops it counts it. -/
def State.bulSegment (s : State) (b : List Byte) (transport : Byte) (limit : Nat) : State :=
  if b.length < 28 then s.bulCount 4
  else if segFleet b ≠ s.bul.fleetId.toNat ∨ segFleet b = 0 then s.bulCount 1
  else if within 1 4 (segKind b) = false then s.bulCount 2
  else if segSeq b < s.bulCtr (segKind b) then s.bulCount 3
  else if segSeq b = s.bulCtr (segKind b) then s.bulCount 6
  else if segOk b limit = false then s.bulCount 4
  else s.bulJoin b transport

/-! ### Who carries segments (R257, R266) -/

/-- The reception window in WATCH is open on a runner. -/
def State.watchListens (s : State) (r : Fin 32) : Bool :=
  decide (s.pwr.st = .watch) && decide (s.bul.winStep = 3) && decide (s.bul.watchRunner.toNat = r.val)

/-- A KIND 5 context of the runner is RUNNING, or the WATCH window listens on it. -/
def State.carries (s : State) (r : Fin 32) : Bool :=
  s.watchListens r || (s.ctxsOf r).any fun c => decide (s.svc.ctx[c].kind = 5) && decide (s.svc.ctx[c].st = .running)

/-- The COMPONENTs under which a runner carries segments. -/
def State.segComps (s : State) (r : Fin 32) : List W :=
  (if s.watchListens r then [s.bul.watchComp] else []) ++
    ((s.ctxsOf r).filter fun c => decide (s.svc.ctx[c].kind = 5) && decide (s.svc.ctx[c].st = .running)).map fun c => s.svc.ctx[c].component

/-! ### Segments in RDS groups (R258) -/

/-- The collection of a stream changes. -/
def State.setSeg (s : State) (r : Fin 32) (k : Fin 4) (x : List Byte × Option (BitVec 4)) : State :=
  s.modFm r fun f => { f with rds := { f.rds with seg := upd f.rds.seg k fun _ => x } }

/-- A segment is whole once its header and the SEG_LEN that it names have arrived; beyond the limit of RDS nothing more is awaited. -/
def segWhole (b : List Byte) : Bool := decide (24 ≤ b.length) && decide (28 + min 128 (segLen b) ≤ b.length)

/-- The collected bytes, with the group's four; a whole segment is handed over without its padding. -/
def State.segPiece (s : State) (r : Fin 32) (k : Fin 4) (old four : List Byte) (count : BitVec 4) : State :=
  let b := old ++ four
  if segWhole b then (s.setSeg r k ([], none)).bulSegment (b.take (28 + segLen b)) 1 128
  else s.setSeg r k (b, some (count + 1))

/-- An open-data group of the context's AID: START begins a segment; an uncorrectable block 3 or 4 or a skipped count discards the one
in collection. `w2` is block 2, `bad` says that block 3 or 4 is uncorrectable. -/
def State.segGroup (s : State) (r : Fin 32) (k : Fin 4) (w2 : BitVec 16) (bad : Bool) (four : List Byte) : State :=
  let x := s.svc.run[r].fm.rds.seg[k]
  let count : BitVec 4 := w2.setWidth 4
  if w2.getLsbD 4 then
    let s := if x.2.isSome then s.bulCount 5 else s
    if bad then (s.setSeg r k ([], none)).bulCount 5 else s.segPiece r k [] four count
  else
    match x.2 with
    | none => s
    | some n => if bad ∨ n ≠ count then (s.setSeg r k ([], none)).bulCount 5 else s.segPiece r k x.1 four count

end Sys2Proof.Machine
end

