-- ==== Sys2Proof/Machine/Units.lean ====
section
/-!
DEFINITION. Units that decoded frames give the contexts: audio with its fade-in, rate conversion and concealment (R145, R148, R171, R185,
R187, R206), packets and data groups (R188, R212), and MOT objects (R189). Packets and data groups are those of EN 300 401 and ES 201 980,
MOT objects those of EN 301 234, which the spec names and does not print (PRESUMED, log 125).
-/

namespace Sys2Proof.Machine

/-! ### Audio units -/

/-- Frames by which the delay pool delays a context's stream (R235, R236); one whose window's stage holds its delay has none there. -/
def State.poolFrames (s : State) (c : Fin 256) : Nat :=
  if s.svc.ctx[c].delay = 0 then 0
  else
    match s.svc.ctx[c].shadowOf with
    | none => s.fan.follow[c].delayFrames
    | some f =>
      match s.fan.follow[f].cands.findSome? fun e => e.bind fun k => if k.shadow = some c then some k.lag else none with
      | some lag => ((s.fan.follow[f].delayFrames : Int) - lag).toNat
      | none => 0

/-- Frames enter a delay line: those of a gap before them, and their own (R241, R242). -/
def Ctx.push (x : Ctx) (hole : Option (Int × Int)) (lost : Nat) (frames : List (Int × Int)) : Ctx :=
  { x with line := x.line ++ List.replicate (48 * min lost 6000) hole ++ frames.map some }

/-- A shadow's line keeps what its delay and the frame in progress need. -/
def Ctx.trim (x : Ctx) (delay : Nat) : Ctx := { x with line := x.line.drop (x.line.length - (delay + 48)) }

/-- The frame that a shadow gives `i` frames after its read point. -/
def State.shadowFrame (s : State) (c : Fin 256) (i : Nat) : W × W := frameWords (((s.svc.ctx[c].line.getD i none)).getD (0, 0))

/-- What a blend or dip brings in `i` frames after the read point; nothing yet where no shadow decodes it. -/
def State.incoming (s : State) (w : Follow) (b : Blend) (i : Nat) : W × W :=
  match (w.cands.getD b.dest none).bind Cand.shadow with
  | some c => s.shadowFrame c i
  | none => (0, 0)

/-- One word of a blend (R238) or of a dip, which falls along a raised cosine over its first half and rises along it over its second
(R239). -/
def Blend.word (b : Blend) (old new : W) : W :=
  let len := 48 * b.ms
  if b.wait ≠ 0 then old
  else if b.dip then
    let half := len / 2
    if b.pos < half then Config.fadeWord b.pos half old else Config.fadeWord (len - b.pos) half new
  else Config.blendWord b.pos len b.lvl old new

/-- A frame of a blend. -/
def Blend.frame (b : Blend) (old new : W × W) : W × W := (b.word old.1 new.1, b.word old.2 new.2)

/-- A blend moves on by one frame; one that runs back falls at the rate at which it rose (R244). -/
def Blend.advance (b : Blend) : Blend :=
  if b.wait ≠ 0 then { b with wait := b.wait - 1 }
  else if b.reversed then { b with pos := b.pos - 1 }
  else { b with pos := min (48 * b.ms) (b.pos + 1) }

/-- The frame that a followed context gives for an old one: what is left of lvl, the blends frozen beneath, the one that runs (R238 to
R245). -/
def State.mixed (s : State) (w : Follow) (i : Nat) (old : W × W) : W × W :=
  let old := if w.gain = 0 then old else (Config.levelWord w.gain old.1, Config.levelWord w.gain old.2)
  (w.blend.toList ++ w.under).foldr (fun b v => b.frame v (s.incoming w b i)) old

/-- lvl moves toward 0 dB by 1 dB in 48,000 frames, and the blend moves on. -/
def Follow.advance (w : Follow) : Follow :=
  { w with blend := w.blend.map Blend.advance
           gain := if w.blend.isSome then w.gain else if 0 < w.gain then w.gain - 1 else if w.gain < 0 then w.gain + 1 else 0 }

/-- The frames of a followed context, mixed one by one. -/
def State.mixFrames (s : State) : List (W × W) → Nat → Follow → Follow × List (W × W)
  | [], _, w => (w, [])
  | p :: l, i, w =>
    let r := s.mixFrames l (i + 1) w.advance
    (r.1, s.mixed w i p :: r.2)

/-- 48 frames for the ones read from the pool: as they are, or at another rate while the delay moves (R237). -/
def readPool (l : List (Option (Int × Int))) : List (Option (Int × Int)) :=
  if l.length = 48 then l
  else
    let x := l.map fun e => e.getD (0, 0)
    let a := Config.resample (x.map Prod.fst)
    let b := Config.resample (x.map Prod.snd)
    (List.range 48).map fun i => some (a.getD i 0, b.getD i 0)

/-- Frames read from a line go out: without a blend those of a gap are missing, within one they count as silence (R241). -/
def State.playFrames (s : State) (f : Fin 256) (l : List (Option (Int × Int))) : State :=
  let w := s.fan.follow[f]
  let l := if w.blend.isSome then l.map fun e => some (e.getD (0, 0)) else l.filter Option.isSome
  if l = [] then s
  else
    let r := s.mixFrames (l.map fun e => frameWords (e.getD (0, 0))) 0 w
    (s.modFollow f fun _ => r.1).audioUnit f r.2

/-- What a followed context's line holds beyond its delay goes out, a millisecond at a time; `n` bounds how often. A move of the delay
takes a few frames more or less at once (R237). -/
def State.playLine : Nat → State → Fin 256 → State
  | 0, s, _ => s
  | n + 1, s, f =>
    let l := s.svc.ctx[f].line
    let m := l.length - s.poolFrames f
    if m < 24 then s
    else
      let k := if m ≤ 72 then m else 48
      State.playLine n ((s.modCtx f fun x => { x with line := x.line.drop k }).playFrames f (readPool (l.take k))) f

/-- 48 frames of an audio context: to the line of a shadow, through that of a followed context, or out (R145, R148, R171, R218, R241, R242);
`silent` says that the unit is muted. The runner drops a unit that no link has credit for (R10). -/
def State.audioOut (s : State) (c : Fin 256) (silent : Bool) (frames : List (Int × Int)) (ts : D) : State :=
  if s.audioBlocked c then s.dropUnit c (220 + c.val)
  else
    let x := s.svc.ctx[c]
    let frames := (List.range 48).map fun i => frames.getD i (0, 0)
    let s := (s.audioMarks c).modCtx c fun x => { x with unitTs := ts }
    if x.shadowOf.isSome then
      let s := (s.shadowUnit c (silent || x.discDue || decide (x.lost ≠ 0))).modCtx c fun y => y.push (some (0, 0)) x.lost frames
      (s.modCtx c fun y => y.trim (s.poolFrames c)).audioToStream c []
    else if x.follow then
      let s := s.modCtx c fun y => y.push none x.lost frames
      State.playLine s.svc.ctx[c].line.length s c
    else s.audioUnit c (frames.map frameWords)

/-- The capture timestamp of the frame that came `ago` frames before the newest one; 0 where none is kept. -/
def Runner.frameStamp (u : Runner) (r : Fin 32) (ago : Nat) : D := (if isDab r then u.dab.stamps else u.drm.stamps).getD ago 0

/-- Frames from the one that carries a logical or multiplex frame's start to the one that completes it. -/
def Runner.span (u : Runner) (r : Fin 32) : Nat := if isDab r then 15 else u.drm.depth - 1

/-- The TIMESTAMP of a decoded audio unit (R185): 15,360 ADC periods for each 48 kHz sample. -/
def State.decodedStamp (s : State) (r : Fin 32) (u : AudioObs) : D :=
  let x := s.svc.run[r]
  x.frameStamp r (x.span r + u.ago) + BitVec.ofNat 64 (15360 * u.pos)

/-- DATA bytes 17 to 19 of an event that carries GEN. -/
def Ctx.genAux (x : Ctx) : W := x.gen.setWidth 32

/-- An audio frame or access unit of a context: a failed one is concealed or muted, with source 43 at the start of each run of
concealment and of each mute. -/
def State.audioFrame (s : State) (r : Fin 32) (c : Fin 256) (ok : Bool) (conceal counter : Nat) : State :=
  let x := s.svc.ctx[c]
  if x.runner = r ∧ x.kind = 0 ∧ x.st ≠ .free then
    if ok then s.modCtx c fun x => { x with concealed := 0, fadeIn := if conceal < x.concealed then 0 else x.fadeIn }
    else
      let n := x.concealed + 1
      let s := if n ≤ conceal then s.runCount r.val counter 1 else s
      let starts := n = 1 ∨ n = conceal + 1
      let s := s.modCtx c fun x => { x with concealed := n, errSince := if starts then 0 else x.errSince + 1 }
      if starts then s.raiseLimited 43 c.val (if n ≤ conceal then 0 else 1) x.genAux (x.errSince + 1) else s
  else s

/-- 48 frames of 1 ms at the decoder's rate, both channels alike where it is mono, and what the converters then hold (R185). -/
def Ctx.convertUnit (x : Ctx) (u : AudioObs) : List (Int × Int) × (List Int × List Int) :=
  let y := if u.mono then u.frames.map fun p => (p.1, p.1) else u.frames
  if y.length = 48 then (y, x.conv)
  else
    let a := Config.convert x.conv.1 (y.map Prod.fst)
    let b := Config.convert x.conv.2 (y.map Prod.snd)
    ((List.range 48).map fun i => (a.2.getD i 0, b.2.getD i 0), (a.1, b.1))

/-- Millisecond `ix` of the last good frame, 6 dB lower for each frame concealed (R187). -/
def Ctx.repeated (x : Ctx) (ix : Nat) : List (Int × Int) :=
  (List.range 48).map fun i =>
    let p := x.pcm.getD (48 * ix + i) (0, 0)
    (Config.attenuate (6 * 65536 * x.concealed) p.1, Config.attenuate (6 * 65536 * x.concealed) p.2)

/-- A unit of a DAB or DRM audio context: of a frame that passes, of the repetition of the last such frame, or muted (R185, R187, R206). -/
def State.decodedUnit (s : State) (c : Fin 256) (u : AudioObs) : State :=
  let r := s.svc.ctx[c].runner
  let conceal := if isDab r then s.svc.run[r].dab.conceal else s.svc.run[r].drm.conceal
  let s := if u.ix = 0 then s.audioFrame r c u.ok conceal (if isDab r then 7 else 5) else s
  let x := s.svc.ctx[c]
  let ts := s.decodedStamp r u
  if u.ok then
    let y := x.convertUnit u
    (s.modCtx c fun x => { x with pcm := if u.ix = 0 then y.1 else x.pcm ++ y.1, conv := y.2 }).audioOut c false y.1 ts
  else if x.concealed ≤ conceal then s.audioOut c false (x.repeated u.ix) ts
  else s.audioOut c true [] ts

/-! ### Bits and CRCs -/

/-- `n` bits, at most 32, from bit `off` of a byte string, first bit most significant. -/
def bitsAt (b : List Byte) (off n : Nat) : Nat := beNat (slice b (off / 8) 5) / 2 ^ (40 - off % 8 - n) % 2 ^ n

/-- One bit of the CRC x^16 + x^12 + x^5 + 1. -/
def crc16Bit (c : BitVec 16) (b : Bool) : BitVec 16 :=
  let n := c <<< 1
  if c.getLsbD 15 != b then n ^^^ 0x1021 else n

/-- The CRC of bytes: initial value all ones, complemented at the end. -/
def crc16 (bs : List Byte) : BitVec 16 :=
  ~~~(bs.foldl (fun c b => (List.range 8).foldl (fun c i => crc16Bit c (b.getLsbD (7 - i))) c) 0xFFFF)

/-- The last two bytes are the CRC of the others. -/
def crc16Ok (bs : List Byte) : Bool :=
  decide (2 < bs.length) && decide (beNat (bs.drop (bs.length - 2)) = (crc16 (bs.take (bs.length - 2))).toNat)

/-! ### MOT objects (R189) -/

/-- The parts of an object joined, once every segment up to the last has come. -/
def joined (l : List (Nat × List Byte)) (last : Option Nat) : Option (List Byte) :=
  match last with
  | none => none
  | some n => ((List.range (n + 1)).mapM fun i => (l.find? fun e => decide (e.1 = i)).map Prod.snd).map List.flatten

/-- Header and body size that a MOT header states. -/
def motSizes (h : List Byte) : Nat × Nat := (bitsAt h 28 13, bitsAt h 0 28)

/-- The entries of a directory: TransportId and header of each object; `n` bounds their number. -/
def motEntries : Nat → List Byte → List (BitVec 16 × List Byte)
  | 0, _ => []
  | n + 1, b =>
    if b.length < 9 then []
    else
      let len := (motSizes (b.drop 2)).1
      (BitVec.ofNat 16 (bitsAt b 0 16), slice b 2 len) :: motEntries n (b.drop (2 + len))

/-- The objects that a directory names. -/
def motNames (b : List Byte) : List (BitVec 16 × List Byte) := motEntries (bitsAt b 32 16) (b.drop (13 + bitsAt b 88 16))

/-- The header of an object: its own, or the directory's. -/
def MotObj.header (o : MotObj) (dir : List (BitVec 16 × List Byte)) : Option (List Byte) :=
  if o.dir then some []
  else (joined o.head o.headEnd).orElse fun _ => (dir.find? fun e => decide (e.1 = o.tid)).map Prod.snd

/-- Header and body size, once they are known. -/
def MotObj.sizes (o : MotObj) (dir : List (BitVec 16 × List Byte)) : Option (Nat × Nat) :=
  let first := fun l : List (Nat × List Byte) => (l.find? fun e => decide (e.1 = 0)).map Prod.snd
  if o.dir then (first o.body).map fun b => (0, bitsAt b 2 30)
  else ((first o.head).orElse fun _ => (dir.find? fun e => decide (e.1 = o.tid)).map Prod.snd).map motSizes

/-- Bytes received. -/
def MotObj.got (o : MotObj) : Nat := ((o.head ++ o.body).map fun e => e.2.length).sum

/-- The size that events name: what is known, else what has come. -/
def MotObj.size (o : MotObj) (dir : List (BitVec 16 × List Byte)) : Nat :=
  match o.sizes dir with | some (h, b) => h + b | none => o.got

/-- Byte 8 of the prefix: a header-mode object, a directory, or an object named in one. -/
def MotObj.kind (o : MotObj) : Nat := if o.dir then 1 else if o.headEnd.isSome then 0 else 2

/-- Header and body of a complete object: every segment has come, and their lengths are those that its header states. -/
def MotObj.complete (o : MotObj) (dir : List (BitVec 16 × List Byte)) : Option (List Byte × List Byte) :=
  match o.header dir, joined o.body o.bodyEnd with
  | some h, some b => if o.sizes dir = some (h.length, b.length) then some (h, b) else none
  | _, _ => none

/-- The 16-byte prefix of a MOT unit. -/
def motPrefix (tid : BitVec 16) (header body kind : Nat) : List Byte :=
  leBytes 2 tid.toNat ++ leBytes 2 header ++ leBytes 4 body ++ [byte kind] ++ List.replicate 7 0

/-- Source 42 (R195). -/
def State.motEvent (s : State) (c : Fin 256) (code : Nat) (tid : BitVec 16) (size : Nat) : State :=
  s.raise 42 code ([byte c.val, s.svc.ctx[c].gen] ++ leBytes 2 tid.toNat ++ leBytes 4 size)

/-- An object is discarded: source 42 with its code, the TLM count, and a lost unit. -/
def State.motDrop (s : State) (c : Fin 256) (code : Nat) (tid : BitVec 16) (size : Nat) : State :=
  let s := s.modCtx c fun x => { x with mot := x.mot.filter fun o => decide (o.tid ≠ tid) }
  let s := (s.gpFree (.mot c tid)).motEvent c code tid size
  (s.runCount s.svc.ctx[c].runner.val 6 1).loseUnits c 1

/-- The oldest object still in reassembly: general-use SRAM lists its areas in request order. -/
def State.oldestMot (s : State) : Option (Fin 256 × MotObj) :=
  s.dma.gp.findSome? fun g =>
    match g.owner with
    | .mot c t => (s.svc.ctx[c].mot.find? fun o => decide (o.tid = t)).map fun o => (c, o)
    | _ => none

/-- Room for an object, the oldest incomplete ones being discarded while there is none; `fuel` bounds their number. -/
def State.motAlloc : Nat → State → Fin 256 → BitVec 16 → Nat → Option State × State
  | 0, s, _, _, _ => (none, s)
  | n + 1, s, c, tid, size =>
    match gpAlloc s.dma.gp (.mot c tid) size with
    | some (_, gp) => (some { s with dma := { s.dma with gp := gp } }, s)
    | none =>
      match s.oldestMot with
      | none => (none, s)
      | some (k, o) => (s.motDrop k 2 o.tid (o.size s.svc.ctx[k].motDir)).motAlloc n c tid size

/-- A completed object is delivered from its reassembly buffer, which then serves as its staging; a directory names the objects that
follow. -/
def State.motDone (s : State) (r : Fin 32) (c : Fin 256) (o : MotObj) (h b : List Byte) (tag : W) : State :=
  let seq := s.svc.ctx[c].seq
  let own := fun g : GpAlloc => if g.owner = .mot c o.tid then { g with owner := .motOut c seq } else g
  let s : State := { s with dma := { s.dma with gp := s.dma.gp.map own } }
  let s := s.modCtx c fun x => { x with
    mot := x.mot.filter fun q => decide (q.tid ≠ o.tid), motDir := if o.dir then motNames b else x.motDir }
  (s.motEvent c 0 o.tid (h.length + b.length)).giveUnit r c (motPrefix o.tid h.length b.length o.kind ++ h ++ b) tag o.ts (some o.tid)

/-- A segment of a MOT data group (EN 301 234): data group type, number, last flag, TransportId, bytes. -/
structure MotSeg where
  /-- 3 header, 4 or 5 body, 6 or 7 directory. -/
  type : Nat
  /-- Segment number. -/
  number : Nat
  /-- Last segment of its part. -/
  last : Bool
  /-- TransportId. -/
  tid : BitVec 16
  /-- Bytes. -/
  data : List Byte

/-- A segment joins a part of an object. -/
def joinSeg (l : List (Nat × List Byte)) (g : MotSeg) : List (Nat × List Byte) :=
  if l.any fun e => decide (e.1 = g.number) then l else l ++ [(g.number, g.data)]

/-- An object with a segment more. -/
def MotObj.take (o : MotObj) (g : MotSeg) : MotObj :=
  if g.type = 3 then { o with head := joinSeg o.head g, headEnd := if g.last then some g.number else o.headEnd }
  else { o with body := joinSeg o.body g, bodyEnd := if g.last then some g.number else o.bodyEnd }

/-- The object takes its area once its sizes are known; none where it is discarded for size or memory. -/
def State.motPlace (s : State) (c : Fin 256) (o : MotObj) : Option State × State :=
  match o.sizes s.svc.ctx[c].motDir with
  | none => (some s, s)
  | some (h, b) =>
    if o.placed then (some s, s)
    else
      match s.motAlloc 1025 c o.tid (align64 (16 + h + b)) with
      | (some t, _) =>
        (some (t.modCtx c fun x => { x with mot := x.mot.map fun q => if q.tid = o.tid then { q with placed := true } else q }), t)
      | (none, t) => (none, t)

/-- A segment of an object of a context: at most 4 objects and 256 KiB each; the last one missing completes the object. -/
def State.motSegment (s : State) (r : Fin 32) (c : Fin 256) (g : MotSeg) (tag : W) (ts : D) : State :=
  let x := s.svc.ctx[c]
  let dir := decide (g.type = 6 ∨ g.type = 7)
  let same := fun q : MotObj => decide (q.tid = g.tid)
  let old := (x.mot.find? same).getD
    { tid := g.tid, dir := dir, head := [], headEnd := none, body := [], bodyEnd := none, placed := false, ts := ts }
  let o := old.take g
  let held := x.mot.any same
  if (held = false ∧ 4 ≤ x.mot.length) ∨ 262144 < o.size x.motDir ∨ 262144 < o.got then s.motDrop c 2 o.tid (o.size x.motDir)
  else
    let s := s.modCtx c fun x => { x with mot := if held then x.mot.map fun q => if q.tid = g.tid then o else q else x.mot ++ [o] }
    match s.motPlace c o with
    | (none, t) => t.motDrop c 2 o.tid (o.size x.motDir)
    | (some t, _) =>
      match o.complete x.motDir with
      | some (h, b) => t.motDone r c o h b tag
      | none => t

/-! ### Data groups and packets (R188, R212) -/

/-- An MSC data group's flags: extension, CRC, segment field, user access field; and its type. -/
def groupFlag (b : List Byte) (i : Nat) : Bool := decide (bitsAt b i 1 = 1)

/-- Where the segment field of a data group stands, after its header and an extension field. -/
def segFieldAt (b : List Byte) : Nat := 2 + if groupFlag b 0 then 2 else 0
/-- Where its user access field stands. -/
def userFieldAt (b : List Byte) : Nat := segFieldAt b + if groupFlag b 2 then 2 else 0
/-- Where its data field stands. -/
def dataFieldAt (b : List Byte) : Nat := userFieldAt b + if groupFlag b 3 then 1 + bitsAt b (8 * userFieldAt b + 4) 4 else 0

/-- The data group is the last of its segments, or has no segment field. -/
def lastGroup (b : List Byte) : Bool := !groupFlag b 2 || decide (bitsAt b (8 * segFieldAt b) 1 = 1)

/-- The bulletin segment that a data group carries (R257): the CRC flag is 1, the CRC passes, and no segment field marks it as other than
the last. -/
def bulletinOf (b : List Byte) : Option (List Byte) :=
  if groupFlag b 1 = true ∧ crc16Ok b = true ∧ lastGroup b = true then some ((b.take (b.length - 2)).drop (dataFieldAt b)) else none

/-- The segment that a data group carries. -/
def motSegOf (b : List Byte) : MotSeg :=
  let o1 := segFieldAt b
  let o2 := userFieldAt b
  let o3 := dataFieldAt b
  { type := bitsAt b 4 4
    number := if groupFlag b 2 then bitsAt b (8 * o1 + 1) 15 else 0
    last := lastGroup b
    tid := BitVec.ofNat 16 (if groupFlag b 3 = true ∧ bitsAt b (8 * o2 + 3) 1 = 1 then bitsAt b (8 * (o2 + 1)) 16 else 0)
    data := slice b (o3 + 2) (bitsAt b (8 * o3 + 3) 13) }

/-- A unit of a context failed a CRC: it is dropped and counted (R188, R212). -/
def State.unitFailed (s : State) (c : Fin 256) : State := if s.svc.ctx[c].hasOutput then s.loseUnits c 1 else s

/-- A data group of a context: FORM 1 delivers it as received, FORM 2 takes a MOT segment of it (R188, R189). -/
def State.dataGroup (s : State) (r : Fin 32) (c : Fin 256) (tag : W) (b : List Byte) (ts : D) : State :=
  if groupFlag b 1 = true ∧ crc16Ok b = false then s.unitFailed c
  else if compForm s.svc.ctx[c].component = 2 then
    let g := motSegOf b
    if within 3 7 g.type then s.motSegment r c g tag ts else s
  else s.giveUnit r c b tag ts none

/-- A packet: its address or ID, continuity index, first and last flag, useful data, the bytes as received, and whether its CRC passes. -/
structure Packet where
  /-- Address, or packet ID. -/
  addr : Nat
  /-- Continuity index. -/
  ci : Nat
  /-- First of a data group. -/
  first : Bool
  /-- Last of a data group. -/
  last : Bool
  /-- Useful data. -/
  data : List Byte
  /-- Bytes as received. -/
  raw : List Byte
  /-- The CRC passes. -/
  ok : Bool
  deriving DecidableEq, Repr

/-- The packets of a DAB logical frame: 24, 48, 72 or 96 bytes each. -/
def dabPackets : Nat → List Byte → List Packet
  | 0, _ => []
  | n + 1, b =>
    let len := 24 * (1 + bitsAt b 0 2)
    if b.length < len then []
    else
      let p := b.take len
      { addr := bitsAt p 6 10, ci := bitsAt p 2 2, first := decide (bitsAt p 4 1 = 1), last := decide (bitsAt p 5 1 = 1)
        data := slice p 3 (bitsAt p 17 7), raw := p, ok := crc16Ok p } :: dabPackets n (b.drop len)

/-- The packets of a DRM stream with data fields of `len` bytes: a header byte before it and two CRC bytes after it. -/
def drmPackets : Nat → Nat → List Byte → List Packet
  | 0, _, _ => []
  | n + 1, len, b =>
    if b.length < len + 3 then []
    else
      let p := b.take (len + 3)
      { addr := bitsAt p 2 2, ci := bitsAt p 5 3, first := decide (bitsAt p 0 1 = 1), last := decide (bitsAt p 1 1 = 1)
        data := if bitsAt p 4 1 = 1 then slice p 2 (bitsAt p 8 8) else slice p 1 len, raw := p, ok := crc16Ok p } ::
      drmPackets n len (b.drop (len + 3))

/-- What is in assembly after a packet that continues it, and whether it breaks the data group: `m` is the period of the continuity index. -/
def groupStep (g : Option (List Byte × D × Nat)) (m : Nat) (p : Packet) (ts : D) : Option (List Byte × D × Nat) × Bool :=
  if p.ok = false then (none, g.isSome || p.first)
  else if p.first then (some (p.data, ts, p.ci), g.isSome)
  else
    match g with
    | none => (none, false)
    | some (b, t, ci) => if (ci + 1) % m = p.ci then (some (b ++ p.data, t, p.ci), false) else (none, true)

/-- A packet of a context: FORM 0 delivers it as received; else it joins a data group (R188, R212). -/
def State.packetIn (s : State) (r : Fin 32) (c : Fin 256) (m : Nat) (tag : W) (ts : D) (p : Packet) : State :=
  let x := s.svc.ctx[c]
  if compForm x.component = 0 then (if p.ok then s.giveUnit r c p.raw tag ts none else s.unitFailed c)
  else
    let g := groupStep x.group m p ts
    let s := if g.2 then s.unitFailed c else s
    match g.1 with
    | some (b, t, _) =>
      if p.last then (s.modCtx c fun x => { x with group := none }).dataGroup r c tag b t else s.modCtx c fun x => { x with group := g.1 }
    | none => s.modCtx c fun x => { x with group := none }

end Sys2Proof.Machine
end

