-- ==== Sys2Proof/Machine/Fic.lean ====
section
/-!
DEFINITION. The FIC and the ensemble database of a DAB runner (06_dab.md, R174 to R176, R180): FIBs, FIGs and what they leave. The spec
names the FIGs; their bits, and the table of short-form subchannels, are those of EN 300 401 (PRESUMED, log 126).
-/

namespace Sys2Proof.Machine

/-! ### FIBs and FIGs -/

/-- A FIG: its type and the bytes after its header. -/
structure Fig where
  /-- Type, 0 to 7. -/
  type : Nat
  /-- Bytes after the header. -/
  body : List Byte
  deriving DecidableEq, Repr

/-- The FIGs of the 30 data bytes of a FIB; 0xFF ends them. -/
def figsOf : Nat → List Byte → List Fig
  | 0, _ => []
  | n + 1, b =>
    match b with
    | [] => []
    | h :: rest =>
      let len := bitsAt [h] 3 5
      if h = 0xFF ∨ len = 0 then [] else { type := bitsAt [h] 0 3, body := rest.take len } :: figsOf n (rest.drop len)

/-- Flags of a FIG of type 0: next, other ensemble, 32-bit SId; and its extension. -/
def Fig.next (f : Fig) : Bool := decide (bitsAt f.body 0 1 = 1)
def Fig.other (f : Fig) : Bool := decide (bitsAt f.body 1 1 = 1)
def Fig.long (f : Fig) : Bool := decide (bitsAt f.body 2 1 = 1)
def Fig.ext (f : Fig) : Nat := if f.type = 1 then bitsAt f.body 5 3 else bitsAt f.body 3 5

/-- The field after the extension. -/
def Fig.field (f : Fig) : List Byte := f.body.drop 1

/-- SId of 2 or 4 bytes at the front. -/
def sidOf (long : Bool) (b : List Byte) : W := BitVec.ofNat 32 (bitsAt b 0 (if long then 32 else 16))
def sidLen (long : Bool) : Nat := if long then 4 else 2

/-- A field cut into entries: each entry's length is `len` of what is left, and one that does not fit ends the field. -/
def entries (len : List Byte → Nat) : Nat → List Byte → List (List Byte)
  | 0, _ => []
  | n + 1, b =>
    let k := len b
    if b.isEmpty ∨ k = 0 ∨ b.length < k then [] else b.take k :: entries len n (b.drop k)

/-- The entries of a FIG. -/
def Fig.cut (f : Fig) (len : List Byte → Nat) : List (List Byte) := entries len 32 f.field

/-- Replace an entry with the same key, or add it. -/
def putKey {α β : Type} [DecidableEq β] (l : List α) (key : α → β) (a : α) : List α :=
  match l.findIdx? fun b => decide (key b = key a) with
  | some i => listUpd l i fun _ => a
  | none => l ++ [a]

/-! ### The organisation (FIGs 0/1, 0/2, 0/3, 0/8) -/

/-- Short-form subchannels by table index: size in CUs, protection level, bit rate. -/
def shortForms : List (Nat × Nat × Nat) :=
  [(16, 5, 32), (21, 4, 32), (24, 3, 32), (29, 2, 32), (35, 1, 32), (24, 5, 48), (29, 4, 48), (35, 3, 48)] ++
  [(42, 2, 48), (52, 1, 48), (29, 5, 56), (35, 4, 56), (42, 3, 56), (52, 2, 56), (32, 5, 64), (42, 4, 64)] ++
  [(48, 3, 64), (58, 2, 64), (70, 1, 64), (40, 5, 80), (52, 4, 80), (58, 3, 80), (70, 2, 80), (84, 1, 80)] ++
  [(48, 5, 96), (58, 4, 96), (70, 3, 96), (84, 2, 96), (104, 1, 96), (58, 5, 112), (70, 4, 112), (84, 3, 112)] ++
  [(104, 2, 112), (64, 5, 128), (84, 4, 128), (96, 3, 128), (116, 2, 128), (140, 1, 128), (80, 5, 160), (104, 4, 160)] ++
  [(116, 3, 160), (140, 2, 160), (168, 1, 160), (96, 5, 192), (116, 4, 192), (140, 3, 192), (168, 2, 192), (208, 1, 192)] ++
  [(116, 5, 224), (140, 4, 224), (168, 3, 224), (208, 2, 224), (232, 1, 224), (128, 5, 256), (168, 4, 256), (192, 3, 256)] ++
  [(232, 2, 256), (280, 1, 256), (160, 5, 320), (208, 4, 320), (280, 2, 320), (192, 5, 384), (280, 3, 384), (416, 1, 384)]

/-- CUs for each 8 kbit/s of option 0 and for each 32 kbit/s of option 1, at protection level 1 to 4. -/
def longUnits (option level : Nat) : Nat :=
  if option = 0 then (match level with | 1 => 12 | 2 => 8 | 3 => 6 | _ => 4) else (match level with | 1 => 27 | 2 => 21 | 3 => 18 | _ => 15)

/-- A subchannel entry of FIG 0/1. -/
def subEntry (b : List Byte) : DabSub :=
  let id := Fin.ofNat 64 (bitsAt b 0 6)
  if bitsAt b 16 1 = 1 then
    let option := bitsAt b 17 3
    let level := bitsAt b 20 2 + 1
    let size := bitsAt b 22 10
    { id := id, longForm := true, tableIx := byte option, prot := byte level, startCu := bitsAt b 6 10, sizeCu := size
      kbps := size / longUnits option level * if option = 0 then 8 else 32 }
  else
    let e := shortForms.getD (bitsAt b 18 6) (0, 0, 0)
    { id := id, longForm := false, tableIx := byte (bitsAt b 18 6), prot := byte e.2.1, startCu := bitsAt b 6 10, sizeCu := e.1, kbps := e.2.2 }

/-- A component of a service entry of FIG 0/2. -/
def partEntry (b : List Byte) : DabPart :=
  let tmid := bitsAt b 0 2
  { tmid := byte tmid, type := if tmid = 3 then 0 else byte (bitsAt b 2 6), id := if tmid = 3 then bitsAt b 2 12 else bitsAt b 8 6
    primary := decide (bitsAt b 14 1 = 1), ca := decide (bitsAt b 15 1 = 1) }

/-- A service entry of FIG 0/2. -/
def serviceEntry (long : Bool) (b : List Byte) : W × List DabPart :=
  let n := sidLen long
  (sidOf long b, (List.range (bitsAt b (8 * n + 4) 4)).map fun i => partEntry (slice b (n + 1 + 2 * i) 2))

/-- An entry of FIG 0/3. -/
def packetEntry (b : List Byte) : DabPacket :=
  { scid := bitsAt b 0 12, dscty := byte (bitsAt b 18 6), subch := bitsAt b 24 6, paddr := bitsAt b 30 10 }

/-- An entry of FIG 0/8: SId, SCIdS, long form, and the SCId or SubChId. -/
def linkEntry (long : Bool) (b : List Byte) : W × Byte × Bool × Nat :=
  let n := 8 * sidLen long
  let l := decide (bitsAt b (n + 8) 1 = 1)
  (sidOf long b, byte (bitsAt b (n + 4) 4), l, if l then bitsAt b (n + 12) 12 else bitsAt b (n + 10) 6)

/-- Length of an entry of FIG 0/8. -/
def linkLen (long : Bool) (b : List Byte) : Nat :=
  let n := sidLen long
  n + 1 + (if bitsAt b (8 * (n + 1)) 1 = 1 then 2 else 1) + bitsAt b (8 * n) 1

/-- What a FIG of the organisation leaves (R174, R180). -/
def DabOrg.fig (o : DabOrg) (f : Fig) : DabOrg :=
  match f.ext with
  | 1 => { o with subs := (f.cut (fun b => if bitsAt b 16 1 = 1 then 4 else 3)).foldl (fun l b => putKey l (fun x => x.id) (subEntry b)) o.subs }
  | 2 =>
    let len := fun b => sidLen f.long + 1 + 2 * bitsAt b (8 * sidLen f.long + 4) 4
    { o with services := (f.cut len).foldl (fun l b => putKey l Prod.fst (serviceEntry f.long b)) o.services }
  | 3 =>
    let len := fun b => if bitsAt b 15 1 = 1 then 7 else 5
    { o with packets := (f.cut len).foldl (fun l b => putKey l (fun x => x.scid) (packetEntry b)) o.packets }
  | 8 =>
    { o with links := (f.cut (linkLen f.long)).foldl (fun l b => putKey l (fun x => (x.1, x.2.1)) (linkEntry f.long b)) o.links }
  | _ => o

/-- The components that an organisation describes, with their SCIdS: 0 for the primary one, else what FIG 0/8 says. -/
def DabOrg.parts (o : DabOrg) : List DabComp :=
  o.services.flatMap fun v => v.2.filterMap fun p =>
    let packet := decide (p.tmid = 3)
    let scids := if p.primary then some 0
      else (o.links.find? fun l => decide (l.1 = v.1) && l.2.2.1 == packet && decide (l.2.2.2 = p.id)).map fun l => l.2.1
    let k := o.packets.find? fun q => packet && decide (q.scid = p.id)
    scids.map fun n =>
      { sid := v.1, scids := n, tmid := p.tmid, ascty := match k with | some q => q.dscty | none => p.type
        subch := byte (match k with | some q => q.subch | none => if packet then 0xFF else p.id)
        scid := BitVec.ofNat 16 (if packet then p.id else 0), paddr := BitVec.ofNat 16 (match k with | some q => q.paddr | none => 0)
        primary := p.primary, ca := p.ca }

/-! ### The database -/

/-- The handles in use. -/
def DabState.handles (d : DabState) : List Byte := d.comps.map Prod.fst ++ d.kept.map Prod.fst

/-- A component takes the handle of its SId and SCIdS pair, or the lowest free one; with none free it is not recorded (R175). -/
def DabState.putComp (d : DabState) (k : DabComp) : DabState :=
  match d.comps.findIdx? fun e => decide (e.2.sid = k.sid) && decide (e.2.scids = k.scids) with
  | some i => { d with comps := listUpd d.comps i fun e => (e.1, k) }
  | none =>
    match d.kept.find? fun e => decide (e.2 = (k.sid, k.scids)) with
    | some e => { d with comps := d.comps ++ [(e.1, k)], kept := d.kept.filter fun q => decide (q ≠ e) }
    | none =>
      match ((List.range 256).map byte).find? fun h => !d.handles.contains h with
      | some h => { d with comps := d.comps ++ [(h, k)] }
      | none => { d with overflow := true }

/-- The component records follow the current organisation; a component that it does not describe leaves its handle kept for it. -/
def DabState.record (d : DabState) : DabState :=
  let l := d.org.parts
  let here := fun e : Byte × DabComp => l.any fun k => decide (k.sid = e.2.sid) && decide (k.scids = e.2.scids)
  let gone := d.comps.filter fun e => !here e
  l.foldl DabState.putComp { d with comps := d.comps.filter here, kept := d.kept ++ gone.map fun e => (e.1, e.2.sid, e.2.scids) }

/-- A database that holds nothing but the settings and what reception goes on with: the EId has changed (R170, R175). -/
def DabState.forget (d : DabState) (eid : BitVec 16) : DabState :=
  { d with
    eid := some eid, complete := false, overflow := false, label := none, charset := 0, ecc := 0, lto := 0, utc := none
    org := {}, nextOrg := {}, comps := [], kept := [], labels := [], compLabels := [], uapps := [], fec := [], ptys := [], announce := []
    switching := [], outer := [], ber := [], reconf := none, timeoutRaised := false }

/-- The SIds of FIG 0/2. -/
def DabState.sids (d : DabState) : List W := d.org.services.map Prod.fst

/-- The database is complete (R176): the ensemble label, services, and for every component of each its subchannel, for a packet component its
FIG 0/3, and the service's label. -/
def DabState.described (d : DabState) : Bool :=
  let sub := fun n : Nat => d.org.subs.any fun b => decide (b.id.val = n)
  d.label.isSome && !d.org.services.isEmpty && d.org.services.all fun v =>
    (d.labels.any fun l => decide (l.1 = v.1)) && v.2.all fun p =>
      if p.tmid = 3 then d.org.packets.any fun q => decide (q.scid = p.id) && sub q.subch else sub p.id

/-- What of a database a later change counts (R176): everything that FIGs leave but UTC, the CIF count and announcement switching. -/
def DabState.content (d : DabState) : DabState :=
  { org := d.org, comps := d.comps, label := d.label, charset := d.charset, ecc := d.ecc, lto := d.lto, labels := d.labels
    compLabels := d.compLabels, uapps := d.uapps, fec := d.fec, ptys := d.ptys, announce := d.announce }

/-! ### Other FIGs of type 0 and type 1 -/

/-- UTC of FIG 0/10: seconds since 1970 and milliseconds. -/
def figTime (b : List Byte) : W × BitVec 16 :=
  let day : Int := 86400 * ((bitsAt b 1 17 : Int) - 40587) + 3600 * bitsAt b 21 5 + 60 * bitsAt b 26 6
  if bitsAt b 20 1 = 1 then (BitVec.ofInt 32 (day + bitsAt b 32 6), BitVec.ofNat 16 (bitsAt b 38 10)) else (BitVec.ofInt 32 day, 0)

/-- Signed half hours of FIG 0/9. -/
def figLto (b : List Byte) : Byte := BitVec.ofInt 8 (if bitsAt b 2 1 = 1 then -(bitsAt b 3 5 : Int) else bitsAt b 3 5)

/-- The user applications of a component in FIG 0/13: the component and its first type. -/
def uappEntry (long : Bool) (b : List Byte) : (W × Byte) × BitVec 16 :=
  let n := 8 * sidLen long
  ((sidOf long b, byte (bitsAt b n 4)), BitVec.ofNat 16 (bitsAt b (n + 8) 11))

/-- The first type of a component stays. -/
def firstApp (l : List ((W × Byte) × BitVec 16)) (e : (W × Byte) × BitVec 16) : List ((W × Byte) × BitVec 16) :=
  if l.any fun x => decide (x.1 = e.1) then l else l ++ [e]

/-- Length of `n` user applications: each has 11 bits of type and 5 bits of length. -/
def appsLen : Nat → List Byte → Nat
  | 0, _ => 0
  | n + 1, b => let k := 2 + bitsAt b 11 5; k + appsLen n (b.drop k)

/-- Length of an entry of FIG 0/13. -/
def uappLen (long : Bool) (b : List Byte) : Nat :=
  let n := sidLen long
  n + 1 + appsLen (bitsAt b (8 * n + 4) 4) (b.drop (n + 1))

/-- Length of an entry of FIG 0/17: a language and a complementary code may stand in it. -/
def ptyLen (b : List Byte) : Nat := 4 + bitsAt b 18 1 + bitsAt b 19 1

/-- The programme type of an entry of FIG 0/17. -/
def ptyEntry (b : List Byte) : W × Byte := (BitVec.ofNat 32 (bitsAt b 0 16), byte (bitsAt b (27 + 8 * bitsAt b 18 1) 5))

/-- An entry of FIG 0/18: SId and announcement support flags. -/
def supportEntry (b : List Byte) : W × BitVec 16 := (BitVec.ofNat 32 (bitsAt b 0 16), BitVec.ofNat 16 (bitsAt b 16 16))

/-- An entry of FIG 0/14: the FEC scheme of a subchannel. -/
def fecEntry (l : List (Fin 64)) (b : List Byte) : List (Fin 64) :=
  let k : Fin 64 := Fin.ofNat 64 (bitsAt b 0 6)
  (l.filter fun j => decide (j ≠ k)) ++ if bitsAt b 6 2 = 1 then [k] else []

/-- What a FIG of type 0 other than those of the organisation leaves in the database. -/
def DabState.info (d : DabState) (f : Fig) : DabState :=
  let b := f.field
  match f.ext with
  | 9 => { d with lto := figLto b, ecc := byte (bitsAt b 8 8) }
  | 10 => { d with utc := some (figTime b) }
  | 13 => { d with uapps := (f.cut (uappLen f.long)).foldl (fun l b => firstApp l (uappEntry f.long b)) d.uapps }
  | 14 =>
    { d with fec := (f.cut (fun _ => 1)).foldl fecEntry d.fec }
  | 17 => { d with ptys := (f.cut ptyLen).foldl (fun l b => putKey l Prod.fst (ptyEntry b)) d.ptys }
  | 18 =>
    { d with announce := (f.cut (fun b => 5 + bitsAt b 35 5)).foldl (fun l b => putKey l Prod.fst (supportEntry b)) d.announce }
  | _ => d

/-- What a label FIG leaves. -/
def DabState.labelFig (d : DabState) (f : Fig) : DabState :=
  let b := f.field
  let cs := byte (bitsAt f.body 0 4)
  match f.ext with
  | 0 => { d with label := some (slice b 2 16), charset := cs }
  | 1 => { d with labels := putKey d.labels Prod.fst (BitVec.ofNat 32 (bitsAt b 0 16), slice b 2 16, cs, BitVec.ofNat 16 (bitsAt b 144 16)) }
  | 4 =>
    let long := decide (bitsAt b 0 1 = 1)
    let n := 1 + sidLen long
    { d with compLabels := putKey d.compLabels Prod.fst ((sidOf long (b.drop 1), byte (bitsAt b 4 4)), slice b n 16, cs) }
  | 5 => { d with labels := putKey d.labels Prod.fst (BitVec.ofNat 32 (bitsAt b 0 32), slice b 4 16, cs, BitVec.ofNat 16 (bitsAt b 160 16)) }
  | _ => d

/-! ### Events and announcements -/

/-- Source 38 (R195). -/
def State.ficEvent (s : State) (r : Fin 32) (code : Nat) : State :=
  let d := s.svc.run[r].dab
  s.raise 38 code ([byte r.val, 0, 0, 0] ++ leBytes 2 (d.eid.getD 0).toNat ++ [byte d.sids.length, byte d.comps.length])

/-- Bytes 20 to 23 of source 38 as one word. -/
def DabState.ficAux (d : DabState) : W :=
  BitVec.ofNat 32 ((d.eid.getD 0).toNat + 65536 * (d.sids.length % 256) + 16777216 * (d.comps.length % 256))

/-- Source 39 (R195). -/
def State.reconfEvent (s : State) (r : Fin 32) (code : Nat) (cif : BitVec 16) (n : Nat) : State :=
  s.raise 39 code ([byte r.val, 0, 0, 0] ++ leBytes 2 cif.toNat ++ [byte n])

/-- The handle of the component that a subchannel carries, 0xFF without one. -/
def DabState.handleOf (d : DabState) (sub : Nat) : Byte :=
  ((d.comps.find? fun e => decide (e.2.tmid = 0) && decide (e.2.subch.toNat = sub)).map Prod.fst).getD 0xFF

/-- An announcement starts while its switching flags are not 0, and ends with them (R195). -/
def State.announce (s : State) (r : Fin 32) (b : List Byte) : State :=
  let cluster := byte (bitsAt b 0 8)
  let asw := bitsAt b 8 16
  let sub := bitsAt b 26 6
  let on := s.svc.run[r].dab.switching.contains cluster
  let ev := fun (s : State) (code : Nat) =>
    s.raise 40 code ([byte r.val, cluster] ++ leBytes 2 asw ++ [byte sub, s.svc.run[r].dab.handleOf sub])
  if on = false ∧ asw ≠ 0 then ev (s.modDab r fun d => { d with switching := d.switching ++ [cluster] }) 0
  else if on = true ∧ asw = 0 then ev (s.modDab r fun d => { d with switching := d.switching.filter fun c => decide (c ≠ cluster) }) 1
  else s

/-- CIF count of FIG 0/0, and the count at which a signalled change takes place: the next one whose low part is the occurrence. -/
def figCif (b : List Byte) : Nat := bitsAt b 19 5 % 20 * 250 + bitsAt b 24 8 % 250
def figChange (b : List Byte) : Nat :=
  let now := figCif b
  let occ := bitsAt b 32 8 % 250
  (if now % 250 < occ then now / 250 * 250 + occ else now / 250 * 250 + 250 + occ) % 5000

/-- FIG 0/0: the CIF count, and a reconfiguration where it signals a change (R174, R180). -/
def State.figEnsemble (s : State) (r : Fin 32) (b : List Byte) : State :=
  let s := s.modDab r fun d => { d with eid := some (BitVec.ofNat 16 (bitsAt b 0 16)), cifCount := BitVec.ofNat 16 (figCif b) }
  if bitsAt b 16 2 ≠ 0 ∧ s.svc.run[r].dab.reconf.isNone = true then
    let cif := BitVec.ofNat 16 (figChange b)
    (s.modDab r fun d => { d with reconf := some cif }).reconfEvent r 0 cif 0
  else s

/-- Signalling passes to the Fantail as it was received, with the runner (R174, R202). -/
def State.toFantail (s : State) (r : Fin 32) (h : Heard) : State := { s with fan := { s.fan with heard := s.fan.heard ++ [(r, h)] } }

/-- One FIG of a FIB that passed (R174, R175, R180). -/
def State.fig (s : State) (r : Fin 32) (f : Fig) : State :=
  if f.type = 1 then (if bitsAt f.body 4 1 = 1 then s else s.modDab r fun d => d.labelFig f)
  else if f.type ≠ 0 then s
  else
    match f.ext with
    | 0 => s.figEnsemble r f.field
    | 1 | 2 | 3 | 8 =>
      if f.other then s
      else s.modDab r fun d => if f.next then { d with nextOrg := d.nextOrg.fig f } else ({ d with org := d.org.fig f } : DabState).record
    | 6 | 21 | 24 => s.toFantail r (.fig f.body)
    | 19 => (f.cut fun b => if bitsAt b 25 1 = 1 then 5 else 4).foldl (fun s b => s.announce r b) s
    | _ => if f.other then s else s.modDab r fun d => d.info f

/-- The EId that FIGs name. -/
def eidOf (l : List Fig) : Option (BitVec 16) :=
  (l.find? fun f => decide (f.type = 0) && decide (f.ext = 0)).map fun f => BitVec.ofNat 16 (bitsAt f.field 0 16)

/-- The FIGs of a frame's FIBs that passed (R170, R174). After a WIN_TUNE nothing is kept until the EId is known, and another EId than the
database's discards it before anything of the new ensemble is kept. -/
def State.figs (s : State) (r : Fin 32) (l : List Fig) : State :=
  let d := s.svc.run[r].dab
  match eidOf l with
  | none => if d.retuned then s else l.foldl (fun s f => s.fig r f) s
  | some e =>
    let s := s.modDab r fun d => { d with retuned := false }
    let s := if d.eid.isSome ∧ d.eid ≠ some e then
        (s.modDab r fun d => d.forget e).ficEvent r 2
      else s
    l.foldl (fun s f => s.fig r f) s

end Sys2Proof.Machine
end

