-- ==== Sys2Proof/Machine/Rds.lean ====
section
/-!
DEFINITION. RDS blocks and what a group's words say (05_fm_am.md, R154 to R160): syndromes, error bursts, offsets, AF codes and lists.
The code, the offset words and the fields of a group are those of IEC 62106, which the spec names and does not print (PRESUMED, log 121).
-/

namespace Sys2Proof.Machine

/-! ### Syndromes and bursts (R154, R155) -/

/-- One step of the division by x^10 + x^8 + x^7 + x^5 + x^4 + x^3 + 1. -/
def rdsStep (r : BitVec 10) (b : Bool) : BitVec 10 :=
  let n := (r <<< 1) ||| (if b then 1 else 0)
  if r.getLsbD 9 then n ^^^ 0x1B9 else n

/-- The remainder of 26 bits: the offset word of a block without errors. -/
def rdsRemainder (v : BitVec 26) : BitVec 10 := (List.range 26).foldl (fun r i => rdsStep r (v.getLsbD (25 - i))) 0

/-- The offset words. -/
def offsetWord : RdsOffset → BitVec 10
  | .A => 0x0FC
  | .B => 0x198
  | .C => 0x168
  | .Cp => 0x350
  | .D => 0x1B4
  | .E => 0

/-- The syndrome of a block for an offset. -/
def rdsSyndrome (v : BitVec 26) (o : RdsOffset) : BitVec 10 := rdsRemainder v ^^^ offsetWord o

/-- The offset for which a block has a zero syndrome; offset E counts only in RBDS mode (R158). -/
def zeroOffset (rbds : Bool) (v : BitVec 26) : Option RdsOffset :=
  (if rbds then [.A, .B, .C, .Cp, .D, .E] else [.A, .B, .C, .Cp, .D] : List RdsOffset).find? fun o => decide (rdsSyndrome v o = 0)

/-- The error bursts of exactly `n` bits. -/
def bursts (n : Nat) : List (BitVec 26) :=
  let shapes := (List.range (2 ^ n)).filter fun p => decide (p % 2 = 1) && decide (p / 2 ^ (n - 1) = 1)
  shapes.flatMap fun p => (List.range (27 - n)).map fun i => BitVec.ofNat 26 (p * 2 ^ i)

/-- The shortest burst of at most `corr` bits that the syndrome for an offset matches, with its length (R155). -/
def burstFor (corr : Nat) (v : BitVec 26) (o : RdsOffset) : Option (BitVec 26 × Nat) :=
  (List.range corr).findSome? fun i => ((bursts (i + 1)).find? fun e => decide (rdsRemainder e = rdsSyndrome v o)).map fun e => (e, i + 1)

/-- The information word of 26 bits. -/
def infoOf (v : BitVec 26) : BitVec 16 := (v >>> 10).setWidth 16

/-- A block checked against the offsets that may stand in its place: the offset found, the information word, 0 where it is uncorrectable, and
the status of R155. -/
def checkBlock (corr : Nat) (offs : List RdsOffset) (v : BitVec 26) : RdsOffset × BitVec 16 × Nat :=
  match offs.find? fun o => decide (rdsSyndrome v o = 0) with
  | some o => (o, infoOf v, 0)
  | none =>
    match offs.findSome? fun o => (burstFor corr v o).map fun e => (o, e) with
    | some (o, e, n) => (o, infoOf (v ^^^ e), if n ≤ 2 then 1 else 2)
    | none => (offs.headD .A, 0, 3)

/-- The block of a group that an offset names; offset E fits any. -/
def offsetIndex : RdsOffset → Nat
  | .A => 0
  | .B => 1
  | .C | .Cp => 2
  | .D => 3
  | .E => 0

/-- Block `i` of a group was of offset E. -/
def isE (b : BitVec 16 × Nat) : Bool := decide (b.2 / 8 = 1)

/-- The offsets that may stand in the next block of a group: after a run of offset E has begun, E; in block 3, C or C' as bit 11 of block 2
says where it was received. -/
def expected (rbds : Bool) (g : List (BitVec 16 × Nat)) : List RdsOffset :=
  match g with
  | [] => if rbds then [.A, .E] else [.A]
  | a :: rest =>
    if isE a then [.E]
    else
      match rest with
      | [] => [.B]
      | [b] => if b.2 % 4 = 3 then [.C, .Cp] else if b.1.getLsbD 11 then [.Cp] else [.C]
      | _ => [.D]

/-- A block of the group in progress: word, and status with 4 for an offset C' and 8 for an offset E. -/
def groupBlock (b : RdsOffset × BitVec 16 × Nat) : BitVec 16 × Nat :=
  (b.2.1, b.2.2 + if b.1 = .Cp then 4 else if b.1 = .E then 8 else 0)

/-- Two zero-syndrome blocks `k` blocks apart stand in the order of IEC 62106: the place in its group of the later one. Where both are of
offset E the first of them counts as the first of a run (DESIGN CHOICE, log 122). -/
def inOrder (a b : RdsOffset) (k : Nat) : Option Nat :=
  let n := (offsetIndex a + k) % 4
  if k = 0 then none
  else if b = .E then (if a = .E ∨ 4 ≤ offsetIndex a + k then some n else none)
  else if a = .E then (if offsetIndex b < k then some (offsetIndex b) else none)
  else if n = offsetIndex b then some n
  else none

/-- ADC periods of `n` bits at 1,187.5 bit/s; the spec states no rounding (log 105). -/
def bitTime (n : Nat) : Nat := (quotAt 157 (737280000 * 2 * n : Nat) 2375).toNat

/-! ### AF codes (R159, R160) -/

/-- The entry of R160 for an FM code, 1 to 204. -/
def afFm (n : Byte) : Option (BitVec 16) := if within 1 204 n.toNat then some (BitVec.ofNat 16 (8750 + 10 * n.toNat)) else none

/-- The entry of R160 for an LF or MF code. -/
def afLow (n : Byte) : Option (BitVec 16) :=
  if within 1 15 n.toNat then some (BitVec.ofNat 16 (0x8000 + 144 + 9 * n.toNat))
  else if within 16 135 n.toNat then some (BitVec.ofNat 16 (0x8000 + 387 + 9 * n.toNat))
  else none

/-- The frequencies of a pair of codes; code 250 says that an LF or MF code follows. -/
def afPair (p : Byte × Byte) : List (BitVec 16) :=
  if p.1 = 250 then (afLow p.2).toList else (afFm p.1).toList ++ (afFm p.2).toList

/-- The frequencies received of a list in collection. -/
def AfAcc.freqs (a : AfAcc) : List (BitVec 16) := (afFm a.first).toList ++ a.pairs.flatMap afPair

/-- All the entries that the count code announced have been received (R159). -/
def AfAcc.done (a : AfAcc) : Bool := decide (a.count ≤ a.freqs.length)

/-- Every pair carries the tuning frequency: method B (R159). -/
def AfAcc.isB (a : AfAcc) : Bool :=
  match afFm a.first with
  | none => false
  | some t => !a.pairs.isEmpty && a.pairs.all fun p => decide ((afPair p).length = 2) && (afPair p).contains t

/-- The complete list: method, tuning frequency, at most 25 entries. -/
def AfAcc.list (a : AfAcc) (now : D) : AfList :=
  if a.isB then
    let t := (afFm a.first).getD 0
    { method := 2, tuning := t, stamp := now
      entries := a.pairs.map fun p => match afPair p with | [x, y] => if x = t then y else x | _ => t }
  else { method := 1, tuning := 0, entries := a.freqs.take 25, stamp := now }

/-- A pair of codes joins a list in collection; count codes 225 to 249 begin one. -/
def afTake (acc : Option AfAcc) (p : Byte × Byte) : Option AfAcc :=
  if within 225 249 p.1.toNat then some { count := p.1.toNat - 224, first := p.2, pairs := [] }
  else acc.map fun a => { a with pairs := a.pairs ++ [p] }

/-! ### The fields of a group (R157 to R159) -/

/-- A bit field of a 16-bit word. -/
def wordField (w : BitVec 16) (lo n : Nat) : Nat := w.toNat / 2 ^ lo % 2 ^ n

/-- High and low byte of a word. -/
def wordBytes (w : BitVec 16) : Byte × Byte := ((w >>> 8).setWidth 8, w.setWidth 8)

/-- Word and status of block `i + 1` of a group. -/
def blockWord (g : List (BitVec 16 × Nat)) (i : Nat) : BitVec 16 := (g.getD i (0, 3)).1
def blockStatus (g : List (BitVec 16 × Nat)) (i : Nat) : Nat := (g.getD i (0, 3)).2 % 4

/-- The group type of a group: 4 bits and the version. -/
def groupType (g : List (BitVec 16 × Nat)) : BitVec 5 := (blockWord g 1 >>> 11).setWidth 5

/-- A group is four offset-E blocks. -/
def allE (g : List (BitVec 16 × Nat)) : Bool := g.all isE

/-- The 12-byte unit of a group (R157). -/
def groupUnit (g : List (BitVec 16 × Nat)) (k : Fin 4) (count : BitVec 16) : List Byte :=
  let src := k.val + 4 * b01 (decide ((g.getD 2 (0, 0)).2 / 4 % 2 = 1)) + 8 * b01 (allE g)
  (List.range 4).flatMap (fun i => leBytes 2 (blockWord g i).toNat) ++
  [byte (blockStatus g 0 + 4 * blockStatus g 1 + 16 * blockStatus g 2 + 64 * blockStatus g 3), byte src] ++ leBytes 2 count.toNat

/-- CT of a type 4A group: seconds since 1970 of its Modified Julian Day, hour and minute, and the local offset in half hours. -/
def groupTime (g : List (BitVec 16 × Nat)) : W × Int :=
  let mjd := wordField (blockWord g 1) 0 2 * 32768 + wordField (blockWord g 2) 1 15
  let hour := wordField (blockWord g 2) 0 1 * 16 + wordField (blockWord g 3) 12 4
  let off : Int := wordField (blockWord g 3) 0 5
  (BitVec.ofInt 32 (86400 * ((mjd : Int) - 40587) + 3600 * hour + 60 * wordField (blockWord g 3) 6 6)
  , if wordField (blockWord g 3) 5 1 = 1 then -off else off)

end Sys2Proof.Machine
end

