-- ==== Sys2Proof/Machine/FmAm.lean ====
section
/-!
DEFINITION. Meanings of the service commands and of the events of the FM and AM runners, their RDS state and their probe checks
(05_fm_am.md), and of the events that every runner's contexts share.
-/

namespace Sys2Proof.Machine

/-! ### SVC_OPEN (R144, R165, R182 to R184, R210, R211, R217, R219, R272) -/

/-- The runner that byte 26 names. -/
def openRunner (c : CmdEntry) : Fin 32 := Fin.ofNat 32 (c.u8 26)

/-- COMPONENT of SVC_OPEN. -/
def openComp (c : CmdEntry) : W := BitVec.ofNat 32 (c.u32 28)

/-- Illegal parameters of SVC_OPEN. -/
def openSvcRange (c : CmdEntry) : List (Bool × Status × Nat) :=
  let kind := c.u8 25
  let r := openRunner c
  let serves := decide (c.u8 26 ≤ 31) && decide (kind ≤ 5)
  [(decide (5 < kind) || (serves && !kindServed r kind), .range, 25), (decide (31 < c.u8 26), .range, 26),
   (if kind = 0 then decide (31 < c.u8 27 ∧ c.u8 27 ≠ 0xFF) else !within 8 31 (c.u8 27), .range, 27),
   (serves && kindServed r kind && !compOk r kind (openComp c), .range, 28),
   (decide (1 < c.u8 32 ∨ (c.u8 32 = 1 ∧ kind ≠ 0)), .range, 32)] ++ rsvdBytes c 33 35

/-- The context that SVC_OPEN takes: the one named, or the lowest FREE one. -/
def State.openSlotFor (s : State) (c : CmdEntry) : Option (Fin 256) :=
  if c.u8 24 = 0xFF then firstIx fun k : Fin 256 => decide (s.svc.ctx[k].st = .free) else some (Fin.ofNat 256 (c.u8 24))

/-- The stream of an audio ROUTE is held by another context (R272). -/
def State.routeHeld (s : State) (kind route : Nat) : Bool :=
  decide (kind = 0) && decide (route ≤ 31) &&
    !(allIx fun k : Fin 256 => decide (s.svc.ctx[k].st ≠ .free) && decide (s.svc.ctx[k].kind = 0) &&
      decide (s.svc.ctx[k].route.toNat = route)).isEmpty

/-- Contexts with FOLLOW set. -/
def State.followed (s : State) : List (Fin 256) := allIx fun k : Fin 256 => decide (s.svc.ctx[k].st ≠ .free) && s.svc.ctx[k].follow

/-- A handle that is not assigned (R183). -/
def State.noHandle (s : State) (r : Fin 32) (w : W) : Bool :=
  isDab r && decide (compAddr w = 1 ∨ compAddr w = 3) && !s.svc.run[r].dab.handles.contains (byte (compId w))

/-- What SVC_OPEN opens. -/
def State.openWith (s : State) (c : CmdEntry) : Ctx :=
  let kind := c.u8 25
  let r := openRunner c
  { kind := BitVec.ofNat 4 kind, runner := r, component := openComp c, route := byte (c.u8 27), follow := decide (c.u8 32 = 1)
    decoder := if needsDecoder r kind then s.freeDecoder.getD 31 else 31 }

/-- SVC_OPEN: the context moves to OPENING, and the command completes when it moves on to ACQUIRING (`State.ctxOpened`). -/
def bodySvcOpen (c : CmdEntry) (s : State) : Answer :=
  let kind := c.u8 25
  let r := openRunner c
  let taken := decide (c.u8 24 ≠ 0xFF) && decide (s.svc.ctx[(Fin.ofNat 256 (c.u8 24) : Fin 256)].st ≠ .free)
  let t := s.makeRoom r kind
  checked (openSvcRange c ++
      [s.winPower, (taken, .state, 0), (s.noHandle r (openComp c), .notfound, 0),
       (decide ((t.openSlotFor c).isNone) || t.overLimit r kind (openComp c) ||
         (needsDecoder r kind && decide (t.freeDecoder.isNone)) ||
         (decide (c.u8 32 = 1) && decide (16 ≤ s.followed.length)), .nores, 0),
       (s.svc.run[r].fm.lent || s.routeHeld kind (c.u8 27), .busy, 0)]) fun _ =>
    match t.openSlotFor c with
    | none => .fail .nores 0
    | some k =>
      .wait ((t.startOpen k { t.openWith c with openSlot := some c.id } 0).modFollow k fun _ => {})

/-- SVC_OPEN (R165). -/
def execSvcOpen (c : CmdEntry) (s : State) : Host.Outcome State Fault Refusal := .next (s.runCmd 0x0301 c (bodySvcOpen c))

/-! ### SVC_CLOSE (R21, R23, R246) -/

/-- A close is accepted: a pending open is aborted first (R23), following ends, a shadow is lost to its candidate. -/
def State.closeCtx (s : State) (k : Fin 256) (slot : Nat) : State :=
  let x := s.svc.ctx[k]
  let s := match x.openSlot with
    | none => s
    | some o => s.finishSlot 0x0301 o .aborted 0 [] none
  let s := if x.follow then s.endFollow k else s
  let s := (s.loseShadow k).startClose k 0
  s.modCtx k fun x => { x with closeSlot := x.closeSlot ++ [slot], openSlot := none }

/-- SVC_CLOSE: it completes once the context is FREE. -/
def bodySvcClose (c : CmdEntry) (s : State) : Answer :=
  let k : Fin 256 := Fin.ofNat 256 (c.u8 24)
  let x := s.svc.ctx[k]
  checked (rsvdBytes c 25 27 ++ [(decide (x.st = .free), .state, 0)]) fun _ =>
    if x.st = .closing then .wait (s.modCtx k fun x => { x with closeSlot := x.closeSlot ++ [c.id] })
    else .wait (s.closeCtx k c.id)

/-- SVC_CLOSE (R21). -/
def execSvcClose (c : CmdEntry) (s : State) : Host.Outcome State Fault Refusal := .next (s.runCmd 0x0302 c (bodySvcClose c))

/-- CONTEXT_CLOSED (R21). -/
def execContextClosed (ctx : Fin 256) (s : State) : Host.Outcome State Fault Refusal := .next (s.ctxClosed ctx)

/-! ### SVC_QUALITY (R164, R192, R213) -/

/-- RESULT bytes 16 to 31 for a runner. -/
def State.quality (s : State) (r : Fin 32) : List Byte :=
  let u := s.svc.run[r]
  if r.val < 24 then u.fmQuality r (s.levelAt r (u.fm.power r)) (s.refOffset r (if isFm r then 10 else 1))
  else if r.val < 28 then
    u.dabQuality (s.strongest r fun p => meanOf u.dab.ticks fun t => t.powers.getD p.val 0) (s.refOffset r 1) (s.legsOf r) s.sys.timeUs
  else u.drmQuality (s.strongest r fun p => meanOf u.drm.recent fun t => t.powers.getD p.val 0) (s.refOffset r 1) (s.legsOf r)

/-- No window feeds the runner. -/
def State.noWindow (s : State) (r : Fin 32) : Bool × Status × Nat := (decide ((s.windowOf r).isNone), .state, 0)

/-- SVC_QUALITY. -/
def bodySvcQuality (c : CmdEntry) (s : State) : Answer :=
  let r : Fin 32 := Fin.ofNat 32 (c.u8 24)
  checked ((decide (31 < c.u8 24), .range, 24) :: rsvdBytes c 25 27 ++ [s.noWindow r]) fun _ => .ok s (s.quality r) none

/-- SVC_QUALITY (R164). -/
def execSvcQuality (c : CmdEntry) (s : State) : Host.Outcome State Fault Refusal := .next (s.runCmd 0x0303 c (bodySvcQuality c))

/-! ### SVC_FM_CFG and SVC_AM_CFG (R165, R166) -/

/-- The settings that a command gives: 0xFF keeps what is set, a pending change included. -/
def FmState.newSettings (f : FmState) (r : Fin 32) (c : CmdEntry) (n : Nat) : List Byte :=
  let old := f.next.getD (f.settings r)
  (List.range n).map fun i => if c.u8 (25 + i) = 0xFF then old.getD i 0 else byte (c.u8 (25 + i))

/-- A START must exceed its END: DETAIL names the START. -/
def startEnd (l : List Byte) (i : Nat) : Bool × Status × Nat :=
  (decide ((l.getD i 0).toNat ≤ (l.getD (i + 1) 0).toNat), .range, 25 + i)

/-- Bytes that are neither 0xFF nor within their range. -/
def settingRange (c : CmdEntry) (ranges : List (Nat × Nat)) : List (Bool × Status × Nat) :=
  ranges.mapIdx fun i b => (decide (c.u8 (25 + i) ≠ 0xFF) && !within b.1 b.2 (c.u8 (25 + i)), .range, 25 + i)

/-- The checks of a settings command, lowest byte first. -/
def byOffset (l : List (Bool × Status × Nat)) : List (Bool × Status × Nat) :=
  (List.range 40).flatMap fun i => l.filter fun x => decide (x.2.2 = i + 24)

/-- SVC_FM_CFG: the settings wait for the next 1 ms audio boundary. -/
def bodySvcFmCfg (c : CmdEntry) (s : State) : Answer :=
  let r : Fin 32 := Fin.ofNat 32 (c.u8 24)
  let l := s.svc.run[r].fm.newSettings r c 14
  checked ((decide (15 < c.u8 24), .range, 24) ::
      byOffset (settingRange c fmRanges ++ [startEnd l 5, startEnd l 8, startEnd l 11]) ++ rsvdBytes c 39 43) fun _ =>
    .done (s.modFm r fun f => { f with next := some l })

/-- SVC_FM_CFG (R165). -/
def execSvcFmCfg (c : CmdEntry) (s : State) : Host.Outcome State Fault Refusal := .next (s.runCmd 0x0310 c (bodySvcFmCfg c))

/-- SVC_AM_CFG. -/
def bodySvcAmCfg (c : CmdEntry) (s : State) : Answer :=
  let r : Fin 32 := Fin.ofNat 32 (c.u8 24)
  let l := s.svc.run[r].fm.newSettings r c 9
  checked ((!within 16 23 (c.u8 24), .range, 24) ::
      byOffset (settingRange c amRanges ++ [startEnd l 2, startEnd l 5]) ++ rsvdBytes c 34 35) fun _ =>
    .done (s.modFm r fun f => { f with next := some l })

/-- SVC_AM_CFG (R165). -/
def execSvcAmCfg (c : CmdEntry) (s : State) : Host.Outcome State Fault Refusal := .next (s.runCmd 0x0311 c (bodySvcAmCfg c))

/-! ### Probe commands (R161 to R163) -/

/-- Runners lent. -/
def State.lentCount (s : State) : Nat := (allIx fun r : Fin 32 => s.svc.run[r].fm.lent).length

/-- SVC_PROBE_LEND. -/
def bodySvcProbeLend (c : CmdEntry) (s : State) : Answer :=
  let r : Fin 32 := Fin.ofNat 32 (c.u8 24)
  let lend := decide (c.u8 25 = 1)
  checked ([(decide (15 < c.u8 24), .range, 24), (decide (1 < c.u8 25), .range, 25)] ++ rsvdBytes c 26 27 ++
      [(lend && s.runnerHeld r, .busy, 0), (if lend then decide ((s.windowOf r).isNone) else !s.svc.run[r].fm.lent, .state, 0),
       (lend && decide (4 ≤ s.lentCount), .nores, 0)]) fun _ =>
    .done (if lend then s.modFm r fun f => { f with lent := true } else s.probeAbort r)

/-- SVC_PROBE_LEND (R161). -/
def execSvcProbeLend (c : CmdEntry) (s : State) : Host.Outcome State Fault Refusal :=
  .next (s.runCmd 0x0312 c (bodySvcProbeLend c))

/-- The check that SVC_PROBE queues. -/
def cmdProbe (c : CmdEntry) : ProbeCheck :=
  { freq := BitVec.ofNat 32 (c.u32 28), tag := byte (c.u8 25), confirm := decide (c.u8 26 = 1)
    dwell := if c.u16 32 = 0 then 110 else c.u16 32, floor := toSigned 2 (c.u16 34) }

/-- A check joins the queue; one that finds it empty starts at once. -/
def State.queueProbe (s : State) (r : Fin 32) (k : ProbeCheck) : State :=
  let first := s.svc.run[r].fm.probes.isEmpty
  let s := s.modFm r fun f => { f with probes := f.probes ++ [k] }
  if first then s.probeBegin r else s

/-- SVC_PROBE. -/
def bodySvcProbe (c : CmdEntry) (s : State) : Answer :=
  let r : Fin 32 := Fin.ofNat 32 (c.u8 24)
  let n := s.svc.run[r].fm.probes.length
  let bad := match s.windowOf r with | some w => s.tuneBad w (c.u32 28) | none => false
  checked [(decide (15 < c.u8 24), .range, 24), (decide (1 < c.u8 26), .range, 26), (decide (c.u8 27 ≠ 0), .range, 27),
      (bad, .range, 28), (decide (c.u16 32 ≠ 0) && !within 20 500 (c.u16 32), .range, 32), (s.onFio, .fault, 0),
      (!s.svc.run[r].fm.lent, .state, 0), (decide (16 ≤ n), .full, 0)] fun _ =>
    .ok (s.queueProbe r (cmdProbe c)) [byte n] none

/-- SVC_PROBE (R162). -/
def execSvcProbe (c : CmdEntry) (s : State) : Host.Outcome State Fault Refusal := .next (s.runCmd 0x0313 c (bodySvcProbe c))

/-- PROBE_LEVEL_CHECK (R162 step 2, R163): a level below FLOOR ends the check. -/
def execProbeLevelCheck (r : Fin 32) (o : ProbeObs) (s : State) : Host.Outcome State Fault Refusal :=
  .next (match s.svc.run[r].fm.probes with
    | [] => s
    | k :: _ =>
      let level := s.levelAt r o.power
      let s := s.modFm r fun f => { f with probeLevel := level }
      if level < k.floor then s.probeEnd r (if s.probeDry r then 4 else 2) o.cnr else s)

/-- PROBE_DWELL_EXPIRY (R162 step 3, R163). -/
def execProbeDwellExpiry (r : Fin 32) (o : ProbeObs) (s : State) : Host.Outcome State Fault Refusal :=
  .next (match s.svc.run[r].fm.probes with
    | [] => s
    | _ :: _ => (s.modFm r fun f => { f with probeLevel := s.levelAt r o.power }).probeEnd r (if s.probeDry r then 4 else 1) o.cnr)

/-! ### SVC_RDS_STATE (R159, R160) -/

/-- A fixed number of two-byte entries. -/
def afEntries (n : Nat) (l : List (BitVec 16)) : List Byte := (List.range n).flatMap fun i => leBytes 2 (l.getD i 0).toNat

/-- An AF_LIST record. -/
def AfList.bytes (a : AfList) : List Byte :=
  leBytes 2 a.tuning.toNat ++ [byte (min 25 a.entries.length), 0] ++ afEntries 25 a.entries ++ [0, 0]

/-- An EON record. -/
def EonNet.bytes (e : EonNet) : List Byte :=
  leBytes 2 e.pi.toNat ++ [byte (1 + 2 * b01 e.tp + 4 * b01 e.ta), e.pty] ++ padTo 8 e.ps ++
  [byte (min 16 e.af.length), 0, 0, 0] ++ afEntries 16 e.af

/-- PS as received, 0 where not yet. -/
def RdsState.psBytes (d : RdsState) : List Byte :=
  d.ps.toList.flatMap fun p => match p with | some (a, b) => [a, b] | none => [0, 0]

/-- FLAGS of the image. -/
def RdsState.flagByte (d : RdsState) (rbds : Bool) : Byte :=
  byte (b01 d.pi.isSome + 2 * b01 d.tp + 4 * b01 d.ta + 8 * b01 d.ms + 16 * b01 rbds + 32 * b01 (d.ps.toList.all Option.isSome) +
    64 * b01 d.ct.isSome + 128 * b01 (d.pi.isNone && d.prov.isSome))

/-- The CT fields of the image: UTC, offset, age in minutes. -/
def RdsState.ctBytes (d : RdsState) (now : D) : List Byte :=
  match d.ct with
  | none => List.replicate 6 0
  | some (utc, off, t) => leBytes 4 utc.toNat ++ leInt 1 off ++ [sat8 ((now - t).toNat / 60000000)]

/-- AF_METHOD. -/
def RdsState.afMethod (d : RdsState) : Byte := byte ((d.af.map fun a => a.method.val).foldl max 0)

/-- The image of SVC_RDS_STATE. -/
def RdsState.image (d : RdsState) (rbds : Bool) (now : D) : List Byte :=
  leBytes 2 (d.pi.getD 0).toNat ++ [d.flagByte rbds, d.pty.setWidth 8] ++ d.psBytes ++ d.ctBytes now ++ [d.afMethod] ++
  List.replicate 13 0 ++ padTo 224 (d.af.flatMap AfList.bytes) ++ padTo 768 (d.eon.flatMap EonNet.bytes)

/-- SVC_RDS_STATE. -/
def bodySvcRdsState (c : CmdEntry) (s : State) : Answer :=
  let r : Fin 32 := Fin.ofNat 32 (c.u8 24)
  let f := s.svc.run[r].fm
  checked ((decide (15 < c.u8 24), .range, 24) :: rsvdBytes c 25 27 ++ [s.noWindow r]) fun _ =>
    .ok s [] (some (f.rds.image (decide (f.setting r 2 = 2)) s.sys.timeUs))

/-- SVC_RDS_STATE (R159). -/
def execSvcRdsState (c : CmdEntry) (s : State) : Host.Outcome State Fault Refusal := .next (s.runCmd 0x0314 c (bodySvcRdsState c))

/-! ### Metrics, controls and lock (R145 to R151, R164) -/

/-- n · a / b clamped to 0 to n, rounded down and up. -/
def clampFrac (n : Nat) (a b : Int) : Nat × Nat :=
  if a ≤ 0 then (0, 0)
  else if b ≤ a then (n, n)
  else (n * a.toNat / b.toNat, ceilDiv (n * a.toNat) b.toNat)

/-- n · clamp(a / b, 0, 1). -/
def clampAt (place n : Nat) (a b : Int) : Nat :=
  if a ≤ 0 then 0 else if b ≤ a then n else (quotAt place (n * a) b.toNat).toNat

/-- A control after 1 ms of its way to a target: the part 1 - exp(-1/τ) of the distance, in 10^-9, on the way that worsens the audio and on
the way back (R147). The spec states the time constants and neither the width of a control nor its rounding (log 105, log 123). -/
def approach (attack release : Nat) (worse : Bool) (old target : Nat) : Nat :=
  ((old : Int) + quotAt 147 (((target : Int) - old) * if worse then attack else release) 1000000000).toNat

/-- 1 - exp(-1/τ) in 10^-9 for τ of 2, 50, 10 and 500 ms. -/
def tau2 : Nat := 393469340
def tau50 : Nat := 19801327
def tau10 : Nat := 95162582
def tau500 : Nat := 1998001

/-- The settings SM_START, SM_END, SM_MAX; HC_START, HC_END, HC_MIN. -/
def FmState.sm (f : FmState) (r : Fin 32) (i : Nat) : Nat := f.setting r ((if isFm r then 5 else 2) + i)
def FmState.hc (f : FmState) (r : Fin 32) (i : Nat) : Nat := f.setting r ((if isFm r then 8 else 5) + i)

/-- The soft-mute target in 2^-16 dB for a CNR in 0.25 dB; over a gap it is SM_MAX (R17, R147). -/
def FmState.muteTarget (f : FmState) (r : Fin 32) (gap : Bool) (cnr : Nat) : Nat :=
  if gap then 65536 * f.sm r 2
  else clampAt 147 (65536 * f.sm r 2) (4 * (f.sm r 0 : Int) - cnr) (4 * ((f.sm r 0 : Int) - f.sm r 1))

/-- The largest `c` below 2^`n` for which the test holds, where it holds from 0 up to some number. -/
def largest : Nat → (Nat → Bool) → Nat → Nat
  | 0, _, c => c
  | n + 1, p, c => if p (c + 2 ^ n) then largest n p (c + 2 ^ n) else largest n p c

/-- 15000 · (lo / 15000)^(a / b) in whole Hz below or above, for 0 < a < b: `c` lies below it where c^b ≤ 15000^(b - a) · lo^a. -/
def cornerHz (lo a b : Nat) : Nat :=
  let v := 15000 ^ (b - a) * lo ^ a
  let c := largest 14 (fun c => decide (c ^ b ≤ v)) 0
  if c ^ b = v then c else c + b01 (Config.roundUp 147 (v : Nat) b)

/-- The high-cut target in 2^-16 Hz for q in 1/8 dB (R147). -/
def FmState.cornerTarget (f : FmState) (r : Fin 32) (q : Int) : Nat :=
  let a := 8 * (f.hc r 0 : Int) - q
  let b := 8 * ((f.hc r 0 : Int) - f.hc r 1)
  65536 * if a ≤ 0 then 15000 else if b ≤ a then 100 * f.hc r 2 else cornerHz (100 * f.hc r 2) a.toNat b.toNat

/-- The separation target in 2^-16 for q in 1/8 dB (R147). -/
def FmState.sepTarget (f : FmState) (r : Fin 32) (q : Int) : Nat :=
  clampAt 147 65536 (q - 8 * (f.setting r 12 : Int)) (8 * ((f.setting r 11 : Int) - f.setting r 12))

/-- The output is mono: on AM, while the pilot is absent, and with STEREO 1 (R146, R150). -/
def FmState.isMono (f : FmState) (r : Fin 32) : Bool := !isFm r || !f.pilot || decide (f.setting r 1 = 1)

/-- q of R147 in 1/8 dB; q = cnr on AM (R150). -/
def fmQ (r : Fin 32) (cnr multipath : Nat) : Int := if isFm r then 2 * (cnr : Int) - min multipath 128 else 2 * (cnr : Int)

/-- The separation after 1 ms: 0 in mono; a raised-cosine ramp over the 30 ms after the pilot becomes present; then its time constants
(R147). -/
def FmState.sepNext (f : FmState) (r : Fin 32) (target : Nat) : Nat × Option Nat :=
  if f.isMono r then (0, f.pilotRamp)
  else
    match f.pilotRamp with
    | some n =>
      if 30 ≤ n + 1 then (target, none)
      else (target - (Config.fadeWord (n + 1) 30 (BitVec.ofNat 32 target)).toNat, some (n + 1))
    | none => (approach tau10 tau500 (decide (target < f.sep)) f.sep target, none)

/-- The measurements of a tick and the controls that follow from the means (R147, R164). -/
def FmState.tick (f : FmState) (r : Fin 32) (gap : Bool) (m : RunnerMetrics) : FmState :=
  let g := { f with hist := ((⟨m, f.mute, f.corner, f.sep⟩ : FmTick) :: f.hist).take 100, since := f.since + 1 }
  let q := fmQ r (g.cnr r) (g.multipath r)
  let mt := f.muteTarget r gap (g.cnr r)
  let ct := f.cornerTarget r q
  let sep := f.sepNext r (f.sepTarget r q)
  let mute := approach tau2 tau50 (decide (f.mute < mt)) f.mute mt
  let corner := approach tau10 tau500 (decide (ct < f.corner)) f.corner ct
  { g with
    q := q, mute := mute, corner := corner, sep := sep.1, pilotRamp := sep.2
    hist := ((⟨m, mute, corner, sep.1⟩ : FmTick) :: f.hist).take 100 }

/-- The last `n` ticks satisfy a test. -/
def FmState.lastTicks (f : FmState) (n : Nat) (p : RunnerMetrics → Bool) : Bool :=
  decide (n ≤ f.hist.length) && (f.hist.take n).all fun t => p t.m

/-- LOCK_CNR in 0.25 dB. -/
def FmState.lockCnr (f : FmState) (r : Fin 32) : Int := 4 * (f.setting r (if isFm r then 13 else 8) : Int)

/-- The conditions of R151 for lock, on estimates since acquisition began. -/
def FmState.mayLock (f : FmState) (r : Fin 32) : Bool :=
  let n := if isFm r then 5 else 10
  decide (n ≤ f.since) && f.lastTicks n fun m => decide (f.lockCnr r ≤ m.cnr) && (!isFm r || decide (m.offset.natAbs ≤ 3000))

/-- The carrier has drifted away: beyond ±40 kHz for 100 ms on FM, more than 200 Hz on AM (R150, R151). -/
def FmState.drifted (f : FmState) (r : Fin 32) : Bool :=
  if isFm r then f.lastTicks 100 fun m => decide (4000 < m.offset.natAbs) else f.lastTicks 1 fun m => decide (200 < m.offset.natAbs)

/-- The conditions of R150 and R151 for the end of lock. -/
def FmState.mayLose (f : FmState) (r : Fin 32) : Bool :=
  f.drifted r || f.lastTicks 100 fun m => decide ((m.cnr : Int) < f.lockCnr r - 8)

/-- Settings that wait take effect at the 1 ms boundary; a change of RDS or STREAMS drops block synchronisation on the streams it
affects (R165). -/
def State.adoptSettings (s : State) (r : Fin 32) : State :=
  let f := s.svc.run[r].fm
  match f.next with
  | none => s
  | some l =>
    let mask : BitVec 4 :=
      if isFm r = false then 0
      else if f.setting r 2 ≠ (l.getD 2 0).toNat then 15
      else BitVec.ofNat 4 (f.setting r 3) ^^^ (l.getD 3 0).setWidth 4
    (s.loseRdsSync r mask).modFm r fun f => { f with cfg := l, next := none }

/-- RUNNER_METRIC_TICK (R147, R164, R165): settings, metrics and controls; contexts of a locked runner enter RUNNING (R145, R158). -/
def execRunnerMetricTick (r : Fin 32) (m : RunnerMetrics) (s : State) : Host.Outcome State Fault Refusal :=
  .next (if r.val < 24 then
    let s := s.adoptSettings r
    if s.svc.run[r].active then
      ((s.modFm r fun f => f.tick r s.svc.run[r].gap.isSome m).spreadCarry r).startReady r fun _ => true
    else s
  else s)

/-- RUNNER_LOCK_GAINED (R145, R151): once the estimates allow it, lock, with source 34 CODE 0, and the contexts enter RUNNING. -/
def execRunnerLockGained (r : Fin 32) (s : State) : Host.Outcome State Fault Refusal :=
  .next (if r.val < 24 ∧ s.svc.run[r].active = true ∧ s.svc.run[r].lock = false ∧ s.svc.run[r].fm.mayLock r = true then
    let s := (s.modRun r fun u => { u with lock := true }).runCount r.val 16 1
    (s.lockEvent r 0 []).startReady r fun _ => true
  else s)

/-- RUNNER_LOCK_LOST (R145, R150, R151): once the estimates demand it, lock ends, and a carrier that has drifted away is acquired afresh;
the contexts stay in RUNNING. -/
def execRunnerLockLost (r : Fin 32) (s : State) : Host.Outcome State Fault Refusal :=
  .next (if r.val < 24 ∧ s.svc.run[r].lock = true ∧ s.svc.run[r].fm.mayLose r = true then
    let off := s.svc.run[r].fm.drifted r
    let s := (s.loseLock r).modFm r fun f => { f with since := 0 }
    if off then s.lockEvent r 2 [] else s
  else s)

/-- PILOT_PRESENT (R146): the injection has stayed at 4 % or more for 40 ms; the blend ramps up from mono. -/
def execPilotPresent (r : Fin 32) (s : State) : Host.Outcome State Fault Refusal :=
  .next (if isFm r ∧ s.svc.run[r].active = true ∧ s.svc.run[r].fm.pilot = false ∧
      (s.svc.run[r].fm.lastTicks 40 fun m => decide (40 ≤ m.pilot)) = true then
    (s.modFm r fun f => { f with pilot := true, pilotRamp := some 0 }).lockEvent r 3 []
  else s)

/-- PILOT_LOST (R146): the injection has stayed below 2 % for 100 ms. -/
def execPilotLost (r : Fin 32) (s : State) : Host.Outcome State Fault Refusal :=
  .next (if isFm r ∧ s.svc.run[r].fm.pilot = true ∧ (s.svc.run[r].fm.lastTicks 100 fun m => decide (m.pilot < 20)) = true then
    (s.modFm r fun f => { f with pilot := false, pilotRamp := none, sep := 0 }).lockEvent r 4 []
  else s)

/-! ### Audio of FM and AM runners (R145 to R150) -/

/-- Blend: left and right of a pair of sum and difference at a separation in 2^-16. -/
def blendPair (sep : Nat) (p : Int × Int) : Int × Int :=
  (quotAt 147 (65536 * p.1 + sep * p.2) 65536, quotAt 147 (65536 * p.1 - sep * p.2) 65536)

/-- A sample under soft mute, in 24 bits. -/
def muted (db : Nat) (v : Int) : Int := clip 24 (if db = 0 then v else Config.attenuate db v)

/-- The 48 frames of a unit that 1 ms of demodulated signal gives, and the filters after it (R147, R148, R150). -/
def FmState.audio (f : FmState) (r : Fin 32) (x : List (Int × Int)) : List (Int × Int) × FmState :=
  let y := if isFm r then x.map (blendPair (if f.isMono r then 0 else f.sep)) else x.map fun p => (p.1, p.1)
  let run := if isFm r then Config.fmAudio (f.setting r 0) f.corner else Config.amAudio (f.setting r 1) f.corner
  let a := run f.filt.1 (y.map Prod.fst)
  let b := if isFm r then run f.filt.2 (y.map Prod.snd) else a
  ((List.range 48).map fun i => (muted f.mute (a.2.getD i 0), muted f.mute (b.2.getD i 0)), { f with filt := (a.1, b.1) })

/-- The TIMESTAMP of a unit whose first frame is available at ADC period `t`: race latency, group delay and the runner's 4.000 ms on FM or
8.000 ms on AM are taken off (R149). -/
def State.audioStamp (s : State) (r : Fin 32) (t : D) : D :=
  match s.windowOf r with
  | none => t
  | some w =>
    let x := s.win.win[w]
    captureStamp x.preset t - BitVec.ofNat 64 (x.groupDelay + 737280 * if isFm r then 4 else 8)

/-- An audio unit of an FM or AM runner: the filters run, and the context takes the unit. -/
def State.fmUnit (s : State) (c : Fin 256) (u : AudioObs) : State :=
  let r := s.svc.ctx[c].runner
  let a := s.svc.run[r].fm.audio r u.frames
  ((s.spreadCarry r).modFm r fun _ => a.2).audioOut c false a.1 (s.audioStamp r u.at_)

/-- AUDIO_UNIT (R145, R148, R184): the first unit moves the context to RUNNING; the unit goes to the context's output stream with
the marks due to it. -/
def execAudioUnit (ctx : Fin 256) (u : AudioObs) (s : State) : Host.Outcome State Fault Refusal :=
  let x := s.svc.ctx[ctx]
  .next (if x.kind = 0 ∧ s.svc.run[x.runner].active = true ∧ s.takesUnit x.runner ctx = true ∧
      (u.ok = true ∨ x.st = .running ∨ x.runner.val < 24) then
    let s := if x.st = .acquiring then s.toRunning ctx else s
    if x.runner.val < 24 then s.fmUnit ctx u else s.decodedUnit ctx u
  else s)

/-! ### RDS blocks (R153 to R159) -/

/-- The stream is demodulated: RDS is on and STREAMS has its bit. -/
def FmState.streamOn (f : FmState) (r : Fin 32) (k : Fin 4) : Bool :=
  decide (f.setting r 2 ≠ 0) && decide (f.setting r 3 / 2 ^ k.val % 2 = 1)

/-- RBDS mode (R158). -/
def FmState.rbds (f : FmState) (r : Fin 32) : Bool := decide (f.setting r 2 = 2)

/-- Update the RDS state of a runner. -/
def State.modRds (s : State) (r : Fin 32) (g : RdsState → RdsState) : State := s.modFm r fun f => { f with rds := g f.rds }

/-- Source 35 (R167). -/
def State.piEvent (s : State) (r : Fin 32) (code : Nat) (pi old : BitVec 16) : State :=
  s.raise 35 code ([byte r.val, 0, 0, 0] ++ leBytes 2 pi.toNat ++ leBytes 2 old.toNat)

/-- A block A or C' of stream 0 (R156). -/
def State.rdsPi (s : State) (r : Fin 32) (pi : BitVec 16) (status : Nat) : State :=
  let d := s.svc.run[r].fm.rds
  match d.pi, d.prov with
  | none, none =>
    if status = 0 then ((s.modRds r fun d => { d with prov := some pi }).piEvent r 0 pi 0).probeFound r false else s
  | none, some p =>
    if status ≤ 1 ∧ pi = p then ((s.modRds r fun d => { d with pi := some pi }).piEvent r 1 pi 0).probeFound r true else s
  | some p, _ =>
    if status ≠ 0 ∨ pi = p then s.modRds r fun d => { d with newPi := none }
    else if d.newPi = some pi then
      (s.modRds r fun d => { d with
        pi := some pi, prov := some pi, newPi := none, psOnce := Vector.replicate 4 none, ps := Vector.replicate 4 none
        af := [], afAcc := none, eon := [], ct := none, afMore := [], afAccMore := Vector.replicate 4 none, eonMore := [] }).piEvent r 2 pi p
    else s.modRds r fun d => { d with newPi := some pi }

/-- The group is admitted to a KIND 3 context (R158). -/
def State.groupAdmitted (s : State) (r : Fin 32) (x : Ctx) (k : Fin 4) (g : List (BitVec 16 × Nat)) : Bool :=
  let f := s.svc.run[r].fm
  let aid := compAid x.component
  decide (x.kind = 3) && decide (x.st = .running) && x.component.getLsbD (16 + k.val) &&
  if aid = 0 then (List.range 4).any (fun i => decide (blockStatus g i ≤ 2))
  else
    (f.rds.oda.any fun e => decide (e.1 = k) && decide (e.2.1 = aid) && decide (e.2.2 = groupType g)) && !allE g &&
      decide (blockStatus g 1 ≤ 2) && decide (blockStatus g 2 ≤ 2) && decide (blockStatus g 3 ≤ 2)

/-- A group goes to every context that R158 admits it to. -/
def State.groupDeliver (s : State) (r : Fin 32) (k : Fin 4) (g : List (BitVec 16 × Nat)) (ts : D) : State :=
  let count := s.svc.run[r].fm.rds.groups[k]
  (s.ctxsOf r).foldl (fun s c =>
    let x := s.svc.ctx[c]
    if s.groupAdmitted r x k g then s.deliver c (groupUnit g k count) ts ((compAid x.component).setWidth 32) 0 false none
    else s) s

/-- A group that carries a bulletin segment (R258): type A, of the AID of a KIND 5 context that has the stream in its mask. -/
def State.groupSegment (s : State) (r : Fin 32) (k : Fin 4) (g : List (BitVec 16 × Nat)) : State :=
  let oda := s.svc.run[r].fm.rds.oda
  let mine := (s.segComps r).any fun w => w.getLsbD (16 + k.val) &&
    oda.any fun e => decide (e.1 = k) && decide (e.2.1 = compAid w) && decide (e.2.2 = groupType g)
  if mine = true ∧ (groupType g).getLsbD 0 = false ∧ blockStatus g 1 ≤ 2 ∧ allE g = false then
    s.segGroup r k (blockWord g 1) (decide (blockStatus g 2 = 3 ∨ blockStatus g 3 = 3))
      (beBytes 2 (blockWord g 2).toNat ++ beBytes 2 (blockWord g 3).toNat)
  else s

/-! ### What groups of stream 0 say (R158, R159) -/

/-- A complete AF list takes the place of the one it stands for: the same method and tuning frequency, else a free place, else the
list updated longest ago (R159). -/
def AfList.place (l : List AfList) (a : AfList) : Nat :=
  match l.findIdx? fun b => decide (b.method = a.method) && decide (b.tuning = a.tuning) with
  | some i => i
  | none =>
    if a.method = 1 then 0
    else if l.length < 4 ∧ l.all (fun b => decide (b.method = 2)) = true then l.length
    else if l.all (fun b => decide (b.method = 2)) then
      let oldest := (l.map fun b => b.stamp.toNat).foldl min (2 ^ 64)
      (l.findIdx? fun b => decide (b.stamp.toNat = oldest)).getD 0
    else 0

/-- Put an element at a place of a list, or at its end. -/
def putAt {α : Type} (l : List α) (i : Nat) (a : α) : List α := if i < l.length then listUpd l i (fun _ => a) else l ++ [a]

/-- Source 36 (R167). -/
def State.afEvent (s : State) (r : Fin 32) (method ix count : Nat) : State :=
  s.raise 36 0 [byte r.val, byte method, byte ix, byte count]

/-- A complete AF list has been received (R159): one that differs from the stored list raises source 36. Method A holds one list. -/
def State.rdsAf (s : State) (r : Fin 32) (a : AfList) : State :=
  let l := s.svc.run[r].fm.rds.af
  let i := AfList.place l a
  let same := match l.find? fun b => decide (b.method = a.method) && decide (b.tuning = a.tuning) with
    | some b => decide (b.entries = a.entries)
    | none => false
  let l := if a.method = 1 then [a] else putAt (l.filter fun b => decide (b.method = 2)) i a
  let s := s.modRds r fun d => { d with af := l }
  if same then s else s.afEvent r a.method.val i a.entries.length

/-- A pair of AF codes of a type 0A group: it joins the list in collection, which may now be complete (R159). -/
def State.afCodes (s : State) (r : Fin 32) (p : Byte × Byte) : State :=
  match afTake s.svc.run[r].fm.rds.afAcc p with
  | none => s
  | some a =>
    if a.done then (s.modRds r fun d => { d with afAcc := none }).rdsAf r (a.list s.sys.timeUs)
    else s.modRds r fun d => { d with afAcc := some a }

/-- TP and TA as two bits. -/
def tpTaBits (tp ta : Bool) : Nat := b01 tp + 2 * b01 ta

/-- Own TP and TA, with source 37 CODE 0 on a change (R167). -/
def State.rdsTpTa (s : State) (r : Fin 32) (tp ta : Bool) : State :=
  let d := s.svc.run[r].fm.rds
  let old := tpTaBits d.tp d.ta
  if old = tpTaBits tp ta then s
  else (s.modRds r fun d => { d with tp := tp, ta := ta }).raise 37 0 [byte r.val, byte (tpTaBits tp ta), byte old]

/-- Where another network is kept: its place, a free one, or that of the network heard longest ago (R159). -/
def EonNet.place (l : List EonNet) (pi : BitVec 16) : Nat :=
  match l.findIdx? fun b => decide (b.pi = pi) with
  | some i => i
  | none =>
    if l.length < 16 then l.length
    else
      let oldest := (l.map fun b => b.heard.toNat).foldl min (2 ^ 64)
      (l.findIdx? fun b => decide (b.heard.toNat = oldest)).getD 0

/-- What is kept of another network so far. -/
def RdsState.net (d : RdsState) (pi : BitVec 16) : EonNet :=
  (d.eon.find? fun b => decide (b.pi = pi)).getD
    { pi := pi, tp := false, ta := false, pty := 0, ps := List.replicate 8 0, af := [], afAcc := none, heard := 0 }

/-- Information on another network (R159): changes of TP or TA and of its AF list raise sources 37 and 36. -/
def State.rdsEon (s : State) (r : Fin 32) (pi : BitVec 16) (g : EonNet → EonNet) : State :=
  let d := s.svc.run[r].fm.rds
  let old := d.net pi
  let new := { g old with heard := s.sys.timeUs }
  let i := EonNet.place d.eon pi
  let s := s.modRds r fun d => { d with eon := putAt d.eon i new }
  let bits := fun e : EonNet => tpTaBits e.tp e.ta
  let s := if bits new ≠ bits old then
      s.raise 37 1 ([byte r.val, byte (bits new), byte (bits old), 0] ++ leBytes 2 pi.toNat)
    else s
  if new.af ≠ old.af then s.afEvent r 1 (0x80 + i) new.af.length else s

/-- A pair of AF codes of another network: variant 4 carries a list with its count code, variants 5 to 9 pairs of a tuning and a mapped
frequency, of which the mapped one is kept (PRESUMED, log 121). -/
def EonNet.codes (e : EonNet) (variant : Nat) (p : Byte × Byte) : EonNet :=
  if variant = 4 then
    match afTake e.afAcc p with
    | none => e
    | some a => if a.done then { e with af := a.freqs.take 16, afAcc := none } else { e with afAcc := some a }
  else
    let f := if variant = 9 then (afLow p.2).toList else (afFm p.2).toList
    { e with af := (e.af ++ f.filter fun x => !e.af.contains x).take 16 }

/-- What a variant of type 14A says of another network (PRESUMED, log 121). -/
def EonNet.variant (e : EonNet) (variant : Nat) (w : BitVec 16) : EonNet :=
  let b := wordBytes w
  if variant ≤ 3 then { e with ps := listUpd (listUpd e.ps (2 * variant) fun _ => b.1) (2 * variant + 1) fun _ => b.2 }
  else if variant ≤ 9 then e.codes variant b
  else if variant = 13 then { e with pty := byte (wordField w 11 5), ta := w.getLsbD 0 }
  else e

/-- PS: a pair of characters is accepted after two consecutive receptions of its segment with status 0 or 1 (R159). -/
def State.rdsPs (s : State) (r : Fin 32) (seg : Fin 4) (status : Nat) (p : Byte × Byte) : State :=
  let ok := decide (status ≤ 1)
  s.modRds r fun d => { d with
    ps := if ok = true ∧ d.psOnce[seg].isSome = true then upd d.ps seg fun _ => some p else d.ps
    psOnce := upd d.psOnce seg fun _ => if ok then some p else none }

/-- An open-data assignment takes the place of the earlier one of its stream and AID (R158). -/
def State.rdsAssign (s : State) (r : Fin 32) (k : Fin 4) (aid : BitVec 16) (type : BitVec 5) : State :=
  s.modRds r fun d => { d with oda := (d.oda.filter fun e => decide (e.1 ≠ k ∨ e.2.1 ≠ aid)) ++ [(k, aid, type)] }

/-- TA, MS and PS of types 0A, 0B and 15B, and the AF codes of type 0A. -/
def State.rdsBasic (s : State) (r : Fin 32) (g : List (BitVec 16 × Nat)) : State :=
  let b := blockWord g 1
  let s := (s.rdsTpTa r (b.getLsbD 10) (b.getLsbD 4)).modRds r fun d => { d with ms := b.getLsbD 3 }
  if groupType g = 31 then s
  else
    let s := s.rdsPs r (Fin.ofNat 4 (wordField b 0 2)) (blockStatus g 3) (wordBytes (blockWord g 3))
    if groupType g = 0 ∧ blockStatus g 2 ≤ 2 then s.afCodes r (wordBytes (blockWord g 2)) else s

/-- What a group of stream 0 says, by its type (R158, R159). -/
def State.rdsRead (s : State) (r : Fin 32) (g : List (BitVec 16 × Nat)) : State :=
  let b := blockWord g 1
  let st := blockStatus g
  if 2 < st 1 ∨ allE g = true then s
  else
    let s := (s.rdsTpTa r (b.getLsbD 10) s.svc.run[r].fm.rds.ta).modRds r fun d => { d with pty := BitVec.ofNat 5 (wordField b 5 5) }
    match (groupType g).toNat with
    | 0 | 1 | 31 => s.rdsBasic r g
    | 6 => if st 3 ≤ 2 then s.rdsAssign r 0 (blockWord g 3) (BitVec.ofNat 5 (wordField b 0 5)) else s
    | 8 =>
      if st 1 ≤ 1 ∧ st 2 ≤ 1 ∧ st 3 ≤ 1 then
        s.modRds r fun d => { d with ct := some ((groupTime g).1, (groupTime g).2, s.sys.timeUs) }
      else s
    | 28 =>
      if st 2 ≤ 2 ∧ st 3 ≤ 2 then
        s.rdsEon r (blockWord g 3) fun e => { e.variant (wordField b 0 4) (blockWord g 2) with tp := b.getLsbD 4 }
      else s
    | 29 => if st 3 ≤ 2 then s.rdsEon r (blockWord g 3) fun e => { e with tp := b.getLsbD 4, ta := b.getLsbD 3 } else s
    | _ => s

/-- AF codes of a type 0A group and EON of a type 14A group on streams 1 to 3, which the Fantail merges with stream 0's (R221). -/
def State.rdsMore (s : State) (r : Fin 32) (k : Fin 4) (g : List (BitVec 16 × Nat)) : State :=
  let b := blockWord g 1
  let now := s.sys.timeUs
  if 2 < blockStatus g 1 ∨ allE g = true ∨ 2 < blockStatus g 2 then s
  else
    match (groupType g).toNat with
    | 0 => s.modRds r fun d =>
      match afTake d.afAccMore[k] (wordBytes (blockWord g 2)) with
      | none => d
      | some a =>
        if a.done then { d with
          afAccMore := upd d.afAccMore k fun _ => none, afMore := putAt d.afMore (AfList.place d.afMore (a.list now)) (a.list now) }
        else { d with afAccMore := upd d.afAccMore k fun _ => some a }
    | 28 =>
      if 2 < blockStatus g 3 then s
      else s.modRds r fun d =>
        let pi := blockWord g 3
        let new := { (RdsState.net { d with eon := d.eonMore } pi).variant (wordField b 0 4) (blockWord g 2) with heard := now }
        { d with eonMore := putAt d.eonMore (EonNet.place d.eonMore pi) new }
    | _ => s

/-! ### Synchronisation and groups (R154, R155, R157) -/

/-- A group is complete (R157, R158): counted, delivered, and read. -/
def State.rdsGroup (s : State) (r : Fin 32) (k : Fin 4) (assign : Option (BitVec 16 × BitVec 5)) : State :=
  let d := s.svc.run[r].fm.rds
  let g := d.group[k]
  let ts := d.start[k]
  let s := (s.modRds r fun d => { d with groups := upd d.groups k (· + 1), group := upd d.group k fun _ => [] }).runCount
    r.val (4 * k.val + 3) 1
  let s := ((s.spreadCarry r).groupDeliver r k g ts).groupSegment r k g
  if k = 0 then s.rdsRead r g
  else (match assign with | some a => s.rdsAssign r k a.1 a.2 | none => s).rdsMore r k g

/-- A block joins the group in progress; the fourth completes it. -/
def State.rdsPlace (s : State) (r : Fin 32) (k : Fin 4) (o : RdsObs) (b : RdsOffset × BitVec 16 × Nat) : State :=
  let d := s.svc.run[r].fm.rds
  let g := d.group[k] ++ [groupBlock b]
  let s := s.modRds r fun d => { d with
    group := upd d.group k fun _ => g, pos := upd d.pos k fun _ => o.pos + 26
    start := upd d.start k fun t => if g.length = 1 then o.ts else t }
  if 4 ≤ g.length then s.rdsGroup r k o.assign else s

/-- The blocks of a group before the one that stands at place `i`, which begins synchronisation `n` blocks after a block `a`: that one where
it belongs to the group, and uncorrectable ones. -/
def groupBefore (i n : Nat) (a : RdsOffset × BitVec 16) : List (BitVec 16 × Nat) :=
  (List.range i).map fun j => if j + n = i then groupBlock (a.1, a.2, 0) else (0, 3)

/-- A zero-syndrome block out of synchronisation: with one seen before at a whole number of blocks it may give synchronisation, with
source 34 CODE 5 (R154). -/
def State.rdsSeen (s : State) (r : Fin 32) (k : Fin 4) (o : RdsObs) (b : RdsOffset × BitVec 16 × Nat) : State :=
  let d := s.svc.run[r].fm.rds
  let fit := fun e : Nat × RdsOffset × BitVec 16 =>
    if (o.pos - e.1) % 26 = 0 ∧ e.1 < o.pos then (inOrder e.2.1 b.1 ((o.pos - e.1) / 26)).map fun i => (i, (o.pos - e.1) / 26, e.2) else none
  match d.seen[k].findSome? fit with
  | none => s.modRds r fun d => { d with seen := upd d.seen k fun l => l ++ [(o.pos, b.1, b.2.1)] }
  | some (i, n, e) =>
    let s := (s.modRds r fun d => { d with
      sync := d.sync ||| BitVec.ofNat 4 (2 ^ k.val), seen := upd d.seen k fun _ => [], hist := upd d.hist k fun _ => []
      group := upd d.group k fun _ => groupBefore i n e
      start := upd d.start k fun _ => o.ts - BitVec.ofNat 64 (bitTime (26 * i)) }).lockEvent r 5 [byte k.val]
    s.rdsPlace r k o b

/-- A block's status is counted (R505). -/
def State.rdsCount (s : State) (r : Fin 32) (k : Fin 4) (status : Nat) : State :=
  s.runCount r.val (4 * k.val + (if status = 0 then 0 else if status = 3 then 2 else 1)) 1

/-- PI of stream 0, from a block of offset A or C' (R156). -/
def State.rdsPiOf (s : State) (r : Fin 32) (k : Fin 4) (b : RdsOffset × BitVec 16 × Nat) : State :=
  if k = 0 ∧ (b.1 = .A ∨ b.1 = .Cp) then s.rdsPi r b.2.1 b.2.2 else s

/-- A block in synchronisation (R154, R155): checked against its place, counted; 20 uncorrectable ones among 25 end synchronisation. -/
def State.rdsInSync (s : State) (r : Fin 32) (k : Fin 4) (o : RdsObs) : State :=
  let f := s.svc.run[r].fm
  let b := checkBlock (f.setting r 4) (expected (f.rbds r) f.rds.group[k]) o.bits
  let bad := decide (b.2.2 = 3)
  let h := (bad :: f.rds.hist[k]).take 25
  let s := (s.rdsCount r k b.2.2).modRds r fun d => { d with
    hist := upd d.hist k fun _ => h, bler := upd d.bler k fun l => (bad :: l).take 100 }
  let s := s.rdsPiOf r k b
  if s.svc.run[r].fm.rds.sync.getLsbD k.val = false then s
  else if 20 ≤ (h.filter id).length then s.loseRdsSync r (BitVec.ofNat 4 (2 ^ k.val))
  else s.rdsPlace r k o b

/-- A block of an enabled stream (R154 to R157). In synchronisation only 26 bits at a block's place are a block; out of it only those of
zero syndrome are, and nothing is corrected. -/
def State.rdsBlock (s : State) (r : Fin 32) (k : Fin 4) (o : RdsObs) : State :=
  let f := s.svc.run[r].fm
  if f.rds.sync.getLsbD k.val then (if o.pos = f.rds.pos[k] then s.rdsInSync r k o else s)
  else
    match zeroOffset (f.rbds r) o.bits with
    | none => s
    | some off =>
      let b := (off, infoOf o.bits, 0)
      let n := s.svc.run[r].fm.probes.length
      let s := (s.rdsCount r k 0).rdsPiOf r k b
      if s.svc.run[r].fm.probes.length ≠ n then s else s.rdsSeen r k o b

/-- What the carrier of an RDS stream is recovered from (R153). -/
inductive RdsCarrier where
  | pilot | ownLoop
  deriving DecidableEq, Repr

/-- Stream 0's carrier is three times the pilot phase while the pilot is present; every other carrier has its own loop (R153). -/
def FmState.carrierOf (f : FmState) (k : Fin 4) : RdsCarrier := if k = 0 ∧ f.pilot = true then .pilot else .ownLoop

/-- RDS_BLOCK (R154). The bits are numbered from the first one of the stream after it was enabled or its window released output: the
first 20 ms of its baseband are kept, so none is lost (R153). -/
def execRdsBlock (r : Fin 32) (stream : Fin 4) (o : RdsObs) (s : State) : Host.Outcome State Fault Refusal :=
  .next (if isFm r ∧ s.svc.run[r].active = true ∧ s.svc.run[r].fm.streamOn r stream = true then s.rdsBlock r stream o else s)

/-- PI_WITHDRAWN (R156): a provisional PI that nothing has confirmed. -/
def execPiWithdrawn (r : Fin 32) (s : State) : Host.Outcome State Fault Refusal :=
  .next (match s.svc.run[r].fm.rds.pi, s.svc.run[r].fm.rds.prov with
    | none, some p => (s.modFm r fun f => { f with rds := { f.rds with prov := none } }).piEvent r 3 p 0
    | _, _ => s)

end Sys2Proof.Machine
end

