-- ==== Sys2Proof/Machine/Dab.lean ====
section
/-!
DEFINITION. Meanings of the DAB commands and of the events of the DAB runners (06_dab.md): frames and lock, the database image, soft values
and de-interleaving, CIFs, multiplex reconfiguration, MOT time-outs.
-/

namespace Sys2Proof.Machine

/-! ### Commands (R193, R194) -/

/-- DAB settings as bytes 25 to 28 of SVC_DAB_CFG. -/
def DabState.settings (d : DabState) : List Byte := [byte (b01 d.full), byte d.conceal, byte d.ficTimeout, byte d.motTimeout]

/-- Ranges of R193. -/
def dabRanges : List (Nat × Nat) := [(0, 1), (0, 8), (10, 100), (10, 255)]

/-- SVC_DAB_CFG: the settings wait for the next CIF. -/
def bodySvcDabCfg (c : CmdEntry) (s : State) : Answer :=
  let r : Fin 32 := Fin.ofNat 32 (c.u8 24)
  let old := s.svc.run[r].dab.next.getD s.svc.run[r].dab.settings
  let l := (List.range 4).map fun i => if c.u8 (25 + i) = 0xFF then old.getD i 0 else byte (c.u8 (25 + i))
  checked ((!within 24 27 (c.u8 24), .range, 24) :: settingRange c dabRanges ++ rsvdBytes c 29 31) fun _ =>
    .done (s.modDab r fun d => { d with next := some l })

/-- SVC_DAB_CFG (R193). -/
def execSvcDabCfg (c : CmdEntry) (s : State) : Host.Outcome State Fault Refusal := .next (s.runCmd 0x0320 c (bodySvcDabCfg c))

/-- A subchannel record (R194). -/
def DabState.subRecord (d : DabState) (i : Nat) : List Byte :=
  match d.org.subs.find? fun b => decide (b.id.val = i) with
  | none => List.replicate 16 0
  | some b =>
    let ber := match d.ber.find? fun e => decide (e.1 = b.id) with | some e => e.2 | none => 0xFF
    let transport := match d.org.parts.find? fun k => decide (k.subch.toNat = i) with
      | some k => if k.tmid = 3 then 2 else if k.tmid = 0 then 0 else 1
      | none => 0
    [byte (1 + 2 * b01 b.longForm + 4 * b01 (d.fec.contains b.id)), b.tableIx, b.prot, byte transport] ++ leBytes 2 b.startCu ++
      leBytes 2 b.sizeCu ++ leBytes 2 b.kbps ++ [ber, 0, 0, 0, 0, 0]

/-- A component record. -/
def DabState.compRecord (d : DabState) (h : Nat) : List Byte :=
  match d.byHandle h with
  | none => List.replicate 32 0
  | some k =>
    let key := (k.sid, k.scids)
    let label := (d.compLabels.find? fun e => decide (e.1 = key)).map Prod.snd
    let app := match d.uapps.find? fun e => decide (e.1 = key) with | some e => e.2.toNat | none => 0
    [byte (1 + 2 * b01 k.primary + 4 * b01 label.isSome + 8 * b01 k.ca), k.tmid, k.ascty, k.subch] ++ leBytes 2 k.scid.toNat ++
      leBytes 2 k.paddr.toNat ++ leBytes 4 k.sid.toNat ++ [k.scids] ++ leBytes 2 app ++
      (match label with | some l => l.2 :: padTo 16 l.1 | none => List.replicate 17 0)

/-- A service record. -/
def DabState.serviceRecord (d : DabState) (i : Nat) : List Byte :=
  match d.sids[i]? with
  | none => List.replicate 32 0
  | some sid =>
    let mine := (d.org.services.filter fun v => decide (v.1 = sid)).flatMap Prod.snd
    let label := (d.labels.find? fun e => decide (e.1 = sid)).map Prod.snd
    let pty := match d.ptys.find? fun e => decide (e.1 = sid) with | some e => e.2 | none => 0
    let ann := match d.announce.find? fun e => decide (e.1 = sid) with | some e => e.2.toNat | none => 0
    let flags := 1 + 2 * b01 (decide (65536 ≤ sid.toNat)) + 4 * b01 label.isSome + 8 * b01 (mine.any fun p => p.ca)
    leBytes 4 sid.toNat ++ [byte flags, pty, byte mine.length] ++
      (match label with | some (_, cs, _) => [cs] | none => [0]) ++
      padTo 16 ((label.map Prod.fst).getD []) ++ leBytes 2 ((label.map fun l => l.2.2.toNat).getD 0) ++ leBytes 2 ann ++ [0, 0, 0, 0]

/-- The image of SVC_DAB_DB (R194). -/
def DabState.image (d : DabState) : List Byte :=
  let flags := b01 d.complete + 2 * b01 d.reconf.isSome + 4 * b01 d.utc.isSome + 8 * b01 d.overflow
  leBytes 2 (d.eid.getD 0).toNat ++ [byte flags, d.ecc] ++ padTo 16 (d.label.getD []) ++ [d.charset, d.lto] ++ leBytes 2 d.cifCount.toNat ++
  (match d.utc with | some (t, ms) => leBytes 4 t.toNat ++ leBytes 2 ms.toNat | none => List.replicate 6 0) ++
  [byte d.org.subs.length, byte d.comps.length, byte (min 128 d.sids.length)] ++ List.replicate 31 0 ++
  (List.range 64).flatMap d.subRecord ++ (List.range 256).flatMap d.compRecord ++ (List.range 128).flatMap d.serviceRecord

/-- SVC_DAB_DB. -/
def bodySvcDabDb (c : CmdEntry) (s : State) : Answer :=
  let r : Fin 32 := Fin.ofNat 32 (c.u8 24)
  let d := s.svc.run[r].dab
  checked ((!within 24 27 (c.u8 24), .range, 24) :: rsvdBytes c 25 27 ++
      [s.noWindow r, (decide (d.eid.isNone ∨ d.lockedEid ≠ d.eid), .state, 0)]) fun _ =>
    .ok s [] (some d.image)

/-- SVC_DAB_DB (R194). -/
def execSvcDabDb (c : CmdEntry) (s : State) : Host.Outcome State Fault Refusal := .next (s.runCmd 0x0321 c (bodySvcDabDb c))

/-! ### Frames (R168 to R173, R192) -/

/-- DAB_FRAME_TIMING (R168, R171 step 2): source 34 CODE 8; the de-interleaver starts with the first CIF of that frame. -/
def execDabFrameTiming (r : Fin 32) (s : State) : Host.Outcome State Fault Refusal :=
  .next (if isDab r ∧ s.svc.run[r].active = true ∧ s.svc.run[r].dab.timing = false then
    (s.modDab r fun d => { d with
      timing := true, stored := 0, ring := [], prsOkRun := 0, prsBadRun := 0, fibSeen := false, noFibRun := 0 }).lockEvent r 8 []
  else s)

/-- A FIB passes its CRC. -/
def fibOk (b : List Byte) : Bool := decide (b.length = 32) && crc16Ok b

/-- What a frame's PRS and FIBs leave (R169, R172, R192). -/
def DabState.frame (d : DabState) (o : DabFrameObs) : DabState :=
  let h := (List.range 12).map fun i => fibOk (o.fibs.getD i [])
  let any := h.any id
  { d with
    prsOkRun := if o.prsOk then d.prsOkRun + 1 else 0, prsBadRun := if o.prsOk then 0 else d.prsBadRun + 1
    fibSeen := d.fibSeen || any, noFibRun := if any then 0 else d.noFibRun + 1
    fibHist := (h ++ d.fibHist).take 120, nulls := (o.nulls :: d.nulls).take 8, lastFrame := some o.ts
    ticks := (⟨o.powers, o.snr, o.ficBer, o.echo, o.offset, o.spread, o.legSnr⟩ :: d.ticks).take 4
    contrib := d.contribNow, contribNow := 0 }

/-- Lock is gained (R169). -/
def State.dabLock (s : State) (r : Fin 32) : State :=
  let d := s.svc.run[r].dab
  if s.svc.run[r].lock = false ∧ 2 ≤ d.prsOkRun ∧ d.fibSeen = true then
    let s := s.modRun r fun u => { u with lock := true, dab := { u.dab with lockedEid := u.dab.eid, timeoutRaised := false } }
    (s.runCount r.val 16 1).lockEvent r 0 []
  else s

/-- Lock, or frame timing before lock, is lost (R169); with lock every context moves to ACQUIRING with reason 1. -/
def State.dabLoss (s : State) (r : Fin 32) : State :=
  let u := s.svc.run[r]
  if u.lock ∧ (3 ≤ u.dab.prsBadRun ∨ 10 ≤ u.dab.noFibRun) then (s.restart r).ctxsToAcquiring r 1
  else if u.lock = false ∧ 3 ≤ u.dab.prsBadRun then
    (s.loseTiming r).modDab r fun d => { d with prsOkRun := 0, prsBadRun := 0, fibSeen := false, noFibRun := 0, stored := 0, ring := [] }
  else s

/-- The database becomes complete, once lock holds (R176), or a complete one has changed. -/
def State.dabComplete (s : State) (r : Fin 32) (changed : Bool) : State :=
  let u := s.svc.run[r]
  if u.lock = false then s
  else
    let s := s.modDab r fun d => { d with lockedEid := d.eid.orElse fun _ => d.lockedEid }
    if u.dab.complete = false ∧ u.dab.described = true then (s.modDab r fun d => { d with complete := true }).ficEvent r 0
    else if u.dab.complete = true ∧ changed = true ∧ u.dab.reconf.isNone = true then s.raiseLimited 38 r.val 1 u.dab.ficAux 1
    else s

/-- DAB contexts whose component shows the wrong type (R184). -/
def State.dabMismatches (s : State) (r : Fin 32) : State :=
  let d := s.svc.run[r].dab
  s.reportMismatch r fun x => match d.component x with | some k => !dabFits x k | none => false

/-- A FIB of a frame goes to an FIC context, or counts as lost for it (R188, R191). -/
def State.fibOut (s : State) (r : Fin 32) (c : Fin 256) (i : Nat) (b : List Byte) (ts : D) : State :=
  if fibOk b = true ∧ s.takesUnit r c = true then s.giveUnit r c b (BitVec.ofNat 32 i) ts none else s.unitFailed c

/-- The FIC contexts of a runner. -/
def State.ficCtxs (s : State) (r : Fin 32) : List (Fin 256) :=
  (s.ctxsOf r).filter fun c => decide (s.svc.ctx[c].kind = 1) && decide (compAddr s.svc.ctx[c].component = 2)

/-- The FIBs of a frame, 12 for each frame before it that never came lost (R188, R191). A FIB lies in no CIF: its TIMESTAMP is the instant
at which the first FIC symbol of its frame began, 5,208 samples after the null symbol (DESIGN CHOICE, log 127). -/
def State.fibsOut (s : State) (r : Fin 32) (o : DabFrameObs) (missed : Nat) : State :=
  let ts := o.ts + BitVec.ofNat 64 (360 * 5208)
  (s.ficCtxs r).foldl (fun s c =>
    let s := if s.svc.ctx[c].hasOutput then s.loseUnits c (12 * missed) else s
    (List.range 12).foldl (fun s i => s.fibOut r c i (o.fibs.getD i []) ts) s) s

/-- RUNNING contexts whose component the database no longer has move to ACQUIRING with reason 3 (R21). -/
def State.dropLost (s : State) (r : Fin 32) : State :=
  (s.ctxsOf r).foldl (fun s c =>
    let x := s.svc.ctx[c]
    if x.st = .running ∧ compAddr x.component ≠ 2 ∧ (s.svc.run[r].dab.component x).isNone = true then s.moveCtx c .acquiring 3 else s) s

/-- DAB_FRAME_END (R169, R172, R174, R176, R184, R188, R192). -/
def execDabFrameEnd (r : Fin 32) (o : DabFrameObs) (s : State) : Host.Outcome State Fault Refusal :=
  .next (if isDab r ∧ s.svc.run[r].active = true ∧ s.svc.run[r].dab.timing = true then
    let n := (List.range 12).countP fun i => fibOk (o.fibs.getD i [])
    let missed := framesMissed s.svc.run[r].dab.lastFrame o.ts 70778880
    let s := ((s.runCount r.val 0 n).runCount r.val 1 (12 - n)).runCount r.val 3 (b01 (!o.prsOk))
    let s := s.modDab r fun d => d.frame o
    let old := s.svc.run[r].dab
    let s := (s.figs r ((o.fibs.take 12).filter fibOk |>.flatMap fun b => figsOf 30 (b.take 30))).dropLost r
    let changed := decide (s.svc.run[r].dab.content ≠ old.content)
    let s := (s.dabLock r).dabLoss r
    let s := ((s.dabComplete r changed).dabMismatches r).fibsOut r o missed
    s.startReady r fun x => decide (x.kind = 5)
  else s)

/-- DAB_FIC_TIMEOUT (R176): CODE 3 once, and collection goes on. -/
def execDabFicTimeout (r : Fin 32) (s : State) : Host.Outcome State Fault Refusal :=
  let u := s.svc.run[r]
  .next (if isDab r ∧ u.lock = true ∧ u.dab.complete = false ∧ u.dab.timeoutRaised = false then
    (s.modDab r fun d => { d with timeoutRaised := true }).ficEvent r 3
  else s)

/-- A service without the component of a pair of SId and SCIdS. -/
def DabOrg.without (o : DabOrg) (k : DabComp) : DabOrg :=
  let mine := fun p : DabPart => if k.tmid = 3 then p.tmid = 3 ∧ p.id = k.scid.toNat else p.tmid = k.tmid ∧ p.id = k.subch.toNat
  let cut := fun v : W × List DabPart => if v.1 = k.sid then (v.1, v.2.filter fun p => !decide (mine p)) else v
  { o with services := (o.services.map cut).filter fun v => !v.2.isEmpty }

/-- DAB_HANDLE_EXPIRY (R175, R21): a component absent from the FIC for 30 s loses its handle, and RUNNING contexts on it move to
ACQUIRING. -/
def execDabHandleExpiry (r : Fin 32) (h : Byte) (s : State) : Host.Outcome State Fault Refusal :=
  .next (if isDab r then
    (s.modDab r fun d => { d with
      org := match d.byHandle h.toNat with | some k => d.org.without k | none => d.org
      comps := d.comps.filter fun e => decide (e.1 ≠ h), kept := d.kept.filter fun e => decide (e.1 ≠ h) }).dropLost r
  else s)

/-! ### Multiplex reconfiguration (R180, R181) -/

/-- What becomes of a subchannel. -/
inductive SubFate where
  | same | changed | removed
  deriving DecidableEq, Repr

/-- The fate of a current subchannel under the next organisation: without an entry of its own it is removed, unless the next
components still use it, whose organisation then arrives afterwards. -/
def subFate (next : List DabSub) (comps : List DabComp) (b : DabSub) : SubFate :=
  match next.find? fun n => decide (n.id = b.id) with
  | some n =>
    if n.sizeCu = b.sizeCu ∧ n.prot = b.prot ∧ n.longForm = b.longForm ∧ n.tableIx = b.tableIx then .same else .changed
  | none => if comps.any fun k => decide (k.subch.toNat = b.id.val) then .changed else .removed

/-- The fate of a context: by handle it follows its component, and a move counts as changed (R181). -/
def ctxFate (d : DabState) (next : List DabSub) (comps : List DabComp) (x : Ctx) : SubFate :=
  let fate := fun k : Option (Fin 64) => match k with
    | none => SubFate.same
    | some k => match d.org.subs.find? fun b => decide (b.id = k) with
      | some b => subFate next comps b
      | none => .same
  if compAddr x.component = 2 then .same
  else if compAddr x.component = 0 then fate (d.subOf x)
  else
    match d.component x with
    | none => .same
    | some k =>
      match comps.find? fun n => decide (n.sid = k.sid) && decide (n.scids = k.scids) with
      | some n => if n.subch = k.subch then fate (d.subOf x) else .changed
      | none => if comps.isEmpty then fate (d.subOf x) else .removed

/-- One context at the change: DISC with the units of 15 CIFs, whose frames are not delivered, or ACQUIRING with reason 3. -/
def State.reconfCtx (s : State) (c : Fin 256) (f : SubFate) : State :=
  let x := s.svc.ctx[c]
  match f with
  | .same => s
  | .changed =>
    let k := s.freeCnt
    let s := ({ s with freeCnt := k + 1 }).modCtx c fun x => { x with skip := 15, group := none }
    if x.hasOutput then s.loseUnits c (15 * unitsPer true 24 x k) else s
  | .removed => if x.st = .running then s.moveCtx c .acquiring 3 else s

/-- The database after the change: the next organisation, subchannels whose own arrives afterwards kept. -/
def DabState.applyNext (d : DabState) : DabState :=
  let next := d.nextOrg
  let kept := d.org.subs.filter fun b => decide (subFate next.subs next.parts b ≠ .removed) && next.subs.all fun n => decide (n.id ≠ b.id)
  let org : DabOrg :=
    { subs := next.subs ++ kept, services := if next.services.isEmpty then d.org.services else next.services
      packets := next.packets.foldl (fun l q => putKey l (fun x => x.scid) q) d.org.packets
      links := next.links.foldl (fun l q => putKey l (fun x => (x.1, x.2.1)) q) d.org.links }
  ({ d with org := org, nextOrg := {}, reconf := none } : DabState).record

/-- Superframe synchronisation of subchannels that no context needs any more ends (R179). -/
def State.keepSuper (s : State) (r : Fin 32) : State :=
  let d := s.svc.run[r].dab
  let needed := fun k : Fin 64 => (s.ctxsOf r).any fun c => s.svc.ctx[c].needsSuper && decide (d.subOf s.svc.ctx[c] = some k)
  s.modDab r fun d => { d with superSync := d.superSync.filter fun e => needed e.1 }

/-- The signalled CIF has come or passed. -/
def cifReached (now change : BitVec 16) : Bool := decide ((now.toNat + 5000 - change.toNat) % 5000 < 2500)

/-- The change is carried out, or did not occur where no next organisation came (R180, R181). -/
def State.reconfigure (s : State) (r : Fin 32) (cif : BitVec 16) : State :=
  let d := s.svc.run[r].dab
  match d.reconf with
  | none => s
  | some at_ =>
    if cifReached cif at_ then
      let next := d.nextOrg.subs
      let comps := d.nextOrg.parts
      if next.isEmpty then (s.modDab r fun d => { d with reconf := none, nextOrg := {} }).reconfEvent r 2 at_ 0
      else
        let n := (d.org.subs.filter fun b => decide (subFate next comps b ≠ .same)).length
        let s := (s.ctxsOf r).foldl (fun s c => s.reconfCtx c (ctxFate d next comps s.svc.ctx[c])) s
        (((s.modDab r DabState.applyNext).keepSuper r).runCount r.val 4 1).reconfEvent r 1 at_ n
    else s

/-! ### Soft values and de-interleaving (R172, R173, R177) -/

/-- A leg's part in a cell: its carrier in symbols l and l - 1, and the sum of its noise powers over the frames held. -/
structure LegCell where
  /-- Carrier in symbol l. -/
  now : IQ
  /-- Carrier in symbol l - 1. -/
  prev : IQ
  /-- Sum of the null-symbol powers. -/
  noise : Nat

/-- q4 of a / sqrt(b): rounded to the nearest whole number, half-way values away from 0 (log 105), and saturated at 7; 0 where b is 0. -/
def quant4 (a : Int) (b : Nat) : Int :=
  let n := (List.range 7).countP fun k => decide (b ≠ 0) && decide ((2 * k + 1) * (2 * k + 1) * b ≤ 4 * a.natAbs * a.natAbs)
  if a < 0 then -(n : Int) else n

/-- The soft values of a cell whose noise powers are means over `frames` frames (R172): with the legs' noise brought to one denominator,
soft_i = (re d + im d) · r / (√2 · q · |d|), and soft_q has im d - re d. -/
def cellSoft (frames : Nat) (legs : List LegCell) : Int × Int :=
  let q := (legs.map LegCell.noise).prod
  let part := fun e : LegCell => q / e.noise * frames
  let d := csum (legs.map fun e => cscale (part e) (cmul e.now (cconj e.prev)))
  let r := (legs.map fun e => part e * mag2 e.prev).sum
  let b := 2 * q * q * mag2 d
  (quant4 ((d.1 + d.2) * r) b, quant4 ((d.2 - d.1) * r) b)

/-- The leg at a position is marked in no block that holds one of the samples `lo` to `hi` (R173, R201). -/
def Runner.unmarked (u : Runner) (lo hi : Nat) (p : Fin 4) : Bool :=
  u.marks.all fun m => !(decide (lo / 64 ≤ m.1) && decide (m.1 ≤ hi / 64) && m.2.testBit p.val)

/-- The legs that contribute to symbol `l` of a CIF, 1 to 18, whose symbol 0, the one before it, begins at sample `first` (R173). -/
def Runner.symbolLegs (u : Runner) (legs : List (Fin 4)) (first l : Nat) : List (Fin 4) :=
  legs.filter (u.unmarked (first + 2552 * (l - 1)) (first + 2552 * (l + 1) - 1))

/-- A carrier of a symbol at a position. -/
def carrierOf (cells : List (List (List IQ))) (p : Fin 4) (l k : Nat) : IQ := ((cells.getD p.val []).getD l []).getD k (0, 0)

/-- The sum of a leg's noise powers on a carrier over the frames held; a leg whose null symbols show none has a power that the spec does not
state. -/
def DabState.noise (d : DabState) (p : Fin 4) (k : Nat) : Nat :=
  let n := (d.nulls.map fun f => (f.getD p.val []).getD k 0).sum
  if n = 0 then Config.quietNoise k + 1 else n

/-- The soft values of a symbol: those of I of every carrier, then those of Q (R172). -/
def Runner.symbolSoft (u : Runner) (legs : List (Fin 4)) (o : DabCifObs) (l : Nat) : List Int :=
  let on := u.symbolLegs legs o.first l
  let n := (o.cells.map fun p => (p.getD l []).length).foldl max 0
  let v := (List.range n).map fun k => cellSoft u.dab.nulls.length
    (on.map fun p => ⟨carrierOf o.cells p l k, carrierOf o.cells p (l - 1) k, u.dab.noise p k⟩)
  v.map Prod.fst ++ v.map Prod.snd

/-- The record of a CIF in the ring, and the positions that contributed to it. -/
def Runner.cifRec (u : Runner) (legs : List (Fin 4)) (o : DabCifObs) : CifRec × Nat :=
  let on := (List.range 18).map fun l => u.symbolLegs legs o.first (l + 1)
  ({ ts := o.ts, subs := u.dab.org.subs, soft := (List.range 18).flatMap fun l => u.symbolSoft legs o (l + 1)
     erased := (List.range 18).filter fun l => (on.getD l []).isEmpty }
  , (legs.filter fun p => on.any fun m => m.contains p).foldl (fun m p => m + 2 ^ p.val) 0)

/-- Delay of a bit in CIFs by its index modulo 16 (EN 300 401; PRESUMED, log 126). -/
def ilDelay (i : Nat) : Nat := [0, 8, 4, 12, 2, 10, 6, 14, 1, 9, 5, 13, 3, 11, 7, 15].getD (i % 16) 0

/-- Soft value `i` of the logical frame that the ring completes, of a subchannel that starts where each CIF's organisation says. -/
def softAt (ring : List CifRec) (b : DabSub) (i : Nat) : Int :=
  match ring[15 - ilDelay i]? with
  | none => 0
  | some e =>
    let start := match e.subs.find? fun q => decide (q.id = b.id) with | some q => q.startCu | none => b.startCu
    e.soft.getD (64 * start + i) 0

/-- The de-interleaved soft values of a subchannel. -/
def softFrame (ring : List CifRec) (b : DabSub) : List Int := (List.range (64 * b.sizeCu)).map (softAt ring b)

/-- The logical frame of a subchannel: 3 bytes for each kbit/s (R178). -/
def logicalFrame (ring : List CifRec) (b : DabSub) : List Byte :=
  (List.range (3 * b.kbps)).map (Config.dabByte b.longForm b.tableIx.toNat b.prot.toNat b.sizeCu (softFrame ring b))

/-- The subchannels whose logical frame the ring completes, in the organisation in which it was sent: size and protection have been the
same in all of its 16 CIFs (R180). -/
def wholeSubs (ring : List CifRec) : List DabSub :=
  match ring[15]? with
  | none => []
  | some e => e.subs.filter fun b => ring.all fun q => q.subs.any fun n =>
      decide (n.id = b.id) && decide (n.sizeCu = b.sizeCu) && decide (n.prot = b.prot) && n.longForm == b.longForm &&
        decide (n.tableIx = b.tableIx)

/-- Some cell of a subchannel lies in an erased symbol of a CIF (R190). -/
def CifRec.spans (e : CifRec) (k : Option (Fin 64)) : Bool :=
  e.subs.any fun b => decide (some b.id = k) &&
    e.erased.any fun l => decide (64 * b.startCu < 3072 * (l + 1)) && decide (3072 * l < 64 * (b.startCu + b.sizeCu))

/-! ### CIFs (R177, R178, R186 to R191) -/

/-- Settings that wait take effect at a CIF (R193). -/
def DabState.adopt (d : DabState) : DabState :=
  match d.next with
  | none => d
  | some l =>
    { d with full := decide (l.getD 0 0 ≠ 0), conceal := (l.getD 1 0).toNat, ficTimeout := (l.getD 2 0).toNat
             motTimeout := (l.getD 3 0).toNat, next := none }

/-- Subchannels with an open context. -/
def State.openSubs (s : State) (r : Fin 32) : List (Fin 64) := (s.ctxsOf r).filterMap fun c => s.svc.run[r].dab.subOf s.svc.ctx[c]

/-- A CIF is stored, with its count and its timestamp (R177). -/
def Runner.storeCif (u : Runner) (legs : List (Fin 4)) (o : DabCifObs) : Runner :=
  let e := u.cifRec legs o
  { u with carry := 0, dab := { u.dab with
    stored := min 16 (u.dab.stored + 1), cifCount := o.cif, lastTs := some o.ts, ring := (e.1 :: u.dab.ring).take 16
    stamps := (o.ts :: u.dab.stamps).take 64, contribNow := u.dab.contribNow ||| e.2 } }

/-- The decoded subchannels of the CIF: every one with FULL, else those with an open context (R178). -/
def State.decodedSubs (s : State) (r : Fin 32) : List DabSub :=
  let d := s.svc.run[r].dab
  (wholeSubs d.ring).filter fun b => d.full || (s.openSubs r).contains b.id

/-- The bytes of a decoded subchannel; packets with FEC scheme 1 pass the outer code first (R179). -/
def DabState.frameBytes (d : DabState) (b : DabSub) : List Byte × List Byte :=
  let raw := logicalFrame d.ring b
  if d.fec.contains b.id then
    let x := Config.packetFec (((d.outer.find? fun e => decide (e.1 = b.id)).map Prod.snd).getD []) raw
    (x.2, x.1)
  else (raw, [])

/-- Error ratios and what the outer codes hold, after the decoding of a CIF. -/
def DabState.decoded (d : DabState) (l : List DabSub) : DabState :=
  { d with
    ber := l.map fun b => (b.id, Config.dabBer b.longForm b.tableIx.toNat b.prot.toNat b.sizeCu (softFrame d.ring b))
    outer := l.filterMap fun b => if d.fec.contains b.id then some (b.id, (d.frameBytes b).2) else none }

/-- One bit of the fire code x^16 + x^14 + x^13 + x^12 + x^11 + x^5 + x^3 + x^2 + x + 1 of TS 102 563 (PRESUMED, log 126). -/
def fireBit (c : BitVec 16) (b : Bool) : BitVec 16 :=
  let n := c <<< 1
  if c.getLsbD 15 != b then n ^^^ 0x782F else n

/-- The fire code of a superframe's first logical frame passes: bytes 0 and 1 check bytes 2 to 10. -/
def fireOk (b : List Byte) : Bool :=
  let c := (slice b 2 9).foldl (fun c x => (List.range 8).foldl (fun c i => fireBit c (x.getLsbD (7 - i))) c) (0 : BitVec 16)
  decide (11 ≤ b.length) && decide (c.toNat = beNat (slice b 0 2)) && decide (c ≠ 0)

/-- Superframe synchronisation of a subchannel at a logical frame (R186): gained at the first whose fire code passes, while an audio or PAD
context needs it; then every fifth begins a superframe, and three failures in succession lose it. -/
def State.superFrame (s : State) (r : Fin 32) (sub : Fin 64) (ok : Bool) : State :=
  let d := s.svc.run[r].dab
  let needed := (s.ctxsOf r).any fun c => s.svc.ctx[c].needsSuper && decide (d.subOf s.svc.ctx[c] = some sub)
  let set := fun (n ph : Nat) => s.modDab r fun d => { d with superSync := d.superSync.map fun e => if e.1 = sub then (sub, n, ph) else e }
  match (d.superSync.find? fun e => decide (e.1 = sub)).map Prod.snd with
  | none =>
    if ok ∧ needed = true then (s.modDab r fun d => { d with superSync := d.superSync ++ [(sub, 0, 1)] }).lockEvent r 10 [byte sub.val]
    else s
  | some (n, ph) =>
    if ph < 5 then set n (ph + 1)
    else if ok then set 0 1
    else if 2 ≤ n then s.loseSuper r sub
    else set (n + 1) 1

/-- What a logical frame gives a context (R184, R188): the frame itself, its packets, or data groups from PAD. `bytes` holds the decoded
subchannels. -/
def State.ctxFrame (s : State) (r : Fin 32) (c : Fin 256) (bytes : List (Fin 64 × List Byte)) (pad : List (Fin 64 × List Byte)) (ts : D) :
    State :=
  let x := s.svc.ctx[c]
  let d := s.svc.run[r].dab
  let sub := d.subOf x
  let mine := bytes.find? fun e => decide (some e.1 = sub)
  match x.kind.toNat, mine with
  | 1, some e => s.giveUnit r c e.2 (BitVec.ofNat 32 e.1.val) ts none
  | 2, some e =>
    if compAddr x.component = 3 then
      (pad.filter fun g => decide (some g.1 = sub)).foldl (fun s g => s.dataGroup r c 0xFFFFFFFF g.2 ts) s
    else
      let a := match d.component x with | some k => k.paddr.toNat | none => compPaddr x.component
      ((dabPackets e.2.length e.2).filter fun p => decide (p.addr = a)).foldl (fun s p => s.packetIn r c 4 (BitVec.ofNat 32 a) ts p) s
  | _, _ => s

/-- The contexts of a runner at a completed logical frame: one that still skips frames skips this one; one that cannot take output, and has
given some before, has lost its units (R180, R191). -/
def State.ctxFrames (s : State) (r : Fin 32) (bytes pad : List (Fin 64 × List Byte)) (ts : D) : State :=
  (s.ctxsOf r).foldl (fun s c =>
    let x := s.svc.ctx[c]
    if x.skip ≠ 0 then s.modCtx c fun x => { x with skip := x.skip - 1 }
    else if s.takesUnit r c then s.ctxFrame r c bytes pad ts
    else
      let k := s.freeCnt
      let s := { s with freeCnt := k + 1 }
      if x.hasOutput then s.loseUnits c (unitsPer true 24 x k) else s) s

/-- The logical frame that the ring completes is decoded and delivered (R177, R178, R184 to R189). -/
def State.logical (s : State) (r : Fin 32) (pad : List (Fin 64 × List Byte)) : State :=
  let d := s.svc.run[r].dab
  let l := s.decodedSubs r
  let bytes := l.map fun b => (b.id, (d.frameBytes b).1)
  let s := s.modDab r fun d => d.decoded l
  let s := bytes.foldl (fun s e => s.superFrame r e.1 (fireOk e.2)) s
  (s.ctxFrames r bytes pad (d.stamps.getD 15 0)).startReady r fun x => decide (x.kind = 5)

/-- DAB_CIF: what never came is lost (R191), the reconfiguration takes place at its CIF (R180), the CIF is stored, erased cells mark the
contexts whose subchannel spans them (R190), and the logical frame that the 16th stored CIF completes gives its units. -/
def execDabCif (r : Fin 32) (o : DabCifObs) (s : State) : Host.Outcome State Fault Refusal :=
  .next (if isDab r ∧ s.svc.run[r].active = true ∧ s.svc.run[r].dab.timing = true then
    let s := s.modDab r DabState.adopt
    let s := s.lostFrames r 24 (framesMissed s.svc.run[r].dab.lastTs o.ts 17694720)
    let s := (s.reconfigure r o.cif).runCount r.val 2 1
    let s := s.modRun r fun u => u.storeCif (s.legsOf r) o
    let d := s.svc.run[r].dab
    let s := s.erasedFrame r 24 fun x => (d.ring.head?.map fun e => e.spans (d.subOf x)).getD false
    if d.stored < 16 ∨ s.svc.run[r].lock = false then s.lostFrames r 24 1 else s.logical r o.pad
  else s)

/-- MOT_TIMEOUT (R189): an object that is still incomplete is discarded with CODE 1. -/
def execMotTimeout (ctx : Fin 256) (tid : BitVec 16) (s : State) : Host.Outcome State Fault Refusal :=
  .next (match s.svc.ctx[ctx].mot.find? fun o => decide (o.tid = tid) with
    | none => s
    | some o => s.motDrop ctx 1 tid (o.size s.svc.ctx[ctx].motDir))

end Sys2Proof.Machine
end

