-- ==== Sys2Proof/Machine/Drm.lean ====
section
/-!
DEFINITION. Meanings of the DRM commands and of the events of the DRM runners (07_drm.md): mode and frame timing, FAC, SDC, lock,
reconfiguration and decoded frames.
-/

namespace Sys2Proof.Machine

/-! ### Commands (R214, R215) -/

/-- DRM settings as bytes 25 to 27 of SVC_DRM_CFG. -/
def DrmState.settings (d : DrmState) : List Byte := [d.modes.setWidth 8, byte d.conceal, byte d.motTimeout]

/-- Ranges of R214. -/
def drmRanges : List (Nat × Nat) := [(1, 15), (0, 8), (10, 255)]

/-- The window that feeds a runner has the DRM+ preset. -/
def State.drmPlus (s : State) (r : Fin 32) : Bool :=
  match s.windowOf r with | some w => decide (s.win.win[w].preset = 4) | none => false

/-- MODES leaves out the mode being received on a DRM30 window. -/
def State.modeExcluded (s : State) (r : Fin 32) (modes : Nat) : Bool :=
  match s.svc.run[r].drm.mode with
  | none => false
  | some m => !s.drmPlus r && decide (m.val < 4) && decide (modes / 2 ^ m.val % 2 = 0)

/-- SVC_DRM_CFG: the settings wait for the next frame; a MODES that excludes the mode being received starts a re-acquisition at
once. -/
def bodySvcDrmCfg (c : CmdEntry) (s : State) : Answer :=
  let r : Fin 32 := Fin.ofNat 32 (c.u8 24)
  let old := s.svc.run[r].drm.next.getD s.svc.run[r].drm.settings
  let l := (List.range 3).map fun i => if c.u8 (25 + i) = 0xFF then old.getD i 0 else byte (c.u8 (25 + i))
  checked ((!within 28 31 (c.u8 24), .range, 24) :: settingRange c drmRanges) fun _ =>
    let s := s.modDrm r fun d => { d with next := some l }
    if s.modeExcluded r (l.getD 0 0).toNat then
      .done ((s.reacquire r).modDrm r fun d => { d with modes := BitVec.ofNat 4 (l.getD 0 0).toNat })
    else .done s

/-- SVC_DRM_CFG (R214). -/
def execSvcDrmCfg (c : CmdEntry) (s : State) : Host.Outcome State Fault Refusal := .next (s.runCmd 0x0330 c (bodySvcDrmCfg c))

/-- A record by its number, or zeros. -/
def recordOf (l : List (Fin 4 × List Byte)) (n i : Nat) : List Byte :=
  match l.find? fun e => decide (e.1.val = i) with
  | some e => padTo n e.2
  | none => List.replicate n 0

/-- The image of SVC_DRM_DB (R215). -/
def DrmState.image (d : DrmState) : List Byte :=
  let flags := b01 d.facValid + 2 * b01 d.sdcComplete + 4 * b01 d.utc.isSome + 8 * b01 d.pendingReconf
  [byte flags, byte (match d.mode with | some m => m.val | none => 0), d.so, byte (b01 d.longIl), d.mscQam, d.sdcQam, d.nAudio, d.nData,
   d.reconf] ++ List.replicate 7 0 ++
  (match d.utc with | some (t, lto) => leBytes 4 t.toNat ++ [lto] | none => List.replicate 5 0) ++ List.replicate 11 0 ++
  (List.range 4).flatMap (recordOf d.services 96) ++ (List.range 4).flatMap (recordOf d.streams 16) ++ List.replicate 32 0

/-- SVC_DRM_DB. -/
def bodySvcDrmDb (c : CmdEntry) (s : State) : Answer :=
  let r : Fin 32 := Fin.ofNat 32 (c.u8 24)
  checked ((!within 28 31 (c.u8 24), .range, 24) :: rsvdBytes c 25 27 ++
      [s.noWindow r, (!s.svc.run[r].drm.everLocked, .state, 0)]) fun _ =>
    .ok s [] (some s.svc.run[r].drm.image)

/-- SVC_DRM_DB (R215). -/
def execSvcDrmDb (c : CmdEntry) (s : State) : Host.Outcome State Fault Refusal := .next (s.runCmd 0x0331 c (bodySvcDrmDb c))

/-! ### Acquisition (R196, R197, R208) -/

/-- The mode can be received: E on DRM+, an enabled one of A to D on DRM30 (R196, R197). -/
def State.modeOk (s : State) (r : Fin 32) (m : Fin 5) : Bool :=
  if s.drmPlus r then decide (m = 4) else decide (m.val < 4) && s.svc.run[r].drm.modes.getLsbD m.val

/-- DRM_MODE_FOUND: source 34 CODE 12; another mode while one is held is a change of mode, CODE 14, and a re-acquisition (R208). -/
def execDrmModeFound (r : Fin 32) (mode : Fin 5) (s : State) : Host.Outcome State Fault Refusal :=
  .next (if isDrm r ∧ s.svc.run[r].active = true ∧ s.modeOk r mode = true ∧ s.svc.run[r].drm.mode ≠ some mode then
    let s := if s.svc.run[r].drm.mode.isSome then (s.lockEvent r 14 [byte mode.val, s.svc.run[r].drm.so]).reacquire r else s
    let s := s.modDrm r fun d => { d with mode := some mode, stored := 0, cells := [], timeBadRun := 0, facBadRun := 0 }
    s.lockEvent r 12 s.svc.run[r].drm.modeData
  else s)

/-! ### Frames (R198, R202 to R209, R213) -/

/-- Frame length in ms of the mode being received. -/
def DrmState.frameMs (d : DrmState) : Nat := if d.mode = some 4 then 100 else 400

/-- What a passing FAC gives (R202). -/
def DrmState.fac (d : DrmState) (o : DrmFrameObs) : DrmState :=
  { d with facValid := true, so := o.so, longIl := o.longIl, mscQam := o.mscQam, sdcQam := o.sdcQam, nAudio := o.nAudio, nData := o.nData
           reconf := o.reconf, listed := o.listed }

/-- What a frame leaves (R198, R202, R213). -/
def DrmState.frame (d : DrmState) (o : DrmFrameObs) : DrmState :=
  let d := if o.facOk then d.fac o else { d with facValid := false }
  { d with
    timeBadRun := if o.timeRefOk then 0 else d.timeBadRun + 1, facBadRun := if o.facOk then 0 else d.facBadRun + 1
    facHist := (o.facOk :: d.facHist).take 100
    sdcHist := match o.sdc with | some ok => if o.firstOfSuper then (ok :: d.sdcHist).take 20 else d.sdcHist | none => d.sdcHist
    ticks := (⟨o.powers, o.mer, o.wmer, o.offset, o.spread, o.doppler, o.legMer⟩ :: d.ticks).take 4 }

/-- FAC and SDC counters (R505). -/
def State.drmCounts (s : State) (r : Fin 32) (o : DrmFrameObs) : State :=
  let s := s.runCount r.val (if o.facOk then 0 else 1) 1
  match o.sdc with
  | none => s
  | some ok => if o.firstOfSuper then s.runCount r.val (if ok then 2 else 3) 1 else s

/-- Lock is gained at a FAC that passes with the time reference held; before lock a failed time reference starts again (R198). -/
def State.drmLock (s : State) (r : Fin 32) (o : DrmFrameObs) : State :=
  let u := s.svc.run[r]
  if u.lock then s
  else if o.timeRefOk = false then
    (s.loseTiming r).modDrm r fun d => { d with stored := 0, cells := [], timeBadRun := 0, facBadRun := 0 }
  else if o.facOk then
    ((s.modRun r fun u => { u with lock := true, drm := { u.drm with everLocked := true } }).runCount r.val 16 1).lockEvent r 0
      u.drm.modeData
  else s

/-- Lock is lost (R198): every context moves to ACQUIRING with reason 1. -/
def State.drmLoss (s : State) (r : Fin 32) : State :=
  let u := s.svc.run[r]
  if u.lock ∧ (3 ≤ u.drm.timeBadRun ∨ (if u.drm.mode = some 4 then 10 else 5) ≤ u.drm.facBadRun) then
    (s.restart r).ctxsToAcquiring r 1
  else s

/-- Source 41 (R216). -/
def State.sdcEvent (s : State) (r : Fin 32) (code n : Nat) : State :=
  s.raise 41 code [byte r.val, 0, 0, 0, byte s.svc.run[r].drm.services.length, byte n]

/-- The SDC is complete (R203): every service that the FAC lists has its record with the stream that carries it, its label, and its audio or
application information. -/
def DrmState.described (d : DrmState) : Bool :=
  d.listed.all fun n =>
    (match d.services.find? fun e => decide (e.1 = n) with
      | some e => d.streams.any fun q => decide (q.1.val = (e.2.getD 4 0).toNat)
      | none => false) && d.labels.contains n && d.infos.contains n

/-- Records with those of an SDC in their places. -/
def putRecords (l new : List (Fin 4 × List Byte)) : List (Fin 4 × List Byte) := new.foldl (fun l e => putKey l Prod.fst e) l

/-- An SDC that passes is kept (R202); complete for the first time, or changed, it is reported (R203). While a reconfiguration is
pending what it says is the next configuration (R207). -/
def State.drmSdc (s : State) (r : Fin 32) (o : DrmFrameObs) : State :=
  if s.svc.run[r].lock = false ∨ o.firstOfSuper = false ∨ o.sdc ≠ some true then s
  else
    let s := o.signal.foldl (fun s b => s.toFantail r (.sdc b)) s
    let s := s.modDrm r fun d => { d with utc := o.utc.orElse fun _ => d.utc }
    let d := s.svc.run[r].drm
    if d.pendingReconf then
      let old := d.nextConf.getD ([], [])
      if o.services = [] ∧ o.streams = [] then s
      else s.modDrm r fun d => { d with nextConf := some (putRecords old.1 o.services, putRecords old.2 o.streams) }
    else
      let e : DrmState := { d with
        services := putRecords d.services o.services, streams := putRecords d.streams o.streams
        labels := d.labels ++ o.labels.filter (fun n => !d.labels.contains n), infos := d.infos ++ o.infos.filter fun n => !d.infos.contains n }
      let s := s.modDrm r fun _ => e
      if d.sdcComplete = false ∧ e.described = true then (s.modDrm r fun d => { d with sdcComplete := true }).sdcEvent r 0 0
      else if d.sdcComplete = true ∧ (e.services ≠ d.services ∨ e.streams ≠ d.streams) then
        s.raiseLimited 41 r.val 1 (BitVec.ofNat 32 (e.services.length % 256)) 1
      else s

/-- The stream number that a context uses: its own, or that of its service. -/
def DrmState.streamOf (d : DrmState) (x : Ctx) : Option Nat :=
  if compAddr x.component ≤ 1 then (d.serviceOf x).map fun r => (r.getD 4 0).toNat
  else (d.streams.find? fun e => decide (e.1.val = fld x.component 0 2)).map fun e => e.1.val

/-- Length and protection of a stream: bytes 0 to 5 of its record (R215). -/
def DrmState.shape (d : DrmState) (n : Nat) : Option (List Byte) :=
  (d.streams.find? fun e => decide (e.1.val = n)).map fun e => slice e.2 0 6

/-- The fate of a context between two configurations (R180, R207, R211): removed without a stream, changed where its stream is another one or
has another length or protection, or where the occupancy or the interleaver depth differs. -/
def drmFate (old new : DrmState) (x : Ctx) : SubFate :=
  match old.streamOf x, new.streamOf x with
  | none, _ => .same
  | some _, none => .removed
  | some a, some b =>
    if (new.shape b).isNone then .removed
    else if a = b ∧ old.shape a = new.shape b ∧ old.so = new.so ∧ old.longIl = new.longIl then .same else .changed

/-- A context at the reconfiguration (R180, R207). -/
def State.drmReconfCtx (s : State) (c : Fin 256) (f : SubFate) (depth ms : Nat) : State :=
  let x := s.svc.ctx[c]
  match f with
  | .same => s
  | .removed => if x.st = .running then s.moveCtx c .acquiring 3 else s
  | .changed =>
    let k := s.freeCnt
    let s := ({ s with freeCnt := k + 1 }).modCtx c fun x => { x with skip := depth, group := none }
    if x.hasOutput then s.loseUnits c (depth * unitsPer false ms x k) else s

/-- Streams changed or removed. -/
def drmChanges (old new : DrmState) : Nat :=
  (old.streams.filter fun e => decide (old.so ≠ new.so) || decide (old.longIl ≠ new.longIl) ||
    decide (old.shape e.1.val ≠ new.shape e.1.val)).length

/-- The FAC's reconfiguration index (R207): announced when it leaves 0; when it is back at 0 the change is carried out, or did not
occur where no next configuration came. `old` is the runner before this frame. -/
def State.drmReconf (s : State) (r : Fin 32) (o : DrmFrameObs) (old : DrmState) : State :=
  let d := s.svc.run[r].drm
  if s.svc.run[r].lock = false ∨ o.facOk = false then s
  else if d.pendingReconf = false ∧ o.reconf ≠ 0 then
    (s.modDrm r fun d => { d with pendingReconf := true, nextConf := none }).sdcEvent r 2 0
  else if d.pendingReconf = true ∧ o.reconf = 0 ∧ o.firstOfSuper = true then
    match d.nextConf with
    | none => (s.modDrm r fun d => { d with pendingReconf := false }).sdcEvent r 4 0
    | some q =>
      let new : DrmState := { d with pendingReconf := false, nextConf := none, services := q.1, streams := q.2 }
      let s := (s.ctxsOf r).foldl (fun s c => s.drmReconfCtx c (drmFate old new s.svc.ctx[c]) old.depth old.frameMs) s
      ((s.modDrm r fun _ => new).runCount r.val 4 1).sdcEvent r 3 (drmChanges old new)
  else s

/-- DRM audio contexts whose coding the decoder does not serve (R206). -/
def State.drmMismatches (s : State) (r : Fin 32) : State :=
  let d := s.svc.run[r].drm
  s.reportMismatch r fun x => decide (x.kind = 0) && d.sdcComplete &&
    match d.serviceOf x with | some record => !drmCodingOk record | none => false

/-- Settings that wait take effect at a frame (R214). -/
def DrmState.adopt (d : DrmState) : DrmState :=
  match d.next with
  | none => d
  | some l => { d with modes := BitVec.ofNat 4 (l.getD 0 0).toNat, conceal := (l.getD 1 0).toNat, motTimeout := (l.getD 2 0).toNat
                       next := none }

/-! ### Cells (R200, R201, R204) -/

/-- The first sample of symbol `l` of a frame that begins at sample `first`, and its last one. -/
def symbolSpan (m : Fin 5) (first l : Nat) : Nat × Nat := (first + drmSymbol m * l, first + drmSymbol m * (l + 1) - 1)

/-- Symbols of a frame. -/
def frameSymbols (m : Fin 5) : Nat := match m.val with | 0 => 15 | 1 => 15 | 2 => 20 | 3 => 24 | _ => 40

/-- A leg after a symbol: an unmarked one refreshes its estimate, which is frozen otherwise (R201). -/
def DrmLeg.symbol (l : DrmLeg) (unmarked : Bool) (gains : List (Nat × IQ × IQ)) : DrmLeg :=
  if unmarked then { clean := min 4 (l.clean + 1), gains := (gains :: l.gains).take 32 } else { l with clean := 0 }

/-- A leg contributes to a symbol: unmarked in it, and in the 4 symbols before it where it had been marked (R201). -/
def DrmLeg.on (l : DrmLeg) (unmarked : Bool) : Bool := unmarked && decide (4 ≤ l.clean)

/-- Noise of a leg on a carrier, as a sum over the last 16 symbols, and their number (R200). -/
def DrmLeg.noise (l : DrmLeg) (k : Nat) : Nat × Nat :=
  let n := min 16 (max 1 l.gains.length)
  let v := ((List.range n).map fun i => Config.drmNoise (l.gains.drop i) k).sum
  (if v = 0 then Config.quietNoise k + 1 else v, n)

/-- The cell that the contributing legs give on a carrier: maximal-ratio combining with noise powers brought to one denominator; without a leg
it is an erasure (R200, R201, R204). -/
def drmCell (k : Nat) (on : List (DrmLeg × IQ)) : DrmCell :=
  let den := (on.map fun e => (e.1.noise k).1).prod
  let w := fun e : DrmLeg × IQ => den / (e.1.noise k).1 * (e.1.noise k).2
  let h := fun e : DrmLeg × IQ => Config.drmChannel e.1.gains k
  let num := csum (on.map fun e => cscale (w e) (cmul (cconj (h e)) e.2))
  let csi := (on.map fun e => w e * mag2 (h e)).sum
  if csi = 0 then (0, 0, 0)
  else (Config.drmPart num.1 csi, Config.drmPart num.2 csi, BitVec.ofNat 4 (min 15 (1 + Config.drmStep csi den)))

/-- What a leg brings in a symbol: its MSC cells and its gain reference cells. -/
def DrmFrameObs.msc (o : DrmFrameObs) (p : Fin 4) (l : Nat) : List (Nat × IQ) := (o.cells.getD p.val []).getD l []
def DrmFrameObs.refs (o : DrmFrameObs) (p : Fin 4) (l : Nat) : List (Nat × IQ × IQ) := (o.gains.getD p.val []).getD l []

/-- One symbol: the legs after it, its cells, and the positions that contributed. -/
def Runner.drmSymbolIn (u : Runner) (legs : List (Fin 4)) (o : DrmFrameObs) (m : Fin 5) (v : Vector DrmLeg 4) (l : Nat) :
    Vector DrmLeg 4 × List DrmCell × List (Fin 4) :=
  let sp := symbolSpan m o.first l
  let un := u.unmarked sp.1 sp.2
  let next := Vector.ofFn fun p => (v[p]).symbol (un p) (DrmFrameObs.refs o p l)
  let on := legs.filter fun p => (v[p]).on (un p)
  let carriers := ((o.cells.map fun p => p.getD l []).find? fun x => !x.isEmpty).getD []
  let value := fun (p : Fin 4) (k : Nat) => (((DrmFrameObs.msc o p l).find? fun e => decide (e.1 = k)).map Prod.snd).getD (0, 0)
  (next, carriers.map fun e => drmCell e.1 (on.map fun p => (next[p], value p e.1)), on)

/-- The symbols of a frame, in order. -/
def Runner.drmSymbols (u : Runner) (legs : List (Fin 4)) (o : DrmFrameObs) (m : Fin 5) :
    Vector DrmLeg 4 × List (List DrmCell) × List (List (Fin 4)) :=
  (List.range (frameSymbols m)).foldl (fun a l =>
    let x := u.drmSymbolIn legs o m a.1 l
    (x.1, a.2.1 ++ [x.2.1], a.2.2 ++ [x.2.2])) (u.drm.legs, [], [])

/-- A frame is stored (R204): its cells, its timestamp, the positions that contributed, and whether some symbol of it is erased. -/
def Runner.storeFrame (u : Runner) (legs : List (Fin 4)) (o : DrmFrameObs) : Runner × Bool :=
  match u.drm.mode with
  | none => (u, false)
  | some m =>
    let x := u.drmSymbols legs o m
    ({ u with carry := 0, drm := { u.drm with
      legs := x.1, cells := (x.2.1 :: u.drm.cells).take 6, stored := u.drm.stored + 1, lastTs := some o.ts
      stamps := (o.ts :: u.drm.stamps).take 64
      contrib := (legs.filter fun p => x.2.2.any fun l => l.contains p).foldl (fun m p => m + 2 ^ p.val) 0 } }
    , x.2.2.any fun l => l.isEmpty)

/-! ### Streams and units (R205, R209, R212) -/

/-- The bytes of a stream in the frame that the store completes: part A, then part B, of the lengths of its record (R205). -/
def DrmState.streamBytes (d : DrmState) (e : Fin 4 × List Byte) : List Byte :=
  let n := leNat (slice e.2 0 2) + leNat (slice e.2 2 2)
  let mode := match d.mode with | some m => m.val | none => 0
  (List.range n).map (Config.drmByte mode d.so.toNat d.mscQam.toNat e.2 (d.cells.take d.depth))

/-- Every stream of the multiplex is decoded, whether or not a context is open on it (R205). -/
def DrmState.decode (d : DrmState) : DrmState := { d with decoded := d.streams.map fun e => (e.1, d.streamBytes e) }

/-- What a decoded frame gives a data context: the stream's bytes, or its packets with the context's packet ID (R212). -/
def State.drmCtxFrame (s : State) (r : Fin 32) (c : Fin 256) (ts : D) : State :=
  let x := s.svc.ctx[c]
  let d := s.svc.run[r].drm
  match x.kind.toNat, (d.streamOf x).bind fun n => d.decoded.find? fun e => decide (e.1.val = n) with
  | 4, some e =>
    if compAddr x.component = 3 then
      let len := match d.streams.find? fun q => decide (q.1 = e.1) with | some q => (q.2.getD 7 0).toNat | none => 0
      let pid := compPid x.component
      ((drmPackets e.2.length len e.2).filter fun p => decide (p.addr = pid)).foldl
        (fun s p => s.packetIn r c 8 (BitVec.ofNat 32 (4 * e.1.val + pid)) ts p) s
    else s.giveUnit r c e.2 (BitVec.ofNat 32 e.1.val) ts none
  | _, _ => s

/-- The contexts at a completed frame: one that still skips frames skips this one; one that cannot take output, and has given some before, has
lost its units. -/
def State.drmCtxFrames (s : State) (r : Fin 32) (ms : Nat) (ts : D) : State :=
  (s.ctxsOf r).foldl (fun s c =>
    let x := s.svc.ctx[c]
    if x.skip ≠ 0 then s.modCtx c fun x => { x with skip := x.skip - 1 }
    else if s.takesUnit r c then s.drmCtxFrame r c ts
    else
      let k := s.freeCnt
      let s := { s with freeCnt := k + 1 }
      if x.hasOutput then s.loseUnits c (unitsPer false ms x k) else s) s

/-- The units of a frame: erased cells mark every context (R209), a completely de-interleaved frame is decoded and gives its units (R204, R205,
R212). -/
def State.drmUnits (s : State) (r : Fin 32) (erased : Bool) (ms : Nat) : State :=
  let s := s.erasedFrame r ms fun _ => erased
  let u := s.svc.run[r]
  if u.drm.stored < u.drm.depth ∨ u.lock = false then s.lostFrames r ms 1
  else (s.modDrm r DrmState.decode).drmCtxFrames r ms (u.drm.stamps.getD (u.drm.depth - 1) 0)

/-- DRM_FRAME_END (R198, R200 to R209, R211 to R213). -/
def execDrmFrameEnd (r : Fin 32) (o : DrmFrameObs) (s : State) : Host.Outcome State Fault Refusal :=
  .next (if isDrm r ∧ s.svc.run[r].active = true ∧ s.svc.run[r].drm.mode.isSome = true then
    let s := s.modDrm r DrmState.adopt
    let old := s.svc.run[r].drm
    let ms := old.frameMs
    let s := s.lostFrames r ms (framesMissed old.lastTs o.ts (737280 * ms))
    let s := (s.drmCounts r o).modDrm r fun d => d.frame o
    let stored := s.svc.run[r].storeFrame (s.legsOf r) o
    let s := s.modRun r fun _ => stored.1
    let s := (s.drmLock r o).drmLoss r
    let s := if o.facOk then o.facIds.foldl (fun s b => s.toFantail r (.fac b)) s else s
    let s := (s.drmSdc r o).drmReconf r o old
    let s := if s.svc.run[r].drm.mode.isSome then s.drmUnits r stored.2 ms else s
    (s.drmMismatches r).startReady r fun x => decide (x.kind = 5)
  else s)

end Sys2Proof.Machine
end

