-- ==== Sys2Proof/Machine/Links.lean ====
section
/-!
DEFINITION. The Fantail's sources and the signalling from which it builds candidates (08_following.md, R221 to R223): RDS AF and EON, FIGs
0/6, 0/21 and 0/24, SDC entities, implicit links. The FIGs' bits are those of EN 300 401 (PRESUMED, log 126).
-/

namespace Sys2Proof.Machine

/-! ### Policy (R247) -/

/-- Which pair of thresholds a standard of R249 has: FM, AM, DAB, DRM. -/
def stdIx (std : Byte) : Nat := match std.toNat with | 1 => 0 | 2 => 1 | 3 => 2 | _ => 3
/-- TH of a standard in 1/8 dB. -/
def State.th8 (s : State) (std : Byte) : Int := 8 * (s.pol (24 + 2 * stdIx std) : Int)
/-- STANDARDS has the standard's bit. -/
def State.stdOn (s : State) (std : Byte) : Bool := decide (s.pol 53 / 2 ^ (std.toNat - 1) % 2 = 1)

/-- The score of R225 for a quality in 1/8 dB. -/
def State.scoreOf (s : State) (std : Byte) (q : Int) : Nat :=
  let th := s.th8 std
  let good : Int := 8 * (s.pol (25 + 2 * stdIx std) : Int)
  if q < th then 0 else (clampFrac 200 (q - th) (good - th)).1 + s.pol (32 + stdIx std)

/-! ### Sources -/

/-- The preset that receives a standard. -/
def stdPreset (std : Byte) : Nat := match std.toNat with | 1 => 3 | 2 => 1 | 3 => 5 | 4 => 2 | _ => 4

/-- The standard that a runner receives. -/
def State.stdOf (s : State) (r : Fin 32) : Byte :=
  if isFm r then 1 else if isAm r then 2 else if isDab r then 3 else if s.drmPlus r then 5 else 4

/-- Frequency of the window that feeds a runner. -/
def State.freqOf (s : State) (r : Fin 32) : W :=
  match s.windowOf r with | some w => BitVec.ofNat 32 s.win.win[w].freq | none => 0

/-- q of a runner in 1/8 dB (R225). -/
def State.runnerQ (s : State) (r : Fin 32) : Int :=
  let u := s.svc.run[r]
  if r.val < 24 then u.fm.q else if isDab r then 2 * (u.dab.snr : Int) else 2 * (u.drm.wmer : Int)

/-- The handle or short ID under which a runner carries an identifier; 0xFF where it has none (R249). -/
def State.locatorOf (s : State) (r : Fin 32) (ident : W) : Byte :=
  let u := s.svc.run[r]
  if isDab r then
    match (u.dab.comps.find? fun e => decide (e.2.sid = ident) && e.2.primary).orElse
        fun _ => u.dab.comps.find? fun e => decide (e.2.sid = ident) with
    | some e => e.1
    | none => 0xFF
  else if isDrm r then
    match u.drm.services.find? fun e => decide (drmServiceId e.2 = ident) with
    | some e => byte e.1.val
    | none => 0xFF
  else 0xFF

/-- The identity that a runner receives is linked to the current identifier, as that of a candidate (R223). -/
def State.identSeen (s : State) (f : Fin 256) (r : Fin 32) (ident : W) : Bool :=
  let u := s.svc.run[r]
  u.lock &&
  if isFm r then (match u.fm.rds.pi with | some p => (s.linkOf f (.pi, p.setWidth 32)).isSome | none => false)
  else if isDab r ∨ isDrm r then decide (s.locatorOf r ident ≠ 0xFF)
  else false

/-- COMPONENT of a candidate on its runner. -/
def candComp (std locator : Byte) : W :=
  match std.toNat with
  | 3 => 0x10000000 + locator.setWidth 32
  | 4 | 5 => locator.setWidth 32
  | _ => 0

/-! ### What runners pass on (R174, R202, R221) -/

/-- FIG 0/24: the other ensembles that carry services. -/
def figOthers (r : Fin 32) (now : D) (f : Fig) : List OtherSet :=
  let n := sidLen f.long
  (f.cut fun b => n + 1 + 2 * bitsAt b (8 * n + 4) 4).map fun b =>
    { runner := r, sid := sidOf f.long b, stamp := now
      eids := (List.range (bitsAt b (8 * n + 4) 4)).map fun i => BitVec.ofNat 32 (bitsAt b (8 * (n + 1) + 16 * i) 16) }

/-- A list of FIG 0/21: DAB ensembles in 16 kHz, FM in 100 kHz from 87.5 MHz, DRM in 1 or 10 kHz. -/
def figFreq (r : Fin 32) (now : D) (b : List Byte) : Option FreqSet :=
  let id := bitsAt b 0 16
  let l := b.drop 3
  match bitsAt b 16 4 with
  | 0 => some { runner := r, std := 3, id := BitVec.ofNat 32 id, stamp := now
                freqs := (entries (fun _ => 3) 8 l).map fun x => BitVec.ofNat 32 (16000 * bitsAt x 5 19) }
  | 8 => some { runner := r, std := 1, id := BitVec.ofNat 32 id, stamp := now
                freqs := (l.filter fun x => within 1 204 x.toNat).map fun x => BitVec.ofNat 32 (87500000 + 100000 * x.toNat) }
  | 6 =>
    let freqs := (entries (fun _ => 2) 8 (l.drop 1)).map fun x => (if bitsAt x 0 1 = 1 then 10000 else 1000) * bitsAt x 1 15
    some { runner := r, std := if freqs.any fun h => decide (30000000 ≤ h) then 5 else 4, stamp := now
           id := BitVec.ofNat 32 (65536 * bitsAt l 0 8 + id), freqs := freqs.map (BitVec.ofNat 32) }
  | _ => none

/-- FIG 0/21: the frequencies of identifiers. -/
def figFreqs (r : Fin 32) (now : D) (f : Fig) : List FreqSet :=
  (f.cut fun b => 2 + bitsAt b 11 5).flatMap fun b =>
    (entries (fun c => 3 + bitsAt c 21 3) 16 (b.drop 2)).filterMap (figFreq r now)

/-- Bytes of one identifier of FIG 0/6. -/
def linkIdLen (long ils : Bool) : Nat := if long then 4 else if ils then 3 else 2

/-- The identifiers of an entry of FIG 0/6, by the kind that IdLQ names; with ILS the ECC precedes a PI or an SId. -/
def linkIds (long : Bool) (b : List Byte) : List (IdKind × W) :=
  let ils := decide (bitsAt b 3 1 = 1)
  let n := linkIdLen long ils
  let kind : Option IdKind := if long then some .sid else
    match bitsAt b 17 2 with | 0 => some .sid | 1 => some .pi | 3 => some .drm | _ => none
  match kind with
  | none => []
  | some k => (List.range (bitsAt b 20 4)).map fun i =>
      let at_ := 24 + 8 * n * i
      (k, BitVec.ofNat 32 (if long then bitsAt b at_ 32 else if ils = true ∧ k = .drm then bitsAt b at_ 24
        else bitsAt b (at_ + 8 * (n - 2)) 16))

/-- An entry of FIG 0/6 joins the linkage sets: identifiers of one kind replace those of that kind, and a link that is not active goes. -/
def linkageEntry (r : Fin 32) (now : D) (long : Bool) (l : List LinkSet) (b : List Byte) : List LinkSet :=
  let lsn := bitsAt b 4 12
  let is := fun e : LinkSet => decide (e.runner = r) && decide (e.lsn = lsn)
  let rest := l.filter fun e => !is e
  if bitsAt b 1 1 = 0 then rest
  else
    let new := if bitsAt b 0 1 = 1 then linkIds long b else []
    let old := ((l.find? is).map LinkSet.ids).getD []
    rest ++ [{ runner := r, lsn := lsn, hard := decide (bitsAt b 2 1 = 1), stamp := now
               ids := (old.filter fun e => !new.any fun i => decide (i.1 = e.1)) ++ new }]

/-- FIG 0/6: the linkage sets. -/
def figLinks (r : Fin 32) (now : D) (f : Fig) (l : List LinkSet) : List LinkSet :=
  (f.cut fun b => if bitsAt b 0 1 = 1 then 3 + bitsAt b 20 4 * linkIdLen f.long (decide (bitsAt b 3 1 = 1)) else 2).foldl
    (linkageEntry r now f.long) l

/-- One item of signalling is taken. -/
def FanBlk.take (b : FanBlk) (now : D) (h : Fin 32 × Heard) : FanBlk :=
  match h.2 with
  | .fig body =>
    let f : Fig := { type := 0, body := body }
    match f.ext with
    | 6 => { b with links := figLinks h.1 now f b.links }
    | 21 => { b with freqs := (figFreqs h.1 now f).foldl (fun l e => putKey l (fun e => (e.runner, e.std, e.id)) e) b.freqs }
    | 24 => { b with others := (figOthers h.1 now f).foldl (fun l e => putKey l (fun e => (e.runner, e.sid)) e) b.others }
    | _ => b
  | .sdc e => { b with sdcs := putKey b.sdcs (fun e => (e.1, e.2.1)) (h.1, e, now) }
  | .fac _ => b

/-- The signalling since the last tick is taken, and what has been absent for 60 s goes (R221). -/
def State.takeSignals (s : State) : State :=
  let now := s.sys.timeUs
  let fresh := fun t : D => decide ((now - t).toNat < 60000000)
  let b := s.fan.heard.foldl (fun b h => b.take now h) s.fan
  { s with fan := { b with
    heard := [], links := b.links.filter fun e => fresh e.stamp, freqs := b.freqs.filter fun e => fresh e.stamp
    others := b.others.filter fun e => fresh e.stamp, sdcs := b.sdcs.filter fun e => fresh e.2.2 } }

/-! ### The candidates that signalling yields (R221, R222) -/

/-- A candidate that signalling yields: standard, frequency, identifier, ORIGIN (R249), hard link. -/
structure Signalled where
  std : Byte
  freq : W
  ident : W
  origin : Byte
  hard : Bool
  deriving DecidableEq, Repr

/-- Candidates of one identifier on some frequencies, if it is linked. -/
def State.linkedOn (s : State) (f : Fin 256) (std : Byte) (i : IdKind × W) (origin : Byte) (freqs : List W) : List Signalled :=
  match s.linkOf f i with
  | none => []
  | some hard => freqs.map fun h => { std := std, freq := h, ident := i.2, origin := origin, hard := hard }

/-- The runners that demodulate the current source, a shadow or a candidate of a followed context. -/
def State.signalRunners (s : State) (f : Fin 256) : List (Fin 32) :=
  allIx fun r : Fin 32 => decide (s.svc.ctx[f].runner = r) ||
    s.fan.follow[f].cands.any fun e => match e with | some k => decide (k.runner = some r) | none => false

/-- An AF entry as an FM frequency in Hz (R160). -/
def afHz (e : BitVec 16) : Option W := if e.getLsbD 15 = true ∨ e = 0 then none else some (BitVec.ofNat 32 (10000 * e.toNat))

/-- A list was heard within the last 60 s (R221). -/
def State.fresh (s : State) (t : D) : Bool := decide ((s.sys.timeUs - t).toNat < 60000000)

/-- RDS AF (R221): every frequency of method A; of method B those of the lists whose tuning frequency is the runner's. -/
def State.afSignals (s : State) (f : Fin 256) (r : Fin 32) : List Signalled :=
  let d := s.svc.run[r].fm.rds
  match d.pi with
  | none => []
  | some p =>
    let lists := (d.af ++ d.afMore).filter fun a => s.fresh a.stamp && (decide (a.method = 1) || decide (afHz a.tuning = some (s.freqOf r)))
    s.linkedOn f 1 (.pi, p.setWidth 32) 0 (lists.flatMap fun a => a.entries.filterMap afHz)

/-- RDS EON (R221): the AFs of a linked PI(ON). -/
def State.eonSignals (s : State) (f : Fin 256) (r : Fin 32) : List Signalled :=
  let d := s.svc.run[r].fm.rds
  ((d.eon ++ d.eonMore).filter fun n => s.fresh n.heard).flatMap fun n =>
    s.linkedOn f 1 (.pi, n.pi.setWidth 32) 1 (n.af.filterMap afHz)

/-- Frequencies of an EId that a runner knows. -/
def State.eidFreqs (s : State) (rs : List (Fin 32)) (eid : W) : List W :=
  (s.fan.freqs.filter fun e => rs.contains e.runner && decide (e.std = 3) && decide (e.id = eid)).flatMap FreqSet.freqs

/-- FIG 0/24, and FIG 0/6 with 0/21 (R221). -/
def State.dabSignals (s : State) (f : Fin 256) (rs : List (Fin 32)) : List Signalled :=
  let cur := s.curId f
  ((s.fan.others.filter fun e => rs.contains e.runner).flatMap fun e =>
    s.linkedOn f 3 (.sid, e.sid) (if cur = some (.sid, e.sid) then 2 else 3) (e.eids.flatMap (s.eidFreqs rs))) ++
  ((s.fan.freqs.filter fun e => rs.contains e.runner && decide (e.std ≠ 3)).flatMap fun e =>
    s.linkedOn f e.std (if e.std = 1 then .pi else .drm, e.id) 3 e.freqs)

/-- SDC entities of types 3, 4 and 11 (R221): a scheduled frequency only within its times, by the RTC. What they name is the current service's
own. -/
def State.drmSignals (s : State) (f : Fin 256) (rs : List (Fin 32)) : List Signalled :=
  let l := s.fan.sdcs.filter fun e => rs.contains e.1
  let onAir := fun (r : Fin 32) (n : Nat) => l.any fun e => decide (e.1 = r) && Config.sdcOnAir e.2.1 n s.sys.rtcSec.toNat
  l.flatMap fun e => (Config.sdcFreqs e.2.1).filterMap fun q =>
    match q.2.2.2 with
    | some n => if onAir e.1 n then some { std := q.1, freq := q.2.1, ident := q.2.2.1.getD (s.identOf f), origin := 4, hard := true } else none
    | none => some { std := q.1, freq := q.2.1, ident := q.2.2.1.getD (s.identOf f), origin := 4, hard := true }

/-- Implicit links (R221): a 16-bit SId equal to the current PI, and the reverse, on any runner that holds lock. -/
def State.implicitSignals (s : State) (f : Fin 256) : List Signalled :=
  match s.curId f with
  | some (.pi, p) =>
    (allIx fun r : Fin 32 => isDab r && s.svc.run[r].lock && s.svc.run[r].dab.comps.any fun e => decide (e.2.sid = p)).map fun r =>
      { std := 3, freq := s.freqOf r, ident := p, origin := 5, hard := true }
  | some (.sid, i) =>
    (allIx fun r : Fin 32 => isFm r && s.svc.run[r].lock && decide (s.svc.run[r].fm.rds.pi.map (fun p => p.setWidth 32) = some i)).map fun r =>
      { std := 1, freq := s.freqOf r, ident := i, origin := 5, hard := true }
  | _ => []

/-- Everything that signalling yields for a followed context. -/
def State.signals (s : State) (f : Fin 256) : List Signalled :=
  let rs := s.signalRunners f
  rs.flatMap (fun r => if isFm r then s.afSignals f r ++ s.eonSignals f r else []) ++ s.dabSignals f rs ++ s.drmSignals f rs ++
    s.implicitSignals f

end Sys2Proof.Machine
end

