-- ==== Sys2Proof/Machine/FanOps.lean ====
section
/-!
DEFINITION. What the Fantail computes (08_following.md): its policy, the candidates of a followed context with their runner, identity
and score, READY, the start and the end of a switch, shadows, delays, windows and probes. The following commands and the events of the
Fantail use these.
-/

namespace Sys2Proof.Machine

/-! ### Candidates -/

/-- Candidate `i` of a followed context. -/
def State.cand (s : State) (f : Fin 256) (i : Nat) : Option Cand := s.fan.follow[f].cands.getD i none

/-- Candidates held with their indices. -/
def State.candList (s : State) (f : Fin 256) : List (Nat × Cand) :=
  ((List.range 32).filterMap fun i => (s.cand f i).map fun k => (i, k))

/-- A fresh candidate. -/
def newCand (std : Byte) (freq ident : W) (origin : Byte) (hard host blocked : Bool) : Cand :=
  { std := std, freq := freq, ident := ident, origin := origin, verified := false, converged := false, filled := false, hard := hard
    host := host, blocked := blocked, piSeen := false, gapAhead := 0, retry := false, score := 0, runner := none, locator := 0xFF
    q := 0, lag := 0, level := 0, stamp := 0, shadow := none }

/-- Source 52 for a candidate: at most one per context in 100 ms (R250). -/
def State.candEvent (s : State) (f : Fin 256) (code i : Nat) (k : Cand) : State :=
  s.raiseLimitedWith 52 f.val code (BitVec.ofNat 32 (s.svc.ctx[f].gen.toNat + 256 * i)) 1 (leBytes 4 k.freq.toNat ++ leBytes 4 k.ident.toNat)

/-- The place of a candidate with this standard, frequency and identifier. -/
def State.findCand (s : State) (f : Fin 256) (std : Byte) (freq ident : W) : Option Nat :=
  s.fan.follow[f].cands.findIdx? fun e =>
    match e with
    | some k => decide (k.std = std) && decide (k.freq = freq) && decide (k.ident = ident)
    | none => false

/-- The first free place of the candidate table. -/
def State.freeCand (s : State) (f : Fin 256) : Option Nat := (List.range 32).find? fun i => (s.cand f i).isNone

/-- A candidate takes a place: source 52 CODE 0. -/
def State.addCand (s : State) (f : Fin 256) (i : Nat) (k : Cand) : State :=
  (s.modFollow f fun w => { w with
    cands := listUpd (w.cands ++ List.replicate (32 - w.cands.length) none) i fun _ => some k }).candEvent f 0 i k

/-- The incoming source of a running blend is gone: the blend runs back (R244). -/
def State.loseIncoming (s : State) (f : Fin 256) (i : Nat) : State :=
  s.modFollow f fun w => { w with blend := w.blend.map fun b => if b.dest = i then { b with reversed := true } else b }

/-- A candidate is dropped with its shadow: source 52 CODE 1. -/
def State.dropCand (s : State) (f : Fin 256) (i : Nat) : State :=
  match s.cand f i with
  | none => s
  | some k =>
    let s := match k.shadow with | some c => s.releaseShadow c | none => s
    ((s.loseIncoming f i).modFollow f fun w => { w with
      cands := listUpd w.cands i fun _ => none, dwellOk := if w.dwellOk = some i then none else w.dwellOk }).candEvent f 1 i k

/-- A standard and frequency are those of the current source. -/
def State.isCurrent (s : State) (f : Fin 256) (std : Byte) (freq : W) : Bool :=
  let r := s.svc.ctx[f].runner
  decide (s.stdOf r = std) && decide (s.freqOf r = freq)

/-- One signalled candidate of a followed context (R221, R222): the current source itself is none, and a full table takes no more. -/
def State.signal (s : State) (f : Fin 256) (o : Signalled) : State :=
  if within 1 5 o.std.toNat ∧ s.stdOn o.std = true ∧ s.isCurrent f o.std o.freq = false then
    match s.findCand f o.std o.freq o.ident with
    | some i => s.modCand f i fun k => { k with hard := o.hard, stamp := s.sys.timeUs }
    | none =>
      match s.freeCand f with
      | some i => s.addCand f i { newCand o.std o.freq o.ident o.origin o.hard false false with stamp := s.sys.timeUs }
      | none => s
  else s

/-- The runner that demodulates a candidate: its shadow's, else the lowest one whose window has its standard and frequency and has
released output. -/
def State.demod (s : State) (f : Fin 256) (k : Cand) : Option (Fin 32) :=
  match k.shadow with
  | some c => some s.svc.ctx[c].runner
  | none => firstIx fun r : Fin 32 =>
      s.svc.run[r].active && decide (s.stdOf r = k.std) && decide (s.freqOf r = k.freq) && !s.isCurrent f k.std k.freq

/-- Runner, identity, quality and score of a candidate as they are now (R223, R225). -/
def State.judge (s : State) (f : Fin 256) (k : Cand) : Cand :=
  match s.demod f k with
  | none => { k with runner := none, verified := false, score := 0, locator := 0xFF, q := 0 }
  | some r =>
    let ok := s.identSeen f r k.ident
    let q := s.runnerQ r
    { k with runner := some r, verified := ok, q := q, locator := s.locatorOf r k.ident
             score := if ok then s.scoreOf k.std q else 0 }

/-- A candidate is judged; source 52 CODE 2 or 3 on a change of its verification. -/
def State.judgeCand (s : State) (f : Fin 256) (i : Nat) : State :=
  match s.cand f i with
  | none => s
  | some k =>
    let n := s.judge f k
    let s := s.modCand f i fun _ => n
    if n.verified ∧ k.verified = false then s.candEvent f 2 i n
    else if n.verified = false ∧ k.verified = true then s.candEvent f 3 i n else s

/-- The Fantail may use a runner: granted, and fed by a window of its own (R220). -/
def State.fanRunner (s : State) (r : Fin 32) : Bool :=
  s.fan.grantRun.getLsbD r.val && match s.windowOf r with | some w => s.win.win[w].fantail | none => false

/-- A candidate's runner is one that the Fantail may put the programme on. -/
def State.candUsable (s : State) (k : Cand) : Bool :=
  k.shadow.isSome || match k.runner with | some r => s.fanRunner r | none => false

/-- Delay of a shadow in frames (R236). -/
def State.shadowDelay (s : State) (f : Fin 256) (k : Cand) : Int := (s.fan.follow[f].delayFrames : Int) - k.lag

/-- The delay line of a shadow holds its delay: in the window's stage, or within its allocation. -/
def State.hasLine (s : State) (c : Fin 256) (d : Nat) : Bool :=
  (s.stageDelay s.svc.ctx[c].runner d).isSome || decide (delayKib d ≤ s.svc.ctx[c].delay.toNat)

/-- READY (R236). -/
def State.ready (s : State) (f : Fin 256) (k : Cand) : Bool :=
  let d := s.shadowDelay f k
  match k.shadow with
  | none => false
  | some c =>
    k.converged && decide (0 ≤ d) && decide (d ≤ 288000) && k.filled && decide (k.gapAhead = 0) && decide (k.score ≠ 0) &&
      s.hasLine c d.toNat

/-- The candidate of highest score among those that satisfy a test, the lowest index first. -/
def State.best (s : State) (f : Fin 256) (p : Cand → Bool) : Option Nat :=
  ((s.candList f).foldl (fun b e =>
    if p e.2 then
      match b with
      | some (_, q) => if q < e.2.score then some (e.1, e.2.score) else b
      | none => some (e.1, e.2.score)
    else b) none).map Prod.fst

/-- A followed context can go over to a candidate without a shadow: its runner and its decoder take the context. -/
def State.canDip (s : State) (f : Fin 256) (k : Cand) : Bool :=
  k.shadow.isSome ||
  match k.runner with
  | none => false
  | some r => !s.overLimit r 0 (candComp k.std k.locator) &&
      (!needsDecoder r 0 || decide (s.svc.ctx[f].decoder ≠ 31) || s.freeDecoder.isSome)

/-! ### Switches (R226 to R229, R238 to R245) -/

/-- The decoder of a context mutes (R187, R206). -/
def State.muted (s : State) (c : Fin 256) : Bool :=
  let x := s.svc.ctx[c]
  let u := s.svc.run[x.runner]
  decide (24 ≤ x.runner.val) && decide ((if isDab x.runner then u.dab.conceal else u.drm.conceal) < x.concealed)

/-- A context's source fails at once: no lock, ACQUIRING, or muted (R226). -/
def State.sourceGone (s : State) (c : Fin 256) : Bool :=
  !s.svc.run[s.svc.ctx[c].runner].lock || decide (s.svc.ctx[c].st = .acquiring) || s.muted c

/-- The current source of a followed context has failed. -/
def State.curFails (s : State) (f : Fin 256) : Bool := s.fan.follow[f].failed || s.fan.follow[f].gapped || s.sourceGone f

/-- The incoming source of a switch fails. -/
def State.candGone (s : State) (k : Cand) : Bool :=
  match k.shadow, k.runner with
  | some c, _ => s.sourceGone c
  | none, some r => !s.svc.run[r].lock
  | none, none => true

/-- lvl of a blend in 0.25 dB (R238). -/
def State.lvlOf (s : State) (k : Cand) : Int := if s.polFlag 4 then - max (-48) (min 48 k.level) else 0

/-- Source 48 (R250). -/
def State.switchEvent (s : State) (f : Fin 256) (reason : Nat) (dip : Bool) (k : Cand) : State :=
  s.raise 48 reason ([byte f.val, s.svc.ctx[f].gen, byte (b01 dip), k.std] ++ leBytes 4 k.freq.toNat ++ leBytes 4 k.ident.toNat ++
    [s.stdOf s.svc.ctx[f].runner, sat8 s.fan.follow[f].curScore, sat8 k.score])

/-- Source 51 (R227). -/
def State.noCandEvent (s : State) (f : Fin 256) (code : Nat) : State := s.raise 51 code [byte f.val, s.svc.ctx[f].gen]

/-- A switch to candidate `i` starts (R238 to R240, R245): a blend of `ms` when the candidate is READY, else a dip; one that runs
ends with CODE 1. A switch on failure ends a spell without a candidate (R227). -/
def State.startSwitch (s : State) (f : Fin 256) (i reason ms : Nat) : State :=
  match s.cand f i with
  | none => s
  | some k =>
    let dip := !s.ready f k
    let w := s.fan.follow[f]
    let under := match w.blend with | some b => b :: w.under | none => []
    let s := ((s.cutBlend f 1).modFollow f fun w => { w with under := under }).switchEvent f reason dip k
    let s := if (reason = 0 ∨ reason = 2) ∧ s.fan.follow[f].noCand = true then
        (s.noCandEvent f 1).modFollow f fun w => { w with noCand := false } else s
    let s := s.modFollow f fun w => { w with
      dwellOk := none
      blend := some { dest := i, dip := dip, reversed := false, started := s.sys.timeUs, ms := if dip then 2 * s.pol 46 else ms
                      lvl := if dip then 0 else s.lvlOf k, short := false, pos := 0, wait := 0 } }
    { s with fan := { s.fan with switches := s.fan.switches + 1 } }

/-- The context and the shadow of candidate `i` exchange source, delay and decoder in one commit (R19, R229). -/
def State.swapShadow (s : State) (f c : Fin 256) : State :=
  let x := s.svc.ctx[f]
  let y := s.svc.ctx[c]
  let s := s.modCtx f fun x => { x with
    runner := y.runner, component := y.component, decoder := y.decoder, delay := y.delay, concealed := y.concealed
    line := y.line, pcm := y.pcm, conv := y.conv }
  let s := s.modCtx c fun y => { y with
    runner := x.runner, component := x.component, decoder := x.decoder, delay := x.delay, concealed := x.concealed
    line := x.line, pcm := x.pcm, conv := x.conv }
  (s.moveCtx f y.st 5).moveCtx c x.st 5

/-- The context takes the source of a candidate that has no shadow. -/
def State.takeSource (s : State) (f : Fin 256) (k : Cand) (r : Fin 32) : State :=
  let dec := if needsDecoder r 0 then (if s.svc.ctx[f].decoder ≠ 31 then s.svc.ctx[f].decoder else s.freeDecoder.getD 31) else 31
  let s := s.freeDelay f
  s.modCtx f fun x => { x with runner := r, component := candComp k.std k.locator, decoder := dec, concealed := 0, line := [] }

/-- The entry of the source that was left, in the place of the candidate that was taken. -/
def oldEntry (k : Cand) (std : Byte) (freq ident : W) (r : Fin 32) (loc : Byte) (q : Int) (score : Nat) : Cand :=
  { k with std := std, freq := freq, ident := ident, verified := true, score := score, runner := some r, locator := loc, q := q
           lag := -k.lag, level := -k.level, gapAhead := 0, retry := false, piSeen := false }

/-- The commit at the end of a switch (R229): the old source takes the candidate's place, and the lags of the others count from the
new source. -/
def State.commitSwitch (s : State) (f : Fin 256) (i : Nat) (k : Cand) : State :=
  let x := s.svc.ctx[f]
  let w := s.fan.follow[f]
  let old := oldEntry k (s.stdOf x.runner) (s.freqOf x.runner) (s.identOf f) x.runner (s.locatorOf x.runner (s.identOf f)) w.curQ w.curScore
  let d := (s.shadowDelay f k).toNat
  let s := match k.shadow, k.runner with
    | some c, _ => s.swapShadow f c
    | none, some r => s.takeSource f k r
    | none, none => s
  let others := fun e : Option Cand => e.map fun o => if o.converged then { o with lag := o.lag - k.lag } else o
  s.modFollow f fun w => { w with
    cands := listUpd (w.cands.map others) i fun _ => some old
    delayFrames := if k.shadow.isSome ∧ k.converged = true then d else 0
    failed := false, gapped := false, dwellOk := none, curScore := k.score, curQ := k.q }

/-- A switch ends (R229, R238 to R244): reversed with CODE 2, shortened with CODE 4, else CODE 0. A blend whose incoming shadow is gone
has run back. -/
def State.endSwitch (s : State) (f : Fin 256) : State :=
  match s.fan.follow[f].blend with
  | none => s
  | some b =>
    let s := s.modFollow f fun w => { w with blend := none, lastSwitch := some s.sys.timeUs, under := [] }
    let back := s.blendEvent f 2 b
    match s.cand f b.dest with
    | none => back
    | some k =>
      if b.reversed ∨ (b.dip = false ∧ k.shadow.isNone = true) ∨ (k.shadow.isNone = true ∧ k.runner.isNone = true) then back
      else ((s.commitSwitch f b.dest k).modFollow f fun w => { w with gain := 12000 * b.lvl }).blendEvent f (if b.short then 4 else 0) b

/-- The Fantail chooses at a failure (R226, R227): the best READY candidate, else with ALLOW_UNALIGNED the best verified one with a
runner, else it stays and says so once. -/
def State.onFailure (s : State) (f : Fin 256) : State :=
  let aligned := s.best f fun k => s.ready f k && !k.blocked
  let any := if s.polFlag 2 then
      s.best f fun k => k.verified && !k.blocked && decide (k.score ≠ 0) && s.candUsable k && s.canDip f k else none
  match aligned.orElse fun _ => any with
  | some i => s.startSwitch f i 0 (s.pol16 42)
  | none =>
    if s.fan.follow[f].noCand then s
    else (s.noCandEvent f 0).modFollow f fun w => { w with noCand := true }

/-- MIN_STAY has passed since the last blend or dip ended. -/
def State.stayed (s : State) (f : Fin 256) : Bool :=
  match s.fan.follow[f].lastSwitch with
  | none => true
  | some t => decide (1000 * s.pol16 40 ≤ (s.sys.timeUs - t).toNat)

/-- A candidate keeps the margin of R228. -/
def State.margin (s : State) (f : Fin 256) (k : Cand) : Bool :=
  !k.blocked && decide (s.fan.follow[f].curScore + s.pol 36 ≤ k.score) &&
    (s.ready f k || (s.polFlag 3 && k.verified && s.candUsable k && s.canDip f k))

/-- A switch for improvement to the candidate whose DWELL_GOOD has elapsed, once MIN_STAY allows it (R228). -/
def State.improve (s : State) (f : Fin 256) : State :=
  match s.fan.follow[f].dwellOk with
  | none => s
  | some i =>
    match s.cand f i with
    | none => s
    | some k =>
      if s.margin f k then
        if s.stayed f ∧ s.fan.follow[f].blend.isNone = true then s.startSwitch f i 1 (s.pol16 42) else s
      else s.modFollow f fun w => { w with dwellOk := none }

/-- The decision of a scoring tick for one followed context. -/
def State.decideFor (s : State) (f : Fin 256) : State :=
  match s.fan.follow[f].blend with
  | some b =>
    let gone := match s.cand f b.dest with | some k => s.candGone k | none => true
    if gone = true ∧ b.reversed = false then
      let third := s.best f fun k => s.ready f k && !k.blocked && !s.candGone k
      match s.curFails f, third with
      | true, some i => s.startSwitch f i 0 (s.pol16 42)
      | _, _ => s.loseIncoming f b.dest
    else s
  | none => if s.curFails f then s.onFailure f else s.improve f

/-! ### Shadows (R218, R224) -/

/-- The highest FREE context. -/
def State.highestFree (s : State) : Option (Fin 256) :=
  (List.finRange 256).reverse.find? fun c => decide (s.svc.ctx[c].st = .free)

/-- A candidate gets a shadow, when a context, a place on the runner and a decoder are free. -/
def State.openShadow (s : State) (f : Fin 256) (i : Nat) : State :=
  match s.cand f i, s.highestFree with
  | some k, some c =>
    match k.runner with
    | none => s
    | some r =>
      let w := candComp k.std k.locator
      if s.overLimit r 0 w ∨ (needsDecoder r 0 = true ∧ s.freeDecoder.isNone = true) ∨ s.svc.run[r].fm.lent = true then s
      else
        let x : Ctx := { runner := r, component := w, route := 0xFF, shadowOf := some f
                         decoder := if needsDecoder r 0 then s.freeDecoder.getD 31 else 31 }
        (s.openCtx c x 5).modCand f i fun k => { k with shadow := some c, converged := false, filled := false, gapAhead := 0, retry := false }
  | _, _ => s

/-- The shadow of lowest score among the candidates, not of a running switch. -/
def State.worstShadow (s : State) (f : Fin 256) : Option (Nat × Nat) :=
  (s.candList f).foldl (fun b e =>
    if e.2.shadow.isSome ∧ (s.fan.follow[f].blend.map Blend.dest) ≠ some e.1 then
      match b with
      | some (_, q) => if e.2.score < q then some (e.1, e.2.score) else b
      | none => some (e.1, e.2.score)
    else b) none

/-- Candidate `i` becomes a shadow where there is room, or in place of one that it exceeds by HYST. -/
def State.offerShadow (s : State) (f : Fin 256) (i : Nat) : State :=
  match s.cand f i with
  | none => s
  | some k =>
    if (s.shadowsOf f).length < s.pol 51 then s.openShadow f i
    else
      match s.worstShadow f with
      | some (j, q) =>
        if s.pol 51 ≠ 0 ∧ q + s.pol 36 ≤ k.score then
          let s := match (s.cand f j).bind Cand.shadow with | some c => s.releaseShadow c | none => s
          s.openShadow f i
        else s
      | none => s

/-- Insert by falling key; equal keys stay in order. -/
def insertDesc {α : Type} (key : α → Nat) (a : α) : List α → List α
  | [] => [a]
  | b :: l => if key b < key a then a :: b :: l else b :: insertDesc key a l

/-- Sort by falling key. -/
def sortDesc {α : Type} (key : α → Nat) (l : List α) : List α := (l.foldl (fun acc a => insertDesc key a acc) [])

/-- Candidates that may become shadows, best first. -/
def State.shadowRank (s : State) (f : Fin 256) : List Nat :=
  (sortDesc (fun e : Nat × Cand => e.2.score)
    ((s.candList f).filter fun e => e.2.verified && !e.2.blocked && e.2.shadow.isNone && decide (e.2.score ≠ 0) && s.candUsable e.2)).map
    Prod.fst

/-- Shadows beyond MAX_SHADOW go, lowest score first; then the best candidates become shadows (R218, R224). -/
def State.shadows (s : State) (f : Fin 256) : State :=
  let s := (List.range (s.shadowsOf f).length).foldl (fun s _ =>
    if s.pol 51 < (s.shadowsOf f).length then
      match s.worstShadow f with
      | some (j, _) => match (s.cand f j).bind Cand.shadow with | some c => s.releaseShadow c | none => s
      | none => s
    else s) s
  (s.shadowRank f).foldl (fun s i => s.offerShadow f i) s

/-! ### Windows and probes (R220, R223, R224) -/

/-- Scan-bank level of a candidate's channel, the best of the antennas; the FM entries lie 50 kHz apart from 76 MHz (R137). -/
def State.scanLevel (s : State) (k : Cand) : Nat :=
  if k.std = 1 ∧ 76000000 ≤ k.freq.toNat then
    let i := (k.freq.toNat - 76000000) / 50000
    ((List.finRange 4).map fun a => match s.win.scanFm[a][i]? with
      | some e => (toSigned 2 e.level.toNat + 32768).toNat
      | none => 0).foldl max 0
  else 0

/-- The order in which candidates come onto runners (R224). -/
def State.bringKey (s : State) (k : Cand) : Nat :=
  b01 k.hard * 2 ^ 18 + b01 (k.piSeen || decide (3 ≤ k.std.toNat)) * 2 ^ 17 + s.scanLevel k

/-- Windows that the Fantail holds. -/
def State.fanWins (s : State) : List (Fin 64) := allIx fun w => decide (s.win.win[w].st ≠ 0) && s.win.win[w].fantail

/-- GRANT_WIN; larger values act as 16. -/
def State.grantWin (s : State) : Nat := min 16 (fld s.fan.ctl 8 5)

/-- Antennas for the Fantail's windows: those of FAN.CTL.ANT whose Headrace runs. -/
def State.fanAnts (s : State) : List (Fin 4) := (antsOf (fld s.fan.ctl 16 4)).filter fun a => s.cap.hr[a].running

/-- A granted runner of a standard that no window feeds. -/
def State.idleRunner (s : State) (std : Byte) : Option (Fin 32) :=
  firstIx fun r : Fin 32 => s.fan.grantRun.getLsbD r.val && presetRunner (stdPreset std) r.val && !s.runnerFed r

/-- A candidate is brought onto a runner: a window with the default split, the built-in bank and a DCAP of 0 opens for it. -/
def State.bring (s : State) (f : Fin 256) (i : Nat) : State :=
  match s.cand f i with
  | none => s
  | some k =>
    let p := stdPreset k.std
    let ants := s.fanAnts
    let split := defaultSplit p
    if k.runner.isSome ∨ s.grantWin ≤ s.fanWins.length ∨ ants.isEmpty = true ∨
        ants.any (fun a => !s.cap.hr[a].bandOk p k.freq.toNat) = true then s
    else
      match s.idleRunner k.std, firstIx fun w : Fin 64 => decide (s.win.win[w].st = 0), builtinTaps p split with
      | some r, some w, some t =>
        (s.openWin w { preset := p, runner := r, freq := k.freq.toNat, wide := presetWide p, ants := ants, split := split
                       bank := builtinBank p split.h t, shift := 8, dcap := 0, mu := 0, fantail := true }).getD s
      | _, _, _ => s

/-- A window that the Fantail holds for a standard and frequency, whether or not it has released output. -/
def State.windowFor (s : State) (std : Byte) (freq : W) : Option (Fin 64) :=
  s.fanWins.find? fun w => decide (s.win.win[w].preset = stdPreset std) && decide (s.win.win[w].freq = freq.toNat)

/-- Candidates of every followed context that wait for a runner, in the order of R224. -/
def State.bringOrder (s : State) : List (Fin 256 × Nat) :=
  let all := s.followed.flatMap fun f => (s.candList f).map fun e => (f, e.1, e.2)
  (sortDesc (fun e : Fin 256 × Nat × Cand => s.bringKey e.2.2)
    (all.filter fun e => e.2.2.runner.isNone && !e.2.2.blocked && (s.windowFor e.2.2.std e.2.2.freq).isNone)).map fun e => (e.1, e.2.1)

/-- Whether anything of the Fantail still needs a window: a followed context, a shadow or a candidate on its runner or frequency. -/
def State.winNeeded (s : State) (w : Fin 64) : Bool :=
  let x := s.win.win[w]
  !(s.ctxsOf x.runner).isEmpty ||
    s.followed.any fun f => (s.candList f).any fun e =>
      decide (stdPreset e.2.std = x.preset) && decide (e.2.freq.toNat = x.freq) && !e.2.blocked

/-- The Fantail's windows that it may not hold or does not need close at their next boundary. -/
def State.closeFanWins (s : State) : State :=
  let gone := s.fanWins.filter fun w => s.win.win[w].closing.isNone && (!s.fan.grantRun.getLsbD s.win.win[w].runner.val || !s.winNeeded w)
  gone.foldl (fun s w =>
    let s := (s.ctxsOf s.win.win[w].runner).foldl (fun s c => if s.svc.ctx[c].shadowOf.isSome then s.releaseShadow c else s) s
    s.modWin w fun x => { x with closing := some (true, none) }) s

/-- Highest-numbered windows beyond GRANT_WIN close. -/
def State.trimFanWins (s : State) : State :=
  (s.fanWins.drop s.grantWin).foldl (fun s w =>
    if s.win.win[w].closing.isSome then s
    else
      let s := (s.ctxsOf s.win.win[w].runner).foldl (fun s c => if s.svc.ctx[c].shadowOf.isSome then s.releaseShadow c else s) s
      s.modWin w fun x => { x with closing := some (true, none) }) s

/-- Checks of the Fantail in a probe runner's queue. -/
def FmState.fanProbes (f : FmState) : Nat := (f.probes.filter fun k => decide (k.tag = 0xFF)).length

/-- A lent runner whose queue takes another check of the Fantail (R220). -/
def State.probeRunner (s : State) (freq : W) : Option (Fin 32) :=
  firstIx fun r : Fin 32 =>
    let u := s.svc.run[r].fm
    isFm r && u.lent && decide (u.fanProbes < 4) && decide (u.probes.length < 16) &&
      match s.windowOf r with | some w => !s.tuneBad w freq.toNat | none => false

/-- The Fantail probes a frequency; the dwell, the floor and CONFIRM it uses the spec does not state. -/
def State.fanProbe (s : State) (freq : W) : State :=
  let now := s.sys.timeUs
  let recent := s.fan.probed.filter fun e => decide ((now - e.2).toNat < 60000000)
  let s : State := { s with fan := { s.fan with probed := recent } }
  if recent.any fun e => decide (e.1 = freq) then s
  else
    match s.probeRunner freq with
    | none => s
    | some r =>
      let k := s.freeCnt
      let check : ProbeCheck := { freq := freq, tag := 0xFF, confirm := decide (Config.freeNat k % 2 = 1)
                                  dwell := 20 + Config.freeNat (k + 1) % 481, floor := (Config.freeNat (k + 2) % 65536 : Nat) - 32768 }
      let s : State := { s with freeCnt := k + 3, fan := { s.fan with probed := (freq, now) :: s.fan.probed } }
      s.queueProbe r check

/-- Unverified FM candidates without a runner, in falling order of their level, are probed (R223). -/
def State.fanProbes (s : State) : State :=
  let all := s.followed.flatMap fun f => (s.candList f).map Prod.snd
  let wait := all.filter fun k => decide (k.std = 1) && !k.verified && k.runner.isNone && !k.blocked
  (sortDesc s.scanLevel wait).foldl (fun s k => s.fanProbe k.freq) s

/-! ### Estimators and delays (R230 to R237) -/

/-- A free estimator takes up the next shadow: contexts ascending, scores falling, one that timed out only after RETRY. -/
def State.assignEst (s : State) : State :=
  let busy := fun (s : State) (p : Fin 256 × Nat) => s.fan.est.toList.any fun e => decide (e.work = some p)
  let order := s.followed.flatMap fun f =>
    (sortDesc (fun e : Nat × Cand => e.2.score) ((s.candList f).filter fun e => e.2.shadow.isSome && !e.2.retry)).map fun e => (f, e.1)
  order.foldl (fun s p =>
    if busy s p then s
    else
      match firstIx fun e : Fin 4 => s.fan.est[e].work.isNone with
      | some e => s.modEst e fun _ => { work := some p }
      | none => s) s

/-- A shadow's delay is set as one step (R235 to R237). Refused by the pool, it raises source 68 and source 50 CODE 4 once. -/
def State.placeShadow (s : State) (f : Fin 256) (i peak : Nat) : State :=
  match s.cand f i with
  | none => s
  | some k =>
    let d := s.shadowDelay f k
    match k.shadow with
    | none => s
    | some c =>
      if d < 0 ∨ 288000 < d then s
      else
        match s.placeDelay c d.toNat false with
        | some t => t
        | none => ((s.poolRefused c d.toNat).alignEvent f 4 i peak).modCand f i fun k => { k with filled := false }

/-- The target of the playing stream's delay in frames (R237). -/
def State.delayTarget (s : State) (f : Fin 256) : Nat :=
  let l := s.candList f
  if l.any fun e => s.ready f e.2 then s.fan.follow[f].delayFrames
  else
    let lag := (l.filter fun e => e.2.converged && e.2.shadow.isSome).map fun e => e.2.lag.toNat
    min 288000 (lag.foldl max (48 * s.preLag))

/-- Frames by which the playing delay moves in a tick of 960 frames: at most SLEW times 0.05 %; how much of it the spec leaves to the
device, and `pace` says. -/
def slewStep (slew dist pace : Nat) : Nat := min dist (min pace (ceilDiv (48 * slew) 100))

/-- The playing stream's delay moves toward its target; converged shadows move with it. -/
def State.moveDelay (s : State) (f : Fin 256) (pace : Nat) : State :=
  let old := s.fan.follow[f].delayFrames
  let want := s.delayTarget f
  if old = want ∨ s.svc.ctx[f].st ≠ .running then s
  else
    let n := if old < want then old + slewStep (s.pol 47) (want - old) pace else old - slewStep (s.pol 47) (old - want) pace
    if n = old then s
    else
      match s.placeDelay f n true with
      | none => s
      | some t =>
        let t := t.modFollow f fun w => { w with delayFrames := n }
        (t.candList f).foldl (fun s e => if e.2.converged ∧ e.2.filled = true then s.placeShadow f e.1 0 else s) t

end Sys2Proof.Machine
end

