-- ==== Sys2Proof/Machine/Fantail.lean ====
section
/-!
DEFINITION. Meanings of the following commands and of the events of the Fantail (08_following.md).
-/

namespace Sys2Proof.Machine

/-! ### FAN_POLICY (R247) -/

/-- The one-byte settings with their ranges. -/
def policyBytes : List (Nat × Nat × Nat) :=
  (List.range 8).map (fun i => (24 + i, 0, 60)) ++ (List.range 4).map (fun i => (32 + i, 0, 55)) ++
  [(36, 0, 100), (37, 2, 20), (46, 5, 200), (47, 1, 20), (48, 30, 95), (49, 4, 60), (50, 10, 254), (51, 0, 4), (52, 0, 0x1F), (53, 1, 0x1F)]

/-- The two-byte settings with their ranges. -/
def policyWords : List (Nat × Nat × Nat) := [(38, 100, 30000), (40, 0, 60000), (42, 20, 2000), (44, 0, 6000)]

/-- The policy that a command gives: 0xFF and 0xFFFF keep what is set, a pending change included. -/
def State.newPolicy (s : State) (c : CmdEntry) : List Byte :=
  let old := s.fan.nextPolicy.getD s.fan.policy
  (List.range 32).map fun i =>
    let word := policyWords.any fun p => decide (p.1 = 24 + i ∨ p.1 + 1 = 24 + i)
    let base := 24 + i - i % 2
    let keep := if word then decide (c.u16 base = 0xFFFF) else decide (c.u8 (24 + i) = 0xFF)
    if 30 ≤ i then 0 else if keep then old.getD i 0 else byte (c.u8 (24 + i))

/-- FAN_POLICY: what it gives takes effect at the next scoring tick. -/
def bodyFanPolicy (c : CmdEntry) (s : State) : Answer :=
  let l := s.newPolicy c
  let one := policyBytes.map fun p => (decide (c.u8 p.1 ≠ 0xFF) && !within p.2.1 p.2.2 (c.u8 p.1), Status.range, p.1)
  let two := policyWords.map fun p => (decide (c.u16 p.1 ≠ 0xFFFF) && !within p.2.1 p.2.2 (c.u16 p.1), Status.range, p.1)
  let good := (List.range 4).map fun i =>
    (decide ((l.getD (2 * i + 1) 0).toNat ≤ (l.getD (2 * i) 0).toNat), Status.range, 25 + 2 * i)
  checked (byOffset (one ++ two ++ good ++ rsvdBytes c 54 55)) fun _ =>
    .done { s with fan := { s.fan with nextPolicy := some l } }

/-- FAN_POLICY (R247). -/
def execFanPolicy (c : CmdEntry) (s : State) : Host.Outcome State Fault Refusal := .next (s.runCmd 0x0401 c (bodyFanPolicy c))

/-! ### FAN_CAND and FAN_CANDS (R248, R249) -/

/-- The context that byte 24 names. -/
def cmdCtx (c : CmdEntry) : Fin 256 := Fin.ofNat 256 (c.u8 24)

/-- A context that does not have FOLLOW set gives E_STATE. -/
def State.noFollow (s : State) (f : Fin 256) : Bool × Status × Nat :=
  (!(s.svc.ctx[f].follow && decide (s.svc.ctx[f].st ≠ .free)), .state, 0)

/-- The host's entry joins the table, or an entry that is there becomes the host's. -/
def State.hostCand (s : State) (f : Fin 256) (std : Byte) (freq ident : W) (blocked : Bool) : Answer :=
  match s.findCand f std freq ident with
  | some i =>
    let s := s.modCand f i fun k => if blocked then { k with blocked := true } else { k with host := true }
    .ok s [byte i] none
  | none =>
    match s.freeCand f with
    | none => .fail .full 0
    | some i => .ok (s.addCand f i (newCand std freq ident 6 (decide (s.identOf f = ident)) true blocked)) [byte i] none

/-- FAN_CAND. -/
def bodyFanCand (c : CmdEntry) (s : State) : Answer :=
  let f := cmdCtx c
  let std := byte (c.u8 26)
  let freq := BitVec.ofNat 32 (c.u32 28)
  let ident := BitVec.ofNat 32 (c.u32 32)
  checked [(decide (3 < c.u8 25), .range, 25), (!within 1 5 (c.u8 26) || (decide (c.u8 25 = 0) && !s.stdOn std), .range, 26),
      (decide (c.u8 27 ≠ 0), .range, 27), s.noFollow f] fun _ =>
    match c.u8 25, s.findCand f std freq ident with
    | 0, _ => s.hostCand f std freq ident false
    | 2, _ => s.hostCand f std freq ident true
    | 1, some i =>
      match s.cand f i with
      | some k => if k.host then .ok (s.dropCand f i) [byte i] none else .fail .notfound 0
      | none => .fail .notfound 0
    | _, some i => .ok (s.modCand f i fun k => { k with blocked := false }) [byte i] none
    | _, none => .fail .notfound 0

/-- FAN_CAND (R248). -/
def execFanCand (c : CmdEntry) (s : State) : Host.Outcome State Fault Refusal := .next (s.runCmd 0x0402 c (bodyFanCand c))

/-- FLAGS of an entry of the image. -/
def State.candFlags (s : State) (f : Fin 256) (k : Cand) : Nat :=
  b01 k.verified + 2 * b01 k.converged + 4 * b01 (s.ready f k) + 8 * b01 k.hard + 16 * b01 k.host + 32 * b01 k.blocked +
    64 * b01 k.shadow.isSome + 128 * b01 k.piSeen

/-- q of 1/8 dB in 0.25 dB, rounded down. -/
def quarterDb (q : Int) : Int := q / 2

/-- An entry of the image (R249). -/
def State.candBytes (s : State) (f : Fin 256) (i : Nat) : List Byte :=
  match s.cand f i with
  | none => List.replicate 24 0
  | some k =>
    [k.std, byte (s.candFlags f k), sat8 k.score, k.origin] ++ leBytes 4 k.freq.toNat ++ leBytes 4 k.ident.toNat ++
    [match k.runner with | some r => byte r.val | none => 0xFF, k.locator] ++ leInt 2 (quarterDb k.q) ++
    (if k.converged then leInt 4 k.lag else [0, 0, 0, 0x80]) ++
    [match k.shadow with | some c => byte c.val | none => 0xFF, 0, 0, 0]

/-- Byte 3 of the header. -/
def Follow.stateCode (w : Follow) : Byte :=
  match w.blend with
  | some b => if b.dip then 2 else 1
  | none => if w.noCand then 3 else 0

/-- The image of FAN_CANDS (R249). -/
def State.candImage (s : State) (f : Fin 256) : List Byte :=
  let w := s.fan.follow[f]
  let ms := match w.lastSwitch with | some t => min (s.msSince t) (2 ^ 32 - 1) | none => 2 ^ 32 - 1
  [byte f.val, s.svc.ctx[f].gen, byte (s.candList f).length, w.stateCode] ++ leBytes 4 ms ++ List.replicate 8 0 ++
  (List.range 32).flatMap (s.candBytes f)

/-- FAN_CANDS. -/
def bodyFanCands (c : CmdEntry) (s : State) : Answer :=
  checked (rsvdBytes c 25 27 ++ [s.noFollow (cmdCtx c)]) fun _ => .ok s [] (some (s.candImage (cmdCtx c)))

/-- FAN_CANDS (R249). -/
def execFanCands (c : CmdEntry) (s : State) : Host.Outcome State Fault Refusal := .next (s.runCmd 0x0403 c (bodyFanCands c))

/-! ### FAN_SWITCH and FAN_FOLLOW (R217, R244, R245, R248) -/

/-- The switch that the host orders: naming the outgoing source of a running blend runs it back, naming its incoming one lets it run. -/
def State.hostSwitch (s : State) (f : Fin 256) (i : Nat) (k : Cand) : State :=
  match s.fan.follow[f].blend with
  | some b =>
    if s.isCurrent f k.std k.freq then s.loseIncoming f b.dest
    else if b.dest = i then s.modFollow f fun w => { w with blend := some { b with reversed := false } }
    else s.startSwitch f i 3 (s.pol16 42)
  | none => s.startSwitch f i 3 (s.pol16 42)

/-- FAN_SWITCH. -/
def bodyFanSwitch (c : CmdEntry) (s : State) : Answer :=
  let f := cmdCtx c
  let k := s.cand f (c.u8 25)
  let back := match k, s.fan.follow[f].blend with | some k, some _ => s.isCurrent f k.std k.freq | _, _ => false
  let notReady := match k with | some k => decide (c.u8 26 = 0) && !back && !s.ready f k | none => false
  let noRunner := match k with | some k => k.blocked || (!back && !(s.candUsable k && s.canDip f k)) | none => false
  checked [(decide (31 < c.u8 25), .range, 25), (decide (1 < c.u8 26), .range, 26), (decide (c.u8 27 ≠ 0), .range, 27), s.noFollow f,
      (k.isNone, .notfound, 0), (notReady, .notready, 0), (noRunner, .state, 0)] fun _ =>
    match k with
    | some k => .done (s.hostSwitch f (c.u8 25) k)
    | none => .fail .notfound 0

/-- FAN_SWITCH (R248). -/
def execFanSwitch (c : CmdEntry) (s : State) : Host.Outcome State Fault Refusal := .next (s.runCmd 0x0404 c (bodyFanSwitch c))

/-- FOLLOW becomes 1. -/
def State.beginFollow (s : State) (f : Fin 256) : State :=
  if s.svc.ctx[f].follow then s else (s.modCtx f fun x => { x with follow := true }).modFollow f fun _ => {}

/-- FAN_FOLLOW. -/
def bodyFanFollow (c : CmdEntry) (s : State) : Answer :=
  let f := cmdCtx c
  let x := s.svc.ctx[f]
  let on := decide (c.u8 25 = 1)
  checked ((decide (1 < c.u8 25) || (on && decide (x.st ≠ .free) && decide (x.kind ≠ 0)), .range, 25) :: rsvdBytes c 26 27 ++
      [(decide (x.st = .free), .state, 0), (on && !x.follow && decide (16 ≤ s.followed.length), .nores, 0)]) fun _ =>
    .done (if on then s.beginFollow f else if x.follow then s.endFollow f else s)

/-- FAN_FOLLOW (R217, R248). -/
def execFanFollow (c : CmdEntry) (s : State) : Host.Outcome State Fault Refusal := .next (s.runCmd 0x0405 c (bodyFanFollow c))

/-! ### FAN.CTL.EN (R251) -/

/-- Shadows that no running blend brings in. -/
def State.idleShadows (s : State) : List (Fin 256) :=
  allIx fun c : Fin 256 => decide (s.svc.ctx[c].st ≠ .free) && decide (s.svc.ctx[c].st ≠ .closing) &&
    match s.svc.ctx[c].shadowOf with
    | none => false
    | some f =>
      match s.fan.follow[f].blend with
      | none => true
      | some b => match s.cand f b.dest with | some k => decide (k.shadow ≠ some c) | none => true

/-- The Fantail is off: shadows and windows are released, running blends finish first. -/
def State.fanOff (s : State) : State :=
  let s := s.idleShadows.foldl State.releaseShadow s
  (s.fanWins.filter fun w => s.win.win[w].closing.isNone && (s.ctxsOf s.win.win[w].runner).all fun c => decide (s.svc.ctx[c].st = .closing)).foldl
    (fun s w => s.modWin w fun x => { x with closing := some (true, none) }) s

/-- FAN_DISABLE (R251): the write that clears EN. -/
def execFanDisable (value : W) (s : State) : Host.Outcome State Fault Refusal :=
  .next (({ s with fan := { s.fan with ctl := value &&& 0x000F1F00 } }).fanOff)

/-! ### The scoring tick (R220 to R228, R237) -/

/-- A policy that waits takes effect. -/
def State.adoptPolicy (s : State) : State :=
  match s.fan.nextPolicy with
  | none => s
  | some l => { s with fan := { s.fan with policy := l, nextPolicy := none } }

/-- The current source and every candidate are judged and scored (R223, R225). -/
def State.scoreFor (s : State) (f : Fin 256) : State :=
  let r := s.svc.ctx[f].runner
  let q := s.runnerQ r
  let good := decide (s.th8 (s.stdOf r) ≤ q)
  let s := s.modFollow f fun w => { w with
    curQ := q, curScore := s.scoreOf (s.stdOf r) q, failed := w.failed && !good }
  (List.range 32).foldl (fun s i => s.judgeCand f i) s

/-- The candidates that signalling yields (R221). -/
def State.signalAll (s : State) : State :=
  let s := s.takeSignals
  s.followed.foldl (fun s f => (s.signals f).foldl (fun s k => s.signal f k) s) s

/-- The scoring tick of the Fantail while it is on. -/
def State.fanTick (s : State) (pace : List Nat) : State :=
  let s := s.signalAll
  let s := s.followed.foldl State.scoreFor s
  let s := s.closeFanWins.trimFanWins
  let s := if s.below 2 ∨ s.onFio = true then s else s.bringOrder.foldl (fun s p => s.bring p.1 p.2) s
  let s := s.fanProbes
  let s := s.followed.foldl State.shadows s
  let s := s.assignEst
  let s := s.followed.foldl (fun s f => s.moveDelay f (pace.getD f.val 0)) s
  let s := s.followed.foldl State.decideFor s
  s.followed.foldl (fun s f => s.modFollow f fun w => { w with gapped := false }) s

/-- FAN_SCORE_TICK (R225): steward pair A runs the Fantail; `pace` holds, by context number, the frames by which the device moves a playing
delay in this tick, which R237 bounds only. -/
def execFanScoreTick (pace : List Nat) (s : State) : Host.Outcome State Fault Refusal :=
  .next (if s.pairRuns 0 then
    let s := s.adoptPolicy
    if s.fan.ctl.getLsbD 0 then s.fanTick pace else s.fanOff
  else s)

/-- FAN_HOLD_BAD_EXPIRY (R226, R244): q has stayed below TH for HOLD_BAD; during a blend the incoming source is the one that fails if
its q is below. -/
def execFanHoldBadExpiry (ctx : Fin 256) (s : State) : Host.Outcome State Fault Refusal :=
  let fail := s.modFollow ctx fun w => { w with failed := true }
  let r := s.svc.ctx[ctx].runner
  let cur := if s.runnerQ r < s.th8 (s.stdOf r) then fail else s
  .next (if s.svc.ctx[ctx].follow then
    match s.fan.follow[ctx].blend with
    | none => cur
    | some b =>
      match s.cand ctx b.dest with
      | none => cur
      | some k =>
        let q := match s.demod ctx k with | some r => s.runnerQ r | none => k.q
        if q < s.th8 k.std then s.loseIncoming ctx b.dest else cur
  else s)

/-- FAN_DWELL_GOOD_EXPIRY (R228): the candidate switches once MIN_STAY has passed and no blend runs. -/
def execFanDwellGoodExpiry (ctx : Fin 256) (ix : Fin 32) (s : State) : Host.Outcome State Fault Refusal :=
  .next (match s.cand ctx ix.val with
    | none => s
    | some k =>
      if s.svc.ctx[ctx].follow ∧ s.fan.ctl.getLsbD 0 = true ∧ s.margin ctx k = true then
        (s.modFollow ctx fun w => { w with dwellOk := some ix.val }).improve ctx
      else s)

/-- FAN_CAND_EXPIRY (R221): a candidate whose signalling has been absent for 60 s goes, but the host's entries stay. -/
def execFanCandExpiry (ctx : Fin 256) (ix : Fin 32) (s : State) : Host.Outcome State Fault Refusal :=
  .next (match s.cand ctx ix.val with
    | none => s
    | some k => if k.host = true ∨ s.fresh k.stamp = true then s else s.dropCand ctx ix.val)

/-- FAN_PI_SEEN_EXPIRY (R223). -/
def execFanPiSeenExpiry (ctx : Fin 256) (ix : Fin 32) (s : State) : Host.Outcome State Fault Refusal :=
  .next (s.modCand ctx ix.val fun k => { k with piSeen := false })

/-! ### Alignment (R230 to R236) -/

/-- CORR_MIN in 0.01. -/
def State.corrMin (s : State) : Nat := s.pol 48

/-- Lmax in ms: 250 ms for a candidate of the current standard and identifier, else 6 s (R230). -/
def State.lagMax (s : State) (f : Fin 256) (k : Cand) : Nat :=
  if k.std = s.stdOf s.svc.ctx[f].runner ∧ k.ident = s.identOf f then 250 else 6000

/-- An estimate is skipped: the envelope of either stream is too flat or too faint (R231). -/
def alignSkip (o : AlignObs) : Bool :=
  decide (o.oldDev < 100) || decide (o.newDev < 100) || decide (o.oldMean < -6000) || decide (o.newMean < -6000)

/-- The lag of the highest value, the first among equals, with that value. -/
def highest (l : List (Int × Nat)) : Int × Nat :=
  l.foldl (fun b e => if b.2 < e.2 then e else b) (l.headD (0, 0))

/-- A coarse estimate (R230, R231): its lag in ms, its normalised peak in 0.01, whether the peak is at least 1.25 times the highest value
more than 50 ms away, and whether it lies within 50 ms of ±Lmax. -/
structure Estimate where
  lag : Int
  peak : Nat
  distinct : Bool
  nearEdge : Bool
  deriving DecidableEq, Repr

/-- The coarse estimate over the lags −Lmax to +Lmax. -/
def alignEstimate (o : AlignObs) (lmax : Nat) : Estimate :=
  let l := o.coarse.filter fun e => decide (e.1.natAbs ≤ lmax)
  let b := highest l
  { lag := b.1, peak := b.2, nearEdge := decide (lmax ≤ b.1.natAbs + 50)
    distinct := (l.filter fun e => decide (50 < (e.1 - b.1).natAbs)).all fun e => decide (5 * e.2 ≤ 4 * b.2) }

/-- The fine estimate, within 96 samples of a lag (R232). -/
def alignFine (o : AlignObs) (lag : Int) : Int × Nat := highest (o.fine.filter fun e => decide ((e.1 - lag).natAbs ≤ 96))

/-- The incoming stream's level minus the outgoing stream's over the last coarse segments, in 0.25 dB (R238). -/
def alignLevel (o : AlignObs) : Int := quotAt 238 (o.newMean - o.oldMean) 25

/-- The history that the first coarse estimate needs is there: 4 s and Lmax of the shadow's audio (R230). -/
def State.historyOk (s : State) (f : Fin 256) (k : Cand) : Bool :=
  match k.shadow with
  | none => false
  | some c => decide (4000 + s.lagMax f k ≤ s.svc.ctx[c].delivered.toNat)

/-- A coarse estimate (R230, R231): two that meet every condition and agree within ±2 ms converge, and the delay is requested. -/
def State.coarseTick (s : State) (e : Fin 4) (f : Fin 256) (i : Nat) (k : Cand) (o : AlignObs) : State :=
  let x := alignEstimate o (s.lagMax f k)
  let ok := decide (s.corrMin ≤ x.peak) && x.distinct && !x.nearEdge
  let s := s.modEst e fun y => if y.best < x.peak then { y with best := x.peak, edge := x.nearEdge } else y
  if ok then
    match s.fan.est[e].coarse with
    | some l =>
      if (x.lag - l).natAbs ≤ 2 then
        let s := (s.modEst e fun y => { y with coarse := some x.lag, fine := true }).modCand f i fun k => { k with
          lag := 48 * x.lag, level := alignLevel o, filled := false }
        s.placeShadow f i x.peak
      else s.modEst e fun y => { y with coarse := some x.lag }
    | none => s.modEst e fun y => { y with coarse := some x.lag }
  else s.modEst e fun y => { y with coarse := none }

/-- A fine estimate before convergence (R232). -/
def State.fineTick (s : State) (e : Fin 4) (f : Fin 256) (i : Nat) (k : Cand) (o : AlignObs) : State :=
  let x := alignFine o k.lag
  if s.corrMin ≤ x.2 then
    let s := s.modCand f i fun k => { k with converged := true, lag := x.1, level := alignLevel o }
    let s := (s.modEst e fun y => { y with short := 0 }).placeShadow f i x.2
    s.alignEvent f 0 i x.2
  else s

/-- A fine estimate of a converged shadow (R233). -/
def State.trackTick (s : State) (e : Fin 4) (f : Fin 256) (i : Nat) (k : Cand) (o : AlignObs) : State :=
  let x := alignFine o k.lag
  if s.corrMin ≤ x.2 then
    let s := (s.modEst e fun y => { y with short := 0 }).modCand f i fun k => { k with level := alignLevel o }
    if 1 < (x.1 - k.lag).natAbs then (s.modCand f i fun k => { k with lag := x.1 }).placeShadow f i x.2 else s
  else
    let n := s.fan.est[e].short + 1
    let s := s.modEst e fun y => { y with short := n }
    if 10 ≤ n then s.alignLost f i x.2 else s

/-- ALIGN_TICK (R230 to R233): one estimate each second; one that must be skipped, or for which the history is short, changes nothing. -/
def execAlignTick (e : Fin 4) (o : AlignObs) (s : State) : Host.Outcome State Fault Refusal :=
  .next (match s.fan.est[e].work with
    | none => s
    | some (f, i) =>
      match s.cand f i with
      | none => s
      | some k =>
        if alignSkip o = true ∨ k.shadow.isNone = true then s
        else if k.converged then s.trackTick e f i k o
        else if s.fan.est[e].fine then s.fineTick e f i k o
        else if s.historyOk f k then s.coarseTick e f i k o
        else s)

/-- ALIGN_COARSE_CHECK (R233): more than 20 ms from the held lag, the alignment is lost. -/
def execAlignCoarseCheck (e : Fin 4) (o : AlignObs) (s : State) : Host.Outcome State Fault Refusal :=
  .next (match s.fan.est[e].work with
    | none => s
    | some (f, i) =>
      match s.cand f i with
      | none => s
      | some k =>
        let x := alignEstimate o (s.lagMax f k)
        if alignSkip o = false ∧ 960 < (48 * x.lag - k.lag).natAbs then s.alignLost f i x.peak else s)

/-- ALIGN_TIMEOUT (R234): CODE 3 when the highest peak lay near ±Lmax, else CODE 1; the estimator is freed. -/
def execAlignTimeout (e : Fin 4) (s : State) : Host.Outcome State Fault Refusal :=
  .next (match s.fan.est[e].work with
    | none => s
    | some (f, i) =>
      match s.cand f i with
      | none => s
      | some k =>
        if k.converged then s
        else
          let x := s.fan.est[e]
          let s := s.alignEvent f (if x.edge then 3 else 1) i x.best
          (s.modCand f i fun k => { k with retry := true }).modEst e fun _ => {})

/-- ALIGN_RETRY (R234): an estimator may take up the shadow again. -/
def execAlignRetry (ctx : Fin 256) (ix : Fin 32) (s : State) : Host.Outcome State Fault Refusal :=
  .next ((s.modCand ctx ix.val fun k => { k with retry := false }).assignEst)

/-- SHADOW_DELAY_FILLED (R236): the delay line holds the delay. -/
def execShadowDelayFilled (ctx : Fin 256) (ix : Fin 32) (s : State) : Host.Outcome State Fault Refusal :=
  .next (match s.cand ctx ix.val with
    | none => s
    | some k =>
      match k.shadow with
      | none => s
      | some c =>
        let d := s.shadowDelay ctx k
        if 0 ≤ d ∧ d ≤ 288000 ∧ s.hasLine c d.toNat = true ∧ s.poolFrames c ≤ s.svc.ctx[c].line.length then s.modCand ctx ix.val fun k => { k with filled := true } else s)

/-! ### Gaps and the ends of switches (R229, R238 to R243) -/

/-- Milliseconds that a blend has left. -/
def State.blendLeft (s : State) (b : Blend) : Nat := b.ms - s.msSince b.started

/-- Milliseconds until a gap seen at the input of a stream's delay line reaches its output (R241). -/
def State.gapMs (s : State) (c : Fin 256) (atOutput : Bool) : Nat := if atOutput then 0 else s.poolFrames c / 48

/-- The shadow that a blend brings in. -/
def State.blendShadow (s : State) (f : Fin 256) (b : Blend) : Option (Fin 256) := (s.cand f b.dest).bind Cand.shadow

/-- A gap while a blend runs (R243). -/
def State.gapInBlend (s : State) (f : Fin 256) (b : Blend) (incoming atOutput : Bool) : State :=
  let ms := match incoming, s.blendShadow f b with
    | true, some c => s.gapMs c atOutput
    | true, none => 0
    | false, _ => s.gapMs f atOutput
  if b.dip ∨ b.reversed = true ∨ s.blendLeft b ≤ ms then s
  else if incoming then s.loseIncoming f b.dest
  else
    let left := if ms < 5 then ms else ms - 1
    s.modFollow f fun w => { w with blend := some { b with ms := s.msSince b.started + left, short := true } }

/-- A gap of the playing stream with a READY shadow: a switch with reason 2, over before the gap is heard, or from its first frame (R241). -/
def State.gapSwitch (s : State) (f : Fin 256) (i ms : Nat) : State :=
  let r := ms - 1
  if r < 5 then
    (s.startSwitch f i 2 5).modFollow f fun w => { w with blend := w.blend.map fun b => { b with wait := 48 * ms } }
  else s.startSwitch f i 2 (min (s.pol16 42) r)

/-- FAN_GAP (R241, R243, R226). -/
def execFanGap (ctx : Fin 256) (incoming atOutput : Bool) (s : State) : Host.Outcome State Fault Refusal :=
  .next (if s.svc.ctx[ctx].follow then
    match s.fan.follow[ctx].blend with
    | some b => s.gapInBlend ctx b incoming atOutput
    | none =>
      if incoming then s
      else
        match s.best ctx fun k => s.ready ctx k && !k.blocked with
        | some i => if s.fan.ctl.getLsbD 0 then s.gapSwitch ctx i (s.gapMs ctx atOutput) else s
        | none => if s.gapMs ctx atOutput = 0 then s.modFollow ctx fun w => { w with gapped := true } else s
  else s)

/-- The switch of one kind that runs ends; with the Fantail off, what it still held is released. -/
def State.switchEnds (s : State) (f : Fin 256) (dip : Bool) : State :=
  match s.fan.follow[f].blend with
  | none => s
  | some b =>
    if b.dip = dip then
      let s := s.endSwitch f
      if s.fan.ctl.getLsbD 0 then s else s.fanOff
    else s

/-- BLEND_END (R229, R238). -/
def execBlendEnd (ctx : Fin 256) (s : State) : Host.Outcome State Fault Refusal := .next (s.switchEnds ctx false)

/-- DIP_END (R229, R239). -/
def execDipEnd (ctx : Fin 256) (s : State) : Host.Outcome State Fault Refusal := .next (s.switchEnds ctx true)

end Sys2Proof.Machine
end

