-- ==== Sys2Proof/Machine/Bulletin.lean ====
section
/-!
DEFINITION. Meanings of the bulletin commands and of the events of bulletins (09_bulletins.md).
-/

namespace Sys2Proof.Machine

/-! ### BUL_CFG and BUL_KEY (R252, R269) -/

/-- A fleet ID that is illegal. -/
def fleetBad (n : Nat) : Bool := decide (n = 0) || decide (n = 2 ^ 64 - 1)

/-- Another fleet ID empties the store, the counters and the reassemblies. -/
def BulBlk.setFleet (b : BulBlk) (f : D) : BulBlk :=
  if b.fleetId = f then b
  else { b with fleetId := f, store := Vector.replicate 128 {}, ctr := Vector.replicate 4 0, reasm := Vector.replicate 2 none }

/-- BUL_CFG. -/
def bodyBulCfg (c : CmdEntry) (s : State) : Answer :=
  let f := BitVec.ofNat 64 (c.u64 24)
  checked ([(fleetBad (c.u64 24), .range, 24), (decide (15 < c.u8 32), .range, 32)] ++ rsvdBytes c 33 35 ++
      [(s.bul.keysLocked && decide (s.bul.fleetId ≠ f), .locked, 0)]) fun _ =>
    .done (s.modBulBlk fun b => { b.setFleet f with wakeMask := BitVec.ofNat 4 (c.u8 32) })

/-- BUL_CFG (R252). -/
def execBulCfg (c : CmdEntry) (s : State) : Host.Outcome State Fault Refusal := .next (s.runCmd 0x0601 c (bodyBulCfg c))

/-- BUL_KEY: WRITE loads a slot, LOCK locks both. -/
def bodyBulKey (c : CmdEntry) (s : State) : Answer :=
  let write := decide (c.u8 25 % 2 = 1)
  let slot : Fin 2 := Fin.ofNat 2 (c.u8 24)
  checked ([(decide (c.bufIn ≠ write), .badlen, 0), (decide (1 < c.u8 24), .range, 24), (decide (3 < c.u8 25), .range, 25)] ++
      rsvdBytes c 26 27 ++ [(s.bul.keysLocked, .locked, 0)]) fun _ =>
    .done (s.modBulBlk fun b => { b with
      keys := if write then upd b.keys slot fun _ => some (slice c.buf 0 pubLen) else b.keys
      keysLocked := decide (2 ≤ c.u8 25) })

/-- BUL_KEY (R252). -/
def execBulKey (c : CmdEntry) (s : State) : Host.Outcome State Fault Refusal := .next (s.runCmd 0x0602 c (bodyBulKey c))

/-! ### BUL_WATCH (R266, R269) -/

/-- BUL_WATCH. -/
def bodyBulWatch (c : CmdEntry) (s : State) : Answer :=
  let p := c.u8 26
  let r : Fin 32 := Fin.ofNat 32 (c.u8 27)
  let a : Fin 4 := Fin.ofNat 4 (c.u8 25)
  let comp := BitVec.ofNat 32 (c.u32 32)
  checked ([(decide (1 < c.u8 24), .range, 24), (decide (3 < c.u8 25), .range, 25), (!within 1 5 p, .range, 26),
      (decide (31 < c.u8 27) || !presetRunner p (c.u8 27) || !kindServed r 5, .range, 27),
      (!s.cap.hr[a].bandOk p (c.u32 28), .range, 28), (!compOk r 5 comp, .range, 32), (decide (c.u16 36 < 60), .range, 36),
      (!within 10 600 (c.u16 38), .range, 38)] ++ rsvdBytes c 44 47) fun _ =>
    .done (s.modBulBlk fun b => { b with
      watchEn := decide (c.u8 24 = 1), watchAnt := byte (c.u8 25), watchPreset := byte p, watchRunner := byte (c.u8 27)
      watchFreq := BitVec.ofNat 32 (c.u32 28), watchComp := comp, watchPeriod := BitVec.ofNat 16 (c.u16 36)
      watchLength := BitVec.ofNat 16 (c.u16 38), watchAnchor := BitVec.ofNat 32 (c.u32 40) })

/-- BUL_WATCH (R269). -/
def execBulWatch (c : CmdEntry) (s : State) : Host.Outcome State Fault Refusal := .next (s.runCmd 0x0603 c (bodyBulWatch c))

/-! ### BUL_LIST, BUL_READ and BUL_RELEASE (R269, R270) -/

/-- A record entry of the image. -/
def BulRec.entry (r : BulRec) : List Byte :=
  if r.st = 0 then List.replicate 16 0
  else
    [r.st.setWidth 8, r.kind, byte (b01 r.pending + 2 * b01 r.unchecked + 4 * b01 r.wakeRaised), r.transport] ++ leBytes 4 r.seq.toNat ++
      leBytes 4 r.bytes.length ++ leBytes 4 r.acceptedAt.toNat

/-- The image of BUL_LIST (R270). -/
def State.bulImage (s : State) : List Byte :=
  let b := s.bul
  let n := (allIx fun r : Fin 128 => decide (b.store[r].st ≠ 0)).length
  leBytes 8 b.fleetId.toNat ++ b.ctr.toList.flatMap (fun w => leBytes 4 w.toNat) ++ leBytes 4 b.free ++
  [byte n, byte (b01 b.keysLocked + 2 * b01 b.keys[0].isSome + 4 * b01 b.keys[1].isSome + 8 * b01 s.sys.rtcSet), 0, 0] ++
  b.store.toList.flatMap BulRec.entry

/-- BUL_LIST. -/
def bodyBulList (c : CmdEntry) (s : State) : Answer := checked (rsvdBytes c 24 27) fun _ => .ok s [] (some s.bulImage)

/-- BUL_LIST (R270). -/
def execBulList (c : CmdEntry) (s : State) : Host.Outcome State Fault Refusal := .next (s.runCmd 0x0604 c (bodyBulList c))

/-- The record that byte 24 names. -/
def cmdRec (c : CmdEntry) : Fin 128 := Fin.ofNat 128 (c.u8 24)

/-- BUL_READ: NEW becomes READ. -/
def bodyBulRead (c : CmdEntry) (s : State) : Answer :=
  let r := s.bul.store[cmdRec c]
  checked ((decide (127 < c.u8 24), .range, 24) :: rsvdBytes c 25 27 ++
      [(decide (r.st = 0), .notfound, 0), (decide (c.bufLen.toNat < r.bytes.length), .range, 16)]) fun _ =>
    .ok (s.modBul (cmdRec c) fun r => { r with st := if r.st = 1 then 2 else r.st }) (leBytes 4 r.bytes.length) (some r.bytes)

/-- BUL_READ (R269). -/
def execBulRead (c : CmdEntry) (s : State) : Host.Outcome State Fault Refusal := .next (s.runCmd 0x0605 c (bodyBulRead c))

/-- A record is released. -/
def BulRec.release (r : BulRec) : BulRec := if r.st = 0 then r else { r with st := 3 }

/-- BUL_RELEASE. -/
def bodyBulRelease (c : CmdEntry) (s : State) : Answer :=
  let every := decide (c.u8 25 = 1)
  checked ([(decide (127 < c.u8 24), .range, 24), (decide (1 < c.u8 25), .range, 25)] ++ rsvdBytes c 26 27 ++
      [(!every && decide (s.bul.store[cmdRec c].st = 0), .notfound, 0)]) fun _ =>
    .done (if every then s.modBulBlk fun b => { b with store := b.store.map BulRec.release } else s.modBul (cmdRec c) BulRec.release)

/-- BUL_RELEASE (R269). -/
def execBulRelease (c : CmdEntry) (s : State) : Host.Outcome State Fault Refusal := .next (s.runCmd 0x0606 c (bodyBulRelease c))

/-! ### Segments (R256 to R265) -/

/-- Transport and SEG_LEN limit of a runner (R257, R270). -/
def segTransport (r : Fin 32) : Byte × Nat := if isFm r then (1, 128) else if isDrm r then (2, 4096) else (0, 4096)

/-- BUL_SEGMENT (R259): a data group that R257 discards carries none. -/
def execBulSegment (o : SegObs) (s : State) : Host.Outcome State Fault Refusal :=
  .next (if s.carries o.runner = true ∧ s.saf.safe = false then
    match bulletinOf o.group with
    | some b => s.bulSegment b (segTransport o.runner).1 (segTransport o.runner).2
    | none => s
  else s)

/-- BUL_REASSEMBLY_TIMEOUT (R260): 24 h of device time since the first segment. -/
def execBulReassemblyTimeout (b : Fin 2) (s : State) : Host.Outcome State Fault Refusal :=
  .next (match s.bul.reasm[b] with
    | none => s
    | some r =>
      if (s.sys.timeUs - r.first).toNat < 86400000000 then s else (s.setReasm b none).bulRejected 7 r.kind.toNat r.seq.toNat)

/-- BUL_NOT_BEFORE (R262, R265). -/
def execBulNotBefore (r : Fin 128) (s : State) : Host.Outcome State Fault Refusal := .next (s.bulDue r)

/-! ### Reception windows in WATCH (R98, R266, R267) -/

/-- The antenna of BUL_WATCH. -/
def State.watchAntenna (s : State) : Fin 4 := Fin.ofNat 4 s.bul.watchAnt.toNat

/-- BUL_WINDOW_PREP (R267 step 1, R400): PL2 is requested, the PLL and the Headrace start. -/
def execBulWindowPrep (s : State) : Host.Outcome State Fault Refusal :=
  .next (if s.pwr.st = .watch ∧ s.bul.watchEn = true ∧ s.bul.winStep = 0 ∧ s.pwr.waking.isNone = true then
    let n := s.watchAntenna
    let s := (s.modBulBlk fun b => { b with winStep := 1 }).requestVolt (levelMv 2)
    let s := s.modClk fun c => { c with pllOn := true, good := 0 }
    s.startHr n (BitVec.ofNat 4 s.cap.hr[n].gainInit) (s.cap.hr[n].ctl.getLsbD 0)
  else s)

/-- BUL_FEED_ON (R98): a feed that is on in RUN. -/
def execBulFeedOn (s : State) : Host.Outcome State Fault Refusal :=
  .next (if s.bul.winStep = 1 then
    let s := s.modBulBlk fun b => { b with winStep := 2 }
    s.modFeed s.watchAntenna fun f => if f.wanted = true ∧ f.st ≠ .shutoff then f.rampUp s.sys.timeUs else f
  else s)

/-- What the reception window opens. -/
def State.watchReq (s : State) : WinReq :=
  let p := s.bul.watchPreset.toNat
  { preset := p, runner := Fin.ofNat 32 s.bul.watchRunner.toNat, freq := s.bul.watchFreq.toNat, wide := presetWide p, ants := [s.watchAntenna]
    split := defaultSplit p, bank := builtinBank p 0 ((builtinTaps p (defaultSplit p)).getD 0), shift := 8, dcap := 0, mu := 0
    fantail := false }

/-- A reception window opens at this RTC second: (t − ANCHOR) mod PERIOD is 0 (R266). -/
def State.windowSecond (s : State) : Bool := decide (((s.rtc : Int) - s.bul.watchAnchor.toNat) % (s.bul.watchPeriod.toNat : Int) = 0)

/-- BUL_WINDOW_OPEN (R266, R267 step 3): a Sluice window commits; with PL2 not acknowledged nothing can. -/
def execBulWindowOpen (s : State) : Host.Outcome State Fault Refusal :=
  .next (if s.bul.winStep = 2 ∧ s.pwr.level = 2 ∧ s.pwr.st = .watch ∧ s.windowSecond = true then
    match firstIx fun w : Fin 64 => decide (s.win.win[w].st = 0) with
    | none => s
    | some w =>
      match s.openWin w s.watchReq with
      | none => s
      | some t => t.modBulBlk fun b => { b with winStep := 3 }
  else s)

/-- BUL_WINDOW_CLOSE (R267 step 4): reception stops, the feed goes off, and in WATCH the level returns to PL0. -/
def execBulWindowClose (s : State) : Host.Outcome State Fault Refusal :=
  .next (if s.bul.winStep = 0 then s
  else
    let n := s.watchAntenna
    let r : Fin 32 := Fin.ofNat 32 s.bul.watchRunner.toNat
    let s := match s.windowOf r with | some w => s.closeWin w | none => s
    let s := (s.stopHr n).modFeed n fun f => f.off s.sys.timeUs .off
    let s := s.modBulBlk fun b => { b with winStep := 0 }
    if s.pwr.st = .watch ∧ s.pwr.waking.isNone = true then
      let old := s.pwr.level
      let s := s.pllStop.modPwr fun p => { p with level := 0 }
      let s := if old = 0 then s else s.levelEvent 0 old
      s.requestVolt 700
    else s)

end Sys2Proof.Machine
end

