-- ==== Sys2Proof/Machine/Audio.lean ====
section
/-!
DEFINITION. Meanings of the audio commands and of the events of the Tailrace (10_audio_ports.md): TDM ports, slips, queues, output
streams and microphones.
-/

namespace Sys2Proof.Machine

/-! ### Ports (R273 to R276, R282, R297) -/

/-- The port that byte 24 names. -/
def cmdPort (c : CmdEntry) : Fin 4 := Fin.ofNat 4 (c.u8 24)

/-- A mask has bits at or above SLOTS (R282). -/
def maskBeyond (mask slots : Nat) : Bool := decide (2 ^ slots ≤ mask)

/-- Ports of a group (R276). -/
def State.groupPorts (s : State) (g : Fin 5) : List (Fin 4) := allIx fun p : Fin 4 => decide (s.aud.ports[p].clksrc.val = g.val)

/-- The group of a port. -/
def State.portGroup (s : State) (p : Fin 4) : Fin 5 := s.aud.ports[p].clksrc.castSucc

/-- CLKSRC is 0 to 3 and names the port itself or one that uses its own pins. -/
def State.clkSrcOk (s : State) (n : Fin 4) (k : Nat) : Bool :=
  match ix 4 k with
  | none => false
  | some k => decide (k = n) || decide (s.aud.ports[k].clksrc = k)

/-- AUD_PORT (R297). -/
def bodyAudPort (c : CmdEntry) (s : State) : Answer :=
  let n := cmdPort c
  let slots := c.u8 25
  checked ([(decide (3 < c.u8 24), .range, 24), (!within 1 16 slots, .range, 25), (decide (2 < c.u8 26), .range, 26),
      (decide (0x1F < c.u8 27 ∨ (c.u8 27 % 2 = 1 ∧ slots % 2 = 1)), .range, 27), (!s.clkSrcOk n (c.u8 28), .range, 28)] ++
      rsvdBytes c 29 31 ++
      [(maskBeyond (c.u16 32) slots, .range, 32), (maskBeyond (c.u16 34) slots, .range, 34),
       (decide (s.aud.ports[n].st ≠ 0) ||
          (List.finRange 4).any (fun k => decide (s.aud.ports[k].clksrc = n) && decide (s.aud.ports[k].st ≠ 0)), .state, 0)])
    fun _ => .done (s.modPort n fun p => { p with
      slots := slots, width := BitVec.ofNat 2 (c.u8 26), format := byte (c.u8 27), clksrc := Fin.ofNat 4 (c.u8 28)
      setUp := true, tx := BitVec.ofNat 16 (c.u16 32), rx := BitVec.ofNat 16 (c.u16 34), nextMasks := [], nextMap := [] })

/-- AUD_PORT (R297). -/
def execAudPort (c : CmdEntry) (s : State) : Host.Outcome State Fault Refusal := .next (s.runCmd 0x0501 c (bodyAudPort c))

/-- A slot source of R273. -/
def slotSourceOk (v : Nat) : Bool := decide (v ≤ 0x47) || decide (v = 0x80) || decide (v = 0xFF)

/-- The port runs: settings take effect at a frame boundary. -/
def Port.runs (p : Port) : Bool := decide (p.st = 3 ∨ p.st = 4)

/-- AUD_SLOTMAP (R273): at once on a port that does not run, else at the next frame boundary. -/
def bodyAudSlotmap (c : CmdEntry) (s : State) : Answer :=
  let n := cmdPort c
  let map := c.bytes 28 16
  checked ((decide (3 < c.u8 24), .range, 24) :: rsvdBytes c 25 27 ++
      (List.range 16).map (fun i => (!slotSourceOk (c.u8 (28 + i)), .range, 28 + i))) fun _ =>
    if s.aud.ports[n].runs then .wait (s.modPort n fun p => { p with nextMap := p.nextMap ++ [(c.id, map)] })
    else .done (s.modPort n fun p => { p with slotmap := map })

/-- AUD_SLOTMAP (R273). -/
def execAudSlotmap (c : CmdEntry) (s : State) : Host.Outcome State Fault Refusal := .next (s.runCmd 0x0502 c (bodyAudSlotmap c))

/-- AUD_MASK (R282): at once on a port that does not run; several on one port take effect at successive boundaries. -/
def bodyAudMask (c : CmdEntry) (s : State) : Answer :=
  let n := cmdPort c
  let p := s.aud.ports[n]
  let tx := c.u8 25 % 2 = 1
  let rx := c.u8 25 / 2 = 1
  let newTx := if tx then some (BitVec.ofNat 16 (c.u16 28)) else none
  let newRx := if rx then some (BitVec.ofNat 16 (c.u16 30)) else none
  checked ([(decide (3 < c.u8 24), .range, 24), (!within 1 3 (c.u8 25), .range, 25)] ++ rsvdBytes c 26 27 ++
      [(decide tx && maskBeyond (c.u16 28) p.slots, .range, 28), (decide rx && maskBeyond (c.u16 30) p.slots, .range, 30)])
    fun _ =>
    if p.runs then .wait (s.modPort n fun p => { p with nextMasks := p.nextMasks ++ [(c.id, newTx, newRx)] })
    else .done (s.modPort n fun p => { p with tx := newTx.getD p.tx, rx := newRx.getD p.rx })

/-- AUD_MASK (R282). -/
def execAudMask (c : CmdEntry) (s : State) : Host.Outcome State Fault Refusal := .next (s.runCmd 0x0503 c (bodyAudMask c))

/-- AUD_START (R297): a start completes while the port waits for its pulse or qualifies its clock. -/
def bodyAudStart (c : CmdEntry) (s : State) : Answer :=
  let n := cmdPort c
  let p := s.aud.ports[n]
  checked [(decide (3 < c.u8 24), .range, 24), (decide (2 < c.u8 25), .range, 25), (decide (63 < c.u8 26), .range, 26),
      (decide (c.u8 27 ≠ 0), .range, 27),
      (if c.u8 25 = 0 then decide (p.st = 0) || p.stopping else decide (p.st ≠ 0), .state, 0)] fun _ =>
    match c.u8 25 with
    | 0 => .done (s.modPort n fun p => { p with stopping := true })
    | 1 => .done (s.modPort n fun p => { p with st := 2, wrong := 0, good := 0, ramp := none })
    | _ => .done (s.modPort n fun p => { p with st := 1, evl := Fin.ofNat 64 (c.u8 26), wrong := 0, good := 0, ramp := none })

/-- AUD_START (R297). -/
def execAudStart (c : CmdEntry) (s : State) : Host.Outcome State Fault Refusal := .next (s.runCmd 0x0504 c (bodyAudStart c))

/-! ### Queues (R290 to R292, R297) -/

/-- A queue number that exists. -/
def isQueue (v : Nat) : Bool := decide (v ≤ 4) || within 8 11 v

/-- Playback queues. -/
def isPlayback (q : Fin 12) : Bool := decide (8 ≤ q.val)

/-- Bytes of a block (R290). -/
def queueStride (q : Fin 12) (p : Nat) : Nat := 16 + (if q.val = 4 then 32 else 64) * p

/-- AUD.CTL.FADE in force. -/
def AudBlk.fade (a : AudBlk) : Nat := let f := fld a.ctl 0 6; if within 1 40 f then f else 5

/-- What uses the queue runs: its port is not stopped, or the microphones are on. -/
def State.queueBusy (s : State) (q : Fin 12) : Bool :=
  if q.val = 4 then decide (s.aud.pdmEn ≠ 0) || s.aud.pdmNext.any (fun x => x.en)
  else decide (s.aud.ports[(Fin.ofNat 4 q.val : Fin 4)].st ≠ 0)

/-- AUD_QUEUE (R290): a capture queue starts with every block free, a playback queue with none filled. -/
def bodyAudQueue (c : CmdEntry) (s : State) : Answer :=
  let q : Fin 12 := Fin.ofNat 12 (c.u8 24)
  let en := c.u8 25 = 1
  let p := c.u16 28
  let b := c.u8 30
  let fade := if c.u8 31 = 0 then s.aud.fade else c.u8 31
  let on := fun (x : Bool) => decide en && x
  checked ([(!isQueue (c.u8 24), .range, 24), (decide (1 < c.u8 25), .range, 25), (on (decide (63 < c.u8 26)), .range, 26),
      (on (decide (63 < c.u8 27 ∨ c.u8 27 = c.u8 26)), .range, 27), (on (!within 48 480 p), .range, 28),
      (on (!within 2 64 b || decide (b * p < 96 * fade + p)), .range, 30), (on (decide (40 < c.u8 31)), .range, 31)] ++
      rsvdBytes c 32 35 ++ [(s.queueBusy q, .state, 0)]) fun _ =>
    let s0 := (s.gpFree (.queue q)).modQueue q fun _ => {}
    if en then
      match gpAlloc s0.dma.gp (.queue q) (b * queueStride q p) with
      | none => .fail .nores 0
      | some (a, l) =>
        let s := { s0 with dma := { s0.dma with gp := l } }
        .ok (s.modQueue q fun _ =>
          { en := true, evlOut := Fin.ofNat 64 (c.u8 26), evlIn := Fin.ofNat 64 (c.u8 27), p := p, b := b, fade := fade
            addr := BitVec.ofNat 32 a, st := .playing, blocks := if isPlayback q then 0 else b })
          (leBytes 4 a ++ leBytes 4 (queueStride q p)) none
    else .done s0

/-- AUD_QUEUE (R290). -/
def execAudQueue (c : CmdEntry) (s : State) : Host.Outcome State Fault Refusal := .next (s.runCmd 0x0505 c (bodyAudQueue c))

/-- AUD_PDM (R293, R294, R297): the settings take effect at the next frame boundary. -/
def bodyAudPdm (c : CmdEntry) (s : State) : Answer :=
  checked ([(decide (4 < c.u8 25), .range, 25), (decide (c.u8 26 / 2 % 8 ≠ 0), .range, 26), (decide (c.u8 27 ≠ 0), .range, 27),
      (decide (1 < c.u8 28), .range, 28)] ++ rsvdBytes c 29 31 ++
      [(decide (c.u8 28 = 1) && !s.aud.queues[4].en, .state, 0)]) fun _ =>
    let set : PdmSet := { mask := byte (c.u8 24), gain := byte (c.u8 25), opt := byte (c.u8 26), en := decide (c.u8 28 = 1) }
    .done { s with aud := { s.aud with pdmNext := s.aud.pdmNext ++ [set] } }

/-- AUD_PDM (R297). -/
def execAudPdm (c : CmdEntry) (s : State) : Host.Outcome State Fault Refusal := .next (s.runCmd 0x0506 c (bodyAudPdm c))

/-- The streams that byte 24 of AUD_STREAM names. -/
def namedStreams (v : Nat) : List (Fin 32) := if v = 0xFF then List.finRange 32 else [Fin.ofNat 32 v]

/-- A stream is held by an audio context (R272). -/
def State.streamHeld (s : State) (k : Fin 32) : Bool :=
  (List.finRange 256).any fun c => decide (s.svc.ctx[c].st ≠ .free) && decide (s.svc.ctx[c].streamOf = some k)

/-- AUD_STREAM (R289): the pages of the named playout buffers are given back and taken anew. -/
def bodyAudStream (c : CmdEntry) (s : State) : Answer :=
  let l := namedStreams (c.u8 24)
  let fade := c.u8 25
  let held := (l.map fun k => playoutPages s.aud.streams[k].fade).sum
  let need := l.length * playoutPages fade
  checked ([(decide (31 < c.u8 24 ∧ c.u8 24 ≠ 0xFF), .range, 24), (!within 1 40 fade, .range, 25)] ++ rsvdBytes c 26 27 ++
      [(l.any s.streamHeld, .busy, 0), (decide (s.aud.poolFree + held < need), .nores, 0)]) fun _ =>
    let s := l.foldl (fun s k => s.modStream k fun t => { t with fade := fade }) s
    .done { s with aud := { s.aud with poolFree := s.aud.poolFree + held - need } }

/-- AUD_STREAM (R289). -/
def execAudStream (c : CmdEntry) (s : State) : Host.Outcome State Fault Refusal := .next (s.runCmd 0x0507 c (bodyAudStream c))

/-! ### Fades (R284, R288) -/

/-- A word `n` frames into a fade-out of `len` frames. -/
def fadeOutWord (n len : Nat) (w : W) : W := if n < len then Config.fadeWord n len w else 0

/-- A word `n` frames into a ramp-up of `len` frames. -/
def rampWord (n len : Nat) (w : W) : W := if n < len then Config.fadeWord (len - n) len w else w

/-- A ramp-up starts from the present gain (R288). -/
def rampFrom (st : FadeSt) (pos len : Nat) : Nat := if st = .fadingOut then len - pos else 0

/-- The frame that a stream gives now: the oldest one of its buffer under its fade, or silence (R285). -/
def Stream.out (t : Stream) : W × W :=
  match t.frames with
  | [] => (0, 0)
  | (l, r) :: _ =>
    match t.st with
    | .off | .silent => (0, 0)
    | .playing => (l, r)
    | .fadingOut => (fadeOutWord t.fadePos (48 * t.fade) l, fadeOutWord t.fadePos (48 * t.fade) r)
    | .rampingUp => (rampWord t.fadePos (48 * t.fade) l, rampWord t.fadePos (48 * t.fade) r)

/-- The end of a fade-out: silence, or idle when the context has closed (R285, R287). -/
def Stream.faded (t : Stream) : Stream :=
  if t.closing then { t with st := .off, frames := [], closing := false, fadePos := 0 } else { t with st := .silent, fadePos := 0 }

/-- One internal frame of a stream: its position advances (R285). -/
def Stream.advance (t : Stream) : Stream :=
  match t.st with
  | .off => t
  | .silent => { t with silenced := t.silenced + 1 }
  | .playing => { t with frames := t.frames.drop 1 }
  | .rampingUp => { t with frames := t.frames.drop 1, fadePos := t.fadePos + 1 }
  | .fadingOut =>
    let t := { t with frames := t.frames.drop 1, fadePos := t.fadePos + 1 }
    if 48 * t.fade ≤ t.fadePos then t.faded else t

/-! ### Words in slots (R275) -/

/-- Bits of a WIDTH code. -/
def widthBits (v : BitVec 2) : Nat := match v.toNat with | 0 => 16 | 1 => 24 | _ => 32

/-- A word rounded to WIDTH, to nearest with ties away from zero, saturated, left-justified (R275). -/
def roundSlot (bits : Nat) (w : W) : W :=
  let k := 32 - bits
  let v := w.toInt
  let half : Nat := if k = 0 then 0 else 2 ^ (k - 1)
  let m : Int := ((v.natAbs + half) / 2 ^ k : Nat)
  let r := if v < 0 then -m else m
  let r := min r (2 ^ (bits - 1) - 1)
  BitVec.ofInt 32 (r * 2 ^ k)

/-- A received word with the bits below WIDTH forced to 0 (R275). -/
def cutSlot (bits : Nat) (w : W) : W := BitVec.ofNat 32 (w.toNat / 2 ^ (32 - bits) * 2 ^ (32 - bits))

/-- Active slots of a mask in ascending order (R282). -/
def activeSlots (mask : BitVec 16) (slots : Nat) : List Nat := (List.range slots).filter fun i => mask.getLsbD i

/-- The word of microphone m: zeros while withheld, then its ramp; a linear fall once it is stuck (R295, R296). -/
def AudBlk.micWord (a : AudBlk) (m : Fin 8) (w : W) : W :=
  if a.pdmStuck.getLsbD m.val then (if a.micFall[m] < 48 then Config.fallWord a.micFall[m] w else 0)
  else if a.micAge[m] < 85 then 0
  else rampWord (a.micAge[m] - 85) (48 * a.queues[4].fade) w

/-! ### Playback queues (R283, R286) -/

/-- Address of block `i` from the one in use. -/
def Queue.blockAddr (x : Queue) (q : Fin 12) (i : Nat) : Nat := x.addr.toNat + (x.cur + i) % x.b * queueStride q x.p

/-- FRAMES and MASK of a playback block. -/
def State.blockFrames (s : State) (x : Queue) (a : Nat) : Nat := min x.p (leNat (s.load (a + 4) 2))
def State.blockMask (s : State) (a : Nat) : BitVec 16 := BitVec.ofNat 16 (leNat (s.load (a + 6) 2))

/-- Filled frames of a playback queue, or free frames of a capture queue (R286). -/
def State.queueFrames (s : State) (q : Fin 12) : Nat :=
  let x := s.aud.queues[q]
  if isPlayback q then ((List.range x.blocks).map fun i => s.blockFrames x (x.blockAddr q i)).sum - x.pos
  else x.blocks * x.p - x.pos

/-- The word that a playback queue gives a slot in the present frame (R283). -/
def State.playWord (s : State) (q : Fin 12) (slot : Nat) : W :=
  let x := s.aud.queues[q]
  let a := x.blockAddr q 0
  let m := s.blockMask a
  if x.en = false ∨ x.blocks = 0 ∨ m.getLsbD slot = false ∨ s.blockFrames x a ≤ x.pos then 0
  else
    let per := (activeSlots m 16).length
    let rank := (activeSlots m slot).length
    let w : W := BitVec.ofNat 32 (leNat (s.load (a + 16 + 4 * (x.pos * per + rank)) 4))
    match x.st with
    | .off | .silent => 0
    | .playing => w
    | .fadingOut => fadeOutWord x.fadePos (48 * x.fade) w
    | .rampingUp => rampWord x.fadePos (48 * x.fade) w

/-- One frame further into the fade of a queue; the end of a fade-out is silence or discarding (R286). -/
def Queue.fadeStep (x : Queue) : Queue :=
  match x.st with
  | .fadingOut =>
    let x := { x with fadePos := x.fadePos + 1 }
    if 48 * x.fade ≤ x.fadePos then { x with st := .silent, fadePos := 0 } else x
  | .rampingUp => { x with fadePos := x.fadePos + 1 }
  | _ => x

/-- A playback queue gives up one frame; an emptied block goes back with a pulse on EVL_OUT (R286, R291). -/
def State.playFrame (s : State) (q : Fin 12) : State :=
  let x := s.aud.queues[q]
  if x.en = false then s
  else if x.st = .silent then s.modQueue q fun x => { x with silenced := x.silenced + 1 }
  else if x.blocks = 0 then s.modQueue q Queue.fadeStep
  else
    let n := s.blockFrames x (x.blockAddr q 0)
    let s := s.modQueue q Queue.fadeStep
    if n ≤ x.pos + 1 then
      (s.modQueue q fun x => { x with pos := 0, cur := (x.cur + 1) % x.b, blocks := x.blocks - 1 }).evlPulse x.evlOut
    else s.modQueue q fun x => { x with pos := x.pos + 1 }

/-! ### Capture queues (R283, R286, R290) -/

/-- Header of the block in use (R290). -/
def Queue.header (x : Queue) : List Byte :=
  leBytes 4 x.seq.toNat ++ leBytes 2 x.pos ++ leBytes 2 x.mask.toNat ++ leBytes 2 x.flags.toNat ++ leBytes 2 x.discarded ++
    leBytes 4 x.frame0.toNat

/-- A capture block is complete: its header is written and EVL_OUT pulses (R290, R291). -/
def State.closeBlock (s : State) (q : Fin 12) : State :=
  let x := s.aud.queues[q]
  let s := s.store (x.blockAddr q 0) x.header
  let s := s.modQueue q fun x => { x with
    seq := x.seq + 1, pos := 0, cur := (x.cur + 1) % x.b, blocks := x.blocks - 1, flags := 0, discarded := 0 }
  s.evlPulse x.evlOut

/-- Set a bit of FLAGS of the block in use. -/
def State.blockFlag (s : State) (q : Fin 12) (b : Nat) : State :=
  s.modQueue q fun x => { x with flags := x.flags ||| BitVec.ofNat 16 (2 ^ b) }

/-- A mask change part-way through a block closes it with SHORT (R283). -/
def State.shortBlock (s : State) (q : Fin 12) : State :=
  let x := s.aud.queues[q]
  if x.en = true ∧ x.pos ≠ 0 then (s.blockFlag q 0).closeBlock q else s

/-- A frame of a capture queue is discarded (R286). -/
def State.discardFrame (s : State) (q : Fin 12) : State :=
  (s.modQueue q fun x => { x with silenced := x.silenced + 1, discarded := min 65535 (x.discarded + 1) }).bump (0xB100 + 4 * q.val) 1

/-- One frame into a capture queue: the active words under its fade, packed; a frame with another mask than the block in use closes that
block with SHORT (R283, R286). -/
def State.capFrame (s : State) (q : Fin 12) (mask : BitVec 16) (ws : List W) : State :=
  let s := if mask ≠ s.aud.queues[q].mask then s.shortBlock q else s
  let x := s.aud.queues[q]
  if x.en = false then s
  else if x.st = .silent ∨ x.blocks = 0 then s.discardFrame q
  else
    let s := if x.st = .fadingOut then s.blockFlag q 1 else if x.st = .rampingUp then s.blockFlag q 2 else s
    let f := fun (w : W) => match x.st with
      | .fadingOut => fadeOutWord x.fadePos (48 * x.fade) w
      | .rampingUp => rampWord x.fadePos (48 * x.fade) w
      | _ => w
    let a := x.blockAddr q 0 + 16 + 4 * ws.length * x.pos
    let s := s.store a ((ws.map f).flatMap fun w => leBytes 4 w.toNat)
    let first := x.pos = 0
    let s := s.modQueue q fun x => { x.fadeStep with
      pos := x.pos + 1, mask := if first then mask else x.mask, frame0 := if first then s.aud.frame else x.frame0 }
    if x.p ≤ x.pos + 1 then s.closeBlock q else s

/-- A received frame under the slip of its group (R279, R281): discarded while the external clock is faster, twice while it is
slower. -/
def State.capSlip (s : State) (q : Fin 12) (slip : Option Bool) (mask : BitVec 16) (ws : List W) : State :=
  match slip with
  | none => s.capFrame q mask ws
  | some false => s.blockFlag q 3
  | some true => (((s.blockFlag q 4).capFrame q mask ws).blockFlag q 4).capFrame q mask ws

/-! ### The internal frame (R278 to R283) -/

/-- Pending masks and map of a port at a frame boundary: one AUD_MASK and one AUD_SLOTMAP, then a stop or a pulse start. -/
def State.maskBoundary (s : State) (n : Fin 4) : State :=
  match s.aud.ports[n].nextMasks with
  | [] => s
  | (slot, tx, rx) :: rest =>
    let s := s.modPort n fun p => { p with tx := tx.getD p.tx, rx := rx.getD p.rx, nextMasks := rest }
    s.finishSlot 0x0503 slot .ok 0 [] none

/-- A pending slot map takes effect. -/
def State.mapBoundary (s : State) (n : Fin 4) : State :=
  match s.aud.ports[n].nextMap with
  | [] => s
  | (slot, map) :: rest =>
    (s.modPort n fun p => { p with slotmap := map, nextMap := rest }).finishSlot 0x0502 slot .ok 0 [] none

/-- State of a port at a boundary: a stop, a pulse start, or the start of a port whose group is qualified already. -/
def Port.boundary (p : Port) (qualified : Bool) : Port :=
  if p.stopping then { p with st := 0, stopping := false, starting := false, ramp := none }
  else
    let p := if p.starting then { p with st := if p.st = 1 then 2 else p.st, starting := false } else p
    if p.st = 2 ∧ qualified = true then { p with st := 3 } else p

/-- What takes effect on a port at a frame boundary. -/
def State.portBoundary (s : State) (n : Fin 4) : State :=
  let s := (s.maskBoundary n).mapBoundary n
  s.modPort n fun p => p.boundary s.aud.groups[s.portGroup n].qualified

/-- One AUD_PDM takes effect for the microphones it names (R293 to R295, R297). -/
def AudBlk.applyPdm (a : AudBlk) (x : PdmSet) : AudBlk :=
  let pins := (List.range 4).foldl (fun m k => if x.mask.getLsbD (2 * k) || x.mask.getLsbD (2 * k + 1) then m + 2 ^ k else m) 0
  let pins : BitVec 4 := BitVec.ofNat 4 pins
  let swap : BitVec 4 := BitVec.ofNat 4 (x.opt.toNat / 16)
  let new := if x.en then x.mask &&& ~~~a.pdmEn else 0
  { a with
    pdmEn := if x.en then a.pdmEn ||| x.mask else a.pdmEn &&& ~~~x.mask
    pdmStuck := if x.en then a.pdmStuck else a.pdmStuck &&& ~~~x.mask
    pdmGain := Vector.ofFn fun m => if x.mask.getLsbD m.val then x.gain else a.pdmGain[m]
    pdmHp := if x.opt.getLsbD 0 then a.pdmHp ||| x.mask else a.pdmHp &&& ~~~x.mask
    pdmSwap := (a.pdmSwap &&& ~~~pins) ||| (swap &&& pins)
    mics := Vector.ofFn fun m => if new.getLsbD m.val then {} else a.mics[m]
    micAge := Vector.ofFn fun m => if new.getLsbD m.val then 0 else a.micAge[m] }

/-- The microphone settings that wait take effect. -/
def State.pdmBoundary (s : State) : State :=
  { s with aud := { s.aud.pdmNext.foldl AudBlk.applyPdm s.aud with pdmNext := [] } }

/-- The frame of lowest energy; the earliest one wins a tie (R279). -/
def quietest (l : List LineFrame) : Option LineFrame :=
  l.foldl (fun b e => match b with | none => some e | some x => if e.energy < x.energy then some e else b) none

/-- One slip is decided on the fill that the frame reads, for the quietest frame of the slip line (R279, R280). -/
def Group.decide (x : Group) : Group :=
  let fill := x.txFifo.length
  let due := match x.slip with | none => true | some (_, n) => !x.line.any fun e => Decidable.decide (e.n = n)
  if x.qualified = true ∧ due = true ∧ x.slipNow = none ∧ within 6 10 fill = false then
    { x with slip := (quietest x.line).map fun e => (Decidable.decide (10 < fill), e.n) } else x

/-- The BCLK count of one frame of a started port (R277). -/
def State.bclkCheck (s : State) (n : Fin 4) (f : ExtFrame) : State :=
  let p := s.aud.ports[n]
  if p.st.toNat < 2 then s
  else if f.bclk = 32 * p.slots then s.modPort n fun p => { p with wrong := 0, good := min 32 (p.good + 1) }
  else ((s.modPort n fun p => { p with wrong := p.wrong + 1, good := 0 }).setFlag slotAud (16 + n.val)).bump (0xB020 + 4 * n.val) 1

/-- The word of a transmit slot before rounding (R273), under the ramp that follows a clock loss (R278). -/
def State.slotWord (s : State) (n : Fin 4) (outs : Vector (W × W) 32) (mics : Vector W 8) (slot : Nat) : W :=
  let p := s.aud.ports[n]
  let v := (p.slotmap.getD slot 0xFF).toNat
  let ramp := fun (fade : Nat) (w : W) => match p.ramp with | some k => rampWord k (48 * fade) w | none => w
  if v < 0x40 then
    let k : Fin 32 := Fin.ofNat 32 (v / 2)
    ramp s.aud.streams[k].fade (if v % 2 = 0 then outs[k].1 else outs[k].2)
  else if v < 0x48 then mics[(Fin.ofNat 8 v : Fin 8)]
  else if v = 0x80 then
    let q : Fin 12 := Fin.ofNat 12 (8 + n.val)
    ramp s.aud.queues[q].fade (s.playWord q slot)
  else 0

/-- The slots of a port's transmit frame: active slots carry their source, the others nothing, driven 0 or at high impedance (R274). -/
def State.txWords (s : State) (n : Fin 4) (outs : Vector (W × W) 32) (mics : Vector W 8) : List (Option W) :=
  let p := s.aud.ports[n]
  (List.range p.slots).map fun i =>
    if p.tx.getLsbD i then some (roundSlot (widthBits p.width) (s.slotWord n outs mics i))
    else if p.format.getLsbD 4 then none else some 0

/-- The square of a word's 16 most significant bits (R279). -/
def wordEnergy (w : W) : Nat := (w.toInt / 65536).natAbs ^ 2

/-- The energy of a frame: of every active slot transmitted and received, or of every microphone (R279). -/
def frameEnergy (tx : TxFrame) (rx : RxFrame) : Nat :=
  ((tx.flatMap fun e => e.2.filterMap id) ++ rx.flatMap fun e => e.2.2).foldl (fun n w => n + wordEnergy w) 0

/-- A frame enters a group's slip line at internal frame `n`, with the oldest received one, and the oldest leaves: to the transmit FIFO once,
twice or not at all (R279). -/
def Group.step (x : Group) (n : W) (tx : TxFrame) : Group × LineFrame :=
  let rx := x.rxFifo.headD []
  let e : LineFrame := { n := n, energy := frameEnergy tx rx, tx := tx, rx := rx }
  let out := (x.line ++ [e]).headD e
  let sent := match x.slipNow with | none => [out.tx] | some false => [out.tx, out.tx] | some true => []
  ({ x with line := (x.line ++ [e]).drop 1, rxFifo := x.rxFifo.drop 1, txFifo := (x.txFifo ++ sent).take 16, slipNow := none }, out)

/-- The received frame that leaves a slip line goes to a capture queue; zeros where it holds none for that queue, and zeros flagged
CLOCK_LOST while the root clock is lost (R403). -/
def State.capOut (s : State) (q : Fin 12) (slip : Option Bool) (mask : BitVec 16) (n : Nat) (rx : RxFrame) : State :=
  if s.clk.lossInRun then (s.blockFlag q 5).capFrame q mask (List.replicate n 0)
  else match rx.find? fun e => decide (e.1 = q) with
  | some e => s.capSlip q slip e.2.1 e.2.2
  | none => s.capSlip q slip mask (List.replicate n 0)

/-- Running ports of a group. -/
def State.running (s : State) (g : Fin 5) : List (Fin 4) := (s.groupPorts g).filter fun n => decide (s.aud.ports[n].st = 3)

/-- The internal frame of a group of ports: what its running ports transmit enters the slip line, what leaves it goes to the transmit FIFO
and to their capture queues, under the slip of the frame (R279, R281). -/
def State.groupFrame (s : State) (outs : Vector (W × W) 32) (mics : Vector W 8) (g : Fin 5) : State :=
  let x := s.aud.groups[g]
  if x.qualified = false then s
  else
    let r := x.step s.aud.frame ((s.running g).map fun n => (n, s.txWords n outs mics))
    (s.running g).foldl (fun s n =>
      let p := s.aud.ports[n]
      s.capOut (Fin.ofNat 12 n.val) x.slipNow p.rx (activeSlots p.rx p.slots).length r.2.rx) (s.modGroup g fun _ => r.1)

/-- The frame of a port besides: its playback queue gives up a frame and its ramp goes on; while its clock is lost, its capture queue gets zero
frames flagged CLOCK_LOST (R278). -/
def State.portFrame (s : State) (n : Fin 4) : State :=
  let p := s.aud.ports[n]
  let rxq : Fin 12 := Fin.ofNat 12 n.val
  let txq : Fin 12 := Fin.ofNat 12 (8 + n.val)
  if p.st = 3 then
    (s.playFrame txq).modPort n fun p => { p with ramp := p.ramp.bind fun k => if k < 48 * 40 then some (k + 1) else none }
  else if p.st = 4 then
    ((s.playFrame txq).blockFlag rxq 5).capFrame rxq p.rx ((activeSlots p.rx p.slots).map fun _ => 0)
  else s

/-- The internal frame of the microphones: what leaves the slip line goes to queue 4 and serves as the slots' microphone words; none of a lost
clock's (R278, R283). -/
def State.micFrame (s : State) : State × Vector W 8 :=
  let a := s.aud
  let mask : BitVec 16 := a.pdmEn.setWidth 16
  let on := allIx fun m : Fin 8 => a.pdmEn.getLsbD m.val
  let none8 : Vector W 8 := Vector.replicate 8 0
  let x := a.groups[4]
  if x.qualified then
    let r := x.step a.frame []
    let s := s.modGroup 4 fun _ => r.1
    let s := if a.pdmEn = 0 then s
      else (if a.pdmStuck &&& a.pdmEn ≠ 0 then s.blockFlag 4 7 else s).capOut 4 x.slipNow mask on.length r.2.rx
    let ws := match r.2.rx with
      | [] => none8
      | e :: _ => ((allIx fun m : Fin 8 => e.2.1.getLsbD m.val).zip e.2.2).foldl (fun v p => v.set p.1.val p.2) none8
    (s, ws)
  else if a.pdmEn ≠ 0 ∧ x.lost = true then ((s.blockFlag 4 5).capFrame 4 mask (on.map fun _ => 0), none8)
  else (s, none8)

/-! ### At the pins (R274, R275, R293 to R296) -/

/-- A frame at the pins of a group: the transmit FIFO gives the ports their slots, and the running ones' received words, cut to WIDTH, come
in. -/
def State.pinFrame (s : State) (g : Fin 5) (o : AudFrameObs) (i : Nat) : State :=
  let x := s.aud.groups[g]
  let run := s.running g
  let rx : RxFrame := run.map fun n =>
    let p := s.aud.ports[n]
    let ws := ((o.ports.getD n.val [])[i]?.map ExtFrame.rx).getD []
    (Fin.ofNat 12 n.val, p.rx, (activeSlots p.rx p.slots).map fun k => cutSlot (widthBits p.width) (ws.getD k 0))
  let out := fun (s : State) (n : Fin 4) =>
    let ws := (((x.txFifo.headD []).find? fun e => decide (e.1 = n)).map Prod.snd).getD
      (List.replicate s.aud.ports[n].slots (some 0))
    { s with aud := { s.aud with txOut := s.aud.txOut.set n.val (s.aud.txOut[n] ++ [ws]) } }
  run.foldl out (s.modGroup g fun x => { x with txFifo := x.txFifo.drop 1, rxFifo := (x.rxFifo ++ [rx]).take 16 })

/-- The frames that come at a group's pins in an internal frame. -/
def State.pinFrames (s : State) (o : AudFrameObs) (g : Fin 5) : State :=
  let n := (o.ports.getD g.val []).length
  let s := s.modGroup g fun x => { x with quiet := if n = 0 then x.quiet + 1 else 0 }
  if s.aud.groups[g].qualified then (List.range n).foldl (fun s i => s.pinFrame g o i) s else s

/-- The microphones' bank of 64 taps. -/
def micBank : Bank := { t := 64, builtin := true, coef := (List.range 32).map fun i => (Config.micCoef i).setWidth 32 }

/-- A PDM bit through stages 2 to 5 with M_cic 16, M_cf 2, h 1, M_fir 1: a 1 maps to +1 and a 0 to -1, in units of 2^-23 (R294). -/
def Chain.pushBit (c : Chain) (b : Bool) : Chain × Option Smp :=
  let v : Int := if b then 2 ^ 23 else -(2 ^ 23)
  let p : Pass := { chain := c, sat := Vector.replicate 7 0, out := some { v := (v, 0), sub := false, tok := 0 } }
  let p := p.stage 0 fun c v => let r := c.cic.push 16 v; ({ c with cic := r.1 }, r.2)
  let p := p.stage 1 fun c v => let r := c.cf.push 32 2 (cfOut 16) v; ({ c with cf := r.1 }, r.2)
  let p := p.stage 2 fun c v => let r := c.hb[0].push 23 2 hbOut v; ({ c with hb := c.hb.set 0 r.1 }, r.2)
  let p := p.stage 3 fun c v => let r := c.fir.push 64 1 (firOut micBank) v; ({ c with fir := r.1 }, r.2)
  (p.chain, p.out)

/-- A PDM bit into a microphone, and the sample of 24 bits that stage 7 gives for it, if any. -/
def Mic.bit (a : Mic × Option Int) (b : Bool) : Mic × Option Int :=
  let r := a.1.chain.pushBit b
  ({ a.1 with chain := r.1, last := b, run := if a.1.run ≠ 0 ∧ a.1.last = b then min 3072 (a.1.run + 1) else 1 },
    (r.2.map fun v => clip 24 v.v.1).orElse fun _ => a.2)

/-- GAIN, which saturates, and the optional high-pass (R294). -/
def Mic.shape (x : Mic) (gain : Nat) (hp : Bool) (v : Int) : Mic × Int :=
  let v := if gain = 0 then v else clip 24 (Config.micGain gain v)
  if hp then
    let r := Config.micHighPass x.hp v
    ({ x with hp := r.1 }, clip 24 r.2)
  else (x, v)

/-- The bits of a microphone in a PDM frame: 2k latched on the rising edge of pin k and 2k + 1 on the falling one, unless SWAP exchanges
them (R293). -/
def pdmBits (swap : BitVec 4) (f : List (List Bool × List Bool)) (m : Fin 8) : List Bool :=
  let p := f.getD (m.val / 2) ([], [])
  if (m.val % 2 == 0) != swap.getLsbD (m.val / 2) then p.1 else p.2

/-- A PDM frame: every enabled microphone gives a word, and the frame goes to the receive FIFO of group 4. -/
def AudBlk.pdmFrame (a : AudBlk) (f : List (List Bool × List Bool)) : AudBlk :=
  let on := fun m : Fin 8 => a.pdmEn.getLsbD m.val
  let r : Vector (Mic × W) 8 := Vector.ofFn fun m =>
    if on m then
      let y := (pdmBits a.pdmSwap f m).foldl Mic.bit (a.mics[m], none)
      let z := y.1.shape a.pdmGain[m].toNat (a.pdmHp.getLsbD m.val) (y.2.getD 0)
      (z.1, a.micWord m (BitVec.ofInt 32 (z.2 * 256)))
    else (a.mics[m], 0)
  let rx : RxFrame := [(4, a.pdmEn.setWidth 16, (allIx on).map fun m => r[m].2)]
  { a with
    mics := r.map Prod.fst
    pdmGood := if (f.headD ([], [])).1.length = 64 then min 32 (a.pdmGood + 1) else 0
    micAge := a.micAge.map fun k => min 2005 (k + 1), micFall := a.micFall.map fun k => min 48 (k + 1)
    groups := upd a.groups 4 fun x => if x.qualified then { x with rxFifo := (x.rxFifo ++ [rx]).take 16, txFifo := x.txFifo.drop 1 } else x }

/-- The PDM frames of an internal frame. -/
def AudBlk.pdmFrames (a : AudBlk) (l : List (List (List Bool × List Bool))) : AudBlk :=
  l.foldl AudBlk.pdmFrame { a with groups := upd a.groups 4 fun x => { x with quiet := if l = [] then x.quiet + 1 else 0 } }

/-- The four groups of ports. -/
def portGroups : List (Fin 5) := [0, 1, 2, 3]

/-- AUD_FRAME (R279): pending settings take effect, slips are decided, every stream, port and queue moves by one frame, what comes at the
pins comes in, and the frame count advances. -/
def execAudFrame (o : AudFrameObs) (s : State) : Host.Outcome State Fault Refusal :=
  let s := ((List.finRange 4).foldl State.portBoundary s).pdmBoundary
  let s := (List.finRange 4).foldl (fun s n => (o.ports.getD n.val []).foldl (fun s f => s.bclkCheck n f) s) s
  let s : State := { s with aud := { s.aud with groups := s.aud.groups.map Group.decide, txOut := Vector.replicate 4 [] } }
  let outs := s.aud.streams.map Stream.out
  let r := s.micFrame
  let s := portGroups.foldl (fun s g => s.groupFrame outs r.2 g) r.1
  let s := (List.finRange 4).foldl State.portFrame s
  let s := portGroups.foldl (fun s g => s.pinFrames o g) s
  .next { s with aud := { s.aud.pdmFrames o.pdm with streams := s.aud.streams.map Stream.advance, frame := s.aud.frame + 1 } }

/-! ### Slips and clocks (R277 to R280, R296) -/

/-- ppm as two signed bytes. -/
def ppmBytes (v : Int) : List Byte := leInt 2 v

/-- SLIP_EXECUTE (R279, R280): the chosen frame is the one that leaves the slip line next. -/
def execSlipExecute (g : Fin 5) (s : State) : Host.Outcome State Fault Refusal :=
  match s.aud.groups[g].slip with
  | none => .next s
  | some (slower, n) =>
    let x := s.aud.groups[g]
    if x.line.head?.map LineFrame.n ≠ some n then .next s else
    let s := s.modGroup g fun x => { x with slip := none, slipNow := some slower }
    let s := (s.bump (0xB000 + 4 * g.val) 1).setFlag slotAud (8 + g.val)
    .next (s.raiseLimited 64 g.val (b01 slower) (BitVec.ofNat 32 (leNat (ppmBytes x.ppm))) 1)

/-- Source 66, or source 67 for the microphones' clock (R277, R296). -/
def State.clockEvent (s : State) (g : Fin 5) (code cause : Nat) : State :=
  if g.val = 4 then s.raise 67 code [0xFF]
  else s.raise 66 code ([byte g.val, byte cause, 0, 0] ++ ppmBytes s.aud.groups[g].ppm)

/-- A group loses its clock: its slip line and FIFOs give up what they hold (R277, R278). -/
def State.groupClockLost (s : State) (g : Fin 5) (cause : Nat) : State :=
  let ps := s.groupPorts g
  let s := s.modGroup g fun x => { x with 
    qualified := false, lost := true, slip := none, slipNow := none, line := [], txFifo := [], rxFifo := [] }
  let s := if g.val = 4 then s
    else ps.foldl (fun s n => s.modPort n fun p => if p.st = 3 then { p with st := 4, ramp := none } else p) s
  (s.setFlag slotAud g.val).clockEvent g 0 cause

/-- A slip line of silent frames, the last one having entered before internal frame `n`. -/
def silentLine (n : W) : List LineFrame :=
  (List.range 480).map fun i => { n := n + BitVec.ofNat 32 i - 480, energy := 0, tx := [], rx := [] }

/-- A group's clock is qualified: the slip line holds silence, the FIFO starts at its target fill and ports that had lost the clock ramp up
(R277, R278). -/
def State.clockQualified (s : State) (g : Fin 5) : State :=
  let ps := s.groupPorts g
  let s := s.modGroup g fun x => { x with 
    qualified := true, lost := false, line := silentLine s.aud.frame, txFifo := List.replicate 8 [], rxFifo := List.replicate 8 [] }
  let go := fun p : Port => { p with st := if p.st = 2 ∨ p.st = 4 then 3 else p.st, wrong := 0, ramp := if p.st = 4 then some 0 else p.ramp }
  let s := if g.val = 4 then s else ps.foldl (fun s n => s.modPort n go) s
  s.clockEvent g 1 0

/-- 32 frames in a row have had the right number of clock periods, at every started port of the group, of which there is one (R277). -/
def State.frames32 (s : State) (g : Fin 5) : Bool :=
  let l := (s.groupPorts g).filter fun n => decide (2 ≤ s.aud.ports[n].st.toNat)
  if g.val = 4 then decide (32 ≤ s.aud.pdmGood) else !l.isEmpty && l.all fun n => decide (32 ≤ s.aud.ports[n].good)

/-- AUD_CLOCK_MEASURE (R277): `ppm` is the frame rate measured over 10 ms. -/
def execAudClockMeasure (g : Fin 5) (ppm : Int) (s : State) : Host.Outcome State Fault Refusal :=
  let was := s.aud.groups[g].qualified
  let s := s.modGroup g fun x => { x with ppm := ppm }
  if was then (if 2000 < ppm.natAbs then .next (s.groupClockLost g 2) else .next s)
  else if s.frames32 g = true ∧ ppm.natAbs ≤ 1000 then .next (s.clockQualified g)
  else .next s

/-- AUD_CLOCK_LOST (R277): no FSYNC edge in 2 frame periods, or a port's third consecutive frame with a wrong BCLK count. -/
def execAudClockLost (g : Fin 5) (cause : Fin 2) (s : State) : Host.Outcome State Fault Refusal :=
  if s.aud.groups[g].qualified = true ∧
      ((cause.val = 0 ∧ 2 ≤ s.aud.groups[g].quiet) ∨ (cause.val = 1 ∧ g.val < 4 ∧ (s.groupPorts g).any (fun p => decide (3 ≤ s.aud.ports[p].wrong)) = true)) then
    .next (s.groupClockLost g cause.val)
  else .next s

/-! ### Underrun, overrun and return (R285, R286, R298) -/

/-- Source 65 (R298). -/
def State.fadeEvent (s : State) (x code n : Nat) : State := s.raise 65 code ([byte x, 0, 0, 0] ++ leBytes 4 (min n (2 ^ 32 - 1)))

/-- STREAM_UNDERRUN (R285, R288). -/
def execStreamUnderrun (k : Fin 32) (s : State) : Host.Outcome State Fault Refusal :=
  let t := s.aud.streams[k]
  if (t.st = .playing ∨ t.st = .rampingUp) ∧ t.frames.length ≤ 48 * t.fade then
    .next (((s.modStream k Stream.fadeOut).bump (0xB040 + 4 * k.val) 1).fadeEvent k.val 0 0)
  else .next s

/-- STREAM_RESUME (R285, R288). -/
def execStreamResume (k : Fin 32) (s : State) : Host.Outcome State Fault Refusal :=
  let t := s.aud.streams[k]
  if (t.st = .silent ∨ (t.st = .fadingOut ∧ t.closing = false)) ∧ 48 * (t.fade + 2) ≤ t.frames.length then
    .next (s.modStream k fun t => { t with st := .rampingUp, fadePos := rampFrom t.st t.fadePos (48 * t.fade) })
  else .next s

/-- A queue starts its fade-out from its present gain (R286, R288). -/
def Queue.fadeOut (x : Queue) : Queue :=
  { x with st := .fadingOut, silenced := 0, fadePos := if x.st = .rampingUp then 48 * x.fade - x.fadePos else 0 }

/-- QUEUE_XRUN (R286): an underrun of a playback queue that holds frames, or an overrun of a capture queue. -/
def execQueueXrun (q : Fin 12) (s : State) : Host.Outcome State Fault Refusal :=
  let x := s.aud.queues[q]
  if x.en = true ∧ (x.st = .playing ∨ x.st = .rampingUp) ∧ s.queueFrames q ≤ 48 * x.fade ∧ (isPlayback q = true → x.blocks ≠ 0) then
    .next (((s.modQueue q Queue.fadeOut).bump (0xB0C0 + 4 * q.val) 1).fadeEvent (0x40 + q.val) (b01 (!isPlayback q)) 0)
  else .next s

/-- QUEUE_RESUME (R286): half of the frames are filled, or free; the first capture block after discarding carries GAP. -/
def execQueueResume (q : Fin 12) (s : State) : Host.Outcome State Fault Refusal :=
  let x := s.aud.queues[q]
  if x.en = true ∧ (x.st = .silent ∨ x.st = .fadingOut) ∧ x.b * x.p ≤ 2 * s.queueFrames q then
    let s := if isPlayback q = false ∧ x.discarded ≠ 0 then s.blockFlag q 6 else s
    .next (s.modQueue q fun x => { x with st := .rampingUp, fadePos := rampFrom x.st x.fadePos (48 * x.fade) })
  else .next s

/-- A stream's ramp-up ends. -/
def State.streamRamped (s : State) (k : Fin 32) : State :=
  let t := s.aud.streams[k]
  if t.st = .rampingUp ∧ 48 * t.fade ≤ t.fadePos then
    (s.modStream k fun t => { t with st := .playing, fadePos := 0, silenced := 0 }).fadeEvent k.val 2 t.silenced
  else s

/-- A queue's ramp-up ends. -/
def State.queueRamped (s : State) (q : Fin 12) : State :=
  let x := s.aud.queues[q]
  if x.st = .rampingUp ∧ 48 * x.fade ≤ x.fadePos then
    (s.modQueue q fun x => { x with st := .playing, fadePos := 0, silenced := 0 }).fadeEvent (0x40 + q.val) 2 x.silenced
  else s

/-- FADE_RAMP_END (R285, R286): `x` is a stream, or 0x40 plus a queue, as byte 16 of source 65. -/
def execFadeRampEnd (x : Byte) (s : State) : Host.Outcome State Fault Refusal :=
  match ix 32 x.toNat with
  | some k => .next (s.streamRamped k)
  | none =>
    if x.toNat < 0x40 then .next s
    else
      match ix 12 (x.toNat - 0x40) with
      | some q => .next (s.queueRamped q)
      | none => .next s

/-! ### Pulses and microphones (R291, R296, R297) -/

/-- AUD_EVL_IN (R291). -/
def execAudEvlIn (q : Fin 12) (s : State) : Host.Outcome State Fault Refusal := .next (s.queueEvlIn q)

/-- AUD_START_PULSE (R297). -/
def execAudStartPulse (p : Fin 4) (s : State) : Host.Outcome State Fault Refusal := .next (s.portPulse p)

/-- PDM_STUCK (R296): the data have been all 0 or all 1 for 1 ms. -/
def execPdmStuck (m : Fin 8) (s : State) : Host.Outcome State Fault Refusal :=
  if s.aud.pdmEn.getLsbD m.val = true ∧ s.aud.pdmStuck.getLsbD m.val = false ∧ 3072 ≤ s.aud.mics[m].run then
    let a := { s.aud with pdmStuck := s.aud.pdmStuck ||| BitVec.ofNat 8 (2 ^ m.val), micFall := s.aud.micFall.set m.val 0 }
    .next ((({ s with aud := a } : State).setFlag slotAud (24 + m.val)).raise 67 2 [byte m.val])
  else .next s

/-- PDM_DATA_RETURN (R295, R296): the data toggle again. -/
def execPdmDataReturn (m : Fin 8) (s : State) : Host.Outcome State Fault Refusal :=
  if s.aud.pdmStuck.getLsbD m.val = true ∧ s.aud.mics[m].run < 3072 then
    let a := { s.aud with pdmStuck := s.aud.pdmStuck &&& ~~~(BitVec.ofNat 8 (2 ^ m.val)), micAge := s.aud.micAge.set m.val 0 }
    .next (({ s with aud := a } : State).raise 67 3 [byte m.val])
  else .next s

end Sys2Proof.Machine
end

