-- ==== Sys2Proof/Machine/AccessRx.lean ====
section
/-!
DEFINITION. Meanings of the receive commands and of the events of packet reception (11_access_receiver.md): syncs, capture, the header
check, the quality of a packet, and listening with the PDUs that it accepts.
-/

namespace Sys2Proof.Machine

/-- Update the ACC block. -/
def State.modAcc (s : State) (f : AccBlk → AccBlk) : State := { s with acc := f s.acc }

/-- Counter `i` of ACC_RX_STATS (R319). -/
def State.rxCount (s : State) (i : Nat) : State := s.bump (0xB400 + 4 * i) 1

/-! ### Commands (R318, R319) -/

/-- A setting that 0xFF keeps. -/
def kept (v old : Nat) : Nat := if v = 0xFF then old else v

/-- A byte that is neither 0xFF nor at most `hi`. -/
def over8 (c : CmdEntry) (off hi : Nat) : Bool × Status × Nat := (decide (c.u8 off ≠ 0xFF ∧ hi < c.u8 off), .range, off)

/-- ACC_RX_CFG: the settings take effect at the next receive window that opens. -/
def bodyAccRxCfg (c : CmdEntry) (s : State) : Answer :=
  checked ([over8 c 24 4, over8 c 25 15, over8 c 26 3, over8 c 27 3] ++ rsvdBytes c 28 31) fun _ =>
    .done (s.modAcc fun a => { a with rxCfg :=
      { syncErr := kept (c.u8 24) a.rxCfg.syncErr, capMargin := kept (c.u8 25) a.rxCfg.capMargin
        capEn := BitVec.ofNat 2 (kept (c.u8 26) a.rxCfg.capEn.toNat), report := BitVec.ofNat 2 (kept (c.u8 27) a.rxCfg.report.toNat) } })

/-- ACC_RX_CFG (R318). -/
def execAccRxCfg (c : CmdEntry) (s : State) : Host.Outcome State Fault Refusal := .next (s.runCmd 0x0701 c (bodyAccRxCfg c))

/-- The image of ACC_RX_STATS (R319). -/
def State.rxStats (s : State) : List Byte := (List.range 16).flatMap fun i => leBytes 4 (Tlm.get s.tlm (0xB400 + 4 * i)).toNat

/-- ACC_RX_STATS: CLEAR sets every counter to 0 after the read. -/
def bodyAccRxStats (c : CmdEntry) (s : State) : Answer :=
  checked ((decide (1 < c.u8 24), .range, 24) :: rsvdBytes c 25 27) fun _ =>
    let t := if c.u8 24 = 1 then { s with tlm := s.tlm.filter fun e => !within 0xB400 0xB43F e.1 } else s
    .ok t [] (some s.rxStats)

/-- ACC_RX_STATS (R319). -/
def execAccRxStats (c : CmdEntry) (s : State) : Host.Outcome State Fault Refusal := .next (s.runCmd 0x0702 c (bodyAccRxStats c))

/-- ACC_LISTEN: the settings take effect at the next WATCH entry, and in RUN at the next listen window. -/
def bodyAccListen (c : CmdEntry) (s : State) : Answer :=
  checked ([(decide (1 < c.u8 24), .range, 24), (!within 1 7 (c.u8 25), .range, 25), (decide (1 < c.u8 26), .range, 26),
      (!within 1 3 (c.u8 27), .range, 27), (!within 200 10000 (c.u16 28), .range, 28),
      (!within 5 200 (c.u16 30) || decide (c.u16 28 < 10 * c.u16 30), .range, 30), (decide (1 < c.u8 32), .range, 32)] ++
      rsvdBytes c 33 35) fun _ =>
    .done (s.modAcc fun a => { a with
      listenEn := decide (c.u8 24 = 1), listenCh := BitVec.ofNat 3 (c.u8 25), listenPhy := byte (c.u8 26)
      listenFilter := BitVec.ofNat 2 (c.u8 27), listenPeriod := c.u16 28, listenWin := c.u16 30, inRun := decide (c.u8 32 = 1) })

/-- ACC_LISTEN (R315, R317). -/
def execAccListen (c : CmdEntry) (s : State) : Host.Outcome State Fault Refusal := .next (s.runCmd 0x0703 c (bodyAccListen c))

/-! ### Receive windows (R309, R310, R315, R317) -/

/-- The synthesiser channel of a link-layer channel index: 37, 38 and 39 are 2, 26 and 80 (PRESUMED for the data channels: the
Bluetooth Core Specification, log 32). -/
def rfChannel (k : Nat) : Nat := if k = 37 then 2 else if k = 38 then 26 else if k = 39 then 80 else if k ≤ 10 then 4 + 2 * k else 6 + 2 * k

/-- ACC_RX_OPEN (R310): the receiver opens on the channel on which the synthesiser has settled, late where its window started before. -/
def execAccRxOpen (ch : Byte) (w : RxWindow) (s : State) : Host.Outcome State Fault Refusal :=
  if s.acc.synthSt = 2 ∧ s.acc.synthCh.val = rfChannel ch.toNat ∧ s.acc.synth[s.acc.synthCh].excluded = false then
    let s := if w.starts.toNat < s.sys.timeUs.toNat then s.rxCount 9 else s
    .next (s.modAcc fun a => { a with rxOpen := true, rxClosed := false, rxChan := ch, rxRole := w.role, cur := none, heldSync := none, rxNow := a.rxCfg })
  else .next s

/-- The receiver has nothing more to receive after its window has closed. -/
def State.rxEnds (s : State) : State :=
  if s.acc.rxClosed ∧ s.acc.cur.isNone then
    s.modAcc fun a => { a with rxOpen := false, rxClosed := false, heldSync := none, listening := false }
  else s

/-- ACC_RX_WINDOW_CLOSE (R309): a packet whose sync has been declared is received to its end. -/
def execAccRxWindowClose (s : State) : Host.Outcome State Fault Refusal :=
  if s.acc.rxOpen then .next ((s.modAcc fun a => { a with rxClosed := true }).rxEnds)
  else .next (s.modAcc fun a => { a with listening := false })

/-- A primary advertising channel 37 + i that listening may use. -/
def State.listenOn (s : State) (i : Fin 3) : Bool :=
  s.acc.listenCh.getLsbD i.val && !s.acc.synth[(Fin.ofNat 81 (rfChannel (37 + i.val)) : Fin 81)].excluded

/-- The next enabled channel in turn. -/
def State.nextListen (s : State) : Option (Fin 3) :=
  ([0, 1, 2].map fun k => (Fin.ofNat 3 (s.acc.listenNext.val + k) : Fin 3)).find? s.listenOn

/-- Listening opens windows of its own: in WATCH, and in RUN with IN_RUN unless the host scans (R315, R317). -/
def State.mayListen (s : State) : Bool :=
  s.acc.listenEn && (decide (s.pwr.st = .watch) || (decide (s.pwr.st = .run) && s.acc.inRun && !s.acc.hostScan))

/-- A listen window opens on a channel. -/
def State.openListen (s : State) (i : Fin 3) : State :=
  (s.modAcc fun a => { a with listening := true, listenNext := i + 1, rxChan := byte (37 + i.val), filterNow := a.listenFilter }).rxCount 10

/-- PERIOD has passed since the last listen window (R315). -/
def State.listenDue (s : State) : Bool :=
  match s.acc.listenAt with | none => true | some t => decide (1000 * s.acc.listenPeriod ≤ (s.sys.timeUs - t).toNat)

/-- LISTEN_WINDOW (R315, R317): once every PERIOD; in RUN a window is shortened, or skipped below 5 ms, for other activity `freeMs` away. -/
def execListenWindow (freeMs : Nat) (s : State) : Host.Outcome State Fault Refusal :=
  if s.mayListen && s.listenDue then
    match s.nextListen with
    | none => .next s
    | some i =>
      let skip : D := if s.acc.listenFirst then BitVec.ofNat 64 (1000 * s.acc.listenWin) else 0
      let s := s.modAcc fun a => { a with listenAt := some (s.sys.timeUs + skip), listenFirst := false }
      if s.pwr.st = .watch ∨ s.acc.listenWin ≤ freeMs then .next (s.openListen i)
      else if 5 ≤ freeMs then .next ((s.rxCount 12).openListen i)
      else .next (s.rxCount 12)
  else .next s

/-! ### Syncs and capture (R300 to R308) -/

/-- Bits that are 1. -/
def popCount {n : Nat} (x : BitVec n) : Nat := (allIx fun i : Fin n => x.getLsbD i.val).length

/-- The access address expected on a physical channel (R300); none for a connection that is not held. -/
def State.expectedAa (s : State) (p : PhysChan) : Option W :=
  match p with
  | .data h => (s.acc.conns.find? fun c => decide (c.handle = h)).map Conn.aa
  | _ => some 0x8E89BED6

/-- Positions in which the bits differ from an access address. -/
def SyncObs.aaErrors (o : SyncObs) (aa : W) : Nat := popCount (o.bits ^^^ aa)

/-- Bits in error in the preamble before an access address: 8 bits on LE 1M and 16 on LE 2M that alternate, the last one being the
inverse of the address's first (PRESUMED: the Bluetooth Core Specification, log 32). -/
def SyncObs.preErrors (o : SyncObs) (aa : W) : Nat :=
  let want : BitVec 16 := if aa.getLsbD 0 then 0x5555 else 0xAAAA
  let x := o.pre ^^^ want
  if o.phy = 2 then popCount x else popCount (x >>> 8)

/-- The bits make a sync within the tolerances of R300. -/
def State.isSync (s : State) (o : SyncObs) : Bool :=
  match s.expectedAa o.phys with
  | none => false
  | some aa => decide (SyncObs.aaErrors o aa ≤ s.acc.rxNow.syncErr) && (decide (3 ≤ o.phy.toNat) || decide (SyncObs.preErrors o aa ≤ 1))

/-- A packet as its sync gives it, with the access address's bit errors. -/
def SyncObs.packet (o : SyncObs) (errs power : Nat) : RxPacket :=
  { power := power, errs := errs, phy := o.phy, chan := o.chan, phys := o.phys, portB := o.portB, ts := o.ts, headerOk := false
    captured := false, adopted := false }

/-- Capture is enabled for a physical channel (R307, R318). -/
def RxSettings.captures (x : RxSettings) (p : PhysChan) : Bool :=
  match p with
  | .data _ => x.capEn.getLsbD 1
  | _ => x.capEn.getLsbD 0

/-- P_new is at least CAP_MARGIN above P_cur (R306): 10 log10(P_new / P_cur) ≥ M, that is P_new^10 ≥ 10^M P_cur^10. -/
def capturePower (comp cur margin : Nat) : Bool := decide (cur < comp) && decide (10 ^ margin * cur ^ 10 ≤ (comp - cur) ^ 10)

/-- A sync that does not capture: held while the header check is pending and none is held, refused where capture is disabled after it
(R303, R305, R307). The power of a held packet whose composite power does not exceed P_cur the spec does not state. -/
def State.weakSync (s : State) (o : SyncObs) (errs : Nat) (cur : RxPacket) (en : Bool) : State :=
  if cur.headerOk then (if en then s else s.rxCount 5)
  else if s.acc.heldSync.isSome then s
  else if cur.power < o.power then s.modAcc fun a => { a with heldSync := some (SyncObs.packet o errs (o.power - cur.power)) }
  else
    let f := s.takeFree
    f.2.modAcc fun a => { a with heldSync := some (SyncObs.packet o errs (Config.freeNat f.1)) }

/-- The access address's time on the air in µs: 32 bits, on LE Coded at 8 symbols each. -/
def aaUs (phy : Byte) : Nat := match phy.toNat with | 1 => 32 | 2 => 16 | _ => 256

/-- The sync is declared after the current packet's payload has ended (R307). -/
def SyncObs.late (o : SyncObs) (cur : RxPacket) : Bool :=
  match cur.payEnd with
  | none => false
  | some t => decide (0 < (o.ts + BitVec.ofNat 32 (aaUs o.phy) - t).toInt)

/-- A sync of the secondary correlator (R303 to R309). -/
def State.secondSync (s : State) (o : SyncObs) (errs : Nat) (cur : RxPacket) : State :=
  if s.acc.rxClosed then s
  else
    let s := s.rxCount 1
    if SyncObs.late o cur then s.rxCount 6
    else
      let en := s.acc.rxNow.captures cur.phys
      if en && capturePower o.power cur.power s.acc.rxNow.capMargin then
        (s.rxCount 4).modAcc fun a => { a with
          cur := some { SyncObs.packet o errs (o.power - cur.power) with captured := true }, heldSync := none }
      else s.weakSync o errs cur en

/-- ACC_SYNC (R300, R301). -/
def execAccSync (o : SyncObs) (s : State) : Host.Outcome State Fault Refusal :=
  if s.acc.rxOpen && s.isSync o then
    let errs := ((s.expectedAa o.phys).map (SyncObs.aaErrors o)).getD 0
    match s.acc.cur with
    | some cur => .next (s.secondSync o errs cur)
    | none =>
      if s.acc.rxClosed then .next s
      else .next ((s.rxCount 0).modAcc fun a => { a with cur := some (SyncObs.packet o errs o.power) })
  else .next s

/-! ### The header check (R302, R304, R305) -/

/-- PDU types that a role accepts on a primary or a secondary advertising channel (PRESUMED: the Bluetooth Core Specification, log 32). -/
def RxRole.types (r : RxRole) (primary : Bool) : List Nat :=
  match r with
  | .scanner => if primary then [0, 1, 2, 4, 6, 7] else [7]
  | .initiator => if primary then [0, 1, 7] else [7, 8]
  | .advertiser => [3, 5]
  | .connection => []

/-- The conditions of R302 for the packet's physical channel. -/
def State.headerPasses (s : State) (p : RxPacket) (o : HdrObs) : Bool :=
  let typeOk := fun b => (RxRole.types s.acc.rxRole b).contains o.pduType.toNat
  (match p.phys with
   | .primaryAdv => typeOk true && decide (o.length ≤ if o.pduType = 7 then 255 else 37)
   | .secondaryAdv => typeOk false && decide (o.length ≤ 255)
   | .data h =>
     match s.acc.conns.find? fun c => decide (c.handle = h) with
     | some c => decide (o.llid ≠ 0) && decide (o.length ≤ c.rxMax + if c.enc then 4 else 0)
     | none => false) &&
  (decide (p.phy.toNat < 3) || decide (o.ci.toNat ≤ 1))

/-- A failed header check: the packet is abandoned and a held sync is adopted (R304). -/
def State.falsePreamble (s : State) : State :=
  let s := s.rxCount 2
  match s.acc.heldSync with
  | some h => (s.rxCount 3).modAcc fun a => { a with cur := some { h with adopted := true }, heldSync := none }
  | none => (s.modAcc fun a => { a with cur := none }).rxEnds

/-- Microseconds from the first bit of the access address to the last one of the payload: header and payload follow the address, on LE
Coded after the coding indicator and its termination and at the rate that the indicator names (R302; PRESUMED, log 32). -/
def payloadUs (phy : Byte) (o : HdrObs) : Nat :=
  let bits := 16 + 8 * o.length
  match phy.toNat with
  | 1 => aaUs phy + bits
  | 2 => aaUs phy + bits / 2
  | _ => aaUs phy + 40 + bits * (if o.ci = 0 then 8 else 2)

/-- A header check that passes: a held sync is discarded as refused (R305). -/
def State.headerOk (s : State) (p : RxPacket) (o : HdrObs) : State :=
  let s := if s.acc.heldSync.isSome then s.rxCount 5 else s
  let p := { p with headerOk := true, payEnd := some (p.ts + BitVec.ofNat 32 (payloadUs p.phy o)) }
  s.modAcc fun a => { a with cur := some p, heldSync := none }

/-- ACC_HEADER_CHECK (R302). -/
def execAccHeaderCheck (o : HdrObs) (s : State) : Host.Outcome State Fault Refusal :=
  match s.acc.cur with
  | none => .next s
  | some p =>
    if p.headerOk then .next s
    else if s.headerPasses p o then .next (s.headerOk p o) else .next s.falsePreamble

/-! ### The end of a packet (R311 to R313) -/

/-- RX_GAIN in 0.5 dB (ACC.FE_GAIN). -/
def State.rxGain (s : State) : Int := toSigned 1 (fld s.acc.feGain 24 8)

/-- A power in femtowatt as dBm in steps of 0.5 dB, to the nearest step: 20 log10 P - 240; 0 counts as 1 (log 105). -/
def halfDbm (p : Nat) : Int := ((List.range 600).countP fun k => decide (10 ^ (2 * k + 1) ≤ p ^ 40) : Nat) - 240

/-- RSSI at the antenna port pin, P_cur with the external gain removed, in 0.5 dB (R311). -/
def State.rssiOf (s : State) (p : RxPacket) : Int := halfDbm p.power - s.rxGain

/-- RSSI as HCI events carry it: whole dBm, rounded down, within -127 to +20 (R312). -/
def hciRssi (v : Int) : Int := max (-127) (min 20 (v / 2))

/-- EVM in 0.1 %, saturating at 1,000. -/
def evmOf (o : PktEndObs) : Nat := min 1000 o.evm

/-- LQI: clamp(round(255 × (55 − EVM) / 50), 0, 255) (R311); which way a tie goes the spec does not state. -/
def lqi (evm : Nat) (up : Bool) : Nat :=
  let n := 255 * (550 - evm)
  let tie := n % 500 = 250
  min 255 (if tie ∧ up = false then n / 500 else (n + 250) / 500)

/-- The vendor quality event's parameters (R313). -/
def State.qualityEvent (s : State) (p : RxPacket) (o : PktEndObs) (up : Bool) : List Byte :=
  let handle : Nat := match p.phys with | .data h => h.toNat | _ => 0xFFFF
  let flags := b01 o.crcOk + 2 * b01 p.captured + 4 * b01 p.adopted + 8 * b01 p.portB
  [1] ++ leBytes 2 handle ++ [p.chan, p.phy, byte flags, byte p.errs, byte (lqi (evmOf o) up)] ++ leInt 2 (s.rssiOf p) ++
    leBytes 2 (evmOf o) ++ leBytes 4 p.ts.toNat ++ leBytes 2 o.length.toNat

/-- Reporting is enabled for the packet's kind (R318). -/
def RxSettings.reports (x : RxSettings) (p : PhysChan) : Bool :=
  match p with
  | .data _ => x.report.getLsbD 0
  | _ => x.report.getLsbD 1

/-- A slot that is used moves to the front of the recent ones, with the time of its use (R347, R362). -/
def State.useCred (s : State) (k : Fin 64) : State :=
  let now := BitVec.ofNat 32 s.rtc
  { s with cred := { s.cred with
    slots := upd s.cred.slots k fun c => c.map fun c => { c with lastUse := now }
    recent := (k :: s.cred.recent.filter fun j => decide (j ≠ k)).take 16 } }

/-- The flow begins (R350), or waits for the host's channel-sounding procedure to end (R351). -/
def State.startFlow (s : State) (slot : Option (Fin 64)) (inWatch : Bool) : State :=
  if s.cred.cfg.en then
    if s.acc.hostCs then { s with cred := { s.cred with flowWaits := some (slot, inWatch) } }
    else
      let credId := match slot with
        | some k => (match s.cred.slots[k] with | some c => c.credId | none => [])
        | none => []
      let f : Flow :=
        { step := .connecting, slot := slot, firstTime := slot.isNone, inWatch := inWatch, range := none, handle := 0, nonce := [], aa := 0
          credId := credId, cfg := s.cred.cfg, outcome := none }
      { s with cred := { s.cred with flow := some f } }
  else s

/-- A slot's credential can be used: it is held, and the device-unique key is not blocked (R461). -/
def State.credUsable (s : State) (k : Fin 64) : Bool := s.cred.slots[k].isSome && !s.tru.opened

/-- The first slot whose IRK resolves an advertiser's address (R315). -/
def State.slotByIrk (s : State) (o : PktEndObs) : Option (Fin 64) :=
  (allIx fun k : Fin 64 => ((s.cred.slots[k]).map fun c => Config.rpaResolves c.irk o.addr.2).getD false).head?

/-- The filter of listening accepts an advertiser: by a slot's IRK with bit 0, by the filter accept list with bit 1 (R315). -/
def State.filterHit (s : State) (filter : BitVec 2) (o : PktEndObs) : Option (Option (Fin 64)) :=
  let bySlot := match s.slotByIrk o with
    | some k => if filter.getLsbD 0 && s.credUsable k then some k else none
    | none => none
  match bySlot with
  | some k => some (some k)
  | none => if filter.getLsbD 1 && s.acc.acceptList.contains o.addr then some none else none

/-- A flow runs or waits, or the controller's 8 connections are in use in RUN: the PDU is counted and ignored (R317, R350). -/
def State.flowBlocked (s : State) : Bool :=
  s.cred.flow.isSome || s.cred.flowWaits.isSome || (decide (s.pwr.st = .run) && decide (8 ≤ s.acc.conns.length))

/-- Listening accepts a PDU (R316, R317): source 80, in WATCH the wake to RUN, and the unlock flow. A phone whose slot is held but
which came through the accept list counts as cached. -/
def State.pduAccepted (s : State) (hit : Option (Fin 64)) (o : PktEndObs) (chan : Byte) : State :=
  let s := s.rxCount 11
  if s.flowBlocked then s
  else
    let watch := decide (s.pwr.st = .watch)
    let s := s.raise 80 0 [match hit with | some k => byte k.val | none => 0xFF, chan]
    let s := if watch then s.wakeUp 7 else s
    let slot := match hit with
      | some k => some k
      | none => (s.slotByIrk o).filter s.credUsable
    let s := match slot with | some k => s.useCred k | none => s
    s.startFlow slot watch

/-- The filter in force: that of the open listen window, or in RUN the present one on every PDU of the host's scan (R317). -/
def State.filterInForce (s : State) : Option (BitVec 2) :=
  if s.acc.listening then some s.acc.filterNow
  else if s.acc.hostScan && s.acc.listenEn && s.acc.inRun && decide (s.pwr.st = .run) then some s.acc.listenFilter
  else none

/-- A packet on a primary advertising channel whose CRC passed goes to listening. -/
def State.toListening (s : State) (p : RxPacket) (o : PktEndObs) : State :=
  if o.crcOk && decide (p.phys = .primaryAdv) then
    match s.filterInForce with
    | none => s
    | some f =>
      match s.filterHit f o with
      | some hit => s.pduAccepted hit o p.chan
      | none => s
  else s

/-- The RSSI of a packet whose CRC passed joins those of its connection (R312). -/
def State.noteRssi (s : State) (p : RxPacket) (o : PktEndObs) : State :=
  match p.phys with
  | .data h =>
    if o.crcOk then
      s.modAcc fun a => { a with conns := a.conns.map fun c =>
        if c.handle = h then { c with rssi := (s.rssiOf p :: c.rssi).take 8 } else c }
    else s
  | _ => s

/-- Bytes with others in their place from `i` on. -/
def splice (l : List Byte) (i : Nat) (x : List Byte) : List Byte := l.take i ++ x ++ l.drop (i + x.length)

/-- The reports of a packet: its standard HCI traffic, then the vendor quality event (R313). -/
def State.reportPacket (s : State) (p : RxPacket) (o : PktEndObs) : State :=
  let rssi := leInt 1 (hciRssi (s.rssiOf p))
  let s := o.hci.foldl (fun s h => s.hciOut h.1.toNat (match h.2.2 with | some i => splice h.2.1 i rssi | none => h.2.1)) s
  if s.acc.rxNow.reports p.phys then
    let f := s.takeFree
    f.2.hciOut 4 ([0xFF, 18] ++ f.2.qualityEvent p o (decide (Config.freeNat f.1 % 2 = 1)))
  else s

/-- The connections of the controller, at most 8 (R299), as a packet opens, changes or ends one. -/
def State.linkChange (s : State) (p : RxPacket) (o : PktEndObs) : State :=
  let s := match p.phys, o.link with
    | .data h, some (m, e) => s.modAcc fun a => { a with conns := a.conns.map fun c => if c.handle = h then { c with rxMax := m, enc := e } else c }
    | _, _ => s
  let s := match o.closed with
    | some h => s.modAcc fun a => { a with conns := a.conns.filter fun c => decide (c.handle ≠ h) }
    | none => s
  match o.opened with
  | some (h, aa, k) => if s.acc.conns.length < 8 then s.modAcc fun a => { a with conns := { handle := h, slot := k, rssi := [], aa := aa } :: a.conns } else s
  | none => s

/-- ACC_PACKET_END (R311): the packet that passed its header check ends. -/
def execAccPacketEnd (o : PktEndObs) (s : State) : Host.Outcome State Fault Refusal :=
  match s.acc.cur with
  | none => .next s
  | some p =>
    if p.headerOk then
      let s := (s.rxCount (if o.crcOk then 7 else 8)).noteRssi p o
      let s := (s.reportPacket p o).modAcc fun a => { a with cur := none, heldSync := none }
      let s := if o.crcOk then s.linkChange p o else s
      .next ((s.toListening p o).rxEnds)
    else .next s

end Sys2Proof.Machine
end

