-- ==== Sys2Proof/Machine/AccessFe.lean ====
section
/-!
DEFINITION. Meanings of the front-end commands and of the events of the synthesiser, the PA and switch pins, coexistence, the
regulatory page and pre-distortion (12_access_frontend.md).
-/

namespace Sys2Proof.Machine

/-! ### The synthesiser (R320 to R324) -/

/-- The entry serves a hop without being computed: VALID or WORKING. -/
def SynthEntry.ready (e : SynthEntry) : Bool := decide (e.st = 1 ∨ e.st = 3)

/-- The synthesiser is locked on a channel with an entry that serves. -/
def State.lockedOn (s : State) (ch : Fin 81) : Bool :=
  decide (s.acc.synthSt = 2) && decide (s.acc.synthCh = ch) && s.acc.synth[ch].ready

/-- The reference that REF selects, in kHz (R323). -/
def refKhz (ref : BitVec 2) : Nat :=
  match ref.toNat with
  | 1 => 73728
  | 2 => 18432
  | _ => 36864

/-- Carrier of channel c in kHz: the examples of R324 place channel 0 at 2,400 MHz and the channels 1 MHz apart. -/
def carrierKhz (ch : Fin 81) : Nat := 1000 * (2400 + ch.val)

/-- The channel's carrier lies within 2 MHz of an integer multiple of its reference (R324). -/
def dithers (ref : BitVec 2) (ch : Fin 81) : Bool :=
  let r := carrierKhz ch % refKhz ref
  decide (min r (refKhz ref - r) ≤ 2000)

/-- The synthesiser moves to a channel in a state, its modulator dithering where R324 asks for it. -/
def State.synthTo (s : State) (st : BitVec 2) (ch : Fin 81) : State :=
  s.modAcc fun a => { a with synthSt := st, synthCh := ch, dither := dithers a.synth[ch].ref ch }

/-- A background calibration step has yielded the synthesiser, for the first time or again (R33). -/
def State.calYields (s : State) : State :=
  s.modAcc fun a => { a with calYield := some (a.calYield.getD s.sys.timeUs) }

/-- The starvation guard of the synthesiser: calibration has yielded for 50 ms (R33). -/
def State.calOwed (s : State) : Bool :=
  match s.acc.calYield with
  | some t => decide (50000 ≤ (s.sys.timeUs - t).toNat)
  | none => false

/-- SYNTH_HOP (R321): a calibration step that holds the synthesiser yields and is discarded. -/
def execSynthHop (ch : Fin 81) (s : State) : Host.Outcome State Fault Refusal :=
  if s.acc.synth[ch].excluded then .next s
  else
    let s := s.bump (if s.acc.synth[ch].ready then 0xB460 else 0xB464) 1
    let s := if s.acc.synthSt = 3 then s.calYields else s
    .next (s.synthTo 1 ch)

/-- An entry on which lock has been declared: a cold hop leaves it WORKING (R320, R321). -/
def SynthEntry.locked (e : SynthEntry) (tj : Int) (now : D) : SynthEntry :=
  if e.ready then { e with retry := false } else { e with st := 3, born := some now, temp := tj, retry := false }

/-- SYNTH_LOCK (R321, R325): an ACC_TX held for the channel may start. -/
def execSynthLock (ch : Fin 81) (s : State) : Host.Outcome State Fault Refusal :=
  if s.acc.synthSt = 1 ∧ s.acc.synthCh = ch then
    let s := s.modSynth ch fun e => e.locked s.pwr.tjNow s.sys.timeUs
    .next (s.modAcc fun a => { a with
      synthSt := 2, accTx := a.accTx.map fun t => if t.ch = ch then { t with locked := true } else t })
  else .next s

/-- Source 78 (R342). -/
def State.synthEvent (s : State) (ch : Fin 81) (code : Nat) : State :=
  s.raise 78 code [0, byte ch.val, byte s.acc.synth[ch].ref.toNat]

/-- SYNTH_HOP_FAIL (R322): the first failure leaves the entry EMPTY for a retry, a failed retry excludes the channel. -/
def execSynthHopFail (ch : Fin 81) (s : State) : Host.Outcome State Fault Refusal :=
  if s.acc.synthSt = 1 ∧ s.acc.synthCh = ch then
    let again := s.acc.synth[ch].retry
    let s := (s.bump 0xB468 1).setFlag slotAcc 0
    let s := s.modAcc fun a => { a with synthSt := 0 }
    let s := s.modSynth ch fun e => { e with st := 0, born := none, retry := !again, excluded := again }
    .next (s.synthEvent ch (b01 again))
  else .next s

/-- SYNTH_CAL_STEP (R33, R34): a background step takes a free synthesiser while a Class B run calibrates its entries; one that
yields is discarded and changes no entry. After 50 ms of yielding, a step in a slot free of radio activity runs to its end. -/
def execSynthCalStep (ch : Fin 81) (yielded : Bool) (s : State) : Host.Outcome State Fault Refusal :=
  if s.cal.bRun.isNone then .next s
  else if s.acc.synthSt = 1 ∨ s.acc.activity.isSome = true then .next s.calYields
  else if yielded = true ∧ s.calOwed = false then .next (s.calYields.synthTo 0 ch)
  else .next ((s.modAcc fun a => { a with calYield := none }).synthTo 3 ch)

/-! ### Power (R327) -/

/-- A signed byte of a register. -/
def sfld (w : W) (lo : Nat) : Int := toSigned 1 (fld w lo 8)

/-- PA_MODE for a power (R327). -/
def State.paMode (s : State) (p : Int) : Bool := decide (sfld s.acc.feGain 0 < p)

/-- LOSS of the port of a path (R327, R331). -/
def State.pathLoss (s : State) (path : Fin 4) : Int := fld s.acc.loss (if path.val % 2 = 0 then 0 else 8) 8

/-- P_drv in 0.5 dBm (R327). -/
def State.driver (s : State) (p : Int) (path : Fin 4) : Int :=
  p - sfld s.acc.feGain (if s.paMode p then 16 else 8) + s.pathLoss path

/-- NODPD_MAX. -/
def State.noDpdMax (s : State) : Int := sfld s.acc.dpdCfg 8

/-- How much the feedback has lowered P_drv on a channel (R328). -/
def State.cut (s : State) (ch : Fin 81) : Nat := match s.acc.fbCut.find? fun e => decide (e.1 = ch) with | some e => e.2 | none => 0

/-- P_ant under the cap without pre-distortion (R328, R339). -/
def State.capPower (s : State) (p : Int) : Int :=
  if s.acc.dpdCfg.getLsbD 0 && s.acc.dpdValid.getLsbD (b01 (s.paMode p)) && !s.acc.fbLost then p else min p s.noDpdMax

/-! ### The regulatory page (R335 to R337) -/

/-- MAX_PWR of a channel in 0.5 dBm. -/
def State.maxPower (s : State) (ch : Fin 81) : Int := toSigned 1 (s.acc.regPage.getD (24 + ch.val) 0).toNat

/-- ALLOW of a channel; an excluded one counts as disallowed (R322). -/
def State.chAllowed (s : State) (ch : Fin 81) : Bool :=
  (s.acc.regPage.getD (12 + ch.val / 8) 0).getLsbD (ch.val % 8) && !s.acc.synth[ch].excluded

/-- DUTY_1S and DUTY_1H in permille. -/
def State.duty (s : State) (off : Nat) : Nat := leNat (slice s.acc.regPage off 2)

/-- Why a transmission is refused, as the CODE of source 75 (R336, R337). -/
def State.regRefusal (s : State) (ch : Fin 81) (p : Int) (us : Nat) : Option Nat :=
  if pageValid s.acc.regPage = false then some 4
  else if s.chAllowed ch = false then some 1
  else if s.maxPower ch < p then some 0
  else if s.duty 8 * 1000 < s.airSpent 1000000 + us then some 2
  else if s.duty 10 * 3600000 < s.airSpent 3600000000 + us then some 3
  else none

/-- A refusal is flagged, counted and reported (R337, R342). -/
def State.regRefused (s : State) (code : Nat) (ch : Fin 81) (p : Int) : State :=
  let s := (s.setFlag slotAcc 1).bump (0xB448 + 4 * code) 1
  s.raiseLimited 75 0 code (BitVec.ofNat 32 (ch.val + 256 * leNat (leInt 2 p))) 1

/-! ### ACC_TX (R325, R341) -/

/-- PA_LEAD in µs: outside 2 to 16 it acts as 6 (R330). -/
def paLead (w : W) : Nat := let v := fld w 0 5; if within 2 16 v then v else 6

/-- Time on air of the transmission that an ACC_TX asks for first: PA_LEAD, 2 µs of ramp at each end, and the tone, 376 µs on
LE 1M or 192 µs on LE 2M. -/
def State.testAir (s : State) (mode count : Nat) : Nat :=
  paLead s.acc.paTiming + 4 + (match mode with | 0 => 10 * count | 1 => 376 | _ => 192)

/-- ACC_TX cannot run beside this (R341). -/
def State.radioBusy (s : State) : Bool :=
  s.acc.hostAdv || s.acc.hostScan || s.acc.hostCs || !s.acc.conns.isEmpty || s.cred.flow.isSome || s.acc.accTx.isSome

/-- ACC_TX: refused at once, or it waits for lock and for its packets. -/
def bodyAccTx (c : CmdEntry) (s : State) : Answer :=
  let ch : Fin 81 := Fin.ofNat 81 (c.u8 24)
  let path : Fin 4 := Fin.ofNat 4 (c.u8 27)
  let p := toSigned 1 (c.u8 26)
  let locked := s.lockedOn ch
  let q := s.capPower p
  let refusal := if locked || s.acc.synth[ch].excluded then s.regRefusal ch q (s.testAir (c.u8 25) (c.u16 28)) else none
  checked ([(decide (80 < c.u8 24), .range, 24), (decide (2 < c.u8 25), .range, 25), (decide (12 < s.driver p path), .range, 26),
      (decide (3 < c.u8 27), .range, 27), (decide (c.u16 28 = 0), .range, 28)] ++ rsvdBytes c 32 35 ++
      [(s.below 1, .power, 0), (s.onFio, .fault, 0), (s.radioBusy, .state, 0),
       (decide (locked = false ∧ c.u16 30 = 0 ∧ s.acc.synth[ch].excluded = false), .notready, 0)]) fun _ =>
    match refusal with
    | some code => .part (s.regRefused code ch q) .reglimit 0 [0, 0]
    | none =>
      let run : AccTxRun :=
        { slot := c.id, ch := ch, mode := byte (c.u8 25), pAnt := q, path := path, count := c.u16 28, due := s.sys.timeUs + BitVec.ofNat 64 (c.u16 30), sent := 0, tried := 0
          locked := locked, stop := false }
      .wait (s.modAcc fun a => { a with accTx := some run })

/-- ACC_TX (R325). -/
def execAccTx (c : CmdEntry) (s : State) : Host.Outcome State Fault Refusal := .next (s.runCmd 0x0710 c (bodyAccTx c))

/-- The running ACC_TX ends with a status and the packets sent. -/
def State.endAccTx (s : State) (st : Status) : State :=
  match s.acc.accTx with
  | none => s
  | some t => (s.modAcc fun a => { a with accTx := none }).finishSlot 0x0710 t.slot st 0 (leBytes 2 t.sent) none

/-- ACC_TX_DEADLINE (R325): lock has not come by dispatch + DEADLINE, and nothing is transmitted. -/
def execAccTxDeadline (s : State) : Host.Outcome State Fault Refusal :=
  match s.acc.accTx with
  | some t => if t.locked = true ∨ s.sys.timeUs.toNat < t.due.toNat then .next s else .next (s.endAccTx .notready)
  | none => .next s

/-- ACC_TX_STOP: one that transmits ends at its next packet end; one still held for lock has no packet to wait for. -/
def bodyAccTxStop (c : CmdEntry) (s : State) : Answer :=
  checked (rsvdBytes c 24 27 ++ [(s.acc.accTx.isNone, .state, 0)]) fun _ =>
    match s.acc.accTx with
    | some t =>
      if t.locked || decide (t.tried ≠ 0) then .done (s.modAcc fun a => { a with accTx := some { t with stop := true } })
      else .done (s.endAccTx .aborted)
    | none => .done s

/-- ACC_TX_STOP (R341). -/
def execAccTxStop (c : CmdEntry) (s : State) : Host.Outcome State Fault Refusal := .next (s.runCmd 0x0711 c (bodyAccTxStop c))

/-! ### Commands on the regulatory page (R335, R336, R341) -/

/-- ACC_REG_WRITE. -/
def bodyAccRegWrite (c : CmdEntry) (s : State) : Answer :=
  let p := padTo 128 c.buf
  checked (rsvdBytes c 24 27 ++ [(pageLocked s.acc.regPage, .locked, 0),
      (!pageValid p || decide (p.getD 6 0 ≠ 0), .range, 0xFFFF)]) fun _ => .done (s.modAcc fun a => { a with regPage := p })

/-- ACC_REG_WRITE (R335). -/
def execAccRegWrite (c : CmdEntry) (s : State) : Host.Outcome State Fault Refusal := .next (s.runCmd 0x0712 c (bodyAccRegWrite c))

/-- A locked page: LOCK is 0x5A, and the CRC covers it, so that the page stays valid (DEDUCED, log 33). -/
def lockPage (p : List Byte) : List Byte :=
  let q := overlay (slice p 0 124) 6 [0x5A]
  q ++ leBytes 4 (crc32c q).toNat

/-- ACC_REG_LOCK. -/
def bodyAccRegLock (c : CmdEntry) (s : State) : Answer :=
  checked [(decide (c.u8 24 ≠ 0), .range, 24), (decide (c.u8 25 ≠ 0x4B), .range, 25), (decide (c.u8 26 ≠ 0x4C), .range, 26),
      (decide (c.u8 27 ≠ 0), .range, 27), (!pageValid s.acc.regPage, .state, 0), (pageLocked s.acc.regPage, .locked, 0)] fun _ =>
    .done (s.modAcc fun a => { a with regPage := lockPage a.regPage })

/-- ACC_REG_LOCK (R336). -/
def execAccRegLock (c : CmdEntry) (s : State) : Host.Outcome State Fault Refusal := .next (s.runCmd 0x0713 c (bodyAccRegLock c))

/-- ACC_REG_READ. -/
def bodyAccRegRead (c : CmdEntry) (s : State) : Answer :=
  checked (rsvdBytes c 24 27) fun _ => .ok s [] (some (padTo 128 s.acc.regPage))

/-- ACC_REG_READ (R341). -/
def execAccRegRead (c : CmdEntry) (s : State) : Host.Outcome State Fault Refusal := .next (s.runCmd 0x0714 c (bodyAccRegRead c))

/-! ### Pre-distortion (R339, R340) -/

/-- TDELTA of ACC.DPD_CFG; outside 2 to 15 it acts as 5. -/
def State.dpdDelta (s : State) : Nat := let v := fld s.acc.dpdCfg 4 4; if within 2 15 v then v else 5

/-- A candidate set is adopted or rejected (R340 stage 3). The channel byte of source 79 the spec gives no value. -/
def State.dpdAdopt (s : State) (m : Fin 2) (resid : Int) (coef : List (Int × Int)) : State :=
  let f := s.takeFree
  let s := f.2
  let good := decide (resid < -300) && (!s.acc.dpdValid.getLsbD m.val || decide (resid < s.acc.dpdResid[m]))
  let bit : BitVec 2 := BitVec.ofNat 2 (2 ^ m.val)
  let tj := s.pwr.tjNow
  let s := s.modAcc fun a => { a with
    dpdCand := none, dpdTrain := a.dpdTrain &&& ~~~bit, dpdSteps := upd a.dpdSteps m fun _ => 0 }
  let s := if good then
      s.modAcc fun a => { a with
        dpdValid := a.dpdValid ||| bit, dpdResid := upd a.dpdResid m fun _ => resid, dpdTemp := upd a.dpdTemp m fun _ => tj
        dpdCoef := upd a.dpdCoef m fun _ => coef }
    else s.setFlag slotAcc 4
  s.raise 79 (b01 (!good)) ([0, Config.freeByte f.1 0, byte m.val, 0] ++ leInt 2 resid)

/-- A candidate that waited meets its packet boundary. -/
def State.dpdBoundary (s : State) : State :=
  match s.acc.dpdCand with
  | some (m, r, c) => s.dpdAdopt m r c
  | none => s

/-- The PA_MODE whose capture a training step takes: training is on for it, and a capture waits. -/
def State.dpdMode (s : State) : Option (Fin 2) :=
  firstIx fun m : Fin 2 => s.acc.dpdTrain.getLsbD m.val && s.acc.dpdCapt.getLsbD m.val

/-- DPD_STEP (R340 stages 2 and 3): a step never overlaps radio activity, one that yields is discarded, and after 100 consecutive
yields the gap is the training's (R33); the eighth completed one forms a candidate, which waits for the next packet boundary. -/
def execDpdStep (yielded : Bool) (residual : Int) (coef : List (Int × Int)) (s : State) : Host.Outcome State Fault Refusal :=
  if s.acc.dpdCfg.getLsbD 0 = false ∨ s.acc.fbLost = true then .next s
  else
    match s.dpdMode with
    | none => .next s
    | some m =>
      if s.acc.activity.isSome = true ∨ (yielded = true ∧ s.acc.dpdYields < 100) then
        .next ((s.bump 0xB474 1).modAcc fun a => { a with dpdYields := a.dpdYields + 1 })
      else
        let n := s.acc.dpdSteps[m] + 1
        let s := (s.bump 0xB470 1).modAcc fun a => { a with
          dpdYields := 0, dpdCand := if n < 8 then a.dpdCand else some (m, residual, coef) 
          dpdSteps := upd a.dpdSteps m fun k => if k < 7 then k + 1 else 0, dpdCapt := a.dpdCapt &&& ~~~(BitVec.ofNat 2 (2 ^ m.val)) }
        .next s

/-- The die temperature has moved TDELTA from the adoption of a set in force (R340). -/
def State.dpdMoved (s : State) : Bool :=
  (List.finRange 2).any fun m => s.acc.dpdValid.getLsbD m.val && decide (s.dpdDelta ≤ (s.pwr.tjNow - s.acc.dpdTemp[m]).natAbs)

/-- 60 s have passed since training started, and a packet has qualified that no step has used (R340). -/
def State.dpdMinute (s : State) : Bool := decide (60000000 ≤ (s.sys.timeUs - s.acc.dpdAt).toNat) && decide (s.acc.dpdCapt ≠ 0)

/-- DPD_RETRAIN (R340): training restarts on a temperature change or every 60 s; it stays stopped while feedback is lost (R328). -/
def execDpdRetrain (s : State) : Host.Outcome State Fault Refusal :=
  if s.acc.dpdCfg.getLsbD 0 = true ∧ s.acc.fbLost = false ∧ (s.dpdMoved || s.dpdMinute) = true then
    .next (s.modAcc fun a => { a with
      dpdTrain := 3, dpdSteps := Vector.replicate 2 0, dpdCand := none, dpdAt := s.sys.timeUs })
  else .next s

/-- Entry s of the phase table for a channel; 0 where no capture has moved it. -/
def thetaStep (l : List (Fin 81 × Nat × Rat)) (ch : Fin 81) (k : Nat) : Rat :=
  match l.find? fun e => decide (e.1 = ch) && decide (e.2.1 = k) with | some e => e.2.2 | none => 0

/-- theta at a power in 0.5 dBm, linear between the 21 steps of 2 dB from -20 to +20 dBm (R339). -/
def thetaAt (l : List (Fin 81 × Nat × Rat)) (ch : Fin 81) (p : Int) : Rat :=
  let n := ((max (-40) (min 40 p)) + 40).toNat
  let a := thetaStep l ch (n / 4)
  a + (thetaStep l ch (n / 4 + 1) - a) * (n % 4 : Nat) / 4

/-- The coefficients in force for a PA_MODE; none without a valid set or with pre-distortion off (R339). -/
def State.dpdSet (s : State) (m : Fin 2) : Option (List (Int × Int)) :=
  if s.acc.dpdCfg.getLsbD 0 = true ∧ s.acc.dpdValid.getLsbD m.val = true then some s.acc.dpdCoef[m] else none

/-- The samples at the driver for those of a transmission (R339); before the first one stands silence. -/
def State.predistort (s : State) (ch : Fin 81) (p : Int) (x : List (Int × Int)) : List (Int × Int) :=
  let t := thetaAt s.acc.theta ch p
  let c := s.dpdSet (if s.paMode p then 1 else 0)
  let at_ := fun (i k : Nat) => if i < k then (0, 0) else x.getD (i - k) (0, 0)
  (List.range x.length).map fun i => Config.dpdSample t c (at_ i 0) (at_ i 1) (at_ i 2)

/-- theta[c][s] moves one quarter of the way toward the measured phase error (R340); a power between two steps moves the lower
one (DEDUCED, log 34). -/
def moveTheta (l : List (Fin 81 × Nat × Rat)) (ch : Fin 81) (p : Int) (phase : Int) : List (Fin 81 × Nat × Rat) :=
  let k := ((max (-40) (min 40 p)) + 40).toNat / 4
  let is := fun (e : Fin 81 × Nat × Rat) => decide (e.1 = ch) && decide (e.2.1 = k)
  let old : Rat := match l.find? is with | some e => e.2.2 | none => 0
  (l.filter fun e => !is e) ++ [(ch, k, old + ((phase : Rat) - old) / 4)]

/-! ### Pins, coexistence and feedback (R328 to R334) -/

/-- COEX_CFG.EN. -/
def State.coexOn (s : State) : Bool := s.acc.coexCfg.getLsbD 0

/-- A denial or a withdrawal is flagged and reported (R334, R342). A burst of a Class B run has no class of PRI_MASK; its class byte is
free. -/
def State.coexEvent (s : State) (code : Nat) (ch : Fin 81) (cls : Fin 7) : State :=
  let k := s.takeFree
  let c := if cls = 6 then (Config.freeByte k.1 0).toNat else cls.val
  (k.2.setFlag slotAcc 2).raiseLimited 76 0 code (BitVec.ofNat 32 (ch.val + 256 * c)) 1

/-- A scheduled transmission that is not sent counts as missed (R326). -/
def State.missed (s : State) : State := s.bump 0xB440 1

/-- A burst of a Class B run is refused (R440): under R337, or as the tenth consecutive denial, the run ends and stores nothing. -/
def State.burstRefused (s : State) (st : Status) : State :=
  match s.cal.bRun with
  | none => s
  | some r =>
    if st = .reglimit ∨ 9 ≤ r.denied then s.calBOver.finishSlot 0x0901 r.slot st 0 [0, byte r.suspect.toNat] none
    else { s with cal := { s.cal with bRun := some { r with denied := r.denied + 1 } } }

/-- A burst of a Class B run is granted. -/
def State.burstGranted (s : State) (cls : Fin 7) : State :=
  match s.cal.bRun with
  | some r => if cls = 6 then { s with cal := { s.cal with bRun := some { r with denied := 0 } } } else s
  | none => s

/-- An activity is refused before any pin of step 3 moves: an ACC_TX ends, a scheduled transmission counts as missed, a receive
window does not open (R333, R337). -/
def State.notSent (s : State) (tx : Bool) (cls : Fin 7) (st : Status) : State :=
  if cls = 6 then s.burstRefused st
  else if tx then (if cls = 4 then s.endAccTx st else s.missed)
  else s.modAcc fun a => { a with listening := false }

/-- Step 1 of R329: the request, with COEX_PRI under PRI_MASK; PA_TIMING comes into force (R330). -/
def State.requestAir (s : State) (cls : Fin 7) : State :=
  let on := s.coexOn
  let pri := decide (cls ≠ 6) && s.acc.coexCfg.getLsbD (8 + cls.val)
  s.modAcc fun a => { a with
    paTimingNow := a.paTiming, pins := { a.pins with coexReq := on, coexPri := on && pri } }

/-- Steps 3 to 6 of R329. -/
def State.onAir (s : State) (x : Activity) : State :=
  let mode := x.tx && s.paMode x.pAnt
  s.modAcc fun a => { a with
    activity := some x
    pins := { a.pins with antSel := decide (2 ≤ x.path.val), trTx := x.tx, paMode := mode, paEn := x.tx, lnaEn := !x.tx } }

/-- Transmit time is spent from the rise to the fall of PA_EN (R337); entries older than an hour go. -/
def State.spendAir (s : State) (us : Nat) : State :=
  let now := s.sys.timeUs
  s.modAcc fun a => { a with
    airLog := (now + BitVec.ofNat 64 us, us) :: a.airLog.filter fun e => decide (now.toNat < e.1.toNat + 3600000000) }

/-- COEX_GNT is active at a level of its pin (GNT_LOW). -/
def State.gntActive (s : State) (level : Bool) : Bool := level != s.acc.coexCfg.getLsbD 2

/-- The levels of COEX_REQ and COEX_PRI at their pins (REQ_LOW). -/
def State.coexLevels (s : State) : Bool × Bool :=
  (s.acc.pins.coexReq != s.acc.coexCfg.getLsbD 1, s.acc.pins.coexPri != s.acc.coexCfg.getLsbD 1)

/-- The air is granted: coexistence is off, or COEX_GNT is active at step 2. -/
def State.granted (s : State) (gnt : Bool) : Bool := !s.coexOn || s.gntActive gnt

/-- A transmission may begin: the synthesiser is locked on its channel; an ACC_TX or a Class B run is the one that runs. -/
def State.txReady (s : State) (x : Activity) : Bool :=
  s.lockedOn x.ch && (decide (x.cls ≠ 6) || s.cal.bRun.isSome) &&
    (decide (x.cls ≠ 4) || (match s.acc.accTx with | some t => t.locked && decide (t.ch = x.ch) | none => false))

/-- The activity begins: the page is checked, the air requested, the grant sampled, the pins set (R329, R333, R337). -/
def State.beginActivity (s : State) (x : Activity) (gnt : Bool) : State :=
  let us := paLead s.acc.paTiming + 4 + x.packetUs
  match if x.tx then s.regRefusal x.ch x.pAnt us else none with
  | some code => (s.regRefused code x.ch x.pAnt).notSent true x.cls .reglimit
  | none =>
    let s := s.requestAir x.cls
    let s := s.modAcc fun a => { a with gnt := s.gntActive gnt }
    if s.granted gnt then
      let s := (s.onAir x).burstGranted x.cls
      if x.tx then s.spendAir us else s
    else
      let s := s.modAcc fun a => { a with pins := { a.pins with coexReq := false, coexPri := false } }
      (s.coexEvent 0 x.ch x.cls).notSent x.tx x.cls .coex

/-- Steps 7 and 8 of R329: the pins return to their inactive levels; COEX_REQ stays for REQ_HOLD. -/
def State.offAir (s : State) : State :=
  s.modAcc fun a => { a with
    activity := none, offAt := s.sys.timeUs, pins := { a.pins with paEn := false, lnaEn := false, trTx := false, paMode := false } }

/-- Source 77 (R342). -/
def State.paEvent (s : State) (code : Nat) (ch : Fin 81) (p : Int) : State := s.raise 77 code ([0, byte ch.val] ++ leInt 2 p)

/-- P_drv of a channel is lowered by a number of 0.5 dB steps (R328). -/
def addCut (l : List (Fin 81 × Nat)) (ch : Fin 81) (n : Nat) : List (Fin 81 × Nat) :=
  let old := match l.find? fun e => decide (e.1 = ch) with | some e => e.2 | none => 0
  (l.filter fun e => decide (e.1 ≠ ch)) ++ [(ch, old + n)]

/-- The measured power exceeds the channel's limit by more than 1.0 dB (R328). -/
def State.overPower (s : State) (x : Activity) (m : Int) : State :=
  if s.maxPower x.ch + 2 < m then
    let s := (s.modAcc fun a => { a with fbCut := addCut a.fbCut x.ch (m - s.maxPower x.ch).toNat }).setFlag slotAcc 3
    s.paEvent 1 x.ch m
  else s

/-- Feedback is lost after 3 consecutive packets more than 10 dB low, and good again within 3 dB (R328). -/
def State.lowPower (s : State) (x : Activity) (m : Int) : State :=
  let low := m < x.pAnt - 20
  let n := if low then s.acc.fbLow + 1 else 0
  let s := s.modAcc fun a => { a with fbLow := n }
  if n = 3 ∧ s.acc.fbLost = false then
    let s := s.modAcc fun a => { a with
      fbLost := true, fbOk := false, dpdSteps := Vector.replicate 2 0, dpdCapt := 0, dpdCand := none }
    (s.setFlag slotAcc 5).paEvent 0 x.ch m
  else if (m - x.pAnt).natAbs ≤ 6 then s.modAcc fun a => { a with fbOk := true, fbLost := false }
  else s

/-- The measurement of ACC_FB on a packet of at least 40 µs (R328): P_fb + FB_COUPLING − LOSS. -/
def State.feedback (s : State) (x : Activity) (fb : Option Int) : State :=
  match fb with
  | none => s
  | some p =>
    if x.packetUs < 40 then s
    else
      let m := p + fld s.acc.loss 16 8 - s.pathLoss x.path
      (s.overPower x m).lowPower x m

/-- A packet with P_ant of at least 0 dBm and 64 µs of payload gives a capture (R340 stage 1). -/
def State.dpdCapture (s : State) (x : Activity) (phase : Int) : State :=
  if 0 ≤ x.pAnt ∧ 64 ≤ x.payloadUs ∧ s.acc.fbLost = false ∧ s.acc.dpdCfg.getLsbD 0 = true then
    let m := b01 (s.paMode x.pAnt)
    (s.bump 0xB46C 1).modAcc fun a => { a with
      dpdCapt := a.dpdCapt ||| BitVec.ofNat 2 (2 ^ m), theta := moveTheta a.theta x.ch x.pAnt phase }
  else s

/-- A packet of the running ACC_TX ends, whole or aborted: the last one, or the next after a stop, completes the command. -/
def State.accTxPacket (s : State) (whole : Bool) : State :=
  match s.acc.accTx with
  | none => s
  | some t =>
    let u := { t with tried := t.tried + 1, sent := t.sent + b01 (whole && decide (t.mode ≠ 0)) }
    let s := s.modAcc fun a => { a with accTx := some u }
    if t.stop then s.endAccTx .aborted
    else if t.mode = 0 ∨ t.count ≤ u.tried then s.endAccTx .ok
    else s

/-- The activity ends (R328, R329, R340). -/
def State.endActivity (s : State) (fb : Option Int) (phase : Int) : State :=
  match s.acc.activity with
  | none => s
  | some x =>
    let s := s.offAir
    if x.tx then
      let s := ((s.feedback x fb).dpdCapture x phase).dpdBoundary
      if x.cls = 4 then s.accTxPacket true else s
    else s.dpdBoundary

/-- The transmission or reception that a request makes: an ACC_TX has its own power, path and times; link-layer traffic keeps to MAX_PWR
(R327, R338, R339, R341). -/
def State.activityOf (s : State) (tx : Bool) (cls : Fin 7) (ch : Fin 81) (pAnt : Int) (path : Fin 4) (packetUs payloadUs : Nat)
    (samples : List (Int × Int)) : Activity :=
  let run := if cls = 4 then s.acc.accTx else none
  let p := match run with
    | some t => t.pAnt
    | none => s.capPower (if cls.val < 4 then min pAnt (s.maxPower ch) else pAnt)
  let path := (run.map AccTxRun.path).getD path
  let times := match run with
    | some t => (match t.mode.toNat with | 0 => (10 * t.count, 0) | 1 => (376, 296) | _ => (192, 148))
    | none => (packetUs, payloadUs)
  { tx := tx, cls := cls, ch := ch, pAnt := p, path := path, pDrv := s.driver p path - s.cut ch, packetUs := times.1, payloadUs := times.2
    out := if tx then s.predistort ch p samples else [] }

/-- RADIO_ACTIVITY (R329): the activity begins, or the one on air ends. A scheduled transmission whose channel is not locked in
time counts as missed (R326). -/
def execRadioActivity (a : ActivityObs) (s : State) : Host.Outcome State Fault Refusal :=
  match a with
  | .begins tx cls ch pAnt path packetUs payloadUs samples gnt =>
    if s.acc.activity.isSome then .next s
    else
      let s := if tx then s.dpdBoundary else s
      let x := s.activityOf tx cls ch pAnt path packetUs payloadUs samples
      if tx && !s.txReady x then .next (if cls = 4 ∨ cls = 6 then s else s.missed)
      else .next (s.beginActivity x gnt)
  | .ends fb phase => .next (s.endActivity fb phase)

/-- The transmission on air is cut now: the time spent ends here. -/
def State.cutAir (s : State) : State :=
  let now := s.sys.timeUs
  s.modAcc fun a => { a with airLog :=
    match a.airLog with
    | (e, n) :: rest => (now, now.toNat - (e.toNat - n)) :: rest
    | [] => [] }

/-- COEX_GNT_WITHDRAWN (R334): a transmission is cut and counted as aborted; a receive window ends when ABORT_RX is 1. -/
def execCoexGntWithdrawn (s : State) : Host.Outcome State Fault Refusal :=
  match s.acc.activity with
  | none => .next s
  | some x =>
    if s.coexOn then
      let s := s.modAcc fun a => { a with gnt := false }
      if x.tx then
        let s := ((s.cutAir.offAir).bump 0xB444 1).coexEvent 1 x.ch x.cls
        .next (if x.cls = 4 then s.accTxPacket false else s)
      else
        let s := if s.acc.coexCfg.getLsbD 3 then
            s.offAir.modAcc fun a => { a with cur := none, heldSync := none, rxOpen := false, rxClosed := false, listening := false }
          else s
        .next (s.coexEvent 2 x.ch x.cls)
    else .next s

/-- COEX_REQ_HOLD_EXPIRY (R329 step 9): REQ_HOLD has passed without another activity. -/
def execCoexReqHoldExpiry (s : State) : Host.Outcome State Fault Refusal :=
  if s.acc.activity.isNone = true ∧ 4 * fld s.acc.paTimingNow 24 8 ≤ (s.sys.timeUs - s.acc.offAt).toNat then
    .next (s.modAcc fun a => { a with pins := { a.pins with coexReq := false, coexPri := false } })
  else .next s

end Sys2Proof.Machine
end

