-- ==== Sys2Proof/Machine/Power.lean ====
section
/-!
DEFINITION. Meanings of the power commands and of the events of the power controller (17_power.md).
-/

namespace Sys2Proof.Machine

/-! ### PWR_LEVEL (R410, R420, R428) -/

/-- A level request that may start now. -/
def State.startLevel (s : State) (t : BitVec 2) (slot : Nat) : Answer :=
  let new := s.levelFor t
  match if new.toNat < s.pwr.level.toNat then s.levelRefuser new else none with
  | some (k, i) => .part s .busy (256 * k + i) []
  | none =>
    if new = s.pwr.level then
      let s := s.modPwr fun p => { p with target := t }
      .ok s s.levelResult none
    else .wait (s.changeLevel t (some slot))

/-- A request ends an entry in progress before A4, which then completes with E_SUPERSEDED (R420). -/
def State.requestComes (s : State) : State := (s.settleUndone true).abandonEntry false true

/-- A level change is in progress. -/
def State.levelRuns (s : State) : Bool := match s.pwr.trans with | some (.level _ _ _) => true | _ => false

/-- PWR_LEVEL. -/
def bodyPwrLevel (c : CmdEntry) (s : State) : Answer :=
  checked ((decide (3 < c.u8 24), .range, 24) :: rsvdBytes c 25 27 ++ [(decide (s.pwr.st = .limp), .state, 0)]) fun _ =>
    let s := s.requestComes
    let t := BitVec.ofNat 2 (c.u8 24)
    if s.levelRuns then .wait (s.setPending (.level t (some c.id))) else s.startLevel t c.id

/-- PWR_LEVEL (R410). -/
def execPwrLevel (c : CmdEntry) (s : State) : Host.Outcome State Fault Refusal := .next (s.runCmd 0x0801 c (bodyPwrLevel c))

/-! ### PWR_SLEEP (R416 to R420) -/

/-- A sleep request that may start now: refused under R418, or the entry begins. -/
def State.startSleep (s : State) (t : BitVec 3) (slot : Nat) : Answer :=
  match s.sleepRefuser t (some slot) with
  | some (k, i) => .part (s.refuseEntry t k i) .busy (256 * k + i) []
  | none => .wait (s.beginEntry t (some slot))

/-- PWR_SLEEP. -/
def bodyPwrSleep (c : CmdEntry) (s : State) : Answer :=
  checked ((!within 1 5 (c.u8 24), .range, 24) :: rsvdBytes c 25 27 ++ [(decide (s.pwr.st = .limp), .state, 0)]) fun _ =>
    let s := s.requestComes
    let t := BitVec.ofNat 3 (c.u8 24)
    if s.levelRuns then .wait (s.setPending (.sleep t (some c.id))) else s.startSleep t c.id

/-- PWR_SLEEP (R416). -/
def execPwrSleep (c : CmdEntry) (s : State) : Host.Outcome State Fault Refusal := .next (s.runCmd 0x0802 c (bodyPwrSleep c))

/-- The steward asks for a sleep state itself: PWR.MODE and wait-for-interrupt (R416). -/
def State.stewardSleep (s : State) (t : BitVec 3) : State :=
  if s.pwr.st = .run ∧ within 1 5 t.toNat = true ∧ s.saf.safe = false then
    let s := s.requestComes
    if s.levelRuns then s.setPending (.sleep t none)
    else
      match s.sleepRefuser t none with
      | some (k, i) => s.refuseEntry t k i
      | none => s.beginEntry t none
  else s

/-- STEWARD_SLEEP_REQUEST (R416). -/
def execStewardSleepRequest (target : BitVec 3) (s : State) : Host.Outcome State Fault Refusal := .next (s.stewardSleep target)

/-- The pending target starts once no transition runs (R420). -/
def State.pendingStart (s : State) : State :=
  if s.pwr.trans.isSome ∨ s.pwr.st ≠ .run then s
  else
    match s.pwr.pending with
    | none => s
    | some (.level t slot) =>
      let s := s.modPwr fun p => { p with pending := none }
      match slot with
      | none => s.changeLevel t none
      | some k =>
        match s.startLevel t k with
        | .ok u r _ => u.finishSlot 0x0801 k .ok 0 r none
        | .part u st d r => u.finishSlot 0x0801 k st d r none
        | .fail st d => s.finishSlot 0x0801 k st d [] none
        | .wait u => u
    | some (.sleep t slot) =>
      let s := s.modPwr fun p => { p with pending := none }
      match s.sleepRefuser t slot with
      | some (k, i) => (s.refuseEntry t k i).endSleepCmd slot .busy (256 * k + i) []
      | none => s.beginEntry t slot

/-- PWR_PENDING_START (R420). -/
def execPwrPendingStart (s : State) : Host.Outcome State Fault Refusal := .next s.pendingStart

/-- DMA_DRAIN_TIMEOUT (R375): the entry is refused with the lowest-numbered channel in progress, and every channel is released. -/
def State.drainTimeout (s : State) : State :=
  match s.pwr.trans, firstIx fun n : Fin 16 => s.dma.ch[n].inFlight with
  | some (.entry t slot 0), some n =>
    ((s.unwind).refuseEntry t 1 n.val).endSleepCmd slot .busy (256 + n.val) []
  | _, _ => s

/-- DMA_DRAIN_TIMEOUT (R375): 50 µs of an entry have passed. -/
def execDmaDrainTimeout (s : State) : Host.Outcome State Fault Refusal :=
  .next (if 50 ≤ (s.sys.timeUs - s.pwr.entryAt).toNat then s.drainTimeout else s)

/-! ### PWR_ALARM and PWR_STATUS (R428) -/

/-- PWR_ALARM: one alarm, replaced or cancelled. -/
def bodyPwrAlarm (c : CmdEntry) (s : State) : Answer :=
  checked ([(decide (1 < c.u8 24), .range, 24), (decide (1 < c.u8 25), .range, 25)] ++ rsvdBytes c 26 27 ++
      [(decide (c.u8 24 = 1 ∧ c.u32 28 = 0), .range, 28), (decide (s.pwr.st = .limp), .state, 0)]) fun _ =>
    .done (s.modPwr fun p => { p with
      alarm := if c.u8 24 = 1 then some { hostwake := decide (c.u8 25 = 1), delay := BitVec.ofNat 32 (c.u32 28) } else none })

/-- PWR_ALARM (R428). -/
def execPwrAlarm (c : CmdEntry) (s : State) : Host.Outcome State Fault Refusal := .next (s.runCmd 0x0803 c (bodyPwrAlarm c))

/-- PWR_STATUS. -/
def bodyPwrStatus (_c : CmdEntry) (s : State) : Answer :=
  .ok s ([byte s.pwrState, byte s.pwr.level.toNat, byte s.pwr.target.toNat, s.pwr.wakeCode, s.pwr.tj, s.pwr.refKind
    , s.pwr.refInst, 0] ++ leBytes 4 (Tlm.get s.tlm 0xBA00).toNat ++ leBytes 4 (Tlm.get s.tlm 0xBA04).toNat) none

/-- PWR_STATUS (R428). -/
def execPwrStatus (c : CmdEntry) (s : State) : Host.Outcome State Fault Refusal := .next (s.runCmd 0x0804 c (bodyPwrStatus c))

/-! ### PMIC (R412) -/

/-- The read of 0xA2 counts as a transaction of TW1 unless it ended with E_BUS, and as not acknowledged with E_NACK (R503). -/
def State.pollCount (s : State) (a : PmicAns) : State :=
  match a with
  | .status _ _ _ => s.bump 0xB920 1
  | .failed c => if c = 16 then s else if c = 17 then (s.bump 0xB920 1).bump 0xB924 1 else s.bump 0xB920 1

/-- A poll (R412): a request that ended with E_BUS is repeated; else the bits and the monitor acknowledge it, and anything else
leaves it waiting. -/
def State.pmicPoll (s : State) (a : PmicAns) : State :=
  match s.pwr.pmicWait, s.tw.voltDue with
  | none, _ => s
  | some _, some t => ({ s with tw := { s.tw with voltDue := none } }).twWait 1 t
  | some mv, none =>
    if s.voltSent then
      let s := s.pollCount a
      if pmicAcks a mv then s.pmicAcked else s
    else s

/-- PMIC_POLL (R412). -/
def execPmicPoll (a : PmicAns) (s : State) : Host.Outcome State Fault Refusal := .next (s.pmicPoll a)

/-- PMIC_TIMEOUT (R412): 2 ms from the STOP of the first write. -/
def execPmicTimeout (s : State) : Host.Outcome State Fault Refusal :=
  .next (if 2000 ≤ (s.sys.timeUs - s.pwr.pmicAt).toNat then s.pmicFailed else s)

/-! ### The governor (R413) -/

/-- At least `us` microseconds have passed since an instant, if there is one. -/
def State.lasted (s : State) (since : Option D) (us : Nat) : Bool :=
  match since with | some t => decide (us ≤ (s.sys.timeUs - t).toNat) | none => false

/-- GOVERNOR_CAP (R413, R95): Tj has stayed at or above TRIP for 100 ms; at once, or when the transition in progress ends. -/
def execGovernorCap (s : State) : Host.Outcome State Fault Refusal :=
  .next (if s.pwr.capped ∨ s.lasted s.pwr.hotSince 100000 = false then s
    else if s.pwr.trans.isSome then s.modPwr fun p => { p with capDue := true }
    else s.applyCap)

/-- The cap is lifted and the level in force returns to the target. -/
def State.releaseCap (s : State) : State :=
  let s := (s.modPwr fun p => { p with capped := false }).levelEvent 3 s.pwr.level
  if s.pwr.trans.isNone ∧ s.pwr.st = .run then s.changeLevel s.pwr.target none else s

/-- GOVERNOR_RELEASE (R413): Tj has stayed below TRIP − HYST for 10 s. -/
def execGovernorRelease (s : State) : Host.Outcome State Fault Refusal :=
  .next (if s.lasted s.pwr.coolSince 10000000 = false then s else if s.pwr.capped then s.releaseCap else s.modPwr fun p => { p with capDue := false })

/-! ### Wake sources (R423 to R428) -/

/-- The input's condition is met by its new level: rising, falling, either edge, or a high level (PWR.WAKE_CFG). -/
def wakeTrigger (trig : Nat) (old new : Bool) : Bool :=
  match trig with
  | 0 => !old && new
  | 1 => old && !new
  | 2 => decide (old ≠ new)
  | _ => new

/-- A cold start or a reset is in progress (R487). -/
def State.starting (s : State) : Bool :=
  (decide (s.pwr.st = .off) && (s.pwr.pwrEn || s.pwr.coldHold)) || (decide (s.pwr.st = .run) && !s.host.ready && !s.saf.safe)

/-- A WAKE input that has kept its level for DEBOUNCE: source 7 for an edge in RUN or in a start, a wake event while EN is 1 and its
condition is met (R60, R424, R487). -/
def State.wakeInput (s : State) (k : Fin 4) (level : Bool) : State :=
  let old := s.pwr.wakeLevel.getLsbD k.val
  let cfg := s.pwr.wakeCfg[k]
  let bit := BitVec.ofNat 4 (2 ^ k.val)
  let s := s.modPwr fun p => { p with wakeLevel := if level then p.wakeLevel ||| bit else p.wakeLevel &&& ~~~bit }
  let data := [byte k.val, byte (b01 level)]
  if s.starting then (if old ≠ level then s.raiseDeferred 7 0 data else s)
  else
    let s := if s.pwr.st = .run ∧ old ≠ level then s.raise 7 0 data else s
    if cfg.getLsbD 0 && wakeTrigger (fld cfg 1 2) old level then s.wakeUp (k.val + 1) else s

/-- WAKE_PIN (R424); edges are ignored while the HV reset holds (R481, R518). -/
def execWakePin (k : Fin 4) (level : Bool) (s : State) : Host.Outcome State Fault Refusal :=
  .next (if s.pwr.vbatOk then s.wakeInput k level else s)

/-- RTC_ALARM (R428): it wakes with code 5 and is spent; in OFF it does not wake. -/
def execRtcAlarm (s : State) : Host.Outcome State Fault Refusal :=
  .next (if s.pwr.alarm.isNone then s else (s.wakeUp 5).modPwr fun p => { p with alarm := none })

/-- ACCESS_TIMER_WAKE (R418). -/
def execAccessTimerWake (s : State) : Host.Outcome State Fault Refusal := .next (s.wakeUp 9)

/-- WAKE (R425). -/
def execWake (code : Byte) (s : State) : Host.Outcome State Fault Refusal := .next (s.wakeUp code.toNat)

/-- A step of a start or a wake waits for this report (R426). -/
def State.waitsFor (s : State) (r : ReadyReport) : Bool :=
  match r with
  | .pmic => s.pwr.waking.isSome && s.pwr.pmicWait.isSome
  | .reference => s.clk.refOn && !s.clk.refOk
  | _ => s.pwr.pwrEn && (decide (s.pwr.st = .off) || (decide (s.pwr.st = .stow) && s.pwr.waking.isSome))

/-- WAKE_STEP_TIMEOUT (R426, R469 code 24). For VDD_CORE the HV side drives FAULT_N itself. -/
def execWakeStepTimeout (r : ReadyReport) (s : State) : Host.Outcome State Fault Refusal :=
  .next (if s.waitsFor r then
    let s := if r = .vddCore then { s with saf := { s.saf with hvFault := true } } else s
    s.stepMissed r (reportCode r)
  else s)

/-- WAKE_STEP_REPEAT (R426): 5 ms after a miss a repeat that succeeds goes on with the wake, the third that fails ends it. -/
def execWakeStepRepeat (ready : Bool) (s : State) : Host.Outcome State Fault Refusal :=
  .next (match s.pwr.badStep with
    | none => s
    | some (r, n) =>
      if (s.sys.timeUs - s.pwr.badAt).toNat < 5000 then s
      else if ready then s.stepReady r
      else if n < 2 then s.modPwr fun p => { p with badStep := some (r, n + 1), badAt := s.sys.timeUs }
      else s.stepFails r)

end Sys2Proof.Machine
end

