-- ==== Sys2Proof/Machine/Ranging.lean ====
section
/-!
DEFINITION. Meanings of the credential, unlock and verdict commands and of the events of the unlock flow
(13_ranging_credentials.md).
-/

namespace Sys2Proof.Machine

/-- Update the credential block. -/
def State.modCred (s : State) (f : CredBlk → CredBlk) : State := { s with cred := f s.cred }

/-- A string of ASCII characters as bytes. -/
def ascii (t : List Nat) : List Byte := t.map byte

/-- "KZCRED", "KZ9640 access", "KZ9640 challenge", "KZ9640 verdict", "LTK" and "CH". -/
def txtCred : List Byte := ascii [0x4B, 0x5A, 0x43, 0x52, 0x45, 0x44]
def txtPart : List Byte := ascii [0x4B, 0x5A, 0x39, 0x36, 0x34, 0x30, 0x20]
def txtAccess : List Byte := txtPart ++ ascii [0x61, 0x63, 0x63, 0x65, 0x73, 0x73]
def txtChallenge : List Byte := txtPart ++ ascii [0x63, 0x68, 0x61, 0x6C, 0x6C, 0x65, 0x6E, 0x67, 0x65]
def txtVerdict : List Byte := txtPart ++ ascii [0x76, 0x65, 0x72, 0x64, 0x69, 0x63, 0x74]
def txtLtk : List Byte := ascii [0x4C, 0x54, 0x4B]
def txtCh : List Byte := ascii [0x43, 0x48]

/-! ### Credentials (R343 to R346) -/

/-- Bytes of a credential. -/
def credLen : Nat := 6263

/-- Fields of a credential (R343). -/
def credKeyId (b : List Byte) : Nat := be b 1 1
def credId (b : List Byte) : List Byte := slice b 12 16
def credNotBefore (b : List Byte) : Nat := be b 28 8
def credNotAfter (b : List Byte) : Nat := be b 36 8
def credCt (b : List Byte) : List Byte := slice b 68 1568

/-- Step 1 of R344, but for the key slot. -/
def State.credForm (s : State) (b : List Byte) : Bool :=
  decide (b.length = credLen) && decide (be b 0 1 = 1) && decide (credKeyId b ≤ 1) && decide (be b 2 1 < 16) && decide (be b 3 1 = 0) &&
    decide (be b 4 8 = s.bul.fleetId.toNat) && decide (credNotBefore b ≤ credNotAfter b) && decide (be b 66 1 ≤ 1) && decide (be b 67 1 = 0)

/-- The operator key that KEY_ID names (R252). -/
def State.credKey (s : State) (b : List Byte) : Option (List Byte) := match ix 2 (credKeyId b) with | some i => s.bul.keys[i] | none => none

/-- The first of steps 1 to 5 of R344 that fails, as its code; with the device-unique key blocked nothing decapsulates (R461). -/
def State.credCheck (s : State) (b : List Byte) : Option Nat :=
  match if s.credForm b then s.credKey b else none with
  | none => some 8
  | some key =>
    if Config.hashMldsaVerify key txtCred (Config.sha3 (b.take 1636)) (b.drop 1636) = false then some 9
    else if s.cred.revoked.any (fun e => decide (e.1 = credId b)) then some 7
    else if s.timePassed (credNotAfter b) then some 4
    else if s.tru.opened = true ∨ Config.kemOk s.tru.kemKey (credCt b) = false then some 5
    else none

/-- The credential as a slot holds it, with what derives from BK (R345). -/
def State.credOf (s : State) (b : List Byte) : Cred :=
  let bk := (List.range 32).map (Config.kemSecretByte s.tru.kemKey (credCt b))
  { rights := b.getD 2 0, credId := credId b, notBefore := BitVec.ofNat 64 (credNotBefore b), notAfter := BitVec.ofNat 64 (credNotAfter b)
    irk := slice b 44 16, addr := slice b 60 6, addrType := b.getD 66 0, bk := bk, ltk := Config.kmac bk txtAccess txtLtk 16
    verifier := Config.kmac bk txtAccess txtCh 32, lastUse := 0, csCached := false }

/-- The slot that holds a CRED_ID. -/
def State.slotOf (s : State) (k : List Byte) : Option (Fin 64) :=
  firstIx fun i : Fin 64 => match s.cred.slots[i] with | some c => decide (c.credId = k) | none => false

/-- The slot of the earliest NOT_AFTER that has passed (R346). -/
def State.oldestCred (s : State) : Option (Fin 64) :=
  let key := fun i : Fin 64 => match s.cred.slots[i] with | some c => c.notAfter.toNat | none => 0
  (allIx fun i : Fin 64 => match s.cred.slots[i] with | some c => s.timePassed c.notAfter.toNat | none => false).foldl
    (fun b i => match b with | none => some i | some j => if key i < key j then some i else some j) none

/-- Step 6 of R344: the slot of the same CRED_ID, the lowest free one, or one evicted as expired with source 74 CODE 2. -/
def State.credPlace (s : State) (k : List Byte) : Option (Fin 64 × State) :=
  match s.slotOf k with
  | some i => some (i, s)
  | none =>
    match firstIx fun i : Fin 64 => s.cred.slots[i].isNone with
    | some i => some (i, s)
    | none =>
      s.oldestCred.map fun i =>
        (i, (s.clearCred i).credEvent (some i) 2 0 (match s.cred.slots[i] with | some c => c.credId | none => []))

/-- A refused credential: source 74 CODE 1 with the code of R344. -/
def State.credRefused (s : State) (code : Nat) (b : List Byte) : State := s.credEvent none 1 code (credId b)

/-- Admission of a credential (R344, R346): its slot, or the step and code that refused it. -/
def State.admits (s : State) (b : List Byte) : State × Except (Bool × Nat) (Fin 64) :=
  match s.credCheck b with
  | some code => (s.credRefused code b, .error (false, code))
  | none =>
    match s.credPlace (credId b) with
    | none => (s.credRefused 4 b, .error (true, 4))
    | some (i, t) =>
      let c := s.credOf b
      ((t.modCred fun x => { x with slots := upd x.slots i fun _ => some c }).credEvent (some i) 0 0 c.credId, .ok i)

/-- ACC_CRED_LOAD (R344, R362). -/
def bodyAccCredLoad (c : CmdEntry) (s : State) : Answer :=
  checked (rsvdBytes c 24 27 ++ [(s.below 1, .power, 0)]) fun _ =>
    let t := s.admits c.buf
    match t.2 with
    | .ok i => .ok t.1 [byte i.val, 0] none
    | .error (full, code) =>
      let st : Status := if full then .full else if code = 8 then .range else .auth
      .part t.1 st (if code = 8 then 0xFFFF else 0) [0xFF, byte code]

/-- ACC_CRED_LOAD (R344). -/
def execAccCredLoad (c : CmdEntry) (s : State) : Host.Outcome State Fault Refusal := .next (s.runCmd 0x0720 c (bodyAccCredLoad c))

/-- One entry of the slot listing (R362). -/
def credEntry (c : Option Cred) : List Byte :=
  match c with
  | none => List.replicate 32 0
  | some c => [1, c.rights, 0, 0] ++ slice c.credId 0 16 ++ leBytes 8 c.notAfter.toNat ++ leBytes 4 c.lastUse.toNat

/-- ACC_CRED_LIST. -/
def bodyAccCredList (c : CmdEntry) (s : State) : Answer :=
  checked (rsvdBytes c 24 27 ++ [(s.below 1, .power, 0)]) fun _ => .ok s [] (some (s.cred.slots.toList.flatMap credEntry))

/-- ACC_CRED_LIST (R362). -/
def execAccCredList (c : CmdEntry) (s : State) : Host.Outcome State Fault Refusal := .next (s.runCmd 0x0721 c (bodyAccCredList c))

/-- A slot is evicted by command: source 74 CODE 4. -/
def State.evict (s : State) (k : Fin 64) : State :=
  match s.cred.slots[k] with
  | none => s
  | some c => (s.clearCred k).credEvent (some k) 4 0 c.credId

/-- ACC_CRED_EVICT: one slot, or all that are held. -/
def bodyAccCredEvict (c : CmdEntry) (s : State) : Answer :=
  let k : Fin 64 := Fin.ofNat 64 (c.u8 24)
  let all := c.u8 25 = 1
  checked ([(decide (63 < c.u8 24), .range, 24), (decide (1 < c.u8 25), .range, 25)] ++ rsvdBytes c 26 27 ++
      [(s.below 1, .power, 0), (decide (¬all) && s.cred.slots[k].isNone, .notfound, 0)]) fun _ =>
    if all then .done ((List.finRange 64).foldl State.evict s) else .done (s.evict k)

/-- ACC_CRED_EVICT (R362). -/
def execAccCredEvict (c : CmdEntry) (s : State) : Host.Outcome State Fault Refusal := .next (s.runCmd 0x0722 c (bodyAccCredEvict c))

/-- A byte that is neither 0xFF nor from `lo` to `hi`. -/
def span8 (c : CmdEntry) (off lo hi : Nat) : Bool × Status × Nat := (decide (c.u8 off ≠ 0xFF) && !within lo hi (c.u8 off), .range, off)

/-- A two-byte field that is neither 0xFFFF nor from `lo` to `hi`. -/
def span16 (c : CmdEntry) (off lo hi : Nat) : Bool × Status × Nat :=
  (decide (c.u16 off ≠ 0xFFFF) && !within lo hi (c.u16 off), .range, off)

/-- A two-byte setting that 0xFFFF keeps. -/
def kept16 (v old : Nat) : Nat := if v = 0xFFFF then old else v

/-- The settings after ACC_UNLOCK_CFG. -/
def UnlockCfg.set (x : UnlockCfg) (c : CmdEntry) : UnlockCfg :=
  { en := if c.u8 24 = 0xFF then x.en else decide (c.u8 24 = 1)
    paths := BitVec.ofNat 4 (kept (c.u8 25) x.paths.toNat)
    rangeMax := kept16 (c.u16 26) x.rangeMax
    relayTol := kept (c.u8 28) x.relayTol
    confMin := kept (c.u8 29) x.confMin
    tw1En := if c.u8 30 = 0xFF then x.tw1En else decide (c.u8 30 % 2 = 1)
    wakeOnGrant := if c.u8 30 = 0xFF then x.wakeOnGrant else decide (c.u8 30 / 2 = 1)
    bodyAddr := BitVec.ofNat 7 (kept (c.u8 31) x.bodyAddr.toNat)
    psm := kept16 (c.u16 32) x.psm }

/-- ACC_UNLOCK_CFG: a change applies to the next flow. -/
def bodyAccUnlockCfg (c : CmdEntry) (s : State) : Answer :=
  checked ([over8 c 24 1, span8 c 25 1 15, span16 c 26 20 1500, span8 c 28 25 50, over8 c 30 3, span8 c 31 0x08 0x77,
      span16 c 32 0x80 0xFF] ++ rsvdBytes c 34 35 ++ [(s.below 1, .power, 0)]) fun _ =>
    .done (s.modCred fun x => { x with cfg := x.cfg.set c })

/-- ACC_UNLOCK_CFG (R362). -/
def execAccUnlockCfg (c : CmdEntry) (s : State) : Host.Outcome State Fault Refusal := .next (s.runCmd 0x0723 c (bodyAccUnlockCfg c))

/-- ACC_VKEY: the buffer goes with WRITE. -/
def bodyAccVkey (c : CmdEntry) (s : State) : Answer :=
  let wr := c.u8 24 % 2 = 1
  checked ([(decide (c.u8 24 ≤ 3 ∧ (c.bufIn = true ↔ ¬wr)), .badlen, 0), (decide (3 < c.u8 24), .range, 24)] ++ rsvdBytes c 25 27 ++
      [(s.below 1, .power, 0), (s.cred.vkeyLocked && decide (c.u8 24 ≠ 0), .locked, 0)]) fun _ =>
    .done (s.modCred fun x => { x with
      vkey := if wr then some (padTo 32 c.buf) else x.vkey, vkeyLocked := x.vkeyLocked || decide (2 ≤ c.u8 24) })

/-- ACC_VKEY (R358). -/
def execAccVkey (c : CmdEntry) (s : State) : Host.Outcome State Fault Refusal := .next (s.runCmd 0x0724 c (bodyAccVkey c))

/-- ACC_VERDICT_READ: the last 8 frames, newest first. -/
def bodyAccVerdictRead (c : CmdEntry) (s : State) : Answer :=
  checked (rsvdBytes c 24 27 ++ [(s.below 1, .power, 0)]) fun _ => .ok s [] (some (padTo 384 (s.cred.verdicts.flatMap (padTo 48))))

/-- ACC_VERDICT_READ (R362). -/
def execAccVerdictRead (c : CmdEntry) (s : State) : Host.Outcome State Fault Refusal := .next (s.runCmd 0x0726 c (bodyAccVerdictRead c))

/-! ### The verdict (R349, R356 to R360) -/

/-- What a flow ends with: OUTCOME, and path, distance, confidence, relay result and DIFF where it ranged. -/
structure Ranged where
  outcome : Nat
  path : Nat := 0xFF
  dist : Nat := 0xFFFF
  conf : Nat := 0
  relay : Nat := 3
  diff : Int := 0
  deriving DecidableEq, Repr

/-- The credential of a flow, as long as its slot still holds it. -/
def State.flowCred (s : State) (f : Flow) : Option Cred :=
  match f.slot with
  | none => none
  | some k => s.cred.slots[k].filter fun c => decide (c.credId = f.credId)

/-- OUTCOME after the check immediately before tagging (R349), and before NOT_BEFORE (R344). -/
def State.finalOutcome (s : State) (f : Flow) (o : Nat) : Nat :=
  match f.slot with
  | none => o
  | some _ =>
    match s.flowCred f with
    | none => 7
    | some c => if s.timePassed c.notAfter.toNat ∨ s.rtc < c.notBefore.toNat then 4 else o

/-- Bytes 0 to 31 of a frame (R357). -/
def State.frameHead (s : State) (f : Flow) (r : Ranged) (outcome : Nat) (untagged : Bool) (seq : W) : List Byte :=
  let slot := match f.slot with | some k => k.val | none => 0xFF
  let rights := match s.flowCred f with | some c => c.rights | none => 0
  let flags := b01 f.firstTime + 2 * b01 f.inWatch + 4 * b01 f.range.isSome + 8 * b01 untagged
  [1, byte outcome, byte slot, byte r.path] ++ leBytes 2 r.dist ++ [byte r.conf, byte r.relay, rights, byte flags] ++ leInt 2 r.diff ++
    leBytes 4 seq.toNat ++ leBytes 8 s.sys.timeUs.toNat ++ slice f.credId 0 8

/-- Source 72 with a delivery status (R363). -/
def State.verdictEvent (s : State) (data : List Byte) (delivery : Nat) : State :=
  s.raise 72 (be data 12 1) (overlay (slice data 0 12) 7 [byte delivery])

/-- Data of source 72, with OUTCOME behind it. -/
def verdictData (frame : List Byte) : List Byte :=
  [frame.getD 2 0, frame.getD 3 0, frame.getD 7 0, frame.getD 8 0] ++ slice frame 4 2 ++ [frame.getD 6 0, 0] ++ slice frame 12 4 ++
    [frame.getD 1 0]

/-- The Block Write of a frame on TW1 (R359). -/
def verdictTxn (addr : BitVec 7) (frame : List Byte) : TwTxn :=
  { user := .verdict, addr := addr.setWidth 8, proto := 6, cmd := 0xB0, pec := true, data := frame, rcount := 0 }

/-- A frame goes to TW1 when it is tagged and TW1_EN is 1; else source 72 reports that it was not sent (R358, R359). -/
def State.deliverVerdict (s : State) (f : Flow) (frame : List Byte) (tagged : Bool) : State :=
  let data := verdictData frame
  if tagged && f.cfg.tw1En then
    let d : Delivery := { frame := frame, data := data, addr := f.cfg.bodyAddr, left := 3, waits := false }
    (s.modCred fun x => { x with delivering := x.delivering ++ [d] }).twWait 1 (verdictTxn f.cfg.bodyAddr frame)
  else s.verdictEvent data 1

/-- What follows the verdict: an ACC_RANGE completes, a flow disconnects; a grant in WATCH may wake the host (R350, R360, R362). -/
def State.afterVerdict (s : State) (f : Flow) (frame : List Byte) (outcome : Nat) : State :=
  match f.range with
  | some slot => (s.modCred fun x => { x with flow := none }).finishSlot 0x0725 slot .ok 0 (frame.take 16) none
  | none =>
    let s := s.modCred fun x => { x with flow := some { f with step := .done, outcome := some (byte outcome) } }
    if f.inWatch && f.cfg.wakeOnGrant && decide (outcome = 0) then s.hostWake else s

/-- The verdict key, which is unusable while the device-unique key is blocked (R461). -/
def State.verdictKey (s : State) : Option (List Byte) := if s.tru.opened then none else s.cred.vkey

/-- A verdict is issued (R357 to R359): VERDICT_SEQ advances, the frame is tagged when a key is loaded. -/
def State.issueVerdict (s : State) (f : Flow) (r : Ranged) : State :=
  let outcome := s.finalOutcome f r.outcome
  let seq := s.cred.verdictSeq + 1
  let head := s.frameHead f r outcome s.verdictKey.isNone seq
  let tag := match s.verdictKey with
    | some k => Config.kmac k txtVerdict head 16
    | none => List.replicate 16 0
  let frame := head ++ tag
  let tagged := s.verdictKey.isSome
  let s := s.modCred fun x => { x with verdictSeq := seq, verdicts := (frame :: x.verdicts).take 8 }
  (s.deliverVerdict f frame tagged).afterVerdict f frame outcome

/-- The flow ends without having ranged. -/
def State.flowFails (s : State) (f : Flow) (outcome : Nat) : State := s.issueVerdict f { outcome := outcome }

/-! ### The steps of the flow (R350 to R352) -/

/-- The flow moves to a step. -/
def State.flowStep (s : State) (f : Flow) (st : FlowStep) : State := s.modCred fun x => { x with flow := some { f with step := st, since := s.sys.timeUs } }

/-- Microseconds since the flow's step began. -/
def State.flowUs (s : State) (f : Flow) : Nat := (s.sys.timeUs - f.since).toNat

/-- The flow is at a step. -/
def State.flowAt (s : State) (st : FlowStep) : Option Flow := s.cred.flow.filter fun f => decide (f.step = st)

/-- The challenge goes out: a 16-byte random N_d (R352). -/
def State.challenge (s : State) (f : Flow) : State :=
  let k := s.takeFree
  k.2.flowStep { f with nonce := Config.random k.1 16 } .challenge

/-- UNLOCK_CONNECTED (R350 step 1). -/
def execUnlockConnected (handle : BitVec 16) (accessAddr : W) (s : State) : Host.Outcome State Fault Refusal :=
  match s.flowAt .connecting with
  | none => .next s
  | some f => .next (s.flowStep { f with handle := handle, aa := accessAddr } (if f.firstTime then .opening else .encrypting))

/-- UNLOCK_ENCRYPTED (R350 steps 2 and 3): after a first-time credential the channel is open already. -/
def execUnlockEncrypted (ok : Bool) (s : State) : Host.Outcome State Fault Refusal :=
  match s.flowAt .encrypting with
  | none => .next s
  | some f =>
    if ok then (if f.firstTime then .next (s.challenge f) else .next (s.flowStep f .opening))
    else .next (s.flowFails f 5)

/-- UNLOCK_CHANNEL_OPEN (R350). -/
def execUnlockChannelOpen (s : State) : Host.Outcome State Fault Refusal :=
  match s.flowAt .opening with
  | none => .next s
  | some f => if f.firstTime then .next (s.flowStep f .waitSdu) else .next (s.challenge f)

/-- OUTCOME of a first-time credential that is refused: codes 8 and 9 have none of their own, and the flow fails as the encryption that
cannot start (DEDUCED, log 35). -/
def refusedOutcome (code : Nat) : Nat := if code ≤ 7 then code else 5

/-- CREDENTIAL_SDU (R350 step 3). -/
def execCredentialSdu (bytes : List Byte) (s : State) : Host.Outcome State Fault Refusal :=
  match s.flowAt .waitSdu with
  | none => .next s
  | some f =>
    let t := s.admits bytes
    match t.2 with
    | .ok i => .next ((t.1.useCred i).flowStep { f with slot := some i, credId := credId bytes } .encrypting)
    | .error e => .next (t.1.flowFails { f with credId := credId bytes } (refusedOutcome e.2))

/-- SDU_TIMEOUT (R350): no SDU has come within 100 ms of the channel opening. -/
def execSduTimeout (s : State) : Host.Outcome State Fault Refusal :=
  match s.flowAt .waitSdu with
  | none => .next s
  | some f => if s.flowUs f < 100000 then .next s else .next (s.flowFails f 5)

/-- The tag that the phone must return (R352). -/
def challengeTag (verifier nonce np aa id : List Byte) : List Byte := Config.kmac verifier txtChallenge (nonce ++ np ++ aa ++ id) 32

/-- CHALLENGE_ANSWER (R352): an answer after 15 ms is late. -/
def execChallengeAnswer (bytes : List Byte) (s : State) : Host.Outcome State Fault Refusal :=
  match s.flowAt .challenge with
  | none => .next s
  | some f =>
    let good := !s.tru.opened && decide (s.flowUs f ≤ 15000) && match s.flowCred f with
      | some c => decide (bytes.length = 48) &&
          decide (bytes.drop 16 = challengeTag c.verifier f.nonce (bytes.take 16) (leBytes 4 f.aa.toNat) c.credId)
      | none => false
    if good then .next (s.flowStep f .ranging) else .next (s.flowFails f 5)

/-- CHALLENGE_TIMEOUT (R352): 15 ms have passed. -/
def execChallengeTimeout (s : State) : Host.Outcome State Fault Refusal :=
  match s.flowAt .challenge with
  | none => .next s
  | some f => if s.flowUs f ≤ 15000 then .next s else .next (s.flowFails f 5)

/-! ### Ranging and the relay check (R354 to R356) -/

/-- The tones of a path that count: on the channels of R353 that the page and R322 leave, of good quality at both ends (R354). -/
def State.goodTones (s : State) (l : List Tone) : List Tone :=
  l.filter fun x => within 2 76 x.chan.val && !within 23 25 x.chan.val && s.chAllowed x.chan && x.here && x.there

/-- Channel in MHz above 2,400 and unwrapped phase in milli-degrees of each tone (R354). -/
def unwrapped (l : List Tone) : List (Int × Int) :=
  let ps := l.map fun x => (x.chan.val, x.mdeg)
  l.mapIdx fun i x => ((x.chan.val : Int), (x.mdeg : Int) + 360000 * Config.phaseTurns ps i)

/-- The line fitted to points by least squares: its slope as numerator and denominator, and the squares of the residuals. -/
structure LineFit where
  /-- Slope, numerator. -/
  num : Int
  /-- Slope, denominator. -/
  den : Nat
  /-- Sum of the squared residuals times `n` times `den`. -/
  resid : Int
  /-- Points. -/
  n : Nat
  deriving DecidableEq, Repr

/-- The fit over points (x, y). -/
def fitLine (l : List (Int × Int)) : LineFit :=
  let n : Int := l.length
  let sx := (l.map fun p => p.1).sum
  let sy := (l.map fun p => p.2).sum
  let xx := n * (l.map fun p => p.1 * p.1).sum - sx * sx
  let xy := n * (l.map fun p => p.1 * p.2).sum - sx * sy
  let yy := n * (l.map fun p => p.2 * p.2).sum - sy * sy
  { num := xy, den := xx.toNat, resid := xx * yy - xy * xy, n := l.length }

/-- A path's phase distance in cm after its delay offset, its valid tones, and the rms residual of its fit in milli-degrees (R353, R354). -/
structure PbrPath where
  path : Fin 4
  distCm : Nat
  valid : Nat
  residMdeg : Nat
  deriving DecidableEq, Repr

/-- What a path measures: the slope in milli-degrees for 1 MHz, 0.72 of which make 299.792458 mm of distance (R354, R355); how the distance
and the residual are rounded the spec does not state (log 105). -/
def State.pbr (s : State) (p : Fin 4 × List Tone) : PbrPath :=
  let l := s.goodTones p.2
  let f := fitLine (unwrapped l)
  let um := if f.den = 0 then 0 else quotAt 354 (f.num.natAbs * 299792458 : Nat) (720000 * f.den)
  let sq := f.resid.toNat / (f.n * f.n * f.den)
  { path := p.1, distCm := (quotAt 353 (um - 1000 * s.cal.pathOff.getD p.1.val 0) 10000).toNat, valid := l.length
    residMdeg := Nat.sqrt sq + b01 (Config.roundUp 356 sq 1) }

/-- Confidence of a path (R354); which way a tie goes the spec does not state. -/
def pathConf (p : PbrPath) (up : Bool) : Nat :=
  let n := 255 * (30000 - p.residMdeg) * p.valid
  let d := 30000 * 72
  if 2 * (n % d) = d ∧ up = false then n / d else (2 * n + d) / (2 * d)

/-- The path chosen: the shortest d_pbr among the paths that qualify, the lower one on a tie (R354). -/
def choosePath (cfg : UnlockCfg) (up : Bool) (l : List PbrPath) : Option PbrPath :=
  (l.filter fun p => cfg.paths.getLsbD p.path.val && decide (60 ≤ p.valid) && decide (cfg.confMin ≤ pathConf p up)).foldl
    (fun b p => match b with
      | none => some p
      | some q => if p.distCm < q.distCm ∨ (p.distCm = q.distCm ∧ p.path < q.path) then some p else some q) none

/-- Round-trip time less turnaround of the valid mode-1 steps, in ps. -/
def CsObs.flight (o : CsObs) : List Int := (o.rtt.filter RttStep.valid).map fun x => (x.rtt : Int) - x.turn

/-- d_rtt in cm: c / 2 times the mean (R355); how it is rounded the spec does not state (log 105). -/
def CsObs.rttCm (o : CsObs) : Int := quotAt 355 (299792458 * (CsObs.flight o).sum) (20000000000 * (CsObs.flight o).length)

/-- The standard deviation of the valid steps exceeds 1.0 ns. -/
def CsObs.spread (o : CsObs) : Bool :=
  let l := CsObs.flight o
  decide ((1000 * l.length : Int) ^ 2 < l.length * (l.map fun x => x * x).sum - l.sum ^ 2)

/-- The relay result (R355). -/
def relayResult (o : CsObs) (dist tol : Nat) : Nat :=
  if (CsObs.flight o).length < 6 ∨ CsObs.spread o = true then 2 else if (CsObs.rttCm o - dist).natAbs ≤ tol then 0 else 1

/-- OUTCOME of a flow that reaches ranging (R356). -/
def rangedOutcome (cfg : UnlockCfg) (relay dist : Nat) : Nat :=
  if relay = 1 then 2 else if relay = 2 then 3 else if cfg.rangeMax < dist then 1 else 0

/-- Source 73 (R363). -/
def State.relayEvent (s : State) (f : Flow) (relay dist : Nat) (rtt : Int) : State :=
  if relay = 0 then s
  else s.raise 73 (relay - 1) ([match f.slot with | some k => byte k.val | none => 0xFF, 0, 0, 0] ++ leBytes 2 dist ++ leInt 2 rtt)

/-- The phone's channel-sounding configuration is cached in its slot (R346). -/
def State.cacheCs (s : State) (f : Flow) : State :=
  match f.slot with
  | none => s
  | some k => s.modCred fun x => { x with slots := upd x.slots k fun c => c.map fun c => { c with csCached := true } }

/-- The procedure of the flow is complete: distance, relay check and verdict; without a stored path-delay part it ends with OUTCOME 6
(R442). -/
def State.rangingDone (s : State) (f : Flow) (o : CsObs) : State :=
  let k := s.takeFree
  let up := decide (Config.freeNat k.1 % 2 = 1)
  let s := k.2.cacheCs f
  match if s.cal.bValid.getLsbD 2 then choosePath f.cfg up (o.paths.map s.pbr) else none with
  | none => s.flowFails f 6
  | some p =>
    let relay := relayResult o p.distCm f.cfg.relayTol
    (s.relayEvent f relay p.distCm (CsObs.rttCm o)).issueVerdict f
      { outcome := rangedOutcome f.cfg relay p.distCm, path := p.path.val, dist := p.distCm, conf := pathConf p up, relay := relay
        diff := CsObs.rttCm o - p.distCm }

/-- A flow that waited for the host's procedure begins (R351). -/
def State.waitedFlow (s : State) : State :=
  match s.cred.flowWaits with
  | none => s
  | some (slot, inWatch) => (s.modCred fun x => { x with flowWaits := none }).startFlow slot inWatch

/-- CS_PROCEDURE_DONE (R351, R354 to R356): the flow's procedure, or one that the host started; in the reflector role there is no
verdict. -/
def execCsProcedureDone (o : CsObs) (s : State) : Host.Outcome State Fault Refusal :=
  match s.flowAt .ranging with
  | some f => .next (s.rangingDone f o)
  | none =>
    if s.acc.hostCs then .next ((s.modAcc fun a => { a with hostCs := false }).waitedFlow) else .next s

/-- ACC_RANGE: steps 5 to 9 of R361 on a connection encrypted with the slot's LTK. -/
def bodyAccRange (c : CmdEntry) (s : State) : Answer :=
  let h := BitVec.ofNat 16 (c.u16 24)
  let k : Fin 64 := Fin.ofNat 64 (c.u8 26)
  let conn := s.acc.conns.find? fun x => decide (x.handle = h) && decide (x.slot = some k)
  checked [(decide (63 < c.u8 26), .range, 26), (decide (c.u8 27 ≠ 0), .range, 27), (s.below 1, .power, 0), (s.onFio, .fault, 0),
      (s.cred.flow.isSome || s.cred.flowWaits.isSome || s.acc.hostCs, .state, 0),
      (!s.credUsable k || conn.isNone, .notfound, 0)] fun _ =>
    match conn, s.cred.slots[k] with
    | some x, some cr =>
      let f : Flow :=
        { step := .challenge, slot := some k, firstTime := false, inWatch := false, range := some c.id, handle := h, nonce := [], aa := x.aa
          credId := cr.credId, cfg := s.cred.cfg, outcome := none }
      .wait ((s.useCred k).challenge f)
    | _, _ => .fail .notfound 0

/-- ACC_RANGE (R362). -/
def execAccRange (c : CmdEntry) (s : State) : Host.Outcome State Fault Refusal := .next (s.runCmd 0x0725 c (bodyAccRange c))

/-! ### Delivery and disconnection (R359, R360) -/

/-- VERDICT_TW1_RETRY (R359): 2 ms after a failed write. -/
def execVerdictTw1Retry (s : State) : Host.Outcome State Fault Refusal :=
  match s.cred.delivering with
  | [] => .next s
  | d :: rest =>
    if d.waits = true ∧ 2000 ≤ (s.sys.timeUs - d.since).toNat then
      .next ((s.modCred fun x => { x with delivering := { d with waits := false } :: rest }).twWait 1 (verdictTxn d.addr d.frame))
    else .next s

/-- The connection of the flow is gone: a flow that had not ended gets its verdict first (R350); one that began in WATCH leads back
there unless it has woken the host (R360). -/
def State.flowGone (s : State) : State :=
  match s.cred.flow with
  | none => s
  | some f =>
    let s := if f.step = .done then s else s.flowFails f (if f.step = .ranging then 6 else 5)
    let granted := match s.cred.flow with | some g => decide (g.outcome = some 0) | none => false
    let s := s.modCred fun x => { x with flow := none }
    if f.inWatch && !(granted && f.cfg.wakeOnGrant) then s.stewardSleep 3 else s

/-- UNLOCK_DISCONNECTED (R350 step 5, R360). -/
def execUnlockDisconnected (s : State) : Host.Outcome State Fault Refusal := .next s.flowGone

/-- The supervision timeout of 500 ms ends the connection of a flow that runs on one of its own (R350). -/
def State.supervision (s : State) : State :=
  match s.cred.flow with
  | some f => if f.range.isNone ∧ f.step ≠ .connecting then s.flowGone else s
  | none => s

/-- SUPERVISION_TIMEOUT (R350 step 1). -/
def execSupervisionTimeout (s : State) : Host.Outcome State Fault Refusal := .next s.supervision

end Sys2Proof.Machine
end

