-- ==== Sys2Proof/Machine/Dma.lean ====
section
/-!
DEFINITION. Meanings of the DMA commands and of the events of the DMA engine (14_dma.md): descriptors, transfers, their completion and
their errors.
-/

namespace Sys2Proof.Machine

/-! ### Descriptors (R365, R367) -/

/-- A descriptor as the engine fetched it. -/
structure Desc where
  src : Nat
  dst : Nat
  xc : Nat
  yc : Nat
  zc : Nat
  sxs : Int
  sys : Int
  szs : Int
  dxs : Int
  dys : Int
  dzs : Int
  ctrl : Nat
  next : Nat
  rsvd : Bool
  deriving DecidableEq, Repr

/-- The descriptor in 64 bytes. -/
def descOf (b : List Byte) : Desc :=
  let u := fun (i n : Nat) => leNat (slice b i n)
  let i4 := fun (i : Nat) => toSigned 4 (u i 4)
  let c := u 48 4
  { src := u 0 8, dst := u 8 8, xc := u 16 2, yc := u 18 2, zc := u 20 2, sxs := i4 24, sys := i4 28, szs := i4 32
    dxs := i4 36, dys := i4 40, dzs := i4 44, ctrl := c, next := u 56 4
    rsvd := decide (u 22 2 = 0) && decide (c / 64 % 4 = 0) && decide (c / 16384 % 4 = 0) && decide (c / 16777216 = 0) &&
      decide (u 56 4 / 2 % 32 = 0) && decide (u 60 4 = 0) }

/-- ESIZE in bytes, and BITMASK. -/
def Desc.esize (d : Desc) : Nat := 2 ^ (d.ctrl % 4)
def Desc.bitmask (d : Desc) : Nat := d.ctrl / 65536 % 256

/-- The descriptor of a channel. -/
def State.dmaDesc (s : State) (n : Fin 16) : Desc := descOf (s.load s.dma.ch[n].cur.toNat 64)

/-- A malformed descriptor (R367). -/
def Desc.malformed (d : Desc) : Bool :=
  decide (d.xc = 0 ∨ d.yc = 0 ∨ d.zc = 0) || decide (ctrlShuf d.ctrl = 3) || !d.rsvd ||
    (decide (ctrlShuf d.ctrl = 2) && (decide (d.ctrl % 4 ≠ 0) || decide (d.xc % 8 ≠ 0) || decide (d.bitmask = 0))) ||
    (decide (d.next % 2 = 0) && !inSram (d.next / 64 * 64))

/-! ### Transfers (R366, R369) -/

/-- One read-and-write of a transfer: the addresses read, the bytes read at each, and where what was read goes. -/
structure Move where
  reads : List Int
  size : Nat
  dsts : List Int
  /-- Bytes for each destination. -/
  make : List Byte → List (List Byte)

/-- Positions (x, y, z) in the order in which elements are read: x fastest. -/
def loop3 (xc yc zc : Nat) : List (Nat × Nat × Nat) :=
  (List.range zc).flatMap fun z => (List.range yc).flatMap fun y => (List.range xc).map fun x => (x, y, z)

/-- Source and destination of an element. -/
def Desc.srcAt (d : Desc) (x y z : Nat) : Int := d.src + x * d.sxs + y * d.sys + z * d.szs
def Desc.dstAt (d : Desc) (x y z : Nat) : Int := d.dst + x * d.dxs + y * d.dys + z * d.dzs

/-- Set bits of BITMASK, from bit 0 upward. -/
def Desc.planes (d : Desc) : List Nat := (List.range 8).filter fun b => decide (d.bitmask / 2 ^ b % 2 = 1)

/-- A byte of plane `b`: bit i is bit b of source element i (R369). -/
def planeByte (b : Nat) (bs : List Byte) : Byte :=
  byte ((List.range 8).map fun i => if (bs.getD i 0).getLsbD b then 2 ^ i else 0).sum

/-- The moves of a descriptor in order. -/
def Desc.moves (d : Desc) : List Move :=
  if ctrlShuf d.ctrl = 2 then
    (loop3 (d.xc / 8) d.yc d.zc).map fun (j, y, z) =>
      { reads := (List.range 8).map fun i => d.srcAt (8 * j + i) y z, size := 1
        dsts := d.planes.mapIdx fun k _ => d.dstAt k y z + j
        make := fun bs => d.planes.map fun b => [planeByte b bs] }
  else
    (loop3 d.xc d.yc d.zc).map fun (x, y, z) =>
      { reads := [d.srcAt x y z], size := d.esize, dsts := [d.dstAt x y z], make := fun bs => [bs] }

/-- `n` bytes at an address lie in SRAM, or in the host window (R28, R366). -/
def inSramN (a : Int) (n : Nat) : Bool := decide ((Config.sramLo : Int) ≤ a) && decide (a + n ≤ Config.sramHi)
def inHostN (a : Int) (n : Nat) : Bool := decide ((Config.hostLo : Int) ≤ a) && decide (a + n ≤ Config.hostHi)

/-- Why an access fails: outside the map, or to host memory while the link is down; true in the second case. -/
def State.accessFails (s : State) (a : Int) (n : Nat) : Option Bool :=
  if inSramN a n then none else if inHostN a n then (if s.host.dlUp then none else some true) else some false

/-- The first access of a move that fails: its address, whether it is a write, and whether it goes to host memory. -/
def State.moveFails (s : State) (m : Move) : Option (Int × Bool × Bool) :=
  let w := if m.reads.length = 1 then m.size else 1
  match m.reads.find? fun a => (s.accessFails a m.size).isSome with
  | some a => some (a, false, (s.accessFails a m.size).getD false)
  | none =>
    match m.dsts.find? fun a => (s.accessFails a w).isSome with
    | some a => some (a, true, (s.accessFails a w).getD false)
    | none => none

/-- A transfer under way: the State, what is left of the bytes that host memory returns, and the SRAM bytes this descriptor has written. -/
structure Xfer where
  s : State
  host : List Byte
  written : List Nat

/-- Bytes at an address. The engine reads and writes concurrently: what a read returns of a byte that the same descriptor writes
before it the spec does not state. -/
def Xfer.read (x : Xfer) (free : Nat) (a : Int) (n : Nat) : List Byte × Xfer :=
  if inHostN a n then (padTo n x.host, { x with host := x.host.drop n })
  else
    ((List.range n).map fun i =>
      let p := a.toNat + i
      if x.written.contains p then Config.freeByte free p else Memory.read x.s.mem p, x)

/-- Bus writes to host memory: none crosses a 4 KiB boundary (R36, R366). -/
def State.hostStore (s : State) (a : Nat) (bs : List Byte) : State :=
  let k := 4096 - a % 4096
  if bs.length ≤ k then s.post (.dma (BitVec.ofNat 64 a) bs)
  else (s.post (.dma (BitVec.ofNat 64 a) (bs.take k))).post (.dma (BitVec.ofNat 64 (a + k)) (bs.drop k))

/-- Bytes go to an address. -/
def Xfer.write (x : Xfer) (a : Int) (bs : List Byte) : Xfer :=
  if inHostN a bs.length then { x with s := x.s.hostStore (a.toNat - Config.hostLo) bs }
  else { x with s := x.s.store a.toNat bs, written := (List.range bs.length).map (fun i => a.toNat + i) ++ x.written }

/-- One move. -/
def Xfer.move (x : Xfer) (free : Nat) (m : Move) : Xfer :=
  let r := m.reads.foldl (fun (acc : List Byte × Xfer) a =>
    let p := acc.2.read free a m.size
    (acc.1 ++ p.1, p.2)) ([], x)
  (m.dsts.zip (m.make r.1)).foldl (fun x p => x.write p.1 p.2) r.2

/-- The first `k` moves of a channel's descriptor. -/
def State.dmaMoves (s : State) (l : List Move) (hostRead : List Byte) : State :=
  let f := s.takeFree
  let x0 : Xfer := { s := f.2, host := hostRead, written := [] }
  (l.foldl (fun x m => Xfer.move x f.1 m) x0).s

/-! ### Completion (R371 to R373) -/

/-- STATUS is written. -/
def State.dmaStatus (s : State) (n : Fin 16) (v : Nat) : State := s.store (s.dma.ch[n].cur.toNat + 52) (leBytes 4 v)

/-- The channel becomes IDLE and the DMA_STOPs that wait complete. -/
def State.dmaIdle (s : State) (n : Fin 16) : State :=
  let l := s.dma.ch[n].stopSlots
  let s := s.modCh n fun x => { x with
    st := .idle, inFlight := false, shuf := false, fetchDue := false, rung := false, stopSlots := [] }
  l.foldl (fun s k => s.finishSlot 0x0C05 k .ok 0 [] none) s

/-- NEXT is followed; a doorbell held while busy makes a park read it again at once (R373). -/
def State.dmaFollowOn (s : State) (n : Fin 16) : State :=
  let s := s.dmaFollow n
  let x := s.dma.ch[n]
  if x.st = .parked ∧ x.rung = true then (s.modCh n fun x => { x with rung := false }).dmaFollow n else s

/-- After STATUS: the share and the reshuffle unit are free, the DONE pulse goes out, and NEXT is followed, unless the channel is to stop
or is held (R371, R375). -/
def State.dmaAfter (s : State) (n : Fin 16) : State :=
  let c := s.dmaCtrl n
  let s := s.modCh n fun x => { x with st := .running, inFlight := false, shuf := false, fetchDue := false, completed := x.completed + 1 }
  let s := if ctrlDone c then s.evlPulse (ctrlEvl c) else s
  let s := if !s.dma.ch[n].stopSlots.isEmpty then s.dmaIdle n else if s.dma.ch[n].held then s else s.dmaFollowOn n
  s.dmaArb

/-- STATUS is written as BAD with a cause: counted and flagged (R372). -/
def State.dmaWriteBad (s : State) (n : Fin 16) (cause : Nat) : State :=
  let s := s.dmaStatus n (2 + 16 * cause)
  ((s.modCh n fun x => { x with bad := x.bad + 1 }).bump (0xB800 + 4 * n.val) 1).setFlag slotDma n.val

/-- A descriptor ends BAD and the chain goes on (R372). -/
def State.dmaBad (s : State) (n : Fin 16) (cause : Nat) : State := (s.dmaWriteBad n cause).dmaAfter n

/-- DMA_FETCH (R367, R376 step 1). -/
def execDmaFetch (n : Fin 16) (s : State) : Host.Outcome State Fault Refusal :=
  let x := s.dma.ch[n]
  if x.fetchDue = true ∧ x.held = false then
    if (s.dmaDesc n).malformed then .next (s.dmaBad n 4)
    else .next ((s.modCh n fun x => { x with st := .waiting, fetchDue := false }).dmaTryStart n)
  else .next s

/-- A descriptor is being transferred. -/
def DmaCh.transfers (x : DmaCh) : Bool := decide (x.st = .running) && x.inFlight

/-- The transfer ends at a failing access (R372): elements already written stay; host memory gives source 3. -/
def State.dmaFails (s : State) (n : Fin 16) (done : List Move) (hostRead : List Byte) (at_ : Option Int) (write host : Bool) : State :=
  let s := s.dmaMoves done hostRead
  let s := match at_ with
    | some a => if host then s.busError (0x80 + n.val) [] (BitVec.ofNat 64 (a.toNat - Config.hostLo)) else s
    | none => s
  s.dmaBad n (if write then 2 else 1)

/-- The transfer ends at an element outside the map. -/
def State.dmaOutside (s : State) (n : Fin 16) (done : List Move) (hostRead : List Byte) : State := (s.dmaMoves done hostRead).dmaBad n 3

/-- The number of moves before the first that fails, and its failing access. -/
def State.firstFailure (s : State) (l : List Move) : Option (Nat × Int × Bool × Bool) :=
  match l.findIdx? fun m => (s.moveFails m).isSome with
  | none => none
  | some k =>
    match l[k]? with
    | none => none
    | some m => (s.moveFails m).map fun f => (k, f)

/-- DMA_DESC_COMPLETE (R366, R371): every element is moved, then STATUS, the pulse and NEXT; an element that cannot be accessed ends the
descriptor there. -/
def execDmaDescComplete (n : Fin 16) (hostRead : List Byte) (s : State) : Host.Outcome State Fault Refusal :=
  if s.dma.ch[n].transfers then
    let l := (s.dmaDesc n).moves
    match s.firstFailure l with
    | some (k, a, write, true) => .next (s.dmaFails n (l.take k) hostRead (some a) write true)
    | some (k, _, _, false) => .next (s.dmaOutside n (l.take k) hostRead)
    | none => .next (((s.dmaMoves l hostRead).dmaStatus n 1).dmaAfter n)
  else .next s

/-- DMA_ACCESS_ERROR (R372): `elements` elements, or groups of 8 for SHUF 2, had been written when an access failed. -/
def execDmaAccessError (n : Fin 16) (elements : Nat) (write : Bool) (hostRead : List Byte) (s : State) : Host.Outcome State Fault Refusal :=
  if s.dma.ch[n].transfers then
    let l := (s.dmaDesc n).moves
    match l[elements]? with
    | none => .next s
    | some m =>
      let k := match s.firstFailure l with | some f => min f.1 elements | none => elements
      match s.moveFails m with
      | some (_, _, false) => .next (s.dmaOutside n (l.take k) hostRead)
      | _ =>
        let a := if write then m.dsts.head? else m.reads.head?
        let host := match a with | some a => inHostN a 1 | none => false
        .next (s.dmaFails n (l.take k) hostRead a write host)
  else .next s

/-- EVL_PULSE (R370). -/
def execEvlPulse (l : Fin 64) (s : State) : Host.Outcome State Fault Refusal := .next (s.dmaPulse l)

/-! ### Commands (R377) -/

/-- Descriptors from an address lie in one area that DMA_CHAIN allocated, on a 64-byte boundary. -/
def State.inChain (s : State) (a k : Nat) : Bool :=
  decide (a % 64 = 0) && s.dma.gp.any fun g => decide (g.owner = .dma) && decide (g.addr ≤ a) && decide (a + 64 * k ≤ g.addr + g.size)

/-- A channel runs, waits in or is parked on a descriptor in a range. -/
def State.chainBusy (s : State) (a size : Nat) : Bool :=
  (List.finRange 16).any fun n =>
    let x := s.dma.ch[n]
    (decide (x.st = .running) || decide (x.st = .waiting) || decide (x.st = .parked)) && decide (a ≤ x.cur.toNat) &&
      decide (x.cur.toNat < a + size)

/-- DMA_CHAIN. -/
def bodyDmaChain (c : CmdEntry) (s : State) : Answer :=
  let n := c.u16 26
  let free := c.u8 24 = 1
  let a := c.u32 28
  let area := s.dma.gp.find? fun g => decide (g.owner = .dma) && decide (g.addr = a)
  checked ([(decide (1 < c.u8 24), .range, 24), (decide (c.u8 25 ≠ 0), .range, 25), (decide (¬free) && !within 1 256 n, .range, 26),
      (decide (¬free ∧ a ≠ 0), .range, 28),
      (decide free && (match area with | some g => s.chainBusy g.addr g.size | none => false), .busy, 0),
      (decide free && area.isNone, .notfound, 0)]) fun _ =>
    if free then
      .done { s with dma := { s.dma with gp := s.dma.gp.filter fun g => !(decide (g.owner = .dma) && decide (g.addr = a)) } }
    else
      match gpAlloc s.dma.gp .dma (64 * n) with
      | none => .fail .nores 0
      | some (p, l) => .ok { s with dma := { s.dma with gp := l } } (leBytes 4 p) none

/-- DMA_CHAIN (R377). -/
def execDmaChain (c : CmdEntry) (s : State) : Host.Outcome State Fault Refusal := .next (s.runCmd 0x0C01 c (bodyDmaChain c))

/-- DMA_WRITE. -/
def bodyDmaWrite (c : CmdEntry) (s : State) : Answer :=
  let k := c.bufLen.toNat / 64
  checked (rsvdBytes c 28 31 ++ [(!s.inChain (c.u32 24) k, .notfound, 0), (s.chainBusy (c.u32 24) (64 * k), .busy, 0)]) fun _ =>
    .done (s.store (c.u32 24) (padTo (64 * k) c.buf))

/-- DMA_WRITE (R377). -/
def execDmaWrite (c : CmdEntry) (s : State) : Host.Outcome State Fault Refusal := .next (s.runCmd 0x0C02 c (bodyDmaWrite c))

/-- The channel that byte 24 names. -/
def cmdCh (c : CmdEntry) : Fin 16 := Fin.ofNat 16 (c.u8 24)

/-- DMA_START: PENDING is 0, and the fetch of the first descriptor is due (R370, R376). -/
def bodyDmaStart (c : CmdEntry) (s : State) : Answer :=
  let n := cmdCh c
  checked [(decide (15 < c.u8 24), .range, 24), (decide (3 < c.u8 25), .range, 25), (decide (63 < c.u8 26), .range, 26),
      (decide (c.u8 27 ≠ 0), .range, 27), (decide (s.dma.ch[n].st ≠ .idle), .state, 0), (!s.inChain (c.u32 28) 1, .notfound, 0)] fun _ =>
    .done (s.modCh n fun x => { x with
      st := .running, prio := BitVec.ofNat 2 (c.u8 25), waitEvl := Fin.ofNat 64 (c.u8 26), pending := 0, evlOvf := false
      cur := BitVec.ofNat 32 (c.u32 28), fetchDue := true, inFlight := false, shuf := false, rung := false })

/-- DMA_START (R370). -/
def execDmaStart (c : CmdEntry) (s : State) : Host.Outcome State Fault Refusal := .next (s.runCmd 0x0C03 c (bodyDmaStart c))

/-- DMA_APPEND: the new descriptors, then the old tail's NEXT word, then the doorbell (R374). -/
def bodyDmaAppend (c : CmdEntry) (s : State) : Answer :=
  let n := cmdCh c
  let k := c.bufLen.toNat / 64
  let tail := c.u32 28
  let new := c.u32 32
  let buf := padTo (64 * k) c.buf
  checked ((decide (15 < c.u8 24), .range, 24) :: rsvdBytes c 25 27 ++
      [(decide (leNat (s.load (tail + 56) 4) % 2 = 0) || decide (leNat (slice buf (64 * (k - 1) + 56) 4) % 2 = 0), .state, 0),
       (s.chainBusy new (64 * k), .busy, 0), (!s.inChain new k || !s.inChain tail 1, .notfound, 0)]) fun _ =>
    .done (((s.store new buf).store (tail + 56) (leBytes 4 new)).dmaRing n)

/-- DMA_APPEND (R374). -/
def execDmaAppend (c : CmdEntry) (s : State) : Host.Outcome State Fault Refusal := .next (s.runCmd 0x0C04 c (bodyDmaAppend c))

/-- A forced stop (R377): the current descriptor is written BAD with cause 5 and sends no pulse. How many of its elements had been written
the spec does not state. -/
def State.dmaForce (s : State) (n : Fin 16) : State :=
  let x := s.dma.ch[n]
  if x.transfers then
    let l := (s.dmaDesc n).moves
    let f := s.takeFree
    let s := f.2.dmaMoves (l.take (Config.freeNat f.1 % (l.length + 1))) (Config.freeBytes f.1 (64 * l.length))
    ((s.dmaWriteBad n 5).dmaIdle n).dmaArb
  else if x.st = .waiting then (s.dmaWriteBad n 5).dmaIdle n
  else s.dmaIdle n

/-- DMA_STOP. -/
def bodyDmaStop (c : CmdEntry) (s : State) : Answer :=
  let n := cmdCh c
  let x := s.dma.ch[n]
  checked ([(decide (15 < c.u8 24), .range, 24), (decide (1 < c.u8 25), .range, 25)] ++ rsvdBytes c 26 27 ++
      [(decide (x.st = .idle), .state, 0)]) fun _ =>
    if c.u8 25 = 1 then .done (s.dmaForce n)
    else if x.transfers ∨ x.st = .waiting ∨ x.fetchDue = true then
      .wait (s.modCh n fun x => { x with stopSlots := x.stopSlots ++ [c.id] })
    else .done (s.dmaIdle n)

/-- DMA_STOP (R377). -/
def execDmaStop (c : CmdEntry) (s : State) : Host.Outcome State Fault Refusal := .next (s.runCmd 0x0C05 c (bodyDmaStop c))

/-- DMA_STATUS. -/
def bodyDmaStatus (c : CmdEntry) (s : State) : Answer :=
  let x := s.dma.ch[cmdCh c]
  checked ((decide (15 < c.u8 24), .range, 24) :: rsvdBytes c 25 27) fun _ =>
    .ok s ([byte x.code, byte (min 255 x.pending), byte x.prio.toNat, byte x.waitEvl.val] ++ leBytes 4 x.cur.toNat ++
      leBytes 4 x.completed.toNat ++ leBytes 4 x.bad.toNat) none

/-- DMA_STATUS (R377). -/
def execDmaStatus (c : CmdEntry) (s : State) : Host.Outcome State Fault Refusal := .next (s.runCmd 0x0C06 c (bodyDmaStatus c))

end Sys2Proof.Machine
end

