-- ==== Sys2Proof/Machine/TwoWire.lean ====
section
/-!
DEFINITION. Meanings of the two-wire commands and of the events of the ports TW0 and TW1 (15_two_wire.md): the order of the waiting
traffic, the end of a transfer by its originator, bus clear and STUCK, alerts and the body message, the host-wake request.
-/

namespace Sys2Proof.Machine

/-- Update what both ports share. -/
def State.modTwBlk (s : State) (f : TwBlk → TwBlk) : State := { s with tw := f s.tw }

/-! ### TW_XFER and TW_BUSCLEAR (R390, R391) -/

/-- WCOUNT is legal for a protocol (R384). -/
def twWOk (proto w : Nat) : Bool := if proto = 4 ∨ proto = 6 ∨ proto = 8 then within 1 255 w else decide (w = 0)

/-- RCOUNT is legal for a protocol (R384). -/
def twROk (proto r : Nat) : Bool :=
  if proto = 3 then decide (r = 1) else if proto = 5 ∨ proto = 7 ∨ proto = 8 then within 1 255 r else decide (r = 0)

/-- CFG.AUTO_ARA of a port. -/
def State.autoAra (s : State) (p : Fin 2) : Bool := s.tw.port[p].cfg.getLsbD 16

/-- The address is not the host's to use (R390). -/
def State.twAddrBad (s : State) (p : Fin 2) (a : Nat) : Bool := !within 0x08 0x77 a || (decide (a = 0x0C) && s.autoAra p)

/-- The protocol writes to its target. -/
def twWrites (proto : Nat) : Bool := proto = 2 ∨ proto = 4 ∨ proto = 6 ∨ proto = 8

/-- The target is locked against writes: a module that is present on TW0, the PMIC on TW1 (R390). -/
def State.twLocked (s : State) (p : Fin 2) (a proto : Nat) : Bool :=
  twWrites proto &&
    (if p = 0 then (match ix 4 (a - 0x50) with | some n => decide (0x50 ≤ a) && s.cap.feed[n].present | none => false)
     else decide (a = (s.twAddr 1).toNat))

/-- TW_XFER: the transfer waits for its turn. -/
def bodyTwXfer (c : CmdEntry) (s : State) : Answer :=
  let p : Fin 2 := Fin.ofNat 2 (c.u8 24)
  let a := c.u8 25
  let proto := c.u8 26
  let w := c.u16 30
  let r := c.u16 32
  let legal := decide (proto ≤ 8) && twWOk proto w && twROk proto r
  checked ([(legal && (decide (c.bufLen.toNat ≠ max w r) || decide (c.bufIn ≠ decide (0 < w)) || decide (c.bufOut ≠ decide (0 < r))), .badlen, 0)
      , (decide (1 < c.u8 24), .range, 24), (s.twAddrBad p a, .range, 25), (decide (8 < proto), .range, 26)
      , (decide (1 < c.u8 28) || (decide (c.u8 28 = 1) && decide (proto ≤ 1)), .range, 28), (decide (c.u8 29 ≠ 0), .range, 29)
      , (!twWOk proto w, .range, 30), (!twROk proto r, .range, 32)] ++ rsvdBytes c 34 35 ++
      [(s.twLocked p a proto, .locked, 0), (s.tw.port[p].stuck, .bus, 0)]) fun _ =>
    .wait (s.twWait p { user := .pass c.id, addr := byte a, proto := byte proto, cmd := byte (c.u8 27), pec := decide (c.u8 28 = 1)
                        data := c.buf.take w, rcount := r })

/-- TW_XFER (R390). -/
def execTwXfer (c : CmdEntry) (s : State) : Host.Outcome State Fault Refusal := .next (s.runCmd 0x0B01 c (bodyTwXfer c))

/-- TW_BUSCLEAR: the clear waits for the next transaction boundary. -/
def bodyTwBusclear (c : CmdEntry) (s : State) : Answer :=
  checked ((decide (1 < c.u8 24), .range, 24) :: rsvdBytes c 25 27) fun _ =>
    .wait (s.twWait (Fin.ofNat 2 (c.u8 24))
      { user := .clear c.id, addr := 0xFF, proto := 0, cmd := 0, pec := false, data := [], rcount := 0 })

/-- TW_BUSCLEAR (R391). -/
def execTwBusclear (c : CmdEntry) (s : State) : Host.Outcome State Fault Refusal := .next (s.runCmd 0x0B02 c (bodyTwBusclear c))

/-! ### Events and counters (R386, R392) -/

/-- Source 86 (R392). -/
def State.busEvent (s : State) (p : Fin 2) (code : Nat) (addr cmd : Byte) (st : Nat) : State := s.raise 86 code [byte p.val, addr, cmd, byte st]

/-- An alert event of a port: at most 10 in any 1 s, the rest counted (R386). -/
def State.alertEvent (s : State) (p : Fin 2) (code : Nat) (addr : Byte) : State :=
  let l := s.tw.port[p].alertTimes.filter fun t => decide ((s.sys.timeUs - t).toNat < 1000000)
  if l.length < 10 then (s.modTw p fun x => { x with alertTimes := s.sys.timeUs :: l }).raise (84 + p.val) code [byte p.val, addr]
  else (s.modTw p fun x => { x with alertTimes := l }).bump (0xB908 + 32 * p.val) 1

/-! ### The end of a transaction, by its originator (R388) -/

/-- How a transaction has ended: its status, DETAIL, bytes acknowledged, the block count and the bytes received. -/
structure TwResult where
  st : Status
  detail : Nat
  acked : Byte
  count : Byte
  data : List Byte
  deriving DecidableEq, Repr

/-- A pass-through transfer completes (R385, R391). -/
def State.passEnds (s : State) (slot : Nat) (r : TwResult) : State :=
  s.finishSlot 0x0B01 slot r.st r.detail [r.acked, r.count] (if r.data = [] then none else some r.data)

/-- Delivery status of source 72 (R363); it names none for E_TIMEOUT, and the byte is free. -/
def deliveryCode (free : Nat) (st : Status) : Nat :=
  match st with
  | .ok => 0 | .nack => 2 | .arblost => 3 | .bus => 4 | _ => (Config.freeByte free 0).toNat

/-- A failure after which a verdict is written again (R359). -/
def retriesVerdict (st : Status) : Bool := st = .nack ∨ st = .arblost ∨ st = .bus

/-- A verdict's write has ended (R359). -/
def State.verdictWritten (s : State) (st : Status) : State :=
  match s.cred.delivering with
  | [] => s
  | d :: rest =>
    if retriesVerdict st = true ∧ d.left ≠ 0 then
      s.modCred fun x => { x with delivering := { d with left := d.left - 1, waits := true, since := s.sys.timeUs } :: rest }
    else
      let k := s.takeFree
      (k.2.modCred fun x => { x with delivering := rest }).verdictEvent d.data (deliveryCode k.1 st)

/-- The host-wake request has ended (R389). -/
def State.hostWakeWritten (s : State) (t : TwTxn) (st : Status) : State :=
  if st = .ok then s.modTwBlk fun b => { b with hostWakeLeft := none, hostWakeDue := false }
  else
    match s.tw.hostWakeLeft with
    | some (_ + 1) => s.modTwBlk fun b => { b with hostWakeDue := true, hostWakeAt := s.sys.timeUs }
    | _ => (s.modTwBlk fun b => { b with hostWakeLeft := none, hostWakeDue := false }).busEvent 1 5 t.addr t.cmd st.code

/-- A voltage or rail request has ended (R412): a failed one is repeated at once, after E_BUS at the next poll. -/
def State.voltWritten (s : State) (t : TwTxn) (st : Status) : State :=
  let s := if st ≠ .bus ∧ s.pwr.pmicStop = false then
    { s with pwr := { s.pwr with pmicStop := true, pmicAt := s.sys.timeUs } } else s
  if st = .ok ∨ s.pwr.pmicWait.isNone = true then s
  else if st = .bus then s.modTwBlk fun b => { b with voltDue := some t }
  else s.twWait 1 t

/-- The read of the body controller's message: Block Read with PEC of 0xB1 (R387). -/
def bodyTxn (addr : BitVec 7) : TwTxn :=
  { user := .body, addr := addr.setWidth 8, proto := 7, cmd := 0xB1, pec := true, data := [], rcount := 12 }

/-- The alert response (R386). -/
def alertTxn : TwTxn := { user := .alert, addr := 0x0C, proto := 3, cmd := 0, pec := true, data := [], rcount := 1 }

/-- The alert response has ended (R386, R387). The line counts as released until TW_ALERT_REPEAT finds it low (log 36). -/
def State.alertAnswered (s : State) (p : Fin 2) (r : TwResult) : State :=
  match r.st, r.data with
  | .ok, b :: _ =>
    let addr := b >>> 1
    let s := s.modTw p fun x => { x with alertLast := addr.setWidth 32, alert := false, alertNext := s.sys.timeUs + 10000 }
    let s := s.alertEvent p 0 addr
    if p = 1 ∧ addr = s.cred.cfg.bodyAddr.setWidth 8 then s.twWait 1 (bodyTxn s.cred.cfg.bodyAddr) else s
  | _, _ => (s.modTw p fun x => { x with alertNext := s.sys.timeUs + 100000 }).alertEvent p 1 0xFF

/-- Source 87 entries held back for an older message give way to the latest one (R387). -/
def State.dropBody (s : State) : State :=
  { s with evt := { s.evt with deferred := s.evt.deferred.filter fun d => decide (d.1 ≠ 87) } }

/-- Data of source 87. -/
def State.bodyData (s : State) : List Byte := [1, byte s.tw.body.length, 0, 0] ++ padTo 12 s.tw.body

/-- The body message has been read (R387): 1 to 12 bytes are kept and raised, anything else is discarded and counted. Outside RUN the
latest message is held for ring 2. -/
def State.bodyRead (s : State) (p : Fin 2) (r : TwResult) : State :=
  if r.st = .ok ∧ within 1 12 r.data.length = true then
    let s := s.modTwBlk fun b => { b with body := r.data }
    if s.pwr.st = .run then s.raise 87 0 s.bodyData else s.dropBody.raiseDeferred 87 0 s.bodyData
  else s.bump (0xB90C + 32 * p.val) 1

/-- The safe-state request has ended: one that was not acknowledged waits for SAFE_STATE_RETRY (R475). -/
def State.safeWritten (s : State) (st : Status) : State :=
  { s with saf := if st = .ok then { s.saf with request := none } else { s.saf with requestAt := s.sys.timeUs } }

/-- The originator of a transaction learns its end. -/
def State.twReport (s : State) (p : Fin 2) (t : TwTxn) (r : TwResult) : State :=
  match t.user with
  | .safeState => s.safeWritten r.st
  | .voltage => s.voltWritten t r.st
  | .verdict => s.verdictWritten r.st
  | .hostWake => s.hostWakeWritten t r.st
  | .alert => s.alertAnswered p r
  | .body => s.bodyRead p r
  | .pass slot => s.passEnds slot r
  | .clear slot => s.finishSlot 0x0B02 slot r.st 0 [] none

/-- A status with nothing received; the bytes acknowledged before it are not known. -/
def twFailed (free : Nat) (st : Status) : TwResult := { st := st, detail := 0, acked := Config.freeByte free 0, count := 0, data := [] }

/-- A transaction that never touched the bus. -/
def twUntouched (st : Status) : TwResult := { st := st, detail := 0, acked := 0, count := 0, data := [] }

/-- The transaction in progress ends with a status. -/
def State.twAbort (s : State) (p : Fin 2) (st : Status) : State :=
  match s.tw.port[p].run with
  | none => s
  | some t =>
    let k := s.takeFree
    (k.2.modTw p fun x => { x with run := none, wantSince := s.sys.timeUs }).twReport p t (twFailed k.1 st)

/-! ### Bus clear (R383) -/

/-- The port becomes STUCK. -/
def State.twStick (s : State) (p : Fin 2) : State :=
  ((s.modTw p fun x => { x with stuck := true }).setFlag (slotTw p) 2).busEvent p 2 0xFF 0 Status.bus.code

/-- A bus clear of at most three, with its outcome. -/
def State.twClear (s : State) (p : Fin 2) (c : ClearObs) : State :=
  if c.sclLow then (s.modTw p fun x => { x with scl := false }).twStick p
  else
    match c.highAfter with
    | some n => ((s.modTw p fun x => { x with stuck := false, sda := true, scl := true }).setFlagN (slotTw p) 1 (n.val + 1)).busEvent p 1 0xFF 0 0
    | none => ((s.modTw p fun x => { x with sda := false, scl := true }).setFlagN (slotTw p) 1 3).twStick p

/-- The check after a reset of the port: SDA low with SCL high leads to a clear. -/
def State.twCheck (s : State) (p : Fin 2) (sdaLow : Bool) (c : ClearObs) : State :=
  if sdaLow then s.twClear p c else s.modTw p fun x => { x with sda := true, scl := true }

/-! ### Starting a transaction (R378, R383, R388) -/

/-- Priority of the traffic at a port (R388). -/
def twPrio (p : Fin 2) (u : TwUser) : Nat :=
  match u with
  | .safeState => 1
  | .voltage => 2
  | .verdict => 3
  | .hostWake => 4
  | .alert | .body => if p = 0 then 1 else 5
  | .pass _ | .clear _ => if p = 0 then 3 else 6

/-- The waiting transaction of highest priority, the earliest among equals. -/
def State.twPick (s : State) (p : Fin 2) : Option TwTxn :=
  s.tw.port[p].queue.foldl (fun best t =>
    match best with
    | none => some t
    | some b => if twPrio p t.user < twPrio p b.user then some t else some b) none

/-- The protocol reads from its target. -/
def twReads (proto : Nat) : Bool := proto = 3 ∨ proto = 5 ∨ proto = 7 ∨ proto = 8

/-- The protocol reads a counted block. -/
def twBlock (proto : Nat) : Bool := proto = 7 ∨ proto = 8

/-- CRC-8 with polynomial x^8 + x^2 + x + 1, initial value 0 and no reflection (R384). -/
def crc8 (l : List Byte) : Byte :=
  l.foldl (fun c b => (List.range 8).foldl (fun c _ => if c.getLsbD 7 then (c <<< 1) ^^^ 0x07 else c <<< 1) (c ^^^ b)) 0

/-- The bytes that the port sends in a transfer, each address byte included, without a PEC byte (R384). -/
def TwTxn.bytes (t : TwTxn) : List Byte :=
  let w := t.addr <<< 1
  let r := w ||| 1
  match t.proto.toNat with
  | 0 => [w]
  | 1 | 3 => [r]
  | 2 => [w, t.cmd]
  | 4 => w :: t.cmd :: t.data
  | 6 => w :: t.cmd :: byte t.data.length :: t.data
  | 8 => (w :: t.cmd :: byte t.data.length :: t.data) ++ [r]
  | _ => [w, t.cmd, r]

/-- With its PEC byte, which the port appends to every write. -/
def TwTxn.message (t : TwTxn) : List Byte :=
  if t.pec = true ∧ twReads t.proto.toNat = false then t.bytes ++ [crc8 t.bytes] else t.bytes

/-- A transaction issues its START. -/
def State.twGo (s : State) (p : Fin 2) (t : TwTxn) : State := (s.modTw p fun x => { x with run := some t, sent := t.message }).bump (0xB900 + 32 * p.val) 1

/-- The transaction chosen at a boundary: a TW_BUSCLEAR makes its clear; another fails on a STUCK port without touching the bus, and
waits for the clear of a line found low. -/
def State.twBegin (s : State) (p : Fin 2) (t : TwTxn) (sdaLow : Bool) (c : ClearObs) : State :=
  match t.user with
  | .clear _ =>
    let s := s.twClear p c
    s.twReport p t (twUntouched (if s.tw.port[p].stuck then .bus else .ok))
  | _ =>
    if s.tw.port[p].stuck then s.twReport p t (twUntouched .bus)
    else
      let s := s.twCheck p sdaLow c
      if s.tw.port[p].stuck then s.twReport p t (twUntouched .bus) else s.twGo p t

/-- A life-counter write takes the next boundary of TW0 (R33). -/
def State.lifeOwed (s : State) : Bool := s.cap.feed.toList.any fun f => f.lifeOwed s.sys.timeUs

/-- A transaction boundary: SPEED and TIMEOUT take effect (R378), and the waiting transaction of highest priority starts. -/
def State.twBoundary (s : State) (p : Fin 2) (sdaLow : Bool) (c : ClearObs) : State :=
  match s.tw.port[p].run, s.twPick p with
  | none, some t =>
    if p = 0 ∧ s.lifeOwed = true then s
    else (s.modTw p fun x => { x with cfgNow := x.cfg, queue := x.queue.erase t }).twBegin p t sdaLow c
  | _, _ => s

/-- TW_TRANSACTION_START (R388). -/
def execTwTransactionStart (p : Fin 2) (sdaLow : Bool) (c : ClearObs) (s : State) : Host.Outcome State Fault Refusal :=
  .next (s.twBoundary p sdaLow c)

/-! ### The end of a transfer (R384, R385) -/

/-- Status of a transfer whose bytes were all acknowledged. -/
def twStatus (t : TwTxn) (count : Nat) (pecOk : Bool) : Status × Nat :=
  if twBlock t.proto.toNat = true ∧ t.rcount < count then (.range, 0xFFFF)
  else if t.pec = true ∧ twReads t.proto.toNat = true ∧ pecOk = false then (.auth, 0)
  else (.ok, 0)

/-- What the originator learns. -/
def twResult (t : TwTxn) (e : TwEnd) : TwResult :=
  match e with
  | .nack i => { st := .nack, detail := i, acked := byte (min 255 i), count := 0, data := [] }
  | .ok rx =>
    let block := twBlock t.proto.toNat
    let count := if block then rx.headD 0 else 0
    let body := if block then rx.drop 1 else rx
    let n := if block then min count.toNat t.rcount else t.rcount
    let data := if twReads t.proto.toNat then body.take n else []
    let st := twStatus t count.toNat (decide (body[n]? = some (crc8 (t.bytes ++ (if block then [count] else []) ++ data))))
    { st := st.1, detail := st.2, acked := byte (min 255 t.message.length), count := count, data := data }

/-- A transfer ends. -/
def State.twEnds (s : State) (p : Fin 2) (e : TwEnd) : State :=
  match s.tw.port[p].run with
  | none => s
  | some t =>
    let r := twResult t e
    let s := s.modTw p fun x => { x with run := none, wantSince := s.sys.timeUs }
    let s := if r.st = .nack then s.bump (0xB904 + 32 * p.val) 1 else s
    let s := if r.st = .auth then s.setFlag (slotTw p) 5 else s
    s.twReport p t r

/-- TW_TRANSACTION_END (R384). -/
def execTwTransactionEnd (p : Fin 2) (e : TwEnd) (s : State) : Host.Outcome State Fault Refusal := .next (s.twEnds p e)

/-- TW_ARB_LOST (R380). -/
def execTwArbLost (p : Fin 2) (s : State) : Host.Outcome State Fault Refusal :=
  .next (if s.tw.port[p].run.isSome then (s.setFlag (slotTw p) 4).twAbort p .arblost else s)

/-- Address and command code of the transaction in progress, 0xFF and 0 when the port has none. -/
def TwPort.target (x : TwPort) : Byte × Byte := match x.run with | some t => (t.addr, t.cmd) | none => (0xFF, 0)

/-- TW_BUS_ERROR (R381, R383). -/
def execTwBusError (p : Fin 2) (sdaLow : Bool) (c : ClearObs) (s : State) : Host.Outcome State Fault Refusal :=
  .next (if s.tw.port[p].run.isSome then
    let x := s.tw.port[p].target
    (((s.setFlag (slotTw p) 3).busEvent p 3 x.1 x.2 Status.arblost.code).twAbort p .arblost).twCheck p sdaLow c
  else s)

/-- TW_SCL_TIMEOUT (R382): also without a transaction of the port's own. -/
def execTwSclTimeout (p : Fin 2) (sdaLow : Bool) (c : ClearObs) (s : State) : Host.Outcome State Fault Refusal :=
  let x := s.tw.port[p].target
  .next ((((s.setFlag (slotTw p) 0).busEvent p 0 x.1 x.2 Status.timeout.code).twAbort p .timeout).twCheck p sdaLow c)

/-- TW_STUCK_POLL (R383): the port leaves STUCK once both lines have been high for 50 µs. -/
def execTwStuckPoll (p : Fin 2) (high : Bool) (s : State) : Host.Outcome State Fault Refusal :=
  .next (if s.tw.port[p].stuck = true ∧ high = true then
    s.modTw p fun x => { x with stuck := false, sda := true, scl := true } else s)

/-- TW_FREE_BUS_TIMEOUT (R379): the transaction that would start next has waited more than 50 ms and ends. -/
def State.twNoBus (s : State) (p : Fin 2) : State :=
  match s.tw.port[p].run, s.twPick p with
  | none, some t =>
    if (s.sys.timeUs - s.tw.port[p].wantSince).toNat ≤ 50000 then s else
    ((s.modTw p fun x => { x with queue := x.queue.erase t }).busEvent p 4 t.addr t.cmd Status.timeout.code).twReport p t
      (twUntouched .timeout)
  | _, _ => s

/-- TW_FREE_BUS_TIMEOUT (R379). -/
def execTwFreeBusTimeout (p : Fin 2) (s : State) : Host.Outcome State Fault Refusal := .next (s.twNoBus p)

/-! ### Alerts (R386) -/

/-- The alert line is low: with AUTO_ARA the alert response waits, once. -/
def State.alertLow (s : State) (p : Fin 2) : State :=
  let s := s.modTw p fun x => { x with alert := true }
  let x := s.tw.port[p]
  if s.autoAra p && !(x.queue ++ x.run.toList).any (fun t => decide (t.user = .alert)) then s.twWait p alertTxn else s

/-- TW_ALERT (R386). -/
def execTwAlert (p : Fin 2) (s : State) : Host.Outcome State Fault Refusal := .next (s.alertLow p)

/-- TW_ALERT_REPEAT (R386): the line is still low 10 ms after a reply or 100 ms after a failed one. -/
def execTwAlertRepeat (p : Fin 2) (s : State) : Host.Outcome State Fault Refusal :=
  .next (if s.tw.port[p].alertNext.toNat ≤ s.sys.timeUs.toNat then s.alertLow p else s)

/-! ### The host-wake request (R389) -/

/-- HOST_WAKE_REQUEST (R389): one at a time. -/
def execHostWakeRequest (s : State) : Host.Outcome State Fault Refusal := .next (if s.tw.hostWakeLeft.isSome then s else s.hostWake)

/-- A failed request is written again after 2 ms. -/
def State.hostWakeAgain (s : State) : State :=
  if s.tw.hostWakeDue = true ∧ 2000 ≤ (s.sys.timeUs - s.tw.hostWakeAt).toNat then
    (s.modTwBlk fun b => { b with hostWakeDue := false, hostWakeLeft := b.hostWakeLeft.map (· - 1) }).twWait 1
      (twWrite .hostWake (s.twAddr 1) 0xA0 [1])
  else s

/-- HOST_WAKE_RETRY (R389). -/
def execHostWakeRetry (s : State) : Host.Outcome State Fault Refusal := .next s.hostWakeAgain

end Sys2Proof.Machine
end

