-- ==== Sys2Proof/Machine/Calib.lean ====
section
/-!
DEFINITION. Meanings of the calibration commands and events (18_calibration.md) and of the temperature sample.
-/

namespace Sys2Proof.Machine

/-- Update the CAL block. -/
def State.modCal (s : State) (f : CalBlk → CalBlk) : State := { s with cal := f s.cal }

/-- RTC seconds modulo 2^32. -/
def State.rtc32 (s : State) : W := BitVec.ofNat 32 s.rtc

/-- One bit of a mask over the Headraces. -/
def bit4 (n : Fin 4) : BitVec 4 := BitVec.ofNat 4 (2 ^ n.val)

/-- One bit of a mask over the Class B parts. -/
def bit3 (p : Fin 3) : BitVec 3 := BitVec.ofNat 3 (2 ^ p.val)

/-! ### The temperature sample (R413, R320, R433) -/

/-- The temperature as a register byte. -/
def tjByte (t : Int) : BitVec 8 := BitVec.ofInt 8 t

/-- A VALID entry from whose temperature the die has moved more than 20 °C is STALE (R320). -/
def SynthEntry.drift (e : SynthEntry) (tj : Int) : SynthEntry := if e.st = 1 ∧ 20 < |tj - e.temp| then { e with st := 2 } else e

/-- The triggers of a stopped Headrace are kept for its next start (R433). -/
def State.noteDue (s : State) : State :=
  (List.finRange 4).foldl (fun s n =>
    if s.calTrigger n && !s.cap.hr[n].running then s.modCal fun c => { c with due := c.due ||| bit4 n } else s) s

/-- The lowest Headrace whose trigger has passed and that can run starts a run, when none runs (R433). -/
def State.startDue (s : State) : State :=
  if s.cal.aRun.isSome ∨ s.onFio = true then s
  else
    match firstIx fun n : Fin 4 => (s.calTrigger n || (s.autoA && s.cal.due.getLsbD n.val)) && s.cap.hr[n].calReady with
    | none => s
    | some n => s.calAStart n none [] 0 0

/-- PWR.THERM: TRIP and HYST; other values act as 120 and 10 (R413). -/
def State.trip (s : State) : Nat := if within 100 125 (fld s.pwr.therm 0 8) then fld s.pwr.therm 0 8 else 120
def State.hyst (s : State) : Nat := if within 2 30 (fld s.pwr.therm 8 8) then fld s.pwr.therm 8 8 else 10

/-- An instant since which a condition has held: the one already held, or now. -/
def sinceWhen (holds : Bool) (now : D) (old : Option D) : Option D := if holds then some (old.getD now) else none

/-- A temperature sample: the governor and the triggers use the higher sensor (R469 code 21); since when Tj has stayed at TRIP or above, and
below TRIP − HYST, is kept for the governor (R413). -/
def State.tjSample (s : State) (t : Int) : State :=
  let s := s.modPwr fun p => { p with
    tj := tjByte t, tjNow := t, hotSince := sinceWhen (decide ((s.trip : Int) ≤ t)) s.sys.timeUs p.hotSince
    coolSince := sinceWhen (decide (t < (s.trip : Int) - s.hyst)) s.sys.timeUs p.coolSince }
  let table := s.acc.synth.map fun e => e.drift t
  let s : State := { s with acc := { s.acc with synth := table } }
  if s.saf.safe then s else s.noteDue.startDue

/-- TJ_SAMPLE (R413). -/
def execTjSample (t1 t2 : Int) (s : State) : Host.Outcome State Fault Refusal := .next (s.tjSample (max t1 t2))

/-! ### CAL_RUN (R439, R445) -/

/-- Headraces of a mask. -/
def maskHr (m : Nat) : List (Fin 4) := allIx fun n => m.testBit n.val

/-- Parts of a mask, in their order. -/
def maskParts (m : Nat) : List (Fin 3) := allIx fun p => m.testBit p.val

/-- CAL_RUN for Class A. -/
def State.calRunA (s : State) (c : CmdEntry) : Answer :=
  let l := maskHr (c.u8 25)
  checked ([(decide (c.u8 25 = 0 ∨ 15 < c.u8 25), .range, 25)] ++ rsvdBytes c 26 27 ++
      [(s.below 2, .power, 0), (s.onFio, .fault, 0)
      , (l.any fun n => !s.cap.hr[n].running || decide (s.cap.hr[n].retired ≠ 15) || s.cap.hr[n].takeOver.isSome, .state, 0)
      , (l.any fun n => s.cap.hr[n].failed, .fault, 0), (s.cal.aRun.isSome, .busy, 0)]) fun _ =>
    match l with
    | [] => .fail .range 25
    | n :: rest => .wait (s.calAStart n (some c.id) rest 0 0)

/-- CAL_RUN for Class B. A part that transmits needs a valid regulatory page (R440). -/
def State.calRunB (s : State) (c : CmdEntry) : Answer :=
  checked ([(decide (c.u8 25 = 0 ∨ 7 < c.u8 25), .range, 25)] ++ rsvdBytes c 26 27 ++
      [(s.below 1, .power, 0), (s.onFio, .fault, 0), (s.cal.bRun.isSome, .busy, 0)
      , (decide (2 ≤ c.u8 25) && !pageValid s.acc.regPage, .reglimit, 0)]) fun _ =>
    let run : CalBRun := { slot := c.id, rest := maskParts (c.u8 25), repeats := 0, denied := 0, suspect := 0
                           startTj := s.pwr.tjNow, found := [] }
    .wait (s.modCal fun b => { b with bRun := some run })

/-- CAL_RUN. -/
def bodyCalRun (c : CmdEntry) (s : State) : Answer :=
  match c.u8 24 with
  | 0 => s.calRunA c
  | 1 => s.calRunB c
  | _ => .fail .range 24

/-- CAL_RUN (R445). -/
def execCalRun (c : CmdEntry) (s : State) : Host.Outcome State Fault Refusal := .next (s.runCmd 0x0901 c (bodyCalRun c))

/-! ### CAL_REF and CAL_BOARD (R430, R432) -/

/-- The tone lies within 1 dB of −30.0 dBm and 20 ppm of 100.000 MHz. -/
def toneFound (o : CalRefObs) : Bool := decide (|o.levelMdBm + 30000| ≤ 1000) && decide (|o.freqPpb| ≤ 20000)

/-- CAL_REF. -/
def bodyCalRef (c : CmdEntry) (o : CalRefObs) (s : State) : Answer :=
  checked ((decide (1 < c.u8 24), .range, 24) :: rsvdBytes c 25 27 ++
      [(s.below 2, .power, 0), (s.onFio, .fault, 0), (s.hrRunning.isEmpty, .state, 0), (!toneFound o, .notfound, 0)
      , (s.cal.eolLocked, .locked, 0)]) fun _ =>
    let mask := (s.hrRunning.map fun n => 2 ^ n.val).sum
    let s := s.modCal fun b => { b with
      eolValid := true, eolLocked := decide (c.u8 24 = 1), refPpb := BitVec.ofInt 32 o.freqPpb
      eolGains := Vector.ofFn fun n => if s.cap.hr[n].running then o.gains[n] else b.eolGains[n]
      eolCalsrc := Vector.ofFn fun n => if s.cap.hr[n].running then o.calsrc[n] else b.eolCalsrc[n] }
    .ok s ([byte mask, 0, 0, 0] ++ leInt 4 o.freqPpb) none

/-- CAL_REF (R430). -/
def execCalRef (c : CmdEntry) (o : CalRefObs) (s : State) : Host.Outcome State Fault Refusal :=
  .next (s.runCmd 0x0902 c (bodyCalRef c o))

/-- CAL_BOARD. -/
def bodyCalBoard (c : CmdEntry) (s : State) : Answer :=
  checked ((decide (1 < c.u8 24), .range, 24) :: rsvdBytes c 25 27 ++ [(s.cal.eolLocked, .locked, 0)]) fun _ =>
    .done (s.modCal fun b => { b with
      board := (List.range 4).map fun i => BitVec.ofNat 16 (c.u16 (28 + 2 * i)), eolLocked := decide (c.u8 24 = 1) })

/-- CAL_BOARD (R432). -/
def execCalBoard (c : CmdEntry) (s : State) : Host.Outcome State Fault Refusal := .next (s.runCmd 0x0903 c (bodyCalBoard c))

/-! ### Class A (R434 to R437) -/

/-- The measures on which two measurements of a lane disagree, with their distance in the units of R446: more than 0.05 dB of gain, 1 LSB of
offset, 0.2 ps of skew (R436). -/
def CalAObs.disagreements (o : CalAObs) : List (Nat × Nat) :=
  let d := [(0, (o.first.gain - o.second.gain).natAbs), (1, (o.first.offset - o.second.offset).natAbs)
    , (2, (o.first.skew - o.second.skew).natAbs)]
  d.filter fun x => decide ((match x.1 with | 0 => 50 | 1 => 10 | _ => 20) < x.2)

/-- The two measurements agree. -/
def CalAObs.agree (o : CalAObs) : Bool := (CalAObs.disagreements o).isEmpty

/-- The measure that source 95 names, the first that disagrees (log 128), and its distance. -/
def CalAObs.measure (o : CalAObs) : Byte := byte ((CalAObs.disagreements o).headD (0, 0)).1
def CalAObs.diff (o : CalAObs) : W := BitVec.ofNat 32 ((CalAObs.disagreements o).headD (0, 0)).2

/-- The selections of n out of a list, in order. -/
def choices {α : Type} : Nat → List α → List (List α)
  | 0, _ => [[]]
  | _ + 1, [] => []
  | n + 1, x :: l => (choices n l).map (x :: ·) ++ if n + 1 ≤ l.length then choices (n + 1) l else []

/-- The usable unit elements with their numbers: their weight differs from the median by at most 5 % (R435; log 110). -/
def CalAObs.usableElements (o : CalAObs) : List (Nat × Element) :=
  let m := median2 (o.elements.map fun e => (e.weight : Int))
  ((List.range 18).zip o.elements).filter fun e => decide (20 * |2 * (e.2.weight : Int) - m| ≤ m)

/-- Combined gain, offset and skew of some elements, in sixteenths. -/
def elementSums (l : List (Nat × Element)) : Int × Int × Int :=
  ((l.map fun e => e.2.gain).sum, (l.map fun e => e.2.offset).sum, (l.map fun e => e.2.skew).sum)

/-- How far a selection lies from the target. -/
def distanceOf (l : List (Nat × Element)) : Nat :=
  let c := elementSums l
  Config.elementDistance c.1 c.2.1 c.2.2

/-- The nearest of a selection and those after it; the first of equals. -/
def nearestOf (best : List (Nat × Element)) : List (List (Nat × Element)) → List (Nat × Element)
  | [] => best
  | l :: rest => nearestOf (if distanceOf l < distanceOf best then l else best) rest

/-- The trim code that corrects a remainder of `v` sixteenths with steps of `step` units, 0 up to `limit` units (R435): the nearest one, the
sixteenths being even (log 105). -/
def trimCode (v : Int) (limit step : Nat) : Int :=
  if v.natAbs ≤ 16 * limit then 0 else (2 * v + 16 * step) / (32 * step)

/-- Selection and trims of a lane (R435); none with fewer than 16 usable elements, or with a remainder beyond ±64 LSB, ±1.28 dB or ±12.8 ps. -/
def CalAObs.found (o : CalAObs) : Option LaneCal :=
  match choices 16 (CalAObs.usableElements o) with
  | [] => none
  | l :: rest =>
    let best := nearestOf l rest
    let c := elementSums best
    if c.1.natAbs ≤ 16 * 1280 ∧ c.2.1.natAbs ≤ 16 * 640 ∧ c.2.2.natAbs ≤ 16 * 1280 then
      some { mask := BitVec.ofNat 18 (bitsOf (best.map Prod.fst)), gain := trimCode c.1 20 10, offset := trimCode c.2.1 5 5
             skew := trimCode c.2.2 10 10 }
    else none

/-- The lane can be used, and its values. -/
def CalAObs.usable (o : CalAObs) : Bool := (CalAObs.found o).isSome
def CalAObs.values (o : CalAObs) : LaneCal := (CalAObs.found o).getD {}

/-- The lane after lane `k`: the spare, 8, comes first; 9 when every lane has passed. -/
def nextLane (k : Nat) : Nat := if k = 8 then 0 else if k = 7 then 9 else k + 1

/-- The run on its way, with the spare in the slot of the lane it has reached (R77, R434). -/
def State.setRunA (s : State) (r : CalARun) : State :=
  (s.modCal fun c => { c with aRun := some r }).modHr r.hr fun h => if r.lane < 8 then { h with spareFor := BitVec.ofNat 4 r.lane } else h.laneBack

/-- Source 95 (R446). -/
def State.suspectEvent (s : State) (code : Nat) (unit measure lane : Nat) (diff : W) : State :=
  s.raise 95 code ([byte unit, byte measure, byte lane, 0] ++ leBytes 4 diff.toNat)

/-- A command's run ends with the Headraces stored and suspect. -/
def State.endRunA (s : State) (r : CalARun) (st : Status) : State :=
  match r.slot with
  | none => s
  | some k => s.finishSlot 0x0901 k st 0 [byte r.stored.toNat, byte r.suspect.toNat] none

/-- The third repeat has also disagreed (R436): no value changes and the Headrace is suspect. -/
def State.suspectA (s : State) (r : CalARun) (o : CalAObs) : State :=
  let s := (s.modCal fun c => { c with aRun := none, aSuspect := c.aSuspect ||| bit4 r.hr }).modHr r.hr Headrace.laneBack
  let s := (s.setFlag slotCal 0).suspectEvent 0 r.hr.val (CalAObs.measure o).toNat r.lane (CalAObs.diff o)
  s.endRunA { r with suspect := r.suspect ||| bit4 r.hr } .cal

/-- The lane is done: the next one follows. -/
def CalARun.pass (r : CalARun) (o : CalAObs) : CalARun :=
  { r with lane := nextLane r.lane, repeats := 0, found := r.found ++ [(r.lane, (CalAObs.values o))] }

/-- One measurement pair of the lane in progress. -/
def State.stepA (s : State) (r : CalARun) (o : CalAObs) : State :=
  if 8 < r.lane then s
  else if (CalAObs.agree o) = false then (if r.repeats < 3 then s.setRunA { r with repeats := r.repeats + 1 } else s.suspectA r o)
  else if (CalAObs.usable o) = false then s.laneFailed r.hr (Fin.ofNat 9 r.lane)
  else s.setRunA (r.pass o)

/-- CAL_A_STEP_DONE (R434 to R436). -/
def execCalAStepDone (o : CalAObs) (s : State) : Host.Outcome State Fault Refusal :=
  .next (match s.cal.aRun with | some r => s.stepA r o | none => s)

/-- The record of Headrace n with its new values (R437, R443). -/
def State.storeA (s : State) (r : CalARun) : State :=
  let now := s.rtc32
  let s := s.modCal fun c => { c with
    aRun := none, aValid := c.aValid ||| bit4 r.hr, aSuspect := c.aSuspect &&& ~~~(bit4 r.hr), aSeq := c.aSeq + 1
    aValues := upd c.aValues r.hr fun _ => r.found, aTemp := upd c.aTemp r.hr fun _ => r.startTj
    aRuns := upd c.aRuns r.hr fun v => v + 1, aLast := upd c.aLast r.hr fun _ => now }
  s.raise 94 0 ([byte r.hr.val, 0, tjByte r.startTj, 0] ++ leBytes 4 s.cal.aRuns[r.hr].toNat ++ leBytes 4 now.toNat)

/-- A command goes on with its next Headrace, or ends; one that can no longer run ends it with E_ABORTED. -/
def State.nextHrA (s : State) (r : CalARun) : State :=
  match r.rest with
  | [] => s.endRunA r .ok
  | n :: rest =>
    if s.cap.hr[n].calReady then s.calAStart n r.slot rest r.stored r.suspect
    else (s.setFlag slotCal 3).endRunA r .aborted

/-- CAL_A_STORE (R437): every lane and the spare have passed. -/
def execCalAStore (s : State) : Host.Outcome State Fault Refusal :=
  .next (match s.cal.aRun with
    | some r => if r.lane = 9 then (s.storeA r).nextHrA { r with stored := r.stored ||| bit4 r.hr } else s
    | none => s)

/-! ### Class B (R439 to R443) -/

/-- Two synthesiser measurements agree (R439): the same VCO band and capacitor trims within ±1 code. -/
def synthAgree (a b : List (Nat × Int)) : Bool :=
  decide (a.length = b.length) && (a.zip b).all fun x => decide (x.1.1 = x.2.1) && decide (|x.1.2 - x.2.2| ≤ 1)

/-- Two coefficient sets differ by a normalised error below −30 dB (R439; log 128). -/
def coefAgree (a b : List (Int × Int)) : Bool :=
  decide (a.length = b.length) &&
    decide (1000 * ((a.zip b).map fun x => (x.1.1 - x.2.1) ^ (2 : Nat) + (x.1.2 - x.2.2) ^ (2 : Nat)).sum <
      (a.map fun x => x.1 ^ (2 : Nat) + x.2 ^ (2 : Nat)).sum)

/-- Two angles in degrees lie within ±2°. -/
def thetaNear (a b : Rat) : Bool := decide (|a - b| ≤ 2) || decide (358 ≤ |a - b|)

/-- Two pre-distortion measurements agree (R439). -/
def dpdAgree (a b : CalBMeas) : Bool :=
  decide (a.dpd.length = b.dpd.length) &&
    ((a.dpd.zip b.dpd).all fun x => decide (x.1.1 < -300) && decide (x.2.1 < -300) && coefAgree x.1.2 x.2.2) &&
    decide ((a.theta.map fun t => (t.1, t.2.1)) = b.theta.map fun t => (t.1, t.2.1)) &&
    (a.theta.zip b.theta).all fun x => thetaNear x.1.2.2 x.2.2.2

/-- The largest difference of two path measurements in mm. -/
def loopDiff (a b : List Int) : Nat := ((a.zip b).map fun x => (x.1 - x.2).natAbs).foldl max 0

/-- The two measurements of a part agree (R439): paths within 2 cm. -/
def CalBObs.agree (o : CalBObs) (p : Fin 3) : Bool :=
  match p.val with
  | 0 => synthAgree o.first.entries o.second.entries
  | 1 => dpdAgree o.first o.second
  | _ => decide (loopDiff o.first.loops o.second.loops ≤ 20)

/-- What a part keeps of its two measurements. -/
def CalBObs.values (o : CalBObs) (p : Fin 3) : CalBMeas := if Config.calKeepsSecond p then o.second else o.first

/-- The stored entries are VALID from now, with every channel usable again (R320, R322). -/
def State.useSynth (s : State) (tj : Int) : State :=
  let now := s.sys.timeUs
  let t := s.acc.synth.map fun e => { e with st := 1, born := some now, temp := tj, retry := false, excluded := false }
  { s with acc := { s.acc with synth := t } }

/-- The offsets of paths 0 to 3: the loop delay plus the CAL_BOARD value (R432, R439). -/
def State.pathOffsets (s : State) (loops : List Int) : List Int :=
  (List.range 4).map fun i => loops.getD i 0 + toSigned 2 (s.cal.board.getD i 0).toNat

/-- The parts that passed come into force and are stored as one record (R439, R443). -/
def State.storeB (s : State) (r : CalBRun) : State :=
  let mask := (r.found.map fun e => bit3 e.1).foldl (· ||| ·) 0
  if r.found.isEmpty then s
  else
    let now := s.rtc32
    let has := fun (p : Fin 3) => r.found.any fun e => decide (e.1 = p)
    let s := s.modCal fun c => { c with
      bValues := c.bValues.filter (fun e => !has e.1) ++ r.found, bValid := c.bValid ||| mask
      bSuspect := c.bSuspect &&& ~~~mask, bRuns := c.bRuns + 1, bLast := now, bSeq := c.bSeq + 1 }
    let s := match s.cal.part 0 with | some p => if has 0 then s.useSynth p.2 else s | none => s
    let s := if has 1 then s.loadDpd else s
    let s := match s.cal.part 2 with
      | some p => if has 2 then s.modCal fun c => { c with pathOff := s.pathOffsets p.1.loops } else s
      | none => s
    s.raise 94 1 ([byte mask.toNat, 0, tjByte r.startTj, 0] ++ leBytes 4 s.cal.bRuns.toNat ++ leBytes 4 now.toNat)

/-- The run is over: what passed is stored; with a suspect part the command ends with E_CAL. -/
def State.endRunB (s : State) (r : CalBRun) : State :=
  let mask := (r.found.map fun e => bit3 e.1).foldl (· ||| ·) 0
  (s.calBOver.storeB r).finishSlot 0x0901 r.slot (if r.suspect = 0 then .ok else .cal) 0 [byte mask.toNat, byte r.suspect.toNat] none

/-- The run goes on with its next part, or ends. -/
def State.nextPartB (s : State) (r : CalBRun) : State :=
  if r.rest.isEmpty then s.endRunB r else s.modCal fun c => { c with bRun := some r }

/-- The difference that source 95 gives for a part (R446): of paths the largest in mm; of the other parts a free value, since the spec
gives it no unit (log 128). -/
def State.partDiff (s : State) (p : Fin 3) (o : CalBObs) : W × State :=
  if p = 2 then (BitVec.ofNat 32 (loopDiff o.first.loops o.second.loops), s)
  else
    let k := s.takeFree
    (BitVec.ofNat 32 (Config.freeNat k.1), k.2)

/-- The third repeat of a part has also disagreed (R439): it keeps its values, is suspect, and the others proceed. -/
def State.suspectB (s : State) (r : CalBRun) (p : Fin 3) (o : CalBObs) : State :=
  let d := s.partDiff p o
  let s := d.2.modCal fun c => { c with bSuspect := c.bSuspect ||| bit3 p }
  let s := (s.setFlag slotCal 1).suspectEvent 1 p.val (3 + p.val) 0 d.1
  s.nextPartB { r with rest := r.rest.tail, repeats := 0, suspect := r.suspect ||| bit3 p }

/-- CAL_B_PART_DONE (R439): two measurements of the part in progress. -/
def State.partDoneB (s : State) (r : CalBRun) (o : CalBObs) : State :=
  match r.rest with
  | [] => s
  | p :: rest =>
    if CalBObs.agree o p then s.nextPartB { r with rest := rest, repeats := 0, found := r.found ++ [(p, CalBObs.values o p, s.pwr.tjNow)] }
    else if r.repeats < 3 then s.modCal fun c => { c with bRun := some { r with repeats := r.repeats + 1 } }
    else s.suspectB r p o

/-- CAL_B_PART_DONE (R439). -/
def execCalBPartDone (o : CalBObs) (s : State) : Host.Outcome State Fault Refusal :=
  .next (match s.cal.bRun with | some r => s.partDoneB r o | none => s)

end Sys2Proof.Machine
end

