-- ==== Sys2Proof/Machine/Host.lean ====
section
/-!
DEFINITION. Meanings of the system commands, of the traffic on the rings and doorbells, of the PCIe link and of register accesses
(02_host_interface.md, 22_registers.md).
-/

namespace Sys2Proof.Machine

/-! ### System commands (R55, R56, R486) -/

/-- The running firmware version as SYS_INFO bytes 20 to 23, major first. -/
def State.fwBytes (s : State) : List Byte := (leBytes 4 s.sys.fwVer.toNat).reverse

/-- The SYS_INFO result, which source 0 also carries. -/
def State.infoResult (s : State) : List Byte :=
  leBytes 4 Config.idRev.toNat ++ s.fwBytes ++ [if s.sys.recovery then 0xFF else byte s.sys.slot.toNat] ++ List.replicate 7 0

/-- SYS_NOP. -/
def bodySysNop (_c : CmdEntry) (s : State) : Answer := .done s
/-- SYS_INFO. -/
def bodySysInfo (_c : CmdEntry) (s : State) : Answer := .ok s s.infoResult none
/-- SYS_TIME. -/
def bodySysTime (_c : CmdEntry) (s : State) : Answer := .ok s (leBytes 8 s.sys.timeUs.toNat ++ leBytes 8 s.rtc) none
/-- SYS_SET_RTC: at most 2^40 − 1; the RTC counts as set and its crystal as running from here (R402; log 24). -/
def bodySysSetRtc (c : CmdEntry) (s : State) : Answer :=
  checked [(decide (2 ^ 40 ≤ c.u64 24), .range, 24)] fun _ =>
    .done { s with sys := { s.sys with rtcSec := BitVec.ofNat 40 (c.u64 24), rtcSub := 0, rtcSet := true, rtcXtal := true } }
/-- SYS_RESET: types 1 and 2. -/
def bodySysReset (c : CmdEntry) (s : State) : Answer :=
  checked [(!within 1 2 (c.u32 24), .range, 24)] fun _ =>
    .done { (s.abandonEntry false false).settleUndone false with sys :=
      { ((s.abandonEntry false false).settleUndone false).sys with resetDue := some (BitVec.ofNat 2 (c.u32 24)) } }

/-- SYS_NOP (R55). -/
def execSysNop (c : CmdEntry) (s : State) : Host.Outcome State Fault Refusal := .next (s.runCmd 0x0100 c (bodySysNop c))
/-- SYS_INFO (R55). -/
def execSysInfo (c : CmdEntry) (s : State) : Host.Outcome State Fault Refusal := .next (s.runCmd 0x0101 c (bodySysInfo c))
/-- SYS_TIME (R55). -/
def execSysTime (c : CmdEntry) (s : State) : Host.Outcome State Fault Refusal := .next (s.runCmd 0x0102 c (bodySysTime c))
/-- SYS_SET_RTC (R55). -/
def execSysSetRtc (c : CmdEntry) (s : State) : Host.Outcome State Fault Refusal := .next (s.runCmd 0x0103 c (bodySysSetRtc c))

/-- The reset that an accepted SYS_RESET starts (R486): type 1 drops PWR_EN for 20 ms, type 2 resets the logic. -/
def State.commandReset (s : State) (type : Nat) : State :=
  if type = 1 then (s.resetCold true).modPwr fun p => { p with coldHold := true } else s.resetWarm 2

/-- The completion of SYS_RESET has been written, and no message for it is still to be sent: none is due, or ring 1 signals nothing now
(R56, R68; log 17). -/
def State.resetReady (s : State) : Bool :=
  let r := s.host.rings[1]
  !(s.host.outstanding.any fun o => decide (o.opcode = 0x0104 ∧ o.phase = .completing)) &&
    (decide (r.unsignalled = 0) || !s.host.msixEn || !r.irqEn || s.vecMasked r.vecIx)

/-- The reset of an accepted SYS_RESET begins, 10 µs or more after its completion's message (R56). -/
def State.resetStarts (s : State) : State :=
  match s.sys.resetDue with
  | none => s
  | some type => if s.resetReady then s.commandReset type.toNat else s

/-- SYS_RESET (R56, R486): an entry in progress is abandoned (R487) and the command completes; the reset begins once the completion
and its message have gone out (`State.resetStarts`). -/
def execSysReset (c : CmdEntry) (s : State) : Host.Outcome State Fault Refusal := .next (s.runCmd 0x0104 c (bodySysReset c))

/-! ### Objects of commands (R52) -/

/-- The runner that stands for window w and its runner as one object; 200 + w for a closed window. -/
def State.unitOf (s : State) (w : Nat) : Nat :=
  match ix 64 w with
  | none => 255
  | some w => if s.win.win[w].st = 0 then 200 + w.val else s.win.win[w].runner.val

/-- The runner that serves a context, as part of which the context counts. -/
def State.ctxUnit (s : State) (c : Nat) : Nat :=
  match ix 256 c with
  | none => 255
  | some c => s.svc.ctx[c].runner.val

/-- The objects of kind `k` that the set bits of a mask name. -/
def maskObjects (k mask n : Nat) : List (Nat × Nat) := ((List.range n).filter fun i => mask.testBit i).map fun i => (k, i)

/-- The objects that a command addresses (R52): kind and number, 255 for any of the kind. Kinds: 0 Headrace, 1 window with its
runner and contexts, 2 credential slot, 3 DMA channel, 4 audio port, 5 audio queue, 6 output stream, 7 two-wire port. -/
def State.cmdObjects (s : State) (op : Nat) (c : CmdEntry) : List (Nat × Nat) :=
  match op with
  | 0x0201 | 0x0202 | 0x0203 | 0x0204 => [(0, c.u8 24)]
  | 0x0210 => (1, 255) :: maskObjects 0 (c.u8 32) 4
  | 0x0211 | 0x0212 | 0x0213 | 0x0214 | 0x0215 | 0x0216 => [(1, s.unitOf (c.u8 24))]
  | 0x0217 => (1, s.unitOf (c.u8 24)) :: if c.u8 25 = 0 then [(0, c.u8 26)] else []
  | 0x0218 => [(0, c.u8 25)]
  | 0x0301 =>
    (if c.u8 24 = 0xFF then [(1, 255)] else [(1, c.u8 26), (1, s.ctxUnit (c.u8 24))]) ++
      if c.u8 25 = 0 ∧ c.u8 27 ≤ 31 then [(6, c.u8 27)] else []
  | 0x0302 => [(1, s.ctxUnit (c.u8 24))]
  | 0x0303 | 0x0310 | 0x0311 | 0x0312 | 0x0313 | 0x0314 | 0x0320 | 0x0321 | 0x0330 | 0x0331 => [(1, c.u8 24)]
  | 0x0402 | 0x0403 | 0x0404 | 0x0405 => [(1, s.ctxUnit (c.u8 24))]
  | 0x0501 => [(4, c.u8 24), (4, c.u8 28)]
  | 0x0502 => (4, c.u8 24) :: ((c.bytes 28 16).filter fun b => decide (b.toNat < 0x40)).map fun b => (6, b.toNat / 2)
  | 0x0503 | 0x0504 => [(4, c.u8 24)]
  | 0x0505 => [(5, c.u8 24)]
  | 0x0507 => [(6, c.u8 24)]
  | 0x0603 => [(0, c.u8 25), (1, c.u8 27)]
  | 0x0720 => [(2, 255)]
  | 0x0722 => [(2, if c.u8 25 = 1 then 255 else c.u8 24)]
  | 0x0725 => [(2, c.u8 26)]
  | 0x0901 => if c.u8 24 = 0 then maskObjects 0 (c.u8 25) 4 else []
  | 0x0B01 | 0x0B02 => [(7, c.u8 24)]
  | 0x0C03 | 0x0C04 | 0x0C05 | 0x0C06 => [(3, c.u8 24)]
  | _ => []

/-- Two commands share an object; commands for different pairs never wait for each other (R52). -/
def State.conflict (s : State) (op1 : Nat) (c1 : CmdEntry) (op2 : Nat) (c2 : CmdEntry) : Bool :=
  decide (opPair op1 = opPair op2) &&
    (s.cmdObjects op1 c1).any fun a => (s.cmdObjects op2 c2).any fun b =>
      decide (a.1 = b.1) && (decide (a.2 = b.2) || decide (a.2 = 255) || decide (b.2 = 255))

/-- A command that has run and waits for its end no longer stands in the way of another on its object: an SVC_OPEN, which a close may
abort (R23), a CAP_FEED, and an ACC_RANGE, whose flow other commands may end. -/
def OutCmd.givesWay (o : OutCmd) : Bool :=
  decide (o.phase = .completing) ||
    (decide (o.phase = .waiting) && decide (o.opcode = 0x0301 ∨ o.opcode = 0x0205 ∨ o.opcode = 0x0725))

/-- A command must wait while commands fetched before it have not completed: a fence on either side (R53), or a shared object (R52);
one of area 0x07xx also while a ring 3 entry fetched before it waits (R67). -/
def State.mustWait (s : State) (op : Nat) (c : CmdEntry) : Bool :=
  let earlier := s.host.outstanding.filter fun o => decide (o.entry.id < c.id)
  (c.fence && !earlier.isEmpty) ||
    (earlier.any fun o => o.entry.fence || (!o.givesWay && s.conflict o.opcode.toNat o.entry op c)) ||
    (decide (op / 256 = 7) && s.host.hciWaiting.any fun e => !e.2.2.contains c.id)

/-- The consumer index of ring 0 or 3 moves past the slot that has been read, and the shadow area with it (R41, R42). -/
def State.slotRead (s : State) (n : Fin 32) : State :=
  let s := s.modRing n fun r => { r with cons := (r.cons + 1) % r.size }
  s.shadow n s.host.rings[n].cons

/-- The Hopper reads a slot of ring 0 or 3 only while it processes the ring, and only the next one that a doorbell has covered (R42, R46,
R70). -/
def State.covers (s : State) (n : Fin 32) (slot : Nat) : Bool :=
  s.ringUp n && decide (s.host.rings[n].used ≠ 0) && decide (s.host.rings[n].cons = slot)

/-- COMMAND_ENTRY_RECEIVED (R26, R27, R42, R50, R53): a failing entry completes at once, another is dispatched or held; with 32
commands outstanding nothing is fetched. -/
def State.entryReceived (s : State) (op : Nat) (c : CmdEntry) : State :=
  if 32 ≤ s.host.outstanding.length ∨ s.covers 0 c.slot.toNat = false then s
  else
    let s := s.slotRead 0
    match hopperCheck op c with
    | some (st, d) => s.finish op c st d [] none
    | none => s.addCmd op (if s.mustWait op c then .held else .dispatched) c

/-- COMMAND_ENTRY_RECEIVED (R50). -/
def execCommandEntryReceived (opcode : BitVec 16) (c : CmdEntry) (s : State) : Host.Outcome State Fault Refusal :=
  .next (s.entryReceived opcode.toNat c)

/-- A held command whose wait has ended is dispatched (R52, R53). -/
def State.dispatch (s : State) (id : Nat) : State :=
  match s.host.outstanding.find? fun o => decide (o.entry.id = id) && decide (o.phase = .held) with
  | none => s
  | some o =>
    if s.mustWait o.opcode.toNat o.entry then s
    else
      let l := s.host.outstanding.map fun x =>
        if x.entry.id = id ∧ x.phase = .held then { x with phase := .dispatched } else x
      { s with host := { s.host with outstanding := l } }

/-- COMMAND_DISPATCH (R53). -/
def execCommandDispatch (id : Nat) (s : State) : Host.Outcome State Fault Refusal := .next (s.dispatch id)

/-- COMPLETION_HELD_WRITE (R54). -/
def execCompletionHeldWrite (s : State) : Host.Outcome State Fault Refusal := .next s.drainHeld

/-! ### Doorbells (R43 to R46) -/

/-- An ignored doorbell write (R45): counted, source 2. -/
def State.doorbellBad (s : State) (n : Nat) (v : W) : State :=
  ({ s with host := { s.host with dbErr := s.host.dbErr + 1 } }).raise 2 0 ([byte n, 0, 0, 0] ++ leBytes 4 v.toNat)

/-- The value lies from the consumer index to the producer index. -/
def Ring.inWindow (r : Ring) (v : Nat) : Bool := decide ((v + r.size - r.cons) % r.size ≤ r.used)

/-- A doorbell of a host-produced ring: the new producer index. -/
def Ring.newProd (r : Ring) (v : W) : Ring := { r with prod := v.toNat, doorbell := v }

/-- A doorbell of a device-produced ring: slots and payload space return (R43, R63). -/
def Ring.newCons (r : Ring) (v : W) : Ring :=
  { r with cons := v.toNat, doorbell := v, pbufHeld := r.pbufHeld.drop ((v.toNat + r.size - r.cons) % r.size) }

/-- An accepted consumer doorbell: what waited for room is written (R54, R59, R64), and a full spell ends (R60). -/
def State.returnSlots (s : State) (n : Fin 32) (v : W) : State :=
  let s := s.modRing n fun r => r.newCons v
  let s := { s with host := { s.host with fullReported := s.host.fullReported &&& ~~~(BitVec.ofNat 32 (2 ^ n.val)) } }
  if n = 1 then s.drainHeld
  else if n = 2 then s.payOwed
  else if n = 4 then s.drainHci
  else s.drainRing n

/-- A read of a doorbell: the last value accepted for its ring, 0 at a reserved offset (R6, R45). -/
def State.readDoorbell (s : State) (off : Nat) : W :=
  match ix 32 (off / 4) with
  | none => 0
  | some n => s.host.rings[n].doorbell

/-- A doorbell write (R43 to R45). Offsets from 0x080 belong to no ring: the spec does not say whether a write there counts among
those ignored, and here it does, byte 16 being offset / 4 modulo 256 (DESIGN CHOICE, log 102). -/
def State.doorbell (s : State) (off size : Nat) (v : W) : State :=
  match ix 32 (off / 4) with
  | none => s.doorbellBad (off / 4) v
  | some n =>
    let r := s.host.rings[n]
    if size ≠ 4 ∨ off % 4 ≠ 0 ∨ r.en = false ∨ r.size ≤ v.toNat then s.doorbellBad n.val v
    else if n = 0 ∨ n = 3 then s.modRing n fun r => r.newProd v
    else if r.inWindow v.toNat then s.returnSlots n v
    else s.doorbellBad n.val v

/-- A doorbell write reaches the device while its link is up; in IDLE and DOZE it wakes it, and before A4 it abandons an entry
(R37). -/
def State.doorbellWrite (s : State) (off size : Nat) (v : W) : State :=
  if s.host.dlUp then (s.wakeUp 8).doorbell off size v else s

/-- DOORBELL_PRODUCER (R43). -/
def execDoorbellProducer (off : BitVec 12) (size : Nat) (value : W) (s : State) : Host.Outcome State Fault Refusal :=
  .next (s.doorbellWrite off.toNat size value)
/-- DOORBELL_CONSUMER (R43). -/
def execDoorbellConsumer (off : BitVec 12) (size : Nat) (value : W) (s : State) : Host.Outcome State Fault Refusal :=
  .next (s.doorbellWrite off.toNat size value)

/-! ### Ring control (R49, R60, R68, R70) -/

/-- HOST.CTL with RING_EN as given and SHADOW_EN unchanged. -/
def State.hostCtl (s : State) (en : Bool) : W := mkBit 0 en ||| mkBit 1 s.host.shadowEn

/-- RING_EN_CLEAR (R70). -/
def execRingEnClear (s : State) : Host.Outcome State Fault Refusal := .next (s.accessWrite 0x404 (s.hostCtl false) false)
/-- RING_EN_SET (R70). -/
def execRingEnSet (s : State) : Host.Outcome State Fault Refusal := .next (s.accessWrite 0x404 (s.hostCtl true) false)
/-- QUIESCED (R70): only with RING_EN at 0 and no command outstanding. -/
def execQuiesced (s : State) : Host.Outcome State Fault Refusal :=
  .next (if s.host.ringEn = false ∧ s.host.outstanding.isEmpty = true then
    { s with host := { s.host with quiesced := true } } else s)
/-- RING_ENABLE (R49): a write of HOST.RING_CFG[n]. -/
def execRingEnable (n : Fin 32) (value : W) (s : State) : Host.Outcome State Fault Refusal :=
  .next (s.accessWrite (0x508 + 16 * n.val) value false)

/-- The vectors whose rings hold unsignalled entries send one message each, and coalescing counts afresh (R68). -/
def State.signalVector (s : State) (v : Fin 16) : State :=
  let due := s.host.rings.toList.any fun r => decide (r.vecIx = v) && r.irqEn && decide (r.unsignalled ≠ 0)
  if due then
    let s := if s.vecMasked v then s
      else { s with host := { s.host with pba := s.host.pba &&& ~~~(BitVec.ofNat 16 (2 ^ v.val)) } }
    (s.message v).coalAfresh v
  else s

/-- A write to the Message Control word of the configuration space: MSI-X Enable and the function mask (R68). When Enable becomes 1,
vectors with unsignalled entries signal; vectors that this write unmasks send what is pending. -/
def State.msixControl (s : State) (en fmask : Bool) : State :=
  let rises := en && !s.host.msixEn
  let s := { s with host := { s.host with msixEn := en, funcMask := fmask } }
  let s := if rises then (List.finRange 16).foldl State.signalVector s else s
  (List.finRange 16).foldl State.sendPending s

/-- MSIX_UNMASK (R68): a vector's mask bit is cleared, or the Message Control word is written with MSI-X Enable kept or cleared. -/
def execMsixUnmask (w : MaskWrite) (s : State) : Host.Outcome State Fault Refusal :=
  .next (match w with
    | .vector v => s.unmask v
    | .control fmask keep => s.msixControl (s.host.msixEn && keep) fmask)

/-- MSIX_ENABLE (R68): MSI-X Enable is set. -/
def execMsixEnable (s : State) : Host.Outcome State Fault Refusal := .next (s.msixControl true s.host.funcMask)

/-- MSIX_COAL_TIMER (R68): COAL_US 0 means no timer. -/
def execMsixCoalTimer (n : Fin 32) (s : State) : Host.Outcome State Fault Refusal :=
  .next (if s.host.rings[n].coalUs ≠ 0 then s.msgDue n else s)

/-- A data ring is full under R39, its payload buffer has no room for the smallest piece, or it holds staged units back (R60, R64). -/
def State.ringBlocked (s : State) (n : Fin 32) : Bool :=
  decide (8 ≤ n.val) && s.ringUp n && (!s.host.rings[n].hasRoom 1 || !(s.stagedFor n).isEmpty)

/-- DATA_RING_FULL (R60): source 6 once per full spell. -/
def execDataRingFull (n : Fin 32) (s : State) : Host.Outcome State Fault Refusal :=
  .next (if s.ringBlocked n = true ∧ s.host.fullReported.getLsbD n.val = false then
    ({ s with host := { s.host with fullReported := s.host.fullReported ||| BitVec.ofNat 32 (2 ^ n.val) } }).raise 6 0 [byte n.val]
  else s)

/-! ### Errors on host memory (R524) -/

/-- The entry that stands for a ring 0 slot that could not be read: TAG, OPCODE and all else 0 (R524). -/
def unreadEntry (slot : BitVec 16) (id : Nat) : CmdEntry :=
  { slot := slot, tag := 0, plen := 0, flags := 0, bufAddr := 0, bufLen := 0, rsvd := 0, params := [], buf := [], bufErr := false, id := id }

/-- The HCI event for a ring 3 entry that is discarded: Command Complete with no opcode and status Invalid HCI Command
Parameters, 0x12 (R65; log 9). -/
def hciDiscard : List Byte := [0x0E, 4, 4, 0, 0, 0x12]

/-- The read of BUF of a command that has not run fails: the command completes with E_FAULT and has no effect (R524). -/
def State.bufInFault (s : State) (id : Nat) (addr : D) : State :=
  match s.host.outstanding.find? fun o =>
    decide (o.entry.id = id) && o.entry.bufIn && decide (o.phase = .held ∨ o.phase = .dispatched) with
  | none => s
  | some o =>
    ((s.dropCmd o.opcode.toNat id).busError 0xFF (0 :: leBytes 2 o.entry.slot.toNat) addr).complete o.opcode.toNat o.entry
      (mkCompletion o.opcode.toNat o.entry .fault 0 [] 0)

/-- The write of BUF of a command still outstanding will fail: its effect takes place, and it completes with E_FAULT (R524;
`State.finish`). -/
def State.bufOutFault (s : State) (id : Nat) : State :=
  let l := s.host.outstanding.map fun o =>
    if o.entry.id = id ∧ o.entry.bufOut = true ∧ o.phase ≠ .completing then { o with entry := { o.entry with bufErr := true } } else o
  { s with host := { s.host with outstanding := l } }

/-- A slot of ring 0 could not be read: it completes with E_FAULT, and the Hopper goes on to the next (R524). -/
def State.unreadSlot (s : State) (slot : BitVec 16) (id : Nat) (addr : D) : State :=
  if 32 ≤ s.host.outstanding.length ∨ s.covers 0 slot.toNat = false then s
  else ((s.slotRead 0).busError 0 [] addr).complete 0 (unreadEntry slot id) (mkCompletion 0 (unreadEntry slot id) .fault 0 [] 0)

/-- A slot of ring 3 could not be read: the entry is discarded as an illegal one is (R65, R524). -/
def State.unreadHci (s : State) (slot : BitVec 16) (addr : D) : State :=
  if s.covers 3 slot.toNat then ((s.slotRead 3).busError 3 [] addr).hciOut 4 hciDiscard else s

/-- HOST_BUS_ERROR (R524), by what was being accessed. -/
def execHostBusError (a : BusAccess) (addr : D) (s : State) : Host.Outcome State Fault Refusal :=
  .next (match a with
    | .ring0Read slot id => s.unreadSlot slot id addr
    | .ring3Read slot => s.unreadHci slot addr
    | .bufIn id => s.bufInFault id addr
    | .bufOut id => s.bufOutFault id
    | .devRing n => s.busError n.val [] addr
    | .source3Entry => s
    | .dma ch => s.busError (0x80 + ch.val) [] addr)

/-! ### The link (R60, R71, R482, R484) -/

/-- States in which the link logic has power and trains: in RUN once a slot has started, or recovery (R37, R426, R482, R484). -/
def State.linkPowered (s : State) : Bool :=
  (decide (s.pwr.st = .run) && (s.sys.stewardUp || s.sys.recovery)) || decide (s.pwr.st = .idle) || decide (s.pwr.st = .doze) || decide (s.pwr.st = .limp)

/-- LINK_DOWN (R71). -/
def execLinkDown (s : State) : Host.Outcome State Fault Refusal := .next s.linkLost
/-- LINK_UP (R482): training has reached L0. -/
def execLinkUp (speed : BitVec 4) (s : State) : Host.Outcome State Fault Refusal :=
  .next (if s.host.perstHigh = true ∧ s.linkPowered = true ∧ s.host.dlUp = false then
    { s with host := { s.host with dlUp := true, speed := speed } } else s)
/-- LINK_RETRAIN (R60): source 5 on another speed. -/
def execLinkRetrain (speed : BitVec 4) (s : State) : Host.Outcome State Fault Refusal :=
  .next (if s.host.dlUp = true ∧ speed ≠ s.host.speed then
    ({ s with host := { s.host with speed := speed } }).raise 5 0 [byte speed.toNat] else s)

/-- PERST_ASSERT (R484): the link is lost and the PCIe function resets its MSI-X configuration. -/
def execPerstAssert (s : State) : Host.Outcome State Fault Refusal :=
  let s := s.linkLost
  .next { s with host := { s.host with
    perstHigh := false, msixEn := false, funcMask := false, pba := 0, msix := Vector.replicate 16 {} } }
/-- PERST_RELEASE (R484): training starts where the link is powered; its end is a LINK_UP. -/
def execPerstRelease (s : State) : Host.Outcome State Fault Refusal :=
  .next { s with host := { s.host with perstHigh := true } }

/-! ### Register accesses (R490 to R500) -/

/-- A write to SAF.INJECT forces a fault report with everything that a fault does (R478). -/
def State.inject (s : State) (v : W) : State :=
  if s.saf.lock = false ∧ isFaultCode (fld v 0 8) = true then s.fault (fld v 0 8) 0 true else s

/-- The host can write an ordinary register now: RUN or Limp, not SAFE, link up (R496). -/
def State.writable (s : State) : Bool :=
  s.host.dlUp && !s.saf.safe && (decide (s.pwr.st = .run) || decide (s.pwr.st = .limp))

/-- A 32-bit write through BAR0 or the mirror. -/
def State.regWrite32 (s : State) (off : Nat) (v : W) (mirror : Bool) : State :=
  if off = 0x3814 ∧ (s.writable = true ∨ (mirror = true ∧ s.saf.safe = false)) then s.inject v else s.accessWrite off v mirror

/-- A BAR0 access of an illegal size or alignment sets SYS.FLAG.BADACC (R492). -/
def State.badAccess (s : State) (mirror : Bool) : State := if mirror || s.host.dlUp then s.setFlag slotSys 0 else s

/-- REG_WRITE (R491 to R493, R496): 32 bits, or 64 bits as two, the lower address first. -/
def execRegWrite (off : BitVec 16) (size : Nat) (value : D) (mirror : Bool) (s : State) : Host.Outcome State Fault Refusal :=
  .next (
    let o := off.toNat
    if size = 4 ∧ o % 4 = 0 then s.regWrite32 o (value.setWidth 32) mirror
    else if size = 8 ∧ o % 8 = 0 then
      (s.regWrite32 o (value.setWidth 32) mirror).regWrite32 (o + 4) ((value >>> 32).setWidth 32) mirror
    else s.badAccess mirror)

/-- BAR0 offset of a flag register (R498). -/
def flagOffset (k : Nat) : Nat :=
  if k = 0 then 0x20
  else if k ≤ 4 then 0x1408 + 0x40 * (k - 1)
  else if k ≤ 8 then 0x143C + 0x40 * (k - 5)
  else if k ≤ 72 then 0x1A04 + 8 * (k - 9)
  else
    match k with
    | 73 => 0x2004 | 74 => 0x2404 | 75 => 0x2808 | 76 => 0x2C08 | 77 => 0x3004 | 78 => 0xC08 | 79 => 0x1004
    | 80 => 0x3408 | 81 => 0x3808 | _ => 0x3C0C

/-- FLAG_CLEAR (R497, R498): the write clears, and a hardware set in the same cycle wins. -/
def execFlagClear (slot : Fin 83) (mask hwSets : W) (s : State) : Host.Outcome State Fault Refusal :=
  .next ((s.accessWrite (flagOffset slot.val) mask false).setFlagBits slot hwSets)

/-- The host can read BAR0 (R496). -/
def State.readable (s : State) : Bool := s.host.dlUp

/-- TIME_LO_READ (R500): the upper half is latched in the same cycle. -/
def execTimeLoRead (s : State) : Host.Outcome State Fault Refusal :=
  .next (if s.readable then
    { s with sys := { s.sys with readData := s.readReg 0x10, timeHi := (s.sys.timeUs >>> 32).setWidth 32 } } else s)
/-- RTC_LO_READ (R500). -/
def execRtcLoRead (s : State) : Host.Outcome State Fault Refusal :=
  .next (if s.readable then
    { s with sys := { s.sys with readData := s.readReg 0x18, rtcHi := BitVec.ofNat 32 (s.rtc / 2 ^ 32) } } else s)

/-- DMA_DOORBELL (R373): a write of DMA.DB. -/
def execDmaDoorbell (value : W) (s : State) : Host.Outcome State Fault Refusal := .next (s.accessWrite 0x3008 value false)
/-- SYNTH_REF_WRITE (R323): a write of ACC.SYNTH_TBL[ch]. -/
def execSynthRefWrite (ch : Fin 81) (value : W) (s : State) : Host.Outcome State Fault Refusal :=
  .next (s.accessWrite (0x2500 + 4 * ch.val) value false)
/-- SAF_LOCK (R495): a write of SAF.CTL. -/
def execSafLock (value : W) (s : State) : Host.Outcome State Fault Refusal := .next (s.accessWrite 0x3800 value false)
/-- SAF_INJECT (R478): a write of SAF.INJECT. -/
def execSafInject (value : W) (s : State) : Host.Outcome State Fault Refusal := .next (s.regWrite32 0x3814 value false)
/-- SAF_RESET (R476): a write of SAF.RESET, which starts a safety reset with the key in SAFE. -/
def execSafReset (value : W) (s : State) : Host.Outcome State Fault Refusal := .next (s.accessWrite 0x3818 value false)

end Sys2Proof.Machine
end

