-- ==== Sys2Proof/Machine/Trust.lean ====
section
/-!
DEFINITION. Meanings of the trust commands and of the boot ROM's checks (19_trust.md): the firmware image, update and rollback,
attestation, and the debug port.
-/

namespace Sys2Proof.Machine

/-- Update the TRU block. -/
def State.modTru (s : State) (f : TruBlk → TruBlk) : State := { s with tru := f s.tru }

/-- The context strings "KZFW", "KZATTEST" and "KZDEBUG". -/
def txtFw : List Byte := ascii [0x4B, 0x5A, 0x46, 0x57]
def txtAttest : List Byte := ascii [0x4B, 0x5A, 0x41, 0x54, 0x54, 0x45, 0x53, 0x54]
def txtDebug : List Byte := ascii [0x4B, 0x5A, 0x44, 0x45, 0x42, 0x55, 0x47]

/-! ### The firmware image (R447, R448) -/

/-- Bytes of a firmware slot. -/
def fwSize : Nat := 1310720

/-- Byte `i` of a slot: the newest write that covers it; a byte that nothing has written reads 0 (log 5). -/
def FwSlot.byte (f : FwSlot) (i : Nat) : Byte :=
  match f.bytes.find? fun c => decide (c.1 ≤ i) && decide (i < c.1 + c.2.length) with
  | some c => c.2.getD (i - c.1) 0
  | none => 0

/-- `n` bytes of a slot. -/
def FwSlot.read (f : FwSlot) (off n : Nat) : List Byte := (List.range n).map fun i => f.byte (off + i)

/-- A little-endian field of a slot. -/
def FwSlot.num (f : FwSlot) (off n : Nat) : Nat := leNat (f.read off n)

/-- Bytes of a slot that are all 0. -/
def FwSlot.zero (f : FwSlot) (off n : Nat) : Bool := (f.read off n).all fun b => decide (b = 0)

/-- Fields of an image. -/
def FwSlot.bodyLen (f : FwSlot) : Nat := f.num 16 4
def FwSlot.svn (f : FwSlot) : Nat := f.num 12 1
def FwSlot.vendorKey (f : FwSlot) : List Byte := f.read 64 2592
def FwSlot.oemKey (f : FwSlot) : List Byte := f.read 2656 2592

/-- VERSION with the major number in the highest byte, as SYS.FW_VER holds it. -/
def FwSlot.version (f : FwSlot) : W := BitVec.ofNat 32 (beNat (f.read 8 4))

/-- The signed message: bytes 0 to 63 and the body. -/
def FwSlot.message (f : FwSlot) : List Byte := f.read 0 64 ++ f.read 16384 f.bodyLen

/-- Step 1 of R448: an empty slot, MAGIC, FORMAT, reserved bytes, BODY_LEN, ENTRY or MIN_ID_REV is wrong. -/
def FwSlot.wellFormed (f : FwSlot) : Bool :=
  decide (f.read 0 4 = [0x47, 0x57, 0x52, 0x4E]) && decide (f.byte 4 = 1) && decide ((f.byte 5).toNat < 2) && f.zero 6 2 && f.zero 13 3 &&
    f.zero 28 36 && f.zero 14502 1882 && within 64 1294336 f.bodyLen && decide (f.bodyLen % 64 = 0) && decide (f.num 20 4 < f.bodyLen) &&
    decide (f.num 24 4 ≤ Config.idRev.toNat)

/-- A signature of the image with the context "KZFW". -/
def FwSlot.signed (f : FwSlot) (key : List Byte) (off : Nat) : Bool :=
  Config.hashMldsaVerify key txtFw (Config.sha3 f.message) (f.read off 4627)

/-- Step 4 of R448 passes. -/
def State.oemOk (s : State) (f : FwSlot) : Bool :=
  match s.tru.oemHash with
  | none => true
  | some h => (f.byte 5).getLsbD 0 && decide (Config.sha3 f.oemKey = h) && f.signed f.oemKey 9875

/-- Steps 1 to 5 of R448: 0 when all pass, else the result code. -/
def State.imageCheck (s : State) (f : FwSlot) : Nat :=
  if f.wellFormed = false then 2
  else if Config.sha3 f.vendorKey ≠ s.tru.vendorHash then 3
  else if f.signed f.vendorKey 5248 = false then 4
  else if s.oemOk f = false then 5
  else if f.svn < s.tru.svnCtr then 6
  else 0

/-- The running slot as an index. -/
def State.runSlot (s : State) : Fin 2 := s.sys.slot.toFin

/-- The other of the two slots. -/
def otherSlot (n : Fin 2) : Fin 2 := if n = 0 then 1 else 0

/-- The running slot is a trial slot that has not been confirmed. -/
def State.inTrial (s : State) : Bool := s.tru.trial && decide (s.tru.prefer = s.sys.slot)

/-! ### Updating firmware (R451 to R453) -/

/-- The slot that TRU_FW_WRITE writes: the one that is not running; in recovery the one that byte 28 names. -/
def State.writeSlot (s : State) (c : CmdEntry) : Fin 2 := if s.sys.recovery then Fin.ofNat 2 (c.u8 28) else otherSlot s.runSlot

/-- A write at offset 0 marks the slot empty, and PREFER goes to the running slot when it named this one (R451). -/
def State.beginImage (s : State) (n : Fin 2) : State :=
  let s := s.modTru fun t => { t with slots := upd t.slots n fun f => { f with empty := true } }
  if s.sys.recovery = false ∧ s.tru.prefer.toNat = n.val then
    s.modTru fun t => { t with prefer := s.sys.slot, trial := false, trialStarted := false } else s

/-- TRU_FW_WRITE. -/
def bodyTruFwWrite (c : CmdEntry) (s : State) : Answer :=
  let off := c.u32 24
  checked ([(decide (off % 64 ≠ 0) || decide (fwSize < off + c.bufLen.toNat), .range, 24), (s.sys.recovery && decide (1 < c.u8 28), .range, 28)] ++
      rsvdBytes c 29 31) fun _ =>
    let n := s.writeSlot c
    let s := if off = 0 then s.beginImage n else s
    .done (s.modTru fun t => { t with
      written := some n, slots := upd t.slots n fun f => { f with bytes := (off, c.buf.take c.bufLen.toNat) :: f.bytes } })

/-- TRU_FW_WRITE (R451). -/
def execTruFwWrite (c : CmdEntry) (s : State) : Host.Outcome State Fault Refusal := .next (s.runCmd 0x0A01 c (bodyTruFwWrite c))

/-- The slot that TRU_FW_COMMIT checks. -/
def State.commitSlot (s : State) : Fin 2 :=
  if s.sys.recovery then s.tru.written.getD s.tru.prefer.toFin else otherSlot s.runSlot

/-- Status of a result code (R463). -/
def commitStatus (code : Nat) : Status := match code with | 4 => .auth | 6 => .rollback | _ => .range

/-- TRU_FW_COMMIT. -/
def bodyTruFwCommit (c : CmdEntry) (s : State) : Answer :=
  checked (rsvdBytes c 24 27) fun _ =>
    let n := s.commitSlot
    match s.imageCheck s.tru.slots[n] with
    | 0 => .ok (s.modTru fun t => { t with
        prefer := BitVec.ofNat 1 n.val, trial := true, trialStarted := false, slots := upd t.slots n fun f => { f with empty := false } }) [1] none
    | k => .part s (commitStatus k) (if commitStatus k = .range then 0xFFFF else 0) [byte k]

/-- TRU_FW_COMMIT (R452). -/
def execTruFwCommit (c : CmdEntry) (s : State) : Host.Outcome State Fault Refusal := .next (s.runCmd 0x0A02 c (bodyTruFwCommit c))

/-- TRU_FW_CONFIRM. -/
def bodyTruFwConfirm (c : CmdEntry) (s : State) : Answer :=
  checked (rsvdBytes c 24 27 ++ [(!s.inTrial, .state, 0)]) fun _ =>
    .done (s.modTru fun t => { t with trial := false, trialStarted := false })

/-- TRU_FW_CONFIRM (R452). -/
def execTruFwConfirm (c : CmdEntry) (s : State) : Host.Outcome State Fault Refusal := .next (s.runCmd 0x0A03 c (bodyTruFwConfirm c))

/-- TRU_SVN_ADVANCE: the counter lies in fuses and never falls (R453). -/
def bodyTruSvnAdvance (c : CmdEntry) (s : State) : Answer :=
  let new := s.tru.slots[s.runSlot].svn
  let old := s.tru.svnCtr
  checked (rsvdBytes c 24 27 ++ [(s.inTrial || decide (new = old), .state, 0)]) fun _ =>
    let other := s.tru.slots[otherSlot s.runSlot]
    let fails := !other.empty && decide (other.svn < new)
    .ok ((s.modTru fun t => { t with svnCtr := max old new }).raise 61 0 [byte new, byte old]) [byte new, byte (b01 fails)] none

/-- TRU_SVN_ADVANCE (R453). -/
def execTruSvnAdvance (c : CmdEntry) (s : State) : Host.Outcome State Fault Refusal := .next (s.runCmd 0x0A04 c (bodyTruSvnAdvance c))

/-! ### Attestation (R455 to R458) -/

/-- STATE of the report. -/
def State.attestState (s : State) : Nat :=
  b01 s.tru.trial + 2 * b01 s.tru.oemHash.isSome + 4 * b01 s.tru.opened + 8 * b01 (s.tru.dbg = 1) + 16 * b01 (s.tru.dbg = 2) +
    32 * b01 s.cal.eolLocked + 64 * b01 (pageLocked s.acc.regPage) + 128 * b01 s.bul.keysLocked

/-- What M_CONFIG is the hash of: the regulatory page, both operator key slots, the fleet ID, CLK.CFG and TRU.BOOT_CFG. -/
def State.configImage (s : State) : List Byte :=
  padTo 128 s.acc.regPage ++ (s.bul.keys[0].getD (List.replicate 2592 0)) ++ (s.bul.keys[1].getD (List.replicate 2592 0)) ++
    leBytes 8 s.bul.fleetId.toNat ++ leBytes 4 (b01 s.clk.xoMode) ++ leBytes 4 (s.tru.prefer.toNat + 2 * b01 s.tru.trial)

/-- A temperature as a byte. -/
def tempByte (t : Int) : List Byte := [BitVec.ofInt 8 t]

/-- The selection and trims of a lane. -/
def LaneCal.bytes (v : LaneCal) : List Byte := leBytes 3 v.mask.toNat ++ leInt 2 v.offset ++ leInt 2 v.gain ++ leInt 2 v.skew

/-- What is found in a Class B part. -/
def calBBytes (o : CalBMeas) : List Byte :=
  o.entries.flatMap (fun e => leBytes 2 e.1 ++ leInt 2 e.2) ++ o.dpd.flatMap (fun d => leInt 4 d.1 ++ d.2.flatMap fun a => leInt 4 a.1 ++ leInt 4 a.2) ++
    o.theta.flatMap (fun t => leBytes 2 t.1.val ++ leBytes 2 t.2.1 ++ leInt 4 t.2.2.num ++ leBytes 4 t.2.2.den) ++ o.loops.flatMap (leInt 4)

/-- What M_CAL is the hash of: the end-of-line record and the current copies of both classes (R443). The layout within a record the
spec does not state (log 38). -/
def State.calImage (s : State) : List Byte :=
  let c := s.cal
  [byte (b01 c.eolLocked), byte (b01 c.eolValid)] ++ c.eolGains.toList.flatMap (fun l => l.flatMap (leInt 4)) ++
    c.eolCalsrc.toList.flatMap (fun l => l.flatMap (leInt 4)) ++ leBytes 4 c.refPpb.toNat ++
    c.board.flatMap (fun v => leBytes 2 v.toNat) ++ leBytes 4 c.aSeq.toNat ++
    c.aValues.toList.flatMap (fun l => l.flatMap fun e => byte e.1 :: e.2.bytes) ++ c.aTemp.toList.flatMap tempByte ++
    c.aRuns.toList.flatMap (fun v => leBytes 4 v.toNat) ++ c.aLast.toList.flatMap (fun v => leBytes 4 v.toNat) ++
    [byte c.aValid.toNat, byte c.aSuspect.toNat] ++ leBytes 4 c.bSeq.toNat ++
    c.bValues.flatMap (fun e => byte e.1.val :: (calBBytes e.2.1 ++ tempByte e.2.2)) ++ c.pathOff.flatMap (leInt 4) ++ leBytes 4 c.bRuns.toNat ++
    leBytes 4 c.bLast.toNat ++ [byte c.bValid.toNat]

/-- What M_FUSE is the hash of. -/
def State.fuseImage (s : State) : List Byte :=
  s.tru.vendorHash ++ s.tru.oemHash.getD (List.replicate 64 0) ++ [byte s.tru.svnCtr, byte s.tru.dbg.toNat]

/-- Bytes 0 to 383 of the report. -/
def State.reportHead (s : State) (nonce : List Byte) : List Byte :=
  let f := s.tru.slots[s.runSlot]
  [1, byte s.sys.slot.toNat, byte s.tru.svnCtr, byte s.attestState] ++ leBytes 4 Config.idRev.toNat ++ f.read 8 4 ++
    leBytes 4 s.tru.reports.toNat ++ leBytes 8 s.sys.timeUs.toNat ++ padTo 32 nonce ++ List.replicate 8 0 ++ Config.sha3 f.message ++
    Config.sha3 s.configImage ++ Config.sha3 s.calImage ++ Config.sha3 s.fuseImage ++ List.replicate 64 0

/-- TRU_ATTEST. -/
def bodyTruAttest (c : CmdEntry) (s : State) : Answer :=
  let k := s.takeFree
  let head := s.reportHead (c.bytes 24 32)
  .ok (k.2.modTru fun t => { t with reports := t.reports + 1 }) [] (some (head ++ Config.mldsaSign k.1 txtAttest head))

/-- TRU_ATTEST (R457). -/
def execTruAttest (c : CmdEntry) (s : State) : Host.Outcome State Fault Refusal := .next (s.runCmd 0x0A05 c (bodyTruAttest c))

/-- TRU_CERT. -/
def bodyTruCert (c : CmdEntry) (s : State) : Answer :=
  checked (rsvdBytes c 24 27) fun _ => .ok s (leBytes 2 s.tru.chain.length) (some (padTo 6144 s.tru.chain))

/-- TRU_CERT (R456). -/
def execTruCert (c : CmdEntry) (s : State) : Host.Outcome State Fault Refusal := .next (s.runCmd 0x0A06 c (bodyTruCert c))

/-- TRU_PUBKEY. -/
def bodyTruPubkey (c : CmdEntry) (s : State) : Answer :=
  let n := if c.u8 24 = 0 then 2592 else 1568
  checked ([(decide (c.u8 24 ≤ 1) && decide (c.bufLen.toNat ≠ n), .badlen, 0), (decide (1 < c.u8 24), .range, 24)] ++ rsvdBytes c 25 27) fun _ =>
    .ok s [] (some (padTo n (if c.u8 24 = 0 then s.tru.idKey else s.tru.kemKey)))

/-- TRU_PUBKEY (R454, R463). -/
def execTruPubkey (c : CmdEntry) (s : State) : Host.Outcome State Fault Refusal := .next (s.runCmd 0x0A07 c (bodyTruPubkey c))

/-! ### The debug port (R459 to R461) -/

/-- Source 62 (R464). -/
def State.debugEvent (s : State) (code : Nat) : State := s.raise 62 code [byte s.tru.dbg.toNat, byte s.tru.failed]

/-- The key whose signature unlocks: the running image's vendor key, or its OEM key when one is fused; only a key whose hash is the
fused one counts (R460). -/
def State.debugKey (s : State) : Option (List Byte) :=
  let f := s.tru.slots[s.runSlot]
  match s.tru.oemHash with
  | some h => if Config.sha3 f.oemKey = h then some f.oemKey else none
  | none => if Config.sha3 f.vendorKey = s.tru.vendorHash then some f.vendorKey else none

/-- A challenge is issued (R460). -/
def State.debugChallenge (s : State) : Answer :=
  let k := s.takeFree
  let ch := Config.random k.1 32
  .ok ((k.2.modTru fun t => { t with challenge := some (ch, s.sys.timeUs) }).debugEvent 0) [] (some ch)

/-- A challenge issued at `t` is still valid: 10 s have not passed (R460). -/
def State.challengeLives (s : State) (t : D) : Bool := decide ((s.sys.timeUs - t).toNat < 10000000)

/-- The response verifies against the outstanding challenge. -/
def State.responseOk (s : State) (sig : List Byte) : Bool :=
  match s.tru.challenge, s.debugKey with
  | some (ch, t), some key =>
    s.challengeLives t && Config.hashMldsaVerify key txtDebug (Config.sha3 (ch ++ leBytes 4 Config.idRev.toNat ++ leBytes 4 (t.toNat % 2 ^ 32))) sig
  | _, _ => false

/-- The port is opened on a LOCKED device (R461). -/
def State.debugOpened (s : State) : State := (s.modTru fun t => { t with opened := true }).setFlag slotTru 2

/-- A response, which uses the challenge up; the third that fails exhausts the attempts. -/
def State.debugResponse (s : State) (sig : List Byte) : Answer :=
  let good := s.responseOk sig
  let s := s.modTru fun t => { t with challenge := none }
  if good then
    let s := s.modTru fun t => { t with unlocked := true }
    .done ((if s.tru.dbg = 1 then s.debugOpened else s).debugEvent 1)
  else
    let s := ((s.modTru fun t => { t with failed := t.failed + 1 }).setFlag slotTru 1).debugEvent 2
    .part (if s.tru.failed = 3 then s.debugEvent 3 else s) .auth 0 []

/-- The debug state moves forward by fuse (R459). -/
def State.debugFuse (s : State) (to_ : BitVec 2) : Answer :=
  if s.tru.dbg.toNat < to_.toNat then
    .done (s.modTru fun t => { t with dbg := to_, unlocked := t.unlocked && decide (to_ ≠ 2) })
  else .fail .state 0

/-- TRU_DEBUG. -/
def bodyTruDebug (c : CmdEntry) (s : State) : Answer :=
  let op := c.u8 24
  let bad := match op with
    | 0 => !c.bufOut || decide (c.bufLen.toNat ≠ 32)
    | 1 => !c.bufIn || decide (c.bufLen.toNat ≠ 4627)
    | _ => c.bufIn || c.bufOut
  checked ([(decide (op ≤ 3) && bad, .badlen, 0), (decide (3 < op), .range, 24)] ++ rsvdBytes c 25 27 ++
      [(decide (3 ≤ s.tru.failed) || decide (s.tru.dbg = 2), .locked, 0)]) fun _ =>
    match op with
    | 0 => s.debugChallenge
    | 1 => s.debugResponse c.buf
    | 2 => s.debugFuse 1
    | _ => s.debugFuse 2

/-- TRU_DEBUG (R460). -/
def execTruDebug (c : CmdEntry) (s : State) : Host.Outcome State Fault Refusal := .next (s.runCmd 0x0A08 c (bodyTruDebug c))

/-- TRU_OEM_KEY. -/
def bodyTruOemKey (c : CmdEntry) (s : State) : Answer :=
  checked (rsvdBytes c 24 27 ++ [(s.tru.oemHash.isSome, .locked, 0)]) fun _ =>
    .done (s.modTru fun t => { t with oemHash := some (Config.sha3 c.buf) })

/-- TRU_OEM_KEY (R463). -/
def execTruOemKey (c : CmdEntry) (s : State) : Host.Outcome State Fault Refusal := .next (s.runCmd 0x0A09 c (bodyTruOemKey c))

/-- DEBUG_CHALLENGE_EXPIRY (R460). -/
def execDebugChallengeExpiry (s : State) : Host.Outcome State Fault Refusal :=
  .next (match s.tru.challenge with
    | some (_, t) => if s.challengeLives t then s else s.modTru fun b => { b with challenge := none }
    | none => s)

/-- DEBUG_PORT_ACCESS (R461): the use of an OPEN device's port, or of one that has been unlocked. -/
def execDebugPortAccess (s : State) : Host.Outcome State Fault Refusal :=
  .next (if (s.tru.dbg = 0 ∨ s.tru.unlocked = true) ∧ s.tru.opened = false then s.debugOpened else s)

/-! ### The boot ROM (R448, R450) -/

/-- The result of a slot, with the mark of R451 and step 6. -/
def State.bootCheck (s : State) (n : Fin 2) : Nat :=
  let f := s.tru.slots[n]
  if f.empty then 2
  else
    match s.imageCheck f with
    | 0 => if s.tru.trial = true ∧ s.tru.prefer.toNat = n.val ∧ s.tru.trialStarted = true then 7 else 0
    | k => k

/-- A slot's result in TRU.BOOT_STAT. -/
def State.setResult (s : State) (n : Fin 2) (code : Nat) : State :=
  s.modTru fun t => if n = 0 then { t with result0 := byte code } else { t with result1 := byte code }

/-- Source 60 (R464). -/
def State.bootEvent (s : State) (code slot : Nat) : State :=
  s.raiseDeferred 60 code ([byte slot, s.tru.result0, s.tru.result1, 0] ++ (leBytes 4 s.sys.fwVer.toNat).reverse)

/-- The ROM starts a slot: 1 is its result, and a trial slot has then been started once (R448, R452). -/
def State.startSlot (s : State) (n : Fin 2) (code : Nat) : State :=
  let f := s.tru.slots[n]
  let s : State := { (s.setResult n 1) with sys := { s.sys with
    slot := BitVec.ofNat 1 n.val, fwVer := f.version, stewardUp := true, recovery := false } }
  let s := if s.inTrial then s.modTru fun t => { t with trialStarted := true } else s
  let s := if code = 1 then s.setFlag slotTru 0 else s
  s.bootEvent code n.val

/-- No slot passes: recovery (R450). -/
def State.enterRecovery (s : State) : State :=
  let s : State := { s with sys := { s.sys with recovery := true, stewardUp := false, fwVer := 0 } }
  s.bootEvent 2 0xFF

/-- The checks of both slots, the preferred one first; the first that passes is started. -/
def State.runBoot (s : State) : State :=
  let p : Fin 2 := s.tru.prefer.toFin
  let q := otherSlot p
  let s := s.modTru fun t => { t with result0 := 0, result1 := 0 }
  match s.bootCheck p with
  | 0 => s.startSlot p 0
  | k =>
    let s := s.setResult p k
    match s.bootCheck q with
    | 0 => s.startSlot q 1
    | j => (s.setResult q j).enterRecovery

end Sys2Proof.Machine
end

