-- ==== Sys2Proof/Machine/Waling.lean ====
section
/-!
DEFINITION. Meanings of the events that the Waling and the mechanisms of R469 raise (20_safety.md).
-/

namespace Sys2Proof.Machine

/-! ### Memory errors (R467, R468) -/

/-- Fault code of an ECC error at an address of SRAM or MRAM (R469). -/
def eccCode (a : Nat) (correctable : Bool) : Option Nat :=
  match sramUse a, mramUse a with
  | some u, _ => some (if correctable then 6 else if u = .steward then 7 else 8)
  | none, some _ => some (if correctable then 9 else 10)
  | none, none => none

/-- The device is restoring the checkpoint of STOW. -/
def State.restoring (s : State) : Bool := decide (s.pwr.st = .stow) && s.pwr.waking.isSome

/-- An error that a read finds. A word of the checkpoint that cannot be read while it is restored fails the checkpoint, which leads
to a cold start (R31, R422, R488). -/
def State.eccFound (s : State) (a : Nat) (correctable : Bool) : State :=
  match eccCode a correctable with
  | none => s
  | some code =>
    if s.restoring = true ∧ mramUse a = some .checkpoint ∧ correctable = false then s.offWake else s.fault code 0 false

/-- MEM_SCRUB (R468): one bit in error is corrected and written back, more are uncorrectable. Nothing reads the word. -/
def execMemScrub (addr : W) (bitsInError : Nat) (s : State) : Host.Outcome State Fault Refusal :=
  .next (if bitsInError = 0 then s else s.eccFound addr.toNat (decide (bitsInError = 1)))

/-! ### Steward pairs and watchdogs (R469, R470) -/

/-- The pair runs: in WATCH only pair B; in SAFE neither. -/
def State.pairUp (s : State) (p : Fin 2) : Bool :=
  !s.saf.safe &&
    (match s.pwr.st with
     | .run | .idle | .doze | .limp => s.sys.stewardUp
     | .watch => decide (p = 1)
     | _ => false)

/-- The cores of the pair are clocked, the boot ROM's time among it (R449): not in SAFE, where they are held in reset, and in WATCH only pair
B's (R414, R476). -/
def State.pairClocked (s : State) (p : Fin 2) : Bool :=
  !s.saf.safe &&
    (match s.pwr.st with
     | .run | .idle | .doze | .limp => true
     | .watch => decide (p = 1)
     | _ => false)

/-- LOCKSTEP_MISMATCH (R469 codes 1 and 2). -/
def execLockstepMismatch (pair : Fin 2) (s : State) : Host.Outcome State Fault Refusal :=
  .next (if s.pairClocked pair then s.fault (1 + pair.val) pair.val false else s)

/-- The watchdog of a pair runs while ENABLE is 1 and the pair runs (R470). -/
def State.wdtOn (s : State) (p : Fin 2) : Bool := s.saf.enable && s.pairUp p

/-- WIN_MAX in ms: values outside 2 to 7 act as 4. -/
def State.winMax (s : State) : Nat := let v := fld s.saf.wdtCfg 8 4; if within 2 7 v then v else 4

/-- WDT_EXPIRY (R470): no kick by WIN_MAX after the last one, as the watchdog's oscillator measures it, which runs within ±2 %. -/
def execWdtExpiry (pair : Fin 2) (s : State) : Host.Outcome State Fault Refusal :=
  .next (if s.wdtOn pair = true ∧ 980 * s.winMax ≤ (s.sys.timeUs - s.saf.lastKick[pair]).toNat then s.fault (3 + pair.val) pair.val false else s)

/-- WIN_MIN in ms: a value of WIN_MAX or above acts as WIN_MAX − 1. -/
def State.winMin (s : State) : Nat := min (fld s.saf.wdtCfg 0 4) (s.winMax - 1)

/-- A kick: earlier than WIN_MIN after the last one it is a fault. -/
def State.kick (s : State) (p : Fin 2) : State :=
  let early := decide ((s.sys.timeUs - s.saf.lastKick[p]).toNat < 1000 * s.winMin)
  let s : State := { s with saf := { s.saf with lastKick := upd s.saf.lastKick p fun _ => s.sys.timeUs } }
  if early then s.fault (3 + p.val) p.val false else s

/-- A pair stops: it executes and completes nothing until a reset (R25). -/
def State.pairStops (s : State) (p : Fin 2) : State :=
  { s with saf := { s.saf with pairStopped := s.saf.pairStopped ||| BitVec.ofNat 2 (2 ^ p.val) } }

/-- WDT_KICK (R470, R25). -/
def execWdtKick (kick : Kick) (s : State) : Host.Outcome State Fault Refusal :=
  .next (if s.pairUp kick.pair then
    let s := if kick.last then s.pairStops kick.pair else s
    if s.saf.enable then s.kick kick.pair else s
  else s)

/-- ACCESS_FAULT (R29, R469 code 5). -/
def execAccessFault (pair : Fin 2) (_addr : D) (s : State) : Host.Outcome State Fault Refusal :=
  .next (if s.pairUp pair then s.fault 5 pair.val false else s)

/-! ### Links (R12, R469 code 11, R504) -/

/-- The window and the position of leg j. -/
def State.legAt (s : State) (j : Nat) : Option (Fin 64 × Fin 4) :=
  (List.finRange 64).findSome? fun (w : Fin 64) =>
    let x : Window := s.win.win[w]
    if x.st = 0 then none
    else (firstIx fun p : Fin 4 => match x.legs[p] with | some l => decide (l.no = j) | none => false).map fun p => (w, p)

/-- A block of window w is dropped on the way to its runner: the next block carries the mark, and the runner has a gap (R12, R17). -/
def State.dropBlock (s : State) (w : Fin 64) : State :=
  let x := s.win.win[w]
  if x.st = 0 ∨ x.released = false then s
  else ((s.linkDrop (128 + w.val) 1).modWin w fun x => { x with disc := x.disc + 64 }).gapBlock x.runner

/-- The failing block or unit of link j is discarded as a drop (R12). How many samples a block of a leg input holds the spec does not
state: at least one. -/
def State.dropOn (s : State) (j : Nat) : State :=
  if j < 128 then
    match s.legAt j with
    | none => s
    | some (w, p) =>
      let k := s.takeFree
      k.2.legOverrun w p (1 + Config.freeNat k.1)
  else if j < 192 then s.dropBlock (Fin.ofNat 64 (j - 128))
  else if j < 204 then s.scanSkip j
  else if j < 220 then
    match s.decoderCtx (j - 204) with
    | none => s
    | some c => (s.linkDrop j 1).modCtx c fun x => { x with lost := satAdd (2 ^ 24 - 1) x.lost 1, discDue := true }
  else if j < 476 then s.dropUnit (Fin.ofNat 256 (j - 220)) j
  else s.dropUnit (Fin.ofNat 256 (j - 476)) j

/-- The race that a preset reads (R81, R111). -/
def presetRace (p : Nat) : Race := match p with | 1 | 2 => .L | 3 | 4 => .V | _ => .B

/-- A race buffer's word cannot be read: every leg on that race loses the sample (R13, R469 code 8). -/
def State.raceDrop (s : State) (k : Nat) : State :=
  let legs := (List.finRange 64).flatMap fun w => (List.finRange 4).map fun p => (w, p)
  legs.foldl (fun s wp =>
    match s.win.win[wp.1].legs[wp.2] with
    | some l =>
      if raceBuffer l.ant (presetRace s.win.win[wp.1].preset) = 0x20410000 + 24576 * k then s.legOverrun wp.1 wp.2 1 else s
    | none => s) s

/-- A unit that reads an uncorrectable word of SRAM treats it as a drop (R12, R469 code 8); where the spec does not say whose the word
is, nothing is counted. -/
def State.readDrop (s : State) (u : SramUse) : State :=
  match u with
  | .raceBuffer k => s.raceDrop k
  | .decoder d => s.dropOn (204 + d)
  | _ => s

/-- ECC_ERROR (R467). -/
def execEccError (addr : W) (correctable : Bool) (s : State) : Host.Outcome State Fault Refusal :=
  let t := s.eccFound addr.toNat correctable
  .next (match correctable, sramUse addr.toNat with
    | false, some u => t.readDrop u
    | _, _ => t)

/-- LINK_CRC_ERROR (R469 code 11): the instance names the link in 8 bits. -/
def execLinkCrcError (link : Fin 732) (s : State) : Host.Outcome State Fault Refusal :=
  .next ((s.dropOn link.val).fault 11 (link.val % 256) false)

/-! ### Supplies and temperature (R469 codes 16 to 21) -/

/-- The comparator of a rail reports: not in STOW, OFF and HV hold, not before the first power-good, and not for a rail that Limp has
switched off (R427, R469). -/
def State.railWatched (s : State) (rail : Fin 4) : Bool :=
  (match s.pwr.st with
   | .run | .idle | .doze | .watch | .limp => true
   | _ => false) && !(decide (rail ≠ 0) && s.pwr.railOff.getLsbD (rail.val - 1))

/-- RAIL_OUT_OF_WINDOW (R469 codes 16 to 19). -/
def execRailOutOfWindow (rail : Fin 4) (s : State) : Host.Outcome State Fault Refusal :=
  .next (if s.railWatched rail then
    let s : State := { s with saf := { s.saf with railBad := s.saf.railBad ||| BitVec.ofNat 4 (2 ^ rail.val) } }
    s.fault (16 + rail.val) rail.val false
  else s)

/-- The logic side runs, with the Waling and its mechanisms: not in STOW, OFF and HV hold. -/
def State.walingUp (s : State) : Bool :=
  match s.pwr.st with
  | .run | .idle | .doze | .watch | .limp => true
  | _ => false

/-- OVER_TEMPERATURE (R469 code 20). -/
def execOverTemperature (s : State) : Host.Outcome State Fault Refusal := .next (if s.walingUp then s.fault 20 0 false else s)

/-- SENSORS_DISAGREE (R469 code 21). -/
def execSensorsDisagree (s : State) : Host.Outcome State Fault Refusal := .next (if s.walingUp then s.fault 21 0 false else s)

/-- WALING_DISAGREE (R472, R469 code 23). -/
def execWalingDisagree (s : State) : Host.Outcome State Fault Refusal := .next (if s.walingUp then s.fault 23 0 false else s)

/-! ### Self-test (R471) -/

/-- The codes of the monitors that the self-test covers. -/
def isMonitor (m : Nat) : Bool := within 14 21 m || decide (m = 23)

/-- A monitor that does not report its test condition gives code 22; at a start the self-test has then not passed. -/
def State.monitorTested (s : State) (m : Nat) (reports : Bool) : State :=
  if reports || !isMonitor m || !s.walingUp then s
  else
    let s : State := if s.starting then { s with saf := { s.saf with selfTestOk := false } } else s
    s.fault 22 m false

/-- SELFTEST_TICK (R471). -/
def execSelftestTick (monitor : Byte) (reports : Bool) (s : State) : Host.Outcome State Fault Refusal :=
  .next (s.monitorTested monitor.toNat reports)

/-! ### The safe state (R475 to R477) -/

/-- No safe-state request waits or runs on TW1. -/
def State.safeIdle (s : State) : Bool := !(s.tw.port[1].queue ++ s.tw.port[1].run.toList).any fun t => decide (t.user = TwUser.safeState)

/-- A request that was not acknowledged is repeated, 3 times in all; after that FAULT_N alone signals the fault. -/
def State.safeAgain (s : State) : State :=
  match s.saf.request with
  | some (code, n + 1) =>
    if s.safeIdle then ({ s with saf := { s.saf with request := some (code, n) } }).safeRequest code.toNat else s
  | some (_, 0) => if s.safeIdle then { s with saf := { s.saf with request := none } } else s
  | none => s

/-- SAFE_STATE_RETRY (R475): 1 ms after a request that was not acknowledged. -/
def execSafeStateRetry (s : State) : Host.Outcome State Fault Refusal :=
  .next (if 1000 ≤ (s.sys.timeUs - s.saf.requestAt).toNat then s.safeAgain else s)

/-- A class 1 fault has not recovered within 5 ms of its classification: it is logged again under class 2, whose wake it then is (R423, R477, R478). -/
def State.escalate (s : State) (code inst : Byte) : State :=
  let due := fun f : Byte × Byte × D => decide (f.1 = code ∧ f.2.1 = inst ∧ 5000 ≤ (s.sys.timeUs - f.2.2).toNat)
  if s.saf.open1.any due then
    let s : State := { s with saf := { s.saf with open1 := s.saf.open1.filter fun f => !due f } }
    (s.wakeUp 10).logFault code.toNat inst.toNat 2 false
  else s

/-- FAULT_ESCALATE (R477). -/
def execFaultEscalate (code inst : Byte) (s : State) : Host.Outcome State Fault Refusal := .next (s.escalate code inst)

/-- SAFE_AUTO_RESET (R476): 10 ms after the classification that led to SAFE. -/
def execSafeAutoReset (s : State) : Host.Outcome State Fault Refusal :=
  .next (if s.saf.safe = true ∧ s.saf.action = true ∧ 10000 ≤ (s.sys.timeUs - s.saf.safeAt).toNat then s.resetWarm 3 else s)

end Sys2Proof.Machine
end

