-- ==== Sys2Proof/Machine/Startup.lean ====
section
/-!
DEFINITION. Meanings of the events of a start (21_startup.md): VBAT, power-good, the boot ROM, the steward's initialisation, and the
return to WATCH after a reset that no host answers.
-/

namespace Sys2Proof.Machine

/-- VBAT rises through 6.0 V (R481): the HV reset is released and a cold start begins. A device that was running goes on. -/
def State.vbatRises (s : State) : State :=
  let first := !s.pwr.vbatOk
  let s := s.modPwr fun p => { p with vbatOk := true, vbat6 := true }
  if first ∧ s.pwr.st = .off ∧ s.pwr.coldHold = false then s.modPwr fun p => { p with pwrEn := true } else s

/-- VBAT_RISE (R481). -/
def execVbatRise (s : State) : Host.Outcome State Fault Refusal := .next s.vbatRises

/-- VBAT_LOSS (R481, R486 code 0): a power-on reset, with the HV side in reset until VBAT returns. -/
def execVbatLoss (s : State) : Host.Outcome State Fault Refusal :=
  .next ((s.resetCold false).modPwr fun p => { p with vbatOk := false, vbat6 := false })

/-- POWER_GOOD (R482 steps 2 and 3, R488). -/
def execPowerGood (s : State) : Host.Outcome State Fault Refusal := .next s.railsGood

/-- COLD_RESTART (R486 code 1): PWR_EN has been low for 20 ms, and the cold start runs from step 1 of R482. -/
def execColdRestart (s : State) : Host.Outcome State Fault Refusal :=
  .next (if s.pwr.coldHold then s.modPwr fun p => { p with coldHold := false, pwrEn := s.pwr.vbatOk } else s)

/-- The boot ROM runs now: after a reset, before a slot has been started, once the self-test has passed (R482 step 4a). -/
def State.booting (s : State) : Bool :=
  decide (s.pwr.st = .run) && !s.host.ready && !s.sys.stewardUp && !s.sys.recovery && !s.saf.safe && s.saf.selfTestOk

/-- Sources 1 and 0, once the host has enabled ring 2 (R56, R486). -/
def State.resetEvents (s : State) : State := (s.raiseDeferred 1 s.sys.resetCode.toNat []).raiseDeferred 0 0 s.infoResult

/-- HOST.STAT.READY becomes 1. -/
def State.becomeReady (s : State) : State := ({ s with host := { s.host with ready := true, readyAt := s.sys.timeUs } }).resetEvents

/-- The ROM starts a slot, whose start moves the clocks to the dividers at PL1 once lock is declared (R482 step 5, R483); in recovery it serves the
rings itself (R450). -/
def State.boot (s : State) : State :=
  let s := s.runBoot
  if s.sys.recovery then s.becomeReady
  else (s.modClk fun c => { c with onPll := c.lock }).modPwr fun p => { p with level := 1, target := 1 }

/-- BOOT_ROM (R448). -/
def execBootRom (s : State) : Host.Outcome State Fault Refusal := .next (if s.booting then s.boot else s)

/-- A complete record whose SEQ exceeds its counter raises that counter (R264). -/
def State.storeCheck (s : State) : State :=
  s.bul.store.toList.foldl (fun (s : State) (r : BulRec) =>
    match ix 4 (r.kind.toNat - 1) with
    | none => s
    | some k =>
      if r.st ≠ 0 ∧ r.kind ≠ 0 ∧ s.bul.ctr[k] < r.seq then { s with bul := { s.bul with ctr := upd s.bul.ctr k fun _ => r.seq } } else s) s

/-- STEWARD_READY (R482 step 7): calibration is loaded, the bulletin store checked, and READY becomes 1. -/
def execStewardReady (s : State) : Host.Outcome State Fault Refusal :=
  .next (if s.pwr.st = .run ∧ s.sys.stewardUp = true ∧ s.host.ready = false ∧ s.saf.safe = false then
    s.loadCal.storeCheck.becomeReady else s)

/-- WATCH_AUTO_ENTRY (R485): after a logic or safety reset no ring has been enabled within 30 s of READY. -/
def execWatchAutoEntry (s : State) : Host.Outcome State Fault Refusal :=
  .next (if 2 ≤ s.sys.resetCode.toNat ∧ s.host.ready = true ∧ s.host.ringSeen = false ∧ s.sys.recovery = false ∧
      30000000 ≤ (s.sys.timeUs - s.host.readyAt).toNat then
    s.stewardSleep 3 else s)

end Sys2Proof.Machine
end

