-- ==== Sys2Proof/Machine/Hci.lean ====
section
/-!
DEFINITION. Meanings of the entries of ring 3, which carry the Bluetooth LE controller's HCI traffic (R65 to R67, R299, R312, R327,
R338, R351, R427), and of the end of an event's rate-limit interval (R75).
-/

namespace Sys2Proof.Machine

/-! ### The entries of ring 3 (R65) -/

/-- The controller has taken the entry: the consumer index of ring 3 moves past it (R42). -/
def State.hciTaken (s : State) : State := s.slotRead 3

/-- An entry that is discarded: a TYPE not listed for ring 3, or a LEN outside 3 to 268 (R65). -/
def HciEntry.isBad (e : Sys2Proof.HciEntry) : Bool := !(decide (e.type = 1) || decide (e.type = 2)) || !within 3 268 e.len.toNat

/-- The packet of an entry. -/
def HciEntry.bytes (e : Sys2Proof.HciEntry) : List Byte := e.packet.take e.len.toNat

/-- The HCI opcode of a command packet. -/
def packetOp (p : List Byte) : Nat := leNat (slice p 0 2)

/-- The LE controller runs: HCI is served by pair A, outside recovery. -/
def State.hciRuns (s : State) : Bool := s.pairRuns 0 && !s.sys.recovery

/-- A packet for the LE controller. -/
def State.hciTo (s : State) (type : Byte) (p : List Byte) : State := s.modAcc fun a => { a with hciIn := (type, p) :: a.hciIn }

/-- Command Complete with 4 command packets (R65), the opcode and the return parameters (PRESUMED, log 9). -/
def State.hciComplete (s : State) (op : Nat) (ret : List Byte) : State := s.hciOut 4 ([0x0E, byte (3 + ret.length), 4] ++ leBytes 2 op ++ ret)

/-- Command Status with 4 command packets (R65; PRESUMED, log 9). -/
def State.hciStatus (s : State) (op : Nat) (st : Byte) : State := s.hciOut 4 ([0x0F, 4, st, 4] ++ leBytes 2 op)

/-! ### Vendor-specific commands (R66) -/

/-- The body of the ring 0 command of an area 0x07xx opcode. -/
def accBody (op : Nat) (c : CmdEntry) : State → Answer :=
  match op with
  | 0x0701 => bodyAccRxCfg c
  | 0x0702 => bodyAccRxStats c
  | 0x0703 => bodyAccListen c
  | 0x0710 => bodyAccTx c
  | 0x0711 => bodyAccTxStop c
  | 0x0712 => bodyAccRegWrite c
  | 0x0713 => bodyAccRegLock c
  | 0x0714 => bodyAccRegRead c
  | 0x0720 => bodyAccCredLoad c
  | 0x0721 => bodyAccCredList c
  | 0x0722 => bodyAccCredEvict c
  | 0x0723 => bodyAccUnlockCfg c
  | 0x0724 => bodyAccVkey c
  | 0x0725 => bodyAccRange c
  | 0x0726 => bodyAccVerdictRead c
  | _ => fun _ => .fail .badop 0

/-- How the ring 0 command would use its buffer, given how many bytes follow its parameters: none where the row permits it and none
follow, else the bytes as BUF_IN, else BUF_OUT of the least length (log 9). -/
def vendorBuf (row : OpRow) (extra : Nat) : Byte × Nat :=
  if extra ≠ 0 then (2, extra)
  else if row.bufs.any fun u => decide (u = .none) then (0, 0)
  else match row.bufs with
    | .dev false lo _ _ :: _ => (4, lo)
    | _ => (0, 0)

/-- The ring 0 entry that vendor-specific command number `n` stands for: its `id` lies above every fetch of ring 0 (`CmdEntry.wf`). -/
def vendorEntry (row : OpRow) (params : List Byte) (n : Nat) : CmdEntry :=
  let b := vendorBuf row (params.length - row.plen)
  { slot := hciSlot, tag := 0, plen := byte (min params.length row.plen), flags := b.1, bufAddr := 0, bufLen := BitVec.ofNat 32 b.2, rsvd := 0
    params := params.take row.plen, buf := params.drop row.plen, bufErr := false, id := 2 ^ 64 + n }

/-- A vendor-specific command: the ring 0 command with opcode 0x07cc, completed on ring 4 (R66). -/
def State.vendor (s : State) (cc : Nat) (params : List Byte) : State :=
  match opRow (0x0700 + cc) with
  | none => s.hciOut 4 (vendorComplete (0x0700 + cc) .badop)
  | some row =>
    let c := vendorEntry row params s.host.hciCnt
    ({ s with host := { s.host with hciCnt := s.host.hciCnt + 1 } }).runCmd (0x0700 + cc) c (accBody (0x0700 + cc) c)

/-! ### Standard commands (R299, R312, R327, R338, R351, R427) -/

/-- 10^(k/20), scaled by 10^40 and rounded down, k from 0 to 19. -/
def pow20 : List Nat :=
  [10000000000000000000000000000000000000000,
   11220184543019634355910389464779057367223,
   12589254117941672104239541063958006060936,
   14125375446227543021556078639302409297897,
   15848931924611134852021013733915070132694,
   17782794100389228012254211951926848447357,
   19952623149688796013524553967395355579862,
   22387211385683396119549508524657423337072,
   25118864315095801110850320677993273941585,
   28183829312644538191019236991551107186830,
   31622776601683793319988935444327185337195,
   35481338923357545843321870226449062049134,
   39810717055349725077025230508775204348767,
   44668359215096311855625052431937661637730,
   50118723362727228500155418688494576806047,
   56234132519034908039495103977648123146825,
   63095734448019324943436013662234386467294,
   70794578438413791080221494218931270935443,
   79432823472428150206591828283638793258896,
   89125093813374552995310868107829696398587]

/-- A power of r half decibels, scaled (R312). -/
def linPower (r : Int) : Nat := pow20.getD ((r + 1000).toNat % 20) 0 * 10 ^ ((r + 1000).toNat / 20)

/-- The mean, in linear power, of RSSI values in 0.5 dBm, rounded down to a whole dBm within −127 to +20; 127 when there are none
(R312). -/
def meanRssi (l : List Int) : Int :=
  if l.isEmpty then 127
  else
    let sum := (l.map linPower).foldl (· + ·) 0
    ((List.range 147).foldl (fun best i => if l.length * linPower (2 * ((i : Int) - 126)) ≤ sum then (i : Int) - 126 else best) (-127))

/-- The largest power in whole dBm, not above the request, that a path reaches: P_drv at most +6 dBm (R327), under the cap without
pre-distortion (R328, R339). -/
def State.reachable (s : State) (p : Int) (path : Fin 4) : Int :=
  (((List.range 256).map fun i => p - (i : Int)).find? fun q =>
    decide (s.driver (2 * q) path ≤ 12) && decide (s.capPower (2 * q) = 2 * q)).getD (-127)

/-- Some channel of a list is allowed by a valid page (R336, R338). -/
def State.anyAllowed (s : State) (chans : List Nat) : Bool :=
  pageValid s.acc.regPage && chans.any fun k => s.chAllowed (Fin.ofNat 81 (rfChannel k))

/-- Why a command that starts access transmission is turned away: 0x0C Command Disallowed in Limp (R427) and at PL0, whose units do not
include access transmission (log 39), 0x11 Unsupported Feature or Parameter Value when no allowed channel is left (R338). -/
def State.startRefused (s : State) (chans : List Nat) : Option Byte :=
  if s.pwr.st = .limp ∨ s.below 1 = true then some 0x0C else if s.anyAllowed chans = false then some 0x11 else none

/-- The data channels of the link layer. -/
def dataChans : List Nat := List.range 37

/-- Connections in use: the host's and that of a flow of the device (R299, R317). -/
def State.connsUsed (s : State) : Nat :=
  s.acc.conns.length + (match s.cred.flow with | some f => if f.range.isNone then 1 else 0 | none => 0)

/-- The flow holds the channel-sounding procedure (R351). -/
def State.flowRanges (s : State) : Bool := match s.cred.flow with | some f => decide (f.step = .ranging) | none => false

/-- A host connection is gone; a flow on it ends (R350). -/
def State.connGone (s : State) (h : BitVec 16) : State :=
  let s := s.modAcc fun a => { a with conns := a.conns.filter fun c => decide (c.handle ≠ h) }
  match s.cred.flow with
  | some f => if f.range.isSome ∧ f.handle = h then s.flowGone else s
  | none => s

/-- The host's channel-sounding procedure ends, and a flow that waited begins (R351). -/
def State.csEnds (s : State) : State := if s.acc.hostCs then (s.modAcc fun a => { a with hostCs := false }).waitedFlow else s

/-- An addition to a list of at most n entries: 0x07 Memory Capacity Exceeded when it is full. -/
def addTo {α : Type} [DecidableEq α] (n : Nat) (x : α) (l : List α) : Byte × List α :=
  if x ∈ l then (0, l) else if n ≤ l.length then (7, l) else (0, x :: l)

/-- HCI_Reset resets the LE controller's state only: it ends no ring 0 command, and leaves the flow, credential slots and the regulatory
page (R67). The receiver closes unless the device itself uses it. -/
def State.hciReset (s : State) : State :=
  let s := s.modAcc fun a => { a with
    hostAdv := false, hostScan := false, advSets := [], acceptList := [], resolvList := [], conns := [], hciIn := [] }
  let s := if s.acc.listening || s.cred.flow.isSome then s
    else s.modAcc fun a => { a with rxOpen := false, rxClosed := false, cur := none, heldSync := none }
  s.csEnds.hciComplete 0x0C03 [0]

/-- The LE features of R299 as bits of the LE supported-features result (PRESUMED, log 104): encryption 0, data length extension 5, LL
privacy 6, LE 2M 8, LE Coded 11, extended advertising 12, channel selection algorithm #2 14, channel sounding 46. -/
def leFeatures : Nat := 2 ^ 0 + 2 ^ 5 + 2 ^ 6 + 2 ^ 8 + 2 ^ 11 + 2 ^ 12 + 2 ^ 14 + 2 ^ 46

/-- Parameter byte `i` of a command packet. -/
def hciParam (p : List Byte) (i : Nat) : Byte := p.getD (3 + i) 0

/-- The address, its type first, from parameter byte `i`. -/
def hciAddr (p : List Byte) (i : Nat) : Byte × List Byte := (hciParam p i, slice p (4 + i) 6)

/-- The connection handle from parameter byte 0. -/
def hciHandle (p : List Byte) : BitVec 16 := BitVec.ofNat 16 (leNat (slice p 3 2) % 4096)

/-- What the packet of a standard command asks, by the opcodes and layouts of the Bluetooth Core Specification (PRESUMED, log 104). -/
def hciKind (p : List Byte) : HciKind :=
  match packetOp p with
  | 0x0C03 => .reset
  | 0x0406 => .disconnect (hciHandle p)
  | 0x1405 => .readRssi (hciHandle p)
  | 0x2002 => .bufferSize false
  | 0x2060 => .bufferSize true
  | 0x2003 => .features
  | 0x200A | 0x2039 => if hciParam p 0 = 1 then .advStart else .advStop
  | 0x200C | 0x2042 => if hciParam p 0 = 1 then .scanStart else .scanStop
  | 0x200D | 0x2043 => .connect
  | 0x2010 => .acceptClear
  | 0x2011 => .acceptAdd (hciAddr p 0)
  | 0x2012 => .acceptRemove (hciAddr p 0)
  | 0x2014 => .chanClass ((List.range 37).filter fun i => (leNat (slice p 3 5)).testBit i)
  | 0x2027 => .resolvAdd (hciAddr p 0)
  | 0x2028 => .resolvRemove (hciAddr p 0)
  | 0x2029 => .resolvClear
  | 0x2036 | 0x207F => .advSet (hciParam p 0) (toSigned 1 (hciParam p 18).toNat)
  | 0x203C => .advSetRemove (hciParam p 0)
  | 0x203D => .advSetsClear
  | 0x2094 => if hciParam p 3 = 1 then .csStart else .csStop
  | op =>
    if within 0x203E 0x2040 op ∨ within 0x2044 0x204A op ∨ within 0x2059 0x205C op ∨ within 0x2061 0x2071 op ∨ within 0x2076 0x207E op then
      .unsupported
    else .other

/-- A standard HCI command: its effect on what the spec gives the controller, and its Command Complete or Command Status. -/
def State.hciStandard (s : State) (op : Nat) (k : HciKind) (o : HciObs) : State :=
  match k with
  | .reset => s.hciReset
  | .advStart =>
    match s.startRefused [37, 38, 39] with
    | some st => s.hciComplete op [st]
    | none => (s.modAcc fun a => { a with hostAdv := true }).hciComplete op [0]
  | .advStop => (s.modAcc fun a => { a with hostAdv := false }).hciComplete op [0]
  | .scanStart => (s.modAcc fun a => { a with hostScan := true }).hciComplete op [0]
  | .scanStop => (s.modAcc fun a => { a with hostScan := false }).hciComplete op [0]
  | .advSet h p => let r := addTo 4 h s.acc.advSets; (s.modAcc fun a => { a with advSets := r.2 }).hciComplete op ([r.1] ++ leInt 1 (s.reachable p o.path))
  | .advSetRemove h =>
    if h ∈ s.acc.advSets then (s.modAcc fun a => { a with advSets := a.advSets.filter fun x => decide (x ≠ h) }).hciComplete op [0]
    else s.hciComplete op [0x42]
  | .advSetsClear => (s.modAcc fun a => { a with advSets := [] }).hciComplete op [0]
  | .acceptAdd x => let r := addTo 16 x s.acc.acceptList; (s.modAcc fun a => { a with acceptList := r.2 }).hciComplete op [r.1]
  | .acceptRemove x => (s.modAcc fun a => { a with acceptList := a.acceptList.filter fun y => decide (y ≠ x) }).hciComplete op [0]
  | .acceptClear => (s.modAcc fun a => { a with acceptList := [] }).hciComplete op [0]
  | .resolvAdd x => let r := addTo 16 x s.acc.resolvList; (s.modAcc fun a => { a with resolvList := r.2 }).hciComplete op [r.1]
  | .resolvRemove x =>
    if x ∈ s.acc.resolvList then (s.modAcc fun a => { a with resolvList := a.resolvList.filter fun y => decide (y ≠ x) }).hciComplete op [0]
    else s.hciComplete op [2]
  | .resolvClear => (s.modAcc fun a => { a with resolvList := [] }).hciComplete op [0]
  | .connect =>
    match s.startRefused dataChans with
    | some st => s.hciStatus op st
    | none =>
      if 8 ≤ s.connsUsed then s.hciStatus op 0x09
      else (s.modAcc fun a => { a with conns := { handle := o.handle, slot := o.slot, rssi := [], aa := o.aa } :: a.conns }).hciStatus op 0
  | .disconnect h => if s.acc.conns.any fun c => decide (c.handle = h) then (s.connGone h).hciStatus op 0 else s.hciStatus op 2
  | .csStart =>
    if s.flowRanges then s.hciStatus op 0x0C
    else match s.startRefused (dataChans ++ [37, 38, 39]) with
      | some st => s.hciStatus op st
      | none => (s.modAcc fun a => { a with hostCs := true }).hciStatus op 0
  | .csStop => if s.flowRanges then s.hciStatus op 0x0C else s.csEnds.hciStatus op 0
  | .readRssi h =>
    match s.acc.conns.find? fun c => decide (c.handle = h) with
    | some c => s.hciComplete op ([0] ++ leBytes 2 h.toNat ++ leInt 1 (meanRssi c.rssi))
    | none => s.hciComplete op ([2] ++ leBytes 2 h.toNat ++ [0])
  | .chanClass l => s.hciComplete op [if s.anyAllowed l then 0 else 0x11]
  | .bufferSize v2 => s.hciComplete op ([0] ++ leBytes 2 251 ++ [8] ++ if v2 then [0, 0, 0] else [])
  | .features => s.hciComplete op ([0] ++ leBytes 8 leFeatures)
  | .unsupported => s.hciComplete op [0x01]
  | .other => o.reply.foldl (fun (s : State) (r : Byte × List Byte) => s.hciOut r.1.toNat r.2) s

/-- A command packet reaches the controller, whose declared parameter length must be right (log 9). -/
def State.hciPacket (s : State) (p : List Byte) (o : HciObs) : State :=
  let op := packetOp p
  let params := p.drop 3
  if (p.getD 2 0).toNat ≠ params.length then s.hciComplete op [0x12]
  else if op / 256 = 0xFE then s.vendor (op % 256) params
  else (s.hciTo 1 p).hciStandard op (hciKind p) o

/-- An ACL data packet reaches the controller. -/
def State.hciAcl (s : State) (p : List Byte) : State := s.hciTo 2 p

/-- An entry taken from ring 3 acts: discarded, or a command or ACL data by its TYPE (R65). -/
def State.hciActs (s : State) (e : HciEntry) (o : HciObs) : State :=
  if HciEntry.isBad e then s.hciOut 4 hciDiscard
  else if e.type = 1 then s.hciPacket (HciEntry.bytes e) o
  else s.hciAcl (HciEntry.bytes e)

/-- The commands of area 0x07xx that have been fetched and not reached the access controller, by their fetches. -/
def State.accWaiting (s : State) : List Nat :=
  (s.host.outstanding.filter fun x =>
    decide (x.opcode.toNat / 256 = 7) && decide (x.phase = .held ∨ x.phase = .dispatched)).map fun x => x.entry.id

/-- The controller reads ring 3 now: it runs, and a doorbell has covered an entry of a ring that is processed (R46, R70). -/
def State.hciReads (s : State) : Bool := s.hciRuns && s.ringUp 3 && decide (s.host.rings[3].used ≠ 0)

/-- An entry of ring 3 (R65). It acts after the commands of area 0x07xx that were fetched before it (R67), and after the entries of its own
ring before it. -/
def State.hciEntry (s : State) (e : HciEntry) (o : HciObs) : State :=
  if s.hciReads then
    let s := s.hciTaken
    if s.accWaiting.isEmpty && s.host.hciWaiting.isEmpty then s.hciActs e o
    else { s with host := { s.host with hciWaiting := s.host.hciWaiting ++ [(e, o, s.accWaiting)] } }
  else s

/-- The entries of ring 3 whose wait has ended act, in order (R67). -/
def State.drainHciWaiting (s : State) : State :=
  (List.replicate s.host.hciWaiting.length ()).foldl (fun s _ =>
    match s.host.hciWaiting with
    | [] => s
    | (e, o, ids) :: rest =>
      if s.accWaiting.any fun i => ids.contains i then s
      else ({ s with host := { s.host with hciWaiting := rest } }).hciActs e o) s

/-- HCI_COMMAND (R65 to R67): an entry whose TYPE says ACL data is ACL data. -/
def execHciCommand (e : HciEntry) (o : HciObs) (s : State) : Host.Outcome State Fault Refusal := .next (s.hciEntry e o)

/-- What an entry meets that is no command. -/
def HciObs.none : HciObs := { handle := 0, aa := 0, slot := Option.none, path := 0, reply := [] }

/-- HCI_ACL_DATA (R65): an entry whose TYPE says command is a command. -/
def execHciAclData (e : HciEntry) (s : State) : Host.Outcome State Fault Refusal := .next (s.hciEntry e HciObs.none)

/-- The entry that carries HCI_Reset. -/
def resetEntry : HciEntry := { len := 3, type := 1, packet := [0x03, 0x0C, 0x00] }

/-- HCI_RESET (R67). -/
def execHciReset (s : State) : Host.Outcome State Fault Refusal := .next (s.hciEntry resetEntry HciObs.none)

/-! ### Rate limits (R61, R75, R118) -/

/-- EVENT_RATE_LIMIT_EXPIRY (R75): the interval of a source's instance ends. -/
def execEventRateLimitExpiry (src inst : Byte) (s : State) : Host.Outcome State Fault Refusal :=
  .next (s.rateExpire src.toNat inst.toNat)

end Sys2Proof.Machine
end

