-- ==== Sys2Proof/Machine/Dispatch.lean ====
section
/-!
DEFINITION. The dispatch: one arm for each command or event of spec/opcode_table.json, in its order.
-/

namespace Sys2Proof.Machine

/-- The effect of one command on everything but the queue. -/
def exec (i : Instr) (s : State) : Host.Outcome State Fault Refusal :=
  match i with
  | .sysNop c => Sys2Proof.Machine.execSysNop c s
  | .sysInfo c => Sys2Proof.Machine.execSysInfo c s
  | .sysTime c => Sys2Proof.Machine.execSysTime c s
  | .sysSetRtc c => Sys2Proof.Machine.execSysSetRtc c s
  | .sysReset c => Sys2Proof.Machine.execSysReset c s
  | .capStart c => Sys2Proof.Machine.execCapStart c s
  | .capStop c => Sys2Proof.Machine.execCapStop c s
  | .capGain c => Sys2Proof.Machine.execCapGain c s
  | .capRace c => Sys2Proof.Machine.execCapRace c s
  | .capFeed c => Sys2Proof.Machine.execCapFeed c s
  | .capModule c answer => Sys2Proof.Machine.execCapModule c answer s
  | .winOpen c => Sys2Proof.Machine.execWinOpen c s
  | .winClose c => Sys2Proof.Machine.execWinClose c s
  | .winTune c => Sys2Proof.Machine.execWinTune c s
  | .winRatio c => Sys2Proof.Machine.execWinRatio c s
  | .winCoef c => Sys2Proof.Machine.execWinCoef c s
  | .winBank c => Sys2Proof.Machine.execWinBank c s
  | .winDelay c => Sys2Proof.Machine.execWinDelay c s
  | .winLeg c => Sys2Proof.Machine.execWinLeg c s
  | .winScanRead c => Sys2Proof.Machine.execWinScanRead c s
  | .svcOpen c => Sys2Proof.Machine.execSvcOpen c s
  | .svcClose c => Sys2Proof.Machine.execSvcClose c s
  | .svcQuality c => Sys2Proof.Machine.execSvcQuality c s
  | .svcFmCfg c => Sys2Proof.Machine.execSvcFmCfg c s
  | .svcAmCfg c => Sys2Proof.Machine.execSvcAmCfg c s
  | .svcProbeLend c => Sys2Proof.Machine.execSvcProbeLend c s
  | .svcProbe c => Sys2Proof.Machine.execSvcProbe c s
  | .svcRdsState c => Sys2Proof.Machine.execSvcRdsState c s
  | .svcDabCfg c => Sys2Proof.Machine.execSvcDabCfg c s
  | .svcDabDb c => Sys2Proof.Machine.execSvcDabDb c s
  | .svcDrmCfg c => Sys2Proof.Machine.execSvcDrmCfg c s
  | .svcDrmDb c => Sys2Proof.Machine.execSvcDrmDb c s
  | .fanPolicy c => Sys2Proof.Machine.execFanPolicy c s
  | .fanCand c => Sys2Proof.Machine.execFanCand c s
  | .fanCands c => Sys2Proof.Machine.execFanCands c s
  | .fanSwitch c => Sys2Proof.Machine.execFanSwitch c s
  | .fanFollow c => Sys2Proof.Machine.execFanFollow c s
  | .audPort c => Sys2Proof.Machine.execAudPort c s
  | .audSlotmap c => Sys2Proof.Machine.execAudSlotmap c s
  | .audMask c => Sys2Proof.Machine.execAudMask c s
  | .audStart c => Sys2Proof.Machine.execAudStart c s
  | .audQueue c => Sys2Proof.Machine.execAudQueue c s
  | .audPdm c => Sys2Proof.Machine.execAudPdm c s
  | .audStream c => Sys2Proof.Machine.execAudStream c s
  | .bulCfg c => Sys2Proof.Machine.execBulCfg c s
  | .bulKey c => Sys2Proof.Machine.execBulKey c s
  | .bulWatch c => Sys2Proof.Machine.execBulWatch c s
  | .bulList c => Sys2Proof.Machine.execBulList c s
  | .bulRead c => Sys2Proof.Machine.execBulRead c s
  | .bulRelease c => Sys2Proof.Machine.execBulRelease c s
  | .accRxCfg c => Sys2Proof.Machine.execAccRxCfg c s
  | .accRxStats c => Sys2Proof.Machine.execAccRxStats c s
  | .accListen c => Sys2Proof.Machine.execAccListen c s
  | .accTx c => Sys2Proof.Machine.execAccTx c s
  | .accTxStop c => Sys2Proof.Machine.execAccTxStop c s
  | .accRegWrite c => Sys2Proof.Machine.execAccRegWrite c s
  | .accRegLock c => Sys2Proof.Machine.execAccRegLock c s
  | .accRegRead c => Sys2Proof.Machine.execAccRegRead c s
  | .accCredLoad c => Sys2Proof.Machine.execAccCredLoad c s
  | .accCredList c => Sys2Proof.Machine.execAccCredList c s
  | .accCredEvict c => Sys2Proof.Machine.execAccCredEvict c s
  | .accUnlockCfg c => Sys2Proof.Machine.execAccUnlockCfg c s
  | .accVkey c => Sys2Proof.Machine.execAccVkey c s
  | .accRange c => Sys2Proof.Machine.execAccRange c s
  | .accVerdictRead c => Sys2Proof.Machine.execAccVerdictRead c s
  | .pwrLevel c => Sys2Proof.Machine.execPwrLevel c s
  | .pwrSleep c => Sys2Proof.Machine.execPwrSleep c s
  | .pwrAlarm c => Sys2Proof.Machine.execPwrAlarm c s
  | .pwrStatus c => Sys2Proof.Machine.execPwrStatus c s
  | .calRun c => Sys2Proof.Machine.execCalRun c s
  | .calRef c o => Sys2Proof.Machine.execCalRef c o s
  | .calBoard c => Sys2Proof.Machine.execCalBoard c s
  | .truFwWrite c => Sys2Proof.Machine.execTruFwWrite c s
  | .truFwCommit c => Sys2Proof.Machine.execTruFwCommit c s
  | .truFwConfirm c => Sys2Proof.Machine.execTruFwConfirm c s
  | .truSvnAdvance c => Sys2Proof.Machine.execTruSvnAdvance c s
  | .truAttest c => Sys2Proof.Machine.execTruAttest c s
  | .truCert c => Sys2Proof.Machine.execTruCert c s
  | .truPubkey c => Sys2Proof.Machine.execTruPubkey c s
  | .truDebug c => Sys2Proof.Machine.execTruDebug c s
  | .truOemKey c => Sys2Proof.Machine.execTruOemKey c s
  | .twXfer c => Sys2Proof.Machine.execTwXfer c s
  | .twBusclear c => Sys2Proof.Machine.execTwBusclear c s
  | .dmaChain c => Sys2Proof.Machine.execDmaChain c s
  | .dmaWrite c => Sys2Proof.Machine.execDmaWrite c s
  | .dmaStart c => Sys2Proof.Machine.execDmaStart c s
  | .dmaAppend c => Sys2Proof.Machine.execDmaAppend c s
  | .dmaStop c => Sys2Proof.Machine.execDmaStop c s
  | .dmaStatus c => Sys2Proof.Machine.execDmaStatus c s
  | .hciCommand e o => Sys2Proof.Machine.execHciCommand e o s
  | .hciAclData e => Sys2Proof.Machine.execHciAclData e s
  | .hciReset => Sys2Proof.Machine.execHciReset s
  | .doorbellProducer off size value => Sys2Proof.Machine.execDoorbellProducer off size value s
  | .doorbellConsumer off size value => Sys2Proof.Machine.execDoorbellConsumer off size value s
  | .commandEntryReceived opcode c => Sys2Proof.Machine.execCommandEntryReceived opcode c s
  | .commandDispatch slot => Sys2Proof.Machine.execCommandDispatch slot s
  | .completionHeldWrite => Sys2Proof.Machine.execCompletionHeldWrite s
  | .ringEnClear => Sys2Proof.Machine.execRingEnClear s
  | .quiesced => Sys2Proof.Machine.execQuiesced s
  | .ringEnSet => Sys2Proof.Machine.execRingEnSet s
  | .ringEnable n value => Sys2Proof.Machine.execRingEnable n value s
  | .msixUnmask w => Sys2Proof.Machine.execMsixUnmask w s
  | .msixEnable => Sys2Proof.Machine.execMsixEnable s
  | .msixCoalTimer n => Sys2Proof.Machine.execMsixCoalTimer n s
  | .dataRingFull n => Sys2Proof.Machine.execDataRingFull n s
  | .hostBusError a addr => Sys2Proof.Machine.execHostBusError a addr s
  | .linkDown => Sys2Proof.Machine.execLinkDown s
  | .linkUp speed => Sys2Proof.Machine.execLinkUp speed s
  | .linkRetrain speed => Sys2Proof.Machine.execLinkRetrain speed s
  | .perstAssert => Sys2Proof.Machine.execPerstAssert s
  | .perstRelease => Sys2Proof.Machine.execPerstRelease s
  | .regWrite off size value mirror => Sys2Proof.Machine.execRegWrite off size value mirror s
  | .flagClear slot mask hwSets => Sys2Proof.Machine.execFlagClear slot mask hwSets s
  | .timeLoRead => Sys2Proof.Machine.execTimeLoRead s
  | .rtcLoRead => Sys2Proof.Machine.execRtcLoRead s
  | .dmaDoorbell value => Sys2Proof.Machine.execDmaDoorbell value s
  | .synthRefWrite ch value => Sys2Proof.Machine.execSynthRefWrite ch value s
  | .fanDisable value => Sys2Proof.Machine.execFanDisable value s
  | .safLock value => Sys2Proof.Machine.execSafLock value s
  | .safInject value => Sys2Proof.Machine.execSafInject value s
  | .safReset value => Sys2Proof.Machine.execSafReset value s
  | .wdtKick kick => Sys2Proof.Machine.execWdtKick kick s
  | .stewardSleepRequest target => Sys2Proof.Machine.execStewardSleepRequest target s
  | .agcInterval n peakLow => Sys2Proof.Machine.execAgcInterval n peakLow s
  | .agcHoldExpiry n => Sys2Proof.Machine.execAgcHoldExpiry n s
  | .clipDetected n wholeInterval => Sys2Proof.Machine.execClipDetected n wholeInterval s
  | .laneMonitorBlock n differs => Sys2Proof.Machine.execLaneMonitorBlock n differs s
  | .spareTakeover n => Sys2Proof.Machine.execSpareTakeover n s
  | .raceOutputStart n => Sys2Proof.Machine.execRaceOutputStart n s
  | .raceCentreSettled n b => Sys2Proof.Machine.execRaceCentreSettled n b s
  | .blankerBlock n r b => Sys2Proof.Machine.execBlankerBlock n r b s
  | .headraceGovRestart => Sys2Proof.Machine.execHeadraceGovRestart s
  | .feedRampDone n => Sys2Proof.Machine.execFeedRampDone n s
  | .feedMeasure n ma2 => Sys2Proof.Machine.execFeedMeasure n ma2 s
  | .feedLowbat n out => Sys2Proof.Machine.execFeedLowbat n out s
  | .feedShort n ma2 => Sys2Proof.Machine.execFeedShort n ma2 s
  | .feedRetry n => Sys2Proof.Machine.execFeedRetry n s
  | .feedOpen n => Sys2Proof.Machine.execFeedOpen n s
  | .feedOpenRecovery n => Sys2Proof.Machine.execFeedOpenRecovery n s
  | .moduleRecordRead n answer => Sys2Proof.Machine.execModuleRecordRead n answer s
  | .lifeHourlyWrite n record written => Sys2Proof.Machine.execLifeHourlyWrite n record written s
  | .lifeWriteRetry n written => Sys2Proof.Machine.execLifeWriteRetry n written s
  | .legOverrun w pos lost => Sys2Proof.Machine.execLegOverrun w pos lost s
  | .winOutputBlock w b => Sys2Proof.Machine.execWinOutputBlock w b s
  | .winSettled w raceTs => Sys2Proof.Machine.execWinSettled w raceTs s
  | .winCloseEffect w => Sys2Proof.Machine.execWinCloseEffect w s
  | .legRemoveEffect w => Sys2Proof.Machine.execLegRemoveEffect w s
  | .bankSwapEffect w => Sys2Proof.Machine.execBankSwapEffect w s
  | .cmaUpdate w samples => Sys2Proof.Machine.execCmaUpdate w samples s
  | .scanFmPass meas => Sys2Proof.Machine.execScanFmPass meas s
  | .scanDabPass meas => Sys2Proof.Machine.execScanDabPass meas s
  | .runnerMetricTick r m => Sys2Proof.Machine.execRunnerMetricTick r m s
  | .runnerLockGained r => Sys2Proof.Machine.execRunnerLockGained r s
  | .runnerLockLost r => Sys2Proof.Machine.execRunnerLockLost r s
  | .pilotPresent r => Sys2Proof.Machine.execPilotPresent r s
  | .pilotLost r => Sys2Proof.Machine.execPilotLost r s
  | .audioUnit ctx u => Sys2Proof.Machine.execAudioUnit ctx u s
  | .rdsBlock r stream o => Sys2Proof.Machine.execRdsBlock r stream o s
  | .piWithdrawn r => Sys2Proof.Machine.execPiWithdrawn r s
  | .probeLevelCheck r o => Sys2Proof.Machine.execProbeLevelCheck r o s
  | .probeDwellExpiry r o => Sys2Proof.Machine.execProbeDwellExpiry r o s
  | .dabFrameTiming r => Sys2Proof.Machine.execDabFrameTiming r s
  | .dabFrameEnd r o => Sys2Proof.Machine.execDabFrameEnd r o s
  | .dabFicTimeout r => Sys2Proof.Machine.execDabFicTimeout r s
  | .dabHandleExpiry r h => Sys2Proof.Machine.execDabHandleExpiry r h s
  | .dabCif r o => Sys2Proof.Machine.execDabCif r o s
  | .motTimeout ctx tid => Sys2Proof.Machine.execMotTimeout ctx tid s
  | .drmModeFound r mode => Sys2Proof.Machine.execDrmModeFound r mode s
  | .drmFrameEnd r o => Sys2Proof.Machine.execDrmFrameEnd r o s
  | .contextClosed ctx => Sys2Proof.Machine.execContextClosed ctx s
  | .fanScoreTick pace => Sys2Proof.Machine.execFanScoreTick pace s
  | .fanHoldBadExpiry ctx => Sys2Proof.Machine.execFanHoldBadExpiry ctx s
  | .fanDwellGoodExpiry ctx ix => Sys2Proof.Machine.execFanDwellGoodExpiry ctx ix s
  | .fanCandExpiry ctx ix => Sys2Proof.Machine.execFanCandExpiry ctx ix s
  | .fanPiSeenExpiry ctx ix => Sys2Proof.Machine.execFanPiSeenExpiry ctx ix s
  | .alignTick e o => Sys2Proof.Machine.execAlignTick e o s
  | .alignCoarseCheck e o => Sys2Proof.Machine.execAlignCoarseCheck e o s
  | .alignTimeout e => Sys2Proof.Machine.execAlignTimeout e s
  | .alignRetry ctx ix => Sys2Proof.Machine.execAlignRetry ctx ix s
  | .shadowDelayFilled ctx ix => Sys2Proof.Machine.execShadowDelayFilled ctx ix s
  | .fanGap ctx incoming atOutput => Sys2Proof.Machine.execFanGap ctx incoming atOutput s
  | .blendEnd ctx => Sys2Proof.Machine.execBlendEnd ctx s
  | .dipEnd ctx => Sys2Proof.Machine.execDipEnd ctx s
  | .bulSegment o => Sys2Proof.Machine.execBulSegment o s
  | .bulReassemblyTimeout b => Sys2Proof.Machine.execBulReassemblyTimeout b s
  | .bulNotBefore r => Sys2Proof.Machine.execBulNotBefore r s
  | .bulWindowPrep => Sys2Proof.Machine.execBulWindowPrep s
  | .bulFeedOn => Sys2Proof.Machine.execBulFeedOn s
  | .bulWindowOpen => Sys2Proof.Machine.execBulWindowOpen s
  | .bulWindowClose => Sys2Proof.Machine.execBulWindowClose s
  | .audFrame o => Sys2Proof.Machine.execAudFrame o s
  | .slipExecute g => Sys2Proof.Machine.execSlipExecute g s
  | .audClockMeasure g o => Sys2Proof.Machine.execAudClockMeasure g o s
  | .audClockLost g cause => Sys2Proof.Machine.execAudClockLost g cause s
  | .streamUnderrun st => Sys2Proof.Machine.execStreamUnderrun st s
  | .streamResume st => Sys2Proof.Machine.execStreamResume st s
  | .queueXrun q => Sys2Proof.Machine.execQueueXrun q s
  | .queueResume q => Sys2Proof.Machine.execQueueResume q s
  | .fadeRampEnd x => Sys2Proof.Machine.execFadeRampEnd x s
  | .audEvlIn q => Sys2Proof.Machine.execAudEvlIn q s
  | .audStartPulse p => Sys2Proof.Machine.execAudStartPulse p s
  | .pdmStuck m => Sys2Proof.Machine.execPdmStuck m s
  | .pdmDataReturn m => Sys2Proof.Machine.execPdmDataReturn m s
  | .accRxOpen ch w => Sys2Proof.Machine.execAccRxOpen ch w s
  | .accSync o => Sys2Proof.Machine.execAccSync o s
  | .accHeaderCheck o => Sys2Proof.Machine.execAccHeaderCheck o s
  | .accPacketEnd o => Sys2Proof.Machine.execAccPacketEnd o s
  | .accRxWindowClose => Sys2Proof.Machine.execAccRxWindowClose s
  | .listenWindow freeMs => Sys2Proof.Machine.execListenWindow freeMs s
  | .synthHop ch => Sys2Proof.Machine.execSynthHop ch s
  | .synthLock ch => Sys2Proof.Machine.execSynthLock ch s
  | .synthHopFail ch => Sys2Proof.Machine.execSynthHopFail ch s
  | .accTxDeadline => Sys2Proof.Machine.execAccTxDeadline s
  | .radioActivity a => Sys2Proof.Machine.execRadioActivity a s
  | .coexGntWithdrawn => Sys2Proof.Machine.execCoexGntWithdrawn s
  | .dpdStep yielded residual coef => Sys2Proof.Machine.execDpdStep yielded residual coef s
  | .dpdRetrain => Sys2Proof.Machine.execDpdRetrain s
  | .synthCalStep ch yielded => Sys2Proof.Machine.execSynthCalStep ch yielded s
  | .unlockConnected handle accessAddr => Sys2Proof.Machine.execUnlockConnected handle accessAddr s
  | .unlockEncrypted ok => Sys2Proof.Machine.execUnlockEncrypted ok s
  | .unlockChannelOpen => Sys2Proof.Machine.execUnlockChannelOpen s
  | .credentialSdu bytes => Sys2Proof.Machine.execCredentialSdu bytes s
  | .sduTimeout => Sys2Proof.Machine.execSduTimeout s
  | .challengeAnswer bytes => Sys2Proof.Machine.execChallengeAnswer bytes s
  | .challengeTimeout => Sys2Proof.Machine.execChallengeTimeout s
  | .csProcedureDone o => Sys2Proof.Machine.execCsProcedureDone o s
  | .verdictTw1Retry => Sys2Proof.Machine.execVerdictTw1Retry s
  | .unlockDisconnected => Sys2Proof.Machine.execUnlockDisconnected s
  | .evlPulse l => Sys2Proof.Machine.execEvlPulse l s
  | .dmaFetch ch => Sys2Proof.Machine.execDmaFetch ch s
  | .dmaDescComplete ch hostRead => Sys2Proof.Machine.execDmaDescComplete ch hostRead s
  | .dmaAccessError ch elements write hostRead => Sys2Proof.Machine.execDmaAccessError ch elements write hostRead s
  | .twTransactionStart p sdaLow c => Sys2Proof.Machine.execTwTransactionStart p sdaLow c s
  | .twTransactionEnd p e => Sys2Proof.Machine.execTwTransactionEnd p e s
  | .twArbLost p => Sys2Proof.Machine.execTwArbLost p s
  | .twBusError p sdaLow c => Sys2Proof.Machine.execTwBusError p sdaLow c s
  | .twSclTimeout p sdaLow c => Sys2Proof.Machine.execTwSclTimeout p sdaLow c s
  | .twStuckPoll p high => Sys2Proof.Machine.execTwStuckPoll p high s
  | .twFreeBusTimeout p => Sys2Proof.Machine.execTwFreeBusTimeout p s
  | .twAlert p => Sys2Proof.Machine.execTwAlert p s
  | .twAlertRepeat p => Sys2Proof.Machine.execTwAlertRepeat p s
  | .hostWakeRequest => Sys2Proof.Machine.execHostWakeRequest s
  | .hostWakeRetry => Sys2Proof.Machine.execHostWakeRetry s
  | .lockWindow err => Sys2Proof.Machine.execLockWindow err s
  | .refMissing => Sys2Proof.Machine.execRefMissing s
  | .refMonitorWindow count => Sys2Proof.Machine.execRefMonitorWindow count s
  | .relockAttempt => Sys2Proof.Machine.execRelockAttempt s
  | .relockFail => Sys2Proof.Machine.execRelockFail s
  | .refQualified => Sys2Proof.Machine.execRefQualified s
  | .refStartTimeout => Sys2Proof.Machine.execRefStartTimeout s
  | .rtcStop => Sys2Proof.Machine.execRtcStop s
  | .pmicPoll a => Sys2Proof.Machine.execPmicPoll a s
  | .pmicTimeout => Sys2Proof.Machine.execPmicTimeout s
  | .pwrPendingStart => Sys2Proof.Machine.execPwrPendingStart s
  | .tjSample t1 t2 => Sys2Proof.Machine.execTjSample t1 t2 s
  | .governorCap => Sys2Proof.Machine.execGovernorCap s
  | .governorRelease => Sys2Proof.Machine.execGovernorRelease s
  | .dmaDrainTimeout => Sys2Proof.Machine.execDmaDrainTimeout s
  | .wakePin k level => Sys2Proof.Machine.execWakePin k level s
  | .rtcAlarm => Sys2Proof.Machine.execRtcAlarm s
  | .accessTimerWake => Sys2Proof.Machine.execAccessTimerWake s
  | .wake code => Sys2Proof.Machine.execWake code s
  | .wakeStepTimeout r => Sys2Proof.Machine.execWakeStepTimeout r s
  | .wakeStepRepeat ready => Sys2Proof.Machine.execWakeStepRepeat ready s
  | .calAStepDone o => Sys2Proof.Machine.execCalAStepDone o s
  | .calAStore => Sys2Proof.Machine.execCalAStore s
  | .calBPartDone o => Sys2Proof.Machine.execCalBPartDone o s
  | .memScrub addr bitsInError => Sys2Proof.Machine.execMemScrub addr bitsInError s
  | .lockstepMismatch pair => Sys2Proof.Machine.execLockstepMismatch pair s
  | .wdtExpiry pair => Sys2Proof.Machine.execWdtExpiry pair s
  | .eccError addr correctable => Sys2Proof.Machine.execEccError addr correctable s
  | .linkCrcError link => Sys2Proof.Machine.execLinkCrcError link s
  | .accessFault pair addr => Sys2Proof.Machine.execAccessFault pair addr s
  | .railOutOfWindow rail => Sys2Proof.Machine.execRailOutOfWindow rail s
  | .overTemperature => Sys2Proof.Machine.execOverTemperature s
  | .sensorsDisagree => Sys2Proof.Machine.execSensorsDisagree s
  | .walingDisagree => Sys2Proof.Machine.execWalingDisagree s
  | .selftestTick monitor reports => Sys2Proof.Machine.execSelftestTick monitor reports s
  | .safeStateRetry => Sys2Proof.Machine.execSafeStateRetry s
  | .faultEscalate code inst => Sys2Proof.Machine.execFaultEscalate code inst s
  | .safeAutoReset => Sys2Proof.Machine.execSafeAutoReset s
  | .debugChallengeExpiry => Sys2Proof.Machine.execDebugChallengeExpiry s
  | .vbatRise => Sys2Proof.Machine.execVbatRise s
  | .vbatLoss => Sys2Proof.Machine.execVbatLoss s
  | .powerGood => Sys2Proof.Machine.execPowerGood s
  | .bootRom => Sys2Proof.Machine.execBootRom s
  | .stewardReady => Sys2Proof.Machine.execStewardReady s
  | .watchAutoEntry => Sys2Proof.Machine.execWatchAutoEntry s
  | .coldRestart => Sys2Proof.Machine.execColdRestart s
  | .supervisionTimeout => Sys2Proof.Machine.execSupervisionTimeout s
  | .coexReqHoldExpiry => Sys2Proof.Machine.execCoexReqHoldExpiry s
  | .debugPortAccess => Sys2Proof.Machine.execDebugPortAccess s
  | .eventRateLimitExpiry source inst => Sys2Proof.Machine.execEventRateLimitExpiry source inst s

end Sys2Proof.Machine
end

