-- ==== Sys2Proof/Machine/Tick.lean ====
section
/-!
DEFINITION. What happens when no command waits (log 3): one microsecond of device time (R396) and of the RTC passes, a sleep entry in
progress passes its next abort point (R416), an entry that a doorbell unwound and that nothing superseded receives its status
(R417, R420), contexts in OPENING move on (R21), ring 3 entries whose wait has ended act (R67), and the reset of a SYS_RESET begins
(R56).
-/

namespace Sys2Proof.Machine

/-- One microsecond passes for device time and the RTC. -/
def SysBlk.tick (y : SysBlk) : SysBlk :=
  let y : SysBlk := { y with timeUs := y.timeUs + 1 }
  if y.rtcSub + 1 < 1000000 then { y with rtcSub := y.rtcSub + 1 } else { y with rtcSub := 0, rtcSec := y.rtcSec + 1 }

/-- The contexts in OPENING whose resources are configured now move to ACQUIRING (R21). -/
def State.opensDone (s : State) : State :=
  (allIx fun c : Fin 256 => decide (s.svc.ctx[c].st = .opening)).foldl State.ctxOpened s

/-- A step with an empty queue. -/
def State.tick (s : State) : State :=
  ((((({ s with sys := s.sys.tick }).settleUndone false).entryStep).opensDone).drainHciWaiting).resetStarts

end Sys2Proof.Machine
end

