-- ==== Sys2Proof/Safety.lean ====
section
/-!
DEFINITION. What the claims call a safe state and a safe step of the block, over the model's own State.
-/

namespace Sys2Proof.Machine

/-- SRAM and the counters of the TLM block are in their canonical forms. -/
def State.canonical (s : State) : Bool := Memory.wf s.mem && Tlm.wf s.tlm

/-- The regulatory page is locked (R335, R336): byte 6 reads 0x5A. -/
def State.pageIsLocked (s : State) : Bool := pageLocked s.acc.regPage

/-- A ring 0 entry reaches its steward (R25, R50, R52, R53, R450, R524): the Hopper does not hold it back, its checks pass, its pair executes
commands, the device is not in recovery, and the read of its buffer succeeds. -/
def State.takes (s : State) (op : Nat) (c : CmdEntry) : Bool :=
  !s.cmdHeld op c && (hopperCheck op c).isNone && s.pairRuns (opPair op) && !s.sys.recovery && !(c.bufIn && c.bufErr)

/-- The state in which the steward finds a command: it is no longer among those that wait. -/
def State.taken (s : State) (op : Nat) (c : CmdEntry) : State := s.dropCmd op c.id

/-- The command completes with E_OK: its inline result, and what it writes to its buffer (R47, R54). -/
def State.completesOk (t : State) (op : Nat) (c : CmdEntry) (result : List Byte) (out : Option (List Byte)) : State :=
  t.finish op c .ok 0 result out

/-- The host's accesses reach the block at once (R37, R496): the link is up, the device is in RUN and not in SAFE, and no sleep entry
is in progress or unwound. -/
def State.awake (s : State) : Bool :=
  s.host.dlUp && !s.saf.safe && decide (s.pwr.st = .run) && s.pwr.trans.isNone && s.pwr.undone.isNone

/-- The device writes ring 2 now: the ring takes entries and has a slot beyond the one kept for source 4 (R59), and no source 4
entry is owed. -/
def State.eventsFlow (s : State) : Bool := s.ringUp 2 && decide (2 ≤ s.host.rings[2].free) && decide (s.evt.owed = 0)

/-- Only what the host sees differs: rings, posted writes, outstanding commands, and the event block. -/
def State.onlyReports (s t : State) : Prop := t = { s with host := t.host, evt := t.evt }

end Sys2Proof.Machine
end

