-- ==== Sys2Proof/Certificates/Slice0/Obligations.lean ====
section
/-!
DEFINITION. The statements about the KZ9640 for the provers: one per group of rules, over the model's own State. A statement that says a
command completes has as its conclusion the next state that exec answers.
-/

open Sys2Proof Sys2Proof.Machine

/-- With `c` at the front of the queue, a step is `exec c` on the state with the queue's rest (the model's queue, log 3). -/
def Obligations.QueueStep : Prop :=
  ∀ (s : State) (c : Instr) (rest : List Instr), s.pending = c :: rest → step s = exec c { s with pending := rest }

/-- With an empty queue, one microsecond passes for device time and the RTC (the model's choice, log 3). -/
def Obligations.IdleStep : Prop :=
  ∀ s : State, s.pending = [] → s.pwr.trans = none → s.pwr.undone = none → (∀ c : Fin 256, s.svc.ctx[c].st ≠ .opening) →
    s.host.hciWaiting = [] → (s.sys.resetDue = none ∨ s.resetReady = false) →
    step s = .next { s with sys :=
      if s.sys.rtcSub + 1 < 1000000 then { s.sys with timeUs := s.sys.timeUs + 1, rtcSub := s.sys.rtcSub + 1 }
      else { s.sys with timeUs := s.sys.timeUs + 1, rtcSub := 0, rtcSec := s.sys.rtcSec + 1 } }

/-- SRAM and the counters stay in canonical form (the form is the model's choice, log 8), whatever the step. -/
def Obligations.EveryStepKeepsCanonicalForms : Prop :=
  ∀ s t : State, s.canonical = true → step s = .next t → t.canonical = true

/-- The reset state has the invariant of `EveryStepKeepsCanonicalForms`. -/
def Obligations.ResetIsCanonical : Prop :=
  State.reset.canonical = true ∧ State.reset.tlm = [] ∧ State.reset.mem = [] ∧ State.reset.pending = []

/-- Once LOCK is 0x5A nothing writes the page, and no reset and no command clears the lock (R336). -/
def Obligations.LockedPageStays : Prop :=
  ∀ s t : State, s.pageIsLocked = true → step s = .next t → t.acc.regPage = s.acc.regPage ∧ t.pageIsLocked = true

/-- Fuses: the SVN counter never falls, the debug state never goes back, a programmed OEM key hash stays (R453, R459). -/
def Obligations.FusesNeverGoBack : Prop :=
  ∀ s t : State, step s = .next t →
    s.tru.svnCtr ≤ t.tru.svnCtr ∧ s.tru.dbg.toNat ≤ t.tru.dbg.toNat ∧ (s.tru.oemHash.isSome = true → t.tru.oemHash = s.tru.oemHash)

/-- The queue is first in, first out; posted writes and taken free values are never undone (the model's bookkeeping, logs 1 and 3). -/
def Obligations.QueueIsFirstInFirstOut : Prop :=
  ∀ s t : State, step s = .next t →
    t.pending = s.pending.tail ∧ (∃ (l : _), t.host.posted = l ++ s.host.posted) ∧ s.freeCnt ≤ t.freeCnt

/-- A locked end-of-line record is never measured again (R430). -/
def Obligations.LockedEolRecordStays : Prop :=
  ∀ s t : State, s.cal.eolLocked = true → step s = .next t →
    t.cal.eolLocked = true ∧ t.cal.eolGains = s.cal.eolGains ∧ t.cal.eolCalsrc = s.cal.eolCalsrc

/-- The commands of R55, and the resets of R486 that SYS_RESET starts. -/
def Obligations.SystemCommandsComplete : Prop :=
  (∀ (s : State) (c : CmdEntry), s.takes 0x0100 c = true → exec (.sysNop c) s = .next ((s.taken 0x0100 c).completesOk 0x0100 c [] none)) ∧
    (∀ (s : State) (c : CmdEntry), s.takes 0x0101 c = true →
      exec (.sysInfo c) s = .next ((s.taken 0x0101 c).completesOk 0x0101 c
        (leBytes 4 0x96400101 ++ (leBytes 4 s.sys.fwVer.toNat).reverse ++ [byte s.sys.slot.toNat] ++ List.replicate 7 0) none)) ∧
    (∀ (s : State) (c : CmdEntry), s.takes 0x0102 c = true →
      exec (.sysTime c) s = .next ((s.taken 0x0102 c).completesOk 0x0102 c
        (leBytes 8 s.sys.timeUs.toNat ++ leBytes 8 (if s.sys.rtcSet then s.sys.rtcSec.toNat else 0)) none)) ∧
    (∀ (s : State) (c : CmdEntry), s.takes 0x0103 c = true → c.u64 24 < 2 ^ 40 →
      exec (.sysSetRtc c) s = .next (({ s.taken 0x0103 c with
        sys := { s.sys with rtcSec := BitVec.ofNat 40 (c.u64 24), rtcSub := 0, rtcSet := true, rtcXtal := true } }).completesOk
          0x0103 c [] none)) ∧
    (∀ (s : State) (c : CmdEntry), s.takes 0x0103 c = true → 2 ^ 40 ≤ c.u64 24 →
      exec (.sysSetRtc c) s = .next ((s.taken 0x0103 c).finish 0x0103 c .range 24 [] none)) ∧
    (∀ (s : State) (c : CmdEntry), s.takes 0x0104 c = true → s.pwr.trans = none → s.pwr.undone = none → (c.u32 24 = 1 ∨ c.u32 24 = 2) →
      exec (.sysReset c) s = .next (({ s.taken 0x0104 c with
        sys := { s.sys with resetDue := some (BitVec.ofNat 2 (c.u32 24)) } } : State).completesOk 0x0104 c [] none)) ∧
    (∀ (s : State) (c : CmdEntry), s.takes 0x0104 c = true → (c.u32 24 ≠ 1 ∧ c.u32 24 ≠ 2) →
      exec (.sysReset c) s = .next ((s.taken 0x0104 c).finish 0x0104 c .range 24 [] none)) ∧
    (∀ (s : State), s.pending = [] → s.pwr.trans = none → s.pwr.undone = none → (∀ c : Fin 256, s.svc.ctx[c].st ≠ .opening) → s.host.hciWaiting = [] →
      s.sys.resetDue = some 2 → s.resetReady = true →
      ∃ (t : _), step s = .next t ∧ t.sys.resetCode = 2 ∧ t.pwr.st = .run ∧ t.host.ready = false ∧ t.host.outstanding = [] ∧
        t.win = {} ∧ t.svc = {} ∧ t.dma = {} ∧ t.sys.resetDue = none) ∧
    (∀ (s : State), s.pending = [] → s.pwr.trans = none → s.pwr.undone = none → (∀ c : Fin 256, s.svc.ctx[c].st ≠ .opening) → s.host.hciWaiting = [] →
      s.sys.resetDue = some 1 → s.resetReady = true →
      ∃ (t : _), step s = .next t ∧ t.sys.resetCode = 1 ∧ t.sys.timeUs = 0 ∧ t.pwr.st = .off ∧ t.pwr.pwrEn = false ∧
        t.host.ready = false ∧ t.win = {} ∧ t.svc = {} ∧ t.mem = [] ∧ t.sys.resetDue = none)

/-- R47, R58, R59: an unmasked event is one entry of ring 2, then the shadow index, then the message. -/
def Obligations.EventsAreDelivered : Prop :=
  ∀ (s : State) (src code : Nat) (data : List Byte), s.eventsFlow = true → s.srcMasked src = false →
    s.onlyReports (s.raise src code data) ∧
    (∃ (l : _), (s.raise src code data).host.posted = l ++
        HostWrite.event (ringAddr s.host.rings[2] 2 s.host.rings[2].prod) s.host.rings[2].phase
          { source := byte src, code := BitVec.ofNat 16 code, seq := s.evt.seq, time := s.sys.timeUs, data := padTo 16 data } ::
        s.host.posted ∧
      ∀ w ∈ l, (∃ (a : _) (v : _), w = HostWrite.shadow a v) ∨ (∃ (a : _) (v : _), w = HostWrite.msix a v)) ∧
    (s.raise src code data).evt = { s.evt with seq := s.evt.seq + 1 } ∧
    (s.raise src code data).host.rings[2].prod = (s.host.rings[2].advance).prod ∧
    (s.raise src code data).host.outstanding = s.host.outstanding

/-- R58: a masked event source writes no entry, but it still advances SEQ. -/
def Obligations.MaskedEventsOnlyAdvanceSeq : Prop :=
  ∀ (s : State) (src code : Nat) (data : List Byte), s.srcMasked src = true →
    (s.evt.owed = 0 → s.raise src code data = { s with evt := { s.evt with seq := s.evt.seq + 1 } }) ∧
    s.raise src code data = { s.payOwed with evt := { s.payOwed.evt with seq := s.payOwed.evt.seq + 1 } }

/-- R59: an event that finds no room is counted as lost; the source 4 entry that says so is the first to follow. -/
def Obligations.EventsWithoutRoomAreLost : Prop :=
  (∀ (s : State) (src code : Nat) (data : List Byte), s.srcMasked src = false → (s.ringUp 2 && decide (2 ≤ s.host.rings[2].free)) = false →
      s.raise src code data =
        { s with evt := { s.evt with seq := s.evt.seq + 1, lost := s.evt.lost + 1, owed := s.evt.owed + 1 } }) ∧
    (∀ (s : State) (v : W) (r : Ring), s.awake = true → s.ringUp 2 = true → v.toNat < s.host.rings[2].size →
      (v.toNat + s.host.rings[2].size - s.host.rings[2].cons) % s.host.rings[2].size ≤ s.host.rings[2].used →
      r = { s.host.rings[2] with cons := v.toNat } → 2 ≤ r.free → s.evt.owed ≠ 0 →
      ∃ (u : State) (l : _), exec (.doorbellConsumer 8 4 v) s = .next u ∧ u.evt = { s.evt with owed := 0, seq := s.evt.seq + 1 } ∧
        u.host.posted = l ++ HostWrite.event (ringAddr r 2 r.prod) r.phase
          { source := 4, code := 0, seq := s.evt.seq, time := s.sys.timeUs, data := padTo 16 (leBytes 4 (min s.evt.owed (2 ^ 32 - 1))) } :: s.host.posted ∧
        (∀ w ∈ l, (∃ (a : _) (v : W), w = HostWrite.shadow a v) ∨ (∃ (a : _) (v : W), w = HostWrite.msix a v)) ∧
        u.host.rings[2].cons = v.toNat)

/-- R54, R70: written in ring order, held for room or for the ring's enable, discarded only while RING_EN is 0. -/
def Obligations.CompletionsAreNeverDropped : Prop :=
  (∀ (s : State) (op : Nat) (e : CmdEntry) (c : Completion), s.hostUp = true →
      (s.host.rings[1].en && decide (0 < s.host.rings[1].free) && s.host.held.isEmpty) = true →
      s.onlyReports (s.complete op e c) ∧ (s.complete op e c).evt = s.evt ∧ (s.complete op e c).host.held = [] ∧
      (s.complete op e c).host.outstanding = s.host.outstanding ∧
      ∃ (l : _), (s.complete op e c).host.posted = l ++
          HostWrite.completion (ringAddr s.host.rings[1] 1 s.host.rings[1].prod) s.host.rings[1].phase c :: s.host.posted ∧
        ∀ w ∈ l, (∃ (a : _) (v : _), w = HostWrite.shadow a v) ∨ (∃ (a : _) (v : _), w = HostWrite.msix a v)) ∧
    (∀ (s : State) (op : Nat) (e : CmdEntry) (c : Completion), s.hostUp = true →
      (s.host.rings[1].en && decide (0 < s.host.rings[1].free) && s.host.held.isEmpty) = false →
      s.complete op e c = { s with host := { s.host with
        held := s.host.held ++ [(e.id, c)], outstanding := s.host.outstanding ++ [{ opcode := BitVec.ofNat 16 op, phase := .completing, entry := e }] } }) ∧
    (∀ (s : State) (op : Nat) (e : CmdEntry) (c : Completion), s.hostUp = false → s.complete op e c = s)

/-- R50 to R54: what happens to an entry the Hopper reads, and to commands and completions that waited. -/
def Obligations.HopperChecksDecideFirst : Prop :=
  (∀ (s : State) (op : BitVec 16) (c : CmdEntry) (st : Status) (d : Nat), s.host.outstanding.length < 32 → s.covers 0 c.slot.toNat = true →
      hopperCheck op.toNat c = some (st, d) →
      exec (.commandEntryReceived op c) s = .next ((s.slotRead 0).finish op.toNat c st d [] none)) ∧
    (∀ (s : State) (op : BitVec 16) (c : CmdEntry), s.host.outstanding.length < 32 → s.covers 0 c.slot.toNat = true → hopperCheck op.toNat c = none →
      ∃ (t : State), exec (.commandEntryReceived op c) s = .next t ∧ t = { s with host := t.host } ∧
        t.host.rings[0].cons = (s.host.rings[0].cons + 1) % s.host.rings[0].size ∧
        t.host.outstanding = s.host.outstanding.filter (fun o => !o.is op.toNat c.id) ++
          [{ opcode := op, entry := c, phase := if s.mustWait op.toNat c then .held else .dispatched }]) ∧
    (∀ (s : State) (op : BitVec 16) (c : CmdEntry), (32 ≤ s.host.outstanding.length ∨ s.covers 0 c.slot.toNat = false) →
      exec (.commandEntryReceived op c) s = .next s) ∧
    (∀ (s : State) (op : Nat) (c : CmdEntry), s.mustWait op c = true ↔
      ((∃ o ∈ s.host.outstanding, o.entry.id < c.id ∧ (c.fence = true ∨ o.entry.fence = true ∨
        (o.givesWay = false ∧ s.conflict o.opcode.toNat o.entry op c = true))) ∨
      (op / 256 = 7 ∧ ∃ e ∈ s.host.hciWaiting, c.id ∉ e.2.2))) ∧
    (∀ (s : State) (o : OutCmd) (l : List OutCmd), s.host.outstanding = o :: l → o.phase = .held → s.mustWait o.opcode.toNat o.entry = false →
      ∃ (t : State) (l' : _), exec (.commandDispatch o.entry.id) s = .next t ∧ t.host.outstanding = { o with phase := .dispatched } :: l' ∧
        l'.length = l.length ∧ t = { s with host := { s.host with outstanding := t.host.outstanding } }) ∧
    (∀ (s : State) (o : OutCmd) (l : List OutCmd), s.host.outstanding = o :: l → o.phase = .held → s.mustWait o.opcode.toNat o.entry = true →
      exec (.commandDispatch o.entry.id) s = .next s) ∧
    (∀ (s : State) (id : Nat) (c : Completion), s.ringUp 1 = true → 0 < s.host.rings[1].free → s.host.held = [(id, c)] →
      exec .completionHeldWrite s = .next (({ s with host := { s.host with
        held := [], outstanding := s.host.outstanding.filter fun o => !(decide (o.phase = CmdPhase.completing) && decide (o.entry.id = id)) } }).writeEntry 1
          fun a p => .completion a p c)) ∧
    (∀ s : State, s.host.ringEn = false → s.host.outstanding = [] →
      exec .quiesced s = .next { s with host := { s.host with quiesced := true } }) ∧
    (∀ s : State, (s.host.ringEn = true ∨ s.host.outstanding ≠ []) → exec .quiesced s = .next s) ∧
    (∀ (op : Nat) (c : CmdEntry), opRow op = none → hopperCheck op c = some (.badop, 0)) ∧
    (∀ (op : Nat) (c : CmdEntry) (r : OpRow), opRow op = some r → c.plen.toNat ≠ r.plen → hopperCheck op c = some (.badlen, 0))

/-- R43 to R45: the doorbells of both kinds of ring, and those that are ignored. -/
def Obligations.DoorbellsMoveIndices : Prop :=
  (∀ (s : State) (n : Fin 32) (v : W), (n = 0 ∨ n = 3) → s.awake = true → s.host.rings[n].en = true → v.toNat < s.host.rings[n].size →
      exec (.doorbellProducer (BitVec.ofNat 12 (4 * n.val)) 4 v) s = .next (s.modRing n fun r => { r with prod := v.toNat, doorbell := v }) ∧
      (s.modRing n fun r => { r with prod := v.toNat, doorbell := v }).readDoorbell (4 * n.val) = v) ∧
    (∀ (s u : State) (n : Fin 32) (v : W), (n ≠ 0 ∧ n ≠ 3) → s.awake = true → s.host.rings[n].en = true → v.toNat < s.host.rings[n].size →
      (v.toNat + s.host.rings[n].size - s.host.rings[n].cons) % s.host.rings[n].size ≤ s.host.rings[n].used →
      u = { s.modRing n (fun r => { r with cons := v.toNat, doorbell := v, pbufHeld := r.pbufHeld.drop ((v.toNat + r.size - r.cons) % r.size) })
        with host := { (s.modRing n (fun r => { r with cons := v.toNat, doorbell := v, pbufHeld := r.pbufHeld.drop ((v.toNat + r.size - r.cons) % r.size) })).host
          with fullReported := s.host.fullReported &&& ~~~(BitVec.ofNat 32 (2 ^ n.val)) } } →
      exec (.doorbellConsumer (BitVec.ofNat 12 (4 * n.val)) 4 v) s =
        .next (if n = 1 then u.drainHeld else if n = 2 then u.payOwed else if n = 4 then u.drainHci else u.drainRing n)) ∧
    (∀ s : State, s.host.held = [] → s.drainHeld = s) ∧
    (∀ (s : State) (off : BitVec 12) (n : Fin 32) (size : Nat) (v : W), s.awake = true → off.toNat / 4 = n.val →
      (size ≠ 4 ∨ off.toNat % 4 ≠ 0 ∨ s.host.rings[n].en = false ∨ s.host.rings[n].size ≤ v.toNat) →
      exec (.doorbellProducer off size v) s =
        .next (({ s with host := { s.host with dbErr := s.host.dbErr + 1 } }).raise 2 0 ([byte n.val, 0, 0, 0] ++ leBytes 4 v.toNat))) ∧
    (∀ (s : State) (off : BitVec 12) (size : Nat) (v : W), s.awake = true → 128 ≤ off.toNat →
      exec (.doorbellProducer off size v) s =
        .next (({ s with host := { s.host with dbErr := s.host.dbErr + 1 } }).raise 2 0 ([byte (off.toNat / 4), 0, 0, 0] ++ leBytes 4 v.toNat))) ∧
    (∀ (s : State) (n : Fin 32) (v : W), (n ≠ 0 ∧ n ≠ 3) → s.awake = true → s.host.rings[n].en = true → v.toNat < s.host.rings[n].size →
      s.host.rings[n].used < (v.toNat + s.host.rings[n].size - s.host.rings[n].cons) % s.host.rings[n].size →
      exec (.doorbellConsumer (BitVec.ofNat 12 (4 * n.val)) 4 v) s =
        .next (({ s with host := { s.host with dbErr := s.host.dbErr + 1 } }).raise 2 0 ([byte n.val, 0, 0, 0] ++ leBytes 4 v.toNat))) ∧
    (∀ (s : State) (off : BitVec 12) (size : Nat) (v : W), exec (.doorbellConsumer off size v) s = exec (.doorbellProducer off size v) s) ∧
    (∀ (s : State) (off : BitVec 12) (size : Nat) (v : W), s.host.dlUp = false → exec (.doorbellProducer off size v) s = .next s)

/-- R49, with the limits of R38 and R63 that make settings valid. -/
def Obligations.RingSettingsAreChecked : Prop :=
  (∀ (s : State) (n : Fin 32) (v : W), s.awake = true →
      exec (.ringEnable n v) s = .next ((({ s.modRing n (fun r => r.writeCfg n.val v) with
        host := { (s.modRing n (fun r => r.writeCfg n.val v)).host with ringSeen := s.host.ringSeen ||
          (s.modRing n (fun r => r.writeCfg n.val v)).host.rings[n].en } } : State)).ringOpens n)) ∧
    (∀ (r : Ring) (n : Nat) (v : W), v.getLsbD 0 = true → (r.setSizes n v).valid n = true →
      r.writeCfg n v = { r.setSizes n v with en := true, bad := false, prod := 0, cons := 0, phase := true, unsignalled := 0, pbufNext := 0, pbufHeld := [] }) ∧
    (∀ (r : Ring) (n : Nat) (v : W), v.getLsbD 0 = true → (r.setSizes n v).valid n = false →
      r.writeCfg n v = { r.setSizes n v with en := false, bad := true }) ∧
    (∀ (r : Ring) (n : Nat) (v : W), v.getLsbD 0 = false → r.writeCfg n v = { r.setSizes n v with en := false, bad := false }) ∧
    (∀ (r : Ring) (n : Nat) (v : W), r.setSizes n v = if r.en then r else { r with log2size := BitVec.ofNat 4 (v.toNat / 16 % 16), plog2 := if 8 ≤ n then BitVec.ofNat 5 (v.toNat / 65536 % 32) else 0 }) ∧
    (∀ (r : Ring) (n : Nat), 5 ≤ n → n ≤ 7 → r.valid n = false) ∧
    (∀ (r : Ring) (n : Nat), n < 5 → (r.valid n = true ↔ 4 ≤ r.log2size.toNat ∧ r.log2size.toNat ≤ (if n = 3 ∨ n = 4 then 8 else 12) ∧
      r.base < 0x800000000 ∧ r.base % 4096 = 0)) ∧
    (∀ (r : Ring) (n : Nat), 8 ≤ n → (r.valid n = true ↔ 4 ≤ r.log2size.toNat ∧ r.log2size.toNat ≤ 12 ∧
      r.base < 0x800000000 ∧ r.base % 4096 = 0 ∧ 16 ≤ r.plog2.toNat ∧ r.plog2.toNat ≤ 24)) ∧
    (∀ (s : State) (n : Fin 32), s.ringUp n = false → s.ringOpens n = s)

/-- R70: quiescing and resuming ring processing. -/
def Obligations.RingProcessingStopsAndResumes : Prop :=
  (∀ s : State, s.awake = true → s.host.ringEn = true →
      ∃ (u : State), u = (List.finRange 256).foldl State.cutPartial { s with host := { s.host with
          ringEn := false, held := [], hciHeld := [], outstanding := s.host.outstanding.filter fun o => decide (o.phase ≠ CmdPhase.completing) } } ∧
        exec .ringEnClear s = .next { u with host := { u.host with shadowEn := s.host.shadowEn } }) ∧
    (∀ s : State, s.awake = true → s.host.ringEn = true → (∀ c : Fin 256, s.svc.ctx[c].staged = []) →
      exec .ringEnClear s = .next { s with host := { s.host with
        ringEn := false, held := [], hciHeld := [], outstanding := s.host.outstanding.filter fun o => decide (o.phase ≠ CmdPhase.completing) } }) ∧
    (∀ (s : State) (c : Fin 256) (u : Unit1) (rest : List Unit1), s.svc.ctx[c].staged = u :: rest → u.written ≠ 0 → u.mot = none →
      s.cutPartial c = (s.modCtx c fun x => ({ x with staged := rest, dropped := x.dropped + 1 } : Ctx).markNext (u.lost + 1)).linkDrop (476 + c.val) 1) ∧
    (∀ (s : State) (c : Fin 256) (u : Unit1) (rest : List Unit1), s.svc.ctx[c].staged = u :: rest → u.written ≠ 0 → u.mot ≠ none →
      s.cutPartial c = ((s.modCtx c fun x => ({ x with staged := rest, dropped := x.dropped + 1 } : Ctx).markNext (u.lost + 1)).gpFree
        (.motOut c u.seq)).linkDrop (476 + c.val) 1) ∧
    (∀ (x : Ctx) (n : Nat), x.staged = [] → x.markNext n = { x with lost := satAdd (2 ^ 24 - 1) x.lost n, discDue := true }) ∧
    (∀ (x : Ctx) (n : Nat) (v : Unit1) (l : List Unit1), x.staged = v :: l →
      x.markNext n = { x with staged := { v with lost := satAdd (2 ^ 24 - 1) v.lost n, disc := true } :: l }) ∧
    (∀ (s : State) (c : Fin 256) (u : Unit1) (rest : List Unit1), s.svc.ctx[c].staged = u :: rest → u.written = 0 → s.cutPartial c = s) ∧
    (∀ s : State, s.awake = true → s.host.ringEn = false →
      ∃ (u : State), u = (List.finRange 32).foldl State.ringOpens { s with host := { s.host with ringEn := true, quiesced := false } } ∧
        exec .ringEnSet s = .next { u with host := { u.host with shadowEn := s.host.shadowEn } }) ∧
    (∀ s : State, s.awake = true → s.host.ringEn = false → (∀ n : Fin 32, s.host.rings[n].en = false) →
      exec .ringEnSet s = .next { s with host := { s.host with ringEn := true, quiesced := false } }) ∧
    (∀ s : State, s.awake = true → (s.host.ringEn = false → exec .ringEnClear s = .next s) ∧ (s.host.ringEn = true → exec .ringEnSet s = .next s)) ∧
    (∀ s : State, s.host.dlUp = true → s.saf.safe = false → (s.pwr.st = .idle ∨ s.pwr.st = .doze) →
      (∃ (v : _), exec .ringEnClear s = .next { s with pwr := { s.pwr with heldWrites := s.pwr.heldWrites ++ [(0x404, v)] } }) ∧
      ∃ (v : _), exec .ringEnSet s = .next { s with pwr := { s.pwr with heldWrites := s.pwr.heldWrites ++ [(0x404, v)] } }) ∧
    (∀ s : State, (s.saf.safe = true ∨ s.host.dlUp = false) → exec .ringEnClear s = .next s ∧ exec .ringEnSet s = .next s)

/-- R68 (mask, pending bit, coalescing) and the source 6 event of R60. -/
def Obligations.MessagesFollowTheMask : Prop :=
  (∀ (s : State) (v : Fin 16), (s.host.pba.getLsbD v.val = true ∧ s.host.msixEn = true ∧ s.host.funcMask = false) →
      exec (.msixUnmask (.vector v)) s = .next { s with host := { s.host with
        msix := upd s.host.msix v (fun e => { e with masked := false }), pba := s.host.pba &&& ~~~(BitVec.ofNat 16 (2 ^ v.val)), posted := .msix (s.host.msix[v].addrHi ++ s.host.msix[v].addrLo) s.host.msix[v].data :: s.host.posted, rings := s.host.rings.map fun r => if r.vecIx = v then { r with unsignalled := 0 } else r } }) ∧
    (∀ (s : State) (v : Fin 16), ¬(s.host.pba.getLsbD v.val = true ∧ s.host.msixEn = true ∧ s.host.funcMask = false) →
      exec (.msixUnmask (.vector v)) s = .next { s with host := { s.host with msix := upd s.host.msix v (fun e => { e with masked := false }) } }) ∧
    (∀ (s : State) (m : Bool), exec (.msixUnmask (.control m false)) s = .next { s with host := { s.host with msixEn := false, funcMask := m } }) ∧
    (∀ (s : State) (m : Bool), s.host.msixEn = true → exec (.msixUnmask (.control m true)) s =
      .next ((List.finRange 16).foldl State.sendPending { s with host := { s.host with funcMask := m } })) ∧
    (∀ (s : State), s.host.msixEn = true → exec .msixEnable s = exec (.msixUnmask (.control s.host.funcMask true)) s) ∧
    (∀ (s : State) (m : Bool), s.host.msixEn = false → exec (.msixUnmask (.control m true)) s = .next { s with host := { s.host with funcMask := m } }) ∧
    (∀ (s : State), s.host.msixEn = false → exec .msixEnable s =
      .next ((List.finRange 16).foldl State.sendPending
        ((List.finRange 16).foldl State.signalVector { s with host := { s.host with msixEn := true } }))) ∧
    (∀ (s : State) (v : Fin 16), s.host.pba.getLsbD v.val = true → s.host.msixEn = true → s.vecMasked v = false →
      s.sendPending v = { s with host := { s.host with
        pba := s.host.pba &&& ~~~(BitVec.ofNat 16 (2 ^ v.val)), posted := .msix (s.host.msix[v].addrHi ++ s.host.msix[v].addrLo) s.host.msix[v].data :: s.host.posted, rings := s.host.rings.map fun r => if r.vecIx = v then { r with unsignalled := 0 } else r } }) ∧
    (∀ (s : State) (v : Fin 16), (s.host.pba.getLsbD v.val = false ∨ s.vecMasked v = true) → s.sendPending v = s) ∧
    (∀ (s : State) (v : Fin 16), (∃ n : Fin 32, s.host.rings[n].vecIx = v ∧ s.host.rings[n].irqEn = true ∧ s.host.rings[n].unsignalled ≠ 0) →
      s.vecMasked v = false → s.signalVector v = { s with host := { s.host with
        pba := s.host.pba &&& ~~~(BitVec.ofNat 16 (2 ^ v.val)), posted := .msix (s.host.msix[v].addrHi ++ s.host.msix[v].addrLo) s.host.msix[v].data :: s.host.posted, rings := s.host.rings.map fun r => if r.vecIx = v then { r with unsignalled := 0 } else r } }) ∧
    (∀ (s : State) (v : Fin 16), (∃ n : Fin 32, s.host.rings[n].vecIx = v ∧ s.host.rings[n].irqEn = true ∧ s.host.rings[n].unsignalled ≠ 0) →
      s.vecMasked v = true → s.signalVector v = { s with host := { s.host with
        pba := s.host.pba ||| BitVec.ofNat 16 (2 ^ v.val), rings := s.host.rings.map fun r => if r.vecIx = v then { r with unsignalled := 0 } else r } }) ∧
    (∀ (s : State) (v : Fin 16), (∀ n : Fin 32, s.host.rings[n].vecIx = v → s.host.rings[n].irqEn = false ∨ s.host.rings[n].unsignalled = 0) →
      s.signalVector v = s) ∧
    (∀ (s : State) (n : Fin 32), s.host.rings[n].coalUs ≠ 0 → s.host.msixEn = true → s.host.rings[n].irqEn = true →
      s.host.rings[n].unsignalled ≠ 0 → s.vecMasked s.host.rings[n].vecIx = false →
      exec (.msixCoalTimer n) s = .next ((s.post (.msix (s.host.msix[s.host.rings[n].vecIx].addrHi ++ s.host.msix[s.host.rings[n].vecIx].addrLo)
        s.host.msix[s.host.rings[n].vecIx].data)).modRing n fun r => { r with unsignalled := 0 })) ∧
    (∀ (s : State) (n : Fin 32), s.host.rings[n].coalUs ≠ 0 → s.host.msixEn = true → s.host.rings[n].irqEn = true →
      s.host.rings[n].unsignalled ≠ 0 → s.vecMasked s.host.rings[n].vecIx = true →
      exec (.msixCoalTimer n) s = .next { s with host := { s.host with pba := s.host.pba ||| BitVec.ofNat 16 (2 ^ s.host.rings[n].vecIx.val) } }) ∧
    (∀ (s : State) (n : Fin 32), (s.host.rings[n].coalUs = 0 ∨ s.host.msixEn = false ∨ s.host.rings[n].irqEn = false ∨ s.host.rings[n].unsignalled = 0) →
      exec (.msixCoalTimer n) s = .next s) ∧
    (∀ (s : State) (n : Fin 32), s.ringBlocked n = true → s.host.fullReported.getLsbD n.val = false →
      exec (.dataRingFull n) s = .next (({ s with host := { s.host with
        fullReported := s.host.fullReported ||| BitVec.ofNat 32 (2 ^ n.val) } }).raise 6 0 [byte n.val])) ∧
    (∀ (s : State) (n : Fin 32), (s.ringBlocked n = false ∨ s.host.fullReported.getLsbD n.val = true) → exec (.dataRingFull n) s = .next s)

/-- R524 by what was being accessed. -/
def Obligations.HostMemoryErrorsAreReported : Prop :=
  (∀ (s : State) (slot : BitVec 16) (id : Nat) (a : D), s.host.outstanding.length < 32 → s.covers 0 slot.toNat = true →
      exec (.hostBusError (.ring0Read slot id) a) s =
      .next (((s.slotRead 0).raise 3 0 (List.replicate 8 0 ++ leBytes 8 a.toNat)).complete 0 (unreadEntry slot id)
        { tag := 0, opcode := 0, status := .fault, bufWritten := false, slot := slot, detail := 0, resultLen := 0, result := List.replicate 16 0 })) ∧
    (∀ (s : State) (slot : BitVec 16) (id : Nat) (a : D), (32 ≤ s.host.outstanding.length ∨ s.covers 0 slot.toNat = false) →
      exec (.hostBusError (.ring0Read slot id) a) s = .next s) ∧
    (∀ (s : State) (slot : BitVec 16) (a : D), s.covers 3 slot.toNat = true → exec (.hostBusError (.ring3Read slot) a) s =
      .next (((s.slotRead 3).raise 3 0 (3 :: List.replicate 7 0 ++ leBytes 8 a.toNat)).hciOut 4 [0x0E, 4, 4, 0, 0, 0x12])) ∧
    (∀ (s : State) (slot : BitVec 16) (a : D), s.covers 3 slot.toNat = false → exec (.hostBusError (.ring3Read slot) a) s = .next s) ∧
    (∀ (s : State) (o : OutCmd) (a : D), s.host.outstanding = [o] → o.entry.bufIn = true → (o.phase = .held ∨ o.phase = .dispatched) →
      exec (.hostBusError (.bufIn o.entry.id) a) s =
        .next (((s.dropCmd o.opcode.toNat o.entry.id).raise 3 0 (0xFF :: 0 :: leBytes 2 o.entry.slot.toNat ++ List.replicate 4 0 ++ leBytes 8 a.toNat)).complete
          o.opcode.toNat o.entry (mkCompletion o.opcode.toNat o.entry .fault 0 [] 0))) ∧
    (∀ (s : State) (id : Nat) (a : D), (∀ o ∈ s.host.outstanding, o.entry.id ≠ id) →
      exec (.hostBusError (.bufIn id) a) s = .next s ∧ exec (.hostBusError (.bufOut id) a) s = .next s) ∧
    (∀ (s : State) (o : OutCmd) (a : D), s.host.outstanding = [o] → o.entry.bufOut = true → o.phase ≠ .completing →
      exec (.hostBusError (.bufOut o.entry.id) a) s =
        .next { s with host := { s.host with outstanding := [{ o with entry := { o.entry with bufErr := true } }] } }) ∧
    (∀ (s : State) (op : Nat) (c : CmdEntry) (st : Status) (d : Nat) (result out : List Byte), c.slot ≠ hciSlot → c.bufErr = true →
      s.finish op c st d result (some out) =
        (s.raise 3 0 (0xFF :: 0 :: leBytes 2 c.slot.toNat ++ List.replicate 4 0 ++ leBytes 8 c.bufAddr.toNat)).complete op c
          (mkCompletion op c .fault 0 result 0)) ∧
    (∀ (s : State) (n : Fin 32) (a : D), exec (.hostBusError (.devRing n) a) s = .next (s.raise 3 0 (byte n.val :: List.replicate 7 0 ++ leBytes 8 a.toNat))) ∧
    (∀ (s : State) (n : Fin 16) (a : D), exec (.hostBusError (.dma n) a) s = .next (s.raise 3 0 (byte (0x80 + n.val) :: List.replicate 7 0 ++ leBytes 8 a.toNat))) ∧
    (∀ (s : State) (a : D), exec (.hostBusError .source3Entry a) s = .next s) ∧
    (∀ (s : State) (n : Fin 32), (s.slotRead n).host.rings[n].cons = (s.host.rings[n].cons + 1) % s.host.rings[n].size ∧
      (s.slotRead n).host.outstanding = s.host.outstanding)

/-- R71, R60, R482 and R484: the PCIe link. -/
def Obligations.LinkDownAndUp : Prop :=
  (∀ s : State, ∃ (t : _), exec .linkDown s = .next t ∧ t.host.dlUp = false ∧ t.host.speed = 0 ∧ t.host.ringEn = false ∧ t.host.shadowEn = false ∧
      (∀ n : Fin 32, t.host.rings[n] = { s.host.rings[n] with en := false }) ∧ t.host.outstanding = (if s.host.ringEn then s.host.outstanding.filter fun o => decide (o.phase ≠ CmdPhase.completing) else s.host.outstanding) ∧
      (s.host.ringEn = true → t.host.held = []) ∧ t.evt = s.evt ∧ t = { s with host := t.host, svc := t.svc, dma := t.dma, tlm := t.tlm }) ∧
    (∀ s : State, (∀ c : Fin 256, s.svc.ctx[c].staged = []) → ∃ (t : _), exec .linkDown s = .next t ∧ t = { s with host := t.host }) ∧
    (∀ s : State, ∃ (t : _), exec .perstAssert s = .next t ∧ t.host.perstHigh = false ∧ t.host.dlUp = false ∧ t.host.ringEn = false ∧
      t.host.shadowEn = false ∧ (∀ n : Fin 32, t.host.rings[n].en = false) ∧ t.host.msixEn = false ∧ t.host.funcMask = false ∧ t.host.pba = 0 ∧
      t = { s with host := t.host, svc := t.svc, dma := t.dma, tlm := t.tlm }) ∧
    (∀ s : State, exec .perstRelease s = .next { s with host := { s.host with perstHigh := true } }) ∧
    (∀ (s : State) (sp : BitVec 4), s.host.perstHigh = true → s.linkPowered = true → s.host.dlUp = false →
      exec (.linkUp sp) s = .next { s with host := { s.host with dlUp := true, speed := sp } }) ∧
    (∀ (s : State) (sp : BitVec 4), (s.host.perstHigh = false ∨ s.linkPowered = false ∨ s.host.dlUp = true) → exec (.linkUp sp) s = .next s) ∧
    (∀ (s : State) (sp : BitVec 4), s.host.dlUp = true → sp ≠ s.host.speed →
      exec (.linkRetrain sp) s = .next (({ s with host := { s.host with speed := sp } }).raise 5 0 [byte sp.toNat])) ∧
    (∀ (s : State) (sp : BitVec 4), (sp = s.host.speed ∨ s.host.dlUp = false) → exec (.linkRetrain sp) s = .next s)

/-- R48, R491, R492, R496, R501: what a BAR0 write does. -/
def Obligations.RegisterWritesFollowTheirAccess : Prop :=
  (∀ (s : State) (off : BitVec 16) (v : D) (m : Bool), off.toNat % 8 = 0 →
      exec (.regWrite off 8 v m) s = .next ((s.regWrite32 off.toNat (v.setWidth 32) m).regWrite32 (off.toNat + 4) ((v >>> 32).setWidth 32) m)) ∧
    (∀ (s : State) (off : BitVec 16) (size : Nat) (v : D) (m : Bool), (size ≠ 4 ∨ off.toNat % 4 ≠ 0) → (size ≠ 8 ∨ off.toNat % 8 ≠ 0) →
      (m = true ∨ s.host.dlUp = true) →
      exec (.regWrite off size v m) s = .next (({ s with flags := upd s.flags 0 fun w => w ||| 1 }).bump 0x4000 1)) ∧
    (∀ (s : State) (v : D), s.awake = true →
      exec (.regWrite 0x410 4 v false) s = .next (if s.host.shadowEn then s else
        { s with host := { s.host with shadowLo := v.setWidth 32 &&& 0xFFFFFF80 } }) ∧
      exec (.regWrite 0x414 4 v false) s = .next (if s.host.shadowEn then s else { s with host := { s.host with shadowHi := v.setWidth 32 } })) ∧
    (∀ (s : State) (n : Fin 32) (v : D), s.awake = true →
      exec (.regWrite (BitVec.ofNat 16 (0x500 + 16 * n.val)) 4 v false) s = .next (if s.host.rings[n].en then s else
        s.modRing n fun r => { r with baseLo := v.setWidth 32 &&& 0xFFFFF000 }) ∧
      exec (.regWrite (BitVec.ofNat 16 (0x504 + 16 * n.val)) 4 v false) s = .next (if s.host.rings[n].en then s else
        s.modRing n fun r => { r with baseHi := v.setWidth 32 })) ∧
    (∀ (s : State) (n : Fin 32) (v : D), s.awake = true → 8 ≤ n.val →
      exec (.regWrite (BitVec.ofNat 16 (0x420 + 8 * (n.val - 8))) 4 v false) s = .next (if s.host.rings[n].en then s else
        s.modRing n fun r => { r with pbufLo := v.setWidth 32 &&& 0xFFFFF000 }) ∧
      exec (.regWrite (BitVec.ofNat 16 (0x424 + 8 * (n.val - 8))) 4 v false) s = .next (if s.host.rings[n].en then s else
        s.modRing n fun r => { r with pbufHi := v.setWidth 32 })) ∧
    (∀ (s : State) (v : D), s.awake = true →
      exec (.regWrite 0x800 4 v false) s = .next { s with evt := { s.evt with mask := upd s.evt.mask 0 fun _ => v.setWidth 32 &&& 0xFFFF00EC } }) ∧
    (∀ (s : State) (off : BitVec 16) (v : D), s.awake = true →
      (off = 0x000 ∨ off = 0x004 ∨ off = 0x008 ∨ off = 0x400 ∨ off = 0x408 ∨ off = 0x40C ∨ off = 0x80C ∨ off = 0x1000 ∨ off = 0x1008) →
      exec (.regWrite off 4 v false) s = .next s) ∧
    (∀ (s : State) (v : D), s.saf.safe = false → exec (.regWrite 0x1008 4 v true) s =
      .next { s with pwr := { s.pwr with armed := v.getLsbD 3, modeTarget := BitVec.ofNat 3 (v.toNat % 8) } }) ∧
    (∀ (s : State) (off : BitVec 16) (v : D), s.host.dlUp = true → s.saf.safe = false → (s.pwr.st = .idle ∨ s.pwr.st = .doze) → off.toNat % 4 = 0 →
      exec (.regWrite off 4 v false) s = .next { s with pwr := { s.pwr with heldWrites := s.pwr.heldWrites ++ [(off, v.setWidth 32)] } }) ∧
    (∀ (s : State) (off : BitVec 16) (v : D) (m : Bool), s.saf.safe = true → off ≠ 0x3808 → off ≠ 0x3818 → off.toNat % 4 = 0 →
      exec (.regWrite off 4 v m) s = .next s) ∧
    (∀ (s : State) (off : BitVec 16) (v : D), s.host.dlUp = false → off.toNat % 4 = 0 → exec (.regWrite off 4 v false) s = .next s)

/-- R495 to R500, R323, R373, R476, R478: register accesses that are events of their own. -/
def Obligations.RegisterEventsTakeEffect : Prop :=
  (∀ (s : State) (k : Fin 83) (m h : W), s.awake = true → exec (.flagClear k m h) s =
      .next (({ s with flags := upd s.flags k fun w => w &&& ~~~m }).setFlagBits k h)) ∧
    (∀ (s : State) (k : Fin 83) (h : W) (b : Fin 32), (s.setFlagBits k h).flags[k].getLsbD b.val =
      (s.flags[k].getLsbD b.val || (h.getLsbD b.val && (flagBits k).getLsbD b.val))) ∧
    (∀ (s : State) (k : Fin 83) (b : Fin 32), s.setFlag k b.val =
      ({ s with flags := upd s.flags k fun w => w ||| BitVec.ofNat 32 (2 ^ b.val) }).bump (0x4000 + 128 * k.val + 4 * b.val) 1) ∧
    (∀ s : State, s.host.dlUp = true → exec .timeLoRead s = .next { s with sys := { s.sys with
      readData := s.sys.timeUs.setWidth 32, timeHi := (s.sys.timeUs >>> 32).setWidth 32 } }) ∧
    (∀ s : State, s.host.dlUp = true → s.sys.rtcSet = true → exec .rtcLoRead s = .next { s with sys := { s.sys with
      readData := s.sys.rtcSec.setWidth 32, rtcHi := BitVec.ofNat 32 (s.sys.rtcSec.toNat / 2 ^ 32) } }) ∧
    (∀ s : State, s.host.dlUp = true → s.sys.rtcSet = false → exec .rtcLoRead s = .next { s with sys := { s.sys with readData := 0, rtcHi := 0 } }) ∧
    (∀ (s : State) (v : W), s.awake = true → exec (.dmaDoorbell v) s = .next (s.dmaDoorbells v)) ∧
    (∀ s : State, s.dmaDoorbells 0 = s) ∧
    (∀ (s : State) (n : Fin 16), s.dma.ch[n].st = .running → s.dmaDoorbells (BitVec.ofNat 32 (2 ^ n.val)) = s.modCh n fun x => { x with rung := true }) ∧
    (∀ (s : State) (ch : Fin 81) (v : W), s.awake = true → exec (.synthRefWrite ch v) s =
      .next (s.modSynth ch fun e => { e with ref := BitVec.ofNat 2 (v.toNat % 4), st := 0, born := none })) ∧
    (∀ (s : State) (v : W), s.awake = true → s.saf.lock = false → (v.getLsbD 0 = false ∨ s.saf.enable = true) → exec (.safLock v) s =
      .next { s with saf := { s.saf with lock := v.getLsbD 31, action := v.getLsbD 1, enable := v.getLsbD 0 } }) ∧
    (∀ (s : State) (v : W), s.awake = true → s.saf.lock = false → v.getLsbD 0 = true → s.saf.enable = false → exec (.safLock v) s =
      .next { s with saf := { s.saf with lock := v.getLsbD 31, action := v.getLsbD 1, enable := true, lastKick := Vector.replicate 2 s.sys.timeUs } }) ∧
    (∀ (s : State) (v : W), s.awake = true → s.saf.lock = true → exec (.safLock v) s = .next s) ∧
    (∀ (s : State) (v : W), s.awake = true → s.saf.lock = false → 1 ≤ v.toNat % 256 → v.toNat % 256 ≤ 24 →
      exec (.safInject v) s = .next (s.fault (v.toNat % 256) 0 true)) ∧
    (∀ (s : State) (v : W), s.awake = true → (s.saf.lock = true ∨ v.toNat % 256 = 0 ∨ 25 ≤ v.toNat % 256) → exec (.safInject v) s = .next s) ∧
    (∀ s : State, s.host.dlUp = true → s.saf.safe = true → ∃ (t : _), exec (.safReset 0x5AFE) s = .next t ∧ t.sys.resetCode = 3 ∧ t.saf.safe = false ∧
      t.host.ready = false ∧ t.win = {} ∧ t.svc = {} ∧ t.dma = {} ∧ t.saf.log = s.saf.log ∧ t.saf.lock = s.saf.lock ∧ t.sys.timeUs = s.sys.timeUs) ∧
    (∀ (s : State) (v : W), (s.saf.safe = true ∧ v ≠ 0x5AFE) ∨ s.awake = true → exec (.safReset v) s = .next s)

/-- R410, R411, R416, R418, R428: the power commands. -/
def Obligations.PowerCommandsComplete : Prop :=
  (∀ (s : State) (c : CmdEntry) (t : _), s.takes 0x0801 c = true → s.pwr.trans = none → s.pwr.undone = none → s.pwr.st = .run → c.bytes 24 4 = [byte t, 0, 0, 0] → t < 4 →
      s.levelFor (BitVec.ofNat 2 t) = s.pwr.level →
      exec (.pwrLevel c) s = .next (({ s.taken 0x0801 c with pwr := { s.pwr with target := BitVec.ofNat 2 t } }).completesOk 0x0801 c
        [byte s.pwr.level.toNat, byte (b01 s.pwr.capped)] none)) ∧
    (∀ (s : State) (c : CmdEntry) (t : _), s.takes 0x0801 c = true → s.pwr.trans = none → s.pwr.undone = none → s.pwr.st = .run → c.bytes 24 4 = [byte t, 0, 0, 0] → t < 4 →
      (s.levelFor (BitVec.ofNat 2 t)).toNat < s.pwr.level.toNat → (s.taken 0x0801 c).levelRefuser (s.levelFor (BitVec.ofNat 2 t)) = none →
      ∃ (u : State), exec (.pwrLevel c) s = .next u ∧ u.pwr = { s.pwr with
          target := BitVec.ofNat 2 t, level := s.levelFor (BitVec.ofNat 2 t), trans := some (.level (BitVec.ofNat 2 t) false (some c.id)), pmicWait := some (levelMv (s.levelFor (BitVec.ofNat 2 t))), pmicAt := s.sys.timeUs, pmicStop := false } ∧
        u = { s with host := u.host, evt := u.evt, pwr := u.pwr, tw := u.tw }) ∧
    (∀ (s : State) (c : CmdEntry) (t : _), s.takes 0x0801 c = true → s.pwr.trans = none → s.pwr.undone = none → s.pwr.st = .run → c.bytes 24 4 = [byte t, 0, 0, 0] → t < 4 →
      s.pwr.level.toNat < (s.levelFor (BitVec.ofNat 2 t)).toNat →
      ∃ (u : State), exec (.pwrLevel c) s = .next u ∧ u.pwr = { s.pwr with
          targetBefore := s.pwr.target, target := BitVec.ofNat 2 t, trans := some (.level (BitVec.ofNat 2 t) true (some c.id)), pmicWait := some (levelMv (s.levelFor (BitVec.ofNat 2 t))), pmicAt := s.sys.timeUs, pmicStop := false } ∧
        u = { s with host := u.host, pwr := u.pwr, tw := u.tw }) ∧
    (∀ (s : State) (c : CmdEntry) (t : _) (k : _) (i : _), s.takes 0x0801 c = true → s.pwr.trans = none → s.pwr.undone = none → s.pwr.st = .run → c.bytes 24 4 = [byte t, 0, 0, 0] → t < 4 →
      (s.levelFor (BitVec.ofNat 2 t)).toNat < s.pwr.level.toNat → (s.taken 0x0801 c).levelRefuser (s.levelFor (BitVec.ofNat 2 t)) = some (k, i) →
      exec (.pwrLevel c) s = .next ((s.taken 0x0801 c).finish 0x0801 c .busy (256 * k + i) [] none)) ∧
    (∀ (s : State) (c : CmdEntry), s.takes 0x0801 c = true → 3 < c.u8 24 → exec (.pwrLevel c) s = .next ((s.taken 0x0801 c).finish 0x0801 c .range 24 [] none)) ∧
    (∀ (s : State) (c : CmdEntry) (t : _), s.takes 0x0802 c = true → s.pwr.trans = none → s.pwr.undone = none → s.pwr.st = .run → c.bytes 24 4 = [byte t, 0, 0, 0] → 1 ≤ t → t ≤ 5 →
      (s.taken 0x0802 c).sleepRefuser (BitVec.ofNat 3 t) (some c.id) = none →
      ∃ (u : State), exec (.pwrSleep c) s = .next u ∧ u.pwr = { s.pwr with armed := true, modeTarget := BitVec.ofNat 3 t, levelBefore := s.pwr.level, entryAt := s.sys.timeUs, trans := some (.entry (BitVec.ofNat 3 t) (some c.id) 0) } ∧ (∀ n : Fin 16, u.dma.ch[n] = { s.dma.ch[n] with held := true }) ∧
        u = { s with host := u.host, pwr := u.pwr, dma := u.dma }) ∧
    (∀ (s : State) (c : CmdEntry) (t : _) (k : _) (i : _), s.takes 0x0802 c = true → s.pwr.trans = none → s.pwr.undone = none → s.pwr.st = .run → c.bytes 24 4 = [byte t, 0, 0, 0] → 1 ≤ t → t ≤ 5 →
      (s.taken 0x0802 c).sleepRefuser (BitVec.ofNat 3 t) (some c.id) = some (k, i) →
      ∃ (u : State), exec (.pwrSleep c) s = .next (u.finish 0x0802 c .busy (256 * k + i) [] none) ∧ u.pwr = { s.pwr with
          refState := BitVec.ofNat 3 t, refKind := byte k, refInst := byte i, armed := false, modeTarget := 0 } ∧
        u = { s with host := u.host, evt := u.evt, pwr := u.pwr, flags := u.flags, tlm := u.tlm }) ∧
    (∀ (s : State) (c : CmdEntry), s.takes 0x0803 c = true → s.pwr.st = .run → c.bytes 24 4 = [1, byte (c.u8 25), 0, 0] → c.u8 25 ≤ 1 → c.u32 28 ≠ 0 →
      exec (.pwrAlarm c) s = .next (({ s.taken 0x0803 c with pwr := { s.pwr with
        alarm := some { hostwake := decide (c.u8 25 = 1), delay := BitVec.ofNat 32 (c.u32 28) } } }).completesOk 0x0803 c [] none)) ∧
    (∀ (s : State) (c : CmdEntry), s.takes 0x0803 c = true → s.pwr.st = .run → c.bytes 24 4 = [0, 0, 0, 0] →
      exec (.pwrAlarm c) s = .next (({ s.taken 0x0803 c with pwr := { s.pwr with alarm := none } }).completesOk 0x0803 c [] none)) ∧
    (∀ (s : State) (c : CmdEntry), s.takes 0x0804 c = true → exec (.pwrStatus c) s = .next ((s.taken 0x0804 c).completesOk 0x0804 c
      ([byte s.pwrState, byte s.pwr.level.toNat, byte s.pwr.target.toNat, s.pwr.wakeCode, s.pwr.tj, s.pwr.refKind, s.pwr.refInst, 0] ++
        leBytes 4 (Tlm.get s.tlm 0xBA00).toNat ++ leBytes 4 (Tlm.get s.tlm 0xBA04).toNat) none))

/-- R411 to R413: the order of divider and voltage, the PMIC's answers, the thermal governor. -/
def Obligations.LevelChangesFollowThePmic : Prop :=
  (∀ (s : State) (mv : Nat) (r : _) (t : BitVec 2) (slot : Option Nat), s.pwr.pmicWait = some mv → mv ≠ 0 → s.tw.voltDue = none → s.voltSent = true → s.pwr.st = .run → s.pwr.pending = none →
      s.pwr.trans = some (.level t true slot) → s.pwr.target = t → s.pwr.capDue = false →
      ∃ (u : State), exec (.pmicPoll (.status true r true)) s = .next u ∧ u.pwr = { s.pwr with
          pmicWait := none, voltUnconf := false, level := s.levelFor t, trans := none } ∧
        u = { s with host := u.host, evt := u.evt, pwr := u.pwr, tlm := u.tlm }) ∧
    (∀ (s : State) (mv : Nat) (r : _) (t : BitVec 2) (slot : Option Nat), s.pwr.pmicWait = some mv → mv ≠ 0 → s.tw.voltDue = none → s.voltSent = true → s.pwr.st = .run → s.pwr.pending = none →
      s.pwr.trans = some (.level t false slot) → s.pwr.target = t → s.levelFor t = s.pwr.level → s.pwr.capDue = false →
      ∃ (u : State), exec (.pmicPoll (.status true r true)) s = .next u ∧ u.pwr = { s.pwr with pmicWait := none, voltUnconf := false, trans := none } ∧
        u = { s with host := u.host, evt := u.evt, pwr := u.pwr, tlm := u.tlm }) ∧
    (∀ (s : State) (mv : Nat) (core : _) (r : _) (mon : _), s.pwr.pmicWait = some mv → mv ≠ 0 → s.tw.voltDue = none → s.voltSent = true → (core && mon) = false →
      exec (.pmicPoll (.status core r mon)) s = .next (s.bump 0xB920 1)) ∧
    (∀ (s : State) (a : _), s.pwr.pmicWait = none → exec (.pmicPoll a) s = .next s) ∧
    (∀ (s : State) (mv : Nat) (t : BitVec 2) (slot : Option Nat), s.pwr.pmicWait = some mv → 2000 ≤ (s.sys.timeUs - s.pwr.pmicAt).toNat → s.pwr.trans = some (.level t true slot) → s.pwr.capDue = false →
      ∃ (u : State), exec .pmicTimeout s = .next u ∧ u.pwr = { s.pwr with pmicWait := none, target := s.pwr.targetBefore, trans := none } ∧
        u.flag slotPwr 3 = true ∧ u = { s with host := u.host, evt := u.evt, pwr := u.pwr, tlm := u.tlm, flags := u.flags, tw := u.tw }) ∧
    (∀ (s : State) (mv : Nat) (t : BitVec 2) (slot : Option Nat), s.pwr.pmicWait = some mv → 2000 ≤ (s.sys.timeUs - s.pwr.pmicAt).toNat → s.pwr.trans = some (.level t false slot) → s.pwr.capDue = false →
      ∃ (u : State), exec .pmicTimeout s = .next u ∧ u.pwr = { s.pwr with pmicWait := none, voltUnconf := true, trans := none } ∧
        u.flag slotPwr 3 = true ∧ u = { s with host := u.host, evt := u.evt, pwr := u.pwr, tlm := u.tlm, flags := u.flags, tw := u.tw }) ∧
    (∀ (s : State), (s.pwr.pmicWait = none ∨ (s.sys.timeUs - s.pwr.pmicAt).toNat < 2000) → exec .pmicTimeout s = .next s) ∧
    (∀ (s : State), s.pwr.capped = false → s.lasted s.pwr.hotSince 100000 = true → s.pwr.trans = none → s.pwr.level ≠ 3 → exec .governorCap s =
      .next ((({ s with pwr := { s.pwr with capped := true, capDue := false } }).setFlag slotPwr 4).raise 88 2
        [byte s.pwr.level.toNat, byte s.pwr.level.toNat, byte s.pwr.target.toNat, s.pwr.tj])) ∧
    (∀ (s : State), s.pwr.capped = false → s.lasted s.pwr.hotSince 100000 = true → s.pwr.trans = none → s.pwr.level = 3 → s.pwr.target = 3 → s.hrRunning.length ≤ 2 →
      ∃ (u : State), exec .governorCap s = .next u ∧ u.pwr = { s.pwr with
          capped := true, capDue := false, level := 2, trans := some (.level 3 false none), pmicWait := some 800, pmicAt := s.sys.timeUs, pmicStop := false } ∧
        u.flag slotPwr 4 = true ∧ u = { s with host := u.host, evt := u.evt, pwr := u.pwr, tlm := u.tlm, flags := u.flags, tw := u.tw }) ∧
    (∀ (s : State) (x : _), s.pwr.capped = false → s.lasted s.pwr.hotSince 100000 = true → s.pwr.trans = some x → exec .governorCap s = .next { s with pwr := { s.pwr with capDue := true } }) ∧
    (∀ (s : State), (s.pwr.capped = true ∨ s.lasted s.pwr.hotSince 100000 = false) → exec .governorCap s = .next s) ∧
    (∀ (s : State), s.lasted s.pwr.coolSince 10000000 = true → s.pwr.capped = true → s.pwr.trans = none → s.pwr.st = .run → s.pwr.level = s.pwr.target → exec .governorRelease s =
      .next (({ s with pwr := { s.pwr with capped := false } }).raise 88 3
        [byte s.pwr.level.toNat, byte s.pwr.level.toNat, byte s.pwr.target.toNat, s.pwr.tj])) ∧
    (∀ (s : State), s.lasted s.pwr.coolSince 10000000 = true → s.pwr.capped = true → s.pwr.trans = none → s.pwr.st = .run → s.pwr.level = 2 → s.pwr.target = 3 →
      ∃ (u : State), exec .governorRelease s = .next u ∧ u.pwr = { s.pwr with
          capped := false, targetBefore := 3, trans := some (.level 3 true none), pmicWait := some 880, pmicAt := s.sys.timeUs, pmicStop := false } ∧
        u = { s with host := u.host, evt := u.evt, pwr := u.pwr, tw := u.tw }) ∧
    (∀ (s : State), s.lasted s.pwr.coolSince 10000000 = true → s.pwr.capped = false → exec .governorRelease s = .next { s with pwr := { s.pwr with capDue := false } }) ∧
    (∀ (s : State), s.lasted s.pwr.coolSince 10000000 = false → exec .governorRelease s = .next s) ∧
    (∀ (s : State) (since : Option D) (us : Nat), s.lasted since us = true ↔ ∃ (a : _), since = some a ∧ us ≤ (s.sys.timeUs - a).toNat)

/-- R417 to R428: waking, waiting targets, and wake steps that are not ready. -/
def Obligations.WakesAndPendingTargets : Prop :=
  (∀ (s : State) (code : _), (s.pwr.st = .idle ∨ s.pwr.st = .doze) → s.saf.safe = false → wakes s.pwr.st code.toNat = true → s.pwr.heldWrites = [] →
      s.dma = {} → s.pwr.trans = none → s.pwr.capDue = false → s.levelFor s.pwr.target = s.pwr.level →
      ∃ (u : State), exec (.wake code) s = .next u ∧ u.pwr = { s.pwr with
          st := .run, sleepSlot := none, wakeFrom := byte s.pwr.st.code, wakeCode := byte code.toNat } ∧
        u = { s with host := u.host, evt := u.evt, pwr := u.pwr, dma := u.dma }) ∧
    (∀ (s : State) (code : _), s.pwr.st = .watch → s.saf.safe = false → wakes .watch code.toNat = true → s.pwr.waking = none → s.pwr.pmicWait = none →
      ∃ (u : State), exec (.wake code) s = .next u ∧ u.pwr = { s.pwr with waking := some (byte code.toNat), heldWake := none, stayRun := s.pwr.stayRun || s.wakeStays code.toNat, pmicWait := some 750, pmicAt := s.sys.timeUs, pmicStop := false } ∧ u.clk = { s.clk with pllOn := true, good := 0 } ∧
        u = { s with pwr := u.pwr, clk := u.clk, tw := u.tw }) ∧
    (∀ (s : State) (code : _), s.pwr.st = .stow → s.saf.safe = false → wakes .stow code.toNat = true → s.pwr.waking = none →
      exec (.wake code) s = .next { s with pwr := { s.pwr with pwrEn := true, waking := some (byte code.toNat), badStep := none } }) ∧
    (∀ (s : State) (code : _), (s.saf.safe = true ∨ s.pwr.st = .limp) → exec (.wake code) s = .next s) ∧
    (∀ (s : State) (code : _), s.pwr.st ≠ .run → wakes s.pwr.st code.toNat = false → exec (.wake code) s = .next s) ∧
    (∀ (s : State) (k : _) (lv : _), s.pwr.vbatOk = true → s.pwr.st = .run → s.host.ready = true → s.pwr.wakeCfg[k].getLsbD 0 = false → s.pwr.wakeLevel.getLsbD k.val ≠ lv →
      ∃ (p : _), exec (.wakePin k lv) s = .next (({ s with pwr := { s.pwr with wakeLevel := p } }).raise 7 0 [byte k.val, byte (b01 lv)]) ∧
        p.getLsbD k.val = lv ∧ ∀ j : Fin 4, j ≠ k → p.getLsbD j.val = s.pwr.wakeLevel.getLsbD j.val) ∧
    (∀ (s : State) (k : _) (lv : _), s.pwr.vbatOk = false → exec (.wakePin k lv) s = .next s) ∧
    (∀ (s : State), s.pwr.alarm = none → exec .rtcAlarm s = .next s) ∧
    (∀ (s : State) (a : _), s.pwr.alarm = some a → s.pwr.st = .run → s.pwr.trans = none → exec .rtcAlarm s = .next { s with pwr := { s.pwr with alarm := none } }) ∧
    (∀ (s : State), exec .accessTimerWake s = exec (.wake 9) s) ∧
    (∀ (s : State) (t : _), s.pwr.st = .run → 1 ≤ t.toNat → t.toNat ≤ 5 → s.saf.safe = false → s.pwr.trans = none → s.pwr.undone = none → s.sleepRefuser t none = none →
      ∃ (u : State), exec (.stewardSleepRequest t) s = .next u ∧ u.pwr = { s.pwr with armed := true, modeTarget := t, levelBefore := s.pwr.level, entryAt := s.sys.timeUs, trans := some (.entry t none 0) } ∧ (∀ n : Fin 16, u.dma.ch[n] = { s.dma.ch[n] with held := true }) ∧ u = { s with pwr := u.pwr, dma := u.dma }) ∧
    (∀ (s : State) (t : _) (slot : _), s.pwr.st = .run → s.pwr.trans = none → s.pwr.pending = some (.sleep t slot) → s.sleepRefuser t slot = none →
      ∃ (u : State), exec .pwrPendingStart s = .next u ∧ u.pwr = { s.pwr with pending := none, armed := true, modeTarget := t, levelBefore := s.pwr.level, entryAt := s.sys.timeUs, trans := some (.entry t slot 0) } ∧ u = { s with pwr := u.pwr, dma := u.dma }) ∧
    (∀ (s : State), (s.pwr.trans.isSome = true ∨ s.pwr.pending = none) → exec .pwrPendingStart s = .next s) ∧
    (∀ (s : State) (t : _) (slot : _), s.pwr.trans = some (.entry t slot 0) → 50 ≤ (s.sys.timeUs - s.pwr.entryAt).toNat → s.dma.ch[5].inFlight = true → (∀ n : Fin 16, n.val < 5 → s.dma.ch[n].inFlight = false) →
      ∃ (u : State), exec .dmaDrainTimeout s = .next u ∧ u.pwr.trans = none ∧ u.pwr.level = s.pwr.levelBefore ∧ u.pwr.refState = t ∧ u.pwr.refKind = 1 ∧
        u.pwr.refInst = 5 ∧ u.pwr.st = s.pwr.st ∧ u.flag slotPwr 0 = true) ∧
    (∀ (s : State), (s.pwr.trans = none ∨ (s.sys.timeUs - s.pwr.entryAt).toNat < 50) → exec .dmaDrainTimeout s = .next s) ∧
    (∀ (s : State), s.clk.refOn = true → s.clk.refOk = false → s.pwr.badStep = none →
      exec (.wakeStepTimeout .reference) s = .next (({ s with pwr := { s.pwr with badStep := some (.reference, 0), badAt := s.sys.timeUs } }).faultRun 24 4 false)) ∧
    (∀ (s : State) (r : _), s.waitsFor r = false → exec (.wakeStepTimeout r) s = .next s) ∧
    (∀ (s : State) (r : _) (n : _), s.pwr.badStep = some (r, n) → 5000 ≤ (s.sys.timeUs - s.pwr.badAt).toNat → n < 2 →
      exec (.wakeStepRepeat false) s = .next { s with pwr := { s.pwr with badStep := some (r, n + 1), badAt := s.sys.timeUs } }) ∧
    (∀ (s : State), s.pwr.badStep = some (.vddCore, 2) → 5000 ≤ (s.sys.timeUs - s.pwr.badAt).toNat → ∃ (u : State), exec (.wakeStepRepeat false) s = .next u ∧ u.pwr = { s.pwr with badStep := none, st := .hvHold } ∧
      u.saf = { s.saf with hvFault := true } ∧ u.flag slotPwr 5 = true ∧ u = { s with pwr := u.pwr, saf := u.saf, flags := u.flags, tlm := u.tlm }) ∧
    (∀ (s : State), s.pwr.badStep = some (.reference, 2) → 5000 ≤ (s.sys.timeUs - s.pwr.badAt).toNat → ∃ (u : State), exec (.wakeStepRepeat false) s = .next u ∧ u.pwr.st = .limp ∧ u.pwr.badStep = none ∧ u.clk.pllOn = false) ∧
    (∀ (s : State) (b : _), (s.pwr.badStep = none ∨ (s.sys.timeUs - s.pwr.badAt).toNat < 5000) → exec (.wakeStepRepeat b) s = .next s) ∧
    (∀ (s : State) (r : _) (n : _), s.pwr.badStep = some (r, n) → 5000 ≤ (s.sys.timeUs - s.pwr.badAt).toNat → exec (.wakeStepRepeat true) s = .next (s.stepReady r))

/-- R396, R399 to R405: the clock events. -/
def Obligations.ClockEventsFollowLock : Prop :=
  (∀ (s : State) (err : _), s.clk.pllOn = false → exec (.lockWindow err) s = .next s) ∧
    (∀ (s : State) (err : Int), s.clk.pllOn = true → s.clk.lock = true → -8 ≤ err → err ≤ 8 →
      exec (.lockWindow err) s = .next { s with clk := { s.clk with lockErr := BitVec.ofInt 16 err } }) ∧
    (∀ (s : State) (err : Int), s.clk.pllOn = true → s.clk.lock = true → (err < -8 ∨ 8 < err) → s.pwr.st = .run → s.sys.stewardUp = true →
      ∃ (t : _), exec (.lockWindow err) s = .next t ∧ t.clk = { s.clk with lockErr := BitVec.ofInt 16 err, lock := false, onPll := false, pllOn := false, good := 0, lossInRun := true, tries := 0, outSince := s.sys.timeUs, nextTry := s.sys.timeUs } ∧ t.flag slotClk 0 = true ∧
        t.pwr = s.pwr ∧ t.svc = s.svc ∧ t.sys = s.sys) ∧
    (∀ (s : State) (err : Int), s.clk.pllOn = true → s.clk.lock = false → -2 ≤ err → err ≤ 2 → s.clk.good < 3 →
      exec (.lockWindow err) s = .next { s with clk := { s.clk with lockErr := BitVec.ofInt 16 err, good := s.clk.good + 1 } }) ∧
    (∀ (s : State) (err : Int), s.clk.pllOn = true → s.clk.lock = false → (err < -2 ∨ 2 < err) →
      exec (.lockWindow err) s = .next { s with clk := { s.clk with lockErr := BitVec.ofInt 16 err, good := 0 } }) ∧
    (∀ (s : State) (err : Int), s.clk.pllOn = true → s.clk.lock = false → -2 ≤ err → err ≤ 2 → 3 ≤ s.clk.good → s.clk.lossInRun = false →
      s.pwr.waking = none → exec (.lockWindow err) s = .next { s with clk := { s.clk with
        lockErr := BitVec.ofInt 16 err, lock := true, good := 0, onPll := s.clk.onPll || s.sys.stewardUp } }) ∧
    (∀ (s : State) (err : Int), s.clk.pllOn = true → s.clk.lock = false → -2 ≤ err → err ≤ 2 → 3 ≤ s.clk.good → s.clk.lossInRun = true →
      ∃ (t : _), exec (.lockWindow err) s = .next t ∧ t.clk = { s.clk with
          lockErr := BitVec.ofInt 16 err, lock := true, good := 0, lossInRun := false, onPll := true } ∧
        (∀ n : Fin 4, t.cap.hr[n] = { s.cap.hr[n] with clockOut := false }) ∧ t.pwr = s.pwr ∧ t.acc = s.acc) ∧
    (∀ (s : State), s.clk.refOn = true → s.clk.timeFio = false → s.clk.lock = false →
      ∃ (t : _), exec .refMissing s = .next t ∧ t.clk = { s.clk with refOk := false, refBad := true, timeFio := true, good := 0 } ∧ t.flag slotClk 1 = true ∧
        (s.saf.safe = false → t = { s with host := t.host, evt := t.evt, clk := t.clk, saf := t.saf, flags := t.flags, tlm := t.tlm })) ∧
    (∀ (s : State), (s.clk.refOn = false ∨ s.clk.timeFio = true) → exec .refMissing s = .next s) ∧
    (∀ (s : State) (n : Nat), s.clk.refOn = true → 1137 ≤ n → n ≤ 1321 → s.clk.refBad = false →
      exec (.refMonitorWindow n) s = .next { s with clk := { s.clk with refCnt := BitVec.ofNat 16 n, outRun := 0 } }) ∧
    (∀ (s : State) (n : Nat), s.clk.refOn = true → 1137 ≤ n → n ≤ 1321 → s.clk.refBad = true →
      ∃ (t : _), exec (.refMonitorWindow n) s = .next t ∧ t.clk = { s.clk with
          refCnt := BitVec.ofNat 16 n, outRun := 0, refBad := false, refOk := true, timeFio := false, nextTry := s.sys.timeUs + 100 } ∧
        t = { s with host := t.host, evt := t.evt, clk := t.clk }) ∧
    (∀ (s : State) (n : Nat), s.clk.refOn = true → (n < 1137 ∨ 1321 < n) → s.clk.outRun ≠ 1 →
      exec (.refMonitorWindow n) s = .next { s with clk := { s.clk with refCnt := BitVec.ofNat 16 n, outRun := s.clk.outRun + 1 } }) ∧
    (∀ (s : State) (n : Nat), s.clk.refOn = true → (n < 1137 ∨ 1321 < n) → s.clk.outRun = 1 → s.clk.refBad = false → s.clk.lock = false →
      ∃ (t : _), exec (.refMonitorWindow n) s = .next t ∧ t.clk = { s.clk with
          refCnt := BitVec.ofNat 16 n, outRun := 2, refOk := false, refBad := true } ∧ t.flag slotClk 2 = true) ∧
    (∀ (s : State), s.clk.lossInRun = true → s.clk.lock = false → s.clk.refBad = false → s.clk.nextTry.toNat ≤ s.sys.timeUs.toNat →
      exec .relockAttempt s = .next { s with clk := { s.clk with
        pllOn := true, good := 0, triedAt := s.sys.timeUs, tries := if s.clk.tries = 255 then 255 else s.clk.tries + 1 } }) ∧
    (∀ (s : State), (s.clk.lossInRun = false ∨ s.clk.lock = true ∨ s.clk.refBad = true ∨ s.sys.timeUs.toNat < s.clk.nextTry.toNat) → exec .relockAttempt s = .next s) ∧
    (∀ (s : State), s.clk.lossInRun = true → s.clk.lock = false → s.clk.pllOn = true → 1000 ≤ (s.sys.timeUs - s.clk.triedAt).toNat →
      ∃ (t : _), exec .relockFail s = .next t ∧ t.clk = { s.clk with pllOn := false, good := 0, nextTry := s.sys.timeUs + 10000 } ∧ t.flag slotClk 3 = true ∧
        t = { s with host := t.host, evt := t.evt, clk := t.clk, flags := t.flags, tlm := t.tlm }) ∧
    (∀ (s : State), (s.clk.pllOn = false ∨ (s.sys.timeUs - s.clk.triedAt).toNat < 1000) → exec .relockFail s = .next s) ∧
    (∀ (s : State), s.clk.refOn = true → s.clk.refOk = false → s.pwr.st ≠ .watch →
      exec .refQualified s = .next { s with clk := { s.clk with
        refOk := true, refBad := false, timeFio := false, outRun := 0, pllOn := true } }) ∧
    (∀ (s : State), s.clk.refOk = true → exec .refQualified s = .next s ∧ exec .refStartTimeout s = .next s) ∧
    (∀ (s : State), s.clk.refOn = true → s.clk.refOk = false → 5000 ≤ (s.sys.timeUs - s.clk.refSince).toNat → s.pwr.badStep = none →
      exec .refStartTimeout s = .next (({ s with clk := { s.clk with refSince := s.sys.timeUs }, pwr := { s.pwr with badStep := some (.reference, 0), badAt := s.sys.timeUs } }).faultRun 24 4 false)) ∧
    (∀ (s : State), (s.sys.timeUs - s.clk.refSince).toNat < 5000 → exec .refStartTimeout s = .next s) ∧
    (∀ (s : State), s.pwr.st ≠ .run → exec .rtcStop s = .next { s with
      sys := { s.sys with rtcXtal := false, rtcSet := false }, clk := { s.clk with rtcOwed := true } }) ∧
    (∀ (s : State), s.pwr.st = .run → ∃ (t : _), exec .rtcStop s = .next t ∧ t.sys = { s.sys with rtcXtal := false, rtcSet := false } ∧
      t.clk = { s.clk with rtcOwed := false } ∧ t.flag slotClk 4 = true ∧
      t = { s with host := t.host, evt := t.evt, sys := t.sys, clk := t.clk, flags := t.flags, tlm := t.tlm })

/-- R469, R473, R475, R476, R478: what the Waling does with a report. -/
def Obligations.FaultsAreClassified : Prop :=
  ((List.range 25).map faultClass = [3, 3, 3, 3, 3, 3, 0, 3, 1, 0, 1, 1, 0, 2, 1, 1, 3, 3, 3, 3, 3, 2, 2, 3, 2]) ∧
    (∀ (s : State) (code : _) (inst : _) (inj : _), (s.faultRun code inst inj).saf.log = upd s.saf.log s.saf.nextIx (fun _ =>
        { inj := inj, cls := BitVec.ofNat 2 (faultClass code), inst := byte inst, code := byte code, timeMs := s.timeMs }) ∧
      (s.faultRun code inst inj).saf.newest = s.saf.nextIx ∧ (s.faultRun code inst inj).flag slotSaf (faultClass code) = true) ∧
    (∀ (s : State) (code : _) (inst : _) (inj : _), (s.saf.safe = true ∨ faultClass code = 0 ∨ faultClass code = 2 ∨ (faultClass code = 3 ∧ s.saf.enable = false)) →
      ∃ (t : _), s.faultRun code inst inj = t ∧ t.saf = { s.saf with log := t.saf.log, newest := t.saf.newest, count := t.saf.count } ∧
        t = { s with host := t.host, evt := t.evt, saf := t.saf, flags := t.flags, tlm := t.tlm }) ∧
    (∀ (s : State) (code : _) (inst : _) (inj : _), s.saf.safe = false → s.saf.enable = true → faultClass code = 3 →
      (s.faultRun code inst inj).saf.safe = true ∧ (s.faultRun code inst inj).host.ready = false ∧
      (s.faultRun code inst inj).saf.request = some (byte code, 3) ∧ (s.faultRun code inst inj).acc.accTx = none ∧
      (s.faultRun code inst inj).pwr = s.pwr ∧ (s.faultRun code inst inj).mem = s.mem) ∧
    (∀ (s : State) (code : _) (inst : _) (inj : _), s.pwr.st = .run → s.pwr.trans = none → s.fault code inst inj = s.faultRun code inst inj) ∧
    (∀ (s : State) (code : _) (inst : _) (inj : _), faultClass code < 2 → s.fault code inst inj = s.faultRun code inst inj) ∧
    (∀ (s : State) (code : _) (inst : _) (inj : _), s.saf.safe = false → (s.pwr.st = .idle ∨ s.pwr.st = .doze) → 2 ≤ faultClass code →
      s.fault code inst inj = (s.lightWake 10).faultRun code inst inj)

/-- R467 to R477: the events that the Waling's monitors raise. -/
def Obligations.MonitorsReportTheirCode : Prop :=
  (∀ (s : State) (w : W), exec (.memScrub w 0) s = .next s) ∧
    (∀ (s : State) (w : W) (n : Nat), n ≠ 0 → exec (.memScrub w n) s = .next (s.eccFound w.toNat (decide (n = 1)))) ∧
    (∀ (s : State) (a : _) (b : Bool), (s.restoring = false ∨ mramUse a ≠ some .checkpoint ∨ b = true) → s.eccFound a b =
      (match eccCode a b with
       | none => s
       | some code => s.fault code 0 false)) ∧
    (∀ (s : State) (a : _), s.pwr.st = .stow → s.pwr.waking.isSome = true → 0x10320000 ≤ a → a ≤ 0x103DFFFF → s.eccFound a false = s.offWake) ∧
    (∀ (a : Nat) (b : Bool), eccCode a b = if 0x20550000 ≤ a ∧ a ≤ 0x2064FFFF then some (if b then 6 else 7)
      else if 0x20000000 ≤ a ∧ a ≤ 0x207FFFFF then some (if b then 6 else 8)
      else if 0x10000000 ≤ a ∧ a ≤ 0x103FFFFF then some (if b then 9 else 10) else none) ∧
    (∀ (s : State) (w : W), exec (.eccError w true) s = .next (s.eccFound w.toNat true)) ∧
    (∀ (s : State) (w : W), w.toNat < 0x20000000 ∨ 0x207FFFFF < w.toNat → exec (.eccError w false) s = .next (s.eccFound w.toNat false)) ∧
    (∀ (s : State) (w : W) (u : _), sramUse w.toNat = some u → exec (.eccError w false) s = .next ((s.eccFound w.toNat false).readDrop u)) ∧
    (∀ (s : State) (d : Nat), s.readDrop (.decoder d) = s.dropOn (204 + d)) ∧
    (∀ (s : State) (k : Nat), s.readDrop (.raceBuffer k) = s.raceDrop k) ∧
    (∀ (s : State) (u : _), (∀ d : Nat, u ≠ SramUse.decoder d) → (∀ k : Nat, u ≠ SramUse.raceBuffer k) → s.readDrop u = s) ∧
    (∀ (s : State) (p : Fin 2), s.pairClocked p = true → exec (.lockstepMismatch p) s = .next (s.fault (1 + p.val) p.val false)) ∧
    (∀ (s : State) (p : Fin 2), s.pairClocked p = false → exec (.lockstepMismatch p) s = .next s) ∧
    (∀ (s : State) (p : Fin 2), s.saf.enable = true → s.saf.safe = false → s.pwr.st = .run → s.sys.stewardUp = true →
      (980 * s.winMax ≤ (s.sys.timeUs - s.saf.lastKick[p]).toNat → exec (.wdtExpiry p) s = .next (s.fault (3 + p.val) p.val false)) ∧
      ((s.sys.timeUs - s.saf.lastKick[p]).toNat < 980 * s.winMax → exec (.wdtExpiry p) s = .next s)) ∧
    (∀ (s : State) (u : _) (p : Fin 2) (b : Bool), s.saf.enable = true → s.saf.safe = false → s.pwr.st = .run → s.sys.stewardUp = true → u = (if b = true then s.pairStops p else s) →
      (1000 * s.winMin ≤ (s.sys.timeUs - s.saf.lastKick[p]).toNat →
        exec (.wdtKick ⟨p, b⟩) s = .next { u with saf := { u.saf with lastKick := upd s.saf.lastKick p fun _ => s.sys.timeUs } }) ∧
      ((s.sys.timeUs - s.saf.lastKick[p]).toNat < 1000 * s.winMin →
        exec (.wdtKick ⟨p, b⟩) s = .next (({ u with saf := { u.saf with lastKick := upd s.saf.lastKick p fun _ => s.sys.timeUs } }).fault (3 + p.val) p.val false))) ∧
    (∀ (s : State) (p : Fin 2), (s.pairStops p).pairRuns p = false ∧ s.pairStops p = { s with saf := { s.saf with pairStopped := (s.pairStops p).saf.pairStopped } }) ∧
    (∀ (s : State) (p : Fin 2), s.saf.enable = false → exec (.wdtExpiry p) s = .next s ∧ exec (.wdtKick ⟨p, false⟩) s = .next s) ∧
    (∀ (s : State) (p : Fin 2), s.saf.enable = false → s.pairUp p = true → exec (.wdtKick ⟨p, true⟩) s = .next (s.pairStops p)) ∧
    (∀ (s : State) (b : Bool), s.pwr.st = .watch → exec (.wdtExpiry 0) s = .next s ∧ exec (.wdtKick ⟨0, b⟩) s = .next s) ∧
    (∀ (s : State) (p : Fin 2) (a : _), s.pairUp p = true → exec (.accessFault p a) s = .next (s.fault 5 p.val false)) ∧
    (∀ (s : State) (p : Fin 2) (a : _), s.pairUp p = false → exec (.accessFault p a) s = .next s) ∧
    (∀ (s : State) (j : Fin 732), exec (.linkCrcError j) s = .next ((s.dropOn j.val).fault 11 (j.val % 256) false)) ∧
    (∀ (s : State) (r : Fin 4), (s.pwr.st = .run ∨ s.pwr.st = .watch) → s.pwr.railOff = 0 → exec (.railOutOfWindow r) s =
      .next (({ s with saf := { s.saf with railBad := s.saf.railBad ||| BitVec.ofNat 4 (2 ^ r.val) } }).fault (16 + r.val) r.val false)) ∧
    (∀ (s : State) (r : Fin 4), (s.pwr.st = .stow ∨ s.pwr.st = .off ∨ s.pwr.st = .hvHold) → exec (.railOutOfWindow r) s = .next s) ∧
    (∀ (s : State), s.pwr.st = .run → exec .overTemperature s = .next (s.fault 20 0 false) ∧ exec .sensorsDisagree s = .next (s.fault 21 0 false) ∧
      exec .walingDisagree s = .next (s.fault 23 0 false)) ∧
    (∀ (s : State) (m : Byte), exec (.selftestTick m true) s = .next s) ∧
    (∀ (s : State) (m : Byte), s.pwr.st = .run → s.host.ready = true → ((14 ≤ m.toNat ∧ m.toNat ≤ 21) ∨ m.toNat = 23) →
      exec (.selftestTick m false) s = .next (s.fault 22 m.toNat false)) ∧
    (∀ (s : State) (m : Byte), s.pwr.st = .run → s.host.ready = false → s.saf.safe = false → ((14 ≤ m.toNat ∧ m.toNat ≤ 21) ∨ m.toNat = 23) →
      exec (.selftestTick m false) s = .next (({ s with saf := { s.saf with selfTestOk := false } }).fault 22 m.toNat false)) ∧
    (∀ (s : State) (code : Byte) (n : Nat), s.saf.request = some (code, n + 1) → s.safeIdle = true → 1000 ≤ (s.sys.timeUs - s.saf.requestAt).toNat →
      exec .safeStateRetry s = .next (({ s with saf := { s.saf with request := some (code, n) } }).twWait 1
        (twWrite .safeState (s.twAddr 1) 0xA3 [byte code.toNat]))) ∧
    (∀ (s : State) (code : Byte), s.saf.request = some (code, 0) → s.safeIdle = true → 1000 ≤ (s.sys.timeUs - s.saf.requestAt).toNat →
      exec .safeStateRetry s = .next { s with saf := { s.saf with request := none } }) ∧
    (∀ (s : State), (s.saf.request = none ∨ (s.sys.timeUs - s.saf.requestAt).toNat < 1000) → exec .safeStateRetry s = .next s) ∧
    (∀ (s : State) (code : Byte) (inst : Byte) (a : _), (code, inst, a) ∈ s.saf.open1 → 5000 ≤ (s.sys.timeUs - a).toNat → s.pwr.st = .run → s.pwr.trans = none →
      exec (.faultEscalate code inst) s = .next (({ s with saf := { s.saf with
        open1 := s.saf.open1.filter fun f => !decide (f.1 = code ∧ f.2.1 = inst ∧ 5000 ≤ (s.sys.timeUs - f.2.2).toNat) } }).logFault
          code.toNat inst.toNat 2 false)) ∧
    (∀ (s : State) (code : Byte) (inst : Byte), (∀ f ∈ s.saf.open1, f.1 = code → f.2.1 = inst → (s.sys.timeUs - f.2.2).toNat < 5000) → exec (.faultEscalate code inst) s = .next s) ∧
    (∀ (s : State), s.saf.safe = true → s.saf.action = true → 10000 ≤ (s.sys.timeUs - s.saf.safeAt).toNat → exec .safeAutoReset s = .next (s.resetWarm 3)) ∧
    (∀ (s : State), (s.saf.safe = false ∨ s.saf.action = false ∨ (s.sys.timeUs - s.saf.safeAt).toNat < 10000) → exec .safeAutoReset s = .next s) ∧
    (∀ (s : State), (s.resetWarm 3).saf.safe = false ∧ (s.resetWarm 3).sys.resetCode = 3 ∧ (s.resetWarm 3).saf.log = s.saf.log ∧
      (s.resetWarm 3).flags[slotSaf] = s.flags[slotSaf] ∧ (s.resetWarm 3).sys.timeUs = s.sys.timeUs ∧ (s.resetWarm 3).saf.lock = s.saf.lock)

/-- R451 to R458 and R463: the trust commands but TRU_DEBUG. -/
def Obligations.TrustCommandsComplete : Prop :=
  (∀ (s : State) (c : CmdEntry) (n : _), s.takes 0x0A01 c = true → c.u32 24 ≠ 0 → c.u32 24 % 64 = 0 → c.u32 24 + c.bufLen.toNat ≤ 1310720 → c.bytes 29 3 = [0, 0, 0] →
      n = otherSlot s.runSlot → exec (.truFwWrite c) s = .next (({ s.taken 0x0A01 c with tru := { s.tru with
        written := some n, slots := upd s.tru.slots n fun f => { f with bytes := (c.u32 24, c.buf.take c.bufLen.toNat) :: f.bytes } } }).completesOk 0x0A01 c [] none)) ∧
    (∀ (s : State) (c : CmdEntry) (n : _), s.takes 0x0A01 c = true → c.u32 24 = 0 → c.bytes 29 3 = [0, 0, 0] → n = otherSlot s.runSlot →
      ∃ t : State, exec (.truFwWrite c) s = .next (t.completesOk 0x0A01 c [] none) ∧ t = { s.taken 0x0A01 c with tru := t.tru } ∧
        t.tru.slots[n] = { empty := true, bytes := (0, c.buf.take c.bufLen.toNat) :: s.tru.slots[n].bytes } ∧
        t.tru.slots[s.runSlot] = s.tru.slots[s.runSlot] ∧ t.tru.prefer = s.sys.slot ∧ t.tru.svnCtr = s.tru.svnCtr ∧
        (s.tru.prefer = s.sys.slot → t.tru.trial = s.tru.trial)) ∧
    (∀ (s : State) (c : CmdEntry), s.takes 0x0A01 c = true → (c.u32 24 % 64 ≠ 0 ∨ 1310720 < c.u32 24 + c.bufLen.toNat) →
      exec (.truFwWrite c) s = .next ((s.taken 0x0A01 c).finish 0x0A01 c .range 24 [] none)) ∧
    (∀ (s : State) (c : CmdEntry) (n : _), s.takes 0x0A02 c = true → c.bytes 24 4 = [0, 0, 0, 0] → n = otherSlot s.runSlot →
      exec (.truFwCommit c) s = .next (
        if s.imageCheck s.tru.slots[n] = 0 then
          ({ s.taken 0x0A02 c with tru := { s.tru with prefer := BitVec.ofNat 1 n.val, trial := true, trialStarted := false, slots := upd s.tru.slots n fun f => { f with empty := false } } }).completesOk 0x0A02 c [1] none
        else if s.imageCheck s.tru.slots[n] = 4 then (s.taken 0x0A02 c).finish 0x0A02 c .auth 0 [4] none
        else if s.imageCheck s.tru.slots[n] = 6 then (s.taken 0x0A02 c).finish 0x0A02 c .rollback 0 [6] none
        else (s.taken 0x0A02 c).finish 0x0A02 c .range 0xFFFF [byte (s.imageCheck s.tru.slots[n])] none)) ∧
    (∀ (s : State) (c : CmdEntry), s.takes 0x0A03 c = true → c.bytes 24 4 = [0, 0, 0, 0] → exec (.truFwConfirm c) s = .next (
      if s.tru.trial = true ∧ s.tru.prefer = s.sys.slot then
        ({ s.taken 0x0A03 c with tru := { s.tru with trial := false, trialStarted := false } }).completesOk 0x0A03 c [] none
      else (s.taken 0x0A03 c).finish 0x0A03 c .state 0 [] none)) ∧
    (∀ (s : State) (c : CmdEntry), s.takes 0x0A04 c = true → c.bytes 24 4 = [0, 0, 0, 0] → s.inTrial = false → s.tru.slots[s.runSlot].svn ≠ s.tru.svnCtr →
      exec (.truSvnAdvance c) s = .next ((({ s.taken 0x0A04 c with tru := { s.tru with svnCtr := max s.tru.svnCtr s.tru.slots[s.runSlot].svn } }).raise 61 0
        [byte s.tru.slots[s.runSlot].svn, byte s.tru.svnCtr]).completesOk 0x0A04 c [byte s.tru.slots[s.runSlot].svn,
          byte (b01 (!s.tru.slots[otherSlot s.runSlot].empty && decide (s.tru.slots[otherSlot s.runSlot].svn < s.tru.slots[s.runSlot].svn)))] none)) ∧
    (∀ (s : State) (c : CmdEntry), s.takes 0x0A04 c = true → c.bytes 24 4 = [0, 0, 0, 0] → (s.inTrial = true ∨ s.tru.slots[s.runSlot].svn = s.tru.svnCtr) →
      exec (.truSvnAdvance c) s = .next ((s.taken 0x0A04 c).finish 0x0A04 c .state 0 [] none)) ∧
    (∀ (s : State) (c : CmdEntry), s.takes 0x0A05 c = true → exec (.truAttest c) s = .next (({ s.taken 0x0A05 c with
        freeCnt := s.freeCnt + 1, tru := { s.tru with reports := s.tru.reports + 1 } }).completesOk 0x0A05 c []
      (some (s.reportHead (c.bytes 24 32) ++ Config.mldsaSign s.freeCnt txtAttest (s.reportHead (c.bytes 24 32)))))) ∧
    (∀ (s : State) (c : CmdEntry), s.takes 0x0A06 c = true → c.bytes 24 4 = [0, 0, 0, 0] → exec (.truCert c) s = .next ((s.taken 0x0A06 c).completesOk 0x0A06 c
      (leBytes 2 s.tru.chain.length) (some (padTo 6144 s.tru.chain)))) ∧
    (∀ (s : State) (c : CmdEntry), s.takes 0x0A07 c = true → c.bytes 24 4 = [0, 0, 0, 0] → c.bufLen = 2592 →
      exec (.truPubkey c) s = .next ((s.taken 0x0A07 c).completesOk 0x0A07 c [] (some (padTo 2592 s.tru.idKey)))) ∧
    (∀ (s : State) (c : CmdEntry), s.takes 0x0A07 c = true → c.bytes 24 4 = [1, 0, 0, 0] → c.bufLen = 1568 →
      exec (.truPubkey c) s = .next ((s.taken 0x0A07 c).completesOk 0x0A07 c [] (some (padTo 1568 s.tru.kemKey)))) ∧
    (∀ (s : State) (c : CmdEntry), s.takes 0x0A09 c = true → c.bytes 24 4 = [0, 0, 0, 0] → exec (.truOemKey c) s = .next (
      if s.tru.oemHash = none then
        ({ s.taken 0x0A09 c with tru := { s.tru with oemHash := some (Config.sha3 c.buf) } }).completesOk 0x0A09 c [] none
      else (s.taken 0x0A09 c).finish 0x0A09 c .locked 0 [] none))

/-- R459 to R461: the debug port. -/
def Obligations.DebugPortMovesForward : Prop :=
  (∀ (s : State) (c : CmdEntry), s.takes 0x0A08 c = true → c.u8 24 = 0 → c.bytes 25 3 = [0, 0, 0] → c.bufOut = true → c.bufLen = 32 → s.tru.failed < 3 → s.tru.dbg ≠ 2 →
      exec (.truDebug c) s = .next ((({ s.taken 0x0A08 c with freeCnt := s.freeCnt + 1, tru := { s.tru with challenge := some (Config.random s.freeCnt 32, s.sys.timeUs) } }).raise 62 0 [byte s.tru.dbg.toNat, byte s.tru.failed]).completesOk
          0x0A08 c [] (some (Config.random s.freeCnt 32)))) ∧
    (∀ (s : State) (c : CmdEntry), s.takes 0x0A08 c = true → c.u8 24 = 1 → c.bytes 25 3 = [0, 0, 0] → c.bufIn = true → c.bufLen = 4627 → s.tru.failed < 3 → s.tru.dbg = 0 →
      exec (.truDebug c) s = .next (if s.responseOk c.buf then
        ((({ s.taken 0x0A08 c with tru := { s.tru with challenge := none, unlocked := true } }).raise 62 1 [0, byte s.tru.failed]).completesOk 0x0A08 c [] none)
      else if s.tru.failed = 2 then
        ((((({ s.taken 0x0A08 c with tru := { s.tru with challenge := none, failed := 3 } }).setFlag slotTru 1).raise 62 2 [0, 3]).raise 62 3 [0, 3]).finish
          0x0A08 c .auth 0 [] none)
      else (((({ s.taken 0x0A08 c with tru := { s.tru with challenge := none, failed := s.tru.failed + 1 } }).setFlag slotTru 1).raise 62 2
        [0, byte (s.tru.failed + 1)]).finish 0x0A08 c .auth 0 [] none))) ∧
    (∀ (s : State) (c : CmdEntry), s.takes 0x0A08 c = true → c.u8 24 = 1 → c.bytes 25 3 = [0, 0, 0] → c.bufIn = true → c.bufLen = 4627 → s.tru.failed < 3 → s.tru.dbg = 1 →
      s.responseOk c.buf = true → exec (.truDebug c) s = .next ((((({ s.taken 0x0A08 c with
        tru := { s.tru with challenge := none, unlocked := true, opened := true } }).setFlag slotTru 2).raise 62 1 [1, byte s.tru.failed]).completesOk 0x0A08 c [] none))) ∧
    (∀ (s : State) (c : CmdEntry), s.takes 0x0A08 c = true → c.bytes 24 4 = [2, 0, 0, 0] → c.bufIn = false → c.bufOut = false → s.tru.failed < 3 → s.tru.dbg ≠ 2 →
      exec (.truDebug c) s = .next (if s.tru.dbg = 0 then ({ s.taken 0x0A08 c with tru := { s.tru with dbg := 1 } }).completesOk 0x0A08 c [] none
        else (s.taken 0x0A08 c).finish 0x0A08 c .state 0 [] none)) ∧
    (∀ (s : State) (c : CmdEntry), s.takes 0x0A08 c = true → c.bytes 24 4 = [3, 0, 0, 0] → c.bufIn = false → c.bufOut = false → s.tru.failed < 3 → s.tru.dbg.toNat < 2 →
      exec (.truDebug c) s = .next (({ s.taken 0x0A08 c with tru := { s.tru with dbg := 2, unlocked := false } }).completesOk 0x0A08 c [] none)) ∧
    (∀ (s : State) (c : CmdEntry), s.takes 0x0A08 c = true → c.bytes 24 4 = [2, 0, 0, 0] → c.bufIn = false → c.bufOut = false → (3 ≤ s.tru.failed ∨ s.tru.dbg = 2) →
      exec (.truDebug c) s = .next ((s.taken 0x0A08 c).finish 0x0A08 c .locked 0 [] none)) ∧
    (∀ (s : State) (c : CmdEntry), s.takes 0x0A08 c = true → c.u8 24 = 0 → c.bufOut = false → exec (.truDebug c) s = .next ((s.taken 0x0A08 c).finish 0x0A08 c .badlen 0 [] none)) ∧
    (∀ (s : State) (ch : List Byte) (a : D), s.tru.challenge = some (ch, a) → 10000000 ≤ (s.sys.timeUs - a).toNat →
      exec .debugChallengeExpiry s = .next { s with tru := { s.tru with challenge := none } }) ∧
    (∀ (s : State), (∀ (ch : List Byte) (a : D), s.tru.challenge = some (ch, a) → (s.sys.timeUs - a).toNat < 10000000) → exec .debugChallengeExpiry s = .next s) ∧
    (∀ (s : State) (ch : List Byte) (a : D) (sig : List Byte), s.tru.challenge = some (ch, a) → 10000000 ≤ (s.sys.timeUs - a).toNat → s.responseOk sig = false) ∧
    (∀ (s : State), (s.tru.dbg = 0 ∨ s.tru.unlocked = true) → s.tru.opened = false →
      exec .debugPortAccess s = .next (({ s with tru := { s.tru with opened := true } }).setFlag slotTru 2)) ∧
    (∀ (s : State), (s.tru.dbg ≠ 0 ∧ s.tru.unlocked = false) ∨ s.tru.opened = true → exec .debugPortAccess s = .next s)

/-- R481 to R488, R448 and R450: the events of a start. -/
def Obligations.StartUpRunsInOrder : Prop :=
  (∀ (s : State), s.pwr.vbatOk = false → s.pwr.st = .off → s.pwr.coldHold = false →
      exec .vbatRise s = .next { s with pwr := { s.pwr with vbatOk := true, vbat6 := true, pwrEn := true } }) ∧
    (∀ (s : State), s.pwr.vbatOk = true → exec .vbatRise s = .next { s with pwr := { s.pwr with vbatOk := true, vbat6 := true } }) ∧
    (∀ (s : State), exec .vbatLoss s = .next { s.resetCold false with pwr := { (s.resetCold false).pwr with vbatOk := false, vbat6 := false } }) ∧
    (∀ (s : State), s.pwr.st = .off → s.pwr.pwrEn = true → exec .powerGood s = .next { s with
      pwr := { s.pwr with badStep := none, st := .run, level := 1, target := 1 }, saf := { s.saf with hvFault := false, selfTestOk := true }, clk := { s.clk with refOn := true, refOk := false, refSince := s.sys.timeUs, xoNow := if s.clk.refOn then s.clk.xoNow else s.clk.xoMode } }) ∧
    (∀ (s : State) (k : _), s.pwr.st = .stow → s.pwr.waking = some k → s.cal.eolValid = true → s.cal.badCopies = 0 →
      ∃ (t : _), exec .powerGood s = .next t ∧ t.pwr.st = .watch ∧ t.pwr.waking = none ∧ t.pwr.level = 0 ∧ t.pwr.wakeFrom = 4 ∧ t.pwr.wakeCode = k ∧
        t.saf.selfTestOk = true ∧ t.clk.refOn = true ∧ t.clk.refOk = false ∧ t.cal.loaded = true ∧ t.mem = s.mem ∧ t.bul = s.bul ∧ t.cred = s.cred) ∧
    (∀ (s : State), s.pwr.coldHold = true → exec .coldRestart s = .next { s with pwr := { s.pwr with coldHold := false, pwrEn := s.pwr.vbatOk } }) ∧
    (∀ (s : State), s.pwr.coldHold = false → exec .coldRestart s = .next s) ∧
    (∀ (s : State) (p : _), s.booting = true → p = s.tru.prefer.toFin →
      ∃ (t : _), exec .bootRom s = .next t ∧ (t.sys.recovery = false → t.pwr.level = 1 ∧ t.pwr.target = 1) ∧
        (s.bootCheck p = 0 → t.sys.slot = s.tru.prefer ∧ t.sys.stewardUp = true ∧ t.sys.recovery = false ∧
          t.sys.fwVer = s.tru.slots[p].version ∧ t.host.ready = false ∧ t.clk.onPll = s.clk.lock) ∧
        (s.bootCheck p ≠ 0 → s.bootCheck (otherSlot p) = 0 → t.sys.slot = BitVec.ofNat 1 (otherSlot p).val ∧ t.sys.stewardUp = true ∧
          t.sys.fwVer = s.tru.slots[otherSlot p].version ∧ t.flag slotTru 0 = true ∧ t.clk.onPll = s.clk.lock) ∧
        (s.bootCheck p ≠ 0 → s.bootCheck (otherSlot p) ≠ 0 → t.sys.recovery = true ∧ t.sys.stewardUp = false ∧ t.sys.fwVer = 0 ∧
          t.host.ready = true ∧ t.faultN = true)) ∧
    (∀ (s : State) (n : _), s.tru.slots[n].empty = true → s.bootCheck n = 2) ∧
    (∀ (s : State) (n : _), s.tru.slots[n].empty = false → s.tru.trial = true → s.tru.prefer.toNat = n.val → s.tru.trialStarted = true →
      s.bootCheck n = if s.imageCheck s.tru.slots[n] = 0 then 7 else s.imageCheck s.tru.slots[n]) ∧
    (∀ (s : State), s.pwr.st = .run → s.sys.stewardUp = true → s.host.ready = false → s.saf.safe = false →
      ∃ (t : _), exec .stewardReady s = .next t ∧ t.host.ready = true ∧ t.cal.loaded = true ∧ t.sys = s.sys ∧ t.pwr = s.pwr ∧ t.win = s.win) ∧
    (∀ (s : State), s.host.ready = true → exec .stewardReady s = .next s) ∧
    (∀ (s : State), 2 ≤ s.sys.resetCode.toNat → s.host.ready = true → s.host.ringSeen = false → s.sys.recovery = false → 30000000 ≤ (s.sys.timeUs - s.host.readyAt).toNat →
      exec .watchAutoEntry s = exec (.stewardSleepRequest 3) s) ∧
    (∀ (s : State), (s.sys.resetCode.toNat < 2 ∨ s.host.ringSeen = true ∨ (s.sys.timeUs - s.host.readyAt).toNat < 30000000) → exec .watchAutoEntry s = .next s)

/-- R486: the four resets; a power-on reset leaves what R494 gives for reset. -/
def Obligations.ResetsClearAndKeep : Prop :=
  (∀ (s : State) (b : _), let t := s.resetCold b
      t.host.outstanding = [] ∧ t.host.ready = false ∧ t.host.ringEn = false ∧ t.win = {} ∧ t.svc = {} ∧ t.dma = {} ∧ t.aud = {} ∧ t.fan = {} ∧
      t.mem = [] ∧ t.tlm = [] ∧ t.saf = {} ∧ (∀ k : Fin 83, t.flags[k] = 0) ∧ t.sys.timeUs = 0 ∧ (∀ n : Fin 4, t.cap.feed[n].on = false) ∧
      t.acc.regPage = s.acc.regPage ∧ t.tru.slots = s.tru.slots ∧ t.tru.svnCtr = s.tru.svnCtr ∧ t.tru.oemHash = s.tru.oemHash ∧
      t.tru.dbg = s.tru.dbg ∧ t.tru.unlocked = false ∧ t.bul.store = s.bul.store ∧ t.bul.keys = s.bul.keys ∧ t.cal.aValues = s.cal.aValues ∧
      t.cal.bValues = s.cal.bValues ∧ t.clk.xoMode = s.clk.xoMode ∧ t.cred.vkey = s.cred.vkey ∧ t.cred.slots = ({} : CredBlk).slots) ∧
    (∀ (s : State), (s.resetCold false).sys = {} ∧ (s.resetCold false).pwr.alarm = none) ∧
    (∀ (s : State), (s.resetCold true).sys.rtcSec = s.sys.rtcSec ∧ (s.resetCold true).sys.rtcSet = s.sys.rtcSet ∧ (s.resetCold true).sys.resetCode = 1 ∧
      (s.resetCold true).pwr.alarm = s.pwr.alarm) ∧
    (∀ (s : State) (n : _), n = 2 ∨ n = 3 → let t := s.resetWarm n
      t.host.outstanding = [] ∧ t.host.ready = false ∧ t.host.ringEn = false ∧ t.win = {} ∧ t.svc = {} ∧ t.dma = {} ∧ t.fan = {} ∧
      (∀ k : Fin 83, k ≠ slotSaf → t.flags[k] = 0) ∧ t.flags[slotSaf] = s.flags[slotSaf] ∧ (∀ n : Fin 4, t.cap.feed[n].on = false) ∧
      t.sys.resetCode = BitVec.ofNat 2 n ∧ t.sys.timeUs = s.sys.timeUs ∧ t.sys.rtcSec = s.sys.rtcSec ∧ t.sys.rtcSet = s.sys.rtcSet ∧
      t.sys.stewardUp = false ∧ t.sys.resetDue = none ∧ t.pwr.st = .run ∧ t.pwr.alarm = s.pwr.alarm ∧ t.acc.regPage = s.acc.regPage ∧ t.tru.slots = s.tru.slots ∧
      t.tru.unlocked = s.tru.unlocked ∧ t.bul.store = s.bul.store ∧ t.cred.slots = s.cred.slots ∧ t.cred.flow = none ∧ t.saf.log = s.saf.log ∧
      t.saf.safe = false ∧ t.saf.lock = s.saf.lock ∧ (s.saf.lock = true → t.saf.enable = s.saf.enable ∧ t.saf.wdtCfg = s.saf.wdtCfg) ∧
      t.mem = s.mem.filter (fun e => decide (0x20550000 ≤ e.1) && decide (e.1 ≤ 0x205CFFFF)))

/-- The Reset columns of R494 for a spread of registers. -/
def Obligations.ResetRegisterValues : Prop :=
  [0x0000, 0x0008, 0x0404, 0x0408, 0x051C, 0x052C, 0x054C, 0x059C, 0x0800, 0x080C, 0x1000, 0x1004, 0x1010, 0x1014, 0x1400, 0x1410, 0x1414, 0x1418, 0x141C,
      0x1420, 0x1500, 0x1804, 0x1808, 0x2800, 0x280C, 0x2C0C, 0x3400, 0x3800, 0x3808, 0x380C, 0xFFFC].map State.reset.readReg =
    [0x96400101, 0, 0, 0, 0x110, 0x111, 0x112, 0x114, 0, 0, 0, 0, 0x0A78, 0x0A00, 0x81, 0x00040009, 0x00040009, 0x00040008, 0x43F8,
      0xA1B8, 0x000A1204, 384, 0xF03, 0x00011901, 0x40, 0x60, 0x108, 0, 0, 0x401, 0]

/-- The Headrace commands of R107 with the rules they cite; a start with AUTO_A set may also begin a Class A run that is due (R433). -/
def Obligations.CaptureCommandsComplete : Prop :=
  (∀ (s : State) (c : CmdEntry) (hr : Fin 4) (g : _) (a : _), s.takes 0x0201 c = true → c.u8 24 = hr.val → c.u8 25 = g → g ≤ 12 → c.u8 26 = a → a ≤ 1 → c.u8 27 = 0 →
      s.pwr.st = .run → 2 ≤ s.pwr.level.toNat → (s.pwr.level = 2 → s.hrRunning.length < 2) → s.clk.lossInRun = false →
      s.cap.hr[hr].failed = false → s.cap.hr[hr].running = false → s.cal.cfg.getLsbD 8 = false →
      exec (.capStart c) s = .next (((s.taken 0x0201 c).modHr hr fun h => { h with
        running := true, output := false, govStop := false, gain := BitVec.ofNat 4 g, agc := decide (a = 1), clipNow := 0, lowMs := 0, gainSet := false, clockOut := false }).completesOk 0x0201 c [] none)) ∧
    (∀ (s : State) (c : CmdEntry) (hr : Fin 4), s.takes 0x0201 c = true → c.u8 24 = hr.val → c.u8 25 = 0xFF → c.u8 26 = 0xFF → c.u8 27 = 0 →
      s.pwr.st = .run → 2 ≤ s.pwr.level.toNat → (s.pwr.level = 2 → s.hrRunning.length < 2) → s.clk.lossInRun = false →
      s.cap.hr[hr].failed = false → s.cap.hr[hr].running = false →
      ∃ (u : State), exec (.capStart c) s = .next u ∧ u.cap = (s.modHr hr fun h => { h with
          running := true, output := false, govStop := false, gain := BitVec.ofNat 4 (min 12 (fld h.ctl 4 4)), agc := h.ctl.getLsbD 0, clipNow := 0, lowMs := 0, gainSet := false, clockOut := false }).cap ∧
        u = { s with host := u.host, evt := u.evt, cap := u.cap, cal := u.cal }) ∧
    (∀ (s : State) (c : CmdEntry) (hr : Fin 4), s.takes 0x0201 c = true → c.u8 24 = hr.val → c.u8 25 ≤ 12 → c.u8 26 ≤ 1 → c.u8 27 = 0 → s.pwr.st = .run →
      (s.pwr.level.toNat < 2 ∨ (s.pwr.level = 2 ∧ 2 ≤ s.hrRunning.length)) →
      exec (.capStart c) s = .next ((s.taken 0x0201 c).finish 0x0201 c .power 0 [] none)) ∧
    (∀ (s : State) (c : CmdEntry) (hr : Fin 4), s.takes 0x0201 c = true → c.u8 24 = hr.val → c.u8 25 ≤ 12 → c.u8 26 ≤ 1 → c.u8 27 = 0 → s.pwr.st = .run →
      2 ≤ s.pwr.level.toNat → (s.pwr.level = 2 → s.hrRunning.length < 2) → s.cap.hr[hr].failed = true →
      exec (.capStart c) s = .next ((s.taken 0x0201 c).finish 0x0201 c .fault 0 [] none)) ∧
    (∀ (s : State) (c : CmdEntry) (hr : Fin 4), s.takes 0x0201 c = true → c.u8 24 = hr.val → c.u8 25 ≤ 12 → c.u8 26 ≤ 1 → c.u8 27 = 0 → s.pwr.st = .run →
      2 ≤ s.pwr.level.toNat → (s.pwr.level = 2 → s.hrRunning.length < 2) → s.clk.lossInRun = false → s.cap.hr[hr].failed = false →
      s.cap.hr[hr].running = true → exec (.capStart c) s = .next ((s.taken 0x0201 c).finish 0x0201 c .state 0 [] none)) ∧
    (∀ (s : State) (c : CmdEntry), s.takes 0x0201 c = true → c.u8 24 ≤ 3 → 13 ≤ c.u8 25 → c.u8 25 ≤ 254 →
      exec (.capStart c) s = .next ((s.taken 0x0201 c).finish 0x0201 c .range 25 [] none)) ∧
    (∀ (s : State) (c : CmdEntry) (hr : Fin 4), s.takes 0x0202 c = true → c.u8 24 = hr.val → c.u8 25 ≤ 1 → c.u8 26 = 0 → c.u8 27 = 0 → s.cap.hr[hr].running = true →
      (c.u8 25 = 1 ∨ s.windowsOn hr = []) → s.cal.aRun = none →
      ∃ (u : State), exec (.capStop c) s = .next u ∧ u.cap = (s.modHr hr fun h => { h with
          running := false, output := false, clockOut := false, spareFor := if h.retired.toNat < 8 then h.retired else 15 }).cap ∧
        (∀ hr' : Fin 4, hr' ≠ hr → u.cap.hr[hr'] = s.cap.hr[hr']) ∧
        u = { s with host := u.host, evt := u.evt, cap := u.cap, win := u.win }) ∧
    (∀ (s : State) (c : CmdEntry) (hr : Fin 4), s.takes 0x0202 c = true → c.u8 24 = hr.val → c.u8 25 = 0 → c.u8 26 = 0 → c.u8 27 = 0 → s.cap.hr[hr].running = true →
      s.windowsOn hr ≠ [] → exec (.capStop c) s = .next ((s.taken 0x0202 c).finish 0x0202 c .busy 0 [] none)) ∧
    (∀ (s : State) (c : CmdEntry) (hr : Fin 4), s.takes 0x0202 c = true → c.u8 24 = hr.val → c.u8 25 ≤ 1 → c.u8 26 = 0 → c.u8 27 = 0 → s.cap.hr[hr].running = false →
      exec (.capStop c) s = .next (if s.cap.hr[hr].govStop = true
        then ((s.taken 0x0202 c).modHr hr fun h => { h with govStop := false }).completesOk 0x0202 c [] none
        else (s.taken 0x0202 c).finish 0x0202 c .state 0 [] none)) ∧
    (∀ (s : State) (c : CmdEntry) (hr : Fin 4) (g : _) (a : _), s.takes 0x0203 c = true → c.u8 24 = hr.val → c.u8 25 = g → g ≤ 12 → c.u8 26 = a → a ≤ 1 → c.u8 27 = 0 →
      s.pwr.st = .run → s.clk.lossInRun = false → s.cap.hr[hr].running = true →
      exec (.capGain c) s = .next (((s.taken 0x0203 c).modHr hr fun h => { h with
        gain := BitVec.ofNat 4 g, agc := decide (a = 1), gainSet := true, lowMs := 0 }).completesOk 0x0203 c [] none)) ∧
    (∀ (s : State) (c : CmdEntry) (hr : Fin 4), s.takes 0x0204 c = true → c.u8 24 = hr.val → c.u8 25 = 1 → c.u8 26 = 0 → c.u8 27 = 0 → 10000 ≤ c.u32 28 → c.u32 28 ≤ 24000 →
      s.windowsOn hr = [] → exec (.capRace c) s = .next (((s.taken 0x0204 c).modHr hr fun h => { h with
        vCentre := BitVec.ofNat 32 (c.u32 28), vSettling := h.running, vSpan := h.vSpan || h.running }).completesOk 0x0204 c [] none)) ∧
    (∀ (s : State) (c : CmdEntry) (hr : Fin 4), s.takes 0x0204 c = true → c.u8 24 = hr.val → c.u8 25 = 2 → c.u8 26 = 0 → c.u8 27 = 0 → 32000 ≤ c.u32 28 → c.u32 28 ≤ 49000 →
      s.windowsOn hr = [] → exec (.capRace c) s = .next (((s.taken 0x0204 c).modHr hr fun h => { h with
        bCentre := BitVec.ofNat 32 (c.u32 28), bSettling := h.running, bSpan := h.bSpan || h.running }).completesOk 0x0204 c [] none)) ∧
    (∀ (s : State) (c : CmdEntry), s.takes 0x0204 c = true → c.u8 24 ≤ 3 → c.u8 25 = 1 → c.u8 26 = 0 → c.u8 27 = 0 → (c.u32 28 < 10000 ∨ 24000 < c.u32 28) →
      exec (.capRace c) s = .next ((s.taken 0x0204 c).finish 0x0204 c .range 28 [] none)) ∧
    (∀ (s : State) (c : CmdEntry) (hr : Fin 4) (win : Fin 64), s.takes 0x0204 c = true → c.u8 24 = hr.val → c.u8 25 = 1 → c.u8 26 = 0 → c.u8 27 = 0 → 10000 ≤ c.u32 28 → c.u32 28 ≤ 24000 →
      win ∈ s.windowsOn hr → (s.win.win[win].preset = 3 ∨ s.win.win[win].preset = 4) →
      exec (.capRace c) s = .next ((s.taken 0x0204 c).finish 0x0204 c .busy 0 [] none))

/-- R74 to R95: what the samples of a Headrace do to it. A sample is kept in quarters of its LSB, the unit of the factors of R88. -/
def Obligations.HeadracesFollowTheirSamples : Prop :=
  (∀ (s : State) (hr : Fin 4) (peak : _), s.cap.hr[hr].running = true → s.cap.hr[hr].clockOut = false → s.cap.hr[hr].agc = true → s.cap.hr[hr].gainSet = false →
      fld s.cap.agc 0 8 < s.cap.hr[hr].clipNow → exec (.agcInterval hr peak) s = .next (s.modHr hr fun h => { h with
        gain := if h.gain = 0 then 0 else h.gain - 1, lowMs := 0, clipNow := 0, gainSet := false })) ∧
    (∀ (s : State) (hr : Fin 4) (peak : _) (db : _), s.cap.hr[hr].running = true → s.cap.hr[hr].clockOut = false → s.cap.hr[hr].agc = true → s.cap.hr[hr].gainSet = false →
      s.cap.hr[hr].clipNow ≤ fld s.cap.agc 0 8 →
      db = (if 6 ≤ fld s.cap.agc 8 8 ∧ fld s.cap.agc 8 8 ≤ 60 then fld s.cap.agc 8 8 else 18) → exec (.agcInterval hr peak) s = .next (s.modHr hr fun h => { h with
        lowMs := if peak ^ 20 * 10 ^ db < (2 ^ 13) ^ 20 then h.lowMs + 1 else 0, clipNow := 0, gainSet := false })) ∧
    (∀ (s : State) (hr : Fin 4), s.cap.hr[hr].running = true → s.cap.hr[hr].clockOut = false → s.cap.hr[hr].agc = true → s.cap.hr[hr].gainSet = false →
      10 * max 1 (fld s.cap.agc 16 8) ≤ s.cap.hr[hr].lowMs → exec (.agcHoldExpiry hr) s = .next (s.modHr hr fun h => { h with
        gain := if h.gain.toNat < 12 then h.gain + 1 else h.gain, lowMs := 0 })) ∧
    (∀ (s : State) (hr : Fin 4) (whole : _), s.cap.hr[hr].running = true → s.cap.hr[hr].clockOut = false → ∃ (u : State), exec (.clipDetected hr whole) s = .next u ∧
      u.cap = (s.modHr hr fun h => { h with clipCnt := h.clipCnt + 1, clipNow := h.clipNow + 1 }).cap ∧ u.flag (slotHr hr) 0 = true ∧
      u = { s with cap := u.cap, flags := u.flags, tlm := u.tlm, host := u.host, evt := u.evt }) ∧
    (∀ (s : State) (hr : Fin 4) (stats : _) (k : _), s.cap.hr[hr].running = true → s.cap.hr[hr].clockOut = false → s.cap.hr[hr].failed = false →
      s.cap.hr[hr].retired = 15 → s.cap.hr[hr].takeOver = none → s.cal.aRun = none → lanesDiffer stats = BitVec.ofNat 9 (2 ^ k.val) →
      s.cap.hr[hr].laneBad[k.val] = 3 → ∃ (u : State), exec (.laneMonitorBlock hr stats) s = .next u ∧ u.cap.hr[hr].takeOver = some k ∧
        u.flag (slotHr hr) 1 = true ∧ u.cap.hr[hr].failed = false ∧ (∀ j : Fin 9, j.val ≠ k.val → s.cap.hr[hr].laneBad[j] < 4 → u.cap.hr[hr].laneBad[j] = 0) ∧
        u = { s with cap := u.cap, flags := u.flags, tlm := u.tlm, host := u.host, evt := u.evt }) ∧
    (∀ (stats : List LaneStat) (j : Fin 9) (x : LaneStat) (m : Int) (q : Nat), stats = (List.replicate 8 ⟨m, q⟩).insertIdx j.val x →
      ((lanesDiffer stats).getLsbD j.val = true ↔ 2 * 8192 * 65536 < 100 * |x.sum - m| ∨ 10 * q ^ 20 < x.squares ^ 20 ∨ 10 * x.squares ^ 20 < q ^ 20)) ∧
    (∀ (s : State) (hr : Fin 4) (k : _), s.cap.hr[hr].takeOver = some k → exec (.spareTakeover hr) s = .next ((s.modHr hr fun h => { h with
      takeOver := none, retired := BitVec.ofNat 4 k.val, spareFor := BitVec.ofNat 4 k.val }).faultRun 12 k.val false)) ∧
    (∀ (s : State) (hr : Fin 4), s.cap.hr[hr].takeOver = none → exec (.spareTakeover hr) s = .next s) ∧
    (∀ (s : State) (hr : Fin 4), s.cap.hr[hr].running = true → s.cap.hr[hr].clockOut = false → s.cap.hr[hr].output = false → s.windowsOn hr = [] →
      exec (.raceOutputStart hr) s = .next (s.modHr hr fun h => { h with output := true })) ∧
    (∀ (s : State) (hr : Fin 4), exec (.raceCentreSettled hr false) s = .next (s.modHr hr fun h => { h with vSettling := false }) ∧
      exec (.raceCentreSettled hr true) s = .next (s.modHr hr fun h => { h with bSettling := false })) ∧
    (∀ (s : State) (hr : Fin 4), s.pwr.st = .run → s.pwr.level = 3 → s.cap.hr[hr].govStop = true → (∀ n : Fin 4, n ≠ hr → s.cap.hr[n].govStop = false) →
      s.cal.cfg.getLsbD 8 = false → exec .headraceGovRestart s = .next (s.modHr hr fun h => { h with
        running := true, output := false, govStop := false, clipNow := 0, lowMs := 0, gainSet := false, clockOut := false })) ∧
    (∀ (s : State), (s.pwr.st ≠ .run ∨ s.pwr.level ≠ 3) → exec .headraceGovRestart s = .next s) ∧
    (∀ (s : State) (hr : Fin 4) (r : _) (b : _), s.cap.hr[hr].running = true → s.cap.hr[hr].clockOut = false → ((s.cap.hr[hr].blk r).reg.getLsbD 0) = false →
      ∃ (u : State), exec (.blankerBlock hr r b) s = .next u ∧ (u.cap.hr[hr].blk r).output = b.samples.map (fun x =>
          if s.cap.hr[hr].failed then (0, 0) else (4 * x.1.toInt, 4 * x.2.toInt)) ∧
        (u.cap.hr[hr].blk r).count = (s.cap.hr[hr].blk r).count ∧ (u.cap.hr[hr].blk r).inForce = (s.cap.hr[hr].blk r).reg ∧
        (∀ (r' : _), r' ≠ r → u.cap.hr[hr].blk r' = s.cap.hr[hr].blk r') ∧ u = { s with cap := u.cap, freeCnt := u.freeCnt, mem := u.mem }) ∧
    (∀ (s : State) (hr : Fin 4) (r : _) (b : _) (l : _), s.cap.hr[hr].running = true → s.cap.hr[hr].clockOut = false → s.cap.hr[hr].failed = false →
      (s.cap.hr[hr].blk r).reg.getLsbD 0 = true → (s.cap.hr[hr].blk r).reg.getLsbD 1 = true → l = (b.pre ++ b.samples ++ b.post).map RaceIQ.value →
      ((List.range b.samples.length).filter fun j => blkTrigger (s.cap.hr[hr].blk r).reg l (b.pre.length + j)).length ≤ 512 →
      ∃ (u : State), exec (.blankerBlock hr r b) s = .next u ∧ (u.cap.hr[hr].blk r).output.length = b.samples.length ∧
        (u.cap.hr[hr].blk r).count = (s.cap.hr[hr].blk r).count +
          BitVec.ofNat 32 ((List.range b.samples.length).filter fun j => blkTrigger (s.cap.hr[hr].blk r).reg l (b.pre.length + j)).length ∧
        (u.cap.hr[hr].blk r).inForce = (s.cap.hr[hr].blk r).reg ∧
        (∀ (j : _), j < b.samples.length → blkTrigger (s.cap.hr[hr].blk r).reg l (b.pre.length + j) = true →
          (u.cap.hr[hr].blk r).output.getD j (0, 0) = (0, 0)) ∧ u = { s with cap := u.cap, freeCnt := u.freeCnt, mem := u.mem }) ∧
    (∀ (s : State) (hr : Fin 4) (r : Race) (b : BlankBlock) (u : State) (a : Nat), exec (.blankerBlock hr r b) s = .next u →
      (a < raceBuffer hr r ∨ raceBuffer hr r + 6 * b.samples.length ≤ a) → u.load a 1 = s.load a 1) ∧
    (∀ (s : State) (hr : Fin 4) (peak : _) (whole : _) (stats : _) (r : _) (b : _), s.cap.hr[hr].running = false → exec (.agcInterval hr peak) s = .next s ∧ exec (.agcHoldExpiry hr) s = .next s ∧
      exec (.clipDetected hr whole) s = .next s ∧ exec (.laneMonitorBlock hr stats) s = .next s ∧ exec (.raceOutputStart hr) s = .next s ∧
      exec (.blankerBlock hr r b) s = .next s)

/-- R96 to R107: the antenna feeds, their protection, and the smart antenna modules. -/
def Obligations.FeedsAndModules : Prop :=
  (∀ (s : State) (c : CmdEntry) (hr : Fin 4) (v : _), s.takes 0x0205 c = true → c.bytes 24 4 = [byte hr.val, 1, byte v, 0] → 50 ≤ v → v ≤ 120 → s.cap.feed[hr].on = false →
      ∃ (u : State), exec (.capFeed c) s = .next u ∧ u.cap.feed[hr].st = .ramping ∧ u.cap.feed[hr].on = true ∧ u.cap.feed[hr].volt = BitVec.ofNat 8 v ∧
        u.cap.feed[hr].waiting = s.cap.feed[hr].waiting ++ [c.id] ∧ u.cap.feed[hr].onSince = s.sys.timeUs ∧ u.cap.hr = s.cap.hr ∧
        (∀ n : Fin 4, n ≠ hr → u.cap.feed[n] = s.cap.feed[n]) ∧ u = { s with host := u.host, cap := u.cap }) ∧
    (∀ (s : State) (c : CmdEntry) (hr : Fin 4), s.takes 0x0205 c = true → c.bytes 24 4 = [byte hr.val, 0, 0, 0] → exec (.capFeed c) s = .next
      ((s.cap.feed[hr].waiting.foldl (fun s k => s.finishSlot 0x0205 k .aborted 0 [] none) ((s.taken 0x0205 c).modFeed hr fun f =>
        { f.off s.sys.timeUs .off with wanted := false, retries := 0, shorted := false, waiting := [] })).completesOk 0x0205 c [] none)) ∧
    (∀ (s : State) (c : CmdEntry), s.takes 0x0205 c = true → c.u8 24 ≤ 3 → c.u8 25 ≤ 1 → c.u8 26 ≠ 0 → (c.u8 26 < 50 ∨ 120 < c.u8 26) →
      exec (.capFeed c) s = .next ((s.taken 0x0205 c).finish 0x0205 c .range 26 [] none)) ∧
    (∀ (s : State) (hr : Fin 4), s.cap.feed[hr].st = .ramping → exec (.feedRampDone hr) s = .next 
      (s.cap.feed[hr].waiting.foldl (fun s k => s.finishSlot 0x0205 k .ok 0 [] none) (s.modFeed hr fun f => { f with st := .on, waiting := [] }))) ∧
    (∀ (s : State) (hr : Fin 4), s.cap.feed[hr].st ≠ .ramping → exec (.feedRampDone hr) s = .next s) ∧
    (∀ (s : State) (hr : Fin 4) (ma : _), s.cap.feed[hr].shorted = false → exec (.feedMeasure hr ma) s = .next (s.modFeed hr fun f => { f with ma2 := ma })) ∧
    (∀ (s : State) (hr : Fin 4) (v : _), s.cap.feed[hr].on = true → exec (.feedLowbat hr v) s = .next ((s.setFlag (slotFeed hr) 2).raise (20 + hr.val) 5
      ([byte hr.val, 0, 0, 0] ++ leBytes 2 v.toNat))) ∧
    (∀ (s : State) (hr : Fin 4) (ma : _), s.cap.feed[hr].on = true → (s.cap.feed[hr].ctl.getLsbD 8 = false ∨ s.cap.feed[hr].retries.toNat < 3) →
      exec (.feedShort hr ma) s = .next (s.cap.feed[hr].waiting.foldl (fun s k => s.finishSlot 0x0205 k .fault 0 [] none)
        ((((s.modFeed hr fun f => { f.off s.sys.timeUs (if f.ctl.getLsbD 8 then .shorted else .off) with
          shorted := true, wanted := f.wanted && f.ctl.getLsbD 8 }).setFlag (slotFeed hr) 0).raise (20 + hr.val) 1
            ([byte hr.val, 0, 0, 0] ++ leBytes 2 ma.toNat)).modFeed hr fun f => { f with waiting := [] }))) ∧
    (∀ (s : State) (hr : Fin 4) (ma : _), s.cap.feed[hr].on = true → s.cap.feed[hr].ctl.getLsbD 8 = true → s.cap.feed[hr].retries = 3 → s.cap.feed[hr].waiting = [] →
      exec (.feedShort hr ma) s = .next (((((s.modFeed hr fun f => { f.off s.sys.timeUs .shutoff with shorted := true, wanted := false }).setFlag
        (slotFeed hr) 0).raise (20 + hr.val) 1 ([byte hr.val, 0, 0, 0] ++ leBytes 2 ma.toNat)).setFlag (slotFeed hr) 3).raise (20 + hr.val) 4
          [byte hr.val, 0, 0, 0])) ∧
    (∀ (s : State) (hr : Fin 4), s.cap.feed[hr].st = .shorted → (s.pwr.st = .run ∨ 2 ≤ s.bul.winStep.toNat) → ∃ (u : State), exec (.feedRetry hr) s = .next u ∧
      u.cap.feed[hr].st = .ramping ∧ u.cap.feed[hr].retries = s.cap.feed[hr].retries + 1 ∧ u = { s with cap := u.cap }) ∧
    (∀ (s : State) (hr : Fin 4), s.cap.feed[hr].st ≠ .shorted ∨ (s.pwr.st ≠ .run ∧ s.bul.winStep.toNat < 2) → exec (.feedRetry hr) s = .next s) ∧
    (∀ (s : State) (hr : Fin 4), s.cap.feed[hr].st = .on → ∃ (u : State), exec (.feedOpen hr) s = .next u ∧ u.cap.feed[hr].st = .opened ∧ u.cap.feed[hr].present = false ∧
      u.cap.feed[hr].lifeOk = false ∧ u.cap.feed[hr].lifePct = 255 ∧ u.flag (slotFeed hr) 1 = true ∧
      u = { s with cap := u.cap, flags := u.flags, tlm := u.tlm, host := u.host, evt := u.evt }) ∧
    (∀ (s : State) (hr : Fin 4), s.cap.feed[hr].st = .opened → exec (.feedOpenRecovery hr) s = .next
      ((s.modFeed hr fun f => { f with st := .on }).raise (20 + hr.val) 3 [byte hr.val, 0, 0, 0])) ∧
    (∀ (s : State) (hr : Fin 4) (r : _) (m : _) (b : _), s.cap.feed[hr].on = false → exec (.feedLowbat hr m) s = .next s ∧ exec (.feedShort hr m) s = .next s ∧
      exec (.moduleRecordRead hr ⟨r, b⟩) s = .next s) ∧
    (∀ (s : State) (hr : Fin 4) (b : _), s.cap.feed[hr].on = true → s.cap.feed[hr].noModuleRaised = false → s.tw.port[0].stuck = false →
      ∃ (u : State), exec (.moduleRecordRead hr ⟨none, b⟩) s = .next u ∧ u.cap.feed[hr].present = false ∧ u.cap.feed[hr].staticOk = false ∧
        u.cap.feed[hr].lifeOk = false ∧ u.cap.feed[hr].lifePct = 255 ∧ u.cap.feed[hr].noModuleRaised = true ∧
        u = { s with cap := u.cap, tlm := u.tlm, freeCnt := s.freeCnt + 1, host := u.host, evt := u.evt }) ∧
    (∀ (s : State) (hr : Fin 4) (r : _) (b : _), s.cap.feed[hr].on = true → s.tw.port[0].stuck = false → r.length = 256 → staticPasses r = false →
      ∃ (u : State), exec (.moduleRecordRead hr ⟨some r, b⟩) s = .next u ∧ u.cap.feed[hr].present = true ∧ u.cap.feed[hr].record = r ∧
        u.cap.feed[hr].staticOk = false ∧ u.cap.feed[hr].lifePct = 255 ∧
        u = { s with cap := u.cap, tlm := u.tlm, freeCnt := s.freeCnt + 1, host := u.host, evt := u.evt }) ∧
    (∀ (s : State) (hr : Fin 4) (r : _) (b : _), s.cap.feed[hr].on = true → s.tw.port[0].stuck = false → r.length = 256 → staticPasses r = true →
      (b = true ∨ (currentLife r).isSome = true) →
      ∃ (u : State), exec (.moduleRecordRead hr ⟨some r, b⟩) s = .next u ∧ u.cap.feed[hr].present = true ∧ u.cap.feed[hr].staticOk = true ∧
        u.cap.feed[hr].lifeOk = true ∧ u.cap.feed[hr].mramId = slice r 8 8 ∧
        u = { s with cap := u.cap, tlm := u.tlm, freeCnt := s.freeCnt + 1, host := u.host, evt := u.evt }) ∧
    (∀ (s : State) (c : CmdEntry) (a : _) (b : _) (hr : Fin 4), s.takes 0x0206 c = true → c.bytes 24 4 = [byte hr.val, 0, 0, 0] → ∃ (w : _), exec (.capModule c ⟨a, b⟩) s = .next
      ((s.taken 0x0206 c).completesOk 0x0206 c (slice s.cap.feed[hr].record 8 8 ++ [s.cap.feed[hr].lifePct, byte w])
        (some (padTo 256 s.cap.feed[hr].record))) ∧
      w % 2 = b01 s.cap.feed[hr].present ∧ w / 2 % 2 = b01 s.cap.feed[hr].staticOk ∧ w / 4 % 2 = b01 s.cap.feed[hr].lifeOk) ∧
    (∀ (s : State) (c : CmdEntry) (a : _) (b : _) (hr : Fin 4), s.takes 0x0206 c = true → c.bytes 24 4 = [byte hr.val, 1, 0, 0] → s.cap.feed[hr].on = false →
      exec (.capModule c ⟨a, b⟩) s = .next ((s.taken 0x0206 c).finish 0x0206 c .state 0 [] none)) ∧
    (∀ (s : State) (hr : Fin 4) (r : _), s.cap.feed[hr].on = true → s.cap.feed[hr].staticOk = true → 60 ≤ s.cap.feed[hr].mramMinutes + s.cap.feed[hr].minutesOn s.sys.timeUs →
      s.tw.port[0].stuck = false → s.tw.port[0].run = none → s.tw.port[0].queue = [] → slice r 8 8 = s.cap.feed[hr].mramId →
      s.cap.feed[hr].lifeHours ≤ s.cap.feed[hr].mramHours →
      ∃ (u : State), exec (.lifeHourlyWrite hr (some r) true) s = .next u ∧ u.cap.feed[hr].mramHours = s.cap.feed[hr].mramHours + 1 ∧
        u.cap.feed[hr].lifeHours = s.cap.feed[hr].mramHours + 1 ∧ u.cap.feed[hr].lifeCycles = s.cap.feed[hr].mramCycles ∧
        u.cap.feed[hr].lifeB = !s.cap.feed[hr].lifeB ∧ u.cap.feed[hr].lifeSeq = s.cap.feed[hr].lifeSeq + 1 ∧
        u = { s with cap := u.cap, tlm := u.tlm, freeCnt := s.freeCnt + 1, host := u.host, evt := u.evt }) ∧
    (∀ (s : State) (hr : Fin 4) (r : _), s.cap.feed[hr].on = true → s.cap.feed[hr].staticOk = true → 60 ≤ s.cap.feed[hr].mramMinutes + s.cap.feed[hr].minutesOn s.sys.timeUs →
      s.tw.port[0].stuck = false → s.tw.port[0].run = none → s.tw.port[0].queue = [] → slice r 8 8 = s.cap.feed[hr].mramId →
      s.cap.feed[hr].lifeHours ≤ s.cap.feed[hr].mramHours →
      ∃ (u : State), exec (.lifeHourlyWrite hr (some r) false) s = .next u ∧ u.cap.feed[hr].mramHours = s.cap.feed[hr].mramHours + 1 ∧
        u.cap.feed[hr].lifeRetry = true ∧ u.cap.feed[hr].lifeHours = s.cap.feed[hr].lifeHours ∧ u.cap.feed[hr].record = s.cap.feed[hr].record ∧
        u = { s with cap := u.cap, tlm := u.tlm, freeCnt := s.freeCnt + 1 }) ∧
    (∀ (s : State) (hr : Fin 4) (b : _), s.cap.feed[hr].lifeRetry = true → s.tw.port[0].run.isSome = true → exec (.lifeWriteRetry hr b) s = .next
      (s.modFeed hr fun f => { f with lifeWait := some (f.lifeWait.getD s.sys.timeUs) })) ∧
    (∀ (s : State) (hr : Fin 4), s.cap.feed[hr].lifeRetry = true → s.tw.port[0].stuck = false → s.tw.port[0].run = none → s.tw.port[0].queue = [] →
      ∃ (u : State), exec (.lifeWriteRetry hr true) s = .next u ∧ u.cap.feed[hr].lifeRetry = false ∧ u.cap.feed[hr].lifeHours = s.cap.feed[hr].mramHours ∧
      u.cap.feed[hr].lifeSeq = s.cap.feed[hr].lifeSeq + 1 ∧ u.cap.feed[hr].lifeB = !s.cap.feed[hr].lifeB) ∧
    (∀ (s : State) (hr : Fin 4), s.cap.feed[hr].lifeRetry = true → s.tw.port[0].stuck = true → s.tw.port[0].run = none → s.tw.port[0].queue = [] →
      exec (.lifeWriteRetry hr false) s = .next
      ((s.modFeed hr fun f => { f with lifeRetry := false, lifeWait := none }).raise (24 + hr.val) 5 [byte hr.val, 0, 0, 0])) ∧
    (∀ (f : Feed) (hz : Nat), f.present = false ∨ f.staticOk = false → f.gain hz = (0, 1)) ∧
    (∀ (hz : Nat) (x : Nat × Int) (y : Nat × Int) (l : List (Nat × Int)), 10000 * x.1 < hz → hz ≤ 10000 * y.1 → tableGain hz (x :: y :: l) =
      (x.2 * (10000 * (y.1 - x.1) : Nat) + (y.2 - x.2) * ((hz : Int) - 10000 * x.1), 10000 * (y.1 - x.1)))

/-- R109 to R127 and R140: opening and closing a window, its coefficient banks and their swap. A leg number is the lowest free one (the model's choice, named in the log). -/
def Obligations.WindowsOpenAndClose : Prop :=
  (∀ (s : State) (c : CmdEntry) (win : Fin 64) (rn : Fin 32) (ant : Fin 4) (no : _) (p : _) (f : _), s.takes 0x0210 c = true → c.bytes 41 3 = [0, 0, 0] → c.u8 40 = 0 → c.u16 38 = 0 → c.u8 37 = 0xFF → c.u8 36 = 0 →
      c.u8 33 = 0xFF → c.bufIn = false → c.u8 27 ≤ 1 → c.u8 32 = 2 ^ ant.val → c.u8 25 = p → 1 ≤ p → p ≤ 5 → c.u8 26 = rn.val →
      presetRunner p rn.val = true → c.u32 28 = f → s.cap.hr[ant].bandOk p f = true → s.pwr.st = .run → 2 ≤ s.pwr.level.toNat →
      s.clk.lossInRun = false → s.cap.hr[ant].running = true → s.win.win[win].fantail = false →
      s.runnerFed rn = false → s.freeLegs.head? = some no → s.win.win[win].st = 0 →
      (c.u8 24 = win.val ∨ (c.u8 24 = 0xFF ∧ ∀ w : Fin 64, w < win → s.win.win[w].st ≠ 0)) →
      ∃ (u : State) (n : _) (g : _) (m : _) (l : _), exec (.winOpen c) s = .next (u.completesOk 0x0210 c
          ([byte win.val, byte no, 0xFF, 0xFF, 0xFF, 0] ++ leBytes 2 n ++ leBytes 4 g ++ leBytes 4 m) none) ∧
        (n, g, m) = (match p with | 1 => (34, 464600, 240) | 2 => (34, 232280, 120) | 3 => (46, 40770, 40) | 4 => (46, 81570, 80) | _ => (38, 6280, 15)) ∧
        u.win.win[win].st = 1 ∧ u.win.win[win].preset = p ∧ u.win.win[win].runner = rn ∧ u.win.win[win].freq = f ∧
        u.win.win[win].wide = decide (c.u8 27 = 1) ∧ u.win.win[win].shift = 8 ∧ u.win.win[win].nSettle = n ∧ u.win.win[win].withheld = n ∧
        u.win.win[win].mcic = m ∧ u.win.win[win].released = false ∧
        u.win.win[win].legs = #v[some l, none, none, none] ∧ l.no = no ∧ l.ant = ant ∧ l.nco = ncoWord s.cap.hr[ant] p f ∧ l.delay = 0 ∧
        (∀ w : Fin 64, w ≠ win → u.win.win[w] = s.win.win[w]) ∧ u.win.dstoreFree = s.win.dstoreFree ∧
        u = { s.taken 0x0210 c with win := u.win }) ∧
    (∀ (s : State) (c : CmdEntry) (win : Fin 64), s.takes 0x0210 c = true → firstFail (s.openRange c) = none → c.u8 24 = win.val → s.win.win[win].st ≠ 0 → s.win.win[win].fantail = false →
      s.windowOf (Fin.ofNat 32 (c.u8 26)) = none → s.pwr.st = .run → 2 ≤ s.pwr.level.toNat → s.clk.lossInRun = false →
      exec (.winOpen c) s = .next ((s.taken 0x0210 c).finish 0x0210 c .state 0 [] none)) ∧
    (∀ (s : State) (c : CmdEntry) (win : Fin 64) (w : _), s.takes 0x0210 c = true → firstFail (s.openRange c) = none → c.u8 24 = win.val → s.win.win[win].st = 0 → s.win.win[win].fantail = false →
      s.windowOf (Fin.ofNat 32 (c.u8 26)) = some w → s.win.win[w].fantail = false → (∀ ant : Fin 4, s.cap.hr[ant].running = true) →
      s.pwr.st = .run → 2 ≤ s.pwr.level.toNat → s.clk.lossInRun = false →
      exec (.winOpen c) s = .next ((s.taken 0x0210 c).finish 0x0210 c .busy 0 [] none)) ∧
    (∀ (s : State) (c : CmdEntry) (win : Fin 64) (f : _), s.takes 0x0211 c = true → c.bytes 24 4 = [byte win.val, byte f, 0, 0] → f ≤ 1 → s.below 2 = false → s.win.win[win].st ≠ 0 →
      s.win.win[win].closing = none → s.win.win[win].fantail = false → s.svc.run[s.win.win[win].runner].fm.lent = false →
      (f = 1 ∨ s.ctxsOf s.win.win[win].runner = []) →
      ∃ (u : State), exec (.winClose c) s = .next u ∧ u.win = (s.modWin win fun x => { x with closing := some (decide (f = 1), some c.id) }).win ∧
        u = { s with host := u.host, win := u.win }) ∧
    (∀ (s : State) (c : CmdEntry) (win : Fin 64), s.takes 0x0211 c = true → c.bytes 24 4 = [byte win.val, 0, 0, 0] → s.below 2 = false → s.win.win[win].st ≠ 0 →
      s.win.win[win].closing = none → s.win.win[win].fantail = false → s.svc.run[s.win.win[win].runner].fm.lent = false →
      s.ctxsOf s.win.win[win].runner ≠ [] → exec (.winClose c) s = .next ((s.taken 0x0211 c).finish 0x0211 c .busy 0 [] none)) ∧
    (∀ (s : State) (win : Fin 64) (slot : _), s.win.win[win].closing = some (false, some slot) → ∃ (u : State), exec (.winCloseEffect win) s = .next (u.finishSlot 0x0211 slot .ok 0 [] none) ∧
      u.win.win[win] = {} ∧ (∀ w : Fin 64, w ≠ win → u.win.win[w] = s.win.win[w]) ∧
      u.win.dstoreFree = s.win.dstoreFree + (s.win.win[win].legs.toList.map fun l => (l.map Leg.storeBlocks).getD 0).sum ∧
      u.svc = (s.modRun s.win.win[win].runner Runner.cleared).svc ∧ u = { s with win := u.win, svc := u.svc, dma := u.dma }) ∧
    (∀ (s : State) (win : Fin 64), s.win.win[win].closing = none → exec (.winCloseEffect win) s = .next s) ∧
    (∀ (s : State) (c : CmdEntry) (win : Fin 64) (b : _) (t : _), s.takes 0x0214 c = true → c.bytes 24 4 = [byte win.val, byte (b01 b), byte t, 0] → 1 ≤ t → t ≤ 192 → c.bufIn = true →
      c.bufLen.toNat = 4 * ((t + 1) / 2) → coefsOk t c = true → s.below 2 = false → s.win.win[win].st ≠ 0 → s.win.win[win].closing = none →
      exec (.winCoef c) s = .next (if s.win.win[win].bank = b then (s.taken 0x0214 c).finish 0x0214 c .busy 0 [] none
        else ((s.taken 0x0214 c).modWin win fun x => { x with banks := x.banks.set (if b then 1 else 0) { t := t, builtin := false, coef := coefWords ((t + 1) / 2) c.buf } (by split <;> decide) }).completesOk 0x0214 c [] none)) ∧
    (∀ (s : State) (c : CmdEntry) (win : Fin 64) (b : _), s.takes 0x0215 c = true → c.bytes 24 4 = [byte win.val, byte (b01 b), 0, 0] → s.pwr.st = .run → 2 ≤ s.pwr.level.toNat →
      s.clk.lossInRun = false → s.win.win[win].st ≠ 0 → s.win.win[win].closing = none → s.win.win[win].bank ≠ b → s.win.win[win].loaded b = true →
      ∃ (u : State) (q : _), exec (.winBank c) s = .next u ∧ u.win = (s.modWin win fun x => { x with swap := some q }).win ∧ q.bank = b ∧ q.ratio = false ∧
          q.slot = c.id ∧ q.mcic = s.win.win[win].mcic ∧ q.mcf = s.win.win[win].mcf ∧ q.h = s.win.win[win].h ∧ q.mfir = s.win.win[win].mfir ∧
          q.shift = s.win.win[win].shift ∧ u = { s with host := u.host, win := u.win }) ∧
    (∀ (s : State) (c : CmdEntry) (win : Fin 64) (b : _), s.takes 0x0215 c = true → c.bytes 24 4 = [byte win.val, byte (b01 b), 0, 0] → s.pwr.st = .run → 2 ≤ s.pwr.level.toNat →
      s.clk.lossInRun = false → (s.win.win[win].st = 0 ∨ s.win.win[win].bank = b) →
      exec (.winBank c) s = .next ((s.taken 0x0215 c).finish 0x0215 c .state 0 [] none)) ∧
    (∀ (s : State) (win : Fin 64) (q : _), s.win.win[win].swap = some q → q.ratio = false → ∃ (u : State), exec (.bankSwapEffect win) s = .next (u.finishSlot 0x0215 q.slot .ok 0 [] none) ∧
      u = s.modWin win (fun x => { x with
        swap := none, bank := q.bank, h := q.h, mcic := q.mcic, mcf := q.mcf, mfir := q.mfir, shift := q.shift, st := 1, change := .bank, nSettle := u.win.win[win].nSettle, withheld := u.win.win[win].nSettle, disc := if x.released then min (2 ^ 24 - 1) (x.disc + u.win.win[win].nSettle) else 0 }) ∧
      u.win.win[win].nSettle = (5 * (q.mcic - 1) + 31 * q.mcic + 22 * q.mcic * q.mcf * (2 ^ q.h - 1) +
        ((if q.bank then s.win.win[win].banks[1].t else s.win.win[win].banks[0].t) - 1) * q.mcic * q.mcf * 2 ^ q.h +
        (s.win.win[win].maxD + 3) * presetTotal s.win.win[win].preset + presetTotal s.win.win[win].preset - 1) / presetTotal s.win.win[win].preset + 2) ∧
    (∀ (s : State) (win : Fin 64), s.win.win[win].swap = none → exec (.bankSwapEffect win) s = .next s) ∧
    (∀ (s : State) (c : CmdEntry), s.takes 0x0211 c = true → c.u8 24 ≤ 63 → c.bytes 25 3 = [0, 0, 0] → s.pwr.st = .run → s.pwr.level.toNat ≤ 1 →
      (∀ w : Fin 64, s.win.win[w].fantail = false) → exec (.winClose c) s = .next ((s.taken 0x0211 c).finish 0x0211 c .power 0 [] none))

/-- R111 to R131 and R140: changes to an open window. G is rounded by a free value only where it lies exactly half way (log 105). -/
def Obligations.WindowSettingsChange : Prop :=
  (∀ (s : State) (c : CmdEntry) (win : Fin 64) (f : _), s.takes 0x0212 c = true → c.bytes 24 4 = [byte win.val, 0, 0, 0] → c.u32 28 = f → s.tuneBad win f = false → s.pwr.st = .run → 2 ≤ s.pwr.level.toNat → s.clk.lossInRun = false → s.win.win[win].st ≠ 0 → s.win.win[win].closing = none →
      s.win.win[win].released = false → s.win.win[win].fantail = false → s.svc.run[s.win.win[win].runner].fm.lent = false →
      exec (.winTune c) s = .next (((s.taken 0x0212 c).modWin win fun x => { x with
        freq := f, st := 1, change := .nco, nSettle := x.settle, withheld := x.settle, disc := 0, legs := x.legs.map fun l => l.map fun l => { l with nco := ncoWord s.cap.hr[l.ant] x.preset f } }).completesOk 0x0212 c [] none)) ∧
    (∀ (s : State) (c : CmdEntry) (win : Fin 64) (f : _), s.takes 0x0212 c = true → c.bytes 24 4 = [byte win.val, 0, 0, 0] → c.u32 28 = f → s.tuneBad win f = false → s.pwr.st = .run → 2 ≤ s.pwr.level.toNat → s.clk.lossInRun = false → s.win.win[win].st ≠ 0 → s.win.win[win].closing = none →
      s.win.win[win].released = true → s.win.win[win].fantail = false → s.svc.run[s.win.win[win].runner].fm.lent = false →
      ∃ (u : State), exec (.winTune c) s = .next (u.completesOk 0x0212 c [] none) ∧ u.win = (s.modWin win fun x => { x with
          freq := f, st := 1, change := .nco, nSettle := x.settle, withheld := x.settle, disc := min (2 ^ 24 - 1) (x.disc + x.settle), legs := x.legs.map fun l => l.map fun l => { l with nco := ncoWord s.cap.hr[l.ant] x.preset f } }).win ∧
        (∀ n : Fin 256, u.svc.ctx[n].st = if s.svc.ctx[n].runner = s.win.win[win].runner ∧ s.svc.ctx[n].st = .running then .acquiring else s.svc.ctx[n].st) ∧
        u = { s with host := u.host, evt := u.evt, win := u.win, svc := u.svc, tlm := u.tlm, freeCnt := u.freeCnt }) ∧
    (∀ (s : State) (c : CmdEntry) (win : Fin 64), s.takes 0x0212 c = true → c.bytes 24 4 = [byte win.val, 0, 0, 0] → s.tuneBad win (c.u32 28) = true →
      exec (.winTune c) s = .next ((s.taken 0x0212 c).finish 0x0212 c .range 28 [] none)) ∧
    (∀ (s : State) (c : CmdEntry) (win : Fin 64), s.takes 0x0212 c = true → c.bytes 24 4 = [byte win.val, 0, 0, 0] → s.tuneBad win (c.u32 28) = false → s.pwr.st = .run →
      2 ≤ s.pwr.level.toNat → s.clk.lossInRun = false → s.win.win[win].st = 0 →
      exec (.winTune c) s = .next ((s.taken 0x0212 c).finish 0x0212 c .state 0 [] none)) ∧
    (∀ (s : State) (c : CmdEntry) (win : Fin 64) (b : _) (sp : _), s.takes 0x0213 c = true → c.bytes 24 8 = [byte win.val, byte (c.u8 25), byte (c.u8 26), byte (c.u8 27), byte (b01 b), 0xFF, 0, 0] →
      split s.win.win[win].preset (c.u8 25) (c.u8 26) (c.u8 27) = some sp → s.pwr.st = .run → 2 ≤ s.pwr.level.toNat → s.clk.lossInRun = false → s.win.win[win].st ≠ 0 → s.win.win[win].closing = none → s.win.win[win].loaded b = true →
      s.svc.run[s.win.win[win].runner].fm.lent = false →
      ∃ (u : State) (q : _), exec (.winRatio c) s = .next u ∧ u.win = (s.modWin win fun x => { x with swap := some q }).win ∧ q.bank = b ∧ q.ratio = true ∧
        q.slot = c.id ∧ q.mcic = sp.mcic ∧ q.mcf = sp.mcf ∧ q.h = sp.h ∧ q.mfir = sp.mfir ∧ q.shift = s.win.win[win].shift ∧
        sp.mcic * sp.mcf * 2 ^ sp.h * sp.mfir = presetTotal s.win.win[win].preset ∧ u = { s with host := u.host, win := u.win }) ∧
    (∀ (s : State) (win : Fin 64) (q : _), s.win.win[win].swap = some q → q.ratio = true → ∃ u : State, exec (.bankSwapEffect win) s = .next (u.finishSlot 0x0213 q.slot .ok 0
        (List.replicate 6 0 ++ leBytes 2 u.win.win[win].nSettle ++ leBytes 4 u.win.win[win].groupDelay ++ leBytes 4 q.mcic) none) ∧
      u.win.win[win].mcic = q.mcic ∧ u.win.win[win].bank = q.bank ∧ u.win.win[win].shift = q.shift ∧ u.win.win[win].swap = none ∧
      u.win.win[win].st = 1 ∧ u.win.win[win].change = .ratio ∧ u.win.win[win].nSettle = u.win.win[win].settle ∧
      u.win.win[win].withheld = u.win.win[win].settle ∧
      (∀ w : Fin 64, w ≠ win → u.win.win[w] = s.win.win[w]) ∧ u = { s with win := u.win }) ∧
    (∀ (s : State) (c : CmdEntry) (win : Fin 64) (d : _), s.takes 0x0216 c = true → c.bytes 24 4 = [byte win.val, 0xFF, 1, 0] → d = 1024 * c.u16 28 + c.u16 30 → c.u16 28 ≤ s.win.win[win].dcap →
      c.u16 30 ≤ 1023 → s.pwr.st = .run → 2 ≤ s.pwr.level.toNat → s.clk.lossInRun = false → s.win.win[win].st ≠ 0 → s.win.win[win].closing = none → s.ctxsOf s.win.win[win].runner = [] →
      exec (.winDelay c) s = .next (((s.taken 0x0216 c).modWin win fun x => { x with legs := x.legs.map fun l => l.map fun l => { l with target := d, delayNext := none } }).completesOk 0x0216 c [] none)) ∧
    (∀ (s : State) (c : CmdEntry) (win : Fin 64) (l : _) (d : _), ∀ p : Fin 4, s.takes 0x0216 c = true → c.bytes 24 4 = [byte win.val, byte p.val, 0, 0] → d = 1024 * c.u16 28 + c.u16 30 →
      c.u16 28 ≤ s.win.win[win].dcap → c.u16 30 ≤ 1023 → s.pwr.st = .run → 2 ≤ s.pwr.level.toNat → s.clk.lossInRun = false → s.win.win[win].st ≠ 0 → s.win.win[win].closing = none → s.ctxsOf s.win.win[win].runner = [] → s.win.win[win].legs[p] = some l →
      exec (.winDelay c) s = .next (((s.taken 0x0216 c).modWin win fun x => { x with
        legs := x.legs.set p (some { l with delayNext := some d }) }).completesOk 0x0216 c [] none)) ∧
    (∀ (s : State) (c : CmdEntry) (win : Fin 64), s.takes 0x0216 c = true → c.u8 24 = win.val → (c.u8 25 ≤ 3 ∨ c.u8 25 = 0xFF) → c.u8 26 ≤ 1 → c.u8 27 = 0 → s.win.win[win].st ≠ 0 →
      s.win.win[win].dcap < c.u16 28 → exec (.winDelay c) s = .next ((s.taken 0x0216 c).finish 0x0216 c .range 28 [] none)) ∧
    (∀ (s : State) (c : CmdEntry) (win : Fin 64), ∀ p : Fin 4, s.takes 0x0216 c = true → c.bytes 24 4 = [byte win.val, byte p.val, 0, 0] → c.u16 28 ≤ s.win.win[win].dcap → c.u16 30 ≤ 1023 →
      s.pwr.st = .run → 2 ≤ s.pwr.level.toNat → s.clk.lossInRun = false → s.win.win[win].st ≠ 0 → s.win.win[win].closing = none → s.win.win[win].legs[p] = none → exec (.winDelay c) s = .next ((s.taken 0x0216 c).finish 0x0216 c .notfound 0 [] none)) ∧
    (∀ (s : State) (c : CmdEntry) (win : Fin 64) (ant : Fin 4) (no : _), ∀ p : Fin 4, s.takes 0x0217 c = true → c.bytes 24 4 = [byte win.val, 0, byte ant.val, 0] → s.pwr.st = .run → 2 ≤ s.pwr.level.toNat → s.clk.lossInRun = false → s.win.win[win].st ≠ 0 → s.win.win[win].closing = none →
      s.cap.hr[ant].bandOk s.win.win[win].preset s.win.win[win].freq = true → s.cap.hr[ant].running = true → s.win.win[win].antPos ant = none →
      s.win.win[win].legs[p] = none → (∀ j : Fin 4, j < p → s.win.win[win].legs[j].isSome = true) → s.freeLegs.head? = some no → s.win.win[win].dcap = 0 →
      ∃ (u : State) (l : _), exec (.winLeg c) s = .next (u.completesOk 0x0217 c [byte p.val, byte no] none) ∧ l.no = no ∧ l.ant = ant ∧
        l.nco = ncoWord s.cap.hr[ant] s.win.win[win].preset s.win.win[win].freq ∧ l.settling = s.win.win[win].settle ∧ l.delay = 0 ∧
        u = (s.taken 0x0217 c).modWin win fun x => { x with legs := x.legs.set p (some l) }) ∧
    (∀ (s : State) (c : CmdEntry) (win : Fin 64) (l : _), ∀ p : Fin 4, s.takes 0x0217 c = true → c.bytes 24 4 = [byte win.val, 1, byte p.val, 0] → s.pwr.st = .run → 2 ≤ s.pwr.level.toNat → s.clk.lossInRun = false → s.win.win[win].st ≠ 0 → s.win.win[win].closing = none → s.win.win[win].legs[p] = some l →
      l.leaving = false → 2 ≤ s.win.win[win].staying → exec (.winLeg c) s = .next (((s.taken 0x0217 c).modWin win fun x => { x with
        legs := x.legs.set p (some { l with leaving := true }) }).completesOk 0x0217 c [byte p.val, byte l.no] none)) ∧
    (∀ (s : State) (c : CmdEntry) (win : Fin 64) (l : _), ∀ p : Fin 4, s.takes 0x0217 c = true → c.bytes 24 4 = [byte win.val, 1, byte p.val, 0] → s.pwr.st = .run → 2 ≤ s.pwr.level.toNat → s.clk.lossInRun = false → s.win.win[win].st ≠ 0 → s.win.win[win].closing = none → s.win.win[win].legs[p] = some l →
      l.leaving = false → s.win.win[win].staying = 1 → exec (.winLeg c) s = .next ((s.taken 0x0217 c).finish 0x0217 c .state 0 [] none)) ∧
    (∀ (s : State) (win : Fin 64), ∃ (u : State), exec (.legRemoveEffect win) s = .next u ∧ (∀ p : Fin 4, u.win.win[win].legs[p] =
        if s.win.win[win].legs[p].map Leg.leaving = some true then none else s.win.win[win].legs[p]) ∧
      (∀ w : Fin 64, w ≠ win → u.win.win[w] = s.win.win[w]) ∧
      u.win.dstoreFree = s.win.dstoreFree + (s.win.win[win].legs.toList.map fun l => match l with | some l => if l.leaving then l.storeBlocks else 0 | none => 0).sum ∧
      u = { s with win := u.win, dma := u.dma })

/-- R13 and R117 to R142: what a window delivers, its events, its combiner, and the scan bank. Entries never measured are free values (log 1); which jump counts when several legs change is the model's choice (log 109). -/
def Obligations.WindowOutputAndScan : Prop :=
  (∀ (s : State) (win : Fin 64) (l : _) (n : _), ∀ p : Fin 4, s.win.win[win].legs[p] = some l → l.stopped = none → n ≠ 0 → l.no < 128 → Tlm.wf s.tlm = true →
      ∃ (u : State), exec (.legOverrun win p n) s = .next u ∧ u.win = (s.modWin win fun x => { x with
        satSince := u.win.win[win].satSince, legs := x.legs.set p (some { l with
          chain := ((Sys2Proof.Machine.zeros n n).foldl (Chain.push s.win.win[win] l.nco) (l.chain, Vector.replicate 7 0)).1 }) }).win ∧
      Tlm.get u.tlm (0x7004 + 16 * l.no) = Tlm.get s.tlm (0x7004 + 16 * l.no) + BitVec.ofNat 32 n ∧
      u = { s with win := u.win, flags := u.flags, tlm := u.tlm, host := u.host, evt := u.evt }) ∧
    (∀ (s : State) (win : Fin 64) (n : _), ∀ p : Fin 4, (s.win.win[win].legs[p] = none ∨ n = 0) → exec (.legOverrun win p n) s = .next s) ∧
    (∀ (x : Window) (v : Vector Nat 7) (r : Window), r = (Window.emit (x, v)).1 → r.count = x.count + 1 ∧ r.withheld = x.withheld - 1 ∧
      (x.withheld ≠ 0 → x.released = false → r.ready = x.ready ∧ r.disc = x.disc) ∧
      (x.withheld ≠ 0 → x.released = true → r.ready.take x.ready.length = x.ready ∧ r.ready.length = x.ready.length + 1 ∧ r.disc = 0 ∧
        r.ready.getLast?.map OutSmp.ts = some (x.stamp x.count) ∧ r.ready.getLast?.map OutSmp.disc = some x.disc ∧
        r.ready.getLast?.map OutSmp.mask = some (x.mask fun _ => true) ∧
        r.ready.getLast?.map (fun o => o.vals.all fun z => decide (z = (0, 0))) = some true) ∧
      (x.withheld = 0 → r.ready.take x.ready.length = x.ready ∧ r.ready.length = x.ready.length + 1 ∧ r.disc = 0 ∧
        r.ready.getLast?.map OutSmp.ts = some (x.stamp x.count) ∧ r.ready.getLast?.map OutSmp.disc = some x.disc)) ∧
    (∀ (x : Window) (n : D) (k : Nat), x.start = some n → x.delay2048 * adcPer x.preset % 2048 = 0 → x.stamp k =
      n + BitVec.ofNat 64 (k * presetTotal x.preset * adcPer x.preset) - BitVec.ofNat 64 (x.delay2048 * adcPer x.preset / 2048)) ∧
    (∀ (x : Window) (a : IQ) (v : IQ) (o : Bool), x.combines = true → x.wide = true → (x.outputs [(a, v, o)]).1 = [(clip 24 (v.1 * 2 ^ x.shift), clip 24 (v.2 * 2 ^ x.shift))]) ∧
    (∀ (a : IQ) (d : IQ) (v : IQ) (z : IQ), combined [(a, v, false), (d, z, false)] = cadd (cmul a v) (cmul d z) ∧
      combined [(a, v, false), (d, z, true)] = csum ((normWeights [a]).map fun e => cmul e v)) ∧
    (∀ (s : State) (win : Fin 64) (v : Vector Nat 7) (i : Fin 7), v[i] ≠ 0 → (s.saturate win v).flag (slotSat win) i.val = true) ∧
    (∀ (s : State) (win : Fin 64) (b : RaceIn) (t : State) (y : Window), t = s.feedWin win b → y = t.win.win[win] → s.win.win[win].st ≠ 0 → y.ready.length ≠ 64 → exec (.winOutputBlock win b) s = .next t) ∧
    (∀ (s : State) (win : Fin 64) (b : RaceIn) (t : State) (y : Window), t = s.feedWin win b → y = t.win.win[win] → s.win.win[win].st ≠ 0 → y.ready.length = 64 →
      ∃ (u : State), exec (.winOutputBlock win b) s = .next u ∧ u.win.win[win] = { y with
          legs := u.win.win[win].legs, ready := [], block := y.ready, blocks := y.blocks + 1, lastTs := (y.ready.head?.map OutSmp.ts).getD 0, disc := min (2 ^ 24 - 1) (y.disc + (y.legs.toList.map fun l => (l.map Leg.delayJump).getD 0).foldl max 0) } ∧
        (∀ p : Fin 4, u.win.win[win].legs[p] = y.legs[p].map fun l => { l with
          delay := l.delayNext.getD l.delay, target := l.delayNext.getD l.target, delayNext := none, marked := (blockMask y.ready).testBit p.val, lost := 0, stopDue := l.stopDue && !(blockMask y.ready).testBit p.val, blockSub := 0, returned := 0 }) ∧
        (blockMask y.ready ≠ y.mask (fun _ => true) → u.svc.run[y.runner].gap = none ∧ u.svc.ctx = t.svc.ctx) ∧
        (∀ w : Fin 64, w ≠ win → u.win.win[w] = t.win.win[w]) ∧
        u = { t with win := u.win, svc := u.svc, tlm := u.tlm, host := u.host, evt := u.evt, freeCnt := u.freeCnt }) ∧
    (∀ (s : State) (win : Fin 64) (b : RaceIn) (t : State) (y : Window), t = s.feedWin win b → y = t.win.win[win] → s.win.win[win].st = 1 → y.withheld ≠ 0 → exec (.winSettled win b) s = .next t) ∧
    (∀ (s : State) (win : Fin 64) (b : RaceIn) (t : State) (y : Window), t = s.feedWin win b → y = t.win.win[win] → s.win.win[win].st = 1 → y.withheld = 0 →
      ∃ (u : State), exec (.winSettled win b) s = .next u ∧ u.win.win[win].st = 2 ∧ u.win.win[win].released = true ∧ u.svc.run[y.runner].active = true ∧
        (∀ w : Fin 64, w ≠ win → u.win.win[w] = t.win.win[w]) ∧
        (∀ p : Fin 4, y.legs[p].isSome = true → (∀ q : Fin 4, q ≠ p → y.legs[q].isSome = true → y.power q < y.power p) →
          ∀ q : Fin 4, u.win.win[win].legs[q].map Leg.weight = y.legs[q].map fun _ => if q = p then (65536, 0) else (0, 0)) ∧
        u = { t with win := u.win, svc := u.svc, host := u.host, evt := u.evt }) ∧
    (∀ (s : State) (win : Fin 64) (b : RaceIn), s.win.win[win].st ≠ 1 → exec (.winSettled win b) s = .next s) ∧
    (∀ (s : State) (win : Fin 64) (b : RaceIn) (t : State) (y : Window), t = s.feedWin win b → y = t.win.win[win] → s.win.win[win].st ≠ 0 → y.st = 2 → y.preset = 1 ∨ y.preset = 3 → 2 ≤ y.positions.length →
      y.fresh ≠ 0 → ∃ (u : State), exec (.cmaUpdate win b) s = .next u ∧ (∀ p : Fin 4, u.win.win[win].legs[p].map (fun l => { l with weight := (0, 0) }) =
          y.legs[p].map (fun l => { l with weight := (0, 0) })) ∧
        (∀ p : Fin 4, (y.recent.take y.fresh).any (fun v => decide (v[p].map Prod.snd = some true)) = true → u.win.win[win].legs[p] = y.legs[p]) ∧
        u.win = (t.modWin win fun x => { x with fresh := 0, legs := u.win.win[win].legs }).win ∧ u = { t with win := u.win, freeCnt := t.freeCnt + 8 }) ∧
    (∀ (s : State) (win : Fin 64) (b : RaceIn) (t : State) (y : Window), t = s.feedWin win b → y = t.win.win[win] → s.win.win[win].st ≠ 0 → (y.st ≠ 2 ∨ y.positions.length < 2) →
      exec (.cmaUpdate win b) s = .next (t.modWin win fun x => { x with fresh := 0 })) ∧
    (∀ (s : State) (win : Fin 64) (b : RaceIn), s.win.win[win].st = 0 → exec (.winOutputBlock win b) s = .next s ∧ exec (.cmaUpdate win b) s = .next s) ∧
    (∀ (s : State) (m : _), s.win.scanCtl.getLsbD 0 = true → ∃ (u : State), exec (.scanFmPass m) s = .next u ∧
      (∀ ant : Fin 4, u.win.scanFm[ant].length = if s.win.scanCtl.getLsbD (8 + ant.val) then 641 else s.win.scanFm[ant].length) ∧
      (∀ ant : Fin 4, u.cap.hr[ant] = { s.cap.hr[ant] with vSpan := s.cap.hr[ant].vSettling }) ∧
      u = { s with win := { s.win with scanFm := u.win.scanFm, scanLost := u.win.scanLost }, cap := { s.cap with hr := u.cap.hr }, tlm := u.tlm, freeCnt := s.freeCnt + 2564, host := u.host, evt := u.evt }) ∧
    (∀ (s : State) (m : _) (ant : Fin 4) (i : _) (o : _), s.win.scanCtl.getLsbD 0 = true → s.win.scanCtl.getLsbD (8 + ant.val) = true → i < 641 → (m.getD ant.val [])[i]? = some o →
      ∃ (u : State), exec (.scanFmPass m) s = .next u ∧
        (s.cap.hr[ant].samples = false → u.win.scanFm[ant][i]?.map ScanEntry.flags = some 4) ∧
        (s.cap.hr[ant].samples = true → s.cap.hr[ant].scans false i = false → u.win.scanFm[ant][i]?.map ScanEntry.flags = some 2) ∧
        (s.cap.hr[ant].samples = true → s.cap.hr[ant].scans false i = true → o.skipped = true → u.win.scanFm[ant][i]?.map ScanEntry.flags = some 8) ∧
        (s.cap.hr[ant].samples = true → s.cap.hr[ant].scans false i = true → o.skipped = false → s.cap.hr[ant].vSpan = false →
          u.win.scanFm[ant][i]? = some { level := BitVec.ofInt 16 (s.cap.feed[ant].level (1000 * (76000 + 50 * i)) o.level), mpx := byte (min 255 o.mpx), null := 0, age := 0, flags := 1 })) ∧
    (∀ (s : State) (m : _), s.win.scanCtl.getLsbD 1 = true → ∃ (u : State), exec (.scanDabPass m) s = .next u ∧
      (∀ ant : Fin 4, u.win.scanDab[ant].length = if s.win.scanCtl.getLsbD (8 + ant.val) then 38 else s.win.scanDab[ant].length) ∧
      (∀ ant : Fin 4, u.cap.hr[ant] = { s.cap.hr[ant] with bSpan := s.cap.hr[ant].bSettling }) ∧
      u = { s with win := { s.win with scanDab := u.win.scanDab, scanLost := u.win.scanLost }, cap := { s.cap with hr := u.cap.hr }, tlm := u.tlm, freeCnt := s.freeCnt + 152, host := u.host, evt := u.evt }) ∧
    (∀ (s : State) (m : _) (ant : Fin 4) (i : _) (o : _), s.win.scanCtl.getLsbD 1 = true → s.win.scanCtl.getLsbD (8 + ant.val) = true → i < 38 → (m.getD ant.val [])[i]? = some o →
      s.cap.hr[ant].samples = true → s.cap.hr[ant].scans true i = true → o.skipped = false → s.cap.hr[ant].bSpan = false →
      ∃ (u : State), exec (.scanDabPass m) s = .next u ∧ u.win.scanDab[ant][i]? = some {
        level := BitVec.ofInt 16 (s.cap.feed[ant].level (1000 * dabBlocks.getD i 0) o.level), mpx := byte (min 255 o.mpx), null := byte (min 255 o.null), age := 0, flags := 1 }) ∧
    (∀ (s : State) (m : _), (s.win.scanCtl.getLsbD 0 = false → exec (.scanFmPass m) s = .next s) ∧ (s.win.scanCtl.getLsbD 1 = false → exec (.scanDabPass m) s = .next s)) ∧
    (∀ (s : State) (c : CmdEntry) (ant : Fin 4), s.takes 0x0218 c = true → c.bytes 24 4 = [1, byte ant.val, 0, 0] → c.bufLen = 304 → s.win.scanDab[ant].length = 38 →
      exec (.winScanRead c) s = .next (({ s.taken 0x0218 c with freeCnt := s.freeCnt + 38 }).completesOk 0x0218 c []
        (some (s.win.scanDab[ant].flatMap ScanEntry.bytes)))) ∧
    (∀ (s : State) (c : CmdEntry) (ant : Fin 4), s.takes 0x0218 c = true → c.bytes 24 4 = [0, byte ant.val, 0, 0] → c.bufLen = 5128 → s.win.scanFm[ant].length = 641 →
      exec (.winScanRead c) s = .next (({ s.taken 0x0218 c with freeCnt := s.freeCnt + 641 }).completesOk 0x0218 c []
        (some (s.win.scanFm[ant].flatMap ScanEntry.bytes))))

/-- R20 to R23, R144 and R161 to R166: the service commands and the settings of the FM and AM runners. -/
def Obligations.ServiceCommandsComplete : Prop :=
  (∀ (s : State) (c : CmdEntry) (ctx : Fin 256) (rn : Fin 32) (kind : _), s.takes 0x0301 c = true → c.u8 24 = ctx.val → ctx.val ≠ 255 → c.u8 25 = kind → c.u8 26 = rn.val → firstFail (openSvcRange c) = none →
      s.below 2 = false → s.svc.ctx[ctx].st = .free → s.noHandle rn (BitVec.ofNat 32 (c.u32 28)) = false → (∀ k : Fin 256, s.svc.ctx[k].shadowOf = none) →
      s.overLimit rn kind (BitVec.ofNat 32 (c.u32 28)) = false → (kind = 0 → 24 ≤ rn.val → s.freeDecoder.isSome = true) → s.followed.length < 16 →
      s.svc.run[rn].fm.lent = false → s.routeHeld kind (c.u8 27) = false →
      ∃ (u : State), exec (.svcOpen c) s = .next u ∧
        u.svc = ((s.modCtx ctx fun x => { (s.openWith c) with st := .opening, gen := x.gen + 1, staged := x.staged, openSlot := some c.id }).svc) ∧
        (s.openWith c).kind = BitVec.ofNat 4 kind ∧
        (s.openWith c).runner = rn ∧ (s.openWith c).component = BitVec.ofNat 32 (c.u32 28) ∧ (s.openWith c).route = byte (c.u8 27) ∧
        (s.openWith c).follow = decide (c.u8 32 = 1) ∧ u.fan.follow[ctx] = {} ∧ (∀ k : Fin 256, k ≠ ctx → u.fan.follow[k] = s.fan.follow[k]) ∧
        u = { s with svc := u.svc, fan := u.fan, host := u.host, evt := u.evt }) ∧
    (∀ (s : State) (ctx : Fin 256) (k : _), s.svc.ctx[ctx].st = .opening → s.svc.ctx[ctx].openSlot = some k → s.ctxOpened ctx =
      ((s.moveCtx ctx .acquiring 0).modCtx ctx fun x => { x with openSlot := none }).finishSlot 0x0301 k .ok 0 [byte ctx.val, s.svc.ctx[ctx].gen] none) ∧
    (∀ (s : State) (c : CmdEntry) (ctx : Fin 256) (rn : Fin 32), s.takes 0x0301 c = true → c.u8 24 = ctx.val → ctx.val ≠ 255 → c.u8 26 = rn.val → firstFail (openSvcRange c) = none → s.below 2 = false →
      s.svc.ctx[ctx].st ≠ .free → exec (.svcOpen c) s = .next ((s.taken 0x0301 c).finish 0x0301 c .state 0 [] none)) ∧
    (∀ (s : State) (c : CmdEntry) (ctx : Fin 256) (rn : Fin 32) (kind : _), s.takes 0x0301 c = true → c.u8 24 = ctx.val → ctx.val ≠ 255 → c.u8 25 = kind → c.u8 26 = rn.val → firstFail (openSvcRange c) = none →
      s.below 2 = false → s.svc.ctx[ctx].st = .free → s.noHandle rn (BitVec.ofNat 32 (c.u32 28)) = false → (∀ k : Fin 256, s.svc.ctx[k].shadowOf = none) →
      s.overLimit rn kind (BitVec.ofNat 32 (c.u32 28)) = true → exec (.svcOpen c) s = .next ((s.taken 0x0301 c).finish 0x0301 c .nores 0 [] none)) ∧
    (∀ (s : State) (c : CmdEntry), s.takes 0x0301 c = true → c.u8 25 = 4 → c.u8 26 ≤ 27 → exec (.svcOpen c) s = .next ((s.taken 0x0301 c).finish 0x0301 c .range 25 [] none)) ∧
    (∀ (s : State) (c : CmdEntry) (ctx : Fin 256), s.takes 0x0302 c = true → c.bytes 24 4 = [byte ctx.val, 0, 0, 0] → s.svc.ctx[ctx].st ≠ .free → s.svc.ctx[ctx].st ≠ .closing →
      s.svc.ctx[ctx].runner.val < 24 → s.svc.ctx[ctx].kind ≠ 0 → s.svc.ctx[ctx].follow = false → s.svc.ctx[ctx].shadowOf = none →
      ∃ (u : State), exec (.svcClose c) s = .next u ∧ u.svc = (s.modCtx ctx fun x => { x with st := .closing, closeSlot := x.closeSlot ++ [c.id], openSlot := none }).svc ∧
        u = { s with svc := u.svc, host := u.host, evt := u.evt }) ∧
    (∀ (s : State) (c : CmdEntry) (ctx : Fin 256), s.takes 0x0302 c = true → c.bytes 24 4 = [byte ctx.val, 0, 0, 0] → s.svc.ctx[ctx].st = .closing →
      ∃ (u : State), exec (.svcClose c) s = .next u ∧ u.svc = (s.modCtx ctx fun x => { x with closeSlot := x.closeSlot ++ [c.id] }).svc ∧
        u = { s with svc := u.svc, host := u.host }) ∧
    (∀ (s : State) (c : CmdEntry) (ctx : Fin 256), s.takes 0x0302 c = true → c.bytes 24 4 = [byte ctx.val, 0, 0, 0] → s.svc.ctx[ctx].st = .free →
      exec (.svcClose c) s = .next ((s.taken 0x0302 c).finish 0x0302 c .state 0 [] none)) ∧
    (∀ (s : State) (ctx : Fin 256), s.svc.ctx[ctx].st = .closing → ∃ (u : State), exec (.contextClosed ctx) s = .next u ∧ u.svc = (s.modCtx ctx fun x => { gen := x.gen, staged := x.staged.filter fun u => decide (u.written ≠ 0) }).svc ∧
      u.aud = { s.aud with poolFree := s.aud.poolFree + s.svc.ctx[ctx].delay.toNat } ∧ u = { s with svc := u.svc, aud := u.aud, dma := u.dma, host := u.host, evt := u.evt }) ∧
    (∀ (s : State) (ctx : Fin 256), s.svc.ctx[ctx].st ≠ .closing → exec (.contextClosed ctx) s = .next s) ∧
    (∀ (s : State) (c : CmdEntry) (rn : Fin 32), s.takes 0x0303 c = true → c.bytes 24 4 = [byte rn.val, 0, 0, 0] → (s.windowOf rn).isSome = true →
      exec (.svcQuality c) s = .next ((s.taken 0x0303 c).completesOk 0x0303 c (s.quality rn) none)) ∧
    (∀ (s : State) (rn : Fin 32) (n : _) (x : _), rn.val < 16 → 0 < n → n ≤ 100 → s.svc.run[rn].fm.hist = List.replicate n x → (s.quality rn).length = 16 ∧
      (s.quality rn).getD 0 0 = byte (b01 s.svc.run[rn].lock + 2 * b01 s.svc.run[rn].fm.pilot + 4 * s.svc.run[rn].fm.rds.sync.toNat) ∧
      slice (s.quality rn) 2 2 = leInt 2 (s.levelAt rn x.m.power) ∧ (s.quality rn).getD 4 0 = byte (min 255 x.m.cnr) ∧
      (s.quality rn).getD 5 0 = byte (min 255 x.m.multipath) ∧
      (s.svc.run[rn].lock = false → slice (s.quality rn) 8 2 = [0, 0] ∧ (s.quality rn).getD 10 0 = 0) ∧
      (s.svc.run[rn].lock = true → x.m.modulated = true → (s.quality rn).getD 10 0 = byte (min 255 x.m.deviation))) ∧
    (∀ (s : State) (c : CmdEntry) (rn : Fin 32), s.takes 0x0303 c = true → c.bytes 24 4 = [byte rn.val, 0, 0, 0] → s.windowOf rn = none →
      exec (.svcQuality c) s = .next ((s.taken 0x0303 c).finish 0x0303 c .state 0 [] none)) ∧
    (∀ (s : State) (c : CmdEntry) (rn : Fin 32) (l : _), s.takes 0x0310 c = true → c.u8 24 = rn.val → rn.val < 16 → c.bytes 39 5 = [0, 0, 0, 0, 0] →
      l = (List.range 14).map (fun i => if c.u8 (25 + i) = 0xFF then (s.svc.run[rn].fm.next.getD (s.svc.run[rn].fm.settings rn)).getD i 0 else byte (c.u8 (25 + i))) →
      (∀ (i : _), i < 14 → c.u8 (25 + i) = 0xFF ∨ ((fmRanges.getD i (0, 0)).1 ≤ c.u8 (25 + i) ∧ c.u8 (25 + i) ≤ (fmRanges.getD i (0, 0)).2)) →
      l.getD 6 0 < l.getD 5 0 → l.getD 9 0 < l.getD 8 0 → l.getD 12 0 < l.getD 11 0 →
      exec (.svcFmCfg c) s = .next (((s.taken 0x0310 c).modFm rn fun f => { f with next := some l }).completesOk 0x0310 c [] none)) ∧
    (∀ (s : State) (c : CmdEntry), s.takes 0x0310 c = true → c.u8 24 ≤ 15 → c.u8 25 = 3 → exec (.svcFmCfg c) s = .next ((s.taken 0x0310 c).finish 0x0310 c .range 25 [] none)) ∧
    (∀ (s : State) (c : CmdEntry) (rn : Fin 32) (l : _), s.takes 0x0311 c = true → c.u8 24 = rn.val → 16 ≤ rn.val → rn.val ≤ 23 → c.bytes 34 2 = [0, 0] →
      l = (List.range 9).map (fun i => if c.u8 (25 + i) = 0xFF then (s.svc.run[rn].fm.next.getD (s.svc.run[rn].fm.settings rn)).getD i 0 else byte (c.u8 (25 + i))) →
      (∀ (i : _), i < 9 → c.u8 (25 + i) = 0xFF ∨ ((amRanges.getD i (0, 0)).1 ≤ c.u8 (25 + i) ∧ c.u8 (25 + i) ≤ (amRanges.getD i (0, 0)).2)) →
      l.getD 3 0 < l.getD 2 0 → l.getD 6 0 < l.getD 5 0 →
      exec (.svcAmCfg c) s = .next (((s.taken 0x0311 c).modFm rn fun f => { f with next := some l }).completesOk 0x0311 c [] none)) ∧
    (∀ (s : State) (c : CmdEntry) (rn : Fin 32), s.takes 0x0312 c = true → c.bytes 24 4 = [byte rn.val, 1, 0, 0] → rn.val < 16 → s.ctxsOf rn = [] → (s.windowOf rn).isSome = true →
      exec (.svcProbeLend c) s = .next (if 4 ≤ s.lentCount then (s.taken 0x0312 c).finish 0x0312 c .nores 0 [] none
        else ((s.taken 0x0312 c).modFm rn fun f => { f with lent := true }).completesOk 0x0312 c [] none)) ∧
    (∀ (s : State) (c : CmdEntry) (rn : Fin 32), s.takes 0x0312 c = true → c.bytes 24 4 = [byte rn.val, 0, 0, 0] → rn.val < 16 → s.svc.run[rn].fm.lent = true → s.svc.run[rn].fm.probes = [] →
      exec (.svcProbeLend c) s = .next (((s.taken 0x0312 c).modFm rn fun f => { f with probes := [], lent := false }).completesOk 0x0312 c [] none)) ∧
    (∀ (s : State) (c : CmdEntry) (rn : Fin 32) (win : Fin 64), s.takes 0x0313 c = true → c.u8 24 = rn.val → rn.val < 16 → c.u8 26 ≤ 1 → c.u8 27 = 0 → s.windowOf rn = some win →
      s.tuneBad win (c.u32 28) = false → (c.u16 32 = 0 ∨ (20 ≤ c.u16 32 ∧ c.u16 32 ≤ 500)) → s.pwr.st = .run → s.clk.lossInRun = false →
      s.svc.run[rn].fm.lent = true → s.svc.run[rn].fm.probes ≠ [] →
      exec (.svcProbe c) s = .next (if 16 ≤ s.svc.run[rn].fm.probes.length then (s.taken 0x0313 c).finish 0x0313 c .full 0 [] none
        else ((s.taken 0x0313 c).modFm rn fun f => { f with probes := f.probes ++
          [⟨BitVec.ofNat 32 (c.u32 28), byte (c.u8 25), decide (c.u8 26 = 1), if c.u16 32 = 0 then 110 else c.u16 32, toSigned 2 (c.u16 34)⟩] }).completesOk
          0x0313 c [byte s.svc.run[rn].fm.probes.length] none)) ∧
    (∀ (s : State) (c : CmdEntry) (rn : Fin 32), s.takes 0x0314 c = true → c.bytes 24 4 = [byte rn.val, 0, 0, 0] → rn.val < 16 → (s.windowOf rn).isSome = true →
      exec (.svcRdsState c) s = .next ((s.taken 0x0314 c).completesOk 0x0314 c [] (some (s.svc.run[rn].fm.rds.image
        (decide (s.svc.run[rn].fm.setting rn 2 = 2)) s.sys.timeUs))) ∧
      (s.svc.run[rn].fm.rds.image (decide (s.svc.run[rn].fm.setting rn 2 = 2)) s.sys.timeUs).length = 1024)

/-- R145 to R167: what the signal does to an FM or AM runner. The widths of the controls and their rounding are the model's (logs 105 and 123); the code of a block is that of IEC 62106 (log 121). -/
def Obligations.FmRunnersFollowTheirSignal : Prop :=
  (∀ (s : State) (rn : Fin 32) (m : _), rn.val < 24 → s.svc.run[rn].active = true → s.svc.run[rn].fm.next = none → s.ctxsOf rn = [] → s.svc.run[rn].carry = 0 →
      s.svc.run[rn].gap = none → ∃ (u : State), exec (.runnerMetricTick rn m) s = .next u ∧ u.svc.run[rn].fm.hist.head?.map FmTick.m = some m ∧
        u.svc.run[rn].fm.hist.tail = s.svc.run[rn].fm.hist.take 99 ∧ u.svc.run[rn].fm.since = s.svc.run[rn].fm.since + 1 ∧
        u.svc.run[rn].fm.q = 2 * (u.svc.run[rn].fm.cnr rn : Int) - (if rn.val < 16 then min (u.svc.run[rn].fm.multipath rn) 128 else 0) ∧
        (4 * s.svc.run[rn].fm.sm rn 0 ≤ u.svc.run[rn].fm.cnr rn → s.svc.run[rn].fm.mute = 0 → u.svc.run[rn].fm.mute = 0) ∧
        (8 * (s.svc.run[rn].fm.hc rn 0 : Int) ≤ u.svc.run[rn].fm.q → s.svc.run[rn].fm.corner = 15000 * 65536 → u.svc.run[rn].fm.corner = 15000 * 65536) ∧
        (16 ≤ rn.val ∨ s.svc.run[rn].fm.pilot = false ∨ s.svc.run[rn].fm.setting rn 1 = 1 → u.svc.run[rn].fm.sep = 0) ∧
        u.svc.run[rn].fm.rds = s.svc.run[rn].fm.rds ∧
        (∀ r : Fin 32, r ≠ rn → u.svc.run[r] = s.svc.run[r]) ∧ u.svc.ctx = s.svc.ctx ∧ u = { s with svc := u.svc }) ∧
    (∀ (s : State) (rn : Fin 32) (m : _) (l : _), 16 ≤ rn.val → rn.val < 24 → s.svc.run[rn].active = false → s.svc.run[rn].fm.next = some l → s.svc.run[rn].fm.rds = {} →
      exec (.runnerMetricTick rn m) s = .next (s.modFm rn fun f => { f with cfg := l, next := none })) ∧
    (∀ (s : State) (rn : Fin 32) (m : _), (24 ≤ rn.val ∨ (s.svc.run[rn].active = false ∧ s.svc.run[rn].fm.next = none)) → exec (.runnerMetricTick rn m) s = .next s) ∧
    (∀ (f : FmState) (rn : Fin 32), f.mayLock rn = true ↔ (if rn.val < 16 then 5 else 10) ≤ f.since ∧ (if rn.val < 16 then 5 else 10) ≤ f.hist.length ∧
      ∀ x ∈ f.hist.take (if rn.val < 16 then 5 else 10), f.lockCnr rn ≤ x.m.cnr ∧ (rn.val < 16 → x.m.offset.natAbs ≤ 3000)) ∧
    (∀ (s : State) (rn : Fin 32), rn.val < 24 → s.svc.run[rn].active = true → s.svc.run[rn].lock = false → s.svc.run[rn].fm.mayLock rn = true → s.ctxsOf rn = [] →
      exec (.runnerLockGained rn) s = .next (((s.modRun rn fun x => { x with lock := true }).runCount rn.val 16 1).raise 34 0 [byte rn.val])) ∧
    (∀ (s : State) (rn : Fin 32), (24 ≤ rn.val ∨ s.svc.run[rn].lock = true ∨ s.svc.run[rn].fm.mayLock rn = false) → exec (.runnerLockGained rn) s = .next s) ∧
    (∀ (s : State) (rn : Fin 32), rn.val < 24 → s.svc.run[rn].lock = true → 100 ≤ s.svc.run[rn].fm.hist.length →
      (∀ x ∈ s.svc.run[rn].fm.hist.take 100, (x.m.cnr : Int) < s.svc.run[rn].fm.lockCnr rn - 8) → (∃ x ∈ s.svc.run[rn].fm.hist.take 1, x.m.offset.natAbs ≤ 200) →
      exec (.runnerLockLost rn) s = .next ((((s.modRun rn fun x => { x with lock := false }).runCount rn.val 17 1).raise 34 1 [byte rn.val]).modFm rn
        fun f => { f with since := 0 })) ∧
    (∀ (s : State) (rn : Fin 32), rn.val < 24 → s.svc.run[rn].lock = true → s.svc.run[rn].fm.drifted rn = true →
      exec (.runnerLockLost rn) s = .next (((((s.modRun rn fun x => { x with lock := false }).runCount rn.val 17 1).raise 34 1 [byte rn.val]).modFm rn
        fun f => { f with since := 0 }).raise 34 2 [byte rn.val])) ∧
    (∀ (s : State) (rn : Fin 32), (s.svc.run[rn].lock = false ∨ s.svc.run[rn].fm.hist = []) → exec (.runnerLockLost rn) s = .next s) ∧
    (∀ (s : State) (rn : Fin 32), rn.val < 16 → s.svc.run[rn].active = true → s.svc.run[rn].fm.pilot = false → 40 ≤ s.svc.run[rn].fm.hist.length →
      (∀ x ∈ s.svc.run[rn].fm.hist.take 40, 40 ≤ x.m.pilot) →
      exec (.pilotPresent rn) s = .next ((s.modFm rn fun f => { f with pilot := true, pilotRamp := some 0 }).raise 34 3 [byte rn.val])) ∧
    (∀ (s : State) (rn : Fin 32), rn.val < 16 → s.svc.run[rn].fm.pilot = true → 100 ≤ s.svc.run[rn].fm.hist.length → (∀ x ∈ s.svc.run[rn].fm.hist.take 100, x.m.pilot < 20) →
      exec (.pilotLost rn) s = .next ((s.modFm rn fun f => { f with pilot := false, pilotRamp := none, sep := 0 }).raise 34 4 [byte rn.val])) ∧
    (∀ (s : State) (rn : Fin 32), (s.svc.run[rn].fm.pilot = true ∨ s.svc.run[rn].fm.hist.length < 40 → exec (.pilotPresent rn) s = .next s) ∧
      (s.svc.run[rn].fm.pilot = false ∨ s.svc.run[rn].fm.hist.length < 100 → exec (.pilotLost rn) s = .next s)) ∧
    (∀ (s : State) (ctx : Fin 256) (rn : Fin 32) (au : _), ∀ k : Fin 32, s.svc.ctx[ctx].kind = 0 → s.svc.ctx[ctx].st = .running → s.svc.ctx[ctx].runner = rn → rn.val < 24 →
      s.svc.run[rn].active = true → s.svc.run[rn].carry = 0 → s.svc.ctx[ctx].discDue = false → s.svc.ctx[ctx].lost = 0 →
      s.svc.ctx[ctx].shadowOf = none → s.svc.ctx[ctx].follow = false → s.svc.ctx[ctx].fadeIn = 1440 → s.audioBlocked ctx = false →
      s.svc.ctx[ctx].route.toNat = k.val →
      ∃ (u : State), exec (.audioUnit ctx au) s = .next u ∧ u.svc = ((s.modCtx ctx fun x => { x with
          delivered := x.delivered + 1, seq := x.seq + 1, unitTs := s.audioStamp rn au.at_ }).modFm rn fun f => (f.audio rn au.frames).2).svc ∧
        u.aud.streams[k].frames = s.aud.streams[k].frames ++ (List.range 48).map (fun i =>
          frameWords (((s.svc.run[rn].fm.audio rn au.frames).1).getD i (0, 0))) ∧
        (∀ j : Fin 32, j ≠ k → u.aud.streams[j] = s.aud.streams[j]) ∧ u = { s with svc := u.svc, aud := { s.aud with streams := u.aud.streams } }) ∧
    (∀ (f : FmState) (rn : Fin 32) (l : List (Int × Int)), f.isMono rn = true → f.filt.1 = f.filt.2 → ∀ x ∈ (f.audio rn l).1, x.1 = x.2) ∧
    (∀ (s : State) (ctx : Fin 256) (au : _), (s.svc.ctx[ctx].kind ≠ 0 ∨ s.svc.ctx[ctx].st = .free ∨ s.svc.ctx[ctx].st = .closing) → exec (.audioUnit ctx au) s = .next s) ∧
    (∀ (s : State) (rn : Fin 32) (o : _), rn.val < 16 → s.svc.run[rn].active = true → s.svc.run[rn].fm.streamOn rn 0 = true →
      s.svc.run[rn].fm.rds.sync.getLsbD 0 = false → s.svc.run[rn].fm.rds.seen[0] = [] → s.svc.run[rn].fm.rds.pi = none → s.svc.run[rn].fm.rds.prov = none →
      s.svc.run[rn].fm.probes = [] → zeroOffset (s.svc.run[rn].fm.rbds rn) o.bits = some .A →
      ∃ (u : State), exec (.rdsBlock rn 0 o) s = .next (u.raise 35 0 ([byte rn.val, 0, 0, 0] ++ leBytes 2 (infoOf o.bits).toNat ++ [0, 0])) ∧
        u.svc = (s.modFm rn fun f => { f with rds := { f.rds with
          prov := some (infoOf o.bits), seen := f.rds.seen.set 0 [(o.pos, .A, infoOf o.bits)] } }).svc ∧
        u = { s with svc := u.svc, tlm := (s.runCount rn.val 0 1).tlm }) ∧
    (∀ (s : State) (rn : Fin 32) (o : _) (p : _), rn.val < 16 → s.svc.run[rn].active = true → s.svc.run[rn].fm.streamOn rn 0 = true →
      s.svc.run[rn].fm.rds.sync.getLsbD 0 = false → s.svc.run[rn].fm.rds.seen[0] = [] → s.svc.run[rn].fm.rds.pi = none → s.svc.run[rn].fm.rds.prov = some p →
      s.svc.run[rn].fm.probes = [] → zeroOffset (s.svc.run[rn].fm.rbds rn) o.bits = some .A →
      ∃ (u : State), exec (.rdsBlock rn 0 o) s = .next u ∧ u.svc.run[rn].fm.rds.pi = (if infoOf o.bits = p then some p else none) ∧ u.svc.run[rn].fm.rds.prov = some p ∧
        u = { s with svc := u.svc, tlm := u.tlm, host := u.host, evt := u.evt }) ∧
    (∀ (s : State) (rn : Fin 32) (o : _) (x : _) (e : _) (n : _) (i : _), ∀ k : Fin 4, rn.val < 16 → s.svc.run[rn].active = true → s.svc.run[rn].fm.streamOn rn k = true → k ≠ 0 →
      s.svc.run[rn].fm.rds.sync.getLsbD k.val = false → s.svc.run[rn].fm.rds.seen[k] = [x] → zeroOffset (s.svc.run[rn].fm.rbds rn) o.bits = some e →
      o.pos = x.1 + 26 * n → inOrder x.2.1 e n = some i → i < 3 →
      ∃ (u : State), exec (.rdsBlock rn k o) s = .next u ∧ u.svc.run[rn].fm.rds.sync = s.svc.run[rn].fm.rds.sync ||| BitVec.ofNat 4 (2 ^ k.val) ∧
        u.svc.run[rn].fm.rds.group[k].length = i + 1 ∧ u.svc.run[rn].fm.rds.pos[k] = o.pos + 26 ∧ u.svc.run[rn].fm.rds.seen[k] = [] ∧
        u.svc.ctx = s.svc.ctx ∧ u = { s with svc := u.svc, tlm := u.tlm, host := u.host, evt := u.evt }) ∧
    (∀ (s : State) (rn : Fin 32) (o : _), ∀ k : Fin 4, rn.val < 16 → s.svc.run[rn].active = true → s.svc.run[rn].fm.streamOn rn k = true → k ≠ 0 → s.svc.run[rn].fm.rds.sync.getLsbD k.val = true →
      o.pos = s.svc.run[rn].fm.rds.pos[k] → (checkBlock (s.svc.run[rn].fm.setting rn 4) (expected (s.svc.run[rn].fm.rbds rn) s.svc.run[rn].fm.rds.group[k]) o.bits).2.2 = 3 →
      20 ≤ ((true :: s.svc.run[rn].fm.rds.hist[k]).take 25 |>.filter id).length →
      ∃ (u : State), exec (.rdsBlock rn k o) s = .next u ∧ u.svc.run[rn].fm.rds.sync = s.svc.run[rn].fm.rds.sync &&& ~~~BitVec.ofNat 4 (2 ^ k.val) ∧
        u.svc.run[rn].fm.rds.group[k] = [] ∧ u.svc.ctx = s.svc.ctx ∧ u = { s with svc := u.svc, tlm := u.tlm, host := u.host, evt := u.evt }) ∧
    (∀ (s : State) (rn : Fin 32) (o : _), ∀ k : Fin 4, rn.val < 16 → s.svc.run[rn].active = true → s.svc.run[rn].fm.streamOn rn k = true → k ≠ 0 → s.svc.run[rn].fm.rds.sync.getLsbD k.val = true →
      o.pos = s.svc.run[rn].fm.rds.pos[k] → s.svc.run[rn].fm.rds.group[k].length = 3 → s.ctxsOf rn = [] → s.segComps rn = [] → s.svc.run[rn].carry = 0 →
      ((true :: s.svc.run[rn].fm.rds.hist[k]).take 25 |>.filter id).length < 20 →
      ∃ (u : State), exec (.rdsBlock rn k o) s = .next u ∧ u.svc.run[rn].fm.rds.groups[k] = s.svc.run[rn].fm.rds.groups[k] + 1 ∧ u.svc.run[rn].fm.rds.group[k] = [] ∧
        u.svc.run[rn].fm.rds.pos[k] = o.pos + 26 ∧ u.svc.run[rn].fm.rds.pi = s.svc.run[rn].fm.rds.pi ∧ u.svc.ctx = s.svc.ctx ∧ u = { s with svc := u.svc, tlm := u.tlm }) ∧
    (∀ (s : State) (rn : Fin 32) (o : _), ∀ k : Fin 4, s.svc.run[rn].active = false → exec (.rdsBlock rn k o) s = .next s) ∧
    (∀ (s : State) (rn : Fin 32) (p : _), s.svc.run[rn].fm.rds.pi = none → s.svc.run[rn].fm.rds.prov = some p → exec (.piWithdrawn rn) s = .next
      ((s.modFm rn fun f => { f with rds := { f.rds with prov := none } }).raise 35 3 ([byte rn.val, 0, 0, 0] ++ leBytes 2 p.toNat ++ [0, 0]))) ∧
    (∀ (s : State) (rn : Fin 32), (s.svc.run[rn].fm.rds.pi ≠ none ∨ s.svc.run[rn].fm.rds.prov = none) → exec (.piWithdrawn rn) s = .next s) ∧
    (∀ (s : State) (rn : Fin 32) (k : _) (o : _), s.svc.run[rn].fm.probes = [k] → k.floor ≤ s.levelAt rn o.power →
      exec (.probeLevelCheck rn o) s = .next (s.modFm rn fun f => { f with probeLevel := s.levelAt rn o.power })) ∧
    (∀ (s : State) (rn : Fin 32) (k : _) (o : _), s.svc.run[rn].fm.probes = [k] → s.levelAt rn o.power < k.floor → ∃ (u : State) (d : _), exec (.probeLevelCheck rn o) s = .next u ∧
      u = (((s.modFm rn fun f => { f with probeLevel := s.levelAt rn o.power }).raise 44 (if s.svc.run[rn].fm.probeInput then 2 else 4) d).modFm rn fun f => { f with probes := [] }) ∧
      d.getD 0 0 = byte rn.val ∧ d.getD 1 0 = k.tag ∧ slice d 4 4 = leBytes 4 k.freq.toNat ∧ slice d 10 2 = leInt 2 (s.levelAt rn o.power)) ∧
    (∀ (s : State) (rn : Fin 32) (k : _) (o : _), s.svc.run[rn].fm.probes = [k] → ∃ (u : State) (d : _), exec (.probeDwellExpiry rn o) s = .next u ∧
      u = (((s.modFm rn fun f => { f with probeLevel := s.levelAt rn o.power }).raise 44 (if s.svc.run[rn].fm.probeInput then 1 else 4) d).modFm rn fun f => { f with probes := [] }) ∧
      d.getD 0 0 = byte rn.val ∧ d.getD 1 0 = k.tag ∧ slice d 4 4 = leBytes 4 k.freq.toNat) ∧
    (∀ (s : State) (rn : Fin 32) (o : _), s.svc.run[rn].fm.probes = [] → exec (.probeLevelCheck rn o) s = .next s ∧ exec (.probeDwellExpiry rn o) s = .next s)

/-- R168 to R195: the DAB runners. -/
def Obligations.DabRunnersDecodeTheirEnsemble : Prop :=
  (∀ (s : State) (c : CmdEntry) (rn : Fin 32) (l : _), s.takes 0x0320 c = true → c.u8 24 = rn.val → 24 ≤ rn.val → rn.val ≤ 27 → c.bytes 29 3 = [0, 0, 0] →
      (∀ (i : _), i < 4 → c.u8 (25 + i) = 0xFF ∨ (([(0, 1), (0, 8), (10, 100), (10, 255)].getD i (0, 0)).1 ≤ c.u8 (25 + i) ∧ c.u8 (25 + i) ≤ ([(0, 1), (0, 8), (10, 100), (10, 255)].getD i (0, 0)).2)) →
      l = (List.range 4).map (fun i => if c.u8 (25 + i) = 0xFF then (s.svc.run[rn].dab.next.getD s.svc.run[rn].dab.settings).getD i 0 else byte (c.u8 (25 + i))) →
      exec (.svcDabCfg c) s = .next (((s.taken 0x0320 c).modDab rn fun d => { d with next := some l }).completesOk 0x0320 c [] none)) ∧
    (∀ (s : State) (c : CmdEntry), s.takes 0x0320 c = true → 24 ≤ c.u8 24 → c.u8 24 ≤ 27 → 1 < c.u8 25 → c.u8 25 ≠ 0xFF →
      exec (.svcDabCfg c) s = .next ((s.taken 0x0320 c).finish 0x0320 c .range 25 [] none)) ∧
    (∀ (s : State) (c : CmdEntry) (rn : Fin 32) (e : _), s.takes 0x0321 c = true → c.bytes 24 4 = [byte rn.val, 0, 0, 0] → 24 ≤ rn.val → rn.val ≤ 27 → (s.windowOf rn).isSome = true →
      s.svc.run[rn].dab.eid = some e → s.svc.run[rn].dab.lockedEid = some e →
      exec (.svcDabDb c) s = .next ((s.taken 0x0321 c).completesOk 0x0321 c [] (some s.svc.run[rn].dab.image)) ∧
      s.svc.run[rn].dab.image.length = 13376 ∧ slice s.svc.run[rn].dab.image 0 2 = leBytes 2 e.toNat) ∧
    (∀ (s : State) (c : CmdEntry) (rn : Fin 32), s.takes 0x0321 c = true → c.bytes 24 4 = [byte rn.val, 0, 0, 0] → 24 ≤ rn.val → rn.val ≤ 27 →
      (s.windowOf rn = none ∨ s.svc.run[rn].dab.eid = none ∨ s.svc.run[rn].dab.lockedEid ≠ s.svc.run[rn].dab.eid) →
      exec (.svcDabDb c) s = .next ((s.taken 0x0321 c).finish 0x0321 c .state 0 [] none)) ∧
    (∀ (s : State) (rn : Fin 32), 24 ≤ rn.val → rn.val ≤ 27 → s.svc.run[rn].active = true → s.svc.run[rn].dab.timing = false →
      exec (.dabFrameTiming rn) s = .next ((s.modDab rn fun d => { d with
        timing := true, stored := 0, ring := [], prsOkRun := 0, prsBadRun := 0, fibSeen := false, noFibRun := 0 }).raise 34 8 [byte rn.val])) ∧
    (∀ (s : State) (rn : Fin 32), (s.svc.run[rn].active = false ∨ s.svc.run[rn].dab.timing = true) → exec (.dabFrameTiming rn) s = .next s) ∧
    (∀ (s : State) (rn : Fin 32) (o : DabFrameObs), 24 ≤ rn.val → rn.val ≤ 27 → s.svc.run[rn].active = true → s.svc.run[rn].dab.timing = true → s.svc.run[rn].lock = false →
      s.svc.run[rn].dab.prsOkRun = 1 → o.prsOk = true → (o.fibs.take 12).any fibOk = true → ((o.fibs.take 12).filter fibOk).flatMap (fun b => figsOf 30 (b.take 30)) = [] → s.ctxsOf rn = [] →
      ∃ (u : State), exec (.dabFrameEnd rn o) s = .next u ∧ u.svc.run[rn].lock = true ∧ u.svc.run[rn].dab.prsOkRun = 2 ∧ u.svc.run[rn].dab.prsBadRun = 0 ∧
        u.svc.run[rn].dab.noFibRun = 0 ∧ u.svc.run[rn].dab.eid = s.svc.run[rn].dab.eid ∧ (s.svc.run[rn].dab.eid.isSome = true → u.svc.run[rn].dab.lockedEid = s.svc.run[rn].dab.eid) ∧
        u.svc.run[rn].dab.ticks = (⟨o.powers, o.snr, o.ficBer, o.echo, o.offset, o.spread, o.legSnr⟩ :: s.svc.run[rn].dab.ticks).take 4 ∧
        u.svc.run[rn].dab.nulls = (o.nulls :: s.svc.run[rn].dab.nulls).take 8 ∧
        u.svc.run[rn].dab.fibHist = (((List.range 12).map fun i => fibOk (o.fibs.getD i [])) ++ s.svc.run[rn].dab.fibHist).take 120 ∧
        u.svc.run[rn].dab.comps = s.svc.run[rn].dab.comps ∧ u.svc.ctx = s.svc.ctx ∧
        (∀ r : Fin 32, r ≠ rn → u.svc.run[r] = s.svc.run[r]) ∧ u = { s with svc := u.svc, tlm := u.tlm, host := u.host, evt := u.evt }) ∧
    (∀ (s : State) (rn : Fin 32) (o : DabFrameObs), 24 ≤ rn.val → rn.val ≤ 27 → s.svc.run[rn].active = true → s.svc.run[rn].dab.timing = true → s.svc.run[rn].lock = true →
      s.svc.run[rn].dab.prsBadRun = 2 → o.prsOk = false → ((o.fibs.take 12).filter fibOk).flatMap (fun b => figsOf 30 (b.take 30)) = [] → s.ctxsOf rn = [] →
      ∃ (u : State), exec (.dabFrameEnd rn o) s = .next u ∧ u.svc.run[rn].lock = false ∧ u.svc.run[rn].dab.timing = false ∧ u.svc.run[rn].dab.stored = 0 ∧
        u.svc.run[rn].dab.ring = [] ∧ u.svc.run[rn].dab.superSync = [] ∧ u.svc.run[rn].dab.eid = s.svc.run[rn].dab.eid ∧ u.svc.run[rn].dab.org = s.svc.run[rn].dab.org ∧
        u.svc.ctx = s.svc.ctx ∧ u = { s with svc := u.svc, tlm := u.tlm, host := u.host, evt := u.evt }) ∧
    (∀ (s : State) (rn : Fin 32) (o : DabFrameObs) (hi : Byte) (lo : Byte) (sh : Byte) (sl : Byte) (ty : Byte) (sc : Byte) (h : Byte) (l : _), 24 ≤ rn.val → rn.val ≤ 27 → s.svc.run[rn].active = true → s.svc.run[rn].dab.timing = true → s.svc.run[rn].lock = false →
      s.svc.run[rn].dab.prsOkRun = 0 → o.prsOk = true → ((o.fibs.take 12).filter fibOk).flatMap (fun b => figsOf 30 (b.take 30)) = [⟨0, [0, hi, lo, 0, 7]⟩, ⟨0, [2, sh, sl, 1, ty, sc]⟩] → ty.toNat < 64 → sc.toNat % 4 = 2 →
      s.svc.run[rn].dab.eid = none → s.svc.run[rn].dab.comps = [] → s.svc.run[rn].dab.org = {} → s.svc.run[rn].dab.kept = l → s.ctxsOf rn = [] →
      (∀ (j : _), j < h.toNat → byte j ∈ l.map Prod.fst) → h ∉ l.map Prod.fst → (BitVec.ofNat 32 (256 * sh.toNat + sl.toNat), 0) ∉ l.map Prod.snd →
      ∃ (u : State), exec (.dabFrameEnd rn o) s = .next u ∧ u.svc.run[rn].lock = false ∧ u.svc.run[rn].dab.eid = some (BitVec.ofNat 16 (256 * hi.toNat + lo.toNat)) ∧
        u.svc.run[rn].dab.cifCount = 7 ∧ u.svc.run[rn].dab.kept = l ∧
        u.svc.run[rn].dab.comps = [(h, { sid := BitVec.ofNat 32 (256 * sh.toNat + sl.toNat), scids := 0, tmid := 0, ascty := ty, subch := byte (sc.toNat / 4), scid := 0, paddr := 0, primary := true, ca := false })]) ∧
    (∀ (s : State) (rn : Fin 32) (o : DabFrameObs) (hi : Byte) (lo : Byte) (e : _), 24 ≤ rn.val → rn.val ≤ 27 → s.svc.run[rn].active = true → s.svc.run[rn].dab.timing = true → s.svc.run[rn].lock = false →
      s.svc.run[rn].dab.prsOkRun = 0 → o.prsOk = true → ((o.fibs.take 12).filter fibOk).flatMap (fun b => figsOf 30 (b.take 30)) = [⟨0, [0, hi, lo, 0, 7]⟩] → s.svc.run[rn].dab.eid = some e →
      e ≠ BitVec.ofNat 16 (256 * hi.toNat + lo.toNat) → s.ctxsOf rn = [] →
      ∃ (u : State), exec (.dabFrameEnd rn o) s = .next u ∧ u.svc.run[rn].dab.eid = some (BitVec.ofNat 16 (256 * hi.toNat + lo.toNat)) ∧ u.svc.run[rn].dab.comps = [] ∧
        u.svc.run[rn].dab.org = {} ∧ u.svc.run[rn].dab.kept = [] ∧ u.svc.run[rn].dab.label = none ∧ u.svc.run[rn].dab.complete = false ∧
        u.svc.run[rn].dab.retuned = false ∧ u.svc.run[rn].dab.full = s.svc.run[rn].dab.full) ∧
    (∀ (s : State) (rn : Fin 32) (o : DabFrameObs), s.svc.run[rn].dab.timing = false → exec (.dabFrameEnd rn o) s = .next s) ∧
    (∀ (s : State) (rn : Fin 32), 24 ≤ rn.val → rn.val ≤ 27 → s.svc.run[rn].lock = true → s.svc.run[rn].dab.complete = false → s.svc.run[rn].dab.timeoutRaised = false →
      ∃ (u : State), exec (.dabFicTimeout rn) s = .next u ∧ u.svc = (s.modDab rn fun d => { d with timeoutRaised := true }).svc ∧ s.onlyReports { u with svc := s.svc }) ∧
    (∀ (s : State) (rn : Fin 32), (s.svc.run[rn].lock = false ∨ s.svc.run[rn].dab.complete = true ∨ s.svc.run[rn].dab.timeoutRaised = true) →
      exec (.dabFicTimeout rn) s = .next s) ∧
    (∀ (s : State) (rn : Fin 32) (h : Byte), 24 ≤ rn.val → rn.val ≤ 27 → ∃ (u : State), exec (.dabHandleExpiry rn h) s = .next u ∧ u.svc.run[rn].dab.byHandle h.toNat = none ∧
      (∀ k : Byte, k ≠ h → u.svc.run[rn].dab.byHandle k.toNat = s.svc.run[rn].dab.byHandle k.toNat) ∧ (s.ctxsOf rn = [] → u.svc.ctx = s.svc.ctx ∧ u = { s with svc := u.svc })) ∧
    (∀ (s : State) (rn : Fin 32) (h : Byte) (ctx : Fin 256), 24 ≤ rn.val → rn.val ≤ 27 → s.ctxsOf rn = [ctx] → s.svc.ctx[ctx].st = .running → compAddr s.svc.ctx[ctx].component = 1 →
      compId s.svc.ctx[ctx].component = h.toNat → ∃ (u : State), exec (.dabHandleExpiry rn h) s = .next u ∧ u.svc.ctx[ctx].st = .acquiring ∧ u.svc.ctx[ctx].seq = s.svc.ctx[ctx].seq ∧
      (∀ k : Fin 256, k ≠ ctx → u.svc.ctx[k] = s.svc.ctx[k])) ∧
    (∀ (s : State) (rn : Fin 32) (g : DabCifObs) (e : _), 24 ≤ rn.val → rn.val ≤ 27 → s.svc.run[rn].active = true → s.svc.run[rn].dab.timing = true → s.svc.run[rn].dab.next = none →
      s.svc.run[rn].dab.lastTs = none → s.svc.run[rn].dab.stored < 15 → s.svc.run[rn].dab.reconf = none → s.ctxsOf rn = [] →
      e = (s.svc.run[rn].cifRec (s.legsOf rn) g).1 →
      ∃ (u : State), exec (.dabCif rn g) s = .next u ∧ u.svc.run[rn].dab.stored = s.svc.run[rn].dab.stored + 1 ∧ u.svc.run[rn].dab.cifCount = g.cif ∧
        u.svc.run[rn].dab.lastTs = some g.ts ∧ u.svc.run[rn].dab.stamps = (g.ts :: s.svc.run[rn].dab.stamps).take 64 ∧
        u.svc.run[rn].dab.ring = (e :: s.svc.run[rn].dab.ring).take 16 ∧ e.ts = g.ts ∧ e.subs = s.svc.run[rn].dab.org.subs ∧
        (∀ v ∈ e.soft, -7 ≤ v ∧ v ≤ 7) ∧ (s.legsOf rn = [] → e.erased = List.range 18 ∧ ∀ v ∈ e.soft, v = 0) ∧ u.svc.run[rn].carry = 0 ∧
        u.svc.ctx = s.svc.ctx ∧ u = { s with svc := u.svc, tlm := (s.runCount rn.val 2 1).tlm }) ∧
    (∀ (s : State) (rn : Fin 32) (g : DabCifObs) (ctx : Fin 256) (d : DabState) (b : DabSub), 24 ≤ rn.val → rn.val ≤ 27 → s.svc.run[rn].active = true → s.svc.run[rn].dab.timing = true → s.svc.run[rn].lock = true →
      s.svc.run[rn].dab.next = none → s.svc.run[rn].dab.lastTs = none → 15 ≤ s.svc.run[rn].dab.stored → s.svc.run[rn].dab.reconf = none →
      d = (s.svc.run[rn].storeCif (s.legsOf rn) g).dab → (s.svc.run[rn].cifRec (s.legsOf rn) g).1.erased = [] → wholeSubs d.ring = [b] → b.id ∉ d.fec → d.superSync = [] →
      s.ctxsOf rn = [ctx] → s.svc.ctx[ctx].st = .running → s.svc.ctx[ctx].kind = 1 → compAddr s.svc.ctx[ctx].component ≠ 2 → d.subOf s.svc.ctx[ctx] = some b.id →
      s.svc.ctx[ctx].skip = 0 → s.svc.ctx[ctx].staged = [] → s.svc.ctx[ctx].lost = 0 → s.svc.ctx[ctx].discDue = false → 3 * b.kbps ≤ 2048 →
      s.ringUp s.svc.ctx[ctx].ring = false →
      ∃ (u : State) (v : _), exec (.dabCif rn g) s = .next u ∧ u.svc.ctx[ctx].staged = [v] ∧ v.payload = logicalFrame d.ring b ∧ v.payload.length = 3 * b.kbps ∧
        v.ts = d.stamps.getD 15 0 ∧ v.tag = BitVec.ofNat 32 b.id.val ∧ v.seq = s.svc.ctx[ctx].seq ∧
        v.lost = 0 ∧ v.disc = false ∧ v.written = 0 ∧ u.svc.ctx[ctx].seq = s.svc.ctx[ctx].seq + 1 ∧ u.svc.ctx[ctx].st = .running ∧
        (∀ k : Fin 256, k ≠ ctx → u.svc.ctx[k] = s.svc.ctx[k]) ∧ u = { s with svc := u.svc, freeCnt := s.freeCnt + 1, tlm := (s.runCount rn.val 2 1).tlm }) ∧
    (∀ (s : State) (rn : Fin 32) (g : DabCifObs), s.svc.run[rn].dab.timing = false → exec (.dabCif rn g) s = .next s) ∧
    (∀ (s : State) (ctx : Fin 256) (tid : _) (q : _), s.svc.ctx[ctx].mot = [q] → q.tid = tid → ∃ (u : State), exec (.motTimeout ctx tid) s = .next u ∧ u.svc.ctx[ctx].mot = [] ∧
      u.svc.ctx[ctx].seq = s.svc.ctx[ctx].seq + 1 ∧ u.svc.ctx[ctx].discDue = true ∧ u.svc.run = s.svc.run ∧
      u = { s with svc := u.svc, dma := u.dma, tlm := u.tlm, host := u.host, evt := u.evt }) ∧
    (∀ (s : State) (ctx : Fin 256) (tid : _), s.svc.ctx[ctx].mot = [] → exec (.motTimeout ctx tid) s = .next s)

/-- R196 to R216: the DRM runners. -/
def Obligations.DrmRunnersDecodeTheirMultiplex : Prop :=
  (∀ (s : State) (c : CmdEntry) (rn : Fin 32) (l : _), s.takes 0x0330 c = true → c.u8 24 = rn.val → 28 ≤ rn.val → s.svc.run[rn].drm.mode = none →
      (∀ (i : _), i < 3 → c.u8 (25 + i) = 0xFF ∨ (([(1, 15), (0, 8), (10, 255)].getD i (0, 0)).1 ≤ c.u8 (25 + i) ∧ c.u8 (25 + i) ≤ ([(1, 15), (0, 8), (10, 255)].getD i (0, 0)).2)) →
      l = (List.range 3).map (fun i => if c.u8 (25 + i) = 0xFF then (s.svc.run[rn].drm.next.getD s.svc.run[rn].drm.settings).getD i 0 else byte (c.u8 (25 + i))) →
      exec (.svcDrmCfg c) s = .next (((s.taken 0x0330 c).modDrm rn fun d => { d with next := some l }).completesOk 0x0330 c [] none)) ∧
    (∀ (s : State) (c : CmdEntry), s.takes 0x0330 c = true → 28 ≤ c.u8 24 → c.u8 24 ≤ 31 → c.u8 25 = 0 → exec (.svcDrmCfg c) s = .next ((s.taken 0x0330 c).finish 0x0330 c .range 25 [] none)) ∧
    (∀ (s : State) (c : CmdEntry) (rn : Fin 32), s.takes 0x0331 c = true → c.bytes 24 4 = [byte rn.val, 0, 0, 0] → 28 ≤ rn.val → (s.windowOf rn).isSome = true → s.svc.run[rn].drm.everLocked = true →
      exec (.svcDrmDb c) s = .next ((s.taken 0x0331 c).completesOk 0x0331 c [] (some s.svc.run[rn].drm.image)) ∧ s.svc.run[rn].drm.image.length = 512 ∧
      slice s.svc.run[rn].drm.image 2 1 = [s.svc.run[rn].drm.so]) ∧
    (∀ (s : State) (c : CmdEntry) (rn : Fin 32), s.takes 0x0331 c = true → c.bytes 24 4 = [byte rn.val, 0, 0, 0] → 28 ≤ rn.val → (s.windowOf rn = none ∨ s.svc.run[rn].drm.everLocked = false) →
      exec (.svcDrmDb c) s = .next ((s.taken 0x0331 c).finish 0x0331 c .state 0 [] none)) ∧
    (∀ (s : State) (rn : Fin 32) (m : _) (win : Fin 64), 28 ≤ rn.val → s.svc.run[rn].active = true → s.windowOf rn = some win →
      (if s.win.win[win].preset = 4 then m = 4 else m.val < 4 ∧ s.svc.run[rn].drm.modes.getLsbD m.val = true) → s.svc.run[rn].drm.mode = none →
      exec (.drmModeFound rn m) s = .next ((s.modDrm rn fun d => { d with mode := some m, stored := 0, cells := [], timeBadRun := 0, facBadRun := 0 }).raise 34 12
        [byte rn.val, byte m.val, s.svc.run[rn].drm.so])) ∧
    (∀ (s : State) (rn : Fin 32) (m : _) (win : Fin 64), s.windowOf rn = some win → s.win.win[win].preset ≠ 4 → s.svc.run[rn].drm.modes.getLsbD m.val = false → exec (.drmModeFound rn m) s = .next s) ∧
    (∀ (s : State) (rn : Fin 32) (o : _), 28 ≤ rn.val → s.svc.run[rn].active = true → s.svc.run[rn].drm.mode.isSome = true → s.svc.run[rn].lock = false → s.svc.run[rn].drm.next = none →
      s.svc.run[rn].drm.lastTs = none → s.svc.run[rn].drm.pendingReconf = false → s.svc.run[rn].drm.sdcComplete = false → s.svc.run[rn].drm.services = [] →
      s.svc.run[rn].drm.streams = [] → s.ctxsOf rn = [] → o.timeRefOk = true → o.facOk = true → o.reconf = 0 → o.firstOfSuper = true → o.sdc = some true →
      (o.services.map Prod.fst).Nodup → (o.streams.map Prod.fst).Nodup →
      ∃ (u : State), exec (.drmFrameEnd rn o) s = .next u ∧ u.svc.run[rn].lock = true ∧ u.svc.run[rn].drm.facValid = true ∧ u.svc.run[rn].drm.so = o.so ∧
        u.svc.run[rn].drm.longIl = o.longIl ∧ u.svc.run[rn].drm.nAudio = o.nAudio ∧ u.svc.run[rn].drm.listed = o.listed ∧
        u.svc.run[rn].drm.services = o.services ∧ u.svc.run[rn].drm.streams = o.streams ∧ u.svc.run[rn].drm.stored = s.svc.run[rn].drm.stored + 1 ∧
        ((o.listed.all fun n => o.labels.contains n && o.infos.contains n && o.services.any fun e => decide (e.1 = n) && o.streams.any fun q => decide (q.1.val = (e.2.getD 4 0).toNat)) = true →
          u.svc.run[rn].drm.sdcComplete = true) ∧
        u.svc.run[rn].drm.ticks = (⟨o.powers, o.mer, o.wmer, o.offset, o.spread, o.doppler, o.legMer⟩ :: s.svc.run[rn].drm.ticks).take 4 ∧
        u.svc.run[rn].drm.lastTs = some o.ts ∧ u.svc.run[rn].drm.everLocked = true ∧ u.svc.ctx = s.svc.ctx ∧
        u.fan.heard = s.fan.heard ++ o.facIds.map (fun b => (rn, Heard.fac b)) ++ o.signal.map (fun b => (rn, Heard.sdc b)) ∧
        (∀ r : Fin 32, r ≠ rn → u.svc.run[r] = s.svc.run[r]) ∧
        u = { s with svc := u.svc, fan := { s.fan with heard := u.fan.heard }, tlm := u.tlm, host := u.host, evt := u.evt }) ∧
    (∀ (s : State) (rn : Fin 32) (o : _), 28 ≤ rn.val → s.svc.run[rn].active = true → s.svc.run[rn].drm.mode.isSome = true → s.svc.run[rn].lock = true → s.svc.run[rn].drm.timeBadRun = 2 → s.svc.run[rn].dab.timing = false →
      s.svc.run[rn].drm.next = none → s.svc.run[rn].drm.lastTs = none → s.ctxsOf rn = [] → o.timeRefOk = false → o.facOk = false →
      ∃ (u : State), exec (.drmFrameEnd rn o) s = .next u ∧ u.svc.run[rn].lock = false ∧ u.svc.run[rn].drm.mode = none ∧ u.svc.run[rn].drm.stored = 0 ∧
        u.svc.run[rn].drm.cells = [] ∧ u.svc.run[rn].drm.sdcComplete = false ∧ u.svc.run[rn].drm.services = s.svc.run[rn].drm.services ∧ u.svc.ctx = s.svc.ctx ∧
        u = { s with svc := u.svc, tlm := u.tlm, host := u.host, evt := u.evt }) ∧
    (∀ (s : State) (rn : Fin 32) (o : _), s.svc.run[rn].drm.mode = none → exec (.drmFrameEnd rn o) s = .next s)

/-- R247 to R249, R251: the following commands. -/
def Obligations.FollowingCommandsComplete : Prop :=
  (∀ (s : State) (c : CmdEntry) (old : _), s.takes 0x0401 c = true → old = s.fan.nextPolicy.getD s.fan.policy → c.bytes 54 2 = [0, 0] →
      (∀ p : Nat × Nat × Nat, p ∈ policyBytes → c.u8 p.1 = 0xFF ∨ (p.2.1 ≤ c.u8 p.1 ∧ c.u8 p.1 ≤ p.2.2)) →
      (∀ p : Nat × Nat × Nat, p ∈ policyWords → c.u16 p.1 = 0xFFFF ∨ (p.2.1 ≤ c.u16 p.1 ∧ c.u16 p.1 ≤ p.2.2)) →
      (∀ i : Nat, i < 4 → (if c.u8 (24 + 2 * i) = 0xFF then (old.getD (2 * i) 0).toNat else c.u8 (24 + 2 * i)) <
        (if c.u8 (25 + 2 * i) = 0xFF then (old.getD (2 * i + 1) 0).toNat else c.u8 (25 + 2 * i))) →
      ∃ l : List Byte, exec (.fanPolicy c) s = .next (({ s.taken 0x0401 c with fan := { s.fan with nextPolicy := some l } }).completesOk 0x0401 c [] none) ∧
        l.length = 32 ∧
        (∀ p : Nat × Nat × Nat, p ∈ policyBytes → l.getD (p.1 - 24) 0 = if c.u8 p.1 = 0xFF then old.getD (p.1 - 24) 0 else byte (c.u8 p.1)) ∧
        (∀ (p : Nat × Nat × Nat) (j : Nat), p ∈ policyWords → j < 2 →
          l.getD (p.1 + j - 24) 0 = if c.u16 p.1 = 0xFFFF then old.getD (p.1 + j - 24) 0 else byte (c.u8 (p.1 + j)))) ∧
    (∀ (s : State) (c : CmdEntry), s.takes 0x0401 c = true → c.u8 24 ≤ 60 → c.u8 25 ≤ c.u8 24 → exec (.fanPolicy c) s = .next ((s.taken 0x0401 c).finish 0x0401 c .range 25 [] none)) ∧
    (∀ (s : State) (c : CmdEntry) (f : Fin 256) (a : _) (b : W) (i : _), s.takes 0x0402 c = true → c.u8 24 = f.val → c.u8 25 = 0 → 1 ≤ c.u8 26 → c.u8 26 ≤ 5 → s.stdOn (byte (c.u8 26)) = true → c.u8 27 = 0 →
      s.svc.ctx[f].st ≠ .free → s.svc.ctx[f].follow = true → a = BitVec.ofNat 32 (c.u32 28) → b = BitVec.ofNat 32 (c.u32 32) →
      (∀ (j : Nat) (k : Cand), s.cand f j = some k → ¬ (k.std = byte (c.u8 26) ∧ k.freq = a ∧ k.ident = b)) → i < 32 → s.cand f i = none →
      (∀ j : Nat, j < i → (s.cand f j).isSome = true) → s.fan.follow[f].cands.length ≤ 32 →
      exec (.fanCand c) s = .next (((s.taken 0x0402 c).addCand f i (newCand (byte (c.u8 26)) a b 6 (decide (s.identOf f = b)) true false)).completesOk 0x0402 c [byte i] none)) ∧
    (∀ (s : State) (c : CmdEntry) (f : Fin 256), s.takes 0x0402 c = true → c.u8 24 = f.val → c.u8 25 = 0 → 1 ≤ c.u8 26 → c.u8 26 ≤ 5 → s.stdOn (byte (c.u8 26)) = true → c.u8 27 = 0 →
      s.svc.ctx[f].st ≠ .free → s.svc.ctx[f].follow = true →
      s.findCand f (byte (c.u8 26)) (BitVec.ofNat 32 (c.u32 28)) (BitVec.ofNat 32 (c.u32 32)) = none → (∀ j : Nat, j < 32 → (s.cand f j).isSome = true) →
      exec (.fanCand c) s = .next ((s.taken 0x0402 c).finish 0x0402 c .full 0 [] none)) ∧
    (∀ (s : State) (c : CmdEntry) (f : Fin 256) (i : _) (k : Cand), s.takes 0x0402 c = true → c.u8 24 = f.val → 1 ≤ c.u8 25 → c.u8 25 ≤ 3 → 1 ≤ c.u8 26 → c.u8 26 ≤ 5 → c.u8 27 = 0 →
      s.svc.ctx[f].st ≠ .free → s.svc.ctx[f].follow = true →
      s.findCand f (byte (c.u8 26)) (BitVec.ofNat 32 (c.u32 28)) (BitVec.ofNat 32 (c.u32 32)) = some i → s.cand f i = some k → (c.u8 25 = 1 → k.host = true) →
      exec (.fanCand c) s = .next ((if c.u8 25 = 1 then (s.taken 0x0402 c).dropCand f i else (s.taken 0x0402 c).modCand f i fun k => { k with blocked := decide (c.u8 25 = 2) }).completesOk 0x0402 c [byte i] none)) ∧
    (∀ (s : State) (c : CmdEntry) (f : Fin 256), s.takes 0x0402 c = true → c.u8 24 = f.val → (c.u8 25 = 1 ∨ c.u8 25 = 3) → 1 ≤ c.u8 26 → c.u8 26 ≤ 5 → c.u8 27 = 0 →
      s.svc.ctx[f].st ≠ .free → s.svc.ctx[f].follow = true →
      s.findCand f (byte (c.u8 26)) (BitVec.ofNat 32 (c.u32 28)) (BitVec.ofNat 32 (c.u32 32)) = none →
      exec (.fanCand c) s = .next ((s.taken 0x0402 c).finish 0x0402 c .notfound 0 [] none)) ∧
    (∀ (s : State) (c : CmdEntry) (f : Fin 256), s.takes 0x0403 c = true → c.bytes 24 4 = [byte f.val, 0, 0, 0] → s.svc.ctx[f].st ≠ .free → s.svc.ctx[f].follow = true →
      exec (.fanCands c) s = .next ((s.taken 0x0403 c).completesOk 0x0403 c [] (some (s.candImage f))) ∧ (s.candImage f).length = 784 ∧
      slice (s.candImage f) 0 4 = [byte f.val, s.svc.ctx[f].gen, byte (s.candList f).length, s.fan.follow[f].stateCode]) ∧
    (∀ (s : State) (c : CmdEntry) (f : Fin 256), s.takes 0x0403 c = true → c.bytes 24 4 = [byte f.val, 0, 0, 0] → (s.svc.ctx[f].st = .free ∨ s.svc.ctx[f].follow = false) →
      exec (.fanCands c) s = .next ((s.taken 0x0403 c).finish 0x0403 c .state 0 [] none)) ∧
    (∀ (s : State) (c : CmdEntry) (f : Fin 256) (k : Cand) (m : _), s.takes 0x0404 c = true → c.u8 24 = f.val → c.u8 25 ≤ 31 → c.u8 26 ≤ 1 → c.u8 27 = 0 → s.svc.ctx[f].st ≠ .free → s.svc.ctx[f].follow = true →
      s.cand f (c.u8 25) = some k → (c.u8 26 = 1 ∨ s.ready f k = true) → k.blocked = false → s.candUsable k = true → s.canDip f k = true → s.fan.follow[f].blend = none → m = s.pol16 42 →
      exec (.fanSwitch c) s = .next (((s.taken 0x0404 c).startSwitch f (c.u8 25) 3 m).completesOk 0x0404 c [] none) ∧
      ((s.taken 0x0404 c).startSwitch f (c.u8 25) 3 m).fan.switches = s.fan.switches + 1 ∧
      ((s.taken 0x0404 c).startSwitch f (c.u8 25) 3 m).fan.follow[f].blend =
        some { dest := c.u8 25, dip := !s.ready f k, reversed := false, started := s.sys.timeUs, ms := if s.ready f k then m else 2 * s.pol 46, lvl := if s.ready f k then s.lvlOf k else 0, short := false, pos := 0, wait := 0 }) ∧
    (∀ (s : State) (c : CmdEntry) (f : Fin 256) (k : Cand) (bl : Blend), s.takes 0x0404 c = true → c.u8 24 = f.val → c.u8 25 ≤ 31 → c.u8 26 ≤ 1 → c.u8 27 = 0 → s.svc.ctx[f].st ≠ .free → s.svc.ctx[f].follow = true →
      s.cand f (c.u8 25) = some k → s.fan.follow[f].blend = some bl → s.isCurrent f k.std k.freq = true →
      exec (.fanSwitch c) s = .next (((s.taken 0x0404 c).modFollow f fun w => { w with blend := some { bl with reversed := true } }).completesOk 0x0404 c [] none)) ∧
    (∀ (s : State) (c : CmdEntry) (f : Fin 256) (k : Cand) (bl : Blend), s.takes 0x0404 c = true → c.u8 24 = f.val → c.u8 25 ≤ 31 → c.u8 26 ≤ 1 → c.u8 27 = 0 → s.svc.ctx[f].st ≠ .free → s.svc.ctx[f].follow = true →
      s.cand f (c.u8 25) = some k → (c.u8 26 = 1 ∨ s.ready f k = true) → k.blocked = false → s.candUsable k = true → s.canDip f k = true → s.fan.follow[f].blend = some bl → s.isCurrent f k.std k.freq = false →
      exec (.fanSwitch c) s = .next ((if bl.dest = c.u8 25 then (s.taken 0x0404 c).modFollow f fun w => { w with blend := some { bl with reversed := false } }
        else (s.taken 0x0404 c).startSwitch f (c.u8 25) 3 (s.pol16 42)).completesOk 0x0404 c [] none)) ∧
    (∀ (s : State) (c : CmdEntry) (f : Fin 256) (k : Cand), s.takes 0x0404 c = true → c.u8 24 = f.val → c.u8 25 ≤ 31 → c.u8 26 = 0 → c.u8 27 = 0 → s.svc.ctx[f].st ≠ .free → s.svc.ctx[f].follow = true →
      s.cand f (c.u8 25) = some k → s.ready f k = false → s.fan.follow[f].blend = none →
      exec (.fanSwitch c) s = .next ((s.taken 0x0404 c).finish 0x0404 c .notready 0 [] none)) ∧
    (∀ (s : State) (c : CmdEntry) (f : Fin 256), s.takes 0x0404 c = true → c.u8 24 = f.val → c.u8 25 ≤ 31 → c.u8 26 ≤ 1 → c.u8 27 = 0 → s.svc.ctx[f].st ≠ .free → s.svc.ctx[f].follow = true →
      s.cand f (c.u8 25) = none → exec (.fanSwitch c) s = .next ((s.taken 0x0404 c).finish 0x0404 c .notfound 0 [] none)) ∧
    (∀ (s : State) (c : CmdEntry) (f : Fin 256), s.takes 0x0405 c = true → c.bytes 24 4 = [byte f.val, 1, 0, 0] → s.svc.ctx[f].st ≠ .free → s.svc.ctx[f].kind = 0 → s.svc.ctx[f].follow = false →
      s.followed.length < 16 →
      exec (.fanFollow c) s = .next ((((s.taken 0x0405 c).modCtx f fun x => { x with follow := true }).modFollow f fun _ => {}).completesOk 0x0405 c [] none)) ∧
    (∀ (s : State) (c : CmdEntry) (f : Fin 256), s.takes 0x0405 c = true → c.bytes 24 4 = [byte f.val, 1, 0, 0] → s.svc.ctx[f].st ≠ .free → s.svc.ctx[f].kind = 0 → s.svc.ctx[f].follow = false →
      16 ≤ s.followed.length → exec (.fanFollow c) s = .next ((s.taken 0x0405 c).finish 0x0405 c .nores 0 [] none)) ∧
    (∀ (s : State) (c : CmdEntry) (f : Fin 256), s.takes 0x0405 c = true → c.bytes 24 4 = [byte f.val, 0, 0, 0] → s.svc.ctx[f].st ≠ .free → s.svc.ctx[f].follow = true →
      exec (.fanFollow c) s = .next (((s.taken 0x0405 c).endFollow f).completesOk 0x0405 c [] none) ∧
      ((s.taken 0x0405 c).endFollow f).svc.ctx[f].follow = false ∧ ((s.taken 0x0405 c).endFollow f).fan.follow[f] = {}) ∧
    (∀ (s : State) (c : CmdEntry) (f : Fin 256), s.takes 0x0405 c = true → c.bytes 26 2 = [0, 0] → c.u8 24 = f.val → s.svc.ctx[f].st ≠ .free →
      (c.u8 25 = 0 ∧ s.svc.ctx[f].follow = false ∨ c.u8 25 = 1 ∧ s.svc.ctx[f].kind = 0 ∧ s.svc.ctx[f].follow = true) →
      exec (.fanFollow c) s = .next ((s.taken 0x0405 c).completesOk 0x0405 c [] none)) ∧
    (∀ (s : State) (v : _), ∃ (u : State), exec (.fanDisable v) s = .next u ∧ u.fan.ctl = v &&& 0x000F1F00 ∧ u.fan.policy = s.fan.policy ∧ u.fan.grantRun = s.fan.grantRun ∧
      (∀ q : Fin 256, q ∈ s.idleShadows → u.svc.ctx[q].st = .closing) ∧
      (s.idleShadows = [] → s.fanWins = [] → u = { s with fan := { s.fan with ctl := v &&& 0x000F1F00 } }))

/-- R221 to R229, R238 to R247: what the Fantail decides. -/
def Obligations.TheFantailScoresAndDecides : Prop :=
  (∀ (s : State) (x : List Nat), s.pairRuns 0 = false → exec (.fanScoreTick x) s = .next s) ∧
    (∀ (s : State) (l : _) (x : List Nat), s.pairRuns 0 = true → s.followed = [] → s.fanWins = [] → s.idleShadows = [] → s.fan.heard = [] → s.fan.links = [] → s.fan.freqs = [] → s.fan.others = [] → s.fan.sdcs = [] → s.fan.nextPolicy = some l →
      exec (.fanScoreTick x) s = .next { s with fan := { s.fan with policy := l, nextPolicy := none } }) ∧
    (∀ (s : State) (f : Fin 256) (x : List Nat), s.pairRuns 0 = true → s.fan.ctl.getLsbD 0 = true → s.followed = [f] → s.fanWins = [] → s.fan.nextPolicy = none → s.fan.follow[f].cands = [] →
      s.fan.follow[f].blend = none → s.shadowsOf f = [] → s.svc.ctx[f].st = .acquiring →
      s.fan.heard = [] → s.fan.links = [] → s.fan.freqs = [] → s.fan.others = [] → s.fan.sdcs = [] → s.signals f = [] →
      ∃ (u : State), exec (.fanScoreTick x) s = .next u ∧ u.fan.follow[f].noCand = true ∧ u.fan.follow[f].blend = none ∧ u.fan.switches = s.fan.switches ∧
        u.fan.policy = s.fan.policy ∧ (s.fan.follow[f].noCand = true → u.host = s.host ∧ u.evt = s.evt) ∧
        u = { s with fan := u.fan, host := u.host, evt := u.evt }) ∧
    (∀ (s : State) (f : Fin 256) (c : Fin 256) (k : Cand) (x : List Nat), s.pairRuns 0 = true → s.fan.ctl.getLsbD 0 = true → s.followed = [f] → s.fanWins = [] → s.fan.nextPolicy = none →
      s.fan.follow[f].cands = [some k] → s.fan.follow[f].blend = none → s.shadowsOf f = [c] → 1 ≤ s.pol 51 → s.svc.ctx[f].st = .acquiring →
      k.shadow = some c → k.blocked = false → s.ready f (s.judge f k) = true →
      s.fan.heard = [] → s.fan.links = [] → s.fan.freqs = [] → s.fan.others = [] → s.fan.sdcs = [] → s.signals f = [] →
      ∃ (u : State), exec (.fanScoreTick x) s = .next u ∧ u.fan.switches = s.fan.switches + 1 ∧ u.svc = s.svc ∧
        u.fan.follow[f].blend = some { dest := 0, dip := false, reversed := false, started := s.sys.timeUs, ms := s.pol16 42, lvl := s.lvlOf k, short := false, pos := 0, wait := 0 } ∧
        u.cand f 0 = some (s.judge f k)) ∧
    (∀ (s : State) (f : Fin 256), s.svc.ctx[f].follow = true → s.fan.follow[f].blend = none →
      exec (.fanHoldBadExpiry f) s = .next (if s.runnerQ s.svc.ctx[f].runner < s.th8 (s.stdOf s.svc.ctx[f].runner) then s.modFollow f fun w => { w with failed := true } else s)) ∧
    (∀ (s : State) (f : Fin 256) (b : Blend) (k : Cand) (r : Fin 32), s.svc.ctx[f].follow = true → s.fan.follow[f].blend = some b → s.cand f b.dest = some k → s.demod f k = some r → s.runnerQ r < s.th8 k.std →
      exec (.fanHoldBadExpiry f) s = .next (s.modFollow f fun w => { w with blend := some { b with reversed := true } })) ∧
    (∀ (s : State) (f : Fin 256), s.svc.ctx[f].follow = false → exec (.fanHoldBadExpiry f) s = .next s) ∧
    (∀ (s : State) (f : Fin 256) (i : Fin 32) (k : Cand), s.cand f i.val = some k → s.svc.ctx[f].follow = true → s.fan.ctl.getLsbD 0 = true → s.fan.follow[f].blend = none →
      s.margin f k = true → s.stayed f = true →
      exec (.fanDwellGoodExpiry f i) s = .next ((s.modFollow f fun w => { w with dwellOk := some i.val }).startSwitch f i.val 1 (s.pol16 42)) ∧
      ((s.modFollow f fun w => { w with dwellOk := some i.val }).startSwitch f i.val 1 (s.pol16 42)).fan.follow[f].blend =
        some { dest := i.val, dip := !s.ready f k, reversed := false, started := s.sys.timeUs, ms := if s.ready f k then s.pol16 42 else 2 * s.pol 46, lvl := if s.ready f k then s.lvlOf k else 0, short := false, pos := 0, wait := 0 }) ∧
    (∀ (s : State) (f : Fin 256) (i : Fin 32) (k : Cand), s.cand f i.val = some k → s.margin f k = false → exec (.fanDwellGoodExpiry f i) s = .next s) ∧
    (∀ (s : State) (f : Fin 256) (i : Fin 32) (k : Cand), s.cand f i.val = some k → (k.host = true ∨ s.fresh k.stamp = true) → exec (.fanCandExpiry f i) s = .next s) ∧
    (∀ (s : State) (f : Fin 256) (i : Fin 32) (k : Cand), s.cand f i.val = some k → k.host = false → s.fresh k.stamp = false → k.shadow = none →
      ∃ (u : State), exec (.fanCandExpiry f i) s = .next u ∧ u.cand f i.val = none ∧ (∀ j : Nat, j ≠ i.val → u.cand f j = s.cand f j) ∧
        u = { s with fan := u.fan, host := u.host, evt := u.evt }) ∧
    (∀ (s : State) (f : Fin 256) (i : Fin 32) (k : Cand), s.cand f i.val = some k →
      ∃ (u : State), exec (.fanPiSeenExpiry f i) s = .next u ∧ u.cand f i.val = some { k with piSeen := false } ∧ (∀ j : Nat, j ≠ i.val → u.cand f j = s.cand f j) ∧
        (∀ g : Fin 256, g ≠ f → u.fan.follow[g] = s.fan.follow[g]) ∧ u = { s with fan := { s.fan with follow := u.fan.follow } }) ∧
    (∀ (s : State) (f : Fin 256) (a : _), s.svc.ctx[f].follow = true → s.fan.follow[f].blend = none → s.fan.follow[f].cands = [] →
      exec (.fanGap f false a) s = .next (if s.gapMs f a = 0 then s.modFollow f fun w => { w with gapped := true } else s)) ∧
    (∀ (s : State) (f : Fin 256) (a : _) (k : Cand) (t : _), s.svc.ctx[f].follow = true → s.fan.follow[f].blend = none → s.fan.follow[f].cands = [some k] → s.ready f k = true → k.blocked = false →
      s.fan.ctl.getLsbD 0 = true → t = s.gapMs f a →
      ∃ (u : State), exec (.fanGap f false a) s = .next u ∧ u.fan.switches = s.fan.switches + 1 ∧ u.svc = s.svc ∧ u.fan.follow[f].blend =
        some { dest := 0, dip := false, reversed := false, started := s.sys.timeUs, ms := if t < 6 then 5 else min (s.pol16 42) (t - 1), lvl := s.lvlOf k, short := false, pos := 0, wait := if t < 6 then 48 * t else 0 }) ∧
    (∀ (s : State) (f : Fin 256) (a : _), (s.svc.ctx[f].follow = false ∨ s.fan.follow[f].blend = none) → exec (.fanGap f true a) s = .next s) ∧
    (∀ (s : State) (f : Fin 256) (a : _) (b : Blend) (k : Cand) (c : Fin 256), s.svc.ctx[f].follow = true → s.fan.follow[f].blend = some b → b.dip = false → b.reversed = false → s.cand f b.dest = some k → k.shadow = some c →
      s.gapMs c a < s.blendLeft b →
      exec (.fanGap f true a) s = .next (s.modFollow f fun w => { w with blend := some { b with reversed := true } })) ∧
    (∀ (s : State) (f : Fin 256) (a : _) (b : Blend) (t : _), s.svc.ctx[f].follow = true → s.fan.follow[f].blend = some b → b.dip = false → b.reversed = false → t = s.gapMs f a → t < s.blendLeft b →
      exec (.fanGap f false a) s = .next (s.modFollow f fun w => { w with blend := some { b with ms := s.msSince b.started + if t < 5 then t else t - 1, short := true } })) ∧
    (∀ (s : State) (f : Fin 256) (a : _) (b : Blend), s.svc.ctx[f].follow = true → s.fan.follow[f].blend = some b → s.blendLeft b ≤ s.gapMs f a → exec (.fanGap f false a) s = .next s) ∧
    (∀ (s : State) (f : Fin 256) (b : Blend) (k : Cand) (c : Fin 256), s.fan.ctl.getLsbD 0 = true → s.fan.follow[f].blend = some b → b.reversed = false → s.cand f b.dest = some k → k.shadow = some c → c ≠ f →
      ∃ (u : State), exec (if b.dip then .dipEnd f else .blendEnd f) s = .next u ∧ u.svc.ctx[f].runner = s.svc.ctx[c].runner ∧ u.svc.ctx[c].runner = s.svc.ctx[f].runner ∧
        u.svc.ctx[f].component = s.svc.ctx[c].component ∧ u.svc.ctx[c].component = s.svc.ctx[f].component ∧ u.fan.follow[f].blend = none ∧
        u.fan.follow[f].lastSwitch = some s.sys.timeUs ∧ u.fan.follow[f].curScore = k.score ∧ u.fan.follow[f].failed = false ∧ u.fan.follow[f].gain = 12000 * b.lvl) ∧
    (∀ (s : State) (f : Fin 256) (b : Blend), s.fan.ctl.getLsbD 0 = true → s.fan.follow[f].blend = some b → b.reversed = true →
      ∃ (u : State), exec (if b.dip then .dipEnd f else .blendEnd f) s = .next u ∧ u.svc = s.svc ∧
        u.fan = (s.modFollow f fun w => { w with blend := none, lastSwitch := some s.sys.timeUs, under := [] }).fan ∧ s.onlyReports { u with fan := s.fan }) ∧
    (∀ (s : State) (f : Fin 256) (b : Blend), s.fan.follow[f].blend = some b → exec (if b.dip then .blendEnd f else .dipEnd f) s = .next s) ∧
    (∀ (s : State) (f : Fin 256), s.fan.follow[f].blend = none → exec (.blendEnd f) s = .next s ∧ exec (.dipEnd f) s = .next s)

/-- R230 to R236: alignment. -/
def Obligations.EstimatorsAlignShadows : Prop :=
  (∀ (s : State) (e : Fin 4) (o : AlignObs), (s.fan.est[e].work = none ∨ alignSkip o = true) → exec (.alignTick e o) s = .next s) ∧
    (∀ (o : AlignObs), alignSkip o = true ↔ (o.oldDev < 100 ∨ o.newDev < 100 ∨ o.oldMean < -6000 ∨ o.newMean < -6000)) ∧
    (∀ (s : State) (e : Fin 4) (o : AlignObs) (f : Fin 256) (i : Nat) (k : Cand), s.fan.est[e].work = some (f, i) → s.cand f i = some k → k.converged = false →
      s.fan.est[e].fine = false → s.historyOk f k = false → exec (.alignTick e o) s = .next s) ∧
    (∀ (s : State) (e : Fin 4) (o : AlignObs) (f : Fin 256) (i : Nat) (k : Cand) (x : Estimate), s.fan.est[e].work = some (f, i) → s.cand f i = some k → alignSkip o = false →
      k.shadow.isSome = true → k.converged = false → s.fan.est[e].fine = false → s.historyOk f k = true → x = alignEstimate o (s.lagMax f k) → s.pol 48 ≤ x.peak → x.distinct = true → x.nearEdge = false →
      (s.fan.est[e].coarse.all fun l => decide (2 < (x.lag - l).natAbs)) = true →
      exec (.alignTick e o) s = .next (s.modEst e fun y => { y with best := max y.best x.peak, edge := if y.best < x.peak then x.nearEdge else y.edge, coarse := some x.lag })) ∧
    (∀ (s : State) (e : Fin 4) (o : AlignObs) (f : Fin 256) (i : Nat) (k : Cand) (x : Estimate), s.fan.est[e].work = some (f, i) → s.cand f i = some k → alignSkip o = false →
      k.shadow.isSome = true → k.converged = false → s.fan.est[e].fine = false → s.historyOk f k = true → x = alignEstimate o (s.lagMax f k) → (x.peak < s.pol 48 ∨ x.distinct = false ∨ x.nearEdge = true) →
      exec (.alignTick e o) s = .next (s.modEst e fun y => { y with best := max y.best x.peak, edge := if y.best < x.peak then x.nearEdge else y.edge, coarse := none })) ∧
    (∀ (s : State) (e : Fin 4) (o : AlignObs) (f : Fin 256) (i : Nat) (k : Cand) (x : Estimate), s.fan.est[e].work = some (f, i) → s.cand f i = some k → alignSkip o = false →
      k.shadow.isSome = true → k.converged = false → s.fan.est[e].fine = false → s.historyOk f k = true → x = alignEstimate o (s.lagMax f k) → s.pol 48 ≤ x.peak → x.distinct = true → x.nearEdge = false →
      (s.fan.est[e].coarse.any fun l => decide ((x.lag - l).natAbs ≤ 2)) = true →
      ∃ (u : State), exec (.alignTick e o) s = .next u ∧ u.fan.est[e].coarse = some x.lag ∧ u.fan.est[e].fine = true ∧ u.fan.est[e].work = some (f, i) ∧
        u.fan.follow = (s.modCand f i fun q => { q with lag := 48 * x.lag, level := alignLevel o, filled := false }).fan.follow) ∧
    (∀ (s : State) (e : Fin 4) (o : AlignObs) (f : Fin 256) (i : Nat) (k : Cand) (x : Int × Nat), s.fan.est[e].work = some (f, i) → s.cand f i = some k → alignSkip o = false →
      k.shadow.isSome = true → x = alignFine o k.lag → k.converged = false → s.fan.est[e].fine = true →
      ∃ (u : State), exec (.alignTick e o) s = .next u ∧ (x.2 < s.pol 48 → u = s) ∧ (s.pol 48 ≤ x.2 → (u.cand f i).map (fun q => { q with filled := k.filled }) =
        some { k with converged := true, lag := x.1, level := alignLevel o } ∧ u.fan.est[e].short = 0)) ∧
    (∀ (s : State) (e : Fin 4) (o : AlignObs) (f : Fin 256) (i : Nat) (k : Cand) (x : Int × Nat), s.fan.est[e].work = some (f, i) → s.cand f i = some k → alignSkip o = false →
      k.shadow.isSome = true → x = alignFine o k.lag → k.converged = true →
      ∃ (u : State), exec (.alignTick e o) s = .next u ∧ (s.pol 48 ≤ x.2 → u.fan.est[e].short = 0 ∧ (u.cand f i).map (fun q => { q with filled := k.filled }) =
          some { k with level := alignLevel o, lag := if 1 < (x.1 - k.lag).natAbs then x.1 else k.lag }) ∧
        (x.2 < s.pol 48 → s.fan.est[e].short < 9 → u = s.modEst e fun y => { y with short := y.short + 1 }) ∧
        (x.2 < s.pol 48 → 9 ≤ s.fan.est[e].short → u.cand f i = some { k with converged := false, filled := false } ∧ u.fan.est[e] = { work := some (f, i) } ∧
          u.svc = s.svc ∧ u.win = s.win)) ∧
    (∀ (s : State) (e : Fin 4) (o : AlignObs) (f : Fin 256) (i : Nat) (k : Cand) (x : Estimate), s.fan.est[e].work = some (f, i) → s.cand f i = some k → k.converged = true →
      alignSkip o = false → x = alignEstimate o (s.lagMax f k) → 960 < (48 * x.lag - k.lag).natAbs →
      ∃ (u : State), exec (.alignCoarseCheck e o) s = .next u ∧ u.cand f i = some { k with converged := false, filled := false } ∧
        u.fan.est[e] = { work := some (f, i) } ∧ u = { s with fan := u.fan, host := u.host, evt := u.evt }) ∧
    (∀ (s : State) (e : Fin 4) (o : AlignObs) (f : Fin 256) (i : Nat) (k : Cand), s.fan.est[e].work = some (f, i) → s.cand f i = some k →
      (k.converged = false ∨ alignSkip o = true ∨ (48 * (alignEstimate o (s.lagMax f k)).lag - k.lag).natAbs ≤ 960) →
      exec (.alignCoarseCheck e o) s = .next s) ∧
    (∀ (s : State) (e : Fin 4), s.fan.est[e].work = none → (∀ o : AlignObs, exec (.alignCoarseCheck e o) s = .next s) ∧ exec (.alignTimeout e) s = .next s) ∧
    (∀ (s : State) (e : Fin 4) (f : Fin 256) (i : Nat) (k : Cand), s.fan.est[e].work = some (f, i) → s.cand f i = some k → k.converged = false →
      ∃ (u : State), exec (.alignTimeout e) s = .next u ∧ u.fan.est[e] = {} ∧ u.cand f i = some { k with retry := true } ∧
        u = { s with fan := u.fan, host := u.host, evt := u.evt }) ∧
    (∀ (s : State) (e : Fin 4) (f : Fin 256) (i : Nat) (k : Cand), s.fan.est[e].work = some (f, i) → s.cand f i = some k → k.converged = true →
      exec (.alignTimeout e) s = .next s) ∧
    (∀ (s : State) (f : Fin 256) (i : Fin 32) (k : Cand), s.cand f i.val = some k →
      ∃ (u : State), exec (.alignRetry f i) s = .next u ∧ u.cand f i.val = some { k with retry := false } ∧
        (∀ e : Fin 4, s.fan.est[e].work.isSome = true → u.fan.est[e] = s.fan.est[e]) ∧ u = { s with fan := u.fan }) ∧
    (∀ (s : State) (f : Fin 256) (i : Fin 32) (k : Cand) (c : Fin 256) (d : Nat), s.cand f i.val = some k → k.shadow = some c → s.shadowDelay f k = d → d ≤ 288000 → s.hasLine c d = true → s.poolFrames c ≤ s.svc.ctx[c].line.length →
      ∃ (u : State), exec (.shadowDelayFilled f i) s = .next u ∧ u.cand f i.val = some { k with filled := true } ∧ (∀ j : Nat, j ≠ i.val → u.cand f j = s.cand f j) ∧
        u = { s with fan := u.fan }) ∧
    (∀ (s : State) (f : Fin 256) (i : Fin 32) (k : Cand), s.cand f i.val = some k → (k.shadow = none ∨ s.shadowDelay f k < 0 ∨ 288000 < s.shadowDelay f k) →
      exec (.shadowDelayFilled f i) s = .next s)

/-- R252, R266, R269, R270: the bulletin commands. -/
def Obligations.BulletinCommandsComplete : Prop :=
  (∀ (s : State) (c : CmdEntry) (f : _), s.takes 0x0601 c = true → f = BitVec.ofNat 64 (c.u64 24) → c.u64 24 ≠ 0 → c.u64 24 ≠ 2 ^ 64 - 1 → c.u8 32 ≤ 15 → c.bytes 33 3 = [0, 0, 0] →
      (s.bul.keysLocked = false ∨ s.bul.fleetId = f) →
      exec (.bulCfg c) s = .next (({ s.taken 0x0601 c with bul := (if s.bul.fleetId = f then { s.bul with wakeMask := BitVec.ofNat 4 (c.u8 32) } else { s.bul with fleetId := f, store := Vector.replicate 128 {}, ctr := Vector.replicate 4 0, reasm := Vector.replicate 2 none, wakeMask := BitVec.ofNat 4 (c.u8 32) }) }).completesOk 0x0601 c [] none)) ∧
    (∀ (s : State) (c : CmdEntry), s.takes 0x0601 c = true → (c.u64 24 = 0 ∨ c.u64 24 = 2 ^ 64 - 1) → exec (.bulCfg c) s = .next ((s.taken 0x0601 c).finish 0x0601 c .range 24 [] none)) ∧
    (∀ (s : State) (c : CmdEntry), s.takes 0x0601 c = true → c.u64 24 ≠ 0 → c.u64 24 ≠ 2 ^ 64 - 1 → c.u8 32 ≤ 15 → c.bytes 33 3 = [0, 0, 0] →
      s.bul.keysLocked = true → s.bul.fleetId ≠ BitVec.ofNat 64 (c.u64 24) →
      exec (.bulCfg c) s = .next ((s.taken 0x0601 c).finish 0x0601 c .locked 0 [] none)) ∧
    (∀ (s : State) (c : CmdEntry) (k : Fin 2), s.takes 0x0602 c = true → c.u8 24 = k.val → (c.u8 25 = 1 ∨ c.u8 25 = 3) → c.bytes 26 2 = [0, 0] → c.bufIn = true → s.bul.keysLocked = false →
      exec (.bulKey c) s = .next (({ s.taken 0x0602 c with bul := { s.bul with keys := upd s.bul.keys k fun _ => some (slice c.buf 0 2592), keysLocked := decide (c.u8 25 = 3) } }).completesOk 0x0602 c [] none)) ∧
    (∀ (s : State) (c : CmdEntry), s.takes 0x0602 c = true → c.u8 24 ≤ 1 → (c.u8 25 = 0 ∨ c.u8 25 = 2) → c.bytes 26 2 = [0, 0] → c.bufIn = false → s.bul.keysLocked = false →
      exec (.bulKey c) s = .next (({ s.taken 0x0602 c with bul := { s.bul with keysLocked := decide (c.u8 25 = 2) } }).completesOk 0x0602 c [] none)) ∧
    (∀ (s : State) (c : CmdEntry), s.takes 0x0602 c = true → c.u8 24 ≤ 1 → c.u8 25 ≤ 3 → c.bytes 26 2 = [0, 0] → c.bufIn = decide (c.u8 25 % 2 = 1) → s.bul.keysLocked = true →
      exec (.bulKey c) s = .next ((s.taken 0x0602 c).finish 0x0602 c .locked 0 [] none)) ∧
    (∀ (s : State) (c : CmdEntry) (rn : Fin 32) (ant : Fin 4), s.takes 0x0603 c = true → c.u8 24 ≤ 1 → c.u8 25 = ant.val → 1 ≤ c.u8 26 → c.u8 26 ≤ 5 → c.u8 27 = rn.val → presetRunner (c.u8 26) rn.val = true → kindServed rn 5 = true →
      s.cap.hr[ant].bandOk (c.u8 26) (c.u32 28) = true → compOk rn 5 (BitVec.ofNat 32 (c.u32 32)) = true → 60 ≤ c.u16 36 → 10 ≤ c.u16 38 → c.u16 38 ≤ 600 →
      c.bytes 44 4 = [0, 0, 0, 0] →
      exec (.bulWatch c) s = .next (({ s.taken 0x0603 c with bul := { s.bul with watchEn := decide (c.u8 24 = 1), watchAnt := byte ant.val, watchPreset := byte (c.u8 26), watchRunner := byte rn.val, watchFreq := BitVec.ofNat 32 (c.u32 28), watchComp := BitVec.ofNat 32 (c.u32 32), watchPeriod := BitVec.ofNat 16 (c.u16 36), watchLength := BitVec.ofNat 16 (c.u16 38), watchAnchor := BitVec.ofNat 32 (c.u32 40) } }).completesOk 0x0603 c [] none)) ∧
    (∀ (s : State) (c : CmdEntry) (rn : Fin 32) (ant : Fin 4), s.takes 0x0603 c = true → c.u8 24 ≤ 1 → c.u8 25 = ant.val → 1 ≤ c.u8 26 → c.u8 26 ≤ 5 → c.u8 27 = rn.val → presetRunner (c.u8 26) rn.val = true → kindServed rn 5 = true →
      s.cap.hr[ant].bandOk (c.u8 26) (c.u32 28) = true → compOk rn 5 (BitVec.ofNat 32 (c.u32 32)) = true → c.u16 36 < 60 →
      exec (.bulWatch c) s = .next ((s.taken 0x0603 c).finish 0x0603 c .range 36 [] none)) ∧
    (∀ (s : State) (c : CmdEntry), s.takes 0x0604 c = true → c.bytes 24 4 = [0, 0, 0, 0] →
      exec (.bulList c) s = .next ((s.taken 0x0604 c).completesOk 0x0604 c [] (some s.bulImage)) ∧ s.bulImage.length = 2080 ∧
      slice s.bulImage 0 8 = leBytes 8 s.bul.fleetId.toNat ∧ ∀ r : Fin 128, slice s.bulImage (32 + 16 * r.val) 16 = s.bul.store[r].entry) ∧
    (∀ (s : State) (c : CmdEntry) (r : Fin 128), s.takes 0x0605 c = true → c.bytes 24 4 = [byte r.val, 0, 0, 0] → s.bul.store[r].st ≠ 0 → s.bul.store[r].bytes.length ≤ c.bufLen.toNat →
      exec (.bulRead c) s = .next (((s.taken 0x0605 c).modBul r fun x => { x with st := if x.st = 1 then 2 else x.st }).completesOk 0x0605 c (leBytes 4 s.bul.store[r].bytes.length) (some s.bul.store[r].bytes))) ∧
    (∀ (s : State) (c : CmdEntry) (r : Fin 128), s.takes 0x0605 c = true → c.bytes 24 4 = [byte r.val, 0, 0, 0] →
      (s.bul.store[r].st = 0 → exec (.bulRead c) s = .next ((s.taken 0x0605 c).finish 0x0605 c .notfound 0 [] none)) ∧
      (s.bul.store[r].st ≠ 0 → c.bufLen.toNat < s.bul.store[r].bytes.length → exec (.bulRead c) s = .next ((s.taken 0x0605 c).finish 0x0605 c .range 16 [] none))) ∧
    (∀ (s : State) (c : CmdEntry) (r : Fin 128), s.takes 0x0606 c = true → c.bytes 24 4 = [byte r.val, 0, 0, 0] → s.bul.store[r].st ≠ 0 →
      exec (.bulRelease c) s = .next (((s.taken 0x0606 c).modBul r fun x => { x with st := 3 }).completesOk 0x0606 c [] none)) ∧
    (∀ (s : State) (c : CmdEntry) (r : Fin 128), s.takes 0x0606 c = true → c.bytes 24 4 = [byte r.val, 0, 0, 0] → s.bul.store[r].st = 0 →
      exec (.bulRelease c) s = .next ((s.taken 0x0606 c).finish 0x0606 c .notfound 0 [] none)) ∧
    (∀ (s : State) (c : CmdEntry) (r : Fin 128), s.takes 0x0606 c = true → c.bytes 24 4 = [byte r.val, 1, 0, 0] →
      exec (.bulRelease c) s = .next (({ s.taken 0x0606 c with bul := { s.bul with store := s.bul.store.map fun x : BulRec => if x.st = 0 then x else { x with st := 3 } } }).completesOk 0x0606 c [] none))

/-- R256 to R267, R98: what becomes of segments, and reception in WATCH. -/
def Obligations.SegmentsBecomeBulletins : Prop :=
  (∀ (s : State) (o : SegObs), (s.carries o.runner = false ∨ bulletinOf o.group = none ∨ s.saf.safe = true) → exec (.bulSegment o) s = .next s) ∧
    (∀ (s : State) (o : SegObs) (b : List Byte) (n : Nat), s.carries o.runner = true → bulletinOf o.group = some b → s.saf.safe = false → s.bul.fleetId ≠ 0 →
      n = (if b.length < 28 then 4 else if segFleet b ≠ s.bul.fleetId.toNat then 1 else if segKind b = 0 ∨ 4 < segKind b then 2
        else if segSeq b < s.bulCtr (segKind b) then 3 else if segSeq b = s.bulCtr (segKind b) then 6
        else if segOk b (segTransport o.runner).2 = false then 4 else 0) → n ≠ 0 →
      exec (.bulSegment o) s = .next (s.bump (0xBC00 + 4 * n) 1)) ∧
    (∀ (s : State) (o : SegObs) (b : List Byte) (i : Fin 2) (r : Reasm), s.carries o.runner = true → bulletinOf o.group = some b → s.saf.safe = false → segFleet b = s.bul.fleetId.toNat → s.bul.fleetId ≠ 0 →
      1 ≤ segKind b → segKind b ≤ 4 → s.bulCtr (segKind b) < segSeq b → segOk b (segTransport o.runner).2 = true →
      s.bul.bufOf (segKind b) (segSeq b) = some i → s.bul.reasm[i] = some r → r.total = segTotal b →
      (r.join (segOffset b) (slice b 24 (segLen b)) (segTransport o.runner).1).full = false →
      exec (.bulSegment o) s = .next ((s.bump 0xBC00 1).setReasm i (some (r.join (segOffset b) (slice b 24 (segLen b)) (segTransport o.runner).1)))) ∧
    (∀ (s : State) (o : SegObs) (b : List Byte) (i : Fin 2), s.carries o.runner = true → bulletinOf o.group = some b → s.saf.safe = false → segFleet b = s.bul.fleetId.toNat → s.bul.fleetId ≠ 0 →
      1 ≤ segKind b → segKind b ≤ 4 → s.bulCtr (segKind b) < segSeq b → segOk b (segTransport o.runner).2 = true →
      s.bul.bufOf (segKind b) (segSeq b) = none → s.bul.reasm[i] = none → (∀ j : Fin 2, j < i → (s.bul.reasm[j]).isSome = true) →
      ∃ (u : State) (r : Reasm), exec (.bulSegment o) s = .next u ∧ u.bul.reasm[i] = some r ∧ r.kind = byte (segKind b) ∧ r.seq = BitVec.ofNat 32 (segSeq b) ∧
        r.total = segTotal b ∧ r.first = s.sys.timeUs ∧ r.units = (List.range (ceilDiv (segLen b) 128)).map (fun j => segOffset b / 128 + j) ∧
        (∀ j : Fin 2, j ≠ i → u.bul.reasm[j] = s.bul.reasm[j]) ∧ u = { s with tlm := (s.bump 0xBC00 1).tlm, bul := { s.bul with reasm := u.bul.reasm } }) ∧
    (∀ (s : State) (o : SegObs) (b : List Byte) (i : Fin 2) (r : Reasm) (m : List Byte) (k : Fin 128), s.carries o.runner = true → bulletinOf o.group = some b → s.saf.safe = false → segFleet b = s.bul.fleetId.toNat → s.bul.fleetId ≠ 0 →
      segKind b = 4 → s.bulCtr 4 < segSeq b → segOk b (segTransport o.runner).2 = true → s.bul.bufOf 4 (segSeq b) = some i → s.bul.reasm[i] = some r → r.total = segTotal b →
      (r.join (segOffset b) (slice b 24 (segLen b)) (segTransport o.runner).1).full = true →
      m = (r.join (segOffset b) (slice b 24 (segLen b)) (segTransport o.runner).1).bytes → s.bul.place m.length = some k →
      ∃ u : State, exec (.bulSegment o) s = .next u ∧ u.bul.reasm[i] = none ∧
        match s.bulCheck 4 (segSeq b) m with | some code => u = (((s.bump 0xBC00 1).setReasm i none).raise 57 code ([0, 4, 0, 0] ++ leBytes 4 (segSeq b))) | none => u.bul.store[k].st = 1 ∧ u.bul.store[k].bytes = m ∧ u.bul.store[k].kind = 4 ∧ u.bul.ctr[3] = BitVec.ofNat 32 (segSeq b)) ∧
    (∀ (s : State) (b : Fin 2) (r : Reasm), s.bul.reasm[b] = some r → 86400000000 ≤ (s.sys.timeUs - r.first).toNat → exec (.bulReassemblyTimeout b) s = .next ((s.setReasm b none).raise 57 7 ([0, r.kind, 0, 0] ++ leBytes 4 r.seq.toNat))) ∧
    (∀ (s : State) (b : Fin 2), (s.bul.reasm[b].all fun r => decide ((s.sys.timeUs - r.first).toNat < 86400000000)) = true → exec (.bulReassemblyTimeout b) s = .next s) ∧
    (∀ (s : State) (r : Fin 128), s.bul.store[r].st ≠ 0 → s.bul.store[r].pending = true → s.bul.store[r].kind ≠ 1 → s.bul.wakeMask.getLsbD (s.bul.store[r].kind.toNat - 1) = false →
      exec (.bulNotBefore r) s = .next (s.modBul r fun x => { x with pending := false })) ∧
    (∀ (s : State) (r : Fin 128), s.bul.store[r].st ≠ 0 → s.bul.store[r].pending = true → s.bul.store[r].kind ≠ 1 → s.bul.wakeMask.getLsbD (s.bul.store[r].kind.toNat - 1) = true →
      (bulRules s.bul.store[r].bytes).getLsbD 0 = true → s.bul.store[r].wakeRaised = false → s.pwr.st = .run →
      exec (.bulNotBefore r) s = .next ((s.modBul r fun x => { x with pending := false, wakeRaised := true }).raise 58 0 ([byte r.val, s.bul.store[r].kind, 0, 0] ++ leBytes 4 s.bul.store[r].seq.toNat))) ∧
    (∀ (s : State) (r : Fin 128), (s.bul.store[r].st = 0 ∨ s.bul.store[r].pending = false) → exec (.bulNotBefore r) s = .next s) ∧
    (∀ (s : State) (ant : Fin 4), s.pwr.st = .watch → s.bul.watchEn = true → s.bul.winStep = 0 → s.pwr.waking = none → ant = s.watchAntenna →
      ∃ (u : State), exec .bulWindowPrep s = .next u ∧ u.bul = { s.bul with winStep := 1 } ∧ u.pwr.pmicWait = some 800 ∧ u.clk.pllOn = true ∧ u.cap.hr[ant].running = true ∧
        (∀ n : Fin 4, n ≠ ant → u.cap.hr[n] = s.cap.hr[n]) ∧ u.svc = s.svc ∧ u.win = s.win) ∧
    (∀ (s : State), (s.pwr.st ≠ .watch ∨ s.bul.watchEn = false) → exec .bulWindowPrep s = .next s) ∧
    (∀ (s : State) (ant : Fin 4), s.bul.winStep = 1 → ant = s.watchAntenna →
      exec .bulFeedOn s = .next (if s.cap.feed[ant].wanted = true ∧ s.cap.feed[ant].st ≠ .shutoff then ({ s with bul := { s.bul with winStep := 2 } }).modFeed ant fun f => f.rampUp s.sys.timeUs else { s with bul := { s.bul with winStep := 2 } })) ∧
    (∀ (s : State), s.bul.winStep ≠ 1 → exec .bulFeedOn s = .next s) ∧
    (∀ (s : State) (win : Fin 64), s.bul.winStep = 2 → s.pwr.level = 2 → s.pwr.st = .watch → s.windowSecond = true → s.win.win[win].st = 0 → (∀ w : Fin 64, w < win → s.win.win[w].st ≠ 0) →
      exec .bulWindowOpen s = .next (match s.openWin win s.watchReq with | some t => { t with bul := { t.bul with winStep := 3 } } | none => s)) ∧
    (∀ (s : State), (s.pwr.level ≠ 2 ∨ s.windowSecond = false ∨ s.bul.winStep ≠ 2) → exec .bulWindowOpen s = .next s) ∧
    (∀ (s : State) (ant : Fin 4), s.bul.winStep ≠ 0 → s.pwr.st = .watch → s.pwr.waking = none → ant = s.watchAntenna →
      ∃ (u : State), exec .bulWindowClose s = .next u ∧ u.bul.winStep = 0 ∧ u.cap.hr[ant].running = false ∧ u.cap.feed[ant].on = false ∧ u.pwr.level = 0 ∧
        u.pwr.pmicWait = some 700 ∧ u.clk.pllOn = false) ∧
    (∀ (s : State), s.bul.winStep = 0 → exec .bulWindowClose s = .next s)

/-- R272, R273, R282, R289 to R297: the audio commands. -/
def Obligations.AudioCommandsComplete : Prop :=
  (∀ (s : State) (c : CmdEntry) (n : Fin 4), s.takes 0x0501 c = true → c.u8 24 = n.val → 1 ≤ c.u8 25 → c.u8 25 ≤ 16 → c.u8 26 ≤ 2 → c.u8 27 ≤ 0x1F → (c.u8 27 % 2 = 1 → c.u8 25 % 2 = 0) →
      s.clkSrcOk n (c.u8 28) = true → c.bytes 29 3 = [0, 0, 0] → c.u16 32 < 2 ^ c.u8 25 → c.u16 34 < 2 ^ c.u8 25 → s.aud.ports[n].st = 0 →
      (∀ j : Fin 4, s.aud.ports[j].clksrc = n → s.aud.ports[j].st = 0) →
      exec (.audPort c) s = .next (((s.taken 0x0501 c).modPort n fun p => { p with
        slots := c.u8 25, width := BitVec.ofNat 2 (c.u8 26), format := byte (c.u8 27), clksrc := Fin.ofNat 4 (c.u8 28), setUp := true, tx := BitVec.ofNat 16 (c.u16 32), rx := BitVec.ofNat 16 (c.u16 34), nextMasks := [], nextMap := [] }).completesOk 0x0501 c [] none)) ∧
    (∀ (s : State) (c : CmdEntry) (n : Fin 4), s.takes 0x0501 c = true → c.u8 24 = n.val → 1 ≤ c.u8 25 → c.u8 25 ≤ 16 → c.u8 26 ≤ 2 → c.u8 27 ≤ 0x1F → (c.u8 27 % 2 = 1 → c.u8 25 % 2 = 0) →
      s.clkSrcOk n (c.u8 28) = true → c.bytes 29 3 = [0, 0, 0] →
      (2 ^ c.u8 25 ≤ c.u16 32 → exec (.audPort c) s = .next ((s.taken 0x0501 c).finish 0x0501 c .range 32 [] none)) ∧
      (c.u16 32 < 2 ^ c.u8 25 → c.u16 34 < 2 ^ c.u8 25 → s.aud.ports[n].st ≠ 0 → exec (.audPort c) s = .next ((s.taken 0x0501 c).finish 0x0501 c .state 0 [] none))) ∧
    (∀ (s : State) (c : CmdEntry) (n : Fin 4), s.takes 0x0502 c = true → c.u8 24 = n.val → c.bytes 25 3 = [0, 0, 0] →
      (∀ i : Nat, i < 16 → c.u8 (28 + i) ≤ 0x47 ∨ c.u8 (28 + i) = 0x80 ∨ c.u8 (28 + i) = 0xFF) →
      (s.aud.ports[n].st.toNat < 3 → exec (.audSlotmap c) s = .next (((s.taken 0x0502 c).modPort n fun p => { p with slotmap := c.bytes 28 16 }).completesOk 0x0502 c [] none)) ∧
      (s.aud.ports[n].st = 3 → ∃ (u : State), exec (.audSlotmap c) s = .next u ∧
        u.aud = (s.modPort n fun p => { p with nextMap := p.nextMap ++ [(c.id, c.bytes 28 16)] }).aud ∧ u = { s with host := u.host, aud := u.aud })) ∧
    (∀ (s : State) (c : CmdEntry) (n : Fin 4), s.takes 0x0503 c = true → c.u8 24 = n.val → c.u8 25 = 3 → c.bytes 26 2 = [0, 0] → c.u16 28 < 2 ^ s.aud.ports[n].slots → c.u16 30 < 2 ^ s.aud.ports[n].slots →
      (s.aud.ports[n].st.toNat < 3 → exec (.audMask c) s = .next (((s.taken 0x0503 c).modPort n fun p => { p with tx := BitVec.ofNat 16 (c.u16 28), rx := BitVec.ofNat 16 (c.u16 30) }).completesOk 0x0503 c [] none)) ∧
      (s.aud.ports[n].st = 3 → ∃ (u : State), exec (.audMask c) s = .next u ∧
        u.aud = (s.modPort n fun p => { p with nextMasks := p.nextMasks ++ [(c.id, some (BitVec.ofNat 16 (c.u16 28)), some (BitVec.ofNat 16 (c.u16 30)))] }).aud ∧
        u = { s with host := u.host, aud := u.aud })) ∧
    (∀ (s : State) (c : CmdEntry) (n : Fin 4), s.takes 0x0503 c = true → c.u8 24 = n.val → c.u8 25 = 1 → c.bytes 26 2 = [0, 0] → 2 ^ s.aud.ports[n].slots ≤ c.u16 28 →
      exec (.audMask c) s = .next ((s.taken 0x0503 c).finish 0x0503 c .range 28 [] none)) ∧
    (∀ (s : State) (c : CmdEntry) (n : Fin 4), s.takes 0x0504 c = true → c.u8 24 = n.val → c.u8 25 ≤ 2 → c.u8 26 ≤ 63 → c.u8 27 = 0 → (if c.u8 25 = 0 then s.aud.ports[n].st ≠ 0 ∧ s.aud.ports[n].stopping = false else s.aud.ports[n].st = 0) →
      exec (.audStart c) s = .next (((s.taken 0x0504 c).modPort n fun p => if c.u8 25 = 0 then { p with stopping := true } else if c.u8 25 = 1 then { p with st := 2, wrong := 0, good := 0, ramp := none } else { p with st := 1, evl := Fin.ofNat 64 (c.u8 26), wrong := 0, good := 0, ramp := none }).completesOk 0x0504 c [] none)) ∧
    (∀ (s : State) (c : CmdEntry) (n : Fin 4), s.takes 0x0504 c = true → c.u8 24 = n.val → c.u8 25 ≤ 2 → c.u8 26 ≤ 63 → c.u8 27 = 0 → (if c.u8 25 = 0 then s.aud.ports[n].st = 0 else s.aud.ports[n].st ≠ 0) →
      exec (.audStart c) s = .next ((s.taken 0x0504 c).finish 0x0504 c .state 0 [] none)) ∧
    (∀ (s : State) (c : CmdEntry) (q : Fin 12), s.takes 0x0505 c = true → c.u8 24 = q.val → isQueue q.val = true → c.u8 25 = 1 → c.u8 26 ≤ 63 → c.u8 27 ≤ 63 → c.u8 27 ≠ c.u8 26 → 48 ≤ c.u16 28 → c.u16 28 ≤ 480 →
      2 ≤ c.u8 30 → c.u8 30 ≤ 64 → 1 ≤ c.u8 31 → c.u8 31 ≤ 40 → 96 * c.u8 31 + c.u16 28 ≤ c.u8 30 * c.u16 28 → c.bytes 32 4 = [0, 0, 0, 0] → s.queueBusy q = false →
      (gpLowest (s.dma.gp.filter fun e : GpAlloc => decide (e.owner ≠ GpOwner.queue q)) (c.u8 30 * (16 + (if q.val = 4 then 32 else 64) * c.u16 28))).isSome = true →
      ∃ (a : _) (l : _), gpAlloc (s.dma.gp.filter fun e : GpAlloc => decide (e.owner ≠ GpOwner.queue q)) (GpOwner.queue q) (c.u8 30 * (16 + (if q.val = 4 then 32 else 64) * c.u16 28)) = some (a, l) ∧
      exec (.audQueue c) s = .next ((({ s.taken 0x0505 c with dma := { s.dma with gp := l } }).modQueue q fun _ => ({ en := true, evlOut := Fin.ofNat 64 (c.u8 26), evlIn := Fin.ofNat 64 (c.u8 27), p := c.u16 28, b := c.u8 30, fade := c.u8 31, addr := BitVec.ofNat 32 a, st := .playing, blocks := if 8 ≤ q.val then 0 else c.u8 30 } : Queue)).completesOk 0x0505 c
        (leBytes 4 a ++ leBytes 4 (16 + (if q.val = 4 then 32 else 64) * c.u16 28)) none)) ∧
    (∀ (s : State) (c : CmdEntry) (q : Fin 12), s.takes 0x0505 c = true → c.u8 24 = q.val → isQueue q.val = true → c.u8 25 = 1 → c.u8 26 ≤ 63 → c.u8 27 ≤ 63 → c.u8 27 ≠ c.u8 26 → 48 ≤ c.u16 28 → c.u16 28 ≤ 480 →
      2 ≤ c.u8 30 → c.u8 30 ≤ 64 → 1 ≤ c.u8 31 → c.u8 31 ≤ 40 → c.bytes 32 4 = [0, 0, 0, 0] →
      (c.u8 30 * c.u16 28 < 96 * c.u8 31 + c.u16 28 → exec (.audQueue c) s = .next ((s.taken 0x0505 c).finish 0x0505 c .range 30 [] none)) ∧
      (96 * c.u8 31 + c.u16 28 ≤ c.u8 30 * c.u16 28 → s.queueBusy q = true → exec (.audQueue c) s = .next ((s.taken 0x0505 c).finish 0x0505 c .state 0 [] none)) ∧
      (96 * c.u8 31 + c.u16 28 ≤ c.u8 30 * c.u16 28 → s.queueBusy q = false →
        (∀ e : Nat, gpFits (s.dma.gp.filter fun e : GpAlloc => decide (e.owner ≠ GpOwner.queue q)) e (c.u8 30 * (16 + (if q.val = 4 then 32 else 64) * c.u16 28)) = false) →
        exec (.audQueue c) s = .next ((s.taken 0x0505 c).finish 0x0505 c .nores 0 [] none))) ∧
    (∀ (s : State) (c : CmdEntry) (q : Fin 12), s.takes 0x0505 c = true → c.u8 24 = q.val → isQueue q.val = true → c.u8 25 = 0 → c.bytes 32 4 = [0, 0, 0, 0] → s.queueBusy q = false →
      exec (.audQueue c) s = .next ((({ s.taken 0x0505 c with dma := { s.dma with gp := s.dma.gp.filter fun e : GpAlloc => decide (e.owner ≠ GpOwner.queue q) } }).modQueue q fun _ => {}).completesOk 0x0505 c [] none)) ∧
    (∀ (s : State) (c : CmdEntry), s.takes 0x0506 c = true → c.u8 25 ≤ 4 → c.u8 26 / 2 % 8 = 0 → c.u8 27 = 0 → c.u8 28 ≤ 1 → c.bytes 29 3 = [0, 0, 0] →
      ((c.u8 28 = 1 → s.aud.queues[4].en = true) → exec (.audPdm c) s = .next (({ s.taken 0x0506 c with aud := { s.aud with pdmNext := s.aud.pdmNext ++ [({ mask := byte (c.u8 24), gain := byte (c.u8 25), opt := byte (c.u8 26), en := decide (c.u8 28 = 1) } : PdmSet)] } }).completesOk 0x0506 c [] none)) ∧
      (c.u8 28 = 1 → s.aud.queues[4].en = false → exec (.audPdm c) s = .next ((s.taken 0x0506 c).finish 0x0506 c .state 0 [] none))) ∧
    (∀ (s : State) (c : CmdEntry) (k : Fin 32), s.takes 0x0507 c = true → c.u8 24 = k.val → 1 ≤ c.u8 25 → c.u8 25 ≤ 40 → c.bytes 26 2 = [0, 0] →
      (s.streamHeld k = true → exec (.audStream c) s = .next ((s.taken 0x0507 c).finish 0x0507 c .busy 0 [] none)) ∧
      (s.streamHeld k = false → s.aud.poolFree + playoutPages s.aud.streams[k].fade < playoutPages (c.u8 25) → exec (.audStream c) s = .next ((s.taken 0x0507 c).finish 0x0507 c .nores 0 [] none)) ∧
      (s.streamHeld k = false → playoutPages (c.u8 25) ≤ s.aud.poolFree + playoutPages s.aud.streams[k].fade →
        exec (.audStream c) s = .next ((({ s.taken 0x0507 c with aud := { s.aud with poolFree := s.aud.poolFree + playoutPages s.aud.streams[k].fade - playoutPages (c.u8 25) } }).modStream k fun t => { t with fade := c.u8 25 }).completesOk 0x0507 c [] none)))

/-- R273 to R290: the internal frame. -/
def Obligations.AudioFramesMove : Prop :=
  (∀ (s : State) (o : AudFrameObs), (∀ n : Fin 4, s.aud.ports[n].st = 0 ∧ s.aud.ports[n].nextMasks = [] ∧ s.aud.ports[n].nextMap = [] ∧ s.aud.ports[n].starting = false ∧ s.aud.ports[n].stopping = false) → s.aud.pdmNext = [] → s.aud.pdmEn = 0 → 
      ∃ (u : State), exec (.audFrame o) s = .next u ∧ u.aud.frame = s.aud.frame + 1 ∧ (∀ k : Fin 32, u.aud.streams[k] = s.aud.streams[k].advance) ∧ u.aud.ports = s.aud.ports ∧
        u.aud.queues = s.aud.queues ∧ (∀ n : Fin 4, u.aud.txOut[n] = []) ∧ u = { s with aud := u.aud }) ∧
    (∀ (t : Stream), (t.st = .playing → t.advance = { t with frames := t.frames.drop 1 }) ∧ (t.st = .silent → t.advance = { t with silenced := t.silenced + 1 }) ∧
      (t.st = .rampingUp → t.advance = { t with frames := t.frames.drop 1, fadePos := t.fadePos + 1 }) ∧
      (t.st = .fadingOut → t.fadePos + 1 < 48 * t.fade → t.advance = { t with frames := t.frames.drop 1, fadePos := t.fadePos + 1 }) ∧
      (t.st = .fadingOut → 48 * t.fade ≤ t.fadePos + 1 → t.advance = if t.closing then { t with st := .off, frames := [], closing := false, fadePos := 0 } else { t with frames := t.frames.drop 1, st := .silent, fadePos := 0 })) ∧
    (∀ (s : State) (n : Fin 4) (g : Fin 5) (o : AudFrameObs), s.aud.ports[n].st = 3 → s.aud.ports[n].nextMasks = [] → s.aud.ports[n].nextMap = [] → s.aud.ports[n].stopping = false → s.aud.ports[n].starting = false → s.aud.ports[n].clksrc.val = g.val → s.aud.groups[g].qualified = true → s.aud.pdmNext = [] → s.aud.pdmEn = 0 → s.aud.queues[(Fin.ofNat 12 (8 + n.val) : Fin 12)].en = false → s.aud.ports[n].ramp = none → s.aud.queues[n.castLE (by decide : 4 ≤ 12)].en = false → (∀ m : Fin 4, m ≠ n → s.aud.ports[m].st = 0 ∧ s.aud.ports[m].nextMasks = [] ∧ s.aud.ports[m].nextMap = [] ∧ s.aud.ports[m].starting = false ∧ s.aud.ports[m].stopping = false) → 
      ∃ (u : State) (e : _) (w : _), exec (.audFrame o) s = .next u ∧ u.aud.groups[g].line = (s.aud.groups[g].line ++ [e]).drop 1 ∧ e.n = s.aud.frame ∧ e.tx = [(n, w)] ∧
        e.rx = s.aud.groups[g].rxFifo.headD [] ∧ w.length = s.aud.ports[n].slots ∧ u.mem = s.mem ∧
        (∀ i : Nat, i < s.aud.ports[n].slots → s.aud.ports[n].tx.getLsbD i = false → w.getD i none = if s.aud.ports[n].format.getLsbD 4 then none else some 0) ∧
        (∀ (i : Nat) (k : Fin 32) (a b : W) (r : List (W × W)), i < s.aud.ports[n].slots → s.aud.ports[n].tx.getLsbD i = true → s.aud.streams[k].st = .playing → s.aud.streams[k].frames = (a, b) :: r →
          (s.aud.ports[n].slotmap.getD i 0xFF = byte (2 * k.val) → w.getD i none = some (roundSlot (widthBits s.aud.ports[n].width) a)) ∧
          (s.aud.ports[n].slotmap.getD i 0xFF = byte (2 * k.val + 1) → w.getD i none = some (roundSlot (widthBits s.aud.ports[n].width) b)))) ∧
    (∀ (s : State) (n : Fin 4) (g : Fin 5) (o : AudFrameObs) (x : ExtFrame) (w : List (Option W)) (r : List TxFrame) (e : LineFrame) (l : List LineFrame), s.aud.ports[n].st = 3 → s.aud.ports[n].nextMasks = [] → s.aud.ports[n].nextMap = [] → s.aud.ports[n].stopping = false → s.aud.ports[n].starting = false → s.aud.ports[n].clksrc.val = g.val → s.aud.groups[g].qualified = true → s.aud.pdmNext = [] → s.aud.pdmEn = 0 → s.aud.queues[(Fin.ofNat 12 (8 + n.val) : Fin 12)].en = false → n.val = g.val → (∀ m : Fin 4, m ≠ n → s.aud.ports[m].st = 0 ∧ s.aud.ports[m].nextMasks = [] ∧ s.aud.ports[m].nextMap = [] ∧ s.aud.ports[m].starting = false ∧ s.aud.ports[m].stopping = false) → o.ports.getD n.val [] = [x] → s.aud.groups[g].txFifo = [(n, w)] :: r → s.aud.groups[g].line = e :: l → r.length ≤ 13 → 
      ∃ (u : State), exec (.audFrame o) s = .next u ∧ u.aud.txOut[n] = [w] ∧
        u.aud.groups[g].txFifo = r ++ (if s.aud.groups[g].slipNow = none then [e.tx] else if s.aud.groups[g].slipNow = some false then [e.tx, e.tx] else []) ∧
        u.aud.groups[g].rxFifo = (s.aud.groups[g].rxFifo.drop 1 ++ [[(n.castLE (by decide : 4 ≤ 12), s.aud.ports[n].rx,
          (activeSlots s.aud.ports[n].rx s.aud.ports[n].slots).map fun k => cutSlot (widthBits s.aud.ports[n].width) (x.rx.getD k 0))]]).take 16 ∧ u.aud.groups[g].slipNow = none ∧
        (∀ m : Fin 4, m ≠ n → u.aud.txOut[m] = [])) ∧
    (∀ (s : State) (n : Fin 4) (g : Fin 5) (q : Fin 12) (o : AudFrameObs) (x : Queue) (e : LineFrame) (l : List LineFrame) (w : List W), q.val = n.val → s.aud.ports[n].st = 3 → s.aud.ports[n].nextMasks = [] → s.aud.ports[n].nextMap = [] → s.aud.ports[n].stopping = false → s.aud.ports[n].starting = false → s.aud.ports[n].clksrc.val = g.val → s.aud.groups[g].qualified = true → s.aud.pdmNext = [] → s.aud.pdmEn = 0 → s.aud.queues[(Fin.ofNat 12 (8 + n.val) : Fin 12)].en = false → (∀ m : Fin 4, m ≠ n → s.aud.ports[m].st = 0 ∧ s.aud.ports[m].nextMasks = [] ∧ s.aud.ports[m].nextMap = [] ∧ s.aud.ports[m].starting = false ∧ s.aud.ports[m].stopping = false) → s.clk.lossInRun = false → s.aud.groups[g].line = e :: l → e.rx = [(q, x.mask, w)] → x = s.aud.queues[q] → x.en = true → x.st = .playing → x.blocks ≠ 0 → x.pos + 1 < x.p → 
      (s.aud.groups[g].slipNow = none → ∃ (u : State), exec (.audFrame o) s = .next u ∧ u.aud.queues[q].pos = x.pos + 1 ∧ u.aud.queues[q].blocks = x.blocks ∧ u.aud.queues[q].flags = x.flags ∧
        u.mem = (s.store (x.addr.toNat + x.cur % x.b * (16 + 64 * x.p) + 16 + 4 * w.length * x.pos) (w.flatMap fun v => leBytes 4 v.toNat)).mem) ∧
      (s.aud.groups[g].slipNow = some false → ∃ (u : State), exec (.audFrame o) s = .next u ∧ u.aud.queues[q].pos = x.pos ∧ u.aud.queues[q].blocks = x.blocks ∧ u.aud.queues[q].flags = x.flags ||| 8 ∧ u.mem = s.mem)) ∧
    (∀ (x : Group) (a b : List LineFrame) (e : LineFrame), x.qualified = true → x.slip = none → x.slipNow = none → x.line = a ++ e :: b → (∀ y ∈ a, e.energy < y.energy) → (∀ y ∈ b, e.energy ≤ y.energy) → 
      x.decide = if 6 ≤ x.txFifo.length ∧ x.txFifo.length ≤ 10 then x else { x with slip := some (decide (10 < x.txFifo.length), e.n) }) ∧
    (∀ (s : State) (g : Fin 5) (b : Bool) (i : W), s.aud.groups[g].slip = some (b, i) → s.aud.groups[g].line.head?.map LineFrame.n = some i → 
      ∃ (u : State), exec (.slipExecute g) s = .next u ∧ u.aud = (s.modGroup g fun x => { x with slip := none, slipNow := some b }).aud ∧
        u.flags[slotAud] = s.flags[slotAud] ||| BitVec.ofNat 32 (2 ^ (8 + g.val)) ∧ u.svc = s.svc ∧ u.mem = s.mem) ∧
    (∀ (s : State) (g : Fin 5), s.aud.groups[g].slip.all (fun v => decide (s.aud.groups[g].line.head?.map LineFrame.n ≠ some v.2)) = true → exec (.slipExecute g) s = .next s)

/-- R277 to R298: clocks, fades, pulses and microphones. -/
def Obligations.AudioClocksFadesAndPulses : Prop :=
  (∀ (s : State) (g : Fin 5) (v : Int) (n : Fin 4), g.val < 4 → s.aud.groups[g].qualified = false → s.aud.ports[n].clksrc.val = g.val → 2 ≤ s.aud.ports[n].st.toNat →
      (∀ j : Fin 4, s.aud.ports[j].clksrc.val = g.val → 2 ≤ s.aud.ports[j].st.toNat → 32 ≤ s.aud.ports[j].good) → -1000 ≤ v → v ≤ 1000 →
      ∃ (u : State), exec (.audClockMeasure g v) s = .next u ∧ u.aud.groups[g].qualified = true ∧ u.aud.groups[g].ppm = v ∧ u.aud.groups[g].txFifo.length = 8 ∧ u.aud.groups[g].line.length = 480 ∧
        (s.aud.ports[n].st = 2 ∨ s.aud.ports[n].st = 4 → u.aud.ports[n].st = 3) ∧ (s.aud.ports[n].st = 4 → u.aud.ports[n].ramp = some 0) ∧
        (∀ h : Fin 5, h ≠ g → u.aud.groups[h] = s.aud.groups[h]) ∧ (∀ j : Fin 4, s.aud.ports[j].clksrc.val ≠ g.val → u.aud.ports[j] = s.aud.ports[j]) ∧
        u = { s with aud := u.aud, host := u.host, evt := u.evt, tlm := u.tlm }) ∧
    (∀ (s : State) (v : Int), s.aud.groups[(4 : Fin 5)].qualified = false → 32 ≤ s.aud.pdmGood → -1000 ≤ v → v ≤ 1000 →
      exec (.audClockMeasure 4 v) s = .next ((s.modGroup 4 fun x => { x with ppm := v, qualified := true, lost := false, line := silentLine s.aud.frame, txFifo := List.replicate 8 [], rxFifo := List.replicate 8 [] }).raise 67 1 [0xFF])) ∧
    (∀ (s : State) (g : Fin 5) (v : Int), s.aud.groups[g].qualified = false → (v < -1000 ∨ 1000 < v ∨ (g.val = 4 ∧ s.aud.pdmGood < 32) ∨ (g.val < 4 ∧ ∀ j : Fin 4, s.aud.ports[j].clksrc.val = g.val → s.aud.ports[j].st.toNat < 2 ∨ s.aud.ports[j].good < 32)) →
      exec (.audClockMeasure g v) s = .next (s.modGroup g fun x => { x with ppm := v })) ∧
    (∀ (s : State) (g : Fin 5) (v : Int) (n : Fin 4), s.aud.groups[g].qualified = true → g.val < 4 → s.aud.ports[n].clksrc.val = g.val → s.aud.ports[n].st = 3 →
      ((v.natAbs ≤ 2000 → exec (.audClockMeasure g v) s = .next (s.modGroup g fun x => { x with ppm := v })) ∧
       (2000 < v.natAbs → ∃ (u : State), exec (.audClockMeasure g v) s = .next u ∧ u.aud.groups[g].qualified = false ∧ u.aud.groups[g].lost = true ∧ u.aud.groups[g].slip = none ∧ u.aud.groups[g].txFifo = [] ∧
        u.aud.ports[n].st = 4 ∧ u.flags[slotAud] = s.flags[slotAud] ||| BitVec.ofNat 32 (2 ^ g.val) ∧ u.svc = s.svc ∧ u.mem = s.mem))) ∧
    (∀ (s : State) (g : Fin 5) (n : Fin 4), s.aud.groups[g].qualified = true → s.aud.ports[n].clksrc.val = g.val → s.aud.ports[n].st = 3 → g.val < 4 →
      (2 ≤ s.aud.groups[g].quiet → ∃ (u : State), exec (.audClockLost g 0) s = .next u ∧ u.aud.groups[g].qualified = false ∧ u.aud.ports[n].st = 4) ∧
      (3 ≤ s.aud.ports[n].wrong → ∃ (u : State), exec (.audClockLost g 1) s = .next u ∧ u.aud.groups[g].qualified = false ∧ u.aud.ports[n].st = 4)) ∧
    (∀ (s : State), s.aud.groups[(4 : Fin 5)].qualified = true → 2 ≤ s.aud.groups[(4 : Fin 5)].quiet →
      exec (.audClockLost 4 0) s = .next (((s.modGroup 4 fun x => { x with qualified := false, lost := true, slip := none, slipNow := none, line := [], txFifo := [], rxFifo := [] }).setFlag slotAud 4).raise 67 0 [0xFF])) ∧
    (∀ (s : State) (g : Fin 5), s.aud.groups[g].quiet < 2 → exec (.audClockLost g 0) s = .next s) ∧
    (∀ (s : State) (g : Fin 5), (∀ j : Fin 4, s.aud.ports[j].clksrc.val = g.val → s.aud.ports[j].wrong < 3) → exec (.audClockLost g 1) s = .next s) ∧
    (∀ (s : State) (g : Fin 5) (j : Fin 2), s.aud.groups[g].qualified = false → exec (.audClockLost g j) s = .next s) ∧
    (∀ (s : State) (k : Fin 32), (s.aud.streams[k].st = .playing ∨ s.aud.streams[k].st = .rampingUp) → s.aud.streams[k].frames.length ≤ 48 * s.aud.streams[k].fade →
      exec (.streamUnderrun k) s = .next (((s.modStream k fun t => { t with st := .fadingOut, silenced := 0, fadePos := if t.st = .rampingUp then 48 * t.fade - t.fadePos else 0 }).bump (0xB040 + 4 * k.val) 1).raise 65 0 [byte k.val, 0, 0, 0, 0, 0, 0, 0])) ∧
    (∀ (s : State) (k : Fin 32), (48 * s.aud.streams[k].fade < s.aud.streams[k].frames.length ∨ s.aud.streams[k].st = .silent) → exec (.streamUnderrun k) s = .next s) ∧
    (∀ (s : State) (k : Fin 32), s.aud.streams[k].st = .silent → 48 * (s.aud.streams[k].fade + 2) ≤ s.aud.streams[k].frames.length →
      exec (.streamResume k) s = .next (s.modStream k fun t => { t with st := .rampingUp, fadePos := 0 })) ∧
    (∀ (s : State) (k : Fin 32), s.aud.streams[k].st = .fadingOut → s.aud.streams[k].closing = false → 48 * (s.aud.streams[k].fade + 2) ≤ s.aud.streams[k].frames.length →
      exec (.streamResume k) s = .next (s.modStream k fun t => { t with st := .rampingUp, fadePos := 48 * t.fade - t.fadePos })) ∧
    (∀ (s : State) (k : Fin 32), (s.aud.streams[k].frames.length < 48 * (s.aud.streams[k].fade + 2) ∨ (s.aud.streams[k].st = .fadingOut ∧ s.aud.streams[k].closing = true)) → exec (.streamResume k) s = .next s) ∧
    (∀ (s : State) (q : Fin 12), s.aud.queues[q].en = true → s.aud.queues[q].st = .playing → s.queueFrames q ≤ 48 * s.aud.queues[q].fade → s.aud.queues[q].blocks ≠ 0 →
      exec (.queueXrun q) s = .next (((s.modQueue q fun x => { x with st := .fadingOut, silenced := 0, fadePos := 0 }).bump (0xB0C0 + 4 * q.val) 1).raise 65 (if 8 ≤ q.val then 0 else 1) [byte (0x40 + q.val), 0, 0, 0, 0, 0, 0, 0])) ∧
    (∀ (s : State) (q : Fin 12), s.aud.queues[q].en = true → s.aud.queues[q].st = .rampingUp → s.queueFrames q ≤ 48 * s.aud.queues[q].fade → s.aud.queues[q].blocks ≠ 0 →
      exec (.queueXrun q) s = .next (((s.modQueue q fun x => { x with st := .fadingOut, silenced := 0, fadePos := 48 * x.fade - x.fadePos }).bump (0xB0C0 + 4 * q.val) 1).raise 65 (if 8 ≤ q.val then 0 else 1) [byte (0x40 + q.val), 0, 0, 0, 0, 0, 0, 0])) ∧
    (∀ (s : State) (q : Fin 12), (s.aud.queues[q].en = false ∨ 48 * s.aud.queues[q].fade < s.queueFrames q) → exec (.queueXrun q) s = .next s) ∧
    (∀ (s : State) (q : Fin 12), s.aud.queues[q].en = true → s.aud.queues[q].st = .silent → s.aud.queues[q].b * s.aud.queues[q].p ≤ 2 * s.queueFrames q →
      exec (.queueResume q) s = .next (s.modQueue q fun x => { x with st := .rampingUp, fadePos := 0, flags := if q.val < 8 ∧ x.discarded ≠ 0 then x.flags ||| 64 else x.flags })) ∧
    (∀ (s : State) (q : Fin 12), s.aud.queues[q].en = true → s.aud.queues[q].st = .fadingOut → s.aud.queues[q].b * s.aud.queues[q].p ≤ 2 * s.queueFrames q → s.aud.queues[q].discarded = 0 →
      exec (.queueResume q) s = .next (s.modQueue q fun x => { x with st := .rampingUp, fadePos := 48 * x.fade - x.fadePos })) ∧
    (∀ (s : State) (q : Fin 12), 2 * s.queueFrames q < s.aud.queues[q].b * s.aud.queues[q].p → exec (.queueResume q) s = .next s) ∧
    (∀ (s : State) (k : Fin 32), s.aud.streams[k].st = .rampingUp → 48 * s.aud.streams[k].fade ≤ s.aud.streams[k].fadePos →
      exec (.fadeRampEnd (byte k.val)) s = .next ((s.modStream k fun t => { t with st := .playing, fadePos := 0, silenced := 0 }).raise 65 2 ([byte k.val, 0, 0, 0] ++ leBytes 4 (min s.aud.streams[k].silenced (2 ^ 32 - 1))))) ∧
    (∀ (s : State) (q : Fin 12), s.aud.queues[q].st = .rampingUp → 48 * s.aud.queues[q].fade ≤ s.aud.queues[q].fadePos →
      exec (.fadeRampEnd (byte (0x40 + q.val))) s = .next ((s.modQueue q fun x => { x with st := .playing, fadePos := 0, silenced := 0 }).raise 65 2 ([byte (0x40 + q.val), 0, 0, 0] ++ leBytes 4 (min s.aud.queues[q].silenced (2 ^ 32 - 1))))) ∧
    (∀ (s : State) (k : Fin 32), s.aud.streams[k].st ≠ .rampingUp → exec (.fadeRampEnd (byte k.val)) s = .next s) ∧
    (∀ (s : State) (q : Fin 12), s.aud.queues[q].en = true →
      exec (.audEvlIn q) s = .next (if s.aud.queues[q].blocks < s.aud.queues[q].b then s.modQueue q fun x => { x with blocks := x.blocks + 1 } else s.bump (0xB140 + 4 * q.val) 1)) ∧
    (∀ (s : State) (q : Fin 12), s.aud.queues[q].en = false → exec (.audEvlIn q) s = .next s) ∧
    (∀ (s : State) (n : Fin 4), exec (.audStartPulse n) s = .next (if s.aud.ports[n].st = 1 then s.modPort n fun p => { p with starting := true } else s)) ∧
    (∀ (s : State) (m : Fin 8), s.aud.pdmEn.getLsbD m.val = true → s.aud.pdmStuck.getLsbD m.val = false → 3072 ≤ s.aud.mics[m].run →
      exec (.pdmStuck m) s = .next ((({ s with aud := { s.aud with pdmStuck := s.aud.pdmStuck ||| BitVec.ofNat 8 (2 ^ m.val), micFall := s.aud.micFall.set m.val 0 } }).setFlag slotAud (24 + m.val)).raise 67 2 [byte m.val])) ∧
    (∀ (s : State) (m : Fin 8), (s.aud.pdmEn.getLsbD m.val = false ∨ s.aud.pdmStuck.getLsbD m.val = true ∨ s.aud.mics[m].run < 3072) → exec (.pdmStuck m) s = .next s) ∧
    (∀ (s : State) (m : Fin 8), s.aud.pdmStuck.getLsbD m.val = true → s.aud.mics[m].run < 3072 →
      ∃ (u : State), exec (.pdmDataReturn m) s = .next u ∧ u.aud.pdmStuck.getLsbD m.val = false ∧ (∀ j : Fin 8, j ≠ m → u.aud.pdmStuck.getLsbD j.val = s.aud.pdmStuck.getLsbD j.val) ∧
        u.aud.micAge[m] = 0 ∧ u.svc = s.svc ∧ u = { s with aud := u.aud, host := u.host, evt := u.evt, tlm := u.tlm }) ∧
    (∀ (s : State) (m : Fin 8), (s.aud.pdmStuck.getLsbD m.val = false ∨ 3072 ≤ s.aud.mics[m].run) → exec (.pdmDataReturn m) s = .next s)

/-- R309 to R319: the receive commands and windows. -/
def Obligations.ReceiverCommandsAndWindows : Prop :=
  (∀ (s : State) (c : CmdEntry), s.takes 0x0701 c = true → (c.u8 24 = 0xFF ∨ c.u8 24 ≤ 4) → (c.u8 25 = 0xFF ∨ c.u8 25 ≤ 15) → (c.u8 26 = 0xFF ∨ c.u8 26 ≤ 3) → (c.u8 27 = 0xFF ∨ c.u8 27 ≤ 3) → c.bytes 28 4 = [0, 0, 0, 0] →
      exec (.accRxCfg c) s = .next (({ s.taken 0x0701 c with acc := { s.acc with rxCfg := { syncErr := if c.u8 24 = 0xFF then s.acc.rxCfg.syncErr else c.u8 24, capMargin := if c.u8 25 = 0xFF then s.acc.rxCfg.capMargin else c.u8 25, capEn := if c.u8 26 = 0xFF then s.acc.rxCfg.capEn else BitVec.ofNat 2 (c.u8 26), report := if c.u8 27 = 0xFF then s.acc.rxCfg.report else BitVec.ofNat 2 (c.u8 27) } } }).completesOk 0x0701 c [] none)) ∧
    (∀ (s : State) (c : CmdEntry), s.takes 0x0701 c = true → 4 < c.u8 24 → c.u8 24 ≠ 0xFF → exec (.accRxCfg c) s = .next ((s.taken 0x0701 c).finish 0x0701 c .range 24 [] none)) ∧
    (∀ (s : State) (c : CmdEntry), s.takes 0x0702 c = true → c.bytes 24 4 = [0, 0, 0, 0] →
      exec (.accRxStats c) s = .next ((s.taken 0x0702 c).completesOk 0x0702 c [] (some s.rxStats)) ∧ s.rxStats.length = 64 ∧
      ∀ i : Nat, i < 16 → slice s.rxStats (4 * i) 4 = leBytes 4 (Tlm.get s.tlm (0xB400 + 4 * i)).toNat) ∧
    (∀ (s : State) (c : CmdEntry), s.takes 0x0702 c = true → c.bytes 24 4 = [1, 0, 0, 0] →
      ∃ (u : State), exec (.accRxStats c) s = .next (u.completesOk 0x0702 c [] (some s.rxStats)) ∧ u = { s.taken 0x0702 c with tlm := u.tlm } ∧
        (∀ i : Nat, i < 16 → Tlm.get u.tlm (0xB400 + 4 * i) = 0)) ∧
    (∀ (s : State) (c : CmdEntry), s.takes 0x0703 c = true → c.u8 24 ≤ 1 → 1 ≤ c.u8 25 → c.u8 25 ≤ 7 → c.u8 26 ≤ 1 → 1 ≤ c.u8 27 → c.u8 27 ≤ 3 → 200 ≤ c.u16 28 → c.u16 28 ≤ 10000 → 5 ≤ c.u16 30 → c.u16 30 ≤ 200 →
      c.u8 32 ≤ 1 → c.bytes 33 3 = [0, 0, 0] →
      (10 * c.u16 30 ≤ c.u16 28 → exec (.accListen c) s = .next (({ s.taken 0x0703 c with acc := { s.acc with listenEn := decide (c.u8 24 = 1), listenCh := BitVec.ofNat 3 (c.u8 25), listenPhy := byte (c.u8 26), listenFilter := BitVec.ofNat 2 (c.u8 27), listenPeriod := c.u16 28, listenWin := c.u16 30, inRun := decide (c.u8 32 = 1) } }).completesOk 0x0703 c [] none)) ∧
      (c.u16 28 < 10 * c.u16 30 → exec (.accListen c) s = .next ((s.taken 0x0703 c).finish 0x0703 c .range 30 [] none))) ∧
    (∀ (s : State) (b : Byte) (r : RxRole) (v : BitVec 64), s.acc.synthSt = 2 → s.acc.synthCh.val = rfChannel b.toNat → s.acc.synth[s.acc.synthCh].excluded = false →
      exec (.accRxOpen b ⟨r, v⟩) s = .next ({ (if v.toNat < s.sys.timeUs.toNat then s.bump 0xB424 1 else s) with acc := { s.acc with rxOpen := true, rxClosed := false, rxChan := b, rxRole := r, cur := none, heldSync := none, rxNow := s.acc.rxCfg } })) ∧
    (∀ (s : State) (b : Byte) (r : RxRole) (v : BitVec 64), (s.acc.synthSt ≠ 2 ∨ s.acc.synthCh.val ≠ rfChannel b.toNat) → exec (.accRxOpen b ⟨r, v⟩) s = .next s) ∧
    (∀ (s : State), s.acc.rxOpen = true → s.acc.cur = none → exec .accRxWindowClose s = .next { s with acc := { s.acc with rxOpen := false, rxClosed := false, heldSync := none, listening := false } }) ∧
    (∀ (s : State), s.acc.rxOpen = true → s.acc.cur.isSome = true → exec .accRxWindowClose s = .next { s with acc := { s.acc with rxClosed := true } }) ∧
    (∀ (s : State) (n : Nat), s.acc.listenEn = true → s.acc.listenCh = 7 → (∀ k : Fin 81, s.acc.synth[k].excluded = false) → (s.pwr.st = .watch ∨ (s.pwr.st = .run ∧ s.acc.inRun = true ∧ s.acc.hostScan = false)) →
      s.acc.listenAt.all (fun x => decide (1000 * s.acc.listenPeriod ≤ (s.sys.timeUs - x).toNat)) = true →
      ∃ (u : State), u = { s with acc := { s.acc with listenAt := some (s.sys.timeUs + if s.acc.listenFirst then BitVec.ofNat 64 (1000 * s.acc.listenWin) else 0), listenFirst := false } } ∧
      exec (.listenWindow n) s = .next (if s.pwr.st = .watch ∨ s.acc.listenWin ≤ n then u.openListen s.acc.listenNext else if 5 ≤ n then (u.bump 0xB430 1).openListen s.acc.listenNext else u.bump 0xB430 1)) ∧
    (∀ (s : State) (i : Fin 3), (s.openListen i).acc = { s.acc with listening := true, listenNext := i + 1, rxChan := byte (37 + i.val), filterNow := s.acc.listenFilter } ∧
      (s.openListen i).tlm = (s.bump 0xB428 1).tlm) ∧
    (∀ (s : State) (n : Nat), (s.acc.listenEn = false ∨ (s.pwr.st = .run ∧ s.acc.hostScan = true) ∨ s.acc.listenAt.any (fun x => decide ((s.sys.timeUs - x).toNat < 1000 * s.acc.listenPeriod)) = true) → exec (.listenWindow n) s = .next s)

/-- R300 to R317: packet reception. -/
def Obligations.PacketsAreChosenAndReported : Prop :=
  (∀ (o : SyncObs) (a : W), SyncObs.aaErrors o a = (List.range 32).countP fun i => o.bits.getLsbD i != a.getLsbD i) ∧
    (∀ (s : State) (o : SyncObs) (a : W), s.expectedAa o.phys = some a → (s.acc.rxOpen = false ∨ s.acc.rxNow.syncErr < SyncObs.aaErrors o a ∨ (o.phy.toNat < 3 ∧ 1 < SyncObs.preErrors o a)) → exec (.accSync o) s = .next s) ∧
    (∀ (s : State) (o : SyncObs), ((o.phys = .primaryAdv ∨ o.phys = .secondaryAdv) → s.expectedAa o.phys = some 0x8E89BED6) ∧
      (∀ k : BitVec 16, o.phys = .data k → s.expectedAa o.phys = (s.acc.conns.find? fun x => decide (x.handle = k)).map Conn.aa)) ∧
    (∀ (s : State) (o : SyncObs) (a : W), s.acc.rxOpen = true → s.acc.rxClosed = false → s.acc.cur = none → s.expectedAa o.phys = some a → SyncObs.aaErrors o a ≤ s.acc.rxNow.syncErr → (3 ≤ o.phy.toNat ∨ SyncObs.preErrors o a ≤ 1) →
      exec (.accSync o) s = .next ({ s.bump 0xB400 1 with acc := { s.acc with cur := some { power := o.power, errs := SyncObs.aaErrors o a, phy := o.phy, chan := o.chan, phys := o.phys, portB := o.portB, ts := o.ts, headerOk := false, captured := false, adopted := false } } })) ∧
    (∀ (s : State) (o : SyncObs), s.acc.rxClosed = true → exec (.accSync o) s = .next s) ∧
    (∀ (s : State) (o : SyncObs) (p : RxPacket) (a : W), s.acc.rxOpen = true → s.acc.rxClosed = false → s.acc.cur = some p → s.expectedAa o.phys = some a → SyncObs.aaErrors o a ≤ s.acc.rxNow.syncErr → (3 ≤ o.phy.toNat ∨ SyncObs.preErrors o a ≤ 1) →
      (SyncObs.late o p = true → exec (.accSync o) s = .next ((s.bump 0xB404 1).bump 0xB418 1)) ∧
      (SyncObs.late o p = false → s.acc.rxNow.captures p.phys = true → p.power < o.power → 10 ^ s.acc.rxNow.capMargin * p.power ^ 10 ≤ (o.power - p.power) ^ 10 →
        exec (.accSync o) s = .next ({ (s.bump 0xB404 1).bump 0xB410 1 with acc := { s.acc with heldSync := none, cur := some { power := o.power - p.power, errs := SyncObs.aaErrors o a, phy := o.phy, chan := o.chan, phys := o.phys, portB := o.portB, ts := o.ts, headerOk := false, captured := true, adopted := false } } })) ∧
      (SyncObs.late o p = false → (s.acc.rxNow.captures p.phys = false ∨ o.power ≤ p.power ∨ (o.power - p.power) ^ 10 < 10 ^ s.acc.rxNow.capMargin * p.power ^ 10) →
        (p.headerOk = false → s.acc.heldSync = none → p.power < o.power → exec (.accSync o) s = .next ({ s.bump 0xB404 1 with acc := { s.acc with heldSync := some { power := o.power - p.power, errs := SyncObs.aaErrors o a, phy := o.phy, chan := o.chan, phys := o.phys, portB := o.portB, ts := o.ts, headerOk := false, captured := false, adopted := false } } })) ∧
        (p.headerOk = false → s.acc.heldSync = none → o.power ≤ p.power → ∃ (u : State) (x : _), exec (.accSync o) s = .next u ∧ u.tlm = (s.bump 0xB404 1).tlm ∧
          u.acc = { s.acc with heldSync := some { power := x, errs := SyncObs.aaErrors o a, phy := o.phy, chan := o.chan, phys := o.phys, portB := o.portB, ts := o.ts, headerOk := false, captured := false, adopted := false } }) ∧
        (p.headerOk = false → s.acc.heldSync.isSome = true → exec (.accSync o) s = .next (s.bump 0xB404 1)) ∧
        (p.headerOk = true → exec (.accSync o) s = .next (if s.acc.rxNow.captures p.phys then s.bump 0xB404 1 else (s.bump 0xB404 1).bump 0xB414 1)))) ∧
    (∀ (s : State) (d : HdrObs) (p : RxPacket), s.acc.cur = some p → p.headerOk = false →
      (s.headerPasses p d = true → exec (.accHeaderCheck d) s = .next ({ (if s.acc.heldSync.isSome then s.bump 0xB414 1 else s) with acc := { s.acc with
        cur := some { p with headerOk := true, payEnd := some (p.ts + BitVec.ofNat 32 (payloadUs p.phy d)) }, heldSync := none } })) ∧
      (∀ h : RxPacket, s.headerPasses p d = false → s.acc.heldSync = some h → exec (.accHeaderCheck d) s = .next ({ (s.bump 0xB408 1).bump 0xB40C 1 with acc := { s.acc with cur := some { h with adopted := true }, heldSync := none } })) ∧
      (s.headerPasses p d = false → s.acc.heldSync = none → s.acc.rxClosed = false → exec (.accHeaderCheck d) s = .next ({ s.bump 0xB408 1 with acc := { s.acc with cur := none } }))) ∧
    (∀ (s : State) (p : RxPacket) (d : HdrObs), (p.phys = .primaryAdv → p.phy = 1 → s.acc.rxRole = .scanner → (s.headerPasses p d = true ↔ (d.pduType.toNat ∈ [0, 1, 2, 4, 6, 7] ∧ d.length ≤ if d.pduType = 7 then 255 else 37))) ∧
      (∀ (k : BitVec 16) (x : Conn), p.phys = .data k → p.phy = 3 → s.acc.conns.find? (fun y => decide (y.handle = k)) = some x →
        (s.headerPasses p d = true ↔ (d.llid ≠ 0 ∧ d.length ≤ x.rxMax + (if x.enc then 4 else 0) ∧ d.ci.toNat ≤ 1)))) ∧
    (∀ (s : State) (d : HdrObs), s.acc.cur = none → exec (.accHeaderCheck d) s = .next s) ∧
    (∀ (s : State) (e : PktEndObs) (p : RxPacket), s.acc.cur = some p → p.headerOk = true → p.phys = .secondaryAdv → s.acc.rxNow.report = 0 → e.hci = [] → e.opened = none → e.closed = none → s.acc.rxClosed = false →
      exec (.accPacketEnd e) s = .next ({ s.bump (if e.crcOk then 0xB41C else 0xB420) 1 with acc := { s.acc with cur := none, heldSync := none } })) ∧
    (∀ (s : State) (e : PktEndObs) (p : RxPacket) (k : BitVec 16), s.acc.cur = some p → p.headerOk = true → p.phys = .data k → s.acc.rxNow.report = 0 → e.hci = [] → e.opened = none → e.closed = none → e.link = none → s.acc.rxClosed = false → e.crcOk = true →
      exec (.accPacketEnd e) s = .next ({ s.bump 0xB41C 1 with acc := { s.acc with cur := none, heldSync := none, conns := s.acc.conns.map fun x => if x.handle = k then { x with rssi := (s.rssiOf p :: x.rssi).take 8 } else x } })) ∧
    (∀ (s : State) (e : PktEndObs) (p : RxPacket) (k : BitVec 16) (a : W), s.acc.cur = some p → p.headerOk = true → p.phys = .secondaryAdv → s.acc.rxNow.report = 0 → e.hci = [] → e.opened = some (k, a, none) → e.closed = none → e.crcOk = true → s.acc.conns.length < 8 →
      ∃ (u : State), exec (.accPacketEnd e) s = .next u ∧ u.acc.conns = { handle := k, slot := none, rssi := [], aa := a } :: s.acc.conns ∧ u.acc.cur = none) ∧
    (∀ (s : State) (e : PktEndObs) (p : RxPacket), s.acc.cur = some p → p.headerOk = true → p.phys = .secondaryAdv → s.acc.rxNow.report.getLsbD 1 = true → e.hci = [] → e.crcOk = false →
      ∃ (u : State) (q : _), exec (.accPacketEnd e) s = .next u ∧ q.length = 20 ∧ q.take 8 = [0xFF, 18, 1, 0xFF, 0xFF, p.chan, p.phy, byte (2 * b01 p.captured + 4 * b01 p.adopted + 8 * b01 p.portB)] ∧
        slice q 10 2 = leInt 2 (s.rssiOf p) ∧ u.host = ((s.bump 0xB420 1).hciOut 4 q).host) ∧
    (∀ (s : State) (e : PktEndObs) (p : RxPacket), s.acc.cur = some p → p.headerOk = true → p.phys = .primaryAdv → s.acc.rxNow.report = 0 → e.hci = [] → e.opened = none → e.closed = none → e.crcOk = true → s.slotByIrk e = none →
      s.acc.listening = true → s.acc.filterNow.getLsbD 1 = true → s.acc.acceptList.contains e.addr = true → s.cred.flow = none → s.cred.flowWaits = none → s.acc.conns = [] → s.acc.hostCs = false →
      (s.pwr.st = .run → s.cred.cfg.en = true → ∃ (u : State), exec (.accPacketEnd e) s = .next u ∧ u.acc.cur = none ∧
        u.cred.flow = some { step := .connecting, slot := none, firstTime := true, inWatch := false, range := none, handle := 0, nonce := [], aa := 0, credId := [], cfg := s.cred.cfg, outcome := none }) ∧
      (s.pwr.st = .run → s.cred.cfg.en = false → ∃ (u : State), exec (.accPacketEnd e) s = .next u ∧ u.cred = s.cred ∧ u.acc.cur = none) ∧
      (s.pwr.st = .watch → s.saf.safe = false → s.pwr.waking = none → s.pwr.pmicWait = none → ∃ (u : State), exec (.accPacketEnd e) s = .next u ∧ u.pwr.waking = some 7 ∧ u.clk.pllOn = true)) ∧
    (∀ (s : State) (e : PktEndObs), (s.acc.cur = none ∨ ∃ p : RxPacket, s.acc.cur = some p ∧ p.headerOk = false) → exec (.accPacketEnd e) s = .next s)

/-- R325, R335 to R337, R341: the front-end commands. That a lock recomputes the page's CRC is the model's (log 33) and is not stated. -/
def Obligations.FrontEndCommandsComplete : Prop :=
  (∀ (s : State) (c : CmdEntry) (ch : Fin 81) (m : Fin 4), s.takes 0x0710 c = true → c.u8 24 = ch.val → c.u8 25 ≤ 2 → c.u8 27 = m.val → s.driver (toSigned 1 (c.u8 26)) m ≤ 12 → c.u16 28 ≠ 0 → c.bytes 32 4 = [0, 0, 0, 0] → s.below 1 = false → s.onFio = false → s.radioBusy = false → s.acc.synth[ch].excluded = false →
      (s.lockedOn ch = false → c.u16 30 ≠ 0 → ∃ (u : State), exec (.accTx c) s = .next u ∧
        u.acc = { s.acc with accTx := some { slot := c.id, ch := ch, mode := byte (c.u8 25), pAnt := s.capPower (toSigned 1 (c.u8 26)), path := m, count := c.u16 28, due := s.sys.timeUs + BitVec.ofNat 64 (c.u16 30), sent := 0, tried := 0, locked := false, stop := false } } ∧ u = { s with host := u.host, acc := u.acc }) ∧
      (s.lockedOn ch = false → c.u16 30 = 0 → exec (.accTx c) s = .next ((s.taken 0x0710 c).finish 0x0710 c .notready 0 [] none)) ∧
      (s.lockedOn ch = true → s.regRefusal ch (s.capPower (toSigned 1 (c.u8 26))) (s.testAir (c.u8 25) (c.u16 28)) = none → ∃ (u : State), exec (.accTx c) s = .next u ∧
        u.acc = { s.acc with accTx := some { slot := c.id, ch := ch, mode := byte (c.u8 25), pAnt := s.capPower (toSigned 1 (c.u8 26)), path := m, count := c.u16 28, due := s.sys.timeUs + BitVec.ofNat 64 (c.u16 30), sent := 0, tried := 0, locked := true, stop := false } } ∧ u = { s with host := u.host, acc := u.acc }) ∧
      (s.lockedOn ch = true → pageValid s.acc.regPage = false →
        exec (.accTx c) s = .next (((s.taken 0x0710 c).regRefused 4 ch (s.capPower (toSigned 1 (c.u8 26)))).finish 0x0710 c .reglimit 0 [0, 0] none))) ∧
    (∀ (s : State) (c : CmdEntry) (ch : Fin 81) (m : Fin 4), s.takes 0x0710 c = true → c.u8 24 = ch.val → c.u8 25 ≤ 2 → c.u8 27 = m.val → s.driver (toSigned 1 (c.u8 26)) m ≤ 12 → c.u16 28 ≠ 0 → c.bytes 32 4 = [0, 0, 0, 0] → (s.below 1 = true → exec (.accTx c) s = .next ((s.taken 0x0710 c).finish 0x0710 c .power 0 [] none)) ∧
      (s.below 1 = false → s.onFio = false → s.radioBusy = true → exec (.accTx c) s = .next ((s.taken 0x0710 c).finish 0x0710 c .state 0 [] none))) ∧
    (∀ (s : State) (c : CmdEntry) (ch : Fin 81) (m : Fin 4), s.takes 0x0710 c = true → c.u8 24 = ch.val → c.u8 25 ≤ 2 → c.u8 27 = m.val → 12 < s.driver (toSigned 1 (c.u8 26)) m →
      exec (.accTx c) s = .next ((s.taken 0x0710 c).finish 0x0710 c .range 26 [] none)) ∧
    (∀ (s : State) (ch : Fin 81) (p : _) (n : Nat), pageValid s.acc.regPage = true → s.acc.synth[ch].excluded = false → (slice s.acc.regPage (12 + ch.val / 8) 1) = [0xFF] → p ≤ toSigned 1 (s.acc.regPage.getD (24 + ch.val) 0).toNat →
      slice s.acc.regPage 8 4 = [0xE8, 3, 0xE8, 3] → s.acc.airLog = [] → n ≤ 1000000 → s.regRefusal ch p n = none) ∧
    (∀ (s : State) (t : AccTxRun), s.acc.accTx = some t → t.locked = false → t.due.toNat ≤ s.sys.timeUs.toNat →
      exec .accTxDeadline s = .next (({ s with acc := { s.acc with accTx := none } }).finishSlot 0x0710 t.slot .notready 0 (leBytes 2 t.sent) none)) ∧
    (∀ (s : State), s.acc.accTx.all (fun y => y.locked || decide (s.sys.timeUs.toNat < y.due.toNat)) = true → exec .accTxDeadline s = .next s) ∧
    (∀ (s : State) (c : CmdEntry) (t : AccTxRun), s.takes 0x0711 c = true → c.bytes 24 4 = [0, 0, 0, 0] → s.acc.accTx = some t → t.locked = true →
      exec (.accTxStop c) s = .next (({ s.taken 0x0711 c with acc := { s.acc with accTx := some { t with stop := true } } }).completesOk 0x0711 c [] none)) ∧
    (∀ (s : State) (c : CmdEntry) (t : AccTxRun), s.takes 0x0711 c = true → c.bytes 24 4 = [0, 0, 0, 0] → s.acc.accTx = some t → t.locked = false → t.tried = 0 →
      exec (.accTxStop c) s = .next ((({ s.taken 0x0711 c with acc := { s.acc with accTx := none } }).finishSlot 0x0710 t.slot .aborted 0 (leBytes 2 t.sent) none).completesOk 0x0711 c [] none)) ∧
    (∀ (s : State) (c : CmdEntry), s.takes 0x0711 c = true → c.bytes 24 4 = [0, 0, 0, 0] → s.acc.accTx = none → exec (.accTxStop c) s = .next ((s.taken 0x0711 c).finish 0x0711 c .state 0 [] none)) ∧
    (∀ (s : State) (c : CmdEntry), s.takes 0x0712 c = true → c.bytes 24 4 = [0, 0, 0, 0] →
      (pageLocked s.acc.regPage = false → pageValid (padTo 128 c.buf) = true → (padTo 128 c.buf).getD 6 0 = 0 →
        exec (.accRegWrite c) s = .next (({ s.taken 0x0712 c with acc := { s.acc with regPage := padTo 128 c.buf } }).completesOk 0x0712 c [] none)) ∧
      (pageLocked s.acc.regPage = true → exec (.accRegWrite c) s = .next ((s.taken 0x0712 c).finish 0x0712 c .locked 0 [] none)) ∧
      (pageLocked s.acc.regPage = false → (padTo 128 c.buf).getD 6 0 ≠ 0 → exec (.accRegWrite c) s = .next ((s.taken 0x0712 c).finish 0x0712 c .range 0xFFFF [] none))) ∧
    (∀ (s : State) (c : CmdEntry), s.takes 0x0713 c = true → c.bytes 24 4 = [0, 0x4B, 0x4C, 0] →
      (pageValid s.acc.regPage = true → pageLocked s.acc.regPage = false →
        exec (.accRegLock c) s = .next (({ s.taken 0x0713 c with acc := { s.acc with regPage := lockPage s.acc.regPage } }).completesOk 0x0713 c [] none)) ∧
      (pageValid s.acc.regPage = true → pageLocked s.acc.regPage = true → exec (.accRegLock c) s = .next ((s.taken 0x0713 c).finish 0x0713 c .locked 0 [] none)) ∧
      (pageValid s.acc.regPage = false → exec (.accRegLock c) s = .next ((s.taken 0x0713 c).finish 0x0713 c .state 0 [] none))) ∧
    (∀ p : List Byte, pageLocked (lockPage p) = true ∧ slice (lockPage p) 0 6 = slice p 0 6 ∧ slice (lockPage p) 7 117 = slice p 7 117) ∧
    (∀ (s : State) (c : CmdEntry), s.takes 0x0714 c = true → c.bytes 24 4 = [0, 0, 0, 0] →
      exec (.accRegRead c) s = .next ((s.taken 0x0714 c).completesOk 0x0714 c [] (some (padTo 128 s.acc.regPage))))

/-- R320 to R340: the synthesiser, the pins and pre-distortion. -/
def Obligations.RadioActivityIsSequenced : Prop :=
  (∀ (s : State) (ch : Fin 81), s.acc.synth[ch].excluded = false →
      exec (.synthHop ch) s = .next ({ s.bump (if s.acc.synth[ch].st = 1 ∨ s.acc.synth[ch].st = 3 then 0xB460 else 0xB464) 1 with acc := { s.acc with synthSt := 1, synthCh := ch, dither := dithers s.acc.synth[ch].ref ch, calYield := if s.acc.synthSt = 3 then some (s.acc.calYield.getD s.sys.timeUs) else s.acc.calYield } })) ∧
    (∀ (w : BitVec 2) (ch : Fin 81), dithers w ch = (List.range 140).any fun i => decide (i * refKhz w ≤ 1000 * (2400 + ch.val) + 2000 ∧ 1000 * (2400 + ch.val) ≤ i * refKhz w + 2000)) ∧
    (refKhz 0 = 36864 ∧ refKhz 1 = 73728 ∧ refKhz 2 = 18432) ∧
    (∀ (s : State) (ch : Fin 81), s.acc.synth[ch].excluded = true → exec (.synthHop ch) s = .next s) ∧
    (∀ (s : State) (ch : Fin 81), s.acc.synthSt = 1 → s.acc.synthCh = ch →
      ∃ (u : State), exec (.synthLock ch) s = .next u ∧ u.acc.synthSt = 2 ∧ u.acc.synth[ch].st = (if s.acc.synth[ch].st = 1 then 1 else 3) ∧ u.acc.synth[ch].retry = false ∧
        (∀ k : Fin 81, k ≠ ch → u.acc.synth[k] = s.acc.synth[k]) ∧ (∀ t : AccTxRun, s.acc.accTx = some t → u.acc.accTx = some { t with locked := t.locked || decide (t.ch = ch) }) ∧ u = { s with acc := u.acc }) ∧
    (∀ (s : State) (ch : Fin 81), s.acc.synthSt = 1 → s.acc.synthCh = ch →
      ∃ (u : State), exec (.synthHopFail ch) s = .next u ∧ u.acc.synthSt = 0 ∧ u.acc.synth[ch].st = 0 ∧ u.acc.synth[ch].ref = s.acc.synth[ch].ref ∧ u.acc.synth[ch].retry = !s.acc.synth[ch].retry ∧
        u.acc.synth[ch].excluded = s.acc.synth[ch].retry ∧ u.flags[slotAcc] = s.flags[slotAcc] ||| 1 ∧ u.svc = s.svc ∧ u.mem = s.mem) ∧
    (∀ (s : State) (ch : Fin 81), s.acc.synthSt ≠ 1 → exec (.synthLock ch) s = .next s ∧ exec (.synthHopFail ch) s = .next s) ∧
    (∀ (s : State) (ch : Fin 81) (p : Int) (m : Fin 4) (n : Nat) (j : Nat) (l : List (Int × Int)) (k : Fin 7), s.acc.activity = none → s.acc.coexCfg.getLsbD 0 = false → k.val < 4 →
      ∃ (u : State), exec (.radioActivity (.begins false k ch p m n j l true)) s = .next u ∧
        u.acc.activity = some { tx := false, cls := k, ch := ch, pAnt := s.capPower (min p (s.maxPower ch)), path := m, pDrv := s.driver (s.capPower (min p (s.maxPower ch))) m - s.cut ch, packetUs := n, payloadUs := j, out := [] } ∧
        u.acc.pins = { s.acc.pins with coexReq := false, coexPri := false, antSel := decide (2 ≤ m.val), trTx := false, paMode := false, paEn := false, lnaEn := true } ∧
        u.acc.paTimingNow = s.acc.paTiming ∧ u.acc.airLog = s.acc.airLog ∧ u = { s with acc := u.acc }) ∧
    (∀ (s : State) (ch : Fin 81) (p : Int) (m : Fin 4) (n : Nat) (j : Nat) (l : List (Int × Int)), s.acc.activity = none → s.acc.dpdCand = none → s.acc.coexCfg.getLsbD 0 = false → s.lockedOn ch = true → s.regRefusal ch (s.capPower (min p (s.maxPower ch))) (paLead s.acc.paTiming + 4 + n) = none →
      ∃ (u : State), exec (.radioActivity (.begins true 2 ch p m n j l true)) s = .next u ∧
        u.acc.activity = some { tx := true, cls := 2, ch := ch, pAnt := s.capPower (min p (s.maxPower ch)), path := m, pDrv := s.driver (s.capPower (min p (s.maxPower ch))) m - s.cut ch, packetUs := n, payloadUs := j, out := s.predistort ch (s.capPower (min p (s.maxPower ch))) l } ∧
        u.acc.pins.paEn = true ∧ u.acc.pins.lnaEn = false ∧ u.acc.pins.trTx = true ∧ u.acc.pins.antSel = decide (2 ≤ m.val) ∧ u.acc.pins.paMode = decide (sfld s.acc.feGain 0 < s.capPower (min p (s.maxPower ch))) ∧
        u.acc.airLog.head? = some (s.sys.timeUs + BitVec.ofNat 64 (paLead s.acc.paTiming + 4 + n), paLead s.acc.paTiming + 4 + n) ∧ u = { s with acc := u.acc }) ∧
    (∀ (s : State) (ch : Fin 81) (p : Int) (m : Fin 4) (n : Nat) (j : Nat) (l : List (Int × Int)) (g : Bool), s.acc.activity = none → s.acc.dpdCand = none → s.lockedOn ch = true → pageValid s.acc.regPage = false →
      exec (.radioActivity (.begins true 2 ch p m n j l g)) s = .next ((s.regRefused 4 ch (s.capPower (min p (s.maxPower ch)))).bump 0xB440 1)) ∧
    (∀ (s : State) (ch : Fin 81) (p : Int) (m : Fin 4) (n : Nat) (j : Nat) (l : List (Int × Int)) (g : Bool), s.acc.activity = none → s.acc.dpdCand = none → s.lockedOn ch = false → exec (.radioActivity (.begins true 2 ch p m n j l g)) s = .next (s.bump 0xB440 1)) ∧
    (∀ (s : State) (ch : Fin 81) (p : Int) (m : Fin 4) (n : Nat) (j : Nat) (l : List (Int × Int)), s.acc.activity = none → s.acc.coexCfg.getLsbD 0 = true → s.acc.coexCfg.getLsbD 2 = false →
      ∃ (u : State), exec (.radioActivity (.begins false 1 ch p m n j l false)) s = .next u ∧ u.acc.activity = none ∧ u.acc.pins = { s.acc.pins with coexReq := false, coexPri := false } ∧
        u.acc.listening = false ∧ u.flags[slotAcc] = s.flags[slotAcc] ||| 4) ∧
    (∀ (s : State) (x : Activity) (n : Nat), s.acc.activity.isSome = true → exec (.radioActivity (.begins x.tx x.cls x.ch x.pAnt x.path n n [] true)) s = .next s) ∧
    (∀ (s : State) (x : Activity) (q : _), s.acc.activity = some x → x.tx = false → s.acc.dpdCand = none → exec (.radioActivity (.ends q 0)) s = .next { s with acc := { s.acc with activity := none, offAt := s.sys.timeUs, pins := { s.acc.pins with paEn := false, lnaEn := false, trTx := false, paMode := false } } }) ∧
    (∀ (s : State) (x : Activity) (t : AccTxRun), s.acc.activity = some x → x.tx = true → x.cls = 4 → x.payloadUs < 64 → s.acc.accTx = some t → t.stop = false → t.mode ≠ 0 → t.count ≤ t.tried + 1 → s.acc.dpdCand = none →
      exec (.radioActivity (.ends none 0)) s = .next (({ s with acc := { s.acc with accTx := none, activity := none, offAt := s.sys.timeUs, pins := { s.acc.pins with paEn := false, lnaEn := false, trTx := false, paMode := false } } }).finishSlot 0x0710 t.slot .ok 0 (leBytes 2 (t.sent + 1)) none)) ∧
    (∀ (s : State) (x : Activity), s.acc.activity = some x → x.tx = true → x.cls = 2 → 0 ≤ x.pAnt → 64 ≤ x.payloadUs → s.acc.fbLost = false → s.acc.dpdCfg.getLsbD 0 = true → s.acc.dpdCand = none →
      ∃ (u : State), exec (.radioActivity (.ends none 0)) s = .next u ∧ u.acc.activity = none ∧ u.acc.dpdCapt = s.acc.dpdCapt ||| (if sfld s.acc.feGain 0 < x.pAnt then 2 else 1) ∧ u.tlm = (s.bump 0xB46C 1).tlm) ∧
    (∀ (s : State) (x : Activity) (p : _), s.acc.activity = some x → x.tx = true → x.cls = 2 → 40 ≤ x.packetUs → s.acc.fbLow = 2 → s.acc.fbLost = false → s.acc.dpdCand = none →
      p + fld s.acc.loss 16 8 - s.pathLoss x.path < x.pAnt - 20 → p + fld s.acc.loss 16 8 - s.pathLoss x.path ≤ s.maxPower x.ch + 2 →
      ∃ (u : State), exec (.radioActivity (.ends (some p) 0)) s = .next u ∧ u.acc.fbLost = true ∧ u.acc.fbOk = false ∧ u.acc.fbCut = s.acc.fbCut ∧ u.flags[slotAcc] = s.flags[slotAcc] ||| 32) ∧
    (∀ (s : State), s.acc.activity = none → exec (.radioActivity (.ends none 0)) s = .next s) ∧
    (∀ (s : State) (x : Activity), s.acc.activity = some x → s.acc.coexCfg.getLsbD 0 = true → x.tx = true → x.cls = 2 →
      ∃ (u : State), exec .coexGntWithdrawn s = .next u ∧ u.acc.activity = none ∧ u.acc.pins.paEn = false ∧ u.acc.pins.trTx = false ∧ u.acc.gnt = false ∧ u.flags[slotAcc] = s.flags[slotAcc] ||| 4 ∧ u.mem = s.mem) ∧
    (∀ (s : State) (x : Activity), s.acc.activity = some x → s.acc.coexCfg.getLsbD 0 = true → x.tx = false → s.acc.coexCfg.getLsbD 3 = true →
      ∃ (u : State), exec .coexGntWithdrawn s = .next u ∧ u.acc.activity = none ∧ u.acc.pins.lnaEn = false ∧ u.acc.cur = none ∧ u.acc.rxOpen = false ∧ u.flags[slotAcc] = s.flags[slotAcc] ||| 4) ∧
    (∀ (s : State), (s.acc.activity = none ∨ s.acc.coexCfg.getLsbD 0 = false) → exec .coexGntWithdrawn s = .next s) ∧
    (∀ (s : State), exec .coexReqHoldExpiry s = .next (if s.acc.activity.isNone ∧ 4 * (s.acc.paTimingNow.toNat / 2 ^ 24) ≤ (s.sys.timeUs - s.acc.offAt).toNat then { s with acc := { s.acc with pins := { s.acc.pins with coexReq := false, coexPri := false } } } else s)) ∧
    (∀ (s : State) (m : Fin 2) (r : Int) (l : List (Int × Int)) (y : Bool), s.acc.dpdCfg.getLsbD 0 = true → s.acc.fbLost = false → s.dpdMode = some m → (s.acc.activity.isSome = true ∨ (y = true ∧ s.acc.dpdYields < 100)) →
      exec (.dpdStep y r l) s = .next { s.bump 0xB474 1 with acc := { s.acc with dpdYields := s.acc.dpdYields + 1 } }) ∧
    (∀ (s : State) (m : Fin 2) (r : Int) (l : List (Int × Int)) (y : Bool), s.acc.dpdCfg.getLsbD 0 = true → s.acc.fbLost = false → s.dpdMode = some m → s.acc.activity = none → (y = false ∨ 100 ≤ s.acc.dpdYields) →
      ∃ (u : State), exec (.dpdStep y r l) s = .next u ∧ u.acc.dpdCapt.getLsbD m.val = false ∧ u.acc.dpdYields = 0 ∧ u.acc.dpdValid = s.acc.dpdValid ∧ u.acc.dpdCoef = s.acc.dpdCoef ∧ u.tlm = (s.bump 0xB470 1).tlm ∧
        (s.acc.dpdSteps[m] < 7 → u.acc.dpdSteps[m] = s.acc.dpdSteps[m] + 1 ∧ u.acc.dpdCand = s.acc.dpdCand) ∧ (7 ≤ s.acc.dpdSteps[m] → u.acc.dpdSteps[m] = 0 ∧ u.acc.dpdCand = some (m, r, l))) ∧
    (∀ (s : State) (x : Activity) (m : Fin 2) (r : Int) (l : List (Int × Int)), s.acc.activity = some x → x.tx = false → s.acc.dpdCand = some (m, r, l) → s.acc.dpdValid.getLsbD m.val = false →
      ∃ (u : State), exec (.radioActivity (.ends none 0)) s = .next u ∧ u.acc.dpdCand = none ∧ u.acc.dpdTrain.getLsbD m.val = false ∧ u.acc.dpdSteps[m] = 0 ∧
        (if r < -300 then u.acc.dpdValid.getLsbD m.val = true ∧ u.acc.dpdCoef[m] = l ∧ u.acc.dpdResid[m] = r else u.acc.dpdValid = s.acc.dpdValid ∧ u.acc.dpdCoef = s.acc.dpdCoef ∧ u.flags[slotAcc] = s.flags[slotAcc] ||| 16)) ∧
    (∀ (s : State) (r : Int) (l : List (Int × Int)), (s.acc.dpdCfg.getLsbD 0 = false ∨ s.acc.fbLost = true) → exec (.dpdStep false r l) s = .next s ∧ exec .dpdRetrain s = .next s) ∧
    (∀ (s : State), s.acc.dpdCfg.getLsbD 0 = true → s.acc.fbLost = false → ((60000000 ≤ (s.sys.timeUs - s.acc.dpdAt).toNat ∧ s.acc.dpdCapt ≠ 0) ∨ ((List.finRange 2).any fun y => s.acc.dpdValid.getLsbD y.val && decide (s.dpdDelta ≤ (s.pwr.tjNow - s.acc.dpdTemp[y]).natAbs)) = true) →
      exec .dpdRetrain s = .next { s with acc := { s.acc with dpdTrain := 3, dpdSteps := Vector.replicate 2 0, dpdCand := none, dpdAt := s.sys.timeUs } }) ∧
    (∀ (s : State), ((s.sys.timeUs - s.acc.dpdAt).toNat < 60000000 ∨ s.acc.dpdCapt = 0) → ((List.finRange 2).any fun y => s.acc.dpdValid.getLsbD y.val && decide (s.dpdDelta ≤ (s.pwr.tjNow - s.acc.dpdTemp[y]).natAbs)) = false → exec .dpdRetrain s = .next s) ∧
    (∀ (s : State) (ch : Fin 81) (y : Bool), s.cal.bRun.isSome = true →
      ((s.acc.synthSt = 1 ∨ s.acc.activity.isSome = true) → exec (.synthCalStep ch y) s = .next { s with acc := { s.acc with calYield := some (s.acc.calYield.getD s.sys.timeUs) } }) ∧
      (s.acc.synthSt ≠ 1 → s.acc.activity = none → y = true → s.acc.calYield.any (fun y => decide (50000 ≤ (s.sys.timeUs - y).toNat)) = false →
        exec (.synthCalStep ch y) s = .next { s with acc := { s.acc with synthSt := 0, synthCh := ch, dither := dithers s.acc.synth[ch].ref ch, calYield := some (s.acc.calYield.getD s.sys.timeUs) } }) ∧
      (s.acc.synthSt ≠ 1 → s.acc.activity = none → (y = false ∨ s.acc.calYield.any (fun y => decide (50000 ≤ (s.sys.timeUs - y).toNat)) = true) →
        exec (.synthCalStep ch y) s = .next { s with acc := { s.acc with synthSt := 3, synthCh := ch, dither := dithers s.acc.synth[ch].ref ch, calYield := none } })) ∧
    (∀ (s : State) (ch : Fin 81) (y : Bool), s.cal.bRun = none → exec (.synthCalStep ch y) s = .next s)

/-- R343 to R362: credentials, the flow and the verdict. That codes 8 and 9 of a first-time credential give OUTCOME 5 is the model's (log 35); what a verification answers is a constant without a body (log 6). -/
def Obligations.TheUnlockFlowAndItsVerdict : Prop :=
  (∀ (s : State) (c : CmdEntry), s.takes 0x0720 c = true → c.bytes 24 4 = [0, 0, 0, 0] → s.below 1 = false →
      exec (.accCredLoad c) s = .next (match (s.taken 0x0720 c).admits c.buf with | (t, .ok i) => t.completesOk 0x0720 c [byte i.val, 0] none | (t, .error (full, code)) => t.finish 0x0720 c (if full then .full else if code = 8 then .range else .auth) (if code = 8 then 0xFFFF else 0) [0xFF, byte code] none)) ∧
    (∀ (s : State) (b : List Byte), (s.credForm b = false ∨ s.credKey b = none) → s.credCheck b = some 8) ∧
    (∀ (s : State) (b : List Byte) (key : List Byte), s.credForm b = true → s.credKey b = some key → s.credCheck b = if Config.hashMldsaVerify key txtCred (Config.sha3 (b.take 1636)) (b.drop 1636) = false then some 9
      else if (s.cred.revoked.any fun e => decide (e.1 = credId b)) = true then some 7 else if s.timePassed (credNotAfter b) = true then some 4
      else if s.tru.opened = true ∨ Config.kemOk s.tru.kemKey (credCt b) = false then some 5 else none) ∧
    (∀ (s : State) (b : List Byte) (code : Nat), s.credCheck b = some code → s.admits b = (s.credEvent none 1 code (credId b), .error (false, code))) ∧
    (∀ (s : State) (b : List Byte) (i : Fin 64), (s.slotOf (credId b) = some i ∨ (s.slotOf (credId b) = none ∧ s.cred.slots[i] = none ∧ ∀ j : Fin 64, j < i → s.cred.slots[j].isSome = true)) →
      s.admits b = match s.credCheck b with | some code => (s.credEvent none 1 code (credId b), .error (false, code)) | none => (({ s with cred := { s.cred with slots := upd s.cred.slots i fun _ => some (s.credOf b) } }).credEvent (some i) 0 0 (credId b), .ok i)) ∧
    (∀ (s : State) (b : List Byte), s.slotOf (credId b) = none → (∀ j : Fin 64, (s.cred.slots[j].map fun y => s.timePassed y.notAfter.toNat) = some false) →
      s.admits b = match s.credCheck b with | some code => (s.credEvent none 1 code (credId b), .error (false, code)) | none => (s.credEvent none 1 4 (credId b), .error (true, 4))) ∧
    (∀ (s : State) (b : List Byte) (i : Fin 64) (cr : Cred), s.slotOf (credId b) = none → (∀ j : Fin 64, s.cred.slots[j].isSome = true) → s.cred.slots[i] = some cr → s.timePassed cr.notAfter.toNat = true →
      (∀ j : Fin 64, j ≠ i → (s.cred.slots[j].all fun y => !s.timePassed y.notAfter.toNat || decide (cr.notAfter.toNat < y.notAfter.toNat)) = true) →
      ∃ (u : State), s.admits b = (match s.credCheck b with | some code => (s.credEvent none 1 code (credId b), .error (false, code)) | none => (u, .ok i)) ∧ u.cred = { s.cred with slots := upd s.cred.slots i fun _ => some (s.credOf b), recent := s.cred.recent.filter fun j => decide (j ≠ i) }) ∧
    (∀ (s : State) (b : List Byte), (s.credOf b).bk = (List.range 32).map (Config.kemSecretByte s.tru.kemKey (credCt b)) ∧ (s.credOf b).ltk = Config.kmac (s.credOf b).bk txtAccess txtLtk 16 ∧
      (s.credOf b).verifier = Config.kmac (s.credOf b).bk txtAccess txtCh 32 ∧ (s.credOf b).rights = b.getD 2 0 ∧ (s.credOf b).irk = slice b 44 16 ∧ (s.credOf b).credId = credId b) ∧
    (∀ (s : State) (c : CmdEntry), s.takes 0x0721 c = true → c.bytes 24 4 = [0, 0, 0, 0] → s.below 1 = false → ∃ (b : List Byte), exec (.accCredList c) s = .next ((s.taken 0x0721 c).completesOk 0x0721 c [] (some b)) ∧ b.length = 2048 ∧
      ∀ (i : Fin 64), slice b (32 * i.val) 32 = match s.cred.slots[i] with | none => List.replicate 32 0 | some cr => [1, cr.rights, 0, 0] ++ slice cr.credId 0 16 ++ leBytes 8 cr.notAfter.toNat ++ leBytes 4 cr.lastUse.toNat) ∧
    (∀ (s : State) (c : CmdEntry) (k : Fin 64), s.takes 0x0722 c = true → c.bytes 24 4 = [byte k.val, 0, 0, 0] → s.below 1 = false →
      (∀ (cr : Cred), s.cred.slots[k] = some cr → exec (.accCredEvict c) s = .next ((((s.taken 0x0722 c).clearCred k).credEvent (some k) 4 0 cr.credId).completesOk 0x0722 c [] none)) ∧
      (s.cred.slots[k] = none → exec (.accCredEvict c) s = .next ((s.taken 0x0722 c).finish 0x0722 c .notfound 0 [] none))) ∧
    (∀ (s : State) (c : CmdEntry), s.takes 0x0722 c = true → c.u8 24 ≤ 63 → c.bytes 25 3 = [1, 0, 0] → s.below 1 = false → ∃ (u : State), exec (.accCredEvict c) s = .next (u.completesOk 0x0722 c [] none) ∧
      (∀ (k : Fin 64), u.cred.slots[k] = none) ∧ u.cred = { s.cred with slots := u.cred.slots, recent := u.cred.recent } ∧ u = { s with host := u.host, evt := u.evt, cred := u.cred }) ∧
    (∀ (s : State) (c : CmdEntry), s.takes 0x0723 c = true → (c.u8 24 = 0xFF ∨ c.u8 24 ≤ 1) → (c.u8 25 = 0xFF ∨ (1 ≤ c.u8 25 ∧ c.u8 25 ≤ 15)) → s.below 1 = false →
      ((c.u16 26 = 0xFFFF ∨ (20 ≤ c.u16 26 ∧ c.u16 26 ≤ 1500)) → (c.u8 28 = 0xFF ∨ (25 ≤ c.u8 28 ∧ c.u8 28 ≤ 50)) → (c.u8 30 = 0xFF ∨ c.u8 30 ≤ 3) → (c.u8 31 = 0xFF ∨ (8 ≤ c.u8 31 ∧ c.u8 31 ≤ 0x77)) →
        (c.u16 32 = 0xFFFF ∨ (0x80 ≤ c.u16 32 ∧ c.u16 32 ≤ 0xFF)) → c.bytes 34 2 = [0, 0] →
        exec (.accUnlockCfg c) s = .next (({ s.taken 0x0723 c with cred := { s.cred with cfg := { en := if c.u8 24 = 0xFF then s.cred.cfg.en else decide (c.u8 24 = 1), paths := if c.u8 25 = 0xFF then s.cred.cfg.paths else BitVec.ofNat 4 (c.u8 25), rangeMax := if c.u16 26 = 0xFFFF then s.cred.cfg.rangeMax else c.u16 26, relayTol := if c.u8 28 = 0xFF then s.cred.cfg.relayTol else c.u8 28, confMin := if c.u8 29 = 0xFF then s.cred.cfg.confMin else c.u8 29, tw1En := if c.u8 30 = 0xFF then s.cred.cfg.tw1En else decide (c.u8 30 % 2 = 1), wakeOnGrant := if c.u8 30 = 0xFF then s.cred.cfg.wakeOnGrant else decide (2 ≤ c.u8 30), bodyAddr := if c.u8 31 = 0xFF then s.cred.cfg.bodyAddr else BitVec.ofNat 7 (c.u8 31), psm := if c.u16 32 = 0xFFFF then s.cred.cfg.psm else c.u16 32 } } }).completesOk 0x0723 c [] none)) ∧
      ((c.u16 26 < 20 ∨ (1500 < c.u16 26 ∧ c.u16 26 ≠ 0xFFFF)) → exec (.accUnlockCfg c) s = .next ((s.taken 0x0723 c).finish 0x0723 c .range 26 [] none))) ∧
    (∀ (s : State) (c : CmdEntry) (v : Nat), s.takes 0x0724 c = true → c.bytes 24 4 = [byte v, 0, 0, 0] → v ≤ 3 → (c.bufIn = true ↔ v % 2 = 1) → s.below 1 = false →
      ((s.cred.vkeyLocked = false ∨ v = 0) → exec (.accVkey c) s = .next (({ s.taken 0x0724 c with cred := { s.cred with vkey := if v % 2 = 1 then some (padTo 32 c.buf) else s.cred.vkey, vkeyLocked := s.cred.vkeyLocked || decide (2 ≤ v) } }).completesOk 0x0724 c [] none)) ∧
      (s.cred.vkeyLocked = true → v ≠ 0 → exec (.accVkey c) s = .next ((s.taken 0x0724 c).finish 0x0724 c .locked 0 [] none))) ∧
    (∀ (s : State) (c : CmdEntry), s.takes 0x0726 c = true → c.bytes 24 4 = [0, 0, 0, 0] → s.below 1 = false → ∃ (b : List Byte), exec (.accVerdictRead c) s = .next ((s.taken 0x0726 c).completesOk 0x0726 c [] (some b)) ∧ b.length = 384 ∧
      ∀ n : Nat, n < 8 → slice b (48 * n) 48 = padTo 48 (s.cred.verdicts.getD n [])) ∧
    (∀ (s : State) (c : CmdEntry) (k : Fin 64), s.takes 0x0725 c = true → c.u8 26 = k.val → c.u8 27 = 0 → s.below 1 = false → s.onFio = false →
      (s.cred.flow = none → s.cred.flowWaits = none → s.acc.hostCs = false → s.tru.opened = false →
        (∀ (cr : Cred) (x : _), s.cred.slots[k] = some cr → (s.acc.conns.find? fun y => decide (y.handle = BitVec.ofNat 16 (c.u16 24)) && decide (y.slot = some k)) = some x →
          ∃ (u : State) (N : List Byte), exec (.accRange c) s = .next u ∧ N.length = 16 ∧ u.cred = { s.cred with slots := upd s.cred.slots k fun y => y.map fun z => { z with lastUse := BitVec.ofNat 32 s.rtc }, recent := (k :: s.cred.recent.filter fun j => decide (j ≠ k)).take 16, flow := some { step := .challenge, slot := some k, firstTime := false, inWatch := false, range := some c.id, handle := BitVec.ofNat 16 (c.u16 24), nonce := N, aa := x.aa, credId := cr.credId, cfg := s.cred.cfg, outcome := none, since := s.sys.timeUs } } ∧
            u = { s with host := u.host, cred := u.cred, freeCnt := u.freeCnt }) ∧
        (s.cred.slots[k] = none → exec (.accRange c) s = .next ((s.taken 0x0725 c).finish 0x0725 c .notfound 0 [] none))) ∧
      ((s.cred.flow.isSome = true ∨ s.acc.hostCs = true) → exec (.accRange c) s = .next ((s.taken 0x0725 c).finish 0x0725 c .state 0 [] none))) ∧
    (∀ (s : State) (f : Flow) (h : _) (aa : _), s.cred.flow = some f → (f.step = .connecting → exec (.unlockConnected h aa) s = .next { s with cred := { s.cred with flow := some { f with handle := h, aa := aa, step := if f.firstTime then .opening else .encrypting, since := s.sys.timeUs } } }) ∧
      (f.step ≠ .connecting → exec (.unlockConnected h aa) s = .next s)) ∧
    (∀ (s : State) (f : Flow), s.cred.flow = some f → f.step = .encrypting → exec (.unlockEncrypted false) s = .next (s.issueVerdict f { outcome := 5 }) ∧
      (f.firstTime = false → exec (.unlockEncrypted true) s = .next { s with cred := { s.cred with flow := some { f with step := .opening, since := s.sys.timeUs } } }) ∧ (f.firstTime = true → ∃ (u : State) (N : List Byte), exec (.unlockEncrypted true) s = .next u ∧ N.length = 16 ∧ u.cred = { s.cred with flow := some { f with nonce := N, step := .challenge, since := s.sys.timeUs } } ∧ u = { s with cred := u.cred, freeCnt := u.freeCnt })) ∧
    (∀ (s : State) (f : Flow), s.cred.flow = some f → f.step = .opening → (f.firstTime = true → exec .unlockChannelOpen s = .next { s with cred := { s.cred with flow := some { f with step := .waitSdu, since := s.sys.timeUs } } }) ∧ (f.firstTime = false → ∃ (u : State) (N : List Byte), exec .unlockChannelOpen s = .next u ∧ N.length = 16 ∧ u.cred = { s.cred with flow := some { f with nonce := N, step := .challenge, since := s.sys.timeUs } } ∧ u = { s with cred := u.cred, freeCnt := u.freeCnt })) ∧
    (∀ (s : State) (f : Flow) (b : List Byte), s.cred.flow = some f → f.step = .waitSdu → (100000 ≤ (s.sys.timeUs - f.since).toNat → exec .sduTimeout s = .next (s.issueVerdict f { outcome := 5 })) ∧ ((s.sys.timeUs - f.since).toNat < 100000 → exec .sduTimeout s = .next s) ∧
      exec (.credentialSdu b) s = .next (match s.admits b with | (t, .ok i) => { t.useCred i with cred := { (t.useCred i).cred with flow := some { f with slot := some i, credId := credId b, step := .encrypting, since := s.sys.timeUs } } } | (t, .error e) => t.issueVerdict { f with credId := credId b } { outcome := if e.2 ≤ 7 then e.2 else 5 })) ∧
    (∀ (s : State) (f : Flow) (b : List Byte), s.cred.flow = some f → f.step = .challenge → (15000 < (s.sys.timeUs - f.since).toNat → exec .challengeTimeout s = .next (s.issueVerdict f { outcome := 5 }) ∧ exec (.challengeAnswer b) s = .next (s.issueVerdict f { outcome := 5 })) ∧
      ((s.sys.timeUs - f.since).toNat ≤ 15000 → exec .challengeTimeout s = .next s) ∧ ((b.length ≠ 48 ∨ s.flowCred f = none ∨ s.tru.opened = true) → exec (.challengeAnswer b) s = .next (s.issueVerdict f { outcome := 5 })) ∧
      (∀ (cr : Cred), b.length = 48 → s.flowCred f = some cr → s.tru.opened = false → (s.sys.timeUs - f.since).toNat ≤ 15000 → exec (.challengeAnswer b) s = .next (if b.drop 16 = Config.kmac cr.verifier txtChallenge (f.nonce ++ b.take 16 ++ leBytes 4 f.aa.toNat ++ cr.credId) 32 then { s with cred := { s.cred with flow := some { f with step := .ranging, since := s.sys.timeUs } } } else s.issueVerdict f { outcome := 5 }))) ∧
    (∀ (s : State) (b : List Byte) (o : CsObs), (s.cred.flow = none ∨ ∃ (f : Flow), s.cred.flow = some f ∧ f.step = .done) → s.acc.hostCs = false → exec .unlockChannelOpen s = .next s ∧ exec (.unlockEncrypted true) s = .next s ∧ exec (.credentialSdu b) s = .next s ∧ exec .sduTimeout s = .next s ∧
      exec (.challengeAnswer b) s = .next s ∧ exec .challengeTimeout s = .next s ∧ exec (.csProcedureDone o) s = .next s) ∧
    (∀ (s : State) (f : Flow) (o : CsObs), s.cred.flow = some f → f.step = .ranging → (s.cal.bValid.getLsbD 2 = false ∨ o.paths = []) → ∃ (u : State), exec (.csProcedureDone o) s = .next (u.issueVerdict f { outcome := 6 }) ∧
      u = { s with cred := { s.cred with slots := u.cred.slots }, freeCnt := u.freeCnt }) ∧
    (∀ (s : State) (f : Flow) (o : CsObs) (p : Fin 4 × List Tone), s.cred.flow = some f → f.step = .ranging → s.cal.bValid.getLsbD 2 = true → o.paths = [p] → f.cfg.paths.getLsbD p.1.val = true → 60 ≤ (s.pbr p).valid →
      ∃ (u : State) (cf : Nat), 2 * cf * 2160000 ≤ 2 * (255 * (30000 - (s.pbr p).residMdeg) * (s.pbr p).valid) + 2160000 ∧ 2 * (255 * (30000 - (s.pbr p).residMdeg) * (s.pbr p).valid) ≤ 2 * cf * 2160000 + 2160000 ∧
        u = { s with cred := { s.cred with slots := u.cred.slots }, freeCnt := u.freeCnt } ∧
        exec (.csProcedureDone o) s = .next (if f.cfg.confMin ≤ cf then (u.relayEvent f (relayResult o (s.pbr p).distCm f.cfg.relayTol) (s.pbr p).distCm (CsObs.rttCm o)).issueVerdict f
          { outcome := rangedOutcome f.cfg (relayResult o (s.pbr p).distCm f.cfg.relayTol) (s.pbr p).distCm, path := p.1.val, dist := (s.pbr p).distCm, conf := cf, relay := relayResult o (s.pbr p).distCm f.cfg.relayTol, diff := CsObs.rttCm o - (s.pbr p).distCm } else u.issueVerdict f { outcome := 6 })) ∧
    (∀ (s : State) (l : List Tone) (x : Tone), x ∈ s.goodTones l ↔ (x ∈ l ∧ 2 ≤ x.chan.val ∧ x.chan.val ≤ 76 ∧ (x.chan.val < 23 ∨ 25 < x.chan.val) ∧ s.chAllowed x.chan = true ∧ x.here = true ∧ x.there = true)) ∧
    (∀ (s : State) (p : Fin 4 × List Tone) (h : LineFit), h = fitLine (unwrapped (s.goodTones p.2)) → (s.pbr p).path = p.1 ∧ (s.pbr p).valid = (s.goodTones p.2).length ∧
      (h.den ≠ 0 → ((h.num.natAbs : Int) * 299792458 - 1000 * s.cal.pathOff.getD p.1.val 0 * (720000 * h.den) < (10000 * (s.pbr p).distCm + 10001) * (720000 * h.den)) ∧
        ((s.pbr p).distCm ≠ 0 → (10000 * (s.pbr p).distCm : Int) * (720000 * h.den) < (h.num.natAbs : Int) * 299792458 - 1000 * s.cal.pathOff.getD p.1.val 0 * (720000 * h.den) + 10001 * (720000 * h.den))) ∧
      Nat.sqrt (h.resid.toNat / (h.n * h.n * h.den)) ≤ (s.pbr p).residMdeg ∧ (s.pbr p).residMdeg ≤ Nat.sqrt (h.resid.toNat / (h.n * h.n * h.den)) + 1) ∧
    (∀ (x y : Int) (l : List Int), (fitLine (l.map fun v => (v, x * v + y))).resid = 0 ∧ (fitLine (l.map fun v => (v, x * v + y))).num = x * (l.length * (l.map fun v => v * v).sum - l.sum * l.sum)) ∧
    (∀ (cfg : UnlockCfg) (up : Bool) (l : List PbrPath), (choosePath cfg up l = none ↔ ∀ q ∈ l, cfg.paths.getLsbD q.path.val = false ∨ q.valid < 60 ∨ pathConf q up < cfg.confMin) ∧
      ∀ (q : PbrPath), choosePath cfg up l = some q → q ∈ l ∧ ∀ x ∈ l, cfg.paths.getLsbD x.path.val = true → 60 ≤ x.valid → cfg.confMin ≤ pathConf x up → q.distCm < x.distCm ∨ (q.distCm = x.distCm ∧ q.path ≤ x.path)) ∧
    (∀ (o : CsObs) (l : List Int) (d : Nat) (n : Nat), l = (o.rtt.filter fun y => y.valid).map (fun y => (y.rtt : Int) - y.turn) →
      ((l.length < 6 ∨ (1000 * (l.length : Int)) ^ 2 < l.length * (l.map fun y => y * y).sum - l.sum ^ 2) → relayResult o d n = 2) ∧
      (6 ≤ l.length → (l.length : Int) * (l.map fun y => y * y).sum - l.sum ^ 2 ≤ (1000 * (l.length : Int)) ^ 2 → relayResult o d n = if (CsObs.rttCm o - d).natAbs ≤ n then 0 else 1) ∧
      (l ≠ [] → (20000000000 * l.length * CsObs.rttCm o - 299792458 * l.sum).natAbs < 20000000000 * l.length)) ∧
    (∀ (cfg : UnlockCfg) (d : Nat), rangedOutcome cfg 1 d = 2 ∧ rangedOutcome cfg 2 d = 3 ∧ (cfg.rangeMax < d → rangedOutcome cfg 0 d = 1) ∧ (d ≤ cfg.rangeMax → rangedOutcome cfg 0 d = 0)) ∧
    (∀ (s : State) (f : Flow) (d : Nat) (n : Int), s.relayEvent f 0 d n = s ∧ s.relayEvent f 1 d n = s.raise 73 0 ([match f.slot with | some k => byte k.val | none => 0xFF, 0, 0, 0] ++ leBytes 2 d ++ leInt 2 n) ∧
      s.relayEvent f 2 d n = s.raise 73 1 ([match f.slot with | some k => byte k.val | none => 0xFF, 0, 0, 0] ++ leBytes 2 d ++ leInt 2 n)) ∧
    (∀ (s : State) (o : CsObs) (k : Fin 64) (cr : Cred) (w : Bool), s.cred.flow = none → s.acc.hostCs = true → s.cred.flowWaits = some (some k, w) → s.cred.cfg.en = true → s.cred.slots[k] = some cr →
      exec (.csProcedureDone o) s = .next { s with acc := { s.acc with hostCs := false }, cred := { s.cred with flowWaits := none, flow := some { step := .connecting, slot := some k, firstTime := false, inWatch := w, range := none, handle := 0, nonce := [], aa := 0, credId := cr.credId, cfg := s.cred.cfg, outcome := none } } }) ∧
    (∀ (s : State) (o : CsObs), s.cred.flow = none → s.acc.hostCs = true → s.cred.flowWaits = none → exec (.csProcedureDone o) s = .next { s with acc := { s.acc with hostCs := false } }) ∧
    (∀ (s : State) (f : Flow) (n : Nat), f.slot = none → s.finalOutcome f n = n) ∧
    (∀ (s : State) (f : Flow) (k : Fin 64) (n : Nat), f.slot = some k → (s.cred.slots[k] = none → s.finalOutcome f n = 7) ∧
      (∀ (cr : Cred), s.cred.slots[k] = some cr → (cr.credId ≠ f.credId → s.finalOutcome f n = 7) ∧ (cr.credId = f.credId → s.finalOutcome f n = if s.timePassed cr.notAfter.toNat = true ∨ s.rtc < cr.notBefore.toNat then 4 else n))) ∧
    (∀ (s : State) (f : Flow) (r : Ranged), ∃ (b : List Byte), b.length = 48 ∧ b.take 32 = [1, byte (s.finalOutcome f r.outcome), (match f.slot with | some k => byte k.val | none => 0xFF), byte r.path] ++ leBytes 2 r.dist ++ [byte r.conf, byte r.relay, (match s.flowCred f with | some cr => cr.rights | none => 0),
        byte (b01 f.firstTime + 2 * b01 f.inWatch + 4 * b01 f.range.isSome + 8 * b01 (s.cred.vkey.isNone || s.tru.opened))] ++ leInt 2 r.diff ++ leBytes 4 (s.cred.verdictSeq + 1).toNat ++ leBytes 8 s.sys.timeUs.toNat ++ slice f.credId 0 8 ∧
      (∀ (key : List Byte), s.cred.vkey = some key → s.tru.opened = false → b.drop 32 = Config.kmac key txtVerdict (b.take 32) 16) ∧ ((s.cred.vkey = none ∨ s.tru.opened = true) → b.drop 32 = List.replicate 16 0) ∧
      (s.issueVerdict f r).cred.verdictSeq = s.cred.verdictSeq + 1 ∧ (s.issueVerdict f r).cred.verdicts = (b :: s.cred.verdicts).take 8 ∧
      (s.issueVerdict f r).cred.flow = (if f.range.isSome then none else some { f with step := .done, outcome := some (byte (s.finalOutcome f r.outcome)) }) ∧
      ((s.cred.vkey = none ∨ s.tru.opened = true ∨ f.cfg.tw1En = false) → (s.issueVerdict f r).cred.delivering = s.cred.delivering) ∧
      (s.cred.vkey ≠ none → s.tru.opened = false → f.cfg.tw1En = true → (s.issueVerdict f r).cred.delivering = s.cred.delivering ++ [({ frame := b, data := verdictData b, addr := f.cfg.bodyAddr, left := 3, waits := false } : Delivery)] ∧
        (verdictTxn f.cfg.bodyAddr b) ∈ (s.issueVerdict f r).tw.port[(1 : Fin 2)].queue)) ∧
    (∀ (s : State) (x : _) (l : _), s.cred.delivering = x :: l → (x.waits = true → 2000 ≤ (s.sys.timeUs - x.since).toNat → exec .verdictTw1Retry s = .next (({ s with cred := { s.cred with delivering := { x with waits := false } :: l } }).twWait 1 { user := .verdict, addr := x.addr.setWidth 8, proto := 6, cmd := 0xB0, pec := true, data := x.frame, rcount := 0 })) ∧
      ((x.waits = false ∨ (s.sys.timeUs - x.since).toNat < 2000) → exec .verdictTw1Retry s = .next s)) ∧
    (∀ (s : State), s.cred.delivering = [] → exec .verdictTw1Retry s = .next s) ∧
    (∀ (s : State), s.cred.flow = none → exec .unlockDisconnected s = .next s ∧ exec .supervisionTimeout s = .next s) ∧
    (∀ (s : State) (f : Flow), s.cred.flow = some f → f.step = .done → exec .unlockDisconnected s = .next (if f.inWatch = true ∧ (f.outcome ≠ some 0 ∨ f.cfg.wakeOnGrant = false) then ({ s with cred := { s.cred with flow := none } }).stewardSleep 3 else { s with cred := { s.cred with flow := none } })) ∧
    (∀ (s : State) (f : Flow), s.cred.flow = some f → f.step ≠ .done → f.inWatch = false → exec .unlockDisconnected s = .next (({ s.issueVerdict f { outcome := if f.step = .ranging then 6 else 5 } with cred := { (s.issueVerdict f { outcome := if f.step = .ranging then 6 else 5 }).cred with flow := none } }))) ∧
    (∀ (s : State) (f : Flow), s.cred.flow = some f → (f.range = none → f.step ≠ .connecting → exec .supervisionTimeout s = exec .unlockDisconnected s) ∧ ((f.range.isSome = true ∨ f.step = .connecting) → exec .supervisionTimeout s = .next s))

/-- R364 to R377: the DMA commands, descriptors, transfers and pulses. How many elements a forced stop has written is free (log 1). -/
def Obligations.DmaCommandsAndDescriptors : Prop :=
  (∀ (s : State) (c : CmdEntry) (k : Nat), s.takes 0x0C01 c = true → c.u8 24 = 0 → c.u8 25 = 0 → c.u16 26 = k → 1 ≤ k → k ≤ 256 → c.u32 28 = 0 →
      ((gpLowest s.dma.gp (64 * k)).isSome = true → ∃ a : Nat, gpFits s.dma.gp a (64 * k) = true ∧
        exec (.dmaChain c) s = .next (({ s.taken 0x0C01 c with dma := { s.dma with gp := s.dma.gp ++ [({ owner := GpOwner.dma, addr := a, size := 64 * k } : GpAlloc)] } }).completesOk 0x0C01 c (leBytes 4 a) none)) ∧
      ((∀ a : Nat, gpFits s.dma.gp a (64 * k) = false) → exec (.dmaChain c) s = .next ((s.taken 0x0C01 c).finish 0x0C01 c .nores 0 [] none))) ∧
    (∀ (s : State) (c : CmdEntry) (g : GpAlloc), s.takes 0x0C01 c = true → c.u8 24 = 1 → c.u8 25 = 0 → (s.dma.gp.find? fun e : GpAlloc => decide (e.owner = GpOwner.dma) && decide (e.addr = c.u32 28)) = some g →
      ((∀ (n : Fin 16), s.dma.ch[n].st = .idle ∨ s.dma.ch[n].st = .halted ∨ s.dma.ch[n].cur.toNat < g.addr ∨ g.addr + g.size ≤ s.dma.ch[n].cur.toNat) →
        exec (.dmaChain c) s = .next (({ s.taken 0x0C01 c with dma := { s.dma with gp := s.dma.gp.filter fun e : GpAlloc => !(decide (e.owner = GpOwner.dma) && decide (e.addr = c.u32 28)) } }).completesOk 0x0C01 c [] none)) ∧
      (∀ (n : Fin 16), (s.dma.ch[n].st = .running ∨ s.dma.ch[n].st = .waiting ∨ s.dma.ch[n].st = .parked) → g.addr ≤ s.dma.ch[n].cur.toNat → s.dma.ch[n].cur.toNat < g.addr + g.size →
        exec (.dmaChain c) s = .next ((s.taken 0x0C01 c).finish 0x0C01 c .busy 0 [] none))) ∧
    (∀ (s : State) (c : CmdEntry), s.takes 0x0C01 c = true → c.u8 24 = 1 → c.u8 25 = 0 → (s.dma.gp.find? fun e : GpAlloc => decide (e.owner = GpOwner.dma) && decide (e.addr = c.u32 28)) = none →
      exec (.dmaChain c) s = .next ((s.taken 0x0C01 c).finish 0x0C01 c .notfound 0 [] none)) ∧
    (∀ (s : State) (c : CmdEntry) (k : Nat), s.takes 0x0C02 c = true → c.bytes 28 4 = [0, 0, 0, 0] → c.bufLen.toNat = 64 * k →
      (s.inChain (c.u32 24) k = true → s.chainBusy (c.u32 24) (64 * k) = false → exec (.dmaWrite c) s = .next (((s.taken 0x0C02 c).store (c.u32 24) (padTo (64 * k) c.buf)).completesOk 0x0C02 c [] none)) ∧
      (s.inChain (c.u32 24) k = true → s.chainBusy (c.u32 24) (64 * k) = true → exec (.dmaWrite c) s = .next ((s.taken 0x0C02 c).finish 0x0C02 c .busy 0 [] none)) ∧
      (s.inChain (c.u32 24) k = false → exec (.dmaWrite c) s = .next ((s.taken 0x0C02 c).finish 0x0C02 c .notfound 0 [] none))) ∧
    (∀ (s : State) (x : Nat) (k : Nat), s.inChain x k = true ↔ x % 64 = 0 ∧ ∃ g : GpAlloc, g ∈ s.dma.gp ∧ g.owner = GpOwner.dma ∧ g.addr ≤ x ∧ x + 64 * k ≤ g.addr + g.size) ∧
    (∀ (s : State) (x : Nat) (k : Nat), s.chainBusy x k = true ↔ ∃ (n : Fin 16), (s.dma.ch[n].st = .running ∨ s.dma.ch[n].st = .waiting ∨ s.dma.ch[n].st = .parked) ∧ x ≤ s.dma.ch[n].cur.toNat ∧ s.dma.ch[n].cur.toNat < x + k) ∧
    (∀ (s : State) (c : CmdEntry) (n : Fin 16), s.takes 0x0C03 c = true → c.u8 24 = n.val → c.u8 25 ≤ 3 → c.u8 26 ≤ 63 → c.u8 27 = 0 →
      (s.dma.ch[n].st = .idle → s.inChain (c.u32 28) 1 = true → exec (.dmaStart c) s = .next (((s.taken 0x0C03 c).modCh n fun x => { x with st := .running, prio := BitVec.ofNat 2 (c.u8 25), waitEvl := Fin.ofNat 64 (c.u8 26), pending := 0, evlOvf := false, cur := BitVec.ofNat 32 (c.u32 28), fetchDue := true, inFlight := false, shuf := false, rung := false }).completesOk 0x0C03 c [] none)) ∧
      (s.dma.ch[n].st = .idle → s.inChain (c.u32 28) 1 = false → exec (.dmaStart c) s = .next ((s.taken 0x0C03 c).finish 0x0C03 c .notfound 0 [] none)) ∧
      (s.dma.ch[n].st ≠ .idle → exec (.dmaStart c) s = .next ((s.taken 0x0C03 c).finish 0x0C03 c .state 0 [] none))) ∧
    (∀ (s : State) (c : CmdEntry) (n : Fin 16) (k : Nat), s.takes 0x0C04 c = true → c.u8 24 = n.val → c.bytes 25 3 = [0, 0, 0] → c.bufLen.toNat = 64 * k →
      (leNat (s.load (c.u32 28 + 56) 4) % 2 = 1 → leNat (slice (padTo (64 * k) c.buf) (64 * (k - 1) + 56) 4) % 2 = 1 → s.chainBusy (c.u32 32) (64 * k) = false → s.inChain (c.u32 32) k = true → s.inChain (c.u32 28) 1 = true →
        exec (.dmaAppend c) s = .next (((((s.taken 0x0C04 c).store (c.u32 32) (padTo (64 * k) c.buf)).store (c.u32 28 + 56) (leBytes 4 (c.u32 32))).dmaRing n).completesOk 0x0C04 c [] none)) ∧
      ((leNat (s.load (c.u32 28 + 56) 4) % 2 = 0 ∨ leNat (slice (padTo (64 * k) c.buf) (64 * (k - 1) + 56) 4) % 2 = 0) → exec (.dmaAppend c) s = .next ((s.taken 0x0C04 c).finish 0x0C04 c .state 0 [] none))) ∧
    (∀ (s : State) (c : CmdEntry) (n : Fin 16) (f : Bool), s.takes 0x0C05 c = true → c.u8 24 = n.val → c.u8 25 = b01 f → c.bytes 26 2 = [0, 0] →
      (s.dma.ch[n].st = .idle → exec (.dmaStop c) s = .next ((s.taken 0x0C05 c).finish 0x0C05 c .state 0 [] none)) ∧
      ((s.dma.ch[n].st = .parked ∨ s.dma.ch[n].st = .halted) → s.dma.ch[n].fetchDue = false → s.dma.ch[n].stopSlots = [] →
        exec (.dmaStop c) s = .next (((s.taken 0x0C05 c).modCh n fun x => { x with st := .idle, inFlight := false, shuf := false, rung := false }).completesOk 0x0C05 c [] none)) ∧
      (f = false → s.dma.ch[n].st = .running → s.dma.ch[n].inFlight = true → ∃ (u : State), exec (.dmaStop c) s = .next u ∧ u.dma = (s.modCh n fun x => { x with stopSlots := x.stopSlots ++ [c.id] }).dma ∧ u = { s with host := u.host, dma := u.dma }) ∧
      (f = true → s.dma.ch[n].st = .running → s.dma.ch[n].inFlight = true → Memory.wf s.mem = true → ∃ (u : State), exec (.dmaStop c) s = .next (u.completesOk 0x0C05 c [] none) ∧ u.dma.ch[n].st = .idle ∧ u.dma.ch[n].inFlight = false ∧
        u.dma.ch[n].bad = s.dma.ch[n].bad + 1 ∧ u.dma.ch[n].completed = s.dma.ch[n].completed ∧ u.load (s.dma.ch[n].cur.toNat + 52) 4 = leBytes 4 (2 + 16 * 5))) ∧
    (∀ (s : State) (c : CmdEntry) (n : Fin 16), s.takes 0x0C06 c = true → c.u8 24 = n.val → c.bytes 25 3 = [0, 0, 0] → s.dma.ch[n].held = false → exec (.dmaStatus c) s = .next ((s.taken 0x0C06 c).completesOk 0x0C06 c
      ([((match s.dma.ch[n].st with | .idle => 0 | .running => 1 | .waiting => 2 | .parked => 3 | .halted => 4) : Byte), byte (min 255 s.dma.ch[n].pending), byte s.dma.ch[n].prio.toNat, byte s.dma.ch[n].waitEvl.val] ++ leBytes 4 s.dma.ch[n].cur.toNat ++ leBytes 4 s.dma.ch[n].completed.toNat ++ leBytes 4 s.dma.ch[n].bad.toNat) none)) ∧
    (∀ (s : State) (n : Fin 16), s.dma.ch[n].fetchDue = true → s.dma.ch[n].held = false →
      exec (.dmaFetch n) s = .next (if (s.dmaDesc n).malformed = true then s.dmaBad n 4 else (s.modCh n fun x => { x with st := .waiting, fetchDue := false }).dmaTryStart n)) ∧
    (∀ (s : State) (n : Fin 16), (s.dma.ch[n].fetchDue = false ∨ s.dma.ch[n].held = true) → exec (.dmaFetch n) s = .next s) ∧
    (∀ (d : Desc), d.malformed = true ↔ d.xc = 0 ∨ d.yc = 0 ∨ d.zc = 0 ∨ ctrlShuf d.ctrl = 3 ∨ d.rsvd = false ∨ (ctrlShuf d.ctrl = 2 ∧ (d.ctrl % 4 ≠ 0 ∨ d.xc % 8 ≠ 0 ∨ d.bitmask = 0)) ∨ (d.next % 2 = 0 ∧ (d.next / 64 * 64 < 0x20000000 ∨ 0x20800000 < d.next / 64 * 64 + 64))) ∧
    (∀ (s : State) (n : Fin 16), s.dma.ch[n].st = .waiting → s.dma.ch[n].held = false → s.dma.ch[n].fetchDue = false →
      (s.dmaInFlight < 8 → (ctrlShuf (s.dmaCtrl n) = 1 → s.dmaShufBusy < 2) → (ctrlWait (s.dmaCtrl n) = true → 0 < s.dma.ch[n].pending) → (s.dmaTryStart n).dma.last = n ∧
        (s.dmaTryStart n).dma.ch[n] = { s.dma.ch[n] with st := .running, inFlight := true, shuf := decide (ctrlShuf (s.dmaCtrl n) = 1), pending := if ctrlWait (s.dmaCtrl n) = true then s.dma.ch[n].pending - 1 else s.dma.ch[n].pending }) ∧
      ((8 ≤ s.dmaInFlight ∨ (ctrlShuf (s.dmaCtrl n) = 1 ∧ 2 ≤ s.dmaShufBusy) ∨ (ctrlWait (s.dmaCtrl n) = true ∧ s.dma.ch[n].pending = 0)) → s.dmaTryStart n = s)) ∧
    (∀ (d : Desc) (x : Nat) (y : Nat) (z : Nat), x < d.xc → y < d.yc → z < d.zc → ctrlShuf d.ctrl ≠ 2 → d.moves.length = d.xc * d.yc * d.zc ∧
      d.moves[x + d.xc * (y + d.yc * z)]? = some ({ reads := [d.src + x * d.sxs + y * d.sys + z * d.szs], size := 2 ^ (d.ctrl % 4), dsts := [d.dst + x * d.dxs + y * d.dys + z * d.dzs], make := fun bs => [bs] } : Move)) ∧
    (∀ (d : Desc) (j : Nat) (y : Nat) (z : Nat) (k : Nat) (w : Nat), j < d.xc / 8 → y < d.yc → z < d.zc → ctrlShuf d.ctrl = 2 → d.planes[k]? = some w → ∃ v : Move, d.moves[j + d.xc / 8 * (y + d.yc * z)]? = some v ∧ v.dsts[k]? = some (d.dst + k * d.dxs + y * d.dys + z * d.dzs + j) ∧
      v.reads = (List.range 8).map (fun i => d.src + (8 * j + i : Nat) * d.sxs + y * d.sys + z * d.szs) ∧ ∀ (h : List Byte), ∃ p : Byte, (v.make h)[k]? = some [p] ∧ ∀ i : Nat, i < 8 → p.getLsbD i = (h.getD i 0).getLsbD w) ∧
    (∀ (s : State) (n : Fin 16) (h : List Byte) (a : Int) (b : Int) (k : Nat), s.dma.ch[n].st = .running → s.dma.ch[n].inFlight = true → (s.dmaDesc n).moves = [({ reads := [a], size := k, dsts := [b], make := fun bs => [bs] } : Move)] →
      (inSramN a k = true → inSramN b k = true → exec (.dmaDescComplete n h) s = .next (((({ s with freeCnt := s.freeCnt + 1 }).store b.toNat (s.load a.toNat k)).dmaStatus n 1).dmaAfter n)) ∧
      (inSramN a k = true → inHostN b k = true → s.host.dlUp = true → (b.toNat - 0x800000000) % 4096 + k ≤ 4096 → exec (.dmaDescComplete n h) s = .next (((({ s with freeCnt := s.freeCnt + 1 }).post (HostWrite.dma (BitVec.ofNat 64 (b.toNat - 0x800000000)) (s.load a.toNat k))).dmaStatus n 1).dmaAfter n)) ∧
      (inHostN a k = true → inSramN b k = true → s.host.dlUp = true → exec (.dmaDescComplete n h) s = .next (((({ s with freeCnt := s.freeCnt + 1 }).store b.toNat (padTo k h)).dmaStatus n 1).dmaAfter n)) ∧
      (inSramN a k = false → inHostN a k = false → exec (.dmaDescComplete n h) s = .next (({ s with freeCnt := s.freeCnt + 1 }).dmaBad n 3)) ∧
      (inSramN a k = true → inSramN b k = false → inHostN b k = true → s.host.dlUp = false → exec (.dmaDescComplete n h) s = .next ((({ s with freeCnt := s.freeCnt + 1 }).busError (0x80 + n.val) [] (BitVec.ofNat 64 (b.toNat - 0x800000000))).dmaBad n 2)) ∧
      (inSramN a k = true → inSramN b k = true → exec (.dmaAccessError n 0 false h) s = .next (({ s with freeCnt := s.freeCnt + 1 }).dmaBad n 1) ∧ exec (.dmaAccessError n 0 true h) s = .next (({ s with freeCnt := s.freeCnt + 1 }).dmaBad n 2) ∧ exec (.dmaAccessError n 1 true h) s = .next s) ∧
      (inHostN a k = true → inSramN b k = true → s.host.dlUp = true → 0 < k → exec (.dmaAccessError n 0 false h) s = .next ((({ s with freeCnt := s.freeCnt + 1 }).busError (0x80 + n.val) [] (BitVec.ofNat 64 (a.toNat - 0x800000000))).dmaBad n 1))) ∧
    (∀ (s : State) (n : Fin 16) (h : List Byte) (j : Nat) (f : Bool), (s.dma.ch[n].st ≠ .running ∨ s.dma.ch[n].inFlight = false) → exec (.dmaDescComplete n h) s = .next s ∧ exec (.dmaAccessError n j f h) s = .next s) ∧
    (∀ (s : State) (n : Fin 16) (k : Nat), s.dmaBad n k = (((((s.store (s.dma.ch[n].cur.toNat + 52) (leBytes 4 (2 + 16 * k))).modCh n fun x => { x with bad := x.bad + 1 }).bump (0xB800 + 4 * n.val) 1).setFlag slotDma n.val).dmaAfter n)) ∧
    (∀ (s : State) (n : Fin 16) (w : Nat), s.dma.ch[n].stopSlots = [] → s.dma.ch[n].held = false → ctrlDone (s.dmaCtrl n) = false → s.dma.ch[n].rung = false → leNat (s.load (s.dma.ch[n].cur.toNat + 56) 4) = w →
      (w % 2 = 1 → s.dmaAfter n = (s.modCh n fun x => { x with st := .parked, inFlight := false, shuf := false, fetchDue := false, completed := x.completed + 1 }).dmaArb) ∧
      (w % 2 = 0 → inSram (w / 64 * 64) = true → s.dmaAfter n = (s.modCh n fun x => { x with st := .running, cur := BitVec.ofNat 32 (w / 64 * 64), inFlight := false, shuf := false, fetchDue := true, completed := x.completed + 1 }).dmaArb) ∧
      (w % 2 = 0 → inSram (w / 64 * 64) = false → s.dmaAfter n = ((s.modCh n fun x => { x with st := .halted, inFlight := false, shuf := false, fetchDue := false, completed := x.completed + 1 }).setFlag slotDma (16 + n.val)).dmaArb)) ∧
    (∀ (s : State) (n : Fin 16), s.dma.ch[n].stopSlots = [] → s.dma.ch[n].held = true → s.dmaAfter n = (if ctrlDone (s.dmaCtrl n) = true then (s.modCh n fun x => { x with st := .running, inFlight := false, shuf := false, fetchDue := false, completed := x.completed + 1 }).evlPulse (ctrlEvl (s.dmaCtrl n)) else s.modCh n fun x => { x with st := .running, inFlight := false, shuf := false, fetchDue := false, completed := x.completed + 1 }).dmaArb) ∧
    (∀ (s : State) (n : Fin 16), (s.dma.ch[n].st = .parked → s.dma.ch[n].held = false → s.dmaRing n = s.dmaFollow n) ∧ ((s.dma.ch[n].st = .running ∨ s.dma.ch[n].st = .waiting) → s.dmaRing n = s.modCh n fun x => { x with rung := true }) ∧
      ((s.dma.ch[n].st = .idle ∨ s.dma.ch[n].st = .halted) → s.dmaRing n = s)) ∧
    (∀ (s : State) (l : Fin 64), (∀ (n : Fin 16), s.dma.ch[n].st ≠ .waiting) → ∃ (u : State), exec (.evlPulse l) s = .next u ∧ u = { s with dma := { s.dma with ch := u.dma.ch }, tlm := u.tlm } ∧
      ∀ (n : Fin 16), u.dma.ch[n] = if s.dma.ch[n].waitEvl = l ∧ s.dma.ch[n].st ≠ .idle then (if s.dma.ch[n].pending < 255 then { s.dma.ch[n] with pending := s.dma.ch[n].pending + 1 } else { s.dma.ch[n] with evlOvf := true }) else s.dma.ch[n]) ∧
    (∀ (s : State) (l : Fin 64) (n : Fin 16), s.dma.ch[n].st = .waiting → s.dma.ch[n].waitEvl = l → s.dma.ch[n].held = false → s.dma.ch[n].fetchDue = false → s.dma.ch[n].inFlight = false → s.dma.ch[n].pending = 0 → ctrlWait (s.dmaCtrl n) = true → ctrlShuf (s.dmaCtrl n) ≠ 1 →
      (∀ (m : Fin 16), m ≠ n → s.dma.ch[m].st = .idle ∧ s.dma.ch[m].inFlight = false) → ∃ (u : State), exec (.evlPulse l) s = .next u ∧ u = { s with dma := { s.dma with ch := upd s.dma.ch n fun x => { x with st := .running, inFlight := true, shuf := false, pending := 0 }, last := n } })

/-- R378 to R391: two-wire traffic. The bytes acknowledged before a lost arbitration or a timeout are free (log 1); that the alert line counts as released after an answer is the model's (log 36). -/
def Obligations.TwoWireTrafficRuns : Prop :=
  (∀ (s : State) (c : CmdEntry) (p : Fin 2) (a : Byte) (w : Nat) (r : Nat) (n : Nat) (b : Bool), s.takes 0x0B01 c = true → c.bytes 24 12 = [byte p.val, a, byte n, byte (c.u8 27), byte (b01 b), 0] ++ leBytes 2 w ++ leBytes 2 r ++ [0, 0] → n ≤ 8 → (b = true → 2 ≤ n) →
      (if n = 4 ∨ n = 6 ∨ n = 8 then 1 ≤ w ∧ w ≤ 255 else w = 0) → (if n = 3 then r = 1 else if n = 5 ∨ n = 7 ∨ n = 8 then 1 ≤ r ∧ r ≤ 255 else r = 0) →
      c.bufLen.toNat = max w r → c.bufIn = decide (0 < w) → c.bufOut = decide (0 < r) → 8 ≤ a.toNat → a.toNat ≤ 0x77 → (a = 0x0C → s.tw.port[p].cfg.getLsbD 16 = false) →
      (s.twLocked p a.toNat n = false → s.tw.port[p].stuck = false → ∃ (u : State), exec (.twXfer c) s = .next u ∧ u = { s with host := u.host, tw := u.tw } ∧
        u.tw = (s.twWait p { user := .pass c.id, addr := a, proto := byte n, cmd := byte (c.u8 27), pec := b, data := c.buf.take w, rcount := r }).tw) ∧
      (s.twLocked p a.toNat n = true → exec (.twXfer c) s = .next ((s.taken 0x0B01 c).finish 0x0B01 c .locked 0 [] none)) ∧
      (s.twLocked p a.toNat n = false → s.tw.port[p].stuck = true → exec (.twXfer c) s = .next ((s.taken 0x0B01 c).finish 0x0B01 c .bus 0 [] none))) ∧
    (∀ (s : State) (c : CmdEntry) (p : Fin 2) (n : Nat) (w : Nat) (r : Nat), s.takes 0x0B01 c = true → c.u8 24 = p.val → c.u8 26 = n → c.u16 30 = w → c.u16 32 = r → (n ≤ 8 → twWOk n w = true → twROk n r = true → c.bufLen.toNat = max w r ∧ c.bufIn = decide (0 < w) ∧ c.bufOut = decide (0 < r)) →
      ((c.u8 25 < 8 ∨ 0x78 ≤ c.u8 25 ∨ (c.u8 25 = 0x0C ∧ s.tw.port[p].cfg.getLsbD 16 = true)) → exec (.twXfer c) s = .next ((s.taken 0x0B01 c).finish 0x0B01 c .range 25 [] none)) ∧
      (c.u8 25 = 0x50 → 8 < n → exec (.twXfer c) s = .next ((s.taken 0x0B01 c).finish 0x0B01 c .range 26 [] none)) ∧
      (c.u8 25 = 0x50 → n ≤ 1 → c.u8 28 = 1 → exec (.twXfer c) s = .next ((s.taken 0x0B01 c).finish 0x0B01 c .range 28 [] none))) ∧
    (∀ (s : State) (n : Nat) (k : Fin 4), s.twLocked 0 (0x50 + k.val) n = ((decide (n = 2) || decide (n = 4) || decide (n = 6) || decide (n = 8)) && s.cap.feed[k].present) ∧
      s.twLocked 1 (s.twAddr 1).toNat n = (decide (n = 2) || decide (n = 4) || decide (n = 6) || decide (n = 8))) ∧
    (∀ (s : State) (c : CmdEntry) (p : Fin 2), s.takes 0x0B02 c = true → c.bytes 24 4 = [byte p.val, 0, 0, 0] → ∃ (u : State), exec (.twBusclear c) s = .next u ∧ u = { s with host := u.host, tw := u.tw } ∧
      u.tw = (s.twWait p { user := .clear c.id, addr := 0xFF, proto := 0, cmd := 0, pec := false, data := [], rcount := 0 }).tw) ∧
    (∀ (s : State) (p : Fin 2) (x : TwTxn), s.twPick p = some x ↔ ∃ (n : Nat), s.tw.port[p].queue[n]? = some x ∧ (∀ (m : Nat) (y : TwTxn), s.tw.port[p].queue[m]? = some y → twPrio p x.user ≤ twPrio p y.user ∧ (m < n → twPrio p x.user < twPrio p y.user))) ∧
    (∀ (s : State) (b : Bool) (o : ClearObs), s.lifeOwed = true → exec (.twTransactionStart 0 b o) s = .next s) ∧
    (∀ (s : State) (p : Fin 2) (b : Bool) (o : ClearObs) (x : TwTxn), s.tw.port[p].run = none → (p = 1 ∨ s.lifeOwed = false) → s.twPick p = some x → (∀ (v : Nat), x.user ≠ TwUser.clear v) → s.tw.port[p].stuck = false → b = false →
      exec (.twTransactionStart p b o) s = .next ((s.modTw p fun y => { y with cfgNow := y.cfg, queue := y.queue.erase x, sda := true, scl := true, run := some x, sent := x.message }).bump (0xB900 + 32 * p.val) 1)) ∧
    (∀ (s : State) (p : Fin 2) (b : Bool) (o : ClearObs) (x : TwTxn) (v : Nat), s.tw.port[p].run = none → (p = 1 ∨ s.lifeOwed = false) → s.twPick p = some x → x.user = TwUser.pass v → s.tw.port[p].stuck = true →
      exec (.twTransactionStart p b o) s = .next ((s.modTw p fun y => { y with cfgNow := y.cfg, queue := y.queue.erase x }).finishSlot 0x0B01 v .bus 0 [0, 0] none)) ∧
    (∀ (s : State) (p : Fin 2) (b : Bool) (o : ClearObs) (x : TwTxn) (v : Nat), s.tw.port[p].run = none → (p = 1 ∨ s.lifeOwed = false) → s.twPick p = some x → x.user = TwUser.clear v → o.sclLow = false →
      exec (.twTransactionStart p b o) s = .next ((((s.modTw p fun y => { y with cfgNow := y.cfg, queue := y.queue.erase x }).twClear p o).finishSlot 0x0B02 v (if o.highAfter.isSome then .ok else .bus) 0 [] none))) ∧
    (∀ (s : State) (p : Fin 2) (b : Bool) (o : ClearObs), (s.tw.port[p].run.isSome = true ∨ s.tw.port[p].queue = []) → exec (.twTransactionStart p b o) s = .next s ∧ exec (.twFreeBusTimeout p) s = .next s) ∧
    (∀ (s : State) (p : Fin 2) (o : ClearObs), (o.sclLow = true → s.twClear p o = (s.modTw p fun y => { y with scl := false }).twStick p) ∧
      (∀ (k : _), o.sclLow = false → o.highAfter = some k → s.twClear p o = ((s.modTw p fun y => { y with stuck := false, sda := true, scl := true }).setFlagN (slotTw p) 1 (k.val + 1)).raise 86 1 [byte p.val, 0xFF, 0, 0]) ∧
      (o.sclLow = false → o.highAfter = none → s.twClear p o = ((s.modTw p fun y => { y with sda := false, scl := true }).setFlagN (slotTw p) 1 3).twStick p)) ∧
    (∀ (s : State) (p : Fin 2), s.twStick p = ((s.modTw p fun y => { y with stuck := true }).setFlag (slotTw p) 2).raise 86 2 [byte p.val, 0xFF, 0, byte Status.bus.code]) ∧
    (∀ (d : List Byte), crc8 (d ++ [crc8 d]) = 0) ∧
    (∀ (x : TwTxn), (x.proto = 4 → x.bytes = [x.addr <<< 1, x.cmd] ++ x.data) ∧ (x.proto = 5 ∨ x.proto = 7 → x.bytes = [x.addr <<< 1, x.cmd, (x.addr <<< 1) ||| 1] ∧ x.message = x.bytes) ∧ (x.proto = 3 → x.bytes = [(x.addr <<< 1) ||| 1]) ∧
      (x.proto = 6 → x.bytes = [x.addr <<< 1, x.cmd, byte x.data.length] ++ x.data) ∧ (x.pec = true → (x.proto = 2 ∨ x.proto = 4 ∨ x.proto = 6) → x.message = x.bytes ++ [crc8 x.bytes]) ∧ (x.pec = false → x.message = x.bytes)) ∧
    (∀ (s : State) (p : Fin 2) (x : TwTxn) (v : Nat) (n : Nat), s.tw.port[p].run = some x → x.user = TwUser.pass v → exec (.twTransactionEnd p (.nack n)) s = .next (((s.modTw p fun y => { y with run := none, wantSince := s.sys.timeUs }).bump (0xB904 + 32 * p.val) 1).finishSlot 0x0B01 v .nack n [byte (min 255 n), 0] none)) ∧
    (∀ (s : State) (p : Fin 2) (x : TwTxn) (v : Nat) (d : List Byte) (a : Byte), s.tw.port[p].run = some x → x.user = TwUser.pass v → x.proto = 5 → d.length = x.rcount → 0 < x.rcount →
      ((x.pec = true → a = crc8 (x.bytes ++ d)) → exec (.twTransactionEnd p (.ok (d ++ [a]))) s = .next ((s.modTw p fun y => { y with run := none, wantSince := s.sys.timeUs }).finishSlot 0x0B01 v .ok 0 [3, 0] (some d))) ∧
      (x.pec = true → a ≠ crc8 (x.bytes ++ d) → exec (.twTransactionEnd p (.ok (d ++ [a]))) s = .next (((s.modTw p fun y => { y with run := none, wantSince := s.sys.timeUs }).setFlag (slotTw p) 5).finishSlot 0x0B01 v .auth 0 [3, 0] (some d)))) ∧
    (∀ (s : State) (p : Fin 2) (x : TwTxn) (v : Nat) (d : List Byte) (a : Byte) (w : Nat), s.tw.port[p].run = some x → x.user = TwUser.pass v → x.proto = 7 → d.length = x.rcount → 0 < x.rcount → x.rcount < w → w ≤ 255 →
      exec (.twTransactionEnd p (.ok (byte w :: d ++ [a]))) s = .next ((s.modTw p fun y => { y with run := none, wantSince := s.sys.timeUs }).finishSlot 0x0B01 v .range 0xFFFF [3, byte w] (some d))) ∧
    (∀ (s : State) (p : Fin 2) (x : TwTxn) (v : Nat) (a : Byte), s.tw.port[p].run = some x → x.user = TwUser.pass v → x.proto = 7 → 0 < x.rcount → (x.pec = true → a = crc8 (x.bytes ++ [0])) →
      exec (.twTransactionEnd p (.ok [0, a])) s = .next ((s.modTw p fun y => { y with run := none, wantSince := s.sys.timeUs }).finishSlot 0x0B01 v .ok 0 [3, 0] none)) ∧
    (∀ (s : State) (p : Fin 2) (e : TwEnd) (o : ClearObs) (b : Bool), s.tw.port[p].run = none → exec (.twTransactionEnd p e) s = .next s ∧ exec (.twArbLost p) s = .next s ∧ exec (.twBusError p b o) s = .next s) ∧
    (∀ (s : State) (p : Fin 2) (x : TwTxn) (v : Nat), s.tw.port[p].run = some x → x.user = TwUser.pass v →
      (∃ (a : Byte), exec (.twArbLost p) s = .next ((((s.setFlag (slotTw p) 4).takeFree.2).modTw p fun y => { y with run := none, wantSince := s.sys.timeUs }).finishSlot 0x0B01 v .arblost 0 [a, 0] none)) ∧
      (∀ (o : ClearObs), ∃ (a : Byte), exec (.twBusError p false o) s = .next ((((((s.setFlag (slotTw p) 3).raise 86 3 [byte p.val, x.addr, x.cmd, byte Status.arblost.code]).takeFree.2).modTw p fun y => { y with run := none, wantSince := s.sys.timeUs }).finishSlot 0x0B01 v .arblost 0 [a, 0] none).modTw p fun y => { y with sda := true, scl := true })) ∧
      (∀ (o : ClearObs), ∃ (a : Byte), exec (.twSclTimeout p false o) s = .next ((((((s.setFlag (slotTw p) 0).raise 86 0 [byte p.val, x.addr, x.cmd, byte Status.timeout.code]).takeFree.2).modTw p fun y => { y with run := none, wantSince := s.sys.timeUs }).finishSlot 0x0B01 v .timeout 0 [a, 0] none).modTw p fun y => { y with sda := true, scl := true }))) ∧
    (∀ (s : State) (p : Fin 2) (o : ClearObs), s.tw.port[p].run = none → exec (.twSclTimeout p true o) s = .next (((s.setFlag (slotTw p) 0).raise 86 0 [byte p.val, 0xFF, 0, byte Status.timeout.code]).twClear p o)) ∧
    (∀ (s : State) (p : Fin 2) (b : Bool), (s.tw.port[p].stuck = true → exec (.twStuckPoll p true) s = .next (s.modTw p fun y => { y with stuck := false, sda := true, scl := true })) ∧
      ((s.tw.port[p].stuck = false ∨ b = false) → exec (.twStuckPoll p b) s = .next s)) ∧
    (∀ (s : State) (p : Fin 2) (x : TwTxn) (v : Nat), s.tw.port[p].run = none → s.twPick p = some x → x.user = TwUser.pass v → 50000 < (s.sys.timeUs - s.tw.port[p].wantSince).toNat →
      exec (.twFreeBusTimeout p) s = .next (((s.modTw p fun y => { y with queue := y.queue.erase x }).raise 86 4 [byte p.val, x.addr, x.cmd, byte Status.timeout.code]).finishSlot 0x0B01 v .timeout 0 [0, 0] none)) ∧
    (∀ (s : State) (p : Fin 2), (s.sys.timeUs - s.tw.port[p].wantSince).toNat ≤ 50000 → exec (.twFreeBusTimeout p) s = .next s) ∧
    (∀ (s : State) (p : Fin 2), s.tw.port[p].cfg.getLsbD 16 = true → (∀ x ∈ s.tw.port[p].queue, x.user ≠ TwUser.alert) → (∀ (x : TwTxn), s.tw.port[p].run = some x → x.user ≠ TwUser.alert) →
      exec (.twAlert p) s = .next ((s.modTw p fun y => { y with alert := true }).twWait p { user := .alert, addr := 0x0C, proto := 3, cmd := 0, pec := true, data := [], rcount := 1 })) ∧
    (∀ (s : State) (p : Fin 2), exec (.twAlertRepeat p) s = (if s.tw.port[p].alertNext.toNat ≤ s.sys.timeUs.toNat then exec (.twAlert p) s else .next s) ∧ (s.tw.port[p].cfg.getLsbD 16 = false → exec (.twAlert p) s = .next (s.modTw p fun y => { y with alert := true }))) ∧
    (∀ (s : State) (p : Fin 2) (x : TwTxn) (a : Byte) (e : TwEnd), s.tw.port[p].run = some x → x.user = TwUser.alert → x.proto = 3 → x.rcount = 1 → s.tw.port[p].alertTimes = [] → (x.pec = true → e = .ok [a, crc8 (x.bytes ++ [a])]) → (x.pec = false → e = .ok [a]) →
      ((p = 0 ∨ a >>> 1 ≠ s.cred.cfg.bodyAddr.setWidth 8) → exec (.twTransactionEnd p e) s = .next ((s.modTw p fun y => { y with run := none, wantSince := s.sys.timeUs, alert := false, alertLast := (a >>> 1).setWidth 32, alertNext := s.sys.timeUs + 10000, alertTimes := [s.sys.timeUs] }).raise (84 + p.val) 0 [byte p.val, a >>> 1])) ∧
      (p = 1 → a >>> 1 = s.cred.cfg.bodyAddr.setWidth 8 → exec (.twTransactionEnd p e) s = .next (((s.modTw p fun y => { y with run := none, wantSince := s.sys.timeUs, alert := false, alertLast := (a >>> 1).setWidth 32, alertNext := s.sys.timeUs + 10000, alertTimes := [s.sys.timeUs] }).raise 85 0 [1, a >>> 1]).twWait 1
        { user := .body, addr := s.cred.cfg.bodyAddr.setWidth 8, proto := 7, cmd := 0xB1, pec := true, data := [], rcount := 12 })) ∧
      exec (.twTransactionEnd p (.nack 0)) s = .next (((s.modTw p fun y => { y with run := none, wantSince := s.sys.timeUs, alertNext := s.sys.timeUs + 100000, alertTimes := [s.sys.timeUs] }).bump (0xB904 + 32 * p.val) 1).raise (84 + p.val) 1 [byte p.val, 0xFF])) ∧
    (∀ (s : State) (p : Fin 2) (x : TwTxn), s.tw.port[p].run = some x → x.user = TwUser.alert → 10 ≤ (s.tw.port[p].alertTimes.filter fun v => decide ((s.sys.timeUs - v).toNat < 1000000)).length →
      ∃ (u : State), exec (.twTransactionEnd p (.nack 0)) s = .next u ∧ u = { s with tw := u.tw, tlm := u.tlm } ∧ u.tlm = ((s.bump (0xB904 + 32 * p.val) 1).bump (0xB908 + 32 * p.val) 1).tlm) ∧
    (∀ (s : State) (x : TwTxn) (d : List Byte), s.tw.port[(1 : Fin 2)].run = some x → x.user = TwUser.body → x.proto = 7 → x.rcount = 12 → 1 ≤ d.length → d.length ≤ 12 → s.pwr.st = .run →
      exec (.twTransactionEnd 1 (.ok (byte d.length :: d ++ [crc8 (x.bytes ++ [byte d.length] ++ d)]))) s = .next (((s.modTw 1 fun y => { y with run := none, wantSince := s.sys.timeUs }).modTwBlk fun y => { y with body := d }).raise 87 0 ([1, byte d.length, 0, 0] ++ padTo 12 d))) ∧
    (∀ (s : State) (x : TwTxn) (d : List Byte) (w : Nat), s.tw.port[(1 : Fin 2)].run = some x → x.user = TwUser.body → x.proto = 7 → x.rcount = 12 → 12 < w → w ≤ 255 →
      exec (.twTransactionEnd 1 (.ok (byte w :: d))) s = .next ((s.modTw 1 fun y => { y with run := none, wantSince := s.sys.timeUs }).bump 0xB92C 1)) ∧
    (∀ (s : State), (s.tw.hostWakeLeft = none → exec .hostWakeRequest s = .next (({ s with tw := { s.tw with hostWakeLeft := some 3 } }).twWait 1 { user := .hostWake, addr := s.twAddr 1, proto := 4, cmd := 0xA0, pec := true, data := [1], rcount := 0 })) ∧
      (s.tw.hostWakeLeft.isSome = true → exec .hostWakeRequest s = .next s)) ∧
    (∀ (s : State) (n : Nat), (s.tw.hostWakeDue = true → s.tw.hostWakeLeft = some n → 2000 ≤ (s.sys.timeUs - s.tw.hostWakeAt).toNat → exec .hostWakeRetry s = .next (({ s with tw := { s.tw with hostWakeDue := false, hostWakeLeft := some (n - 1) } }).twWait 1 { user := .hostWake, addr := s.twAddr 1, proto := 4, cmd := 0xA0, pec := true, data := [1], rcount := 0 })) ∧
      ((s.tw.hostWakeDue = false ∨ (s.sys.timeUs - s.tw.hostWakeAt).toNat < 2000) → exec .hostWakeRetry s = .next s)) ∧
    (∀ (s : State) (x : TwTxn) (n : Nat) (m : Nat), s.tw.port[(1 : Fin 2)].run = some x → x.user = TwUser.hostWake → x.proto = 4 → s.tw.hostWakeLeft = some n →
      exec (.twTransactionEnd 1 (.ok [])) s = .next (({ s.modTw 1 fun y => { y with run := none, wantSince := s.sys.timeUs } with tw := { (s.modTw 1 fun y => { y with run := none, wantSince := s.sys.timeUs }).tw with hostWakeLeft := none, hostWakeDue := false } })) ∧
      (0 < n → exec (.twTransactionEnd 1 (.nack m)) s = .next (((s.modTw 1 fun y => { y with run := none, wantSince := s.sys.timeUs }).bump 0xB924 1).modTwBlk fun y => { y with hostWakeDue := true, hostWakeAt := s.sys.timeUs })) ∧
      (n = 0 → exec (.twTransactionEnd 1 (.nack m)) s = .next ((((s.modTw 1 fun y => { y with run := none, wantSince := s.sys.timeUs }).bump 0xB924 1).modTwBlk fun y => { y with hostWakeLeft := none, hostWakeDue := false }).raise 86 5 [1, x.addr, x.cmd, byte Status.nack.code])))

/-- R320, R430 to R445: calibration. That a Class B command without a valid page completes E_REGLIMIT at once is the model's reading (log 40) and is not stated. -/
def Obligations.CalibrationRuns : Prop :=
  (∀ (s : State) (a : Int) (d : Int), (s.saf.safe = true ∨ s.cal.cfg.getLsbD 8 = false) → exec (.tjSample a d) s = .next { s with pwr := { s.pwr with tj := BitVec.ofInt 8 (max a d), tjNow := max a d, hotSince := if (s.trip : Int) ≤ max a d then some (s.pwr.hotSince.getD s.sys.timeUs) else none, coolSince := if max a d < (s.trip : Int) - s.hyst then some (s.pwr.coolSince.getD s.sys.timeUs) else none }, acc := { s.acc with synth := s.acc.synth.map fun x : SynthEntry => if x.st = 1 ∧ 20 < |max a d - x.temp| then { x with st := 2 } else x } }) ∧
    (∀ (s : State) (a : Int) (d : Int) (n : Fin 4), s.saf.safe = false → s.cal.cfg.getLsbD 8 = true → s.cal.aRun = none → s.onFio = false → s.cap.hr[n].calReady = true → (s.cal.aValid.getLsbD n.val = false ∨ (s.tDelta : Int) < |max a d - s.cal.aTemp[n]|) →
      (∀ (j : Fin 4), j < n → s.cal.due.getLsbD j.val = false ∧ s.cal.aValid.getLsbD j.val = true ∧ |max a d - s.cal.aTemp[j]| ≤ s.tDelta) →
      ∃ (u : State), exec (.tjSample a d) s = .next u ∧ u.cal = { s.cal with due := u.cal.due, aRun := some { hr := n, lane := 8, repeats := 0, startTj := max a d, found := [], slot := none, rest := [], stored := 0, suspect := 0 } } ∧ u = { ({ s with pwr := { s.pwr with tj := BitVec.ofInt 8 (max a d), tjNow := max a d, hotSince := if (s.trip : Int) ≤ max a d then some (s.pwr.hotSince.getD s.sys.timeUs) else none, coolSince := if max a d < (s.trip : Int) - s.hyst then some (s.pwr.coolSince.getD s.sys.timeUs) else none }, acc := { s.acc with synth := s.acc.synth.map fun x : SynthEntry => if x.st = 1 ∧ 20 < |max a d - x.temp| then { x with st := 2 } else x } } : State) with cal := u.cal }) ∧
    (∀ (s : State) (a : Int) (d : Int) (n : Fin 4), s.saf.safe = false → s.cal.cfg.getLsbD 8 = true → s.cap.hr[n].running = false → (s.cal.aValid.getLsbD n.val = false ∨ (s.tDelta : Int) < |max a d - s.cal.aTemp[n]|) → ∃ (u : State), exec (.tjSample a d) s = .next u ∧ u.cal.due.getLsbD n.val = true ∧ u = { ({ s with pwr := { s.pwr with tj := BitVec.ofInt 8 (max a d), tjNow := max a d, hotSince := if (s.trip : Int) ≤ max a d then some (s.pwr.hotSince.getD s.sys.timeUs) else none, coolSince := if max a d < (s.trip : Int) - s.hyst then some (s.pwr.coolSince.getD s.sys.timeUs) else none }, acc := { s.acc with synth := s.acc.synth.map fun x : SynthEntry => if x.st = 1 ∧ 20 < |max a d - x.temp| then { x with st := 2 } else x } } : State) with cal := { s.cal with due := u.cal.due, aRun := u.cal.aRun } }) ∧
    (∀ (s : State) (c : CmdEntry) (m : Nat) (n : Fin 4) (l : List (Fin 4)), s.takes 0x0901 c = true → c.bytes 24 4 = [0, byte m, 0, 0] → 1 ≤ m → m ≤ 15 → ((List.finRange 4).filter fun j => m.testBit j.val) = n :: l →
      (s.below 2 = true → exec (.calRun c) s = .next ((s.taken 0x0901 c).finish 0x0901 c .power 0 [] none)) ∧
      (s.below 2 = false → s.onFio = false → (∀ j ∈ n :: l, s.cap.hr[j].running = true ∧ s.cap.hr[j].retired = 15 ∧ s.cap.hr[j].takeOver = none) →
        ((∀ j ∈ n :: l, s.cap.hr[j].failed = false) → s.cal.aRun = none → ∃ (u : State), exec (.calRun c) s = .next u ∧ u = { s with host := u.host, cal := u.cal } ∧
          u.cal = { s.cal with due := u.cal.due, aRun := some { hr := n, lane := 8, repeats := 0, startTj := s.pwr.tjNow, found := [], slot := some c.id, rest := l, stored := 0, suspect := 0 } }) ∧
        ((∃ (j : Fin 4), j ∈ n :: l ∧ s.cap.hr[j].failed = true) → exec (.calRun c) s = .next ((s.taken 0x0901 c).finish 0x0901 c .fault 0 [] none)) ∧
        ((∀ j ∈ n :: l, s.cap.hr[j].failed = false) → s.cal.aRun.isSome = true → exec (.calRun c) s = .next ((s.taken 0x0901 c).finish 0x0901 c .busy 0 [] none))) ∧
      (s.below 2 = false → s.onFio = false → (∃ (j : Fin 4), j ∈ n :: l ∧ (s.cap.hr[j].running = false ∨ s.cap.hr[j].retired ≠ 15)) → exec (.calRun c) s = .next ((s.taken 0x0901 c).finish 0x0901 c .state 0 [] none))) ∧
    (∀ (s : State) (c : CmdEntry) (m : Nat), s.takes 0x0901 c = true → c.bytes 24 4 = [1, byte m, 0, 0] → 1 ≤ m → m ≤ 7 →
      (s.below 1 = true → exec (.calRun c) s = .next ((s.taken 0x0901 c).finish 0x0901 c .power 0 [] none)) ∧
      (s.below 1 = false → s.onFio = false → s.cal.bRun.isSome = true → exec (.calRun c) s = .next ((s.taken 0x0901 c).finish 0x0901 c .busy 0 [] none)) ∧
      (s.below 1 = false → s.onFio = false → s.cal.bRun = none → (m = 1 ∨ pageValid s.acc.regPage = true) → ∃ (u : State), exec (.calRun c) s = .next u ∧ u = { s with host := u.host, cal := u.cal } ∧
        u.cal = { s.cal with bRun := some { slot := c.id, rest := (List.finRange 3).filter fun p => m.testBit p.val, repeats := 0, denied := 0, suspect := 0, startTj := s.pwr.tjNow, found := [] } })) ∧
    (∀ (s : State) (c : CmdEntry) (e : CalRefObs) (f : Bool), s.takes 0x0902 c = true → c.bytes 24 4 = [byte (b01 f), 0, 0, 0] →
      (s.below 2 = true → exec (.calRef c e) s = .next ((s.taken 0x0902 c).finish 0x0902 c .power 0 [] none)) ∧
      (s.below 2 = false → s.onFio = false → s.hrRunning = [] → exec (.calRef c e) s = .next ((s.taken 0x0902 c).finish 0x0902 c .state 0 [] none)) ∧
      (s.below 2 = false → s.onFio = false → s.hrRunning ≠ [] →
        ((1000 < |e.levelMdBm + 30000| ∨ 20000 < |e.freqPpb|) → exec (.calRef c e) s = .next ((s.taken 0x0902 c).finish 0x0902 c .notfound 0 [] none)) ∧
        (|e.levelMdBm + 30000| ≤ 1000 → |e.freqPpb| ≤ 20000 → s.cal.eolLocked = true → exec (.calRef c e) s = .next ((s.taken 0x0902 c).finish 0x0902 c .locked 0 [] none)) ∧
        (|e.levelMdBm + 30000| ≤ 1000 → |e.freqPpb| ≤ 20000 → s.cal.eolLocked = false → exec (.calRef c e) s = .next (({ s.taken 0x0902 c with cal := { s.cal with eolValid := true, eolLocked := f, refPpb := BitVec.ofInt 32 e.freqPpb, eolGains := Vector.ofFn fun j => if s.cap.hr[j].running = true then e.gains[j] else s.cal.eolGains[j], eolCalsrc := Vector.ofFn fun j => if s.cap.hr[j].running = true then e.calsrc[j] else s.cal.eolCalsrc[j] } }).completesOk 0x0902 c
          ([byte (s.hrRunning.map fun j : Fin 4 => 2 ^ j.val).sum, 0, 0, 0] ++ leInt 4 e.freqPpb) none)))) ∧
    (∀ (s : State) (n : Fin 4), n ∈ s.hrRunning ↔ s.cap.hr[n].running = true) ∧
    (∀ (s : State) (c : CmdEntry) (f : Bool), s.takes 0x0903 c = true → c.bytes 24 4 = [byte (b01 f), 0, 0, 0] →
      (s.cal.eolLocked = false → exec (.calBoard c) s = .next (({ s.taken 0x0903 c with cal := { s.cal with eolLocked := f, board := [BitVec.ofNat 16 (c.u16 28), BitVec.ofNat 16 (c.u16 30), BitVec.ofNat 16 (c.u16 32), BitVec.ofNat 16 (c.u16 34)] } }).completesOk 0x0903 c [] none)) ∧
      (s.cal.eolLocked = true → exec (.calBoard c) s = .next ((s.taken 0x0903 c).finish 0x0903 c .locked 0 [] none))) ∧
    (∀ (s : State) (o : CalAObs) (r : CalARun), s.cal.aRun = some r → r.lane ≤ 8 → ¬(|o.first.gain - o.second.gain| ≤ 50 ∧ |o.first.offset - o.second.offset| ≤ 10 ∧ |o.first.skew - o.second.skew| ≤ 20) → r.repeats < 3 → exec (.calAStepDone o) s = .next (({ s with cal := { s.cal with aRun := some { r with repeats := r.repeats + 1 } } }).modHr r.hr fun h => if r.lane < 8 then { h with spareFor := BitVec.ofNat 4 r.lane } else h.laneBack)) ∧
    (∀ (s : State) (o : CalAObs) (r : CalARun), s.cal.aRun = some r → r.lane ≤ 8 → ¬(|o.first.gain - o.second.gain| ≤ 50 ∧ |o.first.offset - o.second.offset| ≤ 10 ∧ |o.first.skew - o.second.skew| ≤ 20) → r.repeats = 3 → r.slot = none → exec (.calAStepDone o) s = .next (((({ s with cal := { s.cal with aRun := none, aSuspect := s.cal.aSuspect ||| BitVec.ofNat 4 (2 ^ r.hr.val) } }).modHr r.hr Headrace.laneBack).setFlag slotCal 0).raise 95 0 ([byte r.hr.val, byte (if 50 < |o.first.gain - o.second.gain| then (0, (o.first.gain - o.second.gain).natAbs) else if 10 < |o.first.offset - o.second.offset| then (1, (o.first.offset - o.second.offset).natAbs) else (2, (o.first.skew - o.second.skew).natAbs)).1, byte r.lane, 0] ++ leBytes 4 ((if 50 < |o.first.gain - o.second.gain| then (0, (o.first.gain - o.second.gain).natAbs) else if 10 < |o.first.offset - o.second.offset| then (1, (o.first.offset - o.second.offset).natAbs) else (2, (o.first.skew - o.second.skew).natAbs)).2 % 4294967296)))) ∧
    (∀ (s : State) (o : CalAObs) (r : CalARun) (k : Nat), s.cal.aRun = some r → r.lane ≤ 8 → ¬(|o.first.gain - o.second.gain| ≤ 50 ∧ |o.first.offset - o.second.offset| ≤ 10 ∧ |o.first.skew - o.second.skew| ≤ 20) → r.repeats = 3 → r.slot = some k → exec (.calAStepDone o) s = .next ((((({ s with cal := { s.cal with aRun := none, aSuspect := s.cal.aSuspect ||| BitVec.ofNat 4 (2 ^ r.hr.val) } }).modHr r.hr Headrace.laneBack).setFlag slotCal 0).raise 95 0 ([byte r.hr.val, byte (if 50 < |o.first.gain - o.second.gain| then (0, (o.first.gain - o.second.gain).natAbs) else if 10 < |o.first.offset - o.second.offset| then (1, (o.first.offset - o.second.offset).natAbs) else (2, (o.first.skew - o.second.skew).natAbs)).1, byte r.lane, 0] ++ leBytes 4 ((if 50 < |o.first.gain - o.second.gain| then (0, (o.first.gain - o.second.gain).natAbs) else if 10 < |o.first.offset - o.second.offset| then (1, (o.first.offset - o.second.offset).natAbs) else (2, (o.first.skew - o.second.skew).natAbs)).2 % 4294967296))).finishSlot
      0x0901 k .cal 0 [byte r.stored.toNat, byte (r.suspect ||| BitVec.ofNat 4 (2 ^ r.hr.val)).toNat] none)) ∧
    (∀ (s : State) (o : CalAObs) (r : CalARun), s.cal.aRun = some r → r.lane ≤ 8 → (|o.first.gain - o.second.gain| ≤ 50 ∧ |o.first.offset - o.second.offset| ≤ 10 ∧ |o.first.skew - o.second.skew| ≤ 20) → (CalAObs.usable o = true → exec (.calAStepDone o) s = .next (({ s with cal := { s.cal with aRun := some { r with lane := if r.lane = 8 then 0 else if r.lane = 7 then 9 else r.lane + 1, repeats := 0, found := r.found ++ [(r.lane, CalAObs.values o)] } } }).modHr r.hr fun h =>
        if r.lane = 8 then { h with spareFor := 0 } else if r.lane = 7 then h.laneBack else { h with spareFor := BitVec.ofNat 4 (r.lane + 1) })) ∧
      (CalAObs.usable o = false → exec (.calAStepDone o) s = .next (s.laneFailed r.hr (Fin.ofNat 9 r.lane)))) ∧
    (∀ (o : CalAObs) (x : List (Nat × Element)), CalAObs.usableElements o = x → (x.length < 16 → CalAObs.usable o = false) ∧ (x.length = 16 →
      (((x.map fun i : Nat × Element => i.2.gain).sum.natAbs ≤ 20480 ∧ (x.map fun i : Nat × Element => i.2.offset).sum.natAbs ≤ 10240 ∧ (x.map fun i : Nat × Element => i.2.skew).sum.natAbs ≤ 20480) → CalAObs.usable o = true ∧ (CalAObs.values o).mask = BitVec.ofNat 18 (bitsOf (x.map Prod.fst)) ∧
        (CalAObs.values o).gain = trimCode (x.map fun i : Nat × Element => i.2.gain).sum 20 10 ∧ (CalAObs.values o).offset = trimCode (x.map fun i : Nat × Element => i.2.offset).sum 5 5 ∧ (CalAObs.values o).skew = trimCode (x.map fun i : Nat × Element => i.2.skew).sum 10 10) ∧
      ((20480 < (x.map fun i : Nat × Element => i.2.gain).sum.natAbs ∨ 10240 < (x.map fun i : Nat × Element => i.2.offset).sum.natAbs ∨ 20480 < (x.map fun i : Nat × Element => i.2.skew).sum.natAbs) → CalAObs.usable o = false))) ∧
    (∀ (a : Int) (z : Nat) (y : Nat), 0 < y → (a.natAbs ≤ 16 * z → trimCode a z y = 0) ∧ (16 * z < a.natAbs → |a - 16 * y * trimCode a z y| ≤ 8 * y)) ∧
    (∀ (s : State) (o : CalAObs), s.cal.aRun = none → exec (.calAStepDone o) s = .next s ∧ exec .calAStore s = .next s) ∧
    (∀ (s : State) (r : CalARun), s.cal.aRun = some r → r.lane ≠ 9 → exec .calAStore s = .next s) ∧
    (∀ (s : State) (r : CalARun), s.cal.aRun = some r → r.lane = 9 → r.rest = [] → ∃ (u : State), u = ({ s with cal := { s.cal with aRun := none, aValid := s.cal.aValid ||| BitVec.ofNat 4 (2 ^ r.hr.val), aSuspect := s.cal.aSuspect &&& ~~~(BitVec.ofNat 4 (2 ^ r.hr.val)), aSeq := s.cal.aSeq + 1, aValues := upd s.cal.aValues r.hr fun _ => r.found, aTemp := upd s.cal.aTemp r.hr fun _ => r.startTj, aRuns := upd s.cal.aRuns r.hr fun x => x + 1, aLast := upd s.cal.aLast r.hr fun _ => BitVec.ofNat 32 s.rtc } }).raise 94 0 ([byte r.hr.val, 0, BitVec.ofInt 8 r.startTj, 0] ++ leBytes 4 (s.cal.aRuns[r.hr] + 1).toNat ++ leBytes 4 (BitVec.ofNat 32 s.rtc).toNat) ∧
      exec .calAStore s = .next (r.slot.elim u fun k => u.finishSlot 0x0901 k .ok 0 [byte (r.stored ||| BitVec.ofNat 4 (2 ^ r.hr.val)).toNat, byte r.suspect.toNat] none)) ∧
    (∀ (s : State) (r : CalARun) (n : Fin 4) (l : List (Fin 4)), s.cal.aRun = some r → r.lane = 9 → r.rest = n :: l → s.cap.hr[n].calReady = true → ∃ (u : State), exec .calAStore s = .next u ∧ u = { s with cal := u.cal, host := u.host, evt := u.evt } ∧
      u.cal.aRun = some { hr := n, lane := 8, repeats := 0, startTj := s.pwr.tjNow, found := [], slot := r.slot, rest := l, stored := r.stored ||| BitVec.ofNat 4 (2 ^ r.hr.val), suspect := r.suspect } ∧ u.cal.aValues[r.hr] = r.found ∧ u.cal.aRuns[r.hr] = s.cal.aRuns[r.hr] + 1) ∧
    (∀ (s : State) (b : CalBObs) (q : CalBRun) (p : Fin 3) (v : List (Fin 3)), s.cal.bRun = some q → q.rest = p :: v →
      (CalBObs.agree b p = false → q.repeats < 3 → exec (.calBPartDone b) s = .next { s with cal := { s.cal with bRun := some { q with repeats := q.repeats + 1 } } }) ∧
      (CalBObs.agree b p = true → v ≠ [] → exec (.calBPartDone b) s = .next { s with cal := { s.cal with bRun := some { q with rest := v, repeats := 0, found := q.found ++ [(p, CalBObs.values b p, s.pwr.tjNow)] } } }) ∧
      (CalBObs.agree b p = false → 3 ≤ q.repeats → v ≠ [] → ∃ (u : State), exec (.calBPartDone b) s = .next u ∧ u = { s with cal := u.cal, host := u.host, evt := u.evt, tlm := u.tlm, flags := u.flags, freeCnt := u.freeCnt } ∧
        u.cal = { s.cal with bSuspect := s.cal.bSuspect ||| BitVec.ofNat 3 (2 ^ p.val), bRun := some { q with rest := v, repeats := 0, suspect := q.suspect ||| BitVec.ofNat 3 (2 ^ p.val) } })) ∧
    (∀ (s : State) (b : CalBObs) (q : CalBRun), s.cal.bRun = some q → q.rest = [2] → q.found = [] → q.suspect = 0 → s.acc.synthSt ≠ 3 → (∀ j ∈ b.first.loops.zip b.second.loops, |j.1 - j.2| ≤ 20) →
      ∃ (u : State), exec (.calBPartDone b) s = .next (u.finishSlot 0x0901 q.slot .ok 0 [4, 0] none) ∧
        u = ({ s with cal := { s.cal with bRun := none, bValues := s.cal.bValues.filter (fun x : Fin 3 × CalBMeas × Int => decide (x.1 ≠ 2)) ++ [(2, CalBObs.values b 2, s.pwr.tjNow)], bValid := s.cal.bValid ||| 4, bSuspect := s.cal.bSuspect &&& 3, bRuns := s.cal.bRuns + 1, bLast := BitVec.ofNat 32 s.rtc, bSeq := s.cal.bSeq + 1, pathOff := (List.range 4).map fun i => (CalBObs.values b 2).loops.getD i 0 + toSigned 2 (s.cal.board.getD i 0).toNat } }).raise 94 1 ([4, 0, BitVec.ofInt 8 q.startTj, 0] ++ leBytes 4 (s.cal.bRuns + 1).toNat ++ leBytes 4 (BitVec.ofNat 32 s.rtc).toNat)) ∧
    (∀ (s : State) (b : CalBObs) (q : CalBRun), s.cal.bRun = some q → q.rest = [0] → q.found = [] → CalBObs.agree b 0 = true → ∃ (u : State), exec (.calBPartDone b) s = .next (u.finishSlot 0x0901 q.slot (if q.suspect = 0 then .ok else .cal) 0 [1, byte q.suspect.toNat] none) ∧
      u.acc.synth = s.acc.synth.map (fun x : SynthEntry => { x with st := 1, born := some s.sys.timeUs, temp := s.pwr.tjNow, retry := false, excluded := false }) ∧ u.cal.bValid = s.cal.bValid ||| 1 ∧ u.cal.bRun = none) ∧
    (∀ (s : State) (b : CalBObs) (q : CalBRun) (p : Fin 3), s.cal.bRun = some q → q.rest = [p] → q.found = [] → CalBObs.agree b p = false → 3 ≤ q.repeats → ∃ (u : State), exec (.calBPartDone b) s = .next (u.finishSlot 0x0901 q.slot .cal 0 [0, byte (q.suspect ||| BitVec.ofNat 3 (2 ^ p.val)).toNat] none) ∧
      u.cal = { s.cal with bRun := none, bSuspect := s.cal.bSuspect ||| BitVec.ofNat 3 (2 ^ p.val) }) ∧
    (∀ (b : CalBObs), CalBObs.agree b 2 = true ↔ ∀ j ∈ b.first.loops.zip b.second.loops, |j.1 - j.2| ≤ 20) ∧
    (∀ (b : CalBObs), CalBObs.agree b 0 = true ↔ b.first.entries.length = b.second.entries.length ∧ ∀ j ∈ b.first.entries.zip b.second.entries, j.1.1 = j.2.1 ∧ |j.1.2 - j.2.2| ≤ 1) ∧
    (∀ (b : CalBObs), CalBObs.agree b 1 = true → ∀ j ∈ b.first.dpd ++ b.second.dpd, j.1 < -300) ∧
    (∀ (b : CalBObs) (p : Fin 3), CalBObs.values b p = b.first ∨ CalBObs.values b p = b.second) ∧
    (∀ (s : State) (b : CalBObs), (s.cal.bRun = none ∨ ∃ (q : CalBRun), s.cal.bRun = some q ∧ q.rest = []) → exec (.calBPartDone b) s = .next s)

/-- R65 to R67, R299, R338, R351, R427, R61, R75: HCI traffic and rate limits. The form of the HCI events and their status codes are presumed (log 9). -/
def Obligations.HciEntriesReachTheController : Prop :=
  (∀ (s : State) (e : HciEntry) (k : HciObs), s.pairRuns 0 = true → s.sys.recovery = false → s.ringUp 3 = true → s.host.rings[3].used ≠ 0 → s.accWaiting = [] → s.host.hciWaiting = [] → ((e.type ≠ 1 ∧ e.type ≠ 2) ∨ e.len.toNat < 3 ∨ 268 < e.len.toNat) →
      exec (.hciCommand e k) s = .next (s.hciTaken.hciOut 4 [0x0E, 4, 4, 0, 0, 0x12]) ∧ exec (.hciAclData e) s = .next (s.hciTaken.hciOut 4 [0x0E, 4, 4, 0, 0, 0x12])) ∧
    (∀ (s : State) (e : HciEntry) (k : HciObs), (s.pairRuns 0 = false ∨ s.sys.recovery = true ∨ s.ringUp 3 = false ∨ s.host.rings[3].used = 0) → exec (.hciCommand e k) s = .next s ∧ exec (.hciAclData e) s = .next s ∧ exec .hciReset s = .next s) ∧
    (∀ (s : State) (e : HciEntry) (k : HciObs), s.pairRuns 0 = true → s.sys.recovery = false → s.ringUp 3 = true → s.host.rings[3].used ≠ 0 → (s.accWaiting ≠ [] ∨ s.host.hciWaiting ≠ []) → exec (.hciCommand e k) s = .next { s.hciTaken with host := { s.hciTaken.host with hciWaiting := s.host.hciWaiting ++ [(e, k, s.accWaiting)] } }) ∧
    (∀ (s : State) (n : Nat), n ∈ s.accWaiting ↔ ∃ x ∈ s.host.outstanding, x.entry.id = n ∧ x.opcode.toNat / 256 = 7 ∧ (x.phase = .held ∨ x.phase = .dispatched)) ∧
    (∀ (s : State), s.host.rings[3].used ≠ 0 → s.host.shadowEn = false → s.hciTaken = s.modRing 3 fun x => { x with cons := (x.cons + 1) % x.size }) ∧
    (∀ (s : State) (e : HciEntry) (k : HciObs) (p : List Byte) (o : Nat) (l : List Byte) (row : OpRow), s.pairRuns 0 = true → s.sys.recovery = false → s.ringUp 3 = true → s.host.rings[3].used ≠ 0 → s.accWaiting = [] → s.host.hciWaiting = [] → e.type = 1 → 3 ≤ e.len.toNat → e.len.toNat ≤ 268 → e.packet.take e.len.toNat = p → p = leBytes 2 o ++ [byte l.length] ++ l → o < 65536 → l.length ≤ 255 → o / 256 = 0xFE → opRow (0x0700 + o % 256) = some row → exec (.hciCommand e k) s = .next (({ s.hciTaken with host := { s.hciTaken.host with hciCnt := s.host.hciCnt + 1 } } : State).runCmd (0x0700 + o % 256) (vendorEntry row l s.host.hciCnt) (accBody (0x0700 + o % 256) (vendorEntry row l s.host.hciCnt)))) ∧
    (∀ (s : State) (e : HciEntry) (k : HciObs) (p : List Byte) (o : Nat) (l : List Byte), s.pairRuns 0 = true → s.sys.recovery = false → s.ringUp 3 = true → s.host.rings[3].used ≠ 0 → s.accWaiting = [] → s.host.hciWaiting = [] → e.type = 1 → 3 ≤ e.len.toNat → e.len.toNat ≤ 268 → e.packet.take e.len.toNat = p → p = leBytes 2 o ++ [byte l.length] ++ l → o < 65536 → l.length ≤ 255 →
      (o / 256 ≠ 0xFE → exec (.hciCommand e k) s = .next (({ s.hciTaken with acc := { s.hciTaken.acc with hciIn := (1, p) :: s.hciTaken.acc.hciIn } }).hciStandard o (hciKind p) k)) ∧
      (o / 256 = 0xFE → opRow (0x0700 + o % 256) = none → exec (.hciCommand e k) s = .next (s.hciTaken.hciOut 4 ([0x0E, 4, 4] ++ leBytes 2 o ++ [1]))) ∧
      (o = 0xFE11 → l = [0, 0, 0, 0] → s.acc.accTx = none → (∀ x ∈ s.host.outstanding, x.entry.id ≠ 2 ^ 64 + s.host.hciCnt) → exec (.hciCommand e k) s = .next (({ s.hciTaken with host := { s.hciTaken.host with hciCnt := s.host.hciCnt + 1 } } : State).hciOut 4 [0x0E, 4, 4, 0x11, 0xFE, byte Status.state.code])) ∧
      (o = 0xFE14 → l = [0, 0, 0, 0] → (∀ x ∈ s.host.outstanding, x.entry.id ≠ 2 ^ 64 + s.host.hciCnt) → exec (.hciCommand e k) s = .next (({ s.hciTaken with host := { s.hciTaken.host with hciCnt := s.host.hciCnt + 1 } } : State).hciOut 4 [0x0E, 4, 4, 0x14, 0xFE, 0]))) ∧
    (∀ (s : State) (e : HciEntry) (k : HciObs) (p : List Byte) (o : Nat), s.pairRuns 0 = true → s.sys.recovery = false → s.ringUp 3 = true → s.host.rings[3].used ≠ 0 → s.accWaiting = [] → s.host.hciWaiting = [] → e.type = 1 → 3 ≤ e.len.toNat → e.len.toNat ≤ 268 → e.packet.take e.len.toNat = p → leNat (p.take 2) = o → (p.getD 2 0).toNat ≠ p.length - 3 → exec (.hciCommand e k) s = .next (s.hciTaken.hciComplete o [0x12])) ∧
    (∀ (s : State) (e : HciEntry) (p : List Byte), s.pairRuns 0 = true → s.sys.recovery = false → s.ringUp 3 = true → s.host.rings[3].used ≠ 0 → s.accWaiting = [] → s.host.hciWaiting = [] → e.type = 2 → 3 ≤ e.len.toNat → e.len.toNat ≤ 268 → e.packet.take e.len.toNat = p →
      exec (.hciAclData e) s = .next { s.hciTaken with acc := { s.hciTaken.acc with hciIn := (2, p) :: s.hciTaken.acc.hciIn } }) ∧
    (∀ (s : State) (o : Nat) (n : Nat) (p : List Byte), (s.hciComplete o p = s.hciOut 4 ([0x0E, byte (3 + p.length), 4] ++ leBytes 2 o ++ p)) ∧ s.hciStatus o (byte n) = s.hciOut 4 ([0x0F, 4, byte n, 4] ++ leBytes 2 o)) ∧
    (∀ (s : State) (o : Nat) (k : HciObs), s.pwr.st = .limp → s.hciStandard o .advStart k = s.hciComplete o [0x0C]) ∧
    (∀ (s : State) (o : Nat) (k : HciObs), s.pwr.st ≠ .limp → s.below 1 = false → (pageValid s.acc.regPage = false → s.hciStandard o .advStart k = s.hciComplete o [0x11]) ∧
      (pageValid s.acc.regPage = true → s.chAllowed (Fin.ofNat 81 (rfChannel 37)) = true → s.hciStandard o .advStart k = ({ s with acc := { s.acc with hostAdv := true } }).hciComplete o [0])) ∧
    (∀ (s : State) (o : Nat) (k : HciObs), s.hciStandard o .advStop k = ({ s with acc := { s.acc with hostAdv := false } }).hciComplete o [0] ∧ s.hciStandard o .scanStart k = ({ s with acc := { s.acc with hostScan := true } }).hciComplete o [0] ∧
      s.hciStandard o .scanStop k = ({ s with acc := { s.acc with hostScan := false } }).hciComplete o [0] ∧ s.hciStandard o .acceptClear k = ({ s with acc := { s.acc with acceptList := [] } }).hciComplete o [0]) ∧
    (∀ (s : State) (o : Nat) (k : HciObs) (x : Byte × List Byte), (x ∉ s.acc.acceptList → (s.acc.acceptList.length < 16 → s.hciStandard o (.acceptAdd x) k = ({ s with acc := { s.acc with acceptList := x :: s.acc.acceptList } }).hciComplete o [0]) ∧
      (16 ≤ s.acc.acceptList.length → s.hciStandard o (.acceptAdd x) k = s.hciComplete o [7])) ∧
      (x ∉ s.acc.resolvList → (s.acc.resolvList.length < 16 → s.hciStandard o (.resolvAdd x) k = ({ s with acc := { s.acc with resolvList := x :: s.acc.resolvList } }).hciComplete o [0]) ∧
      (16 ≤ s.acc.resolvList.length → s.hciStandard o (.resolvAdd x) k = s.hciComplete o [7]))) ∧
    (∀ (s : State) (o : Nat) (k : HciObs) (b : Byte) (m : Int), b ∉ s.acc.advSets → (s.acc.advSets.length < 4 → s.hciStandard o (.advSet b m) k = ({ s with acc := { s.acc with advSets := b :: s.acc.advSets } }).hciComplete o ([0] ++ leInt 1 (s.reachable m k.path))) ∧ (4 ≤ s.acc.advSets.length → s.hciStandard o (.advSet b m) k = s.hciComplete o ([7] ++ leInt 1 (s.reachable m k.path)))) ∧
    (∀ (s : State) (m : Int) (y : Fin 4), -127 ≤ m → s.reachable m y ≤ m ∧ (s.reachable m y ≠ -127 → s.driver (2 * s.reachable m y) y ≤ 12)) ∧
    (∀ (s : State) (o : Nat) (k : HciObs), s.startRefused dataChans = none → s.cred.flow = none →
      (s.acc.conns.length < 8 → s.hciStandard o .connect k = ({ s with acc := { s.acc with conns := { handle := k.handle, slot := k.slot, rssi := [], aa := k.aa } :: s.acc.conns } }).hciStatus o 0) ∧
      (8 ≤ s.acc.conns.length → s.hciStandard o .connect k = s.hciStatus o 9)) ∧
    (∀ (s : State) (o : Nat) (k : HciObs) (h : BitVec 16), s.cred.flow = none → (∃ g ∈ s.acc.conns, g.handle = h) → s.hciStandard o (.disconnect h) k = ({ s with acc := { s.acc with conns := s.acc.conns.filter fun y => decide (y.handle ≠ h) } }).hciStatus o 0) ∧
    (∀ (s : State) (o : Nat) (k : HciObs) (h : BitVec 16), (∀ g ∈ s.acc.conns, g.handle ≠ h) → s.hciStandard o (.disconnect h) k = s.hciStatus o 2 ∧ s.hciStandard o (.readRssi h) k = s.hciComplete o ([2] ++ leBytes 2 h.toNat ++ [0])) ∧
    (∀ (s : State) (o : Nat) (k : HciObs) (h : BitVec 16) (z : Conn), (s.acc.conns.find? fun g => decide (g.handle = h)) = some z → s.hciStandard o (.readRssi h) k = s.hciComplete o ([0] ++ leBytes 2 h.toNat ++ leInt 1 (meanRssi z.rssi))) ∧
    (meanRssi [] = 127 ∧ ∀ (a : Int) (n : Nat), -127 ≤ a → a ≤ 20 → meanRssi (List.replicate (n + 1) (2 * a)) = a) ∧
    (∀ (s : State) (o : Nat) (k : HciObs) (v : List Nat), s.hciStandard o (.chanClass v) k = s.hciComplete o [if pageValid s.acc.regPage = true ∧ ∃ i ∈ v, s.chAllowed (Fin.ofNat 81 (rfChannel i)) = true then 0 else 0x11] ∧ s.hciStandard o (.bufferSize false) k = s.hciComplete o [0, 251, 0, 8]) ∧
    (∀ (s : State) (o : Nat) (k : HciObs) (f : Flow), s.cred.flow = some f → f.step = .ranging → s.hciStandard o .csStart k = s.hciStatus o 0x0C ∧ s.hciStandard o .csStop k = s.hciStatus o 0x0C) ∧
    (∀ (s : State) (o : Nat) (k : HciObs), s.cred.flow = none → s.startRefused (dataChans ++ [37, 38, 39]) = none → s.hciStandard o .csStart k = ({ s with acc := { s.acc with hostCs := true } }).hciStatus o 0) ∧
    (∀ (s : State), s.pairRuns 0 = true → s.sys.recovery = false → s.ringUp 3 = true → s.host.rings[3].used ≠ 0 → s.accWaiting = [] → s.host.hciWaiting = [] → s.acc.hostCs = false → ∃ (u : State), exec .hciReset s = .next (u.hciOut 4 [0x0E, 4, 4, 3, 0x0C, 0]) ∧ u = { s.hciTaken with acc := u.acc } ∧
      u.acc = { s.acc with hostAdv := false, hostScan := false, advSets := [], acceptList := [], resolvList := [], conns := [], hciIn := [], rxOpen := u.acc.rxOpen, rxClosed := u.acc.rxClosed, cur := u.acc.cur, heldSync := u.acc.heldSync } ∧
      (s.acc.listening = true → u.acc.rxOpen = s.acc.rxOpen) ∧ (s.acc.listening = false → s.cred.flow = none → u.acc.rxOpen = false ∧ u.acc.cur = none)) ∧
    (∀ (s : State) (i : Byte) (j : Byte), (s.evt.rate.find? fun x : RateRec => x.is i.toNat j.toNat) = none → exec (.eventRateLimitExpiry i j) s = .next s) ∧
    (∀ (s : State) (i : Byte) (j : Byte) (g : RateRec), (s.evt.rate.find? fun x : RateRec => x.is i.toNat j.toNat) = some g → (g.held = false → exec (.eventRateLimitExpiry i j) s = .next { s with evt := { s.evt with rate := s.evt.rate.filter fun x : RateRec => !x.is i.toNat j.toNat } }) ∧
      (g.held = true → exec (.eventRateLimitExpiry i j) s = .next (({ s with evt := { s.evt with rate := s.evt.rate.map fun x : RateRec => if x.is i.toNat j.toNat = true then { x with held := false, sum := 0 } else x } }).raise i.toNat g.code.toNat (s.rateData i.toNat j.toNat g.aux g.sum ++ g.tail))))
end

