-- ==== Sys2Proof/Laws/State.lean ====
section
/-!
SUPPORT. The State under its updates: for each update of a numbered part and each field, what the field is afterwards, by computation.
-/

namespace Sys2Proof.Laws

open Sys2Proof Sys2Proof.Machine

/-! ### modHr -/

@[simp] theorem modHr_sys (s : State) (i : Fin 4) (f : Headrace → Headrace) : (s.modHr i f).sys = s.sys := rfl
@[simp] theorem modHr_host (s : State) (i : Fin 4) (f : Headrace → Headrace) : (s.modHr i f).host = s.host := rfl
@[simp] theorem modHr_evt (s : State) (i : Fin 4) (f : Headrace → Headrace) : (s.modHr i f).evt = s.evt := rfl
@[simp] theorem modHr_cap (s : State) (i : Fin 4) (f : Headrace → Headrace) : (s.modHr i f).cap = { s.cap with hr := upd s.cap.hr i f } := rfl
@[simp] theorem modHr_win (s : State) (i : Fin 4) (f : Headrace → Headrace) : (s.modHr i f).win = s.win := rfl
@[simp] theorem modHr_svc (s : State) (i : Fin 4) (f : Headrace → Headrace) : (s.modHr i f).svc = s.svc := rfl
@[simp] theorem modHr_fan (s : State) (i : Fin 4) (f : Headrace → Headrace) : (s.modHr i f).fan = s.fan := rfl
@[simp] theorem modHr_bul (s : State) (i : Fin 4) (f : Headrace → Headrace) : (s.modHr i f).bul = s.bul := rfl
@[simp] theorem modHr_aud (s : State) (i : Fin 4) (f : Headrace → Headrace) : (s.modHr i f).aud = s.aud := rfl
@[simp] theorem modHr_acc (s : State) (i : Fin 4) (f : Headrace → Headrace) : (s.modHr i f).acc = s.acc := rfl
@[simp] theorem modHr_cred (s : State) (i : Fin 4) (f : Headrace → Headrace) : (s.modHr i f).cred = s.cred := rfl
@[simp] theorem modHr_dma (s : State) (i : Fin 4) (f : Headrace → Headrace) : (s.modHr i f).dma = s.dma := rfl
@[simp] theorem modHr_tw (s : State) (i : Fin 4) (f : Headrace → Headrace) : (s.modHr i f).tw = s.tw := rfl
@[simp] theorem modHr_clk (s : State) (i : Fin 4) (f : Headrace → Headrace) : (s.modHr i f).clk = s.clk := rfl
@[simp] theorem modHr_pwr (s : State) (i : Fin 4) (f : Headrace → Headrace) : (s.modHr i f).pwr = s.pwr := rfl
@[simp] theorem modHr_cal (s : State) (i : Fin 4) (f : Headrace → Headrace) : (s.modHr i f).cal = s.cal := rfl
@[simp] theorem modHr_saf (s : State) (i : Fin 4) (f : Headrace → Headrace) : (s.modHr i f).saf = s.saf := rfl
@[simp] theorem modHr_tru (s : State) (i : Fin 4) (f : Headrace → Headrace) : (s.modHr i f).tru = s.tru := rfl
@[simp] theorem modHr_flags (s : State) (i : Fin 4) (f : Headrace → Headrace) : (s.modHr i f).flags = s.flags := rfl
@[simp] theorem modHr_tlm (s : State) (i : Fin 4) (f : Headrace → Headrace) : (s.modHr i f).tlm = s.tlm := rfl
@[simp] theorem modHr_mem (s : State) (i : Fin 4) (f : Headrace → Headrace) : (s.modHr i f).mem = s.mem := rfl
@[simp] theorem modHr_freeCnt (s : State) (i : Fin 4) (f : Headrace → Headrace) : (s.modHr i f).freeCnt = s.freeCnt := rfl
@[simp] theorem modHr_pending (s : State) (i : Fin 4) (f : Headrace → Headrace) : (s.modHr i f).pending = s.pending := rfl

/-! ### modFeed -/

@[simp] theorem modFeed_sys (s : State) (i : Fin 4) (f : Feed → Feed) : (s.modFeed i f).sys = s.sys := rfl
@[simp] theorem modFeed_host (s : State) (i : Fin 4) (f : Feed → Feed) : (s.modFeed i f).host = s.host := rfl
@[simp] theorem modFeed_evt (s : State) (i : Fin 4) (f : Feed → Feed) : (s.modFeed i f).evt = s.evt := rfl
@[simp] theorem modFeed_cap (s : State) (i : Fin 4) (f : Feed → Feed) : (s.modFeed i f).cap = { s.cap with feed := upd s.cap.feed i f } := rfl
@[simp] theorem modFeed_win (s : State) (i : Fin 4) (f : Feed → Feed) : (s.modFeed i f).win = s.win := rfl
@[simp] theorem modFeed_svc (s : State) (i : Fin 4) (f : Feed → Feed) : (s.modFeed i f).svc = s.svc := rfl
@[simp] theorem modFeed_fan (s : State) (i : Fin 4) (f : Feed → Feed) : (s.modFeed i f).fan = s.fan := rfl
@[simp] theorem modFeed_bul (s : State) (i : Fin 4) (f : Feed → Feed) : (s.modFeed i f).bul = s.bul := rfl
@[simp] theorem modFeed_aud (s : State) (i : Fin 4) (f : Feed → Feed) : (s.modFeed i f).aud = s.aud := rfl
@[simp] theorem modFeed_acc (s : State) (i : Fin 4) (f : Feed → Feed) : (s.modFeed i f).acc = s.acc := rfl
@[simp] theorem modFeed_cred (s : State) (i : Fin 4) (f : Feed → Feed) : (s.modFeed i f).cred = s.cred := rfl
@[simp] theorem modFeed_dma (s : State) (i : Fin 4) (f : Feed → Feed) : (s.modFeed i f).dma = s.dma := rfl
@[simp] theorem modFeed_tw (s : State) (i : Fin 4) (f : Feed → Feed) : (s.modFeed i f).tw = s.tw := rfl
@[simp] theorem modFeed_clk (s : State) (i : Fin 4) (f : Feed → Feed) : (s.modFeed i f).clk = s.clk := rfl
@[simp] theorem modFeed_pwr (s : State) (i : Fin 4) (f : Feed → Feed) : (s.modFeed i f).pwr = s.pwr := rfl
@[simp] theorem modFeed_cal (s : State) (i : Fin 4) (f : Feed → Feed) : (s.modFeed i f).cal = s.cal := rfl
@[simp] theorem modFeed_saf (s : State) (i : Fin 4) (f : Feed → Feed) : (s.modFeed i f).saf = s.saf := rfl
@[simp] theorem modFeed_tru (s : State) (i : Fin 4) (f : Feed → Feed) : (s.modFeed i f).tru = s.tru := rfl
@[simp] theorem modFeed_flags (s : State) (i : Fin 4) (f : Feed → Feed) : (s.modFeed i f).flags = s.flags := rfl
@[simp] theorem modFeed_tlm (s : State) (i : Fin 4) (f : Feed → Feed) : (s.modFeed i f).tlm = s.tlm := rfl
@[simp] theorem modFeed_mem (s : State) (i : Fin 4) (f : Feed → Feed) : (s.modFeed i f).mem = s.mem := rfl
@[simp] theorem modFeed_freeCnt (s : State) (i : Fin 4) (f : Feed → Feed) : (s.modFeed i f).freeCnt = s.freeCnt := rfl
@[simp] theorem modFeed_pending (s : State) (i : Fin 4) (f : Feed → Feed) : (s.modFeed i f).pending = s.pending := rfl

/-! ### modWin -/

@[simp] theorem modWin_sys (s : State) (i : Fin 64) (f : Window → Window) : (s.modWin i f).sys = s.sys := rfl
@[simp] theorem modWin_host (s : State) (i : Fin 64) (f : Window → Window) : (s.modWin i f).host = s.host := rfl
@[simp] theorem modWin_evt (s : State) (i : Fin 64) (f : Window → Window) : (s.modWin i f).evt = s.evt := rfl
@[simp] theorem modWin_cap (s : State) (i : Fin 64) (f : Window → Window) : (s.modWin i f).cap = s.cap := rfl
@[simp] theorem modWin_win (s : State) (i : Fin 64) (f : Window → Window) : (s.modWin i f).win = { s.win with win := upd s.win.win i f } := rfl
@[simp] theorem modWin_svc (s : State) (i : Fin 64) (f : Window → Window) : (s.modWin i f).svc = s.svc := rfl
@[simp] theorem modWin_fan (s : State) (i : Fin 64) (f : Window → Window) : (s.modWin i f).fan = s.fan := rfl
@[simp] theorem modWin_bul (s : State) (i : Fin 64) (f : Window → Window) : (s.modWin i f).bul = s.bul := rfl
@[simp] theorem modWin_aud (s : State) (i : Fin 64) (f : Window → Window) : (s.modWin i f).aud = s.aud := rfl
@[simp] theorem modWin_acc (s : State) (i : Fin 64) (f : Window → Window) : (s.modWin i f).acc = s.acc := rfl
@[simp] theorem modWin_cred (s : State) (i : Fin 64) (f : Window → Window) : (s.modWin i f).cred = s.cred := rfl
@[simp] theorem modWin_dma (s : State) (i : Fin 64) (f : Window → Window) : (s.modWin i f).dma = s.dma := rfl
@[simp] theorem modWin_tw (s : State) (i : Fin 64) (f : Window → Window) : (s.modWin i f).tw = s.tw := rfl
@[simp] theorem modWin_clk (s : State) (i : Fin 64) (f : Window → Window) : (s.modWin i f).clk = s.clk := rfl
@[simp] theorem modWin_pwr (s : State) (i : Fin 64) (f : Window → Window) : (s.modWin i f).pwr = s.pwr := rfl
@[simp] theorem modWin_cal (s : State) (i : Fin 64) (f : Window → Window) : (s.modWin i f).cal = s.cal := rfl
@[simp] theorem modWin_saf (s : State) (i : Fin 64) (f : Window → Window) : (s.modWin i f).saf = s.saf := rfl
@[simp] theorem modWin_tru (s : State) (i : Fin 64) (f : Window → Window) : (s.modWin i f).tru = s.tru := rfl
@[simp] theorem modWin_flags (s : State) (i : Fin 64) (f : Window → Window) : (s.modWin i f).flags = s.flags := rfl
@[simp] theorem modWin_tlm (s : State) (i : Fin 64) (f : Window → Window) : (s.modWin i f).tlm = s.tlm := rfl
@[simp] theorem modWin_mem (s : State) (i : Fin 64) (f : Window → Window) : (s.modWin i f).mem = s.mem := rfl
@[simp] theorem modWin_freeCnt (s : State) (i : Fin 64) (f : Window → Window) : (s.modWin i f).freeCnt = s.freeCnt := rfl
@[simp] theorem modWin_pending (s : State) (i : Fin 64) (f : Window → Window) : (s.modWin i f).pending = s.pending := rfl

/-! ### modCtx -/

@[simp] theorem modCtx_sys (s : State) (i : Fin 256) (f : Ctx → Ctx) : (s.modCtx i f).sys = s.sys := rfl
@[simp] theorem modCtx_host (s : State) (i : Fin 256) (f : Ctx → Ctx) : (s.modCtx i f).host = s.host := rfl
@[simp] theorem modCtx_evt (s : State) (i : Fin 256) (f : Ctx → Ctx) : (s.modCtx i f).evt = s.evt := rfl
@[simp] theorem modCtx_cap (s : State) (i : Fin 256) (f : Ctx → Ctx) : (s.modCtx i f).cap = s.cap := rfl
@[simp] theorem modCtx_win (s : State) (i : Fin 256) (f : Ctx → Ctx) : (s.modCtx i f).win = s.win := rfl
@[simp] theorem modCtx_svc (s : State) (i : Fin 256) (f : Ctx → Ctx) : (s.modCtx i f).svc = { s.svc with ctx := upd s.svc.ctx i f } := rfl
@[simp] theorem modCtx_fan (s : State) (i : Fin 256) (f : Ctx → Ctx) : (s.modCtx i f).fan = s.fan := rfl
@[simp] theorem modCtx_bul (s : State) (i : Fin 256) (f : Ctx → Ctx) : (s.modCtx i f).bul = s.bul := rfl
@[simp] theorem modCtx_aud (s : State) (i : Fin 256) (f : Ctx → Ctx) : (s.modCtx i f).aud = s.aud := rfl
@[simp] theorem modCtx_acc (s : State) (i : Fin 256) (f : Ctx → Ctx) : (s.modCtx i f).acc = s.acc := rfl
@[simp] theorem modCtx_cred (s : State) (i : Fin 256) (f : Ctx → Ctx) : (s.modCtx i f).cred = s.cred := rfl
@[simp] theorem modCtx_dma (s : State) (i : Fin 256) (f : Ctx → Ctx) : (s.modCtx i f).dma = s.dma := rfl
@[simp] theorem modCtx_tw (s : State) (i : Fin 256) (f : Ctx → Ctx) : (s.modCtx i f).tw = s.tw := rfl
@[simp] theorem modCtx_clk (s : State) (i : Fin 256) (f : Ctx → Ctx) : (s.modCtx i f).clk = s.clk := rfl
@[simp] theorem modCtx_pwr (s : State) (i : Fin 256) (f : Ctx → Ctx) : (s.modCtx i f).pwr = s.pwr := rfl
@[simp] theorem modCtx_cal (s : State) (i : Fin 256) (f : Ctx → Ctx) : (s.modCtx i f).cal = s.cal := rfl
@[simp] theorem modCtx_saf (s : State) (i : Fin 256) (f : Ctx → Ctx) : (s.modCtx i f).saf = s.saf := rfl
@[simp] theorem modCtx_tru (s : State) (i : Fin 256) (f : Ctx → Ctx) : (s.modCtx i f).tru = s.tru := rfl
@[simp] theorem modCtx_flags (s : State) (i : Fin 256) (f : Ctx → Ctx) : (s.modCtx i f).flags = s.flags := rfl
@[simp] theorem modCtx_tlm (s : State) (i : Fin 256) (f : Ctx → Ctx) : (s.modCtx i f).tlm = s.tlm := rfl
@[simp] theorem modCtx_mem (s : State) (i : Fin 256) (f : Ctx → Ctx) : (s.modCtx i f).mem = s.mem := rfl
@[simp] theorem modCtx_freeCnt (s : State) (i : Fin 256) (f : Ctx → Ctx) : (s.modCtx i f).freeCnt = s.freeCnt := rfl
@[simp] theorem modCtx_pending (s : State) (i : Fin 256) (f : Ctx → Ctx) : (s.modCtx i f).pending = s.pending := rfl

/-! ### modRun -/

@[simp] theorem modRun_sys (s : State) (i : Fin 32) (f : Runner → Runner) : (s.modRun i f).sys = s.sys := rfl
@[simp] theorem modRun_host (s : State) (i : Fin 32) (f : Runner → Runner) : (s.modRun i f).host = s.host := rfl
@[simp] theorem modRun_evt (s : State) (i : Fin 32) (f : Runner → Runner) : (s.modRun i f).evt = s.evt := rfl
@[simp] theorem modRun_cap (s : State) (i : Fin 32) (f : Runner → Runner) : (s.modRun i f).cap = s.cap := rfl
@[simp] theorem modRun_win (s : State) (i : Fin 32) (f : Runner → Runner) : (s.modRun i f).win = s.win := rfl
@[simp] theorem modRun_svc (s : State) (i : Fin 32) (f : Runner → Runner) : (s.modRun i f).svc = { s.svc with run := upd s.svc.run i f } := rfl
@[simp] theorem modRun_fan (s : State) (i : Fin 32) (f : Runner → Runner) : (s.modRun i f).fan = s.fan := rfl
@[simp] theorem modRun_bul (s : State) (i : Fin 32) (f : Runner → Runner) : (s.modRun i f).bul = s.bul := rfl
@[simp] theorem modRun_aud (s : State) (i : Fin 32) (f : Runner → Runner) : (s.modRun i f).aud = s.aud := rfl
@[simp] theorem modRun_acc (s : State) (i : Fin 32) (f : Runner → Runner) : (s.modRun i f).acc = s.acc := rfl
@[simp] theorem modRun_cred (s : State) (i : Fin 32) (f : Runner → Runner) : (s.modRun i f).cred = s.cred := rfl
@[simp] theorem modRun_dma (s : State) (i : Fin 32) (f : Runner → Runner) : (s.modRun i f).dma = s.dma := rfl
@[simp] theorem modRun_tw (s : State) (i : Fin 32) (f : Runner → Runner) : (s.modRun i f).tw = s.tw := rfl
@[simp] theorem modRun_clk (s : State) (i : Fin 32) (f : Runner → Runner) : (s.modRun i f).clk = s.clk := rfl
@[simp] theorem modRun_pwr (s : State) (i : Fin 32) (f : Runner → Runner) : (s.modRun i f).pwr = s.pwr := rfl
@[simp] theorem modRun_cal (s : State) (i : Fin 32) (f : Runner → Runner) : (s.modRun i f).cal = s.cal := rfl
@[simp] theorem modRun_saf (s : State) (i : Fin 32) (f : Runner → Runner) : (s.modRun i f).saf = s.saf := rfl
@[simp] theorem modRun_tru (s : State) (i : Fin 32) (f : Runner → Runner) : (s.modRun i f).tru = s.tru := rfl
@[simp] theorem modRun_flags (s : State) (i : Fin 32) (f : Runner → Runner) : (s.modRun i f).flags = s.flags := rfl
@[simp] theorem modRun_tlm (s : State) (i : Fin 32) (f : Runner → Runner) : (s.modRun i f).tlm = s.tlm := rfl
@[simp] theorem modRun_mem (s : State) (i : Fin 32) (f : Runner → Runner) : (s.modRun i f).mem = s.mem := rfl
@[simp] theorem modRun_freeCnt (s : State) (i : Fin 32) (f : Runner → Runner) : (s.modRun i f).freeCnt = s.freeCnt := rfl
@[simp] theorem modRun_pending (s : State) (i : Fin 32) (f : Runner → Runner) : (s.modRun i f).pending = s.pending := rfl

/-! ### modRing -/

@[simp] theorem modRing_sys (s : State) (i : Fin 32) (f : Ring → Ring) : (s.modRing i f).sys = s.sys := rfl
@[simp] theorem modRing_host (s : State) (i : Fin 32) (f : Ring → Ring) : (s.modRing i f).host = { s.host with rings := upd s.host.rings i f } := rfl
@[simp] theorem modRing_evt (s : State) (i : Fin 32) (f : Ring → Ring) : (s.modRing i f).evt = s.evt := rfl
@[simp] theorem modRing_cap (s : State) (i : Fin 32) (f : Ring → Ring) : (s.modRing i f).cap = s.cap := rfl
@[simp] theorem modRing_win (s : State) (i : Fin 32) (f : Ring → Ring) : (s.modRing i f).win = s.win := rfl
@[simp] theorem modRing_svc (s : State) (i : Fin 32) (f : Ring → Ring) : (s.modRing i f).svc = s.svc := rfl
@[simp] theorem modRing_fan (s : State) (i : Fin 32) (f : Ring → Ring) : (s.modRing i f).fan = s.fan := rfl
@[simp] theorem modRing_bul (s : State) (i : Fin 32) (f : Ring → Ring) : (s.modRing i f).bul = s.bul := rfl
@[simp] theorem modRing_aud (s : State) (i : Fin 32) (f : Ring → Ring) : (s.modRing i f).aud = s.aud := rfl
@[simp] theorem modRing_acc (s : State) (i : Fin 32) (f : Ring → Ring) : (s.modRing i f).acc = s.acc := rfl
@[simp] theorem modRing_cred (s : State) (i : Fin 32) (f : Ring → Ring) : (s.modRing i f).cred = s.cred := rfl
@[simp] theorem modRing_dma (s : State) (i : Fin 32) (f : Ring → Ring) : (s.modRing i f).dma = s.dma := rfl
@[simp] theorem modRing_tw (s : State) (i : Fin 32) (f : Ring → Ring) : (s.modRing i f).tw = s.tw := rfl
@[simp] theorem modRing_clk (s : State) (i : Fin 32) (f : Ring → Ring) : (s.modRing i f).clk = s.clk := rfl
@[simp] theorem modRing_pwr (s : State) (i : Fin 32) (f : Ring → Ring) : (s.modRing i f).pwr = s.pwr := rfl
@[simp] theorem modRing_cal (s : State) (i : Fin 32) (f : Ring → Ring) : (s.modRing i f).cal = s.cal := rfl
@[simp] theorem modRing_saf (s : State) (i : Fin 32) (f : Ring → Ring) : (s.modRing i f).saf = s.saf := rfl
@[simp] theorem modRing_tru (s : State) (i : Fin 32) (f : Ring → Ring) : (s.modRing i f).tru = s.tru := rfl
@[simp] theorem modRing_flags (s : State) (i : Fin 32) (f : Ring → Ring) : (s.modRing i f).flags = s.flags := rfl
@[simp] theorem modRing_tlm (s : State) (i : Fin 32) (f : Ring → Ring) : (s.modRing i f).tlm = s.tlm := rfl
@[simp] theorem modRing_mem (s : State) (i : Fin 32) (f : Ring → Ring) : (s.modRing i f).mem = s.mem := rfl
@[simp] theorem modRing_freeCnt (s : State) (i : Fin 32) (f : Ring → Ring) : (s.modRing i f).freeCnt = s.freeCnt := rfl
@[simp] theorem modRing_pending (s : State) (i : Fin 32) (f : Ring → Ring) : (s.modRing i f).pending = s.pending := rfl

/-! ### modFollow -/

@[simp] theorem modFollow_sys (s : State) (i : Fin 256) (f : Follow → Follow) : (s.modFollow i f).sys = s.sys := rfl
@[simp] theorem modFollow_host (s : State) (i : Fin 256) (f : Follow → Follow) : (s.modFollow i f).host = s.host := rfl
@[simp] theorem modFollow_evt (s : State) (i : Fin 256) (f : Follow → Follow) : (s.modFollow i f).evt = s.evt := rfl
@[simp] theorem modFollow_cap (s : State) (i : Fin 256) (f : Follow → Follow) : (s.modFollow i f).cap = s.cap := rfl
@[simp] theorem modFollow_win (s : State) (i : Fin 256) (f : Follow → Follow) : (s.modFollow i f).win = s.win := rfl
@[simp] theorem modFollow_svc (s : State) (i : Fin 256) (f : Follow → Follow) : (s.modFollow i f).svc = s.svc := rfl
@[simp] theorem modFollow_fan (s : State) (i : Fin 256) (f : Follow → Follow) : (s.modFollow i f).fan = { s.fan with follow := upd s.fan.follow i f } := rfl
@[simp] theorem modFollow_bul (s : State) (i : Fin 256) (f : Follow → Follow) : (s.modFollow i f).bul = s.bul := rfl
@[simp] theorem modFollow_aud (s : State) (i : Fin 256) (f : Follow → Follow) : (s.modFollow i f).aud = s.aud := rfl
@[simp] theorem modFollow_acc (s : State) (i : Fin 256) (f : Follow → Follow) : (s.modFollow i f).acc = s.acc := rfl
@[simp] theorem modFollow_cred (s : State) (i : Fin 256) (f : Follow → Follow) : (s.modFollow i f).cred = s.cred := rfl
@[simp] theorem modFollow_dma (s : State) (i : Fin 256) (f : Follow → Follow) : (s.modFollow i f).dma = s.dma := rfl
@[simp] theorem modFollow_tw (s : State) (i : Fin 256) (f : Follow → Follow) : (s.modFollow i f).tw = s.tw := rfl
@[simp] theorem modFollow_clk (s : State) (i : Fin 256) (f : Follow → Follow) : (s.modFollow i f).clk = s.clk := rfl
@[simp] theorem modFollow_pwr (s : State) (i : Fin 256) (f : Follow → Follow) : (s.modFollow i f).pwr = s.pwr := rfl
@[simp] theorem modFollow_cal (s : State) (i : Fin 256) (f : Follow → Follow) : (s.modFollow i f).cal = s.cal := rfl
@[simp] theorem modFollow_saf (s : State) (i : Fin 256) (f : Follow → Follow) : (s.modFollow i f).saf = s.saf := rfl
@[simp] theorem modFollow_tru (s : State) (i : Fin 256) (f : Follow → Follow) : (s.modFollow i f).tru = s.tru := rfl
@[simp] theorem modFollow_flags (s : State) (i : Fin 256) (f : Follow → Follow) : (s.modFollow i f).flags = s.flags := rfl
@[simp] theorem modFollow_tlm (s : State) (i : Fin 256) (f : Follow → Follow) : (s.modFollow i f).tlm = s.tlm := rfl
@[simp] theorem modFollow_mem (s : State) (i : Fin 256) (f : Follow → Follow) : (s.modFollow i f).mem = s.mem := rfl
@[simp] theorem modFollow_freeCnt (s : State) (i : Fin 256) (f : Follow → Follow) : (s.modFollow i f).freeCnt = s.freeCnt := rfl
@[simp] theorem modFollow_pending (s : State) (i : Fin 256) (f : Follow → Follow) : (s.modFollow i f).pending = s.pending := rfl

/-! ### modEst -/

@[simp] theorem modEst_sys (s : State) (i : Fin 4) (f : Estimator → Estimator) : (s.modEst i f).sys = s.sys := rfl
@[simp] theorem modEst_host (s : State) (i : Fin 4) (f : Estimator → Estimator) : (s.modEst i f).host = s.host := rfl
@[simp] theorem modEst_evt (s : State) (i : Fin 4) (f : Estimator → Estimator) : (s.modEst i f).evt = s.evt := rfl
@[simp] theorem modEst_cap (s : State) (i : Fin 4) (f : Estimator → Estimator) : (s.modEst i f).cap = s.cap := rfl
@[simp] theorem modEst_win (s : State) (i : Fin 4) (f : Estimator → Estimator) : (s.modEst i f).win = s.win := rfl
@[simp] theorem modEst_svc (s : State) (i : Fin 4) (f : Estimator → Estimator) : (s.modEst i f).svc = s.svc := rfl
@[simp] theorem modEst_fan (s : State) (i : Fin 4) (f : Estimator → Estimator) : (s.modEst i f).fan = { s.fan with est := upd s.fan.est i f } := rfl
@[simp] theorem modEst_bul (s : State) (i : Fin 4) (f : Estimator → Estimator) : (s.modEst i f).bul = s.bul := rfl
@[simp] theorem modEst_aud (s : State) (i : Fin 4) (f : Estimator → Estimator) : (s.modEst i f).aud = s.aud := rfl
@[simp] theorem modEst_acc (s : State) (i : Fin 4) (f : Estimator → Estimator) : (s.modEst i f).acc = s.acc := rfl
@[simp] theorem modEst_cred (s : State) (i : Fin 4) (f : Estimator → Estimator) : (s.modEst i f).cred = s.cred := rfl
@[simp] theorem modEst_dma (s : State) (i : Fin 4) (f : Estimator → Estimator) : (s.modEst i f).dma = s.dma := rfl
@[simp] theorem modEst_tw (s : State) (i : Fin 4) (f : Estimator → Estimator) : (s.modEst i f).tw = s.tw := rfl
@[simp] theorem modEst_clk (s : State) (i : Fin 4) (f : Estimator → Estimator) : (s.modEst i f).clk = s.clk := rfl
@[simp] theorem modEst_pwr (s : State) (i : Fin 4) (f : Estimator → Estimator) : (s.modEst i f).pwr = s.pwr := rfl
@[simp] theorem modEst_cal (s : State) (i : Fin 4) (f : Estimator → Estimator) : (s.modEst i f).cal = s.cal := rfl
@[simp] theorem modEst_saf (s : State) (i : Fin 4) (f : Estimator → Estimator) : (s.modEst i f).saf = s.saf := rfl
@[simp] theorem modEst_tru (s : State) (i : Fin 4) (f : Estimator → Estimator) : (s.modEst i f).tru = s.tru := rfl
@[simp] theorem modEst_flags (s : State) (i : Fin 4) (f : Estimator → Estimator) : (s.modEst i f).flags = s.flags := rfl
@[simp] theorem modEst_tlm (s : State) (i : Fin 4) (f : Estimator → Estimator) : (s.modEst i f).tlm = s.tlm := rfl
@[simp] theorem modEst_mem (s : State) (i : Fin 4) (f : Estimator → Estimator) : (s.modEst i f).mem = s.mem := rfl
@[simp] theorem modEst_freeCnt (s : State) (i : Fin 4) (f : Estimator → Estimator) : (s.modEst i f).freeCnt = s.freeCnt := rfl
@[simp] theorem modEst_pending (s : State) (i : Fin 4) (f : Estimator → Estimator) : (s.modEst i f).pending = s.pending := rfl

/-! ### modPort -/

@[simp] theorem modPort_sys (s : State) (i : Fin 4) (f : Port → Port) : (s.modPort i f).sys = s.sys := rfl
@[simp] theorem modPort_host (s : State) (i : Fin 4) (f : Port → Port) : (s.modPort i f).host = s.host := rfl
@[simp] theorem modPort_evt (s : State) (i : Fin 4) (f : Port → Port) : (s.modPort i f).evt = s.evt := rfl
@[simp] theorem modPort_cap (s : State) (i : Fin 4) (f : Port → Port) : (s.modPort i f).cap = s.cap := rfl
@[simp] theorem modPort_win (s : State) (i : Fin 4) (f : Port → Port) : (s.modPort i f).win = s.win := rfl
@[simp] theorem modPort_svc (s : State) (i : Fin 4) (f : Port → Port) : (s.modPort i f).svc = s.svc := rfl
@[simp] theorem modPort_fan (s : State) (i : Fin 4) (f : Port → Port) : (s.modPort i f).fan = s.fan := rfl
@[simp] theorem modPort_bul (s : State) (i : Fin 4) (f : Port → Port) : (s.modPort i f).bul = s.bul := rfl
@[simp] theorem modPort_aud (s : State) (i : Fin 4) (f : Port → Port) : (s.modPort i f).aud = { s.aud with ports := upd s.aud.ports i f } := rfl
@[simp] theorem modPort_acc (s : State) (i : Fin 4) (f : Port → Port) : (s.modPort i f).acc = s.acc := rfl
@[simp] theorem modPort_cred (s : State) (i : Fin 4) (f : Port → Port) : (s.modPort i f).cred = s.cred := rfl
@[simp] theorem modPort_dma (s : State) (i : Fin 4) (f : Port → Port) : (s.modPort i f).dma = s.dma := rfl
@[simp] theorem modPort_tw (s : State) (i : Fin 4) (f : Port → Port) : (s.modPort i f).tw = s.tw := rfl
@[simp] theorem modPort_clk (s : State) (i : Fin 4) (f : Port → Port) : (s.modPort i f).clk = s.clk := rfl
@[simp] theorem modPort_pwr (s : State) (i : Fin 4) (f : Port → Port) : (s.modPort i f).pwr = s.pwr := rfl
@[simp] theorem modPort_cal (s : State) (i : Fin 4) (f : Port → Port) : (s.modPort i f).cal = s.cal := rfl
@[simp] theorem modPort_saf (s : State) (i : Fin 4) (f : Port → Port) : (s.modPort i f).saf = s.saf := rfl
@[simp] theorem modPort_tru (s : State) (i : Fin 4) (f : Port → Port) : (s.modPort i f).tru = s.tru := rfl
@[simp] theorem modPort_flags (s : State) (i : Fin 4) (f : Port → Port) : (s.modPort i f).flags = s.flags := rfl
@[simp] theorem modPort_tlm (s : State) (i : Fin 4) (f : Port → Port) : (s.modPort i f).tlm = s.tlm := rfl
@[simp] theorem modPort_mem (s : State) (i : Fin 4) (f : Port → Port) : (s.modPort i f).mem = s.mem := rfl
@[simp] theorem modPort_freeCnt (s : State) (i : Fin 4) (f : Port → Port) : (s.modPort i f).freeCnt = s.freeCnt := rfl
@[simp] theorem modPort_pending (s : State) (i : Fin 4) (f : Port → Port) : (s.modPort i f).pending = s.pending := rfl

/-! ### modGroup -/

@[simp] theorem modGroup_sys (s : State) (i : Fin 5) (f : Group → Group) : (s.modGroup i f).sys = s.sys := rfl
@[simp] theorem modGroup_host (s : State) (i : Fin 5) (f : Group → Group) : (s.modGroup i f).host = s.host := rfl
@[simp] theorem modGroup_evt (s : State) (i : Fin 5) (f : Group → Group) : (s.modGroup i f).evt = s.evt := rfl
@[simp] theorem modGroup_cap (s : State) (i : Fin 5) (f : Group → Group) : (s.modGroup i f).cap = s.cap := rfl
@[simp] theorem modGroup_win (s : State) (i : Fin 5) (f : Group → Group) : (s.modGroup i f).win = s.win := rfl
@[simp] theorem modGroup_svc (s : State) (i : Fin 5) (f : Group → Group) : (s.modGroup i f).svc = s.svc := rfl
@[simp] theorem modGroup_fan (s : State) (i : Fin 5) (f : Group → Group) : (s.modGroup i f).fan = s.fan := rfl
@[simp] theorem modGroup_bul (s : State) (i : Fin 5) (f : Group → Group) : (s.modGroup i f).bul = s.bul := rfl
@[simp] theorem modGroup_aud (s : State) (i : Fin 5) (f : Group → Group) : (s.modGroup i f).aud = { s.aud with groups := upd s.aud.groups i f } := rfl
@[simp] theorem modGroup_acc (s : State) (i : Fin 5) (f : Group → Group) : (s.modGroup i f).acc = s.acc := rfl
@[simp] theorem modGroup_cred (s : State) (i : Fin 5) (f : Group → Group) : (s.modGroup i f).cred = s.cred := rfl
@[simp] theorem modGroup_dma (s : State) (i : Fin 5) (f : Group → Group) : (s.modGroup i f).dma = s.dma := rfl
@[simp] theorem modGroup_tw (s : State) (i : Fin 5) (f : Group → Group) : (s.modGroup i f).tw = s.tw := rfl
@[simp] theorem modGroup_clk (s : State) (i : Fin 5) (f : Group → Group) : (s.modGroup i f).clk = s.clk := rfl
@[simp] theorem modGroup_pwr (s : State) (i : Fin 5) (f : Group → Group) : (s.modGroup i f).pwr = s.pwr := rfl
@[simp] theorem modGroup_cal (s : State) (i : Fin 5) (f : Group → Group) : (s.modGroup i f).cal = s.cal := rfl
@[simp] theorem modGroup_saf (s : State) (i : Fin 5) (f : Group → Group) : (s.modGroup i f).saf = s.saf := rfl
@[simp] theorem modGroup_tru (s : State) (i : Fin 5) (f : Group → Group) : (s.modGroup i f).tru = s.tru := rfl
@[simp] theorem modGroup_flags (s : State) (i : Fin 5) (f : Group → Group) : (s.modGroup i f).flags = s.flags := rfl
@[simp] theorem modGroup_tlm (s : State) (i : Fin 5) (f : Group → Group) : (s.modGroup i f).tlm = s.tlm := rfl
@[simp] theorem modGroup_mem (s : State) (i : Fin 5) (f : Group → Group) : (s.modGroup i f).mem = s.mem := rfl
@[simp] theorem modGroup_freeCnt (s : State) (i : Fin 5) (f : Group → Group) : (s.modGroup i f).freeCnt = s.freeCnt := rfl
@[simp] theorem modGroup_pending (s : State) (i : Fin 5) (f : Group → Group) : (s.modGroup i f).pending = s.pending := rfl

/-! ### modQueue -/

@[simp] theorem modQueue_sys (s : State) (i : Fin 12) (f : Queue → Queue) : (s.modQueue i f).sys = s.sys := rfl
@[simp] theorem modQueue_host (s : State) (i : Fin 12) (f : Queue → Queue) : (s.modQueue i f).host = s.host := rfl
@[simp] theorem modQueue_evt (s : State) (i : Fin 12) (f : Queue → Queue) : (s.modQueue i f).evt = s.evt := rfl
@[simp] theorem modQueue_cap (s : State) (i : Fin 12) (f : Queue → Queue) : (s.modQueue i f).cap = s.cap := rfl
@[simp] theorem modQueue_win (s : State) (i : Fin 12) (f : Queue → Queue) : (s.modQueue i f).win = s.win := rfl
@[simp] theorem modQueue_svc (s : State) (i : Fin 12) (f : Queue → Queue) : (s.modQueue i f).svc = s.svc := rfl
@[simp] theorem modQueue_fan (s : State) (i : Fin 12) (f : Queue → Queue) : (s.modQueue i f).fan = s.fan := rfl
@[simp] theorem modQueue_bul (s : State) (i : Fin 12) (f : Queue → Queue) : (s.modQueue i f).bul = s.bul := rfl
@[simp] theorem modQueue_aud (s : State) (i : Fin 12) (f : Queue → Queue) : (s.modQueue i f).aud = { s.aud with queues := upd s.aud.queues i f } := rfl
@[simp] theorem modQueue_acc (s : State) (i : Fin 12) (f : Queue → Queue) : (s.modQueue i f).acc = s.acc := rfl
@[simp] theorem modQueue_cred (s : State) (i : Fin 12) (f : Queue → Queue) : (s.modQueue i f).cred = s.cred := rfl
@[simp] theorem modQueue_dma (s : State) (i : Fin 12) (f : Queue → Queue) : (s.modQueue i f).dma = s.dma := rfl
@[simp] theorem modQueue_tw (s : State) (i : Fin 12) (f : Queue → Queue) : (s.modQueue i f).tw = s.tw := rfl
@[simp] theorem modQueue_clk (s : State) (i : Fin 12) (f : Queue → Queue) : (s.modQueue i f).clk = s.clk := rfl
@[simp] theorem modQueue_pwr (s : State) (i : Fin 12) (f : Queue → Queue) : (s.modQueue i f).pwr = s.pwr := rfl
@[simp] theorem modQueue_cal (s : State) (i : Fin 12) (f : Queue → Queue) : (s.modQueue i f).cal = s.cal := rfl
@[simp] theorem modQueue_saf (s : State) (i : Fin 12) (f : Queue → Queue) : (s.modQueue i f).saf = s.saf := rfl
@[simp] theorem modQueue_tru (s : State) (i : Fin 12) (f : Queue → Queue) : (s.modQueue i f).tru = s.tru := rfl
@[simp] theorem modQueue_flags (s : State) (i : Fin 12) (f : Queue → Queue) : (s.modQueue i f).flags = s.flags := rfl
@[simp] theorem modQueue_tlm (s : State) (i : Fin 12) (f : Queue → Queue) : (s.modQueue i f).tlm = s.tlm := rfl
@[simp] theorem modQueue_mem (s : State) (i : Fin 12) (f : Queue → Queue) : (s.modQueue i f).mem = s.mem := rfl
@[simp] theorem modQueue_freeCnt (s : State) (i : Fin 12) (f : Queue → Queue) : (s.modQueue i f).freeCnt = s.freeCnt := rfl
@[simp] theorem modQueue_pending (s : State) (i : Fin 12) (f : Queue → Queue) : (s.modQueue i f).pending = s.pending := rfl

/-! ### modStream -/

@[simp] theorem modStream_sys (s : State) (i : Fin 32) (f : Stream → Stream) : (s.modStream i f).sys = s.sys := rfl
@[simp] theorem modStream_host (s : State) (i : Fin 32) (f : Stream → Stream) : (s.modStream i f).host = s.host := rfl
@[simp] theorem modStream_evt (s : State) (i : Fin 32) (f : Stream → Stream) : (s.modStream i f).evt = s.evt := rfl
@[simp] theorem modStream_cap (s : State) (i : Fin 32) (f : Stream → Stream) : (s.modStream i f).cap = s.cap := rfl
@[simp] theorem modStream_win (s : State) (i : Fin 32) (f : Stream → Stream) : (s.modStream i f).win = s.win := rfl
@[simp] theorem modStream_svc (s : State) (i : Fin 32) (f : Stream → Stream) : (s.modStream i f).svc = s.svc := rfl
@[simp] theorem modStream_fan (s : State) (i : Fin 32) (f : Stream → Stream) : (s.modStream i f).fan = s.fan := rfl
@[simp] theorem modStream_bul (s : State) (i : Fin 32) (f : Stream → Stream) : (s.modStream i f).bul = s.bul := rfl
@[simp] theorem modStream_aud (s : State) (i : Fin 32) (f : Stream → Stream) : (s.modStream i f).aud = { s.aud with streams := upd s.aud.streams i f } := rfl
@[simp] theorem modStream_acc (s : State) (i : Fin 32) (f : Stream → Stream) : (s.modStream i f).acc = s.acc := rfl
@[simp] theorem modStream_cred (s : State) (i : Fin 32) (f : Stream → Stream) : (s.modStream i f).cred = s.cred := rfl
@[simp] theorem modStream_dma (s : State) (i : Fin 32) (f : Stream → Stream) : (s.modStream i f).dma = s.dma := rfl
@[simp] theorem modStream_tw (s : State) (i : Fin 32) (f : Stream → Stream) : (s.modStream i f).tw = s.tw := rfl
@[simp] theorem modStream_clk (s : State) (i : Fin 32) (f : Stream → Stream) : (s.modStream i f).clk = s.clk := rfl
@[simp] theorem modStream_pwr (s : State) (i : Fin 32) (f : Stream → Stream) : (s.modStream i f).pwr = s.pwr := rfl
@[simp] theorem modStream_cal (s : State) (i : Fin 32) (f : Stream → Stream) : (s.modStream i f).cal = s.cal := rfl
@[simp] theorem modStream_saf (s : State) (i : Fin 32) (f : Stream → Stream) : (s.modStream i f).saf = s.saf := rfl
@[simp] theorem modStream_tru (s : State) (i : Fin 32) (f : Stream → Stream) : (s.modStream i f).tru = s.tru := rfl
@[simp] theorem modStream_flags (s : State) (i : Fin 32) (f : Stream → Stream) : (s.modStream i f).flags = s.flags := rfl
@[simp] theorem modStream_tlm (s : State) (i : Fin 32) (f : Stream → Stream) : (s.modStream i f).tlm = s.tlm := rfl
@[simp] theorem modStream_mem (s : State) (i : Fin 32) (f : Stream → Stream) : (s.modStream i f).mem = s.mem := rfl
@[simp] theorem modStream_freeCnt (s : State) (i : Fin 32) (f : Stream → Stream) : (s.modStream i f).freeCnt = s.freeCnt := rfl
@[simp] theorem modStream_pending (s : State) (i : Fin 32) (f : Stream → Stream) : (s.modStream i f).pending = s.pending := rfl

/-! ### modCh -/

@[simp] theorem modCh_sys (s : State) (i : Fin 16) (f : DmaCh → DmaCh) : (s.modCh i f).sys = s.sys := rfl
@[simp] theorem modCh_host (s : State) (i : Fin 16) (f : DmaCh → DmaCh) : (s.modCh i f).host = s.host := rfl
@[simp] theorem modCh_evt (s : State) (i : Fin 16) (f : DmaCh → DmaCh) : (s.modCh i f).evt = s.evt := rfl
@[simp] theorem modCh_cap (s : State) (i : Fin 16) (f : DmaCh → DmaCh) : (s.modCh i f).cap = s.cap := rfl
@[simp] theorem modCh_win (s : State) (i : Fin 16) (f : DmaCh → DmaCh) : (s.modCh i f).win = s.win := rfl
@[simp] theorem modCh_svc (s : State) (i : Fin 16) (f : DmaCh → DmaCh) : (s.modCh i f).svc = s.svc := rfl
@[simp] theorem modCh_fan (s : State) (i : Fin 16) (f : DmaCh → DmaCh) : (s.modCh i f).fan = s.fan := rfl
@[simp] theorem modCh_bul (s : State) (i : Fin 16) (f : DmaCh → DmaCh) : (s.modCh i f).bul = s.bul := rfl
@[simp] theorem modCh_aud (s : State) (i : Fin 16) (f : DmaCh → DmaCh) : (s.modCh i f).aud = s.aud := rfl
@[simp] theorem modCh_acc (s : State) (i : Fin 16) (f : DmaCh → DmaCh) : (s.modCh i f).acc = s.acc := rfl
@[simp] theorem modCh_cred (s : State) (i : Fin 16) (f : DmaCh → DmaCh) : (s.modCh i f).cred = s.cred := rfl
@[simp] theorem modCh_dma (s : State) (i : Fin 16) (f : DmaCh → DmaCh) : (s.modCh i f).dma = { s.dma with ch := upd s.dma.ch i f } := rfl
@[simp] theorem modCh_tw (s : State) (i : Fin 16) (f : DmaCh → DmaCh) : (s.modCh i f).tw = s.tw := rfl
@[simp] theorem modCh_clk (s : State) (i : Fin 16) (f : DmaCh → DmaCh) : (s.modCh i f).clk = s.clk := rfl
@[simp] theorem modCh_pwr (s : State) (i : Fin 16) (f : DmaCh → DmaCh) : (s.modCh i f).pwr = s.pwr := rfl
@[simp] theorem modCh_cal (s : State) (i : Fin 16) (f : DmaCh → DmaCh) : (s.modCh i f).cal = s.cal := rfl
@[simp] theorem modCh_saf (s : State) (i : Fin 16) (f : DmaCh → DmaCh) : (s.modCh i f).saf = s.saf := rfl
@[simp] theorem modCh_tru (s : State) (i : Fin 16) (f : DmaCh → DmaCh) : (s.modCh i f).tru = s.tru := rfl
@[simp] theorem modCh_flags (s : State) (i : Fin 16) (f : DmaCh → DmaCh) : (s.modCh i f).flags = s.flags := rfl
@[simp] theorem modCh_tlm (s : State) (i : Fin 16) (f : DmaCh → DmaCh) : (s.modCh i f).tlm = s.tlm := rfl
@[simp] theorem modCh_mem (s : State) (i : Fin 16) (f : DmaCh → DmaCh) : (s.modCh i f).mem = s.mem := rfl
@[simp] theorem modCh_freeCnt (s : State) (i : Fin 16) (f : DmaCh → DmaCh) : (s.modCh i f).freeCnt = s.freeCnt := rfl
@[simp] theorem modCh_pending (s : State) (i : Fin 16) (f : DmaCh → DmaCh) : (s.modCh i f).pending = s.pending := rfl

/-! ### modTw -/

@[simp] theorem modTw_sys (s : State) (i : Fin 2) (f : TwPort → TwPort) : (s.modTw i f).sys = s.sys := rfl
@[simp] theorem modTw_host (s : State) (i : Fin 2) (f : TwPort → TwPort) : (s.modTw i f).host = s.host := rfl
@[simp] theorem modTw_evt (s : State) (i : Fin 2) (f : TwPort → TwPort) : (s.modTw i f).evt = s.evt := rfl
@[simp] theorem modTw_cap (s : State) (i : Fin 2) (f : TwPort → TwPort) : (s.modTw i f).cap = s.cap := rfl
@[simp] theorem modTw_win (s : State) (i : Fin 2) (f : TwPort → TwPort) : (s.modTw i f).win = s.win := rfl
@[simp] theorem modTw_svc (s : State) (i : Fin 2) (f : TwPort → TwPort) : (s.modTw i f).svc = s.svc := rfl
@[simp] theorem modTw_fan (s : State) (i : Fin 2) (f : TwPort → TwPort) : (s.modTw i f).fan = s.fan := rfl
@[simp] theorem modTw_bul (s : State) (i : Fin 2) (f : TwPort → TwPort) : (s.modTw i f).bul = s.bul := rfl
@[simp] theorem modTw_aud (s : State) (i : Fin 2) (f : TwPort → TwPort) : (s.modTw i f).aud = s.aud := rfl
@[simp] theorem modTw_acc (s : State) (i : Fin 2) (f : TwPort → TwPort) : (s.modTw i f).acc = s.acc := rfl
@[simp] theorem modTw_cred (s : State) (i : Fin 2) (f : TwPort → TwPort) : (s.modTw i f).cred = s.cred := rfl
@[simp] theorem modTw_dma (s : State) (i : Fin 2) (f : TwPort → TwPort) : (s.modTw i f).dma = s.dma := rfl
@[simp] theorem modTw_tw (s : State) (i : Fin 2) (f : TwPort → TwPort) : (s.modTw i f).tw = { s.tw with port := upd s.tw.port i f } := rfl
@[simp] theorem modTw_clk (s : State) (i : Fin 2) (f : TwPort → TwPort) : (s.modTw i f).clk = s.clk := rfl
@[simp] theorem modTw_pwr (s : State) (i : Fin 2) (f : TwPort → TwPort) : (s.modTw i f).pwr = s.pwr := rfl
@[simp] theorem modTw_cal (s : State) (i : Fin 2) (f : TwPort → TwPort) : (s.modTw i f).cal = s.cal := rfl
@[simp] theorem modTw_saf (s : State) (i : Fin 2) (f : TwPort → TwPort) : (s.modTw i f).saf = s.saf := rfl
@[simp] theorem modTw_tru (s : State) (i : Fin 2) (f : TwPort → TwPort) : (s.modTw i f).tru = s.tru := rfl
@[simp] theorem modTw_flags (s : State) (i : Fin 2) (f : TwPort → TwPort) : (s.modTw i f).flags = s.flags := rfl
@[simp] theorem modTw_tlm (s : State) (i : Fin 2) (f : TwPort → TwPort) : (s.modTw i f).tlm = s.tlm := rfl
@[simp] theorem modTw_mem (s : State) (i : Fin 2) (f : TwPort → TwPort) : (s.modTw i f).mem = s.mem := rfl
@[simp] theorem modTw_freeCnt (s : State) (i : Fin 2) (f : TwPort → TwPort) : (s.modTw i f).freeCnt = s.freeCnt := rfl
@[simp] theorem modTw_pending (s : State) (i : Fin 2) (f : TwPort → TwPort) : (s.modTw i f).pending = s.pending := rfl

/-! ### modSynth -/

@[simp] theorem modSynth_sys (s : State) (i : Fin 81) (f : SynthEntry → SynthEntry) : (s.modSynth i f).sys = s.sys := rfl
@[simp] theorem modSynth_host (s : State) (i : Fin 81) (f : SynthEntry → SynthEntry) : (s.modSynth i f).host = s.host := rfl
@[simp] theorem modSynth_evt (s : State) (i : Fin 81) (f : SynthEntry → SynthEntry) : (s.modSynth i f).evt = s.evt := rfl
@[simp] theorem modSynth_cap (s : State) (i : Fin 81) (f : SynthEntry → SynthEntry) : (s.modSynth i f).cap = s.cap := rfl
@[simp] theorem modSynth_win (s : State) (i : Fin 81) (f : SynthEntry → SynthEntry) : (s.modSynth i f).win = s.win := rfl
@[simp] theorem modSynth_svc (s : State) (i : Fin 81) (f : SynthEntry → SynthEntry) : (s.modSynth i f).svc = s.svc := rfl
@[simp] theorem modSynth_fan (s : State) (i : Fin 81) (f : SynthEntry → SynthEntry) : (s.modSynth i f).fan = s.fan := rfl
@[simp] theorem modSynth_bul (s : State) (i : Fin 81) (f : SynthEntry → SynthEntry) : (s.modSynth i f).bul = s.bul := rfl
@[simp] theorem modSynth_aud (s : State) (i : Fin 81) (f : SynthEntry → SynthEntry) : (s.modSynth i f).aud = s.aud := rfl
@[simp] theorem modSynth_acc (s : State) (i : Fin 81) (f : SynthEntry → SynthEntry) : (s.modSynth i f).acc = { s.acc with synth := upd s.acc.synth i f } := rfl
@[simp] theorem modSynth_cred (s : State) (i : Fin 81) (f : SynthEntry → SynthEntry) : (s.modSynth i f).cred = s.cred := rfl
@[simp] theorem modSynth_dma (s : State) (i : Fin 81) (f : SynthEntry → SynthEntry) : (s.modSynth i f).dma = s.dma := rfl
@[simp] theorem modSynth_tw (s : State) (i : Fin 81) (f : SynthEntry → SynthEntry) : (s.modSynth i f).tw = s.tw := rfl
@[simp] theorem modSynth_clk (s : State) (i : Fin 81) (f : SynthEntry → SynthEntry) : (s.modSynth i f).clk = s.clk := rfl
@[simp] theorem modSynth_pwr (s : State) (i : Fin 81) (f : SynthEntry → SynthEntry) : (s.modSynth i f).pwr = s.pwr := rfl
@[simp] theorem modSynth_cal (s : State) (i : Fin 81) (f : SynthEntry → SynthEntry) : (s.modSynth i f).cal = s.cal := rfl
@[simp] theorem modSynth_saf (s : State) (i : Fin 81) (f : SynthEntry → SynthEntry) : (s.modSynth i f).saf = s.saf := rfl
@[simp] theorem modSynth_tru (s : State) (i : Fin 81) (f : SynthEntry → SynthEntry) : (s.modSynth i f).tru = s.tru := rfl
@[simp] theorem modSynth_flags (s : State) (i : Fin 81) (f : SynthEntry → SynthEntry) : (s.modSynth i f).flags = s.flags := rfl
@[simp] theorem modSynth_tlm (s : State) (i : Fin 81) (f : SynthEntry → SynthEntry) : (s.modSynth i f).tlm = s.tlm := rfl
@[simp] theorem modSynth_mem (s : State) (i : Fin 81) (f : SynthEntry → SynthEntry) : (s.modSynth i f).mem = s.mem := rfl
@[simp] theorem modSynth_freeCnt (s : State) (i : Fin 81) (f : SynthEntry → SynthEntry) : (s.modSynth i f).freeCnt = s.freeCnt := rfl
@[simp] theorem modSynth_pending (s : State) (i : Fin 81) (f : SynthEntry → SynthEntry) : (s.modSynth i f).pending = s.pending := rfl

/-! ### modBul -/

@[simp] theorem modBul_sys (s : State) (i : Fin 128) (f : BulRec → BulRec) : (s.modBul i f).sys = s.sys := rfl
@[simp] theorem modBul_host (s : State) (i : Fin 128) (f : BulRec → BulRec) : (s.modBul i f).host = s.host := rfl
@[simp] theorem modBul_evt (s : State) (i : Fin 128) (f : BulRec → BulRec) : (s.modBul i f).evt = s.evt := rfl
@[simp] theorem modBul_cap (s : State) (i : Fin 128) (f : BulRec → BulRec) : (s.modBul i f).cap = s.cap := rfl
@[simp] theorem modBul_win (s : State) (i : Fin 128) (f : BulRec → BulRec) : (s.modBul i f).win = s.win := rfl
@[simp] theorem modBul_svc (s : State) (i : Fin 128) (f : BulRec → BulRec) : (s.modBul i f).svc = s.svc := rfl
@[simp] theorem modBul_fan (s : State) (i : Fin 128) (f : BulRec → BulRec) : (s.modBul i f).fan = s.fan := rfl
@[simp] theorem modBul_bul (s : State) (i : Fin 128) (f : BulRec → BulRec) : (s.modBul i f).bul = { s.bul with store := upd s.bul.store i f } := rfl
@[simp] theorem modBul_aud (s : State) (i : Fin 128) (f : BulRec → BulRec) : (s.modBul i f).aud = s.aud := rfl
@[simp] theorem modBul_acc (s : State) (i : Fin 128) (f : BulRec → BulRec) : (s.modBul i f).acc = s.acc := rfl
@[simp] theorem modBul_cred (s : State) (i : Fin 128) (f : BulRec → BulRec) : (s.modBul i f).cred = s.cred := rfl
@[simp] theorem modBul_dma (s : State) (i : Fin 128) (f : BulRec → BulRec) : (s.modBul i f).dma = s.dma := rfl
@[simp] theorem modBul_tw (s : State) (i : Fin 128) (f : BulRec → BulRec) : (s.modBul i f).tw = s.tw := rfl
@[simp] theorem modBul_clk (s : State) (i : Fin 128) (f : BulRec → BulRec) : (s.modBul i f).clk = s.clk := rfl
@[simp] theorem modBul_pwr (s : State) (i : Fin 128) (f : BulRec → BulRec) : (s.modBul i f).pwr = s.pwr := rfl
@[simp] theorem modBul_cal (s : State) (i : Fin 128) (f : BulRec → BulRec) : (s.modBul i f).cal = s.cal := rfl
@[simp] theorem modBul_saf (s : State) (i : Fin 128) (f : BulRec → BulRec) : (s.modBul i f).saf = s.saf := rfl
@[simp] theorem modBul_tru (s : State) (i : Fin 128) (f : BulRec → BulRec) : (s.modBul i f).tru = s.tru := rfl
@[simp] theorem modBul_flags (s : State) (i : Fin 128) (f : BulRec → BulRec) : (s.modBul i f).flags = s.flags := rfl
@[simp] theorem modBul_tlm (s : State) (i : Fin 128) (f : BulRec → BulRec) : (s.modBul i f).tlm = s.tlm := rfl
@[simp] theorem modBul_mem (s : State) (i : Fin 128) (f : BulRec → BulRec) : (s.modBul i f).mem = s.mem := rfl
@[simp] theorem modBul_freeCnt (s : State) (i : Fin 128) (f : BulRec → BulRec) : (s.modBul i f).freeCnt = s.freeCnt := rfl
@[simp] theorem modBul_pending (s : State) (i : Fin 128) (f : BulRec → BulRec) : (s.modBul i f).pending = s.pending := rfl

/-! ### post -/

@[simp] theorem post_sys (s : State) (w : HostWrite): (s.post w).sys = s.sys := rfl
@[simp] theorem post_host (s : State) (w : HostWrite): (s.post w).host = { s.host with posted := w :: s.host.posted } := rfl
@[simp] theorem post_evt (s : State) (w : HostWrite): (s.post w).evt = s.evt := rfl
@[simp] theorem post_cap (s : State) (w : HostWrite): (s.post w).cap = s.cap := rfl
@[simp] theorem post_win (s : State) (w : HostWrite): (s.post w).win = s.win := rfl
@[simp] theorem post_svc (s : State) (w : HostWrite): (s.post w).svc = s.svc := rfl
@[simp] theorem post_fan (s : State) (w : HostWrite): (s.post w).fan = s.fan := rfl
@[simp] theorem post_bul (s : State) (w : HostWrite): (s.post w).bul = s.bul := rfl
@[simp] theorem post_aud (s : State) (w : HostWrite): (s.post w).aud = s.aud := rfl
@[simp] theorem post_acc (s : State) (w : HostWrite): (s.post w).acc = s.acc := rfl
@[simp] theorem post_cred (s : State) (w : HostWrite): (s.post w).cred = s.cred := rfl
@[simp] theorem post_dma (s : State) (w : HostWrite): (s.post w).dma = s.dma := rfl
@[simp] theorem post_tw (s : State) (w : HostWrite): (s.post w).tw = s.tw := rfl
@[simp] theorem post_clk (s : State) (w : HostWrite): (s.post w).clk = s.clk := rfl
@[simp] theorem post_pwr (s : State) (w : HostWrite): (s.post w).pwr = s.pwr := rfl
@[simp] theorem post_cal (s : State) (w : HostWrite): (s.post w).cal = s.cal := rfl
@[simp] theorem post_saf (s : State) (w : HostWrite): (s.post w).saf = s.saf := rfl
@[simp] theorem post_tru (s : State) (w : HostWrite): (s.post w).tru = s.tru := rfl
@[simp] theorem post_flags (s : State) (w : HostWrite): (s.post w).flags = s.flags := rfl
@[simp] theorem post_tlm (s : State) (w : HostWrite): (s.post w).tlm = s.tlm := rfl
@[simp] theorem post_mem (s : State) (w : HostWrite): (s.post w).mem = s.mem := rfl
@[simp] theorem post_freeCnt (s : State) (w : HostWrite): (s.post w).freeCnt = s.freeCnt := rfl
@[simp] theorem post_pending (s : State) (w : HostWrite): (s.post w).pending = s.pending := rfl

/-! ### useSeq -/

@[simp] theorem useSeq_sys (s : State) : s.useSeq.sys = s.sys := rfl
@[simp] theorem useSeq_host (s : State) : s.useSeq.host = s.host := rfl
@[simp] theorem useSeq_evt (s : State) : s.useSeq.evt = { s.evt with seq := s.evt.seq + 1 } := rfl
@[simp] theorem useSeq_cap (s : State) : s.useSeq.cap = s.cap := rfl
@[simp] theorem useSeq_win (s : State) : s.useSeq.win = s.win := rfl
@[simp] theorem useSeq_svc (s : State) : s.useSeq.svc = s.svc := rfl
@[simp] theorem useSeq_fan (s : State) : s.useSeq.fan = s.fan := rfl
@[simp] theorem useSeq_bul (s : State) : s.useSeq.bul = s.bul := rfl
@[simp] theorem useSeq_aud (s : State) : s.useSeq.aud = s.aud := rfl
@[simp] theorem useSeq_acc (s : State) : s.useSeq.acc = s.acc := rfl
@[simp] theorem useSeq_cred (s : State) : s.useSeq.cred = s.cred := rfl
@[simp] theorem useSeq_dma (s : State) : s.useSeq.dma = s.dma := rfl
@[simp] theorem useSeq_tw (s : State) : s.useSeq.tw = s.tw := rfl
@[simp] theorem useSeq_clk (s : State) : s.useSeq.clk = s.clk := rfl
@[simp] theorem useSeq_pwr (s : State) : s.useSeq.pwr = s.pwr := rfl
@[simp] theorem useSeq_cal (s : State) : s.useSeq.cal = s.cal := rfl
@[simp] theorem useSeq_saf (s : State) : s.useSeq.saf = s.saf := rfl
@[simp] theorem useSeq_tru (s : State) : s.useSeq.tru = s.tru := rfl
@[simp] theorem useSeq_flags (s : State) : s.useSeq.flags = s.flags := rfl
@[simp] theorem useSeq_tlm (s : State) : s.useSeq.tlm = s.tlm := rfl
@[simp] theorem useSeq_mem (s : State) : s.useSeq.mem = s.mem := rfl
@[simp] theorem useSeq_freeCnt (s : State) : s.useSeq.freeCnt = s.freeCnt := rfl
@[simp] theorem useSeq_pending (s : State) : s.useSeq.pending = s.pending := rfl

/-! ### setRate -/

@[simp] theorem setRate_sys (s : State) (l : List RateRec): (s.setRate l).sys = s.sys := rfl
@[simp] theorem setRate_host (s : State) (l : List RateRec): (s.setRate l).host = s.host := rfl
@[simp] theorem setRate_evt (s : State) (l : List RateRec): (s.setRate l).evt = { s.evt with rate := l } := rfl
@[simp] theorem setRate_cap (s : State) (l : List RateRec): (s.setRate l).cap = s.cap := rfl
@[simp] theorem setRate_win (s : State) (l : List RateRec): (s.setRate l).win = s.win := rfl
@[simp] theorem setRate_svc (s : State) (l : List RateRec): (s.setRate l).svc = s.svc := rfl
@[simp] theorem setRate_fan (s : State) (l : List RateRec): (s.setRate l).fan = s.fan := rfl
@[simp] theorem setRate_bul (s : State) (l : List RateRec): (s.setRate l).bul = s.bul := rfl
@[simp] theorem setRate_aud (s : State) (l : List RateRec): (s.setRate l).aud = s.aud := rfl
@[simp] theorem setRate_acc (s : State) (l : List RateRec): (s.setRate l).acc = s.acc := rfl
@[simp] theorem setRate_cred (s : State) (l : List RateRec): (s.setRate l).cred = s.cred := rfl
@[simp] theorem setRate_dma (s : State) (l : List RateRec): (s.setRate l).dma = s.dma := rfl
@[simp] theorem setRate_tw (s : State) (l : List RateRec): (s.setRate l).tw = s.tw := rfl
@[simp] theorem setRate_clk (s : State) (l : List RateRec): (s.setRate l).clk = s.clk := rfl
@[simp] theorem setRate_pwr (s : State) (l : List RateRec): (s.setRate l).pwr = s.pwr := rfl
@[simp] theorem setRate_cal (s : State) (l : List RateRec): (s.setRate l).cal = s.cal := rfl
@[simp] theorem setRate_saf (s : State) (l : List RateRec): (s.setRate l).saf = s.saf := rfl
@[simp] theorem setRate_tru (s : State) (l : List RateRec): (s.setRate l).tru = s.tru := rfl
@[simp] theorem setRate_flags (s : State) (l : List RateRec): (s.setRate l).flags = s.flags := rfl
@[simp] theorem setRate_tlm (s : State) (l : List RateRec): (s.setRate l).tlm = s.tlm := rfl
@[simp] theorem setRate_mem (s : State) (l : List RateRec): (s.setRate l).mem = s.mem := rfl
@[simp] theorem setRate_freeCnt (s : State) (l : List RateRec): (s.setRate l).freeCnt = s.freeCnt := rfl
@[simp] theorem setRate_pending (s : State) (l : List RateRec): (s.setRate l).pending = s.pending := rfl

/-! ### store -/

@[simp] theorem store_sys (s : State) (a : Nat) (bs : List Byte): (s.store a bs).sys = s.sys := rfl
@[simp] theorem store_host (s : State) (a : Nat) (bs : List Byte): (s.store a bs).host = s.host := rfl
@[simp] theorem store_evt (s : State) (a : Nat) (bs : List Byte): (s.store a bs).evt = s.evt := rfl
@[simp] theorem store_cap (s : State) (a : Nat) (bs : List Byte): (s.store a bs).cap = s.cap := rfl
@[simp] theorem store_win (s : State) (a : Nat) (bs : List Byte): (s.store a bs).win = s.win := rfl
@[simp] theorem store_svc (s : State) (a : Nat) (bs : List Byte): (s.store a bs).svc = s.svc := rfl
@[simp] theorem store_fan (s : State) (a : Nat) (bs : List Byte): (s.store a bs).fan = s.fan := rfl
@[simp] theorem store_bul (s : State) (a : Nat) (bs : List Byte): (s.store a bs).bul = s.bul := rfl
@[simp] theorem store_aud (s : State) (a : Nat) (bs : List Byte): (s.store a bs).aud = s.aud := rfl
@[simp] theorem store_acc (s : State) (a : Nat) (bs : List Byte): (s.store a bs).acc = s.acc := rfl
@[simp] theorem store_cred (s : State) (a : Nat) (bs : List Byte): (s.store a bs).cred = s.cred := rfl
@[simp] theorem store_dma (s : State) (a : Nat) (bs : List Byte): (s.store a bs).dma = s.dma := rfl
@[simp] theorem store_tw (s : State) (a : Nat) (bs : List Byte): (s.store a bs).tw = s.tw := rfl
@[simp] theorem store_clk (s : State) (a : Nat) (bs : List Byte): (s.store a bs).clk = s.clk := rfl
@[simp] theorem store_pwr (s : State) (a : Nat) (bs : List Byte): (s.store a bs).pwr = s.pwr := rfl
@[simp] theorem store_cal (s : State) (a : Nat) (bs : List Byte): (s.store a bs).cal = s.cal := rfl
@[simp] theorem store_saf (s : State) (a : Nat) (bs : List Byte): (s.store a bs).saf = s.saf := rfl
@[simp] theorem store_tru (s : State) (a : Nat) (bs : List Byte): (s.store a bs).tru = s.tru := rfl
@[simp] theorem store_flags (s : State) (a : Nat) (bs : List Byte): (s.store a bs).flags = s.flags := rfl
@[simp] theorem store_tlm (s : State) (a : Nat) (bs : List Byte): (s.store a bs).tlm = s.tlm := rfl
@[simp] theorem store_mem (s : State) (a : Nat) (bs : List Byte): (s.store a bs).mem = Memory.writeN s.mem a bs := rfl
@[simp] theorem store_freeCnt (s : State) (a : Nat) (bs : List Byte): (s.store a bs).freeCnt = s.freeCnt := rfl
@[simp] theorem store_pending (s : State) (a : Nat) (bs : List Byte): (s.store a bs).pending = s.pending := rfl

/-! ### bump -/

@[simp] theorem bump_sys (s : State) (o n : Nat): (s.bump o n).sys = s.sys := rfl
@[simp] theorem bump_host (s : State) (o n : Nat): (s.bump o n).host = s.host := rfl
@[simp] theorem bump_evt (s : State) (o n : Nat): (s.bump o n).evt = s.evt := rfl
@[simp] theorem bump_cap (s : State) (o n : Nat): (s.bump o n).cap = s.cap := rfl
@[simp] theorem bump_win (s : State) (o n : Nat): (s.bump o n).win = s.win := rfl
@[simp] theorem bump_svc (s : State) (o n : Nat): (s.bump o n).svc = s.svc := rfl
@[simp] theorem bump_fan (s : State) (o n : Nat): (s.bump o n).fan = s.fan := rfl
@[simp] theorem bump_bul (s : State) (o n : Nat): (s.bump o n).bul = s.bul := rfl
@[simp] theorem bump_aud (s : State) (o n : Nat): (s.bump o n).aud = s.aud := rfl
@[simp] theorem bump_acc (s : State) (o n : Nat): (s.bump o n).acc = s.acc := rfl
@[simp] theorem bump_cred (s : State) (o n : Nat): (s.bump o n).cred = s.cred := rfl
@[simp] theorem bump_dma (s : State) (o n : Nat): (s.bump o n).dma = s.dma := rfl
@[simp] theorem bump_tw (s : State) (o n : Nat): (s.bump o n).tw = s.tw := rfl
@[simp] theorem bump_clk (s : State) (o n : Nat): (s.bump o n).clk = s.clk := rfl
@[simp] theorem bump_pwr (s : State) (o n : Nat): (s.bump o n).pwr = s.pwr := rfl
@[simp] theorem bump_cal (s : State) (o n : Nat): (s.bump o n).cal = s.cal := rfl
@[simp] theorem bump_saf (s : State) (o n : Nat): (s.bump o n).saf = s.saf := rfl
@[simp] theorem bump_tru (s : State) (o n : Nat): (s.bump o n).tru = s.tru := rfl
@[simp] theorem bump_flags (s : State) (o n : Nat): (s.bump o n).flags = s.flags := rfl
@[simp] theorem bump_tlm (s : State) (o n : Nat): (s.bump o n).tlm = Tlm.set s.tlm o (Tlm.get s.tlm o + BitVec.ofNat 32 n) := rfl
@[simp] theorem bump_mem (s : State) (o n : Nat): (s.bump o n).mem = s.mem := rfl
@[simp] theorem bump_freeCnt (s : State) (o n : Nat): (s.bump o n).freeCnt = s.freeCnt := rfl
@[simp] theorem bump_pending (s : State) (o n : Nat): (s.bump o n).pending = s.pending := rfl

/-! ### loseEvent -/

@[simp] theorem loseEvent_sys (s : State) : s.loseEvent.sys = s.sys := rfl
@[simp] theorem loseEvent_host (s : State) : s.loseEvent.host = s.host := rfl
@[simp] theorem loseEvent_evt (s : State) : s.loseEvent.evt = { s.evt with seq := s.evt.seq + 1, lost := s.evt.lost + 1, owed := s.evt.owed + 1 } := rfl
@[simp] theorem loseEvent_cap (s : State) : s.loseEvent.cap = s.cap := rfl
@[simp] theorem loseEvent_win (s : State) : s.loseEvent.win = s.win := rfl
@[simp] theorem loseEvent_svc (s : State) : s.loseEvent.svc = s.svc := rfl
@[simp] theorem loseEvent_fan (s : State) : s.loseEvent.fan = s.fan := rfl
@[simp] theorem loseEvent_bul (s : State) : s.loseEvent.bul = s.bul := rfl
@[simp] theorem loseEvent_aud (s : State) : s.loseEvent.aud = s.aud := rfl
@[simp] theorem loseEvent_acc (s : State) : s.loseEvent.acc = s.acc := rfl
@[simp] theorem loseEvent_cred (s : State) : s.loseEvent.cred = s.cred := rfl
@[simp] theorem loseEvent_dma (s : State) : s.loseEvent.dma = s.dma := rfl
@[simp] theorem loseEvent_tw (s : State) : s.loseEvent.tw = s.tw := rfl
@[simp] theorem loseEvent_clk (s : State) : s.loseEvent.clk = s.clk := rfl
@[simp] theorem loseEvent_pwr (s : State) : s.loseEvent.pwr = s.pwr := rfl
@[simp] theorem loseEvent_cal (s : State) : s.loseEvent.cal = s.cal := rfl
@[simp] theorem loseEvent_saf (s : State) : s.loseEvent.saf = s.saf := rfl
@[simp] theorem loseEvent_tru (s : State) : s.loseEvent.tru = s.tru := rfl
@[simp] theorem loseEvent_flags (s : State) : s.loseEvent.flags = s.flags := rfl
@[simp] theorem loseEvent_tlm (s : State) : s.loseEvent.tlm = s.tlm := rfl
@[simp] theorem loseEvent_mem (s : State) : s.loseEvent.mem = s.mem := rfl
@[simp] theorem loseEvent_freeCnt (s : State) : s.loseEvent.freeCnt = s.freeCnt := rfl
@[simp] theorem loseEvent_pending (s : State) : s.loseEvent.pending = s.pending := rfl

/-! ### Updates of tables -/

/-- The updated entry of a table. -/
theorem upd_same {α : Type} {n : Nat} (v : Vector α n) (i : Fin n) (f : α → α) : (upd v i f)[i] = f v[i] := by
  simp [upd]

/-- The other entries of a table. -/
theorem upd_other {α : Type} {n : Nat} (v : Vector α n) (i j : Fin n) (f : α → α) (h : i ≠ j) : (upd v i f)[j] = v[j] := by
  simp only [upd, Fin.getElem_fin, Vector.getElem_set]
  split
  · exact absurd (Fin.ext ‹_›) h
  · rfl

end Sys2Proof.Laws
end

