-- ==== Sys2Proof/Laws/Memory.lean ====
section
/-!
SUPPORT. SRAM and the counters of the TLM block as lists in canonical form: every write keeps the form, a read after a write gives the
value written, and a write leaves every other address alone.
-/

namespace Sys2Proof.Laws

open Sys2Proof Sys2Proof.Machine

/-! ### SRAM -/

/-- A lower bound that is raised is a bound of fewer lists. -/
theorem memory_above_none (lo : Option Nat) (m : List Host.Cell) (h : Memory.above lo m = true) : Memory.above none m = true := by
  cases m with
  | nil => rfl
  | cons c m => cases lo <;> simp_all [Memory.above]

/-- A list above a bound stays above it when a byte beyond the bound is written. -/
theorem memory_write_above (m : List Host.Cell) (lo : Option Nat) (x : Nat) (v : Byte) (hx : ∀ l, lo = some l → l < x)
    (h : Memory.above lo m = true) : Memory.above lo (Memory.write m x v) = true := by
  induction m generalizing lo with
  | nil =>
    unfold Memory.write
    split
    · rfl
    · cases lo with
      | none => simp [Memory.above, *]
      | some l => simp [Memory.above, hx l rfl, *]
  | cons c m ih =>
    obtain ⟨a, b⟩ := c
    have hb : b ≠ Memory.unlisted ∧ Memory.above (some a) m = true := by
      cases lo <;> simp_all [Memory.above]
    have hl : ∀ l, lo = some l → l < a := by
      intro l e
      subst e
      simp_all [Memory.above]
    unfold Memory.write
    split
    · rename_i hlt
      split
      · exact h
      · cases lo with
        | none => simp_all [Memory.above]
        | some l => simp_all [Memory.above]
    · split
      · rename_i hge he
        subst he
        split
        · cases m with
          | nil => rfl
          | cons d m =>
            obtain ⟨p, q⟩ := d
            cases lo with
            | none => simp_all [Memory.above]
            | some l =>
              have := hl l rfl
              have hb2 := hb.2
              simp only [Memory.above, Bool.and_eq_true, decide_eq_true_eq] at hb2 ⊢
              exact ⟨⟨by omega, hb2.1.2⟩, hb2.2⟩
        · cases lo with
          | none => simp_all [Memory.above]
          | some l => simp_all [Memory.above]
      · rename_i hge hne
        have := ih (some a) (by intro l e; cases e; omega) hb.2
        cases lo with
        | none => simp_all [Memory.above]
        | some l => simp_all [Memory.above]

/-- Writing a byte keeps the canonical form. -/
theorem memory_write_wf (m : List Host.Cell) (x : Nat) (v : Byte) (h : Memory.wf m = true) : Memory.wf (Memory.write m x v) = true :=
  memory_write_above m none x v (by intro l e; cases e) h

/-- Writing bytes keeps the canonical form. -/
theorem memory_writeN_wf (m : List Host.Cell) (a : Nat) (bs : List Byte) (h : Memory.wf m = true) :
    Memory.wf (Memory.writeN m a bs) = true := by
  induction bs generalizing m a with
  | nil => exact h
  | cons b bs ih => exact ih _ _ (memory_write_wf m a b h)

/-- A list above a bound reads as unlisted at and below the bound. -/
theorem memory_read_low (m : List Host.Cell) (l x : Nat) (h : Memory.above (some l) m = true) (hx : x ≤ l) :
    Memory.read m x = Memory.unlisted := by
  cases m with
  | nil => rfl
  | cons c m =>
    obtain ⟨a, b⟩ := c
    simp only [Memory.above, Bool.and_eq_true, decide_eq_true_eq] at h
    unfold Memory.read
    rw [if_neg (by omega), if_pos (by omega)]

/-- What an address reads after a write to an address: the value there, and elsewhere what it read before. -/
theorem memory_read_write (m : List Host.Cell) (lo : Option Nat) (x y : Nat) (v : Byte) (h : Memory.above lo m = true) :
    Memory.read (Memory.write m x v) y = if y = x then v else Memory.read m y := by
  induction m generalizing lo with
  | nil =>
    unfold Memory.write
    split
    · split <;> simp_all [Memory.read]
    · simp only [Memory.read]
      split
      · rfl
      · simp
  | cons c m ih =>
    obtain ⟨a, b⟩ := c
    have hb : b ≠ Memory.unlisted ∧ Memory.above (some a) m = true := by
      cases lo <;> simp_all [Memory.above]
    unfold Memory.write
    split
    · rename_i hlt
      split
      · rename_i hv
        split
        · rename_i e
          subst e
          simp only [Memory.read]
          rw [if_neg (by omega), if_pos (by omega), hv]
        · rfl
      · simp only [Memory.read]
        split
        · rfl
        · rename_i hyx
          split
          · rename_i hy
            rw [if_neg (by omega), if_pos (by omega)]
          · rfl
    · split
      · rename_i hge e
        subst e
        split
        · rename_i hv
          by_cases hy : y = x
          · subst hy
            rw [memory_read_low m y y hb.2 (le_refl _)]
            simp [hv]
          · simp only [Memory.read, if_neg hy]
            split
            · exact memory_read_low m x y hb.2 (by omega)
            · rfl
        · simp only [Memory.read]
          split
          · rfl
          · rfl
      · rename_i hge hne
        simp only [Memory.read]
        rw [ih (some a) hb.2]
        by_cases h1 : y = a
        · subst h1
          rw [if_pos rfl, if_pos rfl, if_neg (by omega)]
        · rw [if_neg h1, if_neg h1]
          by_cases h2 : y < a
          · rw [if_pos h2, if_pos h2, if_neg (by omega)]
          · rw [if_neg h2, if_neg h2]

/-- A read of the address written gives the value written. -/
theorem memory_read_same (m : List Host.Cell) (x : Nat) (v : Byte) (h : Memory.wf m = true) :
    Memory.read (Memory.write m x v) x = v := by
  rw [memory_read_write m none x x v h, if_pos rfl]

/-- A read of another address gives what it gave before. -/
theorem memory_read_other (m : List Host.Cell) (x y : Nat) (v : Byte) (h : Memory.wf m = true) (e : y ≠ x) :
    Memory.read (Memory.write m x v) y = Memory.read m y := by
  rw [memory_read_write m none x y v h, if_neg e]

/-- Bytes written from `a` upwards leave every address outside them alone. -/
theorem memory_read_outside (m : List Host.Cell) (a y : Nat) (bs : List Byte) (h : Memory.wf m = true)
    (e : y < a ∨ a + bs.length ≤ y) : Memory.read (Memory.writeN m a bs) y = Memory.read m y := by
  induction bs generalizing m a with
  | nil => rfl
  | cons b bs ih =>
    simp only [List.length_cons] at e
    unfold Memory.writeN
    rw [ih _ _ (memory_write_wf m a b h) (by omega), memory_read_other m a y b h (by omega)]

/-- Dropping entries keeps a bound. -/
theorem memory_filter_above (m : List Host.Cell) (lo : Option Nat) (p : Host.Cell → Bool) (h : Memory.above lo m = true) :
    Memory.above lo (m.filter p) = true := by
  induction m generalizing lo with
  | nil => rfl
  | cons c m ih =>
    obtain ⟨a, b⟩ := c
    have hb : b ≠ Memory.unlisted ∧ Memory.above (some a) m = true := by
      cases lo <;> simp_all [Memory.above]
    rw [List.filter_cons]
    split
    · have := ih (some a) hb.2
      cases lo <;> simp_all [Memory.above]
    · refine ih lo ?_
      cases m with
      | nil => rfl
      | cons d m =>
        obtain ⟨x, y⟩ := d
        cases lo with
        | none => simp_all [Memory.above]
        | some l =>
          have hb2 := hb.2
          simp only [Memory.above, Bool.and_eq_true, decide_eq_true_eq] at h hb2 ⊢
          exact ⟨⟨by omega, hb2.1.2⟩, hb2.2⟩

/-- Dropping entries keeps the canonical form. -/
theorem memory_filter_wf (m : List Host.Cell) (p : Host.Cell → Bool) (h : Memory.wf m = true) : Memory.wf (m.filter p) = true :=
  memory_filter_above m none p h

/-! ### Counters -/

/-- A list of counters above a bound stays above it when a counter beyond the bound is set. -/
theorem tlm_set_above (m : List (Nat × W)) (lo : Option Nat) (x : Nat) (v : W) (hx : ∀ l, lo = some l → l < x)
    (h : Tlm.above lo m = true) : Tlm.above lo (Tlm.set m x v) = true := by
  induction m generalizing lo with
  | nil =>
    unfold Tlm.set
    split
    · rfl
    · rename_i hv
      have hv' : ¬v = 0#32 := hv
      cases lo with
      | none => simp [Tlm.above, hv']
      | some l => simp [Tlm.above, hx l rfl, hv']
  | cons c m ih =>
    obtain ⟨a, b⟩ := c
    have hb : b ≠ 0 ∧ Tlm.above (some a) m = true := by
      cases lo <;> simp_all [Tlm.above]
    have hl : ∀ l, lo = some l → l < a := by
      intro l e
      subst e
      simp_all [Tlm.above]
    unfold Tlm.set
    split
    · split
      · exact h
      · cases lo with
        | none => simp_all [Tlm.above]
        | some l => simp_all [Tlm.above]
    · split
      · rename_i hge he
        subst he
        split
        · cases m with
          | nil => rfl
          | cons d m =>
            obtain ⟨p, q⟩ := d
            cases lo with
            | none => simp_all [Tlm.above]
            | some l =>
              have := hl l rfl
              have hb2 := hb.2
              simp only [Tlm.above, Bool.and_eq_true, decide_eq_true_eq] at hb2 ⊢
              exact ⟨⟨by omega, hb2.1.2⟩, hb2.2⟩
        · cases lo with
          | none => simp_all [Tlm.above]
          | some l => simp_all [Tlm.above]
      · rename_i hge hne
        have := ih (some a) (by intro l e; cases e; omega) hb.2
        cases lo with
        | none => simp_all [Tlm.above]
        | some l => simp_all [Tlm.above]

/-- Setting a counter keeps the canonical form. -/
theorem tlm_set_wf (m : List (Nat × W)) (x : Nat) (v : W) (h : Tlm.wf m = true) : Tlm.wf (Tlm.set m x v) = true :=
  tlm_set_above m none x v (by intro l e; cases e) h

/-- Dropping counters keeps a bound. -/
theorem tlm_filter_above (m : List (Nat × W)) (lo : Option Nat) (p : Nat × W → Bool) (h : Tlm.above lo m = true) :
    Tlm.above lo (m.filter p) = true := by
  induction m generalizing lo with
  | nil => rfl
  | cons c m ih =>
    obtain ⟨a, b⟩ := c
    have hb : b ≠ 0 ∧ Tlm.above (some a) m = true := by
      cases lo <;> simp_all [Tlm.above]
    rw [List.filter_cons]
    split
    · have := ih (some a) hb.2
      cases lo <;> simp_all [Tlm.above]
    · refine ih lo ?_
      cases m with
      | nil => rfl
      | cons d m =>
        obtain ⟨x, y⟩ := d
        cases lo with
        | none => simp_all [Tlm.above]
        | some l =>
          have hb2 := hb.2
          simp only [Tlm.above, Bool.and_eq_true, decide_eq_true_eq] at h hb2 ⊢
          exact ⟨⟨by omega, hb2.1.2⟩, hb2.2⟩

/-- Dropping counters keeps the canonical form. -/
theorem tlm_filter_wf (m : List (Nat × W)) (p : Nat × W → Bool) (h : Tlm.wf m = true) : Tlm.wf (m.filter p) = true :=
  tlm_filter_above m none p h

end Sys2Proof.Laws
end

