-- ==== Sys2Proof/Laws/Keeps.lean ====
section
/-!
SUPPORT. What no command and no event does, as one relation between the state before and the state after: the queue is left alone, SRAM
and the counters keep their canonical forms, free values are never taken twice, what was posted to the host stays posted, a locked
regulatory page keeps its bytes (R336), the SVN counter and the debug fuse state never go back and a programmed OEM fuse stays (R453,
R459), and a locked end-of-line record keeps its values (R430). The files beside this one say of each operation that it respects the
relation.
-/

namespace Sys2Proof.Laws

open Sys2Proof Sys2Proof.Machine

/-- The parts of the state that the relation speaks about. -/
structure Kept where
  queue : List Instr
  mem : List Host.Cell
  tlm : List (Nat × W)
  free : Nat
  posted : List HostWrite
  page : List Byte
  svn : Nat
  dbg : BitVec 2
  oem : Option (List Byte)
  eolLocked : Bool
  eolGains : Vector (List Int) 4
  eolCalsrc : Vector (List Int) 4

/-- The parts of a state. -/
def kept (s : State) : Kept :=
  ⟨s.pending, s.mem, s.tlm, s.freeCnt, s.host.posted, s.acc.regPage, s.tru.svnCtr, s.tru.dbg, s.tru.oemHash, s.cal.eolLocked,
    s.cal.eolGains, s.cal.eolCalsrc⟩

/-- The relation on the parts. -/
structure KeepsP (a b : Kept) : Prop where
  queue : b.queue = a.queue
  mem : Memory.wf a.mem = true → Memory.wf b.mem = true
  tlm : Tlm.wf a.tlm = true → Tlm.wf b.tlm = true
  free : a.free ≤ b.free
  posted : ∃ l, b.posted = l ++ a.posted
  page : pageLocked a.page = true → b.page = a.page
  svn : a.svn ≤ b.svn
  dbg : a.dbg.toNat ≤ b.dbg.toNat
  oem : a.oem.isSome = true → b.oem = a.oem
  eol : a.eolLocked = true → b.eolLocked = true ∧ b.eolGains = a.eolGains ∧ b.eolCalsrc = a.eolCalsrc

/-- `t` follows from `s` without any of what the relation rules out. -/
def Keeps (s t : State) : Prop := KeepsP (kept s) (kept t)

theorem Keeps.refl (s : State) : Keeps s s :=
  ⟨rfl, id, id, le_refl _, ⟨[], rfl⟩, fun _ => rfl, le_refl _, le_refl _, fun _ => rfl, fun h => ⟨h, rfl, rfl⟩⟩

theorem KeepsP.trans {a b c : Kept} (h : KeepsP a b) (k : KeepsP b c) : KeepsP a c where
  queue := k.queue.trans h.queue
  mem := fun x => k.mem (h.mem x)
  tlm := fun x => k.tlm (h.tlm x)
  free := le_trans h.free k.free
  posted := by
    obtain ⟨l, hl⟩ := h.posted
    obtain ⟨m, hm⟩ := k.posted
    exact ⟨m ++ l, by rw [hm, hl, List.append_assoc]⟩
  page := fun x => (k.page (by rw [h.page x]; exact x)).trans (h.page x)
  svn := le_trans h.svn k.svn
  dbg := le_trans h.dbg k.dbg
  oem := fun x => (k.oem (by rw [h.oem x]; exact x)).trans (h.oem x)
  eol := fun x => by
    obtain ⟨l, g, c⟩ := h.eol x
    obtain ⟨l', g', c'⟩ := k.eol l
    exact ⟨l', g'.trans g, c'.trans c⟩

theorem Keeps.trans {s t u : State} (h : Keeps s t) (k : Keeps t u) : Keeps s u := KeepsP.trans h k

/-- A state whose parts are those of `u`, as a record: the queue shows which `u` is meant. -/
theorem Keeps.same {s0 u : State} {sys : SysBlk} {host : HostBlk} {evt : EvtBlk} {cap : CapBlk} {win : WinBlk} {svc : SvcBlk}
    {fan : FanBlk} {bul : BulBlk} {aud : AudBlk} {acc : AccBlk} {cred : CredBlk} {dma : DmaBlk} {tw : TwBlk} {clk : ClkBlk}
    {pwr : PwrBlk} {cal : CalBlk} {saf : SafBlk} {tru : TruBlk} {flags : Vector W 83} {tlm : List (Nat × W)} {mem : List Host.Cell}
    {free : Nat} {q : List Instr} (h : Keeps s0 u) (_e : q = u.pending)
    (k : kept ⟨sys, host, evt, cap, win, svc, fan, bul, aud, acc, cred, dma, tw, clk, pwr, cal, saf, tru, flags, tlm, mem, free, q⟩ = kept u) :
    Keeps s0 ⟨sys, host, evt, cap, win, svc, fan, bul, aud, acc, cred, dma, tw, clk, pwr, cal, saf, tru, flags, tlm, mem, free, q⟩ := by
  unfold Keeps at *
  rw [k]
  exact h

/-- The same where free values have been taken besides. -/
theorem Keeps.more {s0 u : State} {sys : SysBlk} {host : HostBlk} {evt : EvtBlk} {cap : CapBlk} {win : WinBlk} {svc : SvcBlk}
    {fan : FanBlk} {bul : BulBlk} {aud : AudBlk} {acc : AccBlk} {cred : CredBlk} {dma : DmaBlk} {tw : TwBlk} {clk : ClkBlk}
    {pwr : PwrBlk} {cal : CalBlk} {saf : SafBlk} {tru : TruBlk} {flags : Vector W 83} {tlm : List (Nat × W)} {mem : List Host.Cell}
    {free : Nat} {q : List Instr} (h : Keeps s0 u) (_e : q = u.pending) (f : u.freeCnt ≤ free)
    (k : kept ⟨sys, host, evt, cap, win, svc, fan, bul, aud, acc, cred, dma, tw, clk, pwr, cal, saf, tru, flags, tlm, mem, free, q⟩ =
      { kept u with free := free }) :
    Keeps s0 ⟨sys, host, evt, cap, win, svc, fan, bul, aud, acc, cred, dma, tw, clk, pwr, cal, saf, tru, flags, tlm, mem, free, q⟩ := by
  refine KeepsP.trans h ?_
  rw [k]
  exact ⟨rfl, id, id, f, ⟨[], rfl⟩, fun _ => rfl, le_refl _, le_refl _, fun _ => rfl, fun h => ⟨h, rfl, rfl⟩⟩

/-- A state whose parts change as the relation allows. -/
theorem Keeps.step {s0 u t : State} (h : Keeps s0 u) (k : KeepsP (kept u) (kept t)) : Keeps s0 t := KeepsP.trans h k

/-- A fold of steps that respect the relation. -/
theorem Keeps.fold {α : Type} {s0 : State} (g : State → α → State) (l : List α) {s : State} (h : Keeps s0 s)
    (k : ∀ t x, Keeps s0 t → Keeps s0 (g t x)) : Keeps s0 (l.foldl g s) := by
  induction l generalizing s with
  | nil => exact h
  | cons x l ih => exact ih (k s x h)

/-- Both branches respect the relation. -/
theorem Keeps.ite {s0 a b : State} {p : Prop} [Decidable p] (ha : Keeps s0 a) (hb : Keeps s0 b) : Keeps s0 (if p then a else b) := by
  split
  · exact ha
  · exact hb

/-- An optional state, or the state itself. -/
theorem Keeps.getD {s0 s : State} {o : Option State} (h : Keeps s0 s) (k : ∀ t, o = some t → Keeps s0 t) : Keeps s0 (o.getD s) := by
  cases o with
  | none => exact h
  | some t => exact k t rfl

/-- What a steward's answer leaves behind respects the relation. -/
def AKeeps (s0 : State) (a : Answer) : Prop :=
  match a with
  | .ok t _ _ => Keeps s0 t
  | .part t _ _ _ => Keeps s0 t
  | .fail _ _ => True
  | .wait t => Keeps s0 t

theorem AKeeps.ok {s0 t : State} {r : List Byte} {o : Option (List Byte)} (h : Keeps s0 t) : AKeeps s0 (.ok t r o) := h
theorem AKeeps.part {s0 t : State} {st : Status} {d : Nat} {r : List Byte} (h : Keeps s0 t) : AKeeps s0 (.part t st d r) := h
theorem AKeeps.fail {s0 : State} {st : Status} {d : Nat} : AKeeps s0 (.fail st d) := trivial
theorem AKeeps.wait {s0 t : State} (h : Keeps s0 t) : AKeeps s0 (.wait t) := h
theorem AKeeps.done {s0 t : State} (h : Keeps s0 t) : AKeeps s0 (.done t) := h

theorem AKeeps.ite {s0 : State} {a b : Answer} {p : Prop} [Decidable p] (ha : AKeeps s0 a) (hb : AKeeps s0 b) :
    AKeeps s0 (if p then a else b) := by
  split
  · exact ha
  · exact hb

theorem AKeeps.checked {s0 : State} {l : List (Bool × Status × Nat)} {k : Unit → Answer} (h : AKeeps s0 (k ())) :
    AKeeps s0 (checked l k) := by
  unfold Machine.checked
  split
  · exact AKeeps.fail
  · exact h

/-- No check fails exactly where none of the checks says so. -/
theorem firstFail_none (l : List (Bool × Status × Nat)) (h : firstFail l = none) : ∀ e ∈ l, e.1 = false := by
  induction l with
  | nil => simp
  | cons e l ih =>
    obtain ⟨b, st, d⟩ := e
    unfold firstFail at h
    cases b with
    | true => simp at h
    | false =>
      intro x hx
      cases hx with
      | head => rfl
      | tail _ hx => exact ih h x hx

/-- An effect behind checks is reached only where none of them fails. -/
theorem AKeeps.checkedIf {s0 : State} {l : List (Bool × Status × Nat)} {k : Unit → Answer}
    (h : (∀ e ∈ l, e.1 = false) → AKeeps s0 (k ())) :
    AKeeps s0 (Machine.checked l k) := by
  unfold Machine.checked
  split
  · exact AKeeps.fail
  · exact h (firstFail_none l ‹_›)

/-- What an outcome leaves behind respects the relation. -/
structure OKeeps (s0 : State) (o : Host.Outcome State Fault Refusal) : Prop where
  next : ∀ t, o = .next t → Keeps s0 t

theorem OKeeps.of {s0 t : State} (h : Keeps s0 t) : OKeeps s0 (.next t) := by
  refine ⟨fun u e => ?_⟩
  cases e
  exact h

theorem OKeeps.ite {s0 : State} {a b : Host.Outcome State Fault Refusal} {p : Prop} [Decidable p] (ha : OKeeps s0 a) (hb : OKeeps s0 b) :
    OKeeps s0 (if p then a else b) := by
  split
  · exact ha
  · exact hb

end Sys2Proof.Laws
end

