-- ==== Sys2Proof/Laws/KeepsOps.lean ====
section
/-!
SUPPORT. The operations and meanings of Machine/Ops.lean respect the relation of Keeps.lean.
-/

namespace Sys2Proof.Laws

open Sys2Proof Sys2Proof.Machine

set_option linter.unusedTactic false
set_option linter.unreachableTactic false
set_option linter.unusedVariables false

theorem keeps_modHr {s0 s : State} (h : Keeps s0 s) (n : Fin 4) (f : Headrace → Headrace) : Keeps s0 (State.modHr s n f) := by
  unfold State.modHr
  repeat' first
    | with_reducible assumption
    | intro _
    | with_reducible apply Keeps.fold
    | with_reducible apply Keeps.ite
    | dsimp only
    | split
    | fail_if_no_progress with_reducible refine Keeps.same ?_ rfl rfl
    | fail_if_no_progress with_reducible refine Keeps.more ?_ rfl (Nat.le_add_right _ _) rfl

theorem keeps_modFeed {s0 s : State} (h : Keeps s0 s) (n : Fin 4) (f : Feed → Feed) : Keeps s0 (State.modFeed s n f) := by
  unfold State.modFeed
  repeat' first
    | with_reducible assumption
    | intro _
    | with_reducible apply Keeps.fold
    | with_reducible apply Keeps.ite
    | dsimp only
    | split
    | fail_if_no_progress with_reducible refine Keeps.same ?_ rfl rfl
    | fail_if_no_progress with_reducible refine Keeps.more ?_ rfl (Nat.le_add_right _ _) rfl

theorem keeps_modWin {s0 s : State} (h : Keeps s0 s) (w : Fin 64) (f : Window → Window) : Keeps s0 (State.modWin s w f) := by
  unfold State.modWin
  repeat' first
    | with_reducible assumption
    | intro _
    | with_reducible apply Keeps.fold
    | with_reducible apply Keeps.ite
    | dsimp only
    | split
    | fail_if_no_progress with_reducible refine Keeps.same ?_ rfl rfl
    | fail_if_no_progress with_reducible refine Keeps.more ?_ rfl (Nat.le_add_right _ _) rfl

theorem keeps_modCtx {s0 s : State} (h : Keeps s0 s) (c : Fin 256) (f : Ctx → Ctx) : Keeps s0 (State.modCtx s c f) := by
  unfold State.modCtx
  repeat' first
    | with_reducible assumption
    | intro _
    | with_reducible apply Keeps.fold
    | with_reducible apply Keeps.ite
    | dsimp only
    | split
    | fail_if_no_progress with_reducible refine Keeps.same ?_ rfl rfl
    | fail_if_no_progress with_reducible refine Keeps.more ?_ rfl (Nat.le_add_right _ _) rfl

theorem keeps_modRun {s0 s : State} (h : Keeps s0 s) (r : Fin 32) (f : Runner → Runner) : Keeps s0 (State.modRun s r f) := by
  unfold State.modRun
  repeat' first
    | with_reducible assumption
    | intro _
    | with_reducible apply Keeps.fold
    | with_reducible apply Keeps.ite
    | dsimp only
    | split
    | fail_if_no_progress with_reducible refine Keeps.same ?_ rfl rfl
    | fail_if_no_progress with_reducible refine Keeps.more ?_ rfl (Nat.le_add_right _ _) rfl

theorem keeps_modRing {s0 s : State} (h : Keeps s0 s) (n : Fin 32) (f : Ring → Ring) : Keeps s0 (State.modRing s n f) := by
  unfold State.modRing
  repeat' first
    | with_reducible assumption
    | intro _
    | with_reducible apply Keeps.fold
    | with_reducible apply Keeps.ite
    | dsimp only
    | split
    | fail_if_no_progress with_reducible refine Keeps.same ?_ rfl rfl
    | fail_if_no_progress with_reducible refine Keeps.more ?_ rfl (Nat.le_add_right _ _) rfl

theorem keeps_modFollow {s0 s : State} (h : Keeps s0 s) (c : Fin 256) (f : Follow → Follow) : Keeps s0 (State.modFollow s c f) := by
  unfold State.modFollow
  repeat' first
    | with_reducible assumption
    | intro _
    | with_reducible apply Keeps.fold
    | with_reducible apply Keeps.ite
    | dsimp only
    | split
    | fail_if_no_progress with_reducible refine Keeps.same ?_ rfl rfl
    | fail_if_no_progress with_reducible refine Keeps.more ?_ rfl (Nat.le_add_right _ _) rfl

theorem keeps_modEst {s0 s : State} (h : Keeps s0 s) (e : Fin 4) (f : Estimator → Estimator) : Keeps s0 (State.modEst s e f) := by
  unfold State.modEst
  repeat' first
    | with_reducible assumption
    | intro _
    | with_reducible apply Keeps.fold
    | with_reducible apply Keeps.ite
    | dsimp only
    | split
    | fail_if_no_progress with_reducible refine Keeps.same ?_ rfl rfl
    | fail_if_no_progress with_reducible refine Keeps.more ?_ rfl (Nat.le_add_right _ _) rfl

theorem keeps_modPort {s0 s : State} (h : Keeps s0 s) (p : Fin 4) (f : Port → Port) : Keeps s0 (State.modPort s p f) := by
  unfold State.modPort
  repeat' first
    | with_reducible assumption
    | intro _
    | with_reducible apply Keeps.fold
    | with_reducible apply Keeps.ite
    | dsimp only
    | split
    | fail_if_no_progress with_reducible refine Keeps.same ?_ rfl rfl
    | fail_if_no_progress with_reducible refine Keeps.more ?_ rfl (Nat.le_add_right _ _) rfl

theorem keeps_modGroup {s0 s : State} (h : Keeps s0 s) (g : Fin 5) (f : Group → Group) : Keeps s0 (State.modGroup s g f) := by
  unfold State.modGroup
  repeat' first
    | with_reducible assumption
    | intro _
    | with_reducible apply Keeps.fold
    | with_reducible apply Keeps.ite
    | dsimp only
    | split
    | fail_if_no_progress with_reducible refine Keeps.same ?_ rfl rfl
    | fail_if_no_progress with_reducible refine Keeps.more ?_ rfl (Nat.le_add_right _ _) rfl

theorem keeps_modQueue {s0 s : State} (h : Keeps s0 s) (q : Fin 12) (f : Queue → Queue) : Keeps s0 (State.modQueue s q f) := by
  unfold State.modQueue
  repeat' first
    | with_reducible assumption
    | intro _
    | with_reducible apply Keeps.fold
    | with_reducible apply Keeps.ite
    | dsimp only
    | split
    | fail_if_no_progress with_reducible refine Keeps.same ?_ rfl rfl
    | fail_if_no_progress with_reducible refine Keeps.more ?_ rfl (Nat.le_add_right _ _) rfl

theorem keeps_modStream {s0 s : State} (h : Keeps s0 s) (n : Fin 32) (f : Stream → Stream) : Keeps s0 (State.modStream s n f) := by
  unfold State.modStream
  repeat' first
    | with_reducible assumption
    | intro _
    | with_reducible apply Keeps.fold
    | with_reducible apply Keeps.ite
    | dsimp only
    | split
    | fail_if_no_progress with_reducible refine Keeps.same ?_ rfl rfl
    | fail_if_no_progress with_reducible refine Keeps.more ?_ rfl (Nat.le_add_right _ _) rfl

theorem keeps_modCh {s0 s : State} (h : Keeps s0 s) (n : Fin 16) (f : DmaCh → DmaCh) : Keeps s0 (State.modCh s n f) := by
  unfold State.modCh
  repeat' first
    | with_reducible assumption
    | intro _
    | with_reducible apply Keeps.fold
    | with_reducible apply Keeps.ite
    | dsimp only
    | split
    | fail_if_no_progress with_reducible refine Keeps.same ?_ rfl rfl
    | fail_if_no_progress with_reducible refine Keeps.more ?_ rfl (Nat.le_add_right _ _) rfl

theorem keeps_modTw {s0 s : State} (h : Keeps s0 s) (p : Fin 2) (f : TwPort → TwPort) : Keeps s0 (State.modTw s p f) := by
  unfold State.modTw
  repeat' first
    | with_reducible assumption
    | intro _
    | with_reducible apply Keeps.fold
    | with_reducible apply Keeps.ite
    | dsimp only
    | split
    | fail_if_no_progress with_reducible refine Keeps.same ?_ rfl rfl
    | fail_if_no_progress with_reducible refine Keeps.more ?_ rfl (Nat.le_add_right _ _) rfl

theorem keeps_modSynth {s0 s : State} (h : Keeps s0 s) (c : Fin 81) (f : SynthEntry → SynthEntry) : Keeps s0 (State.modSynth s c f) := by
  unfold State.modSynth
  repeat' first
    | with_reducible assumption
    | intro _
    | with_reducible apply Keeps.fold
    | with_reducible apply Keeps.ite
    | dsimp only
    | split
    | fail_if_no_progress with_reducible refine Keeps.same ?_ rfl rfl
    | fail_if_no_progress with_reducible refine Keeps.more ?_ rfl (Nat.le_add_right _ _) rfl

theorem keeps_modBul {s0 s : State} (h : Keeps s0 s) (r : Fin 128) (f : BulRec → BulRec) : Keeps s0 (State.modBul s r f) := by
  unfold State.modBul
  repeat' first
    | with_reducible assumption
    | intro _
    | with_reducible apply Keeps.fold
    | with_reducible apply Keeps.ite
    | dsimp only
    | split
    | fail_if_no_progress with_reducible refine Keeps.same ?_ rfl rfl
    | fail_if_no_progress with_reducible refine Keeps.more ?_ rfl (Nat.le_add_right _ _) rfl

theorem keeps_modFm {s0 s : State} (h : Keeps s0 s) (r : Fin 32) (f : FmState → FmState) : Keeps s0 (State.modFm s r f) := by
  unfold State.modFm
  repeat' first
    | with_reducible assumption
    | intro _
    | with_reducible apply keeps_modRun
    | with_reducible apply Keeps.fold
    | with_reducible apply Keeps.ite
    | dsimp only
    | split
    | fail_if_no_progress with_reducible refine Keeps.same ?_ rfl rfl
    | fail_if_no_progress with_reducible refine Keeps.more ?_ rfl (Nat.le_add_right _ _) rfl

theorem keeps_modDab {s0 s : State} (h : Keeps s0 s) (r : Fin 32) (f : DabState → DabState) : Keeps s0 (State.modDab s r f) := by
  unfold State.modDab
  repeat' first
    | with_reducible assumption
    | intro _
    | with_reducible apply keeps_modRun
    | with_reducible apply Keeps.fold
    | with_reducible apply Keeps.ite
    | dsimp only
    | split
    | fail_if_no_progress with_reducible refine Keeps.same ?_ rfl rfl
    | fail_if_no_progress with_reducible refine Keeps.more ?_ rfl (Nat.le_add_right _ _) rfl

theorem keeps_modDrm {s0 s : State} (h : Keeps s0 s) (r : Fin 32) (f : DrmState → DrmState) : Keeps s0 (State.modDrm s r f) := by
  unfold State.modDrm
  repeat' first
    | with_reducible assumption
    | intro _
    | with_reducible apply keeps_modRun
    | with_reducible apply Keeps.fold
    | with_reducible apply Keeps.ite
    | dsimp only
    | split
    | fail_if_no_progress with_reducible refine Keeps.same ?_ rfl rfl
    | fail_if_no_progress with_reducible refine Keeps.more ?_ rfl (Nat.le_add_right _ _) rfl

theorem keeps_takeFree {s0 s : State} (h : Keeps s0 s) : Keeps s0 (State.takeFree s).2 :=
  h.step ⟨rfl, id, id, Nat.le_succ _, ⟨[], rfl⟩, fun _ => rfl, le_refl _, le_refl _, fun _ => rfl, fun h => ⟨h, rfl, rfl⟩⟩

/-- Free values are taken by a higher counter. -/
theorem keeps_free {s0 s : State} (h : Keeps s0 s) (n : Nat) (k : s.freeCnt ≤ n) : Keeps s0 { s with freeCnt := n } :=
  h.step ⟨rfl, id, id, k, ⟨[], rfl⟩, fun _ => rfl, le_refl _, le_refl _, fun _ => rfl, fun h => ⟨h, rfl, rfl⟩⟩

theorem keeps_takeFree_of {s0 s t : State} (h : Keeps s0 s) {n : Nat} (e : State.takeFree s = (n, t)) : Keeps s0 t := by
  have := keeps_takeFree h
  rw [e] at this
  exact this

theorem keeps_store {s0 s : State} (h : Keeps s0 s) (a : Nat) (bs : List Byte) : Keeps s0 (State.store s a bs) :=
  h.step ⟨rfl, fun w => memory_writeN_wf s.mem a bs w, id, le_refl _, ⟨[], rfl⟩, fun _ => rfl, le_refl _, le_refl _, fun _ => rfl,
    fun h => ⟨h, rfl, rfl⟩⟩

theorem keeps_bump {s0 s : State} (h : Keeps s0 s) (off n : Nat) : Keeps s0 (State.bump s off n) :=
  h.step ⟨rfl, id, fun w => tlm_set_wf s.tlm off _ w, le_refl _, ⟨[], rfl⟩, fun _ => rfl, le_refl _, le_refl _, fun _ => rfl,
    fun h => ⟨h, rfl, rfl⟩⟩

theorem keeps_linkDrop {s0 s : State} (h : Keeps s0 s) (j : Nat) (n : Nat) : Keeps s0 (State.linkDrop s j n) := by
  unfold State.linkDrop
  repeat' first
    | with_reducible assumption
    | intro _
    | with_reducible apply keeps_bump
    | with_reducible apply Keeps.fold
    | with_reducible apply Keeps.ite
    | dsimp only
    | split
    | fail_if_no_progress with_reducible refine Keeps.same ?_ rfl rfl
    | fail_if_no_progress with_reducible refine Keeps.more ?_ rfl (Nat.le_add_right _ _) rfl

theorem keeps_linkDisc {s0 s : State} (h : Keeps s0 s) (j : Nat) : Keeps s0 (State.linkDisc s j) := by
  unfold State.linkDisc
  repeat' first
    | with_reducible assumption
    | intro _
    | with_reducible apply keeps_bump
    | with_reducible apply Keeps.fold
    | with_reducible apply Keeps.ite
    | dsimp only
    | split
    | fail_if_no_progress with_reducible refine Keeps.same ?_ rfl rfl
    | fail_if_no_progress with_reducible refine Keeps.more ?_ rfl (Nat.le_add_right _ _) rfl

theorem keeps_linkAux {s0 s : State} (h : Keeps s0 s) (j : Nat) : Keeps s0 (State.linkAux s j) := by
  unfold State.linkAux
  repeat' first
    | with_reducible assumption
    | intro _
    | with_reducible apply keeps_bump
    | with_reducible apply Keeps.fold
    | with_reducible apply Keeps.ite
    | dsimp only
    | split
    | fail_if_no_progress with_reducible refine Keeps.same ?_ rfl rfl
    | fail_if_no_progress with_reducible refine Keeps.more ?_ rfl (Nat.le_add_right _ _) rfl

theorem keeps_runCount {s0 s : State} (h : Keeps s0 s) (r : Nat) (i : Nat) (n : Nat) : Keeps s0 (State.runCount s r i n) := by
  unfold State.runCount
  repeat' first
    | with_reducible assumption
    | intro _
    | with_reducible apply keeps_bump
    | with_reducible apply Keeps.fold
    | with_reducible apply Keeps.ite
    | dsimp only
    | split
    | fail_if_no_progress with_reducible refine Keeps.same ?_ rfl rfl
    | fail_if_no_progress with_reducible refine Keeps.more ?_ rfl (Nat.le_add_right _ _) rfl

theorem keeps_post {s0 s : State} (h : Keeps s0 s) (w : HostWrite) : Keeps s0 (State.post s w) :=
  h.step ⟨rfl, id, id, le_refl _, ⟨[w], rfl⟩, fun _ => rfl, le_refl _, le_refl _, fun _ => rfl, fun h => ⟨h, rfl, rfl⟩⟩

theorem keeps_message {s0 s : State} (h : Keeps s0 s) (v : Fin 16) : Keeps s0 (State.message s v) := by
  unfold State.message
  repeat' first
    | with_reducible assumption
    | intro _
    | with_reducible apply keeps_post
    | with_reducible apply Keeps.fold
    | with_reducible apply Keeps.ite
    | dsimp only
    | split
    | fail_if_no_progress with_reducible refine Keeps.same ?_ rfl rfl
    | fail_if_no_progress with_reducible refine Keeps.more ?_ rfl (Nat.le_add_right _ _) rfl

theorem keeps_msgDue {s0 s : State} (h : Keeps s0 s) (n : Fin 32) : Keeps s0 (State.msgDue s n) := by
  unfold State.msgDue
  repeat' first
    | with_reducible assumption
    | intro _
    | with_reducible apply keeps_modRing
    | with_reducible apply keeps_message
    | with_reducible apply Keeps.fold
    | with_reducible apply Keeps.ite
    | dsimp only
    | split
    | fail_if_no_progress with_reducible refine Keeps.same ?_ rfl rfl
    | fail_if_no_progress with_reducible refine Keeps.more ?_ rfl (Nat.le_add_right _ _) rfl

theorem keeps_shadow {s0 s : State} (h : Keeps s0 s) (n : Fin 32) (v : Nat) : Keeps s0 (State.shadow s n v) := by
  unfold State.shadow
  repeat' first
    | with_reducible assumption
    | intro _
    | with_reducible apply keeps_post
    | with_reducible apply Keeps.fold
    | with_reducible apply Keeps.ite
    | dsimp only
    | split
    | fail_if_no_progress with_reducible refine Keeps.same ?_ rfl rfl
    | fail_if_no_progress with_reducible refine Keeps.more ?_ rfl (Nat.le_add_right _ _) rfl

theorem keeps_writeEntry {s0 s : State} (h : Keeps s0 s) (n : Fin 32) (mk : D → Bool → HostWrite) : Keeps s0 (State.writeEntry s n mk) := by
  unfold State.writeEntry
  repeat' first
    | with_reducible assumption
    | intro _
    | with_reducible apply keeps_modRing
    | with_reducible apply keeps_post
    | with_reducible apply keeps_msgDue
    | with_reducible apply keeps_shadow
    | with_reducible apply Keeps.fold
    | with_reducible apply Keeps.ite
    | dsimp only
    | split
    | fail_if_no_progress with_reducible refine Keeps.same ?_ rfl rfl
    | fail_if_no_progress with_reducible refine Keeps.more ?_ rfl (Nat.le_add_right _ _) rfl

theorem keeps_useSeq {s0 s : State} (h : Keeps s0 s) : Keeps s0 (State.useSeq s) := by
  unfold State.useSeq
  repeat' first
    | with_reducible assumption
    | intro _
    | with_reducible apply Keeps.fold
    | with_reducible apply Keeps.ite
    | dsimp only
    | split
    | fail_if_no_progress with_reducible refine Keeps.same ?_ rfl rfl
    | fail_if_no_progress with_reducible refine Keeps.more ?_ rfl (Nat.le_add_right _ _) rfl

theorem keeps_putEvent {s0 s : State} (h : Keeps s0 s) (src : Nat) (code : Nat) (data : List Byte) : Keeps s0 (State.putEvent s src code data) := by
  unfold State.putEvent
  repeat' first
    | with_reducible assumption
    | intro _
    | with_reducible apply keeps_writeEntry
    | with_reducible apply keeps_useSeq
    | with_reducible apply Keeps.fold
    | with_reducible apply Keeps.ite
    | dsimp only
    | split
    | fail_if_no_progress with_reducible refine Keeps.same ?_ rfl rfl
    | fail_if_no_progress with_reducible refine Keeps.more ?_ rfl (Nat.le_add_right _ _) rfl

theorem keeps_loseEvent {s0 s : State} (h : Keeps s0 s) : Keeps s0 (State.loseEvent s) := by
  unfold State.loseEvent
  repeat' first
    | with_reducible assumption
    | intro _
    | with_reducible apply Keeps.fold
    | with_reducible apply Keeps.ite
    | dsimp only
    | split
    | fail_if_no_progress with_reducible refine Keeps.same ?_ rfl rfl
    | fail_if_no_progress with_reducible refine Keeps.more ?_ rfl (Nat.le_add_right _ _) rfl

theorem keeps_payOwed {s0 s : State} (h : Keeps s0 s) : Keeps s0 (State.payOwed s) := by
  unfold State.payOwed
  repeat' first
    | with_reducible assumption
    | intro _
    | with_reducible apply keeps_putEvent
    | with_reducible apply Keeps.fold
    | with_reducible apply Keeps.ite
    | dsimp only
    | split
    | fail_if_no_progress with_reducible refine Keeps.same ?_ rfl rfl
    | fail_if_no_progress with_reducible refine Keeps.more ?_ rfl (Nat.le_add_right _ _) rfl

theorem keeps_raise {s0 s : State} (h : Keeps s0 s) (src : Nat) (code : Nat) (data : List Byte) : Keeps s0 (State.raise s src code data) := by
  unfold State.raise
  repeat' first
    | with_reducible assumption
    | intro _
    | with_reducible apply keeps_useSeq
    | with_reducible apply keeps_putEvent
    | with_reducible apply keeps_loseEvent
    | with_reducible apply keeps_payOwed
    | with_reducible apply Keeps.fold
    | with_reducible apply Keeps.ite
    | dsimp only
    | split
    | fail_if_no_progress with_reducible refine Keeps.same ?_ rfl rfl
    | fail_if_no_progress with_reducible refine Keeps.more ?_ rfl (Nat.le_add_right _ _) rfl

theorem keeps_raiseDeferred {s0 s : State} (h : Keeps s0 s) (src : Nat) (code : Nat) (data : List Byte) : Keeps s0 (State.raiseDeferred s src code data) := by
  unfold State.raiseDeferred
  repeat' first
    | with_reducible assumption
    | intro _
    | with_reducible apply keeps_raise
    | with_reducible apply Keeps.fold
    | with_reducible apply Keeps.ite
    | dsimp only
    | split
    | fail_if_no_progress with_reducible refine Keeps.same ?_ rfl rfl
    | fail_if_no_progress with_reducible refine Keeps.more ?_ rfl (Nat.le_add_right _ _) rfl

theorem keeps_flushDeferred {s0 s : State} (h : Keeps s0 s) : Keeps s0 (State.flushDeferred s) := by
  unfold State.flushDeferred
  repeat' first
    | with_reducible assumption
    | intro _
    | with_reducible apply keeps_payOwed
    | with_reducible apply keeps_raise
    | with_reducible apply Keeps.fold
    | with_reducible apply Keeps.ite
    | dsimp only
    | split
    | fail_if_no_progress with_reducible refine Keeps.same ?_ rfl rfl
    | fail_if_no_progress with_reducible refine Keeps.more ?_ rfl (Nat.le_add_right _ _) rfl

theorem keeps_setRate {s0 s : State} (h : Keeps s0 s) (l : List RateRec) : Keeps s0 (State.setRate s l) := by
  unfold State.setRate
  repeat' first
    | with_reducible assumption
    | intro _
    | with_reducible apply Keeps.fold
    | with_reducible apply Keeps.ite
    | dsimp only
    | split
    | fail_if_no_progress with_reducible refine Keeps.same ?_ rfl rfl
    | fail_if_no_progress with_reducible refine Keeps.more ?_ rfl (Nat.le_add_right _ _) rfl

theorem keeps_raiseLimitedWith {s0 s : State} (h : Keeps s0 s) (src : Nat) (inst : Nat) (code : Nat) (aux : W) (amount : Nat) (tail : List Byte) : Keeps s0 (State.raiseLimitedWith s src inst code aux amount tail) := by
  unfold State.raiseLimitedWith
  repeat' first
    | with_reducible assumption
    | intro _
    | with_reducible apply keeps_raise
    | with_reducible apply keeps_setRate
    | with_reducible apply Keeps.fold
    | with_reducible apply Keeps.ite
    | dsimp only
    | split
    | fail_if_no_progress with_reducible refine Keeps.same ?_ rfl rfl
    | fail_if_no_progress with_reducible refine Keeps.more ?_ rfl (Nat.le_add_right _ _) rfl

theorem keeps_raiseLimited {s0 s : State} (h : Keeps s0 s) (src : Nat) (inst : Nat) (code : Nat) (aux : W) (amount : Nat) : Keeps s0 (State.raiseLimited s src inst code aux amount) := by
  unfold State.raiseLimited
  repeat' first
    | with_reducible assumption
    | intro _
    | with_reducible apply keeps_raiseLimitedWith
    | with_reducible apply Keeps.fold
    | with_reducible apply Keeps.ite
    | dsimp only
    | split
    | fail_if_no_progress with_reducible refine Keeps.same ?_ rfl rfl
    | fail_if_no_progress with_reducible refine Keeps.more ?_ rfl (Nat.le_add_right _ _) rfl

theorem keeps_rateExpire {s0 s : State} (h : Keeps s0 s) (src : Nat) (inst : Nat) : Keeps s0 (State.rateExpire s src inst) := by
  unfold State.rateExpire
  repeat' first
    | with_reducible assumption
    | intro _
    | with_reducible apply keeps_raise
    | with_reducible apply keeps_setRate
    | with_reducible apply Keeps.fold
    | with_reducible apply Keeps.ite
    | dsimp only
    | split
    | fail_if_no_progress with_reducible refine Keeps.same ?_ rfl rfl
    | fail_if_no_progress with_reducible refine Keeps.more ?_ rfl (Nat.le_add_right _ _) rfl

theorem keeps_complete {s0 s : State} (h : Keeps s0 s) (op : Nat) (e : CmdEntry) (c : Completion) : Keeps s0 (State.complete s op e c) := by
  unfold State.complete
  repeat' first
    | with_reducible assumption
    | intro _
    | with_reducible apply keeps_writeEntry
    | with_reducible apply Keeps.fold
    | with_reducible apply Keeps.ite
    | dsimp only
    | split
    | fail_if_no_progress with_reducible refine Keeps.same ?_ rfl rfl
    | fail_if_no_progress with_reducible refine Keeps.more ?_ rfl (Nat.le_add_right _ _) rfl

theorem keeps_drainHeld {s0 s : State} (h : Keeps s0 s) : Keeps s0 (State.drainHeld s) := by
  unfold State.drainHeld
  repeat' first
    | with_reducible assumption
    | intro _
    | with_reducible apply keeps_writeEntry
    | with_reducible apply Keeps.fold
    | with_reducible apply Keeps.ite
    | dsimp only
    | split
    | fail_if_no_progress with_reducible refine Keeps.same ?_ rfl rfl
    | fail_if_no_progress with_reducible refine Keeps.more ?_ rfl (Nat.le_add_right _ _) rfl

theorem keeps_hciOut {s0 s : State} (h : Keeps s0 s) (type : Nat) (packet : List Byte) : Keeps s0 (State.hciOut s type packet) := by
  unfold State.hciOut
  repeat' first
    | with_reducible assumption
    | intro _
    | with_reducible apply keeps_writeEntry
    | with_reducible apply Keeps.fold
    | with_reducible apply Keeps.ite
    | dsimp only
    | split
    | fail_if_no_progress with_reducible refine Keeps.same ?_ rfl rfl
    | fail_if_no_progress with_reducible refine Keeps.more ?_ rfl (Nat.le_add_right _ _) rfl

theorem keeps_drainHci {s0 s : State} (h : Keeps s0 s) : Keeps s0 (State.drainHci s) := by
  unfold State.drainHci
  repeat' first
    | with_reducible assumption
    | intro _
    | with_reducible apply keeps_writeEntry
    | with_reducible apply Keeps.fold
    | with_reducible apply Keeps.ite
    | dsimp only
    | split
    | fail_if_no_progress with_reducible refine Keeps.same ?_ rfl rfl
    | fail_if_no_progress with_reducible refine Keeps.more ?_ rfl (Nat.le_add_right _ _) rfl

end Sys2Proof.Laws
end

