-- ==== Sys2Proof/Laws/KeepsFlags.lean ====
section
/-!
SUPPORT. The operations and meanings of Machine/Flags.lean respect the relation of Keeps.lean.
-/

namespace Sys2Proof.Laws

open Sys2Proof Sys2Proof.Machine

set_option linter.unusedTactic false
set_option linter.unreachableTactic false
set_option linter.unusedVariables false

theorem keeps_setFlagN {s0 s : State} (h : Keeps s0 s) (k : Fin 83) (b : Nat) (n : Nat) : Keeps s0 (State.setFlagN s k b n) := by
  unfold State.setFlagN
  repeat' first
    | with_reducible assumption
    | intro _
    | with_reducible apply keeps_bump
    | with_reducible apply Keeps.fold
    | with_reducible apply Keeps.ite
    | dsimp only
    | split
    | fail_if_no_progress with_reducible refine Keeps.same ?_ rfl rfl
    | fail_if_no_progress with_reducible refine Keeps.more ?_ rfl (Nat.le_add_right _ _) rfl

theorem keeps_setFlag {s0 s : State} (h : Keeps s0 s) (k : Fin 83) (b : Nat) : Keeps s0 (State.setFlag s k b) := by
  unfold State.setFlag
  repeat' first
    | with_reducible assumption
    | intro _
    | with_reducible apply keeps_setFlagN
    | with_reducible apply Keeps.fold
    | with_reducible apply Keeps.ite
    | dsimp only
    | split
    | fail_if_no_progress with_reducible refine Keeps.same ?_ rfl rfl
    | fail_if_no_progress with_reducible refine Keeps.more ?_ rfl (Nat.le_add_right _ _) rfl

theorem keeps_clearFlag {s0 s : State} (h : Keeps s0 s) (k : Fin 83) (mask : W) : Keeps s0 (State.clearFlag s k mask) := by
  unfold State.clearFlag
  repeat' first
    | with_reducible assumption
    | intro _
    | with_reducible apply Keeps.fold
    | with_reducible apply Keeps.ite
    | dsimp only
    | split
    | fail_if_no_progress with_reducible refine Keeps.same ?_ rfl rfl
    | fail_if_no_progress with_reducible refine Keeps.more ?_ rfl (Nat.le_add_right _ _) rfl

theorem keeps_setFlagBits {s0 s : State} (h : Keeps s0 s) (k : Fin 83) (sets : W) : Keeps s0 (State.setFlagBits s k sets) := by
  unfold State.setFlagBits
  repeat' first
    | with_reducible assumption
    | intro _
    | with_reducible apply keeps_setFlag
    | with_reducible apply Keeps.fold
    | with_reducible apply Keeps.ite
    | dsimp only
    | split
    | fail_if_no_progress with_reducible refine Keeps.same ?_ rfl rfl
    | fail_if_no_progress with_reducible refine Keeps.more ?_ rfl (Nat.le_add_right _ _) rfl

end Sys2Proof.Laws
end

