-- ==== Sys2Proof/Laws/KeepsOperands.lean ====
section
/-!
SUPPORT. The operations and meanings of Machine/Operands.lean respect the relation of Keeps.lean.
-/

namespace Sys2Proof.Laws

open Sys2Proof Sys2Proof.Machine

set_option linter.unusedTactic false
set_option linter.unreachableTactic false
set_option linter.unusedVariables false

theorem keeps_fn_Answer_done {s0 s : State} (h : Keeps s0 s) : AKeeps s0 (Answer.done s) := by
  unfold Answer.done
  repeat' first
    | with_reducible assumption
    | intro _
    | with_reducible apply AKeeps.checked
    | with_reducible apply AKeeps.ok
    | with_reducible apply AKeeps.part
    | with_reducible apply AKeeps.fail
    | with_reducible apply AKeeps.wait
    | with_reducible apply AKeeps.done
    | with_reducible apply Keeps.fold
    | with_reducible apply Keeps.ite
    | with_reducible apply AKeeps.ite
    | dsimp only
    | split
    | fail_if_no_progress with_reducible refine Keeps.same ?_ rfl rfl
    | fail_if_no_progress with_reducible refine Keeps.more ?_ rfl (Nat.le_add_right _ _) rfl

theorem keeps_busError {s0 s : State} (h : Keeps s0 s) (who : Nat) (extra : List Byte) (addr : D) : Keeps s0 (State.busError s who extra addr) := by
  unfold State.busError
  repeat' first
    | with_reducible assumption
    | intro _
    | with_reducible apply keeps_raise
    | with_reducible apply Keeps.fold
    | with_reducible apply Keeps.ite
    | dsimp only
    | split
    | fail_if_no_progress with_reducible refine Keeps.same ?_ rfl rfl
    | fail_if_no_progress with_reducible refine Keeps.more ?_ rfl (Nat.le_add_right _ _) rfl

theorem keeps_finish {s0 s : State} (h : Keeps s0 s) (op : Nat) (c : CmdEntry) (st : Status) (detail : Nat) (result : List Byte) (out : Option (List Byte)) : Keeps s0 (State.finish s op c st detail result out) := by
  unfold State.finish
  repeat' first
    | with_reducible assumption
    | intro _
    | with_reducible apply keeps_post
    | with_reducible apply keeps_complete
    | with_reducible apply keeps_hciOut
    | with_reducible apply keeps_busError
    | with_reducible apply Keeps.fold
    | with_reducible apply Keeps.ite
    | dsimp only
    | split
    | fail_if_no_progress with_reducible refine Keeps.same ?_ rfl rfl
    | fail_if_no_progress with_reducible refine Keeps.more ?_ rfl (Nat.le_add_right _ _) rfl

theorem keeps_dropCmd {s0 s : State} (h : Keeps s0 s) (op : Nat) (id : Nat) : Keeps s0 (State.dropCmd s op id) := by
  unfold State.dropCmd
  repeat' first
    | with_reducible assumption
    | intro _
    | with_reducible apply Keeps.fold
    | with_reducible apply Keeps.ite
    | dsimp only
    | split
    | fail_if_no_progress with_reducible refine Keeps.same ?_ rfl rfl
    | fail_if_no_progress with_reducible refine Keeps.more ?_ rfl (Nat.le_add_right _ _) rfl

theorem keeps_addCmd {s0 s : State} (h : Keeps s0 s) (op : Nat) (ph : CmdPhase) (c : CmdEntry) : Keeps s0 (State.addCmd s op ph c) := by
  unfold State.addCmd
  repeat' first
    | with_reducible assumption
    | intro _
    | with_reducible apply keeps_dropCmd
    | with_reducible apply Keeps.fold
    | with_reducible apply Keeps.ite
    | dsimp only
    | split
    | fail_if_no_progress with_reducible refine Keeps.same ?_ rfl rfl
    | fail_if_no_progress with_reducible refine Keeps.more ?_ rfl (Nat.le_add_right _ _) rfl

theorem keeps_answer {s0 s : State} (h : Keeps s0 s) (op : Nat) (c : CmdEntry) (a : Answer) (k : AKeeps s0 a) :
    Keeps s0 (State.answer s op c a) := by
  unfold State.answer
  cases a with
  | ok t r o => exact keeps_finish (s0 := s0) k op c .ok 0 r o
  | part t st d r => exact keeps_finish (s0 := s0) k op c st d r none
  | fail st d => exact keeps_finish (s0 := s0) h op c st d [] none
  | wait t => exact keeps_addCmd (s0 := s0) k op .waiting c

theorem keeps_runCmd {s0 s : State} (h : Keeps s0 s) (op : Nat) (c : CmdEntry) (body : State → Answer)
    (k : ∀ u, Keeps s0 u → AKeeps s0 (body u)) : Keeps s0 (State.runCmd s op c body) := by
  unfold State.runCmd
  have d := keeps_dropCmd h op c.id
  split
  · exact h
  · split
    · exact keeps_finish d op c _ _ [] none
    · split
      · dsimp only
        split
        · exact keeps_finish d op c .state 0 [] none
        · split
          · exact keeps_finish (keeps_busError d _ _ _) op c .fault 0 [] none
          · exact keeps_answer d op c _ (k _ d)
      · exact keeps_addCmd h op .dispatched c

theorem keeps_finishSlot {s0 s : State} (h : Keeps s0 s) (op : Nat) (id : Nat) (st : Status) (detail : Nat) (result : List Byte) (out : Option (List Byte)) : Keeps s0 (State.finishSlot s op id st detail result out) := by
  unfold State.finishSlot
  repeat' first
    | with_reducible assumption
    | intro _
    | with_reducible apply keeps_finish
    | with_reducible apply keeps_dropCmd
    | with_reducible apply Keeps.fold
    | with_reducible apply Keeps.ite
    | dsimp only
    | split
    | fail_if_no_progress with_reducible refine Keeps.same ?_ rfl rfl
    | fail_if_no_progress with_reducible refine Keeps.more ?_ rfl (Nat.le_add_right _ _) rfl

end Sys2Proof.Laws
end

