-- ==== Sys2Proof/Laws/KeepsFabric.lean ====
section
/-!
SUPPORT. The operations and meanings of Machine/Fabric.lean respect the relation of Keeps.lean.
-/

namespace Sys2Proof.Laws

open Sys2Proof Sys2Proof.Machine

set_option linter.unusedTactic false
set_option linter.unreachableTactic false
set_option linter.unusedVariables false

theorem keeps_moveCtx {s0 s : State} (h : Keeps s0 s) (c : Fin 256) (new : CtxState) (reason : Nat) : Keeps s0 (State.moveCtx s c new reason) := by
  unfold State.moveCtx
  repeat' first
    | with_reducible assumption
    | intro _
    | with_reducible apply keeps_modCtx
    | with_reducible apply keeps_raise
    | with_reducible apply Keeps.fold
    | with_reducible apply Keeps.ite
    | dsimp only
    | split
    | fail_if_no_progress with_reducible refine Keeps.same ?_ rfl rfl
    | fail_if_no_progress with_reducible refine Keeps.more ?_ rfl (Nat.le_add_right _ _) rfl

theorem keeps_ctxsToAcquiring {s0 s : State} (h : Keeps s0 s) (r : Fin 32) (reason : Nat) : Keeps s0 (State.ctxsToAcquiring s r reason) := by
  unfold State.ctxsToAcquiring
  repeat' first
    | with_reducible assumption
    | intro _
    | with_reducible apply keeps_moveCtx
    | with_reducible apply Keeps.fold
    | with_reducible apply Keeps.ite
    | dsimp only
    | split
    | fail_if_no_progress with_reducible refine Keeps.same ?_ rfl rfl
    | fail_if_no_progress with_reducible refine Keeps.more ?_ rfl (Nat.le_add_right _ _) rfl

theorem keeps_lockEvent {s0 s : State} (h : Keeps s0 s) (r : Fin 32) (code : Nat) (extra : List Byte) : Keeps s0 (State.lockEvent s r code extra) := by
  unfold State.lockEvent
  repeat' first
    | with_reducible assumption
    | intro _
    | with_reducible apply keeps_raise
    | with_reducible apply Keeps.fold
    | with_reducible apply Keeps.ite
    | dsimp only
    | split
    | fail_if_no_progress with_reducible refine Keeps.same ?_ rfl rfl
    | fail_if_no_progress with_reducible refine Keeps.more ?_ rfl (Nat.le_add_right _ _) rfl

theorem keeps_loseLock {s0 s : State} (h : Keeps s0 s) (r : Fin 32) : Keeps s0 (State.loseLock s r) := by
  unfold State.loseLock
  repeat' first
    | with_reducible assumption
    | intro _
    | with_reducible apply keeps_modRun
    | with_reducible apply keeps_runCount
    | with_reducible apply keeps_lockEvent
    | with_reducible apply Keeps.fold
    | with_reducible apply Keeps.ite
    | dsimp only
    | split
    | fail_if_no_progress with_reducible refine Keeps.same ?_ rfl rfl
    | fail_if_no_progress with_reducible refine Keeps.more ?_ rfl (Nat.le_add_right _ _) rfl

theorem keeps_loseRdsSync {s0 s : State} (h : Keeps s0 s) (r : Fin 32) (mask : BitVec 4) : Keeps s0 (State.loseRdsSync s r mask) := by
  unfold State.loseRdsSync
  repeat' first
    | with_reducible assumption
    | intro _
    | with_reducible apply keeps_modFm
    | with_reducible apply keeps_lockEvent
    | with_reducible apply Keeps.fold
    | with_reducible apply Keeps.ite
    | dsimp only
    | split
    | fail_if_no_progress with_reducible refine Keeps.same ?_ rfl rfl
    | fail_if_no_progress with_reducible refine Keeps.more ?_ rfl (Nat.le_add_right _ _) rfl

theorem keeps_loseSuper {s0 s : State} (h : Keeps s0 s) (r : Fin 32) (sub : Fin 64) : Keeps s0 (State.loseSuper s r sub) := by
  unfold State.loseSuper
  repeat' first
    | with_reducible assumption
    | intro _
    | with_reducible apply keeps_modDab
    | with_reducible apply keeps_runCount
    | with_reducible apply keeps_lockEvent
    | with_reducible apply Keeps.fold
    | with_reducible apply Keeps.ite
    | dsimp only
    | split
    | fail_if_no_progress with_reducible refine Keeps.same ?_ rfl rfl
    | fail_if_no_progress with_reducible refine Keeps.more ?_ rfl (Nat.le_add_right _ _) rfl

theorem keeps_loseTiming {s0 s : State} (h : Keeps s0 s) (r : Fin 32) : Keeps s0 (State.loseTiming s r) := by
  unfold State.loseTiming
  repeat' first
    | with_reducible assumption
    | intro _
    | with_reducible apply keeps_modDab
    | with_reducible apply keeps_modDrm
    | with_reducible apply keeps_lockEvent
    | with_reducible apply Keeps.fold
    | with_reducible apply Keeps.ite
    | dsimp only
    | split
    | fail_if_no_progress with_reducible refine Keeps.same ?_ rfl rfl
    | fail_if_no_progress with_reducible refine Keeps.more ?_ rfl (Nat.le_add_right _ _) rfl

theorem keeps_restart {s0 s : State} (h : Keeps s0 s) (r : Fin 32) : Keeps s0 (State.restart s r) := by
  unfold State.restart
  repeat' first
    | with_reducible assumption
    | intro _
    | with_reducible apply keeps_modRun
    | with_reducible apply keeps_lockEvent
    | with_reducible apply keeps_loseLock
    | with_reducible apply keeps_loseRdsSync
    | with_reducible apply keeps_loseSuper
    | with_reducible apply keeps_loseTiming
    | with_reducible apply Keeps.fold
    | with_reducible apply Keeps.ite
    | dsimp only
    | split
    | fail_if_no_progress with_reducible refine Keeps.same ?_ rfl rfl
    | fail_if_no_progress with_reducible refine Keeps.more ?_ rfl (Nat.le_add_right _ _) rfl

theorem keeps_reacquire {s0 s : State} (h : Keeps s0 s) (r : Fin 32) : Keeps s0 (State.reacquire s r) := by
  unfold State.reacquire
  repeat' first
    | with_reducible assumption
    | intro _
    | with_reducible apply keeps_runCount
    | with_reducible apply keeps_ctxsToAcquiring
    | with_reducible apply keeps_restart
    | with_reducible apply Keeps.fold
    | with_reducible apply Keeps.ite
    | dsimp only
    | split
    | fail_if_no_progress with_reducible refine Keeps.same ?_ rfl rfl
    | fail_if_no_progress with_reducible refine Keeps.more ?_ rfl (Nat.le_add_right _ _) rfl

theorem keeps_gpFree {s0 s : State} (h : Keeps s0 s) (o : GpOwner) : Keeps s0 (State.gpFree s o) := by
  unfold State.gpFree
  repeat' first
    | with_reducible assumption
    | intro _
    | with_reducible apply Keeps.fold
    | with_reducible apply Keeps.ite
    | dsimp only
    | split
    | fail_if_no_progress with_reducible refine Keeps.same ?_ rfl rfl
    | fail_if_no_progress with_reducible refine Keeps.more ?_ rfl (Nat.le_add_right _ _) rfl

theorem keeps_writePiece {s0 s : State} (h : Keeps s0 s) (c : Fin 256) (u : Unit1) : Keeps s0 (State.writePiece s c u) := by
  unfold State.writePiece
  repeat' first
    | with_reducible assumption
    | intro _
    | with_reducible apply keeps_modRing
    | with_reducible apply keeps_post
    | with_reducible apply keeps_writeEntry
    | with_reducible apply Keeps.fold
    | with_reducible apply Keeps.ite
    | dsimp only
    | split
    | fail_if_no_progress with_reducible refine Keeps.same ?_ rfl rfl
    | fail_if_no_progress with_reducible refine Keeps.more ?_ rfl (Nat.le_add_right _ _) rfl

theorem keeps_pieceDone {s0 s : State} (h : Keeps s0 s) (c : Fin 256) (u : Unit1) : Keeps s0 (State.pieceDone s c u) := by
  unfold State.pieceDone
  repeat' first
    | with_reducible assumption
    | intro _
    | with_reducible apply keeps_modCtx
    | with_reducible apply keeps_gpFree
    | with_reducible apply Keeps.fold
    | with_reducible apply Keeps.ite
    | dsimp only
    | split
    | fail_if_no_progress with_reducible refine Keeps.same ?_ rfl rfl
    | fail_if_no_progress with_reducible refine Keeps.more ?_ rfl (Nat.le_add_right _ _) rfl

theorem keeps_drainStaged {s0 s : State} (h : Keeps s0 s) (k : Nat) (c : Fin 256) : Keeps s0 (State.drainStaged k s c) := by
  induction k generalizing s with
  | zero => exact h
  | succ k ih =>
    unfold State.drainStaged
    split
    · exact h
    · split
      · exact ih (keeps_pieceDone (keeps_writePiece h c _) c _)
      · exact h

theorem keeps_drainRing {s0 s : State} (h : Keeps s0 s) (n : Fin 32) : Keeps s0 (State.drainRing s n) := by
  unfold State.drainRing
  repeat' first
    | with_reducible assumption
    | intro _
    | with_reducible apply keeps_drainStaged
    | with_reducible apply Keeps.fold
    | with_reducible apply Keeps.ite
    | dsimp only
    | split
    | fail_if_no_progress with_reducible refine Keeps.same ?_ rfl rfl
    | fail_if_no_progress with_reducible refine Keeps.more ?_ rfl (Nat.le_add_right _ _) rfl

theorem keeps_deliver {s0 s : State} (h : Keeps s0 s) (c : Fin 256) (payload : List Byte) (ts : D) (tag : W) (lost : Nat) (disc : Bool) (mot : Option (BitVec 16)) : Keeps s0 (State.deliver s c payload ts tag lost disc mot) := by
  unfold State.deliver
  repeat' first
    | with_reducible assumption
    | intro _
    | with_reducible apply keeps_modCtx
    | with_reducible apply keeps_linkDrop
    | with_reducible apply keeps_linkDisc
    | with_reducible apply keeps_drainStaged
    | with_reducible apply Keeps.fold
    | with_reducible apply Keeps.ite
    | dsimp only
    | split
    | fail_if_no_progress with_reducible refine Keeps.same ?_ rfl rfl
    | fail_if_no_progress with_reducible refine Keeps.more ?_ rfl (Nat.le_add_right _ _) rfl

theorem keeps_loseUnits {s0 s : State} (h : Keeps s0 s) (c : Fin 256) (n : Nat) : Keeps s0 (State.loseUnits s c n) := by
  unfold State.loseUnits
  repeat' first
    | with_reducible assumption
    | intro _
    | with_reducible apply keeps_modCtx
    | with_reducible apply Keeps.fold
    | with_reducible apply Keeps.ite
    | dsimp only
    | split
    | fail_if_no_progress with_reducible refine Keeps.same ?_ rfl rfl
    | fail_if_no_progress with_reducible refine Keeps.more ?_ rfl (Nat.le_add_right _ _) rfl

theorem keeps_audioDisc {s0 s : State} (h : Keeps s0 s) (c : Fin 256) (ms : Nat) : Keeps s0 (State.audioDisc s c ms) := by
  unfold State.audioDisc
  repeat' first
    | with_reducible assumption
    | intro _
    | with_reducible apply keeps_modCtx
    | with_reducible apply keeps_raiseLimited
    | with_reducible apply Keeps.fold
    | with_reducible apply Keeps.ite
    | dsimp only
    | split
    | fail_if_no_progress with_reducible refine Keeps.same ?_ rfl rfl
    | fail_if_no_progress with_reducible refine Keeps.more ?_ rfl (Nat.le_add_right _ _) rfl

theorem keeps_audioLinkDisc {s0 s : State} (h : Keeps s0 s) (c : Fin 256) : Keeps s0 (State.audioLinkDisc s c) := by
  unfold State.audioLinkDisc
  repeat' first
    | with_reducible assumption
    | intro _
    | with_reducible apply keeps_linkDisc
    | with_reducible apply Keeps.fold
    | with_reducible apply Keeps.ite
    | dsimp only
    | split
    | fail_if_no_progress with_reducible refine Keeps.same ?_ rfl rfl
    | fail_if_no_progress with_reducible refine Keeps.more ?_ rfl (Nat.le_add_right _ _) rfl

theorem keeps_dropUnit {s0 s : State} (h : Keeps s0 s) (c : Fin 256) (j : Nat) : Keeps s0 (State.dropUnit s c j) := by
  unfold State.dropUnit
  repeat' first
    | with_reducible assumption
    | intro _
    | with_reducible apply keeps_modCtx
    | with_reducible apply keeps_linkDrop
    | with_reducible apply keeps_loseUnits
    | with_reducible apply Keeps.fold
    | with_reducible apply Keeps.ite
    | dsimp only
    | split
    | fail_if_no_progress with_reducible refine Keeps.same ?_ rfl rfl
    | fail_if_no_progress with_reducible refine Keeps.more ?_ rfl (Nat.le_add_right _ _) rfl

theorem keeps_audioToStream {s0 s : State} (h : Keeps s0 s) (c : Fin 256) (payload : List Byte) : Keeps s0 (State.audioToStream s c payload) := by
  unfold State.audioToStream
  repeat' first
    | with_reducible assumption
    | intro _
    | with_reducible apply keeps_modCtx
    | with_reducible apply keeps_modStream
    | with_reducible apply Keeps.fold
    | with_reducible apply Keeps.ite
    | dsimp only
    | split
    | fail_if_no_progress with_reducible refine Keeps.same ?_ rfl rfl
    | fail_if_no_progress with_reducible refine Keeps.more ?_ rfl (Nat.le_add_right _ _) rfl

theorem keeps_audioMarks {s0 s : State} (h : Keeps s0 s) (c : Fin 256) : Keeps s0 (State.audioMarks s c) := by
  unfold State.audioMarks
  repeat' first
    | with_reducible assumption
    | intro _
    | with_reducible apply keeps_modCtx
    | with_reducible apply keeps_audioDisc
    | with_reducible apply keeps_audioLinkDisc
    | with_reducible apply Keeps.fold
    | with_reducible apply Keeps.ite
    | dsimp only
    | split
    | fail_if_no_progress with_reducible refine Keeps.same ?_ rfl rfl
    | fail_if_no_progress with_reducible refine Keeps.more ?_ rfl (Nat.le_add_right _ _) rfl

theorem keeps_audioUnit {s0 s : State} (h : Keeps s0 s) (c : Fin 256) (frames : List (W × W)) : Keeps s0 (State.audioUnit s c frames) := by
  unfold State.audioUnit
  repeat' first
    | with_reducible assumption
    | intro _
    | with_reducible apply keeps_modCtx
    | with_reducible apply keeps_audioToStream
    | with_reducible apply Keeps.fold
    | with_reducible apply Keeps.ite
    | dsimp only
    | split
    | fail_if_no_progress with_reducible refine Keeps.same ?_ rfl rfl
    | fail_if_no_progress with_reducible refine Keeps.more ?_ rfl (Nat.le_add_right _ _) rfl

end Sys2Proof.Laws
end

