-- ==== Sys2Proof/Laws/KeepsFilter.lean ====
section
/-!
SUPPORT. The operations and meanings of Machine/Filter.lean respect the relation of Keeps.lean.
-/

namespace Sys2Proof.Laws

open Sys2Proof Sys2Proof.Machine

set_option linter.unusedTactic false
set_option linter.unreachableTactic false
set_option linter.unusedVariables false

theorem keeps_saturate {s0 s : State} (h : Keeps s0 s) (w : Fin 64) (sat : Vector Nat 7) : Keeps s0 (State.saturate s w sat) := by
  unfold State.saturate
  repeat' first
    | with_reducible assumption
    | intro _
    | with_reducible apply keeps_modWin
    | with_reducible apply keeps_raiseLimited
    | with_reducible apply keeps_setFlagN
    | with_reducible apply Keeps.fold
    | with_reducible apply Keeps.ite
    | dsimp only
    | split
    | fail_if_no_progress with_reducible refine Keeps.same ?_ rfl rfl
    | fail_if_no_progress with_reducible refine Keeps.more ?_ rfl (Nat.le_add_right _ _) rfl

theorem keeps_drainWin {s0 s : State} (h : Keeps s0 s) (w : Fin 64) : Keeps s0 (State.drainWin s w) := by
  unfold State.drainWin
  repeat' first
    | with_reducible assumption
    | intro _
    | with_reducible apply keeps_modWin
    | with_reducible apply keeps_saturate
    | with_reducible apply Keeps.fold
    | with_reducible apply Keeps.ite
    | dsimp only
    | split
    | fail_if_no_progress with_reducible refine Keeps.same ?_ rfl rfl
    | fail_if_no_progress with_reducible refine Keeps.more ?_ rfl (Nat.le_add_right _ _) rfl

theorem keeps_pushLeg {s0 s : State} (h : Keeps s0 s) (w : Fin 64) (p : Fin 4) (xs : List Smp) : Keeps s0 (State.pushLeg s w p xs) := by
  unfold State.pushLeg
  repeat' first
    | with_reducible assumption
    | intro _
    | with_reducible apply keeps_modWin
    | with_reducible apply keeps_saturate
    | with_reducible apply Keeps.fold
    | with_reducible apply Keeps.ite
    | dsimp only
    | split
    | fail_if_no_progress with_reducible refine Keeps.same ?_ rfl rfl
    | fail_if_no_progress with_reducible refine Keeps.more ?_ rfl (Nat.le_add_right _ _) rfl

theorem keeps_loseSamples {s0 s : State} (h : Keeps s0 s) (w : Fin 64) (p : Fin 4) (n : Nat) : Keeps s0 (State.loseSamples s w p n) := by
  unfold State.loseSamples
  repeat' first
    | with_reducible assumption
    | intro _
    | with_reducible apply keeps_linkDrop
    | with_reducible apply keeps_pushLeg
    | with_reducible apply Keeps.fold
    | with_reducible apply Keeps.ite
    | dsimp only
    | split
    | fail_if_no_progress with_reducible refine Keeps.same ?_ rfl rfl
    | fail_if_no_progress with_reducible refine Keeps.more ?_ rfl (Nat.le_add_right _ _) rfl

theorem keeps_feedLeg {s0 s : State} (h : Keeps s0 s) (w : Fin 64) (p : Fin 4) (xs : List RaceIQ) : Keeps s0 (State.feedLeg s w p xs) := by
  unfold State.feedLeg
  repeat' first
    | with_reducible assumption
    | intro _
    | with_reducible apply keeps_modWin
    | with_reducible apply keeps_modFm
    | with_reducible apply keeps_linkDrop
    | with_reducible apply keeps_pushLeg
    | with_reducible apply keeps_loseSamples
    | with_reducible apply Keeps.fold
    | with_reducible apply Keeps.ite
    | dsimp only
    | split
    | fail_if_no_progress with_reducible refine Keeps.same ?_ rfl rfl
    | fail_if_no_progress with_reducible refine Keeps.more ?_ rfl (Nat.le_add_right _ _) rfl

theorem keeps_feedWin {s0 s : State} (h : Keeps s0 s) (w : Fin 64) (b : RaceIn) : Keeps s0 (State.feedWin s w b) := by
  unfold State.feedWin
  repeat' first
    | with_reducible assumption
    | intro _
    | with_reducible apply keeps_modWin
    | with_reducible apply keeps_drainWin
    | with_reducible apply keeps_feedLeg
    | with_reducible apply Keeps.fold
    | with_reducible apply Keeps.ite
    | dsimp only
    | split
    | fail_if_no_progress with_reducible refine Keeps.same ?_ rfl rfl
    | fail_if_no_progress with_reducible refine Keeps.more ?_ rfl (Nat.le_add_right _ _) rfl

end Sys2Proof.Laws
end

