-- ==== Sys2Proof/Laws/KeepsSignals.lean ====
section
/-!
SUPPORT. The operations and meanings of Machine/Signals.lean respect the relation of Keeps.lean.
-/

namespace Sys2Proof.Laws

open Sys2Proof Sys2Proof.Machine

set_option linter.unusedTactic false
set_option linter.unreachableTactic false
set_option linter.unusedVariables false

theorem keeps_calAAbandon {s0 s : State} (h : Keeps s0 s) : Keeps s0 (State.calAAbandon s) := by
  unfold State.calAAbandon
  repeat' first
    | with_reducible assumption
    | intro _
    | with_reducible apply keeps_modHr
    | with_reducible apply keeps_setFlag
    | with_reducible apply keeps_finishSlot
    | with_reducible apply Keeps.fold
    | with_reducible apply Keeps.ite
    | dsimp only
    | split
    | fail_if_no_progress with_reducible refine Keeps.same ?_ rfl rfl
    | fail_if_no_progress with_reducible refine Keeps.more ?_ rfl (Nat.le_add_right _ _) rfl

theorem keeps_calAAbandonOn {s0 s : State} (h : Keeps s0 s) (n : Fin 4) : Keeps s0 (State.calAAbandonOn s n) := by
  unfold State.calAAbandonOn
  repeat' first
    | with_reducible assumption
    | intro _
    | with_reducible apply keeps_calAAbandon
    | with_reducible apply Keeps.fold
    | with_reducible apply Keeps.ite
    | dsimp only
    | split
    | fail_if_no_progress with_reducible refine Keeps.same ?_ rfl rfl
    | fail_if_no_progress with_reducible refine Keeps.more ?_ rfl (Nat.le_add_right _ _) rfl

theorem keeps_calBOver {s0 s : State} (h : Keeps s0 s) : Keeps s0 (State.calBOver s) := by
  unfold State.calBOver
  repeat' first
    | with_reducible assumption
    | intro _
    | with_reducible apply Keeps.fold
    | with_reducible apply Keeps.ite
    | dsimp only
    | split
    | fail_if_no_progress with_reducible refine Keeps.same ?_ rfl rfl
    | fail_if_no_progress with_reducible refine Keeps.more ?_ rfl (Nat.le_add_right _ _) rfl

theorem keeps_calBAbandon {s0 s : State} (h : Keeps s0 s) : Keeps s0 (State.calBAbandon s) := by
  unfold State.calBAbandon
  repeat' first
    | with_reducible assumption
    | intro _
    | with_reducible apply keeps_setFlag
    | with_reducible apply keeps_finishSlot
    | with_reducible apply keeps_calBOver
    | with_reducible apply Keeps.fold
    | with_reducible apply Keeps.ite
    | dsimp only
    | split
    | fail_if_no_progress with_reducible refine Keeps.same ?_ rfl rfl
    | fail_if_no_progress with_reducible refine Keeps.more ?_ rfl (Nat.le_add_right _ _) rfl

theorem keeps_legsStopped {s0 s : State} (h : Keeps s0 s) (n : Fin 4) : Keeps s0 (State.legsStopped s n) := by
  unfold State.legsStopped
  repeat' first
    | with_reducible assumption
    | intro _
    | with_reducible apply keeps_modWin
    | with_reducible apply keeps_raise
    | with_reducible apply Keeps.fold
    | with_reducible apply Keeps.ite
    | dsimp only
    | split
    | fail_if_no_progress with_reducible refine Keeps.same ?_ rfl rfl
    | fail_if_no_progress with_reducible refine Keeps.more ?_ rfl (Nat.le_add_right _ _) rfl

theorem keeps_legsReturned {s0 s : State} (h : Keeps s0 s) (n : Fin 4) : Keeps s0 (State.legsReturned s n) := by
  unfold State.legsReturned
  repeat' first
    | with_reducible assumption
    | intro _
    | with_reducible apply keeps_modWin
    | with_reducible apply keeps_raise
    | with_reducible apply Keeps.fold
    | with_reducible apply Keeps.ite
    | dsimp only
    | split
    | fail_if_no_progress with_reducible refine Keeps.same ?_ rfl rfl
    | fail_if_no_progress with_reducible refine Keeps.more ?_ rfl (Nat.le_add_right _ _) rfl

theorem keeps_stopHr {s0 s : State} (h : Keeps s0 s) (n : Fin 4) : Keeps s0 (State.stopHr s n) := by
  unfold State.stopHr
  repeat' first
    | with_reducible assumption
    | intro _
    | with_reducible apply keeps_modHr
    | with_reducible apply keeps_calAAbandonOn
    | with_reducible apply keeps_legsStopped
    | with_reducible apply Keeps.fold
    | with_reducible apply Keeps.ite
    | dsimp only
    | split
    | fail_if_no_progress with_reducible refine Keeps.same ?_ rfl rfl
    | fail_if_no_progress with_reducible refine Keeps.more ?_ rfl (Nat.le_add_right _ _) rfl

theorem keeps_feedsOff {s0 s : State} (h : Keeps s0 s) : Keeps s0 (State.feedsOff s) := by
  unfold State.feedsOff
  repeat' first
    | with_reducible assumption
    | intro _
    | with_reducible apply Keeps.fold
    | with_reducible apply Keeps.ite
    | dsimp only
    | split
    | fail_if_no_progress with_reducible refine Keeps.same ?_ rfl rfl
    | fail_if_no_progress with_reducible refine Keeps.more ?_ rfl (Nat.le_add_right _ _) rfl

theorem keeps_fadeAll {s0 s : State} (h : Keeps s0 s) : Keeps s0 (State.fadeAll s) := by
  unfold State.fadeAll
  repeat' first
    | with_reducible assumption
    | intro _
    | with_reducible apply Keeps.fold
    | with_reducible apply Keeps.ite
    | dsimp only
    | split
    | fail_if_no_progress with_reducible refine Keeps.same ?_ rfl rfl
    | fail_if_no_progress with_reducible refine Keeps.more ?_ rfl (Nat.le_add_right _ _) rfl

theorem keeps_radioEnd {s0 s : State} (h : Keeps s0 s) : Keeps s0 (State.radioEnd s) := by
  unfold State.radioEnd
  repeat' first
    | with_reducible assumption
    | intro _
    | with_reducible apply keeps_finishSlot
    | with_reducible apply Keeps.fold
    | with_reducible apply Keeps.ite
    | dsimp only
    | split
    | fail_if_no_progress with_reducible refine Keeps.same ?_ rfl rfl
    | fail_if_no_progress with_reducible refine Keeps.more ?_ rfl (Nat.le_add_right _ _) rfl

theorem keeps_dmaTryStart {s0 s : State} (h : Keeps s0 s) (n : Fin 16) : Keeps s0 (State.dmaTryStart s n) := by
  unfold State.dmaTryStart
  repeat' first
    | with_reducible assumption
    | intro _
    | with_reducible apply keeps_modCh
    | with_reducible apply Keeps.fold
    | with_reducible apply Keeps.ite
    | dsimp only
    | split
    | fail_if_no_progress with_reducible refine Keeps.same ?_ rfl rfl
    | fail_if_no_progress with_reducible refine Keeps.more ?_ rfl (Nat.le_add_right _ _) rfl

theorem keeps_dmaArb {s0 s : State} (h : Keeps s0 s) : Keeps s0 (State.dmaArb s) := by
  unfold State.dmaArb
  repeat' first
    | with_reducible assumption
    | intro _
    | with_reducible apply keeps_dmaTryStart
    | with_reducible apply Keeps.fold
    | with_reducible apply Keeps.ite
    | dsimp only
    | split
    | fail_if_no_progress with_reducible refine Keeps.same ?_ rfl rfl
    | fail_if_no_progress with_reducible refine Keeps.more ?_ rfl (Nat.le_add_right _ _) rfl

theorem keeps_dmaPulse {s0 s : State} (h : Keeps s0 s) (l : Fin 64) : Keeps s0 (State.dmaPulse s l) := by
  unfold State.dmaPulse
  repeat' first
    | with_reducible assumption
    | intro _
    | with_reducible apply keeps_modCh
    | with_reducible apply keeps_bump
    | with_reducible apply keeps_dmaArb
    | with_reducible apply Keeps.fold
    | with_reducible apply Keeps.ite
    | dsimp only
    | split
    | fail_if_no_progress with_reducible refine Keeps.same ?_ rfl rfl
    | fail_if_no_progress with_reducible refine Keeps.more ?_ rfl (Nat.le_add_right _ _) rfl

theorem keeps_queueEvlIn {s0 s : State} (h : Keeps s0 s) (q : Fin 12) : Keeps s0 (State.queueEvlIn s q) := by
  unfold State.queueEvlIn
  repeat' first
    | with_reducible assumption
    | intro _
    | with_reducible apply keeps_modQueue
    | with_reducible apply keeps_bump
    | with_reducible apply Keeps.fold
    | with_reducible apply Keeps.ite
    | dsimp only
    | split
    | fail_if_no_progress with_reducible refine Keeps.same ?_ rfl rfl
    | fail_if_no_progress with_reducible refine Keeps.more ?_ rfl (Nat.le_add_right _ _) rfl

theorem keeps_portPulse {s0 s : State} (h : Keeps s0 s) (p : Fin 4) : Keeps s0 (State.portPulse s p) := by
  unfold State.portPulse
  repeat' first
    | with_reducible assumption
    | intro _
    | with_reducible apply keeps_modPort
    | with_reducible apply Keeps.fold
    | with_reducible apply Keeps.ite
    | dsimp only
    | split
    | fail_if_no_progress with_reducible refine Keeps.same ?_ rfl rfl
    | fail_if_no_progress with_reducible refine Keeps.more ?_ rfl (Nat.le_add_right _ _) rfl

theorem keeps_evlPulse {s0 s : State} (h : Keeps s0 s) (l : Fin 64) : Keeps s0 (State.evlPulse s l) := by
  unfold State.evlPulse
  repeat' first
    | with_reducible assumption
    | intro _
    | with_reducible apply keeps_dmaPulse
    | with_reducible apply keeps_queueEvlIn
    | with_reducible apply keeps_portPulse
    | with_reducible apply Keeps.fold
    | with_reducible apply Keeps.ite
    | dsimp only
    | split
    | fail_if_no_progress with_reducible refine Keeps.same ?_ rfl rfl
    | fail_if_no_progress with_reducible refine Keeps.more ?_ rfl (Nat.le_add_right _ _) rfl

theorem keeps_twWait {s0 s : State} (h : Keeps s0 s) (p : Fin 2) (t : TwTxn) : Keeps s0 (State.twWait s p t) := by
  unfold State.twWait
  repeat' first
    | with_reducible assumption
    | intro _
    | with_reducible apply keeps_modTw
    | with_reducible apply Keeps.fold
    | with_reducible apply Keeps.ite
    | dsimp only
    | split
    | fail_if_no_progress with_reducible refine Keeps.same ?_ rfl rfl
    | fail_if_no_progress with_reducible refine Keeps.more ?_ rfl (Nat.le_add_right _ _) rfl

end Sys2Proof.Laws
end

