-- ==== Sys2Proof/Laws/KeepsFaultCore.lean ====
section
/-!
SUPPORT. The operations and meanings of Machine/FaultCore.lean respect the relation of Keeps.lean.
-/

namespace Sys2Proof.Laws

open Sys2Proof Sys2Proof.Machine

set_option linter.unusedTactic false
set_option linter.unreachableTactic false
set_option linter.unusedVariables false

theorem keeps_writeLog {s0 s : State} (h : Keeps s0 s) (code : Nat) (inst : Nat) (cls : Nat) (inj : Bool) : Keeps s0 (State.writeLog s code inst cls inj) := by
  unfold State.writeLog
  repeat' first
    | with_reducible assumption
    | intro _
    | with_reducible apply Keeps.fold
    | with_reducible apply Keeps.ite
    | dsimp only
    | split
    | fail_if_no_progress with_reducible refine Keeps.same ?_ rfl rfl
    | fail_if_no_progress with_reducible refine Keeps.more ?_ rfl (Nat.le_add_right _ _) rfl

theorem keeps_faultFlags {s0 s : State} (h : Keeps s0 s) (code : Nat) (cls : Nat) : Keeps s0 (State.faultFlags s code cls) := by
  unfold State.faultFlags
  repeat' first
    | with_reducible assumption
    | intro _
    | with_reducible apply keeps_setFlag
    | with_reducible apply Keeps.fold
    | with_reducible apply Keeps.ite
    | dsimp only
    | split
    | fail_if_no_progress with_reducible refine Keeps.same ?_ rfl rfl
    | fail_if_no_progress with_reducible refine Keeps.more ?_ rfl (Nat.le_add_right _ _) rfl

theorem keeps_logFault {s0 s : State} (h : Keeps s0 s) (code : Nat) (inst : Nat) (cls : Nat) (inj : Bool) : Keeps s0 (State.logFault s code inst cls inj) := by
  unfold State.logFault
  repeat' first
    | with_reducible assumption
    | intro _
    | with_reducible apply keeps_bump
    | with_reducible apply keeps_raise
    | with_reducible apply keeps_raiseLimited
    | with_reducible apply keeps_writeLog
    | with_reducible apply keeps_faultFlags
    | with_reducible apply Keeps.fold
    | with_reducible apply Keeps.ite
    | dsimp only
    | split
    | fail_if_no_progress with_reducible refine Keeps.same ?_ rfl rfl
    | fail_if_no_progress with_reducible refine Keeps.more ?_ rfl (Nat.le_add_right _ _) rfl

theorem keeps_safeRequest {s0 s : State} (h : Keeps s0 s) (code : Nat) : Keeps s0 (State.safeRequest s code) := by
  unfold State.safeRequest
  repeat' first
    | with_reducible assumption
    | intro _
    | with_reducible apply keeps_twWait
    | with_reducible apply Keeps.fold
    | with_reducible apply Keeps.ite
    | dsimp only
    | split
    | fail_if_no_progress with_reducible refine Keeps.same ?_ rfl rfl
    | fail_if_no_progress with_reducible refine Keeps.more ?_ rfl (Nat.le_add_right _ _) rfl

theorem keeps_enterSafe {s0 s : State} (h : Keeps s0 s) (code : Nat) : Keeps s0 (State.enterSafe s code) := by
  unfold State.enterSafe
  repeat' first
    | with_reducible assumption
    | intro _
    | with_reducible apply keeps_stopHr
    | with_reducible apply keeps_fadeAll
    | with_reducible apply keeps_radioEnd
    | with_reducible apply keeps_safeRequest
    | with_reducible apply Keeps.fold
    | with_reducible apply Keeps.ite
    | dsimp only
    | split
    | fail_if_no_progress with_reducible refine Keeps.same ?_ rfl rfl
    | fail_if_no_progress with_reducible refine Keeps.more ?_ rfl (Nat.le_add_right _ _) rfl

theorem keeps_faultRun {s0 s : State} (h : Keeps s0 s) (code : Nat) (inst : Nat) (inj : Bool) : Keeps s0 (State.faultRun s code inst inj) := by
  unfold State.faultRun
  repeat' first
    | with_reducible assumption
    | intro _
    | with_reducible apply keeps_logFault
    | with_reducible apply keeps_enterSafe
    | with_reducible apply Keeps.fold
    | with_reducible apply Keeps.ite
    | dsimp only
    | split
    | fail_if_no_progress with_reducible refine Keeps.same ?_ rfl rfl
    | fail_if_no_progress with_reducible refine Keeps.more ?_ rfl (Nat.le_add_right _ _) rfl

theorem keeps_faultEnds {s0 s : State} (h : Keeps s0 s) (code : Nat) : Keeps s0 (State.faultEnds s code) := by
  unfold State.faultEnds
  repeat' first
    | with_reducible assumption
    | intro _
    | with_reducible apply Keeps.fold
    | with_reducible apply Keeps.ite
    | dsimp only
    | split
    | fail_if_no_progress with_reducible refine Keeps.same ?_ rfl rfl
    | fail_if_no_progress with_reducible refine Keeps.more ?_ rfl (Nat.le_add_right _ _) rfl

end Sys2Proof.Laws
end

