-- ==== Sys2Proof/Laws/KeepsResets.lean ====
section
/-!
SUPPORT. The operations and meanings of Machine/Resets.lean respect the relation of Keeps.lean.
-/

namespace Sys2Proof.Laws

open Sys2Proof Sys2Proof.Machine

set_option linter.unusedTactic false
set_option linter.unreachableTactic false
set_option linter.unusedVariables false

theorem keeps_resetCold {s0 s : State} (h : Keeps s0 s) (rtc : Bool) : Keeps s0 (State.resetCold s rtc) :=
  h.step ⟨rfl, fun _ => rfl, fun _ => rfl, le_refl _, ⟨[], rfl⟩, fun _ => rfl, le_refl _, le_refl _, fun _ => rfl,
    fun h => ⟨h, rfl, rfl⟩⟩

theorem keeps_resetWarm {s0 s : State} (h : Keeps s0 s) (code : Nat) : Keeps s0 (State.resetWarm s code) :=
  h.step ⟨rfl, fun w => memory_filter_wf s.mem _ w, fun w => tlm_filter_wf s.tlm _ w, le_refl _, ⟨[], rfl⟩, fun _ => rfl, le_refl _,
    le_refl _, fun _ => rfl, fun h => ⟨h, rfl, rfl⟩⟩

end Sys2Proof.Laws
end

