-- ==== Sys2Proof/Laws/KeepsHostOps.lean ====
section
/-!
SUPPORT. The operations and meanings of Machine/HostOps.lean respect the relation of Keeps.lean.
-/

namespace Sys2Proof.Laws

open Sys2Proof Sys2Proof.Machine

set_option linter.unusedTactic false
set_option linter.unreachableTactic false
set_option linter.unusedVariables false

theorem keeps_ringOpens {s0 s : State} (h : Keeps s0 s) (n : Fin 32) : Keeps s0 (State.ringOpens s n) := by
  unfold State.ringOpens
  repeat' first
    | with_reducible assumption
    | intro _
    | with_reducible apply keeps_flushDeferred
    | with_reducible apply keeps_drainHeld
    | with_reducible apply keeps_drainHci
    | with_reducible apply keeps_drainRing
    | with_reducible apply Keeps.fold
    | with_reducible apply Keeps.ite
    | dsimp only
    | split
    | fail_if_no_progress with_reducible refine Keeps.same ?_ rfl rfl
    | fail_if_no_progress with_reducible refine Keeps.more ?_ rfl (Nat.le_add_right _ _) rfl

theorem keeps_writeRingCfg {s0 s : State} (h : Keeps s0 s) (n : Fin 32) (v : W) : Keeps s0 (State.writeRingCfg s n v) := by
  unfold State.writeRingCfg
  repeat' first
    | with_reducible assumption
    | intro _
    | with_reducible apply keeps_modRing
    | with_reducible apply keeps_ringOpens
    | with_reducible apply Keeps.fold
    | with_reducible apply Keeps.ite
    | dsimp only
    | split
    | fail_if_no_progress with_reducible refine Keeps.same ?_ rfl rfl
    | fail_if_no_progress with_reducible refine Keeps.more ?_ rfl (Nat.le_add_right _ _) rfl

theorem keeps_cutPartial {s0 s : State} (h : Keeps s0 s) (c : Fin 256) : Keeps s0 (State.cutPartial s c) := by
  unfold State.cutPartial
  repeat' first
    | with_reducible assumption
    | intro _
    | with_reducible apply keeps_modCtx
    | with_reducible apply keeps_linkDrop
    | with_reducible apply keeps_gpFree
    | with_reducible apply Keeps.fold
    | with_reducible apply Keeps.ite
    | dsimp only
    | split
    | fail_if_no_progress with_reducible refine Keeps.same ?_ rfl rfl
    | fail_if_no_progress with_reducible refine Keeps.more ?_ rfl (Nat.le_add_right _ _) rfl

theorem keeps_ringEnOff {s0 s : State} (h : Keeps s0 s) : Keeps s0 (State.ringEnOff s) := by
  unfold State.ringEnOff
  repeat' first
    | with_reducible assumption
    | intro _
    | with_reducible apply keeps_cutPartial
    | with_reducible apply Keeps.fold
    | with_reducible apply Keeps.ite
    | dsimp only
    | split
    | fail_if_no_progress with_reducible refine Keeps.same ?_ rfl rfl
    | fail_if_no_progress with_reducible refine Keeps.more ?_ rfl (Nat.le_add_right _ _) rfl

theorem keeps_ringEnOn {s0 s : State} (h : Keeps s0 s) : Keeps s0 (State.ringEnOn s) := by
  unfold State.ringEnOn
  repeat' first
    | with_reducible assumption
    | intro _
    | with_reducible apply keeps_ringOpens
    | with_reducible apply Keeps.fold
    | with_reducible apply Keeps.ite
    | dsimp only
    | split
    | fail_if_no_progress with_reducible refine Keeps.same ?_ rfl rfl
    | fail_if_no_progress with_reducible refine Keeps.more ?_ rfl (Nat.le_add_right _ _) rfl

theorem keeps_linkLost {s0 s : State} (h : Keeps s0 s) : Keeps s0 (State.linkLost s) := by
  unfold State.linkLost
  repeat' first
    | with_reducible assumption
    | intro _
    | with_reducible apply keeps_ringEnOff
    | with_reducible apply Keeps.fold
    | with_reducible apply Keeps.ite
    | dsimp only
    | split
    | fail_if_no_progress with_reducible refine Keeps.same ?_ rfl rfl
    | fail_if_no_progress with_reducible refine Keeps.more ?_ rfl (Nat.le_add_right _ _) rfl

theorem keeps_coalAfresh {s0 s : State} (h : Keeps s0 s) (v : Fin 16) : Keeps s0 (State.coalAfresh s v) := by
  unfold State.coalAfresh
  repeat' first
    | with_reducible assumption
    | intro _
    | with_reducible apply Keeps.fold
    | with_reducible apply Keeps.ite
    | dsimp only
    | split
    | fail_if_no_progress with_reducible refine Keeps.same ?_ rfl rfl
    | fail_if_no_progress with_reducible refine Keeps.more ?_ rfl (Nat.le_add_right _ _) rfl

theorem keeps_sendPending {s0 s : State} (h : Keeps s0 s) (v : Fin 16) : Keeps s0 (State.sendPending s v) := by
  unfold State.sendPending
  repeat' first
    | with_reducible assumption
    | intro _
    | with_reducible apply keeps_message
    | with_reducible apply keeps_coalAfresh
    | with_reducible apply Keeps.fold
    | with_reducible apply Keeps.ite
    | dsimp only
    | split
    | fail_if_no_progress with_reducible refine Keeps.same ?_ rfl rfl
    | fail_if_no_progress with_reducible refine Keeps.more ?_ rfl (Nat.le_add_right _ _) rfl

theorem keeps_unmask {s0 s : State} (h : Keeps s0 s) (v : Fin 16) : Keeps s0 (State.unmask s v) := by
  unfold State.unmask
  repeat' first
    | with_reducible assumption
    | intro _
    | with_reducible apply keeps_sendPending
    | with_reducible apply Keeps.fold
    | with_reducible apply Keeps.ite
    | dsimp only
    | split
    | fail_if_no_progress with_reducible refine Keeps.same ?_ rfl rfl
    | fail_if_no_progress with_reducible refine Keeps.more ?_ rfl (Nat.le_add_right _ _) rfl

theorem keeps_writeMsix {s0 s : State} (h : Keeps s0 s) (v : Fin 16) (word : Nat) (x : W) : Keeps s0 (State.writeMsix s v word x) := by
  unfold State.writeMsix
  repeat' first
    | with_reducible assumption
    | intro _
    | with_reducible apply keeps_unmask
    | with_reducible apply Keeps.fold
    | with_reducible apply Keeps.ite
    | dsimp only
    | split
    | fail_if_no_progress with_reducible refine Keeps.same ?_ rfl rfl
    | fail_if_no_progress with_reducible refine Keeps.more ?_ rfl (Nat.le_add_right _ _) rfl

theorem keeps_dmaFollow {s0 s : State} (h : Keeps s0 s) (n : Fin 16) : Keeps s0 (State.dmaFollow s n) := by
  unfold State.dmaFollow
  repeat' first
    | with_reducible assumption
    | intro _
    | with_reducible apply keeps_modCh
    | with_reducible apply keeps_setFlag
    | with_reducible apply Keeps.fold
    | with_reducible apply Keeps.ite
    | dsimp only
    | split
    | fail_if_no_progress with_reducible refine Keeps.same ?_ rfl rfl
    | fail_if_no_progress with_reducible refine Keeps.more ?_ rfl (Nat.le_add_right _ _) rfl

theorem keeps_dmaRing {s0 s : State} (h : Keeps s0 s) (n : Fin 16) : Keeps s0 (State.dmaRing s n) := by
  unfold State.dmaRing
  repeat' first
    | with_reducible assumption
    | intro _
    | with_reducible apply keeps_modCh
    | with_reducible apply keeps_dmaFollow
    | with_reducible apply Keeps.fold
    | with_reducible apply Keeps.ite
    | dsimp only
    | split
    | fail_if_no_progress with_reducible refine Keeps.same ?_ rfl rfl
    | fail_if_no_progress with_reducible refine Keeps.more ?_ rfl (Nat.le_add_right _ _) rfl

theorem keeps_dmaDoorbells {s0 s : State} (h : Keeps s0 s) (v : W) : Keeps s0 (State.dmaDoorbells s v) := by
  unfold State.dmaDoorbells
  repeat' first
    | with_reducible assumption
    | intro _
    | with_reducible apply keeps_dmaRing
    | with_reducible apply Keeps.fold
    | with_reducible apply Keeps.ite
    | dsimp only
    | split
    | fail_if_no_progress with_reducible refine Keeps.same ?_ rfl rfl
    | fail_if_no_progress with_reducible refine Keeps.more ?_ rfl (Nat.le_add_right _ _) rfl

end Sys2Proof.Laws
end

