-- ==== Sys2Proof/Laws/KeepsRegisters.lean ====
section
/-!
SUPPORT. The operations and meanings of Machine/Registers.lean respect the relation of Keeps.lean.
-/

namespace Sys2Proof.Laws

open Sys2Proof Sys2Proof.Machine

set_option linter.unusedTactic false
set_option linter.unreachableTactic false
set_option linter.unusedVariables false

theorem keeps_writeHost {s0 s : State} (h : Keeps s0 s) (off : Nat) (v : W) : Keeps s0 (State.writeHost s off v) := by
  unfold State.writeHost
  repeat' first
    | with_reducible assumption
    | intro _
    | with_reducible apply keeps_modRing
    | with_reducible apply keeps_writeRingCfg
    | with_reducible apply keeps_ringEnOff
    | with_reducible apply keeps_ringEnOn
    | with_reducible apply keeps_writeMsix
    | with_reducible apply Keeps.fold
    | with_reducible apply Keeps.ite
    | dsimp only
    | split
    | fail_if_no_progress with_reducible refine Keeps.same ?_ rfl rfl
    | fail_if_no_progress with_reducible refine Keeps.more ?_ rfl (Nat.le_add_right _ _) rfl

theorem keeps_writeEvt {s0 s : State} (h : Keeps s0 s) (off : Nat) (v : W) : Keeps s0 (State.writeEvt s off v) := by
  unfold State.writeEvt
  repeat' first
    | with_reducible assumption
    | intro _
    | with_reducible apply Keeps.fold
    | with_reducible apply Keeps.ite
    | dsimp only
    | split
    | fail_if_no_progress with_reducible refine Keeps.same ?_ rfl rfl
    | fail_if_no_progress with_reducible refine Keeps.more ?_ rfl (Nat.le_add_right _ _) rfl

theorem keeps_writePwr {s0 s : State} (h : Keeps s0 s) (off : Nat) (v : W) (mirror : Bool) : Keeps s0 (State.writePwr s off v mirror) := by
  unfold State.writePwr
  refine Keeps.ite ?_ (Keeps.ite ?_ (Keeps.ite ?_ (Keeps.ite ?_ h)))
  · exact keeps_clearFlag h _ _
  · exact Keeps.ite (Keeps.same h rfl rfl) h
  · exact Keeps.same h rfl rfl
  · split
    · exact h
    · exact Keeps.same h rfl rfl

theorem keeps_writeCap {s0 s : State} (h : Keeps s0 s) (off : Nat) (v : W) : Keeps s0 (State.writeCap s off v) := by
  unfold State.writeCap
  repeat' first
    | with_reducible assumption
    | intro _
    | with_reducible apply keeps_modHr
    | with_reducible apply keeps_modFeed
    | with_reducible apply keeps_clearFlag
    | with_reducible apply Keeps.fold
    | with_reducible apply Keeps.ite
    | dsimp only
    | split
    | fail_if_no_progress with_reducible refine Keeps.same ?_ rfl rfl
    | fail_if_no_progress with_reducible refine Keeps.more ?_ rfl (Nat.le_add_right _ _) rfl

theorem keeps_writeWin {s0 s : State} (h : Keeps s0 s) (off : Nat) (v : W) : Keeps s0 (State.writeWin s off v) := by
  unfold State.writeWin
  repeat' first
    | with_reducible assumption
    | intro _
    | with_reducible apply keeps_clearFlag
    | with_reducible apply Keeps.fold
    | with_reducible apply Keeps.ite
    | dsimp only
    | split
    | fail_if_no_progress with_reducible refine Keeps.same ?_ rfl rfl
    | fail_if_no_progress with_reducible refine Keeps.more ?_ rfl (Nat.le_add_right _ _) rfl

theorem keeps_writeAcc {s0 s : State} (h : Keeps s0 s) (off : Nat) (v : W) : Keeps s0 (State.writeAcc s off v) := by
  unfold State.writeAcc
  repeat' first
    | with_reducible assumption
    | intro _
    | with_reducible apply keeps_modSynth
    | with_reducible apply keeps_clearFlag
    | with_reducible apply Keeps.fold
    | with_reducible apply Keeps.ite
    | dsimp only
    | split
    | fail_if_no_progress with_reducible refine Keeps.same ?_ rfl rfl
    | fail_if_no_progress with_reducible refine Keeps.more ?_ rfl (Nat.le_add_right _ _) rfl

theorem keeps_writeTw {s0 s : State} (h : Keeps s0 s) (p : Fin 2) (r : Nat) (v : W) : Keeps s0 (State.writeTw s p r v) := by
  unfold State.writeTw
  repeat' first
    | with_reducible assumption
    | intro _
    | with_reducible apply keeps_modTw
    | with_reducible apply keeps_clearFlag
    | with_reducible apply Keeps.fold
    | with_reducible apply Keeps.ite
    | dsimp only
    | split
    | fail_if_no_progress with_reducible refine Keeps.same ?_ rfl rfl
    | fail_if_no_progress with_reducible refine Keeps.more ?_ rfl (Nat.le_add_right _ _) rfl

theorem keeps_writeSafCtl {s0 s : State} (h : Keeps s0 s) (v : W) : Keeps s0 (State.writeSafCtl s v) := by
  unfold State.writeSafCtl
  repeat' first
    | with_reducible assumption
    | intro _
    | with_reducible apply Keeps.fold
    | with_reducible apply Keeps.ite
    | dsimp only
    | split
    | fail_if_no_progress with_reducible refine Keeps.same ?_ rfl rfl
    | fail_if_no_progress with_reducible refine Keeps.more ?_ rfl (Nat.le_add_right _ _) rfl

theorem keeps_writeSaf {s0 s : State} (h : Keeps s0 s) (off : Nat) (v : W) : Keeps s0 (State.writeSaf s off v) := by
  unfold State.writeSaf
  repeat' first
    | with_reducible assumption
    | intro _
    | with_reducible apply keeps_clearFlag
    | with_reducible apply keeps_faultRun
    | with_reducible apply keeps_resetWarm
    | with_reducible apply keeps_writeSafCtl
    | with_reducible apply Keeps.fold
    | with_reducible apply Keeps.ite
    | dsimp only
    | split
    | fail_if_no_progress with_reducible refine Keeps.same ?_ rfl rfl
    | fail_if_no_progress with_reducible refine Keeps.more ?_ rfl (Nat.le_add_right _ _) rfl

theorem keeps_writeReg {s0 s : State} (h : Keeps s0 s) (off : Nat) (v : W) (mirror : Bool) : Keeps s0 (State.writeReg s off v mirror) := by
  unfold State.writeReg
  repeat' first
    | with_reducible assumption
    | intro _
    | with_reducible apply keeps_clearFlag
    | with_reducible apply keeps_dmaDoorbells
    | with_reducible apply keeps_writeHost
    | with_reducible apply keeps_writeEvt
    | with_reducible apply keeps_writePwr
    | with_reducible apply keeps_writeCap
    | with_reducible apply keeps_writeWin
    | with_reducible apply keeps_writeAcc
    | with_reducible apply keeps_writeTw
    | with_reducible apply keeps_writeSaf
    | with_reducible apply Keeps.fold
    | with_reducible apply Keeps.ite
    | dsimp only
    | split
    | fail_if_no_progress with_reducible refine Keeps.same ?_ rfl rfl
    | fail_if_no_progress with_reducible refine Keeps.more ?_ rfl (Nat.le_add_right _ _) rfl

theorem keeps_accessWrite {s0 s : State} (h : Keeps s0 s) (off : Nat) (v : W) (mirror : Bool) : Keeps s0 (State.accessWrite s off v mirror) := by
  unfold State.accessWrite
  repeat' first
    | with_reducible assumption
    | intro _
    | with_reducible apply keeps_writeReg
    | with_reducible apply Keeps.fold
    | with_reducible apply Keeps.ite
    | dsimp only
    | split
    | fail_if_no_progress with_reducible refine Keeps.same ?_ rfl rfl
    | fail_if_no_progress with_reducible refine Keeps.more ?_ rfl (Nat.le_add_right _ _) rfl

end Sys2Proof.Laws
end

