-- ==== Sys2Proof/Laws/KeepsPowerOps.lean ====
section
/-!
SUPPORT. The operations and meanings of Machine/PowerOps.lean respect the relation of Keeps.lean.
-/

namespace Sys2Proof.Laws

open Sys2Proof Sys2Proof.Machine

set_option linter.unusedTactic false
set_option linter.unreachableTactic false
set_option linter.unusedVariables false

theorem keeps_modPwr {s0 s : State} (h : Keeps s0 s) (f : PwrBlk → PwrBlk) : Keeps s0 (State.modPwr s f) := by
  unfold State.modPwr
  repeat' first
    | with_reducible assumption
    | intro _
    | with_reducible apply Keeps.fold
    | with_reducible apply Keeps.ite
    | dsimp only
    | split
    | fail_if_no_progress with_reducible refine Keeps.same ?_ rfl rfl
    | fail_if_no_progress with_reducible refine Keeps.more ?_ rfl (Nat.le_add_right _ _) rfl

theorem keeps_levelEvent {s0 s : State} (h : Keeps s0 s) (code : Nat) (old : BitVec 2) : Keeps s0 (State.levelEvent s code old) := by
  unfold State.levelEvent
  repeat' first
    | with_reducible assumption
    | intro _
    | with_reducible apply keeps_raise
    | with_reducible apply Keeps.fold
    | with_reducible apply Keeps.ite
    | dsimp only
    | split
    | fail_if_no_progress with_reducible refine Keeps.same ?_ rfl rfl
    | fail_if_no_progress with_reducible refine Keeps.more ?_ rfl (Nat.le_add_right _ _) rfl

theorem keeps_sleepEvent {s0 s : State} (h : Keeps s0 s) (code : Fin 3) (asked : Nat) (kind : Nat) (inst : Nat) (point : Nat) : Keeps s0 (State.sleepEvent s code asked kind inst point) := by
  unfold State.sleepEvent
  repeat' first
    | with_reducible assumption
    | intro _
    | with_reducible apply keeps_bump
    | with_reducible apply keeps_raise
    | with_reducible apply keeps_setFlag
    | with_reducible apply Keeps.fold
    | with_reducible apply Keeps.ite
    | dsimp only
    | split
    | fail_if_no_progress with_reducible refine Keeps.same ?_ rfl rfl
    | fail_if_no_progress with_reducible refine Keeps.more ?_ rfl (Nat.le_add_right _ _) rfl

theorem keeps_requestVolt {s0 s : State} (h : Keeps s0 s) (mv : Nat) : Keeps s0 (State.requestVolt s mv) := by
  unfold State.requestVolt
  repeat' first
    | with_reducible assumption
    | intro _
    | with_reducible apply keeps_twWait
    | with_reducible apply keeps_modPwr
    | with_reducible apply Keeps.fold
    | with_reducible apply Keeps.ite
    | dsimp only
    | split
    | fail_if_no_progress with_reducible refine Keeps.same ?_ rfl rfl
    | fail_if_no_progress with_reducible refine Keeps.more ?_ rfl (Nat.le_add_right _ _) rfl

theorem keeps_requestMask {s0 s : State} (h : Keeps s0 s) (mask : Nat) : Keeps s0 (State.requestMask s mask) := by
  unfold State.requestMask
  repeat' first
    | with_reducible assumption
    | intro _
    | with_reducible apply keeps_twWait
    | with_reducible apply keeps_modPwr
    | with_reducible apply Keeps.fold
    | with_reducible apply Keeps.ite
    | dsimp only
    | split
    | fail_if_no_progress with_reducible refine Keeps.same ?_ rfl rfl
    | fail_if_no_progress with_reducible refine Keeps.more ?_ rfl (Nat.le_add_right _ _) rfl

theorem keeps_lowerLevel {s0 s : State} (h : Keeps s0 s) (t : BitVec 2) (slot : Option Nat) : Keeps s0 (State.lowerLevel s t slot) := by
  unfold State.lowerLevel
  repeat' first
    | with_reducible assumption
    | intro _
    | with_reducible apply keeps_modPwr
    | with_reducible apply keeps_levelEvent
    | with_reducible apply keeps_requestVolt
    | with_reducible apply Keeps.fold
    | with_reducible apply Keeps.ite
    | dsimp only
    | split
    | fail_if_no_progress with_reducible refine Keeps.same ?_ rfl rfl
    | fail_if_no_progress with_reducible refine Keeps.more ?_ rfl (Nat.le_add_right _ _) rfl

theorem keeps_raiseLevel {s0 s : State} (h : Keeps s0 s) (t : BitVec 2) (slot : Option Nat) : Keeps s0 (State.raiseLevel s t slot) := by
  unfold State.raiseLevel
  repeat' first
    | with_reducible assumption
    | intro _
    | with_reducible apply keeps_modPwr
    | with_reducible apply keeps_requestVolt
    | with_reducible apply Keeps.fold
    | with_reducible apply Keeps.ite
    | dsimp only
    | split
    | fail_if_no_progress with_reducible refine Keeps.same ?_ rfl rfl
    | fail_if_no_progress with_reducible refine Keeps.more ?_ rfl (Nat.le_add_right _ _) rfl

theorem keeps_changeLevel {s0 s : State} (h : Keeps s0 s) (t : BitVec 2) (slot : Option Nat) : Keeps s0 (State.changeLevel s t slot) := by
  unfold State.changeLevel
  repeat' first
    | with_reducible assumption
    | intro _
    | with_reducible apply keeps_finishSlot
    | with_reducible apply keeps_modPwr
    | with_reducible apply keeps_lowerLevel
    | with_reducible apply keeps_raiseLevel
    | with_reducible apply Keeps.fold
    | with_reducible apply Keeps.ite
    | dsimp only
    | split
    | fail_if_no_progress with_reducible refine Keeps.same ?_ rfl rfl
    | fail_if_no_progress with_reducible refine Keeps.more ?_ rfl (Nat.le_add_right _ _) rfl

theorem keeps_applyCap {s0 s : State} (h : Keeps s0 s) : Keeps s0 (State.applyCap s) := by
  unfold State.applyCap
  repeat' first
    | with_reducible assumption
    | intro _
    | with_reducible apply keeps_modHr
    | with_reducible apply keeps_setFlag
    | with_reducible apply keeps_stopHr
    | with_reducible apply keeps_modPwr
    | with_reducible apply keeps_levelEvent
    | with_reducible apply keeps_changeLevel
    | with_reducible apply Keeps.fold
    | with_reducible apply Keeps.ite
    | dsimp only
    | split
    | fail_if_no_progress with_reducible refine Keeps.same ?_ rfl rfl
    | fail_if_no_progress with_reducible refine Keeps.more ?_ rfl (Nat.le_add_right _ _) rfl

theorem keeps_transEnds {s0 s : State} (h : Keeps s0 s) : Keeps s0 (State.transEnds s) := by
  unfold State.transEnds
  repeat' first
    | with_reducible assumption
    | intro _
    | with_reducible apply keeps_modPwr
    | with_reducible apply keeps_changeLevel
    | with_reducible apply keeps_applyCap
    | with_reducible apply Keeps.fold
    | with_reducible apply Keeps.ite
    | dsimp only
    | split
    | fail_if_no_progress with_reducible refine Keeps.same ?_ rfl rfl
    | fail_if_no_progress with_reducible refine Keeps.more ?_ rfl (Nat.le_add_right _ _) rfl

theorem keeps_endLevelCmd {s0 s : State} (h : Keeps s0 s) (slot : Option Nat) (st : Status) : Keeps s0 (State.endLevelCmd s slot st) := by
  unfold State.endLevelCmd
  repeat' first
    | with_reducible assumption
    | intro _
    | with_reducible apply keeps_finishSlot
    | with_reducible apply Keeps.fold
    | with_reducible apply Keeps.ite
    | dsimp only
    | split
    | fail_if_no_progress with_reducible refine Keeps.same ?_ rfl rfl
    | fail_if_no_progress with_reducible refine Keeps.more ?_ rfl (Nat.le_add_right _ _) rfl

theorem keeps_levelAcked {s0 s : State} (h : Keeps s0 s) (t : BitVec 2) (up : Bool) (slot : Option Nat) : Keeps s0 (State.levelAcked s t up slot) := by
  unfold State.levelAcked
  repeat' first
    | with_reducible assumption
    | intro _
    | with_reducible apply keeps_modPwr
    | with_reducible apply keeps_levelEvent
    | with_reducible apply keeps_transEnds
    | with_reducible apply keeps_endLevelCmd
    | with_reducible apply Keeps.fold
    | with_reducible apply Keeps.ite
    | dsimp only
    | split
    | fail_if_no_progress with_reducible refine Keeps.same ?_ rfl rfl
    | fail_if_no_progress with_reducible refine Keeps.more ?_ rfl (Nat.le_add_right _ _) rfl

theorem keeps_levelFailed {s0 s : State} (h : Keeps s0 s) (up : Bool) (slot : Option Nat) : Keeps s0 (State.levelFailed s up slot) := by
  unfold State.levelFailed
  repeat' first
    | with_reducible assumption
    | intro _
    | with_reducible apply keeps_modPwr
    | with_reducible apply keeps_applyCap
    | with_reducible apply keeps_endLevelCmd
    | with_reducible apply Keeps.fold
    | with_reducible apply Keeps.ite
    | dsimp only
    | split
    | fail_if_no_progress with_reducible refine Keeps.same ?_ rfl rfl
    | fail_if_no_progress with_reducible refine Keeps.more ?_ rfl (Nat.le_add_right _ _) rfl

theorem keeps_dmaHold {s0 s : State} (h : Keeps s0 s) : Keeps s0 (State.dmaHold s) := by
  unfold State.dmaHold
  repeat' first
    | with_reducible assumption
    | intro _
    | with_reducible apply Keeps.fold
    | with_reducible apply Keeps.ite
    | dsimp only
    | split
    | fail_if_no_progress with_reducible refine Keeps.same ?_ rfl rfl
    | fail_if_no_progress with_reducible refine Keeps.more ?_ rfl (Nat.le_add_right _ _) rfl

theorem keeps_dmaReleaseCh {s0 s : State} (h : Keeps s0 s) (n : Fin 16) : Keeps s0 (State.dmaReleaseCh s n) := by
  unfold State.dmaReleaseCh
  repeat' first
    | with_reducible assumption
    | intro _
    | with_reducible apply keeps_modCh
    | with_reducible apply keeps_dmaFollow
    | with_reducible apply Keeps.fold
    | with_reducible apply Keeps.ite
    | dsimp only
    | split
    | fail_if_no_progress with_reducible refine Keeps.same ?_ rfl rfl
    | fail_if_no_progress with_reducible refine Keeps.more ?_ rfl (Nat.le_add_right _ _) rfl

theorem keeps_dmaRelease {s0 s : State} (h : Keeps s0 s) : Keeps s0 (State.dmaRelease s) := by
  unfold State.dmaRelease
  repeat' first
    | with_reducible assumption
    | intro _
    | with_reducible apply keeps_dmaArb
    | with_reducible apply keeps_dmaReleaseCh
    | with_reducible apply Keeps.fold
    | with_reducible apply Keeps.ite
    | dsimp only
    | split
    | fail_if_no_progress with_reducible refine Keeps.same ?_ rfl rfl
    | fail_if_no_progress with_reducible refine Keeps.more ?_ rfl (Nat.le_add_right _ _) rfl

theorem keeps_endSleepCmd {s0 s : State} (h : Keeps s0 s) (slot : Option Nat) (st : Status) (detail : Nat) (result : List Byte) : Keeps s0 (State.endSleepCmd s slot st detail result) := by
  unfold State.endSleepCmd
  repeat' first
    | with_reducible assumption
    | intro _
    | with_reducible apply keeps_finishSlot
    | with_reducible apply Keeps.fold
    | with_reducible apply Keeps.ite
    | dsimp only
    | split
    | fail_if_no_progress with_reducible refine Keeps.same ?_ rfl rfl
    | fail_if_no_progress with_reducible refine Keeps.more ?_ rfl (Nat.le_add_right _ _) rfl

theorem keeps_refuseEntry {s0 s : State} (h : Keeps s0 s) (t : BitVec 3) (kind : Nat) (inst : Nat) : Keeps s0 (State.refuseEntry s t kind inst) := by
  unfold State.refuseEntry
  repeat' first
    | with_reducible assumption
    | intro _
    | with_reducible apply keeps_bump
    | with_reducible apply keeps_modPwr
    | with_reducible apply keeps_sleepEvent
    | with_reducible apply Keeps.fold
    | with_reducible apply Keeps.ite
    | dsimp only
    | split
    | fail_if_no_progress with_reducible refine Keeps.same ?_ rfl rfl
    | fail_if_no_progress with_reducible refine Keeps.more ?_ rfl (Nat.le_add_right _ _) rfl

theorem keeps_beginEntry {s0 s : State} (h : Keeps s0 s) (t : BitVec 3) (slot : Option Nat) : Keeps s0 (State.beginEntry s t slot) := by
  unfold State.beginEntry
  repeat' first
    | with_reducible assumption
    | intro _
    | with_reducible apply keeps_modPwr
    | with_reducible apply keeps_dmaHold
    | with_reducible apply Keeps.fold
    | with_reducible apply Keeps.ite
    | dsimp only
    | split
    | fail_if_no_progress with_reducible refine Keeps.same ?_ rfl rfl
    | fail_if_no_progress with_reducible refine Keeps.more ?_ rfl (Nat.le_add_right _ _) rfl

theorem keeps_unwind {s0 s : State} (h : Keeps s0 s) : Keeps s0 (State.unwind s) := by
  unfold State.unwind
  repeat' first
    | with_reducible assumption
    | intro _
    | with_reducible apply keeps_modPwr
    | with_reducible apply keeps_dmaRelease
    | with_reducible apply Keeps.fold
    | with_reducible apply Keeps.ite
    | dsimp only
    | split
    | fail_if_no_progress with_reducible refine Keeps.same ?_ rfl rfl
    | fail_if_no_progress with_reducible refine Keeps.more ?_ rfl (Nat.le_add_right _ _) rfl

theorem keeps_endUndone {s0 s : State} (h : Keeps s0 s) (u : Undone) (superseded : Bool) : Keeps s0 (State.endUndone s u superseded) := by
  unfold State.endUndone
  repeat' first
    | with_reducible assumption
    | intro _
    | with_reducible apply keeps_modPwr
    | with_reducible apply keeps_sleepEvent
    | with_reducible apply keeps_endSleepCmd
    | with_reducible apply Keeps.fold
    | with_reducible apply Keeps.ite
    | dsimp only
    | split
    | fail_if_no_progress with_reducible refine Keeps.same ?_ rfl rfl
    | fail_if_no_progress with_reducible refine Keeps.more ?_ rfl (Nat.le_add_right _ _) rfl

theorem keeps_settleUndone {s0 s : State} (h : Keeps s0 s) (superseded : Bool) : Keeps s0 (State.settleUndone s superseded) := by
  unfold State.settleUndone
  repeat' first
    | with_reducible assumption
    | intro _
    | with_reducible apply keeps_endUndone
    | with_reducible apply Keeps.fold
    | with_reducible apply Keeps.ite
    | dsimp only
    | split
    | fail_if_no_progress with_reducible refine Keeps.same ?_ rfl rfl
    | fail_if_no_progress with_reducible refine Keeps.more ?_ rfl (Nat.le_add_right _ _) rfl

theorem keeps_abandonEntry {s0 s : State} (h : Keeps s0 s) (doorbell : Bool) (superseded : Bool) : Keeps s0 (State.abandonEntry s doorbell superseded) := by
  unfold State.abandonEntry
  repeat' first
    | with_reducible assumption
    | intro _
    | with_reducible apply keeps_modPwr
    | with_reducible apply keeps_transEnds
    | with_reducible apply keeps_unwind
    | with_reducible apply keeps_endUndone
    | with_reducible apply Keeps.fold
    | with_reducible apply Keeps.ite
    | dsimp only
    | split
    | fail_if_no_progress with_reducible refine Keeps.same ?_ rfl rfl
    | fail_if_no_progress with_reducible refine Keeps.more ?_ rfl (Nat.le_add_right _ _) rfl

theorem keeps_loseSram {s0 s : State} (h : Keeps s0 s) : Keeps s0 (State.loseSram s) :=
  h.step ⟨rfl, fun w => memory_filter_wf s.mem _ w, id, le_refl _, ⟨[], rfl⟩, fun _ => rfl, le_refl _, le_refl _, fun _ => rfl,
    fun h => ⟨h, rfl, rfl⟩⟩

theorem keeps_pllStop {s0 s : State} (h : Keeps s0 s) : Keeps s0 (State.pllStop s) := by
  unfold State.pllStop
  repeat' first
    | with_reducible assumption
    | intro _
    | with_reducible apply Keeps.fold
    | with_reducible apply Keeps.ite
    | dsimp only
    | split
    | fail_if_no_progress with_reducible refine Keeps.same ?_ rfl rfl
    | fail_if_no_progress with_reducible refine Keeps.more ?_ rfl (Nat.le_add_right _ _) rfl

theorem keeps_sleepIn {s0 s : State} (h : Keeps s0 s) (st : PwrSt) (slot : Option Nat) : Keeps s0 (State.sleepIn s st slot) := by
  unfold State.sleepIn
  repeat' first
    | with_reducible assumption
    | intro _
    | with_reducible apply keeps_modPwr
    | with_reducible apply Keeps.fold
    | with_reducible apply Keeps.ite
    | dsimp only
    | split
    | fail_if_no_progress with_reducible refine Keeps.same ?_ rfl rfl
    | fail_if_no_progress with_reducible refine Keeps.more ?_ rfl (Nat.le_add_right _ _) rfl

theorem keeps_deepIn {s0 s : State} (h : Keeps s0 s) (t : BitVec 3) (slot : Option Nat) : Keeps s0 (State.deepIn s t slot) := by
  unfold State.deepIn
  repeat' first
    | with_reducible assumption
    | intro _
    | with_reducible apply keeps_feedsOff
    | with_reducible apply keeps_radioEnd
    | with_reducible apply keeps_linkLost
    | with_reducible apply keeps_modPwr
    | with_reducible apply keeps_requestVolt
    | with_reducible apply keeps_endSleepCmd
    | with_reducible apply keeps_loseSram
    | with_reducible apply keeps_pllStop
    | with_reducible apply keeps_sleepIn
    | with_reducible apply Keeps.fold
    | with_reducible apply Keeps.ite
    | dsimp only
    | split
    | fail_if_no_progress with_reducible refine Keeps.same ?_ rfl rfl
    | fail_if_no_progress with_reducible refine Keeps.more ?_ rfl (Nat.le_add_right _ _) rfl

theorem keeps_entryStep {s0 s : State} (h : Keeps s0 s) : Keeps s0 (State.entryStep s) := by
  unfold State.entryStep
  repeat' first
    | with_reducible assumption
    | intro _
    | with_reducible apply keeps_calBAbandon
    | with_reducible apply keeps_modPwr
    | with_reducible apply keeps_sleepIn
    | with_reducible apply keeps_deepIn
    | with_reducible apply Keeps.fold
    | with_reducible apply Keeps.ite
    | dsimp only
    | split
    | fail_if_no_progress with_reducible refine Keeps.same ?_ rfl rfl
    | fail_if_no_progress with_reducible refine Keeps.more ?_ rfl (Nat.le_add_right _ _) rfl

theorem keeps_woke {s0 s : State} (h : Keeps s0 s) (src : Nat) (code : Nat) (ms : Nat) : Keeps s0 (State.woke s src code ms) := by
  unfold State.woke
  repeat' first
    | with_reducible assumption
    | intro _
    | with_reducible apply keeps_raise
    | with_reducible apply keeps_modPwr
    | with_reducible apply Keeps.fold
    | with_reducible apply Keeps.ite
    | dsimp only
    | split
    | fail_if_no_progress with_reducible refine Keeps.same ?_ rfl rfl
    | fail_if_no_progress with_reducible refine Keeps.more ?_ rfl (Nat.le_add_right _ _) rfl

theorem keeps_applyHeld {s0 s : State} (h : Keeps s0 s) : Keeps s0 (State.applyHeld s) := by
  unfold State.applyHeld
  repeat' first
    | with_reducible assumption
    | intro _
    | with_reducible apply keeps_accessWrite
    | with_reducible apply keeps_modPwr
    | with_reducible apply Keeps.fold
    | with_reducible apply Keeps.ite
    | dsimp only
    | split
    | fail_if_no_progress with_reducible refine Keeps.same ?_ rfl rfl
    | fail_if_no_progress with_reducible refine Keeps.more ?_ rfl (Nat.le_add_right _ _) rfl

theorem keeps_lightWake {s0 s : State} (h : Keeps s0 s) (code : Nat) : Keeps s0 (State.lightWake s code) := by
  unfold State.lightWake
  repeat' first
    | with_reducible assumption
    | intro _
    | with_reducible apply keeps_modPwr
    | with_reducible apply keeps_transEnds
    | with_reducible apply keeps_dmaRelease
    | with_reducible apply keeps_endSleepCmd
    | with_reducible apply keeps_woke
    | with_reducible apply keeps_applyHeld
    | with_reducible apply Keeps.fold
    | with_reducible apply Keeps.ite
    | dsimp only
    | split
    | fail_if_no_progress with_reducible refine Keeps.same ?_ rfl rfl
    | fail_if_no_progress with_reducible refine Keeps.more ?_ rfl (Nat.le_add_right _ _) rfl

theorem keeps_hostWake {s0 s : State} (h : Keeps s0 s) : Keeps s0 (State.hostWake s) := by
  unfold State.hostWake
  repeat' first
    | with_reducible assumption
    | intro _
    | with_reducible apply keeps_twWait
    | with_reducible apply Keeps.fold
    | with_reducible apply Keeps.ite
    | dsimp only
    | split
    | fail_if_no_progress with_reducible refine Keeps.same ?_ rfl rfl
    | fail_if_no_progress with_reducible refine Keeps.more ?_ rfl (Nat.le_add_right _ _) rfl

theorem keeps_watchWake {s0 s : State} (h : Keeps s0 s) (code : Nat) : Keeps s0 (State.watchWake s code) := by
  unfold State.watchWake
  repeat' first
    | with_reducible assumption
    | intro _
    | with_reducible apply keeps_modPwr
    | with_reducible apply keeps_requestVolt
    | with_reducible apply Keeps.fold
    | with_reducible apply Keeps.ite
    | dsimp only
    | split
    | fail_if_no_progress with_reducible refine Keeps.same ?_ rfl rfl
    | fail_if_no_progress with_reducible refine Keeps.more ?_ rfl (Nat.le_add_right _ _) rfl

theorem keeps_rtcReport {s0 s : State} (h : Keeps s0 s) : Keeps s0 (State.rtcReport s) := by
  unfold State.rtcReport
  repeat' first
    | with_reducible assumption
    | intro _
    | with_reducible apply keeps_raise
    | with_reducible apply keeps_setFlag
    | with_reducible apply Keeps.fold
    | with_reducible apply Keeps.ite
    | dsimp only
    | split
    | fail_if_no_progress with_reducible refine Keeps.same ?_ rfl rfl
    | fail_if_no_progress with_reducible refine Keeps.more ?_ rfl (Nat.le_add_right _ _) rfl

theorem keeps_enterRun {s0 s : State} (h : Keeps s0 s) (code : Nat) : Keeps s0 (State.enterRun s code) := by
  unfold State.enterRun
  repeat' first
    | with_reducible assumption
    | intro _
    | with_reducible apply keeps_modPwr
    | with_reducible apply keeps_levelEvent
    | with_reducible apply keeps_woke
    | with_reducible apply keeps_hostWake
    | with_reducible apply keeps_rtcReport
    | with_reducible apply Keeps.fold
    | with_reducible apply Keeps.ite
    | dsimp only
    | split
    | fail_if_no_progress with_reducible refine Keeps.same ?_ rfl rfl
    | fail_if_no_progress with_reducible refine Keeps.more ?_ rfl (Nat.le_add_right _ _) rfl

theorem keeps_wakeCheck {s0 s : State} (h : Keeps s0 s) : Keeps s0 (State.wakeCheck s) := by
  unfold State.wakeCheck
  repeat' first
    | with_reducible assumption
    | intro _
    | with_reducible apply keeps_enterRun
    | with_reducible apply Keeps.fold
    | with_reducible apply Keeps.ite
    | dsimp only
    | split
    | fail_if_no_progress with_reducible refine Keeps.same ?_ rfl rfl
    | fail_if_no_progress with_reducible refine Keeps.more ?_ rfl (Nat.le_add_right _ _) rfl

theorem keeps_stowWake {s0 s : State} (h : Keeps s0 s) (code : Nat) : Keeps s0 (State.stowWake s code) := by
  unfold State.stowWake
  repeat' first
    | with_reducible assumption
    | intro _
    | with_reducible apply keeps_modPwr
    | with_reducible apply Keeps.fold
    | with_reducible apply Keeps.ite
    | dsimp only
    | split
    | fail_if_no_progress with_reducible refine Keeps.same ?_ rfl rfl
    | fail_if_no_progress with_reducible refine Keeps.more ?_ rfl (Nat.le_add_right _ _) rfl

theorem keeps_offWake {s0 s : State} (h : Keeps s0 s) : Keeps s0 (State.offWake s) := by
  unfold State.offWake
  repeat' first
    | with_reducible assumption
    | intro _
    | with_reducible apply keeps_resetCold
    | with_reducible apply keeps_modPwr
    | with_reducible apply Keeps.fold
    | with_reducible apply Keeps.ite
    | dsimp only
    | split
    | fail_if_no_progress with_reducible refine Keeps.same ?_ rfl rfl
    | fail_if_no_progress with_reducible refine Keeps.more ?_ rfl (Nat.le_add_right _ _) rfl

theorem keeps_hvRetry {s0 s : State} (h : Keeps s0 s) (code : Nat) : Keeps s0 (State.hvRetry s code) := by
  unfold State.hvRetry
  repeat' first
    | with_reducible assumption
    | intro _
    | with_reducible apply keeps_modPwr
    | with_reducible apply keeps_stowWake
    | with_reducible apply Keeps.fold
    | with_reducible apply Keeps.ite
    | dsimp only
    | split
    | fail_if_no_progress with_reducible refine Keeps.same ?_ rfl rfl
    | fail_if_no_progress with_reducible refine Keeps.more ?_ rfl (Nat.le_add_right _ _) rfl

theorem keeps_wakeUp {s0 s : State} (h : Keeps s0 s) (code : Nat) : Keeps s0 (State.wakeUp s code) := by
  unfold State.wakeUp
  repeat' first
    | with_reducible assumption
    | intro _
    | with_reducible apply keeps_modPwr
    | with_reducible apply keeps_abandonEntry
    | with_reducible apply keeps_lightWake
    | with_reducible apply keeps_watchWake
    | with_reducible apply keeps_stowWake
    | with_reducible apply keeps_offWake
    | with_reducible apply keeps_hvRetry
    | with_reducible apply Keeps.fold
    | with_reducible apply Keeps.ite
    | dsimp only
    | split
    | fail_if_no_progress with_reducible refine Keeps.same ?_ rfl rfl
    | fail_if_no_progress with_reducible refine Keeps.more ?_ rfl (Nat.le_add_right _ _) rfl

theorem keeps_fault {s0 s : State} (h : Keeps s0 s) (code : Nat) (inst : Nat) (inj : Bool) : Keeps s0 (State.fault s code inst inj) := by
  unfold State.fault
  repeat' first
    | with_reducible assumption
    | intro _
    | with_reducible apply keeps_faultRun
    | with_reducible apply keeps_wakeUp
    | with_reducible apply Keeps.fold
    | with_reducible apply Keeps.ite
    | dsimp only
    | split
    | fail_if_no_progress with_reducible refine Keeps.same ?_ rfl rfl
    | fail_if_no_progress with_reducible refine Keeps.more ?_ rfl (Nat.le_add_right _ _) rfl

theorem keeps_watchReached {s0 s : State} (h : Keeps s0 s) : Keeps s0 (State.watchReached s) := by
  unfold State.watchReached
  repeat' first
    | with_reducible assumption
    | intro _
    | with_reducible apply keeps_watchWake
    | with_reducible apply Keeps.fold
    | with_reducible apply Keeps.ite
    | dsimp only
    | split
    | fail_if_no_progress with_reducible refine Keeps.same ?_ rfl rfl
    | fail_if_no_progress with_reducible refine Keeps.more ?_ rfl (Nat.le_add_right _ _) rfl

theorem keeps_pmicAcked {s0 s : State} (h : Keeps s0 s) : Keeps s0 (State.pmicAcked s) := by
  unfold State.pmicAcked
  repeat' first
    | with_reducible assumption
    | intro _
    | with_reducible apply keeps_modPwr
    | with_reducible apply keeps_levelEvent
    | with_reducible apply keeps_levelAcked
    | with_reducible apply keeps_wakeCheck
    | with_reducible apply keeps_watchReached
    | with_reducible apply Keeps.fold
    | with_reducible apply Keeps.ite
    | dsimp only
    | split
    | fail_if_no_progress with_reducible refine Keeps.same ?_ rfl rfl
    | fail_if_no_progress with_reducible refine Keeps.more ?_ rfl (Nat.le_add_right _ _) rfl

theorem keeps_stepMissed {s0 s : State} (h : Keeps s0 s) (r : ReadyReport) (inst : Nat) : Keeps s0 (State.stepMissed s r inst) := by
  unfold State.stepMissed
  repeat' first
    | with_reducible assumption
    | intro _
    | with_reducible apply keeps_faultRun
    | with_reducible apply keeps_modPwr
    | with_reducible apply Keeps.fold
    | with_reducible apply Keeps.ite
    | dsimp only
    | split
    | fail_if_no_progress with_reducible refine Keeps.same ?_ rfl rfl
    | fail_if_no_progress with_reducible refine Keeps.more ?_ rfl (Nat.le_add_right _ _) rfl

theorem keeps_voltStops {s0 s : State} (h : Keeps s0 s) : Keeps s0 (State.voltStops s) := by
  unfold State.voltStops
  repeat' first
    | with_reducible assumption
    | intro _
    | with_reducible apply keeps_modTw
    | with_reducible apply Keeps.fold
    | with_reducible apply Keeps.ite
    | dsimp only
    | split
    | fail_if_no_progress with_reducible refine Keeps.same ?_ rfl rfl
    | fail_if_no_progress with_reducible refine Keeps.more ?_ rfl (Nat.le_add_right _ _) rfl

theorem keeps_pmicFailed {s0 s : State} (h : Keeps s0 s) : Keeps s0 (State.pmicFailed s) := by
  unfold State.pmicFailed
  repeat' first
    | with_reducible assumption
    | intro _
    | with_reducible apply keeps_setFlag
    | with_reducible apply keeps_modPwr
    | with_reducible apply keeps_levelEvent
    | with_reducible apply keeps_levelFailed
    | with_reducible apply keeps_watchReached
    | with_reducible apply keeps_stepMissed
    | with_reducible apply keeps_voltStops
    | with_reducible apply Keeps.fold
    | with_reducible apply Keeps.ite
    | dsimp only
    | split
    | fail_if_no_progress with_reducible refine Keeps.same ?_ rfl rfl
    | fail_if_no_progress with_reducible refine Keeps.more ?_ rfl (Nat.le_add_right _ _) rfl

theorem keeps_supersedePending {s0 s : State} (h : Keeps s0 s) : Keeps s0 (State.supersedePending s) := by
  unfold State.supersedePending
  repeat' first
    | with_reducible assumption
    | intro _
    | with_reducible apply keeps_modPwr
    | with_reducible apply keeps_sleepEvent
    | with_reducible apply keeps_endLevelCmd
    | with_reducible apply keeps_endSleepCmd
    | with_reducible apply Keeps.fold
    | with_reducible apply Keeps.ite
    | dsimp only
    | split
    | fail_if_no_progress with_reducible refine Keeps.same ?_ rfl rfl
    | fail_if_no_progress with_reducible refine Keeps.more ?_ rfl (Nat.le_add_right _ _) rfl

theorem keeps_setPending {s0 s : State} (h : Keeps s0 s) (p : PendingTarget) : Keeps s0 (State.setPending s p) := by
  unfold State.setPending
  repeat' first
    | with_reducible assumption
    | intro _
    | with_reducible apply keeps_modPwr
    | with_reducible apply keeps_supersedePending
    | with_reducible apply Keeps.fold
    | with_reducible apply Keeps.ite
    | dsimp only
    | split
    | fail_if_no_progress with_reducible refine Keeps.same ?_ rfl rfl
    | fail_if_no_progress with_reducible refine Keeps.more ?_ rfl (Nat.le_add_right _ _) rfl

end Sys2Proof.Laws
end

