-- ==== Sys2Proof/Laws/KeepsClock.lean ====
section
/-!
SUPPORT. The operations and meanings of Machine/Clock.lean respect the relation of Keeps.lean.
-/

namespace Sys2Proof.Laws

open Sys2Proof Sys2Proof.Machine

set_option linter.unusedTactic false
set_option linter.unreachableTactic false
set_option linter.unusedVariables false

theorem keeps_modClk {s0 s : State} (h : Keeps s0 s) (f : ClkBlk → ClkBlk) : Keeps s0 (State.modClk s f) := by
  unfold State.modClk
  repeat' first
    | with_reducible assumption
    | intro _
    | with_reducible apply Keeps.fold
    | with_reducible apply Keeps.ite
    | dsimp only
    | split
    | fail_if_no_progress with_reducible refine Keeps.same ?_ rfl rfl
    | fail_if_no_progress with_reducible refine Keeps.more ?_ rfl (Nat.le_add_right _ _) rfl

theorem keeps_clkEvent {s0 s : State} (h : Keeps s0 s) (code : Nat) : Keeps s0 (State.clkEvent s code) := by
  unfold State.clkEvent
  repeat' first
    | with_reducible assumption
    | intro _
    | with_reducible apply keeps_raise
    | with_reducible apply Keeps.fold
    | with_reducible apply Keeps.ite
    | dsimp only
    | split
    | fail_if_no_progress with_reducible refine Keeps.same ?_ rfl rfl
    | fail_if_no_progress with_reducible refine Keeps.more ?_ rfl (Nat.le_add_right _ _) rfl

theorem keeps_captureOut {s0 s : State} (h : Keeps s0 s) : Keeps s0 (State.captureOut s) := by
  unfold State.captureOut
  repeat' first
    | with_reducible assumption
    | intro _
    | with_reducible apply Keeps.fold
    | with_reducible apply Keeps.ite
    | dsimp only
    | split
    | fail_if_no_progress with_reducible refine Keeps.same ?_ rfl rfl
    | fail_if_no_progress with_reducible refine Keeps.more ?_ rfl (Nat.le_add_right _ _) rfl

theorem keeps_clockLoss {s0 s : State} (h : Keeps s0 s) : Keeps s0 (State.clockLoss s) := by
  unfold State.clockLoss
  repeat' first
    | with_reducible assumption
    | intro _
    | with_reducible apply keeps_bump
    | with_reducible apply keeps_setFlag
    | with_reducible apply keeps_calAAbandon
    | with_reducible apply keeps_fadeAll
    | with_reducible apply keeps_radioEnd
    | with_reducible apply keeps_fault
    | with_reducible apply keeps_modClk
    | with_reducible apply keeps_clkEvent
    | with_reducible apply keeps_captureOut
    | with_reducible apply Keeps.fold
    | with_reducible apply Keeps.ite
    | dsimp only
    | split
    | fail_if_no_progress with_reducible refine Keeps.same ?_ rfl rfl
    | fail_if_no_progress with_reducible refine Keeps.more ?_ rfl (Nat.le_add_right _ _) rfl

theorem keeps_outageLegs {s0 s : State} (h : Keeps s0 s) (us : Nat) (w : Fin 64) : Keeps s0 (State.outageLegs s us w) := by
  unfold State.outageLegs
  repeat' first
    | with_reducible assumption
    | intro _
    | with_reducible apply keeps_loseSamples
    | with_reducible apply Keeps.fold
    | with_reducible apply Keeps.ite
    | dsimp only
    | split
    | fail_if_no_progress with_reducible refine Keeps.same ?_ rfl rfl
    | fail_if_no_progress with_reducible refine Keeps.more ?_ rfl (Nat.le_add_right _ _) rfl

theorem keeps_clockBack {s0 s : State} (h : Keeps s0 s) : Keeps s0 (State.clockBack s) := by
  unfold State.clockBack
  repeat' first
    | with_reducible assumption
    | intro _
    | with_reducible apply keeps_bump
    | with_reducible apply keeps_faultEnds
    | with_reducible apply keeps_modClk
    | with_reducible apply keeps_clkEvent
    | with_reducible apply keeps_outageLegs
    | with_reducible apply Keeps.fold
    | with_reducible apply Keeps.ite
    | dsimp only
    | split
    | fail_if_no_progress with_reducible refine Keeps.same ?_ rfl rfl
    | fail_if_no_progress with_reducible refine Keeps.more ?_ rfl (Nat.le_add_right _ _) rfl

theorem keeps_lockDeclared {s0 s : State} (h : Keeps s0 s) : Keeps s0 (State.lockDeclared s) := by
  unfold State.lockDeclared
  repeat' first
    | with_reducible assumption
    | intro _
    | with_reducible apply keeps_wakeCheck
    | with_reducible apply keeps_modClk
    | with_reducible apply keeps_clockBack
    | with_reducible apply Keeps.fold
    | with_reducible apply Keeps.ite
    | dsimp only
    | split
    | fail_if_no_progress with_reducible refine Keeps.same ?_ rfl rfl
    | fail_if_no_progress with_reducible refine Keeps.more ?_ rfl (Nat.le_add_right _ _) rfl

theorem keeps_lockWindow {s0 s : State} (h : Keeps s0 s) (err : Int) : Keeps s0 (State.lockWindow s err) := by
  unfold State.lockWindow
  repeat' first
    | with_reducible assumption
    | intro _
    | with_reducible apply keeps_modClk
    | with_reducible apply keeps_clockLoss
    | with_reducible apply keeps_lockDeclared
    | with_reducible apply Keeps.fold
    | with_reducible apply Keeps.ite
    | dsimp only
    | split
    | fail_if_no_progress with_reducible refine Keeps.same ?_ rfl rfl
    | fail_if_no_progress with_reducible refine Keeps.more ?_ rfl (Nat.le_add_right _ _) rfl

theorem keeps_fn_execLockWindow {s0 s : State} (h : Keeps s0 s) (err : Int) : OKeeps s0 (execLockWindow err s) := by
  unfold execLockWindow
  repeat' first
    | with_reducible assumption
    | intro _
    | with_reducible apply OKeeps.of
    | with_reducible apply keeps_lockWindow
    | with_reducible apply Keeps.fold
    | with_reducible apply Keeps.ite
    | with_reducible apply OKeeps.ite
    | dsimp only
    | split
    | fail_if_no_progress with_reducible refine Keeps.same ?_ rfl rfl
    | fail_if_no_progress with_reducible refine Keeps.more ?_ rfl (Nat.le_add_right _ _) rfl

theorem keeps_refMissing {s0 s : State} (h : Keeps s0 s) : Keeps s0 (State.refMissing s) := by
  unfold State.refMissing
  repeat' first
    | with_reducible assumption
    | intro _
    | with_reducible apply keeps_setFlag
    | with_reducible apply keeps_fault
    | with_reducible apply keeps_modClk
    | with_reducible apply keeps_clkEvent
    | with_reducible apply keeps_clockLoss
    | with_reducible apply Keeps.fold
    | with_reducible apply Keeps.ite
    | dsimp only
    | split
    | fail_if_no_progress with_reducible refine Keeps.same ?_ rfl rfl
    | fail_if_no_progress with_reducible refine Keeps.more ?_ rfl (Nat.le_add_right _ _) rfl

theorem keeps_fn_execRefMissing {s0 s : State} (h : Keeps s0 s) : OKeeps s0 (execRefMissing s) := by
  unfold execRefMissing
  repeat' first
    | with_reducible assumption
    | intro _
    | with_reducible apply OKeeps.of
    | with_reducible apply keeps_refMissing
    | with_reducible apply Keeps.fold
    | with_reducible apply Keeps.ite
    | with_reducible apply OKeeps.ite
    | dsimp only
    | split
    | fail_if_no_progress with_reducible refine Keeps.same ?_ rfl rfl
    | fail_if_no_progress with_reducible refine Keeps.more ?_ rfl (Nat.le_add_right _ _) rfl

theorem keeps_refOut {s0 s : State} (h : Keeps s0 s) : Keeps s0 (State.refOut s) := by
  unfold State.refOut
  repeat' first
    | with_reducible assumption
    | intro _
    | with_reducible apply keeps_setFlag
    | with_reducible apply keeps_fault
    | with_reducible apply keeps_modClk
    | with_reducible apply keeps_clkEvent
    | with_reducible apply keeps_clockLoss
    | with_reducible apply Keeps.fold
    | with_reducible apply Keeps.ite
    | dsimp only
    | split
    | fail_if_no_progress with_reducible refine Keeps.same ?_ rfl rfl
    | fail_if_no_progress with_reducible refine Keeps.more ?_ rfl (Nat.le_add_right _ _) rfl

theorem keeps_refBack {s0 s : State} (h : Keeps s0 s) : Keeps s0 (State.refBack s) := by
  unfold State.refBack
  repeat' first
    | with_reducible assumption
    | intro _
    | with_reducible apply keeps_modClk
    | with_reducible apply keeps_clkEvent
    | with_reducible apply Keeps.fold
    | with_reducible apply Keeps.ite
    | dsimp only
    | split
    | fail_if_no_progress with_reducible refine Keeps.same ?_ rfl rfl
    | fail_if_no_progress with_reducible refine Keeps.more ?_ rfl (Nat.le_add_right _ _) rfl

theorem keeps_refWindow {s0 s : State} (h : Keeps s0 s) (count : Nat) : Keeps s0 (State.refWindow s count) := by
  unfold State.refWindow
  repeat' first
    | with_reducible assumption
    | intro _
    | with_reducible apply keeps_modClk
    | with_reducible apply keeps_refOut
    | with_reducible apply keeps_refBack
    | with_reducible apply Keeps.fold
    | with_reducible apply Keeps.ite
    | dsimp only
    | split
    | fail_if_no_progress with_reducible refine Keeps.same ?_ rfl rfl
    | fail_if_no_progress with_reducible refine Keeps.more ?_ rfl (Nat.le_add_right _ _) rfl

theorem keeps_fn_execRefMonitorWindow {s0 s : State} (h : Keeps s0 s) (count : Nat) : OKeeps s0 (execRefMonitorWindow count s) := by
  unfold execRefMonitorWindow
  repeat' first
    | with_reducible assumption
    | intro _
    | with_reducible apply OKeeps.of
    | with_reducible apply keeps_refWindow
    | with_reducible apply Keeps.fold
    | with_reducible apply Keeps.ite
    | with_reducible apply OKeeps.ite
    | dsimp only
    | split
    | fail_if_no_progress with_reducible refine Keeps.same ?_ rfl rfl
    | fail_if_no_progress with_reducible refine Keeps.more ?_ rfl (Nat.le_add_right _ _) rfl

theorem keeps_fn_execRelockAttempt {s0 s : State} (h : Keeps s0 s) : OKeeps s0 (execRelockAttempt s) := by
  unfold execRelockAttempt
  repeat' first
    | with_reducible assumption
    | intro _
    | with_reducible apply OKeeps.of
    | with_reducible apply keeps_modClk
    | with_reducible apply Keeps.fold
    | with_reducible apply Keeps.ite
    | with_reducible apply OKeeps.ite
    | dsimp only
    | split
    | fail_if_no_progress with_reducible refine Keeps.same ?_ rfl rfl
    | fail_if_no_progress with_reducible refine Keeps.more ?_ rfl (Nat.le_add_right _ _) rfl

theorem keeps_fn_execRelockFail {s0 s : State} (h : Keeps s0 s) : OKeeps s0 (execRelockFail s) := by
  unfold execRelockFail
  repeat' first
    | with_reducible assumption
    | intro _
    | with_reducible apply OKeeps.of
    | with_reducible apply keeps_bump
    | with_reducible apply keeps_setFlag
    | with_reducible apply keeps_modClk
    | with_reducible apply keeps_clkEvent
    | with_reducible apply Keeps.fold
    | with_reducible apply Keeps.ite
    | with_reducible apply OKeeps.ite
    | dsimp only
    | split
    | fail_if_no_progress with_reducible refine Keeps.same ?_ rfl rfl
    | fail_if_no_progress with_reducible refine Keeps.more ?_ rfl (Nat.le_add_right _ _) rfl

theorem keeps_refQualified {s0 s : State} (h : Keeps s0 s) : Keeps s0 (State.refQualified s) := by
  unfold State.refQualified
  repeat' first
    | with_reducible assumption
    | intro _
    | with_reducible apply keeps_modClk
    | with_reducible apply Keeps.fold
    | with_reducible apply Keeps.ite
    | dsimp only
    | split
    | fail_if_no_progress with_reducible refine Keeps.same ?_ rfl rfl
    | fail_if_no_progress with_reducible refine Keeps.more ?_ rfl (Nat.le_add_right _ _) rfl

theorem keeps_fn_execRefQualified {s0 s : State} (h : Keeps s0 s) : OKeeps s0 (execRefQualified s) := by
  unfold execRefQualified
  repeat' first
    | with_reducible assumption
    | intro _
    | with_reducible apply OKeeps.of
    | with_reducible apply keeps_refQualified
    | with_reducible apply Keeps.fold
    | with_reducible apply Keeps.ite
    | with_reducible apply OKeeps.ite
    | dsimp only
    | split
    | fail_if_no_progress with_reducible refine Keeps.same ?_ rfl rfl
    | fail_if_no_progress with_reducible refine Keeps.more ?_ rfl (Nat.le_add_right _ _) rfl

theorem keeps_fn_execRefStartTimeout {s0 s : State} (h : Keeps s0 s) : OKeeps s0 (execRefStartTimeout s) := by
  unfold execRefStartTimeout
  repeat' first
    | with_reducible assumption
    | intro _
    | with_reducible apply OKeeps.of
    | with_reducible apply keeps_stepMissed
    | with_reducible apply keeps_modClk
    | with_reducible apply Keeps.fold
    | with_reducible apply Keeps.ite
    | with_reducible apply OKeeps.ite
    | dsimp only
    | split
    | fail_if_no_progress with_reducible refine Keeps.same ?_ rfl rfl
    | fail_if_no_progress with_reducible refine Keeps.more ?_ rfl (Nat.le_add_right _ _) rfl

theorem keeps_rtcStopped {s0 s : State} (h : Keeps s0 s) : Keeps s0 (State.rtcStopped s) := by
  unfold State.rtcStopped
  repeat' first
    | with_reducible assumption
    | intro _
    | with_reducible apply keeps_rtcReport
    | with_reducible apply keeps_modClk
    | with_reducible apply Keeps.fold
    | with_reducible apply Keeps.ite
    | dsimp only
    | split
    | fail_if_no_progress with_reducible refine Keeps.same ?_ rfl rfl
    | fail_if_no_progress with_reducible refine Keeps.more ?_ rfl (Nat.le_add_right _ _) rfl

theorem keeps_fn_execRtcStop {s0 s : State} (h : Keeps s0 s) : OKeeps s0 (execRtcStop s) := by
  unfold execRtcStop
  repeat' first
    | with_reducible assumption
    | intro _
    | with_reducible apply OKeeps.of
    | with_reducible apply keeps_rtcStopped
    | with_reducible apply Keeps.fold
    | with_reducible apply Keeps.ite
    | with_reducible apply OKeeps.ite
    | dsimp only
    | split
    | fail_if_no_progress with_reducible refine Keeps.same ?_ rfl rfl
    | fail_if_no_progress with_reducible refine Keeps.more ?_ rfl (Nat.le_add_right _ _) rfl

end Sys2Proof.Laws
end

