-- ==== Sys2Proof/Laws/KeepsStartOps.lean ====
section
/-!
SUPPORT. The operations and meanings of Machine/StartOps.lean respect the relation of Keeps.lean.
-/

namespace Sys2Proof.Laws

open Sys2Proof Sys2Proof.Machine

set_option linter.unusedTactic false
set_option linter.unreachableTactic false
set_option linter.unusedVariables false

theorem keeps_loadSynth {s0 s : State} (h : Keeps s0 s) : Keeps s0 (State.loadSynth s) := by
  unfold State.loadSynth
  repeat' first
    | with_reducible assumption
    | intro _
    | with_reducible apply Keeps.fold
    | with_reducible apply Keeps.ite
    | dsimp only
    | split
    | fail_if_no_progress with_reducible refine Keeps.same ?_ rfl rfl
    | fail_if_no_progress with_reducible refine Keeps.more ?_ rfl (Nat.le_add_right _ _) rfl

theorem keeps_loadDpd {s0 s : State} (h : Keeps s0 s) : Keeps s0 (State.loadDpd s) := by
  unfold State.loadDpd
  repeat' first
    | with_reducible assumption
    | intro _
    | with_reducible apply Keeps.fold
    | with_reducible apply Keeps.ite
    | dsimp only
    | split
    | fail_if_no_progress with_reducible refine Keeps.same ?_ rfl rfl
    | fail_if_no_progress with_reducible refine Keeps.more ?_ rfl (Nat.le_add_right _ _) rfl

theorem keeps_loadCal {s0 s : State} (h : Keeps s0 s) : Keeps s0 (State.loadCal s) := by
  unfold State.loadCal
  repeat' first
    | with_reducible assumption
    | intro _
    | with_reducible apply keeps_raiseDeferred
    | with_reducible apply keeps_setFlag
    | with_reducible apply keeps_loadSynth
    | with_reducible apply keeps_loadDpd
    | with_reducible apply Keeps.fold
    | with_reducible apply Keeps.ite
    | dsimp only
    | split
    | fail_if_no_progress with_reducible refine Keeps.same ?_ rfl rfl
    | fail_if_no_progress with_reducible refine Keeps.more ?_ rfl (Nat.le_add_right _ _) rfl

theorem keeps_selfTest {s0 s : State} (h : Keeps s0 s) : Keeps s0 (State.selfTest s) := by
  unfold State.selfTest
  repeat' first
    | with_reducible assumption
    | intro _
    | with_reducible apply Keeps.fold
    | with_reducible apply Keeps.ite
    | dsimp only
    | split
    | fail_if_no_progress with_reducible refine Keeps.same ?_ rfl rfl
    | fail_if_no_progress with_reducible refine Keeps.more ?_ rfl (Nat.le_add_right _ _) rfl

theorem keeps_startRef {s0 s : State} (h : Keeps s0 s) : Keeps s0 (State.startRef s) := by
  unfold State.startRef
  repeat' first
    | with_reducible assumption
    | intro _
    | with_reducible apply keeps_modClk
    | with_reducible apply Keeps.fold
    | with_reducible apply Keeps.ite
    | dsimp only
    | split
    | fail_if_no_progress with_reducible refine Keeps.same ?_ rfl rfl
    | fail_if_no_progress with_reducible refine Keeps.more ?_ rfl (Nat.le_add_right _ _) rfl

theorem keeps_railsGood {s0 s : State} (h : Keeps s0 s) : Keeps s0 (State.railsGood s) := by
  unfold State.railsGood
  repeat' first
    | with_reducible assumption
    | intro _
    | with_reducible apply keeps_modPwr
    | with_reducible apply keeps_woke
    | with_reducible apply keeps_modClk
    | with_reducible apply keeps_loadCal
    | with_reducible apply keeps_selfTest
    | with_reducible apply keeps_startRef
    | with_reducible apply Keeps.fold
    | with_reducible apply Keeps.ite
    | dsimp only
    | split
    | fail_if_no_progress with_reducible refine Keeps.same ?_ rfl rfl
    | fail_if_no_progress with_reducible refine Keeps.more ?_ rfl (Nat.le_add_right _ _) rfl

theorem keeps_enterLimp {s0 s : State} (h : Keeps s0 s) (r : ReadyReport) : Keeps s0 (State.enterLimp s r) := by
  unfold State.enterLimp
  repeat' first
    | with_reducible assumption
    | intro _
    | with_reducible apply keeps_raiseDeferred
    | with_reducible apply keeps_stopHr
    | with_reducible apply keeps_radioEnd
    | with_reducible apply keeps_modPwr
    | with_reducible apply keeps_requestMask
    | with_reducible apply keeps_pllStop
    | with_reducible apply Keeps.fold
    | with_reducible apply Keeps.ite
    | dsimp only
    | split
    | fail_if_no_progress with_reducible refine Keeps.same ?_ rfl rfl
    | fail_if_no_progress with_reducible refine Keeps.more ?_ rfl (Nat.le_add_right _ _) rfl

theorem keeps_enterHvHold {s0 s : State} (h : Keeps s0 s) : Keeps s0 (State.enterHvHold s) := by
  unfold State.enterHvHold
  repeat' first
    | with_reducible assumption
    | intro _
    | with_reducible apply keeps_modPwr
    | with_reducible apply Keeps.fold
    | with_reducible apply Keeps.ite
    | dsimp only
    | split
    | fail_if_no_progress with_reducible refine Keeps.same ?_ rfl rfl
    | fail_if_no_progress with_reducible refine Keeps.more ?_ rfl (Nat.le_add_right _ _) rfl

theorem keeps_stepFails {s0 s : State} (h : Keeps s0 s) (r : ReadyReport) : Keeps s0 (State.stepFails s r) := by
  unfold State.stepFails
  repeat' first
    | with_reducible assumption
    | intro _
    | with_reducible apply keeps_setFlag
    | with_reducible apply keeps_modPwr
    | with_reducible apply keeps_enterLimp
    | with_reducible apply keeps_enterHvHold
    | with_reducible apply Keeps.fold
    | with_reducible apply Keeps.ite
    | dsimp only
    | split
    | fail_if_no_progress with_reducible refine Keeps.same ?_ rfl rfl
    | fail_if_no_progress with_reducible refine Keeps.more ?_ rfl (Nat.le_add_right _ _) rfl

theorem keeps_stepReady {s0 s : State} (h : Keeps s0 s) (r : ReadyReport) : Keeps s0 (State.stepReady s r) := by
  unfold State.stepReady
  repeat' first
    | with_reducible assumption
    | intro _
    | with_reducible apply keeps_modPwr
    | with_reducible apply keeps_wakeCheck
    | with_reducible apply keeps_refQualified
    | with_reducible apply keeps_railsGood
    | with_reducible apply Keeps.fold
    | with_reducible apply Keeps.ite
    | dsimp only
    | split
    | fail_if_no_progress with_reducible refine Keeps.same ?_ rfl rfl
    | fail_if_no_progress with_reducible refine Keeps.more ?_ rfl (Nat.le_add_right _ _) rfl

end Sys2Proof.Laws
end

