-- ==== Sys2Proof/Laws/KeepsCalOps.lean ====
section
/-!
SUPPORT. The operations and meanings of Machine/CalOps.lean respect the relation of Keeps.lean.
-/

namespace Sys2Proof.Laws

open Sys2Proof Sys2Proof.Machine

set_option linter.unusedTactic false
set_option linter.unreachableTactic false
set_option linter.unusedVariables false

theorem keeps_calAStart {s0 s : State} (h : Keeps s0 s) (n : Fin 4) (slot : Option Nat) (rest : List (Fin 4)) (stored : BitVec 4) (suspect : BitVec 4) : Keeps s0 (State.calAStart s n slot rest stored suspect) := by
  unfold State.calAStart
  repeat' first
    | with_reducible assumption
    | intro _
    | with_reducible apply Keeps.fold
    | with_reducible apply Keeps.ite
    | dsimp only
    | split
    | fail_if_no_progress with_reducible refine Keeps.same ?_ rfl rfl
    | fail_if_no_progress with_reducible refine Keeps.more ?_ rfl (Nat.le_add_right _ _) rfl

theorem keeps_calAtStart {s0 s : State} (h : Keeps s0 s) (n : Fin 4) : Keeps s0 (State.calAtStart s n) := by
  unfold State.calAtStart
  repeat' first
    | with_reducible assumption
    | intro _
    | with_reducible apply keeps_calAStart
    | with_reducible apply Keeps.fold
    | with_reducible apply Keeps.ite
    | dsimp only
    | split
    | fail_if_no_progress with_reducible refine Keeps.same ?_ rfl rfl
    | fail_if_no_progress with_reducible refine Keeps.more ?_ rfl (Nat.le_add_right _ _) rfl

theorem keeps_failHr {s0 s : State} (h : Keeps s0 s) (n : Fin 4) : Keeps s0 (State.failHr s n) := by
  unfold State.failHr
  repeat' first
    | with_reducible assumption
    | intro _
    | with_reducible apply keeps_modHr
    | with_reducible apply keeps_legsStopped
    | with_reducible apply keeps_fault
    | with_reducible apply Keeps.fold
    | with_reducible apply Keeps.ite
    | dsimp only
    | split
    | fail_if_no_progress with_reducible refine Keeps.same ?_ rfl rfl
    | fail_if_no_progress with_reducible refine Keeps.more ?_ rfl (Nat.le_add_right _ _) rfl

theorem keeps_spareFails {s0 s : State} (h : Keeps s0 s) (n : Fin 4) (standing : Bool) : Keeps s0 (State.spareFails s n standing) := by
  unfold State.spareFails
  repeat' first
    | with_reducible assumption
    | intro _
    | with_reducible apply keeps_modHr
    | with_reducible apply keeps_faultRun
    | with_reducible apply keeps_failHr
    | with_reducible apply Keeps.fold
    | with_reducible apply Keeps.ite
    | dsimp only
    | split
    | fail_if_no_progress with_reducible refine Keeps.same ?_ rfl rfl
    | fail_if_no_progress with_reducible refine Keeps.more ?_ rfl (Nat.le_add_right _ _) rfl

theorem keeps_laneFails {s0 s : State} (h : Keeps s0 s) (n : Fin 4) (k : Fin 8) : Keeps s0 (State.laneFails s n k) := by
  unfold State.laneFails
  repeat' first
    | with_reducible assumption
    | intro _
    | with_reducible apply keeps_modHr
    | with_reducible apply keeps_failHr
    | with_reducible apply Keeps.fold
    | with_reducible apply Keeps.ite
    | dsimp only
    | split
    | fail_if_no_progress with_reducible refine Keeps.same ?_ rfl rfl
    | fail_if_no_progress with_reducible refine Keeps.more ?_ rfl (Nat.le_add_right _ _) rfl

theorem keeps_laneFailed {s0 s : State} (h : Keeps s0 s) (n : Fin 4) (k : Fin 9) : Keeps s0 (State.laneFailed s n k) := by
  unfold State.laneFailed
  repeat' first
    | with_reducible assumption
    | intro _
    | with_reducible apply keeps_setFlag
    | with_reducible apply keeps_calAAbandonOn
    | with_reducible apply keeps_spareFails
    | with_reducible apply keeps_laneFails
    | with_reducible apply Keeps.fold
    | with_reducible apply Keeps.ite
    | dsimp only
    | split
    | fail_if_no_progress with_reducible refine Keeps.same ?_ rfl rfl
    | fail_if_no_progress with_reducible refine Keeps.more ?_ rfl (Nat.le_add_right _ _) rfl

end Sys2Proof.Laws
end

