-- ==== Sys2Proof/Laws/KeepsCapture.lean ====
section
/-!
SUPPORT. The operations and meanings of Machine/Capture.lean respect the relation of Keeps.lean.
-/

namespace Sys2Proof.Laws

open Sys2Proof Sys2Proof.Machine

set_option linter.unusedTactic false
set_option linter.unreachableTactic false
set_option linter.unusedVariables false

theorem keeps_startHr {s0 s : State} (h : Keeps s0 s) (n : Fin 4) (gain : BitVec 4) (agc : Bool) : Keeps s0 (State.startHr s n gain agc) := by
  unfold State.startHr
  repeat' first
    | with_reducible assumption
    | intro _
    | with_reducible apply keeps_modHr
    | with_reducible apply keeps_calAtStart
    | with_reducible apply Keeps.fold
    | with_reducible apply Keeps.ite
    | dsimp only
    | split
    | fail_if_no_progress with_reducible refine Keeps.same ?_ rfl rfl
    | fail_if_no_progress with_reducible refine Keeps.more ?_ rfl (Nat.le_add_right _ _) rfl

theorem keeps_fn_bodyCapStart {s0 s : State} (h : Keeps s0 s) (c : CmdEntry) : AKeeps s0 (bodyCapStart c s) := by
  unfold bodyCapStart
  repeat' first
    | with_reducible assumption
    | intro _
    | with_reducible apply AKeeps.checked
    | with_reducible apply AKeeps.ok
    | with_reducible apply AKeeps.part
    | with_reducible apply AKeeps.fail
    | with_reducible apply AKeeps.wait
    | with_reducible apply AKeeps.done
    | with_reducible apply keeps_fn_Answer_done
    | with_reducible apply keeps_fault
    | with_reducible apply keeps_startHr
    | with_reducible apply Keeps.fold
    | with_reducible apply Keeps.ite
    | with_reducible apply AKeeps.ite
    | dsimp only
    | split
    | fail_if_no_progress with_reducible refine Keeps.same ?_ rfl rfl
    | fail_if_no_progress with_reducible refine Keeps.more ?_ rfl (Nat.le_add_right _ _) rfl

theorem keeps_fn_execCapStart {s0 s : State} (h : Keeps s0 s) (c : CmdEntry) : OKeeps s0 (execCapStart c s) := by
  unfold execCapStart
  repeat' first
    | with_reducible assumption
    | intro _
    | with_reducible apply keeps_runCmd
    | with_reducible apply OKeeps.of
    | with_reducible apply keeps_runCmd
    | with_reducible apply keeps_fn_bodyCapStart
    | with_reducible apply Keeps.fold
    | with_reducible apply Keeps.ite
    | with_reducible apply OKeeps.ite
    | dsimp only
    | split
    | fail_if_no_progress with_reducible refine Keeps.same ?_ rfl rfl
    | fail_if_no_progress with_reducible refine Keeps.more ?_ rfl (Nat.le_add_right _ _) rfl

theorem keeps_fn_bodyCapStop {s0 s : State} (h : Keeps s0 s) (c : CmdEntry) : AKeeps s0 (bodyCapStop c s) := by
  unfold bodyCapStop
  repeat' first
    | with_reducible assumption
    | intro _
    | with_reducible apply AKeeps.checked
    | with_reducible apply AKeeps.ok
    | with_reducible apply AKeeps.part
    | with_reducible apply AKeeps.fail
    | with_reducible apply AKeeps.wait
    | with_reducible apply AKeeps.done
    | with_reducible apply keeps_modHr
    | with_reducible apply keeps_fn_Answer_done
    | with_reducible apply keeps_stopHr
    | with_reducible apply Keeps.fold
    | with_reducible apply Keeps.ite
    | with_reducible apply AKeeps.ite
    | dsimp only
    | split
    | fail_if_no_progress with_reducible refine Keeps.same ?_ rfl rfl
    | fail_if_no_progress with_reducible refine Keeps.more ?_ rfl (Nat.le_add_right _ _) rfl

theorem keeps_fn_execCapStop {s0 s : State} (h : Keeps s0 s) (c : CmdEntry) : OKeeps s0 (execCapStop c s) := by
  unfold execCapStop
  repeat' first
    | with_reducible assumption
    | intro _
    | with_reducible apply keeps_runCmd
    | with_reducible apply OKeeps.of
    | with_reducible apply keeps_runCmd
    | with_reducible apply keeps_fn_bodyCapStop
    | with_reducible apply Keeps.fold
    | with_reducible apply Keeps.ite
    | with_reducible apply OKeeps.ite
    | dsimp only
    | split
    | fail_if_no_progress with_reducible refine Keeps.same ?_ rfl rfl
    | fail_if_no_progress with_reducible refine Keeps.more ?_ rfl (Nat.le_add_right _ _) rfl

theorem keeps_fn_bodyCapGain {s0 s : State} (h : Keeps s0 s) (c : CmdEntry) : AKeeps s0 (bodyCapGain c s) := by
  unfold bodyCapGain
  repeat' first
    | with_reducible assumption
    | intro _
    | with_reducible apply AKeeps.checked
    | with_reducible apply AKeeps.ok
    | with_reducible apply AKeeps.part
    | with_reducible apply AKeeps.fail
    | with_reducible apply AKeeps.wait
    | with_reducible apply AKeeps.done
    | with_reducible apply keeps_modHr
    | with_reducible apply keeps_fn_Answer_done
    | with_reducible apply keeps_fault
    | with_reducible apply Keeps.fold
    | with_reducible apply Keeps.ite
    | with_reducible apply AKeeps.ite
    | dsimp only
    | split
    | fail_if_no_progress with_reducible refine Keeps.same ?_ rfl rfl
    | fail_if_no_progress with_reducible refine Keeps.more ?_ rfl (Nat.le_add_right _ _) rfl

theorem keeps_fn_execCapGain {s0 s : State} (h : Keeps s0 s) (c : CmdEntry) : OKeeps s0 (execCapGain c s) := by
  unfold execCapGain
  repeat' first
    | with_reducible assumption
    | intro _
    | with_reducible apply keeps_runCmd
    | with_reducible apply OKeeps.of
    | with_reducible apply keeps_runCmd
    | with_reducible apply keeps_fn_bodyCapGain
    | with_reducible apply Keeps.fold
    | with_reducible apply Keeps.ite
    | with_reducible apply OKeeps.ite
    | dsimp only
    | split
    | fail_if_no_progress with_reducible refine Keeps.same ?_ rfl rfl
    | fail_if_no_progress with_reducible refine Keeps.more ?_ rfl (Nat.le_add_right _ _) rfl

theorem keeps_fn_bodyCapRace {s0 s : State} (h : Keeps s0 s) (c : CmdEntry) : AKeeps s0 (bodyCapRace c s) := by
  unfold bodyCapRace
  repeat' first
    | with_reducible assumption
    | intro _
    | with_reducible apply AKeeps.checked
    | with_reducible apply AKeeps.ok
    | with_reducible apply AKeeps.part
    | with_reducible apply AKeeps.fail
    | with_reducible apply AKeeps.wait
    | with_reducible apply AKeeps.done
    | with_reducible apply keeps_modHr
    | with_reducible apply keeps_fn_Answer_done
    | with_reducible apply Keeps.fold
    | with_reducible apply Keeps.ite
    | with_reducible apply AKeeps.ite
    | dsimp only
    | split
    | fail_if_no_progress with_reducible refine Keeps.same ?_ rfl rfl
    | fail_if_no_progress with_reducible refine Keeps.more ?_ rfl (Nat.le_add_right _ _) rfl

theorem keeps_fn_execCapRace {s0 s : State} (h : Keeps s0 s) (c : CmdEntry) : OKeeps s0 (execCapRace c s) := by
  unfold execCapRace
  repeat' first
    | with_reducible assumption
    | intro _
    | with_reducible apply keeps_runCmd
    | with_reducible apply OKeeps.of
    | with_reducible apply keeps_runCmd
    | with_reducible apply keeps_fn_bodyCapRace
    | with_reducible apply Keeps.fold
    | with_reducible apply Keeps.ite
    | with_reducible apply OKeeps.ite
    | dsimp only
    | split
    | fail_if_no_progress with_reducible refine Keeps.same ?_ rfl rfl
    | fail_if_no_progress with_reducible refine Keeps.more ?_ rfl (Nat.le_add_right _ _) rfl

theorem keeps_fn_execAgcInterval {s0 s : State} (h : Keeps s0 s) (n : Fin 4) (peak : Nat) : OKeeps s0 (execAgcInterval n peak s) := by
  unfold execAgcInterval
  repeat' first
    | with_reducible assumption
    | intro _
    | with_reducible apply OKeeps.of
    | with_reducible apply keeps_modHr
    | with_reducible apply Keeps.fold
    | with_reducible apply Keeps.ite
    | with_reducible apply OKeeps.ite
    | dsimp only
    | split
    | fail_if_no_progress with_reducible refine Keeps.same ?_ rfl rfl
    | fail_if_no_progress with_reducible refine Keeps.more ?_ rfl (Nat.le_add_right _ _) rfl

theorem keeps_fn_execAgcHoldExpiry {s0 s : State} (h : Keeps s0 s) (n : Fin 4) : OKeeps s0 (execAgcHoldExpiry n s) := by
  unfold execAgcHoldExpiry
  repeat' first
    | with_reducible assumption
    | intro _
    | with_reducible apply OKeeps.of
    | with_reducible apply keeps_modHr
    | with_reducible apply Keeps.fold
    | with_reducible apply Keeps.ite
    | with_reducible apply OKeeps.ite
    | dsimp only
    | split
    | fail_if_no_progress with_reducible refine Keeps.same ?_ rfl rfl
    | fail_if_no_progress with_reducible refine Keeps.more ?_ rfl (Nat.le_add_right _ _) rfl

theorem keeps_fn_execClipDetected {s0 s : State} (h : Keeps s0 s) (n : Fin 4) (wholeInterval : Bool) : OKeeps s0 (execClipDetected n wholeInterval s) := by
  unfold execClipDetected
  repeat' first
    | with_reducible assumption
    | intro _
    | with_reducible apply OKeeps.of
    | with_reducible apply keeps_modHr
    | with_reducible apply keeps_raiseLimited
    | with_reducible apply keeps_setFlag
    | with_reducible apply Keeps.fold
    | with_reducible apply Keeps.ite
    | with_reducible apply OKeeps.ite
    | dsimp only
    | split
    | fail_if_no_progress with_reducible refine Keeps.same ?_ rfl rfl
    | fail_if_no_progress with_reducible refine Keeps.more ?_ rfl (Nat.le_add_right _ _) rfl

theorem keeps_laneBlock {s0 s : State} (h : Keeps s0 s) (n : Fin 4) (differs : BitVec 9) : Keeps s0 (State.laneBlock s n differs) := by
  unfold State.laneBlock
  repeat' first
    | with_reducible assumption
    | intro _
    | with_reducible apply keeps_modHr
    | with_reducible apply keeps_laneFailed
    | with_reducible apply Keeps.fold
    | with_reducible apply Keeps.ite
    | dsimp only
    | split
    | fail_if_no_progress with_reducible refine Keeps.same ?_ rfl rfl
    | fail_if_no_progress with_reducible refine Keeps.more ?_ rfl (Nat.le_add_right _ _) rfl

theorem keeps_fn_execLaneMonitorBlock {s0 s : State} (h : Keeps s0 s) (n : Fin 4) (stats : List LaneStat) : OKeeps s0 (execLaneMonitorBlock n stats s) := by
  unfold execLaneMonitorBlock
  repeat' first
    | with_reducible assumption
    | intro _
    | with_reducible apply OKeeps.of
    | with_reducible apply keeps_laneBlock
    | with_reducible apply Keeps.fold
    | with_reducible apply Keeps.ite
    | with_reducible apply OKeeps.ite
    | dsimp only
    | split
    | fail_if_no_progress with_reducible refine Keeps.same ?_ rfl rfl
    | fail_if_no_progress with_reducible refine Keeps.more ?_ rfl (Nat.le_add_right _ _) rfl

theorem keeps_fn_execSpareTakeover {s0 s : State} (h : Keeps s0 s) (n : Fin 4) : OKeeps s0 (execSpareTakeover n s) := by
  unfold execSpareTakeover
  repeat' first
    | with_reducible assumption
    | intro _
    | with_reducible apply OKeeps.of
    | with_reducible apply keeps_modHr
    | with_reducible apply keeps_faultRun
    | with_reducible apply Keeps.fold
    | with_reducible apply Keeps.ite
    | with_reducible apply OKeeps.ite
    | dsimp only
    | split
    | fail_if_no_progress with_reducible refine Keeps.same ?_ rfl rfl
    | fail_if_no_progress with_reducible refine Keeps.more ?_ rfl (Nat.le_add_right _ _) rfl

theorem keeps_fn_execRaceOutputStart {s0 s : State} (h : Keeps s0 s) (n : Fin 4) : OKeeps s0 (execRaceOutputStart n s) := by
  unfold execRaceOutputStart
  repeat' first
    | with_reducible assumption
    | intro _
    | with_reducible apply OKeeps.of
    | with_reducible apply keeps_modHr
    | with_reducible apply keeps_legsReturned
    | with_reducible apply Keeps.fold
    | with_reducible apply Keeps.ite
    | with_reducible apply OKeeps.ite
    | dsimp only
    | split
    | fail_if_no_progress with_reducible refine Keeps.same ?_ rfl rfl
    | fail_if_no_progress with_reducible refine Keeps.more ?_ rfl (Nat.le_add_right _ _) rfl

theorem keeps_fn_execRaceCentreSettled {s0 s : State} (h : Keeps s0 s) (n : Fin 4) (b : Bool) : OKeeps s0 (execRaceCentreSettled n b s) := by
  unfold execRaceCentreSettled
  repeat' first
    | with_reducible assumption
    | intro _
    | with_reducible apply OKeeps.of
    | with_reducible apply keeps_modHr
    | with_reducible apply Keeps.fold
    | with_reducible apply Keeps.ite
    | with_reducible apply OKeeps.ite
    | dsimp only
    | split
    | fail_if_no_progress with_reducible refine Keeps.same ?_ rfl rfl
    | fail_if_no_progress with_reducible refine Keeps.more ?_ rfl (Nat.le_add_right _ _) rfl

theorem keeps_fn_execHeadraceGovRestart {s0 s : State} (h : Keeps s0 s) : OKeeps s0 (execHeadraceGovRestart s) := by
  unfold execHeadraceGovRestart
  repeat' first
    | with_reducible assumption
    | intro _
    | with_reducible apply OKeeps.of
    | with_reducible apply keeps_startHr
    | with_reducible apply Keeps.fold
    | with_reducible apply Keeps.ite
    | with_reducible apply OKeeps.ite
    | dsimp only
    | split
    | fail_if_no_progress with_reducible refine Keeps.same ?_ rfl rfl
    | fail_if_no_progress with_reducible refine Keeps.more ?_ rfl (Nat.le_add_right _ _) rfl

theorem keeps_fn_execBlankerBlock {s0 s : State} (h : Keeps s0 s) (n : Fin 4) (r : Race) (b : BlankBlock) : OKeeps s0 (execBlankerBlock n r b s) := by
  unfold execBlankerBlock
  repeat' first
    | with_reducible assumption
    | intro _
    | with_reducible apply OKeeps.of
    | with_reducible apply keeps_modHr
    | with_reducible apply keeps_store
    | with_reducible apply keeps_setFlag
    | with_reducible apply Keeps.fold
    | with_reducible apply Keeps.ite
    | with_reducible apply OKeeps.ite
    | dsimp only
    | split
    | fail_if_no_progress with_reducible refine Keeps.same ?_ rfl rfl
    | fail_if_no_progress with_reducible refine Keeps.more ?_ rfl (Nat.le_add_right _ _) rfl

theorem keeps_feedEvent {s0 s : State} (h : Keeps s0 s) (n : Fin 4) (code : Nat) (more : List Byte) : Keeps s0 (State.feedEvent s n code more) := by
  unfold State.feedEvent
  repeat' first
    | with_reducible assumption
    | intro _
    | with_reducible apply keeps_raise
    | with_reducible apply Keeps.fold
    | with_reducible apply Keeps.ite
    | dsimp only
    | split
    | fail_if_no_progress with_reducible refine Keeps.same ?_ rfl rfl
    | fail_if_no_progress with_reducible refine Keeps.more ?_ rfl (Nat.le_add_right _ _) rfl

theorem keeps_moduleEvent {s0 s : State} (h : Keeps s0 s) (n : Fin 4) (code : Nat) (more : List Byte) : Keeps s0 (State.moduleEvent s n code more) := by
  unfold State.moduleEvent
  repeat' first
    | with_reducible assumption
    | intro _
    | with_reducible apply keeps_raise
    | with_reducible apply Keeps.fold
    | with_reducible apply Keeps.ite
    | dsimp only
    | split
    | fail_if_no_progress with_reducible refine Keeps.same ?_ rfl rfl
    | fail_if_no_progress with_reducible refine Keeps.more ?_ rfl (Nat.le_add_right _ _) rfl

theorem keeps_endFeedCmd {s0 s : State} (h : Keeps s0 s) (n : Fin 4) (st : Status) : Keeps s0 (State.endFeedCmd s n st) := by
  unfold State.endFeedCmd
  repeat' first
    | with_reducible assumption
    | intro _
    | with_reducible apply keeps_modFeed
    | with_reducible apply keeps_finishSlot
    | with_reducible apply Keeps.fold
    | with_reducible apply Keeps.ite
    | dsimp only
    | split
    | fail_if_no_progress with_reducible refine Keeps.same ?_ rfl rfl
    | fail_if_no_progress with_reducible refine Keeps.more ?_ rfl (Nat.le_add_right _ _) rfl

theorem keeps_fn_bodyCapFeed {s0 s : State} (h : Keeps s0 s) (c : CmdEntry) : AKeeps s0 (bodyCapFeed c s) := by
  unfold bodyCapFeed
  repeat' first
    | with_reducible assumption
    | intro _
    | with_reducible apply AKeeps.checked
    | with_reducible apply AKeeps.ok
    | with_reducible apply AKeeps.part
    | with_reducible apply AKeeps.fail
    | with_reducible apply AKeeps.wait
    | with_reducible apply AKeeps.done
    | with_reducible apply keeps_modFeed
    | with_reducible apply keeps_fn_Answer_done
    | with_reducible apply keeps_endFeedCmd
    | with_reducible apply Keeps.fold
    | with_reducible apply Keeps.ite
    | with_reducible apply AKeeps.ite
    | dsimp only
    | split
    | fail_if_no_progress with_reducible refine Keeps.same ?_ rfl rfl
    | fail_if_no_progress with_reducible refine Keeps.more ?_ rfl (Nat.le_add_right _ _) rfl

theorem keeps_fn_execCapFeed {s0 s : State} (h : Keeps s0 s) (c : CmdEntry) : OKeeps s0 (execCapFeed c s) := by
  unfold execCapFeed
  repeat' first
    | with_reducible assumption
    | intro _
    | with_reducible apply keeps_runCmd
    | with_reducible apply OKeeps.of
    | with_reducible apply keeps_runCmd
    | with_reducible apply keeps_fn_bodyCapFeed
    | with_reducible apply Keeps.fold
    | with_reducible apply Keeps.ite
    | with_reducible apply OKeeps.ite
    | dsimp only
    | split
    | fail_if_no_progress with_reducible refine Keeps.same ?_ rfl rfl
    | fail_if_no_progress with_reducible refine Keeps.more ?_ rfl (Nat.le_add_right _ _) rfl

theorem keeps_fn_execFeedRampDone {s0 s : State} (h : Keeps s0 s) (n : Fin 4) : OKeeps s0 (execFeedRampDone n s) := by
  unfold execFeedRampDone
  repeat' first
    | with_reducible assumption
    | intro _
    | with_reducible apply OKeeps.of
    | with_reducible apply keeps_modFeed
    | with_reducible apply keeps_endFeedCmd
    | with_reducible apply Keeps.fold
    | with_reducible apply Keeps.ite
    | with_reducible apply OKeeps.ite
    | dsimp only
    | split
    | fail_if_no_progress with_reducible refine Keeps.same ?_ rfl rfl
    | fail_if_no_progress with_reducible refine Keeps.more ?_ rfl (Nat.le_add_right _ _) rfl

theorem keeps_fn_execFeedMeasure {s0 s : State} (h : Keeps s0 s) (n : Fin 4) (ma2 : BitVec 16) : OKeeps s0 (execFeedMeasure n ma2 s) := by
  unfold execFeedMeasure
  repeat' first
    | with_reducible assumption
    | intro _
    | with_reducible apply OKeeps.of
    | with_reducible apply keeps_modFeed
    | with_reducible apply keeps_feedEvent
    | with_reducible apply Keeps.fold
    | with_reducible apply Keeps.ite
    | with_reducible apply OKeeps.ite
    | dsimp only
    | split
    | fail_if_no_progress with_reducible refine Keeps.same ?_ rfl rfl
    | fail_if_no_progress with_reducible refine Keeps.more ?_ rfl (Nat.le_add_right _ _) rfl

theorem keeps_fn_execFeedLowbat {s0 s : State} (h : Keeps s0 s) (n : Fin 4) (out : BitVec 16) : OKeeps s0 (execFeedLowbat n out s) := by
  unfold execFeedLowbat
  repeat' first
    | with_reducible assumption
    | intro _
    | with_reducible apply OKeeps.of
    | with_reducible apply keeps_setFlag
    | with_reducible apply keeps_feedEvent
    | with_reducible apply Keeps.fold
    | with_reducible apply Keeps.ite
    | with_reducible apply OKeeps.ite
    | dsimp only
    | split
    | fail_if_no_progress with_reducible refine Keeps.same ?_ rfl rfl
    | fail_if_no_progress with_reducible refine Keeps.more ?_ rfl (Nat.le_add_right _ _) rfl

theorem keeps_fn_execFeedShort {s0 s : State} (h : Keeps s0 s) (n : Fin 4) (ma2 : BitVec 16) : OKeeps s0 (execFeedShort n ma2 s) := by
  unfold execFeedShort
  repeat' first
    | with_reducible assumption
    | intro _
    | with_reducible apply OKeeps.of
    | with_reducible apply keeps_modFeed
    | with_reducible apply keeps_setFlag
    | with_reducible apply keeps_fault
    | with_reducible apply keeps_feedEvent
    | with_reducible apply keeps_endFeedCmd
    | with_reducible apply Keeps.fold
    | with_reducible apply Keeps.ite
    | with_reducible apply OKeeps.ite
    | dsimp only
    | split
    | fail_if_no_progress with_reducible refine Keeps.same ?_ rfl rfl
    | fail_if_no_progress with_reducible refine Keeps.more ?_ rfl (Nat.le_add_right _ _) rfl

theorem keeps_fn_execFeedRetry {s0 s : State} (h : Keeps s0 s) (n : Fin 4) : OKeeps s0 (execFeedRetry n s) := by
  unfold execFeedRetry
  repeat' first
    | with_reducible assumption
    | intro _
    | with_reducible apply OKeeps.of
    | with_reducible apply keeps_modFeed
    | with_reducible apply Keeps.fold
    | with_reducible apply Keeps.ite
    | with_reducible apply OKeeps.ite
    | dsimp only
    | split
    | fail_if_no_progress with_reducible refine Keeps.same ?_ rfl rfl
    | fail_if_no_progress with_reducible refine Keeps.more ?_ rfl (Nat.le_add_right _ _) rfl

theorem keeps_fn_execFeedOpen {s0 s : State} (h : Keeps s0 s) (n : Fin 4) : OKeeps s0 (execFeedOpen n s) := by
  unfold execFeedOpen
  repeat' first
    | with_reducible assumption
    | intro _
    | with_reducible apply OKeeps.of
    | with_reducible apply keeps_modFeed
    | with_reducible apply keeps_setFlag
    | with_reducible apply keeps_feedEvent
    | with_reducible apply Keeps.fold
    | with_reducible apply Keeps.ite
    | with_reducible apply OKeeps.ite
    | dsimp only
    | split
    | fail_if_no_progress with_reducible refine Keeps.same ?_ rfl rfl
    | fail_if_no_progress with_reducible refine Keeps.more ?_ rfl (Nat.le_add_right _ _) rfl

theorem keeps_fn_execFeedOpenRecovery {s0 s : State} (h : Keeps s0 s) (n : Fin 4) : OKeeps s0 (execFeedOpenRecovery n s) := by
  unfold execFeedOpenRecovery
  repeat' first
    | with_reducible assumption
    | intro _
    | with_reducible apply OKeeps.of
    | with_reducible apply keeps_modFeed
    | with_reducible apply keeps_feedEvent
    | with_reducible apply Keeps.fold
    | with_reducible apply Keeps.ite
    | with_reducible apply OKeeps.ite
    | dsimp only
    | split
    | fail_if_no_progress with_reducible refine Keeps.same ?_ rfl rfl
    | fail_if_no_progress with_reducible refine Keeps.more ?_ rfl (Nat.le_add_right _ _) rfl

theorem keeps_setLifePct {s0 s : State} (h : Keeps s0 s) (n : Fin 4) : Keeps s0 (State.setLifePct s n) := by
  unfold State.setLifePct
  repeat' first
    | with_reducible assumption
    | intro _
    | with_reducible apply keeps_modFeed
    | with_reducible apply keeps_moduleEvent
    | with_reducible apply Keeps.fold
    | with_reducible apply Keeps.ite
    | dsimp only
    | split
    | fail_if_no_progress with_reducible refine Keeps.same ?_ rfl rfl
    | fail_if_no_progress with_reducible refine Keeps.more ?_ rfl (Nat.le_add_right _ _) rfl

theorem keeps_lifeWritten {s0 s : State} (h : Keeps s0 s) (n : Fin 4) : Keeps s0 (State.lifeWritten s n) := by
  unfold State.lifeWritten
  repeat' first
    | with_reducible assumption
    | intro _
    | with_reducible apply keeps_modFeed
    | with_reducible apply keeps_setLifePct
    | with_reducible apply Keeps.fold
    | with_reducible apply Keeps.ite
    | dsimp only
    | split
    | fail_if_no_progress with_reducible refine Keeps.same ?_ rfl rfl
    | fail_if_no_progress with_reducible refine Keeps.more ?_ rfl (Nat.le_add_right _ _) rfl

theorem keeps_lifeWrite {s0 s : State} (h : Keeps s0 s) (n : Fin 4) (written : Bool) : Keeps s0 (State.lifeWrite s n written) := by
  unfold State.lifeWrite
  repeat' first
    | with_reducible assumption
    | intro _
    | with_reducible apply keeps_modFeed
    | with_reducible apply keeps_lifeWritten
    | with_reducible apply Keeps.fold
    | with_reducible apply Keeps.ite
    | dsimp only
    | split
    | fail_if_no_progress with_reducible refine Keeps.same ?_ rfl rfl
    | fail_if_no_progress with_reducible refine Keeps.more ?_ rfl (Nat.le_add_right _ _) rfl

theorem keeps_adoptModule {s0 s : State} (h : Keeps s0 s) (n : Fin 4) (written : Bool) : Keeps s0 (State.adoptModule s n written) := by
  unfold State.adoptModule
  repeat' first
    | with_reducible assumption
    | intro _
    | with_reducible apply keeps_modFeed
    | with_reducible apply keeps_moduleEvent
    | with_reducible apply keeps_setLifePct
    | with_reducible apply keeps_lifeWrite
    | with_reducible apply Keeps.fold
    | with_reducible apply Keeps.ite
    | dsimp only
    | split
    | fail_if_no_progress with_reducible refine Keeps.same ?_ rfl rfl
    | fail_if_no_progress with_reducible refine Keeps.more ?_ rfl (Nat.le_add_right _ _) rfl

theorem keeps_readModule {s0 s : State} (h : Keeps s0 s) (n : Fin 4) (r : List Byte) (written : Bool) : Keeps s0 (State.readModule s n r written) := by
  unfold State.readModule
  repeat' first
    | with_reducible assumption
    | intro _
    | with_reducible apply keeps_modFeed
    | with_reducible apply keeps_moduleEvent
    | with_reducible apply keeps_adoptModule
    | with_reducible apply Keeps.fold
    | with_reducible apply Keeps.ite
    | dsimp only
    | split
    | fail_if_no_progress with_reducible refine Keeps.same ?_ rfl rfl
    | fail_if_no_progress with_reducible refine Keeps.more ?_ rfl (Nat.le_add_right _ _) rfl

theorem keeps_noModule {s0 s : State} (h : Keeps s0 s) (n : Fin 4) : Keeps s0 (State.noModule s n) := by
  unfold State.noModule
  repeat' first
    | with_reducible assumption
    | intro _
    | with_reducible apply keeps_modFeed
    | with_reducible apply keeps_moduleEvent
    | with_reducible apply Keeps.fold
    | with_reducible apply Keeps.ite
    | dsimp only
    | split
    | fail_if_no_progress with_reducible refine Keeps.same ?_ rfl rfl
    | fail_if_no_progress with_reducible refine Keeps.more ?_ rfl (Nat.le_add_right _ _) rfl

theorem keeps_moduleTraffic {s0 s : State} (h : Keeps s0 s) (acked : Bool) : Keeps s0 (State.moduleTraffic s acked) := by
  unfold State.moduleTraffic
  repeat' first
    | with_reducible assumption
    | intro _
    | with_reducible apply keeps_takeFree
    | refine keeps_takeFree_of ?_ (by assumption)
    | with_reducible apply keeps_bump
    | with_reducible apply Keeps.fold
    | with_reducible apply Keeps.ite
    | dsimp only
    | split
    | fail_if_no_progress with_reducible refine Keeps.same ?_ rfl rfl
    | fail_if_no_progress with_reducible refine Keeps.more ?_ rfl (Nat.le_add_right _ _) rfl

theorem keeps_moduleBus {s0 s : State} (h : Keeps s0 s) (acked : Bool) : Keeps s0 (State.moduleBus s acked) := by
  unfold State.moduleBus
  repeat' first
    | with_reducible assumption
    | intro _
    | with_reducible apply keeps_moduleTraffic
    | with_reducible apply Keeps.fold
    | with_reducible apply Keeps.ite
    | dsimp only
    | split
    | fail_if_no_progress with_reducible refine Keeps.same ?_ rfl rfl
    | fail_if_no_progress with_reducible refine Keeps.more ?_ rfl (Nat.le_add_right _ _) rfl

theorem keeps_fn_execModuleRecordRead {s0 s : State} (h : Keeps s0 s) (n : Fin 4) (answer : ModuleRead) : OKeeps s0 (execModuleRecordRead n answer s) := by
  unfold execModuleRecordRead
  repeat' first
    | with_reducible assumption
    | intro _
    | with_reducible apply OKeeps.of
    | with_reducible apply keeps_readModule
    | with_reducible apply keeps_noModule
    | with_reducible apply keeps_moduleBus
    | with_reducible apply Keeps.fold
    | with_reducible apply Keeps.ite
    | with_reducible apply OKeeps.ite
    | dsimp only
    | split
    | fail_if_no_progress with_reducible refine Keeps.same ?_ rfl rfl
    | fail_if_no_progress with_reducible refine Keeps.more ?_ rfl (Nat.le_add_right _ _) rfl

theorem keeps_moduleImage {s0 s : State} (h : Keeps s0 s) (n : Fin 4) : AKeeps s0 (State.moduleImage s n) := by
  unfold State.moduleImage
  repeat' first
    | with_reducible assumption
    | intro _
    | with_reducible apply AKeeps.checked
    | with_reducible apply AKeeps.ok
    | with_reducible apply AKeeps.part
    | with_reducible apply AKeeps.fail
    | with_reducible apply AKeeps.wait
    | with_reducible apply AKeeps.done
    | with_reducible apply Keeps.fold
    | with_reducible apply Keeps.ite
    | with_reducible apply AKeeps.ite
    | dsimp only
    | split
    | fail_if_no_progress with_reducible refine Keeps.same ?_ rfl rfl
    | fail_if_no_progress with_reducible refine Keeps.more ?_ rfl (Nat.le_add_right _ _) rfl

theorem keeps_fn_bodyCapModule {s0 s : State} (h : Keeps s0 s) (c : CmdEntry) (answer : ModuleRead) : AKeeps s0 (bodyCapModule c answer s) := by
  unfold bodyCapModule
  repeat' first
    | with_reducible assumption
    | intro _
    | with_reducible apply AKeeps.checked
    | with_reducible apply AKeeps.ok
    | with_reducible apply AKeeps.part
    | with_reducible apply AKeeps.fail
    | with_reducible apply AKeeps.wait
    | with_reducible apply AKeeps.done
    | with_reducible apply keeps_readModule
    | with_reducible apply keeps_moduleTraffic
    | with_reducible apply keeps_moduleImage
    | with_reducible apply Keeps.fold
    | with_reducible apply Keeps.ite
    | with_reducible apply AKeeps.ite
    | dsimp only
    | split
    | fail_if_no_progress with_reducible refine Keeps.same ?_ rfl rfl
    | fail_if_no_progress with_reducible refine Keeps.more ?_ rfl (Nat.le_add_right _ _) rfl

theorem keeps_fn_execCapModule {s0 s : State} (h : Keeps s0 s) (c : CmdEntry) (answer : ModuleRead) : OKeeps s0 (execCapModule c answer s) := by
  unfold execCapModule
  repeat' first
    | with_reducible assumption
    | intro _
    | with_reducible apply keeps_runCmd
    | with_reducible apply OKeeps.of
    | with_reducible apply keeps_runCmd
    | with_reducible apply keeps_fn_bodyCapModule
    | with_reducible apply Keeps.fold
    | with_reducible apply Keeps.ite
    | with_reducible apply OKeeps.ite
    | dsimp only
    | split
    | fail_if_no_progress with_reducible refine Keeps.same ?_ rfl rfl
    | fail_if_no_progress with_reducible refine Keeps.more ?_ rfl (Nat.le_add_right _ _) rfl

theorem keeps_hourlyWrite {s0 s : State} (h : Keeps s0 s) (n : Fin 4) (record : Option (List Byte)) (written : Bool) : Keeps s0 (State.hourlyWrite s n record written) := by
  unfold State.hourlyWrite
  repeat' first
    | with_reducible assumption
    | intro _
    | with_reducible apply keeps_modFeed
    | with_reducible apply keeps_lifeWrite
    | with_reducible apply keeps_readModule
    | with_reducible apply keeps_moduleBus
    | with_reducible apply Keeps.fold
    | with_reducible apply Keeps.ite
    | dsimp only
    | split
    | fail_if_no_progress with_reducible refine Keeps.same ?_ rfl rfl
    | fail_if_no_progress with_reducible refine Keeps.more ?_ rfl (Nat.le_add_right _ _) rfl

theorem keeps_lifeTurn {s0 s : State} (h : Keeps s0 s) (n : Fin 4) (go : State → State) (kgo : ∀ u, Keeps s0 u → Keeps s0 (go u)) : Keeps s0 (State.lifeTurn s n go) := by
  unfold State.lifeTurn
  repeat' first
    | with_reducible assumption
    | intro _
    | with_reducible apply keeps_modFeed
    | with_reducible apply Keeps.getD
    | with_reducible apply Keeps.fold
    | with_reducible apply Keeps.ite
    | dsimp only
    | split
    | fail_if_no_progress with_reducible refine Keeps.same ?_ rfl rfl
    | fail_if_no_progress with_reducible refine Keeps.more ?_ rfl (Nat.le_add_right _ _) rfl
    | with_reducible apply kgo

theorem keeps_fn_execLifeHourlyWrite {s0 s : State} (h : Keeps s0 s) (n : Fin 4) (record : Option (List Byte)) (written : Bool) : OKeeps s0 (execLifeHourlyWrite n record written s) := by
  unfold execLifeHourlyWrite
  repeat' first
    | with_reducible assumption
    | intro _
    | with_reducible apply OKeeps.of
    | with_reducible apply keeps_hourlyWrite
    | with_reducible apply keeps_lifeTurn
    | with_reducible apply Keeps.fold
    | with_reducible apply Keeps.ite
    | with_reducible apply OKeeps.ite
    | dsimp only
    | split
    | fail_if_no_progress with_reducible refine Keeps.same ?_ rfl rfl
    | fail_if_no_progress with_reducible refine Keeps.more ?_ rfl (Nat.le_add_right _ _) rfl

theorem keeps_fn_execLifeWriteRetry {s0 s : State} (h : Keeps s0 s) (n : Fin 4) (written : Bool) : OKeeps s0 (execLifeWriteRetry n written s) := by
  unfold execLifeWriteRetry
  repeat' first
    | with_reducible assumption
    | intro _
    | with_reducible apply OKeeps.of
    | with_reducible apply keeps_modFeed
    | with_reducible apply keeps_moduleEvent
    | with_reducible apply keeps_lifeWritten
    | with_reducible apply keeps_moduleBus
    | with_reducible apply keeps_lifeTurn
    | with_reducible apply Keeps.fold
    | with_reducible apply Keeps.ite
    | with_reducible apply OKeeps.ite
    | dsimp only
    | split
    | fail_if_no_progress with_reducible refine Keeps.same ?_ rfl rfl
    | fail_if_no_progress with_reducible refine Keeps.more ?_ rfl (Nat.le_add_right _ _) rfl

end Sys2Proof.Laws
end

