-- ==== Sys2Proof/Laws/KeepsCtxOps.lean ====
section
/-!
SUPPORT. The operations and meanings of Machine/CtxOps.lean respect the relation of Keeps.lean.
-/

namespace Sys2Proof.Laws

open Sys2Proof Sys2Proof.Machine

set_option linter.unusedTactic false
set_option linter.unreachableTactic false
set_option linter.unusedVariables false

theorem keeps_freeDelay {s0 s : State} (h : Keeps s0 s) (c : Fin 256) : Keeps s0 (State.freeDelay s c) := by
  unfold State.freeDelay
  repeat' first
    | with_reducible assumption
    | intro _
    | with_reducible apply keeps_modCtx
    | with_reducible apply Keeps.fold
    | with_reducible apply Keeps.ite
    | dsimp only
    | split
    | fail_if_no_progress with_reducible refine Keeps.same ?_ rfl rfl
    | fail_if_no_progress with_reducible refine Keeps.more ?_ rfl (Nat.le_add_right _ _) rfl

theorem keeps_freeMot {s0 s : State} (h : Keeps s0 s) (c : Fin 256) : Keeps s0 (State.freeMot s c) := by
  unfold State.freeMot
  repeat' first
    | with_reducible assumption
    | intro _
    | with_reducible apply Keeps.fold
    | with_reducible apply Keeps.ite
    | dsimp only
    | split
    | fail_if_no_progress with_reducible refine Keeps.same ?_ rfl rfl
    | fail_if_no_progress with_reducible refine Keeps.more ?_ rfl (Nat.le_add_right _ _) rfl

theorem keeps_dropSuper {s0 s : State} (h : Keeps s0 s) (c : Fin 256) : Keeps s0 (State.dropSuper s c) := by
  unfold State.dropSuper
  repeat' first
    | with_reducible assumption
    | intro _
    | with_reducible apply keeps_modDab
    | with_reducible apply Keeps.fold
    | with_reducible apply Keeps.ite
    | dsimp only
    | split
    | fail_if_no_progress with_reducible refine Keeps.same ?_ rfl rfl
    | fail_if_no_progress with_reducible refine Keeps.more ?_ rfl (Nat.le_add_right _ _) rfl

theorem keeps_startClose {s0 s : State} (h : Keeps s0 s) (c : Fin 256) (reason : Nat) : Keeps s0 (State.startClose s c reason) := by
  unfold State.startClose
  repeat' first
    | with_reducible assumption
    | intro _
    | with_reducible apply keeps_modStream
    | with_reducible apply keeps_moveCtx
    | with_reducible apply keeps_dropSuper
    | with_reducible apply Keeps.fold
    | with_reducible apply Keeps.ite
    | dsimp only
    | split
    | fail_if_no_progress with_reducible refine Keeps.same ?_ rfl rfl
    | fail_if_no_progress with_reducible refine Keeps.more ?_ rfl (Nat.le_add_right _ _) rfl

theorem keeps_startOpen {s0 s : State} (h : Keeps s0 s) (c : Fin 256) (q : Ctx) (reason : Nat) : Keeps s0 (State.startOpen s c q reason) := by
  unfold State.startOpen
  repeat' first
    | with_reducible assumption
    | intro _
    | with_reducible apply keeps_modCtx
    | with_reducible apply keeps_moveCtx
    | with_reducible apply Keeps.fold
    | with_reducible apply Keeps.ite
    | dsimp only
    | split
    | fail_if_no_progress with_reducible refine Keeps.same ?_ rfl rfl
    | fail_if_no_progress with_reducible refine Keeps.more ?_ rfl (Nat.le_add_right _ _) rfl

theorem keeps_openCtx {s0 s : State} (h : Keeps s0 s) (c : Fin 256) (q : Ctx) (reason : Nat) : Keeps s0 (State.openCtx s c q reason) := by
  unfold State.openCtx
  repeat' first
    | with_reducible assumption
    | intro _
    | with_reducible apply keeps_moveCtx
    | with_reducible apply keeps_startOpen
    | with_reducible apply Keeps.fold
    | with_reducible apply Keeps.ite
    | dsimp only
    | split
    | fail_if_no_progress with_reducible refine Keeps.same ?_ rfl rfl
    | fail_if_no_progress with_reducible refine Keeps.more ?_ rfl (Nat.le_add_right _ _) rfl

theorem keeps_ctxOpened {s0 s : State} (h : Keeps s0 s) (c : Fin 256) : Keeps s0 (State.ctxOpened s c) := by
  unfold State.ctxOpened
  repeat' first
    | with_reducible assumption
    | intro _
    | with_reducible apply keeps_modCtx
    | with_reducible apply keeps_finishSlot
    | with_reducible apply keeps_moveCtx
    | with_reducible apply Keeps.fold
    | with_reducible apply Keeps.ite
    | dsimp only
    | split
    | fail_if_no_progress with_reducible refine Keeps.same ?_ rfl rfl
    | fail_if_no_progress with_reducible refine Keeps.more ?_ rfl (Nat.le_add_right _ _) rfl

theorem keeps_loseShadow {s0 s : State} (h : Keeps s0 s) (c : Fin 256) : Keeps s0 (State.loseShadow s c) := by
  unfold State.loseShadow
  repeat' first
    | with_reducible assumption
    | intro _
    | with_reducible apply keeps_modFollow
    | with_reducible apply keeps_shadow
    | with_reducible apply Keeps.fold
    | with_reducible apply Keeps.ite
    | dsimp only
    | split
    | fail_if_no_progress with_reducible refine Keeps.same ?_ rfl rfl
    | fail_if_no_progress with_reducible refine Keeps.more ?_ rfl (Nat.le_add_right _ _) rfl

theorem keeps_releaseShadow {s0 s : State} (h : Keeps s0 s) (c : Fin 256) : Keeps s0 (State.releaseShadow s c) := by
  unfold State.releaseShadow
  repeat' first
    | with_reducible assumption
    | intro _
    | with_reducible apply keeps_startClose
    | with_reducible apply keeps_loseShadow
    | with_reducible apply Keeps.fold
    | with_reducible apply Keeps.ite
    | dsimp only
    | split
    | fail_if_no_progress with_reducible refine Keeps.same ?_ rfl rfl
    | fail_if_no_progress with_reducible refine Keeps.more ?_ rfl (Nat.le_add_right _ _) rfl

theorem keeps_releaseShadows {s0 s : State} (h : Keeps s0 s) (f : Fin 256) : Keeps s0 (State.releaseShadows s f) := by
  unfold State.releaseShadows
  repeat' first
    | with_reducible assumption
    | intro _
    | with_reducible apply keeps_releaseShadow
    | with_reducible apply Keeps.fold
    | with_reducible apply Keeps.ite
    | dsimp only
    | split
    | fail_if_no_progress with_reducible refine Keeps.same ?_ rfl rfl
    | fail_if_no_progress with_reducible refine Keeps.more ?_ rfl (Nat.le_add_right _ _) rfl

theorem keeps_blendEvent {s0 s : State} (h : Keeps s0 s) (f : Fin 256) (code : Nat) (b : Blend) : Keeps s0 (State.blendEvent s f code b) := by
  unfold State.blendEvent
  repeat' first
    | with_reducible assumption
    | intro _
    | with_reducible apply keeps_raise
    | with_reducible apply Keeps.fold
    | with_reducible apply Keeps.ite
    | dsimp only
    | split
    | fail_if_no_progress with_reducible refine Keeps.same ?_ rfl rfl
    | fail_if_no_progress with_reducible refine Keeps.more ?_ rfl (Nat.le_add_right _ _) rfl

theorem keeps_cutBlend {s0 s : State} (h : Keeps s0 s) (f : Fin 256) (code : Nat) : Keeps s0 (State.cutBlend s f code) := by
  unfold State.cutBlend
  repeat' first
    | with_reducible assumption
    | intro _
    | with_reducible apply keeps_modFollow
    | with_reducible apply keeps_blendEvent
    | with_reducible apply Keeps.fold
    | with_reducible apply Keeps.ite
    | dsimp only
    | split
    | fail_if_no_progress with_reducible refine Keeps.same ?_ rfl rfl
    | fail_if_no_progress with_reducible refine Keeps.more ?_ rfl (Nat.le_add_right _ _) rfl

theorem keeps_endFollow {s0 s : State} (h : Keeps s0 s) (f : Fin 256) : Keeps s0 (State.endFollow s f) := by
  unfold State.endFollow
  repeat' first
    | with_reducible assumption
    | intro _
    | with_reducible apply keeps_modCtx
    | with_reducible apply keeps_modFollow
    | with_reducible apply keeps_releaseShadows
    | with_reducible apply keeps_cutBlend
    | with_reducible apply Keeps.fold
    | with_reducible apply Keeps.ite
    | dsimp only
    | split
    | fail_if_no_progress with_reducible refine Keeps.same ?_ rfl rfl
    | fail_if_no_progress with_reducible refine Keeps.more ?_ rfl (Nat.le_add_right _ _) rfl

theorem keeps_fanYield {s0 s : State} (h : Keeps s0 s) (w : Fin 64) : Keeps s0 (State.fanYield s w) := by
  unfold State.fanYield
  repeat' first
    | with_reducible assumption
    | intro _
    | with_reducible apply keeps_modWin
    | with_reducible apply keeps_releaseShadow
    | with_reducible apply Keeps.fold
    | with_reducible apply Keeps.ite
    | dsimp only
    | split
    | fail_if_no_progress with_reducible refine Keeps.same ?_ rfl rfl
    | fail_if_no_progress with_reducible refine Keeps.more ?_ rfl (Nat.le_add_right _ _) rfl

theorem keeps_alignEvent {s0 s : State} (h : Keeps s0 s) (f : Fin 256) (code : Nat) (i : Nat) (peak : Nat) : Keeps s0 (State.alignEvent s f code i peak) := by
  unfold State.alignEvent
  repeat' first
    | with_reducible assumption
    | intro _
    | with_reducible apply keeps_raise
    | with_reducible apply Keeps.fold
    | with_reducible apply Keeps.ite
    | dsimp only
    | split
    | fail_if_no_progress with_reducible refine Keeps.same ?_ rfl rfl
    | fail_if_no_progress with_reducible refine Keeps.more ?_ rfl (Nat.le_add_right _ _) rfl

theorem keeps_modCand {s0 s : State} (h : Keeps s0 s) (f : Fin 256) (i : Nat) (g : Cand → Cand) : Keeps s0 (State.modCand s f i g) := by
  unfold State.modCand
  repeat' first
    | with_reducible assumption
    | intro _
    | with_reducible apply keeps_modFollow
    | with_reducible apply Keeps.fold
    | with_reducible apply Keeps.ite
    | dsimp only
    | split
    | fail_if_no_progress with_reducible refine Keeps.same ?_ rfl rfl
    | fail_if_no_progress with_reducible refine Keeps.more ?_ rfl (Nat.le_add_right _ _) rfl

theorem keeps_alignLost {s0 s : State} (h : Keeps s0 s) (f : Fin 256) (i : Nat) (peak : Nat) : Keeps s0 (State.alignLost s f i peak) := by
  unfold State.alignLost
  repeat' first
    | with_reducible assumption
    | intro _
    | with_reducible apply keeps_alignEvent
    | with_reducible apply keeps_modCand
    | with_reducible apply Keeps.fold
    | with_reducible apply Keeps.ite
    | dsimp only
    | split
    | fail_if_no_progress with_reducible refine Keeps.same ?_ rfl rfl
    | fail_if_no_progress with_reducible refine Keeps.more ?_ rfl (Nat.le_add_right _ _) rfl

theorem keeps_delayChanged {s0 s : State} (h : Keeps s0 s) (r : Fin 32) : Keeps s0 (State.delayChanged s r) := by
  unfold State.delayChanged
  repeat' first
    | with_reducible assumption
    | intro _
    | with_reducible apply keeps_shadow
    | with_reducible apply keeps_alignLost
    | with_reducible apply Keeps.fold
    | with_reducible apply Keeps.ite
    | dsimp only
    | split
    | fail_if_no_progress with_reducible refine Keeps.same ?_ rfl rfl
    | fail_if_no_progress with_reducible refine Keeps.more ?_ rfl (Nat.le_add_right _ _) rfl

theorem keeps_shadowUnit {s0 s : State} (h : Keeps s0 s) (c : Fin 256) (gap : Bool) : Keeps s0 (State.shadowUnit s c gap) := by
  unfold State.shadowUnit
  repeat' first
    | with_reducible assumption
    | intro _
    | with_reducible apply keeps_modFollow
    | with_reducible apply keeps_shadow
    | with_reducible apply Keeps.fold
    | with_reducible apply Keeps.ite
    | dsimp only
    | split
    | fail_if_no_progress with_reducible refine Keeps.same ?_ rfl rfl
    | fail_if_no_progress with_reducible refine Keeps.more ?_ rfl (Nat.le_add_right _ _) rfl

theorem keeps_ctxClosed {s0 s : State} (h : Keeps s0 s) (c : Fin 256) : Keeps s0 (State.ctxClosed s c) := by
  unfold State.ctxClosed
  repeat' first
    | with_reducible assumption
    | intro _
    | with_reducible apply keeps_modCtx
    | with_reducible apply keeps_finishSlot
    | with_reducible apply keeps_moveCtx
    | with_reducible apply keeps_freeDelay
    | with_reducible apply keeps_freeMot
    | with_reducible apply Keeps.fold
    | with_reducible apply Keeps.ite
    | dsimp only
    | split
    | fail_if_no_progress with_reducible refine Keeps.same ?_ rfl rfl
    | fail_if_no_progress with_reducible refine Keeps.more ?_ rfl (Nat.le_add_right _ _) rfl

end Sys2Proof.Laws
end

