-- ==== Sys2Proof/Laws/KeepsWinOps.lean ====
section
/-!
SUPPORT. The operations and meanings of Machine/WinOps.lean respect the relation of Keeps.lean.
-/

namespace Sys2Proof.Laws

open Sys2Proof Sys2Proof.Machine

set_option linter.unusedTactic false
set_option linter.unreachableTactic false
set_option linter.unusedVariables false

theorem keeps_takeBlocks {s0 s t : State} (h : Keeps s0 s) {w : Fin 64} {pos : Fin 4} {n st : Nat}
    (e : State.takeBlocks s w pos n = some (st, t)) : Keeps s0 t := by
  unfold State.takeBlocks at e
  simp only [Option.map_eq_some_iff, Prod.mk.injEq] at e
  obtain ⟨_, _, _, rfl⟩ := e
  exact Keeps.same h rfl rfl

theorem keeps_freeBlocks {s0 s : State} (h : Keeps s0 s) (w : Fin 64) (pos : Fin 4) : Keeps s0 (State.freeBlocks s w pos) := by
  unfold State.freeBlocks
  repeat' first
    | with_reducible assumption
    | intro _
    | with_reducible apply keeps_gpFree
    | with_reducible apply Keeps.fold
    | with_reducible apply Keeps.ite
    | dsimp only
    | split
    | fail_if_no_progress with_reducible refine Keeps.same ?_ rfl rfl
    | fail_if_no_progress with_reducible refine Keeps.more ?_ rfl (Nat.le_add_right _ _) rfl

theorem keeps_addLeg {s0 s t : State} (h : Keeps s0 s) {w : Fin 64} {pos ant : Fin 4} {n : Nat}
    (e : State.addLeg s w pos ant n = some t) : Keeps s0 t := by
  unfold State.addLeg at e
  dsimp only at e
  split at e
  · cases e
    exact keeps_modWin (keeps_takeBlocks h ‹_›) _ _
  · cases e

theorem keeps_addLegs {s0 s t : State} (h : Keeps s0 s) {w : Fin 64} {l : List (Fin 4)} {pos : Nat}
    (e : State.addLegs s w l pos = some t) : Keeps s0 t := by
  induction l generalizing s pos with
  | nil =>
    cases e
    exact h
  | cons a l ih =>
    unfold State.addLegs at e
    split at e
    · cases e
    · exact ih (keeps_addLeg h ‹_›) e

theorem keeps_openWin {s0 s t : State} (h : Keeps s0 s) {w : Fin 64} {q : WinReq}
    (e : State.openWin s w q = some t) : Keeps s0 t := by
  unfold State.openWin at e
  simp only [Option.map_eq_some_iff] at e
  obtain ⟨u, hu, rfl⟩ := e
  exact keeps_modWin (keeps_addLegs (keeps_modWin h _ _) hu) _ _

theorem keeps_withhold {s0 s : State} (h : Keeps s0 s) (w : Fin 64) (c : WinChange) : Keeps s0 (State.withhold s w c) := by
  unfold State.withhold
  repeat' first
    | with_reducible assumption
    | intro _
    | with_reducible apply keeps_modWin
    | with_reducible apply Keeps.fold
    | with_reducible apply Keeps.ite
    | dsimp only
    | split
    | fail_if_no_progress with_reducible refine Keeps.same ?_ rfl rfl
    | fail_if_no_progress with_reducible refine Keeps.more ?_ rfl (Nat.le_add_right _ _) rfl

theorem keeps_tuneWin {s0 s : State} (h : Keeps s0 s) (w : Fin 64) (f : Nat) : Keeps s0 (State.tuneWin s w f) := by
  unfold State.tuneWin
  repeat' first
    | with_reducible assumption
    | intro _
    | with_reducible apply keeps_modWin
    | with_reducible apply keeps_modFm
    | with_reducible apply keeps_modDab
    | with_reducible apply keeps_reacquire
    | with_reducible apply keeps_withhold
    | with_reducible apply Keeps.fold
    | with_reducible apply Keeps.ite
    | dsimp only
    | split
    | fail_if_no_progress with_reducible refine Keeps.same ?_ rfl rfl
    | fail_if_no_progress with_reducible refine Keeps.more ?_ rfl (Nat.le_add_right _ _) rfl

theorem keeps_closeWin {s0 s : State} (h : Keeps s0 s) (w : Fin 64) : Keeps s0 (State.closeWin s w) := by
  unfold State.closeWin
  repeat' first
    | with_reducible assumption
    | intro _
    | with_reducible apply keeps_modWin
    | with_reducible apply keeps_modRun
    | with_reducible apply keeps_freeBlocks
    | with_reducible apply Keeps.fold
    | with_reducible apply Keeps.ite
    | dsimp only
    | split
    | fail_if_no_progress with_reducible refine Keeps.same ?_ rfl rfl
    | fail_if_no_progress with_reducible refine Keeps.more ?_ rfl (Nat.le_add_right _ _) rfl

end Sys2Proof.Laws
end

