-- ==== Sys2Proof/Laws/KeepsWindows.lean ====
section
/-!
SUPPORT. The operations and meanings of Machine/Windows.lean respect the relation of Keeps.lean.
-/

namespace Sys2Proof.Laws

open Sys2Proof Sys2Proof.Machine

set_option linter.unusedTactic false
set_option linter.unreachableTactic false
set_option linter.unusedVariables false

theorem keeps_openCmd {s0 s : State} (h : Keeps s0 s) (c : CmdEntry) (x : Split) : AKeeps s0 (State.openCmd s c x) := by
  unfold State.openCmd
  repeat' first
    | with_reducible assumption
    | intro _
    | with_reducible apply AKeeps.checked
    | with_reducible apply AKeeps.ok
    | with_reducible apply AKeeps.part
    | with_reducible apply AKeeps.fail
    | with_reducible apply AKeeps.wait
    | with_reducible apply AKeeps.done
    | refine keeps_openWin ?_ (by assumption)
    | with_reducible apply Keeps.fold
    | with_reducible apply Keeps.ite
    | with_reducible apply AKeeps.ite
    | dsimp only
    | split
    | fail_if_no_progress with_reducible refine Keeps.same ?_ rfl rfl
    | fail_if_no_progress with_reducible refine Keeps.more ?_ rfl (Nat.le_add_right _ _) rfl

theorem keeps_fanGive {s0 s : State} (h : Keeps s0 s) (w : Option (Fin 64)) : Keeps s0 (State.fanGive s w) := by
  unfold State.fanGive
  repeat' first
    | with_reducible assumption
    | intro _
    | with_reducible apply keeps_fanYield
    | with_reducible apply keeps_closeWin
    | with_reducible apply Keeps.fold
    | with_reducible apply Keeps.ite
    | dsimp only
    | split
    | fail_if_no_progress with_reducible refine Keeps.same ?_ rfl rfl
    | fail_if_no_progress with_reducible refine Keeps.more ?_ rfl (Nat.le_add_right _ _) rfl

theorem keeps_fn_bodyWinOpen {s0 s : State} (h : Keeps s0 s) (c : CmdEntry) : AKeeps s0 (bodyWinOpen c s) := by
  unfold bodyWinOpen
  repeat' first
    | with_reducible assumption
    | intro _
    | with_reducible apply AKeeps.checked
    | with_reducible apply AKeeps.ok
    | with_reducible apply AKeeps.part
    | with_reducible apply AKeeps.fail
    | with_reducible apply AKeeps.wait
    | with_reducible apply AKeeps.done
    | with_reducible apply keeps_fault
    | with_reducible apply keeps_openCmd
    | with_reducible apply keeps_fanGive
    | with_reducible apply Keeps.fold
    | with_reducible apply Keeps.ite
    | with_reducible apply AKeeps.ite
    | dsimp only
    | split
    | fail_if_no_progress with_reducible refine Keeps.same ?_ rfl rfl
    | fail_if_no_progress with_reducible refine Keeps.more ?_ rfl (Nat.le_add_right _ _) rfl

theorem keeps_fn_execWinOpen {s0 s : State} (h : Keeps s0 s) (c : CmdEntry) : OKeeps s0 (execWinOpen c s) := by
  unfold execWinOpen
  repeat' first
    | with_reducible assumption
    | intro _
    | with_reducible apply keeps_runCmd
    | with_reducible apply OKeeps.of
    | with_reducible apply keeps_runCmd
    | with_reducible apply keeps_fn_bodyWinOpen
    | with_reducible apply Keeps.fold
    | with_reducible apply Keeps.ite
    | with_reducible apply OKeeps.ite
    | dsimp only
    | split
    | fail_if_no_progress with_reducible refine Keeps.same ?_ rfl rfl
    | fail_if_no_progress with_reducible refine Keeps.more ?_ rfl (Nat.le_add_right _ _) rfl

theorem keeps_fn_bodyWinClose {s0 s : State} (h : Keeps s0 s) (c : CmdEntry) : AKeeps s0 (bodyWinClose c s) := by
  unfold bodyWinClose
  repeat' first
    | with_reducible assumption
    | intro _
    | with_reducible apply AKeeps.checked
    | with_reducible apply AKeeps.ok
    | with_reducible apply AKeeps.part
    | with_reducible apply AKeeps.fail
    | with_reducible apply AKeeps.wait
    | with_reducible apply AKeeps.done
    | with_reducible apply keeps_modWin
    | with_reducible apply keeps_fanYield
    | with_reducible apply Keeps.fold
    | with_reducible apply Keeps.ite
    | with_reducible apply AKeeps.ite
    | dsimp only
    | split
    | fail_if_no_progress with_reducible refine Keeps.same ?_ rfl rfl
    | fail_if_no_progress with_reducible refine Keeps.more ?_ rfl (Nat.le_add_right _ _) rfl

theorem keeps_fn_execWinClose {s0 s : State} (h : Keeps s0 s) (c : CmdEntry) : OKeeps s0 (execWinClose c s) := by
  unfold execWinClose
  repeat' first
    | with_reducible assumption
    | intro _
    | with_reducible apply keeps_runCmd
    | with_reducible apply OKeeps.of
    | with_reducible apply keeps_runCmd
    | with_reducible apply keeps_fn_bodyWinClose
    | with_reducible apply Keeps.fold
    | with_reducible apply Keeps.ite
    | with_reducible apply OKeeps.ite
    | dsimp only
    | split
    | fail_if_no_progress with_reducible refine Keeps.same ?_ rfl rfl
    | fail_if_no_progress with_reducible refine Keeps.more ?_ rfl (Nat.le_add_right _ _) rfl

theorem keeps_closeEffect {s0 s : State} (h : Keeps s0 s) (w : Fin 64) : Keeps s0 (State.closeEffect s w) := by
  unfold State.closeEffect
  repeat' first
    | with_reducible assumption
    | intro _
    | with_reducible apply keeps_finishSlot
    | with_reducible apply keeps_ctxsToAcquiring
    | with_reducible apply keeps_closeWin
    | with_reducible apply Keeps.fold
    | with_reducible apply Keeps.ite
    | dsimp only
    | split
    | fail_if_no_progress with_reducible refine Keeps.same ?_ rfl rfl
    | fail_if_no_progress with_reducible refine Keeps.more ?_ rfl (Nat.le_add_right _ _) rfl

theorem keeps_fn_execWinCloseEffect {s0 s : State} (h : Keeps s0 s) (w : Fin 64) : OKeeps s0 (execWinCloseEffect w s) := by
  unfold execWinCloseEffect
  repeat' first
    | with_reducible assumption
    | intro _
    | with_reducible apply OKeeps.of
    | with_reducible apply keeps_closeEffect
    | with_reducible apply Keeps.fold
    | with_reducible apply Keeps.ite
    | with_reducible apply OKeeps.ite
    | dsimp only
    | split
    | fail_if_no_progress with_reducible refine Keeps.same ?_ rfl rfl
    | fail_if_no_progress with_reducible refine Keeps.more ?_ rfl (Nat.le_add_right _ _) rfl

theorem keeps_fn_bodyWinTune {s0 s : State} (h : Keeps s0 s) (c : CmdEntry) : AKeeps s0 (bodyWinTune c s) := by
  unfold bodyWinTune
  repeat' first
    | with_reducible assumption
    | intro _
    | with_reducible apply AKeeps.checked
    | with_reducible apply AKeeps.ok
    | with_reducible apply AKeeps.part
    | with_reducible apply AKeeps.fail
    | with_reducible apply AKeeps.wait
    | with_reducible apply AKeeps.done
    | with_reducible apply keeps_fn_Answer_done
    | with_reducible apply keeps_fault
    | with_reducible apply keeps_fanYield
    | with_reducible apply keeps_tuneWin
    | with_reducible apply Keeps.fold
    | with_reducible apply Keeps.ite
    | with_reducible apply AKeeps.ite
    | dsimp only
    | split
    | fail_if_no_progress with_reducible refine Keeps.same ?_ rfl rfl
    | fail_if_no_progress with_reducible refine Keeps.more ?_ rfl (Nat.le_add_right _ _) rfl

theorem keeps_fn_execWinTune {s0 s : State} (h : Keeps s0 s) (c : CmdEntry) : OKeeps s0 (execWinTune c s) := by
  unfold execWinTune
  repeat' first
    | with_reducible assumption
    | intro _
    | with_reducible apply keeps_runCmd
    | with_reducible apply OKeeps.of
    | with_reducible apply keeps_runCmd
    | with_reducible apply keeps_fn_bodyWinTune
    | with_reducible apply Keeps.fold
    | with_reducible apply Keeps.ite
    | with_reducible apply OKeeps.ite
    | dsimp only
    | split
    | fail_if_no_progress with_reducible refine Keeps.same ?_ rfl rfl
    | fail_if_no_progress with_reducible refine Keeps.more ?_ rfl (Nat.le_add_right _ _) rfl

theorem keeps_fn_bodyWinRatio {s0 s : State} (h : Keeps s0 s) (c : CmdEntry) : AKeeps s0 (bodyWinRatio c s) := by
  unfold bodyWinRatio
  repeat' first
    | with_reducible assumption
    | intro _
    | with_reducible apply AKeeps.checked
    | with_reducible apply AKeeps.ok
    | with_reducible apply AKeeps.part
    | with_reducible apply AKeeps.fail
    | with_reducible apply AKeeps.wait
    | with_reducible apply AKeeps.done
    | with_reducible apply keeps_modWin
    | with_reducible apply keeps_fault
    | with_reducible apply Keeps.fold
    | with_reducible apply Keeps.ite
    | with_reducible apply AKeeps.ite
    | dsimp only
    | split
    | fail_if_no_progress with_reducible refine Keeps.same ?_ rfl rfl
    | fail_if_no_progress with_reducible refine Keeps.more ?_ rfl (Nat.le_add_right _ _) rfl

theorem keeps_fn_execWinRatio {s0 s : State} (h : Keeps s0 s) (c : CmdEntry) : OKeeps s0 (execWinRatio c s) := by
  unfold execWinRatio
  repeat' first
    | with_reducible assumption
    | intro _
    | with_reducible apply keeps_runCmd
    | with_reducible apply OKeeps.of
    | with_reducible apply keeps_runCmd
    | with_reducible apply keeps_fn_bodyWinRatio
    | with_reducible apply Keeps.fold
    | with_reducible apply Keeps.ite
    | with_reducible apply OKeeps.ite
    | dsimp only
    | split
    | fail_if_no_progress with_reducible refine Keeps.same ?_ rfl rfl
    | fail_if_no_progress with_reducible refine Keeps.more ?_ rfl (Nat.le_add_right _ _) rfl

theorem keeps_fn_bodyWinCoef {s0 s : State} (h : Keeps s0 s) (c : CmdEntry) : AKeeps s0 (bodyWinCoef c s) := by
  unfold bodyWinCoef
  repeat' first
    | with_reducible assumption
    | intro _
    | with_reducible apply AKeeps.checked
    | with_reducible apply AKeeps.ok
    | with_reducible apply AKeeps.part
    | with_reducible apply AKeeps.fail
    | with_reducible apply AKeeps.wait
    | with_reducible apply AKeeps.done
    | with_reducible apply keeps_modWin
    | with_reducible apply keeps_fn_Answer_done
    | with_reducible apply Keeps.fold
    | with_reducible apply Keeps.ite
    | with_reducible apply AKeeps.ite
    | dsimp only
    | split
    | fail_if_no_progress with_reducible refine Keeps.same ?_ rfl rfl
    | fail_if_no_progress with_reducible refine Keeps.more ?_ rfl (Nat.le_add_right _ _) rfl

theorem keeps_fn_execWinCoef {s0 s : State} (h : Keeps s0 s) (c : CmdEntry) : OKeeps s0 (execWinCoef c s) := by
  unfold execWinCoef
  repeat' first
    | with_reducible assumption
    | intro _
    | with_reducible apply keeps_runCmd
    | with_reducible apply OKeeps.of
    | with_reducible apply keeps_runCmd
    | with_reducible apply keeps_fn_bodyWinCoef
    | with_reducible apply Keeps.fold
    | with_reducible apply Keeps.ite
    | with_reducible apply OKeeps.ite
    | dsimp only
    | split
    | fail_if_no_progress with_reducible refine Keeps.same ?_ rfl rfl
    | fail_if_no_progress with_reducible refine Keeps.more ?_ rfl (Nat.le_add_right _ _) rfl

theorem keeps_fn_bodyWinBank {s0 s : State} (h : Keeps s0 s) (c : CmdEntry) : AKeeps s0 (bodyWinBank c s) := by
  unfold bodyWinBank
  repeat' first
    | with_reducible assumption
    | intro _
    | with_reducible apply AKeeps.checked
    | with_reducible apply AKeeps.ok
    | with_reducible apply AKeeps.part
    | with_reducible apply AKeeps.fail
    | with_reducible apply AKeeps.wait
    | with_reducible apply AKeeps.done
    | with_reducible apply keeps_modWin
    | with_reducible apply keeps_fault
    | with_reducible apply Keeps.fold
    | with_reducible apply Keeps.ite
    | with_reducible apply AKeeps.ite
    | dsimp only
    | split
    | fail_if_no_progress with_reducible refine Keeps.same ?_ rfl rfl
    | fail_if_no_progress with_reducible refine Keeps.more ?_ rfl (Nat.le_add_right _ _) rfl

theorem keeps_fn_execWinBank {s0 s : State} (h : Keeps s0 s) (c : CmdEntry) : OKeeps s0 (execWinBank c s) := by
  unfold execWinBank
  repeat' first
    | with_reducible assumption
    | intro _
    | with_reducible apply keeps_runCmd
    | with_reducible apply OKeeps.of
    | with_reducible apply keeps_runCmd
    | with_reducible apply keeps_fn_bodyWinBank
    | with_reducible apply Keeps.fold
    | with_reducible apply Keeps.ite
    | with_reducible apply OKeeps.ite
    | dsimp only
    | split
    | fail_if_no_progress with_reducible refine Keeps.same ?_ rfl rfl
    | fail_if_no_progress with_reducible refine Keeps.more ?_ rfl (Nat.le_add_right _ _) rfl

theorem keeps_swapEffect {s0 s : State} (h : Keeps s0 s) (w : Fin 64) : Keeps s0 (State.swapEffect s w) := by
  unfold State.swapEffect
  repeat' first
    | with_reducible assumption
    | intro _
    | with_reducible apply keeps_modWin
    | with_reducible apply keeps_finishSlot
    | with_reducible apply keeps_restart
    | with_reducible apply keeps_withhold
    | with_reducible apply Keeps.fold
    | with_reducible apply Keeps.ite
    | dsimp only
    | split
    | fail_if_no_progress with_reducible refine Keeps.same ?_ rfl rfl
    | fail_if_no_progress with_reducible refine Keeps.more ?_ rfl (Nat.le_add_right _ _) rfl

theorem keeps_fn_execBankSwapEffect {s0 s : State} (h : Keeps s0 s) (w : Fin 64) : OKeeps s0 (execBankSwapEffect w s) := by
  unfold execBankSwapEffect
  repeat' first
    | with_reducible assumption
    | intro _
    | with_reducible apply OKeeps.of
    | with_reducible apply keeps_swapEffect
    | with_reducible apply Keeps.fold
    | with_reducible apply Keeps.ite
    | with_reducible apply OKeeps.ite
    | dsimp only
    | split
    | fail_if_no_progress with_reducible refine Keeps.same ?_ rfl rfl
    | fail_if_no_progress with_reducible refine Keeps.more ?_ rfl (Nat.le_add_right _ _) rfl

theorem keeps_setDelay {s0 s : State} (h : Keeps s0 s) (w : Fin 64) (sel : Fin 4 → Bool) (v : Nat) (ramp : Bool) : Keeps s0 (State.setDelay s w sel v ramp) := by
  unfold State.setDelay
  repeat' first
    | with_reducible assumption
    | intro _
    | with_reducible apply keeps_modWin
    | with_reducible apply Keeps.fold
    | with_reducible apply Keeps.ite
    | dsimp only
    | split
    | fail_if_no_progress with_reducible refine Keeps.same ?_ rfl rfl
    | fail_if_no_progress with_reducible refine Keeps.more ?_ rfl (Nat.le_add_right _ _) rfl

theorem keeps_fn_bodyWinDelay {s0 s : State} (h : Keeps s0 s) (c : CmdEntry) : AKeeps s0 (bodyWinDelay c s) := by
  unfold bodyWinDelay
  repeat' first
    | with_reducible assumption
    | intro _
    | with_reducible apply AKeeps.checked
    | with_reducible apply AKeeps.ok
    | with_reducible apply AKeeps.part
    | with_reducible apply AKeeps.fail
    | with_reducible apply AKeeps.wait
    | with_reducible apply AKeeps.done
    | with_reducible apply keeps_fn_Answer_done
    | with_reducible apply keeps_fault
    | with_reducible apply keeps_delayChanged
    | with_reducible apply keeps_setDelay
    | with_reducible apply Keeps.fold
    | with_reducible apply Keeps.ite
    | with_reducible apply AKeeps.ite
    | dsimp only
    | split
    | fail_if_no_progress with_reducible refine Keeps.same ?_ rfl rfl
    | fail_if_no_progress with_reducible refine Keeps.more ?_ rfl (Nat.le_add_right _ _) rfl

theorem keeps_fn_execWinDelay {s0 s : State} (h : Keeps s0 s) (c : CmdEntry) : OKeeps s0 (execWinDelay c s) := by
  unfold execWinDelay
  repeat' first
    | with_reducible assumption
    | intro _
    | with_reducible apply keeps_runCmd
    | with_reducible apply OKeeps.of
    | with_reducible apply keeps_runCmd
    | with_reducible apply keeps_fn_bodyWinDelay
    | with_reducible apply Keeps.fold
    | with_reducible apply Keeps.ite
    | with_reducible apply OKeeps.ite
    | dsimp only
    | split
    | fail_if_no_progress with_reducible refine Keeps.same ?_ rfl rfl
    | fail_if_no_progress with_reducible refine Keeps.more ?_ rfl (Nat.le_add_right _ _) rfl

theorem keeps_legAdd {s0 s : State} (h : Keeps s0 s) (w : Fin 64) (a : Fin 4) : AKeeps s0 (State.legAdd s w a) := by
  unfold State.legAdd
  repeat' first
    | with_reducible assumption
    | intro _
    | with_reducible apply AKeeps.checked
    | with_reducible apply AKeeps.ok
    | with_reducible apply AKeeps.part
    | with_reducible apply AKeeps.fail
    | with_reducible apply AKeeps.wait
    | with_reducible apply AKeeps.done
    | refine keeps_addLeg ?_ (by assumption)
    | with_reducible apply Keeps.fold
    | with_reducible apply Keeps.ite
    | with_reducible apply AKeeps.ite
    | dsimp only
    | split
    | fail_if_no_progress with_reducible refine Keeps.same ?_ rfl rfl
    | fail_if_no_progress with_reducible refine Keeps.more ?_ rfl (Nat.le_add_right _ _) rfl

theorem keeps_legRemove {s0 s : State} (h : Keeps s0 s) (w : Fin 64) (p : Fin 4) : AKeeps s0 (State.legRemove s w p) := by
  unfold State.legRemove
  repeat' first
    | with_reducible assumption
    | intro _
    | with_reducible apply AKeeps.checked
    | with_reducible apply AKeeps.ok
    | with_reducible apply AKeeps.part
    | with_reducible apply AKeeps.fail
    | with_reducible apply AKeeps.wait
    | with_reducible apply AKeeps.done
    | with_reducible apply keeps_modWin
    | with_reducible apply Keeps.fold
    | with_reducible apply Keeps.ite
    | with_reducible apply AKeeps.ite
    | dsimp only
    | split
    | fail_if_no_progress with_reducible refine Keeps.same ?_ rfl rfl
    | fail_if_no_progress with_reducible refine Keeps.more ?_ rfl (Nat.le_add_right _ _) rfl

theorem keeps_fn_bodyWinLeg {s0 s : State} (h : Keeps s0 s) (c : CmdEntry) : AKeeps s0 (bodyWinLeg c s) := by
  unfold bodyWinLeg
  repeat' first
    | with_reducible assumption
    | intro _
    | with_reducible apply AKeeps.checked
    | with_reducible apply AKeeps.ok
    | with_reducible apply AKeeps.part
    | with_reducible apply AKeeps.fail
    | with_reducible apply AKeeps.wait
    | with_reducible apply AKeeps.done
    | with_reducible apply keeps_fault
    | with_reducible apply keeps_legAdd
    | with_reducible apply keeps_legRemove
    | with_reducible apply Keeps.fold
    | with_reducible apply Keeps.ite
    | with_reducible apply AKeeps.ite
    | dsimp only
    | split
    | fail_if_no_progress with_reducible refine Keeps.same ?_ rfl rfl
    | fail_if_no_progress with_reducible refine Keeps.more ?_ rfl (Nat.le_add_right _ _) rfl

theorem keeps_fn_execWinLeg {s0 s : State} (h : Keeps s0 s) (c : CmdEntry) : OKeeps s0 (execWinLeg c s) := by
  unfold execWinLeg
  repeat' first
    | with_reducible assumption
    | intro _
    | with_reducible apply keeps_runCmd
    | with_reducible apply OKeeps.of
    | with_reducible apply keeps_runCmd
    | with_reducible apply keeps_fn_bodyWinLeg
    | with_reducible apply Keeps.fold
    | with_reducible apply Keeps.ite
    | with_reducible apply OKeeps.ite
    | dsimp only
    | split
    | fail_if_no_progress with_reducible refine Keeps.same ?_ rfl rfl
    | fail_if_no_progress with_reducible refine Keeps.more ?_ rfl (Nat.le_add_right _ _) rfl

theorem keeps_fn_execLegRemoveEffect {s0 s : State} (h : Keeps s0 s) (w : Fin 64) : OKeeps s0 (execLegRemoveEffect w s) := by
  unfold execLegRemoveEffect
  repeat' first
    | with_reducible assumption
    | intro _
    | with_reducible apply OKeeps.of
    | with_reducible apply keeps_modWin
    | with_reducible apply keeps_freeBlocks
    | with_reducible apply Keeps.fold
    | with_reducible apply Keeps.ite
    | with_reducible apply OKeeps.ite
    | dsimp only
    | split
    | fail_if_no_progress with_reducible refine Keeps.same ?_ rfl rfl
    | fail_if_no_progress with_reducible refine Keeps.more ?_ rfl (Nat.le_add_right _ _) rfl

theorem keeps_legOverrun {s0 s : State} (h : Keeps s0 s) (w : Fin 64) (pos : Fin 4) (lost : Nat) : Keeps s0 (State.legOverrun s w pos lost) := by
  unfold State.legOverrun
  repeat' first
    | with_reducible assumption
    | intro _
    | with_reducible apply keeps_raiseLimited
    | with_reducible apply keeps_loseSamples
    | with_reducible apply Keeps.fold
    | with_reducible apply Keeps.ite
    | dsimp only
    | split
    | fail_if_no_progress with_reducible refine Keeps.same ?_ rfl rfl
    | fail_if_no_progress with_reducible refine Keeps.more ?_ rfl (Nat.le_add_right _ _) rfl

theorem keeps_fn_execLegOverrun {s0 s : State} (h : Keeps s0 s) (w : Fin 64) (pos : Fin 4) (lost : Nat) : OKeeps s0 (execLegOverrun w pos lost s) := by
  unfold execLegOverrun
  repeat' first
    | with_reducible assumption
    | intro _
    | with_reducible apply OKeeps.of
    | with_reducible apply keeps_legOverrun
    | with_reducible apply Keeps.fold
    | with_reducible apply Keeps.ite
    | with_reducible apply OKeeps.ite
    | dsimp only
    | split
    | fail_if_no_progress with_reducible refine Keeps.same ?_ rfl rfl
    | fail_if_no_progress with_reducible refine Keeps.more ?_ rfl (Nat.le_add_right _ _) rfl

theorem keeps_gapBlock {s0 s : State} (h : Keeps s0 s) (r : Fin 32) : Keeps s0 (State.gapBlock s r) := by
  unfold State.gapBlock
  repeat' first
    | with_reducible assumption
    | intro _
    | with_reducible apply keeps_modRun
    | with_reducible apply keeps_reacquire
    | with_reducible apply Keeps.fold
    | with_reducible apply Keeps.ite
    | dsimp only
    | split
    | fail_if_no_progress with_reducible refine Keeps.same ?_ rfl rfl
    | fail_if_no_progress with_reducible refine Keeps.more ?_ rfl (Nat.le_add_right _ _) rfl

theorem keeps_runnerBlock {s0 s : State} (h : Keeps s0 s) (w : Fin 64) (mask : Nat) (every : Nat) (legLost : Nat) (lost : Nat) : Keeps s0 (State.runnerBlock s w mask every legLost lost) := by
  unfold State.runnerBlock
  repeat' first
    | with_reducible assumption
    | intro _
    | with_reducible apply keeps_modRun
    | with_reducible apply keeps_linkAux
    | with_reducible apply keeps_gapBlock
    | with_reducible apply Keeps.fold
    | with_reducible apply Keeps.ite
    | dsimp only
    | split
    | fail_if_no_progress with_reducible refine Keeps.same ?_ rfl rfl
    | fail_if_no_progress with_reducible refine Keeps.more ?_ rfl (Nat.le_add_right _ _) rfl

theorem keeps_outputBlock {s0 s : State} (h : Keeps s0 s) (w : Fin 64) : Keeps s0 (State.outputBlock s w) := by
  unfold State.outputBlock
  extract_lets x mask disc reports lost s2 s3 y
  have h2 : Keeps s0 s2 := Keeps.fold _ _ h fun t r k => Keeps.ite (keeps_linkDisc k _) k
  have h3 : Keeps s0 s3 := Keeps.ite (keeps_linkDisc h2 _) h2
  clear_value s3
  exact keeps_runnerBlock (keeps_modWin h3 _ _) _ _ _ _ _

theorem keeps_fn_execWinOutputBlock {s0 s : State} (h : Keeps s0 s) (w : Fin 64) (b : RaceIn) : OKeeps s0 (execWinOutputBlock w b s) := by
  unfold execWinOutputBlock
  repeat' first
    | with_reducible assumption
    | intro _
    | with_reducible apply OKeeps.of
    | with_reducible apply keeps_feedWin
    | with_reducible apply keeps_outputBlock
    | with_reducible apply Keeps.fold
    | with_reducible apply Keeps.ite
    | with_reducible apply OKeeps.ite
    | dsimp only
    | split
    | fail_if_no_progress with_reducible refine Keeps.same ?_ rfl rfl
    | fail_if_no_progress with_reducible refine Keeps.more ?_ rfl (Nat.le_add_right _ _) rfl

theorem keeps_settled {s0 s : State} (h : Keeps s0 s) (w : Fin 64) : Keeps s0 (State.settled s w) := by
  unfold State.settled
  exact keeps_raise (keeps_modRun (keeps_modWin h _ _) _ _) _ _ _

theorem keeps_fn_execWinSettled {s0 s : State} (h : Keeps s0 s) (w : Fin 64) (b : RaceIn) : OKeeps s0 (execWinSettled w b s) := by
  unfold execWinSettled
  repeat' first
    | with_reducible assumption
    | intro _
    | with_reducible apply OKeeps.of
    | with_reducible apply keeps_feedWin
    | with_reducible apply keeps_settled
    | with_reducible apply Keeps.fold
    | with_reducible apply Keeps.ite
    | with_reducible apply OKeeps.ite
    | dsimp only
    | split
    | fail_if_no_progress with_reducible refine Keeps.same ?_ rfl rfl
    | fail_if_no_progress with_reducible refine Keeps.more ?_ rfl (Nat.le_add_right _ _) rfl

theorem keeps_cma {s0 s : State} (h : Keeps s0 s) (w : Fin 64) : Keeps s0 (State.cma s w) := by
  unfold State.cma
  repeat' first
    | with_reducible assumption
    | intro _
    | with_reducible apply keeps_modWin
    | with_reducible apply Keeps.fold
    | with_reducible apply Keeps.ite
    | dsimp only
    | split
    | fail_if_no_progress with_reducible refine Keeps.same ?_ rfl rfl
    | fail_if_no_progress with_reducible refine Keeps.more ?_ rfl (Nat.le_add_right _ _) rfl

theorem keeps_fn_execCmaUpdate {s0 s : State} (h : Keeps s0 s) (w : Fin 64) (b : RaceIn) : OKeeps s0 (execCmaUpdate w b s) := by
  unfold execCmaUpdate
  repeat' first
    | with_reducible assumption
    | intro _
    | with_reducible apply OKeeps.of
    | with_reducible apply keeps_modWin
    | with_reducible apply keeps_feedWin
    | with_reducible apply keeps_cma
    | with_reducible apply Keeps.fold
    | with_reducible apply Keeps.ite
    | with_reducible apply OKeeps.ite
    | dsimp only
    | split
    | fail_if_no_progress with_reducible refine Keeps.same ?_ rfl rfl
    | fail_if_no_progress with_reducible refine Keeps.more ?_ rfl (Nat.le_add_right _ _) rfl

theorem keeps_scanSkip {s0 s : State} (h : Keeps s0 s) (j : Nat) : Keeps s0 (State.scanSkip s j) := by
  unfold State.scanSkip
  repeat' first
    | with_reducible assumption
    | intro _
    | with_reducible apply keeps_linkDrop
    | with_reducible apply Keeps.fold
    | with_reducible apply Keeps.ite
    | dsimp only
    | split
    | fail_if_no_progress with_reducible refine Keeps.same ?_ rfl rfl
    | fail_if_no_progress with_reducible refine Keeps.more ?_ rfl (Nat.le_add_right _ _) rfl

theorem keeps_scanMark {s0 s : State} (h : Keeps s0 s) (j : Nat) : Keeps s0 (State.scanMark s j) := by
  unfold State.scanMark
  repeat' first
    | with_reducible assumption
    | intro _
    | with_reducible apply keeps_linkDisc
    | with_reducible apply Keeps.fold
    | with_reducible apply Keeps.ite
    | dsimp only
    | split
    | fail_if_no_progress with_reducible refine Keeps.same ?_ rfl rfl
    | fail_if_no_progress with_reducible refine Keeps.more ?_ rfl (Nat.le_add_right _ _) rfl

theorem keeps_scanLink {s0 s : State} (h : Keeps s0 s) (n : Fin 4) (dab : Bool) (obs : List ScanObs) : Keeps s0 (State.scanLink s n dab obs) := by
  unfold State.scanLink
  repeat' first
    | with_reducible assumption
    | intro _
    | with_reducible apply keeps_scanSkip
    | with_reducible apply keeps_scanMark
    | with_reducible apply Keeps.fold
    | with_reducible apply Keeps.ite
    | dsimp only
    | split
    | fail_if_no_progress with_reducible refine Keeps.same ?_ rfl rfl
    | fail_if_no_progress with_reducible refine Keeps.more ?_ rfl (Nat.le_add_right _ _) rfl

theorem keeps_scanDone {s0 s : State} (h : Keeps s0 s) (code : Nat) (bit : Nat) : Keeps s0 (State.scanDone s code bit) := by
  unfold State.scanDone
  repeat' first
    | with_reducible assumption
    | intro _
    | with_reducible apply keeps_raise
    | with_reducible apply Keeps.fold
    | with_reducible apply Keeps.ite
    | dsimp only
    | split
    | fail_if_no_progress with_reducible refine Keeps.same ?_ rfl rfl
    | fail_if_no_progress with_reducible refine Keeps.more ?_ rfl (Nat.le_add_right _ _) rfl

theorem keeps_scanRun {s0 s : State} (h : Keeps s0 s) (dab : Bool) (meas : List (List ScanObs)) : Keeps s0 (State.scanRun s dab meas) := by
  unfold State.scanRun
  repeat' first
    | with_reducible assumption
    | intro _
    | with_reducible apply keeps_scanLink
    | with_reducible apply Keeps.fold
    | with_reducible apply Keeps.ite
    | dsimp only
    | split
    | fail_if_no_progress with_reducible refine Keeps.same ?_ rfl rfl
    | fail_if_no_progress with_reducible refine Keeps.more ?_ rfl (Nat.le_add_right _ _) rfl

theorem keeps_fn_execScanFmPass {s0 s : State} (h : Keeps s0 s) (meas : List (List ScanObs)) : OKeeps s0 (execScanFmPass meas s) := by
  unfold execScanFmPass
  repeat' first
    | with_reducible assumption
    | intro _
    | with_reducible apply OKeeps.of
    | with_reducible apply keeps_scanDone
    | with_reducible apply keeps_scanRun
    | with_reducible apply Keeps.fold
    | with_reducible apply Keeps.ite
    | with_reducible apply OKeeps.ite
    | dsimp only
    | split
    | fail_if_no_progress with_reducible refine Keeps.same ?_ rfl rfl
    | fail_if_no_progress with_reducible refine Keeps.more ?_ rfl (Nat.le_add_right _ _) rfl

theorem keeps_fn_execScanDabPass {s0 s : State} (h : Keeps s0 s) (meas : List (List ScanObs)) : OKeeps s0 (execScanDabPass meas s) := by
  unfold execScanDabPass
  repeat' first
    | with_reducible assumption
    | intro _
    | with_reducible apply OKeeps.of
    | with_reducible apply keeps_scanDone
    | with_reducible apply keeps_scanRun
    | with_reducible apply Keeps.fold
    | with_reducible apply Keeps.ite
    | with_reducible apply OKeeps.ite
    | dsimp only
    | split
    | fail_if_no_progress with_reducible refine Keeps.same ?_ rfl rfl
    | fail_if_no_progress with_reducible refine Keeps.more ?_ rfl (Nat.le_add_right _ _) rfl

theorem keeps_fn_bodyWinScanRead {s0 s : State} (h : Keeps s0 s) (c : CmdEntry) : AKeeps s0 (bodyWinScanRead c s) := by
  unfold bodyWinScanRead
  repeat' first
    | with_reducible assumption
    | intro _
    | with_reducible apply AKeeps.checked
    | with_reducible apply AKeeps.ok
    | with_reducible apply AKeeps.part
    | with_reducible apply AKeeps.fail
    | with_reducible apply AKeeps.wait
    | with_reducible apply AKeeps.done
    | with_reducible apply Keeps.fold
    | with_reducible apply Keeps.ite
    | with_reducible apply AKeeps.ite
    | dsimp only
    | split
    | fail_if_no_progress with_reducible refine Keeps.same ?_ rfl rfl
    | fail_if_no_progress with_reducible refine Keeps.more ?_ rfl (Nat.le_add_right _ _) rfl

theorem keeps_fn_execWinScanRead {s0 s : State} (h : Keeps s0 s) (c : CmdEntry) : OKeeps s0 (execWinScanRead c s) := by
  unfold execWinScanRead
  repeat' first
    | with_reducible assumption
    | intro _
    | with_reducible apply keeps_runCmd
    | with_reducible apply OKeeps.of
    | with_reducible apply keeps_runCmd
    | with_reducible apply keeps_fn_bodyWinScanRead
    | with_reducible apply Keeps.fold
    | with_reducible apply Keeps.ite
    | with_reducible apply OKeeps.ite
    | dsimp only
    | split
    | fail_if_no_progress with_reducible refine Keeps.same ?_ rfl rfl
    | fail_if_no_progress with_reducible refine Keeps.more ?_ rfl (Nat.le_add_right _ _) rfl

end Sys2Proof.Laws
end

