-- ==== Sys2Proof/Laws/KeepsSvcOps.lean ====
section
/-!
SUPPORT. The operations and meanings of Machine/SvcOps.lean respect the relation of Keeps.lean.
-/

namespace Sys2Proof.Laws

open Sys2Proof Sys2Proof.Machine

set_option linter.unusedTactic false
set_option linter.unreachableTactic false
set_option linter.unusedVariables false

theorem keeps_yieldShadow {s0 s : State} (h : Keeps s0 s) (c : Fin 256) : Keeps s0 (State.yieldShadow s c) := by
  unfold State.yieldShadow
  repeat' first
    | with_reducible assumption
    | intro _
    | with_reducible apply keeps_modCtx
    | with_reducible apply keeps_releaseShadow
    | with_reducible apply keeps_ctxClosed
    | with_reducible apply Keeps.fold
    | with_reducible apply Keeps.ite
    | dsimp only
    | split
    | fail_if_no_progress with_reducible refine Keeps.same ?_ rfl rfl
    | fail_if_no_progress with_reducible refine Keeps.more ?_ rfl (Nat.le_add_right _ _) rfl

theorem keeps_makeRoom {s0 s : State} (h : Keeps s0 s) (r : Fin 32) (kind : Nat) : Keeps s0 (State.makeRoom s r kind) := by
  unfold State.makeRoom
  repeat' first
    | with_reducible assumption
    | intro _
    | with_reducible apply keeps_yieldShadow
    | with_reducible apply Keeps.fold
    | with_reducible apply Keeps.ite
    | dsimp only
    | split
    | fail_if_no_progress with_reducible refine Keeps.same ?_ rfl rfl
    | fail_if_no_progress with_reducible refine Keeps.more ?_ rfl (Nat.le_add_right _ _) rfl

theorem keeps_allocDelay {s0 s t : State} (h : Keeps s0 s) {c : Fin 256} {n : Nat}
    (e : State.allocDelay s c n = some t) : Keeps s0 t := by
  unfold State.allocDelay at e
  dsimp only at e
  split at e
  · cases e
    apply keeps_modCtx
    exact Keeps.same h rfl rfl
  · cases e

theorem keeps_poolRefused {s0 s : State} (h : Keeps s0 s) (c : Fin 256) (frames : Nat) : Keeps s0 (State.poolRefused s c frames) := by
  unfold State.poolRefused
  repeat' first
    | with_reducible assumption
    | intro _
    | with_reducible apply keeps_raise
    | with_reducible apply Keeps.fold
    | with_reducible apply Keeps.ite
    | dsimp only
    | split
    | fail_if_no_progress with_reducible refine Keeps.same ?_ rfl rfl
    | fail_if_no_progress with_reducible refine Keeps.more ?_ rfl (Nat.le_add_right _ _) rfl

theorem keeps_placeDelay {s0 s t : State} (h : Keeps s0 s) {c : Fin 256} {n : Nat} {ramp : Bool}
    (e : State.placeDelay s c n ramp = some t) : Keeps s0 t := by
  unfold State.placeDelay at e
  split at e
  · cases e
    exact keeps_modWin (keeps_freeDelay h c) _ _
  · exact keeps_allocDelay h e

theorem keeps_toRunning {s0 s : State} (h : Keeps s0 s) (c : Fin 256) : Keeps s0 (State.toRunning s c) := by
  unfold State.toRunning
  repeat' first
    | with_reducible assumption
    | intro _
    | with_reducible apply keeps_modCtx
    | with_reducible apply keeps_modFollow
    | with_reducible apply keeps_moveCtx
    | with_reducible apply keeps_poolRefused
    | refine keeps_placeDelay ?_ (by assumption)
    | with_reducible apply Keeps.fold
    | with_reducible apply Keeps.ite
    | dsimp only
    | split
    | fail_if_no_progress with_reducible refine Keeps.same ?_ rfl rfl
    | fail_if_no_progress with_reducible refine Keeps.more ?_ rfl (Nat.le_add_right _ _) rfl

theorem keeps_startReady {s0 s : State} (h : Keeps s0 s) (r : Fin 32) (p : Ctx → Bool) : Keeps s0 (State.startReady s r p) := by
  unfold State.startReady
  repeat' first
    | with_reducible assumption
    | intro _
    | with_reducible apply keeps_toRunning
    | with_reducible apply Keeps.fold
    | with_reducible apply Keeps.ite
    | dsimp only
    | split
    | fail_if_no_progress with_reducible refine Keeps.same ?_ rfl rfl
    | fail_if_no_progress with_reducible refine Keeps.more ?_ rfl (Nat.le_add_right _ _) rfl

theorem keeps_giveUnit {s0 s : State} (h : Keeps s0 s) (r : Fin 32) (c : Fin 256) (payload : List Byte) (tag : W) (ts : D) (mot : Option (BitVec 16)) : Keeps s0 (State.giveUnit s r c payload tag ts mot) := by
  unfold State.giveUnit
  repeat' first
    | with_reducible assumption
    | intro _
    | with_reducible apply keeps_deliver
    | with_reducible apply keeps_toRunning
    | with_reducible apply Keeps.fold
    | with_reducible apply Keeps.ite
    | dsimp only
    | split
    | fail_if_no_progress with_reducible refine Keeps.same ?_ rfl rfl
    | fail_if_no_progress with_reducible refine Keeps.more ?_ rfl (Nat.le_add_right _ _) rfl

theorem keeps_spreadCarry {s0 s : State} (h : Keeps s0 s) (r : Fin 32) : Keeps s0 (State.spreadCarry s r) := by
  unfold State.spreadCarry
  repeat' first
    | with_reducible assumption
    | intro _
    | with_reducible apply keeps_modCtx
    | with_reducible apply keeps_modRun
    | with_reducible apply Keeps.fold
    | with_reducible apply Keeps.ite
    | dsimp only
    | split
    | fail_if_no_progress with_reducible refine Keeps.same ?_ rfl rfl
    | fail_if_no_progress with_reducible refine Keeps.more ?_ rfl (Nat.le_add_right _ _) rfl

theorem keeps_lostFrames {s0 s : State} (h : Keeps s0 s) (r : Fin 32) (ms : Nat) (n : Nat) : Keeps s0 (State.lostFrames s r ms n) := by
  unfold State.lostFrames
  repeat' first
    | with_reducible assumption
    | intro _
    | with_reducible apply keeps_loseUnits
    | with_reducible apply Keeps.fold
    | with_reducible apply Keeps.ite
    | dsimp only
    | split
    | fail_if_no_progress with_reducible refine Keeps.same ?_ rfl rfl
    | fail_if_no_progress with_reducible refine Keeps.more ?_ rfl (Nat.le_add_right _ _) rfl

theorem keeps_erasedFrame {s0 s : State} (h : Keeps s0 s) (r : Fin 32) (ms : Nat) (p : Ctx → Bool) : Keeps s0 (State.erasedFrame s r ms p) := by
  unfold State.erasedFrame
  repeat' first
    | with_reducible assumption
    | intro _
    | with_reducible apply keeps_modCtx
    | with_reducible apply Keeps.fold
    | with_reducible apply Keeps.ite
    | dsimp only
    | split
    | fail_if_no_progress with_reducible refine Keeps.same ?_ rfl rfl
    | fail_if_no_progress with_reducible refine Keeps.more ?_ rfl (Nat.le_add_right _ _) rfl

theorem keeps_reportMismatch {s0 s : State} (h : Keeps s0 s) (r : Fin 32) (bad : Ctx → Bool) : Keeps s0 (State.reportMismatch s r bad) := by
  unfold State.reportMismatch
  repeat' first
    | with_reducible assumption
    | intro _
    | with_reducible apply keeps_modCtx
    | with_reducible apply keeps_raise
    | with_reducible apply Keeps.fold
    | with_reducible apply Keeps.ite
    | dsimp only
    | split
    | fail_if_no_progress with_reducible refine Keeps.same ?_ rfl rfl
    | fail_if_no_progress with_reducible refine Keeps.more ?_ rfl (Nat.le_add_right _ _) rfl

theorem keeps_probeBegin {s0 s : State} (h : Keeps s0 s) (r : Fin 32) : Keeps s0 (State.probeBegin s r) := by
  unfold State.probeBegin
  repeat' first
    | with_reducible assumption
    | intro _
    | with_reducible apply keeps_modFm
    | with_reducible apply keeps_tuneWin
    | with_reducible apply Keeps.fold
    | with_reducible apply Keeps.ite
    | dsimp only
    | split
    | fail_if_no_progress with_reducible refine Keeps.same ?_ rfl rfl
    | fail_if_no_progress with_reducible refine Keeps.more ?_ rfl (Nat.le_add_right _ _) rfl

theorem keeps_probeEvent {s0 s : State} (h : Keeps s0 s) (r : Fin 32) (k : ProbeCheck) (outcome : Nat) (cnr : Nat) : Keeps s0 (State.probeEvent s r k outcome cnr) := by
  unfold State.probeEvent
  repeat' first
    | with_reducible assumption
    | intro _
    | with_reducible apply keeps_raise
    | with_reducible apply Keeps.fold
    | with_reducible apply Keeps.ite
    | dsimp only
    | split
    | fail_if_no_progress with_reducible refine Keeps.same ?_ rfl rfl
    | fail_if_no_progress with_reducible refine Keeps.more ?_ rfl (Nat.le_add_right _ _) rfl

theorem keeps_markPiSeen {s0 s : State} (h : Keeps s0 s) (freq : W) (pi : BitVec 16) : Keeps s0 (State.markPiSeen s freq pi) := by
  unfold State.markPiSeen
  repeat' first
    | with_reducible assumption
    | intro _
    | with_reducible apply keeps_modFollow
    | with_reducible apply Keeps.fold
    | with_reducible apply Keeps.ite
    | dsimp only
    | split
    | fail_if_no_progress with_reducible refine Keeps.same ?_ rfl rfl
    | fail_if_no_progress with_reducible refine Keeps.more ?_ rfl (Nat.le_add_right _ _) rfl

theorem keeps_probeEnd {s0 s : State} (h : Keeps s0 s) (r : Fin 32) (outcome : Nat) (cnr : Nat) : Keeps s0 (State.probeEnd s r outcome cnr) := by
  unfold State.probeEnd
  repeat' first
    | with_reducible assumption
    | intro _
    | with_reducible apply keeps_modFm
    | with_reducible apply keeps_probeBegin
    | with_reducible apply keeps_probeEvent
    | with_reducible apply keeps_markPiSeen
    | with_reducible apply Keeps.fold
    | with_reducible apply Keeps.ite
    | dsimp only
    | split
    | fail_if_no_progress with_reducible refine Keeps.same ?_ rfl rfl
    | fail_if_no_progress with_reducible refine Keeps.more ?_ rfl (Nat.le_add_right _ _) rfl

theorem keeps_probeFound {s0 s : State} (h : Keeps s0 s) (r : Fin 32) (confirmed : Bool) : Keeps s0 (State.probeFound s r confirmed) := by
  unfold State.probeFound
  repeat' first
    | with_reducible assumption
    | intro _
    | with_reducible apply keeps_probeEnd
    | with_reducible apply Keeps.fold
    | with_reducible apply Keeps.ite
    | dsimp only
    | split
    | fail_if_no_progress with_reducible refine Keeps.same ?_ rfl rfl
    | fail_if_no_progress with_reducible refine Keeps.more ?_ rfl (Nat.le_add_right _ _) rfl

theorem keeps_probeAbort {s0 s : State} (h : Keeps s0 s) (r : Fin 32) : Keeps s0 (State.probeAbort s r) := by
  unfold State.probeAbort
  repeat' first
    | with_reducible assumption
    | intro _
    | with_reducible apply keeps_modFm
    | with_reducible apply keeps_probeEvent
    | with_reducible apply Keeps.fold
    | with_reducible apply Keeps.ite
    | dsimp only
    | split
    | fail_if_no_progress with_reducible refine Keeps.same ?_ rfl rfl
    | fail_if_no_progress with_reducible refine Keeps.more ?_ rfl (Nat.le_add_right _ _) rfl

end Sys2Proof.Laws
end

