-- ==== Sys2Proof/Laws/KeepsBulOps.lean ====
section
/-!
SUPPORT. The operations and meanings of Machine/BulOps.lean respect the relation of Keeps.lean.
-/

namespace Sys2Proof.Laws

open Sys2Proof Sys2Proof.Machine

set_option linter.unusedTactic false
set_option linter.unreachableTactic false
set_option linter.unusedVariables false

theorem keeps_modBulBlk {s0 s : State} (h : Keeps s0 s) (f : BulBlk → BulBlk) : Keeps s0 (State.modBulBlk s f) := by
  unfold State.modBulBlk
  repeat' first
    | with_reducible assumption
    | intro _
    | with_reducible apply Keeps.fold
    | with_reducible apply Keeps.ite
    | dsimp only
    | split
    | fail_if_no_progress with_reducible refine Keeps.same ?_ rfl rfl
    | fail_if_no_progress with_reducible refine Keeps.more ?_ rfl (Nat.le_add_right _ _) rfl

theorem keeps_credEvent {s0 s : State} (h : Keeps s0 s) (slot : Option (Fin 64)) (code : Nat) (rejected : Nat) (credId : List Byte) : Keeps s0 (State.credEvent s slot code rejected credId) := by
  unfold State.credEvent
  repeat' first
    | with_reducible assumption
    | intro _
    | with_reducible apply keeps_raise
    | with_reducible apply Keeps.fold
    | with_reducible apply Keeps.ite
    | dsimp only
    | split
    | fail_if_no_progress with_reducible refine Keeps.same ?_ rfl rfl
    | fail_if_no_progress with_reducible refine Keeps.more ?_ rfl (Nat.le_add_right _ _) rfl

theorem keeps_clearCred {s0 s : State} (h : Keeps s0 s) (k : Fin 64) : Keeps s0 (State.clearCred s k) := by
  unfold State.clearCred
  repeat' first
    | with_reducible assumption
    | intro _
    | with_reducible apply Keeps.fold
    | with_reducible apply Keeps.ite
    | dsimp only
    | split
    | fail_if_no_progress with_reducible refine Keeps.same ?_ rfl rfl
    | fail_if_no_progress with_reducible refine Keeps.more ?_ rfl (Nat.le_add_right _ _) rfl

theorem keeps_revokeOne {s0 s : State} (h : Keeps s0 s) (e : List Byte × D) : Keeps s0 (State.revokeOne s e) := by
  unfold State.revokeOne
  repeat' first
    | with_reducible assumption
    | intro _
    | with_reducible apply keeps_credEvent
    | with_reducible apply keeps_clearCred
    | with_reducible apply Keeps.fold
    | with_reducible apply Keeps.ite
    | dsimp only
    | split
    | fail_if_no_progress with_reducible refine Keeps.same ?_ rfl rfl
    | fail_if_no_progress with_reducible refine Keeps.more ?_ rfl (Nat.le_add_right _ _) rfl

theorem keeps_applyDelta {s0 s : State} (h : Keeps s0 s) (p : List Byte) : Keeps s0 (State.applyDelta s p).1 := by
  unfold State.applyDelta
  exact Keeps.fold _ _ (Keeps.same h rfl rfl) fun t e k => keeps_revokeOne k e

theorem keeps_applyDelta_of {s0 s t : State} (h : Keeps s0 s) {b : List Byte} {r : Bool}
    (e : State.applyDelta s b = (t, r)) : Keeps s0 t := by
  have := keeps_applyDelta h b
  rw [e] at this
  exact this

theorem keeps_makeSpace {s0 s : State} (h : Keeps s0 s) (n : Nat) : Keeps s0 (State.makeSpace s n) := by
  unfold State.makeSpace
  repeat' first
    | with_reducible assumption
    | intro _
    | with_reducible apply keeps_modBul
    | with_reducible apply Keeps.fold
    | with_reducible apply Keeps.ite
    | dsimp only
    | split
    | fail_if_no_progress with_reducible refine Keeps.same ?_ rfl rfl
    | fail_if_no_progress with_reducible refine Keeps.more ?_ rfl (Nat.le_add_right _ _) rfl

theorem keeps_bulWakeEvent {s0 s : State} (h : Keeps s0 s) (code : Nat) (record : Option (Fin 128)) (kind : Nat) (seq : Nat) : Keeps s0 (State.bulWakeEvent s code record kind seq) := by
  unfold State.bulWakeEvent
  repeat' first
    | with_reducible assumption
    | intro _
    | with_reducible apply keeps_raise
    | with_reducible apply keeps_raiseDeferred
    | with_reducible apply Keeps.fold
    | with_reducible apply Keeps.ite
    | dsimp only
    | split
    | fail_if_no_progress with_reducible refine Keeps.same ?_ rfl rfl
    | fail_if_no_progress with_reducible refine Keeps.more ?_ rfl (Nat.le_add_right _ _) rfl

theorem keeps_bulWake {s0 s : State} (h : Keeps s0 s) (code : Nat) (record : Option (Fin 128)) (kind : Nat) (seq : Nat) : Keeps s0 (State.bulWake s code record kind seq) := by
  unfold State.bulWake
  repeat' first
    | with_reducible assumption
    | intro _
    | with_reducible apply keeps_modBul
    | with_reducible apply keeps_modPwr
    | with_reducible apply keeps_hostWake
    | with_reducible apply keeps_wakeUp
    | with_reducible apply keeps_bulWakeEvent
    | with_reducible apply Keeps.fold
    | with_reducible apply Keeps.ite
    | dsimp only
    | split
    | fail_if_no_progress with_reducible refine Keeps.same ?_ rfl rfl
    | fail_if_no_progress with_reducible refine Keeps.more ?_ rfl (Nat.le_add_right _ _) rfl

theorem keeps_bulRejected {s0 s : State} (h : Keeps s0 s) (code : Nat) (kind : Nat) (seq : Nat) : Keeps s0 (State.bulRejected s code kind seq) := by
  unfold State.bulRejected
  repeat' first
    | with_reducible assumption
    | intro _
    | with_reducible apply keeps_raise
    | with_reducible apply Keeps.fold
    | with_reducible apply Keeps.ite
    | dsimp only
    | split
    | fail_if_no_progress with_reducible refine Keeps.same ?_ rfl rfl
    | fail_if_no_progress with_reducible refine Keeps.more ?_ rfl (Nat.le_add_right _ _) rfl

theorem keeps_bulDeliver {s0 s : State} (h : Keeps s0 s) (kind : Nat) (b : List Byte) : Keeps s0 (State.bulDeliver s kind b) := by
  unfold State.bulDeliver
  repeat' first
    | with_reducible assumption
    | intro _
    | with_reducible apply keeps_modCtx
    | with_reducible apply keeps_deliver
    | with_reducible apply Keeps.fold
    | with_reducible apply Keeps.ite
    | dsimp only
    | split
    | fail_if_no_progress with_reducible refine Keeps.same ?_ rfl rfl
    | fail_if_no_progress with_reducible refine Keeps.more ?_ rfl (Nat.le_add_right _ _) rfl

theorem keeps_rollKey {s0 s : State} (h : Keeps s0 s) (b : List Byte) : Keeps s0 (State.rollKey s b) := by
  unfold State.rollKey
  repeat' first
    | with_reducible assumption
    | intro _
    | with_reducible apply keeps_modBulBlk
    | with_reducible apply Keeps.fold
    | with_reducible apply Keeps.ite
    | dsimp only
    | split
    | fail_if_no_progress with_reducible refine Keeps.same ?_ rfl rfl
    | fail_if_no_progress with_reducible refine Keeps.more ?_ rfl (Nat.le_add_right _ _) rfl

theorem keeps_bulStore {s0 s : State} (h : Keeps s0 s) (kind seq : Nat) (transport : Byte) (pending : Bool) (b : List Byte) :
    Keeps s0 (State.bulStore s kind seq transport pending b).1 := by
  unfold State.bulStore
  extract_lets s1 a r s2 s3 s4 s5
  have h1 : Keeps s0 s1 := keeps_makeSpace h _
  clear_value s1
  have h2 : Keeps s0 s2 := by
    unfold s2
    clear_value a
    cases a with
    | none => exact h1
    | some i =>
      cases ix 4 (kind - 1) with
      | none => exact keeps_modBul h1 _ _
      | some k => exact keeps_modBulBlk (keeps_modBul h1 _ _) _
  clear_value s2
  have h3 : Keeps s0 s3 := keeps_bulDeliver h2 _ _
  have h4 : Keeps s0 s4 := keeps_raise h3 _ _ _
  exact Keeps.ite (keeps_raise h4 _ _ _) h4

theorem keeps_bulStore_of {s0 s t : State} (h : Keeps s0 s) {kind seq : Nat} {transport : Byte} {pending : Bool} {b : List Byte}
    {r : Option (Fin 128)} (e : State.bulStore s kind seq transport pending b = (t, r)) : Keeps s0 t := by
  have := keeps_bulStore h kind seq transport pending b
  rw [e] at this
  exact this

theorem keeps_bulAccept {s0 s : State} (h : Keeps s0 s) (kind : Nat) (seq : Nat) (transport : Byte) (b : List Byte) : Keeps s0 (State.bulAccept s kind seq transport b) := by
  unfold State.bulAccept
  repeat' first
    | with_reducible assumption
    | intro _
    | with_reducible apply keeps_applyDelta
    | refine keeps_applyDelta_of ?_ (by assumption)
    | with_reducible apply keeps_makeSpace
    | with_reducible apply keeps_bulWake
    | with_reducible apply keeps_rollKey
    | with_reducible apply keeps_bulStore
    | refine keeps_bulStore_of ?_ (by assumption)
    | with_reducible apply Keeps.fold
    | with_reducible apply Keeps.ite
    | dsimp only
    | split
    | fail_if_no_progress with_reducible refine Keeps.same ?_ rfl rfl
    | fail_if_no_progress with_reducible refine Keeps.more ?_ rfl (Nat.le_add_right _ _) rfl

theorem keeps_bulDue {s0 s : State} (h : Keeps s0 s) (r : Fin 128) : Keeps s0 (State.bulDue s r) := by
  unfold State.bulDue
  repeat' first
    | with_reducible assumption
    | intro _
    | with_reducible apply keeps_modBul
    | with_reducible apply keeps_store
    | with_reducible apply keeps_applyDelta
    | refine keeps_applyDelta_of ?_ (by assumption)
    | with_reducible apply keeps_bulWake
    | with_reducible apply Keeps.fold
    | with_reducible apply Keeps.ite
    | dsimp only
    | split
    | fail_if_no_progress with_reducible refine Keeps.same ?_ rfl rfl
    | fail_if_no_progress with_reducible refine Keeps.more ?_ rfl (Nat.le_add_right _ _) rfl

theorem keeps_setReasm {s0 s : State} (h : Keeps s0 s) (i : Fin 2) (r : Option Reasm) : Keeps s0 (State.setReasm s i r) := by
  unfold State.setReasm
  repeat' first
    | with_reducible assumption
    | intro _
    | with_reducible apply keeps_modBulBlk
    | with_reducible apply Keeps.fold
    | with_reducible apply Keeps.ite
    | dsimp only
    | split
    | fail_if_no_progress with_reducible refine Keeps.same ?_ rfl rfl
    | fail_if_no_progress with_reducible refine Keeps.more ?_ rfl (Nat.le_add_right _ _) rfl

theorem keeps_takeReasm {s0 s : State} (h : Keeps s0 s) (kind seq total : Nat) (transport : Byte) :
    Keeps s0 (State.takeReasm s kind seq total transport).1 := by
  unfold State.takeReasm
  extract_lets new i s1
  split
  · exact keeps_setReasm h _ _
  · apply keeps_setReasm
    unfold s1
    split
    · exact keeps_bulRejected h _ _ _
    · exact h

theorem keeps_takeReasm_of {s0 s t : State} (h : Keeps s0 s) {kind seq total : Nat} {transport : Byte} {r : Fin 2}
    (e : State.takeReasm s kind seq total transport = (t, r)) : Keeps s0 t := by
  have := keeps_takeReasm h kind seq total transport
  rw [e] at this
  exact this

theorem keeps_bulComplete {s0 s : State} (h : Keeps s0 s) (i : Fin 2) : Keeps s0 (State.bulComplete s i) := by
  unfold State.bulComplete
  repeat' first
    | with_reducible assumption
    | intro _
    | with_reducible apply keeps_bulRejected
    | with_reducible apply keeps_bulAccept
    | with_reducible apply keeps_setReasm
    | with_reducible apply Keeps.fold
    | with_reducible apply Keeps.ite
    | dsimp only
    | split
    | fail_if_no_progress with_reducible refine Keeps.same ?_ rfl rfl
    | fail_if_no_progress with_reducible refine Keeps.more ?_ rfl (Nat.le_add_right _ _) rfl

theorem keeps_bulCount {s0 s : State} (h : Keeps s0 s) (i : Nat) : Keeps s0 (State.bulCount s i) := by
  unfold State.bulCount
  repeat' first
    | with_reducible assumption
    | intro _
    | with_reducible apply keeps_bump
    | with_reducible apply Keeps.fold
    | with_reducible apply Keeps.ite
    | dsimp only
    | split
    | fail_if_no_progress with_reducible refine Keeps.same ?_ rfl rfl
    | fail_if_no_progress with_reducible refine Keeps.more ?_ rfl (Nat.le_add_right _ _) rfl

theorem keeps_bulJoin {s0 s : State} (h : Keeps s0 s) (b : List Byte) (transport : Byte) : Keeps s0 (State.bulJoin s b transport) := by
  unfold State.bulJoin
  repeat' first
    | with_reducible assumption
    | intro _
    | with_reducible apply keeps_setReasm
    | with_reducible apply keeps_takeReasm
    | refine keeps_takeReasm_of ?_ (by assumption)
    | with_reducible apply keeps_bulComplete
    | with_reducible apply keeps_bulCount
    | with_reducible apply Keeps.fold
    | with_reducible apply Keeps.ite
    | dsimp only
    | split
    | fail_if_no_progress with_reducible refine Keeps.same ?_ rfl rfl
    | fail_if_no_progress with_reducible refine Keeps.more ?_ rfl (Nat.le_add_right _ _) rfl

theorem keeps_bulSegment {s0 s : State} (h : Keeps s0 s) (b : List Byte) (transport : Byte) (limit : Nat) : Keeps s0 (State.bulSegment s b transport limit) := by
  unfold State.bulSegment
  repeat' first
    | with_reducible assumption
    | intro _
    | with_reducible apply keeps_bulCount
    | with_reducible apply keeps_bulJoin
    | with_reducible apply Keeps.fold
    | with_reducible apply Keeps.ite
    | dsimp only
    | split
    | fail_if_no_progress with_reducible refine Keeps.same ?_ rfl rfl
    | fail_if_no_progress with_reducible refine Keeps.more ?_ rfl (Nat.le_add_right _ _) rfl

theorem keeps_setSeg {s0 s : State} (h : Keeps s0 s) (r : Fin 32) (k : Fin 4) (x : List Byte × Option (BitVec 4)) : Keeps s0 (State.setSeg s r k x) := by
  unfold State.setSeg
  repeat' first
    | with_reducible assumption
    | intro _
    | with_reducible apply keeps_modFm
    | with_reducible apply Keeps.fold
    | with_reducible apply Keeps.ite
    | dsimp only
    | split
    | fail_if_no_progress with_reducible refine Keeps.same ?_ rfl rfl
    | fail_if_no_progress with_reducible refine Keeps.more ?_ rfl (Nat.le_add_right _ _) rfl

theorem keeps_segPiece {s0 s : State} (h : Keeps s0 s) (r : Fin 32) (k : Fin 4) (old : List Byte) (four : List Byte) (count : BitVec 4) : Keeps s0 (State.segPiece s r k old four count) := by
  unfold State.segPiece
  repeat' first
    | with_reducible assumption
    | intro _
    | with_reducible apply keeps_bulSegment
    | with_reducible apply keeps_setSeg
    | with_reducible apply Keeps.fold
    | with_reducible apply Keeps.ite
    | dsimp only
    | split
    | fail_if_no_progress with_reducible refine Keeps.same ?_ rfl rfl
    | fail_if_no_progress with_reducible refine Keeps.more ?_ rfl (Nat.le_add_right _ _) rfl

theorem keeps_segGroup {s0 s : State} (h : Keeps s0 s) (r : Fin 32) (k : Fin 4) (w2 : BitVec 16) (bad : Bool) (four : List Byte) : Keeps s0 (State.segGroup s r k w2 bad four) := by
  unfold State.segGroup
  repeat' first
    | with_reducible assumption
    | intro _
    | with_reducible apply keeps_bulCount
    | with_reducible apply keeps_setSeg
    | with_reducible apply keeps_segPiece
    | with_reducible apply Keeps.fold
    | with_reducible apply Keeps.ite
    | dsimp only
    | split
    | fail_if_no_progress with_reducible refine Keeps.same ?_ rfl rfl
    | fail_if_no_progress with_reducible refine Keeps.more ?_ rfl (Nat.le_add_right _ _) rfl

end Sys2Proof.Laws
end

