-- ==== Sys2Proof/Laws/KeepsUnits.lean ====
section
/-!
SUPPORT. The operations and meanings of Machine/Units.lean respect the relation of Keeps.lean.
-/

namespace Sys2Proof.Laws

open Sys2Proof Sys2Proof.Machine

set_option linter.unusedTactic false
set_option linter.unreachableTactic false
set_option linter.unusedVariables false

theorem keeps_playFrames {s0 s : State} (h : Keeps s0 s) (f : Fin 256) (l : List (Option (Int × Int))) : Keeps s0 (State.playFrames s f l) := by
  unfold State.playFrames
  repeat' first
    | with_reducible assumption
    | intro _
    | with_reducible apply keeps_modFollow
    | with_reducible apply keeps_audioUnit
    | with_reducible apply Keeps.fold
    | with_reducible apply Keeps.ite
    | dsimp only
    | split
    | fail_if_no_progress with_reducible refine Keeps.same ?_ rfl rfl
    | fail_if_no_progress with_reducible refine Keeps.more ?_ rfl (Nat.le_add_right _ _) rfl

theorem keeps_playLine {s0 s : State} (h : Keeps s0 s) (n : Nat) (f : Fin 256) : Keeps s0 (State.playLine n s f) := by
  induction n generalizing s with
  | zero => exact h
  | succ n ih =>
    unfold State.playLine
    dsimp only
    split
    · exact h
    · exact ih (keeps_playFrames (keeps_modCtx h _ _) _ _)

theorem keeps_audioOut {s0 s : State} (h : Keeps s0 s) (c : Fin 256) (silent : Bool) (frames : List (Int × Int)) (ts : D) : Keeps s0 (State.audioOut s c silent frames ts) := by
  unfold State.audioOut
  repeat' first
    | with_reducible assumption
    | intro _
    | with_reducible apply keeps_modCtx
    | with_reducible apply keeps_dropUnit
    | with_reducible apply keeps_audioToStream
    | with_reducible apply keeps_audioMarks
    | with_reducible apply keeps_audioUnit
    | with_reducible apply keeps_shadowUnit
    | with_reducible apply keeps_playLine
    | with_reducible apply Keeps.fold
    | with_reducible apply Keeps.ite
    | dsimp only
    | split
    | fail_if_no_progress with_reducible refine Keeps.same ?_ rfl rfl
    | fail_if_no_progress with_reducible refine Keeps.more ?_ rfl (Nat.le_add_right _ _) rfl

theorem keeps_audioFrame {s0 s : State} (h : Keeps s0 s) (r : Fin 32) (c : Fin 256) (ok : Bool) (conceal : Nat) (counter : Nat) : Keeps s0 (State.audioFrame s r c ok conceal counter) := by
  unfold State.audioFrame
  repeat' first
    | with_reducible assumption
    | intro _
    | with_reducible apply keeps_modCtx
    | with_reducible apply keeps_runCount
    | with_reducible apply keeps_raiseLimited
    | with_reducible apply Keeps.fold
    | with_reducible apply Keeps.ite
    | dsimp only
    | split
    | fail_if_no_progress with_reducible refine Keeps.same ?_ rfl rfl
    | fail_if_no_progress with_reducible refine Keeps.more ?_ rfl (Nat.le_add_right _ _) rfl

theorem keeps_decodedUnit {s0 s : State} (h : Keeps s0 s) (c : Fin 256) (u : AudioObs) : Keeps s0 (State.decodedUnit s c u) := by
  unfold State.decodedUnit
  repeat' first
    | with_reducible assumption
    | intro _
    | with_reducible apply keeps_modCtx
    | with_reducible apply keeps_audioOut
    | with_reducible apply keeps_audioFrame
    | with_reducible apply Keeps.fold
    | with_reducible apply Keeps.ite
    | dsimp only
    | split
    | fail_if_no_progress with_reducible refine Keeps.same ?_ rfl rfl
    | fail_if_no_progress with_reducible refine Keeps.more ?_ rfl (Nat.le_add_right _ _) rfl

theorem keeps_motEvent {s0 s : State} (h : Keeps s0 s) (c : Fin 256) (code : Nat) (tid : BitVec 16) (size : Nat) : Keeps s0 (State.motEvent s c code tid size) := by
  unfold State.motEvent
  repeat' first
    | with_reducible assumption
    | intro _
    | with_reducible apply keeps_raise
    | with_reducible apply Keeps.fold
    | with_reducible apply Keeps.ite
    | dsimp only
    | split
    | fail_if_no_progress with_reducible refine Keeps.same ?_ rfl rfl
    | fail_if_no_progress with_reducible refine Keeps.more ?_ rfl (Nat.le_add_right _ _) rfl

theorem keeps_motDrop {s0 s : State} (h : Keeps s0 s) (c : Fin 256) (code : Nat) (tid : BitVec 16) (size : Nat) : Keeps s0 (State.motDrop s c code tid size) := by
  unfold State.motDrop
  repeat' first
    | with_reducible assumption
    | intro _
    | with_reducible apply keeps_modCtx
    | with_reducible apply keeps_runCount
    | with_reducible apply keeps_gpFree
    | with_reducible apply keeps_loseUnits
    | with_reducible apply keeps_motEvent
    | with_reducible apply Keeps.fold
    | with_reducible apply Keeps.ite
    | dsimp only
    | split
    | fail_if_no_progress with_reducible refine Keeps.same ?_ rfl rfl
    | fail_if_no_progress with_reducible refine Keeps.more ?_ rfl (Nat.le_add_right _ _) rfl

theorem keeps_motAlloc {s0 s : State} (h : Keeps s0 s) (n : Nat) (c : Fin 256) (tid : BitVec 16) (size : Nat) :
    Keeps s0 (State.motAlloc n s c tid size).2 ∧ ∀ t, (State.motAlloc n s c tid size).1 = some t → Keeps s0 t := by
  induction n generalizing s with
  | zero => exact ⟨h, fun t e => by cases e⟩
  | succ n ih =>
    unfold State.motAlloc
    split
    · refine ⟨h, fun t e => ?_⟩
      cases e
      exact Keeps.same h rfl rfl
    · split
      · exact ⟨h, fun t e => by cases e⟩
      · exact ih (keeps_motDrop h _ _ _ _)

theorem keeps_motAlloc_some {s0 s t u : State} (h : Keeps s0 s) {n : Nat} {c : Fin 256} {tid : BitVec 16} {size : Nat}
    (e : State.motAlloc n s c tid size = (some t, u)) : Keeps s0 t := (keeps_motAlloc h n c tid size).2 t (by rw [e])

theorem keeps_motAlloc_none {s0 s u : State} (h : Keeps s0 s) {n : Nat} {c : Fin 256} {tid : BitVec 16} {size : Nat}
    (e : State.motAlloc n s c tid size = (none, u)) : Keeps s0 u := by
  have := (keeps_motAlloc h n c tid size).1
  rw [e] at this
  exact this

theorem keeps_motDone {s0 s : State} (h : Keeps s0 s) (r : Fin 32) (c : Fin 256) (o : MotObj) (h : List Byte) (b : List Byte) (tag : W) : Keeps s0 (State.motDone s r c o h b tag) := by
  unfold State.motDone
  repeat' first
    | with_reducible assumption
    | intro _
    | with_reducible apply keeps_modCtx
    | with_reducible apply keeps_giveUnit
    | with_reducible apply keeps_motEvent
    | with_reducible apply Keeps.fold
    | with_reducible apply Keeps.ite
    | dsimp only
    | split
    | fail_if_no_progress with_reducible refine Keeps.same ?_ rfl rfl
    | fail_if_no_progress with_reducible refine Keeps.more ?_ rfl (Nat.le_add_right _ _) rfl

theorem keeps_motPlace {s0 s : State} (h : Keeps s0 s) (c : Fin 256) (o : MotObj) :
    Keeps s0 (State.motPlace s c o).2 ∧ ∀ t, (State.motPlace s c o).1 = some t → Keeps s0 t := by
  unfold State.motPlace
  split
  · exact ⟨h, fun t e => by cases e; exact h⟩
  · split
    · exact ⟨h, fun t e => by cases e; exact h⟩
    · split
      · have k := keeps_motAlloc_some h (by assumption)
        exact ⟨k, fun t e => by cases e; exact keeps_modCtx k _ _⟩
      · exact ⟨keeps_motAlloc_none h (by assumption), fun t e => by cases e⟩

theorem keeps_motPlace_some {s0 s t u : State} (h : Keeps s0 s) {c : Fin 256} {o : MotObj}
    (e : State.motPlace s c o = (some t, u)) : Keeps s0 t := (keeps_motPlace h c o).2 t (by rw [e])

theorem keeps_motPlace_none {s0 s u : State} (h : Keeps s0 s) {c : Fin 256} {o : MotObj}
    (e : State.motPlace s c o = (none, u)) : Keeps s0 u := by
  have := (keeps_motPlace h c o).1
  rw [e] at this
  exact this

theorem keeps_motSegment {s0 s : State} (h : Keeps s0 s) (r : Fin 32) (c : Fin 256) (g : MotSeg) (tag : W) (ts : D) : Keeps s0 (State.motSegment s r c g tag ts) := by
  unfold State.motSegment
  repeat' first
    | with_reducible assumption
    | intro _
    | with_reducible apply keeps_modCtx
    | with_reducible apply keeps_complete
    | with_reducible apply keeps_motDrop
    | with_reducible apply keeps_motDone
    | refine keeps_motPlace_some ?_ (by assumption)
    | refine keeps_motPlace_none ?_ (by assumption)
    | with_reducible apply Keeps.fold
    | with_reducible apply Keeps.ite
    | dsimp only
    | split
    | fail_if_no_progress with_reducible refine Keeps.same ?_ rfl rfl
    | fail_if_no_progress with_reducible refine Keeps.more ?_ rfl (Nat.le_add_right _ _) rfl

theorem keeps_unitFailed {s0 s : State} (h : Keeps s0 s) (c : Fin 256) : Keeps s0 (State.unitFailed s c) := by
  unfold State.unitFailed
  repeat' first
    | with_reducible assumption
    | intro _
    | with_reducible apply keeps_loseUnits
    | with_reducible apply Keeps.fold
    | with_reducible apply Keeps.ite
    | dsimp only
    | split
    | fail_if_no_progress with_reducible refine Keeps.same ?_ rfl rfl
    | fail_if_no_progress with_reducible refine Keeps.more ?_ rfl (Nat.le_add_right _ _) rfl

theorem keeps_dataGroup {s0 s : State} (h : Keeps s0 s) (r : Fin 32) (c : Fin 256) (tag : W) (b : List Byte) (ts : D) : Keeps s0 (State.dataGroup s r c tag b ts) := by
  unfold State.dataGroup
  repeat' first
    | with_reducible assumption
    | intro _
    | with_reducible apply keeps_giveUnit
    | with_reducible apply keeps_motSegment
    | with_reducible apply keeps_unitFailed
    | with_reducible apply Keeps.fold
    | with_reducible apply Keeps.ite
    | dsimp only
    | split
    | fail_if_no_progress with_reducible refine Keeps.same ?_ rfl rfl
    | fail_if_no_progress with_reducible refine Keeps.more ?_ rfl (Nat.le_add_right _ _) rfl

theorem keeps_packetIn {s0 s : State} (h : Keeps s0 s) (r : Fin 32) (c : Fin 256) (m : Nat) (tag : W) (ts : D) (p : Packet) : Keeps s0 (State.packetIn s r c m tag ts p) := by
  unfold State.packetIn
  repeat' first
    | with_reducible assumption
    | intro _
    | with_reducible apply keeps_modCtx
    | with_reducible apply keeps_giveUnit
    | with_reducible apply keeps_unitFailed
    | with_reducible apply keeps_dataGroup
    | with_reducible apply Keeps.fold
    | with_reducible apply Keeps.ite
    | dsimp only
    | split
    | fail_if_no_progress with_reducible refine Keeps.same ?_ rfl rfl
    | fail_if_no_progress with_reducible refine Keeps.more ?_ rfl (Nat.le_add_right _ _) rfl

end Sys2Proof.Laws
end

