-- ==== Sys2Proof/Laws/KeepsFic.lean ====
section
/-!
SUPPORT. The operations and meanings of Machine/Fic.lean respect the relation of Keeps.lean.
-/

namespace Sys2Proof.Laws

open Sys2Proof Sys2Proof.Machine

set_option linter.unusedTactic false
set_option linter.unreachableTactic false
set_option linter.unusedVariables false

theorem keeps_ficEvent {s0 s : State} (h : Keeps s0 s) (r : Fin 32) (code : Nat) : Keeps s0 (State.ficEvent s r code) := by
  unfold State.ficEvent
  repeat' first
    | with_reducible assumption
    | intro _
    | with_reducible apply keeps_raise
    | with_reducible apply Keeps.fold
    | with_reducible apply Keeps.ite
    | dsimp only
    | split
    | fail_if_no_progress with_reducible refine Keeps.same ?_ rfl rfl
    | fail_if_no_progress with_reducible refine Keeps.more ?_ rfl (Nat.le_add_right _ _) rfl

theorem keeps_reconfEvent {s0 s : State} (h : Keeps s0 s) (r : Fin 32) (code : Nat) (cif : BitVec 16) (n : Nat) : Keeps s0 (State.reconfEvent s r code cif n) := by
  unfold State.reconfEvent
  repeat' first
    | with_reducible assumption
    | intro _
    | with_reducible apply keeps_raise
    | with_reducible apply Keeps.fold
    | with_reducible apply Keeps.ite
    | dsimp only
    | split
    | fail_if_no_progress with_reducible refine Keeps.same ?_ rfl rfl
    | fail_if_no_progress with_reducible refine Keeps.more ?_ rfl (Nat.le_add_right _ _) rfl

theorem keeps_announce {s0 s : State} (h : Keeps s0 s) (r : Fin 32) (b : List Byte) : Keeps s0 (State.announce s r b) := by
  unfold State.announce
  repeat' first
    | with_reducible assumption
    | intro _
    | with_reducible apply keeps_modDab
    | with_reducible apply keeps_raise
    | with_reducible apply Keeps.fold
    | with_reducible apply Keeps.ite
    | dsimp only
    | split
    | fail_if_no_progress with_reducible refine Keeps.same ?_ rfl rfl
    | fail_if_no_progress with_reducible refine Keeps.more ?_ rfl (Nat.le_add_right _ _) rfl

theorem keeps_figEnsemble {s0 s : State} (h : Keeps s0 s) (r : Fin 32) (b : List Byte) : Keeps s0 (State.figEnsemble s r b) := by
  unfold State.figEnsemble
  repeat' first
    | with_reducible assumption
    | intro _
    | with_reducible apply keeps_modDab
    | with_reducible apply keeps_reconfEvent
    | with_reducible apply Keeps.fold
    | with_reducible apply Keeps.ite
    | dsimp only
    | split
    | fail_if_no_progress with_reducible refine Keeps.same ?_ rfl rfl
    | fail_if_no_progress with_reducible refine Keeps.more ?_ rfl (Nat.le_add_right _ _) rfl

theorem keeps_toFantail {s0 s : State} (h : Keeps s0 s) (r : Fin 32) (h : Heard) : Keeps s0 (State.toFantail s r h) := by
  unfold State.toFantail
  repeat' first
    | with_reducible assumption
    | intro _
    | with_reducible apply Keeps.fold
    | with_reducible apply Keeps.ite
    | dsimp only
    | split
    | fail_if_no_progress with_reducible refine Keeps.same ?_ rfl rfl
    | fail_if_no_progress with_reducible refine Keeps.more ?_ rfl (Nat.le_add_right _ _) rfl

theorem keeps_fig {s0 s : State} (h : Keeps s0 s) (r : Fin 32) (f : Fig) : Keeps s0 (State.fig s r f) := by
  unfold State.fig
  repeat' first
    | with_reducible assumption
    | intro _
    | with_reducible apply keeps_modDab
    | with_reducible apply keeps_announce
    | with_reducible apply keeps_figEnsemble
    | with_reducible apply keeps_toFantail
    | with_reducible apply Keeps.fold
    | with_reducible apply Keeps.ite
    | dsimp only
    | split
    | fail_if_no_progress with_reducible refine Keeps.same ?_ rfl rfl
    | fail_if_no_progress with_reducible refine Keeps.more ?_ rfl (Nat.le_add_right _ _) rfl

theorem keeps_figs {s0 s : State} (h : Keeps s0 s) (r : Fin 32) (l : List Fig) : Keeps s0 (State.figs s r l) := by
  unfold State.figs
  repeat' first
    | with_reducible assumption
    | intro _
    | with_reducible apply keeps_modDab
    | with_reducible apply keeps_ficEvent
    | with_reducible apply keeps_fig
    | with_reducible apply Keeps.fold
    | with_reducible apply Keeps.ite
    | dsimp only
    | split
    | fail_if_no_progress with_reducible refine Keeps.same ?_ rfl rfl
    | fail_if_no_progress with_reducible refine Keeps.more ?_ rfl (Nat.le_add_right _ _) rfl

end Sys2Proof.Laws
end

