-- ==== Sys2Proof/Laws/KeepsFmAm.lean ====
section
/-!
SUPPORT. The operations and meanings of Machine/FmAm.lean respect the relation of Keeps.lean.
-/

namespace Sys2Proof.Laws

open Sys2Proof Sys2Proof.Machine

set_option linter.unusedTactic false
set_option linter.unreachableTactic false
set_option linter.unusedVariables false

theorem keeps_fn_bodySvcOpen {s0 s : State} (h : Keeps s0 s) (c : CmdEntry) : AKeeps s0 (bodySvcOpen c s) := by
  unfold bodySvcOpen
  repeat' first
    | with_reducible assumption
    | intro _
    | with_reducible apply AKeeps.checked
    | with_reducible apply AKeeps.ok
    | with_reducible apply AKeeps.part
    | with_reducible apply AKeeps.fail
    | with_reducible apply AKeeps.wait
    | with_reducible apply AKeeps.done
    | with_reducible apply keeps_modFollow
    | with_reducible apply keeps_startOpen
    | with_reducible apply keeps_makeRoom
    | with_reducible apply Keeps.fold
    | with_reducible apply Keeps.ite
    | with_reducible apply AKeeps.ite
    | dsimp only
    | split
    | fail_if_no_progress with_reducible refine Keeps.same ?_ rfl rfl
    | fail_if_no_progress with_reducible refine Keeps.more ?_ rfl (Nat.le_add_right _ _) rfl

theorem keeps_fn_execSvcOpen {s0 s : State} (h : Keeps s0 s) (c : CmdEntry) : OKeeps s0 (execSvcOpen c s) := by
  unfold execSvcOpen
  repeat' first
    | with_reducible assumption
    | intro _
    | with_reducible apply keeps_runCmd
    | with_reducible apply OKeeps.of
    | with_reducible apply keeps_runCmd
    | with_reducible apply keeps_fn_bodySvcOpen
    | with_reducible apply Keeps.fold
    | with_reducible apply Keeps.ite
    | with_reducible apply OKeeps.ite
    | dsimp only
    | split
    | fail_if_no_progress with_reducible refine Keeps.same ?_ rfl rfl
    | fail_if_no_progress with_reducible refine Keeps.more ?_ rfl (Nat.le_add_right _ _) rfl

theorem keeps_closeCtx {s0 s : State} (h : Keeps s0 s) (k : Fin 256) (slot : Nat) : Keeps s0 (State.closeCtx s k slot) := by
  unfold State.closeCtx
  repeat' first
    | with_reducible assumption
    | intro _
    | with_reducible apply keeps_modCtx
    | with_reducible apply keeps_finishSlot
    | with_reducible apply keeps_startClose
    | with_reducible apply keeps_loseShadow
    | with_reducible apply keeps_endFollow
    | with_reducible apply Keeps.fold
    | with_reducible apply Keeps.ite
    | dsimp only
    | split
    | fail_if_no_progress with_reducible refine Keeps.same ?_ rfl rfl
    | fail_if_no_progress with_reducible refine Keeps.more ?_ rfl (Nat.le_add_right _ _) rfl

theorem keeps_fn_bodySvcClose {s0 s : State} (h : Keeps s0 s) (c : CmdEntry) : AKeeps s0 (bodySvcClose c s) := by
  unfold bodySvcClose
  repeat' first
    | with_reducible assumption
    | intro _
    | with_reducible apply AKeeps.checked
    | with_reducible apply AKeeps.ok
    | with_reducible apply AKeeps.part
    | with_reducible apply AKeeps.fail
    | with_reducible apply AKeeps.wait
    | with_reducible apply AKeeps.done
    | with_reducible apply keeps_modCtx
    | with_reducible apply keeps_closeCtx
    | with_reducible apply Keeps.fold
    | with_reducible apply Keeps.ite
    | with_reducible apply AKeeps.ite
    | dsimp only
    | split
    | fail_if_no_progress with_reducible refine Keeps.same ?_ rfl rfl
    | fail_if_no_progress with_reducible refine Keeps.more ?_ rfl (Nat.le_add_right _ _) rfl

theorem keeps_fn_execSvcClose {s0 s : State} (h : Keeps s0 s) (c : CmdEntry) : OKeeps s0 (execSvcClose c s) := by
  unfold execSvcClose
  repeat' first
    | with_reducible assumption
    | intro _
    | with_reducible apply keeps_runCmd
    | with_reducible apply OKeeps.of
    | with_reducible apply keeps_runCmd
    | with_reducible apply keeps_fn_bodySvcClose
    | with_reducible apply Keeps.fold
    | with_reducible apply Keeps.ite
    | with_reducible apply OKeeps.ite
    | dsimp only
    | split
    | fail_if_no_progress with_reducible refine Keeps.same ?_ rfl rfl
    | fail_if_no_progress with_reducible refine Keeps.more ?_ rfl (Nat.le_add_right _ _) rfl

theorem keeps_fn_execContextClosed {s0 s : State} (h : Keeps s0 s) (ctx : Fin 256) : OKeeps s0 (execContextClosed ctx s) := by
  unfold execContextClosed
  repeat' first
    | with_reducible assumption
    | intro _
    | with_reducible apply OKeeps.of
    | with_reducible apply keeps_ctxClosed
    | with_reducible apply Keeps.fold
    | with_reducible apply Keeps.ite
    | with_reducible apply OKeeps.ite
    | dsimp only
    | split
    | fail_if_no_progress with_reducible refine Keeps.same ?_ rfl rfl
    | fail_if_no_progress with_reducible refine Keeps.more ?_ rfl (Nat.le_add_right _ _) rfl

theorem keeps_fn_bodySvcQuality {s0 s : State} (h : Keeps s0 s) (c : CmdEntry) : AKeeps s0 (bodySvcQuality c s) := by
  unfold bodySvcQuality
  repeat' first
    | with_reducible assumption
    | intro _
    | with_reducible apply AKeeps.checked
    | with_reducible apply AKeeps.ok
    | with_reducible apply AKeeps.part
    | with_reducible apply AKeeps.fail
    | with_reducible apply AKeeps.wait
    | with_reducible apply AKeeps.done
    | with_reducible apply Keeps.fold
    | with_reducible apply Keeps.ite
    | with_reducible apply AKeeps.ite
    | dsimp only
    | split
    | fail_if_no_progress with_reducible refine Keeps.same ?_ rfl rfl
    | fail_if_no_progress with_reducible refine Keeps.more ?_ rfl (Nat.le_add_right _ _) rfl

theorem keeps_fn_execSvcQuality {s0 s : State} (h : Keeps s0 s) (c : CmdEntry) : OKeeps s0 (execSvcQuality c s) := by
  unfold execSvcQuality
  repeat' first
    | with_reducible assumption
    | intro _
    | with_reducible apply keeps_runCmd
    | with_reducible apply OKeeps.of
    | with_reducible apply keeps_runCmd
    | with_reducible apply keeps_fn_bodySvcQuality
    | with_reducible apply Keeps.fold
    | with_reducible apply Keeps.ite
    | with_reducible apply OKeeps.ite
    | dsimp only
    | split
    | fail_if_no_progress with_reducible refine Keeps.same ?_ rfl rfl
    | fail_if_no_progress with_reducible refine Keeps.more ?_ rfl (Nat.le_add_right _ _) rfl

theorem keeps_fn_bodySvcFmCfg {s0 s : State} (h : Keeps s0 s) (c : CmdEntry) : AKeeps s0 (bodySvcFmCfg c s) := by
  unfold bodySvcFmCfg
  repeat' first
    | with_reducible assumption
    | intro _
    | with_reducible apply AKeeps.checked
    | with_reducible apply AKeeps.ok
    | with_reducible apply AKeeps.part
    | with_reducible apply AKeeps.fail
    | with_reducible apply AKeeps.wait
    | with_reducible apply AKeeps.done
    | with_reducible apply keeps_modFm
    | with_reducible apply keeps_fn_Answer_done
    | with_reducible apply Keeps.fold
    | with_reducible apply Keeps.ite
    | with_reducible apply AKeeps.ite
    | dsimp only
    | split
    | fail_if_no_progress with_reducible refine Keeps.same ?_ rfl rfl
    | fail_if_no_progress with_reducible refine Keeps.more ?_ rfl (Nat.le_add_right _ _) rfl

theorem keeps_fn_execSvcFmCfg {s0 s : State} (h : Keeps s0 s) (c : CmdEntry) : OKeeps s0 (execSvcFmCfg c s) := by
  unfold execSvcFmCfg
  repeat' first
    | with_reducible assumption
    | intro _
    | with_reducible apply keeps_runCmd
    | with_reducible apply OKeeps.of
    | with_reducible apply keeps_runCmd
    | with_reducible apply keeps_fn_bodySvcFmCfg
    | with_reducible apply Keeps.fold
    | with_reducible apply Keeps.ite
    | with_reducible apply OKeeps.ite
    | dsimp only
    | split
    | fail_if_no_progress with_reducible refine Keeps.same ?_ rfl rfl
    | fail_if_no_progress with_reducible refine Keeps.more ?_ rfl (Nat.le_add_right _ _) rfl

theorem keeps_fn_bodySvcAmCfg {s0 s : State} (h : Keeps s0 s) (c : CmdEntry) : AKeeps s0 (bodySvcAmCfg c s) := by
  unfold bodySvcAmCfg
  repeat' first
    | with_reducible assumption
    | intro _
    | with_reducible apply AKeeps.checked
    | with_reducible apply AKeeps.ok
    | with_reducible apply AKeeps.part
    | with_reducible apply AKeeps.fail
    | with_reducible apply AKeeps.wait
    | with_reducible apply AKeeps.done
    | with_reducible apply keeps_modFm
    | with_reducible apply keeps_fn_Answer_done
    | with_reducible apply Keeps.fold
    | with_reducible apply Keeps.ite
    | with_reducible apply AKeeps.ite
    | dsimp only
    | split
    | fail_if_no_progress with_reducible refine Keeps.same ?_ rfl rfl
    | fail_if_no_progress with_reducible refine Keeps.more ?_ rfl (Nat.le_add_right _ _) rfl

theorem keeps_fn_execSvcAmCfg {s0 s : State} (h : Keeps s0 s) (c : CmdEntry) : OKeeps s0 (execSvcAmCfg c s) := by
  unfold execSvcAmCfg
  repeat' first
    | with_reducible assumption
    | intro _
    | with_reducible apply keeps_runCmd
    | with_reducible apply OKeeps.of
    | with_reducible apply keeps_runCmd
    | with_reducible apply keeps_fn_bodySvcAmCfg
    | with_reducible apply Keeps.fold
    | with_reducible apply Keeps.ite
    | with_reducible apply OKeeps.ite
    | dsimp only
    | split
    | fail_if_no_progress with_reducible refine Keeps.same ?_ rfl rfl
    | fail_if_no_progress with_reducible refine Keeps.more ?_ rfl (Nat.le_add_right _ _) rfl

theorem keeps_fn_bodySvcProbeLend {s0 s : State} (h : Keeps s0 s) (c : CmdEntry) : AKeeps s0 (bodySvcProbeLend c s) := by
  unfold bodySvcProbeLend
  repeat' first
    | with_reducible assumption
    | intro _
    | with_reducible apply AKeeps.checked
    | with_reducible apply AKeeps.ok
    | with_reducible apply AKeeps.part
    | with_reducible apply AKeeps.fail
    | with_reducible apply AKeeps.wait
    | with_reducible apply AKeeps.done
    | with_reducible apply keeps_modFm
    | with_reducible apply keeps_fn_Answer_done
    | with_reducible apply keeps_probeAbort
    | with_reducible apply Keeps.fold
    | with_reducible apply Keeps.ite
    | with_reducible apply AKeeps.ite
    | dsimp only
    | split
    | fail_if_no_progress with_reducible refine Keeps.same ?_ rfl rfl
    | fail_if_no_progress with_reducible refine Keeps.more ?_ rfl (Nat.le_add_right _ _) rfl

theorem keeps_fn_execSvcProbeLend {s0 s : State} (h : Keeps s0 s) (c : CmdEntry) : OKeeps s0 (execSvcProbeLend c s) := by
  unfold execSvcProbeLend
  repeat' first
    | with_reducible assumption
    | intro _
    | with_reducible apply keeps_runCmd
    | with_reducible apply OKeeps.of
    | with_reducible apply keeps_runCmd
    | with_reducible apply keeps_fn_bodySvcProbeLend
    | with_reducible apply Keeps.fold
    | with_reducible apply Keeps.ite
    | with_reducible apply OKeeps.ite
    | dsimp only
    | split
    | fail_if_no_progress with_reducible refine Keeps.same ?_ rfl rfl
    | fail_if_no_progress with_reducible refine Keeps.more ?_ rfl (Nat.le_add_right _ _) rfl

theorem keeps_queueProbe {s0 s : State} (h : Keeps s0 s) (r : Fin 32) (k : ProbeCheck) : Keeps s0 (State.queueProbe s r k) := by
  unfold State.queueProbe
  repeat' first
    | with_reducible assumption
    | intro _
    | with_reducible apply keeps_modFm
    | with_reducible apply keeps_probeBegin
    | with_reducible apply Keeps.fold
    | with_reducible apply Keeps.ite
    | dsimp only
    | split
    | fail_if_no_progress with_reducible refine Keeps.same ?_ rfl rfl
    | fail_if_no_progress with_reducible refine Keeps.more ?_ rfl (Nat.le_add_right _ _) rfl

theorem keeps_fn_bodySvcProbe {s0 s : State} (h : Keeps s0 s) (c : CmdEntry) : AKeeps s0 (bodySvcProbe c s) := by
  unfold bodySvcProbe
  repeat' first
    | with_reducible assumption
    | intro _
    | with_reducible apply AKeeps.checked
    | with_reducible apply AKeeps.ok
    | with_reducible apply AKeeps.part
    | with_reducible apply AKeeps.fail
    | with_reducible apply AKeeps.wait
    | with_reducible apply AKeeps.done
    | with_reducible apply keeps_fault
    | with_reducible apply keeps_queueProbe
    | with_reducible apply Keeps.fold
    | with_reducible apply Keeps.ite
    | with_reducible apply AKeeps.ite
    | dsimp only
    | split
    | fail_if_no_progress with_reducible refine Keeps.same ?_ rfl rfl
    | fail_if_no_progress with_reducible refine Keeps.more ?_ rfl (Nat.le_add_right _ _) rfl

theorem keeps_fn_execSvcProbe {s0 s : State} (h : Keeps s0 s) (c : CmdEntry) : OKeeps s0 (execSvcProbe c s) := by
  unfold execSvcProbe
  repeat' first
    | with_reducible assumption
    | intro _
    | with_reducible apply keeps_runCmd
    | with_reducible apply OKeeps.of
    | with_reducible apply keeps_runCmd
    | with_reducible apply keeps_fn_bodySvcProbe
    | with_reducible apply Keeps.fold
    | with_reducible apply Keeps.ite
    | with_reducible apply OKeeps.ite
    | dsimp only
    | split
    | fail_if_no_progress with_reducible refine Keeps.same ?_ rfl rfl
    | fail_if_no_progress with_reducible refine Keeps.more ?_ rfl (Nat.le_add_right _ _) rfl

theorem keeps_fn_execProbeLevelCheck {s0 s : State} (h : Keeps s0 s) (r : Fin 32) (o : ProbeObs) : OKeeps s0 (execProbeLevelCheck r o s) := by
  unfold execProbeLevelCheck
  repeat' first
    | with_reducible assumption
    | intro _
    | with_reducible apply OKeeps.of
    | with_reducible apply keeps_modFm
    | with_reducible apply keeps_probeEnd
    | with_reducible apply Keeps.fold
    | with_reducible apply Keeps.ite
    | with_reducible apply OKeeps.ite
    | dsimp only
    | split
    | fail_if_no_progress with_reducible refine Keeps.same ?_ rfl rfl
    | fail_if_no_progress with_reducible refine Keeps.more ?_ rfl (Nat.le_add_right _ _) rfl

theorem keeps_fn_execProbeDwellExpiry {s0 s : State} (h : Keeps s0 s) (r : Fin 32) (o : ProbeObs) : OKeeps s0 (execProbeDwellExpiry r o s) := by
  unfold execProbeDwellExpiry
  repeat' first
    | with_reducible assumption
    | intro _
    | with_reducible apply OKeeps.of
    | with_reducible apply keeps_modFm
    | with_reducible apply keeps_probeEnd
    | with_reducible apply Keeps.fold
    | with_reducible apply Keeps.ite
    | with_reducible apply OKeeps.ite
    | dsimp only
    | split
    | fail_if_no_progress with_reducible refine Keeps.same ?_ rfl rfl
    | fail_if_no_progress with_reducible refine Keeps.more ?_ rfl (Nat.le_add_right _ _) rfl

theorem keeps_fn_bodySvcRdsState {s0 s : State} (h : Keeps s0 s) (c : CmdEntry) : AKeeps s0 (bodySvcRdsState c s) := by
  unfold bodySvcRdsState
  repeat' first
    | with_reducible assumption
    | intro _
    | with_reducible apply AKeeps.checked
    | with_reducible apply AKeeps.ok
    | with_reducible apply AKeeps.part
    | with_reducible apply AKeeps.fail
    | with_reducible apply AKeeps.wait
    | with_reducible apply AKeeps.done
    | with_reducible apply Keeps.fold
    | with_reducible apply Keeps.ite
    | with_reducible apply AKeeps.ite
    | dsimp only
    | split
    | fail_if_no_progress with_reducible refine Keeps.same ?_ rfl rfl
    | fail_if_no_progress with_reducible refine Keeps.more ?_ rfl (Nat.le_add_right _ _) rfl

theorem keeps_fn_execSvcRdsState {s0 s : State} (h : Keeps s0 s) (c : CmdEntry) : OKeeps s0 (execSvcRdsState c s) := by
  unfold execSvcRdsState
  repeat' first
    | with_reducible assumption
    | intro _
    | with_reducible apply keeps_runCmd
    | with_reducible apply OKeeps.of
    | with_reducible apply keeps_runCmd
    | with_reducible apply keeps_fn_bodySvcRdsState
    | with_reducible apply Keeps.fold
    | with_reducible apply Keeps.ite
    | with_reducible apply OKeeps.ite
    | dsimp only
    | split
    | fail_if_no_progress with_reducible refine Keeps.same ?_ rfl rfl
    | fail_if_no_progress with_reducible refine Keeps.more ?_ rfl (Nat.le_add_right _ _) rfl

theorem keeps_adoptSettings {s0 s : State} (h : Keeps s0 s) (r : Fin 32) : Keeps s0 (State.adoptSettings s r) := by
  unfold State.adoptSettings
  repeat' first
    | with_reducible assumption
    | intro _
    | with_reducible apply keeps_modFm
    | with_reducible apply keeps_loseRdsSync
    | with_reducible apply Keeps.fold
    | with_reducible apply Keeps.ite
    | dsimp only
    | split
    | fail_if_no_progress with_reducible refine Keeps.same ?_ rfl rfl
    | fail_if_no_progress with_reducible refine Keeps.more ?_ rfl (Nat.le_add_right _ _) rfl

theorem keeps_fn_execRunnerMetricTick {s0 s : State} (h : Keeps s0 s) (r : Fin 32) (m : RunnerMetrics) : OKeeps s0 (execRunnerMetricTick r m s) := by
  unfold execRunnerMetricTick
  repeat' first
    | with_reducible assumption
    | intro _
    | with_reducible apply OKeeps.of
    | with_reducible apply keeps_modFm
    | with_reducible apply keeps_startReady
    | with_reducible apply keeps_spreadCarry
    | with_reducible apply keeps_adoptSettings
    | with_reducible apply Keeps.fold
    | with_reducible apply Keeps.ite
    | with_reducible apply OKeeps.ite
    | dsimp only
    | split
    | fail_if_no_progress with_reducible refine Keeps.same ?_ rfl rfl
    | fail_if_no_progress with_reducible refine Keeps.more ?_ rfl (Nat.le_add_right _ _) rfl

theorem keeps_fn_execRunnerLockGained {s0 s : State} (h : Keeps s0 s) (r : Fin 32) : OKeeps s0 (execRunnerLockGained r s) := by
  unfold execRunnerLockGained
  repeat' first
    | with_reducible assumption
    | intro _
    | with_reducible apply OKeeps.of
    | with_reducible apply keeps_modRun
    | with_reducible apply keeps_runCount
    | with_reducible apply keeps_lockEvent
    | with_reducible apply keeps_startReady
    | with_reducible apply Keeps.fold
    | with_reducible apply Keeps.ite
    | with_reducible apply OKeeps.ite
    | dsimp only
    | split
    | fail_if_no_progress with_reducible refine Keeps.same ?_ rfl rfl
    | fail_if_no_progress with_reducible refine Keeps.more ?_ rfl (Nat.le_add_right _ _) rfl

theorem keeps_fn_execRunnerLockLost {s0 s : State} (h : Keeps s0 s) (r : Fin 32) : OKeeps s0 (execRunnerLockLost r s) := by
  unfold execRunnerLockLost
  repeat' first
    | with_reducible assumption
    | intro _
    | with_reducible apply OKeeps.of
    | with_reducible apply keeps_modFm
    | with_reducible apply keeps_lockEvent
    | with_reducible apply keeps_loseLock
    | with_reducible apply Keeps.fold
    | with_reducible apply Keeps.ite
    | with_reducible apply OKeeps.ite
    | dsimp only
    | split
    | fail_if_no_progress with_reducible refine Keeps.same ?_ rfl rfl
    | fail_if_no_progress with_reducible refine Keeps.more ?_ rfl (Nat.le_add_right _ _) rfl

theorem keeps_fn_execPilotPresent {s0 s : State} (h : Keeps s0 s) (r : Fin 32) : OKeeps s0 (execPilotPresent r s) := by
  unfold execPilotPresent
  repeat' first
    | with_reducible assumption
    | intro _
    | with_reducible apply OKeeps.of
    | with_reducible apply keeps_modFm
    | with_reducible apply keeps_lockEvent
    | with_reducible apply Keeps.fold
    | with_reducible apply Keeps.ite
    | with_reducible apply OKeeps.ite
    | dsimp only
    | split
    | fail_if_no_progress with_reducible refine Keeps.same ?_ rfl rfl
    | fail_if_no_progress with_reducible refine Keeps.more ?_ rfl (Nat.le_add_right _ _) rfl

theorem keeps_fn_execPilotLost {s0 s : State} (h : Keeps s0 s) (r : Fin 32) : OKeeps s0 (execPilotLost r s) := by
  unfold execPilotLost
  repeat' first
    | with_reducible assumption
    | intro _
    | with_reducible apply OKeeps.of
    | with_reducible apply keeps_modFm
    | with_reducible apply keeps_lockEvent
    | with_reducible apply Keeps.fold
    | with_reducible apply Keeps.ite
    | with_reducible apply OKeeps.ite
    | dsimp only
    | split
    | fail_if_no_progress with_reducible refine Keeps.same ?_ rfl rfl
    | fail_if_no_progress with_reducible refine Keeps.more ?_ rfl (Nat.le_add_right _ _) rfl

theorem keeps_fmUnit {s0 s : State} (h : Keeps s0 s) (c : Fin 256) (u : AudioObs) : Keeps s0 (State.fmUnit s c u) := by
  unfold State.fmUnit
  repeat' first
    | with_reducible assumption
    | intro _
    | with_reducible apply keeps_modFm
    | with_reducible apply keeps_spreadCarry
    | with_reducible apply keeps_audioOut
    | with_reducible apply Keeps.fold
    | with_reducible apply Keeps.ite
    | dsimp only
    | split
    | fail_if_no_progress with_reducible refine Keeps.same ?_ rfl rfl
    | fail_if_no_progress with_reducible refine Keeps.more ?_ rfl (Nat.le_add_right _ _) rfl

theorem keeps_fn_execAudioUnit {s0 s : State} (h : Keeps s0 s) (ctx : Fin 256) (u : AudioObs) : OKeeps s0 (execAudioUnit ctx u s) := by
  unfold execAudioUnit
  repeat' first
    | with_reducible assumption
    | intro _
    | with_reducible apply OKeeps.of
    | with_reducible apply keeps_toRunning
    | with_reducible apply keeps_decodedUnit
    | with_reducible apply keeps_fmUnit
    | with_reducible apply Keeps.fold
    | with_reducible apply Keeps.ite
    | with_reducible apply OKeeps.ite
    | dsimp only
    | split
    | fail_if_no_progress with_reducible refine Keeps.same ?_ rfl rfl
    | fail_if_no_progress with_reducible refine Keeps.more ?_ rfl (Nat.le_add_right _ _) rfl

theorem keeps_modRds {s0 s : State} (h : Keeps s0 s) (r : Fin 32) (g : RdsState → RdsState) : Keeps s0 (State.modRds s r g) := by
  unfold State.modRds
  repeat' first
    | with_reducible assumption
    | intro _
    | with_reducible apply keeps_modFm
    | with_reducible apply Keeps.fold
    | with_reducible apply Keeps.ite
    | dsimp only
    | split
    | fail_if_no_progress with_reducible refine Keeps.same ?_ rfl rfl
    | fail_if_no_progress with_reducible refine Keeps.more ?_ rfl (Nat.le_add_right _ _) rfl

theorem keeps_piEvent {s0 s : State} (h : Keeps s0 s) (r : Fin 32) (code : Nat) (pi : BitVec 16) (old : BitVec 16) : Keeps s0 (State.piEvent s r code pi old) := by
  unfold State.piEvent
  repeat' first
    | with_reducible assumption
    | intro _
    | with_reducible apply keeps_raise
    | with_reducible apply Keeps.fold
    | with_reducible apply Keeps.ite
    | dsimp only
    | split
    | fail_if_no_progress with_reducible refine Keeps.same ?_ rfl rfl
    | fail_if_no_progress with_reducible refine Keeps.more ?_ rfl (Nat.le_add_right _ _) rfl

theorem keeps_rdsPi {s0 s : State} (h : Keeps s0 s) (r : Fin 32) (pi : BitVec 16) (status : Nat) : Keeps s0 (State.rdsPi s r pi status) := by
  unfold State.rdsPi
  repeat' first
    | with_reducible assumption
    | intro _
    | with_reducible apply keeps_probeFound
    | with_reducible apply keeps_modRds
    | with_reducible apply keeps_piEvent
    | with_reducible apply Keeps.fold
    | with_reducible apply Keeps.ite
    | dsimp only
    | split
    | fail_if_no_progress with_reducible refine Keeps.same ?_ rfl rfl
    | fail_if_no_progress with_reducible refine Keeps.more ?_ rfl (Nat.le_add_right _ _) rfl

theorem keeps_groupDeliver {s0 s : State} (h : Keeps s0 s) (r : Fin 32) (k : Fin 4) (g : List (BitVec 16 × Nat)) (ts : D) : Keeps s0 (State.groupDeliver s r k g ts) := by
  unfold State.groupDeliver
  repeat' first
    | with_reducible assumption
    | intro _
    | with_reducible apply keeps_deliver
    | with_reducible apply Keeps.fold
    | with_reducible apply Keeps.ite
    | dsimp only
    | split
    | fail_if_no_progress with_reducible refine Keeps.same ?_ rfl rfl
    | fail_if_no_progress with_reducible refine Keeps.more ?_ rfl (Nat.le_add_right _ _) rfl

theorem keeps_groupSegment {s0 s : State} (h : Keeps s0 s) (r : Fin 32) (k : Fin 4) (g : List (BitVec 16 × Nat)) : Keeps s0 (State.groupSegment s r k g) := by
  unfold State.groupSegment
  repeat' first
    | with_reducible assumption
    | intro _
    | with_reducible apply keeps_segGroup
    | with_reducible apply Keeps.fold
    | with_reducible apply Keeps.ite
    | dsimp only
    | split
    | fail_if_no_progress with_reducible refine Keeps.same ?_ rfl rfl
    | fail_if_no_progress with_reducible refine Keeps.more ?_ rfl (Nat.le_add_right _ _) rfl

theorem keeps_afEvent {s0 s : State} (h : Keeps s0 s) (r : Fin 32) (method : Nat) (ix : Nat) (count : Nat) : Keeps s0 (State.afEvent s r method ix count) := by
  unfold State.afEvent
  repeat' first
    | with_reducible assumption
    | intro _
    | with_reducible apply keeps_raise
    | with_reducible apply Keeps.fold
    | with_reducible apply Keeps.ite
    | dsimp only
    | split
    | fail_if_no_progress with_reducible refine Keeps.same ?_ rfl rfl
    | fail_if_no_progress with_reducible refine Keeps.more ?_ rfl (Nat.le_add_right _ _) rfl

theorem keeps_rdsAf {s0 s : State} (h : Keeps s0 s) (r : Fin 32) (a : AfList) : Keeps s0 (State.rdsAf s r a) := by
  unfold State.rdsAf
  repeat' first
    | with_reducible assumption
    | intro _
    | with_reducible apply keeps_modRds
    | with_reducible apply keeps_afEvent
    | with_reducible apply Keeps.fold
    | with_reducible apply Keeps.ite
    | dsimp only
    | split
    | fail_if_no_progress with_reducible refine Keeps.same ?_ rfl rfl
    | fail_if_no_progress with_reducible refine Keeps.more ?_ rfl (Nat.le_add_right _ _) rfl

theorem keeps_afCodes {s0 s : State} (h : Keeps s0 s) (r : Fin 32) (p : Byte × Byte) : Keeps s0 (State.afCodes s r p) := by
  unfold State.afCodes
  repeat' first
    | with_reducible assumption
    | intro _
    | with_reducible apply keeps_fn_Answer_done
    | with_reducible apply keeps_modRds
    | with_reducible apply keeps_rdsAf
    | with_reducible apply Keeps.fold
    | with_reducible apply Keeps.ite
    | dsimp only
    | split
    | fail_if_no_progress with_reducible refine Keeps.same ?_ rfl rfl
    | fail_if_no_progress with_reducible refine Keeps.more ?_ rfl (Nat.le_add_right _ _) rfl

theorem keeps_rdsTpTa {s0 s : State} (h : Keeps s0 s) (r : Fin 32) (tp : Bool) (ta : Bool) : Keeps s0 (State.rdsTpTa s r tp ta) := by
  unfold State.rdsTpTa
  repeat' first
    | with_reducible assumption
    | intro _
    | with_reducible apply keeps_raise
    | with_reducible apply keeps_modRds
    | with_reducible apply Keeps.fold
    | with_reducible apply Keeps.ite
    | dsimp only
    | split
    | fail_if_no_progress with_reducible refine Keeps.same ?_ rfl rfl
    | fail_if_no_progress with_reducible refine Keeps.more ?_ rfl (Nat.le_add_right _ _) rfl

theorem keeps_rdsEon {s0 s : State} (h : Keeps s0 s) (r : Fin 32) (pi : BitVec 16) (g : EonNet → EonNet) : Keeps s0 (State.rdsEon s r pi g) := by
  unfold State.rdsEon
  repeat' first
    | with_reducible assumption
    | intro _
    | with_reducible apply keeps_raise
    | with_reducible apply keeps_modRds
    | with_reducible apply keeps_afEvent
    | with_reducible apply Keeps.fold
    | with_reducible apply Keeps.ite
    | dsimp only
    | split
    | fail_if_no_progress with_reducible refine Keeps.same ?_ rfl rfl
    | fail_if_no_progress with_reducible refine Keeps.more ?_ rfl (Nat.le_add_right _ _) rfl

theorem keeps_rdsPs {s0 s : State} (h : Keeps s0 s) (r : Fin 32) (seg : Fin 4) (status : Nat) (p : Byte × Byte) : Keeps s0 (State.rdsPs s r seg status p) := by
  unfold State.rdsPs
  repeat' first
    | with_reducible assumption
    | intro _
    | with_reducible apply keeps_modRds
    | with_reducible apply Keeps.fold
    | with_reducible apply Keeps.ite
    | dsimp only
    | split
    | fail_if_no_progress with_reducible refine Keeps.same ?_ rfl rfl
    | fail_if_no_progress with_reducible refine Keeps.more ?_ rfl (Nat.le_add_right _ _) rfl

theorem keeps_rdsAssign {s0 s : State} (h : Keeps s0 s) (r : Fin 32) (k : Fin 4) (aid : BitVec 16) (type : BitVec 5) : Keeps s0 (State.rdsAssign s r k aid type) := by
  unfold State.rdsAssign
  repeat' first
    | with_reducible assumption
    | intro _
    | with_reducible apply keeps_modRds
    | with_reducible apply Keeps.fold
    | with_reducible apply Keeps.ite
    | dsimp only
    | split
    | fail_if_no_progress with_reducible refine Keeps.same ?_ rfl rfl
    | fail_if_no_progress with_reducible refine Keeps.more ?_ rfl (Nat.le_add_right _ _) rfl

theorem keeps_rdsBasic {s0 s : State} (h : Keeps s0 s) (r : Fin 32) (g : List (BitVec 16 × Nat)) : Keeps s0 (State.rdsBasic s r g) := by
  unfold State.rdsBasic
  repeat' first
    | with_reducible assumption
    | intro _
    | with_reducible apply keeps_modRds
    | with_reducible apply keeps_afCodes
    | with_reducible apply keeps_rdsTpTa
    | with_reducible apply keeps_rdsPs
    | with_reducible apply Keeps.fold
    | with_reducible apply Keeps.ite
    | dsimp only
    | split
    | fail_if_no_progress with_reducible refine Keeps.same ?_ rfl rfl
    | fail_if_no_progress with_reducible refine Keeps.more ?_ rfl (Nat.le_add_right _ _) rfl

theorem keeps_rdsRead {s0 s : State} (h : Keeps s0 s) (r : Fin 32) (g : List (BitVec 16 × Nat)) : Keeps s0 (State.rdsRead s r g) := by
  unfold State.rdsRead
  repeat' first
    | with_reducible assumption
    | intro _
    | with_reducible apply keeps_modRds
    | with_reducible apply keeps_rdsTpTa
    | with_reducible apply keeps_rdsEon
    | with_reducible apply keeps_rdsAssign
    | with_reducible apply keeps_rdsBasic
    | with_reducible apply Keeps.fold
    | with_reducible apply Keeps.ite
    | dsimp only
    | split
    | fail_if_no_progress with_reducible refine Keeps.same ?_ rfl rfl
    | fail_if_no_progress with_reducible refine Keeps.more ?_ rfl (Nat.le_add_right _ _) rfl

theorem keeps_rdsMore {s0 s : State} (h : Keeps s0 s) (r : Fin 32) (k : Fin 4) (g : List (BitVec 16 × Nat)) : Keeps s0 (State.rdsMore s r k g) := by
  unfold State.rdsMore
  repeat' first
    | with_reducible assumption
    | intro _
    | with_reducible apply keeps_fn_Answer_done
    | with_reducible apply keeps_modRds
    | with_reducible apply Keeps.fold
    | with_reducible apply Keeps.ite
    | dsimp only
    | split
    | fail_if_no_progress with_reducible refine Keeps.same ?_ rfl rfl
    | fail_if_no_progress with_reducible refine Keeps.more ?_ rfl (Nat.le_add_right _ _) rfl

theorem keeps_rdsGroup {s0 s : State} (h : Keeps s0 s) (r : Fin 32) (k : Fin 4) (assign : Option (BitVec 16 × BitVec 5)) : Keeps s0 (State.rdsGroup s r k assign) := by
  unfold State.rdsGroup
  repeat' first
    | with_reducible assumption
    | intro _
    | with_reducible apply keeps_runCount
    | with_reducible apply keeps_spreadCarry
    | with_reducible apply keeps_modRds
    | with_reducible apply keeps_groupDeliver
    | with_reducible apply keeps_groupSegment
    | with_reducible apply keeps_rdsAssign
    | with_reducible apply keeps_rdsRead
    | with_reducible apply keeps_rdsMore
    | with_reducible apply Keeps.fold
    | with_reducible apply Keeps.ite
    | dsimp only
    | split
    | fail_if_no_progress with_reducible refine Keeps.same ?_ rfl rfl
    | fail_if_no_progress with_reducible refine Keeps.more ?_ rfl (Nat.le_add_right _ _) rfl

theorem keeps_rdsPlace {s0 s : State} (h : Keeps s0 s) (r : Fin 32) (k : Fin 4) (o : RdsObs) (b : RdsOffset × BitVec 16 × Nat) : Keeps s0 (State.rdsPlace s r k o b) := by
  unfold State.rdsPlace
  repeat' first
    | with_reducible assumption
    | intro _
    | with_reducible apply keeps_modRds
    | with_reducible apply keeps_rdsGroup
    | with_reducible apply Keeps.fold
    | with_reducible apply Keeps.ite
    | dsimp only
    | split
    | fail_if_no_progress with_reducible refine Keeps.same ?_ rfl rfl
    | fail_if_no_progress with_reducible refine Keeps.more ?_ rfl (Nat.le_add_right _ _) rfl

theorem keeps_rdsSeen {s0 s : State} (h : Keeps s0 s) (r : Fin 32) (k : Fin 4) (o : RdsObs) (b : RdsOffset × BitVec 16 × Nat) : Keeps s0 (State.rdsSeen s r k o b) := by
  unfold State.rdsSeen
  repeat' first
    | with_reducible assumption
    | intro _
    | with_reducible apply keeps_lockEvent
    | with_reducible apply keeps_modRds
    | with_reducible apply keeps_rdsPlace
    | with_reducible apply Keeps.fold
    | with_reducible apply Keeps.ite
    | dsimp only
    | split
    | fail_if_no_progress with_reducible refine Keeps.same ?_ rfl rfl
    | fail_if_no_progress with_reducible refine Keeps.more ?_ rfl (Nat.le_add_right _ _) rfl

theorem keeps_rdsCount {s0 s : State} (h : Keeps s0 s) (r : Fin 32) (k : Fin 4) (status : Nat) : Keeps s0 (State.rdsCount s r k status) := by
  unfold State.rdsCount
  repeat' first
    | with_reducible assumption
    | intro _
    | with_reducible apply keeps_runCount
    | with_reducible apply Keeps.fold
    | with_reducible apply Keeps.ite
    | dsimp only
    | split
    | fail_if_no_progress with_reducible refine Keeps.same ?_ rfl rfl
    | fail_if_no_progress with_reducible refine Keeps.more ?_ rfl (Nat.le_add_right _ _) rfl

theorem keeps_rdsPiOf {s0 s : State} (h : Keeps s0 s) (r : Fin 32) (k : Fin 4) (b : RdsOffset × BitVec 16 × Nat) : Keeps s0 (State.rdsPiOf s r k b) := by
  unfold State.rdsPiOf
  repeat' first
    | with_reducible assumption
    | intro _
    | with_reducible apply keeps_rdsPi
    | with_reducible apply Keeps.fold
    | with_reducible apply Keeps.ite
    | dsimp only
    | split
    | fail_if_no_progress with_reducible refine Keeps.same ?_ rfl rfl
    | fail_if_no_progress with_reducible refine Keeps.more ?_ rfl (Nat.le_add_right _ _) rfl

theorem keeps_rdsInSync {s0 s : State} (h : Keeps s0 s) (r : Fin 32) (k : Fin 4) (o : RdsObs) : Keeps s0 (State.rdsInSync s r k o) := by
  unfold State.rdsInSync
  repeat' first
    | with_reducible assumption
    | intro _
    | with_reducible apply keeps_loseRdsSync
    | with_reducible apply keeps_modRds
    | with_reducible apply keeps_rdsPlace
    | with_reducible apply keeps_rdsCount
    | with_reducible apply keeps_rdsPiOf
    | with_reducible apply Keeps.fold
    | with_reducible apply Keeps.ite
    | dsimp only
    | split
    | fail_if_no_progress with_reducible refine Keeps.same ?_ rfl rfl
    | fail_if_no_progress with_reducible refine Keeps.more ?_ rfl (Nat.le_add_right _ _) rfl

theorem keeps_rdsBlock {s0 s : State} (h : Keeps s0 s) (r : Fin 32) (k : Fin 4) (o : RdsObs) : Keeps s0 (State.rdsBlock s r k o) := by
  unfold State.rdsBlock
  repeat' first
    | with_reducible assumption
    | intro _
    | with_reducible apply keeps_rdsSeen
    | with_reducible apply keeps_rdsCount
    | with_reducible apply keeps_rdsPiOf
    | with_reducible apply keeps_rdsInSync
    | with_reducible apply Keeps.fold
    | with_reducible apply Keeps.ite
    | dsimp only
    | split
    | fail_if_no_progress with_reducible refine Keeps.same ?_ rfl rfl
    | fail_if_no_progress with_reducible refine Keeps.more ?_ rfl (Nat.le_add_right _ _) rfl

theorem keeps_fn_execRdsBlock {s0 s : State} (h : Keeps s0 s) (r : Fin 32) (stream : Fin 4) (o : RdsObs) : OKeeps s0 (execRdsBlock r stream o s) := by
  unfold execRdsBlock
  repeat' first
    | with_reducible assumption
    | intro _
    | with_reducible apply OKeeps.of
    | with_reducible apply keeps_rdsBlock
    | with_reducible apply Keeps.fold
    | with_reducible apply Keeps.ite
    | with_reducible apply OKeeps.ite
    | dsimp only
    | split
    | fail_if_no_progress with_reducible refine Keeps.same ?_ rfl rfl
    | fail_if_no_progress with_reducible refine Keeps.more ?_ rfl (Nat.le_add_right _ _) rfl

theorem keeps_fn_execPiWithdrawn {s0 s : State} (h : Keeps s0 s) (r : Fin 32) : OKeeps s0 (execPiWithdrawn r s) := by
  unfold execPiWithdrawn
  repeat' first
    | with_reducible assumption
    | intro _
    | with_reducible apply OKeeps.of
    | with_reducible apply keeps_modFm
    | with_reducible apply keeps_piEvent
    | with_reducible apply Keeps.fold
    | with_reducible apply Keeps.ite
    | with_reducible apply OKeeps.ite
    | dsimp only
    | split
    | fail_if_no_progress with_reducible refine Keeps.same ?_ rfl rfl
    | fail_if_no_progress with_reducible refine Keeps.more ?_ rfl (Nat.le_add_right _ _) rfl

end Sys2Proof.Laws
end

