-- ==== Sys2Proof/Laws/KeepsDab.lean ====
section
/-!
SUPPORT. The operations and meanings of Machine/Dab.lean respect the relation of Keeps.lean.
-/

namespace Sys2Proof.Laws

open Sys2Proof Sys2Proof.Machine

set_option linter.unusedTactic false
set_option linter.unreachableTactic false
set_option linter.unusedVariables false

theorem keeps_fn_bodySvcDabCfg {s0 s : State} (h : Keeps s0 s) (c : CmdEntry) : AKeeps s0 (bodySvcDabCfg c s) := by
  unfold bodySvcDabCfg
  repeat' first
    | with_reducible assumption
    | intro _
    | with_reducible apply AKeeps.checked
    | with_reducible apply AKeeps.ok
    | with_reducible apply AKeeps.part
    | with_reducible apply AKeeps.fail
    | with_reducible apply AKeeps.wait
    | with_reducible apply AKeeps.done
    | with_reducible apply keeps_modDab
    | with_reducible apply keeps_fn_Answer_done
    | with_reducible apply Keeps.getD
    | with_reducible apply Keeps.fold
    | with_reducible apply Keeps.ite
    | with_reducible apply AKeeps.ite
    | dsimp only
    | split
    | fail_if_no_progress with_reducible refine Keeps.same ?_ rfl rfl
    | fail_if_no_progress with_reducible refine Keeps.more ?_ rfl (Nat.le_add_right _ _) rfl

theorem keeps_fn_execSvcDabCfg {s0 s : State} (h : Keeps s0 s) (c : CmdEntry) : OKeeps s0 (execSvcDabCfg c s) := by
  unfold execSvcDabCfg
  repeat' first
    | with_reducible assumption
    | intro _
    | with_reducible apply keeps_runCmd
    | with_reducible apply OKeeps.of
    | with_reducible apply keeps_runCmd
    | with_reducible apply keeps_fn_bodySvcDabCfg
    | with_reducible apply Keeps.fold
    | with_reducible apply Keeps.ite
    | with_reducible apply OKeeps.ite
    | dsimp only
    | split
    | fail_if_no_progress with_reducible refine Keeps.same ?_ rfl rfl
    | fail_if_no_progress with_reducible refine Keeps.more ?_ rfl (Nat.le_add_right _ _) rfl

theorem keeps_fn_bodySvcDabDb {s0 s : State} (h : Keeps s0 s) (c : CmdEntry) : AKeeps s0 (bodySvcDabDb c s) := by
  unfold bodySvcDabDb
  repeat' first
    | with_reducible assumption
    | intro _
    | with_reducible apply AKeeps.checked
    | with_reducible apply AKeeps.ok
    | with_reducible apply AKeeps.part
    | with_reducible apply AKeeps.fail
    | with_reducible apply AKeeps.wait
    | with_reducible apply AKeeps.done
    | with_reducible apply Keeps.fold
    | with_reducible apply Keeps.ite
    | with_reducible apply AKeeps.ite
    | dsimp only
    | split
    | fail_if_no_progress with_reducible refine Keeps.same ?_ rfl rfl
    | fail_if_no_progress with_reducible refine Keeps.more ?_ rfl (Nat.le_add_right _ _) rfl

theorem keeps_fn_execSvcDabDb {s0 s : State} (h : Keeps s0 s) (c : CmdEntry) : OKeeps s0 (execSvcDabDb c s) := by
  unfold execSvcDabDb
  repeat' first
    | with_reducible assumption
    | intro _
    | with_reducible apply keeps_runCmd
    | with_reducible apply OKeeps.of
    | with_reducible apply keeps_runCmd
    | with_reducible apply keeps_fn_bodySvcDabDb
    | with_reducible apply Keeps.fold
    | with_reducible apply Keeps.ite
    | with_reducible apply OKeeps.ite
    | dsimp only
    | split
    | fail_if_no_progress with_reducible refine Keeps.same ?_ rfl rfl
    | fail_if_no_progress with_reducible refine Keeps.more ?_ rfl (Nat.le_add_right _ _) rfl

theorem keeps_fn_execDabFrameTiming {s0 s : State} (h : Keeps s0 s) (r : Fin 32) : OKeeps s0 (execDabFrameTiming r s) := by
  unfold execDabFrameTiming
  repeat' first
    | with_reducible assumption
    | intro _
    | with_reducible apply OKeeps.of
    | with_reducible apply keeps_modDab
    | with_reducible apply keeps_lockEvent
    | with_reducible apply Keeps.fold
    | with_reducible apply Keeps.ite
    | with_reducible apply OKeeps.ite
    | dsimp only
    | split
    | fail_if_no_progress with_reducible refine Keeps.same ?_ rfl rfl
    | fail_if_no_progress with_reducible refine Keeps.more ?_ rfl (Nat.le_add_right _ _) rfl

theorem keeps_dabLock {s0 s : State} (h : Keeps s0 s) (r : Fin 32) : Keeps s0 (State.dabLock s r) := by
  unfold State.dabLock
  repeat' first
    | with_reducible assumption
    | intro _
    | with_reducible apply keeps_modRun
    | with_reducible apply keeps_runCount
    | with_reducible apply keeps_lockEvent
    | with_reducible apply Keeps.fold
    | with_reducible apply Keeps.ite
    | dsimp only
    | split
    | fail_if_no_progress with_reducible refine Keeps.same ?_ rfl rfl
    | fail_if_no_progress with_reducible refine Keeps.more ?_ rfl (Nat.le_add_right _ _) rfl

theorem keeps_dabLoss {s0 s : State} (h : Keeps s0 s) (r : Fin 32) : Keeps s0 (State.dabLoss s r) := by
  unfold State.dabLoss
  repeat' first
    | with_reducible assumption
    | intro _
    | with_reducible apply keeps_modDab
    | with_reducible apply keeps_ctxsToAcquiring
    | with_reducible apply keeps_loseTiming
    | with_reducible apply keeps_restart
    | with_reducible apply Keeps.fold
    | with_reducible apply Keeps.ite
    | dsimp only
    | split
    | fail_if_no_progress with_reducible refine Keeps.same ?_ rfl rfl
    | fail_if_no_progress with_reducible refine Keeps.more ?_ rfl (Nat.le_add_right _ _) rfl

theorem keeps_dabComplete {s0 s : State} (h : Keeps s0 s) (r : Fin 32) (changed : Bool) : Keeps s0 (State.dabComplete s r changed) := by
  unfold State.dabComplete
  repeat' first
    | with_reducible assumption
    | intro _
    | with_reducible apply keeps_modDab
    | with_reducible apply keeps_raiseLimited
    | with_reducible apply keeps_complete
    | with_reducible apply keeps_ficEvent
    | with_reducible apply Keeps.fold
    | with_reducible apply Keeps.ite
    | dsimp only
    | split
    | fail_if_no_progress with_reducible refine Keeps.same ?_ rfl rfl
    | fail_if_no_progress with_reducible refine Keeps.more ?_ rfl (Nat.le_add_right _ _) rfl

theorem keeps_dabMismatches {s0 s : State} (h : Keeps s0 s) (r : Fin 32) : Keeps s0 (State.dabMismatches s r) := by
  unfold State.dabMismatches
  repeat' first
    | with_reducible assumption
    | intro _
    | with_reducible apply keeps_reportMismatch
    | with_reducible apply Keeps.fold
    | with_reducible apply Keeps.ite
    | dsimp only
    | split
    | fail_if_no_progress with_reducible refine Keeps.same ?_ rfl rfl
    | fail_if_no_progress with_reducible refine Keeps.more ?_ rfl (Nat.le_add_right _ _) rfl

theorem keeps_fibOut {s0 s : State} (h : Keeps s0 s) (r : Fin 32) (c : Fin 256) (i : Nat) (b : List Byte) (ts : D) : Keeps s0 (State.fibOut s r c i b ts) := by
  unfold State.fibOut
  repeat' first
    | with_reducible assumption
    | intro _
    | with_reducible apply keeps_giveUnit
    | with_reducible apply keeps_unitFailed
    | with_reducible apply Keeps.fold
    | with_reducible apply Keeps.ite
    | dsimp only
    | split
    | fail_if_no_progress with_reducible refine Keeps.same ?_ rfl rfl
    | fail_if_no_progress with_reducible refine Keeps.more ?_ rfl (Nat.le_add_right _ _) rfl

theorem keeps_fibsOut {s0 s : State} (h : Keeps s0 s) (r : Fin 32) (o : DabFrameObs) (missed : Nat) : Keeps s0 (State.fibsOut s r o missed) := by
  unfold State.fibsOut
  repeat' first
    | with_reducible assumption
    | intro _
    | with_reducible apply keeps_loseUnits
    | with_reducible apply keeps_fibOut
    | with_reducible apply Keeps.fold
    | with_reducible apply Keeps.ite
    | dsimp only
    | split
    | fail_if_no_progress with_reducible refine Keeps.same ?_ rfl rfl
    | fail_if_no_progress with_reducible refine Keeps.more ?_ rfl (Nat.le_add_right _ _) rfl

theorem keeps_dropLost {s0 s : State} (h : Keeps s0 s) (r : Fin 32) : Keeps s0 (State.dropLost s r) := by
  unfold State.dropLost
  repeat' first
    | with_reducible assumption
    | intro _
    | with_reducible apply keeps_moveCtx
    | with_reducible apply Keeps.fold
    | with_reducible apply Keeps.ite
    | dsimp only
    | split
    | fail_if_no_progress with_reducible refine Keeps.same ?_ rfl rfl
    | fail_if_no_progress with_reducible refine Keeps.more ?_ rfl (Nat.le_add_right _ _) rfl

theorem keeps_fn_execDabFrameEnd {s0 s : State} (h : Keeps s0 s) (r : Fin 32) (o : DabFrameObs) : OKeeps s0 (execDabFrameEnd r o s) := by
  unfold execDabFrameEnd
  repeat' first
    | with_reducible assumption
    | intro _
    | with_reducible apply OKeeps.of
    | with_reducible apply keeps_modDab
    | with_reducible apply keeps_runCount
    | with_reducible apply keeps_startReady
    | with_reducible apply keeps_figs
    | with_reducible apply keeps_dabLock
    | with_reducible apply keeps_dabLoss
    | with_reducible apply keeps_dabComplete
    | with_reducible apply keeps_dabMismatches
    | with_reducible apply keeps_fibsOut
    | with_reducible apply keeps_dropLost
    | with_reducible apply Keeps.fold
    | with_reducible apply Keeps.ite
    | with_reducible apply OKeeps.ite
    | dsimp only
    | split
    | fail_if_no_progress with_reducible refine Keeps.same ?_ rfl rfl
    | fail_if_no_progress with_reducible refine Keeps.more ?_ rfl (Nat.le_add_right _ _) rfl

theorem keeps_fn_execDabFicTimeout {s0 s : State} (h : Keeps s0 s) (r : Fin 32) : OKeeps s0 (execDabFicTimeout r s) := by
  unfold execDabFicTimeout
  repeat' first
    | with_reducible assumption
    | intro _
    | with_reducible apply OKeeps.of
    | with_reducible apply keeps_modDab
    | with_reducible apply keeps_complete
    | with_reducible apply keeps_ficEvent
    | with_reducible apply Keeps.fold
    | with_reducible apply Keeps.ite
    | with_reducible apply OKeeps.ite
    | dsimp only
    | split
    | fail_if_no_progress with_reducible refine Keeps.same ?_ rfl rfl
    | fail_if_no_progress with_reducible refine Keeps.more ?_ rfl (Nat.le_add_right _ _) rfl

theorem keeps_fn_execDabHandleExpiry {s0 s : State} (h : Keeps s0 s) (r : Fin 32) (h : Byte) : OKeeps s0 (execDabHandleExpiry r h s) := by
  unfold execDabHandleExpiry
  repeat' first
    | with_reducible assumption
    | intro _
    | with_reducible apply OKeeps.of
    | with_reducible apply keeps_modDab
    | with_reducible apply keeps_dropLost
    | with_reducible apply Keeps.fold
    | with_reducible apply Keeps.ite
    | with_reducible apply OKeeps.ite
    | dsimp only
    | split
    | fail_if_no_progress with_reducible refine Keeps.same ?_ rfl rfl
    | fail_if_no_progress with_reducible refine Keeps.more ?_ rfl (Nat.le_add_right _ _) rfl

theorem keeps_reconfCtx {s0 s : State} (h : Keeps s0 s) (c : Fin 256) (f : SubFate) : Keeps s0 (State.reconfCtx s c f) := by
  unfold State.reconfCtx
  repeat' first
    | with_reducible assumption
    | intro _
    | with_reducible apply keeps_modCtx
    | with_reducible apply keeps_moveCtx
    | with_reducible apply keeps_loseUnits
    | with_reducible apply Keeps.fold
    | with_reducible apply Keeps.ite
    | dsimp only
    | split
    | fail_if_no_progress with_reducible refine Keeps.same ?_ rfl rfl
    | fail_if_no_progress with_reducible refine Keeps.more ?_ rfl (Nat.le_add_right _ _) rfl

theorem keeps_keepSuper {s0 s : State} (h : Keeps s0 s) (r : Fin 32) : Keeps s0 (State.keepSuper s r) := by
  unfold State.keepSuper
  repeat' first
    | with_reducible assumption
    | intro _
    | with_reducible apply keeps_modDab
    | with_reducible apply Keeps.fold
    | with_reducible apply Keeps.ite
    | dsimp only
    | split
    | fail_if_no_progress with_reducible refine Keeps.same ?_ rfl rfl
    | fail_if_no_progress with_reducible refine Keeps.more ?_ rfl (Nat.le_add_right _ _) rfl

theorem keeps_reconfigure {s0 s : State} (h : Keeps s0 s) (r : Fin 32) (cif : BitVec 16) : Keeps s0 (State.reconfigure s r cif) := by
  unfold State.reconfigure
  repeat' first
    | with_reducible assumption
    | intro _
    | with_reducible apply keeps_modDab
    | with_reducible apply keeps_runCount
    | with_reducible apply keeps_reconfEvent
    | with_reducible apply keeps_reconfCtx
    | with_reducible apply keeps_keepSuper
    | with_reducible apply Keeps.fold
    | with_reducible apply Keeps.ite
    | dsimp only
    | split
    | fail_if_no_progress with_reducible refine Keeps.same ?_ rfl rfl
    | fail_if_no_progress with_reducible refine Keeps.more ?_ rfl (Nat.le_add_right _ _) rfl

theorem keeps_superFrame {s0 s : State} (h : Keeps s0 s) (r : Fin 32) (sub : Fin 64) (ok : Bool) : Keeps s0 (State.superFrame s r sub ok) := by
  unfold State.superFrame
  repeat' first
    | with_reducible assumption
    | intro _
    | with_reducible apply keeps_modDab
    | with_reducible apply keeps_lockEvent
    | with_reducible apply keeps_loseSuper
    | with_reducible apply Keeps.fold
    | with_reducible apply Keeps.ite
    | dsimp only
    | split
    | fail_if_no_progress with_reducible refine Keeps.same ?_ rfl rfl
    | fail_if_no_progress with_reducible refine Keeps.more ?_ rfl (Nat.le_add_right _ _) rfl

theorem keeps_ctxFrame {s0 s : State} (h : Keeps s0 s) (r : Fin 32) (c : Fin 256) (bytes : List (Fin 64 × List Byte)) (pad : List (Fin 64 × List Byte)) (ts : D) : Keeps s0 (State.ctxFrame s r c bytes pad ts) := by
  unfold State.ctxFrame
  repeat' first
    | with_reducible assumption
    | intro _
    | with_reducible apply keeps_giveUnit
    | with_reducible apply keeps_dataGroup
    | with_reducible apply keeps_packetIn
    | with_reducible apply Keeps.fold
    | with_reducible apply Keeps.ite
    | dsimp only
    | split
    | fail_if_no_progress with_reducible refine Keeps.same ?_ rfl rfl
    | fail_if_no_progress with_reducible refine Keeps.more ?_ rfl (Nat.le_add_right _ _) rfl

theorem keeps_ctxFrames {s0 s : State} (h : Keeps s0 s) (r : Fin 32) (bytes : List (Fin 64 × List Byte)) (pad : List (Fin 64 × List Byte)) (ts : D) : Keeps s0 (State.ctxFrames s r bytes pad ts) := by
  unfold State.ctxFrames
  repeat' first
    | with_reducible assumption
    | intro _
    | with_reducible apply keeps_modCtx
    | with_reducible apply keeps_loseUnits
    | with_reducible apply keeps_ctxFrame
    | with_reducible apply Keeps.fold
    | with_reducible apply Keeps.ite
    | dsimp only
    | split
    | fail_if_no_progress with_reducible refine Keeps.same ?_ rfl rfl
    | fail_if_no_progress with_reducible refine Keeps.more ?_ rfl (Nat.le_add_right _ _) rfl

theorem keeps_logical {s0 s : State} (h : Keeps s0 s) (r : Fin 32) (pad : List (Fin 64 × List Byte)) : Keeps s0 (State.logical s r pad) := by
  unfold State.logical
  repeat' first
    | with_reducible assumption
    | intro _
    | with_reducible apply keeps_modDab
    | with_reducible apply keeps_startReady
    | with_reducible apply keeps_superFrame
    | with_reducible apply keeps_ctxFrames
    | with_reducible apply Keeps.fold
    | with_reducible apply Keeps.ite
    | dsimp only
    | split
    | fail_if_no_progress with_reducible refine Keeps.same ?_ rfl rfl
    | fail_if_no_progress with_reducible refine Keeps.more ?_ rfl (Nat.le_add_right _ _) rfl

theorem keeps_fn_execDabCif {s0 s : State} (h : Keeps s0 s) (r : Fin 32) (o : DabCifObs) : OKeeps s0 (execDabCif r o s) := by
  unfold execDabCif
  repeat' first
    | with_reducible assumption
    | intro _
    | with_reducible apply OKeeps.of
    | with_reducible apply keeps_modRun
    | with_reducible apply keeps_modDab
    | with_reducible apply keeps_runCount
    | with_reducible apply keeps_lostFrames
    | with_reducible apply keeps_erasedFrame
    | with_reducible apply keeps_reconfigure
    | with_reducible apply keeps_logical
    | with_reducible apply Keeps.fold
    | with_reducible apply Keeps.ite
    | with_reducible apply OKeeps.ite
    | dsimp only
    | split
    | fail_if_no_progress with_reducible refine Keeps.same ?_ rfl rfl
    | fail_if_no_progress with_reducible refine Keeps.more ?_ rfl (Nat.le_add_right _ _) rfl

theorem keeps_fn_execMotTimeout {s0 s : State} (h : Keeps s0 s) (ctx : Fin 256) (tid : BitVec 16) : OKeeps s0 (execMotTimeout ctx tid s) := by
  unfold execMotTimeout
  repeat' first
    | with_reducible assumption
    | intro _
    | with_reducible apply OKeeps.of
    | with_reducible apply keeps_motDrop
    | with_reducible apply Keeps.fold
    | with_reducible apply Keeps.ite
    | with_reducible apply OKeeps.ite
    | dsimp only
    | split
    | fail_if_no_progress with_reducible refine Keeps.same ?_ rfl rfl
    | fail_if_no_progress with_reducible refine Keeps.more ?_ rfl (Nat.le_add_right _ _) rfl

end Sys2Proof.Laws
end

