-- ==== Sys2Proof/Laws/KeepsDrm.lean ====
section
/-!
SUPPORT. The operations and meanings of Machine/Drm.lean respect the relation of Keeps.lean.
-/

namespace Sys2Proof.Laws

open Sys2Proof Sys2Proof.Machine

set_option linter.unusedTactic false
set_option linter.unreachableTactic false
set_option linter.unusedVariables false

theorem keeps_fn_bodySvcDrmCfg {s0 s : State} (h : Keeps s0 s) (c : CmdEntry) : AKeeps s0 (bodySvcDrmCfg c s) := by
  unfold bodySvcDrmCfg
  repeat' first
    | with_reducible assumption
    | intro _
    | with_reducible apply AKeeps.checked
    | with_reducible apply AKeeps.ok
    | with_reducible apply AKeeps.part
    | with_reducible apply AKeeps.fail
    | with_reducible apply AKeeps.wait
    | with_reducible apply AKeeps.done
    | with_reducible apply keeps_modDrm
    | with_reducible apply keeps_fn_Answer_done
    | with_reducible apply keeps_reacquire
    | with_reducible apply Keeps.getD
    | with_reducible apply Keeps.fold
    | with_reducible apply Keeps.ite
    | with_reducible apply AKeeps.ite
    | dsimp only
    | split
    | fail_if_no_progress with_reducible refine Keeps.same ?_ rfl rfl
    | fail_if_no_progress with_reducible refine Keeps.more ?_ rfl (Nat.le_add_right _ _) rfl

theorem keeps_fn_execSvcDrmCfg {s0 s : State} (h : Keeps s0 s) (c : CmdEntry) : OKeeps s0 (execSvcDrmCfg c s) := by
  unfold execSvcDrmCfg
  repeat' first
    | with_reducible assumption
    | intro _
    | with_reducible apply keeps_runCmd
    | with_reducible apply OKeeps.of
    | with_reducible apply keeps_runCmd
    | with_reducible apply keeps_fn_bodySvcDrmCfg
    | with_reducible apply Keeps.fold
    | with_reducible apply Keeps.ite
    | with_reducible apply OKeeps.ite
    | dsimp only
    | split
    | fail_if_no_progress with_reducible refine Keeps.same ?_ rfl rfl
    | fail_if_no_progress with_reducible refine Keeps.more ?_ rfl (Nat.le_add_right _ _) rfl

theorem keeps_fn_bodySvcDrmDb {s0 s : State} (h : Keeps s0 s) (c : CmdEntry) : AKeeps s0 (bodySvcDrmDb c s) := by
  unfold bodySvcDrmDb
  repeat' first
    | with_reducible assumption
    | intro _
    | with_reducible apply AKeeps.checked
    | with_reducible apply AKeeps.ok
    | with_reducible apply AKeeps.part
    | with_reducible apply AKeeps.fail
    | with_reducible apply AKeeps.wait
    | with_reducible apply AKeeps.done
    | with_reducible apply Keeps.fold
    | with_reducible apply Keeps.ite
    | with_reducible apply AKeeps.ite
    | dsimp only
    | split
    | fail_if_no_progress with_reducible refine Keeps.same ?_ rfl rfl
    | fail_if_no_progress with_reducible refine Keeps.more ?_ rfl (Nat.le_add_right _ _) rfl

theorem keeps_fn_execSvcDrmDb {s0 s : State} (h : Keeps s0 s) (c : CmdEntry) : OKeeps s0 (execSvcDrmDb c s) := by
  unfold execSvcDrmDb
  repeat' first
    | with_reducible assumption
    | intro _
    | with_reducible apply keeps_runCmd
    | with_reducible apply OKeeps.of
    | with_reducible apply keeps_runCmd
    | with_reducible apply keeps_fn_bodySvcDrmDb
    | with_reducible apply Keeps.fold
    | with_reducible apply Keeps.ite
    | with_reducible apply OKeeps.ite
    | dsimp only
    | split
    | fail_if_no_progress with_reducible refine Keeps.same ?_ rfl rfl
    | fail_if_no_progress with_reducible refine Keeps.more ?_ rfl (Nat.le_add_right _ _) rfl

theorem keeps_fn_execDrmModeFound {s0 s : State} (h : Keeps s0 s) (r : Fin 32) (mode : Fin 5) : OKeeps s0 (execDrmModeFound r mode s) := by
  unfold execDrmModeFound
  repeat' first
    | with_reducible assumption
    | intro _
    | with_reducible apply OKeeps.of
    | with_reducible apply keeps_modDrm
    | with_reducible apply keeps_lockEvent
    | with_reducible apply keeps_reacquire
    | with_reducible apply Keeps.fold
    | with_reducible apply Keeps.ite
    | with_reducible apply OKeeps.ite
    | dsimp only
    | split
    | fail_if_no_progress with_reducible refine Keeps.same ?_ rfl rfl
    | fail_if_no_progress with_reducible refine Keeps.more ?_ rfl (Nat.le_add_right _ _) rfl

theorem keeps_drmCounts {s0 s : State} (h : Keeps s0 s) (r : Fin 32) (o : DrmFrameObs) : Keeps s0 (State.drmCounts s r o) := by
  unfold State.drmCounts
  repeat' first
    | with_reducible assumption
    | intro _
    | with_reducible apply keeps_runCount
    | with_reducible apply Keeps.fold
    | with_reducible apply Keeps.ite
    | dsimp only
    | split
    | fail_if_no_progress with_reducible refine Keeps.same ?_ rfl rfl
    | fail_if_no_progress with_reducible refine Keeps.more ?_ rfl (Nat.le_add_right _ _) rfl

theorem keeps_drmLock {s0 s : State} (h : Keeps s0 s) (r : Fin 32) (o : DrmFrameObs) : Keeps s0 (State.drmLock s r o) := by
  unfold State.drmLock
  repeat' first
    | with_reducible assumption
    | intro _
    | with_reducible apply keeps_modRun
    | with_reducible apply keeps_modDrm
    | with_reducible apply keeps_runCount
    | with_reducible apply keeps_lockEvent
    | with_reducible apply keeps_loseTiming
    | with_reducible apply Keeps.fold
    | with_reducible apply Keeps.ite
    | dsimp only
    | split
    | fail_if_no_progress with_reducible refine Keeps.same ?_ rfl rfl
    | fail_if_no_progress with_reducible refine Keeps.more ?_ rfl (Nat.le_add_right _ _) rfl

theorem keeps_drmLoss {s0 s : State} (h : Keeps s0 s) (r : Fin 32) : Keeps s0 (State.drmLoss s r) := by
  unfold State.drmLoss
  repeat' first
    | with_reducible assumption
    | intro _
    | with_reducible apply keeps_ctxsToAcquiring
    | with_reducible apply keeps_restart
    | with_reducible apply Keeps.fold
    | with_reducible apply Keeps.ite
    | dsimp only
    | split
    | fail_if_no_progress with_reducible refine Keeps.same ?_ rfl rfl
    | fail_if_no_progress with_reducible refine Keeps.more ?_ rfl (Nat.le_add_right _ _) rfl

theorem keeps_sdcEvent {s0 s : State} (h : Keeps s0 s) (r : Fin 32) (code : Nat) (n : Nat) : Keeps s0 (State.sdcEvent s r code n) := by
  unfold State.sdcEvent
  repeat' first
    | with_reducible assumption
    | intro _
    | with_reducible apply keeps_raise
    | with_reducible apply Keeps.fold
    | with_reducible apply Keeps.ite
    | dsimp only
    | split
    | fail_if_no_progress with_reducible refine Keeps.same ?_ rfl rfl
    | fail_if_no_progress with_reducible refine Keeps.more ?_ rfl (Nat.le_add_right _ _) rfl

theorem keeps_drmSdc {s0 s : State} (h : Keeps s0 s) (r : Fin 32) (o : DrmFrameObs) : Keeps s0 (State.drmSdc s r o) := by
  unfold State.drmSdc
  repeat' first
    | with_reducible assumption
    | intro _
    | with_reducible apply keeps_modDrm
    | with_reducible apply keeps_raiseLimited
    | with_reducible apply keeps_toFantail
    | with_reducible apply keeps_sdcEvent
    | with_reducible apply Keeps.fold
    | with_reducible apply Keeps.ite
    | dsimp only
    | split
    | fail_if_no_progress with_reducible refine Keeps.same ?_ rfl rfl
    | fail_if_no_progress with_reducible refine Keeps.more ?_ rfl (Nat.le_add_right _ _) rfl

theorem keeps_drmReconfCtx {s0 s : State} (h : Keeps s0 s) (c : Fin 256) (f : SubFate) (depth : Nat) (ms : Nat) : Keeps s0 (State.drmReconfCtx s c f depth ms) := by
  unfold State.drmReconfCtx
  repeat' first
    | with_reducible assumption
    | intro _
    | with_reducible apply keeps_modCtx
    | with_reducible apply keeps_moveCtx
    | with_reducible apply keeps_loseUnits
    | with_reducible apply Keeps.fold
    | with_reducible apply Keeps.ite
    | dsimp only
    | split
    | fail_if_no_progress with_reducible refine Keeps.same ?_ rfl rfl
    | fail_if_no_progress with_reducible refine Keeps.more ?_ rfl (Nat.le_add_right _ _) rfl

theorem keeps_drmReconf {s0 s : State} (h : Keeps s0 s) (r : Fin 32) (o : DrmFrameObs) (old : DrmState) : Keeps s0 (State.drmReconf s r o old) := by
  unfold State.drmReconf
  repeat' first
    | with_reducible assumption
    | intro _
    | with_reducible apply keeps_modDrm
    | with_reducible apply keeps_runCount
    | with_reducible apply keeps_sdcEvent
    | with_reducible apply keeps_drmReconfCtx
    | with_reducible apply Keeps.fold
    | with_reducible apply Keeps.ite
    | dsimp only
    | split
    | fail_if_no_progress with_reducible refine Keeps.same ?_ rfl rfl
    | fail_if_no_progress with_reducible refine Keeps.more ?_ rfl (Nat.le_add_right _ _) rfl

theorem keeps_drmMismatches {s0 s : State} (h : Keeps s0 s) (r : Fin 32) : Keeps s0 (State.drmMismatches s r) := by
  unfold State.drmMismatches
  repeat' first
    | with_reducible assumption
    | intro _
    | with_reducible apply keeps_reportMismatch
    | with_reducible apply Keeps.fold
    | with_reducible apply Keeps.ite
    | dsimp only
    | split
    | fail_if_no_progress with_reducible refine Keeps.same ?_ rfl rfl
    | fail_if_no_progress with_reducible refine Keeps.more ?_ rfl (Nat.le_add_right _ _) rfl

theorem keeps_drmCtxFrame {s0 s : State} (h : Keeps s0 s) (r : Fin 32) (c : Fin 256) (ts : D) : Keeps s0 (State.drmCtxFrame s r c ts) := by
  unfold State.drmCtxFrame
  repeat' first
    | with_reducible assumption
    | intro _
    | with_reducible apply keeps_giveUnit
    | with_reducible apply keeps_packetIn
    | with_reducible apply Keeps.fold
    | with_reducible apply Keeps.ite
    | dsimp only
    | split
    | fail_if_no_progress with_reducible refine Keeps.same ?_ rfl rfl
    | fail_if_no_progress with_reducible refine Keeps.more ?_ rfl (Nat.le_add_right _ _) rfl

theorem keeps_drmCtxFrames {s0 s : State} (h : Keeps s0 s) (r : Fin 32) (ms : Nat) (ts : D) : Keeps s0 (State.drmCtxFrames s r ms ts) := by
  unfold State.drmCtxFrames
  repeat' first
    | with_reducible assumption
    | intro _
    | with_reducible apply keeps_modCtx
    | with_reducible apply keeps_loseUnits
    | with_reducible apply keeps_drmCtxFrame
    | with_reducible apply Keeps.fold
    | with_reducible apply Keeps.ite
    | dsimp only
    | split
    | fail_if_no_progress with_reducible refine Keeps.same ?_ rfl rfl
    | fail_if_no_progress with_reducible refine Keeps.more ?_ rfl (Nat.le_add_right _ _) rfl

theorem keeps_drmUnits {s0 s : State} (h : Keeps s0 s) (r : Fin 32) (erased : Bool) (ms : Nat) : Keeps s0 (State.drmUnits s r erased ms) := by
  unfold State.drmUnits
  repeat' first
    | with_reducible assumption
    | intro _
    | with_reducible apply keeps_modDrm
    | with_reducible apply keeps_lostFrames
    | with_reducible apply keeps_erasedFrame
    | with_reducible apply keeps_drmCtxFrames
    | with_reducible apply Keeps.fold
    | with_reducible apply Keeps.ite
    | dsimp only
    | split
    | fail_if_no_progress with_reducible refine Keeps.same ?_ rfl rfl
    | fail_if_no_progress with_reducible refine Keeps.more ?_ rfl (Nat.le_add_right _ _) rfl

theorem keeps_fn_execDrmFrameEnd {s0 s : State} (h : Keeps s0 s) (r : Fin 32) (o : DrmFrameObs) : OKeeps s0 (execDrmFrameEnd r o s) := by
  unfold execDrmFrameEnd
  repeat' first
    | with_reducible assumption
    | intro _
    | with_reducible apply OKeeps.of
    | with_reducible apply keeps_modRun
    | with_reducible apply keeps_modDrm
    | with_reducible apply keeps_startReady
    | with_reducible apply keeps_lostFrames
    | with_reducible apply keeps_toFantail
    | with_reducible apply keeps_drmCounts
    | with_reducible apply keeps_drmLock
    | with_reducible apply keeps_drmLoss
    | with_reducible apply keeps_drmSdc
    | with_reducible apply keeps_drmReconf
    | with_reducible apply keeps_drmMismatches
    | with_reducible apply keeps_drmUnits
    | with_reducible apply Keeps.fold
    | with_reducible apply Keeps.ite
    | with_reducible apply OKeeps.ite
    | dsimp only
    | split
    | fail_if_no_progress with_reducible refine Keeps.same ?_ rfl rfl
    | fail_if_no_progress with_reducible refine Keeps.more ?_ rfl (Nat.le_add_right _ _) rfl

end Sys2Proof.Laws
end

