-- ==== Sys2Proof/Laws/KeepsFanOps.lean ====
section
/-!
SUPPORT. The operations and meanings of Machine/FanOps.lean respect the relation of Keeps.lean.
-/

namespace Sys2Proof.Laws

open Sys2Proof Sys2Proof.Machine

set_option linter.unusedTactic false
set_option linter.unreachableTactic false
set_option linter.unusedVariables false

theorem keeps_candEvent {s0 s : State} (h : Keeps s0 s) (f : Fin 256) (code : Nat) (i : Nat) (k : Cand) : Keeps s0 (State.candEvent s f code i k) := by
  unfold State.candEvent
  repeat' first
    | with_reducible assumption
    | intro _
    | with_reducible apply keeps_raiseLimitedWith
    | with_reducible apply Keeps.fold
    | with_reducible apply Keeps.ite
    | dsimp only
    | split
    | fail_if_no_progress with_reducible refine Keeps.same ?_ rfl rfl
    | fail_if_no_progress with_reducible refine Keeps.more ?_ rfl (Nat.le_add_right _ _) rfl

theorem keeps_addCand {s0 s : State} (h : Keeps s0 s) (f : Fin 256) (i : Nat) (k : Cand) : Keeps s0 (State.addCand s f i k) := by
  unfold State.addCand
  repeat' first
    | with_reducible assumption
    | intro _
    | with_reducible apply keeps_modFollow
    | with_reducible apply keeps_candEvent
    | with_reducible apply Keeps.fold
    | with_reducible apply Keeps.ite
    | dsimp only
    | split
    | fail_if_no_progress with_reducible refine Keeps.same ?_ rfl rfl
    | fail_if_no_progress with_reducible refine Keeps.more ?_ rfl (Nat.le_add_right _ _) rfl

theorem keeps_loseIncoming {s0 s : State} (h : Keeps s0 s) (f : Fin 256) (i : Nat) : Keeps s0 (State.loseIncoming s f i) := by
  unfold State.loseIncoming
  repeat' first
    | with_reducible assumption
    | intro _
    | with_reducible apply keeps_modFollow
    | with_reducible apply Keeps.fold
    | with_reducible apply Keeps.ite
    | dsimp only
    | split
    | fail_if_no_progress with_reducible refine Keeps.same ?_ rfl rfl
    | fail_if_no_progress with_reducible refine Keeps.more ?_ rfl (Nat.le_add_right _ _) rfl

theorem keeps_dropCand {s0 s : State} (h : Keeps s0 s) (f : Fin 256) (i : Nat) : Keeps s0 (State.dropCand s f i) := by
  unfold State.dropCand
  repeat' first
    | with_reducible assumption
    | intro _
    | with_reducible apply keeps_modFollow
    | with_reducible apply keeps_shadow
    | with_reducible apply keeps_releaseShadow
    | with_reducible apply keeps_candEvent
    | with_reducible apply keeps_loseIncoming
    | with_reducible apply Keeps.fold
    | with_reducible apply Keeps.ite
    | dsimp only
    | split
    | fail_if_no_progress with_reducible refine Keeps.same ?_ rfl rfl
    | fail_if_no_progress with_reducible refine Keeps.more ?_ rfl (Nat.le_add_right _ _) rfl

theorem keeps_signal {s0 s : State} (h : Keeps s0 s) (f : Fin 256) (o : Signalled) : Keeps s0 (State.signal s f o) := by
  unfold State.signal
  repeat' first
    | with_reducible assumption
    | intro _
    | with_reducible apply keeps_modCand
    | with_reducible apply keeps_addCand
    | with_reducible apply Keeps.fold
    | with_reducible apply Keeps.ite
    | dsimp only
    | split
    | fail_if_no_progress with_reducible refine Keeps.same ?_ rfl rfl
    | fail_if_no_progress with_reducible refine Keeps.more ?_ rfl (Nat.le_add_right _ _) rfl

theorem keeps_judgeCand {s0 s : State} (h : Keeps s0 s) (f : Fin 256) (i : Nat) : Keeps s0 (State.judgeCand s f i) := by
  unfold State.judgeCand
  repeat' first
    | with_reducible assumption
    | intro _
    | with_reducible apply keeps_modCand
    | with_reducible apply keeps_candEvent
    | with_reducible apply Keeps.fold
    | with_reducible apply Keeps.ite
    | dsimp only
    | split
    | fail_if_no_progress with_reducible refine Keeps.same ?_ rfl rfl
    | fail_if_no_progress with_reducible refine Keeps.more ?_ rfl (Nat.le_add_right _ _) rfl

theorem keeps_switchEvent {s0 s : State} (h : Keeps s0 s) (f : Fin 256) (reason : Nat) (dip : Bool) (k : Cand) : Keeps s0 (State.switchEvent s f reason dip k) := by
  unfold State.switchEvent
  repeat' first
    | with_reducible assumption
    | intro _
    | with_reducible apply keeps_raise
    | with_reducible apply Keeps.fold
    | with_reducible apply Keeps.ite
    | dsimp only
    | split
    | fail_if_no_progress with_reducible refine Keeps.same ?_ rfl rfl
    | fail_if_no_progress with_reducible refine Keeps.more ?_ rfl (Nat.le_add_right _ _) rfl

theorem keeps_noCandEvent {s0 s : State} (h : Keeps s0 s) (f : Fin 256) (code : Nat) : Keeps s0 (State.noCandEvent s f code) := by
  unfold State.noCandEvent
  repeat' first
    | with_reducible assumption
    | intro _
    | with_reducible apply keeps_raise
    | with_reducible apply Keeps.fold
    | with_reducible apply Keeps.ite
    | dsimp only
    | split
    | fail_if_no_progress with_reducible refine Keeps.same ?_ rfl rfl
    | fail_if_no_progress with_reducible refine Keeps.more ?_ rfl (Nat.le_add_right _ _) rfl

theorem keeps_startSwitch {s0 s : State} (h : Keeps s0 s) (f : Fin 256) (i : Nat) (reason : Nat) (ms : Nat) : Keeps s0 (State.startSwitch s f i reason ms) := by
  unfold State.startSwitch
  repeat' first
    | with_reducible assumption
    | intro _
    | with_reducible apply keeps_modFollow
    | with_reducible apply keeps_cutBlend
    | with_reducible apply keeps_switchEvent
    | with_reducible apply keeps_noCandEvent
    | with_reducible apply Keeps.fold
    | with_reducible apply Keeps.ite
    | dsimp only
    | split
    | fail_if_no_progress with_reducible refine Keeps.same ?_ rfl rfl
    | fail_if_no_progress with_reducible refine Keeps.more ?_ rfl (Nat.le_add_right _ _) rfl

theorem keeps_swapShadow {s0 s : State} (h : Keeps s0 s) (f : Fin 256) (c : Fin 256) : Keeps s0 (State.swapShadow s f c) := by
  unfold State.swapShadow
  repeat' first
    | with_reducible assumption
    | intro _
    | with_reducible apply keeps_modCtx
    | with_reducible apply keeps_moveCtx
    | with_reducible apply Keeps.fold
    | with_reducible apply Keeps.ite
    | dsimp only
    | split
    | fail_if_no_progress with_reducible refine Keeps.same ?_ rfl rfl
    | fail_if_no_progress with_reducible refine Keeps.more ?_ rfl (Nat.le_add_right _ _) rfl

theorem keeps_takeSource {s0 s : State} (h : Keeps s0 s) (f : Fin 256) (k : Cand) (r : Fin 32) : Keeps s0 (State.takeSource s f k r) := by
  unfold State.takeSource
  repeat' first
    | with_reducible assumption
    | intro _
    | with_reducible apply keeps_modCtx
    | with_reducible apply keeps_freeDelay
    | with_reducible apply Keeps.fold
    | with_reducible apply Keeps.ite
    | dsimp only
    | split
    | fail_if_no_progress with_reducible refine Keeps.same ?_ rfl rfl
    | fail_if_no_progress with_reducible refine Keeps.more ?_ rfl (Nat.le_add_right _ _) rfl

theorem keeps_commitSwitch {s0 s : State} (h : Keeps s0 s) (f : Fin 256) (i : Nat) (k : Cand) : Keeps s0 (State.commitSwitch s f i k) := by
  unfold State.commitSwitch
  repeat' first
    | with_reducible assumption
    | intro _
    | with_reducible apply keeps_modFollow
    | with_reducible apply keeps_shadow
    | with_reducible apply keeps_swapShadow
    | with_reducible apply keeps_takeSource
    | with_reducible apply Keeps.fold
    | with_reducible apply Keeps.ite
    | dsimp only
    | split
    | fail_if_no_progress with_reducible refine Keeps.same ?_ rfl rfl
    | fail_if_no_progress with_reducible refine Keeps.more ?_ rfl (Nat.le_add_right _ _) rfl

theorem keeps_endSwitch {s0 s : State} (h : Keeps s0 s) (f : Fin 256) : Keeps s0 (State.endSwitch s f) := by
  unfold State.endSwitch
  repeat' first
    | with_reducible assumption
    | intro _
    | with_reducible apply keeps_modFollow
    | with_reducible apply keeps_shadow
    | with_reducible apply keeps_blendEvent
    | with_reducible apply keeps_commitSwitch
    | with_reducible apply Keeps.fold
    | with_reducible apply Keeps.ite
    | dsimp only
    | split
    | fail_if_no_progress with_reducible refine Keeps.same ?_ rfl rfl
    | fail_if_no_progress with_reducible refine Keeps.more ?_ rfl (Nat.le_add_right _ _) rfl

theorem keeps_onFailure {s0 s : State} (h : Keeps s0 s) (f : Fin 256) : Keeps s0 (State.onFailure s f) := by
  unfold State.onFailure
  repeat' first
    | with_reducible assumption
    | intro _
    | with_reducible apply keeps_modFollow
    | with_reducible apply keeps_noCandEvent
    | with_reducible apply keeps_startSwitch
    | with_reducible apply Keeps.fold
    | with_reducible apply Keeps.ite
    | dsimp only
    | split
    | fail_if_no_progress with_reducible refine Keeps.same ?_ rfl rfl
    | fail_if_no_progress with_reducible refine Keeps.more ?_ rfl (Nat.le_add_right _ _) rfl

theorem keeps_improve {s0 s : State} (h : Keeps s0 s) (f : Fin 256) : Keeps s0 (State.improve s f) := by
  unfold State.improve
  repeat' first
    | with_reducible assumption
    | intro _
    | with_reducible apply keeps_modFollow
    | with_reducible apply keeps_startSwitch
    | with_reducible apply Keeps.fold
    | with_reducible apply Keeps.ite
    | dsimp only
    | split
    | fail_if_no_progress with_reducible refine Keeps.same ?_ rfl rfl
    | fail_if_no_progress with_reducible refine Keeps.more ?_ rfl (Nat.le_add_right _ _) rfl

theorem keeps_decideFor {s0 s : State} (h : Keeps s0 s) (f : Fin 256) : Keeps s0 (State.decideFor s f) := by
  unfold State.decideFor
  repeat' first
    | with_reducible assumption
    | intro _
    | with_reducible apply keeps_loseIncoming
    | with_reducible apply keeps_startSwitch
    | with_reducible apply keeps_onFailure
    | with_reducible apply keeps_improve
    | with_reducible apply Keeps.fold
    | with_reducible apply Keeps.ite
    | dsimp only
    | split
    | fail_if_no_progress with_reducible refine Keeps.same ?_ rfl rfl
    | fail_if_no_progress with_reducible refine Keeps.more ?_ rfl (Nat.le_add_right _ _) rfl

theorem keeps_openShadow {s0 s : State} (h : Keeps s0 s) (f : Fin 256) (i : Nat) : Keeps s0 (State.openShadow s f i) := by
  unfold State.openShadow
  repeat' first
    | with_reducible assumption
    | intro _
    | with_reducible apply keeps_openCtx
    | with_reducible apply keeps_modCand
    | with_reducible apply Keeps.fold
    | with_reducible apply Keeps.ite
    | dsimp only
    | split
    | fail_if_no_progress with_reducible refine Keeps.same ?_ rfl rfl
    | fail_if_no_progress with_reducible refine Keeps.more ?_ rfl (Nat.le_add_right _ _) rfl

theorem keeps_offerShadow {s0 s : State} (h : Keeps s0 s) (f : Fin 256) (i : Nat) : Keeps s0 (State.offerShadow s f i) := by
  unfold State.offerShadow
  repeat' first
    | with_reducible assumption
    | intro _
    | with_reducible apply keeps_shadow
    | with_reducible apply keeps_releaseShadow
    | with_reducible apply keeps_openShadow
    | with_reducible apply Keeps.fold
    | with_reducible apply Keeps.ite
    | dsimp only
    | split
    | fail_if_no_progress with_reducible refine Keeps.same ?_ rfl rfl
    | fail_if_no_progress with_reducible refine Keeps.more ?_ rfl (Nat.le_add_right _ _) rfl

theorem keeps_shadows {s0 s : State} (h : Keeps s0 s) (f : Fin 256) : Keeps s0 (State.shadows s f) := by
  unfold State.shadows
  repeat' first
    | with_reducible assumption
    | intro _
    | with_reducible apply keeps_shadow
    | with_reducible apply keeps_releaseShadow
    | with_reducible apply keeps_offerShadow
    | with_reducible apply Keeps.fold
    | with_reducible apply Keeps.ite
    | dsimp only
    | split
    | fail_if_no_progress with_reducible refine Keeps.same ?_ rfl rfl
    | fail_if_no_progress with_reducible refine Keeps.more ?_ rfl (Nat.le_add_right _ _) rfl

theorem keeps_bring {s0 s : State} (h : Keeps s0 s) (f : Fin 256) (i : Nat) : Keeps s0 (State.bring s f i) := by
  unfold State.bring
  repeat' first
    | with_reducible assumption
    | intro _
    | refine keeps_openWin ?_ (by assumption)
    | with_reducible apply Keeps.getD
    | with_reducible apply Keeps.fold
    | with_reducible apply Keeps.ite
    | dsimp only
    | split
    | fail_if_no_progress with_reducible refine Keeps.same ?_ rfl rfl
    | fail_if_no_progress with_reducible refine Keeps.more ?_ rfl (Nat.le_add_right _ _) rfl

theorem keeps_closeFanWins {s0 s : State} (h : Keeps s0 s) : Keeps s0 (State.closeFanWins s) := by
  unfold State.closeFanWins
  repeat' first
    | with_reducible assumption
    | intro _
    | with_reducible apply keeps_modWin
    | with_reducible apply keeps_releaseShadow
    | with_reducible apply Keeps.fold
    | with_reducible apply Keeps.ite
    | dsimp only
    | split
    | fail_if_no_progress with_reducible refine Keeps.same ?_ rfl rfl
    | fail_if_no_progress with_reducible refine Keeps.more ?_ rfl (Nat.le_add_right _ _) rfl

theorem keeps_trimFanWins {s0 s : State} (h : Keeps s0 s) : Keeps s0 (State.trimFanWins s) := by
  unfold State.trimFanWins
  repeat' first
    | with_reducible assumption
    | intro _
    | with_reducible apply keeps_modWin
    | with_reducible apply keeps_releaseShadow
    | with_reducible apply Keeps.fold
    | with_reducible apply Keeps.ite
    | dsimp only
    | split
    | fail_if_no_progress with_reducible refine Keeps.same ?_ rfl rfl
    | fail_if_no_progress with_reducible refine Keeps.more ?_ rfl (Nat.le_add_right _ _) rfl

theorem keeps_fanProbe {s0 s : State} (h : Keeps s0 s) (freq : W) : Keeps s0 (State.fanProbe s freq) := by
  unfold State.fanProbe
  repeat' first
    | with_reducible assumption
    | intro _
    | with_reducible apply keeps_queueProbe
    | with_reducible apply Keeps.fold
    | with_reducible apply Keeps.ite
    | dsimp only
    | split
    | fail_if_no_progress with_reducible refine Keeps.same ?_ rfl rfl
    | fail_if_no_progress with_reducible refine Keeps.more ?_ rfl (Nat.le_add_right _ _) rfl

theorem keeps_fanProbes {s0 s : State} (h : Keeps s0 s) : Keeps s0 (State.fanProbes s) := by
  unfold State.fanProbes
  repeat' first
    | with_reducible assumption
    | intro _
    | with_reducible apply keeps_fanProbe
    | with_reducible apply Keeps.fold
    | with_reducible apply Keeps.ite
    | dsimp only
    | split
    | fail_if_no_progress with_reducible refine Keeps.same ?_ rfl rfl
    | fail_if_no_progress with_reducible refine Keeps.more ?_ rfl (Nat.le_add_right _ _) rfl

theorem keeps_assignEst {s0 s : State} (h : Keeps s0 s) : Keeps s0 (State.assignEst s) := by
  unfold State.assignEst
  repeat' first
    | with_reducible assumption
    | intro _
    | with_reducible apply keeps_modEst
    | with_reducible apply keeps_shadow
    | with_reducible apply Keeps.fold
    | with_reducible apply Keeps.ite
    | dsimp only
    | split
    | fail_if_no_progress with_reducible refine Keeps.same ?_ rfl rfl
    | fail_if_no_progress with_reducible refine Keeps.more ?_ rfl (Nat.le_add_right _ _) rfl

theorem keeps_placeShadow {s0 s : State} (h : Keeps s0 s) (f : Fin 256) (i : Nat) (peak : Nat) : Keeps s0 (State.placeShadow s f i peak) := by
  unfold State.placeShadow
  repeat' first
    | with_reducible assumption
    | intro _
    | with_reducible apply keeps_shadow
    | with_reducible apply keeps_alignEvent
    | with_reducible apply keeps_modCand
    | with_reducible apply keeps_poolRefused
    | refine keeps_placeDelay ?_ (by assumption)
    | with_reducible apply Keeps.fold
    | with_reducible apply Keeps.ite
    | dsimp only
    | split
    | fail_if_no_progress with_reducible refine Keeps.same ?_ rfl rfl
    | fail_if_no_progress with_reducible refine Keeps.more ?_ rfl (Nat.le_add_right _ _) rfl

theorem keeps_moveDelay {s0 s : State} (h : Keeps s0 s) (f : Fin 256) (pace : Nat) : Keeps s0 (State.moveDelay s f pace) := by
  unfold State.moveDelay
  repeat' first
    | with_reducible assumption
    | intro _
    | with_reducible apply keeps_modFollow
    | refine keeps_placeDelay ?_ (by assumption)
    | with_reducible apply keeps_placeShadow
    | with_reducible apply Keeps.fold
    | with_reducible apply Keeps.ite
    | dsimp only
    | split
    | fail_if_no_progress with_reducible refine Keeps.same ?_ rfl rfl
    | fail_if_no_progress with_reducible refine Keeps.more ?_ rfl (Nat.le_add_right _ _) rfl

end Sys2Proof.Laws
end

