-- ==== Sys2Proof/Laws/KeepsFantail.lean ====
section
/-!
SUPPORT. The operations and meanings of Machine/Fantail.lean respect the relation of Keeps.lean.
-/

namespace Sys2Proof.Laws

open Sys2Proof Sys2Proof.Machine

set_option linter.unusedTactic false
set_option linter.unreachableTactic false
set_option linter.unusedVariables false

theorem keeps_fn_bodyFanPolicy {s0 s : State} (h : Keeps s0 s) (c : CmdEntry) : AKeeps s0 (bodyFanPolicy c s) := by
  unfold bodyFanPolicy
  repeat' first
    | with_reducible assumption
    | intro _
    | with_reducible apply AKeeps.checked
    | with_reducible apply AKeeps.ok
    | with_reducible apply AKeeps.part
    | with_reducible apply AKeeps.fail
    | with_reducible apply AKeeps.wait
    | with_reducible apply AKeeps.done
    | with_reducible apply keeps_fn_Answer_done
    | with_reducible apply Keeps.fold
    | with_reducible apply Keeps.ite
    | with_reducible apply AKeeps.ite
    | dsimp only
    | split
    | fail_if_no_progress with_reducible refine Keeps.same ?_ rfl rfl
    | fail_if_no_progress with_reducible refine Keeps.more ?_ rfl (Nat.le_add_right _ _) rfl

theorem keeps_fn_execFanPolicy {s0 s : State} (h : Keeps s0 s) (c : CmdEntry) : OKeeps s0 (execFanPolicy c s) := by
  unfold execFanPolicy
  repeat' first
    | with_reducible assumption
    | intro _
    | with_reducible apply keeps_runCmd
    | with_reducible apply OKeeps.of
    | with_reducible apply keeps_runCmd
    | with_reducible apply keeps_fn_bodyFanPolicy
    | with_reducible apply Keeps.fold
    | with_reducible apply Keeps.ite
    | with_reducible apply OKeeps.ite
    | dsimp only
    | split
    | fail_if_no_progress with_reducible refine Keeps.same ?_ rfl rfl
    | fail_if_no_progress with_reducible refine Keeps.more ?_ rfl (Nat.le_add_right _ _) rfl

theorem keeps_hostCand {s0 s : State} (h : Keeps s0 s) (f : Fin 256) (std : Byte) (freq : W) (ident : W) (blocked : Bool) : AKeeps s0 (State.hostCand s f std freq ident blocked) := by
  unfold State.hostCand
  repeat' first
    | with_reducible assumption
    | intro _
    | with_reducible apply AKeeps.checked
    | with_reducible apply AKeeps.ok
    | with_reducible apply AKeeps.part
    | with_reducible apply AKeeps.fail
    | with_reducible apply AKeeps.wait
    | with_reducible apply AKeeps.done
    | with_reducible apply keeps_modCand
    | with_reducible apply keeps_addCand
    | with_reducible apply Keeps.fold
    | with_reducible apply Keeps.ite
    | with_reducible apply AKeeps.ite
    | dsimp only
    | split
    | fail_if_no_progress with_reducible refine Keeps.same ?_ rfl rfl
    | fail_if_no_progress with_reducible refine Keeps.more ?_ rfl (Nat.le_add_right _ _) rfl

theorem keeps_fn_bodyFanCand {s0 s : State} (h : Keeps s0 s) (c : CmdEntry) : AKeeps s0 (bodyFanCand c s) := by
  unfold bodyFanCand
  repeat' first
    | with_reducible assumption
    | intro _
    | with_reducible apply AKeeps.checked
    | with_reducible apply AKeeps.ok
    | with_reducible apply AKeeps.part
    | with_reducible apply AKeeps.fail
    | with_reducible apply AKeeps.wait
    | with_reducible apply AKeeps.done
    | with_reducible apply keeps_modCand
    | with_reducible apply keeps_dropCand
    | with_reducible apply keeps_hostCand
    | with_reducible apply Keeps.fold
    | with_reducible apply Keeps.ite
    | with_reducible apply AKeeps.ite
    | dsimp only
    | split
    | fail_if_no_progress with_reducible refine Keeps.same ?_ rfl rfl
    | fail_if_no_progress with_reducible refine Keeps.more ?_ rfl (Nat.le_add_right _ _) rfl

theorem keeps_fn_execFanCand {s0 s : State} (h : Keeps s0 s) (c : CmdEntry) : OKeeps s0 (execFanCand c s) := by
  unfold execFanCand
  repeat' first
    | with_reducible assumption
    | intro _
    | with_reducible apply keeps_runCmd
    | with_reducible apply OKeeps.of
    | with_reducible apply keeps_runCmd
    | with_reducible apply keeps_fn_bodyFanCand
    | with_reducible apply Keeps.fold
    | with_reducible apply Keeps.ite
    | with_reducible apply OKeeps.ite
    | dsimp only
    | split
    | fail_if_no_progress with_reducible refine Keeps.same ?_ rfl rfl
    | fail_if_no_progress with_reducible refine Keeps.more ?_ rfl (Nat.le_add_right _ _) rfl

theorem keeps_fn_bodyFanCands {s0 s : State} (h : Keeps s0 s) (c : CmdEntry) : AKeeps s0 (bodyFanCands c s) := by
  unfold bodyFanCands
  repeat' first
    | with_reducible assumption
    | intro _
    | with_reducible apply AKeeps.checked
    | with_reducible apply AKeeps.ok
    | with_reducible apply AKeeps.part
    | with_reducible apply AKeeps.fail
    | with_reducible apply AKeeps.wait
    | with_reducible apply AKeeps.done
    | with_reducible apply Keeps.fold
    | with_reducible apply Keeps.ite
    | with_reducible apply AKeeps.ite
    | dsimp only
    | split
    | fail_if_no_progress with_reducible refine Keeps.same ?_ rfl rfl
    | fail_if_no_progress with_reducible refine Keeps.more ?_ rfl (Nat.le_add_right _ _) rfl

theorem keeps_fn_execFanCands {s0 s : State} (h : Keeps s0 s) (c : CmdEntry) : OKeeps s0 (execFanCands c s) := by
  unfold execFanCands
  repeat' first
    | with_reducible assumption
    | intro _
    | with_reducible apply keeps_runCmd
    | with_reducible apply OKeeps.of
    | with_reducible apply keeps_runCmd
    | with_reducible apply keeps_fn_bodyFanCands
    | with_reducible apply Keeps.fold
    | with_reducible apply Keeps.ite
    | with_reducible apply OKeeps.ite
    | dsimp only
    | split
    | fail_if_no_progress with_reducible refine Keeps.same ?_ rfl rfl
    | fail_if_no_progress with_reducible refine Keeps.more ?_ rfl (Nat.le_add_right _ _) rfl

theorem keeps_hostSwitch {s0 s : State} (h : Keeps s0 s) (f : Fin 256) (i : Nat) (k : Cand) : Keeps s0 (State.hostSwitch s f i k) := by
  unfold State.hostSwitch
  repeat' first
    | with_reducible assumption
    | intro _
    | with_reducible apply keeps_modFollow
    | with_reducible apply keeps_loseIncoming
    | with_reducible apply keeps_startSwitch
    | with_reducible apply Keeps.fold
    | with_reducible apply Keeps.ite
    | dsimp only
    | split
    | fail_if_no_progress with_reducible refine Keeps.same ?_ rfl rfl
    | fail_if_no_progress with_reducible refine Keeps.more ?_ rfl (Nat.le_add_right _ _) rfl

theorem keeps_fn_bodyFanSwitch {s0 s : State} (h : Keeps s0 s) (c : CmdEntry) : AKeeps s0 (bodyFanSwitch c s) := by
  unfold bodyFanSwitch
  repeat' first
    | with_reducible assumption
    | intro _
    | with_reducible apply AKeeps.checked
    | with_reducible apply AKeeps.ok
    | with_reducible apply AKeeps.part
    | with_reducible apply AKeeps.fail
    | with_reducible apply AKeeps.wait
    | with_reducible apply AKeeps.done
    | with_reducible apply keeps_fn_Answer_done
    | with_reducible apply keeps_hostSwitch
    | with_reducible apply Keeps.fold
    | with_reducible apply Keeps.ite
    | with_reducible apply AKeeps.ite
    | dsimp only
    | split
    | fail_if_no_progress with_reducible refine Keeps.same ?_ rfl rfl
    | fail_if_no_progress with_reducible refine Keeps.more ?_ rfl (Nat.le_add_right _ _) rfl

theorem keeps_fn_execFanSwitch {s0 s : State} (h : Keeps s0 s) (c : CmdEntry) : OKeeps s0 (execFanSwitch c s) := by
  unfold execFanSwitch
  repeat' first
    | with_reducible assumption
    | intro _
    | with_reducible apply keeps_runCmd
    | with_reducible apply OKeeps.of
    | with_reducible apply keeps_runCmd
    | with_reducible apply keeps_fn_bodyFanSwitch
    | with_reducible apply Keeps.fold
    | with_reducible apply Keeps.ite
    | with_reducible apply OKeeps.ite
    | dsimp only
    | split
    | fail_if_no_progress with_reducible refine Keeps.same ?_ rfl rfl
    | fail_if_no_progress with_reducible refine Keeps.more ?_ rfl (Nat.le_add_right _ _) rfl

theorem keeps_beginFollow {s0 s : State} (h : Keeps s0 s) (f : Fin 256) : Keeps s0 (State.beginFollow s f) := by
  unfold State.beginFollow
  repeat' first
    | with_reducible assumption
    | intro _
    | with_reducible apply keeps_modCtx
    | with_reducible apply keeps_modFollow
    | with_reducible apply Keeps.fold
    | with_reducible apply Keeps.ite
    | dsimp only
    | split
    | fail_if_no_progress with_reducible refine Keeps.same ?_ rfl rfl
    | fail_if_no_progress with_reducible refine Keeps.more ?_ rfl (Nat.le_add_right _ _) rfl

theorem keeps_fn_bodyFanFollow {s0 s : State} (h : Keeps s0 s) (c : CmdEntry) : AKeeps s0 (bodyFanFollow c s) := by
  unfold bodyFanFollow
  repeat' first
    | with_reducible assumption
    | intro _
    | with_reducible apply AKeeps.checked
    | with_reducible apply AKeeps.ok
    | with_reducible apply AKeeps.part
    | with_reducible apply AKeeps.fail
    | with_reducible apply AKeeps.wait
    | with_reducible apply AKeeps.done
    | with_reducible apply keeps_fn_Answer_done
    | with_reducible apply keeps_endFollow
    | with_reducible apply keeps_beginFollow
    | with_reducible apply Keeps.fold
    | with_reducible apply Keeps.ite
    | with_reducible apply AKeeps.ite
    | dsimp only
    | split
    | fail_if_no_progress with_reducible refine Keeps.same ?_ rfl rfl
    | fail_if_no_progress with_reducible refine Keeps.more ?_ rfl (Nat.le_add_right _ _) rfl

theorem keeps_fn_execFanFollow {s0 s : State} (h : Keeps s0 s) (c : CmdEntry) : OKeeps s0 (execFanFollow c s) := by
  unfold execFanFollow
  repeat' first
    | with_reducible assumption
    | intro _
    | with_reducible apply keeps_runCmd
    | with_reducible apply OKeeps.of
    | with_reducible apply keeps_runCmd
    | with_reducible apply keeps_fn_bodyFanFollow
    | with_reducible apply Keeps.fold
    | with_reducible apply Keeps.ite
    | with_reducible apply OKeeps.ite
    | dsimp only
    | split
    | fail_if_no_progress with_reducible refine Keeps.same ?_ rfl rfl
    | fail_if_no_progress with_reducible refine Keeps.more ?_ rfl (Nat.le_add_right _ _) rfl

theorem keeps_fanOff {s0 s : State} (h : Keeps s0 s) : Keeps s0 (State.fanOff s) := by
  unfold State.fanOff
  repeat' first
    | with_reducible assumption
    | intro _
    | with_reducible apply keeps_modWin
    | with_reducible apply keeps_releaseShadow
    | with_reducible apply Keeps.fold
    | with_reducible apply Keeps.ite
    | dsimp only
    | split
    | fail_if_no_progress with_reducible refine Keeps.same ?_ rfl rfl
    | fail_if_no_progress with_reducible refine Keeps.more ?_ rfl (Nat.le_add_right _ _) rfl

theorem keeps_fn_execFanDisable {s0 s : State} (h : Keeps s0 s) (value : W) : OKeeps s0 (execFanDisable value s) := by
  unfold execFanDisable
  repeat' first
    | with_reducible assumption
    | intro _
    | with_reducible apply OKeeps.of
    | with_reducible apply keeps_fanOff
    | with_reducible apply Keeps.fold
    | with_reducible apply Keeps.ite
    | with_reducible apply OKeeps.ite
    | dsimp only
    | split
    | fail_if_no_progress with_reducible refine Keeps.same ?_ rfl rfl
    | fail_if_no_progress with_reducible refine Keeps.more ?_ rfl (Nat.le_add_right _ _) rfl

theorem keeps_adoptPolicy {s0 s : State} (h : Keeps s0 s) : Keeps s0 (State.adoptPolicy s) := by
  unfold State.adoptPolicy
  repeat' first
    | with_reducible assumption
    | intro _
    | with_reducible apply Keeps.fold
    | with_reducible apply Keeps.ite
    | dsimp only
    | split
    | fail_if_no_progress with_reducible refine Keeps.same ?_ rfl rfl
    | fail_if_no_progress with_reducible refine Keeps.more ?_ rfl (Nat.le_add_right _ _) rfl

theorem keeps_scoreFor {s0 s : State} (h : Keeps s0 s) (f : Fin 256) : Keeps s0 (State.scoreFor s f) := by
  unfold State.scoreFor
  repeat' first
    | with_reducible assumption
    | intro _
    | with_reducible apply keeps_modFollow
    | with_reducible apply keeps_judgeCand
    | with_reducible apply Keeps.fold
    | with_reducible apply Keeps.ite
    | dsimp only
    | split
    | fail_if_no_progress with_reducible refine Keeps.same ?_ rfl rfl
    | fail_if_no_progress with_reducible refine Keeps.more ?_ rfl (Nat.le_add_right _ _) rfl

theorem keeps_signalAll {s0 s : State} (h : Keeps s0 s) : Keeps s0 (State.signalAll s) := by
  unfold State.signalAll
  repeat' first
    | with_reducible assumption
    | intro _
    | with_reducible apply keeps_takeSignals
    | with_reducible apply keeps_signal
    | with_reducible apply Keeps.fold
    | with_reducible apply Keeps.ite
    | dsimp only
    | split
    | fail_if_no_progress with_reducible refine Keeps.same ?_ rfl rfl
    | fail_if_no_progress with_reducible refine Keeps.more ?_ rfl (Nat.le_add_right _ _) rfl

theorem keeps_fanTick {s0 s : State} (h : Keeps s0 s) (pace : List Nat) : Keeps s0 (State.fanTick s pace) := by
  unfold State.fanTick
  repeat' first
    | with_reducible assumption
    | intro _
    | with_reducible apply keeps_modFollow
    | with_reducible apply keeps_decideFor
    | with_reducible apply keeps_shadows
    | with_reducible apply keeps_bring
    | with_reducible apply keeps_closeFanWins
    | with_reducible apply keeps_trimFanWins
    | with_reducible apply keeps_fanProbes
    | with_reducible apply keeps_assignEst
    | with_reducible apply keeps_moveDelay
    | with_reducible apply keeps_scoreFor
    | with_reducible apply keeps_signalAll
    | with_reducible apply Keeps.fold
    | with_reducible apply Keeps.ite
    | dsimp only
    | split
    | fail_if_no_progress with_reducible refine Keeps.same ?_ rfl rfl
    | fail_if_no_progress with_reducible refine Keeps.more ?_ rfl (Nat.le_add_right _ _) rfl

theorem keeps_fn_execFanScoreTick {s0 s : State} (h : Keeps s0 s) (pace : List Nat) : OKeeps s0 (execFanScoreTick pace s) := by
  unfold execFanScoreTick
  repeat' first
    | with_reducible assumption
    | intro _
    | with_reducible apply OKeeps.of
    | with_reducible apply keeps_fanOff
    | with_reducible apply keeps_adoptPolicy
    | with_reducible apply keeps_fanTick
    | with_reducible apply Keeps.fold
    | with_reducible apply Keeps.ite
    | with_reducible apply OKeeps.ite
    | dsimp only
    | split
    | fail_if_no_progress with_reducible refine Keeps.same ?_ rfl rfl
    | fail_if_no_progress with_reducible refine Keeps.more ?_ rfl (Nat.le_add_right _ _) rfl

theorem keeps_fn_execFanHoldBadExpiry {s0 s : State} (h : Keeps s0 s) (ctx : Fin 256) : OKeeps s0 (execFanHoldBadExpiry ctx s) := by
  unfold execFanHoldBadExpiry
  repeat' first
    | with_reducible assumption
    | intro _
    | with_reducible apply OKeeps.of
    | with_reducible apply keeps_modFollow
    | with_reducible apply keeps_loseIncoming
    | with_reducible apply Keeps.fold
    | with_reducible apply Keeps.ite
    | with_reducible apply OKeeps.ite
    | dsimp only
    | split
    | fail_if_no_progress with_reducible refine Keeps.same ?_ rfl rfl
    | fail_if_no_progress with_reducible refine Keeps.more ?_ rfl (Nat.le_add_right _ _) rfl

theorem keeps_fn_execFanDwellGoodExpiry {s0 s : State} (h : Keeps s0 s) (ctx : Fin 256) (ix : Fin 32) : OKeeps s0 (execFanDwellGoodExpiry ctx ix s) := by
  unfold execFanDwellGoodExpiry
  repeat' first
    | with_reducible assumption
    | intro _
    | with_reducible apply OKeeps.of
    | with_reducible apply keeps_modFollow
    | with_reducible apply keeps_improve
    | with_reducible apply Keeps.fold
    | with_reducible apply Keeps.ite
    | with_reducible apply OKeeps.ite
    | dsimp only
    | split
    | fail_if_no_progress with_reducible refine Keeps.same ?_ rfl rfl
    | fail_if_no_progress with_reducible refine Keeps.more ?_ rfl (Nat.le_add_right _ _) rfl

theorem keeps_fn_execFanCandExpiry {s0 s : State} (h : Keeps s0 s) (ctx : Fin 256) (ix : Fin 32) : OKeeps s0 (execFanCandExpiry ctx ix s) := by
  unfold execFanCandExpiry
  repeat' first
    | with_reducible assumption
    | intro _
    | with_reducible apply OKeeps.of
    | with_reducible apply keeps_dropCand
    | with_reducible apply Keeps.fold
    | with_reducible apply Keeps.ite
    | with_reducible apply OKeeps.ite
    | dsimp only
    | split
    | fail_if_no_progress with_reducible refine Keeps.same ?_ rfl rfl
    | fail_if_no_progress with_reducible refine Keeps.more ?_ rfl (Nat.le_add_right _ _) rfl

theorem keeps_fn_execFanPiSeenExpiry {s0 s : State} (h : Keeps s0 s) (ctx : Fin 256) (ix : Fin 32) : OKeeps s0 (execFanPiSeenExpiry ctx ix s) := by
  unfold execFanPiSeenExpiry
  repeat' first
    | with_reducible assumption
    | intro _
    | with_reducible apply OKeeps.of
    | with_reducible apply keeps_modCand
    | with_reducible apply Keeps.fold
    | with_reducible apply Keeps.ite
    | with_reducible apply OKeeps.ite
    | dsimp only
    | split
    | fail_if_no_progress with_reducible refine Keeps.same ?_ rfl rfl
    | fail_if_no_progress with_reducible refine Keeps.more ?_ rfl (Nat.le_add_right _ _) rfl

theorem keeps_coarseTick {s0 s : State} (h : Keeps s0 s) (e : Fin 4) (f : Fin 256) (i : Nat) (k : Cand) (o : AlignObs) : Keeps s0 (State.coarseTick s e f i k o) := by
  unfold State.coarseTick
  repeat' first
    | with_reducible assumption
    | intro _
    | with_reducible apply keeps_modEst
    | with_reducible apply keeps_modCand
    | with_reducible apply keeps_placeShadow
    | with_reducible apply Keeps.fold
    | with_reducible apply Keeps.ite
    | dsimp only
    | split
    | fail_if_no_progress with_reducible refine Keeps.same ?_ rfl rfl
    | fail_if_no_progress with_reducible refine Keeps.more ?_ rfl (Nat.le_add_right _ _) rfl

theorem keeps_fineTick {s0 s : State} (h : Keeps s0 s) (e : Fin 4) (f : Fin 256) (i : Nat) (k : Cand) (o : AlignObs) : Keeps s0 (State.fineTick s e f i k o) := by
  unfold State.fineTick
  repeat' first
    | with_reducible assumption
    | intro _
    | with_reducible apply keeps_modEst
    | with_reducible apply keeps_alignEvent
    | with_reducible apply keeps_modCand
    | with_reducible apply keeps_placeShadow
    | with_reducible apply Keeps.fold
    | with_reducible apply Keeps.ite
    | dsimp only
    | split
    | fail_if_no_progress with_reducible refine Keeps.same ?_ rfl rfl
    | fail_if_no_progress with_reducible refine Keeps.more ?_ rfl (Nat.le_add_right _ _) rfl

theorem keeps_trackTick {s0 s : State} (h : Keeps s0 s) (e : Fin 4) (f : Fin 256) (i : Nat) (k : Cand) (o : AlignObs) : Keeps s0 (State.trackTick s e f i k o) := by
  unfold State.trackTick
  repeat' first
    | with_reducible assumption
    | intro _
    | with_reducible apply keeps_modEst
    | with_reducible apply keeps_modCand
    | with_reducible apply keeps_alignLost
    | with_reducible apply keeps_placeShadow
    | with_reducible apply Keeps.fold
    | with_reducible apply Keeps.ite
    | dsimp only
    | split
    | fail_if_no_progress with_reducible refine Keeps.same ?_ rfl rfl
    | fail_if_no_progress with_reducible refine Keeps.more ?_ rfl (Nat.le_add_right _ _) rfl

theorem keeps_fn_execAlignTick {s0 s : State} (h : Keeps s0 s) (e : Fin 4) (o : AlignObs) : OKeeps s0 (execAlignTick e o s) := by
  unfold execAlignTick
  repeat' first
    | with_reducible assumption
    | intro _
    | with_reducible apply OKeeps.of
    | with_reducible apply keeps_shadow
    | with_reducible apply keeps_coarseTick
    | with_reducible apply keeps_fineTick
    | with_reducible apply keeps_trackTick
    | with_reducible apply Keeps.fold
    | with_reducible apply Keeps.ite
    | with_reducible apply OKeeps.ite
    | dsimp only
    | split
    | fail_if_no_progress with_reducible refine Keeps.same ?_ rfl rfl
    | fail_if_no_progress with_reducible refine Keeps.more ?_ rfl (Nat.le_add_right _ _) rfl

theorem keeps_fn_execAlignCoarseCheck {s0 s : State} (h : Keeps s0 s) (e : Fin 4) (o : AlignObs) : OKeeps s0 (execAlignCoarseCheck e o s) := by
  unfold execAlignCoarseCheck
  repeat' first
    | with_reducible assumption
    | intro _
    | with_reducible apply OKeeps.of
    | with_reducible apply keeps_alignLost
    | with_reducible apply Keeps.fold
    | with_reducible apply Keeps.ite
    | with_reducible apply OKeeps.ite
    | dsimp only
    | split
    | fail_if_no_progress with_reducible refine Keeps.same ?_ rfl rfl
    | fail_if_no_progress with_reducible refine Keeps.more ?_ rfl (Nat.le_add_right _ _) rfl

theorem keeps_fn_execAlignTimeout {s0 s : State} (h : Keeps s0 s) (e : Fin 4) : OKeeps s0 (execAlignTimeout e s) := by
  unfold execAlignTimeout
  repeat' first
    | with_reducible assumption
    | intro _
    | with_reducible apply OKeeps.of
    | with_reducible apply keeps_modEst
    | with_reducible apply keeps_alignEvent
    | with_reducible apply keeps_modCand
    | with_reducible apply Keeps.fold
    | with_reducible apply Keeps.ite
    | with_reducible apply OKeeps.ite
    | dsimp only
    | split
    | fail_if_no_progress with_reducible refine Keeps.same ?_ rfl rfl
    | fail_if_no_progress with_reducible refine Keeps.more ?_ rfl (Nat.le_add_right _ _) rfl

theorem keeps_fn_execAlignRetry {s0 s : State} (h : Keeps s0 s) (ctx : Fin 256) (ix : Fin 32) : OKeeps s0 (execAlignRetry ctx ix s) := by
  unfold execAlignRetry
  repeat' first
    | with_reducible assumption
    | intro _
    | with_reducible apply OKeeps.of
    | with_reducible apply keeps_modCand
    | with_reducible apply keeps_assignEst
    | with_reducible apply Keeps.fold
    | with_reducible apply Keeps.ite
    | with_reducible apply OKeeps.ite
    | dsimp only
    | split
    | fail_if_no_progress with_reducible refine Keeps.same ?_ rfl rfl
    | fail_if_no_progress with_reducible refine Keeps.more ?_ rfl (Nat.le_add_right _ _) rfl

theorem keeps_fn_execShadowDelayFilled {s0 s : State} (h : Keeps s0 s) (ctx : Fin 256) (ix : Fin 32) : OKeeps s0 (execShadowDelayFilled ctx ix s) := by
  unfold execShadowDelayFilled
  repeat' first
    | with_reducible assumption
    | intro _
    | with_reducible apply OKeeps.of
    | with_reducible apply keeps_shadow
    | with_reducible apply keeps_modCand
    | with_reducible apply Keeps.fold
    | with_reducible apply Keeps.ite
    | with_reducible apply OKeeps.ite
    | dsimp only
    | split
    | fail_if_no_progress with_reducible refine Keeps.same ?_ rfl rfl
    | fail_if_no_progress with_reducible refine Keeps.more ?_ rfl (Nat.le_add_right _ _) rfl

theorem keeps_gapInBlend {s0 s : State} (h : Keeps s0 s) (f : Fin 256) (b : Blend) (incoming : Bool) (atOutput : Bool) : Keeps s0 (State.gapInBlend s f b incoming atOutput) := by
  unfold State.gapInBlend
  repeat' first
    | with_reducible assumption
    | intro _
    | with_reducible apply keeps_modFollow
    | with_reducible apply keeps_loseIncoming
    | with_reducible apply Keeps.fold
    | with_reducible apply Keeps.ite
    | dsimp only
    | split
    | fail_if_no_progress with_reducible refine Keeps.same ?_ rfl rfl
    | fail_if_no_progress with_reducible refine Keeps.more ?_ rfl (Nat.le_add_right _ _) rfl

theorem keeps_gapSwitch {s0 s : State} (h : Keeps s0 s) (f : Fin 256) (i : Nat) (ms : Nat) : Keeps s0 (State.gapSwitch s f i ms) := by
  unfold State.gapSwitch
  repeat' first
    | with_reducible assumption
    | intro _
    | with_reducible apply keeps_modFollow
    | with_reducible apply keeps_startSwitch
    | with_reducible apply Keeps.fold
    | with_reducible apply Keeps.ite
    | dsimp only
    | split
    | fail_if_no_progress with_reducible refine Keeps.same ?_ rfl rfl
    | fail_if_no_progress with_reducible refine Keeps.more ?_ rfl (Nat.le_add_right _ _) rfl

theorem keeps_fn_execFanGap {s0 s : State} (h : Keeps s0 s) (ctx : Fin 256) (incoming : Bool) (atOutput : Bool) : OKeeps s0 (execFanGap ctx incoming atOutput s) := by
  unfold execFanGap
  repeat' first
    | with_reducible assumption
    | intro _
    | with_reducible apply OKeeps.of
    | with_reducible apply keeps_modFollow
    | with_reducible apply keeps_gapInBlend
    | with_reducible apply keeps_gapSwitch
    | with_reducible apply Keeps.fold
    | with_reducible apply Keeps.ite
    | with_reducible apply OKeeps.ite
    | dsimp only
    | split
    | fail_if_no_progress with_reducible refine Keeps.same ?_ rfl rfl
    | fail_if_no_progress with_reducible refine Keeps.more ?_ rfl (Nat.le_add_right _ _) rfl

theorem keeps_switchEnds {s0 s : State} (h : Keeps s0 s) (f : Fin 256) (dip : Bool) : Keeps s0 (State.switchEnds s f dip) := by
  unfold State.switchEnds
  repeat' first
    | with_reducible assumption
    | intro _
    | with_reducible apply keeps_endSwitch
    | with_reducible apply keeps_fanOff
    | with_reducible apply Keeps.fold
    | with_reducible apply Keeps.ite
    | dsimp only
    | split
    | fail_if_no_progress with_reducible refine Keeps.same ?_ rfl rfl
    | fail_if_no_progress with_reducible refine Keeps.more ?_ rfl (Nat.le_add_right _ _) rfl

theorem keeps_fn_execBlendEnd {s0 s : State} (h : Keeps s0 s) (ctx : Fin 256) : OKeeps s0 (execBlendEnd ctx s) := by
  unfold execBlendEnd
  repeat' first
    | with_reducible assumption
    | intro _
    | with_reducible apply OKeeps.of
    | with_reducible apply keeps_switchEnds
    | with_reducible apply Keeps.fold
    | with_reducible apply Keeps.ite
    | with_reducible apply OKeeps.ite
    | dsimp only
    | split
    | fail_if_no_progress with_reducible refine Keeps.same ?_ rfl rfl
    | fail_if_no_progress with_reducible refine Keeps.more ?_ rfl (Nat.le_add_right _ _) rfl

theorem keeps_fn_execDipEnd {s0 s : State} (h : Keeps s0 s) (ctx : Fin 256) : OKeeps s0 (execDipEnd ctx s) := by
  unfold execDipEnd
  repeat' first
    | with_reducible assumption
    | intro _
    | with_reducible apply OKeeps.of
    | with_reducible apply keeps_switchEnds
    | with_reducible apply Keeps.fold
    | with_reducible apply Keeps.ite
    | with_reducible apply OKeeps.ite
    | dsimp only
    | split
    | fail_if_no_progress with_reducible refine Keeps.same ?_ rfl rfl
    | fail_if_no_progress with_reducible refine Keeps.more ?_ rfl (Nat.le_add_right _ _) rfl

end Sys2Proof.Laws
end

