-- ==== Sys2Proof/Laws/KeepsAudio.lean ====
section
/-!
SUPPORT. The operations and meanings of Machine/Audio.lean respect the relation of Keeps.lean.
-/

namespace Sys2Proof.Laws

open Sys2Proof Sys2Proof.Machine

set_option linter.unusedTactic false
set_option linter.unreachableTactic false
set_option linter.unusedVariables false

theorem keeps_fn_bodyAudPort {s0 s : State} (h : Keeps s0 s) (c : CmdEntry) : AKeeps s0 (bodyAudPort c s) := by
  unfold bodyAudPort
  repeat' first
    | with_reducible assumption
    | intro _
    | with_reducible apply AKeeps.checked
    | with_reducible apply AKeeps.ok
    | with_reducible apply AKeeps.part
    | with_reducible apply AKeeps.fail
    | with_reducible apply AKeeps.wait
    | with_reducible apply AKeeps.done
    | with_reducible apply keeps_modPort
    | with_reducible apply keeps_fn_Answer_done
    | with_reducible apply Keeps.fold
    | with_reducible apply Keeps.ite
    | with_reducible apply AKeeps.ite
    | dsimp only
    | split
    | fail_if_no_progress with_reducible refine Keeps.same ?_ rfl rfl
    | fail_if_no_progress with_reducible refine Keeps.more ?_ rfl (Nat.le_add_right _ _) rfl

theorem keeps_fn_execAudPort {s0 s : State} (h : Keeps s0 s) (c : CmdEntry) : OKeeps s0 (execAudPort c s) := by
  unfold execAudPort
  repeat' first
    | with_reducible assumption
    | intro _
    | with_reducible apply keeps_runCmd
    | with_reducible apply OKeeps.of
    | with_reducible apply keeps_runCmd
    | with_reducible apply keeps_fn_bodyAudPort
    | with_reducible apply Keeps.fold
    | with_reducible apply Keeps.ite
    | with_reducible apply OKeeps.ite
    | dsimp only
    | split
    | fail_if_no_progress with_reducible refine Keeps.same ?_ rfl rfl
    | fail_if_no_progress with_reducible refine Keeps.more ?_ rfl (Nat.le_add_right _ _) rfl

theorem keeps_fn_bodyAudSlotmap {s0 s : State} (h : Keeps s0 s) (c : CmdEntry) : AKeeps s0 (bodyAudSlotmap c s) := by
  unfold bodyAudSlotmap
  repeat' first
    | with_reducible assumption
    | intro _
    | with_reducible apply AKeeps.checked
    | with_reducible apply AKeeps.ok
    | with_reducible apply AKeeps.part
    | with_reducible apply AKeeps.fail
    | with_reducible apply AKeeps.wait
    | with_reducible apply AKeeps.done
    | with_reducible apply keeps_modPort
    | with_reducible apply keeps_fn_Answer_done
    | with_reducible apply Keeps.fold
    | with_reducible apply Keeps.ite
    | with_reducible apply AKeeps.ite
    | dsimp only
    | split
    | fail_if_no_progress with_reducible refine Keeps.same ?_ rfl rfl
    | fail_if_no_progress with_reducible refine Keeps.more ?_ rfl (Nat.le_add_right _ _) rfl

theorem keeps_fn_execAudSlotmap {s0 s : State} (h : Keeps s0 s) (c : CmdEntry) : OKeeps s0 (execAudSlotmap c s) := by
  unfold execAudSlotmap
  repeat' first
    | with_reducible assumption
    | intro _
    | with_reducible apply keeps_runCmd
    | with_reducible apply OKeeps.of
    | with_reducible apply keeps_runCmd
    | with_reducible apply keeps_fn_bodyAudSlotmap
    | with_reducible apply Keeps.fold
    | with_reducible apply Keeps.ite
    | with_reducible apply OKeeps.ite
    | dsimp only
    | split
    | fail_if_no_progress with_reducible refine Keeps.same ?_ rfl rfl
    | fail_if_no_progress with_reducible refine Keeps.more ?_ rfl (Nat.le_add_right _ _) rfl

theorem keeps_fn_bodyAudMask {s0 s : State} (h : Keeps s0 s) (c : CmdEntry) : AKeeps s0 (bodyAudMask c s) := by
  unfold bodyAudMask
  repeat' first
    | with_reducible assumption
    | intro _
    | with_reducible apply AKeeps.checked
    | with_reducible apply AKeeps.ok
    | with_reducible apply AKeeps.part
    | with_reducible apply AKeeps.fail
    | with_reducible apply AKeeps.wait
    | with_reducible apply AKeeps.done
    | with_reducible apply keeps_modPort
    | with_reducible apply keeps_fn_Answer_done
    | with_reducible apply Keeps.fold
    | with_reducible apply Keeps.ite
    | with_reducible apply AKeeps.ite
    | dsimp only
    | split
    | fail_if_no_progress with_reducible refine Keeps.same ?_ rfl rfl
    | fail_if_no_progress with_reducible refine Keeps.more ?_ rfl (Nat.le_add_right _ _) rfl

theorem keeps_fn_execAudMask {s0 s : State} (h : Keeps s0 s) (c : CmdEntry) : OKeeps s0 (execAudMask c s) := by
  unfold execAudMask
  repeat' first
    | with_reducible assumption
    | intro _
    | with_reducible apply keeps_runCmd
    | with_reducible apply OKeeps.of
    | with_reducible apply keeps_runCmd
    | with_reducible apply keeps_fn_bodyAudMask
    | with_reducible apply Keeps.fold
    | with_reducible apply Keeps.ite
    | with_reducible apply OKeeps.ite
    | dsimp only
    | split
    | fail_if_no_progress with_reducible refine Keeps.same ?_ rfl rfl
    | fail_if_no_progress with_reducible refine Keeps.more ?_ rfl (Nat.le_add_right _ _) rfl

theorem keeps_fn_bodyAudStart {s0 s : State} (h : Keeps s0 s) (c : CmdEntry) : AKeeps s0 (bodyAudStart c s) := by
  unfold bodyAudStart
  repeat' first
    | with_reducible assumption
    | intro _
    | with_reducible apply AKeeps.checked
    | with_reducible apply AKeeps.ok
    | with_reducible apply AKeeps.part
    | with_reducible apply AKeeps.fail
    | with_reducible apply AKeeps.wait
    | with_reducible apply AKeeps.done
    | with_reducible apply keeps_modPort
    | with_reducible apply keeps_fn_Answer_done
    | with_reducible apply Keeps.fold
    | with_reducible apply Keeps.ite
    | with_reducible apply AKeeps.ite
    | dsimp only
    | split
    | fail_if_no_progress with_reducible refine Keeps.same ?_ rfl rfl
    | fail_if_no_progress with_reducible refine Keeps.more ?_ rfl (Nat.le_add_right _ _) rfl

theorem keeps_fn_execAudStart {s0 s : State} (h : Keeps s0 s) (c : CmdEntry) : OKeeps s0 (execAudStart c s) := by
  unfold execAudStart
  repeat' first
    | with_reducible assumption
    | intro _
    | with_reducible apply keeps_runCmd
    | with_reducible apply OKeeps.of
    | with_reducible apply keeps_runCmd
    | with_reducible apply keeps_fn_bodyAudStart
    | with_reducible apply Keeps.fold
    | with_reducible apply Keeps.ite
    | with_reducible apply OKeeps.ite
    | dsimp only
    | split
    | fail_if_no_progress with_reducible refine Keeps.same ?_ rfl rfl
    | fail_if_no_progress with_reducible refine Keeps.more ?_ rfl (Nat.le_add_right _ _) rfl

theorem keeps_fn_bodyAudQueue {s0 s : State} (h : Keeps s0 s) (c : CmdEntry) : AKeeps s0 (bodyAudQueue c s) := by
  unfold bodyAudQueue
  repeat' first
    | with_reducible assumption
    | intro _
    | with_reducible apply AKeeps.checked
    | with_reducible apply AKeeps.ok
    | with_reducible apply AKeeps.part
    | with_reducible apply AKeeps.fail
    | with_reducible apply AKeeps.wait
    | with_reducible apply AKeeps.done
    | with_reducible apply keeps_modQueue
    | with_reducible apply keeps_fn_Answer_done
    | with_reducible apply keeps_gpFree
    | with_reducible apply Keeps.fold
    | with_reducible apply Keeps.ite
    | with_reducible apply AKeeps.ite
    | dsimp only
    | split
    | fail_if_no_progress with_reducible refine Keeps.same ?_ rfl rfl
    | fail_if_no_progress with_reducible refine Keeps.more ?_ rfl (Nat.le_add_right _ _) rfl

theorem keeps_fn_execAudQueue {s0 s : State} (h : Keeps s0 s) (c : CmdEntry) : OKeeps s0 (execAudQueue c s) := by
  unfold execAudQueue
  repeat' first
    | with_reducible assumption
    | intro _
    | with_reducible apply keeps_runCmd
    | with_reducible apply OKeeps.of
    | with_reducible apply keeps_runCmd
    | with_reducible apply keeps_fn_bodyAudQueue
    | with_reducible apply Keeps.fold
    | with_reducible apply Keeps.ite
    | with_reducible apply OKeeps.ite
    | dsimp only
    | split
    | fail_if_no_progress with_reducible refine Keeps.same ?_ rfl rfl
    | fail_if_no_progress with_reducible refine Keeps.more ?_ rfl (Nat.le_add_right _ _) rfl

theorem keeps_fn_bodyAudPdm {s0 s : State} (h : Keeps s0 s) (c : CmdEntry) : AKeeps s0 (bodyAudPdm c s) := by
  unfold bodyAudPdm
  repeat' first
    | with_reducible assumption
    | intro _
    | with_reducible apply AKeeps.checked
    | with_reducible apply AKeeps.ok
    | with_reducible apply AKeeps.part
    | with_reducible apply AKeeps.fail
    | with_reducible apply AKeeps.wait
    | with_reducible apply AKeeps.done
    | with_reducible apply keeps_fn_Answer_done
    | with_reducible apply Keeps.fold
    | with_reducible apply Keeps.ite
    | with_reducible apply AKeeps.ite
    | dsimp only
    | split
    | fail_if_no_progress with_reducible refine Keeps.same ?_ rfl rfl
    | fail_if_no_progress with_reducible refine Keeps.more ?_ rfl (Nat.le_add_right _ _) rfl

theorem keeps_fn_execAudPdm {s0 s : State} (h : Keeps s0 s) (c : CmdEntry) : OKeeps s0 (execAudPdm c s) := by
  unfold execAudPdm
  repeat' first
    | with_reducible assumption
    | intro _
    | with_reducible apply keeps_runCmd
    | with_reducible apply OKeeps.of
    | with_reducible apply keeps_runCmd
    | with_reducible apply keeps_fn_bodyAudPdm
    | with_reducible apply Keeps.fold
    | with_reducible apply Keeps.ite
    | with_reducible apply OKeeps.ite
    | dsimp only
    | split
    | fail_if_no_progress with_reducible refine Keeps.same ?_ rfl rfl
    | fail_if_no_progress with_reducible refine Keeps.more ?_ rfl (Nat.le_add_right _ _) rfl

theorem keeps_fn_bodyAudStream {s0 s : State} (h : Keeps s0 s) (c : CmdEntry) : AKeeps s0 (bodyAudStream c s) := by
  unfold bodyAudStream
  repeat' first
    | with_reducible assumption
    | intro _
    | with_reducible apply AKeeps.checked
    | with_reducible apply AKeeps.ok
    | with_reducible apply AKeeps.part
    | with_reducible apply AKeeps.fail
    | with_reducible apply AKeeps.wait
    | with_reducible apply AKeeps.done
    | with_reducible apply keeps_modStream
    | with_reducible apply keeps_fn_Answer_done
    | with_reducible apply Keeps.fold
    | with_reducible apply Keeps.ite
    | with_reducible apply AKeeps.ite
    | dsimp only
    | split
    | fail_if_no_progress with_reducible refine Keeps.same ?_ rfl rfl
    | fail_if_no_progress with_reducible refine Keeps.more ?_ rfl (Nat.le_add_right _ _) rfl

theorem keeps_fn_execAudStream {s0 s : State} (h : Keeps s0 s) (c : CmdEntry) : OKeeps s0 (execAudStream c s) := by
  unfold execAudStream
  repeat' first
    | with_reducible assumption
    | intro _
    | with_reducible apply keeps_runCmd
    | with_reducible apply OKeeps.of
    | with_reducible apply keeps_runCmd
    | with_reducible apply keeps_fn_bodyAudStream
    | with_reducible apply Keeps.fold
    | with_reducible apply Keeps.ite
    | with_reducible apply OKeeps.ite
    | dsimp only
    | split
    | fail_if_no_progress with_reducible refine Keeps.same ?_ rfl rfl
    | fail_if_no_progress with_reducible refine Keeps.more ?_ rfl (Nat.le_add_right _ _) rfl

theorem keeps_playFrame {s0 s : State} (h : Keeps s0 s) (q : Fin 12) : Keeps s0 (State.playFrame s q) := by
  unfold State.playFrame
  repeat' first
    | with_reducible assumption
    | intro _
    | with_reducible apply keeps_modQueue
    | with_reducible apply keeps_evlPulse
    | with_reducible apply Keeps.fold
    | with_reducible apply Keeps.ite
    | dsimp only
    | split
    | fail_if_no_progress with_reducible refine Keeps.same ?_ rfl rfl
    | fail_if_no_progress with_reducible refine Keeps.more ?_ rfl (Nat.le_add_right _ _) rfl

theorem keeps_closeBlock {s0 s : State} (h : Keeps s0 s) (q : Fin 12) : Keeps s0 (State.closeBlock s q) := by
  unfold State.closeBlock
  repeat' first
    | with_reducible assumption
    | intro _
    | with_reducible apply keeps_modQueue
    | with_reducible apply keeps_store
    | with_reducible apply keeps_evlPulse
    | with_reducible apply Keeps.fold
    | with_reducible apply Keeps.ite
    | dsimp only
    | split
    | fail_if_no_progress with_reducible refine Keeps.same ?_ rfl rfl
    | fail_if_no_progress with_reducible refine Keeps.more ?_ rfl (Nat.le_add_right _ _) rfl

theorem keeps_blockFlag {s0 s : State} (h : Keeps s0 s) (q : Fin 12) (b : Nat) : Keeps s0 (State.blockFlag s q b) := by
  unfold State.blockFlag
  repeat' first
    | with_reducible assumption
    | intro _
    | with_reducible apply keeps_modQueue
    | with_reducible apply Keeps.fold
    | with_reducible apply Keeps.ite
    | dsimp only
    | split
    | fail_if_no_progress with_reducible refine Keeps.same ?_ rfl rfl
    | fail_if_no_progress with_reducible refine Keeps.more ?_ rfl (Nat.le_add_right _ _) rfl

theorem keeps_shortBlock {s0 s : State} (h : Keeps s0 s) (q : Fin 12) : Keeps s0 (State.shortBlock s q) := by
  unfold State.shortBlock
  repeat' first
    | with_reducible assumption
    | intro _
    | with_reducible apply keeps_closeBlock
    | with_reducible apply keeps_blockFlag
    | with_reducible apply Keeps.fold
    | with_reducible apply Keeps.ite
    | dsimp only
    | split
    | fail_if_no_progress with_reducible refine Keeps.same ?_ rfl rfl
    | fail_if_no_progress with_reducible refine Keeps.more ?_ rfl (Nat.le_add_right _ _) rfl

theorem keeps_discardFrame {s0 s : State} (h : Keeps s0 s) (q : Fin 12) : Keeps s0 (State.discardFrame s q) := by
  unfold State.discardFrame
  repeat' first
    | with_reducible assumption
    | intro _
    | with_reducible apply keeps_modQueue
    | with_reducible apply keeps_bump
    | with_reducible apply Keeps.fold
    | with_reducible apply Keeps.ite
    | dsimp only
    | split
    | fail_if_no_progress with_reducible refine Keeps.same ?_ rfl rfl
    | fail_if_no_progress with_reducible refine Keeps.more ?_ rfl (Nat.le_add_right _ _) rfl

theorem keeps_capFrame {s0 s : State} (h : Keeps s0 s) (q : Fin 12) (mask : BitVec 16) (ws : List W) : Keeps s0 (State.capFrame s q mask ws) := by
  unfold State.capFrame
  repeat' first
    | with_reducible assumption
    | intro _
    | with_reducible apply keeps_modQueue
    | with_reducible apply keeps_store
    | with_reducible apply keeps_closeBlock
    | with_reducible apply keeps_blockFlag
    | with_reducible apply keeps_shortBlock
    | with_reducible apply keeps_discardFrame
    | with_reducible apply Keeps.fold
    | with_reducible apply Keeps.ite
    | dsimp only
    | split
    | fail_if_no_progress with_reducible refine Keeps.same ?_ rfl rfl
    | fail_if_no_progress with_reducible refine Keeps.more ?_ rfl (Nat.le_add_right _ _) rfl

theorem keeps_capSlip {s0 s : State} (h : Keeps s0 s) (q : Fin 12) (slip : Option Bool) (mask : BitVec 16) (ws : List W) : Keeps s0 (State.capSlip s q slip mask ws) := by
  unfold State.capSlip
  repeat' first
    | with_reducible assumption
    | intro _
    | with_reducible apply keeps_blockFlag
    | with_reducible apply keeps_capFrame
    | with_reducible apply Keeps.fold
    | with_reducible apply Keeps.ite
    | dsimp only
    | split
    | fail_if_no_progress with_reducible refine Keeps.same ?_ rfl rfl
    | fail_if_no_progress with_reducible refine Keeps.more ?_ rfl (Nat.le_add_right _ _) rfl

theorem keeps_maskBoundary {s0 s : State} (h : Keeps s0 s) (n : Fin 4) : Keeps s0 (State.maskBoundary s n) := by
  unfold State.maskBoundary
  repeat' first
    | with_reducible assumption
    | intro _
    | with_reducible apply keeps_modPort
    | with_reducible apply keeps_finishSlot
    | with_reducible apply Keeps.fold
    | with_reducible apply Keeps.ite
    | dsimp only
    | split
    | fail_if_no_progress with_reducible refine Keeps.same ?_ rfl rfl
    | fail_if_no_progress with_reducible refine Keeps.more ?_ rfl (Nat.le_add_right _ _) rfl

theorem keeps_mapBoundary {s0 s : State} (h : Keeps s0 s) (n : Fin 4) : Keeps s0 (State.mapBoundary s n) := by
  unfold State.mapBoundary
  repeat' first
    | with_reducible assumption
    | intro _
    | with_reducible apply keeps_modPort
    | with_reducible apply keeps_finishSlot
    | with_reducible apply Keeps.fold
    | with_reducible apply Keeps.ite
    | dsimp only
    | split
    | fail_if_no_progress with_reducible refine Keeps.same ?_ rfl rfl
    | fail_if_no_progress with_reducible refine Keeps.more ?_ rfl (Nat.le_add_right _ _) rfl

theorem keeps_portBoundary {s0 s : State} (h : Keeps s0 s) (n : Fin 4) : Keeps s0 (State.portBoundary s n) := by
  unfold State.portBoundary
  repeat' first
    | with_reducible assumption
    | intro _
    | with_reducible apply keeps_modPort
    | with_reducible apply keeps_maskBoundary
    | with_reducible apply keeps_mapBoundary
    | with_reducible apply Keeps.fold
    | with_reducible apply Keeps.ite
    | dsimp only
    | split
    | fail_if_no_progress with_reducible refine Keeps.same ?_ rfl rfl
    | fail_if_no_progress with_reducible refine Keeps.more ?_ rfl (Nat.le_add_right _ _) rfl

theorem keeps_pdmBoundary {s0 s : State} (h : Keeps s0 s) : Keeps s0 (State.pdmBoundary s) := by
  unfold State.pdmBoundary
  repeat' first
    | with_reducible assumption
    | intro _
    | with_reducible apply Keeps.fold
    | with_reducible apply Keeps.ite
    | dsimp only
    | split
    | fail_if_no_progress with_reducible refine Keeps.same ?_ rfl rfl
    | fail_if_no_progress with_reducible refine Keeps.more ?_ rfl (Nat.le_add_right _ _) rfl

theorem keeps_bclkCheck {s0 s : State} (h : Keeps s0 s) (n : Fin 4) (f : ExtFrame) : Keeps s0 (State.bclkCheck s n f) := by
  unfold State.bclkCheck
  repeat' first
    | with_reducible assumption
    | intro _
    | with_reducible apply keeps_modPort
    | with_reducible apply keeps_bump
    | with_reducible apply keeps_setFlag
    | with_reducible apply Keeps.fold
    | with_reducible apply Keeps.ite
    | dsimp only
    | split
    | fail_if_no_progress with_reducible refine Keeps.same ?_ rfl rfl
    | fail_if_no_progress with_reducible refine Keeps.more ?_ rfl (Nat.le_add_right _ _) rfl

theorem keeps_capOut {s0 s : State} (h : Keeps s0 s) (q : Fin 12) (slip : Option Bool) (mask : BitVec 16) (n : Nat) (rx : RxFrame) : Keeps s0 (State.capOut s q slip mask n rx) := by
  unfold State.capOut
  repeat' first
    | with_reducible assumption
    | intro _
    | with_reducible apply keeps_blockFlag
    | with_reducible apply keeps_capFrame
    | with_reducible apply keeps_capSlip
    | with_reducible apply Keeps.fold
    | with_reducible apply Keeps.ite
    | dsimp only
    | split
    | fail_if_no_progress with_reducible refine Keeps.same ?_ rfl rfl
    | fail_if_no_progress with_reducible refine Keeps.more ?_ rfl (Nat.le_add_right _ _) rfl

theorem keeps_groupFrame {s0 s : State} (h : Keeps s0 s) (outs : Vector (W × W) 32) (mics : Vector W 8) (g : Fin 5) : Keeps s0 (State.groupFrame s outs mics g) := by
  unfold State.groupFrame
  repeat' first
    | with_reducible assumption
    | intro _
    | with_reducible apply keeps_modGroup
    | with_reducible apply keeps_capOut
    | with_reducible apply Keeps.fold
    | with_reducible apply Keeps.ite
    | dsimp only
    | split
    | fail_if_no_progress with_reducible refine Keeps.same ?_ rfl rfl
    | fail_if_no_progress with_reducible refine Keeps.more ?_ rfl (Nat.le_add_right _ _) rfl

theorem keeps_portFrame {s0 s : State} (h : Keeps s0 s) (n : Fin 4) : Keeps s0 (State.portFrame s n) := by
  unfold State.portFrame
  repeat' first
    | with_reducible assumption
    | intro _
    | with_reducible apply keeps_modPort
    | with_reducible apply keeps_playFrame
    | with_reducible apply keeps_blockFlag
    | with_reducible apply keeps_capFrame
    | with_reducible apply Keeps.fold
    | with_reducible apply Keeps.ite
    | dsimp only
    | split
    | fail_if_no_progress with_reducible refine Keeps.same ?_ rfl rfl
    | fail_if_no_progress with_reducible refine Keeps.more ?_ rfl (Nat.le_add_right _ _) rfl

theorem keeps_micFrame {s0 s : State} (h : Keeps s0 s) : Keeps s0 (State.micFrame s).1 := by
  unfold State.micFrame
  dsimp only
  split
  · split
    · exact keeps_modGroup h _ _
    · exact keeps_capOut (Keeps.ite (keeps_blockFlag (keeps_modGroup h _ _) _ _) (keeps_modGroup h _ _)) _ _ _ _ _
  · split
    · exact keeps_capFrame (keeps_blockFlag h _ _) _ _ _
    · exact h

theorem keeps_pinFrame {s0 s : State} (h : Keeps s0 s) (g : Fin 5) (o : AudFrameObs) (i : Nat) : Keeps s0 (State.pinFrame s g o i) := by
  unfold State.pinFrame
  repeat' first
    | with_reducible assumption
    | intro _
    | with_reducible apply keeps_modGroup
    | with_reducible apply Keeps.fold
    | with_reducible apply Keeps.ite
    | dsimp only
    | split
    | fail_if_no_progress with_reducible refine Keeps.same ?_ rfl rfl
    | fail_if_no_progress with_reducible refine Keeps.more ?_ rfl (Nat.le_add_right _ _) rfl

theorem keeps_pinFrames {s0 s : State} (h : Keeps s0 s) (o : AudFrameObs) (g : Fin 5) : Keeps s0 (State.pinFrames s o g) := by
  unfold State.pinFrames
  repeat' first
    | with_reducible assumption
    | intro _
    | with_reducible apply keeps_modGroup
    | with_reducible apply keeps_pinFrame
    | with_reducible apply Keeps.fold
    | with_reducible apply Keeps.ite
    | dsimp only
    | split
    | fail_if_no_progress with_reducible refine Keeps.same ?_ rfl rfl
    | fail_if_no_progress with_reducible refine Keeps.more ?_ rfl (Nat.le_add_right _ _) rfl

theorem keeps_fn_execAudFrame {s0 s : State} (h : Keeps s0 s) (o : AudFrameObs) : OKeeps s0 (execAudFrame o s) := by
  unfold execAudFrame
  extract_lets s1 s2 b3 s3 outs r s4 s5 s6
  have h1 : Keeps s0 s1 := keeps_pdmBoundary (Keeps.fold _ _ h fun t n k => keeps_portBoundary k n)
  have h2 : Keeps s0 s2 := Keeps.fold _ _ h1 fun t n k => Keeps.fold _ _ k fun u f j => keeps_bclkCheck j n f
  have h3 : Keeps s0 s3 := Keeps.same h2 rfl rfl
  have h4 : Keeps s0 s4 := Keeps.fold _ _ (keeps_micFrame h3) fun t g k => keeps_groupFrame k _ _ g
  have h5 : Keeps s0 s5 := Keeps.fold _ _ h4 fun t n k => keeps_portFrame k n
  have h6 : Keeps s0 s6 := Keeps.fold _ _ h5 fun t g k => keeps_pinFrames k o g
  clear_value s6
  exact OKeeps.of (Keeps.same h6 rfl rfl)

theorem keeps_fn_execSlipExecute {s0 s : State} (h : Keeps s0 s) (g : Fin 5) : OKeeps s0 (execSlipExecute g s) := by
  unfold execSlipExecute
  repeat' first
    | with_reducible assumption
    | intro _
    | with_reducible apply OKeeps.of
    | with_reducible apply keeps_modGroup
    | with_reducible apply keeps_bump
    | with_reducible apply keeps_raiseLimited
    | with_reducible apply keeps_setFlag
    | with_reducible apply Keeps.fold
    | with_reducible apply Keeps.ite
    | with_reducible apply OKeeps.ite
    | dsimp only
    | split
    | fail_if_no_progress with_reducible refine Keeps.same ?_ rfl rfl
    | fail_if_no_progress with_reducible refine Keeps.more ?_ rfl (Nat.le_add_right _ _) rfl

theorem keeps_clockEvent {s0 s : State} (h : Keeps s0 s) (g : Fin 5) (code : Nat) (cause : Nat) : Keeps s0 (State.clockEvent s g code cause) := by
  unfold State.clockEvent
  repeat' first
    | with_reducible assumption
    | intro _
    | with_reducible apply keeps_raise
    | with_reducible apply Keeps.fold
    | with_reducible apply Keeps.ite
    | dsimp only
    | split
    | fail_if_no_progress with_reducible refine Keeps.same ?_ rfl rfl
    | fail_if_no_progress with_reducible refine Keeps.more ?_ rfl (Nat.le_add_right _ _) rfl

theorem keeps_groupClockLost {s0 s : State} (h : Keeps s0 s) (g : Fin 5) (cause : Nat) : Keeps s0 (State.groupClockLost s g cause) := by
  unfold State.groupClockLost
  repeat' first
    | with_reducible assumption
    | intro _
    | with_reducible apply keeps_modPort
    | with_reducible apply keeps_modGroup
    | with_reducible apply keeps_setFlag
    | with_reducible apply keeps_clockEvent
    | with_reducible apply Keeps.fold
    | with_reducible apply Keeps.ite
    | dsimp only
    | split
    | fail_if_no_progress with_reducible refine Keeps.same ?_ rfl rfl
    | fail_if_no_progress with_reducible refine Keeps.more ?_ rfl (Nat.le_add_right _ _) rfl

theorem keeps_clockQualified {s0 s : State} (h : Keeps s0 s) (g : Fin 5) : Keeps s0 (State.clockQualified s g) := by
  unfold State.clockQualified
  repeat' first
    | with_reducible assumption
    | intro _
    | with_reducible apply keeps_modPort
    | with_reducible apply keeps_modGroup
    | with_reducible apply keeps_clockEvent
    | with_reducible apply Keeps.fold
    | with_reducible apply Keeps.ite
    | dsimp only
    | split
    | fail_if_no_progress with_reducible refine Keeps.same ?_ rfl rfl
    | fail_if_no_progress with_reducible refine Keeps.more ?_ rfl (Nat.le_add_right _ _) rfl

theorem keeps_fn_execAudClockMeasure {s0 s : State} (h : Keeps s0 s) (g : Fin 5) (ppm : Int) : OKeeps s0 (execAudClockMeasure g ppm s) := by
  unfold execAudClockMeasure
  repeat' first
    | with_reducible assumption
    | intro _
    | with_reducible apply OKeeps.of
    | with_reducible apply keeps_modGroup
    | with_reducible apply keeps_groupClockLost
    | with_reducible apply keeps_clockQualified
    | with_reducible apply Keeps.fold
    | with_reducible apply Keeps.ite
    | with_reducible apply OKeeps.ite
    | dsimp only
    | split
    | fail_if_no_progress with_reducible refine Keeps.same ?_ rfl rfl
    | fail_if_no_progress with_reducible refine Keeps.more ?_ rfl (Nat.le_add_right _ _) rfl

theorem keeps_fn_execAudClockLost {s0 s : State} (h : Keeps s0 s) (g : Fin 5) (cause : Fin 2) : OKeeps s0 (execAudClockLost g cause s) := by
  unfold execAudClockLost
  repeat' first
    | with_reducible assumption
    | intro _
    | with_reducible apply OKeeps.of
    | with_reducible apply keeps_groupClockLost
    | with_reducible apply Keeps.fold
    | with_reducible apply Keeps.ite
    | with_reducible apply OKeeps.ite
    | dsimp only
    | split
    | fail_if_no_progress with_reducible refine Keeps.same ?_ rfl rfl
    | fail_if_no_progress with_reducible refine Keeps.more ?_ rfl (Nat.le_add_right _ _) rfl

theorem keeps_fadeEvent {s0 s : State} (h : Keeps s0 s) (x : Nat) (code : Nat) (n : Nat) : Keeps s0 (State.fadeEvent s x code n) := by
  unfold State.fadeEvent
  repeat' first
    | with_reducible assumption
    | intro _
    | with_reducible apply keeps_raise
    | with_reducible apply Keeps.fold
    | with_reducible apply Keeps.ite
    | dsimp only
    | split
    | fail_if_no_progress with_reducible refine Keeps.same ?_ rfl rfl
    | fail_if_no_progress with_reducible refine Keeps.more ?_ rfl (Nat.le_add_right _ _) rfl

theorem keeps_fn_execStreamUnderrun {s0 s : State} (h : Keeps s0 s) (k : Fin 32) : OKeeps s0 (execStreamUnderrun k s) := by
  unfold execStreamUnderrun
  repeat' first
    | with_reducible assumption
    | intro _
    | with_reducible apply OKeeps.of
    | with_reducible apply keeps_modStream
    | with_reducible apply keeps_bump
    | with_reducible apply keeps_fadeEvent
    | with_reducible apply Keeps.fold
    | with_reducible apply Keeps.ite
    | with_reducible apply OKeeps.ite
    | dsimp only
    | split
    | fail_if_no_progress with_reducible refine Keeps.same ?_ rfl rfl
    | fail_if_no_progress with_reducible refine Keeps.more ?_ rfl (Nat.le_add_right _ _) rfl

theorem keeps_fn_execStreamResume {s0 s : State} (h : Keeps s0 s) (k : Fin 32) : OKeeps s0 (execStreamResume k s) := by
  unfold execStreamResume
  repeat' first
    | with_reducible assumption
    | intro _
    | with_reducible apply OKeeps.of
    | with_reducible apply keeps_modStream
    | with_reducible apply Keeps.fold
    | with_reducible apply Keeps.ite
    | with_reducible apply OKeeps.ite
    | dsimp only
    | split
    | fail_if_no_progress with_reducible refine Keeps.same ?_ rfl rfl
    | fail_if_no_progress with_reducible refine Keeps.more ?_ rfl (Nat.le_add_right _ _) rfl

theorem keeps_fn_execQueueXrun {s0 s : State} (h : Keeps s0 s) (q : Fin 12) : OKeeps s0 (execQueueXrun q s) := by
  unfold execQueueXrun
  repeat' first
    | with_reducible assumption
    | intro _
    | with_reducible apply OKeeps.of
    | with_reducible apply keeps_modQueue
    | with_reducible apply keeps_bump
    | with_reducible apply keeps_fadeEvent
    | with_reducible apply Keeps.fold
    | with_reducible apply Keeps.ite
    | with_reducible apply OKeeps.ite
    | dsimp only
    | split
    | fail_if_no_progress with_reducible refine Keeps.same ?_ rfl rfl
    | fail_if_no_progress with_reducible refine Keeps.more ?_ rfl (Nat.le_add_right _ _) rfl

theorem keeps_fn_execQueueResume {s0 s : State} (h : Keeps s0 s) (q : Fin 12) : OKeeps s0 (execQueueResume q s) := by
  unfold execQueueResume
  repeat' first
    | with_reducible assumption
    | intro _
    | with_reducible apply OKeeps.of
    | with_reducible apply keeps_modQueue
    | with_reducible apply keeps_blockFlag
    | with_reducible apply Keeps.fold
    | with_reducible apply Keeps.ite
    | with_reducible apply OKeeps.ite
    | dsimp only
    | split
    | fail_if_no_progress with_reducible refine Keeps.same ?_ rfl rfl
    | fail_if_no_progress with_reducible refine Keeps.more ?_ rfl (Nat.le_add_right _ _) rfl

theorem keeps_streamRamped {s0 s : State} (h : Keeps s0 s) (k : Fin 32) : Keeps s0 (State.streamRamped s k) := by
  unfold State.streamRamped
  repeat' first
    | with_reducible assumption
    | intro _
    | with_reducible apply keeps_modStream
    | with_reducible apply keeps_fadeEvent
    | with_reducible apply Keeps.fold
    | with_reducible apply Keeps.ite
    | dsimp only
    | split
    | fail_if_no_progress with_reducible refine Keeps.same ?_ rfl rfl
    | fail_if_no_progress with_reducible refine Keeps.more ?_ rfl (Nat.le_add_right _ _) rfl

theorem keeps_queueRamped {s0 s : State} (h : Keeps s0 s) (q : Fin 12) : Keeps s0 (State.queueRamped s q) := by
  unfold State.queueRamped
  repeat' first
    | with_reducible assumption
    | intro _
    | with_reducible apply keeps_modQueue
    | with_reducible apply keeps_fadeEvent
    | with_reducible apply Keeps.fold
    | with_reducible apply Keeps.ite
    | dsimp only
    | split
    | fail_if_no_progress with_reducible refine Keeps.same ?_ rfl rfl
    | fail_if_no_progress with_reducible refine Keeps.more ?_ rfl (Nat.le_add_right _ _) rfl

theorem keeps_fn_execFadeRampEnd {s0 s : State} (h : Keeps s0 s) (x : Byte) : OKeeps s0 (execFadeRampEnd x s) := by
  unfold execFadeRampEnd
  repeat' first
    | with_reducible assumption
    | intro _
    | with_reducible apply OKeeps.of
    | with_reducible apply keeps_streamRamped
    | with_reducible apply keeps_queueRamped
    | with_reducible apply Keeps.fold
    | with_reducible apply Keeps.ite
    | with_reducible apply OKeeps.ite
    | dsimp only
    | split
    | fail_if_no_progress with_reducible refine Keeps.same ?_ rfl rfl
    | fail_if_no_progress with_reducible refine Keeps.more ?_ rfl (Nat.le_add_right _ _) rfl

theorem keeps_fn_execAudEvlIn {s0 s : State} (h : Keeps s0 s) (q : Fin 12) : OKeeps s0 (execAudEvlIn q s) := by
  unfold execAudEvlIn
  repeat' first
    | with_reducible assumption
    | intro _
    | with_reducible apply OKeeps.of
    | with_reducible apply keeps_queueEvlIn
    | with_reducible apply Keeps.fold
    | with_reducible apply Keeps.ite
    | with_reducible apply OKeeps.ite
    | dsimp only
    | split
    | fail_if_no_progress with_reducible refine Keeps.same ?_ rfl rfl
    | fail_if_no_progress with_reducible refine Keeps.more ?_ rfl (Nat.le_add_right _ _) rfl

theorem keeps_fn_execAudStartPulse {s0 s : State} (h : Keeps s0 s) (p : Fin 4) : OKeeps s0 (execAudStartPulse p s) := by
  unfold execAudStartPulse
  repeat' first
    | with_reducible assumption
    | intro _
    | with_reducible apply OKeeps.of
    | with_reducible apply keeps_portPulse
    | with_reducible apply Keeps.fold
    | with_reducible apply Keeps.ite
    | with_reducible apply OKeeps.ite
    | dsimp only
    | split
    | fail_if_no_progress with_reducible refine Keeps.same ?_ rfl rfl
    | fail_if_no_progress with_reducible refine Keeps.more ?_ rfl (Nat.le_add_right _ _) rfl

theorem keeps_fn_execPdmStuck {s0 s : State} (h : Keeps s0 s) (m : Fin 8) : OKeeps s0 (execPdmStuck m s) := by
  unfold execPdmStuck
  repeat' first
    | with_reducible assumption
    | intro _
    | with_reducible apply OKeeps.of
    | with_reducible apply keeps_raise
    | with_reducible apply keeps_setFlag
    | with_reducible apply Keeps.fold
    | with_reducible apply Keeps.ite
    | with_reducible apply OKeeps.ite
    | dsimp only
    | split
    | fail_if_no_progress with_reducible refine Keeps.same ?_ rfl rfl
    | fail_if_no_progress with_reducible refine Keeps.more ?_ rfl (Nat.le_add_right _ _) rfl

theorem keeps_fn_execPdmDataReturn {s0 s : State} (h : Keeps s0 s) (m : Fin 8) : OKeeps s0 (execPdmDataReturn m s) := by
  unfold execPdmDataReturn
  repeat' first
    | with_reducible assumption
    | intro _
    | with_reducible apply OKeeps.of
    | with_reducible apply keeps_raise
    | with_reducible apply Keeps.fold
    | with_reducible apply Keeps.ite
    | with_reducible apply OKeeps.ite
    | dsimp only
    | split
    | fail_if_no_progress with_reducible refine Keeps.same ?_ rfl rfl
    | fail_if_no_progress with_reducible refine Keeps.more ?_ rfl (Nat.le_add_right _ _) rfl

end Sys2Proof.Laws
end

