-- ==== Sys2Proof/Laws/KeepsAccessRx.lean ====
section
/-!
SUPPORT. The operations and meanings of Machine/AccessRx.lean respect the relation of Keeps.lean.
-/

namespace Sys2Proof.Laws

open Sys2Proof Sys2Proof.Machine

set_option linter.unusedTactic false
set_option linter.unreachableTactic false
set_option linter.unusedVariables false

theorem keeps_modAcc {s0 s : State} (h : Keeps s0 s) (f : AccBlk → AccBlk) (e : (f s.acc).regPage = s.acc.regPage) :
    Keeps s0 (State.modAcc s f) :=
  h.step ⟨rfl, id, id, le_refl _, ⟨[], rfl⟩, fun _ => e, le_refl _, le_refl _, fun _ => rfl, fun h => ⟨h, rfl, rfl⟩⟩

/-- The page may change while it is not locked. -/
theorem keeps_modPage {s0 s : State} (h : Keeps s0 s) (f : AccBlk → AccBlk) (e : pageLocked s.acc.regPage = false) :
    Keeps s0 (State.modAcc s f) :=
  h.step ⟨rfl, id, id, le_refl _, ⟨[], rfl⟩, fun l => absurd l (by simp [kept, e]), le_refl _, le_refl _, fun _ => rfl,
    fun h => ⟨h, rfl, rfl⟩⟩

theorem keeps_rxCount {s0 s : State} (h : Keeps s0 s) (i : Nat) : Keeps s0 (State.rxCount s i) := by
  unfold State.rxCount
  repeat' first
    | with_reducible assumption
    | intro _
    | with_reducible apply keeps_bump
    | with_reducible apply Keeps.fold
    | with_reducible apply Keeps.ite
    | dsimp only
    | split
    | fail_if_no_progress with_reducible refine Keeps.same ?_ rfl rfl
    | fail_if_no_progress with_reducible refine Keeps.more ?_ rfl (Nat.le_add_right _ _) rfl

theorem keeps_fn_bodyAccRxCfg {s0 s : State} (h : Keeps s0 s) (c : CmdEntry) : AKeeps s0 (bodyAccRxCfg c s) := by
  unfold bodyAccRxCfg
  repeat' first
    | with_reducible assumption
    | intro _
    | with_reducible apply AKeeps.checked
    | with_reducible apply AKeeps.ok
    | with_reducible apply AKeeps.part
    | with_reducible apply AKeeps.fail
    | with_reducible apply AKeeps.wait
    | with_reducible apply AKeeps.done
    | with_reducible apply keeps_fn_Answer_done
    | with_reducible apply keeps_modAcc
    | with_reducible apply Keeps.fold
    | with_reducible apply Keeps.ite
    | with_reducible apply AKeeps.ite
    | dsimp only
    | split
    | fail_if_no_progress with_reducible refine Keeps.same ?_ rfl rfl
    | fail_if_no_progress with_reducible refine Keeps.more ?_ rfl (Nat.le_add_right _ _) rfl
    | rfl

theorem keeps_fn_execAccRxCfg {s0 s : State} (h : Keeps s0 s) (c : CmdEntry) : OKeeps s0 (execAccRxCfg c s) := by
  unfold execAccRxCfg
  repeat' first
    | with_reducible assumption
    | intro _
    | with_reducible apply keeps_runCmd
    | with_reducible apply OKeeps.of
    | with_reducible apply keeps_runCmd
    | with_reducible apply keeps_fn_bodyAccRxCfg
    | with_reducible apply Keeps.fold
    | with_reducible apply Keeps.ite
    | with_reducible apply OKeeps.ite
    | dsimp only
    | split
    | fail_if_no_progress with_reducible refine Keeps.same ?_ rfl rfl
    | fail_if_no_progress with_reducible refine Keeps.more ?_ rfl (Nat.le_add_right _ _) rfl

theorem keeps_fn_bodyAccRxStats {s0 s : State} (h : Keeps s0 s) (c : CmdEntry) : AKeeps s0 (bodyAccRxStats c s) := by
  unfold bodyAccRxStats
  apply AKeeps.checked
  apply AKeeps.ok
  split
  · exact h.step ⟨rfl, id, fun w => tlm_filter_wf s.tlm _ w, le_refl _, ⟨[], rfl⟩, fun _ => rfl, le_refl _, le_refl _, fun _ => rfl,
      fun h => ⟨h, rfl, rfl⟩⟩
  · exact h

theorem keeps_fn_execAccRxStats {s0 s : State} (h : Keeps s0 s) (c : CmdEntry) : OKeeps s0 (execAccRxStats c s) := by
  unfold execAccRxStats
  repeat' first
    | with_reducible assumption
    | intro _
    | with_reducible apply keeps_runCmd
    | with_reducible apply OKeeps.of
    | with_reducible apply keeps_runCmd
    | with_reducible apply keeps_fn_bodyAccRxStats
    | with_reducible apply Keeps.fold
    | with_reducible apply Keeps.ite
    | with_reducible apply OKeeps.ite
    | dsimp only
    | split
    | fail_if_no_progress with_reducible refine Keeps.same ?_ rfl rfl
    | fail_if_no_progress with_reducible refine Keeps.more ?_ rfl (Nat.le_add_right _ _) rfl

theorem keeps_fn_bodyAccListen {s0 s : State} (h : Keeps s0 s) (c : CmdEntry) : AKeeps s0 (bodyAccListen c s) := by
  unfold bodyAccListen
  repeat' first
    | with_reducible assumption
    | intro _
    | with_reducible apply AKeeps.checked
    | with_reducible apply AKeeps.ok
    | with_reducible apply AKeeps.part
    | with_reducible apply AKeeps.fail
    | with_reducible apply AKeeps.wait
    | with_reducible apply AKeeps.done
    | with_reducible apply keeps_fn_Answer_done
    | with_reducible apply keeps_modAcc
    | with_reducible apply Keeps.fold
    | with_reducible apply Keeps.ite
    | with_reducible apply AKeeps.ite
    | dsimp only
    | split
    | fail_if_no_progress with_reducible refine Keeps.same ?_ rfl rfl
    | fail_if_no_progress with_reducible refine Keeps.more ?_ rfl (Nat.le_add_right _ _) rfl
    | rfl

theorem keeps_fn_execAccListen {s0 s : State} (h : Keeps s0 s) (c : CmdEntry) : OKeeps s0 (execAccListen c s) := by
  unfold execAccListen
  repeat' first
    | with_reducible assumption
    | intro _
    | with_reducible apply keeps_runCmd
    | with_reducible apply OKeeps.of
    | with_reducible apply keeps_runCmd
    | with_reducible apply keeps_fn_bodyAccListen
    | with_reducible apply Keeps.fold
    | with_reducible apply Keeps.ite
    | with_reducible apply OKeeps.ite
    | dsimp only
    | split
    | fail_if_no_progress with_reducible refine Keeps.same ?_ rfl rfl
    | fail_if_no_progress with_reducible refine Keeps.more ?_ rfl (Nat.le_add_right _ _) rfl

theorem keeps_fn_execAccRxOpen {s0 s : State} (h : Keeps s0 s) (ch : Byte) (w : RxWindow) : OKeeps s0 (execAccRxOpen ch w s) := by
  unfold execAccRxOpen
  repeat' first
    | with_reducible assumption
    | intro _
    | with_reducible apply OKeeps.of
    | with_reducible apply keeps_modAcc
    | with_reducible apply keeps_rxCount
    | with_reducible apply Keeps.fold
    | with_reducible apply Keeps.ite
    | with_reducible apply OKeeps.ite
    | dsimp only
    | split
    | fail_if_no_progress with_reducible refine Keeps.same ?_ rfl rfl
    | fail_if_no_progress with_reducible refine Keeps.more ?_ rfl (Nat.le_add_right _ _) rfl
    | rfl

theorem keeps_rxEnds {s0 s : State} (h : Keeps s0 s) : Keeps s0 (State.rxEnds s) := by
  unfold State.rxEnds
  repeat' first
    | with_reducible assumption
    | intro _
    | with_reducible apply keeps_modAcc
    | with_reducible apply Keeps.fold
    | with_reducible apply Keeps.ite
    | dsimp only
    | split
    | fail_if_no_progress with_reducible refine Keeps.same ?_ rfl rfl
    | fail_if_no_progress with_reducible refine Keeps.more ?_ rfl (Nat.le_add_right _ _) rfl
    | rfl

theorem keeps_fn_execAccRxWindowClose {s0 s : State} (h : Keeps s0 s) : OKeeps s0 (execAccRxWindowClose s) := by
  unfold execAccRxWindowClose
  repeat' first
    | with_reducible assumption
    | intro _
    | with_reducible apply OKeeps.of
    | with_reducible apply keeps_modAcc
    | with_reducible apply keeps_rxEnds
    | with_reducible apply Keeps.fold
    | with_reducible apply Keeps.ite
    | with_reducible apply OKeeps.ite
    | dsimp only
    | split
    | fail_if_no_progress with_reducible refine Keeps.same ?_ rfl rfl
    | fail_if_no_progress with_reducible refine Keeps.more ?_ rfl (Nat.le_add_right _ _) rfl
    | rfl

theorem keeps_openListen {s0 s : State} (h : Keeps s0 s) (i : Fin 3) : Keeps s0 (State.openListen s i) := by
  unfold State.openListen
  repeat' first
    | with_reducible assumption
    | intro _
    | with_reducible apply keeps_modAcc
    | with_reducible apply keeps_rxCount
    | with_reducible apply Keeps.fold
    | with_reducible apply Keeps.ite
    | dsimp only
    | split
    | fail_if_no_progress with_reducible refine Keeps.same ?_ rfl rfl
    | fail_if_no_progress with_reducible refine Keeps.more ?_ rfl (Nat.le_add_right _ _) rfl
    | rfl

theorem keeps_fn_execListenWindow {s0 s : State} (h : Keeps s0 s) (freeMs : Nat) : OKeeps s0 (execListenWindow freeMs s) := by
  unfold execListenWindow
  repeat' first
    | with_reducible assumption
    | intro _
    | with_reducible apply OKeeps.of
    | with_reducible apply keeps_modAcc
    | with_reducible apply keeps_rxCount
    | with_reducible apply keeps_openListen
    | with_reducible apply Keeps.fold
    | with_reducible apply Keeps.ite
    | with_reducible apply OKeeps.ite
    | dsimp only
    | split
    | fail_if_no_progress with_reducible refine Keeps.same ?_ rfl rfl
    | fail_if_no_progress with_reducible refine Keeps.more ?_ rfl (Nat.le_add_right _ _) rfl
    | rfl

theorem keeps_weakSync {s0 s : State} (h : Keeps s0 s) (o : SyncObs) (errs : Nat) (cur : RxPacket) (en : Bool) : Keeps s0 (State.weakSync s o errs cur en) := by
  unfold State.weakSync
  repeat' first
    | with_reducible assumption
    | intro _
    | with_reducible apply keeps_takeFree
    | refine keeps_takeFree_of ?_ (by assumption)
    | with_reducible apply keeps_modAcc
    | with_reducible apply keeps_rxCount
    | with_reducible apply Keeps.fold
    | with_reducible apply Keeps.ite
    | dsimp only
    | split
    | fail_if_no_progress with_reducible refine Keeps.same ?_ rfl rfl
    | fail_if_no_progress with_reducible refine Keeps.more ?_ rfl (Nat.le_add_right _ _) rfl
    | rfl

theorem keeps_secondSync {s0 s : State} (h : Keeps s0 s) (o : SyncObs) (errs : Nat) (cur : RxPacket) : Keeps s0 (State.secondSync s o errs cur) := by
  unfold State.secondSync
  repeat' first
    | with_reducible assumption
    | intro _
    | with_reducible apply keeps_modAcc
    | with_reducible apply keeps_rxCount
    | with_reducible apply keeps_weakSync
    | with_reducible apply Keeps.fold
    | with_reducible apply Keeps.ite
    | dsimp only
    | split
    | fail_if_no_progress with_reducible refine Keeps.same ?_ rfl rfl
    | fail_if_no_progress with_reducible refine Keeps.more ?_ rfl (Nat.le_add_right _ _) rfl
    | rfl

theorem keeps_fn_execAccSync {s0 s : State} (h : Keeps s0 s) (o : SyncObs) : OKeeps s0 (execAccSync o s) := by
  unfold execAccSync
  repeat' first
    | with_reducible assumption
    | intro _
    | with_reducible apply OKeeps.of
    | with_reducible apply keeps_modAcc
    | with_reducible apply keeps_rxCount
    | with_reducible apply keeps_secondSync
    | with_reducible apply Keeps.fold
    | with_reducible apply Keeps.ite
    | with_reducible apply OKeeps.ite
    | dsimp only
    | split
    | fail_if_no_progress with_reducible refine Keeps.same ?_ rfl rfl
    | fail_if_no_progress with_reducible refine Keeps.more ?_ rfl (Nat.le_add_right _ _) rfl
    | rfl

theorem keeps_falsePreamble {s0 s : State} (h : Keeps s0 s) : Keeps s0 (State.falsePreamble s) := by
  unfold State.falsePreamble
  repeat' first
    | with_reducible assumption
    | intro _
    | with_reducible apply keeps_modAcc
    | with_reducible apply keeps_rxCount
    | with_reducible apply keeps_rxEnds
    | with_reducible apply Keeps.fold
    | with_reducible apply Keeps.ite
    | dsimp only
    | split
    | fail_if_no_progress with_reducible refine Keeps.same ?_ rfl rfl
    | fail_if_no_progress with_reducible refine Keeps.more ?_ rfl (Nat.le_add_right _ _) rfl
    | rfl

theorem keeps_headerOk {s0 s : State} (h : Keeps s0 s) (p : RxPacket) (o : HdrObs) : Keeps s0 (State.headerOk s p o) := by
  unfold State.headerOk
  repeat' first
    | with_reducible assumption
    | intro _
    | with_reducible apply keeps_modAcc
    | with_reducible apply keeps_rxCount
    | with_reducible apply Keeps.fold
    | with_reducible apply Keeps.ite
    | dsimp only
    | split
    | fail_if_no_progress with_reducible refine Keeps.same ?_ rfl rfl
    | fail_if_no_progress with_reducible refine Keeps.more ?_ rfl (Nat.le_add_right _ _) rfl
    | rfl

theorem keeps_fn_execAccHeaderCheck {s0 s : State} (h : Keeps s0 s) (o : HdrObs) : OKeeps s0 (execAccHeaderCheck o s) := by
  unfold execAccHeaderCheck
  repeat' first
    | with_reducible assumption
    | intro _
    | with_reducible apply OKeeps.of
    | with_reducible apply keeps_falsePreamble
    | with_reducible apply keeps_headerOk
    | with_reducible apply Keeps.fold
    | with_reducible apply Keeps.ite
    | with_reducible apply OKeeps.ite
    | dsimp only
    | split
    | fail_if_no_progress with_reducible refine Keeps.same ?_ rfl rfl
    | fail_if_no_progress with_reducible refine Keeps.more ?_ rfl (Nat.le_add_right _ _) rfl

theorem keeps_useCred {s0 s : State} (h : Keeps s0 s) (k : Fin 64) : Keeps s0 (State.useCred s k) := by
  unfold State.useCred
  repeat' first
    | with_reducible assumption
    | intro _
    | with_reducible apply Keeps.fold
    | with_reducible apply Keeps.ite
    | dsimp only
    | split
    | fail_if_no_progress with_reducible refine Keeps.same ?_ rfl rfl
    | fail_if_no_progress with_reducible refine Keeps.more ?_ rfl (Nat.le_add_right _ _) rfl

theorem keeps_startFlow {s0 s : State} (h : Keeps s0 s) (slot : Option (Fin 64)) (inWatch : Bool) : Keeps s0 (State.startFlow s slot inWatch) := by
  unfold State.startFlow
  repeat' first
    | with_reducible assumption
    | intro _
    | with_reducible apply Keeps.fold
    | with_reducible apply Keeps.ite
    | dsimp only
    | split
    | fail_if_no_progress with_reducible refine Keeps.same ?_ rfl rfl
    | fail_if_no_progress with_reducible refine Keeps.more ?_ rfl (Nat.le_add_right _ _) rfl

theorem keeps_pduAccepted {s0 s : State} (h : Keeps s0 s) (hit : Option (Fin 64)) (o : PktEndObs) (chan : Byte) : Keeps s0 (State.pduAccepted s hit o chan) := by
  unfold State.pduAccepted
  repeat' first
    | with_reducible assumption
    | intro _
    | with_reducible apply keeps_raise
    | with_reducible apply keeps_wakeUp
    | with_reducible apply keeps_rxCount
    | with_reducible apply keeps_useCred
    | with_reducible apply keeps_startFlow
    | with_reducible apply Keeps.fold
    | with_reducible apply Keeps.ite
    | dsimp only
    | split
    | fail_if_no_progress with_reducible refine Keeps.same ?_ rfl rfl
    | fail_if_no_progress with_reducible refine Keeps.more ?_ rfl (Nat.le_add_right _ _) rfl

theorem keeps_toListening {s0 s : State} (h : Keeps s0 s) (p : RxPacket) (o : PktEndObs) : Keeps s0 (State.toListening s p o) := by
  unfold State.toListening
  repeat' first
    | with_reducible assumption
    | intro _
    | with_reducible apply keeps_pduAccepted
    | with_reducible apply Keeps.fold
    | with_reducible apply Keeps.ite
    | dsimp only
    | split
    | fail_if_no_progress with_reducible refine Keeps.same ?_ rfl rfl
    | fail_if_no_progress with_reducible refine Keeps.more ?_ rfl (Nat.le_add_right _ _) rfl

theorem keeps_noteRssi {s0 s : State} (h : Keeps s0 s) (p : RxPacket) (o : PktEndObs) : Keeps s0 (State.noteRssi s p o) := by
  unfold State.noteRssi
  repeat' first
    | with_reducible assumption
    | intro _
    | with_reducible apply keeps_modAcc
    | with_reducible apply Keeps.fold
    | with_reducible apply Keeps.ite
    | dsimp only
    | split
    | fail_if_no_progress with_reducible refine Keeps.same ?_ rfl rfl
    | fail_if_no_progress with_reducible refine Keeps.more ?_ rfl (Nat.le_add_right _ _) rfl
    | rfl

theorem keeps_reportPacket {s0 s : State} (h : Keeps s0 s) (p : RxPacket) (o : PktEndObs) : Keeps s0 (State.reportPacket s p o) := by
  unfold State.reportPacket
  repeat' first
    | with_reducible assumption
    | intro _
    | with_reducible apply keeps_takeFree
    | refine keeps_takeFree_of ?_ (by assumption)
    | with_reducible apply keeps_hciOut
    | with_reducible apply Keeps.fold
    | with_reducible apply Keeps.ite
    | dsimp only
    | split
    | fail_if_no_progress with_reducible refine Keeps.same ?_ rfl rfl
    | fail_if_no_progress with_reducible refine Keeps.more ?_ rfl (Nat.le_add_right _ _) rfl

theorem keeps_linkChange {s0 s : State} (h : Keeps s0 s) (p : RxPacket) (o : PktEndObs) : Keeps s0 (State.linkChange s p o) := by
  unfold State.linkChange
  repeat' first
    | with_reducible assumption
    | intro _
    | with_reducible apply keeps_modAcc
    | with_reducible apply Keeps.fold
    | with_reducible apply Keeps.ite
    | dsimp only
    | split
    | fail_if_no_progress with_reducible refine Keeps.same ?_ rfl rfl
    | fail_if_no_progress with_reducible refine Keeps.more ?_ rfl (Nat.le_add_right _ _) rfl
    | rfl

theorem keeps_fn_execAccPacketEnd {s0 s : State} (h : Keeps s0 s) (o : PktEndObs) : OKeeps s0 (execAccPacketEnd o s) := by
  unfold execAccPacketEnd
  repeat' first
    | with_reducible assumption
    | intro _
    | with_reducible apply OKeeps.of
    | with_reducible apply keeps_modAcc
    | with_reducible apply keeps_rxCount
    | with_reducible apply keeps_rxEnds
    | with_reducible apply keeps_headerOk
    | with_reducible apply keeps_toListening
    | with_reducible apply keeps_noteRssi
    | with_reducible apply keeps_reportPacket
    | with_reducible apply keeps_linkChange
    | with_reducible apply Keeps.fold
    | with_reducible apply Keeps.ite
    | with_reducible apply OKeeps.ite
    | dsimp only
    | split
    | fail_if_no_progress with_reducible refine Keeps.same ?_ rfl rfl
    | fail_if_no_progress with_reducible refine Keeps.more ?_ rfl (Nat.le_add_right _ _) rfl
    | rfl

end Sys2Proof.Laws
end

