-- ==== Sys2Proof/Laws/KeepsAccessFe.lean ====
section
/-!
SUPPORT. The operations and meanings of Machine/AccessFe.lean respect the relation of Keeps.lean.
-/

namespace Sys2Proof.Laws

open Sys2Proof Sys2Proof.Machine

set_option linter.unusedTactic false
set_option linter.unreachableTactic false
set_option linter.unusedVariables false

theorem keeps_synthTo {s0 s : State} (h : Keeps s0 s) (st : BitVec 2) (ch : Fin 81) : Keeps s0 (State.synthTo s st ch) := by
  unfold State.synthTo
  repeat' first
    | with_reducible assumption
    | intro _
    | with_reducible apply keeps_modAcc
    | with_reducible apply Keeps.fold
    | with_reducible apply Keeps.ite
    | dsimp only
    | split
    | fail_if_no_progress with_reducible refine Keeps.same ?_ rfl rfl
    | fail_if_no_progress with_reducible refine Keeps.more ?_ rfl (Nat.le_add_right _ _) rfl
    | rfl

theorem keeps_calYields {s0 s : State} (h : Keeps s0 s) : Keeps s0 (State.calYields s) := by
  unfold State.calYields
  repeat' first
    | with_reducible assumption
    | intro _
    | with_reducible apply keeps_modAcc
    | with_reducible apply Keeps.getD
    | with_reducible apply Keeps.fold
    | with_reducible apply Keeps.ite
    | dsimp only
    | split
    | fail_if_no_progress with_reducible refine Keeps.same ?_ rfl rfl
    | fail_if_no_progress with_reducible refine Keeps.more ?_ rfl (Nat.le_add_right _ _) rfl
    | rfl

theorem keeps_fn_execSynthHop {s0 s : State} (h : Keeps s0 s) (ch : Fin 81) : OKeeps s0 (execSynthHop ch s) := by
  unfold execSynthHop
  repeat' first
    | with_reducible assumption
    | intro _
    | with_reducible apply OKeeps.of
    | with_reducible apply keeps_bump
    | with_reducible apply keeps_synthTo
    | with_reducible apply keeps_calYields
    | with_reducible apply Keeps.fold
    | with_reducible apply Keeps.ite
    | with_reducible apply OKeeps.ite
    | dsimp only
    | split
    | fail_if_no_progress with_reducible refine Keeps.same ?_ rfl rfl
    | fail_if_no_progress with_reducible refine Keeps.more ?_ rfl (Nat.le_add_right _ _) rfl

theorem keeps_fn_execSynthLock {s0 s : State} (h : Keeps s0 s) (ch : Fin 81) : OKeeps s0 (execSynthLock ch s) := by
  unfold execSynthLock
  repeat' first
    | with_reducible assumption
    | intro _
    | with_reducible apply OKeeps.of
    | with_reducible apply keeps_modSynth
    | with_reducible apply keeps_modAcc
    | with_reducible apply Keeps.fold
    | with_reducible apply Keeps.ite
    | with_reducible apply OKeeps.ite
    | dsimp only
    | split
    | fail_if_no_progress with_reducible refine Keeps.same ?_ rfl rfl
    | fail_if_no_progress with_reducible refine Keeps.more ?_ rfl (Nat.le_add_right _ _) rfl
    | rfl

theorem keeps_synthEvent {s0 s : State} (h : Keeps s0 s) (ch : Fin 81) (code : Nat) : Keeps s0 (State.synthEvent s ch code) := by
  unfold State.synthEvent
  repeat' first
    | with_reducible assumption
    | intro _
    | with_reducible apply keeps_raise
    | with_reducible apply Keeps.fold
    | with_reducible apply Keeps.ite
    | dsimp only
    | split
    | fail_if_no_progress with_reducible refine Keeps.same ?_ rfl rfl
    | fail_if_no_progress with_reducible refine Keeps.more ?_ rfl (Nat.le_add_right _ _) rfl

theorem keeps_fn_execSynthHopFail {s0 s : State} (h : Keeps s0 s) (ch : Fin 81) : OKeeps s0 (execSynthHopFail ch s) := by
  unfold execSynthHopFail
  repeat' first
    | with_reducible assumption
    | intro _
    | with_reducible apply OKeeps.of
    | with_reducible apply keeps_modSynth
    | with_reducible apply keeps_bump
    | with_reducible apply keeps_setFlag
    | with_reducible apply keeps_modAcc
    | with_reducible apply keeps_synthEvent
    | with_reducible apply Keeps.fold
    | with_reducible apply Keeps.ite
    | with_reducible apply OKeeps.ite
    | dsimp only
    | split
    | fail_if_no_progress with_reducible refine Keeps.same ?_ rfl rfl
    | fail_if_no_progress with_reducible refine Keeps.more ?_ rfl (Nat.le_add_right _ _) rfl
    | rfl

theorem keeps_fn_execSynthCalStep {s0 s : State} (h : Keeps s0 s) (ch : Fin 81) (yielded : Bool) : OKeeps s0 (execSynthCalStep ch yielded s) := by
  unfold execSynthCalStep
  repeat' first
    | with_reducible assumption
    | intro _
    | with_reducible apply OKeeps.of
    | with_reducible apply keeps_modAcc
    | with_reducible apply keeps_synthTo
    | with_reducible apply keeps_calYields
    | with_reducible apply Keeps.fold
    | with_reducible apply Keeps.ite
    | with_reducible apply OKeeps.ite
    | dsimp only
    | split
    | fail_if_no_progress with_reducible refine Keeps.same ?_ rfl rfl
    | fail_if_no_progress with_reducible refine Keeps.more ?_ rfl (Nat.le_add_right _ _) rfl
    | rfl

theorem keeps_regRefused {s0 s : State} (h : Keeps s0 s) (code : Nat) (ch : Fin 81) (p : Int) : Keeps s0 (State.regRefused s code ch p) := by
  unfold State.regRefused
  repeat' first
    | with_reducible assumption
    | intro _
    | with_reducible apply keeps_bump
    | with_reducible apply keeps_raiseLimited
    | with_reducible apply keeps_setFlag
    | with_reducible apply Keeps.fold
    | with_reducible apply Keeps.ite
    | dsimp only
    | split
    | fail_if_no_progress with_reducible refine Keeps.same ?_ rfl rfl
    | fail_if_no_progress with_reducible refine Keeps.more ?_ rfl (Nat.le_add_right _ _) rfl

theorem keeps_fn_bodyAccTx {s0 s : State} (h : Keeps s0 s) (c : CmdEntry) : AKeeps s0 (bodyAccTx c s) := by
  unfold bodyAccTx
  repeat' first
    | with_reducible assumption
    | intro _
    | with_reducible apply AKeeps.checked
    | with_reducible apply AKeeps.ok
    | with_reducible apply AKeeps.part
    | with_reducible apply AKeeps.fail
    | with_reducible apply AKeeps.wait
    | with_reducible apply AKeeps.done
    | with_reducible apply keeps_fault
    | with_reducible apply keeps_modAcc
    | with_reducible apply keeps_regRefused
    | with_reducible apply Keeps.fold
    | with_reducible apply Keeps.ite
    | with_reducible apply AKeeps.ite
    | dsimp only
    | split
    | fail_if_no_progress with_reducible refine Keeps.same ?_ rfl rfl
    | fail_if_no_progress with_reducible refine Keeps.more ?_ rfl (Nat.le_add_right _ _) rfl
    | rfl

theorem keeps_fn_execAccTx {s0 s : State} (h : Keeps s0 s) (c : CmdEntry) : OKeeps s0 (execAccTx c s) := by
  unfold execAccTx
  repeat' first
    | with_reducible assumption
    | intro _
    | with_reducible apply keeps_runCmd
    | with_reducible apply OKeeps.of
    | with_reducible apply keeps_runCmd
    | with_reducible apply keeps_fn_bodyAccTx
    | with_reducible apply Keeps.fold
    | with_reducible apply Keeps.ite
    | with_reducible apply OKeeps.ite
    | dsimp only
    | split
    | fail_if_no_progress with_reducible refine Keeps.same ?_ rfl rfl
    | fail_if_no_progress with_reducible refine Keeps.more ?_ rfl (Nat.le_add_right _ _) rfl

theorem keeps_endAccTx {s0 s : State} (h : Keeps s0 s) (st : Status) : Keeps s0 (State.endAccTx s st) := by
  unfold State.endAccTx
  repeat' first
    | with_reducible assumption
    | intro _
    | with_reducible apply keeps_finishSlot
    | with_reducible apply keeps_modAcc
    | with_reducible apply Keeps.fold
    | with_reducible apply Keeps.ite
    | dsimp only
    | split
    | fail_if_no_progress with_reducible refine Keeps.same ?_ rfl rfl
    | fail_if_no_progress with_reducible refine Keeps.more ?_ rfl (Nat.le_add_right _ _) rfl
    | rfl

theorem keeps_fn_execAccTxDeadline {s0 s : State} (h : Keeps s0 s) : OKeeps s0 (execAccTxDeadline s) := by
  unfold execAccTxDeadline
  repeat' first
    | with_reducible assumption
    | intro _
    | with_reducible apply OKeeps.of
    | with_reducible apply keeps_endAccTx
    | with_reducible apply Keeps.fold
    | with_reducible apply Keeps.ite
    | with_reducible apply OKeeps.ite
    | dsimp only
    | split
    | fail_if_no_progress with_reducible refine Keeps.same ?_ rfl rfl
    | fail_if_no_progress with_reducible refine Keeps.more ?_ rfl (Nat.le_add_right _ _) rfl

theorem keeps_fn_bodyAccTxStop {s0 s : State} (h : Keeps s0 s) (c : CmdEntry) : AKeeps s0 (bodyAccTxStop c s) := by
  unfold bodyAccTxStop
  repeat' first
    | with_reducible assumption
    | intro _
    | with_reducible apply AKeeps.checked
    | with_reducible apply AKeeps.ok
    | with_reducible apply AKeeps.part
    | with_reducible apply AKeeps.fail
    | with_reducible apply AKeeps.wait
    | with_reducible apply AKeeps.done
    | with_reducible apply keeps_fn_Answer_done
    | with_reducible apply keeps_modAcc
    | with_reducible apply keeps_endAccTx
    | with_reducible apply Keeps.fold
    | with_reducible apply Keeps.ite
    | with_reducible apply AKeeps.ite
    | dsimp only
    | split
    | fail_if_no_progress with_reducible refine Keeps.same ?_ rfl rfl
    | fail_if_no_progress with_reducible refine Keeps.more ?_ rfl (Nat.le_add_right _ _) rfl
    | rfl

theorem keeps_fn_execAccTxStop {s0 s : State} (h : Keeps s0 s) (c : CmdEntry) : OKeeps s0 (execAccTxStop c s) := by
  unfold execAccTxStop
  repeat' first
    | with_reducible assumption
    | intro _
    | with_reducible apply keeps_runCmd
    | with_reducible apply OKeeps.of
    | with_reducible apply keeps_runCmd
    | with_reducible apply keeps_fn_bodyAccTxStop
    | with_reducible apply Keeps.fold
    | with_reducible apply Keeps.ite
    | with_reducible apply OKeeps.ite
    | dsimp only
    | split
    | fail_if_no_progress with_reducible refine Keeps.same ?_ rfl rfl
    | fail_if_no_progress with_reducible refine Keeps.more ?_ rfl (Nat.le_add_right _ _) rfl

theorem keeps_fn_bodyAccRegWrite {s0 s : State} (h : Keeps s0 s) (c : CmdEntry) : AKeeps s0 (bodyAccRegWrite c s) := by
  unfold bodyAccRegWrite
  apply AKeeps.checkedIf
  intro k
  exact AKeeps.done (keeps_modPage h _ (k (pageLocked s.acc.regPage, .locked, 0) (by simp)))

theorem keeps_fn_execAccRegWrite {s0 s : State} (h : Keeps s0 s) (c : CmdEntry) : OKeeps s0 (execAccRegWrite c s) := by
  unfold execAccRegWrite
  repeat' first
    | with_reducible assumption
    | intro _
    | with_reducible apply keeps_runCmd
    | with_reducible apply OKeeps.of
    | with_reducible apply keeps_runCmd
    | with_reducible apply keeps_fn_bodyAccRegWrite
    | with_reducible apply Keeps.fold
    | with_reducible apply Keeps.ite
    | with_reducible apply OKeeps.ite
    | dsimp only
    | split
    | fail_if_no_progress with_reducible refine Keeps.same ?_ rfl rfl
    | fail_if_no_progress with_reducible refine Keeps.more ?_ rfl (Nat.le_add_right _ _) rfl

theorem keeps_fn_bodyAccRegLock {s0 s : State} (h : Keeps s0 s) (c : CmdEntry) : AKeeps s0 (bodyAccRegLock c s) := by
  unfold bodyAccRegLock
  apply AKeeps.checkedIf
  intro k
  exact AKeeps.done (keeps_modPage h _ (k (pageLocked s.acc.regPage, .locked, 0) (by simp)))

theorem keeps_fn_execAccRegLock {s0 s : State} (h : Keeps s0 s) (c : CmdEntry) : OKeeps s0 (execAccRegLock c s) := by
  unfold execAccRegLock
  repeat' first
    | with_reducible assumption
    | intro _
    | with_reducible apply keeps_runCmd
    | with_reducible apply OKeeps.of
    | with_reducible apply keeps_runCmd
    | with_reducible apply keeps_fn_bodyAccRegLock
    | with_reducible apply Keeps.fold
    | with_reducible apply Keeps.ite
    | with_reducible apply OKeeps.ite
    | dsimp only
    | split
    | fail_if_no_progress with_reducible refine Keeps.same ?_ rfl rfl
    | fail_if_no_progress with_reducible refine Keeps.more ?_ rfl (Nat.le_add_right _ _) rfl

theorem keeps_fn_bodyAccRegRead {s0 s : State} (h : Keeps s0 s) (c : CmdEntry) : AKeeps s0 (bodyAccRegRead c s) := by
  unfold bodyAccRegRead
  repeat' first
    | with_reducible assumption
    | intro _
    | with_reducible apply AKeeps.checked
    | with_reducible apply AKeeps.ok
    | with_reducible apply AKeeps.part
    | with_reducible apply AKeeps.fail
    | with_reducible apply AKeeps.wait
    | with_reducible apply AKeeps.done
    | with_reducible apply Keeps.fold
    | with_reducible apply Keeps.ite
    | with_reducible apply AKeeps.ite
    | dsimp only
    | split
    | fail_if_no_progress with_reducible refine Keeps.same ?_ rfl rfl
    | fail_if_no_progress with_reducible refine Keeps.more ?_ rfl (Nat.le_add_right _ _) rfl

theorem keeps_fn_execAccRegRead {s0 s : State} (h : Keeps s0 s) (c : CmdEntry) : OKeeps s0 (execAccRegRead c s) := by
  unfold execAccRegRead
  repeat' first
    | with_reducible assumption
    | intro _
    | with_reducible apply keeps_runCmd
    | with_reducible apply OKeeps.of
    | with_reducible apply keeps_runCmd
    | with_reducible apply keeps_fn_bodyAccRegRead
    | with_reducible apply Keeps.fold
    | with_reducible apply Keeps.ite
    | with_reducible apply OKeeps.ite
    | dsimp only
    | split
    | fail_if_no_progress with_reducible refine Keeps.same ?_ rfl rfl
    | fail_if_no_progress with_reducible refine Keeps.more ?_ rfl (Nat.le_add_right _ _) rfl

theorem keeps_dpdAdopt {s0 s : State} (h : Keeps s0 s) (m : Fin 2) (resid : Int) (coef : List (Int × Int)) : Keeps s0 (State.dpdAdopt s m resid coef) := by
  unfold State.dpdAdopt
  repeat' first
    | with_reducible assumption
    | intro _
    | with_reducible apply keeps_takeFree
    | refine keeps_takeFree_of ?_ (by assumption)
    | with_reducible apply keeps_raise
    | with_reducible apply keeps_setFlag
    | with_reducible apply keeps_modAcc
    | with_reducible apply Keeps.fold
    | with_reducible apply Keeps.ite
    | dsimp only
    | split
    | fail_if_no_progress with_reducible refine Keeps.same ?_ rfl rfl
    | fail_if_no_progress with_reducible refine Keeps.more ?_ rfl (Nat.le_add_right _ _) rfl
    | rfl

theorem keeps_dpdBoundary {s0 s : State} (h : Keeps s0 s) : Keeps s0 (State.dpdBoundary s) := by
  unfold State.dpdBoundary
  repeat' first
    | with_reducible assumption
    | intro _
    | with_reducible apply keeps_dpdAdopt
    | with_reducible apply Keeps.fold
    | with_reducible apply Keeps.ite
    | dsimp only
    | split
    | fail_if_no_progress with_reducible refine Keeps.same ?_ rfl rfl
    | fail_if_no_progress with_reducible refine Keeps.more ?_ rfl (Nat.le_add_right _ _) rfl

theorem keeps_fn_execDpdStep {s0 s : State} (h : Keeps s0 s) (yielded : Bool) (residual : Int) (coef : List (Int × Int)) : OKeeps s0 (execDpdStep yielded residual coef s) := by
  unfold execDpdStep
  repeat' first
    | with_reducible assumption
    | intro _
    | with_reducible apply OKeeps.of
    | with_reducible apply keeps_bump
    | with_reducible apply keeps_modAcc
    | with_reducible apply Keeps.fold
    | with_reducible apply Keeps.ite
    | with_reducible apply OKeeps.ite
    | dsimp only
    | split
    | fail_if_no_progress with_reducible refine Keeps.same ?_ rfl rfl
    | fail_if_no_progress with_reducible refine Keeps.more ?_ rfl (Nat.le_add_right _ _) rfl
    | rfl

theorem keeps_fn_execDpdRetrain {s0 s : State} (h : Keeps s0 s) : OKeeps s0 (execDpdRetrain s) := by
  unfold execDpdRetrain
  repeat' first
    | with_reducible assumption
    | intro _
    | with_reducible apply OKeeps.of
    | with_reducible apply keeps_modAcc
    | with_reducible apply Keeps.fold
    | with_reducible apply Keeps.ite
    | with_reducible apply OKeeps.ite
    | dsimp only
    | split
    | fail_if_no_progress with_reducible refine Keeps.same ?_ rfl rfl
    | fail_if_no_progress with_reducible refine Keeps.more ?_ rfl (Nat.le_add_right _ _) rfl
    | rfl

theorem keeps_coexEvent {s0 s : State} (h : Keeps s0 s) (code : Nat) (ch : Fin 81) (cls : Fin 7) : Keeps s0 (State.coexEvent s code ch cls) := by
  unfold State.coexEvent
  repeat' first
    | with_reducible assumption
    | intro _
    | with_reducible apply keeps_takeFree
    | refine keeps_takeFree_of ?_ (by assumption)
    | with_reducible apply keeps_raiseLimited
    | with_reducible apply keeps_setFlag
    | with_reducible apply Keeps.fold
    | with_reducible apply Keeps.ite
    | dsimp only
    | split
    | fail_if_no_progress with_reducible refine Keeps.same ?_ rfl rfl
    | fail_if_no_progress with_reducible refine Keeps.more ?_ rfl (Nat.le_add_right _ _) rfl

theorem keeps_missed {s0 s : State} (h : Keeps s0 s) : Keeps s0 (State.missed s) := by
  unfold State.missed
  repeat' first
    | with_reducible assumption
    | intro _
    | with_reducible apply keeps_bump
    | with_reducible apply Keeps.fold
    | with_reducible apply Keeps.ite
    | dsimp only
    | split
    | fail_if_no_progress with_reducible refine Keeps.same ?_ rfl rfl
    | fail_if_no_progress with_reducible refine Keeps.more ?_ rfl (Nat.le_add_right _ _) rfl

theorem keeps_burstRefused {s0 s : State} (h : Keeps s0 s) (st : Status) : Keeps s0 (State.burstRefused s st) := by
  unfold State.burstRefused
  repeat' first
    | with_reducible assumption
    | intro _
    | with_reducible apply keeps_finishSlot
    | with_reducible apply keeps_calBOver
    | with_reducible apply Keeps.fold
    | with_reducible apply Keeps.ite
    | dsimp only
    | split
    | fail_if_no_progress with_reducible refine Keeps.same ?_ rfl rfl
    | fail_if_no_progress with_reducible refine Keeps.more ?_ rfl (Nat.le_add_right _ _) rfl

theorem keeps_burstGranted {s0 s : State} (h : Keeps s0 s) (cls : Fin 7) : Keeps s0 (State.burstGranted s cls) := by
  unfold State.burstGranted
  repeat' first
    | with_reducible assumption
    | intro _
    | with_reducible apply Keeps.fold
    | with_reducible apply Keeps.ite
    | dsimp only
    | split
    | fail_if_no_progress with_reducible refine Keeps.same ?_ rfl rfl
    | fail_if_no_progress with_reducible refine Keeps.more ?_ rfl (Nat.le_add_right _ _) rfl

theorem keeps_notSent {s0 s : State} (h : Keeps s0 s) (tx : Bool) (cls : Fin 7) (st : Status) : Keeps s0 (State.notSent s tx cls st) := by
  unfold State.notSent
  repeat' first
    | with_reducible assumption
    | intro _
    | with_reducible apply keeps_modAcc
    | with_reducible apply keeps_endAccTx
    | with_reducible apply keeps_missed
    | with_reducible apply keeps_burstRefused
    | with_reducible apply Keeps.fold
    | with_reducible apply Keeps.ite
    | dsimp only
    | split
    | fail_if_no_progress with_reducible refine Keeps.same ?_ rfl rfl
    | fail_if_no_progress with_reducible refine Keeps.more ?_ rfl (Nat.le_add_right _ _) rfl
    | rfl

theorem keeps_requestAir {s0 s : State} (h : Keeps s0 s) (cls : Fin 7) : Keeps s0 (State.requestAir s cls) := by
  unfold State.requestAir
  repeat' first
    | with_reducible assumption
    | intro _
    | with_reducible apply keeps_modAcc
    | with_reducible apply Keeps.fold
    | with_reducible apply Keeps.ite
    | dsimp only
    | split
    | fail_if_no_progress with_reducible refine Keeps.same ?_ rfl rfl
    | fail_if_no_progress with_reducible refine Keeps.more ?_ rfl (Nat.le_add_right _ _) rfl
    | rfl

theorem keeps_onAir {s0 s : State} (h : Keeps s0 s) (x : Activity) : Keeps s0 (State.onAir s x) := by
  unfold State.onAir
  repeat' first
    | with_reducible assumption
    | intro _
    | with_reducible apply keeps_modAcc
    | with_reducible apply Keeps.fold
    | with_reducible apply Keeps.ite
    | dsimp only
    | split
    | fail_if_no_progress with_reducible refine Keeps.same ?_ rfl rfl
    | fail_if_no_progress with_reducible refine Keeps.more ?_ rfl (Nat.le_add_right _ _) rfl
    | rfl

theorem keeps_spendAir {s0 s : State} (h : Keeps s0 s) (us : Nat) : Keeps s0 (State.spendAir s us) := by
  unfold State.spendAir
  repeat' first
    | with_reducible assumption
    | intro _
    | with_reducible apply keeps_modAcc
    | with_reducible apply Keeps.fold
    | with_reducible apply Keeps.ite
    | dsimp only
    | split
    | fail_if_no_progress with_reducible refine Keeps.same ?_ rfl rfl
    | fail_if_no_progress with_reducible refine Keeps.more ?_ rfl (Nat.le_add_right _ _) rfl
    | rfl

theorem keeps_beginActivity {s0 s : State} (h : Keeps s0 s) (x : Activity) (gnt : Bool) : Keeps s0 (State.beginActivity s x gnt) := by
  unfold State.beginActivity
  repeat' first
    | with_reducible assumption
    | intro _
    | with_reducible apply keeps_modAcc
    | with_reducible apply keeps_regRefused
    | with_reducible apply keeps_coexEvent
    | with_reducible apply keeps_burstGranted
    | with_reducible apply keeps_notSent
    | with_reducible apply keeps_requestAir
    | with_reducible apply keeps_onAir
    | with_reducible apply keeps_spendAir
    | with_reducible apply Keeps.fold
    | with_reducible apply Keeps.ite
    | dsimp only
    | split
    | fail_if_no_progress with_reducible refine Keeps.same ?_ rfl rfl
    | fail_if_no_progress with_reducible refine Keeps.more ?_ rfl (Nat.le_add_right _ _) rfl
    | rfl

theorem keeps_offAir {s0 s : State} (h : Keeps s0 s) : Keeps s0 (State.offAir s) := by
  unfold State.offAir
  repeat' first
    | with_reducible assumption
    | intro _
    | with_reducible apply keeps_modAcc
    | with_reducible apply Keeps.fold
    | with_reducible apply Keeps.ite
    | dsimp only
    | split
    | fail_if_no_progress with_reducible refine Keeps.same ?_ rfl rfl
    | fail_if_no_progress with_reducible refine Keeps.more ?_ rfl (Nat.le_add_right _ _) rfl
    | rfl

theorem keeps_paEvent {s0 s : State} (h : Keeps s0 s) (code : Nat) (ch : Fin 81) (p : Int) : Keeps s0 (State.paEvent s code ch p) := by
  unfold State.paEvent
  repeat' first
    | with_reducible assumption
    | intro _
    | with_reducible apply keeps_raise
    | with_reducible apply Keeps.fold
    | with_reducible apply Keeps.ite
    | dsimp only
    | split
    | fail_if_no_progress with_reducible refine Keeps.same ?_ rfl rfl
    | fail_if_no_progress with_reducible refine Keeps.more ?_ rfl (Nat.le_add_right _ _) rfl

theorem keeps_overPower {s0 s : State} (h : Keeps s0 s) (x : Activity) (m : Int) : Keeps s0 (State.overPower s x m) := by
  unfold State.overPower
  repeat' first
    | with_reducible assumption
    | intro _
    | with_reducible apply keeps_setFlag
    | with_reducible apply keeps_modAcc
    | with_reducible apply keeps_paEvent
    | with_reducible apply Keeps.fold
    | with_reducible apply Keeps.ite
    | dsimp only
    | split
    | fail_if_no_progress with_reducible refine Keeps.same ?_ rfl rfl
    | fail_if_no_progress with_reducible refine Keeps.more ?_ rfl (Nat.le_add_right _ _) rfl
    | rfl

theorem keeps_lowPower {s0 s : State} (h : Keeps s0 s) (x : Activity) (m : Int) : Keeps s0 (State.lowPower s x m) := by
  unfold State.lowPower
  repeat' first
    | with_reducible assumption
    | intro _
    | with_reducible apply keeps_setFlag
    | with_reducible apply keeps_modAcc
    | with_reducible apply keeps_paEvent
    | with_reducible apply Keeps.fold
    | with_reducible apply Keeps.ite
    | dsimp only
    | split
    | fail_if_no_progress with_reducible refine Keeps.same ?_ rfl rfl
    | fail_if_no_progress with_reducible refine Keeps.more ?_ rfl (Nat.le_add_right _ _) rfl
    | rfl

theorem keeps_feedback {s0 s : State} (h : Keeps s0 s) (x : Activity) (fb : Option Int) : Keeps s0 (State.feedback s x fb) := by
  unfold State.feedback
  repeat' first
    | with_reducible assumption
    | intro _
    | with_reducible apply keeps_overPower
    | with_reducible apply keeps_lowPower
    | with_reducible apply Keeps.fold
    | with_reducible apply Keeps.ite
    | dsimp only
    | split
    | fail_if_no_progress with_reducible refine Keeps.same ?_ rfl rfl
    | fail_if_no_progress with_reducible refine Keeps.more ?_ rfl (Nat.le_add_right _ _) rfl

theorem keeps_dpdCapture {s0 s : State} (h : Keeps s0 s) (x : Activity) (phase : Int) : Keeps s0 (State.dpdCapture s x phase) := by
  unfold State.dpdCapture
  repeat' first
    | with_reducible assumption
    | intro _
    | with_reducible apply keeps_bump
    | with_reducible apply keeps_modAcc
    | with_reducible apply Keeps.fold
    | with_reducible apply Keeps.ite
    | dsimp only
    | split
    | fail_if_no_progress with_reducible refine Keeps.same ?_ rfl rfl
    | fail_if_no_progress with_reducible refine Keeps.more ?_ rfl (Nat.le_add_right _ _) rfl
    | rfl

theorem keeps_accTxPacket {s0 s : State} (h : Keeps s0 s) (whole : Bool) : Keeps s0 (State.accTxPacket s whole) := by
  unfold State.accTxPacket
  repeat' first
    | with_reducible assumption
    | intro _
    | with_reducible apply keeps_modAcc
    | with_reducible apply keeps_endAccTx
    | with_reducible apply Keeps.fold
    | with_reducible apply Keeps.ite
    | dsimp only
    | split
    | fail_if_no_progress with_reducible refine Keeps.same ?_ rfl rfl
    | fail_if_no_progress with_reducible refine Keeps.more ?_ rfl (Nat.le_add_right _ _) rfl
    | rfl

theorem keeps_endActivity {s0 s : State} (h : Keeps s0 s) (fb : Option Int) (phase : Int) : Keeps s0 (State.endActivity s fb phase) := by
  unfold State.endActivity
  repeat' first
    | with_reducible assumption
    | intro _
    | with_reducible apply keeps_dpdBoundary
    | with_reducible apply keeps_offAir
    | with_reducible apply keeps_feedback
    | with_reducible apply keeps_dpdCapture
    | with_reducible apply keeps_accTxPacket
    | with_reducible apply Keeps.fold
    | with_reducible apply Keeps.ite
    | dsimp only
    | split
    | fail_if_no_progress with_reducible refine Keeps.same ?_ rfl rfl
    | fail_if_no_progress with_reducible refine Keeps.more ?_ rfl (Nat.le_add_right _ _) rfl

theorem keeps_fn_execRadioActivity {s0 s : State} (h : Keeps s0 s) (a : ActivityObs) : OKeeps s0 (execRadioActivity a s) := by
  unfold execRadioActivity
  repeat' first
    | with_reducible assumption
    | intro _
    | with_reducible apply OKeeps.of
    | with_reducible apply keeps_dpdBoundary
    | with_reducible apply keeps_missed
    | with_reducible apply keeps_beginActivity
    | with_reducible apply keeps_endActivity
    | with_reducible apply Keeps.fold
    | with_reducible apply Keeps.ite
    | with_reducible apply OKeeps.ite
    | dsimp only
    | split
    | fail_if_no_progress with_reducible refine Keeps.same ?_ rfl rfl
    | fail_if_no_progress with_reducible refine Keeps.more ?_ rfl (Nat.le_add_right _ _) rfl

theorem keeps_cutAir {s0 s : State} (h : Keeps s0 s) : Keeps s0 (State.cutAir s) := by
  unfold State.cutAir
  repeat' first
    | with_reducible assumption
    | intro _
    | with_reducible apply keeps_modAcc
    | with_reducible apply Keeps.fold
    | with_reducible apply Keeps.ite
    | dsimp only
    | split
    | fail_if_no_progress with_reducible refine Keeps.same ?_ rfl rfl
    | fail_if_no_progress with_reducible refine Keeps.more ?_ rfl (Nat.le_add_right _ _) rfl
    | rfl

theorem keeps_fn_execCoexGntWithdrawn {s0 s : State} (h : Keeps s0 s) : OKeeps s0 (execCoexGntWithdrawn s) := by
  unfold execCoexGntWithdrawn
  repeat' first
    | with_reducible assumption
    | intro _
    | with_reducible apply OKeeps.of
    | with_reducible apply keeps_bump
    | with_reducible apply keeps_modAcc
    | with_reducible apply keeps_coexEvent
    | with_reducible apply keeps_offAir
    | with_reducible apply keeps_accTxPacket
    | with_reducible apply keeps_cutAir
    | with_reducible apply Keeps.fold
    | with_reducible apply Keeps.ite
    | with_reducible apply OKeeps.ite
    | dsimp only
    | split
    | fail_if_no_progress with_reducible refine Keeps.same ?_ rfl rfl
    | fail_if_no_progress with_reducible refine Keeps.more ?_ rfl (Nat.le_add_right _ _) rfl
    | rfl

theorem keeps_fn_execCoexReqHoldExpiry {s0 s : State} (h : Keeps s0 s) : OKeeps s0 (execCoexReqHoldExpiry s) := by
  unfold execCoexReqHoldExpiry
  repeat' first
    | with_reducible assumption
    | intro _
    | with_reducible apply OKeeps.of
    | with_reducible apply keeps_modAcc
    | with_reducible apply Keeps.fold
    | with_reducible apply Keeps.ite
    | with_reducible apply OKeeps.ite
    | dsimp only
    | split
    | fail_if_no_progress with_reducible refine Keeps.same ?_ rfl rfl
    | fail_if_no_progress with_reducible refine Keeps.more ?_ rfl (Nat.le_add_right _ _) rfl
    | rfl

end Sys2Proof.Laws
end

