-- ==== Sys2Proof/Laws/KeepsPower.lean ====
section
/-!
SUPPORT. The operations and meanings of Machine/Power.lean respect the relation of Keeps.lean.
-/

namespace Sys2Proof.Laws

open Sys2Proof Sys2Proof.Machine

set_option linter.unusedTactic false
set_option linter.unreachableTactic false
set_option linter.unusedVariables false

theorem keeps_startLevel {s0 s : State} (h : Keeps s0 s) (t : BitVec 2) (slot : Nat) : AKeeps s0 (State.startLevel s t slot) := by
  unfold State.startLevel
  repeat' first
    | with_reducible assumption
    | intro _
    | with_reducible apply AKeeps.checked
    | with_reducible apply AKeeps.ok
    | with_reducible apply AKeeps.part
    | with_reducible apply AKeeps.fail
    | with_reducible apply AKeeps.wait
    | with_reducible apply AKeeps.done
    | with_reducible apply keeps_modPwr
    | with_reducible apply keeps_changeLevel
    | with_reducible apply Keeps.fold
    | with_reducible apply Keeps.ite
    | with_reducible apply AKeeps.ite
    | dsimp only
    | split
    | fail_if_no_progress with_reducible refine Keeps.same ?_ rfl rfl
    | fail_if_no_progress with_reducible refine Keeps.more ?_ rfl (Nat.le_add_right _ _) rfl

theorem keeps_requestComes {s0 s : State} (h : Keeps s0 s) : Keeps s0 (State.requestComes s) := by
  unfold State.requestComes
  repeat' first
    | with_reducible assumption
    | intro _
    | with_reducible apply keeps_settleUndone
    | with_reducible apply keeps_abandonEntry
    | with_reducible apply Keeps.fold
    | with_reducible apply Keeps.ite
    | dsimp only
    | split
    | fail_if_no_progress with_reducible refine Keeps.same ?_ rfl rfl
    | fail_if_no_progress with_reducible refine Keeps.more ?_ rfl (Nat.le_add_right _ _) rfl

theorem keeps_fn_bodyPwrLevel {s0 s : State} (h : Keeps s0 s) (c : CmdEntry) : AKeeps s0 (bodyPwrLevel c s) := by
  unfold bodyPwrLevel
  repeat' first
    | with_reducible assumption
    | intro _
    | with_reducible apply AKeeps.checked
    | with_reducible apply AKeeps.ok
    | with_reducible apply AKeeps.part
    | with_reducible apply AKeeps.fail
    | with_reducible apply AKeeps.wait
    | with_reducible apply AKeeps.done
    | with_reducible apply keeps_setPending
    | with_reducible apply keeps_startLevel
    | with_reducible apply keeps_requestComes
    | with_reducible apply Keeps.fold
    | with_reducible apply Keeps.ite
    | with_reducible apply AKeeps.ite
    | dsimp only
    | split
    | fail_if_no_progress with_reducible refine Keeps.same ?_ rfl rfl
    | fail_if_no_progress with_reducible refine Keeps.more ?_ rfl (Nat.le_add_right _ _) rfl

theorem keeps_fn_execPwrLevel {s0 s : State} (h : Keeps s0 s) (c : CmdEntry) : OKeeps s0 (execPwrLevel c s) := by
  unfold execPwrLevel
  repeat' first
    | with_reducible assumption
    | intro _
    | with_reducible apply keeps_runCmd
    | with_reducible apply OKeeps.of
    | with_reducible apply keeps_runCmd
    | with_reducible apply keeps_fn_bodyPwrLevel
    | with_reducible apply Keeps.fold
    | with_reducible apply Keeps.ite
    | with_reducible apply OKeeps.ite
    | dsimp only
    | split
    | fail_if_no_progress with_reducible refine Keeps.same ?_ rfl rfl
    | fail_if_no_progress with_reducible refine Keeps.more ?_ rfl (Nat.le_add_right _ _) rfl

theorem keeps_startSleep {s0 s : State} (h : Keeps s0 s) (t : BitVec 3) (slot : Nat) : AKeeps s0 (State.startSleep s t slot) := by
  unfold State.startSleep
  repeat' first
    | with_reducible assumption
    | intro _
    | with_reducible apply AKeeps.checked
    | with_reducible apply AKeeps.ok
    | with_reducible apply AKeeps.part
    | with_reducible apply AKeeps.fail
    | with_reducible apply AKeeps.wait
    | with_reducible apply AKeeps.done
    | with_reducible apply keeps_refuseEntry
    | with_reducible apply keeps_beginEntry
    | with_reducible apply Keeps.fold
    | with_reducible apply Keeps.ite
    | with_reducible apply AKeeps.ite
    | dsimp only
    | split
    | fail_if_no_progress with_reducible refine Keeps.same ?_ rfl rfl
    | fail_if_no_progress with_reducible refine Keeps.more ?_ rfl (Nat.le_add_right _ _) rfl

theorem keeps_fn_bodyPwrSleep {s0 s : State} (h : Keeps s0 s) (c : CmdEntry) : AKeeps s0 (bodyPwrSleep c s) := by
  unfold bodyPwrSleep
  repeat' first
    | with_reducible assumption
    | intro _
    | with_reducible apply AKeeps.checked
    | with_reducible apply AKeeps.ok
    | with_reducible apply AKeeps.part
    | with_reducible apply AKeeps.fail
    | with_reducible apply AKeeps.wait
    | with_reducible apply AKeeps.done
    | with_reducible apply keeps_setPending
    | with_reducible apply keeps_requestComes
    | with_reducible apply keeps_startSleep
    | with_reducible apply Keeps.fold
    | with_reducible apply Keeps.ite
    | with_reducible apply AKeeps.ite
    | dsimp only
    | split
    | fail_if_no_progress with_reducible refine Keeps.same ?_ rfl rfl
    | fail_if_no_progress with_reducible refine Keeps.more ?_ rfl (Nat.le_add_right _ _) rfl

theorem keeps_fn_execPwrSleep {s0 s : State} (h : Keeps s0 s) (c : CmdEntry) : OKeeps s0 (execPwrSleep c s) := by
  unfold execPwrSleep
  repeat' first
    | with_reducible assumption
    | intro _
    | with_reducible apply keeps_runCmd
    | with_reducible apply OKeeps.of
    | with_reducible apply keeps_runCmd
    | with_reducible apply keeps_fn_bodyPwrSleep
    | with_reducible apply Keeps.fold
    | with_reducible apply Keeps.ite
    | with_reducible apply OKeeps.ite
    | dsimp only
    | split
    | fail_if_no_progress with_reducible refine Keeps.same ?_ rfl rfl
    | fail_if_no_progress with_reducible refine Keeps.more ?_ rfl (Nat.le_add_right _ _) rfl

theorem keeps_stewardSleep {s0 s : State} (h : Keeps s0 s) (t : BitVec 3) : Keeps s0 (State.stewardSleep s t) := by
  unfold State.stewardSleep
  repeat' first
    | with_reducible assumption
    | intro _
    | with_reducible apply keeps_refuseEntry
    | with_reducible apply keeps_beginEntry
    | with_reducible apply keeps_setPending
    | with_reducible apply keeps_requestComes
    | with_reducible apply Keeps.fold
    | with_reducible apply Keeps.ite
    | dsimp only
    | split
    | fail_if_no_progress with_reducible refine Keeps.same ?_ rfl rfl
    | fail_if_no_progress with_reducible refine Keeps.more ?_ rfl (Nat.le_add_right _ _) rfl

theorem keeps_fn_execStewardSleepRequest {s0 s : State} (h : Keeps s0 s) (target : BitVec 3) : OKeeps s0 (execStewardSleepRequest target s) := by
  unfold execStewardSleepRequest
  repeat' first
    | with_reducible assumption
    | intro _
    | with_reducible apply OKeeps.of
    | with_reducible apply keeps_stewardSleep
    | with_reducible apply Keeps.fold
    | with_reducible apply Keeps.ite
    | with_reducible apply OKeeps.ite
    | dsimp only
    | split
    | fail_if_no_progress with_reducible refine Keeps.same ?_ rfl rfl
    | fail_if_no_progress with_reducible refine Keeps.more ?_ rfl (Nat.le_add_right _ _) rfl

/-- The state of an answer. -/
theorem keeps_of_ok {s0 t : State} {a : Answer} {r : List Byte} {o : Option (List Byte)} (h : AKeeps s0 a) (e : a = .ok t r o) :
    Keeps s0 t := by
  subst e
  exact h

theorem keeps_of_part {s0 t : State} {a : Answer} {st : Status} {d : Nat} {r : List Byte} (h : AKeeps s0 a) (e : a = .part t st d r) :
    Keeps s0 t := by
  subst e
  exact h

theorem keeps_of_wait {s0 t : State} {a : Answer} (h : AKeeps s0 a) (e : a = .wait t) : Keeps s0 t := by
  subst e
  exact h

theorem keeps_pendingStart {s0 s : State} (h : Keeps s0 s) : Keeps s0 (State.pendingStart s) := by
  unfold State.pendingStart
  repeat' first
    | with_reducible assumption
    | intro _
    | with_reducible apply keeps_finishSlot
    | with_reducible apply keeps_modPwr
    | with_reducible apply keeps_changeLevel
    | with_reducible apply keeps_endSleepCmd
    | with_reducible apply keeps_refuseEntry
    | with_reducible apply keeps_beginEntry
    | with_reducible apply keeps_startLevel
    | with_reducible apply Keeps.fold
    | with_reducible apply Keeps.ite
    | dsimp only
    | split
    | fail_if_no_progress with_reducible refine Keeps.same ?_ rfl rfl
    | fail_if_no_progress with_reducible refine Keeps.more ?_ rfl (Nat.le_add_right _ _) rfl
    | refine keeps_of_ok ?_ (by assumption)
    | refine keeps_of_part ?_ (by assumption)
    | refine keeps_of_wait ?_ (by assumption)

theorem keeps_fn_execPwrPendingStart {s0 s : State} (h : Keeps s0 s) : OKeeps s0 (execPwrPendingStart s) := by
  unfold execPwrPendingStart
  repeat' first
    | with_reducible assumption
    | intro _
    | with_reducible apply OKeeps.of
    | with_reducible apply keeps_pendingStart
    | with_reducible apply Keeps.fold
    | with_reducible apply Keeps.ite
    | with_reducible apply OKeeps.ite
    | dsimp only
    | split
    | fail_if_no_progress with_reducible refine Keeps.same ?_ rfl rfl
    | fail_if_no_progress with_reducible refine Keeps.more ?_ rfl (Nat.le_add_right _ _) rfl

theorem keeps_drainTimeout {s0 s : State} (h : Keeps s0 s) : Keeps s0 (State.drainTimeout s) := by
  unfold State.drainTimeout
  repeat' first
    | with_reducible assumption
    | intro _
    | with_reducible apply keeps_endSleepCmd
    | with_reducible apply keeps_refuseEntry
    | with_reducible apply keeps_unwind
    | with_reducible apply Keeps.fold
    | with_reducible apply Keeps.ite
    | dsimp only
    | split
    | fail_if_no_progress with_reducible refine Keeps.same ?_ rfl rfl
    | fail_if_no_progress with_reducible refine Keeps.more ?_ rfl (Nat.le_add_right _ _) rfl

theorem keeps_fn_execDmaDrainTimeout {s0 s : State} (h : Keeps s0 s) : OKeeps s0 (execDmaDrainTimeout s) := by
  unfold execDmaDrainTimeout
  repeat' first
    | with_reducible assumption
    | intro _
    | with_reducible apply OKeeps.of
    | with_reducible apply keeps_drainTimeout
    | with_reducible apply Keeps.fold
    | with_reducible apply Keeps.ite
    | with_reducible apply OKeeps.ite
    | dsimp only
    | split
    | fail_if_no_progress with_reducible refine Keeps.same ?_ rfl rfl
    | fail_if_no_progress with_reducible refine Keeps.more ?_ rfl (Nat.le_add_right _ _) rfl

theorem keeps_fn_bodyPwrAlarm {s0 s : State} (h : Keeps s0 s) (c : CmdEntry) : AKeeps s0 (bodyPwrAlarm c s) := by
  unfold bodyPwrAlarm
  repeat' first
    | with_reducible assumption
    | intro _
    | with_reducible apply AKeeps.checked
    | with_reducible apply AKeeps.ok
    | with_reducible apply AKeeps.part
    | with_reducible apply AKeeps.fail
    | with_reducible apply AKeeps.wait
    | with_reducible apply AKeeps.done
    | with_reducible apply keeps_fn_Answer_done
    | with_reducible apply keeps_modPwr
    | with_reducible apply Keeps.fold
    | with_reducible apply Keeps.ite
    | with_reducible apply AKeeps.ite
    | dsimp only
    | split
    | fail_if_no_progress with_reducible refine Keeps.same ?_ rfl rfl
    | fail_if_no_progress with_reducible refine Keeps.more ?_ rfl (Nat.le_add_right _ _) rfl

theorem keeps_fn_execPwrAlarm {s0 s : State} (h : Keeps s0 s) (c : CmdEntry) : OKeeps s0 (execPwrAlarm c s) := by
  unfold execPwrAlarm
  repeat' first
    | with_reducible assumption
    | intro _
    | with_reducible apply keeps_runCmd
    | with_reducible apply OKeeps.of
    | with_reducible apply keeps_runCmd
    | with_reducible apply keeps_fn_bodyPwrAlarm
    | with_reducible apply Keeps.fold
    | with_reducible apply Keeps.ite
    | with_reducible apply OKeeps.ite
    | dsimp only
    | split
    | fail_if_no_progress with_reducible refine Keeps.same ?_ rfl rfl
    | fail_if_no_progress with_reducible refine Keeps.more ?_ rfl (Nat.le_add_right _ _) rfl

theorem keeps_fn_bodyPwrStatus {s0 s : State} (h : Keeps s0 s) (_c : CmdEntry) : AKeeps s0 (bodyPwrStatus _c s) := by
  unfold bodyPwrStatus
  repeat' first
    | with_reducible assumption
    | intro _
    | with_reducible apply AKeeps.checked
    | with_reducible apply AKeeps.ok
    | with_reducible apply AKeeps.part
    | with_reducible apply AKeeps.fail
    | with_reducible apply AKeeps.wait
    | with_reducible apply AKeeps.done
    | with_reducible apply Keeps.fold
    | with_reducible apply Keeps.ite
    | with_reducible apply AKeeps.ite
    | dsimp only
    | split
    | fail_if_no_progress with_reducible refine Keeps.same ?_ rfl rfl
    | fail_if_no_progress with_reducible refine Keeps.more ?_ rfl (Nat.le_add_right _ _) rfl

theorem keeps_fn_execPwrStatus {s0 s : State} (h : Keeps s0 s) (c : CmdEntry) : OKeeps s0 (execPwrStatus c s) := by
  unfold execPwrStatus
  repeat' first
    | with_reducible assumption
    | intro _
    | with_reducible apply keeps_runCmd
    | with_reducible apply OKeeps.of
    | with_reducible apply keeps_runCmd
    | with_reducible apply keeps_fn_bodyPwrStatus
    | with_reducible apply Keeps.fold
    | with_reducible apply Keeps.ite
    | with_reducible apply OKeeps.ite
    | dsimp only
    | split
    | fail_if_no_progress with_reducible refine Keeps.same ?_ rfl rfl
    | fail_if_no_progress with_reducible refine Keeps.more ?_ rfl (Nat.le_add_right _ _) rfl

theorem keeps_pollCount {s0 s : State} (h : Keeps s0 s) (a : PmicAns) : Keeps s0 (State.pollCount s a) := by
  unfold State.pollCount
  repeat' first
    | with_reducible assumption
    | intro _
    | with_reducible apply keeps_bump
    | with_reducible apply Keeps.fold
    | with_reducible apply Keeps.ite
    | dsimp only
    | split
    | fail_if_no_progress with_reducible refine Keeps.same ?_ rfl rfl
    | fail_if_no_progress with_reducible refine Keeps.more ?_ rfl (Nat.le_add_right _ _) rfl

theorem keeps_pmicPoll {s0 s : State} (h : Keeps s0 s) (a : PmicAns) : Keeps s0 (State.pmicPoll s a) := by
  unfold State.pmicPoll
  repeat' first
    | with_reducible assumption
    | intro _
    | with_reducible apply keeps_twWait
    | with_reducible apply keeps_pmicAcked
    | with_reducible apply keeps_pollCount
    | with_reducible apply Keeps.fold
    | with_reducible apply Keeps.ite
    | dsimp only
    | split
    | fail_if_no_progress with_reducible refine Keeps.same ?_ rfl rfl
    | fail_if_no_progress with_reducible refine Keeps.more ?_ rfl (Nat.le_add_right _ _) rfl

theorem keeps_fn_execPmicPoll {s0 s : State} (h : Keeps s0 s) (a : PmicAns) : OKeeps s0 (execPmicPoll a s) := by
  unfold execPmicPoll
  repeat' first
    | with_reducible assumption
    | intro _
    | with_reducible apply OKeeps.of
    | with_reducible apply keeps_pmicPoll
    | with_reducible apply Keeps.fold
    | with_reducible apply Keeps.ite
    | with_reducible apply OKeeps.ite
    | dsimp only
    | split
    | fail_if_no_progress with_reducible refine Keeps.same ?_ rfl rfl
    | fail_if_no_progress with_reducible refine Keeps.more ?_ rfl (Nat.le_add_right _ _) rfl

theorem keeps_fn_execPmicTimeout {s0 s : State} (h : Keeps s0 s) : OKeeps s0 (execPmicTimeout s) := by
  unfold execPmicTimeout
  repeat' first
    | with_reducible assumption
    | intro _
    | with_reducible apply OKeeps.of
    | with_reducible apply keeps_pmicFailed
    | with_reducible apply Keeps.fold
    | with_reducible apply Keeps.ite
    | with_reducible apply OKeeps.ite
    | dsimp only
    | split
    | fail_if_no_progress with_reducible refine Keeps.same ?_ rfl rfl
    | fail_if_no_progress with_reducible refine Keeps.more ?_ rfl (Nat.le_add_right _ _) rfl

theorem keeps_fn_execGovernorCap {s0 s : State} (h : Keeps s0 s) : OKeeps s0 (execGovernorCap s) := by
  unfold execGovernorCap
  repeat' first
    | with_reducible assumption
    | intro _
    | with_reducible apply OKeeps.of
    | with_reducible apply keeps_modPwr
    | with_reducible apply keeps_applyCap
    | with_reducible apply Keeps.fold
    | with_reducible apply Keeps.ite
    | with_reducible apply OKeeps.ite
    | dsimp only
    | split
    | fail_if_no_progress with_reducible refine Keeps.same ?_ rfl rfl
    | fail_if_no_progress with_reducible refine Keeps.more ?_ rfl (Nat.le_add_right _ _) rfl

theorem keeps_releaseCap {s0 s : State} (h : Keeps s0 s) : Keeps s0 (State.releaseCap s) := by
  unfold State.releaseCap
  repeat' first
    | with_reducible assumption
    | intro _
    | with_reducible apply keeps_modPwr
    | with_reducible apply keeps_levelEvent
    | with_reducible apply keeps_changeLevel
    | with_reducible apply Keeps.fold
    | with_reducible apply Keeps.ite
    | dsimp only
    | split
    | fail_if_no_progress with_reducible refine Keeps.same ?_ rfl rfl
    | fail_if_no_progress with_reducible refine Keeps.more ?_ rfl (Nat.le_add_right _ _) rfl

theorem keeps_fn_execGovernorRelease {s0 s : State} (h : Keeps s0 s) : OKeeps s0 (execGovernorRelease s) := by
  unfold execGovernorRelease
  repeat' first
    | with_reducible assumption
    | intro _
    | with_reducible apply OKeeps.of
    | with_reducible apply keeps_modPwr
    | with_reducible apply keeps_releaseCap
    | with_reducible apply Keeps.fold
    | with_reducible apply Keeps.ite
    | with_reducible apply OKeeps.ite
    | dsimp only
    | split
    | fail_if_no_progress with_reducible refine Keeps.same ?_ rfl rfl
    | fail_if_no_progress with_reducible refine Keeps.more ?_ rfl (Nat.le_add_right _ _) rfl

theorem keeps_wakeInput {s0 s : State} (h : Keeps s0 s) (k : Fin 4) (level : Bool) : Keeps s0 (State.wakeInput s k level) := by
  unfold State.wakeInput
  repeat' first
    | with_reducible assumption
    | intro _
    | with_reducible apply keeps_raise
    | with_reducible apply keeps_raiseDeferred
    | with_reducible apply keeps_modPwr
    | with_reducible apply keeps_wakeUp
    | with_reducible apply Keeps.fold
    | with_reducible apply Keeps.ite
    | dsimp only
    | split
    | fail_if_no_progress with_reducible refine Keeps.same ?_ rfl rfl
    | fail_if_no_progress with_reducible refine Keeps.more ?_ rfl (Nat.le_add_right _ _) rfl

theorem keeps_fn_execWakePin {s0 s : State} (h : Keeps s0 s) (k : Fin 4) (level : Bool) : OKeeps s0 (execWakePin k level s) := by
  unfold execWakePin
  repeat' first
    | with_reducible assumption
    | intro _
    | with_reducible apply OKeeps.of
    | with_reducible apply keeps_wakeInput
    | with_reducible apply Keeps.fold
    | with_reducible apply Keeps.ite
    | with_reducible apply OKeeps.ite
    | dsimp only
    | split
    | fail_if_no_progress with_reducible refine Keeps.same ?_ rfl rfl
    | fail_if_no_progress with_reducible refine Keeps.more ?_ rfl (Nat.le_add_right _ _) rfl

theorem keeps_fn_execRtcAlarm {s0 s : State} (h : Keeps s0 s) : OKeeps s0 (execRtcAlarm s) := by
  unfold execRtcAlarm
  repeat' first
    | with_reducible assumption
    | intro _
    | with_reducible apply OKeeps.of
    | with_reducible apply keeps_modPwr
    | with_reducible apply keeps_wakeUp
    | with_reducible apply Keeps.fold
    | with_reducible apply Keeps.ite
    | with_reducible apply OKeeps.ite
    | dsimp only
    | split
    | fail_if_no_progress with_reducible refine Keeps.same ?_ rfl rfl
    | fail_if_no_progress with_reducible refine Keeps.more ?_ rfl (Nat.le_add_right _ _) rfl

theorem keeps_fn_execAccessTimerWake {s0 s : State} (h : Keeps s0 s) : OKeeps s0 (execAccessTimerWake s) := by
  unfold execAccessTimerWake
  repeat' first
    | with_reducible assumption
    | intro _
    | with_reducible apply OKeeps.of
    | with_reducible apply keeps_wakeUp
    | with_reducible apply Keeps.fold
    | with_reducible apply Keeps.ite
    | with_reducible apply OKeeps.ite
    | dsimp only
    | split
    | fail_if_no_progress with_reducible refine Keeps.same ?_ rfl rfl
    | fail_if_no_progress with_reducible refine Keeps.more ?_ rfl (Nat.le_add_right _ _) rfl

theorem keeps_fn_execWake {s0 s : State} (h : Keeps s0 s) (code : Byte) : OKeeps s0 (execWake code s) := by
  unfold execWake
  repeat' first
    | with_reducible assumption
    | intro _
    | with_reducible apply OKeeps.of
    | with_reducible apply keeps_wakeUp
    | with_reducible apply Keeps.fold
    | with_reducible apply Keeps.ite
    | with_reducible apply OKeeps.ite
    | dsimp only
    | split
    | fail_if_no_progress with_reducible refine Keeps.same ?_ rfl rfl
    | fail_if_no_progress with_reducible refine Keeps.more ?_ rfl (Nat.le_add_right _ _) rfl

theorem keeps_fn_execWakeStepTimeout {s0 s : State} (h : Keeps s0 s) (r : ReadyReport) : OKeeps s0 (execWakeStepTimeout r s) := by
  unfold execWakeStepTimeout
  repeat' first
    | with_reducible assumption
    | intro _
    | with_reducible apply OKeeps.of
    | with_reducible apply keeps_stepMissed
    | with_reducible apply Keeps.fold
    | with_reducible apply Keeps.ite
    | with_reducible apply OKeeps.ite
    | dsimp only
    | split
    | fail_if_no_progress with_reducible refine Keeps.same ?_ rfl rfl
    | fail_if_no_progress with_reducible refine Keeps.more ?_ rfl (Nat.le_add_right _ _) rfl

theorem keeps_fn_execWakeStepRepeat {s0 s : State} (h : Keeps s0 s) (ready : Bool) : OKeeps s0 (execWakeStepRepeat ready s) := by
  unfold execWakeStepRepeat
  repeat' first
    | with_reducible assumption
    | intro _
    | with_reducible apply OKeeps.of
    | with_reducible apply keeps_modPwr
    | with_reducible apply keeps_stepFails
    | with_reducible apply keeps_stepReady
    | with_reducible apply Keeps.fold
    | with_reducible apply Keeps.ite
    | with_reducible apply OKeeps.ite
    | dsimp only
    | split
    | fail_if_no_progress with_reducible refine Keeps.same ?_ rfl rfl
    | fail_if_no_progress with_reducible refine Keeps.more ?_ rfl (Nat.le_add_right _ _) rfl

end Sys2Proof.Laws
end

