-- ==== Sys2Proof/Laws/KeepsRanging.lean ====
section
/-!
SUPPORT. The operations and meanings of Machine/Ranging.lean respect the relation of Keeps.lean.
-/

namespace Sys2Proof.Laws

open Sys2Proof Sys2Proof.Machine

set_option linter.unusedTactic false
set_option linter.unreachableTactic false
set_option linter.unusedVariables false

theorem keeps_modCred {s0 s : State} (h : Keeps s0 s) (f : CredBlk → CredBlk) : Keeps s0 (State.modCred s f) := by
  unfold State.modCred
  repeat' first
    | with_reducible assumption
    | intro _
    | with_reducible apply Keeps.fold
    | with_reducible apply Keeps.ite
    | dsimp only
    | split
    | fail_if_no_progress with_reducible refine Keeps.same ?_ rfl rfl
    | fail_if_no_progress with_reducible refine Keeps.more ?_ rfl (Nat.le_add_right _ _) rfl

theorem keeps_credPlace {s0 s t : State} (h : Keeps s0 s) {k : List Byte} {i : Fin 64}
    (e : State.credPlace s k = some (i, t)) : Keeps s0 t := by
  unfold State.credPlace at e
  split at e
  · cases e
    exact h
  · split at e
    · cases e
      exact h
    · simp only [Option.map_eq_some_iff, Prod.mk.injEq] at e
      obtain ⟨_, _, _, rfl⟩ := e
      exact keeps_credEvent (keeps_clearCred h _) _ _ _ _

theorem keeps_credRefused {s0 s : State} (h : Keeps s0 s) (code : Nat) (b : List Byte) : Keeps s0 (State.credRefused s code b) := by
  unfold State.credRefused
  repeat' first
    | with_reducible assumption
    | intro _
    | with_reducible apply keeps_credEvent
    | with_reducible apply Keeps.fold
    | with_reducible apply Keeps.ite
    | dsimp only
    | split
    | fail_if_no_progress with_reducible refine Keeps.same ?_ rfl rfl
    | fail_if_no_progress with_reducible refine Keeps.more ?_ rfl (Nat.le_add_right _ _) rfl

theorem keeps_admits {s0 s : State} (h : Keeps s0 s) (b : List Byte) : Keeps s0 (State.admits s b).1 := by
  unfold State.admits
  split
  · exact keeps_credRefused h _ _
  · split
    · exact keeps_credRefused h _ _
    · dsimp only
      apply keeps_credEvent
      apply keeps_modCred
      exact keeps_credPlace h (by assumption)

theorem keeps_admits_of {s0 s t : State} (h : Keeps s0 s) {b : List Byte} {r : Except (Bool × Nat) (Fin 64)}
    (e : State.admits s b = (t, r)) : Keeps s0 t := by
  have := keeps_admits h b
  rw [e] at this
  exact this

theorem keeps_fn_bodyAccCredLoad {s0 s : State} (h : Keeps s0 s) (c : CmdEntry) : AKeeps s0 (bodyAccCredLoad c s) := by
  unfold bodyAccCredLoad
  repeat' first
    | with_reducible assumption
    | intro _
    | with_reducible apply AKeeps.checked
    | with_reducible apply AKeeps.ok
    | with_reducible apply AKeeps.part
    | with_reducible apply AKeeps.fail
    | with_reducible apply AKeeps.wait
    | with_reducible apply AKeeps.done
    | with_reducible apply keeps_admits
    | refine keeps_admits_of ?_ (by assumption)
    | with_reducible apply Keeps.fold
    | with_reducible apply Keeps.ite
    | with_reducible apply AKeeps.ite
    | dsimp only
    | split
    | fail_if_no_progress with_reducible refine Keeps.same ?_ rfl rfl
    | fail_if_no_progress with_reducible refine Keeps.more ?_ rfl (Nat.le_add_right _ _) rfl

theorem keeps_fn_execAccCredLoad {s0 s : State} (h : Keeps s0 s) (c : CmdEntry) : OKeeps s0 (execAccCredLoad c s) := by
  unfold execAccCredLoad
  repeat' first
    | with_reducible assumption
    | intro _
    | with_reducible apply keeps_runCmd
    | with_reducible apply OKeeps.of
    | with_reducible apply keeps_runCmd
    | with_reducible apply keeps_fn_bodyAccCredLoad
    | with_reducible apply Keeps.fold
    | with_reducible apply Keeps.ite
    | with_reducible apply OKeeps.ite
    | dsimp only
    | split
    | fail_if_no_progress with_reducible refine Keeps.same ?_ rfl rfl
    | fail_if_no_progress with_reducible refine Keeps.more ?_ rfl (Nat.le_add_right _ _) rfl

theorem keeps_fn_bodyAccCredList {s0 s : State} (h : Keeps s0 s) (c : CmdEntry) : AKeeps s0 (bodyAccCredList c s) := by
  unfold bodyAccCredList
  repeat' first
    | with_reducible assumption
    | intro _
    | with_reducible apply AKeeps.checked
    | with_reducible apply AKeeps.ok
    | with_reducible apply AKeeps.part
    | with_reducible apply AKeeps.fail
    | with_reducible apply AKeeps.wait
    | with_reducible apply AKeeps.done
    | with_reducible apply Keeps.fold
    | with_reducible apply Keeps.ite
    | with_reducible apply AKeeps.ite
    | dsimp only
    | split
    | fail_if_no_progress with_reducible refine Keeps.same ?_ rfl rfl
    | fail_if_no_progress with_reducible refine Keeps.more ?_ rfl (Nat.le_add_right _ _) rfl

theorem keeps_fn_execAccCredList {s0 s : State} (h : Keeps s0 s) (c : CmdEntry) : OKeeps s0 (execAccCredList c s) := by
  unfold execAccCredList
  repeat' first
    | with_reducible assumption
    | intro _
    | with_reducible apply keeps_runCmd
    | with_reducible apply OKeeps.of
    | with_reducible apply keeps_runCmd
    | with_reducible apply keeps_fn_bodyAccCredList
    | with_reducible apply Keeps.fold
    | with_reducible apply Keeps.ite
    | with_reducible apply OKeeps.ite
    | dsimp only
    | split
    | fail_if_no_progress with_reducible refine Keeps.same ?_ rfl rfl
    | fail_if_no_progress with_reducible refine Keeps.more ?_ rfl (Nat.le_add_right _ _) rfl

theorem keeps_evict {s0 s : State} (h : Keeps s0 s) (k : Fin 64) : Keeps s0 (State.evict s k) := by
  unfold State.evict
  repeat' first
    | with_reducible assumption
    | intro _
    | with_reducible apply keeps_credEvent
    | with_reducible apply keeps_clearCred
    | with_reducible apply Keeps.fold
    | with_reducible apply Keeps.ite
    | dsimp only
    | split
    | fail_if_no_progress with_reducible refine Keeps.same ?_ rfl rfl
    | fail_if_no_progress with_reducible refine Keeps.more ?_ rfl (Nat.le_add_right _ _) rfl

theorem keeps_fn_bodyAccCredEvict {s0 s : State} (h : Keeps s0 s) (c : CmdEntry) : AKeeps s0 (bodyAccCredEvict c s) := by
  unfold bodyAccCredEvict
  repeat' first
    | with_reducible assumption
    | intro _
    | with_reducible apply AKeeps.checked
    | with_reducible apply AKeeps.ok
    | with_reducible apply AKeeps.part
    | with_reducible apply AKeeps.fail
    | with_reducible apply AKeeps.wait
    | with_reducible apply AKeeps.done
    | with_reducible apply keeps_fn_Answer_done
    | with_reducible apply keeps_evict
    | with_reducible apply Keeps.fold
    | with_reducible apply Keeps.ite
    | with_reducible apply AKeeps.ite
    | dsimp only
    | split
    | fail_if_no_progress with_reducible refine Keeps.same ?_ rfl rfl
    | fail_if_no_progress with_reducible refine Keeps.more ?_ rfl (Nat.le_add_right _ _) rfl

theorem keeps_fn_execAccCredEvict {s0 s : State} (h : Keeps s0 s) (c : CmdEntry) : OKeeps s0 (execAccCredEvict c s) := by
  unfold execAccCredEvict
  repeat' first
    | with_reducible assumption
    | intro _
    | with_reducible apply keeps_runCmd
    | with_reducible apply OKeeps.of
    | with_reducible apply keeps_runCmd
    | with_reducible apply keeps_fn_bodyAccCredEvict
    | with_reducible apply Keeps.fold
    | with_reducible apply Keeps.ite
    | with_reducible apply OKeeps.ite
    | dsimp only
    | split
    | fail_if_no_progress with_reducible refine Keeps.same ?_ rfl rfl
    | fail_if_no_progress with_reducible refine Keeps.more ?_ rfl (Nat.le_add_right _ _) rfl

theorem keeps_fn_bodyAccUnlockCfg {s0 s : State} (h : Keeps s0 s) (c : CmdEntry) : AKeeps s0 (bodyAccUnlockCfg c s) := by
  unfold bodyAccUnlockCfg
  repeat' first
    | with_reducible assumption
    | intro _
    | with_reducible apply AKeeps.checked
    | with_reducible apply AKeeps.ok
    | with_reducible apply AKeeps.part
    | with_reducible apply AKeeps.fail
    | with_reducible apply AKeeps.wait
    | with_reducible apply AKeeps.done
    | with_reducible apply keeps_fn_Answer_done
    | with_reducible apply keeps_modCred
    | with_reducible apply Keeps.fold
    | with_reducible apply Keeps.ite
    | with_reducible apply AKeeps.ite
    | dsimp only
    | split
    | fail_if_no_progress with_reducible refine Keeps.same ?_ rfl rfl
    | fail_if_no_progress with_reducible refine Keeps.more ?_ rfl (Nat.le_add_right _ _) rfl

theorem keeps_fn_execAccUnlockCfg {s0 s : State} (h : Keeps s0 s) (c : CmdEntry) : OKeeps s0 (execAccUnlockCfg c s) := by
  unfold execAccUnlockCfg
  repeat' first
    | with_reducible assumption
    | intro _
    | with_reducible apply keeps_runCmd
    | with_reducible apply OKeeps.of
    | with_reducible apply keeps_runCmd
    | with_reducible apply keeps_fn_bodyAccUnlockCfg
    | with_reducible apply Keeps.fold
    | with_reducible apply Keeps.ite
    | with_reducible apply OKeeps.ite
    | dsimp only
    | split
    | fail_if_no_progress with_reducible refine Keeps.same ?_ rfl rfl
    | fail_if_no_progress with_reducible refine Keeps.more ?_ rfl (Nat.le_add_right _ _) rfl

theorem keeps_fn_bodyAccVkey {s0 s : State} (h : Keeps s0 s) (c : CmdEntry) : AKeeps s0 (bodyAccVkey c s) := by
  unfold bodyAccVkey
  repeat' first
    | with_reducible assumption
    | intro _
    | with_reducible apply AKeeps.checked
    | with_reducible apply AKeeps.ok
    | with_reducible apply AKeeps.part
    | with_reducible apply AKeeps.fail
    | with_reducible apply AKeeps.wait
    | with_reducible apply AKeeps.done
    | with_reducible apply keeps_fn_Answer_done
    | with_reducible apply keeps_modCred
    | with_reducible apply Keeps.fold
    | with_reducible apply Keeps.ite
    | with_reducible apply AKeeps.ite
    | dsimp only
    | split
    | fail_if_no_progress with_reducible refine Keeps.same ?_ rfl rfl
    | fail_if_no_progress with_reducible refine Keeps.more ?_ rfl (Nat.le_add_right _ _) rfl

theorem keeps_fn_execAccVkey {s0 s : State} (h : Keeps s0 s) (c : CmdEntry) : OKeeps s0 (execAccVkey c s) := by
  unfold execAccVkey
  repeat' first
    | with_reducible assumption
    | intro _
    | with_reducible apply keeps_runCmd
    | with_reducible apply OKeeps.of
    | with_reducible apply keeps_runCmd
    | with_reducible apply keeps_fn_bodyAccVkey
    | with_reducible apply Keeps.fold
    | with_reducible apply Keeps.ite
    | with_reducible apply OKeeps.ite
    | dsimp only
    | split
    | fail_if_no_progress with_reducible refine Keeps.same ?_ rfl rfl
    | fail_if_no_progress with_reducible refine Keeps.more ?_ rfl (Nat.le_add_right _ _) rfl

theorem keeps_fn_bodyAccVerdictRead {s0 s : State} (h : Keeps s0 s) (c : CmdEntry) : AKeeps s0 (bodyAccVerdictRead c s) := by
  unfold bodyAccVerdictRead
  repeat' first
    | with_reducible assumption
    | intro _
    | with_reducible apply AKeeps.checked
    | with_reducible apply AKeeps.ok
    | with_reducible apply AKeeps.part
    | with_reducible apply AKeeps.fail
    | with_reducible apply AKeeps.wait
    | with_reducible apply AKeeps.done
    | with_reducible apply Keeps.fold
    | with_reducible apply Keeps.ite
    | with_reducible apply AKeeps.ite
    | dsimp only
    | split
    | fail_if_no_progress with_reducible refine Keeps.same ?_ rfl rfl
    | fail_if_no_progress with_reducible refine Keeps.more ?_ rfl (Nat.le_add_right _ _) rfl

theorem keeps_fn_execAccVerdictRead {s0 s : State} (h : Keeps s0 s) (c : CmdEntry) : OKeeps s0 (execAccVerdictRead c s) := by
  unfold execAccVerdictRead
  repeat' first
    | with_reducible assumption
    | intro _
    | with_reducible apply keeps_runCmd
    | with_reducible apply OKeeps.of
    | with_reducible apply keeps_runCmd
    | with_reducible apply keeps_fn_bodyAccVerdictRead
    | with_reducible apply Keeps.fold
    | with_reducible apply Keeps.ite
    | with_reducible apply OKeeps.ite
    | dsimp only
    | split
    | fail_if_no_progress with_reducible refine Keeps.same ?_ rfl rfl
    | fail_if_no_progress with_reducible refine Keeps.more ?_ rfl (Nat.le_add_right _ _) rfl

theorem keeps_verdictEvent {s0 s : State} (h : Keeps s0 s) (data : List Byte) (delivery : Nat) : Keeps s0 (State.verdictEvent s data delivery) := by
  unfold State.verdictEvent
  repeat' first
    | with_reducible assumption
    | intro _
    | with_reducible apply keeps_raise
    | with_reducible apply Keeps.fold
    | with_reducible apply Keeps.ite
    | dsimp only
    | split
    | fail_if_no_progress with_reducible refine Keeps.same ?_ rfl rfl
    | fail_if_no_progress with_reducible refine Keeps.more ?_ rfl (Nat.le_add_right _ _) rfl

theorem keeps_deliverVerdict {s0 s : State} (h : Keeps s0 s) (f : Flow) (frame : List Byte) (tagged : Bool) : Keeps s0 (State.deliverVerdict s f frame tagged) := by
  unfold State.deliverVerdict
  repeat' first
    | with_reducible assumption
    | intro _
    | with_reducible apply keeps_twWait
    | with_reducible apply keeps_modCred
    | with_reducible apply keeps_verdictEvent
    | with_reducible apply Keeps.fold
    | with_reducible apply Keeps.ite
    | dsimp only
    | split
    | fail_if_no_progress with_reducible refine Keeps.same ?_ rfl rfl
    | fail_if_no_progress with_reducible refine Keeps.more ?_ rfl (Nat.le_add_right _ _) rfl

theorem keeps_afterVerdict {s0 s : State} (h : Keeps s0 s) (f : Flow) (frame : List Byte) (outcome : Nat) : Keeps s0 (State.afterVerdict s f frame outcome) := by
  unfold State.afterVerdict
  repeat' first
    | with_reducible assumption
    | intro _
    | with_reducible apply keeps_fn_Answer_done
    | with_reducible apply keeps_finishSlot
    | with_reducible apply keeps_hostWake
    | with_reducible apply keeps_modCred
    | with_reducible apply Keeps.fold
    | with_reducible apply Keeps.ite
    | dsimp only
    | split
    | fail_if_no_progress with_reducible refine Keeps.same ?_ rfl rfl
    | fail_if_no_progress with_reducible refine Keeps.more ?_ rfl (Nat.le_add_right _ _) rfl

theorem keeps_issueVerdict {s0 s : State} (h : Keeps s0 s) (f : Flow) (r : Ranged) : Keeps s0 (State.issueVerdict s f r) := by
  unfold State.issueVerdict
  repeat' first
    | with_reducible assumption
    | intro _
    | with_reducible apply keeps_modCred
    | with_reducible apply keeps_deliverVerdict
    | with_reducible apply keeps_afterVerdict
    | with_reducible apply Keeps.fold
    | with_reducible apply Keeps.ite
    | dsimp only
    | split
    | fail_if_no_progress with_reducible refine Keeps.same ?_ rfl rfl
    | fail_if_no_progress with_reducible refine Keeps.more ?_ rfl (Nat.le_add_right _ _) rfl

theorem keeps_flowFails {s0 s : State} (h : Keeps s0 s) (f : Flow) (outcome : Nat) : Keeps s0 (State.flowFails s f outcome) := by
  unfold State.flowFails
  repeat' first
    | with_reducible assumption
    | intro _
    | with_reducible apply keeps_issueVerdict
    | with_reducible apply Keeps.fold
    | with_reducible apply Keeps.ite
    | dsimp only
    | split
    | fail_if_no_progress with_reducible refine Keeps.same ?_ rfl rfl
    | fail_if_no_progress with_reducible refine Keeps.more ?_ rfl (Nat.le_add_right _ _) rfl

theorem keeps_flowStep {s0 s : State} (h : Keeps s0 s) (f : Flow) (st : FlowStep) : Keeps s0 (State.flowStep s f st) := by
  unfold State.flowStep
  repeat' first
    | with_reducible assumption
    | intro _
    | with_reducible apply keeps_modCred
    | with_reducible apply Keeps.fold
    | with_reducible apply Keeps.ite
    | dsimp only
    | split
    | fail_if_no_progress with_reducible refine Keeps.same ?_ rfl rfl
    | fail_if_no_progress with_reducible refine Keeps.more ?_ rfl (Nat.le_add_right _ _) rfl

theorem keeps_challenge {s0 s : State} (h : Keeps s0 s) (f : Flow) : Keeps s0 (State.challenge s f) := by
  unfold State.challenge
  repeat' first
    | with_reducible assumption
    | intro _
    | with_reducible apply keeps_takeFree
    | refine keeps_takeFree_of ?_ (by assumption)
    | with_reducible apply keeps_flowStep
    | with_reducible apply Keeps.fold
    | with_reducible apply Keeps.ite
    | dsimp only
    | split
    | fail_if_no_progress with_reducible refine Keeps.same ?_ rfl rfl
    | fail_if_no_progress with_reducible refine Keeps.more ?_ rfl (Nat.le_add_right _ _) rfl

theorem keeps_fn_execUnlockConnected {s0 s : State} (h : Keeps s0 s) (handle : BitVec 16) (accessAddr : W) : OKeeps s0 (execUnlockConnected handle accessAddr s) := by
  unfold execUnlockConnected
  repeat' first
    | with_reducible assumption
    | intro _
    | with_reducible apply OKeeps.of
    | with_reducible apply keeps_flowStep
    | with_reducible apply Keeps.fold
    | with_reducible apply Keeps.ite
    | with_reducible apply OKeeps.ite
    | dsimp only
    | split
    | fail_if_no_progress with_reducible refine Keeps.same ?_ rfl rfl
    | fail_if_no_progress with_reducible refine Keeps.more ?_ rfl (Nat.le_add_right _ _) rfl

theorem keeps_fn_execUnlockEncrypted {s0 s : State} (h : Keeps s0 s) (ok : Bool) : OKeeps s0 (execUnlockEncrypted ok s) := by
  unfold execUnlockEncrypted
  repeat' first
    | with_reducible assumption
    | intro _
    | with_reducible apply OKeeps.of
    | with_reducible apply keeps_flowFails
    | with_reducible apply keeps_flowStep
    | with_reducible apply keeps_challenge
    | with_reducible apply Keeps.fold
    | with_reducible apply Keeps.ite
    | with_reducible apply OKeeps.ite
    | dsimp only
    | split
    | fail_if_no_progress with_reducible refine Keeps.same ?_ rfl rfl
    | fail_if_no_progress with_reducible refine Keeps.more ?_ rfl (Nat.le_add_right _ _) rfl

theorem keeps_fn_execUnlockChannelOpen {s0 s : State} (h : Keeps s0 s) : OKeeps s0 (execUnlockChannelOpen s) := by
  unfold execUnlockChannelOpen
  repeat' first
    | with_reducible assumption
    | intro _
    | with_reducible apply OKeeps.of
    | with_reducible apply keeps_flowStep
    | with_reducible apply keeps_challenge
    | with_reducible apply Keeps.fold
    | with_reducible apply Keeps.ite
    | with_reducible apply OKeeps.ite
    | dsimp only
    | split
    | fail_if_no_progress with_reducible refine Keeps.same ?_ rfl rfl
    | fail_if_no_progress with_reducible refine Keeps.more ?_ rfl (Nat.le_add_right _ _) rfl

theorem keeps_fn_execCredentialSdu {s0 s : State} (h : Keeps s0 s) (bytes : List Byte) : OKeeps s0 (execCredentialSdu bytes s) := by
  unfold execCredentialSdu
  repeat' first
    | with_reducible assumption
    | intro _
    | with_reducible apply OKeeps.of
    | with_reducible apply keeps_useCred
    | with_reducible apply keeps_admits
    | refine keeps_admits_of ?_ (by assumption)
    | with_reducible apply keeps_flowFails
    | with_reducible apply keeps_flowStep
    | with_reducible apply Keeps.fold
    | with_reducible apply Keeps.ite
    | with_reducible apply OKeeps.ite
    | dsimp only
    | split
    | fail_if_no_progress with_reducible refine Keeps.same ?_ rfl rfl
    | fail_if_no_progress with_reducible refine Keeps.more ?_ rfl (Nat.le_add_right _ _) rfl

theorem keeps_fn_execSduTimeout {s0 s : State} (h : Keeps s0 s) : OKeeps s0 (execSduTimeout s) := by
  unfold execSduTimeout
  repeat' first
    | with_reducible assumption
    | intro _
    | with_reducible apply OKeeps.of
    | with_reducible apply keeps_flowFails
    | with_reducible apply Keeps.fold
    | with_reducible apply Keeps.ite
    | with_reducible apply OKeeps.ite
    | dsimp only
    | split
    | fail_if_no_progress with_reducible refine Keeps.same ?_ rfl rfl
    | fail_if_no_progress with_reducible refine Keeps.more ?_ rfl (Nat.le_add_right _ _) rfl

theorem keeps_fn_execChallengeAnswer {s0 s : State} (h : Keeps s0 s) (bytes : List Byte) : OKeeps s0 (execChallengeAnswer bytes s) := by
  unfold execChallengeAnswer
  repeat' first
    | with_reducible assumption
    | intro _
    | with_reducible apply OKeeps.of
    | with_reducible apply keeps_flowFails
    | with_reducible apply keeps_flowStep
    | with_reducible apply keeps_challenge
    | with_reducible apply Keeps.fold
    | with_reducible apply Keeps.ite
    | with_reducible apply OKeeps.ite
    | dsimp only
    | split
    | fail_if_no_progress with_reducible refine Keeps.same ?_ rfl rfl
    | fail_if_no_progress with_reducible refine Keeps.more ?_ rfl (Nat.le_add_right _ _) rfl

theorem keeps_fn_execChallengeTimeout {s0 s : State} (h : Keeps s0 s) : OKeeps s0 (execChallengeTimeout s) := by
  unfold execChallengeTimeout
  repeat' first
    | with_reducible assumption
    | intro _
    | with_reducible apply OKeeps.of
    | with_reducible apply keeps_flowFails
    | with_reducible apply keeps_challenge
    | with_reducible apply Keeps.fold
    | with_reducible apply Keeps.ite
    | with_reducible apply OKeeps.ite
    | dsimp only
    | split
    | fail_if_no_progress with_reducible refine Keeps.same ?_ rfl rfl
    | fail_if_no_progress with_reducible refine Keeps.more ?_ rfl (Nat.le_add_right _ _) rfl

theorem keeps_relayEvent {s0 s : State} (h : Keeps s0 s) (f : Flow) (relay : Nat) (dist : Nat) (rtt : Int) : Keeps s0 (State.relayEvent s f relay dist rtt) := by
  unfold State.relayEvent
  repeat' first
    | with_reducible assumption
    | intro _
    | with_reducible apply keeps_raise
    | with_reducible apply Keeps.fold
    | with_reducible apply Keeps.ite
    | dsimp only
    | split
    | fail_if_no_progress with_reducible refine Keeps.same ?_ rfl rfl
    | fail_if_no_progress with_reducible refine Keeps.more ?_ rfl (Nat.le_add_right _ _) rfl

theorem keeps_cacheCs {s0 s : State} (h : Keeps s0 s) (f : Flow) : Keeps s0 (State.cacheCs s f) := by
  unfold State.cacheCs
  repeat' first
    | with_reducible assumption
    | intro _
    | with_reducible apply keeps_modCred
    | with_reducible apply Keeps.fold
    | with_reducible apply Keeps.ite
    | dsimp only
    | split
    | fail_if_no_progress with_reducible refine Keeps.same ?_ rfl rfl
    | fail_if_no_progress with_reducible refine Keeps.more ?_ rfl (Nat.le_add_right _ _) rfl

theorem keeps_rangingDone {s0 s : State} (h : Keeps s0 s) (f : Flow) (o : CsObs) : Keeps s0 (State.rangingDone s f o) := by
  unfold State.rangingDone
  repeat' first
    | with_reducible assumption
    | intro _
    | with_reducible apply keeps_takeFree
    | refine keeps_takeFree_of ?_ (by assumption)
    | with_reducible apply keeps_issueVerdict
    | with_reducible apply keeps_flowFails
    | with_reducible apply keeps_relayEvent
    | with_reducible apply keeps_cacheCs
    | with_reducible apply Keeps.fold
    | with_reducible apply Keeps.ite
    | dsimp only
    | split
    | fail_if_no_progress with_reducible refine Keeps.same ?_ rfl rfl
    | fail_if_no_progress with_reducible refine Keeps.more ?_ rfl (Nat.le_add_right _ _) rfl

theorem keeps_waitedFlow {s0 s : State} (h : Keeps s0 s) : Keeps s0 (State.waitedFlow s) := by
  unfold State.waitedFlow
  repeat' first
    | with_reducible assumption
    | intro _
    | with_reducible apply keeps_startFlow
    | with_reducible apply keeps_modCred
    | with_reducible apply Keeps.fold
    | with_reducible apply Keeps.ite
    | dsimp only
    | split
    | fail_if_no_progress with_reducible refine Keeps.same ?_ rfl rfl
    | fail_if_no_progress with_reducible refine Keeps.more ?_ rfl (Nat.le_add_right _ _) rfl

theorem keeps_fn_execCsProcedureDone {s0 s : State} (h : Keeps s0 s) (o : CsObs) : OKeeps s0 (execCsProcedureDone o s) := by
  unfold execCsProcedureDone
  repeat' first
    | with_reducible assumption
    | intro _
    | with_reducible apply OKeeps.of
    | with_reducible apply keeps_modAcc
    | with_reducible apply keeps_rangingDone
    | with_reducible apply keeps_waitedFlow
    | with_reducible apply Keeps.fold
    | with_reducible apply Keeps.ite
    | with_reducible apply OKeeps.ite
    | dsimp only
    | split
    | fail_if_no_progress with_reducible refine Keeps.same ?_ rfl rfl
    | fail_if_no_progress with_reducible refine Keeps.more ?_ rfl (Nat.le_add_right _ _) rfl
    | rfl

theorem keeps_fn_bodyAccRange {s0 s : State} (h : Keeps s0 s) (c : CmdEntry) : AKeeps s0 (bodyAccRange c s) := by
  unfold bodyAccRange
  repeat' first
    | with_reducible assumption
    | intro _
    | with_reducible apply AKeeps.checked
    | with_reducible apply AKeeps.ok
    | with_reducible apply AKeeps.part
    | with_reducible apply AKeeps.fail
    | with_reducible apply AKeeps.wait
    | with_reducible apply AKeeps.done
    | with_reducible apply keeps_fault
    | with_reducible apply keeps_useCred
    | with_reducible apply keeps_challenge
    | with_reducible apply Keeps.fold
    | with_reducible apply Keeps.ite
    | with_reducible apply AKeeps.ite
    | dsimp only
    | split
    | fail_if_no_progress with_reducible refine Keeps.same ?_ rfl rfl
    | fail_if_no_progress with_reducible refine Keeps.more ?_ rfl (Nat.le_add_right _ _) rfl

theorem keeps_fn_execAccRange {s0 s : State} (h : Keeps s0 s) (c : CmdEntry) : OKeeps s0 (execAccRange c s) := by
  unfold execAccRange
  repeat' first
    | with_reducible assumption
    | intro _
    | with_reducible apply keeps_runCmd
    | with_reducible apply OKeeps.of
    | with_reducible apply keeps_runCmd
    | with_reducible apply keeps_fn_bodyAccRange
    | with_reducible apply Keeps.fold
    | with_reducible apply Keeps.ite
    | with_reducible apply OKeeps.ite
    | dsimp only
    | split
    | fail_if_no_progress with_reducible refine Keeps.same ?_ rfl rfl
    | fail_if_no_progress with_reducible refine Keeps.more ?_ rfl (Nat.le_add_right _ _) rfl

theorem keeps_fn_execVerdictTw1Retry {s0 s : State} (h : Keeps s0 s) : OKeeps s0 (execVerdictTw1Retry s) := by
  unfold execVerdictTw1Retry
  repeat' first
    | with_reducible assumption
    | intro _
    | with_reducible apply OKeeps.of
    | with_reducible apply keeps_twWait
    | with_reducible apply keeps_modCred
    | with_reducible apply Keeps.fold
    | with_reducible apply Keeps.ite
    | with_reducible apply OKeeps.ite
    | dsimp only
    | split
    | fail_if_no_progress with_reducible refine Keeps.same ?_ rfl rfl
    | fail_if_no_progress with_reducible refine Keeps.more ?_ rfl (Nat.le_add_right _ _) rfl

theorem keeps_flowGone {s0 s : State} (h : Keeps s0 s) : Keeps s0 (State.flowGone s) := by
  unfold State.flowGone
  repeat' first
    | with_reducible assumption
    | intro _
    | with_reducible apply keeps_fn_Answer_done
    | with_reducible apply keeps_stewardSleep
    | with_reducible apply keeps_modCred
    | with_reducible apply keeps_flowFails
    | with_reducible apply Keeps.fold
    | with_reducible apply Keeps.ite
    | dsimp only
    | split
    | fail_if_no_progress with_reducible refine Keeps.same ?_ rfl rfl
    | fail_if_no_progress with_reducible refine Keeps.more ?_ rfl (Nat.le_add_right _ _) rfl

theorem keeps_fn_execUnlockDisconnected {s0 s : State} (h : Keeps s0 s) : OKeeps s0 (execUnlockDisconnected s) := by
  unfold execUnlockDisconnected
  repeat' first
    | with_reducible assumption
    | intro _
    | with_reducible apply OKeeps.of
    | with_reducible apply keeps_flowGone
    | with_reducible apply Keeps.fold
    | with_reducible apply Keeps.ite
    | with_reducible apply OKeeps.ite
    | dsimp only
    | split
    | fail_if_no_progress with_reducible refine Keeps.same ?_ rfl rfl
    | fail_if_no_progress with_reducible refine Keeps.more ?_ rfl (Nat.le_add_right _ _) rfl

theorem keeps_supervision {s0 s : State} (h : Keeps s0 s) : Keeps s0 (State.supervision s) := by
  unfold State.supervision
  repeat' first
    | with_reducible assumption
    | intro _
    | with_reducible apply keeps_flowGone
    | with_reducible apply Keeps.fold
    | with_reducible apply Keeps.ite
    | dsimp only
    | split
    | fail_if_no_progress with_reducible refine Keeps.same ?_ rfl rfl
    | fail_if_no_progress with_reducible refine Keeps.more ?_ rfl (Nat.le_add_right _ _) rfl

theorem keeps_fn_execSupervisionTimeout {s0 s : State} (h : Keeps s0 s) : OKeeps s0 (execSupervisionTimeout s) := by
  unfold execSupervisionTimeout
  repeat' first
    | with_reducible assumption
    | intro _
    | with_reducible apply OKeeps.of
    | with_reducible apply keeps_supervision
    | with_reducible apply Keeps.fold
    | with_reducible apply Keeps.ite
    | with_reducible apply OKeeps.ite
    | dsimp only
    | split
    | fail_if_no_progress with_reducible refine Keeps.same ?_ rfl rfl
    | fail_if_no_progress with_reducible refine Keeps.more ?_ rfl (Nat.le_add_right _ _) rfl

end Sys2Proof.Laws
end

