-- ==== Sys2Proof/Laws/KeepsDma.lean ====
section
/-!
SUPPORT. The operations and meanings of Machine/Dma.lean respect the relation of Keeps.lean.
-/

namespace Sys2Proof.Laws

open Sys2Proof Sys2Proof.Machine

set_option linter.unusedTactic false
set_option linter.unreachableTactic false
set_option linter.unusedVariables false

theorem keeps_hostStore {s0 s : State} (h : Keeps s0 s) (a : Nat) (bs : List Byte) : Keeps s0 (State.hostStore s a bs) := by
  unfold State.hostStore
  repeat' first
    | with_reducible assumption
    | intro _
    | with_reducible apply keeps_post
    | with_reducible apply Keeps.fold
    | with_reducible apply Keeps.ite
    | dsimp only
    | split
    | fail_if_no_progress with_reducible refine Keeps.same ?_ rfl rfl
    | fail_if_no_progress with_reducible refine Keeps.more ?_ rfl (Nat.le_add_right _ _) rfl

/-- A fold over anything that keeps a property. -/
theorem fold_keeps {α β : Type} (p : β → Prop) (g : β → α → β) (l : List α) {b : β} (h : p b) (k : ∀ c x, p c → p (g c x)) :
    p (l.foldl g b) := by
  induction l generalizing b with
  | nil => exact h
  | cons x l ih => exact ih (k b x h)

theorem keeps_Xfer_read {s0 : State} (x : Xfer) (h : Keeps s0 x.s) (free : Nat) (a : Int) (n : Nat) :
    Keeps s0 (x.read free a n).2.s := by
  unfold Xfer.read
  split <;> exact h

theorem keeps_Xfer_write {s0 : State} (x : Xfer) (h : Keeps s0 x.s) (a : Int) (bs : List Byte) : Keeps s0 (x.write a bs).s := by
  unfold Xfer.write
  split
  · exact keeps_hostStore h _ _
  · exact keeps_store h _ _

theorem keeps_Xfer_move {s0 : State} (x : Xfer) (h : Keeps s0 x.s) (free : Nat) (m : Move) : Keeps s0 (x.move free m).s := by
  unfold Xfer.move
  apply fold_keeps (fun y : Xfer => Keeps s0 y.s)
  · exact fold_keeps (fun y : List Byte × Xfer => Keeps s0 y.2.s) _ _ h fun c a k => keeps_Xfer_read c.2 k _ _ _
  · exact fun c p k => keeps_Xfer_write c k _ _

theorem keeps_dmaMoves {s0 s : State} (h : Keeps s0 s) (l : List Move) (hostRead : List Byte) : Keeps s0 (State.dmaMoves s l hostRead) := by
  unfold State.dmaMoves
  exact fold_keeps (fun y : Xfer => Keeps s0 y.s) _ _ (keeps_takeFree h) fun c m k => keeps_Xfer_move c k _ m

theorem keeps_dmaStatus {s0 s : State} (h : Keeps s0 s) (n : Fin 16) (v : Nat) : Keeps s0 (State.dmaStatus s n v) := by
  unfold State.dmaStatus
  repeat' first
    | with_reducible assumption
    | intro _
    | with_reducible apply keeps_store
    | with_reducible apply Keeps.fold
    | with_reducible apply Keeps.ite
    | dsimp only
    | split
    | fail_if_no_progress with_reducible refine Keeps.same ?_ rfl rfl
    | fail_if_no_progress with_reducible refine Keeps.more ?_ rfl (Nat.le_add_right _ _) rfl

theorem keeps_dmaIdle {s0 s : State} (h : Keeps s0 s) (n : Fin 16) : Keeps s0 (State.dmaIdle s n) := by
  unfold State.dmaIdle
  repeat' first
    | with_reducible assumption
    | intro _
    | with_reducible apply keeps_modCh
    | with_reducible apply keeps_finishSlot
    | with_reducible apply Keeps.fold
    | with_reducible apply Keeps.ite
    | dsimp only
    | split
    | fail_if_no_progress with_reducible refine Keeps.same ?_ rfl rfl
    | fail_if_no_progress with_reducible refine Keeps.more ?_ rfl (Nat.le_add_right _ _) rfl

theorem keeps_dmaFollowOn {s0 s : State} (h : Keeps s0 s) (n : Fin 16) : Keeps s0 (State.dmaFollowOn s n) := by
  unfold State.dmaFollowOn
  repeat' first
    | with_reducible assumption
    | intro _
    | with_reducible apply keeps_modCh
    | with_reducible apply keeps_dmaFollow
    | with_reducible apply Keeps.fold
    | with_reducible apply Keeps.ite
    | dsimp only
    | split
    | fail_if_no_progress with_reducible refine Keeps.same ?_ rfl rfl
    | fail_if_no_progress with_reducible refine Keeps.more ?_ rfl (Nat.le_add_right _ _) rfl

theorem keeps_dmaAfter {s0 s : State} (h : Keeps s0 s) (n : Fin 16) : Keeps s0 (State.dmaAfter s n) := by
  unfold State.dmaAfter
  repeat' first
    | with_reducible assumption
    | intro _
    | with_reducible apply keeps_modCh
    | with_reducible apply keeps_dmaArb
    | with_reducible apply keeps_evlPulse
    | with_reducible apply keeps_dmaIdle
    | with_reducible apply keeps_dmaFollowOn
    | with_reducible apply Keeps.fold
    | with_reducible apply Keeps.ite
    | dsimp only
    | split
    | fail_if_no_progress with_reducible refine Keeps.same ?_ rfl rfl
    | fail_if_no_progress with_reducible refine Keeps.more ?_ rfl (Nat.le_add_right _ _) rfl

theorem keeps_dmaWriteBad {s0 s : State} (h : Keeps s0 s) (n : Fin 16) (cause : Nat) : Keeps s0 (State.dmaWriteBad s n cause) := by
  unfold State.dmaWriteBad
  repeat' first
    | with_reducible assumption
    | intro _
    | with_reducible apply keeps_modCh
    | with_reducible apply keeps_bump
    | with_reducible apply keeps_setFlag
    | with_reducible apply keeps_dmaStatus
    | with_reducible apply Keeps.fold
    | with_reducible apply Keeps.ite
    | dsimp only
    | split
    | fail_if_no_progress with_reducible refine Keeps.same ?_ rfl rfl
    | fail_if_no_progress with_reducible refine Keeps.more ?_ rfl (Nat.le_add_right _ _) rfl

theorem keeps_dmaBad {s0 s : State} (h : Keeps s0 s) (n : Fin 16) (cause : Nat) : Keeps s0 (State.dmaBad s n cause) := by
  unfold State.dmaBad
  repeat' first
    | with_reducible assumption
    | intro _
    | with_reducible apply keeps_dmaAfter
    | with_reducible apply keeps_dmaWriteBad
    | with_reducible apply Keeps.fold
    | with_reducible apply Keeps.ite
    | dsimp only
    | split
    | fail_if_no_progress with_reducible refine Keeps.same ?_ rfl rfl
    | fail_if_no_progress with_reducible refine Keeps.more ?_ rfl (Nat.le_add_right _ _) rfl

theorem keeps_fn_execDmaFetch {s0 s : State} (h : Keeps s0 s) (n : Fin 16) : OKeeps s0 (execDmaFetch n s) := by
  unfold execDmaFetch
  repeat' first
    | with_reducible assumption
    | intro _
    | with_reducible apply OKeeps.of
    | with_reducible apply keeps_modCh
    | with_reducible apply keeps_dmaTryStart
    | with_reducible apply keeps_dmaBad
    | with_reducible apply Keeps.fold
    | with_reducible apply Keeps.ite
    | with_reducible apply OKeeps.ite
    | dsimp only
    | split
    | fail_if_no_progress with_reducible refine Keeps.same ?_ rfl rfl
    | fail_if_no_progress with_reducible refine Keeps.more ?_ rfl (Nat.le_add_right _ _) rfl

theorem keeps_dmaFails {s0 s : State} (h : Keeps s0 s) (n : Fin 16) (done : List Move) (hostRead : List Byte) (at_ : Option Int) (write : Bool) (host : Bool) : Keeps s0 (State.dmaFails s n done hostRead at_ write host) := by
  unfold State.dmaFails
  repeat' first
    | with_reducible assumption
    | intro _
    | with_reducible apply keeps_busError
    | with_reducible apply keeps_dmaMoves
    | with_reducible apply keeps_dmaBad
    | with_reducible apply Keeps.fold
    | with_reducible apply Keeps.ite
    | dsimp only
    | split
    | fail_if_no_progress with_reducible refine Keeps.same ?_ rfl rfl
    | fail_if_no_progress with_reducible refine Keeps.more ?_ rfl (Nat.le_add_right _ _) rfl

theorem keeps_dmaOutside {s0 s : State} (h : Keeps s0 s) (n : Fin 16) (done : List Move) (hostRead : List Byte) : Keeps s0 (State.dmaOutside s n done hostRead) := by
  unfold State.dmaOutside
  repeat' first
    | with_reducible assumption
    | intro _
    | with_reducible apply keeps_dmaMoves
    | with_reducible apply keeps_dmaBad
    | with_reducible apply Keeps.fold
    | with_reducible apply Keeps.ite
    | dsimp only
    | split
    | fail_if_no_progress with_reducible refine Keeps.same ?_ rfl rfl
    | fail_if_no_progress with_reducible refine Keeps.more ?_ rfl (Nat.le_add_right _ _) rfl

theorem keeps_fn_execDmaDescComplete {s0 s : State} (h : Keeps s0 s) (n : Fin 16) (hostRead : List Byte) : OKeeps s0 (execDmaDescComplete n hostRead s) := by
  unfold execDmaDescComplete
  repeat' first
    | with_reducible assumption
    | intro _
    | with_reducible apply OKeeps.of
    | with_reducible apply keeps_dmaMoves
    | with_reducible apply keeps_dmaStatus
    | with_reducible apply keeps_dmaAfter
    | with_reducible apply keeps_dmaFails
    | with_reducible apply keeps_dmaOutside
    | with_reducible apply Keeps.fold
    | with_reducible apply Keeps.ite
    | with_reducible apply OKeeps.ite
    | dsimp only
    | split
    | fail_if_no_progress with_reducible refine Keeps.same ?_ rfl rfl
    | fail_if_no_progress with_reducible refine Keeps.more ?_ rfl (Nat.le_add_right _ _) rfl

theorem keeps_fn_execDmaAccessError {s0 s : State} (h : Keeps s0 s) (n : Fin 16) (elements : Nat) (write : Bool) (hostRead : List Byte) : OKeeps s0 (execDmaAccessError n elements write hostRead s) := by
  unfold execDmaAccessError
  repeat' first
    | with_reducible assumption
    | intro _
    | with_reducible apply OKeeps.of
    | with_reducible apply keeps_dmaFails
    | with_reducible apply keeps_dmaOutside
    | with_reducible apply Keeps.fold
    | with_reducible apply Keeps.ite
    | with_reducible apply OKeeps.ite
    | dsimp only
    | split
    | fail_if_no_progress with_reducible refine Keeps.same ?_ rfl rfl
    | fail_if_no_progress with_reducible refine Keeps.more ?_ rfl (Nat.le_add_right _ _) rfl

theorem keeps_fn_execEvlPulse {s0 s : State} (h : Keeps s0 s) (l : Fin 64) : OKeeps s0 (execEvlPulse l s) := by
  unfold execEvlPulse
  repeat' first
    | with_reducible assumption
    | intro _
    | with_reducible apply OKeeps.of
    | with_reducible apply keeps_dmaPulse
    | with_reducible apply Keeps.fold
    | with_reducible apply Keeps.ite
    | with_reducible apply OKeeps.ite
    | dsimp only
    | split
    | fail_if_no_progress with_reducible refine Keeps.same ?_ rfl rfl
    | fail_if_no_progress with_reducible refine Keeps.more ?_ rfl (Nat.le_add_right _ _) rfl

theorem keeps_fn_bodyDmaChain {s0 s : State} (h : Keeps s0 s) (c : CmdEntry) : AKeeps s0 (bodyDmaChain c s) := by
  unfold bodyDmaChain
  repeat' first
    | with_reducible assumption
    | intro _
    | with_reducible apply AKeeps.checked
    | with_reducible apply AKeeps.ok
    | with_reducible apply AKeeps.part
    | with_reducible apply AKeeps.fail
    | with_reducible apply AKeeps.wait
    | with_reducible apply AKeeps.done
    | with_reducible apply keeps_fn_Answer_done
    | with_reducible apply Keeps.fold
    | with_reducible apply Keeps.ite
    | with_reducible apply AKeeps.ite
    | dsimp only
    | split
    | fail_if_no_progress with_reducible refine Keeps.same ?_ rfl rfl
    | fail_if_no_progress with_reducible refine Keeps.more ?_ rfl (Nat.le_add_right _ _) rfl

theorem keeps_fn_execDmaChain {s0 s : State} (h : Keeps s0 s) (c : CmdEntry) : OKeeps s0 (execDmaChain c s) := by
  unfold execDmaChain
  repeat' first
    | with_reducible assumption
    | intro _
    | with_reducible apply keeps_runCmd
    | with_reducible apply OKeeps.of
    | with_reducible apply keeps_runCmd
    | with_reducible apply keeps_fn_bodyDmaChain
    | with_reducible apply Keeps.fold
    | with_reducible apply Keeps.ite
    | with_reducible apply OKeeps.ite
    | dsimp only
    | split
    | fail_if_no_progress with_reducible refine Keeps.same ?_ rfl rfl
    | fail_if_no_progress with_reducible refine Keeps.more ?_ rfl (Nat.le_add_right _ _) rfl

theorem keeps_fn_bodyDmaWrite {s0 s : State} (h : Keeps s0 s) (c : CmdEntry) : AKeeps s0 (bodyDmaWrite c s) := by
  unfold bodyDmaWrite
  repeat' first
    | with_reducible assumption
    | intro _
    | with_reducible apply AKeeps.checked
    | with_reducible apply AKeeps.ok
    | with_reducible apply AKeeps.part
    | with_reducible apply AKeeps.fail
    | with_reducible apply AKeeps.wait
    | with_reducible apply AKeeps.done
    | with_reducible apply keeps_store
    | with_reducible apply keeps_fn_Answer_done
    | with_reducible apply Keeps.fold
    | with_reducible apply Keeps.ite
    | with_reducible apply AKeeps.ite
    | dsimp only
    | split
    | fail_if_no_progress with_reducible refine Keeps.same ?_ rfl rfl
    | fail_if_no_progress with_reducible refine Keeps.more ?_ rfl (Nat.le_add_right _ _) rfl

theorem keeps_fn_execDmaWrite {s0 s : State} (h : Keeps s0 s) (c : CmdEntry) : OKeeps s0 (execDmaWrite c s) := by
  unfold execDmaWrite
  repeat' first
    | with_reducible assumption
    | intro _
    | with_reducible apply keeps_runCmd
    | with_reducible apply OKeeps.of
    | with_reducible apply keeps_runCmd
    | with_reducible apply keeps_fn_bodyDmaWrite
    | with_reducible apply Keeps.fold
    | with_reducible apply Keeps.ite
    | with_reducible apply OKeeps.ite
    | dsimp only
    | split
    | fail_if_no_progress with_reducible refine Keeps.same ?_ rfl rfl
    | fail_if_no_progress with_reducible refine Keeps.more ?_ rfl (Nat.le_add_right _ _) rfl

theorem keeps_fn_bodyDmaStart {s0 s : State} (h : Keeps s0 s) (c : CmdEntry) : AKeeps s0 (bodyDmaStart c s) := by
  unfold bodyDmaStart
  repeat' first
    | with_reducible assumption
    | intro _
    | with_reducible apply AKeeps.checked
    | with_reducible apply AKeeps.ok
    | with_reducible apply AKeeps.part
    | with_reducible apply AKeeps.fail
    | with_reducible apply AKeeps.wait
    | with_reducible apply AKeeps.done
    | with_reducible apply keeps_modCh
    | with_reducible apply keeps_fn_Answer_done
    | with_reducible apply Keeps.fold
    | with_reducible apply Keeps.ite
    | with_reducible apply AKeeps.ite
    | dsimp only
    | split
    | fail_if_no_progress with_reducible refine Keeps.same ?_ rfl rfl
    | fail_if_no_progress with_reducible refine Keeps.more ?_ rfl (Nat.le_add_right _ _) rfl

theorem keeps_fn_execDmaStart {s0 s : State} (h : Keeps s0 s) (c : CmdEntry) : OKeeps s0 (execDmaStart c s) := by
  unfold execDmaStart
  repeat' first
    | with_reducible assumption
    | intro _
    | with_reducible apply keeps_runCmd
    | with_reducible apply OKeeps.of
    | with_reducible apply keeps_runCmd
    | with_reducible apply keeps_fn_bodyDmaStart
    | with_reducible apply Keeps.fold
    | with_reducible apply Keeps.ite
    | with_reducible apply OKeeps.ite
    | dsimp only
    | split
    | fail_if_no_progress with_reducible refine Keeps.same ?_ rfl rfl
    | fail_if_no_progress with_reducible refine Keeps.more ?_ rfl (Nat.le_add_right _ _) rfl

theorem keeps_fn_bodyDmaAppend {s0 s : State} (h : Keeps s0 s) (c : CmdEntry) : AKeeps s0 (bodyDmaAppend c s) := by
  unfold bodyDmaAppend
  repeat' first
    | with_reducible assumption
    | intro _
    | with_reducible apply AKeeps.checked
    | with_reducible apply AKeeps.ok
    | with_reducible apply AKeeps.part
    | with_reducible apply AKeeps.fail
    | with_reducible apply AKeeps.wait
    | with_reducible apply AKeeps.done
    | with_reducible apply keeps_store
    | with_reducible apply keeps_fn_Answer_done
    | with_reducible apply keeps_dmaRing
    | with_reducible apply Keeps.fold
    | with_reducible apply Keeps.ite
    | with_reducible apply AKeeps.ite
    | dsimp only
    | split
    | fail_if_no_progress with_reducible refine Keeps.same ?_ rfl rfl
    | fail_if_no_progress with_reducible refine Keeps.more ?_ rfl (Nat.le_add_right _ _) rfl

theorem keeps_fn_execDmaAppend {s0 s : State} (h : Keeps s0 s) (c : CmdEntry) : OKeeps s0 (execDmaAppend c s) := by
  unfold execDmaAppend
  repeat' first
    | with_reducible assumption
    | intro _
    | with_reducible apply keeps_runCmd
    | with_reducible apply OKeeps.of
    | with_reducible apply keeps_runCmd
    | with_reducible apply keeps_fn_bodyDmaAppend
    | with_reducible apply Keeps.fold
    | with_reducible apply Keeps.ite
    | with_reducible apply OKeeps.ite
    | dsimp only
    | split
    | fail_if_no_progress with_reducible refine Keeps.same ?_ rfl rfl
    | fail_if_no_progress with_reducible refine Keeps.more ?_ rfl (Nat.le_add_right _ _) rfl

theorem keeps_dmaForce {s0 s : State} (h : Keeps s0 s) (n : Fin 16) : Keeps s0 (State.dmaForce s n) := by
  unfold State.dmaForce
  repeat' first
    | with_reducible assumption
    | intro _
    | with_reducible apply keeps_takeFree
    | refine keeps_takeFree_of ?_ (by assumption)
    | with_reducible apply keeps_dmaArb
    | with_reducible apply keeps_dmaMoves
    | with_reducible apply keeps_dmaIdle
    | with_reducible apply keeps_dmaWriteBad
    | with_reducible apply Keeps.fold
    | with_reducible apply Keeps.ite
    | dsimp only
    | split
    | fail_if_no_progress with_reducible refine Keeps.same ?_ rfl rfl
    | fail_if_no_progress with_reducible refine Keeps.more ?_ rfl (Nat.le_add_right _ _) rfl

theorem keeps_fn_bodyDmaStop {s0 s : State} (h : Keeps s0 s) (c : CmdEntry) : AKeeps s0 (bodyDmaStop c s) := by
  unfold bodyDmaStop
  repeat' first
    | with_reducible assumption
    | intro _
    | with_reducible apply AKeeps.checked
    | with_reducible apply AKeeps.ok
    | with_reducible apply AKeeps.part
    | with_reducible apply AKeeps.fail
    | with_reducible apply AKeeps.wait
    | with_reducible apply AKeeps.done
    | with_reducible apply keeps_modCh
    | with_reducible apply keeps_fn_Answer_done
    | with_reducible apply keeps_dmaIdle
    | with_reducible apply keeps_dmaForce
    | with_reducible apply Keeps.fold
    | with_reducible apply Keeps.ite
    | with_reducible apply AKeeps.ite
    | dsimp only
    | split
    | fail_if_no_progress with_reducible refine Keeps.same ?_ rfl rfl
    | fail_if_no_progress with_reducible refine Keeps.more ?_ rfl (Nat.le_add_right _ _) rfl

theorem keeps_fn_execDmaStop {s0 s : State} (h : Keeps s0 s) (c : CmdEntry) : OKeeps s0 (execDmaStop c s) := by
  unfold execDmaStop
  repeat' first
    | with_reducible assumption
    | intro _
    | with_reducible apply keeps_runCmd
    | with_reducible apply OKeeps.of
    | with_reducible apply keeps_runCmd
    | with_reducible apply keeps_fn_bodyDmaStop
    | with_reducible apply Keeps.fold
    | with_reducible apply Keeps.ite
    | with_reducible apply OKeeps.ite
    | dsimp only
    | split
    | fail_if_no_progress with_reducible refine Keeps.same ?_ rfl rfl
    | fail_if_no_progress with_reducible refine Keeps.more ?_ rfl (Nat.le_add_right _ _) rfl

theorem keeps_fn_bodyDmaStatus {s0 s : State} (h : Keeps s0 s) (c : CmdEntry) : AKeeps s0 (bodyDmaStatus c s) := by
  unfold bodyDmaStatus
  repeat' first
    | with_reducible assumption
    | intro _
    | with_reducible apply AKeeps.checked
    | with_reducible apply AKeeps.ok
    | with_reducible apply AKeeps.part
    | with_reducible apply AKeeps.fail
    | with_reducible apply AKeeps.wait
    | with_reducible apply AKeeps.done
    | with_reducible apply Keeps.fold
    | with_reducible apply Keeps.ite
    | with_reducible apply AKeeps.ite
    | dsimp only
    | split
    | fail_if_no_progress with_reducible refine Keeps.same ?_ rfl rfl
    | fail_if_no_progress with_reducible refine Keeps.more ?_ rfl (Nat.le_add_right _ _) rfl

theorem keeps_fn_execDmaStatus {s0 s : State} (h : Keeps s0 s) (c : CmdEntry) : OKeeps s0 (execDmaStatus c s) := by
  unfold execDmaStatus
  repeat' first
    | with_reducible assumption
    | intro _
    | with_reducible apply keeps_runCmd
    | with_reducible apply OKeeps.of
    | with_reducible apply keeps_runCmd
    | with_reducible apply keeps_fn_bodyDmaStatus
    | with_reducible apply Keeps.fold
    | with_reducible apply Keeps.ite
    | with_reducible apply OKeeps.ite
    | dsimp only
    | split
    | fail_if_no_progress with_reducible refine Keeps.same ?_ rfl rfl
    | fail_if_no_progress with_reducible refine Keeps.more ?_ rfl (Nat.le_add_right _ _) rfl

end Sys2Proof.Laws
end

