-- ==== Sys2Proof/Laws/KeepsTwoWire.lean ====
section
/-!
SUPPORT. The operations and meanings of Machine/TwoWire.lean respect the relation of Keeps.lean.
-/

namespace Sys2Proof.Laws

open Sys2Proof Sys2Proof.Machine

set_option linter.unusedTactic false
set_option linter.unreachableTactic false
set_option linter.unusedVariables false

theorem keeps_modTwBlk {s0 s : State} (h : Keeps s0 s) (f : TwBlk → TwBlk) : Keeps s0 (State.modTwBlk s f) := by
  unfold State.modTwBlk
  repeat' first
    | with_reducible assumption
    | intro _
    | with_reducible apply Keeps.fold
    | with_reducible apply Keeps.ite
    | dsimp only
    | split
    | fail_if_no_progress with_reducible refine Keeps.same ?_ rfl rfl
    | fail_if_no_progress with_reducible refine Keeps.more ?_ rfl (Nat.le_add_right _ _) rfl

theorem keeps_fn_bodyTwXfer {s0 s : State} (h : Keeps s0 s) (c : CmdEntry) : AKeeps s0 (bodyTwXfer c s) := by
  unfold bodyTwXfer
  repeat' first
    | with_reducible assumption
    | intro _
    | with_reducible apply AKeeps.checked
    | with_reducible apply AKeeps.ok
    | with_reducible apply AKeeps.part
    | with_reducible apply AKeeps.fail
    | with_reducible apply AKeeps.wait
    | with_reducible apply AKeeps.done
    | with_reducible apply keeps_twWait
    | with_reducible apply Keeps.fold
    | with_reducible apply Keeps.ite
    | with_reducible apply AKeeps.ite
    | dsimp only
    | split
    | fail_if_no_progress with_reducible refine Keeps.same ?_ rfl rfl
    | fail_if_no_progress with_reducible refine Keeps.more ?_ rfl (Nat.le_add_right _ _) rfl

theorem keeps_fn_execTwXfer {s0 s : State} (h : Keeps s0 s) (c : CmdEntry) : OKeeps s0 (execTwXfer c s) := by
  unfold execTwXfer
  repeat' first
    | with_reducible assumption
    | intro _
    | with_reducible apply keeps_runCmd
    | with_reducible apply OKeeps.of
    | with_reducible apply keeps_runCmd
    | with_reducible apply keeps_fn_bodyTwXfer
    | with_reducible apply Keeps.fold
    | with_reducible apply Keeps.ite
    | with_reducible apply OKeeps.ite
    | dsimp only
    | split
    | fail_if_no_progress with_reducible refine Keeps.same ?_ rfl rfl
    | fail_if_no_progress with_reducible refine Keeps.more ?_ rfl (Nat.le_add_right _ _) rfl

theorem keeps_fn_bodyTwBusclear {s0 s : State} (h : Keeps s0 s) (c : CmdEntry) : AKeeps s0 (bodyTwBusclear c s) := by
  unfold bodyTwBusclear
  repeat' first
    | with_reducible assumption
    | intro _
    | with_reducible apply AKeeps.checked
    | with_reducible apply AKeeps.ok
    | with_reducible apply AKeeps.part
    | with_reducible apply AKeeps.fail
    | with_reducible apply AKeeps.wait
    | with_reducible apply AKeeps.done
    | with_reducible apply keeps_twWait
    | with_reducible apply Keeps.fold
    | with_reducible apply Keeps.ite
    | with_reducible apply AKeeps.ite
    | dsimp only
    | split
    | fail_if_no_progress with_reducible refine Keeps.same ?_ rfl rfl
    | fail_if_no_progress with_reducible refine Keeps.more ?_ rfl (Nat.le_add_right _ _) rfl

theorem keeps_fn_execTwBusclear {s0 s : State} (h : Keeps s0 s) (c : CmdEntry) : OKeeps s0 (execTwBusclear c s) := by
  unfold execTwBusclear
  repeat' first
    | with_reducible assumption
    | intro _
    | with_reducible apply keeps_runCmd
    | with_reducible apply OKeeps.of
    | with_reducible apply keeps_runCmd
    | with_reducible apply keeps_fn_bodyTwBusclear
    | with_reducible apply Keeps.fold
    | with_reducible apply Keeps.ite
    | with_reducible apply OKeeps.ite
    | dsimp only
    | split
    | fail_if_no_progress with_reducible refine Keeps.same ?_ rfl rfl
    | fail_if_no_progress with_reducible refine Keeps.more ?_ rfl (Nat.le_add_right _ _) rfl

theorem keeps_busEvent {s0 s : State} (h : Keeps s0 s) (p : Fin 2) (code : Nat) (addr : Byte) (cmd : Byte) (st : Nat) : Keeps s0 (State.busEvent s p code addr cmd st) := by
  unfold State.busEvent
  repeat' first
    | with_reducible assumption
    | intro _
    | with_reducible apply keeps_raise
    | with_reducible apply Keeps.fold
    | with_reducible apply Keeps.ite
    | dsimp only
    | split
    | fail_if_no_progress with_reducible refine Keeps.same ?_ rfl rfl
    | fail_if_no_progress with_reducible refine Keeps.more ?_ rfl (Nat.le_add_right _ _) rfl

theorem keeps_alertEvent {s0 s : State} (h : Keeps s0 s) (p : Fin 2) (code : Nat) (addr : Byte) : Keeps s0 (State.alertEvent s p code addr) := by
  unfold State.alertEvent
  repeat' first
    | with_reducible assumption
    | intro _
    | with_reducible apply keeps_modTw
    | with_reducible apply keeps_bump
    | with_reducible apply keeps_raise
    | with_reducible apply Keeps.fold
    | with_reducible apply Keeps.ite
    | dsimp only
    | split
    | fail_if_no_progress with_reducible refine Keeps.same ?_ rfl rfl
    | fail_if_no_progress with_reducible refine Keeps.more ?_ rfl (Nat.le_add_right _ _) rfl

theorem keeps_passEnds {s0 s : State} (h : Keeps s0 s) (slot : Nat) (r : TwResult) : Keeps s0 (State.passEnds s slot r) := by
  unfold State.passEnds
  repeat' first
    | with_reducible assumption
    | intro _
    | with_reducible apply keeps_finishSlot
    | with_reducible apply Keeps.fold
    | with_reducible apply Keeps.ite
    | dsimp only
    | split
    | fail_if_no_progress with_reducible refine Keeps.same ?_ rfl rfl
    | fail_if_no_progress with_reducible refine Keeps.more ?_ rfl (Nat.le_add_right _ _) rfl

theorem keeps_verdictWritten {s0 s : State} (h : Keeps s0 s) (st : Status) : Keeps s0 (State.verdictWritten s st) := by
  unfold State.verdictWritten
  repeat' first
    | with_reducible assumption
    | intro _
    | with_reducible apply keeps_takeFree
    | refine keeps_takeFree_of ?_ (by assumption)
    | with_reducible apply keeps_modCred
    | with_reducible apply keeps_verdictEvent
    | with_reducible apply Keeps.fold
    | with_reducible apply Keeps.ite
    | dsimp only
    | split
    | fail_if_no_progress with_reducible refine Keeps.same ?_ rfl rfl
    | fail_if_no_progress with_reducible refine Keeps.more ?_ rfl (Nat.le_add_right _ _) rfl

theorem keeps_hostWakeWritten {s0 s : State} (h : Keeps s0 s) (t : TwTxn) (st : Status) : Keeps s0 (State.hostWakeWritten s t st) := by
  unfold State.hostWakeWritten
  repeat' first
    | with_reducible assumption
    | intro _
    | with_reducible apply keeps_modTwBlk
    | with_reducible apply keeps_busEvent
    | with_reducible apply Keeps.fold
    | with_reducible apply Keeps.ite
    | dsimp only
    | split
    | fail_if_no_progress with_reducible refine Keeps.same ?_ rfl rfl
    | fail_if_no_progress with_reducible refine Keeps.more ?_ rfl (Nat.le_add_right _ _) rfl

theorem keeps_voltWritten {s0 s : State} (h : Keeps s0 s) (t : TwTxn) (st : Status) : Keeps s0 (State.voltWritten s t st) := by
  unfold State.voltWritten
  repeat' first
    | with_reducible assumption
    | intro _
    | with_reducible apply keeps_twWait
    | with_reducible apply keeps_modTwBlk
    | with_reducible apply Keeps.fold
    | with_reducible apply Keeps.ite
    | dsimp only
    | split
    | fail_if_no_progress with_reducible refine Keeps.same ?_ rfl rfl
    | fail_if_no_progress with_reducible refine Keeps.more ?_ rfl (Nat.le_add_right _ _) rfl

theorem keeps_alertAnswered {s0 s : State} (h : Keeps s0 s) (p : Fin 2) (r : TwResult) : Keeps s0 (State.alertAnswered s p r) := by
  unfold State.alertAnswered
  repeat' first
    | with_reducible assumption
    | intro _
    | with_reducible apply keeps_modTw
    | with_reducible apply keeps_twWait
    | with_reducible apply keeps_alertEvent
    | with_reducible apply Keeps.fold
    | with_reducible apply Keeps.ite
    | dsimp only
    | split
    | fail_if_no_progress with_reducible refine Keeps.same ?_ rfl rfl
    | fail_if_no_progress with_reducible refine Keeps.more ?_ rfl (Nat.le_add_right _ _) rfl

theorem keeps_dropBody {s0 s : State} (h : Keeps s0 s) : Keeps s0 (State.dropBody s) := by
  unfold State.dropBody
  repeat' first
    | with_reducible assumption
    | intro _
    | with_reducible apply Keeps.fold
    | with_reducible apply Keeps.ite
    | dsimp only
    | split
    | fail_if_no_progress with_reducible refine Keeps.same ?_ rfl rfl
    | fail_if_no_progress with_reducible refine Keeps.more ?_ rfl (Nat.le_add_right _ _) rfl

theorem keeps_bodyRead {s0 s : State} (h : Keeps s0 s) (p : Fin 2) (r : TwResult) : Keeps s0 (State.bodyRead s p r) := by
  unfold State.bodyRead
  repeat' first
    | with_reducible assumption
    | intro _
    | with_reducible apply keeps_bump
    | with_reducible apply keeps_raise
    | with_reducible apply keeps_raiseDeferred
    | with_reducible apply keeps_modTwBlk
    | with_reducible apply keeps_dropBody
    | with_reducible apply Keeps.fold
    | with_reducible apply Keeps.ite
    | dsimp only
    | split
    | fail_if_no_progress with_reducible refine Keeps.same ?_ rfl rfl
    | fail_if_no_progress with_reducible refine Keeps.more ?_ rfl (Nat.le_add_right _ _) rfl

theorem keeps_safeWritten {s0 s : State} (h : Keeps s0 s) (st : Status) : Keeps s0 (State.safeWritten s st) := by
  unfold State.safeWritten
  repeat' first
    | with_reducible assumption
    | intro _
    | with_reducible apply Keeps.fold
    | with_reducible apply Keeps.ite
    | dsimp only
    | split
    | fail_if_no_progress with_reducible refine Keeps.same ?_ rfl rfl
    | fail_if_no_progress with_reducible refine Keeps.more ?_ rfl (Nat.le_add_right _ _) rfl

theorem keeps_twReport {s0 s : State} (h : Keeps s0 s) (p : Fin 2) (t : TwTxn) (r : TwResult) : Keeps s0 (State.twReport s p t r) := by
  unfold State.twReport
  repeat' first
    | with_reducible assumption
    | intro _
    | with_reducible apply keeps_finishSlot
    | with_reducible apply keeps_hostWake
    | with_reducible apply keeps_passEnds
    | with_reducible apply keeps_verdictWritten
    | with_reducible apply keeps_hostWakeWritten
    | with_reducible apply keeps_voltWritten
    | with_reducible apply keeps_alertAnswered
    | with_reducible apply keeps_bodyRead
    | with_reducible apply keeps_safeWritten
    | with_reducible apply Keeps.fold
    | with_reducible apply Keeps.ite
    | dsimp only
    | split
    | fail_if_no_progress with_reducible refine Keeps.same ?_ rfl rfl
    | fail_if_no_progress with_reducible refine Keeps.more ?_ rfl (Nat.le_add_right _ _) rfl

theorem keeps_twAbort {s0 s : State} (h : Keeps s0 s) (p : Fin 2) (st : Status) : Keeps s0 (State.twAbort s p st) := by
  unfold State.twAbort
  repeat' first
    | with_reducible assumption
    | intro _
    | with_reducible apply keeps_modTw
    | with_reducible apply keeps_takeFree
    | refine keeps_takeFree_of ?_ (by assumption)
    | with_reducible apply keeps_twReport
    | with_reducible apply Keeps.fold
    | with_reducible apply Keeps.ite
    | dsimp only
    | split
    | fail_if_no_progress with_reducible refine Keeps.same ?_ rfl rfl
    | fail_if_no_progress with_reducible refine Keeps.more ?_ rfl (Nat.le_add_right _ _) rfl

theorem keeps_twStick {s0 s : State} (h : Keeps s0 s) (p : Fin 2) : Keeps s0 (State.twStick s p) := by
  unfold State.twStick
  repeat' first
    | with_reducible assumption
    | intro _
    | with_reducible apply keeps_modTw
    | with_reducible apply keeps_setFlag
    | with_reducible apply keeps_busEvent
    | with_reducible apply Keeps.fold
    | with_reducible apply Keeps.ite
    | dsimp only
    | split
    | fail_if_no_progress with_reducible refine Keeps.same ?_ rfl rfl
    | fail_if_no_progress with_reducible refine Keeps.more ?_ rfl (Nat.le_add_right _ _) rfl

theorem keeps_twClear {s0 s : State} (h : Keeps s0 s) (p : Fin 2) (c : ClearObs) : Keeps s0 (State.twClear s p c) := by
  unfold State.twClear
  repeat' first
    | with_reducible assumption
    | intro _
    | with_reducible apply keeps_modTw
    | with_reducible apply keeps_setFlagN
    | with_reducible apply keeps_busEvent
    | with_reducible apply keeps_twStick
    | with_reducible apply Keeps.fold
    | with_reducible apply Keeps.ite
    | dsimp only
    | split
    | fail_if_no_progress with_reducible refine Keeps.same ?_ rfl rfl
    | fail_if_no_progress with_reducible refine Keeps.more ?_ rfl (Nat.le_add_right _ _) rfl

theorem keeps_twCheck {s0 s : State} (h : Keeps s0 s) (p : Fin 2) (sdaLow : Bool) (c : ClearObs) : Keeps s0 (State.twCheck s p sdaLow c) := by
  unfold State.twCheck
  repeat' first
    | with_reducible assumption
    | intro _
    | with_reducible apply keeps_modTw
    | with_reducible apply keeps_twClear
    | with_reducible apply Keeps.fold
    | with_reducible apply Keeps.ite
    | dsimp only
    | split
    | fail_if_no_progress with_reducible refine Keeps.same ?_ rfl rfl
    | fail_if_no_progress with_reducible refine Keeps.more ?_ rfl (Nat.le_add_right _ _) rfl

theorem keeps_twGo {s0 s : State} (h : Keeps s0 s) (p : Fin 2) (t : TwTxn) : Keeps s0 (State.twGo s p t) := by
  unfold State.twGo
  repeat' first
    | with_reducible assumption
    | intro _
    | with_reducible apply keeps_modTw
    | with_reducible apply keeps_bump
    | with_reducible apply keeps_message
    | with_reducible apply Keeps.fold
    | with_reducible apply Keeps.ite
    | dsimp only
    | split
    | fail_if_no_progress with_reducible refine Keeps.same ?_ rfl rfl
    | fail_if_no_progress with_reducible refine Keeps.more ?_ rfl (Nat.le_add_right _ _) rfl

theorem keeps_twBegin {s0 s : State} (h : Keeps s0 s) (p : Fin 2) (t : TwTxn) (sdaLow : Bool) (c : ClearObs) : Keeps s0 (State.twBegin s p t sdaLow c) := by
  unfold State.twBegin
  repeat' first
    | with_reducible assumption
    | intro _
    | with_reducible apply keeps_twReport
    | with_reducible apply keeps_twClear
    | with_reducible apply keeps_twCheck
    | with_reducible apply keeps_twGo
    | with_reducible apply Keeps.fold
    | with_reducible apply Keeps.ite
    | dsimp only
    | split
    | fail_if_no_progress with_reducible refine Keeps.same ?_ rfl rfl
    | fail_if_no_progress with_reducible refine Keeps.more ?_ rfl (Nat.le_add_right _ _) rfl

theorem keeps_twBoundary {s0 s : State} (h : Keeps s0 s) (p : Fin 2) (sdaLow : Bool) (c : ClearObs) : Keeps s0 (State.twBoundary s p sdaLow c) := by
  unfold State.twBoundary
  repeat' first
    | with_reducible assumption
    | intro _
    | with_reducible apply keeps_modTw
    | with_reducible apply keeps_twBegin
    | with_reducible apply Keeps.fold
    | with_reducible apply Keeps.ite
    | dsimp only
    | split
    | fail_if_no_progress with_reducible refine Keeps.same ?_ rfl rfl
    | fail_if_no_progress with_reducible refine Keeps.more ?_ rfl (Nat.le_add_right _ _) rfl

theorem keeps_fn_execTwTransactionStart {s0 s : State} (h : Keeps s0 s) (p : Fin 2) (sdaLow : Bool) (c : ClearObs) : OKeeps s0 (execTwTransactionStart p sdaLow c s) := by
  unfold execTwTransactionStart
  repeat' first
    | with_reducible assumption
    | intro _
    | with_reducible apply OKeeps.of
    | with_reducible apply keeps_twBoundary
    | with_reducible apply Keeps.fold
    | with_reducible apply Keeps.ite
    | with_reducible apply OKeeps.ite
    | dsimp only
    | split
    | fail_if_no_progress with_reducible refine Keeps.same ?_ rfl rfl
    | fail_if_no_progress with_reducible refine Keeps.more ?_ rfl (Nat.le_add_right _ _) rfl

theorem keeps_twEnds {s0 s : State} (h : Keeps s0 s) (p : Fin 2) (e : TwEnd) : Keeps s0 (State.twEnds s p e) := by
  unfold State.twEnds
  repeat' first
    | with_reducible assumption
    | intro _
    | with_reducible apply keeps_modTw
    | with_reducible apply keeps_bump
    | with_reducible apply keeps_setFlag
    | with_reducible apply keeps_twReport
    | with_reducible apply Keeps.fold
    | with_reducible apply Keeps.ite
    | dsimp only
    | split
    | fail_if_no_progress with_reducible refine Keeps.same ?_ rfl rfl
    | fail_if_no_progress with_reducible refine Keeps.more ?_ rfl (Nat.le_add_right _ _) rfl

theorem keeps_fn_execTwTransactionEnd {s0 s : State} (h : Keeps s0 s) (p : Fin 2) (e : TwEnd) : OKeeps s0 (execTwTransactionEnd p e s) := by
  unfold execTwTransactionEnd
  repeat' first
    | with_reducible assumption
    | intro _
    | with_reducible apply OKeeps.of
    | with_reducible apply keeps_twEnds
    | with_reducible apply Keeps.fold
    | with_reducible apply Keeps.ite
    | with_reducible apply OKeeps.ite
    | dsimp only
    | split
    | fail_if_no_progress with_reducible refine Keeps.same ?_ rfl rfl
    | fail_if_no_progress with_reducible refine Keeps.more ?_ rfl (Nat.le_add_right _ _) rfl

theorem keeps_fn_execTwArbLost {s0 s : State} (h : Keeps s0 s) (p : Fin 2) : OKeeps s0 (execTwArbLost p s) := by
  unfold execTwArbLost
  repeat' first
    | with_reducible assumption
    | intro _
    | with_reducible apply OKeeps.of
    | with_reducible apply keeps_setFlag
    | with_reducible apply keeps_twAbort
    | with_reducible apply Keeps.fold
    | with_reducible apply Keeps.ite
    | with_reducible apply OKeeps.ite
    | dsimp only
    | split
    | fail_if_no_progress with_reducible refine Keeps.same ?_ rfl rfl
    | fail_if_no_progress with_reducible refine Keeps.more ?_ rfl (Nat.le_add_right _ _) rfl

theorem keeps_fn_execTwBusError {s0 s : State} (h : Keeps s0 s) (p : Fin 2) (sdaLow : Bool) (c : ClearObs) : OKeeps s0 (execTwBusError p sdaLow c s) := by
  unfold execTwBusError
  repeat' first
    | with_reducible assumption
    | intro _
    | with_reducible apply OKeeps.of
    | with_reducible apply keeps_setFlag
    | with_reducible apply keeps_busEvent
    | with_reducible apply keeps_twAbort
    | with_reducible apply keeps_twCheck
    | with_reducible apply Keeps.fold
    | with_reducible apply Keeps.ite
    | with_reducible apply OKeeps.ite
    | dsimp only
    | split
    | fail_if_no_progress with_reducible refine Keeps.same ?_ rfl rfl
    | fail_if_no_progress with_reducible refine Keeps.more ?_ rfl (Nat.le_add_right _ _) rfl

theorem keeps_fn_execTwSclTimeout {s0 s : State} (h : Keeps s0 s) (p : Fin 2) (sdaLow : Bool) (c : ClearObs) : OKeeps s0 (execTwSclTimeout p sdaLow c s) := by
  unfold execTwSclTimeout
  repeat' first
    | with_reducible assumption
    | intro _
    | with_reducible apply OKeeps.of
    | with_reducible apply keeps_setFlag
    | with_reducible apply keeps_busEvent
    | with_reducible apply keeps_twAbort
    | with_reducible apply keeps_twCheck
    | with_reducible apply Keeps.fold
    | with_reducible apply Keeps.ite
    | with_reducible apply OKeeps.ite
    | dsimp only
    | split
    | fail_if_no_progress with_reducible refine Keeps.same ?_ rfl rfl
    | fail_if_no_progress with_reducible refine Keeps.more ?_ rfl (Nat.le_add_right _ _) rfl

theorem keeps_fn_execTwStuckPoll {s0 s : State} (h : Keeps s0 s) (p : Fin 2) (high : Bool) : OKeeps s0 (execTwStuckPoll p high s) := by
  unfold execTwStuckPoll
  repeat' first
    | with_reducible assumption
    | intro _
    | with_reducible apply OKeeps.of
    | with_reducible apply keeps_modTw
    | with_reducible apply Keeps.fold
    | with_reducible apply Keeps.ite
    | with_reducible apply OKeeps.ite
    | dsimp only
    | split
    | fail_if_no_progress with_reducible refine Keeps.same ?_ rfl rfl
    | fail_if_no_progress with_reducible refine Keeps.more ?_ rfl (Nat.le_add_right _ _) rfl

theorem keeps_twNoBus {s0 s : State} (h : Keeps s0 s) (p : Fin 2) : Keeps s0 (State.twNoBus s p) := by
  unfold State.twNoBus
  repeat' first
    | with_reducible assumption
    | intro _
    | with_reducible apply keeps_modTw
    | with_reducible apply keeps_busEvent
    | with_reducible apply keeps_twReport
    | with_reducible apply Keeps.fold
    | with_reducible apply Keeps.ite
    | dsimp only
    | split
    | fail_if_no_progress with_reducible refine Keeps.same ?_ rfl rfl
    | fail_if_no_progress with_reducible refine Keeps.more ?_ rfl (Nat.le_add_right _ _) rfl

theorem keeps_fn_execTwFreeBusTimeout {s0 s : State} (h : Keeps s0 s) (p : Fin 2) : OKeeps s0 (execTwFreeBusTimeout p s) := by
  unfold execTwFreeBusTimeout
  repeat' first
    | with_reducible assumption
    | intro _
    | with_reducible apply OKeeps.of
    | with_reducible apply keeps_twNoBus
    | with_reducible apply Keeps.fold
    | with_reducible apply Keeps.ite
    | with_reducible apply OKeeps.ite
    | dsimp only
    | split
    | fail_if_no_progress with_reducible refine Keeps.same ?_ rfl rfl
    | fail_if_no_progress with_reducible refine Keeps.more ?_ rfl (Nat.le_add_right _ _) rfl

theorem keeps_alertLow {s0 s : State} (h : Keeps s0 s) (p : Fin 2) : Keeps s0 (State.alertLow s p) := by
  unfold State.alertLow
  repeat' first
    | with_reducible assumption
    | intro _
    | with_reducible apply keeps_modTw
    | with_reducible apply keeps_twWait
    | with_reducible apply Keeps.fold
    | with_reducible apply Keeps.ite
    | dsimp only
    | split
    | fail_if_no_progress with_reducible refine Keeps.same ?_ rfl rfl
    | fail_if_no_progress with_reducible refine Keeps.more ?_ rfl (Nat.le_add_right _ _) rfl

theorem keeps_fn_execTwAlert {s0 s : State} (h : Keeps s0 s) (p : Fin 2) : OKeeps s0 (execTwAlert p s) := by
  unfold execTwAlert
  repeat' first
    | with_reducible assumption
    | intro _
    | with_reducible apply OKeeps.of
    | with_reducible apply keeps_alertLow
    | with_reducible apply Keeps.fold
    | with_reducible apply Keeps.ite
    | with_reducible apply OKeeps.ite
    | dsimp only
    | split
    | fail_if_no_progress with_reducible refine Keeps.same ?_ rfl rfl
    | fail_if_no_progress with_reducible refine Keeps.more ?_ rfl (Nat.le_add_right _ _) rfl

theorem keeps_fn_execTwAlertRepeat {s0 s : State} (h : Keeps s0 s) (p : Fin 2) : OKeeps s0 (execTwAlertRepeat p s) := by
  unfold execTwAlertRepeat
  repeat' first
    | with_reducible assumption
    | intro _
    | with_reducible apply OKeeps.of
    | with_reducible apply keeps_alertLow
    | with_reducible apply Keeps.fold
    | with_reducible apply Keeps.ite
    | with_reducible apply OKeeps.ite
    | dsimp only
    | split
    | fail_if_no_progress with_reducible refine Keeps.same ?_ rfl rfl
    | fail_if_no_progress with_reducible refine Keeps.more ?_ rfl (Nat.le_add_right _ _) rfl

theorem keeps_fn_execHostWakeRequest {s0 s : State} (h : Keeps s0 s) : OKeeps s0 (execHostWakeRequest s) := by
  unfold execHostWakeRequest
  repeat' first
    | with_reducible assumption
    | intro _
    | with_reducible apply OKeeps.of
    | with_reducible apply keeps_hostWake
    | with_reducible apply Keeps.fold
    | with_reducible apply Keeps.ite
    | with_reducible apply OKeeps.ite
    | dsimp only
    | split
    | fail_if_no_progress with_reducible refine Keeps.same ?_ rfl rfl
    | fail_if_no_progress with_reducible refine Keeps.more ?_ rfl (Nat.le_add_right _ _) rfl

theorem keeps_hostWakeAgain {s0 s : State} (h : Keeps s0 s) : Keeps s0 (State.hostWakeAgain s) := by
  unfold State.hostWakeAgain
  repeat' first
    | with_reducible assumption
    | intro _
    | with_reducible apply keeps_twWait
    | with_reducible apply keeps_hostWake
    | with_reducible apply keeps_modTwBlk
    | with_reducible apply Keeps.fold
    | with_reducible apply Keeps.ite
    | dsimp only
    | split
    | fail_if_no_progress with_reducible refine Keeps.same ?_ rfl rfl
    | fail_if_no_progress with_reducible refine Keeps.more ?_ rfl (Nat.le_add_right _ _) rfl

theorem keeps_fn_execHostWakeRetry {s0 s : State} (h : Keeps s0 s) : OKeeps s0 (execHostWakeRetry s) := by
  unfold execHostWakeRetry
  repeat' first
    | with_reducible assumption
    | intro _
    | with_reducible apply OKeeps.of
    | with_reducible apply keeps_hostWakeAgain
    | with_reducible apply Keeps.fold
    | with_reducible apply Keeps.ite
    | with_reducible apply OKeeps.ite
    | dsimp only
    | split
    | fail_if_no_progress with_reducible refine Keeps.same ?_ rfl rfl
    | fail_if_no_progress with_reducible refine Keeps.more ?_ rfl (Nat.le_add_right _ _) rfl

end Sys2Proof.Laws
end

