-- ==== Sys2Proof/Laws/KeepsCalib.lean ====
section
/-!
SUPPORT. The operations and meanings of Machine/Calib.lean respect the relation of Keeps.lean.
-/

namespace Sys2Proof.Laws

open Sys2Proof Sys2Proof.Machine

set_option linter.unusedTactic false
set_option linter.unreachableTactic false
set_option linter.unusedVariables false

theorem keeps_modCal {s0 s : State} (h : Keeps s0 s) (f : CalBlk → CalBlk)
    (e : ((f s.cal).eolLocked, (f s.cal).eolGains, (f s.cal).eolCalsrc) = (s.cal.eolLocked, s.cal.eolGains, s.cal.eolCalsrc)) :
    Keeps s0 (State.modCal s f) := by
  simp only [Prod.mk.injEq] at e
  exact h.step ⟨rfl, id, id, le_refl _, ⟨[], rfl⟩, fun _ => rfl, le_refl _, le_refl _, fun _ => rfl,
    fun l => ⟨e.1.trans l, e.2.1, e.2.2⟩⟩

/-- The end-of-line record may change while it is not locked. -/
theorem keeps_modEol {s0 s : State} (h : Keeps s0 s) (f : CalBlk → CalBlk) (e : s.cal.eolLocked = false) :
    Keeps s0 (State.modCal s f) :=
  h.step ⟨rfl, id, id, le_refl _, ⟨[], rfl⟩, fun _ => rfl, le_refl _, le_refl _, fun _ => rfl, fun l => absurd l (by simp [kept, e])⟩

theorem keeps_noteDue {s0 s : State} (h : Keeps s0 s) : Keeps s0 (State.noteDue s) := by
  unfold State.noteDue
  repeat' first
    | with_reducible assumption
    | intro _
    | with_reducible apply keeps_modCal
    | with_reducible apply Keeps.fold
    | with_reducible apply Keeps.ite
    | dsimp only
    | split
    | fail_if_no_progress with_reducible refine Keeps.same ?_ rfl rfl
    | fail_if_no_progress with_reducible refine Keeps.more ?_ rfl (Nat.le_add_right _ _) rfl
    | rfl

theorem keeps_startDue {s0 s : State} (h : Keeps s0 s) : Keeps s0 (State.startDue s) := by
  unfold State.startDue
  repeat' first
    | with_reducible assumption
    | intro _
    | with_reducible apply keeps_calAStart
    | with_reducible apply Keeps.fold
    | with_reducible apply Keeps.ite
    | dsimp only
    | split
    | fail_if_no_progress with_reducible refine Keeps.same ?_ rfl rfl
    | fail_if_no_progress with_reducible refine Keeps.more ?_ rfl (Nat.le_add_right _ _) rfl

theorem keeps_tjSample {s0 s : State} (h : Keeps s0 s) (t : Int) : Keeps s0 (State.tjSample s t) := by
  unfold State.tjSample
  repeat' first
    | with_reducible assumption
    | intro _
    | with_reducible apply keeps_modPwr
    | with_reducible apply keeps_noteDue
    | with_reducible apply keeps_startDue
    | with_reducible apply Keeps.fold
    | with_reducible apply Keeps.ite
    | dsimp only
    | split
    | fail_if_no_progress with_reducible refine Keeps.same ?_ rfl rfl
    | fail_if_no_progress with_reducible refine Keeps.more ?_ rfl (Nat.le_add_right _ _) rfl

theorem keeps_fn_execTjSample {s0 s : State} (h : Keeps s0 s) (t1 : Int) (t2 : Int) : OKeeps s0 (execTjSample t1 t2 s) := by
  unfold execTjSample
  repeat' first
    | with_reducible assumption
    | intro _
    | with_reducible apply OKeeps.of
    | with_reducible apply keeps_tjSample
    | with_reducible apply Keeps.fold
    | with_reducible apply Keeps.ite
    | with_reducible apply OKeeps.ite
    | dsimp only
    | split
    | fail_if_no_progress with_reducible refine Keeps.same ?_ rfl rfl
    | fail_if_no_progress with_reducible refine Keeps.more ?_ rfl (Nat.le_add_right _ _) rfl

theorem keeps_calRunA {s0 s : State} (h : Keeps s0 s) (c : CmdEntry) : AKeeps s0 (State.calRunA s c) := by
  unfold State.calRunA
  repeat' first
    | with_reducible assumption
    | intro _
    | with_reducible apply AKeeps.checked
    | with_reducible apply AKeeps.ok
    | with_reducible apply AKeeps.part
    | with_reducible apply AKeeps.fail
    | with_reducible apply AKeeps.wait
    | with_reducible apply AKeeps.done
    | with_reducible apply keeps_fault
    | with_reducible apply keeps_calAStart
    | with_reducible apply Keeps.fold
    | with_reducible apply Keeps.ite
    | with_reducible apply AKeeps.ite
    | dsimp only
    | split
    | fail_if_no_progress with_reducible refine Keeps.same ?_ rfl rfl
    | fail_if_no_progress with_reducible refine Keeps.more ?_ rfl (Nat.le_add_right _ _) rfl

theorem keeps_calRunB {s0 s : State} (h : Keeps s0 s) (c : CmdEntry) : AKeeps s0 (State.calRunB s c) := by
  unfold State.calRunB
  repeat' first
    | with_reducible assumption
    | intro _
    | with_reducible apply AKeeps.checked
    | with_reducible apply AKeeps.ok
    | with_reducible apply AKeeps.part
    | with_reducible apply AKeeps.fail
    | with_reducible apply AKeeps.wait
    | with_reducible apply AKeeps.done
    | with_reducible apply keeps_fault
    | with_reducible apply keeps_modCal
    | with_reducible apply Keeps.fold
    | with_reducible apply Keeps.ite
    | with_reducible apply AKeeps.ite
    | dsimp only
    | split
    | fail_if_no_progress with_reducible refine Keeps.same ?_ rfl rfl
    | fail_if_no_progress with_reducible refine Keeps.more ?_ rfl (Nat.le_add_right _ _) rfl
    | rfl

theorem keeps_fn_bodyCalRun {s0 s : State} (h : Keeps s0 s) (c : CmdEntry) : AKeeps s0 (bodyCalRun c s) := by
  unfold bodyCalRun
  repeat' first
    | with_reducible assumption
    | intro _
    | with_reducible apply AKeeps.checked
    | with_reducible apply AKeeps.ok
    | with_reducible apply AKeeps.part
    | with_reducible apply AKeeps.fail
    | with_reducible apply AKeeps.wait
    | with_reducible apply AKeeps.done
    | with_reducible apply keeps_calRunA
    | with_reducible apply keeps_calRunB
    | with_reducible apply Keeps.fold
    | with_reducible apply Keeps.ite
    | with_reducible apply AKeeps.ite
    | dsimp only
    | split
    | fail_if_no_progress with_reducible refine Keeps.same ?_ rfl rfl
    | fail_if_no_progress with_reducible refine Keeps.more ?_ rfl (Nat.le_add_right _ _) rfl

theorem keeps_fn_execCalRun {s0 s : State} (h : Keeps s0 s) (c : CmdEntry) : OKeeps s0 (execCalRun c s) := by
  unfold execCalRun
  repeat' first
    | with_reducible assumption
    | intro _
    | with_reducible apply keeps_runCmd
    | with_reducible apply OKeeps.of
    | with_reducible apply keeps_runCmd
    | with_reducible apply keeps_fn_bodyCalRun
    | with_reducible apply Keeps.fold
    | with_reducible apply Keeps.ite
    | with_reducible apply OKeeps.ite
    | dsimp only
    | split
    | fail_if_no_progress with_reducible refine Keeps.same ?_ rfl rfl
    | fail_if_no_progress with_reducible refine Keeps.more ?_ rfl (Nat.le_add_right _ _) rfl

theorem keeps_fn_bodyCalRef {s0 s : State} (h : Keeps s0 s) (c : CmdEntry) (o : CalRefObs) : AKeeps s0 (bodyCalRef c o s) := by
  unfold bodyCalRef
  apply AKeeps.checkedIf
  intro k
  exact AKeeps.ok (keeps_modEol h _ (k (s.cal.eolLocked, .locked, 0) (by simp)))

theorem keeps_fn_execCalRef {s0 s : State} (h : Keeps s0 s) (c : CmdEntry) (o : CalRefObs) : OKeeps s0 (execCalRef c o s) := by
  unfold execCalRef
  repeat' first
    | with_reducible assumption
    | intro _
    | with_reducible apply keeps_runCmd
    | with_reducible apply OKeeps.of
    | with_reducible apply keeps_runCmd
    | with_reducible apply keeps_fn_bodyCalRef
    | with_reducible apply Keeps.fold
    | with_reducible apply Keeps.ite
    | with_reducible apply OKeeps.ite
    | dsimp only
    | split
    | fail_if_no_progress with_reducible refine Keeps.same ?_ rfl rfl
    | fail_if_no_progress with_reducible refine Keeps.more ?_ rfl (Nat.le_add_right _ _) rfl

theorem keeps_fn_bodyCalBoard {s0 s : State} (h : Keeps s0 s) (c : CmdEntry) : AKeeps s0 (bodyCalBoard c s) := by
  unfold bodyCalBoard
  apply AKeeps.checkedIf
  intro k
  exact AKeeps.done (keeps_modEol h _ (k (s.cal.eolLocked, .locked, 0) (by simp)))

theorem keeps_fn_execCalBoard {s0 s : State} (h : Keeps s0 s) (c : CmdEntry) : OKeeps s0 (execCalBoard c s) := by
  unfold execCalBoard
  repeat' first
    | with_reducible assumption
    | intro _
    | with_reducible apply keeps_runCmd
    | with_reducible apply OKeeps.of
    | with_reducible apply keeps_runCmd
    | with_reducible apply keeps_fn_bodyCalBoard
    | with_reducible apply Keeps.fold
    | with_reducible apply Keeps.ite
    | with_reducible apply OKeeps.ite
    | dsimp only
    | split
    | fail_if_no_progress with_reducible refine Keeps.same ?_ rfl rfl
    | fail_if_no_progress with_reducible refine Keeps.more ?_ rfl (Nat.le_add_right _ _) rfl

theorem keeps_setRunA {s0 s : State} (h : Keeps s0 s) (r : CalARun) : Keeps s0 (State.setRunA s r) := by
  unfold State.setRunA
  repeat' first
    | with_reducible assumption
    | intro _
    | with_reducible apply keeps_modHr
    | with_reducible apply keeps_modCal
    | with_reducible apply Keeps.fold
    | with_reducible apply Keeps.ite
    | dsimp only
    | split
    | fail_if_no_progress with_reducible refine Keeps.same ?_ rfl rfl
    | fail_if_no_progress with_reducible refine Keeps.more ?_ rfl (Nat.le_add_right _ _) rfl
    | rfl

theorem keeps_suspectEvent {s0 s : State} (h : Keeps s0 s) (code : Nat) (unit : Nat) (measure : Nat) (lane : Nat) (diff : W) : Keeps s0 (State.suspectEvent s code unit measure lane diff) := by
  unfold State.suspectEvent
  repeat' first
    | with_reducible assumption
    | intro _
    | with_reducible apply keeps_raise
    | with_reducible apply Keeps.fold
    | with_reducible apply Keeps.ite
    | dsimp only
    | split
    | fail_if_no_progress with_reducible refine Keeps.same ?_ rfl rfl
    | fail_if_no_progress with_reducible refine Keeps.more ?_ rfl (Nat.le_add_right _ _) rfl

theorem keeps_endRunA {s0 s : State} (h : Keeps s0 s) (r : CalARun) (st : Status) : Keeps s0 (State.endRunA s r st) := by
  unfold State.endRunA
  repeat' first
    | with_reducible assumption
    | intro _
    | with_reducible apply keeps_finishSlot
    | with_reducible apply Keeps.fold
    | with_reducible apply Keeps.ite
    | dsimp only
    | split
    | fail_if_no_progress with_reducible refine Keeps.same ?_ rfl rfl
    | fail_if_no_progress with_reducible refine Keeps.more ?_ rfl (Nat.le_add_right _ _) rfl

theorem keeps_suspectA {s0 s : State} (h : Keeps s0 s) (r : CalARun) (o : CalAObs) : Keeps s0 (State.suspectA s r o) := by
  unfold State.suspectA
  repeat' first
    | with_reducible assumption
    | intro _
    | with_reducible apply keeps_modHr
    | with_reducible apply keeps_setFlag
    | with_reducible apply keeps_modCal
    | with_reducible apply keeps_suspectEvent
    | with_reducible apply keeps_endRunA
    | with_reducible apply Keeps.fold
    | with_reducible apply Keeps.ite
    | dsimp only
    | split
    | fail_if_no_progress with_reducible refine Keeps.same ?_ rfl rfl
    | fail_if_no_progress with_reducible refine Keeps.more ?_ rfl (Nat.le_add_right _ _) rfl
    | rfl

theorem keeps_stepA {s0 s : State} (h : Keeps s0 s) (r : CalARun) (o : CalAObs) : Keeps s0 (State.stepA s r o) := by
  unfold State.stepA
  repeat' first
    | with_reducible assumption
    | intro _
    | with_reducible apply keeps_laneFailed
    | with_reducible apply keeps_setRunA
    | with_reducible apply keeps_suspectA
    | with_reducible apply Keeps.fold
    | with_reducible apply Keeps.ite
    | dsimp only
    | split
    | fail_if_no_progress with_reducible refine Keeps.same ?_ rfl rfl
    | fail_if_no_progress with_reducible refine Keeps.more ?_ rfl (Nat.le_add_right _ _) rfl

theorem keeps_fn_execCalAStepDone {s0 s : State} (h : Keeps s0 s) (o : CalAObs) : OKeeps s0 (execCalAStepDone o s) := by
  unfold execCalAStepDone
  repeat' first
    | with_reducible assumption
    | intro _
    | with_reducible apply OKeeps.of
    | with_reducible apply keeps_stepA
    | with_reducible apply Keeps.fold
    | with_reducible apply Keeps.ite
    | with_reducible apply OKeeps.ite
    | dsimp only
    | split
    | fail_if_no_progress with_reducible refine Keeps.same ?_ rfl rfl
    | fail_if_no_progress with_reducible refine Keeps.more ?_ rfl (Nat.le_add_right _ _) rfl

theorem keeps_storeA {s0 s : State} (h : Keeps s0 s) (r : CalARun) : Keeps s0 (State.storeA s r) := by
  unfold State.storeA
  repeat' first
    | with_reducible assumption
    | intro _
    | with_reducible apply keeps_raise
    | with_reducible apply keeps_modCal
    | with_reducible apply Keeps.fold
    | with_reducible apply Keeps.ite
    | dsimp only
    | split
    | fail_if_no_progress with_reducible refine Keeps.same ?_ rfl rfl
    | fail_if_no_progress with_reducible refine Keeps.more ?_ rfl (Nat.le_add_right _ _) rfl
    | rfl

theorem keeps_nextHrA {s0 s : State} (h : Keeps s0 s) (r : CalARun) : Keeps s0 (State.nextHrA s r) := by
  unfold State.nextHrA
  repeat' first
    | with_reducible assumption
    | intro _
    | with_reducible apply keeps_setFlag
    | with_reducible apply keeps_calAStart
    | with_reducible apply keeps_endRunA
    | with_reducible apply Keeps.fold
    | with_reducible apply Keeps.ite
    | dsimp only
    | split
    | fail_if_no_progress with_reducible refine Keeps.same ?_ rfl rfl
    | fail_if_no_progress with_reducible refine Keeps.more ?_ rfl (Nat.le_add_right _ _) rfl

theorem keeps_fn_execCalAStore {s0 s : State} (h : Keeps s0 s) : OKeeps s0 (execCalAStore s) := by
  unfold execCalAStore
  repeat' first
    | with_reducible assumption
    | intro _
    | with_reducible apply OKeeps.of
    | with_reducible apply keeps_storeA
    | with_reducible apply keeps_nextHrA
    | with_reducible apply Keeps.fold
    | with_reducible apply Keeps.ite
    | with_reducible apply OKeeps.ite
    | dsimp only
    | split
    | fail_if_no_progress with_reducible refine Keeps.same ?_ rfl rfl
    | fail_if_no_progress with_reducible refine Keeps.more ?_ rfl (Nat.le_add_right _ _) rfl

theorem keeps_useSynth {s0 s : State} (h : Keeps s0 s) (tj : Int) : Keeps s0 (State.useSynth s tj) := by
  unfold State.useSynth
  repeat' first
    | with_reducible assumption
    | intro _
    | with_reducible apply Keeps.fold
    | with_reducible apply Keeps.ite
    | dsimp only
    | split
    | fail_if_no_progress with_reducible refine Keeps.same ?_ rfl rfl
    | fail_if_no_progress with_reducible refine Keeps.more ?_ rfl (Nat.le_add_right _ _) rfl

theorem keeps_storeB {s0 s : State} (h : Keeps s0 s) (r : CalBRun) : Keeps s0 (State.storeB s r) := by
  unfold State.storeB
  repeat' first
    | with_reducible assumption
    | intro _
    | with_reducible apply keeps_raise
    | with_reducible apply keeps_loadDpd
    | with_reducible apply keeps_modCal
    | with_reducible apply keeps_useSynth
    | with_reducible apply Keeps.fold
    | with_reducible apply Keeps.ite
    | dsimp only
    | split
    | fail_if_no_progress with_reducible refine Keeps.same ?_ rfl rfl
    | fail_if_no_progress with_reducible refine Keeps.more ?_ rfl (Nat.le_add_right _ _) rfl
    | rfl

theorem keeps_endRunB {s0 s : State} (h : Keeps s0 s) (r : CalBRun) : Keeps s0 (State.endRunB s r) := by
  unfold State.endRunB
  repeat' first
    | with_reducible assumption
    | intro _
    | with_reducible apply keeps_finishSlot
    | with_reducible apply keeps_calBOver
    | with_reducible apply keeps_storeB
    | with_reducible apply Keeps.fold
    | with_reducible apply Keeps.ite
    | dsimp only
    | split
    | fail_if_no_progress with_reducible refine Keeps.same ?_ rfl rfl
    | fail_if_no_progress with_reducible refine Keeps.more ?_ rfl (Nat.le_add_right _ _) rfl

theorem keeps_nextPartB {s0 s : State} (h : Keeps s0 s) (r : CalBRun) : Keeps s0 (State.nextPartB s r) := by
  unfold State.nextPartB
  repeat' first
    | with_reducible assumption
    | intro _
    | with_reducible apply keeps_modCal
    | with_reducible apply keeps_endRunB
    | with_reducible apply Keeps.fold
    | with_reducible apply Keeps.ite
    | dsimp only
    | split
    | fail_if_no_progress with_reducible refine Keeps.same ?_ rfl rfl
    | fail_if_no_progress with_reducible refine Keeps.more ?_ rfl (Nat.le_add_right _ _) rfl
    | rfl

theorem keeps_partDiff {s0 s : State} (h : Keeps s0 s) (p : Fin 3) (o : CalBObs) : Keeps s0 (State.partDiff s p o).2 := by
  unfold State.partDiff
  split
  · exact h
  · exact keeps_takeFree h

theorem keeps_suspectB {s0 s : State} (h : Keeps s0 s) (r : CalBRun) (p : Fin 3) (o : CalBObs) : Keeps s0 (State.suspectB s r p o) := by
  unfold State.suspectB
  repeat' first
    | with_reducible assumption
    | intro _
    | with_reducible apply keeps_setFlag
    | with_reducible apply keeps_modCal
    | with_reducible apply keeps_suspectEvent
    | with_reducible apply keeps_nextPartB
    | with_reducible apply keeps_partDiff
    | with_reducible apply Keeps.fold
    | with_reducible apply Keeps.ite
    | dsimp only
    | split
    | fail_if_no_progress with_reducible refine Keeps.same ?_ rfl rfl
    | fail_if_no_progress with_reducible refine Keeps.more ?_ rfl (Nat.le_add_right _ _) rfl
    | rfl

theorem keeps_partDoneB {s0 s : State} (h : Keeps s0 s) (r : CalBRun) (o : CalBObs) : Keeps s0 (State.partDoneB s r o) := by
  unfold State.partDoneB
  repeat' first
    | with_reducible assumption
    | intro _
    | with_reducible apply keeps_modCal
    | with_reducible apply keeps_nextPartB
    | with_reducible apply keeps_suspectB
    | with_reducible apply Keeps.fold
    | with_reducible apply Keeps.ite
    | dsimp only
    | split
    | fail_if_no_progress with_reducible refine Keeps.same ?_ rfl rfl
    | fail_if_no_progress with_reducible refine Keeps.more ?_ rfl (Nat.le_add_right _ _) rfl
    | rfl

theorem keeps_fn_execCalBPartDone {s0 s : State} (h : Keeps s0 s) (o : CalBObs) : OKeeps s0 (execCalBPartDone o s) := by
  unfold execCalBPartDone
  repeat' first
    | with_reducible assumption
    | intro _
    | with_reducible apply OKeeps.of
    | with_reducible apply keeps_partDoneB
    | with_reducible apply Keeps.fold
    | with_reducible apply Keeps.ite
    | with_reducible apply OKeeps.ite
    | dsimp only
    | split
    | fail_if_no_progress with_reducible refine Keeps.same ?_ rfl rfl
    | fail_if_no_progress with_reducible refine Keeps.more ?_ rfl (Nat.le_add_right _ _) rfl

end Sys2Proof.Laws
end

