-- ==== Sys2Proof/Laws/KeepsTrust.lean ====
section
/-!
SUPPORT. The operations and meanings of Machine/Trust.lean respect the relation of Keeps.lean.
-/

namespace Sys2Proof.Laws

open Sys2Proof Sys2Proof.Machine

set_option linter.unusedTactic false
set_option linter.unreachableTactic false
set_option linter.unusedVariables false

theorem keeps_modTru {s0 s : State} (h : Keeps s0 s) (f : TruBlk → TruBlk)
    (e : ((f s.tru).svnCtr, (f s.tru).dbg, (f s.tru).oemHash) = (s.tru.svnCtr, s.tru.dbg, s.tru.oemHash)) :
    Keeps s0 (State.modTru s f) := by
  simp only [Prod.mk.injEq] at e
  exact h.step ⟨rfl, id, id, le_refl _, ⟨[], rfl⟩, fun _ => rfl, le_of_eq e.1.symm, le_of_eq (congrArg BitVec.toNat e.2.1.symm),
    fun _ => e.2.2, fun h => ⟨h, rfl, rfl⟩⟩

theorem keeps_beginImage {s0 s : State} (h : Keeps s0 s) (n : Fin 2) : Keeps s0 (State.beginImage s n) := by
  unfold State.beginImage
  repeat' first
    | with_reducible assumption
    | intro _
    | with_reducible apply keeps_modTru
    | with_reducible apply Keeps.fold
    | with_reducible apply Keeps.ite
    | dsimp only
    | split
    | fail_if_no_progress with_reducible refine Keeps.same ?_ rfl rfl
    | fail_if_no_progress with_reducible refine Keeps.more ?_ rfl (Nat.le_add_right _ _) rfl
    | rfl

theorem keeps_fn_bodyTruFwWrite {s0 s : State} (h : Keeps s0 s) (c : CmdEntry) : AKeeps s0 (bodyTruFwWrite c s) := by
  unfold bodyTruFwWrite
  repeat' first
    | with_reducible assumption
    | intro _
    | with_reducible apply AKeeps.checked
    | with_reducible apply AKeeps.ok
    | with_reducible apply AKeeps.part
    | with_reducible apply AKeeps.fail
    | with_reducible apply AKeeps.wait
    | with_reducible apply AKeeps.done
    | with_reducible apply keeps_fn_Answer_done
    | with_reducible apply keeps_modTru
    | with_reducible apply keeps_beginImage
    | with_reducible apply Keeps.fold
    | with_reducible apply Keeps.ite
    | with_reducible apply AKeeps.ite
    | dsimp only
    | split
    | fail_if_no_progress with_reducible refine Keeps.same ?_ rfl rfl
    | fail_if_no_progress with_reducible refine Keeps.more ?_ rfl (Nat.le_add_right _ _) rfl
    | rfl

theorem keeps_fn_execTruFwWrite {s0 s : State} (h : Keeps s0 s) (c : CmdEntry) : OKeeps s0 (execTruFwWrite c s) := by
  unfold execTruFwWrite
  repeat' first
    | with_reducible assumption
    | intro _
    | with_reducible apply keeps_runCmd
    | with_reducible apply OKeeps.of
    | with_reducible apply keeps_runCmd
    | with_reducible apply keeps_fn_bodyTruFwWrite
    | with_reducible apply Keeps.fold
    | with_reducible apply Keeps.ite
    | with_reducible apply OKeeps.ite
    | dsimp only
    | split
    | fail_if_no_progress with_reducible refine Keeps.same ?_ rfl rfl
    | fail_if_no_progress with_reducible refine Keeps.more ?_ rfl (Nat.le_add_right _ _) rfl

theorem keeps_fn_bodyTruFwCommit {s0 s : State} (h : Keeps s0 s) (c : CmdEntry) : AKeeps s0 (bodyTruFwCommit c s) := by
  unfold bodyTruFwCommit
  repeat' first
    | with_reducible assumption
    | intro _
    | with_reducible apply AKeeps.checked
    | with_reducible apply AKeeps.ok
    | with_reducible apply AKeeps.part
    | with_reducible apply AKeeps.fail
    | with_reducible apply AKeeps.wait
    | with_reducible apply AKeeps.done
    | with_reducible apply keeps_modTru
    | with_reducible apply Keeps.fold
    | with_reducible apply Keeps.ite
    | with_reducible apply AKeeps.ite
    | dsimp only
    | split
    | fail_if_no_progress with_reducible refine Keeps.same ?_ rfl rfl
    | fail_if_no_progress with_reducible refine Keeps.more ?_ rfl (Nat.le_add_right _ _) rfl
    | rfl

theorem keeps_fn_execTruFwCommit {s0 s : State} (h : Keeps s0 s) (c : CmdEntry) : OKeeps s0 (execTruFwCommit c s) := by
  unfold execTruFwCommit
  repeat' first
    | with_reducible assumption
    | intro _
    | with_reducible apply keeps_runCmd
    | with_reducible apply OKeeps.of
    | with_reducible apply keeps_runCmd
    | with_reducible apply keeps_fn_bodyTruFwCommit
    | with_reducible apply Keeps.fold
    | with_reducible apply Keeps.ite
    | with_reducible apply OKeeps.ite
    | dsimp only
    | split
    | fail_if_no_progress with_reducible refine Keeps.same ?_ rfl rfl
    | fail_if_no_progress with_reducible refine Keeps.more ?_ rfl (Nat.le_add_right _ _) rfl

theorem keeps_fn_bodyTruFwConfirm {s0 s : State} (h : Keeps s0 s) (c : CmdEntry) : AKeeps s0 (bodyTruFwConfirm c s) := by
  unfold bodyTruFwConfirm
  repeat' first
    | with_reducible assumption
    | intro _
    | with_reducible apply AKeeps.checked
    | with_reducible apply AKeeps.ok
    | with_reducible apply AKeeps.part
    | with_reducible apply AKeeps.fail
    | with_reducible apply AKeeps.wait
    | with_reducible apply AKeeps.done
    | with_reducible apply keeps_fn_Answer_done
    | with_reducible apply keeps_modTru
    | with_reducible apply Keeps.fold
    | with_reducible apply Keeps.ite
    | with_reducible apply AKeeps.ite
    | dsimp only
    | split
    | fail_if_no_progress with_reducible refine Keeps.same ?_ rfl rfl
    | fail_if_no_progress with_reducible refine Keeps.more ?_ rfl (Nat.le_add_right _ _) rfl
    | rfl

theorem keeps_fn_execTruFwConfirm {s0 s : State} (h : Keeps s0 s) (c : CmdEntry) : OKeeps s0 (execTruFwConfirm c s) := by
  unfold execTruFwConfirm
  repeat' first
    | with_reducible assumption
    | intro _
    | with_reducible apply keeps_runCmd
    | with_reducible apply OKeeps.of
    | with_reducible apply keeps_runCmd
    | with_reducible apply keeps_fn_bodyTruFwConfirm
    | with_reducible apply Keeps.fold
    | with_reducible apply Keeps.ite
    | with_reducible apply OKeeps.ite
    | dsimp only
    | split
    | fail_if_no_progress with_reducible refine Keeps.same ?_ rfl rfl
    | fail_if_no_progress with_reducible refine Keeps.more ?_ rfl (Nat.le_add_right _ _) rfl

theorem keeps_fn_bodyTruSvnAdvance {s0 s : State} (h : Keeps s0 s) (c : CmdEntry) : AKeeps s0 (bodyTruSvnAdvance c s) := by
  unfold bodyTruSvnAdvance
  apply AKeeps.checked
  apply AKeeps.ok
  apply keeps_raise
  exact h.step ⟨rfl, id, id, le_refl _, ⟨[], rfl⟩, fun _ => rfl, le_max_left _ _, le_refl _, fun _ => rfl, fun h => ⟨h, rfl, rfl⟩⟩

theorem keeps_fn_execTruSvnAdvance {s0 s : State} (h : Keeps s0 s) (c : CmdEntry) : OKeeps s0 (execTruSvnAdvance c s) := by
  unfold execTruSvnAdvance
  repeat' first
    | with_reducible assumption
    | intro _
    | with_reducible apply keeps_runCmd
    | with_reducible apply OKeeps.of
    | with_reducible apply keeps_runCmd
    | with_reducible apply keeps_fn_bodyTruSvnAdvance
    | with_reducible apply Keeps.fold
    | with_reducible apply Keeps.ite
    | with_reducible apply OKeeps.ite
    | dsimp only
    | split
    | fail_if_no_progress with_reducible refine Keeps.same ?_ rfl rfl
    | fail_if_no_progress with_reducible refine Keeps.more ?_ rfl (Nat.le_add_right _ _) rfl

theorem keeps_fn_bodyTruAttest {s0 s : State} (h : Keeps s0 s) (c : CmdEntry) : AKeeps s0 (bodyTruAttest c s) := by
  unfold bodyTruAttest
  repeat' first
    | with_reducible assumption
    | intro _
    | with_reducible apply AKeeps.checked
    | with_reducible apply AKeeps.ok
    | with_reducible apply AKeeps.part
    | with_reducible apply AKeeps.fail
    | with_reducible apply AKeeps.wait
    | with_reducible apply AKeeps.done
    | with_reducible apply keeps_takeFree
    | refine keeps_takeFree_of ?_ (by assumption)
    | with_reducible apply keeps_modTru
    | with_reducible apply Keeps.fold
    | with_reducible apply Keeps.ite
    | with_reducible apply AKeeps.ite
    | dsimp only
    | split
    | fail_if_no_progress with_reducible refine Keeps.same ?_ rfl rfl
    | fail_if_no_progress with_reducible refine Keeps.more ?_ rfl (Nat.le_add_right _ _) rfl
    | rfl

theorem keeps_fn_execTruAttest {s0 s : State} (h : Keeps s0 s) (c : CmdEntry) : OKeeps s0 (execTruAttest c s) := by
  unfold execTruAttest
  repeat' first
    | with_reducible assumption
    | intro _
    | with_reducible apply keeps_runCmd
    | with_reducible apply OKeeps.of
    | with_reducible apply keeps_runCmd
    | with_reducible apply keeps_fn_bodyTruAttest
    | with_reducible apply Keeps.fold
    | with_reducible apply Keeps.ite
    | with_reducible apply OKeeps.ite
    | dsimp only
    | split
    | fail_if_no_progress with_reducible refine Keeps.same ?_ rfl rfl
    | fail_if_no_progress with_reducible refine Keeps.more ?_ rfl (Nat.le_add_right _ _) rfl

theorem keeps_fn_bodyTruCert {s0 s : State} (h : Keeps s0 s) (c : CmdEntry) : AKeeps s0 (bodyTruCert c s) := by
  unfold bodyTruCert
  repeat' first
    | with_reducible assumption
    | intro _
    | with_reducible apply AKeeps.checked
    | with_reducible apply AKeeps.ok
    | with_reducible apply AKeeps.part
    | with_reducible apply AKeeps.fail
    | with_reducible apply AKeeps.wait
    | with_reducible apply AKeeps.done
    | with_reducible apply Keeps.fold
    | with_reducible apply Keeps.ite
    | with_reducible apply AKeeps.ite
    | dsimp only
    | split
    | fail_if_no_progress with_reducible refine Keeps.same ?_ rfl rfl
    | fail_if_no_progress with_reducible refine Keeps.more ?_ rfl (Nat.le_add_right _ _) rfl

theorem keeps_fn_execTruCert {s0 s : State} (h : Keeps s0 s) (c : CmdEntry) : OKeeps s0 (execTruCert c s) := by
  unfold execTruCert
  repeat' first
    | with_reducible assumption
    | intro _
    | with_reducible apply keeps_runCmd
    | with_reducible apply OKeeps.of
    | with_reducible apply keeps_runCmd
    | with_reducible apply keeps_fn_bodyTruCert
    | with_reducible apply Keeps.fold
    | with_reducible apply Keeps.ite
    | with_reducible apply OKeeps.ite
    | dsimp only
    | split
    | fail_if_no_progress with_reducible refine Keeps.same ?_ rfl rfl
    | fail_if_no_progress with_reducible refine Keeps.more ?_ rfl (Nat.le_add_right _ _) rfl

theorem keeps_fn_bodyTruPubkey {s0 s : State} (h : Keeps s0 s) (c : CmdEntry) : AKeeps s0 (bodyTruPubkey c s) := by
  unfold bodyTruPubkey
  repeat' first
    | with_reducible assumption
    | intro _
    | with_reducible apply AKeeps.checked
    | with_reducible apply AKeeps.ok
    | with_reducible apply AKeeps.part
    | with_reducible apply AKeeps.fail
    | with_reducible apply AKeeps.wait
    | with_reducible apply AKeeps.done
    | with_reducible apply Keeps.fold
    | with_reducible apply Keeps.ite
    | with_reducible apply AKeeps.ite
    | dsimp only
    | split
    | fail_if_no_progress with_reducible refine Keeps.same ?_ rfl rfl
    | fail_if_no_progress with_reducible refine Keeps.more ?_ rfl (Nat.le_add_right _ _) rfl

theorem keeps_fn_execTruPubkey {s0 s : State} (h : Keeps s0 s) (c : CmdEntry) : OKeeps s0 (execTruPubkey c s) := by
  unfold execTruPubkey
  repeat' first
    | with_reducible assumption
    | intro _
    | with_reducible apply keeps_runCmd
    | with_reducible apply OKeeps.of
    | with_reducible apply keeps_runCmd
    | with_reducible apply keeps_fn_bodyTruPubkey
    | with_reducible apply Keeps.fold
    | with_reducible apply Keeps.ite
    | with_reducible apply OKeeps.ite
    | dsimp only
    | split
    | fail_if_no_progress with_reducible refine Keeps.same ?_ rfl rfl
    | fail_if_no_progress with_reducible refine Keeps.more ?_ rfl (Nat.le_add_right _ _) rfl

theorem keeps_debugEvent {s0 s : State} (h : Keeps s0 s) (code : Nat) : Keeps s0 (State.debugEvent s code) := by
  unfold State.debugEvent
  repeat' first
    | with_reducible assumption
    | intro _
    | with_reducible apply keeps_raise
    | with_reducible apply Keeps.fold
    | with_reducible apply Keeps.ite
    | dsimp only
    | split
    | fail_if_no_progress with_reducible refine Keeps.same ?_ rfl rfl
    | fail_if_no_progress with_reducible refine Keeps.more ?_ rfl (Nat.le_add_right _ _) rfl

theorem keeps_debugChallenge {s0 s : State} (h : Keeps s0 s) : AKeeps s0 (State.debugChallenge s) := by
  unfold State.debugChallenge
  repeat' first
    | with_reducible assumption
    | intro _
    | with_reducible apply AKeeps.checked
    | with_reducible apply AKeeps.ok
    | with_reducible apply AKeeps.part
    | with_reducible apply AKeeps.fail
    | with_reducible apply AKeeps.wait
    | with_reducible apply AKeeps.done
    | with_reducible apply keeps_takeFree
    | refine keeps_takeFree_of ?_ (by assumption)
    | with_reducible apply keeps_modTru
    | with_reducible apply keeps_debugEvent
    | with_reducible apply Keeps.fold
    | with_reducible apply Keeps.ite
    | with_reducible apply AKeeps.ite
    | dsimp only
    | split
    | fail_if_no_progress with_reducible refine Keeps.same ?_ rfl rfl
    | fail_if_no_progress with_reducible refine Keeps.more ?_ rfl (Nat.le_add_right _ _) rfl
    | rfl

theorem keeps_debugOpened {s0 s : State} (h : Keeps s0 s) : Keeps s0 (State.debugOpened s) := by
  unfold State.debugOpened
  repeat' first
    | with_reducible assumption
    | intro _
    | with_reducible apply keeps_setFlag
    | with_reducible apply keeps_modTru
    | with_reducible apply Keeps.fold
    | with_reducible apply Keeps.ite
    | dsimp only
    | split
    | fail_if_no_progress with_reducible refine Keeps.same ?_ rfl rfl
    | fail_if_no_progress with_reducible refine Keeps.more ?_ rfl (Nat.le_add_right _ _) rfl
    | rfl

theorem keeps_debugResponse {s0 s : State} (h : Keeps s0 s) (sig : List Byte) : AKeeps s0 (State.debugResponse s sig) := by
  unfold State.debugResponse
  repeat' first
    | with_reducible assumption
    | intro _
    | with_reducible apply AKeeps.checked
    | with_reducible apply AKeeps.ok
    | with_reducible apply AKeeps.part
    | with_reducible apply AKeeps.fail
    | with_reducible apply AKeeps.wait
    | with_reducible apply AKeeps.done
    | with_reducible apply keeps_setFlag
    | with_reducible apply keeps_fn_Answer_done
    | with_reducible apply keeps_modTru
    | with_reducible apply keeps_debugEvent
    | with_reducible apply keeps_debugOpened
    | with_reducible apply Keeps.fold
    | with_reducible apply Keeps.ite
    | with_reducible apply AKeeps.ite
    | dsimp only
    | split
    | fail_if_no_progress with_reducible refine Keeps.same ?_ rfl rfl
    | fail_if_no_progress with_reducible refine Keeps.more ?_ rfl (Nat.le_add_right _ _) rfl
    | rfl

theorem keeps_debugFuse {s0 s : State} (h : Keeps s0 s) (to_ : BitVec 2) : AKeeps s0 (State.debugFuse s to_) := by
  unfold State.debugFuse
  split
  · rename_i l
    apply AKeeps.done
    exact h.step ⟨rfl, id, id, le_refl _, ⟨[], rfl⟩, fun _ => rfl, le_refl _, le_of_lt l, fun _ => rfl, fun h => ⟨h, rfl, rfl⟩⟩
  · exact AKeeps.fail

theorem keeps_fn_bodyTruDebug {s0 s : State} (h : Keeps s0 s) (c : CmdEntry) : AKeeps s0 (bodyTruDebug c s) := by
  unfold bodyTruDebug
  repeat' first
    | with_reducible assumption
    | intro _
    | with_reducible apply AKeeps.checked
    | with_reducible apply AKeeps.ok
    | with_reducible apply AKeeps.part
    | with_reducible apply AKeeps.fail
    | with_reducible apply AKeeps.wait
    | with_reducible apply AKeeps.done
    | with_reducible apply keeps_debugChallenge
    | with_reducible apply keeps_debugResponse
    | with_reducible apply keeps_debugFuse
    | with_reducible apply Keeps.fold
    | with_reducible apply Keeps.ite
    | with_reducible apply AKeeps.ite
    | dsimp only
    | split
    | fail_if_no_progress with_reducible refine Keeps.same ?_ rfl rfl
    | fail_if_no_progress with_reducible refine Keeps.more ?_ rfl (Nat.le_add_right _ _) rfl

theorem keeps_fn_execTruDebug {s0 s : State} (h : Keeps s0 s) (c : CmdEntry) : OKeeps s0 (execTruDebug c s) := by
  unfold execTruDebug
  repeat' first
    | with_reducible assumption
    | intro _
    | with_reducible apply keeps_runCmd
    | with_reducible apply OKeeps.of
    | with_reducible apply keeps_runCmd
    | with_reducible apply keeps_fn_bodyTruDebug
    | with_reducible apply Keeps.fold
    | with_reducible apply Keeps.ite
    | with_reducible apply OKeeps.ite
    | dsimp only
    | split
    | fail_if_no_progress with_reducible refine Keeps.same ?_ rfl rfl
    | fail_if_no_progress with_reducible refine Keeps.more ?_ rfl (Nat.le_add_right _ _) rfl

theorem keeps_fn_bodyTruOemKey {s0 s : State} (h : Keeps s0 s) (c : CmdEntry) : AKeeps s0 (bodyTruOemKey c s) := by
  unfold bodyTruOemKey
  apply AKeeps.checkedIf
  intro k
  have e : s.tru.oemHash.isSome = false := k (s.tru.oemHash.isSome, .locked, 0) (by simp)
  apply AKeeps.done
  exact h.step ⟨rfl, id, id, le_refl _, ⟨[], rfl⟩, fun _ => rfl, le_refl _, le_refl _, fun l => absurd l (by simp [kept, e]),
    fun h => ⟨h, rfl, rfl⟩⟩

theorem keeps_fn_execTruOemKey {s0 s : State} (h : Keeps s0 s) (c : CmdEntry) : OKeeps s0 (execTruOemKey c s) := by
  unfold execTruOemKey
  repeat' first
    | with_reducible assumption
    | intro _
    | with_reducible apply keeps_runCmd
    | with_reducible apply OKeeps.of
    | with_reducible apply keeps_runCmd
    | with_reducible apply keeps_fn_bodyTruOemKey
    | with_reducible apply Keeps.fold
    | with_reducible apply Keeps.ite
    | with_reducible apply OKeeps.ite
    | dsimp only
    | split
    | fail_if_no_progress with_reducible refine Keeps.same ?_ rfl rfl
    | fail_if_no_progress with_reducible refine Keeps.more ?_ rfl (Nat.le_add_right _ _) rfl

theorem keeps_fn_execDebugChallengeExpiry {s0 s : State} (h : Keeps s0 s) : OKeeps s0 (execDebugChallengeExpiry s) := by
  unfold execDebugChallengeExpiry
  repeat' first
    | with_reducible assumption
    | intro _
    | with_reducible apply OKeeps.of
    | with_reducible apply keeps_challenge
    | with_reducible apply keeps_modTru
    | with_reducible apply Keeps.fold
    | with_reducible apply Keeps.ite
    | with_reducible apply OKeeps.ite
    | dsimp only
    | split
    | fail_if_no_progress with_reducible refine Keeps.same ?_ rfl rfl
    | fail_if_no_progress with_reducible refine Keeps.more ?_ rfl (Nat.le_add_right _ _) rfl
    | rfl

theorem keeps_fn_execDebugPortAccess {s0 s : State} (h : Keeps s0 s) : OKeeps s0 (execDebugPortAccess s) := by
  unfold execDebugPortAccess
  repeat' first
    | with_reducible assumption
    | intro _
    | with_reducible apply OKeeps.of
    | with_reducible apply keeps_debugOpened
    | with_reducible apply Keeps.fold
    | with_reducible apply Keeps.ite
    | with_reducible apply OKeeps.ite
    | dsimp only
    | split
    | fail_if_no_progress with_reducible refine Keeps.same ?_ rfl rfl
    | fail_if_no_progress with_reducible refine Keeps.more ?_ rfl (Nat.le_add_right _ _) rfl

theorem keeps_setResult {s0 s : State} (h : Keeps s0 s) (n : Fin 2) (code : Nat) : Keeps s0 (State.setResult s n code) := by
  unfold State.setResult
  repeat' first
    | with_reducible assumption
    | intro _
    | with_reducible apply keeps_modTru
    | with_reducible apply Keeps.fold
    | with_reducible apply Keeps.ite
    | dsimp only
    | split
    | fail_if_no_progress with_reducible refine Keeps.same ?_ rfl rfl
    | fail_if_no_progress with_reducible refine Keeps.more ?_ rfl (Nat.le_add_right _ _) rfl
    | rfl

theorem keeps_bootEvent {s0 s : State} (h : Keeps s0 s) (code : Nat) (slot : Nat) : Keeps s0 (State.bootEvent s code slot) := by
  unfold State.bootEvent
  repeat' first
    | with_reducible assumption
    | intro _
    | with_reducible apply keeps_raiseDeferred
    | with_reducible apply Keeps.fold
    | with_reducible apply Keeps.ite
    | dsimp only
    | split
    | fail_if_no_progress with_reducible refine Keeps.same ?_ rfl rfl
    | fail_if_no_progress with_reducible refine Keeps.more ?_ rfl (Nat.le_add_right _ _) rfl

theorem keeps_startSlot {s0 s : State} (h : Keeps s0 s) (n : Fin 2) (code : Nat) : Keeps s0 (State.startSlot s n code) := by
  unfold State.startSlot
  repeat' first
    | with_reducible assumption
    | intro _
    | with_reducible apply keeps_setFlag
    | with_reducible apply keeps_modTru
    | with_reducible apply keeps_setResult
    | with_reducible apply keeps_bootEvent
    | with_reducible apply Keeps.fold
    | with_reducible apply Keeps.ite
    | dsimp only
    | split
    | fail_if_no_progress with_reducible refine Keeps.same ?_ rfl rfl
    | fail_if_no_progress with_reducible refine Keeps.more ?_ rfl (Nat.le_add_right _ _) rfl
    | rfl

theorem keeps_enterRecovery {s0 s : State} (h : Keeps s0 s) : Keeps s0 (State.enterRecovery s) := by
  unfold State.enterRecovery
  repeat' first
    | with_reducible assumption
    | intro _
    | with_reducible apply keeps_bootEvent
    | with_reducible apply Keeps.fold
    | with_reducible apply Keeps.ite
    | dsimp only
    | split
    | fail_if_no_progress with_reducible refine Keeps.same ?_ rfl rfl
    | fail_if_no_progress with_reducible refine Keeps.more ?_ rfl (Nat.le_add_right _ _) rfl

theorem keeps_runBoot {s0 s : State} (h : Keeps s0 s) : Keeps s0 (State.runBoot s) := by
  unfold State.runBoot
  repeat' first
    | with_reducible assumption
    | intro _
    | with_reducible apply keeps_modTru
    | with_reducible apply keeps_setResult
    | with_reducible apply keeps_startSlot
    | with_reducible apply keeps_enterRecovery
    | with_reducible apply Keeps.fold
    | with_reducible apply Keeps.ite
    | dsimp only
    | split
    | fail_if_no_progress with_reducible refine Keeps.same ?_ rfl rfl
    | fail_if_no_progress with_reducible refine Keeps.more ?_ rfl (Nat.le_add_right _ _) rfl
    | rfl

end Sys2Proof.Laws
end

