-- ==== Sys2Proof/Laws/KeepsWaling.lean ====
section
/-!
SUPPORT. The operations and meanings of Machine/Waling.lean respect the relation of Keeps.lean.
-/

namespace Sys2Proof.Laws

open Sys2Proof Sys2Proof.Machine

set_option linter.unusedTactic false
set_option linter.unreachableTactic false
set_option linter.unusedVariables false

theorem keeps_eccFound {s0 s : State} (h : Keeps s0 s) (a : Nat) (correctable : Bool) : Keeps s0 (State.eccFound s a correctable) := by
  unfold State.eccFound
  repeat' first
    | with_reducible assumption
    | intro _
    | with_reducible apply keeps_offWake
    | with_reducible apply keeps_fault
    | with_reducible apply Keeps.fold
    | with_reducible apply Keeps.ite
    | dsimp only
    | split
    | fail_if_no_progress with_reducible refine Keeps.same ?_ rfl rfl
    | fail_if_no_progress with_reducible refine Keeps.more ?_ rfl (Nat.le_add_right _ _) rfl

theorem keeps_fn_execMemScrub {s0 s : State} (h : Keeps s0 s) (addr : W) (bitsInError : Nat) : OKeeps s0 (execMemScrub addr bitsInError s) := by
  unfold execMemScrub
  repeat' first
    | with_reducible assumption
    | intro _
    | with_reducible apply OKeeps.of
    | with_reducible apply keeps_eccFound
    | with_reducible apply Keeps.fold
    | with_reducible apply Keeps.ite
    | with_reducible apply OKeeps.ite
    | dsimp only
    | split
    | fail_if_no_progress with_reducible refine Keeps.same ?_ rfl rfl
    | fail_if_no_progress with_reducible refine Keeps.more ?_ rfl (Nat.le_add_right _ _) rfl

theorem keeps_fn_execLockstepMismatch {s0 s : State} (h : Keeps s0 s) (pair : Fin 2) : OKeeps s0 (execLockstepMismatch pair s) := by
  unfold execLockstepMismatch
  repeat' first
    | with_reducible assumption
    | intro _
    | with_reducible apply OKeeps.of
    | with_reducible apply keeps_fault
    | with_reducible apply Keeps.fold
    | with_reducible apply Keeps.ite
    | with_reducible apply OKeeps.ite
    | dsimp only
    | split
    | fail_if_no_progress with_reducible refine Keeps.same ?_ rfl rfl
    | fail_if_no_progress with_reducible refine Keeps.more ?_ rfl (Nat.le_add_right _ _) rfl

theorem keeps_fn_execWdtExpiry {s0 s : State} (h : Keeps s0 s) (pair : Fin 2) : OKeeps s0 (execWdtExpiry pair s) := by
  unfold execWdtExpiry
  repeat' first
    | with_reducible assumption
    | intro _
    | with_reducible apply OKeeps.of
    | with_reducible apply keeps_fault
    | with_reducible apply Keeps.fold
    | with_reducible apply Keeps.ite
    | with_reducible apply OKeeps.ite
    | dsimp only
    | split
    | fail_if_no_progress with_reducible refine Keeps.same ?_ rfl rfl
    | fail_if_no_progress with_reducible refine Keeps.more ?_ rfl (Nat.le_add_right _ _) rfl

theorem keeps_kick {s0 s : State} (h : Keeps s0 s) (p : Fin 2) : Keeps s0 (State.kick s p) := by
  unfold State.kick
  repeat' first
    | with_reducible assumption
    | intro _
    | with_reducible apply keeps_fault
    | with_reducible apply Keeps.fold
    | with_reducible apply Keeps.ite
    | dsimp only
    | split
    | fail_if_no_progress with_reducible refine Keeps.same ?_ rfl rfl
    | fail_if_no_progress with_reducible refine Keeps.more ?_ rfl (Nat.le_add_right _ _) rfl

theorem keeps_pairStops {s0 s : State} (h : Keeps s0 s) (p : Fin 2) : Keeps s0 (State.pairStops s p) := by
  unfold State.pairStops
  repeat' first
    | with_reducible assumption
    | intro _
    | with_reducible apply Keeps.fold
    | with_reducible apply Keeps.ite
    | dsimp only
    | split
    | fail_if_no_progress with_reducible refine Keeps.same ?_ rfl rfl
    | fail_if_no_progress with_reducible refine Keeps.more ?_ rfl (Nat.le_add_right _ _) rfl

theorem keeps_fn_execWdtKick {s0 s : State} (h : Keeps s0 s) (kick : Kick) : OKeeps s0 (execWdtKick kick s) := by
  unfold execWdtKick
  repeat' first
    | with_reducible assumption
    | intro _
    | with_reducible apply OKeeps.of
    | with_reducible apply keeps_kick
    | with_reducible apply keeps_pairStops
    | with_reducible apply Keeps.fold
    | with_reducible apply Keeps.ite
    | with_reducible apply OKeeps.ite
    | dsimp only
    | split
    | fail_if_no_progress with_reducible refine Keeps.same ?_ rfl rfl
    | fail_if_no_progress with_reducible refine Keeps.more ?_ rfl (Nat.le_add_right _ _) rfl

theorem keeps_fn_execAccessFault {s0 s : State} (h : Keeps s0 s) (pair : Fin 2) (_addr : D) : OKeeps s0 (execAccessFault pair _addr s) := by
  unfold execAccessFault
  repeat' first
    | with_reducible assumption
    | intro _
    | with_reducible apply OKeeps.of
    | with_reducible apply keeps_fault
    | with_reducible apply Keeps.fold
    | with_reducible apply Keeps.ite
    | with_reducible apply OKeeps.ite
    | dsimp only
    | split
    | fail_if_no_progress with_reducible refine Keeps.same ?_ rfl rfl
    | fail_if_no_progress with_reducible refine Keeps.more ?_ rfl (Nat.le_add_right _ _) rfl

theorem keeps_dropBlock {s0 s : State} (h : Keeps s0 s) (w : Fin 64) : Keeps s0 (State.dropBlock s w) := by
  unfold State.dropBlock
  repeat' first
    | with_reducible assumption
    | intro _
    | with_reducible apply keeps_modWin
    | with_reducible apply keeps_linkDrop
    | with_reducible apply keeps_gapBlock
    | with_reducible apply Keeps.fold
    | with_reducible apply Keeps.ite
    | dsimp only
    | split
    | fail_if_no_progress with_reducible refine Keeps.same ?_ rfl rfl
    | fail_if_no_progress with_reducible refine Keeps.more ?_ rfl (Nat.le_add_right _ _) rfl

theorem keeps_dropOn {s0 s : State} (h : Keeps s0 s) (j : Nat) : Keeps s0 (State.dropOn s j) := by
  unfold State.dropOn
  repeat' first
    | with_reducible assumption
    | intro _
    | with_reducible apply keeps_modCtx
    | with_reducible apply keeps_takeFree
    | refine keeps_takeFree_of ?_ (by assumption)
    | with_reducible apply keeps_linkDrop
    | with_reducible apply keeps_dropUnit
    | with_reducible apply keeps_legOverrun
    | with_reducible apply keeps_scanSkip
    | with_reducible apply keeps_dropBlock
    | with_reducible apply Keeps.fold
    | with_reducible apply Keeps.ite
    | dsimp only
    | split
    | fail_if_no_progress with_reducible refine Keeps.same ?_ rfl rfl
    | fail_if_no_progress with_reducible refine Keeps.more ?_ rfl (Nat.le_add_right _ _) rfl

theorem keeps_raceDrop {s0 s : State} (h : Keeps s0 s) (k : Nat) : Keeps s0 (State.raceDrop s k) := by
  unfold State.raceDrop
  repeat' first
    | with_reducible assumption
    | intro _
    | with_reducible apply keeps_legOverrun
    | with_reducible apply Keeps.fold
    | with_reducible apply Keeps.ite
    | dsimp only
    | split
    | fail_if_no_progress with_reducible refine Keeps.same ?_ rfl rfl
    | fail_if_no_progress with_reducible refine Keeps.more ?_ rfl (Nat.le_add_right _ _) rfl

theorem keeps_readDrop {s0 s : State} (h : Keeps s0 s) (u : SramUse) : Keeps s0 (State.readDrop s u) := by
  unfold State.readDrop
  repeat' first
    | with_reducible assumption
    | intro _
    | with_reducible apply keeps_dropOn
    | with_reducible apply keeps_raceDrop
    | with_reducible apply Keeps.fold
    | with_reducible apply Keeps.ite
    | dsimp only
    | split
    | fail_if_no_progress with_reducible refine Keeps.same ?_ rfl rfl
    | fail_if_no_progress with_reducible refine Keeps.more ?_ rfl (Nat.le_add_right _ _) rfl

theorem keeps_fn_execEccError {s0 s : State} (h : Keeps s0 s) (addr : W) (correctable : Bool) : OKeeps s0 (execEccError addr correctable s) := by
  unfold execEccError
  repeat' first
    | with_reducible assumption
    | intro _
    | with_reducible apply OKeeps.of
    | with_reducible apply keeps_eccFound
    | with_reducible apply keeps_readDrop
    | with_reducible apply Keeps.fold
    | with_reducible apply Keeps.ite
    | with_reducible apply OKeeps.ite
    | dsimp only
    | split
    | fail_if_no_progress with_reducible refine Keeps.same ?_ rfl rfl
    | fail_if_no_progress with_reducible refine Keeps.more ?_ rfl (Nat.le_add_right _ _) rfl

theorem keeps_fn_execLinkCrcError {s0 s : State} (h : Keeps s0 s) (link : Fin 732) : OKeeps s0 (execLinkCrcError link s) := by
  unfold execLinkCrcError
  repeat' first
    | with_reducible assumption
    | intro _
    | with_reducible apply OKeeps.of
    | with_reducible apply keeps_fault
    | with_reducible apply keeps_dropOn
    | with_reducible apply Keeps.fold
    | with_reducible apply Keeps.ite
    | with_reducible apply OKeeps.ite
    | dsimp only
    | split
    | fail_if_no_progress with_reducible refine Keeps.same ?_ rfl rfl
    | fail_if_no_progress with_reducible refine Keeps.more ?_ rfl (Nat.le_add_right _ _) rfl

theorem keeps_fn_execRailOutOfWindow {s0 s : State} (h : Keeps s0 s) (rail : Fin 4) : OKeeps s0 (execRailOutOfWindow rail s) := by
  unfold execRailOutOfWindow
  repeat' first
    | with_reducible assumption
    | intro _
    | with_reducible apply OKeeps.of
    | with_reducible apply keeps_fault
    | with_reducible apply Keeps.fold
    | with_reducible apply Keeps.ite
    | with_reducible apply OKeeps.ite
    | dsimp only
    | split
    | fail_if_no_progress with_reducible refine Keeps.same ?_ rfl rfl
    | fail_if_no_progress with_reducible refine Keeps.more ?_ rfl (Nat.le_add_right _ _) rfl

theorem keeps_fn_execOverTemperature {s0 s : State} (h : Keeps s0 s) : OKeeps s0 (execOverTemperature s) := by
  unfold execOverTemperature
  repeat' first
    | with_reducible assumption
    | intro _
    | with_reducible apply OKeeps.of
    | with_reducible apply keeps_fault
    | with_reducible apply Keeps.fold
    | with_reducible apply Keeps.ite
    | with_reducible apply OKeeps.ite
    | dsimp only
    | split
    | fail_if_no_progress with_reducible refine Keeps.same ?_ rfl rfl
    | fail_if_no_progress with_reducible refine Keeps.more ?_ rfl (Nat.le_add_right _ _) rfl

theorem keeps_fn_execSensorsDisagree {s0 s : State} (h : Keeps s0 s) : OKeeps s0 (execSensorsDisagree s) := by
  unfold execSensorsDisagree
  repeat' first
    | with_reducible assumption
    | intro _
    | with_reducible apply OKeeps.of
    | with_reducible apply keeps_fault
    | with_reducible apply Keeps.fold
    | with_reducible apply Keeps.ite
    | with_reducible apply OKeeps.ite
    | dsimp only
    | split
    | fail_if_no_progress with_reducible refine Keeps.same ?_ rfl rfl
    | fail_if_no_progress with_reducible refine Keeps.more ?_ rfl (Nat.le_add_right _ _) rfl

theorem keeps_fn_execWalingDisagree {s0 s : State} (h : Keeps s0 s) : OKeeps s0 (execWalingDisagree s) := by
  unfold execWalingDisagree
  repeat' first
    | with_reducible assumption
    | intro _
    | with_reducible apply OKeeps.of
    | with_reducible apply keeps_fault
    | with_reducible apply Keeps.fold
    | with_reducible apply Keeps.ite
    | with_reducible apply OKeeps.ite
    | dsimp only
    | split
    | fail_if_no_progress with_reducible refine Keeps.same ?_ rfl rfl
    | fail_if_no_progress with_reducible refine Keeps.more ?_ rfl (Nat.le_add_right _ _) rfl

theorem keeps_monitorTested {s0 s : State} (h : Keeps s0 s) (m : Nat) (reports : Bool) : Keeps s0 (State.monitorTested s m reports) := by
  unfold State.monitorTested
  repeat' first
    | with_reducible assumption
    | intro _
    | with_reducible apply keeps_fault
    | with_reducible apply Keeps.fold
    | with_reducible apply Keeps.ite
    | dsimp only
    | split
    | fail_if_no_progress with_reducible refine Keeps.same ?_ rfl rfl
    | fail_if_no_progress with_reducible refine Keeps.more ?_ rfl (Nat.le_add_right _ _) rfl

theorem keeps_fn_execSelftestTick {s0 s : State} (h : Keeps s0 s) (monitor : Byte) (reports : Bool) : OKeeps s0 (execSelftestTick monitor reports s) := by
  unfold execSelftestTick
  repeat' first
    | with_reducible assumption
    | intro _
    | with_reducible apply OKeeps.of
    | with_reducible apply keeps_monitorTested
    | with_reducible apply Keeps.fold
    | with_reducible apply Keeps.ite
    | with_reducible apply OKeeps.ite
    | dsimp only
    | split
    | fail_if_no_progress with_reducible refine Keeps.same ?_ rfl rfl
    | fail_if_no_progress with_reducible refine Keeps.more ?_ rfl (Nat.le_add_right _ _) rfl

theorem keeps_safeAgain {s0 s : State} (h : Keeps s0 s) : Keeps s0 (State.safeAgain s) := by
  unfold State.safeAgain
  repeat' first
    | with_reducible assumption
    | intro _
    | with_reducible apply keeps_safeRequest
    | with_reducible apply Keeps.fold
    | with_reducible apply Keeps.ite
    | dsimp only
    | split
    | fail_if_no_progress with_reducible refine Keeps.same ?_ rfl rfl
    | fail_if_no_progress with_reducible refine Keeps.more ?_ rfl (Nat.le_add_right _ _) rfl

theorem keeps_fn_execSafeStateRetry {s0 s : State} (h : Keeps s0 s) : OKeeps s0 (execSafeStateRetry s) := by
  unfold execSafeStateRetry
  repeat' first
    | with_reducible assumption
    | intro _
    | with_reducible apply OKeeps.of
    | with_reducible apply keeps_safeAgain
    | with_reducible apply Keeps.fold
    | with_reducible apply Keeps.ite
    | with_reducible apply OKeeps.ite
    | dsimp only
    | split
    | fail_if_no_progress with_reducible refine Keeps.same ?_ rfl rfl
    | fail_if_no_progress with_reducible refine Keeps.more ?_ rfl (Nat.le_add_right _ _) rfl

theorem keeps_escalate {s0 s : State} (h : Keeps s0 s) (code : Byte) (inst : Byte) : Keeps s0 (State.escalate s code inst) := by
  unfold State.escalate
  repeat' first
    | with_reducible assumption
    | intro _
    | with_reducible apply keeps_logFault
    | with_reducible apply keeps_wakeUp
    | with_reducible apply Keeps.fold
    | with_reducible apply Keeps.ite
    | dsimp only
    | split
    | fail_if_no_progress with_reducible refine Keeps.same ?_ rfl rfl
    | fail_if_no_progress with_reducible refine Keeps.more ?_ rfl (Nat.le_add_right _ _) rfl

theorem keeps_fn_execFaultEscalate {s0 s : State} (h : Keeps s0 s) (code : Byte) (inst : Byte) : OKeeps s0 (execFaultEscalate code inst s) := by
  unfold execFaultEscalate
  repeat' first
    | with_reducible assumption
    | intro _
    | with_reducible apply OKeeps.of
    | with_reducible apply keeps_escalate
    | with_reducible apply Keeps.fold
    | with_reducible apply Keeps.ite
    | with_reducible apply OKeeps.ite
    | dsimp only
    | split
    | fail_if_no_progress with_reducible refine Keeps.same ?_ rfl rfl
    | fail_if_no_progress with_reducible refine Keeps.more ?_ rfl (Nat.le_add_right _ _) rfl

theorem keeps_fn_execSafeAutoReset {s0 s : State} (h : Keeps s0 s) : OKeeps s0 (execSafeAutoReset s) := by
  unfold execSafeAutoReset
  repeat' first
    | with_reducible assumption
    | intro _
    | with_reducible apply OKeeps.of
    | with_reducible apply keeps_resetWarm
    | with_reducible apply Keeps.fold
    | with_reducible apply Keeps.ite
    | with_reducible apply OKeeps.ite
    | dsimp only
    | split
    | fail_if_no_progress with_reducible refine Keeps.same ?_ rfl rfl
    | fail_if_no_progress with_reducible refine Keeps.more ?_ rfl (Nat.le_add_right _ _) rfl

end Sys2Proof.Laws
end

