-- ==== Sys2Proof/Laws/KeepsHost.lean ====
section
/-!
SUPPORT. The operations and meanings of Machine/Host.lean respect the relation of Keeps.lean.
-/

namespace Sys2Proof.Laws

open Sys2Proof Sys2Proof.Machine

set_option linter.unusedTactic false
set_option linter.unreachableTactic false
set_option linter.unusedVariables false

theorem keeps_fn_bodySysNop {s0 s : State} (h : Keeps s0 s) (_c : CmdEntry) : AKeeps s0 (bodySysNop _c s) := by
  unfold bodySysNop
  repeat' first
    | with_reducible assumption
    | intro _
    | with_reducible apply AKeeps.checked
    | with_reducible apply AKeeps.ok
    | with_reducible apply AKeeps.part
    | with_reducible apply AKeeps.fail
    | with_reducible apply AKeeps.wait
    | with_reducible apply AKeeps.done
    | with_reducible apply keeps_fn_Answer_done
    | with_reducible apply Keeps.fold
    | with_reducible apply Keeps.ite
    | with_reducible apply AKeeps.ite
    | dsimp only
    | split
    | fail_if_no_progress with_reducible refine Keeps.same ?_ rfl rfl
    | fail_if_no_progress with_reducible refine Keeps.more ?_ rfl (Nat.le_add_right _ _) rfl

theorem keeps_fn_bodySysInfo {s0 s : State} (h : Keeps s0 s) (_c : CmdEntry) : AKeeps s0 (bodySysInfo _c s) := by
  unfold bodySysInfo
  repeat' first
    | with_reducible assumption
    | intro _
    | with_reducible apply AKeeps.checked
    | with_reducible apply AKeeps.ok
    | with_reducible apply AKeeps.part
    | with_reducible apply AKeeps.fail
    | with_reducible apply AKeeps.wait
    | with_reducible apply AKeeps.done
    | with_reducible apply Keeps.fold
    | with_reducible apply Keeps.ite
    | with_reducible apply AKeeps.ite
    | dsimp only
    | split
    | fail_if_no_progress with_reducible refine Keeps.same ?_ rfl rfl
    | fail_if_no_progress with_reducible refine Keeps.more ?_ rfl (Nat.le_add_right _ _) rfl

theorem keeps_fn_bodySysTime {s0 s : State} (h : Keeps s0 s) (_c : CmdEntry) : AKeeps s0 (bodySysTime _c s) := by
  unfold bodySysTime
  repeat' first
    | with_reducible assumption
    | intro _
    | with_reducible apply AKeeps.checked
    | with_reducible apply AKeeps.ok
    | with_reducible apply AKeeps.part
    | with_reducible apply AKeeps.fail
    | with_reducible apply AKeeps.wait
    | with_reducible apply AKeeps.done
    | with_reducible apply Keeps.fold
    | with_reducible apply Keeps.ite
    | with_reducible apply AKeeps.ite
    | dsimp only
    | split
    | fail_if_no_progress with_reducible refine Keeps.same ?_ rfl rfl
    | fail_if_no_progress with_reducible refine Keeps.more ?_ rfl (Nat.le_add_right _ _) rfl

theorem keeps_fn_bodySysSetRtc {s0 s : State} (h : Keeps s0 s) (c : CmdEntry) : AKeeps s0 (bodySysSetRtc c s) := by
  unfold bodySysSetRtc
  repeat' first
    | with_reducible assumption
    | intro _
    | with_reducible apply AKeeps.checked
    | with_reducible apply AKeeps.ok
    | with_reducible apply AKeeps.part
    | with_reducible apply AKeeps.fail
    | with_reducible apply AKeeps.wait
    | with_reducible apply AKeeps.done
    | with_reducible apply keeps_fn_Answer_done
    | with_reducible apply Keeps.fold
    | with_reducible apply Keeps.ite
    | with_reducible apply AKeeps.ite
    | dsimp only
    | split
    | fail_if_no_progress with_reducible refine Keeps.same ?_ rfl rfl
    | fail_if_no_progress with_reducible refine Keeps.more ?_ rfl (Nat.le_add_right _ _) rfl

theorem keeps_fn_bodySysReset {s0 s : State} (h : Keeps s0 s) (c : CmdEntry) : AKeeps s0 (bodySysReset c s) := by
  unfold bodySysReset
  repeat' first
    | with_reducible assumption
    | intro _
    | with_reducible apply AKeeps.checked
    | with_reducible apply AKeeps.ok
    | with_reducible apply AKeeps.part
    | with_reducible apply AKeeps.fail
    | with_reducible apply AKeeps.wait
    | with_reducible apply AKeeps.done
    | with_reducible apply keeps_fn_Answer_done
    | with_reducible apply keeps_settleUndone
    | with_reducible apply keeps_abandonEntry
    | with_reducible apply Keeps.fold
    | with_reducible apply Keeps.ite
    | with_reducible apply AKeeps.ite
    | dsimp only
    | split
    | fail_if_no_progress with_reducible refine Keeps.same ?_ rfl rfl
    | fail_if_no_progress with_reducible refine Keeps.more ?_ rfl (Nat.le_add_right _ _) rfl

theorem keeps_fn_execSysNop {s0 s : State} (h : Keeps s0 s) (c : CmdEntry) : OKeeps s0 (execSysNop c s) := by
  unfold execSysNop
  repeat' first
    | with_reducible assumption
    | intro _
    | with_reducible apply keeps_runCmd
    | with_reducible apply OKeeps.of
    | with_reducible apply keeps_runCmd
    | with_reducible apply keeps_fn_bodySysNop
    | with_reducible apply Keeps.fold
    | with_reducible apply Keeps.ite
    | with_reducible apply OKeeps.ite
    | dsimp only
    | split
    | fail_if_no_progress with_reducible refine Keeps.same ?_ rfl rfl
    | fail_if_no_progress with_reducible refine Keeps.more ?_ rfl (Nat.le_add_right _ _) rfl

theorem keeps_fn_execSysInfo {s0 s : State} (h : Keeps s0 s) (c : CmdEntry) : OKeeps s0 (execSysInfo c s) := by
  unfold execSysInfo
  repeat' first
    | with_reducible assumption
    | intro _
    | with_reducible apply keeps_runCmd
    | with_reducible apply OKeeps.of
    | with_reducible apply keeps_runCmd
    | with_reducible apply keeps_fn_bodySysInfo
    | with_reducible apply Keeps.fold
    | with_reducible apply Keeps.ite
    | with_reducible apply OKeeps.ite
    | dsimp only
    | split
    | fail_if_no_progress with_reducible refine Keeps.same ?_ rfl rfl
    | fail_if_no_progress with_reducible refine Keeps.more ?_ rfl (Nat.le_add_right _ _) rfl

theorem keeps_fn_execSysTime {s0 s : State} (h : Keeps s0 s) (c : CmdEntry) : OKeeps s0 (execSysTime c s) := by
  unfold execSysTime
  repeat' first
    | with_reducible assumption
    | intro _
    | with_reducible apply keeps_runCmd
    | with_reducible apply OKeeps.of
    | with_reducible apply keeps_runCmd
    | with_reducible apply keeps_fn_bodySysTime
    | with_reducible apply Keeps.fold
    | with_reducible apply Keeps.ite
    | with_reducible apply OKeeps.ite
    | dsimp only
    | split
    | fail_if_no_progress with_reducible refine Keeps.same ?_ rfl rfl
    | fail_if_no_progress with_reducible refine Keeps.more ?_ rfl (Nat.le_add_right _ _) rfl

theorem keeps_fn_execSysSetRtc {s0 s : State} (h : Keeps s0 s) (c : CmdEntry) : OKeeps s0 (execSysSetRtc c s) := by
  unfold execSysSetRtc
  repeat' first
    | with_reducible assumption
    | intro _
    | with_reducible apply keeps_runCmd
    | with_reducible apply OKeeps.of
    | with_reducible apply keeps_runCmd
    | with_reducible apply keeps_fn_bodySysSetRtc
    | with_reducible apply Keeps.fold
    | with_reducible apply Keeps.ite
    | with_reducible apply OKeeps.ite
    | dsimp only
    | split
    | fail_if_no_progress with_reducible refine Keeps.same ?_ rfl rfl
    | fail_if_no_progress with_reducible refine Keeps.more ?_ rfl (Nat.le_add_right _ _) rfl

theorem keeps_commandReset {s0 s : State} (h : Keeps s0 s) (type : Nat) : Keeps s0 (State.commandReset s type) := by
  unfold State.commandReset
  repeat' first
    | with_reducible assumption
    | intro _
    | with_reducible apply keeps_resetCold
    | with_reducible apply keeps_resetWarm
    | with_reducible apply keeps_modPwr
    | with_reducible apply Keeps.fold
    | with_reducible apply Keeps.ite
    | dsimp only
    | split
    | fail_if_no_progress with_reducible refine Keeps.same ?_ rfl rfl
    | fail_if_no_progress with_reducible refine Keeps.more ?_ rfl (Nat.le_add_right _ _) rfl

theorem keeps_resetStarts {s0 s : State} (h : Keeps s0 s) : Keeps s0 (State.resetStarts s) := by
  unfold State.resetStarts
  repeat' first
    | with_reducible assumption
    | intro _
    | with_reducible apply keeps_commandReset
    | with_reducible apply Keeps.fold
    | with_reducible apply Keeps.ite
    | dsimp only
    | split
    | fail_if_no_progress with_reducible refine Keeps.same ?_ rfl rfl
    | fail_if_no_progress with_reducible refine Keeps.more ?_ rfl (Nat.le_add_right _ _) rfl

theorem keeps_fn_execSysReset {s0 s : State} (h : Keeps s0 s) (c : CmdEntry) : OKeeps s0 (execSysReset c s) := by
  unfold execSysReset
  repeat' first
    | with_reducible assumption
    | intro _
    | with_reducible apply keeps_runCmd
    | with_reducible apply OKeeps.of
    | with_reducible apply keeps_runCmd
    | with_reducible apply keeps_fn_bodySysReset
    | with_reducible apply Keeps.fold
    | with_reducible apply Keeps.ite
    | with_reducible apply OKeeps.ite
    | dsimp only
    | split
    | fail_if_no_progress with_reducible refine Keeps.same ?_ rfl rfl
    | fail_if_no_progress with_reducible refine Keeps.more ?_ rfl (Nat.le_add_right _ _) rfl

theorem keeps_slotRead {s0 s : State} (h : Keeps s0 s) (n : Fin 32) : Keeps s0 (State.slotRead s n) := by
  unfold State.slotRead
  repeat' first
    | with_reducible assumption
    | intro _
    | with_reducible apply keeps_modRing
    | with_reducible apply keeps_shadow
    | with_reducible apply Keeps.fold
    | with_reducible apply Keeps.ite
    | dsimp only
    | split
    | fail_if_no_progress with_reducible refine Keeps.same ?_ rfl rfl
    | fail_if_no_progress with_reducible refine Keeps.more ?_ rfl (Nat.le_add_right _ _) rfl

theorem keeps_entryReceived {s0 s : State} (h : Keeps s0 s) (op : Nat) (c : CmdEntry) : Keeps s0 (State.entryReceived s op c) := by
  unfold State.entryReceived
  repeat' first
    | with_reducible assumption
    | intro _
    | with_reducible apply keeps_finish
    | with_reducible apply keeps_addCmd
    | with_reducible apply keeps_slotRead
    | with_reducible apply Keeps.fold
    | with_reducible apply Keeps.ite
    | dsimp only
    | split
    | fail_if_no_progress with_reducible refine Keeps.same ?_ rfl rfl
    | fail_if_no_progress with_reducible refine Keeps.more ?_ rfl (Nat.le_add_right _ _) rfl

theorem keeps_fn_execCommandEntryReceived {s0 s : State} (h : Keeps s0 s) (opcode : BitVec 16) (c : CmdEntry) : OKeeps s0 (execCommandEntryReceived opcode c s) := by
  unfold execCommandEntryReceived
  repeat' first
    | with_reducible assumption
    | intro _
    | with_reducible apply OKeeps.of
    | with_reducible apply keeps_entryReceived
    | with_reducible apply Keeps.fold
    | with_reducible apply Keeps.ite
    | with_reducible apply OKeeps.ite
    | dsimp only
    | split
    | fail_if_no_progress with_reducible refine Keeps.same ?_ rfl rfl
    | fail_if_no_progress with_reducible refine Keeps.more ?_ rfl (Nat.le_add_right _ _) rfl

theorem keeps_dispatch {s0 s : State} (h : Keeps s0 s) (id : Nat) : Keeps s0 (State.dispatch s id) := by
  unfold State.dispatch
  repeat' first
    | with_reducible assumption
    | intro _
    | with_reducible apply Keeps.fold
    | with_reducible apply Keeps.ite
    | dsimp only
    | split
    | fail_if_no_progress with_reducible refine Keeps.same ?_ rfl rfl
    | fail_if_no_progress with_reducible refine Keeps.more ?_ rfl (Nat.le_add_right _ _) rfl

theorem keeps_fn_execCommandDispatch {s0 s : State} (h : Keeps s0 s) (id : Nat) : OKeeps s0 (execCommandDispatch id s) := by
  unfold execCommandDispatch
  repeat' first
    | with_reducible assumption
    | intro _
    | with_reducible apply OKeeps.of
    | with_reducible apply keeps_dispatch
    | with_reducible apply Keeps.fold
    | with_reducible apply Keeps.ite
    | with_reducible apply OKeeps.ite
    | dsimp only
    | split
    | fail_if_no_progress with_reducible refine Keeps.same ?_ rfl rfl
    | fail_if_no_progress with_reducible refine Keeps.more ?_ rfl (Nat.le_add_right _ _) rfl

theorem keeps_fn_execCompletionHeldWrite {s0 s : State} (h : Keeps s0 s) : OKeeps s0 (execCompletionHeldWrite s) := by
  unfold execCompletionHeldWrite
  repeat' first
    | with_reducible assumption
    | intro _
    | with_reducible apply OKeeps.of
    | with_reducible apply keeps_drainHeld
    | with_reducible apply Keeps.fold
    | with_reducible apply Keeps.ite
    | with_reducible apply OKeeps.ite
    | dsimp only
    | split
    | fail_if_no_progress with_reducible refine Keeps.same ?_ rfl rfl
    | fail_if_no_progress with_reducible refine Keeps.more ?_ rfl (Nat.le_add_right _ _) rfl

theorem keeps_doorbellBad {s0 s : State} (h : Keeps s0 s) (n : Nat) (v : W) : Keeps s0 (State.doorbellBad s n v) := by
  unfold State.doorbellBad
  repeat' first
    | with_reducible assumption
    | intro _
    | with_reducible apply keeps_raise
    | with_reducible apply Keeps.fold
    | with_reducible apply Keeps.ite
    | dsimp only
    | split
    | fail_if_no_progress with_reducible refine Keeps.same ?_ rfl rfl
    | fail_if_no_progress with_reducible refine Keeps.more ?_ rfl (Nat.le_add_right _ _) rfl

theorem keeps_returnSlots {s0 s : State} (h : Keeps s0 s) (n : Fin 32) (v : W) : Keeps s0 (State.returnSlots s n v) := by
  unfold State.returnSlots
  repeat' first
    | with_reducible assumption
    | intro _
    | with_reducible apply keeps_modRing
    | with_reducible apply keeps_payOwed
    | with_reducible apply keeps_drainHeld
    | with_reducible apply keeps_drainHci
    | with_reducible apply keeps_drainRing
    | with_reducible apply Keeps.fold
    | with_reducible apply Keeps.ite
    | dsimp only
    | split
    | fail_if_no_progress with_reducible refine Keeps.same ?_ rfl rfl
    | fail_if_no_progress with_reducible refine Keeps.more ?_ rfl (Nat.le_add_right _ _) rfl

theorem keeps_doorbell {s0 s : State} (h : Keeps s0 s) (off : Nat) (size : Nat) (v : W) : Keeps s0 (State.doorbell s off size v) := by
  unfold State.doorbell
  repeat' first
    | with_reducible assumption
    | intro _
    | with_reducible apply keeps_modRing
    | with_reducible apply keeps_doorbellBad
    | with_reducible apply keeps_returnSlots
    | with_reducible apply Keeps.fold
    | with_reducible apply Keeps.ite
    | dsimp only
    | split
    | fail_if_no_progress with_reducible refine Keeps.same ?_ rfl rfl
    | fail_if_no_progress with_reducible refine Keeps.more ?_ rfl (Nat.le_add_right _ _) rfl

theorem keeps_doorbellWrite {s0 s : State} (h : Keeps s0 s) (off : Nat) (size : Nat) (v : W) : Keeps s0 (State.doorbellWrite s off size v) := by
  unfold State.doorbellWrite
  repeat' first
    | with_reducible assumption
    | intro _
    | with_reducible apply keeps_wakeUp
    | with_reducible apply keeps_doorbell
    | with_reducible apply Keeps.fold
    | with_reducible apply Keeps.ite
    | dsimp only
    | split
    | fail_if_no_progress with_reducible refine Keeps.same ?_ rfl rfl
    | fail_if_no_progress with_reducible refine Keeps.more ?_ rfl (Nat.le_add_right _ _) rfl

theorem keeps_fn_execDoorbellProducer {s0 s : State} (h : Keeps s0 s) (off : BitVec 12) (size : Nat) (value : W) : OKeeps s0 (execDoorbellProducer off size value s) := by
  unfold execDoorbellProducer
  repeat' first
    | with_reducible assumption
    | intro _
    | with_reducible apply OKeeps.of
    | with_reducible apply keeps_doorbellWrite
    | with_reducible apply Keeps.fold
    | with_reducible apply Keeps.ite
    | with_reducible apply OKeeps.ite
    | dsimp only
    | split
    | fail_if_no_progress with_reducible refine Keeps.same ?_ rfl rfl
    | fail_if_no_progress with_reducible refine Keeps.more ?_ rfl (Nat.le_add_right _ _) rfl

theorem keeps_fn_execDoorbellConsumer {s0 s : State} (h : Keeps s0 s) (off : BitVec 12) (size : Nat) (value : W) : OKeeps s0 (execDoorbellConsumer off size value s) := by
  unfold execDoorbellConsumer
  repeat' first
    | with_reducible assumption
    | intro _
    | with_reducible apply OKeeps.of
    | with_reducible apply keeps_doorbellWrite
    | with_reducible apply Keeps.fold
    | with_reducible apply Keeps.ite
    | with_reducible apply OKeeps.ite
    | dsimp only
    | split
    | fail_if_no_progress with_reducible refine Keeps.same ?_ rfl rfl
    | fail_if_no_progress with_reducible refine Keeps.more ?_ rfl (Nat.le_add_right _ _) rfl

theorem keeps_fn_execRingEnClear {s0 s : State} (h : Keeps s0 s) : OKeeps s0 (execRingEnClear s) := by
  unfold execRingEnClear
  repeat' first
    | with_reducible assumption
    | intro _
    | with_reducible apply OKeeps.of
    | with_reducible apply keeps_accessWrite
    | with_reducible apply Keeps.fold
    | with_reducible apply Keeps.ite
    | with_reducible apply OKeeps.ite
    | dsimp only
    | split
    | fail_if_no_progress with_reducible refine Keeps.same ?_ rfl rfl
    | fail_if_no_progress with_reducible refine Keeps.more ?_ rfl (Nat.le_add_right _ _) rfl

theorem keeps_fn_execRingEnSet {s0 s : State} (h : Keeps s0 s) : OKeeps s0 (execRingEnSet s) := by
  unfold execRingEnSet
  repeat' first
    | with_reducible assumption
    | intro _
    | with_reducible apply OKeeps.of
    | with_reducible apply keeps_accessWrite
    | with_reducible apply Keeps.fold
    | with_reducible apply Keeps.ite
    | with_reducible apply OKeeps.ite
    | dsimp only
    | split
    | fail_if_no_progress with_reducible refine Keeps.same ?_ rfl rfl
    | fail_if_no_progress with_reducible refine Keeps.more ?_ rfl (Nat.le_add_right _ _) rfl

theorem keeps_fn_execQuiesced {s0 s : State} (h : Keeps s0 s) : OKeeps s0 (execQuiesced s) := by
  unfold execQuiesced
  repeat' first
    | with_reducible assumption
    | intro _
    | with_reducible apply OKeeps.of
    | with_reducible apply Keeps.fold
    | with_reducible apply Keeps.ite
    | with_reducible apply OKeeps.ite
    | dsimp only
    | split
    | fail_if_no_progress with_reducible refine Keeps.same ?_ rfl rfl
    | fail_if_no_progress with_reducible refine Keeps.more ?_ rfl (Nat.le_add_right _ _) rfl

theorem keeps_fn_execRingEnable {s0 s : State} (h : Keeps s0 s) (n : Fin 32) (value : W) : OKeeps s0 (execRingEnable n value s) := by
  unfold execRingEnable
  repeat' first
    | with_reducible assumption
    | intro _
    | with_reducible apply OKeeps.of
    | with_reducible apply keeps_accessWrite
    | with_reducible apply Keeps.fold
    | with_reducible apply Keeps.ite
    | with_reducible apply OKeeps.ite
    | dsimp only
    | split
    | fail_if_no_progress with_reducible refine Keeps.same ?_ rfl rfl
    | fail_if_no_progress with_reducible refine Keeps.more ?_ rfl (Nat.le_add_right _ _) rfl

theorem keeps_signalVector {s0 s : State} (h : Keeps s0 s) (v : Fin 16) : Keeps s0 (State.signalVector s v) := by
  unfold State.signalVector
  repeat' first
    | with_reducible assumption
    | intro _
    | with_reducible apply keeps_message
    | with_reducible apply keeps_coalAfresh
    | with_reducible apply Keeps.fold
    | with_reducible apply Keeps.ite
    | dsimp only
    | split
    | fail_if_no_progress with_reducible refine Keeps.same ?_ rfl rfl
    | fail_if_no_progress with_reducible refine Keeps.more ?_ rfl (Nat.le_add_right _ _) rfl

theorem keeps_msixControl {s0 s : State} (h : Keeps s0 s) (en : Bool) (fmask : Bool) : Keeps s0 (State.msixControl s en fmask) := by
  unfold State.msixControl
  repeat' first
    | with_reducible assumption
    | intro _
    | with_reducible apply keeps_sendPending
    | with_reducible apply keeps_signalVector
    | with_reducible apply Keeps.fold
    | with_reducible apply Keeps.ite
    | dsimp only
    | split
    | fail_if_no_progress with_reducible refine Keeps.same ?_ rfl rfl
    | fail_if_no_progress with_reducible refine Keeps.more ?_ rfl (Nat.le_add_right _ _) rfl

theorem keeps_fn_execMsixUnmask {s0 s : State} (h : Keeps s0 s) (w : MaskWrite) : OKeeps s0 (execMsixUnmask w s) := by
  unfold execMsixUnmask
  repeat' first
    | with_reducible assumption
    | intro _
    | with_reducible apply OKeeps.of
    | with_reducible apply keeps_unmask
    | with_reducible apply keeps_msixControl
    | with_reducible apply Keeps.fold
    | with_reducible apply Keeps.ite
    | with_reducible apply OKeeps.ite
    | dsimp only
    | split
    | fail_if_no_progress with_reducible refine Keeps.same ?_ rfl rfl
    | fail_if_no_progress with_reducible refine Keeps.more ?_ rfl (Nat.le_add_right _ _) rfl

theorem keeps_fn_execMsixEnable {s0 s : State} (h : Keeps s0 s) : OKeeps s0 (execMsixEnable s) := by
  unfold execMsixEnable
  repeat' first
    | with_reducible assumption
    | intro _
    | with_reducible apply OKeeps.of
    | with_reducible apply keeps_msixControl
    | with_reducible apply Keeps.fold
    | with_reducible apply Keeps.ite
    | with_reducible apply OKeeps.ite
    | dsimp only
    | split
    | fail_if_no_progress with_reducible refine Keeps.same ?_ rfl rfl
    | fail_if_no_progress with_reducible refine Keeps.more ?_ rfl (Nat.le_add_right _ _) rfl

theorem keeps_fn_execMsixCoalTimer {s0 s : State} (h : Keeps s0 s) (n : Fin 32) : OKeeps s0 (execMsixCoalTimer n s) := by
  unfold execMsixCoalTimer
  repeat' first
    | with_reducible assumption
    | intro _
    | with_reducible apply OKeeps.of
    | with_reducible apply keeps_msgDue
    | with_reducible apply Keeps.fold
    | with_reducible apply Keeps.ite
    | with_reducible apply OKeeps.ite
    | dsimp only
    | split
    | fail_if_no_progress with_reducible refine Keeps.same ?_ rfl rfl
    | fail_if_no_progress with_reducible refine Keeps.more ?_ rfl (Nat.le_add_right _ _) rfl

theorem keeps_fn_execDataRingFull {s0 s : State} (h : Keeps s0 s) (n : Fin 32) : OKeeps s0 (execDataRingFull n s) := by
  unfold execDataRingFull
  repeat' first
    | with_reducible assumption
    | intro _
    | with_reducible apply OKeeps.of
    | with_reducible apply keeps_raise
    | with_reducible apply Keeps.fold
    | with_reducible apply Keeps.ite
    | with_reducible apply OKeeps.ite
    | dsimp only
    | split
    | fail_if_no_progress with_reducible refine Keeps.same ?_ rfl rfl
    | fail_if_no_progress with_reducible refine Keeps.more ?_ rfl (Nat.le_add_right _ _) rfl

theorem keeps_bufInFault {s0 s : State} (h : Keeps s0 s) (id : Nat) (addr : D) : Keeps s0 (State.bufInFault s id addr) := by
  unfold State.bufInFault
  repeat' first
    | with_reducible assumption
    | intro _
    | with_reducible apply keeps_complete
    | with_reducible apply keeps_busError
    | with_reducible apply keeps_dropCmd
    | with_reducible apply keeps_fault
    | with_reducible apply Keeps.fold
    | with_reducible apply Keeps.ite
    | dsimp only
    | split
    | fail_if_no_progress with_reducible refine Keeps.same ?_ rfl rfl
    | fail_if_no_progress with_reducible refine Keeps.more ?_ rfl (Nat.le_add_right _ _) rfl

theorem keeps_bufOutFault {s0 s : State} (h : Keeps s0 s) (id : Nat) : Keeps s0 (State.bufOutFault s id) := by
  unfold State.bufOutFault
  repeat' first
    | with_reducible assumption
    | intro _
    | with_reducible apply Keeps.fold
    | with_reducible apply Keeps.ite
    | dsimp only
    | split
    | fail_if_no_progress with_reducible refine Keeps.same ?_ rfl rfl
    | fail_if_no_progress with_reducible refine Keeps.more ?_ rfl (Nat.le_add_right _ _) rfl

theorem keeps_unreadSlot {s0 s : State} (h : Keeps s0 s) (slot : BitVec 16) (id : Nat) (addr : D) : Keeps s0 (State.unreadSlot s slot id addr) := by
  unfold State.unreadSlot
  repeat' first
    | with_reducible assumption
    | intro _
    | with_reducible apply keeps_complete
    | with_reducible apply keeps_busError
    | with_reducible apply keeps_fault
    | with_reducible apply keeps_slotRead
    | with_reducible apply Keeps.fold
    | with_reducible apply Keeps.ite
    | dsimp only
    | split
    | fail_if_no_progress with_reducible refine Keeps.same ?_ rfl rfl
    | fail_if_no_progress with_reducible refine Keeps.more ?_ rfl (Nat.le_add_right _ _) rfl

theorem keeps_unreadHci {s0 s : State} (h : Keeps s0 s) (slot : BitVec 16) (addr : D) : Keeps s0 (State.unreadHci s slot addr) := by
  unfold State.unreadHci
  repeat' first
    | with_reducible assumption
    | intro _
    | with_reducible apply keeps_hciOut
    | with_reducible apply keeps_busError
    | with_reducible apply keeps_slotRead
    | with_reducible apply Keeps.fold
    | with_reducible apply Keeps.ite
    | dsimp only
    | split
    | fail_if_no_progress with_reducible refine Keeps.same ?_ rfl rfl
    | fail_if_no_progress with_reducible refine Keeps.more ?_ rfl (Nat.le_add_right _ _) rfl

theorem keeps_fn_execHostBusError {s0 s : State} (h : Keeps s0 s) (a : BusAccess) (addr : D) : OKeeps s0 (execHostBusError a addr s) := by
  unfold execHostBusError
  repeat' first
    | with_reducible assumption
    | intro _
    | with_reducible apply OKeeps.of
    | with_reducible apply keeps_busError
    | with_reducible apply keeps_bufInFault
    | with_reducible apply keeps_bufOutFault
    | with_reducible apply keeps_unreadSlot
    | with_reducible apply keeps_unreadHci
    | with_reducible apply Keeps.fold
    | with_reducible apply Keeps.ite
    | with_reducible apply OKeeps.ite
    | dsimp only
    | split
    | fail_if_no_progress with_reducible refine Keeps.same ?_ rfl rfl
    | fail_if_no_progress with_reducible refine Keeps.more ?_ rfl (Nat.le_add_right _ _) rfl

theorem keeps_fn_execLinkDown {s0 s : State} (h : Keeps s0 s) : OKeeps s0 (execLinkDown s) := by
  unfold execLinkDown
  repeat' first
    | with_reducible assumption
    | intro _
    | with_reducible apply OKeeps.of
    | with_reducible apply keeps_linkLost
    | with_reducible apply Keeps.fold
    | with_reducible apply Keeps.ite
    | with_reducible apply OKeeps.ite
    | dsimp only
    | split
    | fail_if_no_progress with_reducible refine Keeps.same ?_ rfl rfl
    | fail_if_no_progress with_reducible refine Keeps.more ?_ rfl (Nat.le_add_right _ _) rfl

theorem keeps_fn_execLinkUp {s0 s : State} (h : Keeps s0 s) (speed : BitVec 4) : OKeeps s0 (execLinkUp speed s) := by
  unfold execLinkUp
  repeat' first
    | with_reducible assumption
    | intro _
    | with_reducible apply OKeeps.of
    | with_reducible apply Keeps.fold
    | with_reducible apply Keeps.ite
    | with_reducible apply OKeeps.ite
    | dsimp only
    | split
    | fail_if_no_progress with_reducible refine Keeps.same ?_ rfl rfl
    | fail_if_no_progress with_reducible refine Keeps.more ?_ rfl (Nat.le_add_right _ _) rfl

theorem keeps_fn_execLinkRetrain {s0 s : State} (h : Keeps s0 s) (speed : BitVec 4) : OKeeps s0 (execLinkRetrain speed s) := by
  unfold execLinkRetrain
  repeat' first
    | with_reducible assumption
    | intro _
    | with_reducible apply OKeeps.of
    | with_reducible apply keeps_raise
    | with_reducible apply Keeps.fold
    | with_reducible apply Keeps.ite
    | with_reducible apply OKeeps.ite
    | dsimp only
    | split
    | fail_if_no_progress with_reducible refine Keeps.same ?_ rfl rfl
    | fail_if_no_progress with_reducible refine Keeps.more ?_ rfl (Nat.le_add_right _ _) rfl

theorem keeps_fn_execPerstAssert {s0 s : State} (h : Keeps s0 s) : OKeeps s0 (execPerstAssert s) := by
  unfold execPerstAssert
  repeat' first
    | with_reducible assumption
    | intro _
    | with_reducible apply OKeeps.of
    | with_reducible apply keeps_linkLost
    | with_reducible apply Keeps.fold
    | with_reducible apply Keeps.ite
    | with_reducible apply OKeeps.ite
    | dsimp only
    | split
    | fail_if_no_progress with_reducible refine Keeps.same ?_ rfl rfl
    | fail_if_no_progress with_reducible refine Keeps.more ?_ rfl (Nat.le_add_right _ _) rfl

theorem keeps_fn_execPerstRelease {s0 s : State} (h : Keeps s0 s) : OKeeps s0 (execPerstRelease s) := by
  unfold execPerstRelease
  repeat' first
    | with_reducible assumption
    | intro _
    | with_reducible apply OKeeps.of
    | with_reducible apply Keeps.fold
    | with_reducible apply Keeps.ite
    | with_reducible apply OKeeps.ite
    | dsimp only
    | split
    | fail_if_no_progress with_reducible refine Keeps.same ?_ rfl rfl
    | fail_if_no_progress with_reducible refine Keeps.more ?_ rfl (Nat.le_add_right _ _) rfl

theorem keeps_inject {s0 s : State} (h : Keeps s0 s) (v : W) : Keeps s0 (State.inject s v) := by
  unfold State.inject
  repeat' first
    | with_reducible assumption
    | intro _
    | with_reducible apply keeps_fault
    | with_reducible apply Keeps.fold
    | with_reducible apply Keeps.ite
    | dsimp only
    | split
    | fail_if_no_progress with_reducible refine Keeps.same ?_ rfl rfl
    | fail_if_no_progress with_reducible refine Keeps.more ?_ rfl (Nat.le_add_right _ _) rfl

theorem keeps_regWrite32 {s0 s : State} (h : Keeps s0 s) (off : Nat) (v : W) (mirror : Bool) : Keeps s0 (State.regWrite32 s off v mirror) := by
  unfold State.regWrite32
  repeat' first
    | with_reducible assumption
    | intro _
    | with_reducible apply keeps_accessWrite
    | with_reducible apply keeps_inject
    | with_reducible apply Keeps.fold
    | with_reducible apply Keeps.ite
    | dsimp only
    | split
    | fail_if_no_progress with_reducible refine Keeps.same ?_ rfl rfl
    | fail_if_no_progress with_reducible refine Keeps.more ?_ rfl (Nat.le_add_right _ _) rfl

theorem keeps_badAccess {s0 s : State} (h : Keeps s0 s) (mirror : Bool) : Keeps s0 (State.badAccess s mirror) := by
  unfold State.badAccess
  repeat' first
    | with_reducible assumption
    | intro _
    | with_reducible apply keeps_setFlag
    | with_reducible apply Keeps.fold
    | with_reducible apply Keeps.ite
    | dsimp only
    | split
    | fail_if_no_progress with_reducible refine Keeps.same ?_ rfl rfl
    | fail_if_no_progress with_reducible refine Keeps.more ?_ rfl (Nat.le_add_right _ _) rfl

theorem keeps_fn_execRegWrite {s0 s : State} (h : Keeps s0 s) (off : BitVec 16) (size : Nat) (value : D) (mirror : Bool) : OKeeps s0 (execRegWrite off size value mirror s) := by
  unfold execRegWrite
  repeat' first
    | with_reducible assumption
    | intro _
    | with_reducible apply OKeeps.of
    | with_reducible apply keeps_regWrite32
    | with_reducible apply keeps_badAccess
    | with_reducible apply Keeps.fold
    | with_reducible apply Keeps.ite
    | with_reducible apply OKeeps.ite
    | dsimp only
    | split
    | fail_if_no_progress with_reducible refine Keeps.same ?_ rfl rfl
    | fail_if_no_progress with_reducible refine Keeps.more ?_ rfl (Nat.le_add_right _ _) rfl

theorem keeps_fn_execFlagClear {s0 s : State} (h : Keeps s0 s) (slot : Fin 83) (mask : W) (hwSets : W) : OKeeps s0 (execFlagClear slot mask hwSets s) := by
  unfold execFlagClear
  repeat' first
    | with_reducible assumption
    | intro _
    | with_reducible apply OKeeps.of
    | with_reducible apply keeps_setFlagBits
    | with_reducible apply keeps_accessWrite
    | with_reducible apply Keeps.fold
    | with_reducible apply Keeps.ite
    | with_reducible apply OKeeps.ite
    | dsimp only
    | split
    | fail_if_no_progress with_reducible refine Keeps.same ?_ rfl rfl
    | fail_if_no_progress with_reducible refine Keeps.more ?_ rfl (Nat.le_add_right _ _) rfl

theorem keeps_fn_execTimeLoRead {s0 s : State} (h : Keeps s0 s) : OKeeps s0 (execTimeLoRead s) := by
  unfold execTimeLoRead
  repeat' first
    | with_reducible assumption
    | intro _
    | with_reducible apply OKeeps.of
    | with_reducible apply Keeps.fold
    | with_reducible apply Keeps.ite
    | with_reducible apply OKeeps.ite
    | dsimp only
    | split
    | fail_if_no_progress with_reducible refine Keeps.same ?_ rfl rfl
    | fail_if_no_progress with_reducible refine Keeps.more ?_ rfl (Nat.le_add_right _ _) rfl

theorem keeps_fn_execRtcLoRead {s0 s : State} (h : Keeps s0 s) : OKeeps s0 (execRtcLoRead s) := by
  unfold execRtcLoRead
  repeat' first
    | with_reducible assumption
    | intro _
    | with_reducible apply OKeeps.of
    | with_reducible apply Keeps.fold
    | with_reducible apply Keeps.ite
    | with_reducible apply OKeeps.ite
    | dsimp only
    | split
    | fail_if_no_progress with_reducible refine Keeps.same ?_ rfl rfl
    | fail_if_no_progress with_reducible refine Keeps.more ?_ rfl (Nat.le_add_right _ _) rfl

theorem keeps_fn_execDmaDoorbell {s0 s : State} (h : Keeps s0 s) (value : W) : OKeeps s0 (execDmaDoorbell value s) := by
  unfold execDmaDoorbell
  repeat' first
    | with_reducible assumption
    | intro _
    | with_reducible apply OKeeps.of
    | with_reducible apply keeps_accessWrite
    | with_reducible apply Keeps.fold
    | with_reducible apply Keeps.ite
    | with_reducible apply OKeeps.ite
    | dsimp only
    | split
    | fail_if_no_progress with_reducible refine Keeps.same ?_ rfl rfl
    | fail_if_no_progress with_reducible refine Keeps.more ?_ rfl (Nat.le_add_right _ _) rfl

theorem keeps_fn_execSynthRefWrite {s0 s : State} (h : Keeps s0 s) (ch : Fin 81) (value : W) : OKeeps s0 (execSynthRefWrite ch value s) := by
  unfold execSynthRefWrite
  repeat' first
    | with_reducible assumption
    | intro _
    | with_reducible apply OKeeps.of
    | with_reducible apply keeps_accessWrite
    | with_reducible apply Keeps.fold
    | with_reducible apply Keeps.ite
    | with_reducible apply OKeeps.ite
    | dsimp only
    | split
    | fail_if_no_progress with_reducible refine Keeps.same ?_ rfl rfl
    | fail_if_no_progress with_reducible refine Keeps.more ?_ rfl (Nat.le_add_right _ _) rfl

theorem keeps_fn_execSafLock {s0 s : State} (h : Keeps s0 s) (value : W) : OKeeps s0 (execSafLock value s) := by
  unfold execSafLock
  repeat' first
    | with_reducible assumption
    | intro _
    | with_reducible apply OKeeps.of
    | with_reducible apply keeps_accessWrite
    | with_reducible apply Keeps.fold
    | with_reducible apply Keeps.ite
    | with_reducible apply OKeeps.ite
    | dsimp only
    | split
    | fail_if_no_progress with_reducible refine Keeps.same ?_ rfl rfl
    | fail_if_no_progress with_reducible refine Keeps.more ?_ rfl (Nat.le_add_right _ _) rfl

theorem keeps_fn_execSafInject {s0 s : State} (h : Keeps s0 s) (value : W) : OKeeps s0 (execSafInject value s) := by
  unfold execSafInject
  repeat' first
    | with_reducible assumption
    | intro _
    | with_reducible apply OKeeps.of
    | with_reducible apply keeps_regWrite32
    | with_reducible apply Keeps.fold
    | with_reducible apply Keeps.ite
    | with_reducible apply OKeeps.ite
    | dsimp only
    | split
    | fail_if_no_progress with_reducible refine Keeps.same ?_ rfl rfl
    | fail_if_no_progress with_reducible refine Keeps.more ?_ rfl (Nat.le_add_right _ _) rfl

theorem keeps_fn_execSafReset {s0 s : State} (h : Keeps s0 s) (value : W) : OKeeps s0 (execSafReset value s) := by
  unfold execSafReset
  repeat' first
    | with_reducible assumption
    | intro _
    | with_reducible apply OKeeps.of
    | with_reducible apply keeps_accessWrite
    | with_reducible apply Keeps.fold
    | with_reducible apply Keeps.ite
    | with_reducible apply OKeeps.ite
    | dsimp only
    | split
    | fail_if_no_progress with_reducible refine Keeps.same ?_ rfl rfl
    | fail_if_no_progress with_reducible refine Keeps.more ?_ rfl (Nat.le_add_right _ _) rfl

end Sys2Proof.Laws
end

