-- ==== Sys2Proof/Laws/KeepsStartup.lean ====
section
/-!
SUPPORT. The operations and meanings of Machine/Startup.lean respect the relation of Keeps.lean.
-/

namespace Sys2Proof.Laws

open Sys2Proof Sys2Proof.Machine

set_option linter.unusedTactic false
set_option linter.unreachableTactic false
set_option linter.unusedVariables false

theorem keeps_vbatRises {s0 s : State} (h : Keeps s0 s) : Keeps s0 (State.vbatRises s) := by
  unfold State.vbatRises
  repeat' first
    | with_reducible assumption
    | intro _
    | with_reducible apply keeps_modPwr
    | with_reducible apply Keeps.fold
    | with_reducible apply Keeps.ite
    | dsimp only
    | split
    | fail_if_no_progress with_reducible refine Keeps.same ?_ rfl rfl
    | fail_if_no_progress with_reducible refine Keeps.more ?_ rfl (Nat.le_add_right _ _) rfl

theorem keeps_fn_execVbatRise {s0 s : State} (h : Keeps s0 s) : OKeeps s0 (execVbatRise s) := by
  unfold execVbatRise
  repeat' first
    | with_reducible assumption
    | intro _
    | with_reducible apply OKeeps.of
    | with_reducible apply keeps_vbatRises
    | with_reducible apply Keeps.fold
    | with_reducible apply Keeps.ite
    | with_reducible apply OKeeps.ite
    | dsimp only
    | split
    | fail_if_no_progress with_reducible refine Keeps.same ?_ rfl rfl
    | fail_if_no_progress with_reducible refine Keeps.more ?_ rfl (Nat.le_add_right _ _) rfl

theorem keeps_fn_execVbatLoss {s0 s : State} (h : Keeps s0 s) : OKeeps s0 (execVbatLoss s) := by
  unfold execVbatLoss
  repeat' first
    | with_reducible assumption
    | intro _
    | with_reducible apply OKeeps.of
    | with_reducible apply keeps_resetCold
    | with_reducible apply keeps_modPwr
    | with_reducible apply Keeps.fold
    | with_reducible apply Keeps.ite
    | with_reducible apply OKeeps.ite
    | dsimp only
    | split
    | fail_if_no_progress with_reducible refine Keeps.same ?_ rfl rfl
    | fail_if_no_progress with_reducible refine Keeps.more ?_ rfl (Nat.le_add_right _ _) rfl

theorem keeps_fn_execPowerGood {s0 s : State} (h : Keeps s0 s) : OKeeps s0 (execPowerGood s) := by
  unfold execPowerGood
  repeat' first
    | with_reducible assumption
    | intro _
    | with_reducible apply OKeeps.of
    | with_reducible apply keeps_railsGood
    | with_reducible apply Keeps.fold
    | with_reducible apply Keeps.ite
    | with_reducible apply OKeeps.ite
    | dsimp only
    | split
    | fail_if_no_progress with_reducible refine Keeps.same ?_ rfl rfl
    | fail_if_no_progress with_reducible refine Keeps.more ?_ rfl (Nat.le_add_right _ _) rfl

theorem keeps_fn_execColdRestart {s0 s : State} (h : Keeps s0 s) : OKeeps s0 (execColdRestart s) := by
  unfold execColdRestart
  repeat' first
    | with_reducible assumption
    | intro _
    | with_reducible apply OKeeps.of
    | with_reducible apply keeps_modPwr
    | with_reducible apply Keeps.fold
    | with_reducible apply Keeps.ite
    | with_reducible apply OKeeps.ite
    | dsimp only
    | split
    | fail_if_no_progress with_reducible refine Keeps.same ?_ rfl rfl
    | fail_if_no_progress with_reducible refine Keeps.more ?_ rfl (Nat.le_add_right _ _) rfl

theorem keeps_resetEvents {s0 s : State} (h : Keeps s0 s) : Keeps s0 (State.resetEvents s) := by
  unfold State.resetEvents
  repeat' first
    | with_reducible assumption
    | intro _
    | with_reducible apply keeps_raiseDeferred
    | with_reducible apply Keeps.fold
    | with_reducible apply Keeps.ite
    | dsimp only
    | split
    | fail_if_no_progress with_reducible refine Keeps.same ?_ rfl rfl
    | fail_if_no_progress with_reducible refine Keeps.more ?_ rfl (Nat.le_add_right _ _) rfl

theorem keeps_becomeReady {s0 s : State} (h : Keeps s0 s) : Keeps s0 (State.becomeReady s) := by
  unfold State.becomeReady
  repeat' first
    | with_reducible assumption
    | intro _
    | with_reducible apply keeps_resetEvents
    | with_reducible apply Keeps.fold
    | with_reducible apply Keeps.ite
    | dsimp only
    | split
    | fail_if_no_progress with_reducible refine Keeps.same ?_ rfl rfl
    | fail_if_no_progress with_reducible refine Keeps.more ?_ rfl (Nat.le_add_right _ _) rfl

theorem keeps_boot {s0 s : State} (h : Keeps s0 s) : Keeps s0 (State.boot s) := by
  unfold State.boot
  repeat' first
    | with_reducible assumption
    | intro _
    | with_reducible apply keeps_modPwr
    | with_reducible apply keeps_modClk
    | with_reducible apply keeps_runBoot
    | with_reducible apply keeps_becomeReady
    | with_reducible apply Keeps.fold
    | with_reducible apply Keeps.ite
    | dsimp only
    | split
    | fail_if_no_progress with_reducible refine Keeps.same ?_ rfl rfl
    | fail_if_no_progress with_reducible refine Keeps.more ?_ rfl (Nat.le_add_right _ _) rfl

theorem keeps_fn_execBootRom {s0 s : State} (h : Keeps s0 s) : OKeeps s0 (execBootRom s) := by
  unfold execBootRom
  repeat' first
    | with_reducible assumption
    | intro _
    | with_reducible apply OKeeps.of
    | with_reducible apply keeps_boot
    | with_reducible apply Keeps.fold
    | with_reducible apply Keeps.ite
    | with_reducible apply OKeeps.ite
    | dsimp only
    | split
    | fail_if_no_progress with_reducible refine Keeps.same ?_ rfl rfl
    | fail_if_no_progress with_reducible refine Keeps.more ?_ rfl (Nat.le_add_right _ _) rfl

theorem keeps_storeCheck {s0 s : State} (h : Keeps s0 s) : Keeps s0 (State.storeCheck s) := by
  unfold State.storeCheck
  repeat' first
    | with_reducible assumption
    | intro _
    | with_reducible apply keeps_store
    | with_reducible apply Keeps.fold
    | with_reducible apply Keeps.ite
    | dsimp only
    | split
    | fail_if_no_progress with_reducible refine Keeps.same ?_ rfl rfl
    | fail_if_no_progress with_reducible refine Keeps.more ?_ rfl (Nat.le_add_right _ _) rfl

theorem keeps_fn_execStewardReady {s0 s : State} (h : Keeps s0 s) : OKeeps s0 (execStewardReady s) := by
  unfold execStewardReady
  repeat' first
    | with_reducible assumption
    | intro _
    | with_reducible apply OKeeps.of
    | with_reducible apply keeps_loadCal
    | with_reducible apply keeps_becomeReady
    | with_reducible apply keeps_storeCheck
    | with_reducible apply Keeps.fold
    | with_reducible apply Keeps.ite
    | with_reducible apply OKeeps.ite
    | dsimp only
    | split
    | fail_if_no_progress with_reducible refine Keeps.same ?_ rfl rfl
    | fail_if_no_progress with_reducible refine Keeps.more ?_ rfl (Nat.le_add_right _ _) rfl

theorem keeps_fn_execWatchAutoEntry {s0 s : State} (h : Keeps s0 s) : OKeeps s0 (execWatchAutoEntry s) := by
  unfold execWatchAutoEntry
  repeat' first
    | with_reducible assumption
    | intro _
    | with_reducible apply OKeeps.of
    | with_reducible apply keeps_stewardSleep
    | with_reducible apply Keeps.fold
    | with_reducible apply Keeps.ite
    | with_reducible apply OKeeps.ite
    | dsimp only
    | split
    | fail_if_no_progress with_reducible refine Keeps.same ?_ rfl rfl
    | fail_if_no_progress with_reducible refine Keeps.more ?_ rfl (Nat.le_add_right _ _) rfl

end Sys2Proof.Laws
end

