-- ==== Sys2Proof/Laws/KeepsHci.lean ====
section
/-!
SUPPORT. The operations and meanings of Machine/Hci.lean respect the relation of Keeps.lean.
-/

namespace Sys2Proof.Laws

open Sys2Proof Sys2Proof.Machine

set_option linter.unusedTactic false
set_option linter.unreachableTactic false
set_option linter.unusedVariables false

theorem keeps_hciTaken {s0 s : State} (h : Keeps s0 s) : Keeps s0 (State.hciTaken s) := by
  unfold State.hciTaken
  repeat' first
    | with_reducible assumption
    | intro _
    | with_reducible apply keeps_slotRead
    | with_reducible apply Keeps.fold
    | with_reducible apply Keeps.ite
    | dsimp only
    | split
    | fail_if_no_progress with_reducible refine Keeps.same ?_ rfl rfl
    | fail_if_no_progress with_reducible refine Keeps.more ?_ rfl (Nat.le_add_right _ _) rfl

theorem keeps_hciTo {s0 s : State} (h : Keeps s0 s) (type : Byte) (p : List Byte) : Keeps s0 (State.hciTo s type p) := by
  unfold State.hciTo
  repeat' first
    | with_reducible assumption
    | intro _
    | with_reducible apply keeps_modAcc
    | with_reducible apply Keeps.fold
    | with_reducible apply Keeps.ite
    | dsimp only
    | split
    | fail_if_no_progress with_reducible refine Keeps.same ?_ rfl rfl
    | fail_if_no_progress with_reducible refine Keeps.more ?_ rfl (Nat.le_add_right _ _) rfl
    | rfl

theorem keeps_hciComplete {s0 s : State} (h : Keeps s0 s) (op : Nat) (ret : List Byte) : Keeps s0 (State.hciComplete s op ret) := by
  unfold State.hciComplete
  repeat' first
    | with_reducible assumption
    | intro _
    | with_reducible apply keeps_hciOut
    | with_reducible apply Keeps.fold
    | with_reducible apply Keeps.ite
    | dsimp only
    | split
    | fail_if_no_progress with_reducible refine Keeps.same ?_ rfl rfl
    | fail_if_no_progress with_reducible refine Keeps.more ?_ rfl (Nat.le_add_right _ _) rfl

theorem keeps_hciStatus {s0 s : State} (h : Keeps s0 s) (op : Nat) (st : Byte) : Keeps s0 (State.hciStatus s op st) := by
  unfold State.hciStatus
  repeat' first
    | with_reducible assumption
    | intro _
    | with_reducible apply keeps_hciOut
    | with_reducible apply Keeps.fold
    | with_reducible apply Keeps.ite
    | dsimp only
    | split
    | fail_if_no_progress with_reducible refine Keeps.same ?_ rfl rfl
    | fail_if_no_progress with_reducible refine Keeps.more ?_ rfl (Nat.le_add_right _ _) rfl

theorem keeps_fn_accBody {s0 s : State} (h : Keeps s0 s) (op : Nat) (c : CmdEntry) : AKeeps s0 (accBody op c s) := by
  unfold accBody
  split
  · exact keeps_fn_bodyAccRxCfg h c
  · exact keeps_fn_bodyAccRxStats h c
  · exact keeps_fn_bodyAccListen h c
  · exact keeps_fn_bodyAccTx h c
  · exact keeps_fn_bodyAccTxStop h c
  · exact keeps_fn_bodyAccRegWrite h c
  · exact keeps_fn_bodyAccRegLock h c
  · exact keeps_fn_bodyAccRegRead h c
  · exact keeps_fn_bodyAccCredLoad h c
  · exact keeps_fn_bodyAccCredList h c
  · exact keeps_fn_bodyAccCredEvict h c
  · exact keeps_fn_bodyAccUnlockCfg h c
  · exact keeps_fn_bodyAccVkey h c
  · exact keeps_fn_bodyAccRange h c
  · exact keeps_fn_bodyAccVerdictRead h c
  · exact AKeeps.fail

theorem keeps_vendor {s0 s : State} (h : Keeps s0 s) (cc : Nat) (params : List Byte) : Keeps s0 (State.vendor s cc params) := by
  unfold State.vendor
  repeat' first
    | with_reducible assumption
    | intro _
    | with_reducible apply keeps_runCmd
    | with_reducible apply keeps_hciOut
    | with_reducible apply keeps_runCmd
    | with_reducible apply keeps_fn_accBody
    | with_reducible apply Keeps.fold
    | with_reducible apply Keeps.ite
    | dsimp only
    | split
    | fail_if_no_progress with_reducible refine Keeps.same ?_ rfl rfl
    | fail_if_no_progress with_reducible refine Keeps.more ?_ rfl (Nat.le_add_right _ _) rfl

theorem keeps_connGone {s0 s : State} (h : Keeps s0 s) (h : BitVec 16) : Keeps s0 (State.connGone s h) := by
  unfold State.connGone
  repeat' first
    | with_reducible assumption
    | intro _
    | with_reducible apply keeps_modAcc
    | with_reducible apply keeps_flowGone
    | with_reducible apply Keeps.fold
    | with_reducible apply Keeps.ite
    | dsimp only
    | split
    | fail_if_no_progress with_reducible refine Keeps.same ?_ rfl rfl
    | fail_if_no_progress with_reducible refine Keeps.more ?_ rfl (Nat.le_add_right _ _) rfl
    | rfl

theorem keeps_csEnds {s0 s : State} (h : Keeps s0 s) : Keeps s0 (State.csEnds s) := by
  unfold State.csEnds
  repeat' first
    | with_reducible assumption
    | intro _
    | with_reducible apply keeps_modAcc
    | with_reducible apply keeps_waitedFlow
    | with_reducible apply Keeps.fold
    | with_reducible apply Keeps.ite
    | dsimp only
    | split
    | fail_if_no_progress with_reducible refine Keeps.same ?_ rfl rfl
    | fail_if_no_progress with_reducible refine Keeps.more ?_ rfl (Nat.le_add_right _ _) rfl
    | rfl

theorem keeps_hciReset {s0 s : State} (h : Keeps s0 s) : Keeps s0 (State.hciReset s) := by
  unfold State.hciReset
  repeat' first
    | with_reducible assumption
    | intro _
    | with_reducible apply keeps_modAcc
    | with_reducible apply keeps_hciComplete
    | with_reducible apply keeps_csEnds
    | with_reducible apply Keeps.fold
    | with_reducible apply Keeps.ite
    | dsimp only
    | split
    | fail_if_no_progress with_reducible refine Keeps.same ?_ rfl rfl
    | fail_if_no_progress with_reducible refine Keeps.more ?_ rfl (Nat.le_add_right _ _) rfl
    | rfl

theorem keeps_hciStandard {s0 s : State} (h : Keeps s0 s) (op : Nat) (k : HciKind) (o : HciObs) : Keeps s0 (State.hciStandard s op k o) := by
  unfold State.hciStandard
  repeat' first
    | with_reducible assumption
    | intro _
    | with_reducible apply keeps_hciOut
    | with_reducible apply keeps_modAcc
    | with_reducible apply keeps_hciComplete
    | with_reducible apply keeps_hciStatus
    | with_reducible apply keeps_connGone
    | with_reducible apply keeps_csEnds
    | with_reducible apply keeps_hciReset
    | with_reducible apply Keeps.fold
    | with_reducible apply Keeps.ite
    | dsimp only
    | split
    | fail_if_no_progress with_reducible refine Keeps.same ?_ rfl rfl
    | fail_if_no_progress with_reducible refine Keeps.more ?_ rfl (Nat.le_add_right _ _) rfl
    | rfl

theorem keeps_hciPacket {s0 s : State} (h : Keeps s0 s) (p : List Byte) (o : HciObs) : Keeps s0 (State.hciPacket s p o) := by
  unfold State.hciPacket
  repeat' first
    | with_reducible assumption
    | intro _
    | with_reducible apply keeps_hciTo
    | with_reducible apply keeps_hciComplete
    | with_reducible apply keeps_vendor
    | with_reducible apply keeps_hciStandard
    | with_reducible apply Keeps.fold
    | with_reducible apply Keeps.ite
    | dsimp only
    | split
    | fail_if_no_progress with_reducible refine Keeps.same ?_ rfl rfl
    | fail_if_no_progress with_reducible refine Keeps.more ?_ rfl (Nat.le_add_right _ _) rfl

theorem keeps_hciAcl {s0 s : State} (h : Keeps s0 s) (p : List Byte) : Keeps s0 (State.hciAcl s p) := by
  unfold State.hciAcl
  repeat' first
    | with_reducible assumption
    | intro _
    | with_reducible apply keeps_hciTo
    | with_reducible apply Keeps.fold
    | with_reducible apply Keeps.ite
    | dsimp only
    | split
    | fail_if_no_progress with_reducible refine Keeps.same ?_ rfl rfl
    | fail_if_no_progress with_reducible refine Keeps.more ?_ rfl (Nat.le_add_right _ _) rfl

theorem keeps_hciActs {s0 s : State} (h : Keeps s0 s) (e : HciEntry) (o : HciObs) : Keeps s0 (State.hciActs s e o) := by
  unfold State.hciActs
  repeat' first
    | with_reducible assumption
    | intro _
    | with_reducible apply keeps_hciOut
    | with_reducible apply keeps_hciPacket
    | with_reducible apply keeps_hciAcl
    | with_reducible apply Keeps.fold
    | with_reducible apply Keeps.ite
    | dsimp only
    | split
    | fail_if_no_progress with_reducible refine Keeps.same ?_ rfl rfl
    | fail_if_no_progress with_reducible refine Keeps.more ?_ rfl (Nat.le_add_right _ _) rfl

theorem keeps_hciEntry {s0 s : State} (h : Keeps s0 s) (e : HciEntry) (o : HciObs) : Keeps s0 (State.hciEntry s e o) := by
  unfold State.hciEntry
  repeat' first
    | with_reducible assumption
    | intro _
    | with_reducible apply keeps_hciTaken
    | with_reducible apply keeps_hciActs
    | with_reducible apply Keeps.fold
    | with_reducible apply Keeps.ite
    | dsimp only
    | split
    | fail_if_no_progress with_reducible refine Keeps.same ?_ rfl rfl
    | fail_if_no_progress with_reducible refine Keeps.more ?_ rfl (Nat.le_add_right _ _) rfl

theorem keeps_drainHciWaiting {s0 s : State} (h : Keeps s0 s) : Keeps s0 (State.drainHciWaiting s) := by
  unfold State.drainHciWaiting
  repeat' first
    | with_reducible assumption
    | intro _
    | with_reducible apply keeps_hciActs
    | with_reducible apply Keeps.fold
    | with_reducible apply Keeps.ite
    | dsimp only
    | split
    | fail_if_no_progress with_reducible refine Keeps.same ?_ rfl rfl
    | fail_if_no_progress with_reducible refine Keeps.more ?_ rfl (Nat.le_add_right _ _) rfl

theorem keeps_fn_execHciCommand {s0 s : State} (h : Keeps s0 s) (e : HciEntry) (o : HciObs) : OKeeps s0 (execHciCommand e o s) := by
  unfold execHciCommand
  repeat' first
    | with_reducible assumption
    | intro _
    | with_reducible apply OKeeps.of
    | with_reducible apply keeps_hciEntry
    | with_reducible apply Keeps.fold
    | with_reducible apply Keeps.ite
    | with_reducible apply OKeeps.ite
    | dsimp only
    | split
    | fail_if_no_progress with_reducible refine Keeps.same ?_ rfl rfl
    | fail_if_no_progress with_reducible refine Keeps.more ?_ rfl (Nat.le_add_right _ _) rfl

theorem keeps_fn_execHciAclData {s0 s : State} (h : Keeps s0 s) (e : HciEntry) : OKeeps s0 (execHciAclData e s) := by
  unfold execHciAclData
  repeat' first
    | with_reducible assumption
    | intro _
    | with_reducible apply OKeeps.of
    | with_reducible apply keeps_hciEntry
    | with_reducible apply Keeps.fold
    | with_reducible apply Keeps.ite
    | with_reducible apply OKeeps.ite
    | dsimp only
    | split
    | fail_if_no_progress with_reducible refine Keeps.same ?_ rfl rfl
    | fail_if_no_progress with_reducible refine Keeps.more ?_ rfl (Nat.le_add_right _ _) rfl

theorem keeps_fn_execHciReset {s0 s : State} (h : Keeps s0 s) : OKeeps s0 (execHciReset s) := by
  unfold execHciReset
  repeat' first
    | with_reducible assumption
    | intro _
    | with_reducible apply OKeeps.of
    | with_reducible apply keeps_hciEntry
    | with_reducible apply Keeps.fold
    | with_reducible apply Keeps.ite
    | with_reducible apply OKeeps.ite
    | dsimp only
    | split
    | fail_if_no_progress with_reducible refine Keeps.same ?_ rfl rfl
    | fail_if_no_progress with_reducible refine Keeps.more ?_ rfl (Nat.le_add_right _ _) rfl

theorem keeps_fn_execEventRateLimitExpiry {s0 s : State} (h : Keeps s0 s) (src : Byte) (inst : Byte) : OKeeps s0 (execEventRateLimitExpiry src inst s) := by
  unfold execEventRateLimitExpiry
  repeat' first
    | with_reducible assumption
    | intro _
    | with_reducible apply OKeeps.of
    | with_reducible apply keeps_rateExpire
    | with_reducible apply Keeps.fold
    | with_reducible apply Keeps.ite
    | with_reducible apply OKeeps.ite
    | dsimp only
    | split
    | fail_if_no_progress with_reducible refine Keeps.same ?_ rfl rfl
    | fail_if_no_progress with_reducible refine Keeps.more ?_ rfl (Nat.le_add_right _ _) rfl

end Sys2Proof.Laws
end

