-- ==== Sys2Proof/Laws/KeepsTick.lean ====
section
/-!
SUPPORT. The operations and meanings of Machine/Tick.lean respect the relation of Keeps.lean.
-/

namespace Sys2Proof.Laws

open Sys2Proof Sys2Proof.Machine

set_option linter.unusedTactic false
set_option linter.unreachableTactic false
set_option linter.unusedVariables false

theorem keeps_opensDone {s0 s : State} (h : Keeps s0 s) : Keeps s0 (State.opensDone s) := by
  unfold State.opensDone
  repeat' first
    | with_reducible assumption
    | intro _
    | with_reducible apply keeps_ctxOpened
    | with_reducible apply Keeps.fold
    | with_reducible apply Keeps.ite
    | dsimp only
    | split
    | fail_if_no_progress with_reducible refine Keeps.same ?_ rfl rfl
    | fail_if_no_progress with_reducible refine Keeps.more ?_ rfl (Nat.le_add_right _ _) rfl

theorem keeps_tick {s0 s : State} (h : Keeps s0 s) : Keeps s0 (State.tick s) := by
  unfold State.tick
  repeat' first
    | with_reducible assumption
    | intro _
    | with_reducible apply keeps_settleUndone
    | with_reducible apply keeps_entryStep
    | with_reducible apply keeps_resetStarts
    | with_reducible apply keeps_drainHciWaiting
    | with_reducible apply keeps_opensDone
    | with_reducible apply Keeps.fold
    | with_reducible apply Keeps.ite
    | dsimp only
    | split
    | fail_if_no_progress with_reducible refine Keeps.same ?_ rfl rfl
    | fail_if_no_progress with_reducible refine Keeps.more ?_ rfl (Nat.le_add_right _ _) rfl

end Sys2Proof.Laws
end

