-- ==== Sys2Proof/Laws/Rest.lean ====
section
/-!
SUPPORT. The operations that post to the host, raise events and complete commands change the host block and the event block and nothing
else: one lemma each.
-/

namespace Sys2Proof.Laws

open Sys2Proof Sys2Proof.Machine

set_option linter.unusedTactic false
set_option linter.unreachableTactic false
set_option linter.unusedVariables false

/-- A state without its host block and event block. -/
def rest (s : State) : State := { s with host := {}, evt := {} }

/-- Two states agree outside the host block and the event block. -/
def Rest (s t : State) : Prop := rest t = rest s

theorem Rest.refl (s : State) : Rest s s := rfl

theorem Rest.same {s0 u : State} {sys : SysBlk} {host : HostBlk} {evt : EvtBlk} {cap : CapBlk} {win : WinBlk} {svc : SvcBlk}
    {fan : FanBlk} {bul : BulBlk} {aud : AudBlk} {acc : AccBlk} {cred : CredBlk} {dma : DmaBlk} {tw : TwBlk} {clk : ClkBlk}
    {pwr : PwrBlk} {cal : CalBlk} {saf : SafBlk} {tru : TruBlk} {flags : Vector W 83} {tlm : List (Nat × W)} {mem : List Host.Cell}
    {free : Nat} {q : List Instr} (h : Rest s0 u) (_e : q = u.pending)
    (k : rest ⟨sys, host, evt, cap, win, svc, fan, bul, aud, acc, cred, dma, tw, clk, pwr, cal, saf, tru, flags, tlm, mem, free, q⟩ = rest u) :
    Rest s0 ⟨sys, host, evt, cap, win, svc, fan, bul, aud, acc, cred, dma, tw, clk, pwr, cal, saf, tru, flags, tlm, mem, free, q⟩ := by
  unfold Rest at *
  rw [k]
  exact h

theorem Rest.ite {s0 a b : State} {p : Prop} [Decidable p] (ha : Rest s0 a) (hb : Rest s0 b) : Rest s0 (if p then a else b) := by
  split
  · exact ha
  · exact hb

theorem Rest.fold {α : Type} {s0 : State} (g : State → α → State) (l : List α) {s : State} (h : Rest s0 s)
    (k : ∀ t x, Rest s0 t → Rest s0 (g t x)) : Rest s0 (l.foldl g s) := by
  induction l generalizing s with
  | nil => exact h
  | cons x l ih => exact ih (k s x h)

/-- What the relation says of the state as a whole. -/
theorem Rest.eq {s t : State} (h : Rest s t) : t = { s with host := t.host, evt := t.evt } := by
  unfold Rest rest at h
  cases t
  cases s
  simp only [State.mk.injEq] at h ⊢
  simp_all

theorem rest_modRing {s0 s : State} (h : Rest s0 s) (n : Fin 32) (f : Ring → Ring) : Rest s0 (State.modRing s n f) := by
  unfold State.modRing
  repeat' first
    | with_reducible assumption
    | intro _
    | with_reducible apply Rest.fold
    | with_reducible apply Rest.ite
    | dsimp only
    | split
    | fail_if_no_progress with_reducible refine Rest.same ?_ rfl rfl

theorem rest_post {s0 s : State} (h : Rest s0 s) (w : HostWrite) : Rest s0 (State.post s w) := by
  unfold State.post
  repeat' first
    | with_reducible assumption
    | intro _
    | with_reducible apply Rest.fold
    | with_reducible apply Rest.ite
    | dsimp only
    | split
    | fail_if_no_progress with_reducible refine Rest.same ?_ rfl rfl

theorem rest_message {s0 s : State} (h : Rest s0 s) (v : Fin 16) : Rest s0 (State.message s v) := by
  unfold State.message
  repeat' first
    | with_reducible assumption
    | intro _
    | with_reducible apply rest_post
    | with_reducible apply Rest.fold
    | with_reducible apply Rest.ite
    | dsimp only
    | split
    | fail_if_no_progress with_reducible refine Rest.same ?_ rfl rfl

theorem rest_msgDue {s0 s : State} (h : Rest s0 s) (n : Fin 32) : Rest s0 (State.msgDue s n) := by
  unfold State.msgDue
  repeat' first
    | with_reducible assumption
    | intro _
    | with_reducible apply rest_modRing
    | with_reducible apply rest_message
    | with_reducible apply Rest.fold
    | with_reducible apply Rest.ite
    | dsimp only
    | split
    | fail_if_no_progress with_reducible refine Rest.same ?_ rfl rfl

theorem rest_shadow {s0 s : State} (h : Rest s0 s) (n : Fin 32) (v : Nat) : Rest s0 (State.shadow s n v) := by
  unfold State.shadow
  repeat' first
    | with_reducible assumption
    | intro _
    | with_reducible apply rest_post
    | with_reducible apply Rest.fold
    | with_reducible apply Rest.ite
    | dsimp only
    | split
    | fail_if_no_progress with_reducible refine Rest.same ?_ rfl rfl

theorem rest_writeEntry {s0 s : State} (h : Rest s0 s) (n : Fin 32) (mk : D → Bool → HostWrite) : Rest s0 (State.writeEntry s n mk) := by
  unfold State.writeEntry
  repeat' first
    | with_reducible assumption
    | intro _
    | with_reducible apply rest_modRing
    | with_reducible apply rest_post
    | with_reducible apply rest_msgDue
    | with_reducible apply rest_shadow
    | with_reducible apply Rest.fold
    | with_reducible apply Rest.ite
    | dsimp only
    | split
    | fail_if_no_progress with_reducible refine Rest.same ?_ rfl rfl

theorem rest_useSeq {s0 s : State} (h : Rest s0 s) : Rest s0 (State.useSeq s) := by
  unfold State.useSeq
  repeat' first
    | with_reducible assumption
    | intro _
    | with_reducible apply Rest.fold
    | with_reducible apply Rest.ite
    | dsimp only
    | split
    | fail_if_no_progress with_reducible refine Rest.same ?_ rfl rfl

theorem rest_putEvent {s0 s : State} (h : Rest s0 s) (src : Nat) (code : Nat) (data : List Byte) : Rest s0 (State.putEvent s src code data) := by
  unfold State.putEvent
  repeat' first
    | with_reducible assumption
    | intro _
    | with_reducible apply rest_writeEntry
    | with_reducible apply rest_useSeq
    | with_reducible apply Rest.fold
    | with_reducible apply Rest.ite
    | dsimp only
    | split
    | fail_if_no_progress with_reducible refine Rest.same ?_ rfl rfl

theorem rest_loseEvent {s0 s : State} (h : Rest s0 s) : Rest s0 (State.loseEvent s) := by
  unfold State.loseEvent
  repeat' first
    | with_reducible assumption
    | intro _
    | with_reducible apply Rest.fold
    | with_reducible apply Rest.ite
    | dsimp only
    | split
    | fail_if_no_progress with_reducible refine Rest.same ?_ rfl rfl

theorem rest_payOwed {s0 s : State} (h : Rest s0 s) : Rest s0 (State.payOwed s) := by
  unfold State.payOwed
  repeat' first
    | with_reducible assumption
    | intro _
    | with_reducible apply rest_putEvent
    | with_reducible apply Rest.fold
    | with_reducible apply Rest.ite
    | dsimp only
    | split
    | fail_if_no_progress with_reducible refine Rest.same ?_ rfl rfl

theorem rest_raise {s0 s : State} (h : Rest s0 s) (src : Nat) (code : Nat) (data : List Byte) : Rest s0 (State.raise s src code data) := by
  unfold State.raise
  repeat' first
    | with_reducible assumption
    | intro _
    | with_reducible apply rest_useSeq
    | with_reducible apply rest_putEvent
    | with_reducible apply rest_loseEvent
    | with_reducible apply rest_payOwed
    | with_reducible apply Rest.fold
    | with_reducible apply Rest.ite
    | dsimp only
    | split
    | fail_if_no_progress with_reducible refine Rest.same ?_ rfl rfl

theorem rest_raiseDeferred {s0 s : State} (h : Rest s0 s) (src : Nat) (code : Nat) (data : List Byte) : Rest s0 (State.raiseDeferred s src code data) := by
  unfold State.raiseDeferred
  repeat' first
    | with_reducible assumption
    | intro _
    | with_reducible apply rest_raise
    | with_reducible apply Rest.fold
    | with_reducible apply Rest.ite
    | dsimp only
    | split
    | fail_if_no_progress with_reducible refine Rest.same ?_ rfl rfl

theorem rest_flushDeferred {s0 s : State} (h : Rest s0 s) : Rest s0 (State.flushDeferred s) := by
  unfold State.flushDeferred
  repeat' first
    | with_reducible assumption
    | intro _
    | with_reducible apply rest_payOwed
    | with_reducible apply rest_raise
    | with_reducible apply Rest.fold
    | with_reducible apply Rest.ite
    | dsimp only
    | split
    | fail_if_no_progress with_reducible refine Rest.same ?_ rfl rfl

theorem rest_setRate {s0 s : State} (h : Rest s0 s) (l : List RateRec) : Rest s0 (State.setRate s l) := by
  unfold State.setRate
  repeat' first
    | with_reducible assumption
    | intro _
    | with_reducible apply Rest.fold
    | with_reducible apply Rest.ite
    | dsimp only
    | split
    | fail_if_no_progress with_reducible refine Rest.same ?_ rfl rfl

theorem rest_raiseLimitedWith {s0 s : State} (h : Rest s0 s) (src : Nat) (inst : Nat) (code : Nat) (aux : W) (amount : Nat) (tail : List Byte) : Rest s0 (State.raiseLimitedWith s src inst code aux amount tail) := by
  unfold State.raiseLimitedWith
  repeat' first
    | with_reducible assumption
    | intro _
    | with_reducible apply rest_raise
    | with_reducible apply rest_setRate
    | with_reducible apply Rest.fold
    | with_reducible apply Rest.ite
    | dsimp only
    | split
    | fail_if_no_progress with_reducible refine Rest.same ?_ rfl rfl

theorem rest_raiseLimited {s0 s : State} (h : Rest s0 s) (src : Nat) (inst : Nat) (code : Nat) (aux : W) (amount : Nat) : Rest s0 (State.raiseLimited s src inst code aux amount) := by
  unfold State.raiseLimited
  repeat' first
    | with_reducible assumption
    | intro _
    | with_reducible apply rest_raiseLimitedWith
    | with_reducible apply Rest.fold
    | with_reducible apply Rest.ite
    | dsimp only
    | split
    | fail_if_no_progress with_reducible refine Rest.same ?_ rfl rfl

theorem rest_rateExpire {s0 s : State} (h : Rest s0 s) (src : Nat) (inst : Nat) : Rest s0 (State.rateExpire s src inst) := by
  unfold State.rateExpire
  repeat' first
    | with_reducible assumption
    | intro _
    | with_reducible apply rest_raise
    | with_reducible apply rest_setRate
    | with_reducible apply Rest.fold
    | with_reducible apply Rest.ite
    | dsimp only
    | split
    | fail_if_no_progress with_reducible refine Rest.same ?_ rfl rfl

theorem rest_complete {s0 s : State} (h : Rest s0 s) (op : Nat) (e : CmdEntry) (c : Completion) : Rest s0 (State.complete s op e c) := by
  unfold State.complete
  repeat' first
    | with_reducible assumption
    | intro _
    | with_reducible apply rest_writeEntry
    | with_reducible apply Rest.fold
    | with_reducible apply Rest.ite
    | dsimp only
    | split
    | fail_if_no_progress with_reducible refine Rest.same ?_ rfl rfl

theorem rest_drainHeld {s0 s : State} (h : Rest s0 s) : Rest s0 (State.drainHeld s) := by
  unfold State.drainHeld
  repeat' first
    | with_reducible assumption
    | intro _
    | with_reducible apply rest_writeEntry
    | with_reducible apply Rest.fold
    | with_reducible apply Rest.ite
    | dsimp only
    | split
    | fail_if_no_progress with_reducible refine Rest.same ?_ rfl rfl

theorem rest_hciOut {s0 s : State} (h : Rest s0 s) (type : Nat) (packet : List Byte) : Rest s0 (State.hciOut s type packet) := by
  unfold State.hciOut
  repeat' first
    | with_reducible assumption
    | intro _
    | with_reducible apply rest_writeEntry
    | with_reducible apply Rest.fold
    | with_reducible apply Rest.ite
    | dsimp only
    | split
    | fail_if_no_progress with_reducible refine Rest.same ?_ rfl rfl

theorem rest_drainHci {s0 s : State} (h : Rest s0 s) : Rest s0 (State.drainHci s) := by
  unfold State.drainHci
  repeat' first
    | with_reducible assumption
    | intro _
    | with_reducible apply rest_writeEntry
    | with_reducible apply Rest.fold
    | with_reducible apply Rest.ite
    | dsimp only
    | split
    | fail_if_no_progress with_reducible refine Rest.same ?_ rfl rfl

theorem rest_busError {s0 s : State} (h : Rest s0 s) (who : Nat) (extra : List Byte) (addr : D) : Rest s0 (State.busError s who extra addr) := by
  unfold State.busError
  repeat' first
    | with_reducible assumption
    | intro _
    | with_reducible apply rest_raise
    | with_reducible apply Rest.fold
    | with_reducible apply Rest.ite
    | dsimp only
    | split
    | fail_if_no_progress with_reducible refine Rest.same ?_ rfl rfl

theorem rest_finish {s0 s : State} (h : Rest s0 s) (op : Nat) (c : CmdEntry) (st : Status) (detail : Nat) (result : List Byte) (out : Option (List Byte)) : Rest s0 (State.finish s op c st detail result out) := by
  unfold State.finish
  repeat' first
    | with_reducible assumption
    | intro _
    | with_reducible apply rest_post
    | with_reducible apply rest_complete
    | with_reducible apply rest_hciOut
    | with_reducible apply rest_busError
    | with_reducible apply Rest.fold
    | with_reducible apply Rest.ite
    | dsimp only
    | split
    | fail_if_no_progress with_reducible refine Rest.same ?_ rfl rfl

theorem rest_dropCmd {s0 s : State} (h : Rest s0 s) (op : Nat) (id : Nat) : Rest s0 (State.dropCmd s op id) := by
  unfold State.dropCmd
  repeat' first
    | with_reducible assumption
    | intro _
    | with_reducible apply Rest.fold
    | with_reducible apply Rest.ite
    | dsimp only
    | split
    | fail_if_no_progress with_reducible refine Rest.same ?_ rfl rfl

theorem rest_addCmd {s0 s : State} (h : Rest s0 s) (op : Nat) (ph : CmdPhase) (c : CmdEntry) : Rest s0 (State.addCmd s op ph c) := by
  unfold State.addCmd
  repeat' first
    | with_reducible assumption
    | intro _
    | with_reducible apply rest_dropCmd
    | with_reducible apply Rest.fold
    | with_reducible apply Rest.ite
    | dsimp only
    | split
    | fail_if_no_progress with_reducible refine Rest.same ?_ rfl rfl

theorem rest_finishSlot {s0 s : State} (h : Rest s0 s) (op : Nat) (id : Nat) (st : Status) (detail : Nat) (result : List Byte) (out : Option (List Byte)) : Rest s0 (State.finishSlot s op id st detail result out) := by
  unfold State.finishSlot
  repeat' first
    | with_reducible assumption
    | intro _
    | with_reducible apply rest_finish
    | with_reducible apply rest_dropCmd
    | with_reducible apply Rest.fold
    | with_reducible apply Rest.ite
    | dsimp only
    | split
    | fail_if_no_progress with_reducible refine Rest.same ?_ rfl rfl

end Sys2Proof.Laws
end

