-- ==== Sys2Proof/Laws/Run.lean ====
section
/-!
SUPPORT. One command from its fetch to its completion, by what its steward answers.
-/

namespace Sys2Proof.Laws

open Sys2Proof Sys2Proof.Machine

/-- A command that reaches its steward is answered by its body. -/
theorem runCmd_takes (s : State) (op : Nat) (c : CmdEntry) (body : State → Answer) (h : s.takes op c = true) :
    s.runCmd op c body = (s.taken op c).answer op c (body (s.taken op c)) := by
  simp only [State.takes, Bool.and_eq_true, Option.isNone_iff_eq_none, Bool.not_eq_true'] at h
  obtain ⟨⟨⟨⟨h0, h1⟩, h2⟩, h3⟩, h4⟩ := h
  unfold State.runCmd State.taken
  rw [h0, h1]
  simp only [h2, if_true, Bool.false_eq_true, if_false]
  have e : (s.dropCmd op c.id).sys = s.sys := rfl
  rw [e, h3]
  simp [h4]

/-- An answer without a failure completes with E_OK. -/
theorem answer_ok (s t : State) (op : Nat) (c : CmdEntry) (r : List Byte) (o : Option (List Byte)) :
    s.answer op c (.ok t r o) = t.completesOk op c r o := rfl

/-- An answer that fails completes with its status and leaves the rest alone (R51). -/
theorem answer_fail (s : State) (op : Nat) (c : CmdEntry) (st : Status) (d : Nat) :
    s.answer op c (.fail st d) = s.finish op c st d [] none := rfl

/-- An answer that waits keeps the command outstanding. -/
theorem answer_wait (s t : State) (op : Nat) (c : CmdEntry) : s.answer op c (.wait t) = t.addCmd op .waiting c := rfl

/-- A failing check of the Hopper decides: nothing changes but the completion (R50). -/
theorem runCmd_refused (s : State) (op : Nat) (c : CmdEntry) (body : State → Answer) (st : Status) (d : Nat)
    (h0 : s.cmdHeld op c = false) (h : hopperCheck op c = some (st, d)) :
    s.runCmd op c body = (s.taken op c).finish op c st d [] none := by
  unfold State.runCmd
  rw [h0, h]
  rfl

/-- A command that the Hopper still holds back does not run (R52, R53). -/
theorem runCmd_held (s : State) (op : Nat) (c : CmdEntry) (body : State → Answer) (h : s.cmdHeld op c = true) :
    s.runCmd op c body = s := by
  unfold State.runCmd
  rw [h]
  rfl

/-- The steward finds every block as it was, but for the list of outstanding commands. -/
theorem taken_rest (s : State) (op : Nat) (c : CmdEntry) : Rest s (s.taken op c) := rest_dropCmd (Rest.refl s) op c.id

end Sys2Proof.Laws
end

