-- ==== Sys2Proof/WellFormed.lean ====
section
/-!
DEFINITION. Which operands of a command or event can come from outside at all: the sizes that the entries, packets, records and blocks of
the spec have. No meaning relies on it; a command that fails these checks stands for nothing that the hardware can be given.
-/

namespace Sys2Proof

/-- A ring 0 entry has 40 parameter bytes (R50), a slot of a ring of at most 4,096, a fetch number in 64 bits, and a buffer that holds BUF_LEN
bytes when BUF_IN says so. -/
def CmdEntry.wf (c : CmdEntry) : Bool :=
  decide (c.params.length = 40) && decide (c.slot.toNat < 4096) && decide (c.id < 2 ^ 64) &&
    (!c.flags.getLsbD 1 || decide (c.buf.length = c.bufLen.toNat))

/-- A ring 3 entry has 268 packet bytes (the table before R65). -/
def HciEntry.wf (e : HciEntry) : Bool := decide (e.packet.length = 268)

/-- A packet's advertiser address has 6 bytes. -/
def PktEndObs.wf (o : PktEndObs) : Bool := decide (o.addr.2.length = 6)

/-- A blanker block has 4,096 samples (R87). -/
def BlankBlock.wf (b : BlankBlock) : Bool := decide (b.samples.length = 4096)

/-- A window has at most 4 legs (R109). -/
def RaceIn.wf (b : RaceIn) : Bool := decide (b.legs.length ≤ 4)

/-- A frame: 4 ports (R274), and the 4 data pins of each PDM frame (R293). -/
def AudFrameObs.wf (o : AudFrameObs) : Bool := decide (o.ports.length = 4) && o.pdm.all fun f => decide (f.length = 4)

/-- A sub-ADC has 18 unit elements (R435). -/
def CalAObs.wf (o : CalAObs) : Bool := decide (o.elements.length = 18)

/-- A Class B measurement covers 81 channels, 2 modes and 4 paths (R439). -/
def CalBMeas.wf (o : CalBMeas) : Bool := decide (o.entries.length = 81) && decide (o.loops.length = 4) && decide (o.dpd.length = 2)

/-- Both measurements are whole. -/
def CalBObs.wf (o : CalBObs) : Bool := o.first.wf && o.second.wf

/-- CAL_REF measures gain codes 0 to 12 (R430). -/
def CalRefObs.wf (o : CalRefObs) : Bool := o.gains.toList.all fun l => decide (l.length = 13)

/-- A channel-sounding result names each of the 4 paths at most once (R353). -/
def CsObs.wf (o : CsObs) : Bool := decide ((o.paths.map fun p => p.1).Nodup)

/-- A DAB frame has 12 FIBs of 32 bytes (R168). -/
def DabFrameObs.wf (o : DabFrameObs) : Bool := decide (o.fibs.length = 12) && o.fibs.all fun b => decide (b.length = 32)

/-- A CIF has 18 symbols, with the one before them, at each of at most 4 positions (R177). -/
def DabCifObs.wf (o : DabCifObs) : Bool := decide (o.cells.length ≤ 4) && o.cells.all fun l => decide (l.length = 19)

/-- A DRM frame is received at at most 4 positions (R200). -/
def DrmFrameObs.wf (o : DrmFrameObs) : Bool := decide (o.cells.length ≤ 4)

/-- A scan pass measures the channels of the band on at most 4 antennas (R137, R138). -/
def scanWf (n : Nat) (l : List (List ScanObs)) : Bool := decide (l.length ≤ 4) && l.all fun x => decide (x.length ≤ n)

/-- A module record has 256 bytes (the table before R100). -/
def recordWf (r : Option (List Byte)) : Bool :=
  match r with
  | some b => decide (b.length = 256)
  | none => true

/-- The bus makes accesses of 1, 2, 4 or 8 bytes. -/
def accessSizeWf (n : Nat) : Bool := decide (n = 1) || decide (n = 2) || decide (n = 4) || decide (n = 8)

/-- The operands of a command have the sizes that the spec gives them. -/
def Instr.wf (i : Instr) : Bool :=
  match i with
  | .sysNop c => c.wf
  | .sysInfo c => c.wf
  | .sysTime c => c.wf
  | .sysSetRtc c => c.wf
  | .sysReset c => c.wf
  | .capStart c => c.wf
  | .capStop c => c.wf
  | .capGain c => c.wf
  | .capRace c => c.wf
  | .capFeed c => c.wf
  | .capModule c answer => c.wf && recordWf answer.record
  | .winOpen c => c.wf
  | .winClose c => c.wf
  | .winTune c => c.wf
  | .winRatio c => c.wf
  | .winCoef c => c.wf
  | .winBank c => c.wf
  | .winDelay c => c.wf
  | .winLeg c => c.wf
  | .winScanRead c => c.wf
  | .svcOpen c => c.wf
  | .svcClose c => c.wf
  | .svcQuality c => c.wf
  | .svcFmCfg c => c.wf
  | .svcAmCfg c => c.wf
  | .svcProbeLend c => c.wf
  | .svcProbe c => c.wf
  | .svcRdsState c => c.wf
  | .svcDabCfg c => c.wf
  | .svcDabDb c => c.wf
  | .svcDrmCfg c => c.wf
  | .svcDrmDb c => c.wf
  | .fanPolicy c => c.wf
  | .fanCand c => c.wf
  | .fanCands c => c.wf
  | .fanSwitch c => c.wf
  | .fanFollow c => c.wf
  | .audPort c => c.wf
  | .audSlotmap c => c.wf
  | .audMask c => c.wf
  | .audStart c => c.wf
  | .audQueue c => c.wf
  | .audPdm c => c.wf
  | .audStream c => c.wf
  | .bulCfg c => c.wf
  | .bulKey c => c.wf
  | .bulWatch c => c.wf
  | .bulList c => c.wf
  | .bulRead c => c.wf
  | .bulRelease c => c.wf
  | .accRxCfg c => c.wf
  | .accRxStats c => c.wf
  | .accListen c => c.wf
  | .accTx c => c.wf
  | .accTxStop c => c.wf
  | .accRegWrite c => c.wf
  | .accRegLock c => c.wf
  | .accRegRead c => c.wf
  | .accCredLoad c => c.wf
  | .accCredList c => c.wf
  | .accCredEvict c => c.wf
  | .accUnlockCfg c => c.wf
  | .accVkey c => c.wf
  | .accRange c => c.wf
  | .accVerdictRead c => c.wf
  | .pwrLevel c => c.wf
  | .pwrSleep c => c.wf
  | .pwrAlarm c => c.wf
  | .pwrStatus c => c.wf
  | .calRun c => c.wf
  | .calRef c o => c.wf && o.wf
  | .calBoard c => c.wf
  | .truFwWrite c => c.wf
  | .truFwCommit c => c.wf
  | .truFwConfirm c => c.wf
  | .truSvnAdvance c => c.wf
  | .truAttest c => c.wf
  | .truCert c => c.wf
  | .truPubkey c => c.wf
  | .truDebug c => c.wf
  | .truOemKey c => c.wf
  | .twXfer c => c.wf
  | .twBusclear c => c.wf
  | .dmaChain c => c.wf
  | .dmaWrite c => c.wf
  | .dmaStart c => c.wf
  | .dmaAppend c => c.wf
  | .dmaStop c => c.wf
  | .dmaStatus c => c.wf
  | .hciCommand e _ => e.wf
  | .hciAclData e => e.wf
  | .hciReset => true
  | .doorbellProducer _ size _ => accessSizeWf size
  | .doorbellConsumer _ size _ => accessSizeWf size
  | .commandEntryReceived _ c => c.wf
  | .commandDispatch _ => true
  | .completionHeldWrite => true
  | .ringEnClear => true
  | .quiesced => true
  | .ringEnSet => true
  | .ringEnable _ _ => true
  | .msixUnmask _ => true
  | .msixEnable => true
  | .msixCoalTimer _ => true
  | .dataRingFull _ => true
  | .hostBusError _ _ => true
  | .linkDown => true
  | .linkUp _ => true
  | .linkRetrain _ => true
  | .perstAssert => true
  | .perstRelease => true
  | .regWrite _ size _ _ => accessSizeWf size
  | .flagClear _ _ _ => true
  | .timeLoRead => true
  | .rtcLoRead => true
  | .dmaDoorbell _ => true
  | .synthRefWrite _ _ => true
  | .fanDisable _ => true
  | .safLock _ => true
  | .safInject _ => true
  | .safReset _ => true
  | .wdtKick _ => true
  | .stewardSleepRequest _ => true
  | .agcInterval _ peak => decide (peak ≤ 8192)
  | .agcHoldExpiry _ => true
  | .clipDetected _ _ => true
  | .laneMonitorBlock _ stats => decide (stats.length = 9)
  | .spareTakeover _ => true
  | .raceOutputStart _ => true
  | .raceCentreSettled _ _ => true
  | .blankerBlock _ _ b => b.wf
  | .headraceGovRestart => true
  | .feedRampDone _ => true
  | .feedMeasure _ _ => true
  | .feedLowbat _ _ => true
  | .feedShort _ _ => true
  | .feedRetry _ => true
  | .feedOpen _ => true
  | .feedOpenRecovery _ => true
  | .moduleRecordRead _ answer => recordWf answer.record
  | .lifeHourlyWrite _ record _ => recordWf record
  | .lifeWriteRetry _ _ => true
  | .legOverrun _ _ _ => true
  | .winOutputBlock _ b => b.wf
  | .winSettled _ b => b.wf
  | .winCloseEffect _ => true
  | .legRemoveEffect _ => true
  | .bankSwapEffect _ => true
  | .cmaUpdate _ b => b.wf
  | .scanFmPass meas => scanWf 641 meas
  | .scanDabPass meas => scanWf 38 meas
  | .runnerMetricTick _ _ => true
  | .runnerLockGained _ => true
  | .runnerLockLost _ => true
  | .pilotPresent _ => true
  | .pilotLost _ => true
  | .audioUnit _ _ => true
  | .rdsBlock _ _ _ => true
  | .piWithdrawn _ => true
  | .probeLevelCheck _ _ => true
  | .probeDwellExpiry _ _ => true
  | .dabFrameTiming _ => true
  | .dabFrameEnd _ o => o.wf
  | .dabFicTimeout _ => true
  | .dabHandleExpiry _ _ => true
  | .dabCif _ o => o.wf
  | .motTimeout _ _ => true
  | .drmModeFound _ _ => true
  | .drmFrameEnd _ o => o.wf
  | .contextClosed _ => true
  | .fanScoreTick _ => true
  | .fanHoldBadExpiry _ => true
  | .fanDwellGoodExpiry _ _ => true
  | .fanCandExpiry _ _ => true
  | .fanPiSeenExpiry _ _ => true
  | .alignTick _ _ => true
  | .alignCoarseCheck _ _ => true
  | .alignTimeout _ => true
  | .alignRetry _ _ => true
  | .shadowDelayFilled _ _ => true
  | .fanGap _ _ _ => true
  | .blendEnd _ => true
  | .dipEnd _ => true
  | .bulSegment _ => true
  | .bulReassemblyTimeout _ => true
  | .bulNotBefore _ => true
  | .bulWindowPrep => true
  | .bulFeedOn => true
  | .bulWindowOpen => true
  | .bulWindowClose => true
  | .audFrame o => o.wf
  | .slipExecute _ => true
  | .audClockMeasure _ _ => true
  | .audClockLost _ _ => true
  | .streamUnderrun _ => true
  | .streamResume _ => true
  | .queueXrun _ => true
  | .queueResume _ => true
  | .fadeRampEnd _ => true
  | .audEvlIn _ => true
  | .audStartPulse _ => true
  | .pdmStuck _ => true
  | .pdmDataReturn _ => true
  | .accRxOpen _ _ => true
  | .accSync _ => true
  | .accHeaderCheck _ => true
  | .accPacketEnd o => o.wf
  | .accRxWindowClose => true
  | .listenWindow _ => true
  | .synthHop _ => true
  | .synthLock _ => true
  | .synthHopFail _ => true
  | .accTxDeadline => true
  | .radioActivity _ => true
  | .coexGntWithdrawn => true
  | .dpdStep _ _ _ => true
  | .dpdRetrain => true
  | .synthCalStep _ _ => true
  | .unlockConnected _ _ => true
  | .unlockEncrypted _ => true
  | .unlockChannelOpen => true
  | .credentialSdu _ => true
  | .sduTimeout => true
  | .challengeAnswer _ => true
  | .challengeTimeout => true
  | .csProcedureDone o => o.wf
  | .verdictTw1Retry => true
  | .unlockDisconnected => true
  | .evlPulse _ => true
  | .dmaFetch _ => true
  | .dmaDescComplete _ _ => true
  | .dmaAccessError _ _ _ _ => true
  | .twTransactionStart _ _ _ => true
  | .twTransactionEnd _ _ => true
  | .twArbLost _ => true
  | .twBusError _ _ _ => true
  | .twSclTimeout _ _ _ => true
  | .twStuckPoll _ _ => true
  | .twFreeBusTimeout _ => true
  | .twAlert _ => true
  | .twAlertRepeat _ => true
  | .hostWakeRequest => true
  | .hostWakeRetry => true
  | .lockWindow _ => true
  | .refMissing => true
  | .refMonitorWindow _ => true
  | .relockAttempt => true
  | .relockFail => true
  | .refQualified => true
  | .refStartTimeout => true
  | .rtcStop => true
  | .pmicPoll _ => true
  | .pmicTimeout => true
  | .pwrPendingStart => true
  | .tjSample _ _ => true
  | .governorCap => true
  | .governorRelease => true
  | .dmaDrainTimeout => true
  | .wakePin _ _ => true
  | .rtcAlarm => true
  | .accessTimerWake => true
  | .wake _ => true
  | .wakeStepTimeout _ => true
  | .wakeStepRepeat _ => true
  | .calAStepDone o => o.wf
  | .calAStore => true
  | .calBPartDone o => o.wf
  | .memScrub _ _ => true
  | .lockstepMismatch _ => true
  | .wdtExpiry _ => true
  | .eccError _ _ => true
  | .linkCrcError _ => true
  | .accessFault _ _ => true
  | .railOutOfWindow _ => true
  | .overTemperature => true
  | .sensorsDisagree => true
  | .walingDisagree => true
  | .selftestTick _ _ => true
  | .safeStateRetry => true
  | .faultEscalate _ _ => true
  | .safeAutoReset => true
  | .debugChallengeExpiry => true
  | .vbatRise => true
  | .vbatLoss => true
  | .powerGood => true
  | .bootRom => true
  | .stewardReady => true
  | .watchAutoEntry => true
  | .coldRestart => true
  | .supervisionTimeout => true
  | .coexReqHoldExpiry => true
  | .debugPortAccess => true
  | .eventRateLimitExpiry _ _ => true

end Sys2Proof
end

