-- ==== Sys2Proof/Tests/Slice0.lean ====
section
/-!
SUPPORT. Tests of the model: ill-formed commands that each check of WellFormed refuses, a witness for the hypotheses of every
statement, and small tests of single steps whose results come from the spec.
-/

namespace Sys2Proof.Tests

open Sys2Proof Sys2Proof.Machine

set_option Elab.async false

/-- A ring as a host sets it up: 16 entries at a legal address. -/
def ringOn (r : Ring) : Ring := { r with en := true, log2size := 4, baseLo := 0x10000, plog2 := 16 }

/-- The block in RUN at PL3 with its link up, rings 0, 1, 2, 4 and 8 enabled, locked on its PLL and with both stewards running. -/
def running : State :=
  { State.reset with
    host := { State.reset.host with
      dlUp := true, ringEn := true, ready := true, rings := State.reset.host.rings.mapIdx fun i r =>
        if i = 0 ∨ i = 1 ∨ i = 2 ∨ i = 3 ∨ i = 4 ∨ i = 8 then ringOn r else r }
    sys := { State.reset.sys with stewardUp := true }
    clk := { State.reset.clk with refOn := true, refOk := true, lock := true, onPll := true, pllOn := true }
    pwr := { State.reset.pwr with st := .run, level := 3, target := 3, pwrEn := true, vbatOk := true, vbat6 := true }
    saf := { State.reset.saf with selfTestOk := true } }

/-- A doorbell has covered one entry of ring n. -/
def rung (n : Fin 32) : State := running.modRing n fun r => { r with prod := 1 }

/-- These commands are outstanding. -/
def outOn (l : List OutCmd) (s : State) : State := { s with host := { s.host with outstanding := l } }

/-- A staged unit of which so many bytes have been written, of an MOT object or not. -/
def stagedUnit (written : Nat) (mot : Option (BitVec 16)) : Unit1 :=
  { payload := [], ts := 0, seq := 0, lost := 0, mask := 0, disc := false, tag := 0, written := written, mot := mot, gen := 0, kind := 0, ring := 8 }

/-- A command entry in ring 0 slot 0 with these parameter bytes, no buffer. -/
def cmd (params : List Byte) : CmdEntry :=
  { plen := BitVec.ofNat 8 params.length, flags := 0, tag := 0, bufAddr := 0, bufLen := 0, rsvd := 0
    params := params, slot := 0, buf := [], bufErr := false, id := 0 }

/-- A command entry whose buffer of `n` bytes the device writes. -/
def cmdOut (params : List Byte) (n : Nat) : CmdEntry := { cmd params with flags := 4, bufLen := BitVec.ofNat 32 n }

/-- A command entry whose buffer the device reads. -/
def cmdIn (params : List Byte) (buf : List Byte) : CmdEntry :=
  { cmd params with flags := 2, bufLen := BitVec.ofNat 32 buf.length, buf := buf }

/-- Ring 1 holds one unsignalled entry and has a coalescing timer; its vector is masked or not. -/
def timerDue (masked : Bool) : State :=
  let s : State := { running with host := { running.host with msixEn := true, msix := Vector.replicate 16 { masked := masked } } }
  s.modRing 1 fun r => { r with coalUs := 50, irqEn := true, unsignalled := 1 }

/-- No context is in OPENING after a reset. -/
theorem nothing_opens (c : Fin 256) : ({} : SvcBlk).ctx[c].st ≠ .opening := by
  show (Vector.replicate 256 ({} : Ctx))[c].st ≠ .opening
  simp

/-- No context stages a unit after a reset. -/
theorem nothing_staged (c : Fin 256) : ({} : SvcBlk).ctx[c].staged = [] := by
  show (Vector.replicate 256 ({} : Ctx))[c].staged = []
  simp

/-- A level change to PL3 whose request has been sent: a raise from PL2, or (the cap having gone) a lowering that is already in force. -/
def levelChange (up : Bool) : State :=
  { running with pwr := { running.pwr with
      level := if up then 2 else 3, targetBefore := 2, trans := some (.level 3 up none), pmicWait := some 880 } }

/-- Device time is far on, and Tj has been hot and cool since its start. -/
def hot (s : State) : State :=
  { s with sys := { s.sys with timeUs := 20000000 }, pwr := { s.pwr with hotSince := some 0, coolSince := some 0 } }

/-- A wake step has been missed so many times. -/
def missed (r : ReadyReport) (n : Nat) : State := hot { running with pwr := { running.pwr with badStep := some (r, n) } }

/-- The PLL runs without lock after `good` windows within ±2 counts; lock was lost in RUN or not yet declared. -/
def unlocked (good : Nat) (loss : Bool) : State :=
  { running with clk := { running.clk with lock := false, onPll := false, good := good, lossInRun := loss } }

/-- `n` bytes of zero. -/
def zeros (n : Nat) : List Byte := List.replicate n 0


/-- The block in RUN with Headrace 0 running. -/
def hrOn : State := running.modHr 0 fun h => { h with running := true }

/-- The sums of nine lanes of equal rms, lane j with a mean just more than 2 % of the full scale above the others'. -/
def laneHigh (j : Nat) : List LaneStat := (List.replicate 8 ⟨0, 4000000000⟩).insertIdx j ⟨10737419, 4000000000⟩

/-- A leg of an open window on Headrace 0. -/
def legZero : Leg :=
  { no := 0, ant := 0, nco := 0, delay := 0, target := 0, delayNext := none, settling := 0, leaving := false, lost := 0, stopped := none
    stopDue := false, blockSub := 0, returned := 0, marked := false, weight := (65536, 0), chain := {}, storeBlocks := 0, gpBlocks := 0 }

/-- Window 0 is open with one leg on Headrace 0, which runs. -/
def winOn : State :=
  hrOn.modWin 0 fun w => { w with
    st := 2, preset := 3, mcic := 40, mcf := 2, mfir := 2, freq := 100000000, banks := #v[{ t := 64, builtin := true }, {}], legs := #v[some legZero, none, none, none], released := true }

/-- Feed 0 is switched on and in this state. -/
def feedIs (st : FeedState) : State := running.modFeed 0 fun f => { f with on := true, st := st }

/-- A module record with this CRC_STATIC. -/
def recOf (x : W) : List Byte := ([0x45, 0x56, 0x41, 0x4D, 1, 0, 0, 0] ++ zeros 180) ++ leBytes 4 x.toNat ++ zeros 64

/-- Its CRC field. -/
theorem recOf_crc (x : W) : slice (recOf x) 188 4 = leBytes 4 x.toNat := by rfl

/-- What the CRC covers. -/
theorem recOf_static (x : W) : slice (recOf x) 0 188 = [0x45, 0x56, 0x41, 0x4D, 1, 0, 0, 0] ++ zeros 180 := by rfl

/-- Four bytes hold a word. -/
theorem le4 (x : W) : leNat (leBytes 4 x.toNat) = x.toNat := by
  have := x.isLt
  simp [leBytes, leNat]
  omega

/-- A record whose static part passes. -/
def moduleRecord : List Byte := recOf (crc32c ([0x45, 0x56, 0x41, 0x4D, 1, 0, 0, 0] ++ zeros 180))

/-- It has 256 bytes. -/
theorem recOf_length (x : W) : (recOf x).length = 256 := by
  simp only [recOf, zeros, leBytes, List.length_append, List.length_replicate, List.length_cons, List.length_nil]

/-- Its MAGIC. -/
theorem recOf_magic (x : W) : slice (recOf x) 0 4 = [0x45, 0x56, 0x41, 0x4D] := rfl

/-- Its FORMAT. -/
theorem recOf_format (x : W) : (recOf x).getD 4 0 = 1 := rfl

/-- The record passes R101. -/
theorem moduleRecord_ok : moduleRecord.length = 256 ∧ staticPasses moduleRecord = true := by
  refine ⟨recOf_length _, ?_⟩
  unfold staticPasses moduleRecord
  rw [recOf_crc, recOf_static, le4, recOf_magic, recOf_format]
  simp only [decide_true, Bool.and_self]

/-- Port p of the two-wire block is STUCK. -/
def stuckPort (p : Fin 2) (s : State) : State := s.modTw p fun x => { x with stuck := true }

/-- Every Headrace runs. -/
def allRuns (s : State) : State := ((s.modHr 1 fun h => { h with running := true }).modHr 2 fun h => { h with running := true }).modHr 3
  fun h => { h with running := true }

/-- Window 0 has a second leg, on Headrace 1. -/
def twoLegs : State :=
  winOn.modWin 0 fun w => { w with legs := #v[some legZero, some { legZero with no := 1, ant := 1 }, none, none] }

/-- The block of window 0 is full; its leg has a delay that waits for the boundary. -/
def blockReady : State :=
  winOn.modWin 0 fun w => { w with
    start := some 5000, disc := 7, legs := #v[some { legZero with delayNext := some 3000 }, none, none, none]
    ready := List.replicate 64 { vals := [(1, 2)], mask := 0, disc := 0, ts := 900 } }

/-- Window 0 has one output sample of two legs for a weight update, the second leg excluded or not. -/
def cmaReadyOn (b : Bool) : State :=
  twoLegs.modWin 0 fun w => { w with recent := [#v[some ((100, 3), false), some ((50, 1), b), none, none]], fresh := 1 }

/-- Both legs take part. -/
def cmaReady : State := cmaReadyOn false

/-- Antennas 0 and 2 are scanned for FM and DAB; Headrace 0 runs. -/
def scanOn : State := { hrOn with win := { hrOn.win with scanCtl := 0x0503 } }

/-- Context 0 runs on the runner of window 0. -/
def ctxOn : State := winOn.modCtx 0 fun x => { x with st := .running, gen := 1 }

/-- Both scans of antenna 3 are complete. -/
def scanned : State :=
  { running with win := { running.win with
      scanFm := Vector.replicate 4 (List.replicate 641 ⟨0, 0, 0, 0, 1⟩), scanDab := Vector.replicate 4 (List.replicate 38 ⟨0, 0, 0, 0, 1⟩) } }

/-- Runner 0 is lent with this queue of checks; window 0 feeds it. -/
def lentRun (l : List ProbeCheck) : State := winOn.modFm 0 fun f => { f with lent := true, probes := l }

/-- Runner r has input. -/
def runOn (r : Fin 32) : State := (winOn.modWin 0 fun x => { x with runner := r }).modRun r fun x => { x with active := true }

/-- A millisecond of a carrier: CNR in 0.25 dB, pilot injection in 0.1 %, offset in 10 Hz or 1 Hz. -/
def tickOf (cnr pilot : Nat) (offset : Int) : RunnerMetrics :=
  { power := -6000, cnr := cnr, multipath := 3, depth := 0, adjacent := [], offset := offset, deviation := 75, pilot := pilot, modulated := true }

/-- Runner r has measured the same for n ms. -/
def ticksOn (r : Fin 32) (n : Nat) (m : RunnerMetrics) (s : State) : State :=
  s.modFm r fun f => { f with since := n, hist := List.replicate n ⟨m, 0, 15000 * 65536, 0⟩ }

/-- Runner r holds lock. -/
def lockOn (r : Fin 32) (s : State) : State := s.modRun r fun x => { x with lock := true }

/-- A tick of a good signal. -/
def steadyTick : FmTick := ⟨tickOf 100 50 100, 0, 15000 * 65536, 0⟩

/-- Runner 0 has measured it for 16 ms. -/
def steady : State := ticksOn 0 16 (tickOf 100 50 100) winOn

/-- Settings wait on AM runner 17. -/
def amNext : State := running.modFm 17 fun f => { f with next := some amDefaults }

/-- 26 bits of an RDS stream that begin at bit `pos`. -/
def blockAt (bits : BitVec 26) (pos : Nat) : RdsObs := { bits := bits, pos := pos, ts := 4, assign := none }

/-- Every RDS stream of runner 0 is enabled. -/
def streamsOn (g : RdsState → RdsState) : State :=
  (runOn 0).modFm 0 fun f => { f with cfg := [0, 0, 1, 15, 2, 14, 4, 20, 24, 8, 30, 30, 16, 6], rds := g f.rds }

/-- A zero-syndrome block B has been seen on stream 3. -/
def rdsSeenOn : State := streamsOn fun d => { d with seen := #v[[], [], [], [(0, .B, 0)]] }

/-- Stream 3 is in synchronisation three blocks into a group, with so many uncorrectable blocks behind it. -/
def rdsSyncOn (bad : Nat) : State := streamsOn fun d => { d with
  sync := 15, pos := #v[0, 0, 0, 26], hist := #v[[], [], [], List.replicate bad true], group := #v[[], [], [], [(1, 0), (2, 0), (3, 0)]] }

/-- An FM candidate of the Fantail at 101 MHz. -/
def candFm : Cand := newCand 1 101000000 0x1234 0 true false false

/-- Context 0 runs, is followed and has these candidates. -/
def followOn (l : List (Option Cand)) : State :=
  (ctxOn.modCtx 0 fun x => { x with follow := true }).modFollow 0 fun w => { w with cands := l }

/-- Context 1 is a shadow of context 0 on runner 1, and candidate 0 is what it receives; the runner has locked on its PI. -/
def shadowOn (k : Cand) : State :=
  ((((followOn [some { k with shadow := some 1 }]).modCtx 1 fun x => { x with st := .running, runner := 1, route := 255, shadowOf := some 0 }).modRun 1
    fun x => { x with lock := true }).modFm 1 fun f => { f with q := 200, rds := { f.rds with pi := some 0x1234 } }) |>.modFm 0 fun f =>
    { f with rds := { f.rds with pi := some 0x1234 } }

/-- A candidate that is aligned and filled. -/
def candReady : Cand := { candFm with converged := true, filled := true, score := 120, runner := some 1, verified := true }

/-- Estimator 0 works on candidate 0 of context 0. -/
def estOn (k : Cand) (g : Estimator → Estimator) : State := (shadowOn k).modEst 0 fun _ => g { work := some (0, 0) }

/-- A switch of context 0 to candidate 0. -/
def blendTo (dip : Bool) : Blend := { dest := 0, dip := dip, reversed := false, started := 0, ms := 250, lvl := 0, short := false, pos := 0, wait := 0 }

/-- That switch is under way. -/
def blending (dip : Bool) : State := (shadowOn candReady).modFollow 0 fun w => { w with blend := some (blendTo dip) }

/-- A segment header for fleet 1 of a bulletin of 4,667 bytes: KIND, SEQ, the unit it begins at and its length. -/
def segHead (kind seq unit n : Byte) : List Byte :=
  [1, kind, 0, 0, 0, 0, 0, 0, 0, 1, 0, 0, 0, seq] ++ leRev (128 * unit.toNat) ++ leRev 4667 ++ [0, n]
where leRev (n : Nat) : List Byte := (leBytes 4 n).reverse

/-- The last segment of a bulletin of 4,667 bytes: 59 data bytes, and this CRC. -/
def segCrc (kind seq : Byte) (x : W) : List Byte := segHead kind seq 36 59 ++ zeros 59 ++ (leBytes 4 x.toNat).reverse

/-- What its CRC covers. -/
theorem segCrc_take (k q : Byte) (x : W) : (segCrc k q x).take 83 = segHead k q 36 59 ++ zeros 59 := rfl

/-- Its CRC field. -/
theorem segCrc_field (k q : Byte) (x : W) : be (segCrc k q x) 83 4 = x.toNat := by
  have := x.isLt
  have h : slice (segCrc k q x) 83 4 = (leBytes 4 x.toNat).reverse := rfl
  rw [be, h]
  simp [leBytes, beNat, leNat]
  omega

/-- The last segment with its CRC. -/
def lastSeg (kind seq : Byte) : List Byte := segCrc kind seq (crc32c (segHead kind seq 36 59 ++ zeros 59))

/-- Its SEG_LEN. -/
theorem lastSeg_len (k q : Byte) : segLen (lastSeg k q) = 59 := by rfl

/-- It is sound. -/
theorem lastSeg_ok (k q : Byte) (n : Nat) (h : 59 ≤ n) : segOk (lastSeg k q) n = true := by
  unfold segOk
  rw [lastSeg_len]
  have e : crc32c ((lastSeg k q).take 83) = crc32c (segHead k q 36 59 ++ zeros 59) := by rw [lastSeg, segCrc_take]
  have f : be (lastSeg k q) 83 4 = (crc32c (segHead k q 36 59 ++ zeros 59)).toNat := by rw [lastSeg, segCrc_field]
  have o : segOffset (lastSeg k q) = 4608 := by rfl
  have t : segTotal (lastSeg k q) = 4667 := by rfl
  have v : be (lastSeg k q) 0 1 = 1 := by rfl
  have l : (lastSeg k q).length = 87 := by rfl
  simp only [e, f, o, t, v, l]
  simp [h, within]

/-- The reassembly of KIND 4 SEQ 7 that has these units. -/
def reasmOf (units : List Nat) : Reasm := { kind := 4, seq := 7, total := 4667, units := units, data := [], first := 0, transport := 0 }

/-- Fleet 1; context 0 takes segments from runner 0. -/
def bulOn (f : BulBlk → BulBlk) : State :=
  (winOn.modCtx 0 fun x => { x with st := .running, kind := 5 }).modBulBlk fun b => f { b with fleetId := 1 }

/-- A data group with no field but its CRC, and these bytes. -/
def groupOf (b : List Byte) : List Byte :=
  let g := [0x40, 0] ++ b
  g ++ (leBytes 2 (crc16 g).toNat).reverse

/-- Bytes followed by their CRC pass. -/
theorem crc16_passes (g : List Byte) (h : 0 < g.length) : crc16Ok (g ++ (leBytes 2 (crc16 g).toNat).reverse) = true := by
  have l : (leBytes 2 (crc16 g).toNat).reverse.length = 2 := rfl
  have e : beNat (leBytes 2 (crc16 g).toNat).reverse = (crc16 g).toNat := by
    have := (crc16 g).isLt
    simp [leBytes, beNat, leNat]
    omega
  simp only [crc16Ok, List.length_append, l, Nat.add_sub_cancel, List.take_left, List.drop_left, e, decide_true, Bool.and_true]
  exact decide_eq_true (by omega)

/-- The segment that it carries. -/
theorem groupOf_seg (b : List Byte) (a : groupFlag (groupOf b) 1 = true) (d : lastGroup (groupOf b) = true) (f : dataFieldAt (groupOf b) = 2) :
    bulletinOf (groupOf b) = some b := by
  have c : crc16Ok (groupOf b) = true := crc16_passes _ (by simp)
  have l : (groupOf b).length - 2 = ([0x40, 0] ++ b).length := by
    rw [groupOf, List.length_append]
    exact Nat.add_sub_cancel ..
  have t : (groupOf b).take ([0x40, 0] ++ b).length = [0x40, 0] ++ b := List.take_left ..
  simp only [bulletinOf, a, c, d, f, l, t, and_self, if_true]
  rfl

/-- A segment from runner 0. -/
def segObs (b : List Byte) : SegObs := { runner := 0, group := groupOf b }

/-- The block in WATCH with a reception window at this step, on Headrace 0. -/
def watching (step : BitVec 2) : State :=
  { running with pwr := { running.pwr with st := .watch, level := 2 }
                 bul := { running.bul with watchEn := true, watchPreset := 3, watchRunner := 0, watchFreq := 100000000, winStep := step } }

/-- Port 1 is set up with 8 slots of 24 bits and these masks. -/
def portOn (st : BitVec 3) (tx rx : BitVec 16) : State :=
  (running.modPort 1 fun p => { p with slots := 8, width := 1, setUp := true, st := st, tx := tx, rx := rx }).modGroup 1
    fun g => { g with qualified := true, txFifo := List.replicate 8 default }

/-- Output stream 3 holds these many frames in this state. -/
def streamOn (st : FadeSt) (n : Nat) (s : State) : State :=
  s.modStream 3 fun t => { t with st := st, frames := List.replicate n (0x12345680, 0x12345600) }

/-- Queue q is set up with 8 blocks of 96 frames at this address. -/
def queueOn (q : Fin 12) (st : FadeSt) (blocks : Nat) (s : State) : State :=
  s.modQueue q fun x => { x with en := true, evlOut := 5, evlIn := 6, p := 96, b := 8, addr := 0x10020000, st := st, blocks := blocks }

/-- A frame of port 1 in a slip line. -/
def lineFrame : LineFrame := { n := 479, energy := 9, tx := [(1, [some 7])], rx := [(1, 5, [5, 6])] }

/-- Port 1 runs with capture queue 1 and two frames in its slip line, under this slip. -/
def lineOn (slip : Option Bool) : State :=
  (queueOn 1 .playing 8 (portOn 3 0 5)).modQueue 1 (fun x => { x with mask := 5 }) |>.modGroup 1 fun g =>
    { g with line := [lineFrame, lineFrame], txFifo := List.replicate 8 [(1, [some 7])], slipNow := slip }

/-- A packet of 100 fW on a physical channel. -/
def rxPacket (phys : PhysChan) (ok : Bool) : RxPacket :=
  { power := 100, errs := 0, phy := 1, chan := 37, phys := phys, ts := 0, portB := false, headerOk := ok, captured := false, adopted := false }

/-- The receiver is open and receives this packet, with this sync held. -/
def receiving (p h : Option RxPacket) : State :=
  { running with acc := { running.acc with rxOpen := true, rxChan := 37, cur := p, heldSync := h } }

/-- A sync without errors at this power. -/
def syncAt (power : Nat) : SyncObs :=
  { bits := 0x8E89BED6, pre := 0xAAAA, phy := 1, chan := 37, phys := .primaryAdv, power := power, portB := false, ts := 5 }

/-- A header of an advertising PDU that the role accepts, with this length. -/
def advHeader (n : Nat) : HdrObs := { pduType := 0, length := n, llid := 0, ci := 0 }

/-- A listen window is open with FILTER 2 and one address in the filter accept list. -/
def listeningOn (watch : Bool) : State :=
  let s := receiving (some (rxPacket .primaryAdv true)) none
  { s with pwr := { s.pwr with st := if watch then .watch else .run }
           acc := { s.acc with listening := true, filterNow := 2, acceptList := [(0, [1, 2, 3, 4, 5, 6])] } }

/-- The end of a packet from that address. -/
def pktFrom (addr : Byte × List Byte) : PktEndObs :=
  { crcOk := true, evm := 96, length := 20, hci := [], addr := addr, opened := none, closed := none, link := none }

/-- A regulatory page with this CRC: every channel allowed, +20 dBm, no duty limit. -/
def pageCrc (x : W) : List Byte :=
  [0x45, 0x56, 0x52, 0x50, 1, 0, 0, 0] ++ leBytes 2 1000 ++ leBytes 2 1000 ++ List.replicate 10 0xFF ++ [1, 0] ++ List.replicate 81 40 ++
    zeros 19 ++ leBytes 4 x.toNat

/-- What the CRC covers. -/
def pageHead : List Byte := (pageCrc 0).take 124

/-- Its CRC field. -/
theorem pageCrc_crc (x : W) : slice (pageCrc x) 124 4 = leBytes 4 x.toNat := by rfl

/-- What the CRC covers. -/
theorem pageCrc_static (x : W) : slice (pageCrc x) 0 124 = pageHead := by rfl

/-- It has 128 bytes. -/
theorem pageCrc_pad (x : W) : padTo 128 (pageCrc x) = pageCrc x := by rfl

/-- A page that is valid. -/
def goodPage : List Byte := pageCrc (crc32c pageHead)

set_option maxRecDepth 20000 in
/-- Its ranges hold. -/
theorem pageCrc_ranges (x : W) : pageRangesOk (pageCrc x) = true := by rfl

/-- The page is valid. -/
theorem goodPage_ok : pageValid goodPage = true := by
  unfold pageValid goodPage
  rw [pageCrc_crc, pageCrc_static, le4, pageCrc_ranges]
  simp only [decide_true, Bool.and_self]

/-- The synthesiser is locked on this channel, with a VALID entry; the page is this one. -/
def synthOn (page : List Byte) (ch : Fin 81) : State :=
  { running with acc := { running.acc with
      synthSt := 2, synthCh := ch, regPage := page, synth := running.acc.synth.set ch.val { st := 1 } } }

/-- An ACC_TX of one LE 1M packet on channel 5, locked or not. -/
def accTxRun (locked : Bool) : AccTxRun :=
  { slot := 0, ch := 5, mode := 1, pAnt := 0, path := 0, count := 1, due := 100, sent := 0, tried := 0, locked := locked, stop := false }

/-- A transmission or a receive window of a class on channel 5. -/
def onAirX (tx : Bool) (cls : Fin 7) : Activity :=
  { tx := tx, cls := cls, ch := 5, pAnt := 0, path := 0, pDrv := 0, packetUs := 100, payloadUs := 50, out := [] }

/-- It is on air. -/
def onAirOf (tx : Bool) (cls : Fin 7) : State :=
  { running with acc := { running.acc with activity := some (onAirX tx cls), coexCfg := 0x809 } }

/-- A credential of slot 0 that expires at second 100. -/
def credZero : Cred :=
  { rights := 3, credId := List.replicate 16 7, notBefore := 0, notAfter := 100, irk := zeros 16, addr := zeros 6, addrType := 0
    bk := zeros 32, ltk := zeros 16, verifier := zeros 32, lastUse := 0, csCached := false }

/-- Slot 0 holds it. -/
def credOn (s : State) : State := { s with cred := { s.cred with slots := s.cred.slots.set 0 (some credZero) } }

/-- Every slot holds a credential, the RTC is set and reads this second; slot 0 expires first. -/
def fullSlots (sec : BitVec 40) : State :=
  { running with
    sys := { running.sys with rtcSet := true, rtcSec := sec }
    cred := { running.cred with slots := (Vector.replicate 64 (some credZero)).set 0 (some { credZero with notAfter := 99 }) } }

/-- Operator key 0 is loaded. -/
def keyOn : State := { running with bul := { running.bul with keys := #v[some [], none] } }

/-- A flow on slot 0 at this step, of a first-time credential or not, begun in WATCH or not. -/
def flowZero (st : FlowStep) (first watch : Bool) : Flow :=
  { step := st, slot := some 0, firstTime := first, inWatch := watch, range := none, handle := 0x40, nonce := zeros 16, aa := 5
    credId := credZero.credId, cfg := {}, outcome := none }

/-- That flow is in progress. -/
def flowOn (f : Flow) : State := { credOn running with cred := { (credOn running).cred with flow := some f } }

/-- A procedure that measured nothing. -/
def csZero : CsObs := { paths := [], rtt := [] }

/-- A good tone of phase 0 on each channel. -/
def tonesOf : List Tone := (List.finRange 81).map fun c => { chan := c, mdeg := 0, here := true, there := true }

/-- A procedure with those tones on path 0 and six round trips 1 ns around 3 ns. -/
def csTones : CsObs :=
  { paths := [(0, tonesOf)], rtt := [5000, 3000, 5000, 3000, 5000, 3000].map fun n => { valid := true, rtt := n, turn := 1000 } }

/-- The flow ranges on a page that allows every channel, with a stored path-delay part. -/
def rangingOn : State :=
  let s := flowOn (flowZero .ranging false false)
  { s with cal := { s.cal with bValid := 4 }, acc := { s.acc with regPage := List.replicate 128 0xFF } }

/-- A descriptor of `x` elements without strides. -/
def descAt (src dst x ctrl next : Nat) : List Byte :=
  leBytes 8 src ++ leBytes 8 dst ++ leBytes 2 x ++ [1, 0, 1, 0, 0, 0] ++ zeros 24 ++ leBytes 4 ctrl ++ zeros 4 ++ leBytes 4 next ++ zeros 4

/-- A life-counter write of Headrace 0 has waited for its turn for 60 s. -/
def owedLife : State :=
  ({ running with sys := { running.sys with timeUs := 60000000 } } : State).modFeed 0 fun f =>
    { f with on := true, st := .on, lifeRetry := true, lifeWait := some 0 }

/-- An area of 16 descriptors is allocated, channel 0 is on its first one, and these bytes lie there. -/
def dmaOn (g : DmaCh → DmaCh) (b : List Byte) : State :=
  (({ running with dma := { running.dma with gp := [⟨.dma, 0x20761000, 1024⟩] } }).modCh 0 fun x => g { x with cur := 0x20761000 }).store
    0x20761000 b

/-- A descriptor of one 4-byte element is one move. -/
theorem oneMove (s : State) (n : Fin 16) (src dst : Nat) (h : s.dmaDesc n = descOf (descAt src dst 1 2 1) ∧
    descOf (descAt src dst 1 2 1) = { descOf (descAt 0 0 1 2 1) with src := src, dst := dst }) :
    (s.dmaDesc n).moves = [({ reads := [(src : Int)], size := 4, dsts := [(dst : Int)], make := fun bs => [bs] } : Move)] := by
  rw [h.1, h.2]
  have e : descOf (descAt 0 0 1 2 1) = ⟨0, 0, 1, 1, 1, 0, 0, 0, 0, 0, 0, 2, 1, true⟩ := by decide +kernel
  rw [e]
  simp [Desc.moves, ctrlShuf, loop3, Desc.esize, Desc.srcAt, Desc.dstAt]

/-- A region that one area fills has no place. -/
theorem fullRegion : ∀ a : Nat, gpFits [⟨.dma, 0x20750000, 0xB0000⟩] a (64 * 1) = false := by
  intro a
  simp only [gpFits, Config.gpLo, Config.gpHi, List.all_cons, List.all_nil, Bool.and_true]
  by_cases h1 : 0x20750000 ≤ a
  · by_cases h2 : a + 64 * 1 ≤ 0x20800000
    · have : ¬ (a + 64 * 1 ≤ 0x20750000) := by omega
      have : ¬ (0x20750000 + 0xB0000 ≤ a) := by omega
      simp [*]
    · simp [h2]
  · simp [h1]

/-- Port p of the two-wire block is changed so. -/
def twOn (p : Fin 2) (g : TwPort → TwPort) : State := running.modTw p g

/-- A Class A run on Headrace 0, which runs. -/
def aRunOn (r : CalARun) : State := { hrOn with cal := { running.cal with aRun := some r } }

/-- Two measurements of a lane whose gains lie `d` apart, with `n` elements of the median weight before heavier ones. -/
def calPair (d : Int) (n : Nat) : CalAObs :=
  { first := ⟨0, 0, 0⟩, second := ⟨d, 0, 0⟩
    elements := List.replicate n ⟨1000, 3, -2, 1⟩ ++ List.replicate (18 - n) ⟨2000, 3, -2, 1⟩ }

/-- One measurement of every Class B part, `x` away from the first one. -/
def calMeas (x : Int) : CalBMeas :=
  { entries := List.replicate 81 (1, x), dpd := List.replicate 2 (x - 400, [(100, 0)]), theta := []
    loops := [1000, 1000 + x, 1000, 1000] }

/-- Two measurements `x` apart. -/
def calParts (x : Int) : CalBObs := ⟨calMeas 0, calMeas x⟩

/-- The end-of-line tone at a level and a frequency error. -/
def tone (l f : Int) : CalRefObs := ⟨l, f, .replicate 4 (List.replicate 13 100), .replicate 4 (List.replicate 8 50)⟩

/-- A Class B run. -/
def bRunOn (r : CalBRun) : State := { running with cal := { running.cal with bRun := some r } }

/-- The filter accept list and the resolving list hold n addresses each. -/
def listsOn (n : Nat) : State :=
  { running with acc := { running.acc with acceptList := List.replicate n (0, []), resolvList := List.replicate n (0, []) } }

/-- The block with the good page and these connections. -/
def pageOn (l : List Conn) : State := { synthOn goodPage 5 with acc := { (synthOn goodPage 5).acc with conns := l } }

/-- A command that starts transmission on data channel 0, among others, is not refused there. -/
theorem goodStart (c : List Conn) (l : List Nat) : (pageOn c).startRefused (0 :: l) = none := by
  have p : pageValid (pageOn c).acc.regPage = true := goodPage_ok
  have a : (pageOn c).chAllowed (Fin.ofNat 81 (rfChannel 0)) = (pageOn []).chAllowed (Fin.ofNat 81 (rfChannel 0)) := rfl
  have a' : (pageOn []).chAllowed (Fin.ofNat 81 (rfChannel 0)) = true := by decide +kernel
  have b : (pageOn c).below 1 = false := by rfl
  have q : (pageOn c).pwr.st ≠ .limp := by show PwrSt.run ≠ .limp; decide
  unfold State.startRefused State.anyAllowed
  rw [p, b, List.any_cons, a, a']
  simp [q]

/-- An HCI command meets nothing that its packet does not hold. -/
def noReply : HciObs := { handle := 0, aa := 0, slot := none, path := 0, reply := [] }

/-- An entry of ring 3 stands for the controller to read. -/
def hciRing (s : State) : State := s.modRing 3 fun r => { r with en := true, prod := 1 }

/-- A rate-limited source has an open interval. -/
def rateOn (held : Bool) : State := { running with evt := { running.evt with rate := [⟨41, 2, held, 7, 1, 5, []⟩] } }

/-- A FIB that passes its CRC with these FIGs. -/
def fibOf (figs : List Byte) : List Byte :=
  let b := padTo 30 (figs ++ [0xFF])
  b ++ (leBytes 2 (crc16 b).toNat).reverse

/-- A DAB frame with these FIBs. -/
def dabFrame (prs : Bool) (fibs : List (List Byte)) : DabFrameObs :=
  { prsOk := prs, ts := 5, fibs := fibs, nulls := [[1]], powers := [-4000], snr := 40, ficBer := 3, echo := 4, offset := -5, spread := 6
    legSnr := [40] }

/-- A CIF of no carriers. -/
def cifZero : DabCifObs := { cif := 5, ts := 9, first := 0, cells := [], pad := [] }

/-- A subchannel of one capacity unit. -/
def subOne : DabSub := { id := 7, longForm := true, tableIx := 0, prot := 3, startCu := 0, sizeCu := 1, kbps := 1 }

/-- DAB runner 24 holds 15 CIFs of that subchannel, which context 9 receives. -/
def dabFull : State :=
  ((runOn 24).modRun 24 fun x => { x with
    lock := true
    dab := { x.dab with
      timing := true, stored := 15, org := { x.dab.org with subs := [subOne] }
      ring := List.replicate 15 { ts := 1, subs := [subOne], soft := [], erased := [] } } }).modCtx 9 fun x => { x with
    st := .running, runner := 24, kind := 1, route := 9, component := 7 }

/-- A MOT object of which nothing has come yet. -/
def motSeven : MotObj :=
  { tid := 7, dir := false, head := [], headEnd := none, body := [], bodyEnd := none, placed := false, ts := 0 }

/-- A blend to a candidate that by now has the frequency of the source it leaves. -/
def blendBack : State :=
  (blending false).modFollow 0 fun w => { w with cands := [some { candReady with shadow := some 1, freq := (blending false).freqOf 0 }] }

/-- What an estimator forms: loud envelopes, and one peak at a coarse lag in ms and at the fine lag 0. -/
def envelope (lag : Int) (peak : Nat) : AlignObs :=
  { oldDev := 100, oldMean := -6000, newDev := 100, newMean := -5900, coarse := [(lag, peak), (lag + 51, 4 * peak / 5)], fine := [(0, peak)] }

/-- Shadow context 1 has given 10 s of audio. -/
def heardOn (s : State) : State := s.modCtx 1 fun x => { x with delivered := 10000 }
/-! ### Witnesses of the statements' hypotheses -/

/-- The hypotheses of QueueStep can be met. -/
theorem witness_QueueStep : ∃ (s : State) (c : Instr) (rest : List Instr), s.pending = c :: rest :=
  ⟨{ State.reset with pending := [.quiesced] }, .quiesced, [], rfl⟩

/-- The hypotheses of IdleStep can be met. -/
theorem witness_IdleStep : ∃ s : State, s.pending = [] ∧ s.pwr.trans = none ∧ s.pwr.undone = none ∧ (∀ c : Fin 256, s.svc.ctx[c].st ≠ .opening) ∧ s.host.hciWaiting = [] ∧ (s.sys.resetDue = none ∨ s.resetReady = false) :=
  ⟨State.reset, rfl, rfl, rfl, nothing_opens, rfl, .inl rfl⟩

/-- The hypotheses of EveryStepKeepsCanonicalForms can be met. -/
theorem witness_EveryStepKeepsCanonicalForms : ∃ s t : State, s.canonical = true ∧ step s = .next t :=
  ⟨State.reset, _, by decide, rfl⟩

/-- The hypotheses of LockedPageStays can be met. -/
theorem witness_LockedPageStays : ∃ s t : State, s.pageIsLocked = true ∧ step s = .next t :=
  ⟨{ State.reset with acc := { State.reset.acc with regPage := List.replicate 6 0 ++ [0x5A] } }, _, by decide, rfl⟩

/-- The hypotheses of FusesNeverGoBack can be met. -/
theorem witness_FusesNeverGoBack : ∃ s t : State, step s = .next t ∧ s.tru.oemHash.isSome = true :=
  ⟨{ State.reset with tru := { State.reset.tru with oemHash := some [] } }, _, rfl, rfl⟩

/-- The hypotheses of QueueIsFirstInFirstOut can be met. -/
theorem witness_QueueIsFirstInFirstOut : ∃ s t : State, step s = .next t ∧ s.pending ≠ [] :=
  ⟨{ State.reset with pending := [.quiesced] }, _, rfl, by decide⟩

/-- The hypotheses of LockedEolRecordStays can be met. -/
theorem witness_LockedEolRecordStays : ∃ s t : State, s.cal.eolLocked = true ∧ step s = .next t :=
  ⟨{ State.reset with cal := { State.reset.cal with eolLocked := true } }, _, by decide, rfl⟩

/-- The hypotheses of SystemCommandsComplete can be met. -/
theorem witness_SystemCommandsComplete : (∃ (s : State) (c : CmdEntry), s.takes 0x0100 c = true) ∧ (∃ (s : State) (c : CmdEntry), s.takes 0x0101 c = true) ∧ (∃ (s : State) (c : CmdEntry), s.takes 0x0102 c = true) ∧ (∃ (s : State) (c : CmdEntry), s.takes 0x0103 c = true ∧ c.u64 24 = 2 ^ 40 - 1) ∧ (∃ (s : State) (c : CmdEntry), s.takes 0x0103 c = true ∧ c.u64 24 = 2 ^ 40) ∧ (∃ (s : State) (c : CmdEntry), s.takes 0x0104 c = true ∧ s.pwr.trans = none ∧ s.pwr.undone = none ∧ c.u32 24 = 2) :=
  ⟨⟨running, cmd [], by decide⟩, ⟨running, cmd [], by decide⟩, ⟨running, cmd [], by decide⟩, ⟨running, cmd [255, 255, 255, 255, 255, 0, 0, 0], by decide⟩, ⟨running, cmd [0, 0, 0, 0, 0, 1, 0, 0], by decide⟩, ⟨running, cmd [2, 0, 0, 0], by decide⟩⟩

/-- The hypotheses of SystemCommandsComplete can be met. -/
theorem witness_SystemCommandsComplete_2 : (∃ (s : State) (c : CmdEntry), s.takes 0x0104 c = true ∧ s.pwr.trans = none ∧ s.pwr.undone = none ∧ c.u32 24 = 1) ∧ (∃ (s : State) (c : CmdEntry), s.takes 0x0104 c = true ∧ (c.u32 24 ≠ 1 ∧ c.u32 24 ≠ 2)) ∧ (∃ (s : State), s.pending = [] ∧ s.pwr.trans = none ∧ s.pwr.undone = none ∧ (∀ c : Fin 256, s.svc.ctx[c].st ≠ .opening) ∧ s.host.hciWaiting = [] ∧ s.sys.resetDue = some 2 ∧ s.resetReady = true) ∧ (∃ (s : State), s.pending = [] ∧ s.pwr.trans = none ∧ s.pwr.undone = none ∧ (∀ c : Fin 256, s.svc.ctx[c].st ≠ .opening) ∧ s.host.hciWaiting = [] ∧ s.sys.resetDue = some 1 ∧ s.resetReady = true) :=
  ⟨⟨running, cmd [1, 0, 0, 0], by decide⟩, ⟨running, cmd [3, 0, 0, 0], by decide⟩, ⟨{ running with sys := { running.sys with resetDue := some 2 } }, rfl, rfl, rfl, nothing_opens, rfl, rfl, by decide⟩, ⟨{ running with sys := { running.sys with resetDue := some 1 } }, rfl, rfl, rfl, nothing_opens, rfl, rfl, by decide⟩⟩

/-- The hypotheses of EventsAreDelivered can be met. -/
theorem witness_EventsAreDelivered : ∃ s : State, s.eventsFlow = true ∧ s.srcMasked 5 = false :=
  ⟨running, by decide⟩

/-- The hypotheses of MaskedEventsOnlyAdvanceSeq can be met. -/
theorem witness_MaskedEventsOnlyAdvanceSeq : ∃ s : State, s.srcMasked 5 = true ∧ s.evt.owed = 0 :=
  ⟨{ State.reset with evt := { State.reset.evt with mask := #v[0x20, 0, 0] } }, by decide⟩

/-- The hypotheses of EventsWithoutRoomAreLost can be met. -/
theorem witness_EventsWithoutRoomAreLost : (∃ s : State, s.srcMasked 5 = false ∧ (s.ringUp 2 && decide (2 ≤ s.host.rings[2].free)) = false) ∧ (∃ s : State, s.srcMasked 5 = false ∧ s.ringUp 2 = true ∧ s.host.rings[2].free = 1) ∧ (∃ (s : State) (v : W) (r : Ring), s.awake = true ∧ s.ringUp 2 = true ∧ v.toNat < s.host.rings[2].size ∧ (v.toNat + s.host.rings[2].size - s.host.rings[2].cons) % s.host.rings[2].size ≤ s.host.rings[2].used ∧ r = { s.host.rings[2] with cons := v.toNat } ∧ 2 ≤ r.free ∧ s.evt.owed ≠ 0) :=
  ⟨⟨State.reset, by decide⟩, ⟨running.modRing 2 fun r => { r with prod := 14 }, by decide⟩, ⟨{ running.modRing 2 (fun r => { r with prod := 14 }) with evt := { running.evt with owed := 7 } }, 1, { (running.modRing 2 fun r => { r with prod := 14 }).host.rings[2] with cons := 1 }, by decide⟩⟩

/-- The hypotheses of CompletionsAreNeverDropped can be met. -/
theorem witness_CompletionsAreNeverDropped : (∃ s : State, s.hostUp = true ∧ (s.host.rings[1].en && decide (0 < s.host.rings[1].free) && s.host.held.isEmpty) = true) ∧ (∃ s : State, s.hostUp = true ∧ (s.host.rings[1].en && decide (0 < s.host.rings[1].free) && s.host.held.isEmpty) = false) ∧ ∃ s : State, s.hostUp = false :=
  ⟨⟨running, by decide⟩, ⟨{ State.reset with host := { State.reset.host with dlUp := true, ringEn := true } }, by decide⟩, ⟨State.reset, by decide⟩⟩

/-- The hypotheses of HopperChecksDecideFirst can be met. -/
theorem witness_HopperChecksDecideFirst : (∃ (s : State) (op : BitVec 16) (c : CmdEntry) (st : Status) (d : Nat), s.host.outstanding.length < 32 ∧ s.covers 0 c.slot.toNat = true ∧ hopperCheck op.toNat c = some (st, d)) ∧ (∃ (s : State) (op : BitVec 16) (c : CmdEntry), s.host.outstanding.length < 32 ∧ s.covers 0 c.slot.toNat = true ∧ hopperCheck op.toNat c = none ∧ s.mustWait op.toNat c = false) ∧ (∃ (s : State) (op : BitVec 16) (c : CmdEntry), s.host.outstanding.length < 32 ∧ s.covers 0 c.slot.toNat = true ∧ hopperCheck op.toNat c = none ∧ s.mustWait op.toNat c = true) ∧ (∃ (s : State) (c : CmdEntry), s.covers 0 c.slot.toNat = false) ∧ (∃ (s : State) (o : OutCmd) (l : List OutCmd), s.host.outstanding = o :: l ∧ o.phase = .held ∧ s.mustWait o.opcode.toNat o.entry = false) ∧ (∃ (s : State) (o : OutCmd) (l : List OutCmd), s.host.outstanding = o :: l ∧ o.phase = .held ∧ s.mustWait o.opcode.toNat o.entry = true) :=
  ⟨⟨rung 0, 0x0DFF, cmd [], .badop, 0, by decide⟩, ⟨rung 0, 0x0100, cmd [], by decide⟩, ⟨outOn [⟨0x0100, .waiting, cmd []⟩] (rung 0), 0x0100, { cmd [] with flags := 1, id := 1 }, by decide⟩, ⟨running, cmd [], by decide⟩, ⟨outOn [⟨0x0100, .held, cmd []⟩] running, _, _, rfl, rfl, by decide⟩, ⟨outOn [⟨0x0100, .held, { cmd [] with flags := 1, id := 1 }⟩, ⟨0x0100, .waiting, cmd []⟩] running, _, _, rfl, rfl, by decide⟩⟩

/-- The hypotheses of HopperChecksDecideFirst can be met. -/
theorem witness_HopperChecksDecideFirst_2 : (∃ (s : State) (id : Nat) (c : Completion), s.ringUp 1 = true ∧ 0 < s.host.rings[1].free ∧ s.host.held = [(id, c)]) ∧ (∃ s : State, s.host.ringEn = false ∧ s.host.outstanding = []) ∧ (∃ s : State, s.host.ringEn = true) ∧ (∃ (op : _), opRow op = none) ∧ ∃ (op : Nat) (c : CmdEntry) (r : OpRow), opRow op = some r ∧ c.plen.toNat ≠ r.plen :=
  ⟨⟨{ running with host := { running.host with held := [(0, mkCompletion 0x0100 (cmd []) .ok 0 [] 0)] } }, _, _, by decide, by decide, rfl⟩, ⟨State.reset, by decide⟩, ⟨running, by decide⟩, ⟨0x0D00, by decide⟩, ⟨0x0104, cmd [], .plain 4, by decide⟩⟩

/-- The hypotheses of DoorbellsMoveIndices can be met. -/
theorem witness_DoorbellsMoveIndices : (∃ (s : State) (n : Fin 32) (v : W), (n = 0 ∨ n = 3) ∧ s.awake = true ∧ s.host.rings[n].en = true ∧ v.toNat < s.host.rings[n].size) ∧ (∃ (s : State) (n : Fin 32) (v : W), (n ≠ 0 ∧ n ≠ 3) ∧ s.awake = true ∧ s.host.rings[n].en = true ∧ v.toNat < s.host.rings[n].size ∧ (v.toNat + s.host.rings[n].size - s.host.rings[n].cons) % s.host.rings[n].size ≤ s.host.rings[n].used) ∧ (∃ (s : State) (off : BitVec 12) (n : Fin 32) (v : W), s.awake = true ∧ off.toNat / 4 = n.val ∧ s.host.rings[n].size ≤ v.toNat) ∧ (∃ (s : State) (off : BitVec 12) (n : Fin 32), s.awake = true ∧ off.toNat / 4 = n.val ∧ off.toNat % 4 ≠ 0) ∧ (∃ (s : State) (off : BitVec 12), s.awake = true ∧ 128 ≤ off.toNat) ∧ (∃ (s : State) (n : Fin 32) (v : W), (n ≠ 0 ∧ n ≠ 3) ∧ s.awake = true ∧ s.host.rings[n].en = true ∧ v.toNat < s.host.rings[n].size ∧ s.host.rings[n].used < (v.toNat + s.host.rings[n].size - s.host.rings[n].cons) % s.host.rings[n].size) :=
  ⟨⟨running, 0, 15, by decide⟩, ⟨running, 1, 0, by decide⟩, ⟨running, 0, 0, 16, by decide⟩, ⟨running, 127, 31, by decide⟩, ⟨running, 128, by decide⟩, ⟨running, 1, 1, by decide⟩⟩

/-- The hypotheses of DoorbellsMoveIndices can be met. -/
theorem witness_DoorbellsMoveIndices_2 : ∃ s : State, s.host.dlUp = false :=
  ⟨State.reset, by decide⟩

/-- The hypotheses of RingSettingsAreChecked can be met. -/
theorem witness_RingSettingsAreChecked : (∃ s : State, s.awake = true) ∧ (∃ (r : Ring) (v : W), v.getLsbD 0 = true ∧ (r.setSizes 0 v).valid 0 = true) ∧ (∃ (r : Ring) (v : W), v.getLsbD 0 = true ∧ (r.setSizes 0 v).valid 0 = false) ∧ (∃ v : W, v.getLsbD 0 = false) ∧ (∃ n : Nat, 5 ≤ n ∧ n ≤ 7) ∧ ∃ (s : State) (n : Fin 32), s.ringUp n = false :=
  ⟨⟨running, by decide⟩, ⟨{}, 0x41, by decide⟩, ⟨{}, 0x31, by decide⟩, ⟨0x40, by decide⟩, ⟨5, by decide⟩, ⟨State.reset, 0, by decide⟩⟩

/-- The hypotheses of RingProcessingStopsAndResumes can be met. -/
theorem witness_RingProcessingStopsAndResumes : (∃ s : State, s.awake = true ∧ s.host.ringEn = true) ∧ (∃ s : State, s.awake = true ∧ s.host.ringEn = true ∧ ∀ c : Fin 256, s.svc.ctx[c].staged = []) ∧ (∃ s : State, s.awake = true ∧ s.host.ringEn = false ∧ ∀ n : Fin 32, s.host.rings[n].en = false) ∧ (∃ (s : State) (u : Unit1), s.svc.ctx[0].staged = [u] ∧ u.written ≠ 0 ∧ u.mot = none) ∧ (∃ (s : State) (u : Unit1), s.svc.ctx[0].staged = [u] ∧ u.written ≠ 0 ∧ u.mot ≠ none) ∧ (∃ (s : State) (u : Unit1), s.svc.ctx[0].staged = [u] ∧ u.written = 0) :=
  ⟨⟨running, by decide⟩, ⟨running, by decide, by decide, nothing_staged⟩, ⟨{ running with host := { State.reset.host with dlUp := true } }, by decide, by decide, by decide⟩, ⟨State.reset.modCtx 0 fun x => { x with staged := [stagedUnit 64 none] }, _, rfl, by decide, rfl⟩, ⟨State.reset.modCtx 0 fun x => { x with staged := [stagedUnit 64 (some 5)] }, _, rfl, by decide, by decide⟩, ⟨State.reset.modCtx 0 fun x => { x with staged := [stagedUnit 0 none] }, _, rfl, by decide⟩⟩

/-- The hypotheses of RingProcessingStopsAndResumes can be met. -/
theorem witness_RingProcessingStopsAndResumes_2 : (∃ s : State, s.host.dlUp = true ∧ s.saf.safe = false ∧ s.pwr.st = .idle) ∧ ∃ s : State, s.saf.safe = true ∨ s.host.dlUp = false :=
  ⟨⟨{ running with pwr := { running.pwr with st := .idle } }, by decide⟩, ⟨State.reset, by decide⟩⟩

/-- The hypotheses of MessagesFollowTheMask can be met. -/
theorem witness_MessagesFollowTheMask : (∃ (s : State) (v : Fin 16), s.host.pba.getLsbD v.val = true ∧ s.host.msixEn = true ∧ s.host.funcMask = false) ∧ (∃ (s : State) (v : Fin 16), s.host.pba.getLsbD v.val = true ∧ s.host.msixEn = true ∧ s.vecMasked v = false) ∧ (∃ s : State, s.host.msixEn = false) ∧ (∃ (s : State) (n : Fin 32), s.host.rings[n].coalUs ≠ 0 ∧ s.host.msixEn = true ∧ s.host.rings[n].irqEn = true ∧ s.host.rings[n].unsignalled ≠ 0 ∧ s.vecMasked s.host.rings[n].vecIx = false) ∧ (∃ (s : State) (n : Fin 32), s.host.rings[n].coalUs ≠ 0 ∧ s.host.msixEn = true ∧ s.host.rings[n].irqEn = true ∧ s.host.rings[n].unsignalled ≠ 0 ∧ s.vecMasked s.host.rings[n].vecIx = true) ∧ ∃ (s : State) (n : Fin 32), s.ringBlocked n = true ∧ s.host.fullReported.getLsbD n.val = false :=
  ⟨⟨{ State.reset with host := { State.reset.host with pba := 1, msixEn := true } }, 0, by decide⟩, ⟨{ State.reset with host := { State.reset.host with pba := 1, msixEn := true, msix := Vector.replicate 16 { masked := false } } }, 0, by decide⟩, ⟨State.reset, by decide⟩, ⟨timerDue false, 1, by decide⟩, ⟨timerDue true, 1, by decide⟩, ⟨running.modCtx 0 fun x => { x with st := .running, kind := 1, route := 8, staged := [stagedUnit 0 none] }, 8, by decide +kernel⟩⟩

/-- The hypotheses of HostMemoryErrorsAreReported can be met. -/
theorem witness_HostMemoryErrorsAreReported : (∃ (s : State) (slot : BitVec 16), s.host.outstanding.length < 32 ∧ s.covers 0 slot.toNat = true) ∧ (∃ (s : State) (slot : BitVec 16), s.covers 0 slot.toNat = false) ∧ (∃ (s : State) (slot : BitVec 16), s.covers 3 slot.toNat = true) ∧ (∃ (s : State) (slot : BitVec 16), s.covers 3 slot.toNat = false) ∧ (∃ (s : State) (o : OutCmd), s.host.outstanding = [o] ∧ o.entry.bufIn = true ∧ (o.phase = .held ∨ o.phase = .dispatched)) ∧ (∃ (s : State) (id : Nat), ∀ o ∈ s.host.outstanding, o.entry.id ≠ id) :=
  ⟨⟨rung 0, 0, by decide⟩, ⟨rung 0, 1, by decide⟩, ⟨rung 3, 0, by decide⟩, ⟨rung 0, 0, by decide⟩, ⟨outOn [⟨0x0A01, .dispatched, cmdIn [] []⟩] running, ⟨0x0A01, .dispatched, cmdIn [] []⟩, rfl, by decide, by decide⟩, ⟨running, 0, by decide⟩⟩

/-- The hypotheses of HostMemoryErrorsAreReported can be met. -/
theorem witness_HostMemoryErrorsAreReported_2 : (∃ (s : State) (o : OutCmd), s.host.outstanding = [o] ∧ o.entry.bufOut = true ∧ o.phase ≠ .completing) ∧ (∃ (c : CmdEntry), c.slot ≠ hciSlot ∧ c.bufErr = true) :=
  ⟨⟨outOn [⟨0x0A06, .waiting, cmdOut [] 6144⟩] running, ⟨0x0A06, .waiting, cmdOut [] 6144⟩, rfl, by decide, by decide⟩, ⟨{ cmd [] with bufErr := true }, by decide⟩⟩

/-- The hypotheses of LinkDownAndUp can be met. -/
theorem witness_LinkDownAndUp : (∃ s : State, s.host.perstHigh = true ∧ s.linkPowered = true ∧ s.host.dlUp = false) ∧ (∃ s : State, s.linkPowered = false) ∧ (∃ (s : State) (sp : BitVec 4), s.host.dlUp = true ∧ sp ≠ s.host.speed) ∧ ∃ s : State, ∀ c : Fin 256, s.svc.ctx[c].staged = [] :=
  ⟨⟨{ running with host := { running.host with dlUp := false } }, by decide⟩, ⟨State.reset, by decide⟩, ⟨running, 2, by decide⟩, ⟨State.reset, nothing_staged⟩⟩

/-- The hypotheses of RegisterWritesFollowTheirAccess can be met. -/
theorem witness_RegisterWritesFollowTheirAccess : (∃ s : State, s.awake = true) ∧ (∃ s : State, s.host.dlUp = true ∧ s.saf.safe = false ∧ s.pwr.st = .idle) ∧ (∃ s : State, s.saf.safe = true) ∧ (∃ (off : BitVec 16), off.toNat % 8 = 0 ∧ off ≠ 0x3808) ∧ (∃ off : BitVec 16, off.toNat % 4 ≠ 0 ∧ off.toNat % 8 ≠ 0) ∧ ∃ s : State, s.host.dlUp = false :=
  ⟨⟨running, by decide⟩, ⟨{ running with pwr := { running.pwr with st := .idle } }, by decide⟩, ⟨{ running with saf := { running.saf with safe := true } }, by decide⟩, ⟨0x1000, by decide⟩, ⟨0x1001, by decide⟩, ⟨State.reset, by decide⟩⟩

/-- The hypotheses of RegisterEventsTakeEffect can be met. -/
theorem witness_RegisterEventsTakeEffect : (∃ s : State, s.awake = true ∧ s.saf.lock = false ∧ s.saf.enable = false) ∧ (∃ s : State, s.awake = true ∧ s.saf.lock = true ∧ s.saf.enable = true) ∧ (∃ s : State, s.host.dlUp = true ∧ s.saf.safe = true) ∧ (∃ s : State, s.host.dlUp = true ∧ s.sys.rtcSet = true) ∧ (∃ s : State, s.dma.ch[3].st = .running) ∧ (∃ v : W, v.toNat % 256 = 24) :=
  ⟨⟨running, by decide⟩, ⟨{ running with saf := { running.saf with lock := true, enable := true } }, by decide⟩, ⟨{ running with saf := { running.saf with safe := true } }, by decide⟩, ⟨{ running with sys := { running.sys with rtcSet := true } }, by decide⟩, ⟨running.modCh 3 fun x => { x with st := .running }, by decide⟩, ⟨24, by decide⟩⟩

/-- The hypotheses of RegisterEventsTakeEffect can be met. -/
theorem witness_RegisterEventsTakeEffect_2 : (∃ v : W, v.toNat % 256 = 25) :=
  ⟨25, by decide⟩

/-- The hypotheses of PowerCommandsComplete can be met. -/
theorem witness_PowerCommandsComplete : (∃ (s : State) (c : CmdEntry), s.takes 0x0801 c = true ∧ s.pwr.trans = none ∧ s.pwr.undone = none ∧ s.pwr.st = .run ∧ c.bytes 24 4 = [byte 3, 0, 0, 0] ∧ s.levelFor 3 = s.pwr.level) ∧ (∃ (s : State) (c : CmdEntry), s.takes 0x0801 c = true ∧ c.bytes 24 4 = [byte 0, 0, 0, 0] ∧ (s.levelFor 0).toNat < s.pwr.level.toNat ∧ (s.taken 0x0801 c).levelRefuser (s.levelFor 0) = none) ∧ (∃ (s : State) (c : CmdEntry), s.takes 0x0801 c = true ∧ c.bytes 24 4 = [byte 3, 0, 0, 0] ∧ s.pwr.level.toNat < (s.levelFor 3).toNat) ∧ (∃ (s : State) (c : CmdEntry), s.takes 0x0801 c = true ∧ (s.levelFor 0).toNat < s.pwr.level.toNat ∧ (s.taken 0x0801 c).levelRefuser (s.levelFor 0) = some (5, 0)) ∧ (∃ (s : State) (c : CmdEntry), s.takes 0x0801 c = true ∧ c.u8 24 = 4) ∧ (∃ (s : State) (c : CmdEntry), s.takes 0x0802 c = true ∧ c.bytes 24 4 = [byte 5, 0, 0, 0] ∧ (s.taken 0x0802 c).sleepRefuser 5 (some c.id) = none) :=
  ⟨⟨running, cmd [3, 0, 0, 0], by decide⟩, ⟨running, cmd [0, 0, 0, 0], by decide +kernel⟩, ⟨{ running with pwr := { running.pwr with level := 1 } }, cmd [3, 0, 0, 0], by decide⟩, ⟨running.modHr 0 (fun h => { h with running := true }), cmd [0, 0, 0, 0], by decide +kernel⟩, ⟨running, cmd [4, 0, 0, 0], by decide⟩, ⟨running, cmd [5, 0, 0, 0], by decide +kernel⟩⟩

/-- The hypotheses of PowerCommandsComplete can be met. -/
theorem witness_PowerCommandsComplete_2 : (∃ (s : State) (c : CmdEntry), s.takes 0x0802 c = true ∧ (s.taken 0x0802 c).sleepRefuser 1 (some c.id) = some (5, 0)) ∧ (∃ (s : State) (c : CmdEntry), s.takes 0x0803 c = true ∧ s.pwr.st = .run ∧ c.bytes 24 4 = [1, byte (c.u8 25), 0, 0] ∧ c.u8 25 ≤ 1 ∧ c.u32 28 ≠ 0) ∧ (∃ (s : State) (c : CmdEntry), s.takes 0x0803 c = true ∧ s.pwr.st = .run ∧ c.bytes 24 4 = [0, 0, 0, 0]) ∧ ∃ (s : State) (c : CmdEntry), s.takes 0x0804 c = true :=
  ⟨⟨running.modHr 0 (fun h => { h with running := true }), cmd [1, 0, 0, 0], by decide +kernel⟩, ⟨running, cmd [1, 1, 0, 0, 1, 0, 0, 0], by decide⟩, ⟨running, cmd [0, 0, 0, 0, 0, 0, 0, 0], by decide⟩, ⟨running, cmd [], by decide⟩⟩

/-- The hypotheses of LevelChangesFollowThePmic can be met. -/
theorem witness_LevelChangesFollowThePmic : (∃ (s : State) (mv : Nat) (t : BitVec 2) (slot : Option Nat), s.pwr.pmicWait = some mv ∧ mv ≠ 0 ∧ s.tw.voltDue = none ∧ s.voltSent = true ∧ s.pwr.st = .run ∧ s.pwr.pending = none ∧ s.pwr.trans = some (.level t true slot) ∧ s.pwr.target = t ∧ s.pwr.capDue = false) ∧ (∃ (s : State) (mv : Nat) (t : BitVec 2) (slot : Option Nat), s.pwr.pmicWait = some mv ∧ mv ≠ 0 ∧ s.tw.voltDue = none ∧ s.voltSent = true ∧ s.pwr.st = .run ∧ s.pwr.pending = none ∧ s.pwr.trans = some (.level t false slot) ∧ s.pwr.target = t ∧ s.levelFor t = s.pwr.level ∧ s.pwr.capDue = false) ∧ (∃ s : State, s.pwr.capped = false ∧ s.lasted s.pwr.hotSince 100000 = true ∧ s.pwr.trans = none ∧ s.pwr.level = 3 ∧ s.pwr.target = 3 ∧ s.hrRunning.length ≤ 2) ∧ (∃ s : State, s.pwr.capped = false ∧ s.lasted s.pwr.hotSince 100000 = true ∧ s.pwr.trans = none ∧ s.pwr.level ≠ 3) ∧ (∃ s : State, s.lasted s.pwr.coolSince 10000000 = true ∧ s.pwr.capped = true ∧ s.pwr.trans = none ∧ s.pwr.st = .run ∧ s.pwr.level = s.pwr.target) ∧ (∃ s : State, s.lasted s.pwr.coolSince 10000000 = true ∧ s.pwr.capped = true ∧ s.pwr.trans = none ∧ s.pwr.st = .run ∧ s.pwr.level = 2 ∧ s.pwr.target = 3) :=
  ⟨⟨levelChange true, 880, 3, none, by decide⟩, ⟨levelChange false, 880, 3, none, by decide⟩, ⟨hot running, by decide +kernel⟩, ⟨hot State.reset, by decide⟩, ⟨hot { running with pwr := { running.pwr with capped := true, level := 2, target := 2 } }, by decide⟩, ⟨hot { running with pwr := { running.pwr with capped := true, level := 2 } }, by decide⟩⟩

/-- The hypotheses of LevelChangesFollowThePmic can be met. -/
theorem witness_LevelChangesFollowThePmic_2 : (∃ (s : State) (x : Transition), s.pwr.capped = false ∧ s.lasted s.pwr.hotSince 100000 = true ∧ s.pwr.trans = some x) ∧ (∃ (s : State) (mv : Nat) (t : BitVec 2) (slot : Option Nat), s.pwr.pmicWait = some mv ∧ 2000 ≤ (s.sys.timeUs - s.pwr.pmicAt).toNat ∧ s.pwr.trans = some (.level t true slot) ∧ s.pwr.capDue = false) ∧ (∃ (s : State) (mv : Nat) (t : BitVec 2) (slot : Option Nat), s.pwr.pmicWait = some mv ∧ 2000 ≤ (s.sys.timeUs - s.pwr.pmicAt).toNat ∧ s.pwr.trans = some (.level t false slot) ∧ s.pwr.capDue = false) ∧ (∃ s : State, (s.sys.timeUs - s.pwr.pmicAt).toNat < 2000 ∧ s.lasted s.pwr.hotSince 100000 = false ∧ s.lasted s.pwr.coolSince 10000000 = false) :=
  ⟨⟨hot (levelChange true), _, rfl, by decide, rfl⟩, ⟨hot (levelChange true), 880, 3, none, by decide⟩, ⟨hot (levelChange false), 880, 3, none, by decide⟩, ⟨running, by decide⟩⟩

/-- The hypotheses of WakesAndPendingTargets can be met. -/
theorem witness_WakesAndPendingTargets : (∃ (s : State) (code : Byte), s.pwr.st = .idle ∧ s.saf.safe = false ∧ wakes s.pwr.st code.toNat = true ∧ s.pwr.heldWrites = [] ∧ s.dma = {} ∧ s.pwr.trans = none ∧ s.pwr.capDue = false ∧ s.levelFor s.pwr.target = s.pwr.level) ∧ (∃ (s : State) (code : Byte), s.pwr.st = .watch ∧ s.saf.safe = false ∧ wakes .watch code.toNat = true ∧ s.pwr.waking = none ∧ s.pwr.pmicWait = none) ∧ (∃ (s : State) (code : Byte), s.pwr.st = .stow ∧ s.saf.safe = false ∧ wakes .stow code.toNat = true ∧ s.pwr.waking = none) ∧ (∃ (s : State) (code : Byte), s.pwr.st ≠ .run ∧ wakes s.pwr.st code.toNat = false) ∧ (∃ (s : State) (k : Fin 4), s.pwr.vbatOk = true ∧ s.pwr.st = .run ∧ s.host.ready = true ∧ s.pwr.wakeCfg[k].getLsbD 0 = false ∧ s.pwr.wakeLevel.getLsbD k.val ≠ true) ∧ (∃ (s : State) (t : BitVec 3), s.pwr.st = .run ∧ 1 ≤ t.toNat ∧ t.toNat ≤ 5 ∧ s.saf.safe = false ∧ s.pwr.trans = none ∧ s.pwr.undone = none ∧ s.sleepRefuser t none = none) :=
  ⟨⟨{ running with pwr := { running.pwr with st := .idle } }, 9, by decide⟩, ⟨{ running with pwr := { running.pwr with st := .watch } }, 7, by decide⟩, ⟨{ running with pwr := { running.pwr with st := .stow } }, 5, by decide⟩, ⟨{ running with pwr := { running.pwr with st := .idle } }, 7, by decide⟩, ⟨running, 3, by decide⟩, ⟨running, 3, by decide +kernel⟩⟩

/-- The hypotheses of WakesAndPendingTargets can be met. -/
theorem witness_WakesAndPendingTargets_2 : (∃ (s : State) (t : BitVec 3), s.pwr.st = .run ∧ s.pwr.trans = none ∧ s.pwr.pending = some (.sleep t none) ∧ s.sleepRefuser t none = none) ∧ (∃ (s : State), s.clk.refOn = true ∧ s.clk.refOk = false ∧ s.pwr.badStep = none) ∧ (∃ (s : State) (t : BitVec 3), s.pwr.trans = some (.entry t none 0) ∧ 50 ≤ (s.sys.timeUs - s.pwr.entryAt).toNat ∧ s.dma.ch[5].inFlight = true ∧ ∀ n : Fin 16, n.val < 5 → s.dma.ch[n].inFlight = false) ∧ (∃ s : State, s.pwr.vbatOk = false) ∧ (∃ s : State, s.pwr.badStep = some (.vddCore, 2) ∧ 5000 ≤ (s.sys.timeUs - s.pwr.badAt).toNat) ∧ (∃ s : State, s.pwr.badStep = some (.reference, 2) ∧ 5000 ≤ (s.sys.timeUs - s.pwr.badAt).toNat) :=
  ⟨⟨{ running with pwr := { running.pwr with pending := some (.sleep 5 none) } }, 5, by decide +kernel⟩, ⟨{ running with clk := { running.clk with refOk := false } }, by decide⟩, ⟨(hot { running with pwr := { running.pwr with trans := some (.entry 1 none 0) } }).modCh 5 (fun x => { x with inFlight := true }), 1, by decide +kernel⟩, ⟨State.reset, by decide⟩, ⟨missed .vddCore 2, by decide⟩, ⟨missed .reference 2, by decide⟩⟩

/-- The hypotheses of WakesAndPendingTargets can be met. -/
theorem witness_WakesAndPendingTargets_3 : (∃ (s : State) (n : _), s.pwr.badStep = some (.fio, n) ∧ 5000 ≤ (s.sys.timeUs - s.pwr.badAt).toNat ∧ n < 2) :=
  ⟨missed .fio 1, 1, by decide⟩

/-- The hypotheses of ClockEventsFollowLock can be met. -/
theorem witness_ClockEventsFollowLock : (∃ (s : State), s.clk.pllOn = true ∧ s.clk.lock = true ∧ s.pwr.st = .run ∧ s.sys.stewardUp = true) ∧ (∃ (s : State), s.clk.pllOn = true ∧ s.clk.lock = false ∧ 3 ≤ s.clk.good ∧ s.clk.lossInRun = true) ∧ (∃ (s : State), s.clk.pllOn = true ∧ s.clk.lock = false ∧ 3 ≤ s.clk.good ∧ s.clk.lossInRun = false ∧ s.pwr.waking = none) ∧ (∃ (s : State), s.clk.refOn = true ∧ s.clk.timeFio = false ∧ s.clk.lock = false) ∧ (∃ (s : State), s.clk.refOn = true ∧ s.clk.refBad = true) ∧ (∃ (s : State), s.clk.refOn = true ∧ s.clk.outRun = 1 ∧ s.clk.refBad = false ∧ s.clk.lock = false) :=
  ⟨⟨running, by decide⟩, ⟨unlocked 3 true, by decide⟩, ⟨unlocked 3 false, by decide⟩, ⟨unlocked 0 false, by decide⟩, ⟨{ running with clk := { running.clk with refBad := true } }, by decide⟩, ⟨{ running with clk := { (unlocked 0 false).clk with outRun := 1 } }, by decide⟩⟩

/-- The hypotheses of ClockEventsFollowLock can be met. -/
theorem witness_ClockEventsFollowLock_2 : (∃ (s : State), s.clk.lossInRun = true ∧ s.clk.lock = false ∧ s.clk.refBad = false ∧ s.clk.nextTry.toNat ≤ s.sys.timeUs.toNat) ∧ (∃ (s : State), s.clk.lossInRun = true ∧ s.clk.lock = false ∧ s.clk.pllOn = true ∧ 1000 ≤ (s.sys.timeUs - s.clk.triedAt).toNat) ∧ (∃ (s : State), s.clk.refOn = true ∧ s.clk.refOk = false ∧ 5000 ≤ (s.sys.timeUs - s.clk.refSince).toNat ∧ s.pwr.st ≠ .watch ∧ s.pwr.badStep = none) ∧ ∃ (s : State), s.pwr.st ≠ .run :=
  ⟨⟨unlocked 0 true, by decide⟩, ⟨hot (unlocked 0 true), by decide⟩, ⟨hot { running with clk := { running.clk with refOk := false } }, by decide⟩, ⟨State.reset, by decide⟩⟩

/-- The hypotheses of FaultsAreClassified can be met. -/
theorem witness_FaultsAreClassified : (∃ (s : State), s.saf.safe = false ∧ s.saf.enable = true ∧ s.pwr.st = .run ∧ s.pwr.trans = none ∧ faultClass 1 = 3) ∧ (∃ (s : State), s.saf.safe = true) ∧ faultClass 13 = 2 ∧ faultClass 12 = 0 ∧ ∃ (s : State), s.saf.safe = false ∧ s.pwr.st = .idle :=
  ⟨⟨{ running with saf := { running.saf with enable := true } }, by decide⟩, ⟨{ running with saf := { running.saf with safe := true } }, by decide⟩, by decide, by decide, ⟨{ running with pwr := { running.pwr with st := .idle } }, by decide⟩⟩

/-- The hypotheses of MonitorsReportTheirCode can be met. -/
theorem witness_MonitorsReportTheirCode : (∃ (s : State), s.saf.enable = true ∧ s.saf.safe = false ∧ s.pwr.st = .run ∧ s.sys.stewardUp = true ∧ s.pwr.railOff = 0 ∧ s.host.ready = true ∧ 980 * s.winMax ≤ (s.sys.timeUs - s.saf.lastKick[(1 : Fin 2)]).toNat) ∧ (∃ (s : State), s.saf.enable = true ∧ s.saf.safe = false ∧ s.pwr.st = .run ∧ s.sys.stewardUp = true ∧ (s.sys.timeUs - s.saf.lastKick[(1 : Fin 2)]).toNat < 1000 * s.winMin ∧ (s.sys.timeUs - s.saf.lastKick[(1 : Fin 2)]).toNat < 980 * s.winMax) ∧ (∃ (s : State), s.pwr.st = .watch) ∧ (∃ (s : State), s.pwr.st = .stow) ∧ (∃ (s : State), s.saf.request = some (7, 2 + 1) ∧ s.safeIdle = true ∧ 1000 ≤ (s.sys.timeUs - s.saf.requestAt).toNat) ∧ (∃ (s : State), s.saf.request = some (7, 0) ∧ s.safeIdle = true ∧ 1000 ≤ (s.sys.timeUs - s.saf.requestAt).toNat) :=
  ⟨⟨hot { running with saf := { running.saf with enable := true } }, by decide⟩, ⟨{ running with saf := { running.saf with enable := true } }, by decide⟩, ⟨{ running with pwr := { running.pwr with st := .watch } }, rfl⟩, ⟨{ running with pwr := { running.pwr with st := .stow } }, rfl⟩, ⟨hot { running with saf := { running.saf with request := some (7, 3) } }, by decide⟩, ⟨hot { running with saf := { running.saf with request := some (7, 0) } }, by decide⟩⟩

/-- The hypotheses of MonitorsReportTheirCode can be met. -/
theorem witness_MonitorsReportTheirCode_2 : (∃ (s : State), (14, 0, 0) ∈ s.saf.open1 ∧ 5000 ≤ (s.sys.timeUs - 0).toNat ∧ s.pwr.st = .run ∧ s.pwr.trans = none) ∧ (∃ (s : State), s.saf.safe = true ∧ s.saf.action = true ∧ 10000 ≤ (s.sys.timeUs - s.saf.safeAt).toNat) ∧ (∃ (s : State), s.pwr.st = .stow ∧ s.pwr.waking.isSome = true) ∧ (∃ m : Byte, m.toNat = 23) ∧ (∃ m : Byte, 14 ≤ m.toNat ∧ m.toNat ≤ 21) ∧ (∃ (s : State), s.pwr.st = .run ∧ s.host.ready = false ∧ s.saf.safe = false) :=
  ⟨⟨hot { running with saf := { running.saf with open1 := [(14, 0, 0)] } }, by decide⟩, ⟨hot { running with saf := { running.saf with safe := true, action := true } }, by decide⟩, ⟨{ running with pwr := { running.pwr with st := .stow, waking := some 5 } }, by decide⟩, ⟨23, rfl⟩, ⟨14, by decide⟩, ⟨{ running with host := { running.host with ready := false } }, by decide⟩⟩

/-- The hypotheses of MonitorsReportTheirCode can be met. -/
theorem witness_MonitorsReportTheirCode_3 : (∃ (s : State), s.pairUp 0 = false ∧ s.pairClocked 0 = false) ∧ ∃ (s : State), s.pairUp 0 = true ∧ s.pairClocked 0 = true :=
  ⟨⟨State.reset, by decide⟩, ⟨running, by decide⟩⟩

/-- The hypotheses of TrustCommandsComplete can be met. -/
theorem witness_TrustCommandsComplete : (∃ (s : State) (c : CmdEntry), s.takes 0x0A01 c = true ∧ c.u32 24 ≠ 0 ∧ c.u32 24 % 64 = 0 ∧ c.u32 24 + c.bufLen.toNat ≤ 1310720 ∧ c.bytes 29 3 = [0, 0, 0]) ∧ (∃ (s : State) (c : CmdEntry), s.takes 0x0A01 c = true ∧ c.u32 24 = 0 ∧ c.bytes 29 3 = [0, 0, 0]) ∧ (∃ (s : State) (c : CmdEntry), s.takes 0x0A01 c = true ∧ 1310720 < c.u32 24 + c.bufLen.toNat) ∧ (∃ (s : State) (c : CmdEntry), s.takes 0x0A02 c = true ∧ c.bytes 24 4 = [0, 0, 0, 0]) ∧ (∃ (s : State) (c : CmdEntry), s.takes 0x0A03 c = true ∧ c.bytes 24 4 = [0, 0, 0, 0]) ∧ (∃ (s : State) (c : CmdEntry), s.takes 0x0A04 c = true ∧ c.bytes 24 4 = [0, 0, 0, 0] ∧ s.inTrial = false ∧ s.tru.slots[s.runSlot].svn ≠ s.tru.svnCtr) :=
  ⟨⟨running, cmdIn [0xC0, 0xFF, 0x13, 0, 0, 0, 0, 0] (zeros 64), by decide⟩, ⟨running, cmdIn [0, 0, 0, 0, 0, 0, 0, 0] (zeros 64), by decide⟩, ⟨running, cmdIn [0, 0, 0x14, 0, 0, 0, 0, 0] (zeros 64), by decide⟩, ⟨running, cmd [0, 0, 0, 0], by decide⟩, ⟨running, cmd [0, 0, 0, 0], by decide⟩, ⟨{ running with tru := { running.tru with svnCtr := 1 } }, cmd [0, 0, 0, 0], by decide⟩⟩

/-- The hypotheses of TrustCommandsComplete can be met. -/
theorem witness_TrustCommandsComplete_2 : (∃ (s : State) (c : CmdEntry), s.takes 0x0A04 c = true ∧ c.bytes 24 4 = [0, 0, 0, 0] ∧ s.tru.slots[s.runSlot].svn = s.tru.svnCtr) ∧ (∃ (s : State) (c : CmdEntry), s.takes 0x0A05 c = true) ∧ (∃ (s : State) (c : CmdEntry), s.takes 0x0A06 c = true ∧ c.bytes 24 4 = [0, 0, 0, 0]) ∧ (∃ (s : State) (c : CmdEntry), s.takes 0x0A07 c = true ∧ c.bytes 24 4 = [0, 0, 0, 0] ∧ c.bufLen = 2592) ∧ (∃ (s : State) (c : CmdEntry), s.takes 0x0A07 c = true ∧ c.bytes 24 4 = [1, 0, 0, 0] ∧ c.bufLen = 1568) ∧ ∃ (s : State) (c : CmdEntry), s.takes 0x0A09 c = true ∧ c.bytes 24 4 = [0, 0, 0, 0] :=
  ⟨⟨running, cmd [0, 0, 0, 0], by decide⟩, ⟨running, cmdOut (zeros 32) 5011, by decide⟩, ⟨running, cmdOut [0, 0, 0, 0] 6144, by decide⟩, ⟨running, cmdOut [0, 0, 0, 0] 2592, by decide⟩, ⟨running, cmdOut [1, 0, 0, 0] 1568, by decide⟩, ⟨running, { cmd [0, 0, 0, 0] with flags := 2, bufLen := 2592 }, by decide⟩⟩

/-- The hypotheses of DebugPortMovesForward can be met. -/
theorem witness_DebugPortMovesForward : (∃ (s : State) (c : CmdEntry), s.takes 0x0A08 c = true ∧ c.u8 24 = 0 ∧ c.bytes 25 3 = [0, 0, 0] ∧ c.bufOut = true ∧ c.bufLen = 32 ∧ s.tru.failed < 3 ∧ s.tru.dbg ≠ 2) ∧ (∃ (s : State) (c : CmdEntry), s.takes 0x0A08 c = true ∧ c.u8 24 = 1 ∧ c.bytes 25 3 = [0, 0, 0] ∧ c.bufIn = true ∧ c.bufLen = 4627 ∧ s.tru.failed < 3 ∧ s.tru.dbg = 0) ∧ (∃ (s : State) (c : CmdEntry), s.takes 0x0A08 c = true ∧ c.bytes 24 4 = [2, 0, 0, 0] ∧ c.bufIn = false ∧ c.bufOut = false ∧ s.tru.failed < 3 ∧ s.tru.dbg ≠ 2) ∧ (∃ (s : State) (c : CmdEntry), s.takes 0x0A08 c = true ∧ c.bytes 24 4 = [3, 0, 0, 0] ∧ c.bufIn = false ∧ c.bufOut = false ∧ s.tru.failed < 3 ∧ s.tru.dbg.toNat < 2) ∧ (∃ (s : State) (c : CmdEntry), s.takes 0x0A08 c = true ∧ c.bytes 24 4 = [2, 0, 0, 0] ∧ 3 ≤ s.tru.failed) ∧ (∃ (s : State) (c : CmdEntry), s.takes 0x0A08 c = true ∧ c.u8 24 = 0 ∧ c.bufOut = false) :=
  ⟨⟨running, cmdOut [0, 0, 0, 0] 32, by decide⟩, ⟨running, { cmd [1, 0, 0, 0] with flags := 2, bufLen := 4627 }, by decide⟩, ⟨running, cmd [2, 0, 0, 0], by decide⟩, ⟨{ running with tru := { running.tru with dbg := 1 } }, cmd [3, 0, 0, 0], by decide⟩, ⟨{ running with tru := { running.tru with failed := 3 } }, cmd [2, 0, 0, 0], by decide⟩, ⟨running, cmd [0, 0, 0, 0], by decide⟩⟩

/-- The hypotheses of DebugPortMovesForward can be met. -/
theorem witness_DebugPortMovesForward_2 : (∃ (s : State) (ch : List Byte) (a : D), s.tru.challenge = some (ch, a) ∧ 10000000 ≤ (s.sys.timeUs - a).toNat) ∧ (∃ (s : State), (s.tru.dbg = 0 ∨ s.tru.unlocked = true) ∧ s.tru.opened = false) ∧ ∃ (s : State), s.tru.dbg ≠ 0 ∧ s.tru.unlocked = false :=
  ⟨⟨hot { running with tru := { running.tru with challenge := some ([], 0) } }, _, _, rfl, by decide⟩, ⟨running, by decide⟩, ⟨{ running with tru := { running.tru with dbg := 1 } }, by decide⟩⟩

/-- The hypotheses of StartUpRunsInOrder can be met. -/
theorem witness_StartUpRunsInOrder : (∃ (s : State), s.pwr.vbatOk = false ∧ s.pwr.st = .off ∧ s.pwr.coldHold = false) ∧ (∃ (s : State), s.pwr.st = .off ∧ s.pwr.pwrEn = true) ∧ (∃ (s : State) (k : _), s.pwr.st = .stow ∧ s.pwr.waking = some k ∧ s.cal.eolValid = true ∧ s.cal.badCopies = 0) ∧ (∃ (s : State), s.pwr.coldHold = true) ∧ (∃ (s : State), s.booting = true ∧ s.bootCheck s.tru.prefer.toFin ≠ 0 ∧ s.bootCheck (otherSlot s.tru.prefer.toFin) ≠ 0) ∧ (∃ (s : State), s.pwr.st = .run ∧ s.sys.stewardUp = true ∧ s.host.ready = false ∧ s.saf.safe = false) :=
  ⟨⟨State.reset, by decide⟩, ⟨{ State.reset with pwr := { State.reset.pwr with pwrEn := true } }, by decide⟩, ⟨{ running with pwr := { running.pwr with st := .stow, waking := some 1 }, cal := { running.cal with eolValid := true } }, 1, by decide⟩, ⟨{ State.reset with pwr := { State.reset.pwr with coldHold := true } }, by decide⟩, ⟨{ running with sys := { running.sys with stewardUp := false }, host := { running.host with ready := false } }, by decide⟩, ⟨{ running with host := { running.host with ready := false } }, by decide⟩⟩

/-- The hypotheses of StartUpRunsInOrder can be met. -/
theorem witness_StartUpRunsInOrder_2 : ∃ (s : State), 2 ≤ s.sys.resetCode.toNat ∧ s.host.ready = true ∧ s.host.ringSeen = false ∧ s.sys.recovery = false ∧ 30000000 ≤ (s.sys.timeUs - s.host.readyAt).toNat :=
  ⟨{ running with sys := { running.sys with resetCode := 2, timeUs := 30000000 } }, by decide⟩

/-- The hypotheses of ResetsClearAndKeep can be met. -/
theorem witness_ResetsClearAndKeep : ∃ n : Nat, n = 2 ∨ n = 3 :=
  ⟨2, by decide⟩

/-- The hypotheses of CaptureCommandsComplete can be met. -/
theorem witness_CaptureCommandsComplete : (∃ (s : State) (c : CmdEntry) (hr : Fin 4), s.takes 0x0201 c = true ∧ c.u8 24 = hr.val ∧ c.u8 25 = 12 ∧ c.u8 26 = 1 ∧ c.u8 27 = 0 ∧ s.pwr.st = .run ∧ 2 ≤ s.pwr.level.toNat ∧ (s.pwr.level = 2 → s.hrRunning.length < 2) ∧ s.clk.lossInRun = false ∧ s.cap.hr[hr].failed = false ∧ s.cap.hr[hr].running = false ∧ s.cal.cfg.getLsbD 8 = false) ∧ (∃ (s : State) (c : CmdEntry) (hr : Fin 4), s.takes 0x0201 c = true ∧ c.u8 24 = hr.val ∧ c.u8 25 = 0xFF ∧ c.u8 26 = 0xFF ∧ (s.pwr.level = 2 → s.hrRunning.length < 2) ∧ s.cap.hr[hr].running = false) ∧ (∃ (s : State) (c : CmdEntry), s.takes 0x0201 c = true ∧ s.pwr.st = .run ∧ (s.pwr.level.toNat < 2 ∨ (s.pwr.level = 2 ∧ 2 ≤ s.hrRunning.length))) ∧ (∃ (s : State) (c : CmdEntry) (hr : Fin 4), s.takes 0x0201 c = true ∧ c.u8 24 = hr.val ∧ 2 ≤ s.pwr.level.toNat ∧ (s.pwr.level = 2 → s.hrRunning.length < 2) ∧ s.cap.hr[hr].failed = true) ∧ (∃ (s : State) (c : CmdEntry) (hr : Fin 4), s.takes 0x0201 c = true ∧ c.u8 24 = hr.val ∧ (s.pwr.level = 2 → s.hrRunning.length < 2) ∧ s.cap.hr[hr].running = true) ∧ (∃ (s : State) (c : CmdEntry), s.takes 0x0201 c = true ∧ c.u8 25 = 13) :=
  ⟨⟨{ running with cal := { running.cal with cfg := 8 } }, cmd [2, 12, 1, 0], 2, by decide +kernel⟩, ⟨running, cmd [3, 0xFF, 0xFF, 0], 3, by decide +kernel⟩, ⟨{ running with pwr := { running.pwr with level := 1 } }, cmd [0, 0, 0, 0], by decide +kernel⟩, ⟨running.modHr 0 (fun h => { h with failed := true }), cmd [0, 0, 0, 0], 0, by decide +kernel⟩, ⟨hrOn, cmd [0, 0, 0, 0], 0, by decide +kernel⟩, ⟨running, cmd [0, 13, 0, 0], by decide⟩⟩

/-- The hypotheses of CaptureCommandsComplete can be met. -/
theorem witness_CaptureCommandsComplete_2 : (∃ (s : State) (c : CmdEntry) (hr : Fin 4), s.takes 0x0202 c = true ∧ c.u8 24 = hr.val ∧ c.u8 25 = 1 ∧ s.cap.hr[hr].running = true ∧ s.cal.aRun = none) ∧ (∃ (s : State) (c : CmdEntry) (hr : Fin 4), s.takes 0x0202 c = true ∧ c.u8 25 = 0 ∧ c.u8 24 = hr.val ∧ s.cap.hr[hr].running = true ∧ s.windowsOn hr ≠ []) ∧ (∃ (s : State) (c : CmdEntry) (hr : Fin 4), s.takes 0x0202 c = true ∧ c.u8 24 = hr.val ∧ s.cap.hr[hr].running = false) ∧ (∃ (s : State) (c : CmdEntry) (hr : Fin 4), s.takes 0x0203 c = true ∧ c.u8 24 = hr.val ∧ c.u8 25 = 12 ∧ c.u8 26 = 0 ∧ s.cap.hr[hr].running = true) ∧ (∃ (s : State) (c : CmdEntry) (hr : Fin 4), s.takes 0x0204 c = true ∧ c.u8 24 = hr.val ∧ c.u8 25 = 1 ∧ c.u32 28 = 10000 ∧ s.windowsOn hr = []) ∧ (∃ (s : State) (c : CmdEntry) (hr : Fin 4), s.takes 0x0204 c = true ∧ c.u8 24 = hr.val ∧ c.u8 25 = 2 ∧ c.u32 28 = 49000 ∧ s.windowsOn hr = []) :=
  ⟨⟨hrOn, cmd [0, 1, 0, 0], 0, by decide +kernel⟩, ⟨winOn, cmd [0, 0, 0, 0], 0, by decide +kernel⟩, ⟨running, cmd [0, 0, 0, 0], 0, by decide +kernel⟩, ⟨hrOn, cmd [0, 12, 0, 0], 0, by decide +kernel⟩, ⟨running, cmd [1, 1, 0, 0, 0x10, 0x27, 0, 0], 1, by decide +kernel⟩, ⟨running, cmd [1, 2, 0, 0, 0x68, 0xBF, 0, 0], 1, by decide +kernel⟩⟩

/-- The hypotheses of CaptureCommandsComplete can be met. -/
theorem witness_CaptureCommandsComplete_3 : ∃ (s : State) (c : CmdEntry), s.takes 0x0204 c = true ∧ c.u8 25 = 1 ∧ c.u32 28 = 24001 :=
  ⟨running, cmd [1, 1, 0, 0, 0xC1, 0x5D, 0, 0], by decide +kernel⟩

/-- The hypotheses of HeadracesFollowTheirSamples can be met. -/
theorem witness_HeadracesFollowTheirSamples : (∃ (s : State) (hr : Fin 4), s.cap.hr[hr].running = true ∧ s.cap.hr[hr].clockOut = false ∧ s.cap.hr[hr].agc = true ∧ s.cap.hr[hr].gainSet = false ∧ fld s.cap.agc 0 8 < s.cap.hr[hr].clipNow) ∧ (∃ (s : State) (hr : Fin 4), s.cap.hr[hr].running = true ∧ s.cap.hr[hr].clockOut = false ∧ s.cap.hr[hr].agc = true ∧ s.cap.hr[hr].gainSet = false ∧ s.cap.hr[hr].clipNow = fld s.cap.agc 0 8) ∧ (∃ (s : State) (hr : Fin 4), s.cap.hr[hr].running = true ∧ s.cap.hr[hr].clockOut = false ∧ s.cap.hr[hr].agc = true ∧ s.cap.hr[hr].gainSet = false ∧ 10 * max 1 (fld s.cap.agc 16 8) ≤ s.cap.hr[hr].lowMs) ∧ (∃ (s : State) (hr : Fin 4), ∃ k : Fin 8, s.cap.hr[hr].running = true ∧ s.cap.hr[hr].clockOut = false ∧ s.cap.hr[hr].failed = false ∧ s.cap.hr[hr].retired = 15 ∧ s.cap.hr[hr].takeOver = none ∧ s.cal.aRun = none ∧ s.cap.hr[hr].laneBad[k.val] = 3) ∧ (∃ stats : List LaneStat, lanesDiffer stats = BitVec.ofNat 9 (2 ^ 7)) ∧ (∃ (s : State) (hr : Fin 4), ∃ k : Fin 8, s.cap.hr[hr].takeOver = some k) :=
  ⟨⟨hrOn.modHr 0 (fun h => { h with clipNow := 5, agc := true }), 0, by decide +kernel⟩, ⟨hrOn.modHr 0 (fun h => { h with clipNow := 4, agc := true }), 0, by decide +kernel⟩, ⟨hrOn.modHr 0 (fun h => { h with lowMs := 100, agc := true }), 0, by decide +kernel⟩, ⟨hrOn.modHr 0 (fun h => { h with laneBad := Vector.replicate 9 3 }), 0, 7, by decide +kernel⟩, ⟨laneHigh 7, by decide +kernel⟩, ⟨hrOn.modHr 0 (fun h => { h with takeOver := some 7 }), 0, 7, by decide +kernel⟩⟩

/-- The hypotheses of HeadracesFollowTheirSamples can be met. -/
theorem witness_HeadracesFollowTheirSamples_2 : (∃ (s : State) (hr : Fin 4), s.cap.hr[hr].running = true ∧ s.cap.hr[hr].clockOut = false ∧ s.cap.hr[hr].output = false ∧ s.windowsOn hr = []) ∧ (∃ (s : State) (hr : Fin 4), s.pwr.st = .run ∧ s.pwr.level = 3 ∧ s.cap.hr[hr].govStop = true ∧ (∀ n : Fin 4, n ≠ hr → s.cap.hr[n].govStop = false) ∧ s.cal.cfg.getLsbD 8 = false) ∧ ∃ (s : State) (hr : Fin 4), ∃ b : BlankBlock, s.cap.hr[hr].running = true ∧ s.cap.hr[hr].clockOut = false ∧ (s.cap.hr[hr].blk .L).reg.getLsbD 0 = true ∧ (s.cap.hr[hr].blk .L).reg.getLsbD 1 = true ∧ ((List.range b.samples.length).filter fun j => blkTrigger (s.cap.hr[hr].blk .L).reg ((b.pre ++ b.samples ++ b.post).map RaceIQ.value) (b.pre.length + j)) = [1] :=
  ⟨⟨hrOn, 0, by decide +kernel⟩, ⟨({ running with cal := { running.cal with cfg := 8 } }).modHr 3 (fun h => { h with govStop := true }), 3, by decide +kernel⟩, ⟨hrOn.modHr 0 (fun h => { h with blkL := { h.blkL with reg := 0x00040003 } }), 0, ⟨[], [(0, 0), (100, 0), (0, 0)], []⟩, by decide +kernel⟩⟩

/-- The hypotheses of FeedsAndModules can be met. -/
theorem witness_FeedsAndModules : (∃ (s : State) (c : CmdEntry) (hr : Fin 4), s.takes 0x0205 c = true ∧ c.bytes 24 4 = [byte hr.val, 1, byte 120, 0] ∧ s.cap.feed[hr].on = false) ∧ (∃ (s : State) (c : CmdEntry) (hr : Fin 4), s.takes 0x0205 c = true ∧ c.bytes 24 4 = [byte hr.val, 0, 0, 0]) ∧ (∃ (s : State) (c : CmdEntry), s.takes 0x0205 c = true ∧ c.u8 26 = 49) ∧ (∃ s : State, s.cap.feed[0].st = .ramping) ∧ (∃ s : State, s.cap.feed[0].on = true ∧ s.cap.feed[0].noModuleRaised = false ∧ s.tw.port[0].stuck = false ∧ s.cap.feed[0].waiting = [] ∧ s.cap.feed[0].st = .on) ∧ (∃ s : State, s.cap.feed[0].on = true ∧ s.cap.feed[0].ctl.getLsbD 8 = true ∧ s.cap.feed[0].retries = 3 ∧ s.cap.feed[0].waiting = []) :=
  ⟨⟨running, cmd [2, 1, 120, 0], 2, by decide⟩, ⟨running, cmd [2, 0, 0, 0], 2, by decide⟩, ⟨running, cmd [2, 1, 49, 0], by decide⟩, ⟨running.modFeed 0 (fun f => { f with st := .ramping }), by decide⟩, ⟨feedIs .on, by decide⟩, ⟨(feedIs .on).modFeed 0 (fun f => { f with retries := 3 }), by decide⟩⟩

/-- The hypotheses of FeedsAndModules can be met. -/
theorem witness_FeedsAndModules_2 : (∃ s : State, s.cap.feed[0].st = .shorted ∧ s.pwr.st = .run) ∧ (∃ s : State, s.cap.feed[0].st = .opened) ∧ (∃ (r : _), r.length = 256 ∧ staticPasses r = false) ∧ (∃ (r : _), r.length = 256 ∧ staticPasses r = true) ∧ (∃ (s : State) (c : CmdEntry) (hr : Fin 4), s.takes 0x0206 c = true ∧ c.bytes 24 4 = [byte hr.val, 0, 0, 0]) ∧ (∃ (s : State) (c : CmdEntry) (hr : Fin 4), s.takes 0x0206 c = true ∧ c.bytes 24 4 = [byte hr.val, 1, 0, 0] ∧ s.cap.feed[hr].on = false) :=
  ⟨⟨running.modFeed 0 (fun f => { f with st := .shorted, retries := 2 }), by decide⟩, ⟨feedIs .opened, by decide⟩, ⟨zeros 256, by decide +kernel⟩, ⟨moduleRecord, moduleRecord_ok⟩, ⟨running, cmdOut [1, 0, 0, 0] 256, 1, by decide⟩, ⟨running, cmdOut [1, 1, 0, 0] 256, 1, by decide⟩⟩

/-- The hypotheses of FeedsAndModules can be met. -/
theorem witness_FeedsAndModules_3 : (∃ (s : State) (r : _), s.cap.feed[0].on = true ∧ s.cap.feed[0].staticOk = true ∧ s.tw.port[0].run = none ∧ s.tw.port[0].queue = [] ∧ 60 ≤ s.cap.feed[0].mramMinutes + s.cap.feed[0].minutesOn s.sys.timeUs ∧ s.tw.port[0].stuck = false ∧ slice r 8 8 = s.cap.feed[0].mramId ∧ s.cap.feed[0].lifeHours ≤ s.cap.feed[0].mramHours) ∧ (∃ s : State, s.cap.feed[0].lifeRetry = true ∧ s.tw.port[0].stuck = false) ∧ ∃ s : State, s.cap.feed[0].lifeRetry = true ∧ s.tw.port[0].stuck = true :=
  ⟨⟨(feedIs .on).modFeed 0 (fun f => { f with staticOk := true, mramMinutes := 60, mramId := zeros 8 }), zeros 256, by decide +kernel⟩, ⟨running.modFeed 0 (fun f => { f with lifeRetry := true }), by decide⟩, ⟨stuckPort 0 (running.modFeed 0 (fun f => { f with lifeRetry := true })), by decide⟩⟩

/-- The hypotheses of WindowsOpenAndClose can be met. -/
theorem witness_WindowsOpenAndClose : (∃ (s : State) (c : CmdEntry) (win : Fin 64) (rn : Fin 32) (ant : Fin 4) (no : _) (p : _) (f : _), s.takes 0x0210 c = true ∧ c.bytes 41 3 = [0, 0, 0] ∧ c.u8 40 = 0 ∧ c.u16 38 = 0 ∧ c.u8 37 = 0xFF ∧ c.u8 36 = 0 ∧ c.u8 33 = 0xFF ∧ c.bufIn = false ∧ c.u8 27 ≤ 1 ∧ c.u8 32 = 2 ^ ant.val ∧ c.u8 25 = p ∧ 1 ≤ p ∧ p ≤ 5 ∧ c.u8 26 = rn.val ∧ presetRunner p rn.val = true ∧ c.u32 28 = f ∧ s.cap.hr[ant].bandOk p f = true ∧ s.pwr.st = .run ∧ 2 ≤ s.pwr.level.toNat ∧ s.clk.lossInRun = false ∧ s.cap.hr[ant].running = true ∧ s.win.win[win].fantail = false ∧ s.runnerFed rn = false ∧ s.freeLegs.head? = some no ∧ s.win.win[win].st = 0 ∧ c.u8 24 = win.val) ∧ (∃ (s : State) (c : CmdEntry) (win : Fin 64), s.takes 0x0210 c = true ∧ firstFail (s.openRange c) = none ∧ c.u8 24 = win.val ∧ s.win.win[win].st ≠ 0 ∧ s.win.win[win].fantail = false ∧ s.windowOf (Fin.ofNat 32 (c.u8 26)) = none) ∧ (∃ (s : State) (c : CmdEntry) (win : Fin 64) (w : _), s.takes 0x0210 c = true ∧ firstFail (s.openRange c) = none ∧ c.u8 24 = win.val ∧ s.win.win[win].st = 0 ∧ s.windowOf (Fin.ofNat 32 (c.u8 26)) = some w ∧ s.win.win[w].fantail = false ∧ ∀ ant : Fin 4, s.cap.hr[ant].running = true) ∧ (∃ (s : State) (c : CmdEntry) (win : Fin 64), s.takes 0x0211 c = true ∧ c.bytes 24 4 = [byte win.val, byte 1, 0, 0] ∧ s.below 2 = false ∧ s.win.win[win].st ≠ 0 ∧ s.win.win[win].closing = none ∧ s.win.win[win].fantail = false ∧ s.svc.run[s.win.win[win].runner].fm.lent = false ∧ s.ctxsOf s.win.win[win].runner = []) ∧ (∃ (s : State) (c : CmdEntry) (win : Fin 64), s.takes 0x0211 c = true ∧ c.bytes 24 4 = [byte win.val, 0, 0, 0] ∧ s.win.win[win].st ≠ 0 ∧ s.win.win[win].closing = none ∧ s.svc.run[s.win.win[win].runner].fm.lent = false ∧ s.ctxsOf s.win.win[win].runner ≠ []) ∧ (∃ (s : State) (win : Fin 64), s.win.win[win].closing = some (false, some 0)) :=
  ⟨⟨hrOn, cmd ([7, 5, 25, 1, 0x00, 0x3D, 0x8D, 0x0D, 1, 0xFF, 0, 0, 0, 0xFF] ++ zeros 6), 7, 25, 0, 0, 5, 227360000, by decide +kernel⟩, ⟨winOn, cmd ([0, 5, 25, 1, 0x00, 0x3D, 0x8D, 0x0D, 1, 0xFF, 0, 0, 0, 0xFF] ++ zeros 6), 0, by decide +kernel⟩, ⟨allRuns winOn, cmd ([1, 3, 0, 1, 0xC0, 0xAA, 0xF6, 0x05, 1, 0xFF, 0, 0, 0, 0xFF] ++ zeros 6), 1, 0, by decide +kernel⟩, ⟨winOn, cmd [0, 1, 0, 0], 0, by decide +kernel⟩, ⟨ctxOn, cmd [0, 0, 0, 0], 0, by decide +kernel⟩, ⟨winOn.modWin 0 (fun x => { x with closing := some (false, some 0) }), 0, by decide +kernel⟩⟩

/-- The hypotheses of WindowsOpenAndClose can be met. -/
theorem witness_WindowsOpenAndClose_2 : (∃ (s : State) (c : CmdEntry) (win : Fin 64), s.takes 0x0214 c = true ∧ c.bytes 24 4 = [byte win.val, byte (b01 true), byte 1, 0] ∧ c.bufIn = true ∧ c.bufLen.toNat = 4 ∧ coefsOk 1 c = true ∧ s.win.win[win].st ≠ 0 ∧ s.win.win[win].bank = false) ∧ (∃ (s : State) (c : CmdEntry) (win : Fin 64), s.takes 0x0215 c = true ∧ c.bytes 24 4 = [byte win.val, byte (b01 true), 0, 0] ∧ s.win.win[win].st ≠ 0 ∧ s.win.win[win].closing = none ∧ s.win.win[win].bank ≠ true ∧ s.win.win[win].loaded true = true) ∧ (∃ (s : State) (c : CmdEntry) (win : Fin 64), s.takes 0x0215 c = true ∧ c.bytes 24 4 = [byte win.val, byte (b01 true), 0, 0] ∧ s.win.win[win].st = 0) ∧ (∃ (s : State) (win : Fin 64) (q : _), s.win.win[win].swap = some q ∧ q.ratio = false) ∧ ∃ (s : State) (c : CmdEntry), s.takes 0x0211 c = true ∧ c.u8 24 = 63 ∧ c.bytes 25 3 = [0, 0, 0] ∧ s.pwr.st = .run ∧ s.pwr.level.toNat ≤ 1 ∧ ∀ w : Fin 64, s.win.win[w].fantail = false :=
  ⟨⟨winOn, cmdIn [0, 1, 1, 0] [0, 0, 4, 0], 0, by decide +kernel⟩, ⟨winOn.modWin 0 (fun x => { x with banks := Vector.replicate 2 { t := 64 } }), cmd [0, 1, 0, 0], 0, by decide +kernel⟩, ⟨running, cmd [0, 1, 0, 0], 0, by decide +kernel⟩, ⟨winOn.modWin 0 (fun x => { x with swap := some ⟨true, 0, 40, 2, 2, 8, false, 0⟩ }), 0, ⟨true, 0, 40, 2, 2, 8, false, 0⟩, by decide +kernel⟩, ⟨{ running with pwr := { running.pwr with level := 1 } }, cmd [63, 0, 0, 0], by decide +kernel⟩⟩

/-- The hypotheses of WindowSettingsChange can be met. -/
theorem witness_WindowSettingsChange : (∃ (s : State) (c : CmdEntry) (win : Fin 64) (f : _), s.takes 0x0212 c = true ∧ c.bytes 24 4 = [byte win.val, 0, 0, 0] ∧ c.u32 28 = f ∧ s.tuneBad win f = false ∧ s.win.win[win].st ≠ 0 ∧ s.win.win[win].closing = none ∧ s.win.win[win].released = true ∧ s.win.win[win].fantail = false ∧ s.svc.run[s.win.win[win].runner].fm.lent = false) ∧ (∃ (s : State) (c : CmdEntry) (win : Fin 64) (f : _), s.takes 0x0212 c = true ∧ c.bytes 24 4 = [byte win.val, 0, 0, 0] ∧ c.u32 28 = f ∧ s.tuneBad win f = false ∧ s.win.win[win].st ≠ 0 ∧ s.win.win[win].released = false) ∧ (∃ (s : State) (c : CmdEntry) (win : Fin 64), s.takes 0x0212 c = true ∧ c.bytes 24 4 = [byte win.val, 0, 0, 0] ∧ s.tuneBad win (c.u32 28) = true) ∧ (∃ (s : State) (c : CmdEntry) (win : Fin 64), s.takes 0x0212 c = true ∧ c.bytes 24 4 = [byte win.val, 0, 0, 0] ∧ s.tuneBad win (c.u32 28) = false ∧ s.win.win[win].st = 0) ∧ (∃ (s : State) (c : CmdEntry) (win : Fin 64) (sp : _), s.takes 0x0213 c = true ∧ c.bytes 24 8 = [byte win.val, byte (c.u8 25), byte (c.u8 26), byte (c.u8 27), byte (b01 false), 0xFF, 0, 0] ∧ split s.win.win[win].preset (c.u8 25) (c.u8 26) (c.u8 27) = some sp ∧ s.win.win[win].st ≠ 0 ∧ s.win.win[win].loaded false = true) ∧ (∃ (s : State) (win : Fin 64) (q : _), s.win.win[win].swap = some q ∧ q.ratio = true) :=
  ⟨⟨winOn, cmd [0, 0, 0, 0, 0xC0, 0xAA, 0xF6, 0x05], 0, 0x05F6AAC0, by decide +kernel⟩, ⟨winOn.modWin 0 (fun x => { x with released := false }), cmd [0, 0, 0, 0, 0xC0, 0xAA, 0xF6, 0x05], 0, 0x05F6AAC0, by decide +kernel⟩, ⟨winOn, cmd [0, 0, 0, 0, 0, 0, 0, 0], 0, by decide +kernel⟩, ⟨running, cmd [0, 0, 0, 0, 0, 0, 0, 0], 0, by decide +kernel⟩, ⟨winOn.modWin 0 (fun x => { x with banks := Vector.replicate 2 { t := 64 } }), cmd [0, 3, 2, 2, 0, 0xFF, 0, 0], 0, ⟨5, 2, 3, 2⟩, by decide +kernel⟩, ⟨winOn.modWin 0 (fun x => { x with swap := some ⟨true, 0, 40, 2, 2, 8, true, 0⟩ }), 0, ⟨true, 0, 40, 2, 2, 8, true, 0⟩, by decide +kernel⟩⟩

/-- The hypotheses of WindowSettingsChange can be met. -/
theorem witness_WindowSettingsChange_2 : (∃ (s : State) (c : CmdEntry) (win : Fin 64), s.takes 0x0216 c = true ∧ c.bytes 24 4 = [byte win.val, 0xFF, 1, 0] ∧ c.u16 28 ≤ s.win.win[win].dcap ∧ c.u16 30 = 1023 ∧ s.win.win[win].st ≠ 0 ∧ s.ctxsOf s.win.win[win].runner = []) ∧ (∃ (s : State) (c : CmdEntry) (win : Fin 64) (l : _) (d : _), s.takes 0x0216 c = true ∧ c.bytes 24 4 = [byte win.val, 0, 0, 0] ∧ d = 1024 * c.u16 28 + c.u16 30 ∧ c.u16 28 ≤ s.win.win[win].dcap ∧ s.win.win[win].legs[0] = some l) ∧ (∃ (s : State) (c : CmdEntry) (win : Fin 64), s.takes 0x0216 c = true ∧ c.u8 24 = win.val ∧ c.u8 25 = 0xFF ∧ s.win.win[win].st ≠ 0 ∧ s.win.win[win].dcap < c.u16 28) ∧ (∃ (s : State) (c : CmdEntry) (win : Fin 64), ∃ p : Fin 4, s.takes 0x0216 c = true ∧ c.bytes 24 4 = [byte win.val, byte p.val, 0, 0] ∧ s.win.win[win].st ≠ 0 ∧ s.win.win[win].legs[p] = none) ∧ (∃ (s : State) (c : CmdEntry) (win : Fin 64) (ant : Fin 4) (no : _), s.takes 0x0217 c = true ∧ c.bytes 24 4 = [byte win.val, 0, byte ant.val, 0] ∧ s.win.win[win].st ≠ 0 ∧ s.cap.hr[ant].bandOk s.win.win[win].preset s.win.win[win].freq = true ∧ s.cap.hr[ant].running = true ∧ s.win.win[win].antPos ant = none ∧ s.win.win[win].legs[1] = none ∧ s.freeLegs.head? = some no ∧ s.win.win[win].dcap = 0) ∧ (∃ (s : State) (c : CmdEntry) (win : Fin 64) (l : _), s.takes 0x0217 c = true ∧ c.bytes 24 4 = [byte win.val, 1, 1, 0] ∧ s.win.win[win].st ≠ 0 ∧ s.win.win[win].legs[1] = some l ∧ l.leaving = false ∧ 2 ≤ s.win.win[win].staying) :=
  ⟨⟨winOn, cmd [0, 0xFF, 1, 0, 0, 0, 0xFF, 3], 0, by decide +kernel⟩, ⟨winOn, cmd [0, 0, 0, 0, 0, 0, 1, 0], 0, legZero, 1, by decide +kernel⟩, ⟨winOn, cmd [0, 0xFF, 1, 0, 1, 0, 0, 0], 0, by decide +kernel⟩, ⟨winOn, cmd [0, 1, 0, 0, 0, 0, 0, 0], 0, 1, by decide +kernel⟩, ⟨(allRuns winOn).modWin 0 (fun x => { x with freq := 100000000 }), cmd [0, 0, 3, 0], 0, 3, 1, by decide +kernel⟩, ⟨twoLegs, cmd [0, 1, 1, 0], 0, { legZero with no := 1, ant := 1 }, by decide +kernel⟩⟩

/-- The hypotheses of WindowSettingsChange can be met. -/
theorem witness_WindowSettingsChange_3 : ∃ (s : State) (c : CmdEntry) (win : Fin 64) (l : _), s.takes 0x0217 c = true ∧ c.bytes 24 4 = [byte win.val, 1, 0, 0] ∧ s.win.win[win].legs[0] = some l ∧ l.leaving = false ∧ s.win.win[win].staying = 1 :=
  ⟨winOn, cmd [0, 1, 0, 0], 0, legZero, by decide +kernel⟩

/-- The hypotheses of WindowOutputAndScan can be met. -/
theorem witness_WindowOutputAndScan : (∃ (s : State) (win : Fin 64) (l : _), ∃ p : Fin 4, s.win.win[win].legs[p] = some l ∧ l.stopped = none ∧ l.no < 128 ∧ Tlm.wf s.tlm = true) ∧ (∃ (x : Window) (n : D), x.start = some n ∧ x.delay2048 * adcPer x.preset % 2048 = 0 ∧ x.delay2048 ≠ 0) ∧ (∃ (s : State) (win : Fin 64) (b : RaceIn), (s.feedWin win b).win.win[win].ready.length = 64 ∧ s.win.win[win].st ≠ 0) ∧ (∃ (s : State) (win : Fin 64) (b : RaceIn), s.win.win[win].st = 1 ∧ (s.feedWin win b).win.win[win].withheld = 0) ∧ (∃ (s : State) (win : Fin 64) (b : RaceIn), s.win.win[win].st ≠ 0 ∧ (s.feedWin win b).win.win[win].st = 2 ∧ (s.feedWin win b).win.win[win].preset = 3 ∧ 2 ≤ (s.feedWin win b).win.win[win].positions.length ∧ (s.feedWin win b).win.win[win].fresh ≠ 0) ∧ (∃ s : State, s.win.scanCtl.getLsbD 0 = true ∧ s.win.scanCtl.getLsbD 1 = true ∧ s.win.scanCtl.getLsbD 11 = true) :=
  ⟨⟨winOn, 0, legZero, 0, by decide +kernel⟩, ⟨{ winOn.win.win[0] with preset := 5, mcic := 15, mcf := 1, h := 0, start := some 5000 }, 5000, by decide +kernel⟩, ⟨blockReady, 0, ⟨0, []⟩, by decide +kernel⟩, ⟨winOn.modWin 0 (fun x => { x with st := 1 }), 0, ⟨0, []⟩, by decide +kernel⟩, ⟨cmaReady, 0, ⟨0, []⟩, by decide +kernel⟩, ⟨running, by decide⟩⟩

/-- The hypotheses of WindowOutputAndScan can be met. -/
theorem witness_WindowOutputAndScan_2 : (∃ (s : State), ∃ m : List (List ScanObs), ∃ o : ScanObs, ∃ ant : Fin 4, ∃ i : Nat, s.win.scanCtl.getLsbD (8 + ant.val) = true ∧ s.win.scanCtl.getLsbD 0 = true ∧ (m.getD ant.val [])[i]? = some o ∧ s.cap.hr[ant].samples = true ∧ s.cap.hr[ant].scans false i = true ∧ o.skipped = false ∧ s.cap.hr[ant].vSpan = false) ∧ (∃ (s : State), ∃ m : List (List ScanObs), ∃ o : ScanObs, ∃ ant : Fin 4, ∃ i : Nat, s.win.scanCtl.getLsbD (8 + ant.val) = true ∧ s.win.scanCtl.getLsbD 1 = true ∧ (m.getD ant.val [])[i]? = some o ∧ s.cap.hr[ant].samples = true ∧ s.cap.hr[ant].scans true i = true ∧ o.skipped = false ∧ s.cap.hr[ant].bSpan = false) ∧ (∃ (s : State) (c : CmdEntry) (ant : Fin 4), s.takes 0x0218 c = true ∧ c.bytes 24 4 = [1, byte ant.val, 0, 0] ∧ c.bufLen = 304 ∧ s.win.scanDab[ant].length = 38) ∧ ∃ (s : State) (c : CmdEntry) (ant : Fin 4), s.takes 0x0218 c = true ∧ c.bytes 24 4 = [0, byte ant.val, 0, 0] ∧ c.bufLen = 5128 ∧ s.win.scanFm[ant].length = 641 :=
  ⟨⟨scanOn, [[⟨-100, 300, 5, false⟩]], ⟨-100, 300, 5, false⟩, 0, 0, by decide +kernel⟩, ⟨scanOn, [[⟨-100, 300, 5, false⟩]], ⟨-100, 300, 5, false⟩, 0, 0, by decide +kernel⟩, ⟨scanned, cmdOut [1, 3, 0, 0] 304, 3, by decide +kernel⟩, ⟨scanned, cmdOut [0, 3, 0, 0] 5128, 3, by decide +kernel⟩⟩

/-- The hypotheses of ServiceCommandsComplete can be met. -/
theorem witness_ServiceCommandsComplete : (∃ (s : State) (c : CmdEntry) (ctx : Fin 256) (rn : Fin 32), s.takes 0x0301 c = true ∧ c.u8 24 = ctx.val ∧ ctx.val ≠ 255 ∧ c.u8 25 = 0 ∧ c.u8 26 = rn.val ∧ firstFail (openSvcRange c) = none ∧ s.below 2 = false ∧ s.svc.ctx[ctx].st = .free ∧ s.noHandle rn (BitVec.ofNat 32 (c.u32 28)) = false ∧ (∀ k : Fin 256, s.svc.ctx[k].shadowOf = none) ∧ s.overLimit rn 0 (BitVec.ofNat 32 (c.u32 28)) = false ∧ s.freeDecoder.isSome = true ∧ s.followed.length < 16 ∧ s.svc.run[rn].fm.lent = false ∧ s.routeHeld 0 (c.u8 27) = false) ∧ (∃ (s : State) (c : CmdEntry) (ctx : Fin 256), s.takes 0x0301 c = true ∧ c.u8 24 = ctx.val ∧ ctx.val ≠ 255 ∧ c.u8 26 = 2 ∧ firstFail (openSvcRange c) = none ∧ s.below 2 = false ∧ s.svc.ctx[ctx].st ≠ .free) ∧ (∃ (s : State) (c : CmdEntry) (ctx : Fin 256) (rn : Fin 32), s.takes 0x0301 c = true ∧ c.u8 24 = ctx.val ∧ ctx.val ≠ 255 ∧ c.u8 25 = 0 ∧ c.u8 26 = rn.val ∧ firstFail (openSvcRange c) = none ∧ s.svc.ctx[ctx].st = .free ∧ (∀ k : Fin 256, s.svc.ctx[k].shadowOf = none) ∧ s.overLimit rn 0 (BitVec.ofNat 32 (c.u32 28)) = true) ∧ (∃ (s : State) (c : CmdEntry), s.takes 0x0301 c = true ∧ c.u8 25 = 4 ∧ c.u8 26 = 27) ∧ (∃ (s : State) (c : CmdEntry) (ctx : Fin 256), s.takes 0x0302 c = true ∧ c.bytes 24 4 = [byte ctx.val, 0, 0, 0] ∧ s.svc.ctx[ctx].st = .running ∧ s.svc.ctx[ctx].runner.val < 24 ∧ s.svc.ctx[ctx].kind ≠ 0 ∧ s.svc.ctx[ctx].follow = false ∧ s.svc.ctx[ctx].shadowOf = none) ∧ (∃ (s : State) (c : CmdEntry) (ctx : Fin 256), s.takes 0x0302 c = true ∧ c.bytes 24 4 = [byte ctx.val, 0, 0, 0] ∧ s.svc.ctx[ctx].st = .closing) :=
  ⟨⟨winOn, cmd [3, 0, 2, 0, 0, 0, 0, 0, 0, 0, 0, 0], 3, 2, by decide +kernel⟩, ⟨ctxOn, cmd [0, 0, 2, 0, 0, 0, 0, 0, 0, 0, 0, 0], 0, by decide +kernel⟩, ⟨ctxOn, cmd [3, 0, 0, 1, 0, 0, 0, 0, 0, 0, 0, 0], 3, 0, by decide +kernel⟩, ⟨running, cmd [0, 4, 27, 8, 0, 0, 0, 0, 0, 0, 0, 0], by decide⟩, ⟨ctxOn.modCtx 0 (fun x => { x with kind := 3 }), cmd [0, 0, 0, 0], 0, by decide +kernel⟩, ⟨ctxOn.modCtx 0 (fun x => { x with st := .closing }), cmd [0, 0, 0, 0], 0, by decide +kernel⟩⟩

/-- The hypotheses of ServiceCommandsComplete can be met. -/
theorem witness_ServiceCommandsComplete_2 : (∃ (s : State) (c : CmdEntry) (ctx : Fin 256), s.takes 0x0302 c = true ∧ c.bytes 24 4 = [byte ctx.val, 0, 0, 0] ∧ s.svc.ctx[ctx].st = .free) ∧ (∃ (s : State) (rn : Fin 32) (x : _), s.svc.run[rn].fm.hist = List.replicate 16 x ∧ rn.val < 16) ∧ (∃ (s : State) (c : CmdEntry) (rn : Fin 32), s.takes 0x0303 c = true ∧ c.bytes 24 4 = [byte rn.val, 0, 0, 0] ∧ (s.windowOf rn).isSome = true ∧ 16 ≤ rn.val) ∧ (∃ (s : State) (c : CmdEntry) (rn : Fin 32), s.takes 0x0303 c = true ∧ c.bytes 24 4 = [byte rn.val, 0, 0, 0] ∧ s.windowOf rn = none) ∧ (∃ (s : State) (c : CmdEntry) (rn : Fin 32) (l : _), s.takes 0x0310 c = true ∧ c.u8 24 = rn.val ∧ rn.val < 16 ∧ c.bytes 39 5 = [0, 0, 0, 0, 0] ∧ l = (List.range 14).map (fun i => if c.u8 (25 + i) = 0xFF then (s.svc.run[rn].fm.next.getD (s.svc.run[rn].fm.settings rn)).getD i 0 else byte (c.u8 (25 + i))) ∧ l.getD 6 0 < l.getD 5 0 ∧ l.getD 9 0 < l.getD 8 0 ∧ l.getD 12 0 < l.getD 11 0) ∧ (∃ (s : State) (c : CmdEntry), s.takes 0x0310 c = true ∧ c.u8 25 = 3) :=
  ⟨⟨running, cmd [255, 0, 0, 0], 255, by decide +kernel⟩, ⟨steady, 0, steadyTick, by decide +kernel⟩, ⟨winOn.modWin 0 (fun x => { x with preset := 5, runner := 24 }), cmd [24, 0, 0, 0], 24, by decide +kernel⟩, ⟨running, cmd [31, 0, 0, 0], 31, by decide +kernel⟩, ⟨running, cmd ([15] ++ List.replicate 13 0xFF ++ [20, 0, 0, 0, 0, 0]), 15, _, by decide +kernel, by decide +kernel, by decide +kernel, by decide +kernel, rfl, by decide +kernel⟩, ⟨running, cmd ([15, 3] ++ zeros 18), by decide⟩⟩

/-- The hypotheses of ServiceCommandsComplete can be met. -/
theorem witness_ServiceCommandsComplete_3 : (∃ (s : State) (c : CmdEntry) (rn : Fin 32), s.takes 0x0311 c = true ∧ c.u8 24 = rn.val ∧ 16 ≤ rn.val ∧ rn.val ≤ 23 ∧ c.bytes 34 2 = [0, 0]) ∧ (∃ (s : State) (c : CmdEntry) (rn : Fin 32), s.takes 0x0312 c = true ∧ c.bytes 24 4 = [byte rn.val, 1, 0, 0] ∧ rn.val < 16 ∧ s.ctxsOf rn = [] ∧ (s.windowOf rn).isSome = true) ∧ (∃ (s : State) (c : CmdEntry) (rn : Fin 32), s.takes 0x0312 c = true ∧ c.bytes 24 4 = [byte rn.val, 0, 0, 0] ∧ s.svc.run[rn].fm.lent = true ∧ s.svc.run[rn].fm.probes = []) ∧ (∃ (s : State) (c : CmdEntry) (rn : Fin 32) (win : Fin 64), s.takes 0x0313 c = true ∧ c.u8 24 = rn.val ∧ s.windowOf rn = some win ∧ s.tuneBad win (c.u32 28) = false ∧ c.u16 32 = 500 ∧ s.svc.run[rn].fm.lent = true ∧ s.svc.run[rn].fm.probes ≠ []) ∧ ∃ (s : State) (c : CmdEntry) (rn : Fin 32), s.takes 0x0314 c = true ∧ c.bytes 24 4 = [byte rn.val, 0, 0, 0] ∧ rn.val < 16 ∧ (s.windowOf rn).isSome = true :=
  ⟨⟨running, cmd ([16] ++ List.replicate 9 0xFF ++ [0, 0]), 16, by decide +kernel⟩, ⟨winOn, cmd [0, 1, 0, 0], 0, by decide +kernel⟩, ⟨lentRun [], cmd [0, 0, 0, 0], 0, by decide +kernel⟩, ⟨lentRun [⟨100000000, 0, false, 110, 0⟩], cmd [0, 7, 0, 0, 0xC0, 0xAA, 0xF6, 0x05, 0xF4, 1, 0, 0], 0, 0, by decide +kernel⟩, ⟨winOn, cmdOut [0, 0, 0, 0] 1024, 0, by decide +kernel⟩⟩

/-- The hypotheses of FmRunnersFollowTheirSignal can be met. -/
theorem witness_FmRunnersFollowTheirSignal : (∃ (s : State) (rn : Fin 32), ∃ o : RdsObs, rn.val < 16 ∧ s.svc.run[rn].active = true ∧ s.svc.run[rn].fm.next = none ∧ s.ctxsOf rn = [] ∧ s.svc.run[rn].carry = 0 ∧ s.svc.run[rn].gap = none ∧ s.svc.run[rn].lock = false ∧ s.svc.run[rn].fm.pilot = false ∧ s.svc.run[rn].fm.streamOn rn 0 = true ∧ s.svc.run[rn].fm.rds.sync.getLsbD 0 = false ∧ s.svc.run[rn].fm.rds.seen[0] = [] ∧ s.svc.run[rn].fm.rds.pi = none ∧ s.svc.run[rn].fm.rds.prov = none ∧ s.svc.run[rn].fm.probes = [] ∧ zeroOffset (s.svc.run[rn].fm.rbds rn) o.bits = some .A) ∧ (∃ (s : State) (rn : Fin 32) (l : _), 16 ≤ rn.val ∧ rn.val < 24 ∧ s.svc.run[rn].active = false ∧ s.svc.run[rn].fm.next = some l ∧ s.svc.run[rn].fm.rds = {}) ∧ (∃ (s : State) (rn : Fin 32), rn.val < 24 ∧ s.svc.run[rn].active = true ∧ s.svc.run[rn].lock = false ∧ s.svc.run[rn].fm.mayLock rn = true ∧ s.ctxsOf rn = [] ∧ s.svc.run[rn].fm.pilot = false ∧ 40 ≤ s.svc.run[rn].fm.hist.length ∧ ∀ x ∈ s.svc.run[rn].fm.hist.take 40, 40 ≤ x.m.pilot) ∧ (∃ (s : State) (rn : Fin 32), rn.val < 16 ∧ s.svc.run[rn].lock = true ∧ 100 ≤ s.svc.run[rn].fm.hist.length ∧ (∀ x ∈ s.svc.run[rn].fm.hist.take 100, (x.m.cnr : Int) < s.svc.run[rn].fm.lockCnr rn - 8) ∧ (∃ x ∈ s.svc.run[rn].fm.hist.take 1, x.m.offset.natAbs ≤ 200) ∧ s.svc.run[rn].fm.pilot = true ∧ ∀ x ∈ s.svc.run[rn].fm.hist.take 100, x.m.pilot < 20) ∧ (∃ (s : State) (rn : Fin 32), rn.val < 24 ∧ s.svc.run[rn].lock = true ∧ s.svc.run[rn].fm.drifted rn = true) ∧ (∃ (s : State) (ctx : Fin 256) (rn : Fin 32), ∃ k : Fin 32, s.svc.ctx[ctx].kind = 0 ∧ s.svc.ctx[ctx].st = .running ∧ s.svc.ctx[ctx].runner = rn ∧ rn.val < 24 ∧ s.svc.run[rn].active = true ∧ s.svc.run[rn].carry = 0 ∧ s.svc.ctx[ctx].discDue = false ∧ s.svc.ctx[ctx].lost = 0 ∧ s.svc.ctx[ctx].shadowOf = none ∧ s.svc.ctx[ctx].follow = false ∧ s.svc.ctx[ctx].fadeIn = 1440 ∧ s.audioBlocked ctx = false ∧ s.svc.ctx[ctx].route.toNat = k.val) :=
  ⟨⟨runOn 15, 15, blockAt 55511848 0, by decide +kernel⟩, ⟨amNext, 17, amDefaults, by decide +kernel⟩, ⟨ticksOn 0 100 (tickOf 100 50 100) (runOn 0), 0, by decide +kernel⟩, ⟨(lockOn 0 (ticksOn 0 100 (tickOf 0 10 100) (runOn 0))).modFm 0 (fun f => { f with pilot := true }), 0, by decide +kernel⟩, ⟨lockOn 16 (ticksOn 16 1 (tickOf 100 10 201) (runOn 16)), 16, by decide +kernel⟩, ⟨(runOn 0).modCtx 0 (fun x => { x with st := .running, route := 31, fadeIn := 1440 }), 0, 0, 31, by decide +kernel⟩⟩

/-- The hypotheses of FmRunnersFollowTheirSignal can be met. -/
theorem witness_FmRunnersFollowTheirSignal_2 : (∃ (s : State) (rn : Fin 32) (p : _), s.svc.run[rn].fm.rds.pi = none ∧ s.svc.run[rn].fm.rds.prov = some p ∧ rn.val < 16 ∧ s.svc.run[rn].active = true ∧ s.svc.run[rn].fm.probes = [] ∧ s.svc.run[rn].fm.rds.seen[0] = []) ∧ (∃ (s : State) (rn : Fin 32), ∃ o : RdsObs, ∃ x : Nat × RdsOffset × BitVec 16, ∃ e : RdsOffset, ∃ k : Fin 4, s.svc.run[rn].active = true ∧ s.svc.run[rn].fm.streamOn rn k = true ∧ k ≠ 0 ∧ s.svc.run[rn].fm.rds.sync.getLsbD k.val = false ∧ s.svc.run[rn].fm.rds.seen[k] = [x] ∧ zeroOffset (s.svc.run[rn].fm.rbds rn) o.bits = some e ∧ o.pos = x.1 + 26 * 3 ∧ inOrder x.2.1 e 3 = some 0) ∧ (∃ (s : State) (rn : Fin 32), ∃ o : RdsObs, ∃ k : Fin 4, s.svc.run[rn].fm.streamOn rn k = true ∧ k ≠ 0 ∧ s.svc.run[rn].fm.rds.sync.getLsbD k.val = true ∧ o.pos = s.svc.run[rn].fm.rds.pos[k] ∧ (checkBlock (s.svc.run[rn].fm.setting rn 4) (expected (s.svc.run[rn].fm.rbds rn) s.svc.run[rn].fm.rds.group[k]) o.bits).2.2 = 3 ∧ 20 ≤ ((true :: s.svc.run[rn].fm.rds.hist[k]).take 25 |>.filter id).length) ∧ (∃ (s : State) (rn : Fin 32), ∃ k : Fin 4, rn.val < 16 ∧ s.svc.run[rn].active = true ∧ s.svc.run[rn].fm.streamOn rn k = true ∧ k ≠ 0 ∧ s.svc.run[rn].fm.rds.sync.getLsbD k.val = true ∧ s.svc.run[rn].fm.rds.group[k].length = 3 ∧ s.ctxsOf rn = [] ∧ s.segComps rn = [] ∧ s.svc.run[rn].carry = 0 ∧ ((true :: s.svc.run[rn].fm.rds.hist[k]).take 25 |>.filter id).length < 20) ∧ ∃ (s : State) (rn : Fin 32) (k : _), s.svc.run[rn].fm.probes = [k] ∧ k.floor ≤ 0 ∧ (-400 : Int) < k.floor :=
  ⟨⟨(runOn 0).modFm 0 (fun f => { f with rds := { f.rds with prov := some 0xD3C2 } }), 0, 0xD3C2, by decide +kernel⟩, ⟨rdsSeenOn, 0, blockAt 0x0FC 78, (0, .B, 0), .A, 3, by decide +kernel⟩, ⟨rdsSyncOn 19, 0, blockAt 0x1234567 26, 3, by decide +kernel⟩, ⟨rdsSyncOn 0, 0, 3, by decide +kernel⟩, ⟨lentRun [⟨100000000, 0, false, 110, 0⟩], 0, ⟨100000000, 0, false, 110, 0⟩, by decide +kernel⟩⟩

/-- The hypotheses of DabRunnersDecodeTheirEnsemble can be met. -/
theorem witness_DabRunnersDecodeTheirEnsemble : (∃ (s : State) (c : CmdEntry) (rn : Fin 32) (l : _), s.takes 0x0320 c = true ∧ c.u8 24 = rn.val ∧ 24 ≤ rn.val ∧ rn.val ≤ 27 ∧ c.bytes 29 3 = [0, 0, 0] ∧ l = (List.range 4).map (fun i => if c.u8 (25 + i) = 0xFF then (s.svc.run[rn].dab.next.getD s.svc.run[rn].dab.settings).getD i 0 else byte (c.u8 (25 + i)))) ∧ (∃ (s : State) (c : CmdEntry), s.takes 0x0320 c = true ∧ c.u8 24 = 27 ∧ 1 < c.u8 25 ∧ c.u8 25 ≠ 0xFF) ∧ (∃ (s : State) (c : CmdEntry) (rn : Fin 32) (e : _), s.takes 0x0321 c = true ∧ c.bytes 24 4 = [byte rn.val, 0, 0, 0] ∧ rn.val = 27 ∧ (s.windowOf rn).isSome = true ∧ s.svc.run[rn].dab.eid = some e ∧ s.svc.run[rn].dab.lockedEid = some e) ∧ (∃ (s : State) (c : CmdEntry) (rn : Fin 32), s.takes 0x0321 c = true ∧ c.bytes 24 4 = [byte rn.val, 0, 0, 0] ∧ rn.val = 24 ∧ s.windowOf rn = none) ∧ (∃ (s : State) (rn : Fin 32), rn.val = 24 ∧ s.svc.run[rn].active = true ∧ s.svc.run[rn].dab.timing = false) ∧ (∃ (s : State) (rn : Fin 32) (o : DabFrameObs), rn.val = 24 ∧ s.svc.run[rn].active = true ∧ s.svc.run[rn].dab.timing = true ∧ s.svc.run[rn].lock = false ∧ s.svc.run[rn].dab.prsOkRun = 1 ∧ o.prsOk = true ∧ (o.fibs.take 12).any fibOk = true ∧ ((o.fibs.take 12).filter fibOk).flatMap (fun b => figsOf 30 (b.take 30)) = [] ∧ s.ctxsOf rn = []) :=
  ⟨⟨running, cmd [27, 0xFF, 8, 0xFF, 10, 0, 0, 0], 27, _, by decide +kernel, by decide +kernel, by decide +kernel, by decide +kernel, by decide +kernel, rfl⟩, ⟨running, cmd [27, 2, 8, 10, 10, 0, 0, 0], by decide⟩, ⟨(runOn 27).modDab 27 (fun d => { d with eid := some 1, lockedEid := some 1 }), cmdOut [27, 0, 0, 0] 13376, 27, 1, by decide +kernel⟩, ⟨running, cmdOut [24, 0, 0, 0] 13376, 24, by decide +kernel⟩, ⟨runOn 24, 24, by decide +kernel⟩, ⟨(runOn 24).modDab 24 (fun d => { d with timing := true, prsOkRun := 1 }), 24, dabFrame true [fibOf []], by decide +kernel⟩⟩

/-- The hypotheses of DabRunnersDecodeTheirEnsemble can be met. -/
theorem witness_DabRunnersDecodeTheirEnsemble_2 : (∃ (s : State) (rn : Fin 32) (o : DabFrameObs), rn.val = 24 ∧ s.svc.run[rn].active = true ∧ s.svc.run[rn].dab.timing = true ∧ s.svc.run[rn].lock = true ∧ s.svc.run[rn].dab.prsBadRun = 2 ∧ o.prsOk = false ∧ ((o.fibs.take 12).filter fibOk).flatMap (fun b => figsOf 30 (b.take 30)) = [] ∧ s.ctxsOf rn = [] ∧ s.svc.run[rn].dab.complete = false ∧ s.svc.run[rn].dab.timeoutRaised = false) ∧ (∃ (s : State) (rn : Fin 32), rn.val = 24 ∧ s.svc.run[rn].active = true ∧ s.svc.run[rn].dab.timing = true ∧ s.svc.run[rn].lock = false ∧ s.ctxsOf rn = [] ∧ s.svc.run[rn].dab.next = none ∧ s.svc.run[rn].dab.lastTs = none ∧ s.svc.run[rn].dab.stored < 15 ∧ s.svc.run[rn].dab.reconf = none) ∧ (∃ (s : State) (rn : Fin 32) (o : DabFrameObs) (hi : Byte) (lo : Byte) (sh : Byte) (sl : Byte) (ty : Byte) (sc : Byte) (h : Byte) (l : _), rn.val = 24 ∧ s.svc.run[rn].active = true ∧ s.svc.run[rn].dab.timing = true ∧ s.svc.run[rn].lock = false ∧ s.svc.run[rn].dab.prsOkRun = 0 ∧ o.prsOk = true ∧ ((o.fibs.take 12).filter fibOk).flatMap (fun b => figsOf 30 (b.take 30)) = [⟨0, [0, hi, lo, 0, 7]⟩, ⟨0, [2, sh, sl, 1, ty, sc]⟩] ∧ ty.toNat < 64 ∧ sc.toNat % 4 = 2 ∧ s.svc.run[rn].dab.eid = none ∧ s.svc.run[rn].dab.comps = [] ∧ s.svc.run[rn].dab.org = {} ∧ s.svc.run[rn].dab.kept = l ∧ s.ctxsOf rn = [] ∧ (∀ (j : _), j < h.toNat → byte j ∈ l.map Prod.fst) ∧ h ∉ l.map Prod.fst ∧ (BitVec.ofNat 32 (256 * sh.toNat + sl.toNat), 0) ∉ l.map Prod.snd) ∧ (∃ (s : State) (rn : Fin 32) (o : DabFrameObs) (hi : Byte) (lo : Byte) (e : _), rn.val = 24 ∧ s.svc.run[rn].active = true ∧ s.svc.run[rn].dab.timing = true ∧ s.svc.run[rn].lock = false ∧ s.svc.run[rn].dab.prsOkRun = 0 ∧ o.prsOk = true ∧ ((o.fibs.take 12).filter fibOk).flatMap (fun b => figsOf 30 (b.take 30)) = [⟨0, [0, hi, lo, 0, 7]⟩] ∧ s.svc.run[rn].dab.eid = some e ∧ e ≠ BitVec.ofNat 16 (256 * hi.toNat + lo.toNat) ∧ s.ctxsOf rn = []) ∧ (∃ (s : State) (rn : Fin 32) (g : DabCifObs) (ctx : Fin 256) (d : DabState) (b : DabSub), rn.val = 24 ∧ s.svc.run[rn].active = true ∧ s.svc.run[rn].dab.timing = true ∧ s.svc.run[rn].lock = true ∧ s.svc.run[rn].dab.next = none ∧ s.svc.run[rn].dab.lastTs = none ∧ 15 ≤ s.svc.run[rn].dab.stored ∧ s.svc.run[rn].dab.reconf = none ∧ d = (s.svc.run[rn].storeCif (s.legsOf rn) g).dab ∧ (s.svc.run[rn].cifRec (s.legsOf rn) g).1.erased = [] ∧ wholeSubs d.ring = [b] ∧ b.id ∉ d.fec ∧ d.superSync = [] ∧ s.ctxsOf rn = [ctx] ∧ s.svc.ctx[ctx].st = .running ∧ s.svc.ctx[ctx].kind = 1 ∧ compAddr s.svc.ctx[ctx].component ≠ 2 ∧ d.subOf s.svc.ctx[ctx] = some b.id ∧ s.svc.ctx[ctx].skip = 0 ∧ s.svc.ctx[ctx].staged = [] ∧ s.svc.ctx[ctx].lost = 0 ∧ s.svc.ctx[ctx].discDue = false ∧ 3 * b.kbps ≤ 2048 ∧ s.ringUp s.svc.ctx[ctx].ring = false) ∧ (∃ (s : State) (rn : Fin 32) (h : Byte) (ctx : Fin 256), rn.val = 27 ∧ s.ctxsOf rn = [ctx] ∧ s.svc.ctx[ctx].st = .running ∧ compAddr s.svc.ctx[ctx].component = 1 ∧ compId s.svc.ctx[ctx].component = h.toNat) :=
  ⟨⟨(runOn 24).modRun 24 (fun x => { x with lock := true, dab := { x.dab with timing := true, prsBadRun := 2 } }), 24, dabFrame false [], by decide +kernel⟩, ⟨(runOn 24).modDab 24 (fun d => { d with timing := true }), 24, by decide +kernel⟩, ⟨(runOn 24).modDab 24 (fun d => { d with timing := true, kept := [(0, 1, 2)] }), 24, dabFrame true [fibOf ([5, 0] ++ [0xE1, 0xC2, 0, 7] ++ [6, 2] ++ [0xD2, 0x20, 1, 63, 22])], 0xE1, 0xC2, 0xD2, 0x20, 63, 22, 1, [(0, 1, 2)], by decide +kernel⟩, ⟨(runOn 24).modDab 24 (fun d => { d with timing := true, eid := some 2 }), 24, dabFrame true [fibOf ([5, 0] ++ [0xE1, 0xC2, 0, 7])], 0xE1, 0xC2, 2, by decide +kernel⟩, ⟨dabFull, 24, cifZero, 9, (dabFull.svc.run[(24 : Fin 32)].storeCif (dabFull.legsOf 24) cifZero).dab, subOne, by decide +kernel⟩, ⟨(runOn 27).modCtx 9 (fun x => { x with st := .running, runner := 27, kind := 1, route := 9, component := 0x10000003 }), 27, 3, 9, by decide +kernel⟩⟩

/-- The hypotheses of DabRunnersDecodeTheirEnsemble can be met. -/
theorem witness_DabRunnersDecodeTheirEnsemble_3 : ∃ (s : State) (ctx : Fin 256) (q : _), s.svc.ctx[ctx].mot = [q] ∧ q.tid = 7 :=
  ⟨running.modCtx 0 (fun x => { x with mot := [motSeven] }), 0, motSeven, by decide +kernel⟩

/-- The hypotheses of DrmRunnersDecodeTheirMultiplex can be met. -/
theorem witness_DrmRunnersDecodeTheirMultiplex : (∃ (s : State) (c : CmdEntry) (rn : Fin 32) (l : _), s.takes 0x0330 c = true ∧ c.u8 24 = rn.val ∧ 28 ≤ rn.val ∧ s.svc.run[rn].drm.mode = none ∧ l = (List.range 3).map (fun i => if c.u8 (25 + i) = 0xFF then (s.svc.run[rn].drm.next.getD s.svc.run[rn].drm.settings).getD i 0 else byte (c.u8 (25 + i)))) ∧ (∃ (s : State) (c : CmdEntry), s.takes 0x0330 c = true ∧ c.u8 24 = 31 ∧ c.u8 25 = 0) ∧ (∃ (s : State) (c : CmdEntry) (rn : Fin 32), s.takes 0x0331 c = true ∧ c.bytes 24 4 = [byte rn.val, 0, 0, 0] ∧ rn.val = 31 ∧ (s.windowOf rn).isSome = true ∧ s.svc.run[rn].drm.everLocked = true) ∧ (∃ (s : State) (c : CmdEntry) (rn : Fin 32), s.takes 0x0331 c = true ∧ c.bytes 24 4 = [byte rn.val, 0, 0, 0] ∧ rn.val = 28 ∧ s.windowOf rn = none) ∧ (∃ (s : State) (rn : Fin 32) (win : Fin 64), rn.val = 28 ∧ s.svc.run[rn].active = true ∧ s.windowOf rn = some win ∧ s.win.win[win].preset ≠ 4 ∧ s.svc.run[rn].drm.modes.getLsbD 3 = true ∧ s.svc.run[rn].drm.mode = none) ∧ (∃ (s : State) (rn : Fin 32) (win : Fin 64), s.windowOf rn = some win ∧ s.win.win[win].preset ≠ 4 ∧ s.svc.run[rn].drm.modes.getLsbD 3 = false) :=
  ⟨⟨running, cmd [31, 15, 0xFF, 10], 31, _, by decide +kernel, by decide +kernel, by decide +kernel, by decide +kernel, rfl⟩, ⟨running, cmd [31, 0, 0xFF, 10], by decide⟩, ⟨(runOn 31).modDrm 31 (fun d => { d with everLocked := true }), cmdOut [31, 0, 0, 0] 512, 31, by decide +kernel⟩, ⟨running, cmdOut [28, 0, 0, 0] 512, 28, by decide +kernel⟩, ⟨runOn 28, 28, 0, by decide +kernel⟩, ⟨(runOn 28).modDrm 28 (fun d => { d with modes := 7 }), 28, 0, by decide +kernel⟩⟩

/-- The hypotheses of DrmRunnersDecodeTheirMultiplex can be met. -/
theorem witness_DrmRunnersDecodeTheirMultiplex_2 : (∃ (s : State) (rn : Fin 32), rn.val = 28 ∧ s.svc.run[rn].active = true ∧ s.svc.run[rn].drm.mode.isSome = true ∧ s.svc.run[rn].lock = false ∧ s.svc.run[rn].drm.next = none ∧ s.svc.run[rn].drm.lastTs = none ∧ s.svc.run[rn].drm.pendingReconf = false ∧ s.svc.run[rn].drm.sdcComplete = false ∧ s.ctxsOf rn = []) ∧ ∃ (s : State) (rn : Fin 32), rn.val = 28 ∧ s.svc.run[rn].active = true ∧ s.svc.run[rn].drm.mode.isSome = true ∧ s.svc.run[rn].lock = true ∧ s.svc.run[rn].drm.timeBadRun = 2 ∧ s.svc.run[rn].dab.timing = false ∧ s.svc.run[rn].drm.lastTs = none ∧ s.ctxsOf rn = [] :=
  ⟨⟨(runOn 28).modDrm 28 (fun d => { d with mode := some 1 }), 28, by decide +kernel⟩, ⟨(runOn 28).modRun 28 (fun x => { x with lock := true, drm := { x.drm with mode := some 1, timeBadRun := 2 } }), 28, by decide +kernel⟩⟩

/-- The hypotheses of FollowingCommandsComplete can be met. -/
theorem witness_FollowingCommandsComplete : (∃ (s : State) (c : CmdEntry), s.takes 0x0401 c = true ∧ c.bytes 54 2 = [0, 0] ∧ (∀ p : Nat × Nat × Nat, p ∈ policyBytes → c.u8 p.1 = 0xFF) ∧ (∀ p : Nat × Nat × Nat, p ∈ policyWords → c.u16 p.1 = 0xFFFF) ∧ (∀ i : Nat, i < 4 → ((s.fan.nextPolicy.getD s.fan.policy).getD (2 * i) 0).toNat < ((s.fan.nextPolicy.getD s.fan.policy).getD (2 * i + 1) 0).toNat)) ∧ (∃ (s : State) (c : CmdEntry), s.takes 0x0401 c = true ∧ c.u8 24 = 60 ∧ c.u8 25 = 60) ∧ (∃ (s : State) (c : CmdEntry) (f : Fin 256), s.takes 0x0402 c = true ∧ c.u8 24 = f.val ∧ c.u8 25 = 0 ∧ c.u8 26 = 5 ∧ s.stdOn 5 = true ∧ c.u8 27 = 0 ∧ s.svc.ctx[f].st ≠ .free ∧ s.svc.ctx[f].follow = true ∧ s.fan.follow[f].cands = []) ∧ (∃ (s : State) (c : CmdEntry) (f : Fin 256), s.takes 0x0402 c = true ∧ c.u8 24 = f.val ∧ c.u8 25 = 0 ∧ c.u8 26 = 1 ∧ s.stdOn (byte (c.u8 26)) = true ∧ c.u8 27 = 0 ∧ s.svc.ctx[f].st ≠ .free ∧ s.svc.ctx[f].follow = true ∧ s.findCand f (byte (c.u8 26)) (BitVec.ofNat 32 (c.u32 28)) (BitVec.ofNat 32 (c.u32 32)) = none ∧ ∀ j : Nat, j < 32 → (s.cand f j).isSome = true) ∧ (∃ (s : State) (c : CmdEntry) (f : Fin 256) (i : _) (k : Cand), s.takes 0x0402 c = true ∧ c.u8 24 = f.val ∧ c.u8 25 = 1 ∧ c.u8 26 = 1 ∧ c.u8 27 = 0 ∧ s.svc.ctx[f].st ≠ .free ∧ s.svc.ctx[f].follow = true ∧ s.findCand f (byte (c.u8 26)) (BitVec.ofNat 32 (c.u32 28)) (BitVec.ofNat 32 (c.u32 32)) = some i ∧ s.cand f i = some k ∧ k.host = true) ∧ (∃ (s : State) (c : CmdEntry) (f : Fin 256), s.takes 0x0402 c = true ∧ c.u8 24 = f.val ∧ c.u8 25 = 3 ∧ c.u8 26 = 5 ∧ c.u8 27 = 0 ∧ s.svc.ctx[f].st ≠ .free ∧ s.svc.ctx[f].follow = true ∧ s.findCand f (byte (c.u8 26)) (BitVec.ofNat 32 (c.u32 28)) (BitVec.ofNat 32 (c.u32 32)) = none) :=
  ⟨⟨running, cmd (List.replicate 30 0xFF ++ [0, 0]), by decide +kernel⟩, ⟨running, cmd ([60, 60] ++ List.replicate 28 0xFF ++ [0, 0]), by decide +kernel⟩, ⟨followOn [], cmd [0, 0, 5, 0, 1, 0, 0, 0, 2, 0, 0, 0], 0, by decide +kernel⟩, ⟨followOn (List.replicate 32 (some candFm)), cmd [0, 0, 1, 0, 1, 0, 0, 0, 2, 0, 0, 0], 0, by decide +kernel⟩, ⟨followOn [some { candFm with host := true, freq := 1, ident := 2 }], cmd [0, 1, 1, 0, 1, 0, 0, 0, 2, 0, 0, 0], 0, 0, { candFm with host := true, freq := 1, ident := 2 }, by decide +kernel⟩, ⟨followOn [some candFm], cmd [0, 3, 5, 0, 1, 0, 0, 0, 2, 0, 0, 0], 0, by decide +kernel⟩⟩

/-- The hypotheses of FollowingCommandsComplete can be met. -/
theorem witness_FollowingCommandsComplete_2 : (∃ (s : State) (c : CmdEntry) (f : Fin 256), s.takes 0x0403 c = true ∧ c.bytes 24 4 = [byte f.val, 0, 0, 0] ∧ s.svc.ctx[f].st ≠ .free ∧ s.svc.ctx[f].follow = true) ∧ (∃ (s : State) (c : CmdEntry) (f : Fin 256), s.takes 0x0403 c = true ∧ c.bytes 24 4 = [byte f.val, 0, 0, 0] ∧ s.svc.ctx[f].follow = false) ∧ (∃ (s : State) (c : CmdEntry) (f : Fin 256) (k : Cand), s.takes 0x0404 c = true ∧ c.u8 24 = f.val ∧ c.u8 25 = 0 ∧ c.u8 26 = 1 ∧ c.u8 27 = 0 ∧ s.svc.ctx[f].st ≠ .free ∧ s.svc.ctx[f].follow = true ∧ s.cand f (c.u8 25) = some k ∧ s.ready f k = true ∧ k.blocked = false ∧ s.candUsable k = true ∧ s.canDip f k = true ∧ s.fan.follow[f].blend = none) ∧ (∃ (s : State) (c : CmdEntry) (f : Fin 256) (k : Cand) (bl : Blend), s.takes 0x0404 c = true ∧ c.u8 24 = f.val ∧ c.u8 25 ≤ 31 ∧ c.u8 26 ≤ 1 ∧ c.u8 27 = 0 ∧ s.svc.ctx[f].st ≠ .free ∧ s.svc.ctx[f].follow = true ∧ s.cand f (c.u8 25) = some k ∧ s.fan.follow[f].blend = some bl ∧ s.isCurrent f k.std k.freq = true) ∧ (∃ (s : State) (c : CmdEntry) (f : Fin 256) (k : Cand) (bl : Blend), s.takes 0x0404 c = true ∧ c.u8 24 = f.val ∧ c.u8 25 ≤ 31 ∧ c.u8 26 = 1 ∧ c.u8 27 = 0 ∧ s.svc.ctx[f].st ≠ .free ∧ s.svc.ctx[f].follow = true ∧ s.cand f (c.u8 25) = some k ∧ k.blocked = false ∧ s.candUsable k = true ∧ s.canDip f k = true ∧ s.fan.follow[f].blend = some bl ∧ s.isCurrent f k.std k.freq = false) ∧ (∃ (s : State) (c : CmdEntry) (f : Fin 256) (k : Cand), s.takes 0x0404 c = true ∧ c.u8 24 = f.val ∧ c.u8 25 = 0 ∧ c.u8 26 = 0 ∧ c.u8 27 = 0 ∧ s.svc.ctx[f].st ≠ .free ∧ s.svc.ctx[f].follow = true ∧ s.cand f (c.u8 25) = some k ∧ s.ready f k = false ∧ s.fan.follow[f].blend = none) :=
  ⟨⟨followOn [], cmdOut [0, 0, 0, 0] 784, 0, by decide +kernel⟩, ⟨running, cmdOut [0, 0, 0, 0] 784, 0, by decide +kernel⟩, ⟨shadowOn candReady, cmd [0, 0, 1, 0], 0, { candReady with shadow := some 1 }, by decide +kernel⟩, ⟨blendBack, cmd [0, 0, 0, 0], 0, { candReady with shadow := some 1, freq := blendBack.freqOf 0 }, blendTo false, by decide +kernel⟩, ⟨blending false, cmd [0, 0, 1, 0], 0, { candReady with shadow := some 1 }, blendTo false, by decide +kernel⟩, ⟨followOn [some candFm], cmd [0, 0, 0, 0], 0, candFm, by decide +kernel⟩⟩

/-- The hypotheses of FollowingCommandsComplete can be met. -/
theorem witness_FollowingCommandsComplete_3 : (∃ (s : State) (c : CmdEntry) (f : Fin 256), s.takes 0x0404 c = true ∧ c.u8 24 = f.val ∧ c.u8 25 = 31 ∧ c.u8 26 = 0 ∧ c.u8 27 = 0 ∧ s.svc.ctx[f].st ≠ .free ∧ s.svc.ctx[f].follow = true ∧ s.cand f (c.u8 25) = none) ∧ (∃ (s : State) (c : CmdEntry) (f : Fin 256), s.takes 0x0405 c = true ∧ c.bytes 24 4 = [byte f.val, 1, 0, 0] ∧ s.svc.ctx[f].st ≠ .free ∧ s.svc.ctx[f].kind = 0 ∧ s.svc.ctx[f].follow = false ∧ s.followed.length < 16) ∧ (∃ (s : State) (c : CmdEntry) (f : Fin 256), s.takes 0x0405 c = true ∧ c.bytes 24 4 = [byte f.val, 1, 0, 0] ∧ s.svc.ctx[f].st ≠ .free ∧ s.svc.ctx[f].kind = 0 ∧ s.svc.ctx[f].follow = false ∧ s.followed.length = 16) ∧ (∃ (s : State) (c : CmdEntry) (f : Fin 256), s.takes 0x0405 c = true ∧ c.bytes 24 4 = [byte f.val, 0, 0, 0] ∧ s.svc.ctx[f].st ≠ .free ∧ s.svc.ctx[f].follow = true) ∧ (∃ (s : State) (c : CmdEntry) (f : Fin 256), s.takes 0x0405 c = true ∧ c.bytes 26 2 = [0, 0] ∧ c.u8 24 = f.val ∧ s.svc.ctx[f].st ≠ .free ∧ c.u8 25 = 1 ∧ s.svc.ctx[f].kind = 0 ∧ s.svc.ctx[f].follow = true) ∧ (∃ s : State, ∃ q : Fin 256, q ∈ s.idleShadows) :=
  ⟨⟨followOn [some candFm], cmd [0, 31, 0, 0], 0, by decide +kernel⟩, ⟨ctxOn, cmd [0, 1, 0, 0], 0, by decide +kernel⟩, ⟨(List.range 16).foldl (fun s i => s.modCtx (Fin.ofNat 256 (i + 1)) fun x => { x with st := .running, follow := true }) ctxOn, cmd [0, 1, 0, 0], 0, by decide +kernel⟩, ⟨followOn [], cmd [0, 0, 0, 0], 0, by decide +kernel⟩, ⟨followOn [], cmd [0, 1, 0, 0], 0, by decide +kernel⟩, ⟨shadowOn candReady, 1, by decide +kernel⟩⟩

/-- The hypotheses of FollowingCommandsComplete can be met. -/
theorem witness_FollowingCommandsComplete_4 : ∃ (s : State), s.idleShadows = [] ∧ s.fanWins = [] :=
  ⟨running, by decide +kernel⟩

/-- The hypotheses of TheFantailScoresAndDecides can be met. -/
theorem witness_TheFantailScoresAndDecides : (∃ (s : State), s.pairRuns 0 = false) ∧ (∃ (s : State) (l : _), s.pairRuns 0 = true ∧ s.followed = [] ∧ s.fanWins = [] ∧ s.idleShadows = [] ∧ s.fan.heard = [] ∧ s.fan.links = [] ∧ s.fan.freqs = [] ∧ s.fan.others = [] ∧ s.fan.sdcs = [] ∧  s.fan.nextPolicy = some l) ∧ (∃ (s : State) (f : Fin 256), s.pairRuns 0 = true ∧ s.fan.ctl.getLsbD 0 = true ∧ s.followed = [f] ∧ s.fanWins = [] ∧ s.fan.nextPolicy = none ∧ s.fan.follow[f].cands = [] ∧ s.fan.follow[f].blend = none ∧ s.shadowsOf f = [] ∧ s.svc.ctx[f].st = .acquiring ∧ s.fan.heard = [] ∧ s.fan.links = [] ∧ s.fan.freqs = [] ∧ s.fan.others = [] ∧ s.fan.sdcs = [] ∧ s.signals f = [] ∧ s.fan.follow[f].noCand = true) ∧ (∃ (s : State) (f : Fin 256) (c : Fin 256) (k : Cand), s.pairRuns 0 = true ∧ s.fan.ctl.getLsbD 0 = true ∧ s.followed = [f] ∧ s.fanWins = [] ∧ s.fan.nextPolicy = none ∧ s.fan.follow[f].cands = [some k] ∧ s.fan.follow[f].blend = none ∧ s.shadowsOf f = [c] ∧ 1 ≤ s.pol 51 ∧ s.svc.ctx[f].st = .acquiring ∧ k.shadow = some c ∧ k.blocked = false ∧ s.ready f (s.judge f k) = true ∧ s.fan.heard = [] ∧ s.fan.links = [] ∧ s.fan.freqs = [] ∧ s.fan.others = [] ∧ s.fan.sdcs = [] ∧ s.signals f = []) ∧ (∃ (s : State) (f : Fin 256), s.svc.ctx[f].follow = true ∧ s.fan.follow[f].blend = none ∧ s.fan.follow[f].cands = [] ∧ s.runnerQ s.svc.ctx[f].runner < s.th8 (s.stdOf s.svc.ctx[f].runner)) ∧ (∃ (s : State) (f : Fin 256) (b : Blend) (k : Cand) (r : Fin 32), s.svc.ctx[f].follow = true ∧ s.fan.follow[f].blend = some b ∧ s.cand f b.dest = some k ∧ s.demod f k = some r ∧ s.runnerQ r < s.th8 k.std) :=
  ⟨⟨State.reset, by decide +kernel⟩, ⟨{ running with fan := { running.fan with nextPolicy := some [] } }, [], by decide +kernel⟩, ⟨((followOn []).modCtx 0 fun x => { x with st := .acquiring }).modFollow 0 (fun w => { w with noCand := true }), 0, by decide +kernel⟩, ⟨(shadowOn candReady).modCtx 0 (fun x => { x with st := .acquiring }), 0, 1, { candReady with shadow := some 1 }, by decide +kernel⟩, ⟨followOn [], 0, by decide +kernel⟩, ⟨(blending false).modFm 1 (fun f => { f with q := 0 }), 0, blendTo false, { candReady with shadow := some 1 }, 1, by decide +kernel⟩⟩

/-- The hypotheses of TheFantailScoresAndDecides can be met. -/
theorem witness_TheFantailScoresAndDecides_2 : (∃ (s : State) (f : Fin 256), s.svc.ctx[f].follow = false ∧ s.fan.follow[f].blend = none) ∧ (∃ (s : State) (f : Fin 256) (i : Fin 32) (k : Cand), s.cand f i.val = some k ∧ s.svc.ctx[f].follow = true ∧ s.fan.ctl.getLsbD 0 = true ∧ s.fan.follow[f].blend = none ∧ s.margin f k = true ∧ s.stayed f = true) ∧ (∃ (s : State) (f : Fin 256) (i : Fin 32) (k : Cand), s.cand f i.val = some k ∧ s.margin f k = false ∧ k.host = true) ∧ (∃ (s : State) (f : Fin 256) (i : Fin 32) (k : Cand), s.cand f i.val = some k ∧ i.val = 31 ∧ k.host = false ∧ s.fresh k.stamp = false ∧ k.shadow = none) ∧ (∃ (s : State) (f : Fin 256) (k : Cand), s.svc.ctx[f].follow = true ∧ s.fan.follow[f].blend = none ∧ s.fan.follow[f].cands = [some k] ∧ s.ready f k = true ∧ k.blocked = false ∧ s.fan.ctl.getLsbD 0 = true) ∧ (∃ s : State, ∃ f : Fin 256, ∃ a : Bool, ∃ b : Blend, ∃ k : Cand, ∃ c : Fin 256, s.svc.ctx[f].follow = true ∧ s.fan.follow[f].blend = some b ∧ b.dip = false ∧ b.reversed = false ∧ s.cand f b.dest = some k ∧ k.shadow = some c ∧ s.gapMs c a < s.blendLeft b ∧ s.gapMs f a < s.blendLeft b) :=
  ⟨⟨running, 0, by decide +kernel⟩, ⟨shadowOn candReady, 0, 0, { candReady with shadow := some 1 }, by decide +kernel⟩, ⟨followOn [some { candFm with host := true }], 0, 0, { candFm with host := true }, by decide +kernel⟩, ⟨{ followOn (List.replicate 32 (some candFm)) with sys := { running.sys with timeUs := 60000000 } }, 0, 31, candFm, by decide +kernel⟩, ⟨shadowOn candReady, 0, { candReady with shadow := some 1 }, by decide +kernel⟩, ⟨blending false, 0, true, blendTo false, { candReady with shadow := some 1 }, 1, by decide +kernel⟩⟩

/-- The hypotheses of TheFantailScoresAndDecides can be met. -/
theorem witness_TheFantailScoresAndDecides_3 : (∃ s : State, ∃ f : Fin 256, ∃ a : Bool, ∃ b : Blend, s.svc.ctx[f].follow = true ∧ s.fan.follow[f].blend = some b ∧ s.blendLeft b ≤ s.gapMs f a) ∧ (∃ (s : State) (f : Fin 256) (b : Blend) (k : Cand) (c : Fin 256), s.fan.ctl.getLsbD 0 = true ∧ s.fan.follow[f].blend = some b ∧ b.reversed = false ∧ s.cand f b.dest = some k ∧ k.shadow = some c ∧ c ≠ f) ∧ ∃ (s : State) (f : Fin 256) (b : Blend), s.fan.ctl.getLsbD 0 = true ∧ s.fan.follow[f].blend = some b ∧ b.reversed = true :=
  ⟨⟨(blending false).modFollow 0 (fun w => { w with blend := some { blendTo false with ms := 0 } }), 0, true, { blendTo false with ms := 0 }, by decide +kernel⟩, ⟨blending true, 0, blendTo true, { candReady with shadow := some 1 }, 1, by decide +kernel⟩, ⟨(blending false).modFollow 0 (fun w => { w with blend := some { blendTo false with reversed := true } }), 0, { blendTo false with reversed := true }, by decide +kernel⟩⟩

/-- The hypotheses of EstimatorsAlignShadows can be met. -/
theorem witness_EstimatorsAlignShadows : (∃ (s : State) (e : Fin 4), s.fan.est[e].work = none) ∧ (∃ (s : State) (e : Fin 4) (o : AlignObs) (f : Fin 256) (i : Nat) (k : Cand), s.fan.est[e].work = some (f, i) ∧ s.cand f i = some k ∧ alignSkip o = false ∧ k.shadow.isSome = true ∧ k.converged = false ∧ s.fan.est[e].fine = false ∧ s.historyOk f k = true ∧ s.pol 48 ≤ (alignEstimate o (s.lagMax f k)).peak ∧ (alignEstimate o (s.lagMax f k)).distinct = true ∧ (alignEstimate o (s.lagMax f k)).nearEdge = false ∧ s.fan.est[e].coarse = some 97 ∧ (alignEstimate o (s.lagMax f k)).lag = 99) ∧ (∃ (s : State) (e : Fin 4) (o : AlignObs) (f : Fin 256) (i : Nat) (k : Cand), s.fan.est[e].work = some (f, i) ∧ s.cand f i = some k ∧ alignSkip o = false ∧ k.shadow.isSome = true ∧ k.converged = false ∧ s.fan.est[e].fine = true ∧ s.pol 48 ≤ (alignFine o k.lag).2) ∧ (∃ (s : State) (e : Fin 4) (o : AlignObs) (f : Fin 256) (i : Nat) (k : Cand), s.fan.est[e].work = some (f, i) ∧ s.cand f i = some k ∧ alignSkip o = false ∧ k.shadow.isSome = true ∧ k.converged = true ∧ (alignFine o k.lag).2 < s.pol 48 ∧ s.fan.est[e].short = 9 ∧ 960 < (48 * (alignEstimate o (s.lagMax f k)).lag - k.lag).natAbs) ∧ ∃ (s : State) (f : Fin 256) (i : Fin 32) (k : Cand) (c : Fin 256), s.cand f i.val = some k ∧ k.shadow = some c ∧ s.shadowDelay f k = 0 ∧ s.hasLine c 0 = true ∧ s.poolFrames c ≤ s.svc.ctx[c].line.length :=
  ⟨⟨running, 0, by decide +kernel⟩, ⟨heardOn (estOn candFm (fun x => { x with coarse := some 97 })), 0, envelope 99 60, 0, 0, { candFm with shadow := some 1 }, by decide +kernel⟩, ⟨estOn candFm (fun x => { x with fine := true }), 0, envelope 0 60, 0, 0, { candFm with shadow := some 1 }, by decide +kernel⟩, ⟨estOn candReady (fun x => { x with short := 9 }), 0, envelope 21 59, 0, 0, { candReady with shadow := some 1 }, by decide +kernel⟩, ⟨shadowOn candFm, 0, 0, { candFm with shadow := some 1 }, 1, by decide +kernel⟩⟩

/-- The hypotheses of BulletinCommandsComplete can be met. -/
theorem witness_BulletinCommandsComplete : (∃ (s : State) (c : CmdEntry), s.takes 0x0601 c = true ∧ c.u64 24 = 1 ∧ c.u8 32 = 15 ∧ c.bytes 33 3 = [0, 0, 0] ∧ s.bul.keysLocked = false ∧ s.bul.fleetId ≠ BitVec.ofNat 64 (c.u64 24)) ∧ (∃ (s : State) (c : CmdEntry), s.takes 0x0601 c = true ∧ c.u64 24 = 2 ^ 64 - 1) ∧ (∃ (s : State) (c : CmdEntry), s.takes 0x0601 c = true ∧ c.u64 24 = 1 ∧ c.u8 32 ≤ 15 ∧ c.bytes 33 3 = [0, 0, 0] ∧ s.bul.keysLocked = true ∧ s.bul.fleetId ≠ BitVec.ofNat 64 (c.u64 24)) ∧ (∃ (s : State) (c : CmdEntry), s.takes 0x0602 c = true ∧ c.u8 24 = 1 ∧ c.u8 25 = 3 ∧ c.bytes 26 2 = [0, 0] ∧ c.bufIn = true ∧ s.bul.keysLocked = false) ∧ (∃ (s : State) (c : CmdEntry), s.takes 0x0602 c = true ∧ c.u8 24 = 1 ∧ c.u8 25 = 2 ∧ c.bytes 26 2 = [0, 0] ∧ c.bufIn = false ∧ s.bul.keysLocked = false) ∧ (∃ (s : State) (c : CmdEntry), s.takes 0x0602 c = true ∧ c.u8 24 = 0 ∧ c.u8 25 = 2 ∧ c.bytes 26 2 = [0, 0] ∧ c.bufIn = false ∧ s.bul.keysLocked = true) :=
  ⟨⟨running, cmd [1, 0, 0, 0, 0, 0, 0, 0, 15, 0, 0, 0], by decide⟩, ⟨running, cmd (List.replicate 8 0xFF ++ [0, 0, 0, 0]), by decide⟩, ⟨running.modBulBlk (fun b => { b with keysLocked := true }), cmd [1, 0, 0, 0, 0, 0, 0, 0, 15, 0, 0, 0], by decide⟩, ⟨running, cmdIn [1, 3, 0, 0] (zeros 2592), by decide +kernel⟩, ⟨running, cmd [1, 2, 0, 0], by decide⟩, ⟨running.modBulBlk (fun b => { b with keysLocked := true }), cmd [0, 2, 0, 0], by decide⟩⟩

/-- The hypotheses of BulletinCommandsComplete can be met. -/
theorem witness_BulletinCommandsComplete_2 : (∃ (s : State) (c : CmdEntry) (rn : Fin 32) (ant : Fin 4), s.takes 0x0603 c = true ∧ c.u8 24 = 1 ∧ c.u8 25 = ant.val ∧ ant.val = 3 ∧ c.u8 26 = 3 ∧ c.u8 27 = rn.val ∧ rn.val = 15 ∧ presetRunner 3 rn.val = true ∧ kindServed rn 5 = true ∧ s.cap.hr[ant].bandOk (c.u8 26) (c.u32 28) = true ∧ compOk rn 5 (BitVec.ofNat 32 (c.u32 32)) = true ∧ c.u16 36 = 60 ∧ c.u16 38 = 600 ∧ c.bytes 44 4 = [0, 0, 0, 0]) ∧ (∃ (s : State) (c : CmdEntry) (rn : Fin 32) (ant : Fin 4), s.takes 0x0603 c = true ∧ c.u8 24 = 0 ∧ c.u8 25 = ant.val ∧ c.u8 26 = 3 ∧ c.u8 27 = rn.val ∧ presetRunner 3 rn.val = true ∧ kindServed rn 5 = true ∧ s.cap.hr[ant].bandOk (c.u8 26) (c.u32 28) = true ∧ compOk rn 5 (BitVec.ofNat 32 (c.u32 32)) = true ∧ c.u16 36 = 59) ∧ (∃ (s : State) (c : CmdEntry), s.takes 0x0604 c = true ∧ c.bytes 24 4 = [0, 0, 0, 0]) ∧ (∃ (s : State) (c : CmdEntry) (r : Fin 128), s.takes 0x0605 c = true ∧ c.bytes 24 4 = [byte r.val, 0, 0, 0] ∧ r.val = 127 ∧ s.bul.store[r].st = 1 ∧ s.bul.store[r].bytes.length ≤ c.bufLen.toNat) ∧ (∃ (s : State) (c : CmdEntry) (r : Fin 128), s.takes 0x0605 c = true ∧ c.bytes 24 4 = [byte r.val, 0, 0, 0] ∧ s.bul.store[r].st = 0) ∧ (∃ (s : State) (c : CmdEntry) (r : Fin 128), s.takes 0x0605 c = true ∧ c.bytes 24 4 = [byte r.val, 0, 0, 0] ∧ s.bul.store[r].st ≠ 0 ∧ c.bufLen.toNat < s.bul.store[r].bytes.length) :=
  ⟨⟨running, cmd ([1, 3, 3, 15, 0x00, 0xE1, 0xF5, 0x05, 0, 0, 1, 0, 60, 0, 0x58, 2, 0, 0, 0, 0, 0, 0, 0, 0]), 15, 3, by decide +kernel⟩, ⟨running, cmd ([0, 0, 3, 0, 0x00, 0xE1, 0xF5, 0x05, 0, 0, 1, 0, 59, 0, 10, 0, 0, 0, 0, 0, 0, 0, 0, 0]), 0, 0, by decide +kernel⟩, ⟨running, cmdOut [0, 0, 0, 0] 2080, by decide⟩, ⟨running.modBul 127 (fun x => { x with st := 1 }), cmdOut [127, 0, 0, 0] 4667, 127, by decide +kernel⟩, ⟨running, cmdOut [0, 0, 0, 0] 4667, 0, by decide +kernel⟩, ⟨running.modBul 0 (fun x => { x with st := 2, bytes := zeros 4668 }), cmdOut [0, 0, 0, 0] 4667, 0, by decide +kernel⟩⟩

/-- The hypotheses of BulletinCommandsComplete can be met. -/
theorem witness_BulletinCommandsComplete_3 : (∃ (s : State) (c : CmdEntry) (r : Fin 128), s.takes 0x0606 c = true ∧ c.bytes 24 4 = [byte r.val, 0, 0, 0] ∧ s.bul.store[r].st ≠ 0) ∧ (∃ (s : State) (c : CmdEntry) (r : Fin 128), s.takes 0x0606 c = true ∧ c.bytes 24 4 = [byte r.val, 0, 0, 0] ∧ s.bul.store[r].st = 0) ∧ ∃ (s : State) (c : CmdEntry) (r : Fin 128), s.takes 0x0606 c = true ∧ c.bytes 24 4 = [byte r.val, 1, 0, 0] :=
  ⟨⟨running.modBul 0 (fun x => { x with st := 1 }), cmd [0, 0, 0, 0], 0, by decide +kernel⟩, ⟨running, cmd [127, 0, 0, 0], 127, by decide +kernel⟩, ⟨running, cmd [0, 1, 0, 0], 0, by decide⟩⟩

/-- The hypotheses of SegmentsBecomeBulletins can be met. -/
theorem witness_SegmentsBecomeBulletins : (∃ (s : State) (o : SegObs), s.carries o.runner = false) ∧ (∃ (s : State) (o : SegObs) (b : List Byte), s.carries o.runner = true ∧ bulletinOf o.group = some b ∧ s.saf.safe = false ∧ s.bul.fleetId ≠ 0 ∧ b.length = 27) ∧ (∃ (s : State) (o : SegObs) (b : List Byte), s.carries o.runner = true ∧ bulletinOf o.group = some b ∧ s.saf.safe = false ∧ s.bul.fleetId ≠ 0 ∧ ¬ b.length < 28 ∧ segFleet b = s.bul.fleetId.toNat ∧ segKind b = 4 ∧ segSeq b = s.bulCtr 4) ∧ (∃ (s : State) (o : SegObs) (b : List Byte) (i : Fin 2) (r : Reasm), s.carries o.runner = true ∧ bulletinOf o.group = some b ∧ segOk b (segTransport o.runner).2 = true ∧ s.saf.safe = false ∧ segFleet b = s.bul.fleetId.toNat ∧ s.bul.fleetId ≠ 0 ∧ segKind b = 4 ∧ s.bulCtr (segKind b) < segSeq b ∧ s.bul.bufOf (segKind b) (segSeq b) = some i ∧ s.bul.reasm[i] = some r ∧ r.total = segTotal b ∧ (r.join (segOffset b) (slice b 24 (segLen b)) (segTransport o.runner).1).full = false) ∧ (∃ (s : State) (o : SegObs) (b : List Byte) (i : Fin 2), s.carries o.runner = true ∧ bulletinOf o.group = some b ∧ segOk b (segTransport o.runner).2 = true ∧ s.saf.safe = false ∧ segFleet b = s.bul.fleetId.toNat ∧ s.bul.fleetId ≠ 0 ∧ segKind b = 1 ∧ s.bulCtr (segKind b) < segSeq b ∧ s.bul.bufOf (segKind b) (segSeq b) = none ∧ s.bul.reasm[i] = none ∧ i.val = 1 ∧ ∀ j : Fin 2, j < i → (s.bul.reasm[j]).isSome = true) ∧ (∃ (s : State) (o : SegObs) (b : List Byte) (i : Fin 2) (r : Reasm) (m : List Byte) (k : Fin 128), s.carries o.runner = true ∧ bulletinOf o.group = some b ∧ segOk b (segTransport o.runner).2 = true ∧ s.saf.safe = false ∧ segFleet b = s.bul.fleetId.toNat ∧ s.bul.fleetId ≠ 0 ∧ segKind b = 4 ∧ s.bulCtr 4 < segSeq b ∧ s.bul.bufOf 4 (segSeq b) = some i ∧ s.bul.reasm[i] = some r ∧ r.total = segTotal b ∧ (r.join (segOffset b) (slice b 24 (segLen b)) (segTransport o.runner).1).full = true ∧ m = (r.join (segOffset b) (slice b 24 (segLen b)) (segTransport o.runner).1).bytes ∧ s.bul.place m.length = some k) :=
  ⟨⟨running, segObs [], by decide +kernel⟩, ⟨bulOn id, segObs (zeros 27), zeros 27, by decide +kernel⟩, ⟨bulOn (fun b => { b with ctr := #v[0, 0, 0, 7] }), segObs (lastSeg 4 7), lastSeg 4 7, by decide +kernel, groupOf_seg _ (by rfl) (by rfl) (by rfl), by decide +kernel⟩, ⟨bulOn (fun b => { b with reasm := #v[some (reasmOf []), none] }), segObs (lastSeg 4 7), lastSeg 4 7, 0, reasmOf [], by decide +kernel, groupOf_seg _ (by rfl) (by rfl) (by rfl), lastSeg_ok 4 7 _ (by decide), by decide +kernel⟩, ⟨bulOn (fun b => { b with reasm := #v[some (reasmOf []), none] }), segObs (lastSeg 1 7), lastSeg 1 7, 1, by decide +kernel, groupOf_seg _ (by rfl) (by rfl) (by rfl), lastSeg_ok 1 7 _ (by decide), by decide +kernel⟩, ⟨bulOn (fun b => { b with reasm := #v[some (reasmOf (List.range 36)), none] }), segObs (lastSeg 4 7), lastSeg 4 7, 0, reasmOf (List.range 36), zeros 59, 0, by decide +kernel, groupOf_seg _ (by rfl) (by rfl) (by rfl), lastSeg_ok 4 7 _ (by decide), by decide +kernel⟩⟩

/-- The hypotheses of SegmentsBecomeBulletins can be met. -/
theorem witness_SegmentsBecomeBulletins_2 : (∃ (s : State) (b : Fin 2) (r : Reasm), s.bul.reasm[b] = some r ∧ 86400000000 ≤ (s.sys.timeUs - r.first).toNat) ∧ (∃ (s : State) (r : Fin 128), s.bul.store[r].st ≠ 0 ∧ s.bul.store[r].pending = true ∧ s.bul.store[r].kind = 2 ∧ s.bul.wakeMask.getLsbD (s.bul.store[r].kind.toNat - 1) = false) ∧ (∃ (s : State) (r : Fin 128), s.bul.store[r].st ≠ 0 ∧ s.bul.store[r].pending = true ∧ s.bul.store[r].kind = 4 ∧ s.bul.wakeMask.getLsbD (s.bul.store[r].kind.toNat - 1) = true ∧ (bulRules s.bul.store[r].bytes).getLsbD 0 = true ∧ s.bul.store[r].wakeRaised = false ∧ s.pwr.st = .run) ∧ (∃ (s : State), s.pwr.st = .watch ∧ s.bul.watchEn = true ∧ s.bul.winStep = 0 ∧ s.pwr.waking = none) ∧ (∃ (s : State), s.bul.winStep = 1) ∧ (∃ (s : State) (win : Fin 64), s.bul.winStep = 2 ∧ s.pwr.level = 2 ∧ s.pwr.st = .watch ∧ s.windowSecond = true ∧ s.win.win[win].st = 0 ∧ (∀ w : Fin 64, w < win → s.win.win[w].st ≠ 0) ∧ (s.openWin win s.watchReq).isSome = true) :=
  ⟨⟨{ bulOn (fun b => { b with reasm := #v[some (reasmOf []), none] }) with sys := { running.sys with timeUs := 86400000000 } }, 0, reasmOf [], by decide +kernel⟩, ⟨(bulOn fun b => { b with wakeMask := 0 }).modBul 0 (fun x => { x with st := 1, pending := true, kind := 2 }), 0, by decide +kernel⟩, ⟨(bulOn id).modBul 0 (fun x => { x with st := 1, pending := true, kind := 4, bytes := [1, 4, 5] }), 0, by decide +kernel⟩, ⟨watching 0, by decide +kernel⟩, ⟨watching 1, by decide +kernel⟩, ⟨watching 2, 0, by decide +kernel⟩⟩

/-- The hypotheses of SegmentsBecomeBulletins can be met. -/
theorem witness_SegmentsBecomeBulletins_3 : ∃ (s : State), s.bul.winStep = 3 ∧ s.pwr.st = .watch ∧ s.pwr.waking = none :=
  ⟨watching 3, by decide +kernel⟩

/-- The hypotheses of AudioCommandsComplete can be met. -/
theorem witness_AudioCommandsComplete : (∃ (s : State) (c : CmdEntry) (n : Fin 4), s.takes 0x0501 c = true ∧ c.u8 24 = n.val ∧ c.u8 25 = 16 ∧ c.u8 26 ≤ 2 ∧ c.u8 27 = 0x1F ∧ s.clkSrcOk n (c.u8 28) = true ∧ c.bytes 29 3 = [0, 0, 0] ∧ c.u16 32 < 2 ^ c.u8 25 ∧ c.u16 34 < 2 ^ c.u8 25 ∧ s.aud.ports[n].st = 0 ∧ (∀ j : Fin 4, s.aud.ports[j].clksrc = n → s.aud.ports[j].st = 0)) ∧ (∃ (s : State) (c : CmdEntry) (n : Fin 4), s.takes 0x0501 c = true ∧ c.u8 24 = n.val ∧ c.u8 25 = 1 ∧ c.u8 26 ≤ 2 ∧ c.u8 27 = 0 ∧ s.clkSrcOk n (c.u8 28) = true ∧ c.bytes 29 3 = [0, 0, 0] ∧ 2 ^ c.u8 25 ≤ c.u16 32) ∧ (∃ (s : State) (c : CmdEntry) (n : Fin 4), s.takes 0x0502 c = true ∧ c.u8 24 = n.val ∧ c.bytes 25 3 = [0, 0, 0] ∧ (∀ i : Nat, i < 16 → c.u8 (28 + i) ≤ 0x47 ∨ c.u8 (28 + i) = 0x80 ∨ c.u8 (28 + i) = 0xFF) ∧ s.aud.ports[n].st = 3) ∧ (∃ (s : State) (c : CmdEntry) (n : Fin 4), s.takes 0x0503 c = true ∧ c.u8 24 = n.val ∧ c.u8 25 = 3 ∧ c.bytes 26 2 = [0, 0] ∧ c.u16 28 < 2 ^ s.aud.ports[n].slots ∧ c.u16 30 < 2 ^ s.aud.ports[n].slots ∧ s.aud.ports[n].st = 3) ∧ (∃ (s : State) (c : CmdEntry) (n : Fin 4), s.takes 0x0503 c = true ∧ c.u8 24 = n.val ∧ c.u8 25 = 1 ∧ c.bytes 26 2 = [0, 0] ∧ 2 ^ s.aud.ports[n].slots ≤ c.u16 28) ∧ (∃ (s : State) (c : CmdEntry) (n : Fin 4), s.takes 0x0504 c = true ∧ c.u8 24 = n.val ∧ c.u8 25 = 2 ∧ c.u8 26 = 63 ∧ c.u8 27 = 0 ∧ s.aud.ports[n].st = 0) :=
  ⟨⟨running, cmd [3, 16, 2, 0x1F, 3, 0, 0, 0, 0xFF, 0xFF, 0, 0], 3, by decide +kernel⟩, ⟨running, cmd [0, 1, 0, 0, 0, 0, 0, 0, 2, 0, 0, 0], 0, by decide +kernel⟩, ⟨portOn 3 15 5, cmd ([1, 0, 0, 0] ++ [6, 7, 0, 1] ++ List.replicate 12 0xFF), 1, by decide +kernel⟩, ⟨portOn 3 15 5, cmd [1, 3, 0, 0, 0xFF, 0, 0xFF, 0], 1, by decide +kernel⟩, ⟨portOn 3 15 5, cmd [1, 1, 0, 0, 0, 1, 0, 0], 1, by decide +kernel⟩, ⟨running, cmd [0, 2, 63, 0], 0, by decide +kernel⟩⟩

/-- The hypotheses of AudioCommandsComplete can be met. -/
theorem witness_AudioCommandsComplete_2 : (∃ (s : State) (c : CmdEntry) (n : Fin 4), s.takes 0x0504 c = true ∧ c.u8 24 = n.val ∧ c.u8 25 = 0 ∧ c.u8 26 ≤ 63 ∧ c.u8 27 = 0 ∧ s.aud.ports[n].st = 0) ∧ (∃ (s : State) (c : CmdEntry) (q : Fin 12), s.takes 0x0505 c = true ∧ c.u8 24 = q.val ∧ isQueue q.val = true ∧ c.u8 25 = 1 ∧ c.u8 26 = 63 ∧ c.u8 27 ≤ 63 ∧ c.u8 27 ≠ c.u8 26 ∧ c.u16 28 = 96 ∧ c.u8 30 = 8 ∧ c.u8 31 = 5 ∧ 96 * c.u8 31 + c.u16 28 ≤ c.u8 30 * c.u16 28 ∧ c.bytes 32 4 = [0, 0, 0, 0] ∧ s.queueBusy q = false ∧ (gpLowest (s.dma.gp.filter fun e : GpAlloc => decide (e.owner ≠ GpOwner.queue q)) (c.u8 30 * (16 + (if q.val = 4 then 32 else 64) * c.u16 28))).isSome = true) ∧ (∃ (s : State) (c : CmdEntry) (q : Fin 12), s.takes 0x0505 c = true ∧ c.u8 24 = q.val ∧ isQueue q.val = true ∧ c.u8 25 = 1 ∧ c.u8 26 ≤ 63 ∧ c.u8 27 ≤ 63 ∧ c.u8 27 ≠ c.u8 26 ∧ c.u16 28 = 96 ∧ c.u8 30 = 5 ∧ c.u8 31 = 5 ∧ c.u8 30 * c.u16 28 < 96 * c.u8 31 + c.u16 28 ∧ c.bytes 32 4 = [0, 0, 0, 0]) ∧ (∃ (s : State) (c : CmdEntry) (q : Fin 12), s.takes 0x0505 c = true ∧ c.u8 24 = q.val ∧ isQueue q.val = true ∧ c.u8 25 = 0 ∧ c.bytes 32 4 = [0, 0, 0, 0] ∧ s.queueBusy q = false) ∧ (∃ (s : State) (c : CmdEntry), s.takes 0x0506 c = true ∧ c.u8 25 = 4 ∧ c.u8 26 / 2 % 8 = 0 ∧ c.u8 27 = 0 ∧ c.u8 28 = 1 ∧ c.bytes 29 3 = [0, 0, 0] ∧ s.aud.queues[4].en = true) ∧ ∃ (s : State) (c : CmdEntry) (k : Fin 32), s.takes 0x0507 c = true ∧ c.u8 24 = k.val ∧ c.u8 25 = 40 ∧ c.bytes 26 2 = [0, 0] ∧ s.streamHeld k = false ∧ playoutPages (c.u8 25) ≤ s.aud.poolFree + playoutPages s.aud.streams[k].fade :=
  ⟨⟨running, cmd [0, 0, 0, 0], 0, by decide +kernel⟩, ⟨running, cmd [1, 1, 63, 0, 96, 0, 8, 5, 0, 0, 0, 0], 1, by decide +kernel⟩, ⟨running, cmd [1, 1, 63, 0, 96, 0, 5, 5, 0, 0, 0, 0], 1, by decide +kernel⟩, ⟨running, cmd [11, 0, 0, 0, 0, 0, 0, 0, 0, 0, 0, 0], 11, by decide +kernel⟩, ⟨queueOn 4 .playing 0 running, cmd [255, 4, 1, 0, 1, 0, 0, 0], by decide +kernel⟩, ⟨running, cmd [31, 40, 0, 0], 31, by decide +kernel⟩⟩

/-- The hypotheses of AudioFramesMove can be met. -/
theorem witness_AudioFramesMove : (∃ (s : State), (∀ n : Fin 4, s.aud.ports[n].st = 0 ∧ s.aud.ports[n].nextMasks = [] ∧ s.aud.ports[n].nextMap = [] ∧ s.aud.ports[n].starting = false ∧ s.aud.ports[n].stopping = false) ∧ s.aud.pdmNext = [] ∧ s.aud.pdmEn = 0) ∧ (∃ (t : Stream), t.st = .fadingOut ∧ 48 * t.fade ≤ t.fadePos + 1) ∧ (∃ (s : State) (n : Fin 4) (g : Fin 5) (k : Fin 32), s.aud.ports[n].st = 3 ∧ s.aud.ports[n].nextMasks = [] ∧ s.aud.ports[n].nextMap = [] ∧ s.aud.ports[n].stopping = false ∧ s.aud.ports[n].starting = false ∧ s.aud.ports[n].clksrc.val = g.val ∧ s.aud.groups[g].qualified = true ∧ s.aud.pdmNext = [] ∧ s.aud.pdmEn = 0 ∧ s.aud.queues[(Fin.ofNat 12 (8 + n.val) : Fin 12)].en = false ∧ s.aud.ports[n].ramp = none ∧ s.aud.queues[n.castLE (by decide : 4 ≤ 12)].en = false ∧ (∀ m : Fin 4, m ≠ n → s.aud.ports[m].st = 0 ∧ s.aud.ports[m].nextMasks = [] ∧ s.aud.ports[m].nextMap = [] ∧ s.aud.ports[m].starting = false ∧ s.aud.ports[m].stopping = false) ∧ s.aud.ports[n].tx.getLsbD 0 = true ∧ s.aud.streams[k].st = .playing ∧ s.aud.streams[k].frames.length = 2 ∧ s.aud.ports[n].slotmap.getD 0 0xFF = byte (2 * k.val) ∧ s.aud.groups[g].line.length = 2) ∧ (∃ (s : State) (n : Fin 4) (g : Fin 5) (o : AudFrameObs) (x : ExtFrame) (w : List (Option W)) (r : List TxFrame) (e : LineFrame) (l : List LineFrame), s.aud.ports[n].st = 3 ∧ s.aud.ports[n].nextMasks = [] ∧ s.aud.ports[n].nextMap = [] ∧ s.aud.ports[n].stopping = false ∧ s.aud.ports[n].starting = false ∧ s.aud.ports[n].clksrc.val = g.val ∧ s.aud.groups[g].qualified = true ∧ s.aud.pdmNext = [] ∧ s.aud.pdmEn = 0 ∧ s.aud.queues[(Fin.ofNat 12 (8 + n.val) : Fin 12)].en = false ∧ n.val = g.val ∧ (∀ m : Fin 4, m ≠ n → s.aud.ports[m].st = 0 ∧ s.aud.ports[m].nextMasks = [] ∧ s.aud.ports[m].nextMap = [] ∧ s.aud.ports[m].starting = false ∧ s.aud.ports[m].stopping = false) ∧ o.ports.getD n.val [] = [x] ∧ s.aud.groups[g].txFifo = [(n, w)] :: r ∧ s.aud.groups[g].line = e :: l ∧ r.length ≤ 13) ∧ (∃ (s : State) (n : Fin 4) (g : Fin 5) (q : Fin 12) (x : Queue) (e : LineFrame) (l : List LineFrame) (w : List W), q.val = n.val ∧ s.aud.ports[n].st = 3 ∧ s.aud.ports[n].nextMasks = [] ∧ s.aud.ports[n].nextMap = [] ∧ s.aud.ports[n].stopping = false ∧ s.aud.ports[n].starting = false ∧ s.aud.ports[n].clksrc.val = g.val ∧ s.aud.groups[g].qualified = true ∧ s.aud.pdmNext = [] ∧ s.aud.pdmEn = 0 ∧ s.aud.queues[(Fin.ofNat 12 (8 + n.val) : Fin 12)].en = false ∧ (∀ m : Fin 4, m ≠ n → s.aud.ports[m].st = 0 ∧ s.aud.ports[m].nextMasks = [] ∧ s.aud.ports[m].nextMap = [] ∧ s.aud.ports[m].starting = false ∧ s.aud.ports[m].stopping = false) ∧ s.clk.lossInRun = false ∧ s.aud.groups[g].line = e :: l ∧ e.rx = [(q, x.mask, w)] ∧ x = s.aud.queues[q] ∧ x.en = true ∧ x.st = .playing ∧ x.blocks ≠ 0 ∧ x.pos + 1 < x.p ∧ s.aud.groups[g].slipNow = none) ∧ (∃ (x : Group) (a b : List LineFrame) (e : LineFrame), x.qualified = true ∧ x.slip = none ∧ x.slipNow = none ∧ x.line = a ++ e :: b ∧ (∀ y ∈ a, e.energy < y.energy) ∧ (∀ y ∈ b, e.energy ≤ y.energy) ∧ x.txFifo.length = 11 ∧ a.length = 1 ∧ b.length = 1) :=
  ⟨⟨running, by decide +kernel⟩, ⟨{ st := .fadingOut, fadePos := 239 }, by decide⟩, ⟨((streamOn .playing 2 (portOn 3 15 0)).modPort 1 (fun p => { p with slotmap := [6, 7] })).modGroup 1 (fun x => { x with line := [lineFrame, lineFrame] }), 1, 1, 3, by decide +kernel⟩, ⟨lineOn none, 1, 1, ⟨[[], [⟨256, [1, 2, 3]⟩], [], []], []⟩, ⟨256, [1, 2, 3]⟩, [some 7], List.replicate 7 [(1, [some 7])], lineFrame, [lineFrame], by decide +kernel⟩, ⟨lineOn none, 1, 1, 1, (lineOn none).aud.queues[(1 : Fin 12)], lineFrame, [lineFrame], [5, 6], by decide +kernel⟩, ⟨{ qualified := true, txFifo := List.replicate 11 [], line := [{ lineFrame with energy := 10 }, lineFrame, lineFrame] }, [{ lineFrame with energy := 10 }], [lineFrame], lineFrame, by decide +kernel⟩⟩

/-- The hypotheses of AudioFramesMove can be met. -/
theorem witness_AudioFramesMove_2 : (∃ (s : State) (g : Fin 5) (b : Bool) (i : W), s.aud.groups[g].slip = some (b, i) ∧ s.aud.groups[g].line.head?.map LineFrame.n = some i) :=
  ⟨(lineOn none).modGroup 1 (fun g => { g with slip := some (true, 479) }), 1, true, 479, by decide +kernel⟩

/-- The hypotheses of AudioClocksFadesAndPulses can be met. -/
theorem witness_AudioClocksFadesAndPulses : (∃ (s : State) (g : Fin 5) (n : Fin 4), g.val < 4 ∧ s.aud.groups[g].qualified = false ∧ s.aud.ports[n].clksrc.val = g.val ∧ 2 ≤ s.aud.ports[n].st.toNat ∧ (∀ j : Fin 4, s.aud.ports[j].clksrc.val = g.val → 2 ≤ s.aud.ports[j].st.toNat → 32 ≤ s.aud.ports[j].good) ∧ s.aud.ports[n].st = 4) ∧ (∃ s : State, s.aud.groups[(4 : Fin 5)].qualified = false ∧ 32 ≤ s.aud.pdmGood) ∧ (∃ (s : State) (g : Fin 5) (n : Fin 4), s.aud.groups[g].qualified = true ∧ g.val < 4 ∧ s.aud.ports[n].clksrc.val = g.val ∧ s.aud.ports[n].st = 3 ∧ 3 ≤ s.aud.ports[n].wrong ∧ 2 ≤ s.aud.groups[g].quiet) ∧ (∃ s : State, s.aud.groups[(4 : Fin 5)].qualified = true ∧ 2 ≤ s.aud.groups[(4 : Fin 5)].quiet) ∧ (∃ (s : State) (k : Fin 32), s.aud.streams[k].st = .playing ∧ s.aud.streams[k].frames.length = 48 * s.aud.streams[k].fade) ∧ (∃ (s : State) (k : Fin 32), s.aud.streams[k].st = .silent ∧ 48 * (s.aud.streams[k].fade + 2) = s.aud.streams[k].frames.length) :=
  ⟨⟨((portOn 4 0 0).modPort 1 fun p => { p with good := 32 }).modGroup 1 fun g => { g with qualified := false }, 1, 1, by decide +kernel⟩, ⟨{ running with aud := { running.aud with pdmGood := 32 } }, by decide +kernel⟩, ⟨((portOn 3 15 5).modPort 1 (fun p => { p with wrong := 3 })).modGroup 1 (fun g => { g with quiet := 2 }), 1, 1, by decide +kernel⟩, ⟨running.modGroup 4 (fun g => { g with qualified := true, quiet := 2 }), by decide +kernel⟩, ⟨streamOn .playing 240 running, 3, by decide +kernel⟩, ⟨streamOn .silent 336 running, 3, by decide +kernel⟩⟩

/-- The hypotheses of AudioClocksFadesAndPulses can be met. -/
theorem witness_AudioClocksFadesAndPulses_2 : (∃ (s : State) (k : Fin 32), s.aud.streams[k].st = .fadingOut ∧ s.aud.streams[k].closing = false ∧ 48 * (s.aud.streams[k].fade + 2) = s.aud.streams[k].frames.length) ∧ (∃ (s : State) (q : Fin 12), s.aud.queues[q].en = true ∧ s.aud.queues[q].st = .playing ∧ s.queueFrames q ≤ 48 * s.aud.queues[q].fade ∧ s.aud.queues[q].blocks ≠ 0) ∧ (∃ (s : State) (q : Fin 12), s.aud.queues[q].en = true ∧ s.aud.queues[q].st = .rampingUp ∧ s.queueFrames q ≤ 48 * s.aud.queues[q].fade ∧ s.aud.queues[q].blocks ≠ 0) ∧ (∃ (s : State) (q : Fin 12), s.aud.queues[q].en = true ∧ s.aud.queues[q].st = .silent ∧ s.aud.queues[q].b * s.aud.queues[q].p = 2 * s.queueFrames q) ∧ (∃ (s : State) (q : Fin 12), s.aud.queues[q].en = true ∧ s.aud.queues[q].st = .fadingOut ∧ s.aud.queues[q].b * s.aud.queues[q].p ≤ 2 * s.queueFrames q ∧ s.aud.queues[q].discarded = 0) ∧ (∃ (s : State) (k : Fin 32), s.aud.streams[k].st = .rampingUp ∧ 48 * s.aud.streams[k].fade = s.aud.streams[k].fadePos) :=
  ⟨⟨streamOn .fadingOut 336 running, 3, by decide +kernel⟩, ⟨queueOn 1 .playing 2 running, 1, by decide +kernel⟩, ⟨queueOn 1 .rampingUp 2 running, 1, by decide +kernel⟩, ⟨queueOn 1 .silent 4 running, 1, by decide +kernel⟩, ⟨queueOn 1 .fadingOut 4 running, 1, by decide +kernel⟩, ⟨(streamOn .rampingUp 1 running).modStream 3 (fun t => { t with fadePos := 240 }), 3, by decide +kernel⟩⟩

/-- The hypotheses of AudioClocksFadesAndPulses can be met. -/
theorem witness_AudioClocksFadesAndPulses_3 : (∃ (s : State) (q : Fin 12), s.aud.queues[q].st = .rampingUp ∧ 48 * s.aud.queues[q].fade = s.aud.queues[q].fadePos) ∧ (∃ (s : State) (q : Fin 12), s.aud.queues[q].en = true ∧ s.aud.queues[q].blocks = s.aud.queues[q].b) ∧ (∃ (s : State) (n : Fin 4), s.aud.ports[n].st = 1) ∧ (∃ (s : State) (m : Fin 8), s.aud.pdmEn.getLsbD m.val = true ∧ s.aud.pdmStuck.getLsbD m.val = false ∧ 3072 ≤ s.aud.mics[m].run) ∧ ∃ (s : State) (m : Fin 8), s.aud.pdmStuck.getLsbD m.val = true ∧ s.aud.mics[m].run < 3072 :=
  ⟨⟨(queueOn 8 .rampingUp 1 running).modQueue 8 (fun t => { t with fadePos := 240 }), 8, by decide +kernel⟩, ⟨queueOn 1 .playing 8 running, 1, by decide +kernel⟩, ⟨portOn 1 0 0, 1, by decide +kernel⟩, ⟨{ running with aud := { running.aud with pdmEn := 255, mics := Vector.replicate 8 { run := 3072 } } }, 7, by decide +kernel⟩, ⟨{ running with aud := { running.aud with pdmStuck := 255 } }, 0, by decide +kernel⟩⟩

/-- The hypotheses of ReceiverCommandsAndWindows can be met. -/
theorem witness_ReceiverCommandsAndWindows : (∃ (s : State) (c : CmdEntry), s.takes 0x0701 c = true ∧ c.u8 24 = 4 ∧ c.u8 25 = 15 ∧ c.u8 26 = 3 ∧ c.u8 27 = 0xFF ∧ c.bytes 28 4 = [0, 0, 0, 0]) ∧ (∃ (s : State) (c : CmdEntry), s.takes 0x0701 c = true ∧ 4 < c.u8 24 ∧ c.u8 24 ≠ 0xFF) ∧ (∃ (s : State) (c : CmdEntry), s.takes 0x0702 c = true ∧ c.bytes 24 4 = [0, 0, 0, 0]) ∧ (∃ (s : State) (c : CmdEntry), s.takes 0x0702 c = true ∧ c.bytes 24 4 = [1, 0, 0, 0]) ∧ (∃ (s : State) (c : CmdEntry), s.takes 0x0703 c = true ∧ c.u8 24 = 1 ∧ c.u8 25 = 7 ∧ c.u8 26 ≤ 1 ∧ c.u8 27 = 3 ∧ c.u16 28 = 10000 ∧ c.u16 30 = 200 ∧ c.u8 32 = 1 ∧ c.bytes 33 3 = [0, 0, 0]) ∧ (∃ (s : State) (c : CmdEntry), s.takes 0x0703 c = true ∧ c.u8 24 = 1 ∧ c.u8 25 = 7 ∧ c.u8 26 ≤ 1 ∧ c.u8 27 = 3 ∧ c.u16 28 = 1999 ∧ c.u16 30 = 200 ∧ c.u8 32 = 1 ∧ c.bytes 33 3 = [0, 0, 0]) :=
  ⟨⟨running, cmd [4, 15, 3, 255, 0, 0, 0, 0], by decide⟩, ⟨running, cmd [5, 15, 3, 255, 0, 0, 0, 0], by decide⟩, ⟨running, cmdOut [0, 0, 0, 0] 64, by decide⟩, ⟨running, cmdOut [1, 0, 0, 0] 64, by decide⟩, ⟨running, cmd [1, 7, 0, 3, 16, 39, 200, 0, 1, 0, 0, 0], by decide⟩, ⟨running, cmd [1, 7, 0, 3, 0xCF, 7, 200, 0, 1, 0, 0, 0], by decide⟩⟩

/-- The hypotheses of ReceiverCommandsAndWindows can be met. -/
theorem witness_ReceiverCommandsAndWindows_2 : (∃ (s : State) (b : Byte), s.acc.synthSt = 2 ∧ s.acc.synthCh.val = rfChannel b.toNat ∧ s.acc.synth[s.acc.synthCh].excluded = false) ∧ (∃ (s : State), s.acc.rxOpen = true ∧ s.acc.cur = none) ∧ (∃ (s : State), s.acc.rxOpen = true ∧ s.acc.cur.isSome = true) ∧ (∃ (s : State), s.acc.listenEn = true ∧ s.acc.listenCh = 7 ∧ (∀ k : Fin 81, s.acc.synth[k].excluded = false) ∧ s.pwr.st = .run ∧ s.acc.inRun = true ∧ s.acc.hostScan = false ∧ s.acc.listenAt.all (fun x => decide (1000 * s.acc.listenPeriod ≤ (s.sys.timeUs - x).toNat)) = true) ∧ ∃ (s : State), s.pwr.st = .run ∧ s.acc.hostScan = true :=
  ⟨⟨{ running with acc := { running.acc with synthSt := 2, synthCh := 80 } }, 39, by decide +kernel⟩, ⟨receiving none none, by decide +kernel⟩, ⟨receiving (some (rxPacket .primaryAdv true)) none, by decide +kernel⟩, ⟨{ running with acc := { running.acc with listenEn := true, listenAt := some 0 }, sys := { running.sys with timeUs := 600000 } }, by decide +kernel⟩, ⟨{ running with acc := { running.acc with hostScan := true } }, by decide +kernel⟩⟩

/-- The hypotheses of PacketsAreChosenAndReported can be met. -/
theorem witness_PacketsAreChosenAndReported : (∃ (s : State) (o : SyncObs) (a : W), s.expectedAa o.phys = some a ∧ s.acc.rxOpen = true ∧ s.acc.rxNow.syncErr + 1 = SyncObs.aaErrors o a) ∧ (∃ (s : State) (o : SyncObs) (a : W), s.acc.rxOpen = true ∧ s.acc.rxClosed = false ∧ s.acc.cur = none ∧ s.expectedAa o.phys = some a ∧ SyncObs.aaErrors o a ≤ s.acc.rxNow.syncErr ∧ SyncObs.preErrors o a ≤ 1) ∧ (∃ (s : State) (o : SyncObs) (p : RxPacket) (a : W), s.acc.rxOpen = true ∧ s.acc.rxClosed = false ∧ s.acc.cur = some p ∧ s.expectedAa o.phys = some a ∧ SyncObs.aaErrors o a ≤ s.acc.rxNow.syncErr ∧ SyncObs.preErrors o a ≤ 1 ∧ SyncObs.late o p = false ∧ s.acc.rxNow.captures p.phys = true ∧ p.power < o.power ∧ 10 ^ s.acc.rxNow.capMargin * p.power ^ 10 ≤ (o.power - p.power) ^ 10) ∧ (∃ (s : State) (o : SyncObs) (p : RxPacket) (a : W), s.acc.rxOpen = true ∧ s.acc.rxClosed = false ∧ s.acc.cur = some p ∧ s.expectedAa o.phys = some a ∧ SyncObs.aaErrors o a ≤ s.acc.rxNow.syncErr ∧ SyncObs.preErrors o a ≤ 1 ∧ SyncObs.late o p = false ∧ (o.power - p.power) ^ 10 < 10 ^ s.acc.rxNow.capMargin * p.power ^ 10 ∧ p.headerOk = false ∧ s.acc.heldSync = none ∧ p.power < o.power) ∧ (∃ (s : State) (d : HdrObs) (p : RxPacket), s.acc.cur = some p ∧ p.headerOk = false ∧ s.headerPasses p d = true ∧ d.length = 37) ∧ (∃ (s : State) (d : HdrObs) (p : RxPacket) (h : RxPacket), s.acc.cur = some p ∧ p.headerOk = false ∧ s.headerPasses p d = false ∧ d.length = 38 ∧ s.acc.heldSync = some h) :=
  ⟨⟨receiving none none, { syncAt 100 with bits := 0x8E89BED5 }, 0x8E89BED6, by decide +kernel⟩, ⟨receiving none none, { syncAt 100 with bits := 0x8E89BED4, pre := 0xA800 }, 0x8E89BED6, by decide +kernel⟩, ⟨receiving (some (rxPacket .primaryAdv true)) none, syncAt 500, rxPacket .primaryAdv true, 0x8E89BED6, by decide +kernel⟩, ⟨receiving (some (rxPacket .primaryAdv false)) none, syncAt 498, rxPacket .primaryAdv false, 0x8E89BED6, by decide +kernel⟩, ⟨receiving (some (rxPacket .primaryAdv false)) none, advHeader 37, rxPacket .primaryAdv false, by decide +kernel⟩, ⟨receiving (some (rxPacket .primaryAdv false)) (some (rxPacket .primaryAdv false)), advHeader 38, rxPacket .primaryAdv false, rxPacket .primaryAdv false, by decide +kernel⟩⟩

/-- The hypotheses of PacketsAreChosenAndReported can be met. -/
theorem witness_PacketsAreChosenAndReported_2 : (∃ (s : State) (e : PktEndObs) (p : RxPacket), s.acc.cur = some p ∧ p.headerOk = true ∧ p.phys = .secondaryAdv ∧ s.acc.rxNow.report = 0 ∧ e.hci = [] ∧ e.opened = none ∧ e.closed = none ∧ s.acc.rxClosed = false) ∧ (∃ (s : State) (e : PktEndObs) (p : RxPacket), s.acc.cur = some p ∧ p.headerOk = true ∧ p.phys = .data 3 ∧ s.acc.rxNow.report = 0 ∧ e.hci = [] ∧ e.opened = none ∧ e.closed = none ∧ e.link = none ∧ s.acc.rxClosed = false ∧ e.crcOk = true) ∧ (∃ (s : State) (e : PktEndObs) (p : RxPacket) (k : BitVec 16) (a : W), s.acc.cur = some p ∧ p.headerOk = true ∧ p.phys = .secondaryAdv ∧ s.acc.rxNow.report = 0 ∧ e.hci = [] ∧ e.opened = some (k, a, none) ∧ e.closed = none ∧ e.crcOk = true ∧ s.acc.conns.length = 7) ∧ (∃ (s : State) (e : PktEndObs) (p : RxPacket), s.acc.cur = some p ∧ p.headerOk = true ∧ p.phys = .secondaryAdv ∧ s.acc.rxNow.report.getLsbD 1 = true ∧ e.hci = [] ∧ e.crcOk = false) ∧ (∃ (s : State) (e : PktEndObs) (p : RxPacket), s.acc.cur = some p ∧ p.headerOk = true ∧ p.phys = .primaryAdv ∧ s.acc.rxNow.report = 0 ∧ e.hci = [] ∧ e.opened = none ∧ e.closed = none ∧ e.crcOk = true ∧ s.slotByIrk e = none ∧ s.acc.listening = true ∧ s.acc.filterNow.getLsbD 1 = true ∧ s.acc.acceptList.contains e.addr = true ∧ s.cred.flow = none ∧ s.cred.flowWaits = none ∧ s.acc.conns = [] ∧ s.acc.hostCs = false ∧ s.pwr.st = .run) ∧ ∃ (s : State) (e : PktEndObs) (p : RxPacket), s.acc.cur = some p ∧ p.headerOk = true ∧ p.phys = .primaryAdv ∧ s.acc.rxNow.report = 0 ∧ e.hci = [] ∧ e.opened = none ∧ e.closed = none ∧ e.crcOk = true ∧ s.slotByIrk e = none ∧ s.acc.listening = true ∧ s.acc.filterNow.getLsbD 1 = true ∧ s.acc.acceptList.contains e.addr = true ∧ s.cred.flow = none ∧ s.cred.flowWaits = none ∧ s.acc.conns = [] ∧ s.acc.hostCs = false ∧ s.pwr.st = .watch ∧ s.saf.safe = false ∧ s.pwr.waking = none ∧ s.pwr.pmicWait = none :=
  ⟨⟨receiving (some (rxPacket .secondaryAdv true)) none, pktFrom (0, []), rxPacket .secondaryAdv true, by decide +kernel⟩, ⟨receiving (some (rxPacket (.data 3) true)) none, pktFrom (0, []), rxPacket (.data 3) true, by decide +kernel⟩, ⟨{ receiving (some (rxPacket .secondaryAdv true)) none with acc := { (receiving (some (rxPacket .secondaryAdv true)) none).acc with conns := List.replicate 7 { handle := 3, slot := none, rssi := [], aa := 7 } } }, { pktFrom (0, []) with opened := some (5, 9, none) }, rxPacket .secondaryAdv true, 5, 9, by decide +kernel⟩, ⟨{ receiving (some (rxPacket .secondaryAdv true)) none with acc := { (receiving (some (rxPacket .secondaryAdv true)) none).acc with rxNow := { report := 2 } } }, { pktFrom (0, []) with crcOk := false }, rxPacket .secondaryAdv true, by decide +kernel⟩, ⟨listeningOn false, pktFrom (0, [1, 2, 3, 4, 5, 6]), rxPacket .primaryAdv true, by decide +kernel⟩, ⟨listeningOn true, pktFrom (0, [1, 2, 3, 4, 5, 6]), rxPacket .primaryAdv true, by decide +kernel⟩⟩

/-- The hypotheses of FrontEndCommandsComplete can be met. -/
theorem witness_FrontEndCommandsComplete : (∃ (s : State) (c : CmdEntry) (ch : Fin 81) (m : Fin 4), s.takes 0x0710 c = true ∧ c.u8 24 = ch.val ∧ ch.val = 80 ∧ c.u8 25 = 2 ∧ c.u8 27 = m.val ∧ m.val = 3 ∧ s.driver (toSigned 1 (c.u8 26)) m = 12 ∧ c.u16 28 = 1 ∧ c.bytes 32 4 = [0, 0, 0, 0] ∧ s.below 1 = false ∧ s.onFio = false ∧ s.radioBusy = false ∧ s.acc.synth[ch].excluded = false ∧ s.lockedOn ch = false ∧ c.u16 30 ≠ 0) ∧ (∃ (s : State) (c : CmdEntry) (ch : Fin 81) (m : Fin 4), s.takes 0x0710 c = true ∧ c.u8 24 = ch.val ∧ c.u8 25 = 1 ∧ c.u8 27 = m.val ∧ s.driver (toSigned 1 (c.u8 26)) m ≤ 12 ∧ c.u16 28 = 1 ∧ c.bytes 32 4 = [0, 0, 0, 0] ∧ s.below 1 = false ∧ s.onFio = false ∧ s.radioBusy = false ∧ s.acc.synth[ch].excluded = false ∧ s.lockedOn ch = true ∧ pageValid s.acc.regPage = false) ∧ (∃ (s : State) (c : CmdEntry) (ch : Fin 81) (m : Fin 4), s.takes 0x0710 c = true ∧ c.u8 24 = ch.val ∧ c.u8 25 = 1 ∧ c.u8 27 = m.val ∧ s.driver (toSigned 1 (c.u8 26)) m ≤ 12 ∧ c.u16 28 = 1 ∧ c.bytes 32 4 = [0, 0, 0, 0] ∧ s.below 1 = false ∧ s.onFio = false ∧ s.radioBusy = true) ∧ (∃ (s : State) (c : CmdEntry) (ch : Fin 81) (m : Fin 4), s.takes 0x0710 c = true ∧ c.u8 24 = ch.val ∧ c.u8 25 ≤ 2 ∧ c.u8 27 = m.val ∧ s.driver (toSigned 1 (c.u8 26)) m = 13) ∧ (∃ (s : State) (ch : Fin 81), pageValid s.acc.regPage = true ∧ s.acc.synth[ch].excluded = false ∧ (slice s.acc.regPage (12 + ch.val / 8) 1) = [0xFF] ∧ 40 ≤ toSigned 1 (s.acc.regPage.getD (24 + ch.val) 0).toNat ∧ slice s.acc.regPage 8 4 = [0xE8, 3, 0xE8, 3] ∧ s.acc.airLog = []) ∧ (∃ (s : State) (t : AccTxRun), s.acc.accTx = some t ∧ t.locked = false ∧ t.due.toNat = s.sys.timeUs.toNat) :=
  ⟨⟨running, cmd [80, 2, 12, 3, 1, 0, 100, 0, 0, 0, 0, 0], 80, 3, by decide +kernel⟩, ⟨synthOn (zeros 128) 5, cmd [5, 1, 0, 0, 1, 0, 0, 0, 0, 0, 0, 0], 5, 0, by decide +kernel⟩, ⟨{ running with acc := { running.acc with hostScan := true } }, cmd [5, 1, 0, 0, 1, 0, 0, 0, 0, 0, 0, 0], 5, 0, by decide +kernel⟩, ⟨running, cmd [5, 1, 13, 0, 1, 0, 0, 0, 0, 0, 0, 0], 5, 0, by decide +kernel⟩, ⟨synthOn goodPage 79, 79, goodPage_ok, by decide +kernel, rfl, by decide, rfl, rfl⟩, ⟨{ running with acc := { running.acc with accTx := some (accTxRun false) }, sys := { running.sys with timeUs := 100 } }, accTxRun false, by decide +kernel⟩⟩

/-- The hypotheses of FrontEndCommandsComplete can be met. -/
theorem witness_FrontEndCommandsComplete_2 : (∃ (s : State) (c : CmdEntry) (t : AccTxRun), s.takes 0x0711 c = true ∧ c.bytes 24 4 = [0, 0, 0, 0] ∧ s.acc.accTx = some t ∧ t.locked = true) ∧ (∃ (s : State) (c : CmdEntry) (t : AccTxRun), s.takes 0x0711 c = true ∧ c.bytes 24 4 = [0, 0, 0, 0] ∧ s.acc.accTx = some t ∧ t.locked = false ∧ t.tried = 0) ∧ (∃ (s : State) (c : CmdEntry), s.takes 0x0711 c = true ∧ c.bytes 24 4 = [0, 0, 0, 0] ∧ s.acc.accTx = none) ∧ (∃ (s : State) (c : CmdEntry), s.takes 0x0712 c = true ∧ c.bytes 24 4 = [0, 0, 0, 0] ∧ pageLocked s.acc.regPage = false ∧ pageValid (padTo 128 c.buf) = true ∧ (padTo 128 c.buf).getD 6 0 = 0) ∧ (∃ (s : State) (c : CmdEntry), s.takes 0x0713 c = true ∧ c.bytes 24 4 = [0, 0x4B, 0x4C, 0] ∧ pageLocked s.acc.regPage = false ∧ pageValid s.acc.regPage = true) ∧ ∃ (s : State) (c : CmdEntry), s.takes 0x0714 c = true ∧ c.bytes 24 4 = [0, 0, 0, 0] :=
  ⟨⟨{ running with acc := { running.acc with accTx := some (accTxRun true) } }, cmd [0, 0, 0, 0], accTxRun true, by decide +kernel⟩, ⟨{ running with acc := { running.acc with accTx := some (accTxRun false) } }, cmd [0, 0, 0, 0], accTxRun false, by decide +kernel⟩, ⟨running, cmd [0, 0, 0, 0], by decide +kernel⟩, ⟨running, cmdIn [0, 0, 0, 0] goodPage, by decide +kernel, rfl, by decide +kernel, goodPage_ok, rfl⟩, ⟨synthOn goodPage 0, cmd [0, 0x4B, 0x4C, 0], by decide +kernel, rfl, rfl, goodPage_ok⟩, ⟨running, cmdOut [0, 0, 0, 0] 128, by decide⟩⟩

/-- The hypotheses of RadioActivityIsSequenced can be met. -/
theorem witness_RadioActivityIsSequenced : (∃ (s : State) (ch : Fin 81), s.acc.synthSt = 1 ∧ s.acc.synthCh = ch) ∧ (∃ (s : State), s.acc.activity = none ∧ s.acc.dpdCand = none ∧ s.acc.coexCfg.getLsbD 0 = false ∧ s.lockedOn 79 = true ∧ pageValid s.acc.regPage = true) ∧ (∃ (s : State), s.acc.activity = none ∧ s.acc.dpdCand = none ∧ s.lockedOn 5 = true ∧ pageValid s.acc.regPage = false) ∧ (∃ (s : State), s.acc.activity = none ∧ s.acc.coexCfg.getLsbD 0 = true ∧ s.acc.coexCfg.getLsbD 2 = false) ∧ (∃ (s : State) (x : Activity), s.acc.activity = some x ∧ x.tx = false ∧ s.acc.dpdCand = none ∧ s.acc.coexCfg.getLsbD 0 = true ∧ s.acc.coexCfg.getLsbD 3 = true) ∧ (∃ (s : State) (x : Activity) (t : AccTxRun), s.acc.activity = some x ∧ x.tx = true ∧ x.cls = 4 ∧ x.payloadUs < 64 ∧ s.acc.accTx = some t ∧ t.stop = false ∧ t.mode ≠ 0 ∧ t.count ≤ t.tried + 1 ∧ s.acc.dpdCand = none) :=
  ⟨⟨{ running with acc := { running.acc with synthSt := 1, synthCh := 80 } }, 80, by decide +kernel⟩, ⟨synthOn goodPage 79, by decide +kernel, by decide +kernel, by decide +kernel, by decide +kernel, goodPage_ok⟩, ⟨synthOn (zeros 128) 5, by decide +kernel⟩, ⟨{ running with acc := { running.acc with coexCfg := 9 } }, by decide +kernel⟩, ⟨onAirOf false 1, onAirX false 1, by decide +kernel⟩, ⟨{ onAirOf true 4 with acc := { (onAirOf true 4).acc with accTx := some (accTxRun true) } }, onAirX true 4, accTxRun true, by decide +kernel⟩⟩

/-- The hypotheses of RadioActivityIsSequenced can be met. -/
theorem witness_RadioActivityIsSequenced_2 : (∃ (s : State) (x : Activity), s.acc.activity = some x ∧ x.tx = true ∧ x.cls = 2 ∧ 0 ≤ x.pAnt ∧ 64 ≤ x.payloadUs ∧ s.acc.fbLost = false ∧ s.acc.dpdCfg.getLsbD 0 = true ∧ s.acc.dpdCand = none) ∧ (∃ (s : State) (x : Activity) (p : _), s.acc.activity = some x ∧ x.tx = true ∧ x.cls = 2 ∧ 40 ≤ x.packetUs ∧ s.acc.fbLow = 2 ∧ s.acc.fbLost = false ∧ s.acc.dpdCand = none ∧ p + fld s.acc.loss 16 8 - s.pathLoss x.path < x.pAnt - 20 ∧ p + fld s.acc.loss 16 8 - s.pathLoss x.path ≤ s.maxPower x.ch + 2) ∧ (∃ (s : State) (x : Activity), s.acc.activity = some x ∧ s.acc.coexCfg.getLsbD 0 = true ∧ x.tx = true ∧ x.cls = 2) ∧ (∃ s : State, s.acc.activity = none ∧ 4 * (s.acc.paTimingNow.toNat / 2 ^ 24) = (s.sys.timeUs - s.acc.offAt).toNat) ∧ (∃ (s : State) (m : Fin 2), s.acc.dpdCfg.getLsbD 0 = true ∧ s.acc.fbLost = false ∧ s.dpdMode = some m ∧ s.acc.dpdSteps[m] = 7 ∧ s.acc.activity = none ∧ s.acc.dpdYields = 99) ∧ (∃ (s : State) (x : Activity) (m : Fin 2) (r : Int) (l : List (Int × Int)), s.acc.activity = some x ∧ x.tx = false ∧ s.acc.dpdCand = some (m, r, l) ∧ s.acc.dpdValid.getLsbD m.val = false ∧ r = -301) :=
  ⟨⟨{ running with acc := { running.acc with activity := some { onAirX true 2 with payloadUs := 64 } } }, { onAirX true 2 with payloadUs := 64 }, by decide +kernel⟩, ⟨{ onAirOf true 2 with acc := { (onAirOf true 2).acc with fbLow := 2 } }, onAirX true 2, -61, by decide +kernel⟩, ⟨onAirOf true 2, onAirX true 2, by decide +kernel⟩, ⟨{ running with sys := { running.sys with timeUs := 200 } }, by decide +kernel⟩, ⟨{ running with acc := { running.acc with dpdCapt := 2, dpdYields := 99, dpdSteps := #v[0, 7] } }, 1, by decide +kernel⟩, ⟨{ onAirOf false 1 with acc := { (onAirOf false 1).acc with dpdCand := some (1, -301, [(1, 2)]) } }, onAirX false 1, 1, -301, [(1, 2)], by decide +kernel⟩⟩

/-- The hypotheses of RadioActivityIsSequenced can be met. -/
theorem witness_RadioActivityIsSequenced_3 : (∃ (s : State), s.acc.fbLost = true) ∧ (∃ s : State, s.acc.dpdCfg.getLsbD 0 = true ∧ s.acc.fbLost = false ∧ (s.sys.timeUs - s.acc.dpdAt).toNat = 60000000 ∧ s.acc.dpdCapt ≠ 0) ∧ ∃ (s : State), s.cal.bRun.isSome = true ∧ s.acc.synthSt ≠ 1 ∧ s.acc.activity = none ∧ s.acc.calYield.any (fun y => decide (50000 ≤ (s.sys.timeUs - y).toNat)) = true :=
  ⟨⟨{ running with acc := { running.acc with fbLost := true } }, by decide +kernel⟩, ⟨{ running with sys := { running.sys with timeUs := 60000000 }, acc := { running.acc with dpdCapt := 1 } }, by decide +kernel⟩, ⟨{ running with cal := { running.cal with bRun := some { slot := 0, rest := [0], repeats := 0, denied := 0, suspect := 0, startTj := 0, found := [] } }, sys := { running.sys with timeUs := 50000 }, acc := { running.acc with calYield := some 0 } }, by decide +kernel⟩⟩

/-- The hypotheses of TheUnlockFlowAndItsVerdict can be met. -/
theorem witness_TheUnlockFlowAndItsVerdict : (∃ (s : State) (c : CmdEntry), s.takes 0x0720 c = true ∧ c.bytes 24 4 = [0, 0, 0, 0] ∧ s.below 1 = false) ∧ (∃ (s : State) (b : List Byte), (s.credForm b = false ∨ s.credKey b = none)) ∧ (∃ (s : State) (b : List Byte) (key : List Byte), s.credForm b = true ∧ s.credKey b = some key) ∧ (∃ (s : State) (b : List Byte) (code : Nat), s.credCheck b = some code) ∧ (∃ (s : State) (b : List Byte) (i : Fin 64), s.slotOf (credId b) = none ∧ s.cred.slots[i] = none ∧ ∀ j : Fin 64, j < i → s.cred.slots[j].isSome = true) ∧ (∃ (s : State) (b : List Byte) (i : Fin 64), s.slotOf (credId b) = some i) :=
  ⟨⟨running, { cmd [0, 0, 0, 0] with flags := 2, bufLen := 6263 }, by decide +kernel⟩, ⟨running, [], by decide +kernel⟩, ⟨keyOn, 1 :: zeros 6262, [], by decide +kernel⟩, ⟨running, [], 8, by decide +kernel⟩, ⟨credOn running, [], 1, by decide +kernel⟩, ⟨credOn running, zeros 12 ++ List.replicate 16 7, 0, by decide +kernel⟩⟩

/-- The hypotheses of TheUnlockFlowAndItsVerdict can be met. -/
theorem witness_TheUnlockFlowAndItsVerdict_2 : (∃ (s : State) (b : List Byte), s.slotOf (credId b) = none ∧ (∀ j : Fin 64, (s.cred.slots[j].map fun y => s.timePassed y.notAfter.toNat) = some false)) ∧ (∃ (s : State) (b : List Byte) (i : Fin 64) (cr : Cred), s.slotOf (credId b) = none ∧ (∀ j : Fin 64, s.cred.slots[j].isSome = true) ∧ s.cred.slots[i] = some cr ∧ s.timePassed cr.notAfter.toNat = true ∧ (∀ j : Fin 64, j ≠ i → (s.cred.slots[j].all fun y => !s.timePassed y.notAfter.toNat || decide (cr.notAfter.toNat < y.notAfter.toNat)) = true)) ∧ (∃ (s : State) (c : CmdEntry), s.takes 0x0721 c = true ∧ c.bytes 24 4 = [0, 0, 0, 0] ∧ s.below 1 = false) ∧ (∃ (s : State) (c : CmdEntry) (k : Fin 64) (cr : Cred), s.takes 0x0722 c = true ∧ c.bytes 24 4 = [byte k.val, 0, 0, 0] ∧ s.below 1 = false ∧ s.cred.slots[k] = some cr) ∧ (∃ (s : State) (c : CmdEntry) (k : Fin 64), s.takes 0x0722 c = true ∧ c.bytes 24 4 = [byte k.val, 0, 0, 0] ∧ s.below 1 = false ∧ s.cred.slots[k] = none) ∧ (∃ (s : State) (c : CmdEntry), s.takes 0x0722 c = true ∧ c.u8 24 = 63 ∧ c.bytes 25 3 = [1, 0, 0] ∧ s.below 1 = false) :=
  ⟨⟨fullSlots 5, [], by decide +kernel⟩, ⟨fullSlots 200, [], 0, { credZero with notAfter := 99 }, by decide +kernel⟩, ⟨credOn running, cmdOut [0, 0, 0, 0] 2048, by decide +kernel⟩, ⟨credOn running, cmd [0, 0, 0, 0], 0, credZero, by decide +kernel⟩, ⟨credOn running, cmd [63, 0, 0, 0], 63, by decide +kernel⟩, ⟨credOn running, cmd [63, 1, 0, 0], by decide +kernel⟩⟩

/-- The hypotheses of TheUnlockFlowAndItsVerdict can be met. -/
theorem witness_TheUnlockFlowAndItsVerdict_3 : (∃ (s : State) (c : CmdEntry), s.takes 0x0723 c = true ∧ c.u8 24 = 1 ∧ c.u8 25 = 15 ∧ s.below 1 = false ∧ c.u16 26 = 1500 ∧ c.u8 28 = 50 ∧ c.u8 30 = 3 ∧ c.u8 31 = 0x77 ∧ c.u16 32 = 0xFF ∧ c.bytes 34 2 = [0, 0]) ∧ (∃ (s : State) (c : CmdEntry), s.takes 0x0723 c = true ∧ c.u8 24 = 0xFF ∧ c.u8 25 = 0xFF ∧ s.below 1 = false ∧ c.u16 26 = 0xFFFF ∧ c.u8 28 = 0xFF ∧ c.u8 30 = 0xFF ∧ c.u8 31 = 0xFF ∧ c.u16 32 = 0xFFFF ∧ c.bytes 34 2 = [0, 0]) ∧ (∃ (s : State) (c : CmdEntry), s.takes 0x0723 c = true ∧ c.u8 24 ≤ 1 ∧ 1 ≤ c.u8 25 ∧ c.u8 25 ≤ 15 ∧ s.below 1 = false ∧ c.u16 26 = 19) ∧ (∃ (s : State) (c : CmdEntry) (v : Nat), s.takes 0x0724 c = true ∧ c.bytes 24 4 = [byte v, 0, 0, 0] ∧ v = 3 ∧ (c.bufIn = true ↔ v % 2 = 1) ∧ s.below 1 = false ∧ s.cred.vkeyLocked = false) ∧ (∃ (s : State) (c : CmdEntry) (v : Nat), s.takes 0x0724 c = true ∧ c.bytes 24 4 = [byte v, 0, 0, 0] ∧ v = 2 ∧ (c.bufIn = true ↔ v % 2 = 1) ∧ s.below 1 = false ∧ s.cred.vkeyLocked = true ∧ v ≠ 0) ∧ (∃ (s : State) (c : CmdEntry), s.takes 0x0726 c = true ∧ c.bytes 24 4 = [0, 0, 0, 0] ∧ s.below 1 = false) :=
  ⟨⟨running, cmd [1, 15, 0xDC, 5, 50, 128, 3, 0x77, 0xFF, 0, 0, 0], by decide +kernel⟩, ⟨running, cmd [0xFF, 0xFF, 0xFF, 0xFF, 0xFF, 0xFF, 0xFF, 0xFF, 0xFF, 0xFF, 0, 0], by decide +kernel⟩, ⟨running, cmd [1, 15, 19, 0, 50, 128, 3, 0x77, 0xFF, 0, 0, 0], by decide +kernel⟩, ⟨running, cmdIn [3, 0, 0, 0] (zeros 32), 3, by decide +kernel⟩, ⟨{ running with cred := { running.cred with vkeyLocked := true } }, cmd [2, 0, 0, 0], 2, by decide +kernel⟩, ⟨{ running with cred := { running.cred with verdicts := [zeros 47, [1]] } }, cmdOut [0, 0, 0, 0] 384, by decide +kernel⟩⟩

/-- The hypotheses of TheUnlockFlowAndItsVerdict can be met. -/
theorem witness_TheUnlockFlowAndItsVerdict_4 : (∃ (s : State) (c : CmdEntry) (k : Fin 64) (cr : Cred) (x : Conn), s.takes 0x0725 c = true ∧ c.u8 26 = k.val ∧ c.u8 27 = 0 ∧ s.below 1 = false ∧ s.onFio = false ∧ s.cred.flow = none ∧ s.cred.flowWaits = none ∧ s.acc.hostCs = false ∧ s.tru.opened = false ∧ s.cred.slots[k] = some cr ∧ (s.acc.conns.find? fun y => decide (y.handle = BitVec.ofNat 16 (c.u16 24)) && decide (y.slot = some k)) = some x) ∧ (∃ (s : State) (c : CmdEntry) (k : Fin 64), s.takes 0x0725 c = true ∧ c.u8 26 = k.val ∧ c.u8 27 = 0 ∧ s.below 1 = false ∧ s.onFio = false ∧ s.cred.flow = none ∧ s.cred.flowWaits = none ∧ s.acc.hostCs = false ∧ s.tru.opened = false ∧ s.cred.slots[k] = none) ∧ (∃ (s : State) (c : CmdEntry) (k : Fin 64), s.takes 0x0725 c = true ∧ c.u8 26 = k.val ∧ c.u8 27 = 0 ∧ s.below 1 = false ∧ s.onFio = false ∧ (s.cred.flow.isSome = true ∨ s.acc.hostCs = true)) ∧ (∃ (s : State) (f : Flow), s.cred.flow = some f ∧ f.step = .connecting ∧ f.firstTime = true) ∧ (∃ (s : State) (f : Flow), s.cred.flow = some f ∧ f.step = .connecting ∧ f.firstTime = false) ∧ (∃ (s : State) (f : Flow), s.cred.flow = some f ∧ f.step = .done ∧ f.firstTime = false) :=
  ⟨⟨{ credOn running with acc := { running.acc with conns := [{ handle := 0x40, slot := some 0, rssi := [], aa := 5 }] } }, cmd [0x40, 0, 0, 0], 0, credZero, { handle := 0x40, slot := some 0, rssi := [], aa := 5 }, by decide +kernel⟩, ⟨running, cmd [0x40, 0, 63, 0], 63, by decide +kernel⟩, ⟨flowOn (flowZero .ranging false false), cmd [0x40, 0, 63, 0], 63, by decide +kernel⟩, ⟨flowOn (flowZero .connecting true false), flowZero .connecting true false, by decide +kernel⟩, ⟨flowOn (flowZero .connecting false false), flowZero .connecting false false, by decide +kernel⟩, ⟨flowOn (flowZero .done false false), flowZero .done false false, by decide +kernel⟩⟩

/-- The hypotheses of TheUnlockFlowAndItsVerdict can be met. -/
theorem witness_TheUnlockFlowAndItsVerdict_5 : (∃ (s : State) (f : Flow), s.cred.flow = some f ∧ f.step = .encrypting ∧ f.firstTime = false) ∧ (∃ (s : State) (f : Flow), s.cred.flow = some f ∧ f.step = .encrypting ∧ f.firstTime = true) ∧ (∃ (s : State) (f : Flow), s.cred.flow = some f ∧ f.step = .opening ∧ f.firstTime = true) ∧ (∃ (s : State) (f : Flow), s.cred.flow = some f ∧ f.step = .opening ∧ f.firstTime = false) ∧ (∃ (s : State) (f : Flow), s.cred.flow = some f ∧ f.step = .waitSdu ∧ f.firstTime = true) ∧ (∃ (s : State) (f : Flow) (b : List Byte), s.cred.flow = some f ∧ f.step = .waitSdu ∧ (s.sys.timeUs - f.since).toNat = 100000) :=
  ⟨⟨flowOn (flowZero .encrypting false false), flowZero .encrypting false false, by decide +kernel⟩, ⟨flowOn (flowZero .encrypting true false), flowZero .encrypting true false, by decide +kernel⟩, ⟨flowOn (flowZero .opening true false), flowZero .opening true false, by decide +kernel⟩, ⟨flowOn (flowZero .opening false false), flowZero .opening false false, by decide +kernel⟩, ⟨flowOn (flowZero .waitSdu true false), flowZero .waitSdu true false, by decide +kernel⟩, ⟨{ flowOn (flowZero .waitSdu true false) with sys := { running.sys with timeUs := 100000 } }, flowZero .waitSdu true false, [], by decide +kernel⟩⟩

/-- The hypotheses of TheUnlockFlowAndItsVerdict can be met. -/
theorem witness_TheUnlockFlowAndItsVerdict_6 : (∃ (s : State) (f : Flow) (b : List Byte), s.cred.flow = some f ∧ f.step = .challenge ∧ b.length = 49) ∧ (∃ (s : State) (f : Flow) (b : List Byte) (cr : Cred), s.cred.flow = some f ∧ f.step = .challenge ∧ b.length = 48 ∧ s.flowCred f = some cr ∧ s.tru.opened = false ∧ (s.sys.timeUs - f.since).toNat = 15000) ∧ (∃ (s : State) (f : Flow), s.cred.flow = some f ∧ f.step = .challenge ∧ (s.sys.timeUs - f.since).toNat = 15001) ∧ (∃ (s : State) (b : List Byte) (o : CsObs) (f : Flow), s.cred.flow = some f ∧ f.step = .done ∧ s.acc.hostCs = false) ∧ (∃ (s : State) (b : List Byte) (o : CsObs), s.cred.flow = none ∧ s.acc.hostCs = false) ∧ (∃ (s : State) (f : Flow) (o : CsObs), s.cred.flow = some f ∧ f.step = .ranging ∧ (s.cal.bValid.getLsbD 2 = false ∨ o.paths = [])) :=
  ⟨⟨flowOn (flowZero .challenge false false), flowZero .challenge false false, zeros 49, by decide +kernel⟩, ⟨{ flowOn (flowZero .challenge false false) with sys := { running.sys with timeUs := 15000 } }, flowZero .challenge false false, zeros 48, credZero, by decide +kernel⟩, ⟨{ flowOn (flowZero .challenge false false) with sys := { running.sys with timeUs := 15001 } }, flowZero .challenge false false, by decide +kernel⟩, ⟨flowOn (flowZero .done false false), [], csZero, flowZero .done false false, by decide +kernel⟩, ⟨running, [], csZero, by decide +kernel⟩, ⟨flowOn (flowZero .ranging false false), flowZero .ranging false false, csZero, by decide +kernel⟩⟩

/-- The hypotheses of TheUnlockFlowAndItsVerdict can be met. -/
theorem witness_TheUnlockFlowAndItsVerdict_7 : (∃ (s : State) (f : Flow) (o : CsObs) (p : Fin 4 × List Tone), s.cred.flow = some f ∧ f.step = .ranging ∧ s.cal.bValid.getLsbD 2 = true ∧ o.paths = [p] ∧ f.cfg.paths.getLsbD p.1.val = true ∧ (s.pbr p).valid = 72) ∧ (∃ (o : CsObs) (l : List Int), l = (o.rtt.filter fun y => y.valid).map (fun y => (y.rtt : Int) - y.turn) ∧ l.length = 6 ∧ (l.length : Int) * (l.map fun y => y * y).sum - l.sum ^ 2 = (1000 * (l.length : Int)) ^ 2) ∧ (∃ (s : State) (o : CsObs) (k : Fin 64) (cr : Cred) (w : Bool), s.cred.flow = none ∧ s.acc.hostCs = true ∧ s.cred.flowWaits = some (some k, w) ∧ s.cred.cfg.en = true ∧ s.cred.slots[k] = some cr) ∧ (∃ (s : State) (o : CsObs), s.cred.flow = none ∧ s.acc.hostCs = true ∧ s.cred.flowWaits = none) ∧ (∃ (f : Flow), f.slot = none) ∧ (∃ (s : State) (f : Flow) (k : Fin 64), f.slot = some k ∧ s.cred.slots[k] = none) :=
  ⟨⟨rangingOn, flowZero .ranging false false, csTones, (0, tonesOf), by decide +kernel⟩, ⟨csTones, [4000, 2000, 4000, 2000, 4000, 2000], by decide +kernel⟩, ⟨{ credOn running with acc := { running.acc with hostCs := true }, cred := { (credOn running).cred with flowWaits := some (some 0, true), cfg := { en := true } } }, csZero, 0, credZero, true, by decide +kernel⟩, ⟨{ running with acc := { running.acc with hostCs := true } }, csZero, by decide +kernel⟩, ⟨{ flowZero .ranging true false with slot := none }, by decide +kernel⟩, ⟨running, flowZero .ranging true false, 0, by decide +kernel⟩⟩

/-- The hypotheses of TheUnlockFlowAndItsVerdict can be met. -/
theorem witness_TheUnlockFlowAndItsVerdict_8 : (∃ (s : State) (f : Flow) (k : Fin 64) (cr : Cred), f.slot = some k ∧ s.cred.slots[k] = some cr ∧ cr.credId ≠ f.credId) ∧ (∃ (s : State) (f : Flow) (k : Fin 64) (cr : Cred), f.slot = some k ∧ s.cred.slots[k] = some cr ∧ cr.credId = f.credId) ∧ (∃ (s : State) (x : Delivery) (l : List Delivery), s.cred.delivering = x :: l ∧ x.waits = true ∧ (s.sys.timeUs - x.since).toNat = 2000) ∧ (∃ (s : State) (x : Delivery) (l : List Delivery), s.cred.delivering = x :: l ∧ x.waits = false) ∧ (∃ (s : State), s.cred.delivering = []) ∧ (∃ (s : State) (f : Flow), s.cred.flow = some f ∧ f.step = .done ∧ f.inWatch = true ∧ f.outcome ≠ some 0) :=
  ⟨⟨credOn running, { flowZero .ranging true false with credId := [] }, 0, credZero, by decide +kernel⟩, ⟨credOn running, flowZero .ranging true false, 0, credZero, by decide +kernel⟩, ⟨{ running with cred := { running.cred with delivering := [⟨[], [], 0x2A, 2, true, 5⟩] }, sys := { running.sys with timeUs := 2005 } }, ⟨[], [], 0x2A, 2, true, 5⟩, [], by decide +kernel⟩, ⟨{ running with cred := { running.cred with delivering := [⟨[], [], 0x2A, 2, false, 0⟩] } }, ⟨[], [], 0x2A, 2, false, 0⟩, [], by decide +kernel⟩, ⟨running, by decide +kernel⟩, ⟨flowOn { flowZero .done false true with outcome := some 5 }, { flowZero .done false true with outcome := some 5 }, by decide +kernel⟩⟩

/-- The hypotheses of TheUnlockFlowAndItsVerdict can be met. -/
theorem witness_TheUnlockFlowAndItsVerdict_9 : (∃ (s : State) (f : Flow), s.cred.flow = some f ∧ f.step = .ranging ∧ f.inWatch = false) ∧ (∃ (s : State) (f : Flow), s.cred.flow = some f ∧ f.range.isSome = true) :=
  ⟨⟨flowOn (flowZero .ranging false false), flowZero .ranging false false, by decide +kernel⟩, ⟨flowOn { flowZero .ranging false false with range := some 3 }, { flowZero .ranging false false with range := some 3 }, by decide +kernel⟩⟩

/-- The hypotheses of DmaCommandsAndDescriptors can be met. -/
theorem witness_DmaCommandsAndDescriptors : (∃ (s : State) (c : CmdEntry) (k : Nat), s.takes 0x0C01 c = true ∧ c.u8 24 = 0 ∧ c.u8 25 = 0 ∧ c.u16 26 = k ∧ k = 256 ∧ c.u32 28 = 0 ∧ (gpLowest s.dma.gp (64 * k)).isSome = true) ∧ (∃ (s : State) (c : CmdEntry) (k : Nat), s.takes 0x0C01 c = true ∧ c.u8 24 = 0 ∧ c.u8 25 = 0 ∧ c.u16 26 = k ∧ k = 1 ∧ c.u32 28 = 0 ∧ (∀ a : Nat, gpFits s.dma.gp a (64 * k) = false)) ∧ (∃ (s : State) (c : CmdEntry) (g : GpAlloc), s.takes 0x0C01 c = true ∧ c.u8 24 = 1 ∧ c.u8 25 = 0 ∧ (s.dma.gp.find? fun e : GpAlloc => decide (e.owner = GpOwner.dma) && decide (e.addr = c.u32 28)) = some g ∧ (∀ n : Fin 16, s.dma.ch[n].st = .idle ∨ s.dma.ch[n].st = .halted ∨ s.dma.ch[n].cur.toNat < g.addr ∨ g.addr + g.size ≤ s.dma.ch[n].cur.toNat)) ∧ (∃ (s : State) (c : CmdEntry) (g : GpAlloc) (n : Fin 16), s.takes 0x0C01 c = true ∧ c.u8 24 = 1 ∧ c.u8 25 = 0 ∧ (s.dma.gp.find? fun e : GpAlloc => decide (e.owner = GpOwner.dma) && decide (e.addr = c.u32 28)) = some g ∧ s.dma.ch[n].st = .parked ∧ g.addr ≤ s.dma.ch[n].cur.toNat ∧ s.dma.ch[n].cur.toNat < g.addr + g.size) ∧ (∃ (s : State) (c : CmdEntry), s.takes 0x0C01 c = true ∧ c.u8 24 = 1 ∧ c.u8 25 = 0 ∧ (s.dma.gp.find? fun e : GpAlloc => decide (e.owner = GpOwner.dma) && decide (e.addr = c.u32 28)) = none) ∧ (∃ (s : State) (c : CmdEntry) (k : Nat), s.takes 0x0C02 c = true ∧ c.bytes 28 4 = [0, 0, 0, 0] ∧ c.bufLen.toNat = 64 * k ∧ s.inChain (c.u32 24) k = true ∧ s.chainBusy (c.u32 24) (64 * k) = false) :=
  ⟨⟨running, cmd [0, 0, 0, 1, 0, 0, 0, 0], 256, by decide +kernel⟩, ⟨{ running with dma := { running.dma with gp := [⟨.dma, 0x20750000, 0xB0000⟩] } }, cmd [0, 0, 1, 0, 0, 0, 0, 0], 1, by decide +kernel, by decide +kernel, by decide +kernel, by decide +kernel, rfl, by decide +kernel, fullRegion⟩, ⟨dmaOn id [], cmd [1, 0, 0, 0, 0, 0x10, 0x76, 0x20], ⟨.dma, 0x20761000, 1024⟩, by decide +kernel⟩, ⟨dmaOn (fun x => { x with st := .parked }) [], cmd [1, 0, 0, 0, 0, 0x10, 0x76, 0x20], ⟨.dma, 0x20761000, 1024⟩, 0, by decide +kernel⟩, ⟨running, cmd [1, 0, 0, 0, 0, 0x10, 0x76, 0x20], by decide +kernel⟩, ⟨dmaOn id [], { cmd [0, 0x10, 0x76, 0x20, 0, 0, 0, 0] with flags := 2, bufLen := 1024 }, 16, by decide +kernel⟩⟩

/-- The hypotheses of DmaCommandsAndDescriptors can be met. -/
theorem witness_DmaCommandsAndDescriptors_2 : (∃ (s : State) (c : CmdEntry) (k : Nat), s.takes 0x0C02 c = true ∧ c.bytes 28 4 = [0, 0, 0, 0] ∧ c.bufLen.toNat = 64 * k ∧ s.inChain (c.u32 24) k = true ∧ s.chainBusy (c.u32 24) (64 * k) = true) ∧ (∃ (s : State) (c : CmdEntry) (k : Nat), s.takes 0x0C02 c = true ∧ c.bytes 28 4 = [0, 0, 0, 0] ∧ c.bufLen.toNat = 64 * k ∧ s.inChain (c.u32 24) k = false) ∧ (∃ (s : State) (c : CmdEntry) (n : Fin 16), s.takes 0x0C03 c = true ∧ c.u8 24 = n.val ∧ c.u8 25 = 3 ∧ c.u8 26 = 63 ∧ c.u8 27 = 0 ∧ s.dma.ch[n].st = .idle ∧ s.inChain (c.u32 28) 1 = true) ∧ (∃ (s : State) (c : CmdEntry) (n : Fin 16), s.takes 0x0C03 c = true ∧ c.u8 24 = n.val ∧ c.u8 25 ≤ 3 ∧ c.u8 26 ≤ 63 ∧ c.u8 27 = 0 ∧ s.dma.ch[n].st = .idle ∧ s.inChain (c.u32 28) 1 = false) ∧ (∃ (s : State) (c : CmdEntry) (n : Fin 16), s.takes 0x0C03 c = true ∧ c.u8 24 = n.val ∧ c.u8 25 ≤ 3 ∧ c.u8 26 ≤ 63 ∧ c.u8 27 = 0 ∧ s.dma.ch[n].st ≠ .idle) ∧ (∃ (s : State) (c : CmdEntry) (n : Fin 16) (k : Nat), s.takes 0x0C04 c = true ∧ c.u8 24 = n.val ∧ c.bytes 25 3 = [0, 0, 0] ∧ c.bufLen.toNat = 64 * k ∧ leNat (s.load (c.u32 28 + 56) 4) % 2 = 1 ∧ leNat (slice (padTo (64 * k) c.buf) (64 * (k - 1) + 56) 4) % 2 = 1 ∧ s.chainBusy (c.u32 32) (64 * k) = false ∧ s.inChain (c.u32 32) k = true ∧ s.inChain (c.u32 28) 1 = true) :=
  ⟨⟨dmaOn (fun x => { x with st := .parked }) [], { cmd [0, 0x10, 0x76, 0x20, 0, 0, 0, 0] with flags := 2, bufLen := 64 }, 1, by decide +kernel⟩, ⟨dmaOn id [], { cmd [0x40, 0x10, 0x76, 0x20, 0, 0, 0, 0] with flags := 2, bufLen := 1024 }, 16, by decide +kernel⟩, ⟨dmaOn id [], cmd [15, 3, 63, 0, 0xC0, 0x13, 0x76, 0x20], 15, by decide +kernel⟩, ⟨dmaOn id [], cmd [15, 3, 63, 0, 0, 0x14, 0x76, 0x20], 15, by decide +kernel⟩, ⟨dmaOn (fun x => { x with st := .parked }) [], cmd [0, 3, 63, 0, 0xC0, 0x13, 0x76, 0x20], 0, by decide +kernel⟩, ⟨dmaOn (fun x => { x with st := .parked }) (descAt 0 0 1 0 1), cmdIn [0, 0, 0, 0, 0, 0x10, 0x76, 0x20, 0x40, 0x10, 0x76, 0x20] (descAt 0 0 1 0 1), 0, 1, by decide +kernel⟩⟩

/-- The hypotheses of DmaCommandsAndDescriptors can be met. -/
theorem witness_DmaCommandsAndDescriptors_3 : (∃ (s : State) (c : CmdEntry) (n : Fin 16) (k : Nat), s.takes 0x0C04 c = true ∧ c.u8 24 = n.val ∧ c.bytes 25 3 = [0, 0, 0] ∧ c.bufLen.toNat = 64 * k ∧ leNat (s.load (c.u32 28 + 56) 4) % 2 = 0) ∧ (∃ (s : State) (c : CmdEntry) (n : Fin 16) (f : Bool), s.takes 0x0C05 c = true ∧ c.u8 24 = n.val ∧ c.u8 25 = b01 f ∧ f = false ∧ c.bytes 26 2 = [0, 0] ∧ s.dma.ch[n].st = .idle) ∧ (∃ (s : State) (c : CmdEntry) (n : Fin 16) (f : Bool), s.takes 0x0C05 c = true ∧ c.u8 24 = n.val ∧ c.u8 25 = b01 f ∧ f = true ∧ c.bytes 26 2 = [0, 0] ∧ s.dma.ch[n].st = .parked ∧ s.dma.ch[n].fetchDue = false ∧ s.dma.ch[n].stopSlots = []) ∧ (∃ (s : State) (c : CmdEntry) (n : Fin 16) (f : Bool), s.takes 0x0C05 c = true ∧ c.u8 24 = n.val ∧ c.u8 25 = b01 f ∧ f = false ∧ c.bytes 26 2 = [0, 0] ∧ s.dma.ch[n].st = .running ∧ s.dma.ch[n].inFlight = true) ∧ (∃ (s : State) (c : CmdEntry) (n : Fin 16) (f : Bool), s.takes 0x0C05 c = true ∧ c.u8 24 = n.val ∧ c.u8 25 = b01 f ∧ f = true ∧ c.bytes 26 2 = [0, 0] ∧ s.dma.ch[n].st = .running ∧ s.dma.ch[n].inFlight = true ∧ Memory.wf s.mem = true) ∧ (∃ (s : State) (c : CmdEntry) (n : Fin 16), s.takes 0x0C06 c = true ∧ c.u8 24 = n.val ∧ c.bytes 25 3 = [0, 0, 0] ∧ s.dma.ch[n].held = false) :=
  ⟨⟨dmaOn (fun x => { x with st := .parked }) (descAt 0 0 1 0 0), cmdIn [0, 0, 0, 0, 0, 0x10, 0x76, 0x20, 0x40, 0x10, 0x76, 0x20] (descAt 0 0 1 0 1), 0, 1, by decide +kernel⟩, ⟨dmaOn (fun x => { x with st := .idle }) (descAt 0x20770000 0x20770100 1 2 1), cmd [0, 0, 0, 0], 0, false, by decide +kernel⟩, ⟨dmaOn (fun x => { x with st := .parked }) (descAt 0x20770000 0x20770100 1 2 1), cmd [0, 1, 0, 0], 0, true, by decide +kernel⟩, ⟨dmaOn (fun x => { x with st := .running, inFlight := true }) (descAt 0x20770000 0x20770100 1 2 1), cmd [0, 0, 0, 0], 0, false, by decide +kernel⟩, ⟨dmaOn (fun x => { x with st := .running, inFlight := true }) (descAt 0x20770000 0x20770100 1 2 1), cmd [0, 1, 0, 0], 0, true, by decide +kernel⟩, ⟨dmaOn (fun x => { x with st := .parked }) [], cmd [0, 0, 0, 0], 0, by decide +kernel⟩⟩

/-- The hypotheses of DmaCommandsAndDescriptors can be met. -/
theorem witness_DmaCommandsAndDescriptors_4 : (∃ (s : State) (n : Fin 16), s.dma.ch[n].fetchDue = true ∧ s.dma.ch[n].held = false ∧ (s.dmaDesc n).malformed = true) ∧ (∃ (s : State) (n : Fin 16), s.dma.ch[n].fetchDue = true ∧ s.dma.ch[n].held = false ∧ (s.dmaDesc n).malformed = false) ∧ (∃ (s : State) (n : Fin 16), s.dma.ch[n].held = true) ∧ (∃ (s : State) (n : Fin 16), s.dma.ch[n].st = .waiting ∧ s.dma.ch[n].held = false ∧ s.dma.ch[n].fetchDue = false ∧ s.dmaInFlight < 8 ∧ (ctrlShuf (s.dmaCtrl n) = 1 → s.dmaShufBusy < 2) ∧ (ctrlWait (s.dmaCtrl n) = true → 0 < s.dma.ch[n].pending)) ∧ (∃ (s : State) (n : Fin 16), s.dma.ch[n].st = .waiting ∧ s.dma.ch[n].held = false ∧ s.dma.ch[n].fetchDue = false ∧ ctrlWait (s.dmaCtrl n) = true ∧ s.dma.ch[n].pending = 0) ∧ (∃ (d : Desc) (x : Nat) (y : Nat) (z : Nat), x < d.xc ∧ y < d.yc ∧ z < d.zc ∧ ctrlShuf d.ctrl ≠ 2) :=
  ⟨⟨dmaOn (fun x => { x with st := .running, fetchDue := true }) (descAt 0x20770000 0x20770100 0 2 1), 0, by decide +kernel⟩, ⟨dmaOn (fun x => { x with st := .running, fetchDue := true }) (descAt 0x20770000 0x20770100 1 2 1), 0, by decide +kernel⟩, ⟨dmaOn (fun x => { x with st := .running, fetchDue := true, held := true }) [], 0, by decide +kernel⟩, ⟨dmaOn (fun x => { x with st := .waiting, pending := 1 }) (descAt 0x20770000 0x20770100 1 0x16 1), 0, by decide +kernel⟩, ⟨dmaOn (fun x => { x with st := .waiting }) (descAt 0x20770000 0x20770100 1 0x16 1), 0, by decide +kernel⟩, ⟨descOf (descAt 0x20770000 0x20770100 2 2 1), 1, 0, 0, by decide +kernel⟩⟩

/-- The hypotheses of DmaCommandsAndDescriptors can be met. -/
theorem witness_DmaCommandsAndDescriptors_5 : (∃ (d : Desc) (j : Nat) (y : Nat) (z : Nat) (k : Nat) (w : Nat), j < d.xc / 8 ∧ y < d.yc ∧ z < d.zc ∧ ctrlShuf d.ctrl = 2 ∧ d.planes[k]? = some w) ∧ (∃ (s : State) (n : Fin 16) (a : Int) (b : Int) (k : Nat), s.dma.ch[n].st = .running ∧ s.dma.ch[n].inFlight = true ∧ (s.dmaDesc n).moves = [({ reads := [a], size := k, dsts := [b], make := fun bs => [bs] } : Move)] ∧ inSramN a k = true ∧ inSramN b k = true) ∧ (∃ (s : State) (n : Fin 16) (a : Int) (b : Int) (k : Nat), s.dma.ch[n].st = .running ∧ s.dma.ch[n].inFlight = true ∧ (s.dmaDesc n).moves = [({ reads := [a], size := k, dsts := [b], make := fun bs => [bs] } : Move)] ∧ inSramN a k = true ∧ inHostN b k = true ∧ s.host.dlUp = true ∧ (b.toNat - 0x800000000) % 4096 + k ≤ 4096) ∧ (∃ (s : State) (n : Fin 16) (a : Int) (b : Int) (k : Nat), s.dma.ch[n].st = .running ∧ s.dma.ch[n].inFlight = true ∧ (s.dmaDesc n).moves = [({ reads := [a], size := k, dsts := [b], make := fun bs => [bs] } : Move)] ∧ inHostN a k = true ∧ inSramN b k = true ∧ s.host.dlUp = true ∧ 0 < k) ∧ (∃ (s : State) (n : Fin 16) (a : Int) (b : Int) (k : Nat), s.dma.ch[n].st = .running ∧ s.dma.ch[n].inFlight = true ∧ (s.dmaDesc n).moves = [({ reads := [a], size := k, dsts := [b], make := fun bs => [bs] } : Move)] ∧ inSramN a k = false ∧ inHostN a k = false) ∧ (∃ (s : State) (n : Fin 16) (a : Int) (b : Int) (k : Nat), s.dma.ch[n].st = .running ∧ s.dma.ch[n].inFlight = true ∧ (s.dmaDesc n).moves = [({ reads := [a], size := k, dsts := [b], make := fun bs => [bs] } : Move)] ∧ inSramN a k = true ∧ inSramN b k = false ∧ inHostN b k = true ∧ s.host.dlUp = false) :=
  ⟨⟨descOf (descAt 0x20770000 0x20770100 16 0x810008 1), 1, 0, 0, 1, 7, by decide +kernel⟩, ⟨dmaOn (fun x => { x with st := .running, inFlight := true }) (descAt 0x20770000 0x20770100 1 2 1), 0, 0x20770000, 0x20770100, 4, by decide +kernel, by decide +kernel, oneMove _ _ _ _ (by decide +kernel), by decide +kernel, by decide +kernel⟩, ⟨dmaOn (fun x => { x with st := .running, inFlight := true }) (descAt 0x20770000 0x924000FFC 1 2 1), 0, 0x20770000, 0x924000FFC, 4, by decide +kernel, by decide +kernel, oneMove _ _ _ _ (by decide +kernel), by decide +kernel, by decide +kernel, by decide +kernel, by decide +kernel⟩, ⟨dmaOn (fun x => { x with st := .running, inFlight := true }) (descAt 0x924000FFC 0x20770100 1 2 1), 0, 0x924000FFC, 0x20770100, 4, by decide +kernel, by decide +kernel, oneMove _ _ _ _ (by decide +kernel), by decide +kernel, by decide +kernel, by decide +kernel, by decide +kernel⟩, ⟨dmaOn (fun x => { x with st := .running, inFlight := true }) (descAt 0x1FFFFFFF 0x20770100 1 2 1), 0, 0x1FFFFFFF, 0x20770100, 4, by decide +kernel, by decide +kernel, oneMove _ _ _ _ (by decide +kernel), by decide +kernel, by decide +kernel⟩, ⟨{ dmaOn (fun x => { x with st := .running, inFlight := true }) (descAt 0x20770000 0x924000FFC 1 2 1) with host := { running.host with dlUp := false } }, 0, 0x20770000, 0x924000FFC, 4, by decide +kernel, by decide +kernel, oneMove _ _ _ _ (by decide +kernel), by decide +kernel, by decide +kernel, by decide +kernel, by decide +kernel⟩⟩

/-- The hypotheses of DmaCommandsAndDescriptors can be met. -/
theorem witness_DmaCommandsAndDescriptors_6 : (∃ (s : State) (n : Fin 16), s.dma.ch[n].st ≠ .running) ∧ (∃ (s : State) (n : Fin 16), s.dma.ch[n].st = .running ∧ s.dma.ch[n].inFlight = false) ∧ (∃ (s : State) (n : Fin 16) (w : Nat), s.dma.ch[n].stopSlots = [] ∧ s.dma.ch[n].held = false ∧ ctrlDone (s.dmaCtrl n) = false ∧ s.dma.ch[n].rung = false ∧ leNat (s.load (s.dma.ch[n].cur.toNat + 56) 4) = w ∧ w % 2 = 1) ∧ (∃ (s : State) (n : Fin 16) (w : Nat), s.dma.ch[n].stopSlots = [] ∧ s.dma.ch[n].held = false ∧ ctrlDone (s.dmaCtrl n) = false ∧ s.dma.ch[n].rung = false ∧ leNat (s.load (s.dma.ch[n].cur.toNat + 56) 4) = w ∧ w % 2 = 0 ∧ inSram (w / 64 * 64) = true) ∧ (∃ (s : State) (n : Fin 16) (w : Nat), s.dma.ch[n].stopSlots = [] ∧ s.dma.ch[n].held = false ∧ ctrlDone (s.dmaCtrl n) = false ∧ s.dma.ch[n].rung = false ∧ leNat (s.load (s.dma.ch[n].cur.toNat + 56) 4) = w ∧ w % 2 = 0 ∧ inSram (w / 64 * 64) = false) ∧ (∃ (s : State) (n : Fin 16), s.dma.ch[n].stopSlots = [] ∧ s.dma.ch[n].held = true) :=
  ⟨⟨dmaOn id [], 0, by decide +kernel⟩, ⟨dmaOn (fun x => { x with st := .running }) [], 0, by decide +kernel⟩, ⟨dmaOn (fun x => { x with st := .running, inFlight := true }) (descAt 0x20770000 0x20770100 1 2 1), 0, 1, by decide +kernel⟩, ⟨dmaOn (fun x => { x with st := .running, inFlight := true }) (descAt 0x20770000 0x20770100 1 2 0x20761040), 0, 0x20761040, by decide +kernel⟩, ⟨dmaOn (fun x => { x with st := .running, inFlight := true }) (descAt 0x20770000 0x20770100 1 2 0x20800000), 0, 0x20800000, by decide +kernel⟩, ⟨dmaOn (fun x => { x with st := .running, inFlight := true, held := true }) (descAt 0x20770000 0x20770100 1 0x0B22 1), 0, by decide +kernel⟩⟩

/-- The hypotheses of DmaCommandsAndDescriptors can be met. -/
theorem witness_DmaCommandsAndDescriptors_7 : (∃ (s : State) (n : Fin 16), s.dma.ch[n].st = .parked ∧ s.dma.ch[n].held = false) ∧ (∃ (s : State) (n : Fin 16), s.dma.ch[n].st = .waiting) ∧ (∃ (s : State) (n : Fin 16), s.dma.ch[n].st = .halted) ∧ (∃ (s : State) (l : Fin 64), (∀ n : Fin 16, s.dma.ch[n].st ≠ .waiting) ∧ s.dma.ch[(0 : Fin 16)].pending = 255 ∧ s.dma.ch[(0 : Fin 16)].waitEvl = l) ∧ (∃ (s : State) (l : Fin 64), (∀ n : Fin 16, s.dma.ch[n].st ≠ .waiting) ∧ s.dma.ch[(0 : Fin 16)].pending = 254 ∧ s.dma.ch[(0 : Fin 16)].waitEvl = l) ∧ (∃ (s : State) (l : Fin 64) (n : Fin 16), s.dma.ch[n].st = .waiting ∧ s.dma.ch[n].waitEvl = l ∧ s.dma.ch[n].held = false ∧ s.dma.ch[n].fetchDue = false ∧ s.dma.ch[n].inFlight = false ∧ s.dma.ch[n].pending = 0 ∧ ctrlWait (s.dmaCtrl n) = true ∧ ctrlShuf (s.dmaCtrl n) ≠ 1 ∧ (∀ m : Fin 16, m ≠ n → s.dma.ch[m].st = .idle ∧ s.dma.ch[m].inFlight = false)) :=
  ⟨⟨dmaOn (fun x => { x with st := .parked }) (descAt 0x20770000 0x20770100 1 2 1), 0, by decide +kernel⟩, ⟨dmaOn (fun x => { x with st := .waiting }) (descAt 0x20770000 0x20770100 1 2 1), 0, by decide +kernel⟩, ⟨dmaOn (fun x => { x with st := .halted }) (descAt 0x20770000 0x20770100 1 2 1), 0, by decide +kernel⟩, ⟨dmaOn (fun x => { x with st := .parked, pending := 255 }) [], 0, by decide +kernel⟩, ⟨dmaOn (fun x => { x with st := .parked, pending := 254 }) [], 0, by decide +kernel⟩, ⟨dmaOn (fun x => { x with st := .waiting }) (descAt 0x20770000 0x20770100 1 0x12 1), 0, 0, by decide +kernel⟩⟩

/-- The hypotheses of TwoWireTrafficRuns can be met. -/
theorem witness_TwoWireTrafficRuns : (∃ (s : State) (c : CmdEntry) (p : Fin 2) (a : Byte) (w : Nat) (r : Nat) (n : Nat) (b : Bool), s.takes 0x0B01 c = true ∧ c.bytes 24 12 = [byte p.val, a, byte n, byte (c.u8 27), byte (b01 b), 0] ++ leBytes 2 w ++ leBytes 2 r ++ [0, 0] ∧ c.bufLen.toNat = max w r ∧ c.bufIn = decide (0 < w) ∧ c.bufOut = decide (0 < r) ∧ n = 8 ∧ w = 255 ∧ r = 255 ∧ a = 0x77 ∧ s.twLocked p a.toNat n = false ∧ s.tw.port[p].stuck = false) ∧ (∃ (s : State) (c : CmdEntry) (p : Fin 2) (a : Byte) (w : Nat) (r : Nat) (n : Nat) (b : Bool), s.takes 0x0B01 c = true ∧ c.bytes 24 12 = [byte p.val, a, byte n, byte (c.u8 27), byte (b01 b), 0] ++ leBytes 2 w ++ leBytes 2 r ++ [0, 0] ∧ c.bufLen.toNat = max w r ∧ c.bufIn = decide (0 < w) ∧ c.bufOut = decide (0 < r) ∧ n = 2 ∧ w = 0 ∧ r = 0 ∧ a = 0x0C ∧ s.tw.port[p].cfg.getLsbD 16 = false ∧ s.twLocked p a.toNat n = false ∧ s.tw.port[p].stuck = true) ∧ (∃ (s : State) (c : CmdEntry) (p : Fin 2) (a : Byte) (w : Nat) (r : Nat) (n : Nat) (b : Bool), s.takes 0x0B01 c = true ∧ c.bytes 24 12 = [byte p.val, a, byte n, byte (c.u8 27), byte (b01 b), 0] ++ leBytes 2 w ++ leBytes 2 r ++ [0, 0] ∧ c.bufLen.toNat = max w r ∧ c.bufIn = decide (0 < w) ∧ c.bufOut = decide (0 < r) ∧ n = 4 ∧ w = 1 ∧ r = 0 ∧ a = 0x60 ∧ s.twLocked p a.toNat n = true) ∧ (∃ (s : State) (c : CmdEntry) (p : Fin 2) (n : Nat) (w : Nat) (r : Nat), s.takes 0x0B01 c = true ∧ c.u8 24 = p.val ∧ c.u8 26 = n ∧ c.u16 30 = w ∧ c.u16 32 = r ∧ (n ≤ 8 → twWOk n w = true → twROk n r = true → c.bufLen.toNat = max w r ∧ c.bufIn = decide (0 < w) ∧ c.bufOut = decide (0 < r)) ∧ c.u8 25 = 0x78) ∧ (∃ (s : State) (c : CmdEntry) (p : Fin 2) (n : Nat) (w : Nat) (r : Nat), s.takes 0x0B01 c = true ∧ c.u8 24 = p.val ∧ c.u8 26 = n ∧ c.u16 30 = w ∧ c.u16 32 = r ∧ (n ≤ 8 → twWOk n w = true → twROk n r = true → c.bufLen.toNat = max w r ∧ c.bufIn = decide (0 < w) ∧ c.bufOut = decide (0 < r)) ∧ c.u8 25 = 0x0C ∧ s.tw.port[p].cfg.getLsbD 16 = true) ∧ (∃ (s : State) (c : CmdEntry) (p : Fin 2) (n : Nat) (w : Nat) (r : Nat), s.takes 0x0B01 c = true ∧ c.u8 24 = p.val ∧ c.u8 26 = n ∧ c.u16 30 = w ∧ c.u16 32 = r ∧ (n ≤ 8 → twWOk n w = true → twROk n r = true → c.bufLen.toNat = max w r ∧ c.bufIn = decide (0 < w) ∧ c.bufOut = decide (0 < r)) ∧ c.u8 25 = 0x50 ∧ n = 9) :=
  ⟨⟨running, { cmd [1, 0x77, 8, 3, 1, 0, 255, 0, 255, 0, 0, 0] with flags := 6, bufLen := 255 }, 1, 0x77, 255, 255, 8, true, by decide +kernel⟩, ⟨twOn 0 (fun y => { y with cfg := 0, stuck := true }), cmd [0, 0x0C, 2, 3, 1, 0, 0, 0, 0, 0, 0, 0], 0, 0x0C, 0, 0, 2, true, by decide +kernel⟩, ⟨running, { cmd [1, 0x60, 4, 3, 0, 0, 1, 0, 0, 0, 0, 0] with flags := 2, bufLen := 1 }, 1, 0x60, 1, 0, 4, false, by decide +kernel⟩, ⟨running, cmd [0, 0x78, 2, 3, 1, 0, 0, 0, 0, 0, 0, 0], 0, 2, 0, 0, by decide +kernel⟩, ⟨running, cmd [0, 0x0C, 2, 3, 1, 0, 0, 0, 0, 0, 0, 0], 0, 2, 0, 0, by decide +kernel⟩, ⟨running, cmd [0, 0x50, 9, 3, 1, 0, 0, 0, 0, 0, 0, 0], 0, 9, 0, 0, by decide +kernel⟩⟩

/-- The hypotheses of TwoWireTrafficRuns can be met. -/
theorem witness_TwoWireTrafficRuns_2 : (∃ (s : State) (c : CmdEntry) (p : Fin 2) (n : Nat) (w : Nat) (r : Nat), s.takes 0x0B01 c = true ∧ c.u8 24 = p.val ∧ c.u8 26 = n ∧ c.u16 30 = w ∧ c.u16 32 = r ∧ (n ≤ 8 → twWOk n w = true → twROk n r = true → c.bufLen.toNat = max w r ∧ c.bufIn = decide (0 < w) ∧ c.bufOut = decide (0 < r)) ∧ c.u8 25 = 0x50 ∧ n = 1 ∧ c.u8 28 = 1) ∧ (∃ (s : State) (c : CmdEntry) (p : Fin 2), s.takes 0x0B02 c = true ∧ c.bytes 24 4 = [byte p.val, 0, 0, 0]) ∧ (∃ (s : State) (b : Bool) (o : ClearObs), s.lifeOwed = true ∧ b = false ∧ o = ⟨false, none⟩) ∧ (∃ (s : State) (p : Fin 2) (b : Bool) (o : ClearObs) (x : TwTxn), s.tw.port[p].run = none ∧ (p = 1 ∨ s.lifeOwed = false) ∧ s.twPick p = some x ∧ x.user = TwUser.pass 0 ∧ s.tw.port[p].stuck = false ∧ b = false) ∧ (∃ (s : State) (p : Fin 2) (b : Bool) (o : ClearObs) (x : TwTxn) (v : Nat), s.tw.port[p].run = none ∧ (p = 1 ∨ s.lifeOwed = false) ∧ s.twPick p = some x ∧ x.user = TwUser.pass v ∧ s.tw.port[p].stuck = true) ∧ (∃ (s : State) (p : Fin 2) (b : Bool) (o : ClearObs) (x : TwTxn) (v : Nat), s.tw.port[p].run = none ∧ (p = 1 ∨ s.lifeOwed = false) ∧ s.twPick p = some x ∧ x.user = TwUser.clear v ∧ o.sclLow = false) :=
  ⟨⟨running, cmd [0, 0x50, 1, 3, 1, 0, 0, 0, 0, 0, 0, 0], 0, 1, 0, 0, by decide +kernel⟩, ⟨running, cmd [1, 0, 0, 0], 1, by decide +kernel⟩, ⟨owedLife, false, ⟨false, none⟩, by decide +kernel⟩, ⟨twOn 0 (fun y => { y with queue := [{ user := .pass 0, addr := 0x51, proto := 5, cmd := 3, pec := true, data := [], rcount := 1 }], run := none }), 0, false, ⟨false, none⟩, { user := .pass 0, addr := 0x51, proto := 5, cmd := 3, pec := true, data := [], rcount := 1 }, by decide +kernel⟩, ⟨twOn 0 (fun y => { y with queue := [{ user := .pass 0, addr := 0x51, proto := 5, cmd := 3, pec := true, data := [], rcount := 1 }], run := none, stuck := true }), 0, false, ⟨false, none⟩, { user := .pass 0, addr := 0x51, proto := 5, cmd := 3, pec := true, data := [], rcount := 1 }, 0, by decide +kernel⟩, ⟨twOn 0 (fun y => { y with queue := [{ user := .clear 7, addr := 0x51, proto := 5, cmd := 3, pec := true, data := [], rcount := 1 }], run := none }), 0, false, ⟨false, some 2⟩, { user := .clear 7, addr := 0x51, proto := 5, cmd := 3, pec := true, data := [], rcount := 1 }, 7, by decide +kernel⟩⟩

/-- The hypotheses of TwoWireTrafficRuns can be met. -/
theorem witness_TwoWireTrafficRuns_3 : (∃ (s : State) (p : Fin 2) (b : Bool) (o : ClearObs) (x : TwTxn) (v : Nat), s.tw.port[p].run = none ∧ (p = 1 ∨ s.lifeOwed = false) ∧ s.twPick p = some x ∧ x.user = TwUser.clear v ∧ o.sclLow = false ∧ o.highAfter = none) ∧ (∃ (s : State) (p : Fin 2), s.tw.port[p].queue = []) ∧ (∃ (s : State) (p : Fin 2) (x : TwTxn) (v : Nat) (n : Nat), s.tw.port[p].run = some x ∧ x.user = TwUser.pass v ∧ n = 0) ∧ (∃ (s : State) (p : Fin 2) (x : TwTxn) (v : Nat) (d : List Byte) (a : Byte), s.tw.port[p].run = some x ∧ x.user = TwUser.pass v ∧ x.proto = 5 ∧ d.length = x.rcount ∧ 0 < x.rcount ∧ x.pec = true ∧ a = crc8 (x.bytes ++ d)) ∧ (∃ (s : State) (p : Fin 2) (x : TwTxn) (v : Nat) (d : List Byte) (a : Byte) (w : Nat), s.tw.port[p].run = some x ∧ x.user = TwUser.pass v ∧ x.proto = 7 ∧ d.length = x.rcount ∧ 0 < x.rcount ∧ x.rcount < w ∧ w = 255 ∧ a = 1) ∧ (∃ (s : State) (p : Fin 2) (x : TwTxn) (v : Nat) (a : Byte), s.tw.port[p].run = some x ∧ x.user = TwUser.pass v ∧ x.proto = 7 ∧ 0 < x.rcount ∧ x.pec = true ∧ a = crc8 (x.bytes ++ [0])) :=
  ⟨⟨twOn 0 (fun y => { y with queue := [{ user := .clear 7, addr := 0x51, proto := 5, cmd := 3, pec := true, data := [], rcount := 1 }], run := none }), 0, false, ⟨false, none⟩, { user := .clear 7, addr := 0x51, proto := 5, cmd := 3, pec := true, data := [], rcount := 1 }, 7, by decide +kernel⟩, ⟨running, 0, by decide +kernel⟩, ⟨twOn 0 (fun y => { y with queue := [], run := some ({ user := .pass 0, addr := 0x51, proto := 5, cmd := 3, pec := true, data := [], rcount := 1 } : TwTxn) }), 0, { user := .pass 0, addr := 0x51, proto := 5, cmd := 3, pec := true, data := [], rcount := 1 }, 0, 0, by decide +kernel⟩, ⟨twOn 0 (fun y => { y with queue := [], run := some ({ user := .pass 0, addr := 0x51, proto := 5, cmd := 3, pec := true, data := [], rcount := 1 } : TwTxn) }), 0, { user := .pass 0, addr := 0x51, proto := 5, cmd := 3, pec := true, data := [], rcount := 1 }, 0, [9], crc8 [0xA2, 3, 0xA3, 9], by decide +kernel⟩, ⟨twOn 0 (fun y => { y with queue := [], run := some ({ user := .pass 0, addr := 0x51, proto := 7, cmd := 3, pec := true, data := [], rcount := 1 } : TwTxn) }), 0, { user := .pass 0, addr := 0x51, proto := 7, cmd := 3, pec := true, data := [], rcount := 1 }, 0, [9], 1, 255, by decide +kernel⟩, ⟨twOn 0 (fun y => { y with queue := [], run := some ({ user := .pass 0, addr := 0x51, proto := 7, cmd := 3, pec := true, data := [], rcount := 1 } : TwTxn) }), 0, { user := .pass 0, addr := 0x51, proto := 7, cmd := 3, pec := true, data := [], rcount := 1 }, 0, crc8 [0xA2, 3, 0xA3, 0], by decide +kernel⟩⟩

/-- The hypotheses of TwoWireTrafficRuns can be met. -/
theorem witness_TwoWireTrafficRuns_4 : (∃ (s : State) (p : Fin 2) (e : TwEnd) (o : ClearObs) (b : Bool), s.tw.port[p].run = none ∧ e = TwEnd.nack 0 ∧ o = ⟨false, none⟩ ∧ b = true) ∧ (∃ (s : State) (p : Fin 2) (x : TwTxn) (v : Nat), s.tw.port[p].run = some x ∧ x.user = TwUser.pass v) ∧ (∃ (s : State) (p : Fin 2) (o : ClearObs), s.tw.port[p].run = none ∧ o = ⟨true, none⟩) ∧ (∃ (s : State) (p : Fin 2) (b : Bool), s.tw.port[p].stuck = true ∧ b = false) ∧ (∃ (s : State) (p : Fin 2) (x : TwTxn) (v : Nat), s.tw.port[p].run = none ∧ s.twPick p = some x ∧ x.user = TwUser.pass v ∧ (s.sys.timeUs - s.tw.port[p].wantSince).toNat = 50001) ∧ (∃ (s : State) (p : Fin 2), s.tw.port[p].cfg.getLsbD 16 = true ∧ (∀ x ∈ s.tw.port[p].queue, x.user ≠ TwUser.alert) ∧ (∀ x ∈ s.tw.port[p].run, x.user ≠ TwUser.alert)) :=
  ⟨⟨running, 0, .nack 0, ⟨false, none⟩, true, by decide +kernel⟩, ⟨twOn 0 (fun y => { y with queue := [], run := some ({ user := .pass 0, addr := 0x51, proto := 5, cmd := 3, pec := true, data := [], rcount := 1 } : TwTxn) }), 0, { user := .pass 0, addr := 0x51, proto := 5, cmd := 3, pec := true, data := [], rcount := 1 }, 0, by decide +kernel⟩, ⟨running, 0, ⟨true, none⟩, by decide +kernel⟩, ⟨stuckPort 0 running, 0, false, by decide +kernel⟩, ⟨{ twOn 0 (fun y => { y with queue := [{ user := .pass 0, addr := 0x51, proto := 5, cmd := 3, pec := true, data := [], rcount := 1 }], run := none }) with sys := { running.sys with timeUs := 50001 } }, 0, { user := .pass 0, addr := 0x51, proto := 5, cmd := 3, pec := true, data := [], rcount := 1 }, 0, by decide +kernel⟩, ⟨twOn 1 (fun y => { y with queue := [{ user := .pass 0, addr := 0x51, proto := 5, cmd := 3, pec := true, data := [], rcount := 1 }], run := none }), 1, by decide +kernel⟩⟩

/-- The hypotheses of TwoWireTrafficRuns can be met. -/
theorem witness_TwoWireTrafficRuns_5 : (∃ (s : State) (p : Fin 2), s.tw.port[p].cfg.getLsbD 16 = false) ∧ (∃ (s : State) (p : Fin 2) (x : TwTxn) (a : Byte) (e : TwEnd), s.tw.port[p].run = some x ∧ x.user = TwUser.alert ∧ x.proto = 3 ∧ x.rcount = 1 ∧ s.tw.port[p].alertTimes = [] ∧ x.pec = true ∧ e = .ok [a, crc8 (x.bytes ++ [a])] ∧ p = 0) ∧ (∃ (s : State) (p : Fin 2) (x : TwTxn) (a : Byte) (e : TwEnd), s.tw.port[p].run = some x ∧ x.user = TwUser.alert ∧ x.proto = 3 ∧ x.rcount = 1 ∧ s.tw.port[p].alertTimes = [] ∧ x.pec = true ∧ e = .ok [a, crc8 (x.bytes ++ [a])] ∧ p = 1 ∧ a >>> 1 = s.cred.cfg.bodyAddr.setWidth 8) ∧ (∃ (s : State) (p : Fin 2) (x : TwTxn), s.tw.port[p].run = some x ∧ x.user = TwUser.alert ∧ 10 ≤ (s.tw.port[p].alertTimes.filter fun v => decide ((s.sys.timeUs - v).toNat < 1000000)).length) ∧ (∃ (s : State) (x : TwTxn) (d : List Byte), s.tw.port[(1 : Fin 2)].run = some x ∧ x.user = TwUser.body ∧ x.proto = 7 ∧ x.rcount = 12 ∧ d.length = 12 ∧ s.pwr.st = .run) ∧ (∃ (s : State) (x : TwTxn) (d : List Byte) (w : Nat), s.tw.port[(1 : Fin 2)].run = some x ∧ x.user = TwUser.body ∧ x.proto = 7 ∧ x.rcount = 12 ∧ w = 13 ∧ d.length = 12) :=
  ⟨⟨twOn 0 (fun y => { y with cfg := 0 }), 0, by decide +kernel⟩, ⟨twOn 0 (fun y => { y with queue := [], run := some ({ user := .alert, addr := 0x51, proto := 3, cmd := 3, pec := true, data := [], rcount := 1 } : TwTxn) }), 0, { user := .alert, addr := 0x51, proto := 3, cmd := 3, pec := true, data := [], rcount := 1 }, 0x54, .ok [0x54, crc8 [0xA3, 0x54]], by decide +kernel⟩, ⟨twOn 1 (fun y => { y with queue := [], run := some ({ user := .alert, addr := 0x51, proto := 3, cmd := 3, pec := true, data := [], rcount := 1 } : TwTxn) }), 1, { user := .alert, addr := 0x51, proto := 3, cmd := 3, pec := true, data := [], rcount := 1 }, 0x54, .ok [0x54, crc8 [0xA3, 0x54]], by decide +kernel⟩, ⟨twOn 1 (fun y => { y with queue := [], run := some ({ user := .alert, addr := 0x51, proto := 3, cmd := 3, pec := true, data := [], rcount := 1 } : TwTxn), alertTimes := List.replicate 10 0 }), 1, { user := .alert, addr := 0x51, proto := 3, cmd := 3, pec := true, data := [], rcount := 1 }, by decide +kernel⟩, ⟨twOn 1 (fun y => { y with queue := [], run := some ({ user := .body, addr := 0x51, proto := 7, cmd := 3, pec := true, data := [], rcount := 12 } : TwTxn) }), { user := .body, addr := 0x51, proto := 7, cmd := 3, pec := true, data := [], rcount := 12 }, zeros 12, by decide +kernel⟩, ⟨twOn 1 (fun y => { y with queue := [], run := some ({ user := .body, addr := 0x51, proto := 7, cmd := 3, pec := true, data := [], rcount := 12 } : TwTxn) }), { user := .body, addr := 0x51, proto := 7, cmd := 3, pec := true, data := [], rcount := 12 }, zeros 12, 13, by decide +kernel⟩⟩

/-- The hypotheses of TwoWireTrafficRuns can be met. -/
theorem witness_TwoWireTrafficRuns_6 : (∃ (s : State), s.tw.hostWakeLeft = none) ∧ (∃ (s : State), s.tw.hostWakeLeft.isSome = true) ∧ (∃ (s : State) (n : Nat), s.tw.hostWakeDue = true ∧ s.tw.hostWakeLeft = some n ∧ (s.sys.timeUs - s.tw.hostWakeAt).toNat = 2000) ∧ (∃ (s : State) (x : TwTxn) (n : Nat) (m : Nat), s.tw.port[(1 : Fin 2)].run = some x ∧ x.user = TwUser.hostWake ∧ x.proto = 4 ∧ s.tw.hostWakeLeft = some n ∧ m = 1) ∧ (∃ (s : State) (x : TwTxn) (n : Nat) (m : Nat), s.tw.port[(1 : Fin 2)].run = some x ∧ x.user = TwUser.hostWake ∧ x.proto = 4 ∧ s.tw.hostWakeLeft = some n ∧ m = 1) :=
  ⟨⟨running, by decide +kernel⟩, ⟨{ running with tw := { running.tw with hostWakeLeft := some 0 } }, by decide +kernel⟩, ⟨{ running with tw := { running.tw with hostWakeLeft := some 3, hostWakeDue := true }, sys := { running.sys with timeUs := 2000 } }, 3, by decide +kernel⟩, ⟨{ twOn 1 (fun y => { y with queue := [], run := some ({ user := .hostWake, addr := 0x51, proto := 4, cmd := 3, pec := true, data := [], rcount := 0 } : TwTxn) }) with tw := { (twOn 1 (fun y => { y with queue := [], run := some ({ user := .hostWake, addr := 0x51, proto := 4, cmd := 3, pec := true, data := [], rcount := 0 } : TwTxn) })).tw with hostWakeLeft := some 3 } }, { user := .hostWake, addr := 0x51, proto := 4, cmd := 3, pec := true, data := [], rcount := 0 }, 3, 1, by decide +kernel⟩, ⟨{ twOn 1 (fun y => { y with queue := [], run := some ({ user := .hostWake, addr := 0x51, proto := 4, cmd := 3, pec := true, data := [], rcount := 0 } : TwTxn) }) with tw := { (twOn 1 (fun y => { y with queue := [], run := some ({ user := .hostWake, addr := 0x51, proto := 4, cmd := 3, pec := true, data := [], rcount := 0 } : TwTxn) })).tw with hostWakeLeft := some 0 } }, { user := .hostWake, addr := 0x51, proto := 4, cmd := 3, pec := true, data := [], rcount := 0 }, 0, 1, by decide +kernel⟩⟩

/-- The hypotheses of CalibrationRuns can be met. -/
theorem witness_CalibrationRuns : (∃ (s : State) (a : Int) (d : Int), s.saf.safe = true ∧ a = 50 ∧ d = 41) ∧ (∃ (s : State) (a : Int) (d : Int), s.cal.cfg.getLsbD 8 = false ∧ a = 50 ∧ d = 41) ∧ (∃ (s : State) (a : Int) (d : Int) (n : Fin 4), s.saf.safe = false ∧ s.cal.cfg.getLsbD 8 = true ∧ s.cal.aRun = none ∧ s.onFio = false ∧ s.cap.hr[n].calReady = true ∧ (s.tDelta : Int) < |max a d - s.cal.aTemp[n]| ∧ (∀ j : Fin 4, j < n → s.cal.due.getLsbD j.val = false ∧ s.cal.aValid.getLsbD j.val = true ∧ |max a d - s.cal.aTemp[j]| ≤ s.tDelta)) ∧ (∃ (s : State) (a : Int) (d : Int) (n : Fin 4), s.saf.safe = false ∧ s.cal.cfg.getLsbD 8 = true ∧ s.cap.hr[n].running = false ∧ s.cal.aValid.getLsbD n.val = false ∧ a = 50 ∧ d = 41) ∧ (∃ (s : State) (c : CmdEntry) (m : Nat) (n : Fin 4) (l : List (Fin 4)), s.takes 0x0901 c = true ∧ c.bytes 24 4 = [0, byte m, 0, 0] ∧ m = 15 ∧ ((List.finRange 4).filter fun j => m.testBit j.val) = n :: l ∧ s.below 2 = false ∧ s.onFio = false ∧ (∀ j ∈ n :: l, s.cap.hr[j].running = true ∧ s.cap.hr[j].retired = 15 ∧ s.cap.hr[j].takeOver = none) ∧ (∀ j ∈ n :: l, s.cap.hr[j].failed = false) ∧ s.cal.aRun = none) ∧ (∃ (s : State) (c : CmdEntry) (m : Nat) (n : Fin 4) (l : List (Fin 4)), s.takes 0x0901 c = true ∧ c.bytes 24 4 = [0, byte m, 0, 0] ∧ m = 1 ∧ ((List.finRange 4).filter fun j => m.testBit j.val) = n :: l ∧ s.below 2 = true) :=
  ⟨⟨{ running with saf := { running.saf with safe := true } }, 50, 41, by decide +kernel⟩, ⟨{ running with cal := { running.cal with cfg := 8 } }, 50, 41, by decide +kernel⟩, ⟨{ allRuns hrOn with cal := { running.cal with aValid := 15, aTemp := #v[42, 41, 42, 42] } }, 50, 41, 1, by decide +kernel⟩, ⟨hrOn, 50, 41, 1, by decide +kernel⟩, ⟨allRuns hrOn, cmd [0, 15, 0, 0], 15, 0, [1, 2, 3], by decide +kernel⟩, ⟨{ hrOn with pwr := { running.pwr with level := 1 } }, cmd [0, 1, 0, 0], 1, 0, [], by decide +kernel⟩⟩

/-- The hypotheses of CalibrationRuns can be met. -/
theorem witness_CalibrationRuns_2 : (∃ (s : State) (c : CmdEntry) (m : Nat) (n : Fin 4) (l : List (Fin 4)), s.takes 0x0901 c = true ∧ c.bytes 24 4 = [0, byte m, 0, 0] ∧ m = 1 ∧ ((List.finRange 4).filter fun j => m.testBit j.val) = n :: l ∧ s.below 2 = false ∧ s.onFio = false ∧ (∀ j ∈ n :: l, s.cap.hr[j].running = true ∧ s.cap.hr[j].retired = 15 ∧ s.cap.hr[j].takeOver = none) ∧ (∃ j ∈ n :: l, s.cap.hr[j].failed = true)) ∧ (∃ (s : State) (c : CmdEntry) (m : Nat) (n : Fin 4) (l : List (Fin 4)), s.takes 0x0901 c = true ∧ c.bytes 24 4 = [0, byte m, 0, 0] ∧ m = 1 ∧ ((List.finRange 4).filter fun j => m.testBit j.val) = n :: l ∧ s.below 2 = false ∧ s.onFio = false ∧ (∀ j ∈ n :: l, s.cap.hr[j].running = true ∧ s.cap.hr[j].retired = 15 ∧ s.cap.hr[j].takeOver = none) ∧ (∀ j ∈ n :: l, s.cap.hr[j].failed = false) ∧ s.cal.aRun.isSome = true) ∧ (∃ (s : State) (c : CmdEntry) (m : Nat) (n : Fin 4) (l : List (Fin 4)), s.takes 0x0901 c = true ∧ c.bytes 24 4 = [0, byte m, 0, 0] ∧ m = 8 ∧ ((List.finRange 4).filter fun j => m.testBit j.val) = n :: l ∧ s.below 2 = false ∧ s.onFio = false ∧ (∃ j ∈ n :: l, s.cap.hr[j].running = false)) ∧ (∃ (s : State) (c : CmdEntry) (m : Nat), s.takes 0x0901 c = true ∧ c.bytes 24 4 = [1, byte m, 0, 0] ∧ m = 1 ∧ s.below 1 = false ∧ s.onFio = false ∧ s.cal.bRun = none) ∧ (∃ (s : State) (c : CmdEntry) (m : Nat), s.takes 0x0901 c = true ∧ c.bytes 24 4 = [1, byte m, 0, 0] ∧ m = 7 ∧ s.below 1 = false ∧ s.onFio = false ∧ s.cal.bRun = none ∧ pageValid s.acc.regPage = true) ∧ (∃ (s : State) (c : CmdEntry) (m : Nat), s.takes 0x0901 c = true ∧ c.bytes 24 4 = [1, byte m, 0, 0] ∧ m = 7 ∧ s.below 1 = true) :=
  ⟨⟨hrOn.modHr 0 (fun h => { h with failed := true }), cmd [0, 1, 0, 0], 1, 0, [], by decide +kernel⟩, ⟨aRunOn { hr := 0, lane := 8, repeats := 0, startTj := 50, found := [], slot := none, rest := [], stored := 0, suspect := 0 }, cmd [0, 1, 0, 0], 1, 0, [], by decide +kernel⟩, ⟨hrOn, cmd [0, 8, 0, 0], 8, 3, [], by decide +kernel⟩, ⟨running, cmd [1, 1, 0, 0], 1, by decide +kernel⟩, ⟨synthOn goodPage 5, cmd [1, 7, 0, 0], 7, by decide +kernel, by decide +kernel, rfl, by decide +kernel, by decide +kernel, by decide +kernel, goodPage_ok⟩, ⟨{ running with pwr := { running.pwr with level := 0 } }, cmd [1, 7, 0, 0], 7, by decide +kernel⟩⟩

/-- The hypotheses of CalibrationRuns can be met. -/
theorem witness_CalibrationRuns_3 : (∃ (s : State) (c : CmdEntry) (m : Nat), s.takes 0x0901 c = true ∧ c.bytes 24 4 = [1, byte m, 0, 0] ∧ m = 7 ∧ s.below 1 = false ∧ s.onFio = false ∧ s.cal.bRun.isSome = true) ∧ (∃ (s : State) (c : CmdEntry) (e : CalRefObs) (f : Bool), s.takes 0x0902 c = true ∧ c.bytes 24 4 = [byte (b01 f), 0, 0, 0] ∧ s.below 2 = true ∧ e.levelMdBm = 0) ∧ (∃ (s : State) (c : CmdEntry) (e : CalRefObs) (f : Bool), s.takes 0x0902 c = true ∧ c.bytes 24 4 = [byte (b01 f), 0, 0, 0] ∧ s.below 2 = false ∧ s.onFio = false ∧ s.hrRunning = [] ∧ e.levelMdBm = 0) ∧ (∃ (s : State) (c : CmdEntry) (e : CalRefObs) (f : Bool), s.takes 0x0902 c = true ∧ c.bytes 24 4 = [byte (b01 f), 0, 0, 0] ∧ s.below 2 = false ∧ s.onFio = false ∧ s.hrRunning ≠ [] ∧ |e.levelMdBm + 30000| = 1000 ∧ |e.freqPpb| = 20000 ∧ s.cal.eolLocked = false) ∧ (∃ (s : State) (c : CmdEntry) (e : CalRefObs) (f : Bool), s.takes 0x0902 c = true ∧ c.bytes 24 4 = [byte (b01 f), 0, 0, 0] ∧ s.below 2 = false ∧ s.onFio = false ∧ s.hrRunning ≠ [] ∧ |e.levelMdBm + 30000| = 1001) ∧ (∃ (s : State) (c : CmdEntry) (e : CalRefObs) (f : Bool), s.takes 0x0902 c = true ∧ c.bytes 24 4 = [byte (b01 f), 0, 0, 0] ∧ s.below 2 = false ∧ s.onFio = false ∧ s.hrRunning ≠ [] ∧ |e.levelMdBm + 30000| ≤ 1000 ∧ |e.freqPpb| ≤ 20000 ∧ s.cal.eolLocked = true) :=
  ⟨⟨bRunOn { slot := 0, rest := [0], repeats := 0, denied := 0, suspect := 0, startTj := 50, found := [] }, cmd [1, 7, 0, 0], 7, by decide +kernel⟩, ⟨{ hrOn with pwr := { running.pwr with level := 1 } }, cmd [1, 0, 0, 0], tone (0) (0), true, by decide +kernel⟩, ⟨running, cmd [1, 0, 0, 0], tone (0) (0), true, by decide +kernel⟩, ⟨hrOn, cmd [1, 0, 0, 0], tone (-31000) (-20000), true, by decide +kernel⟩, ⟨hrOn, cmd [1, 0, 0, 0], tone (-31001) (-20000), true, by decide +kernel⟩, ⟨{ hrOn with cal := { running.cal with eolLocked := true } }, cmd [0, 0, 0, 0], tone (-30000) (0), false, by decide +kernel⟩⟩

/-- The hypotheses of CalibrationRuns can be met. -/
theorem witness_CalibrationRuns_4 : (∃ (s : State) (n : Fin 4), n ∈ s.hrRunning) ∧ (∃ (s : State) (c : CmdEntry) (f : Bool), s.takes 0x0903 c = true ∧ c.bytes 24 4 = [byte (b01 f), 0, 0, 0] ∧ s.cal.eolLocked = false) ∧ (∃ (s : State) (c : CmdEntry) (f : Bool), s.takes 0x0903 c = true ∧ c.bytes 24 4 = [byte (b01 f), 0, 0, 0] ∧ s.cal.eolLocked = true) ∧ (∃ (s : State) (o : CalAObs) (r : CalARun), s.cal.aRun = some r ∧ r.lane ≤ 8 ∧ 50 < |o.first.gain - o.second.gain| ∧ r.repeats = 2) ∧ (∃ (s : State) (o : CalAObs) (r : CalARun), s.cal.aRun = some r ∧ r.lane ≤ 8 ∧ 50 < |o.first.gain - o.second.gain| ∧ r.repeats = 3 ∧ r.slot = none) ∧ (∃ (s : State) (o : CalAObs) (r : CalARun) (k : Nat), s.cal.aRun = some r ∧ r.lane ≤ 8 ∧ 50 < |o.first.gain - o.second.gain| ∧ r.repeats = 3 ∧ r.slot = some k) :=
  ⟨⟨hrOn, 0, by decide +kernel⟩, ⟨running, cmd [1, 0, 0, 0, 1, 0, 2, 0, 3, 0, 255, 255], true, by decide +kernel⟩, ⟨{ running with cal := { running.cal with eolLocked := true } }, cmd [1, 0, 0, 0, 1, 0, 2, 0, 3, 0, 255, 255], true, by decide +kernel⟩, ⟨aRunOn { hr := 0, lane := 5, repeats := 2, startTj := 50, found := [], slot := none, rest := [], stored := 0, suspect := 0 }, calPair 310 16, { hr := 0, lane := 5, repeats := 2, startTj := 50, found := [], slot := none, rest := [], stored := 0, suspect := 0 }, by decide +kernel⟩, ⟨aRunOn { hr := 0, lane := 5, repeats := 3, startTj := 50, found := [], slot := none, rest := [], stored := 0, suspect := 0 }, calPair 310 16, { hr := 0, lane := 5, repeats := 3, startTj := 50, found := [], slot := none, rest := [], stored := 0, suspect := 0 }, by decide +kernel⟩, ⟨aRunOn { hr := 0, lane := 8, repeats := 3, startTj := 50, found := [], slot := some 4, rest := [], stored := 0, suspect := 0 }, calPair 310 16, { hr := 0, lane := 8, repeats := 3, startTj := 50, found := [], slot := some 4, rest := [], stored := 0, suspect := 0 }, 4, by decide +kernel⟩⟩

/-- The hypotheses of CalibrationRuns can be met. -/
theorem witness_CalibrationRuns_5 : (∃ (s : State) (o : CalAObs) (r : CalARun), s.cal.aRun = some r ∧ r.lane = 8 ∧ o.first = o.second ∧ CalAObs.usable o = true) ∧ (∃ (s : State) (o : CalAObs) (r : CalARun), s.cal.aRun = some r ∧ r.lane = 0 ∧ o.first = o.second ∧ CalAObs.usable o = true) ∧ (∃ (s : State) (o : CalAObs) (r : CalARun), s.cal.aRun = some r ∧ r.lane = 7 ∧ o.first = o.second ∧ CalAObs.usable o = true) ∧ (∃ (s : State) (o : CalAObs) (r : CalARun), s.cal.aRun = some r ∧ r.lane ≤ 8 ∧ o.first = o.second ∧ CalAObs.usable o = false) ∧ (∃ (o : CalAObs) (x : List (Nat × Element)), CalAObs.usableElements o = x ∧ x.length = 15) ∧ (∃ (o : CalAObs) (x : List (Nat × Element)), CalAObs.usableElements o = x ∧ x.length = 16 ∧ (x.map fun i : Nat × Element => i.2.gain).sum.natAbs ≤ 20480 ∧ (x.map fun i : Nat × Element => i.2.offset).sum.natAbs ≤ 10240 ∧ (x.map fun i : Nat × Element => i.2.skew).sum.natAbs ≤ 20480) :=
  ⟨⟨aRunOn { hr := 0, lane := 8, repeats := 0, startTj := 50, found := [], slot := none, rest := [], stored := 0, suspect := 0 }, calPair 0 16, { hr := 0, lane := 8, repeats := 0, startTj := 50, found := [], slot := none, rest := [], stored := 0, suspect := 0 }, by decide +kernel⟩, ⟨aRunOn { hr := 0, lane := 0, repeats := 0, startTj := 50, found := [], slot := none, rest := [], stored := 0, suspect := 0 }, calPair 0 16, { hr := 0, lane := 0, repeats := 0, startTj := 50, found := [], slot := none, rest := [], stored := 0, suspect := 0 }, by decide +kernel⟩, ⟨aRunOn { hr := 0, lane := 7, repeats := 0, startTj := 50, found := [], slot := none, rest := [], stored := 0, suspect := 0 }, calPair 0 16, { hr := 0, lane := 7, repeats := 0, startTj := 50, found := [], slot := none, rest := [], stored := 0, suspect := 0 }, by decide +kernel⟩, ⟨aRunOn { hr := 0, lane := 3, repeats := 0, startTj := 50, found := [], slot := none, rest := [], stored := 0, suspect := 0 }, calPair 0 15, { hr := 0, lane := 3, repeats := 0, startTj := 50, found := [], slot := none, rest := [], stored := 0, suspect := 0 }, by decide +kernel⟩, ⟨calPair 0 15, _, rfl, by decide +kernel⟩, ⟨calPair 0 16, _, rfl, by decide +kernel⟩⟩

/-- The hypotheses of CalibrationRuns can be met. -/
theorem witness_CalibrationRuns_6 : (∃ (o : CalAObs) (x : List (Nat × Element)), CalAObs.usableElements o = x ∧ x.length = 16 ∧ 20480 < (x.map fun i : Nat × Element => i.2.gain).sum.natAbs) ∧ (∃ (a : Int) (z : Nat) (y : Nat), 0 < y ∧ a.natAbs = 16 * z) ∧ (∃ (a : Int) (z : Nat) (y : Nat), 0 < y ∧ 16 * z < a.natAbs) ∧ (∃ (s : State) (o : CalAObs), s.cal.aRun = none ∧ o.first = o.second) ∧ (∃ (s : State) (r : CalARun), s.cal.aRun = some r ∧ r.lane ≠ 9) ∧ (∃ (s : State) (r : CalARun), s.cal.aRun = some r ∧ r.lane = 9 ∧ r.rest = [] ∧ r.slot = some 4) :=
  ⟨⟨{ calPair 0 0 with elements := List.replicate 16 ⟨1000, 1281, 0, 0⟩ }, _, rfl, by decide +kernel⟩, ⟨(-80 : Int), 5, 5, by decide +kernel⟩, ⟨(81 : Int), 5, 5, by decide +kernel⟩, ⟨running, calPair 0 16, by decide +kernel⟩, ⟨aRunOn { hr := 0, lane := 8, repeats := 0, startTj := 50, found := [], slot := none, rest := [], stored := 0, suspect := 0 }, { hr := 0, lane := 8, repeats := 0, startTj := 50, found := [], slot := none, rest := [], stored := 0, suspect := 0 }, by decide +kernel⟩, ⟨aRunOn { hr := 0, lane := 9, repeats := 0, startTj := 50, found := [], slot := some 4, rest := [], stored := 0, suspect := 0 }, { hr := 0, lane := 9, repeats := 0, startTj := 50, found := [], slot := some 4, rest := [], stored := 0, suspect := 0 }, by decide +kernel⟩⟩

/-- The hypotheses of CalibrationRuns can be met. -/
theorem witness_CalibrationRuns_7 : (∃ (s : State) (r : CalARun), s.cal.aRun = some r ∧ r.lane = 9 ∧ r.rest = [] ∧ r.slot = none) ∧ (∃ (s : State) (r : CalARun) (n : Fin 4) (l : List (Fin 4)), s.cal.aRun = some r ∧ r.lane = 9 ∧ r.rest = n :: l ∧ s.cap.hr[n].calReady = true) ∧ (∃ (s : State) (b : CalBObs) (q : CalBRun) (p : Fin 3) (v : List (Fin 3)), s.cal.bRun = some q ∧ q.rest = p :: v ∧ CalBObs.agree b p = false ∧ q.repeats = 2) ∧ (∃ (s : State) (b : CalBObs) (q : CalBRun) (p : Fin 3) (v : List (Fin 3)), s.cal.bRun = some q ∧ q.rest = p :: v ∧ CalBObs.agree b p = true ∧ v ≠ []) ∧ (∃ (s : State) (b : CalBObs) (q : CalBRun) (p : Fin 3) (v : List (Fin 3)), s.cal.bRun = some q ∧ q.rest = p :: v ∧ CalBObs.agree b p = false ∧ q.repeats = 3 ∧ v ≠ []) ∧ (∃ (s : State) (b : CalBObs) (q : CalBRun), s.cal.bRun = some q ∧ q.rest = [2] ∧ q.found = [] ∧ q.suspect = 0 ∧ s.acc.synthSt ≠ 3 ∧ (∀ j ∈ b.first.loops.zip b.second.loops, |j.1 - j.2| ≤ 20)) :=
  ⟨⟨aRunOn { hr := 0, lane := 9, repeats := 0, startTj := 50, found := [], slot := none, rest := [], stored := 0, suspect := 0 }, { hr := 0, lane := 9, repeats := 0, startTj := 50, found := [], slot := none, rest := [], stored := 0, suspect := 0 }, by decide +kernel⟩, ⟨allRuns (aRunOn { hr := 0, lane := 9, repeats := 0, startTj := 50, found := [], slot := some 4, rest := [1], stored := 0, suspect := 0 }), { hr := 0, lane := 9, repeats := 0, startTj := 50, found := [], slot := some 4, rest := [1], stored := 0, suspect := 0 }, 1, [], by decide +kernel⟩, ⟨bRunOn { slot := 0, rest := [0, 1], repeats := 2, denied := 0, suspect := 0, startTj := 50, found := [] }, calParts 150, { slot := 0, rest := [0, 1], repeats := 2, denied := 0, suspect := 0, startTj := 50, found := [] }, 0, [1], by decide +kernel⟩, ⟨bRunOn { slot := 0, rest := [0, 1], repeats := 2, denied := 0, suspect := 0, startTj := 50, found := [] }, calParts 0, { slot := 0, rest := [0, 1], repeats := 2, denied := 0, suspect := 0, startTj := 50, found := [] }, 0, [1], by decide +kernel⟩, ⟨bRunOn { slot := 0, rest := [0, 1], repeats := 3, denied := 0, suspect := 0, startTj := 50, found := [] }, calParts 150, { slot := 0, rest := [0, 1], repeats := 3, denied := 0, suspect := 0, startTj := 50, found := [] }, 0, [1], by decide +kernel⟩, ⟨bRunOn { slot := 0, rest := [2], repeats := 0, denied := 0, suspect := 0, startTj := 50, found := [] }, calParts 0, { slot := 0, rest := [2], repeats := 0, denied := 0, suspect := 0, startTj := 50, found := [] }, by decide +kernel⟩⟩

/-- The hypotheses of CalibrationRuns can be met. -/
theorem witness_CalibrationRuns_8 : (∃ (s : State) (b : CalBObs) (q : CalBRun), s.cal.bRun = some q ∧ q.rest = [0] ∧ q.found = [] ∧ CalBObs.agree b 0 = true) ∧ (∃ (s : State) (b : CalBObs) (q : CalBRun) (p : Fin 3), s.cal.bRun = some q ∧ q.rest = [p] ∧ q.found = [] ∧ CalBObs.agree b p = false ∧ q.repeats = 3) ∧ (∃ (b : CalBObs), CalBObs.agree b 2 = true) ∧ (∃ (b : CalBObs), CalBObs.agree b 0 = true) ∧ (∃ (b : CalBObs), CalBObs.agree b 1 = true) ∧ (∃ (s : State) (b : CalBObs), s.cal.bRun = none ∧ b.first ≠ b.second) :=
  ⟨⟨bRunOn { slot := 0, rest := [0], repeats := 0, denied := 0, suspect := 0, startTj := 50, found := [] }, calParts 0, { slot := 0, rest := [0], repeats := 0, denied := 0, suspect := 0, startTj := 50, found := [] }, by decide +kernel⟩, ⟨bRunOn { slot := 0, rest := [1], repeats := 3, denied := 0, suspect := 0, startTj := 50, found := [] }, calParts 150, { slot := 0, rest := [1], repeats := 3, denied := 0, suspect := 0, startTj := 50, found := [] }, 1, by decide +kernel⟩, ⟨calParts 0, by decide +kernel⟩, ⟨calParts 0, by decide +kernel⟩, ⟨calParts 0, by decide +kernel⟩, ⟨running, calParts 150, by decide +kernel⟩⟩

/-- The hypotheses of HciEntriesReachTheController can be met. -/
theorem witness_HciEntriesReachTheController : (∃ (s : State) (e : HciEntry) (k : HciObs), s.pairRuns 0 = true ∧ s.sys.recovery = false ∧ s.ringUp 3 = true ∧ s.host.rings[3].used ≠ 0 ∧ s.accWaiting = [] ∧ s.host.hciWaiting = [] ∧ e.type = 3 ∧ k.reply = []) ∧ (∃ (s : State) (e : HciEntry) (k : HciObs), s.pairRuns 0 = true ∧ s.sys.recovery = false ∧ s.ringUp 3 = true ∧ s.host.rings[3].used ≠ 0 ∧ s.accWaiting = [] ∧ s.host.hciWaiting = [] ∧ e.type = 1 ∧ e.len.toNat = 269 ∧ k.reply = []) ∧ (∃ (s : State) (e : HciEntry) (k : HciObs), s.sys.recovery = true ∧ e.type = 1 ∧ k.reply = []) ∧ (∃ (s : State) (e : HciEntry) (k : HciObs), s.pairRuns 0 = true ∧ s.sys.recovery = false ∧ s.ringUp 3 = true ∧ s.host.rings[3].used ≠ 0 ∧ s.accWaiting ≠ [] ∧ e.type = 1 ∧ k.reply = []) ∧ (∃ (s : State) (n : Nat), n ∈ s.accWaiting) ∧ (∃ (s : State), s.host.rings[3].used ≠ 0 ∧ s.host.shadowEn = false) :=
  ⟨⟨hciRing running, ⟨3, 3, [1, 2, 0]⟩, noReply, by decide +kernel⟩, ⟨hciRing running, ⟨269, 1, []⟩, noReply, by decide +kernel⟩, ⟨{ running with sys := { running.sys with recovery := true } }, ⟨3, 1, [1, 2, 0]⟩, noReply, by decide +kernel⟩, ⟨{ hciRing running with host := { (hciRing running).host with outstanding := [⟨0x0701, .dispatched, { cmd [] with id := 3 }⟩] } }, ⟨3, 1, [3, 12, 0]⟩, noReply, by decide +kernel⟩, ⟨{ running with host := { running.host with outstanding := [⟨0x0701, .dispatched, { cmd [] with id := 3 }⟩] } }, 3, by decide +kernel⟩, ⟨hciRing running, by decide +kernel⟩⟩

/-- The hypotheses of HciEntriesReachTheController can be met. -/
theorem witness_HciEntriesReachTheController_2 : (∃ (s : State) (e : HciEntry) (k : HciObs) (p : List Byte) (o : Nat) (l : List Byte), s.pairRuns 0 = true ∧ s.sys.recovery = false ∧ s.ringUp 3 = true ∧ s.host.rings[3].used ≠ 0 ∧ s.accWaiting = [] ∧ s.host.hciWaiting = [] ∧ e.type = 1 ∧ 3 ≤ e.len.toNat ∧ e.len.toNat ≤ 268 ∧ e.packet.take e.len.toNat = p ∧ p = leBytes 2 o ++ [byte l.length] ++ l ∧ l.length ≤ 255 ∧ o = 0x200A ∧ k.reply = []) ∧ (∃ (s : State) (e : HciEntry) (k : HciObs) (p : List Byte) (o : Nat) (l : List Byte), s.pairRuns 0 = true ∧ s.sys.recovery = false ∧ s.ringUp 3 = true ∧ s.host.rings[3].used ≠ 0 ∧ s.accWaiting = [] ∧ s.host.hciWaiting = [] ∧ e.type = 1 ∧ 3 ≤ e.len.toNat ∧ e.len.toNat ≤ 268 ∧ e.packet.take e.len.toNat = p ∧ p = leBytes 2 o ++ [byte l.length] ++ l ∧ l.length ≤ 255 ∧ o = 0xFE00 ∧ opRow (0x0700 + o % 256) = none ∧ k.reply = []) ∧ (∃ (s : State) (e : HciEntry) (k : HciObs) (p : List Byte) (o : Nat) (l : List Byte) (row : OpRow), s.pairRuns 0 = true ∧ s.sys.recovery = false ∧ s.ringUp 3 = true ∧ s.host.rings[3].used ≠ 0 ∧ s.accWaiting = [] ∧ s.host.hciWaiting = [] ∧ e.type = 1 ∧ 3 ≤ e.len.toNat ∧ e.len.toNat ≤ 268 ∧ e.packet.take e.len.toNat = p ∧ p = leBytes 2 o ++ [byte l.length] ++ l ∧ l.length ≤ 255 ∧ o = 0xFE11 ∧ opRow (0x0700 + o % 256) = some row ∧ l = [0, 0, 0, 0] ∧ s.acc.accTx = none ∧ k.reply = []) ∧ (∃ (s : State) (e : HciEntry) (k : HciObs) (p : List Byte) (o : Nat) (l : List Byte) (row : OpRow), s.pairRuns 0 = true ∧ s.sys.recovery = false ∧ s.ringUp 3 = true ∧ s.host.rings[3].used ≠ 0 ∧ s.accWaiting = [] ∧ s.host.hciWaiting = [] ∧ e.type = 1 ∧ 3 ≤ e.len.toNat ∧ e.len.toNat ≤ 268 ∧ e.packet.take e.len.toNat = p ∧ p = leBytes 2 o ++ [byte l.length] ++ l ∧ l.length ≤ 255 ∧ o = 0xFE14 ∧ opRow (0x0700 + o % 256) = some row ∧ l = [0, 0, 0, 0] ∧ k.reply = []) ∧ (∃ (s : State) (e : HciEntry) (k : HciObs) (p : List Byte) (o : Nat), s.pairRuns 0 = true ∧ s.sys.recovery = false ∧ s.ringUp 3 = true ∧ s.host.rings[3].used ≠ 0 ∧ s.accWaiting = [] ∧ s.host.hciWaiting = [] ∧ e.type = 1 ∧ e.len.toNat = 4 ∧ e.packet.take e.len.toNat = p ∧ leNat (p.take 2) = o ∧ (p.getD 2 0).toNat ≠ p.length - 3 ∧ k.reply = []) ∧ (∃ (s : State) (e : HciEntry) (p : List Byte), s.pairRuns 0 = true ∧ s.sys.recovery = false ∧ s.ringUp 3 = true ∧ s.host.rings[3].used ≠ 0 ∧ s.accWaiting = [] ∧ s.host.hciWaiting = [] ∧ e.type = 2 ∧ e.len.toNat = 268 ∧ e.packet.take e.len.toNat = p) :=
  ⟨⟨hciRing running, ⟨4, 1, [0x0A, 0x20, 1, 1]⟩, noReply, [0x0A, 0x20, 1, 1], 0x200A, [1], by decide +kernel⟩, ⟨hciRing running, ⟨3, 1, [0, 0xFE, 0]⟩, noReply, [0, 0xFE, 0], 0xFE00, [], by decide +kernel⟩, ⟨hciRing running, ⟨7, 1, [0x11, 0xFE, 4, 0, 0, 0, 0]⟩, noReply, [0x11, 0xFE, 4, 0, 0, 0, 0], 0xFE11, [0, 0, 0, 0], ⟨4, [.none]⟩, by decide +kernel⟩, ⟨hciRing running, ⟨7, 1, [0x14, 0xFE, 4, 0, 0, 0, 0]⟩, noReply, [0x14, 0xFE, 4, 0, 0, 0, 0], 0xFE14, [0, 0, 0, 0], .writes 4 128, by decide +kernel⟩, ⟨hciRing running, ⟨4, 1, [0x0A, 0x20, 2, 1]⟩, noReply, [0x0A, 0x20, 2, 1], 0x200A, by decide +kernel⟩, ⟨hciRing running, ⟨268, 2, zeros 268⟩, zeros 268, by decide +kernel⟩⟩

/-- The hypotheses of HciEntriesReachTheController can be met. -/
theorem witness_HciEntriesReachTheController_3 : (∃ (s : State) (o : Nat), s.pwr.st = .limp ∧ o = 0) ∧ (∃ (s : State) (o : Nat), s.pwr.st ≠ .limp ∧ s.below 1 = false ∧ pageValid s.acc.regPage = false ∧ o = 0) ∧ (∃ (s : State) (o : Nat), s.pwr.st ≠ .limp ∧ s.below 1 = false ∧ pageValid s.acc.regPage = true ∧ s.chAllowed (Fin.ofNat 81 (rfChannel 37)) = true ∧ o = 0) ∧ (∃ (s : State) (o : Nat) (x : Byte × List Byte), x ∉ s.acc.acceptList ∧ s.acc.acceptList.length = 15 ∧ x ∉ s.acc.resolvList ∧ s.acc.resolvList.length = 15 ∧ o = 0) ∧ (∃ (s : State) (o : Nat) (x : Byte × List Byte), x ∉ s.acc.acceptList ∧ s.acc.acceptList.length = 16 ∧ x ∉ s.acc.resolvList ∧ s.acc.resolvList.length = 16 ∧ o = 0) ∧ (∃ (s : State) (o : Nat) (b : Byte), b ∉ s.acc.advSets ∧ s.acc.advSets.length = 3 ∧ o = 0) :=
  ⟨⟨{ running with pwr := { running.pwr with st := .limp } }, 0, by decide +kernel⟩, ⟨running, 0, by decide +kernel⟩, ⟨synthOn goodPage 5, 0, by decide +kernel, by decide +kernel, goodPage_ok, by decide +kernel, rfl⟩, ⟨listsOn 15, 0, (1, []), by decide +kernel⟩, ⟨listsOn 16, 0, (1, []), by decide +kernel⟩, ⟨{ running with acc := { running.acc with advSets := [1, 2, 3] } }, 0, 9, by decide +kernel⟩⟩

/-- The hypotheses of HciEntriesReachTheController can be met. -/
theorem witness_HciEntriesReachTheController_4 : (∃ (s : State) (o : Nat) (b : Byte), b ∉ s.acc.advSets ∧ s.acc.advSets.length = 4 ∧ o = 0) ∧ (∃ (s : State) (m : Int) (y : Fin 4), -127 ≤ m ∧ s.reachable m y ≠ -127) ∧ (∃ (s : State) (o : Nat), s.startRefused dataChans = none ∧ s.cred.flow = none ∧ s.acc.conns.length < 8 ∧ o = 0) ∧ (∃ (s : State) (o : Nat), s.startRefused dataChans = none ∧ s.cred.flow = none ∧ s.acc.conns.length = 8 ∧ o = 0) ∧ (∃ (s : State) (o : Nat) (h : BitVec 16), s.cred.flow = none ∧ (∃ g ∈ s.acc.conns, g.handle = h) ∧ o = 0) ∧ (∃ (s : State) (o : Nat) (h : BitVec 16), (∀ g ∈ s.acc.conns, g.handle ≠ h) ∧ s.acc.conns ≠ [] ∧ o = 0) :=
  ⟨⟨{ running with acc := { running.acc with advSets := [1, 2, 3, 4] } }, 0, 9, by decide +kernel⟩, ⟨running, (5 : Int), 0, by decide +kernel⟩, ⟨pageOn [], 0, goodStart [] _, rfl, by decide +kernel, rfl ⟩, ⟨pageOn (List.replicate 8 ⟨1, none, [], 0, 27, false⟩), 0, goodStart _ _, rfl, by decide +kernel, rfl ⟩, ⟨{ running with acc := { running.acc with conns := [⟨1, none, [], 0, 27, false⟩] } }, 0, 1, by decide +kernel⟩, ⟨{ running with acc := { running.acc with conns := [⟨1, none, [], 0, 27, false⟩] } }, 0, 2, by decide +kernel⟩⟩

/-- The hypotheses of HciEntriesReachTheController can be met. -/
theorem witness_HciEntriesReachTheController_5 : (∃ (s : State) (o : Nat) (h : BitVec 16) (z : Conn), (s.acc.conns.find? fun g => decide (g.handle = h)) = some z ∧ z.rssi = [-120, -121] ∧ o = 0) ∧ (∃ (a : Int) (n : Nat), -127 ≤ a ∧ a = 20 ∧ n = 7) ∧ (∃ (s : State) (o : Nat) (f : Flow), s.cred.flow = some f ∧ f.step = .ranging ∧ o = 0) ∧ (∃ (s : State) (o : Nat), s.cred.flow = none ∧ s.startRefused (dataChans ++ [37, 38, 39]) = none ∧ o = 0) ∧ (∃ (s : State), s.pairRuns 0 = true ∧ s.sys.recovery = false ∧ s.ringUp 3 = true ∧ s.host.rings[3].used ≠ 0 ∧ s.accWaiting = [] ∧ s.host.hciWaiting = [] ∧ s.acc.hostCs = false ∧ s.acc.listening = true) ∧ (∃ (s : State), s.pairRuns 0 = true ∧ s.sys.recovery = false ∧ s.ringUp 3 = true ∧ s.host.rings[3].used ≠ 0 ∧ s.accWaiting = [] ∧ s.host.hciWaiting = [] ∧ s.acc.hostCs = false ∧ s.acc.listening = false ∧ s.cred.flow = none) :=
  ⟨⟨{ running with acc := { running.acc with conns := [⟨1, none, [-120, -121], 0, 27, false⟩] } }, 0, 1, ⟨1, none, [-120, -121], 0, 27, false⟩, by decide +kernel⟩, ⟨20, 7, by decide +kernel⟩, ⟨flowOn (flowZero .ranging false false), 0, flowZero .ranging false false, by decide +kernel⟩, ⟨pageOn [], 0, rfl, goodStart [] _, rfl ⟩, ⟨hciRing { running with acc := { running.acc with listening := true, rxOpen := true } }, by decide +kernel⟩, ⟨hciRing { running with acc := { running.acc with rxOpen := true } }, by decide +kernel⟩⟩

/-- The hypotheses of HciEntriesReachTheController can be met. -/
theorem witness_HciEntriesReachTheController_6 : (∃ (s : State) (i : Byte) (j : Byte), (s.evt.rate.find? fun x : RateRec => x.is i.toNat j.toNat) = none) ∧ (∃ (s : State) (i : Byte) (j : Byte) (g : RateRec), (s.evt.rate.find? fun x : RateRec => x.is i.toNat j.toNat) = some g ∧ g.held = false) ∧ (∃ (s : State) (i : Byte) (j : Byte) (g : RateRec), (s.evt.rate.find? fun x : RateRec => x.is i.toNat j.toNat) = some g ∧ g.held = true) :=
  ⟨⟨running, 41, 2, by decide +kernel⟩, ⟨rateOn false, 41, 2, ⟨41, 2, false, 7, 1, 5, []⟩, by decide +kernel⟩, ⟨rateOn true, 41, 2, ⟨41, 2, true, 7, 1, 5, []⟩, by decide +kernel⟩⟩

/-- Hypotheses of MaskedEventsOnlyAdvanceSeq, clause by clause. -/
theorem witness_MaskedEventsOnlyAdvanceSeq_clauses : ∃ (s : State) (src : Nat), s.srcMasked src = true :=
  ⟨{ State.reset with evt := { State.reset.evt with mask := #v[0x20, 0, 0] } }, 5, by decide +kernel⟩

/-- Hypotheses of CompletionsAreNeverDropped, clause by clause. -/
theorem witness_CompletionsAreNeverDropped_clauses : (∃ (s : State), s.hostUp = true ∧ (s.host.rings[1].en && decide (0 < s.host.rings[1].free) && s.host.held.isEmpty) = true) ∧ (∃ (s : State), s.hostUp = true ∧ (s.host.rings[1].en && decide (0 < s.host.rings[1].free) && s.host.held.isEmpty) = false) ∧ (∃ (s : State), s.hostUp = false) :=
  ⟨⟨running, by decide +kernel⟩, ⟨running.modRing 1 fun r => { r with en := false }, by decide +kernel⟩, ⟨State.reset, by decide +kernel⟩⟩

/-- Hypotheses of HopperChecksDecideFirst, clause by clause. -/
theorem witness_HopperChecksDecideFirst_clauses : (∃ (s : State) (o : OutCmd) (l : List OutCmd), s.host.outstanding = o :: l ∧ o.phase = .held ∧ s.mustWait o.opcode.toNat o.entry = false) ∧ (∃ (s : State) (o : OutCmd) (l : List OutCmd), s.host.outstanding = o :: l ∧ o.phase = .held ∧ s.mustWait o.opcode.toNat o.entry = true) ∧ (∃ (s : State) (id : Nat) (c : Completion), s.ringUp 1 = true ∧ 0 < s.host.rings[1].free ∧ s.host.held = [(id, c)]) :=
  ⟨⟨outOn [⟨0x0100, .held, cmd []⟩, ⟨0x0101, .waiting, cmd []⟩] running, ⟨0x0100, .held, cmd []⟩, [⟨0x0101, .waiting, cmd []⟩], by decide +kernel⟩, ⟨outOn [⟨0x0100, .held, { cmd [] with flags := 1, id := 1 }⟩, ⟨0x0100, .waiting, cmd []⟩] running, ⟨0x0100, .held, { cmd [] with flags := 1, id := 1 }⟩, [⟨0x0100, .waiting, cmd []⟩], by decide +kernel⟩, ⟨{ running with host := { running.host with held := [(5, mkCompletion 0x0100 (cmd []) .ok 0 [] 0)], outstanding := [⟨0x100, .completing, { cmd [] with id := 5 }⟩] } }, 5, mkCompletion 0x0100 (cmd []) .ok 0 [] 0, by decide +kernel⟩⟩

/-- Hypotheses of RingSettingsAreChecked, clause by clause. -/
theorem witness_RingSettingsAreChecked_clauses : (∃ (v : W), v.getLsbD 0 = false) ∧ (∃ (n : Nat), 5 ≤ n ∧ n ≤ 7) ∧ (∃ (n : Nat), 8 ≤ n) :=
  ⟨⟨0x46, by decide +kernel⟩, ⟨5, by decide +kernel⟩, ⟨8, by decide +kernel⟩⟩

/-- Hypotheses of RingProcessingStopsAndResumes, clause by clause. -/
theorem witness_RingProcessingStopsAndResumes_clauses : (∃ (s : State) (c : Fin 256) (u : Unit1) (rest : List Unit1), s.svc.ctx[c].staged = u :: rest ∧ u.written ≠ 0 ∧ u.mot = none) ∧ (∃ (s : State) (c : Fin 256) (u : Unit1) (rest : List Unit1), s.svc.ctx[c].staged = u :: rest ∧ u.written ≠ 0 ∧ u.mot ≠ none) ∧ (∃ (x : Ctx), x.staged = []) ∧ (∃ (x : Ctx) (v : Unit1) (l : List Unit1), x.staged = v :: l) ∧ (∃ (s : State) (c : Fin 256) (u : Unit1) (rest : List Unit1), s.svc.ctx[c].staged = u :: rest ∧ u.written = 0) :=
  ⟨⟨State.reset.modCtx 0 fun x => { x with staged := [stagedUnit 64 (none), stagedUnit 0 (none)] }, 0, stagedUnit 64 (none), [stagedUnit 0 (none)], by decide +kernel⟩, ⟨State.reset.modCtx 0 fun x => { x with staged := [stagedUnit 64 (some 5)] }, 0, stagedUnit 64 (some 5), [], by decide +kernel⟩, ⟨{}, by decide +kernel⟩, ⟨{ ({} : Ctx) with staged := [stagedUnit 0 (none)] }, stagedUnit 0 (none), [], by decide +kernel⟩, ⟨State.reset.modCtx 0 fun x => { x with staged := [stagedUnit 0 (none)] }, 0, stagedUnit 0 (none), [], by decide +kernel⟩⟩

/-- Hypotheses of HostMemoryErrorsAreReported, clause by clause. -/
theorem witness_HostMemoryErrorsAreReported_clauses : ∃ (c : CmdEntry), c.slot ≠ hciSlot ∧ c.bufErr = true :=
  ⟨{ cmd [] with bufErr := true, bufAddr := 64 }, by decide +kernel⟩

/-- Hypotheses of RegisterWritesFollowTheirAccess, clause by clause. -/
theorem witness_RegisterWritesFollowTheirAccess_clauses : ∃ (s : State) (n : Fin 32), s.awake = true ∧ 8 ≤ n.val :=
  ⟨running, 8, by decide +kernel⟩

/-- Hypotheses of RegisterEventsTakeEffect, clause by clause. -/
theorem witness_RegisterEventsTakeEffect_clauses : ∃ (s : State) (n : Fin 16), s.dma.ch[n].st = .running :=
  ⟨running.modCh 3 fun x => { x with st := .running }, 3, by decide +kernel⟩

/-- Hypotheses of PowerCommandsComplete, clause by clause. -/
theorem witness_PowerCommandsComplete_clauses : (∃ (s : State) (c : CmdEntry) (t : _), s.takes 0x0801 c = true ∧ s.pwr.trans = none ∧ s.pwr.undone = none ∧ s.pwr.st = .run ∧ c.bytes 24 4 = [byte t, 0, 0, 0] ∧ t < 4 ∧ s.levelFor (BitVec.ofNat 2 t) = s.pwr.level) ∧ (∃ (s : State) (c : CmdEntry) (t : _), s.takes 0x0801 c = true ∧ s.pwr.trans = none ∧ s.pwr.undone = none ∧ s.pwr.st = .run ∧ c.bytes 24 4 = [byte t, 0, 0, 0] ∧ t < 4 ∧ (s.levelFor (BitVec.ofNat 2 t)).toNat < s.pwr.level.toNat ∧ (s.taken 0x0801 c).levelRefuser (s.levelFor (BitVec.ofNat 2 t)) = none) ∧ (∃ (s : State) (c : CmdEntry) (t : _), s.takes 0x0801 c = true ∧ s.pwr.trans = none ∧ s.pwr.undone = none ∧ s.pwr.st = .run ∧ c.bytes 24 4 = [byte t, 0, 0, 0] ∧ t < 4 ∧ s.pwr.level.toNat < (s.levelFor (BitVec.ofNat 2 t)).toNat) ∧ (∃ (s : State) (c : CmdEntry) (t : _) (k : _) (i : _), s.takes 0x0801 c = true ∧ s.pwr.trans = none ∧ s.pwr.undone = none ∧ s.pwr.st = .run ∧ c.bytes 24 4 = [byte t, 0, 0, 0] ∧ t < 4 ∧ (s.levelFor (BitVec.ofNat 2 t)).toNat < s.pwr.level.toNat ∧ (s.taken 0x0801 c).levelRefuser (s.levelFor (BitVec.ofNat 2 t)) = some (k, i)) ∧ (∃ (s : State) (c : CmdEntry) (t : _), s.takes 0x0802 c = true ∧ s.pwr.trans = none ∧ s.pwr.undone = none ∧ s.pwr.st = .run ∧ c.bytes 24 4 = [byte t, 0, 0, 0] ∧ 1 ≤ t ∧ t ≤ 5 ∧ (s.taken 0x0802 c).sleepRefuser (BitVec.ofNat 3 t) (some c.id) = none) ∧ (∃ (s : State) (c : CmdEntry) (t : _) (k : _) (i : _), s.takes 0x0802 c = true ∧ s.pwr.trans = none ∧ s.pwr.undone = none ∧ s.pwr.st = .run ∧ c.bytes 24 4 = [byte t, 0, 0, 0] ∧ 1 ≤ t ∧ t ≤ 5 ∧ (s.taken 0x0802 c).sleepRefuser (BitVec.ofNat 3 t) (some c.id) = some (k, i)) :=
  ⟨⟨running, cmd [3, 0, 0, 0], 3, by decide +kernel⟩, ⟨running, cmd [0, 0, 0, 0], 0, by decide +kernel⟩, ⟨{ running with pwr := { running.pwr with level := 1 } }, cmd [3, 0, 0, 0], 3, by decide +kernel⟩, ⟨running.modHr 0 (fun h => { h with running := true }), cmd [0, 0, 0, 0], 0, 5, 0, by decide +kernel⟩, ⟨running, cmd [5, 0, 0, 0], 5, by decide +kernel⟩, ⟨running.modHr 0 (fun h => { h with running := true }), cmd [1, 0, 0, 0], 1, 5, 0, by decide +kernel⟩⟩

/-- Hypotheses of LevelChangesFollowThePmic, clause by clause. -/
theorem witness_LevelChangesFollowThePmic_clauses : (∃ (s : State) (mv : Nat) (core : _) (mon : _), s.pwr.pmicWait = some mv ∧ mv ≠ 0 ∧ s.tw.voltDue = none ∧ s.voltSent = true ∧ (core && mon) = false) ∧ (∃ (s : State), s.pwr.pmicWait = none) ∧ (∃ (s : State) (x : _), s.pwr.capped = false ∧ s.lasted s.pwr.hotSince 100000 = true ∧ s.pwr.trans = some x) :=
  ⟨⟨levelChange true, 880, true, false, by decide +kernel⟩, ⟨running, by decide +kernel⟩, ⟨hot (levelChange true), .level 3 true none, by decide +kernel⟩⟩

/-- Hypotheses of WakesAndPendingTargets, clause by clause. -/
theorem witness_WakesAndPendingTargets_clauses : (∃ (s : State), (s.saf.safe = true ∨ s.pwr.st = .limp)) ∧ (∃ (s : State) (a : _), s.pwr.alarm = some a ∧ s.pwr.st = .run ∧ s.pwr.trans = none) ∧ (∃ (s : State) (t : _) (slot : _), s.pwr.st = .run ∧ s.pwr.trans = none ∧ s.pwr.pending = some (.sleep t slot) ∧ s.sleepRefuser t slot = none) ∧ (∃ (s : State) (t : _) (slot : _), s.pwr.trans = some (.entry t slot 0) ∧ 50 ≤ (s.sys.timeUs - s.pwr.entryAt).toNat ∧ s.dma.ch[5].inFlight = true ∧ (∀ n : Fin 16, n.val < 5 → s.dma.ch[n].inFlight = false)) ∧ (∃ (s : State) (r : _), s.waitsFor r = false) ∧ (∃ (s : State) (r : _) (n : _), s.pwr.badStep = some (r, n) ∧ 5000 ≤ (s.sys.timeUs - s.pwr.badAt).toNat ∧ n < 2) :=
  ⟨⟨{ running with pwr := { running.pwr with st := .limp } }, by decide +kernel⟩, ⟨{ running with pwr := { running.pwr with alarm := some ⟨true, 5⟩ } }, ⟨true, 5⟩, by decide +kernel⟩, ⟨{ running with pwr := { running.pwr with pending := some (.sleep 5 none) } }, 5, none, by decide +kernel⟩, ⟨(hot { running with pwr := { running.pwr with trans := some (.entry 1 none 0) } }).modCh 5 (fun x => { x with inFlight := true }), 1, none, by decide +kernel⟩, ⟨running, .pmic, by decide +kernel⟩, ⟨missed .fio 1, .fio, 1, by decide +kernel⟩⟩

/-- Hypotheses of WakesAndPendingTargets, clause by clause. -/
theorem witness_WakesAndPendingTargets_clauses2 : ∃ (s : State) (r : _) (n : _), s.pwr.badStep = some (r, n) ∧ 5000 ≤ (s.sys.timeUs - s.pwr.badAt).toNat :=
  ⟨missed .fio 1, .fio, 1, by decide +kernel⟩

/-- Hypotheses of ClockEventsFollowLock, clause by clause. -/
theorem witness_ClockEventsFollowLock_clauses : (∃ (s : State), s.clk.pllOn = false) ∧ (∃ (s : State) (err : Int), s.clk.pllOn = true ∧ s.clk.lock = true ∧ (err < -8 ∨ 8 < err) ∧ s.pwr.st = .run ∧ s.sys.stewardUp = true) ∧ (∃ (s : State) (err : Int), s.clk.pllOn = true ∧ s.clk.lock = false ∧ (err < -2 ∨ 2 < err)) ∧ (∃ (s : State) (n : Nat), s.clk.refOn = true ∧ 1137 ≤ n ∧ n ≤ 1321 ∧ s.clk.refBad = false) ∧ (∃ (s : State) (n : Nat), s.clk.refOn = true ∧ 1137 ≤ n ∧ n ≤ 1321 ∧ s.clk.refBad = true) :=
  ⟨⟨{ running with clk := { running.clk with pllOn := false } }, by decide +kernel⟩, ⟨running, 9, by decide +kernel⟩, ⟨unlocked 3 false, 3, by decide +kernel⟩, ⟨running, 1137, by decide +kernel⟩, ⟨{ running with clk := { running.clk with refBad := true } }, 1200, by decide +kernel⟩⟩

/-- Hypotheses of MonitorsReportTheirCode, clause by clause. -/
theorem witness_MonitorsReportTheirCode_clauses : (∃ (n : Nat), n ≠ 0) ∧ (∃ (s : State) (a : _) (b : Bool), (s.restoring = false ∨ mramUse a ≠ some .checkpoint ∨ b = true)) ∧ (∃ (s : State) (a : _), s.pwr.st = .stow ∧ s.pwr.waking.isSome = true ∧ 0x10320000 ≤ a ∧ a ≤ 0x103DFFFF) ∧ (∃ (w : W) (u : _), sramUse w.toNat = some u) ∧ (∃ (u : SramUse), (∀ d : Nat, u ≠ SramUse.decoder d) ∧ (∀ k : Nat, u ≠ SramUse.raceBuffer k)) ∧ (∃ (s : State) (u : _) (p : Fin 2) (b : Bool), s.saf.enable = true ∧ s.saf.safe = false ∧ s.pwr.st = .run ∧ s.sys.stewardUp = true ∧ u = (if b = true then s.pairStops p else s)) :=
  ⟨⟨2, by decide +kernel⟩, ⟨{ running with saf := { running.saf with enable := true } }, 268435456, true, by decide +kernel⟩, ⟨{ running with pwr := { running.pwr with st := .stow, waking := some 5 } }, 271712256, by decide +kernel⟩, ⟨0x20490000, .decoder 0, by decide +kernel⟩, ⟨.steward, (fun _ h => nomatch h), (fun _ h => nomatch h)⟩, ⟨hot { running with saf := { running.saf with enable := true } }, (hot { running with saf := { running.saf with enable := true } }).pairStops 1, 1, true, by decide +kernel⟩⟩

/-- Hypotheses of MonitorsReportTheirCode, clause by clause. -/
theorem witness_MonitorsReportTheirCode_clauses2 : (∃ (s : State) (m : Byte), s.pwr.st = .run ∧ s.host.ready = false ∧ s.saf.safe = false ∧ ((14 ≤ m.toNat ∧ m.toNat ≤ 21) ∨ m.toNat = 23)) ∧ (∃ (s : State) (code : Byte) (n : Nat), s.saf.request = some (code, n + 1) ∧ s.safeIdle = true ∧ 1000 ≤ (s.sys.timeUs - s.saf.requestAt).toNat) ∧ (∃ (s : State) (code : Byte), s.saf.request = some (code, 0) ∧ s.safeIdle = true ∧ 1000 ≤ (s.sys.timeUs - s.saf.requestAt).toNat) ∧ (∃ (s : State) (code : Byte) (inst : Byte) (a : _), (code, inst, a) ∈ s.saf.open1 ∧ 5000 ≤ (s.sys.timeUs - a).toNat ∧ s.pwr.st = .run ∧ s.pwr.trans = none) :=
  ⟨⟨{ running with host := { running.host with ready := false } }, 14, by decide +kernel⟩, ⟨hot { running with saf := { running.saf with request := some (7, 3) } }, 7, 2, by decide +kernel⟩, ⟨hot { running with saf := { running.saf with request := some (7, 0) } }, 7, by decide +kernel⟩, ⟨hot { running with saf := { running.saf with open1 := [(14, 0, 0), (14, 0, 19999999)] } }, 14, 0, 0, by decide +kernel⟩⟩

/-- Hypotheses of TrustCommandsComplete, clause by clause. -/
theorem witness_TrustCommandsComplete_clauses : (∃ (s : State) (c : CmdEntry) (n : _), s.takes 0x0A01 c = true ∧ c.u32 24 ≠ 0 ∧ c.u32 24 % 64 = 0 ∧ c.u32 24 + c.bufLen.toNat ≤ 1310720 ∧ c.bytes 29 3 = [0, 0, 0] ∧ n = otherSlot s.runSlot) ∧ (∃ (s : State) (c : CmdEntry) (n : _), s.takes 0x0A01 c = true ∧ c.u32 24 = 0 ∧ c.bytes 29 3 = [0, 0, 0] ∧ n = otherSlot s.runSlot) ∧ (∃ (s : State) (c : CmdEntry) (n : _), s.takes 0x0A02 c = true ∧ c.bytes 24 4 = [0, 0, 0, 0] ∧ n = otherSlot s.runSlot) :=
  ⟨⟨running, cmdIn [0xC0, 0xFF, 0x13, 0, 0, 0, 0, 0] (zeros 64), otherSlot running.runSlot, by decide +kernel⟩, ⟨running, cmdIn [0, 0, 0, 0, 0, 0, 0, 0] (zeros 64), otherSlot running.runSlot, by decide +kernel⟩, ⟨running, cmd [0, 0, 0, 0], otherSlot running.runSlot, by decide +kernel⟩⟩

/-- Hypotheses of StartUpRunsInOrder, clause by clause. -/
theorem witness_StartUpRunsInOrder_clauses : ∃ (s : State) (n : Fin 2), s.tru.slots[n].empty = false ∧ s.tru.trial = true ∧ s.tru.prefer.toNat = n.val ∧ s.tru.trialStarted = true :=
  ⟨{ running with tru := { running.tru with prefer := 1, trial := true, trialStarted := true, slots := running.tru.slots.set 1 { running.tru.slots[1] with empty := false } } }, 1, by decide +kernel⟩

/-- Hypotheses of CaptureCommandsComplete, clause by clause. -/
theorem witness_CaptureCommandsComplete_clauses : (∃ (s : State) (c : CmdEntry) (hr : Fin 4) (g : _) (a : _), s.takes 0x0201 c = true ∧ c.u8 24 = hr.val ∧ c.u8 25 = g ∧ g ≤ 12 ∧ c.u8 26 = a ∧ a ≤ 1 ∧ c.u8 27 = 0 ∧ s.pwr.st = .run ∧ 2 ≤ s.pwr.level.toNat ∧ (s.pwr.level = 2 → s.hrRunning.length < 2) ∧ s.clk.lossInRun = false ∧ s.cap.hr[hr].failed = false ∧ s.cap.hr[hr].running = false ∧ s.cal.cfg.getLsbD 8 = false) ∧ (∃ (s : State) (c : CmdEntry) (hr : Fin 4), s.takes 0x0201 c = true ∧ c.u8 24 = hr.val ∧ c.u8 25 = 0xFF ∧ c.u8 26 = 0xFF ∧ c.u8 27 = 0 ∧ s.pwr.st = .run ∧ 2 ≤ s.pwr.level.toNat ∧ (s.pwr.level = 2 → s.hrRunning.length < 2) ∧ s.clk.lossInRun = false ∧ s.cap.hr[hr].failed = false ∧ s.cap.hr[hr].running = false) ∧ (∃ (s : State) (c : CmdEntry) (hr : Fin 4), s.takes 0x0201 c = true ∧ c.u8 24 = hr.val ∧ c.u8 25 ≤ 12 ∧ c.u8 26 ≤ 1 ∧ c.u8 27 = 0 ∧ s.pwr.st = .run ∧ 2 ≤ s.pwr.level.toNat ∧ (s.pwr.level = 2 → s.hrRunning.length < 2) ∧ s.clk.lossInRun = false ∧ s.cap.hr[hr].failed = false ∧ s.cap.hr[hr].running = true) ∧ (∃ (s : State) (c : CmdEntry) (hr : Fin 4) (g : _) (a : _), s.takes 0x0203 c = true ∧ c.u8 24 = hr.val ∧ c.u8 25 = g ∧ g ≤ 12 ∧ c.u8 26 = a ∧ a ≤ 1 ∧ c.u8 27 = 0 ∧ s.pwr.st = .run ∧ s.clk.lossInRun = false ∧ s.cap.hr[hr].running = true) ∧ (∃ (s : State) (c : CmdEntry) (hr : Fin 4) (win : Fin 64), s.takes 0x0204 c = true ∧ c.u8 24 = hr.val ∧ c.u8 25 = 1 ∧ c.u8 26 = 0 ∧ c.u8 27 = 0 ∧ 10000 ≤ c.u32 28 ∧ c.u32 28 ≤ 24000 ∧ win ∈ s.windowsOn hr ∧ (s.win.win[win].preset = 3 ∨ s.win.win[win].preset = 4)) :=
  ⟨⟨{ running with cal := { running.cal with cfg := 8 } }, cmd [2, 12, 1, 0], 2, 12, 1, by decide +kernel⟩, ⟨running, cmd [3, 0xFF, 0xFF, 0], 3, by decide +kernel⟩, ⟨hrOn, cmd [0, 0, 0, 0], 0, by decide +kernel⟩, ⟨hrOn, cmd [0, 12, 1, 0], 0, 12, 1, by decide +kernel⟩, ⟨winOn.modWin 0 (fun w => { w with preset := 3 }), cmd [0, 1, 0, 0, 0x10, 0x27, 0, 0], 0, 0, by decide +kernel⟩⟩

/-- Hypotheses of HeadracesFollowTheirSamples, clause by clause. -/
theorem witness_HeadracesFollowTheirSamples_clauses : (∃ (s : State) (hr : Fin 4), s.cap.hr[hr].running = true ∧ s.cap.hr[hr].clockOut = false ∧ s.cap.hr[hr].agc = true ∧ s.cap.hr[hr].gainSet = false ∧ fld s.cap.agc 0 8 < s.cap.hr[hr].clipNow) ∧ (∃ (s : State) (hr : Fin 4) (db : _), s.cap.hr[hr].running = true ∧ s.cap.hr[hr].clockOut = false ∧ s.cap.hr[hr].agc = true ∧ s.cap.hr[hr].gainSet = false ∧ s.cap.hr[hr].clipNow ≤ fld s.cap.agc 0 8 ∧ db = (if 6 ≤ fld s.cap.agc 8 8 ∧ fld s.cap.agc 8 8 ≤ 60 then fld s.cap.agc 8 8 else 18)) ∧ (∃ (s : State) (hr : Fin 4) (stats : List LaneStat) (k : Fin 9), s.cap.hr[hr].running = true ∧ s.cap.hr[hr].clockOut = false ∧ s.cap.hr[hr].failed = false ∧ s.cap.hr[hr].retired = 15 ∧ s.cap.hr[hr].takeOver = none ∧ s.cal.aRun = none ∧ lanesDiffer stats = BitVec.ofNat 9 (2 ^ k.val) ∧ s.cap.hr[hr].laneBad[k.val] = 3) ∧ (∃ (stats : List LaneStat) (j : Fin 9) (x : LaneStat) (m : Int) (q : Nat), stats = (List.replicate 8 ⟨m, q⟩).insertIdx j.val x) ∧ (∃ (s : State), (s.pwr.st ≠ .run ∨ s.pwr.level ≠ 3)) ∧ (∃ (s : State) (hr : Fin 4) (r : Race), s.cap.hr[hr].running = true ∧ s.cap.hr[hr].clockOut = false ∧ ((s.cap.hr[hr].blk r).reg.getLsbD 0) = false) :=
  ⟨⟨(hrOn.modHr 0 (fun h => { h with agc := true, gain := 3, clipNow := 5, lowMs := 7 })), 0, by decide +kernel⟩, ⟨(hrOn.modHr 0 (fun h => { h with agc := true, gain := 3, clipNow := 4, lowMs := 7 })), 0, 18, by decide +kernel⟩, ⟨hrOn.modHr 0 (fun h => { h with laneBad := #v[0, 3, 0, 0, 0, 0, 0, 3, 0] }), 0, laneHigh 7, 7, by decide +kernel⟩, ⟨(List.replicate 8 (⟨0, 4000000000⟩ : LaneStat)).insertIdx 0 ⟨10737418, 4000000000⟩, 0, ⟨10737418, 4000000000⟩, 0, 4000000000, by decide +kernel⟩, ⟨{ running with pwr := { running.pwr with level := 2 } }, by decide +kernel⟩, ⟨hrOn.modHr 0 (fun h => { h with blkV := { h.blkV with reg := 0 } }), 0, .V, by decide +kernel⟩⟩

/-- Hypotheses of HeadracesFollowTheirSamples, clause by clause. -/
theorem witness_HeadracesFollowTheirSamples_clauses2 : (∃ (s : State) (hr : Fin 4) (r : Race) (b : BlankBlock) (l : _), s.cap.hr[hr].running = true ∧ s.cap.hr[hr].clockOut = false ∧ s.cap.hr[hr].failed = false ∧ (s.cap.hr[hr].blk r).reg.getLsbD 0 = true ∧ (s.cap.hr[hr].blk r).reg.getLsbD 1 = true ∧ l = (b.pre ++ b.samples ++ b.post).map RaceIQ.value ∧ ((List.range b.samples.length).filter fun j => blkTrigger (s.cap.hr[hr].blk r).reg l (b.pre.length + j)).length ≤ 512) ∧ (∃ (s : State) (hr : Fin 4) (r : Race) (b : BlankBlock) (u : State) (a : Nat), exec (.blankerBlock hr r b) s = .next u ∧ (a < raceBuffer hr r ∨ raceBuffer hr r + 6 * b.samples.length ≤ a)) ∧ (∃ (s : State) (hr : Fin 4), s.cap.hr[hr].running = false) :=
  ⟨⟨hrOn.modHr 0 (fun h => { h with blkL := { h.blkL with reg := 0x00040003 } }), 0, .L, ⟨[], [(0, 0), (100, 0), (0, 0)], []⟩, [(0, 0), (100, 0), (0, 0)], by decide +kernel⟩, ⟨hrOn.modHr 0 (fun h => { h with blkL := { h.blkL with reg := 0x00040203 } }), 0, .L, ⟨[(1, 1), (2, 0)], [(1, 1), (1000, 0), (0, -1)], [(2, 1)]⟩, (match execBlankerBlock 0 .L ⟨[(1, 1), (2, 0)], [(1, 1), (1000, 0), (0, -1)], [(2, 1)]⟩ (hrOn.modHr 0 (fun h => { h with blkL := { h.blkL with reg := 0x00040203 } })) with | .next u => u | _ => hrOn), 541130751, by rfl, by decide +kernel⟩, ⟨running, 3, by decide +kernel⟩⟩

/-- Hypotheses of FeedsAndModules, clause by clause. -/
theorem witness_FeedsAndModules_clauses : (∃ (s : State) (c : CmdEntry) (hr : Fin 4) (v : _), s.takes 0x0205 c = true ∧ c.bytes 24 4 = [byte hr.val, 1, byte v, 0] ∧ 50 ≤ v ∧ v ≤ 120 ∧ s.cap.feed[hr].on = false) ∧ (∃ (s : State) (c : CmdEntry) (hr : Fin 4), s.takes 0x0206 c = true ∧ c.bytes 24 4 = [byte hr.val, 0, 0, 0]) ∧ (∃ (s : State) (c : CmdEntry) (hr : Fin 4), s.takes 0x0206 c = true ∧ c.bytes 24 4 = [byte hr.val, 1, 0, 0] ∧ s.cap.feed[hr].on = false) ∧ (∃ (f : Feed), (f.present = false ∨ f.staticOk = false)) ∧ (∃ (hz : Nat) (x : Nat × Int) (y : Nat × Int), 10000 * x.1 < hz ∧ hz ≤ 10000 * y.1) :=
  ⟨⟨running, cmd [2, 1, 120, 0], 2, 120, by decide +kernel⟩, ⟨running, cmdOut [1, 0, 0, 0] 256, 1, by decide +kernel⟩, ⟨running, cmdOut [1, 1, 0, 0] 256, 1, by decide +kernel⟩, ⟨{}, by decide +kernel⟩, ⟨100005000, (10000, -50), (10001, 51), by decide +kernel⟩⟩

/-- Hypotheses of WindowsOpenAndClose, clause by clause. -/
theorem witness_WindowsOpenAndClose_clauses : (∃ (s : State) (c : CmdEntry) (win : Fin 64) (rn : Fin 32) (ant : Fin 4) (no : _) (p : _) (f : _), s.takes 0x0210 c = true ∧ c.bytes 41 3 = [0, 0, 0] ∧ c.u8 40 = 0 ∧ c.u16 38 = 0 ∧ c.u8 37 = 0xFF ∧ c.u8 36 = 0 ∧ c.u8 33 = 0xFF ∧ c.bufIn = false ∧ c.u8 27 ≤ 1 ∧ c.u8 32 = 2 ^ ant.val ∧ c.u8 25 = p ∧ 1 ≤ p ∧ p ≤ 5 ∧ c.u8 26 = rn.val ∧ presetRunner p rn.val = true ∧ c.u32 28 = f ∧ s.cap.hr[ant].bandOk p f = true ∧ s.pwr.st = .run ∧ 2 ≤ s.pwr.level.toNat ∧ s.clk.lossInRun = false ∧ s.cap.hr[ant].running = true ∧ s.win.win[win].fantail = false ∧ s.runnerFed rn = false ∧ s.freeLegs.head? = some no ∧ s.win.win[win].st = 0 ∧ (c.u8 24 = win.val ∨ (c.u8 24 = 0xFF ∧ ∀ w : Fin 64, w < win → s.win.win[w].st ≠ 0))) ∧ (∃ (s : State) (c : CmdEntry) (win : Fin 64) (w : _), s.takes 0x0210 c = true ∧ firstFail (s.openRange c) = none ∧ c.u8 24 = win.val ∧ s.win.win[win].st = 0 ∧ s.win.win[win].fantail = false ∧ s.windowOf (Fin.ofNat 32 (c.u8 26)) = some w ∧ s.win.win[w].fantail = false ∧ (∀ ant : Fin 4, s.cap.hr[ant].running = true) ∧ s.pwr.st = .run ∧ 2 ≤ s.pwr.level.toNat ∧ s.clk.lossInRun = false) ∧ (∃ (s : State) (c : CmdEntry) (win : Fin 64) (f : _), s.takes 0x0211 c = true ∧ c.bytes 24 4 = [byte win.val, byte f, 0, 0] ∧ f ≤ 1 ∧ s.below 2 = false ∧ s.win.win[win].st ≠ 0 ∧ s.win.win[win].closing = none ∧ s.win.win[win].fantail = false ∧ s.svc.run[s.win.win[win].runner].fm.lent = false ∧ (f = 1 ∨ s.ctxsOf s.win.win[win].runner = [])) ∧ (∃ (s : State) (win : Fin 64) (slot : _), s.win.win[win].closing = some (false, some slot)) ∧ (∃ (s : State) (c : CmdEntry) (win : Fin 64) (b : _) (t : _), s.takes 0x0214 c = true ∧ c.bytes 24 4 = [byte win.val, byte (b01 b), byte t, 0] ∧ 1 ≤ t ∧ t ≤ 192 ∧ c.bufIn = true ∧ c.bufLen.toNat = 4 * ((t + 1) / 2) ∧ coefsOk t c = true ∧ s.below 2 = false ∧ s.win.win[win].st ≠ 0 ∧ s.win.win[win].closing = none) :=
  ⟨⟨hrOn, cmd ([7, 5, 25, 1, 0x00, 0x3D, 0x8D, 0x0D, 1, 0xFF, 0, 0, 0, 0xFF] ++ zeros 6), 7, 25, 0, 0, 5, 227360000, by decide +kernel⟩, ⟨allRuns winOn, cmd ([1, 3, 0, 1, 0xC0, 0xAA, 0xF6, 0x05, 1, 0xFF, 0, 0, 0, 0xFF] ++ zeros 6), 1, 0, by decide +kernel⟩, ⟨winOn, cmd [0, 1, 0, 0], 0, 1, by decide +kernel⟩, ⟨winOn.modWin 0 (fun x => { x with closing := some (false, some 0) }), 0, 0, by decide +kernel⟩, ⟨winOn, cmdIn [0, 1, 1, 0] [0, 0, 4, 0], 0, true, 1, by decide +kernel⟩⟩

/-- Hypotheses of WindowSettingsChange, clause by clause. -/
theorem witness_WindowSettingsChange_clauses : (∃ (s : State) (c : CmdEntry) (win : Fin 64) (f : _), s.takes 0x0212 c = true ∧ c.bytes 24 4 = [byte win.val, 0, 0, 0] ∧ c.u32 28 = f ∧ s.tuneBad win f = false ∧ s.pwr.st = .run ∧ 2 ≤ s.pwr.level.toNat ∧ s.clk.lossInRun = false ∧ s.win.win[win].st ≠ 0 ∧ s.win.win[win].closing = none ∧ s.win.win[win].released = false ∧ s.win.win[win].fantail = false ∧ s.svc.run[s.win.win[win].runner].fm.lent = false) ∧ (∃ (s : State) (c : CmdEntry) (win : Fin 64) (f : _), s.takes 0x0212 c = true ∧ c.bytes 24 4 = [byte win.val, 0, 0, 0] ∧ c.u32 28 = f ∧ s.tuneBad win f = false ∧ s.pwr.st = .run ∧ 2 ≤ s.pwr.level.toNat ∧ s.clk.lossInRun = false ∧ s.win.win[win].st ≠ 0 ∧ s.win.win[win].closing = none ∧ s.win.win[win].released = true ∧ s.win.win[win].fantail = false ∧ s.svc.run[s.win.win[win].runner].fm.lent = false) ∧ (∃ (s : State) (c : CmdEntry) (win : Fin 64) (b : _) (sp : _), s.takes 0x0213 c = true ∧ c.bytes 24 8 = [byte win.val, byte (c.u8 25), byte (c.u8 26), byte (c.u8 27), byte (b01 b), 0xFF, 0, 0] ∧ split s.win.win[win].preset (c.u8 25) (c.u8 26) (c.u8 27) = some sp ∧ s.pwr.st = .run ∧ 2 ≤ s.pwr.level.toNat ∧ s.clk.lossInRun = false ∧ s.win.win[win].st ≠ 0 ∧ s.win.win[win].closing = none ∧ s.win.win[win].loaded b = true ∧ s.svc.run[s.win.win[win].runner].fm.lent = false) ∧ (∃ (s : State) (c : CmdEntry) (win : Fin 64) (d : _), s.takes 0x0216 c = true ∧ c.bytes 24 4 = [byte win.val, 0xFF, 1, 0] ∧ d = 1024 * c.u16 28 + c.u16 30 ∧ c.u16 28 ≤ s.win.win[win].dcap ∧ c.u16 30 ≤ 1023 ∧ s.pwr.st = .run ∧ 2 ≤ s.pwr.level.toNat ∧ s.clk.lossInRun = false ∧ s.win.win[win].st ≠ 0 ∧ s.win.win[win].closing = none ∧ s.ctxsOf s.win.win[win].runner = []) ∧ (∃ (s : State) (c : CmdEntry) (win : Fin 64) (l : _) (d : _) (p : Fin 4), s.takes 0x0216 c = true ∧ c.bytes 24 4 = [byte win.val, byte p.val, 0, 0] ∧ d = 1024 * c.u16 28 + c.u16 30 ∧ c.u16 28 ≤ s.win.win[win].dcap ∧ c.u16 30 ≤ 1023 ∧ s.pwr.st = .run ∧ 2 ≤ s.pwr.level.toNat ∧ s.clk.lossInRun = false ∧ s.win.win[win].st ≠ 0 ∧ s.win.win[win].closing = none ∧ s.ctxsOf s.win.win[win].runner = [] ∧ s.win.win[win].legs[p] = some l) ∧ (∃ (s : State) (c : CmdEntry) (win : Fin 64) (ant : Fin 4) (no : _) (p : Fin 4), s.takes 0x0217 c = true ∧ c.bytes 24 4 = [byte win.val, 0, byte ant.val, 0] ∧ s.pwr.st = .run ∧ 2 ≤ s.pwr.level.toNat ∧ s.clk.lossInRun = false ∧ s.win.win[win].st ≠ 0 ∧ s.win.win[win].closing = none ∧ s.cap.hr[ant].bandOk s.win.win[win].preset s.win.win[win].freq = true ∧ s.cap.hr[ant].running = true ∧ s.win.win[win].antPos ant = none ∧ s.win.win[win].legs[p] = none ∧ (∀ j : Fin 4, j < p → s.win.win[win].legs[j].isSome = true) ∧ s.freeLegs.head? = some no ∧ s.win.win[win].dcap = 0) :=
  ⟨⟨winOn.modWin 0 (fun x => { x with released := false }), cmd [0, 0, 0, 0, 0xC0, 0xAA, 0xF6, 0x05], 0, 0x05F6AAC0, by decide +kernel⟩, ⟨winOn, cmd [0, 0, 0, 0, 0xC0, 0xAA, 0xF6, 0x05], 0, 0x05F6AAC0, by decide +kernel⟩, ⟨winOn.modWin 0 (fun x => { x with banks := Vector.replicate 2 { t := 64 } }), cmd [0, 3, 2, 2, 0, 0xFF, 0, 0], 0, false, ⟨5, 2, 3, 2⟩, by decide +kernel⟩, ⟨twoLegs.modWin 0 (fun x => { x with dcap := 64 }), cmd [0, 0xFF, 1, 0, 3, 0, 9, 0], 0, 3081, by decide +kernel⟩, ⟨twoLegs.modWin 0 (fun x => { x with dcap := 64 }), cmd [0, 1, 0, 0, 3, 0, 9, 0], 0, { legZero with no := 1, ant := 1 }, 3081, 1, by decide +kernel⟩, ⟨(allRuns winOn).modWin 0 (fun x => { x with freq := 100000000 }), cmd [0, 0, 3, 0], 0, 3, (1 : Nat), 1, by decide +kernel⟩⟩

/-- Hypotheses of WindowSettingsChange, clause by clause. -/
theorem witness_WindowSettingsChange_clauses2 : ∃ (s : State) (c : CmdEntry) (win : Fin 64) (l : _) (p : Fin 4), s.takes 0x0217 c = true ∧ c.bytes 24 4 = [byte win.val, 1, byte p.val, 0] ∧ s.pwr.st = .run ∧ 2 ≤ s.pwr.level.toNat ∧ s.clk.lossInRun = false ∧ s.win.win[win].st ≠ 0 ∧ s.win.win[win].closing = none ∧ s.win.win[win].legs[p] = some l ∧ l.leaving = false ∧ 2 ≤ s.win.win[win].staying :=
  ⟨twoLegs, cmd [0, 1, 1, 0], 0, { legZero with no := 1, ant := 1 }, 1, by decide +kernel⟩

/-- Hypotheses of WindowOutputAndScan, clause by clause. -/
theorem witness_WindowOutputAndScan_clauses : (∃ (s : State) (win : Fin 64) (l : _) (n : _) (p : Fin 4), s.win.win[win].legs[p] = some l ∧ l.stopped = none ∧ n ≠ 0 ∧ l.no < 128 ∧ Tlm.wf s.tlm = true) ∧ (∃ (s : State) (win : Fin 64) (n : _) (p : Fin 4), (s.win.win[win].legs[p] = none ∨ n = 0)) ∧ (∃ (x : Window) (v : Vector Nat 7) (r : Window), r = (Window.emit (x, v)).1) ∧ (∃ (x : Window) (n : D), x.start = some n ∧ x.delay2048 * adcPer x.preset % 2048 = 0) ∧ (∃ (x : Window), x.combines = true ∧ x.wide = true) ∧ (∃ (v : Vector Nat 7) (i : Fin 7), v[i] ≠ 0) :=
  ⟨⟨winOn, 0, legZero, 3, 0, by decide +kernel⟩, ⟨winOn, 0, 3, 1, by decide +kernel⟩, ⟨{ winOn.win.win[0] with withheld := 0, released := true, disc := 9, start := some 77777, count := 4, shift := 3, legs := #v[some { legZero with chain := { legZero.chain with queue := [⟨(300, -70000000), false, 5⟩] } }, none, none, none], ready := [⟨[(4, 4)], 1, 3, 2⟩] }, Vector.replicate 7 0, (Window.emit ({ winOn.win.win[0] with withheld := 0, released := true, disc := 9, start := some 77777, count := 4, shift := 3, legs := #v[some { legZero with chain := { legZero.chain with queue := [⟨(300, -70000000), false, 5⟩] } }, none, none, none], ready := [⟨[(4, 4)], 1, 3, 2⟩] }, Vector.replicate 7 0)).1, rfl⟩, ⟨{ winOn.win.win[0] with start := some 5000 }, 5000, by decide +kernel⟩, ⟨{ winOn.win.win[0] with wide := true, shift := 3 }, by decide +kernel⟩, ⟨#v[0, 0, 0, 0, 0, 0, 4], 6, by decide +kernel⟩⟩

/-- Hypotheses of WindowOutputAndScan, clause by clause. -/
theorem witness_WindowOutputAndScan_clauses2 : (∃ (s : State) (win : Fin 64) (b : RaceIn) (t : State) (y : Window), t = s.feedWin win b ∧ y = t.win.win[win] ∧ s.win.win[win].st ≠ 0 ∧ y.ready.length ≠ 64) ∧ (∃ (s : State) (win : Fin 64) (b : RaceIn) (t : State) (y : Window), t = s.feedWin win b ∧ y = t.win.win[win] ∧ s.win.win[win].st ≠ 0 ∧ y.ready.length = 64) ∧ (∃ (s : State) (win : Fin 64) (b : RaceIn) (t : State) (y : Window), t = s.feedWin win b ∧ y = t.win.win[win] ∧ s.win.win[win].st = 1 ∧ y.withheld ≠ 0) ∧ (∃ (s : State) (win : Fin 64) (b : RaceIn) (t : State) (y : Window), t = s.feedWin win b ∧ y = t.win.win[win] ∧ s.win.win[win].st = 1 ∧ y.withheld = 0) ∧ (∃ (s : State) (win : Fin 64) (b : RaceIn) (t : State) (y : Window), t = s.feedWin win b ∧ y = t.win.win[win] ∧ s.win.win[win].st ≠ 0 ∧ y.st = 2 ∧ (y.preset = 1 ∨ y.preset = 3) ∧ 2 ≤ y.positions.length ∧ y.fresh ≠ 0) ∧ (∃ (s : State) (win : Fin 64) (b : RaceIn) (t : State) (y : Window), t = s.feedWin win b ∧ y = t.win.win[win] ∧ s.win.win[win].st ≠ 0 ∧ (y.st ≠ 2 ∨ y.positions.length < 2)) :=
  ⟨⟨winOn, 0, ⟨7, []⟩, winOn.feedWin 0 ⟨7, []⟩, (winOn.feedWin 0 ⟨7, []⟩).win.win[0], rfl, rfl, by decide +kernel⟩, ⟨blockReady, 0, ⟨7, []⟩, (blockReady).feedWin 0 ⟨7, []⟩, ((blockReady).feedWin 0 ⟨7, []⟩).win.win[0], rfl, rfl, by decide +kernel⟩, ⟨(winOn.modWin 0 fun x => { x with st := 1, withheld := 3 }), 0, ⟨7, []⟩, ((winOn.modWin 0 fun x => { x with st := 1, withheld := 3 })).feedWin 0 ⟨7, []⟩, (((winOn.modWin 0 fun x => { x with st := 1, withheld := 3 })).feedWin 0 ⟨7, []⟩).win.win[0], rfl, rfl, by decide +kernel⟩, ⟨(winOn.modWin 0 fun x => { x with st := 1, released := false }), 0, ⟨7, []⟩, ((winOn.modWin 0 fun x => { x with st := 1, released := false })).feedWin 0 ⟨7, []⟩, (((winOn.modWin 0 fun x => { x with st := 1, released := false })).feedWin 0 ⟨7, []⟩).win.win[0], rfl, rfl, by decide +kernel⟩, ⟨cmaReady, 0, ⟨7, []⟩, (cmaReady).feedWin 0 ⟨7, []⟩, ((cmaReady).feedWin 0 ⟨7, []⟩).win.win[0], rfl, rfl, by decide +kernel⟩, ⟨winOn, 0, ⟨7, []⟩, (winOn).feedWin 0 ⟨7, []⟩, ((winOn).feedWin 0 ⟨7, []⟩).win.win[0], rfl, rfl, by decide +kernel⟩⟩

/-- Hypotheses of WindowOutputAndScan, clause by clause. -/
theorem witness_WindowOutputAndScan_clauses3 : (∃ (s : State) (win : Fin 64), s.win.win[win].st = 0) ∧ (∃ (s : State), s.win.scanCtl.getLsbD 0 = true) ∧ (∃ (s : State) (m : List (List ScanObs)) (ant : Fin 4) (i : Nat) (o : ScanObs), s.win.scanCtl.getLsbD 0 = true ∧ s.win.scanCtl.getLsbD (8 + ant.val) = true ∧ i < 641 ∧ (m.getD ant.val [])[i]? = some o) ∧ (∃ (s : State), s.win.scanCtl.getLsbD 1 = true) ∧ (∃ (s : State) (m : List (List ScanObs)) (ant : Fin 4) (i : Nat) (o : ScanObs), s.win.scanCtl.getLsbD 1 = true ∧ s.win.scanCtl.getLsbD (8 + ant.val) = true ∧ i < 38 ∧ (m.getD ant.val [])[i]? = some o ∧ s.cap.hr[ant].samples = true ∧ s.cap.hr[ant].scans true i = true ∧ o.skipped = false ∧ s.cap.hr[ant].bSpan = false) :=
  ⟨⟨running, 3, by decide +kernel⟩, ⟨scanOn, by decide +kernel⟩, ⟨scanOn, [List.replicate 641 ⟨-100, 300, 5, false⟩], 0, 0, ⟨-100, 300, 5, false⟩, by decide +kernel⟩, ⟨scanOn, by decide +kernel⟩, ⟨scanOn, [List.replicate 38 ⟨-100, 300, 5, false⟩], 0, 37, ⟨-100, 300, 5, false⟩, by decide +kernel⟩⟩

/-- Hypotheses of ServiceCommandsComplete, clause by clause. -/
theorem witness_ServiceCommandsComplete_clauses : (∃ (s : State) (c : CmdEntry) (ctx : Fin 256) (rn : Fin 32) (kind : _), s.takes 0x0301 c = true ∧ c.u8 24 = ctx.val ∧ ctx.val ≠ 255 ∧ c.u8 25 = kind ∧ c.u8 26 = rn.val ∧ firstFail (openSvcRange c) = none ∧ s.below 2 = false ∧ s.svc.ctx[ctx].st = .free ∧ s.noHandle rn (BitVec.ofNat 32 (c.u32 28)) = false ∧ (∀ k : Fin 256, s.svc.ctx[k].shadowOf = none) ∧ s.overLimit rn kind (BitVec.ofNat 32 (c.u32 28)) = false ∧ (kind = 0 → 24 ≤ rn.val → s.freeDecoder.isSome = true) ∧ s.followed.length < 16 ∧ s.svc.run[rn].fm.lent = false ∧ s.routeHeld kind (c.u8 27) = false) ∧ (∃ (s : State) (ctx : Fin 256) (k : _), s.svc.ctx[ctx].st = .opening ∧ s.svc.ctx[ctx].openSlot = some k) ∧ (∃ (s : State) (c : CmdEntry) (ctx : Fin 256) (rn : Fin 32), s.takes 0x0301 c = true ∧ c.u8 24 = ctx.val ∧ ctx.val ≠ 255 ∧ c.u8 26 = rn.val ∧ firstFail (openSvcRange c) = none ∧ s.below 2 = false ∧ s.svc.ctx[ctx].st ≠ .free) ∧ (∃ (s : State) (c : CmdEntry) (ctx : Fin 256) (rn : Fin 32) (kind : _), s.takes 0x0301 c = true ∧ c.u8 24 = ctx.val ∧ ctx.val ≠ 255 ∧ c.u8 25 = kind ∧ c.u8 26 = rn.val ∧ firstFail (openSvcRange c) = none ∧ s.below 2 = false ∧ s.svc.ctx[ctx].st = .free ∧ s.noHandle rn (BitVec.ofNat 32 (c.u32 28)) = false ∧ (∀ k : Fin 256, s.svc.ctx[k].shadowOf = none) ∧ s.overLimit rn kind (BitVec.ofNat 32 (c.u32 28)) = true) ∧ (∃ (s : State) (rn : Fin 32) (n : _) (x : _), rn.val < 16 ∧ 0 < n ∧ n ≤ 100 ∧ s.svc.run[rn].fm.hist = List.replicate n x) ∧ (∃ (s : State) (c : CmdEntry) (rn : Fin 32) (l : _), s.takes 0x0310 c = true ∧ c.u8 24 = rn.val ∧ rn.val < 16 ∧ c.bytes 39 5 = [0, 0, 0, 0, 0] ∧ l = (List.range 14).map (fun i => if c.u8 (25 + i) = 0xFF then (s.svc.run[rn].fm.next.getD (s.svc.run[rn].fm.settings rn)).getD i 0 else byte (c.u8 (25 + i))) ∧ (∀ (i : _), i < 14 → c.u8 (25 + i) = 0xFF ∨ ((fmRanges.getD i (0, 0)).1 ≤ c.u8 (25 + i) ∧ c.u8 (25 + i) ≤ (fmRanges.getD i (0, 0)).2)) ∧ l.getD 6 0 < l.getD 5 0 ∧ l.getD 9 0 < l.getD 8 0 ∧ l.getD 12 0 < l.getD 11 0) :=
  ⟨⟨winOn, cmd [3, 0, 2, 0, 0, 0, 0, 0, 0, 0, 0, 0], 3, 2, 0, by decide +kernel⟩, ⟨(outOn [⟨0x0301, .waiting, cmd []⟩] (ctxOn.modCtx 0 (fun x => { x with st := .opening, openSlot := some 0, kind := 3 }))), 0, 0, by decide +kernel⟩, ⟨ctxOn, cmd [0, 0, 2, 0, 0, 0, 0, 0, 0, 0, 0, 0], 0, 2, by decide +kernel⟩, ⟨ctxOn, cmd [3, 0, 0, 1, 0, 0, 0, 0, 0, 0, 0, 0], 3, 0, 0, by decide +kernel⟩, ⟨steady, 0, 16, steadyTick, by decide +kernel⟩, ⟨running, cmd ([15] ++ List.replicate 14 0xFF ++ [0, 0, 0, 0, 0]), 15, (List.range 14).map (fun i => if (cmd ([15] ++ List.replicate 14 0xFF ++ [0, 0, 0, 0, 0])).u8 (25 + i) = 0xFF then ((running).svc.run[(15 : Fin 32)].fm.next.getD ((running).svc.run[(15 : Fin 32)].fm.settings 15)).getD i 0 else byte ((cmd ([15] ++ List.replicate 14 0xFF ++ [0, 0, 0, 0, 0])).u8 (25 + i))), by decide +kernel⟩⟩

/-- Hypotheses of ServiceCommandsComplete, clause by clause. -/
theorem witness_ServiceCommandsComplete_clauses2 : (∃ (s : State) (c : CmdEntry) (rn : Fin 32) (l : _), s.takes 0x0311 c = true ∧ c.u8 24 = rn.val ∧ 16 ≤ rn.val ∧ rn.val ≤ 23 ∧ c.bytes 34 2 = [0, 0] ∧ l = (List.range 9).map (fun i => if c.u8 (25 + i) = 0xFF then (s.svc.run[rn].fm.next.getD (s.svc.run[rn].fm.settings rn)).getD i 0 else byte (c.u8 (25 + i))) ∧ (∀ (i : _), i < 9 → c.u8 (25 + i) = 0xFF ∨ ((amRanges.getD i (0, 0)).1 ≤ c.u8 (25 + i) ∧ c.u8 (25 + i) ≤ (amRanges.getD i (0, 0)).2)) ∧ l.getD 3 0 < l.getD 2 0 ∧ l.getD 6 0 < l.getD 5 0) ∧ (∃ (s : State) (c : CmdEntry) (rn : Fin 32) (win : Fin 64), s.takes 0x0313 c = true ∧ c.u8 24 = rn.val ∧ rn.val < 16 ∧ c.u8 26 ≤ 1 ∧ c.u8 27 = 0 ∧ s.windowOf rn = some win ∧ s.tuneBad win (c.u32 28) = false ∧ (c.u16 32 = 0 ∨ (20 ≤ c.u16 32 ∧ c.u16 32 ≤ 500)) ∧ s.pwr.st = .run ∧ s.clk.lossInRun = false ∧ s.svc.run[rn].fm.lent = true ∧ s.svc.run[rn].fm.probes ≠ []) :=
  ⟨⟨running, cmd ([16] ++ List.replicate 9 0xFF ++ [0, 0]), 16, (List.range 9).map (fun i => if (cmd ([16] ++ List.replicate 9 0xFF ++ [0, 0])).u8 (25 + i) = 0xFF then ((running).svc.run[(16 : Fin 32)].fm.next.getD ((running).svc.run[(16 : Fin 32)].fm.settings 16)).getD i 0 else byte ((cmd ([16] ++ List.replicate 9 0xFF ++ [0, 0])).u8 (25 + i))), by decide +kernel⟩, ⟨lentRun [⟨100000000, 0, false, 110, 0⟩], cmd [0, 7, 0, 0, 0xC0, 0xAA, 0xF6, 0x05, 0xF4, 1, 0, 0], 0, 0, by decide +kernel⟩⟩

/-- Hypotheses of FmRunnersFollowTheirSignal, clause by clause. -/
theorem witness_FmRunnersFollowTheirSignal_clauses : (∃ (s : State) (rn : Fin 32), rn.val < 24 ∧ s.svc.run[rn].active = true ∧ s.svc.run[rn].fm.next = none ∧ s.ctxsOf rn = [] ∧ s.svc.run[rn].carry = 0 ∧ s.svc.run[rn].gap = none) ∧ (∃ (s : State) (rn : Fin 32) (l : _), 16 ≤ rn.val ∧ rn.val < 24 ∧ s.svc.run[rn].active = false ∧ s.svc.run[rn].fm.next = some l ∧ s.svc.run[rn].fm.rds = {}) ∧ (∃ (s : State) (rn : Fin 32), (24 ≤ rn.val ∨ (s.svc.run[rn].active = false ∧ s.svc.run[rn].fm.next = none))) ∧ (∃ (s : State) (rn : Fin 32), rn.val < 16 ∧ s.svc.run[rn].fm.pilot = true ∧ 100 ≤ s.svc.run[rn].fm.hist.length ∧ (∀ x ∈ s.svc.run[rn].fm.hist.take 100, x.m.pilot < 20)) ∧ (∃ (s : State) (ctx : Fin 256) (rn : Fin 32) (k : Fin 32), s.svc.ctx[ctx].kind = 0 ∧ s.svc.ctx[ctx].st = .running ∧ s.svc.ctx[ctx].runner = rn ∧ rn.val < 24 ∧ s.svc.run[rn].active = true ∧ s.svc.run[rn].carry = 0 ∧ s.svc.ctx[ctx].discDue = false ∧ s.svc.ctx[ctx].lost = 0 ∧ s.svc.ctx[ctx].shadowOf = none ∧ s.svc.ctx[ctx].follow = false ∧ s.svc.ctx[ctx].fadeIn = 1440 ∧ s.audioBlocked ctx = false ∧ s.svc.ctx[ctx].route.toNat = k.val) ∧ (∃ (f : FmState) (rn : Fin 32), f.isMono rn = true ∧ f.filt.1 = f.filt.2) :=
  ⟨⟨(ticksOn 15 100 (tickOf 100 50 100) (runOn 15)), 15, by decide +kernel⟩, ⟨amNext, 17, amDefaults, by decide +kernel⟩, ⟨runOn 24, 24, by decide +kernel⟩, ⟨(ticksOn 0 100 (tickOf 100 19 0) (runOn 0)).modFm 0 fun f => { f with pilot := true, sep := 5 }, 0, by decide +kernel⟩, ⟨(runOn 0).modCtx 0 (fun x => { x with st := .running, route := 31, fadeIn := 1440 }), 0, 0, 31, by decide +kernel⟩, ⟨{ ({} : FmState) with sep := 65536 }, 0, by decide +kernel⟩⟩

/-- Hypotheses of FmRunnersFollowTheirSignal, clause by clause. -/
theorem witness_FmRunnersFollowTheirSignal_clauses2 : (∃ (s : State) (ctx : Fin 256), (s.svc.ctx[ctx].kind ≠ 0 ∨ s.svc.ctx[ctx].st = .free ∨ s.svc.ctx[ctx].st = .closing)) ∧ (∃ (s : State) (rn : Fin 32) (o : RdsObs) (p : _), rn.val < 16 ∧ s.svc.run[rn].active = true ∧ s.svc.run[rn].fm.streamOn rn 0 = true ∧ s.svc.run[rn].fm.rds.sync.getLsbD 0 = false ∧ s.svc.run[rn].fm.rds.seen[0] = [] ∧ s.svc.run[rn].fm.rds.pi = none ∧ s.svc.run[rn].fm.rds.prov = some p ∧ s.svc.run[rn].fm.probes = [] ∧ zeroOffset (s.svc.run[rn].fm.rbds rn) o.bits = some .A) ∧ (∃ (s : State) (rn : Fin 32) (o : RdsObs) (x : _) (e : _) (n : _) (i : _) (k : Fin 4), rn.val < 16 ∧ s.svc.run[rn].active = true ∧ s.svc.run[rn].fm.streamOn rn k = true ∧ k ≠ 0 ∧ s.svc.run[rn].fm.rds.sync.getLsbD k.val = false ∧ s.svc.run[rn].fm.rds.seen[k] = [x] ∧ zeroOffset (s.svc.run[rn].fm.rbds rn) o.bits = some e ∧ o.pos = x.1 + 26 * n ∧ inOrder x.2.1 e n = some i ∧ i < 3) ∧ (∃ (s : State) (rn : Fin 32) (o : RdsObs) (k : Fin 4), rn.val < 16 ∧ s.svc.run[rn].active = true ∧ s.svc.run[rn].fm.streamOn rn k = true ∧ k ≠ 0 ∧ s.svc.run[rn].fm.rds.sync.getLsbD k.val = true ∧ o.pos = s.svc.run[rn].fm.rds.pos[k] ∧ s.svc.run[rn].fm.rds.group[k].length = 3 ∧ s.ctxsOf rn = [] ∧ s.segComps rn = [] ∧ s.svc.run[rn].carry = 0 ∧ ((true :: s.svc.run[rn].fm.rds.hist[k]).take 25 |>.filter id).length < 20) ∧ (∃ (s : State) (rn : Fin 32), s.svc.run[rn].active = false) ∧ (∃ (s : State) (rn : Fin 32) (k : ProbeCheck) (o : ProbeObs), s.svc.run[rn].fm.probes = [k] ∧ k.floor ≤ s.levelAt rn o.power) :=
  ⟨⟨running, 0, by decide +kernel⟩, ⟨(runOn 0).modFm 0 (fun f => { f with rds := { f.rds with prov := some 0xD3C2 } }), 0, blockAt 55511848 3, 0xD3C2, by decide +kernel⟩, ⟨rdsSeenOn, 0, blockAt 0x0FC 78, (0, .B, 0), .A, 3, 0, 3, by decide +kernel⟩, ⟨rdsSyncOn 18, 0, blockAt 8421596 26, 3, by decide +kernel⟩, ⟨running, 0, by decide +kernel⟩, ⟨lentRun [⟨100000000, 0, false, 110, 0⟩], 0, ⟨100000000, 0, false, 110, 0⟩, ⟨100, 3⟩, by decide +kernel⟩⟩

/-- Hypotheses of FmRunnersFollowTheirSignal, clause by clause. -/
theorem witness_FmRunnersFollowTheirSignal_clauses3 : (∃ (s : State) (rn : Fin 32) (k : ProbeCheck) (o : ProbeObs), s.svc.run[rn].fm.probes = [k] ∧ s.levelAt rn o.power < k.floor) ∧ (∃ (s : State) (rn : Fin 32) (k : ProbeCheck), s.svc.run[rn].fm.probes = [k]) ∧ (∃ (s : State) (rn : Fin 32), s.svc.run[rn].fm.probes = []) :=
  ⟨⟨lentRun [⟨100000000, 0, false, 110, 0⟩], 0, ⟨100000000, 0, false, 110, 0⟩, ⟨-100, 3⟩, by decide +kernel⟩, ⟨lentRun [⟨100000000, 0, false, 110, 0⟩], 0, ⟨100000000, 0, false, 110, 0⟩, by decide +kernel⟩, ⟨lentRun [], 0, by decide +kernel⟩⟩

/-- Hypotheses of DabRunnersDecodeTheirEnsemble, clause by clause. -/
theorem witness_DabRunnersDecodeTheirEnsemble_clauses : (∃ (s : State) (c : CmdEntry) (rn : Fin 32) (l : _), s.takes 0x0320 c = true ∧ c.u8 24 = rn.val ∧ 24 ≤ rn.val ∧ rn.val ≤ 27 ∧ c.bytes 29 3 = [0, 0, 0] ∧ (∀ (i : _), i < 4 → c.u8 (25 + i) = 0xFF ∨ (([(0, 1), (0, 8), (10, 100), (10, 255)].getD i (0, 0)).1 ≤ c.u8 (25 + i) ∧ c.u8 (25 + i) ≤ ([(0, 1), (0, 8), (10, 100), (10, 255)].getD i (0, 0)).2)) ∧ l = (List.range 4).map (fun i => if c.u8 (25 + i) = 0xFF then (s.svc.run[rn].dab.next.getD s.svc.run[rn].dab.settings).getD i 0 else byte (c.u8 (25 + i)))) ∧ (∃ (s : State) (rn : Fin 32) (o : DabFrameObs) (hi : Byte) (lo : Byte) (sh : Byte) (sl : Byte) (ty : Byte) (sc : Byte) (h : Byte) (l : _), 24 ≤ rn.val ∧ rn.val ≤ 27 ∧ s.svc.run[rn].active = true ∧ s.svc.run[rn].dab.timing = true ∧ s.svc.run[rn].lock = false ∧ s.svc.run[rn].dab.prsOkRun = 0 ∧ o.prsOk = true ∧ ((o.fibs.take 12).filter fibOk).flatMap (fun b => figsOf 30 (b.take 30)) = [⟨0, [0, hi, lo, 0, 7]⟩, ⟨0, [2, sh, sl, 1, ty, sc]⟩] ∧ ty.toNat < 64 ∧ sc.toNat % 4 = 2 ∧ s.svc.run[rn].dab.eid = none ∧ s.svc.run[rn].dab.comps = [] ∧ s.svc.run[rn].dab.org = {} ∧ s.svc.run[rn].dab.kept = l ∧ s.ctxsOf rn = [] ∧ (∀ (j : _), j < h.toNat → byte j ∈ l.map Prod.fst) ∧ h ∉ l.map Prod.fst ∧ (BitVec.ofNat 32 (256 * sh.toNat + sl.toNat), 0) ∉ l.map Prod.snd) ∧ (∃ (s : State) (rn : Fin 32) (o : DabFrameObs) (hi : Byte) (lo : Byte) (e : BitVec 16), 24 ≤ rn.val ∧ rn.val ≤ 27 ∧ s.svc.run[rn].active = true ∧ s.svc.run[rn].dab.timing = true ∧ s.svc.run[rn].lock = false ∧ s.svc.run[rn].dab.prsOkRun = 0 ∧ o.prsOk = true ∧ ((o.fibs.take 12).filter fibOk).flatMap (fun b => figsOf 30 (b.take 30)) = [⟨0, [0, hi, lo, 0, 7]⟩] ∧ s.svc.run[rn].dab.eid = some e ∧ e ≠ BitVec.ofNat 16 (256 * hi.toNat + lo.toNat) ∧ s.ctxsOf rn = []) ∧ (∃ (s : State) (rn : Fin 32), s.svc.run[rn].dab.timing = false) ∧ (∃ (s : State) (rn : Fin 32) (g : DabCifObs) (e : CifRec), 24 ≤ rn.val ∧ rn.val ≤ 27 ∧ s.svc.run[rn].active = true ∧ s.svc.run[rn].dab.timing = true ∧ s.svc.run[rn].dab.next = none ∧ s.svc.run[rn].dab.lastTs = none ∧ s.svc.run[rn].dab.stored < 15 ∧ s.svc.run[rn].dab.reconf = none ∧ s.ctxsOf rn = [] ∧ e = (s.svc.run[rn].cifRec (s.legsOf rn) g).1) ∧ (∃ (s : State) (rn : Fin 32) (g : DabCifObs) (ctx : Fin 256) (d : DabState) (b : DabSub), 24 ≤ rn.val ∧ rn.val ≤ 27 ∧ s.svc.run[rn].active = true ∧ s.svc.run[rn].dab.timing = true ∧ s.svc.run[rn].lock = true ∧ s.svc.run[rn].dab.next = none ∧ s.svc.run[rn].dab.lastTs = none ∧ 15 ≤ s.svc.run[rn].dab.stored ∧ s.svc.run[rn].dab.reconf = none ∧ d = (s.svc.run[rn].storeCif (s.legsOf rn) g).dab ∧ (s.svc.run[rn].cifRec (s.legsOf rn) g).1.erased = [] ∧ wholeSubs d.ring = [b] ∧ b.id ∉ d.fec ∧ d.superSync = [] ∧ s.ctxsOf rn = [ctx] ∧ s.svc.ctx[ctx].st = .running ∧ s.svc.ctx[ctx].kind = 1 ∧ compAddr s.svc.ctx[ctx].component ≠ 2 ∧ d.subOf s.svc.ctx[ctx] = some b.id ∧ s.svc.ctx[ctx].skip = 0 ∧ s.svc.ctx[ctx].staged = [] ∧ s.svc.ctx[ctx].lost = 0 ∧ s.svc.ctx[ctx].discDue = false ∧ 3 * b.kbps ≤ 2048 ∧ s.ringUp s.svc.ctx[ctx].ring = false) :=
  ⟨⟨running, cmd [27, 0xFF, 8, 0xFF, 10, 0, 0, 0], 27, (List.range 4).map (fun i => if (cmd [27, 0xFF, 8, 0xFF, 10, 0, 0, 0]).u8 (25 + i) = 0xFF then (running.svc.run[(27 : Fin 32)].dab.next.getD running.svc.run[(27 : Fin 32)].dab.settings).getD i 0 else byte ((cmd [27, 0xFF, 8, 0xFF, 10, 0, 0, 0]).u8 (25 + i))), by decide +kernel⟩, ⟨(runOn 24).modDab 24 (fun d => { d with timing := true, kept := [(0, 1, 2)] }), 24, dabFrame true [fibOf ([5, 0] ++ [0xE1, 0xC2, 0, 7] ++ [6, 2] ++ [0xD2, 0x20, 1, 63, 22])], 0xE1, 0xC2, 0xD2, 0x20, 63, 22, 1, [(0, 1, 2)], by decide +kernel⟩, ⟨(runOn 24).modDab 24 (fun d => { d with timing := true, eid := some 2, retuned := true, complete := true, kept := [(0, 1, 2)] }), 24, dabFrame true [fibOf ([5, 0] ++ [0xE1, 0xC2, 0, 7])], 0xE1, 0xC2, 2, by decide +kernel⟩, ⟨running, 24, by decide +kernel⟩, ⟨(runOn 24).modDab 24 (fun d => { d with timing := true }), 24, cifZero, ((((runOn 24).modDab 24 (fun d => { d with timing := true })).svc.run[(24 : Fin 32)]).cifRec (((runOn 24).modDab 24 (fun d => { d with timing := true })).legsOf 24) (cifZero)).1, by decide +kernel, by decide +kernel, by decide +kernel, by decide +kernel, by decide +kernel, by decide +kernel, by decide +kernel, by decide +kernel, by decide +kernel, rfl⟩, ⟨dabFull, 24, cifZero, 9, ((dabFull.svc.run[(24 : Fin 32)]).storeCif (dabFull.legsOf 24) cifZero).dab, subOne, by decide +kernel⟩⟩

/-- Hypotheses of DabRunnersDecodeTheirEnsemble, clause by clause. -/
theorem witness_DabRunnersDecodeTheirEnsemble_clauses2 : (∃ (s : State) (rn : Fin 32), s.svc.run[rn].dab.timing = false) ∧ (∃ (s : State) (ctx : Fin 256) (tid : _) (q : _), s.svc.ctx[ctx].mot = [q] ∧ q.tid = tid) :=
  ⟨⟨running, 24, by decide +kernel⟩, ⟨running.modCtx 0 (fun x => { x with mot := [motSeven] }), 0, 7, motSeven, by decide +kernel⟩⟩

/-- Hypotheses of DrmRunnersDecodeTheirMultiplex, clause by clause. -/
theorem witness_DrmRunnersDecodeTheirMultiplex_clauses : (∃ (s : State) (c : CmdEntry) (rn : Fin 32) (l : _), s.takes 0x0330 c = true ∧ c.u8 24 = rn.val ∧ 28 ≤ rn.val ∧ s.svc.run[rn].drm.mode = none ∧ (∀ (i : _), i < 3 → c.u8 (25 + i) = 0xFF ∨ (([(1, 15), (0, 8), (10, 255)].getD i (0, 0)).1 ≤ c.u8 (25 + i) ∧ c.u8 (25 + i) ≤ ([(1, 15), (0, 8), (10, 255)].getD i (0, 0)).2)) ∧ l = (List.range 3).map (fun i => if c.u8 (25 + i) = 0xFF then (s.svc.run[rn].drm.next.getD s.svc.run[rn].drm.settings).getD i 0 else byte (c.u8 (25 + i)))) ∧ (∃ (s : State) (rn : Fin 32) (m : Fin 4) (win : Fin 64), s.windowOf rn = some win ∧ s.win.win[win].preset ≠ 4 ∧ s.svc.run[rn].drm.modes.getLsbD m.val = false) ∧ (∃ (s : State) (rn : Fin 32) (o : DrmFrameObs), 28 ≤ rn.val ∧ s.svc.run[rn].active = true ∧ s.svc.run[rn].drm.mode.isSome = true ∧ s.svc.run[rn].lock = false ∧ s.svc.run[rn].drm.next = none ∧ s.svc.run[rn].drm.lastTs = none ∧ s.svc.run[rn].drm.pendingReconf = false ∧ s.svc.run[rn].drm.sdcComplete = false ∧ s.svc.run[rn].drm.services = [] ∧ s.svc.run[rn].drm.streams = [] ∧ s.ctxsOf rn = [] ∧ o.timeRefOk = true ∧ o.facOk = true ∧ o.reconf = 0 ∧ o.firstOfSuper = true ∧ o.sdc = some true ∧ (o.services.map Prod.fst).Nodup ∧ (o.streams.map Prod.fst).Nodup) ∧ (∃ (s : State) (rn : Fin 32) (o : DrmFrameObs), 28 ≤ rn.val ∧ s.svc.run[rn].active = true ∧ s.svc.run[rn].drm.mode.isSome = true ∧ s.svc.run[rn].lock = true ∧ s.svc.run[rn].drm.timeBadRun = 2 ∧ s.svc.run[rn].dab.timing = false ∧ s.svc.run[rn].drm.next = none ∧ s.svc.run[rn].drm.lastTs = none ∧ s.ctxsOf rn = [] ∧ o.timeRefOk = false ∧ o.facOk = false) ∧ (∃ (s : State) (rn : Fin 32), s.svc.run[rn].drm.mode = none) :=
  ⟨⟨running, cmd [31, 15, 0xFF, 10], 31, (List.range 3).map (fun i => if (cmd [31, 15, 0xFF, 10]).u8 (25 + i) = 0xFF then (running.svc.run[(31 : Fin 32)].drm.next.getD running.svc.run[(31 : Fin 32)].drm.settings).getD i 0 else byte ((cmd [31, 15, 0xFF, 10]).u8 (25 + i))), by decide +kernel⟩, ⟨(runOn 28).modDrm 28 (fun d => { d with modes := 7 }), 28, 3, 0, by decide +kernel⟩, ⟨(runOn 28).modDrm 28 (fun d => { d with mode := some 1 }), 28, ({ timeRefOk := true, facOk := true, firstOfSuper := true, sdc := some true, so := 3, longIl := true, mscQam := 1, sdcQam := 1, nAudio := 2, nData := 1, reconf := 0, listed := [1], facIds := [[9]], services := [(1, [5, 0, 0, 0, 2])], streams := [(2, [7])], labels := [1], infos := [1], utc := none, signal := [[3]], powers := [-100], mer := 60, wmer := 50, offset := 3, spread := 2, doppler := 1, legMer := [], ts := 8, first := 0, cells := [], gains := [] } : DrmFrameObs), by decide +kernel⟩, ⟨(runOn 28).modRun 28 (fun x => { x with lock := true, drm := { x.drm with mode := some 1, timeBadRun := 2 } }), 28, ({ timeRefOk := false, facOk := false, firstOfSuper := true, sdc := some true, so := 3, longIl := true, mscQam := 1, sdcQam := 1, nAudio := 2, nData := 1, reconf := 0, listed := [1], facIds := [[9]], services := [(1, [5, 0, 0, 0, 2])], streams := [(2, [7])], labels := [1], infos := [1], utc := none, signal := [[3]], powers := [-100], mer := 60, wmer := 50, offset := 3, spread := 2, doppler := 1, legMer := [], ts := 8, first := 0, cells := [], gains := [] } : DrmFrameObs), by decide +kernel⟩, ⟨running, 28, by decide +kernel⟩⟩

/-- Hypotheses of FollowingCommandsComplete, clause by clause. -/
theorem witness_FollowingCommandsComplete_clauses : (∃ (s : State) (c : CmdEntry) (old : _), s.takes 0x0401 c = true ∧ old = s.fan.nextPolicy.getD s.fan.policy ∧ c.bytes 54 2 = [0, 0] ∧ (∀ p : Nat × Nat × Nat, p ∈ policyBytes → c.u8 p.1 = 0xFF ∨ (p.2.1 ≤ c.u8 p.1 ∧ c.u8 p.1 ≤ p.2.2)) ∧ (∀ p : Nat × Nat × Nat, p ∈ policyWords → c.u16 p.1 = 0xFFFF ∨ (p.2.1 ≤ c.u16 p.1 ∧ c.u16 p.1 ≤ p.2.2)) ∧ (∀ i : Nat, i < 4 → (if c.u8 (24 + 2 * i) = 0xFF then (old.getD (2 * i) 0).toNat else c.u8 (24 + 2 * i)) < (if c.u8 (25 + 2 * i) = 0xFF then (old.getD (2 * i + 1) 0).toNat else c.u8 (25 + 2 * i)))) ∧ (∃ (s : State) (c : CmdEntry) (f : Fin 256) (a : _) (b : W) (i : _), s.takes 0x0402 c = true ∧ c.u8 24 = f.val ∧ c.u8 25 = 0 ∧ 1 ≤ c.u8 26 ∧ c.u8 26 ≤ 5 ∧ s.stdOn (byte (c.u8 26)) = true ∧ c.u8 27 = 0 ∧ s.svc.ctx[f].st ≠ .free ∧ s.svc.ctx[f].follow = true ∧ a = BitVec.ofNat 32 (c.u32 28) ∧ b = BitVec.ofNat 32 (c.u32 32) ∧ (∀ (j : Nat) (k : Cand), s.cand f j = some k → ¬ (k.std = byte (c.u8 26) ∧ k.freq = a ∧ k.ident = b)) ∧ i < 32 ∧ s.cand f i = none ∧ (∀ j : Nat, j < i → (s.cand f j).isSome = true) ∧ s.fan.follow[f].cands.length ≤ 32) ∧ (∃ (s : State) (c : CmdEntry) (f : Fin 256), s.takes 0x0402 c = true ∧ c.u8 24 = f.val ∧ c.u8 25 = 0 ∧ 1 ≤ c.u8 26 ∧ c.u8 26 ≤ 5 ∧ s.stdOn (byte (c.u8 26)) = true ∧ c.u8 27 = 0 ∧ s.svc.ctx[f].st ≠ .free ∧ s.svc.ctx[f].follow = true ∧ s.findCand f (byte (c.u8 26)) (BitVec.ofNat 32 (c.u32 28)) (BitVec.ofNat 32 (c.u32 32)) = none ∧ (∀ j : Nat, j < 32 → (s.cand f j).isSome = true)) ∧ (∃ (s : State) (c : CmdEntry) (f : Fin 256) (i : _) (k : Cand), s.takes 0x0402 c = true ∧ c.u8 24 = f.val ∧ 1 ≤ c.u8 25 ∧ c.u8 25 ≤ 3 ∧ 1 ≤ c.u8 26 ∧ c.u8 26 ≤ 5 ∧ c.u8 27 = 0 ∧ s.svc.ctx[f].st ≠ .free ∧ s.svc.ctx[f].follow = true ∧ s.findCand f (byte (c.u8 26)) (BitVec.ofNat 32 (c.u32 28)) (BitVec.ofNat 32 (c.u32 32)) = some i ∧ s.cand f i = some k ∧ (c.u8 25 = 1 → k.host = true)) ∧ (∃ (s : State) (c : CmdEntry) (f : Fin 256) (k : Cand) (m : _), s.takes 0x0404 c = true ∧ c.u8 24 = f.val ∧ c.u8 25 ≤ 31 ∧ c.u8 26 ≤ 1 ∧ c.u8 27 = 0 ∧ s.svc.ctx[f].st ≠ .free ∧ s.svc.ctx[f].follow = true ∧ s.cand f (c.u8 25) = some k ∧ (c.u8 26 = 1 ∨ s.ready f k = true) ∧ k.blocked = false ∧ s.candUsable k = true ∧ s.canDip f k = true ∧ s.fan.follow[f].blend = none ∧ m = s.pol16 42) ∧ (∃ (s : State) (c : CmdEntry) (f : Fin 256) (k : Cand) (bl : Blend), s.takes 0x0404 c = true ∧ c.u8 24 = f.val ∧ c.u8 25 ≤ 31 ∧ c.u8 26 ≤ 1 ∧ c.u8 27 = 0 ∧ s.svc.ctx[f].st ≠ .free ∧ s.svc.ctx[f].follow = true ∧ s.cand f (c.u8 25) = some k ∧ (c.u8 26 = 1 ∨ s.ready f k = true) ∧ k.blocked = false ∧ s.candUsable k = true ∧ s.canDip f k = true ∧ s.fan.follow[f].blend = some bl ∧ s.isCurrent f k.std k.freq = false) :=
  ⟨⟨running, cmd (List.replicate 30 0xFF ++ [0, 0]), running.fan.nextPolicy.getD running.fan.policy, by decide +kernel⟩, ⟨followOn [], cmd [0, 0, 5, 0, 1, 0, 0, 0, 2, 0, 0, 0], 0, 1, 2, 0, by decide +kernel, by decide +kernel, by decide +kernel, by decide +kernel, by decide +kernel, by decide +kernel, by decide +kernel, by decide +kernel, by decide +kernel, rfl, rfl, (fun _ _ h => nomatch h), by decide +kernel, by decide +kernel, (fun _ h => absurd h (Nat.not_lt_zero _)), by decide +kernel⟩, ⟨followOn (List.replicate 32 (some candFm)), cmd [0, 0, 1, 0, 1, 0, 0, 0, 2, 0, 0, 0], 0, by decide +kernel⟩, ⟨followOn [some { candFm with host := true, freq := 1, ident := 2 }], cmd [0, 1, 1, 0, 1, 0, 0, 0, 2, 0, 0, 0], 0, 0, { candFm with host := true, freq := 1, ident := 2 }, by decide +kernel⟩, ⟨shadowOn candReady, cmd [0, 0, 1, 0], 0, { candReady with shadow := some 1 }, 250, by decide +kernel⟩, ⟨blending false, cmd [0, 0, 1, 0], 0, { candReady with shadow := some 1 }, blendTo false, by decide +kernel⟩⟩

/-- Hypotheses of TheFantailScoresAndDecides, clause by clause. -/
theorem witness_TheFantailScoresAndDecides_clauses : (∃ (s : State) (l : _), s.pairRuns 0 = true ∧ s.followed = [] ∧ s.fanWins = [] ∧ s.idleShadows = [] ∧ s.fan.heard = [] ∧ s.fan.links = [] ∧ s.fan.freqs = [] ∧ s.fan.others = [] ∧ s.fan.sdcs = [] ∧ s.fan.nextPolicy = some l) ∧ (∃ (s : State) (f : Fin 256), s.pairRuns 0 = true ∧ s.fan.ctl.getLsbD 0 = true ∧ s.followed = [f] ∧ s.fanWins = [] ∧ s.fan.nextPolicy = none ∧ s.fan.follow[f].cands = [] ∧ s.fan.follow[f].blend = none ∧ s.shadowsOf f = [] ∧ s.svc.ctx[f].st = .acquiring ∧ s.fan.heard = [] ∧ s.fan.links = [] ∧ s.fan.freqs = [] ∧ s.fan.others = [] ∧ s.fan.sdcs = [] ∧ s.signals f = []) ∧ (∃ (s : State) (f : Fin 256) (c : Fin 256) (k : Cand), s.pairRuns 0 = true ∧ s.fan.ctl.getLsbD 0 = true ∧ s.followed = [f] ∧ s.fanWins = [] ∧ s.fan.nextPolicy = none ∧ s.fan.follow[f].cands = [some k] ∧ s.fan.follow[f].blend = none ∧ s.shadowsOf f = [c] ∧ 1 ≤ s.pol 51 ∧ s.svc.ctx[f].st = .acquiring ∧ k.shadow = some c ∧ k.blocked = false ∧ s.ready f (s.judge f k) = true ∧ s.fan.heard = [] ∧ s.fan.links = [] ∧ s.fan.freqs = [] ∧ s.fan.others = [] ∧ s.fan.sdcs = [] ∧ s.signals f = []) ∧ (∃ (s : State) (f : Fin 256) (a : _) (k : Cand) (t : _), s.svc.ctx[f].follow = true ∧ s.fan.follow[f].blend = none ∧ s.fan.follow[f].cands = [some k] ∧ s.ready f k = true ∧ k.blocked = false ∧ s.fan.ctl.getLsbD 0 = true ∧ t = s.gapMs f a) ∧ (∃ (s : State) (f : Fin 256) (a : _) (b : Blend) (t : _), s.svc.ctx[f].follow = true ∧ s.fan.follow[f].blend = some b ∧ b.dip = false ∧ b.reversed = false ∧ t = s.gapMs f a ∧ t < s.blendLeft b) :=
  ⟨⟨{ running with fan := { running.fan with nextPolicy := some [1] } }, [1], by decide +kernel⟩, ⟨((followOn []).modCtx 0 fun x => { x with st := .acquiring }), 0, by decide +kernel⟩, ⟨(shadowOn candReady).modCtx 0 (fun x => { x with st := .acquiring }), 0, 1, { candReady with shadow := some 1 }, by decide +kernel⟩, ⟨((shadowOn { candReady with lag := 0 }).modCtx 0 (fun x => { x with delay := 200 })).modCtx 1 (fun x => { x with delay := 200 }) |>.modFollow 0 (fun w => { w with delayFrames := 48 * 0 }), 0, false, { candReady with shadow := some 1 }, 0, by decide +kernel⟩, ⟨((blending false).modCtx 0 (fun x => { x with delay := 200 })) |>.modFollow 0 (fun w => { w with delayFrames := 48 * 0 }), 0, false, blendTo false, 0, by decide +kernel⟩⟩

/-- Hypotheses of EstimatorsAlignShadows, clause by clause. -/
theorem witness_EstimatorsAlignShadows_clauses : (∃ (s : State) (e : Fin 4) (f : Fin 256) (i : Nat) (k : Cand), s.fan.est[e].work = some (f, i) ∧ s.cand f i = some k ∧ k.converged = false ∧ s.fan.est[e].fine = false ∧ s.historyOk f k = false) ∧ (∃ (s : State) (e : Fin 4) (o : AlignObs) (f : Fin 256) (i : Nat) (k : Cand) (x : Estimate), s.fan.est[e].work = some (f, i) ∧ s.cand f i = some k ∧ alignSkip o = false ∧ k.shadow.isSome = true ∧ k.converged = false ∧ s.fan.est[e].fine = false ∧ s.historyOk f k = true ∧ x = alignEstimate o (s.lagMax f k) ∧ s.pol 48 ≤ x.peak ∧ x.distinct = true ∧ x.nearEdge = false ∧ (s.fan.est[e].coarse.all fun l => decide (2 < (x.lag - l).natAbs)) = true) ∧ (∃ (s : State) (e : Fin 4) (o : AlignObs) (f : Fin 256) (i : Nat) (k : Cand) (x : Estimate), s.fan.est[e].work = some (f, i) ∧ s.cand f i = some k ∧ alignSkip o = false ∧ k.shadow.isSome = true ∧ k.converged = false ∧ s.fan.est[e].fine = false ∧ s.historyOk f k = true ∧ x = alignEstimate o (s.lagMax f k) ∧ (x.peak < s.pol 48 ∨ x.distinct = false ∨ x.nearEdge = true)) ∧ (∃ (s : State) (e : Fin 4) (o : AlignObs) (f : Fin 256) (i : Nat) (k : Cand) (x : Estimate), s.fan.est[e].work = some (f, i) ∧ s.cand f i = some k ∧ alignSkip o = false ∧ k.shadow.isSome = true ∧ k.converged = false ∧ s.fan.est[e].fine = false ∧ s.historyOk f k = true ∧ x = alignEstimate o (s.lagMax f k) ∧ s.pol 48 ≤ x.peak ∧ x.distinct = true ∧ x.nearEdge = false ∧ (s.fan.est[e].coarse.any fun l => decide ((x.lag - l).natAbs ≤ 2)) = true) ∧ (∃ (s : State) (e : Fin 4) (o : AlignObs) (f : Fin 256) (i : Nat) (k : Cand) (x : Int × Nat), s.fan.est[e].work = some (f, i) ∧ s.cand f i = some k ∧ alignSkip o = false ∧ k.shadow.isSome = true ∧ x = alignFine o k.lag ∧ k.converged = false ∧ s.fan.est[e].fine = true) ∧ (∃ (s : State) (e : Fin 4) (o : AlignObs) (f : Fin 256) (i : Nat) (k : Cand) (x : Int × Nat), s.fan.est[e].work = some (f, i) ∧ s.cand f i = some k ∧ alignSkip o = false ∧ k.shadow.isSome = true ∧ x = alignFine o k.lag ∧ k.converged = true) :=
  ⟨⟨estOn candFm id, 0, 0, 0, { candFm with shadow := some 1 }, by decide +kernel⟩, ⟨heardOn (estOn candFm id), 0, envelope 99 60, 0, 0, { candFm with shadow := some 1 }, alignEstimate (envelope 99 60) ((heardOn (estOn candFm id)).lagMax 0 ({ candFm with shadow := some 1 })), by decide +kernel⟩, ⟨heardOn (estOn candFm (fun x => { x with coarse := some 96 })), 0, envelope 99 59, 0, 0, { candFm with shadow := some 1 }, alignEstimate (envelope 99 59) ((heardOn (estOn candFm (fun x => { x with coarse := some 96 }))).lagMax 0 ({ candFm with shadow := some 1 })), by decide +kernel⟩, ⟨heardOn (estOn candFm (fun x => { x with coarse := some 97 })), 0, envelope 99 60, 0, 0, { candFm with shadow := some 1 }, alignEstimate (envelope 99 60) ((heardOn (estOn candFm (fun x => { x with coarse := some 97 }))).lagMax 0 ({ candFm with shadow := some 1 })), by decide +kernel⟩, ⟨estOn candFm (fun x => { x with fine := true, short := 3 }), 0, envelope 0 59, 0, 0, { candFm with shadow := some 1 }, alignFine (envelope 0 59) 0, by decide +kernel⟩, ⟨estOn candReady (fun x => { x with short := 8 }), 0, envelope 0 59, 0, 0, { candReady with shadow := some 1 }, alignFine (envelope 0 59) 0, by decide +kernel⟩⟩

/-- Hypotheses of EstimatorsAlignShadows, clause by clause. -/
theorem witness_EstimatorsAlignShadows_clauses2 : (∃ (s : State) (e : Fin 4) (o : AlignObs) (f : Fin 256) (i : Nat) (k : Cand) (x : Estimate), s.fan.est[e].work = some (f, i) ∧ s.cand f i = some k ∧ k.converged = true ∧ alignSkip o = false ∧ x = alignEstimate o (s.lagMax f k) ∧ 960 < (48 * x.lag - k.lag).natAbs) ∧ (∃ (s : State) (f : Fin 256) (i : Fin 32) (k : Cand), s.cand f i.val = some k ∧ (k.shadow = none ∨ s.shadowDelay f k < 0 ∨ 288000 < s.shadowDelay f k)) :=
  ⟨⟨estOn candReady id, 0, envelope 21 60, 0, 0, { candReady with shadow := some 1 }, alignEstimate (envelope 21 60) ((estOn candReady id).lagMax 0 ({ candReady with shadow := some 1 })), by decide +kernel⟩, ⟨shadowOn { candFm with lag := 1 }, 0, 0, { candFm with shadow := some 1, lag := 1 }, by decide +kernel⟩⟩

/-- Hypotheses of BulletinCommandsComplete, clause by clause. -/
theorem witness_BulletinCommandsComplete_clauses : (∃ (s : State) (c : CmdEntry) (f : _), s.takes 0x0601 c = true ∧ f = BitVec.ofNat 64 (c.u64 24) ∧ c.u64 24 ≠ 0 ∧ c.u64 24 ≠ 2 ^ 64 - 1 ∧ c.u8 32 ≤ 15 ∧ c.bytes 33 3 = [0, 0, 0] ∧ (s.bul.keysLocked = false ∨ s.bul.fleetId = f)) ∧ (∃ (s : State) (c : CmdEntry) (k : Fin 2), s.takes 0x0602 c = true ∧ c.u8 24 = k.val ∧ (c.u8 25 = 1 ∨ c.u8 25 = 3) ∧ c.bytes 26 2 = [0, 0] ∧ c.bufIn = true ∧ s.bul.keysLocked = false) ∧ (∃ (s : State) (c : CmdEntry) (rn : Fin 32) (ant : Fin 4), s.takes 0x0603 c = true ∧ c.u8 24 ≤ 1 ∧ c.u8 25 = ant.val ∧ 1 ≤ c.u8 26 ∧ c.u8 26 ≤ 5 ∧ c.u8 27 = rn.val ∧ presetRunner (c.u8 26) rn.val = true ∧ kindServed rn 5 = true ∧ s.cap.hr[ant].bandOk (c.u8 26) (c.u32 28) = true ∧ compOk rn 5 (BitVec.ofNat 32 (c.u32 32)) = true ∧ 60 ≤ c.u16 36 ∧ 10 ≤ c.u16 38 ∧ c.u16 38 ≤ 600 ∧ c.bytes 44 4 = [0, 0, 0, 0]) ∧ (∃ (s : State) (c : CmdEntry) (rn : Fin 32) (ant : Fin 4), s.takes 0x0603 c = true ∧ c.u8 24 ≤ 1 ∧ c.u8 25 = ant.val ∧ 1 ≤ c.u8 26 ∧ c.u8 26 ≤ 5 ∧ c.u8 27 = rn.val ∧ presetRunner (c.u8 26) rn.val = true ∧ kindServed rn 5 = true ∧ s.cap.hr[ant].bandOk (c.u8 26) (c.u32 28) = true ∧ compOk rn 5 (BitVec.ofNat 32 (c.u32 32)) = true ∧ c.u16 36 < 60) :=
  ⟨⟨running, cmd [1, 0, 0, 0, 0, 0, 0, 0, 15, 0, 0, 0], 1, by decide +kernel⟩, ⟨running, cmdIn [1, 3, 0, 0] (zeros 2592), 1, by decide +kernel⟩, ⟨running, cmd ([1, 3, 3, 15, 0x00, 0xE1, 0xF5, 0x05, 0, 0, 1, 0, 60, 0, 0x58, 2, 0, 0, 0, 0, 0, 0, 0, 0]), 15, 3, by decide +kernel⟩, ⟨running, cmd ([0, 0, 3, 0, 0x00, 0xE1, 0xF5, 0x05, 0, 0, 1, 0, 59, 0, 10, 0, 0, 0, 0, 0, 0, 0, 0, 0]), 0, 0, by decide +kernel⟩⟩

/-- Hypotheses of SegmentsBecomeBulletins, clause by clause. -/
theorem witness_SegmentsBecomeBulletins_clauses : ∃ (s : State) (o : SegObs) (b : List Byte) (n : Nat), s.carries o.runner = true ∧ bulletinOf o.group = some b ∧ s.saf.safe = false ∧ s.bul.fleetId ≠ 0 ∧ (n = (if b.length < 28 then 4 else if segFleet b ≠ s.bul.fleetId.toNat then 1 else if segKind b = 0 ∨ 4 < segKind b then 2 else if segSeq b < s.bulCtr (segKind b) then 3 else if segSeq b = s.bulCtr (segKind b) then 6 else if segOk b (segTransport o.runner).2 = false then 4 else 0)) ∧ n ≠ 0 :=
  ⟨bulOn id, segObs (zeros 27), zeros 27, 4, by decide +kernel⟩

/-- Hypotheses of AudioCommandsComplete, clause by clause. -/
theorem witness_AudioCommandsComplete_clauses : (∃ (s : State) (c : CmdEntry) (n : Fin 4), s.takes 0x0501 c = true ∧ c.u8 24 = n.val ∧ 1 ≤ c.u8 25 ∧ c.u8 25 ≤ 16 ∧ c.u8 26 ≤ 2 ∧ c.u8 27 ≤ 0x1F ∧ (c.u8 27 % 2 = 1 → c.u8 25 % 2 = 0) ∧ s.clkSrcOk n (c.u8 28) = true ∧ c.bytes 29 3 = [0, 0, 0] ∧ c.u16 32 < 2 ^ c.u8 25 ∧ c.u16 34 < 2 ^ c.u8 25 ∧ s.aud.ports[n].st = 0 ∧ (∀ j : Fin 4, s.aud.ports[j].clksrc = n → s.aud.ports[j].st = 0)) ∧ (∃ (s : State) (c : CmdEntry) (q : Fin 12), s.takes 0x0505 c = true ∧ c.u8 24 = q.val ∧ isQueue q.val = true ∧ c.u8 25 = 1 ∧ c.u8 26 ≤ 63 ∧ c.u8 27 ≤ 63 ∧ c.u8 27 ≠ c.u8 26 ∧ 48 ≤ c.u16 28 ∧ c.u16 28 ≤ 480 ∧ 2 ≤ c.u8 30 ∧ c.u8 30 ≤ 64 ∧ 1 ≤ c.u8 31 ∧ c.u8 31 ≤ 40 ∧ 96 * c.u8 31 + c.u16 28 ≤ c.u8 30 * c.u16 28 ∧ c.bytes 32 4 = [0, 0, 0, 0] ∧ s.queueBusy q = false ∧ (gpLowest (s.dma.gp.filter fun e : GpAlloc => decide (e.owner ≠ GpOwner.queue q)) (c.u8 30 * (16 + (if q.val = 4 then 32 else 64) * c.u16 28))).isSome = true) ∧ (∃ (s : State) (c : CmdEntry) (q : Fin 12), s.takes 0x0505 c = true ∧ c.u8 24 = q.val ∧ isQueue q.val = true ∧ c.u8 25 = 1 ∧ c.u8 26 ≤ 63 ∧ c.u8 27 ≤ 63 ∧ c.u8 27 ≠ c.u8 26 ∧ 48 ≤ c.u16 28 ∧ c.u16 28 ≤ 480 ∧ 2 ≤ c.u8 30 ∧ c.u8 30 ≤ 64 ∧ 1 ≤ c.u8 31 ∧ c.u8 31 ≤ 40 ∧ c.bytes 32 4 = [0, 0, 0, 0]) :=
  ⟨⟨running, cmd [3, 16, 2, 0x1F, 3, 0, 0, 0, 0xFF, 0xFF, 0, 0], 3, by decide +kernel⟩, ⟨running, cmd [1, 1, 63, 0, 96, 0, 8, 5, 0, 0, 0, 0], 1, by decide +kernel⟩, ⟨running, cmd [1, 1, 63, 0, 96, 0, 5, 5, 0, 0, 0, 0], 1, by decide +kernel⟩⟩

/-- Hypotheses of AudioFramesMove, clause by clause. -/
theorem witness_AudioFramesMove_clauses : (∃ (s : State), (∀ n : Fin 4, s.aud.ports[n].st = 0 ∧ s.aud.ports[n].nextMasks = [] ∧ s.aud.ports[n].nextMap = [] ∧ s.aud.ports[n].starting = false ∧ s.aud.ports[n].stopping = false) ∧ s.aud.pdmNext = [] ∧ s.aud.pdmEn = 0) ∧ (∃ (s : State) (n : Fin 4) (g : Fin 5), s.aud.ports[n].st = 3 ∧ s.aud.ports[n].nextMasks = [] ∧ s.aud.ports[n].nextMap = [] ∧ s.aud.ports[n].stopping = false ∧ s.aud.ports[n].starting = false ∧ s.aud.ports[n].clksrc.val = g.val ∧ s.aud.groups[g].qualified = true ∧ s.aud.pdmNext = [] ∧ s.aud.pdmEn = 0 ∧ s.aud.queues[(Fin.ofNat 12 (8 + n.val) : Fin 12)].en = false ∧ s.aud.ports[n].ramp = none ∧ s.aud.queues[n.castLE (by decide : 4 ≤ 12)].en = false ∧ (∀ m : Fin 4, m ≠ n → s.aud.ports[m].st = 0 ∧ s.aud.ports[m].nextMasks = [] ∧ s.aud.ports[m].nextMap = [] ∧ s.aud.ports[m].starting = false ∧ s.aud.ports[m].stopping = false)) ∧ (∃ (s : State) (n : Fin 4) (g : Fin 5) (o : AudFrameObs) (x : ExtFrame) (w : List (Option W)) (r : List TxFrame) (e : LineFrame) (l : List LineFrame), s.aud.ports[n].st = 3 ∧ s.aud.ports[n].nextMasks = [] ∧ s.aud.ports[n].nextMap = [] ∧ s.aud.ports[n].stopping = false ∧ s.aud.ports[n].starting = false ∧ s.aud.ports[n].clksrc.val = g.val ∧ s.aud.groups[g].qualified = true ∧ s.aud.pdmNext = [] ∧ s.aud.pdmEn = 0 ∧ s.aud.queues[(Fin.ofNat 12 (8 + n.val) : Fin 12)].en = false ∧ n.val = g.val ∧ (∀ m : Fin 4, m ≠ n → s.aud.ports[m].st = 0 ∧ s.aud.ports[m].nextMasks = [] ∧ s.aud.ports[m].nextMap = [] ∧ s.aud.ports[m].starting = false ∧ s.aud.ports[m].stopping = false) ∧ o.ports.getD n.val [] = [x] ∧ s.aud.groups[g].txFifo = [(n, w)] :: r ∧ s.aud.groups[g].line = e :: l ∧ r.length ≤ 13) ∧ (∃ (s : State) (n : Fin 4) (g : Fin 5) (q : Fin 12) (x : Queue) (e : LineFrame) (l : List LineFrame) (w : List W), q.val = n.val ∧ s.aud.ports[n].st = 3 ∧ s.aud.ports[n].nextMasks = [] ∧ s.aud.ports[n].nextMap = [] ∧ s.aud.ports[n].stopping = false ∧ s.aud.ports[n].starting = false ∧ s.aud.ports[n].clksrc.val = g.val ∧ s.aud.groups[g].qualified = true ∧ s.aud.pdmNext = [] ∧ s.aud.pdmEn = 0 ∧ s.aud.queues[(Fin.ofNat 12 (8 + n.val) : Fin 12)].en = false ∧ (∀ m : Fin 4, m ≠ n → s.aud.ports[m].st = 0 ∧ s.aud.ports[m].nextMasks = [] ∧ s.aud.ports[m].nextMap = [] ∧ s.aud.ports[m].starting = false ∧ s.aud.ports[m].stopping = false) ∧ s.clk.lossInRun = false ∧ s.aud.groups[g].line = e :: l ∧ e.rx = [(q, x.mask, w)] ∧ x = s.aud.queues[q] ∧ x.en = true ∧ x.st = .playing ∧ x.blocks ≠ 0 ∧ x.pos + 1 < x.p) :=
  ⟨⟨running, by decide +kernel⟩, ⟨(streamOn .playing 2 (portOn 3 15 0)).modPort 1 (fun p => { p with slotmap := [6, 7], format := 0 }), 1, 1, by decide +kernel⟩, ⟨lineOn none, 1, 1, ⟨[[], [⟨256, [1, 2, 0x123456FF]⟩], [], []], []⟩, ⟨256, [1, 2, 0x123456FF]⟩, [some 7], List.replicate 7 [(1, [some 7])], lineFrame, [lineFrame], by decide +kernel⟩, ⟨lineOn none, 1, 1, 1, (lineOn none).aud.queues[(1 : Fin 12)], lineFrame, [lineFrame], [5, 6], by decide +kernel⟩⟩

/-- Hypotheses of ReceiverCommandsAndWindows, clause by clause. -/
theorem witness_ReceiverCommandsAndWindows_clauses : (∃ (s : State) (c : CmdEntry), s.takes 0x0703 c = true ∧ c.u8 24 ≤ 1 ∧ 1 ≤ c.u8 25 ∧ c.u8 25 ≤ 7 ∧ c.u8 26 ≤ 1 ∧ 1 ≤ c.u8 27 ∧ c.u8 27 ≤ 3 ∧ 200 ≤ c.u16 28 ∧ c.u16 28 ≤ 10000 ∧ 5 ≤ c.u16 30 ∧ c.u16 30 ≤ 200 ∧ c.u8 32 ≤ 1 ∧ c.bytes 33 3 = [0, 0, 0]) ∧ (∃ (s : State) (b : Byte), s.acc.synthSt = 2 ∧ s.acc.synthCh.val = rfChannel b.toNat ∧ s.acc.synth[s.acc.synthCh].excluded = false) ∧ (∃ (s : State) (b : Byte), (s.acc.synthSt ≠ 2 ∨ s.acc.synthCh.val ≠ rfChannel b.toNat)) :=
  ⟨⟨running, cmd [1, 7, 0, 3, 16, 39, 200, 0, 1, 0, 0, 0], by decide +kernel⟩, ⟨{ running with sys := { running.sys with timeUs := 10 }, acc := { running.acc with synthSt := 2, synthCh := 80 } }, 39, by decide +kernel⟩, ⟨{ running with sys := { running.sys with timeUs := 10 }, acc := { running.acc with synthSt := 1, synthCh := 80 } }, 39, by decide +kernel⟩⟩

/-- Hypotheses of PacketsAreChosenAndReported, clause by clause. -/
theorem witness_PacketsAreChosenAndReported_clauses : (∃ (s : State), s.acc.rxClosed = true) ∧ (∃ (s : State), s.acc.cur = none) ∧ (∃ (s : State) (e : PktEndObs) (p : RxPacket) (k : BitVec 16), s.acc.cur = some p ∧ p.headerOk = true ∧ p.phys = .data k ∧ s.acc.rxNow.report = 0 ∧ e.hci = [] ∧ e.opened = none ∧ e.closed = none ∧ e.link = none ∧ s.acc.rxClosed = false ∧ e.crcOk = true) ∧ (∃ (s : State) (e : PktEndObs) (p : RxPacket), s.acc.cur = some p ∧ p.headerOk = true ∧ p.phys = .primaryAdv ∧ s.acc.rxNow.report = 0 ∧ e.hci = [] ∧ e.opened = none ∧ e.closed = none ∧ e.crcOk = true ∧ s.slotByIrk e = none ∧ s.acc.listening = true ∧ s.acc.filterNow.getLsbD 1 = true ∧ s.acc.acceptList.contains e.addr = true ∧ s.cred.flow = none ∧ s.cred.flowWaits = none ∧ s.acc.conns = [] ∧ s.acc.hostCs = false) ∧ (∃ (s : State), (s.acc.cur = none ∨ ∃ p : RxPacket, s.acc.cur = some p ∧ p.headerOk = false)) :=
  ⟨⟨{ receiving none none with acc := { (receiving none none).acc with rxClosed := true } }, by decide +kernel⟩, ⟨running, by decide +kernel⟩, ⟨{ receiving (some (rxPacket (.data 3) true)) none with acc := { (receiving (some (rxPacket (.data 3) true)) none).acc with conns := [{ handle := 3, slot := none, rssi := [1, 2, 3, 4, 5, 6, 7, 8], aa := 0 }, { handle := 4, slot := none, rssi := [], aa := 0 }] } }, pktFrom (0, []), rxPacket (.data 3) true, 3, by decide +kernel⟩, ⟨listeningOn false, pktFrom (0, [1, 2, 3, 4, 5, 6]), rxPacket .primaryAdv true, by decide +kernel⟩, ⟨running, by decide +kernel⟩⟩

/-- Hypotheses of FrontEndCommandsComplete, clause by clause. -/
theorem witness_FrontEndCommandsComplete_clauses : ∃ (s : State) (c : CmdEntry) (ch : Fin 81) (m : Fin 4), s.takes 0x0710 c = true ∧ c.u8 24 = ch.val ∧ c.u8 25 ≤ 2 ∧ c.u8 27 = m.val ∧ s.driver (toSigned 1 (c.u8 26)) m ≤ 12 ∧ c.u16 28 ≠ 0 ∧ c.bytes 32 4 = [0, 0, 0, 0] ∧ s.below 1 = false ∧ s.onFio = false ∧ s.radioBusy = false ∧ s.acc.synth[ch].excluded = false :=
  ⟨running, cmd [80, 2, 12, 3, 1, 0, 100, 0, 0, 0, 0, 0], 80, 3, by decide +kernel⟩

/-- Hypotheses of RadioActivityIsSequenced, clause by clause. -/
theorem witness_RadioActivityIsSequenced_clauses : (∃ (s : State) (ch : Fin 81), s.acc.synth[ch].excluded = true) ∧ (∃ (s : State) (k : Fin 7), s.acc.activity = none ∧ s.acc.coexCfg.getLsbD 0 = false ∧ k.val < 4) ∧ (∃ (s : State) (ch : Fin 81), s.acc.activity = none ∧ s.acc.dpdCand = none ∧ s.lockedOn ch = true ∧ pageValid s.acc.regPage = false) ∧ (∃ (s : State) (ch : Fin 81), s.acc.activity = none ∧ s.acc.dpdCand = none ∧ s.lockedOn ch = false) ∧ (∃ (s : State), s.acc.activity = none ∧ s.acc.coexCfg.getLsbD 0 = true ∧ s.acc.coexCfg.getLsbD 2 = false) ∧ (∃ (s : State) (x : Activity), s.acc.activity = some x ∧ x.tx = false ∧ s.acc.dpdCand = none) :=
  ⟨⟨{ running with acc := { running.acc with synth := running.acc.synth.set 80 { st := 3, excluded := true } } }, 80, by decide +kernel⟩, ⟨{ synthOn goodPage 79 with acc := { (synthOn goodPage 79).acc with fbCut := [(79, 3)] } }, 2, by decide +kernel⟩, ⟨synthOn (zeros 128) 79, 79, by decide +kernel⟩, ⟨running, 79, by decide +kernel⟩, ⟨{ running with acc := { running.acc with coexCfg := 9, listening := true } }, by decide +kernel⟩, ⟨{ onAirOf false 1 with sys := { running.sys with timeUs := 99 } }, onAirX false 1, by decide +kernel⟩⟩

/-- Hypotheses of RadioActivityIsSequenced, clause by clause. -/
theorem witness_RadioActivityIsSequenced_clauses2 : (∃ (s : State) (m : Fin 2) (y : Bool), s.acc.dpdCfg.getLsbD 0 = true ∧ s.acc.fbLost = false ∧ s.dpdMode = some m ∧ (s.acc.activity.isSome = true ∨ (y = true ∧ s.acc.dpdYields < 100))) ∧ (∃ (s : State) (m : Fin 2) (y : Bool), s.acc.dpdCfg.getLsbD 0 = true ∧ s.acc.fbLost = false ∧ s.dpdMode = some m ∧ s.acc.activity = none ∧ (y = false ∨ 100 ≤ s.acc.dpdYields)) ∧ (∃ (s : State), (s.acc.dpdCfg.getLsbD 0 = false ∨ s.acc.fbLost = true)) :=
  ⟨⟨{ running with acc := { running.acc with dpdCapt := 2, dpdYields := 99, dpdSteps := #v[0, 6] } }, 1, true, by decide +kernel⟩, ⟨{ running with acc := { running.acc with dpdCapt := 2, dpdYields := 100, dpdSteps := #v[0, 6] } }, 1, true, by decide +kernel⟩, ⟨{ running with acc := { running.acc with dpdCfg := 0 } }, by decide +kernel⟩⟩

/-- Hypotheses of TheUnlockFlowAndItsVerdict, clause by clause. -/
theorem witness_TheUnlockFlowAndItsVerdict_clauses : ∃ (s : State) (p : Fin 4 × List Tone) (h : LineFit), h = fitLine (unwrapped (s.goodTones p.2)) :=
  ⟨{ rangingOn with cal := { rangingOn.cal with pathOff := [120, 7, 8, 9] } }, (0, (List.finRange 81).map fun c : Fin 81 => ({ chan := c, mdeg := 0 * c.val + c.val % 3, here := true, there := true } : Tone)), fitLine (unwrapped (rangingOn.goodTones ((0, (List.finRange 81).map fun c : Fin 81 => ({ chan := c, mdeg := 0 * c.val + c.val % 3, here := true, there := true } : Tone)) : Fin 4 × List Tone).2)), rfl⟩

/-- Hypotheses of DmaCommandsAndDescriptors, clause by clause. -/
theorem witness_DmaCommandsAndDescriptors_clauses : ∃ (s : State) (l : Fin 64) (n : Fin 16), s.dma.ch[n].st = .waiting ∧ s.dma.ch[n].waitEvl = l ∧ s.dma.ch[n].held = false ∧ s.dma.ch[n].fetchDue = false ∧ s.dma.ch[n].inFlight = false ∧ s.dma.ch[n].pending = 0 ∧ ctrlWait (s.dmaCtrl n) = true ∧ ctrlShuf (s.dmaCtrl n) ≠ 1 ∧ (∀ (m : Fin 16), m ≠ n → s.dma.ch[m].st = .idle ∧ s.dma.ch[m].inFlight = false) :=
  ⟨dmaOn (fun x => { x with st := .waiting, waitEvl := 9 }) (descAt 0x20770000 0x20770100 1 0x12 1), 9, 0, by decide +kernel⟩

/-- Hypotheses of TwoWireTrafficRuns, clause by clause. -/
theorem witness_TwoWireTrafficRuns_clauses : ∃ (s : State) (c : CmdEntry) (p : Fin 2) (a : Byte) (w : Nat) (r : Nat) (n : Nat) (b : Bool), s.takes 0x0B01 c = true ∧ c.bytes 24 12 = [byte p.val, a, byte n, byte (c.u8 27), byte (b01 b), 0] ++ leBytes 2 w ++ leBytes 2 r ++ [0, 0] ∧ n ≤ 8 ∧ (b = true → 2 ≤ n) ∧ (if n = 4 ∨ n = 6 ∨ n = 8 then 1 ≤ w ∧ w ≤ 255 else w = 0) ∧ (if n = 3 then r = 1 else if n = 5 ∨ n = 7 ∨ n = 8 then 1 ≤ r ∧ r ≤ 255 else r = 0) ∧ c.bufLen.toNat = max w r ∧ c.bufIn = decide (0 < w) ∧ c.bufOut = decide (0 < r) ∧ 8 ≤ a.toNat ∧ a.toNat ≤ 0x77 ∧ (a = 0x0C → s.tw.port[p].cfg.getLsbD 16 = false) :=
  ⟨running, { cmd [1, 0x77, 8, 3, 1, 0, 255, 0, 255, 0, 0, 0] with flags := 6, bufLen := 255 }, 1, 0x77, 255, 255, 8, true, by decide +kernel⟩

/-- Hypotheses of CalibrationRuns, clause by clause. -/
theorem witness_CalibrationRuns_clauses : ∃ (o : CalAObs) (x : List (Nat × Element)), CalAObs.usableElements o = x :=
  ⟨calPair 0 15, CalAObs.usableElements (calPair 0 15), by decide +kernel⟩

/-- Hypotheses of HciEntriesReachTheController, clause by clause. -/
theorem witness_HciEntriesReachTheController_clauses : (∃ (s : State) (e : HciEntry) (p : List Byte) (o : Nat) (l : List Byte) (row : OpRow), s.pairRuns 0 = true ∧ s.sys.recovery = false ∧ s.ringUp 3 = true ∧ s.host.rings[3].used ≠ 0 ∧ s.accWaiting = [] ∧ s.host.hciWaiting = [] ∧ e.type = 1 ∧ 3 ≤ e.len.toNat ∧ e.len.toNat ≤ 268 ∧ e.packet.take e.len.toNat = p ∧ p = leBytes 2 o ++ [byte l.length] ++ l ∧ o < 65536 ∧ l.length ≤ 255 ∧ o / 256 = 0xFE ∧ opRow (0x0700 + o % 256) = some row) ∧ (∃ (s : State) (e : HciEntry) (p : List Byte) (o : Nat) (l : List Byte), s.pairRuns 0 = true ∧ s.sys.recovery = false ∧ s.ringUp 3 = true ∧ s.host.rings[3].used ≠ 0 ∧ s.accWaiting = [] ∧ s.host.hciWaiting = [] ∧ e.type = 1 ∧ 3 ≤ e.len.toNat ∧ e.len.toNat ≤ 268 ∧ e.packet.take e.len.toNat = p ∧ p = leBytes 2 o ++ [byte l.length] ++ l ∧ o < 65536 ∧ l.length ≤ 255) ∧ (∃ (s : State) (e : HciEntry) (p : List Byte) (o : Nat), s.pairRuns 0 = true ∧ s.sys.recovery = false ∧ s.ringUp 3 = true ∧ s.host.rings[3].used ≠ 0 ∧ s.accWaiting = [] ∧ s.host.hciWaiting = [] ∧ e.type = 1 ∧ 3 ≤ e.len.toNat ∧ e.len.toNat ≤ 268 ∧ e.packet.take e.len.toNat = p ∧ leNat (p.take 2) = o ∧ (p.getD 2 0).toNat ≠ p.length - 3) ∧ (∃ (s : State), s.pwr.st = .limp) ∧ (∃ (s : State) (h : BitVec 16), s.cred.flow = none ∧ (∃ g ∈ s.acc.conns, g.handle = h)) ∧ (∃ (s : State) (h : BitVec 16) (z : Conn), (s.acc.conns.find? fun g => decide (g.handle = h)) = some z) :=
  ⟨⟨hciRing running, ⟨7, 1, [17, 254, 4, 0, 0, 0, 0]⟩, [17, 254, 4, 0, 0, 0, 0], 65041, [0, 0, 0, 0], (opRow (0x0700 + 17)).getD ⟨0, []⟩, by decide +kernel⟩, ⟨hciRing running, ⟨7, 1, [17, 254, 4, 0, 0, 0, 0]⟩, [17, 254, 4, 0, 0, 0, 0], 65041, [0, 0, 0, 0], by decide +kernel⟩, ⟨hciRing running, ⟨4, 1, [0x0A, 0x20, 2, 1]⟩, [0x0A, 0x20, 2, 1], 0x200A, by decide +kernel⟩, ⟨{ running with pwr := { running.pwr with st := .limp } }, by decide +kernel⟩, ⟨{ running with acc := { running.acc with conns := [⟨1, none, [-120, -121, -40], 0, 27, false⟩, ⟨2, none, [], 0, 27, false⟩] } }, 1, by decide +kernel⟩, ⟨{ running with acc := { running.acc with conns := [⟨1, none, [-120, -121, -40], 0, 27, false⟩, ⟨2, none, [], 0, 27, false⟩] } }, 1, ⟨1, none, [-120, -121, -40], 0, 27, false⟩, by decide +kernel⟩⟩

/-- Hypotheses of HciEntriesReachTheController, clause by clause. -/
theorem witness_HciEntriesReachTheController_clauses2 : ∃ (s : State) (f : Flow), s.cred.flow = some f ∧ f.step = .ranging :=
  ⟨flowOn (flowZero .ranging false false), flowZero .ranging false false, by decide +kernel⟩

/-! ### Ill-formed terms, one for each check of WellFormed -/

/-- A well-formed ring 0 entry. -/
def goodCmd : CmdEntry := cmd (zeros 40)

theorem test_wf_accepts : goodCmd.wf = true ∧ (Instr.sysNop goodCmd).wf = true := by decide
theorem test_wf_refuses_short_params : (Instr.sysNop (cmd [])).wf = false := by decide
theorem test_wf_refuses_slot : (Instr.capStop { goodCmd with slot := 4096 }).wf = false := by decide
theorem test_wf_refuses_buffer : (Instr.bulKey { goodCmd with flags := 2, bufLen := 2 }).wf = false := by decide
theorem test_wf_refuses_record : (Instr.capModule goodCmd ⟨some [1], true⟩).wf = false := by decide
theorem test_wf_refuses_hci_packet : (Instr.hciAclData ⟨4, 2, [0, 0, 0, 0]⟩).wf = false := by decide
theorem test_wf_refuses_fetch_number : (Instr.capStop { goodCmd with id := 2 ^ 64 }).wf = false := by decide
theorem test_wf_refuses_size : (Instr.doorbellProducer 0 3 0).wf = false := by decide
theorem test_wf_refuses_peak : (Instr.agcInterval 0 8193).wf = false := by decide
theorem test_wf_refuses_eight_lanes : (Instr.laneMonitorBlock 0 (List.replicate 8 ⟨0, 0⟩)).wf = false := by decide
theorem test_wf_refuses_blank_block : (Instr.blankerBlock 0 .L ⟨[], [(0, 0)], []⟩).wf = false := by decide
theorem test_wf_refuses_five_legs : (Instr.winOutputBlock 0 ⟨0, [[], [], [], [], []]⟩).wf = false := by decide
theorem test_wf_refuses_five_antennas : scanWf 641 [[], [], [], [], []] = false := by decide
theorem test_wf_refuses_scan_length : scanWf 1 [[⟨0, 0, 0, false⟩, ⟨0, 0, 0, false⟩]] = false := by decide
theorem test_wf_refuses_three_ports : (Instr.audFrame ⟨[[], [], []], []⟩).wf = false := by decide
theorem test_wf_refuses_three_pins : (Instr.audFrame ⟨[[], [], [], []], [[([], []), ([], []), ([], [])]]⟩).wf = false := by decide
theorem test_wf_refuses_elements : (Instr.calAStepDone { calPair 0 0 with elements := [] }).wf = false := by decide
theorem test_wf_refuses_channels : CalBMeas.wf { calMeas 0 with entries := [] } = false := by decide
theorem test_wf_refuses_loops : CalBObs.wf { calParts 0 with second := { calMeas 0 with loops := [] } } = false := by decide +kernel
theorem test_wf_refuses_modes : CalBMeas.wf { calMeas 0 with dpd := [] } = false := by decide +kernel
theorem test_wf_refuses_gain_codes : (Instr.calRef goodCmd { tone 0 0 with gains := .replicate 4 [] }).wf = false := by decide +kernel
theorem test_wf_refuses_path_twice : (Instr.csProcedureDone { csZero with paths := [(1, []), (1, [])] }).wf = false := by decide
theorem test_wf_refuses_eleven_fibs : DabFrameObs.wf (dabFrame true (List.replicate 11 (zeros 32))) = false := by decide +kernel
theorem test_wf_refuses_short_fib : DabFrameObs.wf (dabFrame true (zeros 31 :: List.replicate 11 (zeros 32))) = false := by decide +kernel
theorem test_wf_refuses_cif_positions : DabCifObs.wf { cifZero with cells := [[], [], [], [], []] } = false := by decide
theorem test_wf_refuses_cif_symbols : DabCifObs.wf { cifZero with cells := [[[]]] } = false := by decide
theorem test_wf_refuses_drm_positions (o : DrmFrameObs) : ({ o with cells := [[], [], [], [], []] } : DrmFrameObs).wf = false := by rfl
theorem test_wf_refuses_advertiser (o : PktEndObs) : ({ o with addr := (0, [1]) } : PktEndObs).wf = false := by rfl

/-! ### Small tests; each result is the spec's -/

/-- The window of the worked example of 04_windows.md: DAB, default split, built-in bank. -/
def exampleWin (taps : Nat) : Window :=
  { preset := 5, mcic := 15, mcf := 1, h := 0, mfir := 3, banks := Vector.replicate 2 { t := taps } }

/-- 04_windows.md, worked example: the NCO word of 227.360 MHz on the B race centred on 207.000 MHz. -/
theorem test_nco_word : ncoWord {} 5 227360000 = 0x388E38E4 := by decide +kernel
/-- 04_windows.md, worked example: N_settle 38 with 64 taps and 49 with 96. -/
theorem test_settling : (exampleWin 64).settle = 38 ∧ (exampleWin 96).settle = 49 := by decide +kernel
/-- 04_windows.md, worked example: G is 6,280 ADC periods. -/
theorem test_group_delay : (exampleWin 64).groupDelay = 6280 := by decide +kernel
/-- 05_fm_am.md, worked example: CNR 32 dB and m = 12 give q = 30.5 dB, no soft mute, 15 kHz and full stereo. -/
theorem test_fm_controls :
    fmQ 2 128 12 = 244 ∧ (({} : FmState).muteTarget 2 false 128) = 0 ∧ (({} : FmState).cornerTarget 2 244) = 65536 * 15000 ∧
    (({} : FmState).sepTarget 2 244) = 65536 := by decide +kernel
/-- 15_two_wire.md, worked example: the PEC over 0xC0, 0xA0 and 0x01. -/
theorem test_pec : crc8 [0xC0] = 0x4E ∧ crc8 [0xC0, 0xA0] = 0x84 ∧ crc8 [0xC0, 0xA0, 0x01] = 0x92 := by decide +kernel
/-- 22_registers.md, worked example: the companion counter of AUD.FLAG bit 9. -/
theorem test_flag_counter : flagCounter 73 9 = 0x64A4 := by decide
/-- 14_dma.md, worked example: the last sample of slot 2 of block 3 lands at 0x0F3C of its record. -/
theorem test_dma_addresses :
    let d : Desc := { src := 0x20758840, dst := 0x924000C40, xc := 2, yc := 96, zc := 1, sxs := 4, sys := 8, szs := 0, dxs := 384, dys := 4, dzs := 0
                      ctrl := 0x16, next := 0x207611C0, rsvd := true }
    d.dstAt 1 95 0 = 0x924000F3C ∧ d.esize = 4 ∧ ctrlWait d.ctrl = true := by decide
/-- 03_capture.md, worked example: clips far above the limit lower the code from 8 to 7. -/
theorem test_gain_falls :
    (({ running := true, output := true, agc := true, gain := 8, clipNow := 100 } : Headrace).interval 4 false).gain = 7 := by decide
/-- 18_calibration.md, worked example: 50 °C is more than 8 °C from 41 °C, so a Class A run starts on Headrace 1. -/
theorem test_class_a_trigger :
    (({ running with
        cap := { running.cap with hr := running.cap.hr.set 1 { running := true, output := true } }
        cal := { running.cal with aValid := 2, aTemp := #v[0, 41, 0, 0] } } : State).tjSample 50).cal.aRun.map (fun r => (r.hr, r.startTj)) =
      some (1, 50) := by decide +kernel
/-- R49 and R38: LOG2SIZE 9 is too large for ring 4 and right for ring 1. -/
theorem test_ring_sizes : sizeOk 4 9 = false ∧ sizeOk 1 9 = true := by decide
/-- A byte of SRAM reads as it was written. -/
theorem test_memory_reads_back : Memory.read (Memory.write [] 0x20750000 7) 0x20750000 = 7 := by decide
/-- SRAM that is written with what unlisted SRAM reads as lists nothing (log 8). -/
theorem test_memory_canonical : Memory.write (Memory.write [] 3 7) 3 0 = [] := by decide

end Sys2Proof.Tests
end

section
/-!
SUPPORT. BAR0 by register: for each register whose reset value is stated, the part of the state that a read of its offset returns, in every
state. What it holds after a power-on reset follows from the fields of State.reset.
-/

namespace Sys2Proof.Proofs

open Sys2Proof Sys2Proof.Machine

section Reads

variable (s : State)

/-! ### SYS (R499) -/

@[simp] theorem readReg_idRev : s.readReg 0x0000 = Config.idRev := rfl
@[simp] theorem readReg_sysStatus : s.readReg 0x0008 =
    word [(0, s.sys.resetCode.toNat), (8, s.sys.slot.toNat), (9, b01 s.sys.recovery), (10, b01 s.sys.stewardUp)] := rfl

/-! ### HOST (R48, R49) -/

@[simp] theorem readReg_hostCtl : s.readReg 0x0404 = word [(0, b01 s.host.ringEn), (1, b01 s.host.shadowEn)] := rfl
@[simp] theorem readReg_hostStat : s.readReg 0x0408 = word [(0, b01 s.host.ready), (1, b01 s.host.quiesced)] := rfl
@[simp] theorem readReg_ring1Irq : s.readReg 0x051C = s.host.rings[1].irqWord := rfl
@[simp] theorem readReg_ring2Irq : s.readReg 0x052C = s.host.rings[2].irqWord := rfl
@[simp] theorem readReg_ring4Irq : s.readReg 0x054C = s.host.rings[4].irqWord := rfl
@[simp] theorem readReg_ring9Irq : s.readReg 0x059C = s.host.rings[9].irqWord := rfl

/-! ### EVT (R501) -/

@[simp] theorem readReg_evtMask0 : s.readReg 0x0800 = s.evt.mask[0] := rfl
@[simp] theorem readReg_evtSeq : s.readReg 0x080C = s.evt.seq := rfl

/-! ### PWR (R429) -/

@[simp] theorem readReg_pwrStat : s.readReg 0x1000 =
    word [(0, s.pwrState), (4, s.pwr.level.toNat), (6, s.pwr.target.toNat), (8, b01 s.pwr.capped), (9, b01 s.pwr.trans.isSome),
      (10, b01 s.pwr.pending.isSome), (11, b01 s.pwr.voltUnconf), (16, s.pwr.tj.toNat)] := rfl
@[simp] theorem readReg_pwrFlag : s.readReg 0x1004 = s.flags[slotPwr] := rfl
@[simp] theorem readReg_therm : s.readReg 0x1010 = s.pwr.therm := rfl
@[simp] theorem readReg_wakeCfg0 : s.readReg 0x1014 = s.pwr.wakeCfg[0] := rfl

/-! ### CAP -/

@[simp] theorem readReg_hr0Ctl : s.readReg 0x1400 = s.cap.hr[0].ctl := rfl
@[simp] theorem readReg_hr0BlkL : s.readReg 0x1410 = s.cap.hr[0].blkL.reg := rfl
@[simp] theorem readReg_hr0BlkV : s.readReg 0x1414 = s.cap.hr[0].blkV.reg := rfl
@[simp] theorem readReg_hr0BlkB : s.readReg 0x1418 = s.cap.hr[0].blkB.reg := rfl
@[simp] theorem readReg_hr0VCentre : s.readReg 0x141C = s.cap.hr[0].vCentre := rfl
@[simp] theorem readReg_hr0BCentre : s.readReg 0x1420 = s.cap.hr[0].bCentre := rfl
@[simp] theorem readReg_agc : s.readReg 0x1500 = s.cap.agc := rfl

/-! ### WIN -/

@[simp] theorem readReg_dstore : s.readReg 0x1804 = word [(0, s.win.dstoreFree), (16, s.borrowed)] := rfl
@[simp] theorem readReg_scanCtl : s.readReg 0x1808 = s.win.scanCtl := rfl

/-! ### TW0 and TW1 -/

@[simp] theorem readReg_tw0Cfg : s.readReg 0x2800 = s.tw.port[0].cfg := rfl
@[simp] theorem readReg_tw0Addr : s.readReg 0x280C = s.tw.port[0].addr := rfl
@[simp] theorem readReg_tw1Addr : s.readReg 0x2C0C = s.tw.port[1].addr := rfl

/-! ### CAL -/

@[simp] theorem readReg_calCfg : s.readReg 0x3400 = s.cal.cfg := rfl

/-! ### SAF (R470) -/

@[simp] theorem readReg_safCtl : s.readReg 0x3800 = word [(0, b01 s.saf.enable), (1, b01 s.saf.action), (31, b01 s.saf.lock)] := rfl
@[simp] theorem readReg_safFlag : s.readReg 0x3808 = s.flags[slotSaf] := rfl
@[simp] theorem readReg_wdtCfg : s.readReg 0x380C = s.saf.wdtCfg := rfl

/-! ### Offsets above the credit links -/

/-- From the end of TLM.LINK_CREDIT on (R503) every offset reads as its counter, and a reserved one has none. -/
theorem readReg_above_linkCredit {off : Nat} (hlo : 0x9DC0 ≤ off) (hhi : off < 0x10000) : s.readReg off = Tlm.get s.tlm off := by
  have notCredit : within 0x7000 0x9DBF off = false := by
    have : ¬ off ≤ 0x9DBF := by omega
    simp [within, this]
  have notBelow (b : Nat) (hb : b ≤ 0x4000) : ¬ off < b := by omega
  simp [State.readReg, State.readTlm, notCredit, notBelow, hhi]

@[simp] theorem readReg_reset_reserved : State.reset.readReg 0xFFFC = 0 :=
  readReg_above_linkCredit State.reset (by decide) (by decide)

end Reads

/-! ### After a power-on reset -/

/-- Settles O33: each offset reads the field of its register, and the fields of State.reset are those of the Reset column. -/
theorem resetRegisterValues : Obligations.ResetRegisterValues := by
  unfold Obligations.ResetRegisterValues
  simp only [List.map_cons, List.map_nil,
    readReg_idRev, readReg_sysStatus, readReg_hostCtl, readReg_hostStat, readReg_ring1Irq, readReg_ring2Irq, readReg_ring4Irq,
    readReg_ring9Irq, readReg_evtMask0, readReg_evtSeq, readReg_pwrStat, readReg_pwrFlag, readReg_therm, readReg_wakeCfg0,
    readReg_hr0Ctl, readReg_hr0BlkL, readReg_hr0BlkV, readReg_hr0BlkB, readReg_hr0VCentre, readReg_hr0BCentre, readReg_agc,
    readReg_dstore, readReg_scanCtl, readReg_tw0Cfg, readReg_tw0Addr, readReg_tw1Addr, readReg_calCfg, readReg_safCtl,
    readReg_safFlag, readReg_wdtCfg, readReg_reset_reserved]
  decide

end Sys2Proof.Proofs
end

section
/-!
SUPPORT. Every command, every event and every step with an empty queue respects the relation of Laws/Keeps.lean, so a step does; what the
statements about every step say is read off the relation.
-/

namespace Sys2Proof.Proofs

open Sys2Proof Sys2Proof.Machine Sys2Proof.Laws

/-- Whatever command or event acts, the relation holds between the state before and the state after: one arm for each row of the table. -/
theorem exec_keeps {s0 s : State} (h : Keeps s0 s) (i : Instr) : OKeeps s0 (exec i s) :=
  match i with
  | .sysNop c => keeps_fn_execSysNop h c
  | .sysInfo c => keeps_fn_execSysInfo h c
  | .sysTime c => keeps_fn_execSysTime h c
  | .sysSetRtc c => keeps_fn_execSysSetRtc h c
  | .sysReset c => keeps_fn_execSysReset h c
  | .capStart c => keeps_fn_execCapStart h c
  | .capStop c => keeps_fn_execCapStop h c
  | .capGain c => keeps_fn_execCapGain h c
  | .capRace c => keeps_fn_execCapRace h c
  | .capFeed c => keeps_fn_execCapFeed h c
  | .capModule c answer => keeps_fn_execCapModule h c answer
  | .winOpen c => keeps_fn_execWinOpen h c
  | .winClose c => keeps_fn_execWinClose h c
  | .winTune c => keeps_fn_execWinTune h c
  | .winRatio c => keeps_fn_execWinRatio h c
  | .winCoef c => keeps_fn_execWinCoef h c
  | .winBank c => keeps_fn_execWinBank h c
  | .winDelay c => keeps_fn_execWinDelay h c
  | .winLeg c => keeps_fn_execWinLeg h c
  | .winScanRead c => keeps_fn_execWinScanRead h c
  | .svcOpen c => keeps_fn_execSvcOpen h c
  | .svcClose c => keeps_fn_execSvcClose h c
  | .svcQuality c => keeps_fn_execSvcQuality h c
  | .svcFmCfg c => keeps_fn_execSvcFmCfg h c
  | .svcAmCfg c => keeps_fn_execSvcAmCfg h c
  | .svcProbeLend c => keeps_fn_execSvcProbeLend h c
  | .svcProbe c => keeps_fn_execSvcProbe h c
  | .svcRdsState c => keeps_fn_execSvcRdsState h c
  | .svcDabCfg c => keeps_fn_execSvcDabCfg h c
  | .svcDabDb c => keeps_fn_execSvcDabDb h c
  | .svcDrmCfg c => keeps_fn_execSvcDrmCfg h c
  | .svcDrmDb c => keeps_fn_execSvcDrmDb h c
  | .fanPolicy c => keeps_fn_execFanPolicy h c
  | .fanCand c => keeps_fn_execFanCand h c
  | .fanCands c => keeps_fn_execFanCands h c
  | .fanSwitch c => keeps_fn_execFanSwitch h c
  | .fanFollow c => keeps_fn_execFanFollow h c
  | .audPort c => keeps_fn_execAudPort h c
  | .audSlotmap c => keeps_fn_execAudSlotmap h c
  | .audMask c => keeps_fn_execAudMask h c
  | .audStart c => keeps_fn_execAudStart h c
  | .audQueue c => keeps_fn_execAudQueue h c
  | .audPdm c => keeps_fn_execAudPdm h c
  | .audStream c => keeps_fn_execAudStream h c
  | .bulCfg c => keeps_fn_execBulCfg h c
  | .bulKey c => keeps_fn_execBulKey h c
  | .bulWatch c => keeps_fn_execBulWatch h c
  | .bulList c => keeps_fn_execBulList h c
  | .bulRead c => keeps_fn_execBulRead h c
  | .bulRelease c => keeps_fn_execBulRelease h c
  | .accRxCfg c => keeps_fn_execAccRxCfg h c
  | .accRxStats c => keeps_fn_execAccRxStats h c
  | .accListen c => keeps_fn_execAccListen h c
  | .accTx c => keeps_fn_execAccTx h c
  | .accTxStop c => keeps_fn_execAccTxStop h c
  | .accRegWrite c => keeps_fn_execAccRegWrite h c
  | .accRegLock c => keeps_fn_execAccRegLock h c
  | .accRegRead c => keeps_fn_execAccRegRead h c
  | .accCredLoad c => keeps_fn_execAccCredLoad h c
  | .accCredList c => keeps_fn_execAccCredList h c
  | .accCredEvict c => keeps_fn_execAccCredEvict h c
  | .accUnlockCfg c => keeps_fn_execAccUnlockCfg h c
  | .accVkey c => keeps_fn_execAccVkey h c
  | .accRange c => keeps_fn_execAccRange h c
  | .accVerdictRead c => keeps_fn_execAccVerdictRead h c
  | .pwrLevel c => keeps_fn_execPwrLevel h c
  | .pwrSleep c => keeps_fn_execPwrSleep h c
  | .pwrAlarm c => keeps_fn_execPwrAlarm h c
  | .pwrStatus c => keeps_fn_execPwrStatus h c
  | .calRun c => keeps_fn_execCalRun h c
  | .calRef c o => keeps_fn_execCalRef h c o
  | .calBoard c => keeps_fn_execCalBoard h c
  | .truFwWrite c => keeps_fn_execTruFwWrite h c
  | .truFwCommit c => keeps_fn_execTruFwCommit h c
  | .truFwConfirm c => keeps_fn_execTruFwConfirm h c
  | .truSvnAdvance c => keeps_fn_execTruSvnAdvance h c
  | .truAttest c => keeps_fn_execTruAttest h c
  | .truCert c => keeps_fn_execTruCert h c
  | .truPubkey c => keeps_fn_execTruPubkey h c
  | .truDebug c => keeps_fn_execTruDebug h c
  | .truOemKey c => keeps_fn_execTruOemKey h c
  | .twXfer c => keeps_fn_execTwXfer h c
  | .twBusclear c => keeps_fn_execTwBusclear h c
  | .dmaChain c => keeps_fn_execDmaChain h c
  | .dmaWrite c => keeps_fn_execDmaWrite h c
  | .dmaStart c => keeps_fn_execDmaStart h c
  | .dmaAppend c => keeps_fn_execDmaAppend h c
  | .dmaStop c => keeps_fn_execDmaStop h c
  | .dmaStatus c => keeps_fn_execDmaStatus h c
  | .hciCommand e o => keeps_fn_execHciCommand h e o
  | .hciAclData e => keeps_fn_execHciAclData h e
  | .hciReset => keeps_fn_execHciReset h
  | .doorbellProducer off size value => keeps_fn_execDoorbellProducer h off size value
  | .doorbellConsumer off size value => keeps_fn_execDoorbellConsumer h off size value
  | .commandEntryReceived opcode c => keeps_fn_execCommandEntryReceived h opcode c
  | .commandDispatch slot => keeps_fn_execCommandDispatch h slot
  | .completionHeldWrite => keeps_fn_execCompletionHeldWrite h
  | .ringEnClear => keeps_fn_execRingEnClear h
  | .quiesced => keeps_fn_execQuiesced h
  | .ringEnSet => keeps_fn_execRingEnSet h
  | .ringEnable n value => keeps_fn_execRingEnable h n value
  | .msixUnmask w => keeps_fn_execMsixUnmask h w
  | .msixEnable => keeps_fn_execMsixEnable h
  | .msixCoalTimer n => keeps_fn_execMsixCoalTimer h n
  | .dataRingFull n => keeps_fn_execDataRingFull h n
  | .hostBusError a addr => keeps_fn_execHostBusError h a addr
  | .linkDown => keeps_fn_execLinkDown h
  | .linkUp speed => keeps_fn_execLinkUp h speed
  | .linkRetrain speed => keeps_fn_execLinkRetrain h speed
  | .perstAssert => keeps_fn_execPerstAssert h
  | .perstRelease => keeps_fn_execPerstRelease h
  | .regWrite off size value mirror => keeps_fn_execRegWrite h off size value mirror
  | .flagClear slot mask hwSets => keeps_fn_execFlagClear h slot mask hwSets
  | .timeLoRead => keeps_fn_execTimeLoRead h
  | .rtcLoRead => keeps_fn_execRtcLoRead h
  | .dmaDoorbell value => keeps_fn_execDmaDoorbell h value
  | .synthRefWrite ch value => keeps_fn_execSynthRefWrite h ch value
  | .fanDisable value => keeps_fn_execFanDisable h value
  | .safLock value => keeps_fn_execSafLock h value
  | .safInject value => keeps_fn_execSafInject h value
  | .safReset value => keeps_fn_execSafReset h value
  | .wdtKick kick => keeps_fn_execWdtKick h kick
  | .stewardSleepRequest target => keeps_fn_execStewardSleepRequest h target
  | .agcInterval n peakLow => keeps_fn_execAgcInterval h n peakLow
  | .agcHoldExpiry n => keeps_fn_execAgcHoldExpiry h n
  | .clipDetected n wholeInterval => keeps_fn_execClipDetected h n wholeInterval
  | .laneMonitorBlock n differs => keeps_fn_execLaneMonitorBlock h n differs
  | .spareTakeover n => keeps_fn_execSpareTakeover h n
  | .raceOutputStart n => keeps_fn_execRaceOutputStart h n
  | .raceCentreSettled n b => keeps_fn_execRaceCentreSettled h n b
  | .blankerBlock n r b => keeps_fn_execBlankerBlock h n r b
  | .headraceGovRestart => keeps_fn_execHeadraceGovRestart h
  | .feedRampDone n => keeps_fn_execFeedRampDone h n
  | .feedMeasure n ma2 => keeps_fn_execFeedMeasure h n ma2
  | .feedLowbat n out => keeps_fn_execFeedLowbat h n out
  | .feedShort n ma2 => keeps_fn_execFeedShort h n ma2
  | .feedRetry n => keeps_fn_execFeedRetry h n
  | .feedOpen n => keeps_fn_execFeedOpen h n
  | .feedOpenRecovery n => keeps_fn_execFeedOpenRecovery h n
  | .moduleRecordRead n answer => keeps_fn_execModuleRecordRead h n answer
  | .lifeHourlyWrite n record written => keeps_fn_execLifeHourlyWrite h n record written
  | .lifeWriteRetry n written => keeps_fn_execLifeWriteRetry h n written
  | .legOverrun w pos lost => keeps_fn_execLegOverrun h w pos lost
  | .winOutputBlock w b => keeps_fn_execWinOutputBlock h w b
  | .winSettled w raceTs => keeps_fn_execWinSettled h w raceTs
  | .winCloseEffect w => keeps_fn_execWinCloseEffect h w
  | .legRemoveEffect w => keeps_fn_execLegRemoveEffect h w
  | .bankSwapEffect w => keeps_fn_execBankSwapEffect h w
  | .cmaUpdate w samples => keeps_fn_execCmaUpdate h w samples
  | .scanFmPass meas => keeps_fn_execScanFmPass h meas
  | .scanDabPass meas => keeps_fn_execScanDabPass h meas
  | .runnerMetricTick r m => keeps_fn_execRunnerMetricTick h r m
  | .runnerLockGained r => keeps_fn_execRunnerLockGained h r
  | .runnerLockLost r => keeps_fn_execRunnerLockLost h r
  | .pilotPresent r => keeps_fn_execPilotPresent h r
  | .pilotLost r => keeps_fn_execPilotLost h r
  | .audioUnit ctx u => keeps_fn_execAudioUnit h ctx u
  | .rdsBlock r stream o => keeps_fn_execRdsBlock h r stream o
  | .piWithdrawn r => keeps_fn_execPiWithdrawn h r
  | .probeLevelCheck r o => keeps_fn_execProbeLevelCheck h r o
  | .probeDwellExpiry r o => keeps_fn_execProbeDwellExpiry h r o
  | .dabFrameTiming r => keeps_fn_execDabFrameTiming h r
  | .dabFrameEnd r o => keeps_fn_execDabFrameEnd h r o
  | .dabFicTimeout r => keeps_fn_execDabFicTimeout h r
  | .dabHandleExpiry r n => keeps_fn_execDabHandleExpiry h r n
  | .dabCif r o => keeps_fn_execDabCif h r o
  | .motTimeout ctx tid => keeps_fn_execMotTimeout h ctx tid
  | .drmModeFound r mode => keeps_fn_execDrmModeFound h r mode
  | .drmFrameEnd r o => keeps_fn_execDrmFrameEnd h r o
  | .contextClosed ctx => keeps_fn_execContextClosed h ctx
  | .fanScoreTick pace => keeps_fn_execFanScoreTick h pace
  | .fanHoldBadExpiry ctx => keeps_fn_execFanHoldBadExpiry h ctx
  | .fanDwellGoodExpiry ctx ix => keeps_fn_execFanDwellGoodExpiry h ctx ix
  | .fanCandExpiry ctx ix => keeps_fn_execFanCandExpiry h ctx ix
  | .fanPiSeenExpiry ctx ix => keeps_fn_execFanPiSeenExpiry h ctx ix
  | .alignTick e o => keeps_fn_execAlignTick h e o
  | .alignCoarseCheck e o => keeps_fn_execAlignCoarseCheck h e o
  | .alignTimeout e => keeps_fn_execAlignTimeout h e
  | .alignRetry ctx ix => keeps_fn_execAlignRetry h ctx ix
  | .shadowDelayFilled ctx ix => keeps_fn_execShadowDelayFilled h ctx ix
  | .fanGap ctx incoming atOutput => keeps_fn_execFanGap h ctx incoming atOutput
  | .blendEnd ctx => keeps_fn_execBlendEnd h ctx
  | .dipEnd ctx => keeps_fn_execDipEnd h ctx
  | .bulSegment o => keeps_fn_execBulSegment h o
  | .bulReassemblyTimeout b => keeps_fn_execBulReassemblyTimeout h b
  | .bulNotBefore r => keeps_fn_execBulNotBefore h r
  | .bulWindowPrep => keeps_fn_execBulWindowPrep h
  | .bulFeedOn => keeps_fn_execBulFeedOn h
  | .bulWindowOpen => keeps_fn_execBulWindowOpen h
  | .bulWindowClose => keeps_fn_execBulWindowClose h
  | .audFrame o => keeps_fn_execAudFrame h o
  | .slipExecute g => keeps_fn_execSlipExecute h g
  | .audClockMeasure g o => keeps_fn_execAudClockMeasure h g o
  | .audClockLost g cause => keeps_fn_execAudClockLost h g cause
  | .streamUnderrun st => keeps_fn_execStreamUnderrun h st
  | .streamResume st => keeps_fn_execStreamResume h st
  | .queueXrun q => keeps_fn_execQueueXrun h q
  | .queueResume q => keeps_fn_execQueueResume h q
  | .fadeRampEnd x => keeps_fn_execFadeRampEnd h x
  | .audEvlIn q => keeps_fn_execAudEvlIn h q
  | .audStartPulse p => keeps_fn_execAudStartPulse h p
  | .pdmStuck m => keeps_fn_execPdmStuck h m
  | .pdmDataReturn m => keeps_fn_execPdmDataReturn h m
  | .accRxOpen ch w => keeps_fn_execAccRxOpen h ch w
  | .accSync o => keeps_fn_execAccSync h o
  | .accHeaderCheck o => keeps_fn_execAccHeaderCheck h o
  | .accPacketEnd o => keeps_fn_execAccPacketEnd h o
  | .accRxWindowClose => keeps_fn_execAccRxWindowClose h
  | .listenWindow freeMs => keeps_fn_execListenWindow h freeMs
  | .synthHop ch => keeps_fn_execSynthHop h ch
  | .synthLock ch => keeps_fn_execSynthLock h ch
  | .synthHopFail ch => keeps_fn_execSynthHopFail h ch
  | .accTxDeadline => keeps_fn_execAccTxDeadline h
  | .radioActivity a => keeps_fn_execRadioActivity h a
  | .coexGntWithdrawn => keeps_fn_execCoexGntWithdrawn h
  | .dpdStep yielded residual coef => keeps_fn_execDpdStep h yielded residual coef
  | .dpdRetrain => keeps_fn_execDpdRetrain h
  | .synthCalStep ch yielded => keeps_fn_execSynthCalStep h ch yielded
  | .unlockConnected handle accessAddr => keeps_fn_execUnlockConnected h handle accessAddr
  | .unlockEncrypted ok => keeps_fn_execUnlockEncrypted h ok
  | .unlockChannelOpen => keeps_fn_execUnlockChannelOpen h
  | .credentialSdu bytes => keeps_fn_execCredentialSdu h bytes
  | .sduTimeout => keeps_fn_execSduTimeout h
  | .challengeAnswer bytes => keeps_fn_execChallengeAnswer h bytes
  | .challengeTimeout => keeps_fn_execChallengeTimeout h
  | .csProcedureDone o => keeps_fn_execCsProcedureDone h o
  | .verdictTw1Retry => keeps_fn_execVerdictTw1Retry h
  | .unlockDisconnected => keeps_fn_execUnlockDisconnected h
  | .evlPulse l => keeps_fn_execEvlPulse h l
  | .dmaFetch ch => keeps_fn_execDmaFetch h ch
  | .dmaDescComplete ch hostRead => keeps_fn_execDmaDescComplete h ch hostRead
  | .dmaAccessError ch elements write hostRead => keeps_fn_execDmaAccessError h ch elements write hostRead
  | .twTransactionStart p sdaLow c => keeps_fn_execTwTransactionStart h p sdaLow c
  | .twTransactionEnd p e => keeps_fn_execTwTransactionEnd h p e
  | .twArbLost p => keeps_fn_execTwArbLost h p
  | .twBusError p sdaLow c => keeps_fn_execTwBusError h p sdaLow c
  | .twSclTimeout p sdaLow c => keeps_fn_execTwSclTimeout h p sdaLow c
  | .twStuckPoll p high => keeps_fn_execTwStuckPoll h p high
  | .twFreeBusTimeout p => keeps_fn_execTwFreeBusTimeout h p
  | .twAlert p => keeps_fn_execTwAlert h p
  | .twAlertRepeat p => keeps_fn_execTwAlertRepeat h p
  | .hostWakeRequest => keeps_fn_execHostWakeRequest h
  | .hostWakeRetry => keeps_fn_execHostWakeRetry h
  | .lockWindow err => keeps_fn_execLockWindow h err
  | .refMissing => keeps_fn_execRefMissing h
  | .refMonitorWindow count => keeps_fn_execRefMonitorWindow h count
  | .relockAttempt => keeps_fn_execRelockAttempt h
  | .relockFail => keeps_fn_execRelockFail h
  | .refQualified => keeps_fn_execRefQualified h
  | .refStartTimeout => keeps_fn_execRefStartTimeout h
  | .rtcStop => keeps_fn_execRtcStop h
  | .pmicPoll a => keeps_fn_execPmicPoll h a
  | .pmicTimeout => keeps_fn_execPmicTimeout h
  | .pwrPendingStart => keeps_fn_execPwrPendingStart h
  | .tjSample t1 t2 => keeps_fn_execTjSample h t1 t2
  | .governorCap => keeps_fn_execGovernorCap h
  | .governorRelease => keeps_fn_execGovernorRelease h
  | .dmaDrainTimeout => keeps_fn_execDmaDrainTimeout h
  | .wakePin k level => keeps_fn_execWakePin h k level
  | .rtcAlarm => keeps_fn_execRtcAlarm h
  | .accessTimerWake => keeps_fn_execAccessTimerWake h
  | .wake code => keeps_fn_execWake h code
  | .wakeStepTimeout r => keeps_fn_execWakeStepTimeout h r
  | .wakeStepRepeat ready => keeps_fn_execWakeStepRepeat h ready
  | .calAStepDone o => keeps_fn_execCalAStepDone h o
  | .calAStore => keeps_fn_execCalAStore h
  | .calBPartDone o => keeps_fn_execCalBPartDone h o
  | .memScrub addr bitsInError => keeps_fn_execMemScrub h addr bitsInError
  | .lockstepMismatch pair => keeps_fn_execLockstepMismatch h pair
  | .wdtExpiry pair => keeps_fn_execWdtExpiry h pair
  | .eccError addr correctable => keeps_fn_execEccError h addr correctable
  | .linkCrcError link => keeps_fn_execLinkCrcError h link
  | .accessFault pair addr => keeps_fn_execAccessFault h pair addr
  | .railOutOfWindow rail => keeps_fn_execRailOutOfWindow h rail
  | .overTemperature => keeps_fn_execOverTemperature h
  | .sensorsDisagree => keeps_fn_execSensorsDisagree h
  | .walingDisagree => keeps_fn_execWalingDisagree h
  | .selftestTick monitor reports => keeps_fn_execSelftestTick h monitor reports
  | .safeStateRetry => keeps_fn_execSafeStateRetry h
  | .faultEscalate code inst => keeps_fn_execFaultEscalate h code inst
  | .safeAutoReset => keeps_fn_execSafeAutoReset h
  | .debugChallengeExpiry => keeps_fn_execDebugChallengeExpiry h
  | .vbatRise => keeps_fn_execVbatRise h
  | .vbatLoss => keeps_fn_execVbatLoss h
  | .powerGood => keeps_fn_execPowerGood h
  | .bootRom => keeps_fn_execBootRom h
  | .stewardReady => keeps_fn_execStewardReady h
  | .watchAutoEntry => keeps_fn_execWatchAutoEntry h
  | .coldRestart => keeps_fn_execColdRestart h
  | .supervisionTimeout => keeps_fn_execSupervisionTimeout h
  | .coexReqHoldExpiry => keeps_fn_execCoexReqHoldExpiry h
  | .debugPortAccess => keeps_fn_execDebugPortAccess h
  | .eventRateLimitExpiry source inst => keeps_fn_execEventRateLimitExpiry h source inst

/-- A step respects the relation, seen from the state with the queue's rest. -/
theorem step_keeps {s t : State} (h : step s = .next t) : Keeps { s with pending := s.pending.tail } t := by
  unfold step at h
  split at h
  · next hq =>
    have hs : { s with pending := s.pending.tail } = s := by rw [hq, List.tail_nil, ← hq]
    cases h
    rw [hs]
    exact keeps_tick (Keeps.refl s)
  · next c rest hq =>
    rw [hq, List.tail_cons]
    exact (exec_keeps (Keeps.refl _) c).next t h

/-- Settles O3: the relation holds the canonical forms of SRAM and of the counters apart, and a step respects it. -/
theorem everyStepKeepsCanonicalForms : Obligations.EveryStepKeepsCanonicalForms := by
  unfold Obligations.EveryStepKeepsCanonicalForms
  intro s t hs h
  obtain ⟨hmem, htlm⟩ : Memory.wf s.mem = true ∧ Tlm.wf s.tlm = true := by simpa [State.canonical] using hs
  have k := step_keeps h
  simp only [State.canonical, Bool.and_eq_true]
  exact ⟨k.mem hmem, k.tlm htlm⟩

/-- Settles O7: a step leaves the queue's rest, what was posted and the count of free values as the relation says. -/
theorem queueIsFirstInFirstOut : Obligations.QueueIsFirstInFirstOut := by
  unfold Obligations.QueueIsFirstInFirstOut
  intro s t h
  have k := step_keeps h
  exact ⟨k.queue, k.posted, k.free⟩

end Sys2Proof.Proofs
end

section
/-!
SUPPORT. The events that the Waling's monitors raise (R467 to R477): which memory an address belongs to, when a monitor is heard, and what
each event is then reported as.
-/

namespace Sys2Proof.Proofs

open Sys2Proof Sys2Proof.Machine Sys2Proof.Laws

/-! ### The memory of an address (R30, R31) -/

theorem sramUse_eq_none_iff (a : Nat) : sramUse a = none ↔ a < 0x20000000 ∨ 0x207FFFFF < a := by
  simp only [sramUse, within, Bool.and_eq_true, decide_eq_true_eq]
  split_ifs <;> simp <;> omega

theorem sramUse_eq_steward_iff (a : Nat) : sramUse a = some .steward ↔ 0x20550000 ≤ a ∧ a ≤ 0x2064FFFF := by
  simp only [sramUse, within, Bool.and_eq_true, decide_eq_true_eq]
  split_ifs <;> simp <;> omega

theorem mramUse_eq_none_iff (a : Nat) : mramUse a = none ↔ a < 0x10000000 ∨ 0x103FFFFF < a := by
  simp only [mramUse, within, Bool.and_eq_true, decide_eq_true_eq]
  split_ifs <;> simp <;> omega

theorem mramUse_eq_checkpoint_iff (a : Nat) : mramUse a = some .checkpoint ↔ 0x10320000 ≤ a ∧ a ≤ 0x103DFFFF := by
  simp only [mramUse, within, Bool.and_eq_true, decide_eq_true_eq]
  split_ifs <;> simp <;> omega

/-- Outside SRAM and MRAM no code is reported. -/
theorem eccCode_none {a : Nat} (b : Bool) (hs : sramUse a = none) (hm : mramUse a = none) : eccCode a b = none := by
  simp only [eccCode, hs, hm]

theorem eccCode_sram {a : Nat} (b : Bool) {u : SramUse} (hs : sramUse a = some u) :
    eccCode a b = some (if b then 6 else if u = .steward then 7 else 8) := by
  simp only [eccCode, hs]

theorem eccCode_mram {a : Nat} (b : Bool) {u : MramUse} (hs : sramUse a = none) (hm : mramUse a = some u) :
    eccCode a b = some (if b then 9 else 10) := by
  simp only [eccCode, hs, hm]

/-- The code of an error by the address alone: the stewards' SRAM, other SRAM, MRAM. -/
theorem eccCode_eq (a : Nat) (b : Bool) : eccCode a b =
    if 0x20550000 ≤ a ∧ a ≤ 0x2064FFFF then some (if b then 6 else 7)
    else if 0x20000000 ≤ a ∧ a ≤ 0x207FFFFF then some (if b then 6 else 8)
    else if 0x10000000 ≤ a ∧ a ≤ 0x103FFFFF then some (if b then 9 else 10) else none := by
  cases hs : sramUse a with
  | some u =>
    have hin : 0x20000000 ≤ a ∧ a ≤ 0x207FFFFF := by
      have := (sramUse_eq_none_iff a).not.mp (by simp [hs])
      omega
    have hu : u = .steward ↔ 0x20550000 ≤ a ∧ a ≤ 0x2064FFFF := by
      rw [← sramUse_eq_steward_iff, hs, Option.some.injEq]
    simp only [eccCode_sram b hs, hu, hin, and_self, if_true]
    split_ifs <;> rfl
  | none =>
    have hout := (sramUse_eq_none_iff a).mp hs
    rw [if_neg (by omega), if_neg (by omega)]
    cases hm : mramUse a with
    | some v =>
      have := (mramUse_eq_none_iff a).not.mp (by simp [hm])
      rw [if_pos (by omega), eccCode_mram b hs hm]
    | none =>
      have := (mramUse_eq_none_iff a).mp hm
      rw [eccCode_none b hs hm, if_neg (by omega)]

/-! ### Memory errors (R467, R468) -/

section Events

variable (s : State)

theorem exec_memScrub (w : W) (n : Nat) :
    exec (.memScrub w n) s = .next (if n = 0 then s else s.eccFound w.toNat (decide (n = 1))) := rfl

theorem eccFound_eq_fault (a : Nat) (b : Bool) (h : s.restoring = false ∨ mramUse a ≠ some .checkpoint ∨ b = true) :
    s.eccFound a b = (match eccCode a b with
      | none => s
      | some code => s.fault code 0 false) := by
  have hno : ¬(s.restoring = true ∧ mramUse a = some .checkpoint ∧ b = false) := by
    rintro ⟨hr, hm, hb⟩
    simp [hr, hm, hb] at h
  cases he : eccCode a b <;> simp only [State.eccFound, he, if_neg hno]

/-- A word of the checkpoint that cannot be read while it is restored. -/
theorem eccFound_restoring (a : Nat) (hst : s.pwr.st = .stow) (hw : s.pwr.waking.isSome = true) (hlo : 0x10320000 ≤ a)
    (hhi : a ≤ 0x103DFFFF) : s.eccFound a false = s.offWake := by
  have hm : mramUse a = some .checkpoint := (mramUse_eq_checkpoint_iff a).mpr ⟨hlo, hhi⟩
  have hs : sramUse a = none := (sramUse_eq_none_iff a).mpr (by omega)
  have hr : s.restoring = true := by simp [State.restoring, hst, hw]
  simp [State.eccFound, eccCode_mram false hs hm, hr, hm]

theorem exec_eccError_correctable (w : W) : exec (.eccError w true) s = .next (s.eccFound w.toNat true) := rfl

theorem exec_eccError_sram (w : W) (u : SramUse) (hu : sramUse w.toNat = some u) :
    exec (.eccError w false) s = .next ((s.eccFound w.toNat false).readDrop u) := by
  change execEccError w false s = _
  simp only [execEccError, hu]

theorem exec_eccError_noSram (w : W) (h : w.toNat < 0x20000000 ∨ 0x207FFFFF < w.toNat) :
    exec (.eccError w false) s = .next (s.eccFound w.toNat false) := by
  change execEccError w false s = _
  simp only [execEccError, (sramUse_eq_none_iff w.toNat).mpr h]

theorem readDrop_other (u : SramUse) (hd : ∀ d : Nat, u ≠ .decoder d) (hr : ∀ k : Nat, u ≠ .raceBuffer k) : s.readDrop u = s := by
  cases u with
  | decoder d => exact absurd rfl (hd d)
  | raceBuffer k => exact absurd rfl (hr k)
  | dabInterleave | delayPool | drmInterleave | windowBuffer | steward | staging | accessRadio | general => rfl

/-! ### Steward pairs and watchdogs (R469, R470) -/

theorem exec_lockstepMismatch (p : Fin 2) :
    exec (.lockstepMismatch p) s = .next (if s.pairClocked p then s.fault (1 + p.val) p.val false else s) := rfl

theorem exec_accessFault (p : Fin 2) (a : D) :
    exec (.accessFault p a) s = .next (if s.pairUp p then s.fault 5 p.val false else s) := rfl

theorem exec_wdtExpiry (p : Fin 2) : exec (.wdtExpiry p) s = .next
    (if s.wdtOn p = true ∧ 980 * s.winMax ≤ (s.sys.timeUs - s.saf.lastKick[p]).toNat then s.fault (3 + p.val) p.val false else s) := rfl

theorem exec_wdtKick (p : Fin 2) (b : Bool) : exec (.wdtKick ⟨p, b⟩) s = .next
    (if s.pairUp p then
      if (if b then s.pairStops p else s).saf.enable then (if b then s.pairStops p else s).kick p else (if b then s.pairStops p else s)
    else s) := rfl

/-- In RUN both pairs run from the stewards' start on, outside SAFE. -/
theorem pairUp_run (p : Fin 2) (hsafe : s.saf.safe = false) (hrun : s.pwr.st = .run) (hup : s.sys.stewardUp = true) :
    s.pairUp p = true := by
  simp [State.pairUp, hsafe, hrun, hup]

/-- In WATCH pair A does not run. -/
theorem pairUp_watch (hw : s.pwr.st = .watch) : s.pairUp 0 = false := by
  simp [State.pairUp, hw]

theorem wdtOn_disabled (p : Fin 2) (h : s.saf.enable = false) : s.wdtOn p = false := by
  simp [State.wdtOn, h]

theorem wdtOn_down (p : Fin 2) (h : s.pairUp p = false) : s.wdtOn p = false := by
  simp [State.wdtOn, h]

/-- A watchdog that does not run reports nothing. -/
theorem exec_wdtExpiry_off (p : Fin 2) (h : s.wdtOn p = false) : exec (.wdtExpiry p) s = .next s := by
  simp [exec_wdtExpiry, h]

/-- While the watchdog runs, what counts is the time since the last kick. -/
theorem exec_wdtExpiry_on (p : Fin 2) (he : s.saf.enable = true) (hsafe : s.saf.safe = false) (hrun : s.pwr.st = .run)
    (hup : s.sys.stewardUp = true) :
    (980 * s.winMax ≤ (s.sys.timeUs - s.saf.lastKick[p]).toNat → exec (.wdtExpiry p) s = .next (s.fault (3 + p.val) p.val false)) ∧
    ((s.sys.timeUs - s.saf.lastKick[p]).toNat < 980 * s.winMax → exec (.wdtExpiry p) s = .next s) := by
  have hon : s.wdtOn p = true := by simp [State.wdtOn, he, pairUp_run s p hsafe hrun hup]
  constructor
  · intro h
    rw [exec_wdtExpiry, if_pos ⟨hon, h⟩]
  · intro h
    rw [exec_wdtExpiry, if_neg (fun k => absurd k.2 (by omega))]

theorem kick_late (p : Fin 2) (h : 1000 * s.winMin ≤ (s.sys.timeUs - s.saf.lastKick[p]).toNat) :
    s.kick p = { s with saf := { s.saf with lastKick := upd s.saf.lastKick p fun _ => s.sys.timeUs } } := by
  have hlate : ¬(s.sys.timeUs - s.saf.lastKick[p]).toNat < 1000 * s.winMin := by omega
  simp only [State.kick, hlate, decide_false, Bool.false_eq_true, if_false]

theorem kick_early (p : Fin 2) (h : (s.sys.timeUs - s.saf.lastKick[p]).toNat < 1000 * s.winMin) :
    s.kick p = ({ s with saf := { s.saf with lastKick := upd s.saf.lastKick p fun _ => s.sys.timeUs } }).fault (3 + p.val) p.val false := by
  simp only [State.kick, h, decide_true, if_true]

/-- A kick while the watchdog runs, of a pair that stops after it or goes on: it restarts the window, and is a fault where it is early. -/
theorem exec_wdtKick_on (u : State) (p : Fin 2) (b : Bool) (he : s.saf.enable = true) (hsafe : s.saf.safe = false)
    (hrun : s.pwr.st = .run) (hup : s.sys.stewardUp = true) (hu : u = if b = true then s.pairStops p else s) :
    (1000 * s.winMin ≤ (s.sys.timeUs - s.saf.lastKick[p]).toNat →
      exec (.wdtKick ⟨p, b⟩) s = .next { u with saf := { u.saf with lastKick := upd s.saf.lastKick p fun _ => s.sys.timeUs } }) ∧
    ((s.sys.timeUs - s.saf.lastKick[p]).toNat < 1000 * s.winMin →
      exec (.wdtKick ⟨p, b⟩) s =
        .next (({ u with saf := { u.saf with lastKick := upd s.saf.lastKick p fun _ => s.sys.timeUs } }).fault (3 + p.val) p.val false)) := by
  have hkick : exec (.wdtKick ⟨p, b⟩) s = .next (u.kick p) := by
    have hue : u.saf.enable = true := by cases b <;> simp [hu, State.pairStops, he]
    rw [exec_wdtKick, if_pos (pairUp_run s p hsafe hrun hup), ← hu, if_pos hue]
  have htime : u.sys.timeUs = s.sys.timeUs := by cases b <;> simp [hu, State.pairStops]
  have hlast : u.saf.lastKick = s.saf.lastKick := by cases b <;> simp [hu, State.pairStops]
  have hmin : u.winMin = s.winMin := by cases b <;> simp [hu, State.pairStops, State.winMin, State.winMax]
  rw [hkick, ← htime, ← hlast, ← hmin]
  exact ⟨fun h => by rw [kick_late u p h], fun h => by rw [kick_early u p h]⟩

/-- A kick of a watchdog that is off does no more than stop the pair where it is the last one. -/
theorem exec_wdtKick_disabled (p : Fin 2) (b : Bool) (he : s.saf.enable = false) (hup : s.pairUp p = true) :
    exec (.wdtKick ⟨p, b⟩) s = .next (if b then s.pairStops p else s) := by
  rw [exec_wdtKick, if_pos hup, if_neg]
  cases b <;> simp [State.pairStops, he]

theorem exec_wdtKick_down (p : Fin 2) (b : Bool) (h : s.pairUp p = false) : exec (.wdtKick ⟨p, b⟩) s = .next s := by
  simp [exec_wdtKick, h]

/-- A pair that has stopped executes no command (R25). -/
theorem pairRuns_pairStops (p : Fin 2) : (s.pairStops p).pairRuns p = false := by
  have hbit : (s.saf.pairStopped ||| BitVec.ofNat 2 (2 ^ p.val)).getLsbD p.val = true := by
    fin_cases p <;> simp
  simp only [State.pairRuns, State.pairStops, hbit, Bool.not_true, Bool.and_false, Bool.false_and]

/-! ### Supplies, temperature and the self-test (R469, R471) -/

theorem exec_railOutOfWindow (r : Fin 4) : exec (.railOutOfWindow r) s = .next
    (if s.railWatched r then
      ({ s with saf := { s.saf with railBad := s.saf.railBad ||| BitVec.ofNat 4 (2 ^ r.val) } }).fault (16 + r.val) r.val false
    else s) := rfl

theorem railWatched_on (r : Fin 4) (hst : s.pwr.st = .run ∨ s.pwr.st = .watch) (hoff : s.pwr.railOff = 0) : s.railWatched r = true := by
  obtain hst | hst := hst <;> simp [State.railWatched, hst, hoff]

theorem railWatched_off (r : Fin 4) (hst : s.pwr.st = .stow ∨ s.pwr.st = .off ∨ s.pwr.st = .hvHold) : s.railWatched r = false := by
  obtain hst | hst | hst := hst <;> simp [State.railWatched, hst]

theorem walingUp_run (hrun : s.pwr.st = .run) : s.walingUp = true := by
  simp [State.walingUp, hrun]

theorem exec_overTemperature : exec .overTemperature s = .next (if s.walingUp then s.fault 20 0 false else s) := rfl
theorem exec_sensorsDisagree : exec .sensorsDisagree s = .next (if s.walingUp then s.fault 21 0 false else s) := rfl
theorem exec_walingDisagree : exec .walingDisagree s = .next (if s.walingUp then s.fault 23 0 false else s) := rfl
theorem exec_selftestTick (m : Byte) (b : Bool) : exec (.selftestTick m b) s = .next (s.monitorTested m.toNat b) := rfl

theorem isMonitor_of {m : Nat} (h : (14 ≤ m ∧ m ≤ 21) ∨ m = 23) : isMonitor m = true := by
  simpa [isMonitor, within] using h

/-- In RUN a monitor that stays silent is code 22; in a start the self-test has failed besides. -/
theorem monitorTested_silent {m : Nat} (hrun : s.pwr.st = .run) (hm : (14 ≤ m ∧ m ≤ 21) ∨ m = 23) : s.monitorTested m false =
    (if s.starting then { s with saf := { s.saf with selfTestOk := false } } else s).fault 22 m false := by
  simp [State.monitorTested, isMonitor_of hm, walingUp_run s hrun]

theorem starting_ready (hrun : s.pwr.st = .run) (hr : s.host.ready = true) : s.starting = false := by
  simp [State.starting, hrun, hr]

theorem starting_notReady (hrun : s.pwr.st = .run) (hr : s.host.ready = false) (hsafe : s.saf.safe = false) : s.starting = true := by
  simp [State.starting, hrun, hr, hsafe]

/-! ### The safe state (R475 to R477) -/

theorem exec_safeStateRetry :
    exec .safeStateRetry s = .next (if 1000 ≤ (s.sys.timeUs - s.saf.requestAt).toNat then s.safeAgain else s) := rfl

/-- A request with tries left is sent again. -/
theorem exec_safeStateRetry_again (code : Byte) (n : Nat) (hreq : s.saf.request = some (code, n + 1)) (hidle : s.safeIdle = true)
    (ht : 1000 ≤ (s.sys.timeUs - s.saf.requestAt).toNat) :
    exec .safeStateRetry s = .next (({ s with saf := { s.saf with request := some (code, n) } }).twWait 1
      (twWrite .safeState (s.twAddr 1) 0xA3 [byte code.toNat])) := by
  rw [exec_safeStateRetry, if_pos ht]
  simp only [State.safeAgain, hreq, hidle, if_true]
  rfl

/-- After the last try the request ends. -/
theorem exec_safeStateRetry_last (code : Byte) (hreq : s.saf.request = some (code, 0)) (hidle : s.safeIdle = true)
    (ht : 1000 ≤ (s.sys.timeUs - s.saf.requestAt).toNat) :
    exec .safeStateRetry s = .next { s with saf := { s.saf with request := none } } := by
  rw [exec_safeStateRetry, if_pos ht]
  simp only [State.safeAgain, hreq, hidle, if_true]

theorem exec_safeStateRetry_idle (h : s.saf.request = none ∨ (s.sys.timeUs - s.saf.requestAt).toNat < 1000) :
    exec .safeStateRetry s = .next s := by
  rw [exec_safeStateRetry]
  obtain hreq | ht := h
  · simp [State.safeAgain, hreq]
  · rw [if_neg (by omega)]

theorem exec_faultEscalate (code inst : Byte) : exec (.faultEscalate code inst) s = .next (s.escalate code inst) := rfl

/-- In RUN with no entry in progress a class 2 fault has nothing to wake. -/
theorem wakeUp_run_still (hrun : s.pwr.st = .run) (htr : s.pwr.trans = none) : s.wakeUp 10 = s := by
  simp [State.wakeUp, hrun, State.abandonEntry, htr]

/-- A class 1 fault open for 5 ms is logged again as class 2. -/
theorem exec_faultEscalate_due (code inst : Byte) (a : D) (hmem : (code, inst, a) ∈ s.saf.open1)
    (ht : 5000 ≤ (s.sys.timeUs - a).toNat) (hrun : s.pwr.st = .run) (htr : s.pwr.trans = none) :
    exec (.faultEscalate code inst) s = .next (({ s with saf := { s.saf with
      open1 := s.saf.open1.filter fun f => !decide (f.1 = code ∧ f.2.1 = inst ∧ 5000 ≤ (s.sys.timeUs - f.2.2).toNat) } }).logFault
        code.toNat inst.toNat 2 false) := by
  have hdue : (s.saf.open1.any fun f => decide (f.1 = code ∧ f.2.1 = inst ∧ 5000 ≤ (s.sys.timeUs - f.2.2).toNat)) = true :=
    List.any_eq_true.mpr ⟨_, hmem, decide_eq_true ⟨rfl, rfl, ht⟩⟩
  simp only [exec_faultEscalate, State.escalate, hdue, if_true, wakeUp_run_still, hrun, htr]

theorem exec_faultEscalate_notDue (code inst : Byte)
    (h : ∀ f ∈ s.saf.open1, f.1 = code → f.2.1 = inst → (s.sys.timeUs - f.2.2).toNat < 5000) :
    exec (.faultEscalate code inst) s = .next s := by
  have hdue : ¬(s.saf.open1.any fun f => decide (f.1 = code ∧ f.2.1 = inst ∧ 5000 ≤ (s.sys.timeUs - f.2.2).toNat)) = true := by
    rw [List.any_eq_true]
    rintro ⟨f, hf, hd⟩
    obtain ⟨hc, hi, ht⟩ := of_decide_eq_true hd
    exact absurd (h f hf hc hi) (by omega)
  rw [exec_faultEscalate, State.escalate, if_neg hdue]

theorem exec_safeAutoReset : exec .safeAutoReset s = .next
    (if s.saf.safe = true ∧ s.saf.action = true ∧ 10000 ≤ (s.sys.timeUs - s.saf.safeAt).toNat then s.resetWarm 3 else s) := rfl

theorem exec_safeAutoReset_notDue (h : s.saf.safe = false ∨ s.saf.action = false ∨ (s.sys.timeUs - s.saf.safeAt).toNat < 10000) :
    exec .safeAutoReset s = .next s := by
  rw [exec_safeAutoReset, if_neg]
  rintro ⟨hsafe, hact, ht⟩
  obtain h | h | h := h
  · simp [hsafe] at h
  · simp [hact] at h
  · omega

/-- The safety reset ends SAFE and keeps the Waling's record, its flags, its lock and device time (R486). -/
theorem resetWarm_safety : (s.resetWarm 3).saf.safe = false ∧ (s.resetWarm 3).sys.resetCode = 3 ∧ (s.resetWarm 3).saf.log = s.saf.log ∧
    (s.resetWarm 3).flags[slotSaf] = s.flags[slotSaf] ∧ (s.resetWarm 3).sys.timeUs = s.sys.timeUs ∧
    (s.resetWarm 3).saf.lock = s.saf.lock := by
  have hflags : (s.resetWarm 3).flags[slotSaf] = s.flags[slotSaf] := by
    simp [State.resetWarm]
  exact ⟨rfl, rfl, rfl, hflags, rfl, rfl⟩

end Events

/-- Settles O28: clause by clause, what each monitor's event does. -/
theorem monitorsReportTheirCode : Obligations.MonitorsReportTheirCode := by
  unfold Obligations.MonitorsReportTheirCode
  refine ⟨fun s w => by rw [exec_memScrub, if_pos rfl], fun s w n hn => by rw [exec_memScrub, if_neg hn], eccFound_eq_fault, eccFound_restoring,
    eccCode_eq, exec_eccError_correctable, exec_eccError_noSram, exec_eccError_sram, fun _ _ => rfl, fun _ _ => rfl, readDrop_other,
    fun s p h => by rw [exec_lockstepMismatch, if_pos h], fun s p h => by simp [exec_lockstepMismatch, h],
    exec_wdtExpiry_on, exec_wdtKick_on, fun s p => ⟨pairRuns_pairStops s p, rfl⟩, ?_, fun s p he hup => exec_wdtKick_disabled s p true he hup, ?_,
    fun s p a h => by rw [exec_accessFault, if_pos h], fun s p a h => by simp [exec_accessFault, h], fun _ _ => rfl,
    fun s r hst hoff => by rw [exec_railOutOfWindow, if_pos (railWatched_on s r hst hoff)],
    fun s r hst => by simp [exec_railOutOfWindow, railWatched_off s r hst], ?_, fun _ _ => rfl, ?_, ?_,
    exec_safeStateRetry_again, exec_safeStateRetry_last, exec_safeStateRetry_idle, exec_faultEscalate_due, exec_faultEscalate_notDue,
    fun s hsafe hact ht => by rw [exec_safeAutoReset, if_pos ⟨hsafe, hact, ht⟩], exec_safeAutoReset_notDue, resetWarm_safety⟩
  case refine_1 =>
    intro s p he
    refine ⟨exec_wdtExpiry_off s p (wdtOn_disabled s p he), ?_⟩
    cases hup : s.pairUp p with
    | true => exact exec_wdtKick_disabled s p false he hup
    | false => exact exec_wdtKick_down s p false hup
  case refine_2 =>
    intro s b hw
    have hup := pairUp_watch s hw
    exact ⟨exec_wdtExpiry_off s 0 (wdtOn_down s 0 hup), exec_wdtKick_down s 0 b hup⟩
  case refine_3 =>
    intro s hrun
    rw [exec_overTemperature, exec_sensorsDisagree, exec_walingDisagree, if_pos (walingUp_run s hrun), if_pos (walingUp_run s hrun),
      if_pos (walingUp_run s hrun)]
    exact ⟨rfl, rfl, rfl⟩
  case refine_4 =>
    intro s m hrun hready hm
    rw [exec_selftestTick, monitorTested_silent s hrun hm, starting_ready s hrun hready]
    rfl
  case refine_5 =>
    intro s m hrun hready hsafe hm
    rw [exec_selftestTick, monitorTested_silent s hrun hm, starting_notReady s hrun hready hsafe]
    rfl

end Sys2Proof.Proofs
end

section
/-!
SUPPORT. What the proofs about ring 0 commands share: agreement outside the host and event blocks under the updates of the other blocks, the
checks of a steward and its answers, the parameter bytes of an entry, and the lengths of byte lists.
-/

namespace Sys2Proof.Proofs

open Sys2Proof Sys2Proof.Machine Sys2Proof.Laws

/-! ### Agreement outside the host and event blocks -/

section Agreement

variable {s t u : State}

theorem rest_trans (h : Rest s t) (k : Rest t u) : Rest s u := Eq.trans (b := rest t) k h

theorem rest_svc_eq (h : Rest s t) : t.svc = s.svc := congrArg State.svc (a₁ := rest t) (a₂ := rest s) h
theorem rest_fan_eq (h : Rest s t) : t.fan = s.fan := congrArg State.fan (a₁ := rest t) (a₂ := rest s) h
theorem rest_aud_eq (h : Rest s t) : t.aud = s.aud := congrArg State.aud (a₁ := rest t) (a₂ := rest s) h
theorem rest_dma_eq (h : Rest s t) : t.dma = s.dma := congrArg State.dma (a₁ := rest t) (a₂ := rest s) h

/-- An update of a context respects the agreement. -/
theorem rest_modCtx (h : Rest s t) (c : Fin 256) (f : Ctx → Ctx) : Rest (s.modCtx c f) (t.modCtx c f) :=
  congrArg (State.modCtx · c f) h

theorem rest_modFollow (h : Rest s t) (c : Fin 256) (f : Follow → Follow) : Rest (s.modFollow c f) (t.modFollow c f) :=
  congrArg (State.modFollow · c f) h

theorem rest_freeDelay (h : Rest s t) (c : Fin 256) : Rest (s.freeDelay c) (t.freeDelay c) :=
  congrArg (State.freeDelay · c) h

theorem rest_freeMot (h : Rest s t) (c : Fin 256) : Rest (s.freeMot c) (t.freeMot c) :=
  congrArg (State.freeMot · c) h

end Agreement

/-- Two updates of one entry of a table are one. -/
theorem upd_upd {α : Type} {n : Nat} (v : Vector α n) (i : Fin n) (f g : α → α) : upd (upd v i f) i g = upd v i fun x => g (f x) := by
  simp [upd]

theorem modCtx_modCtx (s : State) (c : Fin 256) (f g : Ctx → Ctx) : (s.modCtx c f).modCtx c g = s.modCtx c fun x => g (f x) := by
  simp only [State.modCtx, upd_upd]

/-- A context that moves changes its state and, beyond that, what the host is told. -/
theorem rest_moveCtx {s : State} {c : Fin 256} {new : CtxState} (h : s.svc.ctx[c].st ≠ new) (reason : Nat) :
    Rest (s.modCtx c fun x => { x with st := new }) (s.moveCtx c new reason) := by
  simp only [State.moveCtx, if_neg h]
  exact rest_raise (Rest.refl _) _ _ _

/-! ### The checks of a steward (R50, R51) -/

theorem firstFail_eq_none_iff (l : List (Bool × Status × Nat)) : firstFail l = none ↔ ∀ e ∈ l, e.1 = false := by
  refine ⟨firstFail_none l, fun h => ?_⟩
  induction l with
  | nil => rfl
  | cons e l ih =>
    obtain ⟨b, st, d⟩ := e
    have hb : b = false := h _ List.mem_cons_self
    simp only [firstFail, hb, Bool.false_eq_true, if_false]
    exact ih fun x hx => h x (List.mem_cons_of_mem _ hx)

/-- Checks that pass leave the decision to those behind them. -/
theorem firstFail_append {l : List (Bool × Status × Nat)} (m : List (Bool × Status × Nat)) (h : firstFail l = none) :
    firstFail (l ++ m) = firstFail m := by
  induction l with
  | nil => rfl
  | cons e l ih =>
    obtain ⟨b, st, d⟩ := e
    cases b with
    | true => simp [firstFail] at h
    | false => exact ih (by simpa [firstFail] using h)

theorem checked_pass {l : List (Bool × Status × Nat)} (k : Unit → Answer) (h : firstFail l = none) : checked l k = k () := by
  simp only [checked, h]

theorem checked_fail {l : List (Bool × Status × Nat)} (k : Unit → Answer) {st : Status} {d : Nat} (h : firstFail l = some (st, d)) :
    checked l k = .fail st d := by
  simp only [checked, h]

/-! ### A command by what its steward answers -/

section Answers

variable {s t : State} {op : Nat} {c : CmdEntry} {body : State → Answer}

theorem runCmd_ok {r : List Byte} {o : Option (List Byte)} (h : s.takes op c = true) (hb : body (s.taken op c) = .ok t r o) :
    s.runCmd op c body = t.completesOk op c r o := by
  rw [runCmd_takes s op c body h, hb, answer_ok]

theorem runCmd_fail {st : Status} {d : Nat} (h : s.takes op c = true) (hb : body (s.taken op c) = .fail st d) :
    s.runCmd op c body = (s.taken op c).finish op c st d [] none := by
  rw [runCmd_takes s op c body h, hb, answer_fail]

theorem runCmd_wait (h : s.takes op c = true) (hb : body (s.taken op c) = .wait t) :
    s.runCmd op c body = t.addCmd op .waiting c := by
  rw [runCmd_takes s op c body h, hb, answer_wait]

end Answers

/-! ### Parameter bytes -/

theorem byte_toNat {n : Nat} (h : n < 256) : (byte n).toNat = n := by
  simp [byte, Nat.mod_eq_of_lt h]

/-- A byte that names a numbered part. -/
theorem ofNat_eq {n v : Nat} [NeZero n] {i : Fin n} (h : v = i.val) : Fin.ofNat n v = i := by
  subst h
  exact Fin.ext (Nat.mod_eq_of_lt i.isLt)

theorem u8_of_bytes {c : CmdEntry} {off n i : Nat} {l : List Byte} (h : c.bytes off n = l) (hoff : 24 ≤ off) (hi : i < n) :
    c.u8 (off + i) = (l.getD i 0).toNat := by
  have hix : off + i - 24 = off - 24 + i := by omega
  simp [← h, CmdEntry.bytes, CmdEntry.u8, hi, hix]

/-- Reserved bytes that are 0 pass. -/
theorem firstFail_rsvdBytes {c : CmdEntry} {lo hi : Nat} (h : ∀ i < hi + 1 - lo, c.u8 (lo + i) = 0) : firstFail (rsvdBytes c lo hi) = none := by
  rw [firstFail_eq_none_iff]
  intro e he
  obtain ⟨i, hi, rfl⟩ := List.mem_map.mp he
  simp [h i (List.mem_range.mp hi)]

theorem firstFail_rsvdBytes_of_bytes {c : CmdEntry} {off n : Nat} (h : c.bytes off n = List.replicate n 0) (hoff : 24 ≤ off) :
    firstFail (rsvdBytes c off (off + n - 1)) = none := by
  refine firstFail_rsvdBytes fun i hi => ?_
  have hin : i < n := by omega
  rw [u8_of_bytes h hoff hin]
  simp [hin]

/-- Four parameter bytes of which the last two are reserved. -/
theorem params_two {c : CmdEntry} {v : Nat} {w : Byte} (hv : v < 256) (h : c.bytes 24 4 = [byte v, w, 0, 0]) :
    c.u8 24 = v ∧ c.u8 25 = w.toNat ∧ firstFail (rsvdBytes c 26 27) = none := by
  refine ⟨(u8_of_bytes h (i := 0) (by decide) (by decide)).trans (byte_toNat hv), u8_of_bytes h (i := 1) (by decide) (by decide), ?_⟩
  refine firstFail_rsvdBytes fun i hi => ?_
  obtain rfl | rfl : i = 0 ∨ i = 1 := by omega
  · exact u8_of_bytes h (i := 2) (by decide) (by decide)
  · exact u8_of_bytes h (i := 3) (by decide) (by decide)

/-- Four parameter bytes of which the last three are reserved. -/
theorem params_one {c : CmdEntry} {v : Nat} (hv : v < 256) (h : c.bytes 24 4 = [byte v, 0, 0, 0]) :
    c.u8 24 = v ∧ firstFail (rsvdBytes c 25 27) = none := by
  obtain ⟨h24, h25, hrest⟩ := params_two hv h
  refine ⟨h24, ?_⟩
  change firstFail ((decide (c.u8 25 ≠ 0), .range, 25) :: rsvdBytes c 26 27) = none
  simp [firstFail, h25, hrest]

/-! ### Lengths -/

@[simp] theorem leBytes_length (n v : Nat) : (leBytes n v).length = n := by
  induction n generalizing v with
  | zero => rfl
  | succ n ih => simp [leBytes, ih]

@[simp] theorem leInt_length (n : Nat) (v : Int) : (leInt n v).length = n := leBytes_length n _

@[simp] theorem padTo_length (n : Nat) (bs : List Byte) : (padTo n bs).length = n := by
  simp only [padTo, List.length_take, List.length_append, List.length_replicate]
  omega

/-- A quotient that comes out even needs no rounding. -/
theorem quotAt_mul (place : Nat) (a : Int) {n : Nat} (h : 0 < n) : quotAt place (n * a) n = a := by
  have hn : (n : Int) ≠ 0 := by omega
  rw [quotAt, if_pos (Int.mul_emod_right _ _), Int.mul_ediv_cancel_left a hn]

end Sys2Proof.Proofs
end

section
/-!
SUPPORT. The service commands (R20 to R23, R144, R161 to R166): what each body answers on the state in which its steward finds it, and what
an open, a close and the end of a close change.
-/

namespace Sys2Proof.Proofs

open Sys2Proof Sys2Proof.Machine Sys2Proof.Laws

/-! ### SVC_OPEN (R21, R165) -/

section Open

variable {s : State} {c : CmdEntry} {ctx : Fin 256} {rn : Fin 32}

/-- No shadow holds anything that a host open could take back. -/
theorem makeRoom_noShadow (h : ∀ k : Fin 256, s.svc.ctx[k].shadowOf = none) (kind : Nat) : s.makeRoom rn kind = s := by
  have hlow (p : Fin 256 → Bool) : s.lowestShadow p = none := by
    simp only [State.lowestShadow, allIx, h, Option.isSome_none, Bool.false_and, List.filter_false, List.foldl_nil]
  simp only [State.makeRoom, hlow, ite_self]

/-- The checks behind those of the parameters where the host names the context, and what the command does where they pass. -/
theorem bodySvcOpen_named (h24 : c.u8 24 = ctx.val) (hctx : ctx.val ≠ 255) (h26 : c.u8 26 = rn.val) (hrange : firstFail (openSvcRange c) = none) :
    bodySvcOpen c s = checked
      [s.winPower, (decide (s.svc.ctx[ctx].st ≠ .free), .state, 0), (s.noHandle rn (openComp c), .notfound, 0),
        ((s.makeRoom rn (c.u8 25)).overLimit rn (c.u8 25) (openComp c) ||
          (needsDecoder rn (c.u8 25) && decide ((s.makeRoom rn (c.u8 25)).freeDecoder.isNone)) ||
          (decide (c.u8 32 = 1) && decide (16 ≤ s.followed.length)), .nores, 0),
        (s.svc.run[rn].fm.lent || s.routeHeld (c.u8 25) (c.u8 27), .busy, 0)]
      fun _ => .wait (((s.makeRoom rn (c.u8 25)).startOpen ctx { (s.makeRoom rn (c.u8 25)).openWith c with openSlot := some c.id } 0).modFollow
        ctx fun _ => {}) := by
  have hk : Fin.ofNat 256 (c.u8 24) = ctx := ofNat_eq h24
  have hr : openRunner c = rn := ofNat_eq h26
  have hne : c.u8 24 ≠ 255 := h24 ▸ hctx
  have hslot (t : State) : t.openSlotFor c = some ctx := by simp only [State.openSlotFor, hne, hk, if_false]
  simp only [bodySvcOpen, hr, hk, hslot, checked, firstFail_append _ hrange, hne, ne_eq, not_false_eq_true, decide_true, Bool.true_and,
    Option.isNone_some, Bool.false_eq_true, decide_false, Bool.false_or]

/-- A context in use is refused. -/
theorem bodySvcOpen_used (h24 : c.u8 24 = ctx.val) (hctx : ctx.val ≠ 255) (h26 : c.u8 26 = rn.val) (hrange : firstFail (openSvcRange c) = none)
    (hpl : s.below 2 = false) (hst : s.svc.ctx[ctx].st ≠ .free) : bodySvcOpen c s = .fail .state 0 := by
  rw [bodySvcOpen_named h24 hctx h26 hrange]
  apply checked_fail
  simp only [State.winPower, hpl, hst, firstFail, ne_eq, not_false_eq_true, decide_true, Bool.false_eq_true, if_false, if_true]

/-- A limit of the runner refuses. -/
theorem bodySvcOpen_overLimit (h24 : c.u8 24 = ctx.val) (hctx : ctx.val ≠ 255) (h26 : c.u8 26 = rn.val)
    (hrange : firstFail (openSvcRange c) = none) (hpl : s.below 2 = false) (hst : s.svc.ctx[ctx].st = .free)
    (hh : s.noHandle rn (openComp c) = false) (hsh : ∀ k : Fin 256, s.svc.ctx[k].shadowOf = none)
    (hlim : s.overLimit rn (c.u8 25) (openComp c) = true) : bodySvcOpen c s = .fail .nores 0 := by
  rw [bodySvcOpen_named h24 hctx h26 hrange, makeRoom_noShadow hsh]
  apply checked_fail
  simp only [State.winPower, hpl, hst, hh, hlim, firstFail, ne_eq, not_true_eq_false, decide_false, Bool.false_eq_true, if_false, Bool.true_or,
    if_true]

/-- Within every limit the context moves to OPENING and the command waits. -/
theorem bodySvcOpen_opens (h24 : c.u8 24 = ctx.val) (hctx : ctx.val ≠ 255) (h26 : c.u8 26 = rn.val)
    (hrange : firstFail (openSvcRange c) = none) (hpl : s.below 2 = false) (hst : s.svc.ctx[ctx].st = .free)
    (hh : s.noHandle rn (openComp c) = false) (hsh : ∀ k : Fin 256, s.svc.ctx[k].shadowOf = none)
    (hlim : s.overLimit rn (c.u8 25) (openComp c) = false) (hdec : c.u8 25 = 0 → 24 ≤ rn.val → s.freeDecoder.isSome = true)
    (hfol : s.followed.length < 16) (hlent : s.svc.run[rn].fm.lent = false) (hroute : s.routeHeld (c.u8 25) (c.u8 27) = false) :
    bodySvcOpen c s = .wait ((s.startOpen ctx { s.openWith c with openSlot := some c.id } 0).modFollow ctx fun _ => {}) := by
  have hd : (needsDecoder rn (c.u8 25) && decide s.freeDecoder.isNone) = false := by
    simp only [needsDecoder, Bool.and_eq_false_imp, Bool.and_eq_true, decide_eq_true_eq, decide_eq_false_iff_not, Option.isNone_iff_eq_none]
    rintro ⟨hkind, hdab⟩ hnone
    simpa [hnone] using hdec hkind hdab
  have hf : decide (16 ≤ s.followed.length) = false := decide_eq_false (by omega)
  rw [bodySvcOpen_named h24 hctx h26 hrange, makeRoom_noShadow hsh]
  apply checked_pass
  simp only [State.winPower, hpl, hst, hh, hlim, hd, hf, hlent, hroute, firstFail, ne_eq, not_true_eq_false, decide_false, Bool.false_eq_true,
    if_false, Bool.or_self, Bool.and_false]

/-- A KIND that no FM, AM or DAB runner serves is refused before anything else. -/
theorem bodySvcOpen_kind (h25 : c.u8 25 = 4) (h26 : c.u8 26 ≤ 27) : bodySvcOpen c s = .fail .range 25 := by
  have hr : (openRunner c).val = c.u8 26 := Nat.mod_eq_of_lt (by omega)
  have hserved : kindServed (openRunner c) 4 = false := by
    simp only [kindServed, hr]
    split_ifs
    · rfl
    · rfl
    · rfl
    · omega
  have h31 : c.u8 26 ≤ 31 := by omega
  simp only [bodySvcOpen]
  apply checked_fail
  simp [openSvcRange, firstFail, h25, h31, hserved]

/-- A context that opens: the agreement outside the host and event blocks shows what it holds in OPENING. -/
theorem rest_startOpen (s : State) (ctx : Fin 256) (q : Ctx) (reason : Nat) :
    Rest (s.modCtx ctx fun x => { q with st := .opening, gen := x.gen + 1, staged := x.staged }) (s.startOpen ctx q reason) := by
  have hfree : (s.modCtx ctx fun x => { q with st := .free, gen := x.gen + 1, staged := x.staged }).svc.ctx[ctx].st ≠ .opening := by
    rw [modCtx_svc, upd_same]
    exact nofun
  have h := rest_moveCtx hfree reason
  rwa [modCtx_modCtx] at h

/-- SVC_OPEN within every limit. -/
theorem exec_svcOpen_opens (h : s.takes 0x0301 c = true) (h24 : c.u8 24 = ctx.val) (hctx : ctx.val ≠ 255) (h26 : c.u8 26 = rn.val)
    (hrange : firstFail (openSvcRange c) = none) (hpl : s.below 2 = false) (hst : s.svc.ctx[ctx].st = .free)
    (hh : s.noHandle rn (openComp c) = false) (hsh : ∀ k : Fin 256, s.svc.ctx[k].shadowOf = none)
    (hlim : s.overLimit rn (c.u8 25) (openComp c) = false) (hdec : c.u8 25 = 0 → 24 ≤ rn.val → s.freeDecoder.isSome = true)
    (hfol : s.followed.length < 16) (hlent : s.svc.run[rn].fm.lent = false) (hroute : s.routeHeld (c.u8 25) (c.u8 27) = false) :
    ∃ u : State, exec (.svcOpen c) s = .next u ∧
      Rest ((s.modCtx ctx fun x => { s.openWith c with st := .opening, gen := x.gen + 1, staged := x.staged, openSlot := some c.id }).modFollow
        ctx fun _ => {}) u := by
  have hwait := bodySvcOpen_opens (s := s.taken 0x0301 c) h24 hctx h26 hrange hpl hst hh hsh hlim hdec hfol hlent hroute
  refine ⟨_, congrArg Host.Outcome.next (runCmd_wait h hwait), rest_addCmd ?_ _ _ _⟩
  have hctx' := rest_modCtx (taken_rest s 0x0301 c) ctx fun x =>
    { s.openWith c with st := .opening, gen := x.gen + 1, staged := x.staged, openSlot := some c.id }
  exact rest_modFollow (rest_trans hctx' (rest_startOpen _ _ _ _)) ctx fun _ => {}

/-- The resources of a context in OPENING are configured: the open that waits returns it. -/
theorem ctxOpened_waiting {k : Nat} (hst : s.svc.ctx[ctx].st = .opening) (hslot : s.svc.ctx[ctx].openSlot = some k) : s.ctxOpened ctx =
    ((s.moveCtx ctx .acquiring 0).modCtx ctx fun x => { x with openSlot := none }).finishSlot 0x0301 k .ok 0
      [byte ctx.val, s.svc.ctx[ctx].gen] none := by
  simp only [State.ctxOpened, hst, hslot, if_true]

end Open

/-! ### SVC_CLOSE and CONTEXT_CLOSED (R21, R23) -/

section Close

variable {s : State} {c : CmdEntry} {ctx : Fin 256}

theorem bodySvcClose_eq (hb : c.bytes 24 4 = [byte ctx.val, 0, 0, 0]) :
    bodySvcClose c s = checked [(decide (s.svc.ctx[ctx].st = .free), .state, 0)] fun _ =>
      if s.svc.ctx[ctx].st = .closing then .wait (s.modCtx ctx fun x => { x with closeSlot := x.closeSlot ++ [c.id] })
      else .wait (s.closeCtx ctx c.id) := by
  obtain ⟨h24, hrsvd⟩ := params_one ctx.isLt hb
  simp only [bodySvcClose, ofNat_eq h24, checked, firstFail_append _ hrsvd]

theorem bodySvcClose_free (hb : c.bytes 24 4 = [byte ctx.val, 0, 0, 0]) (hst : s.svc.ctx[ctx].st = .free) :
    bodySvcClose c s = .fail .state 0 := by
  rw [bodySvcClose_eq hb]
  exact checked_fail _ (by simp only [hst, firstFail, decide_true, if_true])

/-- A close of a context that closes already waits beside the first one. -/
theorem bodySvcClose_closing (hb : c.bytes 24 4 = [byte ctx.val, 0, 0, 0]) (hst : s.svc.ctx[ctx].st = .closing) :
    bodySvcClose c s = .wait (s.modCtx ctx fun x => { x with closeSlot := x.closeSlot ++ [c.id] }) := by
  rw [bodySvcClose_eq hb, checked_pass _ (by rw [hst]; rfl), if_pos hst]

theorem bodySvcClose_open (hb : c.bytes 24 4 = [byte ctx.val, 0, 0, 0]) (hfree : s.svc.ctx[ctx].st ≠ .free)
    (hclosing : s.svc.ctx[ctx].st ≠ .closing) : bodySvcClose c s = .wait (s.closeCtx ctx c.id) := by
  rw [bodySvcClose_eq hb, checked_pass _ (by simp only [hfree, firstFail, decide_false, Bool.false_eq_true, if_false]), if_neg hclosing]

/-- A data context on an FM or AM runner has no stream to fade and no superframes to let go. -/
theorem rest_startClose (hclosing : s.svc.ctx[ctx].st ≠ .closing) (hrn : s.svc.ctx[ctx].runner.val < 24) (hkind : s.svc.ctx[ctx].kind ≠ 0)
    (reason : Nat) : Rest (s.modCtx ctx fun x => { x with st := .closing }) (s.startClose ctx reason) := by
  have hdab : ¬(24 ≤ s.svc.ctx[ctx].runner.val ∧ s.svc.ctx[ctx].runner.val < 28) := by omega
  simp only [State.startClose, if_neg hdab, Ctx.streamOf, if_neg hkind]
  exact rest_moveCtx hclosing reason

/-- A close of a data context that neither follows nor is a shadow: an open that waits is aborted, and the context closes. -/
theorem rest_closeCtx (hclosing : s.svc.ctx[ctx].st ≠ .closing) (hrn : s.svc.ctx[ctx].runner.val < 24) (hkind : s.svc.ctx[ctx].kind ≠ 0)
    (hfol : s.svc.ctx[ctx].follow = false) (hsh : s.svc.ctx[ctx].shadowOf = none) (slot : Nat) :
    Rest (s.modCtx ctx fun x => { x with st := .closing, closeSlot := x.closeSlot ++ [slot], openSlot := none }) (s.closeCtx ctx slot) := by
  have hgoal (t : State) (ht : Rest s t) : Rest (s.modCtx ctx fun x => { x with st := .closing, closeSlot := x.closeSlot ++ [slot], openSlot := none })
      (((t.loseShadow ctx).startClose ctx 0).modCtx ctx fun x => { x with closeSlot := x.closeSlot ++ [slot], openSlot := none }) := by
    have hsvc := rest_svc_eq ht
    have hlose : t.loseShadow ctx = t := by simp only [State.loseShadow, hsvc, hsh]
    have hclose : Rest (t.modCtx ctx fun x => { x with st := .closing }) (t.startClose ctx 0) :=
      rest_startClose (by rwa [hsvc]) (by rwa [hsvc]) (by rwa [hsvc]) 0
    have h := rest_modCtx (rest_trans (rest_modCtx ht ctx _) hclose) ctx fun x =>
      { x with closeSlot := x.closeSlot ++ [slot], openSlot := none }
    rwa [modCtx_modCtx, ← hlose] at h
  simp only [State.closeCtx, hfol, Bool.false_eq_true, if_false]
  cases s.svc.ctx[ctx].openSlot with
  | none => exact hgoal s (Rest.refl s)
  | some o => exact hgoal _ (rest_finishSlot (Rest.refl s) _ _ _ _ _ _)

@[simp] theorem freeDelay_svc (s : State) (k : Fin 256) : (s.freeDelay k).svc = (s.modCtx k fun x => { x with delay := 0 }).svc := rfl
@[simp] theorem freeDelay_aud (s : State) (k : Fin 256) :
    (s.freeDelay k).aud = { s.aud with poolFree := s.aud.poolFree + s.svc.ctx[k].delay.toNat } := rfl
@[simp] theorem freeMot_svc (s : State) (k : Fin 256) : (s.freeMot k).svc = s.svc := rfl
@[simp] theorem freeMot_aud (s : State) (k : Fin 256) : (s.freeMot k).aud = s.aud := rfl

/-- The end of a close: the context is FREE, its delay returns to the pool and the closes that waited complete. -/
theorem rest_ctxClosed (hst : s.svc.ctx[ctx].st = .closing) :
    Rest ((((s.modCtx ctx fun x => { x with st := .free }).freeDelay ctx).freeMot ctx).modCtx ctx fun x =>
      { gen := x.gen, staged := x.staged.filter fun u => decide (u.written ≠ 0) }) (s.ctxClosed ctx) := by
  simp only [State.ctxClosed, hst, if_true]
  refine Rest.fold _ _ ?_ fun t k ht => rest_finishSlot ht _ _ _ _ _ _
  have hmove := rest_moveCtx (s := s) (c := ctx) (new := .free) (by rw [hst]; exact nofun)
  exact rest_modCtx (rest_freeMot (rest_freeDelay (hmove _) ctx) ctx) ctx _

end Close

end Sys2Proof.Proofs
end

section
/-!
SUPPORT. Quality, settings, probe lending and checks of the FM and AM runners, and the image of their RDS state (R159 to R166).
-/

namespace Sys2Proof.Proofs

open Sys2Proof Sys2Proof.Machine Sys2Proof.Laws

/-! ### SVC_QUALITY and SVC_RDS_STATE (R159, R164) -/

section Windowed

variable {s : State} {c : CmdEntry} {rn : Fin 32}

theorem bodySvcQuality_eq (hb : c.bytes 24 4 = [byte rn.val, 0, 0, 0]) :
    bodySvcQuality c s = checked [s.noWindow rn] fun _ => .ok s (s.quality rn) none := by
  obtain ⟨h24, hrsvd⟩ := params_one (by omega) hb
  have h31 : ¬31 < c.u8 24 := by omega
  simp only [bodySvcQuality, ofNat_eq h24, checked, List.cons_append, firstFail, h31, decide_false, Bool.false_eq_true, if_false,
    firstFail_append _ hrsvd]

theorem bodySvcQuality_window (hb : c.bytes 24 4 = [byte rn.val, 0, 0, 0]) (hw : (s.windowOf rn).isSome = true) :
    bodySvcQuality c s = .ok s (s.quality rn) none := by
  rw [bodySvcQuality_eq hb]
  exact checked_pass _ (by simp [State.noWindow, firstFail, Option.isSome_iff_ne_none.mp hw])

theorem bodySvcQuality_noWindow (hb : c.bytes 24 4 = [byte rn.val, 0, 0, 0]) (hw : s.windowOf rn = none) :
    bodySvcQuality c s = .fail .state 0 := by
  rw [bodySvcQuality_eq hb]
  exact checked_fail _ (by simp [State.noWindow, firstFail, hw])

theorem bodySvcRdsState_window (hb : c.bytes 24 4 = [byte rn.val, 0, 0, 0]) (hrn : rn.val < 16) (hw : (s.windowOf rn).isSome = true) :
    bodySvcRdsState c s = .ok s [] (some (s.svc.run[rn].fm.rds.image (decide (s.svc.run[rn].fm.setting rn 2 = 2)) s.sys.timeUs)) := by
  obtain ⟨h24, hrsvd⟩ := params_one (by omega) hb
  have h15 : ¬15 < c.u8 24 := by omega
  simp only [bodySvcRdsState, ofNat_eq h24]
  apply checked_pass
  simp [firstFail, h15, firstFail_append _ hrsvd, State.noWindow, Option.isSome_iff_ne_none.mp hw]

theorem psBytes_length (d : RdsState) : d.psBytes.length = 8 := by
  rw [RdsState.psBytes, List.length_flatMap, List.map_congr_left (g := fun _ => 2) fun p _ => by cases p <;> rfl]
  simp

theorem ctBytes_length (d : RdsState) (now : D) : (d.ctBytes now).length = 6 := by
  cases h : d.ct <;> simp [RdsState.ctBytes, h]

/-- The image of the RDS state has 1,024 bytes. -/
theorem image_length (d : RdsState) (rbds : Bool) (now : D) : (d.image rbds now).length = 1024 := by
  simp [RdsState.image, psBytes_length, ctBytes_length]

end Windowed

/-! ### The metrics of a steady signal (R164) -/

section Steady

variable {f : FmState} {x : FmTick} {n : Nat} {rn : Fin 32}

/-- The mean over equal ticks is what each of them holds. -/
theorem mean_replicate (hh : f.hist = List.replicate n x) (hn : 0 < n) (v : FmTick → Int) : f.mean rn v 1 = v x := by
  obtain ⟨m, hl⟩ : ∃ m, f.hist.take (if isFm rn then 16 else 32) = List.replicate (m + 1) x := by
    refine ⟨min (if isFm rn then 16 else 32) n - 1, ?_⟩
    rw [hh, List.take_replicate, Nat.sub_add_cancel]
    split <;> omega
  have hne : (List.replicate (m + 1) x).isEmpty = false := rfl
  simp only [FmState.mean, hl, hne, Bool.false_eq_true, if_false, List.map_replicate, List.sum_replicate, nsmul_eq_mul, one_mul,
    List.length_replicate]
  exact quotAt_mul 164 (v x) (Nat.succ_pos m)

theorem foldl_max_replicate (a : Nat) (hn : 0 < n) : (List.replicate n a).foldl max 0 = a := by
  have hfix (m : Nat) : (List.replicate m a).foldl max a = a := by
    induction m with
    | zero => rfl
    | succ m ih => simpa [List.replicate_succ] using ih
  obtain ⟨m, rfl⟩ : ∃ m, n = m + 1 := ⟨n - 1, by omega⟩
  simpa [List.replicate_succ] using hfix m

theorem peak_replicate (hh : f.hist = List.replicate n x) (hn : 0 < n) (v : RunnerMetrics → Nat) : f.peak v = v x.m := by
  rw [FmState.peak, hh, List.map_replicate, foldl_max_replicate _ hn]

theorem modulated_replicate (hh : f.hist = List.replicate n x) (hn : 0 < n) : f.modulated = x.m.modulated := by
  obtain ⟨m, rfl⟩ : ∃ m, n = m + 1 := ⟨n - 1, by omega⟩
  simp [FmState.modulated, hh, List.replicate_succ]

theorem cnr_replicate (hh : f.hist = List.replicate n x) (hn : 0 < n) : f.cnr rn = x.m.cnr := by
  rw [FmState.cnr, mean_replicate hh hn]
  exact Int.toNat_natCast _

theorem multipath_replicate (hh : f.hist = List.replicate n x) (hn : 0 < n) : f.multipath rn = x.m.multipath := by
  rw [FmState.multipath, mean_replicate hh hn]
  exact Int.toNat_natCast _

theorem power_replicate (hh : f.hist = List.replicate n x) (hn : 0 < n) : f.power rn = x.m.power := by
  rw [FmState.power, mean_replicate hh hn]

end Steady

/-- The layout of the result of SVC_QUALITY on an FM runner. -/
theorem fmQuality_fm {rn : Fin 32} (hrn : rn.val < 16) (u : Runner) (level ref : Int) : u.fmQuality rn level ref =
    byte (b01 u.lock + 2 * b01 u.fm.pilot + 4 * u.fm.rds.sync.toNat) :: sat8 (u.fm.mean rn (fun t => 4 * (t.mute : Int)) 65536).toNat ::
    (leInt 2 level ++ sat8 (u.fm.cnr rn) :: sat8 (u.fm.multipath rn) :: (leInt 1 (u.fm.adjacent rn)).getD 0 0 ::
      sat8 (u.fm.mean rn (fun t => 255 * (t.sep : Int)) 65536).toNat ::
    (leInt 2 (if u.lock then u.fm.mean rn (fun t => t.m.offset) 1 + ref else 0) ++
      [if u.lock = true ∧ u.fm.modulated = true then sat8 (u.fm.peak RunnerMetrics.deviation) else 0,
        sat8 (u.fm.mean rn (fun t => (t.corner : Int)) (65536 * 100)).toNat,
        u.fm.rds.blerOf 0, u.fm.rds.blerOf 1, u.fm.rds.blerOf 2, u.fm.rds.blerOf 3])) := by
  have hfm : isFm rn = true := decide_eq_true hrn
  simp [Runner.fmQuality, FmState.byte21, hfm]

theorem quality_fm {rn : Fin 32} (hrn : rn.val < 16) (s : State) : s.quality rn =
    s.svc.run[rn].fmQuality rn (s.levelAt rn (s.svc.run[rn].fm.power rn)) (s.refOffset rn 10) := by
  have hfm : isFm rn = true := decide_eq_true hrn
  have h24 : rn.val < 24 := by omega
  simp only [State.quality, h24, hfm, if_true]

/-- The result of SVC_QUALITY on an FM runner that has met the same measurements at every tick. -/
theorem quality_steady {s : State} {rn : Fin 32} {n : Nat} {x : FmTick} (hrn : rn.val < 16) (hn : 0 < n)
    (hh : s.svc.run[rn].fm.hist = List.replicate n x) : (s.quality rn).length = 16 ∧
      (s.quality rn).getD 0 0 = byte (b01 s.svc.run[rn].lock + 2 * b01 s.svc.run[rn].fm.pilot + 4 * s.svc.run[rn].fm.rds.sync.toNat) ∧
      slice (s.quality rn) 2 2 = leInt 2 (s.levelAt rn x.m.power) ∧ (s.quality rn).getD 4 0 = byte (min 255 x.m.cnr) ∧
      (s.quality rn).getD 5 0 = byte (min 255 x.m.multipath) ∧
      (s.svc.run[rn].lock = false → slice (s.quality rn) 8 2 = [0, 0] ∧ (s.quality rn).getD 10 0 = 0) ∧
      (s.svc.run[rn].lock = true → x.m.modulated = true → (s.quality rn).getD 10 0 = byte (min 255 x.m.deviation)) := by
  rw [quality_fm hrn, fmQuality_fm hrn, power_replicate hh hn, cnr_replicate hh hn, multipath_replicate hh hn, modulated_replicate hh hn,
    peak_replicate hh hn]
  refine ⟨by simp, rfl, rfl, rfl, rfl, fun hlock => ?_, fun hlock hmod => ?_⟩
  · simp only [hlock, Bool.false_eq_true, false_and, if_false]
    exact ⟨rfl, rfl⟩
  · rw [hlock, hmod]
    rfl

/-! ### SVC_FM_CFG and SVC_AM_CFG (R165, R166) -/

/-- Checks that all pass do so in whatever order. -/
theorem firstFail_byOffset {l : List (Bool × Status × Nat)} (h : ∀ e ∈ l, e.1 = false) : firstFail (byOffset l) = none := by
  rw [firstFail_eq_none_iff]
  intro e he
  obtain ⟨i, -, hi⟩ := List.mem_flatMap.mp he
  exact h e (List.mem_filter.mp hi).1

/-- Bytes that are 0xFF or within their ranges pass. -/
theorem settingRange_pass {c : CmdEntry} {ranges : List (Nat × Nat)} (h : ∀ i, i < ranges.length →
      c.u8 (25 + i) = 0xFF ∨ ((ranges.getD i (0, 0)).1 ≤ c.u8 (25 + i) ∧ c.u8 (25 + i) ≤ (ranges.getD i (0, 0)).2)) :
    ∀ e ∈ settingRange c ranges, e.1 = false := by
  intro e he
  obtain ⟨i, hi, rfl⟩ := List.mem_mapIdx.mp he
  have hin := h i hi
  rw [List.getD_eq_getElem _ _ hi] at hin
  obtain hff | hin := hin
  · simp [hff]
  · simp [within, hin]

theorem startEnd_pass {l : List Byte} {i : Nat} (h : l.getD (i + 1) 0 < l.getD i 0) : (startEnd l i).1 = false :=
  decide_eq_false (Nat.not_le.mpr h)

section Settings

variable {s : State} {c : CmdEntry} {rn : Fin 32} {l : List Byte}

theorem bodySvcFmCfg_pass (h24 : c.u8 24 = rn.val) (hrn : rn.val < 16) (hb : c.bytes 39 5 = [0, 0, 0, 0, 0])
    (hl : l = s.svc.run[rn].fm.newSettings rn c 14)
    (hr : ∀ i, i < 14 → c.u8 (25 + i) = 0xFF ∨ ((fmRanges.getD i (0, 0)).1 ≤ c.u8 (25 + i) ∧ c.u8 (25 + i) ≤ (fmRanges.getD i (0, 0)).2))
    (h5 : l.getD 6 0 < l.getD 5 0) (h8 : l.getD 9 0 < l.getD 8 0) (h11 : l.getD 12 0 < l.getD 11 0) :
    bodySvcFmCfg c s = .done (s.modFm rn fun f => { f with next := some l }) := by
  have hall : ∀ e ∈ settingRange c fmRanges ++ [startEnd l 5, startEnd l 8, startEnd l 11], e.1 = false := by
    simp only [List.forall_mem_append, List.forall_mem_cons, List.not_mem_nil, false_implies, implies_true, and_true]
    exact ⟨settingRange_pass hr, startEnd_pass h5, startEnd_pass h8, startEnd_pass h11⟩
  have h15 : ¬15 < c.u8 24 := by omega
  simp only [bodySvcFmCfg, ofNat_eq h24, ← hl]
  apply checked_pass
  rw [List.cons_append, firstFail]
  simp only [h15, decide_false, Bool.false_eq_true, if_false, firstFail_append _ (firstFail_byOffset hall)]
  exact firstFail_rsvdBytes_of_bytes (n := 5) hb (by decide)

theorem bodySvcAmCfg_pass (h24 : c.u8 24 = rn.val) (hlo : 16 ≤ rn.val) (hhi : rn.val ≤ 23) (hb : c.bytes 34 2 = [0, 0])
    (hl : l = s.svc.run[rn].fm.newSettings rn c 9)
    (hr : ∀ i, i < 9 → c.u8 (25 + i) = 0xFF ∨ ((amRanges.getD i (0, 0)).1 ≤ c.u8 (25 + i) ∧ c.u8 (25 + i) ≤ (amRanges.getD i (0, 0)).2))
    (h2 : l.getD 3 0 < l.getD 2 0) (h5 : l.getD 6 0 < l.getD 5 0) :
    bodySvcAmCfg c s = .done (s.modFm rn fun f => { f with next := some l }) := by
  have hall : ∀ e ∈ settingRange c amRanges ++ [startEnd l 2, startEnd l 5], e.1 = false := by
    simp only [List.forall_mem_append, List.forall_mem_cons, List.not_mem_nil, false_implies, implies_true, and_true]
    exact ⟨settingRange_pass hr, startEnd_pass h2, startEnd_pass h5⟩
  have hin : within 16 23 (c.u8 24) = true := by simp [within, h24, hlo, hhi]
  simp only [bodySvcAmCfg, ofNat_eq h24, ← hl]
  apply checked_pass
  rw [List.cons_append, firstFail]
  simp only [hin, Bool.not_true, Bool.false_eq_true, if_false, firstFail_append _ (firstFail_byOffset hall)]
  exact firstFail_rsvdBytes_of_bytes (n := 2) hb (by decide)

/-- A deemphasis that R166 does not name fails at its byte. -/
theorem bodySvcFmCfg_range (h24 : c.u8 24 ≤ 15) (h25 : c.u8 25 = 3) : bodySvcFmCfg c s = .fail .range 25 := by
  have h15 : ¬15 < c.u8 24 := by omega
  simp only [bodySvcFmCfg]
  apply checked_fail
  simp [firstFail, h15, byOffset, List.range_succ_eq_map, settingRange, startEnd, fmRanges, h25, within]

end Settings

/-! ### SVC_PROBE_LEND and SVC_PROBE (R161, R162) -/

section Probes

variable {s : State} {c : CmdEntry} {rn : Fin 32}

theorem bodySvcProbeLend_eq {w : Byte} (hb : c.bytes 24 4 = [byte rn.val, w, 0, 0]) (hrn : rn.val < 16) (hw : w.toNat ≤ 1) :
    bodySvcProbeLend c s = checked
      [(decide (w.toNat = 1) && s.runnerHeld rn, .busy, 0),
        (if decide (w.toNat = 1) then decide ((s.windowOf rn).isNone) else !s.svc.run[rn].fm.lent, .state, 0),
        (decide (w.toNat = 1) && decide (4 ≤ s.lentCount), .nores, 0)]
      fun _ => .done (if decide (w.toNat = 1) then s.modFm rn fun f => { f with lent := true } else s.probeAbort rn) := by
  obtain ⟨h24, h25, hrsvd⟩ := params_two (by omega) hb
  have h15 : ¬15 < c.u8 24 := by omega
  have h1 : ¬1 < w.toNat := by omega
  simp only [bodySvcProbeLend, ofNat_eq h24, h25, checked, List.cons_append, List.nil_append, firstFail, h15, h1, decide_false,
    Bool.false_eq_true, if_false, firstFail_append _ hrsvd]

/-- A runner with a window and no context is lent, unless four are lent already. -/
theorem bodySvcProbeLend_lend (hb : c.bytes 24 4 = [byte rn.val, 1, 0, 0]) (hrn : rn.val < 16) (hctx : s.ctxsOf rn = [])
    (hw : (s.windowOf rn).isSome = true) : bodySvcProbeLend c s =
      if 4 ≤ s.lentCount then .fail .nores 0 else .done (s.modFm rn fun f => { f with lent := true }) := by
  have hheld : s.runnerHeld rn = false := by simp [State.runnerHeld, hctx]
  rw [bodySvcProbeLend_eq hb hrn (by decide)]
  by_cases h4 : 4 ≤ s.lentCount <;>
    simp [checked, firstFail, hheld, Option.isSome_iff_ne_none.mp hw, h4]

/-- A reclaim with no check under way. -/
theorem bodySvcProbeLend_reclaim (hb : c.bytes 24 4 = [byte rn.val, 0, 0, 0]) (hrn : rn.val < 16) (hlent : s.svc.run[rn].fm.lent = true)
    (hp : s.svc.run[rn].fm.probes = []) :
    bodySvcProbeLend c s = .done (s.modFm rn fun f => { f with probes := [], lent := false }) := by
  rw [bodySvcProbeLend_eq hb hrn (by decide), checked_pass _ (by simp only [firstFail, hlent]; rfl)]
  simp only [State.probeAbort, hp]
  rfl

/-- A check behind others joins the queue of a lent runner; the 17th finds it full. -/
theorem bodySvcProbe_queued {win : Fin 64} (h24 : c.u8 24 = rn.val) (hrn : rn.val < 16) (h26 : c.u8 26 ≤ 1) (h27 : c.u8 27 = 0)
    (hw : s.windowOf rn = some win) (hf : s.tuneBad win (c.u32 28) = false) (hd : c.u16 32 = 0 ∨ (20 ≤ c.u16 32 ∧ c.u16 32 ≤ 500))
    (hrun : s.pwr.st = .run) (hpll : s.clk.lossInRun = false) (hlent : s.svc.run[rn].fm.lent = true) (hp : s.svc.run[rn].fm.probes ≠ []) :
    bodySvcProbe c s = if 16 ≤ s.svc.run[rn].fm.probes.length then .fail .full 0
      else .ok (s.modFm rn fun f => { f with probes := f.probes ++ [cmdProbe c] }) [byte s.svc.run[rn].fm.probes.length] none := by
  have h15 : ¬15 < c.u8 24 := by omega
  have h1 : ¬1 < c.u8 26 := by omega
  have hdwell : (decide (c.u16 32 ≠ 0) && !within 20 500 (c.u16 32)) = false := by
    obtain h0 | ⟨hlo, hhi⟩ := hd
    · simp [h0]
    · simp [within, hlo, hhi]
  have hfio : s.onFio = false := by simp [State.onFio, hrun, hpll]
  have hqueue : s.queueProbe rn (cmdProbe c) = s.modFm rn fun f => { f with probes := f.probes ++ [cmdProbe c] } := by
    simp only [State.queueProbe, List.isEmpty_eq_false_iff.mpr hp, Bool.false_eq_true, if_false]
  simp only [bodySvcProbe, ofNat_eq h24, hw, hf, checked, firstFail, h15, h1, h27, hdwell, hfio, hlent, hqueue, ne_eq, not_true_eq_false,
    decide_false, Bool.not_true, Bool.false_eq_true, if_false]
  by_cases h16 : 16 ≤ s.svc.run[rn].fm.probes.length <;> simp only [h16, decide_true, decide_false, Bool.false_eq_true, if_true, if_false]

end Probes

end Sys2Proof.Proofs
end

section
/-!
SUPPORT. The service commands as the statement about them has it: each clause from the answer of its body.
-/

namespace Sys2Proof.Proofs

open Sys2Proof Sys2Proof.Machine Sys2Proof.Laws

section Clauses

variable {s : State} {c : CmdEntry} {ctx : Fin 256} {rn : Fin 32}

/-- What the state holds after SVC_OPEN within every limit. -/
theorem svcOpen_opening {kind : Nat} (h : s.takes 0x0301 c = true) (h24 : c.u8 24 = ctx.val) (hctx : ctx.val ≠ 255) (h25 : c.u8 25 = kind)
    (h26 : c.u8 26 = rn.val) (hrange : firstFail (openSvcRange c) = none) (hpl : s.below 2 = false) (hst : s.svc.ctx[ctx].st = .free)
    (hh : s.noHandle rn (BitVec.ofNat 32 (c.u32 28)) = false) (hsh : ∀ k : Fin 256, s.svc.ctx[k].shadowOf = none)
    (hlim : s.overLimit rn kind (BitVec.ofNat 32 (c.u32 28)) = false) (hdec : kind = 0 → 24 ≤ rn.val → s.freeDecoder.isSome = true)
    (hfol : s.followed.length < 16) (hlent : s.svc.run[rn].fm.lent = false) (hroute : s.routeHeld kind (c.u8 27) = false) :
    ∃ u : State, exec (.svcOpen c) s = .next u ∧
      u.svc = (s.modCtx ctx fun x => { (s.openWith c) with st := .opening, gen := x.gen + 1, staged := x.staged, openSlot := some c.id }).svc ∧
      (s.openWith c).kind = BitVec.ofNat 4 kind ∧ (s.openWith c).runner = rn ∧ (s.openWith c).component = BitVec.ofNat 32 (c.u32 28) ∧
      (s.openWith c).route = byte (c.u8 27) ∧ (s.openWith c).follow = decide (c.u8 32 = 1) ∧ u.fan.follow[ctx] = {} ∧
      (∀ k : Fin 256, k ≠ ctx → u.fan.follow[k] = s.fan.follow[k]) ∧
      u = { s with svc := u.svc, fan := u.fan, host := u.host, evt := u.evt } := by
  subst h25
  obtain ⟨u, hexec, hu⟩ := exec_svcOpen_opens h h24 hctx h26 hrange hpl hst hh hsh hlim hdec hfol hlent hroute
  have hfan : u.fan.follow = upd s.fan.follow ctx fun _ => {} := congrArg FanBlk.follow (rest_fan_eq hu)
  refine ⟨u, hexec, (rest_svc_eq hu).trans rfl, rfl, ofNat_eq h26, rfl, rfl, rfl, ?_, fun k hk => ?_, ?_⟩
  · rw [hfan, upd_same]
  · rw [hfan, upd_other _ _ _ _ hk.symm]
  · rw [rest_svc_eq hu, rest_fan_eq hu]
    exact hu.eq

/-- What the state holds after SVC_CLOSE of an open data context. -/
theorem svcClose_closing (h : s.takes 0x0302 c = true) (hb : c.bytes 24 4 = [byte ctx.val, 0, 0, 0]) (hfree : s.svc.ctx[ctx].st ≠ .free)
    (hclosing : s.svc.ctx[ctx].st ≠ .closing) (hrn : s.svc.ctx[ctx].runner.val < 24) (hkind : s.svc.ctx[ctx].kind ≠ 0)
    (hfol : s.svc.ctx[ctx].follow = false) (hsh : s.svc.ctx[ctx].shadowOf = none) :
    ∃ u : State, exec (.svcClose c) s = .next u ∧
      u.svc = (s.modCtx ctx fun x => { x with st := .closing, closeSlot := x.closeSlot ++ [c.id], openSlot := none }).svc ∧
      u = { s with svc := u.svc, host := u.host, evt := u.evt } := by
  have hwait := bodySvcClose_open (s := s.taken 0x0302 c) hb hfree hclosing
  have hrest := rest_addCmd (rest_trans (rest_modCtx (taken_rest s 0x0302 c) ctx _)
    (rest_closeCtx (s := s.taken 0x0302 c) hclosing hrn hkind hfol hsh c.id)) 0x0302 .waiting c
  obtain ⟨u, hu⟩ : ∃ u, u = ((s.taken 0x0302 c).closeCtx ctx c.id).addCmd 0x0302 .waiting c := ⟨_, rfl⟩
  rw [← hu] at hrest
  refine ⟨u, hu ▸ congrArg Host.Outcome.next (runCmd_wait h hwait), rest_svc_eq hrest, ?_⟩
  rw [rest_svc_eq hrest]
  exact hrest.eq

/-- What the state holds once a context that closes is FREE. -/
theorem contextClosed_free (hst : s.svc.ctx[ctx].st = .closing) :
    ∃ u : State, exec (.contextClosed ctx) s = .next u ∧
      u.svc = (s.modCtx ctx fun x => { gen := x.gen, staged := x.staged.filter fun u => decide (u.written ≠ 0) }).svc ∧
      u.aud = { s.aud with poolFree := s.aud.poolFree + s.svc.ctx[ctx].delay.toNat } ∧
      u = { s with svc := u.svc, aud := u.aud, dma := u.dma, host := u.host, evt := u.evt } := by
  have hu := rest_ctxClosed hst
  refine ⟨s.ctxClosed ctx, rfl, (rest_svc_eq hu).trans ?_, (rest_aud_eq hu).trans ?_, ?_⟩
  · simp only [modCtx_svc, freeMot_svc, freeDelay_svc, upd_upd]
  · simp only [modCtx_aud, modCtx_svc, freeMot_aud, freeDelay_aud, upd_same]
  · rw [rest_svc_eq hu, rest_aud_eq hu, rest_dma_eq hu]
    exact hu.eq

theorem contextClosed_other (hst : s.svc.ctx[ctx].st ≠ .closing) : exec (.contextClosed ctx) s = .next s := by
  change Host.Outcome.next (s.ctxClosed ctx) = _
  simp only [State.ctxClosed, if_neg hst]

/-- A runner without contexts is lent while fewer than four are. -/
theorem svcProbeLend_lend (h : s.takes 0x0312 c = true) (hb : c.bytes 24 4 = [byte rn.val, 1, 0, 0]) (hrn : rn.val < 16)
    (hctx : s.ctxsOf rn = []) (hw : (s.windowOf rn).isSome = true) :
    exec (.svcProbeLend c) s = .next (if 4 ≤ s.lentCount then (s.taken 0x0312 c).finish 0x0312 c .nores 0 [] none
      else ((s.taken 0x0312 c).modFm rn fun f => { f with lent := true }).completesOk 0x0312 c [] none) := by
  have hbody := bodySvcProbeLend_lend (s := s.taken 0x0312 c) hb hrn hctx hw
  have hcount : (s.taken 0x0312 c).lentCount = s.lentCount := rfl
  rw [hcount] at hbody
  refine congrArg Host.Outcome.next ?_
  split at hbody
  · rw [if_pos ‹_›, runCmd_fail h hbody]
  · rw [if_neg ‹_›, runCmd_ok h hbody]

/-- A check joins the queue behind the ones that wait while fewer than 16 do. -/
theorem svcProbe_queued {win : Fin 64} (h : s.takes 0x0313 c = true) (h24 : c.u8 24 = rn.val) (hrn : rn.val < 16) (h26 : c.u8 26 ≤ 1)
    (h27 : c.u8 27 = 0) (hw : s.windowOf rn = some win) (hf : s.tuneBad win (c.u32 28) = false)
    (hd : c.u16 32 = 0 ∨ (20 ≤ c.u16 32 ∧ c.u16 32 ≤ 500)) (hrun : s.pwr.st = .run) (hpll : s.clk.lossInRun = false)
    (hlent : s.svc.run[rn].fm.lent = true) (hp : s.svc.run[rn].fm.probes ≠ []) :
    exec (.svcProbe c) s = .next (if 16 ≤ s.svc.run[rn].fm.probes.length then (s.taken 0x0313 c).finish 0x0313 c .full 0 [] none
      else ((s.taken 0x0313 c).modFm rn fun f => { f with probes := f.probes ++ [cmdProbe c] }).completesOk 0x0313 c
        [byte s.svc.run[rn].fm.probes.length] none) := by
  have hbody := bodySvcProbe_queued (s := s.taken 0x0313 c) h24 hrn h26 h27 hw hf hd hrun hpll hlent hp
  have hsvc : (s.taken 0x0313 c).svc = s.svc := rest_svc_eq (taken_rest s 0x0313 c)
  rw [hsvc] at hbody
  refine congrArg Host.Outcome.next ?_
  split at hbody
  · rw [if_pos ‹_›, runCmd_fail h hbody]
  · rw [if_neg ‹_›, runCmd_ok h hbody]

end Clauses

/-- Settles O40: each command by what its body answers on the state in which its steward finds it. -/
theorem serviceCommandsComplete : Obligations.ServiceCommandsComplete := by
  unfold Obligations.ServiceCommandsComplete
  refine ⟨fun _ _ _ _ _ => svcOpen_opening, fun _ _ _ => ctxOpened_waiting, ?_, ?_, ?_, fun _ _ _ => svcClose_closing, ?_, ?_,
    fun _ _ => contextClosed_free, fun _ _ => contextClosed_other, ?_, fun s rn n x hrn hn _ => quality_steady hrn hn, ?_, ?_, ?_, ?_,
    fun _ _ _ => svcProbeLend_lend, ?_, fun _ _ _ _ => svcProbe_queued, ?_⟩
  case refine_1 =>
    intro s c ctx rn h h24 hctx h26 hrange hpl hst
    exact congrArg Host.Outcome.next (runCmd_fail h (bodySvcOpen_used h24 hctx h26 hrange hpl hst))
  case refine_2 =>
    intro s c ctx rn kind h h24 hctx h25 h26 hrange hpl hst hh hsh hlim
    subst h25
    exact congrArg Host.Outcome.next (runCmd_fail h (bodySvcOpen_overLimit h24 hctx h26 hrange hpl hst hh hsh hlim))
  case refine_3 =>
    intro s c h h25 h26
    exact congrArg Host.Outcome.next (runCmd_fail h (bodySvcOpen_kind h25 h26))
  case refine_4 =>
    intro s c ctx h hb hst
    exact ⟨_, congrArg Host.Outcome.next (runCmd_wait h (bodySvcClose_closing (s := s.taken 0x0302 c) hb hst)), rfl, rfl⟩
  case refine_5 =>
    intro s c ctx h hb hst
    exact congrArg Host.Outcome.next (runCmd_fail h (bodySvcClose_free hb hst))
  case refine_6 =>
    intro s c rn h hb hw
    exact congrArg Host.Outcome.next (runCmd_ok h (bodySvcQuality_window (s := s.taken 0x0303 c) hb hw))
  case refine_7 =>
    intro s c rn h hb hw
    exact congrArg Host.Outcome.next (runCmd_fail h (bodySvcQuality_noWindow hb hw))
  case refine_8 =>
    intro s c rn l h h24 hrn hb hl hr h5 h8 h11
    exact congrArg Host.Outcome.next (runCmd_ok h (bodySvcFmCfg_pass (s := s.taken 0x0310 c) h24 hrn hb hl hr h5 h8 h11))
  case refine_9 =>
    intro s c h h24 h25
    exact congrArg Host.Outcome.next (runCmd_fail h (bodySvcFmCfg_range h24 h25))
  case refine_10 =>
    intro s c rn l h h24 hlo hhi hb hl hr h2 h5
    exact congrArg Host.Outcome.next (runCmd_ok h (bodySvcAmCfg_pass (s := s.taken 0x0311 c) h24 hlo hhi hb hl hr h2 h5))
  case refine_11 =>
    intro s c rn h hb hrn hlent hp
    exact congrArg Host.Outcome.next (runCmd_ok h (bodySvcProbeLend_reclaim (s := s.taken 0x0312 c) hb hrn hlent hp))
  case refine_12 =>
    intro s c rn h hb hrn hw
    exact ⟨congrArg Host.Outcome.next (runCmd_ok h (bodySvcRdsState_window (s := s.taken 0x0314 c) hb hrn hw)), image_length _ _ _⟩

end Sys2Proof.Proofs
end

section
/-!
SUPPORT. What the device writes to a ring it produces (R47): the entry, and after it the shadow index and the message alone. From it, what
raising an event and completing a command are while the device writes the ring and where it does not (R54, R58, R59, R70).
-/

namespace Sys2Proof.Proofs

open Sys2Proof Sys2Proof.Machine Sys2Proof.Laws

/-! ### The shadow index and the messages (R41, R68) -/

/-- A posted write that is no entry: the shadow index or a message. -/
def IsSignal (w : HostWrite) : Prop := (∃ (a : D) (v : W), w = .shadow a v) ∨ ∃ (a : D) (v : W), w = .msix a v

/-- `t` follows from `s` by shadow writes and messages alone, each sent or made pending. -/
structure Signals (s t : State) : Prop where
  eq : t = { s with host := { s.host with rings := t.host.rings, pba := t.host.pba, posted := t.host.posted } }
  posted : ∃ l, t.host.posted = l ++ s.host.posted ∧ ∀ w ∈ l, IsSignal w
  rings : ∀ n : Fin 32, t.host.rings[n] = { s.host.rings[n] with unsignalled := t.host.rings[n].unsignalled }

theorem Signals.refl (s : State) : Signals s s := ⟨rfl, ⟨[], rfl, by simp⟩, fun _ => rfl⟩

theorem Signals.trans {s t u : State} (h : Signals s t) (k : Signals t u) : Signals s u where
  eq := by
    have hu := k.eq
    rw [h.eq] at hu
    exact hu
  posted := by
    obtain ⟨l, hl, hls⟩ := h.posted
    obtain ⟨m, hm, hms⟩ := k.posted
    refine ⟨m ++ l, by rw [hm, hl, List.append_assoc], fun w hw => ?_⟩
    exact (List.mem_append.mp hw).elim (hms w) (hls w)
  rings := fun n => by rw [k.rings n, h.rings n]

theorem signals_post (s : State) {w : HostWrite} (h : IsSignal w) : Signals s (s.post w) :=
  ⟨rfl, ⟨[w], rfl, by simpa using h⟩, fun _ => rfl⟩

theorem signals_message (s : State) (v : Fin 16) : Signals s (s.message v) := by
  unfold State.message
  split
  · exact ⟨rfl, ⟨[], rfl, by simp⟩, fun _ => rfl⟩
  · exact signals_post s (.inr ⟨_, _, rfl⟩)

/-- Coalescing that starts afresh on one ring. -/
theorem signals_restart (s : State) (n : Fin 32) : Signals s (s.modRing n fun r => { r with unsignalled := 0 }) := by
  refine ⟨rfl, ⟨[], rfl, by simp⟩, fun k => ?_⟩
  by_cases hk : n = k
  · subst hk
    simp only [modRing_host, upd_same]
  · simp only [modRing_host, upd_other _ _ _ _ hk]

theorem signals_msgDue (s : State) (n : Fin 32) : Signals s (s.msgDue n) := by
  simp only [State.msgDue]
  split
  · split
    · exact signals_message s _
    · exact (signals_message s _).trans (signals_restart _ n)
  · exact Signals.refl s

theorem signals_shadow (s : State) (n : Fin 32) (v : Nat) : Signals s (s.shadow n v) := by
  unfold State.shadow
  split
  · exact signals_post s (.inl ⟨_, _, rfl⟩)
  · exact Signals.refl s

/-! ### One entry (R39, R40, R47) -/

/-- The state in which an entry of ring n stands written, before its shadow index and its message. -/
def entryPosted (s : State) (n : Fin 32) (mk : D → Bool → HostWrite) : State :=
  (s.post (mk (ringAddr s.host.rings[n] n.val s.host.rings[n].prod) s.host.rings[n].phase)).modRing n
    fun r => { r.advance with unsignalled := r.unsignalled + 1 }

section Entry

variable (s : State) (n : Fin 32) (mk : D → Bool → HostWrite)

theorem signals_writeEntry : Signals (entryPosted s n mk) (s.writeEntry n mk) := by
  have hshadow := signals_shadow (entryPosted s n mk) n (entryPosted s n mk).host.rings[n].prod
  simp only [State.writeEntry]
  split
  · exact hshadow.trans (signals_msgDue _ n)
  · exact hshadow

theorem writeEntry_evt : (s.writeEntry n mk).evt = s.evt := by
  rw [(signals_writeEntry s n mk).eq]
  rfl

theorem writeEntry_outstanding : (s.writeEntry n mk).host.outstanding = s.host.outstanding := by
  rw [(signals_writeEntry s n mk).eq]
  rfl

theorem writeEntry_held : (s.writeEntry n mk).host.held = s.host.held := by
  rw [(signals_writeEntry s n mk).eq]
  rfl

theorem writeEntry_posted : ∃ l, (s.writeEntry n mk).host.posted =
      l ++ mk (ringAddr s.host.rings[n] n.val s.host.rings[n].prod) s.host.rings[n].phase :: s.host.posted ∧ ∀ w ∈ l, IsSignal w :=
  (signals_writeEntry s n mk).posted

/-- The ring moves on by one entry, but for what it still has to signal. -/
theorem writeEntry_ring : (s.writeEntry n mk).host.rings[n] =
    { s.host.rings[n].advance with unsignalled := (s.writeEntry n mk).host.rings[n].unsignalled } := by
  have hring := (signals_writeEntry s n mk).rings n
  simpa only [entryPosted, modRing_host, post_host, upd_same] using hring

end Entry

@[simp] theorem advance_cons (r : Ring) : r.advance.cons = r.cons := by
  unfold Ring.advance
  split <;> rfl

/-! ### Events (R58, R59) -/

section Events

variable {s : State}

theorem payOwed_none (h : s.evt.owed = 0) : s.payOwed = s := if_neg fun k => k.1 h

theorem payOwed_noRoom (h : (s.ringUp 2 && decide (2 ≤ s.host.rings[2].free)) = false) : s.payOwed = s := by
  refine if_neg fun ⟨_, hup, hfree⟩ => ?_
  simp [hup, hfree] at h

theorem payOwed_due (howed : s.evt.owed ≠ 0) (hup : s.ringUp 2 = true) (hfree : 2 ≤ s.host.rings[2].free) : s.payOwed =
    ({ s with evt := { s.evt with owed := 0 } }).putEvent 4 0 (leBytes 4 (min s.evt.owed (2 ^ 32 - 1))) :=
  if_pos ⟨howed, hup, hfree⟩

theorem putEvent_eq (s : State) (src code : Nat) (data : List Byte) :
    s.putEvent src code data = s.useSeq.writeEntry 2 fun a p => .event a p (s.mkEvent src code data) := rfl

theorem putEvent_evt (s : State) (src code : Nat) (data : List Byte) :
    (s.putEvent src code data).evt = { s.evt with seq := s.evt.seq + 1 } := by
  rw [putEvent_eq, writeEntry_evt]
  rfl

theorem putEvent_outstanding (s : State) (src code : Nat) (data : List Byte) :
    (s.putEvent src code data).host.outstanding = s.host.outstanding := by
  rw [putEvent_eq, writeEntry_outstanding]
  rfl

theorem putEvent_posted (s : State) (src code : Nat) (data : List Byte) : ∃ l, (s.putEvent src code data).host.posted = l ++
      .event (ringAddr s.host.rings[2] 2 s.host.rings[2].prod) s.host.rings[2].phase (s.mkEvent src code data) :: s.host.posted ∧
    ∀ w ∈ l, IsSignal w :=
  writeEntry_posted s.useSeq 2 fun a p => .event a p (s.mkEvent src code data)

theorem putEvent_ring (s : State) (src code : Nat) (data : List Byte) : (s.putEvent src code data).host.rings[2] =
    { s.host.rings[2].advance with unsignalled := (s.putEvent src code data).host.rings[2].unsignalled } :=
  writeEntry_ring s.useSeq 2 fun a p => .event a p (s.mkEvent src code data)

/-- Paying what is owed leaves the masks alone. -/
theorem payOwed_mask (s : State) : s.payOwed.evt.mask = s.evt.mask := by
  unfold State.payOwed
  split
  · rw [putEvent_evt]
  · rfl

theorem srcMasked_payOwed (s : State) (src : Nat) : s.payOwed.srcMasked src = s.srcMasked src := by
  simp only [State.srcMasked, payOwed_mask]

variable {src : Nat} (code : Nat) (data : List Byte)

/-- A masked source uses up a SEQ, after the source 4 entry where one can be written. -/
theorem raise_masked (h : s.srcMasked src = true) : s.raise src code data = s.payOwed.useSeq := by
  simp only [State.raise, srcMasked_payOwed, h, if_true]

/-- While ring 2 is written an unmasked event is its next entry. -/
theorem raise_flows (h : s.eventsFlow = true) (hm : s.srcMasked src = false) : s.raise src code data = s.putEvent src code data := by
  simp only [State.eventsFlow, Bool.and_eq_true, decide_eq_true_eq] at h
  obtain ⟨⟨hup, hfree⟩, howed⟩ := h
  simp only [State.raise, payOwed_none howed, hm, Bool.false_eq_true, if_false]
  exact if_pos ⟨hup, hfree⟩

theorem raise_noRoom (hm : s.srcMasked src = false) (h : (s.ringUp 2 && decide (2 ≤ s.host.rings[2].free)) = false) :
    s.raise src code data = s.loseEvent := by
  simp only [State.raise, payOwed_noRoom h, hm, Bool.false_eq_true, if_false]
  refine if_neg fun ⟨hup, hfree⟩ => ?_
  simp [hup, hfree] at h

end Events

/-! ### Completions (R54, R70) -/

section Completions

variable {s : State} (op : Nat) (e : CmdEntry) (c : Completion)

theorem complete_writes (hup : s.hostUp = true)
    (hroom : (s.host.rings[1].en && decide (0 < s.host.rings[1].free) && s.host.held.isEmpty) = true) :
    s.complete op e c = s.writeEntry 1 fun a p => .completion a p c := by
  simp only [State.complete, hup, hroom, if_true]

theorem complete_holds (hup : s.hostUp = true)
    (hroom : (s.host.rings[1].en && decide (0 < s.host.rings[1].free) && s.host.held.isEmpty) = false) :
    s.complete op e c = { s with host := { s.host with
      held := s.host.held ++ [(e.id, c)]
      outstanding := s.host.outstanding ++ [{ opcode := BitVec.ofNat 16 op, phase := .completing, entry := e }] } } := by
  simp only [State.complete, hup, hroom, if_true, Bool.false_eq_true, if_false]

theorem complete_discards (hup : s.hostUp = false) : s.complete op e c = s := by
  simp only [State.complete, hup, Bool.false_eq_true, if_false]

end Completions

/-! ### The obligations -/

/-- Settles O10: an unmasked event is the next entry of ring 2 and what follows an entry. -/
theorem eventsAreDelivered : Obligations.EventsAreDelivered := by
  unfold Obligations.EventsAreDelivered
  intro s src code data hflow hmask
  have hrest : s.onlyReports (s.raise src code data) := (rest_raise (Rest.refl s) src code data).eq
  rw [raise_flows code data hflow hmask] at hrest ⊢
  exact ⟨hrest, putEvent_posted s src code data, putEvent_evt s src code data, by rw [putEvent_ring], putEvent_outstanding s src code data⟩

/-- Settles O11: a masked event is a SEQ used up. -/
theorem maskedEventsOnlyAdvanceSeq : Obligations.MaskedEventsOnlyAdvanceSeq := by
  unfold Obligations.MaskedEventsOnlyAdvanceSeq
  intro s src code data hmask
  have hraise := raise_masked code data hmask
  exact ⟨fun howed => by rw [hraise, payOwed_none howed]; rfl, hraise⟩

/-- Settles O13: a completion by whether ring entries are written, and by whether ring 1 has room for it. -/
theorem completionsAreNeverDropped : Obligations.CompletionsAreNeverDropped := by
  unfold Obligations.CompletionsAreNeverDropped
  refine ⟨fun s op e c hup hroom => ?_, fun s op e c => complete_holds op e c, fun s op e c => complete_discards op e c⟩
  have hheld : s.host.held = [] := by
    simp only [Bool.and_eq_true, List.isEmpty_iff] at hroom
    exact hroom.2
  have hrest : s.onlyReports (s.complete op e c) := (rest_complete (Rest.refl s) op e c).eq
  rw [complete_writes op e c hup hroom] at hrest ⊢
  exact ⟨hrest, writeEntry_evt .., (writeEntry_held ..).trans hheld, writeEntry_outstanding .., writeEntry_posted ..⟩

end Sys2Proof.Proofs
end

section
/-!
SUPPORT. The host's accesses while they reach the block at once (R37, R43 to R49, R70, R496): a doorbell by its ring and value, a write of
BAR0 by its register, and what the end of ring processing, of the link and of a unit begun leave unchanged.
-/

namespace Sys2Proof.Proofs

open Sys2Proof Sys2Proof.Machine Sys2Proof.Laws

/-! ### Accesses that arrive (R37, R496) -/

theorem ix_val {n : Nat} (i : Fin n) : ix n i.val = some i := dif_pos i.isLt

theorem ix_of_eq {n v : Nat} {i : Fin n} (h : v = i.val) : ix n v = some i := h ▸ ix_val i

theorem ix_none {n v : Nat} (h : n ≤ v) : ix n v = none := dif_neg (by omega)

theorem within_iff (lo hi v : Nat) : within lo hi v = true ↔ lo ≤ v ∧ v ≤ hi := by
  simp [within]

theorem awake_iff (s : State) : s.awake = true ↔
    s.host.dlUp = true ∧ s.saf.safe = false ∧ s.pwr.st = .run ∧ s.pwr.trans = none ∧ s.pwr.undone = none := by
  simp [State.awake, and_assoc]

section Access

variable {s : State}

/-- In RUN with no entry in progress a doorbell has nothing to wake and nothing to abandon. -/
theorem wakeUp_doorbell (hrun : s.pwr.st = .run) (htr : s.pwr.trans = none) : s.wakeUp 8 = s := by
  simp [State.wakeUp, hrun, State.abandonEntry, htr]

theorem doorbellWrite_awake (h : s.awake = true) (off size : Nat) (v : W) : s.doorbellWrite off size v = s.doorbell off size v := by
  obtain ⟨hup, -, hrun, htr, -⟩ := (awake_iff s).mp h
  simp only [State.doorbellWrite, hup, if_true, wakeUp_doorbell hrun htr]

theorem accessWrite_awake (h : s.awake = true) (off : Nat) (v : W) : s.accessWrite off v false = s.writeReg off v false := by
  obtain ⟨hup, hsafe, hrun, -, -⟩ := (awake_iff s).mp h
  simp [State.accessWrite, hup, hsafe, hrun]

/-- In IDLE and DOZE a host write waits. -/
theorem accessWrite_asleep (hup : s.host.dlUp = true) (hsafe : s.saf.safe = false) (hst : s.pwr.st = .idle ∨ s.pwr.st = .doze) (off : Nat)
    (v : W) : s.accessWrite off v false = { s with pwr := { s.pwr with heldWrites := s.pwr.heldWrites ++ [(BitVec.ofNat 16 off, v)] } } := by
  simp only [State.accessWrite, hsafe, hup, hst, Bool.false_eq_true, if_false, if_true]

/-- In SAFE the registers but SAF.FLAG and SAF.RESET take no write. -/
theorem accessWrite_safe (hsafe : s.saf.safe = true) {off : Nat} (hflag : off ≠ 0x3808) (hreset : off ≠ 0x3818) (v : W) (m : Bool) :
    s.accessWrite off v m = s := by
  simp [State.accessWrite, hsafe, hflag, hreset]

/-- With the link down no host write arrives. -/
theorem accessWrite_linkDown (hup : s.host.dlUp = false) (off : Nat) (v : W) : s.accessWrite off v false = s := by
  simp [State.accessWrite, hup]

end Access

/-! ### Doorbells (R43 to R45) -/

section Doorbells

variable {s : State} {off size : Nat} {n : Fin 32} {v : W}

theorem doorbell_reserved (h : 128 ≤ off) : s.doorbell off size v = s.doorbellBad (off / 4) v := by
  simp only [State.doorbell, ix_none (show 32 ≤ off / 4 by omega)]

theorem doorbell_ignored (hoff : off / 4 = n.val)
    (h : size ≠ 4 ∨ off % 4 ≠ 0 ∨ s.host.rings[n].en = false ∨ s.host.rings[n].size ≤ v.toNat) :
    s.doorbell off size v = s.doorbellBad n.val v := by
  simp only [State.doorbell, ix_of_eq hoff, if_pos h]

/-- An access of the right size to an enabled ring, with an index of the ring. -/
theorem doorbell_index (n : Fin 32) (hen : s.host.rings[n].en = true) (hv : v.toNat < s.host.rings[n].size) :
    s.doorbell (4 * n.val) 4 v =
      if n = 0 ∨ n = 3 then s.modRing n fun r => r.newProd v
      else if s.host.rings[n].inWindow v.toNat then s.returnSlots n v else s.doorbellBad n.val v := by
  have hlegal : ¬(4 ≠ 4 ∨ 4 * n.val % 4 ≠ 0 ∨ s.host.rings[n].en = false ∨ s.host.rings[n].size ≤ v.toNat) := by
    rintro (h | h | h | h)
    · exact h rfl
    · omega
    · simp only [hen, Bool.true_eq_false] at h
    · omega
  simp only [State.doorbell, ix_of_eq (show 4 * n.val / 4 = n.val by omega), if_neg hlegal]

theorem doorbell_consumer (hn : n ≠ 0 ∧ n ≠ 3) (hen : s.host.rings[n].en = true) (hv : v.toNat < s.host.rings[n].size)
    (hin : (v.toNat + s.host.rings[n].size - s.host.rings[n].cons) % s.host.rings[n].size ≤ s.host.rings[n].used) :
    s.doorbell (4 * n.val) 4 v = s.returnSlots n v := by
  rw [doorbell_index n hen hv, if_neg (by tauto), Ring.inWindow, if_pos (decide_eq_true hin)]

theorem exec_doorbellProducer (s : State) (off : BitVec 12) (size : Nat) (v : W) :
    exec (.doorbellProducer off size v) s = .next (s.doorbellWrite off.toNat size v) := rfl

theorem exec_doorbellConsumer (s : State) (off : BitVec 12) (size : Nat) (v : W) :
    exec (.doorbellConsumer off size v) s = .next (s.doorbellWrite off.toNat size v) := rfl

/-- The doorbell of ring n. -/
theorem doorbellOff_toNat (n : Fin 32) : (BitVec.ofNat 12 (4 * n.val)).toNat = 4 * n.val := by
  rw [BitVec.toNat_ofNat]
  omega

end Doorbells

theorem drainHeld_none {s : State} (h : s.host.held = []) : s.drainHeld = s := by
  simp only [State.drainHeld, h, List.length_nil, List.replicate_zero, List.foldl_nil]

/-- Settles O15: a doorbell write that arrives, by its ring, its size and its value. -/
theorem doorbellsMoveIndices : Obligations.DoorbellsMoveIndices := by
  unfold Obligations.DoorbellsMoveIndices
  refine ⟨?_, ?_, fun s => drainHeld_none, ?_, ?_, ?_, fun s off size v => rfl, ?_⟩
  case refine_1 =>
    intro s n v hn hawake hen hv
    refine ⟨?_, ?_⟩
    · rw [exec_doorbellProducer, doorbellWrite_awake hawake, doorbellOff_toNat, doorbell_index n hen hv, if_pos hn]
      rfl
    · simp only [State.readDoorbell, ix_of_eq (show 4 * n.val / 4 = n.val by omega), modRing_host, upd_same]
  case refine_2 =>
    intro s u n v hn hawake hen hv hin hu
    rw [exec_doorbellConsumer, doorbellWrite_awake hawake, doorbellOff_toNat, doorbell_consumer hn hen hv hin, hu]
    rfl
  case refine_3 =>
    intro s off n size v hawake hoff hbad
    rw [exec_doorbellProducer, doorbellWrite_awake hawake, doorbell_ignored hoff hbad]
    rfl
  case refine_4 =>
    intro s off size v hawake hoff
    rw [exec_doorbellProducer, doorbellWrite_awake hawake, doorbell_reserved hoff]
    rfl
  case refine_5 =>
    intro s n v hn hawake hen hv hout
    have hwindow : ¬s.host.rings[n].inWindow v.toNat = true := by
      simpa [Ring.inWindow] using hout
    rw [exec_doorbellConsumer, doorbellWrite_awake hawake, doorbellOff_toNat, doorbell_index n hen hv, if_neg (by tauto), if_neg hwindow]
    rfl
  case refine_6 =>
    intro s off size v hup
    simp [exec_doorbellProducer, State.doorbellWrite, hup]

/-! ### Slots that return to ring 2 (R59) -/

/-- A consumer doorbell before what waited for room is written. -/
def slotsReturned (s : State) (n : Fin 32) (v : W) : State :=
  { s.modRing n (fun r => r.newCons v) with
    host := { (s.modRing n fun r => r.newCons v).host with fullReported := s.host.fullReported &&& ~~~(BitVec.ofNat 32 (2 ^ n.val)) } }

theorem slotsReturned_ring (s : State) (n : Fin 32) (v : W) : (slotsReturned s n v).host.rings[n] = s.host.rings[n].newCons v :=
  upd_same ..

/-- Ring 2 has room again: the doorbell has the owed source 4 entry written. -/
theorem returnSlots_owed {s : State} {v : W} (hup : s.ringUp 2 = true) (hfree : 2 ≤ (s.host.rings[2].newCons v).free)
    (howed : s.evt.owed ≠ 0) : s.returnSlots 2 v = State.putEvent { slotsReturned s 2 v with evt := { s.evt with owed := 0 } } 4 0
      (leBytes 4 (min s.evt.owed (2 ^ 32 - 1))) := by
  have hring : (slotsReturned s 2 v).host.rings[2] = s.host.rings[2].newCons v := slotsReturned_ring s 2 v
  have hup' : (slotsReturned s 2 v).ringUp 2 = true := (congrArg (fun r => s.hostUp && Ring.en r) hring).trans hup
  exact payOwed_due howed hup' (hring ▸ hfree)

/-- Settles O12: without room an event is counted, and the doorbell that returns slots pays what is owed first. -/
theorem eventsWithoutRoomAreLost : Obligations.EventsWithoutRoomAreLost := by
  unfold Obligations.EventsWithoutRoomAreLost
  refine ⟨fun s src code data hmask hroom => raise_noRoom code data hmask hroom, ?_⟩
  intro s v r hawake hup hv hin hr hfree howed
  subst hr
  have hen : s.host.rings[(2 : Fin 32)].en = true := by
    simp only [State.ringUp, Bool.and_eq_true] at hup
    exact hup.2
  have hexec : exec (.doorbellConsumer 8 4 v) s = .next (s.returnSlots 2 v) := by
    rw [exec_doorbellConsumer, doorbellWrite_awake hawake]
    exact congrArg Host.Outcome.next (doorbell_consumer (n := 2) (by decide) hen hv hin)
  rw [returnSlots_owed hup hfree howed] at hexec
  have hring : (slotsReturned s 2 v).host.rings[2] = s.host.rings[2].newCons v := slotsReturned_ring s 2 v
  obtain ⟨u, hu⟩ : ∃ u, u = ({ slotsReturned s 2 v with evt := { s.evt with owed := 0 } } : State) := ⟨_, rfl⟩
  have hring' : u.host.rings[2] = s.host.rings[2].newCons v := hu ▸ hring
  rw [← hu] at hexec
  obtain ⟨l, hl, hsig⟩ := putEvent_posted u 4 0 (leBytes 4 (min s.evt.owed (2 ^ 32 - 1)))
  refine ⟨_, l, hexec, ?_, ?_, hsig, ?_⟩
  · rw [putEvent_evt, hu]
  · rw [hl, hring', hu]
    rfl
  · rw [putEvent_ring, hring']
    exact advance_cons _

end Sys2Proof.Proofs
end

section
/-!
SUPPORT. HOST and EVT registers by offset (R48, R49, R501), ring processing and its end (R70), the loss of the link (R71, R484), and the
messages of the vectors (R68).
-/

namespace Sys2Proof.Proofs

open Sys2Proof Sys2Proof.Machine Sys2Proof.Laws

/-! ### Writes of the HOST block (R48, R49) -/

section HostRegisters

variable {s : State} {v : W}

theorem writeReg_host {off : Nat} (hlo : 0x400 ≤ off) (hhi : off < 0x800) (m : Bool) : s.writeReg off v m = s.writeHost off v := by
  rw [State.writeReg, if_neg (by omega), if_neg (by omega), if_pos hhi]

/-- The registers of ring n by their place among its 16 bytes. -/
theorem writeHost_ring {off : Nat} {n : Fin 32} (hlo : 0x500 ≤ off) (hn : (off - 0x500) / 16 = n.val) :
    ((off - 0x500) % 16 = 0 → s.writeHost off v =
      if s.host.rings[n].en then s else s.modRing n fun r => { r with baseLo := v &&& 0xFFFFF000 }) ∧
    ((off - 0x500) % 16 = 4 → s.writeHost off v = if s.host.rings[n].en then s else s.modRing n fun r => { r with baseHi := v }) ∧
    ((off - 0x500) % 16 = 8 → s.writeHost off v = s.writeRingCfg n v) := by
  have hpbuf : ¬within 0x420 0x4DF off = true := by
    rw [within_iff]
    omega
  have hring : within 0x500 0x6FF off = true := by
    rw [within_iff]
    omega
  simp only [State.writeHost, if_neg (show off ≠ 0x404 by omega), if_neg (show off ≠ 0x410 by omega), if_neg (show off ≠ 0x414 by omega),
    if_neg hpbuf, if_pos hring, ix_of_eq hn]
  exact ⟨fun h => by simp only [h], fun h => by simp only [h], fun h => by simp only [h]⟩

/-- The payload buffer of data ring n. -/
theorem writeHost_pbuf {off : Nat} {n : Fin 32} (hlo : 0x420 ≤ off) (hn : 8 + (off - 0x420) / 8 = n.val) :
    ((off - 0x420) % 8 = 0 → s.writeHost off v =
      if s.host.rings[n].en then s else s.modRing n fun r => { r with pbufLo := v &&& 0xFFFFF000 }) ∧
    ((off - 0x420) % 8 ≠ 0 → s.writeHost off v = if s.host.rings[n].en then s else s.modRing n fun r => { r with pbufHi := v }) := by
  have hpbuf : within 0x420 0x4DF off = true := by
    rw [within_iff]
    omega
  simp only [State.writeHost, if_neg (show off ≠ 0x404 by omega), if_neg (show off ≠ 0x410 by omega), if_neg (show off ≠ 0x414 by omega),
    if_pos hpbuf, ix_of_eq hn]
  exact ⟨fun h => by rw [if_pos h], fun h => by rw [if_neg h]⟩

end HostRegisters

/-! ### REG_WRITE (R491 to R493, R496) -/

section RegWrite

variable {s : State} {off : BitVec 16} {v : D}

theorem exec_regWrite_word (hoff : off.toNat % 4 = 0) (m : Bool) :
    exec (.regWrite off 4 v m) s = .next (s.regWrite32 off.toNat (v.setWidth 32) m) :=
  congrArg Host.Outcome.next (if_pos ⟨rfl, hoff⟩)

/-- A write that forces no fault is one of its register. -/
theorem regWrite32_plain {o : Nat} {m : Bool} (h : o ≠ 0x3814 ∨ (s.writable = false ∧ (m = false ∨ s.saf.safe = true))) (w : W) :
    s.regWrite32 o w m = s.accessWrite o w m := by
  refine if_neg ?_
  rintro ⟨ho, hw⟩
  obtain hne | ⟨hwr, hm⟩ := h
  · exact hne ho
  · obtain hw | ⟨hmir, hsafe⟩ := hw
    · simp [hwr] at hw
    · obtain hm | hm := hm
      · simp [hmir] at hm
      · simp [hsafe] at hm

theorem exec_regWrite_awake (h : s.awake = true) (hoff : off.toNat % 4 = 0) (hinj : off.toNat ≠ 0x3814) :
    exec (.regWrite off 4 v false) s = .next (s.writeReg off.toNat (v.setWidth 32) false) := by
  rw [exec_regWrite_word hoff, regWrite32_plain (.inl hinj), accessWrite_awake h]

/-- A word of the HOST block. -/
theorem exec_regWrite_host {k : Nat} (h : s.awake = true) (hlo : 0x400 ≤ k) (hhi : k < 0x800) (h4 : k % 4 = 0) :
    exec (.regWrite (BitVec.ofNat 16 k) 4 v false) s = .next (s.writeHost k (v.setWidth 32)) := by
  have hk : (BitVec.ofNat 16 k).toNat = k := by
    rw [BitVec.toNat_ofNat]
    omega
  rw [exec_regWrite_awake h (by omega) (by omega), writeReg_host (by omega) (by omega), hk]

/-- A host write by a device that takes none at once. -/
theorem exec_regWrite_notWritable (h : s.writable = false) (hoff : off.toNat % 4 = 0) :
    exec (.regWrite off 4 v false) s = .next (s.accessWrite off.toNat (v.setWidth 32) false) := by
  rw [exec_regWrite_word hoff, regWrite32_plain (.inr ⟨h, .inl rfl⟩)]

theorem exec_regWrite_bad {size : Nat} {m : Bool} (h4 : size ≠ 4 ∨ off.toNat % 4 ≠ 0) (h8 : size ≠ 8 ∨ off.toNat % 8 ≠ 0)
    (hm : m = true ∨ s.host.dlUp = true) : exec (.regWrite off size v m) s = .next (s.setFlag slotSys 0) := by
  have hbad : s.badAccess m = s.setFlag slotSys 0 := if_pos (by simpa using hm)
  rw [← hbad]
  exact congrArg Host.Outcome.next ((if_neg (by tauto)).trans (if_neg (by tauto)))

end RegWrite

/-- Settles O21: a write by its size, by what the device takes now, and by its register. -/
theorem registerWritesFollowTheirAccess : Obligations.RegisterWritesFollowTheirAccess := by
  unfold Obligations.RegisterWritesFollowTheirAccess
  refine ⟨?_, ?_, ?_, ?_, ?_, ?_, ?_, ?_, ?_, ?_, ?_⟩
  case refine_1 =>
    intro s off v m hoff
    exact congrArg Host.Outcome.next ((if_neg (by simp)).trans (if_pos ⟨rfl, hoff⟩))
  case refine_2 =>
    intro s off size v m h4 h8 hm
    rw [exec_regWrite_bad h4 h8 hm]
    rfl
  case refine_3 =>
    intro s v hawake
    rw [exec_regWrite_awake hawake (by decide) (by decide), exec_regWrite_awake hawake (by decide) (by decide)]
    exact ⟨rfl, rfl⟩
  case refine_4 =>
    intro s n v hawake
    rw [exec_regWrite_host hawake (by omega) (by omega) (by omega), exec_regWrite_host hawake (by omega) (by omega) (by omega)]
    exact ⟨congrArg Host.Outcome.next ((writeHost_ring (n := n) (by omega) (by omega)).1 (by omega)),
      congrArg Host.Outcome.next ((writeHost_ring (n := n) (by omega) (by omega)).2.1 (by omega))⟩
  case refine_5 =>
    intro s n v hawake hn
    rw [exec_regWrite_host hawake (by omega) (by omega) (by omega), exec_regWrite_host hawake (by omega) (by omega) (by omega)]
    exact ⟨congrArg Host.Outcome.next ((writeHost_pbuf (n := n) (by omega) (by omega)).1 (by omega)),
      congrArg Host.Outcome.next ((writeHost_pbuf (n := n) (by omega) (by omega)).2 (by omega))⟩
  case refine_6 =>
    intro s v hawake
    rw [exec_regWrite_awake hawake (by decide) (by decide)]
    rfl
  case refine_7 =>
    intro s off v hawake hoff
    obtain rfl | rfl | rfl | rfl | rfl | rfl | rfl | rfl | rfl := hoff <;>
      exact exec_regWrite_awake hawake (by decide) (by decide)
  case refine_8 =>
    intro s v hsafe
    have hmirror : s.accessWrite 0x1008 (v.setWidth 32) true = s.writeReg 0x1008 (v.setWidth 32) true := by
      simp [State.accessWrite, hsafe]
    have hmode : fld (v.setWidth 32) 0 3 = v.toNat % 8 := by
      simp only [fld, BitVec.toNat_setWidth]
      omega
    have harmed : (v.setWidth 32).getLsbD 3 = v.getLsbD 3 := by simp
    rw [exec_regWrite_word (by decide), regWrite32_plain (.inl (by decide))]
    refine (congrArg Host.Outcome.next hmirror).trans ?_
    rw [← hmode, ← harmed]
    rfl
  case refine_9 =>
    intro s off v hup hsafe hst hoff
    have hwr : s.writable = false := by
      obtain hst | hst := hst <;> simp [State.writable, hst]
    rw [exec_regWrite_notWritable hwr hoff, accessWrite_asleep hup hsafe hst, BitVec.ofNat_toNat, BitVec.setWidth_eq]
  case refine_10 =>
    intro s off v m hsafe hflag hreset hoff
    have hne {k : BitVec 16} (h : off ≠ k) : off.toNat ≠ k.toNat := fun e => h (BitVec.eq_of_toNat_eq e)
    rw [exec_regWrite_word hoff, regWrite32_plain (.inr ⟨by simp [State.writable, hsafe], .inr hsafe⟩),
      accessWrite_safe hsafe (hne hflag) (hne hreset)]
  case refine_11 =>
    intro s off v hup hoff
    rw [exec_regWrite_notWritable (by simp [State.writable, hup]) hoff, accessWrite_linkDown hup]

/-! ### Ring settings (R38, R49, R63) -/

theorem ringOpens_closed {s : State} {n : Fin 32} (h : s.ringUp n = false) : s.ringOpens n = s := by
  simp only [State.ringOpens, h, Bool.false_eq_true, if_false]

section Settings

variable (r : Ring) (n : Nat) (v : W)

theorem valid_bad (b : Bool) : Ring.valid { r with bad := b } n = r.valid n := rfl

theorem writeCfg_accepted (hen : v.getLsbD 0 = true) (hvalid : (r.setSizes n v).valid n = true) : r.writeCfg n v =
    { r.setSizes n v with en := true, bad := false, prod := 0, cons := 0, phase := true, unsignalled := 0, pbufNext := 0, pbufHeld := [] } := by
  simp only [Ring.writeCfg, hen, valid_bad, hvalid, if_true, Ring.enabled]

theorem writeCfg_refused (hen : v.getLsbD 0 = true) (hvalid : (r.setSizes n v).valid n = false) :
    r.writeCfg n v = { r.setSizes n v with en := false, bad := true } := by
  simp only [Ring.writeCfg, hen, valid_bad, hvalid, if_true, Bool.false_eq_true, if_false]

theorem writeCfg_disabled (hen : v.getLsbD 0 = false) : r.writeCfg n v = { r.setSizes n v with en := false, bad := false } := by
  simp only [Ring.writeCfg, hen, Bool.false_eq_true, if_false]

theorem valid_reserved {n : Nat} (hlo : 5 ≤ n) (hhi : n ≤ 7) : r.valid n = false := by
  have hin : within 5 7 n = true := (within_iff ..).mpr ⟨hlo, hhi⟩
  simp [Ring.valid, hin]

theorem sizeOk_iff (n l : Nat) : sizeOk n l = true ↔ 4 ≤ l ∧ l ≤ if n = 3 ∨ n = 4 then 8 else 12 := by
  unfold sizeOk
  split <;> exact within_iff ..

/-- The settings of a ring outside 5 to 7. -/
theorem valid_iff {n : Nat} (hn : n < 5 ∨ 8 ≤ n) : r.valid n = true ↔
    sizeOk n r.log2size.toNat = true ∧ r.base < 0x800000000 ∧ r.base % 4096 = 0 ∧ (n < 8 ∨ within 16 24 r.plog2.toNat = true) := by
  have hout : within 5 7 n = false := by
    rw [Bool.eq_false_iff, ne_eq, within_iff]
    omega
  have hlo : Config.hostLo = 0x800000000 := rfl
  simp [Ring.valid, hout, hlo, and_assoc]

end Settings

/-- Settles O16: what a write of HOST.RING_CFG does, and the settings that it accepts. -/
theorem ringSettingsAreChecked : Obligations.RingSettingsAreChecked := by
  unfold Obligations.RingSettingsAreChecked
  refine ⟨?_, writeCfg_accepted, writeCfg_refused, writeCfg_disabled, fun r n v => rfl, fun r n => valid_reserved r, ?_, ?_,
    fun s n => ringOpens_closed⟩
  case refine_1 =>
    intro s n v hawake
    have hcfg : s.accessWrite (0x508 + 16 * n.val) v false = s.writeRingCfg n v := by
      rw [accessWrite_awake hawake, writeReg_host (by omega) (by omega)]
      exact (writeHost_ring (by omega) (by omega)).2.2 (by omega)
    exact congrArg Host.Outcome.next hcfg
  case refine_2 =>
    intro r n hn
    rw [valid_iff r (.inl hn), sizeOk_iff, and_assoc]
    simp only [show n < 8 by omega, true_or, and_true]
  case refine_3 =>
    intro r n hn
    rw [valid_iff r (.inr hn), sizeOk_iff, and_assoc, if_neg (by omega), within_iff]
    simp only [show ¬n < 8 by omega, false_or]

/-! ### The end of ring processing (R70) -/

section Cut

variable {s : State} {c : Fin 256} {u : Unit1} {us : List Unit1}

theorem cutPartial_none (h : s.svc.ctx[c].staged = []) : s.cutPartial c = s := by
  simp only [State.cutPartial, h]

theorem cutPartial_unwritten (h : s.svc.ctx[c].staged = u :: us) (hw : u.written = 0) : s.cutPartial c = s := by
  simp only [State.cutPartial, h, hw, if_true]

/-- A unit begun leaves staging; a MOT object's buffer is freed with it. -/
theorem cutPartial_begun (h : s.svc.ctx[c].staged = u :: us) (hw : u.written ≠ 0) : s.cutPartial c =
    (if u.mot.isSome then
      (s.modCtx c fun x => ({ x with staged := us, dropped := x.dropped + 1 } : Ctx).markNext (u.lost + 1)).gpFree (.motOut c u.seq)
    else s.modCtx c fun x => ({ x with staged := us, dropped := x.dropped + 1 } : Ctx).markNext (u.lost + 1)).linkDrop (476 + c.val) 1 := by
  simp only [State.cutPartial, h, hw, if_false]

/-- Outside the services, the areas of general-use SRAM and the counters nothing differs. -/
def CutsOnly (s t : State) : Prop := t = { s with svc := t.svc, dma := t.dma, tlm := t.tlm }

theorem cutsOnly_cutPartial (s : State) (c : Fin 256) : CutsOnly s (s.cutPartial c) := by
  cases h : s.svc.ctx[c].staged with
  | nil => rw [cutPartial_none h]; rfl
  | cons u us =>
    by_cases hw : u.written = 0
    · rw [cutPartial_unwritten h hw]; rfl
    · rw [cutPartial_begun h hw]
      split <;> rfl

theorem CutsOnly.trans {s t u : State} (h : CutsOnly s t) (k : CutsOnly t u) : CutsOnly s u := by
  unfold CutsOnly at h k ⊢
  rw [h] at k
  exact k

theorem cutsOnly_foldl (l : List (Fin 256)) (s : State) : CutsOnly s (l.foldl State.cutPartial s) := by
  induction l generalizing s with
  | nil => rfl
  | cons c l ih => exact (cutsOnly_cutPartial s c).trans (ih (s.cutPartial c))

theorem foldl_cutPartial_none (h : ∀ c : Fin 256, s.svc.ctx[c].staged = []) : (List.finRange 256).foldl State.cutPartial s = s :=
  List.foldl_fixed' (fun c => cutPartial_none (h c)) _

end Cut

/-- RING_EN cleared, with what was held for ring 1 and ring 4; units begun are still staged. -/
def ringEnCleared (s : State) : State :=
  { s with host := { s.host with
    ringEn := false, held := [], hciHeld := [], outstanding := s.host.outstanding.filter fun o => decide (o.phase ≠ CmdPhase.completing) } }

section RingEn

variable {s : State}

theorem ringEnOff_on (h : s.host.ringEn = true) : s.ringEnOff = (List.finRange 256).foldl State.cutPartial (ringEnCleared s) := if_pos h

theorem ringEnOff_off (h : s.host.ringEn = false) : s.ringEnOff = s := if_neg (by simp [h])

theorem ringEnOn_on (h : s.host.ringEn = true) : s.ringEnOn = s := if_pos h

theorem ringEnOn_off (h : s.host.ringEn = false) : s.ringEnOn =
    (List.finRange 32).foldl State.ringOpens { s with host := { s.host with ringEn := true, quiesced := false } } := if_neg (by simp [h])

theorem hostCtl_ringEn (s : State) (en : Bool) : (s.hostCtl en).getLsbD 0 = en := by
  unfold State.hostCtl
  generalize s.host.shadowEn = b
  revert b en
  decide

theorem hostCtl_shadowEn (s : State) (en : Bool) : (s.hostCtl en).getLsbD 1 = s.host.shadowEn := by
  unfold State.hostCtl
  generalize s.host.shadowEn = b
  revert b en
  decide

/-- The write of HOST.CTL that changes RING_EN alone. -/
theorem writeReg_hostCtl (s : State) (en : Bool) : s.writeReg 0x404 (s.hostCtl en) false =
    { if en then s.ringEnOn else s.ringEnOff with
      host := { (if en then s.ringEnOn else s.ringEnOff).host with shadowEn := s.host.shadowEn } } := by
  rw [writeReg_host (by decide) (by decide), State.writeHost, if_pos rfl, hostCtl_ringEn, hostCtl_shadowEn]

theorem exec_ringEnClear_awake (h : s.awake = true) :
    exec .ringEnClear s = .next { s.ringEnOff with host := { s.ringEnOff.host with shadowEn := s.host.shadowEn } } :=
  congrArg Host.Outcome.next ((accessWrite_awake h _ _).trans (writeReg_hostCtl s false))

theorem exec_ringEnSet_awake (h : s.awake = true) :
    exec .ringEnSet s = .next { s.ringEnOn with host := { s.ringEnOn.host with shadowEn := s.host.shadowEn } } :=
  congrArg Host.Outcome.next ((accessWrite_awake h _ _).trans (writeReg_hostCtl s true))

end RingEn

/-- Settles O17: RING_EN by the access that writes it and the value that it has. -/
theorem ringProcessingStopsAndResumes : Obligations.RingProcessingStopsAndResumes := by
  unfold Obligations.RingProcessingStopsAndResumes
  refine ⟨?_, ?_, ?_, ?_, ?_, ?_, fun s c u us => cutPartial_unwritten, ?_, ?_, ?_, ?_, ?_⟩
  case refine_1 =>
    intro s hawake hen
    have hexec := exec_ringEnClear_awake hawake
    rw [ringEnOff_on hen, ringEnCleared] at hexec
    exact ⟨_, rfl, hexec⟩
  case refine_2 =>
    intro s hawake hen hstaged
    rw [exec_ringEnClear_awake hawake, ringEnOff_on hen, foldl_cutPartial_none (s := ringEnCleared s) hstaged]
    rfl
  case refine_3 =>
    intro s c u us h hw hmot
    rw [cutPartial_begun h hw, if_neg (by simp [hmot])]
  case refine_4 =>
    intro s c u us h hw hmot
    rw [cutPartial_begun h hw, if_pos (Option.isSome_iff_ne_none.mpr hmot)]
  case refine_5 =>
    intro x n h
    simp only [Ctx.markNext, h]
  case refine_6 =>
    intro x n v l h
    simp only [Ctx.markNext, h]
  case refine_7 =>
    intro s hawake hen
    exact ⟨_, rfl, by rw [exec_ringEnSet_awake hawake, ringEnOn_off hen]⟩
  case refine_8 =>
    intro s hawake hen hrings
    have hopens : (List.finRange 32).foldl State.ringOpens { s with host := { s.host with ringEn := true, quiesced := false } } =
        { s with host := { s.host with ringEn := true, quiesced := false } } :=
      List.foldl_fixed' (fun n => ringOpens_closed (by simp only [State.ringUp, hrings n, Bool.and_false])) _
    rw [exec_ringEnSet_awake hawake, ringEnOn_off hen, hopens]
  case refine_9 =>
    intro s hawake
    exact ⟨fun hen => by rw [exec_ringEnClear_awake hawake, ringEnOff_off hen],
      fun hen => by rw [exec_ringEnSet_awake hawake, ringEnOn_on hen]⟩
  case refine_10 =>
    intro s hup hsafe hst
    exact ⟨⟨_, congrArg Host.Outcome.next (accessWrite_asleep hup hsafe hst _ _)⟩,
      ⟨_, congrArg Host.Outcome.next (accessWrite_asleep hup hsafe hst _ _)⟩⟩
  case refine_11 =>
    intro s h
    have hignored (v : W) : s.accessWrite 0x404 v false = s :=
      h.elim (fun hsafe => accessWrite_safe hsafe (by decide) (by decide) v false) fun hup => accessWrite_linkDown hup _ v
    exact ⟨congrArg Host.Outcome.next (hignored _), congrArg Host.Outcome.next (hignored _)⟩

/-! ### The link (R71, R482, R484) -/

section Link

variable {s : State}

/-- What ringEnOff does to the host block. -/
theorem ringEnOff_host (s : State) : s.ringEnOff.host = if s.host.ringEn then (ringEnCleared s).host else s.host := by
  cases hen : s.host.ringEn with
  | true => rw [ringEnOff_on hen, cutsOnly_foldl]; rfl
  | false => rw [ringEnOff_off hen]; rfl

theorem ringEnOff_frame (s : State) : s.ringEnOff =
    { s with host := s.ringEnOff.host, svc := s.ringEnOff.svc, dma := s.ringEnOff.dma, tlm := s.ringEnOff.tlm } := by
  cases hen : s.host.ringEn with
  | true =>
    have hcut := cutsOnly_foldl (List.finRange 256) (ringEnCleared s)
    rw [ringEnOff_on hen]
    generalize (List.finRange 256).foldl State.cutPartial (ringEnCleared s) = t at hcut ⊢
    rw [hcut]
    rfl
  | false => rw [ringEnOff_off hen]

theorem linkLost_frame (s : State) : s.linkLost =
    { s with host := s.linkLost.host, svc := s.linkLost.svc, dma := s.linkLost.dma, tlm := s.linkLost.tlm } := by
  unfold State.linkLost
  have hoff := ringEnOff_frame s
  generalize s.ringEnOff = t at hoff ⊢
  rw [hoff]

theorem linkLost_ringEn (s : State) : s.linkLost.host.ringEn = false := by
  change s.ringEnOff.host.ringEn = false
  rw [ringEnOff_host]
  split
  · rfl
  · exact Bool.eq_false_iff.mpr (by assumption)

theorem linkLost_ring (s : State) (n : Fin 32) : s.linkLost.host.rings[n] = { s.host.rings[n] with en := false } := by
  have hrings : s.ringEnOff.host.rings = s.host.rings := by
    rw [ringEnOff_host]
    split <;> rfl
  change (s.ringEnOff.host.rings.map fun r => { r with en := false })[n] = _
  rw [hrings]
  simp

theorem linkLost_outstanding (s : State) : s.linkLost.host.outstanding =
    if s.host.ringEn then s.host.outstanding.filter fun o => decide (o.phase ≠ CmdPhase.completing) else s.host.outstanding := by
  change s.ringEnOff.host.outstanding = _
  rw [ringEnOff_host]
  split <;> rfl

theorem linkLost_held (hen : s.host.ringEn = true) : s.linkLost.host.held = [] := by
  change s.ringEnOff.host.held = []
  rw [ringEnOff_host, if_pos hen]
  rfl

/-- With nothing staged the loss of the link is the host block's alone. -/
theorem linkLost_noneStaged (h : ∀ c : Fin 256, s.svc.ctx[c].staged = []) : s.linkLost = { s with host := s.linkLost.host } := by
  have hoff : s.ringEnOff = { s with host := s.ringEnOff.host } := by
    cases hen : s.host.ringEn with
    | true => rw [ringEnOff_on hen, foldl_cutPartial_none (s := ringEnCleared s) h]; rfl
    | false => rw [ringEnOff_off hen]
  unfold State.linkLost
  generalize s.ringEnOff = t at hoff ⊢
  rw [hoff]

end Link

/-- Settles O20: the loss of the link, by ring processing ending; its return and its speed, by the guards of each event. -/
theorem linkDownAndUp : Obligations.LinkDownAndUp := by
  unfold Obligations.LinkDownAndUp
  refine ⟨?_, fun s h => ⟨_, rfl, linkLost_noneStaged h⟩, ?_, fun s => rfl, ?_, ?_, ?_, ?_⟩
  case refine_1 =>
    intro s
    refine ⟨s.linkLost, rfl, rfl, rfl, linkLost_ringEn s, rfl, linkLost_ring s, linkLost_outstanding s, linkLost_held, ?_, linkLost_frame s⟩
    rw [linkLost_frame]
  case refine_2 =>
    intro s
    refine ⟨_, rfl, rfl, rfl, linkLost_ringEn s, rfl, fun n => congrArg Ring.en (linkLost_ring s n), rfl, rfl, rfl, ?_⟩
    have hframe := linkLost_frame s
    generalize s.linkLost = t at hframe ⊢
    rw [hframe]
  case refine_3 =>
    intro s sp hperst hpow hup
    exact congrArg Host.Outcome.next (if_pos ⟨hperst, hpow, hup⟩)
  case refine_4 =>
    intro s sp h
    refine congrArg Host.Outcome.next (if_neg fun ⟨hperst, hpow, hup⟩ => ?_)
    simp [hperst, hpow, hup] at h
  case refine_5 =>
    intro s sp hup hsp
    exact congrArg Host.Outcome.next (if_pos ⟨hup, hsp⟩)
  case refine_6 =>
    intro s sp h
    refine congrArg Host.Outcome.next (if_neg fun ⟨hup, hsp⟩ => ?_)
    simp [hup, hsp] at h

end Sys2Proof.Proofs
end

section
/-!
SUPPORT. The messages of the vectors (R68): what is pending, what falls due when MSI-X is enabled, the coalescing timer, and a full data ring
(R60).
-/

namespace Sys2Proof.Proofs

open Sys2Proof Sys2Proof.Machine Sys2Proof.Laws

section Vectors

variable {s : State} {v : Fin 16}

/-- What a message of a vector that is not masked leaves behind: its pending bit is clear, and its rings count afresh. -/
def messageSent (s : State) (v : Fin 16) : State :=
  { s with host := { s.host with
    pba := s.host.pba &&& ~~~(BitVec.ofNat 16 (2 ^ v.val))
    posted := .msix (s.host.msix[v].addrHi ++ s.host.msix[v].addrLo) s.host.msix[v].data :: s.host.posted
    rings := s.host.rings.map fun r => if r.vecIx = v then { r with unsignalled := 0 } else r } }

theorem message_unmasked (h : s.vecMasked v = false) :
    s.message v = s.post (.msix (s.host.msix[v].addrHi ++ s.host.msix[v].addrLo) s.host.msix[v].data) := if_neg (by simp [h])

theorem message_masked (h : s.vecMasked v = true) :
    s.message v = { s with host := { s.host with pba := s.host.pba ||| BitVec.ofNat 16 (2 ^ v.val) } } := if_pos h

/-- The pending bit is cleared and the message sent. -/
theorem message_clearsPending (h : s.vecMasked v = false) :
    (({ s with host := { s.host with pba := s.host.pba &&& ~~~(BitVec.ofNat 16 (2 ^ v.val)) } } : State).message v).coalAfresh v =
      messageSent s v := by
  rw [message_unmasked (by exact h)]
  rfl

theorem sendPending_due (hpba : s.host.pba.getLsbD v.val = true) (hen : s.host.msixEn = true) (hmask : s.vecMasked v = false) :
    s.sendPending v = messageSent s v := by
  rw [State.sendPending, if_pos ⟨hpba, hen, hmask⟩]
  exact message_clearsPending hmask

theorem sendPending_none (h : ¬(s.host.pba.getLsbD v.val = true ∧ s.host.msixEn = true ∧ s.vecMasked v = false)) : s.sendPending v = s :=
  if_neg h

theorem foldl_sendPending_disabled (hen : s.host.msixEn = false) : (List.finRange 16).foldl State.sendPending s = s :=
  List.foldl_fixed' (fun v => sendPending_none (v := v) (by simp [hen])) _

/-- A ring of the vector has entries to signal. -/
theorem signalDue_iff (s : State) (v : Fin 16) :
    (s.host.rings.toList.any fun r => decide (r.vecIx = v) && r.irqEn && decide (r.unsignalled ≠ 0)) = true ↔
      ∃ n : Fin 32, s.host.rings[n].vecIx = v ∧ s.host.rings[n].irqEn = true ∧ s.host.rings[n].unsignalled ≠ 0 := by
  simp only [List.any_eq_true, Vector.mem_toList_iff, Bool.and_eq_true, decide_eq_true_eq, and_assoc]
  constructor
  · rintro ⟨r, hr, h⟩
    obtain ⟨i, hi, rfl⟩ := Vector.getElem_of_mem hr
    exact ⟨⟨i, hi⟩, h⟩
  · rintro ⟨n, h⟩
    exact ⟨_, Vector.getElem_mem n.isLt, h⟩

theorem signalVector_sent (h : ∃ n : Fin 32, s.host.rings[n].vecIx = v ∧ s.host.rings[n].irqEn = true ∧ s.host.rings[n].unsignalled ≠ 0)
    (hmask : s.vecMasked v = false) : s.signalVector v = messageSent s v := by
  simp only [State.signalVector, (signalDue_iff s v).mpr h, hmask, if_true, Bool.false_eq_true, if_false]
  exact message_clearsPending hmask

theorem signalVector_pending (h : ∃ n : Fin 32, s.host.rings[n].vecIx = v ∧ s.host.rings[n].irqEn = true ∧ s.host.rings[n].unsignalled ≠ 0)
    (hmask : s.vecMasked v = true) : s.signalVector v = { s with host := { s.host with
      pba := s.host.pba ||| BitVec.ofNat 16 (2 ^ v.val)
      rings := s.host.rings.map fun r => if r.vecIx = v then { r with unsignalled := 0 } else r } } := by
  simp only [State.signalVector, (signalDue_iff s v).mpr h, hmask, if_true, message_masked hmask]
  rfl

theorem signalVector_none
    (h : ∀ n : Fin 32, s.host.rings[n].vecIx = v → s.host.rings[n].irqEn = false ∨ s.host.rings[n].unsignalled = 0) :
    s.signalVector v = s := by
  refine if_neg fun hdue => ?_
  obtain ⟨n, hvec, hirq, hun⟩ := (signalDue_iff s v).mp hdue
  exact (h n hvec).elim (fun hoff => Bool.false_ne_true (hoff.symm.trans hirq)) hun

/-- The mask bit of a vector is clear, before what is pending is sent. -/
def maskCleared (s : State) (v : Fin 16) : State :=
  { s with host := { s.host with msix := upd s.host.msix v fun e => { e with masked := false } } }

/-- The function mask alone can still mask it. -/
theorem vecMasked_maskCleared (s : State) (v : Fin 16) : (maskCleared s v).vecMasked v = s.host.funcMask := by
  simp only [State.vecMasked, maskCleared, upd_same, Bool.or_false]

theorem unmask_due (hpba : s.host.pba.getLsbD v.val = true) (hen : s.host.msixEn = true) (hmask : s.host.funcMask = false) :
    s.unmask v = messageSent (maskCleared s v) v :=
  sendPending_due (s := maskCleared s v) hpba hen ((vecMasked_maskCleared s v).trans hmask)

theorem unmask_quiet (h : ¬(s.host.pba.getLsbD v.val = true ∧ s.host.msixEn = true ∧ s.host.funcMask = false)) :
    s.unmask v = maskCleared s v := by
  refine sendPending_none (s := maskCleared s v) ?_
  rwa [vecMasked_maskCleared]

/-- MSI-X Enable as it was: only the masks can have anything sent. -/
theorem msixControl_kept (s : State) (m : Bool) : s.msixControl s.host.msixEn m =
    (List.finRange 16).foldl State.sendPending { s with host := { s.host with funcMask := m } } := by
  simp only [State.msixControl, Bool.and_not_self, Bool.false_eq_true, if_false]

/-- MSI-X Enable cleared: nothing is sent. -/
theorem msixControl_disabled (s : State) (m : Bool) :
    s.msixControl false m = { s with host := { s.host with msixEn := false, funcMask := m } } := by
  simp only [State.msixControl, Bool.false_and, Bool.false_eq_true, if_false]
  exact foldl_sendPending_disabled (s := { s with host := { s.host with msixEn := false, funcMask := m } }) rfl

theorem msixControl_rises (hen : s.host.msixEn = false) (m : Bool) : s.msixControl true m = (List.finRange 16).foldl State.sendPending
    ((List.finRange 16).foldl State.signalVector { s with host := { s.host with msixEn := true, funcMask := m } }) := by
  simp only [State.msixControl, hen, Bool.not_false, Bool.and_self, if_true]

end Vectors

section Coalescing

variable {s : State} {n : Fin 32}

theorem msgDue_idle (h : s.host.msixEn = false ∨ s.host.rings[n].irqEn = false ∨ s.host.rings[n].unsignalled = 0) : s.msgDue n = s := by
  have hoff : (s.host.msixEn && s.host.rings[n].irqEn && decide (s.host.rings[n].unsignalled ≠ 0)) = false := by
    obtain h | h | h := h <;>
      simp only [h, Bool.false_and, Bool.and_false, ne_eq, not_true_eq_false, decide_false]
  exact if_neg (Bool.eq_false_iff.mp hoff)

theorem msgDue_due (hen : s.host.msixEn = true) (hirq : s.host.rings[n].irqEn = true) (hun : s.host.rings[n].unsignalled ≠ 0) :
    s.msgDue n = if s.vecMasked s.host.rings[n].vecIx then s.message s.host.rings[n].vecIx
      else (s.message s.host.rings[n].vecIx).modRing n fun r => { r with unsignalled := 0 } :=
  if_pos (by simp only [hen, hirq, hun, ne_eq, not_false_eq_true, decide_true, Bool.and_self])

end Coalescing

/-- Settles O18: each write of a mask or of Message Control, and each timer, by what is pending, masked and enabled. -/
theorem messagesFollowTheMask : Obligations.MessagesFollowTheMask := by
  unfold Obligations.MessagesFollowTheMask
  refine ⟨?_, ?_, fun s m => ?_, fun s m hen => ?_, fun s hen => ?_, fun s m hen => ?_, fun s hen => ?_, fun s v => sendPending_due, ?_,
    fun s v => signalVector_sent, fun s v => signalVector_pending, fun s v => signalVector_none, ?_, ?_, ?_, ?_, ?_⟩
  case refine_1 =>
    rintro s v ⟨hpba, hen, hmask⟩
    refine congrArg Host.Outcome.next ((unmask_due hpba hen hmask).trans ?_)
    simp only [messageSent, maskCleared, upd_same]
  case refine_2 =>
    intro s v h
    exact congrArg Host.Outcome.next (unmask_quiet h)
  case refine_3 =>
    exact congrArg Host.Outcome.next ((congrArg (State.msixControl s · m) (Bool.and_false _)).trans (msixControl_disabled s m))
  case refine_4 =>
    exact congrArg Host.Outcome.next ((congrArg (State.msixControl s · m) (Bool.and_true _)).trans (msixControl_kept s m))
  case refine_5 =>
    refine congrArg Host.Outcome.next (congrArg (State.msixControl s · s.host.funcMask) ?_)
    simp [hen]
  case refine_6 =>
    refine congrArg Host.Outcome.next ((congrArg (State.msixControl s · m) (Bool.and_true _)).trans ((msixControl_kept s m).trans ?_))
    exact foldl_sendPending_disabled hen
  case refine_7 => exact congrArg Host.Outcome.next (msixControl_rises hen _)
  case refine_8 =>
    intro s v h
    refine sendPending_none fun ⟨hpba, _, hmask⟩ => ?_
    obtain h | h := h
    · exact Bool.false_ne_true (h.symm.trans hpba)
    · exact Bool.false_ne_true (hmask.symm.trans h)
  case refine_9 =>
    intro s n hus hen hirq hun hmask
    refine congrArg Host.Outcome.next ((if_pos hus).trans ?_)
    rw [msgDue_due hen hirq hun, hmask, if_neg Bool.false_ne_true, message_unmasked hmask]
  case refine_10 =>
    intro s n hus hen hirq hun hmask
    refine congrArg Host.Outcome.next ((if_pos hus).trans ?_)
    rw [msgDue_due hen hirq hun, hmask, if_pos rfl, message_masked hmask]
  case refine_11 =>
    intro s n h
    refine congrArg Host.Outcome.next ?_
    obtain hus | hidle := h
    · exact if_neg fun h => h hus
    · exact ite_eq_right_iff.mpr fun _ => msgDue_idle hidle
  case refine_12 =>
    intro s n hfull hrep
    exact congrArg Host.Outcome.next (if_pos ⟨hfull, hrep⟩)
  case refine_13 =>
    intro s n h
    refine congrArg Host.Outcome.next (if_neg fun ⟨hfull, hrep⟩ => ?_)
    obtain h | h := h
    · exact Bool.false_ne_true (h.symm.trans hfull)
    · exact Bool.false_ne_true (hrep.symm.trans h)

end Sys2Proof.Proofs
end

section
/-!
SUPPORT. Ring 0 from the slot to the completion (R42, R46, R50 to R54): the slot read, the Hopper's checks, what a command must wait for, and
accesses to host memory that fail (R524).
-/

namespace Sys2Proof.Proofs

open Sys2Proof Sys2Proof.Machine Sys2Proof.Laws

/-! ### Reading a slot (R41, R42) -/

section Slots

variable (s : State) (n : Fin 32)

theorem signals_slotRead : Signals (s.modRing n fun r => { r with cons := (r.cons + 1) % r.size }) (s.slotRead n) := signals_shadow _ n _

/-- A slot read changes the host block alone, and of it the ring and what was posted. -/
theorem slotRead_eq : s.slotRead n =
    { s with host := { s.host with rings := (s.slotRead n).host.rings, pba := (s.slotRead n).host.pba, posted := (s.slotRead n).host.posted } } :=
  (signals_slotRead s n).eq

theorem slotRead_outstanding : (s.slotRead n).host.outstanding = s.host.outstanding := by rw [slotRead_eq]
theorem slotRead_hciWaiting : (s.slotRead n).host.hciWaiting = s.host.hciWaiting := by rw [slotRead_eq]
theorem slotRead_win : (s.slotRead n).win = s.win := by rw [slotRead_eq]
theorem slotRead_svc : (s.slotRead n).svc = s.svc := by rw [slotRead_eq]

theorem slotRead_cons : (s.slotRead n).host.rings[n].cons = (s.host.rings[n].cons + 1) % s.host.rings[n].size := by
  rw [(signals_slotRead s n).rings n, modRing_host, upd_same]

end Slots

/-! ### What a command waits for (R52, R53, R67) -/

/-- The order of commands rests on windows, contexts, outstanding commands and ring 3 entries that wait. -/
theorem mustWait_congr {s t : State} (hwin : t.win = s.win) (hsvc : t.svc = s.svc) (hout : t.host.outstanding = s.host.outstanding)
    (hhci : t.host.hciWaiting = s.host.hciWaiting) (op : Nat) (c : CmdEntry) : t.mustWait op c = s.mustWait op c := by
  have hunit : t.unitOf = s.unitOf := by
    unfold State.unitOf
    rw [hwin]
  have hctx : t.ctxUnit = s.ctxUnit := by
    unfold State.ctxUnit
    rw [hsvc]
  have hobj : t.cmdObjects = s.cmdObjects := by
    unfold State.cmdObjects
    rw [hunit, hctx]
  have hconf : t.conflict = s.conflict := by
    unfold State.conflict
    rw [hobj]
  simp only [State.mustWait, hout, hhci, hconf]

theorem mustWait_iff (s : State) (op : Nat) (c : CmdEntry) : s.mustWait op c = true ↔
    ((∃ o ∈ s.host.outstanding, o.entry.id < c.id ∧ (c.fence = true ∨ o.entry.fence = true ∨
      (o.givesWay = false ∧ s.conflict o.opcode.toNat o.entry op c = true))) ∨
    (op / 256 = 7 ∧ ∃ e ∈ s.host.hciWaiting, c.id ∉ e.2.2)) := by
  have hfence : (c.fence && !(s.host.outstanding.filter fun o => decide (o.entry.id < c.id)).isEmpty) = true ↔
      ∃ o ∈ s.host.outstanding, o.entry.id < c.id ∧ c.fence = true := by
    simp only [Bool.and_eq_true, Bool.not_eq_true', List.isEmpty_eq_false_iff_exists_mem, List.mem_filter, decide_eq_true_eq]
    exact ⟨fun ⟨hf, o, ho, hid⟩ => ⟨o, ho, hid, hf⟩, fun ⟨o, ho, hid, hf⟩ => ⟨hf, o, ho, hid⟩⟩
  have hearlier : ((s.host.outstanding.filter fun o => decide (o.entry.id < c.id)).any fun o =>
        o.entry.fence || (!o.givesWay && s.conflict o.opcode.toNat o.entry op c)) = true ↔
      ∃ o ∈ s.host.outstanding, o.entry.id < c.id ∧
        (o.entry.fence = true ∨ (o.givesWay = false ∧ s.conflict o.opcode.toNat o.entry op c = true)) := by
    simp only [List.any_eq_true, List.mem_filter, decide_eq_true_eq, Bool.or_eq_true, Bool.and_eq_true, Bool.not_eq_true', and_assoc]
  have hring3 : (decide (op / 256 = 7) && s.host.hciWaiting.any fun e => !e.2.2.contains c.id) = true ↔
      op / 256 = 7 ∧ ∃ e ∈ s.host.hciWaiting, c.id ∉ e.2.2 := by
    simp
  simp only [State.mustWait, Bool.or_eq_true, hfence, hearlier, hring3]
  rw [← exists_or]
  simp only [← and_or_left]

/-! ### The Hopper (R50, R53) -/

section Hopper

variable {s : State}

theorem entryReceived_stays {op : Nat} {c : CmdEntry} (h : 32 ≤ s.host.outstanding.length ∨ s.covers 0 c.slot.toNat = false) :
    s.entryReceived op c = s := if_pos h

/-- An entry that is read: its checks decide. -/
theorem entryReceived_read {op : Nat} {c : CmdEntry} (hlen : s.host.outstanding.length < 32) (hcov : s.covers 0 c.slot.toNat = true) :
    (∀ st d, hopperCheck op c = some (st, d) → s.entryReceived op c = (s.slotRead 0).finish op c st d [] none) ∧
    (hopperCheck op c = none →
      s.entryReceived op c = (s.slotRead 0).addCmd op (if s.mustWait op c then .held else .dispatched) c) := by
  have hread : ¬(32 ≤ s.host.outstanding.length ∨ s.covers 0 c.slot.toNat = false) := by
    simp [hcov, hlen]
  have hwait : (s.slotRead 0).mustWait op c = s.mustWait op c :=
    mustWait_congr (slotRead_win s 0) (slotRead_svc s 0) (slotRead_outstanding s 0) (slotRead_hciWaiting s 0) op c
  simp only [State.entryReceived, if_neg hread]
  exact ⟨fun st d h => by rw [h], fun h => by rw [h, hwait]⟩

theorem dispatch_head {o : OutCmd} {l : List OutCmd} (hout : s.host.outstanding = o :: l) (hheld : o.phase = .held) :
    s.dispatch o.entry.id = if s.mustWait o.opcode.toNat o.entry then s
      else { s with host := { s.host with outstanding := { o with phase := .dispatched } ::
        (l.map fun x => if x.entry.id = o.entry.id ∧ x.phase = .held then { x with phase := .dispatched } else x) } } := by
  have hfind : (s.host.outstanding.find? fun x => decide (x.entry.id = o.entry.id) && decide (x.phase = .held)) = some o := by
    rw [hout, List.find?_cons_of_pos]
    simp [hheld]
  simp only [State.dispatch, hfind]
  rw [hout]
  simp only [List.map_cons, hheld, and_self, if_true]

theorem hopperCheck_undefined {op : Nat} {c : CmdEntry} (h : opRow op = none) : hopperCheck op c = some (.badop, 0) := by
  simp only [hopperCheck, h]

theorem hopperCheck_plen {op : Nat} {c : CmdEntry} {r : OpRow} (h : opRow op = some r) (hlen : c.plen.toNat ≠ r.plen) :
    hopperCheck op c = some (.badlen, 0) := by
  simp only [hopperCheck, h]
  exact if_pos (.inl hlen)

/-- One completion that is held, and room for it. -/
theorem drainHeld_one {id : Nat} {c : Completion} (hup : s.ringUp 1 = true) (hfree : 0 < s.host.rings[1].free)
    (hheld : s.host.held = [(id, c)]) :
    s.drainHeld = ({ s with host := s.host.popHeld id [] }).writeEntry 1 fun a p => .completion a p c := by
  have hroom : (s.ringUp 1 && decide (0 < s.host.rings[1].free)) = true := by
    simp only [hup, hfree, decide_true, Bool.and_self]
  simp only [State.drainHeld, hheld, List.length_cons, List.length_nil, Nat.zero_add, List.replicate_one, List.foldl_cons, List.foldl_nil,
    hroom, if_true]

end Hopper

/-- Settles O14: an entry by its checks and its order, and the commands and completions that waited. -/
theorem hopperChecksDecideFirst : Obligations.HopperChecksDecideFirst := by
  unfold Obligations.HopperChecksDecideFirst
  refine ⟨?_, ?_, fun s op c h => congrArg Host.Outcome.next (entryReceived_stays h), mustWait_iff, ?_, ?_, ?_, ?_, ?_,
    fun op c => hopperCheck_undefined, fun op c r => hopperCheck_plen⟩
  case refine_1 =>
    intro s op c st d hlen hcov hcheck
    exact congrArg Host.Outcome.next ((entryReceived_read hlen hcov).1 st d hcheck)
  case refine_2 =>
    intro s op c hlen hcov hcheck
    refine ⟨_, congrArg Host.Outcome.next ((entryReceived_read hlen hcov).2 hcheck), ?_, slotRead_cons s 0, ?_⟩
    · simp only [State.addCmd, State.dropCmd]
      rw [slotRead_eq]
    · simp only [State.addCmd, State.dropCmd, slotRead_outstanding, BitVec.ofNat_toNat, BitVec.setWidth_eq]
  case refine_3 =>
    intro s o l hout hheld hwait
    refine ⟨_, _, congrArg Host.Outcome.next ((dispatch_head hout hheld).trans (if_neg (by simp [hwait]))), rfl, List.length_map .., rfl⟩
  case refine_4 =>
    intro s o l hout hheld hwait
    exact congrArg Host.Outcome.next ((dispatch_head hout hheld).trans (if_pos hwait))
  case refine_5 =>
    intro s id c hup hfree hheld
    exact congrArg Host.Outcome.next (drainHeld_one hup hfree hheld)
  case refine_6 =>
    intro s hen hout
    exact congrArg Host.Outcome.next (if_pos ⟨hen, by rw [hout]; rfl⟩)
  case refine_7 =>
    intro s h
    refine congrArg Host.Outcome.next (if_neg fun ⟨hen, hout⟩ => ?_)
    simp [hen, List.isEmpty_iff.mp hout] at h

/-! ### Failed accesses to host memory (R524) -/

section BusErrors

variable {s : State}

theorem bufInFault_none {id : Nat} {a : D} (h : ∀ o ∈ s.host.outstanding, o.entry.id ≠ id) : s.bufInFault id a = s := by
  have hfind : (s.host.outstanding.find? fun o =>
      decide (o.entry.id = id) && o.entry.bufIn && decide (o.phase = .held ∨ o.phase = .dispatched)) = none := by
    rw [List.find?_eq_none]
    intro o ho
    simp [h o ho]
  simp only [State.bufInFault, hfind]

theorem bufInFault_one {o : OutCmd} {a : D} (hout : s.host.outstanding = [o]) (hin : o.entry.bufIn = true)
    (hph : o.phase = .held ∨ o.phase = .dispatched) : s.bufInFault o.entry.id a =
      ((s.dropCmd o.opcode.toNat o.entry.id).busError 0xFF (0 :: leBytes 2 o.entry.slot.toNat) a).complete o.opcode.toNat o.entry
        (mkCompletion o.opcode.toNat o.entry .fault 0 [] 0) := by
  have hfind : (s.host.outstanding.find? fun x =>
      decide (x.entry.id = o.entry.id) && x.entry.bufIn && decide (x.phase = .held ∨ x.phase = .dispatched)) = some o := by
    rw [hout, List.find?_cons_of_pos]
    simp [hin, hph]
  simp only [State.bufInFault, hfind]

theorem bufOutFault_none {id : Nat} (h : ∀ o ∈ s.host.outstanding, o.entry.id ≠ id) : s.bufOutFault id = s := by
  have hmap : (s.host.outstanding.map fun o => if o.entry.id = id ∧ o.entry.bufOut = true ∧ o.phase ≠ .completing then
      { o with entry := { o.entry with bufErr := true } } else o) = s.host.outstanding :=
    (List.map_congr_left fun o ho => if_neg fun k => h o ho k.1).trans (List.map_id' _)
  simp only [State.bufOutFault, hmap]

theorem bufOutFault_one {o : OutCmd} (hout : s.host.outstanding = [o]) (hbuf : o.entry.bufOut = true) (hph : o.phase ≠ .completing) :
    s.bufOutFault o.entry.id = { s with host := { s.host with outstanding := [{ o with entry := { o.entry with bufErr := true } }] } } := by
  simp only [State.bufOutFault, hout, List.map_cons, List.map_nil, hbuf, hph, ne_eq, not_false_eq_true, and_self, if_true]

theorem finish_bufErr {op : Nat} {c : CmdEntry} {st : Status} {d : Nat} {result out : List Byte} (hslot : c.slot ≠ hciSlot)
    (herr : c.bufErr = true) : s.finish op c st d result (some out) =
      (s.busError 0xFF (0 :: leBytes 2 c.slot.toNat) c.bufAddr).complete op c (mkCompletion op c .fault 0 result 0) := by
  simp only [State.finish, hslot, herr, if_false, if_true]

end BusErrors

/-- Settles O19: a failed access by what was being accessed. -/
theorem hostMemoryErrorsAreReported : Obligations.HostMemoryErrorsAreReported := by
  unfold Obligations.HostMemoryErrorsAreReported
  refine ⟨?_, fun s slot id a h => congrArg Host.Outcome.next (if_pos h), fun s slot a h => congrArg Host.Outcome.next (if_pos h), ?_, ?_, ?_, ?_,
    ?_, fun s n a => rfl, fun s n a => rfl, fun s a => rfl, fun s n => ⟨slotRead_cons s n, slotRead_outstanding s n⟩⟩
  case refine_1 =>
    intro s slot id a hlen hcov
    exact congrArg Host.Outcome.next (if_neg (by simp [hcov, hlen]))
  case refine_2 =>
    intro s slot a h
    exact congrArg Host.Outcome.next (if_neg (by simp [h]))
  case refine_3 =>
    intro s o a hout hin hph
    exact congrArg Host.Outcome.next (bufInFault_one hout hin hph)
  case refine_4 =>
    intro s id a h
    exact ⟨congrArg Host.Outcome.next (bufInFault_none h), congrArg Host.Outcome.next (bufOutFault_none h)⟩
  case refine_5 =>
    intro s o a hout hbuf hph
    exact congrArg Host.Outcome.next (bufOutFault_one hout hbuf hph)
  case refine_6 =>
    intro s op c st d result out hslot herr
    exact (finish_bufErr hslot herr).trans rfl

end Sys2Proof.Proofs
end

section
/-!
SUPPORT. The system commands by what their bodies answer (R55), the step that takes a command from the queue, and the step with an empty queue
in which a reset begins (R56, R486).
-/

namespace Sys2Proof.Proofs

open Sys2Proof Sys2Proof.Machine Sys2Proof.Laws

/-! ### A step by its queue (log 3) -/

section Steps

variable {s : State}

theorem step_command {c : Instr} {q : List Instr} (h : s.pending = c :: q) : step s = exec c { s with pending := q } := by
  simp only [step, h]

theorem step_idle (h : s.pending = []) : step s = .next s.tick := by
  simp only [step, h]

theorem abandonEntry_none (h : s.pwr.trans = none) (doorbell superseded : Bool) : s.abandonEntry doorbell superseded = s := by
  simp only [State.abandonEntry, h]

theorem settleUndone_none (h : s.pwr.undone = none) (superseded : Bool) : s.settleUndone superseded = s := by
  simp only [State.settleUndone, h]

theorem entryStep_none (h : s.pwr.trans = none) : s.entryStep = s := by
  simp only [State.entryStep, h]

theorem opensDone_none (h : ∀ c : Fin 256, s.svc.ctx[c].st ≠ .opening) : s.opensDone = s := by
  have hix : (allIx fun c : Fin 256 => decide (s.svc.ctx[c].st = .opening)) = [] :=
    List.filter_eq_nil_iff.mpr fun c _ => by rw [decide_eq_true_eq]; exact h c
  simp only [State.opensDone, hix, List.foldl_nil]

theorem drainHciWaiting_none (h : s.host.hciWaiting = []) : s.drainHciWaiting = s := by
  simp only [State.drainHciWaiting, h, List.length_nil, List.replicate_zero, List.foldl_nil]

/-- With nothing under way a microsecond passes, and a reset that is due begins. -/
theorem tick_still (htr : s.pwr.trans = none) (hun : s.pwr.undone = none) (hctx : ∀ c : Fin 256, s.svc.ctx[c].st ≠ .opening)
    (hhci : s.host.hciWaiting = []) : s.tick = State.resetStarts { s with sys := s.sys.tick } := by
  unfold State.tick
  rw [settleUndone_none (s := { s with sys := s.sys.tick }) hun, entryStep_none (s := { s with sys := s.sys.tick }) htr,
    opensDone_none (s := { s with sys := s.sys.tick }) hctx, drainHciWaiting_none (s := { s with sys := s.sys.tick }) hhci]

theorem tick_resetDue (y : SysBlk) : y.tick.resetDue = y.resetDue := by
  simp only [SysBlk.tick]
  split <;> rfl

theorem resetStarts_due {ty : BitVec 2} (hdue : s.sys.resetDue = some ty) (hready : s.resetReady = true) :
    s.resetStarts = s.commandReset ty.toNat := by
  simp only [State.resetStarts, hdue, hready, if_true]

/-- The reset of a SYS_RESET whose completion and message have gone out. -/
theorem step_resets {ty : BitVec 2} (hq : s.pending = []) (htr : s.pwr.trans = none) (hun : s.pwr.undone = none)
    (hctx : ∀ c : Fin 256, s.svc.ctx[c].st ≠ .opening) (hhci : s.host.hciWaiting = []) (hdue : s.sys.resetDue = some ty)
    (hready : s.resetReady = true) : step s = .next (State.commandReset { s with sys := s.sys.tick } ty.toNat) := by
  rw [step_idle hq, tick_still htr hun hctx hhci]
  exact congrArg Host.Outcome.next (resetStarts_due ((tick_resetDue s.sys).trans hdue) hready)

end Steps

/-! ### The bodies (R55) -/

section Bodies

variable {s : State} {c : CmdEntry}

theorem recovery_of_takes {op : Nat} (h : s.takes op c = true) : s.sys.recovery = false := by
  simp only [State.takes, Bool.and_eq_true, Bool.not_eq_true'] at h
  exact h.1.2

theorem infoResult_slot (h : s.sys.recovery = false) : s.infoResult =
    leBytes 4 0x96400101 ++ (leBytes 4 s.sys.fwVer.toNat).reverse ++ [byte s.sys.slot.toNat] ++ List.replicate 7 0 := by
  simp only [State.infoResult, h, Bool.false_eq_true, if_false]
  rfl

theorem bodySysSetRtc_pass (h : c.u64 24 < 2 ^ 40) : bodySysSetRtc c s =
    .done { s with sys := { s.sys with rtcSec := BitVec.ofNat 40 (c.u64 24), rtcSub := 0, rtcSet := true, rtcXtal := true } } :=
  checked_pass _ (by rw [firstFail, decide_eq_false (by omega)]; rfl)

theorem bodySysSetRtc_range (h : 2 ^ 40 ≤ c.u64 24) : bodySysSetRtc c s = .fail .range 24 :=
  checked_fail _ (by rw [firstFail, decide_eq_true h]; rfl)

theorem bodySysReset_pass (h : c.u32 24 = 1 ∨ c.u32 24 = 2) (htr : s.pwr.trans = none) (hun : s.pwr.undone = none) : bodySysReset c s =
    .done { s with sys := { s.sys with resetDue := some (BitVec.ofNat 2 (c.u32 24)) } } := by
  have hin : within 1 2 (c.u32 24) = true := (within_iff ..).mpr (by omega)
  simp only [bodySysReset, hin, abandonEntry_none htr, settleUndone_none hun]
  exact checked_pass _ rfl

theorem bodySysReset_range (h : c.u32 24 ≠ 1 ∧ c.u32 24 ≠ 2) : bodySysReset c s = .fail .range 24 := by
  have hout : within 1 2 (c.u32 24) = false := by
    rw [Bool.eq_false_iff, ne_eq, within_iff]
    omega
  simp only [bodySysReset, hout]
  exact checked_fail _ rfl

end Bodies

/-- Settles O1: a step takes the front command. -/
theorem queueStep : Obligations.QueueStep := by
  unfold Obligations.QueueStep
  exact fun s c rest => step_command

/-- Settles O9: each command by its body, and the two resets by the state that they build. -/
theorem systemCommandsComplete : Obligations.SystemCommandsComplete := by
  unfold Obligations.SystemCommandsComplete
  refine ⟨?_, ?_, ?_, ?_, ?_, ?_, ?_, ?_, ?_⟩
  case refine_1 =>
    intro s c h
    exact congrArg Host.Outcome.next (runCmd_ok h rfl)
  case refine_2 =>
    intro s c h
    have hinfo := infoResult_slot (s := s.taken 0x0101 c) (recovery_of_takes (s := s) h)
    exact congrArg Host.Outcome.next (runCmd_ok h (congrArg (Answer.ok (s.taken 0x0101 c) · none) hinfo))
  case refine_3 =>
    intro s c h
    exact congrArg Host.Outcome.next (runCmd_ok h rfl)
  case refine_4 =>
    intro s c h hv
    exact congrArg Host.Outcome.next (runCmd_ok h (bodySysSetRtc_pass hv))
  case refine_5 =>
    intro s c h hv
    exact congrArg Host.Outcome.next (runCmd_fail h (bodySysSetRtc_range hv))
  case refine_6 =>
    intro s c h htr hun hty
    exact congrArg Host.Outcome.next (runCmd_ok h (bodySysReset_pass (s := s.taken 0x0104 c) hty htr hun))
  case refine_7 =>
    intro s c h hty
    exact congrArg Host.Outcome.next (runCmd_fail h (bodySysReset_range hty))
  case refine_8 =>
    intro s hq htr hun hctx hhci hdue hready
    exact ⟨_, step_resets hq htr hun hctx hhci hdue hready, rfl, rfl, rfl, rfl, rfl, rfl, rfl, rfl⟩
  case refine_9 =>
    intro s hq htr hun hctx hhci hdue hready
    exact ⟨_, step_resets hq htr hun hctx hhci hdue hready, rfl, rfl, rfl, rfl, rfl, rfl, rfl, rfl, rfl⟩

end Sys2Proof.Proofs
end

section
/-!
SUPPORT. Ring 3 from the entry to the controller (R65 to R67): when an entry is read and when it acts, the packets of commands and the
vendor-specific ones among them, each standard command's answer, and the end of a rate-limit interval (R75).
-/

namespace Sys2Proof.Proofs

open Sys2Proof Sys2Proof.Machine Sys2Proof.Laws

/-! ### Entries that are read (R46, R65, R67) -/

theorem slotRead_hciCnt (s : State) (n : Fin 32) : (s.slotRead n).host.hciCnt = s.host.hciCnt := by rw [slotRead_eq]
theorem slotRead_acc (s : State) (n : Fin 32) : (s.slotRead n).acc = s.acc := by rw [slotRead_eq]
theorem slotRead_cred (s : State) (n : Fin 32) : (s.slotRead n).cred = s.cred := by rw [slotRead_eq]
theorem slotRead_sys (s : State) (n : Fin 32) : (s.slotRead n).sys = s.sys := by rw [slotRead_eq]

theorem slotRead_pairRuns (s : State) (n : Fin 32) (p : Fin 2) : (s.slotRead n).pairRuns p = s.pairRuns p := by
  rw [slotRead_eq]
  rfl

theorem slotRead_accWaiting (s : State) (n : Fin 32) : (s.slotRead n).accWaiting = s.accWaiting := by
  simp only [State.accWaiting, slotRead_outstanding]

theorem mem_accWaiting (s : State) (n : Nat) : n ∈ s.accWaiting ↔
    ∃ x ∈ s.host.outstanding, x.entry.id = n ∧ x.opcode.toNat / 256 = 7 ∧ (x.phase = .held ∨ x.phase = .dispatched) := by
  simp only [State.accWaiting, List.mem_map, List.mem_filter, Bool.and_eq_true, decide_eq_true_eq]
  exact ⟨fun ⟨x, ⟨hx, h⟩, hid⟩ => ⟨x, hx, hid, h⟩, fun ⟨x, hx, hid, h⟩ => ⟨x, ⟨hx, h⟩, hid⟩⟩

/-- With SHADOW_EN 0 an entry that is taken moves the index of ring 3 and posts nothing. -/
theorem hciTaken_quiet {s : State} (h : s.host.shadowEn = false) :
    s.hciTaken = s.modRing 3 fun x => { x with cons := (x.cons + 1) % x.size } := by
  simp only [State.hciTaken, State.slotRead, State.shadow, modRing_host, h, Bool.false_eq_true, if_false]

section Entries

variable {s : State} {e : HciEntry} {o : HciObs}

theorem hciReads_iff (s : State) : s.hciReads = true ↔
    s.pairRuns 0 = true ∧ s.sys.recovery = false ∧ s.ringUp 3 = true ∧ s.host.rings[3].used ≠ 0 := by
  simp [State.hciReads, State.hciRuns, and_assoc]

theorem hciEntry_stays (h : s.pairRuns 0 = false ∨ s.sys.recovery = true ∨ s.ringUp 3 = false ∨ s.host.rings[3].used = 0) :
    s.hciEntry e o = s := by
  refine if_neg fun hreads => ?_
  obtain ⟨hruns, hrec, hup, hused⟩ := (hciReads_iff s).mp hreads
  simp [hruns, hrec, hup, hused] at h

/-- An entry is read, and nothing that was fetched before it waits. -/
structure ReadsNow (s : State) : Prop where
  reads : s.hciReads = true
  noCommand : s.accWaiting = []
  noEntry : s.host.hciWaiting = []

theorem readsNow_of (hruns : s.pairRuns 0 = true) (hrec : s.sys.recovery = false) (hup : s.ringUp 3 = true) (hused : s.host.rings[3].used ≠ 0)
    (hacc : s.accWaiting = []) (hhci : s.host.hciWaiting = []) : ReadsNow s :=
  ⟨(hciReads_iff s).mpr ⟨hruns, hrec, hup, hused⟩, hacc, hhci⟩

theorem hciEntry_acts (h : ReadsNow s) : s.hciEntry e o = s.hciTaken.hciActs e o := by
  obtain ⟨hreads, hacc, hhci⟩ := h
  simp only [State.hciEntry, hreads, State.hciTaken, slotRead_accWaiting, slotRead_hciWaiting, hacc, hhci, List.isEmpty_nil, Bool.and_self,
    if_true]

theorem hciEntry_waits (hreads : s.hciReads = true) (h : s.accWaiting ≠ [] ∨ s.host.hciWaiting ≠ []) : s.hciEntry e o =
    { s.hciTaken with host := { s.hciTaken.host with hciWaiting := s.host.hciWaiting ++ [(e, o, s.accWaiting)] } } := by
  have hwait : (s.accWaiting.isEmpty && s.host.hciWaiting.isEmpty) = false := by
    obtain h | h := h <;> simp [h]
  simp only [State.hciEntry, hreads, State.hciTaken, slotRead_accWaiting, slotRead_hciWaiting, hwait, if_true, Bool.false_eq_true, if_false]

theorem isBad_iff (e : HciEntry) : HciEntry.isBad e = true ↔ (e.type ≠ 1 ∧ e.type ≠ 2) ∨ e.len.toNat < 3 ∨ 268 < e.len.toNat := by
  simp [HciEntry.isBad, within, Decidable.or_iff_not_imp_left]

theorem isBad_listed (htype : e.type = 1 ∨ e.type = 2) (hlo : 3 ≤ e.len.toNat) (hhi : e.len.toNat ≤ 268) : HciEntry.isBad e = false := by
  rw [Bool.eq_false_iff, ne_eq, isBad_iff]
  rintro (⟨h1, h2⟩ | hshort | hlong)
  · exact htype.elim h1 h2
  · omega
  · omega

theorem hciActs_bad (s : State) (o : HciObs) (h : HciEntry.isBad e = true) : s.hciActs e o = s.hciOut 4 [0x0E, 4, 4, 0, 0, 0x12] := if_pos h

theorem hciActs_command (s : State) (o : HciObs) (htype : e.type = 1) (hlo : 3 ≤ e.len.toNat) (hhi : e.len.toNat ≤ 268) :
    s.hciActs e o = s.hciPacket (e.packet.take e.len.toNat) o := by
  simp only [State.hciActs, isBad_listed (.inl htype) hlo hhi, htype, HciEntry.bytes, Bool.false_eq_true, if_false, if_true]

theorem hciActs_acl (s : State) (o : HciObs) (htype : e.type = 2) (hlo : 3 ≤ e.len.toNat) (hhi : e.len.toNat ≤ 268) :
    s.hciActs e o = s.hciTo 2 (e.packet.take e.len.toNat) := by
  have hne : e.type ≠ 1 := by
    rw [htype]
    decide
  simp only [State.hciActs, isBad_listed (.inr htype) hlo hhi, hne, HciEntry.bytes, State.hciAcl, Bool.false_eq_true, if_false]

end Entries

/-! ### Command packets (R65, R66) -/

/-- The opcode of a packet is its first two bytes, zeros where it is shorter. -/
theorem packetOp_eq (p : List Byte) : packetOp p = leNat (p.take 2) := by
  rcases p with _ | ⟨a, _ | ⟨b, l⟩⟩
  · rfl
  · rfl
  · rfl

theorem packetOp_command {o : Nat} (ho : o < 65536) (b : Byte) (l : List Byte) : packetOp (leBytes 2 o ++ [b] ++ l) = o := by
  rw [packetOp_eq]
  simp only [leBytes, List.cons_append, List.nil_append, List.take_succ_cons, List.take_zero, leNat, BitVec.toNat_ofNat]
  omega

section Packets

variable {s : State} {o : Nat} {l : List Byte} {k : HciObs}

theorem hciPacket_short {p : List Byte} (h : (p.getD 2 0).toNat ≠ p.length - 3) : s.hciPacket p k = s.hciComplete (packetOp p) [0x12] :=
  if_pos (by rwa [List.length_drop])

/-- A packet whose parameters are as long as it says. -/
theorem hciPacket_command (ho : o < 65536) (hl : l.length ≤ 255) : s.hciPacket (leBytes 2 o ++ [byte l.length] ++ l) k =
    if o / 256 = 0xFE then s.vendor (o % 256) l
    else (s.hciTo 1 (leBytes 2 o ++ [byte l.length] ++ l)).hciStandard o (hciKind (leBytes 2 o ++ [byte l.length] ++ l)) k := by
  have hdrop : (leBytes 2 o ++ [byte l.length] ++ l).drop 3 = l := rfl
  have hlen : ((leBytes 2 o ++ [byte l.length] ++ l).getD 2 0).toNat = l.length := byte_toNat (n := l.length) (by omega)
  simp only [State.hciPacket, packetOp_command ho, hdrop, hlen, ne_eq, not_true_eq_false, if_false]

/-- Opcode 0xFE00 + cc stands for ring 0 opcode 0x0700 + cc. -/
theorem hciOpcode_vendor (h : o / 256 = 0xFE) : hciOpcode (0x0700 + o % 256) = o := by
  unfold hciOpcode
  omega

theorem vendor_undefined (h : o / 256 = 0xFE) (hrow : opRow (0x0700 + o % 256) = none) :
    s.vendor (o % 256) l = s.hciOut 4 ([0x0E, 4, 4] ++ leBytes 2 o ++ [1]) := by
  simp only [State.vendor, hrow, vendorComplete, hciOpcode_vendor h]
  rfl

/-- The state in which a vendor-specific command runs: it has been numbered. -/
def vendorTaken (s : State) : State := { s.hciTaken with host := { s.hciTaken.host with hciCnt := s.host.hciCnt + 1 } }

theorem vendor_defined {row : OpRow} {cc : Nat} (hrow : opRow (0x0700 + cc) = some row) : s.hciTaken.vendor cc l =
    (vendorTaken s).runCmd (0x0700 + cc) (vendorEntry row l s.host.hciCnt) (accBody (0x0700 + cc) (vendorEntry row l s.host.hciCnt)) := by
  have hcnt : s.hciTaken.host.hciCnt = s.host.hciCnt := slotRead_hciCnt s 3
  simp only [State.vendor, hrow, hcnt, vendorTaken]

end Packets

section Vendor

variable {s : State} {op : Nat} {c : CmdEntry}

/-- A command whose fetch no outstanding one shares. -/
theorem taken_absent (h : ∀ x ∈ s.host.outstanding, x.entry.id ≠ c.id) : s.taken op c = s := by
  have hfilter : (s.host.outstanding.filter fun x => !x.is op c.id) = s.host.outstanding :=
    List.filter_eq_self.mpr fun x hx => by simp [OutCmd.is, h x hx]
  simp only [State.taken, State.dropCmd, hfilter]

theorem takes_absent (h : ∀ x ∈ s.host.outstanding, x.entry.id ≠ c.id) (hcheck : hopperCheck op c = none)
    (hpair : s.pairRuns (opPair op) = true)
    (hrec : s.sys.recovery = false) (hbuf : c.bufErr = false) : s.takes op c = true := by
  have hheld : s.cmdHeld op c = false := by
    rw [State.cmdHeld, List.any_eq_false]
    intro x hx
    simp [OutCmd.is, h x hx]
  simp [State.takes, hheld, hcheck, hpair, hrec, hbuf]

/-- A command that came by ring 3 completes there. -/
theorem finish_vendor (h : c.slot = hciSlot) (st : Status) (d : Nat) (r : List Byte) (out : Option (List Byte)) :
    s.finish op c st d r out = s.hciOut 4 (vendorComplete op st) := if_pos h

theorem vendorTaken_acc (s : State) : (vendorTaken s).acc = s.acc := slotRead_acc s 3

theorem vendorTaken_absent {n : Nat} (h : ∀ x ∈ s.host.outstanding, x.entry.id ≠ n) :
    ∀ x ∈ (vendorTaken s).host.outstanding, x.entry.id ≠ n := by
  have hout : (vendorTaken s).host.outstanding = s.host.outstanding := slotRead_outstanding s 3
  rwa [hout]

theorem takes_vendorTaken (hpair : opPair op = 0) (hruns : s.pairRuns 0 = true) (hrec : s.sys.recovery = false)
    (h : ∀ x ∈ s.host.outstanding, x.entry.id ≠ c.id) (hcheck : hopperCheck op c = none) (hbuf : c.bufErr = false) :
    (vendorTaken s).takes op c = true := by
  refine takes_absent (vendorTaken_absent h) hcheck ?_ ?_ hbuf
  · rw [hpair]
    exact (slotRead_pairRuns s 3 0).trans hruns
  · exact (congrArg SysBlk.recovery (slotRead_sys s 3)).trans hrec

theorem hopperCheck_vendorTxStop (n : Nat) : hopperCheck 0x0711 (vendorEntry (.plain 4) [0, 0, 0, 0] n) = none := by
  simp [hopperCheck, opRow, accOps, OpRow.plain, vendorEntry, vendorBuf, BufUse.fits, CmdEntry.bufIn, CmdEntry.bufOut, byte, Config.hostLo]

theorem hopperCheck_vendorRegRead (n : Nat) : hopperCheck 0x0714 (vendorEntry (.writes 4 128) [0, 0, 0, 0] n) = none := by
  simp [hopperCheck, opRow, accOps, OpRow.writes, vendorEntry, vendorBuf, BufUse.fits, CmdEntry.bufIn, CmdEntry.bufOut, byte, Config.hostLo,
    within]

/-- Vendor-specific ACC_TX_STOP with no transmission. -/
theorem runCmd_vendorTxStop (hruns : s.pairRuns 0 = true) (hrec : s.sys.recovery = false) (htx : s.acc.accTx = none)
    (hid : ∀ x ∈ s.host.outstanding, x.entry.id ≠ 2 ^ 64 + s.host.hciCnt) (hc : c = vendorEntry (.plain 4) [0, 0, 0, 0] s.host.hciCnt) :
    (vendorTaken s).runCmd 0x0711 c (bodyAccTxStop c) = (vendorTaken s).hciOut 4 [0x0E, 4, 4, 0x11, 0xFE, byte Status.state.code] := by
  subst hc
  have htakes := takes_vendorTaken (op := 0x0711) (c := vendorEntry (.plain 4) [0, 0, 0, 0] s.host.hciCnt) rfl hruns hrec hid
    (hopperCheck_vendorTxStop _) rfl
  have habsent : (vendorTaken s).taken 0x0711 (vendorEntry (.plain 4) [0, 0, 0, 0] s.host.hciCnt) = vendorTaken s :=
    taken_absent (vendorTaken_absent hid)
  have hbody : bodyAccTxStop (vendorEntry (.plain 4) [0, 0, 0, 0] s.host.hciCnt) (vendorTaken s) = .fail .state 0 := by
    refine checked_fail _ ((firstFail_append _ rfl).trans ?_)
    simp only [vendorTaken_acc, htx, Option.isNone_none, firstFail, if_true]
  rw [runCmd_fail htakes (by rw [habsent]; exact hbody), habsent, finish_vendor rfl]
  rfl

/-- Vendor-specific ACC_REG_READ: the page goes nowhere on ring 4. -/
theorem runCmd_vendorRegRead (hruns : s.pairRuns 0 = true) (hrec : s.sys.recovery = false)
    (hid : ∀ x ∈ s.host.outstanding, x.entry.id ≠ 2 ^ 64 + s.host.hciCnt) (hc : c = vendorEntry (.writes 4 128) [0, 0, 0, 0] s.host.hciCnt) :
    (vendorTaken s).runCmd 0x0714 c (bodyAccRegRead c) = (vendorTaken s).hciOut 4 [0x0E, 4, 4, 0x14, 0xFE, 0] := by
  subst hc
  have htakes := takes_vendorTaken (op := 0x0714) (c := vendorEntry (.writes 4 128) [0, 0, 0, 0] s.host.hciCnt) rfl hruns hrec hid
    (hopperCheck_vendorRegRead _) rfl
  have habsent : (vendorTaken s).taken 0x0714 (vendorEntry (.writes 4 128) [0, 0, 0, 0] s.host.hciCnt) = vendorTaken s :=
    taken_absent (vendorTaken_absent hid)
  have hbody : bodyAccRegRead (vendorEntry (.writes 4 128) [0, 0, 0, 0] s.host.hciCnt) (vendorTaken s) =
      .ok (vendorTaken s) [] (some (padTo 128 (vendorTaken s).acc.regPage)) := checked_pass _ rfl
  rw [runCmd_ok htakes (by rw [habsent]; exact hbody)]
  exact finish_vendor rfl _ _ _ _

end Vendor

end Sys2Proof.Proofs
end

section
/-!
SUPPORT. The standard HCI commands with an effect (R299, R312, R338, R351, R427), HCI_Reset (R67), the mean of RSSI readings (R312), and the
end of a rate-limit interval (R61, R75).
-/

namespace Sys2Proof.Proofs

open Sys2Proof Sys2Proof.Machine Sys2Proof.Laws

/-! ### What may start (R338, R427) -/

section Starts

variable {s : State}

theorem anyAllowed_iff (s : State) (v : List Nat) : s.anyAllowed v = true ↔
    pageValid s.acc.regPage = true ∧ ∃ i ∈ v, s.chAllowed (Fin.ofNat 81 (rfChannel i)) = true := by
  simp only [State.anyAllowed, Bool.and_eq_true, List.any_eq_true]

theorem startRefused_limp (h : s.pwr.st = .limp) (v : List Nat) : s.startRefused v = some 0x0C := if_pos (.inl h)

theorem startRefused_run (hst : s.pwr.st ≠ .limp) (hb : s.below 1 = false) (v : List Nat) :
    s.startRefused v = if s.anyAllowed v = false then some 0x11 else none :=
  if_neg fun h => h.elim hst fun hbelow => Bool.false_ne_true (hb.symm.trans hbelow)

variable (op : Nat) (k : HciObs)

theorem hciStandard_advStart_refused {st : Byte} (h : s.startRefused [37, 38, 39] = some st) :
    s.hciStandard op .advStart k = s.hciComplete op [st] := by
  simp only [State.hciStandard, h]

theorem hciStandard_advStart_starts (h : s.startRefused [37, 38, 39] = none) :
    s.hciStandard op .advStart k = ({ s with acc := { s.acc with hostAdv := true } }).hciComplete op [0] := by
  simp only [State.hciStandard, h]
  rfl

theorem hciStandard_chanClass (v : List Nat) : s.hciStandard op (.chanClass v) k = s.hciComplete op
    [if pageValid s.acc.regPage = true ∧ ∃ i ∈ v, s.chAllowed (Fin.ofNat 81 (rfChannel i)) = true then 0 else 0x11] := by
  simp only [State.hciStandard, anyAllowed_iff]

end Starts

/-! ### Lists of the controller (R299) -/

section Lists

variable {α : Type} [DecidableEq α] {n : Nat} {x : α} {l : List α}

theorem addTo_new (hx : x ∉ l) (hn : l.length < n) : addTo n x l = (0, x :: l) := by
  rw [addTo, if_neg hx, if_neg (by omega)]

theorem addTo_full (hx : x ∉ l) (hn : n ≤ l.length) : addTo n x l = (7, l) := by
  rw [addTo, if_neg hx, if_pos hn]

end Lists

section Additions

variable {s : State} (op : Nat) (k : HciObs) {x : Byte × List Byte}

theorem hciStandard_acceptAdd (hx : x ∉ s.acc.acceptList) :
    (s.acc.acceptList.length < 16 → s.hciStandard op (.acceptAdd x) k =
      ({ s with acc := { s.acc with acceptList := x :: s.acc.acceptList } }).hciComplete op [0]) ∧
    (16 ≤ s.acc.acceptList.length → s.hciStandard op (.acceptAdd x) k = s.hciComplete op [7]) := by
  refine ⟨fun hn => ?_, fun hn => ?_⟩
  · simp only [State.hciStandard, addTo_new hx hn]
    rfl
  · simp only [State.hciStandard, addTo_full hx hn]
    rfl

theorem hciStandard_resolvAdd (hx : x ∉ s.acc.resolvList) :
    (s.acc.resolvList.length < 16 → s.hciStandard op (.resolvAdd x) k =
      ({ s with acc := { s.acc with resolvList := x :: s.acc.resolvList } }).hciComplete op [0]) ∧
    (16 ≤ s.acc.resolvList.length → s.hciStandard op (.resolvAdd x) k = s.hciComplete op [7]) := by
  refine ⟨fun hn => ?_, fun hn => ?_⟩
  · simp only [State.hciStandard, addTo_new hx hn]
    rfl
  · simp only [State.hciStandard, addTo_full hx hn]
    rfl

theorem hciStandard_advSet {b : Byte} (m : Int) (hb : b ∉ s.acc.advSets) :
    (s.acc.advSets.length < 4 → s.hciStandard op (.advSet b m) k =
      ({ s with acc := { s.acc with advSets := b :: s.acc.advSets } }).hciComplete op ([0] ++ leInt 1 (s.reachable m k.path))) ∧
    (4 ≤ s.acc.advSets.length → s.hciStandard op (.advSet b m) k = s.hciComplete op ([7] ++ leInt 1 (s.reachable m k.path))) := by
  refine ⟨fun hn => ?_, fun hn => ?_⟩
  · simp only [State.hciStandard, addTo_new hb hn]
    rfl
  · simp only [State.hciStandard, addTo_full hb hn]
    rfl

/-- The power a path reaches is at most what is asked, and its driver stays within +6 dBm. -/
theorem reachable_le {m : Int} (y : Fin 4) (hm : -127 ≤ m) :
    s.reachable m y ≤ m ∧ (s.reachable m y ≠ -127 → s.driver (2 * s.reachable m y) y ≤ 12) := by
  unfold State.reachable
  cases hfind : ((List.range 256).map fun i => m - (i : Int)).find? fun q =>
      decide (s.driver (2 * q) y ≤ 12) && decide (s.capPower (2 * q) = 2 * q) with
  | none => exact ⟨hm, fun h => absurd rfl h⟩
  | some q =>
    have hmem := List.mem_of_find?_eq_some hfind
    have hdriver := List.find?_some hfind
    simp only [bind_pure_comp, List.map_eq_map, List.map_map, List.mem_map] at hmem
    simp only [Bool.and_eq_true, decide_eq_true_eq] at hdriver
    obtain ⟨i, -, hi⟩ := hmem
    have hq : q = m - (i : Int) := hi.symm
    exact ⟨show q ≤ m by omega, fun _ => hdriver.1⟩

end Additions

/-! ### Connections (R299, R350, R351) -/

section Connections

variable {s : State} (op : Nat) (k : HciObs) {h : BitVec 16}

theorem connsUsed_noFlow (hflow : s.cred.flow = none) : s.connsUsed = s.acc.conns.length := by
  simp only [State.connsUsed, hflow, Nat.add_zero]

theorem hciStandard_connect (hstart : s.startRefused dataChans = none) (hflow : s.cred.flow = none) :
    (s.acc.conns.length < 8 → s.hciStandard op .connect k =
      ({ s with acc := { s.acc with conns := { handle := k.handle, slot := k.slot, rssi := [], aa := k.aa } :: s.acc.conns } }).hciStatus op 0) ∧
    (8 ≤ s.acc.conns.length → s.hciStandard op .connect k = s.hciStatus op 9) := by
  simp only [State.hciStandard, hstart, connsUsed_noFlow hflow]
  exact ⟨fun hn => if_neg (by omega), fun hn => if_pos hn⟩

theorem any_handle_iff (l : List Conn) (h : BitVec 16) : (l.any fun g => decide (g.handle = h)) = true ↔ ∃ g ∈ l, g.handle = h := by
  simp only [List.any_eq_true, decide_eq_true_eq]

theorem connGone_noFlow (hflow : s.cred.flow = none) :
    s.connGone h = { s with acc := { s.acc with conns := s.acc.conns.filter fun y => decide (y.handle ≠ h) } } := by
  simp only [State.connGone, State.modAcc, hflow]

theorem hciStandard_disconnect (hflow : s.cred.flow = none) (hex : ∃ g ∈ s.acc.conns, g.handle = h) :
    s.hciStandard op (.disconnect h) k =
      ({ s with acc := { s.acc with conns := s.acc.conns.filter fun y => decide (y.handle ≠ h) } }).hciStatus op 0 := by
  simp only [State.hciStandard, (any_handle_iff s.acc.conns h).mpr hex, if_true, connGone_noFlow hflow]

theorem hciStandard_unknownHandle (hno : ∀ g ∈ s.acc.conns, g.handle ≠ h) :
    s.hciStandard op (.disconnect h) k = s.hciStatus op 2 ∧
      s.hciStandard op (.readRssi h) k = s.hciComplete op ([2] ++ leBytes 2 h.toNat ++ [0]) := by
  have hany : ¬(s.acc.conns.any fun g => decide (g.handle = h)) = true := fun hc =>
    let ⟨g, hg, hh⟩ := (any_handle_iff s.acc.conns h).mp hc
    hno g hg hh
  have hfind : (s.acc.conns.find? fun g => decide (g.handle = h)) = none :=
    List.find?_eq_none.mpr fun g hg => by simpa using hno g hg
  refine ⟨if_neg hany, ?_⟩
  simp only [State.hciStandard, hfind]

theorem hciStandard_readRssi {z : Conn} (hz : (s.acc.conns.find? fun g => decide (g.handle = h)) = some z) :
    s.hciStandard op (.readRssi h) k = s.hciComplete op ([0] ++ leBytes 2 h.toNat ++ leInt 1 (meanRssi z.rssi)) := by
  simp only [State.hciStandard, hz]

theorem hciStandard_cs_ranging {f : Flow} (hf : s.cred.flow = some f) (hstep : f.step = .ranging) :
    s.hciStandard op .csStart k = s.hciStatus op 0x0C ∧ s.hciStandard op .csStop k = s.hciStatus op 0x0C := by
  have hranges : s.flowRanges = true := by simp only [State.flowRanges, hf, hstep, decide_true]
  exact ⟨if_pos hranges, if_pos hranges⟩

theorem hciStandard_csStart (hflow : s.cred.flow = none) (hstart : s.startRefused (dataChans ++ [37, 38, 39]) = none) :
    s.hciStandard op .csStart k = ({ s with acc := { s.acc with hostCs := true } }).hciStatus op 0 := by
  have hranges : s.flowRanges = false := by simp only [State.flowRanges, hflow]
  simp only [State.hciStandard, hranges, hstart, Bool.false_eq_true, if_false]
  rfl

end Connections

/-! ### The mean of RSSI readings (R312) -/

/-- The powers of one decade rise, and the next decade begins above them. -/
theorem pow20_rises : (∀ i < 19, pow20.getD i 0 < pow20.getD (i + 1) 0) ∧ pow20.getD 19 0 < pow20.getD 0 0 * 10 := by
  decide

/-- The power of n half decibels above the least that is tabled. -/
def halfDbPower (n : Nat) : Nat := pow20.getD (n % 20) 0 * 10 ^ (n / 20)

theorem linPower_eq (r : Int) : linPower r = halfDbPower (r + 1000).toNat := rfl

theorem halfDbPower_strictMono : StrictMono halfDbPower := by
  refine strictMono_nat_of_lt_succ fun n => ?_
  obtain ⟨hrise, hdecade⟩ := pow20_rises
  unfold halfDbPower
  by_cases hn : n % 20 < 19
  · have hmod : (n + 1) % 20 = n % 20 + 1 := by omega
    have hdiv : (n + 1) / 20 = n / 20 := by omega
    rw [hmod, hdiv]
    exact Nat.mul_lt_mul_of_pos_right (hrise _ hn) (by positivity)
  · have hmod : n % 20 = 19 := by omega
    have hmod' : (n + 1) % 20 = 0 := by omega
    have hdiv : (n + 1) / 20 = n / 20 + 1 := by omega
    rw [hmod, hmod', hdiv, pow_succ, mul_comm (10 ^ (n / 20)) 10, ← mul_assoc]
    exact Nat.mul_lt_mul_of_pos_right hdecade (by positivity)

theorem linPower_le_iff {a b : Int} (ha : -1000 ≤ a) (hb : -1000 ≤ b) : linPower a ≤ linPower b ↔ a ≤ b := by
  rw [linPower_eq, linPower_eq, halfDbPower_strictMono.le_iff_le]
  omega

/-- The search of a whole dBm from the least upwards ends at the last that the mean reaches. -/
theorem foldl_lastReached (a : Int) (ha : -127 ≤ a) (n : Nat) :
    (List.range n).foldl (fun (best : Int) (i : Nat) => if (i : Int) - 126 ≤ a then (i : Int) - 126 else best) (-127) = min a (n - 127) := by
  induction n with
  | zero => simp [ha]
  | succ n ih =>
    rw [List.range_succ, List.foldl_append, ih, List.foldl_cons, List.foldl_nil]
    split <;> omega

/-- Readings that agree have themselves as their mean. -/
theorem meanRssi_replicate {a : Int} (n : Nat) (hlo : -127 ≤ a) (hhi : a ≤ 20) : meanRssi (List.replicate (n + 1) (2 * a)) = a := by
  have hreached (i : Nat) : (n + 1) * linPower (2 * ((i : Int) - 126)) ≤ (n + 1) * linPower (2 * a) ↔ (i : Int) - 126 ≤ a := by
    rw [Nat.mul_le_mul_left_iff (Nat.succ_pos n), linPower_le_iff (by omega) (by omega)]
    omega
  have hne : (List.replicate (n + 1) (2 * a)).isEmpty = false := rfl
  simp only [meanRssi, hne, Bool.false_eq_true, if_false, List.map_replicate, ← List.sum_eq_foldl, List.sum_replicate, smul_eq_mul,
    List.length_replicate, bind_pure_comp, List.map_eq_map, List.foldl_map, hreached, foldl_lastReached a hlo]
  omega

/-! ### HCI_Reset (R67) -/

/-- What HCI_Reset clears in any case. -/
def controllerCleared (s : State) : State :=
  s.modAcc fun a => { a with
    hostAdv := false, hostScan := false, advSets := [], acceptList := [], resolvList := [], conns := [], hciIn := [] }

/-- The controller after HCI_Reset, a host procedure of channel sounding aside: the receiver closes unless the device itself uses it. -/
def controllerReset (s : State) : State :=
  if s.acc.listening || s.cred.flow.isSome then controllerCleared s
  else (controllerCleared s).modAcc fun a => { a with rxOpen := false, rxClosed := false, cur := none, heldSync := none }

section Reset

variable {s : State}

theorem hciReset_csEnds (s : State) : s.hciReset = (controllerReset s).csEnds.hciComplete 0x0C03 [0] := rfl

/-- What the reset leaves is the access block's, and of it the credential slots' part and the page stay. -/
theorem controllerReset_acc (s : State) : controllerReset s = { s with acc := (controllerReset s).acc } ∧
    (controllerReset s).acc = { s.acc with
      hostAdv := false, hostScan := false, advSets := [], acceptList := [], resolvList := [], conns := [], hciIn := []
      rxOpen := (controllerReset s).acc.rxOpen, rxClosed := (controllerReset s).acc.rxClosed, cur := (controllerReset s).acc.cur
      heldSync := (controllerReset s).acc.heldSync } := by
  unfold controllerReset
  split <;> exact ⟨rfl, rfl⟩

theorem hciReset_noProcedure (h : s.acc.hostCs = false) : s.hciReset = (controllerReset s).hciComplete 0x0C03 [0] := by
  have hcs : ¬(controllerReset s).acc.hostCs = true := by
    rw [(controllerReset_acc s).2]
    exact Bool.eq_false_iff.mp h
  rw [hciReset_csEnds, State.csEnds, if_neg hcs]

theorem controllerReset_listening (h : s.acc.listening = true) : (controllerReset s).acc.rxOpen = s.acc.rxOpen := by
  rw [controllerReset, if_pos (by rw [h, Bool.true_or])]
  rfl

theorem controllerReset_closes (h : s.acc.listening = false) (hflow : s.cred.flow = none) :
    (controllerReset s).acc.rxOpen = false ∧ (controllerReset s).acc.cur = none := by
  rw [controllerReset, if_neg (by simp [h, hflow])]
  exact ⟨rfl, rfl⟩

/-- The entry that carries HCI_Reset reaches the controller. -/
theorem exec_hciReset_reads (h : ReadsNow s) : exec .hciReset s = .next (s.hciTaken.hciTo 1 [0x03, 0x0C, 0x00]).hciReset := by
  refine congrArg Host.Outcome.next ((hciEntry_acts h).trans ?_)
  rw [hciActs_command (e := resetEntry) _ _ rfl (by decide) (by decide)]
  exact (hciPacket_command (o := 0x0C03) (l := []) (by decide) (by decide)).trans rfl

end Reset

/-! ### The end of a rate-limit interval (R61, R75) -/

section RateLimits

variable {s : State} {src inst : Nat}

theorem rateExpire_none (h : (s.evt.rate.find? fun x : RateRec => x.is src inst) = none) : s.rateExpire src inst = s := by
  simp only [State.rateExpire, h]

theorem rateExpire_over {g : RateRec} (h : (s.evt.rate.find? fun x : RateRec => x.is src inst) = some g) (hheld : g.held = false) :
    s.rateExpire src inst = { s with evt := { s.evt with rate := s.evt.rate.filter fun x : RateRec => !x.is src inst } } := by
  simp only [State.rateExpire, h, hheld, Bool.false_eq_true, if_false]
  rfl

/-- The event held back is raised with what was added up, and its interval begins again. -/
theorem rateExpire_raises {g : RateRec} (h : (s.evt.rate.find? fun x : RateRec => x.is src inst) = some g) (hheld : g.held = true) :
    s.rateExpire src inst = State.raise { s with evt := { s.evt with
      rate := s.evt.rate.map fun x : RateRec => if x.is src inst = true then { x with held := false, sum := 0 } else x } }
        src g.code.toNat (s.rateData src inst g.aux g.sum ++ g.tail) := by
  simp only [State.rateExpire, h, hheld, if_true]
  rfl

end RateLimits

/-! ### The obligation -/

/-- Settles O60: an entry by whether it is read, whether it must wait and what its packet is; a standard command by its own answer. -/
theorem hciEntriesReachTheController : Obligations.HciEntriesReachTheController := by
  unfold Obligations.HciEntriesReachTheController
  refine ⟨?_, ?_, ?_, mem_accWaiting, fun s _ => hciTaken_quiet, ?_, ?_, ?_, ?_, fun s o n p => ⟨rfl, rfl⟩, ?_, ?_,
    fun s o k => ⟨rfl, rfl, rfl, rfl⟩, ?_, fun s o k b m => hciStandard_advSet o k m, fun s m y => reachable_le y,
    fun s o k => hciStandard_connect o k, fun s o k h => hciStandard_disconnect o k, fun s o k h => hciStandard_unknownHandle o k,
    fun s o k h z => hciStandard_readRssi o k, ⟨rfl, fun a n => meanRssi_replicate n⟩, ?_, fun s o k f => hciStandard_cs_ranging o k,
    fun s o k => hciStandard_csStart o k, ?_, ?_, ?_⟩
  case refine_1 =>
    intro s e k hruns hrec hup hused hacc hhci hbad
    have hnow := readsNow_of hruns hrec hup hused hacc hhci
    exact ⟨congrArg Host.Outcome.next ((hciEntry_acts hnow).trans (hciActs_bad _ _ ((isBad_iff e).mpr hbad))),
      congrArg Host.Outcome.next ((hciEntry_acts hnow).trans (hciActs_bad _ _ ((isBad_iff e).mpr hbad)))⟩
  case refine_2 =>
    intro s e k h
    exact ⟨congrArg Host.Outcome.next (hciEntry_stays h), congrArg Host.Outcome.next (hciEntry_stays h),
      congrArg Host.Outcome.next (hciEntry_stays h)⟩
  case refine_3 =>
    intro s e k hruns hrec hup hused hwait
    exact congrArg Host.Outcome.next (hciEntry_waits ((hciReads_iff s).mpr ⟨hruns, hrec, hup, hused⟩) hwait)
  case refine_4 =>
    intro s e k p o l row hruns hrec hup hused hacc hhci htype hlo hhi hp hpacket ho hl hvendor hrow
    have hnow := readsNow_of hruns hrec hup hused hacc hhci
    refine congrArg Host.Outcome.next ((hciEntry_acts hnow).trans ?_)
    rw [hciActs_command _ _ htype hlo hhi, hp, hpacket, hciPacket_command ho hl, if_pos hvendor, vendor_defined hrow]
    rfl
  case refine_5 =>
    intro s e k p o l hruns hrec hup hused hacc hhci htype hlo hhi hp hpacket ho hl
    have hnow := readsNow_of hruns hrec hup hused hacc hhci
    have hexec : exec (.hciCommand e k) s = .next (if o / 256 = 0xFE then s.hciTaken.vendor (o % 256) l
        else (s.hciTaken.hciTo 1 p).hciStandard o (hciKind p) k) := by
      refine congrArg Host.Outcome.next ((hciEntry_acts hnow).trans ?_)
      rw [hciActs_command _ _ htype hlo hhi, hp, hpacket, hciPacket_command ho hl]
    rw [hexec]
    refine ⟨fun hstd => ?_, fun hvendor hrow => ?_, ?_, ?_⟩
    · rw [if_neg hstd]
      rfl
    · rw [if_pos hvendor, vendor_undefined hvendor hrow]
    · rintro rfl rfl htx hid
      rw [if_pos rfl, vendor_defined rfl]
      exact congrArg Host.Outcome.next (runCmd_vendorTxStop hruns hrec htx hid rfl)
    · rintro rfl rfl hid
      rw [if_pos rfl, vendor_defined rfl]
      exact congrArg Host.Outcome.next (runCmd_vendorRegRead hruns hrec hid rfl)
  case refine_6 =>
    intro s e k p o hruns hrec hup hused hacc hhci htype hlo hhi hp ho hlen
    have hnow := readsNow_of hruns hrec hup hused hacc hhci
    refine congrArg Host.Outcome.next ((hciEntry_acts hnow).trans ?_)
    rw [hciActs_command _ _ htype hlo hhi, hp, hciPacket_short hlen, packetOp_eq, ho]
  case refine_7 =>
    intro s e p hruns hrec hup hused hacc hhci htype hlo hhi hp
    have hnow := readsNow_of hruns hrec hup hused hacc hhci
    refine congrArg Host.Outcome.next ((hciEntry_acts hnow).trans ?_)
    rw [hciActs_acl _ _ htype hlo hhi, hp]
    rfl
  case refine_8 =>
    intro s o k hst
    exact hciStandard_advStart_refused o k (startRefused_limp hst _)
  case refine_9 =>
    intro s o k hst hbelow
    have hstart := startRefused_run hst hbelow [37, 38, 39]
    refine ⟨fun hpage => ?_, fun hpage hch => ?_⟩
    · have hno : s.anyAllowed [37, 38, 39] = false := by
        rw [Bool.eq_false_iff, ne_eq, anyAllowed_iff, hpage]
        exact fun h => Bool.false_ne_true h.1
      exact hciStandard_advStart_refused o k (hstart.trans (if_pos hno))
    · have hyes : s.anyAllowed [37, 38, 39] = true := (anyAllowed_iff s _).mpr ⟨hpage, 37, List.mem_cons_self, hch⟩
      exact hciStandard_advStart_starts o k (hstart.trans (if_neg (by simp [hyes])))
  case refine_10 =>
    intro s o k x
    exact ⟨hciStandard_acceptAdd o k, hciStandard_resolvAdd o k⟩
  case refine_11 =>
    intro s o k v
    exact ⟨hciStandard_chanClass o k v, rfl⟩
  case refine_12 =>
    intro s hruns hrec hup hused hacc hhci hcs
    have hnow := readsNow_of hruns hrec hup hused hacc hhci
    obtain ⟨t, ht⟩ : ∃ t, t = s.hciTaken.hciTo 1 [0x03, 0x0C, 0x00] := ⟨_, rfl⟩
    have htacc : t.acc = { s.acc with hciIn := (1, [0x03, 0x0C, 0x00]) :: s.acc.hciIn } := by
      rw [ht, ← slotRead_acc s 3]
      rfl
    have hflow : t.cred.flow = s.cred.flow := by
      rw [ht, ← slotRead_cred s 3]
      rfl
    have hexec : exec .hciReset s = .next ((controllerReset t).hciComplete 0x0C03 [0]) := by
      rw [exec_hciReset_reads hnow, ← ht, hciReset_noProcedure (by rw [htacc]; exact hcs)]
    have hframe := controllerReset_acc t
    have hlisten := controllerReset_listening (s := t)
    have hcloses := controllerReset_closes (s := t)
    rw [htacc] at hframe hlisten hcloses
    rw [hflow] at hcloses
    refine ⟨controllerReset t, hexec, ?_, hframe.2, hlisten, hcloses⟩
    rw [hframe.1, ht]
    rfl
  case refine_13 =>
    intro s i j h
    exact congrArg Host.Outcome.next (rateExpire_none h)
  case refine_14 =>
    intro s i j g h
    exact ⟨fun hheld => congrArg Host.Outcome.next (rateExpire_over h hheld), fun hheld => congrArg Host.Outcome.next (rateExpire_raises h hheld)⟩

end Sys2Proof.Proofs
end

section
/-!
SUPPORT. What the proofs about capture share: updates of one Headrace or one feed, and the agreement outside the host and event blocks read
in the blocks that capture reaches.
-/

namespace Sys2Proof.Proofs

open Sys2Proof Sys2Proof.Machine Sys2Proof.Laws

/-! ### Updates of one Headrace or one feed -/

/-- An update counts by what it makes of the entry that is there. -/
theorem upd_congr {α : Type} {n : Nat} {v : Vector α n} {i : Fin n} {f g : α → α} (h : f v[i] = g v[i]) : upd v i f = upd v i g := by
  simp only [upd, h]

theorem upd_id {α : Type} {n : Nat} {v : Vector α n} {i : Fin n} {f : α → α} (h : f v[i] = v[i]) : upd v i f = v := by
  simp only [upd, h]
  exact Vector.set_getElem_self i.isLt

section Updates

variable {s t : State} {n : Fin 4}

theorem modHr_congr {f g : Headrace → Headrace} (h : f s.cap.hr[n] = g s.cap.hr[n]) : s.modHr n f = s.modHr n g := by
  simp only [State.modHr, upd_congr h]

theorem modFeed_congr {f g : Feed → Feed} (h : f s.cap.feed[n] = g s.cap.feed[n]) : s.modFeed n f = s.modFeed n g := by
  simp only [State.modFeed, upd_congr h]

theorem modFeed_id {f : Feed → Feed} (h : f s.cap.feed[n] = s.cap.feed[n]) : s.modFeed n f = s := by
  simp only [State.modFeed, upd_id h]

theorem modFeed_modFeed (s : State) (n : Fin 4) (f g : Feed → Feed) : (s.modFeed n f).modFeed n g = s.modFeed n fun x => g (f x) := by
  simp only [State.modFeed, upd_upd]

theorem modHr_hr_other (f : Headrace → Headrace) {k : Fin 4} (h : k ≠ n) : (s.modHr n f).cap.hr[k] = s.cap.hr[k] :=
  upd_other _ n k f h.symm

@[simp] theorem modFeed_feed_same (s : State) (n : Fin 4) (f : Feed → Feed) : (s.modFeed n f).cap.feed[n] = f s.cap.feed[n] := upd_same _ n f

theorem modFeed_feed_other (f : Feed → Feed) {k : Fin 4} (h : k ≠ n) : (s.modFeed n f).cap.feed[k] = s.cap.feed[k] :=
  upd_other _ n k f h.symm

/-! ### Agreement outside the host and event blocks -/

theorem rest_cap_eq (h : Rest s t) : t.cap = s.cap := congrArg State.cap (a₁ := rest t) (a₂ := rest s) h
theorem rest_cal_eq (h : Rest s t) : t.cal = s.cal := congrArg State.cal (a₁ := rest t) (a₂ := rest s) h
theorem rest_win_eq (h : Rest s t) : t.win = s.win := congrArg State.win (a₁ := rest t) (a₂ := rest s) h
theorem rest_flags_eq (h : Rest s t) : t.flags = s.flags := congrArg State.flags (a₁ := rest t) (a₂ := rest s) h
theorem rest_tlm_eq (h : Rest s t) : t.tlm = s.tlm := congrArg State.tlm (a₁ := rest t) (a₂ := rest s) h

/-- An update of a window respects the agreement. -/
theorem rest_modWin (h : Rest s t) (w : Fin 64) (f : Window → Window) : Rest (s.modWin w f) (t.modWin w f) :=
  congrArg (State.modWin · w f) h

/-- Where the agreement holds up to two blocks, those two, the host and the event block are all that differs. -/
theorem rest_frame_capCal {x : CapBlk} {y : CalBlk} (h : Rest { s with cap := x, cal := y } t) :
    t = { s with host := t.host, evt := t.evt, cap := t.cap, cal := t.cal } := by
  rw [rest_cap_eq h, rest_cal_eq h]
  exact h.eq

theorem rest_frame_capWin {x : CapBlk} {y : WinBlk} (h : Rest { s with cap := x, win := y } t) :
    t = { s with host := t.host, evt := t.evt, cap := t.cap, win := t.win } := by
  rw [rest_cap_eq h, rest_win_eq h]
  exact h.eq

end Updates

end Sys2Proof.Proofs
end

section
/-!
SUPPORT. The Headrace commands (R93 to R95, R107): what each body answers on the state in which its steward finds it, and what a start and a
stop change.
-/

namespace Sys2Proof.Proofs

open Sys2Proof Sys2Proof.Machine Sys2Proof.Laws

variable {s : State} {c : CmdEntry} {hr : Fin 4}

/-! ### CAP_START (R93, R107) -/

section Start

/-- The power that a start asks for is not there: a level below PL2, or PL2 with two Headraces running (R93, R410). -/
def lacksStartPower (s : State) : Bool :=
  s.below 2 || (decide (s.pwr.st ≠ .limp) && decide (s.pwr.level = 2) && decide (2 ≤ s.hrRunning.length))

theorem lacksStartPower_run (hrun : s.pwr.st = .run) : lacksStartPower s = true ↔
    s.pwr.level.toNat < 2 ∨ (s.pwr.level = 2 ∧ 2 ≤ s.hrRunning.length) := by
  simp [lacksStartPower, State.below, hrun]

theorem hasStartPower (hrun : s.pwr.st = .run) (hlevel : 2 ≤ s.pwr.level.toNat) (htwo : s.pwr.level = 2 → s.hrRunning.length < 2) :
    lacksStartPower s = false := by
  rw [Bool.eq_false_iff, ne_eq, lacksStartPower_run hrun]
  rintro (hlow | ⟨h2, hmany⟩)
  · omega
  · exact absurd (htwo h2) (by omega)

theorem onFio_run (hrun : s.pwr.st = .run) : s.onFio = s.clk.lossInRun := by
  simp [State.onFio, hrun]

/-- The gain code that CAP_START asks for (R93). -/
def startGain (c : CmdEntry) (h : Headrace) : Nat := if c.u8 25 = 0xFF then h.gainInit else c.u8 25

/-- The gain control that CAP_START asks for (R93). -/
def startAgc (c : CmdEntry) (h : Headrace) : Bool := if c.u8 26 = 0xFF then h.ctl.getLsbD 0 else decide (c.u8 26 = 1)

/-- The checks behind those of the parameters, and the start where they pass. -/
theorem bodyCapStart_eq (h24 : c.u8 24 = hr.val) (h25 : c.u8 25 ≤ 12 ∨ c.u8 25 = 0xFF) (h26 : c.u8 26 ≤ 1 ∨ c.u8 26 = 0xFF)
    (h27 : c.u8 27 = 0) : bodyCapStart c s =
      checked [(lacksStartPower s, .power, 0), (s.onFio || s.cap.hr[hr].failed, .fault, 0), (s.cap.hr[hr].running, .state, 0)]
        fun _ => .done (s.startHr hr (BitVec.ofNat 4 (startGain c s.cap.hr[hr])) (startAgc c s.cap.hr[hr])) := by
  have hn : cmdHr c = hr := ofNat_eq h24
  have h3 : ¬3 < c.u8 24 := by omega
  have hg : ¬(12 < c.u8 25 ∧ c.u8 25 ≠ 0xFF) := by omega
  have ha : ¬(1 < c.u8 26 ∧ c.u8 26 ≠ 0xFF) := by omega
  simp only [bodyCapStart, hn, checked, firstFail, h3, hg, ha, h27, ne_eq, not_true_eq_false, decide_false, Bool.false_eq_true, if_false]
  rfl

theorem bodyCapStart_starts {g : Nat} {a : Bool} (h24 : c.u8 24 = hr.val) (h25 : c.u8 25 ≤ 12 ∨ c.u8 25 = 0xFF)
    (h26 : c.u8 26 ≤ 1 ∨ c.u8 26 = 0xFF) (h27 : c.u8 27 = 0) (hpow : lacksStartPower s = false) (hfio : s.onFio = false)
    (hfail : s.cap.hr[hr].failed = false) (hstop : s.cap.hr[hr].running = false) (hgain : startGain c s.cap.hr[hr] = g)
    (hagc : startAgc c s.cap.hr[hr] = a) : bodyCapStart c s = .ok (s.startHr hr (BitVec.ofNat 4 g) a) [] none := by
  rw [bodyCapStart_eq h24 h25 h26 h27, hgain, hagc]
  exact checked_pass _ (by simp only [firstFail, hpow, hfio, hfail, hstop, Bool.or_self, Bool.false_eq_true, if_false])

theorem bodyCapStart_power (h24 : c.u8 24 = hr.val) (h25 : c.u8 25 ≤ 12) (h26 : c.u8 26 ≤ 1) (h27 : c.u8 27 = 0)
    (hpow : lacksStartPower s = true) : bodyCapStart c s = .fail .power 0 := by
  rw [bodyCapStart_eq h24 (.inl h25) (.inl h26) h27]
  exact checked_fail _ (by simp only [firstFail, hpow, if_true])

theorem bodyCapStart_failed (h24 : c.u8 24 = hr.val) (h25 : c.u8 25 ≤ 12) (h26 : c.u8 26 ≤ 1) (h27 : c.u8 27 = 0)
    (hpow : lacksStartPower s = false) (hfail : s.cap.hr[hr].failed = true) : bodyCapStart c s = .fail .fault 0 := by
  rw [bodyCapStart_eq h24 (.inl h25) (.inl h26) h27]
  exact checked_fail _ (by simp only [firstFail, hpow, hfail, Bool.or_true, Bool.false_eq_true, if_false, if_true])

theorem bodyCapStart_running (h24 : c.u8 24 = hr.val) (h25 : c.u8 25 ≤ 12) (h26 : c.u8 26 ≤ 1) (h27 : c.u8 27 = 0)
    (hpow : lacksStartPower s = false) (hfio : s.onFio = false) (hfail : s.cap.hr[hr].failed = false) (hon : s.cap.hr[hr].running = true) :
    bodyCapStart c s = .fail .state 0 := by
  rw [bodyCapStart_eq h24 (.inl h25) (.inl h26) h27]
  exact checked_fail _ (by simp only [firstFail, hpow, hfio, hfail, hon, Bool.or_self, Bool.false_eq_true, if_false, if_true])

theorem bodyCapStart_range (h24 : c.u8 24 ≤ 3) (hlo : 13 ≤ c.u8 25) (hhi : c.u8 25 ≤ 254) : bodyCapStart c s = .fail .range 25 := by
  have h3 : ¬3 < c.u8 24 := by omega
  have hg : 12 < c.u8 25 ∧ c.u8 25 ≠ 0xFF := by omega
  simp only [bodyCapStart]
  exact checked_fail _ (by simp only [firstFail, h3, hg, ne_eq, not_false_eq_true, and_self, decide_false, decide_true,
    Bool.false_eq_true, if_false, if_true])

/-- What a start sets in the Headrace (R93). -/
def startedHr (gain : BitVec 4) (agc : Bool) (h : Headrace) : Headrace :=
  { h with running := true, output := false, govStop := false, gain := gain, agc := agc, clipNow := 0
           lowMs := 0, gainSet := false, clockOut := false }

/-- With AUTO_A clear a start begins no calibration run. -/
theorem startHr_plain (hauto : s.cal.cfg.getLsbD 8 = false) (gain : BitVec 4) (agc : Bool) :
    s.startHr hr gain agc = s.modHr hr (startedHr gain agc) := by
  have hoff : (s.modHr hr (startedHr gain agc)).autoA = false := hauto
  change (s.modHr hr (startedHr gain agc)).calAtStart hr = _
  simp only [State.calAtStart, hoff, Bool.false_and, Bool.false_eq_true, if_false]

/-- A calibration run that a start begins is the calibration block's alone. -/
theorem startHr_eq (s : State) (hr : Fin 4) (gain : BitVec 4) (agc : Bool) :
    ∃ b : CalBlk, s.startHr hr gain agc = { s.modHr hr (startedHr gain agc) with cal := b } := by
  unfold State.startHr State.calAtStart
  split
  · exact ⟨_, rfl⟩
  · exact ⟨_, rfl⟩

/-- A start with explicit parameters, while AUTO_A is clear. -/
theorem capStart_explicit {g a : Nat} (h : s.takes 0x0201 c = true) (h24 : c.u8 24 = hr.val) (h25 : c.u8 25 = g) (hg : g ≤ 12)
    (h26 : c.u8 26 = a) (ha : a ≤ 1) (h27 : c.u8 27 = 0) (hrun : s.pwr.st = .run) (hlevel : 2 ≤ s.pwr.level.toNat)
    (htwo : s.pwr.level = 2 → s.hrRunning.length < 2) (hpll : s.clk.lossInRun = false) (hfail : s.cap.hr[hr].failed = false)
    (hstop : s.cap.hr[hr].running = false) (hauto : s.cal.cfg.getLsbD 8 = false) : exec (.capStart c) s =
      .next (((s.taken 0x0201 c).modHr hr (startedHr (BitVec.ofNat 4 g) (decide (a = 1)))).completesOk 0x0201 c [] none) := by
  subst h25 h26
  have hbody := bodyCapStart_starts (s := s.taken 0x0201 c) h24 (.inl hg) (.inl ha) h27 (hasStartPower hrun hlevel htwo)
    ((onFio_run hrun).trans hpll) hfail hstop (if_neg (by omega)) (if_neg (by omega))
  rw [startHr_plain (s := s.taken 0x0201 c) hauto] at hbody
  exact congrArg Host.Outcome.next (runCmd_ok h hbody)

/-- A Headrace that starts with its own GAIN_INIT and gain control. -/
def defaultStarted (h : Headrace) : Headrace := startedHr (BitVec.ofNat 4 h.gainInit) (h.ctl.getLsbD 0) h

/-- A start with GAIN_INIT and the gain control of HR_CTL, whatever AUTO_A is. -/
theorem capStart_default (h : s.takes 0x0201 c = true) (h24 : c.u8 24 = hr.val) (h25 : c.u8 25 = 0xFF) (h26 : c.u8 26 = 0xFF)
    (h27 : c.u8 27 = 0) (hrun : s.pwr.st = .run) (hlevel : 2 ≤ s.pwr.level.toNat) (htwo : s.pwr.level = 2 → s.hrRunning.length < 2)
    (hpll : s.clk.lossInRun = false) (hfail : s.cap.hr[hr].failed = false) (hstop : s.cap.hr[hr].running = false) :
    ∃ u : State, exec (.capStart c) s = .next u ∧ u.cap = (s.modHr hr defaultStarted).cap ∧
      u = { s with host := u.host, evt := u.evt, cap := u.cap, cal := u.cal } := by
  have hbody := bodyCapStart_starts (s := s.taken 0x0201 c) h24 (.inr h25) (.inr h26) h27 (hasStartPower hrun hlevel htwo)
    ((onFio_run hrun).trans hpll) hfail hstop (if_pos h25) (if_pos h26)
  obtain ⟨b, hb⟩ := startHr_eq (s.taken 0x0201 c) hr (BitVec.ofNat 4 s.cap.hr[hr].gainInit) (s.cap.hr[hr].ctl.getLsbD 0)
  have hmod : (s.taken 0x0201 c).modHr hr (startedHr (BitVec.ofNat 4 s.cap.hr[hr].gainInit) (s.cap.hr[hr].ctl.getLsbD 0)) =
    (s.taken 0x0201 c).modHr hr defaultStarted := modHr_congr rfl
  rw [hmod] at hb
  have hstart : Rest { s.modHr hr defaultStarted with cal := b } ((s.taken 0x0201 c).startHr hr _ _) :=
    (congrArg rest hb).trans (congrArg (fun x : State => { x.modHr hr defaultStarted with cal := b }) (taken_rest s 0x0201 c))
  have hu := rest_finish hstart 0x0201 c .ok 0 [] none
  refine ⟨_, congrArg Host.Outcome.next (runCmd_ok h hbody), (rest_cap_eq hu).trans rfl, ?_⟩
  exact rest_frame_capCal hu

end Start

/-! ### CAP_STOP (R94, R95, R107) -/

section Stop

/-- Reserved bytes 26 and 27 that are 0 pass. -/
theorem firstFail_rsvd_26_27 (h26 : c.u8 26 = 0) (h27 : c.u8 27 = 0) : firstFail (rsvdBytes c 26 27) = none := by
  refine firstFail_rsvdBytes fun i hi => ?_
  obtain rfl | rfl : i = 0 ∨ i = 1 := by omega
  · exact h26
  · exact h27

/-- A Headrace, a choice of two and two reserved bytes: what the parameters of CAP_STOP and CAP_MODULE are checked for. -/
theorem firstFail_twoParams (h24 : c.u8 24 ≤ 3) (h25 : c.u8 25 ≤ 1) (h26 : c.u8 26 = 0) (h27 : c.u8 27 = 0) :
    firstFail ([(decide (3 < c.u8 24), .range, 24), (decide (1 < c.u8 25), .range, 25)] ++ rsvdBytes c 26 27) = none := by
  have h3 : ¬3 < c.u8 24 := by omega
  have h1 : ¬1 < c.u8 25 := by omega
  rw [firstFail_append _ (by simp only [firstFail, h3, h1, decide_false, Bool.false_eq_true, if_false]), firstFail_rsvd_26_27 h26 h27]

/-- No window has a leg on the Headrace, whatever the preset. -/
theorem legOn_none (h : s.windowsOn hr = []) (p : Nat → Bool) : s.legOn hr p = false := by
  simp only [State.legOn, h, List.any_nil]

theorem legOn_any (h : s.windowsOn hr ≠ []) : s.legOn hr (fun _ => true) = true := by
  obtain ⟨w, hw⟩ := List.exists_mem_of_ne_nil _ h
  exact List.any_eq_true.mpr ⟨w, hw, rfl⟩

theorem bodyCapStop_eq (h24 : c.u8 24 = hr.val) (h25 : c.u8 25 ≤ 1) (h26 : c.u8 26 = 0) (h27 : c.u8 27 = 0) : bodyCapStop c s =
    checked [(!s.cap.hr[hr].running && !s.cap.hr[hr].govStop, .state, 0),
        (s.cap.hr[hr].running && decide (c.u8 25 = 0) && s.legOn hr (fun _ => true), .busy, 0)]
      fun _ => if s.cap.hr[hr].running then .done (s.stopHr hr) else .done (s.modHr hr fun h => { h with govStop := false }) := by
  have hn : cmdHr c = hr := ofNat_eq h24
  have hpass := firstFail_twoParams (c := c) (by omega) h25 h26 h27
  simp only [bodyCapStop, hn, checked, firstFail_append _ hpass]

theorem bodyCapStop_stops (h24 : c.u8 24 = hr.val) (h25 : c.u8 25 ≤ 1) (h26 : c.u8 26 = 0) (h27 : c.u8 27 = 0)
    (hrun : s.cap.hr[hr].running = true) (hlegs : c.u8 25 = 1 ∨ s.windowsOn hr = []) : bodyCapStop c s = .ok (s.stopHr hr) [] none := by
  have hfree : (decide (c.u8 25 = 0) && s.legOn hr (fun _ => true)) = false := by
    obtain hforce | hnone := hlegs
    · rw [hforce]
      rfl
    · rw [legOn_none hnone, Bool.and_false]
  rw [bodyCapStop_eq h24 h25 h26 h27, checked_pass]
  · rw [if_pos hrun, Answer.done]
  · simp only [firstFail, hrun, hfree, Bool.not_true, Bool.false_and, Bool.true_and, Bool.false_eq_true, if_false]

theorem bodyCapStop_busy (h24 : c.u8 24 = hr.val) (h25 : c.u8 25 = 0) (h26 : c.u8 26 = 0) (h27 : c.u8 27 = 0)
    (hrun : s.cap.hr[hr].running = true) (hlegs : s.windowsOn hr ≠ []) : bodyCapStop c s = .fail .busy 0 := by
  rw [bodyCapStop_eq h24 (by omega) h26 h27]
  exact checked_fail _ (by simp only [firstFail, hrun, h25, legOn_any hlegs, Bool.not_true, Bool.false_and, decide_true, Bool.and_self,
    Bool.false_eq_true, if_false, if_true])

/-- A Headrace that does not run: a start that waits for the governor is dropped, else there is nothing to stop. -/
theorem bodyCapStop_stopped (h24 : c.u8 24 = hr.val) (h25 : c.u8 25 ≤ 1) (h26 : c.u8 26 = 0) (h27 : c.u8 27 = 0)
    (hrun : s.cap.hr[hr].running = false) : bodyCapStop c s =
      if s.cap.hr[hr].govStop = true then .ok (s.modHr hr fun h => { h with govStop := false }) [] none else .fail .state 0 := by
  rw [bodyCapStop_eq h24 h25 h26 h27]
  cases hgov : s.cap.hr[hr].govStop with
  | true =>
    rw [checked_pass _ (by simp only [firstFail, hrun, Bool.not_true, Bool.and_false, Bool.false_and, Bool.false_eq_true, if_false]),
      if_neg (by rw [hrun]; exact Bool.false_ne_true), if_pos rfl, Answer.done]
  | false =>
    rw [if_neg Bool.false_ne_true]
    exact checked_fail _ (by simp only [firstFail, hrun, Bool.not_false, Bool.and_self, if_true])

/-- Legs that lose their Headrace change their windows and what the host is told. -/
theorem rest_legsStopped (s : State) (hr : Fin 4) : ∃ b : WinBlk, Rest { s with win := b } (s.legsStopped hr) := by
  unfold State.legsStopped
  refine List.foldlRecOn (motive := fun t => ∃ b : WinBlk, Rest { s with win := b } t) (s.windowsOn hr) _ ⟨s.win, Rest.refl s⟩ ?_
  intro t ⟨b, ht⟩ w _
  dsimp only
  split
  · exact ⟨b, ht⟩
  · exact ⟨_, rest_raise (rest_modWin ht w _) _ _ _⟩

theorem calAAbandonOn_none (h : s.cal.aRun = none) (hr : Fin 4) : s.calAAbandonOn hr = s := by
  simp only [State.calAAbandonOn, h]

/-- What a stop leaves of the Headrace (R79, R94). -/
def stoppedHr (h : Headrace) : Headrace := { h.laneBack with running := false, output := false, clockOut := false }

theorem rest_stopHr (h : s.cal.aRun = none) : ∃ b : WinBlk, Rest { s.modHr hr stoppedHr with win := b } (s.stopHr hr) := by
  simp only [State.stopHr, calAAbandonOn_none h]
  exact rest_legsStopped _ hr

/-- A stop of a running Headrace with no calibration run in progress. -/
theorem capStop_stops (h : s.takes 0x0202 c = true) (h24 : c.u8 24 = hr.val) (h25 : c.u8 25 ≤ 1) (h26 : c.u8 26 = 0) (h27 : c.u8 27 = 0)
    (hrun : s.cap.hr[hr].running = true) (hlegs : c.u8 25 = 1 ∨ s.windowsOn hr = []) (hcal : s.cal.aRun = none) :
    ∃ u : State, exec (.capStop c) s = .next u ∧ u.cap = (s.modHr hr stoppedHr).cap ∧
      (∀ k : Fin 4, k ≠ hr → u.cap.hr[k] = s.cap.hr[k]) ∧ u = { s with host := u.host, evt := u.evt, cap := u.cap, win := u.win } := by
  have hbody := bodyCapStop_stops (s := s.taken 0x0202 c) h24 h25 h26 h27 hrun hlegs
  obtain ⟨b, hb⟩ := rest_stopHr (s := s.taken 0x0202 c) (hr := hr) hcal
  have hmod : Rest { s.modHr hr stoppedHr with win := b } { (s.taken 0x0202 c).modHr hr stoppedHr with win := b } :=
    congrArg (fun x : State => ({ x.modHr hr stoppedHr with win := b } : State)) (taken_rest s 0x0202 c)
  have hu := rest_finish (rest_trans hmod hb) 0x0202 c .ok 0 [] none
  have hcap := (rest_cap_eq hu).trans (b := (s.modHr hr stoppedHr).cap) rfl
  refine ⟨_, congrArg Host.Outcome.next (runCmd_ok h hbody), hcap, fun k hk => ?_, rest_frame_capWin hu⟩
  rw [State.completesOk, hcap, modHr_hr_other _ hk]

end Stop

/-! ### CAP_GAIN (R73, R76, R107) -/

section Gain

theorem bodyCapGain_pass (h24 : c.u8 24 = hr.val) (h25 : c.u8 25 ≤ 12) (h26 : c.u8 26 ≤ 1) (h27 : c.u8 27 = 0) (hfio : s.onFio = false)
    (hrun : s.cap.hr[hr].running = true) : bodyCapGain c s = .ok (s.modHr hr fun h => { h with
      gain := BitVec.ofNat 4 (c.u8 25), agc := decide (c.u8 26 = 1), gainSet := true, lowMs := 0 }) [] none := by
  have hn : cmdHr c = hr := ofNat_eq h24
  have h3 : ¬3 < c.u8 24 := by omega
  have hg : ¬12 < c.u8 25 := by omega
  have ha : ¬1 < c.u8 26 := by omega
  simp only [bodyCapGain, hn]
  exact checked_pass _ (by simp only [firstFail, h3, hg, ha, h27, hfio, hrun, ne_eq, not_true_eq_false, decide_false, Bool.not_true,
    Bool.false_eq_true, if_false])

end Gain

/-! ### CAP_RACE (R82, R86, R107) -/

section Centre

/-- A race that CAP_RACE names: 1 the V race, 2 the B race. -/
theorem bodyCapRace_eq (h24 : c.u8 24 ≤ 3) (h25 : c.u8 25 = 1 ∨ c.u8 25 = 2) (h26 : c.u8 26 = 0) (h27 : c.u8 27 = 0) : bodyCapRace c s =
    checked [(!centreOk (c.u8 25) (c.u32 28), .range, 28),
        (s.legOn (cmdHr c) (fun p => if decide (c.u8 25 = 1) then p = 3 ∨ p = 4 else p = 5), .busy, 0)] fun _ =>
      .done (s.modHr (cmdHr c) fun h =>
        if decide (c.u8 25 = 1) then { h with vCentre := BitVec.ofNat 32 (c.u32 28), vSettling := h.running, vSpan := h.vSpan || h.running }
        else { h with bCentre := BitVec.ofNat 32 (c.u32 28), bSettling := h.running, bSpan := h.bSpan || h.running }) := by
  have h3 : ¬3 < c.u8 24 := by omega
  have hrace : within 1 2 (c.u8 25) = true := (within_iff _ _ _).mpr (by omega)
  have hpass : firstFail ([(decide (3 < c.u8 24), .range, 24), (!within 1 2 (c.u8 25), .range, 25)] ++ rsvdBytes c 26 27) = none := by
    rw [firstFail_append _ (by simp only [firstFail, h3, hrace, decide_false, Bool.not_true, Bool.false_eq_true, if_false]),
      firstFail_rsvd_26_27 h26 h27]
  simp only [bodyCapRace, checked, firstFail_append _ hpass]

/-- The V race: the centre within its range, and no V leg open. -/
theorem bodyCapRace_v (h24 : c.u8 24 = hr.val) (h25 : c.u8 25 = 1) (h26 : c.u8 26 = 0) (h27 : c.u8 27 = 0) (hlo : 10000 ≤ c.u32 28)
    (hhi : c.u32 28 ≤ 24000) (hlegs : s.windowsOn hr = []) : bodyCapRace c s = .ok (s.modHr hr fun h => { h with
      vCentre := BitVec.ofNat 32 (c.u32 28), vSettling := h.running, vSpan := h.vSpan || h.running }) [] none := by
  have hok : centreOk 1 (c.u32 28) = true := (within_iff _ _ _).mpr ⟨hlo, hhi⟩
  have hn : cmdHr c = hr := ofNat_eq h24
  rw [bodyCapRace_eq (by omega) (.inl h25) h26 h27, hn, h25, checked_pass _ (by simp only [firstFail, hok, legOn_none hlegs, Bool.not_true,
    Bool.false_eq_true, if_false])]
  rfl

/-- The B race: the centre within its range, and no B leg open. -/
theorem bodyCapRace_b (h24 : c.u8 24 = hr.val) (h25 : c.u8 25 = 2) (h26 : c.u8 26 = 0) (h27 : c.u8 27 = 0) (hlo : 32000 ≤ c.u32 28)
    (hhi : c.u32 28 ≤ 49000) (hlegs : s.windowsOn hr = []) : bodyCapRace c s = .ok (s.modHr hr fun h => { h with
      bCentre := BitVec.ofNat 32 (c.u32 28), bSettling := h.running, bSpan := h.bSpan || h.running }) [] none := by
  have hok : centreOk 2 (c.u32 28) = true := (within_iff _ _ _).mpr ⟨hlo, hhi⟩
  have hn : cmdHr c = hr := ofNat_eq h24
  rw [bodyCapRace_eq (by omega) (.inr h25) h26 h27, hn, h25, checked_pass _ (by simp only [firstFail, hok, legOn_none hlegs, Bool.not_true,
    Bool.false_eq_true, if_false])]
  rfl

theorem bodyCapRace_range (h24 : c.u8 24 ≤ 3) (h25 : c.u8 25 = 1) (h26 : c.u8 26 = 0) (h27 : c.u8 27 = 0)
    (hout : c.u32 28 < 10000 ∨ 24000 < c.u32 28) : bodyCapRace c s = .fail .range 28 := by
  have hbad : centreOk 1 (c.u32 28) = false := by
    rw [Bool.eq_false_iff, ne_eq, centreOk, if_pos rfl, within_iff]
    omega
  rw [bodyCapRace_eq h24 (.inl h25) h26 h27, h25]
  exact checked_fail _ (by simp only [firstFail, hbad, Bool.not_false, if_true])

/-- An open V leg refuses a V centre. -/
theorem bodyCapRace_busy {win : Fin 64} (h24 : c.u8 24 = hr.val) (h25 : c.u8 25 = 1) (h26 : c.u8 26 = 0) (h27 : c.u8 27 = 0)
    (hlo : 10000 ≤ c.u32 28) (hhi : c.u32 28 ≤ 24000) (hwin : win ∈ s.windowsOn hr)
    (hpreset : s.win.win[win].preset = 3 ∨ s.win.win[win].preset = 4) : bodyCapRace c s = .fail .busy 0 := by
  have hok : centreOk 1 (c.u32 28) = true := (within_iff _ _ _).mpr ⟨hlo, hhi⟩
  have hn : cmdHr c = hr := ofNat_eq h24
  have hleg : s.legOn hr (fun p => if decide (1 = 1) then p = 3 ∨ p = 4 else p = 5) = true :=
    List.any_eq_true.mpr ⟨win, hwin, by simpa using hpreset⟩
  rw [bodyCapRace_eq (by omega) (.inl h25) h26 h27, hn, h25]
  exact checked_fail _ (by rw [firstFail, hok, Bool.not_true, if_neg Bool.false_ne_true, firstFail, if_pos hleg])

end Centre

/-- Settles O34: each command by what its body answers on the state in which its steward finds it. -/
theorem captureCommandsComplete : Obligations.CaptureCommandsComplete := by
  unfold Obligations.CaptureCommandsComplete
  refine ⟨fun _ _ _ _ _ => capStart_explicit, fun _ _ _ => capStart_default, ?_, ?_, ?_, ?_, fun _ _ _ => capStop_stops,
    ?_, ?_, ?_, ?_, ?_, ?_, ?_⟩
  case refine_1 =>
    intro s c hr h h24 h25 h26 h27 hrun hpow
    exact congrArg Host.Outcome.next (runCmd_fail h (bodyCapStart_power h24 h25 h26 h27 ((lacksStartPower_run hrun).mpr hpow)))
  case refine_2 =>
    intro s c hr h h24 h25 h26 h27 hrun hlevel htwo hfail
    exact congrArg Host.Outcome.next (runCmd_fail h (bodyCapStart_failed h24 h25 h26 h27 (hasStartPower hrun hlevel htwo) hfail))
  case refine_3 =>
    intro s c hr h h24 h25 h26 h27 hrun hlevel htwo hpll hfail hon
    exact congrArg Host.Outcome.next (runCmd_fail h (bodyCapStart_running h24 h25 h26 h27 (hasStartPower hrun hlevel htwo)
      ((onFio_run hrun).trans hpll) hfail hon))
  case refine_4 =>
    intro s c h h24 hlo hhi
    exact congrArg Host.Outcome.next (runCmd_fail h (bodyCapStart_range h24 hlo hhi))
  case refine_5 =>
    intro s c hr h h24 h25 h26 h27 hon hlegs
    exact congrArg Host.Outcome.next (runCmd_fail h (bodyCapStop_busy h24 h25 h26 h27 hon hlegs))
  case refine_6 =>
    intro s c hr h h24 h25 h26 h27 hoff
    have hbody := bodyCapStop_stopped (s := s.taken 0x0202 c) h24 h25 h26 h27 hoff
    refine congrArg Host.Outcome.next ?_
    split at hbody
    · exact (runCmd_ok h hbody).trans (if_pos ‹_›).symm
    · exact (runCmd_fail h hbody).trans (if_neg ‹_›).symm
  case refine_7 =>
    intro s c hr g a h h24 h25 hg h26 ha h27 hrun hpll hon
    subst h25 h26
    exact congrArg Host.Outcome.next (runCmd_ok h (bodyCapGain_pass (s := s.taken 0x0203 c) h24 hg ha h27 ((onFio_run hrun).trans hpll) hon))
  case refine_8 =>
    intro s c hr h h24 h25 h26 h27 hlo hhi hlegs
    exact congrArg Host.Outcome.next (runCmd_ok h (bodyCapRace_v (s := s.taken 0x0204 c) h24 h25 h26 h27 hlo hhi hlegs))
  case refine_9 =>
    intro s c hr h h24 h25 h26 h27 hlo hhi hlegs
    exact congrArg Host.Outcome.next (runCmd_ok h (bodyCapRace_b (s := s.taken 0x0204 c) h24 h25 h26 h27 hlo hhi hlegs))
  case refine_10 =>
    intro s c h h24 h25 h26 h27 hout
    exact congrArg Host.Outcome.next (runCmd_fail h (bodyCapRace_range h24 h25 h26 h27 hout))
  case refine_11 =>
    intro s c hr win h h24 h25 h26 h27 hlo hhi hwin hpreset
    exact congrArg Host.Outcome.next (runCmd_fail h (bodyCapRace_busy (s := s.taken 0x0204 c) h24 h25 h26 h27 hlo hhi hwin hpreset))

end Sys2Proof.Proofs
end


section
/-!
SUPPORT. The antenna feeds (R96 to R98, R107): switching on and off, the commands that wait for a ramp, and the protection of a feed.
-/

namespace Sys2Proof.Proofs

open Sys2Proof Sys2Proof.Machine Sys2Proof.Laws

variable {s : State} {c : CmdEntry} {hr : Fin 4}

/-! ### Flags and events -/

@[simp] theorem setFlag_cap (s : State) (k : Fin 83) (b : Nat) : (s.setFlag k b).cap = s.cap := rfl

/-- A flag that the hardware sets reads 1. -/
theorem flag_setFlag (s : State) (k : Fin 83) {b : Nat} (hb : b < 32) : (s.setFlag k b).flag k b = true := by
  have hword : (s.setFlag k b).flags[k] = s.flags[k] ||| BitVec.ofNat 32 (2 ^ b) := upd_same s.flags k _
  have hbit : (BitVec.ofNat 32 (2 ^ b)).getLsbD b = true := by
    simp only [BitVec.getLsbD_ofNat, hb, decide_true, Nat.testBit_two_pow_self, Bool.and_self]
  rw [State.flag, hword, BitVec.getLsbD_or, hbit, Bool.or_true]

theorem rest_feedEvent (s : State) (n : Fin 4) (code : Nat) (more : List Byte) : Rest s (s.feedEvent n code more) :=
  rest_raise (Rest.refl s) _ _ _

/-! ### The commands that wait for a ramp (R96, R107) -/

theorem endFeedCmd_eq {ids : List Nat} (h : s.cap.feed[hr].waiting = ids) (st : Status) : s.endFeedCmd hr st =
    ids.foldl (fun s k => s.finishSlot 0x0205 k st 0 [] none) (s.modFeed hr fun f => { f with waiting := [] }) := by
  simp only [State.endFeedCmd, h]

/-- With none waiting nothing ends. -/
theorem endFeedCmd_none (h : s.cap.feed[hr].waiting = []) (st : Status) : s.endFeedCmd hr st = s := by
  rw [endFeedCmd_eq h, List.foldl_nil]
  exact modFeed_id (by rw [← h])

@[simp] theorem off_waiting (f : Feed) (now : D) (st : FeedState) : (f.off now st).waiting = f.waiting := by
  unfold Feed.off
  split <;> rfl

/-! ### CAP_FEED (R96, R97, R107) -/

section Switch

theorem bytes_four {w x y z : Byte} (h : c.bytes 24 4 = [w, x, y, z]) :
    c.u8 24 = w.toNat ∧ c.u8 25 = x.toNat ∧ c.u8 26 = y.toNat ∧ c.u8 27 = z.toNat :=
  ⟨u8_of_bytes h (i := 0) (by decide) (by decide), u8_of_bytes h (i := 1) (by decide) (by decide),
    u8_of_bytes h (i := 2) (by decide) (by decide), u8_of_bytes h (i := 3) (by decide) (by decide)⟩

theorem byte_fin4 (n : Fin 4) : (byte n.val).toNat = n.val := byte_toNat (by omega)

/-- A feed that CAP_FEED switches on at a voltage. -/
def switchedOn (now : D) (v id : Nat) (f : Feed) : Feed :=
  { f.rampUp now with volt := BitVec.ofNat 8 v, retries := 0, shorted := false, waiting := f.waiting ++ [id] }

/-- A feed that CAP_FEED switches off. -/
def switchedOff (now : D) (f : Feed) : Feed := { f.off now .off with wanted := false, retries := 0, shorted := false }

theorem capFeedChecks_pass (h24 : c.u8 24 ≤ 3) (h25 : c.u8 25 ≤ 1) (h26 : c.u8 26 = 0 ∨ (50 ≤ c.u8 26 ∧ c.u8 26 ≤ 120))
    (h27 : c.u8 27 = 0) :
    firstFail [(decide (3 < c.u8 24), .range, 24), (decide (1 < c.u8 25), .range, 25),
      (decide (c.u8 26 ≠ 0) && !within 50 120 (c.u8 26), .range, 26), (decide (c.u8 27 ≠ 0), .range, 27)] = none := by
  have h3 : ¬3 < c.u8 24 := by omega
  have h1 : ¬1 < c.u8 25 := by omega
  have hv : (decide (c.u8 26 ≠ 0) && !within 50 120 (c.u8 26)) = false := by
    obtain h0 | hin := h26
    · simp [h0]
    · simp [(within_iff _ _ _).mpr hin]
  simp only [firstFail, h3, h1, hv, h27, ne_eq, not_true_eq_false, decide_false, Bool.false_eq_true, if_false]

theorem bodyCapFeed_on (h24 : c.u8 24 = hr.val) (h25 : c.u8 25 = 1) (hlo : 50 ≤ c.u8 26) (hhi : c.u8 26 ≤ 120) (h27 : c.u8 27 = 0) :
    bodyCapFeed c s = .wait (s.modFeed hr (switchedOn s.sys.timeUs (c.u8 26) c.id)) := by
  have hn : cmdHr c = hr := ofNat_eq h24
  have hv : ¬c.u8 26 = 0 := by omega
  simp only [bodyCapFeed, hn]
  rw [checked_pass _ (capFeedChecks_pass (by omega) (by omega) (.inr ⟨hlo, hhi⟩) h27), if_pos h25]
  simp only [if_neg hv]
  rfl

theorem bodyCapFeed_off (h24 : c.u8 24 = hr.val) (h25 : c.u8 25 = 0) (h26 : c.u8 26 = 0) (h27 : c.u8 27 = 0) :
    bodyCapFeed c s = .ok ((s.modFeed hr (switchedOff s.sys.timeUs)).endFeedCmd hr .aborted) [] none := by
  have hn : cmdHr c = hr := ofNat_eq h24
  simp only [bodyCapFeed, hn]
  rw [checked_pass _ (capFeedChecks_pass (by omega) (by omega) (.inl h26) h27), if_neg (by omega)]
  rfl

theorem bodyCapFeed_range (h24 : c.u8 24 ≤ 3) (h25 : c.u8 25 ≤ 1) (h26 : c.u8 26 ≠ 0) (hout : c.u8 26 < 50 ∨ 120 < c.u8 26) :
    bodyCapFeed c s = .fail .range 26 := by
  have h3 : ¬3 < c.u8 24 := by omega
  have h1 : ¬1 < c.u8 25 := by omega
  have hbad : within 50 120 (c.u8 26) = false := by
    rw [Bool.eq_false_iff, ne_eq, within_iff]
    omega
  simp only [bodyCapFeed]
  exact checked_fail _ (by simp only [firstFail, h3, h1, h26, hbad, ne_eq, not_false_eq_true, decide_false, decide_true, Bool.not_false,
    Bool.and_self, Bool.false_eq_true, if_false, if_true])

theorem rampUp_off {f : Feed} (h : f.on = false) (now : D) : f.rampUp now = { f with
    on := true, st := .ramping, onSince := now, noModuleRaised := false
    mramCycles := if f.mramId ≠ [] ∧ 1800000000 ≤ (now - f.offSince).toNat then f.mramCycles + 1 else f.mramCycles } :=
  if_neg (by rw [h]; exact Bool.false_ne_true)

@[simp] theorem rampUp_st (f : Feed) (now : D) : (f.rampUp now).st = .ramping := by
  unfold Feed.rampUp
  split <;> rfl

/-- A feed that was off ramps up, and the command waits for the ramp. -/
theorem capFeed_on {v : Nat} (h : s.takes 0x0205 c = true) (hb : c.bytes 24 4 = [byte hr.val, 1, byte v, 0]) (hlo : 50 ≤ v) (hhi : v ≤ 120)
    (hoff : s.cap.feed[hr].on = false) : ∃ u : State, exec (.capFeed c) s = .next u ∧
      u.cap.feed[hr] = switchedOn s.sys.timeUs v c.id s.cap.feed[hr] ∧ u.cap.hr = s.cap.hr ∧
      (∀ n : Fin 4, n ≠ hr → u.cap.feed[n] = s.cap.feed[n]) ∧ u = { s with host := u.host, cap := u.cap } := by
  obtain ⟨h24, h25, h26, h27⟩ := bytes_four hb
  rw [byte_toNat (by omega)] at h26
  subst h26
  have hbody := bodyCapFeed_on (s := s.taken 0x0205 c) (h24.trans (byte_fin4 hr)) h25 hlo hhi h27
  exact ⟨_, congrArg Host.Outcome.next (runCmd_wait h hbody), modFeed_feed_same s hr _, rfl, fun n hn => modFeed_feed_other _ hn, rfl⟩

/-- A feed switches off at once; the CAP_FEEDs that wait for its ramp end. -/
theorem capFeed_off (h : s.takes 0x0205 c = true) (hb : c.bytes 24 4 = [byte hr.val, 0, 0, 0]) : exec (.capFeed c) s = .next
    ((s.cap.feed[hr].waiting.foldl (fun s k => s.finishSlot 0x0205 k .aborted 0 [] none) ((s.taken 0x0205 c).modFeed hr fun f =>
      { switchedOff s.sys.timeUs f with waiting := [] })).completesOk 0x0205 c [] none) := by
  obtain ⟨h24, h25, h26, h27⟩ := bytes_four hb
  have hbody := bodyCapFeed_off (s := s.taken 0x0205 c) (h24.trans (byte_fin4 hr)) h25 h26 h27
  have hwait : ((s.taken 0x0205 c).modFeed hr (switchedOff s.sys.timeUs)).cap.feed[hr].waiting = s.cap.feed[hr].waiting := by
    rw [modFeed_feed_same]
    exact off_waiting _ _ _
  have hend := endFeedCmd_eq hwait .aborted
  rw [modFeed_modFeed] at hend
  rw [← hend]
  exact congrArg Host.Outcome.next (runCmd_ok h hbody)

end Switch

/-! ### The events of a feed (R96, R97) -/

section Events

theorem exec_feedRampDone (s : State) (hr : Fin 4) : exec (.feedRampDone hr) s =
    .next (if s.cap.feed[hr].st = .ramping then (s.modFeed hr fun f => { f with st := .on }).endFeedCmd hr .ok else s) := rfl

theorem exec_feedRampDone_ramping (h : s.cap.feed[hr].st = .ramping) : exec (.feedRampDone hr) s = .next
    (s.cap.feed[hr].waiting.foldl (fun s k => s.finishSlot 0x0205 k .ok 0 [] none) (s.modFeed hr fun f => { f with st := .on, waiting := [] })) := by
  have hwait : (s.modFeed hr fun f => { f with st := .on }).cap.feed[hr].waiting = s.cap.feed[hr].waiting := by rw [modFeed_feed_same]
  rw [exec_feedRampDone, if_pos h, endFeedCmd_eq hwait, modFeed_modFeed]

/-- A measurement is held; without a short before it, that is all. -/
theorem exec_feedMeasure_held (h : s.cap.feed[hr].shorted = false) (ma : BitVec 16) :
    exec (.feedMeasure hr ma) s = .next (s.modFeed hr fun f => { f with ma2 := ma }) := by
  refine congrArg Host.Outcome.next (if_neg ?_)
  rw [modFeed_feed_same, h]
  exact fun hand => Bool.false_ne_true hand.2

theorem exec_feedLowbat (s : State) (hr : Fin 4) (v : BitVec 16) : exec (.feedLowbat hr v) s =
    .next (if s.cap.feed[hr].on then (s.setFlag (slotFeed hr) 2).feedEvent hr 5 (leBytes 2 v.toNat) else s) := rfl

/-- Before the last retry has failed a short leads to another, with AUTO_RETRY; without it the feed is off. -/
theorem shortState_retry {f : Feed} (h : f.ctl.getLsbD 8 = false ∨ f.retries.toNat < 3) :
    f.shortState = if f.ctl.getLsbD 8 then .shorted else .off := by
  cases hctl : f.ctl.getLsbD 8 with
  | false => simp only [Feed.shortState, hctl, if_true, Bool.false_eq_true, if_false]
  | true =>
    have hlt : f.retries.toNat < 3 := h.resolve_left (by rw [hctl]; exact nofun)
    have hne : ¬f.retries = 3 := fun h3 => absurd hlt (by rw [h3]; decide)
    simp only [Feed.shortState, hctl, hne, Bool.true_eq_false, if_true, if_false]

theorem shortState_shutoff {f : Feed} (hctl : f.ctl.getLsbD 8 = true) (h : f.retries = 3) : f.shortState = .shutoff := by
  simp only [Feed.shortState, hctl, h, Bool.true_eq_false, if_true, if_false]

/-- A feed that a short switches off, into a state of its own. -/
def shortedOff (now : D) (st : FeedState) (f : Feed) : Feed :=
  { f.off now st with shorted := true, wanted := f.wanted && decide (st = .shorted) }

/-- What a short leaves before the commands that wait end: the feed off, its flag and its event. -/
def shortReported (s : State) (hr : Fin 4) (ma : BitVec 16) (st : FeedState) : State :=
  ((s.modFeed hr (shortedOff s.sys.timeUs st)).setFlag (slotFeed hr) 0).feedEvent hr 1 (leBytes 2 ma.toNat)

theorem shortReported_waiting (s : State) (hr : Fin 4) (ma : BitVec 16) (st : FeedState) :
    (shortReported s hr ma st).cap.feed[hr].waiting = s.cap.feed[hr].waiting := by
  rw [shortReported, rest_cap_eq (rest_feedEvent _ hr 1 _), setFlag_cap, modFeed_feed_same]
  exact off_waiting _ _ _

theorem exec_feedShort_on (hon : s.cap.feed[hr].on = true) (ma : BitVec 16) : exec (.feedShort hr ma) s = .next
    ((if s.cap.feed[hr].shortState = .shutoff then
      ((shortReported s hr ma s.cap.feed[hr].shortState).setFlag (slotFeed hr) 3).feedEvent hr 4 []
    else shortReported s hr ma s.cap.feed[hr].shortState).endFeedCmd hr .fault) :=
  congrArg Host.Outcome.next (if_pos hon)

theorem exec_feedShort_off (hon : s.cap.feed[hr].on = false) (ma : BitVec 16) : exec (.feedShort hr ma) s = .next s :=
  congrArg Host.Outcome.next (if_neg (by rw [hon]; exact Bool.false_ne_true))

theorem exec_feedShort_retry (hon : s.cap.feed[hr].on = true)
    (h : s.cap.feed[hr].ctl.getLsbD 8 = false ∨ s.cap.feed[hr].retries.toNat < 3) (ma : BitVec 16) : exec (.feedShort hr ma) s = .next
      (s.cap.feed[hr].waiting.foldl (fun s k => s.finishSlot 0x0205 k .fault 0 [] none)
        ((((s.modFeed hr fun f => { f.off s.sys.timeUs (if f.ctl.getLsbD 8 then .shorted else .off) with
          shorted := true, wanted := f.wanted && f.ctl.getLsbD 8 }).setFlag (slotFeed hr) 0).raise (20 + hr.val) 1
            ([byte hr.val, 0, 0, 0] ++ leBytes 2 ma.toNat)).modFeed hr fun f => { f with waiting := [] })) := by
  have hst := shortState_retry h
  have hne : ¬s.cap.feed[hr].shortState = .shutoff := by
    rw [hst]
    split <;> exact nofun
  have hmod : s.modFeed hr (shortedOff s.sys.timeUs s.cap.feed[hr].shortState) = s.modFeed hr fun f =>
      { f.off s.sys.timeUs (if f.ctl.getLsbD 8 then .shorted else .off) with shorted := true, wanted := f.wanted && f.ctl.getLsbD 8 } := by
    refine modFeed_congr ?_
    rw [shortedOff, hst]
    cases s.cap.feed[hr].ctl.getLsbD 8 <;> rfl
  rw [exec_feedShort_on hon, if_neg hne, endFeedCmd_eq (shortReported_waiting s hr ma _), shortReported, hmod]
  rfl

/-- The short after the third retry shuts the feed off. -/
theorem exec_feedShort_shutoff (hon : s.cap.feed[hr].on = true) (hctl : s.cap.feed[hr].ctl.getLsbD 8 = true)
    (hret : s.cap.feed[hr].retries = 3) (hwait : s.cap.feed[hr].waiting = []) (ma : BitVec 16) : exec (.feedShort hr ma) s = .next
      (((((s.modFeed hr fun f => { f.off s.sys.timeUs .shutoff with shorted := true, wanted := false }).setFlag
        (slotFeed hr) 0).raise (20 + hr.val) 1 ([byte hr.val, 0, 0, 0] ++ leBytes 2 ma.toNat)).setFlag (slotFeed hr) 3).raise (20 + hr.val) 4
          [byte hr.val, 0, 0, 0]) := by
  have hst := shortState_shutoff hctl hret
  have hmod : s.modFeed hr (shortedOff s.sys.timeUs .shutoff) = s.modFeed hr fun f =>
      { f.off s.sys.timeUs .shutoff with shorted := true, wanted := false } :=
    modFeed_congr (by rw [shortedOff, decide_eq_false (by decide), Bool.and_false])
  have hnone : (((shortReported s hr ma .shutoff).setFlag (slotFeed hr) 3).feedEvent hr 4 []).cap.feed[hr].waiting = [] := by
    rw [rest_cap_eq (rest_feedEvent _ hr 4 _), setFlag_cap, shortReported_waiting, hwait]
  rw [exec_feedShort_on hon, hst, if_pos rfl, endFeedCmd_none hnone, shortReported, hmod]
  rfl

theorem exec_feedRetry (s : State) (hr : Fin 4) : exec (.feedRetry hr) s =
    .next (if s.cap.feed[hr].st = .shorted ∧ (s.pwr.st = .run ∨ 2 ≤ s.bul.winStep.toNat) then
      s.modFeed hr fun f => { f.rampUp s.sys.timeUs with retries := f.retries + 1 } else s) := rfl

/-- An open feed: its module counts as absent. -/
theorem exec_feedOpen_on (h : s.cap.feed[hr].st = .on) : exec (.feedOpen hr) s = .next
    (((s.modFeed hr fun f => { f.untracked s.sys.timeUs false with st := .opened }).setFlag (slotFeed hr) 1).feedEvent hr 2 []) :=
  congrArg Host.Outcome.next (if_pos h)

theorem exec_feedOpenRecovery_opened (h : s.cap.feed[hr].st = .opened) : exec (.feedOpenRecovery hr) s = .next
    ((s.modFeed hr fun f => { f with st := .on }).raise (20 + hr.val) 3 [byte hr.val, 0, 0, 0]) :=
  congrArg Host.Outcome.next (if_pos h)

end Events

end Sys2Proof.Proofs
end


section
/-!
SUPPORT. The smart antenna modules (R99 to R107): what the reading of a record and the writing of a life copy make of a feed, the transfers
they take on TW0, CAP_MODULE, and the module gain.
-/

namespace Sys2Proof.Proofs

open Sys2Proof Sys2Proof.Machine Sys2Proof.Laws

variable {s t : State} {c : CmdEntry} {n : Fin 4} {f : Feed}

/-! ### One feed that changes, and what the host is told -/

/-- `t` is `s` with feed `n` become `f`, but for the host block and the event block. -/
def FeedBecomes (n : Fin 4) (s t : State) (f : Feed) : Prop := Rest (s.modFeed n fun _ => f) t

theorem feedBecomes_refl (s : State) (n : Fin 4) : FeedBecomes n s s s.cap.feed[n] := by
  rw [FeedBecomes, modFeed_id rfl]
  exact Rest.refl s

namespace FeedBecomes

theorem feed (h : FeedBecomes n s t f) : t.cap.feed[n] = f := by
  rw [rest_cap_eq h, modFeed_feed_same]

theorem timeUs (h : FeedBecomes n s t f) : t.sys.timeUs = s.sys.timeUs :=
  congrArg (fun x : State => x.sys.timeUs) (a₁ := rest t) (a₂ := rest (s.modFeed n fun _ => f)) h

theorem modFeed (h : FeedBecomes n s t f) (g : Feed → Feed) : FeedBecomes n s (t.modFeed n g) (g f) := by
  have hmod : Rest ((s.modFeed n fun _ => f).modFeed n g) (t.modFeed n g) := congrArg (State.modFeed · n g) h
  rwa [modFeed_modFeed] at hmod

/-- The same for an update that depends on the device time. -/
theorem modFeedNow (h : FeedBecomes n s t f) (g : D → Feed → Feed) : FeedBecomes n s (t.modFeed n (g t.sys.timeUs)) (g s.sys.timeUs f) := by
  rw [← h.timeUs]
  exact h.modFeed _

theorem event (h : FeedBecomes n s t f) (code : Nat) (more : List Byte) : FeedBecomes n s (t.moduleEvent n code more) f :=
  rest_raise h _ _ _

theorem eventIf (h : FeedBecomes n s t f) (p : Prop) [Decidable p] (code : Nat) (more : List Byte) :
    FeedBecomes n s (if p then t.moduleEvent n code more else t) f := by
  split
  · exact h.event code more
  · exact h

end FeedBecomes

/-! ### Life counters (R103 to R106) -/

/-- A feed once LIFE_PCT is taken from its counters (R105). -/
def pctTaken (f : Feed) : Feed := { f with lifePct := byte (lifePercent f.record f.lifeHours f.lifeCycles) }

/-- A feed once the other life copy holds the counts of MRAM (R103). -/
def lifeStored (f : Feed) : Feed := pctTaken (f.writeLife (!f.lifeB) (f.lifeSeq + 1) f.mramHours f.mramCycles)

theorem FeedBecomes.setLifePct (h : FeedBecomes n s t f) : FeedBecomes n s (t.setLifePct n) (pctTaken f) := by
  simp only [State.setLifePct, h.feed]
  exact (h.modFeed _).eventIf _ _ _

theorem FeedBecomes.lifeWritten (h : FeedBecomes n s t f) : FeedBecomes n s (t.lifeWritten n) (lifeStored f) :=
  (h.modFeed _).setLifePct

theorem FeedBecomes.lifeWrite (h : FeedBecomes n s t f) (written : Bool) :
    FeedBecomes n s (t.lifeWrite n written) (if written then lifeStored f else { f with lifeRetry := true }) := by
  cases written with
  | true => exact h.lifeWritten
  | false => exact h.modFeed _

/-- An hour moves into MRAM hours that are not behind the copy's. -/
theorem takeHour_mramHours (h : f.lifeHours ≤ f.mramHours) (now : D) : (f.takeHour now).mramHours = f.mramHours + 1 := by
  rw [Feed.takeHour, if_neg (BitVec.not_lt.mpr h)]

/-! ### Records as read (R100, R101, R106) -/

theorem FeedBecomes.noModule (h : FeedBecomes n s t f) :
    FeedBecomes n s (t.noModule n) { f.untracked s.sys.timeUs false with noModuleRaised := true } := by
  have hmod := h.modFeedNow fun now f => { f.untracked now false with noModuleRaised := true }
  simp only [State.noModule]
  split
  · exact hmod
  · exact hmod.event _ _

/-- A module whose static part has passed, with LIFE_PCT taken: the counters of its record or of MRAM (R103 to R106). -/
def counted (now : D) (f : Feed) : Feed :=
  pctTaken { f.takeLife (decide (f.mramId = slice f.record 8 8)) now with staticOk := true }

/-- The same once copy A has been written, or waits for its retry, where no copy was valid. -/
def adopted (now : D) (written : Bool) (f : Feed) : Feed :=
  if (currentLife f.record).isNone then if written then lifeStored (counted now f) else { counted now f with lifeRetry := true }
  else counted now f

theorem FeedBecomes.adoptModule (h : FeedBecomes n s t f) (written : Bool) :
    FeedBecomes n s (t.adoptModule n written) (adopted s.sys.timeUs written f) := by
  obtain rfl : t.cap.feed[n] = f := h.feed
  unfold State.adoptModule
  extract_lets f id same t₁ none t₂ t₃
  have h₁ : FeedBecomes n s t₁ f := h.eventIf _ _ _
  have h₂ : FeedBecomes n s t₂ f := h₁.eventIf _ _ _
  have h₃ : FeedBecomes n s t₃ (counted s.sys.timeUs f) :=
    (h₂.modFeedNow fun now f => { f.takeLife same now with staticOk := true }).setLifePct
  unfold adopted
  split
  · exact h₃.lifeWrite written
  · exact h₃

/-- A record whose static part passes is adopted. -/
theorem FeedBecomes.readModule_pass (h : FeedBecomes n s t f) {r : List Byte} (hr : staticPasses r = true) (written : Bool) :
    FeedBecomes n s (t.readModule n r written) (adopted s.sys.timeUs written { f with record := padTo 256 r, present := true }) := by
  simp only [State.readModule, hr, if_true]
  exact (h.modFeed _).adoptModule written

/-- A record whose static part fails leaves its module present with life untracked. -/
theorem FeedBecomes.readModule_fail (h : FeedBecomes n s t f) {r : List Byte} (hr : staticPasses r = false) (written : Bool) :
    FeedBecomes n s (t.readModule n r written) (({ f with record := padTo 256 r, present := true }).untracked s.sys.timeUs true) := by
  simp only [State.readModule, hr, Bool.false_eq_true, if_false]
  exact ((h.modFeed _).modFeedNow fun now f => f.untracked now true).event _ _

theorem padTo_self {r : List Byte} {k : Nat} (h : r.length = k) : padTo k r = r := by
  rw [padTo, h, Nat.sub_self, List.replicate_zero, List.append_nil, ← h, List.take_length]

/-! ### What adoption sets -/

theorem takeLife_present (f : Feed) (same : Bool) (now : D) : (f.takeLife same now).present = f.present := by
  unfold Feed.takeLife
  cases currentLife f.record <;> rfl

theorem takeLife_mramId (f : Feed) (same : Bool) (now : D) : (f.takeLife same now).mramId = slice f.record 8 8 := by
  unfold Feed.takeLife
  cases currentLife f.record <;> rfl

theorem takeLife_lifeOk (f : Feed) (same : Bool) (now : D) : (f.takeLife same now).lifeOk = (currentLife f.record).isSome := by
  unfold Feed.takeLife
  cases currentLife f.record <;> rfl

theorem counted_lifeOk (now : D) (f : Feed) : (counted now f).lifeOk = (currentLife f.record).isSome := by
  simp only [counted, pctTaken, takeLife_lifeOk]

theorem adopted_frame (now : D) (written : Bool) (f : Feed) : (adopted now written f).present = f.present ∧
    (adopted now written f).staticOk = true ∧ (adopted now written f).mramId = slice f.record 8 8 := by
  have hcount : (counted now f).present = f.present ∧ (counted now f).staticOk = true ∧ (counted now f).mramId = slice f.record 8 8 := by
    simp only [counted, pctTaken, takeLife_present, takeLife_mramId, and_self]
  unfold adopted
  split_ifs
  · exact hcount
  · exact hcount
  · exact hcount

/-- With a valid life copy, or once one has been written, life is tracked. -/
theorem adopted_lifeOk {written : Bool} (h : written = true ∨ (currentLife f.record).isSome = true) (now : D) :
    (adopted now written f).lifeOk = true := by
  unfold adopted
  split_ifs with hnone hw
  · rfl
  · exact absurd (h.resolve_left hw) (by rw [Option.isSome_eq_false_iff.mpr hnone]; exact nofun)
  · rw [counted_lifeOk]
    exact Option.isSome_iff_ne_none.mpr fun hn => hnone (by rw [hn]; rfl)

/-! ### TW0 (R100, R104, R383, R503) -/

theorem moduleTraffic_eq (s : State) (acked : Bool) :
    ∃ m : List (Nat × W), s.moduleTraffic acked = { s with tlm := m, freeCnt := s.freeCnt + 1 } := by
  cases acked <;> exact ⟨_, rfl⟩

@[simp] theorem moduleTraffic_cap (s : State) (acked : Bool) : (s.moduleTraffic acked).cap = s.cap := by
  cases acked <;> rfl

@[simp] theorem moduleTraffic_timeUs (s : State) (acked : Bool) : (s.moduleTraffic acked).sys.timeUs = s.sys.timeUs := by
  cases acked <;> rfl

theorem moduleBus_free (h : s.tw.port[0].stuck = false) (acked : Bool) : s.moduleBus acked = s.moduleTraffic acked :=
  if_neg (by rw [h]; exact Bool.false_ne_true)

theorem moduleAnswer_free (h : s.tw.port[0].stuck = false) (answer : Option (List Byte)) : s.moduleAnswer answer = answer :=
  if_neg (by rw [h]; exact Bool.false_ne_true)

/-- Beside the feed, the transfers are all that a module's traffic leaves. -/
theorem FeedBecomes.traffic_frame {acked : Bool} (h : FeedBecomes n (s.moduleTraffic acked) t f) :
    t = { s with cap := t.cap, tlm := t.tlm, freeCnt := s.freeCnt + 1, host := t.host, evt := t.evt } := by
  obtain ⟨m, hm⟩ := moduleTraffic_eq s acked
  rw [FeedBecomes, hm] at h
  rw [rest_cap_eq h, rest_tlm_eq h]
  exact h.eq

/-! ### MODULE_RECORD_READ (R100, R101, R106) -/

section Read

theorem exec_moduleRecordRead_off (h : s.cap.feed[n].on = false) (a : ModuleRead) : exec (.moduleRecordRead n a) s = .next s :=
  congrArg Host.Outcome.next (if_neg (by rw [h]; exact Bool.false_ne_true))

theorem exec_moduleRecordRead_silent (hon : s.cap.feed[n].on = true) (hstuck : s.tw.port[0].stuck = false) (b : Bool) :
    exec (.moduleRecordRead n ⟨none, b⟩) s = .next ((s.moduleTraffic false).noModule n) := by
  change execModuleRecordRead n ⟨none, b⟩ s = _
  simp only [execModuleRecordRead, hon, if_true, moduleAnswer_free hstuck, moduleBus_free hstuck]

theorem exec_moduleRecordRead_answered (hon : s.cap.feed[n].on = true) (hstuck : s.tw.port[0].stuck = false) (r : List Byte) (b : Bool) :
    exec (.moduleRecordRead n ⟨some r, b⟩) s = .next ((s.moduleTraffic true).readModule n r b) := by
  change execModuleRecordRead n ⟨some r, b⟩ s = _
  simp only [execModuleRecordRead, hon, if_true, moduleAnswer_free hstuck, moduleBus_free hstuck]

/-- The feed as it stands after the transfers of a module. -/
theorem feedBecomes_traffic (s : State) (acked : Bool) (n : Fin 4) :
    FeedBecomes n (s.moduleTraffic acked) (s.moduleTraffic acked) s.cap.feed[n] := by
  have h := feedBecomes_refl (s.moduleTraffic acked) n
  rwa [moduleTraffic_cap] at h

end Read

/-! ### CAP_MODULE (R107) -/

section Command

/-- CAP.MOD_STAT holds the three flags of a module in its lowest bits. -/
theorem modWord_bits (f : Feed) : f.modWord.getLsbD 0 = f.present ∧ f.modWord.getLsbD 1 = f.staticOk ∧ f.modWord.getLsbD 2 = f.lifeOk := by
  have hmk (lo v i : Nat) (hi : i < 32) : (mkFld lo v).getLsbD i = (decide (lo ≤ i) && v.testBit (i - lo)) := by
    simp only [mkFld, BitVec.getLsbD_ofNat, hi, decide_true, Bool.true_and, Nat.testBit_mul_two_pow]
  have hbit (b : Bool) (i : Nat) : (b01 b).testBit i = (b && decide (i = 0)) := by
    cases b
    · simp [b01]
    · cases i <;> simp [b01, Nat.testBit_succ]
  simp only [Feed.modWord, word, List.foldl_cons, List.foldl_nil, BitVec.getLsbD_or, hmk _ _ 0 (by decide), hmk _ _ 1 (by decide),
    hmk _ _ 2 (by decide), hbit]
  simp

/-- A bit of the lowest byte of a word. -/
theorem lowByte_bit (w : W) {i : Nat} (hi : i < 8) : w.toNat % 256 / 2 ^ i % 2 = b01 (w.getLsbD i) := by
  have h := Nat.toNat_testBit (w.toNat % 2 ^ 8) i
  rw [Nat.testBit_mod_two_pow, decide_eq_true hi, Bool.true_and] at h
  exact h.symm.trans (by rw [BitVec.getLsbD]; cases w.toNat.testBit i <;> rfl)

theorem modWord_flags (f : Feed) : f.modWord.toNat % 256 % 2 = b01 f.present ∧ f.modWord.toNat % 256 / 2 % 2 = b01 f.staticOk ∧
    f.modWord.toNat % 256 / 4 % 2 = b01 f.lifeOk := by
  obtain ⟨h0, h1, h2⟩ := modWord_bits f
  rw [← h0, ← h1, ← h2]
  exact ⟨by simpa using lowByte_bit f.modWord (i := 0) (by decide), lowByte_bit f.modWord (i := 1) (by decide),
    lowByte_bit f.modWord (i := 2) (by decide)⟩

theorem bodyCapModule_held (h24 : c.u8 24 = n.val) (h25 : c.u8 25 = 0) (h26 : c.u8 26 = 0) (h27 : c.u8 27 = 0) (a : ModuleRead) :
    bodyCapModule c a s = s.moduleImage n := by
  have hn : cmdHr c = n := ofNat_eq h24
  have hkeep : decide (c.u8 25 = 1) = false := decide_eq_false (by omega)
  simp only [bodyCapModule, hn, checked, firstFail_append _ (firstFail_twoParams (c := c) (by omega) (by omega) h26 h27), hkeep,
    Bool.false_and, firstFail, Bool.false_eq_true, if_false]

/-- REREAD of a feed that is off is refused. -/
theorem bodyCapModule_off (h24 : c.u8 24 = n.val) (h25 : c.u8 25 = 1) (h26 : c.u8 26 = 0) (h27 : c.u8 27 = 0)
    (hoff : s.cap.feed[n].on = false) (a : ModuleRead) : bodyCapModule c a s = .fail .state 0 := by
  have hn : cmdHr c = n := ofNat_eq h24
  simp only [bodyCapModule, hn]
  refine checked_fail _ ?_
  rw [firstFail_append _ (firstFail_twoParams (by omega) (by omega) h26 h27), firstFail, decide_eq_true h25, hoff]
  rfl

/-- CAP_MODULE without REREAD: what is held of the module. -/
theorem capModule_held (h : s.takes 0x0206 c = true) (hb : c.bytes 24 4 = [byte n.val, 0, 0, 0]) (a : ModuleRead) : exec (.capModule c a) s =
    .next ((s.taken 0x0206 c).completesOk 0x0206 c (slice s.cap.feed[n].record 8 8 ++
      [s.cap.feed[n].lifePct, byte (s.cap.feed[n].modWord.toNat % 256)]) (some (padTo 256 s.cap.feed[n].record))) := by
  obtain ⟨h24, h25, h26, h27⟩ := bytes_four hb
  have hbody := bodyCapModule_held (s := s.taken 0x0206 c) (h24.trans (byte_fin4 n)) h25 h26 h27 a
  exact congrArg Host.Outcome.next (runCmd_ok h hbody)

end Command

/-! ### Life-counter writes (R33, R103, R104) -/

section Life

/-- A write that does not yield runs on a feed that no longer waits for TW0. -/
theorem lifeTurn_free (hrun : s.tw.port[0].run = none) (hq : s.tw.port[0].queue = []) (go : State → State) :
    s.lifeTurn n go = go (s.modFeed n fun f => { f with lifeWait := none }) := by
  have hy : s.lifeYields n = false := by
    simp only [State.lifeYields, hrun, hq, Option.isSome_none, List.isEmpty_nil, Bool.not_true, Bool.false_and, Bool.or_self]
  simp only [State.lifeTurn, hy, Bool.false_eq_true, if_false]

theorem lifeTurn_yields (hrun : s.tw.port[0].run.isSome = true) (go : State → State) :
    s.lifeTurn n go = s.modFeed n fun f => { f with lifeWait := some (f.lifeWait.getD s.sys.timeUs) } := by
  have hy : s.lifeYields n = true := by
    simp only [State.lifeYields, hrun, Bool.true_or]
  simp only [State.lifeTurn, hy, if_true]

theorem exec_lifeHourlyWrite_due (hon : s.cap.feed[n].on = true) (hok : s.cap.feed[n].staticOk = true)
    (hmin : 60 ≤ s.cap.feed[n].mramMinutes + s.cap.feed[n].minutesOn s.sys.timeUs) (hrun : s.tw.port[0].run = none)
    (hq : s.tw.port[0].queue = []) (r : Option (List Byte)) (b : Bool) : exec (.lifeHourlyWrite n r b) s =
      .next ((s.modFeed n fun f => { f with lifeWait := none }).hourlyWrite n r b) := by
  have hdue : s.cap.feed[n].lifeDue s.sys.timeUs = true := by
    simp only [Feed.lifeDue, hon, hok, hmin, decide_true, Bool.and_self]
  refine congrArg Host.Outcome.next ?_
  rw [if_pos hdue, lifeTurn_free hrun hq]

/-- The module that answers is the one of the MRAM record: an hour moves, and the counts are written. -/
theorem hourlyWrite_same (hstuck : s.tw.port[0].stuck = false) {r : List Byte} (hid : slice r 8 8 = s.cap.feed[n].mramId) (b : Bool) :
    s.hourlyWrite n (some r) b = ((s.moduleTraffic b).modFeed n fun f => f.takeHour s.sys.timeUs).lifeWrite n b := by
  simp only [State.hourlyWrite, moduleAnswer_free hstuck, moduleBus_free hstuck, moduleTraffic_cap, moduleTraffic_timeUs, if_pos hid]

/-- An hour taken, from a feed that waited for TW0 or not. -/
def hourTaken (now : D) (f : Feed) : Feed := Feed.takeHour { f with lifeWait := none } now

theorem hourTaken_mramHours {f : Feed} (h : f.lifeHours ≤ f.mramHours) (now : D) : (hourTaken now f).mramHours = f.mramHours + 1 :=
  takeHour_mramHours (f := { f with lifeWait := none }) h now

theorem lifeHourlyWrite_written (hon : s.cap.feed[n].on = true) (hok : s.cap.feed[n].staticOk = true)
    (hmin : 60 ≤ s.cap.feed[n].mramMinutes + s.cap.feed[n].minutesOn s.sys.timeUs) (hstuck : s.tw.port[0].stuck = false)
    (hrun : s.tw.port[0].run = none) (hq : s.tw.port[0].queue = []) {r : List Byte} (hid : slice r 8 8 = s.cap.feed[n].mramId) :
    ∃ u : State, exec (.lifeHourlyWrite n (some r) true) s = .next u ∧ u.cap.feed[n] = lifeStored (hourTaken s.sys.timeUs s.cap.feed[n]) ∧
      u = { s with cap := u.cap, tlm := u.tlm, freeCnt := s.freeCnt + 1, host := u.host, evt := u.evt } := by
  obtain ⟨t, ht⟩ : ∃ t, t = s.modFeed n fun f => { f with lifeWait := none } := ⟨_, rfl⟩
  have hfeed : t.cap.feed[n] = { s.cap.feed[n] with lifeWait := none } := by rw [ht, modFeed_feed_same]
  have hwrite := hourlyWrite_same (s := t) (n := n) (r := r) (by rw [ht]; exact hstuck) (by rw [hfeed]; exact hid) true
  have hb := ((feedBecomes_traffic t true n).modFeed fun f => f.takeHour t.sys.timeUs).lifeWrite true
  rw [← hwrite] at hb
  refine ⟨t.hourlyWrite n (some r) true, ?_, ?_, ?_⟩
  · rw [exec_lifeHourlyWrite_due hon hok hmin hrun hq, ht]
  · rw [hb.feed, hfeed, ht]
    rfl
  · have hframe := hb.traffic_frame
    rw [ht] at hframe ⊢
    exact hframe

theorem lifeHourlyWrite_failed (hon : s.cap.feed[n].on = true) (hok : s.cap.feed[n].staticOk = true)
    (hmin : 60 ≤ s.cap.feed[n].mramMinutes + s.cap.feed[n].minutesOn s.sys.timeUs) (hstuck : s.tw.port[0].stuck = false)
    (hrun : s.tw.port[0].run = none) (hq : s.tw.port[0].queue = []) {r : List Byte} (hid : slice r 8 8 = s.cap.feed[n].mramId) :
    ∃ u : State, exec (.lifeHourlyWrite n (some r) false) s = .next u ∧
      u.cap.feed[n] = { hourTaken s.sys.timeUs s.cap.feed[n] with lifeRetry := true } ∧
      u = { s with cap := u.cap, tlm := u.tlm, freeCnt := s.freeCnt + 1 } := by
  obtain ⟨t, ht⟩ : ∃ t, t = s.modFeed n fun f => { f with lifeWait := none } := ⟨_, rfl⟩
  have hfeed : t.cap.feed[n] = { s.cap.feed[n] with lifeWait := none } := by rw [ht, modFeed_feed_same]
  have hwrite := hourlyWrite_same (s := t) (n := n) (r := r) (by rw [ht]; exact hstuck) (by rw [hfeed]; exact hid) false
  have hb := ((feedBecomes_traffic t false n).modFeed fun f => f.takeHour t.sys.timeUs).lifeWrite false
  rw [← hwrite] at hb
  refine ⟨t.hourlyWrite n (some r) false, ?_, ?_, ?_⟩
  · rw [exec_lifeHourlyWrite_due hon hok hmin hrun hq, ht]
  · rw [hb.feed, hfeed, ht]
    rfl
  · obtain ⟨m, hm⟩ := moduleTraffic_eq t false
    rw [hwrite, hm, ht]
    rfl

theorem exec_lifeWriteRetry_due (h : s.cap.feed[n].lifeRetry = true) (hrun : s.tw.port[0].run = none) (hq : s.tw.port[0].queue = [])
    {t : State} (ht : t = s.modFeed n fun f => { f with lifeWait := none }) (b : Bool) : exec (.lifeWriteRetry n b) s =
      .next (if b && !s.tw.port[0].stuck then (t.moduleBus (b && !s.tw.port[0].stuck)).lifeWritten n
        else ((t.moduleBus (b && !s.tw.port[0].stuck)).modFeed n fun f => { f with lifeRetry := false }).moduleEvent n 5 []) := by
  refine congrArg Host.Outcome.next ?_
  rw [if_pos h, lifeTurn_free hrun hq, ht]
  rfl

/-- A retry that succeeds stores the counts. -/
theorem lifeWriteRetry_written (h : s.cap.feed[n].lifeRetry = true) (hstuck : s.tw.port[0].stuck = false) (hrun : s.tw.port[0].run = none)
    (hq : s.tw.port[0].queue = []) : ∃ u : State, exec (.lifeWriteRetry n true) s = .next u ∧
      u.cap.feed[n] = lifeStored { s.cap.feed[n] with lifeWait := none } := by
  obtain ⟨t, ht⟩ : ∃ t, t = s.modFeed n fun f => { f with lifeWait := none } := ⟨_, rfl⟩
  have hfeed : t.cap.feed[n] = { s.cap.feed[n] with lifeWait := none } := by rw [ht, modFeed_feed_same]
  have hbus := moduleBus_free (s := t) (by rw [ht]; exact hstuck) true
  refine ⟨(t.moduleTraffic true).lifeWritten n, ?_, ?_⟩
  · rw [exec_lifeWriteRetry_due h hrun hq ht, hstuck, Bool.not_false, Bool.and_self, if_pos rfl, hbus]
  · rw [(feedBecomes_traffic t true n).lifeWritten.feed, hfeed]

/-- A second failure gives up. -/
theorem lifeWriteRetry_gaveUp (h : s.cap.feed[n].lifeRetry = true) (hstuck : s.tw.port[0].stuck = true) (hrun : s.tw.port[0].run = none)
    (hq : s.tw.port[0].queue = []) : exec (.lifeWriteRetry n false) s = .next
      ((s.modFeed n fun f => { f with lifeRetry := false, lifeWait := none }).raise (24 + n.val) 5 [byte n.val, 0, 0, 0]) := by
  obtain ⟨t, ht⟩ : ∃ t, t = s.modFeed n fun f => { f with lifeWait := none } := ⟨_, rfl⟩
  have hbus : t.moduleBus false = t := if_pos (by rw [ht]; exact hstuck)
  rw [exec_lifeWriteRetry_due h hrun hq ht, Bool.false_and, if_neg Bool.false_ne_true, hbus, ht, modFeed_modFeed]
  rfl

end Life

/-! ### Module gain (R100 to R102) -/

theorem gain_untracked (h : f.present = false ∨ f.staticOk = false) (hz : Nat) : f.gain hz = (0, 1) := by
  refine if_neg ?_
  obtain h | h := h
  · simp [h]
  · simp [h]

/-- Between the first two entries of a table the gain is interpolated (R102). -/
theorem tableGain_between {hz : Nat} {x y : Nat × Int} (hlo : 10000 * x.1 < hz) (hhi : hz ≤ 10000 * y.1) (l : List (Nat × Int)) :
    tableGain hz (x :: y :: l) =
      (x.2 * (10000 * (y.1 - x.1) : Nat) + (y.2 - x.2) * ((hz : Int) - 10000 * x.1), 10000 * (y.1 - x.1)) := by
  rw [tableGain, if_neg (by omega), gainFrom, if_pos hhi]


end Sys2Proof.Proofs
end


section
/-!
SUPPORT. The feeds and the modules as the statement about them has it: each clause from what the command or the event makes of its feed.
-/

namespace Sys2Proof.Proofs

open Sys2Proof Sys2Proof.Machine Sys2Proof.Laws

variable {s : State} {n : Fin 4}

/-- A retry ramps the feed up and is counted. -/
theorem feedRetry_ramps (h : s.cap.feed[n].st = .shorted) (hst : s.pwr.st = .run ∨ 2 ≤ s.bul.winStep.toNat) :
    ∃ u : State, exec (.feedRetry n) s = .next u ∧ u.cap.feed[n].st = .ramping ∧ u.cap.feed[n].retries = s.cap.feed[n].retries + 1 ∧
      u = { s with cap := u.cap } := by
  have hfeed := modFeed_feed_same s n fun f => { f.rampUp s.sys.timeUs with retries := f.retries + 1 }
  refine ⟨_, (exec_feedRetry s n).trans (congrArg Host.Outcome.next (if_pos ⟨h, hst⟩)), ?_, ?_, rfl⟩
  · rw [hfeed]
    exact rampUp_st _ _
  · rw [hfeed]

/-- An open feed: its module is absent and the flag is set. -/
theorem feedOpen_opened (h : s.cap.feed[n].st = .on) : ∃ u : State, exec (.feedOpen n) s = .next u ∧ u.cap.feed[n].st = .opened ∧
    u.cap.feed[n].present = false ∧ u.cap.feed[n].lifeOk = false ∧ u.cap.feed[n].lifePct = 255 ∧ u.flag (slotFeed n) 1 = true ∧
    u = { s with cap := u.cap, flags := u.flags, tlm := u.tlm, host := u.host, evt := u.evt } := by
  obtain ⟨t, ht⟩ : ∃ t, t = (s.modFeed n fun f => { f.untracked s.sys.timeUs false with st := .opened }).setFlag (slotFeed n) 1 := ⟨_, rfl⟩
  have hu := rest_feedEvent t n 2 []
  have hcap := rest_cap_eq hu
  have hfeed : t.cap.feed[n] = { s.cap.feed[n].untracked s.sys.timeUs false with st := .opened } := by
    rw [ht, setFlag_cap, modFeed_feed_same]
  have hflag : t.flag (slotFeed n) 1 = true := ht ▸ flag_setFlag _ _ (by decide)
  refine ⟨t.feedEvent n 2 [], ht ▸ exec_feedOpen_on h, ?_, ?_, ?_, ?_, ?_, ?_⟩
  · rw [hcap, hfeed]
  · rw [hcap, hfeed]
    rfl
  · rw [hcap, hfeed]
    rfl
  · rw [hcap, hfeed]
    rfl
  · rwa [State.flag, rest_flags_eq hu]
  · rw [hcap, rest_flags_eq hu, rest_tlm_eq hu]
    refine hu.eq.trans ?_
    rw [ht]
    rfl

/-- Settles O36: clause by clause, what the command or the event makes of its feed. -/
theorem feedsAndModules : Obligations.FeedsAndModules := by
  unfold Obligations.FeedsAndModules
  refine ⟨?_, fun _ _ _ => capFeed_off, ?_, fun _ _ => exec_feedRampDone_ramping, fun s n h => by rw [exec_feedRampDone, if_neg h],
    fun _ _ ma h => exec_feedMeasure_held h ma, fun s n v h => by rw [exec_feedLowbat, if_pos h]; rfl,
    fun _ _ ma hon h => exec_feedShort_retry hon h ma, fun _ _ ma hon hctl hret hwait => exec_feedShort_shutoff hon hctl hret hwait ma,
    fun _ _ => feedRetry_ramps, ?_, fun _ _ => feedOpen_opened, fun _ _ => exec_feedOpenRecovery_opened, ?_, ?_, ?_, ?_,
    fun s c a b n h hb => ⟨_, capModule_held h hb ⟨a, b⟩, modWord_flags _⟩, ?_, ?_, ?_, ?_, ?_, fun _ _ => lifeWriteRetry_gaveUp,
    fun _ hz h => gain_untracked h hz, fun _ _ _ l hlo hhi => tableGain_between hlo hhi l⟩
  case refine_1 =>
    intro s c n v h hb hlo hhi hoff
    obtain ⟨u, hexec, hfeed, hhr, hother, hframe⟩ := capFeed_on h hb hlo hhi hoff
    rw [switchedOn, rampUp_off hoff] at hfeed
    refine ⟨u, hexec, ?_, ?_, ?_, ?_, ?_, hhr, hother, hframe⟩ <;> rw [hfeed]
  case refine_2 =>
    intro s c h h24 h25 h26 hout
    exact congrArg Host.Outcome.next (runCmd_fail h (bodyCapFeed_range h24 h25 h26 hout))
  case refine_3 =>
    intro s n h
    rw [exec_feedRetry, if_neg]
    rintro ⟨hst, hrun⟩
    obtain h | ⟨hnot, hwin⟩ := h
    · exact h hst
    · exact hrun.elim hnot fun h2 => absurd hwin (by omega)
  case refine_4 =>
    intro s n r m b hoff
    exact ⟨by rw [exec_feedLowbat, hoff]; rfl, exec_feedShort_off hoff m, exec_moduleRecordRead_off hoff _⟩
  case refine_5 =>
    intro s n b hon hraised hstuck
    have hb := (feedBecomes_traffic s false n).noModule
    refine ⟨_, exec_moduleRecordRead_silent hon hstuck b, ?_, ?_, ?_, ?_, ?_, hb.traffic_frame⟩ <;> rw [hb.feed] <;> rfl
  case refine_6 =>
    intro s n r b hon hstuck hlen hr
    have hb := (feedBecomes_traffic s true n).readModule_fail hr b
    rw [padTo_self hlen] at hb
    refine ⟨_, exec_moduleRecordRead_answered hon hstuck r b, ?_, ?_, ?_, ?_, hb.traffic_frame⟩ <;> rw [hb.feed] <;> rfl
  case refine_7 =>
    intro s n r b hon hstuck hlen hr hlife
    have hb := (feedBecomes_traffic s true n).readModule_pass hr b
    rw [padTo_self hlen] at hb
    obtain ⟨hpresent, hstatic, hid⟩ := adopted_frame (s.moduleTraffic true).sys.timeUs b { s.cap.feed[n] with record := r, present := true }
    refine ⟨_, exec_moduleRecordRead_answered hon hstuck r b, ?_, ?_, ?_, ?_, hb.traffic_frame⟩ <;> rw [hb.feed]
    · exact hpresent
    · exact hstatic
    · exact adopted_lifeOk hlife _
    · exact hid
  case refine_8 =>
    intro s c a b n h hb hoff
    obtain ⟨h24, h25, h26, h27⟩ := bytes_four hb
    exact congrArg Host.Outcome.next (runCmd_fail h
      (bodyCapModule_off (s := s.taken 0x0206 c) (h24.trans (byte_fin4 n)) h25 h26 h27 hoff ⟨a, b⟩))
  case refine_9 =>
    intro s n r hon hok hmin hstuck hrun hq hid hle
    obtain ⟨u, hexec, hfeed, hframe⟩ := lifeHourlyWrite_written hon hok hmin hstuck hrun hq hid
    have hhours := hourTaken_mramHours hle s.sys.timeUs
    refine ⟨u, hexec, ?_, ?_, ?_, ?_, ?_, hframe⟩ <;> rw [hfeed]
    · exact hhours
    · exact hhours
    · rfl
    · rfl
    · rfl
  case refine_10 =>
    intro s n r hon hok hmin hstuck hrun hq hid hle
    obtain ⟨u, hexec, hfeed, hframe⟩ := lifeHourlyWrite_failed hon hok hmin hstuck hrun hq hid
    refine ⟨u, hexec, ?_, ?_, ?_, ?_, hframe⟩ <;> rw [hfeed]
    · exact hourTaken_mramHours hle s.sys.timeUs
    · rfl
    · rfl
  case refine_11 =>
    intro s n b h hrun
    exact congrArg Host.Outcome.next ((if_pos h).trans (lifeTurn_yields hrun _))
  case refine_12 =>
    intro s n h hstuck hrun hq
    obtain ⟨u, hexec, hfeed⟩ := lifeWriteRetry_written h hstuck hrun hq
    refine ⟨u, hexec, ?_, ?_, ?_, ?_⟩ <;> rw [hfeed] <;> rfl

end Sys2Proof.Proofs
end


section
/-!
SUPPORT. A blanker that is off (R90) and the race buffer (R30), and what a write of the buffer uncovers in an SRAM list that is not in its
canonical form.
-/

namespace Sys2Proof.Proofs

open Sys2Proof Sys2Proof.Machine Sys2Proof.Laws

/-! ### A blanker that is off (R90) -/

theorem blank_off {v : W} (h : v.getLsbD 0 = false) (old : W) (b : BlankBlock) (prevOver : Bool) (k : Nat) :
    blank old v b prevOver k = (b.samples.map fun x => scaleQ 4 (RaceIQ.value x), 0, false) :=
  if_neg (by rw [h]; exact Bool.false_ne_true)

/-- The block passes to the race buffer as it came. -/
theorem exec_blankerBlock_off {s : State} {hr : Fin 4} {r : Race} (hon : s.cap.hr[hr].samples = true) (hfail : s.cap.hr[hr].failed = false)
    (hoff : (s.cap.hr[hr].blk r).reg.getLsbD 0 = false) (b : BlankBlock) :
    ∃ u : State, exec (.blankerBlock hr r b) s = .next u ∧ u.mem = Memory.writeN s.mem (raceBuffer hr r)
      ((b.samples.map fun x => scaleQ 4 (RaceIQ.value x)).flatMap raceBytes) := by
  have hstep : (s.cap.hr[hr].blk r).step b s.freeCnt = ((((s.cap.hr[hr].blk r).step b s.freeCnt).1), false) := by
    simp only [Blanker.step, blank_off hoff]
  have hout : ((s.cap.hr[hr].blk r).step b s.freeCnt).1.output = b.samples.map fun x => scaleQ 4 (RaceIQ.value x) := by
    simp only [Blanker.step, blank_off hoff]
  refine ⟨_, congrArg Host.Outcome.next (if_pos hon), ?_⟩
  simp only [hfail, Bool.false_eq_true, if_false]
  rw [hstep]
  simp only [Bool.false_eq_true, if_false, store_mem, modHr_mem, hout]

/-! ### An SRAM list out of order -/

/-- Headrace 0 runs with its L blanker off, and the SRAM list names the first byte of the race buffer before address 0. -/
def unorderedSram : State :=
  { State.reset with
    cap := { State.reset.cap with hr := upd State.reset.cap.hr 0 fun h => { h with running := true, blkL := { h.blkL with reg := 0 } } }
    mem := [(0x20410000, 1), (0, 7)] }

/-- One silent sample. -/
def silentSample : BlankBlock := { pre := [], samples := [(0, 0)], post := [] }

/-- Before the block a read of address 0 stops at the entry above it, and finds nothing. -/
theorem unorderedSram_load : unorderedSram.load 0 1 = [0] := by decide

/-- The zero byte written to the buffer removes that entry, so that the read meets the one behind it. -/
theorem unorderedSram_uncovered {u : State} (h : u.mem = Memory.writeN unorderedSram.mem (raceBuffer 0 .L)
    ((silentSample.samples.map fun x => scaleQ 4 (RaceIQ.value x)).flatMap raceBytes)) : u.load 0 1 = [7] := by
  rw [State.load, h]
  decide

/-- Refutes O35: it asks that a block leave SRAM outside its race buffer alone in every state, also where the SRAM list is not in the
ascending order of its canonical form. There a zero byte written to the buffer uncovers an entry of another address. -/
theorem not_headracesFollowTheirSamples : ¬Obligations.HeadracesFollowTheirSamples := by
  unfold Obligations.HeadracesFollowTheirSamples
  rintro ⟨-, -, -, -, -, -, -, -, -, -, -, -, -, -, hmem, -⟩
  obtain ⟨u, hexec, hwritten⟩ := exec_blankerBlock_off (s := unorderedSram) (hr := 0) (r := .L) (by decide) (by decide) (by decide) silentSample
  have hsame := hmem unorderedSram 0 .L silentSample u 0 hexec (.inl (by decide))
  rw [unorderedSram_load, unorderedSram_uncovered hwritten] at hsame
  exact absurd hsame (by decide)

end Sys2Proof.Proofs
end

section
/-!
SUPPORT. What the proofs about windows share: updates of one window, the checks that the window commands make alike, a withholding that
begins, and a leg that joins a window without delay blocks.
-/

namespace Sys2Proof.Proofs

open Sys2Proof Sys2Proof.Machine Sys2Proof.Laws

/-! ### Updates of one window -/

section Updates

variable {s t : State} {w : Fin 64}

theorem modWin_win_same (s : State) (w : Fin 64) (f : Window → Window) : (s.modWin w f).win.win[w] = f s.win.win[w] := upd_same _ w f

theorem modWin_win_other (f : Window → Window) {k : Fin 64} (h : k ≠ w) : (s.modWin w f).win.win[k] = s.win.win[k] :=
  upd_other _ w k f h.symm

theorem modWin_modWin (s : State) (w : Fin 64) (f g : Window → Window) : (s.modWin w f).modWin w g = s.modWin w fun x => g (f x) := by
  simp only [State.modWin, upd_upd]

theorem modWin_congr {f g : Window → Window} (h : f s.win.win[w] = g s.win.win[w]) : s.modWin w f = s.modWin w g := by
  simp only [State.modWin, upd_congr h]

theorem modWin_id {f : Window → Window} (h : f s.win.win[w] = s.win.win[w]) : s.modWin w f = s := by
  simp only [State.modWin, upd_id h]

end Updates

/-! ### A withholding that begins (R120, R121) -/

/-- What a change makes of its window. -/
def withholding (ch : WinChange) (x : Window) : Window :=
  { x with st := 1, change := ch, nSettle := x.settle, withheld := x.settle
           disc := if x.released then satAdd (2 ^ 24 - 1) x.disc x.settle else 0 }

theorem withhold_modWin (s : State) (w : Fin 64) (f : Window → Window) (ch : WinChange) :
    (s.modWin w f).withhold w ch = s.modWin w fun x => withholding ch (f x) := modWin_modWin s w f _

/-! ### The checks that the window commands share (R140) -/

section Checks

variable {s : State} {c : CmdEntry} {w : Fin 64}

theorem below_two (hlevel : 2 ≤ s.pwr.level.toNat) : s.below 2 = false := by
  have : ¬s.pwr.level.toNat < 2 := by omega
  simp [State.below, this]

theorem winRange_named (h24 : c.u8 24 = w.val) : winRange c = (false, .range, 24) := by
  have : ¬63 < c.u8 24 := by omega
  simp [winRange, this]

theorem winPower_enough (h : s.below 2 = false) : s.winPower = (false, .power, 0) := by rw [State.winPower, h]

theorem winClosed_open (hst : s.win.win[w].st ≠ 0) (hclosing : s.win.win[w].closing = none) : s.winClosed w = (false, .state, 0) := by
  simp only [State.winClosed, hst, hclosing, decide_false, Option.isSome_none, Bool.or_self]

theorem winClosed_closed (hst : s.win.win[w].st = 0) : s.winClosed w = (true, .state, 0) := by
  simp only [State.winClosed, hst, decide_true, Bool.true_or]

theorem winLent_no (h : s.svc.run[s.win.win[w].runner].fm.lent = false) : s.winLent w = (false, .busy, 0) := by
  simp only [State.winLent, h, Bool.and_false]

theorem fanYield_host (h : s.win.win[w].fantail = false) : s.fanYield w = s := by
  simp only [State.fanYield, h, Bool.false_eq_true, if_false]

/-- The four bytes of a command that names a window. -/
theorem windowParams {x y z : Byte} (h : c.bytes 24 4 = [byte w.val, x, y, z]) :
    c.u8 24 = w.val ∧ c.u8 25 = x.toNat ∧ c.u8 26 = y.toNat ∧ c.u8 27 = z.toNat := by
  obtain ⟨h24, hrest⟩ := bytes_four h
  exact ⟨h24.trans (byte_toNat (by omega)), hrest⟩

theorem cmdWin_named (h24 : c.u8 24 = w.val) : cmdWin c = w := ofNat_eq h24

theorem byte_b01 (b : Bool) : (byte (b01 b)).toNat = b01 b := by cases b <;> rfl

end Checks

/-! ### Legs without delay blocks (R128, R129) -/

section Legs

variable {s : State} {w : Fin 64}

theorem takeBlocks_zero (s : State) (w : Fin 64) (pos : Fin 4) : s.takeBlocks w pos 0 = some (0, s) := by
  simp [State.takeBlocks, gpAllocN]

/-- The leg that joins a window whose DCAP is 0. -/
def joiningLeg (s : State) (w : Fin 64) (no : Nat) (ant : Fin 4) (settling : Nat) : Leg :=
  newLeg s.cap.hr[ant] no ant s.win.win[w].preset s.win.win[w].freq settling 0 0 s.win.win[w].refLeg

/-- A leg joins a window whose DCAP is 0: it takes the lowest free number, and no delay block. -/
theorem addLeg_undelayed {no : Nat} (hfree : s.freeLegs.head? = some no) (hcap : s.win.win[w].dcap = 0) (pos ant : Fin 4) (settling : Nat) :
    s.addLeg w pos ant settling =
      some (s.modWin w fun x => { x with legs := x.legs.set pos (some (joiningLeg s w no ant settling)) }) := by
  simp only [State.addLeg, hfree, hcap, Nat.zero_div, takeBlocks_zero]
  rfl

theorem flatMap_filter {α β : Type} (p : α → Bool) (f : α → List β) (l : List α) :
    (l.filter p).flatMap f = l.flatMap fun a => if p a then f a else [] := by
  induction l with
  | nil => rfl
  | cons a l ih => cases h : p a <;> simp [h, ih]

/-- The leg numbers that a window takes. -/
def legNosOf (x : Window) : List Nat := if x.st = 0 then [] else x.legs.toList.filterMap fun l => l.map Leg.no

theorem legNos_eq (s : State) : s.legNos = (List.finRange 64).flatMap fun w => legNosOf s.win.win[w] := by
  have hopen (x : Window) : (if decide (x.st ≠ 0) = true then x.legs.toList.filterMap fun l => l.map Leg.no else []) = legNosOf x := by
    by_cases h : x.st = 0 <;> simp only [legNosOf, h, ne_eq, not_true_eq_false, not_false_eq_true, decide_true, decide_false,
      Bool.false_eq_true, if_true, if_false]
  simp only [State.legNos, State.openWins, allIx, flatMap_filter, hopen]

/-- A window that is not open yet and has no legs takes no leg number. -/
theorem freeLegs_legless (hst : s.win.win[w].st = 0) {x : Window} (hx : x.legs = Vector.replicate 4 none) :
    (s.modWin w fun _ => x).freeLegs = s.freeLegs := by
  have hsame (k : Fin 64) : legNosOf (s.modWin w fun _ => x).win.win[k] = legNosOf s.win.win[k] := by
    by_cases hk : k = w
    · subst hk
      simp only [modWin_win_same, legNosOf, hst, hx, Vector.toList_replicate, if_true]
      exact ite_self _
    · rw [modWin_win_other _ hk]
  have hnos : (s.modWin w fun _ => x).legNos = s.legNos := by simp only [legNos_eq, hsame]
  simp only [State.freeLegs, hnos]

end Legs

end Sys2Proof.Proofs
end

section
/-!
SUPPORT. WIN_OPEN (R111, R112, R136, R140): what its checks find, and the window that it makes of one antenna with the default split and the
built-in bank.
-/

namespace Sys2Proof.Proofs

open Sys2Proof Sys2Proof.Machine Sys2Proof.Laws

/-! ### What WIN_OPEN checks (R111, R140) -/

section OpenChecks

variable {s : State} {c : CmdEntry}

/-- The window that WIN_OPEN names is open. -/
def namedOpen (s : State) (c : CmdEntry) : Bool := (ix 64 (c.u8 24)).any fun w => decide (s.win.win[w].st ≠ 0)

theorem fanGive_host {o : Option (Fin 64)} (h : ∀ w, o = some w → s.win.win[w].fantail = false) : s.fanGive o = s := by
  cases o with
  | none => rfl
  | some w => simp only [State.fanGive, h w rfl, Bool.false_eq_true, if_false]

/-- The checks behind those of the parameters, where the Fantail holds neither the window named nor the runner's. -/
theorem bodyWinOpen_eq (hwin : ∀ w, ix 64 (c.u8 24) = some w → s.win.win[w].fantail = false)
    (hrun : ∀ w, s.windowOf (Fin.ofNat 32 (c.u8 26)) = some w → s.win.win[w].fantail = false) (hrange : firstFail (s.openRange c) = none) :
    bodyWinOpen c s = checked [s.winPower, (s.onFio, .fault, 0),
      (namedOpen s c || (antsOf (c.u8 32)).any (fun a => !s.cap.hr[a].running), .state, 0),
      (s.runnerFed (Fin.ofNat 32 (c.u8 26)), .busy, 0)] fun _ => (openSplit c).elim (.fail .range 33) (s.openCmd c) := by
  have hchecks : bodyWinOpen c s = checked (s.openRange c ++ [s.winPower, (s.onFio, .fault, 0),
      (namedOpen s c || (antsOf (c.u8 32)).any (fun a => !s.cap.hr[a].running), .state, 0),
      (s.runnerFed (Fin.ofNat 32 (c.u8 26)), .busy, 0)]) fun _ => (openSplit c).elim (.fail .range 33) (s.openCmd c) := by
    rw [bodyWinOpen, fanGive_host hwin, fanGive_host hrun, namedOpen]
    cases ix 64 (c.u8 24) <;> cases openSplit c <;> rfl
  rw [hchecks]
  simp only [checked, firstFail_append _ hrange]

/-- An open window is refused. -/
theorem bodyWinOpen_open {w : Fin 64} (hrange : firstFail (s.openRange c) = none) (h24 : c.u8 24 = w.val) (hst : s.win.win[w].st ≠ 0)
    (hfan : s.win.win[w].fantail = false) (hof : s.windowOf (Fin.ofNat 32 (c.u8 26)) = none) (hrun : s.pwr.st = .run)
    (hlevel : 2 ≤ s.pwr.level.toNat) (hloss : s.clk.lossInRun = false) : bodyWinOpen c s = .fail .state 0 := by
  have hix : ix 64 (c.u8 24) = some w := ix_of_eq h24
  have hopen : namedOpen s c = true := by simp only [namedOpen, hix, Option.any_some, hst, ne_eq, not_false_eq_true, decide_true]
  rw [bodyWinOpen_eq (fun k hk => Option.some.inj (hix.symm.trans hk) ▸ hfan) (fun k hk => absurd (hof.symm.trans hk) nofun) hrange]
  exact checked_fail _ (by simp only [firstFail, winPower_enough (below_two hlevel), onFio_run hrun, hloss, hopen, Bool.true_or,
    Bool.false_eq_true, if_false, if_true])

/-- A runner that a window of the host feeds is refused. -/
theorem bodyWinOpen_fed {w k : Fin 64} (hrange : firstFail (s.openRange c) = none) (h24 : c.u8 24 = w.val) (hst : s.win.win[w].st = 0)
    (hfan : s.win.win[w].fantail = false) (hof : s.windowOf (Fin.ofNat 32 (c.u8 26)) = some k) (hk : s.win.win[k].fantail = false)
    (hants : ∀ ant : Fin 4, s.cap.hr[ant].running = true) (hrun : s.pwr.st = .run)
    (hlevel : 2 ≤ s.pwr.level.toNat) (hloss : s.clk.lossInRun = false) : bodyWinOpen c s = .fail .busy 0 := by
  have hix : ix 64 (c.u8 24) = some w := ix_of_eq h24
  have hclosed : namedOpen s c = false := by simp only [namedOpen, hix, Option.any_some, hst, ne_eq, not_true_eq_false, decide_false]
  have hrunning : (antsOf (c.u8 32)).any (fun a => !s.cap.hr[a].running) = false := by
    simp only [hants, Bool.not_true, List.any_eq_false, Bool.false_eq_true, not_false_eq_true, implies_true]
  rw [bodyWinOpen_eq (fun j hj => Option.some.inj (hix.symm.trans hj) ▸ hfan) (fun j hj => Option.some.inj (hof.symm.trans hj) ▸ hk) hrange]
  exact checked_fail _ (by simp only [firstFail, winPower_enough (below_two hlevel), onFio_run hrun, hloss, hclosed, hrunning, State.runnerFed,
    hof, Option.isSome_some, Bool.or_self, Bool.false_eq_true, if_false, if_true])

end OpenChecks

/-! ### A window with one leg, the default split and the built-in bank (R110, R136) -/

section Opening

variable {s : State} {c : CmdEntry} {win : Fin 64} {ant : Fin 4} {no : Nat}

/-- The window that WIN_OPEN makes, withholding for its own N_settle (R120). -/
def openedWindow (q : WinReq) (l : Leg) : Window :=
  let x : Window :=
    { st := 1, preset := q.preset, runner := q.runner, freq := q.freq, wide := q.wide, shift := q.shift, h := q.split.h
      mcic := q.split.mcic, mcf := q.split.mcf, mfir := q.split.mfir, banks := #v[q.bank, {}], dcap := dcapOf q.dcap
      mu := q.mu, change := .opened, fantail := q.fantail, legs := #v[some l, none, none, none] }
  { x with nSettle := x.settle, withheld := x.settle }

/-- Its leg. -/
def openedLeg (s : State) (q : WinReq) (ant : Fin 4) (no : Nat) : Leg := newLeg s.cap.hr[ant] no ant q.preset q.freq 0 0 0 none

theorem openWin_single {q : WinReq} (hst : s.win.win[win].st = 0) (hants : q.ants = [ant]) (hcap : q.dcap = 0)
    (hfree : s.freeLegs.head? = some no) :
    s.openWin win q = some (s.modWin win fun _ => openedWindow q (openedLeg s q ant no)) := by
  have hcap' : dcapOf q.dcap = 0 := by rw [hcap]; rfl
  simp only [State.openWin, hants, State.addLegs]
  rw [addLeg_undelayed ((congrArg List.head? (freeLegs_legless hst rfl)).trans hfree)
    ((congrArg Window.dcap (modWin_win_same _ _ _)).trans hcap')]
  simp only [Option.map_some, modWin_modWin]
  refine congrArg some (modWin_congr ?_)
  simp only [joiningLeg, modWin_win_same]
  rfl

theorem antsOf_single (ant : Fin 4) : antsOf (2 ^ ant.val) = [ant] := by
  revert ant
  decide

/-- WIN_OPEN for one antenna with the default split, the built-in bank, the default SHIFT and no delay. -/
structure DefaultOpen (s : State) (c : CmdEntry) (rn : Fin 32) (ant : Fin 4) (p : Nat) : Prop where
  rsvd : c.bytes 41 3 = [0, 0, 0]
  mu : c.u8 40 = 0
  dcap : c.u16 38 = 0
  shift : c.u8 37 = 0xFF
  taps : c.u8 36 = 0
  split : c.u8 33 = 0xFF
  noBuf : c.bufIn = false
  width : c.u8 27 ≤ 1
  ants : c.u8 32 = 2 ^ ant.val
  preset : c.u8 25 = p
  presetLo : 1 ≤ p
  presetHi : p ≤ 5
  runner : c.u8 26 = rn.val
  feeds : presetRunner p rn.val = true
  band : s.cap.hr[ant].bandOk p (c.u32 28) = true

variable {rn : Fin 32} {p : Nat}

theorem openSplit_default (h : DefaultOpen s c rn ant p) : openSplit c = some (defaultSplit p) := by
  rw [openSplit, if_pos h.split, h.preset]

theorem openRange_default (h : DefaultOpen s c rn ant p) (h24 : c.u8 24 ≤ 63 ∨ c.u8 24 = 0xFF) : firstFail (s.openRange c) = none := by
  have hwin : ¬(63 < c.u8 24 ∧ c.u8 24 ≠ 0xFF) := by omega
  have hpreset : within 1 5 p = true := (within_iff _ _ _).mpr ⟨h.presetLo, h.presetHi⟩
  have hrn : ¬31 < rn.val := by omega
  have hw : ¬1 < c.u8 27 := by have := h.width; omega
  have hmask : ¬(2 ^ ant.val = 0 ∨ 15 < 2 ^ ant.val) := by fin_cases ant <;> decide
  have hrsvd : firstFail (rsvdBytes c 41 43) = none := firstFail_rsvdBytes_of_bytes (n := 3) h.rsvd (by decide)
  simp only [State.openRange, List.cons_append, List.nil_append, firstFail, firstFail_append _ hrsvd, coefBufBad, h.taps, h.noBuf, hwin,
    h.preset, hpreset, h.runner, h.feeds, hrn, hw, h.ants, antsOf_single, List.any_cons, List.any_nil, h.band, hmask, h.split,
    openSplit_default h, h.shift, h.mu, Option.isNone_some, ne_eq, not_true_eq_false, and_false, false_and, decide_false, Bool.false_and,
    Bool.not_true, Bool.or_self, Bool.false_eq_true, if_false, if_true, show ¬192 < 0 by decide]

/-- What that command opens. -/
def defaultReq (c : CmdEntry) (p : Nat) : WinReq := openReq c (defaultSplit p) (builtinBank p 0 (if p ≤ 2 then 96 else 64))

theorem openBank_default (h : DefaultOpen s c rn ant p) :
    openBank c (defaultSplit p) = some (builtinBank p 0 (if p ≤ 2 then 96 else 64)) := by
  simp [openBank, h.taps, h.preset, builtinTaps, defaultSplit]

theorem firstIx_eq {n : Nat} {q : Fin n → Bool} {i : Fin n} (hi : q i = true) (hlow : ∀ j < i, q j = false) : firstIx q = some i := by
  refine List.find?_eq_some_iff_getElem.mpr ⟨hi, i.val, by simp, by simp, fun j hj => ?_⟩
  rw [List.getElem_finRange]
  simpa using hlow ⟨j, by omega⟩ hj

/-- The window named, or the lowest closed one. -/
theorem openTarget_eq (hst : s.win.win[win].st = 0)
    (hwin : c.u8 24 = win.val ∨ (c.u8 24 = 0xFF ∧ ∀ w : Fin 64, w < win → s.win.win[w].st ≠ 0)) : s.openTarget c = some win := by
  obtain h24 | ⟨h24, hlow⟩ := hwin
  · have hff : c.u8 24 ≠ 0xFF := by omega
    rw [State.openTarget, if_neg hff, ix_of_eq h24]
  · rw [State.openTarget, if_pos h24]
    exact firstIx_eq (decide_eq_true hst) fun w hw => decide_eq_false (hlow w hw)

theorem maxD_single {x : Window} {l : Leg} (h : x.legs = #v[some l, none, none, none]) : x.maxD = l.d := by
  simp [Window.maxD, h]

theorem refLeg_single {x : Window} {l : Leg} (h : x.legs = #v[some l, none, none, none]) : x.refLeg = some l := by
  simp [Window.refLeg, h]

/-- N_settle, G and M_cic of the default splits (R136). -/
def defaultSettings (p : Nat) : Nat × Nat × Nat :=
  match p with
  | 1 => (34, 464600, 240) | 2 => (34, 232280, 120) | 3 => (46, 40770, 40) | 4 => (46, 81570, 80) | _ => (38, 6280, 15)

theorem openedWindow_settings {q : WinReq} (l : Leg) (hlo : 1 ≤ p) (hhi : p ≤ 5) (hp : q.preset = p) (hsplit : q.split = defaultSplit p)
    (hbank : q.bank.t = if p ≤ 2 then 96 else 64) (hdelay : l.delay = 0) :
    ((openedWindow q l).nSettle, (openedWindow q l).groupDelay, (openedWindow q l).mcic) = defaultSettings p := by
  have hpreset : (openedWindow q l).preset = p := hp
  have hmcic : (openedWindow q l).mcic = (defaultSplit p).mcic := by rw [← hsplit]; rfl
  have hmcf : (openedWindow q l).mcf = (defaultSplit p).mcf := by rw [← hsplit]; rfl
  have hh : (openedWindow q l).h = 0 := (congrArg Split.h hsplit).trans rfl
  have htaps : (openedWindow q l).taps = if p ≤ 2 then 96 else 64 := hbank
  have hmaxD : (openedWindow q l).maxD = 0 := by rw [maxD_single rfl, Leg.d, hdelay]
  have hrefLeg : (openedWindow q l).refLeg = some l := refLeg_single rfl
  have hsettle : (openedWindow q l).nSettle = (openedWindow q l).settle := rfl
  simp only [hsettle, Window.settle, Window.span, Window.groupDelay, Window.delay2048, hrefLeg, hpreset, hmcic, hmcf, hh, htaps,
    hmaxD, Option.map_some, Option.getD_some, hdelay]
  interval_cases p <;> decide

/-- The window opens, and its leg number and its settings are returned. -/
theorem bodyWinOpen_default (h : DefaultOpen s c rn ant p) (hrun : s.pwr.st = .run) (hlevel : 2 ≤ s.pwr.level.toNat)
    (hloss : s.clk.lossInRun = false) (hant : s.cap.hr[ant].running = true) (hfan : s.win.win[win].fantail = false)
    (hfed : s.runnerFed rn = false) (hfree : s.freeLegs.head? = some no) (hst : s.win.win[win].st = 0)
    (hwin : c.u8 24 = win.val ∨ (c.u8 24 = 0xFF ∧ ∀ w : Fin 64, w < win → s.win.win[w].st ≠ 0)) {y : Window}
    (hy : y = openedWindow (defaultReq c p) (openedLeg s (defaultReq c p) ant no)) :
    bodyWinOpen c s = .ok (s.modWin win fun _ => y) ([byte win.val] ++ y.legBytes ++ [0] ++ y.result) none := by
  have hrn : Fin.ofNat 32 (c.u8 26) = rn := ofNat_eq h.runner
  have hof : s.windowOf rn = none := by simpa [State.runnerFed] using hfed
  have hnamed (k : Fin 64) (hk : ix 64 (c.u8 24) = some k) : k = win := by
    obtain h24 | ⟨h24, -⟩ := hwin
    · exact Option.some.inj (hk.symm.trans (ix_of_eq h24))
    · exact absurd (hk.symm.trans (ix_none (by omega))) nofun
  have hclosed : namedOpen s c = false := by
    rw [namedOpen, Option.any_eq_false]
    intro k hk
    rw [hnamed k hk, hst]
    decide
  have hopen : s.openWin win (openReq c (defaultSplit p) (builtinBank p 0 (if p ≤ 2 then 96 else 64))) = some (s.modWin win fun _ => y) :=
    hy ▸ openWin_single hst ((congrArg antsOf h.ants).trans (antsOf_single ant)) h.dcap hfree
  rw [bodyWinOpen_eq (fun k hk => hnamed k hk ▸ hfan) (by rw [hrn, hof]; exact nofun) (openRange_default h (by omega)),
    checked_pass _ (by simp only [firstFail, winPower_enough (below_two hlevel), onFio_run hrun, hloss, hclosed, hrn, hfed, h.ants,
      antsOf_single, List.any_cons, List.any_nil, hant, Bool.not_true, Bool.or_self, Bool.false_eq_true, if_false]),
    openSplit_default h]
  simp only [Option.elim_some, State.openCmd, openTarget_eq hst hwin, openBank_default h, hopen, modWin_win_same]

end Opening

/-! ### WIN_OPEN as the statement about it has it -/

section OpenClause

variable {s : State} {c : CmdEntry} {win : Fin 64} {rn : Fin 32} {ant : Fin 4} {no p : Nat}

theorem winOpen_default (ht : s.takes 0x0210 c = true) (h : DefaultOpen s c rn ant p) (hrun : s.pwr.st = .run)
    (hlevel : 2 ≤ s.pwr.level.toNat) (hloss : s.clk.lossInRun = false) (hant : s.cap.hr[ant].running = true)
    (hfan : s.win.win[win].fantail = false) (hfed : s.runnerFed rn = false) (hfree : s.freeLegs.head? = some no)
    (hst : s.win.win[win].st = 0)
    (hwin : c.u8 24 = win.val ∨ (c.u8 24 = 0xFF ∧ ∀ w : Fin 64, w < win → s.win.win[w].st ≠ 0)) :
    ∃ (u : State) (n g m : Nat) (l : Leg), exec (.winOpen c) s = .next (u.completesOk 0x0210 c
        ([byte win.val, byte no, 0xFF, 0xFF, 0xFF, 0] ++ leBytes 2 n ++ leBytes 4 g ++ leBytes 4 m) none) ∧
      (n, g, m) = defaultSettings p ∧
      u.win.win[win].st = 1 ∧ u.win.win[win].preset = p ∧ u.win.win[win].runner = rn ∧ u.win.win[win].freq = c.u32 28 ∧
      u.win.win[win].wide = decide (c.u8 27 = 1) ∧ u.win.win[win].shift = 8 ∧ u.win.win[win].nSettle = n ∧ u.win.win[win].withheld = n ∧
      u.win.win[win].mcic = m ∧ u.win.win[win].released = false ∧
      u.win.win[win].legs = #v[some l, none, none, none] ∧ l.no = no ∧ l.ant = ant ∧ l.nco = ncoWord s.cap.hr[ant] p (c.u32 28) ∧
      l.delay = 0 ∧ (∀ w : Fin 64, w ≠ win → u.win.win[w] = s.win.win[w]) ∧ u.win.dstoreFree = s.win.dstoreFree ∧
      u = { s.taken 0x0210 c with win := u.win } := by
  obtain ⟨l, hl⟩ : ∃ l, l = openedLeg s (defaultReq c p) ant no := ⟨_, rfl⟩
  obtain ⟨y, hy⟩ : ∃ y, y = openedWindow (defaultReq c p) l := ⟨_, rfl⟩
  have htaken : DefaultOpen (s.taken 0x0210 c) c rn ant p := { h with }
  have hbody := bodyWinOpen_default (y := y) htaken hrun hlevel hloss hant hfan hfed hfree hst hwin (by rw [hy, hl]; rfl)
  have hlegs : y.legs = #v[some l, none, none, none] := by rw [hy]; rfl
  have hpreset : (defaultReq c p).preset = p := h.preset
  have hset : (y.nSettle, y.groupDelay, y.mcic) = defaultSettings p :=
    hy ▸ openedWindow_settings l h.presetLo h.presetHi hpreset rfl rfl (by rw [hl]; rfl)
  have hbytes : [byte win.val] ++ y.legBytes ++ [0] ++ y.result =
      [byte win.val, byte no, 0xFF, 0xFF, 0xFF, 0] ++ leBytes 2 y.nSettle ++ leBytes 4 y.groupDelay ++ leBytes 4 y.mcic := by
    have hno : l.no = no := by rw [hl]; rfl
    simp [Window.legBytes, hlegs, hno, Window.result]
  have hwin' : ((s.taken 0x0210 c).modWin win fun _ => y).win.win[win] = y := modWin_win_same _ _ _
  refine ⟨(s.taken 0x0210 c).modWin win fun _ => y, y.nSettle, y.groupDelay, y.mcic, l, ?_, hset, ?_⟩
  · rw [← hbytes]
    exact congrArg Host.Outcome.next (runCmd_ok ht hbody)
  rw [hwin']
  refine ⟨by rw [hy]; rfl, by rw [hy]; exact hpreset, by rw [hy]; exact ofNat_eq h.runner, by rw [hy]; rfl, by rw [hy]; rfl,
    by rw [hy]; exact if_pos h.shift, rfl, by rw [hy]; rfl, rfl, by rw [hy]; rfl, hlegs, by rw [hl]; rfl, by rw [hl]; rfl,
    by rw [hl, ← hpreset]; rfl, by rw [hl]; rfl, fun w hw => modWin_win_other _ hw, rfl, rfl⟩

end OpenClause

end Sys2Proof.Proofs
end

section
/-!
SUPPORT. WIN_CLOSE, WIN_COEF and WIN_BANK (R120, R126, R127, R140): what each body answers, and what the boundaries of a close and of a swap
make of the window.
-/

namespace Sys2Proof.Proofs

open Sys2Proof Sys2Proof.Machine Sys2Proof.Laws

/-! ### WIN_CLOSE and its boundary (R140) -/

section Close

variable {s : State} {c : CmdEntry} {w : Fin 64}

theorem bodyWinClose_eq (h24 : c.u8 24 = w.val) (h25 : c.u8 25 ≤ 1) (hrsvd : firstFail (rsvdBytes c 26 27) = none)
    (hfan : s.win.win[w].fantail = false) : bodyWinClose c s =
      checked [s.winPower, s.winClosed w, s.winLent w, (decide (c.u8 25 = 0) && s.winServes w, .busy, 0)] fun _ =>
        .wait (s.modWin w fun x => { x with closing := some (decide (c.u8 25 = 1), some c.id) }) := by
  have h1 : ¬1 < c.u8 25 := by omega
  simp only [bodyWinClose, cmdWin_named h24, fanYield_host hfan, winRange_named h24, checked, List.cons_append, List.nil_append, firstFail,
    firstFail_append _ hrsvd, h1, decide_false, Bool.false_eq_true, if_false]

theorem winServes_iff : s.winServes w = true ↔ s.ctxsOf s.win.win[w].runner ≠ [] := by
  simp only [State.winServes, Bool.not_eq_true', List.isEmpty_eq_false_iff, ne_eq]

theorem bodyWinClose_closes {f : Nat} (hb : c.bytes 24 4 = [byte w.val, byte f, 0, 0]) (hf : f ≤ 1) (hpl : s.below 2 = false)
    (hst : s.win.win[w].st ≠ 0) (hclosing : s.win.win[w].closing = none) (hfan : s.win.win[w].fantail = false)
    (hlent : s.svc.run[s.win.win[w].runner].fm.lent = false) (hctx : f = 1 ∨ s.ctxsOf s.win.win[w].runner = []) :
    bodyWinClose c s = .wait (s.modWin w fun x => { x with closing := some (decide (f = 1), some c.id) }) := by
  obtain ⟨h24, h25, hrsvd⟩ := params_two (by omega) hb
  rw [byte_toNat (by omega)] at h25
  have hserves : (decide (f = 0) && s.winServes w) = false := by
    rw [Bool.and_eq_false_imp, decide_eq_true_eq]
    intro h0
    obtain h1 | hnone := hctx
    · omega
    · exact Bool.eq_false_iff.mpr fun h => winServes_iff.mp h hnone
  rw [bodyWinClose_eq h24 (by omega) hrsvd hfan, h25]
  exact checked_pass _ (by simp only [firstFail, winPower_enough hpl, winClosed_open hst hclosing, winLent_no hlent, hserves,
    Bool.false_eq_true, if_false])

theorem bodyWinClose_serves (hb : c.bytes 24 4 = [byte w.val, 0, 0, 0]) (hpl : s.below 2 = false)
    (hst : s.win.win[w].st ≠ 0) (hclosing : s.win.win[w].closing = none) (hfan : s.win.win[w].fantail = false)
    (hlent : s.svc.run[s.win.win[w].runner].fm.lent = false) (hctx : s.ctxsOf s.win.win[w].runner ≠ []) :
    bodyWinClose c s = .fail .busy 0 := by
  obtain ⟨h24, h25, hrsvd⟩ := params_two (by omega) hb
  have h0 : c.u8 25 = 0 := h25
  rw [bodyWinClose_eq h24 (by omega) hrsvd hfan]
  exact checked_fail _ (by simp only [firstFail, winPower_enough hpl, winClosed_open hst hclosing, winLent_no hlent, h0, decide_true,
    Bool.true_and, winServes_iff.mpr hctx, Bool.false_eq_true, if_false, if_true])

theorem bodyWinClose_power (h24 : c.u8 24 ≤ 63) (hb : c.bytes 25 3 = [0, 0, 0]) (hrun : s.pwr.st = .run) (hlevel : s.pwr.level.toNat ≤ 1)
    (hfan : ∀ k : Fin 64, s.win.win[k].fantail = false) : bodyWinClose c s = .fail .power 0 := by
  have hw : c.u8 24 = (⟨c.u8 24, by omega⟩ : Fin 64).val := rfl
  have h25 : c.u8 25 = 0 := u8_of_bytes (i := 0) hb (by decide) (by decide)
  have hrsvd : firstFail (rsvdBytes c 26 27) = none :=
    firstFail_rsvd_26_27 (u8_of_bytes (i := 1) hb (by decide) (by decide)) (u8_of_bytes (i := 2) hb (by decide) (by decide))
  have hpl : s.winPower = (true, .power, 0) := by
    have : s.pwr.level.toNat < 2 := by omega
    simp [State.winPower, State.below, hrun, this]
  rw [bodyWinClose_eq hw (by omega) hrsvd (hfan _)]
  exact checked_fail _ (by simp only [firstFail, hpl, if_true])

/-- The entries of a table in order. -/
theorem toList_eq_map_finRange {α : Type} {n : Nat} (v : Vector α n) : v.toList = (List.finRange n).map fun i => v[i] := by
  refine List.ext_getElem (by simp) fun i _ _ => by simp

/-- Delay blocks of the delay store that the leg at a position holds. -/
def storeBlocksAt (x : Window) (p : Fin 4) : Nat := (x.legs[p].map Leg.storeBlocks).getD 0

theorem freeBlocks_eq (s : State) (w : Fin 64) (p : Fin 4) : ∃ d : DmaBlk, s.freeBlocks w p =
    { s with win := { s.win with dstoreFree := s.win.dstoreFree + storeBlocksAt s.win.win[w] p }, dma := d } := by
  cases hl : s.win.win[w].legs[p] with
  | none => exact ⟨s.dma, by simp only [State.freeBlocks, hl, storeBlocksAt, Option.map_none, Option.getD_none, Nat.add_zero]⟩
  | some l =>
    refine ⟨(s.gpFree (.delay w p)).dma, ?_⟩
    simp only [State.freeBlocks, hl, storeBlocksAt, Option.map_some, Option.getD_some]
    rfl

/-- Delay blocks return position by position; general-use SRAM is in the DMA block. -/
theorem foldl_freeBlocks (w : Fin 64) (l : List (Fin 4)) (s : State) : ∃ d : DmaBlk, l.foldl (fun s p => s.freeBlocks w p) s =
    { s with win := { s.win with dstoreFree := s.win.dstoreFree + (l.map (storeBlocksAt s.win.win[w])).sum }, dma := d } := by
  induction l generalizing s with
  | nil => exact ⟨s.dma, rfl⟩
  | cons p l ih =>
    obtain ⟨d, hd⟩ := freeBlocks_eq s w p
    obtain ⟨e, he⟩ := ih (s.freeBlocks w p)
    refine ⟨e, ?_⟩
    rw [List.foldl_cons, he, hd]
    simp only [List.map_cons, List.sum_cons, Nat.add_assoc]

theorem closeWin_eq (s : State) (w : Fin 64) : ∃ d : DmaBlk, s.closeWin w =
    (({ s with win := { s.win with dstoreFree := s.win.dstoreFree +
                          (s.win.win[w].legs.toList.map fun l : Option Leg => (l.map Leg.storeBlocks).getD 0).sum }
               dma := d }).modWin w fun _ => {}).modRun s.win.win[w].runner Runner.cleared := by
  obtain ⟨d, hd⟩ := foldl_freeBlocks w (List.finRange 4) s
  refine ⟨d, ?_⟩
  rw [State.closeWin, hd, toList_eq_map_finRange, List.map_map]
  rfl

/-- The boundary of a close without FORCE. -/
theorem closeEffect_unforced {slot : Nat} (h : s.win.win[w].closing = some (false, some slot)) :
    s.closeEffect w = (s.closeWin w).finishSlot 0x0211 slot .ok 0 [] none := by
  simp only [State.closeEffect, h, Bool.false_eq_true, if_false]

theorem closeEffect_none (h : s.win.win[w].closing = none) : s.closeEffect w = s := by
  simp only [State.closeEffect, h]

theorem winCloseEffect_closes {slot : Nat} (h : s.win.win[w].closing = some (false, some slot)) :
    ∃ u : State, exec (.winCloseEffect w) s = .next (u.finishSlot 0x0211 slot .ok 0 [] none) ∧ u.win.win[w] = {} ∧
      (∀ k : Fin 64, k ≠ w → u.win.win[k] = s.win.win[k]) ∧
      u.win.dstoreFree = s.win.dstoreFree + (s.win.win[w].legs.toList.map fun l => (l.map Leg.storeBlocks).getD 0).sum ∧
      u.svc = (s.modRun s.win.win[w].runner Runner.cleared).svc ∧ u = { s with win := u.win, svc := u.svc, dma := u.dma } := by
  obtain ⟨d, hd⟩ := closeWin_eq s w
  refine ⟨s.closeWin w, congrArg Host.Outcome.next (closeEffect_unforced h), ?_⟩
  rw [hd]
  exact ⟨modWin_win_same _ w _, fun k hk => modWin_win_other _ hk, rfl, rfl, rfl⟩

end Close

/-! ### WIN_COEF, WIN_BANK and the boundary of a swap (R120, R126, R127) -/

section Banks

variable {s : State} {c : CmdEntry} {w : Fin 64} {b : Bool}

theorem decide_b01 (b : Bool) : decide (b01 b = 1) = b := by cases b <;> rfl

/-- A bank is loaded in its place. -/
theorem load_eq (x : Window) (b : Bool) (y : Bank) :
    x.load b y = { x with banks := x.banks.set (if b then 1 else 0) y (by split <;> decide) } := by
  have hbanks : (if b then #v[x.banks[0], y] else #v[y, x.banks[1]]) = x.banks.set (if b then 1 else 0) y (by split <;> decide) := by
    ext i hi
    obtain rfl | rfl : i = 0 ∨ i = 1 := by omega
    all_goals cases b <;> simp
  rw [Window.load, hbanks]

theorem bodyWinCoef_eq {t : Nat} (hb : c.bytes 24 4 = [byte w.val, byte (b01 b), byte t, 0]) (hlo : 1 ≤ t) (hhi : t ≤ 192)
    (hin : c.bufIn = true) (hlen : c.bufLen.toNat = 4 * ((t + 1) / 2)) (hok : coefsOk t c = true) (hpl : s.below 2 = false)
    (hst : s.win.win[w].st ≠ 0) (hclosing : s.win.win[w].closing = none) :
    bodyWinCoef c s = if s.win.win[w].bank = b then .fail .busy 0 else .ok (s.modWin w fun x => x.load b (cmdBank t c)) [] none := by
  obtain ⟨h24, h25, h26, h27⟩ := windowParams hb
  rw [byte_b01] at h25
  rw [byte_toNat (by omega)] at h26
  have h27 : c.u8 27 = 0 := h27
  have ht : within 1 192 t = true := (within_iff _ _ _).mpr ⟨hlo, hhi⟩
  have h1 : ¬1 < b01 b := by cases b <;> decide
  have hbuf : coefBufBad t c = false := by
    have h0 : t ≠ 0 := by omega
    simp [coefBufBad, h0, hin, hlen, coefCount]
  simp only [bodyWinCoef, cmdWin_named h24, winRange_named h24, h25, h26, h27, decide_b01, checked, firstFail, ht, hbuf, h1, hok,
    winPower_enough hpl, winClosed_open hst hclosing, ne_eq, not_true_eq_false, decide_false, Bool.not_true, Bool.false_eq_true, if_false]
  by_cases hbank : s.win.win[w].bank = b
  · simp only [hbank, decide_true, if_true]
  · simp only [hbank, decide_false, Bool.false_eq_true, if_false, Answer.done]

/-- The checks of WIN_BANK behind its parameters, in RUN at PL2 and above. -/
theorem bodyWinBank_eq (hb : c.bytes 24 4 = [byte w.val, byte (b01 b), 0, 0]) (hrun : s.pwr.st = .run) (hlevel : 2 ≤ s.pwr.level.toNat)
    (hloss : s.clk.lossInRun = false) : bodyWinBank c s =
      checked [s.winClosed w, (decide (s.win.win[w].bank = b) || !s.win.win[w].loaded b, .state, 0)] fun _ =>
        .wait (s.modWin w fun x => { x with swap := some {
          bank := b, h := s.win.win[w].h, mcic := s.win.win[w].mcic, mcf := s.win.win[w].mcf, mfir := s.win.win[w].mfir
          shift := s.win.win[w].shift, ratio := false, slot := c.id } }) := by
  obtain ⟨h24, h25, hrsvd⟩ := params_two (by omega) hb
  rw [byte_b01] at h25
  have h1 : ¬1 < b01 b := by cases b <;> decide
  simp only [bodyWinBank, cmdWin_named h24, winRange_named h24, h25, decide_b01, checked, List.cons_append, List.nil_append, firstFail,
    firstFail_append _ hrsvd, h1, winPower_enough (below_two hlevel), onFio_run hrun, hloss, decide_false, Bool.false_eq_true, if_false]

theorem bodyWinBank_waits (hb : c.bytes 24 4 = [byte w.val, byte (b01 b), 0, 0]) (hrun : s.pwr.st = .run) (hlevel : 2 ≤ s.pwr.level.toNat)
    (hloss : s.clk.lossInRun = false) (hst : s.win.win[w].st ≠ 0) (hclosing : s.win.win[w].closing = none) (hbank : s.win.win[w].bank ≠ b)
    (hload : s.win.win[w].loaded b = true) : bodyWinBank c s =
      .wait (s.modWin w fun x => { x with swap := some {
        bank := b, h := s.win.win[w].h, mcic := s.win.win[w].mcic, mcf := s.win.win[w].mcf, mfir := s.win.win[w].mfir
        shift := s.win.win[w].shift, ratio := false, slot := c.id } }) := by
  rw [bodyWinBank_eq hb hrun hlevel hloss]
  exact checked_pass _ (by simp only [firstFail, winClosed_open hst hclosing, hbank, hload, decide_false, Bool.not_true, Bool.or_self,
    Bool.false_eq_true, if_false])

/-- A closed window and the active bank are refused with the same status. -/
theorem bodyWinBank_state (hb : c.bytes 24 4 = [byte w.val, byte (b01 b), 0, 0]) (hrun : s.pwr.st = .run) (hlevel : 2 ≤ s.pwr.level.toNat)
    (hloss : s.clk.lossInRun = false) (h : s.win.win[w].st = 0 ∨ s.win.win[w].bank = b) : bodyWinBank c s = .fail .state 0 := by
  rw [bodyWinBank_eq hb hrun hlevel hloss]
  apply checked_fail
  obtain hst | hbank := h
  · simp only [firstFail, winClosed_closed hst, if_true]
  · simp only [firstFail, State.winClosed, hbank, decide_true, Bool.true_or, if_true, ite_self]

/-- What a swap makes of a window at its boundary: the settings that it brings, and a withholding for their N_settle. -/
def swapWindow (q : Swap) (x : Window) : Window :=
  withholding (if q.ratio then .ratio else .bank) { x with
    swap := none, bank := q.bank, h := q.h, mcic := q.mcic, mcf := q.mcf, mfir := q.mfir, shift := q.shift
    legs := x.legs.map fun l => l.map fun l => { l with chain := if q.ratio then l.chain.restart else l.chain } }

theorem swapEffect_ratio {q : Swap} (h : s.win.win[w].swap = some q) (hratio : q.ratio = true) : s.swapEffect w =
    (s.modWin w (swapWindow q)).finishSlot 0x0213 q.slot .ok 0 (List.replicate 6 0 ++ (swapWindow q s.win.win[w]).result) none := by
  obtain ⟨_, _, _, _, _, _, _, _⟩ := q
  subst hratio
  simp only [State.swapEffect, h, withhold_modWin, modWin_win_same]
  rfl

theorem swapEffect_bank {q : Swap} (h : s.win.win[w].swap = some q) (hratio : q.ratio = false) : s.swapEffect w =
    (s.modWin w (swapWindow q)).finishSlot 0x0215 q.slot .ok 0 [] none := by
  obtain ⟨_, _, _, _, _, _, _, _⟩ := q
  subst hratio
  simp only [State.swapEffect, h, withhold_modWin]
  rfl

theorem swapEffect_none (h : s.win.win[w].swap = none) : s.swapEffect w = s := by
  simp only [State.swapEffect, h]

/-- A swap of the bank alone leaves the legs as they are. -/
theorem swapWindow_legs {q : Swap} (hratio : q.ratio = false) (x : Window) : (swapWindow q x).legs = x.legs := by
  simp [swapWindow, withholding, hratio]

/-- N_settle of a bank that becomes active (R120). -/
theorem swapWindow_nSettle {q : Swap} (hratio : q.ratio = false) (x : Window) : (swapWindow q x).nSettle =
    (5 * (q.mcic - 1) + 31 * q.mcic + 22 * q.mcic * q.mcf * (2 ^ q.h - 1) +
      ((if q.bank then x.banks[1].t else x.banks[0].t) - 1) * q.mcic * q.mcf * 2 ^ q.h +
      (x.maxD + 3) * presetTotal x.preset + presetTotal x.preset - 1) / presetTotal x.preset + 2 := by
  have hsettle : (swapWindow q x).nSettle = (swapWindow q x).settle := rfl
  have hmaxD : (swapWindow q x).maxD = x.maxD := by simp only [Window.maxD, swapWindow_legs hratio]
  have hspan : (swapWindow q x).span = 5 * (q.mcic - 1) + 31 * q.mcic + 22 * q.mcic * q.mcf * (2 ^ q.h - 1) +
      ((if q.bank then x.banks[1].t else x.banks[0].t) - 1) * q.mcic * q.mcf * 2 ^ q.h + 3 * presetTotal x.preset := rfl
  have hpreset : (swapWindow q x).preset = x.preset := rfl
  rw [hsettle, Window.settle, hspan, hmaxD, hpreset, ceilDiv, Nat.add_mul x.maxD, Nat.add_comm (x.maxD * _), ← Nat.add_assoc]

theorem bankSwapEffect_bank {q : Swap} (h : s.win.win[w].swap = some q) (hratio : q.ratio = false) :
    ∃ u : State, exec (.bankSwapEffect w) s = .next (u.finishSlot 0x0215 q.slot .ok 0 [] none) ∧
      u = s.modWin w (fun x => { x with
        swap := none, bank := q.bank, h := q.h, mcic := q.mcic, mcf := q.mcf, mfir := q.mfir, shift := q.shift, st := 1, change := .bank
        nSettle := u.win.win[w].nSettle, withheld := u.win.win[w].nSettle
        disc := if x.released then min (2 ^ 24 - 1) (x.disc + u.win.win[w].nSettle) else 0 }) ∧
      u.win.win[w].nSettle = (5 * (q.mcic - 1) + 31 * q.mcic + 22 * q.mcic * q.mcf * (2 ^ q.h - 1) +
        ((if q.bank then s.win.win[w].banks[1].t else s.win.win[w].banks[0].t) - 1) * q.mcic * q.mcf * 2 ^ q.h +
        (s.win.win[w].maxD + 3) * presetTotal s.win.win[w].preset + presetTotal s.win.win[w].preset - 1) /
          presetTotal s.win.win[w].preset + 2 := by
  have hsame : (s.modWin w (swapWindow q)).win.win[w] = swapWindow q s.win.win[w] := modWin_win_same _ _ _
  refine ⟨s.modWin w (swapWindow q), congrArg Host.Outcome.next (swapEffect_bank h hratio), ?_, ?_⟩
  · apply modWin_congr
    rw [hsame]
    have hlegs := swapWindow_legs hratio s.win.win[w]
    have hchange : (swapWindow q s.win.win[w]).change = .bank := by simp only [swapWindow, withholding, hratio, Bool.false_eq_true, if_false]
    rw [← hlegs, ← hchange]
    rfl
  · rw [hsame, swapWindow_nSettle hratio]

end Banks

/-- Settles O37: each command by what its body answers, each boundary by what it makes of the window. -/
theorem windowsOpenAndClose : Obligations.WindowsOpenAndClose := by
  unfold Obligations.WindowsOpenAndClose
  refine ⟨?_, ?_, ?_, ?_, ?_, fun _ _ _ => winCloseEffect_closes, fun _ _ h => congrArg Host.Outcome.next (closeEffect_none h), ?_, ?_, ?_,
    fun _ _ _ => bankSwapEffect_bank, fun _ _ h => congrArg Host.Outcome.next (swapEffect_none h), ?_⟩
  case refine_1 =>
    intro s c win rn ant no p f ht hrsvd hmu hdcap hshift htaps hsplit hbuf hwidth hants hpreset hlo hhi hrn hfeeds hf hband hrun hlevel hloss
      hant hfan hfed hfree hst hwin
    subst hf
    exact winOpen_default ht ⟨hrsvd, hmu, hdcap, hshift, htaps, hsplit, hbuf, hwidth, hants, hpreset, hlo, hhi, hrn, hfeeds, hband⟩ hrun hlevel
      hloss hant hfan hfed hfree hst hwin
  case refine_2 =>
    intro s c win ht hrange h24 hst hfan hof hrun hlevel hloss
    exact congrArg Host.Outcome.next (runCmd_fail ht (bodyWinOpen_open (s := s.taken 0x0210 c) hrange h24 hst hfan hof hrun hlevel hloss))
  case refine_3 =>
    intro s c win w ht hrange h24 hst hfan hof hw hants hrun hlevel hloss
    exact congrArg Host.Outcome.next
      (runCmd_fail ht (bodyWinOpen_fed (s := s.taken 0x0210 c) hrange h24 hst hfan hof hw hants hrun hlevel hloss))
  case refine_4 =>
    intro s c win f ht hb hf hpl hst hclosing hfan hlent hctx
    exact ⟨_, congrArg Host.Outcome.next (runCmd_wait ht
      (bodyWinClose_closes (s := s.taken 0x0211 c) hb hf hpl hst hclosing hfan hlent hctx)), rfl, rfl⟩
  case refine_5 =>
    intro s c win ht hb hpl hst hclosing hfan hlent hctx
    exact congrArg Host.Outcome.next
      (runCmd_fail ht (bodyWinClose_serves (s := s.taken 0x0211 c) hb hpl hst hclosing hfan hlent hctx))
  case refine_6 =>
    intro s c win b t ht hb hlo hhi hin hlen hok hpl hst hclosing
    have hbody := bodyWinCoef_eq (s := s.taken 0x0214 c) hb hlo hhi hin hlen hok hpl hst hclosing
    have hbank : (s.taken 0x0214 c).win.win[win].bank = s.win.win[win].bank := rfl
    rw [hbank] at hbody
    refine congrArg Host.Outcome.next ?_
    split at hbody
    · rw [if_pos ‹_›, runCmd_fail ht hbody]
    · rw [if_neg ‹_›, runCmd_ok ht hbody]
      simp only [load_eq]
      rfl
  case refine_7 =>
    intro s c win b ht hb hrun hlevel hloss hst hclosing hbank hload
    exact ⟨_, _, congrArg Host.Outcome.next (runCmd_wait ht
      (bodyWinBank_waits (s := s.taken 0x0215 c) hb hrun hlevel hloss hst hclosing hbank hload)), rfl, rfl, rfl, rfl, rfl, rfl, rfl, rfl, rfl, rfl⟩
  case refine_8 =>
    intro s c win b ht hb hrun hlevel hloss h
    exact congrArg Host.Outcome.next (runCmd_fail ht (bodyWinBank_state (s := s.taken 0x0215 c) hb hrun hlevel hloss h))
  case refine_9 =>
    intro s c ht h24 hb hrun hlevel hfan
    exact congrArg Host.Outcome.next (runCmd_fail ht (bodyWinClose_power (s := s.taken 0x0211 c) h24 hb hrun hlevel hfan))

end Sys2Proof.Proofs
end

section
/-!
SUPPORT. A runner that acquires again (R17, R21): the operations on the runner change runners, counters and what the host is told, and the
contexts that it serves move from RUNNING to ACQUIRING.
-/

namespace Sys2Proof.Proofs

open Sys2Proof Sys2Proof.Machine Sys2Proof.Laws

/-! ### Agreement but for the runners, the counters and what the host is told -/

section Runners

variable {s t : State} {r : Fin 32}

/-- A state without its runners, its counters, its host block and its event block. -/
def exceptRunners (s : State) : State := { s with host := {}, evt := {}, tlm := [], svc := { s.svc with run := ({} : SvcBlk).run } }

/-- Two states agree but for those. -/
def RunnersOnly (s t : State) : Prop := exceptRunners t = exceptRunners s

theorem RunnersOnly.refl (s : State) : RunnersOnly s s := rfl

theorem runnersOnly_trans {u : State} (h : RunnersOnly s t) (k : RunnersOnly t u) : RunnersOnly s u :=
  Eq.trans (b := exceptRunners t) k h

theorem runnersOnly_of_rest (h : Rest s t) : RunnersOnly s t := congrArg exceptRunners (a₁ := rest t) (a₂ := rest s) h

theorem runnersOnly_modRun (h : RunnersOnly s t) (f : Runner → Runner) : RunnersOnly s (t.modRun r f) := h

theorem runnersOnly_bump (h : RunnersOnly s t) (off n : Nat) : RunnersOnly s (t.bump off n) := h

theorem runnersOnly_lockEvent (h : RunnersOnly s t) (code : Nat) (extra : List Byte) : RunnersOnly s (t.lockEvent r code extra) :=
  runnersOnly_trans h (runnersOnly_of_rest (rest_raise (Rest.refl t) _ _ _))

theorem runnersOnly_foldl {α : Type} {g : State → α → State} (hg : ∀ t x, RunnersOnly s t → RunnersOnly s (g t x)) (l : List α)
    (h : RunnersOnly s t) : RunnersOnly s (l.foldl g t) :=
  List.foldlRecOn (motive := RunnersOnly s) l g h fun u hu x _ => hg u x hu

theorem runnersOnly_loseLock (h : RunnersOnly s t) : RunnersOnly s (t.loseLock r) := by
  unfold State.loseLock
  split
  · exact runnersOnly_lockEvent (runnersOnly_bump (runnersOnly_modRun h _) _ _) _ _
  · exact h

theorem runnersOnly_loseRdsSync (h : RunnersOnly s t) (mask : BitVec 4) : RunnersOnly s (t.loseRdsSync r mask) := by
  unfold State.loseRdsSync
  refine runnersOnly_foldl (fun u i hu => ?_) _ (runnersOnly_modRun h _)
  split
  · exact runnersOnly_lockEvent hu _ _
  · exact hu

theorem runnersOnly_loseSuper (h : RunnersOnly s t) (sub : Fin 64) : RunnersOnly s (t.loseSuper r sub) := by
  unfold State.loseSuper
  split
  · exact runnersOnly_lockEvent (runnersOnly_bump (runnersOnly_modRun h _) _ _) _ _
  · exact h

theorem runnersOnly_loseTiming (h : RunnersOnly s t) : RunnersOnly s (t.loseTiming r) := by
  unfold State.loseTiming
  dsimp only
  split
  · exact runnersOnly_lockEvent (runnersOnly_modRun h _) _ _
  · split
    · exact runnersOnly_lockEvent (runnersOnly_modRun h _) _ _
    · exact h

theorem runnersOnly_restart (s : State) (r : Fin 32) : RunnersOnly s (s.restart r) := by
  refine runnersOnly_lockEvent (runnersOnly_modRun (runnersOnly_loseTiming ?_) _) _ _
  exact runnersOnly_foldl (fun u k hu => runnersOnly_loseSuper hu k) _ (runnersOnly_loseRdsSync (runnersOnly_loseLock (RunnersOnly.refl s)) _)

theorem runnersOnly_ctx (h : RunnersOnly s t) : t.svc.ctx = s.svc.ctx :=
  congrArg (fun x : State => x.svc.ctx) (a₁ := exceptRunners t) (a₂ := exceptRunners s) h

end Runners

/-! ### Agreement but for services, counters and what the host is told -/

section Services

variable {s t : State}

/-- A state without its services, its counters, its host block and its event block. -/
def exceptServices (s : State) : State := { s with host := {}, evt := {}, tlm := [], svc := {} }

/-- Two states agree but for those. -/
def ServicesOnly (s t : State) : Prop := exceptServices t = exceptServices s

theorem servicesOnly_of_runners (h : RunnersOnly s t) : ServicesOnly s t :=
  congrArg exceptServices (a₁ := exceptRunners t) (a₂ := exceptRunners s) h

theorem servicesOnly_of_rest (h : Rest s t) : ServicesOnly s t := congrArg exceptServices (a₁ := rest t) (a₂ := rest s) h

theorem servicesOnly_trans {u : State} (h : ServicesOnly s t) (k : ServicesOnly t u) : ServicesOnly s u :=
  Eq.trans (b := exceptServices t) k h

theorem servicesOnly_win (h : ServicesOnly s t) : t.win = s.win :=
  congrArg State.win (a₁ := exceptServices t) (a₂ := exceptServices s) h

/-- What the agreement says of the state as a whole. -/
theorem servicesOnly_eq (h : ServicesOnly s t) : t = { s with svc := t.svc, tlm := t.tlm, host := t.host, evt := t.evt } := by
  cases s
  cases t
  simp only [ServicesOnly, exceptServices, State.mk.injEq] at h ⊢
  simp only [h, and_self]

end Services

/-! ### RUNNING contexts move to ACQUIRING (R17, R21) -/

section Contexts

variable {s t : State}

/-- What the loss of the signal makes of a context. -/
def acquires (x : Ctx) : Ctx := if x.st = .running then { x with st := .acquiring } else x

theorem acquires_acquires (x : Ctx) : acquires (acquires x) = acquires x := by
  unfold acquires
  split <;> simp [*]

theorem acquires_st (x : Ctx) : (acquires x).st = if x.st = .running then .acquiring else x.st := by
  unfold acquires
  split <;> rfl

theorem modCtx_id {c : Fin 256} {f : Ctx → Ctx} (h : f s.svc.ctx[c] = s.svc.ctx[c]) : s.modCtx c f = s := by
  simp only [State.modCtx, upd_id h]

/-- One context, up to the event that reports its move. -/
theorem rest_acquires (h : Rest s t) (c : Fin 256) (reason : Nat) :
    Rest (s.modCtx c acquires) (if t.svc.ctx[c].st = .running then t.moveCtx c .acquiring reason else t) := by
  refine rest_trans (rest_modCtx h c acquires) ?_
  split
  · next hrun =>
    have hmove := rest_moveCtx (s := t) (c := c) (new := .acquiring) (by rw [hrun]; exact nofun) reason
    have hsame : t.modCtx c acquires = t.modCtx c fun x => { x with st := .acquiring } := by
      simp only [State.modCtx, upd_congr (v := t.svc.ctx) (i := c) (f := acquires) (g := fun x => { x with st := .acquiring })
        (by rw [acquires, if_pos hrun])]
    rwa [hsame]
  · next hrun =>
    rw [modCtx_id (by rw [acquires, if_neg hrun])]
    exact Rest.refl t

theorem rest_foldl_acquires (reason : Nat) (l : List (Fin 256)) (h : Rest s t) :
    Rest (l.foldl (fun s c => s.modCtx c acquires) s)
      (l.foldl (fun s c => if s.svc.ctx[c].st = .running then s.moveCtx c .acquiring reason else s) t) := by
  induction l generalizing s t with
  | nil => exact h
  | cons c l ih => exact ih (rest_acquires h c reason)

theorem foldl_modCtx_ctx {g : Ctx → Ctx} (hg : ∀ x, g (g x) = g x) (l : List (Fin 256)) (s : State) (n : Fin 256) :
    (l.foldl (fun s c => s.modCtx c g) s).svc.ctx[n] = if n ∈ l then g s.svc.ctx[n] else s.svc.ctx[n] := by
  induction l generalizing s with
  | nil => rfl
  | cons c l ih =>
    rw [List.foldl_cons, ih, modCtx_svc]
    by_cases hc : n = c
    · subst hc
      simp only [upd_same, hg, ite_self, List.mem_cons, true_or, if_true]
    · simp only [upd_other _ c n g (Ne.symm hc), List.mem_cons, hc, false_or]

theorem servicesOnly_foldl_modCtx (g : Ctx → Ctx) (l : List (Fin 256)) (s : State) :
    ServicesOnly s (l.foldl (fun s c => s.modCtx c g) s) :=
  List.foldlRecOn (motive := ServicesOnly s) l _ rfl fun _ hu _ _ => hu

/-- A runner that acquires again: nothing but services, counters and reports changes, and its RUNNING contexts move. -/
theorem reacquire_spec (s : State) (r : Fin 32) : ServicesOnly s (s.reacquire r) ∧
    ∀ n : Fin 256, (s.reacquire r).svc.ctx[n].st =
      if s.svc.ctx[n].runner = r ∧ s.svc.ctx[n].st = .running then .acquiring else s.svc.ctx[n].st := by
  obtain ⟨t, ht⟩ : ∃ t, t = (s.restart r).runCount r.val 18 1 := ⟨_, rfl⟩
  have hrestart : RunnersOnly s t := ht ▸ runnersOnly_bump (runnersOnly_restart s r) _ _
  have hctx := runnersOnly_ctx hrestart
  have hmoved : Rest ((t.ctxsOf r).foldl (fun s c => s.modCtx c acquires) t) (s.reacquire r) := by
    rw [State.reacquire, ← ht]
    exact rest_foldl_acquires 2 _ (Rest.refl t)
  refine ⟨servicesOnly_trans (servicesOnly_of_runners hrestart)
    (servicesOnly_trans (servicesOnly_foldl_modCtx _ _ _) (servicesOnly_of_rest hmoved)), fun n => ?_⟩
  have hmem : n ∈ t.ctxsOf r ↔ s.svc.ctx[n].runner = r ∧ s.svc.ctx[n].st ≠ .free := by
    simp only [State.ctxsOf, allIx, List.mem_filter, List.mem_finRange, true_and, Bool.and_eq_true, decide_eq_true_eq, hctx]
  rw [rest_svc_eq hmoved, foldl_modCtx_ctx acquires_acquires, apply_ite Ctx.st, acquires_st, hctx]
  by_cases hrun : s.svc.ctx[n].st = .running
  · simp only [hmem, hrun, ne_eq, reduceCtorEq, not_false_eq_true, and_true, if_true]
  · simp only [hrun, and_false, if_false, ite_self]

end Contexts

end Sys2Proof.Proofs
end

section
/-!
SUPPORT. WIN_TUNE, WIN_RATIO, WIN_DELAY and WIN_LEG (R111 to R131, R140): what each body answers, and what the legs that leave take with them.
-/

namespace Sys2Proof.Proofs

open Sys2Proof Sys2Proof.Machine Sys2Proof.Laws

/-! ### WIN_TUNE (R111, R114, R120) -/

section Tune

variable {s : State} {c : CmdEntry} {w : Fin 64} {f : Nat}

theorem maxD_mapDelay {x y : Window} {g : Leg → Leg} (hg : ∀ l, (g l).delay = l.delay) (h : y.legs = x.legs.map fun l => l.map g) :
    y.maxD = x.maxD := by
  have hd (l : Option Leg) : ((l.map g).map Leg.d).getD 0 = (l.map Leg.d).getD 0 := by
    cases l with
    | none => rfl
    | some l => exact congrArg (· / 1024) (hg l)
  simp only [Window.maxD, h, Vector.toList_map, List.map_map, Function.comp_def, hd]

/-- A window that takes another frequency (R114, R120). -/
def tunedWindow (s : State) (f : Nat) : Window → Window := fun x =>
  withholding .nco { x with
    freq := f, legs := x.legs.map fun l => l.map fun l => { l with nco := ncoWord s.cap.hr[l.ant] x.preset f } }

theorem tunedWindow_settle (s : State) (f : Nat) (x : Window) : (tunedWindow s f x).nSettle = x.settle := by
  have hmaxD : (tunedWindow s f x).maxD = x.maxD :=
    maxD_mapDelay (g := fun l => { l with nco := ncoWord s.cap.hr[l.ant] x.preset f }) (fun _ => rfl) rfl
  change ceilDiv (x.span + (tunedWindow s f x).maxD * presetTotal x.preset) (presetTotal x.preset) + 2 = _
  rw [hmaxD, Window.settle]

theorem tunedWindow_eq (s : State) (f : Nat) (x : Window) : tunedWindow s f x = { x with
    freq := f, st := 1, change := .nco, nSettle := x.settle, withheld := x.settle
    disc := if x.released then min (2 ^ 24 - 1) (x.disc + x.settle) else 0
    legs := x.legs.map fun l => l.map fun l => { l with nco := ncoWord s.cap.hr[l.ant] x.preset f } } := by
  rw [← tunedWindow_settle s f x]
  rfl

theorem tuneWin_unreleased (h : s.win.win[w].released = false) (f : Nat) : s.tuneWin w f = s.modWin w (tunedWindow s f) := by
  simp only [State.tuneWin, h, Bool.false_eq_true, if_false, withhold_modWin]
  rfl

/-- A window that has released output takes its runner with it. -/
theorem tuneWin_released (h : s.win.win[w].released = true) (f : Nat) : ServicesOnly (s.modWin w (tunedWindow s f)) (s.tuneWin w f) ∧
    ∀ n : Fin 256, (s.tuneWin w f).svc.ctx[n].st =
      if s.svc.ctx[n].runner = s.win.win[w].runner ∧ s.svc.ctx[n].st = .running then .acquiring else s.svc.ctx[n].st := by
  simp only [State.tuneWin, h, if_true, withhold_modWin]
  exact reacquire_spec ((s.modWin w (tunedWindow s f)).modDab s.win.win[w].runner fun d => { d with retuned := true }) s.win.win[w].runner

/-- The checks of WIN_TUNE behind its parameters. -/
theorem bodyWinTune_eq (hb : c.bytes 24 4 = [byte w.val, 0, 0, 0]) : bodyWinTune c s =
    checked [(s.tuneBad w (c.u32 28), .range, 28), s.winPower, (s.onFio, .fault, 0), s.winClosed w, s.winLent w] fun _ =>
      .done ((s.fanYield w).tuneWin w (c.u32 28)) := by
  obtain ⟨h24, hrsvd⟩ := params_one (by omega) hb
  simp only [bodyWinTune, cmdWin_named h24, winRange_named h24, checked, List.cons_append, firstFail, Bool.false_eq_true, if_false,
    firstFail_append _ hrsvd]

theorem bodyWinTune_tunes (hb : c.bytes 24 4 = [byte w.val, 0, 0, 0]) (hf : s.tuneBad w (c.u32 28) = false) (hrun : s.pwr.st = .run)
    (hlevel : 2 ≤ s.pwr.level.toNat) (hloss : s.clk.lossInRun = false) (hst : s.win.win[w].st ≠ 0) (hclosing : s.win.win[w].closing = none)
    (hfan : s.win.win[w].fantail = false) (hlent : s.svc.run[s.win.win[w].runner].fm.lent = false) :
    bodyWinTune c s = .ok (s.tuneWin w (c.u32 28)) [] none := by
  rw [bodyWinTune_eq hb, fanYield_host hfan]
  exact checked_pass _ (by simp only [firstFail, hf, winPower_enough (below_two hlevel), onFio_run hrun, hloss, winClosed_open hst hclosing,
    winLent_no hlent, Bool.false_eq_true, if_false])

theorem bodyWinTune_range (hb : c.bytes 24 4 = [byte w.val, 0, 0, 0]) (hf : s.tuneBad w (c.u32 28) = true) :
    bodyWinTune c s = .fail .range 28 := by
  rw [bodyWinTune_eq hb]
  exact checked_fail _ (by simp only [firstFail, hf, if_true])

theorem bodyWinTune_closed (hb : c.bytes 24 4 = [byte w.val, 0, 0, 0]) (hf : s.tuneBad w (c.u32 28) = false) (hrun : s.pwr.st = .run)
    (hlevel : 2 ≤ s.pwr.level.toNat) (hloss : s.clk.lossInRun = false) (hst : s.win.win[w].st = 0) : bodyWinTune c s = .fail .state 0 := by
  rw [bodyWinTune_eq hb]
  exact checked_fail _ (by simp only [firstFail, hf, winPower_enough (below_two hlevel), onFio_run hrun, hloss, winClosed_closed hst,
    Bool.false_eq_true, if_false, if_true])

/-- WIN_TUNE of a window that has released output. -/
theorem winTune_released (ht : s.takes 0x0212 c = true) (hb : c.bytes 24 4 = [byte w.val, 0, 0, 0]) (hu : c.u32 28 = f)
    (hf : s.tuneBad w f = false) (hrun : s.pwr.st = .run) (hlevel : 2 ≤ s.pwr.level.toNat) (hloss : s.clk.lossInRun = false)
    (hst : s.win.win[w].st ≠ 0) (hclosing : s.win.win[w].closing = none) (hrel : s.win.win[w].released = true)
    (hfan : s.win.win[w].fantail = false) (hlent : s.svc.run[s.win.win[w].runner].fm.lent = false) :
    ∃ u : State, exec (.winTune c) s = .next (u.completesOk 0x0212 c [] none) ∧ u.win = (s.modWin w fun x => { x with
          freq := f, st := 1, change := .nco, nSettle := x.settle, withheld := x.settle, disc := min (2 ^ 24 - 1) (x.disc + x.settle)
          legs := x.legs.map fun l => l.map fun l => { l with nco := ncoWord s.cap.hr[l.ant] x.preset f } }).win ∧
        (∀ n : Fin 256, u.svc.ctx[n].st =
          if s.svc.ctx[n].runner = s.win.win[w].runner ∧ s.svc.ctx[n].st = .running then .acquiring else s.svc.ctx[n].st) ∧
        u = { s with host := u.host, evt := u.evt, win := u.win, svc := u.svc, tlm := u.tlm, freeCnt := u.freeCnt } := by
  subst hu
  have hbody := bodyWinTune_tunes (s := s.taken 0x0212 c) hb hf hrun hlevel hloss hst hclosing hfan hlent
  obtain ⟨hrest, hctx⟩ := tuneWin_released (s := s.taken 0x0212 c) (w := w) hrel (c.u32 28)
  have hwin := servicesOnly_win hrest
  refine ⟨_, congrArg Host.Outcome.next (runCmd_ok ht hbody), hwin.trans ?_, hctx, ?_⟩
  · refine (show ((s.taken 0x0212 c).modWin w (tunedWindow (s.taken 0x0212 c) (c.u32 28))).win =
      (s.modWin w (tunedWindow s (c.u32 28))).win from rfl).trans (congrArg State.win (modWin_congr ?_))
    simp only [tunedWindow_eq, hrel, if_true]
  · rw [hwin, congrArg State.freeCnt (servicesOnly_eq hrest)]
    exact servicesOnly_eq hrest

end Tune

/-! ### WIN_RATIO and its boundary (R116, R120, R123) -/

section Ratio

variable {s : State} {c : CmdEntry} {w : Fin 64} {b : Bool}

/-- A split is legal when its factors are in range and their product divides the total decimation. -/
theorem split_eq_some {p h mcf mfir : Nat} {sp : Split} (hs : split p h mcf mfir = some sp) :
    (h ≤ 3 ∧ within 1 2 mcf = true ∧ within 1 16 mfir = true) ∧ sp.mcic * sp.mcf * 2 ^ sp.h * sp.mfir = presetTotal p := by
  unfold split at hs
  dsimp only at hs
  split at hs
  · next hlegal =>
    obtain ⟨hh, hmcf, hmfir, hdvd⟩ := hlegal
    obtain rfl := Option.some.inj hs
    refine ⟨⟨hh, hmcf, hmfir⟩, ?_⟩
    simp only [Nat.mul_assoc]
    rw [← Nat.mul_assoc mcf, Nat.div_mul_cancel (Nat.dvd_of_mod_eq_zero hdvd)]
  · cases hs

theorem named_b01 (x : Window) (b : Bool) : x.named (b01 b) = b := by cases b <;> rfl

/-- The swap that a WIN_RATIO with a loaded bank and SHIFT kept leaves waiting. -/
def ratioSwap (c : CmdEntry) (x : Window) (b : Bool) (sp : Split) : Swap :=
  { bank := b, h := sp.h, mcic := sp.mcic, mcf := sp.mcf, mfir := sp.mfir, shift := x.shift, ratio := true, slot := c.id }

theorem bodyWinRatio_waits {x y z : Nat} {sp : Split}
    (hb : c.bytes 24 8 = [byte w.val, byte x, byte y, byte z, byte (b01 b), 0xFF, 0, 0])
    (hs : split s.win.win[w].preset (c.u8 25) (c.u8 26) (c.u8 27) = some sp) (hrun : s.pwr.st = .run) (hlevel : 2 ≤ s.pwr.level.toNat)
    (hloss : s.clk.lossInRun = false) (hst : s.win.win[w].st ≠ 0) (hclosing : s.win.win[w].closing = none)
    (hload : s.win.win[w].loaded b = true) (hlent : s.svc.run[s.win.win[w].runner].fm.lent = false) :
    bodyWinRatio c s = .wait (s.modWin w fun x => { x with swap := some (ratioSwap c s.win.win[w] b sp) }) := by
  have h24 : c.u8 24 = w.val := (u8_of_bytes hb (i := 0) (by decide) (by decide)).trans (byte_toNat (by omega))
  have h28 : c.u8 28 = b01 b := (u8_of_bytes hb (i := 4) (by decide) (by decide)).trans (byte_b01 b)
  have h29 : c.u8 29 = 0xFF := u8_of_bytes hb (i := 5) (by decide) (by decide)
  have hrsvd : firstFail (rsvdBytes c 30 31) = none := firstFail_rsvdBytes fun i hi => by
    obtain rfl | rfl : i = 0 ∨ i = 1 := by omega
    · exact u8_of_bytes hb (i := 6) (by decide) (by decide)
    · exact u8_of_bytes hb (i := 7) (by decide) (by decide)
  obtain ⟨⟨hh, hmcf, hmfir⟩, -⟩ := split_eq_some hs
  have h3 : ¬3 < c.u8 25 := by omega
  have h2 : ¬2 < b01 b := by cases b <;> decide
  have hne : b01 b ≠ 2 := by cases b <;> decide
  simp only [bodyWinRatio, cmdWin_named h24, winRange_named h24, h28, h29, hs, checked, List.cons_append, List.nil_append, firstFail,
    firstFail_append _ hrsvd, h3, h2, hmcf, hmfir, hne, hload, named_b01, winPower_enough (below_two hlevel), onFio_run hrun, hloss,
    winClosed_open hst hclosing, winLent_no hlent, Option.isNone_some, ne_eq, not_true_eq_false, and_false, decide_false, Bool.not_true,
    Bool.and_false, Bool.false_eq_true, if_false, if_true, ratioSwap]

theorem bankSwapEffect_ratio {q : Swap} (h : s.win.win[w].swap = some q) (hratio : q.ratio = true) :
    ∃ u : State, exec (.bankSwapEffect w) s = .next (u.finishSlot 0x0213 q.slot .ok 0
        (List.replicate 6 0 ++ leBytes 2 u.win.win[w].nSettle ++ leBytes 4 u.win.win[w].groupDelay ++ leBytes 4 q.mcic) none) ∧
      u.win.win[w].mcic = q.mcic ∧ u.win.win[w].bank = q.bank ∧ u.win.win[w].shift = q.shift ∧ u.win.win[w].swap = none ∧
      u.win.win[w].st = 1 ∧ u.win.win[w].change = .ratio ∧ u.win.win[w].nSettle = u.win.win[w].settle ∧
      u.win.win[w].withheld = u.win.win[w].settle ∧
      (∀ k : Fin 64, k ≠ w → u.win.win[k] = s.win.win[k]) ∧ u = { s with win := u.win } := by
  refine ⟨s.modWin w (swapWindow q), ?_, ?_⟩
  · refine congrArg Host.Outcome.next ((swapEffect_ratio h hratio).trans ?_)
    rw [modWin_win_same, Window.result]
    simp only [List.append_assoc]
    rfl
  · rw [modWin_win_same]
    refine ⟨rfl, rfl, rfl, rfl, rfl, ?_, rfl, rfl, fun k hk => modWin_win_other _ hk, rfl⟩
    simp only [swapWindow, withholding, hratio, if_true]

end Ratio

/-! ### WIN_DELAY (R128, R130, R131) -/

section Delay

variable {s : State} {c : CmdEntry} {w : Fin 64}

theorem delayChanged_noCtx {r : Fin 32} (h : s.ctxsOf r = []) : s.delayChanged r = s := by
  have hnone : allIx (fun c : Fin 256 => decide (s.svc.ctx[c].st ≠ .free) && decide (s.svc.ctx[c].runner = r) &&
      decide (s.svc.ctx[c].kind = 0)) = [] := by
    rw [allIx, List.filter_eq_nil_iff]
    intro n hn hin
    simp only [Bool.and_eq_true, decide_eq_true_eq] at hin
    obtain ⟨⟨hst, hr⟩, -⟩ := hin
    refine List.filter_eq_nil_iff.mp h n hn ?_
    simp only [hr, hst, decide_true, ne_eq, not_false_eq_true, Bool.and_self]
  simp only [State.delayChanged, hnone, List.foldl_nil]

/-- Byte 25 of WIN_DELAY names a position without a leg. -/
def delayGone (x : Window) (v : Nat) : Bool := (ix 4 v).any fun p => x.legs[p].isNone

/-- The checks of WIN_DELAY behind its parameters. -/
theorem bodyWinDelay_eq (h24 : c.u8 24 = w.val) (h25 : c.u8 25 ≤ 3 ∨ c.u8 25 = 0xFF) (h26 : c.u8 26 ≤ 1) (h27 : c.u8 27 = 0) :
    bodyWinDelay c s = checked [(decide (s.win.win[w].st ≠ 0 ∧ s.win.win[w].dcap < c.u16 28), .range, 28),
      (decide (1023 < c.u16 30), .range, 30), s.winPower, (s.onFio, .fault, 0), s.winClosed w,
      (delayGone s.win.win[w] (c.u8 25), .notfound, 0)] fun _ =>
        .done ((s.setDelay w (fun p => decide (c.u8 25 = 0xFF) || decide (p.val = c.u8 25)) (1024 * c.u16 28 + c.u16 30)
          (decide (c.u8 26 = 1))).delayChanged s.win.win[w].runner) := by
  have hpos : (decide (3 < c.u8 25) && !decide (c.u8 25 = 0xFF)) = false := by
    rw [Bool.and_eq_false_imp, decide_eq_true_eq]
    intro h3
    rw [decide_eq_true (by omega), Bool.not_true]
  have h1 : ¬1 < c.u8 26 := by omega
  have hgone : ∀ o : Option (Fin 4), (match o with | some p => s.win.win[w].legs[p].isNone | none => false) =
      o.any fun p => s.win.win[w].legs[p].isNone := fun o => by cases o <;> rfl
  simp only [bodyWinDelay, delayGone, ← hgone, cmdWin_named h24, winRange_named h24, hpos, h1, h27, checked, firstFail, ne_eq,
    not_true_eq_false, decide_false, Bool.false_eq_true, if_false] <;> rfl

/-- What WIN_DELAY does on a window that may take it, while its runner serves no context. -/
theorem bodyWinDelay_sets (h24 : c.u8 24 = w.val) (h25 : c.u8 25 ≤ 3 ∨ c.u8 25 = 0xFF) (h26 : c.u8 26 ≤ 1) (h27 : c.u8 27 = 0)
    (hcap : c.u16 28 ≤ s.win.win[w].dcap) (hfrac : c.u16 30 ≤ 1023) (hrun : s.pwr.st = .run) (hlevel : 2 ≤ s.pwr.level.toNat)
    (hloss : s.clk.lossInRun = false) (hst : s.win.win[w].st ≠ 0) (hclosing : s.win.win[w].closing = none)
    (hgone : delayGone s.win.win[w] (c.u8 25) = false) (hctx : s.ctxsOf s.win.win[w].runner = []) :
    bodyWinDelay c s = .ok (s.setDelay w (fun p => decide (c.u8 25 = 0xFF) || decide (p.val = c.u8 25)) (1024 * c.u16 28 + c.u16 30)
      (decide (c.u8 26 = 1))) [] none := by
  have hd : ¬s.win.win[w].dcap < c.u16 28 := by omega
  have hf : ¬1023 < c.u16 30 := by omega
  rw [bodyWinDelay_eq h24 h25 h26 h27, checked_pass _ (by simp only [firstFail, hd, hf, winPower_enough (below_two hlevel), onFio_run hrun,
    hloss, winClosed_open hst hclosing, hgone, and_false, decide_false, Bool.false_eq_true, if_false])]
  exact congrArg Answer.done (delayChanged_noCtx hctx)

theorem setDelay_all (s : State) (w : Fin 64) (v : Nat) : s.setDelay w (fun _ => true) v true =
    s.modWin w fun x => { x with legs := x.legs.map fun l => l.map fun l => { l with target := v, delayNext := none } } := by
  have hlegs (x : Window) : (Vector.ofFn fun p : Fin 4 => if true = true then x.legs[p].map fun l => l.setDelay v true else x.legs[p]) =
      x.legs.map fun l => l.map fun l => { l with target := v, delayNext := none } := by
    ext1 i hi
    simp [Leg.setDelay]
  exact congrArg (s.modWin w) (funext fun x => congrArg (fun legs => { x with legs := legs }) (hlegs x))

theorem setDelay_one {l : Leg} {p : Fin 4} (hl : s.win.win[w].legs[p] = some l) (v : Nat) :
    s.setDelay w (fun q => decide (q.val = p.val)) v false =
      s.modWin w fun x => { x with legs := x.legs.set p (some { l with delayNext := some v }) } := by
  apply modWin_congr
  have hlegs : (Vector.ofFn fun q : Fin 4 => if decide (q.val = p.val) = true then s.win.win[w].legs[q].map fun l => l.setDelay v false
      else s.win.win[w].legs[q]) = s.win.win[w].legs.set p (some { l with delayNext := some v }) := by
    ext1 i hi
    rw [Vector.getElem_ofFn, Vector.getElem_set]
    by_cases h : i = p.val
    · have hip : (⟨i, hi⟩ : Fin 4) = p := Fin.ext h
      rw [if_pos (decide_eq_true h), if_pos h.symm, hip, hl]
      rfl
    · rw [if_neg (by simpa using h), if_neg (Ne.symm h)]
      rfl
  exact congrArg (fun legs => { s.win.win[w] with legs := legs }) hlegs

theorem bodyWinDelay_ramp (hb : c.bytes 24 4 = [byte w.val, 0xFF, 1, 0]) (hcap : c.u16 28 ≤ s.win.win[w].dcap) (hfrac : c.u16 30 ≤ 1023)
    (hrun : s.pwr.st = .run) (hlevel : 2 ≤ s.pwr.level.toNat) (hloss : s.clk.lossInRun = false) (hst : s.win.win[w].st ≠ 0)
    (hclosing : s.win.win[w].closing = none) (hctx : s.ctxsOf s.win.win[w].runner = []) :
    bodyWinDelay c s = .ok (s.modWin w fun x => { x with
      legs := x.legs.map fun l => l.map fun l => { l with target := 1024 * c.u16 28 + c.u16 30, delayNext := none } }) [] none := by
  obtain ⟨h24, h25, h26, h27⟩ := windowParams hb
  have h25 : c.u8 25 = 0xFF := h25
  have h26 : c.u8 26 = 1 := h26
  rw [bodyWinDelay_sets h24 (.inr h25) (by omega) h27 hcap hfrac hrun hlevel hloss hst hclosing (by rw [h25]; rfl) hctx]
  simp only [h25, h26, decide_true, Bool.true_or, setDelay_all]

theorem bodyWinDelay_next {l : Leg} {p : Fin 4} (hb : c.bytes 24 4 = [byte w.val, byte p.val, 0, 0]) (hcap : c.u16 28 ≤ s.win.win[w].dcap)
    (hfrac : c.u16 30 ≤ 1023) (hrun : s.pwr.st = .run) (hlevel : 2 ≤ s.pwr.level.toNat) (hloss : s.clk.lossInRun = false)
    (hst : s.win.win[w].st ≠ 0) (hclosing : s.win.win[w].closing = none) (hctx : s.ctxsOf s.win.win[w].runner = [])
    (hl : s.win.win[w].legs[p] = some l) : bodyWinDelay c s = .ok (s.modWin w fun x => { x with
      legs := x.legs.set p (some { l with delayNext := some (1024 * c.u16 28 + c.u16 30) }) }) [] none := by
  obtain ⟨h24, h25, h26, h27⟩ := windowParams hb
  rw [byte_fin4] at h25
  have h26 : c.u8 26 = 0 := h26
  have hgone : delayGone s.win.win[w] (c.u8 25) = false := by rw [delayGone, ix_of_eq h25, Option.any_some, hl, Option.isNone_some]
  have hff : ¬p.val = 0xFF := by omega
  rw [bodyWinDelay_sets h24 (by omega) (by omega) h27 hcap hfrac hrun hlevel hloss hst hclosing hgone hctx]
  simp only [h25, h26, hff, decide_false, Bool.false_or, Nat.zero_ne_one, setDelay_one hl]

theorem bodyWinDelay_range (h24 : c.u8 24 = w.val) (h25 : c.u8 25 ≤ 3 ∨ c.u8 25 = 0xFF) (h26 : c.u8 26 ≤ 1) (h27 : c.u8 27 = 0)
    (hst : s.win.win[w].st ≠ 0) (hcap : s.win.win[w].dcap < c.u16 28) : bodyWinDelay c s = .fail .range 28 := by
  rw [bodyWinDelay_eq h24 h25 h26 h27]
  exact checked_fail _ (by simp only [firstFail, hst, hcap, ne_eq, not_false_eq_true, and_self, decide_true, if_true])

theorem bodyWinDelay_empty {p : Fin 4} (hb : c.bytes 24 4 = [byte w.val, byte p.val, 0, 0]) (hcap : c.u16 28 ≤ s.win.win[w].dcap)
    (hfrac : c.u16 30 ≤ 1023) (hrun : s.pwr.st = .run) (hlevel : 2 ≤ s.pwr.level.toNat) (hloss : s.clk.lossInRun = false)
    (hst : s.win.win[w].st ≠ 0) (hclosing : s.win.win[w].closing = none) (hl : s.win.win[w].legs[p] = none) :
    bodyWinDelay c s = .fail .notfound 0 := by
  obtain ⟨h24, h25, h26, h27⟩ := windowParams hb
  rw [byte_fin4] at h25
  have h26 : c.u8 26 = 0 := h26
  have hd : ¬s.win.win[w].dcap < c.u16 28 := by omega
  have hf : ¬1023 < c.u16 30 := by omega
  have hgone : delayGone s.win.win[w] (c.u8 25) = true := by rw [delayGone, ix_of_eq h25, Option.any_some, hl, Option.isNone_none]
  rw [bodyWinDelay_eq h24 (by omega) (by omega) h27]
  exact checked_fail _ (by simp only [firstFail, hd, hf, winPower_enough (below_two hlevel), onFio_run hrun, hloss,
    winClosed_open hst hclosing, hgone, and_false, decide_false, Bool.false_eq_true, if_false, if_true])

end Delay

/-! ### WIN_LEG (R124) -/

section Leg

variable {s : State} {c : CmdEntry} {w : Fin 64} {ant p : Fin 4}

theorem bodyWinLeg_adds {no : Nat} (hb : c.bytes 24 4 = [byte w.val, 0, byte ant.val, 0]) (hrun : s.pwr.st = .run)
    (hlevel : 2 ≤ s.pwr.level.toNat) (hloss : s.clk.lossInRun = false) (hst : s.win.win[w].st ≠ 0) (hclosing : s.win.win[w].closing = none)
    (hband : s.cap.hr[ant].bandOk s.win.win[w].preset s.win.win[w].freq = true) (hant : s.cap.hr[ant].running = true)
    (hpos : s.win.win[w].antPos ant = none) (hp : s.win.win[w].legs[p] = none) (hlow : ∀ j : Fin 4, j < p → s.win.win[w].legs[j].isSome = true)
    (hfree : s.freeLegs.head? = some no) (hcap : s.win.win[w].dcap = 0) :
    bodyWinLeg c s = .ok (s.modWin w fun x => { x with
      legs := x.legs.set p (some (joiningLeg s w no ant s.win.win[w].settle)) }) [byte p.val, byte no] none := by
  obtain ⟨h24, h25, h26, h27⟩ := windowParams hb
  rw [byte_fin4] at h26
  have h25 : c.u8 25 = 0 := h25
  have h27 : c.u8 27 = 0 := h27
  have h3 : ¬3 < ant.val := by omega
  have hfirst : (firstIx fun q : Fin 4 => s.win.win[w].legs[q].isNone) = some p :=
    firstIx_eq (by rw [hp]; rfl) fun j hj => Option.isNone_eq_false_iff.mpr (hlow j hj)
  have hadd : s.legAdd w ant = .ok (s.modWin w fun x => { x with
      legs := x.legs.set p (some (joiningLeg s w no ant s.win.win[w].settle)) }) [byte p.val, byte no] none := by
    simp only [State.legAdd, hfirst, addLeg_undelayed hfree hcap, modWin_win_same]
    simp [joiningLeg, newLeg]
  simp only [bodyWinLeg, cmdWin_named h24, winRange_named h24, h25, h26, h27, ofNat_eq (i := ant) rfl, checked, firstFail, h3, hband, hpos, hant, hadd,
    winPower_enough (below_two hlevel), onFio_run hrun, hloss, winClosed_open hst hclosing, Nat.not_lt_zero, ne_eq, not_true_eq_false,
    decide_true, decide_false, Option.isSome_none, Bool.not_true, Bool.true_and, Bool.and_false, Bool.false_and, Bool.or_self,
    Bool.false_eq_true, if_false, if_true]

/-- The checks of a removal behind its parameters. -/
theorem bodyWinLeg_remove_eq {l : Leg} (hb : c.bytes 24 4 = [byte w.val, 1, byte p.val, 0]) (hrun : s.pwr.st = .run)
    (hlevel : 2 ≤ s.pwr.level.toNat) (hloss : s.clk.lossInRun = false) (hst : s.win.win[w].st ≠ 0) (hclosing : s.win.win[w].closing = none)
    (hl : s.win.win[w].legs[p] = some l) (hstay : l.leaving = false) :
    bodyWinLeg c s = checked [(decide (s.win.win[w].staying ≤ 1), .state, 0)] fun _ => s.legRemove w p := by
  obtain ⟨h24, h25, h26, h27⟩ := windowParams hb
  rw [byte_fin4] at h26
  have h25 : c.u8 25 = 1 := h25
  have h27 : c.u8 27 = 0 := h27
  have h3 : ¬3 < p.val := by omega
  simp only [bodyWinLeg, cmdWin_named h24, winRange_named h24, h25, h26, h27, ofNat_eq (i := p) rfl, checked, firstFail, h3, hl, hstay,
    winPower_enough (below_two hlevel), onFio_run hrun, hloss, winClosed_open hst hclosing, Option.map_some, Nat.lt_irrefl, Nat.one_ne_zero,
    ne_eq, not_true_eq_false, decide_true, decide_false, Bool.not_true, Bool.not_false, Bool.true_and, Bool.and_false, Bool.false_and,
    Bool.or_self, Bool.false_eq_true, if_false]

theorem legRemove_eq {l : Leg} (hl : s.win.win[w].legs[p] = some l) : s.legRemove w p = .ok (s.modWin w fun x => { x with
    legs := x.legs.set p (some { l with leaving := true }) }) [byte p.val, byte l.no] none := by
  have hmark : (s.modWin w fun x => { x with legs := upd x.legs p fun l => l.map fun l => { l with leaving := true } }) =
      s.modWin w fun x => { x with legs := x.legs.set p (some { l with leaving := true }) } := by
    apply modWin_congr
    simp only [upd, hl, Option.map_some]
  simp only [State.legRemove, hmark, modWin_win_same]
  simp

theorem bodyWinLeg_removes {l : Leg} (hb : c.bytes 24 4 = [byte w.val, 1, byte p.val, 0]) (hrun : s.pwr.st = .run)
    (hlevel : 2 ≤ s.pwr.level.toNat) (hloss : s.clk.lossInRun = false) (hst : s.win.win[w].st ≠ 0) (hclosing : s.win.win[w].closing = none)
    (hl : s.win.win[w].legs[p] = some l) (hstay : l.leaving = false) (hmany : 2 ≤ s.win.win[w].staying) :
    bodyWinLeg c s = .ok (s.modWin w fun x => { x with legs := x.legs.set p (some { l with leaving := true }) })
      [byte p.val, byte l.no] none := by
  have h1 : ¬s.win.win[w].staying ≤ 1 := by omega
  rw [bodyWinLeg_remove_eq hb hrun hlevel hloss hst hclosing hl hstay,
    checked_pass _ (by simp only [firstFail, h1, decide_false, Bool.false_eq_true, if_false]), legRemove_eq hl]

/-- The last leg that stays cannot be removed. -/
theorem bodyWinLeg_last {l : Leg} (hb : c.bytes 24 4 = [byte w.val, 1, byte p.val, 0]) (hrun : s.pwr.st = .run)
    (hlevel : 2 ≤ s.pwr.level.toNat) (hloss : s.clk.lossInRun = false) (hst : s.win.win[w].st ≠ 0) (hclosing : s.win.win[w].closing = none)
    (hl : s.win.win[w].legs[p] = some l) (hstay : l.leaving = false) (hone : s.win.win[w].staying = 1) :
    bodyWinLeg c s = .fail .state 0 := by
  rw [bodyWinLeg_remove_eq hb hrun hlevel hloss hst hclosing hl hstay]
  exact checked_fail _ (by simp only [firstFail, hone, le_refl, decide_true, if_true])

end Leg

/-! ### LEG_REMOVE_EFFECT (R124) -/

section Leaving

variable {s : State} {w : Fin 64}

/-- A window after the leg at a position has left it. -/
def withoutLeg (x : Window) (p : Fin 4) : Window :=
  if x.legs[p].map Leg.leaving = some true then { x with legs := upd x.legs p fun _ => none } else x

/-- Delay blocks of the delay store that the leg at a position gives back. -/
def leavingBlocks (x : Window) (p : Fin 4) : Nat := if x.legs[p].map Leg.leaving = some true then storeBlocksAt x p else 0

/-- A state whose delay store has some more free blocks. -/
def storeFreed (s : State) (n : Nat) (d : DmaBlk) : State := { s with win := { s.win with dstoreFree := s.win.dstoreFree + n }, dma := d }

theorem storeFreed_storeFreed (s : State) (n m : Nat) (d e : DmaBlk) : storeFreed (storeFreed s n d) m e = storeFreed s (n + m) e := by
  simp only [storeFreed, Nat.add_assoc]

theorem storeFreed_modWin (s : State) (w : Fin 64) (f : Window → Window) (n : Nat) (d : DmaBlk) :
    storeFreed (s.modWin w f) n d = (storeFreed s n d).modWin w f := rfl

/-- One position of LEG_REMOVE_EFFECT. -/
def legGoes (w : Fin 64) (s : State) (p : Fin 4) : State :=
  if s.win.win[w].legs[p].map Leg.leaving = some true then
    (s.freeBlocks w p).modWin w fun x => { x with legs := upd x.legs p fun _ => none }
  else s

theorem withoutLeg_other {p q : Fin 4} (h : q ≠ p) (x : Window) : (withoutLeg x p).legs[q] = x.legs[q] := by
  unfold withoutLeg
  split
  · exact upd_other _ p q _ h.symm
  · rfl

theorem withoutLeg_same (x : Window) (p : Fin 4) :
    (withoutLeg x p).legs[p] = if x.legs[p].map Leg.leaving = some true then none else x.legs[p] := by
  unfold withoutLeg
  split
  · exact upd_same _ p _
  · rfl

theorem legGoes_eq (s : State) (w : Fin 64) (p : Fin 4) : ∃ d : DmaBlk, legGoes w s p =
    (storeFreed s (leavingBlocks s.win.win[w] p) d).modWin w fun x => withoutLeg x p := by
  by_cases h : s.win.win[w].legs[p].map Leg.leaving = some true
  · obtain ⟨d, hd⟩ := freeBlocks_eq s w p
    refine ⟨d, ?_⟩
    rw [legGoes, if_pos h, leavingBlocks, if_pos h, hd]
    exact modWin_congr (if_pos h).symm
  · refine ⟨s.dma, ?_⟩
    rw [legGoes, if_neg h, leavingBlocks, if_neg h]
    exact (modWin_id (s := s) (if_neg h)).symm

/-- The positions of a list, one after the other. -/
theorem foldl_legGoes (w : Fin 64) {l : List (Fin 4)} (hl : l.Nodup) (s : State) : ∃ d : DmaBlk, l.foldl (legGoes w) s =
    (storeFreed s (l.map (leavingBlocks s.win.win[w])).sum d).modWin w fun x => l.foldl withoutLeg x := by
  induction l generalizing s with
  | nil => exact ⟨s.dma, (modWin_id rfl).symm⟩
  | cons p l ih =>
    obtain ⟨hp, hnodup⟩ := List.nodup_cons.mp hl
    obtain ⟨d, hd⟩ := legGoes_eq s w p
    obtain ⟨e, he⟩ := ih hnodup (legGoes w s p)
    refine ⟨e, ?_⟩
    have hsame : (legGoes w s p).win.win[w] = withoutLeg s.win.win[w] p := by
      rw [hd]
      exact modWin_win_same _ w _
    have hblocks : l.map (leavingBlocks (withoutLeg s.win.win[w] p)) = l.map (leavingBlocks s.win.win[w]) := by
      refine List.map_congr_left fun q hq => ?_
      have hqp : q ≠ p := fun h => hp (h ▸ hq)
      simp only [leavingBlocks, storeBlocksAt, withoutLeg_other hqp]
    rw [List.foldl_cons, he, hsame, hblocks, hd, List.map_cons, List.sum_cons, ← storeFreed_storeFreed _ _ _ d e, storeFreed_modWin,
      modWin_modWin]
    rfl

theorem foldl_withoutLeg (l : List (Fin 4)) (x : Window) (q : Fin 4) : (l.foldl withoutLeg x).legs[q] =
    if q ∈ l ∧ x.legs[q].map Leg.leaving = some true then none else x.legs[q] := by
  induction l generalizing x with
  | nil => simp
  | cons p l ih =>
    rw [List.foldl_cons, ih]
    by_cases hq : q = p
    · subst hq
      rw [withoutLeg_same]
      by_cases h : x.legs[q].map Leg.leaving = some true
      · simp only [h, if_true, Option.map_none, List.mem_cons, true_or, and_self, ite_self]
      · simp only [h, if_false, and_false]
    · simp only [withoutLeg_other hq, List.mem_cons, hq, false_or]

theorem legRemoveEffect_spec (s : State) (w : Fin 64) : ∃ u : State, exec (.legRemoveEffect w) s = .next u ∧
    (∀ p : Fin 4, u.win.win[w].legs[p] = if s.win.win[w].legs[p].map Leg.leaving = some true then none else s.win.win[w].legs[p]) ∧
    (∀ k : Fin 64, k ≠ w → u.win.win[k] = s.win.win[k]) ∧
    u.win.dstoreFree = s.win.dstoreFree + ((List.finRange 4).map (leavingBlocks s.win.win[w])).sum ∧
    u = { s with win := u.win, dma := u.dma } := by
  obtain ⟨d, hd⟩ := foldl_legGoes w (List.nodup_finRange 4) s
  refine ⟨(List.finRange 4).foldl (legGoes w) s, rfl, ?_⟩
  rw [hd]
  refine ⟨fun p => ?_, fun k hk => modWin_win_other _ hk, rfl, rfl⟩
  rw [modWin_win_same, foldl_withoutLeg]
  simp only [List.mem_finRange, true_and]
  rfl

/-- The delay blocks given back, leg by leg. -/
theorem leavingBlocks_sum (x : Window) {g : Option Leg → Nat} (hnone : g none = 0)
    (hsome : ∀ l, g (some l) = if l.leaving = true then l.storeBlocks else 0) :
    ((List.finRange 4).map (leavingBlocks x)).sum = (x.legs.toList.map g).sum := by
  rw [toList_eq_map_finRange, List.map_map]
  refine congrArg List.sum (List.map_congr_left fun p _ => ?_)
  simp only [leavingBlocks, storeBlocksAt, Function.comp_apply]
  cases x.legs[p] with
  | none => exact hnone.symm
  | some l =>
    rw [hsome]
    simp only [Option.map_some, Option.some.injEq, Option.getD_some]

end Leaving

/-- Settles O38: each command is its body behind the checks of the dispatch, and each boundary event the boundary it stands for. -/
theorem windowSettingsChange : Obligations.WindowSettingsChange := by
  unfold Obligations.WindowSettingsChange
  refine ⟨?tune, ?tuneReleased, ?tuneRange, ?tuneClosed, ?ratio, ?ratioEffect, ?delayRamp, ?delayNext, ?delayRange, ?delayEmpty, ?legAdd,
    ?legRemove, ?legLast, ?legGone⟩
  case tune =>
    intro s c w f ht hb hf hbad hrun hlevel hloss hst hclosing hrel hfan hlent
    subst hf
    refine (congrArg Host.Outcome.next (runCmd_ok ht (bodyWinTune_tunes (s := s.taken 0x0212 c) hb hbad hrun hlevel hloss hst hclosing hfan
      hlent))).trans ?_
    rw [tuneWin_unreleased (s := s.taken 0x0212 c) hrel]
    refine congrArg (fun t : State => Host.Outcome.next (t.completesOk 0x0212 c [] none)) (modWin_congr ?_)
    have hrel' : (s.taken 0x0212 c).win.win[w].released = false := hrel
    simp only [tunedWindow_eq, hrel', Bool.false_eq_true, if_false]
    rfl
  case tuneReleased =>
    intro s c w f ht hb hu hf hrun hlevel hloss hst hclosing hrel hfan hlent
    exact winTune_released ht hb hu hf hrun hlevel hloss hst hclosing hrel hfan hlent
  case tuneRange =>
    intro s c w ht hb hf
    exact congrArg Host.Outcome.next (runCmd_fail ht (bodyWinTune_range (s := s.taken 0x0212 c) hb hf))
  case tuneClosed =>
    intro s c w ht hb hf hrun hlevel hloss hst
    exact congrArg Host.Outcome.next (runCmd_fail ht (bodyWinTune_closed (s := s.taken 0x0212 c) hb hf hrun hlevel hloss hst))
  case ratio =>
    intro s c w b sp ht hb hs hrun hlevel hloss hst hclosing hload hlent
    refine ⟨_, ratioSwap c s.win.win[w] b sp, congrArg Host.Outcome.next (runCmd_wait ht (bodyWinRatio_waits (s := s.taken 0x0213 c) hb hs
      hrun hlevel hloss hst hclosing hload hlent)), rfl, rfl, rfl, rfl, rfl, rfl, rfl, rfl, rfl, (split_eq_some hs).2, rfl⟩
  case ratioEffect =>
    intro s w q h hratio
    exact bankSwapEffect_ratio h hratio
  case delayRamp =>
    intro s c w d ht hb hd hcap hfrac hrun hlevel hloss hst hclosing hctx
    subst hd
    exact congrArg Host.Outcome.next (runCmd_ok ht (bodyWinDelay_ramp (s := s.taken 0x0216 c) hb hcap hfrac hrun hlevel hloss hst hclosing
      hctx))
  case delayNext =>
    intro s c w l d p ht hb hd hcap hfrac hrun hlevel hloss hst hclosing hctx hl
    subst hd
    exact congrArg Host.Outcome.next (runCmd_ok ht (bodyWinDelay_next (s := s.taken 0x0216 c) hb hcap hfrac hrun hlevel hloss hst hclosing
      hctx hl))
  case delayRange =>
    intro s c w ht h24 h25 h26 h27 hst hcap
    exact congrArg Host.Outcome.next (runCmd_fail ht (bodyWinDelay_range (s := s.taken 0x0216 c) h24 h25 h26 h27 hst hcap))
  case delayEmpty =>
    intro s c w p ht hb hcap hfrac hrun hlevel hloss hst hclosing hl
    exact congrArg Host.Outcome.next (runCmd_fail ht (bodyWinDelay_empty (s := s.taken 0x0216 c) hb hcap hfrac hrun hlevel hloss hst
      hclosing hl))
  case legAdd =>
    intro s c w ant no p ht hb hrun hlevel hloss hst hclosing hband hant hpos hp hlow hfree hcap
    exact ⟨_, _, congrArg Host.Outcome.next (runCmd_ok ht (bodyWinLeg_adds (s := s.taken 0x0217 c) hb hrun hlevel hloss hst hclosing hband
      hant hpos hp hlow hfree hcap)), rfl, rfl, rfl, rfl, rfl, rfl⟩
  case legRemove =>
    intro s c w l p ht hb hrun hlevel hloss hst hclosing hl hstay hmany
    exact congrArg Host.Outcome.next (runCmd_ok ht (bodyWinLeg_removes (s := s.taken 0x0217 c) hb hrun hlevel hloss hst hclosing hl hstay
      hmany))
  case legLast =>
    intro s c w l p ht hb hrun hlevel hloss hst hclosing hl hstay hone
    exact congrArg Host.Outcome.next (runCmd_fail ht (bodyWinLeg_last (s := s.taken 0x0217 c) hb hrun hlevel hloss hst hclosing hl hstay
      hone))
  case legGone =>
    intro s w
    obtain ⟨u, hu, hlegs, hothers, hfree, hrest⟩ := legRemoveEffect_spec s w
    exact ⟨u, hu, hlegs, hothers, hfree.trans (congrArg _ (leavingBlocks_sum _ rfl fun _ => rfl)), hrest⟩

end Sys2Proof.Proofs
end

section
/-!
SUPPORT. Lost input of a leg (R9, R13, R118): what a counter reads after a set, what the flags of saturated stages change, and the zeros that
take the place of lost samples.
-/

namespace Sys2Proof.Proofs

open Sys2Proof Sys2Proof.Machine Sys2Proof.Laws

/-! ### Counters (R503) -/

section Counters

/-- The canonical form of a list of counters, one counter taken off. -/
theorem tlm_above_cons {lo : Option Nat} {a : Nat} {b : W} {m : List (Nat × W)} (h : Tlm.above lo ((a, b) :: m) = true) :
    Tlm.above (some a) m = true := by
  simp only [Tlm.above, Bool.and_eq_true] at h
  exact h.2

/-- Nothing stands at or below the bound of a list. -/
theorem tlm_get_below {m : List (Nat × W)} {lo x : Nat} (h : Tlm.above (some lo) m = true) (hx : x ≤ lo) : Tlm.get m x = 0 := by
  cases m with
  | nil => rfl
  | cons c m =>
    simp only [Tlm.above, Bool.and_eq_true, decide_eq_true_eq] at h
    obtain ⟨⟨hlo, -⟩, -⟩ := h
    rw [Tlm.get, if_neg (by omega), if_pos (by omega)]

/-- A counter reads the value set, the others what they read before. -/
theorem tlm_get_set {m : List (Nat × W)} {lo : Option Nat} (h : Tlm.above lo m = true) (x y : Nat) (v : W) :
    Tlm.get (Tlm.set m x v) y = if y = x then v else Tlm.get m y := by
  induction m generalizing lo with
  | nil =>
    by_cases hv : v = 0
    · rw [Tlm.set, if_pos hv, hv]
      exact (ite_self _).symm
    · rw [Tlm.set, if_neg hv, Tlm.get]
      exact congrArg (ite (y = x) v) (ite_self _)
  | cons c m ih =>
    obtain ⟨a, b⟩ := c
    have htail := tlm_above_cons h
    obtain hlt | rfl | hgt := Nat.lt_trichotomy x a
    · have hbelow (hy : y ≤ x) : Tlm.get ((a, b) :: m) y = 0 := by rw [Tlm.get, if_neg (by omega), if_pos (by omega)]
      rw [Tlm.set, if_pos hlt]
      by_cases hy : y = x
      · by_cases hv : v = 0
        · rw [if_pos hv, if_pos hy, hbelow hy.le, hv]
        · rw [if_neg hv, if_pos hy, Tlm.get, if_pos hy]
      · by_cases hv : v = 0
        · rw [if_pos hv, if_neg hy]
        · rw [if_neg hv, if_neg hy, Tlm.get, if_neg hy]
          split
          · next hyx => exact (hbelow hyx.le).symm
          · rfl
    · rw [Tlm.set, if_neg (Nat.lt_irrefl x), if_pos rfl]
      by_cases hv : v = 0
      · rw [if_pos hv, Tlm.get]
        split
        · next hy => rw [tlm_get_below htail hy.le, hv]
        · split
          · next hyx => exact tlm_get_below htail hyx.le
          · rfl
      · rw [if_neg hv, Tlm.get, Tlm.get]
        split <;> rfl
    · rw [Tlm.set, if_neg (by omega), if_neg (by omega), Tlm.get, Tlm.get, ih htail]
      by_cases hya : y = a
      · rw [if_pos hya, if_neg (by omega), if_pos hya]
      · by_cases hlt : y < a
        · rw [if_neg hya, if_pos hlt, if_neg (by omega), if_neg hya, if_pos hlt]
        · rw [if_neg hya, if_neg hlt, if_neg hya, if_neg hlt]

/-- An advance of a counter respects the agreement. -/
theorem rest_bump {s t : State} (h : Rest s t) (off n : Nat) : Rest (s.bump off n) (t.bump off n) :=
  congrArg (State.bump · off n) (a₁ := rest t) (a₂ := rest s) h

theorem bump_wf {s : State} (h : Tlm.wf s.tlm = true) (off n : Nat) : Tlm.wf (s.bump off n).tlm = true := tlm_set_wf _ _ _ h

theorem bump_get_same {s : State} (h : Tlm.wf s.tlm = true) (off n : Nat) :
    Tlm.get (s.bump off n).tlm off = Tlm.get s.tlm off + BitVec.ofNat 32 n := (tlm_get_set h _ _ _).trans (if_pos rfl)

theorem bump_get_other {s : State} (h : Tlm.wf s.tlm = true) {off y : Nat} (hy : y ≠ off) (n : Nat) :
    Tlm.get (s.bump off n).tlm y = Tlm.get s.tlm y := (tlm_get_set h _ _ _).trans (if_neg hy)

end Counters

/-! ### Hardware sets of flags (R498) -/

section Flags

variable {s t : State} {k : Fin 83}

theorem setFlagN_frame (s : State) (k : Fin 83) (b n : Nat) :
    s.setFlagN k b n = { s with flags := (s.setFlagN k b n).flags, tlm := (s.setFlagN k b n).tlm } := by
  unfold State.setFlagN
  split <;> rfl

/-- A set flag stays set. -/
theorem flag_setFlagN_stays {b : Nat} (h : s.flag k b = true) (c n : Nat) : (s.setFlagN k c n).flag k b = true := by
  unfold State.setFlagN
  split
  · exact h
  · have hword : ({ s with flags := upd s.flags k fun w => w ||| BitVec.ofNat 32 (2 ^ c) } : State).flags[k] =
        s.flags[k] ||| BitVec.ofNat 32 (2 ^ c) := upd_same s.flags k _
    rw [State.flag, bump_flags, hword, BitVec.getLsbD_or, show s.flags[k].getLsbD b = true from h, Bool.true_or]

theorem flag_setFlagN {b n : Nat} (hb : b < 32) (hn : n ≠ 0) : (s.setFlagN k b n).flag k b = true := by
  rw [State.setFlagN, if_neg hn]
  exact flag_setFlag s k hb

/-- A fold establishes what one of its steps establishes and all of them keep. -/
theorem foldl_establishes {α β : Type} {P : β → Prop} {g : β → α → β} {l : List α} {x : α} (hx : x ∈ l) (hstep : ∀ t, P (g t x))
    (hkeep : ∀ t y, P t → P (g t y)) (t : β) : P (l.foldl g t) := by
  obtain ⟨a, b, rfl⟩ := List.append_of_mem hx
  rw [List.foldl_append, List.foldl_cons]
  exact List.foldlRecOn (motive := P) b g (hstep _) fun u hu y _ => hkeep u y hu

end Flags

/-! ### Saturated stages (R118) -/

section Saturation

variable {s t : State} {w : Fin 64}

/-- A state with the flags and counters of a window's saturated stages. -/
def flagged (s : State) (w : Fin 64) (v : Vector Nat 7) : State :=
  (List.finRange 7).foldl (fun s i => s.setFlagN (slotSat w) i.val v[i]) s

theorem flagged_frame (s : State) (w : Fin 64) (v : Vector Nat 7) :
    flagged s w v = { s with flags := (flagged s w v).flags, tlm := (flagged s w v).tlm } :=
  List.foldlRecOn (motive := fun t : State => t = { s with flags := t.flags, tlm := t.tlm }) _ _ rfl fun t ht i _ => by
    rw [setFlagN_frame, ht]

/-- The counters of flags lie below those of links. -/
theorem flagged_tlm (h : Tlm.wf s.tlm = true) (w : Fin 64) (v : Vector Nat 7) : Tlm.wf (flagged s w v).tlm = true ∧
    ∀ y, 0x7000 ≤ y → Tlm.get (flagged s w v).tlm y = Tlm.get s.tlm y := by
  refine List.foldlRecOn (motive := fun t : State => Tlm.wf t.tlm = true ∧ ∀ y, 0x7000 ≤ y → Tlm.get t.tlm y = Tlm.get s.tlm y) _ _
    ⟨h, fun _ _ => rfl⟩ fun t ⟨hwf, hget⟩ i _ => ?_
  unfold State.setFlagN
  split
  · exact ⟨hwf, hget⟩
  · refine ⟨bump_wf (s := { t with flags := _ }) hwf _ _, fun y hy => ?_⟩
    have hne : y ≠ flagCounter (slotSat w).val i.val := by
      simp only [flagCounter, slotSat]
      omega
    exact (bump_get_other (s := { t with flags := _ }) hwf hne _).trans (hget y hy)

theorem flagged_flag {v : Vector Nat 7} {i : Fin 7} (h : v[i] ≠ 0) : (flagged s w v).flag (slotSat w) i.val = true := by
  have hstep (t : State) : (t.setFlagN (slotSat w) i.val v[i]).flag (slotSat w) i.val = true := flag_setFlagN (by omega) h
  have hkeep (t : State) (j : Fin 7) (ht : t.flag (slotSat w) i.val = true) :
      (t.setFlagN (slotSat w) j.val v[j]).flag (slotSat w) i.val = true := flag_setFlagN_stays ht _ _
  exact foldl_establishes (P := fun t : State => t.flag (slotSat w) i.val = true)
    (g := fun t (j : Fin 7) => t.setFlagN (slotSat w) j.val v[j]) (List.mem_finRange i) hstep hkeep s

/-- Beside the flags and counters, saturation changes a window's own count and what the host is told. -/
theorem rest_saturate (s : State) (w : Fin 64) (v : Vector Nat 7) :
    ∃ n, Rest ((flagged s w v).modWin w fun x => { x with satSince := n }) (s.saturate w v) := by
  unfold State.saturate
  dsimp only
  split
  · exact ⟨0, rest_raiseLimited (Rest.refl _) _ _ _ _ _⟩
  · exact ⟨_, Rest.refl _⟩

theorem saturate_flag {v : Vector Nat 7} {i : Fin 7} (h : v[i] ≠ 0) : (s.saturate w v).flag (slotSat w) i.val = true := by
  obtain ⟨n, hn⟩ := rest_saturate s w v
  rw [State.flag, rest_flags_eq hn]
  exact flagged_flag h

/-- A state with other flags and counters. -/
def withFlags (s : State) (f : Vector W 83) (m : List (Nat × W)) : State := { s with flags := f, tlm := m }

/-- Saturation leaves the counters of links alone. -/
theorem saturate_spec (hwf : Tlm.wf s.tlm = true) (w : Fin 64) (v : Vector Nat 7) : ∃ n f m,
    Rest (withFlags (s.modWin w fun x => { x with satSince := n }) f m) (s.saturate w v) ∧ Tlm.wf m = true ∧
      ∀ y, 0x7000 ≤ y → Tlm.get m y = Tlm.get s.tlm y := by
  obtain ⟨n, hn⟩ := rest_saturate s w v
  rw [flagged_frame] at hn
  exact ⟨n, _, _, hn, flagged_tlm hwf w v⟩

end Saturation

/-! ### LEG_OVERRUN (R9, R13) -/

section Overrun

variable {s : State} {w : Fin 64} {p : Fin 4} {l : Leg}

/-- What samples make of the chain of a leg. -/
def chainAfter (x : Window) (l : Leg) (xs : List Smp) : Chain := (xs.foldl (Chain.push x l.nco) (l.chain, Vector.replicate 7 0)).1

/-- Beside the leg's chain, samples at a leg change the window's count of saturated samples, flags and their counters. -/
theorem pushLeg_spec (hl : s.win.win[w].legs[p] = some l) (hwf : Tlm.wf s.tlm = true) (xs : List Smp) : ∃ n f m,
    Rest (withFlags (s.modWin w fun x => { x with satSince := n, legs := x.legs.set p (some { l with chain := chainAfter s.win.win[w] l xs }) })
      f m) (s.pushLeg w p xs) ∧ Tlm.wf m = true ∧ ∀ y, 0x7000 ≤ y → Tlm.get m y = Tlm.get s.tlm y := by
  have hpush : s.pushLeg w p xs =
      (s.modWin w fun x => { x with legs := x.legs.set p (some { l with chain := chainAfter s.win.win[w] l xs }) }).saturate w
        (xs.foldl (Chain.push s.win.win[w] l.nco) (l.chain, Vector.replicate 7 0)).2 := by
    rw [State.pushLeg, hl]
    refine congrArg (State.saturate · w _) (modWin_congr ?_)
    simp only [upd, hl]
    rfl
  obtain ⟨n, f, m, hrest, hm⟩ := saturate_spec (s := s.modWin w fun x => { x with
    legs := x.legs.set p (some { l with chain := chainAfter s.win.win[w] l xs }) }) hwf w
    (xs.foldl (Chain.push s.win.win[w] l.nco) (l.chain, Vector.replicate 7 0)).2
  rw [modWin_modWin, ← hpush] at hrest
  exact ⟨n, f, m, hrest, hm⟩

theorem legOverrun_lost {n : Nat} (hl : s.win.win[w].legs[p] = some l) (hrun : l.stopped = none) (hn : n ≠ 0)
    (hwf : Tlm.wf s.tlm = true) : ∃ u : State, exec (.legOverrun w p n) s = .next u ∧
      u.win = (s.modWin w fun x => { x with satSince := u.win.win[w].satSince
                                            legs := x.legs.set p (some { l with chain := chainAfter s.win.win[w] l (Machine.zeros n n) }) }).win ∧
      Tlm.get u.tlm (0x7004 + 16 * l.no) = Tlm.get s.tlm (0x7004 + 16 * l.no) + BitVec.ofNat 32 n ∧
      u = { s with win := u.win, flags := u.flags, tlm := u.tlm, host := u.host, evt := u.evt } := by
  obtain ⟨k, f, m, hpush, hm, hget⟩ := pushLeg_spec hl hwf (Machine.zeros n n)
  have hlost : s.legOverrun w p n = (((s.pushLeg w p (Machine.zeros n n)).linkDrop l.no n).raiseLimited 30 w.val 0
      (s.heldMask w ||| BitVec.ofNat 32 (2 ^ p.val)) n) := by
    have hgo : ¬(l.stopped.isSome = true ∨ n = 0) := by simp [hrun, hn]
    simp only [State.legOverrun, State.loseSamples, hl, if_neg hgo]
  have hdrop := rest_trans (rest_bump hpush (0x7004 + 16 * l.no) n)
    (rest_raiseLimited (Rest.refl ((s.pushLeg w p (Machine.zeros n n)).linkDrop l.no n)) 30 w.val 0
      (s.heldMask w ||| BitVec.ofNat 32 (2 ^ p.val)) n)
  rw [← hlost] at hdrop
  refine ⟨_, rfl, ?_, ?_, ?_⟩
  · rw [rest_win_eq hdrop]
    refine (congrArg State.win (modWin_congr (s := s) ?_) : (s.modWin w _).win = _)
    rw [show (State.bump _ (0x7004 + 16 * l.no) n).win.win[w].satSince = k from congrArg Window.satSince (modWin_win_same s w _)]
  · rw [rest_tlm_eq hdrop]
    exact (bump_get_same hm _ _).trans (congrArg (· + BitVec.ofNat 32 n) (hget _ (by omega)))
  · rw [rest_win_eq hdrop, rest_flags_eq hdrop, rest_tlm_eq hdrop]
    exact hdrop.eq

/-- Nothing is lost where no leg is, and no samples are none. -/
theorem legOverrun_none {n : Nat} (h : s.win.win[w].legs[p] = none ∨ n = 0) : exec (.legOverrun w p n) s = .next s := by
  refine congrArg Host.Outcome.next ?_
  unfold State.legOverrun
  split
  · rfl
  · next l hl =>
    obtain hnone | hn := h
    · rw [hl] at hnone
      cases hnone
    · rw [if_pos (.inr hn)]

end Overrun

end Sys2Proof.Proofs
end

section
/-!
SUPPORT. The output samples of a window (R117, R119, R121, R132, R134): what computing one changes, its timestamp, a single leg and two legs.
-/

namespace Sys2Proof.Proofs

open Sys2Proof Sys2Proof.Machine Sys2Proof.Laws

/-! ### The next output sample (R119, R121) -/

section Emit

variable {x : Window} {v : Vector Nat 7}

theorem emit_dropped (hheld : x.withheld ≠ 0) (hrel : x.released = false) :
    (Window.emit (x, v)).1.ready = x.ready ∧ (Window.emit (x, v)).1.disc = x.disc := by
  have hkeep : (x.released || !decide (x.withheld ≠ 0)) = false := by rw [hrel, decide_eq_true hheld]; rfl
  exact ⟨if_neg (ne_true_of_eq_false hkeep), if_neg (ne_true_of_eq_false hkeep)⟩

/-- A sample that is kept ends the block in progress and takes the DISC that is due. -/
theorem emit_kept (hkeep : x.withheld ≠ 0 → x.released = true) : ∃ o : OutSmp, (Window.emit (x, v)).1.ready = x.ready ++ [o] ∧
    (Window.emit (x, v)).1.disc = 0 ∧ o.ts = x.stamp x.count ∧ o.disc = x.disc ∧
    (x.withheld ≠ 0 → o.mask = x.mask (fun _ => true) ∧ (o.vals.all fun z => decide (z = (0, 0))) = true) := by
  have hkept : (x.released || !decide (x.withheld ≠ 0)) = true := by
    by_cases hheld : x.withheld = 0
    · rw [decide_eq_false (not_not.mpr hheld), Bool.not_false, Bool.or_true]
    · rw [hkeep hheld, Bool.true_or]
  refine ⟨_, if_pos hkept, if_pos hkept, ?_, ?_, fun hheld => ?_⟩
  · split <;> rfl
  · split <;> rfl
  · rw [if_pos (decide_eq_true hheld)]
    exact ⟨rfl, by simp⟩

/-- What a sample that is kept appends, as the list's own ends say it. -/
theorem append_ends {α : Type} {l r : List α} {o : α} (h : r = l ++ [o]) :
    r.take l.length = l ∧ r.length = l.length + 1 ∧ r.getLast? = some o := by
  subst h
  simp

end Emit

/-! ### TIMESTAMP (R119, R135) -/

/-- With G a whole number of ADC periods nothing is rounded. -/
theorem stamp_whole {x : Window} {n : D} (hstart : x.start = some n) (hwhole : x.delay2048 * adcPer x.preset % 2048 = 0) (k : Nat) :
    x.stamp k = n + BitVec.ofNat 64 (k * presetTotal x.preset * adcPer x.preset) - BitVec.ofNat 64 (x.delay2048 * adcPer x.preset / 2048) := by
  have hround : round2048 (2048 * ((n.toNat + k * presetTotal x.preset * adcPer x.preset : Nat) : Int) - (x.delay2048 * adcPer x.preset : Nat)) =
      ((n.toNat + k * presetTotal x.preset * adcPer x.preset : Nat) : Int) - (x.delay2048 * adcPer x.preset / 2048 : Nat) := by
    generalize x.delay2048 * adcPer x.preset = g at hwhole
    generalize n.toNat + k * presetTotal x.preset * adcPer x.preset = t
    rw [round2048, if_neg (by omega)]
    omega
  simp only [Window.stamp, hstart, Option.getD_some]
  rw [hround, Int.sub_eq_add_neg, BitVec.ofInt_add, BitVec.ofInt_neg, ← BitVec.sub_eq_add_neg, BitVec.ofInt_natCast, BitVec.ofInt_natCast,
    BitVec.ofNat_add, BitVec.ofNat_toNat, BitVec.setWidth_eq]

/-! ### One leg and two legs (R117, R132, R134) -/

section Combiner

theorem roundAway_zero (n : Int) : roundAway n 0 = n := by
  have hm : (2 * n.natAbs + 2 ^ 0) / 2 ^ (0 + 1) = n.natAbs := by omega
  unfold roundAway
  rw [hm]
  dsimp only
  split <;> omega

theorem outputs_single {x : Window} (hcomb : x.combines = true) (hwide : x.wide = true) (a v : IQ) (o : Bool) :
    (x.outputs [(a, v, o)]).1 = [(clip 24 (v.1 * 2 ^ x.shift), clip 24 (v.2 * 2 ^ x.shift))] := by
  simp only [Window.outputs, hcomb, if_true, Window.requant, hwide, clipIQ, roundAway_zero]

theorem cadd_zero_left (x : IQ) : cadd (0, 0) x = x := Prod.ext (Int.zero_add _) (Int.zero_add _)

theorem combined_both (a d v z : IQ) : combined [(a, v, false), (d, z, false)] = cadd (cmul a v) (cmul d z) :=
  congrArg (cadd · (cmul d z)) (cadd_zero_left (cmul a v))

/-- The scaling of one weight gives one weight. -/
theorem normWeights_single (a : IQ) : ∃ b, normWeights [a] = [b] := by
  unfold normWeights
  dsimp only
  split
  · exact ⟨a, rfl⟩
  · exact ⟨_, rfl⟩

theorem combined_excluded (a d v z : IQ) :
    combined [(a, v, false), (d, z, true)] = csum ((normWeights [a]).map fun e => cmul e v) := by
  have hinc : combined [(a, v, false), (d, z, true)] =
      csum (((normWeights [a]).zip [(a, v, false)]).map fun e => cmul e.1 e.2.2.1) := rfl
  obtain ⟨b, hb⟩ := normWeights_single a
  rw [hinc, hb]
  rfl

end Combiner

end Sys2Proof.Proofs
end

section
/-!
SUPPORT. Output blocks and the end of a withholding (R17, R119, R121, R122, R130, R134): what a block of 64 output samples leaves behind in its
window and its runner, and the weights with which a window starts.
-/

namespace Sys2Proof.Proofs

open Sys2Proof Sys2Proof.Machine Sys2Proof.Laws

/-! ### The runner takes a block (R15 to R17) -/

section Runner

variable {s t : State} {r : Fin 32} {w : Fin 64}

theorem modRun_run_same (s : State) (r : Fin 32) (f : Runner → Runner) : (s.modRun r f).svc.run[r] = f s.svc.run[r] := upd_same _ r f

theorem ServicesOnly.refl (s : State) : ServicesOnly s s := rfl

theorem servicesOnly_modRun (h : ServicesOnly s t) (r : Fin 32) (f : Runner → Runner) : ServicesOnly s (t.modRun r f) := h

theorem servicesOnly_bump (h : ServicesOnly s t) (off n : Nat) : ServicesOnly s (t.bump off n) := h

theorem servicesOnly_gapBlock (h : ServicesOnly s t) (r : Fin 32) : ServicesOnly s (t.gapBlock r) := by
  unfold State.gapBlock
  refine servicesOnly_modRun ?_ _ _
  split
  · exact servicesOnly_trans h (reacquire_spec t r).1
  · exact h

/-- What a block changes beyond its window. -/
theorem servicesOnly_runnerBlock (s : State) (w : Fin 64) (mask every legLost lost : Nat) :
    ServicesOnly s (s.runnerBlock w mask every legLost lost) := by
  unfold State.runnerBlock
  dsimp only
  split
  · exact servicesOnly_gapBlock (servicesOnly_modRun (ServicesOnly.refl s) _ _) _
  · split
    · exact servicesOnly_modRun (servicesOnly_bump (servicesOnly_modRun (servicesOnly_modRun (ServicesOnly.refl s) _ _) _ _) _ _) _ _
    · exact servicesOnly_modRun (servicesOnly_modRun (ServicesOnly.refl s) _ _) _ _

/-- A block that some leg has reached whole is no gap: no context leaves its state. -/
theorem runnerBlock_no_gap {mask every : Nat} (h : mask ≠ every) (hr : s.win.win[w].runner = r) (legLost lost : Nat) :
    (s.runnerBlock w mask every legLost lost).svc.run[r].gap = none ∧
      (s.runnerBlock w mask every legLost lost).svc.ctx = s.svc.ctx := by
  subst hr
  unfold State.runnerBlock
  dsimp only
  rw [if_neg h]
  split
  · refine ⟨?_, rfl⟩
    rw [modRun_run_same]
    exact congrArg Runner.gap (modRun_run_same (s.modRun s.win.win[w].runner _) s.win.win[w].runner _)
  · exact ⟨congrArg Runner.gap (modRun_run_same (s.modRun s.win.win[w].runner _) s.win.win[w].runner _), rfl⟩

end Runner

/-! ### A block is delivered (R10, R13, R119, R130) -/

section Block

variable {s : State} {w : Fin 64} {x : Window}

/-- A window whose samples have become its last block. -/
def blockDone (x : Window) : Window := { x with
  legs := Vector.ofFn fun p => x.legs[p].map fun l => l.block ((blockMask x.ready).testBit p.val)
  ready := [], block := x.ready, blocks := x.blocks + 1, lastTs := (x.ready.head?.map OutSmp.ts).getD 0 }

theorem blockDone_leg (x : Window) (p : Fin 4) :
    (blockDone x).legs[p] = x.legs[p].map fun l => l.block ((blockMask x.ready).testBit p.val) := Vector.getElem_ofFn p.isLt

/-- A block leaves the delay that waits for its end alone. -/
theorem blockDone_jumps (x : Window) : ((blockDone x).legs.toList.map fun l => (l.map Leg.delayJump).getD 0) =
    x.legs.toList.map fun l => (l.map Leg.delayJump).getD 0 := by
  simp only [toList_eq_map_finRange, List.map_map]
  refine List.map_congr_left fun p _ => ?_
  rw [Function.comp_apply, Function.comp_apply, blockDone_leg, Option.map_map]
  rfl

theorem newDelay_eq (l : Leg) :
    l.newDelay = { l with delay := l.delayNext.getD l.delay, target := l.delayNext.getD l.target, delayNext := none } := by
  unfold Leg.newDelay
  split
  · next h =>
    cases l
    cases h
    rfl
  · next v h => rw [h, Option.getD_some, Option.getD_some]

theorem boundary_leg (x : Window) (p : Fin 4) : x.boundary.legs[p] = x.legs[p].map Leg.newDelay := Vector.getElem_map _ p.isLt

theorem blockDone_boundary_leg (x : Window) (p : Fin 4) : (blockDone x).boundary.legs[p] = x.legs[p].map fun l => { l with
    delay := l.delayNext.getD l.delay, target := l.delayNext.getD l.target, delayNext := none
    marked := (blockMask x.ready).testBit p.val, lost := 0, stopDue := l.stopDue && !(blockMask x.ready).testBit p.val
    blockSub := 0, returned := 0 } := by
  rw [boundary_leg, blockDone_leg, Option.map_map]
  refine congrArg (Option.map · _) (funext fun l => ?_)
  rw [Function.comp_apply, newDelay_eq]
  rfl

theorem blockDone_boundary (x : Window) : (blockDone x).boundary = { x with
    legs := (blockDone x).boundary.legs, ready := [], block := x.ready, blocks := x.blocks + 1
    lastTs := (x.ready.head?.map OutSmp.ts).getD 0
    disc := min (2 ^ 24 - 1) (x.disc + (x.legs.toList.map fun l => (l.map Leg.delayJump).getD 0).foldl max 0) } := by
  rw [← blockDone_jumps]
  rfl

theorem blockDone_runner (x : Window) : (blockDone x).boundary.runner = x.runner := rfl

/-- A block: the counters of its links, the window's own part, and the runner's. -/
theorem outputBlock_eq (s : State) (w : Fin 64) : ∃ (t : State) (a b : Nat), s.outputBlock w = t.runnerBlock w (blockMask s.win.win[w].ready)
      (s.win.win[w].mask fun _ => true) a b ∧
    t.win = (s.modWin w fun _ => (blockDone s.win.win[w]).boundary).win ∧ t = { s with win := t.win, tlm := t.tlm } := by
  have hfold (l : List (Nat × Nat)) : ∃ m, l.foldl (fun s r => if r.2 ≠ 0 then s.linkDisc r.1 else s) s = { s with tlm := m } := by
    refine List.foldlRecOn (motive := fun t : State => ∃ m, t = { s with tlm := m }) _ _ ⟨s.tlm, rfl⟩ fun t ⟨m, ht⟩ e _ => ?_
    split
    · exact ⟨_, by rw [ht]; rfl⟩
    · exact ⟨m, ht⟩
  obtain ⟨m, hm⟩ := hfold (s.win.win[w].positions.map fun p =>
    (s.win.win[w].legs[p].map fun l => (l.no, l.report ((blockMask s.win.win[w].ready).testBit p.val))).getD (0, 0))
  unfold State.outputBlock
  dsimp only
  rw [hm]
  split
  · exact ⟨_, _, _, rfl, rfl, rfl⟩
  · exact ⟨_, _, _, rfl, rfl, rfl⟩

theorem outputBlock_spec (s : State) (w : Fin 64) :
    (s.outputBlock w).win.win[w] = (blockDone s.win.win[w]).boundary ∧
    (blockMask s.win.win[w].ready ≠ s.win.win[w].mask (fun _ => true) →
      (s.outputBlock w).svc.run[s.win.win[w].runner].gap = none ∧ (s.outputBlock w).svc.ctx = s.svc.ctx) ∧
    (∀ k : Fin 64, k ≠ w → (s.outputBlock w).win.win[k] = s.win.win[k]) ∧
    s.outputBlock w = { s with win := (s.outputBlock w).win, svc := (s.outputBlock w).svc, tlm := (s.outputBlock w).tlm
                               host := (s.outputBlock w).host, evt := (s.outputBlock w).evt } := by
  obtain ⟨t, a, b, heq, hown, hframe⟩ := outputBlock_eq s w
  have hrunner := servicesOnly_runnerBlock t w (blockMask s.win.win[w].ready) (s.win.win[w].mask fun _ => true) a b
  rw [← heq] at hrunner
  have hwin := (servicesOnly_win hrunner).trans hown
  have hsame : t.win.win[w] = (blockDone s.win.win[w]).boundary := by
    rw [hown]
    exact modWin_win_same s w _
  have hsvc : t.svc = s.svc := (congrArg State.svc hframe :)
  refine ⟨by rw [hwin]; exact modWin_win_same s w _, fun hmask => ?_, fun k hk => by rw [hwin]; exact modWin_win_other _ hk, ?_⟩
  · have hgap := runnerBlock_no_gap (r := s.win.win[w].runner) hmask (by rw [hsame, blockDone_runner]) a b
    rw [← heq, hsvc] at hgap
    exact hgap
  · have heach := servicesOnly_eq hrunner
    rw [hframe] at heach
    rw [servicesOnly_win hrunner]
    exact heach

end Block

/-! ### The end of a withholding (R121, R122, R134) -/

section Settled

variable {s : State} {w : Fin 64} {x y : Window}

/-- The largest entry of a list. -/
theorem foldl_max_eq {l : List Nat} {m : Nat} (hm : m ∈ l) (hle : ∀ a ∈ l, a ≤ m) : l.foldl max 0 = m := by
  have hmax : (0 :: l).max? = some m := List.max?_eq_some_iff.mpr
    ⟨List.mem_cons_of_mem 0 hm, fun a ha => (List.mem_cons.mp ha).elim (fun h => h ▸ Nat.zero_le m) (hle a)⟩
  exact Option.some.inj hmax

theorem mem_positions {p : Fin 4} : p ∈ x.positions ↔ x.legs[p].isSome = true := by
  simp only [Window.positions, allIx, List.mem_filter, List.mem_finRange, true_and]

/-- The leg of highest power is the one of weight 1. -/
theorem startWeights_one {p : Fin 4} (hp : x.legs[p].isSome = true)
    (hmost : ∀ q : Fin 4, q ≠ p → x.legs[q].isSome = true → x.power q < x.power p) :
    x.positions.find? (fun q => decide (x.power q = (x.positions.map x.power).foldl max 0)) = some p := by
  have hbest : (x.positions.map x.power).foldl max 0 = x.power p := by
    refine foldl_max_eq (List.mem_map_of_mem (mem_positions.mpr hp)) fun a ha => ?_
    obtain ⟨q, hq, rfl⟩ := List.mem_map.mp ha
    by_cases hqp : q = p
    · rw [hqp]
    · exact (hmost q hqp (mem_positions.mp hq)).le
  rw [hbest]
  cases hfound : x.positions.find? fun q => decide (x.power q = x.power p) with
  | none => exact absurd (decide_eq_true rfl) (List.find?_eq_none.mp hfound p (mem_positions.mpr hp))
  | some q =>
    have heq : x.power q = x.power p := of_decide_eq_true
      (List.find?_some (p := fun q => decide (x.power q = x.power p)) hfound)
    by_contra hne
    have hqp : q ≠ p := fun h => hne (by rw [h])
    exact (hmost q hqp (mem_positions.mp (List.mem_of_find?_eq_some hfound))).ne heq

theorem startWeights_leg (x : Window) (q : Fin 4) : x.startWeights.legs[q] = x.legs[q].map fun l => { l with
    weight := if x.positions.find? (fun q => decide (x.power q = (x.positions.map x.power).foldl max 0)) = some q then weightOne else (0, 0) } :=
  Vector.getElem_ofFn q.isLt

/-- A window whose withholding has ended, before its weights start afresh. -/
def runningWindow (x : Window) : Window :=
  if x.released then { x with st := 2, released := true } else ({ x with st := 2, released := true } : Window).mapLegs Leg.newDelay

theorem runningWindow_st (x : Window) : (runningWindow x).st = 2 ∧ (runningWindow x).released = true := by
  unfold runningWindow
  split <;> exact ⟨rfl, rfl⟩

/-- What a window's weights depend on stays. -/
theorem runningWindow_legs (x : Window) (p : Fin 4) {α : Type} (a : α) :
    ((runningWindow x).legs[p].map fun _ => a) = x.legs[p].map fun _ => a := by
  unfold runningWindow
  split
  · rfl
  · exact (congrArg (Option.map fun _ => a) (Vector.getElem_map _ p.isLt)).trans (Option.map_map _ _ _)

theorem runningWindow_isSome (x : Window) (p : Fin 4) : (runningWindow x).legs[p].isSome = x.legs[p].isSome := by
  have h := congrArg Option.isSome (runningWindow_legs x p ())
  simpa only [Option.isSome_map] using h

theorem runningWindow_power (x : Window) (p : Fin 4) : (runningWindow x).power p = x.power p := by
  unfold runningWindow
  split <;> rfl

theorem startWeights_running {p : Fin 4} (hp : x.legs[p].isSome = true)
    (hmost : ∀ q : Fin 4, q ≠ p → x.legs[q].isSome = true → x.power q < x.power p) (q : Fin 4) :
    (runningWindow x).startWeights.legs[q].map Leg.weight = x.legs[q].map fun _ => if q = p then (65536, 0) else (0, 0) := by
  have hone := startWeights_one (x := runningWindow x) (p := p) (by rw [runningWindow_isSome, hp])
    (by simpa only [runningWindow_isSome, runningWindow_power] using hmost)
  rw [startWeights_leg, hone, Option.map_map, ← runningWindow_legs x q]
  refine congrArg (Option.map · _) (funext fun l => ?_)
  simp only [Function.comp_apply, Option.some.injEq, eq_comm (a := p), weightOne]

theorem settled_eq (s : State) (w : Fin 64) : Rest ((s.modWin w fun x => (runningWindow x).startWeights).modRun s.win.win[w].runner fun r =>
    { r with active := true }) (s.settled w) := rest_raise (Rest.refl _) _ _ _

theorem settled_spec (s : State) (w : Fin 64) : (s.settled w).win.win[w] = (runningWindow s.win.win[w]).startWeights ∧
    (s.settled w).svc.run[s.win.win[w].runner].active = true ∧ (∀ k : Fin 64, k ≠ w → (s.settled w).win.win[k] = s.win.win[k]) ∧
    s.settled w = { s with win := (s.settled w).win, svc := (s.settled w).svc, host := (s.settled w).host, evt := (s.settled w).evt } := by
  have h := settled_eq s w
  have hwin := rest_win_eq h
  have hsvc := rest_svc_eq h
  refine ⟨by rw [hwin]; exact modWin_win_same s w _, ?_, fun k hk => by rw [hwin]; exact modWin_win_other _ hk, ?_⟩
  · rw [hsvc]
    exact congrArg Runner.active (modRun_run_same (s.modWin w _) s.win.win[w].runner _)
  · rw [hwin, hsvc]
    exact h.eq

end Settled

end Sys2Proof.Proofs
end

section
/-!
SUPPORT. CMA_UPDATE (R133, R134): an update changes weights alone, and of legs that R14 excludes none.
-/

namespace Sys2Proof.Proofs

open Sys2Proof Sys2Proof.Machine Sys2Proof.Laws

section Cma

variable {s : State} {w : Fin 64} {x : Window}

/-- A window whose leg at a position takes another weight. -/
def reweigh (x : Window) (e : Fin 4 × IQ) : Window := { x with legs := upd x.legs e.1 fun l => l.map fun l => { l with weight := e.2 } }

theorem foldl_reweigh_modWin (l : List (Fin 4 × IQ)) (s : State) (f : Window → Window) :
    l.foldl (fun s e => s.modWin w fun x => reweigh x e) (s.modWin w f) = s.modWin w fun x => l.foldl reweigh (f x) := by
  induction l generalizing f with
  | nil => rfl
  | cons e l ih => rw [List.foldl_cons, modWin_modWin, ih]; rfl

/-- Nothing but legs changes. -/
theorem foldl_reweigh_frame (l : List (Fin 4 × IQ)) (x : Window) : l.foldl reweigh x = { x with legs := (l.foldl reweigh x).legs } :=
  List.foldlRecOn (motive := fun y : Window => y = { x with legs := y.legs }) l reweigh rfl fun y hy e _ => by rw [hy]; rfl

/-- Of a leg nothing but its weight changes. -/
theorem foldl_reweigh_leg (l : List (Fin 4 × IQ)) (x : Window) (p : Fin 4) :
    (l.foldl reweigh x).legs[p].map (fun l => { l with weight := (0, 0) }) = x.legs[p].map (fun l => { l with weight := (0, 0) }) := by
  refine List.foldlRecOn (motive := fun y : Window => y.legs[p].map (fun l => { l with weight := (0, 0) }) =
    x.legs[p].map fun l => { l with weight := (0, 0) }) l reweigh rfl fun y hy e _ => ?_
  by_cases hp : p = e.1
  · rw [← hy, hp, reweigh, upd_same, Option.map_map]
    rfl
  · rw [← hy, reweigh, upd_other _ e.1 p _ (Ne.symm hp)]

/-- A leg that takes no part keeps its weight as well. -/
theorem foldl_reweigh_other {l : List (Fin 4 × IQ)} {p : Fin 4} (hp : ∀ e ∈ l, e.1 ≠ p) (x : Window) :
    (l.foldl reweigh x).legs[p] = x.legs[p] :=
  List.foldlRecOn (motive := fun y : Window => y.legs[p] = x.legs[p]) l reweigh rfl fun y hy e he =>
    (upd_other _ e.1 p _ (hp e he)).trans hy

/-- The positions that take part in an update: R14 excludes their leg in no output sample since the last one. -/
def included (x : Window) : List (Fin 4) := x.positions.filter fun p =>
  (x.recent.take x.fresh).reverse.all fun v => match v[p] with | some e => !e.2 | none => false

theorem included_excludes {p : Fin 4} (h : ((x.recent.take x.fresh).any fun v => decide (v[p].map Prod.snd = some true)) = true) :
    p ∉ included x := by
  obtain ⟨v, hv, hp⟩ := List.any_eq_true.mp h
  intro hin
  have hall := List.all_eq_true.mp (List.mem_filter.mp hin).2 v (List.mem_reverse.mpr hv)
  obtain ⟨e, he, hsub⟩ := Option.map_eq_some_iff.mp (of_decide_eq_true hp)
  rw [he] at hall
  simp only [hsub, Bool.not_true, Bool.false_eq_true] at hall

/-- An update as weights for the positions that take part. -/
theorem cma_eq (s : State) (w : Fin 64) : ∃ ws, s.cma w = ({ s with freeCnt := s.freeCnt + 8 } : State).modWin w fun x =>
    ((included s.win.win[w]).zip ws).foldl reweigh { x with fresh := 0 } :=
  ⟨_, foldl_reweigh_modWin _ { s with freeCnt := s.freeCnt + 8 } fun x => { x with fresh := 0 }⟩

theorem cma_spec (s : State) (w : Fin 64) :
    (∀ p : Fin 4, (s.cma w).win.win[w].legs[p].map (fun l => { l with weight := (0, 0) }) =
      s.win.win[w].legs[p].map (fun l => { l with weight := (0, 0) })) ∧
    (∀ p : Fin 4, ((s.win.win[w].recent.take s.win.win[w].fresh).any fun v => decide (v[p].map Prod.snd = some true)) = true →
      (s.cma w).win.win[w].legs[p] = s.win.win[w].legs[p]) ∧
    (s.cma w).win = (s.modWin w fun x => { x with fresh := 0, legs := (s.cma w).win.win[w].legs }).win ∧
    s.cma w = { s with win := (s.cma w).win, freeCnt := s.freeCnt + 8 } := by
  obtain ⟨ws, hws⟩ := cma_eq s w
  have hsame : (s.cma w).win.win[w] = ((included s.win.win[w]).zip ws).foldl reweigh { s.win.win[w] with fresh := 0 } := by
    rw [hws]
    exact modWin_win_same _ w _
  refine ⟨fun p => ?_, fun p hp => ?_, ?_, by rw [hws]; rfl⟩
  · rw [hsame]
    exact foldl_reweigh_leg _ _ p
  · rw [hsame]
    refine foldl_reweigh_other (fun e he hep => included_excludes hp ?_) _
    exact hep ▸ (List.of_mem_zip he).1
  · rw [hsame, hws]
    refine (show _ = (s.modWin w fun x => ((included s.win.win[w]).zip ws).foldl reweigh { x with fresh := 0 }).win from rfl).trans
      (congrArg State.win (modWin_congr ?_))
    exact foldl_reweigh_frame _ _

end Cma

end Sys2Proof.Proofs
end

section
/-!
SUPPORT. The scan bank (R137, R138): what a pass measures and what it leaves alone, and WIN_SCAN_READ. The obligation about output samples, blocks
and the scan bank ends the text.
-/

namespace Sys2Proof.Proofs

open Sys2Proof Sys2Proof.Machine Sys2Proof.Laws

/-! ### The links of the scan bank (R10, R12) -/

section Links

variable {s : State}

/-- A state with other counters, and other drops on the links to the scan bank. -/
def linked (s : State) (v : Vector Nat 12) (m : List (Nat × W)) : State := { s with win := { s.win with scanLost := v }, tlm := m }

theorem scanSkip_linked (s : State) (j : Nat) : ∃ v m, s.scanSkip j = linked s v m := by
  unfold State.scanSkip
  dsimp only
  split
  · exact ⟨_, _, rfl⟩
  · exact ⟨_, _, rfl⟩

theorem scanMark_linked (s : State) (j : Nat) : ∃ v m, s.scanMark j = linked s v m := by
  unfold State.scanMark
  split
  · exact ⟨_, _, rfl⟩
  · split
    · exact ⟨_, _, rfl⟩
    · exact ⟨_, _, rfl⟩

theorem foldl_linked {α : Type} {g : State → α → State} (hg : ∀ t a, ∃ v m, g t a = linked t v m) (l : List α) (s : State) :
    ∃ v m, l.foldl g s = linked s v m := by
  refine List.foldlRecOn (motive := fun t : State => ∃ v m, t = linked s v m) l g ⟨s.win.scanLost, s.tlm, rfl⟩ fun t ⟨v, m, ht⟩ a _ => ?_
  obtain ⟨v', m', hstep⟩ := hg t a
  exact ⟨v', m', by rw [hstep, ht]; rfl⟩

theorem scanLink_linked (s : State) (n : Fin 4) (dab : Bool) (obs : List ScanObs) : ∃ v m, s.scanLink n dab obs = linked s v m := by
  unfold State.scanLink
  dsimp only
  split
  · refine foldl_linked (fun t i => ?_) _ s
    split
    · exact ⟨_, _, rfl⟩
    · split
      · exact scanSkip_linked _ _
      · exact scanMark_linked _ _
  · exact ⟨_, _, rfl⟩

end Links

/-! ### A pass (R137) -/

section Pass

variable {s : State} {dab : Bool} {meas : List (List ScanObs)}

/-- What a table's entry is after updates of entries that are listed once. -/
theorem foldl_upd {α : Type} {n : Nat} {l : List (Fin n)} (hl : l.Nodup) (v : Vector α n) (g : Fin n → α → α) (k : Fin n) :
    (l.foldl (fun v i => upd v i (g i)) v)[k] = if k ∈ l then g k v[k] else v[k] := by
  induction l generalizing v with
  | nil => rfl
  | cons i l ih =>
    obtain ⟨hi, hnodup⟩ := List.nodup_cons.mp hl
    rw [List.foldl_cons, ih hnodup]
    by_cases hk : k = i
    · subst hk
      rw [if_neg hi, upd_same, if_pos List.mem_cons_self]
    · rw [upd_other _ i k _ (Ne.symm hk)]
      simp only [List.mem_cons, hk, false_or]

theorem mem_scanAnts {n : Fin 4} : n ∈ s.scanAnts ↔ s.win.scanCtl.getLsbD (8 + n.val) = true := by
  simp only [State.scanAnts, allIx, List.mem_filter, List.mem_finRange, true_and]

/-- The entries of the antennas after a pass. -/
def scanPasses (s : State) (dab : Bool) (meas : List (List ScanObs)) (v : Vector (List ScanEntry) 4) : Vector (List ScanEntry) 4 :=
  s.scanAnts.foldl (fun v n => upd v n fun old =>
    scanPass s.cap.hr[n] s.cap.feed[n] dab (meas.getD n.val []) old (s.freeCnt + scanCount dab * n.val)) v

theorem scanPasses_ant (s : State) (dab : Bool) (meas : List (List ScanObs)) (v : Vector (List ScanEntry) 4) (n : Fin 4) :
    (scanPasses s dab meas v)[n] = if s.win.scanCtl.getLsbD (8 + n.val) = true then
      scanPass s.cap.hr[n] s.cap.feed[n] dab (meas.getD n.val []) v[n] (s.freeCnt + scanCount dab * n.val) else v[n] := by
  have hnodup : s.scanAnts.Nodup := by
    rw [State.scanAnts, allIx]
    exact (List.nodup_finRange 4).filter _
  refine (foldl_upd hnodup v (fun n old =>
    scanPass s.cap.hr[n] s.cap.feed[n] dab (meas.getD n.val []) old (s.freeCnt + scanCount dab * n.val)) n).trans ?_
  simp only [mem_scanAnts]

theorem scanPass_length (h : Headrace) (f : Feed) (dab : Bool) (obs : List ScanObs) (old : List ScanEntry) (k : Nat) :
    (scanPass h f dab obs old k).length = scanCount dab := by rw [scanPass, List.length_map, List.length_range]

theorem scanPasses_length (s : State) (dab : Bool) (meas : List (List ScanObs)) (v : Vector (List ScanEntry) 4) (n : Fin 4) :
    (scanPasses s dab meas v)[n].length = if s.win.scanCtl.getLsbD (8 + n.val) = true then scanCount dab else v[n].length := by
  rw [scanPasses_ant]
  split
  · exact scanPass_length _ _ _ _ _ _
  · rfl

/-- An entry of a scanned antenna is one measurement. -/
theorem scanPasses_entry {n : Fin 4} {i : Nat} {o : ScanObs} (hant : s.win.scanCtl.getLsbD (8 + n.val) = true) (hi : i < scanCount dab)
    (ho : (meas.getD n.val [])[i]? = some o) (v : Vector (List ScanEntry) 4) : ∃ old : ScanEntry,
    (scanPasses s dab meas v)[n][i]? = some (scanEntry s.cap.hr[n] s.cap.feed[n] dab i o old) := by
  have hobs : (meas.getD n.val []).getD i ⟨0, 0, 0, true⟩ = o := by rw [List.getD_eq_getElem?_getD, ho, Option.getD_some]
  refine ⟨scanOld dab v[n] (s.freeCnt + scanCount dab * n.val) i, ?_⟩
  rw [scanPasses_ant, if_pos hant, scanPass, List.getElem?_map, List.getElem?_range hi, Option.map_some, hobs]

/-- A Headrace whose next pass begins: the span of a centre change ends once it has settled (R86). -/
def spanFm (h : Headrace) : Headrace := { h with vSpan := h.vSettling }
def spanDab (h : Headrace) : Headrace := { h with bSpan := h.bSettling }

/-- A pass: the entries, the end of a centre change's span, and the links. -/
theorem scanRun_fm (s : State) (meas : List (List ScanObs)) : ∃ v m, s.scanRun false meas = linked { s with
    win := { s.win with scanFm := scanPasses s false meas s.win.scanFm }, freeCnt := s.freeCnt + 2564
    cap := { s.cap with hr := s.cap.hr.map spanFm } } v m := by
  obtain ⟨v, m, hlinks⟩ := foldl_linked (g := fun t n => t.scanLink n false (meas.getD n.val []))
    (fun t n => scanLink_linked t n false (meas.getD n.val [])) s.scanAnts
    { s with win := { s.win with scanFm := scanPasses s false meas s.win.scanFm }, freeCnt := s.freeCnt + 2564 }
  exact ⟨v, m, congrArg (fun t : State => { t with cap := { t.cap with hr := t.cap.hr.map spanFm } }) hlinks⟩

theorem scanRun_dab (s : State) (meas : List (List ScanObs)) : ∃ v m, s.scanRun true meas = linked { s with
    win := { s.win with scanDab := scanPasses s true meas s.win.scanDab }, freeCnt := s.freeCnt + 152
    cap := { s.cap with hr := s.cap.hr.map spanDab } } v m := by
  obtain ⟨v, m, hlinks⟩ := foldl_linked (g := fun t n => t.scanLink n true (meas.getD n.val []))
    (fun t n => scanLink_linked t n true (meas.getD n.val [])) s.scanAnts
    { s with win := { s.win with scanDab := scanPasses s true meas s.win.scanDab }, freeCnt := s.freeCnt + 152 }
  exact ⟨v, m, congrArg (fun t : State => { t with cap := { t.cap with hr := t.cap.hr.map spanDab } }) hlinks⟩

theorem rest_scanDone (s : State) (code bit : Nat) : Rest s (s.scanDone code bit) := by
  unfold State.scanDone
  dsimp only
  split
  · exact rest_raise (Rest.refl s) _ _ _
  · exact Rest.refl s

theorem scanFmPass_spec (hon : s.win.scanCtl.getLsbD 0 = true) (meas : List (List ScanObs)) : ∃ u : State,
    exec (.scanFmPass meas) s = .next u ∧ u.win.scanFm = scanPasses s false meas s.win.scanFm ∧
    u.cap.hr = s.cap.hr.map spanFm ∧
    u = { s with win := { s.win with scanFm := u.win.scanFm, scanLost := u.win.scanLost }, cap := { s.cap with hr := u.cap.hr }
                 tlm := u.tlm, freeCnt := s.freeCnt + 2564, host := u.host, evt := u.evt } := by
  obtain ⟨v, m, hrun⟩ := scanRun_fm s meas
  have hdone := rest_scanDone (s.scanRun false meas) 0 2
  rw [hrun] at hdone
  refine ⟨(s.scanRun false meas).scanDone 0 2, congrArg Host.Outcome.next (if_pos hon), ?_⟩
  rw [hrun, rest_win_eq hdone, rest_cap_eq hdone, rest_tlm_eq hdone]
  exact ⟨rfl, rfl, hdone.eq⟩

theorem scanDabPass_spec (hon : s.win.scanCtl.getLsbD 1 = true) (meas : List (List ScanObs)) : ∃ u : State,
    exec (.scanDabPass meas) s = .next u ∧ u.win.scanDab = scanPasses s true meas s.win.scanDab ∧
    u.cap.hr = s.cap.hr.map spanDab ∧
    u = { s with win := { s.win with scanDab := u.win.scanDab, scanLost := u.win.scanLost }, cap := { s.cap with hr := u.cap.hr }
                 tlm := u.tlm, freeCnt := s.freeCnt + 152, host := u.host, evt := u.evt } := by
  obtain ⟨v, m, hrun⟩ := scanRun_dab s meas
  have hdone := rest_scanDone (s.scanRun true meas) 1 3
  rw [hrun] at hdone
  refine ⟨(s.scanRun true meas).scanDone 1 3, congrArg Host.Outcome.next (if_pos hon), ?_⟩
  rw [hrun, rest_win_eq hdone, rest_cap_eq hdone, rest_tlm_eq hdone]
  exact ⟨rfl, rfl, hdone.eq⟩

end Pass

/-! ### One measurement (R137, R138) -/

section Entry

variable {h : Headrace} {f : Feed} {dab : Bool} {i : Nat} {o : ScanObs} {old : ScanEntry}

theorem scanEntry_stopped (hs : h.samples = false) : (scanEntry h f dab i o old).flags = 4 := by rw [scanEntry, if_pos hs]

theorem scanEntry_outside (hs : h.samples = true) (hband : h.scans dab i = false) : (scanEntry h f dab i o old).flags = 2 := by
  rw [scanEntry, if_neg (by simp [hs]), if_pos hband]

theorem scanEntry_skipped (hs : h.samples = true) (hband : h.scans dab i = true) (hskip : o.skipped = true) :
    (scanEntry h f dab i o old).flags = 8 := by
  rw [scanEntry, if_neg (by simp [hs]), if_neg (by simp [hband]), if_pos hskip]

theorem scanEntry_fresh (hs : h.samples = true) (hband : h.scans dab i = true) (hskip : o.skipped = false)
    (hspan : (if dab then h.bSpan else h.vSpan) = false) : scanEntry h f dab i o old =
      { level := BitVec.ofInt 16 (f.level (1000 * scanKhz dab i) o.level), mpx := byte (min 255 o.mpx)
        null := if dab then byte (min 255 o.null) else 0, age := 0, flags := 1 } := by
  rw [scanEntry, if_neg (by simp [hs]), if_neg (by simp [hband]), if_neg (by simp [hskip]), if_neg (by simp [hspan])]

end Entry

/-! ### WIN_SCAN_READ (R138) -/

section Read

variable {s : State} {c : CmdEntry} {ant : Fin 4}

/-- The entries of a complete pass are those that the bank holds. -/
theorem scanOld_all {l : List ScanEntry} {n : Nat} (h : l.length = n) (dab : Bool) (k : Nat) :
    ((List.range n).flatMap fun i => (scanOld dab l k i).bytes) = l.flatMap ScanEntry.bytes := by
  have hall : (List.range n).map (scanOld dab l k) = l :=
    List.ext_getElem (by simp [h]) fun i _ hi => by simp [scanOld, hi]
  conv_rhs => rw [← hall, List.flatMap_map]

theorem bodyWinScanRead_eq {kind : Nat} (hb : c.bytes 24 4 = [byte kind, byte ant.val, 0, 0]) (hkind : kind ≤ 1)
    (hlen : c.bufLen.toNat = 8 * scanCount (decide (kind = 1)))
    (hfull : (if decide (kind = 1) = true then s.win.scanDab[ant] else s.win.scanFm[ant]).length = scanCount (decide (kind = 1))) :
    bodyWinScanRead c s = .ok { s with freeCnt := s.freeCnt + scanCount (decide (kind = 1)) } []
      (some ((if decide (kind = 1) = true then s.win.scanDab[ant] else s.win.scanFm[ant]).flatMap ScanEntry.bytes)) := by
  obtain ⟨h24, h25, h26, h27⟩ := bytes_four hb
  rw [byte_toNat (by omega)] at h24
  rw [byte_fin4] at h25
  have hrsvd : firstFail (rsvdBytes c 26 27) = none := firstFail_rsvdBytes fun i hi => by
    obtain rfl | rfl : i = 0 ∨ i = 1 := by omega
    · exact h26
    · exact h27
  have h1 : ¬1 < kind := by omega
  have h3 : ¬3 < ant.val := by omega
  have hant : Fin.ofNat 4 ant.val = ant := ofNat_eq rfl
  simp only [bodyWinScanRead, h24, h25, hant, hlen, h1, h3, checked, List.cons_append, List.nil_append, firstFail, hrsvd, ne_eq,
    not_true_eq_false, decide_false, Bool.false_eq_true, if_false]
  rw [scanOld_all hfull]

end Read

/-! ### The events of an open window -/

section Events

variable {s : State} {w : Fin 64} {b : RaceIn}

theorem winOutputBlock_eq (hst : s.win.win[w].st ≠ 0) : exec (.winOutputBlock w b) s =
    .next (if (s.feedWin w b).win.win[w].ready.length = 64 then (s.feedWin w b).outputBlock w else s.feedWin w b) :=
  congrArg Host.Outcome.next (if_pos hst)

theorem winSettled_eq (hst : s.win.win[w].st = 1) : exec (.winSettled w b) s =
    .next (if (s.feedWin w b).win.win[w].withheld = 0 then (s.feedWin w b).settled w else s.feedWin w b) :=
  congrArg Host.Outcome.next (if_pos hst)

theorem cmaUpdate_eq (hst : s.win.win[w].st ≠ 0) : exec (.cmaUpdate w b) s =
    .next (if (s.feedWin w b).win.win[w].st = 2 ∧ (s.feedWin w b).win.win[w].combines = true ∧
        2 ≤ (s.feedWin w b).win.win[w].positions.length ∧ (s.feedWin w b).win.win[w].fresh ≠ 0 then (s.feedWin w b).cma w
      else (s.feedWin w b).modWin w fun x => { x with fresh := 0 }) :=
  congrArg Host.Outcome.next (if_pos hst)

theorem combines_of_preset {x : Window} (h : x.preset = 1 ∨ x.preset = 3) : x.combines = true := by
  obtain h | h := h <;> simp [Window.combines, h]

end Events

/-- Settles O39: the lemmas on lost input, output samples, blocks, withholding, combiner updates and the scan bank, clause by clause. -/
theorem windowOutputAndScan : Obligations.WindowOutputAndScan := by
  unfold Obligations.WindowOutputAndScan
  refine ⟨?lost, ?lostNone, ?emit, ?stamp, ?single, ?combined, ?saturated, ?noBlock, ?block, ?withholds, ?settles, ?notWithholding, ?cma,
    ?cmaNone, ?closed, ?fmPass, ?fmEntry, ?dabPass, ?dabEntry, ?scanOff, ?readDab, ?readFm⟩
  case lost =>
    intro s w l n p hl hrun hn _ hwf
    exact legOverrun_lost hl hrun hn hwf
  case lostNone =>
    intro s w n p h
    exact legOverrun_none h
  case emit =>
    intro x v r hr
    subst hr
    refine ⟨rfl, rfl, emit_dropped, fun hheld hrel => ?_, fun hheld => ?_⟩
    · obtain ⟨o, hready, hdisc, hts, ho, hzero⟩ := emit_kept (v := v) fun _ => hrel
      obtain ⟨htake, hlen, hlast⟩ := append_ends hready
      obtain ⟨hmask, hvals⟩ := hzero hheld
      rw [hlast]
      exact ⟨htake, hlen, hdisc, congrArg some hts, congrArg some ho, congrArg some hmask, congrArg some hvals⟩
    · obtain ⟨o, hready, hdisc, hts, ho, -⟩ := emit_kept (v := v) fun hne => absurd hheld hne
      obtain ⟨htake, hlen, hlast⟩ := append_ends hready
      rw [hlast]
      exact ⟨htake, hlen, hdisc, congrArg some hts, congrArg some ho⟩
  case stamp =>
    intro x n k hstart hwhole
    exact stamp_whole hstart hwhole k
  case single =>
    intro x a v o hcomb hwide
    exact outputs_single hcomb hwide a v o
  case combined =>
    intro a d v z
    exact ⟨combined_both a d v z, combined_excluded a d v z⟩
  case saturated =>
    intro s w v i h
    exact saturate_flag h
  case noBlock =>
    intro s w b t y ht hy hst hlen
    subst hy
    rw [winOutputBlock_eq hst, ← ht, if_neg hlen]
  case block =>
    intro s w b t y ht hy hst hlen
    subst hy
    obtain ⟨hown, hgap, hothers, hframe⟩ := outputBlock_spec t w
    refine ⟨t.outputBlock w, ?_, ?_, fun p => ?_, hgap, hothers, ?_⟩
    · rw [winOutputBlock_eq hst, ← ht, if_pos hlen]
    · rw [hown]
      exact blockDone_boundary _
    · rw [hown]
      exact blockDone_boundary_leg _ p
    · rw [show (t.outputBlock w).freeCnt = t.freeCnt from (congrArg State.freeCnt hframe :)]
      exact hframe
  case withholds =>
    intro s w b t y ht hy hst hheld
    subst hy
    rw [winSettled_eq hst, ← ht, if_neg hheld]
  case settles =>
    intro s w b t y ht hy hst hheld
    subst hy
    obtain ⟨hown, hactive, hothers, hframe⟩ := settled_spec t w
    refine ⟨t.settled w, ?_, ?_, ?_, hactive, hothers, fun p hp hmost q => ?_, hframe⟩
    · rw [winSettled_eq hst, ← ht, if_pos hheld]
    · rw [hown]
      exact (runningWindow_st _).1
    · rw [hown]
      exact (runningWindow_st _).2
    · rw [hown]
      exact startWeights_running hp hmost q
  case notWithholding =>
    intro s w b hst
    exact congrArg Host.Outcome.next (if_neg hst)
  case cma =>
    intro s w b t y ht hy hst hrun hpreset hlegs hfresh
    subst hy
    refine ⟨t.cma w, ?_, cma_spec t w⟩
    rw [cmaUpdate_eq hst, ← ht, if_pos ⟨hrun, combines_of_preset hpreset, hlegs, hfresh⟩]
  case cmaNone =>
    intro s w b t y ht hy hst hnone
    subst hy
    rw [cmaUpdate_eq hst, ← ht, if_neg]
    rintro ⟨hrun, -, hlegs, -⟩
    obtain hidle | hfew := hnone
    · exact hidle hrun
    · omega
  case closed =>
    intro s w b hst
    exact ⟨congrArg Host.Outcome.next (if_neg (not_not.mpr hst)), congrArg Host.Outcome.next (if_neg (not_not.mpr hst))⟩
  case fmPass =>
    intro s m hon
    obtain ⟨u, hu, hfm, hhr, hframe⟩ := scanFmPass_spec hon m
    refine ⟨u, hu, fun ant => ?_, fun ant => ?_, hframe⟩
    · rw [hfm]
      exact scanPasses_length s false m s.win.scanFm ant
    · rw [hhr]
      exact Vector.getElem_map _ ant.isLt
  case fmEntry =>
    intro s m ant i o hon hant hi ho
    obtain ⟨u, hu, hfm, -, -⟩ := scanFmPass_spec hon m
    obtain ⟨old, hentry⟩ := scanPasses_entry (dab := false) hant hi ho s.win.scanFm
    rw [← hfm] at hentry
    refine ⟨u, hu, ?_⟩
    rw [hentry]
    exact ⟨fun hs => congrArg some (scanEntry_stopped hs), fun hs hband => congrArg some (scanEntry_outside hs hband),
      fun hs hband hskip => congrArg some (scanEntry_skipped hs hband hskip),
      fun hs hband hskip hspan => congrArg some (scanEntry_fresh hs hband hskip hspan)⟩
  case dabPass =>
    intro s m hon
    obtain ⟨u, hu, hdab, hhr, hframe⟩ := scanDabPass_spec hon m
    refine ⟨u, hu, fun ant => ?_, fun ant => ?_, hframe⟩
    · rw [hdab]
      exact scanPasses_length s true m s.win.scanDab ant
    · rw [hhr]
      exact Vector.getElem_map _ ant.isLt
  case dabEntry =>
    intro s m ant i o hon hant hi ho hs hband hskip hspan
    obtain ⟨u, hu, hdab, -, -⟩ := scanDabPass_spec hon m
    obtain ⟨old, hentry⟩ := scanPasses_entry (dab := true) hant hi ho s.win.scanDab
    rw [← hdab] at hentry
    exact ⟨u, hu, hentry.trans (congrArg some (scanEntry_fresh hs hband hskip hspan))⟩
  case scanOff =>
    intro s m
    exact ⟨fun hoff => congrArg Host.Outcome.next (if_neg (ne_true_of_eq_false hoff)),
      fun hoff => congrArg Host.Outcome.next (if_neg (ne_true_of_eq_false hoff))⟩
  case readDab =>
    intro s c ant ht hb hlen hfull
    exact congrArg Host.Outcome.next (runCmd_ok ht (bodyWinScanRead_eq (s := s.taken 0x0218 c) (kind := 1) hb (Nat.le_refl 1)
      (by rw [hlen]; rfl) hfull))
  case readFm =>
    intro s c ant ht hb hlen hfull
    exact congrArg Host.Outcome.next (runCmd_ok ht (bodyWinScanRead_eq (s := s.taken 0x0218 c) (kind := 0) hb (Nat.zero_le 1)
      (by rw [hlen]; rfl) hfull))

end Sys2Proof.Proofs
end

section
/-!
SUPPORT. What the proofs about FM and AM runners share: the updates of one runner, a runner that serves no context, and events that leave
the services alone.
-/

namespace Sys2Proof.Proofs

open Sys2Proof Sys2Proof.Machine Sys2Proof.Laws

/-! ### Updates of one runner -/

section Updates

variable (s : State) (r : Fin 32)

@[simp] theorem modFm_run_same (f : FmState → FmState) :
    (s.modFm r f).svc.run[r] = { s.svc.run[r] with fm := f s.svc.run[r].fm } := modRun_run_same s r _

theorem modFm_run_other (f : FmState → FmState) {k : Fin 32} (h : k ≠ r) : (s.modFm r f).svc.run[k] = s.svc.run[k] :=
  upd_other _ r k _ h.symm

theorem modFm_id {f : FmState → FmState} (h : f s.svc.run[r].fm = s.svc.run[r].fm) : s.modFm r f = s := by
  simp only [State.modFm, State.modRun, upd_id (v := s.svc.run) (i := r) (f := fun x => { x with fm := f x.fm }) (by rw [h])]

theorem modFm_modFm (f g : FmState → FmState) : (s.modFm r f).modFm r g = s.modFm r fun x => g (f x) := by
  simp only [State.modFm, State.modRun, upd_upd]

theorem modFm_congr {f g : FmState → FmState} (h : f s.svc.run[r].fm = g s.svc.run[r].fm) : s.modFm r f = s.modFm r g := by
  have hrun : upd s.svc.run r (fun x => { x with fm := f x.fm }) = upd s.svc.run r fun x => { x with fm := g x.fm } :=
    upd_congr (by rw [h])
  simp only [State.modFm, State.modRun, hrun]

@[simp] theorem runCount_svc (i j n : Nat) : (s.runCount i j n).svc = s.svc := rfl

end Updates

/-! ### Events -/

section Events

variable (s : State)

@[simp] theorem raise_svc (src code : Nat) (data : List Byte) : (s.raise src code data).svc = s.svc :=
  rest_svc_eq (rest_raise (Rest.refl s) src code data)

@[simp] theorem lockEvent_svc (r : Fin 32) (code : Nat) (extra : List Byte) : (s.lockEvent r code extra).svc = s.svc := raise_svc s _ _ _

@[simp] theorem piEvent_svc (r : Fin 32) (code : Nat) (pi old : BitVec 16) : (s.piEvent r code pi old).svc = s.svc := raise_svc s _ _ _

end Events

/-! ### Events and services side by side -/

section WithServices

/-- A state with other services. -/
def withSvc (v : SvcBlk) (s : State) : State := { s with svc := v }

variable (v : SvcBlk) (s : State)

theorem message_withSvc (n : Fin 16) : (withSvc v s).message n = withSvc v (s.message n) := by
  refine Eq.trans ?_ (apply_ite (withSvc v) (s.vecMasked n = true) _ _).symm
  rfl

theorem modRing_withSvc (n : Fin 32) (f : Ring → Ring) : (withSvc v s).modRing n f = withSvc v (s.modRing n f) := rfl

theorem msgDue_withSvc (n : Fin 32) : (withSvc v s).msgDue n = withSvc v (s.msgDue n) := by
  have hmsg := message_withSvc v s s.host.rings[n].vecIx
  unfold State.msgDue
  dsimp only
  refine Eq.trans ?_ (apply_ite (withSvc v) _ _ _).symm
  rw [apply_ite (withSvc v) (s.vecMasked s.host.rings[n].vecIx = true), ← modRing_withSvc, ← hmsg]
  rfl

theorem shadow_withSvc (n : Fin 32) (x : Nat) : (withSvc v s).shadow n x = withSvc v (s.shadow n x) := by
  refine Eq.trans ?_ (apply_ite (withSvc v) (s.host.shadowEn = true) _ _).symm
  rfl

/-- The message of a ring once its count calls for it (R47, R68). -/
def coalesced (n : Fin 32) (s : State) : State := if s.host.rings[n].coal ≤ s.host.rings[n].unsignalled then s.msgDue n else s

theorem writeEntry_eq (n : Fin 32) (mk : D → Bool → HostWrite) : s.writeEntry n mk =
    coalesced n ((entryPosted s n mk).shadow n (entryPosted s n mk).host.rings[n].prod) := rfl

theorem coalesced_withSvc (n : Fin 32) : coalesced n (withSvc v s) = withSvc v (coalesced n s) := by
  unfold coalesced
  rw [apply_ite (withSvc v), ← msgDue_withSvc]
  rfl

theorem writeEntry_withSvc (n : Fin 32) (mk : D → Bool → HostWrite) :
    (withSvc v s).writeEntry n mk = withSvc v (s.writeEntry n mk) := by
  rw [writeEntry_eq, writeEntry_eq, ← coalesced_withSvc, ← shadow_withSvc]
  rfl

theorem putEvent_withSvc (src code : Nat) (data : List Byte) :
    (withSvc v s).putEvent src code data = withSvc v (s.putEvent src code data) := by
  rw [putEvent_eq, putEvent_eq]
  exact writeEntry_withSvc v s.useSeq 2 fun a p => .event a p (s.mkEvent src code data)

theorem payOwed_withSvc : (withSvc v s).payOwed = withSvc v s.payOwed := by
  unfold State.payOwed
  dsimp only
  rw [apply_ite (withSvc v), ← putEvent_withSvc]
  rfl

/-- An event neither sees nor changes the services. -/
theorem raise_withSvc (src code : Nat) (data : List Byte) : (withSvc v s).raise src code data = withSvc v (s.raise src code data) := by
  unfold State.raise
  dsimp only
  rw [payOwed_withSvc, apply_ite (withSvc v), apply_ite (withSvc v), ← putEvent_withSvc]
  rfl

end WithServices

/-- An event and an update of a runner may change places. -/
theorem raise_modFm (s : State) (r : Fin 32) (f : FmState → FmState) (src code : Nat) (data : List Byte) :
    (s.raise src code data).modFm r f = (s.modFm r f).raise src code data := by
  have hswap := raise_withSvc (s.modFm r f).svc s src code data
  refine Eq.trans ?_ hswap.symm
  simp only [State.modFm, State.modRun, withSvc, raise_svc]

/-! ### A runner that serves no context -/

section Unserved

variable {s : State} {r : Fin 32}

theorem ctxsOf_congr {t : State} (h : t.svc.ctx = s.svc.ctx) : t.ctxsOf r = s.ctxsOf r := by
  simp only [State.ctxsOf, h]

theorem startReady_noCtx (h : s.ctxsOf r = []) (p : Ctx → Bool) : s.startReady r p = s := by
  simp only [State.startReady, h, List.foldl_nil]

theorem spreadCarry_zero (h : s.svc.run[r].carry = 0) : s.spreadCarry r = s := if_pos h

end Unserved

theorem isFm_of_lt {r : Fin 32} (h : r.val < 16) : isFm r = true := decide_eq_true h

theorem quotAt_zero (place : Nat) (n : Nat) : quotAt place 0 n = 0 := by
  simp [quotAt]

end Sys2Proof.Proofs
end

section
/-!
SUPPORT. Metrics, controls, lock and pilot of the FM and AM runners (R145 to R151, R164, R165): one tick by its fields, and each test on the
last ticks by what it asks of them.
-/

namespace Sys2Proof.Proofs

open Sys2Proof Sys2Proof.Machine Sys2Proof.Laws

/-! ### Means of what was measured (R164) -/

/-- A mean of measurements counts the measurements alone, and not the controls kept beside them. -/
theorem mean_congr {f g : FmState} (h : f.hist.map FmTick.m = g.hist.map FmTick.m) (r : Fin 32) (v : RunnerMetrics → Int) (unit : Nat) :
    f.mean r (fun t => v t.m) unit = g.mean r (fun t => v t.m) unit := by
  have hof (e : FmState) : e.mean r (fun t => v t.m) unit =
      if ((e.hist.map FmTick.m).take (if isFm r then 16 else 32)).isEmpty then 0
      else quotAt 164 (((e.hist.map FmTick.m).take (if isFm r then 16 else 32)).map v).sum
        (unit * ((e.hist.map FmTick.m).take (if isFm r then 16 else 32)).length) := by
    simp only [FmState.mean, ← List.map_take, List.isEmpty_map, List.length_map, List.map_map]
    rfl
  rw [hof, hof, h]

/-! ### One tick (R147, R164) -/

section Tick

variable (f : FmState) (r : Fin 32) (gap : Bool) (m : RunnerMetrics)

/-- The state whose means a tick's controls follow: the measurements are in, the controls are those of the tick before. -/
def fmMeasured : FmState := { f with hist := (⟨m, f.mute, f.corner, f.sep⟩ :: f.hist).take 100, since := f.since + 1 }

theorem tick_hist_m : (f.tick r gap m).hist.map FmTick.m = (fmMeasured f m).hist.map FmTick.m := by
  simp [FmState.tick, fmMeasured, List.map_take]

theorem tick_cnr : (f.tick r gap m).cnr r = (fmMeasured f m).cnr r :=
  congrArg Int.toNat (mean_congr (tick_hist_m f r gap m) r (fun x => (x.cnr : Int)) 1)

theorem tick_multipath : (f.tick r gap m).multipath r = (fmMeasured f m).multipath r :=
  congrArg Int.toNat (mean_congr (tick_hist_m f r gap m) r (fun x => (x.multipath : Int)) 1)

theorem tick_q : (f.tick r gap m).q = fmQ r ((f.tick r gap m).cnr r) ((f.tick r gap m).multipath r) := by
  rw [tick_cnr, tick_multipath]
  rfl

theorem tick_mute : (f.tick r gap m).mute = approach tau2 tau50 (decide (f.mute < f.muteTarget r gap ((f.tick r gap m).cnr r))) f.mute
    (f.muteTarget r gap ((f.tick r gap m).cnr r)) := by
  rw [tick_cnr]
  rfl

theorem tick_corner : (f.tick r gap m).corner = approach tau10 tau500 (decide (f.cornerTarget r (f.tick r gap m).q < f.corner)) f.corner
    (f.cornerTarget r (f.tick r gap m).q) := rfl

/-- A control that stands at its target stays there. -/
theorem approach_target (attack release : Nat) (worse : Bool) (x : Nat) : approach attack release worse x x = x := by
  simp [approach, quotAt_zero]

variable {f r gap m}

theorem tick_mute_zero (hcnr : 4 * f.sm r 0 ≤ (f.tick r false m).cnr r) (hmute : f.mute = 0) : (f.tick r false m).mute = 0 := by
  have htarget : f.muteTarget r false ((f.tick r false m).cnr r) = 0 := by
    have hle : 4 * (f.sm r 0 : Int) - (f.tick r false m).cnr r ≤ 0 := by omega
    simp only [FmState.muteTarget, Bool.false_eq_true, if_false, clampAt, if_pos hle]
  rw [tick_mute, htarget, hmute, approach_target]

theorem tick_corner_open (hq : 8 * (f.hc r 0 : Int) ≤ (f.tick r gap m).q) (hcorner : f.corner = 15000 * 65536) :
    (f.tick r gap m).corner = 15000 * 65536 := by
  have htarget : f.cornerTarget r (f.tick r gap m).q = 15000 * 65536 := by
    have hle : 8 * (f.hc r 0 : Int) - (f.tick r gap m).q ≤ 0 := by omega
    simp only [FmState.cornerTarget, if_pos hle]
  rw [tick_corner, htarget, hcorner, approach_target]

theorem isMono_iff : f.isMono r = true ↔ 16 ≤ r.val ∨ f.pilot = false ∨ f.setting r 1 = 1 := by
  simp [FmState.isMono, isFm, or_assoc]

theorem tick_sep_mono (h : f.isMono r = true) : (f.tick r gap m).sep = 0 := by
  have hnext (t : Nat) : (f.sepNext r t).1 = 0 := by simp only [FmState.sepNext, h, if_true]
  exact hnext _

end Tick

/-! ### Settings that wait (R165) -/

section Settings

variable {s : State} {r : Fin 32}

theorem and_not_zero (x : BitVec 4) : x &&& ~~~0 = x := BitVec.and_allOnes

/-- Synchronisation of no stream is lost. -/
theorem loseRdsSync_none (s : State) (r : Fin 32) : s.loseRdsSync r 0 = s := by
  have hsame : s.modFm r (fun f => { f with rds := { f.rds with
      sync := f.rds.sync &&& ~~~0
      seen := Vector.ofFn fun i => if (0 : BitVec 4).getLsbD i.val then [] else f.rds.seen[i]
      group := Vector.ofFn fun i => if (0 : BitVec 4).getLsbD i.val then [] else f.rds.group[i] } }) = s := by
    refine modFm_id s r ?_
    rw [and_not_zero]
    simp
  simp only [State.loseRdsSync, hsame]
  simp

theorem adoptSettings_none (h : s.svc.run[r].fm.next = none) : s.adoptSettings r = s := by
  simp only [State.adoptSettings, h]

/-- AM settings drop no block synchronisation. -/
theorem adoptSettings_am {l : List Byte} (hr : 16 ≤ r.val) (h : s.svc.run[r].fm.next = some l) :
    s.adoptSettings r = s.modFm r fun f => { f with cfg := l, next := none } := by
  have hfm : isFm r = false := decide_eq_false (by omega)
  simp only [State.adoptSettings, h, hfm, if_true, loseRdsSync_none]

end Settings

/-! ### RUNNER_METRIC_TICK -/

section MetricTick

variable {s : State} {rn : Fin 32} {m : RunnerMetrics}

theorem metricTick_unserved (hlt : rn.val < 24) (hact : s.svc.run[rn].active = true) (hnext : s.svc.run[rn].fm.next = none)
    (hctx : s.ctxsOf rn = []) (hcarry : s.svc.run[rn].carry = 0) (hgap : s.svc.run[rn].gap = none) :
    exec (.runnerMetricTick rn m) s = .next (s.modFm rn fun f => f.tick rn false m) := by
  refine congrArg Host.Outcome.next ?_
  have hcarry' : (s.modFm rn fun f => f.tick rn false m).svc.run[rn].carry = 0 := by rw [modFm_run_same]; exact hcarry
  have hctx' : (s.modFm rn fun f => f.tick rn false m).ctxsOf rn = [] := hctx
  simp only [if_pos hlt, adoptSettings_none hnext, hact, if_true, hgap, Option.isSome_none, spreadCarry_zero hcarry',
    startReady_noCtx hctx']

/-- A tick of a runner that serves no context, field by field. -/
theorem metricTick_spec (hlt : rn.val < 24) (hact : s.svc.run[rn].active = true) (hnext : s.svc.run[rn].fm.next = none)
    (hctx : s.ctxsOf rn = []) (hcarry : s.svc.run[rn].carry = 0) (hgap : s.svc.run[rn].gap = none) :
    ∃ u : State, exec (.runnerMetricTick rn m) s = .next u ∧ u.svc.run[rn].fm.hist.head?.map FmTick.m = some m ∧
      u.svc.run[rn].fm.hist.tail = s.svc.run[rn].fm.hist.take 99 ∧ u.svc.run[rn].fm.since = s.svc.run[rn].fm.since + 1 ∧
      u.svc.run[rn].fm.q = 2 * (u.svc.run[rn].fm.cnr rn : Int) - (if rn.val < 16 then min (u.svc.run[rn].fm.multipath rn) 128 else 0) ∧
      (4 * s.svc.run[rn].fm.sm rn 0 ≤ u.svc.run[rn].fm.cnr rn → s.svc.run[rn].fm.mute = 0 → u.svc.run[rn].fm.mute = 0) ∧
      (8 * (s.svc.run[rn].fm.hc rn 0 : Int) ≤ u.svc.run[rn].fm.q → s.svc.run[rn].fm.corner = 15000 * 65536 →
        u.svc.run[rn].fm.corner = 15000 * 65536) ∧
      (16 ≤ rn.val ∨ s.svc.run[rn].fm.pilot = false ∨ s.svc.run[rn].fm.setting rn 1 = 1 → u.svc.run[rn].fm.sep = 0) ∧
      u.svc.run[rn].fm.rds = s.svc.run[rn].fm.rds ∧
      (∀ r : Fin 32, r ≠ rn → u.svc.run[r] = s.svc.run[r]) ∧ u.svc.ctx = s.svc.ctx ∧ u = { s with svc := u.svc } := by
  refine ⟨_, metricTick_unserved hlt hact hnext hctx hcarry hgap, ?_⟩
  simp only [modFm_run_same]
  refine ⟨rfl, rfl, rfl, ?_, tick_mute_zero, tick_corner_open, fun h => tick_sep_mono (isMono_iff.mpr h), rfl,
    fun r hr => modFm_run_other s rn _ hr, rfl, rfl⟩
  rw [tick_q, fmQ]
  by_cases hfm : rn.val < 16
  · rw [isFm_of_lt hfm, if_pos rfl, if_pos hfm]
  · have ham : isFm rn = false := decide_eq_false hfm
    rw [ham, if_neg Bool.false_ne_true, if_neg hfm]
    simp

theorem metricTick_am_idle {l : List Byte} (hlo : 16 ≤ rn.val) (hhi : rn.val < 24) (hact : s.svc.run[rn].active = false)
    (hnext : s.svc.run[rn].fm.next = some l) :
    exec (.runnerMetricTick rn m) s = .next (s.modFm rn fun f => { f with cfg := l, next := none }) := by
  refine congrArg Host.Outcome.next ?_
  simp only [if_pos hhi, adoptSettings_am hlo hnext, modFm_run_same, hact, Bool.false_eq_true, if_false]

theorem metricTick_none (h : 24 ≤ rn.val ∨ (s.svc.run[rn].active = false ∧ s.svc.run[rn].fm.next = none)) :
    exec (.runnerMetricTick rn m) s = .next s := by
  refine congrArg Host.Outcome.next ?_
  obtain hge | ⟨hact, hnext⟩ := h
  · exact if_neg (by omega)
  · simp only [adoptSettings_none hnext, hact, Bool.false_eq_true, if_false, ite_self]

end MetricTick

/-! ### Tests on the last ticks -/

section LastTicks

variable {f : FmState} {r : Fin 32} {n : Nat} {p : RunnerMetrics → Bool}

theorem lastTicks_iff : f.lastTicks n p = true ↔ n ≤ f.hist.length ∧ ∀ x ∈ f.hist.take n, p x.m = true := by
  simp only [FmState.lastTicks, Bool.and_eq_true, decide_eq_true_eq, List.all_eq_true]

theorem lastTicks_short (h : f.hist.length < n) : f.lastTicks n p = false :=
  Bool.eq_false_iff.mpr fun ht => absurd (lastTicks_iff.mp ht).1 (by omega)

/-- Lock may be gained after so many ticks, all of them good (R150, R151). -/
theorem mayLock_iff : f.mayLock r = true ↔ (if r.val < 16 then 5 else 10) ≤ f.since ∧ (if r.val < 16 then 5 else 10) ≤ f.hist.length ∧
    ∀ x ∈ f.hist.take (if r.val < 16 then 5 else 10), f.lockCnr r ≤ x.m.cnr ∧ (r.val < 16 → x.m.offset.natAbs ≤ 3000) := by
  simp only [FmState.mayLock, Bool.and_eq_true, decide_eq_true_eq, lastTicks_iff, isFm, Bool.or_eq_true, Bool.not_eq_true',
    decide_eq_false_iff_not, imp_iff_not_or]

/-- A last tick near the carrier speaks against a drift. -/
theorem drifted_near (h : ∃ x ∈ f.hist.take 1, x.m.offset.natAbs ≤ 200) : f.drifted r = false := by
  obtain ⟨x, hx, hle⟩ := h
  rw [Bool.eq_false_iff]
  intro hd
  unfold FmState.drifted at hd
  split at hd
  · have hfar := (lastTicks_iff.mp hd).2 x (List.take_subset_take_left _ (by decide) hx)
    simp only [decide_eq_true_eq] at hfar
    omega
  · have hfar := (lastTicks_iff.mp hd).2 x hx
    simp only [decide_eq_true_eq] at hfar
    omega

theorem mayLose_weak (hlen : 100 ≤ f.hist.length) (h : ∀ x ∈ f.hist.take 100, (x.m.cnr : Int) < f.lockCnr r - 8) : f.mayLose r = true := by
  rw [FmState.mayLose, Bool.or_eq_true, lastTicks_iff]
  exact .inr ⟨hlen, fun x hx => decide_eq_true (h x hx)⟩

theorem mayLose_drifted (h : f.drifted r = true) : f.mayLose r = true := by
  rw [FmState.mayLose, h, Bool.true_or]

theorem mayLose_nil (h : f.hist = []) : f.mayLose r = false := by
  have hshort (k : Nat) (hk : 0 < k) (p : RunnerMetrics → Bool) : f.lastTicks k p = false := lastTicks_short (by rw [h]; exact hk)
  simp [FmState.mayLose, FmState.drifted, hshort]

end LastTicks

/-! ### Lock -/

section Lock

variable {s : State} {rn : Fin 32}

theorem lockGained_unserved (hlt : rn.val < 24) (hact : s.svc.run[rn].active = true) (hlock : s.svc.run[rn].lock = false)
    (hmay : s.svc.run[rn].fm.mayLock rn = true) (hctx : s.ctxsOf rn = []) : exec (.runnerLockGained rn) s =
      .next (((s.modRun rn fun x => { x with lock := true }).runCount rn.val 16 1).raise 34 0 [byte rn.val]) := by
  refine congrArg Host.Outcome.next ((if_pos ⟨hlt, hact, hlock, hmay⟩).trans (startReady_noCtx ?_ _))
  rw [← hctx]
  exact ctxsOf_congr (by rw [lockEvent_svc]; rfl)

theorem lockGained_none (h : 24 ≤ rn.val ∨ s.svc.run[rn].lock = true ∨ s.svc.run[rn].fm.mayLock rn = false) :
    exec (.runnerLockGained rn) s = .next s := by
  refine congrArg Host.Outcome.next (if_neg fun ⟨hlt, _, hlock, hmay⟩ => ?_)
  obtain hge | hon | hnot := h
  · omega
  · exact absurd hlock (ne_false_of_eq_true hon)
  · exact absurd hmay (ne_true_of_eq_false hnot)

/-- Lock that ends: a carrier that has drifted away is acquired afresh, with CODE 2. -/
theorem lockLost_ends (hlt : rn.val < 24) (hlock : s.svc.run[rn].lock = true) (hmay : s.svc.run[rn].fm.mayLose rn = true) :
    exec (.runnerLockLost rn) s = .next (if s.svc.run[rn].fm.drifted rn then
      (((((s.modRun rn fun x => { x with lock := false }).runCount rn.val 17 1).raise 34 1 [byte rn.val]).modFm rn
        fun f => { f with since := 0 }).raise 34 2 [byte rn.val])
      else ((((s.modRun rn fun x => { x with lock := false }).runCount rn.val 17 1).raise 34 1 [byte rn.val]).modFm rn
        fun f => { f with since := 0 })) := by
  refine congrArg Host.Outcome.next ((if_pos ⟨hlt, hlock, hmay⟩).trans ?_)
  simp only [State.loseLock, hlock, if_true]
  rfl

theorem lockLost_weak (hlt : rn.val < 24) (hlock : s.svc.run[rn].lock = true) (hlen : 100 ≤ s.svc.run[rn].fm.hist.length)
    (hcnr : ∀ x ∈ s.svc.run[rn].fm.hist.take 100, (x.m.cnr : Int) < s.svc.run[rn].fm.lockCnr rn - 8)
    (hnear : ∃ x ∈ s.svc.run[rn].fm.hist.take 1, x.m.offset.natAbs ≤ 200) : exec (.runnerLockLost rn) s =
      .next ((((s.modRun rn fun x => { x with lock := false }).runCount rn.val 17 1).raise 34 1 [byte rn.val]).modFm rn
        fun f => { f with since := 0 }) := by
  rw [lockLost_ends hlt hlock (mayLose_weak hlen hcnr), drifted_near hnear, if_neg Bool.false_ne_true]

theorem lockLost_drifted (hlt : rn.val < 24) (hlock : s.svc.run[rn].lock = true) (hd : s.svc.run[rn].fm.drifted rn = true) :
    exec (.runnerLockLost rn) s =
      .next (((((s.modRun rn fun x => { x with lock := false }).runCount rn.val 17 1).raise 34 1 [byte rn.val]).modFm rn
        fun f => { f with since := 0 }).raise 34 2 [byte rn.val]) := by
  rw [lockLost_ends hlt hlock (mayLose_drifted hd), if_pos hd]

theorem lockLost_none (h : s.svc.run[rn].lock = false ∨ s.svc.run[rn].fm.hist = []) : exec (.runnerLockLost rn) s = .next s := by
  refine congrArg Host.Outcome.next (if_neg fun ⟨_, hlock, hmay⟩ => ?_)
  obtain hoff | hnil := h
  · exact absurd hlock (ne_true_of_eq_false hoff)
  · exact absurd hmay (ne_true_of_eq_false (mayLose_nil hnil))

end Lock

/-! ### Pilot (R146) -/

section Pilot

variable {s : State} {rn : Fin 32}

theorem pilotPresent_appears (hrn : rn.val < 16) (hact : s.svc.run[rn].active = true) (hp : s.svc.run[rn].fm.pilot = false)
    (hlen : 40 ≤ s.svc.run[rn].fm.hist.length) (h : ∀ x ∈ s.svc.run[rn].fm.hist.take 40, 40 ≤ x.m.pilot) : exec (.pilotPresent rn) s =
      .next ((s.modFm rn fun f => { f with pilot := true, pilotRamp := some 0 }).raise 34 3 [byte rn.val]) :=
  congrArg Host.Outcome.next
    (if_pos ⟨isFm_of_lt hrn, hact, hp, lastTicks_iff.mpr ⟨hlen, fun x hx => decide_eq_true (h x hx)⟩⟩)

theorem pilotLost_goes (hrn : rn.val < 16) (hp : s.svc.run[rn].fm.pilot = true) (hlen : 100 ≤ s.svc.run[rn].fm.hist.length)
    (h : ∀ x ∈ s.svc.run[rn].fm.hist.take 100, x.m.pilot < 20) : exec (.pilotLost rn) s =
      .next ((s.modFm rn fun f => { f with pilot := false, pilotRamp := none, sep := 0 }).raise 34 4 [byte rn.val]) :=
  congrArg Host.Outcome.next (if_pos ⟨isFm_of_lt hrn, hp, lastTicks_iff.mpr ⟨hlen, fun x hx => decide_eq_true (h x hx)⟩⟩)

theorem pilotPresent_none (h : s.svc.run[rn].fm.pilot = true ∨ s.svc.run[rn].fm.hist.length < 40) :
    exec (.pilotPresent rn) s = .next s := by
  refine congrArg Host.Outcome.next (if_neg fun ⟨_, _, hp, hticks⟩ => ?_)
  obtain hon | hshort := h
  · exact absurd hp (ne_false_of_eq_true hon)
  · exact absurd hticks (ne_true_of_eq_false (lastTicks_short hshort))

theorem pilotLost_none (h : s.svc.run[rn].fm.pilot = false ∨ s.svc.run[rn].fm.hist.length < 100) : exec (.pilotLost rn) s = .next s := by
  refine congrArg Host.Outcome.next (if_neg fun ⟨_, hp, hticks⟩ => ?_)
  obtain hoff | hshort := h
  · exact absurd hp (ne_true_of_eq_false hoff)
  · exact absurd hticks (ne_true_of_eq_false (lastTicks_short hshort))

end Pilot

end Sys2Proof.Proofs
end

section
/-!
SUPPORT. Audio units of the FM and AM runners (R145 to R150): 48 frames as the bytes of a unit and back, and the unit of a context without
marks, shadow or follower from its runner to its stream.
-/

namespace Sys2Proof.Proofs

open Sys2Proof Sys2Proof.Machine Sys2Proof.Laws

/-! ### The bytes of a unit (R148) -/

section Bytes

/-- Pieces of one length are dropped one by one. -/
theorem drop_flatMap {α β : Type} {g : α → List β} {n : Nat} (hg : ∀ x, (g x).length = n) (l : List α) (i : Nat) :
    (l.flatMap g).drop (n * i) = (l.drop i).flatMap g := by
  induction i generalizing l with
  | zero => rfl
  | succ i ih =>
    cases l with
    | nil => simp
    | cons x l =>
      have hpast : n * (i + 1) = (g x).length + n * i := by rw [hg, Nat.mul_succ, Nat.add_comm]
      rw [List.flatMap_cons, hpast, List.drop_length_add_append, ih, List.drop_succ_cons]

theorem padTo_append {n : Nat} {a : List Byte} (h : a.length = n) (b : List Byte) : padTo n (a ++ b) = a := by
  rw [padTo, List.append_assoc, List.take_left' h]

/-- A word of a unit reads back as it was written. -/
theorem word_leBytes (w : W) : BitVec.ofNat 32 (leNat (leBytes 4 w.toNat)) = w := by
  have hlt := w.isLt
  refine BitVec.eq_of_toNat_eq ?_
  simp only [leBytes, leNat, BitVec.toNat_ofNat]
  omega

theorem fadeInWord_done {n : Nat} (h : 1440 ≤ n) (w : W) : fadeInWord n w = w := if_pos h

/-- The bytes of a unit past its fade-in hold its frames. -/
theorem unitFrames_unitBytes (frames : List (W × W)) :
    unitFrames (unitBytes 1440 frames) = (List.range 48).map fun i => frames.getD i (0, 0) := by
  refine List.map_congr_left fun i hi => ?_
  have hi48 : i < (List.range 48).length := by rwa [List.length_range, ← List.mem_range]
  obtain ⟨after, hafter⟩ : ∃ after, (unitBytes 1440 frames).drop (8 * i) =
      leBytes 4 (frames.getD i (0, 0)).1.toNat ++ (leBytes 4 (frames.getD i (0, 0)).2.toNat ++ after) := by
    rw [unitBytes, drop_flatMap (n := 8) (fun x => by simp), List.drop_eq_getElem_cons hi48, List.getElem_range, List.flatMap_cons]
    simp only [fadeInWord_done (Nat.le_add_right _ _), List.append_assoc, List.append_cancel_left_eq, exists_eq']
  have hleft : slice (unitBytes 1440 frames) (8 * i) 4 = leBytes 4 (frames.getD i (0, 0)).1.toNat := by
    rw [slice, hafter, padTo_append (leBytes_length 4 _)]
  have hright : slice (unitBytes 1440 frames) (8 * i + 4) 4 = leBytes 4 (frames.getD i (0, 0)).2.toNat := by
    rw [slice, ← List.drop_drop, hafter, List.drop_left' (leBytes_length 4 _), padTo_append (leBytes_length 4 _)]
  rw [hleft, hright, word_leBytes, word_leBytes]

end Bytes

/-! ### From the context to its stream -/

section Stream

variable {s : State} {c : Fin 256} {k : Fin 32}

theorem fill_frames (t : Stream) (payload : List Byte) : (t.fill payload).frames = t.frames ++ unitFrames payload := by
  unfold Stream.fill
  dsimp only
  split <;> rfl

theorem streamOf_route {x : Ctx} (hkind : x.kind = 0) (hroute : x.route.toNat = k.val) : x.streamOf = some k := by
  rw [Ctx.streamOf, if_pos hkind, hroute, ix, dif_pos k.isLt]

/-- What a unit past the fade-in makes of the context that sends it. -/
def unitSent (x : Ctx) : Ctx :=
  { x with delivered := x.delivered + 1, seq := x.seq + 1, lost := 0, discDue := false, fadeIn := min 1440 (x.fadeIn + 48) }

theorem unitSent_steady {x : Ctx} (hdisc : x.discDue = false) (hlost : x.lost = 0) (hfade : x.fadeIn = 1440) (ts : D) :
    unitSent { x with unitTs := ts } = { x with delivered := x.delivered + 1, seq := x.seq + 1, unitTs := ts } := by
  simp [unitSent, ← hdisc, ← hlost, hfade]

theorem modCtx_congr {f g : Ctx → Ctx} (h : f s.svc.ctx[c] = g s.svc.ctx[c]) : s.modCtx c f = s.modCtx c g := by
  simp only [State.modCtx, upd_congr h]

theorem audioUnit_eq (hk : s.svc.ctx[c].streamOf = some k) (frames : List (W × W)) : s.audioUnit c frames =
    (s.modCtx c unitSent).modStream k fun t => t.fill (unitBytes s.svc.ctx[c].fadeIn frames) := by
  simp only [State.audioUnit, State.audioToStream, hk]
  exact congrArg (State.modStream · k _) (modCtx_modCtx s c _ _)

section Plain

variable (hkind : s.svc.ctx[c].kind = 0) (hdisc : s.svc.ctx[c].discDue = false) (hlost : s.svc.ctx[c].lost = 0)
  (hshadow : s.svc.ctx[c].shadowOf = none) (hfollow : s.svc.ctx[c].follow = false) (hfade : s.svc.ctx[c].fadeIn = 1440)
  (hb : s.audioBlocked c = false) (hroute : s.svc.ctx[c].route.toNat = k.val)

include hdisc hlost hshadow hfollow hb in
/-- A context without marks that neither follows nor shadows sends its 48 frames on. -/
theorem audioOut_plain (frames : List (Int × Int)) (ts : D) :
    s.audioOut c false frames ts = (s.modCtx c fun x => { x with unitTs := ts }).audioUnit c
      (((List.range 48).map fun i => frames.getD i (0, 0)).map frameWords) := by
  have hmarks : s.audioMarks c = s := by
    simp only [State.audioMarks, hdisc, hlost, Bool.false_eq_true, ne_eq, not_true_eq_false, or_self, if_false]
  simp only [State.audioOut, hb, hmarks, hshadow, hfollow, Option.isSome_none, Bool.false_eq_true, if_false]

include hkind hdisc hlost hshadow hfollow hfade hb hroute in
/-- Past its fade-in they reach the stream that its ROUTE names. -/
theorem audioOut_stream (frames : List (Int × Int)) (ts : D) : s.audioOut c false frames ts =
    (s.modCtx c fun x => { x with delivered := x.delivered + 1, seq := x.seq + 1, unitTs := ts }).modStream k fun t =>
      t.fill (unitBytes 1440 (((List.range 48).map fun i => frames.getD i (0, 0)).map frameWords)) := by
  have hat : (s.modCtx c fun x => { x with unitTs := ts }).svc.ctx[c] = { s.svc.ctx[c] with unitTs := ts } := upd_same _ _ _
  have hstream : (s.modCtx c fun x => { x with unitTs := ts }).svc.ctx[c].streamOf = some k := by
    rw [hat]
    exact streamOf_route (x := { s.svc.ctx[c] with unitTs := ts }) hkind hroute
  have hsent : s.modCtx c (fun x => unitSent { x with unitTs := ts }) =
      s.modCtx c fun x => { x with delivered := x.delivered + 1, seq := x.seq + 1, unitTs := ts } :=
    modCtx_congr (unitSent_steady hdisc hlost hfade ts)
  rw [audioOut_plain hdisc hlost hshadow hfollow hb, audioUnit_eq hstream, modCtx_modCtx, hsent, hat, hfade]

end Plain

end Stream

/-! ### AUDIO_UNIT -/

section AudioUnit

variable {s : State} {ctx : Fin 256} {rn : Fin 32} {au : AudioObs} {k : Fin 32}

theorem takesUnit_running (hst : s.svc.ctx[ctx].st = .running) (hrn : s.svc.ctx[ctx].runner = rn) : s.takesUnit rn ctx = true := by
  simp only [State.takesUnit, hst, hrn, decide_true, Bool.true_or, Bool.and_self]

theorem st_of_takesUnit (h : s.takesUnit rn ctx = true) : s.svc.ctx[ctx].st = .running ∨ s.svc.ctx[ctx].st = .acquiring := by
  simp only [State.takesUnit, Bool.and_eq_true, Bool.or_eq_true, decide_eq_true_eq] at h
  exact h.2.imp_right And.left

theorem audioUnit_fm (hkind : s.svc.ctx[ctx].kind = 0) (hst : s.svc.ctx[ctx].st = .running) (hrn : s.svc.ctx[ctx].runner = rn)
    (hlt : rn.val < 24) (hact : s.svc.run[rn].active = true) : exec (.audioUnit ctx au) s = .next (s.fmUnit ctx au) := by
  subst hrn
  refine congrArg Host.Outcome.next ((if_pos ⟨hkind, hact, takesUnit_running hst rfl, .inr (.inl hst)⟩).trans ?_)
  simp only [hst, reduceCtorEq, if_false, if_pos hlt]

/-- The filters run, and the frames that pass them leave for the stream. -/
theorem fmUnit_eq (hrn : s.svc.ctx[ctx].runner = rn) (hcarry : s.svc.run[rn].carry = 0) : s.fmUnit ctx au =
    (s.modFm rn fun _ => (s.svc.run[rn].fm.audio rn au.frames).2).audioOut ctx false (s.svc.run[rn].fm.audio rn au.frames).1
      (s.audioStamp rn au.at_) := by
  subst hrn
  simp only [State.fmUnit, spreadCarry_zero hcarry]

/-- A unit of a RUNNING context without marks. -/
theorem audioUnit_spec (hkind : s.svc.ctx[ctx].kind = 0) (hst : s.svc.ctx[ctx].st = .running) (hrn : s.svc.ctx[ctx].runner = rn)
    (hlt : rn.val < 24) (hact : s.svc.run[rn].active = true) (hcarry : s.svc.run[rn].carry = 0)
    (hdisc : s.svc.ctx[ctx].discDue = false) (hlost : s.svc.ctx[ctx].lost = 0) (hshadow : s.svc.ctx[ctx].shadowOf = none)
    (hfollow : s.svc.ctx[ctx].follow = false) (hfade : s.svc.ctx[ctx].fadeIn = 1440) (hb : s.audioBlocked ctx = false)
    (hroute : s.svc.ctx[ctx].route.toNat = k.val) :
    ∃ u : State, exec (.audioUnit ctx au) s = .next u ∧ u.svc = ((s.modCtx ctx fun x => { x with
        delivered := x.delivered + 1, seq := x.seq + 1, unitTs := s.audioStamp rn au.at_ }).modFm rn
          fun f => (f.audio rn au.frames).2).svc ∧
      u.aud.streams[k].frames = s.aud.streams[k].frames ++ (List.range 48).map (fun i =>
        frameWords (((s.svc.run[rn].fm.audio rn au.frames).1).getD i (0, 0))) ∧
      (∀ j : Fin 32, j ≠ k → u.aud.streams[j] = s.aud.streams[j]) ∧
      u = { s with svc := u.svc, aud := { s.aud with streams := u.aud.streams } } := by
  have hfilt : (s.modFm rn fun _ => (s.svc.run[rn].fm.audio rn au.frames).2) = s.modFm rn fun f => (f.audio rn au.frames).2 :=
    modFm_congr s rn rfl
  have hout := audioOut_stream (s := s.modFm rn fun f => (f.audio rn au.frames).2) hkind hdisc hlost hshadow hfollow hfade hb hroute
    (s.svc.run[rn].fm.audio rn au.frames).1 (s.audioStamp rn au.at_)
  refine ⟨_, (audioUnit_fm hkind hst hrn hlt hact).trans (congrArg Host.Outcome.next ((fmUnit_eq hrn hcarry).trans
    ((congrArg (State.audioOut · ctx false _ _) hfilt).trans hout))), rfl, ?_, fun j hj => upd_other _ _ _ _ hj.symm, rfl⟩
  rw [modStream_aud, upd_same, fill_frames, unitFrames_unitBytes]
  refine congrArg (s.aud.streams[k].frames ++ ·) (List.map_congr_left fun i hi => ?_)
  have hi48 : i < 48 := List.mem_range.mp hi
  simp [hi48]

/-- A context that takes no unit of an FM or AM runner. -/
theorem audioUnit_none (h : s.svc.ctx[ctx].kind ≠ 0 ∨ s.svc.ctx[ctx].st = .free ∨ s.svc.ctx[ctx].st = .closing) :
    exec (.audioUnit ctx au) s = .next s := by
  refine congrArg Host.Outcome.next (if_neg fun ⟨hkind, _, htakes, _⟩ => ?_)
  obtain hne | hfree | hclosing := h
  · exact hne hkind
  · simpa only [hfree, reduceCtorEq, or_self] using st_of_takesUnit htakes
  · simpa only [hclosing, reduceCtorEq, or_self] using st_of_takesUnit htakes

end AudioUnit

/-! ### Mono (R146, R150) -/

section Mono

variable {f : FmState} {r : Fin 32}

theorem blendPair_zero (p : Int × Int) : (blendPair 0 p).1 = (blendPair 0 p).2 := by
  simp [blendPair]

/-- Without separation both channels of a runner carry the same. -/
theorem audio_mono (h : f.isMono r = true) (hfilt : f.filt.1 = f.filt.2) (l : List (Int × Int)) : ∀ x ∈ (f.audio r l).1, x.1 = x.2 := by
  intro x hx
  obtain ⟨i, -, rfl⟩ := List.mem_map.mp hx
  cases isFm r with
  | false => simp only [Bool.false_eq_true, if_false]
  | true =>
    have hsame : (l.map (blendPair 0)).map Prod.fst = (l.map (blendPair 0)).map Prod.snd := by
      simp only [List.map_map]
      exact List.map_congr_left fun p _ => blendPair_zero p
    simp only [h, if_true, hsame, hfilt]

end Mono

end Sys2Proof.Proofs
end

section
/-!
SUPPORT. RDS blocks of the FM runners (R153 to R158): the PI of stream 0, synchronisation gained and lost, and a group that is complete.
-/

namespace Sys2Proof.Proofs

open Sys2Proof Sys2Proof.Machine Sys2Proof.Laws

/-! ### Updates of the RDS state -/

section Updates

variable (s : State) (r : Fin 32)

@[simp] theorem modRds_run_same (g : RdsState → RdsState) : (s.modRds r g).svc.run[r] =
    { s.svc.run[r] with fm := { s.svc.run[r].fm with rds := g s.svc.run[r].fm.rds } } := modFm_run_same s r _

theorem modRds_modRds (f g : RdsState → RdsState) : (s.modRds r f).modRds r g = s.modRds r fun d => g (f d) := modFm_modFm s r _ _

theorem modRds_congr {f g : RdsState → RdsState} (h : f s.svc.run[r].fm.rds = g s.svc.run[r].fm.rds) : s.modRds r f = s.modRds r g :=
  modFm_congr s r (by rw [h])

theorem modRds_id : s.modRds r id = s := modFm_id s r rfl

theorem runnersOnly_modRds {t : State} (h : RunnersOnly s t) (g : RdsState → RdsState) : RunnersOnly s (t.modRds r g) := h

theorem runnersOnly_rdsCount {t : State} (h : RunnersOnly s t) (k : Fin 4) (status : Nat) : RunnersOnly s (t.rdsCount r k status) := h

end Updates

theorem runnersOnly_piEvent {s t : State} (h : RunnersOnly s t) (r : Fin 32) (code : Nat) (pi old : BitVec 16) :
    RunnersOnly s (t.piEvent r code pi old) := runnersOnly_trans h (runnersOnly_of_rest (rest_raise (Rest.refl t) _ _ _))

/-- What the agreement says of a state that changed its runners, its counters and what the host is told. -/
theorem runnersOnly_eq {s t : State} (h : RunnersOnly s t) : t = { s with svc := t.svc, tlm := t.tlm, host := t.host, evt := t.evt } :=
  servicesOnly_eq (servicesOnly_of_runners h)

/-! ### The PI of stream 0 (R156) -/

section Pi

variable {s : State} {r : Fin 32} {pi p : BitVec 16}

theorem probeFound_noProbes (h : s.svc.run[r].fm.probes = []) (confirmed : Bool) : s.probeFound r confirmed = s := by
  simp only [State.probeFound, h]

/-- The PI is provisional. -/
def rdsProvisional (pi : BitVec 16) (d : RdsState) : RdsState := { d with prov := some pi }

/-- Without a PI a zero-syndrome block gives the provisional one. -/
theorem rdsPi_first (hpi : s.svc.run[r].fm.rds.pi = none) (hprov : s.svc.run[r].fm.rds.prov = none)
    (hprobes : s.svc.run[r].fm.probes = []) :
    s.rdsPi r pi 0 = (s.modRds r (rdsProvisional pi)).piEvent r 0 pi 0 := by
  simp only [State.rdsPi, hpi, hprov, if_true]
  exact probeFound_noProbes (by rw [piEvent_svc, modRds_run_same]; exact hprobes) false

/-- A second block with the provisional PI confirms it; another one changes nothing. -/
theorem rdsPi_second (hpi : s.svc.run[r].fm.rds.pi = none) (hprov : s.svc.run[r].fm.rds.prov = some p)
    (hprobes : s.svc.run[r].fm.probes = []) : s.rdsPi r pi 0 =
      if pi = p then (s.modRds r fun d => { d with pi := some pi }).piEvent r 1 pi 0 else s := by
  simp only [State.rdsPi, hpi, hprov, Nat.zero_le, true_and]
  rw [probeFound_noProbes (by rw [piEvent_svc, modRds_run_same]; exact hprobes)]

theorem piWithdrawn_spec (hpi : s.svc.run[r].fm.rds.pi = none) (hprov : s.svc.run[r].fm.rds.prov = some p) :
    exec (.piWithdrawn r) s = .next ((s.modFm r fun f => { f with rds := { f.rds with prov := none } }).raise 35 3
      ([byte r.val, 0, 0, 0] ++ leBytes 2 p.toNat ++ [0, 0])) := by
  change execPiWithdrawn r s = _
  simp only [execPiWithdrawn, hpi, hprov]
  rfl

theorem piWithdrawn_none (h : s.svc.run[r].fm.rds.pi ≠ none ∨ s.svc.run[r].fm.rds.prov = none) : exec (.piWithdrawn r) s = .next s := by
  change execPiWithdrawn r s = _
  unfold execPiWithdrawn
  split
  · next hpi hprov =>
    obtain hne | hnone := h
    · exact absurd hpi hne
    · exact absurd (hprov.symm.trans hnone) nofun
  · rfl

end Pi

/-! ### Blocks out of synchronisation (R154) -/

section Seen

variable {s : State} {r : Fin 32} {k : Fin 4} {o : RdsObs} {b : RdsOffset × BitVec 16 × Nat} {off : RdsOffset}

theorem rdsBlock_on (hr : r.val < 16) (hact : s.svc.run[r].active = true) (hon : s.svc.run[r].fm.streamOn r k = true) :
    exec (.rdsBlock r k o) s = .next (s.rdsBlock r k o) :=
  congrArg Host.Outcome.next (if_pos ⟨isFm_of_lt hr, hact, hon⟩)

theorem rdsBlock_inactive (hact : s.svc.run[r].active = false) : exec (.rdsBlock r k o) s = .next s :=
  congrArg Host.Outcome.next (if_neg fun ⟨_, h, _⟩ => absurd h (ne_true_of_eq_false hact))

/-- A zero-syndrome block is counted and read for its PI; unless that ends a check, it may give synchronisation. -/
theorem rdsBlock_zero (hsync : s.svc.run[r].fm.rds.sync.getLsbD k.val = false)
    (hz : zeroOffset (s.svc.run[r].fm.rbds r) o.bits = some off) {t : State}
    (ht : (s.rdsCount r k 0).rdsPiOf r k (off, infoOf o.bits, 0) = t)
    (hprobes : t.svc.run[r].fm.probes.length = s.svc.run[r].fm.probes.length) :
    s.rdsBlock r k o = t.rdsSeen r k o (off, infoOf o.bits, 0) := by
  simp only [State.rdsBlock, hsync, Bool.false_eq_true, if_false, hz, ht, hprobes, ne_eq, not_true_eq_false]

theorem rdsPiOf_other (hk : k ≠ 0) : s.rdsPiOf r k b = s := if_neg fun h => hk h.1

theorem rdsPiOf_A (pi : BitVec 16) (status : Nat) : s.rdsPiOf r 0 (.A, pi, status) = s.rdsPi r pi status := if_pos ⟨rfl, .inl rfl⟩

/-- A block is kept for those that may follow it. -/
def rdsKept (k : Fin 4) (o : RdsObs) (b : RdsOffset × BitVec 16 × Nat) (d : RdsState) : RdsState :=
  { d with seen := upd d.seen k fun l => l ++ [(o.pos, b.1, b.2.1)] }

theorem rdsKept_provisional {d : RdsState} (h : d.seen[0] = []) (pi : BitVec 16) (st : Nat) : rdsKept 0 o (.A, pi, st) (rdsProvisional pi d) =
    { d with prov := some pi, seen := d.seen.set 0 [(o.pos, .A, pi)] } := by
  have hseen : upd d.seen 0 (fun l => l ++ [(o.pos, RdsOffset.A, pi)]) = d.seen.set 0 [(o.pos, .A, pi)] :=
    congrArg (fun l => d.seen.set 0 (l ++ [(o.pos, RdsOffset.A, pi)])) h
  rw [← hseen]
  rfl

/-- The first block of a stream is kept. -/
theorem rdsSeen_first (h : s.svc.run[r].fm.rds.seen[k] = []) : s.rdsSeen r k o b = s.modRds r (rdsKept k o b) := by
  simp only [State.rdsSeen, h, List.findSome?_nil]
  rfl

/-- What synchronisation found with a block `e` seen before sets: the group that the blocks so far begin. -/
def rdsSynchronised (k : Fin 4) (o : RdsObs) (i n : Nat) (e : RdsOffset × BitVec 16) (d : RdsState) : RdsState :=
  { d with
    sync := d.sync ||| BitVec.ofNat 4 (2 ^ k.val), seen := upd d.seen k fun _ => [], hist := upd d.hist k fun _ => []
    group := upd d.group k fun _ => groupBefore i n e
    start := upd d.start k fun _ => o.ts - BitVec.ofNat 64 (bitTime (26 * i)) }

theorem inOrder_pos {a e : RdsOffset} {n i : Nat} (h : inOrder a e n = some i) : 0 < n := by
  refine Nat.pos_of_ne_zero fun hn => ?_
  simp only [inOrder, hn, if_true, reduceCtorEq] at h

/-- A second block that stands in order behind the one kept gives synchronisation. -/
theorem rdsSeen_second {x : Nat × RdsOffset × BitVec 16} {n i : Nat} (hseen : s.svc.run[r].fm.rds.seen[k] = [x])
    (hpos : o.pos = x.1 + 26 * n) (hord : inOrder x.2.1 b.1 n = some i) : s.rdsSeen r k o b =
      ((s.modRds r (rdsSynchronised k o i n x.2)).lockEvent r 5 [byte k.val]).rdsPlace r k o b := by
  have hn := inOrder_pos hord
  have hdiff : o.pos - x.1 = 26 * n := by omega
  have hlt : x.1 < o.pos := by omega
  simp only [State.rdsSeen, hseen, List.findSome?_cons, hdiff, Nat.mul_mod_right, hlt, and_self, if_true,
    Nat.mul_div_cancel_left n (by decide : 0 < 26), hord, Option.map_some]
  rfl

end Seen

/-! ### The group in progress (R157) -/

section Group

variable {s : State} {r : Fin 32} {k : Fin 4} {o : RdsObs} {b : RdsOffset × BitVec 16 × Nat}

/-- A block behind the blocks of its group. -/
def rdsPlaced (k : Fin 4) (o : RdsObs) (g : List (BitVec 16 × Nat)) (d : RdsState) : RdsState :=
  { d with
    group := upd d.group k fun _ => g, pos := upd d.pos k fun _ => o.pos + 26
    start := upd d.start k fun t => if g.length = 1 then o.ts else t }

theorem rdsPlace_eq : s.rdsPlace r k o b =
    if 3 ≤ s.svc.run[r].fm.rds.group[k].length then
      (s.modRds r (rdsPlaced k o (s.svc.run[r].fm.rds.group[k] ++ [groupBlock b]))).rdsGroup r k o.assign
    else s.modRds r (rdsPlaced k o (s.svc.run[r].fm.rds.group[k] ++ [groupBlock b])) :=
  if_congr (by rw [List.length_append]; exact Nat.succ_le_succ_iff) rfl rfl

/-- A group in progress that is not yet complete takes the block. -/
theorem rdsPlace_short (h : s.svc.run[r].fm.rds.group[k].length < 3) :
    s.rdsPlace r k o b = s.modRds r (rdsPlaced k o (s.svc.run[r].fm.rds.group[k] ++ [groupBlock b])) := by
  rw [rdsPlace_eq, if_neg (by omega)]

/-- The fourth block completes the group. -/
theorem rdsPlace_fourth (h : s.svc.run[r].fm.rds.group[k].length = 3) : s.rdsPlace r k o b =
    (s.modRds r (rdsPlaced k o (s.svc.run[r].fm.rds.group[k] ++ [groupBlock b]))).rdsGroup r k o.assign := by
  rw [rdsPlace_eq, if_pos (by omega)]

/-- What reading a group leaves alone. -/
structure GroupsKept (d e : RdsState) : Prop where
  pi : e.pi = d.pi
  pos : e.pos = d.pos
  group : e.group = d.group
  groups : e.groups = d.groups

theorem GroupsKept.refl (d : RdsState) : GroupsKept d d := ⟨rfl, rfl, rfl, rfl⟩

theorem GroupsKept.trans {d e f : RdsState} (h : GroupsKept d e) (k : GroupsKept e f) : GroupsKept d f :=
  ⟨k.pi.trans h.pi, k.pos.trans h.pos, k.group.trans h.group, k.groups.trans h.groups⟩

/-- What a group of streams 1 to 3 says joins the AF lists and the other networks. -/
theorem rdsMore_keeps (s : State) (r : Fin 32) (k : Fin 4) (g : List (BitVec 16 × Nat)) :
    ∃ h, s.rdsMore r k g = s.modRds r h ∧ ∀ d, GroupsKept d (h d) := by
  have hnone : ∃ h, s = s.modRds r h ∧ ∀ d, GroupsKept d (h d) := ⟨id, (modRds_id s r).symm, GroupsKept.refl⟩
  unfold State.rdsMore
  dsimp only
  split
  · exact hnone
  · split
    · refine ⟨_, rfl, fun d => ?_⟩
      split
      · exact GroupsKept.refl d
      · split <;> exact ⟨rfl, rfl, rfl, rfl⟩
    · split
      · exact hnone
      · exact ⟨_, rfl, fun d => ⟨rfl, rfl, rfl, rfl⟩⟩
    · exact hnone

/-- The state once the assignment that a stream signals with a group is kept. -/
def rdsWithAssign (s : State) (r : Fin 32) (k : Fin 4) (a : Option (BitVec 16 × BitVec 5)) : State :=
  match a with
  | some a => s.rdsAssign r k a.1 a.2
  | none => s

theorem rdsWithAssign_keeps (s : State) (r : Fin 32) (k : Fin 4) (a : Option (BitVec 16 × BitVec 5)) :
    ∃ h, rdsWithAssign s r k a = s.modRds r h ∧ ∀ d, GroupsKept d (h d) := by
  cases a with
  | none => exact ⟨id, (modRds_id s r).symm, GroupsKept.refl⟩
  | some a =>
    exact ⟨fun d => { d with oda := (d.oda.filter fun e => decide (e.1 ≠ k ∨ e.2.1 ≠ a.1)) ++ [(k, a.1, a.2)] }, rfl,
      fun _ => ⟨rfl, rfl, rfl, rfl⟩⟩

theorem groupDeliver_noCtx (h : s.ctxsOf r = []) (g : List (BitVec 16 × Nat)) (ts : D) : s.groupDeliver r k g ts = s := by
  simp only [State.groupDeliver, h, List.foldl_nil]

theorem groupSegment_none (h : s.segComps r = []) (g : List (BitVec 16 × Nat)) : s.groupSegment r k g = s := by
  simp only [State.groupSegment, h, List.any_nil, Bool.false_eq_true, false_and, if_false]

/-- A complete group is counted and makes room for the next. -/
def rdsGrouped (k : Fin 4) (d : RdsState) : RdsState := { d with groups := upd d.groups k (· + 1), group := upd d.group k fun _ => [] }

/-- The state with a complete group counted. -/
def rdsGroupCounted (s : State) (r : Fin 32) (k : Fin 4) : State := (s.modRds r (rdsGrouped k)).runCount r.val (4 * k.val + 3) 1

/-- A complete group of streams 1 to 3: counted, delivered, and read. -/
theorem rdsGroup_other (hk : k ≠ 0) (a : Option (BitVec 16 × BitVec 5)) : s.rdsGroup r k a =
    (rdsWithAssign ((((rdsGroupCounted s r k).spreadCarry r).groupDeliver r k s.svc.run[r].fm.rds.group[k]
      s.svc.run[r].fm.rds.start[k]).groupSegment r k s.svc.run[r].fm.rds.group[k]) r k a).rdsMore r k s.svc.run[r].fm.rds.group[k] :=
  if_neg hk

/-- Such a group that no context and no bulletin takes. -/
theorem rdsGroup_unheard (hk : k ≠ 0) (hctx : s.ctxsOf r = []) (hseg : s.segComps r = []) (hcarry : s.svc.run[r].carry = 0)
    (a : Option (BitVec 16 × BitVec 5)) : ∃ h, s.rdsGroup r k a = (rdsGroupCounted s r k).modRds r h ∧ ∀ d, GroupsKept d (h d) := by
  have hcarry' : (rdsGroupCounted s r k).svc.run[r].carry = 0 := by
    rw [rdsGroupCounted, runCount_svc, modRds_run_same]
    exact hcarry
  obtain ⟨f, hf, hfk⟩ := rdsWithAssign_keeps (rdsGroupCounted s r k) r k a
  obtain ⟨g, hg, hgk⟩ := rdsMore_keeps ((rdsGroupCounted s r k).modRds r f) r k s.svc.run[r].fm.rds.group[k]
  refine ⟨fun d => g (f d), ?_, fun d => (hfk d).trans (hgk (f d))⟩
  rw [rdsGroup_other hk, spreadCarry_zero hcarry', groupDeliver_noCtx (s := rdsGroupCounted s r k) hctx,
    groupSegment_none (s := rdsGroupCounted s r k) hseg, hf, hg, modRds_modRds]

end Group

/-! ### Blocks in synchronisation (R154, R155) -/

section InSync

variable {s : State} {r : Fin 32} {k : Fin 4} {o : RdsObs}

/-- A block as its place in the group has it. -/
def rdsBlockAt (s : State) (r : Fin 32) (k : Fin 4) (o : RdsObs) : RdsOffset × BitVec 16 × Nat :=
  checkBlock (s.svc.run[r].fm.setting r 4) (expected (s.svc.run[r].fm.rbds r) s.svc.run[r].fm.rds.group[k]) o.bits

/-- The last 25 outcomes of a stream, this block's first. -/
def rdsOutcomes (s : State) (r : Fin 32) (k : Fin 4) (o : RdsObs) : List Bool :=
  (decide ((rdsBlockAt s r k o).2.2 = 3) :: s.svc.run[r].fm.rds.hist[k]).take 25

/-- They are kept, and the last 100 beside them. -/
def rdsJudged (s : State) (r : Fin 32) (k : Fin 4) (o : RdsObs) (d : RdsState) : RdsState :=
  { d with
    hist := upd d.hist k fun _ => rdsOutcomes s r k o
    bler := upd d.bler k fun l => (decide ((rdsBlockAt s r k o).2.2 = 3) :: l).take 100 }

/-- The state with a block of a stream counted. -/
def rdsBlockCounted (s : State) (r : Fin 32) (k : Fin 4) (o : RdsObs) : State :=
  (s.rdsCount r k (rdsBlockAt s r k o).2.2).modRds r (rdsJudged s r k o)

theorem rdsBlockCounted_run (s : State) (r : Fin 32) (k : Fin 4) (o : RdsObs) : (rdsBlockCounted s r k o).svc.run[r] =
    { s.svc.run[r] with fm := { s.svc.run[r].fm with rds := rdsJudged s r k o s.svc.run[r].fm.rds } } := by
  rw [rdsBlockCounted, modRds_run_same]
  rfl

theorem runnersOnly_rdsBlockCounted (s : State) (r : Fin 32) (k : Fin 4) (o : RdsObs) : RunnersOnly s (rdsBlockCounted s r k o) := by
  unfold rdsBlockCounted
  exact runnersOnly_modRds s r (runnersOnly_rdsCount s r (RunnersOnly.refl s) k _) _

/-- A block of streams 1 to 3 in synchronisation: 20 uncorrectable ones of 25 end it. -/
theorem rdsBlock_synchronised (hk : k ≠ 0) (hsync : s.svc.run[r].fm.rds.sync.getLsbD k.val = true)
    (hpos : o.pos = s.svc.run[r].fm.rds.pos[k]) : s.rdsBlock r k o =
      if 20 ≤ ((rdsOutcomes s r k o).filter id).length then (rdsBlockCounted s r k o).loseRdsSync r (BitVec.ofNat 4 (2 ^ k.val))
      else (rdsBlockCounted s r k o).rdsPlace r k o (rdsBlockAt s r k o) := by
  have hin : s.rdsBlock r k o = s.rdsInSync r k o := by
    simp only [State.rdsBlock, hsync, if_true, if_pos hpos]
  have hkept : (rdsBlockCounted s r k o).svc.run[r].fm.rds.sync.getLsbD k.val = true := by
    rw [rdsBlockCounted_run]
    exact hsync
  rw [hin]
  unfold State.rdsInSync
  dsimp only
  rw [rdsPiOf_other hk]
  exact if_neg (ne_false_of_eq_true hkept)

theorem rdsOutcomes_bad (h : (rdsBlockAt s r k o).2.2 = 3) : rdsOutcomes s r k o = (true :: s.svc.run[r].fm.rds.hist[k]).take 25 := by
  rw [rdsOutcomes, h]
  rfl

/-- No outcome weighs more than an uncorrectable one. -/
theorem rdsOutcomes_le : ((rdsOutcomes s r k o).filter id).length ≤ (((true :: s.svc.run[r].fm.rds.hist[k]).take 25).filter id).length := by
  rw [rdsOutcomes]
  cases decide ((rdsBlockAt s r k o).2.2 = 3) with
  | true => exact Nat.le_refl _
  | false => simp [List.take_succ_cons]

/-- What the loss of synchronisation of some streams sets. -/
def rdsUnsynchronised (mask : BitVec 4) (d : RdsState) : RdsState :=
  { d with
    sync := d.sync &&& ~~~mask
    seen := Vector.ofFn fun i => if mask.getLsbD i.val then [] else d.seen[i]
    group := Vector.ofFn fun i => if mask.getLsbD i.val then [] else d.group[i] }

theorem loseRdsSync_svc (s : State) (r : Fin 32) (mask : BitVec 4) : (s.loseRdsSync r mask).svc = (s.modRds r (rdsUnsynchronised mask)).svc := by
  unfold State.loseRdsSync
  refine List.foldlRecOn (motive := fun u : State => u.svc = (s.modRds r (rdsUnsynchronised mask)).svc) _ _ rfl fun u hu i _ => ?_
  split
  · rw [lockEvent_svc]
    exact hu
  · exact hu

theorem streamBit (k : Fin 4) : (BitVec.ofNat 4 (2 ^ k.val)).getLsbD k.val = true := by
  revert k
  decide

theorem rdsUnsynchronised_group (k : Fin 4) (d : RdsState) : (rdsUnsynchronised (BitVec.ofNat 4 (2 ^ k.val)) d).group[k] = [] := by
  simp only [rdsUnsynchronised, Fin.getElem_fin, Vector.getElem_ofFn, streamBit, if_true]

end InSync

/-! ### RDS_BLOCK -/

section Block

variable {s : State} {rn : Fin 32} {o : RdsObs} {k : Fin 4}

/-- The first block A without a PI. -/
theorem rdsBlock_firstPi (hrn : rn.val < 16) (hact : s.svc.run[rn].active = true) (hon : s.svc.run[rn].fm.streamOn rn 0 = true)
    (hsync : s.svc.run[rn].fm.rds.sync.getLsbD 0 = false) (hseen : s.svc.run[rn].fm.rds.seen[0] = [])
    (hpi : s.svc.run[rn].fm.rds.pi = none) (hprov : s.svc.run[rn].fm.rds.prov = none) (hprobes : s.svc.run[rn].fm.probes = [])
    (hz : zeroOffset (s.svc.run[rn].fm.rbds rn) o.bits = some .A) :
    ∃ u : State, exec (.rdsBlock rn 0 o) s = .next (u.raise 35 0 ([byte rn.val, 0, 0, 0] ++ leBytes 2 (infoOf o.bits).toNat ++ [0, 0])) ∧
      u.svc = (s.modFm rn fun f => { f with rds := { f.rds with
        prov := some (infoOf o.bits), seen := f.rds.seen.set 0 [(o.pos, .A, infoOf o.bits)] } }).svc ∧
      u = { s with svc := u.svc, tlm := (s.runCount rn.val 0 1).tlm } := by
  have hfirst : (s.rdsCount rn 0 0).rdsPiOf rn 0 (.A, infoOf o.bits, 0) =
      ((s.rdsCount rn 0 0).modRds rn (rdsProvisional (infoOf o.bits))).piEvent rn 0 (infoOf o.bits) 0 :=
    (rdsPiOf_A _ _).trans (rdsPi_first hpi hprov hprobes)
  refine ⟨((s.rdsCount rn 0 0).modRds rn (rdsProvisional (infoOf o.bits))).modRds rn (rdsKept 0 o (.A, infoOf o.bits, 0)), ?_, ?_, rfl⟩
  · rw [rdsBlock_on hrn hact hon, rdsBlock_zero hsync hz hfirst (by rw [piEvent_svc, modRds_run_same]; rfl), rdsSeen_first]
    · exact congrArg Host.Outcome.next (raise_modFm _ _ _ _ _ _)
    · rw [piEvent_svc, modRds_run_same]
      exact hseen
  · rw [modRds_modRds]
    refine (congrArg State.svc (modRds_congr (s.rdsCount rn 0 0) rn
      (g := fun d => { d with prov := some (infoOf o.bits), seen := d.seen.set 0 [(o.pos, .A, infoOf o.bits)] })
      (rdsKept_provisional hseen (infoOf o.bits) 0))).trans ?_
    rfl

/-- A block A while the PI is provisional. -/
theorem rdsBlock_secondPi {p : BitVec 16} (hrn : rn.val < 16) (hact : s.svc.run[rn].active = true)
    (hon : s.svc.run[rn].fm.streamOn rn 0 = true) (hsync : s.svc.run[rn].fm.rds.sync.getLsbD 0 = false)
    (hseen : s.svc.run[rn].fm.rds.seen[0] = []) (hpi : s.svc.run[rn].fm.rds.pi = none) (hprov : s.svc.run[rn].fm.rds.prov = some p)
    (hprobes : s.svc.run[rn].fm.probes = []) (hz : zeroOffset (s.svc.run[rn].fm.rbds rn) o.bits = some .A) :
    ∃ u : State, exec (.rdsBlock rn 0 o) s = .next u ∧ u.svc.run[rn].fm.rds.pi = (if infoOf o.bits = p then some p else none) ∧
      u.svc.run[rn].fm.rds.prov = some p ∧ u = { s with svc := u.svc, tlm := u.tlm, host := u.host, evt := u.evt } := by
  obtain ⟨t, ht⟩ : ∃ t, t = (s.rdsCount rn 0 0).rdsPiOf rn 0 (.A, infoOf o.bits, 0) := ⟨_, rfl⟩
  have hsecond : t = if infoOf o.bits = p then
      ((s.rdsCount rn 0 0).modRds rn fun d => { d with pi := some (infoOf o.bits) }).piEvent rn 1 (infoOf o.bits) 0
      else s.rdsCount rn 0 0 := ht.trans ((rdsPiOf_A _ _).trans (rdsPi_second hpi hprov hprobes))
  have hcount : RunnersOnly s (s.rdsCount rn 0 0) := runnersOnly_rdsCount s rn (RunnersOnly.refl s) 0 0
  obtain ⟨hfm, honly⟩ : t.svc.run[rn].fm = { s.svc.run[rn].fm with rds := { s.svc.run[rn].fm.rds with
      pi := if infoOf o.bits = p then some p else none } } ∧ RunnersOnly s t := by
    by_cases hsame : infoOf o.bits = p
    · rw [hsecond, if_pos hsame, if_pos hsame, piEvent_svc, modRds_run_same, hsame]
      exact ⟨rfl, runnersOnly_piEvent (runnersOnly_modRds s rn hcount _) rn _ _ _⟩
    · rw [hsecond, if_neg hsame, if_neg hsame, ← hpi]
      exact ⟨rfl, hcount⟩
  refine ⟨_, (rdsBlock_on hrn hact hon).trans (congrArg Host.Outcome.next ((rdsBlock_zero hsync hz ht.symm (by rw [hfm])).trans
    (rdsSeen_first (by rw [hfm]; exact hseen)))), ?_, ?_, runnersOnly_eq (runnersOnly_modRds s rn honly _)⟩
  · rw [modRds_run_same, hfm]
    rfl
  · rw [modRds_run_same, hfm]
    exact hprov

/-- Two blocks in order give synchronisation to one of streams 1 to 3. -/
theorem rdsBlock_gains {x : Nat × RdsOffset × BitVec 16} {e : RdsOffset} {n i : Nat} (hrn : rn.val < 16)
    (hact : s.svc.run[rn].active = true) (hon : s.svc.run[rn].fm.streamOn rn k = true) (hk : k ≠ 0)
    (hsync : s.svc.run[rn].fm.rds.sync.getLsbD k.val = false) (hseen : s.svc.run[rn].fm.rds.seen[k] = [x])
    (hz : zeroOffset (s.svc.run[rn].fm.rbds rn) o.bits = some e) (hpos : o.pos = x.1 + 26 * n) (hord : inOrder x.2.1 e n = some i)
    (hi : i < 3) :
    ∃ u : State, exec (.rdsBlock rn k o) s = .next u ∧
      u.svc.run[rn].fm.rds.sync = s.svc.run[rn].fm.rds.sync ||| BitVec.ofNat 4 (2 ^ k.val) ∧
      u.svc.run[rn].fm.rds.group[k].length = i + 1 ∧ u.svc.run[rn].fm.rds.pos[k] = o.pos + 26 ∧ u.svc.run[rn].fm.rds.seen[k] = [] ∧
      u.svc.ctx = s.svc.ctx ∧ u = { s with svc := u.svc, tlm := u.tlm, host := u.host, evt := u.evt } := by
  obtain ⟨t, ht⟩ : ∃ t, t = ((s.rdsCount rn k 0).modRds rn (rdsSynchronised k o i n x.2)).lockEvent rn 5 [byte k.val] := ⟨_, rfl⟩
  have hrds : t.svc.run[rn].fm.rds = rdsSynchronised k o i n x.2 s.svc.run[rn].fm.rds := by
    rw [ht, lockEvent_svc, modRds_run_same]
    rfl
  have hgroup : t.svc.run[rn].fm.rds.group[k] = groupBefore i n x.2 := by
    rw [hrds]
    exact upd_same _ _ _
  have hlen : (groupBefore i n x.2).length = i := by rw [groupBefore, List.length_map, List.length_range]
  have hblock : s.rdsBlock rn k o = t.modRds rn (rdsPlaced k o (groupBefore i n x.2 ++ [groupBlock (e, infoOf o.bits, 0)])) := by
    rw [rdsBlock_zero hsync hz (rdsPiOf_other hk) rfl, rdsSeen_second (s := s.rdsCount rn k 0) (b := (e, infoOf o.bits, 0)) hseen hpos hord, ← ht,
      rdsPlace_short (by rw [hgroup, hlen]; exact hi), hgroup]
  have honly : RunnersOnly s (t.modRds rn (rdsPlaced k o (groupBefore i n x.2 ++ [groupBlock (e, infoOf o.bits, 0)]))) := by
    rw [ht]
    exact runnersOnly_modRds s rn (runnersOnly_lockEvent (runnersOnly_modRds s rn (runnersOnly_rdsCount s rn (RunnersOnly.refl s) k 0) _) _ _) _
  refine ⟨_, (rdsBlock_on hrn hact hon).trans (congrArg Host.Outcome.next hblock), ?_, ?_, ?_, ?_, runnersOnly_ctx honly,
    runnersOnly_eq honly⟩ <;> rw [modRds_run_same, hrds]
  · rfl
  · refine (congrArg List.length (upd_same _ _ _)).trans ?_
    rw [List.length_append, hlen]
    rfl
  · exact upd_same _ _ _
  · exact upd_same _ _ _

/-- The 20th uncorrectable block of 25 ends synchronisation of one of streams 1 to 3. -/
theorem rdsBlock_loses (hrn : rn.val < 16) (hact : s.svc.run[rn].active = true) (hon : s.svc.run[rn].fm.streamOn rn k = true) (hk : k ≠ 0)
    (hsync : s.svc.run[rn].fm.rds.sync.getLsbD k.val = true) (hpos : o.pos = s.svc.run[rn].fm.rds.pos[k])
    (hbad : (checkBlock (s.svc.run[rn].fm.setting rn 4) (expected (s.svc.run[rn].fm.rbds rn) s.svc.run[rn].fm.rds.group[k]) o.bits).2.2 = 3)
    (h20 : 20 ≤ ((true :: s.svc.run[rn].fm.rds.hist[k]).take 25 |>.filter id).length) :
    ∃ u : State, exec (.rdsBlock rn k o) s = .next u ∧
      u.svc.run[rn].fm.rds.sync = s.svc.run[rn].fm.rds.sync &&& ~~~BitVec.ofNat 4 (2 ^ k.val) ∧
      u.svc.run[rn].fm.rds.group[k] = [] ∧ u.svc.ctx = s.svc.ctx ∧
      u = { s with svc := u.svc, tlm := u.tlm, host := u.host, evt := u.evt } := by
  have hblock := rdsBlock_synchronised hk hsync hpos
  rw [if_pos (by rw [rdsOutcomes_bad hbad]; exact h20)] at hblock
  have honly : RunnersOnly s ((rdsBlockCounted s rn k o).loseRdsSync rn (BitVec.ofNat 4 (2 ^ k.val))) :=
    runnersOnly_loseRdsSync (runnersOnly_rdsBlockCounted s rn k o) _
  refine ⟨_, (rdsBlock_on hrn hact hon).trans (congrArg Host.Outcome.next hblock), ?_, ?_, runnersOnly_ctx honly, runnersOnly_eq honly⟩ <;>
    rw [loseRdsSync_svc, modRds_run_same]
  · rw [rdsBlockCounted_run]
    rfl
  · exact rdsUnsynchronised_group k _

/-- The fourth block of a group of streams 1 to 3 that nothing listens to. -/
theorem rdsBlock_completes (hrn : rn.val < 16) (hact : s.svc.run[rn].active = true) (hon : s.svc.run[rn].fm.streamOn rn k = true)
    (hk : k ≠ 0) (hsync : s.svc.run[rn].fm.rds.sync.getLsbD k.val = true) (hpos : o.pos = s.svc.run[rn].fm.rds.pos[k])
    (hlen : s.svc.run[rn].fm.rds.group[k].length = 3) (hctx : s.ctxsOf rn = []) (hseg : s.segComps rn = [])
    (hcarry : s.svc.run[rn].carry = 0) (h20 : ((true :: s.svc.run[rn].fm.rds.hist[k]).take 25 |>.filter id).length < 20) :
    ∃ u : State, exec (.rdsBlock rn k o) s = .next u ∧ u.svc.run[rn].fm.rds.groups[k] = s.svc.run[rn].fm.rds.groups[k] + 1 ∧
      u.svc.run[rn].fm.rds.group[k] = [] ∧ u.svc.run[rn].fm.rds.pos[k] = o.pos + 26 ∧
      u.svc.run[rn].fm.rds.pi = s.svc.run[rn].fm.rds.pi ∧ u.svc.ctx = s.svc.ctx ∧ u = { s with svc := u.svc, tlm := u.tlm } := by
  have hblock := rdsBlock_synchronised hk hsync hpos
  have hlt : ¬20 ≤ ((rdsOutcomes s rn k o).filter id).length := Nat.not_le.mpr (Nat.lt_of_le_of_lt rdsOutcomes_le h20)
  obtain ⟨t, ht⟩ : ∃ t, t = rdsBlockCounted s rn k o := ⟨_, rfl⟩
  have hrun := rdsBlockCounted_run s rn k o
  have honly : t = { s with svc := t.svc, tlm := t.tlm } := by rw [ht]; rfl
  have hctxs := runnersOnly_ctx (runnersOnly_rdsBlockCounted s rn k o)
  rw [if_neg hlt, ← ht, rdsPlace_fourth (by rw [ht, hrun]; exact hlen)] at hblock
  rw [← ht] at hrun hctxs
  obtain ⟨h, hgroup, hkept⟩ := rdsGroup_unheard (s := t.modRds rn (rdsPlaced k o (t.svc.run[rn].fm.rds.group[k] ++
    [groupBlock (rdsBlockAt s rn k o)]))) hk ((ctxsOf_congr hctxs).trans hctx) (by rw [ht]; exact hseg)
    (by rw [modRds_run_same, hrun]; exact hcarry) o.assign
  refine ⟨_, (rdsBlock_on hrn hact hon).trans (congrArg Host.Outcome.next (hblock.trans hgroup)), ?_, ?_, ?_, ?_, hctxs, by rw [honly]; rfl⟩ <;>
    simp only [rdsGroupCounted, modRds_run_same, runCount_svc, (hkept _).groups, (hkept _).group, (hkept _).pos, (hkept _).pi, hrun]
  · exact upd_same _ _ _
  · exact upd_same _ _ _
  · exact upd_same _ _ _
  · rfl

end Block

end Sys2Proof.Proofs
end

section
/-!
SUPPORT. The ends of a probe check (R162, R163), and what the signal does to an FM or AM runner as the statement about it has it.
-/

namespace Sys2Proof.Proofs

open Sys2Proof Sys2Proof.Machine Sys2Proof.Laws

/-! ### A check that ends (R162) -/

section Probe

variable {s : State} {rn : Fin 32} {k : ProbeCheck} {o : ProbeObs}

theorem probeBegin_idle (h : s.svc.run[rn].fm.probes = []) : s.probeBegin rn = s := by
  simp only [State.probeBegin, h]

/-- What source 44 reports of a check. -/
def probeData (s : State) (rn : Fin 32) (k : ProbeCheck) (cnr : Nat) : List Byte :=
  [byte rn.val, k.tag, byte (b01 s.svc.run[rn].fm.rds.pi.isSome), 0] ++ leBytes 4 k.freq.toNat ++
    leBytes 2 s.svc.run[rn].fm.rds.bestPi.toNat ++ leInt 2 s.svc.run[rn].fm.probeLevel ++
    leBytes 2 (min 65535 (s.msSince s.svc.run[rn].fm.probeStart)) ++ [sat8 cnr]

theorem probeData_freq (s : State) (cnr : Nat) : slice (probeData s rn k cnr) 4 4 = leBytes 4 k.freq.toNat := rfl

theorem probeData_level (s : State) (cnr : Nat) : slice (probeData s rn k cnr) 10 2 = leInt 2 s.svc.run[rn].fm.probeLevel := rfl

/-- The last check of a queue that ends without its PI leaves the runner idle. -/
theorem probeEnd_last (h : s.svc.run[rn].fm.probes = [k]) {outcome : Nat} (ho : outcome ≠ 0) (cnr : Nat) : s.probeEnd rn outcome cnr =
    (s.raise 44 outcome (probeData s rn k cnr)).modFm rn fun f => { f with probes := [] } := by
  simp only [State.probeEnd, h, ho, if_false]
  exact probeBegin_idle (by rw [modFm_run_same])

/-- The state with the level of a check measured. -/
def probeMeasured (s : State) (rn : Fin 32) (power : Int) : State := s.modFm rn fun f => { f with probeLevel := s.levelAt rn power }

theorem probeMeasured_fm (s : State) (rn : Fin 32) (power : Int) :
    (probeMeasured s rn power).svc.run[rn].fm = { s.svc.run[rn].fm with probeLevel := s.levelAt rn power } := by
  rw [probeMeasured, modFm_run_same]

/-- The only check of a runner ends for want of a PI: with one outcome while some leg had input, else with 4 (R163). -/
theorem probeMeasured_ends (h : s.svc.run[rn].fm.probes = [k]) (power : Int) {code : Nat} (hcode : code ≠ 0) (cnr : Nat) :
    (probeMeasured s rn power).probeEnd rn (if s.probeDry rn then 4 else code) cnr =
    ((probeMeasured s rn power).raise 44 (if s.svc.run[rn].fm.probeInput then code else 4)
      (probeData (probeMeasured s rn power) rn k cnr)).modFm rn fun f => { f with probes := [] } := by
  have houtcome : (if s.probeDry rn then 4 else code) = if s.svc.run[rn].fm.probeInput then code else 4 := by
    rw [State.probeDry]
    cases s.svc.run[rn].fm.probeInput <;> rfl
  have hne : (if s.svc.run[rn].fm.probeInput then code else 4) ≠ 0 := by
    split
    · exact hcode
    · decide
  rw [houtcome, probeEnd_last (by rw [probeMeasured_fm]; exact h) hne]

theorem probeMeasured_dry (power : Int) : (probeMeasured s rn power).probeDry rn = s.probeDry rn := by
  rw [State.probeDry, probeMeasured_fm]
  rfl

/-- A level check by how its level stands to FLOOR. -/
theorem levelCheck_eq (h : s.svc.run[rn].fm.probes = [k]) : exec (.probeLevelCheck rn o) s =
    .next (if s.levelAt rn o.power < k.floor then
      (probeMeasured s rn o.power).probeEnd rn (if s.probeDry rn then 4 else 2) o.cnr
    else probeMeasured s rn o.power) := by
  rw [← probeMeasured_dry o.power]
  change execProbeLevelCheck rn o s = _
  simp only [execProbeLevelCheck, h]
  rfl

theorem levelCheck_above (h : s.svc.run[rn].fm.probes = [k]) (hle : k.floor ≤ s.levelAt rn o.power) :
    exec (.probeLevelCheck rn o) s = .next (s.modFm rn fun f => { f with probeLevel := s.levelAt rn o.power }) := by
  rw [levelCheck_eq h, if_neg (Int.not_lt.mpr hle), probeMeasured]

theorem levelCheck_below (h : s.svc.run[rn].fm.probes = [k]) (hlt : s.levelAt rn o.power < k.floor) :
    ∃ (u : State) (d : List Byte), exec (.probeLevelCheck rn o) s = .next u ∧
      u = (((s.modFm rn fun f => { f with probeLevel := s.levelAt rn o.power }).raise 44
        (if s.svc.run[rn].fm.probeInput then 2 else 4) d).modFm rn fun f => { f with probes := [] }) ∧
      d.getD 0 0 = byte rn.val ∧ d.getD 1 0 = k.tag ∧ slice d 4 4 = leBytes 4 k.freq.toNat ∧
      slice d 10 2 = leInt 2 (s.levelAt rn o.power) := by
  refine ⟨_, probeData (probeMeasured s rn o.power) rn k o.cnr, ?_, rfl, rfl, rfl, probeData_freq _ _,
    (probeData_level _ _).trans (by rw [probeMeasured_fm])⟩
  rw [levelCheck_eq h, if_pos hlt, probeMeasured_ends h o.power (by decide), probeMeasured]

theorem dwellExpiry_spec (h : s.svc.run[rn].fm.probes = [k]) :
    ∃ (u : State) (d : List Byte), exec (.probeDwellExpiry rn o) s = .next u ∧
      u = (((s.modFm rn fun f => { f with probeLevel := s.levelAt rn o.power }).raise 44
        (if s.svc.run[rn].fm.probeInput then 1 else 4) d).modFm rn fun f => { f with probes := [] }) ∧
      d.getD 0 0 = byte rn.val ∧ d.getD 1 0 = k.tag ∧ slice d 4 4 = leBytes 4 k.freq.toNat := by
  have hexec : exec (.probeDwellExpiry rn o) s =
      .next ((probeMeasured s rn o.power).probeEnd rn (if s.probeDry rn then 4 else 1) o.cnr) := by
    change execProbeDwellExpiry rn o s = _
    simp only [execProbeDwellExpiry, h]
    rfl
  refine ⟨_, probeData (probeMeasured s rn o.power) rn k o.cnr, ?_, rfl, rfl, rfl, probeData_freq _ _⟩
  rw [hexec, probeMeasured_ends h o.power (by decide), probeMeasured]

theorem probes_idle (h : s.svc.run[rn].fm.probes = []) : exec (.probeLevelCheck rn o) s = .next s ∧ exec (.probeDwellExpiry rn o) s = .next s := by
  constructor
  · change execProbeLevelCheck rn o s = _
    simp only [execProbeLevelCheck, h]
  · change execProbeDwellExpiry rn o s = _
    simp only [execProbeDwellExpiry, h]

end Probe

/-- Settles O41: each event of a runner by the part of its state that the event reads. -/
theorem fmRunnersFollowTheirSignal : Obligations.FmRunnersFollowTheirSignal := by
  unfold Obligations.FmRunnersFollowTheirSignal
  exact ⟨fun _ _ _ => metricTick_spec, fun _ _ _ _ hlo hhi hact hnext _ => metricTick_am_idle hlo hhi hact hnext,
    fun _ _ _ => metricTick_none, fun _ _ => mayLock_iff, fun _ _ => lockGained_unserved, fun _ _ => lockGained_none,
    fun _ _ => lockLost_weak, fun _ _ => lockLost_drifted, fun _ _ => lockLost_none, fun _ _ => pilotPresent_appears,
    fun _ _ => pilotLost_goes, fun _ _ => ⟨pilotPresent_none, pilotLost_none⟩, fun _ _ _ _ _ => audioUnit_spec,
    fun _ _ l hmono hfilt => audio_mono hmono hfilt l, fun _ _ _ => audioUnit_none,
    fun _ _ _ hrn hact hon hsync hseen hpi hprov => rdsBlock_firstPi hrn hact hon hsync hseen hpi hprov,
    fun _ _ _ _ hrn hact hon hsync hseen hpi hprov => rdsBlock_secondPi hrn hact hon hsync hseen hpi hprov,
    fun _ _ _ _ _ _ _ _ => rdsBlock_gains, fun _ _ _ _ => rdsBlock_loses, fun _ _ _ _ => rdsBlock_completes,
    fun _ _ _ _ => rdsBlock_inactive, fun _ _ _ => piWithdrawn_spec, fun _ _ => piWithdrawn_none,
    fun _ _ _ _ => levelCheck_above, fun _ _ _ _ => levelCheck_below, fun _ _ _ _ => dwellExpiry_spec, fun _ _ _ => probes_idle⟩

end Sys2Proof.Proofs
end

section
/-!
SUPPORT. What the proofs about DAB runners share: the updates of one runner, agreement but for one runner, counters and reports, and the
settings and the database image as the host commands reach them (R193, R194).
-/

namespace Sys2Proof.Proofs

open Sys2Proof Sys2Proof.Machine Sys2Proof.Laws

/-! ### Updates of the DAB part of a runner -/

section Updates

variable (s : State) (r : Fin 32)

@[simp] theorem modDab_run_same (f : DabState → DabState) :
    (s.modDab r f).svc.run[r] = { s.svc.run[r] with dab := f s.svc.run[r].dab } := modRun_run_same s r _

@[simp] theorem modDab_ctx (f : DabState → DabState) : (s.modDab r f).svc.ctx = s.svc.ctx := rfl

theorem modDab_modDab (f g : DabState → DabState) : (s.modDab r f).modDab r g = s.modDab r fun d => g (f d) := by
  simp only [State.modDab, State.modRun, upd_upd]

theorem modDab_id {f : DabState → DabState} (h : f s.svc.run[r].dab = s.svc.run[r].dab) : s.modDab r f = s := by
  simp only [State.modDab, State.modRun, upd_id (v := s.svc.run) (i := r) (f := fun x => { x with dab := f x.dab }) (by rw [h])]

theorem modDab_congr {f g : DabState → DabState} (h : f s.svc.run[r].dab = g s.svc.run[r].dab) : s.modDab r f = s.modDab r g := by
  have hrun : upd s.svc.run r (fun x => { x with dab := f x.dab }) = upd s.svc.run r fun x => { x with dab := g x.dab } :=
    upd_congr (by rw [h])
  simp only [State.modDab, State.modRun, hrun]

@[simp] theorem ficEvent_svc (code : Nat) : (s.ficEvent r code).svc = s.svc := raise_svc s _ _ _

@[simp] theorem reconfEvent_svc (code : Nat) (cif : BitVec 16) (n : Nat) : (s.reconfEvent r code cif n).svc = s.svc := raise_svc s _ _ _

theorem rest_raiseLimited (src inst code : Nat) (aux : W) (amount : Nat) : Rest s (s.raiseLimited src inst code aux amount) := by
  unfold State.raiseLimited State.raiseLimitedWith
  split
  · rfl
  · exact rest_raise rfl _ _ _

end Updates

theorem isDab_of_range {r : Fin 32} (hlo : 24 ≤ r.val) (hhi : r.val ≤ 27) : isDab r = true := by
  simp [isDab, within, hlo, hhi]

/-! ### Agreement but for one runner, the counters and what the host is told -/

section OneRunner

variable {s t u : State} {r : Fin 32}

/-- A state without one runner, its counters, its host block and its event block. -/
def exceptRunner (r : Fin 32) (s : State) : State :=
  { s with host := {}, evt := {}, tlm := [], svc := { s.svc with run := upd s.svc.run r fun _ => {} } }

/-- Two states agree but for those. -/
def RunnerOnly (r : Fin 32) (s t : State) : Prop := exceptRunner r t = exceptRunner r s

theorem RunnerOnly.refl (s : State) : RunnerOnly r s s := rfl

theorem runnerOnly_trans (h : RunnerOnly r s t) (k : RunnerOnly r t u) : RunnerOnly r s u := Eq.trans (b := exceptRunner r t) k h

theorem runnerOnly_of_rest (h : Rest s t) : RunnerOnly r s t := congrArg (exceptRunner r) (a₁ := rest t) (a₂ := rest s) h

theorem runnerOnly_modRun (h : RunnerOnly r s t) (f : Runner → Runner) : RunnerOnly r s (t.modRun r f) := by
  refine Eq.trans ?_ h
  simp only [exceptRunner, modRun_svc, upd_upd]
  rfl

theorem runnerOnly_modDab (h : RunnerOnly r s t) (f : DabState → DabState) : RunnerOnly r s (t.modDab r f) := runnerOnly_modRun h _

theorem runnerOnly_bump (h : RunnerOnly r s t) (off n : Nat) : RunnerOnly r s (t.bump off n) := h

theorem runnerOnly_raise (h : RunnerOnly r s t) (src code : Nat) (data : List Byte) : RunnerOnly r s (t.raise src code data) :=
  runnerOnly_trans h (runnerOnly_of_rest (rest_raise (Rest.refl t) _ _ _))

theorem runnersOnly_of_runner (h : RunnerOnly r s t) : RunnersOnly s t :=
  congrArg exceptRunners (a₁ := exceptRunner r t) (a₂ := exceptRunner r s) h

theorem runnerOnly_run_other (h : RunnerOnly r s t) {k : Fin 32} (hk : k ≠ r) : t.svc.run[k] = s.svc.run[k] := by
  have hrun : upd t.svc.run r (fun _ => {}) = upd s.svc.run r fun _ => {} :=
    congrArg (fun x : State => x.svc.run) (a₁ := exceptRunner r t) (a₂ := exceptRunner r s) h
  rw [← upd_other t.svc.run r k (fun _ => {}) hk.symm, hrun, upd_other _ _ _ _ hk.symm]

end OneRunner

/-! ### SVC_DAB_CFG (R193) -/

section Settings

variable {s : State} {c : CmdEntry} {rn : Fin 32} {l : List Byte}

theorem firstFail_dabRunner (hlo : 24 ≤ c.u8 24) (hhi : c.u8 24 ≤ 27) (m : List (Bool × Status × Nat)) :
    firstFail ((!within 24 27 (c.u8 24), Status.range, 24) :: m) = firstFail m := by
  simp [firstFail, within, hlo, hhi]

/-- Settings within their ranges wait for the next CIF. -/
theorem bodySvcDabCfg_pass (h24 : c.u8 24 = rn.val) (hlo : 24 ≤ rn.val) (hhi : rn.val ≤ 27) (hb : c.bytes 29 3 = [0, 0, 0])
    (hr : ∀ i, i < dabRanges.length → c.u8 (25 + i) = 0xFF ∨
      ((dabRanges.getD i (0, 0)).1 ≤ c.u8 (25 + i) ∧ c.u8 (25 + i) ≤ (dabRanges.getD i (0, 0)).2))
    (hl : l = (List.range 4).map fun i =>
      if c.u8 (25 + i) = 0xFF then (s.svc.run[rn].dab.next.getD s.svc.run[rn].dab.settings).getD i 0 else byte (c.u8 (25 + i))) :
    bodySvcDabCfg c s = .done (s.modDab rn fun d => { d with next := some l }) := by
  simp only [bodySvcDabCfg, ofNat_eq h24, ← hl]
  apply checked_pass
  rw [List.cons_append, firstFail_dabRunner (h24 ▸ hlo) (h24 ▸ hhi),
    firstFail_append _ ((firstFail_eq_none_iff _).mpr (settingRange_pass hr))]
  exact firstFail_rsvdBytes_of_bytes (n := 3) hb (by decide)

/-- A FULL that is neither 0, 1 nor 0xFF fails at its byte. -/
theorem bodySvcDabCfg_range (hlo : 24 ≤ c.u8 24) (hhi : c.u8 24 ≤ 27) (h1 : 1 < c.u8 25) (hff : c.u8 25 ≠ 0xFF) :
    bodySvcDabCfg c s = .fail .range 25 := by
  have hnot : ¬c.u8 25 ≤ 1 := Nat.not_le.mpr h1
  simp only [bodySvcDabCfg]
  apply checked_fail
  rw [List.cons_append, firstFail_dabRunner hlo hhi]
  simp [settingRange, dabRanges, firstFail, within, hff, hnot]

end Settings

/-! ### SVC_DAB_DB (R194) -/

section Database

variable {s : State} {c : CmdEntry} {rn : Fin 32} {d : DabState}

theorem bodySvcDabDb_eq (hb : c.bytes 24 4 = [byte rn.val, 0, 0, 0]) (hlo : 24 ≤ rn.val) (hhi : rn.val ≤ 27) :
    bodySvcDabDb c s = checked [s.noWindow rn,
        (decide (s.svc.run[rn].dab.eid.isNone ∨ s.svc.run[rn].dab.lockedEid ≠ s.svc.run[rn].dab.eid), .state, 0)]
      fun _ => .ok s [] (some s.svc.run[rn].dab.image) := by
  obtain ⟨h24, hrsvd⟩ := params_one (by omega) hb
  simp only [bodySvcDabDb, ofNat_eq h24, checked, List.cons_append, firstFail_dabRunner (h24 ▸ hlo) (h24 ▸ hhi), firstFail_append _ hrsvd]

theorem bodySvcDabDb_locked {e : BitVec 16} (hb : c.bytes 24 4 = [byte rn.val, 0, 0, 0]) (hlo : 24 ≤ rn.val) (hhi : rn.val ≤ 27)
    (hw : (s.windowOf rn).isSome = true) (he : s.svc.run[rn].dab.eid = some e) (hlock : s.svc.run[rn].dab.lockedEid = some e) :
    bodySvcDabDb c s = .ok s [] (some s.svc.run[rn].dab.image) := by
  rw [bodySvcDabDb_eq hb hlo hhi]
  have hwin : (s.windowOf rn).isNone = false := by rw [Option.isNone_eq_false_iff, hw]
  refine checked_pass _ ?_
  simp only [State.noWindow, firstFail, hwin, he, hlock, Option.isNone_some, Bool.false_eq_true, ne_eq, not_true_eq_false, or_self,
    decide_false, if_false]

theorem bodySvcDabDb_unlocked (hb : c.bytes 24 4 = [byte rn.val, 0, 0, 0]) (hlo : 24 ≤ rn.val) (hhi : rn.val ≤ 27)
    (h : s.windowOf rn = none ∨ s.svc.run[rn].dab.eid = none ∨ s.svc.run[rn].dab.lockedEid ≠ s.svc.run[rn].dab.eid) :
    bodySvcDabDb c s = .fail .state 0 := by
  rw [bodySvcDabDb_eq hb hlo hhi]
  refine checked_fail _ ?_
  obtain hw | hdab := h
  · simp [State.noWindow, firstFail, hw]
  · simp only [State.noWindow, firstFail, Option.isNone_iff_eq_none, hdab, decide_true, if_true, ite_self]

theorem subRecord_length (d : DabState) (i : Nat) : (d.subRecord i).length = 16 := by
  unfold DabState.subRecord
  split <;> simp

theorem compRecord_length (d : DabState) (h : Nat) : (d.compRecord h).length = 32 := by
  unfold DabState.compRecord
  split
  · simp
  · next k _ => cases hlabel : (d.compLabels.find? fun e => decide (e.1 = (k.sid, k.scids))).map Prod.snd <;> simp [hlabel]

theorem serviceRecord_length (d : DabState) (i : Nat) : (d.serviceRecord i).length = 32 := by
  unfold DabState.serviceRecord
  split
  · simp
  · next sid _ => cases hlabel : (d.labels.find? fun e => decide (e.1 = sid)).map Prod.snd <;> simp

theorem flatMap_length {α β : Type} {g : α → List β} {n : Nat} (hg : ∀ x, (g x).length = n) (l : List α) :
    (l.flatMap g).length = l.length * n := by
  rw [List.length_flatMap, List.map_congr_left fun x _ => hg x, List.map_const', List.sum_replicate_nat]

/-- The database image has 13,376 bytes. -/
theorem dabImage_length (d : DabState) : d.image.length = 13376 := by
  unfold DabState.image
  cases hutc : d.utc <;>
    simp only [List.length_append, List.length_cons, List.length_nil, leBytes_length, padTo_length, List.length_replicate,
      flatMap_length (subRecord_length d), flatMap_length (compRecord_length d), flatMap_length (serviceRecord_length d), List.length_range]

/-- It begins with the EId. -/
theorem dabImage_eid {e : BitVec 16} (he : d.eid = some e) : slice d.image 0 2 = leBytes 2 e.toNat := by
  rw [slice, List.drop_zero]
  simp only [DabState.image, he, Option.getD_some, List.append_assoc]
  exact padTo_append (leBytes_length 2 _) _

end Database

/-! ### DAB_FRAME_TIMING and DAB_FIC_TIMEOUT (R171, R176) -/

section Reports

variable {s : State} {rn : Fin 32}

theorem frameTiming_found (hlo : 24 ≤ rn.val) (hhi : rn.val ≤ 27) (hact : s.svc.run[rn].active = true)
    (ht : s.svc.run[rn].dab.timing = false) : exec (.dabFrameTiming rn) s = .next ((s.modDab rn fun d => { d with
      timing := true, stored := 0, ring := [], prsOkRun := 0, prsBadRun := 0, fibSeen := false, noFibRun := 0 }).raise 34 8 [byte rn.val]) :=
  congrArg Host.Outcome.next (if_pos ⟨isDab_of_range hlo hhi, hact, ht⟩)

theorem frameTiming_none (h : s.svc.run[rn].active = false ∨ s.svc.run[rn].dab.timing = true) : exec (.dabFrameTiming rn) s = .next s := by
  refine congrArg Host.Outcome.next (if_neg fun ⟨_, hact, ht⟩ => ?_)
  obtain hoff | hon := h
  · exact absurd hact (ne_true_of_eq_false hoff)
  · exact absurd ht (ne_false_of_eq_true hon)

theorem ficTimeout_once (hlo : 24 ≤ rn.val) (hhi : rn.val ≤ 27) (hlock : s.svc.run[rn].lock = true)
    (hc : s.svc.run[rn].dab.complete = false) (hr : s.svc.run[rn].dab.timeoutRaised = false) :
    ∃ u : State, exec (.dabFicTimeout rn) s = .next u ∧ u.svc = (s.modDab rn fun d => { d with timeoutRaised := true }).svc ∧
      s.onlyReports { u with svc := s.svc } := by
  have hrest : Rest (s.modDab rn fun d => { d with timeoutRaised := true })
      ((s.modDab rn fun d => { d with timeoutRaised := true }).ficEvent rn 3) := rest_raise (Rest.refl _) _ _ _
  refine ⟨_, congrArg Host.Outcome.next (if_pos ⟨isDab_of_range hlo hhi, hlock, hc, hr⟩), ficEvent_svc _ _ _, ?_⟩
  exact congrArg (fun x : State => { x with svc := s.svc }) hrest.eq

theorem ficTimeout_none (h : s.svc.run[rn].lock = false ∨ s.svc.run[rn].dab.complete = true ∨ s.svc.run[rn].dab.timeoutRaised = true) :
    exec (.dabFicTimeout rn) s = .next s := by
  refine congrArg Host.Outcome.next (if_neg fun ⟨_, hlock, hc, hr⟩ => ?_)
  obtain hoff | hon | hon := h
  · exact absurd hlock (ne_true_of_eq_false hoff)
  · exact absurd hc (ne_false_of_eq_true hon)
  · exact absurd hr (ne_false_of_eq_true hon)

end Reports

end Sys2Proof.Proofs
end

section
/-!
SUPPORT. FIGs and the database of a DAB runner (R174, R175): the bits of the FIGs that name the ensemble and one service, the organisation
and the component record that they leave, and what FIGs leave alone.
-/

namespace Sys2Proof.Proofs

open Sys2Proof Sys2Proof.Machine Sys2Proof.Laws

/-! ### Bits -/

section Bits

theorem slice_five (l : List Byte) (i : Nat) :
    slice l i 5 = [l.getD i 0, l.getD (i + 1) 0, l.getD (i + 2) 0, l.getD (i + 3) 0, l.getD (i + 4) 0] := by
  have hat (j : Nat) : l.getD (i + j) 0 = (l.drop i).getD j 0 := by simp
  rw [hat 1, hat 2, hat 3, hat 4, show l.getD i 0 = _ from hat 0, slice]
  rcases l.drop i with _ | ⟨a, _ | ⟨b, _ | ⟨c, _ | ⟨d, _ | ⟨e, m⟩⟩⟩⟩⟩ <;> rfl

theorem bitsAt_eq (l : List Byte) (off n : Nat) : bitsAt l off n =
    (4294967296 * (l.getD (off / 8) 0).toNat + (16777216 * (l.getD (off / 8 + 1) 0).toNat + 65536 * (l.getD (off / 8 + 2) 0).toNat +
      256 * (l.getD (off / 8 + 3) 0).toNat + (l.getD (off / 8 + 4) 0).toNat)) / 2 ^ (40 - off % 8 - n) % 2 ^ n := by
  rw [bitsAt, slice_five]
  simp only [beNat, List.reverse_cons, List.reverse_nil, List.nil_append, List.cons_append, leNat]
  congr 2
  omega

/-- Bits that lie in one byte. -/
theorem bitsAt_byte (l : List Byte) {off n : Nat} (h : off % 8 + n ≤ 8) :
    bitsAt l off n = (l.getD (off / 8) 0).toNat / 2 ^ (8 - off % 8 - n) % 2 ^ n := by
  have hexp : 40 - off % 8 - n = 32 + (8 - off % 8 - n) := by omega
  rw [bitsAt_eq, hexp, Nat.pow_add, ← Nat.div_div_eq_div_mul]
  congr 2
  omega

/-- Two whole bytes. -/
theorem bitsAt_word (l : List Byte) {off : Nat} (h : off % 8 = 0) :
    bitsAt l off 16 = 256 * (l.getD (off / 8) 0).toNat + (l.getD (off / 8 + 1) 0).toNat := by
  rw [bitsAt_eq, h]
  omega

end Bits

/-! ### The FIGs of one ensemble with one service -/

section Figs

variable (hi lo sh sl ty sc : Byte)

theorem figCif_seven : figCif [hi, lo, 0, 7] = 7 := by
  have hhigh : bitsAt [hi, lo, 0, 7] 19 5 = 0 :=
    (bitsAt_byte _ (by decide)).trans (show (0 : Byte).toNat / 1 % 32 = 0 from rfl)
  have hlow : bitsAt [hi, lo, 0, 7] 24 8 = 7 :=
    (bitsAt_byte _ (by decide)).trans (show (7 : Byte).toNat / 1 % 256 = 7 from rfl)
  rw [figCif, hhigh, hlow]

theorem partEntry_primary (hty : ty.toNat < 64) (hsc : sc.toNat % 4 = 2) :
    partEntry [ty, sc] = { tmid := 0, type := ty, id := sc.toNat / 4, primary := true, ca := false } := by
  have hlt := sc.isLt
  have htmid : bitsAt [ty, sc] 0 2 = 0 := (bitsAt_byte _ (by decide)).trans (by change ty.toNat / 64 % 4 = 0; omega)
  have htype : bitsAt [ty, sc] 2 6 = ty.toNat := (bitsAt_byte _ (by decide)).trans (by change ty.toNat / 1 % 64 = _; omega)
  have hid : bitsAt [ty, sc] 8 6 = sc.toNat / 4 := (bitsAt_byte _ (by decide)).trans (by change sc.toNat / 4 % 64 = _; omega)
  have hprimary : bitsAt [ty, sc] 14 1 = 1 := (bitsAt_byte _ (by decide)).trans (by change sc.toNat / 2 % 2 = 1; omega)
  have hca : bitsAt [ty, sc] 15 1 = 0 := (bitsAt_byte _ (by decide)).trans (by change sc.toNat / 1 % 2 = 0; omega)
  simp [partEntry, htmid, htype, hid, hprimary, hca, byte]

theorem serviceEntry_one : serviceEntry false [sh, sl, 1, ty, sc] =
    (BitVec.ofNat 32 (256 * sh.toNat + sl.toNat), [partEntry [ty, sc]]) := by
  have hsid : bitsAt [sh, sl, 1, ty, sc] 0 16 = 256 * sh.toNat + sl.toNat := bitsAt_word _ rfl
  have hcount : bitsAt [sh, sl, 1, ty, sc] (8 * 2 + 4) 4 = 1 :=
    (bitsAt_byte _ (by decide)).trans (show (1 : Byte).toNat / 1 % 16 = 1 from rfl)
  simp only [serviceEntry, sidOf, sidLen, Bool.false_eq_true, if_false, hsid, hcount]
  rfl

/-- FIG 0/2 of one service with one component. -/
def serviceFig (sh sl ty sc : Byte) : Fig := ⟨0, [2, sh, sl, 1, ty, sc]⟩

theorem serviceFig_flags : (serviceFig sh sl ty sc).ext = 2 ∧ (serviceFig sh sl ty sc).other = false ∧
    (serviceFig sh sl ty sc).next = false ∧ (serviceFig sh sl ty sc).long = false := by
  have hext : bitsAt [2, sh, sl, 1, ty, sc] 3 5 = 2 :=
    (bitsAt_byte _ (by decide)).trans (show (2 : Byte).toNat / 1 % 32 = 2 from rfl)
  have hother : bitsAt [2, sh, sl, 1, ty, sc] 1 1 = 0 :=
    (bitsAt_byte _ (by decide)).trans (show (2 : Byte).toNat / 64 % 2 = 0 from rfl)
  have hnext : bitsAt [2, sh, sl, 1, ty, sc] 0 1 = 0 :=
    (bitsAt_byte _ (by decide)).trans (show (2 : Byte).toNat / 128 % 2 = 0 from rfl)
  have hlong : bitsAt [2, sh, sl, 1, ty, sc] 2 1 = 0 :=
    (bitsAt_byte _ (by decide)).trans (show (2 : Byte).toNat / 32 % 2 = 0 from rfl)
  simp only [serviceFig, Fig.ext, Fig.other, Fig.next, Fig.long, hext, hother, hnext, hlong]
  exact ⟨rfl, rfl, rfl, rfl⟩

/-- FIG 0/0 of an EId at CIF count 7, without a change. -/
def ensembleFig (hi lo : Byte) : Fig := ⟨0, [0, hi, lo, 0, 7]⟩

theorem ensembleFig_ext : (ensembleFig hi lo).ext = 0 := (bitsAt_byte _ (by decide)).trans (show (0 : Byte).toNat / 1 % 32 = 0 from rfl)

theorem ensembleFig_eid : bitsAt (ensembleFig hi lo).field 0 16 = 256 * hi.toNat + lo.toNat := bitsAt_word _ rfl

/-- It gives the EId and the CIF count. -/
theorem fig_ensemble (s : State) (r : Fin 32) : s.fig r (ensembleFig hi lo) =
    s.modDab r fun d => { d with eid := some (BitVec.ofNat 16 (256 * hi.toNat + lo.toNat)), cifCount := 7 } := by
  have hchange : bitsAt (ensembleFig hi lo).field 16 2 = 0 :=
    (bitsAt_byte _ (by decide)).trans (show (0 : Byte).toNat / 64 % 4 = 0 from rfl)
  have hcif : figCif (ensembleFig hi lo).field = 7 := figCif_seven hi lo
  have htype : (ensembleFig hi lo).type = 0 := rfl
  simp only [State.fig, htype, ensembleFig_ext, State.figEnsemble, ensembleFig_eid, hchange, hcif, ne_eq, not_true_eq_false, false_and,
    if_false, zero_ne_one]
  rfl

theorem fig_service (s : State) (r : Fin 32) : s.fig r (serviceFig sh sl ty sc) =
    s.modDab r fun d => ({ d with org := d.org.fig (serviceFig sh sl ty sc) } : DabState).record := by
  obtain ⟨hext, hother, hnext, -⟩ := serviceFig_flags sh sl ty sc
  have htype : (serviceFig sh sl ty sc).type = 0 := rfl
  simp only [State.fig, htype, hext, hother, hnext, ne_eq, not_true_eq_false, if_false, zero_ne_one, Bool.false_eq_true]

/-- A field that is one entry. -/
theorem entries_whole {len : List Byte → Nat} {b : List Byte} (hk : len b = b.length) (hne : b ≠ []) (n : Nat) :
    entries len (n + 2) b = [b] := by
  have hlen : b.length ≠ 0 := fun h => hne (List.length_eq_zero_iff.mp h)
  simp [entries, hk, hne]

/-- The organisation that FIG 0/2 of one service leaves of none. -/
theorem org_service : ({} : DabOrg).fig (serviceFig sh sl ty sc) =
    { services := [(BitVec.ofNat 32 (256 * sh.toNat + sl.toNat), [partEntry [ty, sc]])] } := by
  obtain ⟨hext, -, -, hlong⟩ := serviceFig_flags sh sl ty sc
  have hfield : (serviceFig sh sl ty sc).field = [sh, sl, 1, ty, sc] := rfl
  have hcount : bitsAt [sh, sl, 1, ty, sc] (8 * 2 + 4) 4 = 1 :=
    (bitsAt_byte _ (by decide)).trans (show (1 : Byte).toNat / 1 % 16 = 1 from rfl)
  have hcut := entries_whole (len := fun b => 2 + 1 + 2 * bitsAt b (8 * 2 + 4) 4) (b := [sh, sl, 1, ty, sc]) (by simp only [hcount]; rfl) nofun 30
  simp only [DabOrg.fig, hext, hlong, Fig.cut, hfield, sidLen, Bool.false_eq_true, if_false, hcut, List.foldl_cons, List.foldl_nil,
    serviceEntry_one]
  rfl

end Figs

/-! ### The database (R174, R175) -/

section Database

variable {d : DabState} {k : DabComp} {h : Byte}

/-- A new component takes the lowest free handle. -/
theorem putComp_lowest (hcomps : d.comps = []) (hkept : (k.sid, k.scids) ∉ d.kept.map Prod.snd)
    (hlow : ∀ j, j < h.toNat → byte j ∈ d.kept.map Prod.fst) (hfree : h ∉ d.kept.map Prod.fst) : d.putComp k = { d with comps := [(h, k)] } := by
  have hnew : d.kept.find? (fun e => decide (e.2 = (k.sid, k.scids))) = none := by
    rw [List.find?_eq_none]
    intro e he heq
    exact hkept (List.mem_map.mpr ⟨e, he, of_decide_eq_true heq⟩)
  have hbyte : byte h.toNat = h := by simp [byte]
  have hhandle : ((List.range 256).map byte).find? (fun b => !d.handles.contains b) = some h := by
    rw [List.find?_map, Option.map_eq_some_iff]
    refine ⟨h.toNat, ?_, hbyte⟩
    rw [List.find?_range_eq_some]
    have hhandles : d.handles = d.kept.map Prod.fst := by rw [DabState.handles, hcomps, List.map_nil, List.nil_append]
    have hused (b : Byte) : (!d.handles.contains b) = true ↔ b ∉ d.kept.map Prod.fst := by
      rw [hhandles, Bool.not_eq_true', List.contains_eq_mem, decide_eq_false_iff_not]
    refine ⟨(hused _).mpr (by rwa [hbyte]), List.mem_range.mpr h.isLt, fun j hj => ?_⟩
    rw [Bool.not_eq_true', Bool.eq_false_iff]
    exact fun hnot => (hused _).mp hnot (hlow j hj)
  simp only [DabState.putComp, hcomps, List.findIdx?_nil, hnew, hhandle, List.nil_append]

/-- The component of a service of one primary stream component (R174). -/
def primaryComp (sid : W) (p : DabPart) : DabComp :=
  { sid := sid, scids := 0, tmid := p.tmid, ascty := p.type, subch := byte p.id, scid := 0, paddr := 0, primary := true, ca := p.ca }

theorem parts_primary {sid : W} {p : DabPart} (htmid : p.tmid = 0) (hp : p.primary = true) :
    ({ services := [(sid, [p])] } : DabOrg).parts = [primaryComp sid p] := by
  simp [DabOrg.parts, htmid, hp, primaryComp]

/-- The record of an organisation of one component, from a database without components. -/
theorem record_one (hcomps : d.comps = []) (hparts : d.org.parts = [k]) : d.record = d.putComp k := by
  simp only [DabState.record, hparts, hcomps, List.filter_nil, List.map_nil, List.append_nil, List.foldl_cons, List.foldl_nil]
  rw [← hcomps]

end Database

/-! ### The FIGs of a frame (R170, R174) -/

section Frame

variable {s : State} {r : Fin 32}

theorem toFantail_svc (s : State) (r : Fin 32) (h : Heard) : (s.toFantail r h).svc = s.svc := rfl

theorem foldl_ctx {α : Type} {g : State → α → State} (hg : ∀ t x, (g t x).svc.ctx = t.svc.ctx) (l : List α) (s : State) :
    (l.foldl g s).svc.ctx = s.svc.ctx :=
  List.foldlRecOn (motive := fun t : State => t.svc.ctx = s.svc.ctx) l g rfl fun t ht x _ => (hg t x).trans ht

theorem announce_ctx (s : State) (r : Fin 32) (b : List Byte) : (s.announce r b).svc.ctx = s.svc.ctx := by
  unfold State.announce
  dsimp only
  split
  · rw [raise_svc, modDab_ctx]
  · split
    · rw [raise_svc, modDab_ctx]
    · rfl

theorem figEnsemble_ctx (s : State) (r : Fin 32) (b : List Byte) : (s.figEnsemble r b).svc.ctx = s.svc.ctx := by
  unfold State.figEnsemble
  dsimp only
  split
  · rw [reconfEvent_svc, modDab_ctx, modDab_ctx]
  · rw [modDab_ctx]

/-- A FIG leaves the contexts alone. -/
theorem fig_ctx (s : State) (r : Fin 32) (f : Fig) : (s.fig r f).svc.ctx = s.svc.ctx := by
  unfold State.fig
  split
  · split <;> rfl
  · split
    · rfl
    · split
      · exact figEnsemble_ctx s r _
      · split <;> rfl
      · split <;> rfl
      · split <;> rfl
      · split <;> rfl
      · rfl
      · rfl
      · rfl
      · exact foldl_ctx (fun t b => announce_ctx t r b) _ s
      · split <;> rfl

theorem figs_ctx (s : State) (r : Fin 32) (l : List Fig) : (s.figs r l).svc.ctx = s.svc.ctx := by
  unfold State.figs
  dsimp only
  split
  · split
    · rfl
    · exact foldl_ctx (fun t f => fig_ctx t r f) l s
  · rw [foldl_ctx fun t f => fig_ctx t r f]
    split
    · rw [ficEvent_svc, modDab_ctx, modDab_ctx]
    · rw [modDab_ctx]

theorem figs_nil (s : State) (r : Fin 32) : s.figs r [] = s := by
  simp [State.figs, eidOf]

theorem eidOf_ensemble (hi lo : Byte) (l : List Fig) :
    eidOf (ensembleFig hi lo :: l) = some (BitVec.ofNat 16 (256 * hi.toNat + lo.toNat)) := by
  have htype : (ensembleFig hi lo).type = 0 := rfl
  simp only [eidOf, List.find?_cons, htype, ensembleFig_ext, decide_true, Bool.and_self, Option.map_some, ensembleFig_eid]

/-- The first ensemble and its first service. -/
theorem figs_first {hi lo sh sl ty sc h : Byte} (hty : ty.toNat < 64) (hsc : sc.toNat % 4 = 2) (heid : s.svc.run[r].dab.eid = none)
    (hcomps : s.svc.run[r].dab.comps = []) (horg : s.svc.run[r].dab.org = {})
    (hlow : ∀ j, j < h.toNat → byte j ∈ s.svc.run[r].dab.kept.map Prod.fst) (hfree : h ∉ s.svc.run[r].dab.kept.map Prod.fst)
    (hnew : (BitVec.ofNat 32 (256 * sh.toNat + sl.toNat), 0) ∉ s.svc.run[r].dab.kept.map Prod.snd) :
    s.figs r [ensembleFig hi lo, serviceFig sh sl ty sc] = s.modDab r fun d => { d with
      retuned := false, eid := some (BitVec.ofNat 16 (256 * hi.toNat + lo.toNat)), cifCount := 7
      org := { services := [(BitVec.ofNat 32 (256 * sh.toNat + sl.toNat), [partEntry [ty, sc]])] }
      comps := [(h, primaryComp (BitVec.ofNat 32 (256 * sh.toNat + sl.toNat)) (partEntry [ty, sc]))] } := by
  have hpart := partEntry_primary ty sc hty hsc
  simp only [State.figs, eidOf_ensemble, heid, Option.isSome_none, Bool.false_eq_true, false_and, if_false, List.foldl_cons,
    List.foldl_nil, fig_ensemble, fig_service, modDab_modDab]
  refine modDab_congr s r ?_
  rw [horg, org_service]
  refine (record_one ?_ (parts_primary ?_ ?_)).trans (putComp_lowest ?_ hnew hlow hfree)
  · exact hcomps
  · rw [hpart]
  · rw [hpart]
  · exact hcomps

/-- Another ensemble: the database forgets the one it held. -/
theorem figs_other {hi lo : Byte} {e : BitVec 16} (heid : s.svc.run[r].dab.eid = some e)
    (hne : e ≠ BitVec.ofNat 16 (256 * hi.toNat + lo.toNat)) : (s.figs r [ensembleFig hi lo]).svc.run[r] = { s.svc.run[r] with
      dab := { s.svc.run[r].dab.forget (BitVec.ofNat 16 (256 * hi.toNat + lo.toNat)) with retuned := false, cifCount := 7 } } := by
  have hother : s.svc.run[r].dab.eid.isSome = true ∧ s.svc.run[r].dab.eid ≠ some (BitVec.ofNat 16 (256 * hi.toNat + lo.toNat)) := by
    rw [heid]
    exact ⟨rfl, fun h => hne (Option.some.inj h)⟩
  simp only [State.figs, eidOf_ensemble, if_pos hother, List.foldl_cons, List.foldl_nil, fig_ensemble, modDab_run_same, ficEvent_svc]
  rfl

end Frame

end Sys2Proof.Proofs
end

section
/-!
SUPPORT. Frames of a DAB runner that serves no context (R169, R170, R172, R176): what a frame counts, lock gained and lost, and the database
that its FIGs leave.
-/

namespace Sys2Proof.Proofs

open Sys2Proof Sys2Proof.Machine Sys2Proof.Laws

/-! ### What a frame counts (R169, R172) -/

section Counted

variable {s : State} {rn : Fin 32} {o : DabFrameObs}

/-- The FIGs of a frame's FIBs that passed. -/
def frameFigs (o : DabFrameObs) : List Fig := ((o.fibs.take 12).filter fibOk).flatMap fun b => figsOf 30 (b.take 30)

/-- A frame is counted, and its PRS, FIBs and measurements are kept. -/
def frameCounted (s : State) (r : Fin 32) (o : DabFrameObs) : State :=
  let n := (List.range 12).countP fun i => fibOk (o.fibs.getD i [])
  (((s.runCount r.val 0 n).runCount r.val 1 (12 - n)).runCount r.val 3 (b01 (!o.prsOk))).modDab r fun d => d.frame o

theorem frameCounted_run (s : State) (r : Fin 32) (o : DabFrameObs) :
    (frameCounted s r o).svc.run[r] = { s.svc.run[r] with dab := s.svc.run[r].dab.frame o } := modDab_run_same _ r _

theorem runnerOnly_frameCounted (s : State) (r : Fin 32) (o : DabFrameObs) : RunnerOnly r s (frameCounted s r o) :=
  runnerOnly_modDab (runnerOnly_bump (runnerOnly_bump (runnerOnly_bump (RunnerOnly.refl s) _ _) _ _) _ _) _

/-- One of the FIBs of a frame has passed. -/
theorem fibs_any (h : (o.fibs.take 12).any fibOk = true) : ((List.range 12).map fun i => fibOk (o.fibs.getD i [])).any id = true := by
  obtain ⟨b, hb, hok⟩ := List.any_eq_true.mp h
  obtain ⟨i, hi, rfl⟩ := List.mem_take_iff_getElem.mp hb
  refine List.any_eq_true.mpr ⟨true, List.mem_map.mpr ⟨i, List.mem_range.mpr (by omega), ?_⟩, rfl⟩
  rwa [List.getD_eq_getElem]

end Counted

/-! ### Lock (R169) -/

section Lock

variable {s t : State} {r : Fin 32}

/-- What lock sets. -/
def locked (u : Runner) : Runner := { u with lock := true, dab := { u.dab with lockedEid := u.dab.eid, timeoutRaised := false } }

theorem dabLock_gains (hlock : s.svc.run[r].lock = false) (hprs : 2 ≤ s.svc.run[r].dab.prsOkRun) (hfib : s.svc.run[r].dab.fibSeen = true) :
    s.dabLock r = ((s.modRun r locked).runCount r.val 16 1).lockEvent r 0 [] := if_pos ⟨hlock, hprs, hfib⟩

theorem dabLock_early (hprs : s.svc.run[r].dab.prsOkRun < 2) : s.dabLock r = s := if_neg fun h => absurd h.2.1 (Nat.not_le.mpr hprs)

theorem dabLock_held (hlock : s.svc.run[r].lock = true) : s.dabLock r = s := if_neg fun h => absurd h.1 (ne_false_of_eq_true hlock)

/-- A frame whose PRS correlated, with a FIB that passed or before lock, loses nothing. -/
theorem dabLoss_none (hprs : s.svc.run[r].dab.prsBadRun = 0) (hfib : s.svc.run[r].lock = false ∨ s.svc.run[r].dab.noFibRun = 0) :
    s.dabLoss r = s := by
  have hlocked : ¬(s.svc.run[r].lock = true ∧ (3 ≤ s.svc.run[r].dab.prsBadRun ∨ 10 ≤ s.svc.run[r].dab.noFibRun)) := by
    rintro ⟨hlock, h⟩
    obtain hoff | hzero := hfib
    · exact absurd hlock (ne_true_of_eq_false hoff)
    · omega
  exact (if_neg hlocked).trans (if_neg fun h => by omega)

/-- The third frame in a row that fails ends lock: acquisition starts again. -/
theorem dabLoss_restarts (hlock : s.svc.run[r].lock = true) (hprs : 3 ≤ s.svc.run[r].dab.prsBadRun) (hctx : s.ctxsOf r = []) :
    s.dabLoss r = s.restart r := by
  have hnone : (s.restart r).ctxsOf r = [] := (ctxsOf_congr (runnersOnly_ctx (runnersOnly_restart s r))).trans hctx
  refine (if_pos ⟨hlock, .inl hprs⟩).trans ?_
  simp only [State.ctxsToAcquiring, hnone, List.foldl_nil]

theorem dabComplete_unlocked (hlock : s.svc.run[r].lock = false) (changed : Bool) : s.dabComplete r changed = s := if_pos hlock

/-- While lock holds, the EId counts as locked, and a database that is described is complete (R176). -/
def completed (d : DabState) : DabState :=
  { d with lockedEid := d.eid.orElse fun _ => d.lockedEid, complete := d.complete || d.described }

theorem dabComplete_svc (hlock : s.svc.run[r].lock = true) (changed : Bool) :
    (s.dabComplete r changed).svc = (s.modDab r completed).svc := by
  unfold State.dabComplete
  dsimp only
  rw [if_neg (ne_false_of_eq_true hlock)]
  split
  · next h =>
    have hnow : (s.svc.run[r].dab.complete || s.svc.run[r].dab.described) = true := by rw [h.2, Bool.or_true]
    rw [ficEvent_svc, modDab_modDab]
    exact congrArg State.svc (modDab_congr s r (by simp only [completed, hnow]))
  · next h =>
    have hsame : (s.svc.run[r].dab.complete || s.svc.run[r].dab.described) = s.svc.run[r].dab.complete := by
      cases hc : s.svc.run[r].dab.complete
      · rw [Bool.false_or, Bool.eq_false_iff]
        exact fun hd => h ⟨hc, hd⟩
      · rfl
    have hkept : s.modDab r (fun d => { d with lockedEid := d.eid.orElse fun _ => d.lockedEid }) = s.modDab r completed :=
      modDab_congr s r (by simp only [completed, hsame])
    rw [hkept]
    split
    · exact rest_svc_eq (rest_raiseLimited _ _ _ _ _ _)
    · rfl

theorem runnerOnly_dabLock (h : RunnerOnly r s t) : RunnerOnly r s (t.dabLock r) := by
  unfold State.dabLock
  dsimp only
  split
  · exact runnerOnly_raise (runnerOnly_bump (runnerOnly_modRun h _) _ _) _ _ _
  · exact h

theorem runnerOnly_dabComplete (h : RunnerOnly r s t) (changed : Bool) : RunnerOnly r s (t.dabComplete r changed) := by
  unfold State.dabComplete
  dsimp only
  split
  · exact h
  · split
    · exact runnerOnly_raise (runnerOnly_modDab (runnerOnly_modDab h _) _) _ _ _
    · split
      · exact runnerOnly_trans (runnerOnly_modDab h _) (runnerOnly_of_rest (rest_raiseLimited _ _ _ _ _ _))
      · exact runnerOnly_modDab h _

theorem dabLoss_ctx (hctx : s.ctxsOf r = []) : (s.dabLoss r).svc.ctx = s.svc.ctx := by
  by_cases hlost : s.svc.run[r].lock = true ∧ (3 ≤ s.svc.run[r].dab.prsBadRun ∨ 10 ≤ s.svc.run[r].dab.noFibRun)
  · have hrestart := runnersOnly_ctx (runnersOnly_restart s r)
    have hnone : (s.restart r).ctxsOf r = [] := (ctxsOf_congr hrestart).trans hctx
    simp only [State.dabLoss, hlost, and_self, if_true, State.ctxsToAcquiring, hnone, List.foldl_nil, hrestart]
  · simp only [State.dabLoss, if_neg hlost]
    split
    · rw [modDab_ctx, runnersOnly_ctx (runnersOnly_loseTiming (RunnersOnly.refl s))]
    · rfl

end Lock

/-! ### Acquisition starts again (R169, R171) -/

section Restart

variable {s t : State} {r : Fin 32}

/-- Updates of one runner see the services alone. -/
theorem modRun_svc_congr (h : t.svc = s.svc) (f : Runner → Runner) : (t.modRun r f).svc = (s.modRun r f).svc := by
  rw [modRun_svc, modRun_svc, h]

theorem run_of_svc {f : Runner → Runner} (h : t.svc = (s.modRun r f).svc) : t.svc.run[r] = f s.svc.run[r] :=
  (congrArg (fun v : SvcBlk => v.run[r]) h).trans (modRun_run_same s r f)

/-- A runner without lock. -/
def unlocked (u : Runner) : Runner := { u with lock := false }

theorem loseLock_svc (s : State) (r : Fin 32) : (s.loseLock r).svc = (s.modRun r unlocked).svc := by
  unfold State.loseLock
  split
  · rw [lockEvent_svc, runCount_svc]
    rfl
  · next h =>
    have hoff : unlocked s.svc.run[r] = s.svc.run[r] := by rw [unlocked, ← Bool.eq_false_iff.mpr h]
    rw [modRun_svc, upd_id hoff]

/-- A runner that keeps the superframe synchronisation of some subchannels. -/
def keepsSuper (p : Fin 64 → Bool) (d : DabState) : DabState := { d with superSync := d.superSync.filter fun e => p e.1 }

theorem keepsSuper_keepsSuper (p q : Fin 64 → Bool) (d : DabState) : keepsSuper p (keepsSuper q d) = keepsSuper (fun k => p k && q k) d := by
  simp only [keepsSuper, List.filter_filter]

theorem keepsSuper_all {p : Fin 64 → Bool} {d : DabState} (h : ∀ e ∈ d.superSync, p e.1 = true) : keepsSuper p d = d := by
  rw [keepsSuper, List.filter_eq_self.mpr h]

theorem loseSuper_svc (s : State) (r : Fin 32) (k : Fin 64) :
    (s.loseSuper r k).svc = (s.modDab r (keepsSuper fun j => decide (j ≠ k))).svc := by
  unfold State.loseSuper
  split
  · rw [lockEvent_svc, runCount_svc]
    rfl
  · next h =>
    have hall : ∀ e ∈ s.svc.run[r].dab.superSync, decide (e.1 ≠ k) = true := fun e he =>
      decide_eq_true fun heq => h (List.any_eq_true.mpr ⟨e, he, decide_eq_true heq⟩)
    rw [modDab_id s r (keepsSuper_all hall)]

theorem foldl_loseSuper_svc (l : List (Fin 64)) (s : State) :
    (l.foldl (fun s k => s.loseSuper r k) s).svc = (s.modDab r (keepsSuper fun j => decide (j ∉ l))).svc := by
  induction l generalizing s with
  | nil => rw [modDab_id s r (keepsSuper_all fun _ _ => rfl), List.foldl_nil]
  | cons k l ih =>
    rw [List.foldl_cons, ih, State.modDab, modRun_svc_congr (loseSuper_svc s r k)]
    refine congrArg State.svc ((modDab_modDab s r _ _).trans (modDab_congr s r ?_))
    rw [keepsSuper_keepsSuper]
    simp only [List.mem_cons, not_or, Bool.decide_and, Bool.and_comm]

/-- A runner without frame timing. -/
def untimed (d : DabState) : DabState := { d with timing := false }

theorem loseTiming_svc (ht : s.svc.run[r].dab.timing = true) : (s.loseTiming r).svc = (s.modDab r untimed).svc := by
  simp only [State.loseTiming, ht, if_true, lockEvent_svc]
  rfl

/-- What acquisition that starts again sets beyond what is lost with an event of its own. -/
def acquiring (r : Fin 32) (x : Runner) : Runner := { x with
  gap := none
  carry := if r.val < 24 then x.carry else 0
  fm := { x.fm with since := 0 }
  dab := { x.dab with prsOkRun := 0, prsBadRun := 0, fibSeen := false, noFibRun := 0, stored := 0, ring := [], stamps := [] }
  drm := { x.drm with timeBadRun := 0, facBadRun := 0, stored := 0, cells := [], stamps := [], facValid := false, sdcComplete := false
                      pendingReconf := false, nextConf := none, labels := [], infos := [] } }

/-- What acquisition that starts again leaves of a DAB runner that had frame timing: settings and database. -/
theorem restart_run (ht : s.svc.run[r].dab.timing = true) : (s.restart r).svc.run[r].lock = false ∧
    (s.restart r).svc.run[r].dab = { s.svc.run[r].dab with superSync := [], timing := false, prsOkRun := 0, prsBadRun := 0, fibSeen := false,
                                                           noFibRun := 0, stored := 0, ring := [], stamps := [] } := by
  obtain ⟨t, htdef⟩ : ∃ t, t = (s.loseLock r).loseRdsSync r 15 := ⟨_, rfl⟩
  obtain ⟨u, hudef⟩ : ∃ u, u = (t.svc.run[r].dab.superSync.map Prod.fst).foldl (fun s k => s.loseSuper r k) t := ⟨_, rfl⟩
  have hrestart : s.restart r = ((u.loseTiming r).modRun r (acquiring r)).lockEvent r 2 [] := by
    rw [hudef, htdef]
    rfl
  have hlock := run_of_svc (loseLock_svc s r)
  have hrds := run_of_svc (htdef ▸ loseRdsSync_svc (s.loseLock r) r 15)
  have hsuper := run_of_svc (hudef ▸ foldl_loseSuper_svc (r := r) (t.svc.run[r].dab.superSync.map Prod.fst) t)
  have htdab : t.svc.run[r].dab = s.svc.run[r].dab := by
    rw [hrds, hlock]
    rfl
  have hempty : s.svc.run[r].dab.superSync.filter (fun e => decide (e.1 ∉ s.svc.run[r].dab.superSync.map Prod.fst)) = [] :=
    List.filter_eq_nil_iff.mpr fun e he hnot => of_decide_eq_true hnot (List.mem_map_of_mem he)
  have hudab : u.svc.run[r].dab = { s.svc.run[r].dab with superSync := [] } := by
    rw [hsuper, htdab, ← hempty]
    rfl
  have hulock : u.svc.run[r].lock = false := by
    rw [hsuper, hrds, hlock]
    rfl
  have htiming := run_of_svc (loseTiming_svc (s := u) (r := r) (by rw [hudab]; exact ht))
  rw [hrestart, lockEvent_svc, modRun_run_same, htiming]
  refine ⟨hulock, ?_⟩
  dsimp only [acquiring]
  rw [hudab]
  rfl

end Restart

/-! ### DAB_FRAME_END without contexts -/

section Unserved

variable {s : State} {rn : Fin 32} {o : DabFrameObs}

theorem dropLost_noCtx (h : s.ctxsOf rn = []) : s.dropLost rn = s := by
  simp only [State.dropLost, h, List.foldl_nil]

theorem dabMismatches_noCtx (h : s.ctxsOf rn = []) : s.dabMismatches rn = s := by
  simp only [State.dabMismatches, State.reportMismatch, h, List.foldl_nil]

theorem fibsOut_noCtx (h : s.ctxsOf rn = []) (missed : Nat) : s.fibsOut rn o missed = s := by
  simp only [State.fibsOut, State.ficCtxs, h, List.filter_nil, List.foldl_nil]

/-- The database content has changed with the FIGs of a frame. -/
def contentChanged (s t : State) (r : Fin 32) : Bool := decide (t.svc.run[r].dab.content ≠ s.svc.run[r].dab.content)

/-- A frame without a context: its count, its FIGs, then lock and the completeness of the database. -/
theorem frameEnd_unserved {t : State} (hlo : 24 ≤ rn.val) (hhi : rn.val ≤ 27) (hact : s.svc.run[rn].active = true)
    (ht : s.svc.run[rn].dab.timing = true) (hctx : s.ctxsOf rn = []) (hfigs : (frameCounted s rn o).figs rn (frameFigs o) = t) :
    exec (.dabFrameEnd rn o) s =
      .next (((t.dabLock rn).dabLoss rn).dabComplete rn (contentChanged (frameCounted s rn o) t rn)) := by
  have hnone : t.ctxsOf rn = [] := by
    rw [← hctx, ← hfigs]
    exact ctxsOf_congr (figs_ctx _ _ _)
  have hlock : (t.dabLock rn).ctxsOf rn = [] :=
    (ctxsOf_congr (runnersOnly_ctx (runnersOnly_of_runner (runnerOnly_dabLock (RunnerOnly.refl t))))).trans hnone
  have hloss : ((t.dabLock rn).dabLoss rn).ctxsOf rn = [] := (ctxsOf_congr (dabLoss_ctx hlock)).trans hlock
  have hend (changed : Bool) : (((t.dabLock rn).dabLoss rn).dabComplete rn changed).ctxsOf rn = [] :=
    (ctxsOf_congr (runnersOnly_ctx (runnersOnly_of_runner (runnerOnly_dabComplete (RunnerOnly.refl _) changed)))).trans hloss
  refine congrArg Host.Outcome.next ((if_pos ⟨isDab_of_range hlo hhi, hact, ht⟩).trans ?_)
  change (((((((((frameCounted s rn o).figs rn (frameFigs o)).dropLost rn).dabLock rn).dabLoss rn).dabComplete rn
    (contentChanged (frameCounted s rn o) (((frameCounted s rn o).figs rn (frameFigs o)).dropLost rn) rn)).dabMismatches rn).fibsOut rn o
      _).startReady rn _) = _
  rw [hfigs, dropLost_noCtx hnone, dabMismatches_noCtx (hend _), fibsOut_noCtx (hend _), startReady_noCtx (hend _)]

theorem frameEnd_untimed (h : s.svc.run[rn].dab.timing = false) : exec (.dabFrameEnd rn o) s = .next s :=
  congrArg Host.Outcome.next (if_neg fun hon => absurd hon.2.2 (ne_true_of_eq_false h))

/-- The second frame in a row whose PRS correlates, with a FIB that passed, gives lock (R169). -/
theorem frameEnd_locks (hlo : 24 ≤ rn.val) (hhi : rn.val ≤ 27) (hact : s.svc.run[rn].active = true) (ht : s.svc.run[rn].dab.timing = true)
    (hlock : s.svc.run[rn].lock = false) (hrun : s.svc.run[rn].dab.prsOkRun = 1) (hprs : o.prsOk = true)
    (hfib : (o.fibs.take 12).any fibOk = true) (hfigs : frameFigs o = []) (hctx : s.ctxsOf rn = []) :
    ∃ u : State, exec (.dabFrameEnd rn o) s = .next u ∧ u.svc.run[rn].lock = true ∧ u.svc.run[rn].dab.prsOkRun = 2 ∧
      u.svc.run[rn].dab.prsBadRun = 0 ∧ u.svc.run[rn].dab.noFibRun = 0 ∧ u.svc.run[rn].dab.eid = s.svc.run[rn].dab.eid ∧
      (s.svc.run[rn].dab.eid.isSome = true → u.svc.run[rn].dab.lockedEid = s.svc.run[rn].dab.eid) ∧
      u.svc.run[rn].dab.ticks = (⟨o.powers, o.snr, o.ficBer, o.echo, o.offset, o.spread, o.legSnr⟩ :: s.svc.run[rn].dab.ticks).take 4 ∧
      u.svc.run[rn].dab.nulls = (o.nulls :: s.svc.run[rn].dab.nulls).take 8 ∧
      u.svc.run[rn].dab.fibHist = (((List.range 12).map fun i => fibOk (o.fibs.getD i [])) ++ s.svc.run[rn].dab.fibHist).take 120 ∧
      u.svc.run[rn].dab.comps = s.svc.run[rn].dab.comps ∧ u.svc.ctx = s.svc.ctx ∧
      (∀ r : Fin 32, r ≠ rn → u.svc.run[r] = s.svc.run[r]) ∧ u = { s with svc := u.svc, tlm := u.tlm, host := u.host, evt := u.evt } := by
  have hany := fibs_any hfib
  have hend := frameEnd_unserved hlo hhi hact ht hctx (o := o) (by rw [hfigs, figs_nil])
  obtain ⟨t, htdef⟩ : ∃ t, t = frameCounted s rn o := ⟨_, rfl⟩
  have htrun : t.svc.run[rn] = { s.svc.run[rn] with dab := s.svc.run[rn].dab.frame o } := htdef ▸ frameCounted_run s rn o
  have hok : (s.svc.run[rn].dab.frame o).prsOkRun = 2 := by simp only [DabState.frame, hprs, if_true, hrun]
  have hbad : (s.svc.run[rn].dab.frame o).prsBadRun = 0 := by simp only [DabState.frame, hprs, if_true]
  have hnofib : (s.svc.run[rn].dab.frame o).noFibRun = 0 := by simp only [DabState.frame, hany, if_true]
  have hseen : (s.svc.run[rn].dab.frame o).fibSeen = true := by simp only [DabState.frame, hany, Bool.or_true]
  have hgain : t.dabLock rn = ((t.modRun rn locked).runCount rn.val 16 1).lockEvent rn 0 [] := by
    refine dabLock_gains ?_ ?_ ?_ <;> rw [htrun]
    · exact hlock
    · exact Nat.le_of_eq hok.symm
    · exact hseen
  have hrun1 : (t.dabLock rn).svc.run[rn] = locked { s.svc.run[rn] with dab := s.svc.run[rn].dab.frame o } := by
    rw [hgain, lockEvent_svc, runCount_svc, modRun_run_same, htrun]
  have hkeep : (t.dabLock rn).dabLoss rn = t.dabLock rn := by
    refine dabLoss_none ?_ (.inr ?_) <;> rw [hrun1]
    · exact hbad
    · exact hnofib
  have honly : RunnerOnly rn s ((t.dabLock rn).dabComplete rn (contentChanged t t rn)) :=
    runnerOnly_dabComplete (runnerOnly_dabLock (htdef ▸ runnerOnly_frameCounted s rn o)) _
  have hrun2 := run_of_svc (dabComplete_svc (s := t.dabLock rn) (r := rn) (by rw [hrun1]; rfl) (contentChanged t t rn))
  rw [hrun1] at hrun2
  rw [← htdef, hkeep] at hend
  refine ⟨_, hend, ?_, ?_, ?_, ?_, ?_, fun hsome => ?_, ?_, ?_, ?_, ?_, runnersOnly_ctx (runnersOnly_of_runner honly),
    fun r hr => runnerOnly_run_other honly hr, runnersOnly_eq (runnersOnly_of_runner honly)⟩ <;> rw [hrun2]
  · rfl
  · exact hok
  · exact hbad
  · exact hnofib
  · rfl
  · obtain ⟨e, he⟩ := Option.isSome_iff_exists.mp hsome
    change s.svc.run[rn].dab.eid.orElse _ = s.svc.run[rn].dab.eid
    rw [he]
    rfl
  · rfl
  · rfl
  · rfl
  · rfl

/-- The third frame in a row whose PRS fails ends lock and frame timing (R169). -/
theorem frameEnd_loses (hlo : 24 ≤ rn.val) (hhi : rn.val ≤ 27) (hact : s.svc.run[rn].active = true) (ht : s.svc.run[rn].dab.timing = true)
    (hlock : s.svc.run[rn].lock = true) (hrun : s.svc.run[rn].dab.prsBadRun = 2) (hprs : o.prsOk = false) (hfigs : frameFigs o = [])
    (hctx : s.ctxsOf rn = []) :
    ∃ u : State, exec (.dabFrameEnd rn o) s = .next u ∧ u.svc.run[rn].lock = false ∧ u.svc.run[rn].dab.timing = false ∧
      u.svc.run[rn].dab.stored = 0 ∧ u.svc.run[rn].dab.ring = [] ∧ u.svc.run[rn].dab.superSync = [] ∧
      u.svc.run[rn].dab.eid = s.svc.run[rn].dab.eid ∧ u.svc.run[rn].dab.org = s.svc.run[rn].dab.org ∧ u.svc.ctx = s.svc.ctx ∧
      u = { s with svc := u.svc, tlm := u.tlm, host := u.host, evt := u.evt } := by
  have hend := frameEnd_unserved hlo hhi hact ht hctx (o := o) (by rw [hfigs, figs_nil])
  obtain ⟨t, htdef⟩ : ∃ t, t = frameCounted s rn o := ⟨_, rfl⟩
  have htrun : t.svc.run[rn] = { s.svc.run[rn] with dab := s.svc.run[rn].dab.frame o } := htdef ▸ frameCounted_run s rn o
  have htonly : RunnersOnly s t := runnersOnly_of_runner (htdef ▸ runnerOnly_frameCounted s rn o)
  have hbad : (s.svc.run[rn].dab.frame o).prsBadRun = 3 := by simp only [DabState.frame, hprs, Bool.false_eq_true, if_false, hrun]
  have hkept : t.dabLock rn = t := dabLock_held (by rw [htrun]; exact hlock)
  have hloss : t.dabLoss rn = t.restart rn :=
    dabLoss_restarts (by rw [htrun]; exact hlock) (by rw [htrun]; exact Nat.le_of_eq hbad.symm)
      ((ctxsOf_congr (runnersOnly_ctx htonly)).trans hctx)
  obtain ⟨hoff, hdab⟩ := restart_run (s := t) (r := rn) (by rw [htrun]; exact ht)
  have honly : RunnersOnly s (t.restart rn) := runnersOnly_trans htonly (runnersOnly_restart t rn)
  rw [← htdef, hkept, hloss, dabComplete_unlocked hoff] at hend
  rw [htrun] at hdab
  refine ⟨_, hend, hoff, ?_, ?_, ?_, ?_, ?_, ?_, runnersOnly_ctx honly, runnersOnly_eq honly⟩ <;> rw [hdab] <;> rfl

/-- Before the second frame whose PRS correlates, a frame leaves what its FIGs leave. -/
theorem frameEnd_early (hlo : 24 ≤ rn.val) (hhi : rn.val ≤ 27) (hact : s.svc.run[rn].active = true) (ht : s.svc.run[rn].dab.timing = true)
    (hctx : s.ctxsOf rn = []) {t : State} (hfigs : (frameCounted s rn o).figs rn (frameFigs o) = t) (hlock : t.svc.run[rn].lock = false)
    (hok : t.svc.run[rn].dab.prsOkRun = 1) (hbad : t.svc.run[rn].dab.prsBadRun = 0) : exec (.dabFrameEnd rn o) s = .next t := by
  rw [frameEnd_unserved hlo hhi hact ht hctx hfigs, dabLock_early (by omega), dabLoss_none hbad (.inl hlock), dabComplete_unlocked hlock]

variable {hi lo sh sl ty sc h : Byte}

/-- The first ensemble and its first service enter the database (R170, R174, R175). -/
theorem frameEnd_firstService {l : List (Byte × W × Byte)} (hlo : 24 ≤ rn.val) (hhi : rn.val ≤ 27) (hact : s.svc.run[rn].active = true)
    (ht : s.svc.run[rn].dab.timing = true) (hlock : s.svc.run[rn].lock = false) (hrun : s.svc.run[rn].dab.prsOkRun = 0)
    (hprs : o.prsOk = true) (hfigs : frameFigs o = [ensembleFig hi lo, serviceFig sh sl ty sc]) (hty : ty.toNat < 64)
    (hsc : sc.toNat % 4 = 2) (heid : s.svc.run[rn].dab.eid = none) (hcomps : s.svc.run[rn].dab.comps = [])
    (horg : s.svc.run[rn].dab.org = {}) (hkept : s.svc.run[rn].dab.kept = l) (hctx : s.ctxsOf rn = [])
    (hlow : ∀ j, j < h.toNat → byte j ∈ l.map Prod.fst) (hfree : h ∉ l.map Prod.fst)
    (hnew : (BitVec.ofNat 32 (256 * sh.toNat + sl.toNat), 0) ∉ l.map Prod.snd) :
    ∃ u : State, exec (.dabFrameEnd rn o) s = .next u ∧ u.svc.run[rn].lock = false ∧
      u.svc.run[rn].dab.eid = some (BitVec.ofNat 16 (256 * hi.toNat + lo.toNat)) ∧ u.svc.run[rn].dab.cifCount = 7 ∧
      u.svc.run[rn].dab.kept = l ∧ u.svc.run[rn].dab.comps =
        [(h, { sid := BitVec.ofNat 32 (256 * sh.toNat + sl.toNat), scids := 0, tmid := 0, ascty := ty, subch := byte (sc.toNat / 4), scid := 0
               paddr := 0, primary := true, ca := false })] := by
  subst hkept
  have hcount := frameCounted_run s rn o
  have hrecord := figs_first (s := frameCounted s rn o) (r := rn) (hi := hi) (lo := lo) (h := h) hty hsc (by rw [hcount]; exact heid)
    (by rw [hcount]; exact hcomps) (by rw [hcount]; exact horg) (by rw [hcount]; exact hlow) (by rw [hcount]; exact hfree)
    (by rw [hcount]; exact hnew)
  obtain ⟨t, htdef⟩ : ∃ t, t = (frameCounted s rn o).figs rn (frameFigs o) := ⟨_, rfl⟩
  have htrun := htdef
  rw [hfigs, hrecord] at htrun
  refine ⟨t, frameEnd_early hlo hhi hact ht hctx htdef.symm ?_ ?_ ?_, ?_, ?_, ?_, ?_, ?_⟩ <;> rw [htrun, modDab_run_same, hcount]
  · exact hlock
  · simp only [DabState.frame, hprs, if_true, hrun]
  · simp only [DabState.frame, hprs, if_true]
  · exact hlock
  · rfl
  · rw [partEntry_primary ty sc hty hsc]
    rfl

/-- Another ensemble clears the database and keeps the settings (R170, R175). -/
theorem frameEnd_otherEnsemble {e : BitVec 16} (hlo : 24 ≤ rn.val) (hhi : rn.val ≤ 27) (hact : s.svc.run[rn].active = true)
    (ht : s.svc.run[rn].dab.timing = true) (hlock : s.svc.run[rn].lock = false) (hrun : s.svc.run[rn].dab.prsOkRun = 0)
    (hprs : o.prsOk = true) (hfigs : frameFigs o = [ensembleFig hi lo]) (heid : s.svc.run[rn].dab.eid = some e)
    (hne : e ≠ BitVec.ofNat 16 (256 * hi.toNat + lo.toNat)) (hctx : s.ctxsOf rn = []) :
    ∃ u : State, exec (.dabFrameEnd rn o) s = .next u ∧ u.svc.run[rn].dab.eid = some (BitVec.ofNat 16 (256 * hi.toNat + lo.toNat)) ∧
      u.svc.run[rn].dab.comps = [] ∧ u.svc.run[rn].dab.org = {} ∧ u.svc.run[rn].dab.kept = [] ∧ u.svc.run[rn].dab.label = none ∧
      u.svc.run[rn].dab.complete = false ∧ u.svc.run[rn].dab.retuned = false ∧ u.svc.run[rn].dab.full = s.svc.run[rn].dab.full := by
  have hcount := frameCounted_run s rn o
  have hcleared := figs_other (s := frameCounted s rn o) (r := rn) (hi := hi) (lo := lo) (e := e) (by rw [hcount]; exact heid) hne
  rw [hcount, ← hfigs] at hcleared
  refine ⟨_, frameEnd_early hlo hhi hact ht hctx rfl ?_ ?_ ?_, ?_, ?_, ?_, ?_, ?_, ?_, ?_, ?_⟩ <;> rw [hcleared]
  · exact hlock
  · change (if o.prsOk then s.svc.run[rn].dab.prsOkRun + 1 else 0) = 1
    rw [hprs, hrun]
    rfl
  · change (if o.prsOk then 0 else _) = 0
    rw [hprs]
    rfl
  all_goals rfl

end Unserved

end Sys2Proof.Proofs
end

section
/-!
SUPPORT. Handles that expire (R175, R21) and the CIFs of a DAB runner (R172, R173, R177, R193): soft values and the ring of stored CIFs.
-/

namespace Sys2Proof.Proofs

open Sys2Proof Sys2Proof.Machine Sys2Proof.Laws

/-! ### DAB_HANDLE_EXPIRY (R175, R21) -/

section Expiry

variable {s : State} {rn : Fin 32} {h : Byte} {ctx : Fin 256}

/-- A database without the component of a handle. -/
def expired (h : Byte) (d : DabState) : DabState := { d with
  org := match d.byHandle h.toNat with | some k => d.org.without k | none => d.org
  comps := d.comps.filter fun e => decide (e.1 ≠ h), kept := d.kept.filter fun e => decide (e.1 ≠ h) }

theorem expired_same (h : Byte) (d : DabState) : (expired h d).byHandle h.toNat = none := by
  rw [DabState.byHandle, Option.map_eq_none_iff, List.find?_eq_none]
  intro e he heq
  exact of_decide_eq_true (List.mem_filter.mp he).2 (BitVec.eq_of_toNat_eq (of_decide_eq_true heq))

theorem expired_other {k : Byte} (hk : k ≠ h) (d : DabState) : (expired h d).byHandle k.toNat = d.byHandle k.toNat := by
  have hboth (e : Byte × DabComp) : (decide (e.1 ≠ h) && decide (e.1.toNat = k.toNat)) = decide (e.1.toNat = k.toNat) := by
    by_cases he : e.1.toNat = k.toNat
    · rw [BitVec.eq_of_toNat_eq he, decide_eq_true hk, Bool.true_and]
    · rw [decide_eq_false he, Bool.and_false]
  simp only [DabState.byHandle, expired, List.find?_filter, Bool.decide_and, Bool.decide_eq_true, hboth]

theorem handleExpiry_eq (hlo : 24 ≤ rn.val) (hhi : rn.val ≤ 27) (h : Byte) :
    exec (.dabHandleExpiry rn h) s = .next ((s.modDab rn (expired h)).dropLost rn) :=
  congrArg Host.Outcome.next (if_pos (isDab_of_range hlo hhi))

theorem moveCtx_run (s : State) (c : Fin 256) (new : CtxState) (reason : Nat) : (s.moveCtx c new reason).svc.run = s.svc.run := by
  unfold State.moveCtx
  dsimp only
  split
  · rfl
  · rw [raise_svc, modCtx_svc]

theorem dropLost_run (s : State) (r : Fin 32) : (s.dropLost r).svc.run = s.svc.run := by
  refine List.foldlRecOn (motive := fun t : State => t.svc.run = s.svc.run) _ _ rfl fun t ht c _ => ?_
  dsimp only
  split
  · exact (moveCtx_run t c _ _).trans ht
  · exact ht

/-- The handle is free, and no other one changes. -/
theorem handleExpiry_frees (hlo : 24 ≤ rn.val) (hhi : rn.val ≤ 27) : ∃ u : State, exec (.dabHandleExpiry rn h) s = .next u ∧
    u.svc.run[rn].dab.byHandle h.toNat = none ∧
    (∀ k : Byte, k ≠ h → u.svc.run[rn].dab.byHandle k.toNat = s.svc.run[rn].dab.byHandle k.toNat) ∧
    (s.ctxsOf rn = [] → u.svc.ctx = s.svc.ctx ∧ u = { s with svc := u.svc }) := by
  have hrun : ((s.modDab rn (expired h)).dropLost rn).svc.run[rn] = { s.svc.run[rn] with dab := expired h s.svc.run[rn].dab } :=
    (congrArg (fun v : Vector Runner 32 => v[rn]) (dropLost_run _ rn)).trans (modDab_run_same s rn _)
  refine ⟨_, handleExpiry_eq hlo hhi h, ?_, fun k hk => ?_, fun hctx => ?_⟩
  · rw [hrun]
    exact expired_same h _
  · rw [hrun]
    exact expired_other hk _
  · rw [dropLost_noCtx (s := s.modDab rn (expired h)) hctx]
    exact ⟨rfl, rfl⟩

/-- A RUNNING context on the handle moves to ACQUIRING. -/
theorem handleExpiry_moves (hlo : 24 ≤ rn.val) (hhi : rn.val ≤ 27) (hctx : s.ctxsOf rn = [ctx]) (hst : s.svc.ctx[ctx].st = .running)
    (haddr : compAddr s.svc.ctx[ctx].component = 1) (hid : compId s.svc.ctx[ctx].component = h.toNat) :
    ∃ u : State, exec (.dabHandleExpiry rn h) s = .next u ∧ u.svc.ctx[ctx].st = .acquiring ∧
      u.svc.ctx[ctx].seq = s.svc.ctx[ctx].seq ∧ (∀ k : Fin 256, k ≠ ctx → u.svc.ctx[k] = s.svc.ctx[k]) := by
  obtain ⟨t, htdef⟩ : ∃ t, t = s.modDab rn (expired h) := ⟨_, rfl⟩
  have htctx : t.svc.ctx = s.svc.ctx := by rw [htdef]; rfl
  have hgone : t.svc.run[rn].dab.component s.svc.ctx[ctx] = none := by
    rw [htdef, modDab_run_same]
    simp only [DabState.component, haddr, hid]
    exact expired_same h _
  have hdrop : t.dropLost rn = t.moveCtx ctx .acquiring 3 := by
    simp only [State.dropLost, (ctxsOf_congr htctx).trans hctx, List.foldl_cons, List.foldl_nil, htctx, hst, haddr, hgone, Option.isNone_none,
      ne_eq, OfNat.one_ne_ofNat, not_false_eq_true, and_self, if_true]
  have hsvc := rest_svc_eq (rest_moveCtx (s := t) (c := ctx) (new := .acquiring) (by rw [htctx, hst]; exact nofun) 3)
  rw [modCtx_svc, htctx] at hsvc
  refine ⟨_, handleExpiry_eq hlo hhi h, ?_⟩
  rw [← htdef, hdrop, hsvc]
  refine ⟨?_, ?_, fun k hk => upd_other _ _ _ _ hk.symm⟩ <;> dsimp only <;> rw [upd_same]

end Expiry

/-! ### Soft values (R172, R173) -/

section Soft

theorem quant4_bounds (a : Int) (b : Nat) : -7 ≤ quant4 a b ∧ quant4 a b ≤ 7 := by
  have hle : (List.range 7).countP (fun k => decide (b ≠ 0) && decide ((2 * k + 1) * (2 * k + 1) * b ≤ 4 * a.natAbs * a.natAbs)) ≤ 7 :=
    List.countP_le_length
  unfold quant4
  dsimp only
  split <;> omega

theorem quant4_zero (a : Int) : quant4 a 0 = 0 := by
  simp [quant4]

theorem cellSoft_noLeg (frames : Nat) : cellSoft frames [] = (0, 0) := by
  have hmag : mag2 (csum []) = 0 := rfl
  simp only [cellSoft, List.map_nil, hmag, Nat.mul_zero, quant4_zero]

variable {u : Runner} {legs : List (Fin 4)} {o : DabCifObs} {v : Int}

/-- A soft value of a CIF is one of the two of a cell, and without a leg of a cell without one. -/
theorem mem_soft (h : v ∈ (u.cifRec legs o).1.soft) : ∃ (frames : Nat) (on : List LegCell),
    (v = (cellSoft frames on).1 ∨ v = (cellSoft frames on).2) ∧ (legs = [] → on = []) := by
  obtain ⟨l, -, hl⟩ := List.mem_flatMap.mp h
  simp only [Runner.symbolSoft, List.map_map, List.mem_append, List.mem_map, Function.comp_apply] at hl
  obtain ⟨k, -, rfl⟩ | ⟨k, -, rfl⟩ := hl
  · exact ⟨_, _, .inl rfl, fun hlegs => by simp [hlegs, Runner.symbolLegs]⟩
  · exact ⟨_, _, .inr rfl, fun hlegs => by simp [hlegs, Runner.symbolLegs]⟩

theorem soft_bounds (h : v ∈ (u.cifRec legs o).1.soft) : -7 ≤ v ∧ v ≤ 7 := by
  obtain ⟨frames, on, rfl | rfl, -⟩ := mem_soft h
  · exact quant4_bounds _ _
  · exact quant4_bounds _ _

theorem soft_noLeg (h : v ∈ (u.cifRec [] o).1.soft) : v = 0 := by
  obtain ⟨frames, on, hv, hon⟩ := mem_soft h
  rw [hon rfl, cellSoft_noLeg] at hv
  exact hv.elim id id

theorem erased_noLeg (u : Runner) (o : DabCifObs) : (u.cifRec [] o).1.erased = List.range 18 := by
  refine List.filter_eq_self.mpr fun l hl => ?_
  rw [List.getD_eq_getElem _ _ (by simpa using hl), List.getElem_map]
  rfl

end Soft

/-! ### A CIF that is stored (R177) -/

section Stored

variable {s : State} {rn : Fin 32} {o : DabCifObs}

/-- A CIF is counted and stored. -/
def cifStored (s : State) (r : Fin 32) (o : DabCifObs) : State := (s.runCount r.val 2 1).modRun r fun u => u.storeCif (s.legsOf r) o

theorem cifStored_run (s : State) (r : Fin 32) (o : DabCifObs) : (cifStored s r o).svc.run[r] = s.svc.run[r].storeCif (s.legsOf r) o :=
  modRun_run_same _ r _

/-- The newest CIF of a ring has erased cells in the subchannel of a context (R190). -/
def spansErased (d : DabState) (x : Ctx) : Bool := (d.ring.head?.map fun e => e.spans (d.subOf x)).getD false

theorem adopt_none {d : DabState} (h : d.next = none) : d.adopt = d := by
  simp only [DabState.adopt, h]

/-- A CIF with nothing before it that changes settings, frames or organisation. -/
theorem cif_plain (hlo : 24 ≤ rn.val) (hhi : rn.val ≤ 27) (hact : s.svc.run[rn].active = true) (ht : s.svc.run[rn].dab.timing = true)
    (hnext : s.svc.run[rn].dab.next = none) (hlast : s.svc.run[rn].dab.lastTs = none) (hreconf : s.svc.run[rn].dab.reconf = none) :
    exec (.dabCif rn o) s = .next
      (if (cifStored s rn o).svc.run[rn].dab.stored < 16 ∨
          ((cifStored s rn o).erasedFrame rn 24 (spansErased (cifStored s rn o).svc.run[rn].dab)).svc.run[rn].lock = false then
        ((cifStored s rn o).erasedFrame rn 24 (spansErased (cifStored s rn o).svc.run[rn].dab)).lostFrames rn 24 1
      else ((cifStored s rn o).erasedFrame rn 24 (spansErased (cifStored s rn o).svc.run[rn].dab)).logical rn o.pad) := by
  have hadopt : s.modDab rn DabState.adopt = s := modDab_id s rn (adopt_none hnext)
  have hlost : s.lostFrames rn 24 (framesMissed s.svc.run[rn].dab.lastTs o.ts 17694720) = s := by
    rw [hlast]
    rfl
  have hsame : s.reconfigure rn o.cif = s := by simp only [State.reconfigure, hreconf]
  refine congrArg Host.Outcome.next ((if_pos ⟨isDab_of_range hlo hhi, hact, ht⟩).trans ?_)
  simp only [hadopt, hlost, hsame]
  rfl

theorem cif_untimed (h : s.svc.run[rn].dab.timing = false) : exec (.dabCif rn o) s = .next s :=
  congrArg Host.Outcome.next (if_neg fun hon => absurd hon.2.2 (ne_true_of_eq_false h))

theorem erasedFrame_noCtx (h : s.ctxsOf rn = []) (ms : Nat) (p : Ctx → Bool) : s.erasedFrame rn ms p = s := by
  simp only [State.erasedFrame, h, List.foldl_nil]

theorem lostFrames_noCtx (h : s.ctxsOf rn = []) (ms n : Nat) : s.lostFrames rn ms n = s := by
  simp only [State.lostFrames, h, List.foldl_nil, ite_self]

/-- A CIF before the 16th, of a runner that serves no context. -/
theorem cif_stores {e : CifRec} (hlo : 24 ≤ rn.val) (hhi : rn.val ≤ 27) (hact : s.svc.run[rn].active = true)
    (ht : s.svc.run[rn].dab.timing = true) (hnext : s.svc.run[rn].dab.next = none) (hlast : s.svc.run[rn].dab.lastTs = none)
    (hstored : s.svc.run[rn].dab.stored < 15) (hreconf : s.svc.run[rn].dab.reconf = none) (hctx : s.ctxsOf rn = [])
    (he : e = (s.svc.run[rn].cifRec (s.legsOf rn) o).1) :
    ∃ u : State, exec (.dabCif rn o) s = .next u ∧ u.svc.run[rn].dab.stored = s.svc.run[rn].dab.stored + 1 ∧
      u.svc.run[rn].dab.cifCount = o.cif ∧ u.svc.run[rn].dab.lastTs = some o.ts ∧
      u.svc.run[rn].dab.stamps = (o.ts :: s.svc.run[rn].dab.stamps).take 64 ∧
      u.svc.run[rn].dab.ring = (e :: s.svc.run[rn].dab.ring).take 16 ∧ e.ts = o.ts ∧ e.subs = s.svc.run[rn].dab.org.subs ∧
      (∀ v ∈ e.soft, -7 ≤ v ∧ v ≤ 7) ∧ (s.legsOf rn = [] → e.erased = List.range 18 ∧ ∀ v ∈ e.soft, v = 0) ∧
      u.svc.run[rn].carry = 0 ∧ u.svc.ctx = s.svc.ctx ∧ u = { s with svc := u.svc, tlm := (s.runCount rn.val 2 1).tlm } := by
  subst he
  have hnone : (cifStored s rn o).ctxsOf rn = [] := hctx
  have hrun := cifStored_run s rn o
  have hcount : (cifStored s rn o).svc.run[rn].dab.stored = s.svc.run[rn].dab.stored + 1 := by
    rw [hrun]
    exact Nat.min_eq_right (by omega)
  have hexec : exec (.dabCif rn o) s = .next (cifStored s rn o) := by
    rw [cif_plain hlo hhi hact ht hnext hlast hreconf, erasedFrame_noCtx hnone, if_pos (.inl (by omega)), lostFrames_noCtx hnone]
  refine ⟨_, hexec, hcount, ?_, ?_, ?_, ?_, rfl, rfl, fun v => soft_bounds, fun hlegs => ?_, ?_, rfl, rfl⟩
  case refine_5 =>
    rw [hlegs]
    exact ⟨erased_noLeg _ o, fun v => soft_noLeg⟩
  all_goals rw [hrun]; rfl

end Stored

end Sys2Proof.Proofs
end

section
/-!
SUPPORT. The logical frame that the 16th stored CIF completes, as it reaches one data context (R10, R11, R177, R178, R188), MOT objects that
time out (R189), and the DAB runners as the statement about them has it.
-/

namespace Sys2Proof.Proofs

open Sys2Proof Sys2Proof.Machine Sys2Proof.Laws

/-! ### A unit that waits in data staging (R10 to R12, R64) -/

section Staging

variable {s t : State} {c : Fin 256} {payload : List Byte} {ts : D} {tag : W}

/-- A RUNNING context of KIND 1 that stages nothing, has no loss to report and delivers every frame, while its ring takes no entry. -/
structure IdleStream (s : State) (c : Fin 256) : Prop where
  st : s.svc.ctx[c].st = .running
  kind : s.svc.ctx[c].kind = 1
  skip : s.svc.ctx[c].skip = 0
  staged : s.svc.ctx[c].staged = []
  lost : s.svc.ctx[c].lost = 0
  disc : s.svc.ctx[c].discDue = false
  ring : s.ringUp s.svc.ctx[c].ring = false

theorem IdleStream.congr (h : IdleStream s c) (hctx : t.svc.ctx = s.svc.ctx) (hhost : t.host = s.host) : IdleStream t c := by
  have hup (n : Fin 32) : t.ringUp n = s.ringUp n := by simp only [State.ringUp, State.hostUp, hhost]
  constructor <;> simp only [hctx, hup]
  exacts [h.st, h.kind, h.skip, h.staged, h.lost, h.disc, h.ring]

theorem IdleStream.isData (h : IdleStream s c) : s.svc.ctx[c].isData = true := by
  rw [Ctx.isData, h.kind]
  rfl

theorem drainStaged_ringDown {u : Unit1} {l : List Unit1} (hst : s.svc.ctx[c].staged = u :: l) (hring : s.ringUp u.ring = false) (n : Nat) :
    s.drainStaged n c = s := by
  cases n with
  | zero => rfl
  | succ n => simp only [State.drainStaged, hst, hring, Bool.false_and, Bool.false_eq_true, if_false]

/-- The reserved share of an open data context with nothing staged is free (R11). -/
theorem stagingFree_share (hst : s.svc.ctx[c].st ≠ .free) (hdata : s.svc.ctx[c].isData = true) (hempty : s.svc.ctx[c].staged = []) :
    stagingShare ≤ s.stagingFree c := by
  have hbytes : s.svc.ctx[c].stagedBytes = 0 := by
    rw [Ctx.stagedBytes, hempty]
    rfl
  simp only [State.stagingFree, hst, hdata, hbytes, ne_eq, not_false_eq_true, and_self, if_true, Nat.sub_zero]
  exact Nat.le_add_right _ _

/-- The unit that a context without losses sends. -/
def cleanUnit (s : State) (c : Fin 256) (payload : List Byte) (ts : D) (tag : W) : Unit1 :=
  { payload := payload, ts := ts, seq := s.svc.ctx[c].seq, lost := 0, mask := s.runnerMask s.svc.ctx[c].runner, disc := false, tag := tag
    written := 0, mot := none, gen := s.svc.ctx[c].gen, kind := s.svc.ctx[c].kind, ring := s.svc.ctx[c].ring }

/-- A unit becomes all that a context stages. -/
def stages (u : Unit1) (x : Ctx) : Ctx := { x with seq := x.seq + 1, staged := [u] }

/-- A unit within the reserved share waits in staging. -/
theorem deliver_stages (h : IdleStream s c) (hlen : payload.length ≤ stagingShare) :
    s.deliver c payload ts tag 0 false none = s.modCtx c (stages (cleanUnit s c payload ts tag)) := by
  obtain ⟨t, htdef⟩ : ∃ t, t = s.modCtx c fun x => { x with seq := x.seq + 1 } := ⟨_, rfl⟩
  have htctx : t.svc.ctx[c] = { s.svc.ctx[c] with seq := s.svc.ctx[c].seq + 1 } := by
    rw [htdef]
    exact upd_same _ _ _
  have hroom : payload.length ≤ t.stagingFree c := by
    refine Nat.le_trans hlen (stagingFree_share ?_ ?_ ?_) <;> rw [htctx]
    · exact h.st ▸ nofun
    · exact h.isData
    · exact h.staged
  have hstaged : (t.modCtx c fun x => { x with staged := x.staged ++ [cleanUnit s c payload ts tag], lost := 0, discDue := false }) =
      s.modCtx c (stages (cleanUnit s c payload ts tag)) := by
    rw [htdef, modCtx_modCtx]
    refine modCtx_congr ?_
    simp only [stages, h.staged, List.nil_append, ← h.lost, ← h.disc]
  have hunit : (s.modCtx c (stages (cleanUnit s c payload ts tag))).svc.ctx[c].staged = [cleanUnit s c payload ts tag] :=
    congrArg Ctx.staged (upd_same _ _ _)
  have hnodisc : (s.svc.ctx[c].discDue || false || decide (s.svc.ctx[c].lost + 0 ≠ 0)) = false := by
    rw [h.disc, h.lost]
    rfl
  have hnolost : satAdd (2 ^ 24 - 1) s.svc.ctx[c].lost 0 = 0 := by
    rw [h.lost]
    rfl
  simp only [State.deliver, hnodisc, hnolost, Bool.false_eq_true, if_false, Option.isSome_none, Bool.false_or, ← htdef, hroom, decide_true, if_true]
  exact (congrArg (fun v : State => v.drainStaged v.svc.ctx[c].pieces c) hstaged).trans (drainStaged_ringDown hunit h.ring _)

end Staging

/-! ### A logical frame for one context (R177, R178, R188) -/

section Logical

variable {s : State} {rn : Fin 32} {ctx : Fin 256} {b : DabSub} {d : DabState}

theorem mem_ctxsOf {c : Fin 256} : c ∈ s.ctxsOf rn ↔ s.svc.ctx[c].runner = rn ∧ s.svc.ctx[c].st ≠ .free := by
  simp only [State.ctxsOf, allIx, List.mem_filter, List.mem_finRange, true_and, Bool.and_eq_true, decide_eq_true_eq]

/-- A context that keeps its runner and its state is served as before. -/
theorem ctxsOf_modCtx {f : Ctx → Ctx} (hrun : (f s.svc.ctx[ctx]).runner = s.svc.ctx[ctx].runner)
    (hst : (f s.svc.ctx[ctx]).st = s.svc.ctx[ctx].st) : (s.modCtx ctx f).ctxsOf rn = s.ctxsOf rn := by
  unfold State.ctxsOf allIx
  refine List.filter_congr fun c _ => ?_
  by_cases hc : ctx = c
  · subst hc
    simp only [modCtx_svc, upd_same, hrun, hst]
  · simp only [modCtx_svc, upd_other _ _ _ _ hc]

theorem needsSuper_stream {x : Ctx} (h : x.kind = 1) : x.needsSuper = false := by
  simp [Ctx.needsSuper, h]

/-- No superframe synchronisation is gained for a context that needs none (R186). -/
theorem superFrame_unneeded (hctx : s.ctxsOf rn = [ctx]) (hneed : s.svc.ctx[ctx].needsSuper = false)
    (hnone : s.svc.run[rn].dab.superSync = []) (sub : Fin 64) (ok : Bool) : s.superFrame rn sub ok = s := by
  simp only [State.superFrame, hctx, hneed, hnone, List.any_cons, List.any_nil, Bool.false_and, Bool.or_self, List.find?_nil,
    Option.map_none, Bool.false_eq_true, and_false, if_false]

theorem startReady_running (hctx : s.ctxsOf rn = [ctx]) (hst : s.svc.ctx[ctx].st = .running) (p : Ctx → Bool) : s.startReady rn p = s := by
  simp only [State.startReady, hctx, List.foldl_cons, List.foldl_nil, hst, reduceCtorEq, false_and, if_false]

/-- A RUNNING stream context takes the logical frame of its subchannel as a unit (R188). -/
theorem ctxFrames_stream {bytes : List Byte} {pad : List (Fin 64 × List Byte)} {ts : D} (hctx : s.ctxsOf rn = [ctx])
    (h : IdleStream s ctx) (hsub : s.svc.run[rn].dab.subOf s.svc.ctx[ctx] = some b.id) :
    s.ctxFrames rn [(b.id, bytes)] pad ts = s.deliver ctx bytes ts (BitVec.ofNat 32 b.id.val) 0 false none := by
  have hrn : s.svc.ctx[ctx].runner = rn := (mem_ctxsOf.mp (hctx ▸ List.mem_cons_self)).1
  have hkind : s.svc.ctx[ctx].kind.toNat = 1 := congrArg BitVec.toNat h.kind
  have hframe : s.ctxFrame rn ctx [(b.id, bytes)] pad ts = s.giveUnit rn ctx bytes (BitVec.ofNat 32 b.id.val) ts none := by
    simp only [State.ctxFrame, hkind, hsub, List.find?_cons, decide_true]
  simp only [State.ctxFrames, hctx, List.foldl_cons, List.foldl_nil, h.skip, takesUnit_running h.st hrn, hframe, ne_eq, not_true_eq_false,
    if_false, if_true, State.giveUnit, h.isData, and_self, h.st, reduceCtorEq]

theorem frameBytes_plain (h : b.id ∉ d.fec) : (d.frameBytes b).1 = logicalFrame d.ring b := by
  have hno : d.fec.contains b.id = false := by rwa [List.contains_eq_mem, decide_eq_false_iff_not]
  simp only [DabState.frameBytes, hno, Bool.false_eq_true, if_false]

theorem logicalFrame_length (ring : List CifRec) (b : DabSub) : (logicalFrame ring b).length = 3 * b.kbps := by
  rw [logicalFrame, List.length_map, List.length_range]

/-- A subchannel with an open context is decoded, whether or not every one is (R178). -/
theorem decodedSubs_open (hctx : s.ctxsOf rn = [ctx]) (hwhole : wholeSubs s.svc.run[rn].dab.ring = [b])
    (hsub : s.svc.run[rn].dab.subOf s.svc.ctx[ctx] = some b.id) : s.decodedSubs rn = [b] := by
  have hopen : (s.openSubs rn).contains b.id = true := by
    simp only [State.openSubs, hctx, List.filterMap_cons, hsub, List.filterMap_nil, List.contains_cons, BEq.rfl, Bool.true_or]
  simp only [State.decodedSubs, hwhole, List.filter_cons, hopen, Bool.or_true, if_true, List.filter_nil]

/-- The logical frame of a runner whose only context takes a subchannel without FEC goes to data staging. -/
theorem logical_stages (hrun : s.svc.run[rn].dab = d) (hctx : s.ctxsOf rn = [ctx]) (h : IdleStream s ctx) (hwhole : wholeSubs d.ring = [b])
    (hfec : b.id ∉ d.fec) (hsuper : d.superSync = []) (hsub : d.subOf s.svc.ctx[ctx] = some b.id) (hsize : 3 * b.kbps ≤ stagingShare)
    (pad : List (Fin 64 × List Byte)) : s.logical rn pad = (s.modDab rn fun d => d.decoded [b]).modCtx ctx
      (stages (cleanUnit s ctx (logicalFrame d.ring b) (d.stamps.getD 15 0) (BitVec.ofNat 32 b.id.val))) := by
  subst hrun
  obtain ⟨w, hwdef⟩ : ∃ w, w = s.modDab rn fun d => d.decoded [b] := ⟨_, rfl⟩
  have hwrun : w.svc.run[rn].dab = s.svc.run[rn].dab.decoded [b] := by rw [hwdef, modDab_run_same]
  have hwctx : w.svc.ctx = s.svc.ctx := by rw [hwdef, modDab_ctx]
  have hwctxs : w.ctxsOf rn = [ctx] := (ctxsOf_congr hwctx).trans hctx
  have hw : IdleStream w ctx := h.congr hwctx (by rw [hwdef]; rfl)
  have hnosuper : w.superFrame rn b.id (fireOk (logicalFrame s.svc.run[rn].dab.ring b)) = w :=
    superFrame_unneeded hwctxs (needsSuper_stream hw.kind) (by rw [hwrun]; exact hsuper) _ _
  have hframes (ts : D) : w.ctxFrames rn [(b.id, logicalFrame s.svc.run[rn].dab.ring b)] pad ts =
      w.modCtx ctx (stages (cleanUnit w ctx (logicalFrame s.svc.run[rn].dab.ring b) ts (BitVec.ofNat 32 b.id.val))) := by
    rw [ctxFrames_stream hwctxs hw (by rw [hwctx, hwrun]; exact hsub), deliver_stages hw (by rwa [logicalFrame_length])]
  have hready (u : Unit1) (p : Ctx → Bool) : (w.modCtx ctx (stages u)).startReady rn p = w.modCtx ctx (stages u) := by
    refine startReady_running ((ctxsOf_modCtx rfl rfl).trans hwctxs) ?_ p
    rw [modCtx_svc, upd_same]
    exact hw.st
  simp only [State.logical, decodedSubs_open hctx hwhole hsub, List.map_cons, List.map_nil, frameBytes_plain hfec, ← hwdef, List.foldl_cons,
    List.foldl_nil, hnosuper, hframes, hready]
  rw [hwdef]
  rfl

/-- A CIF none of whose symbols is erased marks no context (R190). -/
theorem spansErased_none {u : Runner} {legs : List (Fin 4)} {o : DabCifObs} (h : (u.cifRec legs o).1.erased = []) (x : Ctx) :
    spansErased (u.storeCif legs o).dab x = false := by
  change (u.cifRec legs o).1.spans _ = false
  simp only [CifRec.spans, h, List.any_nil, Bool.and_false, List.any_eq_false]
  exact fun _ _ => Bool.false_ne_true

theorem erasedFrame_none (hctx : s.ctxsOf rn = [ctx]) {p : Ctx → Bool} (hp : p s.svc.ctx[ctx] = false) (ms : Nat) :
    s.erasedFrame rn ms p = { s with freeCnt := s.freeCnt + 1 } := by
  simp only [State.erasedFrame, hctx, List.foldl_cons, List.foldl_nil]
  exact modCtx_id (s := { s with freeCnt := s.freeCnt + 1 }) (by rw [hp]; rfl)

/-- The 16th CIF gives the logical frame that it completes to the context. -/
theorem cif_delivers {o : DabCifObs} (hlo : 24 ≤ rn.val) (hhi : rn.val ≤ 27) (hact : s.svc.run[rn].active = true)
    (ht : s.svc.run[rn].dab.timing = true) (hlock : s.svc.run[rn].lock = true) (hnext : s.svc.run[rn].dab.next = none)
    (hlast : s.svc.run[rn].dab.lastTs = none) (hstored : 15 ≤ s.svc.run[rn].dab.stored) (hreconf : s.svc.run[rn].dab.reconf = none)
    (hd : d = (s.svc.run[rn].storeCif (s.legsOf rn) o).dab) (herased : (s.svc.run[rn].cifRec (s.legsOf rn) o).1.erased = [])
    (hwhole : wholeSubs d.ring = [b]) (hfec : b.id ∉ d.fec) (hsuper : d.superSync = []) (hctx : s.ctxsOf rn = [ctx])
    (hidle : IdleStream s ctx) (hsub : d.subOf s.svc.ctx[ctx] = some b.id) (hsize : 3 * b.kbps ≤ 2048) :
    ∃ (u : State) (v : Unit1), exec (.dabCif rn o) s = .next u ∧ u.svc.ctx[ctx].staged = [v] ∧ v.payload = logicalFrame d.ring b ∧
      v.payload.length = 3 * b.kbps ∧ v.ts = d.stamps.getD 15 0 ∧ v.tag = BitVec.ofNat 32 b.id.val ∧ v.seq = s.svc.ctx[ctx].seq ∧
      v.lost = 0 ∧ v.disc = false ∧ v.written = 0 ∧ u.svc.ctx[ctx].seq = s.svc.ctx[ctx].seq + 1 ∧ u.svc.ctx[ctx].st = .running ∧
      (∀ k : Fin 256, k ≠ ctx → u.svc.ctx[k] = s.svc.ctx[k]) ∧
      u = { s with svc := u.svc, freeCnt := s.freeCnt + 1, tlm := (s.runCount rn.val 2 1).tlm } := by
  obtain ⟨t, htdef⟩ : ∃ t : State, t = { cifStored s rn o with freeCnt := s.freeCnt + 1 } := ⟨_, rfl⟩
  have hstore := cifStored_run s rn o
  have htrun : t.svc.run[rn] = s.svc.run[rn].storeCif (s.legsOf rn) o := htdef ▸ hstore
  have htctx : t.svc.ctx = s.svc.ctx := by rw [htdef]; rfl
  have hread : (cifStored s rn o).erasedFrame rn 24 (spansErased (cifStored s rn o).svc.run[rn].dab) = t := by
    have hclean : spansErased (cifStored s rn o).svc.run[rn].dab (cifStored s rn o).svc.ctx[ctx] = false := by
      rw [hstore]
      exact spansErased_none herased _
    rw [htdef]
    exact erasedFrame_none (s := cifStored s rn o) hctx hclean 24
  have hfull : ¬((cifStored s rn o).svc.run[rn].dab.stored < 16 ∨ t.svc.run[rn].lock = false) := by
    have hcount : (s.svc.run[rn].storeCif (s.legsOf rn) o).dab.stored = 16 := Nat.min_eq_left (by omega)
    rw [hstore, hcount, htrun]
    exact not_or.mpr ⟨Nat.lt_irrefl 16, ne_false_of_eq_true hlock⟩
  have hlogical := logical_stages (s := t) (rn := rn) (by rw [htrun, hd]) ((ctxsOf_congr htctx).trans hctx)
    (hidle.congr htctx (by rw [htdef]; rfl)) hwhole hfec hsuper (by rw [htctx]; exact hsub) hsize o.pad
  have hexec := cif_plain (o := o) hlo hhi hact ht hnext hlast hreconf
  rw [hread, if_neg hfull, hlogical] at hexec
  refine ⟨_, cleanUnit t ctx (logicalFrame d.ring b) (d.stamps.getD 15 0) (BitVec.ofNat 32 b.id.val), hexec, ?_, rfl, logicalFrame_length _ _, rfl, rfl, ?_, rfl, rfl, rfl, ?_, ?_, fun k hk => ?_, ?_⟩
  · rw [modCtx_svc, upd_same]
    rfl
  · rw [cleanUnit, htctx]
  · rw [modCtx_svc, upd_same, modDab_ctx, htctx]
    rfl
  · rw [modCtx_svc, upd_same, modDab_ctx, htctx]
    exact hidle.st
  · rw [modCtx_svc, upd_other _ _ _ _ hk.symm, modDab_ctx, htctx]
  · rw [htdef]
    rfl

end Logical

/-! ### MOT_TIMEOUT (R189) -/

section Mot

variable {s : State} {ctx : Fin 256} {tid : BitVec 16} {q : MotObj}

/-- What a unit that the runner lost leaves in its context (R12). -/
def unitLost (x : Ctx) : Ctx := { x with seq := x.seq + 1, lost := satAdd (2 ^ 24 - 1) x.lost 1, discDue := true }

/-- An object that is still incomplete is discarded. -/
theorem motTimeout_discards (hmot : s.svc.ctx[ctx].mot = [q]) (htid : q.tid = tid) : ∃ u : State, exec (.motTimeout ctx tid) s = .next u ∧
    u.svc.ctx[ctx].mot = [] ∧ u.svc.ctx[ctx].seq = s.svc.ctx[ctx].seq + 1 ∧ u.svc.ctx[ctx].discDue = true ∧ u.svc.run = s.svc.run ∧
    u = { s with svc := u.svc, dma := u.dma, tlm := u.tlm, host := u.host, evt := u.evt } := by
  obtain ⟨t, htdef⟩ : ∃ t, t = (s.modCtx ctx fun x => { x with mot := x.mot.filter fun o => decide (o.tid ≠ tid) }).gpFree (.mot ctx tid) :=
    ⟨_, rfl⟩
  obtain ⟨u, hudef⟩ : ∃ u, u = t.motEvent ctx 1 tid (q.size s.svc.ctx[ctx].motDir) := ⟨_, rfl⟩
  have hrest : Rest t u := hudef ▸ rest_raise (Rest.refl t) _ _ _
  have hexec : exec (.motTimeout ctx tid) s = .next ((u.runCount u.svc.ctx[ctx].runner.val 6 1).modCtx ctx unitLost) := by
    change execMotTimeout ctx tid s = _
    simp only [execMotTimeout, hmot, List.find?_cons, htid, decide_true, hudef, htdef]
    rfl
  have hfilter : [q].filter (fun o => decide (o.tid ≠ tid)) = [] := by simp [htid]
  have hctx : u.svc.ctx[ctx] = { s.svc.ctx[ctx] with mot := [] } := by
    have hsvc : u.svc = (s.modCtx ctx fun x => { x with mot := x.mot.filter fun o => decide (o.tid ≠ tid) }).svc := by
      rw [rest_svc_eq hrest, htdef]
      rfl
    rw [hsvc, modCtx_svc, upd_same, hmot, hfilter]
  have hend : ((u.runCount u.svc.ctx[ctx].runner.val 6 1).modCtx ctx unitLost).svc.ctx[ctx] = unitLost { s.svc.ctx[ctx] with mot := [] } :=
    (upd_same _ _ _).trans (congrArg unitLost hctx)
  refine ⟨_, hexec, ?_, ?_, ?_, ?_, ?_⟩
  · rw [hend]
    rfl
  · rw [hend]
    rfl
  · rw [hend]
    rfl
  · change u.svc.run = _
    rw [rest_svc_eq hrest, htdef]
    rfl
  · rw [hrest.eq, htdef]
    rfl

theorem motTimeout_none (hmot : s.svc.ctx[ctx].mot = []) : exec (.motTimeout ctx tid) s = .next s := by
  change execMotTimeout ctx tid s = _
  simp only [execMotTimeout, hmot, List.find?_nil]

end Mot

/-- Settles O42: the commands by what their bodies answer, the events by the part of the runner that each reads. -/
theorem dabRunnersDecodeTheirEnsemble : Obligations.DabRunnersDecodeTheirEnsemble := by
  unfold Obligations.DabRunnersDecodeTheirEnsemble
  refine ⟨?cfg, ?cfgRange, ?db, ?dbState, fun _ _ => frameTiming_found, fun _ _ => frameTiming_none, fun _ _ _ => frameEnd_locks,
    fun _ _ _ => frameEnd_loses, fun _ _ _ _ _ _ _ _ _ _ _ => frameEnd_firstService, fun _ _ _ _ _ _ => frameEnd_otherEnsemble,
    fun _ _ _ => frameEnd_untimed, fun _ _ => ficTimeout_once, fun _ _ => ficTimeout_none, fun _ _ _ => handleExpiry_frees,
    fun _ _ _ _ => handleExpiry_moves, fun _ _ _ _ => cif_stores, ?cif, fun _ _ _ => cif_untimed, fun _ _ _ _ => motTimeout_discards,
    fun _ _ _ => motTimeout_none⟩
  case cfg =>
    intro s c rn l h h24 hlo hhi hb hr hl
    exact congrArg Host.Outcome.next (runCmd_ok h (bodySvcDabCfg_pass (s := s.taken 0x0320 c) h24 hlo hhi hb hr hl))
  case cfgRange =>
    intro s c h hlo hhi h1 hff
    exact congrArg Host.Outcome.next (runCmd_fail h (bodySvcDabCfg_range hlo hhi h1 hff))
  case db =>
    intro s c rn e h hb hlo hhi hw he hlock
    exact ⟨congrArg Host.Outcome.next (runCmd_ok h (bodySvcDabDb_locked (s := s.taken 0x0321 c) hb hlo hhi hw he hlock)),
      dabImage_length _, dabImage_eid he⟩
  case dbState =>
    intro s c rn h hb hlo hhi hnot
    exact congrArg Host.Outcome.next (runCmd_fail h (bodySvcDabDb_unlocked (s := s.taken 0x0321 c) hb hlo hhi hnot))
  case cif =>
    intro s rn g ctx d b hlo hhi hact ht hlock hnext hlast hstored hreconf hd herased hwhole hfec hsuper hctx hst hkind _ hsub hskip hempty
      hlost hdisc hsize hring
    exact cif_delivers hlo hhi hact ht hlock hnext hlast hstored hreconf hd herased hwhole hfec hsuper hctx
      ⟨hst, hkind, hskip, hempty, hlost, hdisc, hring⟩ hsub hsize

end Sys2Proof.Proofs
end

section
/-!
SUPPORT. The settings and the database image of a DRM runner as the host commands reach them (R214, R215), and the mode found (R196, R197).
-/

namespace Sys2Proof.Proofs

open Sys2Proof Sys2Proof.Machine Sys2Proof.Laws

/-! ### Updates of the DRM part of a runner -/

section Updates

variable (s : State) (r : Fin 32)

@[simp] theorem modDrm_run_same (f : DrmState → DrmState) :
    (s.modDrm r f).svc.run[r] = { s.svc.run[r] with drm := f s.svc.run[r].drm } := modRun_run_same s r _

theorem modDrm_modDrm (f g : DrmState → DrmState) : (s.modDrm r f).modDrm r g = s.modDrm r fun d => g (f d) := by
  simp only [State.modDrm, State.modRun, upd_upd]

theorem modDrm_congr {f g : DrmState → DrmState} (h : f s.svc.run[r].drm = g s.svc.run[r].drm) : s.modDrm r f = s.modDrm r g := by
  have hrun : upd s.svc.run r (fun x => { x with drm := f x.drm }) = upd s.svc.run r fun x => { x with drm := g x.drm } :=
    upd_congr (by rw [h])
  simp only [State.modDrm, State.modRun, hrun]

theorem modDrm_id {f : DrmState → DrmState} (h : f s.svc.run[r].drm = s.svc.run[r].drm) : s.modDrm r f = s := by
  simp only [State.modDrm, State.modRun, upd_id (v := s.svc.run) (i := r) (f := fun x => { x with drm := f x.drm }) (by rw [h])]

@[simp] theorem sdcEvent_svc (code n : Nat) : (s.sdcEvent r code n).svc = s.svc := raise_svc s _ _ _

end Updates

theorem isDrm_of_le {r : Fin 32} (h : 28 ≤ r.val) : isDrm r = true := decide_eq_true h

/-! ### SVC_DRM_CFG (R214) -/

section Settings

variable {s : State} {c : CmdEntry} {rn : Fin 32} {l : List Byte}

theorem firstFail_drmRunner (hlo : 28 ≤ c.u8 24) (hhi : c.u8 24 ≤ 31) (m : List (Bool × Status × Nat)) :
    firstFail ((!within 28 31 (c.u8 24), Status.range, 24) :: m) = firstFail m := by
  simp [firstFail, within, hlo, hhi]

/-- Without a mode no setting of MODES excludes one. -/
theorem modeExcluded_noMode (h : s.svc.run[rn].drm.mode = none) (modes : Nat) : s.modeExcluded rn modes = false := by
  simp only [State.modeExcluded, h]

/-- Settings within their ranges wait for the next frame. -/
theorem bodySvcDrmCfg_pass (h24 : c.u8 24 = rn.val) (hlo : 28 ≤ rn.val) (hmode : s.svc.run[rn].drm.mode = none)
    (hr : ∀ i, i < drmRanges.length → c.u8 (25 + i) = 0xFF ∨
      ((drmRanges.getD i (0, 0)).1 ≤ c.u8 (25 + i) ∧ c.u8 (25 + i) ≤ (drmRanges.getD i (0, 0)).2))
    (hl : l = (List.range 3).map fun i =>
      if c.u8 (25 + i) = 0xFF then (s.svc.run[rn].drm.next.getD s.svc.run[rn].drm.settings).getD i 0 else byte (c.u8 (25 + i))) :
    bodySvcDrmCfg c s = .done (s.modDrm rn fun d => { d with next := some l }) := by
  have hnone : (s.modDrm rn fun d => { d with next := some l }).svc.run[rn].drm.mode = none := by rw [modDrm_run_same, hmode]
  simp only [bodySvcDrmCfg, ofNat_eq h24, ← hl, modeExcluded_noMode hnone, Bool.false_eq_true, if_false]
  apply checked_pass
  rw [firstFail_drmRunner (h24 ▸ hlo) (by omega)]
  exact (firstFail_eq_none_iff _).mpr (settingRange_pass hr)

/-- A MODES of 0 fails at its byte. -/
theorem bodySvcDrmCfg_range (hlo : 28 ≤ c.u8 24) (hhi : c.u8 24 ≤ 31) (h0 : c.u8 25 = 0) : bodySvcDrmCfg c s = .fail .range 25 := by
  simp only [bodySvcDrmCfg]
  apply checked_fail
  rw [firstFail_drmRunner hlo hhi]
  simp [settingRange, drmRanges, firstFail, within, h0]

end Settings

/-! ### SVC_DRM_DB (R215) -/

section Database

variable {s : State} {c : CmdEntry} {rn : Fin 32}

theorem bodySvcDrmDb_eq (hb : c.bytes 24 4 = [byte rn.val, 0, 0, 0]) (hlo : 28 ≤ rn.val) :
    bodySvcDrmDb c s = checked [s.noWindow rn, (!s.svc.run[rn].drm.everLocked, .state, 0)]
      fun _ => .ok s [] (some s.svc.run[rn].drm.image) := by
  obtain ⟨h24, hrsvd⟩ := params_one (by omega) hb
  simp only [bodySvcDrmDb, ofNat_eq h24, checked, List.cons_append, firstFail_drmRunner (h24 ▸ hlo) (by omega), firstFail_append _ hrsvd]

theorem bodySvcDrmDb_locked (hb : c.bytes 24 4 = [byte rn.val, 0, 0, 0]) (hlo : 28 ≤ rn.val) (hw : (s.windowOf rn).isSome = true)
    (hlock : s.svc.run[rn].drm.everLocked = true) : bodySvcDrmDb c s = .ok s [] (some s.svc.run[rn].drm.image) := by
  have hwin : (s.windowOf rn).isNone = false := by rw [Option.isNone_eq_false_iff, hw]
  rw [bodySvcDrmDb_eq hb hlo]
  refine checked_pass _ ?_
  simp only [State.noWindow, firstFail, hwin, hlock, Bool.false_eq_true, decide_false, Bool.not_true, if_false]

theorem bodySvcDrmDb_unlocked (hb : c.bytes 24 4 = [byte rn.val, 0, 0, 0]) (hlo : 28 ≤ rn.val)
    (h : s.windowOf rn = none ∨ s.svc.run[rn].drm.everLocked = false) : bodySvcDrmDb c s = .fail .state 0 := by
  rw [bodySvcDrmDb_eq hb hlo]
  refine checked_fail _ ?_
  obtain hw | hlock := h
  · simp only [State.noWindow, firstFail, hw, Option.isNone_none, decide_true, if_true]
  · simp only [State.noWindow, firstFail, hlock, Bool.not_false, if_true, ite_self]

theorem recordOf_length (l : List (Fin 4 × List Byte)) (n i : Nat) : (recordOf l n i).length = n := by
  unfold recordOf
  split <;> simp

/-- The database image has 512 bytes. -/
theorem drmImage_length (d : DrmState) : d.image.length = 512 := by
  unfold DrmState.image
  cases d.utc <;>
    simp only [List.length_append, List.length_cons, List.length_nil, leBytes_length, List.length_replicate,
      flatMap_length (recordOf_length d.services 96), flatMap_length (recordOf_length d.streams 16), List.length_range]

/-- Its third byte is the spectrum occupancy. -/
theorem drmImage_so (d : DrmState) : slice d.image 2 1 = [d.so] := by
  unfold slice padTo DrmState.image
  simp only [List.append_assoc, List.cons_append, List.drop_succ_cons, List.drop_zero, List.take_succ_cons, List.take_zero]

end Database

/-! ### DRM_MODE_FOUND (R196, R197) -/

section Mode

variable {s : State} {rn : Fin 32} {m : Fin 5} {win : Fin 64}

theorem drmPlus_eq (hw : s.windowOf rn = some win) : s.drmPlus rn = decide (s.win.win[win].preset = 4) := by
  simp only [State.drmPlus, hw]

theorem modeOk_eq (hw : s.windowOf rn = some win) : s.modeOk rn m = true ↔
    if s.win.win[win].preset = 4 then m = 4 else m.val < 4 ∧ s.svc.run[rn].drm.modes.getLsbD m.val = true := by
  rw [State.modeOk, drmPlus_eq hw]
  by_cases hplus : s.win.win[win].preset = 4
  · rw [if_pos (decide_eq_true hplus), if_pos hplus, decide_eq_true_iff]
  · rw [if_neg (not_congr decide_eq_true_iff |>.mpr hplus), if_neg hplus, Bool.and_eq_true, decide_eq_true_iff]

/-- The first mode that window and MODES allow is taken. -/
theorem modeFound_first (hlo : 28 ≤ rn.val) (hact : s.svc.run[rn].active = true) (hw : s.windowOf rn = some win)
    (hok : if s.win.win[win].preset = 4 then m = 4 else m.val < 4 ∧ s.svc.run[rn].drm.modes.getLsbD m.val = true)
    (hmode : s.svc.run[rn].drm.mode = none) : exec (.drmModeFound rn m) s =
      .next ((s.modDrm rn fun d => { d with mode := some m, stored := 0, cells := [], timeBadRun := 0, facBadRun := 0 }).raise 34 12
        [byte rn.val, byte m.val, s.svc.run[rn].drm.so]) := by
  refine congrArg Host.Outcome.next ((if_pos ⟨isDrm_of_le hlo, hact, (modeOk_eq hw).mpr hok, by rw [hmode]; exact nofun⟩).trans ?_)
  simp only [hmode, Option.isSome_none, Bool.false_eq_true, if_false, modDrm_run_same]
  rfl

/-- On a DRM30 window a mode that MODES leaves out is ignored. -/
theorem modeFound_excluded (hw : s.windowOf rn = some win) (hplus : s.win.win[win].preset ≠ 4)
    (hmodes : s.svc.run[rn].drm.modes.getLsbD m.val = false) : exec (.drmModeFound rn m) s = .next s := by
  refine congrArg Host.Outcome.next (if_neg fun ⟨_, _, hok, _⟩ => ?_)
  rw [modeOk_eq hw, if_neg hplus, hmodes] at hok
  exact absurd hok.2 (by decide)

end Mode

end Sys2Proof.Proofs
end

section
/-!
SUPPORT. Frames of a DRM runner that serves no context (R198, R202 to R204, R213): what a frame counts and stores, lock gained and lost, and
what the FAC and the SDC hand on.
-/

namespace Sys2Proof.Proofs

open Sys2Proof Sys2Proof.Machine Sys2Proof.Laws

/-! ### What the Fantail hears (R174, R202) -/

section Hears

variable {s t : State} {r : Fin 32}

/-- A runner hands identifiers or entities to the Fantail. -/
def hears (s : State) (r : Fin 32) (l : List Heard) : State :=
  { s with fan := { s.fan with heard := s.fan.heard ++ l.map fun h => (r, h) } }

theorem hears_hears (s : State) (r : Fin 32) (l m : List Heard) : hears (hears s r l) r m = hears s r (l ++ m) := by
  simp only [hears, List.map_append, List.append_assoc]

theorem modDrm_hears_svc (s : State) (r : Fin 32) (l : List Heard) (f : DrmState → DrmState) :
    ((hears s r l).modDrm r f).svc = (s.modDrm r f).svc := rfl

theorem foldl_toFantail (s : State) (r : Fin 32) (h : List Byte → Heard) (l : List (List Byte)) :
    l.foldl (fun s b => s.toFantail r (h b)) s = hears s r (l.map h) := by
  induction l generalizing s with
  | nil => simp only [List.foldl_nil, hears, List.map_nil, List.append_nil]
  | cons b l ih =>
    rw [List.foldl_cons, ih]
    exact hears_hears s r [h b] _

theorem runnerOnly_hears (h : RunnerOnly r s t) (l : List Heard) : RunnerOnly r (hears s r l) (hears t r l) :=
  congrArg (hears · r l) h

theorem runnerOnly_modDrm (h : RunnerOnly r s t) (f : DrmState → DrmState) : RunnerOnly r s (t.modDrm r f) := runnerOnly_modRun h _

end Hears

/-! ### What a frame counts and stores (R198, R202, R204, R213) -/

section Stored

variable {s : State} {rn : Fin 32} {o : DrmFrameObs}

/-- A frame is counted, and its FAC and measurements are kept. -/
def drmCounted (s : State) (r : Fin 32) (o : DrmFrameObs) : State := (s.drmCounts r o).modDrm r fun d => d.frame o

/-- The cells of a frame are stored. -/
def frameStored (s : State) (r : Fin 32) (o : DrmFrameObs) : State :=
  s.modRun r fun _ => (s.svc.run[r].storeFrame (s.legsOf r) o).1

/-- A frame is counted and stored. -/
def drmStored (s : State) (r : Fin 32) (o : DrmFrameObs) : State := frameStored (drmCounted s r o) r o

theorem runnerOnly_drmCounts (s : State) (r : Fin 32) (o : DrmFrameObs) : RunnerOnly r s (s.drmCounts r o) := by
  unfold State.drmCounts
  dsimp only
  split
  · exact runnerOnly_bump (RunnerOnly.refl s) _ _
  · split
    · exact runnerOnly_bump (runnerOnly_bump (RunnerOnly.refl s) _ _) _ _
    · exact runnerOnly_bump (RunnerOnly.refl s) _ _

theorem drmCounts_svc (s : State) (r : Fin 32) (o : DrmFrameObs) : (s.drmCounts r o).svc = s.svc := by
  unfold State.drmCounts
  dsimp only
  split
  · rfl
  · split <;> rfl

theorem runnerOnly_drmStored (s : State) (r : Fin 32) (o : DrmFrameObs) : RunnerOnly r s (drmStored s r o) :=
  runnerOnly_modRun (runnerOnly_modDrm (runnerOnly_drmCounts s r o) _) _

/-- What the cells of a frame change: the legs' estimates, the cell store and the contributing legs. -/
theorem storeFrame_eq {u : Runner} (hmode : u.drm.mode.isSome = true) (legs : List (Fin 4)) (o : DrmFrameObs) :
    ∃ (v : Vector DrmLeg 4) (cells : List (List (List DrmCell))) (contrib : Nat), (u.storeFrame legs o).1 =
      { u with carry := 0, drm := { u.drm with
        legs := v, cells := cells, stored := u.drm.stored + 1, lastTs := some o.ts
        stamps := (o.ts :: u.drm.stamps).take 64, contrib := contrib } } := by
  obtain ⟨m, hm⟩ := Option.isSome_iff_exists.mp hmode
  simp only [Runner.storeFrame, hm]
  exact ⟨_, _, _, rfl⟩

theorem frame_mode (d : DrmState) (o : DrmFrameObs) : (d.frame o).mode = d.mode := by
  unfold DrmState.frame
  cases o.facOk <;> rfl

/-- What a frame with its time reference and its FAC leaves. -/
theorem frame_passes (d : DrmState) (htime : o.timeRefOk = true) (hfac : o.facOk = true) : ∃ facs sdcs : List Bool,
    d.frame o = { d.fac o with
      timeBadRun := 0, facBadRun := 0, facHist := facs, sdcHist := sdcs
      ticks := (⟨o.powers, o.mer, o.wmer, o.offset, o.spread, o.doppler, o.legMer⟩ :: d.ticks).take 4 } := by
  simp only [DrmState.frame, htime, hfac, if_true]
  exact ⟨_, _, rfl⟩

/-- What a frame without either leaves. -/
theorem frame_fails (d : DrmState) (htime : o.timeRefOk = false) (hfac : o.facOk = false) : ∃ facs sdcs : List Bool,
    d.frame o = { d with
      facValid := false, timeBadRun := d.timeBadRun + 1, facBadRun := d.facBadRun + 1, facHist := facs, sdcHist := sdcs
      ticks := (⟨o.powers, o.mer, o.wmer, o.offset, o.spread, o.doppler, o.legMer⟩ :: d.ticks).take 4 } := by
  simp only [DrmState.frame, htime, hfac, Bool.false_eq_true, if_false]
  exact ⟨_, _, rfl⟩

/-- The runner once a frame is stored. -/
theorem drmStored_run (hmode : s.svc.run[rn].drm.mode.isSome = true) :
    ∃ (v : Vector DrmLeg 4) (cells : List (List (List DrmCell))) (contrib : Nat), (drmStored s rn o).svc.run[rn] =
      { s.svc.run[rn] with carry := 0, drm := { s.svc.run[rn].drm.frame o with
        legs := v, cells := cells, stored := (s.svc.run[rn].drm.frame o).stored + 1, lastTs := some o.ts
        stamps := (o.ts :: (s.svc.run[rn].drm.frame o).stamps).take 64, contrib := contrib } } := by
  have hcounted : (drmCounted s rn o).svc.run[rn] = { s.svc.run[rn] with drm := s.svc.run[rn].drm.frame o } := by
    rw [drmCounted, modDrm_run_same, drmCounts_svc]
  obtain ⟨v, cells, contrib, h⟩ := storeFrame_eq (u := (drmCounted s rn o).svc.run[rn])
    (by rw [hcounted, frame_mode, hmode]) ((drmCounted s rn o).legsOf rn) o
  refine ⟨v, cells, contrib, ?_⟩
  rw [drmStored, frameStored, modRun_run_same, h, hcounted]

end Stored

/-! ### Lock (R198) -/

section Lock

variable {s : State} {r : Fin 32} {o : DrmFrameObs}

/-- What lock sets. -/
def drmLocked (u : Runner) : Runner := { u with lock := true, drm := { u.drm with everLocked := true } }

theorem drmLock_gains (hlock : s.svc.run[r].lock = false) (htime : o.timeRefOk = true) (hfac : o.facOk = true) :
    s.drmLock r o = ((s.modRun r drmLocked).runCount r.val 16 1).lockEvent r 0 s.svc.run[r].drm.modeData := by
  simp only [State.drmLock, hlock, htime, hfac, Bool.true_eq_false, Bool.false_eq_true, if_true, if_false]
  rfl

theorem drmLock_held (hlock : s.svc.run[r].lock = true) : s.drmLock r o = s := if_pos hlock

/-- A frame with its time reference and its FAC loses nothing. -/
theorem drmLoss_none (htime : s.svc.run[r].drm.timeBadRun = 0) (hfac : s.svc.run[r].drm.facBadRun = 0) : s.drmLoss r = s := by
  refine if_neg fun ⟨_, h⟩ => ?_
  rw [htime, hfac] at h
  split at h <;> omega

/-- The third time reference in a row that fails ends lock: acquisition starts again. -/
theorem drmLoss_restarts (hlock : s.svc.run[r].lock = true) (htime : 3 ≤ s.svc.run[r].drm.timeBadRun) (hctx : s.ctxsOf r = []) :
    s.drmLoss r = s.restart r := by
  have hnone : (s.restart r).ctxsOf r = [] := (ctxsOf_congr (runnersOnly_ctx (runnersOnly_restart s r))).trans hctx
  refine (if_pos ⟨hlock, .inl htime⟩).trans ?_
  simp only [State.ctxsToAcquiring, hnone, List.foldl_nil]

/-- A DRM runner without a mode. -/
def modeless (d : DrmState) : DrmState := { d with mode := none }

theorem loseTiming_drm_svc (ht : s.svc.run[r].dab.timing = false) (hmode : s.svc.run[r].drm.mode.isSome = true) :
    (s.loseTiming r).svc = (s.modDrm r modeless).svc := by
  simp only [State.loseTiming, ht, hmode, Bool.false_eq_true, if_true, if_false, lockEvent_svc]
  rfl

/-- What acquisition that starts again leaves of a DRM runner that had a mode: settings, FAC values and records. -/
theorem restart_drm (ht : s.svc.run[r].dab.timing = false) (hmode : s.svc.run[r].drm.mode.isSome = true) :
    (s.restart r).svc.run[r].lock = false ∧
    (s.restart r).svc.run[r].drm = { s.svc.run[r].drm with
      mode := none, timeBadRun := 0, facBadRun := 0, stored := 0, cells := [], stamps := [], facValid := false, sdcComplete := false
      pendingReconf := false, nextConf := none, labels := [], infos := [] } := by
  obtain ⟨t, htdef⟩ : ∃ t, t = (s.loseLock r).loseRdsSync r 15 := ⟨_, rfl⟩
  obtain ⟨u, hudef⟩ : ∃ u, u = (t.svc.run[r].dab.superSync.map Prod.fst).foldl (fun s k => s.loseSuper r k) t := ⟨_, rfl⟩
  have hrestart : s.restart r = ((u.loseTiming r).modRun r (acquiring r)).lockEvent r 2 [] := by
    rw [hudef, htdef]
    rfl
  have hlock := run_of_svc (loseLock_svc s r)
  have hrds := run_of_svc (htdef ▸ loseRdsSync_svc (s.loseLock r) r 15)
  have hsuper := run_of_svc (hudef ▸ foldl_loseSuper_svc (r := r) (t.svc.run[r].dab.superSync.map Prod.fst) t)
  rw [hrds, hlock] at hsuper
  have htiming := run_of_svc (loseTiming_drm_svc (s := u) (r := r) (by rw [hsuper]; exact ht) (by rw [hsuper]; exact hmode))
  rw [hrestart, lockEvent_svc, modRun_run_same, htiming, hsuper]
  exact ⟨rfl, rfl⟩

end Lock

/-! ### The SDC (R202, R203) -/

section Sdc

variable {s : State} {r : Fin 32} {o : DrmFrameObs} {d : DrmState}

/-- Records whose keys are all new stand behind those that were there. -/
theorem putRecords_new {l new : List (Fin 4 × List Byte)} (h : ((l ++ new).map Prod.fst).Nodup) : putRecords l new = l ++ new := by
  induction new generalizing l with
  | nil => simp only [putRecords, List.foldl_nil, List.append_nil]
  | cons e new ih =>
    have hnew : putKey l Prod.fst e = l ++ [e] := by
      have hnone : l.findIdx? (fun b => decide (b.1 = e.1)) = none := by
        rw [List.findIdx?_eq_none_iff]
        intro b hb
        rw [List.map_append, List.nodup_append] at h
        exact decide_eq_false (h.2.2 b.1 (List.mem_map_of_mem hb) e.1 (List.mem_map_of_mem List.mem_cons_self))
      simp only [putKey, hnone]
    have hrest := ih (l := l ++ [e]) (by simpa using h)
    rw [putRecords, List.foldl_cons, hnew]
    simpa [putRecords] using hrest

/-- The time that an SDC brings. -/
def sdcTimed (o : DrmFrameObs) (d : DrmState) : DrmState := { d with utc := o.utc.orElse fun _ => d.utc }

/-- What it leaves of the records, labels and information. -/
def sdcKept (o : DrmFrameObs) (d : DrmState) : DrmState := { d with
  services := putRecords d.services o.services, streams := putRecords d.streams o.streams
  labels := d.labels ++ o.labels.filter (fun n => !d.labels.contains n), infos := d.infos ++ o.infos.filter fun n => !d.infos.contains n }

/-- The first SDC after lock: complete where it describes every service that the FAC lists. -/
def firstSdc (o : DrmFrameObs) (d : DrmState) : DrmState :=
  { sdcKept o (sdcTimed o d) with sdcComplete := (sdcKept o (sdcTimed o d)).described }

theorem drmSdc_unlocked (hlock : s.svc.run[r].lock = false) : s.drmSdc r o = s := if_pos (.inl hlock)

section First

variable (hlock : s.svc.run[r].lock = true) (hfirst : o.firstOfSuper = true) (hsdc : o.sdc = some true)
  (hpend : s.svc.run[r].drm.pendingReconf = false) (hc : s.svc.run[r].drm.sdcComplete = false)

include hlock hfirst hsdc hpend hc

/-- A passing SDC before completeness: its entities go to the Fantail and its records are kept. -/
theorem drmSdc_first : s.drmSdc r o = if (sdcKept o (sdcTimed o s.svc.run[r].drm)).described = true then
      (((hears s r (o.signal.map .sdc)).modDrm r fun d => sdcKept o (sdcTimed o d)).modDrm r
        fun d => { d with sdcComplete := true }).sdcEvent r 0 0
    else (hears s r (o.signal.map .sdc)).modDrm r fun d => sdcKept o (sdcTimed o d) := by
  have hgo : ¬(s.svc.run[r].lock = false ∨ o.firstOfSuper = false ∨ o.sdc ≠ some true) := by
    rw [hlock, hfirst, hsdc]
    decide
  refine (if_neg hgo).trans ?_
  extract_lets t u d _ e v
  have ht : t = hears s r (o.signal.map .sdc) := foldl_toFantail s r .sdc o.signal
  have hd : d = sdcTimed o s.svc.run[r].drm := by
    refine (congrArg Runner.drm (modDrm_run_same t r (sdcTimed o))).trans ?_
    rw [ht]
    rfl
  have he : e = sdcKept o (sdcTimed o s.svc.run[r].drm) := congrArg (sdcKept o) hd
  have hv : v = (hears s r (o.signal.map .sdc)).modDrm r fun d => sdcKept o (sdcTimed o d) := by
    rw [← ht]
    exact (modDrm_congr u r (g := sdcKept o) rfl).trans (modDrm_modDrm t r (sdcTimed o) (sdcKept o))
  have hpendd : d.pendingReconf = false := (congrArg DrmState.pendingReconf hd).trans hpend
  have hcd : d.sdcComplete = false := (congrArg DrmState.sdcComplete hd).trans hc
  simp only [hpendd, hcd, he, hv, Bool.false_eq_true, false_and, true_and, if_false]

theorem drmSdc_svc : (s.drmSdc r o).svc = (s.modDrm r (firstSdc o)).svc := by
  rw [drmSdc_first hlock hfirst hsdc hpend hc]
  split
  · next h =>
    have hnow : firstSdc o s.svc.run[r].drm = { sdcKept o (sdcTimed o s.svc.run[r].drm) with sdcComplete := true } := by rw [firstSdc, h]
    rw [sdcEvent_svc, modDrm_modDrm, modDrm_hears_svc]
    exact congrArg State.svc (modDrm_congr s r hnow.symm)
  · next h =>
    have hsame : (sdcKept o (sdcTimed o s.svc.run[r].drm)).sdcComplete = false := hc
    have hyet : firstSdc o s.svc.run[r].drm = sdcKept o (sdcTimed o s.svc.run[r].drm) := by
      rw [firstSdc, Bool.eq_false_iff.mpr h, ← hsame]
    rw [modDrm_hears_svc]
    exact congrArg State.svc (modDrm_congr s r hyet.symm)

theorem runnerOnly_drmSdc : RunnerOnly r (hears s r (o.signal.map .sdc)) (s.drmSdc r o) := by
  rw [drmSdc_first hlock hfirst hsdc hpend hc]
  split
  · exact runnerOnly_raise (runnerOnly_modDrm (runnerOnly_modDrm (RunnerOnly.refl _) _) _) _ _ _
  · exact runnerOnly_modDrm (RunnerOnly.refl _) _

end First

/-- Records, labels and information of every service listed describe the multiplex. -/
theorem described_of (hnodup : (d.services.map Prod.fst).Nodup) (h : ∀ n ∈ d.listed, n ∈ d.labels ∧ n ∈ d.infos ∧
      ∃ e ∈ d.services, e.1 = n ∧ ∃ q ∈ d.streams, q.1.val = (e.2.getD 4 0).toNat) : d.described = true := by
  refine List.all_eq_true.mpr fun n hn => ?_
  obtain ⟨hlabel, hinfo, e, he, hen, q, hq, hqn⟩ := h n hn
  have hfind : d.services.find? (fun x => decide (x.1 = n)) = some e := by
    obtain ⟨x, hx⟩ := Option.isSome_iff_exists.mp (List.find?_isSome (p := fun x : Fin 4 × List Byte => decide (x.1 = n)).mpr
      ⟨e, he, decide_eq_true hen⟩)
    have hxn : x.1 = n := of_decide_eq_true (List.find?_some (p := fun x : Fin 4 × List Byte => decide (x.1 = n)) hx)
    rw [hx, List.inj_on_of_nodup_map hnodup (List.mem_of_find?_eq_some hx) he (hxn.trans hen.symm)]
  simp only [hfind, List.contains_iff_mem.mpr hlabel, List.contains_iff_mem.mpr hinfo, Bool.and_true]
  exact List.any_eq_true.mpr ⟨q, hq, decide_eq_true hqn⟩

theorem mem_append_new {n : Fin 4} {l m : List (Fin 4)} (h : n ∈ m) : n ∈ l ++ m.filter fun n => !l.contains n := by
  by_cases hn : n ∈ l <;> simp [hn, h]

/-- What the first SDC after lock leaves where no record was there. -/
theorem firstSdc_spec (hservices : d.services = []) (hstreams : d.streams = []) (hns : (o.services.map Prod.fst).Nodup)
    (hnq : (o.streams.map Prod.fst).Nodup) : ∃ (utc : Option (W × Byte)) (labels infos : List (Fin 4)) (complete : Bool),
      firstSdc o d = { d with
        utc := utc, services := o.services, streams := o.streams, labels := labels, infos := infos, sdcComplete := complete } ∧
      ((d.listed.all fun n => o.labels.contains n && o.infos.contains n &&
        o.services.any fun e => decide (e.1 = n) && o.streams.any fun q => decide (q.1.val = (e.2.getD 4 0).toNat)) = true →
          complete = true) := by
  have hserv : (sdcKept o (sdcTimed o d)).services = o.services := by
    refine (congrArg (putRecords · o.services) hservices).trans ?_
    rw [putRecords_new (l := []) hns, List.nil_append]
  have hstr : (sdcKept o (sdcTimed o d)).streams = o.streams := by
    refine (congrArg (putRecords · o.streams) hstreams).trans ?_
    rw [putRecords_new (l := []) hnq, List.nil_append]
  refine ⟨(sdcTimed o d).utc, (sdcKept o d).labels, (sdcKept o d).infos, (sdcKept o (sdcTimed o d)).described, ?_,
    fun hall => described_of (by rwa [hserv]) fun n hn => ?_⟩
  · rw [← hserv, ← hstr]
    rfl
  · have hdesc := List.all_eq_true.mp hall n hn
    simp only [Bool.and_eq_true, List.contains_iff_mem, List.any_eq_true, decide_eq_true_eq] at hdesc
    obtain ⟨⟨hlabel, hinfo⟩, hrecord⟩ := hdesc
    refine ⟨mem_append_new hlabel, mem_append_new hinfo, ?_⟩
    rwa [hserv, hstr]

end Sdc

/-! ### DRM_FRAME_END without contexts -/

section Unserved

variable {s t u : State} {rn : Fin 32} {o : DrmFrameObs}

theorem drmAdopt_none {d : DrmState} (h : d.next = none) : d.adopt = d := by
  simp only [DrmState.adopt, h]

/-- Without a context the units of a frame are its decoded streams. -/
theorem drmUnits_noCtx (h : s.ctxsOf rn = []) (erased : Bool) (ms : Nat) :
    ∃ l : List (Fin 4 × List Byte), s.drmUnits rn erased ms = s.modDrm rn fun d => { d with decoded := l } := by
  unfold State.drmUnits
  dsimp only
  rw [erasedFrame_noCtx h]
  split
  · exact ⟨s.svc.run[rn].drm.decoded, (lostFrames_noCtx h ms 1).trans (modDrm_id s rn rfl).symm⟩
  · have hnone : (s.modDrm rn DrmState.decode).ctxsOf rn = [] := h
    refine ⟨s.svc.run[rn].drm.decode.decoded, ?_⟩
    simp only [State.drmCtxFrames, hnone, List.foldl_nil]
    exact modDrm_congr s rn rfl

theorem drmMismatches_noCtx (h : s.ctxsOf rn = []) : s.drmMismatches rn = s := by
  simp only [State.drmMismatches, State.reportMismatch, h, List.foldl_nil]

/-- The reconfiguration index stays at 0 (R207). -/
theorem drmReconf_none (hpend : s.svc.run[rn].drm.pendingReconf = false) (hreconf : o.reconf = 0) (old : DrmState) :
    s.drmReconf rn o old = s := by
  unfold State.drmReconf
  dsimp only
  simp only [hpend, hreconf, ne_eq, not_true_eq_false, and_false, Bool.false_eq_true, false_and, if_false, ite_self]

theorem drmReconf_unlocked (hlock : s.svc.run[rn].lock = false) (old : DrmState) : s.drmReconf rn o old = s := if_pos (.inl hlock)

/-- A frame without a context and with no settings that wait: what it stores, then lock, FAC identifiers, SDC and reconfiguration; the
streams are decoded last. -/
theorem drmFrame_unserved (hlo : 28 ≤ rn.val) (hact : s.svc.run[rn].active = true) (hmode : s.svc.run[rn].drm.mode.isSome = true)
    (hnext : s.svc.run[rn].drm.next = none) (hlast : s.svc.run[rn].drm.lastTs = none)
    (ht : ((drmStored s rn o).drmLock rn o).drmLoss rn = t)
    (hu : ((if o.facOk then hears t rn (o.facIds.map .fac) else t).drmSdc rn o).drmReconf rn o s.svc.run[rn].drm = u)
    (hctx : u.ctxsOf rn = []) :
    ∃ l : List (Fin 4 × List Byte), exec (.drmFrameEnd rn o) s = .next (u.modDrm rn fun d => { d with decoded := l }) := by
  have hadopt : s.modDrm rn DrmState.adopt = s := modDrm_id s rn (drmAdopt_none hnext)
  have hlost (ms : Nat) : s.lostFrames rn ms (framesMissed s.svc.run[rn].drm.lastTs o.ts (737280 * ms)) = s := by
    rw [hlast]
    rfl
  have hunits (erased : Bool) (ms : Nat) : ∃ l : List (Fin 4 × List Byte),
      (if u.svc.run[rn].drm.mode.isSome then u.drmUnits rn erased ms else u) = u.modDrm rn fun d => { d with decoded := l } := by
    split
    · exact drmUnits_noCtx hctx erased ms
    · exact ⟨u.svc.run[rn].drm.decoded, (modDrm_id u rn rfl).symm⟩
  obtain ⟨l, hl⟩ := hunits ((drmCounted s rn o).svc.run[rn].storeFrame ((drmCounted s rn o).legsOf rn) o).2 s.svc.run[rn].drm.frameMs
  have hnone : (u.modDrm rn fun d => { d with decoded := l }).ctxsOf rn = [] := hctx
  refine ⟨l, congrArg Host.Outcome.next ((if_pos ⟨isDrm_of_le hlo, hact, hmode⟩).trans ?_)⟩
  rw [hadopt]
  extract_lets a old ms received counted stored kept checked identified described decoded
  have hcounted : counted = drmCounted s rn o := congrArg (drmCounted · rn o) (hlost ms)
  have hkept : kept = drmStored s rn o := congrArg (frameStored · rn o) hcounted
  have hchecked : checked = t := (congrArg (fun x : State => (x.drmLock rn o).drmLoss rn) hkept).trans ht
  have hidentified : identified = if o.facOk then hears t rn (o.facIds.map .fac) else t := by
    rw [← hchecked, ← foldl_toFantail]
  have hdescribed : described = u :=
    (congrArg (fun x : State => (x.drmSdc rn o).drmReconf rn o s.svc.run[rn].drm) hidentified).trans hu
  have hdecoded : decoded = u.modDrm rn fun d => { d with decoded := l } := by
    rw [← hl, ← hdescribed, ← hcounted]
  rw [hdecoded, drmMismatches_noCtx hnone, startReady_noCtx hnone]

theorem drmFrame_noMode (h : s.svc.run[rn].drm.mode = none) : exec (.drmFrameEnd rn o) s = .next s := by
  refine congrArg Host.Outcome.next (if_neg fun ⟨_, _, hsome⟩ => ?_)
  rw [h] at hsome
  exact absurd hsome (by decide)

/-- What a state is that agrees but for one runner with one that the Fantail heard more from. -/
theorem runnerOnly_hears_eq {l : List Heard} (h : RunnerOnly rn (hears s rn l) u) :
    u.fan.heard = s.fan.heard ++ l.map (fun x => (rn, x)) ∧
      u = { s with svc := u.svc, fan := { s.fan with heard := u.fan.heard }, tlm := u.tlm, host := u.host, evt := u.evt } := by
  have heq := runnersOnly_eq (runnersOnly_of_runner h)
  have hfan : u.fan = (hears s rn l).fan := congrArg State.fan (a₁ := exceptRunner rn u) (a₂ := exceptRunner rn (hears s rn l)) h
  refine ⟨congrArg FanBlk.heard hfan, heq.trans ?_⟩
  rw [hfan]
  rfl

/-- Before lock a frame that is stored with its time reference and its FAC gives lock and loses nothing. -/
theorem drmStored_locks (hmode : s.svc.run[rn].drm.mode.isSome = true) (hlock : s.svc.run[rn].lock = false) (htime : o.timeRefOk = true)
    (hfac : o.facOk = true) : ∃ (y : State) (v : Vector DrmLeg 4) (cells : List (List (List DrmCell))) (contrib : Nat)
      (facs sdcs : List Bool), (drmStored s rn o).drmLock rn o = y ∧ y.drmLoss rn = y ∧ RunnerOnly rn s y ∧
      y.svc.run[rn] = { s.svc.run[rn] with lock := true, carry := 0, drm := { s.svc.run[rn].drm.fac o with
        timeBadRun := 0, facBadRun := 0, facHist := facs, sdcHist := sdcs
        ticks := (⟨o.powers, o.mer, o.wmer, o.offset, o.spread, o.doppler, o.legMer⟩ :: s.svc.run[rn].drm.ticks).take 4
        legs := v, cells := cells, stored := s.svc.run[rn].drm.stored + 1, lastTs := some o.ts
        stamps := (o.ts :: s.svc.run[rn].drm.stamps).take 64, contrib := contrib, everLocked := true } } := by
  obtain ⟨v, cells, contrib, hrun⟩ := drmStored_run (o := o) hmode
  obtain ⟨facs, sdcs, hframe⟩ := frame_passes s.svc.run[rn].drm htime hfac
  rw [hframe] at hrun
  have hgain := drmLock_gains (s := drmStored s rn o) (r := rn) (by rw [hrun]; exact hlock) htime hfac
  obtain ⟨y, hy⟩ : ∃ y, y = (drmStored s rn o).drmLock rn o := ⟨_, rfl⟩
  have hyrun : y.svc.run[rn] = drmLocked (drmStored s rn o).svc.run[rn] := by
    rw [hy, hgain, lockEvent_svc, runCount_svc, modRun_run_same]
  rw [hrun] at hyrun
  refine ⟨y, v, cells, contrib, facs, sdcs, hy.symm, drmLoss_none (by rw [hyrun]; rfl) (by rw [hyrun]; rfl), ?_, hyrun⟩
  rw [hy, hgain]
  exact runnerOnly_raise (runnerOnly_bump (runnerOnly_modRun (runnerOnly_drmStored s rn o) _) _ _) _ _ _

/-- Before lock a frame with its time reference, its FAC and an SDC gives lock and the multiplex (R198, R202, R203). -/
theorem drmFrame_locks (hlo : 28 ≤ rn.val) (hact : s.svc.run[rn].active = true) (hmode : s.svc.run[rn].drm.mode.isSome = true)
    (hlock : s.svc.run[rn].lock = false) (hnext : s.svc.run[rn].drm.next = none) (hlast : s.svc.run[rn].drm.lastTs = none)
    (hpend : s.svc.run[rn].drm.pendingReconf = false) (hc : s.svc.run[rn].drm.sdcComplete = false)
    (hservices : s.svc.run[rn].drm.services = []) (hstreams : s.svc.run[rn].drm.streams = []) (hctx : s.ctxsOf rn = [])
    (htime : o.timeRefOk = true) (hfac : o.facOk = true) (hreconf : o.reconf = 0) (hfirst : o.firstOfSuper = true)
    (hsdc : o.sdc = some true) (hns : (o.services.map Prod.fst).Nodup) (hnq : (o.streams.map Prod.fst).Nodup) :
    ∃ u : State, exec (.drmFrameEnd rn o) s = .next u ∧ u.svc.run[rn].lock = true ∧ u.svc.run[rn].drm.facValid = true ∧
      u.svc.run[rn].drm.so = o.so ∧ u.svc.run[rn].drm.longIl = o.longIl ∧ u.svc.run[rn].drm.nAudio = o.nAudio ∧
      u.svc.run[rn].drm.listed = o.listed ∧ u.svc.run[rn].drm.services = o.services ∧ u.svc.run[rn].drm.streams = o.streams ∧
      u.svc.run[rn].drm.stored = s.svc.run[rn].drm.stored + 1 ∧
      ((o.listed.all fun n => o.labels.contains n && o.infos.contains n &&
          o.services.any fun e => decide (e.1 = n) && o.streams.any fun q => decide (q.1.val = (e.2.getD 4 0).toNat)) = true →
        u.svc.run[rn].drm.sdcComplete = true) ∧
      u.svc.run[rn].drm.ticks = (⟨o.powers, o.mer, o.wmer, o.offset, o.spread, o.doppler, o.legMer⟩ :: s.svc.run[rn].drm.ticks).take 4 ∧
      u.svc.run[rn].drm.lastTs = some o.ts ∧ u.svc.run[rn].drm.everLocked = true ∧ u.svc.ctx = s.svc.ctx ∧
      u.fan.heard = s.fan.heard ++ o.facIds.map (fun b => (rn, Heard.fac b)) ++ o.signal.map (fun b => (rn, Heard.sdc b)) ∧
      (∀ r : Fin 32, r ≠ rn → u.svc.run[r] = s.svc.run[r]) ∧
      u = { s with svc := u.svc, fan := { s.fan with heard := u.fan.heard }, tlm := u.tlm, host := u.host, evt := u.evt } := by
  obtain ⟨y, v, cells, contrib, facs, sdcs, hy, hkeep, hyonly, hyrun⟩ := drmStored_locks (o := o) hmode hlock htime hfac
  obtain ⟨z, hz⟩ : ∃ z, z = hears y rn (o.facIds.map .fac) := ⟨_, rfl⟩
  have hzrun : z.svc.run[rn] = y.svc.run[rn] := by rw [hz, hears]
  rw [hyrun] at hzrun
  have hzlock : z.svc.run[rn].lock = true := by rw [hzrun]
  have hzpend : z.svc.run[rn].drm.pendingReconf = false := by rw [hzrun]; exact hpend
  have hzc : z.svc.run[rn].drm.sdcComplete = false := by rw [hzrun]; exact hc
  have hwonly : RunnerOnly rn (hears s rn (o.facIds.map .fac ++ o.signal.map .sdc)) (z.drmSdc rn o) := by
    rw [← hears_hears]
    refine runnerOnly_trans (runnerOnly_hears (t := z) ?_ _) (runnerOnly_drmSdc hzlock hfirst hsdc hzpend hzc)
    rw [hz]
    exact runnerOnly_hears hyonly _
  have hwrun := run_of_svc (drmSdc_svc hzlock hfirst hsdc hzpend hzc)
  obtain ⟨utc, labels, infos, complete, hkept, hcomplete⟩ := firstSdc_spec (o := o) (d := z.svc.run[rn].drm)
    (by rw [hzrun]; exact hservices) (by rw [hzrun]; exact hstreams) hns hnq
  rw [hkept, hzrun] at hwrun
  obtain ⟨w, hw⟩ : ∃ w, w = z.drmSdc rn o := ⟨_, rfl⟩
  rw [← hw] at hwonly hwrun
  have hwctx : w.svc.ctx = s.svc.ctx := runnersOnly_ctx (s := hears s rn _) (runnersOnly_of_runner hwonly)
  have hwend : ((if o.facOk then hears y rn (o.facIds.map .fac) else y).drmSdc rn o).drmReconf rn o s.svc.run[rn].drm = w := by
    rw [if_pos hfac, ← hz, ← hw]
    exact drmReconf_none (by rw [hwrun]; exact hpend) hreconf _
  obtain ⟨l, hexec⟩ := drmFrame_unserved hlo hact hmode hnext hlast (by rw [hy, hkeep]) hwend ((ctxsOf_congr hwctx).trans hctx)
  have honly := runnerOnly_modDrm hwonly fun d => { d with decoded := l }
  obtain ⟨hheard, heq⟩ := runnerOnly_hears_eq honly
  refine ⟨_, hexec, ?_, ?_, ?_, ?_, ?_, ?_, ?_, ?_, ?_, fun hall => ?complete, ?_, ?_, ?_, hwctx, ?heard,
    fun r hr => runnerOnly_run_other honly hr, heq⟩
  case heard =>
    rw [hheard, List.map_append, List.map_map, List.map_map, List.append_assoc]
    rfl
  all_goals rw [modDrm_run_same, hwrun]
  case complete =>
    refine hcomplete ?_
    rw [hzrun]
    exact hall
  all_goals rfl

/-- The third time reference in a row that fails ends lock and the mode (R198). -/
theorem drmFrame_loses (hlo : 28 ≤ rn.val) (hact : s.svc.run[rn].active = true) (hmode : s.svc.run[rn].drm.mode.isSome = true)
    (hlock : s.svc.run[rn].lock = true) (hbad : s.svc.run[rn].drm.timeBadRun = 2) (hdab : s.svc.run[rn].dab.timing = false)
    (hnext : s.svc.run[rn].drm.next = none) (hlast : s.svc.run[rn].drm.lastTs = none) (hctx : s.ctxsOf rn = [])
    (htime : o.timeRefOk = false) (hfac : o.facOk = false) :
    ∃ u : State, exec (.drmFrameEnd rn o) s = .next u ∧ u.svc.run[rn].lock = false ∧ u.svc.run[rn].drm.mode = none ∧
      u.svc.run[rn].drm.stored = 0 ∧ u.svc.run[rn].drm.cells = [] ∧ u.svc.run[rn].drm.sdcComplete = false ∧
      u.svc.run[rn].drm.services = s.svc.run[rn].drm.services ∧ u.svc.ctx = s.svc.ctx ∧
      u = { s with svc := u.svc, tlm := u.tlm, host := u.host, evt := u.evt } := by
  obtain ⟨v, cells, contrib, hstored⟩ := drmStored_run (o := o) hmode
  obtain ⟨facs, sdcs, hframe⟩ := frame_fails s.svc.run[rn].drm htime hfac
  rw [hframe] at hstored
  obtain ⟨x, hx⟩ : ∃ x, x = drmStored s rn o := ⟨_, rfl⟩
  have hxonly : RunnersOnly s x := runnersOnly_of_runner (hx ▸ runnerOnly_drmStored s rn o)
  rw [← hx] at hstored
  have hkept : x.drmLock rn o = x := drmLock_held (by rw [hstored]; exact hlock)
  have hthird : 3 ≤ x.svc.run[rn].drm.timeBadRun := by
    rw [hstored]
    exact Nat.le_of_eq (congrArg (· + 1) hbad.symm)
  have hloss : x.drmLoss rn = x.restart rn :=
    drmLoss_restarts (by rw [hstored]; exact hlock) hthird ((ctxsOf_congr (runnersOnly_ctx hxonly)).trans hctx)
  obtain ⟨hoff, hdrm⟩ := restart_drm (s := x) (r := rn) (by rw [hstored]; exact hdab) (by rw [hstored]; exact hmode)
  have honly : RunnersOnly s (x.restart rn) := runnersOnly_trans hxonly (runnersOnly_restart x rn)
  have hend : ((if o.facOk then hears (x.restart rn) rn (o.facIds.map .fac) else x.restart rn).drmSdc rn o).drmReconf rn o
      s.svc.run[rn].drm = x.restart rn := by
    rw [if_neg (ne_true_of_eq_false hfac), drmSdc_unlocked hoff, drmReconf_unlocked hoff]
  obtain ⟨l, hexec⟩ := drmFrame_unserved hlo hact hmode hnext hlast (by rw [← hx, hkept, hloss]) hend
    ((ctxsOf_congr (runnersOnly_ctx honly)).trans hctx)
  refine ⟨_, hexec, ?_, ?_, ?_, ?_, ?_, ?_, runnersOnly_ctx honly, runnersOnly_eq (runnersOnly_modRun honly _)⟩ <;> rw [modDrm_run_same]
  · exact hoff
  all_goals rw [hdrm, hstored]

end Unserved

/-- Settles O43: the commands by what their bodies answer, a mode and a frame by what they make of the runner. -/
theorem drmRunnersDecodeTheirMultiplex : Obligations.DrmRunnersDecodeTheirMultiplex := by
  unfold Obligations.DrmRunnersDecodeTheirMultiplex
  refine ⟨?cfg, ?cfgRange, ?db, ?dbState, fun _ _ _ _ => modeFound_first, fun _ _ _ _ => modeFound_excluded, fun _ _ _ => drmFrame_locks,
    fun _ _ _ => drmFrame_loses, fun _ _ _ => drmFrame_noMode⟩
  case cfg =>
    intro s c rn l h h24 hlo hmode hr hl
    exact congrArg Host.Outcome.next (runCmd_ok h (bodySvcDrmCfg_pass (s := s.taken 0x0330 c) h24 hlo hmode hr hl))
  case cfgRange =>
    intro s c h hlo hhi h0
    exact congrArg Host.Outcome.next (runCmd_fail h (bodySvcDrmCfg_range hlo hhi h0))
  case db =>
    intro s c rn h hb hlo hw hlock
    exact ⟨congrArg Host.Outcome.next (runCmd_ok h (bodySvcDrmDb_locked (s := s.taken 0x0331 c) hb hlo hw hlock)), drmImage_length _,
      drmImage_so _⟩
  case dbState =>
    intro s c rn h hb hlo hnot
    exact congrArg Host.Outcome.next (runCmd_fail h (bodySvcDrmDb_unlocked (s := s.taken 0x0331 c) hb hlo hnot))

end Sys2Proof.Proofs
end

section
/-!
SUPPORT. What the proofs about following share: the record of a followed context, its candidates and the estimators under their updates, and
states that agree but for these records and what the host is told.
-/

namespace Sys2Proof.Proofs

open Sys2Proof Sys2Proof.Machine Sys2Proof.Laws

/-! ### Updates of a record and of an estimator -/

section Updates

variable {s t : State} {f : Fin 256} {e : Fin 4}

@[simp] theorem modFollow_same (s : State) (f : Fin 256) (g : Follow → Follow) :
    (s.modFollow f g).fan.follow[f] = g s.fan.follow[f] := upd_same _ f g

theorem modFollow_other (g : Follow → Follow) {k : Fin 256} (h : k ≠ f) : (s.modFollow f g).fan.follow[k] = s.fan.follow[k] :=
  upd_other _ f k g h.symm

theorem modFollow_modFollow (s : State) (f : Fin 256) (g h : Follow → Follow) :
    (s.modFollow f g).modFollow f h = s.modFollow f fun w => h (g w) := by
  simp only [State.modFollow, upd_upd]

theorem modFollow_congr {g h : Follow → Follow} (hgh : g s.fan.follow[f] = h s.fan.follow[f]) : s.modFollow f g = s.modFollow f h := by
  simp only [State.modFollow, upd_congr hgh]

theorem modFollow_id {g : Follow → Follow} (h : g s.fan.follow[f] = s.fan.follow[f]) : s.modFollow f g = s := by
  simp only [State.modFollow, upd_id h]

/-- A Fantail block in place of another respects the agreement outside the host and event blocks. -/
theorem rest_withFan (h : Rest s t) (x : FanBlk) : Rest { s with fan := x } { t with fan := x } :=
  congrArg (fun y : State => ({ y with fan := x } : State)) (a₁ := rest t) (a₂ := rest s) h

@[simp] theorem modEst_same (s : State) (e : Fin 4) (g : Estimator → Estimator) : (s.modEst e g).fan.est[e] = g s.fan.est[e] :=
  upd_same _ e g

theorem modEst_modEst (s : State) (e : Fin 4) (g h : Estimator → Estimator) :
    (s.modEst e g).modEst e h = s.modEst e fun x => h (g x) := by
  simp only [State.modEst, upd_upd]

theorem modEst_congr {g h : Estimator → Estimator} (hgh : g s.fan.est[e] = h s.fan.est[e]) : s.modEst e g = s.modEst e h := by
  simp only [State.modEst, upd_congr hgh]

end Updates

/-! ### Candidates under updates -/

section Candidates

variable {s t : State} {f : Fin 256} {i : Nat} {k : Cand}

theorem listUpd_getD {α : Type} (l : List (Option α)) (i j : Nat) (g : Option α → Option α) (hg : g none = none) :
    (listUpd l i g).getD j none = if j = i then g (l.getD j none) else l.getD j none := by
  simp only [listUpd, List.getD_eq_getElem?_getD, List.getElem?_mapIdx]
  cases l[j]? <;> simp [hg]

theorem listUpd_id {α : Type} (l : List α) (i : Nat) : listUpd l i id = l := List.ext_getElem? fun j => by simp [listUpd]

theorem listUpd_congr {α : Type} {l : List (Option α)} {i : Nat} {g h : Option α → Option α}
    (hgh : g (l.getD i none) = h (l.getD i none)) : listUpd l i g = listUpd l i h := by
  refine List.ext_getElem? fun j => ?_
  simp only [List.getD_eq_getElem?_getD] at hgh
  simp only [listUpd, List.getElem?_mapIdx]
  by_cases hj : j = i
  · subst hj
    cases hx : l[j]? with
    | none => rfl
    | some x => simpa [hx] using hgh
  · simp only [if_neg hj]

/-- The candidates of two states whose records of the context hold the same table. -/
theorem cand_congr (h : t.fan.follow[f].cands = s.fan.follow[f].cands) (i : Nat) : t.cand f i = s.cand f i := by
  simp only [State.cand, h]

theorem cand_of_fan (h : t.fan = s.fan) (f : Fin 256) (i : Nat) : t.cand f i = s.cand f i := by
  simp only [State.cand, h]

/-- An update of the record that leaves the table alone leaves every candidate alone. -/
theorem modFollow_cand {g : Follow → Follow} (h : (g s.fan.follow[f]).cands = s.fan.follow[f].cands) (i : Nat) :
    (s.modFollow f g).cand f i = s.cand f i := cand_congr (by rw [modFollow_same, h]) i

theorem modCand_cand (s : State) (f : Fin 256) (i j : Nat) (g : Cand → Cand) :
    (s.modCand f i g).cand f j = if j = i then (s.cand f j).map g else s.cand f j := by
  simp only [State.cand, State.modCand, modFollow_same]
  exact listUpd_getD _ i j (Option.map g) rfl

theorem modCand_same (g : Cand → Cand) (h : s.cand f i = some k) : (s.modCand f i g).cand f i = some (g k) := by
  rw [modCand_cand, if_pos rfl, h, Option.map_some]

theorem modCand_other (g : Cand → Cand) {j : Nat} (h : j ≠ i) : (s.modCand f i g).cand f j = s.cand f j := by
  rw [modCand_cand, if_neg h]

/-- An update of a candidate counts by what it makes of the candidate that is there. -/
theorem modCand_congr {g h : Cand → Cand} (hgh : (s.cand f i).map g = (s.cand f i).map h) : s.modCand f i g = s.modCand f i h :=
  modFollow_congr (by rw [listUpd_congr hgh])

/-- No candidate, no update. -/
theorem modCand_none (g : Cand → Cand) (h : s.cand f i = none) : s.modCand f i g = s := by
  have hsame : s.modCand f i g = s.modCand f i id := modCand_congr (by rw [h]; rfl)
  exact hsame.trans (modFollow_id (by rw [Option.map_id_fun, listUpd_id]))

/-! ### The list of a context's candidates -/

theorem candList_nil (h : s.fan.follow[f].cands = []) : s.candList f = [] := by
  simp only [State.candList, State.cand, h]
  rfl

theorem candList_one (h : s.fan.follow[f].cands = [some k]) : s.candList f = [(0, k)] := by
  simp only [State.candList, State.cand, h]
  rfl

theorem best_nil (h : s.candList f = []) (p : Cand → Bool) : s.best f p = none := by
  rw [State.best, h]
  rfl

theorem best_one (h : s.candList f = [(i, k)]) {p : Cand → Bool} (hp : p k = true) : s.best f p = some i := by
  simp [State.best, h, hp]

end Candidates

/-! ### Agreement but for the records of following and what the host is told -/

section Records

variable {s t u : State}

/-- A state without the records of its followed contexts, its estimators, its count of switches, its host block and its event block. -/
def exceptRecords (s : State) : State :=
  { s with host := {}, evt := {}, fan := { s.fan with follow := ({} : FanBlk).follow, est := ({} : FanBlk).est, switches := 0 } }

/-- Two states agree but for those. -/
def RecordsOnly (s t : State) : Prop := exceptRecords t = exceptRecords s

theorem RecordsOnly.refl (s : State) : RecordsOnly s s := rfl

theorem recordsOnly_trans (h : RecordsOnly s t) (k : RecordsOnly t u) : RecordsOnly s u := Eq.trans (b := exceptRecords t) k h

theorem recordsOnly_of_rest (h : Rest s t) : RecordsOnly s t := congrArg exceptRecords (a₁ := rest t) (a₂ := rest s) h

theorem recordsOnly_modEst (h : RecordsOnly s t) (e : Fin 4) (g : Estimator → Estimator) : RecordsOnly s (t.modEst e g) := h

theorem recordsOnly_modCand (h : RecordsOnly s t) (f : Fin 256) (i : Nat) (g : Cand → Cand) : RecordsOnly s (t.modCand f i g) := h

/-- The agreement read in what it keeps. -/
theorem recordsOnly_svc (h : RecordsOnly s t) : t.svc = s.svc := congrArg State.svc (a₁ := exceptRecords t) (a₂ := exceptRecords s) h

theorem recordsOnly_win (h : RecordsOnly s t) : t.win = s.win := congrArg State.win (a₁ := exceptRecords t) (a₂ := exceptRecords s) h

theorem recordsOnly_sys (h : RecordsOnly s t) : t.sys = s.sys := congrArg State.sys (a₁ := exceptRecords t) (a₂ := exceptRecords s) h

theorem recordsOnly_policy (h : RecordsOnly s t) : t.fan.policy = s.fan.policy :=
  congrArg (fun x => x.fan.policy) (a₁ := exceptRecords t) (a₂ := exceptRecords s) h

/-- What the agreement says of the state as a whole. -/
theorem recordsOnly_eq (h : RecordsOnly s t) : t = { s with fan := t.fan, host := t.host, evt := t.evt } := by
  cases s
  cases t
  simp only [RecordsOnly, exceptRecords, State.mk.injEq] at h ⊢
  simp only [h, and_self]

/-- A candidate is judged by what lies outside the records. -/
theorem recordsOnly_judge (h : RecordsOnly s t) (f : Fin 256) (k : Cand) : t.judge f k = s.judge f k :=
  congrArg (fun x => x.judge f k) (a₁ := exceptRecords t) (a₂ := exceptRecords s) h

theorem recordsOnly_hasLine (h : RecordsOnly s t) (c : Fin 256) (d : Nat) : t.hasLine c d = s.hasLine c d :=
  congrArg (fun x => x.hasLine c d) (a₁ := exceptRecords t) (a₂ := exceptRecords s) h

theorem recordsOnly_followed (h : RecordsOnly s t) : t.followed = s.followed :=
  congrArg (fun x => x.followed) (a₁ := exceptRecords t) (a₂ := exceptRecords s) h

theorem recordsOnly_shadowsOf (h : RecordsOnly s t) (f : Fin 256) : t.shadowsOf f = s.shadowsOf f :=
  congrArg (fun x => x.shadowsOf f) (a₁ := exceptRecords t) (a₂ := exceptRecords s) h

theorem recordsOnly_fanWins (h : RecordsOnly s t) : t.fanWins = s.fanWins :=
  congrArg (fun x => x.fanWins) (a₁ := exceptRecords t) (a₂ := exceptRecords s) h

theorem recordsOnly_pol (h : RecordsOnly s t) (b : Nat) : t.pol b = s.pol b :=
  congrArg (fun x => x.pol b) (a₁ := exceptRecords t) (a₂ := exceptRecords s) h

theorem recordsOnly_pol16 (h : RecordsOnly s t) (b : Nat) : t.pol16 b = s.pol16 b :=
  congrArg (fun x => x.pol16 b) (a₁ := exceptRecords t) (a₂ := exceptRecords s) h

/-- READY reads the playing delay of the record and what lies outside the records. -/
theorem recordsOnly_ready (h : RecordsOnly s t) {f : Fin 256} (hd : t.fan.follow[f].delayFrames = s.fan.follow[f].delayFrames) (k : Cand) :
    t.ready f k = s.ready f k := by
  have hdelay : t.shadowDelay f k = s.shadowDelay f k := by rw [State.shadowDelay, State.shadowDelay, hd]
  simp only [State.ready, hdelay, recordsOnly_hasLine h]

/-- The margin reads the score of the current source besides. -/
theorem recordsOnly_margin (h : RecordsOnly s t) {f : Fin 256} (hd : t.fan.follow[f].delayFrames = s.fan.follow[f].delayFrames)
    (hq : t.fan.follow[f].curScore = s.fan.follow[f].curScore) {k : Cand} : t.margin f k = s.margin f k := by
  have husable : t.candUsable k = s.candUsable k := congrArg (fun x => x.candUsable k) (a₁ := exceptRecords t) (a₂ := exceptRecords s) h
  have hdip : t.canDip f k = s.canDip f k := congrArg (fun x => x.canDip f k) (a₁ := exceptRecords t) (a₂ := exceptRecords s) h
  have hflag : t.polFlag 3 = s.polFlag 3 := congrArg (fun x => x.polFlag 3) (a₁ := exceptRecords t) (a₂ := exceptRecords s) h
  simp only [State.margin, hq, recordsOnly_ready h hd, recordsOnly_pol h, husable, hdip, hflag]

/-- MIN_STAY counts from the end of the last switch. -/
theorem recordsOnly_stayed (h : RecordsOnly s t) {f : Fin 256} (hl : t.fan.follow[f].lastSwitch = s.fan.follow[f].lastSwitch) :
    t.stayed f = s.stayed f := by
  simp only [State.stayed, hl, recordsOnly_pol16 h, recordsOnly_sys h]

end Records

end Sys2Proof.Proofs
end

section
/-!
SUPPORT. A switch of a followed context: what its start and its end make of the record, of the context and of the shadow that it brings in
(R229, R238 to R245).
-/

namespace Sys2Proof.Proofs

open Sys2Proof Sys2Proof.Machine Sys2Proof.Laws

/-! ### The start of a switch (R238 to R240) -/

section Start

variable {s t : State} {f : Fin 256} {i reason ms : Nat} {k : Cand} {dip : Bool}

/-- The switch that starts to candidate `i`: a blend, or a dip where the candidate is not READY. -/
def begunSwitch (s : State) (i ms : Nat) (dip : Bool) (k : Cand) : Blend :=
  { dest := i, dip := dip, reversed := false, started := s.sys.timeUs, ms := if dip then 2 * s.pol 46 else ms
    lvl := if dip then 0 else s.lvlOf k, short := false, pos := 0, wait := 0 }

theorem recordsOnly_begunSwitch (h : RecordsOnly s t) : begunSwitch t i ms dip k = begunSwitch s i ms dip k :=
  congrArg (begunSwitch · i ms dip k) (a₁ := exceptRecords t) (a₂ := exceptRecords s) h

/-- The same switch, told by whether the candidate is READY. -/
theorem begunSwitch_ready (s : State) (f : Fin 256) (i ms : Nat) (k : Cand) : begunSwitch s i ms (!s.ready f k) k =
    { dest := i, dip := !s.ready f k, reversed := false, started := s.sys.timeUs, ms := if s.ready f k then ms else 2 * s.pol 46
      lvl := if s.ready f k then s.lvlOf k else 0, short := false, pos := 0, wait := 0 } := by
  cases h : s.ready f k <;> rfl

/-- A switch on failure or for a gap ends a spell without a candidate (R227). -/
def spellOver (s : State) (f : Fin 256) (reason : Nat) : State :=
  if (reason = 0 ∨ reason = 2) ∧ s.fan.follow[f].noCand = true then
    (s.noCandEvent f 1).modFollow f fun w => { w with noCand := false }
  else s

/-- What is left of the mark of such a spell. -/
def spellMark (reason : Nat) (w : Follow) : Follow := { w with noCand := w.noCand && !decide (reason = 0 ∨ reason = 2) }

theorem spellMark_id {w : Follow} (h : ¬((reason = 0 ∨ reason = 2) ∧ w.noCand = true)) : spellMark reason w = w := by
  have hsame : (w.noCand && !decide (reason = 0 ∨ reason = 2)) = w.noCand := by
    cases hno : w.noCand with
    | false => rfl
    | true => rw [decide_eq_false fun hreason => h ⟨hreason, hno⟩]; rfl
  rw [spellMark, hsame]

theorem rest_spellOver (s : State) (f : Fin 256) (reason : Nat) : Rest (s.modFollow f (spellMark reason)) (spellOver s f reason) := by
  unfold spellOver
  split
  · next h =>
    rw [modFollow_congr (h := fun w => { w with noCand := false }) (by simp only [spellMark, h.1, decide_true, Bool.not_true, Bool.and_false])]
    exact rest_modFollow (rest_raise (Rest.refl s) _ _ _) f _
  · next h =>
    rw [modFollow_id (spellMark_id h)]
    exact Rest.refl s

/-- A switch is counted (FAN.SWITCHES). -/
def switchCounted (s : State) : State := { s with fan := { s.fan with switches := s.fan.switches + 1 } }

theorem cutBlend_none (h : s.fan.follow[f].blend = none) (code : Nat) : s.cutBlend f code = s := by
  simp only [State.cutBlend, h]

theorem startSwitch_eq (hk : s.cand f i = some k) (hb : s.fan.follow[f].blend = none)
    (ht : t = spellOver ((s.modFollow f fun w => { w with under := [] }).switchEvent f reason (!s.ready f k) k) f reason) :
    s.startSwitch f i reason ms = switchCounted (t.modFollow f fun w =>
      { w with dwellOk := none, blend := some (begunSwitch t i ms (!s.ready f k) k) }) := by
  rw [State.startSwitch, hk]
  simp only [cutBlend_none hb, hb, ht]
  rfl

/-- What the start makes of a record that holds no switch. -/
def startedRecord (reason : Nat) (b : Blend) (w : Follow) : Follow :=
  { spellMark reason w with under := [], dwellOk := none, blend := some b }

/-- The start of a switch where none runs, up to what the host is told. -/
theorem rest_startSwitch (hk : s.cand f i = some k) (hb : s.fan.follow[f].blend = none) (reason ms : Nat) :
    Rest (switchCounted (s.modFollow f (startedRecord reason (begunSwitch s i ms (!s.ready f k) k)))) (s.startSwitch f i reason ms) := by
  obtain ⟨t, ht⟩ : ∃ t, t = spellOver ((s.modFollow f fun w => { w with under := [] }).switchEvent f reason (!s.ready f k) k) f reason :=
    ⟨_, rfl⟩
  have hspell : Rest ((s.modFollow f fun w => { w with under := [] }).modFollow f (spellMark reason)) t :=
    ht ▸ rest_trans (rest_modFollow (rest_raise (Rest.refl _) _ _ _) f _) (rest_spellOver _ f reason)
  have hrec : RecordsOnly s t := recordsOnly_trans (t := (s.modFollow f _).modFollow f _) rfl (recordsOnly_of_rest hspell)
  rw [startSwitch_eq hk hb ht, recordsOnly_begunSwitch (s := s) hrec]
  have h := congrArg switchCounted (rest_modFollow hspell f fun w =>
    { w with dwellOk := none, blend := some (begunSwitch s i ms (!s.ready f k) k) })
  rw [modFollow_modFollow, modFollow_modFollow] at h
  exact h

section Started

variable (hk : s.cand f i = some k) (hb : s.fan.follow[f].blend = none) (reason ms : Nat)

include hk hb

theorem startSwitch_fan : (s.startSwitch f i reason ms).fan =
    (switchCounted (s.modFollow f (startedRecord reason (begunSwitch s i ms (!s.ready f k) k)))).fan :=
  rest_fan_eq (rest_startSwitch hk hb reason ms)

theorem startSwitch_follow : (s.startSwitch f i reason ms).fan.follow[f] =
    startedRecord reason (begunSwitch s i ms (!s.ready f k) k) s.fan.follow[f] := by
  rw [startSwitch_fan hk hb]
  exact modFollow_same s f _

theorem startSwitch_blend : (s.startSwitch f i reason ms).fan.follow[f].blend = some (begunSwitch s i ms (!s.ready f k) k) := by
  rw [startSwitch_follow hk hb]
  rfl

theorem startSwitch_switches : (s.startSwitch f i reason ms).fan.switches = s.fan.switches + 1 := by
  rw [startSwitch_fan hk hb]
  rfl

theorem startSwitch_svc : (s.startSwitch f i reason ms).svc = s.svc :=
  (rest_svc_eq (rest_startSwitch hk hb reason ms)).trans rfl

end Started

end Start

/-! ### What a failure and an improvement choose (R226 to R228) -/

section Choice

variable {s : State} {f : Fin 256} {i : Nat} {k : Cand}

/-- No candidate at all: source 51 CODE 0, once. -/
theorem onFailure_none (h : s.fan.follow[f].cands = []) : s.onFailure f =
    if s.fan.follow[f].noCand then s else (s.noCandEvent f 0).modFollow f fun w => { w with noCand := true } := by
  simp only [State.onFailure, best_nil (candList_nil h), ite_self, Option.orElse_none]

/-- A READY candidate that is not blocked is the one taken. -/
theorem onFailure_ready (h : s.fan.follow[f].cands = [some k]) (hready : s.ready f k = true) (hfree : k.blocked = false) :
    s.onFailure f = s.startSwitch f 0 0 (s.pol16 42) := by
  have hbest : s.best f (fun k => s.ready f k && !k.blocked) = some 0 := best_one (candList_one h) (by rw [hready, hfree]; rfl)
  simp only [State.onFailure, hbest, Option.orElse_some]

/-- The candidate whose DWELL_GOOD has elapsed is switched to once MIN_STAY is over and no switch runs. -/
theorem improve_switches (hd : s.fan.follow[f].dwellOk = some i) (hk : s.cand f i = some k) (hm : s.margin f k = true)
    (hs : s.stayed f = true) (hb : s.fan.follow[f].blend = none) : s.improve f = s.startSwitch f i 1 (s.pol16 42) := by
  simp only [State.improve, hd, hk, hm, hs, hb, Option.isNone_none, and_self, if_true]

end Choice

/-! ### The end of a switch (R229, R244) -/

section End

variable {s : State} {f c : Fin 256} {i : Nat} {k : Cand} {b : Blend}

/-- A move to a state, or to the state that the context has already. -/
theorem rest_moveCtx_to (s : State) (c : Fin 256) (new : CtxState) (reason : Nat) :
    Rest (s.modCtx c fun x => { x with st := new }) (s.moveCtx c new reason) := by
  by_cases h : s.svc.ctx[c].st = new
  · rw [State.moveCtx, if_pos h, modCtx_id (by rw [← h])]
    exact Rest.refl s
  · exact rest_moveCtx h reason

@[simp] theorem moveCtx_fan (s : State) (c : Fin 256) (new : CtxState) (reason : Nat) : (s.moveCtx c new reason).fan = s.fan :=
  (rest_fan_eq (rest_moveCtx_to s c new reason)).trans rfl

theorem moveCtx_ctx_same (s : State) (c : Fin 256) (new : CtxState) (reason : Nat) :
    (s.moveCtx c new reason).svc.ctx[c] = { s.svc.ctx[c] with st := new } := by
  rw [rest_svc_eq (rest_moveCtx_to s c new reason)]
  exact upd_same _ c _

theorem moveCtx_ctx_other (new : CtxState) (reason : Nat) {d : Fin 256} (h : d ≠ c) :
    (s.moveCtx c new reason).svc.ctx[d] = s.svc.ctx[d] := by
  rw [rest_svc_eq (rest_moveCtx_to s c new reason)]
  exact upd_other _ c d _ h.symm

/-- A context with the source, the delay, the decoder and the state of another. -/
def withSourceOf (y x : Ctx) : Ctx :=
  { x with runner := y.runner, component := y.component, decoder := y.decoder, delay := y.delay, concealed := y.concealed
           line := y.line, pcm := y.pcm, conv := y.conv, st := y.st }

@[simp] theorem swapShadow_fan (s : State) (f c : Fin 256) : (s.swapShadow f c).fan = s.fan := by
  simp only [State.swapShadow, moveCtx_fan, modCtx_fan]

theorem swapShadow_ctx (h : c ≠ f) : (s.swapShadow f c).svc.ctx[f] = withSourceOf s.svc.ctx[c] s.svc.ctx[f] := by
  rw [State.swapShadow, moveCtx_ctx_other _ _ h.symm, moveCtx_ctx_same, modCtx_svc, upd_other _ c f _ h, modCtx_svc, upd_same]
  rfl

theorem swapShadow_shadow (h : c ≠ f) : (s.swapShadow f c).svc.ctx[c] = withSourceOf s.svc.ctx[f] s.svc.ctx[c] := by
  rw [State.swapShadow, moveCtx_ctx_same, moveCtx_ctx_other _ _ h, modCtx_svc, upd_same, modCtx_svc, upd_other _ f c _ h.symm]
  rfl

/-- A record whose switch has ended. -/
def switchEnded (now : D) (w : Follow) : Follow := { w with blend := none, lastSwitch := some now, under := [] }

/-- A record after the commit to a candidate: its table and delay, and the current source as that of the candidate. -/
def committed (cands : List (Option Cand)) (delay : Nat) (k : Cand) (w : Follow) : Follow :=
  { w with cands := cands, delayFrames := delay, failed := false, gapped := false, dwellOk := none, curScore := k.score
           curQ := k.q }

theorem commitSwitch_shadow (hc : k.shadow = some c) : ∃ l d,
    s.commitSwitch f i k = (s.swapShadow f c).modFollow f (committed l d k) := by
  simp only [State.commitSwitch, hc]
  exact ⟨_, _, modFollow_congr rfl⟩

/-- A switch that has run back leaves the source as it was. -/
theorem rest_endSwitch_reversed (hb : s.fan.follow[f].blend = some b) (hr : b.reversed = true) :
    Rest (s.modFollow f (switchEnded s.sys.timeUs)) (s.endSwitch f) := by
  simp only [State.endSwitch, hb, hr, true_or, if_true]
  split <;> exact rest_raise (Rest.refl _) _ _ _

/-- A switch to a shadow that ends commits it. -/
theorem endSwitch_commits (hb : s.fan.follow[f].blend = some b) (hr : b.reversed = false) (hk : s.cand f b.dest = some k)
    (hc : k.shadow = some c) : s.endSwitch f = (((s.modFollow f (switchEnded s.sys.timeUs)).commitSwitch f b.dest k).modFollow f fun w =>
      { w with gain := 12000 * b.lvl }).blendEvent f (if b.short then 4 else 0) b := by
  have hcand : (s.modFollow f (switchEnded s.sys.timeUs)).cand f b.dest = some k := (modFollow_cand rfl _).trans hk
  have hcand' : (s.modFollow f fun w => { w with blend := none, lastSwitch := some s.sys.timeUs, under := [] }).cand f b.dest = some k :=
    hcand
  simp only [State.endSwitch, hb, hcand', hr, hc, Option.isNone_some, Bool.false_eq_true, and_false, false_and, or_self, if_false]
  rfl

/-- What a committed switch leaves: source and component exchanged, the record that of the new source, FAN.CTL as it was. -/
theorem endSwitch_exchanges (hb : s.fan.follow[f].blend = some b) (hr : b.reversed = false) (hk : s.cand f b.dest = some k)
    (hc : k.shadow = some c) (hne : c ≠ f) :
    (s.endSwitch f).svc.ctx[f] = withSourceOf s.svc.ctx[c] s.svc.ctx[f] ∧ (s.endSwitch f).svc.ctx[c] = withSourceOf s.svc.ctx[f] s.svc.ctx[c] ∧
    (s.endSwitch f).fan.ctl = s.fan.ctl ∧ ∃ l d, (s.endSwitch f).fan.follow[f] =
      { committed l d k (switchEnded s.sys.timeUs s.fan.follow[f]) with gain := 12000 * b.lvl } := by
  obtain ⟨t, ht⟩ : ∃ t, t = s.modFollow f (switchEnded s.sys.timeUs) := ⟨_, rfl⟩
  obtain ⟨l, d, hcommit⟩ := commitSwitch_shadow (s := t) (f := f) (i := b.dest) hc
  have hrest : Rest ((t.swapShadow f c).modFollow f fun w => { committed l d k w with gain := 12000 * b.lvl }) (s.endSwitch f) := by
    rw [endSwitch_commits hb hr hk hc, ← ht, hcommit, modFollow_modFollow]
    exact rest_raise (Rest.refl _) _ _ _
  have hsvc : t.svc = s.svc := by rw [ht]; rfl
  rw [rest_svc_eq hrest, rest_fan_eq hrest, modFollow_svc, swapShadow_ctx hne, swapShadow_shadow hne, hsvc, modFollow_same,
    modFollow_fan, swapShadow_fan, ht, modFollow_same]
  exact ⟨rfl, rfl, rfl, l, d, rfl⟩

/-- BLEND_END and DIP_END end the switch of their kind while the Fantail is on. -/
theorem switchEnds_same (hctl : (s.endSwitch f).fan.ctl.getLsbD 0 = true) (hb : s.fan.follow[f].blend = some b) :
    exec (if b.dip then .dipEnd f else .blendEnd f) s = .next (s.endSwitch f) := by
  have hends : s.switchEnds f b.dip = s.endSwitch f := by simp only [State.switchEnds, hb, hctl, if_true]
  rw [← hends]
  cases b.dip <;> rfl

theorem switchEnds_otherKind (hb : s.fan.follow[f].blend = some b) :
    exec (if b.dip then .blendEnd f else .dipEnd f) s = .next s := by
  have hends : s.switchEnds f (!b.dip) = s := by
    simp only [State.switchEnds, hb]
    exact if_neg (Bool.eq_not_self b.dip).mp
  refine Eq.trans ?_ (congrArg Host.Outcome.next hends)
  cases b.dip <;> rfl

theorem switchEnds_none (hb : s.fan.follow[f].blend = none) (dip : Bool) : s.switchEnds f dip = s := by
  simp only [State.switchEnds, hb]

end End

end Sys2Proof.Proofs
end

section
/-!
SUPPORT. The scoring tick (R220 to R228, R237): the steps that have nothing to do, the scores that it takes, and what it decides for a
followed context whose source has failed.
-/

namespace Sys2Proof.Proofs

open Sys2Proof Sys2Proof.Machine Sys2Proof.Laws

/-! ### Steps that have nothing to do -/

section Idle

variable {s : State} {f : Fin 256}

/-- Nothing has been heard, and nothing heard earlier is held (R221). -/
def NothingHeard (s : State) : Prop :=
  s.fan.heard = [] ∧ s.fan.links = [] ∧ s.fan.freqs = [] ∧ s.fan.others = [] ∧ s.fan.sdcs = []

theorem takeSignals_quiet (h : NothingHeard s) : s.takeSignals = s := by
  obtain ⟨hheard, hlinks, hfreqs, hothers, hsdcs⟩ := h
  have hfan : ({ s.fan with heard := [], links := [], freqs := [], others := [], sdcs := [] } : FanBlk) = s.fan := by
    rw [← hheard, ← hlinks, ← hfreqs, ← hothers, ← hsdcs]
  simp only [State.takeSignals, hheard, hlinks, hfreqs, hothers, hsdcs, List.foldl_nil, List.filter_nil]
  rw [hfan]

theorem signalAll_quiet (h : NothingHeard s) (hsig : ∀ f ∈ s.followed, s.signals f = []) : s.signalAll = s := by
  rw [State.signalAll, takeSignals_quiet h]
  refine List.foldlRecOn (motive := fun t => t = s) _ _ rfl fun t ht f hf => ?_
  rw [ht, hsig f hf]
  rfl

theorem closeFanWins_none (h : s.fanWins = []) : s.closeFanWins = s := by
  rw [State.closeFanWins, h]
  rfl

theorem trimFanWins_none (h : s.fanWins = []) : s.trimFanWins = s := by
  rw [State.trimFanWins, h, List.drop_nil]
  rfl

theorem fanOff_none (hshadows : s.idleShadows = []) (hwins : s.fanWins = []) : s.fanOff = s := by
  simp only [State.fanOff, hshadows, hwins, List.foldl_nil, List.filter_nil]

/-- Every candidate of the followed contexts is on its runner. -/
def AllOnRunners (s : State) : Prop := ∀ f ∈ s.followed, ∀ e ∈ s.candList f, e.2.runner.isSome = true

theorem bringOrder_none (h : AllOnRunners s) : s.bringOrder = [] := by
  have hnone : (s.followed.flatMap fun f => (s.candList f).map fun e => (f, e.1, e.2)).filter (fun e =>
      e.2.2.runner.isNone && !e.2.2.blocked && (s.windowFor e.2.2.std e.2.2.freq).isNone) = [] := by
    refine List.filter_eq_nil_iff.mpr fun x hx => ?_
    obtain ⟨f, hf, hxf⟩ := List.mem_flatMap.mp hx
    obtain ⟨e, he, rfl⟩ := List.mem_map.mp hxf
    simp [Option.isNone_eq_false_iff.mpr (h f hf e he)]
  rw [State.bringOrder, hnone]
  rfl

theorem fanProbes_none (h : AllOnRunners s) : s.fanProbes = s := by
  have hnone : (s.followed.flatMap fun f => (s.candList f).map Prod.snd).filter (fun k =>
      decide (k.std = 1) && !k.verified && k.runner.isNone && !k.blocked) = [] := by
    refine List.filter_eq_nil_iff.mpr fun x hx => ?_
    obtain ⟨f, hf, hxf⟩ := List.mem_flatMap.mp hx
    obtain ⟨e, he, rfl⟩ := List.mem_map.mp hxf
    simp [Option.isNone_eq_false_iff.mpr (h f hf e he)]
  rw [State.fanProbes, hnone]
  rfl

/-- No shadow is too many and no candidate waits to become one. -/
theorem shadows_settled (hlen : (s.shadowsOf f).length ≤ s.pol 51) (hall : ∀ e ∈ s.candList f, e.2.shadow.isSome = true) :
    s.shadows f = s := by
  have hrank : (s.candList f).filter (fun e =>
      e.2.verified && !e.2.blocked && e.2.shadow.isNone && decide (e.2.score ≠ 0) && s.candUsable e.2) = [] :=
    List.filter_eq_nil_iff.mpr fun e he => by simp [Option.isNone_eq_false_iff.mpr (hall e he)]
  rw [State.shadows, List.foldl_fixed' (fun _ => if_neg hlen.not_gt) (List.range _), State.shadowRank, hrank]
  rfl

theorem moveDelay_notRunning (h : s.svc.ctx[f].st ≠ .running) (pace : Nat) : s.moveDelay f pace = s := by
  simp only [State.moveDelay, h, or_true, if_true, ne_eq, not_false_eq_true]

end Idle

/-! ### The estimators at work -/

section Estimators

/-- `t` is `s` with estimators that were free taken up. -/
def EstimatorsTaken (s t : State) : Prop :=
  ∃ v : Vector Estimator 4, t = { s with fan := { s.fan with est := v } } ∧ ∀ e : Fin 4, s.fan.est[e].work.isSome = true → v[e] = s.fan.est[e]

theorem estimatorsTaken_assignEst (s : State) : EstimatorsTaken s s.assignEst := by
  refine List.foldlRecOn (motive := EstimatorsTaken s) _ _ ⟨_, rfl, fun _ _ => rfl⟩ fun t ht p _ => ?_
  dsimp only
  split
  · exact ht
  · split
    · next e he =>
      obtain ⟨v, rfl, hv⟩ := ht
      refine ⟨_, rfl, fun k hk => ?_⟩
      have hfree : v[e].work.isNone = true := List.find?_some (p := fun e : Fin 4 => v[e].work.isNone) he
      have hne : e ≠ k := by
        rintro rfl
        rw [hv e hk, Option.isNone_eq_false_iff.mpr hk] at hfree
        exact Bool.false_ne_true hfree
      exact (upd_other v e k _ hne).trans (hv k hk)
    · exact ht

theorem estimatorsTaken_records {s t : State} (h : EstimatorsTaken s t) : RecordsOnly s t := by
  obtain ⟨v, rfl, -⟩ := h
  rfl

theorem estimatorsTaken_follow {s t : State} (h : EstimatorsTaken s t) : t.fan.follow = s.fan.follow := by
  obtain ⟨v, rfl, -⟩ := h
  rfl

theorem assignEst_none {s : State} (h : ∀ f ∈ s.followed, s.candList f = []) : s.assignEst = s := by
  have horder : (s.followed.flatMap fun f => (sortDesc (fun e : Nat × Cand => e.2.score)
      ((s.candList f).filter fun e => e.2.shadow.isSome && !e.2.retry)).map fun e => (f, e.1)) = [] :=
    List.flatMap_eq_nil_iff.mpr fun f hf => by
      rw [h f hf]
      rfl
  rw [State.assignEst, horder]
  rfl

end Estimators

/-! ### Scores (R223, R225) -/

section Scores

variable {s t : State} {f : Fin 256} {i : Nat}

theorem judgeCand_none (h : s.cand f i = none) : s.judgeCand f i = s := by
  simp only [State.judgeCand, h]

/-- A candidate is judged, up to source 52. -/
theorem rest_judgeCand (s : State) (f : Fin 256) (i : Nat) : Rest (s.modCand f i (s.judge f)) (s.judgeCand f i) := by
  cases hk : s.cand f i with
  | none =>
    rw [judgeCand_none hk, modCand_none _ hk]
    exact Rest.refl s
  | some k =>
    have hsame : s.modCand f i (s.judge f) = s.modCand f i fun _ => s.judge f k := modCand_congr (by rw [hk]; rfl)
    have hevent (code : Nat) : Rest (s.modCand f i (s.judge f)) ((s.modCand f i fun _ => s.judge f k).candEvent f code i (s.judge f k)) :=
      hsame ▸ rest_raiseLimitedWith (Rest.refl _) _ _ _ _ _ _
    simp only [State.judgeCand, hk]
    exact Rest.ite (hevent 2) (Rest.ite (hevent 3) (hsame ▸ Rest.refl _))

/-- A table whose candidates below `n` have been judged. -/
def judgedBelow (s : State) (f : Fin 256) (n : Nat) (l : List (Option Cand)) : List (Option Cand) :=
  l.mapIdx fun j e => if j < n then e.map (s.judge f) else e

theorem judgedBelow_zero (l : List (Option Cand)) : judgedBelow s f 0 l = l := List.ext_getElem? fun j => by simp [judgedBelow]

theorem judgedBelow_succ (n : Nat) (l : List (Option Cand)) :
    listUpd (judgedBelow s f n l) n (Option.map (s.judge f)) = judgedBelow s f (n + 1) l := by
  refine List.ext_getElem? fun j => ?_
  simp only [listUpd, judgedBelow, List.getElem?_mapIdx, Option.map_map]
  congr 1
  funext e
  obtain hlt | rfl | hgt := Nat.lt_trichotomy j n
  · simp [hlt, hlt.ne, Nat.lt_succ_of_lt hlt]
  · simp
  · simp [hgt.ne', hgt.not_gt, hgt.not_ge]

theorem rest_foldl_judgeCand (h : RecordsOnly s t) (n : Nat) : Rest (t.modFollow f fun w => { w with cands := judgedBelow s f n w.cands })
    ((List.range n).foldl (fun s i => s.judgeCand f i) t) := by
  induction n with
  | zero =>
    rw [modFollow_id (by rw [judgedBelow_zero])]
    exact Rest.refl t
  | succ n ih =>
    obtain ⟨u, hu⟩ : ∃ u, u = (List.range n).foldl (fun s i => s.judgeCand f i) t := ⟨_, rfl⟩
    rw [← hu] at ih
    have hjudge : u.judge f = s.judge f := funext fun k => by
      rw [recordsOnly_judge (recordsOnly_trans (t := t.modFollow f _) h (recordsOnly_of_rest ih))]
    have hstep := rest_judgeCand u f n
    rw [hjudge] at hstep
    rw [List.range_succ, List.foldl_append, ← hu]
    refine rest_trans ?_ hstep
    have h := rest_modFollow ih f fun w => { w with cands := listUpd w.cands n (Option.map (s.judge f)) }
    rw [modFollow_modFollow] at h
    simp only [judgedBelow_succ] at h
    exact h

/-- The current source of a record, with its quality and score. -/
def sourceScored (s : State) (f : Fin 256) (w : Follow) : Follow :=
  let r := s.svc.ctx[f].runner
  { w with curQ := s.runnerQ r, curScore := s.scoreOf (s.stdOf r) (s.runnerQ r)
           failed := w.failed && !decide (s.th8 (s.stdOf r) ≤ s.runnerQ r) }

/-- A record after its scores are taken. -/
def scored (s : State) (f : Fin 256) (w : Follow) : Follow :=
  { sourceScored s f w with cands := judgedBelow s f 32 w.cands }

theorem rest_scoreFor (s : State) (f : Fin 256) : Rest (s.modFollow f (scored s f)) (s.scoreFor f) := by
  have h := rest_foldl_judgeCand (t := s.modFollow f (sourceScored s f)) (f := f) (RecordsOnly.refl s) 32
  rw [modFollow_modFollow] at h
  exact h

theorem recordsOnly_scoreFor (s : State) (f : Fin 256) : RecordsOnly s (s.scoreFor f) :=
  recordsOnly_trans (t := s.modFollow f _) rfl (recordsOnly_of_rest (rest_scoreFor s f))

theorem scoreFor_follow (s : State) (f : Fin 256) : (s.scoreFor f).fan.follow[f] = scored s f s.fan.follow[f] := by
  rw [rest_fan_eq (rest_scoreFor s f), modFollow_same]

/-- With an empty table the tick scores the source alone. -/
theorem scoreFor_nil (h : s.fan.follow[f].cands = []) : s.scoreFor f = s.modFollow f (sourceScored s f) := by
  have hnone (i : Nat) : (s.modFollow f (sourceScored s f)).cand f i = none := by
    rw [modFollow_cand rfl, State.cand, h]
    rfl
  rw [State.scoreFor]
  exact List.foldl_fixed' (fun i => judgeCand_none (hnone i)) _

end Scores

/-! ### The tick of one followed context that has no output yet -/

section Tick

variable {s t : State} {f : Fin 256}

theorem followed_congr (h : t.svc = s.svc) : t.followed = s.followed := by
  simp only [State.followed, h]

/-- The tick comes down to the scores, the estimators and the decision. -/
theorem fanTick_waiting (hf : s.followed = [f]) (hw : s.fanWins = []) (hq : NothingHeard s) (hsig : s.signals f = [])
    (hst : s.svc.ctx[f].st = .acquiring) (hlen : (s.shadowsOf f).length ≤ s.pol 51) (ht : t = s.scoreFor f)
    (hall : ∀ e ∈ t.candList f, e.2.runner.isSome = true ∧ e.2.shadow.isSome = true) (hsvc : (t.assignEst.decideFor f).svc = s.svc)
    (pace : List Nat) : s.fanTick pace = (t.assignEst.decideFor f).modFollow f fun w => { w with gapped := false } := by
  have hrec : RecordsOnly s t := ht ▸ recordsOnly_scoreFor s f
  have htf : t.followed = [f] := (recordsOnly_followed hrec).trans hf
  have htw : t.fanWins = [] := (recordsOnly_fanWins hrec).trans hw
  have hon : AllOnRunners t := fun g hg e he => (hall e (by rw [htf, List.mem_singleton] at hg; exact hg ▸ he)).1
  have hshadows : t.shadows f = t :=
    shadows_settled (by rw [recordsOnly_shadowsOf hrec, recordsOnly_pol hrec]; exact hlen) fun e he => (hall e he).2
  have hest : t.assignEst.svc = s.svc :=
    (recordsOnly_svc (estimatorsTaken_records (estimatorsTaken_assignEst t))).trans (recordsOnly_svc hrec)
  have hmove : t.assignEst.moveDelay f (pace.getD f.val 0) = t.assignEst := moveDelay_notRunning (by rw [hest, hst]; exact nofun) _
  have hef : t.assignEst.followed = [f] := (followed_congr hest).trans hf
  have hdf : (t.assignEst.decideFor f).followed = [f] := (followed_congr hsvc).trans hf
  have hscore : s.followed.foldl State.scoreFor s = t := by rw [hf, ht, List.foldl_cons, List.foldl_nil]
  have hsignal : s.signalAll = s := signalAll_quiet hq fun g hg => by rw [hf, List.mem_singleton] at hg; exact hg ▸ hsig
  simp only [State.fanTick, hsignal, hscore, closeFanWins_none htw, trimFanWins_none htw, bringOrder_none hon, List.foldl_nil, ite_self,
    fanProbes_none hon, htf, List.foldl_cons, hshadows, hef, hmove, hdf]

end Tick

/-! ### SCORE_TICK (R220, R226, R227, R247) -/

section ScoreTick

variable {s t : State} {f c : Fin 256} {k : Cand} {x : List Nat}

theorem scoreTick_stopped (h : s.pairRuns 0 = false) : exec (.fanScoreTick x) s = .next s :=
  congrArg Host.Outcome.next (if_neg (ne_true_of_eq_false h))

/-- A tick of the Fantail while it is on, with no policy that waits. -/
theorem scoreTick_on (hruns : s.pairRuns 0 = true) (hctl : s.fan.ctl.getLsbD 0 = true) (hpol : s.fan.nextPolicy = none) :
    exec (.fanScoreTick x) s = .next (s.fanTick x) := by
  have hadopt : s.adoptPolicy = s := by simp only [State.adoptPolicy, hpol]
  refine congrArg Host.Outcome.next ((if_pos hruns).trans ?_)
  dsimp only
  rw [hadopt, if_pos hctl]

/-- With nothing followed a tick does no more than adopt the policy that waits. -/
theorem scoreTick_nothingFollowed {l : List Byte} (hruns : s.pairRuns 0 = true) (hf : s.followed = []) (hw : s.fanWins = [])
    (hidle : s.idleShadows = []) (hq : NothingHeard s) (hpol : s.fan.nextPolicy = some l) :
    exec (.fanScoreTick x) s = .next { s with fan := { s.fan with policy := l, nextPolicy := none } } := by
  obtain ⟨t, ht⟩ : ∃ t : State, t = { s with fan := { s.fan with policy := l, nextPolicy := none } } := ⟨_, rfl⟩
  have hadopt : s.adoptPolicy = t := by simp only [State.adoptPolicy, hpol, ht]
  have htf : t.followed = [] := by rw [ht]; exact hf
  have htw : t.fanWins = [] := by rw [ht]; exact hw
  have hon : AllOnRunners t := fun g hg => by rw [htf] at hg; exact absurd hg List.not_mem_nil
  have hsignal : t.signalAll = t := signalAll_quiet (by rw [ht]; exact hq) fun g hg => by rw [htf] at hg; exact absurd hg List.not_mem_nil
  have hest : t.assignEst = t := assignEst_none fun g hg => by rw [htf] at hg; exact absurd hg List.not_mem_nil
  have htick : t.fanTick x = t := by
    simp only [State.fanTick, hsignal, htf, List.foldl_nil, closeFanWins_none htw, trimFanWins_none htw, bringOrder_none hon, ite_self,
      fanProbes_none hon, hest]
  have hoff : t.fanOff = t := fanOff_none (by rw [ht]; exact hidle) htw
  refine congrArg Host.Outcome.next ((if_pos hruns).trans ?_)
  dsimp only
  rw [hadopt, htick, hoff, ite_self, ht]

/-- The source of a context that is ACQUIRING has failed (R226). -/
theorem decideFor_acquiring (hb : s.fan.follow[f].blend = none) (hst : s.svc.ctx[f].st = .acquiring) : s.decideFor f = s.onFailure f := by
  have hgone : s.sourceGone f = true := by simp only [State.sourceGone, hst, decide_true, Bool.or_true, Bool.true_or]
  simp only [State.decideFor, hb, State.curFails, hgone, Bool.or_true, if_true]

section Waiting

variable (hruns : s.pairRuns 0 = true) (hctl : s.fan.ctl.getLsbD 0 = true) (hf : s.followed = [f]) (hw : s.fanWins = [])
  (hpol : s.fan.nextPolicy = none) (hb : s.fan.follow[f].blend = none) (hst : s.svc.ctx[f].st = .acquiring) (hq : NothingHeard s)
  (hsig : s.signals f = [])

include hruns hctl hf hw hpol hb hst hq hsig

/-- A failed source without a candidate: the context stays, and says so once. -/
theorem scoreTick_noCand (hcands : s.fan.follow[f].cands = []) (hshadows : s.shadowsOf f = []) : ∃ u : State,
    exec (.fanScoreTick x) s = .next u ∧ u.fan.follow[f].noCand = true ∧ u.fan.follow[f].blend = none ∧ u.fan.switches = s.fan.switches ∧
      u.fan.policy = s.fan.policy ∧ (s.fan.follow[f].noCand = true → u.host = s.host ∧ u.evt = s.evt) ∧
      u = { s with fan := u.fan, host := u.host, evt := u.evt } := by
  obtain ⟨t, ht⟩ : ∃ t, t = s.modFollow f (sourceScored s f) := ⟨_, rfl⟩
  have hrec : RecordsOnly s t := by rw [ht]; rfl
  have htfollow : t.fan.follow[f] = sourceScored s f s.fan.follow[f] := by rw [ht, modFollow_same]
  have htcands : t.fan.follow[f].cands = [] := htfollow ▸ hcands
  have hest : t.assignEst = t := assignEst_none fun g hg => by
    rw [recordsOnly_followed hrec, hf, List.mem_singleton] at hg
    rw [hg, candList_nil htcands]
  have hdecide : t.decideFor f = if s.fan.follow[f].noCand then t else (t.noCandEvent f 0).modFollow f fun w => { w with noCand := true } := by
    rw [decideFor_acquiring (htfollow ▸ hb) (by rw [recordsOnly_svc hrec]; exact hst), onFailure_none htcands, htfollow]
    rfl
  obtain ⟨v, hv⟩ : ∃ v, v = t.decideFor f := ⟨_, rfl⟩
  have hrest : Rest (t.modFollow f fun w => { w with noCand := true }) v := by
    rw [hv, hdecide]
    split
    · next hno =>
      rw [modFollow_id (by rw [htfollow]; simp only [sourceScored, hno])]
      exact Rest.refl t
    · exact rest_modFollow (rest_raise (Rest.refl t) _ _ _) f _
  have hvrec : RecordsOnly s v := recordsOnly_trans (t := t.modFollow f _) hrec (recordsOnly_of_rest hrest)
  have htick : s.fanTick x = v.modFollow f fun w => { w with gapped := false } := by
    rw [fanTick_waiting hf hw hq hsig hst (by rw [hshadows]; exact Nat.zero_le _) (ht.trans (scoreFor_nil hcands).symm)
      (by rw [candList_nil htcands]; exact fun e he => absurd he List.not_mem_nil) (by rw [hest, ← hv]; exact recordsOnly_svc hvrec), hest, hv]
  refine ⟨_, (scoreTick_on hruns hctl hpol).trans (congrArg Host.Outcome.next htick), ?_, ?_, ?_, recordsOnly_policy hvrec, fun hno => ?_,
    recordsOnly_eq (t := v.modFollow f _) hvrec⟩
  · rw [modFollow_same, rest_fan_eq hrest, modFollow_same]
  · rw [modFollow_same, rest_fan_eq hrest, modFollow_same, htfollow]
    exact hb
  · exact (congrArg FanBlk.switches (rest_fan_eq hrest)).trans (by rw [ht]; rfl)
  · rw [hv, hdecide, if_pos hno, ht]
    exact ⟨rfl, rfl⟩

/-- A failed source with a READY candidate: a blend of BLEND_MS starts. -/
theorem scoreTick_ready (hcands : s.fan.follow[f].cands = [some k]) (hshadows : s.shadowsOf f = [c]) (hmax : 1 ≤ s.pol 51)
    (hk : k.shadow = some c) (hfree : k.blocked = false) (hready : s.ready f (s.judge f k) = true) : ∃ u : State,
    exec (.fanScoreTick x) s = .next u ∧ u.fan.switches = s.fan.switches + 1 ∧ u.svc = s.svc ∧
      u.fan.follow[f].blend = some { dest := 0, dip := false, reversed := false, started := s.sys.timeUs, ms := s.pol16 42
                                     lvl := s.lvlOf k, short := false, pos := 0, wait := 0 } ∧
      u.cand f 0 = some (s.judge f k) := by
  obtain ⟨n, hn⟩ : ∃ n, n = s.judge f k := ⟨_, rfl⟩
  obtain ⟨t, ht⟩ : ∃ t, t = s.scoreFor f := ⟨_, rfl⟩
  obtain ⟨v, hv⟩ : ∃ v, v = t.assignEst := ⟨_, rfl⟩
  have hrec : RecordsOnly s t := ht ▸ recordsOnly_scoreFor s f
  have hest : EstimatorsTaken t v := hv ▸ estimatorsTaken_assignEst t
  have hvrec : RecordsOnly s v := recordsOnly_trans hrec (estimatorsTaken_records hest)
  have hjudged : n.shadow = some c ∧ n.runner.isSome = true ∧ n.blocked = false ∧ n.level = k.level := by
    simp only [hn, State.judge, State.demod, hk, Option.isSome_some, hfree, and_self]
  obtain ⟨hnshadow, hnrunner, hnfree, hnlevel⟩ := hjudged
  have htfollow : t.fan.follow[f] = { sourceScored s f s.fan.follow[f] with cands := [some n] } := by
    rw [ht, scoreFor_follow, scored, hcands, hn]
    rfl
  have hvfollow : v.fan.follow[f] = { sourceScored s f s.fan.follow[f] with cands := [some n] } := by
    rw [estimatorsTaken_follow hest, htfollow]
  have hvb : v.fan.follow[f].blend = none := hvfollow ▸ hb
  have hvcand : v.cand f 0 = some n := by rw [State.cand, hvfollow]; rfl
  have hvready : v.ready f n = true := (recordsOnly_ready hvrec (by rw [hvfollow]; rfl) n).trans (hn ▸ hready)
  have hdecide : v.decideFor f = v.startSwitch f 0 0 (s.pol16 42) := by
    rw [decideFor_acquiring hvb (by rw [recordsOnly_svc hvrec]; exact hst), onFailure_ready (by rw [hvfollow]) hvready hnfree,
      recordsOnly_pol16 hvrec]
  have hsvc : (v.startSwitch f 0 0 (s.pol16 42)).svc = s.svc := (startSwitch_svc hvcand hvb _ _).trans (recordsOnly_svc hvrec)
  have hswitches : (v.startSwitch f 0 0 (s.pol16 42)).fan.switches = s.fan.switches + 1 := by
    obtain ⟨y, rfl, -⟩ := hest
    rw [startSwitch_switches hvcand hvb, ht, rest_fan_eq (rest_scoreFor s f)]
    rfl
  have htick : s.fanTick x = (v.startSwitch f 0 0 (s.pol16 42)).modFollow f fun w => { w with gapped := false } := by
    rw [fanTick_waiting hf hw hq hsig hst (by rw [hshadows]; exact hmax) ht ?_ (by rw [← hv, hdecide, hsvc]), ← hv, hdecide]
    rw [candList_one (by rw [htfollow])]
    intro e he
    rw [List.mem_singleton.mp he, hnshadow]
    exact ⟨hnrunner, rfl⟩
  refine ⟨_, (scoreTick_on hruns hctl hpol).trans (congrArg Host.Outcome.next htick), hswitches, hsvc, ?_, ?_⟩
  · rw [modFollow_same]
    refine (startSwitch_blend hvcand hvb _ _).trans (congrArg some ?_)
    rw [hvready, recordsOnly_begunSwitch hvrec]
    simp only [begunSwitch, Bool.not_true, Bool.false_eq_true, if_false, State.lvlOf, hnlevel]
  · rw [modFollow_cand rfl, State.cand, startSwitch_follow hvcand hvb, hvfollow, ← hn]
    rfl

end Waiting

end ScoreTick

end Sys2Proof.Proofs
end

section
/-!
SUPPORT. The expiries of following (R221, R223, R226, R228, R244), gaps (R241, R243) and the ends of blends and dips (R229), and what the
Fantail decides as a whole.
-/

namespace Sys2Proof.Proofs

open Sys2Proof Sys2Proof.Machine Sys2Proof.Laws

/-! ### Expiries (R221, R223, R226, R228, R244) -/

section Expiries

variable {s : State} {f : Fin 256} {i : Nat} {k : Cand} {b : Blend}

/-- The incoming source of the switch that runs is gone: it runs back. -/
theorem loseIncoming_dest (hb : s.fan.follow[f].blend = some b) :
    s.loseIncoming f b.dest = s.modFollow f fun w => { w with blend := some { b with reversed := true } } :=
  modFollow_congr (by rw [hb, Option.map_some, if_pos rfl])

/-- HOLD_BAD while no switch runs marks the source failed where q is still below TH. -/
theorem holdBad_noBlend (hfol : s.svc.ctx[f].follow = true) (hb : s.fan.follow[f].blend = none) : exec (.fanHoldBadExpiry f) s =
    .next (if s.runnerQ s.svc.ctx[f].runner < s.th8 (s.stdOf s.svc.ctx[f].runner) then s.modFollow f fun w => { w with failed := true } else s) := by
  refine congrArg Host.Outcome.next ((if_pos hfol).trans ?_)
  rw [hb]

/-- In a blend whose incoming source is below TH it is the blend that runs back. -/
theorem holdBad_blend {r : Fin 32} (hfol : s.svc.ctx[f].follow = true) (hb : s.fan.follow[f].blend = some b)
    (hk : s.cand f b.dest = some k) (hr : s.demod f k = some r) (hq : s.runnerQ r < s.th8 k.std) :
    exec (.fanHoldBadExpiry f) s = .next (s.modFollow f fun w => { w with blend := some { b with reversed := true } }) := by
  refine congrArg Host.Outcome.next ((if_pos hfol).trans ?_)
  simp only [hb, hk, hr, if_pos hq]
  exact loseIncoming_dest hb

theorem holdBad_off (hfol : s.svc.ctx[f].follow = false) : exec (.fanHoldBadExpiry f) s = .next s :=
  congrArg Host.Outcome.next (if_neg (ne_true_of_eq_false hfol))

/-- DWELL_GOOD with the margin kept, MIN_STAY over and no blend starts a switch. -/
theorem dwellGood_switches {i : Fin 32} (hk : s.cand f i.val = some k) (hfol : s.svc.ctx[f].follow = true) (hctl : s.fan.ctl.getLsbD 0 = true)
    (hb : s.fan.follow[f].blend = none) (hm : s.margin f k = true) (hstay : s.stayed f = true) :
    exec (.fanDwellGoodExpiry f i) s = .next ((s.modFollow f fun w => { w with dwellOk := some i.val }).startSwitch f i.val 1 (s.pol16 42)) ∧
      ((s.modFollow f fun w => { w with dwellOk := some i.val }).startSwitch f i.val 1 (s.pol16 42)).fan.follow[f].blend =
        some { dest := i.val, dip := !s.ready f k, reversed := false, started := s.sys.timeUs
               ms := if s.ready f k then s.pol16 42 else 2 * s.pol 46, lvl := if s.ready f k then s.lvlOf k else 0, short := false
               pos := 0, wait := 0 } := by
  obtain ⟨t, ht⟩ : ∃ t, t = s.modFollow f fun w => { w with dwellOk := some i.val } := ⟨_, rfl⟩
  have hfollow : t.fan.follow[f] = { s.fan.follow[f] with dwellOk := some i.val } := by rw [ht, modFollow_same]
  have hrec : RecordsOnly s t := by rw [ht]; rfl
  have htk : t.cand f i.val = some k := (cand_congr (by rw [hfollow]) _).trans hk
  have htb : t.fan.follow[f].blend = none := by rw [hfollow]; exact hb
  have hready : t.ready f k = s.ready f k := recordsOnly_ready hrec (by rw [hfollow]) k
  have htm : t.margin f k = true := (recordsOnly_margin hrec (by rw [hfollow]) (by rw [hfollow])).trans hm
  have htstay : t.stayed f = true := (recordsOnly_stayed hrec (by rw [hfollow])).trans hstay
  rw [← ht]
  constructor
  · refine congrArg Host.Outcome.next ?_
    simp only [hk, hfol, hctl, hm, and_self, if_true, ← ht]
    rw [improve_switches (by rw [hfollow]) htk htm htstay htb, recordsOnly_pol16 hrec]
  · rw [startSwitch_blend htk htb, hready, recordsOnly_begunSwitch hrec, begunSwitch_ready]

theorem dwellGood_noMargin {i : Fin 32} (hk : s.cand f i.val = some k) (hm : s.margin f k = false) :
    exec (.fanDwellGoodExpiry f i) s = .next s := by
  refine congrArg Host.Outcome.next ?_
  simp only [hk, hm, Bool.false_eq_true, and_false, if_false]

/-- A candidate heard of within 60 s stays, and so does the host's. -/
theorem candExpiry_stays {i : Fin 32} (hk : s.cand f i.val = some k) (h : k.host = true ∨ s.fresh k.stamp = true) :
    exec (.fanCandExpiry f i) s = .next s := by
  refine congrArg Host.Outcome.next ?_
  simp only [hk, if_pos h]

/-- A record without candidate `i`; a switch to it runs back. -/
def withoutCand (i : Nat) (w : Follow) : Follow :=
  { w with blend := w.blend.map fun b => if b.dest = i then { b with reversed := true } else b
           cands := listUpd w.cands i fun _ => none, dwellOk := if w.dwellOk = some i then none else w.dwellOk }

theorem rest_dropCand (hk : s.cand f i = some k) (hc : k.shadow = none) : Rest (s.modFollow f (withoutCand i)) (s.dropCand f i) := by
  simp only [State.dropCand, hk, hc, State.loseIncoming, modFollow_modFollow]
  exact rest_raiseLimitedWith (Rest.refl _) _ _ _ _ _ _

theorem candExpiry_goes {i : Fin 32} (hk : s.cand f i.val = some k) (hhost : k.host = false) (hold : s.fresh k.stamp = false)
    (hc : k.shadow = none) : ∃ u : State, exec (.fanCandExpiry f i) s = .next u ∧ u.cand f i.val = none ∧
      (∀ j : Nat, j ≠ i.val → u.cand f j = s.cand f j) ∧ u = { s with fan := u.fan, host := u.host, evt := u.evt } := by
  have hrest := rest_dropCand hk hc
  have hcand (j : Nat) : (s.dropCand f i.val).cand f j = if j = i.val then none else s.cand f j := by
    rw [cand_of_fan (rest_fan_eq hrest), State.cand, modFollow_same]
    exact listUpd_getD _ _ _ _ rfl
  refine ⟨s.dropCand f i.val, congrArg Host.Outcome.next ?_, by rw [hcand, if_pos rfl], fun j hj => by rw [hcand, if_neg hj],
    recordsOnly_eq (recordsOnly_trans (t := s.modFollow f _) rfl (recordsOnly_of_rest hrest))⟩
  simp only [hk, hhost, hold, Bool.false_eq_true, or_self, if_false]

/-- PI_SEEN lapses. -/
theorem piSeenExpiry {i : Fin 32} (hk : s.cand f i.val = some k) : ∃ u : State, exec (.fanPiSeenExpiry f i) s = .next u ∧
    u.cand f i.val = some { k with piSeen := false } ∧ (∀ j : Nat, j ≠ i.val → u.cand f j = s.cand f j) ∧
    (∀ g : Fin 256, g ≠ f → u.fan.follow[g] = s.fan.follow[g]) ∧ u = { s with fan := { s.fan with follow := u.fan.follow } } :=
  ⟨_, rfl, modCand_same _ hk, fun _ hj => modCand_other _ hj, fun _ hg => modFollow_other _ hg, rfl⟩

end Expiries

/-! ### Gaps (R241, R243) -/

section Gaps

variable {s : State} {f c : Fin 256} {a : Bool} {b : Blend} {k : Cand} {n : Nat}

theorem fanGap_blend (hfol : s.svc.ctx[f].follow = true) (hb : s.fan.follow[f].blend = some b) (inc a : Bool) :
    exec (.fanGap f inc a) s = .next (s.gapInBlend f b inc a) := by
  refine congrArg Host.Outcome.next ((if_pos hfol).trans ?_)
  rw [hb]

/-- A gap with no candidate to take over fails the source when it reaches the output. -/
theorem fanGap_noCand (hfol : s.svc.ctx[f].follow = true) (hb : s.fan.follow[f].blend = none) (hcands : s.fan.follow[f].cands = []) :
    exec (.fanGap f false a) s = .next (if s.gapMs f a = 0 then s.modFollow f fun w => { w with gapped := true } else s) := by
  refine congrArg Host.Outcome.next ((if_pos hfol).trans ?_)
  simp only [hb, best_nil (candList_nil hcands), Bool.false_eq_true, if_false]

/-- A gap with a READY candidate starts a blend that is over before it, or one of 5 ms at it. -/
theorem fanGap_switches (hfol : s.svc.ctx[f].follow = true) (hb : s.fan.follow[f].blend = none) (hcands : s.fan.follow[f].cands = [some k])
    (hready : s.ready f k = true) (hfree : k.blocked = false) (hctl : s.fan.ctl.getLsbD 0 = true) (hn : n = s.gapMs f a) : ∃ u : State,
    exec (.fanGap f false a) s = .next u ∧ u.fan.switches = s.fan.switches + 1 ∧ u.svc = s.svc ∧ u.fan.follow[f].blend =
      some { dest := 0, dip := false, reversed := false, started := s.sys.timeUs, ms := if n < 6 then 5 else min (s.pol16 42) (n - 1)
             lvl := s.lvlOf k, short := false, pos := 0, wait := if n < 6 then 48 * n else 0 } := by
  have hbest : s.best f (fun k => s.ready f k && !k.blocked) = some 0 := best_one (candList_one hcands) (by rw [hready, hfree]; rfl)
  have hk : s.cand f 0 = some k := by rw [State.cand, hcands]; rfl
  have hexec : exec (.fanGap f false a) s = .next (s.gapSwitch f 0 n) := by
    refine congrArg Host.Outcome.next ((if_pos hfol).trans ?_)
    simp only [hb, hbest, hctl, ← hn, Bool.false_eq_true, if_false, if_true]
  have hblend (ms : Nat) := startSwitch_blend hk hb 2 ms
  refine ⟨_, hexec, ?_⟩
  rw [State.gapSwitch]
  by_cases hlt : n < 6
  · have h5 : n - 1 < 5 := by omega
    simp only [if_pos hlt, if_pos h5]
    refine ⟨startSwitch_switches hk hb 2 5, startSwitch_svc hk hb 2 5, ?_⟩
    rw [modFollow_same, hblend, hready]
    rfl
  · have h5 : ¬n - 1 < 5 := by omega
    simp only [if_neg hlt, if_neg h5]
    refine ⟨startSwitch_switches hk hb 2 _, startSwitch_svc hk hb 2 _, ?_⟩
    rw [hblend, hready]
    rfl

/-- A gap of an incoming stream that no blend brings in is none of the playing programme's. -/
theorem fanGap_incoming_noBlend (h : s.svc.ctx[f].follow = false ∨ s.fan.follow[f].blend = none) :
    exec (.fanGap f true a) s = .next s := by
  refine congrArg Host.Outcome.next ?_
  obtain hoff | hb := h
  · exact if_neg (ne_true_of_eq_false hoff)
  · simp only [hb, if_true, ite_self]

/-- A gap in the incoming stream before the blend is over turns it back. -/
theorem gapInBlend_incoming (hb : s.fan.follow[f].blend = some b) (hdip : b.dip = false) (hr : b.reversed = false)
    (hk : s.cand f b.dest = some k) (hc : k.shadow = some c) (hlt : s.gapMs c a < s.blendLeft b) :
    s.gapInBlend f b true a = s.modFollow f fun w => { w with blend := some { b with reversed := true } } := by
  have hshadow : s.blendShadow f b = some c := by rw [State.blendShadow, hk]; exact hc
  rw [← loseIncoming_dest hb]
  simp only [State.gapInBlend, hshadow, hdip, hr, hlt.not_ge, Bool.false_eq_true, or_self, if_false, if_true]

/-- A gap in the outgoing stream before the blend is over shortens it. -/
theorem gapInBlend_outgoing (hdip : b.dip = false) (hr : b.reversed = false) (hn : n = s.gapMs f a) (hlt : n < s.blendLeft b) :
    s.gapInBlend f b false a = s.modFollow f fun w =>
      { w with blend := some { b with ms := s.msSince b.started + if n < 5 then n else n - 1, short := true } } := by
  have hgoes : ¬(b.dip = true ∨ b.reversed = true ∨ s.blendLeft b ≤ n) := by
    rw [hdip, hr]
    simpa using hlt
  simp only [State.gapInBlend, ← hn, if_neg hgoes, Bool.false_eq_true, if_false]

/-- A gap that the blend is over before changes nothing. -/
theorem gapInBlend_late (h : s.blendLeft b ≤ s.gapMs f a) : s.gapInBlend f b false a = s := if_pos (.inr (.inr h))

end Gaps

/-! ### BLEND_END and DIP_END (R229, R244) -/

section Ends

variable {s : State} {f c : Fin 256} {b : Blend} {k : Cand}

/-- A switch that ends exchanges the sources of the context and its shadow. -/
theorem switch_exchanges (hctl : s.fan.ctl.getLsbD 0 = true) (hb : s.fan.follow[f].blend = some b) (hr : b.reversed = false)
    (hk : s.cand f b.dest = some k) (hc : k.shadow = some c) (hne : c ≠ f) : ∃ u : State,
    exec (if b.dip then .dipEnd f else .blendEnd f) s = .next u ∧ u.svc.ctx[f].runner = s.svc.ctx[c].runner ∧
      u.svc.ctx[c].runner = s.svc.ctx[f].runner ∧ u.svc.ctx[f].component = s.svc.ctx[c].component ∧
      u.svc.ctx[c].component = s.svc.ctx[f].component ∧ u.fan.follow[f].blend = none ∧
      u.fan.follow[f].lastSwitch = some s.sys.timeUs ∧ u.fan.follow[f].curScore = k.score ∧ u.fan.follow[f].failed = false ∧
      u.fan.follow[f].gain = 12000 * b.lvl := by
  obtain ⟨hf, hs, hc', l, d, hfollow⟩ := endSwitch_exchanges hb hr hk hc hne
  refine ⟨_, switchEnds_same (by rw [hc']; exact hctl) hb, ?_⟩
  rw [hf, hs, hfollow]
  exact ⟨rfl, rfl, rfl, rfl, rfl, rfl, rfl, rfl, rfl⟩

/-- A reversed one does not. -/
theorem switch_reversed (hctl : s.fan.ctl.getLsbD 0 = true) (hb : s.fan.follow[f].blend = some b) (hr : b.reversed = true) :
    ∃ u : State, exec (if b.dip then .dipEnd f else .blendEnd f) s = .next u ∧ u.svc = s.svc ∧
      u.fan = (s.modFollow f fun w => { w with blend := none, lastSwitch := some s.sys.timeUs, under := [] }).fan ∧
      s.onlyReports { u with fan := s.fan } := by
  have hrest := rest_endSwitch_reversed hb hr
  have hfan : (s.endSwitch f).fan = (s.modFollow f (switchEnded s.sys.timeUs)).fan := rest_fan_eq hrest
  have hreports : Rest s { s.endSwitch f with fan := s.fan } := rest_withFan hrest s.fan
  exact ⟨_, switchEnds_same (by rw [hfan]; exact hctl) hb, (rest_svc_eq hrest).trans rfl, hfan, hreports.eq⟩

end Ends

/-- Settles O45: the scoring tick by what it finds followed, and each event of the Fantail by the record that it meets. -/
theorem theFantailScoresAndDecides : Obligations.TheFantailScoresAndDecides := by
  unfold Obligations.TheFantailScoresAndDecides
  refine ⟨fun _ _ => scoreTick_stopped, ?nothing, ?noCand, ?ready, fun _ _ => holdBad_noBlend, fun _ _ _ _ _ => holdBad_blend,
    fun _ _ => holdBad_off, fun _ _ _ _ => dwellGood_switches, fun _ _ _ _ => dwellGood_noMargin, fun _ _ _ _ => candExpiry_stays,
    fun _ _ _ _ => candExpiry_goes, fun _ _ _ _ => piSeenExpiry, fun _ _ _ => fanGap_noCand, fun _ _ _ _ _ => fanGap_switches,
    fun _ _ _ => fanGap_incoming_noBlend, ?incoming, ?outgoing, ?late, fun _ _ _ _ _ => switch_exchanges, fun _ _ _ => switch_reversed,
    fun _ _ _ => switchEnds_otherKind, ?none⟩
  case nothing =>
    intro s l x hruns hf hw hidle h1 h2 h3 h4 h5
    exact scoreTick_nothingFollowed hruns hf hw hidle ⟨h1, h2, h3, h4, h5⟩
  case noCand =>
    intro s f x hruns hctl hf hw hpol hcands hb hshadows hst h1 h2 h3 h4 h5 hsig
    exact scoreTick_noCand hruns hctl hf hw hpol hb hst ⟨h1, h2, h3, h4, h5⟩ hsig hcands hshadows
  case ready =>
    intro s f c k x hruns hctl hf hw hpol hcands hb hshadows hmax hst hk hfree hready h1 h2 h3 h4 h5 hsig
    exact scoreTick_ready hruns hctl hf hw hpol hb hst ⟨h1, h2, h3, h4, h5⟩ hsig hcands hshadows hmax hk hfree hready
  case incoming =>
    intro s f a b k c hfol hb hdip hr hk hc hlt
    exact (fanGap_blend hfol hb true a).trans (congrArg Host.Outcome.next (gapInBlend_incoming hb hdip hr hk hc hlt))
  case outgoing =>
    intro s f a b n hfol hb hdip hr hn hlt
    exact (fanGap_blend hfol hb false a).trans (congrArg Host.Outcome.next (gapInBlend_outgoing hdip hr hn hlt))
  case late =>
    intro s f a b hfol hb h
    exact (fanGap_blend hfol hb false a).trans (congrArg Host.Outcome.next (gapInBlend_late h))
  case none =>
    intro s f hb
    exact ⟨congrArg Host.Outcome.next (switchEnds_none hb false), congrArg Host.Outcome.next (switchEnds_none hb true)⟩

end Sys2Proof.Proofs
end

section
/-!
SUPPORT. Alignment (R230 to R236): the delay of a shadow and the loss of an alignment, then each event of an estimator.
-/

namespace Sys2Proof.Proofs

open Sys2Proof Sys2Proof.Machine Sys2Proof.Laws

/-! ### The delay of a shadow (R235 to R237) -/

section Delay

variable {s t : State} {f c : Fin 256} {i n peak : Nat} {k : Cand}

theorem allocDelay_fan (h : s.allocDelay c n = some t) : t.fan = s.fan := by
  unfold State.allocDelay at h
  dsimp only at h
  split at h
  · cases h
    rfl
  · cases h

theorem placeDelay_fan {ramp : Bool} (h : s.placeDelay c n ramp = some t) : t.fan = s.fan := by
  unfold State.placeDelay at h
  split at h
  · cases h
    rfl
  · exact allocDelay_fan h

theorem rest_delayRefused (s : State) (f : Fin 256) (i peak : Nat) (c : Fin 256) (n : Nat) :
    Rest s ((s.poolRefused c n).alignEvent f 4 i peak) := rest_raise (rest_raise (Rest.refl s) _ _ _) _ _ _

/-- A shadow's delay changes nothing of the Fantail's, but that a refused one leaves the line unfilled. -/
theorem placeShadow_fan (s : State) (f : Fin 256) (i peak : Nat) : (s.placeShadow f i peak).fan = s.fan ∨
    (s.placeShadow f i peak).fan = (s.modCand f i fun k => { k with filled := false }).fan := by
  unfold State.placeShadow
  split
  · exact .inl rfl
  · dsimp only
    split
    · exact .inl rfl
    · split
      · exact .inl rfl
      · split
        · next h => exact .inl (placeDelay_fan h)
        · exact .inr (rest_fan_eq (rest_modFollow (rest_delayRefused s f i peak _ _) f _))

theorem placeShadow_est (s : State) (f : Fin 256) (i peak : Nat) : (s.placeShadow f i peak).fan.est = s.fan.est := by
  obtain h | h := placeShadow_fan s f i peak <;> rw [h]
  rfl

theorem placeShadow_cand (hk : s.cand f i = some k) (peak : Nat) :
    ∃ b, (s.placeShadow f i peak).cand f i = some { k with filled := b } := by
  obtain h | h := placeShadow_fan s f i peak
  · exact ⟨k.filled, (cand_of_fan h f i).trans hk⟩
  · exact ⟨false, (cand_of_fan h f i).trans (modCand_same _ hk)⟩

/-- Where the line is unfilled already, every record stays. -/
theorem placeShadow_follow (hk : s.cand f i = some k) (hempty : k.filled = false) (peak : Nat) :
    (s.placeShadow f i peak).fan.follow = s.fan.follow := by
  obtain h | h := placeShadow_fan s f i peak
  · rw [h]
  · have hsame : (s.modCand f i fun k => { k with filled := false }) = s.modCand f i id := modCand_congr (by
      rw [hk, Option.map_some, Option.map_some, ← hempty]
      rfl)
    rw [h, hsame, State.modCand, Option.map_id_fun, modFollow_id (by rw [listUpd_id])]

end Delay

/-! ### The loss of an alignment (R233) -/

section Lost

variable {s : State} {f : Fin 256} {i peak : Nat} {k : Cand}

/-- A candidate whose alignment is lost. -/
def unaligned (k : Cand) : Cand := { k with converged := false, filled := false }

/-- The candidate loses its alignment, and an estimator at work on it starts over. -/
def alignmentLost (s : State) (f : Fin 256) (i : Nat) : State :=
  { s.modCand f i unaligned with fan := { (s.modCand f i unaligned).fan with
    est := s.fan.est.map fun e => if e.work = some (f, i) then { work := e.work } else e } }

theorem alignmentLost_cand (hk : s.cand f i = some k) : (alignmentLost s f i).cand f i = some (unaligned k) := modCand_same unaligned hk

theorem alignmentLost_est {e : Fin 4} (h : s.fan.est[e].work = some (f, i)) :
    (alignmentLost s f i).fan.est[e] = { work := some (f, i) } := by
  have h' : s.fan.est[e.val].work = some (f, i) := h
  simp only [alignmentLost, Fin.getElem_fin, Vector.getElem_map, h', if_true]

theorem alignLost_notConverged (hk : s.cand f i = some k) (hconv : k.converged = false) : s.alignLost f i peak = s := by
  have hk' : s.fan.follow[f].cands.getD i none = some k := hk
  simp only [State.alignLost, hk', hconv, Bool.false_eq_true, if_false]

/-- A converged candidate loses its alignment, up to source 50. -/
theorem rest_alignLost (hk : s.cand f i = some k) (hconv : k.converged = true) (peak : Nat) :
    Rest (alignmentLost s f i) (s.alignLost f i peak) := by
  have hk' : s.fan.follow[f].cands.getD i none = some k := hk
  have hrest : Rest s (s.alignEvent f 2 i peak) := rest_raise (Rest.refl s) _ _ _
  have heq : s.alignLost f i peak = alignmentLost (s.alignEvent f 2 i peak) f i := by
    simp only [State.alignLost, hk', hconv, if_true]
    rfl
  rw [heq]
  exact congrArg (alignmentLost · f i) hrest

/-- What the loss leaves: the candidate without its alignment, its estimator at the start, and everything else but reports. -/
theorem alignLost_spec {e : Fin 4} (hwork : s.fan.est[e].work = some (f, i)) (hk : s.cand f i = some k) (hconv : k.converged = true)
    (peak : Nat) : (s.alignLost f i peak).cand f i = some { k with converged := false, filled := false } ∧
      (s.alignLost f i peak).fan.est[e] = { work := some (f, i) } ∧ RecordsOnly s (s.alignLost f i peak) := by
  have hrest := rest_alignLost hk hconv peak
  refine ⟨(cand_of_fan (rest_fan_eq hrest) f i).trans (alignmentLost_cand hk), ?_,
    recordsOnly_trans (t := alignmentLost s f i) rfl (recordsOnly_of_rest hrest)⟩
  rw [rest_fan_eq hrest]
  exact alignmentLost_est hwork

end Lost

/-! ### ALIGN_TICK (R230 to R233) -/

section AlignTick

variable {s : State} {e : Fin 4} {o : AlignObs} {f : Fin 256} {i : Nat} {k : Cand}

/-- An estimator without work, or an estimate that is skipped. -/
theorem alignTick_skipped (h : s.fan.est[e].work = none ∨ alignSkip o = true) : exec (.alignTick e o) s = .next s := by
  refine congrArg Host.Outcome.next ?_
  split
  · rfl
  · next hwork =>
    split
    · rfl
    · exact if_pos (.inl (h.resolve_left (by rw [hwork]; exact nofun)))

/-- What an estimator does with the shadow in work, by its stage. -/
theorem alignTick_work (hwork : s.fan.est[e].work = some (f, i)) (hk : s.cand f i = some k) : exec (.alignTick e o) s = .next
    (if alignSkip o = true ∨ k.shadow.isNone = true then s
    else if k.converged then s.trackTick e f i k o
    else if s.fan.est[e].fine then s.fineTick e f i k o
    else if s.historyOk f k then s.coarseTick e f i k o
    else s) := by
  refine congrArg Host.Outcome.next ?_
  simp only [hwork, hk]

theorem alignSkip_iff (o : AlignObs) : alignSkip o = true ↔ (o.oldDev < 100 ∨ o.newDev < 100 ∨ o.oldMean < -6000 ∨ o.newMean < -6000) := by
  simp only [alignSkip, Bool.or_eq_true, decide_eq_true_eq, or_assoc]

theorem alignTick_noHistory (hwork : s.fan.est[e].work = some (f, i)) (hk : s.cand f i = some k) (hconv : k.converged = false)
    (hfine : s.fan.est[e].fine = false) (hhist : s.historyOk f k = false) : exec (.alignTick e o) s = .next s := by
  rw [alignTick_work hwork hk]
  simp only [hconv, hfine, hhist, Bool.false_eq_true, if_false, ite_self]

section Taken

variable (hwork : s.fan.est[e].work = some (f, i)) (hk : s.cand f i = some k) (hskip : alignSkip o = false)
  (hshadow : k.shadow.isSome = true)

include hwork hk hskip hshadow

/-- An estimate that is not skipped goes to the stage of its estimator. -/
theorem alignTick_taken : exec (.alignTick e o) s = .next (if k.converged then s.trackTick e f i k o
    else if s.fan.est[e].fine then s.fineTick e f i k o
    else if s.historyOk f k then s.coarseTick e f i k o
    else s) := by
  rw [alignTick_work hwork hk, if_neg]
  simp [hskip, Option.isNone_eq_false_iff.mpr hshadow]

theorem alignTick_coarse (hconv : k.converged = false) (hfine : s.fan.est[e].fine = false) (hhist : s.historyOk f k = true) :
    exec (.alignTick e o) s = .next (s.coarseTick e f i k o) := by
  rw [alignTick_taken hwork hk hskip hshadow]
  simp only [hconv, hfine, hhist, Bool.false_eq_true, if_false, if_true]

theorem alignTick_fine (hconv : k.converged = false) (hfine : s.fan.est[e].fine = true) :
    exec (.alignTick e o) s = .next (s.fineTick e f i k o) := by
  rw [alignTick_taken hwork hk hskip hshadow]
  simp only [hconv, hfine, Bool.false_eq_true, if_false, if_true]

theorem alignTick_track (hconv : k.converged = true) : exec (.alignTick e o) s = .next (s.trackTick e f i k o) := by
  rw [alignTick_taken hwork hk hskip hshadow]
  simp only [hconv, if_true]

end Taken

end AlignTick

/-! ### Coarse estimates (R230, R231) -/

section Coarse

variable {s : State} {e : Fin 4} {o : AlignObs} {f : Fin 256} {i : Nat} {k : Cand} {x : Estimate}

/-- An estimator that has noted the highest peak of its attempt, and what the estimate leaves of the coarse stage. -/
def noted (x : Estimate) (coarse : Option Int) (y : Estimator) : Estimator :=
  { y with best := max y.best x.peak, edge := if y.best < x.peak then x.nearEdge else y.edge, coarse := coarse }

theorem noted_eq (x : Estimate) (coarse : Option Int) (y : Estimator) :
    ({ (if y.best < x.peak then { y with best := x.peak, edge := x.nearEdge } else y) with coarse := coarse } : Estimator) =
      noted x coarse y := by
  unfold noted
  split
  · next h => rw [max_eq_right h.le]
  · next h => rw [max_eq_left (not_lt.mp h)]

theorem modEst_noted (s : State) (e : Fin 4) (x : Estimate) (coarse : Option Int) :
    (s.modEst e fun y => if y.best < x.peak then { y with best := x.peak, edge := x.nearEdge } else y).modEst e
      (fun y => { y with coarse := coarse }) = s.modEst e (noted x coarse) := by
  simp only [modEst_modEst, noted_eq]

theorem modEst_noted_coarse (s : State) (e : Fin 4) (x : Estimate) :
    (s.modEst e fun y => if y.best < x.peak then { y with best := x.peak, edge := x.nearEdge } else y).fan.est[e].coarse =
      s.fan.est[e].coarse := by
  rw [modEst_same]
  split <;> rfl

theorem estimate_good (hpeak : s.pol 48 ≤ x.peak) (hdistinct : x.distinct = true) (hedge : x.nearEdge = false) :
    (decide (s.corrMin ≤ x.peak) && x.distinct && !x.nearEdge) = true := by
  rw [decide_eq_true (show s.corrMin ≤ x.peak from hpeak), hdistinct, hedge]
  rfl

section Estimates

variable (hx : x = alignEstimate o (s.lagMax f k))

include hx

/-- An estimate that fails drops what was kept. -/
theorem coarseTick_fails (h : x.peak < s.pol 48 ∨ x.distinct = false ∨ x.nearEdge = true) :
    s.coarseTick e f i k o = s.modEst e (noted x none) := by
  have hbad : (decide (s.pol 48 ≤ x.peak) && x.distinct && !x.nearEdge) = false := by
    obtain h | h | h := h
    · rw [decide_eq_false h.not_ge, Bool.false_and, Bool.false_and]
    · rw [h, Bool.and_false, Bool.false_and]
    · rw [h, Bool.not_true, Bool.and_false]
  simp only [State.coarseTick, State.corrMin, ← hx, hbad, Bool.false_eq_true, if_false, modEst_noted]

variable (hpeak : s.pol 48 ≤ x.peak) (hdistinct : x.distinct = true) (hedge : x.nearEdge = false)

include hpeak hdistinct hedge

/-- A good estimate is kept where it is the first, or lies farther than 2 ms from the one before. -/
theorem coarseTick_keeps (hfar : (s.fan.est[e].coarse.all fun l => decide (2 < (x.lag - l).natAbs)) = true) :
    s.coarseTick e f i k o = s.modEst e (noted x (some x.lag)) := by
  have hgood := estimate_good hpeak hdistinct hedge
  simp only [State.coarseTick, ← hx, hgood, if_true, modEst_noted_coarse]
  cases hl : s.fan.est[e].coarse with
  | none => exact modEst_noted s e x _
  | some l =>
    rw [hl] at hfar
    have hlt : 2 < (x.lag - l).natAbs := of_decide_eq_true hfar
    simp only [if_neg hlt.not_ge]
    exact modEst_noted s e x _

/-- Two that agree within 2 ms give the candidate its lag and level, and the fine stage begins. -/
theorem coarseTick_agrees (hnear : (s.fan.est[e].coarse.any fun l => decide ((x.lag - l).natAbs ≤ 2)) = true) :
    s.coarseTick e f i k o = ((s.modEst e fun y => { noted x (some x.lag) y with fine := true }).modCand f i fun k => { k with
      lag := 48 * x.lag, level := alignLevel o, filled := false }).placeShadow f i x.peak := by
  have hgood := estimate_good hpeak hdistinct hedge
  simp only [State.coarseTick, ← hx, hgood, if_true, modEst_noted_coarse]
  cases hl : s.fan.est[e].coarse with
  | none =>
    rw [hl] at hnear
    exact absurd hnear Bool.false_ne_true
  | some l =>
    rw [hl] at hnear
    have hle : (x.lag - l).natAbs ≤ 2 := of_decide_eq_true hnear
    simp only [if_pos hle, modEst_modEst, ← noted_eq]

end Estimates

/-- What the agreement of two estimates leaves: the estimator in its fine stage, and the record of the candidate with lag and level. -/
theorem coarseTick_converges (hx : x = alignEstimate o (s.lagMax f k)) (hwork : s.fan.est[e].work = some (f, i))
    (hk : s.cand f i = some k) (hpeak : s.pol 48 ≤ x.peak) (hdistinct : x.distinct = true) (hedge : x.nearEdge = false)
    (hnear : (s.fan.est[e].coarse.any fun l => decide ((x.lag - l).natAbs ≤ 2)) = true) :
    (s.coarseTick e f i k o).fan.est[e].coarse = some x.lag ∧ (s.coarseTick e f i k o).fan.est[e].fine = true ∧
    (s.coarseTick e f i k o).fan.est[e].work = some (f, i) ∧ (s.coarseTick e f i k o).fan.follow =
      (s.modCand f i fun q => { q with lag := 48 * x.lag, level := alignLevel o, filled := false }).fan.follow := by
  obtain ⟨t, ht⟩ : ∃ t, t = (s.modEst e fun y => { noted x (some x.lag) y with fine := true }).modCand f i fun k => { k with
    lag := 48 * x.lag, level := alignLevel o, filled := false } := ⟨_, rfl⟩
  have hest : t.fan.est[e] = { noted x (some x.lag) s.fan.est[e] with fine := true } := by
    rw [ht]
    exact modEst_same s e _
  have htk : t.cand f i = some { k with lag := 48 * x.lag, level := alignLevel o, filled := false } := by
    rw [ht]
    exact modCand_same _ hk
  rw [coarseTick_agrees hx hpeak hdistinct hedge hnear, ← ht, placeShadow_est, hest, placeShadow_follow htk rfl]
  exact ⟨rfl, rfl, hwork, by rw [ht]; rfl⟩

end Coarse

/-! ### Fine estimates (R232, R233) -/

section Fine

variable {s : State} {e : Fin 4} {o : AlignObs} {f : Fin 256} {i : Nat} {k : Cand} {x : Int × Nat}

/-- Candidates that differ at most in whether the delay line has filled. -/
theorem map_filled_eq {c : Option Cand} {k : Cand} (b : Bool) (h : ∃ a, c = some { k with filled := a }) :
    c.map (fun q => { q with filled := b }) = some { k with filled := b } := by
  obtain ⟨a, rfl⟩ := h
  rfl

theorem fineTick_short (hx : x = alignFine o k.lag) (hlt : x.2 < s.pol 48) : s.fineTick e f i k o = s := by
  rw [hx] at hlt
  exact if_neg hlt.not_ge

/-- A fine estimate at or above CORR_MIN converges. -/
theorem fineTick_converges (hx : x = alignFine o k.lag) (hk : s.cand f i = some k) (hle : s.pol 48 ≤ x.2) :
    ((s.fineTick e f i k o).cand f i).map (fun q => { q with filled := k.filled }) =
      some { k with converged := true, lag := x.1, level := alignLevel o } ∧ (s.fineTick e f i k o).fan.est[e].short = 0 := by
  obtain ⟨t, ht⟩ : ∃ t, t = (s.modCand f i fun k => { k with converged := true, lag := x.1, level := alignLevel o }).modEst e fun y =>
    { y with short := 0 } := ⟨_, rfl⟩
  have hfine : s.fineTick e f i k o = (t.placeShadow f i x.2).alignEvent f 0 i x.2 := by
    rw [State.fineTick, ← hx]
    exact (if_pos hle).trans (by rw [ht])
  have hfan : (s.fineTick e f i k o).fan = (t.placeShadow f i x.2).fan := hfine ▸ rest_fan_eq (rest_raise (Rest.refl _) _ _ _)
  have htk : t.cand f i = some { k with converged := true, lag := x.1, level := alignLevel o } := by
    rw [ht]
    exact modCand_same _ hk
  constructor
  · rw [cand_of_fan hfan]
    exact map_filled_eq k.filled (placeShadow_cand htk x.2)
  · rw [hfan, placeShadow_est, ht, modEst_same]

/-- A converged shadow's estimate moves its lag where they differ by more than one sample. -/
theorem trackTick_tracks (hx : x = alignFine o k.lag) (hk : s.cand f i = some k) (hle : s.pol 48 ≤ x.2) :
    (s.trackTick e f i k o).fan.est[e].short = 0 ∧ ((s.trackTick e f i k o).cand f i).map (fun q => { q with filled := k.filled }) =
      some { k with level := alignLevel o, lag := if 1 < (x.1 - k.lag).natAbs then x.1 else k.lag } := by
  obtain ⟨t, ht⟩ : ∃ t, t = (s.modEst e fun y => { y with short := 0 }).modCand f i fun k => { k with level := alignLevel o } := ⟨_, rfl⟩
  have htrack : s.trackTick e f i k o =
      if 1 < (x.1 - k.lag).natAbs then (t.modCand f i fun k => { k with lag := x.1 }).placeShadow f i x.2 else t := by
    rw [State.trackTick, ← hx]
    exact (if_pos hle).trans (by rw [ht])
  have hest : t.fan.est[e].short = 0 := by
    rw [ht]
    exact congrArg Estimator.short (modEst_same s e _)
  have htk : t.cand f i = some { k with level := alignLevel o } := by
    rw [ht]
    exact modCand_same _ hk
  have hplaced : ((t.modCand f i fun k => { k with lag := x.1 }).placeShadow f i x.2).fan.est[e].short = 0 := by
    rw [placeShadow_est]
    exact hest
  rw [htrack]
  split
  · exact ⟨hplaced, map_filled_eq k.filled (placeShadow_cand (modCand_same _ htk) x.2)⟩
  · exact ⟨hest, by rw [htk]; rfl⟩

/-- An estimate that falls short is counted until it is the tenth in a row. -/
theorem trackTick_short (hx : x = alignFine o k.lag) (hlt : x.2 < s.pol 48) (hn : s.fan.est[e].short < 9) :
    s.trackTick e f i k o = s.modEst e fun y => { y with short := y.short + 1 } := by
  have hten : ¬10 ≤ s.fan.est[e].short + 1 := by omega
  rw [State.trackTick, ← hx]
  exact (if_neg hlt.not_ge).trans ((if_neg hten).trans (modEst_congr rfl))

/-- The tenth in a row loses the alignment. -/
theorem trackTick_lost (hx : x = alignFine o k.lag) (hwork : s.fan.est[e].work = some (f, i)) (hk : s.cand f i = some k)
    (hconv : k.converged = true) (hlt : x.2 < s.pol 48) (hn : 9 ≤ s.fan.est[e].short) :
    (s.trackTick e f i k o).cand f i = some { k with converged := false, filled := false } ∧
    (s.trackTick e f i k o).fan.est[e] = { work := some (f, i) } ∧ (s.trackTick e f i k o).svc = s.svc ∧
    (s.trackTick e f i k o).win = s.win := by
  have hten : 10 ≤ s.fan.est[e].short + 1 := by omega
  obtain ⟨t, ht⟩ : ∃ t, t = s.modEst e fun y => { y with short := s.fan.est[e].short + 1 } := ⟨_, rfl⟩
  have htrack : s.trackTick e f i k o = t.alignLost f i x.2 := by
    rw [State.trackTick, ← hx]
    exact (if_neg hlt.not_ge).trans ((if_pos hten).trans (by rw [ht]))
  have htwork : t.fan.est[e].work = some (f, i) := by rw [ht, modEst_same]; exact hwork
  obtain ⟨hcand, hest, hrec⟩ := alignLost_spec htwork (show t.cand f i = some k by rw [ht]; exact hk) hconv x.2
  rw [htrack]
  exact ⟨hcand, hest, (recordsOnly_svc hrec).trans (by rw [ht]; rfl), (recordsOnly_win hrec).trans (by rw [ht]; rfl)⟩

end Fine

/-! ### ALIGN_COARSE_CHECK, ALIGN_TIMEOUT, ALIGN_RETRY and SHADOW_DELAY_FILLED (R233, R234, R236) -/

section Events

variable {s : State} {e : Fin 4} {o : AlignObs} {f c : Fin 256} {i : Nat} {k : Cand}

theorem coarseCheck_work (hwork : s.fan.est[e].work = some (f, i)) (hk : s.cand f i = some k) : exec (.alignCoarseCheck e o) s = .next
    (if alignSkip o = false ∧ 960 < (48 * (alignEstimate o (s.lagMax f k)).lag - k.lag).natAbs then
      s.alignLost f i (alignEstimate o (s.lagMax f k)).peak else s) := by
  refine congrArg Host.Outcome.next ?_
  simp only [hwork, hk]

/-- A coarse check more than 20 ms from the lag loses the alignment. -/
theorem coarseCheck_lost {x : Estimate} (hwork : s.fan.est[e].work = some (f, i)) (hk : s.cand f i = some k) (hconv : k.converged = true)
    (hskip : alignSkip o = false) (hx : x = alignEstimate o (s.lagMax f k)) (hfar : 960 < (48 * x.lag - k.lag).natAbs) : ∃ u : State,
    exec (.alignCoarseCheck e o) s = .next u ∧ u.cand f i = some { k with converged := false, filled := false } ∧
      u.fan.est[e] = { work := some (f, i) } ∧ u = { s with fan := u.fan, host := u.host, evt := u.evt } := by
  obtain ⟨hcand, hest, hrec⟩ := alignLost_spec hwork hk hconv x.peak
  refine ⟨_, (coarseCheck_work hwork hk).trans ?_, hcand, hest, recordsOnly_eq hrec⟩
  rw [← hx, if_pos ⟨hskip, hfar⟩]

theorem coarseCheck_stays (hwork : s.fan.est[e].work = some (f, i)) (hk : s.cand f i = some k)
    (h : k.converged = false ∨ alignSkip o = true ∨ (48 * (alignEstimate o (s.lagMax f k)).lag - k.lag).natAbs ≤ 960) :
    exec (.alignCoarseCheck e o) s = .next s := by
  rw [coarseCheck_work hwork hk]
  obtain hconv | hstays := h
  · rw [alignLost_notConverged hk hconv, ite_self]
  · rw [if_neg]
    rintro ⟨hskip, hfar⟩
    obtain hon | hle := hstays
    · exact Bool.false_ne_true (hskip.symm.trans hon)
    · exact hfar.not_ge hle

theorem estimator_idle (hwork : s.fan.est[e].work = none) :
    (∀ o : AlignObs, exec (.alignCoarseCheck e o) s = .next s) ∧ exec (.alignTimeout e) s = .next s := by
  constructor
  · intro o
    refine congrArg Host.Outcome.next ?_
    simp only [hwork]
  · refine congrArg Host.Outcome.next ?_
    simp only [hwork]

/-- A time-out frees the estimator and marks the candidate for RETRY. -/
theorem alignTimeout_frees (hwork : s.fan.est[e].work = some (f, i)) (hk : s.cand f i = some k) (hconv : k.converged = false) :
    ∃ u : State, exec (.alignTimeout e) s = .next u ∧ u.fan.est[e] = {} ∧ u.cand f i = some { k with retry := true } ∧
      u = { s with fan := u.fan, host := u.host, evt := u.evt } := by
  obtain ⟨t, ht⟩ : ∃ t, t = s.alignEvent f (if s.fan.est[e].edge then 3 else 1) i s.fan.est[e].best := ⟨_, rfl⟩
  have hrest : Rest s t := ht ▸ rest_raise (Rest.refl s) _ _ _
  refine ⟨(t.modCand f i fun k => { k with retry := true }).modEst e fun _ => {}, congrArg Host.Outcome.next ?_, modEst_same _ e _,
    modCand_same _ ((cand_of_fan (rest_fan_eq hrest) f i).trans hk),
    recordsOnly_eq (recordsOnly_modEst (recordsOnly_modCand (recordsOnly_of_rest hrest) f i _) e _)⟩
  simp only [hwork, hk, hconv, Bool.false_eq_true, if_false, ht]

theorem alignTimeout_converged (hwork : s.fan.est[e].work = some (f, i)) (hk : s.cand f i = some k) (hconv : k.converged = true) :
    exec (.alignTimeout e) s = .next s := by
  refine congrArg Host.Outcome.next ?_
  simp only [hwork, hk, hconv, if_true]

/-- RETRY lifts the mark, and an estimator that is free may take the shadow up again. -/
theorem alignRetry_lifts {i : Fin 32} (hk : s.cand f i.val = some k) : ∃ u : State, exec (.alignRetry f i) s = .next u ∧
    u.cand f i.val = some { k with retry := false } ∧ (∀ e : Fin 4, s.fan.est[e].work.isSome = true → u.fan.est[e] = s.fan.est[e]) ∧
    u = { s with fan := u.fan } := by
  obtain ⟨t, ht⟩ : ∃ t, t = s.modCand f i.val fun k => { k with retry := false } := ⟨_, rfl⟩
  obtain ⟨v, hv, hkept⟩ := estimatorsTaken_assignEst t
  have htk : t.cand f i.val = some { k with retry := false } := ht ▸ modCand_same _ hk
  refine ⟨t.assignEst, congrArg Host.Outcome.next (by rw [ht]), ?_, ?_, ?_⟩ <;> rw [hv]
  · exact htk
  · rw [ht] at hkept
    exact hkept
  · rw [ht]
    rfl

/-- A shadow whose line holds a delay of 0 to 6 s becomes filled. -/
theorem delayFilled_fills {i : Fin 32} {d : Nat} (hk : s.cand f i.val = some k) (hc : k.shadow = some c)
    (hd : s.shadowDelay f k = d) (hmax : d ≤ 288000) (hline : s.hasLine c d = true) (hlen : s.poolFrames c ≤ s.svc.ctx[c].line.length) :
    ∃ u : State, exec (.shadowDelayFilled f i) s = .next u ∧ u.cand f i.val = some { k with filled := true } ∧
      (∀ j : Nat, j ≠ i.val → u.cand f j = s.cand f j) ∧ u = { s with fan := u.fan } := by
  refine ⟨s.modCand f i.val fun k => { k with filled := true }, congrArg Host.Outcome.next ?_, modCand_same _ hk,
    fun _ hj => modCand_other _ hj, rfl⟩
  simp only [hk, hc, hd, Int.toNat_natCast]
  exact if_pos ⟨Int.natCast_nonneg d, by omega, hline, hlen⟩

theorem delayFilled_none {i : Fin 32} (hk : s.cand f i.val = some k)
    (h : k.shadow = none ∨ s.shadowDelay f k < 0 ∨ 288000 < s.shadowDelay f k) : exec (.shadowDelayFilled f i) s = .next s := by
  refine congrArg Host.Outcome.next ?_
  simp only [hk]
  cases hc : k.shadow with
  | none => rfl
  | some c =>
    have hout := h.resolve_left (by rw [hc]; exact nofun)
    exact if_neg fun ⟨hlo, hhi, _⟩ => by omega

end Events

/-- Settles O46: a tick of an estimator by its stage and by what the estimate is worth, and the other events by what is at work. -/
theorem estimatorsAlignShadows : Obligations.EstimatorsAlignShadows := by
  unfold Obligations.EstimatorsAlignShadows
  refine ⟨fun _ _ _ => alignTick_skipped, alignSkip_iff, fun _ _ _ _ _ _ => alignTick_noHistory, ?keeps, ?fails, ?agrees, ?fine, ?track,
    fun _ _ _ _ _ _ _ => coarseCheck_lost, fun _ _ _ _ _ _ => coarseCheck_stays, fun _ _ => estimator_idle,
    fun _ _ _ _ _ => alignTimeout_frees, fun _ _ _ _ _ => alignTimeout_converged, fun _ _ _ _ => alignRetry_lifts,
    fun _ _ _ _ _ _ => delayFilled_fills, fun _ _ _ _ => delayFilled_none⟩
  case keeps =>
    intro s e o f i k x hwork hk hskip hshadow hconv hfine hhist hx hpeak hdistinct hedge hfar
    exact (alignTick_coarse hwork hk hskip hshadow hconv hfine hhist).trans
      (congrArg Host.Outcome.next (coarseTick_keeps hx hpeak hdistinct hedge hfar))
  case fails =>
    intro s e o f i k x hwork hk hskip hshadow hconv hfine hhist hx hbad
    exact (alignTick_coarse hwork hk hskip hshadow hconv hfine hhist).trans (congrArg Host.Outcome.next (coarseTick_fails hx hbad))
  case agrees =>
    intro s e o f i k x hwork hk hskip hshadow hconv hfine hhist hx hpeak hdistinct hedge hnear
    exact ⟨_, alignTick_coarse hwork hk hskip hshadow hconv hfine hhist,
      coarseTick_converges hx hwork hk hpeak hdistinct hedge hnear⟩
  case fine =>
    intro s e o f i k x hwork hk hskip hshadow hx hconv hfine
    exact ⟨_, alignTick_fine hwork hk hskip hshadow hconv hfine, fineTick_short hx, fineTick_converges hx hk⟩
  case track =>
    intro s e o f i k x hwork hk hskip hshadow hx hconv
    exact ⟨_, alignTick_track hwork hk hskip hshadow hconv, trackTick_tracks hx hk, trackTick_short hx,
      trackTick_lost hx hwork hk hconv⟩

end Sys2Proof.Proofs
end

section
/-!
SUPPORT. The bulletin commands (R252, R266, R269, R270): what each body answers on the state in which its steward finds it, and the image of
BUL_LIST.
-/

namespace Sys2Proof.Proofs

open Sys2Proof Sys2Proof.Machine Sys2Proof.Laws

variable {s : State} {c : CmdEntry}

/-! ### BUL_CFG (R252) -/

section Cfg

theorem fleetBad_iff (n : Nat) : fleetBad n = true ↔ n = 0 ∨ n = 2 ^ 64 - 1 := by
  simp [fleetBad]

theorem fleetBad_no {n : Nat} (h0 : n ≠ 0) (hmax : n ≠ 2 ^ 64 - 1) : fleetBad n = false := by
  rw [Bool.eq_false_iff, ne_eq, fleetBad_iff]
  exact not_or.mpr ⟨h0, hmax⟩

theorem bodyBulCfg_range (h : c.u64 24 = 0 ∨ c.u64 24 = 2 ^ 64 - 1) : bodyBulCfg c s = .fail .range 24 := by
  have hbad := (fleetBad_iff _).mpr h
  simp only [bodyBulCfg]
  exact checked_fail _ (by simp only [List.cons_append, firstFail, hbad, if_true])

/-- The lock is checked behind the parameters. -/
theorem bodyBulCfg_eq (h0 : c.u64 24 ≠ 0) (hmax : c.u64 24 ≠ 2 ^ 64 - 1) (h32 : c.u8 32 ≤ 15) (hrsvd : c.bytes 33 3 = [0, 0, 0]) :
    bodyBulCfg c s = checked [(s.bul.keysLocked && decide (s.bul.fleetId ≠ BitVec.ofNat 64 (c.u64 24)), .locked, 0)] fun _ =>
      .done (s.modBulBlk fun b => { b.setFleet (BitVec.ofNat 64 (c.u64 24)) with wakeMask := BitVec.ofNat 4 (c.u8 32) }) := by
  have hmask : ¬15 < c.u8 32 := by omega
  have hparams : firstFail ([(fleetBad (c.u64 24), .range, 24), (decide (15 < c.u8 32), .range, 32)] ++ rsvdBytes c 33 35) = none := by
    rw [firstFail_append _ (by simp only [firstFail, fleetBad_no h0 hmax, hmask, decide_false, Bool.false_eq_true, if_false])]
    exact firstFail_rsvdBytes_of_bytes hrsvd (by decide)
  simp only [bodyBulCfg, checked, firstFail_append _ hparams]

theorem bodyBulCfg_locked (h0 : c.u64 24 ≠ 0) (hmax : c.u64 24 ≠ 2 ^ 64 - 1) (h32 : c.u8 32 ≤ 15) (hrsvd : c.bytes 33 3 = [0, 0, 0])
    (hlock : s.bul.keysLocked = true) (hf : s.bul.fleetId ≠ BitVec.ofNat 64 (c.u64 24)) : bodyBulCfg c s = .fail .locked 0 := by
  rw [bodyBulCfg_eq h0 hmax h32 hrsvd]
  exact checked_fail _ (by simp only [firstFail, hlock, hf, ne_eq, not_false_eq_true, decide_true, Bool.and_self, if_true])

theorem bodyBulCfg_sets {f : D} (hfleet : f = BitVec.ofNat 64 (c.u64 24)) (h0 : c.u64 24 ≠ 0) (hmax : c.u64 24 ≠ 2 ^ 64 - 1)
    (h32 : c.u8 32 ≤ 15) (hrsvd : c.bytes 33 3 = [0, 0, 0]) (hfree : s.bul.keysLocked = false ∨ s.bul.fleetId = f) :
    bodyBulCfg c s = .ok (s.modBulBlk fun b => { b.setFleet f with wakeMask := BitVec.ofNat 4 (c.u8 32) }) [] none := by
  have hpass : (s.bul.keysLocked && decide (s.bul.fleetId ≠ f)) = false := by
    obtain hopen | hsame := hfree
    · rw [hopen, Bool.false_and]
    · rw [decide_eq_false (not_not_intro hsame), Bool.and_false]
  rw [bodyBulCfg_eq h0 hmax h32 hrsvd, ← hfleet]
  exact checked_pass _ (by simp only [firstFail, hpass, Bool.false_eq_true, if_false])

/-- Another fleet ID empties store, counters and reassemblies; WAKE_MASK is set in either case. -/
theorem setFleet_wakeMask (b : BulBlk) (f : D) (m : BitVec 4) : { b.setFleet f with wakeMask := m } =
    if b.fleetId = f then { b with wakeMask := m } else
      { b with fleetId := f, store := Vector.replicate 128 {}, ctr := Vector.replicate 4 0, reasm := Vector.replicate 2 none, wakeMask := m } := by
  unfold BulBlk.setFleet
  split <;> rfl

end Cfg

/-! ### BUL_KEY (R252) -/

section Key

/-- What the parameters of BUL_KEY are checked for: the buffer comes with WRITE. -/
theorem bodyBulKey_eq (h24 : c.u8 24 ≤ 1) (h25 : c.u8 25 ≤ 3) (hrsvd : c.bytes 26 2 = [0, 0]) (hbuf : c.bufIn = decide (c.u8 25 % 2 = 1)) :
    bodyBulKey c s = checked [(s.bul.keysLocked, .locked, 0)] fun _ => .done (s.modBulBlk fun b => { b with
      keys := if decide (c.u8 25 % 2 = 1) = true then upd b.keys (Fin.ofNat 2 (c.u8 24)) fun _ => some (slice c.buf 0 pubLen) else b.keys
      keysLocked := decide (2 ≤ c.u8 25) }) := by
  have hslot : ¬1 < c.u8 24 := by omega
  have hbits : ¬3 < c.u8 25 := by omega
  have hparams : firstFail ([(decide (c.bufIn ≠ decide (c.u8 25 % 2 = 1)), .badlen, 0), (decide (1 < c.u8 24), .range, 24),
      (decide (3 < c.u8 25), .range, 25)] ++ rsvdBytes c 26 27) = none := by
    rw [firstFail_append _ (by simp only [firstFail, hbuf, hslot, hbits, ne_eq, not_true_eq_false, decide_false,
      Bool.false_eq_true, if_false])]
    exact firstFail_rsvdBytes_of_bytes hrsvd (by decide)
  simp only [bodyBulKey, checked, firstFail_append _ hparams]

theorem bodyBulKey_locked (h24 : c.u8 24 ≤ 1) (h25 : c.u8 25 ≤ 3) (hrsvd : c.bytes 26 2 = [0, 0])
    (hbuf : c.bufIn = decide (c.u8 25 % 2 = 1)) (hlock : s.bul.keysLocked = true) : bodyBulKey c s = .fail .locked 0 := by
  rw [bodyBulKey_eq h24 h25 hrsvd hbuf]
  exact checked_fail _ (by simp only [firstFail, hlock, if_true])

/-- WRITE loads the slot, and LOCK with it locks both. -/
theorem bodyBulKey_writes {k : Fin 2} (h24 : c.u8 24 = k.val) (h25 : c.u8 25 = 1 ∨ c.u8 25 = 3) (hrsvd : c.bytes 26 2 = [0, 0])
    (hbuf : c.bufIn = true) (hopen : s.bul.keysLocked = false) : bodyBulKey c s = .ok (s.modBulBlk fun b => { b with
      keys := upd b.keys k fun _ => some (slice c.buf 0 2592), keysLocked := decide (c.u8 25 = 3) }) [] none := by
  have hodd : c.u8 25 % 2 = 1 := by omega
  have hlock : (2 ≤ c.u8 25) = (c.u8 25 = 3) := propext (by omega)
  rw [bodyBulKey_eq (by omega) (by omega) hrsvd (hbuf.trans (decide_eq_true hodd).symm),
    checked_pass _ (by simp only [firstFail, hopen, Bool.false_eq_true, if_false])]
  simp only [hodd, hlock, ofNat_eq h24, decide_true, if_true]
  rfl

/-- Without WRITE the keys stay. -/
theorem bodyBulKey_keeps (h24 : c.u8 24 ≤ 1) (h25 : c.u8 25 = 0 ∨ c.u8 25 = 2) (hrsvd : c.bytes 26 2 = [0, 0])
    (hbuf : c.bufIn = false) (hopen : s.bul.keysLocked = false) :
    bodyBulKey c s = .ok (s.modBulBlk fun b => { b with keysLocked := decide (c.u8 25 = 2) }) [] none := by
  have heven : ¬c.u8 25 % 2 = 1 := by omega
  have hlock : (2 ≤ c.u8 25) = (c.u8 25 = 2) := propext (by omega)
  rw [bodyBulKey_eq h24 (by omega) hrsvd (hbuf.trans (decide_eq_false heven).symm),
    checked_pass _ (by simp only [firstFail, hopen, Bool.false_eq_true, if_false])]
  simp only [heven, hlock, decide_false, Bool.false_eq_true, if_false]
  rfl

end Key

/-! ### BUL_WATCH (R266, R269) -/

section Watch

/-- The parameters of BUL_WATCH up to COMPONENT name reception that the device has. -/
structure WatchTarget (s : State) (c : CmdEntry) (rn : Fin 32) (ant : Fin 4) : Prop where
  en : c.u8 24 ≤ 1
  antenna : c.u8 25 = ant.val
  presetLo : 1 ≤ c.u8 26
  presetHi : c.u8 26 ≤ 5
  runner : c.u8 27 = rn.val
  fits : presetRunner (c.u8 26) rn.val = true
  served : kindServed rn 5 = true
  band : s.cap.hr[ant].bandOk (c.u8 26) (c.u32 28) = true
  comp : compOk rn 5 (BitVec.ofNat 32 (c.u32 32)) = true

variable {rn : Fin 32} {ant : Fin 4}

/-- What BUL_WATCH sets. -/
def watchSettings (c : CmdEntry) (b : BulBlk) : BulBlk :=
  { b with
    watchEn := decide (c.u8 24 = 1), watchAnt := byte (c.u8 25), watchPreset := byte (c.u8 26), watchRunner := byte (c.u8 27)
    watchFreq := BitVec.ofNat 32 (c.u32 28), watchComp := BitVec.ofNat 32 (c.u32 32), watchPeriod := BitVec.ofNat 16 (c.u16 36)
    watchLength := BitVec.ofNat 16 (c.u16 38), watchAnchor := BitVec.ofNat 32 (c.u32 40) }

/-- PERIOD, LENGTH and the reserved bytes are checked behind them. -/
theorem bodyBulWatch_eq (h : WatchTarget s c rn ant) : bodyBulWatch c s =
    checked ([(decide (c.u16 36 < 60), .range, 36), (!within 10 600 (c.u16 38), .range, 38)] ++ rsvdBytes c 44 47) fun _ =>
      .done (s.modBulBlk (watchSettings c)) := by
  have hen : ¬1 < c.u8 24 := by have := h.en; omega
  have hant : ¬3 < ant.val := by omega
  have hrn : ¬31 < rn.val := by omega
  have hpreset := (within_iff _ _ _).mpr ⟨h.presetLo, h.presetHi⟩
  have hpass : firstFail [(decide (1 < c.u8 24), .range, 24), (decide (3 < c.u8 25), .range, 25), (!within 1 5 (c.u8 26), .range, 26),
      (decide (31 < c.u8 27) || !presetRunner (c.u8 26) (c.u8 27) || !kindServed rn 5, .range, 27),
      (!s.cap.hr[ant].bandOk (c.u8 26) (c.u32 28), .range, 28), (!compOk rn 5 (BitVec.ofNat 32 (c.u32 32)), .range, 32)] = none := by
    simp only [firstFail, h.antenna, h.runner, hen, hant, hrn, hpreset, h.fits, h.served, h.band, h.comp, decide_false, Bool.not_true,
      Bool.or_self, Bool.false_eq_true, if_false]
  have hchecks := firstFail_append ([(decide (c.u16 36 < 60), .range, 36), (!within 10 600 (c.u16 38), .range, 38)] ++ rsvdBytes c 44 47) hpass
  simp only [bodyBulWatch, ofNat_eq h.antenna, ofNat_eq h.runner]
  rw [checked, checked, ← hchecks]
  rfl

theorem bodyBulWatch_period (h : WatchTarget s c rn ant) (hperiod : c.u16 36 < 60) : bodyBulWatch c s = .fail .range 36 := by
  rw [bodyBulWatch_eq h]
  exact checked_fail _ (by simp only [List.cons_append, firstFail, hperiod, decide_true, if_true])

theorem bodyBulWatch_sets (h : WatchTarget s c rn ant) (hperiod : 60 ≤ c.u16 36) (hlo : 10 ≤ c.u16 38) (hhi : c.u16 38 ≤ 600)
    (hrsvd : c.bytes 44 4 = [0, 0, 0, 0]) : bodyBulWatch c s = .ok (s.modBulBlk (watchSettings c)) [] none := by
  have hlong : ¬c.u16 36 < 60 := by omega
  rw [bodyBulWatch_eq h]
  refine checked_pass _ ?_
  rw [firstFail_append _ (by simp only [firstFail, hlong, (within_iff _ _ _).mpr ⟨hlo, hhi⟩, decide_false, Bool.not_true,
    Bool.false_eq_true, if_false])]
  exact firstFail_rsvdBytes_of_bytes hrsvd (by decide)

end Watch

/-! ### BUL_LIST (R270) -/

section Image

theorem entry_length (r : BulRec) : r.entry.length = 16 := by
  unfold BulRec.entry
  split <;> simp

/-- The header of the image. -/
def bulHeader (s : State) : List Byte :=
  leBytes 8 s.bul.fleetId.toNat ++ s.bul.ctr.toList.flatMap (fun w => leBytes 4 w.toNat) ++ leBytes 4 s.bul.free ++
    [byte (allIx fun r : Fin 128 => decide (s.bul.store[r].st ≠ 0)).length,
      byte (b01 s.bul.keysLocked + 2 * b01 s.bul.keys[0].isSome + 4 * b01 s.bul.keys[1].isSome + 8 * b01 s.sys.rtcSet), 0, 0]

theorem bulImage_eq (s : State) : s.bulImage = bulHeader s ++ s.bul.store.toList.flatMap BulRec.entry := rfl

theorem bulHeader_length (s : State) : (bulHeader s).length = 32 := by
  simp only [bulHeader, List.length_append, leBytes_length, flatMap_length fun w : W => leBytes_length 4 w.toNat, Vector.length_toList,
    List.length_cons, List.length_nil]

theorem bulImage_length (s : State) : s.bulImage.length = 2080 := by
  rw [bulImage_eq, List.length_append, bulHeader_length, flatMap_length entry_length, Vector.length_toList]

theorem bulImage_fleetId (s : State) : slice s.bulImage 0 8 = leBytes 8 s.bul.fleetId.toNat := by
  rw [slice, List.drop_zero]
  simp only [State.bulImage, List.append_assoc]
  exact padTo_append (leBytes_length 8 _) _

theorem bulImage_entry (s : State) (r : Fin 128) : slice s.bulImage (32 + 16 * r.val) 16 = s.bul.store[r].entry := by
  have hdrop : s.bul.store.toList.drop r.val = s.bul.store[r] :: s.bul.store.toList.drop (r.val + 1) :=
    List.drop_eq_getElem_cons (by rw [Vector.length_toList]; exact r.isLt)
  rw [slice, bulImage_eq, ← bulHeader_length s, List.drop_length_add_append, drop_flatMap entry_length, hdrop, List.flatMap_cons]
  exact padTo_append (entry_length _) _

theorem bodyBulList_image (hrsvd : c.bytes 24 4 = [0, 0, 0, 0]) : bodyBulList c s = .ok s [] (some s.bulImage) :=
  checked_pass _ (firstFail_rsvdBytes_of_bytes hrsvd (by decide))

end Image

/-! ### BUL_READ and BUL_RELEASE (R269) -/

section Records

variable {r : Fin 128}

theorem cmdRec_named (h24 : c.u8 24 = r.val) : cmdRec c = r := ofNat_eq h24

/-- The record and the buffer are checked behind the parameters. -/
theorem bodyBulRead_eq (hb : c.bytes 24 4 = [byte r.val, 0, 0, 0]) : bodyBulRead c s =
    checked [(decide (s.bul.store[r].st = 0), .notfound, 0), (decide (c.bufLen.toNat < s.bul.store[r].bytes.length), .range, 16)] fun _ =>
      .ok (s.modBul r fun x => { x with st := if x.st = 1 then 2 else x.st }) (leBytes 4 s.bul.store[r].bytes.length)
        (some s.bul.store[r].bytes) := by
  obtain ⟨h24, hrsvd⟩ := params_one (by omega) hb
  have hmax : ¬127 < c.u8 24 := by omega
  have hparams : firstFail ((decide (127 < c.u8 24), .range, 24) :: rsvdBytes c 25 27) = none := by
    simp only [firstFail, hmax, decide_false, Bool.false_eq_true, if_false, hrsvd]
  simp only [bodyBulRead, cmdRec_named h24, checked, firstFail_append _ hparams]

theorem bodyBulRead_reads (hb : c.bytes 24 4 = [byte r.val, 0, 0, 0]) (hst : s.bul.store[r].st ≠ 0)
    (hlen : s.bul.store[r].bytes.length ≤ c.bufLen.toNat) : bodyBulRead c s =
      .ok (s.modBul r fun x => { x with st := if x.st = 1 then 2 else x.st }) (leBytes 4 s.bul.store[r].bytes.length)
        (some s.bul.store[r].bytes) := by
  rw [bodyBulRead_eq hb]
  exact checked_pass _ (by simp only [firstFail, hst, hlen.not_gt, decide_false, Bool.false_eq_true, if_false])

theorem bodyBulRead_free (hb : c.bytes 24 4 = [byte r.val, 0, 0, 0]) (hst : s.bul.store[r].st = 0) :
    bodyBulRead c s = .fail .notfound 0 := by
  rw [bodyBulRead_eq hb]
  exact checked_fail _ (by simp only [firstFail, hst, decide_true, if_true])

theorem bodyBulRead_short (hb : c.bytes 24 4 = [byte r.val, 0, 0, 0]) (hst : s.bul.store[r].st ≠ 0)
    (hlen : c.bufLen.toNat < s.bul.store[r].bytes.length) : bodyBulRead c s = .fail .range 16 := by
  rw [bodyBulRead_eq hb]
  exact checked_fail _ (by simp only [firstFail, hst, hlen, decide_false, decide_true, Bool.false_eq_true, if_false, if_true])

/-- Whether the record exists is checked behind the parameters, unless ALL is set. -/
theorem bodyBulRelease_eq {w : Byte} (hb : c.bytes 24 4 = [byte r.val, w, 0, 0]) (hw : w.toNat ≤ 1) : bodyBulRelease c s =
    checked [(!decide (w.toNat = 1) && decide (s.bul.store[r].st = 0), .notfound, 0)] fun _ => .done (if decide (w.toNat = 1) = true then
      s.modBulBlk fun b => { b with store := b.store.map BulRec.release } else s.modBul r BulRec.release) := by
  obtain ⟨h24, h25, hrsvd⟩ := params_two (by omega) hb
  have hmax : ¬127 < c.u8 24 := by omega
  have hall : ¬1 < c.u8 25 := by omega
  have hparams : firstFail ([(decide (127 < c.u8 24), .range, 24), (decide (1 < c.u8 25), .range, 25)] ++ rsvdBytes c 26 27) = none := by
    rw [firstFail_append _ (by simp only [firstFail, hmax, hall, decide_false, Bool.false_eq_true, if_false]), hrsvd]
  rw [h25] at hparams
  simp only [bodyBulRelease, cmdRec_named h24, h25, checked, firstFail_append _ hparams]

theorem bodyBulRelease_one (hb : c.bytes 24 4 = [byte r.val, 0, 0, 0]) (hst : s.bul.store[r].st ≠ 0) :
    bodyBulRelease c s = .ok (s.modBul r fun x => { x with st := 3 }) [] none := by
  have hrelease : s.modBul r BulRec.release = s.modBul r fun x => { x with st := 3 } := by
    simp only [State.modBul, upd_congr (v := s.bul.store) (f := BulRec.release) (g := fun x => { x with st := 3 }) (if_neg hst)]
  rw [bodyBulRelease_eq hb (by decide), ← hrelease,
    checked_pass _ (by simp only [firstFail, hst, decide_false, Bool.and_false, Bool.false_eq_true, if_false])]
  rfl

theorem bodyBulRelease_free (hb : c.bytes 24 4 = [byte r.val, 0, 0, 0]) (hst : s.bul.store[r].st = 0) :
    bodyBulRelease c s = .fail .notfound 0 := by
  rw [bodyBulRelease_eq hb (by decide)]
  exact checked_fail _ (by rw [hst]; rfl)

theorem bodyBulRelease_all (hb : c.bytes 24 4 = [byte r.val, 1, 0, 0]) :
    bodyBulRelease c s = .ok (s.modBulBlk fun b => { b with store := b.store.map BulRec.release }) [] none := by
  rw [bodyBulRelease_eq hb (by decide)]
  exact checked_pass _ rfl

end Records

/-- Settles O47: each command by what its body answers on the state in which its steward finds it. -/
theorem bulletinCommandsComplete : Obligations.BulletinCommandsComplete := by
  unfold Obligations.BulletinCommandsComplete
  refine ⟨?cfg, fun s c h hbad => ?_, fun s c h h0 hmax h32 hrsvd hlock hf => ?_, fun s c k h h24 h25 hrsvd hbuf hopen => ?_,
    fun s c h h24 h25 hrsvd hbuf hopen => ?_, fun s c h h24 h25 hrsvd hbuf hlock => ?_, ?watch, ?period,
    fun s c h hrsvd => ⟨?_, bulImage_length s, bulImage_fleetId s, bulImage_entry s⟩, fun s c r h hb hst hlen => ?_,
    fun s c r h hb => ⟨fun hst => ?_, fun hst hlen => ?_⟩, fun s c r h hb hst => ?_, fun s c r h hb hst => ?_, fun s c r h hb => ?_⟩
  case cfg =>
    intro s c f h hf h0 hmax h32 hrsvd hfree
    have hbody := bodyBulCfg_sets (s := s.taken 0x0601 c) hf h0 hmax h32 hrsvd hfree
    rw [← setFleet_wakeMask]
    exact congrArg Host.Outcome.next (runCmd_ok h hbody)
  case watch =>
    intro s c rn ant h hen hant hlo hhi hrn hfits hserved hband hcomp hperiod hlen hlen' hrsvd
    have htarget : WatchTarget (s.taken 0x0603 c) c rn ant := ⟨hen, hant, hlo, hhi, hrn, hfits, hserved, hband, hcomp⟩
    rw [← hant, ← hrn]
    exact congrArg Host.Outcome.next (runCmd_ok h (bodyBulWatch_sets htarget hperiod hlen hlen' hrsvd))
  case period =>
    intro s c rn ant h hen hant hlo hhi hrn hfits hserved hband hcomp hperiod
    have htarget : WatchTarget (s.taken 0x0603 c) c rn ant := ⟨hen, hant, hlo, hhi, hrn, hfits, hserved, hband, hcomp⟩
    exact congrArg Host.Outcome.next (runCmd_fail h (bodyBulWatch_period htarget hperiod))
  · exact congrArg Host.Outcome.next (runCmd_fail h (bodyBulCfg_range hbad))
  · exact congrArg Host.Outcome.next (runCmd_fail h (bodyBulCfg_locked h0 hmax h32 hrsvd hlock hf))
  · exact congrArg Host.Outcome.next (runCmd_ok h (bodyBulKey_writes (s := s.taken 0x0602 c) h24 h25 hrsvd hbuf hopen))
  · exact congrArg Host.Outcome.next (runCmd_ok h (bodyBulKey_keeps (s := s.taken 0x0602 c) h24 h25 hrsvd hbuf hopen))
  · exact congrArg Host.Outcome.next (runCmd_fail h (bodyBulKey_locked h24 h25 hrsvd hbuf hlock))
  · exact congrArg Host.Outcome.next (runCmd_ok h (bodyBulList_image hrsvd))
  · exact congrArg Host.Outcome.next (runCmd_ok h (bodyBulRead_reads (s := s.taken 0x0605 c) hb hst hlen))
  · exact congrArg Host.Outcome.next (runCmd_fail h (bodyBulRead_free hb hst))
  · exact congrArg Host.Outcome.next (runCmd_fail h (bodyBulRead_short hb hst hlen))
  · exact congrArg Host.Outcome.next (runCmd_ok h (bodyBulRelease_one (s := s.taken 0x0606 c) hb hst))
  · exact congrArg Host.Outcome.next (runCmd_fail h (bodyBulRelease_free hb hst))
  · exact congrArg Host.Outcome.next (runCmd_ok h (bodyBulRelease_all (s := s.taken 0x0606 c) hb))

end Sys2Proof.Proofs
end

section
/-!
SUPPORT. Segments of bulletins (R256 to R262): which segments pass the filter, what a segment that passes makes of its reassembly, and what
the check of a full reassembly leaves in the store.
-/

namespace Sys2Proof.Proofs

open Sys2Proof Sys2Proof.Machine Sys2Proof.Laws

variable {s t : State} {b m : List Byte}

/-! ### Agreement outside the host and event blocks -/

theorem rest_bul_eq (h : Rest s t) : t.bul = s.bul := congrArg State.bul (a₁ := rest t) (a₂ := rest s) h
theorem rest_pwr_eq (h : Rest s t) : t.pwr = s.pwr := congrArg State.pwr (a₁ := rest t) (a₂ := rest s) h
theorem rest_clk_eq (h : Rest s t) : t.clk = s.clk := congrArg State.clk (a₁ := rest t) (a₂ := rest s) h

@[simp] theorem raise_bul (s : State) (src code : Nat) (data : List Byte) : (s.raise src code data).bul = s.bul :=
  rest_bul_eq (rest_raise (Rest.refl s) src code data)

/-! ### The filter (R256, R257, R259) -/

section Filter

variable {o : SegObs} {limit : Nat}

theorem bulSegment_ignored (h : s.carries o.runner = false ∨ bulletinOf o.group = none ∨ s.saf.safe = true) :
    exec (.bulSegment o) s = .next s := by
  refine congrArg Host.Outcome.next ?_
  obtain hoff | hnone | hsafe := h
  · simp only [hoff, Bool.false_eq_true, false_and, if_false]
  · simp only [hnone, ite_self]
  · simp only [hsafe, Bool.true_eq_false, and_false, if_false]

theorem bulSegment_heard (hon : s.carries o.runner = true) (hseg : bulletinOf o.group = some b) (hsafe : s.saf.safe = false) :
    exec (.bulSegment o) s = .next (s.bulSegment b (segTransport o.runner).1 (segTransport o.runner).2) := by
  refine congrArg Host.Outcome.next ?_
  simp only [hon, hseg, hsafe, and_self, if_true]

/-- The TLM.BUL counter that counts a segment: 0 for one that passes, else the first rule that drops it (R259). -/
def segVerdict (s : State) (b : List Byte) (limit : Nat) : Nat :=
  if b.length < 28 then 4 else if segFleet b ≠ s.bul.fleetId.toNat then 1 else if segKind b = 0 ∨ 4 < segKind b then 2
  else if segSeq b < s.bulCtr (segKind b) then 3 else if segSeq b = s.bulCtr (segKind b) then 6
  else if segOk b limit = false then 4 else 0

/-- What becomes of a segment by its verdict. -/
def segHandled (s : State) (b : List Byte) (transport : Byte) : Nat → State
  | 0 => s.bulJoin b transport
  | n => s.bulCount n

/-- Fleet 0 belongs to nobody, so with a fleet ID of its own the device compares with that alone. -/
theorem bulSegment_eq (hfleet : s.bul.fleetId ≠ 0) (b : List Byte) (transport : Byte) (limit : Nat) :
    s.bulSegment b transport limit = segHandled s b transport (segVerdict s b limit) := by
  have hother : (segFleet b ≠ s.bul.fleetId.toNat ∨ segFleet b = 0) ↔ segFleet b ≠ s.bul.fleetId.toNat := by
    refine or_iff_left_of_imp fun hzero heq => hfleet (BitVec.eq_of_toNat_eq ?_)
    rw [← heq, hzero]
    rfl
  have hkind : within 1 4 (segKind b) = false ↔ segKind b = 0 ∨ 4 < segKind b := by
    rw [Bool.eq_false_iff, ne_eq, within_iff]
    omega
  simp only [State.bulSegment, hother, hkind, segVerdict]
  split_ifs <;> rfl

theorem bulSegment_dropped (hfleet : s.bul.fleetId ≠ 0) (hn : segVerdict s b limit ≠ 0) (transport : Byte) :
    s.bulSegment b transport limit = s.bump (0xBC00 + 4 * segVerdict s b limit) 1 := by
  rw [bulSegment_eq hfleet]
  cases h : segVerdict s b limit with
  | zero => exact absurd h hn
  | succ n => rfl

/-- A segment that passes the filter of R259 and the checks of R256. -/
structure SegPasses (s : State) (b : List Byte) (limit : Nat) : Prop where
  fleet : segFleet b = s.bul.fleetId.toNat
  fleetId : s.bul.fleetId ≠ 0
  kindLo : 1 ≤ segKind b
  kindHi : segKind b ≤ 4
  seq : s.bulCtr (segKind b) < segSeq b
  ok : segOk b limit = true

theorem segOk_bounds (h : segOk b limit = true) : b.length = 28 + segLen b ∧ segLen b ≤ limit ∧ 4667 ≤ segTotal b := by
  simp only [segOk, Bool.and_eq_true, decide_eq_true_eq, within_iff] at h
  obtain ⟨⟨⟨⟨⟨⟨⟨⟨hlen, _⟩, _⟩, _⟩, hlimit⟩, htotal, _⟩, _⟩, _⟩, _⟩ := h
  exact ⟨hlen, hlimit, htotal⟩

theorem bulSegment_passes (h : SegPasses s b limit) (transport : Byte) : s.bulSegment b transport limit = s.bulJoin b transport := by
  obtain ⟨hfleet, hid, hlo, hhi, hseq, hok⟩ := h
  have hlong : ¬b.length < 28 := by
    have := (segOk_bounds hok).1
    omega
  have hkind : ¬(segKind b = 0 ∨ 4 < segKind b) := by omega
  have hpass : segVerdict s b limit = 0 := by
    simp only [segVerdict, hlong, hfleet, hkind, hseq.not_gt, hseq.ne', hok, ne_eq, not_true_eq_false, Bool.true_eq_false, if_false]
  rw [bulSegment_eq hid, hpass]
  rfl

end Filter

/-! ### Reassembly (R260) -/

section Reassembly

variable {i : Fin 2} {r : Reasm} {transport : Byte}

@[simp] theorem setReasm_same (s : State) (i : Fin 2) (x : Option Reasm) : (s.setReasm i x).bul.reasm[i] = x := upd_same _ i _

theorem setReasm_other (x : Option Reasm) {j : Fin 2} (h : j ≠ i) : (s.setReasm i x).bul.reasm[j] = s.bul.reasm[j] :=
  upd_other _ i j _ h.symm

theorem setReasm_setReasm (s : State) (i : Fin 2) (x y : Option Reasm) : (s.setReasm i x).setReasm i y = s.setReasm i y := by
  simp only [State.setReasm, State.modBulBlk, upd_upd]

/-- A reassembly with the data of a segment. -/
def joined (r : Reasm) (b : List Byte) (transport : Byte) : Reasm := r.join (segOffset b) (slice b 24 (segLen b)) transport

/-- The buffer of a key holds that key. -/
theorem bufOf_key {x : BulBlk} {kind seq : Nat} (h : x.bufOf kind seq = some i) (hr : x.reasm[i] = some r) :
    r.kind.toNat = kind ∧ r.seq.toNat = seq := by
  have hkey := List.find?_some h
  simp only [hr, Bool.and_eq_true, decide_eq_true_eq] at hkey
  exact hkey

theorem bulJoin_buffer (hbuf : s.bul.bufOf (segKind b) (segSeq b) = some i) (hr : s.bul.reasm[i] = some r)
    (htotal : r.total = segTotal b) :
    s.bulJoin b transport = ((s.bump 0xBC00 1).setReasm i (some (joined r b transport))).bulComplete i := by
  simp only [State.bulJoin, hbuf, hr, htotal, if_true]
  rfl

theorem bulComplete_waits (hr : s.bul.reasm[i] = some r) (hpart : r.full = false) : s.bulComplete i = s := by
  simp only [State.bulComplete, hr, hpart, Bool.false_eq_true, if_false]

/-- What the check of a bulletin leads to. -/
def bulChecked (s : State) (kind seq : Nat) (transport : Byte) (b : List Byte) : State :=
  match s.bulCheck kind seq b with
  | some code => s.bulRejected code kind seq
  | none => s.bulAccept kind seq transport b

theorem bulComplete_full (hr : s.bul.reasm[i] = some r) (hfull : r.full = true) :
    s.bulComplete i = bulChecked (s.setReasm i none) r.kind.toNat r.seq.toNat r.transport r.bytes := by
  simp only [State.bulComplete, hr, hfull, if_true]
  rfl

/-- A full reassembly holds every unit. -/
theorem full_units (h : r.full = true) : ceilDiv r.total 128 ≤ r.units.length := by
  have hsub : List.range (ceilDiv r.total 128) ⊆ r.units := fun u hu => by
    simpa using List.all_eq_true.mp h u hu
  simpa using (List.nodup_range.subperm hsub).length_le

/-- The 128-byte units of a segment. -/
def segUnits (b : List Byte) : List Nat := (List.range (ceilDiv (segLen b) 128)).map fun j => segOffset b / 128 + j

/-- A reassembly that begins. -/
def newReasm (s : State) (b : List Byte) (transport : Byte) : Reasm :=
  { kind := byte (segKind b), seq := BitVec.ofNat 32 (segSeq b), total := segTotal b, units := [], data := [], first := s.sys.timeUs
    transport := transport }

theorem joined_new_units : (joined (newReasm s b transport) b transport).units = segUnits b := by
  simp [joined, Reasm.join, newReasm, segUnits, slice]

/-- One segment never fills a reassembly: the least TOTAL is beyond every transport's limit. -/
theorem joined_new_part {limit : Nat} (hok : segOk b limit = true) (hlimit : limit ≤ 4096) :
    (joined (newReasm s b transport) b transport).full = false := by
  obtain ⟨_, hlen, htotal⟩ := segOk_bounds hok
  rw [Bool.eq_false_iff]
  intro hfull
  have hunits : ceilDiv (segTotal b) 128 ≤ (joined (newReasm s b transport) b transport).units.length := full_units hfull
  rw [joined_new_units, segUnits, List.length_map, List.length_range, ceilDiv, ceilDiv] at hunits
  omega

theorem segTransport_limit (rn : Fin 32) : (segTransport rn).2 ≤ 4096 := by
  unfold segTransport
  split_ifs <;> decide

/-- With no buffer of its key a segment begins a reassembly in the lowest free one. -/
theorem bulJoin_begins {limit : Nat} (hok : segOk b limit = true) (hlimit : limit ≤ 4096)
    (hbuf : s.bul.bufOf (segKind b) (segSeq b) = none) (hfree : s.bul.reasm[i] = none)
    (hlow : ∀ j : Fin 2, j < i → (s.bul.reasm[j]).isSome = true) :
    s.bulJoin b transport = (s.bump 0xBC00 1).setReasm i (some (joined (newReasm s b transport) b transport)) := by
  have hix : (firstIx fun j : Fin 2 => (s.bulCount 0).bul.reasm[j].isNone) = some i :=
    firstIx_eq (Option.isNone_iff_eq_none.mpr hfree) fun j hj => Option.isNone_eq_false_iff.mpr (hlow j hj)
  have htake : (s.bulCount 0).takeReasm (segKind b) (segSeq b) (segTotal b) transport =
      ((s.bump 0xBC00 1).setReasm i (some (newReasm s b transport)), i) := by
    simp only [State.takeReasm, hix]
    rfl
  simp only [State.bulJoin, hbuf, htake, setReasm_same]
  rw [setReasm_setReasm]
  exact bulComplete_waits (setReasm_same _ _ _) (joined_new_part hok hlimit)

end Reassembly

/-! ### Units that leave for the host touch no bulletin (R62 to R64) -/

section Deliver

theorem writePiece_bul (s : State) (c : Fin 256) (u : Unit1) : (s.writePiece c u).bul = s.bul := by
  unfold State.writePiece
  exact rest_bul_eq (rest_writeEntry (rest_modRing (rest_post (Rest.refl s) _) _ _) _ _)

theorem pieceDone_bul (s : State) (c : Fin 256) (u : Unit1) : (s.pieceDone c u).bul = s.bul := by
  unfold State.pieceDone
  dsimp only
  split_ifs <;> rfl

theorem drainStaged_bul (n : Nat) (s : State) (c : Fin 256) : (s.drainStaged n c).bul = s.bul := by
  induction n generalizing s with
  | zero => rfl
  | succ n ih =>
    unfold State.drainStaged
    split
    · rfl
    · split
      · rw [ih, pieceDone_bul, writePiece_bul]
      · rfl

theorem deliver_bul (s : State) (c : Fin 256) (payload : List Byte) (ts : D) (tag : W) (lost : Nat) (disc : Bool) (mot : Option (BitVec 16)) :
    (s.deliver c payload ts tag lost disc mot).bul = s.bul := by
  unfold State.deliver
  dsimp only
  rw [apply_ite State.bul, drainStaged_bul]
  split_ifs <;> rfl

theorem bulDeliver_bul (s : State) (kind : Nat) (b : List Byte) : (s.bulDeliver kind b).bul = s.bul :=
  List.foldlRecOn (motive := fun t : State => t.bul = s.bul) _ _ rfl fun _ ht _ _ => (deliver_bul _ _ _ _ _ _ _ _).trans ht

end Deliver

/-! ### The store and the wake (R262, R263, R265) -/

section Accept

variable {kind seq n : Nat} {transport : Byte} {k : Fin 128} {j : Fin 4}

/-- Nothing is reclaimed for what fits. -/
theorem makeSpace_fits (h : s.bul.place n = some k) : s.makeSpace n = s := by
  have hstays (r : Fin 128) : (if (s.bul.place n).isSome = true then s else s.modBul r fun _ => {}) = s := if_pos (by rw [h]; rfl)
  unfold State.makeSpace
  exact List.foldl_fixed' hstays _

/-- The record of an accepted bulletin. -/
def acceptedRec (s : State) (kind seq : Nat) (transport : Byte) (pending : Bool) (b : List Byte) : BulRec :=
  { st := 1, kind := byte kind, pending := pending, unchecked := !s.sys.rtcSet, transport := transport
    seq := BitVec.ofNat 32 seq, acceptedAt := BitVec.ofNat 32 s.rtc, bytes := b }

/-- The bulletin block with a record stored and a counter at its SEQ. -/
def withStored (x : BulBlk) (k : Fin 128) (j : Fin 4) (seq : Nat) (r : BulRec) : BulBlk :=
  { x with store := upd x.store k fun _ => r, ctr := upd x.ctr j fun _ => BitVec.ofNat 32 seq }

theorem bulStore_stores (hplace : s.bul.place b.length = some k) (hctr : ix 4 (kind - 1) = some j) (pending : Bool) :
    (s.bulStore kind seq transport pending b).1.bul = withStored s.bul k j seq (acceptedRec s kind seq transport pending b) ∧
    (s.bulStore kind seq transport pending b).2 = some k := by
  simp only [State.bulStore, makeSpace_fits hplace, hplace, hctr, Option.isNone_some, Bool.false_eq_true, if_false, and_true]
  rw [raise_bul, bulDeliver_bul]
  rfl

theorem bulWakeEvent_bul (s : State) (code : Nat) (record : Option (Fin 128)) (kind seq : Nat) :
    (s.bulWakeEvent code record kind seq).bul = s.bul := by
  unfold State.bulWakeEvent
  dsimp only
  split
  · exact raise_bul _ _ _ _
  · exact rest_bul_eq (rest_raiseDeferred (Rest.refl s) _ _ _)

theorem wakeUp_bul_watch (h : s.pwr.st = .watch) (code : Nat) : (s.wakeUp code).bul = s.bul := by
  simp only [State.wakeUp, h]
  split_ifs <;> rfl

/-- The host-wake request of a bulletin goes out once. -/
def hostAsked (s : State) : State := if s.pwr.wakeAsked then s else s.hostWake.modPwr fun p => { p with wakeAsked := true }

theorem hostAsked_bul (s : State) : (hostAsked s).bul = s.bul := by
  unfold hostAsked
  split <;> rfl

theorem hostAsked_st (s : State) : (hostAsked s).pwr.st = s.pwr.st := by
  unfold hostAsked
  split <;> rfl

/-- The device leaves WATCH for the host, or holds the wake until its reception window has closed. -/
def watchLeft (s : State) : State :=
  if s.bul.winStep = 0 then s.wakeUp 6
  else if s.pwr.waking.isSome ∨ s.pwr.heldWake.isSome then s
  else s.modPwr fun p => { p with heldWake := some 6 }

theorem watchLeft_bul (h : s.pwr.st = .watch) : (watchLeft s).bul = s.bul := by
  unfold watchLeft
  split_ifs
  · exact wakeUp_bul_watch h 6
  · rfl
  · rfl

theorem bulWake_eq (s : State) (code : Nat) (k : Fin 128) (kind seq : Nat)
    (ht : t = (s.modBul k fun x => { x with wakeRaised := true }).bulWakeEvent code (some k) kind seq) :
    s.bulWake code (some k) kind seq = if t.pwr.st = .watch then watchLeft (hostAsked t) else t := by
  subst ht
  rfl

/-- A wake of the host marks its record, and no more of the bulletin block. -/
theorem bulWake_bul (s : State) (code : Nat) (k : Fin 128) (kind seq : Nat) :
    (s.bulWake code (some k) kind seq).bul = (s.modBul k fun x => { x with wakeRaised := true }).bul := by
  rw [bulWake_eq s code k kind seq rfl]
  split
  · next hwatch => rw [watchLeft_bul ((hostAsked_st _).trans hwatch), hostAsked_bul, bulWakeEvent_bul]
  · exact bulWakeEvent_bul _ _ _ _ _

/-- What a bulletin that is no delta and no key-rollover record leaves behind, where the store has room. -/
theorem bulAccept_stores (hkind : kind ≠ 1) (hroll : isRollover b = false) (hplace : s.bul.place b.length = some k)
    (hctr : ix 4 (kind - 1) = some j) : ∃ r : BulRec, (s.bulAccept kind seq transport b).bul = withStored s.bul k j seq r ∧
      r.st = 1 ∧ r.bytes = b ∧ r.kind = byte kind := by
  obtain ⟨p, hp⟩ : ∃ p, p = (decide (s.rtc < bulNotBefore b) && true) := ⟨_, rfl⟩
  obtain ⟨hbul, hat⟩ := bulStore_stores (seq := seq) (transport := transport) hplace hctr p
  simp only [State.bulAccept, hroll, makeSpace_fits hplace, hplace, hkind, Option.isSome_some, ← hp, Bool.false_eq_true, if_false, false_and, hat]
  split
  · split
    · exact ⟨_, hbul, rfl, rfl, rfl⟩
    · refine ⟨{ acceptedRec s kind seq transport p b with wakeRaised := true }, ?_, rfl, rfl, rfl⟩
      rw [bulWake_bul, modBul_bul, hbul, withStored, upd_upd]
      rfl
  · exact ⟨_, hbul, rfl, rfl, rfl⟩

theorem bulCheck_form (h : s.bulCheck kind seq b = none) : s.bulForm kind seq b = true := by
  by_contra hform
  simp only [State.bulCheck, eq_false_of_ne_true hform, if_true, reduceCtorEq] at h

theorem bulForm_kind (h : s.bulForm kind seq b = true) : be b 1 1 = kind := by
  simp only [State.bulForm, Bool.and_eq_true, decide_eq_true_eq] at h
  tauto

/-- Key-rollover records are of kind 3. -/
theorem isRollover_other (h : be b 1 1 ≠ 3) : isRollover b = false := by
  simp only [isRollover, h, decide_false, Bool.false_and]

end Accept

/-! ### A segment by what it finds -/

section Segments

variable {o : SegObs} {i : Fin 2} {r : Reasm} {k : Fin 128} {transport : Byte}

/-- A segment that passes on a runner where someone takes segments. -/
theorem bulSegment_joins (hon : s.carries o.runner = true) (hseg : bulletinOf o.group = some b) (hsafe : s.saf.safe = false)
    (hpass : SegPasses s b (segTransport o.runner).2) :
    exec (.bulSegment o) s = .next (s.bulJoin b (segTransport o.runner).1) :=
  (bulSegment_heard hon hseg hsafe).trans (congrArg Host.Outcome.next (bulSegment_passes hpass _))

/-- A segment that leaves its buffer short of units stays in it. -/
theorem bulJoin_part (hbuf : s.bul.bufOf (segKind b) (segSeq b) = some i) (hr : s.bul.reasm[i] = some r)
    (htotal : r.total = segTotal b) (hpart : (joined r b transport).full = false) :
    s.bulJoin b transport = (s.bump 0xBC00 1).setReasm i (some (joined r b transport)) :=
  (bulJoin_buffer hbuf hr htotal).trans (bulComplete_waits (setReasm_same _ _ _) hpart)

/-- A segment that fills its buffer frees it, and the bulletin is checked. -/
theorem bulJoin_full (hbuf : s.bul.bufOf (segKind b) (segSeq b) = some i) (hr : s.bul.reasm[i] = some r)
    (htotal : r.total = segTotal b) (hfull : (joined r b transport).full = true) : s.bulJoin b transport =
      bulChecked ((s.bump 0xBC00 1).setReasm i none) (segKind b) (segSeq b) transport (joined r b transport).bytes := by
  obtain ⟨hkind, hseq⟩ := bufOf_key hbuf hr
  have hkind' : (joined r b transport).kind.toNat = segKind b := hkind
  have hseq' : (joined r b transport).seq.toNat = segSeq b := hseq
  rw [bulJoin_buffer hbuf hr htotal, bulComplete_full (setReasm_same _ _ _) hfull, setReasm_setReasm, hkind', hseq']
  rfl

/-- The check of a bulletin of kind 4 by its outcome: a code, or a record with the counter at its SEQ. -/
theorem bulChecked_kind4 {seq : Nat} (ht : t = (s.bump 0xBC00 1).setReasm i none)
    (hplace : s.bul.place m.length = some k) : (bulChecked t 4 seq transport m).bul.reasm[i] = none ∧
      match s.bulCheck 4 seq m with
      | some code => bulChecked t 4 seq transport m = t.raise 57 code ([0, 4, 0, 0] ++ leBytes 4 seq)
      | none => (bulChecked t 4 seq transport m).bul.store[k].st = 1 ∧ (bulChecked t 4 seq transport m).bul.store[k].bytes = m ∧
          (bulChecked t 4 seq transport m).bul.store[k].kind = 4 ∧ (bulChecked t 4 seq transport m).bul.ctr[3] = BitVec.ofNat 32 seq := by
  have hfree : t.bul.reasm[i] = none := ht ▸ setReasm_same _ _ _
  have hsame : t.bulCheck 4 seq m = s.bulCheck 4 seq m := ht ▸ rfl
  have hroom : t.bul.place m.length = some k := ht ▸ hplace
  rw [← hsame]
  unfold bulChecked
  cases hcheck : t.bulCheck 4 seq m with
  | some code => exact ⟨(congrArg (fun x : BulBlk => x.reasm[i]) (raise_bul t _ _ _)).trans hfree, rfl⟩
  | none =>
    have hkind := bulForm_kind (bulCheck_form hcheck)
    have hroll : isRollover m = false := isRollover_other (by rw [hkind]; decide)
    obtain ⟨x, hbul, hst, hbytes, hx⟩ := bulAccept_stores (kind := 4) (seq := seq) (transport := transport) (j := 3) (by decide)
      hroll hroom rfl
    dsimp only
    rw [hbul]
    simp only [withStored, upd_same, hst, hbytes, hx, hfree, true_and]
    exact ⟨rfl, upd_same t.bul.ctr 3 _⟩

end Segments

end Sys2Proof.Proofs
end

section
/-!
SUPPORT. The time-out of a reassembly (R260), NOT_BEFORE (R262, R265) and the reception windows in WATCH (R98, R266, R267), and what becomes of
segments as the statement about them has it.
-/

namespace Sys2Proof.Proofs

open Sys2Proof Sys2Proof.Machine Sys2Proof.Laws

variable {s : State}

/-! ### BUL_REASSEMBLY_TIMEOUT (R260) -/

section Timeout

variable {i : Fin 2} {r : Reasm}

theorem byte_of_toNat (b : Byte) : byte b.toNat = b := by simp [byte]

theorem reassemblyTimeout_ends (hr : s.bul.reasm[i] = some r) (hdue : 86400000000 ≤ (s.sys.timeUs - r.first).toNat) :
    exec (.bulReassemblyTimeout i) s =
      .next ((s.setReasm i none).raise 57 7 ([0, r.kind, 0, 0] ++ leBytes 4 r.seq.toNat)) := by
  refine congrArg Host.Outcome.next ?_
  simp only [hr, if_neg hdue.not_gt, State.bulRejected, byte_of_toNat]

theorem reassemblyTimeout_none (h : (s.bul.reasm[i].all fun r => decide ((s.sys.timeUs - r.first).toNat < 86400000000)) = true) :
    exec (.bulReassemblyTimeout i) s = .next s := by
  refine congrArg Host.Outcome.next ?_
  cases hr : s.bul.reasm[i] with
  | none => rfl
  | some r =>
    rw [hr] at h
    exact if_pos (of_decide_eq_true h)

end Timeout

/-! ### BUL_NOT_BEFORE (R262, R265) -/

section NotBefore

variable {r : Fin 128}

theorem modBul_modBul (s : State) (r : Fin 128) (f g : BulRec → BulRec) : (s.modBul r f).modBul r g = s.modBul r fun x => g (f x) := by
  simp only [State.modBul, upd_upd]

/-- The record no longer waits for its NOT_BEFORE. -/
def waitEnded (s : State) (r : Fin 128) : State := s.modBul r fun x => { x with pending := false }

/-- A record whose waiting ends, and which asks for nobody. -/
theorem bulDue_quiet (hst : s.bul.store[r].st ≠ 0) (hwait : s.bul.store[r].pending = true) (hkind : s.bul.store[r].kind ≠ 1)
    (hneed : (waitEnded s r).bulNeedsHost s.bul.store[r].kind.toNat (bulRules s.bul.store[r].bytes) false = none) :
    s.bulDue r = waitEnded s r := by
  unfold waitEnded at hneed ⊢
  simp only [State.bulDue, hst, hwait, hkind, hneed, ne_eq, not_false_eq_true, and_self, if_true, if_false]

/-- A record whose waiting ends, and which asks for the host for the first time. -/
theorem bulDue_wakes {code : Nat} (hst : s.bul.store[r].st ≠ 0) (hwait : s.bul.store[r].pending = true) (hkind : s.bul.store[r].kind ≠ 1)
    (hneed : (waitEnded s r).bulNeedsHost s.bul.store[r].kind.toNat (bulRules s.bul.store[r].bytes) false = some code)
    (hfirst : s.bul.store[r].wakeRaised = false) :
    s.bulDue r = (waitEnded s r).bulWake code (some r) s.bul.store[r].kind.toNat s.bul.store[r].seq.toNat := by
  unfold waitEnded at hneed ⊢
  simp only [State.bulDue, hst, hwait, hkind, hneed, hfirst, ne_eq, not_false_eq_true, and_self, Bool.false_eq_true, if_true, if_false]

theorem notBefore_quiet (hst : s.bul.store[r].st ≠ 0) (hwait : s.bul.store[r].pending = true) (hkind : s.bul.store[r].kind ≠ 1)
    (hmask : s.bul.wakeMask.getLsbD (s.bul.store[r].kind.toNat - 1) = false) :
    exec (.bulNotBefore r) s = .next (s.modBul r fun x => { x with pending := false }) :=
  congrArg Host.Outcome.next (bulDue_quiet hst hwait hkind (if_pos hmask))

/-- In RUN the wake is source 58. -/
theorem bulWake_run (hrun : s.pwr.st = .run) (code kind seq : Nat) : s.bulWake code (some r) kind seq =
    (s.modBul r fun x => { x with wakeRaised := true }).raise 58 code ([byte r.val, byte kind, 0, 0] ++ leBytes 4 seq) := by
  obtain ⟨t, ht⟩ : ∃ t, t = s.modBul r fun x => { x with wakeRaised := true } := ⟨_, rfl⟩
  have htrun : t.pwr.st = .run := ht ▸ hrun
  have hevent : t.bulWakeEvent code (some r) kind seq = t.raise 58 code ([byte r.val, byte kind, 0, 0] ++ leBytes 4 seq) := if_pos htrun
  rw [bulWake_eq s code r kind seq rfl, ← ht, hevent, rest_pwr_eq (rest_raise (Rest.refl t) _ _ _), htrun]
  rfl

theorem notBefore_wakes (hst : s.bul.store[r].st ≠ 0) (hwait : s.bul.store[r].pending = true) (hkind : s.bul.store[r].kind ≠ 1)
    (hmask : s.bul.wakeMask.getLsbD (s.bul.store[r].kind.toNat - 1) = true) (halways : (bulRules s.bul.store[r].bytes).getLsbD 0 = true)
    (hfirst : s.bul.store[r].wakeRaised = false) (hrun : s.pwr.st = .run) :
    exec (.bulNotBefore r) s = .next ((s.modBul r fun x => { x with pending := false, wakeRaised := true }).raise 58 0
      ([byte r.val, s.bul.store[r].kind, 0, 0] ++ leBytes 4 s.bul.store[r].seq.toNat)) := by
  have hneed : (waitEnded s r).bulNeedsHost s.bul.store[r].kind.toNat (bulRules s.bul.store[r].bytes) false = some 0 := by
    simp only [State.bulNeedsHost, waitEnded, modBul_bul, hmask, halways, Bool.true_eq_false, if_false, if_true]
  refine congrArg Host.Outcome.next ((bulDue_wakes hst hwait hkind hneed hfirst).trans ?_)
  rw [bulWake_run (s := waitEnded s r) hrun, waitEnded, modBul_modBul, byte_of_toNat]

theorem notBefore_none (h : s.bul.store[r].st = 0 ∨ s.bul.store[r].pending = false) : exec (.bulNotBefore r) s = .next s := by
  refine congrArg Host.Outcome.next (if_neg ?_)
  rintro ⟨hst, hwait⟩
  obtain hfree | hdone := h
  · exact hst hfree
  · exact Bool.false_ne_true (hdone.symm.trans hwait)

end NotBefore

/-! ### The steps of a reception window (R98, R266, R267) -/

section Window

variable {ant : Fin 4} {win : Fin 64}

theorem windowPrep_starts (hst : s.pwr.st = .watch) (hen : s.bul.watchEn = true) (hstep : s.bul.winStep = 0) (hwake : s.pwr.waking = none)
    (hant : ant = s.watchAntenna) : ∃ u : State, exec .bulWindowPrep s = .next u ∧ u.bul = { s.bul with winStep := 1 } ∧
      u.pwr.pmicWait = some 800 ∧ u.clk.pllOn = true ∧ u.cap.hr[ant].running = true ∧
      (∀ n : Fin 4, n ≠ ant → u.cap.hr[n] = s.cap.hr[n]) ∧ u.svc = s.svc ∧ u.win = s.win := by
  obtain ⟨t, ht⟩ : ∃ t, t = ((s.modBulBlk fun b => { b with winStep := 1 }).requestVolt 800).modClk fun c =>
    { c with pllOn := true, good := 0 } := ⟨_, rfl⟩
  have hprep : exec .bulWindowPrep s = .next (t.startHr ant (BitVec.ofNat 4 t.cap.hr[ant].gainInit) (t.cap.hr[ant].ctl.getLsbD 0)) := by
    subst ht hant
    exact congrArg Host.Outcome.next (if_pos ⟨hst, hen, hstep, by rw [hwake]; rfl⟩)
  obtain ⟨b, hb⟩ := startHr_eq t ant (BitVec.ofNat 4 t.cap.hr[ant].gainInit) (t.cap.hr[ant].ctl.getLsbD 0)
  refine ⟨_, hprep, ?_⟩
  rw [hb, ht]
  exact ⟨rfl, rfl, rfl, congrArg Headrace.running (upd_same _ ant _), fun n hn => modHr_hr_other _ hn, rfl, rfl⟩

theorem windowPrep_none (h : s.pwr.st ≠ .watch ∨ s.bul.watchEn = false) : exec .bulWindowPrep s = .next s := by
  refine congrArg Host.Outcome.next (if_neg ?_)
  rintro ⟨hst, hen, _⟩
  obtain hother | hoff := h
  · exact hother hst
  · exact Bool.false_ne_true (hoff.symm.trans hen)

/-- The feed comes on if it was on in RUN and is not shut off (R97, R98). -/
theorem feedOn_feeds (hstep : s.bul.winStep = 1) (hant : ant = s.watchAntenna) : exec .bulFeedOn s =
    .next (if s.cap.feed[ant].wanted = true ∧ s.cap.feed[ant].st ≠ .shutoff then
      ({ s with bul := { s.bul with winStep := 2 } }).modFeed ant fun f => f.rampUp s.sys.timeUs
      else { s with bul := { s.bul with winStep := 2 } }) := by
  subst hant
  refine congrArg Host.Outcome.next ((if_pos hstep).trans ?_)
  split
  · next h => exact modFeed_congr (if_pos h)
  · next h => exact modFeed_id (if_neg h)

theorem feedOn_none (h : s.bul.winStep ≠ 1) : exec .bulFeedOn s = .next s := congrArg Host.Outcome.next (if_neg h)

/-- The lowest closed window opens at a second of the schedule. -/
theorem windowOpen_opens (hstep : s.bul.winStep = 2) (hlevel : s.pwr.level = 2) (hst : s.pwr.st = .watch) (hsec : s.windowSecond = true)
    (hwin : s.win.win[win].st = 0) (hlow : ∀ w : Fin 64, w < win → s.win.win[w].st ≠ 0) : exec .bulWindowOpen s =
      .next (match s.openWin win s.watchReq with | some t => { t with bul := { t.bul with winStep := 3 } } | none => s) := by
  have hix : (firstIx fun w : Fin 64 => decide (s.win.win[w].st = 0)) = some win :=
    firstIx_eq (decide_eq_true hwin) fun w hw => decide_eq_false (hlow w hw)
  refine congrArg Host.Outcome.next ((if_pos ⟨hstep, hlevel, hst, hsec⟩).trans ?_)
  simp only [hix]
  cases s.openWin win s.watchReq <;> rfl

theorem windowOpen_none (h : s.pwr.level ≠ 2 ∨ s.windowSecond = false ∨ s.bul.winStep ≠ 2) : exec .bulWindowOpen s = .next s := by
  refine congrArg Host.Outcome.next (if_neg ?_)
  rintro ⟨hstep, hlevel, _, hsec⟩
  obtain hlow | hno | hother := h
  · exact hlow hlevel
  · exact Bool.false_ne_true (hno.symm.trans hsec)
  · exact hother hstep

end Window

/-! ### The end of a reception window (R267) -/

section Close

variable {n : Fin 4}

theorem calAAbandon_pwr (s : State) : s.calAAbandon.pwr = s.pwr := by
  unfold State.calAAbandon
  split
  · rfl
  · dsimp only
    split
    · rfl
    · exact (rest_pwr_eq (rest_finishSlot (Rest.refl _) _ _ _ _ _ _)).trans rfl

theorem calAAbandonOn_pwr (s : State) (n : Fin 4) : (s.calAAbandonOn n).pwr = s.pwr := by
  unfold State.calAAbandonOn
  split
  · split
    · exact calAAbandon_pwr s
    · rfl
  · rfl

/-- A stop leaves the power controller alone, and the Headrace does not run. -/
theorem stopHr_spec (s : State) (n : Fin 4) : (s.stopHr n).pwr = s.pwr ∧ (s.stopHr n).cap.hr[n].running = false := by
  obtain ⟨b, hb⟩ := rest_legsStopped ((s.calAAbandonOn n).modHr n stoppedHr) n
  have hstop : s.stopHr n = ((s.calAAbandonOn n).modHr n stoppedHr).legsStopped n := rfl
  rw [hstop, rest_pwr_eq hb, rest_cap_eq hb]
  exact ⟨calAAbandonOn_pwr s n, congrArg Headrace.running (upd_same _ n _)⟩

theorem closeWin_pwr (s : State) (w : Fin 64) : (s.closeWin w).pwr = s.pwr := by
  obtain ⟨d, hd⟩ := closeWin_eq s w
  rw [hd]
  rfl

theorem off_on (f : Feed) (now : D) (st : FeedState) : (f.off now st).on = false := by
  unfold Feed.off
  split
  · rfl
  · next h => exact eq_false_of_ne_true h

/-- The Sluice window of the reception window closes, if it opened. -/
def listeningEnded (s : State) : State :=
  match s.windowOf (Fin.ofNat 32 s.bul.watchRunner.toNat) with
  | some w => s.closeWin w
  | none => s

theorem listeningEnded_pwr (s : State) : (listeningEnded s).pwr = s.pwr := by
  unfold listeningEnded
  split
  · exact closeWin_pwr s _
  · rfl

/-- Reception stops, and the feed goes off. -/
def receptionEnded (s : State) (n : Fin 4) : State :=
  (((listeningEnded s).stopHr n).modFeed n fun f => f.off (listeningEnded s).sys.timeUs .off).modBulBlk fun b => { b with winStep := 0 }

theorem receptionEnded_spec (s : State) (n : Fin 4) : (receptionEnded s n).pwr = s.pwr ∧ (receptionEnded s n).bul.winStep = 0 ∧
    (receptionEnded s n).cap.hr[n].running = false ∧ (receptionEnded s n).cap.feed[n].on = false := by
  obtain ⟨hpwr, hrun⟩ := stopHr_spec (listeningEnded s) n
  obtain ⟨t, ht⟩ : ∃ t, t = (listeningEnded s).stopHr n := ⟨_, rfl⟩
  rw [listeningEnded_pwr] at hpwr
  rw [receptionEnded, ← ht]
  rw [← ht] at hpwr hrun
  exact ⟨hpwr, rfl, hrun, (congrArg Feed.on (modFeed_feed_same t n _)).trans (off_on _ _ _)⟩

/-- PL0 with the PLL off, before its event and its request for 700 mV. -/
def atPl0 (s : State) : State := s.pllStop.modPwr fun p => { p with level := 0 }

/-- The level returns to PL0 (R411). -/
def returnedToPl0 (s : State) : State :=
  (if s.pwr.level = 0 then atPl0 s else (atPl0 s).levelEvent 0 s.pwr.level).requestVolt 700

theorem returnedToPl0_spec (s : State) : (returnedToPl0 s).bul = s.bul ∧ (returnedToPl0 s).cap = s.cap ∧ (returnedToPl0 s).pwr.level = 0 ∧
    (returnedToPl0 s).pwr.pmicWait = some 700 ∧ (returnedToPl0 s).clk.pllOn = false := by
  obtain ⟨t, ht⟩ : ∃ t, t = if s.pwr.level = 0 then atPl0 s else (atPl0 s).levelEvent 0 s.pwr.level := ⟨_, rfl⟩
  have hrest : Rest (atPl0 s) t := ht ▸ Rest.ite (Rest.refl _) (rest_raise (Rest.refl _) _ _ _)
  have hbul := rest_bul_eq hrest
  have hcap := rest_cap_eq hrest
  have hlevel := congrArg PwrBlk.level (rest_pwr_eq hrest)
  have hpll := congrArg ClkBlk.pllOn (rest_clk_eq hrest)
  rw [returnedToPl0, ← ht]
  exact ⟨hbul, hcap, hlevel, rfl, hpll⟩

theorem windowClose_eq (h : s.bul.winStep ≠ 0) : exec .bulWindowClose s =
    .next (if (receptionEnded s s.watchAntenna).pwr.st = .watch ∧ (receptionEnded s s.watchAntenna).pwr.waking.isNone = true then
      returnedToPl0 (receptionEnded s s.watchAntenna) else receptionEnded s s.watchAntenna) :=
  congrArg Host.Outcome.next (if_neg h)

theorem windowClose_closes (hstep : s.bul.winStep ≠ 0) (hst : s.pwr.st = .watch) (hwake : s.pwr.waking = none) (hant : n = s.watchAntenna) :
    ∃ u : State, exec .bulWindowClose s = .next u ∧ u.bul.winStep = 0 ∧ u.cap.hr[n].running = false ∧ u.cap.feed[n].on = false ∧
      u.pwr.level = 0 ∧ u.pwr.pmicWait = some 700 ∧ u.clk.pllOn = false := by
  subst hant
  obtain ⟨hpwr, hended, hrun, hfeed⟩ := receptionEnded_spec s s.watchAntenna
  obtain ⟨hbul, hcap, hlevel, hvolt, hpll⟩ := returnedToPl0_spec (receptionEnded s s.watchAntenna)
  have hwatch : (receptionEnded s s.watchAntenna).pwr.st = .watch ∧ (receptionEnded s s.watchAntenna).pwr.waking.isNone = true := by
    rw [hpwr, hst, hwake]
    exact ⟨rfl, rfl⟩
  refine ⟨_, (windowClose_eq hstep).trans (congrArg Host.Outcome.next (if_pos hwatch)), ?_⟩
  rw [hbul, hcap]
  exact ⟨hended, hrun, hfeed, hlevel, hvolt, hpll⟩

theorem windowClose_none (h : s.bul.winStep = 0) : exec .bulWindowClose s = .next s := congrArg Host.Outcome.next (if_pos h)

end Close

/-- Settles O48: a segment by its verdict and by the buffer that it finds, a time by what waits for it, a step of a window by the one before. -/
theorem segmentsBecomeBulletins : Obligations.SegmentsBecomeBulletins := by
  unfold Obligations.SegmentsBecomeBulletins
  refine ⟨fun _ _ => bulSegment_ignored, ?dropped, ?part, ?begins, ?full, fun _ _ _ => reassemblyTimeout_ends, fun _ _ => reassemblyTimeout_none,
    fun _ _ => notBefore_quiet, fun _ _ => notBefore_wakes, fun _ _ => notBefore_none, fun _ _ => windowPrep_starts, fun _ => windowPrep_none,
    fun _ _ => feedOn_feeds, fun _ => feedOn_none, fun _ _ => windowOpen_opens, fun _ => windowOpen_none, fun _ _ => windowClose_closes,
    fun _ => windowClose_none⟩
  case dropped =>
    intro s o b n hon hseg hsafe hfleet hn hdrop
    subst hn
    exact (bulSegment_heard hon hseg hsafe).trans (congrArg Host.Outcome.next (bulSegment_dropped hfleet hdrop _))
  case part =>
    intro s o b i r hon hseg hsafe hfleet hid hlo hhi hseq hok hbuf hr htotal hpart
    exact (bulSegment_joins hon hseg hsafe ⟨hfleet, hid, hlo, hhi, hseq, hok⟩).trans
      (congrArg Host.Outcome.next (bulJoin_part hbuf hr htotal hpart))
  case begins =>
    intro s o b i hon hseg hsafe hfleet hid hlo hhi hseq hok hbuf hfree hlow
    have hjoin := bulJoin_begins (transport := (segTransport o.runner).1) hok (segTransport_limit o.runner) hbuf hfree hlow
    refine ⟨_, joined (newReasm s b (segTransport o.runner).1) b (segTransport o.runner).1,
      (bulSegment_joins hon hseg hsafe ⟨hfleet, hid, hlo, hhi, hseq, hok⟩).trans (congrArg Host.Outcome.next hjoin),
      setReasm_same _ _ _, rfl, rfl, rfl, rfl, joined_new_units, fun j hj => setReasm_other _ hj, rfl⟩
  case full =>
    intro s o b i r m k hon hseg hsafe hfleet hid hkind hseq hok hbuf hr htotal hfull hm hplace
    have hpass : SegPasses s b (segTransport o.runner).2 := ⟨hfleet, hid, by omega, by omega, by rwa [hkind], hok⟩
    have hjoin := bulJoin_full (by rwa [hkind]) hr htotal hfull
    rw [hkind] at hjoin
    subst hm
    exact ⟨_, (bulSegment_joins hon hseg hsafe hpass).trans (congrArg Host.Outcome.next hjoin), bulChecked_kind4 rfl hplace⟩

end Sys2Proof.Proofs
end

section
/-!
SUPPORT. The audio commands (R272, R273, R282, R289, R290, R292, R297): what each body answers on the state in which its steward finds it.
-/

namespace Sys2Proof.Proofs

open Sys2Proof Sys2Proof.Machine Sys2Proof.Laws

variable {s : State} {c : CmdEntry} {n : Fin 4}

/-- Checks that pass leave the answer to those behind them. -/
theorem checked_append {l : List (Bool × Status × Nat)} (m : List (Bool × Status × Nat)) (k : Unit → Answer) (h : firstFail l = none) :
    checked (l ++ m) k = checked m k := by
  simp only [checked, firstFail_append m h]

/-! ### Updates of one port, group, queue or stream -/

section Updates

variable {g : Fin 5} {q : Fin 12} {k : Fin 32}

theorem modPort_congr {f f' : Port → Port} (h : f s.aud.ports[n] = f' s.aud.ports[n]) : s.modPort n f = s.modPort n f' := by
  simp only [State.modPort, upd_congr h]

theorem modQueue_congr {f f' : Queue → Queue} (h : f s.aud.queues[q] = f' s.aud.queues[q]) : s.modQueue q f = s.modQueue q f' := by
  simp only [State.modQueue, upd_congr h]

theorem modStream_congr {f f' : Stream → Stream} (h : f s.aud.streams[k] = f' s.aud.streams[k]) : s.modStream k f = s.modStream k f' := by
  simp only [State.modStream, upd_congr h]

theorem modQueue_modQueue (s : State) (q : Fin 12) (f f' : Queue → Queue) :
    (s.modQueue q f).modQueue q f' = s.modQueue q fun x => f' (f x) := by
  simp only [State.modQueue, upd_upd]

theorem modGroup_modGroup (s : State) (g : Fin 5) (f f' : Group → Group) :
    (s.modGroup g f).modGroup g f' = s.modGroup g fun x => f' (f x) := by
  simp only [State.modGroup, upd_upd]

end Updates

/-! ### AUD_PORT (R274, R276, R297) -/

section Port

/-- The parameters of AUD_PORT up to CLKSRC and the reserved bytes are in range. -/
structure PortTarget (s : State) (c : CmdEntry) (n : Fin 4) : Prop where
  port : c.u8 24 = n.val
  slotsLo : 1 ≤ c.u8 25
  slotsHi : c.u8 25 ≤ 16
  width : c.u8 26 ≤ 2
  format : c.u8 27 ≤ 0x1F
  even : c.u8 27 % 2 = 1 → c.u8 25 % 2 = 0
  clock : s.clkSrcOk n (c.u8 28) = true
  rsvd : c.bytes 29 3 = [0, 0, 0]

/-- What AUD_PORT sets. -/
def portSet (c : CmdEntry) (p : Port) : Port :=
  { p with
    slots := c.u8 25, width := BitVec.ofNat 2 (c.u8 26), format := byte (c.u8 27), clksrc := Fin.ofNat 4 (c.u8 28), setUp := true
    tx := BitVec.ofNat 16 (c.u16 32), rx := BitVec.ofNat 16 (c.u16 34), nextMasks := [], nextMap := [] }

/-- The masks and the state of the port and of those on its clock are checked behind them. -/
theorem bodyAudPort_eq (h : PortTarget s c n) : bodyAudPort c s =
    checked [(maskBeyond (c.u16 32) (c.u8 25), .range, 32), (maskBeyond (c.u16 34) (c.u8 25), .range, 34),
      (decide (s.aud.ports[n].st ≠ 0) ||
        (List.finRange 4).any (fun k => decide (s.aud.ports[k].clksrc = n) && decide (s.aud.ports[k].st ≠ 0)), .state, 0)] fun _ =>
      .done (s.modPort n (portSet c)) := by
  have hport : ¬3 < c.u8 24 := by have := h.port; omega
  have hslots := (within_iff _ _ _).mpr ⟨h.slotsLo, h.slotsHi⟩
  have hformat : ¬(0x1F < c.u8 27 ∨ (c.u8 27 % 2 = 1 ∧ c.u8 25 % 2 = 1)) := by have := h.format; have := h.even; omega
  have hparams : firstFail ([(decide (3 < c.u8 24), .range, 24), (!within 1 16 (c.u8 25), .range, 25), (decide (2 < c.u8 26), .range, 26),
      (decide (0x1F < c.u8 27 ∨ (c.u8 27 % 2 = 1 ∧ c.u8 25 % 2 = 1)), .range, 27), (!s.clkSrcOk n (c.u8 28), .range, 28)] ++
      rsvdBytes c 29 31) = none := by
    rw [firstFail_append _ (by simp only [firstFail, hport, hslots, h.width.not_gt, hformat, h.clock, decide_false, Bool.not_true,
      Bool.false_eq_true, if_false])]
    exact firstFail_rsvdBytes_of_bytes h.rsvd (by decide)
  simp only [bodyAudPort, cmdPort, ofNat_eq h.port]
  exact checked_append _ _ hparams

theorem bodyAudPort_range (h : PortTarget s c n) (htx : 2 ^ c.u8 25 ≤ c.u16 32) : bodyAudPort c s = .fail .range 32 := by
  rw [bodyAudPort_eq h]
  exact checked_fail _ (by simp only [firstFail, maskBeyond, htx, decide_true, if_true])

theorem bodyAudPort_runs (h : PortTarget s c n) (htx : c.u16 32 < 2 ^ c.u8 25) (hrx : c.u16 34 < 2 ^ c.u8 25)
    (hst : s.aud.ports[n].st ≠ 0) : bodyAudPort c s = .fail .state 0 := by
  rw [bodyAudPort_eq h]
  exact checked_fail _ (by simp only [firstFail, maskBeyond, htx.not_ge, hrx.not_ge, hst, ne_eq, not_false_eq_true, decide_true,
    decide_false, Bool.true_or, Bool.false_eq_true, if_false, if_true])

theorem bodyAudPort_sets (h : PortTarget s c n) (htx : c.u16 32 < 2 ^ c.u8 25) (hrx : c.u16 34 < 2 ^ c.u8 25)
    (hst : s.aud.ports[n].st = 0) (hclk : ∀ j : Fin 4, s.aud.ports[j].clksrc = n → s.aud.ports[j].st = 0) :
    bodyAudPort c s = .ok (s.modPort n (portSet c)) [] none := by
  have hgroup : ((List.finRange 4).any fun k => decide (s.aud.ports[k].clksrc = n) && decide (s.aud.ports[k].st ≠ 0)) = false := by
    rw [List.any_eq_false]
    intro k _
    simp only [Bool.and_eq_true, decide_eq_true_eq, not_and, not_not]
    exact hclk k
  rw [bodyAudPort_eq h]
  exact checked_pass _ (by simp only [firstFail, maskBeyond, htx.not_ge, hrx.not_ge, hst, hgroup, ne_eq, not_true_eq_false, decide_false,
    Bool.or_self, Bool.false_eq_true, if_false])

end Port

/-! ### AUD_SLOTMAP and AUD_MASK (R273, R282) -/

section Boundary

theorem runs_iff (p : Port) : p.runs = true ↔ p.st = 3 ∨ p.st = 4 := by
  simp [Port.runs]

theorem runs_started {p : Port} (h : p.st = 3) : p.runs = true := (runs_iff p).mpr (.inl h)

theorem runs_before {p : Port} (h : p.st.toNat < 3) : p.runs = false := by
  rw [Bool.eq_false_iff, ne_eq, runs_iff]
  rintro (heq | heq) <;> simp [heq] at h

/-- A map of slot sources of R273. -/
theorem bodyAudSlotmap_eq (h24 : c.u8 24 = n.val) (hrsvd : c.bytes 25 3 = [0, 0, 0])
    (hmap : ∀ i : Nat, i < 16 → c.u8 (28 + i) ≤ 0x47 ∨ c.u8 (28 + i) = 0x80 ∨ c.u8 (28 + i) = 0xFF) : bodyAudSlotmap c s =
      if s.aud.ports[n].runs = true then .wait (s.modPort n fun p => { p with nextMap := p.nextMap ++ [(c.id, c.bytes 28 16)] })
      else .done (s.modPort n fun p => { p with slotmap := c.bytes 28 16 }) := by
  have hport : ¬3 < c.u8 24 := by omega
  have hsources : firstFail ((List.range 16).map fun i => (!slotSourceOk (c.u8 (28 + i)), .range, 28 + i)) = none := by
    rw [firstFail_eq_none_iff]
    intro e he
    obtain ⟨i, hi, rfl⟩ := List.mem_map.mp he
    have hsource : slotSourceOk (c.u8 (28 + i)) = true := by simpa [slotSourceOk, or_assoc] using hmap i (List.mem_range.mp hi)
    rw [hsource]
    rfl
  have hparams : firstFail ((decide (3 < c.u8 24), .range, 24) :: rsvdBytes c 25 27) = none := by
    simp only [firstFail, hport, decide_false, Bool.false_eq_true, if_false]
    exact firstFail_rsvdBytes_of_bytes hrsvd (by decide)
  simp only [bodyAudSlotmap, cmdPort, ofNat_eq h24]
  exact (checked_append _ _ hparams).trans (checked_pass _ hsources)

/-- The masks are checked against SLOTS behind the other parameters. -/
theorem bodyAudMask_eq (h24 : c.u8 24 = n.val) (hlo : 1 ≤ c.u8 25) (hhi : c.u8 25 ≤ 3) (hrsvd : c.bytes 26 2 = [0, 0]) :
    bodyAudMask c s = checked [(decide (c.u8 25 % 2 = 1) && maskBeyond (c.u16 28) s.aud.ports[n].slots, .range, 28),
        (decide (c.u8 25 / 2 = 1) && maskBeyond (c.u16 30) s.aud.ports[n].slots, .range, 30)] fun _ =>
      if s.aud.ports[n].runs = true then .wait (s.modPort n fun p => { p with nextMasks := p.nextMasks ++
        [(c.id, if c.u8 25 % 2 = 1 then some (BitVec.ofNat 16 (c.u16 28)) else none,
          if c.u8 25 / 2 = 1 then some (BitVec.ofNat 16 (c.u16 30)) else none)] })
      else .done (s.modPort n fun p => { p with
        tx := (if c.u8 25 % 2 = 1 then some (BitVec.ofNat 16 (c.u16 28)) else none).getD p.tx
        rx := (if c.u8 25 / 2 = 1 then some (BitVec.ofNat 16 (c.u16 30)) else none).getD p.rx }) := by
  have hport : ¬3 < c.u8 24 := by omega
  have hparams : firstFail ([(decide (3 < c.u8 24), .range, 24), (!within 1 3 (c.u8 25), .range, 25)] ++ rsvdBytes c 26 27) = none := by
    rw [firstFail_append _ (by simp only [firstFail, hport, (within_iff _ _ _).mpr ⟨hlo, hhi⟩, decide_false, Bool.not_true,
      Bool.false_eq_true, if_false])]
    exact firstFail_rsvdBytes_of_bytes hrsvd (by decide)
  simp only [bodyAudMask, cmdPort, ofNat_eq h24]
  exact checked_append _ _ hparams

theorem bodyAudMask_range (h24 : c.u8 24 = n.val) (h25 : c.u8 25 = 1) (hrsvd : c.bytes 26 2 = [0, 0])
    (htx : 2 ^ s.aud.ports[n].slots ≤ c.u16 28) : bodyAudMask c s = .fail .range 28 := by
  rw [bodyAudMask_eq h24 (by omega) (by omega) hrsvd]
  exact checked_fail _ (by simp only [firstFail, maskBeyond, h25, htx, Nat.one_mod, decide_true, Bool.and_self, if_true])

theorem bodyAudMask_both (h24 : c.u8 24 = n.val) (h25 : c.u8 25 = 3) (hrsvd : c.bytes 26 2 = [0, 0])
    (htx : c.u16 28 < 2 ^ s.aud.ports[n].slots) (hrx : c.u16 30 < 2 ^ s.aud.ports[n].slots) : bodyAudMask c s =
      if s.aud.ports[n].runs = true then .wait (s.modPort n fun p => { p with nextMasks := p.nextMasks ++
        [(c.id, some (BitVec.ofNat 16 (c.u16 28)), some (BitVec.ofNat 16 (c.u16 30)))] })
      else .done (s.modPort n fun p => { p with tx := BitVec.ofNat 16 (c.u16 28), rx := BitVec.ofNat 16 (c.u16 30) }) := by
  rw [bodyAudMask_eq h24 (by omega) (by omega) hrsvd,
    checked_pass _ (by simp only [firstFail, maskBeyond, htx.not_ge, hrx.not_ge, decide_false, Bool.and_false, Bool.false_eq_true,
      if_false])]
  simp only [h25]
  rfl

end Boundary

/-! ### AUD_START (R297) -/

section Start

/-- What AUD_START makes of a port: a stop at the next boundary, a start, or a start that waits for its pulse. -/
def portStarted (c : CmdEntry) (p : Port) : Port :=
  if c.u8 25 = 0 then { p with stopping := true }
  else if c.u8 25 = 1 then { p with st := 2, wrong := 0, good := 0, ramp := none }
  else { p with st := 1, evl := Fin.ofNat 64 (c.u8 26), wrong := 0, good := 0, ramp := none }

/-- Whether the port is started or stopped already is checked behind the parameters. -/
theorem bodyAudStart_eq (h24 : c.u8 24 = n.val) (h25 : c.u8 25 ≤ 2) (h26 : c.u8 26 ≤ 63) (h27 : c.u8 27 = 0) : bodyAudStart c s =
    checked [(if c.u8 25 = 0 then decide (s.aud.ports[n].st = 0) || s.aud.ports[n].stopping else decide (s.aud.ports[n].st ≠ 0),
      .state, 0)] fun _ => .done (s.modPort n (portStarted c)) := by
  have hport : ¬3 < c.u8 24 := by omega
  have hparams : firstFail [(decide (3 < c.u8 24), .range, 24), (decide (2 < c.u8 25), .range, 25), (decide (63 < c.u8 26), .range, 26),
      (decide (c.u8 27 ≠ 0), .range, 27)] = none := by
    simp only [firstFail, hport, h25.not_gt, h26.not_gt, h27, ne_eq, not_true_eq_false, decide_false, Bool.false_eq_true, if_false]
  simp only [bodyAudStart, cmdPort, ofNat_eq h24]
  refine (checked_append _ _ hparams).trans (congrArg (checked _) (funext fun _ => ?_))
  obtain hop | hop | hop : c.u8 25 = 0 ∨ c.u8 25 = 1 ∨ c.u8 25 = 2 := by omega
  · simp only [hop]
    exact congrArg Answer.done (modPort_congr (by rw [portStarted, if_pos hop]))
  · simp only [hop]
    exact congrArg Answer.done (modPort_congr (by rw [portStarted, if_neg (by omega), if_pos hop]))
  · simp only [hop]
    exact congrArg Answer.done (modPort_congr (by rw [portStarted, if_neg (by omega), if_neg (by omega)]))

theorem bodyAudStart_state (h24 : c.u8 24 = n.val) (h25 : c.u8 25 ≤ 2) (h26 : c.u8 26 ≤ 63) (h27 : c.u8 27 = 0)
    (hst : if c.u8 25 = 0 then s.aud.ports[n].st = 0 else s.aud.ports[n].st ≠ 0) : bodyAudStart c s = .fail .state 0 := by
  rw [bodyAudStart_eq h24 h25 h26 h27]
  refine checked_fail _ ?_
  by_cases hop : c.u8 25 = 0
  · rw [if_pos hop] at hst
    simp only [firstFail, hop, hst, decide_true, Bool.true_or, if_true]
  · rw [if_neg hop] at hst
    simp only [firstFail, hop, hst, ne_eq, not_false_eq_true, decide_true, if_false, if_true]

theorem bodyAudStart_sets (h24 : c.u8 24 = n.val) (h25 : c.u8 25 ≤ 2) (h26 : c.u8 26 ≤ 63) (h27 : c.u8 27 = 0)
    (hst : if c.u8 25 = 0 then s.aud.ports[n].st ≠ 0 ∧ s.aud.ports[n].stopping = false else s.aud.ports[n].st = 0) :
    bodyAudStart c s = .ok (s.modPort n (portStarted c)) [] none := by
  rw [bodyAudStart_eq h24 h25 h26 h27]
  refine checked_pass _ ?_
  by_cases hop : c.u8 25 = 0
  · rw [if_pos hop] at hst
    simp only [firstFail, hop, hst, decide_false, Bool.or_self, Bool.false_eq_true, if_false, if_true]
  · rw [if_neg hop] at hst
    simp only [firstFail, hop, hst, ne_eq, not_true_eq_false, decide_false, Bool.false_eq_true, if_false]

end Start

/-! ### AUD_QUEUE (R290, R297) -/

section Queues

variable {q : Fin 12}

/-- A place for an area where the lowest place exists. -/
theorem gpPlace_some {l : List GpAlloc} {size : Nat} (h : (gpLowest l size).isSome = true) : ∃ a, gpPlace l size = some a := by
  unfold gpPlace
  split
  · exact ⟨_, rfl⟩
  · exact Option.isSome_iff_exists.mp h

theorem gpAlloc_some {l : List GpAlloc} {size : Nat} (h : (gpLowest l size).isSome = true) (o : GpOwner) :
    ∃ a m, gpAlloc l o size = some (a, m) := by
  obtain ⟨a, ha⟩ := gpPlace_some h
  exact ⟨a, _, by rw [gpAlloc, ha]; rfl⟩

/-- Where no address fits there is no place. -/
theorem gpAlloc_none {l : List GpAlloc} {size : Nat} (h : ∀ e : Nat, gpFits l e size = false) (o : GpOwner) : gpAlloc l o size = none := by
  have hlowest : gpLowest l size = none := by
    simp only [gpLowest, h, List.filter_false]
    rfl
  simp only [gpAlloc, gpPlace, h, hlowest, Bool.false_eq_true, if_false, Option.map_none]

/-- The parameters of an AUD_QUEUE that enables a queue, but for B × P. -/
structure QueueTarget (c : CmdEntry) (q : Fin 12) : Prop where
  queue : c.u8 24 = q.val
  present : isQueue q.val = true
  en : c.u8 25 = 1
  lineOut : c.u8 26 ≤ 63
  lineIn : c.u8 27 ≤ 63
  apart : c.u8 27 ≠ c.u8 26
  framesLo : 48 ≤ c.u16 28
  framesHi : c.u16 28 ≤ 480
  blocksLo : 2 ≤ c.u8 30
  blocksHi : c.u8 30 ≤ 64
  fadeLo : 1 ≤ c.u8 31
  fadeHi : c.u8 31 ≤ 40
  rsvd : c.bytes 32 4 = [0, 0, 0, 0]

/-- The queue that AUD_QUEUE sets up at an address. -/
def queueSet (c : CmdEntry) (q : Fin 12) (a : Nat) : Queue :=
  { en := true, evlOut := Fin.ofNat 64 (c.u8 26), evlIn := Fin.ofNat 64 (c.u8 27), p := c.u16 28, b := c.u8 30, fade := c.u8 31
    addr := BitVec.ofNat 32 a, st := .playing, blocks := if 8 ≤ q.val then 0 else c.u8 30 }

/-- The areas of the other owners. -/
def gpOthers (s : State) (q : Fin 12) : List GpAlloc := s.dma.gp.filter fun e : GpAlloc => decide (e.owner ≠ GpOwner.queue q)

/-- A queue that gives up its area and gets another is the queue set up there. -/
theorem queue_replaced (s : State) (q : Fin 12) (l : List GpAlloc) (x : Queue) :
    { (s.gpFree (.queue q)).modQueue q (fun _ => {}) with
      dma := { ((s.gpFree (.queue q)).modQueue q fun _ => {}).dma with gp := l } : State }.modQueue q (fun _ => x) =
      ({ s with dma := { s.dma with gp := l } }).modQueue q fun _ => x :=
  modQueue_modQueue { s with dma := { s.dma with gp := l } } q (fun _ => {}) fun _ => x

/-- What AUD_QUEUE answers by what the allocator says: the address and the stride of a block, or that there is no room. -/
def queuePlaced (s : State) (c : CmdEntry) (q : Fin 12) : Option (Nat × List GpAlloc) → Answer
  | none => .fail .nores 0
  | some (a, l) => .ok (({ s with dma := { s.dma with gp := l } }).modQueue q fun _ => queueSet c q a)
      (leBytes 4 a ++ leBytes 4 (queueStride q (c.u16 28))) none

/-- How many frames the blocks hold and whether the queue is in use are checked besides the parameters. -/
theorem bodyAudQueue_eq (h : QueueTarget c q) : bodyAudQueue c s =
    checked [(decide (c.u8 30 * c.u16 28 < 96 * c.u8 31 + c.u16 28), .range, 30), (s.queueBusy q, .state, 0)] fun _ =>
      queuePlaced s c q (gpAlloc (gpOthers s q) (.queue q) (c.u8 30 * queueStride q (c.u16 28))) := by
  have hin : ¬(63 < c.u8 27 ∨ c.u8 27 = c.u8 26) := by have := h.lineIn; have := h.apart; omega
  have hfade : ¬c.u8 31 = 0 := by have := h.fadeLo; omega
  have hrsvd : firstFail (rsvdBytes c 32 35) = none := firstFail_rsvdBytes_of_bytes h.rsvd (by decide)
  have hchecks : firstFail ([(!isQueue (c.u8 24), .range, 24), (decide (1 < c.u8 25), .range, 25),
      (decide (c.u8 25 = 1) && decide (63 < c.u8 26), .range, 26),
      (decide (c.u8 25 = 1) && decide (63 < c.u8 27 ∨ c.u8 27 = c.u8 26), .range, 27),
      (decide (c.u8 25 = 1) && !within 48 480 (c.u16 28), .range, 28),
      (decide (c.u8 25 = 1) && (!within 2 64 (c.u8 30) || decide (c.u8 30 * c.u16 28 < 96 * c.u8 31 + c.u16 28)), .range, 30),
      (decide (c.u8 25 = 1) && decide (40 < c.u8 31), .range, 31)] ++ rsvdBytes c 32 35 ++ [(s.queueBusy q, .state, 0)]) =
      firstFail [(decide (c.u8 30 * c.u16 28 < 96 * c.u8 31 + c.u16 28), .range, 30), (s.queueBusy q, .state, 0)] := by
    simp only [List.cons_append, List.nil_append, firstFail, firstFail_append _ hrsvd, h.queue, h.present, h.en, h.lineOut.not_gt, hin,
      h.fadeHi.not_gt, (within_iff _ _ _).mpr ⟨h.framesLo, h.framesHi⟩, (within_iff _ _ _).mpr ⟨h.blocksLo, h.blocksHi⟩,
      lt_irrefl, decide_true, decide_false, Bool.not_true, Bool.true_and, Bool.false_or, Bool.false_eq_true, if_false]
  have hgp : ((s.gpFree (.queue q)).modQueue q fun _ => {}).dma.gp = gpOthers s q := rfl
  simp only [bodyAudQueue, ofNat_eq h.queue, if_neg hfade, if_pos h.en, hgp]
  rw [checked, checked, hchecks]
  cases gpAlloc (gpOthers s q) (.queue q) (c.u8 30 * queueStride q (c.u16 28)) with
  | none => rfl
  | some r =>
    simp only [queue_replaced, isPlayback, decide_eq_true_eq]
    rfl

theorem bodyAudQueue_short (h : QueueTarget c q) (hroom : c.u8 30 * c.u16 28 < 96 * c.u8 31 + c.u16 28) :
    bodyAudQueue c s = .fail .range 30 := by
  rw [bodyAudQueue_eq h]
  exact checked_fail _ (by simp only [firstFail, hroom, decide_true, if_true])

theorem bodyAudQueue_busy (h : QueueTarget c q) (hroom : 96 * c.u8 31 + c.u16 28 ≤ c.u8 30 * c.u16 28) (hbusy : s.queueBusy q = true) :
    bodyAudQueue c s = .fail .state 0 := by
  rw [bodyAudQueue_eq h]
  exact checked_fail _ (by simp only [firstFail, hroom.not_gt, hbusy, decide_false, Bool.false_eq_true, if_false, if_true])

/-- A queue that is not in use and holds enough frames goes where the allocator says. -/
theorem bodyAudQueue_places (h : QueueTarget c q) (hroom : 96 * c.u8 31 + c.u16 28 ≤ c.u8 30 * c.u16 28) (hfree : s.queueBusy q = false) :
    bodyAudQueue c s = queuePlaced s c q (gpAlloc (gpOthers s q) (.queue q) (c.u8 30 * queueStride q (c.u16 28))) := by
  rw [bodyAudQueue_eq h]
  exact checked_pass _ (by simp only [firstFail, hroom.not_gt, hfree, decide_false, Bool.false_eq_true, if_false])

/-- With EN 0 the parameters behind it do not count, and the queue gives up its area. -/
theorem bodyAudQueue_frees (h24 : c.u8 24 = q.val) (hq : isQueue q.val = true) (h25 : c.u8 25 = 0) (hrsvd : c.bytes 32 4 = [0, 0, 0, 0])
    (hfree : s.queueBusy q = false) : bodyAudQueue c s = .ok ((s.gpFree (.queue q)).modQueue q fun _ => {}) [] none := by
  have hrsvd : firstFail (rsvdBytes c 32 35) = none := firstFail_rsvdBytes_of_bytes hrsvd (by decide)
  simp only [bodyAudQueue, ofNat_eq h24, h25, zero_ne_one, decide_false, Bool.false_and, if_false]
  refine checked_pass _ ?_
  simp only [h24, hq, List.cons_append, List.nil_append, firstFail, firstFail_append _ hrsvd, hfree, Nat.not_lt_zero, decide_false, Bool.not_true,
    Bool.false_eq_true, if_false]

end Queues

/-! ### AUD_PDM (R293, R297) -/

section Pdm

/-- The microphone settings of an AUD_PDM. -/
def pdmSet (c : CmdEntry) : PdmSet :=
  { mask := byte (c.u8 24), gain := byte (c.u8 25), opt := byte (c.u8 26), en := decide (c.u8 28 = 1) }

/-- Queue 4 is checked behind the parameters. -/
theorem bodyAudPdm_eq (h25 : c.u8 25 ≤ 4) (h26 : c.u8 26 / 2 % 8 = 0) (h27 : c.u8 27 = 0) (h28 : c.u8 28 ≤ 1)
    (hrsvd : c.bytes 29 3 = [0, 0, 0]) : bodyAudPdm c s =
      checked [(decide (c.u8 28 = 1) && !s.aud.queues[4].en, .state, 0)] fun _ =>
        .done { s with aud := { s.aud with pdmNext := s.aud.pdmNext ++ [pdmSet c] } } := by
  have hparams : firstFail ([(decide (4 < c.u8 25), .range, 25), (decide (c.u8 26 / 2 % 8 ≠ 0), .range, 26), (decide (c.u8 27 ≠ 0), .range, 27),
      (decide (1 < c.u8 28), .range, 28)] ++ rsvdBytes c 29 31) = none := by
    rw [firstFail_append _ (by simp only [firstFail, h25.not_gt, h26, h27, h28.not_gt, ne_eq, not_true_eq_false, decide_false,
      Bool.false_eq_true, if_false])]
    exact firstFail_rsvdBytes_of_bytes hrsvd (by decide)
  exact checked_append _ _ hparams

end Pdm

/-! ### AUD_STREAM (R272, R289) -/

section Streams

variable {k : Fin 32}

/-- Whether a context holds the stream, and the pages, are checked behind the parameters. -/
theorem bodyAudStream_eq (h24 : c.u8 24 = k.val) (hlo : 1 ≤ c.u8 25) (hhi : c.u8 25 ≤ 40) (hrsvd : c.bytes 26 2 = [0, 0]) :
    bodyAudStream c s = checked [(s.streamHeld k, .busy, 0),
        (decide (s.aud.poolFree + playoutPages s.aud.streams[k].fade < playoutPages (c.u8 25)), .nores, 0)] fun _ =>
      .done (({ s with aud := { s.aud with
        poolFree := s.aud.poolFree + playoutPages s.aud.streams[k].fade - playoutPages (c.u8 25) } }).modStream k fun t =>
          { t with fade := c.u8 25 }) := by
  have hone : namedStreams (c.u8 24) = [k] := by rw [namedStreams, if_neg (by omega), ofNat_eq h24]
  have hname : ¬(31 < c.u8 24 ∧ c.u8 24 ≠ 0xFF) := by omega
  have hparams : firstFail ([(decide (31 < c.u8 24 ∧ c.u8 24 ≠ 0xFF), .range, 24), (!within 1 40 (c.u8 25), .range, 25)] ++
      rsvdBytes c 26 27) = none := by
    rw [firstFail_append _ (by simp only [firstFail, hname, (within_iff _ _ _).mpr ⟨hlo, hhi⟩, decide_false, Bool.not_true,
      Bool.false_eq_true, if_false])]
    exact firstFail_rsvdBytes_of_bytes hrsvd (by decide)
  simp only [bodyAudStream, hone, checked, firstFail_append _ hparams, List.map_cons, List.map_nil, List.sum_cons, List.sum_nil,
    List.length_singleton, List.any_cons, List.any_nil, List.foldl_cons, List.foldl_nil, Nat.add_zero, Nat.one_mul, Bool.or_false]
  rfl

end Streams

/-- Settles O49: each command by what its body answers on the state in which its steward finds it. -/
theorem audioCommandsComplete : Obligations.AudioCommandsComplete := by
  unfold Obligations.AudioCommandsComplete
  refine ⟨?portSets, ?portFails, ?slotmap, ?mask, fun s c n h h24 h25 hrsvd htx => ?maskRange, fun s c n h h24 h25 h26 h27 hst => ?start,
    fun s c n h h24 h25 h26 h27 hst => ?startState, ?queue, ?queueFails, fun s c q h h24 hq h25 hrsvd hfree => ?queueFrees,
    fun s c h h25 h26 h27 h28 hrsvd => ⟨fun hq => ?pdm, fun hen hq => ?pdmState⟩,
    fun s c k h h24 hlo hhi hrsvd => ⟨fun hheld => ?held, fun hfree hpages => ?pages, fun hfree hpages => ?stream⟩⟩
  case portSets =>
    intro s c n h hport hlo hhi hwidth hformat heven hclk hrsvd htx hrx hst hgroup
    have htarget : PortTarget (s.taken 0x0501 c) c n := ⟨hport, hlo, hhi, hwidth, hformat, heven, hclk, hrsvd⟩
    exact congrArg Host.Outcome.next (runCmd_ok h (bodyAudPort_sets htarget htx hrx hst hgroup))
  case portFails =>
    intro s c n h hport hlo hhi hwidth hformat heven hclk hrsvd
    have htarget : PortTarget (s.taken 0x0501 c) c n := ⟨hport, hlo, hhi, hwidth, hformat, heven, hclk, hrsvd⟩
    exact ⟨fun htx => congrArg Host.Outcome.next (runCmd_fail h (bodyAudPort_range htarget htx)),
      fun htx hrx hst => congrArg Host.Outcome.next (runCmd_fail h (bodyAudPort_runs htarget htx hrx hst))⟩
  case slotmap =>
    intro s c n h h24 hrsvd hmap
    have hbody := bodyAudSlotmap_eq (s := s.taken 0x0502 c) h24 hrsvd hmap
    refine ⟨fun hst => ?_, fun hst => ?_⟩
    · exact congrArg Host.Outcome.next (runCmd_ok h (hbody.trans (if_neg (Bool.eq_false_iff.mp (runs_before hst)))))
    · exact ⟨_, congrArg Host.Outcome.next (runCmd_wait h (hbody.trans (if_pos (runs_started hst)))), rfl, rfl⟩
  case mask =>
    intro s c n h h24 h25 hrsvd htx hrx
    have hbody := bodyAudMask_both (s := s.taken 0x0503 c) h24 h25 hrsvd htx hrx
    refine ⟨fun hst => ?_, fun hst => ?_⟩
    · exact congrArg Host.Outcome.next (runCmd_ok h (hbody.trans (if_neg (Bool.eq_false_iff.mp (runs_before hst)))))
    · exact ⟨_, congrArg Host.Outcome.next (runCmd_wait h (hbody.trans (if_pos (runs_started hst)))), rfl, rfl⟩
  case maskRange => exact congrArg Host.Outcome.next (runCmd_fail h (bodyAudMask_range (s := s.taken 0x0503 c) h24 h25 hrsvd htx))
  case start => exact congrArg Host.Outcome.next (runCmd_ok h (bodyAudStart_sets (s := s.taken 0x0504 c) h24 h25 h26 h27 hst))
  case startState => exact congrArg Host.Outcome.next (runCmd_fail h (bodyAudStart_state (s := s.taken 0x0504 c) h24 h25 h26 h27 hst))
  case queue =>
    intro s c q h hq hpresent hen hout hin hapart hplo hphi hblo hbhi hflo hfhi hroom hrsvd hfree hplace
    have htarget : QueueTarget c q := ⟨hq, hpresent, hen, hout, hin, hapart, hplo, hphi, hblo, hbhi, hflo, hfhi, hrsvd⟩
    obtain ⟨a, l, hal⟩ := gpAlloc_some hplace (.queue q)
    have hbody := bodyAudQueue_places (s := s.taken 0x0505 c) htarget hroom hfree
    rw [show gpAlloc (gpOthers (s.taken 0x0505 c) q) (.queue q) (c.u8 30 * queueStride q (c.u16 28)) = some (a, l) from hal] at hbody
    exact ⟨a, l, hal, congrArg Host.Outcome.next (runCmd_ok h hbody)⟩
  case queueFails =>
    intro s c q h hq hpresent hen hout hin hapart hplo hphi hblo hbhi hflo hfhi hrsvd
    have htarget : QueueTarget c q := ⟨hq, hpresent, hen, hout, hin, hapart, hplo, hphi, hblo, hbhi, hflo, hfhi, hrsvd⟩
    refine ⟨fun hroom => ?_, fun hroom hbusy => ?_, fun hroom hfree hnone => ?_⟩
    · exact congrArg Host.Outcome.next (runCmd_fail h (bodyAudQueue_short htarget hroom))
    · exact congrArg Host.Outcome.next (runCmd_fail h (bodyAudQueue_busy (s := s.taken 0x0505 c) htarget hroom hbusy))
    · have hbody := bodyAudQueue_places (s := s.taken 0x0505 c) htarget hroom hfree
      rw [show gpAlloc (gpOthers (s.taken 0x0505 c) q) (.queue q) (c.u8 30 * queueStride q (c.u16 28)) = none from
        gpAlloc_none hnone (.queue q)] at hbody
      exact congrArg Host.Outcome.next (runCmd_fail h hbody)
  case queueFrees => exact congrArg Host.Outcome.next (runCmd_ok h (bodyAudQueue_frees (s := s.taken 0x0505 c) h24 hq h25 hrsvd hfree))
  case pdm =>
    refine congrArg Host.Outcome.next (runCmd_ok h ((bodyAudPdm_eq (s := s.taken 0x0506 c) h25 h26 h27 h28 hrsvd).trans (checked_pass _ ?_)))
    by_cases hen : c.u8 28 = 1
    · simp only [firstFail, show (s.taken 0x0506 c).aud.queues[4].en = true from hq hen, Bool.not_true, Bool.and_false, Bool.false_eq_true,
        if_false]
    · simp only [firstFail, hen, decide_false, Bool.false_and, Bool.false_eq_true, if_false]
  case pdmState =>
    refine congrArg Host.Outcome.next (runCmd_fail h ((bodyAudPdm_eq (s := s.taken 0x0506 c) h25 h26 h27 h28 hrsvd).trans
      (checked_fail _ ?_)))
    simp only [firstFail, hen, show (s.taken 0x0506 c).aud.queues[4].en = false from hq, decide_true, Bool.not_false, Bool.and_self, if_true]
  case held =>
    refine congrArg Host.Outcome.next (runCmd_fail h ((bodyAudStream_eq (s := s.taken 0x0507 c) h24 hlo hhi hrsvd).trans (checked_fail _ ?_)))
    simp only [firstFail, show (s.taken 0x0507 c).streamHeld k = true from hheld, if_true]
  case pages =>
    refine congrArg Host.Outcome.next (runCmd_fail h ((bodyAudStream_eq (s := s.taken 0x0507 c) h24 hlo hhi hrsvd).trans (checked_fail _ ?_)))
    have hneed : (s.taken 0x0507 c).aud.poolFree + playoutPages (s.taken 0x0507 c).aud.streams[k].fade < playoutPages (c.u8 25) := hpages
    simp only [firstFail, show (s.taken 0x0507 c).streamHeld k = false from hfree, hneed, decide_true, Bool.false_eq_true, if_false, if_true]
  case stream =>
    refine congrArg Host.Outcome.next (runCmd_ok h ((bodyAudStream_eq (s := s.taken 0x0507 c) h24 hlo hhi hrsvd).trans (checked_pass _ ?_)))
    have hroom : ¬(s.taken 0x0507 c).aud.poolFree + playoutPages (s.taken 0x0507 c).aud.streams[k].fade < playoutPages (c.u8 25) :=
      hpages.not_gt
    simp only [firstFail, show (s.taken 0x0507 c).streamHeld k = false from hfree, hroom, decide_false, Bool.false_eq_true, if_false]

end Sys2Proof.Proofs
end

section
/-!
SUPPORT. The external clocks of the port groups and of the microphones (R276 to R278, R296): what a measurement qualifies and what ends a
qualification, with the events and the flags that say so.
-/

namespace Sys2Proof.Proofs

open Sys2Proof Sys2Proof.Machine Sys2Proof.Laws

variable {s t : State} {g : Fin 5} {n : Fin 4} {v : Int}

/-! ### Agreement but for the audio block and what the host is told -/

theorem rest_mem_eq (h : Rest s t) : t.mem = s.mem := congrArg State.mem (a₁ := rest t) (a₂ := rest s) h

/-- Where the agreement holds up to the audio block, that block, the host and the event block are all that differs. -/
theorem rest_frame_aud {x : AudBlk} (h : Rest { s with aud := x } t) :
    t = { s with aud := t.aud, host := t.host, evt := t.evt, tlm := t.tlm } := by
  rw [rest_aud_eq h, rest_tlm_eq h]
  exact h.eq

/-! ### The ports of a group (R276) -/

section Ports

theorem mem_groupPorts : n ∈ s.groupPorts g ↔ s.aud.ports[n].clksrc.val = g.val := by
  simp only [State.groupPorts, allIx, List.mem_filter, List.mem_finRange, true_and, decide_eq_true_eq]

theorem groupPorts_nodup (s : State) (g : Fin 5) : (s.groupPorts g).Nodup := by
  rw [State.groupPorts, allIx]
  exact (List.nodup_finRange 4).filter _

/-- The ports after an update of those of a group. -/
def groupMoved (s : State) (g : Fin 5) (f : Port → Port) : Vector Port 4 := (s.groupPorts g).foldl (fun v n => upd v n f) s.aud.ports

theorem foldl_modPort (f : Port → Port) (l : List (Fin 4)) (s : State) : l.foldl (fun s n => s.modPort n f) s =
    { s with aud := { s.aud with ports := l.foldl (fun v n => upd v n f) s.aud.ports } } := by
  induction l generalizing s with
  | nil => rfl
  | cons n l ih => exact ih _

theorem groupMoved_inside (h : s.aud.ports[n].clksrc.val = g.val) (f : Port → Port) : (groupMoved s g f)[n] = f s.aud.ports[n] := by
  rw [groupMoved, foldl_upd (groupPorts_nodup s g) s.aud.ports (fun _ => f), if_pos (mem_groupPorts.mpr h)]

theorem groupMoved_outside (h : s.aud.ports[n].clksrc.val ≠ g.val) (f : Port → Port) : (groupMoved s g f)[n] = s.aud.ports[n] := by
  rw [groupMoved, foldl_upd (groupPorts_nodup s g) s.aud.ports (fun _ => f), if_neg (mt mem_groupPorts.mp h)]

end Ports

theorem rest_clockEvent (h : Rest s t) (g : Fin 5) (code cause : Nat) : Rest s (t.clockEvent g code cause) := by
  unfold State.clockEvent
  split
  · exact rest_raise h _ _ _
  · exact rest_raise h _ _ _

/-! ### A clock qualifies (R277, R278) -/

section Qualified

/-- A group whose clock qualifies after internal frame `k`. -/
def groupQualified (k : W) (x : Group) : Group :=
  { x with qualified := true, lost := false, line := silentLine k, txFifo := List.replicate 8 [], rxFifo := List.replicate 8 [] }

/-- A port whose clock qualifies: one that qualifies runs, and one that had lost it runs with its ramp. -/
def portQualified (p : Port) : Port :=
  { p with st := if p.st = 2 ∨ p.st = 4 then 3 else p.st, wrong := 0, ramp := if p.st = 4 then some 0 else p.ramp }

theorem silentLine_length (k : W) : (silentLine k).length = 480 := by
  rw [silentLine, List.length_map, List.length_range]

theorem rest_clockQualified (hg : g.val < 4) : Rest { s with aud := { s.aud with
    groups := upd s.aud.groups g (groupQualified s.aud.frame), ports := groupMoved s g portQualified } } (s.clockQualified g) := by
  have h4 : ¬g.val = 4 := by omega
  simp only [State.clockQualified, if_neg h4]
  rw [foldl_modPort]
  exact rest_clockEvent (Rest.refl _) g 1 0

theorem clockQualified_mics (s : State) :
    s.clockQualified 4 = (s.modGroup 4 (groupQualified s.aud.frame)).raise 67 1 [0xFF] := rfl

/-- 32 right frames at every started port of a group that has one. -/
theorem frames32_ports (hg : g.val < 4) : s.frames32 g = true ↔
    (∃ n : Fin 4, s.aud.ports[n].clksrc.val = g.val ∧ 2 ≤ s.aud.ports[n].st.toNat) ∧
      ∀ n : Fin 4, s.aud.ports[n].clksrc.val = g.val → 2 ≤ s.aud.ports[n].st.toNat → 32 ≤ s.aud.ports[n].good := by
  have h4 : ¬g.val = 4 := by omega
  simp only [State.frames32, if_neg h4, Bool.and_eq_true, Bool.not_eq_true', List.isEmpty_eq_false_iff_exists_mem, List.all_eq_true,
    List.mem_filter, mem_groupPorts, decide_eq_true_eq, and_imp]

/-- No started port has had its 32 right frames. -/
theorem frames32_none (hg : g.val < 4)
    (h : ∀ n : Fin 4, s.aud.ports[n].clksrc.val = g.val → s.aud.ports[n].st.toNat < 2 ∨ s.aud.ports[n].good < 32) : s.frames32 g = false := by
  rw [Bool.eq_false_iff, ne_eq, frames32_ports hg]
  rintro ⟨⟨n, hclk, hst⟩, hgood⟩
  have := hgood n hclk hst
  have := h n hclk
  omega

end Qualified

/-! ### A clock is lost (R277, R278) -/

section Lost

/-- A group without its clock. -/
def groupLost (x : Group) : Group :=
  { x with qualified := false, lost := true, slip := none, slipNow := none, line := [], txFifo := [], rxFifo := [] }

/-- A port that ran stops transmitting. -/
def portLost (p : Port) : Port := if p.st = 3 then { p with st := 4, ramp := none } else p

theorem rest_groupClockLost (hg : g.val < 4) (cause : Nat) : Rest (({ s with aud := { s.aud with
    groups := upd s.aud.groups g groupLost, ports := groupMoved s g portLost } } : State).setFlag slotAud g.val) (s.groupClockLost g cause) := by
  have h4 : ¬g.val = 4 := by omega
  simp only [State.groupClockLost, if_neg h4]
  refine rest_clockEvent ?_ g 0 cause
  have hports := foldl_modPort portLost (s.groupPorts g) (s.modGroup g groupLost)
  exact congrArg (fun u : State => rest (u.setFlag slotAud g.val)) hports

theorem groupClockLost_group (hg : g.val < 4) (cause : Nat) : (s.groupClockLost g cause).aud.groups[g] = groupLost s.aud.groups[g] := by
  rw [rest_aud_eq (rest_groupClockLost hg cause)]
  exact upd_same _ g _

theorem groupClockLost_port (hg : g.val < 4) (cause : Nat) (hclk : s.aud.ports[n].clksrc.val = g.val) (hst : s.aud.ports[n].st = 3) :
    (s.groupClockLost g cause).aud.ports[n].st = 4 := by
  rw [rest_aud_eq (rest_groupClockLost hg cause)]
  refine (congrArg Port.st (groupMoved_inside hclk portLost)).trans ?_
  rw [portLost, if_pos hst]

theorem groupClockLost_flags (hg : g.val < 4) (cause : Nat) :
    (s.groupClockLost g cause).flags[slotAud] = s.flags[slotAud] ||| BitVec.ofNat 32 (2 ^ g.val) := by
  rw [rest_flags_eq (rest_groupClockLost hg cause)]
  exact upd_same s.flags slotAud _

theorem groupClockLost_mics (s : State) (cause : Nat) :
    s.groupClockLost 4 cause = ((s.modGroup 4 groupLost).setFlag slotAud 4).raise 67 0 [0xFF] := rfl

end Lost

/-! ### AUD_CLOCK_MEASURE (R277) -/

section Measure

/-- The offset measured. -/
def groupMeasured (v : Int) (x : Group) : Group := { x with ppm := v }

theorem exec_measure_qualifies (hq : s.aud.groups[g].qualified = false) (h32 : s.frames32 g = true) (hlo : -1000 ≤ v) (hhi : v ≤ 1000) :
    exec (.audClockMeasure g v) s = .next ((s.modGroup g (groupMeasured v)).clockQualified g) := by
  have hppm : v.natAbs ≤ 1000 := by omega
  have hdue : (s.modGroup g (groupMeasured v)).frames32 g = true ∧ v.natAbs ≤ 1000 := ⟨h32, hppm⟩
  exact (if_neg (by rw [hq]; decide)).trans (if_pos hdue)

theorem exec_measure_waits (hq : s.aud.groups[g].qualified = false) (h : s.frames32 g = false ∨ 1000 < v.natAbs) :
    exec (.audClockMeasure g v) s = .next (s.modGroup g (groupMeasured v)) := by
  have hdue : ¬((s.modGroup g (groupMeasured v)).frames32 g = true ∧ v.natAbs ≤ 1000) := by
    rintro ⟨h32, hppm⟩
    obtain hno | hfar := h
    · exact Bool.false_ne_true (hno.symm.trans h32)
    · omega
  exact (if_neg (by rw [hq]; decide)).trans (if_neg hdue)

theorem exec_measure_near (hq : s.aud.groups[g].qualified = true) (hppm : v.natAbs ≤ 2000) :
    exec (.audClockMeasure g v) s = .next (s.modGroup g (groupMeasured v)) :=
  (if_pos hq).trans (if_neg hppm.not_gt)

theorem exec_measure_far (hq : s.aud.groups[g].qualified = true) (hppm : 2000 < v.natAbs) :
    exec (.audClockMeasure g v) s = .next ((s.modGroup g (groupMeasured v)).groupClockLost g 2) :=
  (if_pos hq).trans (if_pos hppm)

/-- What a measurement that qualifies the clock of a group of ports leaves. -/
theorem measure_qualifies (hg : g.val < 4) (hq : s.aud.groups[g].qualified = false) (hclk : s.aud.ports[n].clksrc.val = g.val)
    (hst : 2 ≤ s.aud.ports[n].st.toNat)
    (hgood : ∀ j : Fin 4, s.aud.ports[j].clksrc.val = g.val → 2 ≤ s.aud.ports[j].st.toNat → 32 ≤ s.aud.ports[j].good)
    (hlo : -1000 ≤ v) (hhi : v ≤ 1000) : ∃ u : State, exec (.audClockMeasure g v) s = .next u ∧
      u.aud.groups = upd s.aud.groups g (fun x => groupQualified s.aud.frame (groupMeasured v x)) ∧
      u.aud.ports = groupMoved s g portQualified ∧ u = { s with aud := u.aud, host := u.host, evt := u.evt, tlm := u.tlm } := by
  have h32 := (frames32_ports hg).mpr ⟨⟨n, hclk, hst⟩, hgood⟩
  have hrest := rest_clockQualified (s := s.modGroup g (groupMeasured v)) hg
  have haud := rest_aud_eq hrest
  refine ⟨_, exec_measure_qualifies hq h32 hlo hhi, ?_, congrArg AudBlk.ports haud, rest_frame_aud (s := s) hrest⟩
  exact (congrArg AudBlk.groups haud).trans (upd_upd _ g _ _)

end Measure

/-! ### AUD_CLOCK_LOST (R277) -/

section ClockLost

theorem exec_clockLost_quiet (hq : s.aud.groups[g].qualified = true) (h : 2 ≤ s.aud.groups[g].quiet) :
    exec (.audClockLost g 0) s = .next (s.groupClockLost g 0) :=
  if_pos ⟨hq, .inl ⟨rfl, h⟩⟩

theorem exec_clockLost_wrong (hq : s.aud.groups[g].qualified = true) (hg : g.val < 4) (hclk : s.aud.ports[n].clksrc.val = g.val)
    (h : 3 ≤ s.aud.ports[n].wrong) : exec (.audClockLost g 1) s = .next (s.groupClockLost g 1) :=
  if_pos ⟨hq, .inr ⟨rfl, hg, List.any_eq_true.mpr ⟨n, mem_groupPorts.mpr hclk, decide_eq_true h⟩⟩⟩

theorem exec_clockLost_heard (h : s.aud.groups[g].quiet < 2) : exec (.audClockLost g 0) s = .next s := by
  refine if_neg ?_
  rintro ⟨-, ⟨-, hquiet⟩ | ⟨hcause, -⟩⟩
  · omega
  · exact absurd hcause (by decide)

theorem exec_clockLost_right (h : ∀ j : Fin 4, s.aud.ports[j].clksrc.val = g.val → s.aud.ports[j].wrong < 3) :
    exec (.audClockLost g 1) s = .next s := by
  refine if_neg ?_
  rintro ⟨-, ⟨hcause, -⟩ | ⟨-, -, hany⟩⟩
  · exact absurd hcause (by decide)
  · obtain ⟨j, hj, hwrong⟩ := List.any_eq_true.mp hany
    exact (h j (mem_groupPorts.mp hj)).not_ge (of_decide_eq_true hwrong)

theorem exec_clockLost_unqualified (h : s.aud.groups[g].qualified = false) (j : Fin 2) : exec (.audClockLost g j) s = .next s :=
  if_neg fun hall => Bool.false_ne_true (h.symm.trans hall.1)

end ClockLost

end Sys2Proof.Proofs
end

section
/-!
SUPPORT. Underruns, overruns, returns and the ends of ramps (R285, R286, R288, R298), pulses (R291, R297) and stuck microphones (R295, R296).
-/

namespace Sys2Proof.Proofs

open Sys2Proof Sys2Proof.Machine Sys2Proof.Laws

variable {s : State} {k : Fin 32} {q : Fin 12} {n : Fin 4} {m : Fin 8}

/-! ### Streams (R285, R288) -/

section Streams

/-- A fade-out that starts from the present gain of a stream. -/
def streamFading (x : Stream) : Stream :=
  { x with st := .fadingOut, silenced := 0, fadePos := if x.st = .rampingUp then 48 * x.fade - x.fadePos else 0 }

theorem fadeOut_audible {x : Stream} (h : x.st = .playing ∨ x.st = .rampingUp) : x.fadeOut = streamFading x := by
  obtain hst | hst := h
  · simp only [Stream.fadeOut, streamFading, hst, reduceCtorEq, if_false]
  · simp only [Stream.fadeOut, streamFading, hst, if_true]

theorem exec_streamUnderrun_due (h : s.aud.streams[k].st = .playing ∨ s.aud.streams[k].st = .rampingUp)
    (hlow : s.aud.streams[k].frames.length ≤ 48 * s.aud.streams[k].fade) : exec (.streamUnderrun k) s =
      .next (((s.modStream k streamFading).bump (0xB040 + 4 * k.val) 1).fadeEvent k.val 0 0) := by
  have hfade : s.modStream k Stream.fadeOut = s.modStream k streamFading := modStream_congr (fadeOut_audible h)
  rw [← hfade]
  exact if_pos ⟨h, hlow⟩

theorem exec_streamUnderrun_none (h : 48 * s.aud.streams[k].fade < s.aud.streams[k].frames.length ∨ s.aud.streams[k].st = .silent) :
    exec (.streamUnderrun k) s = .next s := by
  refine if_neg ?_
  rintro ⟨hst, hlow⟩
  obtain hfull | hsilent := h
  · omega
  · rw [hsilent] at hst
    exact absurd hst (by decide)

theorem exec_streamResume_due (h : s.aud.streams[k].st = .silent ∨ (s.aud.streams[k].st = .fadingOut ∧ s.aud.streams[k].closing = false))
    (hfull : 48 * (s.aud.streams[k].fade + 2) ≤ s.aud.streams[k].frames.length) : exec (.streamResume k) s =
      .next (s.modStream k fun t => { t with st := .rampingUp, fadePos := rampFrom t.st t.fadePos (48 * t.fade) }) :=
  if_pos ⟨h, hfull⟩

theorem exec_streamResume_none (h : s.aud.streams[k].frames.length < 48 * (s.aud.streams[k].fade + 2) ∨
    (s.aud.streams[k].st = .fadingOut ∧ s.aud.streams[k].closing = true)) : exec (.streamResume k) s = .next s := by
  refine if_neg ?_
  rintro ⟨hst, hfull⟩
  obtain hlow | ⟨hfade, hclosing⟩ := h
  · omega
  · rw [hfade, hclosing] at hst
    exact absurd hst (by decide)

end Streams

/-! ### Queues (R286, R288) -/

section Queues

theorem exec_queueXrun_due (hen : s.aud.queues[q].en = true) (hst : s.aud.queues[q].st = .playing ∨ s.aud.queues[q].st = .rampingUp)
    (hlow : s.queueFrames q ≤ 48 * s.aud.queues[q].fade) (hblocks : s.aud.queues[q].blocks ≠ 0) : exec (.queueXrun q) s =
      .next (((s.modQueue q Queue.fadeOut).bump (0xB0C0 + 4 * q.val) 1).fadeEvent (0x40 + q.val) (if 8 ≤ q.val then 0 else 1) 0) := by
  have hcode : b01 (!isPlayback q) = if 8 ≤ q.val then 0 else 1 := by
    by_cases hq : 8 ≤ q.val <;> simp [b01, isPlayback, hq]
  rw [← hcode]
  exact if_pos ⟨hen, hst, hlow, fun _ => hblocks⟩

theorem exec_queueXrun_none (h : s.aud.queues[q].en = false ∨ 48 * s.aud.queues[q].fade < s.queueFrames q) :
    exec (.queueXrun q) s = .next s := by
  refine if_neg ?_
  rintro ⟨hen, -, hlow, -⟩
  obtain hoff | hfull := h
  · exact Bool.false_ne_true (hoff.symm.trans hen)
  · omega

/-- A queue that ramps up; a capture queue that has discarded frames marks the block in use with GAP. -/
def queueResumed (q : Fin 12) (x : Queue) : Queue :=
  { x with
    st := .rampingUp, fadePos := rampFrom x.st x.fadePos (48 * x.fade)
    flags := if q.val < 8 ∧ x.discarded ≠ 0 then x.flags ||| 64 else x.flags }

theorem exec_queueResume_due (hen : s.aud.queues[q].en = true) (hst : s.aud.queues[q].st = .silent ∨ s.aud.queues[q].st = .fadingOut)
    (hfull : s.aud.queues[q].b * s.aud.queues[q].p ≤ 2 * s.queueFrames q) :
    exec (.queueResume q) s = .next (s.modQueue q (queueResumed q)) := by
  have hcapture : isPlayback q = false ↔ q.val < 8 := by simp [isPlayback]
  refine (if_pos ⟨hen, hst, hfull⟩).trans (congrArg Host.Outcome.next ?_)
  by_cases hgap : q.val < 8 ∧ s.aud.queues[q].discarded ≠ 0
  · rw [if_pos (by rwa [hcapture]), State.blockFlag, modQueue_modQueue]
    exact modQueue_congr (by rw [queueResumed, if_pos hgap]; rfl)
  · rw [if_neg (by rwa [hcapture])]
    exact modQueue_congr (by rw [queueResumed, if_neg hgap])

theorem exec_queueResume_none (h : 2 * s.queueFrames q < s.aud.queues[q].b * s.aud.queues[q].p) : exec (.queueResume q) s = .next s :=
  if_neg fun hall => by have := hall.2.2; omega

end Queues

/-! ### The ends of ramps (R285, R286, R298) -/

section Ramps

theorem exec_fadeRampEnd_stream (s : State) (k : Fin 32) : exec (.fadeRampEnd (byte k.val)) s = .next (s.streamRamped k) := by
  have hname : ix 32 (byte k.val).toNat = some k := ix_of_eq (byte_toNat (by omega))
  change execFadeRampEnd _ _ = _
  simp only [execFadeRampEnd, hname]

theorem exec_fadeRampEnd_queue (s : State) (q : Fin 12) : exec (.fadeRampEnd (byte (0x40 + q.val))) s = .next (s.queueRamped q) := by
  have hbyte : (byte (0x40 + q.val)).toNat = 0x40 + q.val := byte_toNat (by omega)
  have hstream : ix 32 (0x40 + q.val) = none := ix_none (by omega)
  have hqueue : ix 12 (0x40 + q.val - 0x40) = some q := ix_of_eq (Nat.add_sub_cancel_left _ _)
  have hlow : ¬0x40 + q.val < 0x40 := by omega
  change execFadeRampEnd _ _ = _
  simp only [execFadeRampEnd, hbyte, hstream, hqueue, if_neg hlow]

theorem streamRamped_none (h : s.aud.streams[k].st ≠ .rampingUp) : s.streamRamped k = s := if_neg fun hall => h hall.1

end Ramps

/-! ### Microphones (R295, R296) -/

section Mics

theorem getLsbD_twoPow (m j : Fin 8) : (BitVec.ofNat 8 (2 ^ m.val)).getLsbD j.val = decide (m = j) := by
  simp only [BitVec.getLsbD_ofNat, Nat.testBit_two_pow, j.isLt, decide_true, Bool.true_and, Fin.ext_iff]

/-- Clearing one bit of a mask of microphones. -/
theorem getLsbD_cleared (b : Byte) (m j : Fin 8) : (b &&& ~~~BitVec.ofNat 8 (2 ^ m.val)).getLsbD j.val =
    (b.getLsbD j.val && !decide (m = j)) := by
  rw [BitVec.getLsbD_and, BitVec.getLsbD_not, getLsbD_twoPow, decide_eq_true j.isLt, Bool.true_and]

theorem exec_pdmStuck_due (hen : s.aud.pdmEn.getLsbD m.val = true) (hstuck : s.aud.pdmStuck.getLsbD m.val = false)
    (hrun : 3072 ≤ s.aud.mics[m].run) : exec (.pdmStuck m) s =
      .next ((({ s with aud := { s.aud with pdmStuck := s.aud.pdmStuck ||| BitVec.ofNat 8 (2 ^ m.val), micFall := s.aud.micFall.set m.val 0 } }
        : State).setFlag slotAud (24 + m.val)).raise 67 2 [byte m.val]) :=
  if_pos ⟨hen, hstuck, hrun⟩

theorem exec_pdmStuck_none (h : s.aud.pdmEn.getLsbD m.val = false ∨ s.aud.pdmStuck.getLsbD m.val = true ∨ s.aud.mics[m].run < 3072) :
    exec (.pdmStuck m) s = .next s := by
  refine if_neg ?_
  rintro ⟨hen, hstuck, hrun⟩
  obtain hoff | hset | hmoves := h
  · exact Bool.false_ne_true (hoff.symm.trans hen)
  · exact Bool.false_ne_true (hstuck.symm.trans hset)
  · omega

/-- The audio block once the data of a microphone move again. -/
def micReturned (m : Fin 8) (a : AudBlk) : AudBlk :=
  { a with pdmStuck := a.pdmStuck &&& ~~~(BitVec.ofNat 8 (2 ^ m.val)), micAge := a.micAge.set m.val 0 }

theorem exec_pdmDataReturn_due (hstuck : s.aud.pdmStuck.getLsbD m.val = true) (hrun : s.aud.mics[m].run < 3072) :
    exec (.pdmDataReturn m) s = .next (({ s with aud := micReturned m s.aud } : State).raise 67 3 [byte m.val]) :=
  if_pos ⟨hstuck, hrun⟩

theorem exec_pdmDataReturn_none (h : s.aud.pdmStuck.getLsbD m.val = false ∨ 3072 ≤ s.aud.mics[m].run) :
    exec (.pdmDataReturn m) s = .next s := by
  refine if_neg ?_
  rintro ⟨hstuck, hrun⟩
  obtain hclear | hstays := h
  · exact Bool.false_ne_true (hclear.symm.trans hstuck)
  · omega

end Mics

/-- Settles O51: clocks by what a measurement or a loss makes of their group, fades by the thresholds of their stream or queue, and pulses
and microphones by their state. -/
theorem audioClocksFadesAndPulses : Obligations.AudioClocksFadesAndPulses := by
  unfold Obligations.AudioClocksFadesAndPulses
  refine ⟨?qualifies, ?micsQualify, ?waits, ?measured, ?lost, ?micsLost, fun s g h => exec_clockLost_heard h,
    fun s g h => exec_clockLost_right h, fun s g j h => exec_clockLost_unqualified h j, ?underrun,
    fun s k h => exec_streamUnderrun_none h, ?fromSilence, ?fromFade, fun s k h => exec_streamResume_none h, ?xrunPlaying, ?xrunRamping,
    fun s q h => exec_queueXrun_none h, ?queueFromSilence, ?queueFromFade, fun s q h => exec_queueResume_none h, ?streamRamp, ?queueRamp,
    ?noRamp, fun s q hen => ?evlIn, fun s q hen => ?evlOff, fun s n => ?pulse,
    fun s m hen hstuck hrun => exec_pdmStuck_due hen hstuck hrun, fun s m h => exec_pdmStuck_none h, ?dataReturn,
    fun s m h => exec_pdmDataReturn_none h⟩
  case qualifies =>
    intro s g v n hg hq hclk hst hgood hlo hhi
    obtain ⟨u, hexec, hgroups, hports, hframe⟩ := measure_qualifies hg hq hclk hst hgood hlo hhi
    have hgroup : u.aud.groups[g] = groupQualified s.aud.frame (groupMeasured v s.aud.groups[g]) := by rw [hgroups]; exact upd_same _ g _
    have hport : u.aud.ports[n] = portQualified s.aud.ports[n] := by rw [hports]; exact groupMoved_inside hclk _
    refine ⟨u, hexec, by rw [hgroup]; rfl, by rw [hgroup]; rfl, by rw [hgroup]; rfl, by rw [hgroup]; exact silentLine_length _,
      fun h => by rw [hport]; exact if_pos h, fun h => by rw [hport]; exact if_pos h, fun j hj => ?_, fun j hj => ?_, hframe⟩
    · rw [hgroups]
      exact upd_other _ g j _ hj.symm
    · rw [hports]
      exact groupMoved_outside hj _
  case micsQualify =>
    intro s v hq hgood hlo hhi
    rw [exec_measure_qualifies hq (decide_eq_true hgood) hlo hhi, clockQualified_mics, modGroup_modGroup]
    rfl
  case waits =>
    intro s g v hq h
    refine exec_measure_waits hq ?_
    obtain hlow | hhigh | ⟨hg, hgood⟩ | ⟨hg, hgood⟩ := h
    · exact .inr (by omega)
    · exact .inr (by omega)
    · obtain rfl : g = 4 := Fin.ext hg
      exact .inl (decide_eq_false hgood.not_ge)
    · exact .inl (frames32_none hg hgood)
  case measured =>
    intro s g v n hq hg hclk hst
    refine ⟨fun hppm => exec_measure_near hq hppm, fun hppm => ⟨_, exec_measure_far hq hppm, ?_⟩⟩
    have hgroup := groupClockLost_group (s := s.modGroup g (groupMeasured v)) hg 2
    have hrest := rest_groupClockLost (s := s.modGroup g (groupMeasured v)) hg 2
    refine ⟨by rw [hgroup]; rfl, by rw [hgroup]; rfl, by rw [hgroup]; rfl, by rw [hgroup]; rfl,
      groupClockLost_port (s := s.modGroup g (groupMeasured v)) hg 2 hclk hst, groupClockLost_flags hg 2,
      (rest_svc_eq hrest).trans rfl, (rest_mem_eq hrest).trans rfl⟩
  case lost =>
    intro s g n hq hclk hst hg
    refine ⟨fun hquiet => ⟨_, exec_clockLost_quiet hq hquiet, ?_, groupClockLost_port hg 0 hclk hst⟩,
      fun hwrong => ⟨_, exec_clockLost_wrong hq hg hclk hwrong, ?_, groupClockLost_port hg 1 hclk hst⟩⟩
    · rw [groupClockLost_group hg 0]
      rfl
    · rw [groupClockLost_group hg 1]
      rfl
  case micsLost =>
    intro s hq hquiet
    rw [exec_clockLost_quiet hq hquiet, groupClockLost_mics]
    rfl
  case underrun =>
    intro s k hst hlow
    exact exec_streamUnderrun_due hst hlow
  case fromSilence =>
    intro s k hst hfull
    refine (exec_streamResume_due (.inl hst) hfull).trans (congrArg Host.Outcome.next (modStream_congr ?_))
    simp only [hst, rampFrom, reduceCtorEq, if_false]
  case fromFade =>
    intro s k hst hclosing hfull
    refine (exec_streamResume_due (.inr ⟨hst, hclosing⟩) hfull).trans (congrArg Host.Outcome.next (modStream_congr ?_))
    simp only [hst, rampFrom, if_true]
  case xrunPlaying =>
    intro s q hen hst hlow hblocks
    have hfade : s.modQueue q Queue.fadeOut = s.modQueue q fun x => { x with st := .fadingOut, silenced := 0, fadePos := 0 } :=
      modQueue_congr (by simp only [Queue.fadeOut, hst, reduceCtorEq, if_false])
    rw [exec_queueXrun_due hen (.inl hst) hlow hblocks, hfade]
    rfl
  case xrunRamping =>
    intro s q hen hst hlow hblocks
    have hfade : s.modQueue q Queue.fadeOut =
        s.modQueue q fun x => { x with st := .fadingOut, silenced := 0, fadePos := 48 * x.fade - x.fadePos } :=
      modQueue_congr (by simp only [Queue.fadeOut, hst, if_true])
    rw [exec_queueXrun_due hen (.inr hst) hlow hblocks, hfade]
    rfl
  case queueFromSilence =>
    intro s q hen hst hfull
    refine (exec_queueResume_due hen (.inl hst) hfull).trans (congrArg Host.Outcome.next (modQueue_congr ?_))
    simp only [queueResumed, hst, rampFrom, reduceCtorEq, if_false]
  case queueFromFade =>
    intro s q hen hst hfull hkept
    refine (exec_queueResume_due hen (.inr hst) hfull).trans (congrArg Host.Outcome.next (modQueue_congr ?_))
    simp only [queueResumed, hst, hkept, rampFrom, ne_eq, not_true_eq_false, and_false, if_true, if_false]
  case streamRamp =>
    intro s k hst hpos
    rw [exec_fadeRampEnd_stream]
    exact congrArg Host.Outcome.next (if_pos ⟨hst, hpos⟩)
  case queueRamp =>
    intro s q hst hpos
    rw [exec_fadeRampEnd_queue]
    exact congrArg Host.Outcome.next (if_pos ⟨hst, hpos⟩)
  case noRamp =>
    intro s k hst
    rw [exec_fadeRampEnd_stream, streamRamped_none hst]
  case evlIn => exact congrArg Host.Outcome.next (if_pos hen)
  case evlOff => exact congrArg Host.Outcome.next (if_neg (Bool.eq_false_iff.mp hen))
  case pulse => rfl
  case dataReturn =>
    intro s m hstuck hrun
    have hrest : Rest { s with aud := micReturned m s.aud } (({ s with aud := micReturned m s.aud } : State).raise 67 3 [byte m.val]) :=
      rest_raise (Rest.refl _) _ _ _
    have haud := rest_aud_eq hrest
    refine ⟨_, exec_pdmDataReturn_due hstuck hrun, ?_, fun j hj => ?_, ?_, (rest_svc_eq hrest).trans rfl,
      rest_frame_aud (s := s) hrest⟩
    · rw [haud]
      exact (getLsbD_cleared _ m m).trans (by rw [decide_eq_true rfl, Bool.not_true, Bool.and_false])
    · rw [haud]
      exact (getLsbD_cleared _ m j).trans (by rw [decide_eq_false hj.symm, Bool.not_false, Bool.and_true])
    · rw [haud]
      exact Vector.getElem_set_self m.isLt

end Sys2Proof.Proofs
end

section
/-!
SUPPORT. Frames into capture queues (R283, R286, R290, R291): what they change while no port waits for a pulse, and what one frame makes of a
queue that plays and of one that is not enabled.
-/

namespace Sys2Proof.Proofs

open Sys2Proof Sys2Proof.Machine Sys2Proof.Laws

variable {s t u : State} {q : Fin 12}

/-! ### Entries of the audio tables -/

theorem modPort_same (s : State) (n : Fin 4) (f : Port → Port) : (s.modPort n f).aud.ports[n] = f s.aud.ports[n] := upd_same _ n f

theorem modPort_other (s : State) {n m : Fin 4} (h : n ≠ m) (f : Port → Port) : (s.modPort n f).aud.ports[m] = s.aud.ports[m] :=
  upd_other _ n m f h

theorem modGroup_same (s : State) (g : Fin 5) (f : Group → Group) : (s.modGroup g f).aud.groups[g] = f s.aud.groups[g] := upd_same _ g f

theorem modGroup_other (s : State) {g k : Fin 5} (h : g ≠ k) (f : Group → Group) : (s.modGroup g f).aud.groups[k] = s.aud.groups[k] :=
  upd_other _ g k f h

theorem modQueue_same (s : State) (q : Fin 12) (f : Queue → Queue) : (s.modQueue q f).aud.queues[q] = f s.aud.queues[q] := upd_same _ q f

theorem modQueue_other (s : State) {q r : Fin 12} (h : q ≠ r) (f : Queue → Queue) : (s.modQueue q f).aud.queues[r] = s.aud.queues[r] :=
  upd_other _ q r f h

/-! ### Agreement but for SRAM, DMA, counters and the audio queues -/

section QueuesOnly

/-- Two states differ at most in SRAM, in the DMA block, in counters and in the audio queues, each of which stays enabled or not. -/
structure QueuesOnly (s t : State) : Prop where
  rest : t = { s with mem := t.mem, dma := t.dma, tlm := t.tlm, aud := { s.aud with queues := t.aud.queues } }
  en : ∀ q : Fin 12, t.aud.queues[q].en = s.aud.queues[q].en

theorem QueuesOnly.refl (s : State) : QueuesOnly s s := ⟨rfl, fun _ => rfl⟩

theorem QueuesOnly.trans (h : QueuesOnly s t) (k : QueuesOnly t u) : QueuesOnly s u := by
  refine ⟨?_, fun q => (k.en q).trans (h.en q)⟩
  have hrest := k.rest
  rw [h.rest] at hrest
  exact hrest

theorem QueuesOnly.ports (h : QueuesOnly s t) : t.aud.ports = s.aud.ports := by rw [h.rest]
theorem QueuesOnly.groups (h : QueuesOnly s t) : t.aud.groups = s.aud.groups := by rw [h.rest]
theorem QueuesOnly.txOut (h : QueuesOnly s t) : t.aud.txOut = s.aud.txOut := by rw [h.rest]

theorem queuesOnly_store (s : State) (a : Nat) (bs : List Byte) : QueuesOnly s (s.store a bs) := ⟨rfl, fun _ => rfl⟩
theorem queuesOnly_bump (s : State) (o n : Nat) : QueuesOnly s (s.bump o n) := ⟨rfl, fun _ => rfl⟩
theorem queuesOnly_modCh (s : State) (n : Fin 16) (f : DmaCh → DmaCh) : QueuesOnly s (s.modCh n f) := ⟨rfl, fun _ => rfl⟩

theorem queuesOnly_modQueue (s : State) (q : Fin 12) {f : Queue → Queue} (hf : ∀ x, (f x).en = x.en) : QueuesOnly s (s.modQueue q f) := by
  refine ⟨rfl, fun j => ?_⟩
  by_cases hj : q = j
  · subst hj
    rw [modQueue_same, hf]
  · rw [modQueue_other s hj]

theorem queuesOnly_blockFlag (s : State) (q : Fin 12) (b : Nat) : QueuesOnly s (s.blockFlag q b) := queuesOnly_modQueue s q fun _ => rfl

theorem QueuesOnly.ite {p : Prop} [Decidable p] (ht : QueuesOnly s t) (hu : QueuesOnly s u) : QueuesOnly s (if p then t else u) := by
  split
  · exact ht
  · exact hu

/-- A fold of steps that respect the agreement. -/
theorem queuesOnly_foldl {α : Type} {f : State → α → State} (hf : ∀ t x, QueuesOnly t (f t x)) (l : List α) (s : State) :
    QueuesOnly s (l.foldl f s) := by
  induction l generalizing s with
  | nil => exact QueuesOnly.refl s
  | cons x l ih => exact (hf s x).trans (ih _)

end QueuesOnly

/-! ### Pulses (R8, R291, R370) -/

section Pulses

/-- No port waits for its pulse. -/
def NoneWaits (s : State) : Prop := ∀ n : Fin 4, s.aud.ports[n].st ≠ 1

theorem NoneWaits.congr (h : NoneWaits s) (k : QueuesOnly s t) : NoneWaits t := by
  unfold NoneWaits
  rw [k.ports]
  exact h

theorem queuesOnly_dmaTryStart (s : State) (n : Fin 16) : QueuesOnly s (s.dmaTryStart n) := by
  unfold State.dmaTryStart
  exact QueuesOnly.ite ⟨rfl, fun _ => rfl⟩ (QueuesOnly.refl s)

theorem queuesOnly_dmaPulse (s : State) (l : Fin 64) : QueuesOnly s (s.dmaPulse l) := by
  unfold State.dmaPulse State.dmaArb
  refine QueuesOnly.trans ?_ (queuesOnly_foldl queuesOnly_dmaTryStart _ _)
  exact queuesOnly_foldl (fun t n => QueuesOnly.ite (queuesOnly_modCh t n _)
    ((queuesOnly_modCh t n _).trans (queuesOnly_bump _ _ 1))) _ s

theorem queuesOnly_queueEvlIn (s : State) (q : Fin 12) : QueuesOnly s (s.queueEvlIn q) := by
  unfold State.queueEvlIn
  exact QueuesOnly.ite (QueuesOnly.ite (queuesOnly_modQueue s q fun _ => rfl) (queuesOnly_bump s _ 1)) (QueuesOnly.refl s)

theorem queuesOnly_evlPulse (h : NoneWaits s) (l : Fin 64) : QueuesOnly s (s.evlPulse l) := by
  have hqueues := (queuesOnly_dmaPulse s l).trans (queuesOnly_foldl queuesOnly_queueEvlIn
    (allIx fun q : Fin 12 => (s.dmaPulse l).aud.queues[q].en && decide ((s.dmaPulse l).aud.queues[q].evlIn = l)) _)
  have hnone := h.congr hqueues
  unfold State.evlPulse
  rw [List.foldl_fixed' fun p => if_neg (hnone p)]
  exact hqueues

end Pulses

/-! ### One frame into a queue (R283, R286, R290) -/

section Capture

/-- The block in use with its header, and the queue past it. -/
def blockWritten (s : State) (q : Fin 12) : State :=
  (s.store (s.aud.queues[q].blockAddr q 0) s.aud.queues[q].header).modQueue q fun x => { x with
    seq := x.seq + 1, pos := 0, cur := (x.cur + 1) % x.b, blocks := x.blocks - 1, flags := 0, discarded := 0 }

theorem closeBlock_eq (s : State) (q : Fin 12) : s.closeBlock q = (blockWritten s q).evlPulse s.aud.queues[q].evlOut := rfl

theorem queuesOnly_closeBlock (h : NoneWaits s) (q : Fin 12) : QueuesOnly s (s.closeBlock q) := by
  have hblock : QueuesOnly s (blockWritten s q) := (queuesOnly_store s _ _).trans (queuesOnly_modQueue _ q fun _ => rfl)
  rw [closeBlock_eq]
  exact hblock.trans (queuesOnly_evlPulse (h.congr hblock) _)

theorem queuesOnly_shortBlock (h : NoneWaits s) (q : Fin 12) : QueuesOnly s (s.shortBlock q) := by
  have hflag := queuesOnly_blockFlag s q 0
  exact QueuesOnly.ite (hflag.trans (queuesOnly_closeBlock (h.congr hflag) q)) (QueuesOnly.refl s)

/-- A frame of another mask has closed the block in use. -/
def maskSettled (s : State) (q : Fin 12) (mask : BitVec 16) : State := if mask ≠ s.aud.queues[q].mask then s.shortBlock q else s

/-- The block in use carries a flag while a fade-out or a ramp goes on. -/
def fadeFlagged (s : State) (q : Fin 12) : State :=
  if s.aud.queues[q].st = .fadingOut then s.blockFlag q 1 else if s.aud.queues[q].st = .rampingUp then s.blockFlag q 2 else s

/-- A word under the fade of its queue. -/
def fadedWord (x : Queue) (w : W) : W :=
  match x.st with
  | .fadingOut => fadeOutWord x.fadePos (48 * x.fade) w
  | .rampingUp => rampWord x.fadePos (48 * x.fade) w
  | _ => w

/-- A queue one frame further into its block. -/
def framePassed (first : Prop) [Decidable first] (k : W) (mask : BitVec 16) (x : Queue) : Queue :=
  { x.fadeStep with pos := x.pos + 1, mask := if first then mask else x.mask, frame0 := if first then k else x.frame0 }

/-- The words of a frame in the block in use, and the queue past it. -/
def frameTaken (s : State) (q : Fin 12) (mask : BitVec 16) (ws : List W) : State :=
  let x := s.aud.queues[q]
  let a := x.blockAddr q 0 + 16 + 4 * ws.length * x.pos
  ((fadeFlagged s q).store a ((ws.map (fadedWord x)).flatMap fun w => leBytes 4 w.toNat)).modQueue q
    (framePassed (x.pos = 0) (fadeFlagged s q).aud.frame mask)

/-- What a frame makes of a queue once its mask is settled. -/
def frameStep (s : State) (q : Fin 12) (mask : BitVec 16) (ws : List W) : State :=
  if s.aud.queues[q].en = false then s
  else if s.aud.queues[q].st = .silent ∨ s.aud.queues[q].blocks = 0 then s.discardFrame q
  else if s.aud.queues[q].p ≤ s.aud.queues[q].pos + 1 then (frameTaken s q mask ws).closeBlock q
  else frameTaken s q mask ws

theorem capFrame_eq (s : State) (q : Fin 12) (mask : BitVec 16) (ws : List W) :
    s.capFrame q mask ws = frameStep (maskSettled s q mask) q mask ws := rfl

theorem queuesOnly_discardFrame (s : State) (q : Fin 12) : QueuesOnly s (s.discardFrame q) := by
  refine QueuesOnly.trans (queuesOnly_modQueue s q ?_) (queuesOnly_bump _ _ 1)
  exact fun _ => rfl

theorem queuesOnly_fadeFlagged (s : State) (q : Fin 12) : QueuesOnly s (fadeFlagged s q) :=
  QueuesOnly.ite (queuesOnly_blockFlag s q 1) (QueuesOnly.ite (queuesOnly_blockFlag s q 2) (QueuesOnly.refl s))

theorem fadeStep_en (x : Queue) : x.fadeStep.en = x.en := by
  unfold Queue.fadeStep
  cases x.st with
  | fadingOut =>
    dsimp only
    split <;> rfl
  | off | playing | silent | rampingUp => rfl

theorem queuesOnly_frameTaken (s : State) (q : Fin 12) (mask : BitVec 16) (ws : List W) : QueuesOnly s (frameTaken s q mask ws) :=
  ((queuesOnly_fadeFlagged s q).trans (queuesOnly_store _ _ _)).trans (queuesOnly_modQueue _ q fun x => fadeStep_en x)

theorem queuesOnly_frameStep (h : NoneWaits s) (q : Fin 12) (mask : BitVec 16) (ws : List W) : QueuesOnly s (frameStep s q mask ws) := by
  have htaken := queuesOnly_frameTaken s q mask ws
  exact QueuesOnly.ite (QueuesOnly.refl s) (QueuesOnly.ite (queuesOnly_discardFrame s q)
    (QueuesOnly.ite (htaken.trans (queuesOnly_closeBlock (h.congr htaken) q)) htaken))

theorem queuesOnly_capFrame (h : NoneWaits s) (q : Fin 12) (mask : BitVec 16) (ws : List W) : QueuesOnly s (s.capFrame q mask ws) := by
  have hmask : QueuesOnly s (maskSettled s q mask) := QueuesOnly.ite (queuesOnly_shortBlock h q) (QueuesOnly.refl s)
  rw [capFrame_eq]
  exact hmask.trans (queuesOnly_frameStep (h.congr hmask) q mask ws)

theorem queuesOnly_capSlip (h : NoneWaits s) (q : Fin 12) (slip : Option Bool) (mask : BitVec 16) (ws : List W) :
    QueuesOnly s (s.capSlip q slip mask ws) := by
  match slip with
  | none => exact queuesOnly_capFrame h q mask ws
  | some false => exact queuesOnly_blockFlag s q 3
  | some true =>
    have hflag := queuesOnly_blockFlag s q 4
    have hfirst := hflag.trans (queuesOnly_capFrame (h.congr hflag) q mask ws)
    have hagain := hfirst.trans (queuesOnly_blockFlag _ q 4)
    exact hagain.trans (queuesOnly_capFrame (h.congr hagain) q mask ws)

theorem queuesOnly_capOut (h : NoneWaits s) (q : Fin 12) (slip : Option Bool) (mask : BitVec 16) (n : Nat) (rx : RxFrame) :
    QueuesOnly s (s.capOut q slip mask n rx) := by
  have hflag := queuesOnly_blockFlag s q 5
  unfold State.capOut
  split
  · exact hflag.trans (queuesOnly_capFrame (h.congr hflag) q mask _)
  · split
    · exact queuesOnly_capSlip h q slip _ _
    · exact queuesOnly_capSlip h q slip _ _

end Capture

/-! ### A queue that is not enabled -/

section Disabled

/-- A queue that is not enabled takes nothing. -/
theorem capFrame_disabled (h : s.aud.queues[q].en = false) (mask : BitVec 16) (ws : List W) : s.capFrame q mask ws = s := by
  have hshort : s.shortBlock q = s := if_neg fun hall => Bool.false_ne_true (h.symm.trans hall.1)
  have hmask : maskSettled s q mask = s := by
    unfold maskSettled
    rw [hshort, ite_self]
  rw [capFrame_eq, hmask]
  exact if_pos h

theorem capSlip_disabled_mem (h : s.aud.queues[q].en = false) (slip : Option Bool) (mask : BitVec 16) (ws : List W) :
    (s.capSlip q slip mask ws).mem = s.mem := by
  have hflag : (s.blockFlag q 4).aud.queues[q].en = false := ((queuesOnly_blockFlag s q 4).en q).trans h
  match slip with
  | none => exact congrArg State.mem (capFrame_disabled h mask ws)
  | some false => rfl
  | some true =>
    have hagain := ((queuesOnly_blockFlag (s.blockFlag q 4) q 4).en q).trans hflag
    change ((((s.blockFlag q 4).capFrame q mask ws).blockFlag q 4).capFrame q mask ws).mem = s.mem
    rw [capFrame_disabled hflag, capFrame_disabled hagain]
    rfl

theorem capOut_disabled_mem (h : s.aud.queues[q].en = false) (slip : Option Bool) (mask : BitVec 16) (n : Nat) (rx : RxFrame) :
    (s.capOut q slip mask n rx).mem = s.mem := by
  unfold State.capOut
  split
  · rw [capFrame_disabled (((queuesOnly_blockFlag s q 5).en q).trans h)]
    rfl
  · split
    · exact capSlip_disabled_mem h slip _ _
    · exact capSlip_disabled_mem h slip _ _

end Disabled

/-! ### A queue that plays -/

section Playing

variable {x : Queue}

theorem fadedWord_playing (h : x.st = .playing) : fadedWord x = id := by
  funext w
  rw [fadedWord, h]
  rfl

theorem fadeStep_playing (h : x.st = .playing) : x.fadeStep = x := by
  rw [Queue.fadeStep, h]

/-- A frame of the mask in use that does not fill the block. -/
theorem capFrame_playing (hx : x = s.aud.queues[q]) (hen : x.en = true) (hst : x.st = .playing) (hblocks : x.blocks ≠ 0)
    (hpos : x.pos + 1 < x.p) (ws : List W) : s.capFrame q x.mask ws =
      (s.store (x.blockAddr q 0 + 16 + 4 * ws.length * x.pos) (ws.flatMap fun w => leBytes 4 w.toNat)).modQueue q
        (framePassed (x.pos = 0) s.aud.frame x.mask) := by
  subst hx
  have hmask : maskSettled s q s.aud.queues[q].mask = s := if_neg (not_not_intro rfl)
  have hflag : fadeFlagged s q = s := by
    rw [fadeFlagged, hst]
    rfl
  have hsound : ¬(s.aud.queues[q].st = .silent ∨ s.aud.queues[q].blocks = 0) := by
    rw [hst]
    exact not_or.mpr ⟨by decide, hblocks⟩
  rw [capFrame_eq, hmask, frameStep, if_neg (by rw [hen]; decide), if_neg hsound, if_neg hpos.not_ge, frameTaken, hflag,
    fadedWord_playing hst, List.map_id]

theorem framePassed_playing (hst : x.st = .playing) (first : Prop) [Decidable first] (k : W) (mask : BitVec 16) :
    (framePassed first k mask x).pos = x.pos + 1 ∧ (framePassed first k mask x).blocks = x.blocks ∧
      (framePassed first k mask x).flags = x.flags := by
  rw [framePassed, fadeStep_playing hst]
  exact ⟨rfl, rfl, rfl⟩

end Playing

end Sys2Proof.Proofs
end

section
/-!
SUPPORT. Slips (R279, R280): the frame that a group chooses, and the slip carried out when that frame leaves the slip line next.
-/

namespace Sys2Proof.Proofs

open Sys2Proof Sys2Proof.Machine Sys2Proof.Laws

variable {s : State} {g : Fin 5}

/-! ### The quietest frame (R279) -/

section Quietest

/-- The quieter of two frames, the earlier one where they are equal. -/
def quieter (b : Option LineFrame) (e : LineFrame) : Option LineFrame :=
  match b with
  | none => some e
  | some x => if e.energy < x.energy then some e else b

/-- Behind the quietest frame nothing changes the choice. -/
theorem foldl_quieter_after {l : List LineFrame} {e : LineFrame} (h : ∀ y ∈ l, e.energy ≤ y.energy) :
    l.foldl quieter (some e) = some e := by
  induction l with
  | nil => rfl
  | cons y l ih =>
    obtain ⟨hy, hrest⟩ := List.forall_mem_cons.mp h
    rw [List.foldl_cons, quieter, if_neg hy.not_gt, ih hrest]

/-- Before it no choice is as quiet. -/
theorem foldl_quieter_before {l : List LineFrame} {n : Nat} (h : ∀ y ∈ l, n < y.energy) {b : Option LineFrame}
    (hb : ∀ x ∈ b, n < x.energy) : ∀ x ∈ l.foldl quieter b, n < x.energy := by
  induction l generalizing b with
  | nil => exact hb
  | cons y l ih =>
    obtain ⟨hy, hrest⟩ := List.forall_mem_cons.mp h
    refine ih hrest ?_
    cases b with
    | none => simpa [quieter] using hy
    | some x =>
      rw [quieter]
      split_ifs
      · simpa using hy
      · exact hb

theorem quietest_eq {a b : List LineFrame} {e : LineFrame} (ha : ∀ y ∈ a, e.energy < y.energy) (hb : ∀ y ∈ b, e.energy ≤ y.energy) :
    quietest (a ++ e :: b) = some e := by
  have hbefore := foldl_quieter_before ha (b := none) (by simp)
  change (a ++ e :: b).foldl quieter none = some e
  rw [List.foldl_append, List.foldl_cons]
  have hchosen : quieter (a.foldl quieter none) e = some e := by
    cases hx : a.foldl quieter none with
    | none => rfl
    | some x =>
      have hlouder : e.energy < x.energy := hbefore x (by rw [hx]; rfl)
      exact if_pos hlouder
  rw [hchosen, foldl_quieter_after hb]

end Quietest

/-! ### The decision (R279, R280) -/

section Decision

/-- A decision sets a slip and nothing else. -/
theorem decide_frame (x : Group) : x.decide = { x with slip := x.decide.slip } := by
  unfold Group.decide
  dsimp only
  split_ifs <;> rfl

/-- A fill outside 6 to 10 decides for the quietest frame. -/
theorem decide_slip {x : Group} {a b : List LineFrame} {e : LineFrame} (hq : x.qualified = true) (hslip : x.slip = none)
    (hnow : x.slipNow = none) (hline : x.line = a ++ e :: b) (ha : ∀ y ∈ a, e.energy < y.energy) (hb : ∀ y ∈ b, e.energy ≤ y.energy) :
    x.decide = if 6 ≤ x.txFifo.length ∧ x.txFifo.length ≤ 10 then x else { x with slip := some (decide (10 < x.txFifo.length), e.n) } := by
  have hquiet : quietest x.line = some e := hline ▸ quietest_eq ha hb
  by_cases hfill : 6 ≤ x.txFifo.length ∧ x.txFifo.length ≤ 10
  · have hwithin := (within_iff 6 10 x.txFifo.length).mpr hfill
    simp only [Group.decide, hwithin, if_pos hfill, Bool.true_eq_false, and_false, if_false]
  · have hwithin : within 6 10 x.txFifo.length = false := Bool.eq_false_iff.mpr (mt (within_iff 6 10 _).mp hfill)
    simp only [Group.decide, hq, hslip, hnow, hwithin, hquiet, if_neg hfill, and_self, if_true, Option.map_some]

end Decision

/-! ### SLIP_EXECUTE (R279, R280) -/

section Execute

theorem exec_slipExecute_due {b : Bool} {i : W} (hslip : s.aud.groups[g].slip = some (b, i))
    (hhead : s.aud.groups[g].line.head?.map LineFrame.n = some i) : exec (.slipExecute g) s = .next
      ((((s.modGroup g fun x => { x with slip := none, slipNow := some b }).bump (0xB000 + 4 * g.val) 1).setFlag slotAud
        (8 + g.val)).raiseLimited 64 g.val (b01 b) (BitVec.ofNat 32 (leNat (ppmBytes s.aud.groups[g].ppm))) 1) := by
  change execSlipExecute g s = _
  simp only [execSlipExecute, hslip, hhead, ne_eq, not_true_eq_false, if_false]

theorem exec_slipExecute_none
    (h : s.aud.groups[g].slip.all (fun v => decide (s.aud.groups[g].line.head?.map LineFrame.n ≠ some v.2)) = true) :
    exec (.slipExecute g) s = .next s := by
  change execSlipExecute g s = _
  cases hslip : s.aud.groups[g].slip with
  | none => simp only [execSlipExecute, hslip]
  | some v =>
    rw [hslip] at h
    have hlater : s.aud.groups[g].line.head?.map LineFrame.n ≠ some v.2 := of_decide_eq_true h
    simp only [execSlipExecute, hslip, if_pos hlater]

end Execute

end Sys2Proof.Proofs
end

section
/-!
SUPPORT. The parts of an internal frame (R273 to R283): the boundary and the count of clock periods, the words of a transmit frame, the slip
line, and the frames at the pins.
-/

namespace Sys2Proof.Proofs

open Sys2Proof Sys2Proof.Machine Sys2Proof.Laws

variable {s t u : State} {n : Fin 4} {g k : Fin 5}

/-! ### The boundary (R282, R297) -/

section Boundary

/-- Nothing waits at the port for a frame boundary. -/
structure Settled (p : Port) : Prop where
  started : p.st ≠ 2
  masks : p.nextMasks = []
  maps : p.nextMap = []
  starting : p.starting = false
  stopping : p.stopping = false

theorem boundary_settled {p : Port} (h : Settled p) (b : Bool) : p.boundary b = p := by
  simp only [Port.boundary, h.starting, h.stopping, h.started, false_and, Bool.false_eq_true, if_false]

theorem modPort_id {f : Port → Port} (h : f s.aud.ports[n] = s.aud.ports[n]) : s.modPort n f = s := by
  simp only [State.modPort, upd_id h]

theorem portBoundary_settled (h : Settled s.aud.ports[n]) : s.portBoundary n = s := by
  have hmask : s.maskBoundary n = s := by simp only [State.maskBoundary, h.masks]
  have hmap : s.mapBoundary n = s := by simp only [State.mapBoundary, h.maps]
  simp only [State.portBoundary, hmask, hmap]
  exact modPort_id (boundary_settled h _)

theorem pdmBoundary_none (h : s.aud.pdmNext = []) : s.pdmBoundary = s := by
  rw [State.pdmBoundary, h, List.foldl_nil, ← h]

/-- What takes effect at the frame boundary. -/
def frameBounded (s : State) : State := ((List.finRange 4).foldl State.portBoundary s).pdmBoundary

theorem frameBounded_settled (h : ∀ n : Fin 4, Settled s.aud.ports[n]) (hpdm : s.aud.pdmNext = []) : frameBounded s = s := by
  rw [frameBounded, List.foldl_fixed' fun n => portBoundary_settled (h n), pdmBoundary_none hpdm]

end Boundary

/-! ### Clock periods (R277) -/

section Counts

/-- The clock periods of the frames that came. -/
def clocksCounted (o : AudFrameObs) (s : State) : State :=
  (List.finRange 4).foldl (fun s n => (o.ports.getD n.val []).foldl (fun s f => s.bclkCheck n f) s) s

theorem bclkCheck_stopped (h : s.aud.ports[n].st = 0) (f : ExtFrame) : s.bclkCheck n f = s :=
  if_pos (by rw [h]; decide)

theorem clocksCounted_stopped (h : ∀ n : Fin 4, s.aud.ports[n].st = 0) (o : AudFrameObs) : clocksCounted o s = s :=
  List.foldl_fixed' (fun n => List.foldl_fixed' (fun f => bclkCheck_stopped (h n) f) _) _

/-- Two states differ at most in flags, in counters and in the ports' counts of right and wrong frames. -/
structure CountsOnly (s t : State) : Prop where
  rest : t = { s with flags := t.flags, tlm := t.tlm, aud := { s.aud with ports := t.aud.ports } }
  port : ∀ n : Fin 4, ∃ w c, t.aud.ports[n] = { s.aud.ports[n] with wrong := w, good := c }

theorem CountsOnly.refl (s : State) : CountsOnly s s := ⟨rfl, fun n => ⟨s.aud.ports[n].wrong, s.aud.ports[n].good, rfl⟩⟩

theorem CountsOnly.trans (h : CountsOnly s t) (k : CountsOnly t u) : CountsOnly s u := by
  refine ⟨?_, fun n => ?_⟩
  · have hrest := k.rest
    rw [h.rest] at hrest
    exact hrest
  · obtain ⟨w, c, ht⟩ := h.port n
    obtain ⟨w', c', hu⟩ := k.port n
    exact ⟨w', c', by rw [hu, ht]⟩

theorem countsOnly_modPort (s : State) (n : Fin 4) (w c : Nat) : CountsOnly s (s.modPort n fun p => { p with wrong := w, good := c }) := by
  refine ⟨rfl, fun j => ?_⟩
  by_cases hj : n = j
  · subst hj
    exact ⟨w, c, modPort_same s n _⟩
  · exact ⟨s.aud.ports[j].wrong, s.aud.ports[j].good, modPort_other s hj _⟩

theorem countsOnly_bclkCheck (s : State) (n : Fin 4) (f : ExtFrame) : CountsOnly s (s.bclkCheck n f) := by
  unfold State.bclkCheck
  dsimp only
  split
  · exact CountsOnly.refl s
  · split
    · have hset : s.modPort n (fun p => { p with wrong := 0, good := min 32 (p.good + 1) }) =
          s.modPort n fun p => { p with wrong := 0, good := min 32 (s.aud.ports[n].good + 1) } := modPort_congr rfl
      rw [hset]
      exact countsOnly_modPort s n _ _
    · have hset : s.modPort n (fun p => { p with wrong := p.wrong + 1, good := 0 }) =
          s.modPort n fun p => { p with wrong := s.aud.ports[n].wrong + 1, good := 0 } := modPort_congr rfl
      rw [hset]
      exact (countsOnly_modPort s n _ _).trans ⟨rfl, fun j => ⟨_, _, rfl⟩⟩

/-- A fold of steps that respect the agreement. -/
theorem countsOnly_foldl {α : Type} {f : State → α → State} (hf : ∀ t x, CountsOnly t (f t x)) (l : List α) (s : State) :
    CountsOnly s (l.foldl f s) := by
  induction l generalizing s with
  | nil => exact CountsOnly.refl s
  | cons x l ih => exact (hf s x).trans (ih _)

theorem countsOnly_clocksCounted (o : AudFrameObs) (s : State) : CountsOnly s (clocksCounted o s) :=
  countsOnly_foldl (fun t n => countsOnly_foldl (fun u f => countsOnly_bclkCheck u n f) _ t) _ s

end Counts

/-! ### Groups whose ports do not run (R276) -/

section Groups

theorem mem_running : n ∈ s.running g ↔ s.aud.ports[n].clksrc.val = g.val ∧ s.aud.ports[n].st = 3 := by
  simp only [State.running, List.mem_filter, mem_groupPorts, decide_eq_true_eq]

theorem running_nodup (s : State) (g : Fin 5) : (s.running g).Nodup := (groupPorts_nodup s g).filter _

theorem running_congr (h : t.aud.ports = s.aud.ports) (g : Fin 5) : t.running g = s.running g := by
  simp only [State.running, State.groupPorts, h]

/-- Two states differ at most in groups, and in none that `P` names. -/
structure GroupsOnly (P : Fin 5 → Prop) (s t : State) : Prop where
  rest : t = { s with aud := { s.aud with groups := t.aud.groups } }
  group : ∀ g : Fin 5, P g → t.aud.groups[g] = s.aud.groups[g]

variable {P : Fin 5 → Prop}

theorem GroupsOnly.refl (s : State) : GroupsOnly P s s := ⟨rfl, fun _ _ => rfl⟩

theorem GroupsOnly.trans (h : GroupsOnly P s t) (k : GroupsOnly P t u) : GroupsOnly P s u := by
  refine ⟨?_, fun g hg => (k.group g hg).trans (h.group g hg)⟩
  have hrest := k.rest
  rw [h.rest] at hrest
  exact hrest

theorem GroupsOnly.ports (h : GroupsOnly P s t) : t.aud.ports = s.aud.ports := by rw [h.rest]

theorem groupsOnly_modGroup (hg : ¬P g) (s : State) (f : Group → Group) : GroupsOnly P s (s.modGroup g f) :=
  ⟨rfl, fun k hk => modGroup_other s (fun heq : g = k => hg (heq ▸ hk)) f⟩

/-- A fold over groups whose ports do not run, of steps that then touch their group alone. -/
theorem groupsOnly_foldl {f : State → Fin 5 → State} (hf : ∀ t g, t.running g = [] → ¬P g → GroupsOnly P t (f t g))
    {l : List (Fin 5)} (hl : ∀ g ∈ l, s.running g = [] ∧ ¬P g) : GroupsOnly P s (l.foldl f s) := by
  induction l generalizing s with
  | nil => exact GroupsOnly.refl s
  | cons g l ih =>
    obtain ⟨⟨hrun, hg⟩, hrest⟩ := List.forall_mem_cons.mp hl
    have hfirst := hf s g hrun hg
    exact hfirst.trans (ih fun k hk => ⟨(running_congr hfirst.ports k).trans (hrest k hk).1, (hrest k hk).2⟩)

/-- Microphones that are off give the slip line of their group empty frames and nothing more. -/
theorem groupsOnly_micFrame (hpdm : s.aud.pdmEn = 0) (hg : ¬P 4) : GroupsOnly P s s.micFrame.1 := by
  by_cases hq : s.aud.groups[4].qualified = true
  · have hmove : s.micFrame.1 = s.modGroup 4 fun _ => (s.aud.groups[4].step s.aud.frame []).1 := by
      simp only [State.micFrame, if_pos hq, if_pos hpdm]
    exact hmove ▸ groupsOnly_modGroup hg s _
  · have hstay : s.micFrame.1 = s := by
      simp only [State.micFrame, if_neg hq, hpdm, ne_eq, not_true_eq_false, false_and, if_false]
    exact hstay.symm ▸ GroupsOnly.refl s

theorem groupsOnly_groupFrame (outs : Vector (W × W) 32) (mics : Vector W 8) (hrun : s.running g = []) (hg : ¬P g) :
    GroupsOnly P s (s.groupFrame outs mics g) := by
  unfold State.groupFrame
  dsimp only
  rw [hrun]
  split
  · exact GroupsOnly.refl s
  · exact groupsOnly_modGroup hg s _

theorem groupsOnly_pinFrame (o : AudFrameObs) (i : Nat) (hrun : s.running g = []) (hg : ¬P g) : GroupsOnly P s (s.pinFrame g o i) := by
  unfold State.pinFrame
  dsimp only
  rw [hrun]
  exact groupsOnly_modGroup hg s _

/-- The internal frames in a row in which nothing came at a group's pins, when `n` frames come. -/
def quietCounted (n : Nat) (x : Group) : Group := { x with quiet := if n = 0 then x.quiet + 1 else 0 }

theorem pinFrames_qualified (o : AudFrameObs) (hq : s.aud.groups[g].qualified = true) : s.pinFrames o g =
    (List.range (o.ports.getD g.val []).length).foldl (fun s i => s.pinFrame g o i)
      (s.modGroup g (quietCounted (o.ports.getD g.val []).length)) :=
  if_pos ((congrArg Group.qualified (modGroup_same s g _)).trans hq)

theorem pinFrames_unqualified (o : AudFrameObs) (hq : s.aud.groups[g].qualified = false) :
    s.pinFrames o g = s.modGroup g (quietCounted (o.ports.getD g.val []).length) :=
  if_neg (Bool.eq_false_iff.mp ((congrArg Group.qualified (modGroup_same s g _)).trans hq))

theorem groupsOnly_foldl_pinFrame (o : AudFrameObs) (hg : ¬P g) (l : List Nat) (hrun : s.running g = []) :
    GroupsOnly P s (l.foldl (fun s i => s.pinFrame g o i) s) := by
  induction l generalizing s with
  | nil => exact GroupsOnly.refl s
  | cons i l ih =>
    have hfirst := groupsOnly_pinFrame o i hrun hg
    exact hfirst.trans (ih ((running_congr hfirst.ports g).trans hrun))

theorem groupsOnly_pinFrames (o : AudFrameObs) (hrun : s.running g = []) (hg : ¬P g) : GroupsOnly P s (s.pinFrames o g) := by
  have hquiet := groupsOnly_modGroup hg s (quietCounted (o.ports.getD g.val []).length)
  cases hq : s.aud.groups[g].qualified with
  | true =>
    rw [pinFrames_qualified o hq]
    exact hquiet.trans (groupsOnly_foldl_pinFrame o hg _ hrun)
  | false =>
    rw [pinFrames_unqualified o hq]
    exact hquiet

end Groups

/-! ### PDM frames (R293 to R296) -/

section PdmFrames

/-- Two audio blocks differ at most in the microphones and in group 4. -/
structure MicsOnly (a b : AudBlk) : Prop where
  rest : b = { a with mics := b.mics, pdmGood := b.pdmGood, micAge := b.micAge, micFall := b.micFall, groups := b.groups }
  group : ∀ g : Fin 5, g ≠ 4 → b.groups[g] = a.groups[g]

theorem MicsOnly.trans {a b c : AudBlk} (h : MicsOnly a b) (k : MicsOnly b c) : MicsOnly a c := by
  refine ⟨?_, fun g hg => (k.group g hg).trans (h.group g hg)⟩
  have hrest := k.rest
  rw [h.rest] at hrest
  exact hrest

theorem micsOnly_pdmFrame (a : AudBlk) (f : List (List Bool × List Bool)) : MicsOnly a (a.pdmFrame f) :=
  ⟨rfl, fun g hg => upd_other _ 4 g _ hg.symm⟩

theorem micsOnly_pdmFrames (a : AudBlk) (l : List (List (List Bool × List Bool))) : MicsOnly a (a.pdmFrames l) := by
  have hfold (m : List (List (List Bool × List Bool))) : ∀ b : AudBlk, MicsOnly b (m.foldl AudBlk.pdmFrame b) := by
    induction m with
    | nil => exact fun b => ⟨rfl, fun _ _ => rfl⟩
    | cons f m ih => exact fun b => (micsOnly_pdmFrame b f).trans (ih _)
  refine MicsOnly.trans (b := { a with groups := upd a.groups 4 fun x => { x with quiet := if l = [] then x.quiet + 1 else 0 } }) ?_ (hfold l _)
  exact ⟨rfl, fun g hg => upd_other _ 4 g _ hg.symm⟩

end PdmFrames

/-! ### The words of a transmit frame (R273 to R275) -/

section Words

variable {outs : Vector (W × W) 32} {mics : Vector W 8} {i : Nat} {k : Fin 32}

theorem txWords_length : (s.txWords n outs mics).length = s.aud.ports[n].slots := by
  rw [State.txWords, List.length_map, List.length_range]

theorem txWords_getD (hi : i < s.aud.ports[n].slots) : (s.txWords n outs mics).getD i none =
    if s.aud.ports[n].tx.getLsbD i = true then some (roundSlot (widthBits s.aud.ports[n].width) (s.slotWord n outs mics i))
    else if s.aud.ports[n].format.getLsbD 4 = true then none else some 0 := by
  simp only [State.txWords, List.getD_eq_getElem?_getD, List.getElem?_map, List.getElem?_range hi, Option.map_some, Option.getD_some]

theorem slotWord_left (h : s.aud.ports[n].slotmap.getD i 0xFF = byte (2 * k.val)) (hramp : s.aud.ports[n].ramp = none) :
    s.slotWord n outs mics i = outs[k].1 := by
  have hbyte : (byte (2 * k.val)).toNat = 2 * k.val := byte_toNat (by omega)
  have hix : (Fin.ofNat 32 (2 * k.val / 2) : Fin 32) = k := ofNat_eq (by omega)
  have hlow : 2 * k.val < 0x40 := by omega
  have heven : 2 * k.val % 2 = 0 := by omega
  simp only [State.slotWord, h, hramp, hbyte, hix, if_pos hlow, if_pos heven]

theorem slotWord_right (h : s.aud.ports[n].slotmap.getD i 0xFF = byte (2 * k.val + 1)) (hramp : s.aud.ports[n].ramp = none) :
    s.slotWord n outs mics i = outs[k].2 := by
  have hbyte : (byte (2 * k.val + 1)).toNat = 2 * k.val + 1 := byte_toNat (by omega)
  have hix : (Fin.ofNat 32 ((2 * k.val + 1) / 2) : Fin 32) = k := ofNat_eq (by omega)
  have hlow : 2 * k.val + 1 < 0x40 := by omega
  have hodd : ¬(2 * k.val + 1) % 2 = 0 := by omega
  simp only [State.slotWord, h, hramp, hbyte, hix, if_pos hlow, if_neg hodd]

/-- A stream that plays gives its oldest frame. -/
theorem out_playing {t : Stream} {a : W × W} {r : List (W × W)} (hst : t.st = .playing) (hframes : t.frames = a :: r) : t.out = a := by
  simp only [Stream.out, hframes, hst]

end Words

end Sys2Proof.Proofs
end

section
/-!
SUPPORT. The internal frame while every port is stopped, and while one port runs (R273 to R283): what each part of the frame leaves to the
parts behind it.
-/

namespace Sys2Proof.Proofs

open Sys2Proof Sys2Proof.Machine Sys2Proof.Laws

variable {s t u : State} {n : Fin 4} {g k : Fin 5} {o : AudFrameObs}

/-! ### The parts of AUD_FRAME (R279) -/

section Parts

/-- Slips are decided, and nothing has been driven yet. -/
def frameDecided (s : State) : State :=
  { s with aud := { s.aud with groups := s.aud.groups.map Group.decide, txOut := Vector.replicate 4 [] } }

/-- The microphones' frame, then that of every group of ports. -/
def frameGrouped (s : State) : State :=
  portGroups.foldl (fun t g => t.groupFrame (s.aud.streams.map Stream.out) s.micFrame.2 g) s.micFrame.1

/-- The frames of the ports besides, then those at the pins. -/
def framePinned (o : AudFrameObs) (s : State) : State :=
  portGroups.foldl (fun t g => t.pinFrames o g) ((List.finRange 4).foldl State.portFrame s)

/-- The PDM frames, and the advance of streams and frame count. -/
def frameEnded (o : AudFrameObs) (s : State) : State :=
  { s with aud := { s.aud.pdmFrames o.pdm with streams := s.aud.streams.map Stream.advance, frame := s.aud.frame + 1 } }

theorem exec_audFrame (o : AudFrameObs) (s : State) : exec (.audFrame o) s =
    .next (frameEnded o (framePinned o (frameGrouped (frameDecided (clocksCounted o (frameBounded s)))))) := by
  unfold frameEnded framePinned frameGrouped frameDecided clocksCounted frameBounded
  rfl

theorem frameDecided_group (s : State) (g : Fin 5) : (frameDecided s).aud.groups[g] = s.aud.groups[g].decide := by
  simp only [frameDecided, Fin.getElem_fin, Vector.getElem_map]

end Parts

/-! ### Every port stopped -/

section Stopped

theorem running_stopped (h : ∀ n : Fin 4, s.aud.ports[n].st = 0) (g : Fin 5) : s.running g = [] := by
  refine List.eq_nil_iff_forall_not_mem.mpr fun n hn => ?_
  have hst := (mem_running.mp hn).2
  rw [h n] at hst
  exact absurd hst (by decide)

theorem portFrame_stopped (h : s.aud.ports[n].st = 0) : s.portFrame n = s := by
  simp only [State.portFrame, h]
  rfl

/-- No group is kept, none is barred: with every port stopped the parts of a frame touch groups alone. -/
theorem groupsOnly_frameGrouped (h : ∀ n : Fin 4, s.aud.ports[n].st = 0) (hpdm : s.aud.pdmEn = 0) :
    GroupsOnly (fun _ => False) s (frameGrouped s) := by
  have hmic : GroupsOnly (fun _ => False) s s.micFrame.1 := groupsOnly_micFrame hpdm not_false
  exact hmic.trans (groupsOnly_foldl (fun t g hrun hg => groupsOnly_groupFrame _ _ hrun hg)
    fun g _ => ⟨running_stopped (by rw [hmic.ports]; exact h) g, not_false⟩)

theorem groupsOnly_framePinned (h : ∀ n : Fin 4, s.aud.ports[n].st = 0) (o : AudFrameObs) :
    GroupsOnly (fun _ => False) s (framePinned o s) := by
  rw [framePinned, List.foldl_fixed' fun n => portFrame_stopped (h n)]
  exact groupsOnly_foldl (fun t g hrun hg => groupsOnly_pinFrames o hrun hg) fun g _ => ⟨running_stopped h g, not_false⟩

/-- A frame with every port stopped. -/
theorem exec_audFrame_stopped (h : ∀ n : Fin 4, s.aud.ports[n].st = 0) (hsettled : ∀ n : Fin 4, Settled s.aud.ports[n])
    (hnext : s.aud.pdmNext = []) (hpdm : s.aud.pdmEn = 0) (o : AudFrameObs) : ∃ t : State,
      GroupsOnly (fun _ => False) (frameDecided s) t ∧ exec (.audFrame o) s = .next (frameEnded o t) := by
  have hgroups := groupsOnly_frameGrouped (s := frameDecided s) h hpdm
  have hpins := groupsOnly_framePinned (s := frameGrouped (frameDecided s)) (by rw [hgroups.ports]; exact h) o
  refine ⟨_, hgroups.trans hpins, ?_⟩
  rw [exec_audFrame, frameBounded_settled hsettled hnext, clocksCounted_stopped h]

end Stopped

/-! ### One port runs -/

section Lone

/-- Port `n`, on the clock of group `g`, runs, and the others are stopped. -/
structure Lone (s : State) (n : Fin 4) (g : Fin 5) : Prop where
  runs : s.aud.ports[n].st = 3
  clock : s.aud.ports[n].clksrc.val = g.val
  others : ∀ m : Fin 4, m ≠ n → s.aud.ports[m].st = 0

theorem Lone.of_ports (h : Lone s n g) (hports : ∀ m : Fin 4, t.aud.ports[m].st = s.aud.ports[m].st ∧
    t.aud.ports[m].clksrc = s.aud.ports[m].clksrc) : Lone t n g :=
  ⟨(hports n).1.trans h.runs, by rw [(hports n).2, h.clock], fun m hm => (hports m).1.trans (h.others m hm)⟩

theorem Lone.congr (h : Lone s n g) (hports : t.aud.ports = s.aud.ports) : Lone t n g :=
  h.of_ports fun m => by rw [hports]; exact ⟨rfl, rfl⟩

theorem Lone.noneWaits (h : Lone s n g) : NoneWaits s := by
  intro m
  by_cases hm : m = n
  · rw [hm, h.runs]
    decide
  · rw [h.others m hm]
    decide

theorem Lone.mem_running (h : Lone s n g) {m : Fin 4} : m ∈ s.running k ↔ m = n ∧ k = g := by
  rw [Proofs.mem_running]
  constructor
  · rintro ⟨hclk, hst⟩
    have hm : m = n := by
      by_contra hm
      rw [h.others m hm] at hst
      exact absurd hst (by decide)
    subst hm
    exact ⟨rfl, Fin.ext (hclk.symm.trans h.clock)⟩
  · rintro ⟨rfl, rfl⟩
    exact ⟨h.clock, h.runs⟩

theorem Lone.running (h : Lone s n g) : s.running g = [n] := by
  refine List.perm_singleton.mp ((List.perm_ext_iff_of_nodup (running_nodup s g) (List.nodup_singleton n)).mpr fun m => ?_)
  rw [h.mem_running, List.mem_singleton]
  exact and_iff_left rfl

theorem Lone.running_other (h : Lone s n g) (hk : k ≠ g) : s.running k = [] :=
  List.eq_nil_iff_forall_not_mem.mpr fun _ hm => hk (h.mem_running.mp hm).2

/-- A list without repetition around one of its members. -/
theorem nodup_around {α : Type} {l : List α} {x : α} (hl : l.Nodup) (hx : x ∈ l) : ∃ a b, l = a ++ x :: b ∧ x ∉ a ∧ x ∉ b := by
  obtain ⟨a, b, rfl⟩ := List.append_of_mem hx
  have hout := (List.nodup_cons.mp (List.nodup_middle.mp hl)).1
  exact ⟨a, b, rfl, fun h => hout (List.mem_append_left b h), fun h => hout (List.mem_append_right a h)⟩

theorem portGroups_around (hg : g.val < 4) : ∃ a b, portGroups = a ++ g :: b ∧ g ∉ a ∧ g ∉ b := by
  refine nodup_around (by decide) ?_
  revert g
  decide

/-- What the group of the port makes of its frame: the group past it, and the frame that leaves its slip line. -/
def groupMove (s : State) (n : Fin 4) (g : Fin 5) (outs : Vector (W × W) 32) (mics : Vector W 8) : Group × LineFrame :=
  s.aud.groups[g].step s.aud.frame [(n, s.txWords n outs mics)]

variable {outs : Vector (W × W) 32} {mics : Vector W 8}

theorem groupFrame_lone (h : Lone s n g) (hq : s.aud.groups[g].qualified = true) : s.groupFrame outs mics g =
    (s.modGroup g fun _ => (groupMove s n g outs mics).1).capOut (Fin.ofNat 12 n.val) s.aud.groups[g].slipNow s.aud.ports[n].rx
      (activeSlots s.aud.ports[n].rx s.aud.ports[n].slots).length (groupMove s n g outs mics).2.rx := by
  simp only [State.groupFrame, hq, h.running]
  rfl

theorem queuesOnly_groupFrame (h : Lone s n g) (hq : s.aud.groups[g].qualified = true) :
    QueuesOnly (s.modGroup g fun _ => (groupMove s n g outs mics).1) (s.groupFrame outs mics g) := by
  rw [groupFrame_lone h hq]
  have hnone : NoneWaits (s.modGroup g fun _ => (groupMove s n g outs mics).1) := h.noneWaits
  exact queuesOnly_capOut hnone _ _ _ _ _

/-- The frames of the groups around the one of the port. -/
theorem frameGrouped_lone (h : Lone s n g) (hg : g.val < 4) (hq : s.aud.groups[g].qualified = true) (hpdm : s.aud.pdmEn = 0) :
    ∃ a : State, GroupsOnly (· = g) s a ∧
      GroupsOnly (· = g) (a.groupFrame (s.aud.streams.map Stream.out) s.micFrame.2 g) (frameGrouped s) := by
  obtain ⟨before, after, hsplit, hbefore, hafter⟩ := portGroups_around hg
  have h4 : ¬(4 : Fin 5) = g := fun h => absurd (congrArg Fin.val h) (by omega)
  have hmic : GroupsOnly (· = g) s s.micFrame.1 := groupsOnly_micFrame hpdm h4
  have hothers {t : State} (ht : Lone t n g) {l : List (Fin 5)} (hl : g ∉ l) :
      GroupsOnly (· = g) t (l.foldl (fun t g => t.groupFrame (s.aud.streams.map Stream.out) s.micFrame.2 g) t) := by
    refine groupsOnly_foldl (fun t k hrun hk => groupsOnly_groupFrame _ _ hrun hk) fun k hk => ?_
    have hkg : k ≠ g := fun heq => hl (heq ▸ hk)
    exact ⟨ht.running_other hkg, hkg⟩
  have ha := hmic.trans (hothers (h.congr hmic.ports) hbefore)
  refine ⟨_, ha, ?_⟩
  have hlone := h.congr ha.ports
  have hqa := (congrArg Group.qualified (ha.group g rfl)).trans hq
  rw [frameGrouped, hsplit, List.foldl_append, List.foldl_cons]
  exact hothers (hlone.congr (queuesOnly_groupFrame hlone hqa).ports) hafter

end Lone

end Sys2Proof.Proofs
end

section
/-!
SUPPORT. The frame of the only running port (R273 to R283): the port besides its group, its frames at the pins, and the frame as a whole.
-/

namespace Sys2Proof.Proofs

open Sys2Proof Sys2Proof.Machine Sys2Proof.Laws

variable {s t u : State} {n : Fin 4} {g k : Fin 5} {o : AudFrameObs}

/-! ### The port besides its group (R278) -/

section Besides

/-- One frame further into the ramp that follows a clock loss. -/
def portRamped (p : Port) : Port := { p with ramp := p.ramp.bind fun k => if k < 48 * 40 then some (k + 1) else none }

theorem foldl_fixed_of_mem {α β : Type} {f : β → α → β} {l : List α} {b : β} (h : ∀ x ∈ l, f b x = b) : l.foldl f b = b := by
  induction l with
  | nil => rfl
  | cons x l ih =>
    obtain ⟨hx, hrest⟩ := List.forall_mem_cons.mp h
    rw [List.foldl_cons, hx, ih hrest]

theorem lone_modPort (h : Lone s n g) : Lone (s.modPort n portRamped) n g := by
  refine h.of_ports fun m => ?_
  by_cases hm : n = m
  · subst hm
    rw [modPort_same]
    exact ⟨rfl, rfl⟩
  · rw [modPort_other s hm]
    exact ⟨rfl, rfl⟩

theorem portFrame_running (hst : s.aud.ports[n].st = 3) (hoff : s.aud.queues[(Fin.ofNat 12 (8 + n.val) : Fin 12)].en = false) :
    s.portFrame n = s.modPort n portRamped := by
  have hplay : s.playFrame (Fin.ofNat 12 (8 + n.val)) = s := if_pos hoff
  simp only [State.portFrame, hst, hplay, if_true]
  rfl

theorem foldl_portFrame_lone (h : Lone s n g) (hoff : s.aud.queues[(Fin.ofNat 12 (8 + n.val) : Fin 12)].en = false) :
    (List.finRange 4).foldl State.portFrame s = s.modPort n portRamped := by
  obtain ⟨before, after, hsplit, hbefore, hafter⟩ := nodup_around (List.nodup_finRange 4) (List.mem_finRange n)
  have hothers {t : State} (ht : Lone t n g) {l : List (Fin 4)} (hl : n ∉ l) : l.foldl State.portFrame t = t :=
    foldl_fixed_of_mem fun m hm => portFrame_stopped (ht.others m fun heq => hl (heq ▸ hm))
  rw [hsplit, List.foldl_append, hothers h hbefore, List.foldl_cons, portFrame_running h.runs hoff, hothers (lone_modPort h) hafter]

end Besides

/-! ### The frames at the pins of the port (R274, R275) -/

section Pins

/-- What a group of one port receives and gives up in a frame at its pins. -/
def framesPinned (rx : RxFrame) (x : Group) : Group := { x with txFifo := x.txFifo.drop 1, rxFifo := (x.rxFifo ++ [rx]).take 16 }

/-- A port drives its slots. -/
def portDrives (n : Fin 4) (ws : List (Option W)) (s : State) : State :=
  { s with aud := { s.aud with txOut := s.aud.txOut.set n.val (s.aud.txOut[n] ++ [ws]) } }

/-- What a port receives in a frame at its pins: its active slots, cut to WIDTH. -/
def portReceives (n : Fin 4) (p : Port) (ws : List W) : RxFrame :=
  [(Fin.ofNat 12 n.val, p.rx, (activeSlots p.rx p.slots).map fun k => cutSlot (widthBits p.width) (ws.getD k 0))]

/-- The slots of a port in the transmit frame that leaves. -/
def slotsSent (n : Fin 4) (p : Port) (x : Group) : List (Option W) :=
  (((x.txFifo.headD []).find? fun e => decide (e.1 = n)).map Prod.snd).getD (List.replicate p.slots (some 0))

theorem pinFrame_lone (h : Lone s n g) (o : AudFrameObs) (i : Nat) : s.pinFrame g o i =
    portDrives n (slotsSent n s.aud.ports[n] s.aud.groups[g]) (s.modGroup g
      (framesPinned (portReceives n s.aud.ports[n] (((o.ports.getD n.val [])[i]?.map ExtFrame.rx).getD [])))) := by
  simp only [State.pinFrame, h.running]
  rfl

/-- Two states differ at most in groups and in what was driven, and the slip line of group `g` is the same. -/
structure PinsOnly (g : Fin 5) (s t : State) : Prop where
  rest : t = { s with aud := { s.aud with groups := t.aud.groups, txOut := t.aud.txOut } }
  line : t.aud.groups[g].line = s.aud.groups[g].line

theorem PinsOnly.trans (h : PinsOnly g s t) (k : PinsOnly g t u) : PinsOnly g s u := by
  refine ⟨?_, k.line.trans h.line⟩
  have hrest := k.rest
  rw [h.rest] at hrest
  exact hrest

theorem PinsOnly.ports (h : PinsOnly g s t) : t.aud.ports = s.aud.ports := by rw [h.rest]

theorem pinsOnly_foldl (h : Lone s n g) (o : AudFrameObs) (l : List Nat) : PinsOnly g s (l.foldl (fun s i => s.pinFrame g o i) s) := by
  induction l generalizing s with
  | nil => exact ⟨rfl, rfl⟩
  | cons i l ih =>
    have hfirst : PinsOnly g s (s.pinFrame g o i) := by
      rw [pinFrame_lone h]
      exact ⟨rfl, (congrArg Group.line (modGroup_same s g _)).trans rfl⟩
    exact hfirst.trans (ih (h.congr hfirst.ports))

theorem pinsOnly_pinFrames (h : Lone s n g) (hq : s.aud.groups[g].qualified = true) (o : AudFrameObs) : PinsOnly g s (s.pinFrames o g) := by
  have hquiet : PinsOnly g s (s.modGroup g (quietCounted (o.ports.getD g.val []).length)) :=
    ⟨rfl, (congrArg Group.line (modGroup_same s g _)).trans rfl⟩
  rw [pinFrames_qualified o hq]
  exact hquiet.trans (pinsOnly_foldl (h.congr hquiet.ports) o _)

/-- One frame at the pins. -/
theorem pinFrames_one (h : Lone s n g) (hq : s.aud.groups[g].qualified = true) (hn : n.val = g.val) {x : ExtFrame}
    (ho : o.ports.getD n.val [] = [x]) :
    (s.pinFrames o g).aud.groups[g] = framesPinned (portReceives n s.aud.ports[n] x.rx) (quietCounted 1 s.aud.groups[g]) ∧
      (s.pinFrames o g).aud.txOut[n] = s.aud.txOut[n] ++ [slotsSent n s.aud.ports[n] s.aud.groups[g]] ∧
      ∀ m : Fin 4, m ≠ n → (s.pinFrames o g).aud.txOut[m] = s.aud.txOut[m] := by
  have hquiet : Lone (s.modGroup g (quietCounted 1)) n g := h.congr rfl
  have hgroup : (s.modGroup g (quietCounted 1)).aud.groups[g] = quietCounted 1 s.aud.groups[g] := modGroup_same s g _
  have hmove : s.pinFrames o g = portDrives n (slotsSent n s.aud.ports[n] s.aud.groups[g]) ((s.modGroup g (quietCounted 1)).modGroup g
      (framesPinned (portReceives n s.aud.ports[n] x.rx))) := by
    have hog : o.ports.getD g.val [] = [x] := hn ▸ ho
    rw [pinFrames_qualified o hq, hog]
    change (s.modGroup g (quietCounted 1)).pinFrame g o 0 = _
    rw [pinFrame_lone hquiet, ho, hgroup]
    rfl
  rw [hmove]
  refine ⟨?_, Vector.getElem_set_self n.isLt, fun m hm => Vector.getElem_set_ne n.isLt m.isLt fun heq => hm (Fin.ext heq.symm)⟩
  exact (modGroup_same _ g _).trans (congrArg _ hgroup)

end Pins

/-! ### The frame as a whole -/

section Whole

/-- Port `n`, on the qualified clock of group `g`, is the only one that runs; nothing waits for a boundary, the microphones are off, and the
port plays no queue. -/
structure LonePort (s : State) (n : Fin 4) (g : Fin 5) : Prop where
  runs : s.aud.ports[n].st = 3
  masks : s.aud.ports[n].nextMasks = []
  maps : s.aud.ports[n].nextMap = []
  stopping : s.aud.ports[n].stopping = false
  starting : s.aud.ports[n].starting = false
  clock : s.aud.ports[n].clksrc.val = g.val
  qualified : s.aud.groups[g].qualified = true
  pdmNext : s.aud.pdmNext = []
  pdmOff : s.aud.pdmEn = 0
  playOff : s.aud.queues[(Fin.ofNat 12 (8 + n.val) : Fin 12)].en = false
  others : ∀ m : Fin 4, m ≠ n → s.aud.ports[m].st = 0 ∧ s.aud.ports[m].nextMasks = [] ∧ s.aud.ports[m].nextMap = [] ∧
    s.aud.ports[m].starting = false ∧ s.aud.ports[m].stopping = false

theorem settled_stopped {p : Port} (h : p.st = 0 ∧ p.nextMasks = [] ∧ p.nextMap = [] ∧ p.starting = false ∧ p.stopping = false) : Settled p := by
  obtain ⟨hst, hmasks, hmaps, hstart, hstop⟩ := h
  exact ⟨by rw [hst]; decide, hmasks, hmaps, hstart, hstop⟩

theorem LonePort.settled (h : LonePort s n g) (m : Fin 4) : Settled s.aud.ports[m] := by
  by_cases hm : m = n
  · subst hm
    exact ⟨by rw [h.runs]; decide, h.masks, h.maps, h.starting, h.stopping⟩
  · exact settled_stopped (h.others m hm)

theorem LonePort.lone (h : LonePort s n g) : Lone s n g := ⟨h.runs, h.clock, fun m hm => (h.others m hm).1⟩

/-- The state in which the part of group `g` begins: frames are counted, slips decided, nothing has been driven, and other groups may have
moved. -/
structure FrameOpen (s : State) (g : Fin 5) (a : State) : Prop where
  rest : a = { s with flags := a.flags, tlm := a.tlm, aud := { s.aud with
    ports := a.aud.ports, groups := a.aud.groups, txOut := Vector.replicate 4 [] } }
  port : ∀ m : Fin 4, ∃ w c, a.aud.ports[m] = { s.aud.ports[m] with wrong := w, good := c }
  group : a.aud.groups[g] = s.aud.groups[g].decide

theorem frameOpen_decided (o : AudFrameObs) (s : State) (g : Fin 5) : FrameOpen s g (frameDecided (clocksCounted o s)) := by
  have hcounts := countsOnly_clocksCounted o s
  refine ⟨?_, hcounts.port, ?_⟩
  · rw [frameDecided, hcounts.rest]
  · rw [frameDecided_group, hcounts.rest]

theorem FrameOpen.groupsOnly {a b : State} (h : FrameOpen s g a) (k : GroupsOnly (· = g) a b) : FrameOpen s g b := by
  refine ⟨?_, by rw [k.ports]; exact h.port, (k.group g rfl).trans h.group⟩
  have hrest := k.rest
  have hflags : b.flags = a.flags := by rw [hrest]
  have htlm : b.tlm = a.tlm := by rw [hrest]
  rw [hflags, htlm, k.ports]
  rw [h.rest] at hrest
  exact hrest

theorem FrameOpen.lone {a : State} (h : FrameOpen s g a) (hs : Lone s n g) : Lone a n g := by
  refine hs.of_ports fun m => ?_
  obtain ⟨w, c, hport⟩ := h.port m
  rw [hport]
  exact ⟨rfl, rfl⟩

theorem FrameOpen.qualified {a : State} (h : FrameOpen s g a) (hs : s.aud.groups[g].qualified = true) :
    a.aud.groups[g].qualified = true := by
  rw [h.group, decide_frame]
  exact hs

/-- The part of the group of the port, from a state `a`. -/
def groupPart (s a : State) (n : Fin 4) (g : Fin 5) (mics : Vector W 8) : Group × LineFrame :=
  groupMove a n g (s.aud.streams.map Stream.out) mics

/-- How the parts of the frame of port `n` follow each other: `a` is the state in which its group's part begins, `b` that behind it, `e` the
one in which its frames come at the pins, and `u` the end. -/
structure LoneFrame (s : State) (o : AudFrameObs) (n : Fin 4) (g : Fin 5) (mics : Vector W 8) (a b e u : State) : Prop where
  exec : exec (.audFrame o) s = .next u
  begins : FrameOpen s g a
  move : b = (a.modGroup g fun _ => (groupPart s a n g mics).1).capOut (Fin.ofNat 12 n.val) a.aud.groups[g].slipNow a.aud.ports[n].rx
    (activeSlots a.aud.ports[n].rx a.aud.ports[n].slots).length (groupPart s a n g mics).2.rx
  captured : QueuesOnly (a.modGroup g fun _ => (groupPart s a n g mics).1) b
  lone : Lone e n g
  pinGroup : e.aud.groups[g] = b.aud.groups[g]
  pinPort : e.aud.ports[n] = portRamped b.aud.ports[n]
  pinOut : e.aud.txOut = b.aud.txOut
  mem : u.mem = b.mem
  queues : u.aud.queues = b.aud.queues
  groupEnd : u.aud.groups[g] = (e.pinFrames o g).aud.groups[g]
  txOut : u.aud.txOut = (e.pinFrames o g).aud.txOut

theorem frameEnded_group (hg : g.val < 4) (o : AudFrameObs) (s : State) : (frameEnded o s).aud.groups[g] = s.aud.groups[g] :=
  (micsOnly_pdmFrames s.aud o.pdm).group g fun h => by rw [h] at hg; exact absurd hg (by decide)

theorem frameEnded_queues (o : AudFrameObs) (s : State) : (frameEnded o s).aud.queues = s.aud.queues :=
  (congrArg AudBlk.queues (micsOnly_pdmFrames s.aud o.pdm).rest).trans rfl

theorem frameEnded_txOut (o : AudFrameObs) (s : State) : (frameEnded o s).aud.txOut = s.aud.txOut :=
  (congrArg AudBlk.txOut (micsOnly_pdmFrames s.aud o.pdm).rest).trans rfl

theorem frameEnded_mem (o : AudFrameObs) (s : State) : (frameEnded o s).mem = s.mem := rfl

/-- The frames at the pins of the groups around the one of the port. -/
theorem framePinned_lone (h : Lone s n g) (hg : g.val < 4) (hq : s.aud.groups[g].qualified = true)
    (hoff : s.aud.queues[(Fin.ofNat 12 (8 + n.val) : Fin 12)].en = false) (o : AudFrameObs) : ∃ e : State,
      GroupsOnly (· = g) (s.modPort n portRamped) e ∧ GroupsOnly (· = g) (e.pinFrames o g) (framePinned o s) := by
  obtain ⟨before, after, hsplit, hbefore, hafter⟩ := portGroups_around hg
  have hothers {t : State} (ht : Lone t n g) {l : List (Fin 5)} (hl : g ∉ l) :
      GroupsOnly (· = g) t (l.foldl (fun t g => t.pinFrames o g) t) := by
    refine groupsOnly_foldl (fun t k hrun hk => groupsOnly_pinFrames o hrun hk) fun k hk => ?_
    have hkg : k ≠ g := fun heq => hl (heq ▸ hk)
    exact ⟨ht.running_other hkg, hkg⟩
  have he := hothers (lone_modPort h) hbefore
  refine ⟨_, he, ?_⟩
  have hlone := (lone_modPort h).congr he.ports
  have hqe := (congrArg Group.qualified (he.group g rfl)).trans hq
  rw [framePinned, foldl_portFrame_lone h hoff, hsplit, List.foldl_append, List.foldl_cons]
  exact hothers (hlone.congr (pinsOnly_pinFrames hlone hqe o).ports) hafter

/-- The frame of the only running port, part by part. -/
theorem LonePort.frame (h : LonePort s n g) (o : AudFrameObs) : ∃ mics a b e u, LoneFrame s o n g mics a b e u := by
  have hg : g.val < 4 := h.clock ▸ s.aud.ports[n].clksrc.isLt
  have hexec := exec_audFrame o s
  rw [frameBounded_settled h.settled h.pdmNext] at hexec
  have hopen := frameOpen_decided o s g
  generalize frameDecided (clocksCounted o s) = d at hexec hopen
  have hpdm : d.aud.pdmEn = 0 := by rw [hopen.rest]; exact h.pdmOff
  have hstreams : d.aud.streams = s.aud.streams := by rw [hopen.rest]
  obtain ⟨a, hda, hgrouped⟩ := frameGrouped_lone (hopen.lone h.lone) hg (hopen.qualified h.qualified) hpdm
  rw [hstreams] at hgrouped
  generalize d.micFrame.2 = mics at hgrouped
  generalize frameGrouped d = c at hexec hgrouped
  have hbegins := hopen.groupsOnly hda
  have ha := hbegins.lone h.lone
  have haq := hbegins.qualified h.qualified
  have hcaptured := queuesOnly_groupFrame (outs := s.aud.streams.map Stream.out) (mics := mics) ha haq
  have hmove := groupFrame_lone (outs := s.aud.streams.map Stream.out) (mics := mics) ha haq
  generalize a.groupFrame (s.aud.streams.map Stream.out) mics g = b at hgrouped hcaptured hmove
  have hlone : Lone c n g := (ha.congr hcaptured.ports).congr hgrouped.ports
  have hcq : c.aud.groups[g].qualified = true := by
    rw [hgrouped.group g rfl, hcaptured.groups, modGroup_same]
    exact haq
  have hoff : c.aud.queues[(Fin.ofNat 12 (8 + n.val) : Fin 12)].en = false := by
    rw [hgrouped.rest, hcaptured.en, modGroup_aud, hbegins.rest]
    exact h.playOff
  obtain ⟨e, hpins, hend⟩ := framePinned_lone hlone hg hcq hoff o
  generalize framePinned o c = v at hexec hend
  have helone := (lone_modPort hlone).congr hpins.ports
  have heq : e.aud.groups[g].qualified = true := by rw [hpins.group g rfl]; exact hcq
  have hpin := pinsOnly_pinFrames helone heq o
  refine ⟨mics, a, b, e, frameEnded o v, ?_⟩
  exact
    { exec := hexec, begins := hbegins, move := hmove, captured := hcaptured, lone := helone
      pinGroup := (hpins.group g rfl).trans (hgrouped.group g rfl)
      pinPort := by rw [hpins.ports, modPort_same, hgrouped.ports]
      pinOut := by rw [hpins.rest, modPort_aud, hgrouped.rest]
      mem := by rw [frameEnded_mem, hend.rest, hpin.rest, hpins.rest, modPort_mem, hgrouped.rest]
      queues := by rw [frameEnded_queues, hend.rest, hpin.rest, hpins.rest, modPort_aud, hgrouped.rest]
      groupEnd := by rw [frameEnded_group hg, hend.group g rfl]
      txOut := by rw [frameEnded_txOut, hend.rest] }

end Whole

end Sys2Proof.Proofs
end

section
/-!
SUPPORT. The statement about internal frames (R273 to R290): what a frame of the only running port leaves in its slip line, at its pins and in
its capture queue.
-/

namespace Sys2Proof.Proofs

open Sys2Proof Sys2Proof.Machine Sys2Proof.Laws

variable {s : State} {n : Fin 4} {g : Fin 5} {o : AudFrameObs} {mics : Vector W 8} {a b e u : State}

/-! ### One step of a slip line (R279) -/

section Step

/-- The frame that enters a slip line. -/
def lineEntry (x : Group) (k : W) (tx : TxFrame) : LineFrame :=
  { n := k, energy := frameEnergy tx (x.rxFifo.headD []), tx := tx, rx := x.rxFifo.headD [] }

/-- What a frame that leaves gives the transmit FIFO under a slip. -/
def slipSent (slip : Option Bool) (tx : TxFrame) : List TxFrame :=
  if slip = none then [tx] else if slip = some false then [tx, tx] else []

theorem slipSent_length (slip : Option Bool) (tx : TxFrame) : (slipSent slip tx).length ≤ 2 := by
  unfold slipSent
  split_ifs <;> simp

theorem step_line (x : Group) (k : W) (tx : TxFrame) : (x.step k tx).1.line = (x.line ++ [lineEntry x k tx]).drop 1 := rfl

variable {x : Group} {f : LineFrame} {l : List LineFrame}

theorem step_oldest (h : x.line = f :: l) (k : W) (tx : TxFrame) : (x.step k tx).2 = f := by
  simp only [Group.step, h, List.cons_append, List.headD_cons]

theorem step_txFifo (h : x.line = f :: l) (k : W) (tx : TxFrame) :
    (x.step k tx).1.txFifo = (x.txFifo ++ slipSent x.slipNow f.tx).take 16 := by
  simp only [Group.step, h, List.cons_append, List.headD_cons, slipSent]
  cases x.slipNow with
  | none => rfl
  | some b => cases b <;> rfl

end Step

/-! ### What the parts of the frame say of the running port -/

section Facts

/-- The capture queue of a port (R290). -/
theorem captureQueue_eq (n : Fin 4) : Fin.ofNat 12 n.val = n.castLE (by decide : 4 ≤ 12) := ofNat_eq rfl

/-- The group behind its part of the frame. -/
theorem LoneFrame.groupE (h : LoneFrame s o n g mics a b e u) : e.aud.groups[g] = (groupPart s a n g mics).1 := by
  rw [h.pinGroup, h.captured.groups, modGroup_same]

theorem LoneFrame.groupPart_eq (h : LoneFrame s o n g mics a b e u) : groupPart s a n g mics =
    s.aud.groups[g].decide.step s.aud.frame [(n, a.txWords n (s.aud.streams.map Stream.out) mics)] := by
  have hframe : a.aud.frame = s.aud.frame := by rw [h.begins.rest]
  rw [groupPart, groupMove, h.begins.group, hframe]

theorem LoneFrame.qualified (h : LoneFrame s o n g mics a b e u) (hq : s.aud.groups[g].qualified = true) : e.aud.groups[g].qualified = true := by
  rw [h.groupE, h.groupPart_eq, decide_frame]
  exact hq

theorem LoneFrame.line (h : LoneFrame s o n g mics a b e u) (hq : s.aud.groups[g].qualified = true) : u.aud.groups[g].line =
    (s.aud.groups[g].line ++ [lineEntry s.aud.groups[g].decide s.aud.frame [(n, a.txWords n (s.aud.streams.map Stream.out) mics)]]).drop 1 := by
  rw [h.groupEnd, (pinsOnly_pinFrames h.lone (h.qualified hq) o).line, h.groupE, h.groupPart_eq, step_line]
  rw [decide_frame]

/-- The port at its pins has the masks and the width that it had. -/
theorem LoneFrame.portE (h : LoneFrame s o n g mics a b e u) : e.aud.ports[n].rx = s.aud.ports[n].rx ∧
    e.aud.ports[n].slots = s.aud.ports[n].slots ∧ e.aud.ports[n].width = s.aud.ports[n].width := by
  obtain ⟨w, c, hport⟩ := h.begins.port n
  have hb : b.aud.ports = a.aud.ports := h.captured.ports
  rw [h.pinPort, hb, hport]
  exact ⟨rfl, rfl, rfl⟩

theorem LoneFrame.txOutE (h : LoneFrame s o n g mics a b e u) (m : Fin 4) : e.aud.txOut[m] = [] := by
  have ha : a.aud.txOut = Vector.replicate 4 [] := by rw [h.begins.rest]
  rw [h.pinOut, h.captured.txOut, modGroup_aud, ha]
  exact Vector.getElem_replicate m.isLt

end Facts

/-! ### Into the slip line (R273 to R275, R279) -/

section Enters

/-- What the only running port puts into the slip line of its group. -/
theorem enters_slipLine (h : LonePort s n g) (hramp : s.aud.ports[n].ramp = none)
    (hoff : s.aud.queues[n.castLE (by decide : 4 ≤ 12)].en = false) (o : AudFrameObs) :
    ∃ (u : State) (e : LineFrame) (w : List (Option W)), exec (.audFrame o) s = .next u ∧
      u.aud.groups[g].line = (s.aud.groups[g].line ++ [e]).drop 1 ∧ e.n = s.aud.frame ∧ e.tx = [(n, w)] ∧
      e.rx = s.aud.groups[g].rxFifo.headD [] ∧ w.length = s.aud.ports[n].slots ∧ u.mem = s.mem ∧
      (∀ i : Nat, i < s.aud.ports[n].slots → s.aud.ports[n].tx.getLsbD i = false →
        w.getD i none = if s.aud.ports[n].format.getLsbD 4 then none else some 0) ∧
      (∀ (i : Nat) (k : Fin 32) (a b : W) (r : List (W × W)), i < s.aud.ports[n].slots → s.aud.ports[n].tx.getLsbD i = true →
        s.aud.streams[k].st = .playing → s.aud.streams[k].frames = (a, b) :: r →
        (s.aud.ports[n].slotmap.getD i 0xFF = byte (2 * k.val) → w.getD i none = some (roundSlot (widthBits s.aud.ports[n].width) a)) ∧
        (s.aud.ports[n].slotmap.getD i 0xFF = byte (2 * k.val + 1) →
          w.getD i none = some (roundSlot (widthBits s.aud.ports[n].width) b))) := by
  obtain ⟨mics, a, b, e, u, hf⟩ := h.frame o
  obtain ⟨w, c, hport⟩ := hf.begins.port n
  have hmem : u.mem = s.mem := by
    have hqueues : a.aud.queues = s.aud.queues := by rw [hf.begins.rest]
    have hdisabled : (a.modGroup g fun _ => (groupPart s a n g mics).1).aud.queues[(Fin.ofNat 12 n.val : Fin 12)].en = false := by
      rw [modGroup_aud, hqueues]
      exact (congrArg (fun q : Fin 12 => s.aud.queues[q].en) (captureQueue_eq n)).trans hoff
    rw [hf.mem, hf.move, capOut_disabled_mem hdisabled, modGroup_mem, hf.begins.rest]
  have hrx : s.aud.groups[g].decide.rxFifo = s.aud.groups[g].rxFifo := by rw [decide_frame]
  refine ⟨u, _, _, hf.exec, hf.line h.qualified, rfl, rfl, congrArg (List.headD · []) hrx, ?_, hmem, fun i hi htx => ?_,
    fun i k x y r hi htx hst hframes => ?_⟩
  · rw [txWords_length, hport]
  · rw [txWords_getD (by rw [hport]; exact hi), hport]
    exact if_neg (by rw [htx]; decide)
  · have hout : (s.aud.streams.map Stream.out)[k] = (x, y) := (Vector.getElem_map _ k.isLt).trans (out_playing hst hframes)
    have hactive : a.aud.ports[n].tx.getLsbD i = true := by rw [hport]; exact htx
    have hnoramp : a.aud.ports[n].ramp = none := by rw [hport]; exact hramp
    have hword := txWords_getD (s := a) (outs := s.aud.streams.map Stream.out) (mics := mics) (show i < a.aud.ports[n].slots by rw [hport]; exact hi)
    rw [if_pos hactive] at hword
    refine ⟨fun hsrc => ?_, fun hsrc => ?_⟩
    · rw [hword, slotWord_left (by rw [hport]; exact hsrc) hnoramp, hout, hport]
    · rw [hword, slotWord_right (by rw [hport]; exact hsrc) hnoramp, hout, hport]

end Enters

end Sys2Proof.Proofs
end

section
/-!
SUPPORT. The statement about internal frames (R273 to R290): a frame at the pins of the only running port, and what leaves its slip line on the
way to its capture queue.
-/

namespace Sys2Proof.Proofs

open Sys2Proof Sys2Proof.Machine Sys2Proof.Laws

variable {s : State} {n : Fin 4} {g : Fin 5} {o : AudFrameObs} {mics : Vector W 8} {a b e u : State}

/-! ### At the pins (R274, R275, R279) -/

section Pins

/-- What one frame at the pins of the only running port drives, takes from its FIFO and gives to it. -/
theorem frame_atPins (h : LonePort s n g) (hn : n.val = g.val) {x : ExtFrame} (ho : o.ports.getD n.val [] = [x]) {w : List (Option W)}
    {r : List TxFrame} {f : LineFrame} {l : List LineFrame} (htx : s.aud.groups[g].txFifo = [(n, w)] :: r)
    (hline : s.aud.groups[g].line = f :: l) (hr : r.length ≤ 13) :
    ∃ u : State, exec (.audFrame o) s = .next u ∧ u.aud.txOut[n] = [w] ∧
      u.aud.groups[g].txFifo = r ++ slipSent s.aud.groups[g].slipNow f.tx ∧
      u.aud.groups[g].rxFifo = (s.aud.groups[g].rxFifo.drop 1 ++ [[(n.castLE (by decide : 4 ≤ 12), s.aud.ports[n].rx,
        (activeSlots s.aud.ports[n].rx s.aud.ports[n].slots).map fun k => cutSlot (widthBits s.aud.ports[n].width) (x.rx.getD k 0))]]).take 16 ∧
      u.aud.groups[g].slipNow = none ∧ ∀ m : Fin 4, m ≠ n → u.aud.txOut[m] = [] := by
  obtain ⟨mics, a, b, e, u, hf⟩ := h.frame o
  obtain ⟨hgroup, hdriven, hothers⟩ := pinFrames_one hf.lone (hf.qualified h.qualified) hn ho
  have hmoved := hf.groupE.trans (congrArg Prod.fst hf.groupPart_eq)
  have hend := hf.groupEnd.trans hgroup
  obtain ⟨hrx, hslots, hwidth⟩ := hf.portE
  have hdecided : s.aud.groups[g].decide.line = f :: l := by rw [decide_frame]; exact hline
  have hsent := slipSent_length s.aud.groups[g].slipNow f.tx
  have hfifo : e.aud.groups[g].txFifo = [(n, w)] :: (r ++ slipSent s.aud.groups[g].slipNow f.tx) := by
    rw [hmoved, step_txFifo hdecided, decide_frame]
    change (s.aud.groups[g].txFifo ++ slipSent s.aud.groups[g].slipNow f.tx).take 16 = _
    rw [htx, List.cons_append]
    refine List.take_of_length_le ?_
    rw [List.length_cons, List.length_append]
    omega
  have hreceived : e.aud.groups[g].rxFifo = s.aud.groups[g].rxFifo.drop 1 := by
    rw [hmoved, decide_frame]
    rfl
  refine ⟨u, hf.exec, ?_, ?_, ?_, ?_, fun m hm => ?_⟩
  · rw [hf.txOut, hdriven, hf.txOutE, slotsSent, hfifo]
    simp
  · rw [hend]
    change e.aud.groups[g].txFifo.drop 1 = _
    rw [hfifo]
    rfl
  · rw [hend]
    change (e.aud.groups[g].rxFifo ++ [portReceives n e.aud.ports[n] x.rx]).take 16 = _
    rw [hreceived, portReceives, hrx, hslots, hwidth, captureQueue_eq]
  · rw [hend, framesPinned, quietCounted, hmoved]
    rfl
  · rw [hf.txOut, hothers m hm, hf.txOutE]

end Pins

/-! ### Into the capture queue (R279, R283, R290) -/

section Captured

variable {q : Fin 12}

/-- A received frame that is all of one queue's. -/
theorem capOut_frame (h : s.clk.lossInRun = false) (slip : Option Bool) (m mask : BitVec 16) (k : Nat) (ws : List W) :
    s.capOut q slip m k [(q, mask, ws)] = s.capSlip q slip mask ws := by
  simp [State.capOut, h]

/-- Where the words that leave the slip line of the only running port go. -/
theorem LoneFrame.capSlip (h : LoneFrame s o n g mics a b e u) (hq : q.val = n.val) (hloss : s.clk.lossInRun = false) {f : LineFrame}
    {l : List LineFrame} (hline : s.aud.groups[g].line = f :: l) {mask : BitVec 16} {ws : List W} (hrx : f.rx = [(q, mask, ws)]) :
    ∃ v : State, v.mem = s.mem ∧ v.aud.queues = s.aud.queues ∧ b = v.capSlip q s.aud.groups[g].slipNow mask ws := by
  have hqueue : Fin.ofNat 12 n.val = q := ofNat_eq hq.symm
  have hslip : a.aud.groups[g].slipNow = s.aud.groups[g].slipNow := by rw [h.begins.group, decide_frame]
  have hleaves : (groupPart s a n g mics).2.rx = [(q, mask, ws)] := by
    have hdecided : s.aud.groups[g].decide.line = f :: l := by rw [decide_frame]; exact hline
    rw [h.groupPart_eq, step_oldest hdecided, hrx]
  have hmove := h.move
  rw [hqueue, hslip, hleaves, capOut_frame (by rw [modGroup_clk, h.begins.rest]; exact hloss)] at hmove
  exact ⟨_, by rw [modGroup_mem, h.begins.rest], by rw [modGroup_aud, h.begins.rest], hmove⟩

variable {x : Queue} {f : LineFrame} {l : List LineFrame} {w : List W}

/-- Without a slip the words go to the queue's block in use. -/
theorem frame_captured (h : LonePort s n g) (hq : q.val = n.val) (hloss : s.clk.lossInRun = false)
    (hline : s.aud.groups[g].line = f :: l) (hrx : f.rx = [(q, x.mask, w)]) (hx : x = s.aud.queues[q]) (hen : x.en = true)
    (hst : x.st = .playing) (hblocks : x.blocks ≠ 0) (hpos : x.pos + 1 < x.p) (hslip : s.aud.groups[g].slipNow = none) :
    ∃ u : State, exec (.audFrame o) s = .next u ∧ u.aud.queues[q].pos = x.pos + 1 ∧ u.aud.queues[q].blocks = x.blocks ∧
      u.aud.queues[q].flags = x.flags ∧ u.mem =
        (s.store (x.addr.toNat + x.cur % x.b * (16 + 64 * x.p) + 16 + 4 * w.length * x.pos) (w.flatMap fun v => leBytes 4 v.toNat)).mem := by
  obtain ⟨mics, a, b, e, u, hf⟩ := h.frame o
  obtain ⟨v, hmem, hqueues, hmove⟩ := hf.capSlip hq hloss hline hrx
  have hxv : x = v.aud.queues[q] := by rw [hqueues]; exact hx
  have hnot4 : q.val ≠ 4 := by omega
  have haddr : x.blockAddr q 0 = x.addr.toNat + x.cur % x.b * (16 + 64 * x.p) := by
    rw [Queue.blockAddr, queueStride, if_neg hnot4, Nat.add_zero]
  have hb : b = v.capFrame q x.mask w := by rw [hmove, hslip]; rfl
  rw [capFrame_playing hxv hen hst hblocks hpos, haddr] at hb
  have hqueue : u.aud.queues[q] = framePassed (x.pos = 0) v.aud.frame x.mask x := by
    rw [hf.queues, hb, modQueue_same, store_aud, hxv]
  obtain ⟨hpos', hblocks', hflags'⟩ := framePassed_playing hst (x.pos = 0) v.aud.frame x.mask
  rw [← hqueue] at hpos' hblocks' hflags'
  exact ⟨u, hf.exec, hpos', hblocks', hflags', by rw [hf.mem, hb, modQueue_mem, store_mem, store_mem, hmem]⟩

/-- With a repeated transmit frame they are discarded and the block in use carries SLIP_DROP. -/
theorem frame_dropped (h : LonePort s n g) (hq : q.val = n.val) (hloss : s.clk.lossInRun = false)
    (hline : s.aud.groups[g].line = f :: l) (hrx : f.rx = [(q, x.mask, w)]) (hx : x = s.aud.queues[q])
    (hslip : s.aud.groups[g].slipNow = some false) :
    ∃ u : State, exec (.audFrame o) s = .next u ∧ u.aud.queues[q].pos = x.pos ∧ u.aud.queues[q].blocks = x.blocks ∧
      u.aud.queues[q].flags = x.flags ||| 8 ∧ u.mem = s.mem := by
  obtain ⟨mics, a, b, e, u, hf⟩ := h.frame o
  obtain ⟨v, hmem, hqueues, hmove⟩ := hf.capSlip hq hloss hline hrx
  have hb : b = v.blockFlag q 3 := by rw [hmove, hslip]; rfl
  have hqueue : u.aud.queues[q] = { x with flags := x.flags ||| 8 } := by
    rw [hf.queues, hb, State.blockFlag, modQueue_same, hqueues, hx]
    rfl
  exact ⟨u, hf.exec, by rw [hqueue], by rw [hqueue], by rw [hqueue], by rw [hf.mem, hb, State.blockFlag, modQueue_mem, hmem]⟩

end Captured

/-! ### With every port stopped (R273, R285) -/

section Stopped

/-- A frame with every port stopped advances the streams and the frame count. -/
theorem frame_stopped (hports : ∀ n : Fin 4, s.aud.ports[n].st = 0 ∧ s.aud.ports[n].nextMasks = [] ∧ s.aud.ports[n].nextMap = [] ∧
      s.aud.ports[n].starting = false ∧ s.aud.ports[n].stopping = false) (hnext : s.aud.pdmNext = []) (hpdm : s.aud.pdmEn = 0) (o : AudFrameObs) :
    ∃ u : State, exec (.audFrame o) s = .next u ∧ u.aud.frame = s.aud.frame + 1 ∧
      (∀ k : Fin 32, u.aud.streams[k] = s.aud.streams[k].advance) ∧ u.aud.ports = s.aud.ports ∧ u.aud.queues = s.aud.queues ∧
      (∀ n : Fin 4, u.aud.txOut[n] = []) ∧ u = { s with aud := u.aud } := by
  obtain ⟨t, ht, hexec⟩ := exec_audFrame_stopped (fun n => (hports n).1) (fun n => settled_stopped (hports n)) hnext hpdm o
  have hrest := ht.rest
  have hpdmFrames := (micsOnly_pdmFrames t.aud o.pdm).rest
  refine ⟨frameEnded o t, hexec, ?_, fun k => ?_, ?_, ?_, fun n => ?_, ?_⟩
  · change t.aud.frame + 1 = _
    rw [hrest]
    rfl
  · have hstreams : t.aud.streams = s.aud.streams := by rw [hrest]; rfl
    change (t.aud.streams.map Stream.advance)[k] = _
    rw [hstreams]
    exact Vector.getElem_map _ k.isLt
  · exact (congrArg AudBlk.ports hpdmFrames).trans (by rw [hrest]; rfl)
  · rw [frameEnded_queues, hrest]
    rfl
  · rw [frameEnded_txOut, hrest]
    exact Vector.getElem_replicate n.isLt
  · change { t with aud := _ } = _
    rw [hrest]
    rfl

/-- What a frame makes of a stream in each of its states. -/
theorem advance_of_state (t : Stream) : (t.st = .playing → t.advance = { t with frames := t.frames.drop 1 }) ∧
    (t.st = .silent → t.advance = { t with silenced := t.silenced + 1 }) ∧
    (t.st = .rampingUp → t.advance = { t with frames := t.frames.drop 1, fadePos := t.fadePos + 1 }) ∧
    (t.st = .fadingOut → t.fadePos + 1 < 48 * t.fade → t.advance = { t with frames := t.frames.drop 1, fadePos := t.fadePos + 1 }) ∧
    (t.st = .fadingOut → 48 * t.fade ≤ t.fadePos + 1 → t.advance =
      if t.closing then { t with st := .off, frames := [], closing := false, fadePos := 0 }
      else { t with frames := t.frames.drop 1, st := .silent, fadePos := 0 }) := by
  refine ⟨fun h => ?_, fun h => ?_, fun h => ?_, fun h hlate => ?_, fun h hend => ?_⟩
  · simp only [Stream.advance, h]
  · simp only [Stream.advance, h]
  · simp only [Stream.advance, h]
  · simp only [Stream.advance, h, if_neg hlate.not_ge]
  · simp only [Stream.advance, h, if_pos hend, Stream.faded]

end Stopped

/-! ### Slips carried out (R279, R280) -/

section Slips

/-- A slip whose frame leaves next is carried out, and sets its flag. -/
theorem slip_carriedOut {c : Bool} {i : W} (hslip : s.aud.groups[g].slip = some (c, i))
    (hhead : s.aud.groups[g].line.head?.map LineFrame.n = some i) : ∃ u : State, exec (.slipExecute g) s = .next u ∧
      u.aud = (s.modGroup g fun x => { x with slip := none, slipNow := some c }).aud ∧
      u.flags[slotAud] = s.flags[slotAud] ||| BitVec.ofNat 32 (2 ^ (8 + g.val)) ∧ u.svc = s.svc ∧ u.mem = s.mem := by
  refine ⟨_, exec_slipExecute_due hslip hhead, ?_⟩
  set v := ((s.modGroup g fun x => { x with slip := none, slipNow := some c }).bump (0xB000 + 4 * g.val) 1).setFlag slotAud (8 + g.val)
  have hrest := rest_raiseLimited (s := v) 64 g.val (b01 c) (BitVec.ofNat 32 (leNat (ppmBytes s.aud.groups[g].ppm))) 1
  refine ⟨(rest_aud_eq hrest).trans rfl, ?_, (rest_svc_eq hrest).trans rfl, (rest_mem_eq hrest).trans rfl⟩
  rw [rest_flags_eq hrest]
  exact upd_same s.flags slotAud _

end Slips

/-! ### The statement -/

/-- Settles O50: the parts of the frame follow each other, and each leaves alone what the others act on. -/
theorem audioFramesMove : Obligations.AudioFramesMove := by
  unfold Obligations.AudioFramesMove
  refine ⟨fun s o hports hnext hpdm => frame_stopped hports hnext hpdm o, advance_of_state, ?_, ?_, ?_, fun x a b e => decide_slip,
    fun s g b i => slip_carriedOut, fun s g => exec_slipExecute_none⟩
  · intro s n g o hst hmasks hmaps hstop hstart hclk hq hnext hpdm hplay hramp hoff hothers
    exact enters_slipLine ⟨hst, hmasks, hmaps, hstop, hstart, hclk, hq, hnext, hpdm, hplay, hothers⟩ hramp hoff o
  · intro s n g o x w r e l hst hmasks hmaps hstop hstart hclk hq hnext hpdm hplay hn hothers ho
    exact frame_atPins ⟨hst, hmasks, hmaps, hstop, hstart, hclk, hq, hnext, hpdm, hplay, hothers⟩ hn ho
  · intro s n g q o x e l w hqn hst hmasks hmaps hstop hstart hclk hq hnext hpdm hplay hothers hloss hline hrx hx hen hplays hblocks hpos
    have h : LonePort s n g := ⟨hst, hmasks, hmaps, hstop, hstart, hclk, hq, hnext, hpdm, hplay, hothers⟩
    exact ⟨frame_captured h hqn hloss hline hrx hx hen hplays hblocks hpos, frame_dropped h hqn hloss hline hrx hx⟩

end Sys2Proof.Proofs
end
